-- ==== Sys2Proof/Word.lean ====
section
/-!
DEFINITION. The word types of the SV-720 model and the plain names the spec gives to things that a command may
carry: block types (R38), the writer of a register (R33, R46), access codes (R9).
-/
namespace Sys2Proof

/-- A 32-bit register word (R36). -/
abbrev Word := BitVec 32

/-- A byte of memory. -/
abbrev Byte := BitVec 8

/-- The block types that have register pages (R34, R38). -/
inductive Blk where
  | mcc | aon | boot | sec | pwr | thm | clk | spr | mgt
  | dlr | hif | pge | ctu
  | mt | ae | ew | shf | xr | smp | uc
  | tbl | mem | tier | bvl | bvf | ce | dma
  deriving DecidableEq, Repr

/-- Who writes a register: the physical function, virtual function p, the management port, or the MCC (R33, R46, R592). -/
inductive Src where
  | pf
  | vf (p : Nat)
  | mgmt
  | mcc
  deriving DecidableEq, Repr

/-- Access codes of register fields (R9). -/
inductive Acc where
  | ro | rw | rwx | w1c | w1s | rc | wo | rwt
  deriving DecidableEq, Repr

/-- Where a register field's reset value comes from (R11): a constant, the Crever image with a factory default (`first`: for
index 0, and 0 for the others), a value fused at module test, or the SEAT straps. -/
inductive Rst where
  | const (n : Nat)
  | image (n : Nat)
  | first (n : Nat)
  | fuse
  | straps
  deriving DecidableEq, Repr

/-- How far one write of a field reaches: its own page, every page of the block, or the pages of one utility-core cluster (R239, R261). -/
inductive Reach where
  | page | wide | cluster
  deriving DecidableEq, Repr

/-- A register field, or an array of like fields (`stride` bytes apart, `count` of them), as its chapter's table gives it. -/
structure Field where
  off : Nat
  lo : Nat
  width : Nat
  acc : Acc
  rst : Rst
  stride : Nat := 0
  count : Nat := 1
  reach : Reach := .page
  /-- inclusive bounds to which other written values are clamped -/
  clamp : Option (Nat × Nat) := none
  /-- written values are rounded down to a multiple of this -/
  grain : Nat := 1
  /-- writable only through the management port -/
  mgmtOnly : Bool := false
  deriving DecidableEq, Repr

/-- A physical unit: a block type and a physical instance number (R12). -/
structure UnitId where
  blk : Blk
  ix : Nat
  deriving DecidableEq, Repr

/-- What an entry of a step is (R100). -/
inductive EntryKind where
  | decode | chunk | last
  deriving DecidableEq, Repr

/-- An entry of a step (R100). -/
structure Entry where
  slot : Nat
  kind : EntryKind
  pos : Nat
  nrows : Nat
  deriving DecidableEq, Repr

/-- A step header or replay header (R355, R366). -/
structure Header where
  number : Nat
  prev : Option Nat
  attempt : Nat
  pslot : Nat
  maxSeqs : Nat
  maxRows : Nat
  planGroup : Nat
  /-- the group fields: GROUP_SIZE, LEAD_INDEX, c, B, SLOT_COUNT and the member bytes, as one number -/
  group : Nat
  entries : List Entry
  replay : Bool
  /-- the replay follows a Dealer failover (R367) -/
  failover : Bool
  deriving DecidableEq, Repr

/-- A follower's answer to a header (R355). -/
inductive Answer where
  | ready
  | refused (need : Nat)
  | mismatch (byGroup : Bool)
  deriving DecidableEq, Repr

/-- What a commit carries for one slot (R356): L' and the retire flag. -/
structure SlotCommit where
  slot : Nat
  newLen : Nat
  retire : Bool
  deriving DecidableEq, Repr

/-- What the unit's own hardware adds to a lane as it runs (the lane's data aside): an error inside the command, as the status it
ends with, and how many errors its ECC corrected. -/
structure LaneEv where
  err : Option Nat
  corrected : Nat
  deriving DecidableEq, Repr

/-- What a kernel's instructions do outside its core until it ends: stores it has drained and lines it has loaded, by core address
(R223, R231). -/
structure KernelIo where
  stores : List (Nat × List Byte)
  loads : List (Nat × Nat)
  deriving DecidableEq, Repr

/-- A ring whose records are coalesced into interrupts (R387). -/
inductive RingId where
  | tok (p : Nat) | evt (p : Nat) | module
  deriving DecidableEq, Repr

/-- Why port H goes down (R393). -/
inductive PortHCause where
  | linkFailure | hotReset | pfFlr
  deriving DecidableEq, Repr

/-- A Benvo packet (R423, R424): the header's fields, bytes 16 to 31 of the header flit, and the payload. -/
structure Pkt where
  dst : Nat
  src : Nat
  tc : Nat
  epoch : Nat
  hops : Nat
  poison : Bool
  part : Nat
  kind : Nat
  tag : Nat
  tagPort : Nat
  abort : Bool
  flow : Nat
  addr : Nat
  extra : Nat
  data : List Byte
  deriving DecidableEq, Repr

/-- A request at a Table bank (R248, R252, R254): input port, class, operation (0 read, 1 write, 2 AMO, 3 LR, 4 SC), the
requesting core, its partition, Table offset, bytes, data of a write or operand of an AMO (its operation in `amo`, in the order
swap, add, xor, and, or, min, max, minu, maxu), poison flag; and the bytes of its data that a write leaves as they are, one bit each. -/
structure TblReq where
  port : Nat
  cls : Nat
  op : Nat
  amo : Nat
  core : Nat
  part : Nat
  off : Nat
  len : Nat
  data : List Byte
  poison : Bool
  keep : Nat
  deriving DecidableEq, Repr

/-- What the devices behind a memory controller or a tier port do in one access: attempts of its
read and of its write that fail, times the tag fails, corrections reported, whether the line that holds the tag or the poison bit has an
uncorrectable error, the poison bit of a completion, and whether the completion does not come (yet). -/
structure MemEv where
  fails : Nat
  wfails : Nat
  tagFails : Nat
  corrected : Nat
  tagUe : Bool
  bitmapUe : Bool
  poison : Bool
  late : Bool
  deriving DecidableEq, Repr

/-- What a temperature sample comes from (R524). -/
inductive Sensor where
  | tile (i : Nat)
  | cluster (c : Nat)
  | die (d : Nat)
  | device (i : Nat)
  deriving DecidableEq, Repr

/-- What the limiter measures in one loop (R512, R514), in W: averages of input power over 10 µs and 1 ms, the predicted 1 ms
average, P_shared, the power attributed to each partition; and the energy since the last loop in mJ. -/
structure PowerSample where
  p10us : Nat
  p1ms : Nat
  predicted : Nat
  rails : Nat
  shared : Nat
  parts : List Nat
  energy : Nat
  deriving DecidableEq, Repr

/-- What a start reads from a verified Crever image (R546 to R548): IMAGE_ID, RAISE_SVN, the SVNs of MCC_FW, ENGINE_FW and UC_RT, the
lengths of ENGINE_FW and UC_RT in bytes, the digests of R493 (MCC_FW, ENGINE_FW, UC_RT, CONFIG), and the configuration
records: page, offset word, mask, value. -/
structure ImageFacts where
  id : List Byte := []
  raise : Bool := false
  svns : List Nat := [0, 0, 0]
  engineLen : Nat := 0
  ucLen : Nat := 0
  digests : List (List Byte) := []
  cfg : List (Nat × Nat × Nat × Nat) := []
  deriving DecidableEq, Repr

/-- How a start-up stage ends (R540, R543): a fatal reason if any, DETAIL of a failed record, its duration in µs, the units that fail
training or self-test, average input power over the last millisecond, and the image that stage 1 reads. -/
structure StageEv where
  fatal : Option Nat
  detail : Nat
  dur : Nat
  failed : List UnitId
  p1ms : Nat
  image : ImageFacts
  deriving DecidableEq, Repr

end Sys2Proof
end

