-- ==== Sys2Proof/Syntax.lean ====
section
/-!
DEFINITION. The commands of the block, one constructor for each row of spec/opcode_table.json, in the table's order, with the
operands each carries: the writer and the value of a register write, what a message carries, what the world outside answers.
-/
namespace Sys2Proof

/-- The commands. -/
inductive Instr where
  /-- REGISTER_WRITE (R32) -/
  | registerWrite (src : Src) (addr size data : Nat)
  /-- RWT_WRITE (R9) -/
  | rwtWrite (src : Src) (addr size data : Nat)
  /-- CTRL_ENABLE_CLEAR (R44) -/
  | ctrlEnableClear (u : UnitId) (src : Src)
  /-- CTRL_ENABLE_SET (R43) -/
  | ctrlEnableSet (u : UnitId) (src : Src)
  /-- CTRL_FREEZE (R40) -/
  | ctrlFreeze (u : UnitId) (src : Src) (on : Bool)
  /-- CTRL_FORCE (R44) -/
  | ctrlForce (u : UnitId) (src : Src)
  /-- CTRL_EXPERT_EN (R46) -/
  | ctrlExpertEn (u : UnitId) (src : Src)
  /-- UNIT_DRAIN_COMPLETE (R43) -/
  | unitDrainComplete (u : UnitId)
  /-- BREAK_POINT_ABORT (R91) -/
  | breakPointAbort (u : UnitId)
  /-- UNIT_FAULT (R43) -/
  | unitFault (u : UnitId)
  /-- IRQ_STATUS_CLEAR (R45) -/
  | irqStatusClear (u : UnitId) (src : Src) (mask : Nat)
  /-- IRQ_FORCE (R45) -/
  | irqForce (u : UnitId) (src : Src) (mask : Nat)
  /-- ERR_LOG_READ (R45) -/
  | errLogRead (u : UnitId) (src : Src)
  /-- SNAPSHOT (R639) -/
  | snapshot (u : UnitId) (src : Src)
  /-- CLEAR (R639) -/
  | clear (u : UnitId) (src : Src) (withSnapshot : Bool)
  /-- PLAN_LOAD (R98) -/
  | planLoad (src : Src) (part pslot : Nat)
  /-- PLAN_UNLOAD (R98) -/
  | planUnload (src : Src) (part pslot : Nat)
  /-- PLAN_UNLOAD_DONE (R98) -/
  | planUnloadDone (part pslot : Nat)
  /-- STEP_FORM (R349) -/
  | stepForm (part : Nat)
  /-- STEP_HEADER (R355) -/
  | stepHeader (part : Nat) (hdr : Header)
  /-- STEP_ANSWER (R355) -/
  | stepAnswer (part member : Nat) (ans : Answer)
  /-- STEP_START (R355) -/
  | stepStart (part : Nat)
  /-- TEMPLATE_ISSUE (R86) -/
  | templateIssue (part tmpl : Nat)
  /-- TEMPLATE_SKIP (R85) -/
  | templateSkip (part tmpl : Nat)
  /-- LANE_ISSUE (R86) -/
  | laneIssue (part tmpl lane : Nat)
  /-- LANE_COMPLETE (R83) -/
  | laneComplete (u : UnitId)
  /-- NOP (R101) -/
  | nop (part tmpl : Nat)
  /-- STEP_END (R101) -/
  | stepEnd (part resAddr : Nat)
  /-- VOTE_RECEIVED (R356) -/
  | voteReceived (part member step attempt : Nat) (poison : Option (Nat × Nat)) (uncounted : Bool) (resAddr : Nat)
  /-- COMMIT_RECEIVED (R356) -/
  | commitReceived (part step : Nat) (slots : List SlotCommit) (resAddr : Nat)
  /-- TOKEN_WRITE (R356) -/
  | tokenWrite (part : Nat)
  /-- VOTE_TIMEOUT (R364) -/
  | voteTimeout (part : Nat)
  /-- RQ0_DOORBELL (R383) -/
  | rq0Doorbell (src : Src) (part value : Nat)
  /-- RQ1_DOORBELL (R383) -/
  | rq1Doorbell (src : Src) (part value : Nat)
  /-- REQUEST_DESCRIPTOR (R346) -/
  | requestDescriptor (part : Nat) (bytes : Option (List Byte))
  /-- ABORT_DESCRIPTOR (R361) -/
  | abortDescriptor (part : Nat) (bytes : Option (List Byte))
  /-- ADMIT (R348) -/
  | admitRequest (part : Nat)
  /-- ADMISSION_RECORD (R348) -/
  | admissionRecord (part : Nat) (slots resumed : List Nat) (desc : List Byte)
  /-- ADMISSION_ACK (R348) -/
  | admissionAck (part member slot : Nat)
  /-- TOK_HEAD_WRITE (R385) -/
  | tokHeadWrite (src : Src) (part value : Nat)
  /-- EVT_HEAD_WRITE (R385) -/
  | evtHeadWrite (src : Src) (part value : Nat)
  /-- HIF_STATUS_CLEAR (R376) -/
  | hifStatusClear (src : Src) (part mask : Nat)
  /-- RINGS_ENABLE (R392) -/
  | ringsEnable (src : Src) (part : Nat)
  /-- RINGS_DISABLE (R392) -/
  | ringsDisable (src : Src) (part : Nat)
  /-- MEVT_ENABLE (R396) -/
  | mevtEnable (src : Src)
  /-- MEVT_HEAD_WRITE (R396) -/
  | mevtHeadWrite (src : Src) (value : Nat)
  /-- COAL_TIMEOUT (R387) -/
  | coalTimeout (ring : RingId)
  /-- VF_FLR (R392) -/
  | vfFlr (p : Nat)
  /-- NUMVFS_WRITE (R375) -/
  | numvfsWrite (n : Nat)
  /-- PORT_H_DOWN (R393) -/
  | portHDown (cause : PortHCause)
  /-- CXL_MEM_READ (R389) -/
  | cxlMemRead (w : Nat) (ev : MemEv)
  /-- CXL_MEM_WRITE (R389) -/
  | cxlMemWrite (w : Nat) (data : List (Option Byte)) (poison : Bool) (ev : MemEv)
  /-- IDENTIFY_MEMORY_DEVICE (R373) -/
  | identifyMemoryDevice (src : Src)
  /-- GET_SUPPORTED_LOGS (R373) -/
  | getSupportedLogs (src : Src)
  /-- TABLE_ACCESS (R374) -/
  | tableAccess (src : Src)
  /-- DISCOVERY (R373) -/
  | discovery (src : Src) (ix : Nat)
  /-- GET_VERSION (R491) -/
  | getVersion (via : Src)
  /-- GET_CAPABILITIES (R491) -/
  | getCapabilities (via : Src) (size : Nat)
  /-- NEGOTIATE_ALGORITHMS (R491) -/
  | negotiateAlgorithms (via : Src) (asym hash dhe aead : Nat)
  /-- GET_DIGESTS (R491) -/
  | getDigests (via : Src)
  /-- GET_CERTIFICATE (R490) -/
  | getCertificate (via : Src) (slot offset len : Nat)
  /-- CHALLENGE (R491) -/
  | challenge (via : Src) (slot : Nat) (nonce : List Byte)
  /-- GET_MEASUREMENTS (R492) -/
  | getMeasurements (via : Src) (index : Nat) (signed : Bool) (nonce : List Byte)
  /-- KEY_EXCHANGE (R491) -/
  | keyExchange (via : Src)
  /-- FINISH (R491) -/
  | finish (via : Src) (id : Nat)
  /-- SPDM_HEARTBEAT (R491) -/
  | spdmHeartbeat (via : Src) (id : Nat)
  /-- KEY_UPDATE (R491) -/
  | keyUpdate (via : Src) (id : Nat)
  /-- END_SESSION (R491) -/
  | endSession (via : Src) (id : Nat)
  /-- CHUNK_GET (R491) -/
  | chunkGet (via : Src) (handle seq : Nat)
  /-- IDE_KM (R373) -/
  | ideKm (via : Src) (id stream : Nat) (on : Bool)
  /-- MT_MM (R109) -/
  | mtMm (u : UnitId) (ev : LaneEv)
  /-- MT_MM_CB (R109) -/
  | mtMmCb (u : UnitId) (ev : LaneEv)
  /-- MT_MM_GROUPED (R118) -/
  | mtMmGrouped (u : UnitId) (ev : LaneEv)
  /-- ATTN (R144) -/
  | attn (u : UnitId) (ev : LaneEv)
  /-- SUMMARISE (R147) -/
  | summarise (u : UnitId) (ev : LaneEv)
  /-- SCORE (R148) -/
  | score (u : UnitId) (ev : LaneEv)
  /-- PICK (R149) -/
  | pick (u : UnitId) (ev : LaneEv)
  /-- MERGE (R152) -/
  | merge (u : UnitId) (ev : LaneEv)
  /-- NORM (R172) -/
  | norm (u : UnitId) (ev : LaneEv)
  /-- ACT (R167) -/
  | act (u : UnitId) (ev : LaneEv)
  /-- GATED (R167) -/
  | gated (u : UnitId) (ev : LaneEv)
  /-- ADD (R167) -/
  | add (u : UnitId) (ev : LaneEv)
  /-- ROPE (R173) -/
  | rope (u : UnitId) (ev : LaneEv)
  /-- SHF_COPY (R178) -/
  | shfCopy (u : UnitId) (ev : LaneEv)
  /-- QUANT (R178) -/
  | quant (u : UnitId) (ev : LaneEv)
  /-- GATHER (R179) -/
  | gather (u : UnitId) (ev : LaneEv)
  /-- SCATTER (R180) -/
  | scatter (u : UnitId) (ev : LaneEv)
  /-- KV_WRITE (R181) -/
  | kvWrite (u : UnitId) (ev : LaneEv)
  /-- GATE (R188) -/
  | gate (u : UnitId) (ev : LaneEv)
  /-- DISPATCH (R189) -/
  | dispatch (u : UnitId) (ev : LaneEv)
  /-- SAMPLE (R204) -/
  | sample (u : UnitId) (ev : LaneEv)
  /-- RUN (R230) -/
  | run (u : UnitId) (ev : LaneEv)
  /-- EXIT (R231) -/
  | exit (u : UnitId) (a0 : Nat) (io : KernelIo) (ev : LaneEv)
  /-- TRACE (R230) -/
  | trace (u : UnitId) (word : Nat)
  /-- KERNEL_TRAP (R238) -/
  | kernelTrap (u : UnitId) (pc cause val : Nat) (io : KernelIo)
  /-- KERNEL_TIMEOUT (R233) -/
  | kernelTimeout (u : UnitId) (io : KernelIo)
  /-- DMA_COPY (R293) -/
  | dmaCopy (u : UnitId) (ev : LaneEv)
  /-- FILL (R293) -/
  | fill (u : UnitId) (ev : LaneEv)
  /-- PUSH (R296) -/
  | push (u : UnitId) (ev : LaneEv)
  /-- ALL_REDUCE (R466) -/
  | allReduce (u : UnitId)
  /-- REDUCE_SCATTER (R466) -/
  | reduceScatter (u : UnitId)
  /-- ALL_GATHER (R466) -/
  | allGather (u : UnitId)
  /-- BROADCAST (R466) -/
  | broadcast (u : UnitId)
  /-- BARRIER (R466) -/
  | barrier (u : UnitId)
  /-- ALL_TO_ALL (R469) -/
  | allToAll (u : UnitId)
  /-- ALLOC (R314) -/
  | alloc (u : UnitId)
  /-- PREFETCH (R334) -/
  | prefetch (u : UnitId)
  /-- PGE_LOOKUP (R310) -/
  | pgeLookup (part : Nat) (write : Bool) (qs : List (Nat × Nat × Nat))
  /-- PGE_RESERVE (R313) -/
  | pgeReserve (part : Nat)
  /-- MIG_START (R328) -/
  | migStart (part src : Nat)
  /-- MIG_COPY_DONE (R328) -/
  | migCopyDone (part src : Nat) (readFailed : Bool)
  /-- FORWARD_REWRITE (R328) -/
  | forwardRewrite (part slot : Nat)
  /-- SUMMARY_RECOMPUTE (R318) -/
  | summaryRecompute (part slot n : Nat)
  /-- PGE_SWEEP (R332) -/
  | pgeSweep (part : Nat)
  /-- TABLE_REQUEST (R248) -/
  | tableRequest (r : TblReq)
  /-- BURST_COMPLETE (R255) -/
  | burstComplete (u : UnitId)
  /-- TABLE_SCRUB (R253) -/
  | tableScrub (u : UnitId) (aged : List (Nat × Bool))
  /-- TBL_INJECT_CE (R261) -/
  | tblInjectCe (u : UnitId) (src : Src)
  /-- TBL_INJECT_UE (R261) -/
  | tblInjectUe (u : UnitId) (src : Src)
  /-- BANK_SPARE_COPY (R259) -/
  | bankSpareCopy (u : UnitId) (unreadable : List Nat)
  /-- MEM_READ (R274) -/
  | memRead (off n : Nat) (ev : MemEv)
  /-- MEM_WRITE (R271) -/
  | memWrite (off : Nat) (d : List Byte) (pois : Bool) (ev : MemEv)
  /-- MEM_PATROL (R274) -/
  | memPatrol (u : UnitId) (bad : List (Nat × Bool)) (corrected : Nat)
  /-- MEM_RECENTRE (R267) -/
  | memRecentre (u : UnitId) (failed : Bool)
  /-- MEM_SPARE_COPY (R277) -/
  | memSpareCopy (u : UnitId) (unreadable : List Nat) (upto : Nat)
  /-- MEM_INJECT_EDC (R286) -/
  | memInjectEdc (u : UnitId) (src : Src)
  /-- MEM_INJECT_TAG (R286) -/
  | memInjectTag (u : UnitId) (src : Src)
  /-- TIER_READ (R284) -/
  | tierRead (off n : Nat) (ev : MemEv)
  /-- TIER_WRITE (R284) -/
  | tierWrite (off : Nat) (d : List Byte) (pois : Bool) (ev : MemEv)
  /-- TIER_TIMEOUT (R285) -/
  | tierTimeout (off n : Nat)
  /-- TIER_DOWN (R285) -/
  | tierDown (port : Nat)
  /-- TIER_INJECT_TAG (R289) -/
  | tierInjectTag (u : UnitId) (src : Src)
  /-- REMOTE_REQUEST (R391) -/
  | remoteRequest (p : Pkt)
  /-- REMOTE_RESPONSE (R296) -/
  | remoteResponse (p : Pkt)
  /-- TC2_TIMEOUT (R435) -/
  | tc2Timeout (port tag : Nat)
  /-- PUSH_RECEIVE (R296) -/
  | pushReceive (p : Pkt)
  /-- PUSH_ACK (R296) -/
  | pushAck (node cls seq : Nat) (refused : Bool)
  /-- PEER_DETECT (R408) -/
  | peerDetect (port : Nat)
  /-- TRAINING_COMPLETE (R408) -/
  | trainingComplete (port txFailed rxFailed : Nat) (locked : Bool)
  /-- DATA_BLOCK (R405) -/
  | dataBlock (port seq : Nat) (pkts : List Pkt) (fixed : List (List Nat))
  /-- BAD_SLOT (R405) -/
  | badSlot (port uncorrectable : Nat)
  /-- IDLE (R403) -/
  | idle (port next : Nat)
  /-- NAK (R406) -/
  | nak (port next : Nat)
  /-- REPLAY_BLOCK (R405) -/
  | replayBlock (port next seq : Nat)
  /-- RETRAIN (R409) -/
  | retrain (port next : Nat)
  /-- GOODBYE (R412) -/
  | goodbye (port : Nat)
  /-- NAK_REPEAT_TIMEOUT (R405) -/
  | nakRepeatTimeout (port : Nat)
  /-- ACK_TIMEOUT (R406) -/
  | ackTimeout (port : Nat)
  /-- RETRY_LIMIT (R409) -/
  | retryLimit (port : Nat)
  /-- LOSS_OF_SIGNAL (R411) -/
  | lossOfSignal (port mask : Nat)
  /-- SER_SWAP (R409) -/
  | serSwap (port lane rate : Nat)
  /-- CMD_RETRAIN (R409) -/
  | cmdRetrain (port : Nat) (src : Src)
  /-- RETRAIN_COMPLETE (R409) -/
  | retrainComplete (port txFailed rxFailed peerNext : Nat)
  /-- RECOVER_MAX (R410) -/
  | recoverMax (port : Nat)
  /-- DOWN_RETRY (R408) -/
  | downRetry (port : Nat)
  /-- INJECT_LANE_FAIL (R414) -/
  | injectLaneFail (port : Nat) (src : Src) (mask : Nat)
  /-- INJECT_BAD_SLOT (R414) -/
  | injectBadSlot (port : Nat) (src : Src)
  /-- HELLO_TIMER (R419) -/
  | helloTimer (port : Nat)
  /-- HELLO (R419) -/
  | hello (port node peerPort suits nstate : Nat)
  /-- HELLO_STALE (R419) -/
  | helloStale (port : Nat)
  /-- KEEPALIVE_TIMER (R422) -/
  | keepaliveTimer
  /-- KEEPALIVE (R422) -/
  | keepalive (node nstate : Nat)
  /-- NODE_TIMEOUT (R422) -/
  | nodeTimeout (node : Nat)
  /-- PACKET_ROUTE (R433) -/
  | packetRoute (port : Option Nat) (tc hops : Nat) (rsp : Bool) (full : Nat)
  /-- LOSS (R435) -/
  | loss (p : Pkt) (reason : Nat)
  /-- MARK (R439) -/
  | mark (port tc level : Nat)
  /-- ROUTE_WRITE (R437) -/
  | routeWrite (src : Src) (ver node value : Nat)
  /-- TELEM_TIMER (R443) -/
  | telemTimer
  /-- TELEM_SEL (R446) -/
  | telemSel (r : Nat) (src : Src) (port : Nat)
  /-- INJECT_LOSS (R445) -/
  | injectLoss (r : Nat) (src : Src)
  /-- COLL_CHUNK (R464) -/
  | collChunk (p : Pkt)
  /-- READY (R458) -/
  | ready (g node gen sq : Nat)
  /-- COUNTS (R469) -/
  | counts (g node gen sq : Nat) (nums : List Nat)
  /-- NAK_CHUNK (R464) -/
  | nakChunk (g node gen sq ph ch : Nat)
  /-- DIGEST (R473) -/
  | digest (g node gen sq sent result flags : Nat)
  /-- CANCEL (R475) -/
  | cancel (g node gen sq : Nat)
  /-- LOST (R477) -/
  | lost (g node mask : Nat)
  /-- REFORM (R479) -/
  | reform (g node gen mask : Nat)
  /-- REFORM_ACK (R479) -/
  | reformAck (g node gen : Nat)
  /-- REFORM_DONE (R479) -/
  | reformDone (g node gen : Nat)
  /-- CREDIT (R465) -/
  | credit (g node pool n : Nat)
  /-- COLLECTIVE_TIMEOUT (R480) -/
  | collectiveTimeout (g : Nat)
  /-- CE_INJECT_CRC (R485) -/
  | ceInjectCrc (u : UnitId) (src : Src)
  /-- CE_INJECT_DIGEST (R485) -/
  | ceInjectDigest (u : UnitId) (src : Src)
  /-- SESSION_OPEN (R500) -/
  | sessionOpen (src : Src) (part : Nat)
  /-- SESSION_CLOSE (R500) -/
  | sessionClose (src : Src) (part : Nat)
  /-- IMPORT_BEGIN (R501) -/
  | importBegin (src : Src) (part wrap bundle : Nat)
  /-- IMPORT_RUN (R500) -/
  | importRun (src : Src) (part list count : Nat)
  /-- IMPORT_END (R500) -/
  | importEnd (src : Src) (part : Nat)
  /-- IMPORT_ABORT (R500) -/
  | importAbort (src : Src) (part : Nat)
  /-- UNSEAL (R500) -/
  | unsealCmd (src : Src) (part : Nat)
  /-- SCRUB_COMPLETE (R500) -/
  | scrubComplete (part : Nat)
  /-- DEBUG_CHALLENGE (R500) -/
  | debugChallenge (src : Src) (part : Nat)
  /-- DEBUG_UNLOCK (R505) -/
  | debugUnlock (src : Src) (part arg0 : Nat)
  /-- LIMITER_TICK (R512) -/
  | limiterTick (m : PowerSample)
  /-- FAST_LIMIT (R510) -/
  | fastLimit (p10us : Nat)
  /-- HOST_CAP_WRITE (R511) -/
  | hostCapWrite (src : Src) (watts : Nat)
  /-- THROT_ASSERT (R518) -/
  | throtAssert
  /-- THROT_RELEASE (R518) -/
  | throtRelease
  /-- RAMP_MODE_ASSERT (R519) -/
  | rampModeAssert (p1ms : Nat)
  /-- RAMP_MODE_RELEASE (R519) -/
  | rampModeRelease
  /-- SYNC_TICK (R620) -/
  | syncTick (elapsed p1ms : Nat)
  /-- SYNC_LOST (R519) -/
  | syncLost
  /-- PHASE_PRESET (R517) -/
  | phasePreset (part phase : Nat)
  /-- DROOP (R520) -/
  | droop (u : UnitId) (cycles : Nat)
  /-- GATE_IDLE (R521) -/
  | gateIdle (u : UnitId)
  /-- UNIT_WAKE (R522) -/
  | unitWake (u : UnitId)
  /-- PARK_CMD (R523) -/
  | parkCmd (src : Src)
  /-- PARK_AUTO (R523) -/
  | parkAuto
  /-- WAKE_CMD (R523) -/
  | wakeCmd (src : Src)
  /-- WAKE_COMPLETE (R523) -/
  | wakeComplete
  /-- THERMAL_SAMPLE (R525) -/
  | thermalSample (x : Sensor) (temps : List Nat) (pUnit pDie : Nat)
  /-- THERMAL_CAP_TICK (R525) -/
  | thermalCapTick
  /-- THERMAL_STOP (R526) -/
  | thermalStop
  /-- COOLANT_LOSS (R527) -/
  | coolantLoss
  /-- COLD_PLATE_CHECK (R530) -/
  | coldPlateCheck (inlet outlet rise watts : Nat)
  /-- CURRENT_CHECK (R531) -/
  | currentCheck (rails watts : Nat)
  /-- SENSOR_FLOOR_EXPIRY (R532) -/
  | sensorFloorExpiry (src : Nat)
  /-- POWER_CONTROL_LOST (R587) -/
  | powerControlLost
  /-- MOD_RST_ASSERT (R539) -/
  | modRstAssert
  /-- MOD_RST_RELEASE (R539) -/
  | modRstRelease (coolant : Bool) (inlet : Nat)
  /-- PWR_EN_HIGH (R616) -/
  | pwrEnHigh (coolant : Bool) (inlet : Nat)
  /-- PWR_EN_LOW (R616) -/
  | pwrEnLow
  /-- STAGE_COMPLETE (R540) -/
  | stageComplete (ev : StageEv)
  /-- BCAST_ROUND_END (R552) -/
  | bcastRoundEnd (misses : List (UnitId × List Nat))
  /-- CORE_READY (R553) -/
  | coreReady (u : UnitId) (ok : Bool)
  /-- START_WATCHDOG (R555) -/
  | startWatchdog
  /-- START_RETRY (R555) -/
  | startRetry
  /-- STABLE_TIMEOUT (R555) -/
  | stableTimeout
  /-- RESTART (R539) -/
  | restart (src : Src)
  /-- ENTER_RECOVERY (R539) -/
  | enterRecovery (src : Src)
  /-- RECOVERY_ENTERED (R539) -/
  | recoveryEntered
  /-- LEAVE_RECOVERY (R539) -/
  | leaveRecovery (src : Src)
  /-- TO_SERVICE (R539) -/
  | toService (src : Src)
  /-- ENTER_MINIMAL (R556) -/
  | enterMinimal (src : Src)
  /-- CLEAR_FAILS (R555) -/
  | clearFails (src : Src)
  /-- IMAGE_UPDATE (R550) -/
  | imageUpdate (src : Src)
  /-- UPDATE_DONE (R550) -/
  | updateDone (ok : Bool) (kib : Nat)
  /-- CMP_RST_ASSERT (R558) -/
  | cmpRstAssert
  /-- RESET_COMPUTE (R557) -/
  | resetCompute (src : Src)
  /-- COMPUTE_RESTART (R560) -/
  | computeRestart
  /-- HS_EN_CLOSE (R630) -/
  | hsEnClose
  /-- HOTSWAP_DEBOUNCE (R630) -/
  | hotswapDebounce
  /-- HOTSWAP_RAMP_DONE (R630) -/
  | hotswapRampDone (coolant : Bool) (inlet : Nat)
  /-- HS_EN_OPEN (R630) -/
  | hsEnOpen
  /-- VIN_LOCKOUT (R629) -/
  | vinLockout
  /-- CIRCUIT_BREAKER_TRIP (R630) -/
  | circuitBreakerTrip
  /-- BREAKER_RETRY (R630) -/
  | breakerRetry
  /-- SPARE_READY (R574) -/
  | spareReady (spare : UnitId)
  /-- REMAP_APPLY (R574) -/
  | remapApply (u : UnitId)
  /-- REMAP_DRAIN_TIMEOUT (R576) -/
  | remapDrainTimeout (u : UnitId)
  /-- DISCARD_PROGRAMMED (R572) -/
  | discardProgrammed
  /-- OPEN (R578) -/
  | openTxn (src : Src)
  /-- COMMIT (R580) -/
  | commit (src : Src)
  /-- ABORT (R578) -/
  | abort (src : Src)
  /-- TXN_APPLY (R580) -/
  | txnApply
  /-- BREAK_TIMEOUT (R580) -/
  | breakTimeout
  /-- TXN_TIMEOUT (R578) -/
  | txnTimeout
  /-- FENCED (R582) -/
  | fenced (part : Nat)
  /-- RELEASE (R585) -/
  | release (src : Src) (mask : Nat)
  /-- CAPTURE (R590) -/
  | capture (src : Src)
  /-- OWNER_HEARTBEAT (R584) -/
  | ownerHeartbeat (pair : Nat)
  /-- OWNERSHIP_PASS (R584) -/
  | ownershipPass (pair : Nat)
  /-- JOURNAL_RECORD (R365) -/
  | journalRecord (pair : Nat)
  /-- JOURNAL_OUT (R365) -/
  | journalOut (pair : Nat)
  /-- SCAN_SLICE (R588) -/
  | scanSlice (pair : Nat) (ok last : Bool)
  /-- DIGEST_COMPARE (R588) -/
  | digestCompare (pair : Nat) (equal : Bool)
  /-- SETDASA (R608) -/
  | setdasa (fixed dyn : Nat)
  /-- ENTDAA (R608) -/
  | entdaa (dyn : Nat)
  /-- RSTDAA (R608) -/
  | rstdaa
  /-- SETMRL (R608) -/
  | setmrl (n : Nat)
  /-- GETMRL (R608) -/
  | getmrl
  /-- HOT_JOIN (R609) -/
  | hotJoin
  /-- AON_STATUS_READ (R610) -/
  | aonStatusRead (write : Bool)
  /-- SET_ENDPOINT_ID (R609) -/
  | setEndpointId (eid : Nat)
  /-- HEARTBEAT (R615) -/
  | heartbeat (seq : Nat)
  /-- REG_READ (R612) -/
  | regRead (page off count : Nat)
  /-- REG_WRITE (R612) -/
  | regWrite (page off mask value : Nat) (secured : Bool)
  /-- SET_TIME (R620) -/
  | setTime (ms : Nat)
  /-- GET_SENSOR_READING (R613) -/
  | getSensorReading (id : Nat)
  /-- POLL_FOR_PLATFORM_EVENT_MESSAGE (R613) -/
  | pollForPlatformEventMessage
  /-- PLDM_FIRMWARE_UPDATE (R614) -/
  | pldmFirmwareUpdate (image : List Byte)
  /-- ACTIVATE_FIRMWARE (R614) -/
  | activateFirmware
  /-- WDT_EXPIRED (R615) -/
  | wdtExpired
  /-- REFCLK_LOST (R619) -/
  | refclkLost
  /-- REFCLK_RETURN (R619) -/
  | refclkReturn
  /-- AGEING_MEASURE (R128) -/
  | ageingMeasure (u : UnitId) (mhz : Nat)
  /-- PORT_H_LINK_UP (R540) -/
  | portHLinkUp (width rate : Nat)
  /-- TIER_PORT_UP (R285) -/
  | tierPortUp (port width rate : Nat)
  /-- VIN_IN_RANGE (R630) -/
  | vinInRange
  /-- PUSH_ACK_TIMEOUT (R297) -/
  | pushAckTimeout (node cls seq : Nat)
  /-- CHUNK_RESEND_TIMER (R477) -/
  | chunkResendTimer (p : Pkt)
  /-- TRNG_HEALTH_TEST (R566) -/
  | trngHealthTest (fails : Bool)
  /-- FW_RESTART (R533) -/
  | fwRestart (up : Bool)
  /-- INTERLOCK_FAULT (R584) -/
  | interlockFault
  /-- HEARTBEAT_GAP (R567) -/
  | heartbeatGap (pair : Nat)
  /-- HEADER_WITHDRAWAL (R355) -/
  | headerWithdrawal (part step : Nat)
  /-- HASH_LIST (R323) -/
  | hashList (part slot : Nat) (hashes : List Nat) (lead : Nat)
  /-- PREFIX_REPORT (R323) -/
  | prefixReport (part member slot hits : Nat)
  /-- DUMMY_SYNCED (R363) -/
  | dummySynced (pair : Nat)
  deriving DecidableEq, Repr

end Sys2Proof
end

