-- ==== Sys2Proof/Decode.lean ====
section
/-!
DEFINITION. The command that a word spells by the opcode table's bits. spec/opcode_table.json gives no row any bits (its rows
have no fields), so no word spells a command: commands come in through the queue.
-/
namespace Sys2Proof

/-- No row of the table has an encoding. -/
def decodeTableWord (_nbits _w : Nat) : Option Instr := none

end Sys2Proof
end

