-- ==== Sys2Proof/Config.lean ====
section
/-!
DEFINITION. What one machine fixes and the spec leaves open: values without a body, so that nothing proved about the model
can lean on one of them. The assumption log names each.
-/
namespace Sys2Proof.Config

/-- The SEAT[5:0] straps of this module (R417): board wiring, fixed while the module runs. -/
opaque seat : BitVec 6

/-- The per-module value fused at module test for the field whose first bit is at this bit address of BAR0 (R11). -/
opaque fuseValue : Nat → Nat

/-- The n-th free value: a random draw, a key, a signature, or a result the spec does not state. `State.freeIdx` counts them. -/
opaque freeValue : Nat → BitVec 64

/-- Results of the approximated functions of R171 on FP32 bit patterns, by function code, where the rule gives an error
bound and not a value. -/
opaque approx : Nat → BitVec 32 → BitVec 32

/-- The order in which a unit takes the terms of a sum whose order the spec leaves open (R69), as a code of a permutation: by free index
and by a number that tells the sum apart within its lane. -/
opaque order : Nat → Nat → Nat

/-- The DER bytes of the certificates that Xoryn makes (R490): 0 the root CA's, 1 the manufacturing CA's, 2 the Device ID's. -/
opaque certificate : Nat → List Byte

/-- The signed part of the certificate of Alias 1 or 2 over its subject's public key (R489): the spec gives no DER bytes. -/
opaque certBody : Nat → List Byte → List Byte

/-- The certificate that a signed part and its signature make. -/
opaque certDer : List Byte → List Byte → List Byte

/-- The vector length that a utility core takes for an application vector length between VLMAX and twice it, by both (R220). -/
opaque vlChoice : Nat → Nat → Nat

/-- The set of the metadata cache that a metadata line falls into (R276). -/
opaque metaSet : Nat → Nat

/-- The place that the n-th line taken into a full set of a memory's cache displaces (R276, R284). -/
opaque victim : Nat → Nat

end Sys2Proof.Config
end

