-- ==== Sys2Proof/Machine/RegMap.lean ====
section
/-!
DEFINITION. The register map: every field of every page (R36 to R48, R639) and of the BAR2 windows (R376), each as its
chapter's table gives it: offset, bits, access code, reset value, clamping, and how far a write reaches.
-/
namespace Sys2Proof

/-- The block types whose pages have HAS_EXPERT (R39 and each chapter), as a mask over type codes: the factory value of POLICY.MGT_EXPERT (R565). -/
def hasExpertMask : Nat :=
  2 ^ 0x1 + 2 ^ 0x3 + 2 ^ 0x5 + 2 ^ 0x6 + 2 ^ 0x7 + 2 ^ 0x9 + 2 ^ 0x10 + 2 ^ 0x11 + 2 ^ 0x12 + 2 ^ 0x20 + 2 ^ 0x21 + 2 ^ 0x22 + 2 ^ 0x23 + 2 ^ 0x24 + 2 ^ 0x25 + 2 ^ 0x26 + 2 ^ 0x30 + 2 ^ 0x31 + 2 ^ 0x32 + 2 ^ 0x40 + 2 ^ 0x41 + 2 ^ 0x42 + 2 ^ 0x43

namespace Reg

/-- R37 `PAGE_ID`. -/
def common.pageId : Field :=
  { off := 0x0, lo := 0, width := 32, acc := .ro, rst := .const 0 }
/-- R39 `PAGE_CAP`. -/
def common.pageCap : Field :=
  { off := 0x4, lo := 0, width := 32, acc := .ro, rst := .const 0 }
/-- R40 `CTRL.ENABLE`. -/
def common.enable : Field :=
  { off := 0x8, lo := 0, width := 1, acc := .rw, rst := .image 1 }
/-- R40 `CTRL.FREEZE`. -/
def common.freeze : Field :=
  { off := 0x8, lo := 1, width := 1, acc := .rw, rst := .const 0 }
/-- R40 `CTRL.EXPERT_EN`. -/
def common.expertEn : Field :=
  { off := 0x8, lo := 2, width := 1, acc := .rw, rst := .const 0 }
/-- R40 `CTRL.FORCE`. -/
def common.force : Field :=
  { off := 0x8, lo := 3, width := 1, acc := .rw, rst := .const 0 }
/-- R41 `STATUS.STATE`. -/
def common.state : Field :=
  { off := 0xC, lo := 0, width := 3, acc := .ro, rst := .const 0 }
/-- R41 `STATUS.DRAINED`. -/
def common.drained : Field :=
  { off := 0xC, lo := 3, width := 1, acc := .ro, rst := .const 0 }
/-- R41 `STATUS.SPARE`. -/
def common.spare : Field :=
  { off := 0xC, lo := 4, width := 1, acc := .ro, rst := .const 0 }
/-- R41 `STATUS.RETIRED`. -/
def common.retired : Field :=
  { off := 0xC, lo := 5, width := 1, acc := .ro, rst := .const 0 }
/-- R41 `STATUS.ENABLE_PENDING`. -/
def common.enablePending : Field :=
  { off := 0xC, lo := 6, width := 1, acc := .ro, rst := .const 0 }
/-- R41 `STATUS.INFLIGHT`. -/
def common.inflight : Field :=
  { off := 0xC, lo := 16, width := 16, acc := .ro, rst := .const 0 }
/-- R45 `IRQ_STATUS`. -/
def common.irqStatus : Field :=
  { off := 0x10, lo := 0, width := 32, acc := .w1c, rst := .const 0 }
/-- R45 `IRQ_ENABLE`. -/
def common.irqEnable : Field :=
  { off := 0x14, lo := 0, width := 32, acc := .rw, rst := .const 0 }
/-- R45 `IRQ_FORCE`. -/
def common.irqForce : Field :=
  { off := 0x18, lo := 0, width := 32, acc := .wo, rst := .const 0 }
/-- R45 `ERR_LOG.LOG_SEQ`. -/
def common.logSeq : Field :=
  { off := 0x20, lo := 0, width := 32, acc := .ro, rst := .const 0 }
/-- R45 `ERR_LOG.LAST_CODE`. -/
def common.lastCode : Field :=
  { off := 0x24, lo := 0, width := 16, acc := .ro, rst := .const 0 }
/-- R45 `ERR_LOG.COUNT`. -/
def common.errCount : Field :=
  { off := 0x24, lo := 16, width := 16, acc := .rc, rst := .const 0 }
/-- R639 `CNT_CTRL.SNAPSHOT`. -/
def common.snapshot : Field :=
  { off := 0xEF8, lo := 0, width := 1, acc := .w1s, rst := .const 0 }
/-- R639 `CNT_CTRL.CLEAR`. -/
def common.clear : Field :=
  { off := 0xEF8, lo := 1, width := 1, acc := .w1s, rst := .const 0 }
/-- R639 `CNT_CTRL.FROZEN`. -/
def common.frozen : Field :=
  { off := 0xEF8, lo := 2, width := 1, acc := .ro, rst := .const 0 }
/-- R48 `TXN_ID`. -/
def common.txnId : Field :=
  { off := 0xF00, lo := 0, width := 16, acc := .ro, rst := .const 0 }
/-- R48 `PENDING_WRITES`. -/
def common.pendingWrites : Field :=
  { off := 0xF00, lo := 16, width := 15, acc := .ro, rst := .const 0 }
/-- R48 `PENDING`. -/
def common.pendingShadow : Field :=
  { off := 0xF00, lo := 31, width := 1, acc := .ro, rst := .const 0 }
/-- The fields every present page has (R36). -/
def common.all : List Field :=
  [common.pageId, common.pageCap, common.enable, common.freeze, common.expertEn, common.force, common.state, common.drained, common.spare, common.retired, common.enablePending, common.inflight, common.irqStatus, common.irqEnable, common.irqForce, common.logSeq, common.lastCode, common.errCount, common.snapshot, common.clear, common.frozen, common.txnId, common.pendingWrites, common.pendingShadow]

/-- R130 `FREQ.CUR_MHZ`. -/
def mt.freqCurMhz : Field :=
  { off := 0x100, lo := 0, width := 16, acc := .ro, rst := .const 0 }
/-- R130 `FREQ.FMAX_FUSED`. -/
def mt.freqFmaxFused : Field :=
  { off := 0x100, lo := 16, width := 16, acc := .ro, rst := .fuse }
/-- R130 `AGE.FMAX_MEAS`. -/
def mt.ageFmaxMeas : Field :=
  { off := 0x104, lo := 0, width := 16, acc := .ro, rst := .fuse }
/-- R130 `AGE.MEAS_AGE_MIN`. -/
def mt.ageMeasAgeMin : Field :=
  { off := 0x104, lo := 16, width := 16, acc := .ro, rst := .const 0 }
/-- R130 `OPT.MCAST_EN`. -/
def mt.optMcastEn : Field :=
  { off := 0x108, lo := 0, width := 1, acc := .rw, rst := .image 1 }
/-- R130 `OPT.INT_RANGE_EN`. -/
def mt.optIntRangeEn : Field :=
  { off := 0x108, lo := 1, width := 1, acc := .rw, rst := .image 0 }
/-- R130 `CUR.OPCODE`. -/
def mt.curOpcode : Field :=
  { off := 0x110, lo := 0, width := 8, acc := .ro, rst := .const 0 }
/-- R130 `CUR.LANE`. -/
def mt.curLane : Field :=
  { off := 0x110, lo := 8, width := 8, acc := .ro, rst := .const 0 }
/-- R130 `CUR.STEP_TAG`. -/
def mt.curStepTag : Field :=
  { off := 0x110, lo := 16, width := 5, acc := .ro, rst := .const 0 }
/-- R130 `CUR.QUEUED`. -/
def mt.curQueued : Field :=
  { off := 0x110, lo := 21, width := 5, acc := .ro, rst := .const 0 }
/-- R130 `PROGRESS.DONE`. -/
def mt.progressDone : Field :=
  { off := 0x114, lo := 0, width := 16, acc := .ro, rst := .const 0 }
/-- R130 `PROGRESS.TOTAL`. -/
def mt.progressTotal : Field :=
  { off := 0x114, lo := 16, width := 16, acc := .ro, rst := .const 0 }
/-- R130 `MAP.MAP_FORCE`. -/
def mt.mapMapForce : Field :=
  { off := 0x400, lo := 0, width := 3, acc := .rwx, rst := .image 0 }
/-- R130 `WPORT.LIMIT`. -/
def mt.wportLimit : Field :=
  { off := 0x404, lo := 0, width := 7, acc := .rwx, rst := .image 80, clamp := some (8, 80) }
/-- R130 `PREFETCH.PF_RECORDS`. -/
def mt.prefetchPfRecords : Field :=
  { off := 0x408, lo := 0, width := 4, acc := .rwx, rst := .image 8 }
/-- R130 `PREFETCH.PF_NEXT_CMD`. -/
def mt.prefetchPfNextCmd : Field :=
  { off := 0x408, lo := 4, width := 1, acc := .rwx, rst := .image 1 }
/-- R130 `OSPLIT.WRING_KIB`. -/
def mt.osplitWringKib : Field :=
  { off := 0x40C, lo := 0, width := 8, acc := .rwt, rst := .image 96 }
/-- R130 `FMAX_CAP.CAP_MHZ`. -/
def mt.fmaxCapCapMhz : Field :=
  { off := 0x410, lo := 0, width := 16, acc := .rwt, rst := .image 0 }
/-- R130 `SCRUB.ACC_SCRUB`. -/
def mt.scrubAccScrub : Field :=
  { off := 0x414, lo := 0, width := 1, acc := .rwx, rst := .image 1 }
/-- The fields of the MT pages. -/
def mt.all : List Field :=
  [mt.freqCurMhz, mt.freqFmaxFused, mt.ageFmaxMeas, mt.ageMeasAgeMin, mt.optMcastEn, mt.optIntRangeEn, 
   mt.curOpcode, mt.curLane, mt.curStepTag, mt.curQueued, mt.progressDone, mt.progressTotal, mt.mapMapForce, 
   mt.wportLimit, mt.prefetchPfRecords, mt.prefetchPfNextCmd, mt.osplitWringKib, mt.fmaxCapCapMhz, 
   mt.scrubAccScrub]

/-- R159 `CUR.OPCODE`. -/
def ae.curOpcode : Field :=
  { off := 0x100, lo := 0, width := 8, acc := .ro, rst := .const 0 }
/-- R159 `CUR.LANE`. -/
def ae.curLane : Field :=
  { off := 0x100, lo := 8, width := 8, acc := .ro, rst := .const 0 }
/-- R159 `CUR.STEP_TAG`. -/
def ae.curStepTag : Field :=
  { off := 0x100, lo := 16, width := 5, acc := .ro, rst := .const 0 }
/-- R159 `CUR.QUEUED`. -/
def ae.curQueued : Field :=
  { off := 0x100, lo := 21, width := 5, acc := .ro, rst := .const 0 }
/-- R159 `PROGRESS.DONE`. -/
def ae.progressDone : Field :=
  { off := 0x104, lo := 0, width := 16, acc := .ro, rst := .const 0 }
/-- R159 `PROGRESS.TOTAL`. -/
def ae.progressTotal : Field :=
  { off := 0x104, lo := 16, width := 16, acc := .ro, rst := .const 0 }
/-- R159 `OPT.SEL_EN`. -/
def ae.optSelEn : Field :=
  { off := 0x108, lo := 0, width := 1, acc := .rwt, rst := .image 1 }
/-- R159 `XLATE.BATCH`. -/
def ae.xlateBatch : Field :=
  { off := 0x400, lo := 0, width := 7, acc := .rwx, rst := .image 32, clamp := some (1, 64) }
/-- R159 `PREFETCH.PAGES`. -/
def ae.prefetchPages : Field :=
  { off := 0x404, lo := 0, width := 5, acc := .rwx, rst := .image 8 }
/-- R159 `READ.LIMIT_GBPS`. -/
def ae.readLimitGbps : Field :=
  { off := 0x408, lo := 0, width := 10, acc := .rwx, rst := .image 400, clamp := some (50, 400) }
/-- R159 `SCRUB.BUF_SCRUB`. -/
def ae.scrubBufScrub : Field :=
  { off := 0x40C, lo := 0, width := 1, acc := .rwx, rst := .image 1 }
/-- The fields of the AE pages. -/
def ae.all : List Field :=
  [ae.curOpcode, ae.curLane, ae.curStepTag, ae.curQueued, ae.progressDone, ae.progressTotal, ae.optSelEn, 
   ae.xlateBatch, ae.prefetchPages, ae.readLimitGbps, ae.scrubBufScrub]

/-- R194 `CUR.OPCODE`. -/
def ew.curOpcode : Field :=
  { off := 0x100, lo := 0, width := 8, acc := .ro, rst := .const 0 }
/-- R194 `CUR.LANE`. -/
def ew.curLane : Field :=
  { off := 0x100, lo := 8, width := 8, acc := .ro, rst := .const 0 }
/-- R194 `CUR.STEP_TAG`. -/
def ew.curStepTag : Field :=
  { off := 0x100, lo := 16, width := 5, acc := .ro, rst := .const 0 }
/-- R194 `CUR.QUEUED`. -/
def ew.curQueued : Field :=
  { off := 0x100, lo := 21, width := 5, acc := .ro, rst := .const 0 }
/-- R194 `PROGRESS.DONE`. -/
def ew.progressDone : Field :=
  { off := 0x104, lo := 0, width := 16, acc := .ro, rst := .const 0 }
/-- R194 `PROGRESS.TOTAL`. -/
def ew.progressTotal : Field :=
  { off := 0x104, lo := 16, width := 16, acc := .ro, rst := .const 0 }
/-- R194 `SCRUB.BUF_SCRUB`. -/
def ew.scrubBufScrub : Field :=
  { off := 0x400, lo := 0, width := 1, acc := .rwx, rst := .image 1 }
/-- R194 `PORT.LIMIT`. -/
def ew.portLimit : Field :=
  { off := 0x404, lo := 0, width := 9, acc := .rwx, rst := .image 256, clamp := some (32, 256) }
/-- The fields of the EW pages. -/
def ew.all : List Field :=
  [ew.curOpcode, ew.curLane, ew.curStepTag, ew.curQueued, ew.progressDone, ew.progressTotal, ew.scrubBufScrub, 
   ew.portLimit]

/-- R194 `CUR.OPCODE`. -/
def shf.curOpcode : Field :=
  { off := 0x100, lo := 0, width := 8, acc := .ro, rst := .const 0 }
/-- R194 `CUR.LANE`. -/
def shf.curLane : Field :=
  { off := 0x100, lo := 8, width := 8, acc := .ro, rst := .const 0 }
/-- R194 `CUR.STEP_TAG`. -/
def shf.curStepTag : Field :=
  { off := 0x100, lo := 16, width := 5, acc := .ro, rst := .const 0 }
/-- R194 `CUR.QUEUED`. -/
def shf.curQueued : Field :=
  { off := 0x100, lo := 21, width := 5, acc := .ro, rst := .const 0 }
/-- R194 `PROGRESS.DONE`. -/
def shf.progressDone : Field :=
  { off := 0x104, lo := 0, width := 16, acc := .ro, rst := .const 0 }
/-- R194 `PROGRESS.TOTAL`. -/
def shf.progressTotal : Field :=
  { off := 0x104, lo := 16, width := 16, acc := .ro, rst := .const 0 }
/-- R194 `OPT.SR_EN`. -/
def shf.optSrEn : Field :=
  { off := 0x108, lo := 0, width := 1, acc := .rw, rst := .image 1 }
/-- R194 `SCRUB.BUF_SCRUB`. -/
def shf.scrubBufScrub : Field :=
  { off := 0x400, lo := 0, width := 1, acc := .rwx, rst := .image 1 }
/-- R194 `GATHER.INFLIGHT`. -/
def shf.gatherInflight : Field :=
  { off := 0x404, lo := 0, width := 7, acc := .rwx, rst := .image 64 }
/-- R194 `READ.LIMIT_GBPS`. -/
def shf.readLimitGbps : Field :=
  { off := 0x408, lo := 0, width := 9, acc := .rwx, rst := .image 307, clamp := some (50, 307) }
/-- The fields of the SHF pages. -/
def shf.all : List Field :=
  [shf.curOpcode, shf.curLane, shf.curStepTag, shf.curQueued, shf.progressDone, shf.progressTotal, shf.optSrEn, 
   shf.scrubBufScrub, shf.gatherInflight, shf.readLimitGbps]

/-- R194 `CUR.OPCODE`. -/
def xr.curOpcode : Field :=
  { off := 0x100, lo := 0, width := 8, acc := .ro, rst := .const 0 }
/-- R194 `CUR.LANE`. -/
def xr.curLane : Field :=
  { off := 0x100, lo := 8, width := 8, acc := .ro, rst := .const 0 }
/-- R194 `CUR.STEP_TAG`. -/
def xr.curStepTag : Field :=
  { off := 0x100, lo := 16, width := 5, acc := .ro, rst := .const 0 }
/-- R194 `CUR.QUEUED`. -/
def xr.curQueued : Field :=
  { off := 0x100, lo := 21, width := 5, acc := .ro, rst := .const 0 }
/-- R194 `PROGRESS.DONE`. -/
def xr.progressDone : Field :=
  { off := 0x104, lo := 0, width := 16, acc := .ro, rst := .const 0 }
/-- R194 `PROGRESS.TOTAL`. -/
def xr.progressTotal : Field :=
  { off := 0x104, lo := 16, width := 16, acc := .ro, rst := .const 0 }
/-- R194 `OPT.CAP_EN`. -/
def xr.optCapEn : Field :=
  { off := 0x108, lo := 0, width := 1, acc := .rw, rst := .image 1 }
/-- R194 `SCRUB.BUF_SCRUB`. -/
def xr.scrubBufScrub : Field :=
  { off := 0x400, lo := 0, width := 1, acc := .rwx, rst := .image 1 }
/-- The fields of the XR pages. -/
def xr.all : List Field :=
  [xr.curOpcode, xr.curLane, xr.curStepTag, xr.curQueued, xr.progressDone, xr.progressTotal, xr.optCapEn, 
   xr.scrubBufScrub]

/-- R217 `CUR.OPCODE`. -/
def smp.curOpcode : Field :=
  { off := 0x100, lo := 0, width := 8, acc := .ro, rst := .const 0 }
/-- R217 `CUR.LANE`. -/
def smp.curLane : Field :=
  { off := 0x100, lo := 8, width := 8, acc := .ro, rst := .const 0 }
/-- R217 `CUR.STEP_TAG`. -/
def smp.curStepTag : Field :=
  { off := 0x100, lo := 16, width := 5, acc := .ro, rst := .const 0 }
/-- R217 `CUR.QUEUED`. -/
def smp.curQueued : Field :=
  { off := 0x100, lo := 21, width := 5, acc := .ro, rst := .const 0 }
/-- R217 `PROGRESS.DONE`. -/
def smp.progressDone : Field :=
  { off := 0x104, lo := 0, width := 16, acc := .ro, rst := .const 0 }
/-- R217 `PROGRESS.TOTAL`. -/
def smp.progressTotal : Field :=
  { off := 0x104, lo := 16, width := 16, acc := .ro, rst := .const 0 }
/-- R217 `OPT.SPEC_EN`. -/
def smp.optSpecEn : Field :=
  { off := 0x108, lo := 0, width := 1, acc := .rw, rst := .image 1 }
/-- R217 `OPT.LOGPROB_EN`. -/
def smp.optLogprobEn : Field :=
  { off := 0x108, lo := 1, width := 1, acc := .rw, rst := .image 1 }
/-- R217 `SCRUB.BUF_SCRUB`. -/
def smp.scrubBufScrub : Field :=
  { off := 0x400, lo := 0, width := 1, acc := .rwx, rst := .image 1 }
/-- R217 `READ.LIMIT_GBPS`. -/
def smp.readLimitGbps : Field :=
  { off := 0x404, lo := 0, width := 9, acc := .rwx, rst := .image 307, clamp := some (50, 307) }
/-- R217 `CAND.CAP`. -/
def smp.candCap : Field :=
  { off := 0x408, lo := 0, width := 13, acc := .rwx, rst := .image 4096, clamp := some (1024, 4096), grain := 256 }
/-- The fields of the SMP pages. -/
def smp.all : List Field :=
  [smp.curOpcode, smp.curLane, smp.curStepTag, smp.curQueued, smp.progressDone, smp.progressTotal, 
   smp.optSpecEn, smp.optLogprobEn, smp.scrubBufScrub, smp.readLimitGbps, smp.candCap]

/-- R239 `CUR.OPCODE`. -/
def uc.curOpcode : Field :=
  { off := 0x100, lo := 0, width := 8, acc := .ro, rst := .const 0 }
/-- R239 `CUR.LANE`. -/
def uc.curLane : Field :=
  { off := 0x100, lo := 8, width := 8, acc := .ro, rst := .const 0 }
/-- R239 `CUR.STEP_TAG`. -/
def uc.curStepTag : Field :=
  { off := 0x100, lo := 16, width := 5, acc := .ro, rst := .const 0 }
/-- R239 `CUR.QUEUED`. -/
def uc.curQueued : Field :=
  { off := 0x100, lo := 21, width := 5, acc := .ro, rst := .const 0 }
/-- R239 `RUN.UNITS`. -/
def uc.runUnits : Field :=
  { off := 0x104, lo := 0, width := 32, acc := .ro, rst := .const 0 }
/-- R239 `FREQ.CUR_MHZ`. -/
def uc.freqCurMhz : Field :=
  { off := 0x108, lo := 0, width := 16, acc := .ro, rst := .const 0, reach := .cluster }
/-- R239 `FREQ.FMAX_FUSED`. -/
def uc.freqFmaxFused : Field :=
  { off := 0x108, lo := 16, width := 16, acc := .ro, rst := .fuse, reach := .cluster }
/-- R239 `AGE.FMAX_MEAS`. -/
def uc.ageFmaxMeas : Field :=
  { off := 0x10C, lo := 0, width := 16, acc := .ro, rst := .fuse, reach := .cluster }
/-- R239 `AGE.MEAS_AGE_MIN`. -/
def uc.ageMeasAgeMin : Field :=
  { off := 0x10C, lo := 16, width := 16, acc := .ro, rst := .const 0 }
/-- R239 `CLUSTER.ID`. -/
def uc.clusterId : Field :=
  { off := 0x110, lo := 0, width := 5, acc := .ro, rst := .const 0 }
/-- R239 `CLUSTER.POS`. -/
def uc.clusterPos : Field :=
  { off := 0x110, lo := 5, width := 6, acc := .ro, rst := .const 0 }
/-- R239 `OPT.BUDGET_MAX`. -/
def uc.optBudgetMax : Field :=
  { off := 0x114, lo := 0, width := 32, acc := .rw, rst := .image 16384 }
/-- R239 `LAST.STATUS`. -/
def uc.lastStatus : Field :=
  { off := 0x118, lo := 0, width := 8, acc := .ro, rst := .const 0 }
/-- R239 `LAST.TRAP_PC`. -/
def uc.lastTrapPc : Field :=
  { off := 0x120, lo := 0, width := 64, acc := .ro, rst := .const 0 }
/-- R239 `LAST.TRAP_CAUSE`. -/
def uc.lastTrapCause : Field :=
  { off := 0x128, lo := 0, width := 64, acc := .ro, rst := .const 0 }
/-- R239 `LAST.TRAP_VAL`. -/
def uc.lastTrapVal : Field :=
  { off := 0x130, lo := 0, width := 64, acc := .ro, rst := .const 0 }
/-- R239 `SCRUB.LMEM_SCRUB`. -/
def uc.scrubLmemScrub : Field :=
  { off := 0x400, lo := 0, width := 1, acc := .rwx, rst := .image 1 }
/-- R239 `TABLE.INFLIGHT`. -/
def uc.tableInflight : Field :=
  { off := 0x404, lo := 0, width := 5, acc := .rwx, rst := .image 16 }
/-- R239 `DEBUG.TRACE_EN`. -/
def uc.debugTraceEn : Field :=
  { off := 0x408, lo := 0, width := 1, acc := .rwx, rst := .image 0 }
/-- R239 `FMAX_CAP.CAP_MHZ`. -/
def uc.fmaxCapCapMhz : Field :=
  { off := 0x40C, lo := 0, width := 16, acc := .rwt, rst := .image 0, reach := .cluster }
/-- The fields of the UC pages. -/
def uc.all : List Field :=
  [uc.curOpcode, uc.curLane, uc.curStepTag, uc.curQueued, uc.runUnits, uc.freqCurMhz, uc.freqFmaxFused, 
   uc.ageFmaxMeas, uc.ageMeasAgeMin, uc.clusterId, uc.clusterPos, uc.optBudgetMax, uc.lastStatus, uc.lastTrapPc, 
   uc.lastTrapCause, uc.lastTrapVal, uc.scrubLmemScrub, uc.tableInflight, uc.debugTraceEn, uc.fmaxCapCapMhz]

/-- R261 `MAP.LOGICAL`. -/
def tbl.mapLogical : Field :=
  { off := 0x100, lo := 0, width := 11, acc := .ro, rst := .const 0 }
/-- R261 `MAP.DIE`. -/
def tbl.mapDie : Field :=
  { off := 0x100, lo := 11, width := 1, acc := .ro, rst := .const 0 }
/-- R261 `MAP.BAND_MODE`. -/
def tbl.mapBandMode : Field :=
  { off := 0x104, lo := 0, width := 16, acc := .rwt, rst := .image 0, reach := .wide }
/-- R261 `SCRUB.PERIOD_MS`. -/
def tbl.scrubPeriodMs : Field :=
  { off := 0x108, lo := 0, width := 16, acc := .rw, rst := .image 1000 }
/-- R261 `ERR.LAST_ROW`. -/
def tbl.errLastRow : Field :=
  { off := 0x10C, lo := 0, width := 11, acc := .ro, rst := .const 0 }
/-- R261 `ERR.LAST_BEAT`. -/
def tbl.errLastBeat : Field :=
  { off := 0x10C, lo := 11, width := 2, acc := .ro, rst := .const 0 }
/-- R261 `RESV.HELD`. -/
def tbl.resvHeld : Field :=
  { off := 0x110, lo := 0, width := 6, acc := .ro, rst := .const 0 }
/-- R261 `SLICE[s].OWNER`. -/
def tbl.sliceOwner : Field :=
  { off := 0x140, lo := 0, width := 3, acc := .rwt, rst := .image 0, stride := 4, count := 32, reach := .wide }
/-- R261 `SLICE[s].ASSIGNED`. -/
def tbl.sliceAssigned : Field :=
  { off := 0x140, lo := 3, width := 1, acc := .rwt, rst := .image 1, stride := 4, count := 32, reach := .wide }
/-- R261 `SLICE[s].USE`. -/
def tbl.sliceUse : Field :=
  { off := 0x140, lo := 4, width := 2, acc := .rwt, rst := .image 0, stride := 4, count := 32, reach := .wide }
/-- R261 `ARB.W0 to ARB.W5`. -/
def tbl.arbW : Field :=
  { off := 0x400, lo := 0, width := 24, acc := .rwx, rst := .image 1188420 }
/-- R261 `INJECT.CE`. -/
def tbl.injectCe : Field :=
  { off := 0x404, lo := 0, width := 1, acc := .w1s, rst := .const 0 }
/-- R261 `INJECT.UE`. -/
def tbl.injectUe : Field :=
  { off := 0x404, lo := 1, width := 1, acc := .w1s, rst := .const 0 }
/-- R261 `RESV.ENTRIES`. -/
def tbl.resvEntries : Field :=
  { off := 0x408, lo := 0, width := 6, acc := .rwx, rst := .image 32, clamp := some (1, 32) }
/-- The fields of the TBL pages. -/
def tbl.all : List Field :=
  [tbl.mapLogical, tbl.mapDie, tbl.mapBandMode, tbl.scrubPeriodMs, tbl.errLastRow, tbl.errLastBeat, 
   tbl.resvHeld, tbl.sliceOwner, tbl.sliceAssigned, tbl.sliceUse, tbl.arbW, tbl.injectCe, tbl.injectUe, 
   tbl.resvEntries]

/-- R286 `MAP.LOGICAL`. -/
def mem.mapLogical : Field :=
  { off := 0x100, lo := 0, width := 7, acc := .ro, rst := .const 0 }
/-- R286 `MAP.DIE`. -/
def mem.mapDie : Field :=
  { off := 0x100, lo := 7, width := 1, acc := .ro, rst := .const 0 }
/-- R286 `TRAIN.STATE`. -/
def mem.trainState : Field :=
  { off := 0x100, lo := 8, width := 3, acc := .ro, rst := .const 0 }
/-- R286 `TEMP.DEG_C`. -/
def mem.tempDegC : Field :=
  { off := 0x104, lo := 0, width := 8, acc := .ro, rst := .const 0 }
/-- R286 `ERR.LAST_LINE`. -/
def mem.errLastLine : Field :=
  { off := 0x108, lo := 0, width := 24, acc := .ro, rst := .const 0 }
/-- R286 `SPARE.COPY_PTR`. -/
def mem.spareCopyPtr : Field :=
  { off := 0x10C, lo := 0, width := 25, acc := .ro, rst := .const 0 }
/-- R286 `SPARE.COPYING`. -/
def mem.spareCopying : Field :=
  { off := 0x10C, lo := 25, width := 1, acc := .ro, rst := .const 0 }
/-- R286 `REGION[p].GROUPS`. -/
def mem.regionGroups : Field :=
  { off := 0x140, lo := 0, width := 16, acc := .rwt, rst := .first 65535, stride := 4, count := 8, reach := .wide }
/-- R286 `REGION[p].MODE`. -/
def mem.regionMode : Field :=
  { off := 0x140, lo := 16, width := 1, acc := .rwt, rst := .image 0, stride := 4, count := 8, reach := .wide }
/-- R286 `RETRAIN.PERIOD_MS`. -/
def mem.retrainPeriodMs : Field :=
  { off := 0x400, lo := 0, width := 16, acc := .rwx, rst := .image 100, clamp := some (10, 10000) }
/-- R286 `RETRAIN.DELTA_C`. -/
def mem.retrainDeltaC : Field :=
  { off := 0x404, lo := 0, width := 4, acc := .rwx, rst := .image 10 }
/-- R286 `RETRY.ATTEMPTS`. -/
def mem.retryAttempts : Field :=
  { off := 0x408, lo := 0, width := 3, acc := .rwx, rst := .image 4 }
/-- R286 `SPARE.COPY_PCT`. -/
def mem.spareCopyPct : Field :=
  { off := 0x40C, lo := 0, width := 7, acc := .rwx, rst := .image 50, clamp := some (10, 90) }
/-- R286 `SCRUB.PERIOD_H`. -/
def mem.scrubPeriodH : Field :=
  { off := 0x410, lo := 0, width := 8, acc := .rwx, rst := .image 24 }
/-- R286 `INJECT.EDC`. -/
def mem.injectEdc : Field :=
  { off := 0x414, lo := 0, width := 1, acc := .w1s, rst := .const 0 }
/-- R286 `INJECT.TAG`. -/
def mem.injectTag : Field :=
  { off := 0x414, lo := 1, width := 1, acc := .w1s, rst := .const 0 }
/-- The fields of the MEM pages. -/
def mem.all : List Field :=
  [mem.mapLogical, mem.mapDie, mem.trainState, mem.tempDegC, mem.errLastLine, mem.spareCopyPtr, 
   mem.spareCopying, mem.regionGroups, mem.regionMode, mem.retrainPeriodMs, mem.retrainDeltaC, 
   mem.retryAttempts, mem.spareCopyPct, mem.scrubPeriodH, mem.injectEdc, mem.injectTag]

/-- R289 `LINK.STATE`. -/
def tier.linkState : Field :=
  { off := 0x100, lo := 0, width := 2, acc := .ro, rst := .const 0 }
/-- R289 `LINK.WIDTH`. -/
def tier.linkWidth : Field :=
  { off := 0x100, lo := 2, width := 3, acc := .ro, rst := .const 0 }
/-- R289 `LINK.RATE`. -/
def tier.linkRate : Field :=
  { off := 0x100, lo := 5, width := 2, acc := .ro, rst := .const 0 }
/-- R289 `LINK.IDE_ON`. -/
def tier.linkIdeOn : Field :=
  { off := 0x100, lo := 7, width := 1, acc := .ro, rst := .const 0 }
/-- R289 `OUT.INFLIGHT`. -/
def tier.outInflight : Field :=
  { off := 0x104, lo := 0, width := 12, acc := .ro, rst := .const 0 }
/-- R289 `MODE.INTERLEAVE`. -/
def tier.modeInterleave : Field :=
  { off := 0x108, lo := 0, width := 1, acc := .rwt, rst := .image 1, reach := .wide }
/-- R289 `TIMEOUT.MS`. -/
def tier.timeoutMs : Field :=
  { off := 0x10C, lo := 0, width := 7, acc := .rw, rst := .image 10, clamp := some (1, 100) }
/-- R289 `FAB_BASE`. -/
def tier.fabBase : Field :=
  { off := 0x110, lo := 0, width := 64, acc := .rwt, rst := .image 0 }
/-- R289 `WIN[p].BASE_GIB`. -/
def tier.winBaseGib : Field :=
  { off := 0x140, lo := 0, width := 13, acc := .rwt, rst := .image 0, stride := 8, count := 8, reach := .wide }
/-- R289 `WIN[p].SIZE_GIB`. -/
def tier.winSizeGib : Field :=
  { off := 0x140, lo := 16, width := 13, acc := .rwt, rst := .image 0, stride := 8, count := 8, reach := .wide }
/-- R289 `WIN[p].PORT`. -/
def tier.winPort : Field :=
  { off := 0x140, lo := 29, width := 1, acc := .rwt, rst := .image 0, stride := 8, count := 8, reach := .wide }
/-- R289 `OUT.LIMIT`. -/
def tier.outLimit : Field :=
  { off := 0x400, lo := 0, width := 12, acc := .rwx, rst := .image 2048 }
/-- R289 `INJECT.TAG`. -/
def tier.injectTag : Field :=
  { off := 0x404, lo := 0, width := 1, acc := .w1s, rst := .const 0 }
/-- The fields of the TIER pages. -/
def tier.all : List Field :=
  [tier.linkState, tier.linkWidth, tier.linkRate, tier.linkIdeOn, tier.outInflight, tier.modeInterleave, 
   tier.timeoutMs, tier.fabBase, tier.winBaseGib, tier.winSizeGib, tier.winPort, tier.outLimit, tier.injectTag]

/-- R302 `CUR.OPCODE`. -/
def dma.curOpcode : Field :=
  { off := 0x100, lo := 0, width := 8, acc := .ro, rst := .const 0 }
/-- R302 `CUR.LANE`. -/
def dma.curLane : Field :=
  { off := 0x100, lo := 8, width := 8, acc := .ro, rst := .const 0 }
/-- R302 `CUR.STEP_TAG`. -/
def dma.curStepTag : Field :=
  { off := 0x100, lo := 16, width := 5, acc := .ro, rst := .const 0 }
/-- R302 `CUR.QUEUED`. -/
def dma.curQueued : Field :=
  { off := 0x100, lo := 21, width := 5, acc := .ro, rst := .const 0 }
/-- R302 `PROGRESS.DONE_MIB`. -/
def dma.progressDoneMib : Field :=
  { off := 0x104, lo := 0, width := 16, acc := .ro, rst := .const 0 }
/-- R302 `PROGRESS.TOTAL_MIB`. -/
def dma.progressTotalMib : Field :=
  { off := 0x104, lo := 16, width := 16, acc := .ro, rst := .const 0 }
/-- R302 `REMOTE.INFLIGHT`. -/
def dma.remoteInflight : Field :=
  { off := 0x108, lo := 0, width := 10, acc := .ro, rst := .const 0 }
/-- R302 `SCRUB.BUF_SCRUB`. -/
def dma.scrubBufScrub : Field :=
  { off := 0x400, lo := 0, width := 1, acc := .rwx, rst := .image 1 }
/-- R302 `READ.LIMIT_GBPS`. -/
def dma.readLimitGbps : Field :=
  { off := 0x404, lo := 0, width := 9, acc := .rwx, rst := .image 307, clamp := some (50, 307) }
/-- R302 `REMOTE.LIMIT`. -/
def dma.remoteLimit : Field :=
  { off := 0x408, lo := 0, width := 10, acc := .rwx, rst := .image 512 }
/-- The fields of the DMA pages. -/
def dma.all : List Field :=
  [dma.curOpcode, dma.curLane, dma.curStepTag, dma.curQueued, dma.progressDoneMib, dma.progressTotalMib, 
   dma.remoteInflight, dma.scrubBufScrub, dma.readLimitGbps, dma.remoteLimit]

/-- R336 `SERVE.PARTS`. -/
def pge.serveParts : Field :=
  { off := 0x100, lo := 0, width := 8, acc := .ro, rst := .const 0 }
/-- R336 `SERVE.DEGRADED`. -/
def pge.serveDegraded : Field :=
  { off := 0x100, lo := 8, width := 1, acc := .ro, rst := .const 0 }
/-- R336 `SERVE.SWEEP`. -/
def pge.serveSweep : Field :=
  { off := 0x100, lo := 9, width := 1, acc := .ro, rst := .const 0 }
/-- R336 `MIG.INFLIGHT`. -/
def pge.migInflight : Field :=
  { off := 0x104, lo := 0, width := 10, acc := .ro, rst := .const 0 }
/-- R336 `OPS.INFLIGHT`. -/
def pge.opsInflight : Field :=
  { off := 0x104, lo := 16, width := 16, acc := .ro, rst := .const 0 }
/-- R336 `PART[p].T1_BASE`. -/
def pge.partT1Base : Field :=
  { off := 0x140, lo := 0, width := 30, acc := .rwt, rst := .image 0, stride := 32, count := 8, reach := .wide }
/-- R336 `PART[p].T1_FRAMES`. -/
def pge.partT1Frames : Field :=
  { off := 0x144, lo := 0, width := 30, acc := .rwt, rst := .image 0, stride := 32, count := 8, reach := .wide }
/-- R336 `PART[p].PFX_ENTRIES`. -/
def pge.partPfxEntries : Field :=
  { off := 0x148, lo := 0, width := 23, acc := .rwt, rst := .first 4194304, stride := 32, count := 8, reach := .wide }
/-- R336 `PART[p].LH`. -/
def pge.partLh : Field :=
  { off := 0x14C, lo := 0, width := 14, acc := .rwt, rst := .image 0, stride := 32, count := 8, reach := .wide }
/-- R336 `PART[p].HOME`. -/
def pge.partHome : Field :=
  { off := 0x14C, lo := 16, width := 1, acc := .rwt, rst := .image 0, stride := 32, count := 8, reach := .wide }
/-- R336 `PART[p].FREE_T0`. -/
def pge.partFreeT0 : Field :=
  { off := 0x150, lo := 0, width := 16, acc := .ro, rst := .const 0, stride := 32, count := 8 }
/-- R336 `PART[p].FREE_T1`. -/
def pge.partFreeT1 : Field :=
  { off := 0x154, lo := 0, width := 30, acc := .ro, rst := .const 0, stride := 32, count := 8 }
/-- R336 `PART[p].FREE_T2`. -/
def pge.partFreeT2 : Field :=
  { off := 0x158, lo := 0, width := 30, acc := .ro, rst := .const 0, stride := 32, count := 8 }
/-- R336 `PART[p].ADMIT_PAUSED`. -/
def pge.partAdmitPaused : Field :=
  { off := 0x15C, lo := 0, width := 1, acc := .ro, rst := .const 0, stride := 32, count := 8 }
/-- R336 `PART[p].SHARE_EN`. -/
def pge.partShareEn : Field :=
  { off := 0x15C, lo := 1, width := 1, acc := .rw, rst := .image 1, stride := 32, count := 8 }
/-- R336 `WM.T0_LOW, T0_HIGH, T1_LOW, T1_HIGH`. -/
def pge.wmBytes : Field :=
  { off := 0x400, lo := 0, width := 32, acc := .rwx, rst := .image 134488080 }
/-- R336 `ADMIT.RES`. -/
def pge.admitRes : Field :=
  { off := 0x404, lo := 0, width := 8, acc := .rwx, rst := .image 4 }
/-- R336 `ADMIT.RESUME`. -/
def pge.admitResume : Field :=
  { off := 0x404, lo := 8, width := 8, acc := .rwx, rst := .image 8 }
/-- R336 `COLD.STEPS`. -/
def pge.coldSteps : Field :=
  { off := 0x408, lo := 0, width := 16, acc := .rwx, rst := .image 64 }
/-- R336 `MIG.LIMIT`. -/
def pge.migLimit : Field :=
  { off := 0x40C, lo := 0, width := 10, acc := .rwx, rst := .image 512, clamp := some (1, 512) }
/-- R336 `ALLOC.T0_EN`. -/
def pge.allocT0En : Field :=
  { off := 0x410, lo := 0, width := 1, acc := .rwx, rst := .image 1 }
/-- R336 `ALLOC.PROMOTE_EN`. -/
def pge.allocPromoteEn : Field :=
  { off := 0x410, lo := 1, width := 1, acc := .rwx, rst := .image 1 }
/-- R336 `SPILL.FLOOR`. -/
def pge.spillFloor : Field :=
  { off := 0x414, lo := 0, width := 16, acc := .rwx, rst := .image 64 }
/-- The fields of the PGE pages. -/
def pge.all : List Field :=
  [pge.serveParts, pge.serveDegraded, pge.serveSweep, pge.migInflight, pge.opsInflight, pge.partT1Base, 
   pge.partT1Frames, pge.partPfxEntries, pge.partLh, pge.partHome, pge.partFreeT0, pge.partFreeT1, 
   pge.partFreeT2, pge.partAdmitPaused, pge.partShareEn, pge.wmBytes, pge.admitRes, pge.admitResume, 
   pge.coldSteps, pge.migLimit, pge.allocT0En, pge.allocPromoteEn, pge.spillFloor]

/-- R370 `ROLE`. -/
def dlr.role : Field :=
  { off := 0x100, lo := 0, width := 2, acc := .ro, rst := .const 0 }
/-- R370 `OWNER`. -/
def dlr.owner : Field :=
  { off := 0x100, lo := 2, width := 1, acc := .ro, rst := .const 0 }
/-- R370 `SYNCED`. -/
def dlr.synced : Field :=
  { off := 0x100, lo := 3, width := 1, acc := .ro, rst := .const 0 }
/-- R370 `JOURNAL_LAG`. -/
def dlr.journalLag : Field :=
  { off := 0x100, lo := 16, width := 16, acc := .ro, rst := .const 0 }
/-- R370 `CMD_SLOTS_FREE`. -/
def dlr.cmdSlotsFree : Field :=
  { off := 0x104, lo := 0, width := 14, acc := .ro, rst := .const 0 }
/-- R370 `GRANULES_FREE`. -/
def dlr.granulesFree : Field :=
  { off := 0x104, lo := 16, width := 7, acc := .ro, rst := .const 0 }
/-- R370 `FAILOVERS`. -/
def dlr.failovers : Field :=
  { off := 0x108, lo := 0, width := 16, acc := .ro, rst := .const 0 }
/-- R370 `PLAN.ADDR`. -/
def dlr.planAddr : Field :=
  { off := 0x110, lo := 0, width := 64, acc := .rw, rst := .const 0, reach := .wide }
/-- R370 `PLAN.PART`. -/
def dlr.planPart : Field :=
  { off := 0x118, lo := 0, width := 3, acc := .rw, rst := .const 0, reach := .wide }
/-- R370 `PLAN.PSLOT`. -/
def dlr.planPslot : Field :=
  { off := 0x118, lo := 3, width := 2, acc := .rw, rst := .const 0, reach := .wide }
/-- R370 `PLAN.LOAD`. -/
def dlr.planLoad : Field :=
  { off := 0x118, lo := 5, width := 1, acc := .w1s, rst := .const 0, reach := .wide }
/-- R370 `PLAN.UNLOAD`. -/
def dlr.planUnload : Field :=
  { off := 0x118, lo := 6, width := 1, acc := .w1s, rst := .const 0, reach := .wide }
/-- R370 `PLAN.RESULT`. -/
def dlr.planResult : Field :=
  { off := 0x11C, lo := 0, width := 4, acc := .ro, rst := .const 0, reach := .wide }
/-- R370 `PLAN.BUSY`. -/
def dlr.planBusy : Field :=
  { off := 0x11C, lo := 4, width := 1, acc := .ro, rst := .const 0, reach := .wide }
/-- R370 `PLAN.PRESENT`. -/
def dlr.planPresent : Field :=
  { off := 0x120, lo := 0, width := 32, acc := .ro, rst := .const 0, reach := .wide }
/-- R370 `PART[p].SLOT_COUNT`. -/
def dlr.partSlotCount : Field :=
  { off := 0x140, lo := 0, width := 16, acc := .rwt, rst := .first 32768, stride := 64, count := 8, reach := .wide }
/-- R370 `PART[p].BATCH_CAP`. -/
def dlr.partBatchCap : Field :=
  { off := 0x140, lo := 16, width := 13, acc := .rw, rst := .image 4096, stride := 64, count := 8, reach := .wide }
/-- R370 `PART[p].SCRATCH_BASE`. -/
def dlr.partScratchBase : Field :=
  { off := 0x144, lo := 0, width := 29, acc := .rwt, rst := .image 0, stride := 64, count := 8, reach := .wide }
/-- R370 `PART[p].STEP_TOKENS`. -/
def dlr.partStepTokens : Field :=
  { off := 0x148, lo := 0, width := 17, acc := .rw, rst := .image 8192, stride := 64, count := 8, reach := .wide, clamp := some (64, 65536) }
/-- R370 `PART[p].CHUNK_MAX`. -/
def dlr.partChunkMax : Field :=
  { off := 0x14C, lo := 0, width := 17, acc := .rw, rst := .image 8192, stride := 64, count := 8, reach := .wide, clamp := some (64, 65536), grain := 64 }
/-- R370 `PART[p].QUEUE_ENTRIES`. -/
def dlr.partQueueEntries : Field :=
  { off := 0x150, lo := 0, width := 21, acc := .rwt, rst := .first 1048576, stride := 64, count := 8, reach := .wide }
/-- R370 `PART[p].GROUP_SIZE_M1`. -/
def dlr.partGroupSizeM1 : Field :=
  { off := 0x154, lo := 0, width := 4, acc := .rwt, rst := .image 0, stride := 64, count := 8, reach := .wide }
/-- R370 `PART[p].MEMBER_INDEX`. -/
def dlr.partMemberIndex : Field :=
  { off := 0x154, lo := 4, width := 4, acc := .rwt, rst := .image 0, stride := 64, count := 8, reach := .wide }
/-- R370 `PART[p].LEAD_INDEX`. -/
def dlr.partLeadIndex : Field :=
  { off := 0x154, lo := 8, width := 4, acc := .rwt, rst := .image 0, stride := 64, count := 8, reach := .wide }
/-- R370 `PART[p].CP_M1`. -/
def dlr.partCpM1 : Field :=
  { off := 0x154, lo := 12, width := 4, acc := .rwt, rst := .image 0, stride := 64, count := 8, reach := .wide }
/-- R370 `PART[p].CP_BLOCK_LOG2`. -/
def dlr.partCpBlockLog2 : Field :=
  { off := 0x154, lo := 16, width := 4, acc := .rwt, rst := .image 0, stride := 64, count := 8, reach := .wide }
/-- R370 `PART[p].AREA_BASE`. -/
def dlr.partAreaBase : Field :=
  { off := 0x158, lo := 0, width := 64, acc := .rwt, rst := .image 0, stride := 64, count := 8, reach := .wide }
/-- R370 `PART[p].MEMBER[0..15]`. -/
def dlr.partMember : Field :=
  { off := 0x160, lo := 0, width := 128, acc := .rwt, rst := .image 0, stride := 64, count := 8, reach := .wide }
/-- R370 `PART[p].AGE_STEP_MS`. -/
def dlr.partAgeStepMs : Field :=
  { off := 0x170, lo := 0, width := 16, acc := .rw, rst := .image 1000, stride := 64, count := 8, reach := .wide }
/-- R370 `PART[p].VOTE_TIMEOUT_MS`. -/
def dlr.partVoteTimeoutMs : Field :=
  { off := 0x170, lo := 16, width := 16, acc := .rw, rst := .image 150, stride := 64, count := 8, reach := .wide, clamp := some (120, 1000) }
/-- R370 `PART[p].ACTIVE_SLOTS`. -/
def dlr.partActiveSlots : Field :=
  { off := 0x174, lo := 0, width := 16, acc := .ro, rst := .const 0, stride := 64, count := 8, reach := .wide }
/-- R370 `PART[p].PSTATE`. -/
def dlr.partPstate : Field :=
  { off := 0x174, lo := 16, width := 2, acc := .ro, rst := .const 0, stride := 64, count := 8, reach := .wide }
/-- R370 `PART[p].QUEUED`. -/
def dlr.partQueued : Field :=
  { off := 0x178, lo := 0, width := 21, acc := .ro, rst := .const 0, stride := 64, count := 8, reach := .wide }
/-- R370 `PART[p].STEP_LOW`. -/
def dlr.partStepLow : Field :=
  { off := 0x17C, lo := 0, width := 32, acc := .ro, rst := .const 0, stride := 64, count := 8, reach := .wide }
/-- R370 `REPLAY.MAX`. -/
def dlr.replayMax : Field :=
  { off := 0x400, lo := 0, width := 2, acc := .rwx, rst := .image 2, reach := .wide }
/-- R370 `PREEMPT.EN`. -/
def dlr.preemptEn : Field :=
  { off := 0x404, lo := 0, width := 1, acc := .rwx, rst := .image 1, reach := .wide }
/-- The fields of the DLR pages. -/
def dlr.all : List Field :=
  [dlr.role, dlr.owner, dlr.synced, dlr.journalLag, dlr.cmdSlotsFree, dlr.granulesFree, dlr.failovers, 
   dlr.planAddr, dlr.planPart, dlr.planPslot, dlr.planLoad, dlr.planUnload, dlr.planResult, dlr.planBusy, 
   dlr.planPresent, dlr.partSlotCount, dlr.partBatchCap, dlr.partScratchBase, dlr.partStepTokens, 
   dlr.partChunkMax, dlr.partQueueEntries, dlr.partGroupSizeM1, dlr.partMemberIndex, dlr.partLeadIndex, 
   dlr.partCpM1, dlr.partCpBlockLog2, dlr.partAreaBase, dlr.partMember, dlr.partAgeStepMs, 
   dlr.partVoteTimeoutMs, dlr.partActiveSlots, dlr.partPstate, dlr.partQueued, dlr.partStepLow, dlr.replayMax, 
   dlr.preemptEn]

/-- R395 `LINK.STATE`. -/
def hif.linkState : Field :=
  { off := 0x100, lo := 0, width := 2, acc := .ro, rst := .const 0 }
/-- R395 `LINK.WIDTH`. -/
def hif.linkWidth : Field :=
  { off := 0x100, lo := 2, width := 3, acc := .ro, rst := .const 0 }
/-- R395 `LINK.RATE`. -/
def hif.linkRate : Field :=
  { off := 0x100, lo := 5, width := 2, acc := .ro, rst := .const 0 }
/-- R395 `LINK.IDE_ON`. -/
def hif.linkIdeOn : Field :=
  { off := 0x100, lo := 7, width := 1, acc := .ro, rst := .const 0 }
/-- R395 `LINK.VFS`. -/
def hif.linkVfs : Field :=
  { off := 0x100, lo := 8, width := 4, acc := .ro, rst := .const 0 }
/-- R395 `NODE.ID`. -/
def hif.nodeId : Field :=
  { off := 0x104, lo := 0, width := 6, acc := .ro, rst := .straps }
/-- R395 `MEMWIN.SIZE_GIB`. -/
def hif.memwinSizeGib : Field :=
  { off := 0x108, lo := 0, width := 7, acc := .rwt, rst := .image 16 }
/-- R395 `APT[k].WIN_OFF`. -/
def hif.aptWinOff : Field :=
  { off := 0x140, lo := 0, width := 12, acc := .rwt, rst := .image 0, stride := 16, count := 16 }
/-- R395 `APT[k].SIZE`. -/
def hif.aptSize : Field :=
  { off := 0x140, lo := 12, width := 12, acc := .rwt, rst := .image 0, stride := 16, count := 16 }
/-- R395 `APT[k].PART`. -/
def hif.aptPart : Field :=
  { off := 0x140, lo := 24, width := 3, acc := .rwt, rst := .image 0, stride := 16, count := 16 }
/-- R395 `APT[k].RO`. -/
def hif.aptRo : Field :=
  { off := 0x140, lo := 27, width := 1, acc := .rwt, rst := .image 0, stride := 16, count := 16 }
/-- R395 `APT[k].SPACE`. -/
def hif.aptSpace : Field :=
  { off := 0x140, lo := 28, width := 1, acc := .rwt, rst := .image 0, stride := 16, count := 16 }
/-- R395 `APT[k].TGT_OFF`. -/
def hif.aptTgtOff : Field :=
  { off := 0x144, lo := 0, width := 32, acc := .rwt, rst := .image 0, stride := 16, count := 16 }
/-- R395 `RMAP[q].NODES`. -/
def hif.rmapNodes : Field :=
  { off := 0x240, lo := 0, width := 64, acc := .rwt, rst := .image 0, stride := 8, count := 8 }
/-- R395 `MEVT.BASE`. -/
def hif.mevtBase : Field :=
  { off := 0x280, lo := 0, width := 64, acc := .rw, rst := .const 0 }
/-- R395 `MEVT.LOG2`. -/
def hif.mevtLog2 : Field :=
  { off := 0x288, lo := 0, width := 5, acc := .rw, rst := .const 0 }
/-- R395 `MEVT.ENABLE`. -/
def hif.mevtEnable : Field :=
  { off := 0x288, lo := 8, width := 1, acc := .rw, rst := .const 0 }
/-- R395 `MEVT.TAIL`. -/
def hif.mevtTail : Field :=
  { off := 0x28C, lo := 0, width := 32, acc := .ro, rst := .const 0 }
/-- R395 `MEVT.HEAD`. -/
def hif.mevtHead : Field :=
  { off := 0x290, lo := 0, width := 32, acc := .rw, rst := .const 0 }
/-- R395 `MEVT.COAL_US`. -/
def hif.mevtCoalUs : Field :=
  { off := 0x294, lo := 0, width := 16, acc := .rw, rst := .const 0 }
/-- R395 `MEVT.COAL_CNT`. -/
def hif.mevtCoalCnt : Field :=
  { off := 0x294, lo := 16, width := 16, acc := .rw, rst := .const 0 }
/-- R395 `MEVT.CFG_ERR`. -/
def hif.mevtCfgErr : Field :=
  { off := 0x298, lo := 0, width := 1, acc := .w1c, rst := .const 0 }
/-- R395 `MEVT.HEAD_ERR`. -/
def hif.mevtHeadErr : Field :=
  { off := 0x298, lo := 1, width := 1, acc := .w1c, rst := .const 0 }
/-- R395 `DMA.MAX_READS`. -/
def hif.dmaMaxReads : Field :=
  { off := 0x400, lo := 0, width := 8, acc := .rwx, rst := .image 64, clamp := some (1, 128) }
/-- The fields of the HIF pages. -/
def hif.all : List Field :=
  [hif.linkState, hif.linkWidth, hif.linkRate, hif.linkIdeOn, hif.linkVfs, hif.nodeId, hif.memwinSizeGib, 
   hif.aptWinOff, hif.aptSize, hif.aptPart, hif.aptRo, hif.aptSpace, hif.aptTgtOff, hif.rmapNodes, hif.mevtBase, 
   hif.mevtLog2, hif.mevtEnable, hif.mevtTail, hif.mevtHead, hif.mevtCoalUs, hif.mevtCoalCnt, hif.mevtCfgErr, 
   hif.mevtHeadErr, hif.dmaMaxReads]

/-- R414 `LINK.STATE`. -/
def bvl.linkState : Field :=
  { off := 0x100, lo := 0, width := 3, acc := .ro, rst := .const 0 }
/-- R414 `LINK.TX_WIDTH`. -/
def bvl.linkTxWidth : Field :=
  { off := 0x100, lo := 3, width := 3, acc := .ro, rst := .const 0 }
/-- R414 `LINK.RX_WIDTH`. -/
def bvl.linkRxWidth : Field :=
  { off := 0x100, lo := 6, width := 3, acc := .ro, rst := .const 0 }
/-- R414 `LINK.DOWN_REASON`. -/
def bvl.linkDownReason : Field :=
  { off := 0x100, lo := 9, width := 3, acc := .ro, rst := .const 0 }
/-- R414 `LANES.TX_FAILED`. -/
def bvl.lanesTxFailed : Field :=
  { off := 0x104, lo := 0, width := 17, acc := .ro, rst := .const 0 }
/-- R414 `LANES.RX_FAILED`. -/
def bvl.lanesRxFailed : Field :=
  { off := 0x108, lo := 0, width := 17, acc := .ro, rst := .const 0 }
/-- R414 `LANES.RX_ACTIVE`. -/
def bvl.lanesRxActive : Field :=
  { off := 0x10C, lo := 0, width := 17, acc := .ro, rst := .const 0 }
/-- R414 `RETRY.CONSEC`. -/
def bvl.retryConsec : Field :=
  { off := 0x110, lo := 0, width := 5, acc := .ro, rst := .const 0 }
/-- R414 `RECOVER.LAST_US`. -/
def bvl.recoverLastUs : Field :=
  { off := 0x110, lo := 16, width := 16, acc := .ro, rst := .const 0 }
/-- R414 `CMD.RETRAIN`. -/
def bvl.cmdRetrain : Field :=
  { off := 0x114, lo := 0, width := 1, acc := .w1s, rst := .const 0 }
/-- R414 `OPT.AUTO_UP`. -/
def bvl.optAutoUp : Field :=
  { off := 0x118, lo := 0, width := 1, acc := .rw, rst := .image 1 }
/-- R414 `LANE[k].SYM_CORR`. -/
def bvl.laneSymCorr : Field :=
  { off := 0x180, lo := 0, width := 32, acc := .rc, rst := .const 0, stride := 4, count := 17 }
/-- R414 `ACK.EVERY`. -/
def bvl.ackEvery : Field :=
  { off := 0x400, lo := 0, width := 10, acc := .rwx, rst := .image 128, clamp := some (16, 256) }
/-- R414 `RETRY.NAK_NS`. -/
def bvl.retryNakNs : Field :=
  { off := 0x404, lo := 0, width := 16, acc := .rwx, rst := .image 1250, clamp := some (500, 5000) }
/-- R414 `RETRY.LIMIT`. -/
def bvl.retryLimit : Field :=
  { off := 0x408, lo := 0, width := 5, acc := .rwx, rst := .image 16, clamp := some (4, 16) }
/-- R414 `RECOVER.MAX_US`. -/
def bvl.recoverMaxUs : Field :=
  { off := 0x40C, lo := 0, width := 11, acc := .rwx, rst := .image 2000, clamp := some (500, 2000) }
/-- R414 `SER.SWAP`. -/
def bvl.serSwap : Field :=
  { off := 0x410, lo := 0, width := 32, acc := .rwx, rst := .image 10000 }
/-- R414 `DOWN.RETRY_MS`. -/
def bvl.downRetryMs : Field :=
  { off := 0x414, lo := 0, width := 16, acc := .rwx, rst := .image 100, clamp := some (10, 10000) }
/-- R414 `INJECT.LANE_FAIL`. -/
def bvl.injectLaneFail : Field :=
  { off := 0x418, lo := 0, width := 17, acc := .rwx, rst := .const 0 }
/-- R414 `INJECT.BAD_SLOT`. -/
def bvl.injectBadSlot : Field :=
  { off := 0x41C, lo := 0, width := 1, acc := .w1s, rst := .const 0 }
/-- The fields of the BVL pages. -/
def bvl.all : List Field :=
  [bvl.linkState, bvl.linkTxWidth, bvl.linkRxWidth, bvl.linkDownReason, bvl.lanesTxFailed, bvl.lanesRxFailed, 
   bvl.lanesRxActive, bvl.retryConsec, bvl.recoverLastUs, bvl.cmdRetrain, bvl.optAutoUp, bvl.laneSymCorr, 
   bvl.ackEvery, bvl.retryNakNs, bvl.retryLimit, bvl.recoverMaxUs, bvl.serSwap, bvl.downRetryMs, 
   bvl.injectLaneFail, bvl.injectBadSlot]

/-- R445 `TOPO.NODE`. -/
def bvf.topoNode : Field :=
  { off := 0x100, lo := 0, width := 6, acc := .ro, rst := .straps }
/-- R445 `TOPO.SUITS_M1`. -/
def bvf.topoSuitsM1 : Field :=
  { off := 0x100, lo := 8, width := 2, acc := .rwt, rst := .image 3, reach := .wide }
/-- R445 `TOPO.STRAP_MISMATCH`. -/
def bvf.topoStrapMismatch : Field :=
  { off := 0x100, lo := 16, width := 1, acc := .ro, rst := .const 0 }
/-- R445 `EPOCH.INJ`. -/
def bvf.epochInj : Field :=
  { off := 0x104, lo := 0, width := 1, acc := .ro, rst := .const 0 }
/-- R445 `EPOCH.STATE_A`. -/
def bvf.epochStateA : Field :=
  { off := 0x104, lo := 2, width := 2, acc := .ro, rst := .const 0, reach := .wide }
/-- R445 `EPOCH.STATE_B`. -/
def bvf.epochStateB : Field :=
  { off := 0x104, lo := 4, width := 2, acc := .ro, rst := .const 0, reach := .wide }
/-- R445 `EPOCH.DRAIN_COUNT`. -/
def bvf.epochDrainCount : Field :=
  { off := 0x108, lo := 0, width := 16, acc := .ro, rst := .const 0, reach := .wide }
/-- R445 `NODE.KEEPALIVE_MS`. -/
def bvf.nodeKeepaliveMs : Field :=
  { off := 0x10C, lo := 0, width := 16, acc := .rw, rst := .image 1, clamp := some (1, 100) }
/-- R445 `NODE.TIMEOUT_MS`. -/
def bvf.nodeTimeoutMs : Field :=
  { off := 0x10C, lo := 16, width := 16, acc := .rw, rst := .image 10, clamp := some (8, 1000) }
/-- R445 `TELEM.SEL`. -/
def bvf.telemSel : Field :=
  { off := 0x110, lo := 0, width := 5, acc := .rw, rst := .const 0 }
/-- R445 `TELEM.COLLECT`. -/
def bvf.telemCollect : Field :=
  { off := 0x114, lo := 0, width := 6, acc := .rw, rst := .image 0 }
/-- R445 `TELEM.PERIOD_MS`. -/
def bvf.telemPeriodMs : Field :=
  { off := 0x114, lo := 16, width := 16, acc := .rw, rst := .image 0 }
/-- R445 `RREQ.TIMEOUT_US`. -/
def bvf.rreqTimeoutUs : Field :=
  { off := 0x118, lo := 0, width := 17, acc := .rw, rst := .image 10000, clamp := some (8000, 100000) }
/-- R445 `NODE_STATE`. -/
def bvf.nodeState : Field :=
  { off := 0x140, lo := 0, width := 128, acc := .ro, rst := .const 0 }
/-- R445 `PEER[k].NODE`. -/
def bvf.peerNode : Field :=
  { off := 0x180, lo := 0, width := 6, acc := .ro, rst := .const 0, stride := 4, count := 24, reach := .wide }
/-- R445 `PEER[k].PORT`. -/
def bvf.peerPort : Field :=
  { off := 0x180, lo := 6, width := 5, acc := .ro, rst := .const 0, stride := 4, count := 24, reach := .wide }
/-- R445 `PEER[k].PSTATE`. -/
def bvf.peerPstate : Field :=
  { off := 0x180, lo := 11, width := 2, acc := .ro, rst := .const 0, stride := 4, count := 24, reach := .wide }
/-- R445 `PEER[k].NSTATE`. -/
def bvf.peerNstate : Field :=
  { off := 0x180, lo := 13, width := 2, acc := .ro, rst := .const 0, stride := 4, count := 24, reach := .wide }
/-- R445 `PEER[k].EXP_NODE`. -/
def bvf.peerExpNode : Field :=
  { off := 0x180, lo := 15, width := 6, acc := .ro, rst := .const 0, stride := 4, count := 24, reach := .wide }
/-- R445 `PEER[k].EXP_PORT`. -/
def bvf.peerExpPort : Field :=
  { off := 0x180, lo := 21, width := 5, acc := .ro, rst := .const 0, stride := 4, count := 24, reach := .wide }
/-- R445 `ROUTE_A[n]`. -/
def bvf.routeA : Field :=
  { off := 0x200, lo := 0, width := 32, acc := .rw, rst := .image 0, stride := 4, count := 64, reach := .wide }
/-- R445 `ROUTE_B[n]`. -/
def bvf.routeB : Field :=
  { off := 0x300, lo := 0, width := 32, acc := .rw, rst := .image 0, stride := 4, count := 64, reach := .wide }
/-- R445 `WEIGHT[k]`. -/
def bvf.weight : Field :=
  { off := 0x400, lo := 0, width := 32, acc := .rwx, rst := .image 18092898, stride := 4, count := 24, reach := .wide }
/-- R445 `VCBUF[t][h]`. -/
def bvf.vcbuf : Field :=
  { off := 0x480, lo := 0, width := 16, acc := .rwt, rst := .image 0, stride := 2, count := 24, reach := .wide }
/-- R445 `INJECT.LOSS`. -/
def bvf.injectLoss : Field :=
  { off := 0x4C0, lo := 0, width := 1, acc := .w1s, rst := .const 0 }
/-- The fields of the BVF pages. -/
def bvf.all : List Field :=
  [bvf.topoNode, bvf.topoSuitsM1, bvf.topoStrapMismatch, bvf.epochInj, bvf.epochStateA, bvf.epochStateB, 
   bvf.epochDrainCount, bvf.nodeKeepaliveMs, bvf.nodeTimeoutMs, bvf.telemSel, bvf.telemCollect, 
   bvf.telemPeriodMs, bvf.rreqTimeoutUs, bvf.nodeState, bvf.peerNode, bvf.peerPort, bvf.peerPstate, 
   bvf.peerNstate, bvf.peerExpNode, bvf.peerExpPort, bvf.routeA, bvf.routeB, bvf.weight, bvf.vcbuf, 
   bvf.injectLoss]

/-- R485 `ACTIVE.ACCEPTED`. -/
def ce.activeAccepted : Field :=
  { off := 0x100, lo := 0, width := 7, acc := .ro, rst := .const 0 }
/-- R485 `ACTIVE.SERVING_PARTNER`. -/
def ce.activeServingPartner : Field :=
  { off := 0x100, lo := 7, width := 1, acc := .ro, rst := .const 0 }
/-- R485 `ACTIVE.PARTNER_OUT`. -/
def ce.activePartnerOut : Field :=
  { off := 0x100, lo := 8, width := 1, acc := .ro, rst := .const 0 }
/-- R485 `TIMEOUT.MS`. -/
def ce.timeoutMs : Field :=
  { off := 0x104, lo := 0, width := 16, acc := .rw, rst := .image 20, clamp := some (8, 1000) }
/-- R485 `PAUSE.MAX_MS`. -/
def ce.pauseMaxMs : Field :=
  { off := 0x104, lo := 16, width := 8, acc := .rw, rst := .image 10, clamp := some (0, 10) }
/-- R485 `LAST.GROUP`. -/
def ce.lastGroup : Field :=
  { off := 0x108, lo := 0, width := 6, acc := .ro, rst := .const 0 }
/-- R485 `LAST.STATUS`. -/
def ce.lastStatus : Field :=
  { off := 0x108, lo := 8, width := 8, acc := .ro, rst := .const 0 }
/-- R485 `GRP[j].MEMBERS_LO`. -/
def ce.grpMembersLo : Field :=
  { off := 0x200, lo := 0, width := 32, acc := .rwt, rst := .image 0, stride := 32, count := 16 }
/-- R485 `GRP[j].MEMBERS_HI`. -/
def ce.grpMembersHi : Field :=
  { off := 0x204, lo := 0, width := 32, acc := .rwt, rst := .image 0, stride := 32, count := 16 }
/-- R485 `GRP[j].PART`. -/
def ce.grpPart : Field :=
  { off := 0x208, lo := 0, width := 3, acc := .rwt, rst := .image 0, stride := 32, count := 16 }
/-- R485 `GRP[j].VALID`. -/
def ce.grpValid : Field :=
  { off := 0x208, lo := 3, width := 1, acc := .rwt, rst := .image 0, stride := 32, count := 16 }
/-- R485 `GRP[j].REFORM`. -/
def ce.grpReform : Field :=
  { off := 0x208, lo := 4, width := 1, acc := .rwt, rst := .image 0, stride := 32, count := 16 }
/-- R485 `GRP[j].CHUNK_KIB`. -/
def ce.grpChunkKib : Field :=
  { off := 0x208, lo := 8, width := 7, acc := .rwt, rst := .image 64, stride := 32, count := 16 }
/-- R485 `GRP[j].AREA`. -/
def ce.grpArea : Field :=
  { off := 0x20C, lo := 0, width := 29, acc := .rwt, rst := .image 0, stride := 32, count := 16 }
/-- R485 `GRP[j].GSTATE`. -/
def ce.grpGstate : Field :=
  { off := 0x210, lo := 0, width := 3, acc := .ro, rst := .const 0, stride := 32, count := 16 }
/-- R485 `GRP[j].GEN`. -/
def ce.grpGen : Field :=
  { off := 0x210, lo := 3, width := 8, acc := .ro, rst := .const 0, stride := 32, count := 16 }
/-- R485 `GRP[j].ACCEPTED`. -/
def ce.grpAccepted : Field :=
  { off := 0x210, lo := 11, width := 3, acc := .ro, rst := .const 0, stride := 32, count := 16 }
/-- R485 `GRP[j].NEXT_SEQ`. -/
def ce.grpNextSeq : Field :=
  { off := 0x214, lo := 0, width := 32, acc := .ro, rst := .const 0, stride := 32, count := 16 }
/-- R485 `GRP[j].LIVE_LO`. -/
def ce.grpLiveLo : Field :=
  { off := 0x218, lo := 0, width := 32, acc := .ro, rst := .const 0, stride := 32, count := 16 }
/-- R485 `GRP[j].LIVE_HI`. -/
def ce.grpLiveHi : Field :=
  { off := 0x21C, lo := 0, width := 32, acc := .ro, rst := .const 0, stride := 32, count := 16 }
/-- R485 `RESEND.MAX`. -/
def ce.resendMax : Field :=
  { off := 0x400, lo := 0, width := 3, acc := .rwx, rst := .image 3 }
/-- R485 `INJECT.CRC`. -/
def ce.injectCrc : Field :=
  { off := 0x404, lo := 0, width := 1, acc := .w1s, rst := .const 0 }
/-- R485 `INJECT.DIGEST`. -/
def ce.injectDigest : Field :=
  { off := 0x404, lo := 1, width := 1, acc := .w1s, rst := .const 0 }
/-- The fields of the CE pages. -/
def ce.all : List Field :=
  [ce.activeAccepted, ce.activeServingPartner, ce.activePartnerOut, ce.timeoutMs, ce.pauseMaxMs, ce.lastGroup, 
   ce.lastStatus, ce.grpMembersLo, ce.grpMembersHi, ce.grpPart, ce.grpValid, ce.grpReform, ce.grpChunkKib, 
   ce.grpArea, ce.grpGstate, ce.grpGen, ce.grpAccepted, ce.grpNextSeq, ce.grpLiveLo, ce.grpLiveHi, ce.resendMax, 
   ce.injectCrc, ce.injectDigest]

/-- R507 `DEBUG.JTAG_LOCK`. -/
def sec.debugJtagLock : Field :=
  { off := 0x100, lo := 0, width := 1, acc := .ro, rst := .const 1 }
/-- R507 `DEBUG.UNLOCKED`. -/
def sec.debugUnlocked : Field :=
  { off := 0x100, lo := 1, width := 1, acc := .ro, rst := .const 0 }
/-- R507 `DEBUG.SCOPE`. -/
def sec.debugScope : Field :=
  { off := 0x100, lo := 2, width := 3, acc := .ro, rst := .const 0 }
/-- R507 `DEBUG.UNLOCK_COUNT`. -/
def sec.debugUnlockCount : Field :=
  { off := 0x100, lo := 8, width := 7, acc := .ro, rst := .fuse }
/-- R507 `DEBUG.LIFECYCLE`. -/
def sec.debugLifecycle : Field :=
  { off := 0x100, lo := 16, width := 2, acc := .ro, rst := .fuse }
/-- R507 `MBOX.CMD`. -/
def sec.mboxCmd : Field :=
  { off := 0x108, lo := 0, width := 8, acc := .rw, rst := .const 0 }
/-- R507 `MBOX.PART`. -/
def sec.mboxPart : Field :=
  { off := 0x108, lo := 8, width := 3, acc := .rw, rst := .const 0 }
/-- R507 `MBOX.GO`. -/
def sec.mboxGo : Field :=
  { off := 0x108, lo := 31, width := 1, acc := .w1s, rst := .const 0 }
/-- R507 `MBOX.BUSY`. -/
def sec.mboxBusy : Field :=
  { off := 0x10C, lo := 0, width := 1, acc := .ro, rst := .const 0 }
/-- R507 `MBOX.RESULT`. -/
def sec.mboxResult : Field :=
  { off := 0x10C, lo := 8, width := 8, acc := .ro, rst := .const 0 }
/-- R507 `MBOX.ARG0`. -/
def sec.mboxArg0 : Field :=
  { off := 0x110, lo := 0, width := 64, acc := .rw, rst := .const 0 }
/-- R507 `MBOX.ARG1`. -/
def sec.mboxArg1 : Field :=
  { off := 0x118, lo := 0, width := 64, acc := .rw, rst := .const 0 }
/-- R507 `MBOX.OUT0`. -/
def sec.mboxOut0 : Field :=
  { off := 0x120, lo := 0, width := 64, acc := .ro, rst := .const 0 }
/-- R507 `CHALLENGE`. -/
def sec.challenge : Field :=
  { off := 0x140, lo := 0, width := 256, acc := .ro, rst := .const 0 }
/-- R507 `PART[p].SEAL_STATE`. -/
def sec.partSealState : Field :=
  { off := 0x180, lo := 0, width := 2, acc := .ro, rst := .const 0, stride := 8, count := 8 }
/-- R507 `PART[p].SESSION`. -/
def sec.partSession : Field :=
  { off := 0x180, lo := 2, width := 1, acc := .ro, rst := .const 0, stride := 8, count := 8 }
/-- R507 `PART[p].KEY_GEN`. -/
def sec.partKeyGen : Field :=
  { off := 0x180, lo := 8, width := 8, acc := .ro, rst := .const 0, stride := 8, count := 8 }
/-- R507 `PART[p].RANGES`. -/
def sec.partRanges : Field :=
  { off := 0x180, lo := 16, width := 8, acc := .ro, rst := .const 0, stride := 8, count := 8 }
/-- R507 `PART[p].CHUNKS_DONE`. -/
def sec.partChunksDone : Field :=
  { off := 0x180, lo := 32, width := 32, acc := .ro, rst := .const 0, stride := 8, count := 8 }
/-- R507 `PART[p].OPEN[r].BASE`. -/
def sec.partOpenBase : Field :=
  { off := 0x200, lo := 0, width := 64, acc := .rw, rst := .const 0, stride := 64, count := 8 }
/-- R507 `PART[p].OPEN[r].BASE`. -/
def sec.partOpenBase1 : Field :=
  { off := 0x210, lo := 0, width := 64, acc := .rw, rst := .const 0, stride := 64, count := 8 }
/-- R507 `PART[p].OPEN[r].BASE`. -/
def sec.partOpenBase2 : Field :=
  { off := 0x220, lo := 0, width := 64, acc := .rw, rst := .const 0, stride := 64, count := 8 }
/-- R507 `PART[p].OPEN[r].BASE`. -/
def sec.partOpenBase3 : Field :=
  { off := 0x230, lo := 0, width := 64, acc := .rw, rst := .const 0, stride := 64, count := 8 }
/-- R507 `PART[p].OPEN[r].SIZE`. -/
def sec.partOpenSize : Field :=
  { off := 0x208, lo := 0, width := 64, acc := .rw, rst := .const 0, stride := 64, count := 8 }
/-- R507 `PART[p].OPEN[r].SIZE`. -/
def sec.partOpenSize1 : Field :=
  { off := 0x218, lo := 0, width := 64, acc := .rw, rst := .const 0, stride := 64, count := 8 }
/-- R507 `PART[p].OPEN[r].SIZE`. -/
def sec.partOpenSize2 : Field :=
  { off := 0x228, lo := 0, width := 64, acc := .rw, rst := .const 0, stride := 64, count := 8 }
/-- R507 `PART[p].OPEN[r].SIZE`. -/
def sec.partOpenSize3 : Field :=
  { off := 0x238, lo := 0, width := 64, acc := .rw, rst := .const 0, stride := 64, count := 8 }
/-- The fields of the SEC pages. -/
def sec.all : List Field :=
  [sec.debugJtagLock, sec.debugUnlocked, sec.debugScope, sec.debugUnlockCount, sec.debugLifecycle, sec.mboxCmd, 
   sec.mboxPart, sec.mboxGo, sec.mboxBusy, sec.mboxResult, sec.mboxArg0, sec.mboxArg1, sec.mboxOut0, 
   sec.challenge, sec.partSealState, sec.partSession, sec.partKeyGen, sec.partRanges, sec.partChunksDone, 
   sec.partOpenBase, sec.partOpenBase1, sec.partOpenBase2, sec.partOpenBase3, sec.partOpenSize, 
   sec.partOpenSize1, sec.partOpenSize2, sec.partOpenSize3]

/-- R534 `CAP.MGT_W`. -/
def pwr.capMgtW : Field :=
  { off := 0x100, lo := 0, width := 12, acc := .rw, rst := .image 1800, clamp := some (300, 2200), mgmtOnly := true }
/-- R534 `CAP.HOST_W`. -/
def pwr.capHostW : Field :=
  { off := 0x100, lo := 16, width := 12, acc := .rw, rst := .const 0 }
/-- R534 `CAP.SAFE_W`. -/
def pwr.capSafeW : Field :=
  { off := 0x104, lo := 0, width := 12, acc := .rw, rst := .image 900, clamp := some (300, 2200), mgmtOnly := true }
/-- R534 `FLOOR.W`. -/
def pwr.floorW : Field :=
  { off := 0x104, lo := 16, width := 12, acc := .rw, rst := .image 600, clamp := some (300, 1200), mgmtOnly := true }
/-- R534 `CAP.EFF_W`. -/
def pwr.capEffW : Field :=
  { off := 0x108, lo := 0, width := 12, acc := .ro, rst := .const 1800 }
/-- R534 `CAP.SOURCE`. -/
def pwr.capSource : Field :=
  { off := 0x108, lo := 12, width := 3, acc := .ro, rst := .const 1 }
/-- R534 `P.IN_1MS_W`. -/
def pwr.pIn1msW : Field :=
  { off := 0x10C, lo := 0, width := 12, acc := .ro, rst := .const 0 }
/-- R534 `P.PEAK_W`. -/
def pwr.pPeakW : Field :=
  { off := 0x10C, lo := 16, width := 12, acc := .rc, rst := .const 0 }
/-- R534 `STAT.THROT`. -/
def pwr.statThrot : Field :=
  { off := 0x110, lo := 0, width := 1, acc := .ro, rst := .const 0 }
/-- R534 `STAT.RAMP`. -/
def pwr.statRamp : Field :=
  { off := 0x110, lo := 1, width := 1, acc := .ro, rst := .const 0 }
/-- R534 `STAT.SYNC_OK`. -/
def pwr.statSyncOk : Field :=
  { off := 0x110, lo := 2, width := 1, acc := .ro, rst := .const 0 }
/-- R534 `STAT.SENSOR_FLOOR`. -/
def pwr.statSensorFloor : Field :=
  { off := 0x110, lo := 3, width := 1, acc := .ro, rst := .const 0 }
/-- R534 `STAT.SAFE`. -/
def pwr.statSafe : Field :=
  { off := 0x110, lo := 4, width := 1, acc := .ro, rst := .const 0 }
/-- R534 `STAT.PARKED`. -/
def pwr.statParked : Field :=
  { off := 0x110, lo := 5, width := 1, acc := .ro, rst := .const 0 }
/-- R534 `STAT.PRED`. -/
def pwr.statPred : Field :=
  { off := 0x110, lo := 6, width := 1, acc := .ro, rst := .const 0 }
/-- R534 `STAT.LIMITER_DIE`. -/
def pwr.statLimiterDie : Field :=
  { off := 0x110, lo := 7, width := 1, acc := .ro, rst := .const 0 }
/-- R534 `RAMP.W_PER_MS`. -/
def pwr.rampWPerMs : Field :=
  { off := 0x114, lo := 0, width := 9, acc := .rw, rst := .image 40, clamp := some (5, 400) }
/-- R534 `PARK.AUTO_MS`. -/
def pwr.parkAutoMs : Field :=
  { off := 0x118, lo := 0, width := 16, acc := .rw, rst := .image 0 }
/-- R534 `PARK.CMD`. -/
def pwr.parkCmd : Field :=
  { off := 0x118, lo := 16, width := 1, acc := .w1s, rst := .const 0 }
/-- R534 `WAKE.CMD`. -/
def pwr.wakeCmd : Field :=
  { off := 0x118, lo := 17, width := 1, acc := .w1s, rst := .const 0 }
/-- R534 `ANTE.LEND`. -/
def pwr.anteLend : Field :=
  { off := 0x11C, lo := 0, width := 1, acc := .rw, rst := .image 1 }
/-- R534 `PART[p].CLASS`. -/
def pwr.partClass : Field :=
  { off := 0x140, lo := 0, width := 1, acc := .rwt, rst := .image 0, stride := 8, count := 8 }
/-- R534 `PART[p].ANTE`. -/
def pwr.partAnte : Field :=
  { off := 0x140, lo := 8, width := 8, acc := .rwt, rst := .image 0, stride := 8, count := 8 }
/-- R534 `PART[p].ANTE_MHZ`. -/
def pwr.partAnteMhz : Field :=
  { off := 0x140, lo := 16, width := 11, acc := .rwt, rst := .image 1200, stride := 8, count := 8 }
/-- R534 `PART[p].P_W`. -/
def pwr.partPW : Field :=
  { off := 0x144, lo := 0, width := 12, acc := .ro, rst := .const 0, stride := 8, count := 8 }
/-- R534 `PART[p].HOLD`. -/
def pwr.partHold : Field :=
  { off := 0x144, lo := 16, width := 6, acc := .ro, rst := .const 0, stride := 8, count := 8 }
/-- R534 `PRED.MARGIN_W`. -/
def pwr.predMarginW : Field :=
  { off := 0x400, lo := 0, width := 8, acc := .rwx, rst := .image 50 }
/-- R534 `PRED.ALPHA_SHIFT`. -/
def pwr.predAlphaShift : Field :=
  { off := 0x404, lo := 0, width := 3, acc := .rwx, rst := .image 3, clamp := some (1, 6) }
/-- R534 `PRED.EN`. -/
def pwr.predEn : Field :=
  { off := 0x404, lo := 8, width := 1, acc := .rwx, rst := .image 1 }
/-- R534 `FLOOR.MHZ`. -/
def pwr.floorMhz : Field :=
  { off := 0x408, lo := 0, width := 11, acc := .rwx, rst := .image 600, clamp := some (400, 1200) }
/-- R534 `DROOP.THRESH_MV`. -/
def pwr.droopThreshMv : Field :=
  { off := 0x40C, lo := 0, width := 7, acc := .rwx, rst := .image 40, clamp := some (20, 100) }
/-- R534 `DROOP.PHASE_LIMIT`. -/
def pwr.droopPhaseLimit : Field :=
  { off := 0x40C, lo := 8, width := 16, acc := .rwx, rst := .image 16 }
/-- R534 `GATE.IDLE_US`. -/
def pwr.gateIdleUs : Field :=
  { off := 0x410, lo := 0, width := 16, acc := .rwx, rst := .image 200, clamp := some (20, 10000) }
/-- R534 `HOLD.MAX`. -/
def pwr.holdMax : Field :=
  { off := 0x414, lo := 0, width := 6, acc := .rwx, rst := .image 60, clamp := some (32, 60) }
/-- The fields of the PWR pages. -/
def pwr.all : List Field :=
  [pwr.capMgtW, pwr.capHostW, pwr.capSafeW, pwr.floorW, pwr.capEffW, pwr.capSource, pwr.pIn1msW, pwr.pPeakW, 
   pwr.statThrot, pwr.statRamp, pwr.statSyncOk, pwr.statSensorFloor, pwr.statSafe, pwr.statParked, pwr.statPred, 
   pwr.statLimiterDie, pwr.rampWPerMs, pwr.parkAutoMs, pwr.parkCmd, pwr.wakeCmd, pwr.anteLend, pwr.partClass, 
   pwr.partAnte, pwr.partAnteMhz, pwr.partPW, pwr.partHold, pwr.predMarginW, pwr.predAlphaShift, pwr.predEn, 
   pwr.floorMhz, pwr.droopThreshMv, pwr.droopPhaseLimit, pwr.gateIdleUs, pwr.holdMax]

/-- R535 `TJ.MAX_C`. -/
def thm.tjMaxC : Field :=
  { off := 0x100, lo := 0, width := 8, acc := .ro, rst := .const 0 }
/-- R535 `TJ.HOT_TILE`. -/
def thm.tjHotTile : Field :=
  { off := 0x100, lo := 8, width := 9, acc := .ro, rst := .const 0 }
/-- R535 `COLD.INLET`. -/
def thm.coldInlet : Field :=
  { off := 0x104, lo := 0, width := 10, acc := .ro, rst := .const 0 }
/-- R535 `COLD.OUTLET`. -/
def thm.coldOutlet : Field :=
  { off := 0x104, lo := 16, width := 10, acc := .ro, rst := .const 0 }
/-- R535 `STAT.THROTTLE`. -/
def thm.statThrottle : Field :=
  { off := 0x108, lo := 0, width := 1, acc := .ro, rst := .const 0 }
/-- R535 `STAT.COOLANT_OK`. -/
def thm.statCoolantOk : Field :=
  { off := 0x108, lo := 1, width := 1, acc := .ro, rst := .const 0 }
/-- R535 `STAT.COOLANT_SUSPECT`. -/
def thm.statCoolantSuspect : Field :=
  { off := 0x108, lo := 2, width := 1, acc := .ro, rst := .const 0 }
/-- R535 `STAT.SENSE_FAIL`. -/
def thm.statSenseFail : Field :=
  { off := 0x108, lo := 3, width := 1, acc := .ro, rst := .const 0 }
/-- R535 `STAT.CP_IMPLAUSIBLE`. -/
def thm.statCpImplausible : Field :=
  { off := 0x108, lo := 4, width := 1, acc := .ro, rst := .const 0 }
/-- R535 `STAT.CUR_IMPLAUSIBLE`. -/
def thm.statCurImplausible : Field :=
  { off := 0x108, lo := 5, width := 1, acc := .ro, rst := .const 0 }
/-- R535 `STAT.DIODES_EXCLUDED`. -/
def thm.statDiodesExcluded : Field :=
  { off := 0x108, lo := 16, width := 16, acc := .ro, rst := .const 0 }
/-- R535 `CAP_THM_W`. -/
def thm.capThmW : Field :=
  { off := 0x10C, lo := 0, width := 12, acc := .ro, rst := .const 2200 }
/-- R535 `LAST.BAD_TILE`. -/
def thm.lastBadTile : Field :=
  { off := 0x110, lo := 0, width := 9, acc := .ro, rst := .const 0 }
/-- R535 `LAST.BAD_DIODE`. -/
def thm.lastBadDiode : Field :=
  { off := 0x110, lo := 9, width := 2, acc := .ro, rst := .const 0 }
/-- R535 `THROTTLE_C`. -/
def thm.throttleC : Field :=
  { off := 0x400, lo := 0, width := 8, acc := .rwx, rst := .image 95, clamp := some (80, 95) }
/-- R535 `MEM_THROTTLE_C`. -/
def thm.memThrottleC : Field :=
  { off := 0x400, lo := 8, width := 8, acc := .rwx, rst := .image 90, clamp := some (75, 90) }
/-- R535 `THROTTLE.STEP_W`. -/
def thm.throttleStepW : Field :=
  { off := 0x404, lo := 0, width := 8, acc := .rwx, rst := .image 50, clamp := some (10, 200) }
/-- R535 `HYST_K`. -/
def thm.hystK : Field :=
  { off := 0x404, lo := 8, width := 4, acc := .rwx, rst := .image 3, clamp := some (1, 10) }
/-- R535 `PLAUS.DIODE_K`. -/
def thm.plausDiodeK : Field :=
  { off := 0x408, lo := 0, width := 4, acc := .rwx, rst := .image 6 }
/-- R535 `PLAUS.RATE_K`. -/
def thm.plausRateK : Field :=
  { off := 0x408, lo := 4, width := 8, acc := .rwx, rst := .image 10 }
/-- R535 `PLAUS.MODEL_K`. -/
def thm.plausModelK : Field :=
  { off := 0x408, lo := 12, width := 8, acc := .rwx, rst := .image 10 }
/-- The fields of the THM pages. -/
def thm.all : List Field :=
  [thm.tjMaxC, thm.tjHotTile, thm.coldInlet, thm.coldOutlet, thm.statThrottle, thm.statCoolantOk, 
   thm.statCoolantSuspect, thm.statSenseFail, thm.statCpImplausible, thm.statCurImplausible, 
   thm.statDiodesExcluded, thm.capThmW, thm.lastBadTile, thm.lastBadDiode, thm.throttleC, thm.memThrottleC, 
   thm.throttleStepW, thm.hystK, thm.plausDiodeK, thm.plausRateK, thm.plausModelK]

/-- R562 `STATE.MODE`. -/
def boot.stateMode : Field :=
  { off := 0x100, lo := 0, width := 3, acc := .ro, rst := .const 0 }
/-- R562 `STATE.STAGE`. -/
def boot.stateStage : Field :=
  { off := 0x100, lo := 4, width := 4, acc := .ro, rst := .const 0 }
/-- R562 `STATE.COMPUTE_RESET`. -/
def boot.stateComputeReset : Field :=
  { off := 0x100, lo := 8, width := 1, acc := .ro, rst := .const 0 }
/-- R562 `CMD.CODE`. -/
def boot.cmdCode : Field :=
  { off := 0x104, lo := 0, width := 4, acc := .rw, rst := .const 0 }
/-- R562 `CMD.GO`. -/
def boot.cmdGo : Field :=
  { off := 0x104, lo := 31, width := 1, acc := .w1s, rst := .const 0 }
/-- R562 `FAILS.CONSEC`. -/
def boot.failsConsec : Field :=
  { off := 0x108, lo := 0, width := 8, acc := .ro, rst := .const 0 }
/-- R562 `FAILS.LAST_REASON`. -/
def boot.failsLastReason : Field :=
  { off := 0x108, lo := 16, width := 16, acc := .ro, rst := .const 0 }
/-- R562 `BOOT_COUNT`. -/
def boot.bootCount : Field :=
  { off := 0x10C, lo := 0, width := 32, acc := .ro, rst := .const 0 }
/-- R562 `UPDATE.ADDR`. -/
def boot.updateAddr : Field :=
  { off := 0x110, lo := 0, width := 64, acc := .rw, rst := .const 0 }
/-- R562 `UPDATE.LEN`. -/
def boot.updateLen : Field :=
  { off := 0x118, lo := 0, width := 26, acc := .rw, rst := .const 0 }
/-- R562 `UPDATE.GO`. -/
def boot.updateGo : Field :=
  { off := 0x11C, lo := 0, width := 1, acc := .w1s, rst := .const 0 }
/-- R562 `UPDATE.BUSY`. -/
def boot.updateBusy : Field :=
  { off := 0x11C, lo := 1, width := 1, acc := .ro, rst := .const 0 }
/-- R562 `UPDATE.RESULT`. -/
def boot.updateResult : Field :=
  { off := 0x11C, lo := 4, width := 4, acc := .ro, rst := .const 0 }
/-- R562 `UPDATE.DONE_KIB`. -/
def boot.updateDoneKib : Field :=
  { off := 0x11C, lo := 8, width := 24, acc := .ro, rst := .const 0 }
/-- R562 `OPT.STABLE_S`. -/
def boot.optStableS : Field :=
  { off := 0x120, lo := 0, width := 16, acc := .rw, rst := .image 300, clamp := some (60, 65535) }
/-- R562 `OPT.HOLD_TEST`. -/
def boot.optHoldTest : Field :=
  { off := 0x400, lo := 0, width := 1, acc := .rwx, rst := .image 0 }
/-- R562 `OPT.START_WDT_S`. -/
def boot.optStartWdtS : Field :=
  { off := 0x404, lo := 0, width := 6, acc := .rwx, rst := .image 10, clamp := some (2, 60) }
/-- R562 `BCAST.REPEAT_MIN`. -/
def boot.bcastRepeatMin : Field :=
  { off := 0x408, lo := 0, width := 11, acc := .rwx, rst := .image 8 }
/-- The fields of the BOOT pages. -/
def boot.all : List Field :=
  [boot.stateMode, boot.stateStage, boot.stateComputeReset, boot.cmdCode, boot.cmdGo, boot.failsConsec, 
   boot.failsLastReason, boot.bootCount, boot.updateAddr, boot.updateLen, boot.updateGo, boot.updateBusy, 
   boot.updateResult, boot.updateDoneKib, boot.optStableS, boot.optHoldTest, boot.optStartWdtS, 
   boot.bcastRepeatMin]

/-- R565 `ROLE`. -/
def mcc.role : Field :=
  { off := 0x100, lo := 0, width := 2, acc := .ro, rst := .const 0 }
/-- R565 `OWNER`. -/
def mcc.owner : Field :=
  { off := 0x100, lo := 2, width := 1, acc := .ro, rst := .const 0 }
/-- R565 `SYNCED`. -/
def mcc.synced : Field :=
  { off := 0x100, lo := 3, width := 1, acc := .ro, rst := .const 0 }
/-- R565 `FW.STATE`. -/
def mcc.fwState : Field :=
  { off := 0x100, lo := 8, width := 4, acc := .ro, rst := .const 0 }
/-- R565 `JOURNAL_LAG`. -/
def mcc.journalLag : Field :=
  { off := 0x100, lo := 16, width := 16, acc := .ro, rst := .const 0 }
/-- R565 `FW.SVN`. -/
def mcc.fwSvn : Field :=
  { off := 0x104, lo := 0, width := 16, acc := .ro, rst := .const 0 }
/-- R565 `RESET.COMPUTE`. -/
def mcc.resetCompute : Field :=
  { off := 0x108, lo := 0, width := 1, acc := .w1s, rst := .const 0 }
/-- R565 `POLICY.PF_EXPERT`. -/
def mcc.policyPfExpert : Field :=
  { off := 0x140, lo := 0, width := 128, acc := .rw, rst := .image 0, reach := .wide, mgmtOnly := true }
/-- R565 `POLICY.MGT_EXPERT`. -/
def mcc.policyMgtExpert : Field :=
  { off := 0x150, lo := 0, width := 128, acc := .rw, rst := .image hasExpertMask, reach := .wide, mgmtOnly := true }
/-- R565 `CONV.EFF`. -/
def mcc.convEff : Field :=
  { off := 0x160, lo := 0, width := 16, acc := .rwt, rst := .image 61604, reach := .wide }
/-- R565 `COEF.DIE0`. -/
def mcc.coefDie0 : Field :=
  { off := 0x164, lo := 0, width := 16, acc := .rwt, rst := .fuse, reach := .wide }
/-- R565 `COEF.DIE1`. -/
def mcc.coefDie1 : Field :=
  { off := 0x164, lo := 16, width := 16, acc := .rwt, rst := .fuse, reach := .wide }
/-- R565 `COEF.TILE[i]`. -/
def mcc.coefTile : Field :=
  { off := 0x180, lo := 0, width := 16, acc := .rwt, rst := .fuse, stride := 2, count := 264, reach := .wide }
/-- R565 `COEF.CLUSTER[c]`. -/
def mcc.coefCluster : Field :=
  { off := 0x390, lo := 0, width := 16, acc := .rwt, rst := .fuse, stride := 2, count := 32, reach := .wide }
/-- The fields of the MCC pages. -/
def mcc.all : List Field :=
  [mcc.role, mcc.owner, mcc.synced, mcc.fwState, mcc.journalLag, mcc.fwSvn, mcc.resetCompute, 
   mcc.policyPfExpert, mcc.policyMgtExpert, mcc.convEff, mcc.coefDie0, mcc.coefDie1, mcc.coefTile, 
   mcc.coefCluster]

/-- R567 `LATCH.HOLDER`. -/
def aon.latchHolder : Field :=
  { off := 0x100, lo := 0, width := 3, acc := .ro, rst := .const 0 }
/-- R567 `LATCH.INTERLOCK_OK`. -/
def aon.latchInterlockOk : Field :=
  { off := 0x100, lo := 3, width := 1, acc := .ro, rst := .const 0 }
/-- R567 `HB.MISSING`. -/
def aon.hbMissing : Field :=
  { off := 0x100, lo := 4, width := 3, acc := .ro, rst := .const 0 }
/-- R567 `UPTIME_S`. -/
def aon.uptimeS : Field :=
  { off := 0x104, lo := 0, width := 32, acc := .ro, rst := .const 0 }
/-- R567 `VIN_MV`. -/
def aon.vinMv : Field :=
  { off := 0x108, lo := 0, width := 16, acc := .ro, rst := .const 0 }
/-- R567 `SUSPECT.COUNT`. -/
def aon.suspectCount : Field :=
  { off := 0x108, lo := 16, width := 8, acc := .ro, rst := .const 0 }
/-- R567 `XTAL.PPM`. -/
def aon.xtalPpm : Field :=
  { off := 0x10C, lo := 0, width := 8, acc := .ro, rst := .const 0 }
/-- R567 `STOP.CAUSE`. -/
def aon.stopCause : Field :=
  { off := 0x110, lo := 0, width := 16, acc := .ro, rst := .const 0 }
/-- The fields of the AON pages. -/
def aon.all : List Field :=
  [aon.latchHolder, aon.latchInterlockOk, aon.hbMissing, aon.uptimeS, aon.vinMv, aon.suspectCount, aon.xtalPpm, 
   aon.stopCause]

/-- R568 `REF.STATE`. -/
def clk.refState : Field :=
  { off := 0x100, lo := 0, width := 2, acc := .ro, rst := .const 0 }
/-- R568 `PLL.UNLOCKED`. -/
def clk.pllUnlocked : Field :=
  { off := 0x100, lo := 8, width := 8, acc := .ro, rst := .const 0 }
/-- R568 `TABLE_MHZ`. -/
def clk.tableMhz : Field :=
  { off := 0x104, lo := 0, width := 11, acc := .ro, rst := .const 1600 }
/-- R568 `ENGINE_MHZ`. -/
def clk.engineMhz : Field :=
  { off := 0x104, lo := 16, width := 11, acc := .ro, rst := .const 1200 }
/-- R568 `GATED.TILES`. -/
def clk.gatedTiles : Field :=
  { off := 0x108, lo := 0, width := 16, acc := .ro, rst := .const 0 }
/-- R568 `GATED.CLUSTERS`. -/
def clk.gatedClusters : Field :=
  { off := 0x108, lo := 16, width := 6, acc := .ro, rst := .const 0 }
/-- R568 `PLL.LOCK_TIMEOUT_US`. -/
def clk.pllLockTimeoutUs : Field :=
  { off := 0x400, lo := 0, width := 10, acc := .rwx, rst := .image 100, clamp := some (40, 1000) }
/-- The fields of the CLK pages. -/
def clk.all : List Field :=
  [clk.refState, clk.pllUnlocked, clk.tableMhz, clk.engineMhz, clk.gatedTiles, clk.gatedClusters, 
   clk.pllLockTimeoutUs]

/-- R591 `MAPSEL.TYPE`. -/
def spr.mapselType : Field :=
  { off := 0x100, lo := 0, width := 16, acc := .rw, rst := .const 0 }
/-- R591 `MAPSEL.BASE`. -/
def spr.mapselBase : Field :=
  { off := 0x100, lo := 16, width := 16, acc := .rw, rst := .const 0 }
/-- R591 `DISCARD.USED`. -/
def spr.discardUsed : Field :=
  { off := 0x104, lo := 0, width := 10, acc := .ro, rst := .fuse }
/-- R591 `DISCARD.OVERFLOW`. -/
def spr.discardOverflow : Field :=
  { off := 0x104, lo := 16, width := 7, acc := .ro, rst := .const 0 }
/-- R591 `DISCARD.INDEX`. -/
def spr.discardIndex : Field :=
  { off := 0x108, lo := 0, width := 9, acc := .rw, rst := .const 0 }
/-- R591 `DISCARD.ENTRY`. -/
def spr.discardEntry : Field :=
  { off := 0x110, lo := 0, width := 64, acc := .ro, rst := .fuse }
/-- R591 `OWN.HOLDER`. -/
def spr.ownHolder : Field :=
  { off := 0x118, lo := 0, width := 3, acc := .ro, rst := .const 0 }
/-- R591 `OWN.INTERLOCK_OK`. -/
def spr.ownInterlockOk : Field :=
  { off := 0x118, lo := 3, width := 1, acc := .ro, rst := .const 0 }
/-- R591 `OWN.RELEASE`. -/
def spr.ownRelease : Field :=
  { off := 0x11C, lo := 0, width := 3, acc := .w1s, rst := .const 0 }
/-- R591 `HEALTH.CAPTURE`. -/
def spr.healthCapture : Field :=
  { off := 0x11C, lo := 8, width := 1, acc := .w1s, rst := .const 0 }
/-- R591 `PART[p].MT_GROUPS`. -/
def spr.partMtGroups : Field :=
  { off := 0x280, lo := 0, width := 16, acc := .rwt, rst := .first 65535, stride := 16, count := 8 }
/-- R591 `PART[p].AE_PAIRS`. -/
def spr.partAePairs : Field :=
  { off := 0x280, lo := 16, width := 16, acc := .rwt, rst := .first 65535, stride := 16, count := 8 }
/-- R591 `PART[p].UC_CLUSTERS`. -/
def spr.partUcClusters : Field :=
  { off := 0x284, lo := 0, width := 32, acc := .rwt, rst := .first 4294967295, stride := 16, count := 8 }
/-- R591 `PART[p].EW_GROUPS`. -/
def spr.partEwGroups : Field :=
  { off := 0x288, lo := 0, width := 8, acc := .rwt, rst := .first 255, stride := 16, count := 8 }
/-- R591 `PART[p].SHF_PAIRS`. -/
def spr.partShfPairs : Field :=
  { off := 0x288, lo := 8, width := 8, acc := .rwt, rst := .first 255, stride := 16, count := 8 }
/-- R591 `PART[p].XR`. -/
def spr.partXr : Field :=
  { off := 0x288, lo := 16, width := 8, acc := .rwt, rst := .first 255, stride := 16, count := 8 }
/-- R591 `PART[p].SMP`. -/
def spr.partSmp : Field :=
  { off := 0x288, lo := 24, width := 8, acc := .rwt, rst := .first 255, stride := 16, count := 8 }
/-- R591 `PART[p].DMA_PAIRS`. -/
def spr.partDmaPairs : Field :=
  { off := 0x28C, lo := 0, width := 8, acc := .rwt, rst := .first 255, stride := 16, count := 8 }
/-- R591 `MAP[i]`. -/
def spr.map : Field :=
  { off := 0x300, lo := 0, width := 16, acc := .ro, rst := .const 0, stride := 2, count := 128 }
/-- The fields of the SPR pages. -/
def spr.all : List Field :=
  [spr.mapselType, spr.mapselBase, spr.discardUsed, spr.discardOverflow, spr.discardIndex, spr.discardEntry, 
   spr.ownHolder, spr.ownInterlockOk, spr.ownRelease, spr.healthCapture, spr.partMtGroups, spr.partAePairs, 
   spr.partUcClusters, spr.partEwGroups, spr.partShfPairs, spr.partXr, spr.partSmp, spr.partDmaPairs, spr.map]

/-- R592 `TXN.OPEN`. -/
def ctu.txnOpen : Field :=
  { off := 0x100, lo := 0, width := 1, acc := .w1s, rst := .const 0 }
/-- R592 `TXN.COMMIT`. -/
def ctu.txnCommit : Field :=
  { off := 0x100, lo := 1, width := 1, acc := .w1s, rst := .const 0 }
/-- R592 `TXN.ABORT`. -/
def ctu.txnAbort : Field :=
  { off := 0x100, lo := 2, width := 1, acc := .w1s, rst := .const 0 }
/-- R592 `TXN.KIND`. -/
def ctu.txnKind : Field :=
  { off := 0x100, lo := 4, width := 4, acc := .rw, rst := .const 0 }
/-- R592 `TXN.STATE`. -/
def ctu.txnState : Field :=
  { off := 0x104, lo := 0, width := 2, acc := .ro, rst := .const 0 }
/-- R592 `TXN.OPENER`. -/
def ctu.txnOpener : Field :=
  { off := 0x104, lo := 4, width := 2, acc := .ro, rst := .const 0 }
/-- R592 `TXN.ID`. -/
def ctu.txnId : Field :=
  { off := 0x104, lo := 16, width := 16, acc := .ro, rst := .const 0 }
/-- R592 `TXN.RESULT`. -/
def ctu.txnResult : Field :=
  { off := 0x108, lo := 0, width := 1, acc := .ro, rst := .const 0 }
/-- R592 `TXN.REASON`. -/
def ctu.txnReason : Field :=
  { off := 0x108, lo := 8, width := 8, acc := .ro, rst := .const 0 }
/-- R592 `TXN.FAIL_PAGE`. -/
def ctu.txnFailPage : Field :=
  { off := 0x108, lo := 16, width := 16, acc := .ro, rst := .const 0 }
/-- R592 `TXN.FAIL_OFFSET`. -/
def ctu.txnFailOffset : Field :=
  { off := 0x10C, lo := 0, width := 12, acc := .ro, rst := .const 0 }
/-- R592 `TXN.PART_MASK`. -/
def ctu.txnPartMask : Field :=
  { off := 0x110, lo := 0, width := 8, acc := .rw, rst := .const 0 }
/-- R592 `TXN.FLIP_TARGET`. -/
def ctu.txnFlipTarget : Field :=
  { off := 0x114, lo := 0, width := 1, acc := .rwt, rst := .const 0 }
/-- R592 `TXN.TIMEOUT_S`. -/
def ctu.txnTimeoutS : Field :=
  { off := 0x118, lo := 0, width := 8, acc := .rw, rst := .image 10 }
/-- R592 `TXN.COMMIT_WAIT_MS`. -/
def ctu.txnCommitWaitMs : Field :=
  { off := 0x118, lo := 16, width := 16, acc := .rw, rst := .image 50, clamp := some (1, 1000) }
/-- R592 `REMAP[k].TYPE`. -/
def ctu.remapType : Field :=
  { off := 0x200, lo := 0, width := 16, acc := .rwt, rst := .const 0, stride := 8, count := 32 }
/-- R592 `REMAP[k].LOGICAL`. -/
def ctu.remapLogical : Field :=
  { off := 0x200, lo := 16, width := 16, acc := .rwt, rst := .const 0, stride := 8, count := 32 }
/-- R592 `REMAP[k].PHYS`. -/
def ctu.remapPhys : Field :=
  { off := 0x200, lo := 32, width := 16, acc := .rwt, rst := .const 0, stride := 8, count := 32 }
/-- R592 `REMAP[k].VALID`. -/
def ctu.remapValid : Field :=
  { off := 0x200, lo := 48, width := 1, acc := .rwt, rst := .const 0, stride := 8, count := 32 }
/-- The fields of the CTU pages. -/
def ctu.all : List Field :=
  [ctu.txnOpen, ctu.txnCommit, ctu.txnAbort, ctu.txnKind, ctu.txnState, ctu.txnOpener, ctu.txnId, ctu.txnResult, 
   ctu.txnReason, ctu.txnFailPage, ctu.txnFailOffset, ctu.txnPartMask, ctu.txnFlipTarget, ctu.txnTimeoutS, 
   ctu.txnCommitWaitMs, ctu.remapType, ctu.remapLogical, ctu.remapPhys, ctu.remapValid]

/-- R622 `I3C.STATIC_ADDR`. -/
def mgt.i3cStaticAddr : Field :=
  { off := 0x100, lo := 0, width := 7, acc := .ro, rst := .straps }
/-- R622 `I3C.DYN_ADDR`. -/
def mgt.i3cDynAddr : Field :=
  { off := 0x100, lo := 8, width := 7, acc := .ro, rst := .const 0 }
/-- R622 `MCTP.EID`. -/
def mgt.mctpEid : Field :=
  { off := 0x100, lo := 16, width := 8, acc := .ro, rst := .const 0 }
/-- R622 `WDT.TIMEOUT_S`. -/
def mgt.wdtTimeoutS : Field :=
  { off := 0x104, lo := 0, width := 10, acc := .rw, rst := .image 30, clamp := some (2, 600), mgmtOnly := true }
/-- R622 `WDT.SINCE_HB`. -/
def mgt.wdtSinceHb : Field :=
  { off := 0x104, lo := 16, width := 16, acc := .ro, rst := .const 0 }
/-- R622 `WDT.EXPIRED`. -/
def mgt.wdtExpired : Field :=
  { off := 0x108, lo := 0, width := 1, acc := .ro, rst := .const 0 }
/-- R622 `SIDEBAND.LEVELS`. -/
def mgt.sidebandLevels : Field :=
  { off := 0x10C, lo := 0, width := 8, acc := .ro, rst := .const 0 }
/-- R622 `ALERT.CAUSE`. -/
def mgt.alertCause : Field :=
  { off := 0x110, lo := 0, width := 6, acc := .ro, rst := .const 0 }
/-- R622 `TS.NOW`. -/
def mgt.tsNow : Field :=
  { off := 0x118, lo := 0, width := 64, acc := .ro, rst := .const 0 }
/-- R622 `TS.SET_MS`. -/
def mgt.tsSetMs : Field :=
  { off := 0x120, lo := 0, width := 64, acc := .rw, rst := .const 0, mgmtOnly := true }
/-- R622 `TS.SYNCED`. -/
def mgt.tsSynced : Field :=
  { off := 0x128, lo := 0, width := 1, acc := .ro, rst := .const 0 }
/-- R622 `TS.LAST_ERR_NS`. -/
def mgt.tsLastErrNs : Field :=
  { off := 0x128, lo := 8, width := 8, acc := .ro, rst := .const 0 }
/-- R622 `WDT.DISABLE`. -/
def mgt.wdtDisable : Field :=
  { off := 0x400, lo := 0, width := 1, acc := .rwx, rst := .image 0 }
/-- R622 `SYNC.WINDOW_NS`. -/
def mgt.syncWindowNs : Field :=
  { off := 0x404, lo := 0, width := 10, acc := .rwx, rst := .image 100, clamp := some (10, 1000) }
/-- The fields of the MGT pages. -/
def mgt.all : List Field :=
  [mgt.i3cStaticAddr, mgt.i3cDynAddr, mgt.mctpEid, mgt.wdtTimeoutS, mgt.wdtSinceHb, mgt.wdtExpired, 
   mgt.sidebandLevels, mgt.alertCause, mgt.tsNow, mgt.tsSetMs, mgt.tsSynced, mgt.tsLastErrNs, mgt.wdtDisable, 
   mgt.syncWindowNs]

/-- R376 `RQ0.DOORBELL`. -/
def win.rq0Doorbell : Field :=
  { off := 0x0, lo := 0, width := 32, acc := .wo, rst := .const 0 }
/-- R376 `RQ1.DOORBELL`. -/
def win.rq1Doorbell : Field :=
  { off := 0x4, lo := 0, width := 32, acc := .wo, rst := .const 0 }
/-- R376 `TOK.HEAD`. -/
def win.tokHead : Field :=
  { off := 0x8, lo := 0, width := 32, acc := .rw, rst := .const 0 }
/-- R376 `EVT.HEAD`. -/
def win.evtHead : Field :=
  { off := 0xC, lo := 0, width := 32, acc := .rw, rst := .const 0 }
/-- R376 `RQ0.HEAD`. -/
def win.rq0Head : Field :=
  { off := 0x10, lo := 0, width := 32, acc := .ro, rst := .const 0 }
/-- R376 `RQ1.HEAD`. -/
def win.rq1Head : Field :=
  { off := 0x14, lo := 0, width := 32, acc := .ro, rst := .const 0 }
/-- R376 `TOK.TAIL`. -/
def win.tokTail : Field :=
  { off := 0x18, lo := 0, width := 32, acc := .ro, rst := .const 0 }
/-- R376 `EVT.TAIL`. -/
def win.evtTail : Field :=
  { off := 0x1C, lo := 0, width := 32, acc := .ro, rst := .const 0 }
/-- R376 `STATUS.RING_FULL`. -/
def win.statusRingFull : Field :=
  { off := 0x20, lo := 0, width := 1, acc := .ro, rst := .const 0 }
/-- R376 `STATUS.TOK_STALL`. -/
def win.statusTokStall : Field :=
  { off := 0x20, lo := 1, width := 1, acc := .ro, rst := .const 0 }
/-- R376 `STATUS.EVT_STALL`. -/
def win.statusEvtStall : Field :=
  { off := 0x20, lo := 2, width := 1, acc := .ro, rst := .const 0 }
/-- R376 `STATUS.DOORBELL_ERR`. -/
def win.statusDoorbellErr : Field :=
  { off := 0x20, lo := 3, width := 1, acc := .w1c, rst := .const 0 }
/-- R376 `STATUS.FETCH_ERR`. -/
def win.statusFetchErr : Field :=
  { off := 0x20, lo := 4, width := 1, acc := .w1c, rst := .const 0 }
/-- R376 `STATUS.CFG_ERR`. -/
def win.statusCfgErr : Field :=
  { off := 0x20, lo := 5, width := 1, acc := .w1c, rst := .const 0 }
/-- R376 `STATUS.RINGS_ON`. -/
def win.statusRingsOn : Field :=
  { off := 0x20, lo := 6, width := 1, acc := .ro, rst := .const 0 }
/-- R376 `RQ0.BASE`. -/
def win.rq0Base : Field :=
  { off := 0x100, lo := 0, width := 64, acc := .rw, rst := .const 0 }
/-- R376 `RQ1.BASE`. -/
def win.rq1Base : Field :=
  { off := 0x108, lo := 0, width := 64, acc := .rw, rst := .const 0 }
/-- R376 `TOK.BASE`. -/
def win.tokBase : Field :=
  { off := 0x110, lo := 0, width := 64, acc := .rw, rst := .const 0 }
/-- R376 `EVT.BASE`. -/
def win.evtBase : Field :=
  { off := 0x118, lo := 0, width := 64, acc := .rw, rst := .const 0 }
/-- R376 `SHADOW.ADDR`. -/
def win.shadowAddr : Field :=
  { off := 0x120, lo := 0, width := 64, acc := .rw, rst := .const 0 }
/-- R376 `RQ0.LOG2`. -/
def win.rq0Log2 : Field :=
  { off := 0x128, lo := 0, width := 5, acc := .rw, rst := .const 0 }
/-- R376 `RQ1.LOG2`. -/
def win.rq1Log2 : Field :=
  { off := 0x128, lo := 8, width := 5, acc := .rw, rst := .const 0 }
/-- R376 `TOK.LOG2`. -/
def win.tokLog2 : Field :=
  { off := 0x128, lo := 16, width := 5, acc := .rw, rst := .const 0 }
/-- R376 `EVT.LOG2`. -/
def win.evtLog2 : Field :=
  { off := 0x128, lo := 24, width := 5, acc := .rw, rst := .const 0 }
/-- R376 `RINGS.ENABLE`. -/
def win.ringsEnable : Field :=
  { off := 0x12C, lo := 0, width := 1, acc := .rw, rst := .const 0 }
/-- R376 `TOK.COAL_US`. -/
def win.tokCoalUs : Field :=
  { off := 0x130, lo := 0, width := 16, acc := .rw, rst := .const 0 }
/-- R376 `TOK.COAL_CNT`. -/
def win.tokCoalCnt : Field :=
  { off := 0x130, lo := 16, width := 16, acc := .rw, rst := .const 0 }
/-- R376 `EVT.COAL_US`. -/
def win.evtCoalUs : Field :=
  { off := 0x134, lo := 0, width := 16, acc := .rw, rst := .const 0 }
/-- R376 `EVT.COAL_CNT`. -/
def win.evtCoalCnt : Field :=
  { off := 0x134, lo := 16, width := 16, acc := .rw, rst := .const 0 }
/-- The fields of a BAR2 window (R376). -/
def win.all : List Field :=
  [win.rq0Doorbell, win.rq1Doorbell, win.tokHead, win.evtHead, win.rq0Head, win.rq1Head, win.tokTail, 
   win.evtTail, win.statusRingFull, win.statusTokStall, win.statusEvtStall, win.statusDoorbellErr, 
   win.statusFetchErr, win.statusCfgErr, win.statusRingsOn, win.rq0Base, win.rq1Base, win.tokBase, win.evtBase, 
   win.shadowAddr, win.rq0Log2, win.rq1Log2, win.tokLog2, win.evtLog2, win.ringsEnable, win.tokCoalUs, 
   win.tokCoalCnt, win.evtCoalUs, win.evtCoalCnt]

end Reg

end Sys2Proof
end

