-- ==== Sys2Proof/Machine/Store.lean ====
section
/-!
DEFINITION. Sparse stores: lists of (key, value) pairs in one canonical form. Keys rise strictly, and no entry equals what
an unlisted key reads as, so equal stores are equal lists. Registers, counters and the three memory spaces are kept so.
-/
namespace Sys2Proof

/-- A store whose unlisted keys read as a default that the reader supplies. -/
abbrev Sparse (α : Type) := List (Nat × α)

/-- The value at a key. -/
def Sparse.get {α : Type} (d : Nat → α) : Sparse α → Nat → α
  | [], k => d k
  | (j, v) :: r, k => if j = k then v else Sparse.get d r k

/-- The store with an entry put before the first higher key, in place of one at the same key. -/
def Sparse.insert {α : Type} : Sparse α → Nat → α → Sparse α
  | [], k, v => [(k, v)]
  | (j, w) :: r, k, v => if k < j then (k, v) :: (j, w) :: r else if k = j then (k, v) :: r else (j, w) :: Sparse.insert r k v

/-- The store with one key changed; a value equal to the default is not listed. -/
def Sparse.set {α : Type} [DecidableEq α] (d : Nat → α) (m : Sparse α) (k : Nat) (v : α) : Sparse α :=
  if v = d k then m.filter (fun e => decide (e.1 ≠ k)) else Sparse.insert m k v

/-- Every key of the store is above a bound. -/
def Sparse.above {α : Type} (k : Nat) : Sparse α → Bool
  | [] => true
  | (j, _) :: _ => decide (k < j)

/-- The canonical form. -/
def Sparse.wf {α : Type} [DecidableEq α] (d : Nat → α) : Sparse α → Bool
  | [] => true
  | (j, v) :: r => decide (v ≠ d j) && Sparse.above j r && Sparse.wf d r

/-- A run of `n` values from key `k` on. -/
def Sparse.getRun {α : Type} (d : Nat → α) (m : Sparse α) (k : Nat) : Nat → List α
  | 0 => []
  | n + 1 => Sparse.get d m k :: Sparse.getRun d m (k + 1) n

/-- The store with a run of values written from key `k` on. -/
def Sparse.setRun {α : Type} [DecidableEq α] (d : Nat → α) : Sparse α → Nat → List α → Sparse α
  | m, _, [] => m
  | m, k, v :: r => Sparse.setRun d (Sparse.set d m k v) (k + 1) r

/-- A strictly rising list of keys, such as the poisoned lines of a memory, with one key added. -/
def Keys.add : List Nat → Nat → List Nat
  | [], k => [k]
  | j :: r, k => if k < j then k :: j :: r else if k = j then j :: r else j :: Keys.add r k

/-- Such a list with one key taken out. -/
def Keys.del (l : List Nat) (k : Nat) : List Nat := l.filter (fun j => decide (j ≠ k))

/-- The form of such a list. -/
def Keys.wf : List Nat → Bool
  | [] => true
  | [_] => true
  | j :: k :: r => decide (j < k) && Keys.wf (k :: r)

/-- Puts an element before the first that it does not come after. -/
def insertBy {α : Type} (le : α → α → Bool) (x : α) : List α → List α
  | [] => [x]
  | y :: r => if le x y then x :: y :: r else y :: insertBy le x r

/-- A list sorted by an order; elements that the order does not part keep their places. -/
def sortBy {α : Type} (le : α → α → Bool) : List α → List α
  | [] => []
  | x :: r => insertBy le x (sortBy le r)

/-- A little-endian number from bytes. -/
def leNat : List Byte → Nat
  | [] => 0
  | b :: r => b.toNat + 256 * leNat r

/-- The `n` little-endian bytes of a number. -/
def leBytes : Nat → Nat → List Byte
  | 0, _ => []
  | n + 1, v => BitVec.ofNat 8 v :: leBytes n (v / 256)

/-- Bits [lo + w - 1 : lo] of a number. -/
def bits (v lo w : Nat) : Nat := v / 2 ^ lo % 2 ^ w

/-- Bit i of a number. -/
def bit (v i : Nat) : Bool := v / 2 ^ i % 2 == 1

/-- A number with bits [lo + w - 1 : lo] replaced. -/
def setBits (v lo w x : Nat) : Nat := v - bits v lo w * 2 ^ lo + x % 2 ^ w * 2 ^ lo

/-- Saturation at an inclusive bound. -/
def sat (m v : Nat) : Nat := min m v

/-- A value clamped to inclusive bounds. -/
def clampTo (lo hi v : Nat) : Nat := max lo (min hi v)

end Sys2Proof
end

