-- ==== Sys2Proof/Machine/Pages.lean ====
section
/-!
DEFINITION. Page indices, block type codes, capabilities and the reset value of every register word (R34 to R39, R11).
-/
namespace Sys2Proof

/-- First page of a block (R34). -/
def blkBase : Blk → Nat
  | .mcc => 0x0000 | .aon => 0x0002 | .boot => 0x0004 | .sec => 0x0005 | .pwr => 0x0006 | .thm => 0x0007
  | .clk => 0x0008 | .spr => 0x0009 | .mgt => 0x000A | .dlr => 0x0040 | .hif => 0x0044 | .pge => 0x0048
  | .ctu => 0x004C | .mt => 0x0100 | .ae => 0x0300 | .ew => 0x0340 | .shf => 0x03C0 | .xr => 0x03E0
  | .smp => 0x03F0 | .uc => 0x0400 | .tbl => 0x0900 | .mem => 0x0E00 | .tier => 0x0E50 | .bvl => 0x0F00
  | .bvf => 0x0F40 | .ce => 0x0F80 | .dma => 0x0F90

/-- Physical instances of a block (R19, R34). -/
def blkCount : Blk → Nat
  | .mcc => 2 | .aon => 2 | .boot => 1 | .sec => 1 | .pwr => 1 | .thm => 1 | .clk => 1 | .spr => 1 | .mgt => 1
  | .dlr => 2 | .hif => 1 | .pge => 2 | .ctu => 1 | .mt => 264 | .ae => 34 | .ew => 68 | .shf => 18 | .xr => 9
  | .smp => 9 | .uc => 1056 | .tbl => 1056 | .mem => 68 | .tier => 2 | .bvl => 24 | .bvf => 2 | .ce => 4 | .dma => 16

/-- Logical instances of a block (R19): those that plans and host software address. -/
def blkLogical : Blk → Nat
  | .mt => 256 | .ae => 32 | .ew => 64 | .shf => 16 | .xr => 8 | .smp => 8 | .uc => 1024 | .tbl => 1024 | .mem => 64
  | b => blkCount b

/-- Block type code (R38). -/
def blkCode : Blk → Nat
  | .mcc => 0x01 | .aon => 0x02 | .boot => 0x03 | .sec => 0x04 | .pwr => 0x05 | .thm => 0x06 | .clk => 0x07
  | .spr => 0x08 | .mgt => 0x09 | .dlr => 0x10 | .hif => 0x11 | .pge => 0x12 | .ctu => 0x13 | .mt => 0x20
  | .ae => 0x21 | .ew => 0x22 | .shf => 0x23 | .xr => 0x24 | .smp => 0x25 | .uc => 0x26 | .tbl => 0x30 | .mem => 0x31
  | .tier => 0x32 | .bvl => 0x40 | .bvf => 0x41 | .ce => 0x42 | .dma => 0x43

/-- `PAGE_CAP` of a block's pages (R39 and each chapter's register table). -/
def blkCap : Blk → Nat
  | .mcc => 0x0611 | .aon => 0x0400 | .boot => 0x0801 | .sec => 0x0800 | .pwr => 0x0C01 | .thm => 0x0A01
  | .clk => 0x0401 | .spr => 0x0600 | .mgt => 0x0801 | .dlr => 0x0E17 | .hif => 0x0C01 | .pge => 0x0E07
  | .ctu => 0x0400 | .mt => 0x0C0F | .ae => 0x0C0F | .ew => 0x070F | .shf => 0x0A0F | .xr => 0x060F
  | .smp => 0x0A0F | .uc => 0x0A0F | .tbl => 0x0D0F | .mem => 0x0C0F | .tier => 0x0A07 | .bvl => 0x0E07
  | .bvf => 0x0C07 | .ce => 0x0E07 | .dma => 0x0807

/-- The fields of a block's pages beyond the common ones. -/
def blkFields : Blk → List Field
  | .mcc => Reg.mcc.all | .aon => Reg.aon.all | .boot => Reg.boot.all | .sec => Reg.sec.all | .pwr => Reg.pwr.all
  | .thm => Reg.thm.all | .clk => Reg.clk.all | .spr => Reg.spr.all | .mgt => Reg.mgt.all | .dlr => Reg.dlr.all
  | .hif => Reg.hif.all | .pge => Reg.pge.all | .ctu => Reg.ctu.all | .mt => Reg.mt.all | .ae => Reg.ae.all
  | .ew => Reg.ew.all | .shf => Reg.shf.all | .xr => Reg.xr.all | .smp => Reg.smp.all | .uc => Reg.uc.all
  | .tbl => Reg.tbl.all | .mem => Reg.mem.all | .tier => Reg.tier.all | .bvl => Reg.bvl.all | .bvf => Reg.bvf.all
  | .ce => Reg.ce.all | .dma => Reg.dma.all

/-- Every block. -/
def blkAll : List Blk :=
  [.mcc, .aon, .boot, .sec, .pwr, .thm, .clk, .spr, .mgt, .dlr, .hif, .pge, .ctu, .mt, .ae, .ew, .shf, .xr, .smp, .uc,
   .tbl, .mem, .tier, .bvl, .bvf, .ce, .dma]

/-- The unit whose page has an index; none for absent and reserved pages (R35). -/
def unitOfPage (n : Nat) : Option UnitId :=
  (blkAll.find? (fun b => decide (blkBase b ≤ n) && decide (n < blkBase b + blkCount b))).map
    (fun b => ⟨b, n - blkBase b⟩)

/-- The unit exists (R19, R34). -/
def UnitId.valid (u : UnitId) : Bool := decide (u.ix < blkCount u.blk)

/-- Page index of a unit (R34). -/
def UnitId.page (u : UnitId) : Nat := blkBase u.blk + u.ix

/-- BAR0 byte address of a unit's page (R30). -/
def UnitId.base (u : UnitId) : Nat := u.page * 0x1000

/-- The page that holds a field for a unit: its own, the block's first, or its cluster's first (33 cores each, R239). -/
def UnitId.home (u : UnitId) (f : Field) : Nat :=
  match f.reach with
  | .page => u.base
  | .wide => blkBase u.blk * 0x1000
  | .cluster => (blkBase u.blk + u.ix / 33 * 33) * 0x1000

/-- Base of partition p's BAR2 window. The model keeps the windows' registers above BAR0's 64 MiB (R30). -/
def winBase (p : Nat) : Nat := 0x400_0000 + p * 0x1_0000

/-- Field i of an array of fields. -/
def Field.at (f : Field) (i : Nat) : Field := { f with off := f.off + i * f.stride, stride := 0, count := 1 }

/-- The factory allocation of the virtual-channel buffers, in flits, by 3t + h (R428). -/
def vcbufFactory (i : Nat) : Nat :=
  ([32, 32, 32, 4096, 1024, 512, 1024, 512, 256, 512, 256, 128, 2048, 512, 256, 128, 64, 64, 64, 32, 32, 0, 0, 0]).getD i 0

/-- A fused value of a width at a bit address of BAR0. A tile or cluster has one fused Fmax, 1,200 to 1,400 MHz in steps of 10, which is
also its last measurement until the next (R128, R226, R239); UNLOCK_COUNT is at most 64, and LIFECYCLE 0 to 2 (R493, R507). -/
def fuseAt (width bitAddr : Nat) : Nat :=
  match unitOfPage (bitAddr / 32768) with
  | none => Config.fuseValue bitAddr % 2 ^ width
  | some u =>
    match u.blk with
    | .mt => 1200 + 10 * (Config.fuseValue (u.page * 32768 + 0x840) % 21)
    | .uc => 1200 + 10 * (Config.fuseValue ((⟨.uc, u.ix / 33 * 33⟩ : UnitId).page * 32768 + 0x840) % 21)
    | .sec => Config.fuseValue bitAddr % (if width = 7 then 65 else 3)
    | _ => Config.fuseValue bitAddr % 2 ^ width

/-- Reset value of field i of an array, for the field at a bit address. -/
def rstValue (f : Field) (i bitAddr : Nat) : Nat :=
  match f.rst with
  | .const n => n
  | .image n => n
  | .first n => if i = 0 then n else 0
  | .fuse => fuseAt f.width bitAddr
  | .straps => Config.seat.toNat % 2 ^ f.width

/-- What a field's instances add to the word at a page offset. -/
def fieldWord (f : Field) (pageBase off : Nat) : Nat :=
  let one (i : Nat) : Nat :=
    let b := (f.off + i * f.stride) * 8 + f.lo
    if i < f.count ∧ b < off * 8 + 32 ∧ off * 8 < b + f.width then
      (rstValue f i (pageBase * 8 + b) * 2 ^ b / 2 ^ (off * 8)) % 2 ^ 32
    else 0
  if off + 3 < f.off then 0
  else if f.stride = 0 then one 0
  else
    let i := (off - f.off) / f.stride
    one i + (if f.stride < 4 then one (i + 1) else 0)

/-- Reset value of the 32-bit word at a BAR0 address, or in the BAR2 windows above it (R11, R36 to R41, R376, R609).
Every MSI-X vector is masked, as PCIe has it (R388). -/
def wordReset (addr : Nat) : Word :=
  if addr < 0x400_0000 then
    let off := addr % 0x1000
    match unitOfPage (addr / 0x1000) with
    | none => 0
    | some u =>
      if off = 0 then BitVec.ofNat 32 (blkCode u.blk * 0x1_0000 + u.ix * 16 + 1)
      else if off = 4 then BitVec.ofNat 32 (blkCap u.blk)
      else if u.blk = .bvf ∧ 0x480 ≤ off ∧ off < 0x4B0 then
        let i := (off - 0x480) / 2
        BitVec.ofNat 32 (vcbufFactory i + vcbufFactory (i + 1) * 0x1_0000)
      else if u.blk = .tbl ∧ (off = 0x140 + 4 * 15 ∨ off = 0x140 + 4 * 31) then 0x20
      else if u.blk = .mgt ∧ off = 0x100 then BitVec.ofNat 32 (0x10 + Config.seat.toNat % 16)
      else if u.blk = .uc ∧ off = 0x110 then BitVec.ofNat 32 (u.ix / 33 + u.ix % 33 * 32)
      else if u.blk = .tbl ∧ off = 0x100 then BitVec.ofNat 32 (u.ix / 528 * 2048)
      else if u.blk = .mem ∧ off = 0x100 then BitVec.ofNat 32 (u.ix / 34 * 128)
      else BitVec.ofNat 32 ((Reg.common.all ++ blkFields u.blk).foldl (fun a f => a + fieldWord f (addr - off) off) 0)
  else if 0x8000 ≤ (addr - 0x400_0000) % 0x1_0000 ∧ (addr - 0x400_0000) % 0x1_0000 < 0x8800 ∧ addr % 16 = 12 then 1
  else
    BitVec.ofNat 32 (Reg.win.all.foldl (fun a f => a + fieldWord f (addr - (addr - 0x400_0000) % 0x1_0000)
      ((addr - 0x400_0000) % 0x1_0000)) 0)

end Sys2Proof
end

