-- ==== Sys2Proof/Machine/State.lean ====
section
/-!
DEFINITION. The state of the SV-720 as plain data: the register store, the memories, and what the Dealer, the engines, the
links, the fabric, the security block, the power controller and the start-up machine hold beyond their registers.
-/
namespace Sys2Proof.Machine

/-- Why a command cannot be taken at all. There is no such reason: the spec gives every command an effect, and what names a unit,
port, bank or group that the module does not have reaches nothing (R34, R35). No constructor, so no meaning can fault. -/
inductive Fault where
  deriving DecidableEq, Repr

/-- Why a command has no meaning. -/
inductive Refusal where
  /-- The command is not modelled; raised by an arm of exec that has no meaning yet. Safe. -/
  | notModelled (mnemonic : String)
  deriving DecidableEq, Repr

/-! ## What leaves the block -/

/-- Kinds of messages that the block sends to other nodes (R355, R356, R365, R422, R465, R296, R435). -/
inductive Msg where
  | stepHeader | replayHeader | withdrawal | stepAnswer | vote | commit | admission | admissionAck | hashList | prefixReport
  | slotRetire | hello | keepalive | loss | mark | telemetry
  | chunk | ready | counts | nakChunk | digest | cancel | lost | reform | reformAck | reformDone | credit
  | readReq | writeReq | readData | writeAck | push | pushAck
  deriving DecidableEq, Repr

/-- Control blocks that a Benvo transmitter sends (R403). -/
inductive Ctl where
  | data | idle | nak | replay | retrain | goodbye
  deriving DecidableEq, Repr

/-- One thing the block hands to the world outside, in the order it does so. -/
inductive Out where
  /-- a posted write to host memory: ring records and the tail shadow (R377) -/
  | hostWrite (addr : Nat) (data : List Byte)
  /-- a descriptor read of host memory: ring, first index, count (R383) -/
  | hostRead (part ring first count : Nat)
  /-- an MSI-X message of the PF or of a VF (R386) -/
  | msix (vf : Option Nat) (vector : Nat)
  /-- a message to a node on a traffic class -/
  | send (node tc : Nat) (kind : Msg) (args : List Nat)
  /-- a packet that has left on a Benvo port (R433) -/
  | packet (port : Nat) (p : Pkt)
  /-- a block sent on a Benvo port (R403) -/
  | block (port : Nat) (kind : Ctl) (args : List Nat)
  /-- a message on the I3C management port -/
  | sideband (bytes : List Nat)
  deriving DecidableEq, Repr

/-! ## Records -/

/-- An event record (R381, R594 to R597). `v0` and `v1` are the payload's two 64-bit halves. -/
structure EvtRec where
  code : Nat
  part : Option Nat
  seq : Nat
  time : Nat
  v0 : Nat
  v1 : Nat
  deriving DecidableEq, Repr

/-- A token record (R380) without its PHASE bit, which the ring position gives. -/
structure TokRec where
  tag : Nat
  token : Nat
  logprob : Nat
  index : Nat
  last : Bool
  finish : Nat
  deriving DecidableEq, Repr

/-- An outcome that waits for its sequence's token records (R345). -/
structure OutcomeRec where
  reqId : Nat
  tag : Nat
  fork : Nat
  code : Nat
  emitted : Nat
  /-- the slot to retire once the outcome is written -/
  slot : Option Nat
  deriving DecidableEq, Repr

/-- An issued or waiting copy of a template (R77, R78, R81). -/
structure Lane where
  part : Nat
  tmpl : Nat
  eclass : Nat
  opcode : Nat
  /-- header word 0 as issued -/
  hdr : Nat
  bpp : Nat
  phase : Nat
  lane : Nat
  spanM1 : Nat
  /-- partition-relative unit UNIT + LANE, and the units that it names and runs on -/
  rel : Nat
  logical : Nat
  phys : Nat
  stepTag : Nat
  attempt : Nat
  sigId : Nat
  sigInc : Nat
  /-- operand bytes 16 to 63 -/
  ops : List Byte
  /-- the status, once the lane has ended on its unit -/
  status : Option Nat
  /-- the slot was marked stale by a failover (R366) -/
  stale : Bool
  deriving DecidableEq, Repr

/-- How far a step has come (R355, R356). -/
inductive StepPhase where
  /-- formed; answers to the header outstanding -/
  | forming
  /-- a follower has answered READY, or the lead has every READY -/
  | ready
  | running
  /-- STEP_END has executed; votes or a commit outstanding -/
  | ended
  /-- abandoned under FORCE; issued lanes run out (R363) -/
  | abandoned
  deriving DecidableEq, Repr

/-- The uncommitted step of a partition (R349). -/
structure StepRec where
  number : Nat
  prev : Option Nat
  attempt : Nat
  pslot : Nat
  phase : StepPhase
  entries : List Entry
  /-- counter granules allocated, in plan order (R82) -/
  granules : List Nat
  /-- index of the oldest template not yet issued or skipped -/
  oldest : Nat
  /-- later templates of the window already issued or skipped -/
  done : List Nat
  /-- expanded lanes that wait for a slot or a queue place (R86) -/
  waiting : List Lane
  /-- members whose READY is outstanding -/
  unready : List Nat
  /-- members whose vote is outstanding -/
  unvoted : List Nat
  /-- the member's first poisoning status and its source, or none (R356) -/
  poison : Option (Nat × Nat)
  /-- slots that a poisoning status names (R359) -/
  named : List Nat
  /-- power phases started in this step (R92) -/
  phases : List Nat
  /-- units whose HOLD chain a fault has broken: class and partition-relative unit (R90) -/
  broken : List (Nat × Nat)
  /-- a vote other than the member's own was poisoned, and one that does not count toward REPLAY.MAX (R368) -/
  votedPoison : Bool
  uncounted : Bool
  /-- poison replays so far that count toward REPLAY.MAX -/
  replays : Nat
  /-- a failover replay waits until no slot is stale (R367) -/
  afterFailover : Bool
  /-- a follower owes a POISONED vote once no slot is stale (R368) -/
  owes : Bool := false
  deriving DecidableEq, Repr

/-- States of a sequence that holds a slot (R344). -/
inductive SeqState where
  | admitted | prefill | decode | finishing
  deriving DecidableEq, Repr

/-- A slot record (R339: its layout is internal to the Dealer). -/
structure SlotRec where
  slot : Nat
  st : SeqState
  gen : Nat
  reqId : Nat
  fork : Nat
  nfork : Nat
  cls : Nat
  drafts : Nat
  plen : Nat
  prompt : Nat
  prefixKey : Nat
  pos : Nat
  /-- order of admission -/
  order : Nat
  lastStep : Nat
  /-- tokens generated, oldest first -/
  toks : List Nat
  /-- how many of them a resumed sequence brought with it -/
  resumed : Nat
  abortPending : Bool
  /-- members whose acknowledgement of the admission record is outstanding (R348) -/
  unacked : List Nat
  /-- members whose prefix report is outstanding, and the smallest report so far (R323) -/
  unreported : List Nat
  matched : Nat
  /-- the descriptor, for a later re-admission (R354) -/
  desc : List Byte
  deriving DecidableEq, Repr

/-- An entry of the admission queue (R339, R354). -/
structure QEntry where
  desc : List Byte
  /-- global timestamp of its arrival, for ageing (R347) -/
  since : Nat
  /-- generated tokens of a resumed sequence -/
  resumed : List Nat
  /-- a resumed sequence: its fork index -/
  fork : Option Nat
  /-- its entry in the state area, while it has one (R339) -/
  place : Option Nat := none
  deriving DecidableEq, Repr

/-- What the Dealer and the host port hold for one partition beyond its registers. -/
structure PartRec where
  queue : List QEntry := []
  slots : List SlotRec := []
  step : Option StepRec := none
  nextStep : Nat := 0
  lastCommit : Option Nat := none
  /-- admissions so far -/
  admissions : Nat := 0
  /-- slot generations (R380) -/
  gens : Sparse Nat := []
  /-- REQ_IDs whose every sequence has ended (R361) -/
  ended : List Nat := []
  /-- loaded plans: plan slot to address of the file in space 0 (R97) -/
  plans : List (Nat × Nat) := []
  /-- plan slots to unload once the step that uses them has ended (R98) -/
  unloading : List Nat := []
  /-- plan slots that a member reported as mismatched (R355) -/
  mismatched : List Nat := []
  /-- a fence transaction holds the partition (R582) -/
  fencing : Bool := false
  /-- token records of the last commit, not yet written (R356 step 5) -/
  tokOut : List TokRec := []
  tokWait : List TokRec := []
  outWait : List OutcomeRec := []
  evtWait : List EvtRec := []
  evtSeq : Nat := 0
  /-- targets of the descriptor fetches of ring 0 and ring 1 (R383) -/
  rq0Target : Nat := 0
  rq1Target : Nat := 0
  /-- the entries after the last whose read has been sent (R395) -/
  rq0Asked : Nat := 0
  rq1Asked : Nat := 0
  /-- a failed descriptor read has stopped intake on the ring (R383) -/
  rq0Stop : Bool := false
  rq1Stop : Bool := false
  /-- records published and not yet signalled (R387) -/
  tokUnsig : Nat := 0
  evtUnsig : Nat := 0
  /-- members lost (R364) -/
  lostMembers : List Nat := []
  /-- granules that stale lanes may still signal (R367) -/
  oldGranules : List Nat := []
  deriving DecidableEq, Repr

/-! ## Page engines (chapter 12) -/

/-- States of a frame-table entry (R306). -/
inductive FrameState where
  | free | pending | inUse | migSrc | migDst | table | forward | quarantine
  deriving DecidableEq, Repr

/-- A frame-table entry (R306). -/
structure FrameEnt where
  refs : Nat := 0
  st : FrameState := .free
  indexed : Bool := false
  sawPoison : Bool := false
  lastStep : Nat := 0
  owner : Nat := 0
  /-- VPN in the owner's table, or the destination frame of a FORWARD frame -/
  vpn : Nat := 0
  deriving DecidableEq, Repr

/-- A page entry of a slot's table (R307, R309). -/
structure PageEnt where
  slot : Nat
  vpn : Nat
  frame : Nat
  pending : Bool
  shared : Bool
  mig : Bool
  deriving DecidableEq, Repr

/-- Migration states (R328). -/
inductive MigState where
  | queued | copying | release
  deriving DecidableEq, Repr

/-- A migration (R328). -/
structure MigRec where
  src : Nat
  dst : Nat
  tier : Nat
  st : MigState
  deriving DecidableEq, Repr

/-- A prefix-index entry and its block list (R322). -/
structure PfxEnt where
  hash : Nat
  block : Nat
  frames : List Nat
  hits : Nat
  lastStep : Nat
  /-- the place in its set, and where the block list stands: TABLE frame and offset in units of 64 bytes -/
  way : Nat := 0
  listFrame : Nat := 0
  listOff : Nat := 0
  deriving DecidableEq, Repr

/-- A free list of one tier (R311): frames pushed back, then ranges never handed out. -/
structure FreeList where
  stack : List Nat := []
  ranges : List (Nat × Nat) := []
  deriving DecidableEq, Repr

/-- What the page engines hold for one partition. -/
structure PgePart where
  frames : Sparse FrameEnt := []
  pages : List PageEnt := []
  /-- TABLE frames of each slot, anchor first (R308) -/
  tables : List (Nat × List Nat) := []
  free0 : FreeList := {}
  free1 : FreeList := {}
  free2 : FreeList := {}
  /-- numbers that a faulted engine's chip held and lost (R333) -/
  gone : List Nat := []
  /-- frames left of the step's reservation (R313) -/
  resv : Nat := 0
  pfx : List PfxEnt := []
  migs : List MigRec := []
  /-- frames not chosen for migration until read clean (R328) -/
  shunned : List Nat := []
  /-- prefix entries pinned for a slot's match (R323): slot, hashes -/
  pins : List (Nat × List Nat) := []
  /-- the hash list of a slot's prompt as the lead sent it (R323) -/
  hashes : List (Nat × List Nat) := []
  /-- bytes that one position takes in each half of a page (R135), as KV_WRITE last wrote it -/
  posBytes : Nat := 256
  /-- DCODE, KV_FMT and head groups of its pages, likewise -/
  kvD : Nat := 2
  kvCode : Nat := 0
  kvGroups : Nat := 1
  /-- pages whose summary is to be recomputed (R318): slot, page number -/
  resum : List (Nat × Nat) := []
  deriving DecidableEq, Repr

/-! ## Units and the Talon (chapter 21) -/

/-- vtype of a utility core (R220): vill, vma, vta, SEW as 8 × 2^sew, LMUL as 2^lmul. -/
structure VType where
  ill : Bool
  ma : Bool
  ta : Bool
  sew : Nat
  lmul : Int
  deriving DecidableEq, Repr

/-- The registers of a utility core that a kernel sees (R220, R222). A vector register is eight words of 64 bits (VLEN = 512). -/
structure Hart where
  pc : BitVec 64
  /-- x0 reads as zero -/
  x : Vector (BitVec 64) 32
  f : Vector (BitVec 64) 32
  v : Vector (BitVec 64) 256
  fflags : BitVec 5
  frm : BitVec 3
  vxrm : BitVec 2
  vxsat : Bool
  vstart : Nat
  vl : Nat
  vtype : VType
  instret : BitVec 64
  deriving DecidableEq, Repr

/-- A kernel on a utility core (R230), which is in U mode while it holds one: the registers, POISON_SEEN, the kernel's part of local memory,
the budget. The runtime in M mode is firmware; its part of local memory and of the core is not the kernel's (R223). -/
structure Kernel where
  hart : Hart
  poisonSeen : Bool
  lmem : Sparse Byte
  /-- in units of 1,024 cycles -/
  budget : Nat
  deriving DecidableEq, Repr

/-- Bytes of a remote read that wait in a staging buffer: the row, the memory key, the bytes, their poison (R292, R295). -/
structure StagePiece where
  row : Nat
  at' : Nat
  data : List Byte
  poison : Bool
  deriving DecidableEq, Repr

/-- A remote lane's progress on its DMA engine: pieces sent, pieces answered, and what it has met. -/
structure DmaRun where
  sent : Nat := 0
  acked : Nat := 0
  poisonIn : Bool := false
  refused : Bool := false
  /-- the status of a lane that ends early, while the rest of its remote destination is written poisoned (R300) -/
  ending : Option Nat := none
  /-- the internal break point at which FORCE ends the lane: the piece that would come next -/
  stop : Option Nat := none
  /-- bytes read from another node whose destination line is not complete yet -/
  buf : List StagePiece := []
  deriving DecidableEq, Repr

/-- What a unit holds beyond its page. -/
structure UnitRec where
  /-- issued lanes in issue order, the running one first (R86) -/
  queue : List Lane := []
  /-- an open HOLD chain (R90): partition and partition-relative unit whose lanes it takes -/
  chain : Option (Nat × Nat) := none
  /-- power-gated (R521) -/
  asleep : Bool := false
  /-- FREEZE and FORCE as set by the MCC for a remap or a commit (R575, R580) -/
  mccFreeze : Bool := false
  mccForce : Bool := false
  /-- error occurrences by kind: kind, timestamps (R603) -/
  errs : List (Nat × Nat) := []
  /-- a utility core's kernel in U mode, and the trace words it has kept (R230) -/
  kernel : Option Kernel := none
  trace : List Nat := []
  /-- a DMA engine's remote lane -/
  dma : Option DmaRun := none
  deriving DecidableEq, Repr

/-- An entry of the Discard (R571). -/
structure DiscardEnt where
  type : Nat
  inst : Nat
  reason : Nat
  boot : Nat
  deriving DecidableEq, Repr

/-- Stages of a remap (R574). -/
inductive RemapStage where
  /-- the spare is loading -/
  | starting
  /-- waits for the transaction unit -/
  | ready
  /-- committed; the retiring unit drains, or its lines are copied -/
  | committed
  deriving DecidableEq, Repr

/-- A remap in progress (R574 to R576). -/
structure RemapRec where
  retiring : UnitId
  logical : Nat
  /-- the physical spare; none when the Talon had none left and the number becomes VACANT -/
  spare : Option Nat
  stage : RemapStage
  reason : Nat
  /-- data lines that the copy of a device has found unreadable (R277, R597) -/
  bad : Nat
  deriving DecidableEq, Repr

/-- Retirement state of the module. -/
structure TalonRec where
  /-- logical number to physical unit: key = type code × 4096 + logical; 0xFFFF for VACANT (R12, R591) -/
  map : Sparse Nat := []
  discard : List DiscardEnt := []
  /-- entries not yet programmed (R572) -/
  programming : List DiscardEnt := []
  overflow : List DiscardEnt := []
  suspects : List DiscardEnt := []
  remaps : List RemapRec := []
  /-- retirements in this configuration, by unit (R590) -/
  retired : List UnitId := []
  vacant : List (Nat × Nat) := []
  deriving DecidableEq, Repr

/-- A shadowed field (R9): the page it was written through, the page base that holds it, the field and its pending value. -/
structure Shadow where
  page : Nat
  base : Nat
  field : Field
  value : Nat
  deriving DecidableEq, Repr

/-- The open configuration transaction (R578 to R582). -/
structure TxnRec where
  opener : Src
  kind : Nat
  partMask : Nat
  shadow : List Shadow := []
  /-- number of shadowed writes by page (R48) -/
  writes : Sparse Nat := []
  /-- the first write that fell outside the kind's scope: page and offset -/
  outOfScope : Option (Nat × Nat) := none
  /-- a module-wide or cluster-wide field was given different values through different pages: page and offset -/
  conflict : Option (Nat × Nat) := none
  /-- validated; freezes and fences are awaited -/
  applying : Bool := false
  deriving DecidableEq, Repr

/-- An open coalescing window (R596). -/
structure CoalWin where
  page : Nat
  code : Nat
  openedAt : Nat
  count : Nat
  v0 : Nat
  cause : Nat
  pm : Bool
  deriving DecidableEq, Repr

/-- A load-reserved granule of a Table bank (R252): 64-byte granule number of the memory key, and the core that holds it. -/
structure Resv where
  granule : Nat
  core : Nat
  deriving DecidableEq, Repr

/-! ## The Table and the memories (chapters 10 and 11) -/

/-- A logical device whose data lines stand poisoned from a device line on, but for the lines cleaned since (R277). -/
structure DeadDev where
  dev : Nat
  first : Nat
  clean : List Nat
  deriving DecidableEq, Repr

/-- Damage that reads find: armed injections (unit; 0 correctable error, 1 uncorrectable error, 2 EDC error, 3 wrong tag), beats
of the Table with a correctable or an uncorrectable error (line × 4 + beat), and lines with a wrong tag. -/
structure HurtRec where
  armed : List (UnitId × Nat) := []
  ce : List Nat := []
  ue : List Nat := []
  tags : List Nat := []
  /-- logical devices whose data lines a copy wrote poisoned from a device line on, each with the lines cleaned since (R277) -/
  dead : List DeadDev := []
  /-- partitions whose memory keys were redrawn while their lines stood, or whose lines came to other offsets (p for local memory, p + 8
  for the tier window), each with the lines that fit: those rewritten since, 2^60 + g for a device group written as a whole, 2^61 + d for a
  device whose lines kept their offsets (R269, R273, R495) -/
  stale : List (Nat × List Nat) := []
  deriving DecidableEq, Repr

/-- The caches of tags and poison bits before the memories: metadata lines of devices (R276), as device × 2^24 + device line, tag lines of the
tier ports (R284), as port × 2^64 + fabric address, and how many lines they have taken in. Write-through: what they hold is in the
memories too. -/
structure CacheRec where
  lines : List Nat := []
  tags : List Nat := []
  fills : Nat := 0
  deriving DecidableEq, Repr

/-- Consecutive whole clean writes of the host to one line, at most its four quarters (R602): the line, each quarter with its data,
the quarters that have been performed, and the damage that injections have laid on them (kind and quarter). -/
structure HostRun where
  line : Nat
  beats : List (Nat × List Byte)
  done : List Nat
  inj : List (Nat × Nat)
  deriving DecidableEq, Repr

/-- An arbiter (R255, R430): credit by class, the class pointer, and the last-granted queue by class. An entry that a list does not
hold is zero for a credit and the highest queue for the last one granted. -/
structure ArbRec where
  credit : List Nat := []
  ptr : Nat := 0
  last : List Nat := []
  deriving DecidableEq, Repr

/-- A Table bank's arbiter (R255), the unit that moves, and the requests that wait at the ports in order of arrival. -/
structure TblRec where
  arb : ArbRec := {}
  moving : Option TblReq := none
  waiting : List TblReq := []
  deriving DecidableEq, Repr

/-- A request that a held memory controller or tier port keeps waiting (R258, R286), or a tier read that is outstanding (R285): memory
key, data of a write and the bytes of it that stay as they are, poison flag. -/
structure MemReq where
  key : Nat
  write : Option (List Byte)
  poison : Bool
  ev : MemEv
  keep : Nat := 0
  /-- it came through the host's window (R393) -/
  host : Bool := false
  deriving DecidableEq, Repr

/-! ## Links and the fabric (chapters 15 and 16) -/

/-- A remote operation of a DMA engine that awaits its answer (R296): a TC2 READ (0) or WRITE (1), or a push (2). -/
structure ReqRec where
  /-- the DMA engine, and whether its lane still runs -/
  engine : Nat
  live : Bool
  kind : Nat
  node : Nat
  addr : Nat
  part : Nat
  /-- a push's class and PUSH_SEQ -/
  cls : Nat
  seq : Nat
  /-- a write's payload; a read's length and destination -/
  data : List Byte
  poison : Bool
  len : Nat
  dst : Nat
  /-- the port and tag, once the request has left (R442) -/
  tag : Option (Nat × Nat)
  resends : Nat
  /-- the row of the lane that a read belongs to -/
  row : Nat := 0
  deriving DecidableEq, Repr

/-- A port's link layer beyond its page (R404 to R412). -/
structure LinkRec where
  /-- number of the next new data block -/
  txNext : Nat := 0
  /-- the retry buffer: block number and the packets that have flits in it -/
  retry : List (Nat × List Pkt) := []
  /-- NEXT_SEQ of the receiver, and whether it discards data blocks until REPLAY -/
  rxNext : Nat := 0
  discarding : Bool := false
  /-- a retrain is under way -/
  retraining : Bool := false
  /-- no data block has been accepted since the last retrain -/
  retrained : Bool := false
  /-- timestamp at which the port entered RECOVERING -/
  since : Nat := 0
  /-- a disable waits for recovery to end (R412) -/
  leaving : Bool := false
  /-- data blocks received since a control block was last sent (R403) -/
  unacked : Nat := 0
  /-- MARGINAL has been written (R598); corrected symbols of the last hour by time -/
  marginal : Bool := false
  corr : List (Nat × Nat) := []
  deriving DecidableEq, Repr

/-- The routers, the requesters and the links. -/
structure NetRec where
  reqs : List ReqRec := []
  /-- push packets sent, by node × 8 + class: PUSH_SEQ of the next; and bytes of push credit in use (R296) -/
  pushSeq : Sparse Nat := []
  pushUsed : Sparse Nat := []
  /-- control-message credit in use by node, and messages that wait for it (R460) -/
  ctlUsed : Sparse Nat := []
  ctlWait : List Pkt := []
  /-- packets that wait for injection, and packets in the input buffers by port (R427) -/
  inj : List Pkt := []
  inq : List (Nat × Pkt) := []
  links : Sparse LinkRec := []
  /-- MARK positions awaited for the old epoch (R439): (port × 8 + class) × 4 + level; those whose own MARK has been sent -/
  awaited : List Nat := []
  marked : List Nat := []
  /-- the captured telemetry window (R446): port, and its counts by class -/
  telem : List Nat := []
  /-- flits sent and received by port × 8 + class, packets lost and unroutable by port -/
  flitsTx : Sparse Nat := []
  flitsRx : Sparse Nat := []
  lostPk : Sparse Nat := []
  /-- highest input-buffer depths since the last capture, by (port × 8 + class) × 4 + level -/
  deepest : Sparse Nat := []
  /-- ports that reached ACTIVE since the last flip (R439) -/
  newPorts : List Nat := []
  unroutPk : Sparse Nat := []
  /-- the arbiters of the output ports, by port (R430) -/
  arbs : Sparse ArbRec := []
  /-- the collective group whose packet each output port sent last from this module, 64 for the other messages (R462) -/
  turns : Sparse Nat := []
  /-- remote requests and pushes that a held bank, device or port keeps waiting, in order (R258, R286) -/
  waiting : List Pkt := []
  deriving DecidableEq, Repr

/-- A record of the phase predictor (R515): powers in mW, duration in µs, sensitivity in 1/1024, samples. -/
structure PredRec where
  part : Nat
  pslot : Nat
  phase : Nat
  pMt : Nat
  pRest : Nat
  t : Nat
  sens : Nat
  n : Nat
  /-- the preset in MHz that the phase's lanes run at (R517) -/
  preset : Nat
  /-- MHz that droop has taken off, stretches in this occurrence, occurrences within the limit since (R520) -/
  cut : Nat := 0
  stretches : Nat := 0
  clean : Nat := 0
  deriving DecidableEq, Repr

/-! ## Power and temperature (chapter 19) -/

/-- The limiter, the caps and the sensors beyond their pages. -/
structure PwrRec where
  /-- HOST_W as firmware has validated it, and a write that waits for the firmware (R511, R533) -/
  host : Nat := 0
  hostPend : Option Nat := none
  /-- CAP_RAMP, and whether it is frozen for want of ticks (R519) -/
  ramp : Option Nat := none
  frozen : Bool := false
  /-- CAP_THM while it applies, and whether a GDDR7 device is throttling (R525) -/
  thm : Option Nat := none
  memHot : Bool := false
  /-- units that failed sensing (R529); cold-plate (1) and current (2) checks that fail now, and floors they hold (R532) -/
  sensed : List UnitId := []
  conds : List Nat := []
  floors : List Nat := []
  /-- clocks are halved: by the fast limiter, by THROT_N (R510, R518) -/
  fast : Bool := false
  half : Bool := false
  /-- the limiter's clock ceiling in MHz of each partition, and of units that no partition owns (R513) -/
  ceil : List Nat := [1400, 1400, 1400, 1400, 1400, 1400, 1400, 1400, 1400]
  /-- P_shared as last measured -/
  shared : Nat := 0
  /-- a parked module is waking (R523) -/
  waking : Bool := false
  /-- last readings by sensor in m°C with their time, excluded diodes, hot tiles and clusters (R525, R528) -/
  temps : Sparse (Nat × List Nat) := []
  excluded : List Nat := []
  hot : List UnitId := []
  /-- ageing caps in MHz of tiles and clusters by page (R128) -/
  aged : Sparse Nat := []
  /-- timestamps of the last Fmax measurements, likewise -/
  agedAt : Sparse Nat := []
  deriving DecidableEq, Repr

/-! ## Security (chapter 18) -/

/-- The sealed model of a partition (R495 to R502). -/
structure SecPart where
  /-- merged sealed ranges: memory key of the start, and bytes -/
  ranges : List (Nat × Nat) := []
  /-- memory keys of the PLAN objects' first bytes, and the KERNEL objects' ranges -/
  plans : List Nat := []
  kernels : List (Nat × Nat) := []
  /-- the open session: its SESSION_ID, and the index of the free values of which its private key is drawn -/
  session : Option (Nat × Nat) := none
  /-- the bundle key of an import -/
  bundleKey : Option (List Byte) := none
  /-- the scrub ends an UNSEAL, so the memory keys are redrawn (R500) -/
  unsealing : Bool := false
  /-- the bundle's header, and SHA-512 of its manifest -/
  header : List Byte := []
  digest : List Byte := []
  /-- where the import's chunks go, from chunk 1 on, and how long they are; those imported -/
  chunks : List (Nat × Nat) := []
  imported : List Nat := []
  deriving DecidableEq, Repr

/-- The SEC block beyond its page. -/
structure SecMod where
  /-- a mailbox command that waits for the random generator (R566): code, partition, ARG0, ARG1 -/
  job : Option (Nat × Nat × Nat × Nat) := none
  /-- the challenge last written has served no attempt yet (R505) -/
  challenge : Bool := false
  /-- the memory keys of the slots (R272, R495): slot, and the free values of which they are drawn; a slot not listed is zeroised -/
  memKeys : List (Nat × Nat) := []
  /-- CDI_1 while MCC firmware holds it: from stage 1 to the derivation of Alias 2 in stage 8 (R489, R540) -/
  secret : List Byte := []
  /-- the private key of Alias 2 in its slot of the crypto block (R489) -/
  alias2 : Option Nat := none
  /-- the certificates that this start has issued: Alias 1's, then Alias 2's (R490) -/
  chain : List (List Byte) := []
  deriving DecidableEq, Repr

/-! ## SPDM (R491) -/

/-- A secured session of the responder: SessionID, transport (0 PF, 1 the management port, 2 + p VF p), whether FINISH has completed
the handshake, and key updates. -/
structure SpdmSess where
  id : Nat
  via : Nat
  live : Bool
  updates : Nat
  deriving DecidableEq, Repr

/-- The SPDM responder: how far each transport has negotiated (1 version, 2 capabilities, 3 algorithms), its sessions, large
responses being fetched in chunks (transport, handle, bytes left, next chunk), and IDE key sets made by IDE_KM. -/
structure SpdmRec where
  stage : Sparse Nat := []
  sessions : List SpdmSess := []
  large : List (Nat × Nat × List Byte × Nat) := []
  nextHandle : Nat := 0
  /-- the largest message each transport's requester takes, 0 until it says -/
  sizes : Sparse Nat := []
  /-- IDE streams that have keys set and running: bit 0 CXL.io, bit 1 CXL.cachemem -/
  ideSet : Nat := 0
  deriving DecidableEq, Repr

/-! ## Start-up (chapter 20), the hot-swap controller (R630) and standby units (R584 to R589) -/

/-- A stage record of a boot report (R543). -/
structure BootRec where
  stage : Nat
  result : Nat
  reason : Nat
  tBegin : Nat
  dur : Nat
  detail : Nat
  deriving DecidableEq, Repr

/-- A boot report (R542). -/
structure BootReport where
  kind : Nat := 0
  outcome : Nat := 0
  consec : Nat := 0
  bootCount : Nat := 0
  reason : Nat := 0
  tStart : Nat := 0
  imageId : List Byte := []
  recs : List BootRec := []
  deriving DecidableEq, Repr

/-- A core of a wave (R552, R553): blocks of its component that it misses, the rounds it has had, READY. -/
structure WaveCore where
  unit : UnitId
  missing : List Nat
  rounds : Nat
  ready : Bool
  deriving DecidableEq, Repr

/-- A start that runs (R540, R560). -/
structure StartRec where
  full : Bool
  /-- timestamps of the start and of the stage -/
  began : Nat
  stageAt : Nat
  /-- units retired during stage 7 -/
  retired : Nat
  /-- the wave start has failed validation once (R554) -/
  waveTried : Bool
  deriving DecidableEq, Repr

/-- A firmware restart, a stop or a reset that holds the compute dies (R557, R561). -/
structure CmpRec where
  /-- CMP_RST_N is asserted -/
  pin : Bool := false
  /-- MCC.RESET.COMPUTE holds the reset -/
  held : Bool := false
  deriving DecidableEq, Repr

/-- A standby unit: its test results (R588, R590). STATUS is a code of R590, at first UNTESTED. -/
structure StbyRec where
  status : Nat := 1
  /-- time of the last full slice cycle that passed, and whether no slice of the running cycle has failed -/
  lastPass : Option Nat := none
  clean : Bool := true
  slicesFailed : Nat := 0
  mismatches : Nat := 0
  failovers : Nat := 0
  lastFail : Option Nat := none
  /-- releases refused because the standby could not take ownership (R585); the spec gives no register that shows the count -/
  refused : Nat := 0
  deriving DecidableEq, Repr

/-- The module's start-up machine, its supply and its boot reports. -/
structure SysRec where
  /-- 42 V has passed the hot-swap controller and AON runs -/
  powered : Bool := true
  /-- the hot-swap controller: 0 off, 1 debounce, 2 ramp, 3 on, 4 tripped, 5 latched off; HS_EN closed, V_IN in range, trips -/
  hotswap : Nat := 3
  hsEn : Bool := true
  vin : Bool := true
  trips : Nat := 0
  /-- levels: PWR_EN, MOD_RST_N asserted, COOLANT_OK, REFCLK present -/
  pwrEn : Bool := true
  modRst : Bool := true
  coolant : Bool := true
  refclk : Bool := true
  /-- link-die rails are in regulation: PGOOD is released -/
  pgood : Bool := true
  /-- a stop holds the module in AON-only state (R527) -/
  stopped : Bool := false
  cmp : CmpRec := {}
  start : Option StartRec := none
  /-- a new full start is due 1 s after a failed one (R555) -/
  retry : Bool := false
  /-- cores that load firmware: of a start's wave, or spares that a remap brings out of the Talon (R552) -/
  wave : List WaveCore := []
  /-- units that failed a test and are out of this configuration; those of the running stage that are suspect (R572) -/
  excluded : List UnitId := []
  suspectNow : List UnitId := []
  /-- mode before a compute-only reset, and mode before RECOVERY (R539) -/
  back : Nat := 2
  prior : Nat := 2
  /-- the present run has reached STABLE_S (R555) -/
  stable : Bool := false
  cur : BootReport := {}
  prev : BootReport := {}
  /-- the image of the present configuration, and the one that an update has written into the slot since (R545, R550) -/
  image : ImageFacts := {}
  slot : Option ImageFacts := none
  slotBad : Bool := false
  /-- an update runs: by the host (0) or PLDM (1), with the image it writes -/
  update : Option (Nat × ImageFacts) := none
  /-- minimum SVNs raised since manufacture, above the fused ones (R547) -/
  svns : List Nat := [0, 0, 0]
  /-- standbys: Dealer, MCC, rail sequencer -/
  stby : List StbyRec := [{}, {}, {}]
  /-- copies that failed in this start: pair and die (R583) -/
  failed : List (Nat × Nat) := []
  /-- the health window (R590) -/
  health : List Byte := []
  /-- BOOT_COUNT at the last debug unlock (R493) -/
  unlockBoot : Nat := 0
  deriving DecidableEq, Repr

/-- The management port (chapter 23). -/
structure MgtRec where
  /-- uncollected platform events, oldest first (R613) -/
  events : List EvtRec := []
  /-- consecutive rejected ticks, and the count that SET_TIME left for the next accepted tick (R620) -/
  rejects : Nat := 0
  setTime : Option Nat := none
  /-- a tick has come since PGOOD, so the timestamp runs -/
  ticked : Bool := false
  /-- the nanoseconds that slewing still removes: remainder of the counter above the tick, signed by `slewUp` -/
  slew : Nat := 0
  slewUp : Bool := false
  /-- nanoseconds since the last heartbeat that AON was given, and since this AON started (R567, R622) -/
  hbNs : Nat := 0
  upNs : Nat := 0
  /-- maximum read length (R608) -/
  mrl : Nat := 256
  deriving DecidableEq, Repr

/-! ## Collectives (chapter 17) -/

/-- A verified chunk of an incoming stream: key (member × 4 + sub-phase) × 65,536 + chunk, CRC, payload, poison. -/
structure GotChunk where
  key : Nat
  crc : Nat
  data : List Byte
  poison : Bool
  deriving DecidableEq, Repr

/-- The packets of a chunk that have arrived so far: packet index and payload. -/
structure PartChunk where
  key : Nat
  pkts : List (Nat × List Byte)
  poison : Bool
  early : Bool
  /-- index of its last packet and the CRC there, once that has come -/
  fin : Option (Nat × Nat)
  deriving DecidableEq, Repr

/-- A DIGEST message of a member (R473). -/
structure DigestMsg where
  member : Nat
  seq : Nat
  sent : Nat
  result : Nat
  flags : Nat
  deriving DecidableEq, Repr

/-- An accepted collective (R457). -/
structure CollRec where
  group : Nat
  seq : Nat
  engine : Nat
  lane : Lane
  posted : Bool := false
  /-- READY has been sent, and the member's own share copied -/
  opened : Bool := false
  /-- counts this member sends: [member][sub], and the auxiliary record's CLIST, DST_CAP and DST_STRIDE -/
  mine : List Nat := []
  clist : Nat := 0
  cap : Nat := 0
  stride : Nat := 0
  got : List GotChunk := []
  parts : List PartChunk := []
  /-- chunks sent for the first time: key by destination member, and CRC -/
  sent : List (Nat × Nat) := []
  /-- failed attempts by key, and consecutive UNROUTABLE losses by key -/
  tries : Sparse Nat := []
  losses : Sparse Nat := []
  /-- FP32 accumulators once the suit phase is in -/
  acc : List Nat := []
  reduced : Bool := false
  digested : Bool := false
  poisonIn : Bool := false
  poisonSeen : Bool := false
  mismatch : Bool := false
  /-- members whose DIGEST has been compared -/
  checked : List Nat := []
  overflow : Bool := false
  uneven : Bool := false
  resent : Bool := false
  paused : Bool := false
  deriving DecidableEq, Repr

/-- What the engines of a link die hold for a group beyond its registers (R450, R458). -/
structure GrpRec where
  /-- READY, COUNTS and DIGEST messages by sequence number -/
  readys : List (Nat × Nat) := []
  counts : List (Nat × Nat × List Nat) := []
  digests : List DigestMsg := []
  /-- early packets in the kitty (R458), by sender's member index -/
  kitty : List (Nat × Pkt) := []
  /-- bytes outstanding by member × 2 + pool: 0 kitty, 1 window (R458, R459) -/
  outB : Sparse Nat := []
  /-- S of the CANCEL last applied under this GEN (R475) -/
  lastS : Option Nat := none
  /-- lost nodes, and survivors whose REFORM_ACK is outstanding (R477, R479) -/
  lost : List Nat := []
  unacked : List Nat := []
  /-- consecutive UNROUTABLE losses of messages by node -/
  msgLoss : Sparse Nat := []
  /-- of a forward all-to-all, by its WORK_ADDR (R471): NSUB, and in a product group the rows of each suit-mate for each member of this
  member's seat, by suit-mate × 64 + suit (R467) -/
  forward : List (Nat × Nat × Sparse Nat) := []
  deriving DecidableEq, Repr

/-- The state of the module. -/
structure State where
  /-- commands that wait, first in, first out -/
  pending : List Instr
  /-- register words that differ from their reset value, by BAR0 or window address -/
  regs : Sparse Word
  /-- live counts and frozen read values of the counters (R639), by page × 32 + k -/
  counts : Sparse Nat
  snaps : Sparse Nat
  /-- memory bytes by space and offset, and poisoned lines -/
  mem : Sparse Byte
  poison : List Nat
  /-- LR reservations of the Table banks, oldest first (R252) -/
  resv : List Resv
  hurt : HurtRec
  cache : CacheRec
  tbl : Sparse TblRec
  /-- requests held at frozen or disabled controllers and tier ports, by page -/
  memWait : List (Nat × MemReq)
  /-- reads that hold a tag of a tier port, in order (R285), as `memWait` names unit and length -/
  tierOut : List (Nat × MemReq)
  /-- scoreboard counters (R82) -/
  scoreboard : Sparse Nat
  parts : Sparse PartRec
  pge : Sparse PgePart
  units : Sparse UnitRec
  talon : TalonRec
  sec : Sparse SecPart
  secMod : SecMod
  pwr : PwrRec
  txn : Option TxnRec
  net : NetRec
  coll : List CollRec
  grps : Sparse GrpRec
  txnNextId : Nat
  /-- module event ring: waiting records, next sequence number, records lost, unsignalled records (R396) -/
  modWait : List EvtRec
  modSeq : Nat
  modLost : Nat
  modUnsig : Nat
  coal : List CoalWin
  /-- outputs of Dealer decisions whose journal records the dummy has not acknowledged, one entry a record (R365) -/
  held : List (List Out)
  /-- the random generator fails its health test: every key draw is blocked (R566) -/
  trngBad : Bool
  /-- size of the CXL.mem window in effect, in GiB (R389) -/
  memWin : Nat
  /-- the window refuses every access: a full start or a compute reset has not brought memory up (R389) -/
  memHeld : Bool
  /-- the host's latest consecutive writes of quarters of a line (R602) -/
  merge : Option HostRun
  /-- ENTER_RECOVERY has been taken: no step is formed and no request admitted (R539) -/
  recovering : Bool
  /-- the phase predictor's records (R515) -/
  pred : List PredRec
  /-- start-up, supply, standbys; the management port; the SPDM responder -/
  sys : SysRec
  mgt : MgtRec
  spdm : SpdmRec
  /-- the model's own: index of the next free value, the last response, and what has left the block -/
  freeIdx : Nat
  resp : List Nat
  out : List Out
  deriving DecidableEq, Repr

/-- The module right after reset (log entries 1, 2 and 6): 42 V is present, AON runs, PWR_EN is high and MOD_RST_N asserted. Registers hold
their reset values, every unit is OFF, nothing is in memory, and no command waits. -/
def State.reset : State :=
  { pending := [], regs := [], counts := [], snaps := [], mem := [], poison := [], resv := [], hurt := {}, cache := {}, tbl := [], memWait := [], tierOut := []
    scoreboard := [], parts := [], pge := [], units := [], talon := {}, sec := [], secMod := {}, pwr := {}, txn := none, net := {}
    coll := [], grps := [], txnNextId := 1, modWait := [], modSeq := 0, modLost := 0, modUnsig := 0, coal := [], held := []
    trngBad := false, memWin := 0, memHeld := true, merge := none, recovering := false, pred := [], sys := {}, mgt := {}, spdm := {}
    freeIdx := 0, resp := [], out := [] }

end Sys2Proof.Machine
end

