-- ==== Sys2Proof/Machine/Ops.lean ====
section
/-!
DEFINITION. The named operations over registers, counters, interrupts, events, rings and memory. Every meaning works
through them.
-/
namespace Sys2Proof.Machine

/-! ## Registers (R31, R36) -/

/-- The 32-bit word at a BAR0 or BAR2 window address. -/
def State.word (s : State) (addr : Nat) : Word := Sparse.get wordReset s.regs addr

/-- The state with one word written. -/
def State.setWord (s : State) (addr : Nat) (w : Word) : State :=
  { s with regs := Sparse.set wordReset s.regs addr w }

/-- The number in `n` consecutive words. -/
def State.words (s : State) (addr : Nat) : Nat → Nat
  | 0 => 0
  | n + 1 => (s.word addr).toNat + 2 ^ 32 * State.words s (addr + 4) n

/-- The state with `n` consecutive words written from a number. -/
def State.setWords (s : State) (addr : Nat) : Nat → Nat → State
  | 0, _ => s
  | n + 1, v => State.setWords (s.setWord addr (BitVec.ofNat 32 v)) (addr + 4) n (v / 2 ^ 32)

/-- Address of the first word of a field at a page base, and the field's first bit in it. -/
def fieldPos (base : Nat) (f : Field) : Nat × Nat :=
  ((base + f.off) / 4 * 4, f.lo + 8 * ((base + f.off) % 4))

/-- How many words a field touches. -/
def fieldSpan (base : Nat) (f : Field) : Nat := ((fieldPos base f).2 + f.width + 31) / 32

/-- A field's value on the page at a base address. -/
def State.getAt (s : State) (base : Nat) (f : Field) : Nat :=
  bits (s.words (fieldPos base f).1 (fieldSpan base f)) (fieldPos base f).2 f.width

/-- The state with a field set on the page at a base address. -/
def State.setAt (s : State) (base : Nat) (f : Field) (v : Nat) : State :=
  s.setWords (fieldPos base f).1 (fieldSpan base f)
    (setBits (s.words (fieldPos base f).1 (fieldSpan base f)) (fieldPos base f).2 f.width v)

/-- A field of a unit's page, wherever its home is. -/
def State.get (s : State) (u : UnitId) (f : Field) : Nat := s.getAt (u.home f) f

/-- The state with a field of a unit's page set. -/
def State.put (s : State) (u : UnitId) (f : Field) (v : Nat) : State := s.setAt (u.home f) f v

/-- A one-bit field as a truth value. -/
def State.flag (s : State) (u : UnitId) (f : Field) : Bool := s.get u f != 0

/-- A field of partition p's BAR2 window. -/
def State.win (s : State) (p : Nat) (f : Field) : Nat := s.getAt (winBase p) f

/-- The state with a field of partition p's BAR2 window set. -/
def State.setWin (s : State) (p : Nat) (f : Field) (v : Nat) : State := s.setAt (winBase p) f v

/-! The singleton pages. -/
/-- HIF page. -/ abbrev hifU : UnitId := ⟨.hif, 0⟩
/-- BOOT page. -/ abbrev bootU : UnitId := ⟨.boot, 0⟩
/-- SEC page. -/ abbrev secU : UnitId := ⟨.sec, 0⟩
/-- PWR page. -/ abbrev pwrU : UnitId := ⟨.pwr, 0⟩
/-- THM page. -/ abbrev thmU : UnitId := ⟨.thm, 0⟩
/-- CLK page. -/ abbrev clkU : UnitId := ⟨.clk, 0⟩
/-- SPR page. -/ abbrev sprU : UnitId := ⟨.spr, 0⟩
/-- CTU page. -/ abbrev ctuU : UnitId := ⟨.ctu, 0⟩
/-- MGT page. -/ abbrev mgtU : UnitId := ⟨.mgt, 0⟩

/-! ## Free values -/

/-- The next free value and the state that has used it. -/
def State.fresh (s : State) : Nat × State := ((Config.freeValue s.freeIdx).toNat, { s with freeIdx := s.freeIdx + 1 })

/-- `n` free bytes from index `i` on. -/
def freeBytes (i : Nat) : Nat → List Byte
  | 0 => []
  | n + 1 => BitVec.ofNat 8 (Config.freeValue i).toNat :: freeBytes (i + 1) n

/-- `n` fresh free bytes and the state that has used them. -/
def State.freshBytes (s : State) (n : Nat) : List Byte × State := (freeBytes s.freeIdx n, { s with freeIdx := s.freeIdx + n })

/-- The global timestamp in nanoseconds (R620). -/
def State.now (s : State) : Nat := s.get mgtU Reg.mgt.tsNow

/-! ## Output -/

/-- The state with one more thing handed to the world outside. -/
def State.emit (s : State) (o : Out) : State := { s with out := s.out ++ [o] }

/-- The response that the requester of the last command received. -/
def State.respond (s : State) (r : List Nat) : State := { s with resp := r }

/-! ## Counters (R639) -/

/-- NUM_COUNTERS of a block (R39). -/
def numCounters (b : Blk) : Nat := bits (blkCap b) 8 8

/-- Key of counter k of a page. -/
def counterKey (page k : Nat) : Nat := page * 32 + k

/-- The live count of counter k of a unit's page. -/
def State.live (s : State) (u : UnitId) (k : Nat) : Nat := Sparse.get (fun _ => 0) s.counts (counterKey u.page k)

/-! ## Partitions and per-unit records -/

/-- What is held for partition p. -/
def State.part (s : State) (p : Nat) : PartRec := Sparse.get (fun _ => {}) s.parts p

/-- The state with partition p's record changed. -/
def State.setPart (s : State) (p : Nat) (f : PartRec → PartRec) : State :=
  { s with parts := Sparse.set (fun _ => {}) s.parts p (f (s.part p)) }

/-- What the page engines hold for partition p. -/
def State.pgePart (s : State) (p : Nat) : PgePart := Sparse.get (fun _ => {}) s.pge p

/-- The state with partition p's page-engine record changed. -/
def State.setPge (s : State) (p : Nat) (f : PgePart → PgePart) : State :=
  { s with pge := Sparse.set (fun _ => {}) s.pge p (f (s.pgePart p)) }

/-- What is held for a unit. -/
def State.unit (s : State) (u : UnitId) : UnitRec := Sparse.get (fun _ => {}) s.units u.page

/-- The state with a unit's record changed. -/
def State.setUnit (s : State) (u : UnitId) (f : UnitRec → UnitRec) : State :=
  { s with units := Sparse.set (fun _ => {}) s.units u.page (f (s.unit u)) }

/-! ## Unit state codes (R42) -/

/-- OFF -/ abbrev stOff : Nat := 0
/-- STARTING -/ abbrev stStarting : Nat := 1
/-- RUNNING -/ abbrev stRunning : Nat := 2
/-- DRAINING -/ abbrev stDraining : Nat := 3
/-- QUIESCED -/ abbrev stQuiesced : Nat := 4
/-- FAULTED -/ abbrev stFaulted : Nat := 5
/-- VACANT -/ abbrev stVacant : Nat := 6

/-- `STATUS.STATE` of a unit (R41, R42). -/
def State.ustate (s : State) (u : UnitId) : Nat := s.get u Reg.common.state

/-- The CTRL bits that stop acceptance: FREEZE as software or the MCC set it (R40, R574). -/
def State.frozen (s : State) (u : UnitId) : Bool := s.flag u Reg.common.freeze || (s.unit u).mccFreeze

/-- FORCE acts on a unit: set with ENABLE clear while it drains (R44), or by the MCC (R576). -/
def State.forced (s : State) (u : UnitId) : Bool :=
  (s.unit u).mccForce || (s.flag u Reg.common.force && !s.flag u Reg.common.enable && s.ustate u == stDraining)

/-- The lane at the head of a unit's queue has begun: an engine begins it when it is free, a utility core when the kernel is started
(R230). -/
def State.begun (s : State) (u : UnitId) : Bool := u.blk != .uc || (s.unit u).kernel.isSome

/-- The HOLD chain that a unit stands in (R90), by partition and partition-relative unit: from the start of its first command until the
end of its last. -/
def State.openChain (s : State) (u : UnitId) : Option (Nat × Nat) :=
  match (s.unit u).queue with
  | [] => (s.unit u).chain
  | l :: _ =>
    match l.status with
    | some st => if l.bpp = 1 ∧ st ≠ 9 then some (l.part, l.rel) else none
    | none => (s.unit u).chain.or (if l.bpp = 1 ∧ s.begun u then some (l.part, l.rel) else none)

/-- A unit stands inside a HOLD chain, at no break point (R89, R90). -/
def State.inChain (s : State) (u : UnitId) : Bool := (s.openChain u).isSome

/-! ## Parking (R523) -/

/-- The module is parked, or waking from it. -/
def State.parked (s : State) : Bool := s.flag pwrU Reg.pwr.statParked

/-- Something that needs the compute dies wakes a parked module; what it asks for takes effect in its own command (log entry). -/
def State.rouse (s : State) : State := if s.parked then { s with pwr := { s.pwr with waking := true } } else s

/-- A unit is in FAULTED. -/
def State.faulted (s : State) (u : UnitId) : Bool := s.ustate u == stFaulted

/-- A unit is power-gated, by itself or with the parked module. -/
def State.gated (s : State) (u : UnitId) : Bool :=
  (s.unit u).asleep || (s.parked && [Blk.mt, .ae, .ew, .shf, .xr, .smp, .uc, .dma].contains u.blk)

/-! ## Logical numbers (R12, R20, R591) -/

/-- The block has a Talon (R39 SPARABLE, R569). -/
def sparable (b : Blk) : Bool := bit (blkCap b) 3

/-- Types whose logical numbers a full configuration assigns (R20, R573). -/
def numbered (b : Blk) : Bool := sparable b || b == .dma || b == .pge || b == .ce

/-- Physical instance that serves a logical number; 0xFFFF for VACANT (R591). -/
def State.physOf (s : State) (b : Blk) (l : Nat) : Nat :=
  if numbered b then Sparse.get (fun _ => 0xFFFF) s.talon.map (blkCode b * 4096 + l)
  else if l < blkCount b then l else 0xFFFF

/-- The logical number a unit serves, if any. -/
def State.logicalOf (s : State) (u : UnitId) : Option Nat :=
  if numbered u.blk then
    (s.talon.map.find? (fun e => e.1 / 4096 == blkCode u.blk && e.2 == u.ix)).map (fun e => e.1 % 4096)
  else some u.ix

/-- The resource-mask field of a block in `SPR.PART[p]` or `MEM.REGION[p]`, and how many logical numbers one bit covers (R591, R268). -/
def resourceMask : Blk → Option (UnitId × Field × Nat)
  | .mt => some (sprU, Reg.spr.partMtGroups, 16)
  | .ae => some (sprU, Reg.spr.partAePairs, 2)
  | .uc => some (sprU, Reg.spr.partUcClusters, 32)
  | .ew => some (sprU, Reg.spr.partEwGroups, 8)
  | .shf => some (sprU, Reg.spr.partShfPairs, 2)
  | .xr => some (sprU, Reg.spr.partXr, 1)
  | .smp => some (sprU, Reg.spr.partSmp, 1)
  | .dma => some (sprU, Reg.spr.partDmaPairs, 2)
  | .mem => some (⟨.mem, 0⟩, Reg.mem.regionGroups, 4)
  | _ => none

/-- Partition p owns logical number l of a block. -/
def State.ownsLogical (s : State) (b : Blk) (p l : Nat) : Bool :=
  match resourceMask b with
  | none => false
  | some (u, f, n) => bit (s.get u (f.at p)) (l / n)

/-- The partition that a unit belongs to (R33). -/
def State.partOfUnit (s : State) (u : UnitId) : Option Nat :=
  match s.logicalOf u with
  | none => none
  | some l => (List.range 8).find? (fun p => s.ownsLogical u.blk p l)

/-- The logical numbers of a block that partition p owns, ascending: its partition-relative units (R591). -/
def State.unitsOf (s : State) (b : Blk) (p : Nat) : List Nat :=
  (List.range (blkLogical b)).filter (fun l => s.ownsLogical b p l)

/-! ## Regions, slices, windows (R243 to R248, R268, R283) -/

/-- How many device groups partition p owns (R268). -/
def State.groupCount (s : State) (p : Nat) : Nat :=
  ((List.range 16).filter (fun g => bit (s.get ⟨.mem, 0⟩ (Reg.mem.regionGroups.at p)) g)).length

/-- Data bytes of one device group: 15.5 GiB (R268). -/
abbrev groupBytes : Nat := 0x3_E000_0000

/-- First offset of partition p's region in space 0 (R268). -/
def State.regionBase (s : State) (p : Nat) : Nat :=
  (List.range p).foldl (fun a q => a + s.groupCount q * groupBytes) 0

/-- Size of partition p's region. -/
def State.regionSize (s : State) (p : Nat) : Nat := s.groupCount p * groupBytes

/-- A range of space 0 lies in partition p's region (R268). -/
def State.inRegion (s : State) (p off n : Nat) : Bool :=
  decide (s.regionBase p ≤ off) && decide (off + n ≤ s.regionBase p + s.regionSize p)

/-- Partition p owns a Table slice (R246, R247). -/
def State.ownsSlice (s : State) (p sl : Nat) : Bool :=
  decide (sl % 16 ≠ 15) && s.flag ⟨.tbl, 0⟩ (Reg.tbl.sliceAssigned.at sl) &&
    decide (s.get ⟨.tbl, 0⟩ (Reg.tbl.sliceOwner.at sl) = p)

/-- A range of the Table lies in slices that partition p owns: 32 slices of 16 MiB (R243, R246). -/
def State.inSlices (s : State) (p off n : Nat) : Bool :=
  decide (off + n ≤ 0x2000_0000) &&
    (List.range ((off + n - 1) / 0x100_0000 - off / 0x100_0000 + 1)).all
      (fun i => s.ownsSlice p (off / 0x100_0000 + i))

/-- A range of space 2 lies in partition p's tier window (R283). -/
def State.inWindow (s : State) (p off n : Nat) : Bool :=
  let b := 2 ^ 30 * s.get ⟨.tier, 0⟩ (Reg.tier.winBaseGib.at p)
  decide (b ≤ off) && decide (off + n ≤ b + 2 ^ 30 * s.get ⟨.tier, 0⟩ (Reg.tier.winSizeGib.at p))

/-- A range belongs to partition p (R80, R248, R268, R283). -/
def State.inPart (s : State) (p space off n : Nat) : Bool :=
  match space with
  | 0 => s.inRegion p off n
  | 1 => s.inSlices p off n
  | 2 => s.inWindow p off n
  | _ => false

/-- The partition that owns the line at a memory key. -/
def State.partOfKey (s : State) (k : Nat) : Option Nat :=
  (List.range 8).find? (fun p => s.inPart p (k / 2 ^ 48) (k % 2 ^ 48) 1)

/-- The logical device and device line of a space-0 offset in partition p's region (R270). -/
def State.deviceOf (s : State) (p off : Nat) : Nat × Nat :=
  let g := s.get ⟨.mem, 0⟩ (Reg.mem.regionGroups.at p)
  let all := (List.range 64).filter (fun d => bit g (d / 4))
  let l0 := all.filter (fun d => decide (d < 32))
  let l1 := all.filter (fun d => decide (32 ≤ d))
  let n := (off - s.regionBase p) / 256
  let pick (l : List Nat) (m : Nat) : Nat × Nat := (l.getD (m % l.length) 0, m / l.length)
  if s.get ⟨.mem, 0⟩ (Reg.mem.regionMode.at p) = 0 then pick all n
  else if n < l0.length * 16_252_928 then pick l0 n
  else pick l1 (n - l0.length * 16_252_928)

/-- The logical bank and row of a Table offset (R244, R245). -/
def State.bankOf (s : State) (off : Nat) : Nat × Nat :=
  let sl := off / 0x100_0000
  let b := sl % 16
  let h := sl / 16
  let n := off % 0x100_0000 / 256
  if bit (s.get ⟨.tbl, 0⟩ Reg.tbl.mapBandMode) b then
    (512 * (n % 2) + n / 2 % 512, 128 * b + 2 * (n / 1024) + h)
  else (512 * h + n % 512, 128 * b + n / 512)

/-- A command that one class of unit carries out: addressed to another, or to one that does not exist, it reaches nothing (R34, R35). -/
def atUnit (b : Blk) (u : UnitId) (s t : State) : Host.Outcome State Fault Refusal :=
  .next (if u.blk = b ∧ u.valid then t else s)

/-! ## Memory: one byte store over the three spaces, keyed by the low 50 bits of a DGA (R280, R304) -/

/-- What a byte that nothing has written reads as (log entry 2). -/
def memDefault : Nat → Byte := fun _ => 0

/-- The byte at an address. -/
def State.byte (s : State) (a : Nat) : Byte := Sparse.get memDefault s.mem a

/-- A run of bytes. -/
def State.bytes (s : State) (a n : Nat) : List Byte := Sparse.getRun memDefault s.mem a n

/-- A little-endian number of n bytes. -/
def State.le (s : State) (a n : Nat) : Nat := leNat (s.bytes a n)

/-- The state with bytes written. -/
def State.store (s : State) (a : Nat) (d : List Byte) : State := { s with mem := Sparse.setRun memDefault s.mem a d }

/-- The state with a little-endian number of n bytes written. -/
def State.storeLe (s : State) (a n v : Nat) : State := s.store a (leBytes n v)

/-- The memory is in its canonical form. -/
def Memory.wf (m : Sparse Byte) : Bool := Sparse.wf memDefault m

/-- The 256-byte line of an address (R600). -/
def lineOf (a : Nat) : Nat := a / 256

/-- The lines that a run of n bytes touches. -/
def linesOf (a n : Nat) : List Nat :=
  if n = 0 then [] else (List.range ((a + n - 1) / 256 - a / 256 + 1)).map (fun i => a / 256 + i)

/-- The tier port that serves an offset of space 2 (R283). -/
def State.tierPortOf (s : State) (off : Nat) : Option UnitId :=
  let t : UnitId := ⟨.tier, 0⟩
  match (List.range 8).find? (fun p => s.inWindow p off 1) with
  | none => none
  | some p =>
    if s.flag t Reg.tier.modeInterleave then some ⟨.tier, off / 8192 % 2⟩
    else some ⟨.tier, s.get t (Reg.tier.winPort.at p)⟩

/-- A line lies on a VACANT bank or device, or behind a tier port that is not up: it reads as poisoned zeros, and writes to it
are dropped (R260, R278, R285). -/
def State.lost (s : State) (line : Nat) : Bool :=
  match line * 256 / 2 ^ 48 with
  | 0 => !s.talon.vacant.isEmpty &&
    (match s.partOfKey (line * 256) with
    | some p => s.physOf .mem (s.deviceOf p (line * 256 % 2 ^ 48)).1 == 0xFFFF
    | none => false)
  | 1 => !s.talon.vacant.isEmpty && s.physOf .tbl (s.bankOf (line * 256 % 2 ^ 48)).1 == 0xFFFF
  | 2 => (match s.tierPortOf (line * 256 % 2 ^ 48) with
    | some u => decide (s.get u Reg.tier.linkState < 2)
    | none => false)
  | _ => false

/-- Some logical number of a block is served. -/
def State.anyServed (s : State) (b : Blk) : Bool := s.talon.map.any (fun e => e.1 / 4096 == blkCode b)

/-- The bank, device or tier port that holds a line. -/
def State.holder (s : State) (line : Nat) : Option UnitId :=
  let off := line * 256 % 2 ^ 48
  match line * 256 / 2 ^ 48 with
  | 0 => if !s.anyServed .mem then none else
    (match s.partOfKey (line * 256) with
    | some p =>
      let x := s.physOf .mem (s.deviceOf p off).1
      if x = 0xFFFF then none else some ⟨.mem, x⟩
    | none => none)
  | 1 => if !s.anyServed .tbl then none else
    let x := s.physOf .tbl (s.bankOf off).1
    if x = 0xFFFF then none else some ⟨.tbl, x⟩
  | 2 => s.tierPortOf off
  | _ => none

/-- The logical device that holds a line of space 0, if a region covers it. -/
def State.deviceOfLine (s : State) (line : Nat) : Option Nat :=
  if line * 256 / 2 ^ 48 ≠ 0 then none
  else (s.partOfKey (line * 256)).map (fun p => (s.deviceOf p (line * 256)).1)

/-- A line of a device that a copy wrote poisoned with those after it, and not written clean since (R277). -/
def State.deadLine (s : State) (line : Nat) : Bool :=
  !s.hurt.dead.isEmpty && decide (line * 256 / 2 ^ 48 = 0) &&
    (match s.partOfKey (line * 256) with
    | none => false
    | some p =>
      let d := s.deviceOf p (line * 256)
      s.hurt.dead.any (fun x => x.dev == d.1 && decide (x.first ≤ d.2) && !x.clean.contains line))

/-- A line is poisoned (R600), or lost. -/
def State.poisoned (s : State) (line : Nat) : Bool := s.poison.contains line || s.lost line || s.deadLine line

/-- Some line of a run is poisoned. -/
def State.anyPoison (s : State) (a n : Nat) : Bool := (linesOf a n).any s.poisoned

/-- Marks one line poisoned. -/
def State.poisonLine (s : State) (line : Nat) : State := { s with poison := Keys.add s.poison line }

/-- Clears one line's poison. -/
def State.cleanLine (s : State) (line : Nat) : State :=
  let s1 := { s with poison := Keys.del s.poison line }
  if s.hurt.dead.isEmpty then s1
  else
    match s.deviceOfLine line with
    | none => s1
    | some d => { s1 with hurt := { s1.hurt with
        dead := s1.hurt.dead.map (fun (x : DeadDev) => if x.dev = d then { x with clean := Keys.add x.clean line } else x) } }

/-- Marks every line of a run poisoned. -/
def State.poisonRun (s : State) (a n : Nat) : State := (linesOf a n).foldl State.poisonLine s

/-- Clears the poison of every line of a run: a tag clear (R251), or zeroing (R246, R269). -/
def State.cleanRun (s : State) (a n : Nat) : State :=
  if s.hurt.dead.isEmpty then
    { s with poison := s.poison.filter (fun l => decide (n = 0) || decide (l < a / 256) || decide ((a + n - 1) / 256 < l)) }
  else (linesOf a n).foldl State.cleanLine s

/-- A write with its poison flag: a line written whole takes the flag, a line written in part keeps its poison or gains the
flag (R250, R271, R600). -/
def State.write (s : State) (a : Nat) (d : List Byte) (pois : Bool) : State :=
  (linesOf a d.length).foldl
    (fun t l =>
      if pois then t.poisonLine l
      else if a ≤ l * 256 ∧ l * 256 + 256 ≤ a + d.length then t.cleanLine l
      else t)
    (s.store a d)

/-- Zeroes n bytes, a whole number of lines, and clears their poison and damage. -/
def State.zeroRun (s : State) (a n : Nat) : State :=
  let s1 := s.cleanRun a n
  let out (l : Nat) : Bool := decide (l * 256 < a) || decide (a + n ≤ l * 256)
  { s1 with
    mem := s1.mem.filter (fun c => decide (c.1 < a) || decide (a + n ≤ c.1))
    hurt := { s1.hurt with
      ce := s1.hurt.ce.filter (fun b => out (b / 4))
      ue := s1.hurt.ue.filter (fun b => out (b / 4))
      tags := s1.hurt.tags.filter out } }

end Sys2Proof.Machine
end

