-- ==== Sys2Proof/Machine/Operands.lean ====
section
/-!
DEFINITION. Addresses and operands: Device Global Addresses (R280), slices (R243 to R248), regions and tier windows (R268,
R283), the checks of R80 and R281, and the operand fields of a command descriptor (R76).
-/
namespace Sys2Proof.Machine

/-- NODE of a DGA (R280). -/
def dgaNode (a : Nat) : Nat := bits a 50 8
/-- SPACE of a DGA. -/
def dgaSpace (a : Nat) : Nat := bits a 48 2
/-- OFFSET of a DGA. -/
def dgaOff (a : Nat) : Nat := bits a 0 48
/-- The key of a DGA in the memory of its node: space and offset. -/
def dgaKey (a : Nat) : Nat := bits a 0 50
/-- The DGA of a space and offset on a node. -/
def dgaOf (node space off : Nat) : Nat := 2 ^ 50 * node + 2 ^ 48 * space + off
/-- The memory key of a space and offset. -/
def key (space off : Nat) : Nat := 2 ^ 48 * space + off

/-- This module's node ID (R417). -/
def State.node (s : State) : Nat := s.get hifU Reg.hif.nodeId

/-- Size of a space (R280). -/
def spaceSize : Nat → Nat
  | 0 => 0x3E_0000_0000
  | 1 => 0x2000_0000
  | 2 => 0x7C0_0000_0000
  | _ => 0x400_0000

/-- Reserved bits clear, NODE valid and the offset within its space (R281). -/
def dgaFormed (a : Nat) : Bool :=
  decide (bits a 58 6 = 0) && decide (dgaNode a < 64) && decide (dgaOff a < spaceSize (dgaSpace a))

/-- The verdict of the dispatch checks on one address operand of n bytes (R80, R281, R94): a status, or none when it passes.
`remote`: the engine accepts other nodes. `spaces`: the spaces it accepts. -/
def State.checkAddr (s : State) (p a n : Nat) (spaces : List Nat) (remote : Bool) : Option Nat :=
  if !dgaFormed a || decide (dgaOff a + n > spaceSize (dgaSpace a)) then some 0x05
  else if dgaNode a ≠ s.node then (if remote then none else some 0x05)
  else if dgaSpace a = 3 then some 0x06
  else if !spaces.contains (dgaSpace a) then some 0x05
  else if s.inPart p (dgaSpace a) (dgaOff a) n then none
  else some 0x06

/-- An operand field of n bytes at descriptor offset o (bytes 16 to 63, R76). -/
def Lane.op (l : Lane) (o n : Nat) : Nat := leNat ((l.ops.drop (o - 16)).take n)

/-- Header flags (R77): SAT, SR, SCALE_CEIL. -/
def Lane.sat (l : Lane) : Bool := bit l.hdr 23
def Lane.sr (l : Lane) : Bool := bit l.hdr 24
def Lane.ceil (l : Lane) : Bool := bit l.hdr 25

/-- The first status of a list of checks that fails. -/
def firstFail : List (Option Nat) → Option Nat
  | [] => none
  | some c :: _ => some c
  | none :: r => firstFail r

/-- Marks the lines of output ranges poisoned, as far as they lie on this module in the lane's partition (R94). -/
def State.poisonOuts (s : State) (p : Nat) (outs : List (Nat × Nat)) : State :=
  outs.foldl (fun t o =>
    (linesOf (dgaKey o.1) o.2).foldl (fun t l =>
      if dgaNode o.1 = s.node ∧ s.inPart p (l * 256 / 2 ^ 48) (l * 256 % 2 ^ 48) 1 then t.poisonLine l else t) t) s

/-- Some line of a list of input ranges is poisoned. -/
def State.poisonedIn (s : State) (ins : List (Nat × Nat)) : Bool := ins.any (fun r => s.anyPoison (dgaKey r.1) r.2)

/-- A status poisons the step: all but OK, SKIPPED and the informational codes (R95). -/
def poisoning (st : Nat) : Bool := !(st == 0 || st == 1 || (decide (0x80 ≤ st) && decide (st ≤ 0xBF)))

/-- Runs the lane at the head of a unit's queue, if it has not ended: `k` gives its status and the state after it. A unit
runs its lanes in issue order (R86), while it is RUNNING or finishes dispatched work in DRAINING (R44). -/
def State.runLane (s : State) (u : UnitId) (k : Lane → State → Nat × State) : State :=
  match (s.unit u).queue with
  | [] => s
  | l :: rest =>
    if l.status.isSome || !(s.ustate u == stRunning || s.ustate u == stDraining) then s
    else
      let r := k l s
      r.2.setUnit u (fun x => { x with queue := { l with status := some r.1 } :: rest })

/-- A decoded step-table entry (R100). -/
structure STEntry where
  slot : Nat
  prefill : Bool
  final : Bool
  pos : Nat
  nrows : Nat
  rowBase : Nat
  root : Nat
  ctx : Nat
  owner : Nat
  deriving DecidableEq, Repr

/-- Entry e of the step table at a memory key (R100). -/
def State.stEntry (s : State) (a e : Nat) : STEntry :=
  let b := a + 64 + 32 * e
  let w := s.le b 4
  { slot := bits w 0 15, prefill := bit w 15, final := bit w 16, pos := s.le (b + 4) 4, nrows := s.le (b + 8) 4,
    rowBase := s.le (b + 12) 4, root := s.le (b + 16) 4, ctx := s.le (b + 20) 4, owner := s.le (b + 24) 1 }

/-- SEQS of the step table at a memory key. -/
def State.stSeqs (s : State) (a : Nat) : Nat := s.le (a + 8) 2

/-- Entries [e0, e1) of the step table. -/
def State.stEntries (s : State) (a e0 e1 : Nat) : List STEntry := (List.range (e1 - e0)).map (fun i => s.stEntry a (e0 + i))

end Sys2Proof.Machine
end

