-- ==== Sys2Proof/Machine/Flags.lean ====
section
/-!
DEFINITION. Flags and what raises them: page interrupts and MSI-X (R45, R386 to R388), event records and their rings
(R381 to R385, R396, R594 to R599), the token ring (R380), the tail shadow (R377), unit states (R42, R43), counters that wrap.
-/
namespace Sys2Proof

/-- Memory key of a request. -/
def TblReq.key (r : TblReq) : Nat := 2 ^ 48 + r.off

end Sys2Proof

namespace Sys2Proof.Machine

/-! ## MSI-X -/

/-- Where a function's MSI-X table stands: a VF's in its own window, the PF's in a window of its own (R388). -/
def msixBase : Option Nat → Nat
  | some p => winBase p
  | none => winBase 8

/-- Enabled virtual functions (R375). -/
def State.vfs (s : State) : Nat := s.get hifU Reg.hif.linkVfs

/-- A vector is masked in its function's table (R388). -/
def State.vectorMasked (s : State) (vf : Option Nat) (v : Nat) : Bool :=
  bit (s.word (msixBase vf + 0x8000 + 16 * v + 12)).toNat 0

/-- Sends a vector, or sets its pending bit while it is masked (R388). -/
def State.sendVector (s : State) (vf : Option Nat) (v : Nat) : State :=
  if s.vectorMasked vf v then
    let a := msixBase vf + 0xC000 + v / 32 * 4
    s.setWord a (s.word a ||| BitVec.ofNat 32 (2 ^ (v % 32)))
  else
    let k := counterKey hifU.page 9
    let s1 := s.emit (.msix vf v)
    { s1 with counts := Sparse.set (fun _ => 0) s1.counts k ((Sparse.get (fun _ => 0) s1.counts k + 1) % 2 ^ 64) }

/-- Sends a vector (R388). When the count of messages sent wraps, COUNTER_WRAP is set on the HIF page, whose own message is then the
first of the new count (R45, R639). -/
def State.msix (s : State) (vf : Option Nat) (v : Nat) : State :=
  let s1 := s.sendVector vf v
  if s.vectorMasked vf v || s1.live hifU 9 != 0 then s1
  else
    let old := s1.get hifU Reg.common.irqStatus
    let s2 := s1.put hifU Reg.common.irqStatus (old ||| 8)
    if bit old 3 || !bit (s1.get hifU Reg.common.irqEnable) 3 then s2 else s2.sendVector none 1

/-- A unit's page interrupt (R386). -/
def State.pageInterrupt (s : State) (u : UnitId) : State :=
  let s1 := s.msix none 1
  match s.partOfUnit u with
  | some p => if p < s.vfs then s1.msix (some p) 3 else s1
  | none => s1

/-- Token ring (0), event ring (1) or ring space (2) vector of partition p (R386). -/
def State.ringVector (s : State) (p which : Nat) : State :=
  if p < s.vfs then s.msix (some p) which else s.msix none (2 + 4 * p + which)

/-- Sets bits of IRQ_STATUS; a bit newly set and enabled raises the page's interrupt (R45). -/
def State.irq (s : State) (u : UnitId) (mask : Nat) : State :=
  let old := s.get u Reg.common.irqStatus
  let s1 := s.put u Reg.common.irqStatus (old ||| mask)
  if ((mask &&& s.get u Reg.common.irqEnable) ||| old) = old then s1 else s1.pageInterrupt u

/-- Adds to a live count, which wraps at 64 bits and then sets COUNTER_WRAP (R639). -/
def State.count (s : State) (u : UnitId) (k n : Nat) : State :=
  let v := s.live u k + n
  let s1 := { s with counts := Sparse.set (fun _ => 0) s.counts (counterKey u.page k) (v % 2 ^ 64) }
  if v < 2 ^ 64 then s1 else s1.irq u (2 ^ 3)

/-- POISON of a unit's page (R45): its lane consumed poisoned data, or it left marked output ranges behind. -/
def State.sawPoison (s : State) (u : UnitId) (st : Nat) (outs : List (Nat × Nat)) : State :=
  if st = 0x02 ∨ (poisoning st ∧ outs ≠ []) then s.irq u 4 else s

/-- A change of unit state; every change sets STATE_CHANGE (R43). -/
def State.setState (s : State) (u : UnitId) (st : Nat) : State :=
  if s.ustate u = st then s else (s.put u Reg.common.state st).irq u 1

/-- A unit that has drained enters QUIESCED, and RUNNING again when ENABLE was set meanwhile (R43, R44). -/
def State.quiesce (s : State) (u : UnitId) : State :=
  if s.ustate u ≠ stDraining then s
  else
    let s1 := (s.setState u stQuiesced).put u Reg.common.force 0
    if s1.flag u Reg.common.enablePending then (s1.put u Reg.common.enablePending 0).setState u stRunning else s1

/-! ## The tail shadow and the rings -/

/-- Writes partition p's tail shadow (R377). -/
def State.shadow (s : State) (p : Nat) : State :=
  let a := s.win p Reg.win.shadowAddr
  if a = 0 then s
  else s.emit (.hostWrite a
    (leBytes 4 (s.win p Reg.win.rq0Head) ++ leBytes 4 (s.win p Reg.win.rq1Head) ++ leBytes 4 (s.win p Reg.win.tokTail) ++
      leBytes 4 (s.win p Reg.win.evtTail) ++ leBytes 4 (s.win p Reg.win.statusRingFull + s.win p Reg.win.statusTokStall * 2 +
        s.win p Reg.win.statusEvtStall * 4 + s.win p Reg.win.statusDoorbellErr * 8 + s.win p Reg.win.statusFetchErr * 16 +
        s.win p Reg.win.statusCfgErr * 32 + s.win p Reg.win.statusRingsOn * 64) ++ List.replicate 44 0))

/-- Partition p's rings are enabled. -/
def State.ringsOn (s : State) (p : Nat) : Bool := s.win p Reg.win.ringsEnable != 0

/-- PHASE of a record at a free-running index (R382). -/
def phaseBit (index log2 : Nat) : Nat := if index / 2 ^ log2 % 2 = 0 then 1 else 0

/-- The bytes of an event record (R381). -/
def EvtRec.bytes (e : EvtRec) (ph : Nat) : List Byte :=
  leBytes 2 e.code ++ leBytes 1 (ph + (if e.part.isSome then 2 else 0)) ++ leBytes 1 (e.part.getD 0) ++ leBytes 4 e.seq ++
    leBytes 8 e.time ++ leBytes 8 e.v0 ++ leBytes 8 e.v1

/-- The bytes of a token record (R380). -/
def TokRec.bytes (t : TokRec) (ph : Nat) : List Byte :=
  leBytes 4 t.tag ++ leBytes 4 t.token ++ leBytes 4 t.logprob ++ leBytes 2 t.index ++
    leBytes 1 (ph + (if t.last then 2 else 0)) ++ leBytes 1 t.finish

/-- Space left in a ring of the window (R385). -/
def State.ringSpace (s : State) (p : Nat) (tail head log2 : Field) : Nat :=
  2 ^ s.win p log2 - (2 ^ 32 + s.win p tail - s.win p head) % 2 ^ 32

/-- Coalescing of one published record: raise now, or leave it unsignalled (R387). -/
def coalesce (unsig us cnt : Nat) : Bool := decide (us = 0) || decide (max 1 cnt ≤ unsig + 1)

/-- Writes waiting event records of partition p while the ring is enabled and has space (R385). -/
def State.drainEvents (s : State) (p : Nat) : List EvtRec → State
  | [] =>
    let s1 := s.setPart p (fun r => { r with evtWait := [] })
    if s.win p Reg.win.statusEvtStall = 0 then s1
    else ((s1.setWin p Reg.win.statusEvtStall 0).shadow p).ringVector p 2
  | e :: rest =>
    if s.ringsOn p && decide (0 < s.ringSpace p Reg.win.evtTail Reg.win.evtHead Reg.win.evtLog2) then
      let t := s.win p Reg.win.evtTail
      let n := s.win p Reg.win.evtLog2
      let s1 := s.emit (.hostWrite (s.win p Reg.win.evtBase + t % 2 ^ n * 32) (e.bytes (phaseBit t n)))
      let s2 := ((s1.setWin p Reg.win.evtTail (t + 1)).shadow p).count hifU 3 1
      let u := (s2.part p).evtUnsig
      let s3 := if coalesce u (s.win p Reg.win.evtCoalUs) (s.win p Reg.win.evtCoalCnt)
        then (s2.setPart p (fun r => { r with evtUnsig := 0 })).ringVector p 1
        else s2.setPart p (fun r => { r with evtUnsig := u + 1 })
      State.drainEvents s3 p rest
    else
      let s1 := s.setPart p (fun r => { r with evtWait := e :: rest })
      if s.ringsOn p && decide (s.win p Reg.win.statusEvtStall = 0)
        then (s1.setWin p Reg.win.statusEvtStall 1).shadow p else s1

/-- Writes waiting token records of partition p while the ring is enabled and has space (R385). -/
def State.drainTokens (s : State) (p : Nat) : List TokRec → State
  | [] =>
    let s1 := s.setPart p (fun r => { r with tokWait := [] })
    if s.win p Reg.win.statusTokStall = 0 then s1
    else ((s1.setWin p Reg.win.statusTokStall 0).shadow p).ringVector p 2
  | e :: rest =>
    if s.ringsOn p && decide (0 < s.ringSpace p Reg.win.tokTail Reg.win.tokHead Reg.win.tokLog2) then
      let t := s.win p Reg.win.tokTail
      let n := s.win p Reg.win.tokLog2
      let s1 := s.emit (.hostWrite (s.win p Reg.win.tokBase + t % 2 ^ n * 16) (e.bytes (phaseBit t n)))
      let s2 := ((s1.setWin p Reg.win.tokTail (t + 1)).shadow p).count hifU 2 1
      let u := (s2.part p).tokUnsig
      let s3 := if coalesce u (s.win p Reg.win.tokCoalUs) (s.win p Reg.win.tokCoalCnt)
        then (s2.setPart p (fun r => { r with tokUnsig := 0 })).ringVector p 0
        else s2.setPart p (fun r => { r with tokUnsig := u + 1 })
      State.drainTokens s3 p rest
    else
      let s1 := s.setPart p (fun r => { r with tokWait := e :: rest })
      if s.ringsOn p && decide (s.win p Reg.win.statusTokStall = 0)
        then (s1.setWin p Reg.win.statusTokStall 1).shadow p else s1

/-- The module event ring is enabled. -/
def State.mevtOn (s : State) : Bool := s.flag hifU Reg.hif.mevtEnable

/-- Writes waiting module event records (R396). -/
def State.drainModule (s : State) : List EvtRec → State
  | [] => { s with modWait := [] }
  | e :: rest =>
    let t := s.get hifU Reg.hif.mevtTail
    let n := s.get hifU Reg.hif.mevtLog2
    let used := (2 ^ 32 + t - s.get hifU Reg.hif.mevtHead) % 2 ^ 32
    if s.mevtOn && decide (used < 2 ^ n) then
      let s1 := s.emit (.hostWrite (s.get hifU Reg.hif.mevtBase + t % 2 ^ n * 32) (e.bytes (phaseBit t n)))
      let s2 := (s1.put hifU Reg.hif.mevtTail (t + 1)).count hifU 3 1
      let s3 := if coalesce s2.modUnsig (s.get hifU Reg.hif.mevtCoalUs) (s.get hifU Reg.hif.mevtCoalCnt)
        then { s2.msix none 0 with modUnsig := 0 }
        else { s2 with modUnsig := s2.modUnsig + 1 }
      State.drainModule s3 rest
    else { s with modWait := e :: rest }

/-- Records of classes 0x9 and 0xA are offered as platform events too: the 64 newest uncollected ones are held, and an in-band
interrupt tells of the first (R613). -/
def State.platformEvent (s : State) (e : EvtRec) : State :=
  if e.code / 4096 ≠ 9 ∧ e.code / 4096 ≠ 10 then s
  else
    let q := s.mgt.events ++ [e]
    let s1 : State := if s.mgt.events.isEmpty then s.emit (.sideband []) else s
    if q.length ≤ 64 then { s1 with mgt := { s1.mgt with events := q } }
    else ({ s1 with mgt := { s1.mgt with events := q.drop 1 } }).count mgtU 6 1

/-- Records that a module event ring write gathers: the discarded ones are told by one overflow event once space returns (R396). -/
def State.flushModule (s : State) : State :=
  let s1 := s.drainModule s.modWait
  if s1.modWait.isEmpty && decide (s1.modLost ≠ 0) then
    let e : EvtRec := ⟨0xA008, none, s1.modSeq, s1.now, s1.modLost, 0⟩
    let s2 := { s1 with modSeq := (s1.modSeq + 1) % 2 ^ 32, modLost := 0 }
    (s2.platformEvent e).drainModule [e]
  else s1

/-- In minimal mode only MINIMAL is written (R599). -/
def State.minimal (s : State) : Bool := s.get bootU Reg.boot.stateMode == 4

/-- One event record for partition p's ring (R382, R385). -/
def State.partEvent (s : State) (p code v0 v1 : Nat) : State :=
  if s.minimal then s
  else
    let r := s.part p
    let e : EvtRec := ⟨code, some p, r.evtSeq, s.now, v0 % 2 ^ 64, v1 % 2 ^ 64⟩
    let s1 := s.setPart p (fun r => { r with evtSeq := (r.evtSeq + 1) % 2 ^ 32 })
    s1.drainEvents p (r.evtWait ++ [e])

/-- One event record for the module event ring; beyond 1,024 waiting records it is discarded and counted (R396). -/
def State.modEvent (s : State) (code v0 v1 : Nat) : State :=
  if s.minimal && decide (code ≠ 0xA002) then s
  else
    let s1 := s.flushModule
    if s1.modWait.length < 1024 then
      let e : EvtRec := ⟨code, none, s1.modSeq, s1.now, v0 % 2 ^ 64, v1 % 2 ^ 64⟩
      (({ s1 with modSeq := (s1.modSeq + 1) % 2 ^ 32 } : State).platformEvent e).drainModule (s1.modWait ++ [e])
    else (({ s1 with modLost := s1.modLost + 1 }).count hifU 10 1).irq hifU (2 ^ 19)

/-- The newest event record that names a unit: ERR_LOG and the ERROR bit (R45). Every record that names a unit counts as an error record
here, PORT_UP, REMAP and RETIRED among them: the rule does not say which records are errors (DESIGN CHOICE, log entry 35). -/
def State.errLog (s : State) (u : UnitId) (seq code : Nat) : State :=
  let s1 := s.put u Reg.common.logSeq seq
  let s2 := s1.put u Reg.common.lastCode code
  let s3 := s2.put u Reg.common.errCount (sat 0xFFFF (s2.get u Reg.common.errCount + 1))
  s3.irq u 2

/-- An M record, optionally naming a unit. -/
def State.eventM (s : State) (u : Option UnitId) (code v0 v1 : Nat) : State :=
  let s0 := if s.minimal then s else s.flushModule
  let s1 := s0.modEvent code v0 v1
  match u with
  | some u => s1.errLog u s0.modSeq code
  | none => s1

/-- A P record of partition p, optionally naming a unit. -/
def State.eventP (s : State) (p : Nat) (u : Option UnitId) (code v0 v1 : Nat) : State :=
  let q := (s.part p).evtSeq
  let s1 := s.partEvent p code v0 v1
  match u with
  | some u => s1.errLog u q code
  | none => s1

/-- A P+M record: to the ring of each partition it concerns and to the module ring, whose copy ERR_LOG points to (R597). -/
def State.eventPM (s : State) (ps : List Nat) (u : Option UnitId) (code v0 v1 : Nat) : State :=
  (ps.foldl (fun t p => t.partEvent p code v0 v1) s).eventM u code v0 v1

/-! ## Payload formats (R595) -/

/-- Format C, first half: step, template, lane, lanes minus one. -/
def fmtC0 (step tmpl lane nM1 : Nat) : Nat := step % 2 ^ 32 + tmpl * 2 ^ 32 + lane * 2 ^ 48 + nM1 * 2 ^ 56
/-- Format C, second half: status, attempt, logical and physical unit, class, member. -/
def fmtC1 (status attempt logical phys eclass member : Nat) : Nat :=
  status + attempt * 2 ^ 8 + logical * 2 ^ 16 + phys * 2 ^ 32 + eclass * 2 ^ 48 + member * 2 ^ 56
/-- Format U, first half. -/
def fmtU (type phys logical st reason : Nat) : Nat :=
  type + phys * 2 ^ 16 + logical * 2 ^ 32 + st * 2 ^ 48 + reason * 2 ^ 56
/-- Format M, second half (the first is the DGA). -/
def fmtM (type phys count cause : Nat) : Nat := type + phys * 2 ^ 16 + sat 0xFFFF count * 2 ^ 32 + cause * 2 ^ 48
/-- Format L, first half. -/
def fmtL0 (port old new reason rxActive : Nat) : Nat :=
  port + old * 2 ^ 8 + new * 2 ^ 16 + reason * 2 ^ 24 + rxActive * 2 ^ 32
/-- Format L, second half. -/
def fmtL1 (peerNode peerPort txW rxW dur : Nat) : Nat :=
  peerNode + peerPort * 2 ^ 8 + txW * 2 ^ 16 + rxW * 2 ^ 24 + dur * 2 ^ 32
/-- Format N, first half (the second is the mask). -/
def fmtN (node old new group seq : Nat) : Nat := node + old * 2 ^ 8 + new * 2 ^ 16 + group * 2 ^ 24 + seq * 2 ^ 32

/-- The partitions that a record naming a unit concerns: the unit's own, and for a Table bank each that owns an assigned slice
with lines in the bank (R597). -/
def State.concerned (s : State) (u : UnitId) : List Nat :=
  if u.blk = .tbl then
    match s.logicalOf u with
    | none => []
    | some l => (List.range 8).filter (fun p => (List.range 32).any (fun sl => s.ownsSlice p sl &&
        (bit (s.get ⟨.tbl, 0⟩ Reg.tbl.mapBandMode) (sl % 16) || l / 512 == sl / 16)))
  else (s.partOfUnit u).toList

/-- A unit event in format U, to the unit's partition and the module ring. -/
def State.unitEvent (s : State) (u : UnitId) (code reason detail : Nat) : State :=
  let l := (s.logicalOf u).getD 0xFFFF
  let ps := s.concerned u
  s.eventPM ps (some u) code (fmtU (blkCode u.blk) u.ix l (s.ustate u) reason) detail

/-- An open coalescing window of MEMORY or UNROUTABLE records (R596). -/
def winMatch (page code : Nat) (w : CoalWin) : Bool := w.page == page && w.code == code

/-- A window that opens. -/
def newWin (page code now : Nat) (pm : Bool) : CoalWin := ⟨page, code, now, 0, 0, 0, pm⟩

/-- A MEMORY record about a line, coalesced by device and code to one a millisecond (R596). -/
def State.memEvent (s : State) (u : UnitId) (code dga cause : Nat) (pm : Bool) : State :=
  match s.coal.find? (winMatch u.page code) with
  | some _ =>
    { s with coal := s.coal.map (fun w =>
        if winMatch u.page code w then
          { w with count := w.count + 1, v0 := if w.count = 0 then dga else w.v0, cause := if w.count = 0 then cause else w.cause }
        else w) }
  | none =>
    let ps := if pm then (s.partOfKey (dgaKey dga)).toList else []
    let s1 := { s with coal := s.coal ++ [newWin u.page code s.now pm] }
    s1.eventPM ps (some u) code dga (fmtM (blkCode u.blk) u.ix 1 cause)

/-- Closes the coalescing windows that have been open for 1 ms (R596). -/
def State.closeWindows (s : State) : List CoalWin → State
  | [] => s
  | w :: r =>
    let s1 :=
      if s.now < w.openedAt + 1_000_000 then { s with coal := s.coal ++ [w] }
      else if w.count = 0 then s
      else
        let s2 := { s with coal := s.coal ++ [newWin w.page w.code s.now w.pm] }
        match unitOfPage w.page with
        | none => s2
        | some u =>
          if w.code = 0x7004 then s2.eventM (some u) w.code w.v0 w.count
          else
            let ps := if w.pm then (s.partOfKey (dgaKey w.v0)).toList else []
            s2.eventPM ps (some u) w.code w.v0 (fmtM (blkCode u.blk) u.ix w.count w.cause)
    State.closeWindows s1 r

/-- Sets the global timestamp and closes what has come due. -/
def State.setTime (s : State) (t : Nat) : State :=
  let s1 := s.put mgtU Reg.mgt.tsNow t
  State.closeWindows { s1 with coal := [] } s1.coal

/-- An ACCESS event: a dropped or ignored access (R31). V0: BAR0 offset, V1: access size. -/
def State.accessEvent (s : State) (off size : Nat) : State := s.eventM none 0xB001 off size

/-! ## Writes by commands (R499) -/

/-- What is sealed of partition p. -/
def State.secPart (s : State) (p : Nat) : SecPart := Sparse.get (fun _ => {}) s.sec p

/-- The state with partition p's sealed model changed. -/
def State.setSec (s : State) (p : Nat) (f : SecPart → SecPart) : State :=
  { s with sec := Sparse.set (fun _ => {}) s.sec p (f (s.secPart p)) }

/-- A line lies in a sealed range of some partition. -/
def State.sealedLine (s : State) (line : Nat) : Bool :=
  s.sec.any (fun e => e.2.ranges.any (fun r => decide (r.1 < line * 256 + 256) && decide (line * 256 < r.1 + r.2)))

/-- A refusal under R499: counted, told and logged. -/
def State.sealRefused (s : State) (line : Nat) : State :=
  let u := (s.holder line).getD ⟨.sec, 0⟩
  ((s.count ⟨.sec, 0⟩ 7 1).irq ⟨.sec, 0⟩ (2 ^ 19)).eventM (some u) 0x5002 (2 ^ 50 * s.get hifU Reg.hif.nodeId + line * 256)
    (fmtM (blkCode u.blk) u.ix 1 0)

/-- The LR reservations that a write ends: those on its 64-byte granules (R252). -/
def State.breakReservations (s : State) (a n : Nat) : State :=
  { s with resv := s.resv.filter (fun r => decide (r.granule * 64 + 64 ≤ a) || decide (a + n ≤ r.granule * 64)) }

/-! ## What the memories count as they are used (R242, R262, R265, R276, R283, R287, R290) -/

/-- Bank classes of the requesters (R254). -/
abbrev clsMt : Nat := 0
abbrev clsEng : Nat := 1
abbrev clsUc : Nat := 2
abbrev clsMove : Nat := 3
abbrev clsSys : Nat := 4
abbrev clsMaint : Nat := 5

/-- 64-byte beats that n bytes from key a touch. -/
def beatsOf (a n : Nat) : Nat := (a % 64 + n + 63) / 64

/-- The device line of a line of space 0, if it lies in a region (R270). -/
def State.devLine (s : State) (line : Nat) : Nat :=
  match s.partOfKey (line * 256) with
  | some p => (s.deviceOf p (line * 256)).2
  | none => 0

/-- First metadata line of a device (R265). -/
abbrev metaBase : Nat := 0xF8_0000

/-- Byte of a data line's tag in the metadata region, and byte and bit of its poison (R265). -/
def tagByte (j : Nat) : Nat := 8 * j
def poisonByte (j : Nat) : Nat := 0x7C0_0000 + j / 8
def poisonBit (j : Nat) : Nat := j % 8

/-- Device lines that hold a data line's tag and its poison bit. -/
def tagLineOf (j : Nat) : Nat := metaBase + tagByte j / 256
def bitmapLineOf (j : Nat) : Nat := metaBase + poisonByte j / 256

/-- The data lines whose tags or poison bits a metadata line holds: 32 of a tag line, 2,048 of a bitmap line, none of the rest. -/
def dataLinesOf (m : Nat) : List Nat :=
  if m < metaBase then []
  else
    let b := (m - metaBase) * 256
    if b < 0x7C0_0000 then (List.range 32).map (fun i => b / 8 + i)
    else if b < 0x7DF_0000 then (List.range 2048).map (fun i => (b - 0x7C0_0000) * 8 + i)
    else []

/-- A write-through cache takes a line in: a free place of its set, or the place of a victim that the hardware chooses. -/
def cacheFill (ways : Nat) (peer : Nat → Bool) (victim : Nat) (c : List Nat) (x : Nat) : List Nat :=
  if c.length < ways then x :: c
  else
    let set := c.filter peer
    if set.length < ways then x :: c else x :: c.erase (set.getD (victim % ways) 0)

/-- A metadata line is looked up in the cache of its device's die: 32,768 lines, 16 ways (R276). The spec gives neither the set of a line
nor the choice of the victim: both are free. -/
def State.metaLookup (s : State) (u : UnitId) (m : Nat) : State :=
  let x := 2 ^ 24 * u.ix + m
  if s.cache.lines.contains x then s.count u 6 1
  else
    let peer (y : Nat) : Bool := decide (y / 2 ^ 24 / 34 = u.ix / 34 ∧ Config.metaSet y % 2048 = Config.metaSet x % 2048)
    ({ s with cache := { s.cache with
        lines := cacheFill 16 peer (Config.victim s.cache.fills) s.cache.lines x, fills := s.cache.fills + 1 } }).count u 7 1

/-- An access to a line of a device uses its tag line and its bitmap line. -/
def State.metaPair (s : State) (u : UnitId) (line : Nat) : State :=
  (s.metaLookup u (tagLineOf (s.devLine line))).metaLookup u (bitmapLineOf (s.devLine line))

/-- Where a T2 offset lies at its port (R283): the port, the fabric address of its data line, of its block's tag line, and its slot there. -/
def State.fabricOf (s : State) (off : Nat) : Option (UnitId × Nat × Nat × Nat) :=
  match s.tierPortOf off with
  | none => none
  | some u =>
    let b := off / 8192
    let pb := if s.flag ⟨.tier, 0⟩ Reg.tier.modeInterleave then b / 2 else b
    let base := s.get u Reg.tier.fabBase + pb * 8448
    some (u, base + off % 8192, base + 8192, off % 8192 / 256)

/-- A T2 line's tag line is looked up in its port's tag cache of 2,048 lines (R284). -/
def State.tagLookup (s : State) (u : UnitId) (line : Nat) : State :=
  match s.fabricOf (line * 256 % 2 ^ 48) with
  | none => s
  | some (_, _, t, _) =>
    let x := 2 ^ 64 * u.ix + t
    if s.cache.tags.contains x then s.count u 2 1
    else
      ({ s with cache := { s.cache with
          tags := cacheFill 2048 (fun y => y / 2 ^ 64 == u.ix) (Config.victim s.cache.fills) s.cache.tags x
          fills := s.cache.fills + 1 } }).count u 3 1

/-- A tier port reports a poisoned completion to the page engine: the frame's SAW_POISON (R306, R331). -/
def State.reportPoison (s : State) (line : Nat) : State :=
  match s.partOfKey (line * 256) with
  | none => s
  | some p =>
    let f := 2 ^ 31 + line * 256 % 2 ^ 48 / 32768
    let e := Sparse.get (fun _ => {}) (s.pgePart p).frames f
    if e.sawPoison || e.st == .free then s
    else s.setPge p (fun g => { g with frames := Sparse.set (fun _ => {}) g.frames f { e with sawPoison := true } })

/-- The grant of a unit of class k at a bank, and its beats (R255, R262). -/
def State.tallyBank (s : State) (u : UnitId) (k reg beats : Nat) : State := (s.count u k 1).count u reg beats

/-- What a read of n bytes from key a of a line, by a requester of class k, counts. -/
def State.tallyRead (s : State) (k line a n : Nat) : State :=
  if s.lost line then s
  else
    match s.holder line with
    | none => s
    | some u =>
      match u.blk with
      | .tbl =>
        let s1 := s.tallyBank u k 6 (beatsOf a n)
        if s1.poisoned line then s1.count u 12 1 else s1
      | .mem => (s.count u 0 1).metaPair u line
      | _ =>
        let s1 := (s.count u 0 1).tagLookup u line
        if s1.poisoned line then s1.reportPoison line else s1

/-- What a write counts; a partial write of a protected line reads it too (R271). -/
def State.tallyWrite (s : State) (k line a n : Nat) : State :=
  match s.holder line with
  | none => s
  | some u =>
    let s1 : State := if u.blk = .tbl then s.tallyBank u k 7 (beatsOf a n) else s.count u 1 1
    let s2 : State :=
      if 256 ≤ n ∨ u.blk = .tbl then s1
      else
        let t := s1.count u 0 1
        if u.blk = .mem then t.count u 2 1 else t
    match u.blk with
    | .tbl => s2
    | .mem => s2.metaPair u line
    | _ => s2.tagLookup u line

/-- Units of class 5 at the banks that hold lines: a unit takes `per` lines, and writes `beats` beats of each (R254, R255, R262). -/
def State.tallyMaint (s : State) (ls : List Nat) (per beats : Nat) : State :=
  let hs := if s.anyServed .tbl then ls.filterMap s.holder else []
  hs.dedup.foldl (fun t u => (t.count u 5 ((hs.count u + per - 1) / per)).count u 7 (beats * hs.count u)) s

/-- A tag clear of whole lines of the Table (R251): their tag bits are reset, their data stays. A unit of it takes 16 lines of a bank, the
rate that the chapter gives for one cycle; the spec does not say how many units it is granted as (DESIGN CHOICE, log entry 166). -/
def State.tagClear (s : State) (a n : Nat) : State := (s.cleanRun a n).tallyMaint (linesOf a n) 16 0

/-- The banks zero whole lines of the Table and clear their tag bits (R246): reservations there end (R252). -/
def State.zeroTable (s : State) (a n : Nat) : State :=
  ((s.zeroRun a n).breakReservations a n).tallyMaint (linesOf a n) 1 4

/-! ## Held requests (R258, R259, R286, R289) -/

/-- A bank, device or port holds what comes to it: frozen, draining or quiesced, and a bank also once it has faulted. -/
def State.holds (s : State) (u : UnitId) : Bool :=
  s.frozen u || s.ustate u == stDraining || s.ustate u == stQuiesced || (u.blk == .tbl && s.ustate u == stFaulted)

/-- Some line of a list of ranges on this module is held, so that a command that reads or writes them waits. -/
def State.heldIn (s : State) (rs : List (Nat × Nat)) : Bool :=
  rs.any (fun r => decide (bits r.1 50 8 = s.get hifU Reg.hif.nodeId) &&
    (linesOf (bits r.1 0 50) r.2).any (fun l => (s.holder l).any s.holds))

/-! ## Damage: what the protection of the memories finds (R250, R271, R273, R274, R284) -/

/-- An armed injection is taken. -/
def State.disarm (s : State) (u : UnitId) (k : Nat) : State :=
  { s with hurt := { s.hurt with armed := s.hurt.armed.filter (fun a => !(a.1 == u && a.2 == k)) } }

/-- A kind of injection is armed at a unit. -/
def State.isArmed (s : State) (u : UnitId) (k : Nat) : Bool := s.hurt.armed.contains (u, k)

/-- An error occurrence of a kind on a unit (R603): 1 lanes, 3 corrected errors of an engine, 5 corrected Table errors, 6 bursts
with attempts exhausted, 7 on-die corrections, 1000 + row uncorrectable Table errors. -/
def State.note (s : State) (u : UnitId) (kind n : Nat) : State :=
  s.setUnit u (fun x => { x with errs := x.errs ++ List.replicate n (kind, s.now) })

/-- The DGA of a line on this node. -/
def State.lineDga (s : State) (line : Nat) : Nat := 2 ^ 50 * s.get hifU Reg.hif.nodeId + line * 256

/-- The memory-key slot of a line: its partition (R272). -/
def State.keySlot (s : State) (line : Nat) : Nat := (s.partOfKey (line * 256)).getD 0

/-- The tag of a line of space 0 or 2 does not fit (R273, R284, R495). -/
def State.tagBad (s : State) (line : Nat) : Bool :=
  s.hurt.tags.contains line ||
    (!s.hurt.stale.isEmpty && decide (line * 256 / 2 ^ 48 ≠ 1) &&
      (match s.partOfKey (line * 256) with
      | none => false
      | some p => s.hurt.stale.any (fun x => x.1 == p + (if line * 256 / 2 ^ 48 = 2 then 8 else 0) && !x.2.contains line &&
        !(s.deviceOfLine line).any (fun d => x.2.contains (2 ^ 60 + d / 4) || x.2.contains (2 ^ 61 + d)))))

/-- A line is written with a fresh tag. -/
def State.retag (s : State) (line : Nat) : State :=
  { s with hurt := { s.hurt with
      tags := s.hurt.tags.filter (fun l => l != line)
      stale := match s.partOfKey (line * 256) with
        | none => s.hurt.stale
        | some p => s.hurt.stale.map (fun (x : Nat × List Nat) =>
            if x.1 = p + (if line * 256 / 2 ^ 48 = 2 then 8 else 0) then (x.1, Keys.add x.2 line) else x) } }

/-- ERR.LAST_LINE takes the device line of a line (R286). -/
def State.lastLine (s : State) (u : UnitId) (line : Nat) : State := s.put u Reg.mem.errLastLine (s.devLine line)

/-- A line whose tag fails twice: an integrity failure; the line is poisoned and its tag rewritten (R274 step 3, R284). -/
def State.integrity (s : State) (u : UnitId) (line : Nat) : State :=
  let s1 := (s.poisonLine line).retag line
  let d := s.lineDga line
  let s2 := if u.blk = .mem then (((s1.count u 3 1).count u 5 1).irq u (2 ^ 16 + 2 ^ 17)).lastLine u line
    else (s1.count u 4 1).irq u (2 ^ 17)
  (s2.memEvent u 0x4001 d 1 true).eventPM (s.partOfKey (line * 256)).toList (some u) 0x5001 d
    (fmtM (blkCode u.blk) u.ix 1 (s.keySlot line))

/-- A burst of a device has used up its attempts: the line is poisoned and its tag rewritten with P = 1 (R274 step 2; cause 1 read, 2
write). For a write the rule names the poison bit alone; the tag is rewritten with it here as well, since a bit without its tag would be
an integrity failure (log entry 152). -/
def State.exhausted (s : State) (u : UnitId) (line cause : Nat) : State :=
  let s1 := ((s.poisonLine line).retag line).lastLine u line
  ((s1.count u 4 1).note u 6 1).memEvent u 0x4001 (s.lineDga line) cause true

/-- Attempts that a burst makes (R274, R286). -/
def State.attempts (s : State) (u : UnitId) : Nat :=
  let n := s.get u Reg.mem.retryAttempts
  if 1 ≤ n ∧ n ≤ 4 then n else 4

/-- An uncorrectable error in beats of a Table line: the line is poisoned and logged (R250). -/
def State.tableUe (s : State) (u : UnitId) (line beat : Nat) : State :=
  let row := (s.bankOf (line * 256 % 2 ^ 48)).2
  let s1 := ((s.poisonLine line).put u Reg.tbl.errLastRow row).put u Reg.tbl.errLastBeat beat
  ((((s1.count u 11 1).irq u (2 ^ 17)).note u (1000 + row) 1)).memEvent u 0x4002 (s.lineDga line) 0 true

/-- Damage that injections laid on quarters of a line is in its place. -/
def HurtRec.laid (h : HurtRec) (line : Nat) (inj : List (Nat × Nat)) : HurtRec :=
  let of' (k : Nat) : List Nat := (inj.filter (fun x => x.1 == k)).map (fun x => line * 4 + x.2)
  { h with ce := h.ce ++ of' 0, ue := h.ue ++ of' 1, tags := h.tags ++ (if inj.any (fun x => x.1 == 3) then [line] else []) }

/-- Another access to the line, or another access at port H, ends a run of host writes: they stay four writes, not one (R602). -/
def State.endRun (s : State) : State :=
  match s.merge with
  | none => s
  | some r => { s with merge := none, hurt := s.hurt.laid r.line r.inj }

/-- The same, when the run is of this line. -/
def State.breakRun (s : State) (line : Nat) : State :=
  match s.merge with
  | some r => if r.line = line then s.endRun else s
  | none => s

/-- The write of n bytes from key a in a line is a quarter of the host's run, or the run's full line. -/
def State.inRun (s : State) (line a n : Nat) : Bool :=
  match s.merge with
  | some r => r.line == line && (if r.beats.length = 4 then n == 256 else
      n == 64 && r.beats.any (fun x => decide (line * 256 + x.1 * 64 = a)) && !r.done.any (fun x => decide (line * 256 + x * 64 = a)))
  | none => false

/-- Repeated attempts are counted and told (R274, R287, R288). -/
def State.retried (s : State) (u : UnitId) (n : Nat) : State := if n = 0 then s else (s.count u 3 n).irq u (2 ^ 16)

/-- A read of n bytes from key a of a line meets what damages it: correctable errors of the Table beats it reads are corrected and
written back, uncorrectable ones poison the line each time they are read (log entry 99); an EDC error is retried, and a wrong tag fails.
True when the error ends the reader DATA_ERROR (R166, R250, R274). -/
def State.meet (s0 : State) (line a n : Nat) : State × Bool :=
  let s := s0.breakRun line
  match s.holder line with
  | none => (s, false)
  | some u =>
    match u.blk with
    | .tbl =>
      let here (b : Nat) : Bool := decide (b / 4 = line ∧ a % 256 / 64 ≤ b % 4 ∧ b % 4 * 64 < a % 256 + n)
      let ces := s.hurt.ce.filter here
      let ues := s.hurt.ue.filter here
      let s1 := if ces.isEmpty then s
        else ((({ s with hurt := { s.hurt with ce := s.hurt.ce.filter (fun b => !here b) } }).count u 10 ces.length).irq u
          (2 ^ 16)).note u 5 ces.length
      (ues.foldl (fun t b => t.tableUe u line (b % 4)) s1, !ues.isEmpty)
    | .mem =>
      let edc := s.isArmed u 2
      let s1 := if edc then s.disarm u 2 else s
      if s.faulted u || (edc && s.attempts u == 1) then ((s1.retried u (s.attempts u - 1)).exhausted u line 1, true)
      else
        let s2 := if edc then s1.retried u 1 else s1
        if s.tagBad line then (s2.integrity u line, true) else (s2, false)
    | _ => if s.tagBad line then (s.integrity u line, true) else (s, false)

/-- A read by a requester of class k of n bytes from key a of a line: what it meets, and what it counts. -/
def State.readLine (s : State) (k line a n : Nat) : State × Bool :=
  let m := s.meet line a n
  (m.1.tallyRead k line a n, m.2)

/-- The part of a run of n bytes from key a that lies in a line: its key and bytes. -/
def within (line a n : Nat) : Nat × Nat := (max a (line * 256), min (a + n) (line * 256 + 256) - max a (line * 256))

/-- A requester of class k reads every line of ranges on this module, and meets what damages them. -/
def State.readAll (s : State) (k : Nat) (ins : List (Nat × Nat)) : State × Bool :=
  ins.foldl (fun (r : State × Bool) i =>
    if bits i.1 50 8 ≠ s.get hifU Reg.hif.nodeId then r
    else (linesOf (bits i.1 0 50) i.2).foldl (fun (r : State × Bool) l =>
      let w := within l (bits i.1 0 50) i.2
      let m := r.1.readLine k l w.1 w.2
      (m.1, r.2 || m.2)) r) (s, false)

/-- A write of n bytes from key a, within one line, meets the damage there: beats written whole are whole again, a partial write
of a protected line reads it first, and an armed injection spoils what is written (R250, R261, R271, R286, R289). What an injection
lays on a quarter of a host's run stays with the line that the run becomes (R602). -/
def State.spoil (s : State) (line a n : Nat) : State :=
  let run := s.inRun line a n
  let beat := (a - line * 256) / 64
  let inj : List (Nat × Nat) := match run, s.merge with
    | true, some r => if n = 256 then r.inj else []
    | _, _ => []
  let lay (t : State) (x : List (Nat × Nat)) : State :=
    if run && n != 256 then
      { t with merge := t.merge.map (fun (r : HostRun) => { r with done := r.done ++ [beat], inj := r.inj ++ x }) }
    else
      let t1 : State := if run then { t with merge := none } else t
      if x = [] then t1 else { t1 with hurt := t1.hurt.laid line x }
  if s.hurt = {} then lay s inj
  else
    match s.holder line with
    | none => s
    | some u =>
      if u.blk = .tbl then
        let beats := (List.range 4).filter (fun b => decide (a ≤ line * 256 + b * 64) && decide (line * 256 + b * 64 + 64 ≤ a + n))
        let whole (k : Nat) : Bool := decide (k / 4 = line) && beats.contains (k % 4)
        let h := s.hurt
        lay { s with hurt := { h with
            armed := h.armed.filter (fun x => !(x.1 == u && x.2 < 2))
            ce := h.ce.filter (fun k => !whole k)
            ue := h.ue.filter (fun k => !whole k) } }
          (inj ++ (if s.isArmed u 0 then [(0, beat)] else []) ++ (if s.isArmed u 1 then [(1, beat)] else []))
      else
        let s1 := if n < 256 && !run then (s.meet line (line * 256) 256).1 else s
        let s2 := s1.retag line
        if s.isArmed u 3 then lay (s2.disarm u 3) (inj ++ [(3, beat)]) else lay s2 inj

/-- A line stands on a device that has faulted and is not replaced yet: no attempt there succeeds. -/
def State.deviceFaulted (s : State) (line : Nat) : Bool := (s.holder line).any (fun u => u.blk == .mem && s.faulted u)

/-- Some write to ranges on this module uses up its attempts, so that its lane ends DATA_ERROR (R274). -/
def State.writesFail (s : State) (outs : List (Nat × Nat)) : Bool :=
  outs.any (fun r => decide (bits r.1 50 8 = s.get hifU Reg.hif.nodeId) && decide (dgaSpace r.1 = 0) &&
    (linesOf (bits r.1 0 50) r.2).any s.deviceFaulted)

/-- A write of n bytes within a line that nothing drops: it ends the LR reservations of its granules, and one to a faulted device uses up
its attempts (R274). A write of a line from elsewhere ends the host's run there. -/
def State.landLine (t : State) (l lo : Nat) (d : List Byte) (pois : Bool) : State :=
  if t.deviceFaulted l then
    match t.holder l with
    | some u => (t.retried u (t.attempts u - 1)).exhausted u l 2
    | none => t
  else
    let t0 := if t.inRun l lo d.length then t else t.breakRun l
    ((t0.spoil l lo d.length).write lo d pois).breakReservations lo d.length

/-- A write by anyone but an import: a line of a sealed range is dropped and logged (R499), and a write to a lost line is dropped
(R260, R278). -/
def State.putLine (t : State) (l lo : Nat) (d : List Byte) (pois : Bool) : State :=
  if t.lost l then t else if t.sealedLine l then t.sealRefused l else t.landLine l lo d pois

/-- A write, one line at a time, by a requester that has counted it already: a unit of a bank, a request at a controller or port. -/
def State.putMem (s : State) (a : Nat) (d : List Byte) (pois : Bool) : State :=
  (linesOf a d.length).foldl (fun t l =>
    let w := within l a d.length
    t.putLine l w.1 ((d.drop (w.1 - a)).take w.2) pois) s

/-- A write by a requester of class k (R254), one line at a time. -/
def State.writeMem (s : State) (k a : Nat) (d : List Byte) (pois : Bool) : State :=
  (linesOf a d.length).foldl (fun t l =>
    let w := within l a d.length
    let t1 := if t.lost l || t.sealedLine l then t else t.tallyWrite k l w.1 w.2
    t1.putLine l w.1 ((d.drop (w.1 - a)).take w.2) pois) s

/-- Zeros over whole lines of local memory, written under the current keys (R269, R500): each line is counted and gets its tag. -/
def State.zeroLocal (s : State) (a n : Nat) : State :=
  (linesOf a n).foldl (fun t l => (t.tallyWrite clsSys l (l * 256) 256).retag l) (s.zeroRun a n)

/-! ## Requests at banks and controllers (R248, R260, R278) -/

/-- A bank's arbiter. -/
def State.bank (s : State) (u : UnitId) : TblRec := Sparse.get (fun _ => {}) s.tbl u.page

/-- The state with a bank's arbiter changed. -/
def State.setBank (s : State) (u : UnitId) (r : TblRec) : State := { s with tbl := Sparse.set (fun _ => {}) s.tbl u.page r }

/-- Answers a requester: a poison mark and bytes. -/
def State.tblAnswer (s : State) (pois : Bool) (d : List Byte) : State :=
  s.respond ((if pois then 1 else 0) :: d.map BitVec.toNat)

/-- What a request that is dropped or lost gets: a read returns zeros marked poisoned (R248, R260). -/
def State.answerLost (s : State) (r : TblReq) : State := s.tblAnswer true (if r.op = 1 then [] else List.replicate r.len 0)

/-- The bytes of a write over what stood there: the bytes that the write leaves as they are, one bit each, keep the old. -/
def mergeKeep (keep : Nat) (old new : List Byte) : List Byte :=
  if keep = 0 then new else (List.range new.length).map (fun i => if bit keep i then old.getD i 0 else new.getD i 0)

/-- What waits at a bank or controller whose number has become VACANT is answered as lost, in order (R260, R278). -/
def State.answerWaiting (s : State) (u : UnitId) : State :=
  let keepResp (t : State) (f : State → State) : State :=
    let a := t.resp
    let t1 := f t
    { t1 with resp := a ++ t1.resp }
  let rs := if u.blk = .tbl then (s.bank u).moving.toList ++ (s.bank u).waiting else []
  let ms := s.memWait.filter (fun w => w.1 / 512 == u.page)
  let s0 : State := if rs.isEmpty then s else s.setBank u { arb := (s.bank u).arb }
  let s1 : State := if ms.isEmpty then s0 else { s0 with memWait := s0.memWait.filter (fun w => w.1 / 512 != u.page) }
  let s2 := rs.foldl (fun t r => keepResp t (fun x => x.answerLost r)) s1
  ms.foldl (fun t w => keepResp t (fun x =>
    if w.2.write.isSome then x.respond [0] else x.tblAnswer true (List.replicate (w.1 % 512) 0))) s2

end Sys2Proof.Machine
end

