-- ==== Sys2Proof/Machine/Hash.lean ====
section
/-!
DEFINITION. The digests that the spec names: SHA-512 (R97, R321, R489, R546) as FIPS 180-4 defines it, and CRC-32C as the
fabric and the collectives use it. Both algorithms are public standards that the spec cites (log entry 8).
-/
namespace Sys2Proof

/-- A 64-bit word of SHA-512. -/
abbrev W64 := BitVec 64

/-- The round constants, in four parts. -/
def shaK0 : List W64 :=
  [0x428A2F98D728AE22, 0x7137449123EF65CD, 0xB5C0FBCFEC4D3B2F, 0xE9B5DBA58189DBBC,
   0x3956C25BF348B538, 0x59F111F1B605D019, 0x923F82A4AF194F9B, 0xAB1C5ED5DA6D8118,
   0xD807AA98A3030242, 0x12835B0145706FBE, 0x243185BE4EE4B28C, 0x550C7DC3D5FFB4E2,
   0x72BE5D74F27B896F, 0x80DEB1FE3B1696B1, 0x9BDC06A725C71235, 0xC19BF174CF692694,
   0xE49B69C19EF14AD2, 0xEFBE4786384F25E3, 0x0FC19DC68B8CD5B5, 0x240CA1CC77AC9C65]
def shaK1 : List W64 :=
  [0x2DE92C6F592B0275, 0x4A7484AA6EA6E483, 0x5CB0A9DCBD41FBD4, 0x76F988DA831153B5,
   0x983E5152EE66DFAB, 0xA831C66D2DB43210, 0xB00327C898FB213F, 0xBF597FC7BEEF0EE4,
   0xC6E00BF33DA88FC2, 0xD5A79147930AA725, 0x06CA6351E003826F, 0x142929670A0E6E70,
   0x27B70A8546D22FFC, 0x2E1B21385C26C926, 0x4D2C6DFC5AC42AED, 0x53380D139D95B3DF,
   0x650A73548BAF63DE, 0x766A0ABB3C77B2A8, 0x81C2C92E47EDAEE6, 0x92722C851482353B]
def shaK2 : List W64 :=
  [0xA2BFE8A14CF10364, 0xA81A664BBC423001, 0xC24B8B70D0F89791, 0xC76C51A30654BE30,
   0xD192E819D6EF5218, 0xD69906245565A910, 0xF40E35855771202A, 0x106AA07032BBD1B8,
   0x19A4C116B8D2D0C8, 0x1E376C085141AB53, 0x2748774CDF8EEB99, 0x34B0BCB5E19B48A8,
   0x391C0CB3C5C95A63, 0x4ED8AA4AE3418ACB, 0x5B9CCA4F7763E373, 0x682E6FF3D6B2B8A3,
   0x748F82EE5DEFB2FC, 0x78A5636F43172F60, 0x84C87814A1F0AB72, 0x8CC702081A6439EC]
def shaK3 : List W64 :=
  [0x90BEFFFA23631E28, 0xA4506CEBDE82BDE9, 0xBEF9A3F7B2C67915, 0xC67178F2E372532B,
   0xCA273ECEEA26619C, 0xD186B8C721C0C207, 0xEADA7DD6CDE0EB1E, 0xF57D4F7FEE6ED178,
   0x06F067AA72176FBA, 0x0A637DC5A2C898A6, 0x113F9804BEF90DAE, 0x1B710B35131C471B,
   0x28DB77F523047D84, 0x32CAAB7B40C72493, 0x3C9EBE0A15C9BEBC, 0x431D67C49C100D4C,
   0x4CC5D4BECB3E42B6, 0x597F299CFC657E2A, 0x5FCB6FAB3AD6FAEC, 0x6C44198C4A475817]
def shaK : List W64 := shaK0 ++ shaK1 ++ shaK2 ++ shaK3

/-- The initial hash value. -/
def shaInit : List W64 :=
  [0x6A09E667F3BCC908, 0xBB67AE8584CAA73B, 0x3C6EF372FE94F82B, 0xA54FF53A5F1D36F1,
   0x510E527FADE682D1, 0x9B05688C2B3E6C1F, 0x1F83D9ABFB41BD6B, 0x5BE0CD19137E2179]

/-- Σ and σ functions. -/
def shaRot (a b c : Nat) (x : W64) : W64 := x.rotateRight a ^^^ x.rotateRight b ^^^ x.rotateRight c
def shaMix (a b c : Nat) (x : W64) : W64 := x.rotateRight a ^^^ x.rotateRight b ^^^ (x >>> c)

/-- A 64-bit big-endian word from eight bytes. -/
def beWord (l : List Byte) : W64 := BitVec.ofNat 64 (leNat (l.take 8).reverse)

/-- The message schedule, newest word first, extended by n words. -/
def shaExtend : Nat → List W64 → List W64
  | 0, w => w
  | n + 1, w =>
    shaExtend n ((shaMix 19 61 6 (w.getD 1 0) + w.getD 6 0 + shaMix 1 8 7 (w.getD 14 0) + w.getD 15 0) :: w)

/-- The words of one 128-byte block. -/
def shaWords (b : List Byte) : Nat → List W64
  | 0 => []
  | n + 1 => beWord b :: shaWords (b.drop 8) n

/-- One round over the eight working variables. -/
def shaRound (v : List W64) (kw : W64 × W64) : List W64 :=
  match v with
  | [a, b, c, d, e, f, g, h] =>
    let t1 := h + shaRot 14 18 41 e + ((e &&& f) ^^^ (~~~e &&& g)) + kw.1 + kw.2
    let t2 := shaRot 28 34 39 a + ((a &&& b) ^^^ (a &&& c) ^^^ (b &&& c))
    [t1 + t2, a, b, c, d + t1, e, f, g]
  | _ => v

/-- One block into the hash value. -/
def shaBlock (h : List W64) (b : List Byte) : List W64 :=
  let w := (shaExtend 64 (shaWords b 16).reverse).reverse
  List.zipWith (· + ·) h ((shaK.zip w).foldl shaRound h)

/-- The blocks of a padded message. -/
def shaBlocks : Nat → List W64 → List Byte → List W64
  | 0, h, _ => h
  | n + 1, h, m => shaBlocks n (shaBlock h m) (m.drop 128)

/-- SHA-512 of a message: 64 bytes. -/
def sha512 (m : List Byte) : List Byte :=
  let pad := (239 - m.length % 128) % 128
  let p := m ++ 0x80 :: List.replicate pad 0 ++ (leBytes 16 (8 * m.length)).reverse
  (shaBlocks (p.length / 128) shaInit p).flatMap (fun w => (leBytes 8 w.toNat).reverse)

/-- One bit step of CRC-32C, reflected, polynomial 0x1EDC6F41. -/
def crcStep : Nat → BitVec 32 → BitVec 32
  | 0, c => c
  | n + 1, c => crcStep n (if c.getLsbD 0 then (c >>> 1) ^^^ 0x82F63B78 else c >>> 1)

/-- CRC-32C of a byte string. -/
def crc32c (m : List Byte) : BitVec 32 :=
  ~~~(m.foldl (fun c b => crcStep 8 (c ^^^ b.setWidth 32)) 0xFFFF_FFFF)

end Sys2Proof
end

