-- ==== Sys2Proof/Machine/Paging.lean ====
section
/-!
DEFINITION. The page engines (chapter 12): frames, free lists, page tables, reservation and allocation, commit and
retirement, sharing, migration, faults, and the commands of the PGE class. The page tables, the frame table and the prefix
index are plain data: no host software and no plan command touches their bytes.
-/
namespace Sys2Proof.Machine

/-- Page engine that serves partition p as its home; the other one while the home is out of service (R310, R333). -/
def State.homePge (s : State) (p : Nat) : UnitId :=
  let h := s.get ⟨.pge, 0⟩ (Reg.pge.partHome.at p)
  if s.ustate ⟨.pge, h⟩ = stRunning ∨ s.ustate ⟨.pge, 1 - h⟩ ≠ stRunning then ⟨.pge, h⟩ else ⟨.pge, 1 - h⟩

/-- LH of partition p (R307). -/
def State.lh (s : State) (p : Nat) : Nat := s.get ⟨.pge, 0⟩ (Reg.pge.partLh.at p)

/-- Tier of a frame number (R304). -/
def frameTier (f : Nat) : Nat := f / 2 ^ 30
/-- Index of a frame number. -/
def frameIx (f : Nat) : Nat := f % 2 ^ 30
/-- Memory key of a frame (R304): tier 0 is the Table, 1 local memory, 2 the tier window. -/
def frameKey (f : Nat) : Nat :=
  key (match frameTier f with | 0 => 1 | 1 => 0 | _ => 2) (frameIx f * 32768)

/-! ## Side records (R305) -/

/-- Bytes rounded up to whole frames. -/
def wholeFrames (n : Nat) : Nat := (n + 32767) / 32768 * 32768

/-- Frames of the tier window of partition p, and those of its reserve (R305). -/
def State.t2Frames (s : State) (p : Nat) : Nat := s.get ⟨.tier, 0⟩ (Reg.tier.winSizeGib.at p) * 32768
def State.t2Reserve (s : State) (p : Nat) : Nat :=
  let w := s.t2Frames p
  let fits (r : Nat) : Bool :=
    decide (2 * wholeFrames (16 * (w - r)) + wholeFrames (512 * (w - r)) ≤ r * 32768)
  let r0 := w * 544 / 33312
  if w = 0 then 0 else ((List.range 8).map (fun i => r0 + i)).find? fits |>.getD (r0 + 8)

/-- First T2 frame index of partition p's data. -/
def State.t2First (s : State) (p : Nat) : Nat :=
  s.get ⟨.tier, 0⟩ (Reg.tier.winBaseGib.at p) * 32768 + s.t2Reserve p

/-- Memory keys of the arrays that hold the side records of a tier: frame table, summary slots, scale records; and the first index of the
tier's range. -/
structure Arrays where
  table : Nat
  sums : Nat
  scales : Nat
  first : Nat
  deriving DecidableEq, Repr

/-- The start of the T1 reserve, and T1_FRAMES. -/
def State.t1End (s : State) (p : Nat) : Nat × Nat :=
  let n := s.get ⟨.pge, 0⟩ (Reg.pge.partT1Frames.at p)
  (key 0 ((s.get ⟨.pge, 0⟩ (Reg.pge.partT1Base.at p) + n) * 32768), n)

/-- The side arrays of a tier of partition p, in the order of R305. -/
def State.arrays (s : State) (p t : Nat) : Arrays :=
  let r := s.t1End p
  let t0 := wholeFrames (16384 * 16)
  let ft := wholeFrames (r.2 * 16)
  let s0 := wholeFrames (16384 * 512)
  let sums := r.1 + t0 + ft
  let scales := sums + s0 + wholeFrames (r.2 * 512)
  match t with
  | 0 => ⟨r.1, sums, scales, 0⟩
  | 1 => ⟨r.1 + t0, sums + s0, scales + t0, s.get ⟨.pge, 0⟩ (Reg.pge.partT1Base.at p)⟩
  | _ =>
    let w := s.t2Frames p - s.t2Reserve p
    let b := key 2 (2 ^ 30 * s.get ⟨.tier, 0⟩ (Reg.tier.winBaseGib.at p))
    ⟨b, b + wholeFrames (16 * w), b + wholeFrames (16 * w) + wholeFrames (512 * w), s.t2First p⟩

/-- Memory keys of the summary slot and the scale record of a frame of partition p (R305, R136). -/
def State.sideRecords (s : State) (p f : Nat) : Nat × Nat :=
  let a := s.arrays p (frameTier f)
  (a.sums + (frameIx f - a.first) * 512, a.scales + (frameIx f - a.first) * 16)

/-- Memory key of a frame's entry in the frame table (R305). -/
def State.tableEntryAt (s : State) (p f : Nat) : Nat :=
  let a := s.arrays p (frameTier f)
  a.table + (frameIx f - a.first) * 16

/-- Memory key of partition p's prefix index: after the scale records of T1 (R305). -/
def State.pfxBase (s : State) (p : Nat) : Nat := (s.arrays p 1).scales + wholeFrames ((s.t1End p).2 * 16)

/-! ## How the records stand in memory (R306, R309, R322) -/

/-- The code of a frame's state. -/
def FrameState.code : FrameState → Nat
  | .free => 0 | .pending => 1 | .inUse => 2 | .migSrc => 3 | .migDst => 4 | .table => 5 | .forward => 6 | .quarantine => 7

/-- A frame-table entry of partition p. -/
def FrameEnt.bytes (p : Nat) (e : FrameEnt) : List Byte :=
  leBytes 16 (e.refs % 2 ^ 16 + e.st.code * 2 ^ 16 + (if e.indexed then 2 ^ 19 else 0) + (if e.sawPoison then 2 ^ 20 else 0) +
    e.lastStep % 2 ^ 32 * 2 ^ 32 + e.owner % 2 ^ 15 * 2 ^ 64 + p % 8 * 2 ^ 79 + e.vpn % 2 ^ 32 * 2 ^ 96)

/-- A page-table entry of kind PAGE. -/
def PageEnt.word (e : PageEnt) : Nat :=
  e.frame % 2 ^ 32 + 2 * 2 ^ 35 + (if e.pending then 2 ^ 37 else 0) + (if e.shared then 2 ^ 38 else 0) + (if e.mig then 2 ^ 39 else 0)

/-- An entry of the prefix index. -/
def PfxEnt.bytes (e : PfxEnt) : List Byte :=
  leBytes 8 e.hash ++ leBytes 4 e.listFrame ++ leBytes 2 e.listOff ++ leBytes 1 1 ++ leBytes 1 0 ++ leBytes 4 e.block ++
    leBytes 4 e.hits ++ leBytes 8 e.lastStep

/-- A block list. -/
def PfxEnt.listBytes (e : PfxEnt) : List Byte :=
  e.frames.flatMap (leBytes 4) ++ List.replicate ((64 - 4 * e.frames.length % 64) % 64) 0

/-- Sets of partition p's prefix index. -/
def State.pfxSets (s : State) (p : Nat) : Nat := s.get ⟨.pge, 0⟩ (Reg.pge.partPfxEntries.at p) / 8

/-- Memory key of an entry of the prefix index. -/
def State.pfxAt (s : State) (p : Nat) (e : PfxEnt) : Nat := s.pfxBase p + e.hash % s.pfxSets p * 256 + e.way * 32

/-! ## Free lists (R311, R312) -/

/-- Frames in a free list. -/
def FreeList.count (l : FreeList) : Nat := l.stack.length + l.ranges.foldl (fun a r => a + (r.2 - r.1)) 0

/-- Pops one frame index. -/
def FreeList.pop (l : FreeList) : Option (Nat × FreeList) :=
  match l.stack with
  | f :: r => some (f, { l with stack := r })
  | [] =>
    match l.ranges with
    | [] => none
    | (a, b) :: r => if a < b then some (a, { l with ranges := if a + 1 < b then (a + 1, b) :: r else r }) else none

/-- Pushes one frame index. -/
def FreeList.push (l : FreeList) (f : Nat) : FreeList := { l with stack := f :: l.stack }

/-- The free list of a tier. -/
def PgePart.freeList (g : PgePart) : Nat → FreeList
  | 0 => g.free0
  | 1 => g.free1
  | _ => g.free2

/-- The record with the free list of a tier replaced. -/
def PgePart.setFree (g : PgePart) (t : Nat) (l : FreeList) : PgePart :=
  match t with
  | 0 => { g with free0 := l }
  | 1 => { g with free1 := l }
  | _ => { g with free2 := l }

/-- Free frames of partition p in all tiers, less the step's reservation (R313). -/
def PgePart.freeAll (g : PgePart) : Nat := g.free0.count + g.free1.count + g.free2.count - g.resv

/-- The frame-table entry of a frame. -/
def PgePart.frame (g : PgePart) (f : Nat) : FrameEnt := Sparse.get (fun _ => {}) g.frames f

/-- The record with one frame-table entry changed. -/
def PgePart.setFrame (g : PgePart) (f : Nat) (e : FrameEnt) : PgePart :=
  { g with frames := Sparse.set (fun _ => {}) g.frames f e }

/-- The tier a new page is placed in: the first with more than SPILL.FLOOR free frames, T0 only when enabled (R312); when
only floors are left, the first tier that has a frame. -/
def State.placeTier (s : State) (p : Nat) : Option Nat :=
  let g := s.pgePart p
  let u := s.homePge p
  let t0 := s.flag u Reg.pge.allocT0En
  let floor := s.get u Reg.pge.spillFloor
  let tiers := if t0 then [0, 1, 2] else [1, 2]
  (tiers.find? (fun t => decide (floor < (g.freeList t).count))).or
    (tiers.find? (fun t => decide (0 < (g.freeList t).count)))

/-- Takes a frame of a tier off its free list. -/
def State.popFrame (s : State) (p t : Nat) : Option (Nat × State) :=
  match ((s.pgePart p).freeList t).pop with
  | none => none
  | some (i, l) => some (2 ^ 30 * t + i, (s.setPge p (fun g => g.setFree t l)).count (s.homePge p) 2 1)

/-- The lines of a frame that are rewritten before it returns to a free list: those poisoned in local memory or the Table, and all of a T2
frame that was read poisoned (R331). -/
def State.dirtyLines (s : State) (p f : Nat) : List Nat :=
  let ls := linesOf (frameKey f) 32768
  if frameTier f = 2 then (if ((s.pgePart p).frame f).sawPoison then ls else []) else ls.filter s.poisoned

/-- Returns a frame to its free list: its poisoned lines are first rewritten with zeros; a frame on a VACANT device, or one that cannot be
rewritten clean, is quarantined (R319, R331). -/
def State.freeFrame (s : State) (p f : Nat) : State :=
  let bad := s.dirtyLines p f
  if bad.any s.lost then
    let s1 := s.setPge p (fun g => g.setFrame f { g.frame f with refs := 0, st := .quarantine })
    (s1.eventP p none 0x4006 (dgaOf s.node (frameKey f / 2 ^ 48) (frameKey f % 2 ^ 48)) (fmtM 0x12 0 1 0)).irq
      (s.homePge p) (2 ^ 19)
  else
    let s1 := bad.foldl (fun t l => t.writeMem clsSys (l * 256) (List.replicate 256 0) false) s
    let s2 := s1.setPge p (fun g =>
      (g.setFrame f {}).setFree (frameTier f) ((g.freeList (frameTier f)).push (frameIx f)))
    s2.count (s.homePge p) 3 1

/-- Follows FORWARD frames to their destination. -/
def PgePart.follow (g : PgePart) (f : Nat) : Nat → Nat
  | 0 => f
  | n + 1 => if (g.frame f).st = .forward then g.follow (g.frame f).vpn n else f

/-- The entries that lead to a frame are marked as not migrating. -/
def PgePart.unmark (g : PgePart) (src : Nat) : PgePart :=
  { g with pages := g.pages.map (fun e => if e.frame = src then { e with mig := false } else e) }

/-- A frame that is freed migrates no more: the migration is forgotten, and its destination freed. -/
def State.cancelMig (s : State) (p f : Nat) : State :=
  match (s.pgePart p).migs.find? (fun m => m.src == f && m.st != .release) with
  | none => s
  | some m =>
    let s1 := s.setPge p (fun g => { g.unmark f with migs := g.migs.filter (fun x => x.src != f) })
    if m.st = .copying then s1.freeFrame p m.dst else s1

/-- Takes one reference off a frame and frees it at zero (R319). A reference through a FORWARD frame is one on its destination. -/
def State.dropRef (s : State) (p f : Nat) : State :=
  let h := (s.pgePart p).follow f 4
  let s1 := if h = f then s
    else s.setPge p (fun g => let e := g.frame f; g.setFrame f { e with refs := e.refs - 1 })
  let e := (s1.pgePart p).frame h
  if e.refs ≤ 1 then (s1.cancelMig p h).freeFrame p h
  else s1.setPge p (fun g => g.setFrame h { e with refs := e.refs - 1 })

/-! ## Page numbers (R307) -/

/-- Group size, context-parallel factor, block size and index of partition p's group on this member (R341). -/
def State.groupSize (s : State) (p : Nat) : Nat := s.get ⟨.dlr, 0⟩ (Reg.dlr.partGroupSizeM1.at p) + 1
def State.memberIx (s : State) (p : Nat) : Nat := s.get ⟨.dlr, 0⟩ (Reg.dlr.partMemberIndex.at p)
def State.cpFactor (s : State) (p : Nat) : Nat := s.get ⟨.dlr, 0⟩ (Reg.dlr.partCpM1.at p) + 1
def State.cpBlock (s : State) (p : Nat) : Nat := 2 ^ s.get ⟨.dlr, 0⟩ (Reg.dlr.partCpBlockLog2.at p)
def State.cpIndex (s : State) (p : Nat) : Nat := s.memberIx p * s.cpFactor p / s.groupSize p

/-- The local page number of page n on this member, if the member holds it. -/
def State.localPage (s : State) (p n : Nat) : Option Nat :=
  let b := s.cpBlock p
  let c := s.cpFactor p
  if n / b % c = s.cpIndex p then some (n / (b * c) * b + n % b) else none

/-- The page number of a local page of this member. -/
def State.globalPage (s : State) (p n' : Nat) : Nat :=
  n' / s.cpBlock p * (s.cpBlock p * s.cpFactor p) + s.cpIndex p * s.cpBlock p + n' % s.cpBlock p

/-- The page entry of a slot and VPN. -/
def PgePart.entry (g : PgePart) (slot vpn : Nat) : Option PageEnt :=
  g.pages.find? (fun e => e.slot == slot && e.vpn == vpn)

/-- The record with a page entry added or replaced. -/
def PgePart.setEntry (g : PgePart) (e : PageEnt) : PgePart :=
  { g with pages := e :: g.pages.filter (fun x => !(x.slot == e.slot && x.vpn == e.vpn)) }

/-- The VPNs of a page of this member (all LH of them). -/
def vpnsOf (n' lh : Nat) : List Nat := (List.range lh).map (fun k => n' * lh + k)

/-- The VPNs that positions [pos, pos + rows) touch on this member. -/
def State.vpnsTouched (s : State) (p pos rows : Nat) : List Nat :=
  if rows = 0 then []
  else (List.range ((pos + rows - 1) / 64 - pos / 64 + 1)).flatMap (fun i =>
    match s.localPage p (pos / 64 + i) with
    | none => []
    | some n' => vpnsOf n' (s.lh p))

/-! ## Table frames (R308) -/

/-- Nodes that a table over VPNs below a bound takes: the leaves and the levels above them. -/
def nodesFor : Nat → Nat → Nat
  | 0, _ => 1
  | fuel + 1, n => if n ≤ 512 then 1 else (n + 511) / 512 + nodesFor fuel ((n + 511) / 512)

/-- Gives a slot the TABLE frames that its table needs, from T1; false when T1 has none left (R308). -/
def State.growTable (s : State) (p slot vpnEnd : Nat) : Nat → State × Bool
  | 0 => (s, true)
  | fuel + 1 =>
    let have' := ((s.pgePart p).tables.find? (fun t => t.1 == slot)).map (fun t => t.2) |>.getD []
    if (nodesFor 4 vpnEnd + 7) / 8 ≤ have'.length then (s, true)
    else
      match if (s.pgePart p).freeAll = 0 then none else s.popFrame p 1 with
      | none => (s, false)
      | some (f, s1) =>
        let s2 := s1.setPge p (fun g =>
          { g.setFrame f { refs := 1, st := .table, owner := slot } with
            tables := (slot, have' ++ [f]) :: g.tables.filter (fun t => t.1 != slot) })
        State.growTable s2 p slot vpnEnd fuel

/-- Gives a slot the TABLE frames of a table over the VPNs below a bound. -/
def State.growTo (s : State) (p slot vpnEnd : Nat) : State × Bool := s.growTable p slot vpnEnd ((nodesFor 4 vpnEnd + 7) / 8 + 1)

/-- PT_ROOT of a slot: its anchor frame (R308). -/
def State.ptRoot (s : State) (p slot : Nat) : Nat :=
  (((s.pgePart p).tables.find? (fun t => t.1 == slot)).bind (fun t => t.2.head?)).getD 0

/-! ## Watermarks, migration queueing, admission pause (R326, R327, R329, R330) -/

/-- Watermark i of PGE.WM, in frames of a pool of n (R326). -/
def State.watermark (s : State) (p i n : Nat) : Nat := bits (s.get (s.homePge p) Reg.pge.wmBytes) (8 * i) 8 * n / 256

/-- Frames of a tier's pool of partition p. -/
def State.poolSize (s : State) (p : Nat) : Nat → Nat
  | 0 => ((List.range 32).filter (fun sl => s.ownsSlice p sl && s.get ⟨.tbl, 0⟩ (Reg.tbl.sliceUse.at sl) == 1)).length * 512
  | 1 => s.get ⟨.pge, 0⟩ (Reg.pge.partT1Frames.at p)
  | _ => s.t2Frames p - s.t2Reserve p

/-- Class and committed length of the sequence in a slot. -/
def State.slotClass (s : State) (p slot : Nat) : Nat × Nat :=
  match (s.part p).slots.find? (fun r => r.slot == slot) with
  | some r => (r.cls, r.pos)
  | none => (4, 0)

/-- A frame may be demoted: IN_USE, every position committed, no write reference, not shunned (R326, R328). -/
def State.demotable (s : State) (p t : Nat) (fe : Nat × FrameEnt) : Bool :=
  let g := s.pgePart p
  frameTier fe.1 == t && fe.2.st == .inUse && !g.shunned.contains fe.1 && !g.migs.any (fun m => m.src == fe.1) &&
    (fe.2.indexed ||
      g.pages.any (fun e => e.frame == fe.1 && !e.pending &&
        decide ((s.globalPage p (fe.2.vpn / max 1 (s.lh p)) + 1) * 64 ≤ (s.slotClass p e.slot).2)))

/-- The arrays of partition p's state area (R339): admission queue, slot records, policy table, sampling contexts, resume
logs, and the end. -/
structure Area where
  queue : Nat
  slots : Nat
  policy : Nat
  ctx : Nat
  logs : Nat
  finish : Nat
  deriving DecidableEq, Repr

/-- The first 64 KiB boundary at or after an offset. -/
def up64K (a : Nat) : Nat := (a + 65535) / 65536 * 65536

/-- The area that starts at an offset and holds q queue entries and n slots (R339). -/
def areaAt (b q n : Nat) : Area :=
  let slots := up64K (b + 128 * q)
  let policy := up64K (slots + 128 * n)
  let ctx := up64K (policy + 16 * n)
  let logs := up64K (ctx + 20480 * n)
  ⟨b, slots, policy, ctx, logs, logs + 16384 * n⟩

/-- Partition p's state area. -/
def State.area (s : State) (p : Nat) : Area :=
  areaAt (s.get ⟨.dlr, 0⟩ (Reg.dlr.partAreaBase.at p)) (s.get ⟨.dlr, 0⟩ (Reg.dlr.partQueueEntries.at p))
    (s.get ⟨.dlr, 0⟩ (Reg.dlr.partSlotCount.at p))

/-- The step that partition p is at: the uncommitted one, or the next. -/
def State.stepNow (s : State) (p : Nat) : Nat := (((s.part p).step).map (fun t => t.number)).getD (s.part p).nextStep

/-- Order of victims (R327): smaller is taken first. The LAST_STEP of the first class is the index entry's (log entry 161). -/
def State.victimRank (s : State) (p : Nat) (fe : Nat × FrameEnt) : List Nat :=
  let cl := s.slotClass p fe.2.owner
  let page := fe.2.vpn / max 1 (s.lh p)
  if fe.2.indexed && fe.2.refs == 1 then
    [0, (((s.pgePart p).pfx.find? (fun x => x.frames.contains fe.1)).map (fun x => x.lastStep)).getD 0, page]
  else if decide (s.get (s.homePge p) Reg.pge.coldSteps ≤ (2 ^ 32 + s.stepNow p - fe.2.lastStep) % 2 ^ 32) &&
      bit (s.le (key 0 (s.area p).policy + fe.2.owner * 16) 1) 0 then [1, 0, page]
  else [2, 3 - cl.1, 2 ^ 32 - cl.2, page]

/-- Lexicographic order of ranks. -/
def rankLt : List Nat → List Nat → Bool
  | [], [] => false
  | [], _ => true
  | _, [] => false
  | a :: r, b :: t => decide (a < b) || (a == b && rankLt r t)

/-- The best element under an order. -/
def bestBy {α : Type} (lt : α → α → Bool) : List α → Option α
  | [] => none
  | a :: r =>
    match bestBy lt r with
    | none => some a
    | some b => if lt b a then some b else some a

/-- The free frames of all of p's tiers are below ADMIT.RES (R330). -/
def State.allLow (s : State) (p : Nat) : Bool :=
  decide ((s.pgePart p).freeAll * 256 < s.get (s.homePge p) Reg.pge.admitRes * (s.poolSize p 0 + s.poolSize p 1 + s.poolSize p 2))

/-- Queues one demotion from a tier while it is below its low mark, until its high mark would be met (R326, R328). While every tier is
low, frames of unmapped index entries are evicted and not demoted (R330). -/
def State.queueDemotions (s : State) (p t : Nat) : Nat → State
  | 0 => s
  | fuel + 1 =>
    let g := s.pgePart p
    let n := s.poolSize p t
    let queued := (g.migs.filter (fun m => frameTier m.src == t)).length
    let free := (g.freeList t).count
    let want :=
      if queued = 0 then decide (free < s.watermark p (2 * t) n)
      else decide (free + queued < s.watermark p (2 * t + 1) n)
    if want && (t == 0 || decide (0 < s.t2Frames p)) then
      match bestBy (fun a b => rankLt (s.victimRank p a) (s.victimRank p b))
          (g.frames.filter (fun fe => s.demotable p t fe && !(s.allLow p && fe.2.indexed && fe.2.refs == 1))) with
      | none => s
      | some v => State.queueDemotions (s.setPge p (fun g => { g with migs := g.migs ++ [⟨v.1, 0, t + 1, .queued⟩] })) p t fuel
    else s

/-- Evicts one prefix-index entry: references dropped, the list freed (R324). -/
def State.evictPfx (s : State) (p : Nat) (e : PfxEnt) : State :=
  let s1 := s.setPge p (fun g => { g with pfx := g.pfx.filter (fun x => x.hash != e.hash) })
  let s2 := e.frames.foldl (fun t f =>
    (t.setPge p (fun g => g.setFrame f { g.frame f with indexed := false })).dropRef p f) s1
  let s3 := if (s2.pgePart p).pfx.any (fun x => x.listFrame == e.listFrame) then s2 else s2.freeFrame p e.listFrame
  s3.count (s.homePge p) 11 1

/-- An index entry that no sequence maps and no match pins. -/
def PgePart.unmapped (g : PgePart) (e : PfxEnt) : Bool :=
  e.frames.all (fun f => decide ((g.frame f).refs ≤ 1)) && !g.pins.any (fun x => x.2.contains e.hash)

/-- Evicts unmapped index entries, oldest first, while every tier is low (R330). -/
def State.evictUnmapped (s : State) (p : Nat) : Nat → State
  | 0 => s
  | n + 1 =>
    let g := s.pgePart p
    if !s.allLow p then s
    else
      match bestBy (fun a b => decide (a.lastStep < b.lastStep)) (g.pfx.filter g.unmapped) with
      | some e => State.evictUnmapped (s.evictPfx p e) p n
      | none => s

/-- Pauses or resumes admission of p by its free frames, once unmapped index entries are evicted (R330). -/
def State.checkPause (s0 : State) (p : Nat) : State :=
  let s := s0.evictUnmapped p (s0.pgePart p).pfx.length
  let u := s.homePge p
  let pool := s.poolSize p 0 + s.poolSize p 1 + s.poolSize p 2
  let resume := max (s.get u Reg.pge.admitRes) (s.get u Reg.pge.admitResume)
  if s.allLow p then
    if s.flag u (Reg.pge.partAdmitPaused.at p) then s
    else (s.put u (Reg.pge.partAdmitPaused.at p) 1).irq u (2 ^ 16)
  else if decide (resume * pool < (s.pgePart p).freeAll * 256) then s.put u (Reg.pge.partAdmitPaused.at p) 0
  else s

/-- After frames have moved: watermarks and the admission pause. -/
def State.pgeBalance (s : State) (p : Nat) : State :=
  ((s.queueDemotions p 0 64).queueDemotions p 1 64).checkPause p

/-! ## Reservation (R313) -/

/-- Frames that the entries of a step need on this member. -/
def State.stepNeed (s : State) (p : Nat) (es : List Entry) : Nat :=
  (es.flatMap (fun e => (s.vpnsTouched p e.pos e.nrows).filter (fun v =>
    match (s.pgePart p).entry e.slot v with
    | none => true
    | some pe => pe.shared))).length

/-- Grants or refuses the reservation of a step's entries. -/
def State.reserve (s : State) (p : Nat) (es : List Entry) : State × Bool :=
  let need := s.stepNeed p es
  let free := (s.pgePart p).freeAll
  let u := s.homePge p
  if need ≤ free then ((s.setPge p (fun g => { g with resv := need })).respond [1, need, 0], true)
  else (((s.irq u (2 ^ 17)).count u 12 1).respond [0, need, need - free], false)

/-! ## Translation and copy-on-write (R310, R314) -/

/-- The ranges of a frame, its summary slot and its scale record. -/
def State.frameRanges (s : State) (p f : Nat) : List (Nat × Nat) :=
  let r := s.sideRecords p f
  [(frameKey f, 32768), (r.1, 512), (r.2, 16)].map (fun x => (2 ^ 50 * s.node + x.1, x.2))

/-- Copies n bytes line by line, each line with its poison (R601). -/
def State.copyRun (s : State) (a b n : Nat) : State :=
  (linesOf b n).foldl (fun t l =>
    let w := within l b n
    let c := a + (w.1 - b)
    t.writeMem clsSys w.1 (t.bytes c w.2) (t.anyPoison c w.2)) s

/-- Copies a frame and its side records, poison with it (R314, R328, R601). -/
def State.copyFrame (s : State) (p src dst : Nat) : State :=
  let sr := s.sideRecords p src
  let dr := s.sideRecords p dst
  ((s.copyRun (frameKey src) (frameKey dst) 32768).copyRun sr.1 dr.1 512).copyRun sr.2 dr.2 16

/-- A page-table node of a slot, or the frame-table entry of a frame, holds an uncorrectable error, so that every translation through it
fails (R332). Which node an entry stands in is the engine's own affair, so an error in any of the slot's TABLE frames counts
(DESIGN CHOICE, log entry 162). -/
def State.tableBad (s : State) (p slot f : Nat) : Bool :=
  s.poison.any (fun l => (s.pgePart p).tables.any (fun t => t.1 == slot && t.2.any (fun x => l / 128 == frameKey x / 32768)) ||
    l == lineOf (s.tableEntryAt p f))

/-- The sweep of R332 starts. -/
def State.startSweep (s : State) (p : Nat) : State := s.put (s.homePge p) Reg.pge.serveSweep 1

/-- A lookup fails; one that meets a damaged table starts the sweep. -/
def State.lookupFails (s : State) (p slot f : Nat) : State :=
  if s.tableBad p slot f then s.startSweep p else s

/-- What a lookup returns (R310). -/
inductive Lookup where
  | notPresent
  | frame (f : Nat)
  | xlateFault
  deriving DecidableEq, Repr

/-- A lookup for a read: FORWARD frames are followed and the entry rewritten, LAST_STEP is updated (R310). A frame read in
tier 2 is queued for promotion when R329 allows; the flag says whether the conditions failed. -/
def State.lookupRead (s0 : State) (p slot vpn : Nat) : Lookup × State :=
  let s := s0.count (s0.homePge p) 0 1
  match (s.pgePart p).entry slot vpn with
  | none => (.notPresent, s)
  | some e =>
    if 3 ≤ frameTier e.frame ∨ s.tableBad p slot e.frame then (.xlateFault, s.lookupFails p slot e.frame)
    else
      let g := s.pgePart p
      let f := g.follow e.frame 4
      let s1 := if f = e.frame then s
        else (s.setPge p (fun g =>
          let g1 := g.setEntry { e with frame := f }
          let o := g1.frame e.frame
          g1.setFrame e.frame { o with refs := o.refs - 1 })).count (s.homePge p) 13 1
      let clean := g.shunned.contains f && !s.anyPoison (frameKey f) 32768
      (.frame f, s1.setPge p (fun g =>
        let h := g.setFrame f { g.frame f with lastStep := s.stepNow p % 2 ^ 32 }
        if clean then { h with shunned := h.shunned.filter (fun x => x != f) } else h))

/-- Queues the promotion of a T2 frame to T1; the flag says whether it was queued (R329). -/
def State.promote (s : State) (p f : Nat) : State × Bool :=
  let g := s.pgePart p
  if frameTier f = 2 ∧ s.flag (s.homePge p) Reg.pge.allocPromoteEn ∧
      s.watermark p 2 (s.poolSize p 1) < g.free1.count then
    if g.migs.any (fun m => m.src == f) || g.shunned.contains f then (s, true)
    else (s.setPge p (fun g => { g with migs := g.migs ++ [⟨f, 0, 1, .queued⟩] }), true)
  else (s, false)

/-- Takes one forwarded entry to its destination (R310, R328). -/
def State.forwardEntry (s : State) (p : Nat) (e : PageEnt) : State :=
  let f := (s.pgePart p).follow e.frame 4
  if f = e.frame then s
  else (s.setPge p (fun g =>
    let o := g.frame e.frame
    (g.setEntry { e with frame := f }).setFrame e.frame { o with refs := o.refs - 1 })).count (s.homePge p) 13 1

/-- Takes every forwarded entry of a slot to its destination. -/
def State.unforward (s : State) (p slot : Nat) : State :=
  ((s.pgePart p).pages.filter (fun e => e.slot == slot)).foldl (fun t e => t.forwardEntry p e) s

/-- A lookup for a write: a PENDING or private frame, or one reached through copy-on-write (R310, R314). -/
def State.lookupWrite (s0 : State) (p slot vpn : Nat) : Lookup × State :=
  let s1 := s0.count (s0.homePge p) 0 1
  let s := match (s1.pgePart p).entry slot vpn with
    | none => s1
    | some e => s1.forwardEntry p e
  match (s.pgePart p).entry slot vpn with
  | none => (.notPresent, s)
  | some e =>
    if 3 ≤ frameTier e.frame ∨ s.tableBad p slot e.frame then (.xlateFault, s.lookupFails p slot e.frame)
    else if !e.shared then (.frame e.frame, s)
    else
      let g := s.pgePart p
      let fe := g.frame e.frame
      if fe.refs ≤ 1 then
        (.frame e.frame, s.setPge p (fun g => g.setEntry { e with shared := false }))
      else
        match s.placeTier p with
        | none => (.xlateFault, s)
        | some t =>
          match s.popFrame p t with
          | none => (.xlateFault, s)
          | some (d, s1) =>
            let s2 := (s1.readAll clsSys (s1.frameRanges p e.frame)).1.copyFrame p e.frame d
            let s3 := s2.setPge p (fun g =>
              let g1 := g.setFrame e.frame { fe with refs := fe.refs - 1 }
              let g2 := g1.setFrame d { refs := 1, st := .inUse, lastStep := fe.lastStep, owner := slot, vpn := vpn }
              { g2.setEntry { e with frame := d, shared := false } with resv := g2.resv - 1 })
            (.frame d, s3.count (s.homePge p) 4 1)

/-! ## Allocation (R314) -/

/-- Gives one VPN of a slot a PENDING frame from the reservation; false when the reservation is used up. -/
def State.allocVpn (s : State) (p slot vpn : Nat) : State × Bool :=
  match (s.pgePart p).entry slot vpn with
  | some _ => (s, true)
  | none =>
    if (s.pgePart p).resv = 0 then (s, false)
    else
      match s.placeTier p with
      | none => (s, false)
      | some t =>
        match s.popFrame p t with
        | none => (s, false)
        | some (f, s1) =>
          (s1.setPge p (fun g =>
            let g1 := g.setFrame f { refs := 1, st := .pending, owner := slot, vpn := vpn }
            { g1.setEntry ⟨slot, vpn, f, true, false, false⟩ with resv := g1.resv - 1 }), true)

/-- ALLOC over one entry: the tree grows first, then every VPN of every page touched. -/
def State.allocEntry (s : State) (p slot pos rows : Nat) : State × Bool :=
  let vs := s.vpnsTouched p pos rows
  vs.foldl (fun a v => if a.2 then a.1.allocVpn p slot v else a) (s.growTo p slot (vs.foldl max 0 + 1))

/-! ## Commit, abandonment, retirement (R316 to R319) -/

/-- Frees the PENDING frames of a slot whose pages lie wholly at or above a length. -/
def State.freePending (s : State) (p slot newLen : Nat) : State :=
  let g := s.pgePart p
  let lh := max 1 (s.lh p)
  let gone (e : PageEnt) : Bool := e.slot == slot && e.pending && decide (newLen ≤ s.globalPage p (e.vpn / lh) * 64)
  let dead := g.pages.filter gone
  let s1 := s.setPge p (fun g => { g with pages := g.pages.filter (fun e => !gone e) })
  dead.foldl (fun t e => t.dropRef p e.frame) s1

/-- Commits a slot's pages to a length (R316): PENDING is cleared on what stays. -/
def State.commitPages (s : State) (p slot newLen : Nat) : State :=
  let s1 := s.freePending p slot newLen
  s1.setPge p (fun g =>
    let mine := g.pages.filter (fun e => e.slot == slot && e.pending)
    let g1 := { g with pages := g.pages.map (fun e => if e.slot = slot then { e with pending := false } else e) }
    mine.foldl (fun h e => h.setFrame e.frame { h.frame e.frame with st := .inUse }) g1)

/-- Frees every PENDING frame of a slot: its step is abandoned for good (R316). -/
def State.dropPending (s : State) (p slot : Nat) : State :=
  let dead := (s.pgePart p).pages.filter (fun e => e.slot == slot && e.pending)
  let s1 := s.setPge p (fun g => { g with pages := g.pages.filter (fun e => !(e.slot == slot && e.pending)) })
  dead.foldl (fun t e => t.dropRef p e.frame) s1

/-- Copies K and V of one position of a slot, for every layer and head group held: `posBytes` bytes of each half of a page
(R135, R317). -/
def State.copyPosition (s : State) (p slot src dst : Nat) : State :=
  match s.localPage p (src / 64), s.localPage p (dst / 64) with
  | some a, some b =>
    (List.range (s.lh p)).foldl (fun t k =>
      match (t.pgePart p).entry slot (a * s.lh p + k), (t.pgePart p).entry slot (b * s.lh p + k) with
      | some x, some y =>
        let n := (t.pgePart p).posBytes
        let fx := frameKey ((t.pgePart p).follow x.frame 4) + src % 64 * n
        let fy := frameKey ((t.pgePart p).follow y.frame 4) + dst % 64 * n
        let t1 := (t.readAll clsSys [(2 ^ 50 * s.node + fx, n), (2 ^ 50 * s.node + fx + 16384, n)]).1
        (t1.copyRun fx fy n).copyRun (fx + 16384) (fy + 16384) n
      | _, _ => t) s
  | _, _ => s

/-- Compacts an accepted draft path (R317): position POS + PATH[i − 1] to POS + i. -/
def State.compact (s : State) (p slot pos : Nat) (path : List Nat) : State :=
  (path.zip (List.range path.length)).foldl
    (fun t x => if x.1 = x.2 + 1 then t else t.copyPosition p slot (pos + x.1) (pos + x.2 + 1)) s

/-- Clears SUM_VALID of the page at a page number and queues its recomputation (R318). -/
def State.dropSummary (s : State) (p slot n : Nat) : State :=
  match s.localPage p n with
  | none => s
  | some n' =>
    let s1 := (vpnsOf n' (s.lh p)).foldl (fun t v =>
      match (t.pgePart p).entry slot v with
      | none => t
      | some e =>
        let a := (t.sideRecords p ((t.pgePart p).follow e.frame 4)).2 + 8
        t.writeMem clsSys a [t.byte a &&& 0xFE] false) s
    s1.setPge p (fun g => if g.resum.contains (slot, n) then g else { g with resum := g.resum ++ [(slot, n)] })

/-- Retires a slot's pages and tables (R319). -/
def State.retirePages (s : State) (p slot : Nat) : State :=
  let g := s.pgePart p
  let pgs := g.pages.filter (fun e => e.slot == slot)
  let tbs := (g.tables.filter (fun t => t.1 == slot)).flatMap (fun t => t.2)
  let s1 := s.setPge p (fun g =>
    { g with
      pages := g.pages.filter (fun e => e.slot != slot)
      tables := g.tables.filter (fun t => t.1 != slot)
      pins := g.pins.filter (fun t => t.1 != slot)
      hashes := g.hashes.filter (fun t => t.1 != slot)
      resum := g.resum.filter (fun t => t.1 != slot) })
  let s2 := pgs.foldl (fun t e => t.dropRef p e.frame) s1
  (tbs.foldl (fun t f => t.freeFrame p f) s2).checkPause p

/-! ## Sharing (R320 to R324) -/

/-- Raises the references of a block's frames, unless one would pass 65,535 (R320). -/
def PgePart.shareFrames (g : PgePart) (fs : List Nat) : Option PgePart :=
  if fs.all (fun f => decide ((g.frame f).refs < 65535)) then
    some (fs.foldl (fun h f => h.setFrame f { h.frame f with refs := (h.frame f).refs + 1 }) g)
  else none

/-- Forks one slot's table into another (R320): pages in VPN order, up to the block before a frame that cannot be shared. -/
def State.forkPages (s0 : State) (p src dst : Nat) : State :=
  let s := s0.unforward p src
  let g := s.pgePart p
  let mine := g.pages.filter (fun e => e.slot == src)
  let lh := max 1 (s.lh p)
  let blocks := ((mine.map (fun e => e.vpn / lh)).foldl max 0) + (if mine.isEmpty then 0 else 1)
  let step (a : PgePart × Bool) (n : Nat) : PgePart × Bool :=
    if !a.2 then a
    else
      let es := mine.filter (fun e => e.vpn / lh == n)
      match a.1.shareFrames (es.map (fun e => e.frame)) with
      | none => (a.1, false)
      | some h =>
        (es.foldl (fun h e => (h.setEntry { e with shared := true }).setEntry { e with slot := dst, shared := true }) h, true)
  let s1 := s.setPge p (fun g => ((List.range blocks).foldl step (g, true)).1)
  (s1.growTo p dst (blocks * lh)).1

/-- Token i of a prompt at a DGA (R343). -/
def State.promptTok (s : State) (prompt i : Nat) : Nat := s.le (dgaKey prompt + 4 * i) 4

/-- The prefix chain of a prompt, first n blocks (R321). -/
def State.prefixChain (s : State) (prompt : Nat) : Nat → Nat → Nat → List Nat
  | _, _, 0 => []
  | h, k, n + 1 =>
    let h' := leNat ((sha512 (leBytes 8 h ++ s.bytes (dgaKey prompt + 256 * k) 256)).take 8)
    h' :: State.prefixChain s prompt h' (k + 1) n

/-- Blocks that may be matched: ⌊(P − 1) / 64⌋, none with key 0 or with sharing off (R321, R323). -/
def State.matchable (s : State) (p prefixKey plen : Nat) : Nat :=
  if prefixKey = 0 ∨ !s.flag (s.homePge p) (Reg.pge.partShareEn.at p) then 0 else (plen - 1) / 64

/-- This member's run of hits over a hash list; context-parallel members check only the blocks they hold (R323). -/
def State.hitRun (s : State) (p : Nat) : Nat → List Nat → Nat
  | _, [] => 0
  | k, h :: r =>
    if (s.localPage p k).isNone || (s.pgePart p).pfx.any (fun e => e.hash == h) then 1 + State.hitRun s p (k + 1) r else 0

/-- The blocks below k that this member holds. -/
def State.heldBlocks (s : State) (p k : Nat) : Nat := ((List.range k).filter (fun i => (s.localPage p i).isSome)).length

/-- Pins the entries of a run until M is known, keeps the hash list, and counts the lookups (R323). -/
def State.pinRun (s : State) (p slot run : Nat) (hs : List Nat) : State :=
  (s.setPge p (fun g =>
    { g with
      pins := (slot, hs.take run) :: g.pins.filter (fun x => x.1 != slot)
      hashes := (slot, hs) :: g.hashes.filter (fun x => x.1 != slot) })).count
    (s.homePge p) 8 (s.heldBlocks p (min hs.length (run + 1)))

/-- Maps the first m matched blocks into a slot and unpins (R323). -/
def State.mapBlocks (s : State) (p slot m : Nat) : State :=
  let hs := ((s.pgePart p).pins.find? (fun x => x.1 == slot)).map (fun x => x.2) |>.getD []
  let lh := s.lh p
  let one (a : State × Bool) (kh : Nat × Nat) : State × Bool :=
    if !a.2 then a
    else
      match a.1.localPage p kh.1, (a.1.pgePart p).pfx.find? (fun e => e.hash == kh.2) with
      | some n', some e =>
        match (a.1.pgePart p).shareFrames e.frames with
        | none => (a.1, false)
        | some h =>
          let h1 := (e.frames.zip (vpnsOf n' lh)).foldl (fun g x => g.setEntry ⟨slot, x.2, x.1, false, true, false⟩) h
          let h2 := { h1 with pfx := h1.pfx.map (fun x =>
            if x.hash = e.hash then { x with hits := sat (2 ^ 32 - 1) (x.hits + 1), lastStep := s.stepNow p } else x) }
          (a.1.setPge p (fun _ => h2), true)
      | _, _ => a
  let s1 := (((List.range m).zip hs).foldl one (s, true)).1
  let s2 := s1.setPge p (fun g => { g with pins := g.pins.filter (fun x => x.1 != slot) })
  ((s2.growTo p slot (m * lh)).1).count (s.homePge p) 9 (s.heldBlocks p m)

/-- Units of 64 bytes that a block list of n frames takes (R322). -/
def listUnits (n : Nat) : Nat := (4 * n + 63) / 64

/-- A place for a block list of n frames: the first that fits in a TABLE frame that holds lists, else a new TABLE frame (DESIGN CHOICE, log
entry 163). -/
def State.listPlace (s : State) (p n : Nat) : Option (Nat × Nat × State) :=
  let g := s.pgePart p
  let k := listUnits n
  let fits (f o : Nat) : Bool := decide (o + k ≤ 512) &&
    g.pfx.all (fun e => e.listFrame != f || decide (o + k ≤ e.listOff) || decide (e.listOff + listUnits e.frames.length ≤ o))
  let places := ((g.pfx.map (fun e => e.listFrame)).dedup).flatMap (fun f => (List.range 512).map (fun o => (f, o)))
  match places.find? (fun x => fits x.1 x.2) with
  | some x => some (x.1, x.2, s)
  | none =>
    if g.freeAll = 0 then none
    else
      match s.popFrame p 1 with
      | none => none
      | some (f, s1) => some (f, 0, s1.setPge p (fun g => g.setFrame f { refs := 1, st := .table }))

/-- Inserts one committed prompt block into the index; a full set evicts its oldest entry that no match pins (R323, R324). -/
def State.insertBlock (s0 : State) (p slot k hash : Nat) : State :=
  let s := s0.unforward p slot
  let g := s.pgePart p
  let lh := s.lh p
  match s.localPage p k with
  | none => s
  | some n' =>
    let fs := (vpnsOf n' lh).filterMap (fun v => (g.entry slot v).map (fun e => e.frame))
    if g.pfx.any (fun e => e.hash == hash) || fs.length ≠ lh || s.pfxSets p = 0 || (g.shareFrames fs).isNone then s
    else
      let mate (e : PfxEnt) : Bool := e.hash % s.pfxSets p == hash % s.pfxSets p
      let s1 := if (g.pfx.filter mate).length < 8 then s
        else match bestBy (fun a b => decide (a.lastStep < b.lastStep))
            (g.pfx.filter (fun e => mate e && !g.pins.any (fun x => x.2.contains e.hash))) with
          | some e => s.evictPfx p e
          | none => s
      let left := (s1.pgePart p).pfx.filter mate
      match (List.range 8).find? (fun w => left.all (fun e => e.way != w)), s1.listPlace p lh with
      | some way, some (f, o, s2) =>
        (s2.setPge p (fun g =>
          match g.shareFrames fs with
          | none => g
          | some h =>
            let h1 := fs.foldl (fun (x : PgePart) f => x.setFrame f { x.frame f with indexed := true }) h
            let h2 : PgePart := { h1 with pages := h1.pages.map (fun (e : PageEnt) => if e.slot = slot ∧ fs.contains e.frame then { e with shared := true } else e) }
            { h2 with pfx := h2.pfx ++ [{ hash := hash, block := k, frames := fs, hits := 0, lastStep := s.stepNow p, way := way, listFrame := f, listOff := o }] })).count
          (s.homePge p) 10 1
      | _, _ => s1

/-- The first n hashes of a slot's prompt: computed where the prompt lies, else as the lead sent them; a hash that the list does not
reach is free here. -/
def State.chainOf (s : State) (p : Nat) (r : SlotRec) (n : Nat) : List Nat :=
  if dgaNode r.prompt = s.node then s.prefixChain r.prompt r.prefixKey 0 n
  else
    let hs := (((s.pgePart p).hashes.find? (fun x => x.1 == r.slot)).map (fun x => x.2)).getD []
    (List.range n).map (fun k => (hs[k]?).getD (Config.freeValue (s.freeIdx + k)).toNat)

/-- Inserts every block wholly inside the prompt whose positions are committed (R324). -/
def State.insertPrefixes (s : State) (p : Nat) (r : SlotRec) (oldLen newLen : Nat) : State :=
  if r.prefixKey = 0 ∨ !s.flag (s.homePge p) (Reg.pge.partShareEn.at p) then s
  else
    let n := min r.plen newLen / 64
    let hs := s.chainOf p r n
    ((List.range n).zip hs).foldl (fun t kh => if (kh.1 + 1) * 64 ≤ oldLen then t else t.insertBlock p r.slot kh.1 kh.2)
      ({ s with freeIdx := s.freeIdx + n } : State)

/-! ## The commands of the PGE class (R334) -/

/-- Operand checks of a PGE lane: opcode, UNIT and SPAN_M1, reserved bytes, addresses, entry range. -/
def pgeChecks (s : State) (l : Lane) : Option Nat :=
  let st := l.op 16 8
  firstFail
    [if l.opcode = 1 ∨ l.opcode = 2 then none else some 0x04,
     if l.rel = 0 ∧ l.spanM1 = 0 then none else some 0x05,
     if l.op 38 26 = 0 then none else some 0x05,
     if l.opcode = 1 ∧ (l.op 24 8 ≠ 0 ∨ l.op 36 2 ≠ 0) then some 0x05 else none,
     s.checkAddr l.part st 64 [0, 1] false,
     s.checkAddr l.part st (64 + 32 * s.stSeqs (dgaKey st)) [0, 1] false,
     if l.op 32 2 ≤ l.op 34 2 ∧ l.op 34 2 ≤ s.stSeqs (dgaKey st) then none else some 0x05]

/-- Allocates for entries in turn; the status with which the lane ends where one of them cannot be served (R332, R335). -/
def State.allocEntries (s : State) (p : Nat) : List STEntry → State × Nat
  | [] => (s.pgeBalance p, 0)
  | e :: r =>
    if s.tableBad p e.slot 0 then (s.startSweep p, 0xC0)
    else
      let a := s.allocEntry p e.slot e.pos e.nrows
      if a.2 then State.allocEntries a.1 p r else (a.1, 0xC1)

/-- ALLOC (R314, R334, R335): pending frames for every page the covered entries touch. A frozen engine, and one whose step table is held
at a bank, lets it wait (R258, R336). -/
def execAlloc (u : UnitId) (s : State) : Host.Outcome State Fault Refusal :=
  atUnit .pge u s (
    match (s.unit u).queue with
    | [] => s
    | h :: _ =>
      let tbl := (h.op 16 8, 64 + 32 * h.op 34 2)
      if h.opcode = 2 || s.frozen u || ((pgeChecks s h).isNone && s.heldIn [tbl]) then s
      else s.runLane u (fun l s =>
        match pgeChecks s l with
        | some e => (e, s)
        | none =>
          let m := s.readAll clsSys [tbl]
          let r := m.1.allocEntries l.part (m.1.stEntries (dgaKey tbl.1) (l.op 32 2) (l.op 34 2))
          if m.2 then (0x03, r.1)
          else if m.1.anyPoison (dgaKey tbl.1) tbl.2 then (0x02, r.1.irq u 4)
          else (r.2, r.1)))

/-- The head lane of a unit waits for translations: its partition's page engine is frozen (R336). -/
def State.lookupsHeld (s : State) (u : UnitId) : Bool :=
  match (s.unit u).queue with
  | [] => false
  | l :: _ => l.status.isNone && s.frozen (s.homePge l.part)

/-- A batch of lookups (R310): slot, layer × HG + head group, page number; the response lists a verdict and three addresses
for each. A frozen engine holds it at its input (R336). -/
def execPgeLookup (part : Nat) (write : Bool) (qs : List (Nat × Nat × Nat)) (s : State) : Host.Outcome State Fault Refusal :=
  .next (
    if s.frozen (s.homePge part) then s
    else
      let r := qs.foldl (fun (a : State × List Nat) (q : Nat × Nat × Nat) =>
        match a.1.localPage part q.2.2 with
        | none => (a.1.count (a.1.homePge part) 0 1, a.2 ++ [0, 0, 0, 0])
        | some n' =>
          let v := n' * a.1.lh part + q.2.1
          let res := if write then a.1.lookupWrite part q.1 v else a.1.lookupRead part q.1 v
          match res.1 with
          | .notPresent => (res.2, a.2 ++ [0, 0, 0, 0])
          | .xlateFault => (res.2, a.2 ++ [2, 0, 0, 0])
          | .frame f =>
            let s2 := if write then res.2 else (res.2.promote part f).1
            let dga (k : Nat) : Nat := 2 ^ 50 * s.node + k
            (s2, a.2 ++ [1, dga (frameKey f), dga (s2.sideRecords part f).1, dga (s2.sideRecords part f).2])) (s, [])
      r.1.respond r.2)

/-- The reservation of the partition's forming step (R313): a grant is the member's own READY; a refusal is reported. -/
def execPgeReserve (part : Nat) (s : State) : Host.Outcome State Fault Refusal :=
  .next (
    match (s.part part).step with
    | none => s.respond []
    | some st =>
      if st.phase ≠ .forming then s.respond []
      else if s.frozen (s.homePge part) then s
      else
        let r := s.reserve part st.entries
        if r.2 then
          r.1.setPart part (fun x => { x with step := some { st with unready := st.unready.filter (fun m => m != s.memberIx part) } })
        else r.1.count ⟨.dlr, s.get sprU Reg.spr.ownHolder % 2⟩ 11 1)

/-- Migrations past QUEUED of a partition (R328). -/
def State.migsOf (s : State) (p : Nat) : Nat := ((s.pgePart p).migs.filter (fun m => m.st != .queued)).length

/-- Migrations past QUEUED on the module. -/
def State.migInflight (s : State) : Nat := (List.range 8).foldl (fun a p => a + s.migsOf p) 0

/-- Those of the partitions whose home a page engine is. -/
def State.migsInflight (s : State) (u : UnitId) : Nat :=
  (List.range 8).foldl (fun a p => if s.homePge p = u then a + s.migsOf p else a) 0

/-- A migration may go past QUEUED on an engine: within its limit, and the module's (R328, R336). -/
def State.mayMigrate (s : State) (u : UnitId) : Bool :=
  decide (s.migInflight < 1024) && decide (s.migsInflight u < clampTo 1 512 (s.get u Reg.pge.migLimit))

/-- A queued migration takes a slot and a destination frame above the floor and starts copying (R328). -/
def execMigStart (part src : Nat) (s : State) : Host.Outcome State Fault Refusal :=
  .next (
    let g := s.pgePart part
    match g.migs.find? (fun m => m.src == src && m.st == .queued) with
    | none => s
    | some m =>
      let l := g.freeList m.tier
      if s.mayMigrate (s.homePge part) ∧ !s.frozen (s.homePge part) ∧ s.get (s.homePge part) Reg.pge.spillFloor < l.count then
        match s.popFrame part m.tier with
        | none => s
        | some (d, s1) =>
          s1.setPge part (fun g =>
            let g1 := g.setFrame d { g.frame src with st := .migDst }
            let g2 := g1.setFrame src { g1.frame src with st := .migSrc }
            { g2 with
              pages := g2.pages.map (fun e => if e.frame = src then { e with mig := true } else e)
              migs := g2.migs.map (fun x => if x.src = src then { x with dst := d, st := .copying } else x) })
      else s)

/-- A migration ends ABORTED (R328): the destination is freed, the source stays, and it is not chosen again until read clean. -/
def State.abortMig (s : State) (p : Nat) (m : MigRec) : State :=
  let s1 := s.setPge p (fun g =>
    let g1 := (g.setFrame m.src { g.frame m.src with st := .inUse }).unmark m.src
    { g1 with migs := g1.migs.filter (fun x => x.src != m.src), shunned := g1.shunned ++ [m.src] })
  s1.freeFrame p m.dst

/-- A migration copy ends (R328): SWITCH to the destination, or ABORTED on a poisoned or failed read. -/
def execMigCopyDone (part src : Nat) (readFailed : Bool) (s : State) : Host.Outcome State Fault Refusal :=
  .next (
    let g := s.pgePart part
    match g.migs.find? (fun m => m.src == src && m.st == .copying) with
    | none => s
    | some m =>
      let rd := s.readAll clsSys (s.frameRanges part src)
      if s.heldIn (s.frameRanges part src ++ s.frameRanges part m.dst) then s
      else if readFailed || rd.2 || rd.1.anyPoison (frameKey src) 32768 then rd.1.abortMig part m
      else
        let s1 := rd.1.copyFrame part src m.dst
        let e := g.frame src
        let s2 := s1.setPge part (fun g =>
          let g1 := g.unmark src
          if e.refs ≤ 1 then
            let g2 := g1.setFrame m.dst { e with st := .inUse }
            let g3 := g2.setFrame src { e with st := .migSrc, refs := 0 }
            { g3 with
              pages := g3.pages.map (fun x => if x.frame = src then { x with frame := m.dst } else x)
              pfx := g3.pfx.map (fun x => { x with frames := x.frames.map (fun f => if f = src then m.dst else f) })
              migs := g3.migs.map (fun x => if x.src = src then { x with st := .release } else x) }
          else
            let maps := (g1.pages.filter (fun x => x.frame == src)).length
            let g2 := g1.setFrame m.dst { e with st := .inUse }
            let g3 := g2.setFrame src { e with st := .forward, refs := maps, vpn := m.dst }
            { g3 with
              pfx := g3.pfx.map (fun x => { x with frames := x.frames.map (fun f => if f = src then m.dst else f) })
              migs := g3.migs.map (fun x => if x.src = src then { x with st := .release } else x) })
        s2.count (s.homePge part) (if frameTier src = 0 then 5 else if m.tier = 2 then 6 else 7) 1)

/-- The background rewrite of forwarded entries (R328). -/
def execForwardRewrite (part slot : Nat) (s : State) : Host.Outcome State Fault Refusal := .next (s.unforward part slot)

/-- The source of a finished migration is free of references: no entry leads to it, and no FORWARD frame with entries does. -/
def PgePart.ripe (g : PgePart) (m : MigRec) : Bool :=
  m.st == .release && (g.frame m.src).refs == 0 &&
    !g.frames.any (fun fe => fe.2.st == .forward && fe.2.vpn == m.src && decide (0 < fe.2.refs))

/-- Sources of finished migrations are freed at a step start once no entry refers to them (R328 RELEASE). -/
def State.releaseMigs (s : State) (p : Nat) : State :=
  let g := s.pgePart p
  (g.migs.filter g.ripe).foldl (fun t m => t.freeFrame p m.src)
    (s.setPge p (fun g => { g with migs := g.migs.filter (fun m => !g.ripe m) }))

/-- The background sweep (R332): frames whose owner slot holds no sequence and that nothing refers to are reclaimed. -/
def execPgeSweep (part : Nat) (s : State) : Host.Outcome State Fault Refusal :=
  .next (
    let g := s.pgePart part
    let lost := g.frames.filter (fun fe =>
      !(fe.2.st == .free || fe.2.st == .quarantine || fe.2.indexed) &&
        !(s.part part).slots.any (fun r => r.slot == fe.2.owner) &&
        !g.pages.any (fun e => e.frame == fe.1) && !g.tables.any (fun t => t.2.contains fe.1) &&
        !g.pfx.any (fun e => e.listFrame == fe.1) &&
        !g.migs.any (fun m => m.src == fe.1 || m.dst == fe.1))
    let s1 := lost.foldl (fun t fe => t.freeFrame part fe.1) s
    let s2 := s1.setPge part (fun x => (g.gone.foldl (fun y f => y.setFree (frameTier f) ((y.freeList (frameTier f)).push f)) { x with gone := [] }))
    s2.put (s.homePge part) Reg.pge.serveSweep 0)

/-- A follower receives the lead's hash list: it pins its run of hits and reports it (R323). -/
def execHashList (part slot : Nat) (hashes : List Nat) (lead : Nat) (s : State) : Host.Outcome State Fault Refusal :=
  .next (
    let run := if s.flag (s.homePge part) (Reg.pge.partShareEn.at part) then s.hitRun part 0 hashes else 0
    (s.pinRun part slot run hashes).emit (.send lead 1 .prefixReport [part, slot, run]))

end Sys2Proof.Machine
end

