-- ==== Sys2Proof/Machine/Plans.lean ====
section
/-!
DEFINITION. Plan files and templates (chapter 4): reading a template in place, the ordered checks of a load (R98), HOLD
chains (R90), substitution of batch fields (R99), and the plan commands of the Dealer's page.
-/
namespace Sys2Proof.Machine

/-- The Dealer that holds ownership (R584, R591). -/
def State.dealer (s : State) : UnitId := ⟨.dlr, bits (s.get sprU Reg.spr.ownHolder) 0 1⟩

/-- A register that every Dealer page shows alike (R370). -/
abbrev dlrU : UnitId := ⟨.dlr, 0⟩

/-- The block of an engine class (R79). -/
def classBlk : Nat → Option Blk
  | 0 => some .mt | 1 => some .ae | 2 => some .ew | 3 => some .shf | 4 => some .xr | 5 => some .smp
  | 6 => some .uc | 7 => some .dma | 8 => some .ce | 9 => some .pge | _ => none

/-- Units of a class that partition p has: the CE and PGE classes have one each (R455, R334). -/
def State.classCount (s : State) (p ec : Nat) : Nat :=
  match classBlk ec with
  | some .ce => 1
  | some .pge => 1
  | some b => (s.unitsOf b p).length
  | none => 0

/-- A plan's header (R97). -/
structure PlanHdr where
  templates : Nat
  counters : Nat
  phases : Nat
  group : Nat
  substs : Nat
  maxSeqs : Nat
  maxRows : Nat
  scratch : Nat
  phaseOff : Nat
  templateOff : Nat
  substOff : Nat
  deriving DecidableEq, Repr

/-- The header of the plan file at a memory key. -/
def State.planHdr (s : State) (a : Nat) : PlanHdr :=
  { templates := s.le (a + 8) 4, counters := s.le (a + 0xC) 2, phases := s.le (a + 0xE) 1, group := s.le (a + 0xF) 1,
    substs := s.le (a + 0x10) 4, maxSeqs := s.le (a + 0x14) 4, maxRows := s.le (a + 0x18) 4, scratch := s.le (a + 0x1C) 4,
    phaseOff := s.le (a + 0x20) 8, templateOff := s.le (a + 0x28) 8, substOff := s.le (a + 0x30) 8 }

/-- A template as read from its 64 bytes (R77, R78). -/
structure Tmpl where
  hdr : Nat
  waitValue : Nat
  waitId : Nat
  sigId : Nat
  sigInc : Nat
  unit : Nat
  spanM1 : Nat
  w3 : Nat
  ops : List Byte
  deriving DecidableEq, Repr

def Tmpl.opcode (t : Tmpl) : Nat := bits t.hdr 0 8
def Tmpl.eclass (t : Tmpl) : Nat := bits t.hdr 8 4
def Tmpl.bpp (t : Tmpl) : Nat := bits t.hdr 15 2
def Tmpl.phase (t : Tmpl) : Nat := bits t.hdr 17 6
def Tmpl.reqPrefill (t : Tmpl) : Bool := bit t.hdr 26
def Tmpl.reqDecode (t : Tmpl) : Bool := bit t.hdr 27

/-- Template i of the plan file at a memory key. -/
def State.tmpl (s : State) (a i : Nat) : Tmpl :=
  let b := a + (s.planHdr a).templateOff + 64 * i
  let w2 := s.le (b + 8) 4
  let w3 := s.le (b + 12) 4
  { hdr := s.le b 4, waitValue := s.le (b + 4) 4, waitId := bits w2 0 12, sigId := bits w2 12 12, sigInc := bits w2 24 8,
    unit := bits w3 0 11, spanM1 := bits w3 11 8, w3 := w3, ops := s.bytes (b + 16) 48 }

/-- The templates of a plan file in order. -/
def State.tmpls (s : State) (a : Nat) : List Tmpl := (List.range (s.planHdr a).templates).map (s.tmpl a)

/-- One 16-byte substitution entry as a number (R99). -/
def State.subst (s : State) (a i : Nat) : Nat := s.le (a + (s.planHdr a).substOff + 16 * i) 16

/-! ## The checks of a load (R98), in order -/

/-- The sections of a plan file: offset and bytes of each one that is not empty. -/
def PlanHdr.sections (h : PlanHdr) : List (Nat × Nat) :=
  [(h.phaseOff, h.phases * 8), (h.templateOff, h.templates * 64), (h.substOff, h.substs * 16)].filter (fun x => decide (x.2 ≠ 0))

/-- End of the file: the highest end of its sections. -/
def PlanHdr.fileEnd (h : PlanHdr) : Nat := h.sections.foldl (fun a x => max a (x.1 + x.2)) 0x100

/-- No two sections overlap. -/
def sectionsApart : List (Nat × Nat) → Bool
  | [] => true
  | a :: r => r.all (fun b => decide (a.1 + a.2 ≤ b.1) || decide (b.1 + b.2 ≤ a.1)) && sectionsApart r

/-- BAD_HEADER: magic, version, reserved fields, alignment and place of the sections, reserved bits of phase entries. -/
def State.planHeaderOk (s : State) (a : Nat) : Bool :=
  let h := s.planHdr a
  decide (s.le a 4 = 0x4E4C_5058) && decide (s.le (a + 4) 2 = 1) && decide (s.le (a + 6) 2 = 0) &&
    decide (s.le (a + 0x38) 8 = 0) && decide (s.le (a + 0x54) 44 = 0) && decide (s.le (a + 0xC0) 64 = 0) &&
    decide (h.phaseOff % 64 = 0) && decide (h.templateOff % 64 = 0) && decide (h.substOff % 64 = 0) &&
    h.sections.all (fun x => decide (0x100 ≤ x.1)) && sectionsApart h.sections &&
    (List.range h.phases).all (fun i => decide (bits (s.le (a + h.phaseOff + 8 * i) 8) 34 30 = 0))

/-- LIMIT: every count in its range (R97), and scratch for the step table and row token list (R352). -/
def PlanHdr.inLimits (h : PlanHdr) : Bool :=
  decide (1 ≤ h.templates ∧ h.templates ≤ 65536) && decide (1 ≤ h.counters ∧ h.counters ≤ 4096) &&
    decide (1 ≤ h.phases ∧ h.phases ≤ 64) && decide (1 ≤ h.group ∧ h.group ≤ 16) && decide (h.substs ≤ 262144) &&
    decide (1 ≤ h.maxSeqs ∧ h.maxSeqs ≤ 4096) && decide (1 ≤ h.maxRows ∧ h.maxRows ≤ 65536) &&
    decide (h.scratch % 64 = 0) && decide (64 + 32 * h.maxSeqs + 4 * h.maxRows ≤ h.scratch)

/-- SEAL_DENIED (R98, R499). -/
def State.planSealOk (s : State) (p a : Nat) : Bool :=
  match s.get secU (Reg.sec.partSealState.at p) with
  | 0 => true
  | 2 => (s.secPart p).plans.contains a
  | _ => false

/-- RESOURCES: enough units of every class, and the group size (R97, R98). -/
def State.planResourcesOk (s : State) (p a : Nat) : Bool :=
  (List.range 10).all (fun c => decide (s.le (a + 0x40 + 2 * c) 2 ≤ s.classCount p c)) &&
    decide ((s.planHdr a).group = s.groupSize p)

/-- BAD_TEMPLATE for one template (R98). -/
def State.tmplOk (s : State) (p : Nat) (h : PlanHdr) (t : Tmpl) : Bool :=
  decide (t.eclass ≤ 10) && decide (t.bpp ≠ 3) && decide (bits t.hdr 28 4 = 0) &&
    (t.eclass == 10 || decide (t.unit + t.spanM1 < s.classCount p t.eclass)) && decide (t.phase < h.phases) &&
    (t.waitValue == 0 || decide (t.waitId < h.counters)) && (t.sigInc == 0 || decide (t.sigId < h.counters)) &&
    (t.eclass != 10 || (t.phase == 0 && t.unit == 0 && t.spanM1 == 0 && leNat t.ops == 0))

/-- BAD_SUBST for one entry (R99): index in range, not DLR-class, offset and width, a defined source, reserved bits. -/
def substOk (ts : List Tmpl) (e : Nat) : Bool :=
  let off := bits e 16 6
  let w := 2 ^ bits e 22 2
  let src := bits e 24 8
  (match ts[bits e 0 16]? with | some t => t.eclass != 10 | none => false) &&
    decide (16 ≤ off) && decide (off + w ≤ 64) && decide (1 ≤ src ∧ src ≤ 0x0A) && decide (bits e 38 26 = 0)

/-- The list rises: substitution entries are sorted by template. -/
def rising : List Nat → Bool
  | [] => true
  | [_] => true
  | a :: b :: r => decide (a ≤ b) && rising (b :: r)

/-- Units of a class that a template's lanes address. -/
def Tmpl.units (t : Tmpl) : List (Nat × Nat) := (List.range (t.spanM1 + 1)).map (fun l => (t.eclass, t.unit + l))

/-- HOLD_CHAIN (R90): the chain length of every unit, walked in template order; true while no chain is too long or open at
the end. `open'` holds each unit's running chain. -/
def holdChains : List Tmpl → List ((Nat × Nat) × Nat) → Bool
  | [], open' => open'.isEmpty
  | t :: r, open' =>
    if t.eclass = 10 then holdChains r open'
    else
      let len (u : Nat × Nat) : Nat := ((open'.find? (fun x => x.1 == u)).map (fun x => x.2)).getD 0
      let rest := open'.filter (fun x => !t.units.contains x.1)
      if t.units.any (fun u => decide (64 < len u + 1)) then false
      else holdChains r (if t.bpp = 1 then t.units.map (fun u => (u, len u + 1)) ++ rest else rest)

/-- NO_STEP_END: STEP_END is the last template and no other. -/
def stepEndOk (ts : List Tmpl) : Bool :=
  let is (t : Tmpl) : Bool := t.eclass == 10 && t.opcode == 1
  (match ts.getLast? with | some t => is t | none => false) && ts.dropLast.all (fun t => !is t)

/-- What templates add to a counter: SIG_INC for each lane. -/
def sigSum (ts : List Tmpl) (c : Nat) : Nat :=
  ts.foldl (fun a t => if t.sigId = c ∧ t.sigInc ≠ 0 then a + t.sigInc * (t.spanM1 + 1) else a) 0

/-- UNREACHABLE_WAIT: earlier templates add at least the wait value. -/
def waitsReachable : List Tmpl → List Tmpl → Bool
  | _, [] => true
  | seen, t :: r => (t.waitValue == 0 || decide (t.waitValue ≤ sigSum seen t.waitId)) && waitsReachable (seen ++ [t]) r

/-- The result of loading the file at a DGA into plan slot `ps` of partition p (R98): the first failure in the rule's order. -/
def State.planResult (s : State) (p ps dga : Nat) : Nat :=
  let a := dgaKey dga
  let h := s.planHdr a
  let inPlace (n : Nat) : Bool := s.inRegion p (dgaOff dga) n
  let ts := s.tmpls a
  let es := (List.range h.substs).map (s.subst a)
  if !dgaFormed dga || dgaNode dga != s.node || dgaSpace dga != 0 || dga % 64 != 0 || !inPlace 256 then 13
  else if s.anyPoison a 256 then 14
  else if !s.planHeaderOk a then 1
  else if !h.inLimits then 3
  else if !inPlace h.fileEnd then 13
  else if !s.planSealOk p a then 12
  else if (s.part p).plans.any (fun x => x.1 == ps) ||
      decide (16 ≤ ((List.range 8).map (fun q => (s.part q).plans.length)).foldl (· + ·) 0) then 4
  else if !s.planResourcesOk p a then 5
  else if s.anyPoison a h.fileEnd then 14
  else if sha512 (s.bytes (a + 0x100) (h.fileEnd - 0x100)) != s.bytes (a + 0x80) 64 then 2
  else if !ts.all (s.tmplOk p h) then 6
  else if !(es.all (substOk ts) && rising (es.map (fun e => bits e 0 16))) then 9
  else if !holdChains ts [] then 10
  else if !stepEndOk ts then 11
  else if !waitsReachable [] ts then 7
  else if (List.range h.counters).any (fun c => decide (0xFFFF_FFFF < sigSum ts c)) then 8
  else 0

/-- Who may write the DLR page: a VF reads it only (R33). -/
def notVf : Src → Bool
  | .vf _ => false
  | _ => true

/-- PLAN.LOAD (R98, R370): the write carries PART and PSLOT; the file at PLAN.ADDR is judged in place. -/
def execPlanLoad (src : Src) (part pslot : Nat) (s : State) : Host.Outcome State Fault Refusal :=
  if !notVf src then .next s
  else .next (
    let s0 := (s.put dlrU Reg.dlr.planPart part).put dlrU Reg.dlr.planPslot pslot
    let addr := s0.get dlrU Reg.dlr.planAddr
    let r := s0.planResult part pslot addr
    let s1 := s0.put dlrU Reg.dlr.planResult r
    if r = 0 then
      (s1.put dlrU Reg.dlr.planPresent (s1.get dlrU Reg.dlr.planPresent ||| 2 ^ (4 * part + pslot))).setPart part
        (fun x => { x with plans := (pslot, dgaKey addr) :: x.plans, mismatched := x.mismatched.filter (fun m => m != pslot) })
    else s1)

/-- PLAN.UNLOAD (R98): the unload of a slot begins; BUSY stays set until the slot's last step has ended. -/
def execPlanUnload (src : Src) (part pslot : Nat) (s : State) : Host.Outcome State Fault Refusal :=
  if !notVf src then .next s
  else .next (
    let s0 := (s.put dlrU Reg.dlr.planPart part).put dlrU Reg.dlr.planPslot pslot
    if (s0.part part).plans.any (fun x => x.1 == pslot) && !(s0.part part).unloading.contains pslot then
      (s0.put dlrU Reg.dlr.planBusy 1).setPart part (fun x => { x with unloading := pslot :: x.unloading })
    else s0)

/-- Removes a plan from its slot. -/
def State.dropPlan (s : State) (p ps : Nat) : State :=
  let s0 := { s with pred := s.pred.filter (fun r => !(r.part == p && r.pslot == ps)) }
  let s1 := s0.setPart p (fun x =>
    { x with plans := x.plans.filter (fun y => y.1 != ps), unloading := x.unloading.filter (fun y => y != ps) })
  let s2 := s1.put dlrU Reg.dlr.planPresent
    ((s1.get dlrU Reg.dlr.planPresent) &&& (0xFFFF_FFFF - 2 ^ (4 * p + ps)))
  if (List.range 8).all (fun q => (s2.part q).unloading.isEmpty) then s2.put dlrU Reg.dlr.planBusy 0 else s2

/-- The unload of a plan ends once no uncommitted step uses it (R98). -/
def execPlanUnloadDone (part pslot : Nat) (s : State) : Host.Outcome State Fault Refusal :=
  .next (
    let used := match (s.part part).step with | some st => st.pslot == pslot | none => false
    if (s.part part).unloading.contains pslot && !used then s.dropPlan part pslot else s)

/-- A field value of R99. -/
structure SubstSrc where
  table : Nat
  seqs : Nat
  decodeSeqs : Nat
  prefillRows : Nat
  rows : Nat
  number : Nat
  scratch : Nat
  member : Nat
  owned : Nat
  attempt : Nat
  deriving DecidableEq, Repr

/-- The value of a substitution source (R99). -/
def SubstSrc.value (v : SubstSrc) : Nat → Nat
  | 1 => v.table | 2 => v.seqs | 3 => v.decodeSeqs | 4 => v.prefillRows | 5 => v.rows | 6 => v.number
  | 7 => v.scratch | 8 => v.member | 9 => v.owned | _ => v.attempt

/-- One substitution applied to a template's operand bytes (R99). -/
def applySubst (v : SubstSrc) (ops : List Byte) (e : Nat) : List Byte :=
  let off := bits e 16 6 - 16
  let w := 2 ^ bits e 22 2
  let x := v.value (bits e 24 8) * 2 ^ bits e 32 6 + bits e 64 64
  ops.take off ++ leBytes w x ++ ops.drop (off + w)

/-- A template's operand bytes with every substitution that names it applied, in table order. -/
def State.substituted (s : State) (a i : Nat) (v : SubstSrc) : List Byte :=
  (((List.range (s.planHdr a).substs).map (s.subst a)).filter (fun e => bits e 0 16 == i)).foldl (applySubst v) (s.tmpl a i).ops

end Sys2Proof.Machine
end

