-- ==== Sys2Proof/Machine/Engine.lean ====
section
/-!
DEFINITION. How an engine runs a lane (R44, R80, R86, R94, R95, R601): dispatch checks, inputs, outputs, the work, the status.
Each engine chapter gives its lanes' jobs.
-/
namespace Sys2Proof.Machine

/-- A lane as its engine sees it. -/
structure Job where
  /-- the first dispatch check that fails -/
  reject : Option Nat
  /-- ranges read and written: DGA and bytes -/
  ins : List (Nat × Nat)
  outs : List (Nat × Nat)
  /-- the work: the state after it, the status it would end with, and whether that status poisons the outputs -/
  run : State → State × Nat
  /-- the work itself marks the outputs of a part that ends badly -/
  marks : Bool := false
  /-- ranges read by multicast, which a read in flight for another lane may join (R108) -/
  shared : List (Nat × Nat) := []
  /-- ranges that are read and written in place (R116, R164) -/
  inPlace : List (Nat × Nat) := []
  /-- the status that the lane ends with once it has run, whatever it met (R165) -/
  last : Option Nat := none

/-- A job that is rejected. -/
def Job.bad (st : Nat) (outs : List (Nat × Nat)) : Job := { reject := some st, ins := [], outs := outs, run := fun s => (s, st) }

/-- Everything that a job reads. -/
def Job.reads (j : Job) : List (Nat × Nat) := j.ins ++ j.shared ++ j.inPlace

/-- Two ranges meet. -/
def rangesMeet (a b : Nat × Nat) : Bool := Nat.blt a.1 (b.1 + b.2) && Nat.blt b.1 (a.1 + a.2) && Nat.blt 0 a.2 && Nat.blt 0 b.2

/-- An output range of a command's lanes overlaps an input range that it may not overlap (R116, R143, R164, R295). -/
def lanesClash (js : List Job) : Bool :=
  let ins := js.flatMap (fun j => j.ins ++ j.shared)
  js.any (fun j => j.outs.any (fun o => ins.any (rangesMeet o)))

/-- Bytes rounded up to 64. -/
def up64 (n : Nat) : Nat := (n + 63) / 64 * 64

/-- Work units of a lane (R142, R167): ⌊l × I / S⌋ to ⌊(l + 1) × I / S⌋ − 1. -/
def Lane.share (l : Lane) (n : Nat) : Nat × Nat :=
  (l.lane * n / (l.spanM1 + 1), (l.lane + 1) * n / (l.spanM1 + 1))

/-- Bank class of a unit's requests (R254). -/
def blkClass : Blk → Nat
  | .mt => clsMt
  | .ae | .ew | .shf | .xr | .smp => clsEng
  | .uc => clsUc
  | .dma | .ce => clsMove
  | _ => clsSys

/-- Reads ranges by multicast: a read that joins one in flight is not made again at the memory, and is counted (R108, R131). Which ones
find such a read is a matter of time, and free. -/
def State.readShared (s : State) (u : UnitId) (k : Nat) (rs : List (Nat × Nat)) : State × Bool :=
  rs.foldl (fun (r : State × Bool) i =>
    (linesOf (bits i.1 0 50) i.2).foldl (fun (r : State × Bool) l =>
      let w := within l (bits i.1 0 50) i.2
      let f := r.1.fresh
      let m := if f.1 % 2 = 1 then ((f.2.count u 7 1).meet l w.1 w.2) else f.2.readLine k l w.1 w.2
      (m.1, r.2 || m.2)) r) (s, false)

/-- A job reads its inputs. -/
def Job.read (j : Job) (u : UnitId) (k : Nat) (s : State) : State × Bool :=
  let a := s.readAll k (j.ins ++ j.inPlace)
  let b := a.1.readShared u k j.shared
  (b.1, a.2 || b.2)

/-- Fills ranges with free bytes: what they hold is unspecified (R116, R164, R295). -/
def State.blur (s : State) (outs : List (Nat × Nat)) : State :=
  outs.foldl (fun t o => (linesOf (dgaKey o.1) o.2).foldl (fun (t : State) l =>
    if t.sealedLine l || t.lost l then t
    else
      let w := within l (dgaKey o.1) o.2
      let f := t.freshBytes w.2
      f.2.store w.1 f.1) t) s

/-- Runs a job on a unit whose requests have bank class k: a rejected lane does no work and poisons its outputs; a lane with a poisoned
input runs and poisons them; an error inside the command, or one that its reads meet, poisons them too (R94, R123, R601). A lane that
meets both a poisoned input and an uncorrectable error ends DATA_ERROR, and one whose own hardware fails ends with that code: the
spec does not say which status goes first (DESIGN CHOICE, log entry 153). `clash`: ranges of the command overlap, so that its outputs
hold unspecified values. -/
def Job.perform (j : Job) (u : UnitId) (l : Lane) (ev : LaneEv) (clash : Bool) (s : State) : Nat × State :=
  match j.reject with
  | some st => (st, s.poisonOuts l.part j.outs)
  | none =>
    let m := j.read u (blkClass u.blk) s
    let bad := m.1.poisonedIn j.reads
    let r0 := j.run m.1
    let r := if clash then (r0.1.blur j.outs, r0.2) else r0
    match j.last.or (if m.2 || r.1.writesFail j.outs then some 0x03 else ev.err) with
    | some e => (e, r.1.poisonOuts l.part j.outs)
    | none =>
      if bad then (0x02, r.1.poisonOuts l.part j.outs)
      else if poisoning r.2 && !j.marks then (r.2, r.1.poisonOuts l.part j.outs)
      else (r.2, r.1)

/-- A job waits: a line that it reads or writes is held at its bank, device or port (R258, R286). -/
def Job.waits (j : Job) (s : State) : Bool := j.reject.isNone && s.heldIn (j.reads ++ j.outs)

/-- The jobs of all the lanes of a lane's command. -/
def Lane.peers (l : Lane) (job : Lane → Job) : List Job := (List.range (l.spanM1 + 1)).map (fun i => job { l with lane := i })

/-- Runs the head lane of a unit when its opcode is one that a command row covers. It waits while a line it needs is held. -/
def State.runJob (s : State) (u : UnitId) (covers : Nat → Bool) (ev : LaneEv) (job : State → Lane → Job) : State :=
  match (s.unit u).queue with
  | [] => s
  | l :: _ =>
    if !covers l.opcode || (job s l).waits s then s
    else
      s.runLane u (fun l s =>
        let r := (job s l).perform u l ev (lanesClash (l.peers (job s))) s
        (r.1, r.2.sawPoison u r.1 (job s l).outs))

/-! ## Dispatch checks of a record that an operand addresses (R114, R143, R163) -/

/-- The check of the address of a record of n bytes: aligned to 64 bytes, in space 0 or 1 of this module, in the partition. -/
def State.addr64 (s : State) (p a n : Nat) : Option Nat :=
  if a % 64 ≠ 0 then some 5 else s.checkAddr p a (max 1 n) [0, 1] false

/-- A field of the record at an address: the fields of a record that fails its check are not read, and count as zero (log entry 39). -/
def State.recField (s : State) (ok : Bool) (a o n : Nat) : Nat := if ok then s.le (dgaKey a + o) n else 0

/-- A unit corrects errors of its buffers: the counter, BUF_CORRECTED or its like, and the hourly threshold (R603). -/
def State.correct (s : State) (u : UnitId) (k n : Nat) : State :=
  if n = 0 then s else ((s.count u k n).irq u (2 ^ 16)).note u 3 n

/-- Writes packed codes at a memory key for a requester of class k; the unused bits of a last partial byte keep what they held (R122). -/
def State.writeCodes (s : State) (k a b : Nat) (cs : List Nat) (pack : Nat → List Nat → List Byte) : State :=
  let d := pack b cs
  let used := b * cs.length % 8
  if used = 0 then s.writeMem k a d false
  else
    let n := d.length - 1
    let old := (s.byte (a + n)).toNat
    s.writeMem k a (d.take n ++ [BitVec.ofNat 8 (old / 2 ^ used * 2 ^ used + leNat (d.drop n))]) false

/-- The dispatch check of an address that may be 0 for none. -/
def State.addr64? (s : State) (p a n : Nat) : Option Nat := if a = 0 then none else s.addr64 p a n

/-- BAD_OPERAND unless a condition holds. -/
def need (b : Bool) : Option Nat := if b then none else some 5

/-- Bytes of a list of ranges. -/
def rangeBytes (l : List (Nat × Nat)) : Nat := l.foldl (fun a r => a + r.2) 0

/-- Bytes that n rows of a stride span when each takes len. -/
def extent (rows stride len : Nat) : Nat := if rows = 0 then 1 else (rows - 1) * stride + len

end Sys2Proof.Machine
end

