-- ==== Sys2Proof/Machine/Numeric.lean ====
section
/-!
DEFINITION. Numeric formats and arithmetic (chapter 3): exact values of codes, one rounding to each format, exact sums and
products, block scales, packing of narrow elements, the two ways of rounding. A meaning computes exactly and rounds once where
the spec says so.
-/
namespace Sys2Proof.Machine

/-! ## Exact values -/

/-- A decoded number: ± m × 2^e, an infinity or a NaN. -/
inductive Fp where
  | nan (neg : Bool)
  | inf (neg : Bool)
  | fin (neg : Bool) (m : Nat) (e : Int)
  deriving DecidableEq, Repr

/-- Element formats (R51, R54). -/
inductive Fmt where
  | fp32 | bf16 | fp16 | e4m3 | e5m2 | e3m2 | e2m3 | e2m1 | int8 | int4
  deriving DecidableEq, Repr

/-- Bits of an element. -/
def Fmt.width : Fmt → Nat
  | .fp32 => 32 | .bf16 => 16 | .fp16 => 16 | .e4m3 => 8 | .e5m2 => 8 | .e3m2 => 6 | .e2m3 => 6 | .e2m1 => 4 | .int8 => 8 | .int4 => 4

/-- Mantissa bits (R51). -/
def Fmt.mant : Fmt → Nat
  | .fp32 => 23 | .bf16 => 7 | .fp16 => 10 | .e4m3 => 3 | .e5m2 => 2 | .e3m2 => 2 | .e2m3 => 3 | .e2m1 => 1 | _ => 0

/-- Exponent bias (R51). -/
def Fmt.bias : Fmt → Nat
  | .fp32 => 127 | .bf16 => 127 | .fp16 => 15 | .e4m3 => 7 | .e5m2 => 15 | .e3m2 => 3 | .e2m3 => 1 | .e2m1 => 1 | _ => 0

/-- The largest finite code without sign (R52). -/
def Fmt.maxCode : Fmt → Nat
  | .fp32 => 0x7F7F_FFFF | .bf16 => 0x7F7F | .fp16 => 0x7BFF | .e4m3 => 0x7E | .e5m2 => 0x7B | .e3m2 => 0x1F | .e2m3 => 0x1F
  | .e2m1 => 7 | .int8 => 127 | .int4 => 7

/-- The format has infinities (R51). -/
def Fmt.hasInf : Fmt → Bool
  | .fp32 => true | .bf16 => true | .fp16 => true | .e5m2 => true | _ => false

/-- The canonical positive NaN, where the format has one (R53). -/
def Fmt.nanCode : Fmt → Option Nat
  | .fp32 => some 0x7FC0_0000 | .bf16 => some 0x7FC0 | .fp16 => some 0x7E00 | .e4m3 => some 0x7F | .e5m2 => some 0x7E | _ => none

/-- An integer format. -/
def Fmt.isInt : Fmt → Bool
  | .int8 => true | .int4 => true | _ => false

/-- The exponent of a format's least subnormal. -/
def Fmt.emin (f : Fmt) : Int := 1 - (f.bias : Int) - (f.mant : Int)

/-- The value of a code (R51, R52, R54). -/
def Fmt.decode (f : Fmt) (code : Nat) : Fp :=
  let c := code % 2 ^ f.width
  let neg := bit c (f.width - 1)
  if f.isInt then (if neg then .fin true (2 ^ f.width - c) 0 else .fin false c 0)
  else
    let a := c % 2 ^ (f.width - 1)
    let ex := a / 2 ^ f.mant
    let mt := a % 2 ^ f.mant
    if f.maxCode < a then (if f.hasInf && mt == 0 then .inf neg else .nan neg)
    else if ex = 0 then .fin neg mt f.emin
    else .fin neg (2 ^ f.mant + mt) (f.emin + (ex : Int) - 1)

/-- Exponent of the leading bit of m × 2^e. -/
def leadExp (m : Nat) (e : Int) : Int := e + (Nat.log2 m : Int)

/-- m × 2^e in units of 2^q, rounded to nearest, ties to even. -/
def roundUnits (m : Nat) (e q : Int) : Nat :=
  if q ≤ e then m * 2 ^ (e - q).toNat
  else
    let k := (q - e).toNat
    let r := m / 2 ^ k
    let rem := m % 2 ^ k
    if 2 ^ k < 2 * rem ∨ (2 * rem = 2 ^ k ∧ r % 2 = 1) then r + 1 else r

/-- m × 2^e in units of 2^q under stochastic rounding with draw r (R74): the 12 bits below the last retained one decide. -/
def roundStoch (m : Nat) (e q : Int) (r : Nat) : Nat :=
  if q ≤ e then m * 2 ^ (e - q).toNat
  else
    let k := (q - e).toNat
    let f := m * 4096 / 2 ^ k % 4096
    if 4096 ≤ f + r then m / 2 ^ k + 1 else m / 2 ^ k

/-- A converted element: its code, and whether it was saturated (R71, R75). -/
structure Conv where
  code : Nat
  sat : Bool
  nan : Bool
  deriving DecidableEq, Repr

/-- A signed code. -/
def signed (f : Fmt) (neg : Bool) (a : Nat) : Nat := if neg then a + 2 ^ (f.width - 1) else a

/-- What a magnitude beyond the finite range becomes (R71). -/
def overflowed (f : Fmt) (sat neg : Bool) : Conv :=
  if f.hasInf && !sat then ⟨signed f neg (f.maxCode + 1), false, false⟩ else ⟨signed f neg f.maxCode, true, false⟩

/-- Conversion of an exact value to a format (R70, R71, R74). `draw` is the 12-bit draw of stochastic rounding. -/
def Fmt.convert (f : Fmt) (sat : Bool) (draw : Option Nat) (x : Fp) : Conv :=
  let units (m : Nat) (e q : Int) : Nat := match draw with | none => roundUnits m e q | some r => roundStoch m e q r
  if f.isInt then
    match x with
    | .nan _ => ⟨0, false, false⟩
    | .inf neg => ⟨if neg then 2 ^ (f.width - 1) else f.maxCode, true, false⟩
    | .fin neg m e =>
      let n := units m e 0
      if neg then (if f.maxCode + 1 < n then ⟨2 ^ (f.width - 1), true, false⟩ else ⟨(2 ^ f.width - n) % 2 ^ f.width, false, false⟩)
      else (if f.maxCode < n then ⟨f.maxCode, true, false⟩ else ⟨n, false, false⟩)
  else
    match x with
    | .nan neg => ⟨signed f neg (f.nanCode.getD 0), false, true⟩
    | .inf neg => overflowed f sat neg
    | .fin neg m e =>
      if m = 0 then ⟨signed f neg 0, false, false⟩
      else
        let q := max (leadExp m e - (f.mant : Int)) f.emin
        let c := (q - f.emin).toNat * 2 ^ f.mant + units m e q
        if f.maxCode < c then overflowed f sat neg else ⟨signed f neg c, false, false⟩

/-- Rounds an exact value to FP32, to nearest even: the bit pattern. -/
def rne32 (x : Fp) : Nat := (Fmt.fp32.convert false none x).code

/-- The value of an FP32 bit pattern. -/
def dec32 (c : Nat) : Fp := Fmt.fp32.decode c

/-! ## Exact arithmetic with the special values of IEEE 754 (R68) -/

/-- Sign of a value. -/
def Fp.neg? : Fp → Bool
  | .nan n => n | .inf n => n | .fin n _ _ => n

/-- A NaN. -/
def Fp.isNan : Fp → Bool
  | .nan _ => true | _ => false

/-- Finite. -/
def Fp.isFin : Fp → Bool
  | .fin _ _ _ => true | _ => false

/-- Zero of either sign. -/
def Fp.isZero : Fp → Bool
  | .fin _ m _ => m == 0 | _ => false

/-- Zero and one. -/
def Fp.zero : Fp := .fin false 0 0
def Fp.one : Fp := .fin false 1 0

/-- A signed mantissa. -/
def sgn (neg : Bool) (m : Nat) : Int := if neg then -(m : Int) else m

/-- A finite value of an integer mantissa; zero is positive. -/
def ofSgn (m : Int) (e : Int) : Fp := .fin (decide (m < 0)) m.natAbs e

/-- Negation, absolute value. -/
def Fp.negate : Fp → Fp
  | .nan n => .nan (!n) | .inf n => .inf (!n) | .fin n m e => .fin (!n) m e
def Fp.abs : Fp → Fp
  | .nan _ => .nan false | .inf _ => .inf false | .fin _ m e => .fin false m e

/-- Exact sum. A NaN keeps the sign of the operand that is one; of two, that of the first: the rule speaks of one (R53; DESIGN CHOICE, log
entry 151). -/
def Fp.add : Fp → Fp → Fp
  | .nan n, _ => .nan n
  | _, .nan n => .nan n
  | .inf a, .inf b => if a = b then .inf a else .nan false
  | .inf a, _ => .inf a
  | _, .inf b => .inf b
  | .fin a m e, .fin b n f =>
    if m = 0 ∧ n = 0 then .fin (a && b) 0 0
    else
      let q := min e f
      ofSgn (sgn a m * 2 ^ (e - q).toNat + sgn b n * 2 ^ (f - q).toNat) q

/-- Exact difference. A NaN subtrahend keeps its sign (R53). -/
def Fp.sub (a b : Fp) : Fp := a.add (if b.isNan then b else b.negate)

/-- Exact product. -/
def Fp.mul : Fp → Fp → Fp
  | .nan n, _ => .nan n
  | _, .nan n => .nan n
  | .inf a, .inf b => .inf (a != b)
  | .inf a, .fin b m _ => if m = 0 then .nan false else .inf (a != b)
  | .fin a m _, .inf b => if m = 0 then .nan false else .inf (a != b)
  | .fin a m e, .fin b n f => .fin (a != b) (m * n) (e + f)

/-- Exact product with a power of two. -/
def Fp.scale (x : Fp) (k : Int) : Fp :=
  match x with
  | .fin a m e => .fin a m (e + k)
  | y => y

/-- A quotient carried to 64 bits beyond the divisor with a sticky last bit: rounding it to a format of at most 24 mantissa bits
rounds the exact quotient. -/
def Fp.div : Fp → Fp → Fp
  | .nan n, _ => .nan n
  | _, .nan n => .nan n
  | .inf _, .inf _ => .nan false
  | .inf a, .fin b _ _ => .inf (a != b)
  | .fin a _ _, .inf b => .fin (a != b) 0 0
  | .fin a m e, .fin b n f =>
    if n = 0 then (if m = 0 then .nan false else .inf (a != b))
    else
      let k := 64 + Nat.log2 n
      let q := m * 2 ^ k / n
      let r := m * 2 ^ k % n
      .fin (a != b) (2 * q + (if r = 0 then 0 else 1)) (e - f - (k : Int) - 1)

/-- Strict order of the extended reals; false on NaN. -/
def Fp.lt : Fp → Fp → Bool
  | .nan _, _ => false
  | _, .nan _ => false
  | .inf a, .inf b => a && !b
  | .inf a, .fin _ _ _ => a
  | .fin _ _ _, .inf b => !b
  | .fin a m e, .fin b n f =>
    let q := min e f
    decide (sgn a m * 2 ^ (e - q).toNat < sgn b n * 2 ^ (f - q).toNat)

/-- At most. -/
def Fp.le (a b : Fp) : Bool := !a.isNan && !b.isNan && !b.lt a

/-- Equal as numbers. -/
def Fp.eqv (a b : Fp) : Bool := a.le b && b.le a

/-- The larger of two numbers; a NaN yields the other. -/
def Fp.max (a b : Fp) : Fp := if a.isNan then b else if b.isNan then a else if a.lt b then b else a

/-! FP32 operations on bit patterns, each rounded once. -/
/-- a + b -/ def add32 (a b : Nat) : Nat := rne32 ((dec32 a).add (dec32 b))
/-- a − b -/ def sub32 (a b : Nat) : Nat := rne32 ((dec32 a).sub (dec32 b))
/-- a × b -/ def mul32 (a b : Nat) : Nat := rne32 ((dec32 a).mul (dec32 b))
/-- a ÷ b -/ def div32 (a b : Nat) : Nat := rne32 ((dec32 a).div (dec32 b))
/-- a × b + c, rounded once -/ def fma32 (a b c : Nat) : Nat := rne32 (((dec32 a).mul (dec32 b)).add (dec32 c))

/-! ## Block scales (R55, R56, R72) -/

/-- The factor of an E8M0 scale applied to a value; 0xFF is NaN. -/
def scaled (code : Nat) (x : Fp) : Fp := if code = 0xFF then .nan false else x.scale ((code : Int) - 127)

/-- Exponent of a target's largest power of two (R72). -/
def Fmt.emax : Fmt → Int
  | .e4m3 => 8 | .e5m2 => 15 | .e3m2 => 4 | .e2m3 => 2 | .e2m1 => 2 | _ => 0

/-- The largest finite magnitude of a list of values. -/
def amaxOf : List Fp → Fp
  | [] => .zero
  | x :: r => if x.isFin then (x.abs).max (amaxOf r) else amaxOf r

/-- ⌊log2 x⌋ of a positive finite value. -/
def floorLog2 : Fp → Int
  | .fin _ m e => leadExp m e
  | _ => 0

/-- The scale exponent of a block: FLOOR or CEIL mode. -/
def scaleExp (f : Fmt) (ceil : Bool) (amax : Fp) : Int :=
  if ceil then
    let big := f.decode f.maxCode
    let e := floorLog2 amax - floorLog2 big
    if amax.le (big.scale e) then e else e + 1
  else floorLog2 amax - f.emax

/-- The scale exponent e of a block (R72), `more` binades of headroom added: none for an FP6 or FP4 block with a non-finite element, and 0
where no finite element is other than zero. -/
def blockExp (f : Fmt) (ceil : Bool) (more : Nat) (vals : List Fp) : Option Int :=
  if decide (f.width < 8) && vals.any (fun x => !x.isFin) then none
  else
    let a := amaxOf vals
    if a.isZero then some 0 else some (scaleExp f ceil a + more)

/-- The stored scale: e + 127, clamped to 0x00 to 0xFE; 0xFF where there is no e. -/
def storedScale : Option Int → Nat
  | none => 0xFF
  | some e => (max 0 (min 254 (e + 127))).toNat

/-- One element of a block: divided by 2^e and converted, whatever the stored scale is clamped to (R72). -/
def blockElem (f : Fmt) (sat : Bool) (draw : Option Nat) (e : Option Int) (x : Fp) : Conv :=
  match e with
  | none => if f.width < 8 then ⟨0, false, true⟩ else f.convert sat draw (.nan false)
  | some e => f.convert sat draw (x.scale (-e))

/-! ## Elements in memory (R49, R50) -/

/-- Element p of a packed array of b-bit elements at a memory key. -/
def State.elem (s : State) (a b p : Nat) : Nat := bits (s.le (a + b * p / 8) 5) (b * p % 8) b

/-- The value of element p of an array in a format. -/
def State.val (s : State) (f : Fmt) (a p : Nat) : Fp := f.decode (s.elem a f.width p)

/-- The number that codes of b bits form as a little-endian bit stream. -/
def packNum (b : Nat) : List Nat → Nat
  | [] => 0
  | c :: r => c % 2 ^ b + 2 ^ b * packNum b r

/-- The bytes of a packed row. -/
def packCodes (b : Nat) (cs : List Nat) : List Byte := leBytes ((b * cs.length + 7) / 8) (packNum b cs)

/-- Draws for stochastic rounding: one of 12 bits per element from the free values, or none (R74). -/
def State.draws (s : State) (sr : Bool) (n : Nat) : List (Option Nat) × State :=
  if sr then ((List.range n).map (fun i => some ((Config.freeValue (s.freeIdx + i)).toNat % 4096)), { s with freeIdx := s.freeIdx + n })
  else (List.replicate n none, s)

/-- Converts a row of values, unscaled. -/
def convRow (f : Fmt) (sat : Bool) (xs : List Fp) (ds : List (Option Nat)) : List Conv :=
  (xs.zip ds).map (fun x => f.convert sat x.2 x.1)

/-- Cuts a list into pieces of n. -/
def pieces {α : Type} (n : Nat) : Nat → List α → List (List α)
  | 0, _ => []
  | k + 1, l => if l.isEmpty then [] else l.take n :: pieces n k (l.drop n)

/-- Converts a row of values in blocks of 32: the stored scales and the elements. -/
def convBlocks (f : Fmt) (sat ceil : Bool) (xs : List Fp) (ds : List (Option Nat)) : List Nat × List Conv :=
  let bs := pieces 32 xs.length xs
  let es := bs.map (blockExp f ceil 0)
  (es.map storedScale,
    ((bs.zip es).zip (pieces 32 xs.length ds)).flatMap (fun b => (b.1.1.zip b.2).map (fun x => blockElem f sat x.2 b.1.2 x.1)))

/-- Elements saturated, as a unit counts them (R75). -/
def satCount (cs : List Conv) : Nat := (cs.filter (fun c => c.sat)).length

/-- NaN elements written, as a unit counts them (R75): an FP6 or FP4 block with scale 0xFF counts as 32 elements, a partial one too. -/
def nanCount (f : Fmt) (scs : List Nat) (cs : List Conv) : Nat :=
  if f.width < 8 then 32 * (scs.filter (fun c => c == 0xFF)).length else (cs.filter (fun c => c.nan)).length

/-! ## Sums of the arrays (R65 to R68) -/

/-- The exact sum of a list. -/
def exactSum : List Fp → Fp
  | [] => .zero
  | x :: r => x.add (exactSum r)

/-- Exponent of the leading bit of a product, for the alignment of R66. -/
def leadOf : Fp → Option Int
  | .fin _ m e => if m = 0 then none else some (leadExp m e)
  | _ => none

/-- Drops the bits of a product more than 48 places below an exponent, without rounding (R66). -/
def dropBelow (top : Int) : Fp → Fp
  | .fin n m e => let q := top - 48; if q ≤ e then .fin n m e else .fin n (m / 2 ^ (q - e).toNat) q
  | x => x

/-- The sum of up to 32 products: exact for narrow pairs, aligned for 16-bit pairs. -/
def blockSum (wide : Bool) (ps : List Fp) : Fp :=
  if wide then
    match (ps.filterMap leadOf).max? with
    | none => exactSum ps
    | some t => exactSum (ps.map (dropBelow t))
  else exactSum ps

/-- A block partial (R65 steps 1 to 4) from decoded operand pairs and the two scales. -/
def blockPartial (wide : Bool) (ps : List (Fp × Fp)) (sw sa : Nat) : Nat :=
  if sw = 0xFF ∨ sa = 0xFF then rne32 (.nan false)
  else rne32 ((blockSum wide (ps.map (fun x => x.1.mul x.2))).scale ((sw : Int) + (sa : Int) - 254))

/-! ## Sums whose order is open (R69) -/

/-- A list in the order that a code names: each place takes the code's next digit. -/
def permute {α : Type} : Nat → Nat → List α → List α
  | 0, _, _ => []
  | n + 1, c, l =>
    match l[c % l.length]? with
    | none => []
    | some x => x :: permute n (c / l.length) (l.eraseIdx (c % l.length))

/-- A list in an order that nothing fixes. `salt` tells the lists of one lane apart. -/
def State.anyOrder {α : Type} (s : State) (salt : Nat) (l : List α) : List α := permute l.length (Config.order s.freeIdx salt) l

/-- An FP32 sum, each addition rounded, in the order of the list. -/
def sum32 : List Nat → Nat
  | [] => 0
  | x :: r => r.foldl add32 x

/-- An FP32 sum in an order that nothing fixes. -/
def State.anySum (s : State) (salt : Nat) (l : List Nat) : Nat := sum32 (s.anyOrder salt l)

end Sys2Proof.Machine
end

