-- ==== Sys2Proof/Machine/Approx.lean ====
section
/-!
DEFINITION. The functions that R171 bounds: exp, ln, SiLU, both GELUs, 1/√v, sine and cosine, and the powers of R173. Each has a reference
value in exact integer arithmetic, far closer than any bound; the result is an FP32 number within the bound of it, and which one is a
free value of the function and its argument (log entry 11).
-/
namespace Sys2Proof.Machine

/-! ## Results within a bound -/

/-- A magnitude m × 2^e in FP32 code, rounded down or up; beyond the largest finite code it is that code, or infinity's when the value
rounds to infinity. -/
def mag32 (up : Bool) (m : Nat) (e : Int) : Nat :=
  if m = 0 then 0
  else
    let q := max (leadExp m e - 23) (-149)
    let k := (q - e).toNat
    let u := if q ≤ e then m * 2 ^ (e - q).toNat else m / 2 ^ k + (if up && m % 2 ^ k != 0 then 1 else 0)
    let c := (q + 149).toNat * 2 ^ 23 + u
    if c ≤ 0x7F7F_FFFF then c else min 0x7F80_0000 (max 0x7F7F_FFFF (rne32 (.fin false m e)))

/-- The place of a value in the order of the FP32 numbers, zero at 0: of the nearest number at or above it, or at or below it. -/
def ord32 (up : Bool) : Fp → Int
  | .fin false m e => (mag32 up m e : Int)
  | .fin true m e => -(mag32 (!up) m e : Int)
  | .inf n => if n then -0x7F80_0000 else 0x7F80_0000
  | .nan _ => 0

/-- The FP32 number at a place of the order. -/
def ofOrd32 (i : Int) : Nat := if i < 0 then 2 ^ 31 + i.natAbs else i.toNat

/-- An FP32 number no further than a bound from a value, chosen by a free number; the value rounded where FP32 has none so near. -/
def near32 (x bound : Fp) (free : Nat) : Nat :=
  let lo := ord32 true (x.sub bound)
  let hi := ord32 false (x.add bound)
  if hi < lo then rne32 x else ofOrd32 (lo + (free % ((hi - lo).toNat + 1) : Nat))

/-- 2^k. -/
def pow2 (k : Int) : Fp := .fin false 1 k

/-- A relative bound 2^−b for results of at least 2^−126, and 2^−149 below (R171), with 2^−60 for the reference's own error. -/
def relBound (b : Nat) (x : Fp) : Fp :=
  if (x.abs).lt (pow2 (-126)) then (pow2 (-149)).add (x.abs.scale (-60)) else (x.abs.scale (-(b : Int))).add (x.abs.scale (-60))

/-- An absolute bound 2^−b × max(1, |x|), likewise. -/
def absBound (b : Nat) (x : Fp) : Fp :=
  let m := Fp.one.max x.abs
  (m.scale (-(b : Int))).add (m.scale (-40))

/-- The free number of a bounded function, by its code and an FP32 argument. -/
def approx32 (f a : Nat) : Nat := (Config.approx f (BitVec.ofNat 32 a)).toNat

/-! ## Reference values: fixed point with 128 bits below the point -/

/-- ln 2. -/
def ln2Fix : Nat := 0xb17217f7d1cf79abc9e3b39803f2f6af
/-- 2π with 320 bits below the point. -/
def twoPiFix : Nat := 0x6487ed5110b4611a62633145c06e0e68948127044533e63a0105df531d89cd9128a5043cc71a026ef
/-- √(2/π) with 192 bits below the point. -/
def erfFix : Nat := 0xcc42299ea1b284687e59e2805d5c717fa7053e60a24e0db1

/-- A finite value in fixed point, rounded down. -/
def toFix : Fp → Int
  | .fin n m e => if -128 ≤ e then sgn n m * 2 ^ (e + 128).toNat else sgn n m / 2 ^ (-128 - e).toNat
  | _ => 0

/-- Σ r^i / i!, from a term on. -/
def expTail (r : Nat) : Nat → Nat → Nat → Nat
  | 0, _, _ => 0
  | f + 1, n, t => t + expTail r f (n + 1) (t * r / 2 ^ 128 / n)

/-- e^x of a fixed-point number: the series of what x leaves over a multiple of ln 2. -/
def expRef (x : Int) : Fp :=
  let k := x / (ln2Fix : Int)
  .fin false (expTail (x - k * (ln2Fix : Int)).toNat 48 1 (2 ^ 128)) (k - 128)

/-- Σ z^(2i + 1) / (2i + 1), from a term on. -/
def atanhTail (z2 : Nat) : Nat → Nat → Nat → Nat
  | 0, _, _ => 0
  | f + 1, n, t => t / (2 * n + 1) + atanhTail z2 f (n + 1) (t * z2 / 2 ^ 128)

/-- ln (m × 2^e) of a positive number, in fixed point. -/
def lnRef (m : Nat) (e : Int) : Int :=
  let k := Nat.log2 m
  let y := m * 2 ^ 128 / 2 ^ k
  let z := (y - 2 ^ 128) * 2 ^ 128 / (y + 2 ^ 128)
  (e + (k : Int)) * (ln2Fix : Int) + 2 * (atanhTail (z * z / 2 ^ 128) 48 0 z : Int)

/-- Σ (−1)^i w^i / (i! (2i + 1)) with 192 bits below the point, from a term on. -/
def erfTail (w : Nat) : Nat → Nat → Nat → Int
  | 0, _, _ => 0
  | f + 1, n, t => (t / (2 * n + 1) : Nat) - erfTail w f (n + 1) (t * w / 2 ^ 192 / (n + 1))

/-- erf (x / √2); beyond 8 it is ±1 to within 2^−49. -/
def erfRef : Fp → Fp
  | .fin n m e =>
    if (Fp.fin false 8 0).lt (.fin false m e) then .fin n 1 0
    else
      let w := toFix (.fin false (m * m) (2 * e - 1 + 64))
      (ofSgn ((erfFix : Int) * erfTail w.toNat 160 0 (2 ^ 192)) (-384)).mul (.fin n m e)
  | x => x

/-- Σ of the sine's or cosine's alternating series, from a term on. -/
def sinTail (r2 : Nat) : Nat → Nat → Nat → Int
  | 0, _, _ => 0
  | f + 1, n, t => (t : Int) - sinTail r2 f (n + 2) (t * r2 / 2 ^ 128 / ((n + 1) * (n + 2)))

/-- sin (0) or cos (1) of pos × ± m × 2^e, whose product is exact and is reduced modulo 2π (R173). -/
def trigRef (which pos : Nat) (neg : Bool) (m : Nat) (e : Int) : Fp :=
  let r := pos * m * 2 ^ (e + 320).toNat % twoPiFix / 2 ^ 192
  let r2 := r * r / 2 ^ 128
  let v := if which = 0 then sinTail r2 48 1 r else sinTail r2 48 0 (2 ^ 128)
  ofSgn (if which = 0 ∧ neg then -v else v) (-128)

/-- ⌊√n⌋, for n below 4^f. -/
def isqrt : Nat → Nat → Nat
  | 0, _ => 0
  | f + 1, n => let r := 2 * isqrt f (n / 4); if (r + 1) * (r + 1) ≤ n then r + 1 else r

/-- 1 / √(m × 2^e) of a positive number. -/
def rsqrtRef (m : Nat) (e : Int) : Fp :=
  let odd := e % 2 != 0
  .fin false (isqrt 129 (2 ^ 256 / (if odd then 2 * m else m))) (-128 - (if odd then e - 1 else e) / 2)

/-- x / (1 + e^−y): SiLU for y = x, GELU (tanh) for y = 2 u. Beyond ±256 it is x, or nothing. -/
def sigmoidRef (x y : Fp) : Fp :=
  if (Fp.fin false 256 0).lt y then x
  else if y.lt (.fin true 256 0) then .zero
  else x.div (Fp.one.add (expRef (-(toFix y))))

/-- One unit in the last place of FP32 at a value. -/
def ulp32 (x : Fp) : Fp := match x with | .fin _ m e => if m = 0 then pow2 (-149) else pow2 (max (leadExp m e - 23) (-149)) | _ => .zero

/-! ## The functions of R171 -/

/-- −Inf, +Inf and NaN of FP32. -/
def negInf32 : Nat := 0xFF80_0000
def posInf32 : Nat := 0x7F80_0000
def nan32 : Nat := 0x7FC0_0000

/-- An FP32 pattern is a NaN; is a zero. -/
def isNan32 (a : Nat) : Bool := (dec32 a).isNan
def isZero32 (a : Nat) : Bool := (dec32 a).isZero

/-- A value as a unit that only reads it writes it: a NaN in its canonical encoding, with its sign (R53). -/
def quiet32 (a : Nat) : Nat := rne32 (dec32 a)

/-- e^x: relative error 2^−22, or 2^−149 for small results. Beyond ±150 the result overflows or lies below 2^−149. -/
def exp32 (a : Nat) : Nat :=
  match dec32 a with
  | .nan _ => quiet32 a
  | .inf n => if n then 0 else posInf32
  | x =>
    let r : Fp := if (Fp.fin false 150 0).lt x then .inf false else if x.lt (.fin true 150 0) then .zero else expRef (toFix x)
    match r with
    | .fin _ _ _ => near32 r (relBound 22 r) (approx32 0 a)
    | _ => posInf32

/-- ln x: absolute error 2^−21. -/
def ln32 (a : Nat) : Nat :=
  match dec32 a with
  | .nan _ => quiet32 a
  | .inf n => if n then nan32 else posInf32
  | .fin n m e =>
    if m = 0 then negInf32
    else if n then nan32
    else near32 (ofSgn (lnRef m e) (-128)) ((pow2 (-21)).add (pow2 (-60))) (approx32 1 a)

/-- The limits of R171 around a function of finite values. -/
def limits32 (f : Fp → Nat) (a : Nat) : Nat :=
  match dec32 a with
  | .nan _ => quiet32 a
  | .inf n => if n then 0x8000_0000 else posInf32
  | x => f x

/-- SiLU: relative error 2^−19, or 2^−149 for small results. -/
def silu32 (a : Nat) : Nat := limits32 (fun x => let r := sigmoidRef x x; near32 r (relBound 19 r) (approx32 2 a)) a

/-- GELU (erf): absolute error 2^−20 × max(1, |x|). -/
def geluErf32 (a : Nat) : Nat :=
  limits32 (fun x => near32 ((x.mul (Fp.one.add (erfRef x))).scale (-1)) (absBound 20 x) (approx32 3 a)) a

/-- The argument 2 × 0.797885 (x + 0.044715 x³) of GELU (tanh), whose value is x / (1 + e^−y). -/
def geluArg (x : Fp) : Fp :=
  if (Fp.fin false 1024 0).lt x.abs then x
  else ((x.add (((x.mul x).mul x).mul ((Fp.fin false 44715 0).div (.fin false 1_000_000 0)))).mul
    ((Fp.fin false 797_885 0).div (.fin false 1_000_000 0))).scale 1

/-- GELU (tanh): absolute error 2^−20 × max(1, |x|). -/
def geluTanh32 (a : Nat) : Nat := limits32 (fun x => near32 (sigmoidRef x (geluArg x)) (absBound 20 x) (approx32 4 a)) a

/-- max(x, 0): exact. −Inf gives −0 (R171). -/
def relu32 (a : Nat) : Nat := limits32 (fun x => if x.neg? && !x.isZero then 0 else a) a

/-- 1 / √v: 1 ulp. +Inf maps to +Inf, as R171 says of every function. -/
def rsqrt32 (a : Nat) : Nat :=
  match dec32 a with
  | .nan _ => quiet32 a
  | .inf n => if n then nan32 else posInf32
  | .fin n m e =>
    if m = 0 then posInf32
    else if n then nan32
    else let r := rsqrtRef m e; near32 r ((ulp32 r).add (r.scale (-60))) (approx32 5 a)

/-- sin (0) or cos (1) of position × frequency: absolute error 2^−21. -/
def trig (which pos freq : Nat) : Nat :=
  match dec32 freq with
  | .nan _ => quiet32 freq
  | .inf _ => nan32
  | .fin n m e => near32 (trigRef which pos n m e) ((pow2 (-21)).add (pow2 (-60))) (approx32 (2 ^ 20 + pos * 2 + which) freq)

/-- θ^(−2i / d): 1 ulp (R173). A base that is not positive and finite has no such power, but for i = 0: the value is free. -/
def power32 (base i d : Nat) : Nat :=
  match dec32 base with
  | .fin false m e =>
    if m = 0 then (if i = 0 then 0x3F80_0000 else approx32 (16 + i * 512 + d) base)
    else
      let r := expRef (-(lnRef m e * (2 * i : Nat)) / (d : Int))
      near32 r ((ulp32 r).add (r.scale (-60))) (approx32 (16 + i * 512 + d) base)
  | _ => if i = 0 then 0x3F80_0000 else approx32 (16 + i * 512 + d) base

end Sys2Proof.Machine
end

