-- ==== Sys2Proof/Machine/CoreFloat.lean ====
section
/-!
DEFINITION. Floating-point arithmetic of the utility cores (R220, R222), by the rules of RISC-V: exact values, one rounding in one of the
rounding modes, subnormals kept, the canonical NaN, and the five exception flags. The rules of RISC-V themselves are PRESUMED (log entry
190): R220 names the documents that hold them.
-/
namespace Sys2Proof.Machine

/-- A binary format of a utility core: its width and its mantissa bits. -/
structure CoreFmt where
  width : Nat
  mant : Nat
  deriving DecidableEq, Repr

/-- FP32. -/
def CoreFmt.s : CoreFmt := ⟨32, 23⟩
/-- FP64. -/
def CoreFmt.d : CoreFmt := ⟨64, 52⟩
/-- BF16, which Zvfbfmin converts (R220). -/
def CoreFmt.bf : CoreFmt := ⟨16, 7⟩

/-- Exponent bias. -/
def CoreFmt.bias (f : CoreFmt) : Nat := 2 ^ (f.width - f.mant - 2) - 1

/-- Exponent of the least subnormal. -/
def CoreFmt.emin (f : CoreFmt) : Int := 1 - (f.bias : Int) - (f.mant : Int)

/-- Code of +infinity. -/
def CoreFmt.infCode (f : CoreFmt) : Nat := (2 ^ (f.width - f.mant - 1) - 1) * 2 ^ f.mant

/-- The canonical NaN (R222). -/
def CoreFmt.nanCode (f : CoreFmt) : Nat := f.infCode + 2 ^ (f.mant - 1)

/-- A code with a sign. -/
def CoreFmt.signed (f : CoreFmt) (neg : Bool) (a : Nat) : Nat := if neg then a + 2 ^ (f.width - 1) else a

/-- The value of a code. -/
def CoreFmt.decode (f : CoreFmt) (code : Nat) : Fp :=
  let neg := bit code (f.width - 1)
  let a := code % 2 ^ (f.width - 1)
  let ex := a / 2 ^ f.mant
  let mt := a % 2 ^ f.mant
  if f.infCode < a then .nan neg
  else if a = f.infCode then .inf neg
  else if ex = 0 then .fin neg mt f.emin
  else .fin neg (2 ^ f.mant + mt) (f.emin + (ex : Int) - 1)

/-- A signalling NaN. -/
def CoreFmt.snan (f : CoreFmt) (code : Nat) : Bool := (f.decode code).isNan && !bit code (f.mant - 1)

/-- Rounding modes: those of RISC-V in the order of their codes, and round-to-odd of vfncvt.rod. -/
inductive Rm where
  | rne | rtz | rdn | rup | rmm | rod
  deriving DecidableEq, Repr

/-- m × 2^e in units of 2^q, rounded, and whether it was inexact. -/
def Rm.units (rm : Rm) (neg : Bool) (m : Nat) (e q : Int) : Nat × Bool :=
  if q ≤ e then (m * 2 ^ (e - q).toNat, false)
  else
    let k := (q - e).toNat
    let r := m / 2 ^ k
    let rem := m % 2 ^ k
    if rem = 0 then (r, false)
    else
      let up : Bool := match rm with
        | .rne => decide (2 ^ k < 2 * rem) || (decide (2 * rem = 2 ^ k) && r % 2 == 1)
        | .rtz => false
        | .rdn => neg
        | .rup => !neg
        | .rmm => decide (2 ^ k ≤ 2 * rem)
        | .rod => r % 2 == 0
      (if up then r + 1 else r, true)

/-- A result and the exception flags it raises, numbered as fflags has them: NV 16, DZ 8, OF 4, UF 2, NX 1. -/
structure FRes where
  code : Nat
  fl : Nat
  deriving DecidableEq, Repr

/-- What a magnitude beyond the finite range becomes. -/
def Rm.toInf (rm : Rm) (neg : Bool) : Bool :=
  match rm with
  | .rne => true | .rmm => true | .rtz => false | .rod => false | .rdn => neg | .rup => !neg

/-- An exact value rounded to the format. Underflow is inexactness of a result that is tiny after rounding. -/
def CoreFmt.round (f : CoreFmt) (rm : Rm) : Fp → FRes
  | .nan _ => ⟨f.nanCode, 0⟩
  | .inf n => ⟨f.signed n f.infCode, 0⟩
  | .fin n m e =>
    if m = 0 then ⟨f.signed n 0, 0⟩
    else
      let top := leadExp m e
      let q := max (top - (f.mant : Int)) f.emin
      let r := rm.units n m e q
      let c := (q - f.emin).toNat * 2 ^ f.mant + r.1
      if f.infCode ≤ c then ⟨f.signed n (if rm.toInf n then f.infCode else f.infCode - 1), 5⟩
      else
        let least := f.emin + (f.mant : Int)
        let tiny : Bool := decide (top < least) &&
          !(decide (top = least - 1) && (rm.units n m e (top - (f.mant : Int))).1 == 2 ^ (f.mant + 1))
        ⟨f.signed n c, if r.2 then (if tiny then 3 else 1) else 0⟩

/-- The operation is invalid: an operand is a signalling NaN, or a NaN comes of operands none of which is one. -/
def CoreFmt.invalid (f : CoreFmt) (ops : List Nat) (r : Fp) : Bool :=
  ops.any f.snan || (r.isNan && !ops.any (fun c => (f.decode c).isNan))

/-- An operation's result from its exact value and operand codes: a produced NaN is the canonical one (R222). -/
def CoreFmt.result (f : CoreFmt) (rm : Rm) (ops : List Nat) (r : Fp) : FRes :=
  if r.isNan then ⟨f.nanCode, if f.invalid ops r then 16 else 0⟩ else f.round rm r

/-- An exact sum. A zero sum of unlike signs is negative where the rounding mode is down. -/
def CoreFmt.exactSum (rm : Rm) (x y : Fp) : Fp :=
  let r := x.add y
  if r.isZero then .fin (if x.neg? = y.neg? then x.neg? else decide (rm = .rdn)) 0 0 else r

/-- The code with its sign changed. -/
def CoreFmt.flip (f : CoreFmt) (c : Nat) : Nat := f.signed (!bit c (f.width - 1)) (c % 2 ^ (f.width - 1))

/-- a + b. -/
def CoreFmt.add (f : CoreFmt) (rm : Rm) (a b : Nat) : FRes := f.result rm [a, b] (exactSum rm (f.decode a) (f.decode b))

/-- a − b. -/
def CoreFmt.sub (f : CoreFmt) (rm : Rm) (a b : Nat) : FRes := f.add rm a (f.flip b)

/-- a × b. -/
def CoreFmt.mul (f : CoreFmt) (rm : Rm) (a b : Nat) : FRes := f.result rm [a, b] ((f.decode a).mul (f.decode b))

/-- a ÷ b. -/
def CoreFmt.div (f : CoreFmt) (rm : Rm) (a b : Nat) : FRes :=
  let x := f.decode a
  let y := f.decode b
  let r := f.result rm [a, b] (x.div y)
  if y.isZero && x.isFin && !x.isZero then ⟨r.code, 8⟩ else r

/-- ±(a × b) ± c, rounded once. Infinity times zero is invalid beside any c. -/
def CoreFmt.fma (f : CoreFmt) (rm : Rm) (negProd negAdd : Bool) (a b c : Nat) : FRes :=
  let p0 := (f.decode a).mul (f.decode b)
  let p := if negProd then p0.negate else p0
  let z := if negAdd then (f.decode c).negate else f.decode c
  let r := f.result rm [a, b, c] (exactSum rm p z)
  if p0.isNan && !(f.decode a).isNan && !(f.decode b).isNan then ⟨r.code, 16⟩ else r

/-- ⌊√n⌋. -/
def floorSqrt (n : Nat) : Nat := isqrt (Nat.log2 n / 2 + 1) n

/-- √a: the root of the significand carried to more than 60 bits, with a sticky last bit. -/
def CoreFmt.sqrt (f : CoreFmt) (rm : Rm) (a : Nat) : FRes :=
  match f.decode a with
  | .fin n m e =>
    if m = 0 then ⟨f.signed n 0, 0⟩
    else if n then ⟨f.nanCode, 16⟩
    else
      let k := 128 + (e % 2).toNat
      let w := m * 2 ^ k
      let r := floorSqrt w
      f.round rm (.fin false (2 * r + (if r * r = w then 0 else 1)) ((e - (k : Int)) / 2 - 1))
  | .inf false => ⟨f.infCode, 0⟩
  | .inf true => ⟨f.nanCode, 16⟩
  | .nan _ => ⟨f.nanCode, if f.snan a then 16 else 0⟩

/-- Order of two numbers, with −0 below +0. -/
def CoreFmt.below (x y : Fp) : Bool := x.lt y || (x.isZero && y.isZero && x.neg? && !y.neg?)

/-- The lesser or greater of two numbers; a NaN yields the other. -/
def CoreFmt.minMax (f : CoreFmt) (greater : Bool) (a b : Nat) : FRes :=
  let x := f.decode a
  let y := f.decode b
  let c := if x.isNan && y.isNan then f.nanCode else if x.isNan then b else if y.isNan then a
    else if (if greater then below y x else below x y) then a else b
  ⟨c, if f.snan a || f.snan b then 16 else 0⟩

/-- Comparisons of floating-point numbers. -/
inductive FCmp where
  | eq | lt | le
  deriving DecidableEq, Repr

/-- A comparison and its flag: order comparisons are invalid on any NaN, equality on a signalling one. -/
def CoreFmt.cmp (f : CoreFmt) (o : FCmp) (a b : Nat) : Bool × Nat :=
  let x := f.decode a
  let y := f.decode b
  let quiet := f.snan a || f.snan b
  let any := x.isNan || y.isNan
  match o with
  | .eq => (x.eqv y, if quiet then 16 else 0)
  | .lt => (x.lt y, if any then 16 else 0)
  | .le => (x.le y, if any then 16 else 0)

/-- The class mask of a value. -/
def CoreFmt.classify (f : CoreFmt) (a : Nat) : Nat :=
  match f.decode a with
  | .inf n => if n then 2 ^ 0 else 2 ^ 7
  | .nan _ => if f.snan a then 2 ^ 8 else 2 ^ 9
  | .fin n m _ =>
    if m = 0 then (if n then 2 ^ 3 else 2 ^ 4)
    else if m < 2 ^ f.mant then (if n then 2 ^ 2 else 2 ^ 5)
    else (if n then 2 ^ 1 else 2 ^ 6)

/-- Conversion to an integer of w bits, as its code: out of range gives the nearest bound, a NaN the greatest value, both invalid. -/
def CoreFmt.toInt (f : CoreFmt) (rm : Rm) (sg : Bool) (w a : Nat) : FRes :=
  let top : Int := if sg then 2 ^ (w - 1) - 1 else 2 ^ w - 1
  let bot : Int := if sg then -2 ^ (w - 1) else 0
  let code (v : Int) : Nat := (v % 2 ^ w).toNat
  match f.decode a with
  | .nan _ => ⟨code top, 16⟩
  | .inf n => ⟨code (if n then bot else top), 16⟩
  | .fin n m e =>
    let r := rm.units n m e 0
    let v := sgn n r.1
    if v < bot then ⟨code bot, 16⟩ else if top < v then ⟨code top, 16⟩ else ⟨code v, if r.2 then 1 else 0⟩

/-- Conversion of an integer. -/
def CoreFmt.ofInt (f : CoreFmt) (rm : Rm) (v : Int) : FRes := f.round rm (.fin (decide (v < 0)) v.natAbs 0)

/-- Conversion between formats. -/
def CoreFmt.cvt (f g : CoreFmt) (rm : Rm) (a : Nat) : FRes :=
  if (f.decode a).isNan then ⟨g.nanCode, if f.snan a then 16 else 0⟩ else g.round rm (f.decode a)

/-- Sign injection: b's sign, its opposite, or the product of both signs, on a. -/
def CoreFmt.sgnj (f : CoreFmt) (mode a b : Nat) : Nat :=
  let sa := bit a (f.width - 1)
  let sb := bit b (f.width - 1)
  f.signed (if mode = 0 then sb else if mode = 1 then !sb else sa != sb) (a % 2 ^ (f.width - 1))

/-- A code's exponent field and mantissa as those of a normal number: a subnormal's mantissa is shifted up and its exponent falls. -/
def CoreFmt.normalised (f : CoreFmt) (a : Nat) : Int × Nat :=
  let x := a % 2 ^ (f.width - 1)
  let mt := x % 2 ^ f.mant
  if x / 2 ^ f.mant = 0 then
    let lz := f.mant - 1 - Nat.log2 mt
    (-(lz : Int), mt * 2 ^ (lz + 1) % 2 ^ f.mant)
  else ((x / 2 ^ f.mant : Nat), mt)

/-- vfrec7: an estimate of 1/a of 7 bits. The seven bits are the middle of their interval's reciprocal, rounded. -/
def CoreFmt.rec7 (f : CoreFmt) (rm : Rm) (a : Nat) : FRes :=
  match f.decode a with
  | .nan _ => ⟨f.nanCode, if f.snan a then 16 else 0⟩
  | .inf n => ⟨f.signed n 0, 0⟩
  | .fin n m _ =>
    if m = 0 then ⟨f.signed n f.infCode, 8⟩
    else
      let x := f.normalised a
      if x.1 < -1 then ⟨f.signed n (if rm.toInf n then f.infCode else f.infCode - 1), 5⟩
      else
        let i := x.2 / 2 ^ (f.mant - 7)
        let sig := (256 * (255 - 2 * i) + (257 + 2 * i)) / (2 * (257 + 2 * i)) * 2 ^ (f.mant - 7)
        let ex : Int := 2 * (f.bias : Int) - 1 - x.1
        let down := sig / 2 + 2 ^ (f.mant - 1)
        ⟨f.signed n (if ex < 0 then down / 2 else if ex = 0 then down else ex.toNat * 2 ^ f.mant + sig), 0⟩

/-- vfrsqrt7: an estimate of 1/√a of 7 bits. -/
def CoreFmt.rsqrt7 (f : CoreFmt) (a : Nat) : FRes :=
  match f.decode a with
  | .nan _ => ⟨f.nanCode, if f.snan a then 16 else 0⟩
  | .inf n => if n then ⟨f.nanCode, 16⟩ else ⟨0, 0⟩
  | .fin n m _ =>
    if m = 0 then ⟨f.signed n f.infCode, 8⟩
    else if n then ⟨f.nanCode, 16⟩
    else
      let x := f.normalised a
      let c := if x.1 % 2 = 0 then 2 else 1
      let sig := ((floorSqrt (33554432 / ((129 + 2 * (x.2 / 2 ^ (f.mant - 6))) * c)) + 1) / 2 - 128) * 2 ^ (f.mant - 7)
      let ex : Int := (3 * (f.bias : Int) - 1 - x.1) / 2
      ⟨ex.toNat * 2 ^ f.mant + sig, 0⟩

end Sys2Proof.Machine
end

