-- ==== Sys2Proof/Machine/CoreInstr.lean ====
section
/-!
DEFINITION. The instructions of a utility core (R220): RV64I, M, A, F, D, Zicsr, Zifencei, Zicntr, and V 1.0 with Zvfbfmin. A compressed
instruction is another spelling of one of these. What R221 leaves out has no constructor here.
-/
namespace Sys2Proof.Machine

/-- Integer operations on two values. -/
inductive AluOp where
  | add | sub | sll | slt | sltu | xor | srl | sra | or | and
  | mul | mulh | mulhsu | mulhu | div | divu | rem | remu
  deriving DecidableEq, Repr

/-- A register or an immediate. -/
inductive CoreSrc where
  | reg (r : Nat)
  | imm (v : Int)
  deriving DecidableEq, Repr

/-- Branch conditions. -/
inductive Cond where
  | eq | ne | lt | ge | ltu | geu
  deriving DecidableEq, Repr

/-- What a CSR instruction does with the old value. -/
inductive CsrOp where
  | rw | rs | rc
  deriving DecidableEq, Repr

/-- Floating-point operations of two operands. -/
inductive FOp where
  | add | sub | mul | div | min | max | sgnj | sgnjn | sgnjx
  deriving DecidableEq, Repr

/-- Elementwise integer operations whose sources and result have one width. -/
inductive VBin where
  | add | sub | rsub | minu | min | maxu | max | and | or | xor | sll | srl | sra
  | saddu | sadd | ssubu | ssub | aaddu | aadd | asubu | asub | smul | ssrl | ssra
  | mul | mulh | mulhu | mulhsu | divu | div | remu | rem
  deriving DecidableEq, Repr

/-- Comparisons of integer elements. -/
inductive VCmp where
  | eq | ne | ltu | lt | leu | le | gtu | gt
  deriving DecidableEq, Repr

/-- Integer reductions. -/
inductive VRed where
  | sum | and | or | xor | minu | min | maxu | max
  deriving DecidableEq, Repr

/-- Operations on masks. -/
inductive MaskOp where
  | and | nand | andn | xor | or | nor | orn | xnor
  deriving DecidableEq, Repr

/-- Comparisons of floating-point elements. -/
inductive VFCmp where
  | eq | ne | lt | le | gt | ge
  deriving DecidableEq, Repr

/-- Floating-point reductions: `ordered` takes the elements in order. -/
inductive VFRed where
  | sum (ordered : Bool)
  | min | max
  deriving DecidableEq, Repr

/-- How a conversion changes the width of an element. -/
inductive VWidth where
  | same | widen | narrow
  deriving DecidableEq, Repr

/-- Conversions of elements. `rtz` rounds toward zero in place of the dynamic mode. -/
inductive VCvt where
  | toInt (sg rtz : Bool)
  | ofInt (sg : Bool)
  | float (odd : Bool)
  | bf16
  deriving DecidableEq, Repr

/-- Vector operations on registers, by the shape of their operands. Multiply-adds: `overVd` multiplies vd and adds vs2. -/
inductive VOp where
  | bin (o : VBin)
  | wide (mul neg sg2 sg1 wide2 : Bool)
  | narrow (clip sg : Bool)
  | adc (sub : Bool)
  | madc (sub : Bool)
  | merge
  | cmp (o : VCmp)
  | mac (neg overVd : Bool)
  | wmac (sg2 sg1 : Bool)
  | red (o : VRed)
  | wred (sg : Bool)
  | mask (o : MaskOp)
  | gather | gather16 | slideup | slidedown | slide1up | slide1down | compress
  | toX | ofX | cpop | first | msbf | msif | msof | iota | id
  | ext (sg : Bool) (part : Nat)
  | moveRegs (n : Nat)
  | fbin (o : FOp) (swap : Bool)
  | fwide (o : FOp) (wide2 : Bool)
  | fmac (negProd negAdd overVd : Bool)
  | fwmac (negProd negAdd : Bool)
  | fcmp (o : VFCmp)
  | fred (o : VFRed)
  | fwred (ordered : Bool)
  | fmerge | fslide1up | fslide1down | toF | ofF | fclass | rec7 | rsqrt7
  | cvt (c : VCvt) (w : VWidth)
  deriving DecidableEq, Repr

/-- The second source of a vector operation: a vector, an x register, an f register, a signed immediate of five bits. -/
inductive VSrc where
  | v (r : Nat)
  | x (r : Nat)
  | f (r : Nat)
  | i (v : Int)
  deriving DecidableEq, Repr

/-- How a vector load or store forms its addresses. `index` has the width of an index; its elements are of SEW. -/
inductive VAddr where
  | unit | firstFault | maskBits
  | whole (n : Nat)
  | stride (rs2 : Nat)
  | index (vs2 : Nat)
  deriving DecidableEq, Repr

/-- Where a new vtype comes from, and the application vector length. -/
inductive VSet where
  | imm (vt : Nat)
  | reg (rs2 : Nat)
  deriving DecidableEq, Repr

/-- An instruction of a utility core. Registers by number; `rm` is the field of the rounding mode; `n` is a size in bytes. -/
inductive CoreInstr where
  | lui (rd : Nat) (v : Int)
  | auipc (rd : Nat) (v : Int)
  | jal (rd : Nat) (off : Int)
  | jalr (rd rs1 : Nat) (off : Int)
  | branch (c : Cond) (rs1 rs2 : Nat) (off : Int)
  | load (n : Nat) (sg : Bool) (rd rs1 : Nat) (off : Int)
  | store (n rs1 rs2 : Nat) (off : Int)
  | alu (o : AluOp) (word : Bool) (rd rs1 : Nat) (b : CoreSrc)
  | fence | fenceI | ecall | ebreak
  | csr (o : CsrOp) (rd num : Nat) (b : CoreSrc)
  | lr (n rd rs1 : Nat)
  | sc (n rd rs1 rs2 : Nat)
  | amo (fn n rd rs1 rs2 : Nat)
  | fload (f : CoreFmt) (rd rs1 : Nat) (off : Int)
  | fstore (f : CoreFmt) (rs1 rs2 : Nat) (off : Int)
  | fop (o : FOp) (f : CoreFmt) (rm rd rs1 rs2 : Nat)
  | fsqrt (f : CoreFmt) (rm rd rs1 : Nat)
  | fma (negProd negAdd : Bool) (f : CoreFmt) (rm rd rs1 rs2 rs3 : Nat)
  | fcmp (o : FCmp) (f : CoreFmt) (rd rs1 rs2 : Nat)
  | fclass (f : CoreFmt) (rd rs1 : Nat)
  | fToInt (f : CoreFmt) (sg : Bool) (w rm rd rs1 : Nat)
  | fOfInt (f : CoreFmt) (sg : Bool) (w rm rd rs1 : Nat)
  | fcvt (dst src : CoreFmt) (rm rd rs1 : Nat)
  | fToX (f : CoreFmt) (rd rs1 : Nat)
  | fOfX (f : CoreFmt) (rd rs1 : Nat)
  | vset (rd : Nat) (avl : CoreSrc) (vt : VSet)
  | vload (a : VAddr) (n nf : Nat) (vm : Bool) (vd rs1 : Nat)
  | vstore (a : VAddr) (n nf : Nat) (vm : Bool) (vs3 rs1 : Nat)
  | vec (o : VOp) (vm : Bool) (vd vs2 : Nat) (b : VSrc)
  deriving DecidableEq, Repr

end Sys2Proof.Machine
end

