-- ==== Sys2Proof/Machine/CoreDecode.lean ====
section
/-!
DEFINITION. Decoding of a utility core's instructions (R220) from words of 32 and 16 bits, by the encodings of the two RISC-V documents
that R220 names (PRESUMED, log entry 190). None is an illegal instruction: reserved encodings, and what R221 does not implement.
-/
namespace Sys2Proof.Machine

/-- The signed value of w bits. -/
def toSigned (w v : Nat) : Int := if v % 2 ^ w < 2 ^ (w - 1) then ((v % 2 ^ w : Nat) : Int) else ((v % 2 ^ w : Nat) : Int) - 2 ^ w

/-- Pieces of a word put together: (first bit in the word, bits, place in the result). -/
def gatherBits (w : Nat) (ps : List (Nat × Nat × Nat)) : Nat := ps.foldl (fun a p => a + bits w p.1 p.2.1 * 2 ^ p.2.2) 0

/-- Format code of two bits: single or double. -/
def fmtOf (c : Nat) : Option CoreFmt := match c with | 0 => some .s | 1 => some .d | _ => none

/-- Operations of OP and OP-32 by funct7 and funct3. -/
def aluOf (f7 f3 : Nat) : Option AluOp :=
  match f7, f3 with
  | 0, 0 => some .add | 0, 1 => some .sll | 0, 2 => some .slt | 0, 3 => some .sltu
  | 0, 4 => some .xor | 0, 5 => some .srl | 0, 6 => some .or | 0, 7 => some .and
  | 0x20, 0 => some .sub | 0x20, 5 => some .sra
  | 1, 0 => some .mul | 1, 1 => some .mulh | 1, 2 => some .mulhsu | 1, 3 => some .mulhu
  | 1, 4 => some .div | 1, 5 => some .divu | 1, 6 => some .rem | 1, 7 => some .remu
  | _, _ => none

/-- The operation has a form on the low 32 bits. -/
def AluOp.hasWord : AluOp → Bool
  | .add => true | .sub => true | .sll => true | .srl => true | .sra => true
  | .mul => true | .div => true | .divu => true | .rem => true | .remu => true
  | _ => false

/-- OP-IMM and OP-IMM-32. -/
def decodeImm (word : Bool) (w : Nat) : Option CoreInstr :=
  let f3 := bits w 12 3
  let k := if word then 5 else 6
  let imm : CoreSrc := .imm (toSigned 12 (bits w 20 12))
  let sh : CoreSrc := .imm (bits w 20 k)
  let hi := bits w (20 + k) (12 - k) * 2 ^ (k - 5)
  let mk (o : AluOp) (b : CoreSrc) : Option CoreInstr := some (.alu o word (bits w 7 5) (bits w 15 5) b)
  match f3 with
  | 0 => mk .add imm
  | 1 => if hi = 0 then mk .sll sh else none
  | 5 => if hi = 0 then mk .srl sh else if hi = 0x20 then mk .sra sh else none
  | 2 => if word then none else mk .slt imm
  | 3 => if word then none else mk .sltu imm
  | 4 => if word then none else mk .xor imm
  | 6 => if word then none else mk .or imm
  | _ => if word then none else mk .and imm

/-- Branch conditions by funct3. -/
def condOf (f3 : Nat) : Option Cond :=
  match f3 with
  | 0 => some .eq | 1 => some .ne | 4 => some .lt | 5 => some .ge | 6 => some .ltu | 7 => some .geu | _ => none

/-- Atomic operations by funct5, in the numbering of a bank's operations (R252). -/
def amoOf (f5 : Nat) : Option Nat :=
  match f5 with
  | 0b00001 => some 0 | 0b00000 => some 1 | 0b00100 => some 2 | 0b01100 => some 3 | 0b01000 => some 4
  | 0b10000 => some 5 | 0b10100 => some 6 | 0b11000 => some 7 | 0b11100 => some 8 | _ => none

/-- The A extension. -/
def decodeAmo (w : Nat) : Option CoreInstr :=
  let f3 := bits w 12 3
  let n := 2 ^ f3
  let rd := bits w 7 5
  let rs1 := bits w 15 5
  let rs2 := bits w 20 5
  if f3 ≠ 2 ∧ f3 ≠ 3 then none
  else match bits w 27 5 with
    | 0b00010 => if rs2 = 0 then some (.lr n rd rs1) else none
    | 0b00011 => some (.sc n rd rs1 rs2)
    | f5 => (amoOf f5).map (fun fn => .amo fn n rd rs1 rs2)

/-- SYSTEM: ecall, ebreak and the CSR instructions. Privileged returns and waits are no instructions of a kernel. -/
def decodeSystem (w : Nat) : Option CoreInstr :=
  let rd := bits w 7 5
  let num := bits w 20 12
  let b : CoreSrc := if bit w 14 then .imm (bits w 15 5) else .reg (bits w 15 5)
  match bits w 12 2 with
  | 0 => if w = 0x73 then some .ecall else if w = 0x100073 then some .ebreak else none
  | 1 => some (.csr .rw rd num b)
  | 2 => some (.csr .rs rd num b)
  | _ => some (.csr .rc rd num b)

/-- Bytes of a vector element by its width code. -/
def vWidthOf (f3 : Nat) : Option Nat := match f3 with | 0 => some 1 | 5 => some 2 | 6 => some 4 | 7 => some 8 | _ => none

/-- Vector loads and stores. Segments of more than four fields are not implemented (R221). -/
def decodeVMem (st : Bool) (w : Nat) : Option CoreInstr :=
  match vWidthOf (bits w 12 3) with
  | none => none
  | some n =>
    let nf := bits w 29 3 + 1
    let vm := bit w 25
    let r2 := bits w 20 5
    let mk (a : VAddr) (nf : Nat) : Option CoreInstr :=
      some (if st then .vstore a n nf vm (bits w 7 5) (bits w 15 5) else .vload a n nf vm (bits w 7 5) (bits w 15 5))
    if bit w 28 then none
    else match bits w 26 2 with
      | 0 => match r2 with
        | 0 => if nf ≤ 4 then mk .unit nf else none
        | 8 => if vm && [1, 2, 4, 8].contains nf && (!st || n == 1) then mk (.whole nf) 1 else none
        | 11 => if vm && nf == 1 && n == 1 then mk .maskBits 1 else none
        | 16 => if !st && decide (nf ≤ 4) then mk .firstFault nf else none
        | _ => none
      | 2 => if nf ≤ 4 then mk (.stride r2) nf else none
      | _ => if nf ≤ 4 then mk (.index r2) nf else none

/-- Loads of f registers and vectors, and their stores. -/
def decodeFMem (st : Bool) (w : Nat) : Option CoreInstr :=
  let f : Option CoreFmt := match bits w 12 3 with | 2 => some .s | 3 => some .d | _ => none
  match f with
  | none => decodeVMem st w
  | some f =>
    if st then some (.fstore f (bits w 15 5) (bits w 20 5) (toSigned 12 (gatherBits w [(7, 5, 0), (25, 7, 5)])))
    else some (.fload f (bits w 7 5) (bits w 15 5) (toSigned 12 (bits w 20 12)))

/-- OP-FP. -/
def decodeFp (w : Nat) : Option CoreInstr :=
  let rd := bits w 7 5
  let rm := bits w 12 3
  let r1 := bits w 15 5
  let r2 := bits w 20 5
  match fmtOf (bits w 25 2) with
  | none => none
  | some f =>
    let op (o : FOp) (rm : Nat) : Option CoreInstr := some (.fop o f rm rd r1 r2)
    let wd := if r2 < 2 then 32 else 64
    let sg := r2 % 2 == 0
    match bits w 27 5 with
    | 0b00000 => op .add rm
    | 0b00001 => op .sub rm
    | 0b00010 => op .mul rm
    | 0b00011 => op .div rm
    | 0b01011 => if r2 = 0 then some (.fsqrt f rm rd r1) else none
    | 0b00100 => match rm with | 0 => op .sgnj 0 | 1 => op .sgnjn 0 | 2 => op .sgnjx 0 | _ => none
    | 0b00101 => match rm with | 0 => op .min 0 | 1 => op .max 0 | _ => none
    | 0b01000 => match fmtOf r2 with | some g => if f = g then none else some (.fcvt f g rm rd r1) | none => none
    | 0b10100 => match rm with
      | 0 => some (.fcmp .le f rd r1 r2) | 1 => some (.fcmp .lt f rd r1 r2) | 2 => some (.fcmp .eq f rd r1 r2) | _ => none
    | 0b11000 => if r2 < 4 then some (.fToInt f sg wd rm rd r1) else none
    | 0b11010 => if r2 < 4 then some (.fOfInt f sg wd rm rd r1) else none
    | 0b11100 => if r2 ≠ 0 then none else match rm with | 0 => some (.fToX f rd r1) | 1 => some (.fclass f rd r1) | _ => none
    | 0b11110 => if r2 = 0 ∧ rm = 0 then some (.fOfX f rd r1) else none
    | _ => none

/-- Vector integer operations of the OPI categories that take every kind of second source. -/
def opiOf (f6 : Nat) : Option VOp :=
  match f6 with
  | 0b000000 => some (.bin .add) | 0b000010 => some (.bin .sub) | 0b000011 => some (.bin .rsub)
  | 0b000100 => some (.bin .minu) | 0b000101 => some (.bin .min) | 0b000110 => some (.bin .maxu) | 0b000111 => some (.bin .max)
  | 0b001001 => some (.bin .and) | 0b001010 => some (.bin .or) | 0b001011 => some (.bin .xor)
  | 0b001100 => some .gather | 0b001110 => some .slideup | 0b001111 => some .slidedown
  | 0b010000 => some (.adc false) | 0b010001 => some (.madc false) | 0b010010 => some (.adc true) | 0b010011 => some (.madc true)
  | 0b010111 => some .merge
  | 0b011000 => some (.cmp .eq) | 0b011001 => some (.cmp .ne) | 0b011010 => some (.cmp .ltu) | 0b011011 => some (.cmp .lt)
  | 0b011100 => some (.cmp .leu) | 0b011101 => some (.cmp .le) | 0b011110 => some (.cmp .gtu) | 0b011111 => some (.cmp .gt)
  | 0b100000 => some (.bin .saddu) | 0b100001 => some (.bin .sadd) | 0b100010 => some (.bin .ssubu) | 0b100011 => some (.bin .ssub)
  | 0b100101 => some (.bin .sll) | 0b100111 => some (.bin .smul)
  | 0b101000 => some (.bin .srl) | 0b101001 => some (.bin .sra) | 0b101010 => some (.bin .ssrl) | 0b101011 => some (.bin .ssra)
  | 0b101100 => some (.narrow false false) | 0b101101 => some (.narrow false true)
  | 0b101110 => some (.narrow true false) | 0b101111 => some (.narrow true true)
  | 0b110000 => some (.wred false) | 0b110001 => some (.wred true)
  | _ => none

/-- The operation has a form whose second source is of this kind: vectors v, x registers x, immediates i. -/
def VOp.formOk (o : VOp) (b : VSrc) (vm : Bool) : Bool :=
  match o, b with
  | .bin .rsub, .v _ => false
  | .cmp .gtu, .v _ => false
  | .cmp .gt, .v _ => false
  | .slidedown, .v _ => false
  | .wred _, .v _ => true
  | .wred _, _ => false
  | .adc sub, .i _ => !vm && !sub
  | .adc _, _ => !vm
  | .madc sub, .i _ => !sub
  | .bin o, .i _ => [VBin.add, .rsub, .and, .or, .xor, .sll, .srl, .sra, .saddu, .sadd, .ssrl, .ssra].contains o
  | .cmp o, .i _ => o != .ltu && o != .lt
  | _, _ => true

/-- An immediate that counts bits or elements is unsigned. -/
def VOp.countImm : VOp → Bool
  | .bin .sll => true | .bin .srl => true | .bin .sra => true | .bin .ssrl => true | .bin .ssra => true
  | .narrow _ _ => true | .gather => true | .slideup => true | .slidedown => true
  | _ => false

/-- The second source as the operation takes it. -/
def VSrc.of (b : VSrc) (o : VOp) : VSrc := match b with | .i k => if o.countImm then .i (k % 32) else .i k | _ => b

/-- OPIVV, OPIVX and OPIVI. -/
def decodeOpi (w : Nat) (b : VSrc) : Option CoreInstr :=
  let vm := bit w 25
  let f6 := bits w 26 6
  let mk (o : VOp) : Option CoreInstr := some (.vec o vm (bits w 7 5) (bits w 20 5) (b.of o))
  match f6, b with
  | 0b001110, .v _ => mk .gather16
  | 0b100111, .i v => let n := (v % 32).toNat + 1; if vm && [1, 2, 4, 8].contains n then mk (.moveRegs n) else none
  | _, _ =>
    match opiOf f6 with
    | none => none
    | some o => if o.formOk b vm && !(o == .merge && vm && bits w 20 5 != 0) then mk o else none

/-- Integer multiply, divide, average and reduction operations of OPM, for vectors and x registers. -/
def opmOf (f6 : Nat) (scalar : Bool) : Option VOp :=
  match f6 with
  | 0b001000 => some (.bin .aaddu) | 0b001001 => some (.bin .aadd) | 0b001010 => some (.bin .asubu) | 0b001011 => some (.bin .asub)
  | 0b100000 => some (.bin .divu) | 0b100001 => some (.bin .div) | 0b100010 => some (.bin .remu) | 0b100011 => some (.bin .rem)
  | 0b100100 => some (.bin .mulhu) | 0b100101 => some (.bin .mul) | 0b100110 => some (.bin .mulhsu) | 0b100111 => some (.bin .mulh)
  | 0b101001 => some (.mac false true) | 0b101011 => some (.mac true true)
  | 0b101101 => some (.mac false false) | 0b101111 => some (.mac true false)
  | 0b110000 => some (.wide false false false false false) | 0b110001 => some (.wide false false true true false)
  | 0b110010 => some (.wide false true false false false) | 0b110011 => some (.wide false true true true false)
  | 0b110100 => some (.wide false false false false true) | 0b110101 => some (.wide false false true true true)
  | 0b110110 => some (.wide false true false false true) | 0b110111 => some (.wide false true true true true)
  | 0b111000 => some (.wide true false false false false) | 0b111010 => some (.wide true false true false false)
  | 0b111011 => some (.wide true false true true false)
  | 0b111100 => some (.wmac false false) | 0b111101 => some (.wmac true true)
  | 0b111110 => if scalar then some (.wmac true false) else none
  | 0b111111 => some (.wmac false true)
  | 0b001110 => if scalar then some .slide1up else none
  | 0b001111 => if scalar then some .slide1down else none
  | _ => if scalar then none else match f6 with
    | 0b000000 => some (.red .sum) | 0b000001 => some (.red .and) | 0b000010 => some (.red .or) | 0b000011 => some (.red .xor)
    | 0b000100 => some (.red .minu) | 0b000101 => some (.red .min) | 0b000110 => some (.red .maxu) | 0b000111 => some (.red .max)
    | _ => none

/-- The mask operations, which take no mask themselves. -/
def maskOpOf (f6 : Nat) : Option MaskOp :=
  match f6 with
  | 0b011000 => some .andn | 0b011001 => some .and | 0b011010 => some .or | 0b011011 => some .xor
  | 0b011100 => some .orn | 0b011101 => some .nand | 0b011110 => some .nor | 0b011111 => some .xnor
  | _ => none

/-- OPMVV operations that vs1 tells apart. -/
def opmUnary (f6 vs1 : Nat) : Option VOp :=
  match f6, vs1 with
  | 0b010000, 0 => some .toX | 0b010000, 16 => some .cpop | 0b010000, 17 => some .first
  | 0b010010, 2 => some (.ext false 8) | 0b010010, 3 => some (.ext true 8) | 0b010010, 4 => some (.ext false 4)
  | 0b010010, 5 => some (.ext true 4) | 0b010010, 6 => some (.ext false 2) | 0b010010, 7 => some (.ext true 2)
  | 0b010100, 1 => some .msbf | 0b010100, 2 => some .msof | 0b010100, 3 => some .msif
  | 0b010100, 16 => some .iota | 0b010100, 17 => some .id
  | _, _ => none

/-- OPMVV and OPMVX. -/
def decodeOpm (w : Nat) (b : VSrc) : Option CoreInstr :=
  let vm := bit w 25
  let f6 := bits w 26 6
  let vs2 := bits w 20 5
  let mk (o : VOp) : Option CoreInstr := some (.vec o vm (bits w 7 5) vs2 b)
  match b with
  | .v vs1 =>
    match opmUnary f6 vs1, maskOpOf f6 with
    | some .toX, _ => if vm then mk .toX else none
    | some .id, _ => if vs2 = 0 then mk .id else none
    | some o, _ => mk o
    | none, some m => if vm then mk (.mask m) else none
    | none, none =>
      if f6 = 0b010111 then (if vm then mk .compress else none)
      else match opmOf f6 false with | some o => mk o | none => none
  | _ =>
    if f6 = 0b010000 then (if vs2 = 0 ∧ vm then mk .ofX else none)
    else match opmOf f6 true with | some o => mk o | none => none

/-- OPFVV conversions by vs1. -/
def cvtOf (vs1 : Nat) : Option VOp :=
  let k : Option VCvt := match vs1 % 8 with
    | 0 => some (.toInt false false) | 1 => some (.toInt true false) | 2 => some (.ofInt false) | 3 => some (.ofInt true)
    | 4 => some (.float false) | 6 => some (.toInt false true) | 7 => some (.toInt true true) | _ => none
  match vs1 / 8 with
  | 0 => if vs1 % 8 = 4 then none else k.map (fun c => .cvt c .same)
  | 1 => if vs1 = 0b01101 then some (.cvt .bf16 .widen) else k.map (fun c => .cvt c .widen)
  | 2 => if vs1 = 0b10101 then some (.cvt (.float true) .narrow) else k.map (fun c => .cvt c .narrow)
  | _ => if vs1 = 0b11101 then some (.cvt .bf16 .narrow) else none

/-- Floating-point operations of OPF, for vectors and f registers. vfdiv, vfrdiv and vfsqrt are not implemented (R221). -/
def opfOf (f6 : Nat) (scalar : Bool) : Option VOp :=
  match f6 with
  | 0b000000 => some (.fbin .add false) | 0b000010 => some (.fbin .sub false)
  | 0b000100 => some (.fbin .min false) | 0b000110 => some (.fbin .max false)
  | 0b001000 => some (.fbin .sgnj false) | 0b001001 => some (.fbin .sgnjn false) | 0b001010 => some (.fbin .sgnjx false)
  | 0b011000 => some (.fcmp .eq) | 0b011001 => some (.fcmp .le) | 0b011011 => some (.fcmp .lt) | 0b011100 => some (.fcmp .ne)
  | 0b011101 => if scalar then some (.fcmp .gt) else none
  | 0b011111 => if scalar then some (.fcmp .ge) else none
  | 0b100100 => some (.fbin .mul false)
  | 0b100111 => if scalar then some (.fbin .sub true) else none
  | 0b101000 => some (.fmac false false true) | 0b101001 => some (.fmac true true true)
  | 0b101010 => some (.fmac false true true) | 0b101011 => some (.fmac true false true)
  | 0b101100 => some (.fmac false false false) | 0b101101 => some (.fmac true true false)
  | 0b101110 => some (.fmac false true false) | 0b101111 => some (.fmac true false false)
  | 0b110000 => some (.fwide .add false) | 0b110010 => some (.fwide .sub false)
  | 0b110100 => some (.fwide .add true) | 0b110110 => some (.fwide .sub true) | 0b111000 => some (.fwide .mul false)
  | 0b111100 => some (.fwmac false false) | 0b111101 => some (.fwmac true true)
  | 0b111110 => some (.fwmac false true) | 0b111111 => some (.fwmac true false)
  | 0b001110 => if scalar then some .fslide1up else none
  | 0b001111 => if scalar then some .fslide1down else none
  | _ => if scalar then none else match f6 with
    | 0b000001 => some (.fred (.sum false)) | 0b000011 => some (.fred (.sum true))
    | 0b000101 => some (.fred .min) | 0b000111 => some (.fred .max)
    | 0b110001 => some (.fwred false) | 0b110011 => some (.fwred true)
    | _ => none

/-- OPFVV and OPFVF. -/
def decodeOpf (w : Nat) (b : VSrc) : Option CoreInstr :=
  let vm := bit w 25
  let f6 := bits w 26 6
  let vs2 := bits w 20 5
  let mk (o : VOp) : Option CoreInstr := some (.vec o vm (bits w 7 5) vs2 b)
  let mkO (o : Option VOp) : Option CoreInstr := match o with | some o => mk o | none => none
  match b, f6 with
  | .v vs1, 0b010000 => if vs1 = 0 ∧ vm then mk .toF else none
  | .v vs1, 0b010010 => mkO (cvtOf vs1)
  | .v vs1, 0b010011 => mkO (match vs1 with | 4 => some .rsqrt7 | 5 => some .rec7 | 16 => some .fclass | _ => none)
  | .v _, _ => mkO (opfOf f6 false)
  | _, 0b010000 => if vs2 = 0 ∧ vm then mk .ofF else none
  | _, 0b010111 => if vm && vs2 != 0 then none else mk .fmerge
  | _, _ => mkO (opfOf f6 true)

/-- vsetvli, vsetivli and vsetvl. -/
def decodeVSet (w : Nat) : Option CoreInstr :=
  let rd := bits w 7 5
  let r1 := bits w 15 5
  if !bit w 31 then some (.vset rd (.reg r1) (.imm (bits w 20 11)))
  else if bit w 30 then some (.vset rd (.imm r1) (.imm (bits w 20 10)))
  else if bits w 25 5 = 0 then some (.vset rd (.reg r1) (.reg (bits w 20 5)))
  else none

/-- OP-V. -/
def decodeVec (w : Nat) : Option CoreInstr :=
  let r1 := bits w 15 5
  match bits w 12 3 with
  | 0 => decodeOpi w (.v r1)
  | 1 => decodeOpf w (.v r1)
  | 2 => decodeOpm w (.v r1)
  | 3 => decodeOpi w (.i (toSigned 5 r1))
  | 4 => decodeOpi w (.x r1)
  | 5 => decodeOpf w (.f r1)
  | 6 => decodeOpm w (.x r1)
  | _ => decodeVSet w

/-- A word of 32 bits. -/
def decode32 (w : Nat) : Option CoreInstr :=
  let rd := bits w 7 5
  let f3 := bits w 12 3
  let r1 := bits w 15 5
  let r2 := bits w 20 5
  let i12 := toSigned 12 (bits w 20 12)
  let up := toSigned 32 (bits w 12 20 * 2 ^ 12)
  let fma (np na : Bool) : Option CoreInstr := (fmtOf (bits w 25 2)).map (fun f => .fma np na f f3 rd r1 r2 (bits w 27 5))
  match bits w 0 7 with
  | 0x37 => some (.lui rd up)
  | 0x17 => some (.auipc rd up)
  | 0x6F => some (.jal rd (toSigned 21 (gatherBits w [(21, 10, 1), (20, 1, 11), (12, 8, 12), (31, 1, 20)])))
  | 0x67 => if f3 = 0 then some (.jalr rd r1 i12) else none
  | 0x63 => (condOf f3).map (fun c => .branch c r1 r2 (toSigned 13 (gatherBits w [(8, 4, 1), (25, 6, 5), (7, 1, 11), (31, 1, 12)])))
  | 0x03 => if f3 = 7 then none else some (.load (2 ^ (f3 % 4)) (f3 < 4) rd r1 i12)
  | 0x23 => if f3 < 4 then some (.store (2 ^ f3) r1 r2 (toSigned 12 (gatherBits w [(7, 5, 0), (25, 7, 5)]))) else none
  | 0x13 => decodeImm false w
  | 0x1B => decodeImm true w
  | 0x33 => (aluOf (bits w 25 7) f3).map (fun o => .alu o false rd r1 (.reg r2))
  | 0x3B => match aluOf (bits w 25 7) f3 with | some o => if o.hasWord then some (.alu o true rd r1 (.reg r2)) else none | none => none
  | 0x0F => match f3 with | 0 => some .fence | 1 => some .fenceI | _ => none
  | 0x73 => if f3 = 4 then none else decodeSystem w
  | 0x2F => decodeAmo w
  | 0x07 => decodeFMem false w
  | 0x27 => decodeFMem true w
  | 0x43 => fma false false
  | 0x47 => fma false true
  | 0x4B => fma true false
  | 0x4F => fma true true
  | 0x53 => decodeFp w
  | 0x57 => decodeVec w
  | _ => none

/-- The registers x8 to x15 of a compressed instruction. -/
def shortReg (w lo : Nat) : Nat := 8 + bits w lo 3

/-- Quadrant 0 of the compressed instructions. -/
def decodeC0 (w : Nat) : Option CoreInstr :=
  let a := shortReg w 7
  let d := shortReg w 2
  let o4 : Int := gatherBits w [(10, 3, 3), (6, 1, 2), (5, 1, 6)]
  let o8 : Int := gatherBits w [(10, 3, 3), (5, 2, 6)]
  match bits w 13 3 with
  | 0 =>
    let v := gatherBits w [(11, 2, 4), (7, 4, 6), (6, 1, 2), (5, 1, 3)]
    if v = 0 then none else some (.alu .add false d 2 (.imm v))
  | 1 => some (.fload .d d a o8)
  | 2 => some (.load 4 true d a o4)
  | 3 => some (.load 8 true d a o8)
  | 5 => some (.fstore .d a d o8)
  | 6 => some (.store 4 a d o4)
  | 7 => some (.store 8 a d o8)
  | _ => none

/-- Arithmetic of quadrant 1. -/
def decodeC1Alu (w : Nat) : Option CoreInstr :=
  let a := shortReg w 7
  let b : CoreSrc := .reg (shortReg w 2)
  let sh : CoreSrc := .imm (gatherBits w [(2, 5, 0), (12, 1, 5)])
  match bits w 10 2, bit w 12, bits w 5 2 with
  | 0, _, _ => some (.alu .srl false a a sh)
  | 1, _, _ => some (.alu .sra false a a sh)
  | 2, _, _ => some (.alu .and false a a (.imm (toSigned 6 (gatherBits w [(2, 5, 0), (12, 1, 5)]))))
  | _, false, 0 => some (.alu .sub false a a b)
  | _, false, 1 => some (.alu .xor false a a b)
  | _, false, 2 => some (.alu .or false a a b)
  | _, false, _ => some (.alu .and false a a b)
  | _, true, 0 => some (.alu .sub true a a b)
  | _, true, 1 => some (.alu .add true a a b)
  | _, true, _ => none

/-- Quadrant 1 of the compressed instructions. -/
def decodeC1 (w : Nat) : Option CoreInstr :=
  let rd := bits w 7 5
  let v := toSigned 6 (gatherBits w [(2, 5, 0), (12, 1, 5)])
  let br := toSigned 9 (gatherBits w [(3, 2, 1), (10, 2, 3), (2, 1, 5), (5, 2, 6), (12, 1, 8)])
  match bits w 13 3 with
  | 0 => some (.alu .add false rd rd (.imm v))
  | 1 => if rd = 0 then none else some (.alu .add true rd rd (.imm v))
  | 2 => some (.alu .add false rd 0 (.imm v))
  | 3 =>
    if rd = 2 then
      let k := toSigned 10 (gatherBits w [(6, 1, 4), (2, 1, 5), (5, 1, 6), (3, 2, 7), (12, 1, 9)])
      if k = 0 then none else some (.alu .add false 2 2 (.imm k))
    else if v = 0 then none else some (.lui rd (v * 2 ^ 12))
  | 4 => decodeC1Alu w
  | 5 => some (.jal 0 (toSigned 12 (gatherBits w [(3, 3, 1), (11, 1, 4), (2, 1, 5), (7, 1, 6), (6, 1, 7), (9, 2, 8), (8, 1, 10), (12, 1, 11)])))
  | 6 => some (.branch .eq (shortReg w 7) 0 br)
  | _ => some (.branch .ne (shortReg w 7) 0 br)

/-- Quadrant 2 of the compressed instructions. -/
def decodeC2 (w : Nat) : Option CoreInstr :=
  let rd := bits w 7 5
  let r2 := bits w 2 5
  let ld8 : Int := gatherBits w [(5, 2, 3), (12, 1, 5), (2, 3, 6)]
  let st8 : Int := gatherBits w [(10, 3, 3), (7, 3, 6)]
  match bits w 13 3 with
  | 0 => some (.alu .sll false rd rd (.imm (gatherBits w [(2, 5, 0), (12, 1, 5)])))
  | 1 => some (.fload .d rd 2 ld8)
  | 2 => if rd = 0 then none else some (.load 4 true rd 2 (gatherBits w [(4, 3, 2), (12, 1, 5), (2, 2, 6)]))
  | 3 => if rd = 0 then none else some (.load 8 true rd 2 ld8)
  | 4 =>
    if bit w 12 then
      if r2 = 0 then (if rd = 0 then some .ebreak else some (.jalr 1 rd 0)) else some (.alu .add false rd rd (.reg r2))
    else if r2 = 0 then (if rd = 0 then none else some (.jalr 0 rd 0))
    else some (.alu .add false rd 0 (.reg r2))
  | 5 => some (.fstore .d 2 r2 st8)
  | 6 => some (.store 4 2 r2 (gatherBits w [(9, 4, 2), (7, 2, 6)]))
  | _ => some (.store 8 2 r2 st8)

/-- A parcel of 16 bits that is an instruction by itself. -/
def decode16 (w : Nat) : Option CoreInstr :=
  match w % 4 with
  | 0 => decodeC0 w
  | 1 => decodeC1 w
  | _ => decodeC2 w

end Sys2Proof.Machine
end

