-- ==== Sys2Proof/Machine/CoreScalar.lean ====
section
/-!
DEFINITION. The scalar part of a utility core (R220, R222): registers, CSRs, integer and floating-point instructions (PRESUMED, log entry
190). What an instruction does depends on the registers and on what its loads have returned; memory is CoreRun's.
-/
namespace Sys2Proof.Machine

/-- What an instruction takes from outside the core: the 1 GHz timestamp (R230), its free words, and its choices of an order. -/
structure CoreEnv where
  now : Nat
  free : Nat → Nat
  order : Nat → Nat

/-- The code of w bits of an integer. -/
def ofSigned (w : Nat) (v : Int) : Nat := (v % 2 ^ w).toNat

/-- An x register; x0 reads as zero. -/
def Hart.getX (h : Hart) (r : Nat) : Nat := if r = 0 then 0 else (h.x[r]?.getD 0).toNat

/-- Writes an x register; x0 discards it. -/
def Hart.setX (h : Hart) (r v : Nat) : Hart := if r = 0 then h else { h with x := h.x.setIfInBounds r (BitVec.ofNat 64 v) }

/-- The 64 bits of an f register. -/
def Hart.getF (h : Hart) (r : Nat) : Nat := (h.f[r]?.getD 0).toNat

/-- A value of w bits in an f register, with ones above it. -/
def boxed (w v : Nat) : Nat := 2 ^ 64 - 2 ^ w + v % 2 ^ w

/-- An f register as an operand of w bits: one that is not boxed is the canonical NaN. -/
def Hart.operand (h : Hart) (f : CoreFmt) (r : Nat) : Nat :=
  let v := h.getF r
  if v = boxed f.width v then v % 2 ^ f.width else f.nanCode

/-- Writes an f register. -/
def Hart.setF (h : Hart) (w r v : Nat) : Hart := { h with f := h.f.setIfInBounds r (BitVec.ofNat 64 (boxed w v)) }

/-- Flags accrue in fflags; bit 5 is vxsat's. -/
def Hart.accrue (h : Hart) (fl : Nat) : Hart := { h with fflags := h.fflags ||| BitVec.ofNat 5 fl, vxsat := h.vxsat || bit fl 5 }

/-- The rounding mode of an instruction's field: 7 takes frm. None is reserved, an illegal instruction. -/
def Hart.rmOf (h : Hart) (field : Nat) : Option Rm :=
  match if field = 7 then h.frm.toNat else field with
  | 0 => some .rne | 1 => some .rtz | 2 => some .rdn | 3 => some .rup | 4 => some .rmm | _ => none

/-- An integer operation on two values of w bits. -/
def AluOp.value (o : AluOp) (w a b : Nat) : Nat :=
  let sa := toSigned w a
  let sb := toSigned w b
  let k := b % w
  match o with
  | .add => (a + b) % 2 ^ w
  | .sub => ofSigned w ((a : Int) - b)
  | .sll => a * 2 ^ k % 2 ^ w
  | .slt => if sa < sb then 1 else 0
  | .sltu => if a < b then 1 else 0
  | .xor => a ^^^ b
  | .srl => a / 2 ^ k
  | .sra => ofSigned w (sa / 2 ^ k)
  | .or => a ||| b
  | .and => a &&& b
  | .mul => a * b % 2 ^ w
  | .mulh => ofSigned w (sa * sb / 2 ^ w)
  | .mulhsu => ofSigned w (sa * b / 2 ^ w)
  | .mulhu => a * b / 2 ^ w
  | .div => if b = 0 then 2 ^ w - 1 else ofSigned w (sa.tdiv sb)
  | .divu => if b = 0 then 2 ^ w - 1 else a / b
  | .rem => if b = 0 then a else ofSigned w (sa.tmod sb)
  | .remu => if b = 0 then a else a % b

/-- A source as a value of 64 bits. -/
def Hart.src (h : Hart) : CoreSrc → Nat
  | .reg r => h.getX r
  | .imm v => ofSigned 64 v

/-- An address from a base register and an offset. -/
def Hart.addr (h : Hart) (rs1 : Nat) (off : Int) : Nat := ofSigned 64 ((h.getX rs1 : Int) + off)

/-- A branch is taken. -/
def Cond.holds (c : Cond) (a b : Nat) : Bool :=
  match c with
  | .eq => a == b
  | .ne => a != b
  | .lt => decide (toSigned 64 a < toSigned 64 b)
  | .ge => decide (toSigned 64 b ≤ toSigned 64 a)
  | .ltu => decide (a < b)
  | .geu => decide (b ≤ a)

/-- vtype as its CSR shows it. -/
def VType.code (t : VType) : Nat :=
  if t.ill then 2 ^ 63
  else (t.lmul % 8).toNat + 8 * t.sew + 64 * (if t.ta then 1 else 0) + 128 * (if t.ma then 1 else 0)

/-- The CSRs of U mode (R220, R230): those of F, of V and of Zicntr. No other number is implemented; cycle is free (log entry 7). -/
def Hart.csr (h : Hart) (e : CoreEnv) (num : Nat) : Option Nat :=
  let sat := if h.vxsat then 1 else 0
  match num with
  | 0x001 => some h.fflags.toNat
  | 0x002 => some h.frm.toNat
  | 0x003 => some (h.fflags.toNat + 32 * h.frm.toNat)
  | 0x008 => some h.vstart
  | 0x009 => some sat
  | 0x00A => some h.vxrm.toNat
  | 0x00F => some (sat + 2 * h.vxrm.toNat)
  | 0xC00 => some (e.free 0)
  | 0xC01 => some e.now
  | 0xC02 => some h.instret.toNat
  | 0xC20 => some h.vl
  | 0xC21 => some h.vtype.code
  | 0xC22 => some 64
  | _ => none

/-- Writes a CSR: the bits it implements. -/
def Hart.setCsr (h : Hart) (num v : Nat) : Hart :=
  match num with
  | 0x001 => { h with fflags := BitVec.ofNat 5 v }
  | 0x002 => { h with frm := BitVec.ofNat 3 v }
  | 0x003 => { h with fflags := BitVec.ofNat 5 v, frm := BitVec.ofNat 3 (v / 32) }
  | 0x008 => { h with vstart := v % 512 }
  | 0x009 => { h with vxsat := bit v 0 }
  | 0x00A => { h with vxrm := BitVec.ofNat 2 v }
  | 0x00F => { h with vxsat := bit v 0, vxrm := BitVec.ofNat 2 (v / 2) }
  | _ => h

/-- A CSR instruction writes: a set or clear of nothing does not. -/
def CsrOp.writes (o : CsrOp) (b : CoreSrc) : Bool := o == .rw || (b != .reg 0 && b != .imm 0)

/-- A CSR number of U mode that may be so accessed: it is implemented, and numbers from 0xC00 on are read-only. -/
def csrLegal (o : CsrOp) (num : Nat) (b : CoreSrc) : Bool :=
  [0x001, 0x002, 0x003, 0x008, 0x009, 0x00A, 0x00F, 0xC00, 0xC01, 0xC02, 0xC20, 0xC21, 0xC22].contains num &&
    (!o.writes b || decide (num < 0xC00))

/-- A floating-point operation of two operands. -/
def FOp.value (o : FOp) (f : CoreFmt) (rm : Rm) (a b : Nat) : FRes :=
  match o with
  | .add => f.add rm a b
  | .sub => f.sub rm a b
  | .mul => f.mul rm a b
  | .div => f.div rm a b
  | .min => f.minMax false a b
  | .max => f.minMax true a b
  | .sgnj => ⟨f.sgnj 0 a b, 0⟩
  | .sgnjn => ⟨f.sgnj 1 a b, 0⟩
  | .sgnjx => ⟨f.sgnj 2 a b, 0⟩

/-- A result in an f register, with its flags. -/
def Hart.fResult (h : Hart) (f : CoreFmt) (rd : Nat) (r : FRes) : Hart := (h.setF f.width rd r.code).accrue r.fl

/-- The rounding-mode field of a scalar instruction. -/
def CoreInstr.rmField : CoreInstr → Nat
  | .fop _ _ rm _ _ _ => rm
  | .fsqrt _ rm _ _ => rm
  | .fma _ _ _ rm _ _ _ _ => rm
  | .fToInt _ _ _ rm _ _ => rm
  | .fOfInt _ _ _ rm _ _ => rm
  | .fcvt _ _ rm _ _ => rm
  | _ => 0

/-- A scalar instruction's effect on the registers, the pc apart: `vals` is what its loads have returned, `len` its own length. Of a jump
the pc is `Hart.target`. -/
def Hart.scalar (h : Hart) (e : CoreEnv) (i : CoreInstr) (len : Nat) (vals : List Nat) : Hart :=
  let rm := (h.rmOf i.rmField).getD .rne
  let link := (h.pc.toNat + len) % 2 ^ 64
  match i with
  | .lui rd v => h.setX rd (ofSigned 64 v)
  | .auipc rd v => h.setX rd (ofSigned 64 (h.pc.toNat + v))
  | .jal rd _ => h.setX rd link
  | .jalr rd _ _ => h.setX rd link
  | .load n sg rd _ _ => h.setX rd (let v := vals.headD 0; if sg then ofSigned 64 (toSigned (8 * n) v) else v)
  | .alu o word rd rs1 b =>
    if word then h.setX rd (ofSigned 64 (toSigned 32 (o.value 32 (h.getX rs1 % 2 ^ 32) (h.src b % 2 ^ 32))))
    else h.setX rd (o.value 64 (h.getX rs1) (h.src b))
  | .csr o rd num b =>
    let old := (h.csr e num).getD 0
    let x := h.src b
    let h1 := if o.writes b then h.setCsr num (match o with | .rw => x | .rs => old ||| x | .rc => old &&& (2 ^ 64 - 1 - x)) else h
    h1.setX rd old
  | .fload f rd _ _ => h.setF f.width rd (vals.headD 0)
  | .fop o f _ rd rs1 rs2 => h.fResult f rd (o.value f rm (h.operand f rs1) (h.operand f rs2))
  | .fsqrt f _ rd rs1 => h.fResult f rd (f.sqrt rm (h.operand f rs1))
  | .fma np na f _ rd rs1 rs2 rs3 => h.fResult f rd (f.fma rm np na (h.operand f rs1) (h.operand f rs2) (h.operand f rs3))
  | .fcmp o f rd rs1 rs2 =>
    let r := f.cmp o (h.operand f rs1) (h.operand f rs2)
    (h.setX rd (if r.1 then 1 else 0)).accrue r.2
  | .fclass f rd rs1 => h.setX rd (f.classify (h.operand f rs1))
  | .fToInt f sg w _ rd rs1 =>
    let r := f.toInt rm sg w (h.operand f rs1)
    (h.setX rd (ofSigned 64 (toSigned w r.code))).accrue r.fl
  | .fOfInt f sg w _ rd rs1 =>
    let a := h.getX rs1 % 2 ^ w
    h.fResult f rd (f.ofInt rm (if sg then toSigned w a else a))
  | .fcvt f g _ rd rs1 => h.fResult f rd (g.cvt f rm (h.operand g rs1))
  | .fToX f rd rs1 => h.setX rd (ofSigned 64 (toSigned f.width (h.getF rs1)))
  | .fOfX f rd rs1 => h.setF f.width rd (h.getX rs1)
  | _ => h

/-- The pc after an instruction of this length. -/
def Hart.target (h : Hart) (i : CoreInstr) (len : Nat) : BitVec 64 :=
  match i with
  | .jal _ off => h.pc + BitVec.ofInt 64 off
  | .jalr _ rs1 off => BitVec.ofNat 64 (h.addr rs1 off / 2 * 2)
  | .branch c rs1 rs2 off => if c.holds (h.getX rs1) (h.getX rs2) then h.pc + BitVec.ofInt 64 off else h.pc + BitVec.ofNat 64 len
  | _ => h.pc + BitVec.ofNat 64 len

/-- What a scalar instruction loads: address and bytes. -/
def Hart.scalarLoads (h : Hart) : CoreInstr → List (Nat × Nat)
  | .load n _ _ rs1 off => [(h.addr rs1 off, n)]
  | .fload f _ rs1 off => [(h.addr rs1 off, f.width / 8)]
  | _ => []

/-- What a scalar instruction stores. -/
def Hart.scalarStores (h : Hart) : CoreInstr → List (Nat × List Byte)
  | .store n rs1 rs2 off => [(h.addr rs1 off, leBytes n (h.getX rs2))]
  | .fstore f rs1 rs2 off => [(h.addr rs1 off, leBytes (f.width / 8) (h.getF rs2))]
  | _ => []

/-- A scalar instruction is legal: its rounding mode and its CSR exist. -/
def Hart.scalarLegal (h : Hart) (i : CoreInstr) : Bool :=
  match i with
  | .csr o _ num b => csrLegal o num b
  | _ => (h.rmOf i.rmField).isSome

end Sys2Proof.Machine
end

