-- ==== Sys2Proof/Machine/CoreVector.lean ====
section
/-!
DEFINITION. Elements, masks and register groups of a utility core's vector unit (R220, R221), and which vector instructions are legal
(PRESUMED, log entry 190). Every exclusion of R221 and every reserved use is an illegal instruction.
-/
namespace Sys2Proof.Machine

/-- Element i of ew bits in the registers from r on; a mask's elements have one bit. -/
def Hart.elt (h : Hart) (r ew i : Nat) : Nat :=
  let p := r * 512 + i * ew
  (h.v[p / 64]?.getD 0).toNat / 2 ^ (p % 64) % 2 ^ ew

/-- Bit i of the mask register v0. -/
def Hart.maskBit (h : Hart) (i : Nat) : Bool := h.elt 0 1 i == 1

/-- SEW in bits. -/
def Hart.sew (h : Hart) : Nat := 8 * 2 ^ h.vtype.sew

/-- Registers of a group of 2^lg; a fraction takes one. -/
def regsOf (lg : Int) : Nat := 2 ^ lg.toNat

/-- VLMAX of a vtype. -/
def VType.vlmax (t : VType) : Nat := 2 ^ (6 - (t.sew : Int) + t.lmul).toNat

/-- Elements of a loop that the instruction works on: from vstart to n, where the mask or `vm` says so. -/
def Hart.active (h : Hart) (vm : Bool) (n : Nat) : List Nat :=
  ((List.range n).drop h.vstart).filter (fun i => vm || h.maskBit i)

/-- New contents of a group: element i becomes g i. -/
def Hart.putElts (h : Hart) (r ew regs : Nat) (g : Nat → Nat) : Hart :=
  let per := 64 / ew
  let word (w : Nat) : Nat := (List.range per).foldl (fun a t => a + g (w * per + t) % 2 ^ ew * 2 ^ (t * ew)) 0
  { h with v := (List.range (8 * regs)).foldl (fun v w => v.setIfInBounds (r * 8 + w) (BitVec.ofNat 64 (word w))) h.v }

/-- What becomes of an element that is not computed: agnostic, it keeps its value or becomes all ones as its free bit says. `fld` tells the
groups of one instruction apart. -/
def Hart.kept (h : Hart) (e : CoreEnv) (agnostic : Bool) (r ew fld i : Nat) : Nat :=
  if agnostic && bit (e.free (8 * fld + i / 64)) (i % 64) then 2 ^ ew - 1 else h.elt r ew i

/-- Where a result goes: registers from `r` on, of `ew` bits an element, 2^lg registers, the field of a segment, and whether the tail is agnostic. -/
structure VDst where
  r : Nat
  ew : Nat
  lg : Int
  fld : Nat := 0
  ta : Bool

/-- The result of a vector instruction: elements before vstart stay, active ones below n are computed, the others follow the mask and tail
policies. With no element at or after vstart nothing is written. -/
def Hart.fill (h : Hart) (e : CoreEnv) (d : VDst) (n : Nat) (act : Nat → Bool) (g : Nat → Nat) : Hart :=
  if h.vl ≤ h.vstart then h
  else h.putElts d.r d.ew (regsOf d.lg) (fun i =>
    if i < h.vstart then h.elt d.r d.ew i
    else if i < n then (if act i then g i else h.kept e h.vtype.ma d.r d.ew d.fld i)
    else h.kept e d.ta d.r d.ew d.fld i)

/-- Rounding of v / 2^d by vxrm. -/
def roundOff (vxrm : Nat) (v : Int) (d : Nat) : Int :=
  let q := v / 2 ^ d
  let r := (v % 2 ^ d).toNat
  let half := 2 ^ d / 2
  let up : Bool := decide (d ≠ 0) && (match vxrm with
    | 0 => decide (half ≤ r)
    | 1 => decide (half < r) || (r == half && decide (q % 2 = 1))
    | 2 => false
    | _ => r != 0 && decide (q % 2 = 0))
  if up then q + 1 else q

/-- A value held to the range of w bits, and whether it was outside: flag 32 is vxsat's. -/
def saturate (sg : Bool) (w : Nat) (v : Int) : Nat × Nat :=
  let top : Int := if sg then 2 ^ (w - 1) - 1 else 2 ^ w - 1
  let bot : Int := if sg then -2 ^ (w - 1) else 0
  if v < bot then (ofSigned w bot, 32) else if top < v then (ofSigned w top, 32) else (ofSigned w v, 0)

/-- The integer of an element. -/
def extend (sg : Bool) (w v : Nat) : Int := if sg then toSigned w v else v

/-- An elementwise operation: a from vs2, b from the other source; the value and its flags. -/
def VBin.value (o : VBin) (vxrm w a b : Nat) : Nat × Nat :=
  let sa := toSigned w a
  let sb := toSigned w b
  let k := b % w
  match o with
  | .add => ((a + b) % 2 ^ w, 0)
  | .sub => (ofSigned w ((a : Int) - b), 0)
  | .rsub => (ofSigned w ((b : Int) - a), 0)
  | .minu => (if a ≤ b then a else b, 0)
  | .maxu => (if a ≤ b then b else a, 0)
  | .min => (if sa ≤ sb then a else b, 0)
  | .max => (if sa ≤ sb then b else a, 0)
  | .and => (a &&& b, 0)
  | .or => (a ||| b, 0)
  | .xor => (a ^^^ b, 0)
  | .sll => (AluOp.value .sll w a b, 0)
  | .srl => (AluOp.value .srl w a b, 0)
  | .sra => (AluOp.value .sra w a b, 0)
  | .saddu => saturate false w ((a : Int) + b)
  | .sadd => saturate true w (sa + sb)
  | .ssubu => saturate false w ((a : Int) - b)
  | .ssub => saturate true w (sa - sb)
  | .aaddu => (ofSigned w (roundOff vxrm ((a : Int) + b) 1), 0)
  | .aadd => (ofSigned w (roundOff vxrm (sa + sb) 1), 0)
  | .asubu => (ofSigned w (roundOff vxrm ((a : Int) - b) 1), 0)
  | .asub => (ofSigned w (roundOff vxrm (sa - sb) 1), 0)
  | .smul => saturate true w (roundOff vxrm (sa * sb) (w - 1))
  | .ssrl => (ofSigned w (roundOff vxrm a k), 0)
  | .ssra => (ofSigned w (roundOff vxrm sa k), 0)
  | .mul => (AluOp.value .mul w a b, 0)
  | .mulh => (AluOp.value .mulh w a b, 0)
  | .mulhu => (AluOp.value .mulhu w a b, 0)
  | .mulhsu => (AluOp.value .mulhsu w a b, 0)
  | .divu => (AluOp.value .divu w a b, 0)
  | .div => (AluOp.value .div w a b, 0)
  | .remu => (AluOp.value .remu w a b, 0)
  | .rem => (AluOp.value .rem w a b, 0)

/-- An integer comparison of vs2 with the other source. -/
def VCmp.holds (o : VCmp) (w a b : Nat) : Bool :=
  let sa := toSigned w a
  let sb := toSigned w b
  match o with
  | .eq => a == b
  | .ne => a != b
  | .ltu => decide (a < b)
  | .lt => decide (sa < sb)
  | .leu => decide (a ≤ b)
  | .le => decide (sa ≤ sb)
  | .gtu => decide (b < a)
  | .gt => decide (sb < sa)

/-- One step of an integer reduction. -/
def VRed.value (o : VRed) (w a b : Nat) : Nat :=
  match o with
  | .sum => (a + b) % 2 ^ w
  | .and => a &&& b
  | .or => a ||| b
  | .xor => a ^^^ b
  | .minu => if a ≤ b then a else b
  | .maxu => if a ≤ b then b else a
  | .min => if toSigned w a ≤ toSigned w b then a else b
  | .max => if toSigned w a ≤ toSigned w b then b else a

/-- A mask operation: a from vs2, b from vs1. -/
def MaskOp.holds (o : MaskOp) (a b : Bool) : Bool :=
  match o with
  | .and => a && b
  | .nand => !(a && b)
  | .andn => a && !b
  | .xor => a != b
  | .or => a || b
  | .nor => !(a || b)
  | .orn => a || !b
  | .xnor => a == b

/-- The format of floating-point elements of w bits. -/
def fmtOfWidth (w : Nat) : CoreFmt := if w = 64 then .d else .s

/-- A comparison of floating-point elements and its flags. -/
def VFCmp.value (o : VFCmp) (f : CoreFmt) (a b : Nat) : Bool × Nat :=
  match o with
  | .eq => f.cmp .eq a b
  | .ne => (!(f.cmp .eq a b).1, (f.cmp .eq a b).2)
  | .lt => f.cmp .lt a b
  | .le => f.cmp .le a b
  | .gt => f.cmp .lt b a
  | .ge => f.cmp .le b a

/-- A sum in any order: of the terms two are taken at a time, which ones is free. -/
def treeSum (f : CoreFmt) (rm : Rm) (order : Nat → Nat) : Nat → List Nat → FRes
  | 0, l => ⟨l.headD 0, 0⟩
  | n + 1, l =>
    match l with
    | [] => ⟨0, 0⟩
    | [x] => ⟨x, 0⟩
    | x :: y :: r =>
      let l0 := x :: y :: r
      let i := order (2 * n) % l0.length
      let l1 := l0.eraseIdx i
      let j := order (2 * n + 1) % l1.length
      let s := f.add rm (l0.getD i 0) (l1.getD j 0)
      let t := treeSum f rm order n (s.code :: l1.eraseIdx j)
      ⟨t.code, t.fl ||| s.fl⟩

/-- A sum, minimum or maximum taken from the left. -/
def foldF (g : Nat → Nat → FRes) (init : Nat) (l : List Nat) : FRes :=
  l.foldl (fun a x => let r := g a.code x; ⟨r.code, a.fl ||| r.fl⟩) ⟨init, 0⟩

/-! ## Legality -/

/-- A group of vector registers: the first, the logarithm of their number, bits of an element (1 for a mask). -/
structure VGrp where
  r : Nat
  lg : Int
  ew : Nat
  deriving DecidableEq, Repr

/-- The group exists: 1/8 to 8 registers, aligned to their number, of elements of at most 64 bits. -/
def VGrp.ok (g : VGrp) : Bool :=
  decide (-3 ≤ g.lg ∧ g.lg ≤ 3) && g.r % regsOf g.lg == 0 && decide (g.r + regsOf g.lg ≤ 32 ∧ 1 ≤ g.ew ∧ g.ew ≤ 64)

/-- Two groups share a register. -/
def VGrp.meets (a b : VGrp) : Bool := decide (a.r < b.r + regsOf b.lg) && decide (b.r < a.r + regsOf a.lg)

/-- A destination may overlap a source: elements of one width, a narrower result in the lowest part of the source, or a wider result whose
highest part is the source, of at least one register. -/
def VGrp.overlapOk (d s : VGrp) : Bool :=
  !d.meets s || d.ew == s.ew || (decide (d.ew < s.ew) && d.r == s.r) ||
    (decide (s.ew < d.ew) && decide (0 ≤ s.lg) && s.r + regsOf s.lg == d.r + regsOf d.lg)

/-- What registers an instruction uses. `strict`: the destination overlaps no source. `fromZero`: it runs with vstart 0 only. `fits`: its
widths exist on this core. -/
structure VUse where
  dst : Option VGrp := none
  srcs : List VGrp := []
  strict : Bool := false
  fromZero : Bool := false
  fits : Bool := true

/-- No register is a source with two element widths. -/
def oneWidth : List VGrp → Bool
  | [] => true
  | a :: r => r.all (fun b => !a.meets b || a.ew == b.ew) && oneWidth r

/-- The uses are legal. A masked instruction also reads v0, and writes it only as a mask. -/
def VUse.ok (u : VUse) (vstart : Nat) (vm : Bool) : Bool :=
  let srcs := if vm then u.srcs else ⟨0, 0, 1⟩ :: u.srcs
  u.fits && (!u.fromZero || vstart == 0) && u.srcs.all VGrp.ok && oneWidth srcs &&
    (match u.dst with
    | none => true
    | some d => d.ok && srcs.all (fun s => if u.strict then !d.meets s else d.overlapOk s) && (vm || d.ew == 1 || !d.meets ⟨0, 0, 1⟩))

/-- The group of a second source that is a vector. -/
def VSrc.grp (b : VSrc) (lg : Int) (ew : Nat) : List VGrp := match b with | .v k => [⟨k, lg, ew⟩] | _ => []

/-- What registers a vector operation uses at SEW e and LMUL 2^lg. -/
def VOp.uses (o : VOp) (e : Nat) (lg : Int) (vd vs2 : Nat) (b : VSrc) : VUse :=
  let full (r : Nat) : VGrp := ⟨r, lg, e⟩
  let wide (r : Nat) : VGrp := ⟨r, lg + 1, 2 * e⟩
  let mask (r : Nat) : VGrp := ⟨r, 0, 1⟩
  let b1 := b.grp lg e
  let fp := e == 32 || e == 64
  match o with
  | .bin _ => { dst := full vd, srcs := full vs2 :: b1 }
  | .wide _ _ _ _ w2 => { dst := wide vd, srcs := (if w2 then wide vs2 else full vs2) :: b1 }
  | .narrow _ _ => { dst := full vd, srcs := wide vs2 :: b1 }
  | .adc _ => { dst := full vd, srcs := full vs2 :: b1 }
  | .madc _ => { dst := mask vd, srcs := full vs2 :: b1 }
  | .merge => { dst := full vd, srcs := full vs2 :: b1 }
  | .cmp _ => { dst := mask vd, srcs := full vs2 :: b1 }
  | .mac _ _ => { dst := full vd, srcs := full vs2 :: b1 }
  | .wmac _ _ => { dst := wide vd, srcs := full vs2 :: b1 }
  | .red _ => { srcs := full vs2 :: b.grp 0 e, fromZero := true }
  | .wred _ => { srcs := full vs2 :: b.grp 0 (2 * e), fromZero := true }
  | .mask _ => { dst := mask vd, srcs := mask vs2 :: b.grp 0 1 }
  | .gather => { dst := full vd, srcs := full vs2 :: b1, strict := true }
  | .gather16 => { dst := full vd, srcs := full vs2 :: b.grp (lg + 4 - (Nat.log2 e : Int)) 16, strict := true }
  | .slideup => { dst := full vd, srcs := [full vs2], strict := true }
  | .slidedown => { dst := full vd, srcs := [full vs2] }
  | .slide1up => { dst := full vd, srcs := [full vs2], strict := true }
  | .slide1down => { dst := full vd, srcs := [full vs2] }
  | .compress => { dst := full vd, srcs := full vs2 :: b.grp 0 1, strict := true, fromZero := true }
  | .toX => {}
  | .ofX => {}
  | .cpop => { srcs := [mask vs2], fromZero := true }
  | .first => { srcs := [mask vs2], fromZero := true }
  | .msbf => { dst := mask vd, srcs := [mask vs2], strict := true, fromZero := true }
  | .msif => { dst := mask vd, srcs := [mask vs2], strict := true, fromZero := true }
  | .msof => { dst := mask vd, srcs := [mask vs2], strict := true, fromZero := true }
  | .iota => { dst := full vd, srcs := [mask vs2], strict := true, fromZero := true }
  | .id => { dst := full vd }
  | .ext _ part => { dst := full vd, srcs := [⟨vs2, lg - (Nat.log2 part : Int), e / part⟩], fits := decide (8 ≤ e / part) }
  | .moveRegs n => { dst := some ⟨vd, Nat.log2 n, e⟩, srcs := [⟨vs2, Nat.log2 n, e⟩] }
  | .fbin _ _ => { dst := full vd, srcs := full vs2 :: b1, fits := fp }
  | .fwide _ w2 => { dst := wide vd, srcs := (if w2 then wide vs2 else full vs2) :: b1, fits := e == 32 }
  | .fmac _ _ _ => { dst := full vd, srcs := full vs2 :: b1, fits := fp }
  | .fwmac _ _ => { dst := wide vd, srcs := full vs2 :: b1, fits := e == 32 }
  | .fcmp _ => { dst := mask vd, srcs := full vs2 :: b1, fits := fp }
  | .fred _ => { srcs := full vs2 :: b.grp 0 e, fromZero := true, fits := fp }
  | .fwred _ => { srcs := full vs2 :: b.grp 0 64, fromZero := true, fits := e == 32 }
  | .fmerge => { dst := full vd, srcs := [full vs2], fits := fp }
  | .fslide1up => { dst := full vd, srcs := [full vs2], strict := true, fits := fp }
  | .fslide1down => { dst := full vd, srcs := [full vs2], fits := fp }
  | .toF => { fits := fp }
  | .ofF => { fits := fp }
  | .fclass => { dst := full vd, srcs := [full vs2], fits := fp }
  | .rec7 => { dst := full vd, srcs := [full vs2], fits := fp }
  | .rsqrt7 => { dst := full vd, srcs := [full vs2], fits := fp }
  | .cvt c w =>
    let ok : Bool := match c, w with
      | _, .same => fp
      | .bf16, _ => e == 16
      | .float _, _ => e == 32
      | .toInt _ _, .widen => e == 32
      | .ofInt _, .widen => e == 16 || e == 32
      | .toInt _ _, .narrow => e == 16 || e == 32
      | .ofInt _, .narrow => e == 32
    match w with
    | .same => { dst := full vd, srcs := [full vs2], fits := ok }
    | .widen => { dst := wide vd, srcs := [full vs2], fits := ok }
    | .narrow => { dst := full vd, srcs := [wide vs2], fits := ok }

/-- The operation is one of floating point: it needs a rounding mode in frm that exists. -/
def VOp.isFloat : VOp → Bool
  | .fbin _ _ => true | .fwide _ _ => true | .fmac _ _ _ => true | .fwmac _ _ => true | .fcmp _ => true | .fred _ => true
  | .fwred _ => true | .fmerge => true | .fslide1up => true | .fslide1down => true | .toF => true | .ofF => true
  | .fclass => true | .rec7 => true | .rsqrt7 => true | .cvt _ _ => true
  | _ => false

/-- A vmv.v or vfmv.v has no vs2. -/
def VUse.unread (u : VUse) (o : VOp) (vm : Bool) : VUse :=
  if vm && (o == .merge || o == .fmerge) then { u with srcs := u.srcs.tail } else u

/-- The groups of a load's or store's data and of its index. -/
def Hart.memUses (h : Hart) (a : VAddr) (n nf vd : Nat) : List VGrp × List VGrp :=
  let scaled : Int := h.vtype.lmul + (Nat.log2 n : Int) - h.vtype.sew
  let fields (lg : Int) (ew : Nat) : List VGrp := (List.range nf).map (fun k => ⟨vd + k * regsOf lg, lg, ew⟩)
  match a with
  | .whole k => ([⟨vd, Nat.log2 k, 8 * n⟩], [])
  | .maskBits => ([⟨vd, 0, 8⟩], [])
  | .index r => (fields h.vtype.lmul h.sew, [⟨r, scaled, 8 * n⟩])
  | _ => (fields scaled (8 * n), [])

/-- A whole-register access does not depend on vtype. -/
def VAddr.isWhole : VAddr → Bool
  | .whole _ => true
  | _ => false

/-- A vector load or store is legal: its groups exist, at most eight registers, and overlap as they may. -/
def Hart.memLegal (h : Hart) (ld : Bool) (a : VAddr) (n nf : Nat) (vm : Bool) (vd : Nat) : Bool :=
  let u := h.memUses a n nf vd
  let v0 : VGrp := ⟨0, 0, 1⟩
  (a.isWhole || !h.vtype.ill) && u.1.all VGrp.ok && u.2.all VGrp.ok && decide ((u.1.map (fun g => regsOf g.lg)).sum ≤ 8) &&
    (if ld then
      u.1.all (fun d => (vm || !d.meets v0) && u.2.all (fun s => if nf = 1 then d.overlapOk s else !d.meets s)) && oneWidth (if vm then u.2 else v0 :: u.2)
    else oneWidth ((if vm then [] else [v0]) ++ u.2 ++ u.1))

/-- A vector instruction is legal. -/
def Hart.vecLegal (h : Hart) (i : CoreInstr) : Bool :=
  match i with
  | .vec o vm vd vs2 b =>
    !h.vtype.ill && (!o.isFloat || (h.rmOf 7).isSome) && ((o.uses h.sew h.vtype.lmul vd vs2 b).unread o vm).ok h.vstart vm
  | .vload a n nf vm vd _ => h.memLegal true a n nf vm vd
  | .vstore a n nf vm vs3 _ => h.memLegal false a n nf vm vs3
  | _ => true

end Sys2Proof.Machine
end

