-- ==== Sys2Proof/Machine/CoreVecExec.lean ====
section
/-!
DEFINITION. What the vector instructions of a utility core do (R220), one case for each shape of operands (PRESUMED, log entry 190).
-/
namespace Sys2Proof.Machine

/-- The second source as an element: of a vector, or of a scalar cut or sign-extended to w bits. -/
def Hart.src1 (h : Hart) (b : VSrc) (w i : Nat) : Nat :=
  match b with
  | .v r => h.elt r w i
  | .x r => h.getX r % 2 ^ w
  | .f r => if w = 64 then h.getF r else h.operand .s r
  | .i k => ofSigned w k

/-- The second source as an index or offset, a scalar of 64 bits. -/
def Hart.count1 (h : Hart) (b : VSrc) : Nat :=
  match b with
  | .x r => h.getX r
  | .i k => k.toNat
  | _ => 0

/-- The flags of the active elements. -/
def Hart.flagsOf (h : Hart) (vm : Bool) (g : Nat → Nat × Nat) : Nat := (h.active vm h.vl).foldl (fun a i => a ||| (g i).2) 0

/-- An elementwise result with its flags. -/
def Hart.each (h : Hart) (e : CoreEnv) (vm : Bool) (vd ew : Nat) (lg : Int) (g : Nat → Nat × Nat) : Hart :=
  (h.fill e { r := vd, ew := ew, lg := lg, ta := h.vtype.ta } h.vl (fun i => vm || h.maskBit i) (fun i => (g i).1)).accrue (h.flagsOf vm g)

/-- A mask result; its tail is always agnostic. -/
def Hart.eachMask (h : Hart) (e : CoreEnv) (vm : Bool) (vd : Nat) (g : Nat → Bool × Nat) : Hart :=
  (h.fill e { r := vd, ew := 1, lg := 0, ta := true } h.vl (fun i => vm || h.maskBit i) (fun i => if (g i).1 then 1 else 0)).accrue
    (h.flagsOf vm (fun i => (0, (g i).2)))

/-- A result in element 0; the other elements of the register are its tail. -/
def Hart.single (h : Hart) (e : CoreEnv) (vd ew : Nat) (r : FRes) : Hart :=
  if h.vl ≤ h.vstart then h
  else (({ h with vstart := 0 } : Hart).fill e { r := vd, ew := ew, lg := 0, ta := h.vtype.ta } 1 (fun _ => true) (fun _ => r.code)).accrue r.fl

/-- A value of one format as the next wider one, and its flags. -/
def widened (w : Nat) (c : Nat) : FRes := CoreFmt.cvt (fmtOfWidth w) .d .rne c

/-- A conversion of an element of w bits. -/
def VCvt.value (c : VCvt) (k : VWidth) (rm : Rm) (w a : Nat) : FRes :=
  let dst := match k with | .same => w | .widen => 2 * w | .narrow => w
  let src := match k with | .same => w | .widen => w | .narrow => 2 * w
  match c with
  | .toInt sg rtz => (fmtOfWidth src).toInt (if rtz then .rtz else rm) sg dst a
  | .ofInt sg => (fmtOfWidth dst).ofInt rm (extend sg src a)
  | .float odd => (fmtOfWidth src).cvt (fmtOfWidth dst) (if odd then .rod else rm) a
  | .bf16 => match k with | .narrow => CoreFmt.s.cvt .bf rm a | _ => CoreFmt.bf.cvt .s rm a

/-- The integer operations of one element width or of two. -/
def Hart.vecInt (h : Hart) (e : CoreEnv) (o : VOp) (vm : Bool) (vd vs2 : Nat) (b : VSrc) : Hart :=
  let w := h.sew
  let lg := h.vtype.lmul
  let rx := h.vxrm.toNat
  let a (i : Nat) : Nat := h.elt vs2 w i
  let b1 (i : Nat) : Nat := h.src1 b w i
  let d (i : Nat) : Nat := h.elt vd w i
  match o with
  | .bin o => h.each e vm vd w lg (fun i => o.value rx w (a i) (b1 i))
  | .wide mul neg s2 s1 w2 => h.each e vm vd (2 * w) (lg + 1) (fun i =>
      let x : Int := if w2 then h.elt vs2 (2 * w) i else extend s2 w (a i)
      let y := extend s1 w (b1 i)
      (ofSigned (2 * w) (if mul then x * y else if neg then x - y else x + y), 0))
  | .narrow clip sg => h.each e vm vd w lg (fun i =>
      let x := extend sg (2 * w) (h.elt vs2 (2 * w) i)
      let k := b1 i % (2 * w)
      if clip then saturate sg w (roundOff rx x k) else (ofSigned w (x / 2 ^ k), 0))
  | .adc sub => h.each e true vd w lg (fun i =>
      let c := if h.maskBit i then 1 else 0
      (ofSigned w (if sub then (a i : Int) - b1 i - c else a i + b1 i + c), 0))
  | .madc sub => h.eachMask e true vd (fun i =>
      let c := if !vm && h.maskBit i then 1 else 0
      (if sub then decide (a i < b1 i + c) else decide (2 ^ w ≤ a i + b1 i + c), 0))
  | .cmp o => h.eachMask e vm vd (fun i => (o.holds w (a i) (b1 i), 0))
  | .mac neg ov => h.each e vm vd w lg (fun i =>
      let p : Int := b1 i * (if ov then d i else a i)
      let c : Int := if ov then a i else d i
      (ofSigned w (if neg then c - p else c + p), 0))
  | .wmac s2 s1 => h.each e vm vd (2 * w) (lg + 1) (fun i =>
      (ofSigned (2 * w) (h.elt vd (2 * w) i + extend s2 w (a i) * extend s1 w (b1 i)), 0))
  | .red o => h.single e vd w ⟨(h.active vm h.vl).foldl (fun t i => o.value w t (a i)) (b1 0), 0⟩
  | .wred sg => h.single e vd (2 * w)
      ⟨(h.active vm h.vl).foldl (fun t i => ofSigned (2 * w) (t + extend sg w (a i))) (h.src1 b (2 * w) 0), 0⟩
  | .ext sg part => h.each e vm vd w lg (fun i => (ofSigned w (extend sg (w / part) (h.elt vs2 (w / part) i)), 0))
  | _ => h

/-- Masks, moves, slides and gathers; those of floating point differ in their scalar only. -/
def Hart.vecMove (h : Hart) (e : CoreEnv) (o : VOp) (vm : Bool) (vd vs2 : Nat) (b : VSrc) : Hart :=
  let w := h.sew
  let lg := h.vtype.lmul
  let n := h.vl
  let top := h.vtype.vlmax
  let a (i : Nat) : Nat := h.elt vs2 w i
  let b1 (i : Nat) : Nat := h.src1 b w i
  let off := h.count1 b
  let m2 (i : Nat) : Bool := h.elt vs2 1 i == 1
  let all : VDst := { r := vd, ew := w, lg := lg, ta := h.vtype.ta }
  let pick (j : Nat) : Nat := if j < top then a j else 0
  let hit : Option Nat := (h.active vm n).find? m2
  let before (i : Nat) (eq : Bool) : Bool := match hit with | none => true | some k => decide (i < k) || (eq && i == k)
  match o with
  | .merge => h.each e true vd w lg (fun i => (if vm || h.maskBit i then b1 i else a i, 0))
  | .fmerge => h.each e true vd w lg (fun i => (if vm || h.maskBit i then b1 i else a i, 0))
  | .mask o => h.eachMask e true vd (fun i => (o.holds (m2 i) (h.src1 b 1 i == 1), 0))
  | .gather => h.each e vm vd w lg (fun i => (pick (match b with | .v r => h.elt r w i | _ => off), 0))
  | .gather16 => h.each e vm vd w lg (fun i => (pick (h.src1 b 16 i), 0))
  | .slideup => h.fill e all n (fun i => decide (i < off) || vm || h.maskBit i) (fun i => if i < off then h.elt vd w i else a (i - off))
  | .slidedown => h.each e vm vd w lg (fun i => (pick (i + off), 0))
  | .slide1up => h.each e vm vd w lg (fun i => (if i = 0 then b1 0 else a (i - 1), 0))
  | .fslide1up => h.each e vm vd w lg (fun i => (if i = 0 then b1 0 else a (i - 1), 0))
  | .slide1down => h.each e vm vd w lg (fun i => (if i + 1 = n then b1 i else a (i + 1), 0))
  | .fslide1down => h.each e vm vd w lg (fun i => (if i + 1 = n then b1 i else a (i + 1), 0))
  | .compress =>
    let l := (List.range n).filter (fun i => h.src1 b 1 i == 1)
    h.fill e all l.length (fun _ => true) (fun i => a (l.getD i 0))
  | .toX => h.setX vd (ofSigned 64 (toSigned w (a 0)))
  | .toF => h.setF w vd (a 0)
  | .ofX => h.single e vd w ⟨b1 0, 0⟩
  | .ofF => h.single e vd w ⟨b1 0, 0⟩
  | .cpop => h.setX vd ((h.active vm n).countP m2)
  | .first => h.setX vd (match hit with | some k => k | none => 2 ^ 64 - 1)
  | .msbf => h.eachMask e vm vd (fun i => (before i false, 0))
  | .msif => h.eachMask e vm vd (fun i => (before i true, 0))
  | .msof => h.eachMask e vm vd (fun i => (hit == some i, 0))
  | .iota => h.each e vm vd w lg (fun i => (((h.active vm n).filter (fun j => decide (j < i))).countP m2, 0))
  | .id => h.each e vm vd w lg (fun i => (i, 0))
  | .moveRegs k => h.putElts vd w k (fun i => if i < h.vstart then h.elt vd w i else a i)
  | _ => h

/-- Floating-point operations. -/
def Hart.vecFloat (h : Hart) (e : CoreEnv) (o : VOp) (vm : Bool) (vd vs2 : Nat) (b : VSrc) : Hart :=
  let w := h.sew
  let lg := h.vtype.lmul
  let f := fmtOfWidth w
  let rm := (h.rmOf 7).getD .rne
  let a (i : Nat) : Nat := h.elt vs2 w i
  let b1 (i : Nat) : Nat := h.src1 b w i
  let d (i : Nat) : Nat := h.elt vd w i
  let live := h.active vm h.vl
  let pair (r : FRes) (fl : Nat) : Nat × Nat := (r.code, r.fl ||| fl)
  match o with
  | .fbin o swap => h.each e vm vd w lg (fun i => pair (if swap then o.value f rm (b1 i) (a i) else o.value f rm (a i) (b1 i)) 0)
  | .fwide o w2 => h.each e vm vd (2 * w) (lg + 1) (fun i =>
      let x : FRes := if w2 then ⟨h.elt vs2 (2 * w) i, 0⟩ else widened w (a i)
      let y := widened w (b1 i)
      pair (o.value .d rm x.code y.code) (x.fl ||| y.fl))
  | .fmac np na ov => h.each e vm vd w lg (fun i =>
      pair (f.fma rm np na (b1 i) (if ov then d i else a i) (if ov then a i else d i)) 0)
  | .fwmac np na => h.each e vm vd (2 * w) (lg + 1) (fun i =>
      let x := widened w (a i)
      let y := widened w (b1 i)
      pair (CoreFmt.d.fma rm np na y.code x.code (h.elt vd (2 * w) i)) (x.fl ||| y.fl))
  | .fcmp o => h.eachMask e vm vd (fun i => o.value f (a i) (b1 i))
  | .fred o => h.single e vd w (match o with
      | .sum true => foldF (f.add rm) (b1 0) (live.map a)
      | .sum false => treeSum f rm e.order live.length (b1 0 :: live.map a)
      | .min => foldF (f.minMax false) (b1 0) (live.map a)
      | .max => foldF (f.minMax true) (b1 0) (live.map a))
  | .fwred ordered =>
      let xs := live.map (fun i => widened w (a i))
      let fl := xs.foldl (fun t x => t ||| x.fl) 0
      let r := if ordered then foldF (CoreFmt.d.add rm) (h.src1 b 64 0) (xs.map FRes.code)
        else treeSum .d rm e.order xs.length (h.src1 b 64 0 :: xs.map FRes.code)
      h.single e vd 64 ⟨r.code, r.fl ||| fl⟩
  | .fclass => h.each e vm vd w lg (fun i => (f.classify (a i), 0))
  | .rec7 => h.each e vm vd w lg (fun i => pair (f.rec7 rm (a i)) 0)
  | .rsqrt7 => h.each e vm vd w lg (fun i => pair (f.rsqrt7 (a i)) 0)
  | .cvt c k =>
    match k with
    | .same => h.each e vm vd w lg (fun i => pair (c.value k rm w (a i)) 0)
    | .widen => h.each e vm vd (2 * w) (lg + 1) (fun i => pair (c.value k rm w (a i)) 0)
    | .narrow => h.each e vm vd w lg (fun i => pair (c.value k rm w (h.elt vs2 (2 * w) i)) 0)
  | _ => h

/-- A vector operation on registers: each family leaves the others' operations alone. -/
def Hart.vec (h : Hart) (e : CoreEnv) (o : VOp) (vm : Bool) (vd vs2 : Nat) (b : VSrc) : Hart :=
  match o with
  | .fmerge => h.vecMove e o vm vd vs2 b
  | .fslide1up => h.vecMove e o vm vd vs2 b
  | .fslide1down => h.vecMove e o vm vd vs2 b
  | .toF => h.vecMove e o vm vd vs2 b
  | .ofF => h.vecMove e o vm vd vs2 b
  | .bin _ => h.vecInt e o vm vd vs2 b
  | .wide _ _ _ _ _ => h.vecInt e o vm vd vs2 b
  | .narrow _ _ => h.vecInt e o vm vd vs2 b
  | .adc _ => h.vecInt e o vm vd vs2 b
  | .madc _ => h.vecInt e o vm vd vs2 b
  | .cmp _ => h.vecInt e o vm vd vs2 b
  | .mac _ _ => h.vecInt e o vm vd vs2 b
  | .wmac _ _ => h.vecInt e o vm vd vs2 b
  | .red _ => h.vecInt e o vm vd vs2 b
  | .wred _ => h.vecInt e o vm vd vs2 b
  | .ext _ _ => h.vecInt e o vm vd vs2 b
  | o => if o.isFloat then h.vecFloat e o vm vd vs2 b else h.vecMove e o vm vd vs2 b

/-! ## vset -/

/-- The vtype that a word asks for: reserved settings, and SEW above 64 × LMUL, set vill. -/
def VType.ofWord (v : Nat) : VType :=
  let lm := toSigned 3 v
  let sew := bits v 3 3
  if 256 ≤ v ∨ lm = -4 ∨ 3 < sew ∨ 3 + min lm 0 < sew then ⟨true, false, false, 0, 0⟩
  else ⟨false, bit v 7, bit v 6, sew, lm⟩

/-- The vector length for an application vector length: between VLMAX and twice it, the choice is free within the document's bounds. -/
def vlFor (avl top : Nat) (choice : Nat) : Nat :=
  if avl ≤ top then avl
  else if 2 * top ≤ avl then top
  else (avl + 1) / 2 + choice % (top - (avl + 1) / 2 + 1)

/-- vsetvli, vsetivli, vsetvl. With x0 for both rd and rs1 vl stays, which is reserved where VLMAX changes: that sets vill (log entry 190). -/
def Hart.vset (h : Hart) (rd : Nat) (avl : CoreSrc) (vt : VSet) : Hart :=
  let t := VType.ofWord (match vt with | .imm k => k | .reg r => h.getX r)
  let stay := rd == 0 && avl == .reg 0
  let bad := t.ill || (stay && (h.vtype.ill || t.vlmax != h.vtype.vlmax))
  let want := match avl with | .imm k => k.toNat | .reg r => if r = 0 then 2 ^ 64 - 1 else h.getX r
  let n := if bad then 0 else if stay then h.vl else vlFor want t.vlmax (Config.vlChoice want t.vlmax)
  let h1 : Hart := { h with vl := n, vtype := if bad then VType.ofWord (2 ^ 63) else t }
  h1.setX rd n

/-! ## Loads and stores -/

/-- Elements that a load or store takes, from vstart on: how many there are, bytes of one, fields, and the groups' element widths. -/
def Hart.memElts (h : Hart) (a : VAddr) (n : Nat) : Nat × Nat :=
  match a with
  | .maskBits => ((h.vl + 7) / 8, 1)
  | .whole k => (k * 64 / n, n)
  | .index _ => (h.vl, h.sew / 8)
  | _ => (h.vl, n)

/-- The accesses of a vector load or store in their order: element, field, address. -/
def Hart.vecAccesses (h : Hart) (a : VAddr) (n nf : Nat) (vm : Bool) (rs1 : Nat) : List (Nat × Nat × Nat) :=
  let p := h.memElts a n
  (h.active vm p.1).flatMap (fun i => (List.range nf).map (fun k =>
    let o := match a with
      | .stride r => i * h.getX r + k * p.2
      | .index r => h.elt r (8 * n) i + k * p.2
      | _ => (i * nf + k) * p.2
    (i, k, (h.getX rs1 + o) % 2 ^ 64)))

/-- A vector load's effect: `vals` holds what the accesses returned, in their order. A fault-only-first load whose later element could not be
read sets vl to that element. -/
def Hart.vecLoad (h : Hart) (e : CoreEnv) (a : VAddr) (n nf : Nat) (vm : Bool) (vd rs1 : Nat) (vals : List Nat) : Hart :=
  let acc := h.vecAccesses a n nf vm rs1
  let p := h.memElts a n
  let value (i k : Nat) : Nat := ((acc.zip vals).find? (fun x => x.1.1 == i && x.1.2.1 == k)).elim 0 (fun x => x.2)
  match a with
  | .whole k => h.putElts vd (8 * n) k (fun i => if i < h.vstart then h.elt vd (8 * n) i else value i 0)
  | .maskBits =>
    if p.1 ≤ h.vstart then h else h.fill e { r := vd, ew := 8, lg := 0, ta := true } p.1 (fun _ => true) (fun i => value i 0)
  | _ =>
    let stop := match acc[vals.length]? with | some x => x.1 | none => h.vl
    let g := (h.memUses a n nf vd).1
    let h1 := (g.zip (List.range nf)).foldl (fun (t : Hart) x =>
      let r := h.fill e { r := x.1.r, ew := x.1.ew, lg := x.1.lg, fld := x.2, ta := h.vtype.ta } stop (fun i => vm || h.maskBit i) (fun i => value i x.2)
      { t with v := (List.range (8 * regsOf x.1.lg)).foldl (fun v w => v.setIfInBounds (x.1.r * 8 + w) (r.v[x.1.r * 8 + w]?.getD 0)) t.v }) h
    match a with
    | .firstFault => { h1 with vl := stop }
    | _ => h1

/-- What a vector store stores, in order. -/
def Hart.vecStores (h : Hart) (a : VAddr) (n nf : Nat) (vm : Bool) (vs3 rs1 : Nat) : List (Nat × List Byte) :=
  let p := h.memElts a n
  let g := (h.memUses a n nf vs3).1
  (h.vecAccesses a n nf vm rs1).map (fun x =>
    (x.2.2, leBytes p.2 (h.elt ((g.map VGrp.r).getD x.2.1 vs3) (8 * p.2) x.1)))

/-- A fault-only-first load takes no trap for any element but the first: this access belongs to a later one. -/
def Hart.laterElement (h : Hart) (i : CoreInstr) (access : Nat) : Bool :=
  match i with
  | .vload .firstFault n nf vm _ rs1 => match (h.vecAccesses .firstFault n nf vm rs1)[access]? with | some x => x.1 != 0 | none => false
  | _ => false

/-! ## All instructions -/

/-- What an instruction loads: addresses and bytes, in order. -/
def Hart.loadsOf (h : Hart) (i : CoreInstr) : List (Nat × Nat) :=
  match i with
  | .vload a n nf vm _ rs1 => (h.vecAccesses a n nf vm rs1).map (fun x => (x.2.2, (h.memElts a n).2))
  | _ => h.scalarLoads i

/-- What an instruction stores, in order. -/
def Hart.storesOf (h : Hart) (i : CoreInstr) : List (Nat × List Byte) :=
  match i with
  | .vstore a n nf vm vs3 rs1 => h.vecStores a n nf vm vs3 rs1
  | _ => h.scalarStores i

/-- The instruction is one of the vector unit, after which vstart is 0. -/
def CoreInstr.isVector : CoreInstr → Bool
  | .vset _ _ _ => true
  | .vload _ _ _ _ _ _ => true
  | .vstore _ _ _ _ _ _ => true
  | .vec _ _ _ _ _ => true
  | _ => false

/-- The registers after an instruction that retires: `vals` is what its loads returned, `len` its length. -/
def Hart.after (h : Hart) (e : CoreEnv) (i : CoreInstr) (len : Nat) (vals : List Nat) : Hart :=
  let h1 := match i with
    | .vset rd avl vt => h.vset rd avl vt
    | .vload a n nf vm vd rs1 => h.vecLoad e a n nf vm vd rs1 vals
    | .vec o vm vd vs2 b => h.vec e o vm vd vs2 b
    | _ => h.scalar e i len vals
  { h1 with pc := h.target i len, instret := h.instret + 1, vstart := if i.isVector then 0 else h1.vstart }

end Sys2Proof.Machine
end

