-- ==== Sys2Proof/Machine/Arbiter.lean ====
section
/-!
DEFINITION. The arbiter that a Table bank and a Benvo output port share (R255 to R257, R430).
-/
namespace Sys2Proof.Machine

/-- The first of n numbers from ptr on, cyclically, that meets a condition. -/
def scanClass (n ptr : Nat) (ok : Nat → Bool) : Option Nat :=
  ((List.range n).map (fun i => (ptr + i) % n)).find? ok

/-- The decision of an arbiter with n classes and m queues (R255): the class and queue granted, and the arbiter after it. `w` gives a
class's weight, `elig` the classes that wait and may be granted, `holds` the queues that hold a request of a class. -/
def arbDecide (n m : Nat) (w : Nat → Nat) (elig : Nat → Bool) (holds : Nat → Nat → Bool) (r : ArbRec) : Option (Nat × Nat × ArbRec) :=
  if (List.range n).all (fun k => !elig k) then none
  else
    let r1 := if (List.range n).any (fun k => elig k && decide (0 < r.credit.getD k 0)) then r
      else { r with credit := (List.range n).map w }
    match (scanClass n r1.ptr (fun k => elig k && decide (0 < r1.credit.getD k 0))).or (scanClass n r1.ptr elig) with
    | none => none
    | some k =>
      match scanClass m (r1.last.getD k (m - 1) + 1) (holds k) with
      | none => none
      | some p =>
        let c := r1.credit.getD k 0 - 1
        some (k, p, {
          credit := ((List.range n).map (fun i => r1.credit.getD i 0)).set k c
          last := ((List.range n).map (fun i => r1.last.getD i (m - 1))).set k p
          ptr := if 0 < c then k else (k + 1) % n })

end Sys2Proof.Machine
end

