-- ==== Sys2Proof/Machine/Sequences.lean ====
section
/-!
DEFINITION. Sequences and slots as the Dealer keeps them (R339 to R345, R348, R354, R357): the group's members, the journal's
hold on what becomes visible, slot records, policy entries and sampling contexts, outcomes, retirement, forks, preemption.
The admission queue and the slot records are plain data (their bytes in the state area are internal to the Dealer, R339).
-/
namespace Sys2Proof.Machine

/-! ## Outcome codes (R345) and partition states (R342) -/

/-- ABORTED -/ abbrev ocAborted : Nat := 0x10
/-- REQUEST_INVALID -/ abbrev ocInvalid : Nat := 0x20
/-- NOT_LEAD -/ abbrev ocNotLead : Nat := 0x21
/-- POISON_LIMIT -/ abbrev ocPoison : Nat := 0x22
/-- MEMBER_LOST -/ abbrev ocMember : Nat := 0x23
/-- NO_MEMORY -/ abbrev ocNoMemory : Nat := 0x24
/-- PREEMPTED -/ abbrev ocPreempted : Nat := 0x25
/-- NO_PLAN -/ abbrev ocNoPlan : Nat := 0x26

/-- PSTATE of partition p. -/
def State.pstate (s : State) (p : Nat) : Nat := s.get dlrU (Reg.dlr.partPstate.at p)

/-- Slots of partition p. -/
def State.slotCount (s : State) (p : Nat) : Nat := s.get dlrU (Reg.dlr.partSlotCount.at p)

/-! ## The group (R24, R341) -/

/-- Position of the lead. -/
def State.leadIx (s : State) (p : Nat) : Nat := s.get dlrU (Reg.dlr.partLeadIndex.at p)

/-- Node of member m of partition p's group. -/
def State.memberNode (s : State) (p m : Nat) : Nat := bits (s.get dlrU (Reg.dlr.partMember.at p)) (8 * m) 6

/-- This module is the lead of p's group. -/
def State.isLead (s : State) (p : Nat) : Bool := s.groupSize p == 1 || s.memberIx p == s.leadIx p

/-- The other members. -/
def State.followers (s : State) (p : Nat) : List Nat :=
  if s.groupSize p = 1 then [] else (List.range (s.groupSize p)).filter (fun m => m != s.memberIx p)

/-- Sends a message on TC1 to every other member. -/
def State.sendGroup (s : State) (p : Nat) (kind : Msg) (args : List Nat) : State :=
  (s.followers p).foldl (fun t m => t.emit (.send (s.memberNode p m) 1 kind args)) s

/-- Sends a message on TC1 to the lead. -/
def State.sendLead (s : State) (p : Nat) (kind : Msg) (args : List Nat) : State :=
  s.emit (.send (s.memberNode p (s.leadIx p)) 1 kind args)

/-- The group fields of partition p as one number (R355): GROUP_SIZE, LEAD_INDEX, c, B, SLOT_COUNT and the member bytes. -/
def State.groupFields (s : State) (p : Nat) : Nat :=
  s.get dlrU (Reg.dlr.partGroupSizeM1.at p) + s.leadIx p * 2 ^ 4 + s.get dlrU (Reg.dlr.partCpM1.at p) * 2 ^ 8 +
    s.get dlrU (Reg.dlr.partCpBlockLog2.at p) * 2 ^ 12 + s.slotCount p * 2 ^ 16 +
    s.get dlrU (Reg.dlr.partMember.at p) * 2 ^ 32

/-! ## The journal (R365) -/

/-- The Dealer that does not hold ownership. -/
def State.dummy (s : State) : UnitId := ⟨.dlr, 1 - (s.dealer).ix⟩

/-- A dummy follows the journal: ROLE is DUMMY. -/
def State.dummyLive (s : State) : Bool := s.get s.dummy Reg.dlr.role == 1 && s.ustate s.dummy == stRunning

/-- Runs a Dealer decision. What it makes visible outside waits for the dummy's acknowledgement of its journal record. -/
def State.journaled (s : State) (k : State → State) : State :=
  let t := k s
  if s.dummyLive then { t with out := s.out, held := t.held ++ [t.out.drop s.out.length] } else t

/-! ## Slots -/

/-- The record of a slot in use. -/
def PartRec.slot? (r : PartRec) (n : Nat) : Option SlotRec := r.slots.find? (fun x => x.slot == n)

/-- The record with a slot's record replaced. -/
def PartRec.putSlot (r : PartRec) (x : SlotRec) : PartRec :=
  { r with slots := r.slots.map (fun y => if y.slot = x.slot then x else y) }

/-- The state with one slot of partition p changed. -/
def State.updSlot (s : State) (p n : Nat) (f : SlotRec → SlotRec) : State :=
  s.setPart p (fun r => { r with slots := r.slots.map (fun y => if y.slot = n then f y else y) })

/-- A sequence is in the uncommitted step. -/
def PartRec.inStep (r : PartRec) (n : Nat) : Bool :=
  match r.step with
  | some st => st.entries.any (fun e => e.slot == n)
  | none => false

/-- SEQ_TAG of a slot's sequence (R380). -/
def SlotRec.tag (x : SlotRec) : Nat := x.slot + x.gen % 2 ^ 17 * 2 ^ 15

/-- Free slots of partition p, ascending. -/
def State.freeSlots (s : State) (p : Nat) : List Nat :=
  (List.range (s.slotCount p)).filter (fun n => ((s.part p).slot? n).isNone)

/-! ## Events of class REQUEST (R381) -/

/-- Second payload half of ADMIT, OUTCOME and PREEMPT. -/
def reqV1 (tag fork b h : Nat) : Nat := tag % 2 ^ 32 + fork % 256 * 2 ^ 32 + b % 256 * 2 ^ 40 + h % 65536 * 2 ^ 48

/-- An OUTCOME event, and the Dealer's count of outcomes (R371). -/
def State.tellOutcome (s : State) (p reqId tag fork code emitted : Nat) : State :=
  let k := if code ≤ 5 then 4 else if code = ocAborted then 5 else 6
  (s.partEvent p 0x1002 reqId (reqV1 tag fork code (sat 0xFFFF emitted))).count s.dealer k 1

/-- An outcome: while token records of the partition wait, it waits behind them (R345). -/
def State.outcome (s : State) (p reqId tag fork code emitted : Nat) : State :=
  let r := s.part p
  if r.tokOut.isEmpty && r.tokWait.isEmpty then s.tellOutcome p reqId tag fork code emitted
  else s.setPart p (fun r => { r with outWait := r.outWait ++ [⟨reqId, tag, fork, code, emitted, none⟩] })

/-- A sequence without a slot ends: an OUTCOME with SEQ_TAG 0xFFFF_FFFF. -/
def State.outcomeNoSlot (s : State) (p : Nat) (desc : List Byte) (fork code emitted : Nat) : State :=
  let id := leNat (desc.take 8)
  (s.setPart p (fun r => { r with ended := r.ended ++ [id] })).outcome p id 0xFFFF_FFFF fork code emitted

/-- The Dealer remembers a sequence that has ended, for ALREADY_DONE (R361). -/
def PartRec.end' (r : PartRec) (x : SlotRec) : PartRec :=
  { r with slots := r.slots.filter (fun y => y.slot != x.slot), ended := r.ended ++ [x.reqId] }

/-- Retires a slot on this member: its pages, tables and record (R319). -/
def State.retireHere (s : State) (p n : Nat) : State :=
  match (s.part p).slot? n with
  | none => s.retirePages p n
  | some x => (s.retirePages p n).setPart p (fun r => r.end' x)

/-- Retires a slot on every member: the lead's decision (R319, R344). -/
def State.retireAll (s : State) (p n : Nat) : State := (s.sendGroup p .slotRetire [p, n]).retireHere p n

/-- A sequence ends at the lead: outcome event, and its slot is retired on every member. -/
def State.endSeq (s : State) (p n code : Nat) : State :=
  match (s.part p).slot? n with
  | none => s
  | some x => (s.outcome p x.reqId x.tag x.fork code x.toks.length).retireAll p n

/-! ## The state area (R339, R607) -/

/-- The Dealer reads n bytes at a memory key: what damages them is met; true when they are poisoned. -/
def State.dealerReads (s : State) (a n : Nat) : State × Bool :=
  let m := s.readAll clsSys [(dgaOf s.node 0 0 + a, n)]
  (m.1, m.2 || m.1.anyPoison a n)

/-- Memory key of an entry of p's admission queue. -/
def State.entryKey (s : State) (p i : Nat) : Nat := key 0 ((s.area p).queue + 128 * i)

/-- The first free entry of p's admission queue, if one is left (DESIGN CHOICE, log entry 167). -/
def State.freePlace (s : State) (p : Nat) : Option Nat :=
  let q := (s.part p).queue
  ((List.range (q.length + 1)).find? (fun i => !q.any (fun e => e.place == some i))).filter
    (fun i => decide (i < s.get dlrU (Reg.dlr.partQueueEntries.at p)))

/-- Copies a descriptor into a free entry of the admission queue: the state, and the queue's new element. -/
def State.copyDesc (s : State) (p : Nat) (e : QEntry) : State × QEntry :=
  let i := s.freePlace p
  (match i with
    | none => s
    | some i => s.writeMem clsSys (s.entryKey p i) (e.desc.take 128) false, { e with place := i })

/-- Reads a queue entry: true when its descriptor is poisoned (R607). -/
def State.readDesc (s : State) (p : Nat) (e : QEntry) : State × Bool :=
  match e.place with
  | none => (s, false)
  | some i => s.dealerReads (s.entryKey p i) 128

/-! ## Bytes of a request (R343, R378) -/

/-- A field of a descriptor. -/
def dsc (d : List Byte) (o n : Nat) : Nat := leNat ((d.drop o).take n)

/-- Positive FP32 patterns up to a bound: zero, or a number, and no sign. -/
def fpUpTo (m v : Nat) : Bool := decide (v ≤ m)

/-- The extension block lies in space 0 of the partition's region on this module (R378). -/
def State.extOk (s : State) (p a : Nat) : Bool :=
  dgaFormed a && decide (dgaNode a = s.node) && decide (dgaSpace a = 0) && decide (a % 64 = 0) && s.inRegion p (dgaOff a) 2304

/-- Stop lengths of the used stop sequences, and rising bias tokens, of an extension block (R198). -/
def extFieldsOk (ext : List Byte) (nseq nbias : Nat) : Bool :=
  (List.range nseq).all (fun i => let l := dsc ext (0xC0 + i) 1; decide (1 ≤ l ∧ l ≤ 8)) &&
    (List.range (nbias - 1)).all (fun i => decide (dsc ext (0x100 + 8 * i) 4 < dsc ext (0x108 + 8 * i) 4))

/-- The checks of admission: R343, the sampling ranges of R198, the attention ranges of R145, reserved bytes of R378. -/
def State.requestOk (s : State) (p : Nat) (d : List Byte) : Bool :=
  let prompt := dsc d 8 8
  let ext := dsc d 0x50 8
  decide (1 ≤ dsc d 0x10 4 ∧ dsc d 0x10 4 ≤ 8388608) && decide (dsc d 0x14 1 < 4) &&
    decide (1 ≤ dsc d 0x15 1 ∧ dsc d 0x15 1 ≤ 16) && decide (dsc d 0x16 1 ≤ 63) && decide (dsc d 0x17 1 < 4) &&
    decide (dsc d 0x26 2 = 0) && decide (dsc d 0x58 40 = 0) &&
    dgaFormed prompt && decide (dgaNode prompt = s.node) && decide (dgaSpace prompt = 0) && decide (prompt % 64 = 0) &&
    s.inRegion p (dgaOff prompt) (4 * dsc d 0x10 4) &&
    decide (dsc d 0x20 2 ≤ 64) && decide (dsc d 0x22 2 ≤ 1024) && decide (dsc d 0x24 2 ≤ 4096) &&
    (dsc d 0x28 4 == 0 || decide (0x3B80_0000 ≤ dsc d 0x28 4 ∧ dsc d 0x28 4 ≤ 0x4280_0000)) &&
    decide (dsc d 0x2C 2 ≤ 1024) && decide (dsc d 0x2E 2 ≤ 4096) && fpUpTo 0x7F80_0000 (dsc d 0x30 4) &&
    fpUpTo 0x3F80_0000 (dsc d 0x34 4) && fpUpTo 0x4180_0000 (dsc d 0x38 4) && decide (dsc d 0x48 4 < 2) &&
    decide (dsc d 0x4C 1 ≤ 16) && decide (dsc d 0x4D 1 ≤ 4) && decide (dsc d 0x4E 2 ≤ 256) &&
    (if ext = 0 then decide (dsc d 0x4C 4 = 0)
     else s.extOk p ext && extFieldsOk (s.bytes (dgaKey ext) 2304) (dsc d 0x4D 1) (dsc d 0x4E 2))

/-! ## Policy entries and sampling contexts (R145, R198, R199) -/

/-- Prompt bytes: read in place on the module that holds the prompt; another member reads them from the lead's module, which
this state does not hold, so they are free there. -/
def State.promptRun (s : State) (prompt i n : Nat) : List Byte × State :=
  if dgaNode prompt = s.node then
    (s.bytes (dgaKey prompt + 4 * i) (4 * n), (s.readAll clsSys [(prompt + 4 * i, 4 * n)]).1)
  else s.freshBytes (4 * n)

/-- Some of n tokens of a prompt from token i on lie in a poisoned line of this module. -/
def State.promptBad (s : State) (prompt i n : Nat) : Bool :=
  dgaNode prompt == s.node && s.anyPoison (dgaKey prompt + 4 * i) (4 * n)

/-- The extension block's bytes, in the same way. -/
def State.extBytes (s : State) (d : List Byte) : List Byte × State :=
  if dsc d 0x50 8 = 0 then (List.replicate 2304 0, s)
  else if dgaNode (dsc d 0x50 8) = s.node then
    (s.bytes (dgaKey (dsc d 0x50 8)) 2304, (s.readAll clsSys [(dsc d 0x50 8, 2304)]).1)
  else s.freshBytes 2304

/-- The policy entry of a descriptor (R145). -/
def policyBytes (d : List Byte) : List Byte :=
  leBytes 2 (dsc d 0x17 1) ++ (d.drop 0x20).take 6 ++ List.replicate 8 0

/-- Appends tokens to a history ring of 4,096: token number i at entry i mod 4,096. -/
def State.appendHistory (s : State) (ctx count : Nat) : List Nat → State
  | [] => s
  | t :: r => State.appendHistory (s.writeMem clsSys (ctx + 0xA00 + count % 4096 * 4) (leBytes 4 t) false) ctx (count + 1) r

/-- Writes a slot's policy entry and sampling context at admission (R348 step 3): KEY is 256 random bits, HISTORY the last
prompt tokens and then the logged tokens, GEN_COUNT the logged count. -/
def State.writeContext (s : State) (p slot : Nat) (d : List Byte) (logged : List Nat) : State :=
  let a := s.area p
  let plen := dsc d 0x10 4
  let n := min plen 4096
  let ctx := key 0 (a.ctx + 20480 * slot)
  let kb := s.freshBytes 32
  let eb := kb.2.extBytes d
  let pb := eb.2.promptRun (dsc d 8 8) (plen - n) n
  let body := (d.drop 0x48).take 4 ++ (d.drop 0x28).take 32 ++ leBytes 4 logged.length ++ leBytes 4 (n + logged.length) ++
    (d.drop 0x4C).take 4 ++ List.replicate 16 0 ++ kb.1 ++ List.replicate 160 0 ++ eb.1 ++ pb.1 ++
    List.replicate (16384 - 4 * n) 0 ++ List.replicate 0x600 0
  let bad := pb.2.promptBad (dsc d 8 8) (plen - n) n ||
    (dsc d 0x50 8 != 0 && dgaNode (dsc d 0x50 8) == s.node && pb.2.anyPoison (dgaKey (dsc d 0x50 8)) 2304)
  ((pb.2.writeMem clsSys (key 0 (a.policy + 16 * slot)) (policyBytes d) false).writeMem clsSys ctx body bad).appendHistory ctx n logged

/-- The slot record of an admitted sequence. -/
def newSlot (d : List Byte) (slot gen fork nfork order : Nat) (resumed : List Nat) (unacked : List Nat) : SlotRec :=
  { slot := slot, st := .admitted, gen := gen, reqId := dsc d 0 8, fork := fork, nfork := nfork, cls := dsc d 0x14 1,
    drafts := dsc d 0x16 1, plen := dsc d 0x10 4, prompt := dsc d 8 8, prefixKey := dsc d 0x18 8, pos := 0, order := order,
    lastStep := 0, toks := resumed, resumed := resumed.length, abortPending := false, unacked := unacked, unreported := [],
    matched := 0, desc := d }

/-- Memory key of a slot's resume log (R339). -/
def State.logKey (s : State) (p slot : Nat) : Nat := key 0 ((s.area p).logs + 16384 * slot)

/-- Appends tokens to a slot's resume log, up to 4,096 (R356). -/
def State.appendLog (s : State) (p slot have' : Nat) : List Nat → State
  | [] => s
  | t :: r =>
    if 4096 ≤ have' then s
    else State.appendLog (s.writeMem clsSys (s.logKey p slot + 4 * have') (leBytes 4 t) false) p slot (have' + 1) r

/-- Memory key of a slot's record in the state area (R339). -/
def State.recordKey (s : State) (p slot : Nat) : Nat := key 0 ((s.area p).slots + 128 * slot)

/-- Writes a slot's 128-byte record; its bytes are internal to the Dealer, and free (R339, log entry 167). -/
def State.writeRecord (s : State) (p slot : Nat) : State :=
  let f := s.freshBytes 128
  f.2.writeMem clsSys (s.recordKey p slot) f.1 false

/-- Takes slots for a request's forks: records, generations, policy entries, contexts and resume logs. `fork` is the first
slot's fork index. -/
def State.takeSlots (s : State) (p : Nat) (d : List Byte) (nfork : Nat) (resumed : List Nat) (unacked : List Nat) :
    Nat → List Nat → State
  | _, [] => s
  | fork, n :: rest =>
    let g := (Sparse.get (fun _ => 0) (s.part p).gens n + 1) % 2 ^ 17
    let s1 := s.setPart p (fun r =>
      { r with
        gens := Sparse.set (fun _ => 0) r.gens n g
        slots := r.slots ++ [newSlot d n g fork nfork r.admissions resumed unacked] })
    State.takeSlots (((s1.writeRecord p n).writeContext p n d resumed).appendLog p n 0 resumed) p d nfork resumed unacked (fork + 1) rest

/-- Where a sequence's prefill ends (R351). -/
def SlotRec.prefillEnd (x : SlotRec) : Nat :=
  if x.nfork = 1 then x.plen + x.resumed else x.plen - 1

/-- Forks a request: the table of fork 0 is copied to the other slots, and every fork enters DECODE at P − 1 (R357). -/
def State.forkSeq (s : State) (p slot : Nat) : State :=
  match (s.part p).slot? slot with
  | none => s
  | some x =>
    let others := (s.part p).slots.filter (fun y => y.reqId == x.reqId && y.order == x.order && y.fork != 0)
    let s1 := others.foldl (fun t y => t.forkPages p slot y.slot) s
    s1.setPart p (fun r =>
      { r with slots := r.slots.map (fun y =>
          if y.reqId = x.reqId ∧ y.order = x.order then { y with st := .decode, pos := x.plen - 1 } else y) })

/-- The matched count is known: fork 0 starts at 64 M, and every sequence's ADMIT event is written (R323, R348). -/
def State.fixMatch (s : State) (p slot m : Nat) : State :=
  let s1 := (s.mapBlocks p slot m).updSlot p slot (fun x => { x with pos := 64 * m, matched := m, unreported := [] })
  match (s1.part p).slot? slot with
  | none => s1
  | some x =>
    let all := (s1.part p).slots.filter (fun y => y.reqId == x.reqId && y.order == x.order)
    let s2 := all.foldl (fun t y =>
      t.partEvent p 0x1001 y.reqId (reqV1 y.tag y.fork (if y.resumed = 0 then 0 else 1) (if y.slot = slot then m else 0))) s1
    if x.nfork ≠ 1 ∧ x.prefillEnd = 64 * m then s2.forkSeq p slot else s2

/-! ## Preemption (R354) -/

/-- Puts a resumed sequence at the head of its class in the queue. -/
def headOfClass (e : QEntry) : List QEntry → List QEntry
  | [] => [e]
  | x :: r => if dsc x.desc 0x14 1 = dsc e.desc 0x14 1 then e :: x :: r else x :: headOfClass e r

/-- Preempts a slot: back to the queue with its tokens, or FAILED after more than 4,096 of them. One whose abort is pending ends ABORTED
instead: its step will neither commit nor replay with it (DESIGN CHOICE, log entry 168). -/
def State.preempt (s : State) (p slot : Nat) : State :=
  match (s.part p).slot? slot with
  | none => s
  | some x =>
    if x.abortPending then s.endSeq p slot ocAborted
    else
    let back := decide (x.toks.length ≤ 4096)
    let s1 := (((s.partEvent p 0x1004 x.reqId (reqV1 x.tag x.fork (if back then 1 else 0) 0)).count s.dealer 10 1).irq
      s.dealer (2 ^ 18)).sendGroup p .slotRetire [p, slot]
    if back then
      let c := (s1.retirePages p slot).copyDesc p { desc := x.desc, since := s.now, resumed := x.toks, fork := some x.fork }
      c.1.setPart p (fun r =>
        { r with
          slots := r.slots.filter (fun y => y.slot != slot)
          queue := headOfClass c.2 r.queue })
    else (s1.outcome p x.reqId x.tag x.fork ocPreempted x.toks.length).retireHere p slot

/-- The active Dealer's state is lost or the group breaks: every sequence of p that has a slot and is not FINISHING ends with
a code (R364). -/
def State.failAll (s : State) (p code : Nat) : State :=
  let live := (s.part p).slots.filter (fun x => x.st != .finishing)
  live.foldl (fun t x => (t.outcome p x.reqId x.tag x.fork code x.toks.length).retireHere p x.slot) s

/-- PSTATE becomes GROUP_BROKEN (R342, R372). -/
def State.breakGroup (s : State) (p : Nat) : State :=
  (s.put dlrU (Reg.dlr.partPstate.at p) 2).irq s.dealer (2 ^ 19)

end Sys2Proof.Machine
end

