-- ==== Sys2Proof/Machine/Packets.lean ====
section
/-!
DEFINITION. Benvo packets (R423, R424): their header, their injection, and the node states that a module holds (R422).
-/
namespace Sys2Proof

/-- Payload flits of a packet (R423). -/
def Pkt.len (p : Pkt) : Nat := (p.data.length + 31) / 32

/-- The first 64 bits of a header flit (R424). -/
def Pkt.word (p : Pkt) : Nat :=
  p.dst % 64 + p.src % 64 * 2 ^ 6 + p.tc % 8 * 2 ^ 12 + p.epoch % 2 * 2 ^ 15 + p.hops % 4 * 2 ^ 16 + p.len % 32 * 2 ^ 18 +
    (if p.poison then 2 ^ 23 else 0) + p.part % 8 * 2 ^ 24 + p.kind % 32 * 2 ^ 27 + p.tag % 1024 * 2 ^ 32 +
    p.tagPort % 32 * 2 ^ 42 + (if p.abort then 2 ^ 47 else 0) + p.flow % 256 * 2 ^ 48

/-- The header flit. -/
def Pkt.header (p : Pkt) : List Byte := leBytes 8 p.word ++ leBytes 8 p.addr ++ leBytes 16 p.extra

end Sys2Proof

namespace Sys2Proof.Machine

/-- Changes what the routers and links hold. -/
def State.setNet (s : State) (f : NetRec → NetRec) : State := { s with net := f s.net }

/-! Kinds (R424). -/
/-- WRITE -/ abbrev kWrite : Nat := 0
/-- WRITE_ACK -/ abbrev kWriteAck : Nat := 1
/-- READ -/ abbrev kRead : Nat := 2
/-- READ_DATA -/ abbrev kReadData : Nat := 3
/-- COLL -/ abbrev kColl : Nat := 4
/-- MSG -/ abbrev kMsg : Nat := 5
/-- HELLO -/ abbrev kHello : Nat := 6
/-- KEEPALIVE -/ abbrev kKeepalive : Nat := 7
/-- MARK -/ abbrev kMark : Nat := 8
/-- LOSS -/ abbrev kLoss : Nat := 9
/-- TELEM -/ abbrev kTelem : Nat := 10

/-- A router page (R445). -/
def bvfU (i : Nat) : UnitId := ⟨.bvf, i⟩

/-- The state that this node holds for a node (R422). -/
def State.nodeState (s : State) (n : Nat) : Nat := bits (s.get (bvfU 0) Reg.bvf.nodeState) (2 * n) 2

/-- A port's page. -/
def bvlU (k : Nat) : UnitId := ⟨.bvl, k⟩

/-- The router of a port: its link die (R398). -/
def routerOf (k : Nat) : UnitId := bvfU (k / 12)

/-- A port's link record. -/
def State.link (s : State) (k : Nat) : LinkRec := Sparse.get (fun _ => {}) s.net.links k

/-- The state with a port's link record changed. -/
def State.setLink (s : State) (k : Nat) (f : LinkRec → LinkRec) : State :=
  s.setNet (fun n => { n with links := Sparse.set (fun _ => {}) n.links k (f (s.link k)) })

/-- LINK.STATE of a port (R408). -/
def State.linkState (s : State) (k : Nat) : Nat := s.get (bvlU k) Reg.bvl.linkState

/-- A packet of this module with nothing in it but its destination, class and kind. -/
def State.packet (s : State) (dst tc kind : Nat) : Pkt :=
  { dst := dst, src := s.node, tc := tc, epoch := s.get (bvfU 0) Reg.bvf.epochInj, hops := 0, poison := false, part := 0,
    kind := kind, tag := 0, tagPort := 0, abort := false, flow := 0, addr := 0, extra := 0, data := [] }

/-- Hands a packet to the routers for injection. -/
def State.inject (s : State) (p : Pkt) : State := s.setNet (fun n => { n with inj := n.inj ++ [p] })

/-- FLOW of a TC2 packet (R425). -/
def flowOf (addr : Nat) : Nat := addr / 256 % 256

end Sys2Proof.Machine
end

