-- ==== Sys2Proof/Machine/Collective.lean ====
section
/-!
DEFINITION. Collective engines (chapter 17): groups, streams and chunks, the exchange patterns, reduction, digests, completion,
cancellation, member loss and re-formation (R449 to R482).
-/
namespace Sys2Proof.Machine

/-! ## Groups (R450 to R452) -/

/-- A collective engine. -/
def ceU (i : Nat) : UnitId := ⟨.ce, i⟩

/-- A field of group g's entry. -/
def State.grp (s : State) (g : Nat) (f : Field) : Nat := s.get (ceU (g / 16)) (f.at (g % 16))

/-- Sets one. -/
def State.setGrp (s : State) (g : Nat) (f : Field) (v : Nat) : State := s.put (ceU (g / 16)) (f.at (g % 16)) v

/-- What is held for group g beyond its entry. -/
def State.grpRec (s : State) (g : Nat) : GrpRec := Sparse.get (fun _ => {}) s.grps g

/-- Changes it. -/
def State.updGrp (s : State) (g : Nat) (f : GrpRec → GrpRec) : State :=
  { s with grps := Sparse.set (fun _ => {}) s.grps g (f (s.grpRec g)) }

/-- GSTATE codes (R485). -/
abbrev gsUnused : Nat := 0
abbrev gsReady : Nat := 1
abbrev gsHeld : Nat := 2
abbrev gsReforming : Nat := 3
abbrev gsBroken : Nat := 4

/-- GSTATE of a group. -/
def State.gstate (s : State) (g : Nat) : Nat := s.grp g Reg.ce.grpGstate

/-- MEMBERS and LIVE as 64-bit masks. -/
def State.grpMembers (s : State) (g : Nat) : Nat := s.grp g Reg.ce.grpMembersLo + s.grp g Reg.ce.grpMembersHi * 2 ^ 32
def State.grpLive (s : State) (g : Nat) : Nat := s.grp g Reg.ce.grpLiveLo + s.grp g Reg.ce.grpLiveHi * 2 ^ 32

/-- Sets LIVE. -/
def State.setLive (s : State) (g v : Nat) : State := (s.setGrp g Reg.ce.grpLiveLo v).setGrp g Reg.ce.grpLiveHi (v / 2 ^ 32)

/-- Nodes of a mask, ascending. -/
def nodesOf (m : Nat) : List Nat := (List.range 64).filter (fun n => bit m n)

/-- A mask of nodes. -/
def maskOf (l : List Nat) : Nat := l.foldl (fun a n => a ||| 2 ^ n) 0

/-- Live nodes of a group by member index. -/
def State.grpNodes (s : State) (g : Nat) : List Nat := nodesOf (s.grpLive g)

/-- This module's member index in a group. -/
def State.grpIx (s : State) (g : Nat) : Nat := ((s.grpNodes g).findIdx? (fun n => n == s.node)).getD 0

/-- Seats and suits of a product group (R467): the same q seats in each of its u suits, u ≥ 2. -/
def productDims (ns : List Nat) : Option (Nat × Nat) :=
  let suits := (ns.map (fun n => n / 16)).dedup
  match suits with
  | a :: _ :: _ =>
    let seats (x : Nat) : List Nat := (ns.filter (fun n => n / 16 == x)).map (fun n => n % 16)
    if suits.all (fun x => seats x == seats a) then some ((seats a).length, suits.length) else none
  | _ => none

/-- The engine that serves a group: its home engine, or the partner when that is out of service (R481, R482); none when both are. -/
inductive CeTarget where
  | engine (i : Nat)
  | wait
  | out
  deriving DecidableEq, Repr

/-- An engine is out of service. -/
def State.ceOut (s : State) (i : Nat) : Bool := s.ustate (ceU i) == stFaulted || s.ustate (ceU i) == stQuiesced || s.ustate (ceU i) == stVacant

/-- The other engine of the link die (R449). -/
def partnerOf (i : Nat) : Nat := i / 2 * 2 + (1 - i % 2)

/-- Where lanes of group g go. -/
def State.serving (s : State) (g : Nat) : CeTarget :=
  let h := g / 16
  if s.ustate (ceU h) = stRunning then .engine h
  else if s.ceOut h then
    if s.ustate (ceU (partnerOf h)) = stRunning then .engine (partnerOf h)
    else if s.ceOut (partnerOf h) then .out else .wait
  else .wait

/-! ## The command (R453 to R455) -/

/-- The operands of a CE lane (R454). -/
structure CeOps where
  src : Nat
  dst : Nat
  work : Nat
  aux : Nat
  e : Nat
  grp : Nat
  root : Nat
  fmt : Nat
  nsub : Nat
  tail : Nat
  deriving DecidableEq, Repr

/-- Reads them. -/
def Lane.ce (l : Lane) : CeOps :=
  { src := l.op 16 8, dst := l.op 24 8, work := l.op 32 8, aux := l.op 40 8, e := l.op 48 4, grp := l.op 52 1, root := l.op 53 1,
    fmt := l.op 54 2, nsub := l.op 56 2, tail := l.op 58 6 }

/-- The formats that a reduction takes (R455). -/
def ceFmt : Nat → Option Fmt
  | 0 => some .fp32 | 1 => some .bf16 | 3 => some .e4m3 | 4 => some .e5m2 | _ => none

def CeOps.inFmt (o : CeOps) : Fmt := (ceFmt (bits o.fmt 0 4)).getD .fp32
def CeOps.outFmt (o : CeOps) : Fmt := (ceFmt (bits o.fmt 4 4)).getD .fp32
def CeOps.redOp (o : CeOps) : Nat := bits o.fmt 8 2
def CeOps.reverse (o : CeOps) : Bool := bit o.fmt 10
def CeOps.columns (o : CeOps) : Bool := bit o.fmt 11

/-- A reduction: ALL_REDUCE or REDUCE_SCATTER. -/
def reduces (op : Nat) : Bool := op == 1 || op == 2

/-- First element of shard j of n. -/
def shard (e n j : Nat) : Nat := j * e / n

/-- Elements of shard j. -/
def shardLen (e n j : Nat) : Nat := shard e n (j + 1) - shard e n j

/-- Field ranges (R454, R471, R472): BAD_OPERAND otherwise. `stride`: the auxiliary record's DST_STRIDE. -/
def CeOps.fieldsOk (o : CeOps) (op n stride : Nat) : Bool :=
  o.tail == 0 && o.grp / 64 == 0 && o.fmt / 4096 == 0 &&
    (op == 6 || (!o.reverse && !o.columns && o.nsub == 0)) && (op == 4 || o.root == 0) &&
    match op with
    | 1 => decide (1 ≤ o.e ∧ o.e ≤ 2 ^ 28) && o.aux == 0 && o.src != 0 && o.dst != 0 && o.work != 0
    | 2 => decide (1 ≤ o.e ∧ o.e ≤ 2 ^ 28) && o.aux == 0 && o.src != 0 && o.dst != 0 && o.work != 0
    | 3 => decide (1 ≤ o.e ∧ o.e ≤ 2 ^ 30) && o.work == 0 && o.src != 0 && o.dst != 0
    | 4 => decide (1 ≤ o.e ∧ o.e ≤ 2 ^ 30) && o.work == 0 && o.aux == 0 && o.src != 0 && o.dst != 0 && decide (o.root < n)
    | 5 => o.e == 0 && o.src == 0 && o.dst == 0 && o.work == 0 && o.aux == 0
    | _ => decide (64 ≤ o.e ∧ o.e ≤ 4_194_304) && o.e % 64 == 0 && (o.reverse || decide (1 ≤ o.nsub ∧ o.nsub ≤ 512)) && o.src != 0 && o.dst != 0 &&
        o.work != 0 && (o.reverse || o.aux != 0) && !(o.reverse && o.columns) && (!o.columns || (o.nsub == 1 && stride != 0 && stride % 64 == 0))

/-! ## What a collective's streams are (R463, R466, R467, R469 to R472) -/

/-- Opcode, members, own index of a collective. -/
def CollRec.op (c : CollRec) : Nat := c.lane.opcode
def State.collN (s : State) (c : CollRec) : Nat := (s.grpNodes c.group).length
def State.collIx (s : State) (c : CollRec) : Nat := s.grpIx c.group
/-- Its product dimensions. -/
def State.collDims (s : State) (c : CollRec) : Option (Nat × Nat) := productDims (s.grpNodes c.group)

/-- An all-to-all of a product group goes by way of suit-mates (R467). -/
def State.viaMates (s : State) (c : CollRec) : Option (Nat × Nat) := if c.op = 6 then s.collDims c else none

/-- A reverse all-to-all (R471). -/
def CollRec.back (c : CollRec) : Bool := c.op == 6 && c.lane.ce.reverse

/-- Counts are exchanged before any data (R469, R470). -/
def CollRec.needsCounts (c : CollRec) : Bool := (c.op == 6 && !c.lane.ce.reverse) || (c.op == 3 && c.lane.ce.aux != 0)

/-- Sub-counts per destination: NSUB; 1 for a gather; for a reverse all-to-all, that of the forward one (R471). -/
def State.collSub (s : State) (c : CollRec) : Nat :=
  let o := c.lane.ce
  if c.op = 6 then
    (if o.reverse then ((((s.grpRec c.group).forward.find? (fun x => x.1 == o.work)).map (fun x => x.2.1)).getD o.nsub) else o.nsub)
  else 1

/-- Counts that member j sends this member with sub-index k. -/
def State.countFrom (s : State) (c : CollRec) (j k : Nat) : Nat :=
  let i := s.collIx c
  let ns := s.collSub c
  if c.op = 6 ∧ c.lane.ce.reverse then s.le (dgaKey c.lane.ce.work + 4 * (s.collN c * ns + j * ns + k)) 4
  else if j = i then (if c.op = 3 then c.mine.getD 0 0 else c.mine.getD (i * ns + k) 0)
  else
    match (s.grpRec c.group).counts.find? (fun x => x.1 == j && x.2.1 == c.seq) with
    | some x => x.2.2.getD k 0
    | none => 0

/-- Counts that this member sends member j with sub-index k. -/
def State.countTo (s : State) (c : CollRec) (j k : Nat) : Nat :=
  let ns := s.collSub c
  if c.op = 6 ∧ c.lane.ce.reverse then s.le (dgaKey c.lane.ce.work + 4 * (j * ns + k)) 4 else c.mine.getD (j * ns + k) 0

/-- A sum over [0, n). -/
def sumTo (n : Nat) (f : Nat → Nat) : Nat := (List.range n).foldl (fun a i => a + f i) 0

/-- First row of the run of source j and sub-index k in the receiver's layout (R470). -/
def State.runRow (s : State) (c : CollRec) (j k : Nat) : Nat :=
  let n := s.collN c
  sumTo k (fun k' => sumTo n (fun j' => s.countFrom c j' k')) + sumTo j (fun j' => s.countFrom c j' k)

/-- Rows to member j, and the first of them in SRC (R469). -/
def State.rowsTo (s : State) (c : CollRec) (j : Nat) : Nat := sumTo (s.collSub c) (fun k => s.countTo c j k)
def State.firstTo (s : State) (c : CollRec) (j : Nat) : Nat := sumTo j (fun x => s.rowsTo c x)
/-- Rows from member j. -/
def State.rowsFrom (s : State) (c : CollRec) (j : Nat) : Nat := sumTo (s.collSub c) (fun k => s.countFrom c j k)

/-- COUNTS that go to member j (R469): those meant for it; in a product group a suit-mate also gets those of the other destinations of its
seat, by suit, whose rows it is to pass on: the spec does not say how it learns them (DESIGN CHOICE, log entry 172). -/
def State.countsFor (s : State) (c : CollRec) (j : Nat) : List Nat :=
  let row (d : Nat) : List Nat := (List.range (s.collSub c)).map (fun k => s.countTo c d k)
  if c.op = 3 then c.mine
  else
    match s.viaMates c with
    | some (q, u) =>
      if j / q = s.collIx c / q then row j ++ ((List.range u).filter (fun a => a != j / q)).flatMap (fun a => row (a * q + j % q)) else row j
    | none => row j

/-- Rows that suit-mate x sends to the member of this member's seat in suit a, in the forward collective (R467). -/
def State.via (s : State) (c : CollRec) (x a : Nat) : Nat :=
  match s.viaMates c with
  | none => 0
  | some (q, _) =>
    let i := s.collIx c
    let ns := s.collSub c
    if c.back then
      (((s.grpRec c.group).forward.find? (fun f => f.1 == c.lane.ce.work)).map (fun f => Sparse.get (fun _ => 0) f.2.2 (x * 64 + a))).getD 0
    else if x = i then s.rowsTo c (a * q + i % q)
    else if a = i / q then s.rowsFrom c x
    else
      match (s.grpRec c.group).counts.find? (fun y => y.1 == x && y.2.1 == c.seq) with
      | some y => sumTo ns (fun k => y.2.2.getD (ns * (1 + (if a < i / q then a else a - 1)) + k) 0)
      | none => 0

/-- Bytes of member j's block of a gather, and its offset in DST. -/
def State.blockLen (s : State) (c : CollRec) (j : Nat) : Nat := if c.lane.ce.aux = 0 then c.lane.ce.e else s.countFrom c j 0
def State.blockOff (s : State) (c : CollRec) (j : Nat) : Nat := sumTo j (fun x => s.blockLen c x)

/-- A block of a gather cut to DST_CAP (R470): address, if any of it is written, and bytes; the rest is dropped. -/
def State.blockRuns (s : State) (c : CollRec) (j : Nat) : List (Option Nat × Nat) :=
  let o := s.blockOff c j
  let n := s.blockLen c j
  let room := if c.lane.ce.aux = 0 then n else min n (c.cap - o)
  (if room = 0 then [] else [(some (c.lane.ce.dst + o), room)]) ++ (if room < n then [(none, n - room)] else [])

/-- Streams out: member and sub-phase. -/
def State.outStreams (s : State) (c : CollRec) : List (Nat × Nat) :=
  let n := s.collN c
  let i := s.collIx c
  let others := (List.range n).filter (fun j => j != i)
  match c.op, s.collDims c with
  | 1, none => others.map (fun j => (j, 0)) ++ others.map (fun j => (j, 3))
  | 2, none => others.map (fun j => (j, 0))
  | 3, none => others.map (fun j => (j, 3))
  | 4, none => if i = c.lane.ce.root then others.map (fun j => (j, 3)) else []
  | 6, none => others.map (fun j => (j, 0))
  | op, some (q, _) =>
    let suit := others.filter (fun j => j / q == i / q)
    let seat := others.filter (fun j => j % q == i % q)
    match op with
    | 1 => suit.map (fun j => (j, 0)) ++ seat.map (fun j => (j, 1)) ++ seat.map (fun j => (j, 2)) ++ suit.map (fun j => (j, 3))
    | 2 => suit.map (fun j => (j, 0)) ++ seat.map (fun j => (j, 1))
    | 3 => seat.map (fun j => (j, 2)) ++ suit.map (fun j => (j, 3))
    | 6 => suit.map (fun j => (j, 0)) ++ seat.map (fun j => (j, 1))
    | 4 =>
      (if i = c.lane.ce.root then seat.map (fun j => (j, 2)) else []) ++
        (if i % q = c.lane.ce.root % q then suit.map (fun j => (j, 3)) else [])
    | _ => []
  | _, none => []

/-- Streams in: member and sub-phase. -/
def State.inStreams (s : State) (c : CollRec) : List (Nat × Nat) :=
  let n := s.collN c
  let i := s.collIx c
  let r := c.lane.ce.root
  match c.op, s.collDims c with
  | 4, none => if i = r then [] else [(r, 3)]
  | 4, some (q, _) =>
    if i = r then [] else if i % q = r % q then [(r, 2)] else [(i / q * q + r % q, 3)]
  | _, _ => (s.outStreams c).filter (fun x => decide (x.1 < n))

/-- Length of suit-shard b of q, and of sub-shard a of u of it, with their first elements (R467). -/
def subShard (e q u b a : Nat) : Nat × Nat :=
  let l := shardLen e q b
  (shard e q b + shard l u a, shardLen l u a)

/-- Rows for member j in SRC: as sent, or as received from it before (R469, R471). -/
def State.segRuns (s : State) (c : CollRec) (j : Nat) : List (Nat × Nat) :=
  let o := c.lane.ce
  if o.reverse then (List.range (s.collSub c)).map (fun k => (o.src + s.runRow c j k * o.e, s.countFrom c j k * o.e))
  else [(o.src + s.firstTo c j * o.e, s.rowsTo c j * o.e)]

/-- The sub-phase of an all-to-all in which rows reach the member that passes them on: the suit phase, or the seat phase on the way back. -/
def CollRec.firstPh (c : CollRec) : Nat := if c.back then 1 else 0

/-- A stream of rows that this member passes on (R467). -/
def State.passes (s : State) (c : CollRec) (ph : Nat) : Bool := (s.viaMates c).isSome && ph == 1 - c.firstPh

/-- The parts of such a stream to member j, in stream order: the member they came from, the bytes before them in its stream, their bytes. A
part of this member's own is told by its index. -/
def State.passParts (s : State) (c : CollRec) (j : Nat) : List (Nat × Nat × Nat) :=
  let e := c.lane.ce.e
  let i := s.collIx c
  match s.viaMates c with
  | none => []
  | some (q, u) =>
    if c.back then
      (List.range u).map (fun a =>
        let d := a * q + i % q
        (d, sumTo (j % q) (fun y => s.via c (i / q * q + y) a * e), s.via c j a * e))
    else
      (List.range q).map (fun y =>
        let x := i / q * q + y
        (x, sumTo (j / q) (fun a => s.via c x a * e), s.via c x (j / q) * e))

/-- Memory runs that an outgoing stream reads, in stream order. A stream of FP32 partials (sub-phase 1) reads the accumulators. -/
def State.outRuns (s : State) (c : CollRec) (j ph : Nat) : List (Nat × Nat) :=
  let o := c.lane.ce
  let n := s.collN c
  let i := s.collIx c
  let w := o.inFmt.width / 8
  let v := o.outFmt.width / 8
  match c.op, s.collDims c with
  | 1, none => if ph = 0 then [(o.src + shard o.e n j * w, shardLen o.e n j * w)] else [(o.dst + shard o.e n i * v, shardLen o.e n i * v)]
  | 2, none => [(o.src + shard o.e n j * w, shardLen o.e n j * w)]
  | 3, none => [(o.src, s.blockLen c i)]
  | 4, none => [(o.src, o.e)]
  | 6, none => s.segRuns c j
  | 6, some (q, u) =>
    if s.passes c ph then s.segRuns c j
    else if o.reverse then (List.range q).flatMap (fun y => s.segRuns c (j / q * q + y))
    else (List.range u).flatMap (fun a => s.segRuns c (a * q + j % q))
  | 1, some (q, u) =>
    if ph = 0 then [(o.src + shard o.e q (j % q) * w, shardLen o.e q (j % q) * w)]
    else if ph = 2 then [(o.dst + (subShard o.e q u (i % q) (i / q)).1 * v, (subShard o.e q u (i % q) (i / q)).2 * v)]
    else if ph = 3 then [(o.dst + shard o.e q (i % q) * v, shardLen o.e q (i % q) * v)]
    else []
  | 2, some (q, u) =>
    if ph = 0 then (List.range u).map (fun a => (o.src + shard o.e n (a * q + j % q) * w, shardLen o.e n (a * q + j % q) * w)) else []
  | 3, some (q, u) =>
    if ph = 2 then [(o.src, s.blockLen c i)]
    else (List.range u).map (fun a => (o.dst + s.blockOff c (a * q + i % q), s.blockLen c (a * q + i % q)))
  | 4, some _ => [(if i = o.root then o.src else o.dst, o.e)]
  | _, _ => []

/-- Accumulators that a stream of FP32 partials to member j carries: first and count (R467). -/
def State.accRange (s : State) (c : CollRec) (j : Nat) : Nat × Nat :=
  let o := c.lane.ce
  match c.op, s.collDims c with
  | 1, some (q, u) => let l := shardLen o.e q (s.collIx c % q); (shard l u (j / q), shardLen l u (j / q))
  | 2, some (q, _) =>
    let b := s.collIx c % q
    (sumTo (j / q) (fun a => shardLen o.e (s.collN c) (a * q + b)), shardLen o.e (s.collN c) j)
  | _, _ => (0, 0)

/-- A stream of FP32 partials. -/
def State.partials (s : State) (c : CollRec) (ph : Nat) : Bool := reduces c.op && (s.collDims c).isSome && ph == 1

/-- Where the rows of source j of an all-to-all land (R470 to R472). -/
def State.landRuns (s : State) (c : CollRec) (j : Nat) : List (Option Nat × Nat) :=
  let o := c.lane.ce
  if o.reverse then [(some (o.dst + s.firstTo c j * o.e), s.rowsTo c j * o.e)]
  else if o.columns then
    (List.range (s.rowsFrom c j)).map (fun m => (if c.uneven then none else some (o.dst + m * c.stride + j * o.e), o.e))
  else (List.range (s.collSub c)).flatMap (fun k =>
    let r := s.runRow c j k
    let m := s.countFrom c j k
    let keep := min m (c.cap - r)
    [(some (o.dst + r * o.e), keep * o.e), (none, (m - keep) * o.e)])

/-- Where an incoming stream is written, in stream order: address, or none where it is dropped, reduced or passed on. -/
def State.inRuns (s : State) (c : CollRec) (j ph : Nat) : List (Option Nat × Nat) :=
  let o := c.lane.ce
  let n := s.collN c
  let i := s.collIx c
  let w := o.inFmt.width / 8
  let v := o.outFmt.width / 8
  match c.op, s.collDims c with
  | 1, none => if ph = 0 then [(none, shardLen o.e n i * w)] else [(some (o.dst + shard o.e n j * v), shardLen o.e n j * v)]
  | 2, none => [(none, shardLen o.e n i * w)]
  | 3, none => s.blockRuns c j
  | 4, none => [(some o.dst, o.e)]
  | 6, none => s.landRuns c j
  | 6, some (q, u) =>
    if o.reverse then
      (if ph = 1 then (List.range q).flatMap (fun y =>
          if y = i % q then s.landRuns c j else [(none, s.via c (i / q * q + y) (j / q) * o.e)])
      else (List.range u).flatMap (fun a => s.landRuns c (a * q + j % q)))
    else if ph = 0 then (List.range u).flatMap (fun a => if a = i / q then s.landRuns c j else [(none, s.via c j a * o.e)])
    else (List.range q).flatMap (fun y => s.landRuns c (j / q * q + y))
  | 1, some (q, u) =>
    if ph = 0 then [(none, shardLen o.e q (i % q) * w)]
    else if ph = 1 then [(none, (subShard o.e q u (i % q) (i / q)).2 * 4)]
    else if ph = 2 then [(some (o.dst + (subShard o.e q u (i % q) (j / q)).1 * v), (subShard o.e q u (i % q) (j / q)).2 * v)]
    else [(some (o.dst + shard o.e q (j % q) * v), shardLen o.e q (j % q) * v)]
  | 2, some (q, u) =>
    if ph = 0 then [(none, sumTo u (fun a => shardLen o.e n (a * q + i % q)) * w)] else [(none, shardLen o.e n i * 4)]
  | 3, some (q, u) => if ph = 2 then s.blockRuns c j else (List.range u).flatMap (fun a => s.blockRuns c (a * q + j % q))
  | 4, some _ => [(some o.dst, o.e)]
  | _, _ => []

/-- Bytes of an outgoing and of an incoming stream. -/
def State.outLen (s : State) (c : CollRec) (j ph : Nat) : Nat :=
  if s.partials c ph then (s.accRange c j).2 * 4
  else if s.passes c ph then sumTo (s.passParts c j).length (fun k => ((s.passParts c j).getD k (0, 0, 0)).2.2)
  else rangeBytes (s.outRuns c j ph)
def State.inLen (s : State) (c : CollRec) (j ph : Nat) : Nat := (s.inRuns c j ph).foldl (fun a r => a + r.2) 0

/-- Chunk size of a group in bytes (R451). -/
def State.chunkBytes (s : State) (g : Nat) : Nat := max 1 (s.grp g Reg.ce.grpChunkKib) * 1024

/-- Chunks of a stream. -/
def State.chunksIn (s : State) (g len : Nat) : Nat := (len + s.chunkBytes g - 1) / s.chunkBytes g

/-- Key of a chunk. -/
def chunkKey (member ph ch : Nat) : Nat := (member * 4 + ph) * 65536 + ch

/-- Every chunk of the incoming streams of some sub-phases has been accepted. -/
def State.allIn (s : State) (c : CollRec) (phs : List Nat) : Bool :=
  (s.inStreams c).all (fun x => !phs.contains x.2 ||
    (List.range (s.chunksIn c.group (s.inLen c x.1 x.2))).all (fun k => c.got.any (fun g => g.key == chunkKey x.1 x.2 k)))

/-- An outgoing stream's data exist (R466, R467): partials, reduced shards and blocks to pass on come after what they rest on. -/
def State.outReady (s : State) (c : CollRec) (ph : Nat) : Bool :=
  match c.op, s.collDims c with
  | 1, none => ph == 0 || c.reduced
  | 1, some _ => if ph = 0 then true else if ph = 1 then !c.acc.isEmpty else if ph = 2 then c.reduced else c.reduced && s.allIn c [2]
  | 2, some _ => ph == 0 || !c.acc.isEmpty
  | 3, some _ => ph == 2 || s.allIn c [2]
  | 4, some _ => ph == 2 || s.allIn c [2]
  | 6, some _ => !s.passes c ph || s.allIn c [c.firstPh]
  | _, _ => true

/-! ## Records -/

/-- The accepted collective s of group g. -/
def State.findColl (s : State) (g sq : Nat) : Option CollRec := s.coll.find? (fun c => c.group == g && c.seq == sq)

/-- Changes it. -/
def State.updColl (s : State) (g sq : Nat) (f : CollRec → CollRec) : State :=
  { s with coll := s.coll.map (fun c => if c.group = g ∧ c.seq = sq then f c else c) }

/-- Accepted collectives of a group, oldest first. -/
def State.accepted (s : State) (g : Nat) : List CollRec := s.coll.filter (fun c => c.group == g)

/-- Refreshes GRP.ACCEPTED and ACTIVE.ACCEPTED (R485). -/
def State.showAccepted (s : State) (g : Nat) : State :=
  let s1 := s.setGrp g Reg.ce.grpAccepted (s.accepted g).length
  (List.range 4).foldl (fun t i => t.put (ceU i) Reg.ce.activeAccepted (t.coll.filter (fun c => c.engine == i)).length) s1

/-! ## Messages (R460, R465) -/

/-- Bytes that a message takes of the receiver's control buffer. -/
def msgBytes (p : Pkt) : Nat := 32 + p.data.length

/-- Sends a control message to a node when its buffer has room, or keeps it until credit returns (R460). -/
def State.sendMsgPkt (s : State) (p : Pkt) : State :=
  let used := Sparse.get (fun _ => 0) s.net.ctlUsed p.dst
  if used + msgBytes p ≤ 16384 ∧ s.net.ctlWait.all (fun q => q.dst != p.dst) then
    (s.setNet (fun n => { n with ctlUsed := Sparse.set (fun _ => 0) n.ctlUsed p.dst (used + msgBytes p) })).inject p
  else s.setNet (fun n => { n with ctlWait := n.ctlWait ++ [p] })

/-- A message of a group (R465): subkind, sequence field, arguments in bytes 24 to 31, payload. -/
def State.msgPacket (s : State) (g node sub gen sq args : Nat) (d : List Byte) : Pkt :=
  let p := s.packet node 1 kMsg
  { p with extra := sub % 256 + g % 256 * 2 ^ 8 + gen % 256 * 2 ^ 16 + sq % 2 ^ 32 * 2 ^ 32 + args % 2 ^ 64 * 2 ^ 64, data := d }

/-- Subkinds (R465). -/
abbrev mReady : Nat := 1
abbrev mCounts : Nat := 2
abbrev mNakChunk : Nat := 3
abbrev mDigest : Nat := 4
abbrev mCancel : Nat := 5
abbrev mLost : Nat := 6
abbrev mReform : Nat := 7
abbrev mReformAck : Nat := 8
abbrev mReformDone : Nat := 9
abbrev mCredit : Nat := 10

/-- GEN of a group. -/
def State.gen (s : State) (g : Nat) : Nat := s.grp g Reg.ce.grpGen

/-- Sends a message to member j. -/
def State.sendMember (s : State) (g j sub sq args : Nat) (d : List Byte) : State :=
  s.sendMsgPkt (s.msgPacket g ((s.grpNodes g).getD j 0) sub (s.gen g) sq args d)

/-- Sends a message to every other live member of a group. -/
def State.sendOthers (s : State) (g sub gen sq args : Nat) (d : List Byte) : State :=
  ((s.grpNodes g).filter (fun n => n != s.node)).foldl (fun t n => t.sendMsgPkt (t.msgPacket g n sub gen sq args d)) s

/-- Returns credit to a node: pool 0 kitty, 1 window, 2 control (R458 to R460). CREDIT itself needs none. -/
def State.returnCredit (s : State) (g node pool n sq : Nat) : State :=
  if n = 0 then s else s.inject (s.msgPacket g node mCredit (s.gen g) sq (pool + n % 2 ^ 32 * 2 ^ 32) [])

/-! ## Ends of a collective (R474) -/

/-- A field of a lane's auxiliary record (R454); a record that fails its check counts as zeros (log entry 39). -/
def State.ceAux (s : State) (l : Lane) (f k : Nat) : Nat :=
  if l.ce.aux = 0 then 0 else s.recField ((s.addr64 l.part l.ce.aux 64).isNone) l.ce.aux f k

/-- Send counts that a lane has: n × NSUB, or one byte count of a gather (R454, R470). -/
def ceCounts (l : Lane) (n : Nat) : Nat :=
  if l.opcode = 6 then (if l.ce.reverse then 0 else n * l.ce.nsub) else if l.opcode = 3 ∧ l.ce.aux ≠ 0 then 1 else 0

/-- A lane as an accepted collective of sequence number sq on engine e, its counts read. -/
def State.ceRecord (s : State) (e : Nat) (l : Lane) (sq : Nat) : CollRec :=
  let g := l.ce.grp % 64
  let n := (s.grpNodes g).length
  let ax (f k : Nat) : Nat := if l.ce.reverse then 0 else s.ceAux l f k
  let k := ceCounts l n
  let ok := (s.addr64 l.part (ax 0 8) (max 1 (4 * k))).isNone && ax 0 8 != 0
  { group := g, seq := sq, engine := e, lane := l, mine := (List.range k).map (fun i => s.recField ok (ax 0 8) (4 * i) 4),
    clist := ax 8 8, cap := ax 0x10 4, stride := ax 0x14 4 }

/-- Output ranges of a CE lane: DST, and for the counted operations CLIST and WORK (R474). With COLUMNS the rows are as many as the member
sends itself, which every member must send it (R472). -/
def State.ceOuts (s : State) (l : Lane) : List (Nat × Nat) :=
  let o := l.ce
  let g := o.grp % 64
  let n := (s.grpNodes g).length
  let v := o.outFmt.width / 8
  let c := s.ceRecord 0 l 0
  let cl := c.clist
  let cap := c.cap
  (match l.opcode with
    | 1 => [(o.dst, o.e * v), (o.work, (o.e + n - 1) / max 1 n * 4)]
    | 2 => [(o.dst, shardLen o.e (max 1 n) (s.grpIx g) * v), (o.work, (o.e + n - 1) / max 1 n * 4)]
    | 3 => if o.aux = 0 then [(o.dst, o.e * n)] else [(o.dst, cap)] ++ (if cl = 0 then [] else [(cl, 8 * n)])
    | 4 => [(o.dst, o.e)]
    | 6 =>
      if o.reverse then [(o.dst, (sumTo n (fun j => s.rowsTo c j)) * o.e)]
      else
        (if o.columns then (List.range (s.rowsTo c (s.grpIx g))).map (fun m => (o.dst + m * c.stride, n * o.e)) else [(o.dst, cap * o.e)]) ++
          [(o.work, 8 * n * o.nsub)] ++ (if cl = 0 then [] else [(cl, 8 * o.nsub)])
    | _ => []).filter (fun r => dgaFormed r.1)

/-- Source ranges of a collective on this module (R454): the whole of SRC that it reads. -/
def State.ceIns (s : State) (c : CollRec) : List (Nat × Nat) :=
  let o := c.lane.ce
  match c.op with
  | 1 => [(o.src, o.e * (o.inFmt.width / 8))]
  | 2 => [(o.src, o.e * (o.inFmt.width / 8))]
  | 3 => [(o.src, s.blockLen c (s.collIx c))]
  | 4 => if s.collIx c = o.root then [(o.src, o.e)] else []
  | 6 => [(o.src, (sumTo (s.collN c) (fun j => if o.reverse then s.rowsFrom c j else s.rowsTo c j)) * o.e)]
  | _ => []

/-- A line that a collective reads or writes is held at its bank, device or port: it waits (R258, R286). -/
def State.ceHeld (s : State) (c : CollRec) : Bool := s.heldIn (s.ceIns c ++ s.ceOuts c.lane)

/-- The lane of a collective, in its engine's queue. -/
def sameLane (a b : Lane) : Bool :=
  a.part == b.part && a.tmpl == b.tmpl && a.lane == b.lane && a.stepTag == b.stepTag && a.attempt == b.attempt && a.status.isNone

/-- A lane that stands on an engine ends with a status; a poisoning one marks its outputs and LAST (R474, R485). -/
def State.endCeLane (s : State) (e : Nat) (l : Lane) (st : Nat) : State :=
  let s1 := s.setUnit (ceU e) (fun x => { x with queue := x.queue.map (fun y => if sameLane y l then { y with status := some st } else y) })
  if poisoning st then
    (((s1.poisonOuts l.part (s.ceOuts l)).sawPoison (ceU e) st (s.ceOuts l)).put (ceU e) Reg.ce.lastGroup (l.ce.grp % 64)).put (ceU e)
      Reg.ce.lastStatus st
  else s1

/-- An accepted collective leaves with a status. -/
def State.endColl (s : State) (c : CollRec) (st : Nat) : State :=
  let s1 := { s with coll := s.coll.filter (fun x => !(x.group == c.group && x.seq == c.seq)) }
  let s2 := (s1.endCeLane c.engine c.lane st).showAccepted c.group
  let s3 := s2.updGrp c.group (fun g =>
    { g with readys := g.readys.filter (fun x => x.2 != c.seq), counts := g.counts.filter (fun x => x.2.1 != c.seq),
             digests := g.digests.filter (fun d => d.seq != c.seq), kitty := g.kitty.filter (fun x => x.2.extra % 2 ^ 32 != c.seq) })
  if st = 0x0A then s3.count (ceU c.engine) 9 1 else if st = 0x0B then s3.count (ceU c.engine) 8 1 else s3

/-- GEN b is newer than GEN a, as serial numbers. -/
def genNewer (a b : Nat) : Bool := decide (1 ≤ (b + 256 - a) % 256 ∧ (b + 256 - a) % 256 < 128)

/-- Sequence number a comes before b, as serial numbers. -/
def seqBefore (a b : Nat) : Bool := decide (1 ≤ (2 ^ 32 + b - a) % 2 ^ 32 ∧ (2 ^ 32 + b - a) % 2 ^ 32 < 2 ^ 31)

/-- Ends the accepted collectives of a group from sequence number S on with a status. -/
def State.endFrom (s : State) (g sq st : Nat) : State :=
  ((s.accepted g).filter (fun c => !seqBefore c.seq sq)).foldl (fun t c => t.endColl c st) s

/-- Kitty and window contents of a group are discarded, but for packets of a GEN to come; their credit is returned and freed (R475, R477). -/
def State.clearBuffers (s : State) (g gen : Nat) : State :=
  let old (x : Nat × Pkt) : Bool := bits x.2.extra 40 8 != gen
  let s1 := ((s.grpRec g).kitty.filter old).foldl (fun t x => t.returnCredit g x.2.src 0 x.2.data.length (x.2.extra % 2 ^ 32)) s
  s1.updGrp g (fun r => { r with readys := [], counts := [], digests := [], kitty := r.kitty.filter (fun x => !old x), outB := [] })

/-- A CANCEL of S and GEN is applied (R475). -/
def State.applyCancel (s : State) (g gen sq : Nat) : State :=
  let s1 := (s.endFrom g sq 0xC0).clearBuffers g gen
  let s2 := ((s1.setGrp g Reg.ce.grpNextSeq sq).setGrp g Reg.ce.grpGen gen).setGrp g Reg.ce.grpGstate gsHeld
  (s2.updGrp g (fun r => { r with lastS := some sq })).count (ceU (g / 16)) 11 1

/-- S of a CANCEL that this member sends: its oldest collective that has not completed, or NEXT_SEQ. -/
def State.cancelFrom (s : State) (g : Nat) : Nat := (((s.accepted g).head?).map (fun c => c.seq)).getD (s.grp g Reg.ce.grpNextSeq)

/-- This member cancels a group from S on: CANCEL to every other live member, and to itself (R475). -/
def State.cancelAt (s : State) (g sq : Nat) : State :=
  let gen := (s.gen g + 1) % 256
  (s.sendOthers g mCancel gen sq 0 []).applyCancel g gen sq

/-- The same, from its oldest collective that has not completed. -/
def State.cancelGroup (s : State) (g : Nat) : State := s.cancelAt g (s.cancelFrom g)

/-- Its Dealer abandons or replays a step with lanes outstanding: every group of the partition with an accepted collective (R475). -/
def State.cancelPart (s : State) (p : Nat) : State :=
  (List.range 64).foldl (fun t g =>
    if (t.accepted g).any (fun c => c.lane.part == p) then t.cancelGroup g else t) s

/-- The Dealer starts the next attempt of a step: the partition's held groups return to READY (R476). -/
def State.releaseGroups (s : State) (p : Nat) : State :=
  (List.range 64).foldl (fun t g =>
    if t.gstate g = gsHeld ∧ t.grp g Reg.ce.grpPart = p then t.setGrp g Reg.ce.grpGstate gsReady else t) s

/-! ## Member loss and re-formation (R477 to R479) -/

/-- Survivors of a group: its members without the lost nodes. -/
def State.survivors (s : State) (g : Nat) : List Nat := (nodesOf (s.grpMembers g)).filter (fun n => !(s.grpRec g).lost.contains n)

/-- Sends a message to every survivor but this module. -/
def State.sendSurvivors (s : State) (g sub gen sq : Nat) (d : List Byte) : State :=
  ((s.survivors g).filter (fun n => n != s.node)).foldl (fun t n => t.sendMsgPkt (t.msgPacket g n sub gen sq 0 d)) s

/-- The engine page on which a group's interrupts stand: the one that serves it. -/
def State.grpPage (s : State) (g : Nat) : UnitId := match s.serving g with | .engine i => ceU i | _ => ceU (g / 16)

/-- Ends every accepted collective of a group MEMBER_LOST, and discards its buffers. -/
def State.endLost (s : State) (g : Nat) : State := ((s.accepted g).foldl (fun t c => t.endColl c 0x0A) s).clearBuffers g (s.gen g)

/-- A survivor enters REFORMING (R479): LIVE without the lost mask, NEXT_SEQ 0, the new GEN. -/
def State.applyReform (s : State) (g gen mask : Nat) : State :=
  let s1 := s.endLost g
  let s2 := (s1.setGrp g Reg.ce.grpGstate gsReforming).setLive g (s1.grpMembers g &&& (2 ^ 64 - 1 - mask % 2 ^ 64))
  ((s2.setGrp g Reg.ce.grpNextSeq 0).setGrp g Reg.ce.grpGen gen).updGrp g (fun r => { r with lost := nodesOf mask, lastS := none })

/-- Re-formation ends: READY, the REFORMED event and interrupt. -/
def State.endReform (s : State) (g : Nat) : State :=
  let s1 := (s.setGrp g Reg.ce.grpGstate gsReady).irq (s.grpPage g) (2 ^ 19)
  s1.eventP (s1.grp g Reg.ce.grpPart) none 0x8003 (fmtN s1.node gsReforming gsReady g 0) (s1.grpLive g)

/-- The surviving member with the lowest node ID re-forms the group. -/
def State.startReform (s : State) (g : Nat) : State :=
  let mask := maskOf (s.grpRec g).lost
  let gen := (s.gen g + 1) % 256
  let others := (s.survivors g).filter (fun n => n != s.node)
  let s1 := (s.sendSurvivors g mReform gen 0 (leBytes 8 mask)).applyReform g gen mask
  let s2 := s1.updGrp g (fun r => { r with unacked := others })
  if others.isEmpty then s2.endReform g else s2

/-- Nodes of a group are lost (R477): once per lost node, its collectives end MEMBER_LOST and LOST goes to the other live members;
the group enters BROKEN or is re-formed (R478, R479). -/
def State.loseMembers (s : State) (g : Nat) (nodes : List Nat) : State :=
  let new := nodes.filter (fun n => bit (s.grpMembers g) n && !(s.grpRec g).lost.contains n && n != s.node)
  if s.grp g Reg.ce.grpValid = 0 ∨ new.isEmpty then s
  else
    let s1 := (s.endLost g).updGrp g (fun r => { r with lost := r.lost ++ new })
    let mask := maskOf (s1.grpRec g).lost
    let p := s1.grp g Reg.ce.grpPart
    let s2 := s1.sendSurvivors g mLost (s1.gen g) 0 (leBytes 8 mask)
    let s3 := (s2.irq (s2.grpPage g) (2 ^ 18)).eventP p none 0x8002 (fmtN (new.headD 0) 0 0 g 0) mask
    if s3.grp g Reg.ce.grpReform = 0 then
      if s3.gstate g = gsBroken then s3
      else
        let s4 := (s3.setGrp g Reg.ce.grpGstate gsBroken).irq (s3.grpPage g) (2 ^ 21)
        s4.eventP p none 0x8005 (fmtN s4.node (s3.gstate g) gsBroken g 0) mask
    else if (s3.survivors g).head? = some s3.node then s3.startReform g
    else s3

/-- A node's state is no longer UP: every group that has it loses it (R477). -/
def State.groupsLoseNode (s : State) (n : Nat) : State := (List.range 64).foldl (fun t g => t.loseMembers g [n]) s

/-! ## Reduction (R468) -/

/-- One step of a reduction on FP32 patterns: sum, maximum or minimum; a NaN gives NaN. -/
def redStep (op a b : Nat) : Nat :=
  if op = 0 then add32 a b
  else if isNan32 a then quiet32 a
  else if isNan32 b then quiet32 b
  else if op = 1 then (if (dec32 a).lt (dec32 b) then b else a)
  else (if (dec32 b).lt (dec32 a) then b else a)

/-- Elements of a byte list in a format, as FP32 patterns (R73). -/
def widen (f : Fmt) : List Byte → Nat → List Nat
  | _, 0 => []
  | d, k + 1 => rne32 (f.decode (leNat (d.take (f.width / 8)))) :: widen f (d.drop (f.width / 8)) k

/-- Folds one list into accumulators from an index on. -/
def foldInto (op : Nat) (acc : List Nat) (at' : Nat) (xs : List Nat) : List Nat :=
  acc.take at' ++ (List.zip ((acc.drop at').take xs.length) xs).map (fun p => redStep op p.1 p.2) ++ acc.drop (at' + xs.length)

/-- Folds the accepted chunks of a sub-phase into accumulators, in the order in which they verified. -/
def State.foldPhase (s : State) (c : CollRec) (ph : Nat) (f : Fmt) (acc : List Nat) : List Nat :=
  (c.got.filter (fun x => x.key / 65536 % 4 == ph)).foldl (fun a x =>
    let off := x.key % 65536 * s.chunkBytes c.group / (f.width / 8)
    foldInto c.lane.ce.redOp a off (widen f x.data (x.data.length / (f.width / 8)))) acc

/-- This member's own contribution to the region it reduces in sub-phase 0. -/
def State.ownRegion (s : State) (c : CollRec) : List Nat :=
  let o := c.lane.ce
  let n := s.collN c
  let i := s.collIx c
  let w := o.inFmt.width / 8
  let rd (first len : Nat) : List Nat := widen o.inFmt (s.bytes (dgaKey o.src + first * w) (len * w)) len
  match c.op, s.collDims c with
  | 1, some (q, _) => rd (shard o.e q (i % q)) (shardLen o.e q (i % q))
  | 2, some (q, u) => (List.range u).flatMap (fun a => rd (shard o.e n (a * q + i % q)) (shardLen o.e n (a * q + i % q)))
  | _, _ => rd (shard o.e n i) (shardLen o.e n i)

/-- The ranges of SRC that this member reduces itself. -/
def State.ownRanges (s : State) (c : CollRec) : List (Nat × Nat) :=
  let o := c.lane.ce
  let n := s.collN c
  let i := s.collIx c
  let w := o.inFmt.width / 8
  match c.op, s.collDims c with
  | 1, some (q, _) => [(o.src + shard o.e q (i % q) * w, shardLen o.e q (i % q) * w)]
  | 2, some (q, u) => (List.range u).map (fun a => (o.src + shard o.e n (a * q + i % q) * w, shardLen o.e n (a * q + i % q) * w))
  | _, _ => [(o.src + shard o.e n i * w, shardLen o.e n i * w)]

/-- First element in DST of the shard that this member owns, for the conversion. -/
def State.ownDst (s : State) (c : CollRec) : Nat :=
  let o := c.lane.ce
  match c.op, s.collDims c with
  | 1, none => shard o.e (s.collN c) (s.collIx c)
  | 1, some (q, u) => (subShard o.e q u (s.collIx c % q) (s.collIx c / q)).1
  | _, _ => 0

/-- The suit phase's accumulators are complete: the member's own contribution and every chunk of sub-phase 0. -/
def State.sumSuit (s : State) (c : CollRec) : State :=
  if reduces c.op && c.acc.isEmpty && s.allIn c [0] then
    let a := s.foldPhase c 0 c.lane.ce.inFmt (s.ownRegion c)
    s.updColl c.group c.seq (fun x => { x with acc := a })
  else s

/-- The member's shard is complete: WORK holds its accumulators, and DST the result converted once (R468). -/
def State.sumShard (s : State) (c : CollRec) : State :=
  if reduces c.op && !c.reduced && !c.acc.isEmpty && s.allIn c [0, 1] then
    let o := c.lane.ce
    let r := s.accRange c (s.collIx c)
    let fin := if (s.collDims c).isSome then s.foldPhase c 1 .fp32 ((c.acc.drop r.1).take r.2) else c.acc
    let cs := fin.map (fun a => o.outFmt.convert c.lane.sat none (dec32 a))
    let bad := c.poisonIn || c.poisonSeen
    let s1 := s.writeMem clsMove (dgaKey o.work) (fin.flatMap (leBytes 4)) bad
    let s2 := s1.writeMem clsMove (dgaKey o.dst + s.ownDst c * (o.outFmt.width / 8)) (cs.flatMap (fun x => leBytes (o.outFmt.width / 8) x.code)) bad
    ((s2.count (ceU c.engine) 12 (satCount cs)).count (ceU c.engine) 13 (nanCount o.outFmt [] cs)).updColl c.group c.seq (fun x => { x with reduced := true })
  else s

/-! ## Sending (R458, R459, R463, R464) -/

/-- The ranges of bytes [off, off + n) of runs laid end to end. -/
def sliceRuns : List (Nat × Nat) → Nat → Nat → List (Nat × Nat)
  | [], _, _ => []
  | (a, len) :: r, off, n =>
    if n = 0 then []
    else if len ≤ off then sliceRuns r (off - len) n
    else (a + off, min n (len - off)) :: sliceRuns r 0 (n - min n (len - off))

/-- The bytes of ranges, and whether a line of them is poisoned. -/
def State.readRuns (s : State) (rs : List (Nat × Nat)) : List Byte × Bool :=
  (rs.flatMap (fun r => s.bytes (dgaKey r.1) r.2), rs.any (fun r => decide (0 < r.2) && s.anyPoison (dgaKey r.1) r.2))

/-- The kept data of the stream that came from member x in a sub-phase, from its first chunk on, with the poison of each byte. -/
def CollRec.kept (c : CollRec) (x ph : Nat) : List (Byte × Bool) :=
  (sortBy (fun (a b : GotChunk) => decide (a.key ≤ b.key)) (c.got.filter (fun g => g.key / 65536 == x * 4 + ph))).flatMap
    (fun g => g.data.map (fun y => (y, g.poison)))

/-- The bytes of a stream of rows that this member passes on to member j, with their poison. -/
def State.passBytes (s : State) (c : CollRec) (j : Nat) : List (Byte × Bool) :=
  (s.passParts c j).flatMap (fun x =>
    if x.1 = s.collIx c then
      let d := s.readRuns (s.segRuns c j)
      d.1.map (fun y => (y, d.2))
    else ((c.kept x.1 c.firstPh).drop x.2.1).take x.2.2)

/-- The ranges of memory that a chunk of an outgoing stream reads. -/
def State.chunkIns (s : State) (c : CollRec) (j ph k : Nat) : List (Nat × Nat) :=
  let b := s.chunkBytes c.group
  if s.partials c ph then []
  else if s.passes c ph then (if k = 0 then s.segRuns c j else [])
  else sliceRuns (s.outRuns c j ph) (k * b) (min b (s.outLen c j ph - k * b))

/-- Data of a chunk of an outgoing stream, and its poison. -/
def State.outChunk (s : State) (c : CollRec) (j ph k : Nat) : List Byte × Bool :=
  let b := s.chunkBytes c.group
  let n := min b (s.outLen c j ph - k * b)
  if s.partials c ph then
    let r := s.accRange c j
    ((((c.acc.drop r.1).take r.2).flatMap (leBytes 4)).drop (k * b) |>.take n, c.poisonIn || c.poisonSeen)
  else if s.passes c ph then
    let d := ((s.passBytes c j).drop (k * b)).take n
    (d.map (fun x => x.1), d.any (fun x => x.2))
  else
    let d := s.readRuns (s.chunkIns c j ph k)
    (d.1, d.2 || (decide (ph ≠ 0) && reduces c.op && (c.poisonIn || c.poisonSeen)))

/-- Bytes outstanding toward member j: early data or window (R458, R459). -/
def State.outstandingTo (s : State) (g j pool : Nat) : Nat := Sparse.get (fun _ => 0) (s.grpRec g).outB (j * 2 + pool)

/-- The packets of a chunk (R463). -/
def State.chunkPackets (s : State) (c : CollRec) (j ph k : Nat) (d : List Byte) (pois early resent : Bool) (crc : Nat) : List Pkt :=
  let p := s.packet ((s.grpNodes c.group).getD j 0) 1 kColl
  let n := (d.length + 511) / 512
  (List.range n).map (fun i =>
    let last := i + 1 = n
    { p with
      part := c.lane.part, poison := pois, flow := k % 256,
      extra := c.seq % 2 ^ 32 + c.group % 64 * 2 ^ 32 + ph % 4 * 2 ^ 38 + s.gen c.group % 256 * 2 ^ 40 + k % 65536 * 2 ^ 48 + i % 256 * 2 ^ 64 +
        ((if last then 1 else 0) + (if early then 2 else 0) + (if resent then 4 else 0)) * 2 ^ 72 + s.collIx c % 256 * 2 ^ 80 +
        (if last then crc % 2 ^ 32 * 2 ^ 96 else 0),
      data := (d.drop (512 * i)).take 512 })

/-- Sends one chunk, whose source it reads at the banks as class MOVE (R254). A poisoned source is the member's own poisoned input. -/
def State.sendChunk (s0 : State) (c : CollRec) (j ph k : Nat) (early resent : Bool) : State :=
  let s := (s0.readAll clsMove (s0.chunkIns c j ph k)).1
  let d := s.outChunk c j ph k
  let e := ceU c.engine
  let good := (crc32c d.1).toNat
  let crc := if s.flag e Reg.ce.injectCrc then (good + 1) % 2 ^ 32 else good
  let s1 := (s.chunkPackets c j ph k d.1 d.2 early resent crc).foldl State.inject (if s.flag e Reg.ce.injectCrc then s.put e Reg.ce.injectCrc 0 else s)
  let s2 := ((s1.count e 1 1).count e 3 d.1.length)
  s2.updColl c.group c.seq (fun x =>
    { x with sent := if x.sent.any (fun y => y.1 == chunkKey j ph k) then x.sent else x.sent ++ [(chunkKey j ph k, good)],
             poisonIn := x.poisonIn || (d.2 && decide (ph = 0 ∨ !reduces c.op)) && !c.poisonSeen && !s.passes c ph })

/-- Sends what may go of one outgoing stream: early data before READY, up to 64 KiB; up to 256 KiB outstanding after it. -/
def State.sendStream (s : State) (g sq j ph : Nat) : Nat → State
  | 0 => s
  | fuel + 1 =>
    match s.findColl g sq with
    | none => s
    | some c =>
      let total := s.chunksIn g (s.outLen c j ph)
      match (List.range total).find? (fun k => c.sent.all (fun y => y.1 != chunkKey j ph k)) with
      | none => s
      | some k =>
        let n := min (s.chunkBytes g) (s.outLen c j ph - k * s.chunkBytes g)
        let early := !(s.grpRec g).readys.contains (j, sq)
        let pool := if early then 0 else 1
        let used := s.outstandingTo g j pool
        if (if early then decide (65536 < used + n) else decide (262144 < used + n)) then s
        else
          let s1 := s.updGrp g (fun r => { r with outB := Sparse.set (fun _ => 0) r.outB (j * 2 + pool) (used + n) })
          State.sendStream (s1.sendChunk c j ph k early false) g sq j ph fuel

/-- Sends what may go of every outgoing stream of the active collective. -/
def State.sendAll (s : State) (c : CollRec) : State :=
  (s.outStreams c).foldl (fun t x =>
    match t.findColl c.group c.seq with
    | none => t
    | some d => if t.outReady d x.2 then t.sendStream c.group c.seq x.1 x.2 (t.chunksIn c.group (t.outLen d x.1 x.2)) else t) s

/-! ## Digests and completion (R473, R474) -/

/-- A digest over chunks: Σ CRC × (2 × (PHASE × 65,536 + c) + 1) mod 2^64. -/
def digestSum (l : List (Nat × Nat)) : Nat := l.foldl (fun a x => (a + x.2 * (2 * (x.1 % 262144) + 1)) % 2 ^ 64) 0

/-- Bytes of DST whose digest RESULT is; none for the operations without one. -/
def State.resultLen (s : State) (c : CollRec) : Nat :=
  let o := c.lane.ce
  match c.op with
  | 1 => o.e * (o.outFmt.width / 8)
  | 3 => let n := s.blockOff c (s.collN c); if o.aux = 0 then n else min n c.cap
  | 4 => o.e
  | _ => 0

/-- RESULT: the digest over the 64 KiB blocks of DST as written. -/
def State.resultDigest (s : State) (c : CollRec) : Nat :=
  let n := s.resultLen c
  digestSum ((List.range ((n + 65535) / 65536)).map (fun b =>
    (b, (crc32c (s.bytes (dgaKey c.lane.ce.dst + 65536 * b) (min 65536 (n - 65536 * b)))).toNat)))

/-- The digest of the streams toward member j, as sent, and from member j, as accepted. -/
def CollRec.sentDigest (c : CollRec) (j : Nat) : Nat := digestSum (c.sent.filter (fun x => x.1 / 262144 == j))
def CollRec.gotDigest (c : CollRec) (j : Nat) : Nat := digestSum ((c.got.filter (fun x => x.key / 262144 == j)).map (fun x => (x.key, x.crc)))

/-- Every stream is sent and received, and the member's own shard reduced. -/
def State.exchanged (s : State) (c : CollRec) : Bool :=
  c.opened && (!reduces c.op || c.reduced) && s.allIn c [0, 1, 2, 3] &&
    (s.outStreams c).all (fun x => (List.range (s.chunksIn c.group (s.outLen c x.1 x.2))).all (fun k => c.sent.any (fun y => y.1 == chunkKey x.1 x.2 k)))

/-- A mismatch found: the counter, DIGEST_MISMATCH, the event (R473, R487). -/
def State.digestMismatch (s : State) (c : CollRec) (j : Nat) : State :=
  let s1 := ((s.count (ceU c.engine) 7 1).irq (ceU c.engine) (2 ^ 17)).eventP c.lane.part none 0x8001
    (fmtN ((s.grpNodes c.group).getD j 0) 0 0 c.group c.seq) 0
  s1.updColl c.group c.seq (fun x => { x with mismatch := true })

/-- Compares the DIGEST messages held with the member's own digests, each once, when everything is exchanged. -/
def State.compareDigests (s : State) (c : CollRec) : State :=
  if !s.exchanged c then s
  else
    ((s.grpRec c.group).digests.filter (fun d => d.seq == c.seq && !c.checked.contains d.member)).foldl (fun t d =>
      let t1 := t.updColl c.group c.seq (fun x => { x with checked := x.checked ++ [d.member] })
      if d.sent ≠ c.gotDigest d.member ∨ d.result ≠ (if c.op = 5 then 0 else s.resultDigest c) then t1.digestMismatch c d.member else t1) s

/-- Sends DIGEST to every other member once everything is exchanged. -/
def State.sendDigests (s : State) (c : CollRec) : State :=
  if c.digested || !s.exchanged c then s
  else
    let e := ceU c.engine
    let fl := (if c.poisonIn || c.poisonSeen then 1 else 0) + (if c.mismatch then 2 else 0)
    let others := (List.range (s.collN c)).filter (fun j => j != s.collIx c)
    let s1 := others.foldl (fun t j =>
      let inj := t.flag e Reg.ce.injectDigest
      let v := if inj then (c.sentDigest j + 1) % 2 ^ 64 else c.sentDigest j
      let t1 := if inj then t.put e Reg.ce.injectDigest 0 else t
      t1.sendMember c.group j mDigest c.seq 0 (leBytes 8 v ++ leBytes 8 (s.resultDigest c) ++ leBytes 4 fl ++ List.replicate 12 0)) s
    s1.updColl c.group c.seq (fun x => { x with digested := true })

/-- The status of a completed collective (R474). -/
def State.collStatus (s : State) (c : CollRec) : Nat :=
  let told := (s.grpRec c.group).digests.any (fun d => d.seq == c.seq && d.flags % 4 != 0)
  if c.poisonIn then 0x02
  else if c.poisonSeen || c.mismatch || told then 0x0B
  else if c.uneven then 0xC2
  else if c.overflow then 0xC1
  else if c.resent then 0x80
  else if c.paused then 0x81
  else 0

/-- The collective completes once it holds a DIGEST from every other member. -/
def State.complete (s : State) (c : CollRec) : State :=
  let held := (s.grpRec c.group).digests.filter (fun d => d.seq == c.seq)
  if c.digested && ((List.range (s.collN c)).filter (fun j => j != s.collIx c)).all (fun j => held.any (fun d => d.member == j)) then
    (s.endColl c (s.collStatus c)).count (ceU c.engine) 0 1
  else s

/-! ## Receiving (R463, R464) -/

/-- Writes a chunk of an incoming stream where its runs say. -/
def State.writeRuns (s : State) (pois : Bool) : List (Option Nat × Nat) → Nat → List Byte → State
  | [], _, _ => s
  | (a, len) :: r, off, d =>
    if d.isEmpty then s
    else if len ≤ off then State.writeRuns s pois r (off - len) d
    else
      let k := min d.length (len - off)
      let s1 := match a with
        | some x => s.writeMem clsMove (dgaKey x + off) (d.take k) pois
        | none => s
      State.writeRuns s1 pois r 0 (d.drop k)

/-- A stream that is reduced, not written. -/
def State.folded (s : State) (c : CollRec) (ph : Nat) : Bool := reduces c.op && (ph == 0 || s.partials c ph)

/-- A chunk's data are kept after it: it is reduced, or rows of it are passed on (R459). -/
def State.keeps (s : State) (c : CollRec) (ph : Nat) : Bool := s.folded c ph || ((s.viaMates c).isSome && ph == c.firstPh)

/-- Accepts a chunk: it is kept for reduction, or written, and its credit is returned. -/
def State.acceptChunk (s : State) (c : CollRec) (key crc : Nat) (d : List Byte) (pois early : Bool) : State :=
  let j := key / 262144
  let ph := key / 65536 % 4
  let s1 := if s.folded c ph then s else s.writeRuns pois (s.inRuns c j ph) (key % 65536 * s.chunkBytes c.group) d
  let s2 := (s1.count (ceU c.engine) 2 1).count (ceU c.engine) 4 d.length
  let s3 := s2.updColl c.group c.seq (fun x =>
    { x with got := x.got ++ [⟨key, crc, if s.keeps c ph then d else [], pois⟩], parts := x.parts.filter (fun q => q.key != key),
             poisonSeen := x.poisonSeen || pois })
  s3.returnCredit c.group ((s.grpNodes c.group).getD j 0) (if early then 0 else 1) d.length c.seq

/-- RESEND.MAX as it acts (R485). -/
def State.resendMax (s : State) (e : Nat) : Nat := max 1 (s.get (ceU e) Reg.ce.resendMax)

/-- Asks for a chunk again (R464). `counts`: the attempt counts toward RESEND.MAX. -/
def State.nakChunk (s : State) (c : CollRec) (key : Nat) (counts : Bool) : State :=
  let s1 := s.updColl c.group c.seq (fun x =>
    { x with parts := x.parts.filter (fun q => q.key != key), resent := x.resent || counts,
             tries := if counts then Sparse.set (fun _ => 0) x.tries key (Sparse.get (fun _ => 0) x.tries key + 1) else x.tries })
  s1.sendMember c.group (key / 262144) mNakChunk c.seq (key / 65536 % 4 + key % 65536 * 2 ^ 16) []

/-- Packets of a chunk in order, as one payload; none while one is missing. -/
def assemble (ps : List (Nat × List Byte)) : Nat → Nat → Option (List Byte)
  | _, 0 => some []
  | i, n + 1 =>
    match ps.find? (fun p => p.1 == i), assemble ps (i + 1) n with
    | some p, some r => some (p.2 ++ r)
    | _, _ => none

/-- A chunk whose last packet has come is accepted, or asked for again; it waits while what the collective writes is held. -/
def State.settle (s : State) (c : CollRec) (q : PartChunk) : State :=
  match q.fin with
  | none => s
  | some (n, want) =>
    match assemble q.pkts 0 (n + 1) with
    | none => s.nakChunk c q.key false
    | some d =>
      let crc := (crc32c d).toNat
      let last := decide (s.resendMax c.engine ≤ Sparse.get (fun _ => 0) c.tries q.key + 1)
      if crc ≠ want ∧ !last then s.nakChunk c q.key true
      else if s.ceHeld c then s
      else s.acceptChunk c q.key crc d (q.poison || crc != want) q.early

/-- One packet of a chunk of the active collective. -/
def State.takePkt (s : State) (c : CollRec) (p : Pkt) : State :=
  let key := chunkKey (bits p.extra 80 8) (bits p.extra 38 2) (bits p.extra 48 16)
  let early := bit p.extra 73
  if c.got.any (fun g => g.key == key) then s.returnCredit c.group p.src (if early then 0 else 1) p.data.length c.seq
  else if p.abort then s.nakChunk c key false
  else
    let old := (c.parts.find? (fun q => q.key == key)).getD ⟨key, [], false, early, none⟩
    let q : PartChunk := { old with
      pkts := old.pkts.filter (fun x => x.1 != bits p.extra 64 8) ++ [(bits p.extra 64 8, p.data)], poison := old.poison || p.poison
      fin := if bit p.extra 72 then some (bits p.extra 64 8, bits p.extra 96 32) else old.fin }
    (s.updColl c.group c.seq (fun x => { x with parts := x.parts.filter (fun y => y.key != key) ++ [q] })).settle c q

/-- Chunks that had to wait are settled, in the order in which they came. -/
def State.settleAll (s : State) (c : CollRec) : State :=
  c.parts.foldl (fun t q => match t.findColl c.group c.seq with | some d => t.settle d q | none => t) s

/-! ## Posting (R457, R458, R469) -/

/-- Members with which a collective exchanges data. -/
def State.peers (s : State) (c : CollRec) : List Nat := (((s.outStreams c) ++ (s.inStreams c)).map (fun x => x.1)).dedup

/-- Every member's counts are here (R469). -/
def State.countsHere (s : State) (c : CollRec) : Bool :=
  ((List.range (s.collN c)).filter (fun j => j != s.collIx c)).all (fun j => (s.grpRec c.group).counts.any (fun x => x.1 == j && x.2.1 == c.seq))

/-- Copies n bytes within the module for the member's own share; a poisoned source is its own poisoned input. -/
def State.ownCopy (s0 : State) (c : CollRec) (src : Nat) (runs : List (Option Nat × Nat)) (n : Nat) : State :=
  if n = 0 then s0
  else
    let s := (s0.readAll clsMove [(src, n)]).1
    let bad := s.anyPoison (dgaKey src) n
    let s1 := s.writeRuns bad runs 0 (s.bytes (dgaKey src) n)
    if bad then s1.updColl c.group c.seq (fun x => { x with poisonIn := true }) else s1

/-- The member's own share (R466), and the lists of the counted operations (R470). -/
def State.ownShare (s : State) (c : CollRec) : State :=
  let o := c.lane.ce
  let i := s.collIx c
  let n := s.collN c
  match c.op with
  | 3 =>
    let s1 := if o.aux = 0 ∨ c.clist = 0 then s
      else s.writeMem clsMove (dgaKey c.clist) ((List.range n).flatMap (fun j => leBytes 4 (s.blockOff c j) ++ leBytes 4 (s.blockLen c j))) false
    let s2 := if o.aux ≠ 0 ∧ c.cap < s.blockOff c n then s1.updColl c.group c.seq (fun x => { x with overflow := true }) else s1
    s2.ownCopy c o.src (s.blockRuns c i) (s.blockLen c i)
  | 4 => if i = o.root then s.ownCopy c o.src [(some o.dst, o.e)] o.e else s
  | 6 =>
    if o.reverse then
      (List.range (s.collSub c)).foldl (fun t k =>
        let m := s.countFrom c i k
        t.ownCopy c (o.src + s.runRow c i k * o.e) [(some (o.dst + (s.firstTo c i + sumTo k (fun x => s.countTo c i x)) * o.e), m * o.e)] (m * o.e)) s
    else
      let ns := o.nsub
      let total := sumTo ns (fun k => sumTo n (fun j => s.countFrom c j k))
      let uneven := o.columns && (List.range n).any (fun j => s.rowsFrom c j != s.rowsFrom c i)
      let c' := { c with uneven := uneven }
      let s1 := s.writeMem clsMove (dgaKey o.work) ((List.range n).flatMap (fun j => (List.range ns).flatMap (fun k => leBytes 4 (s.countTo c j k))) ++
        (List.range n).flatMap (fun j => (List.range ns).flatMap (fun k => leBytes 4 (s.countFrom c j k)))) false
      let s2 := if c.clist = 0 then s1
        else s1.writeMem clsMove (dgaKey c.clist) ((List.range ns).flatMap (fun k =>
          leBytes 4 (s.runRow c 0 k) ++ leBytes 4 (sumTo n (fun j => s.countFrom c j k)))) false
      let s3 := s2.updColl c.group c.seq (fun x => { x with uneven := uneven, overflow := !o.columns && decide (c.cap < total) })
      let vias : Sparse Nat := match s.viaMates c with
        | none => []
        | some (q, u) => (List.range q).foldl (fun m y => (List.range u).foldl (fun m a =>
            Sparse.set (fun _ => 0) m ((i / q * q + y) * 64 + a) (s.via c (i / q * q + y) a)) m) []
      let s4 := s3.updGrp c.group (fun r => { r with forward := (o.work, ns, vias) :: r.forward.filter (fun x => x.1 != o.work) })
      s4.ownCopy c' (o.src + s.firstTo c i * o.e) (s.landRuns c' i) (s.rowsTo c i * o.e)
  | _ =>
    if reduces c.op then
      let w := o.inFmt.width / 8
      let t := (s.readAll clsMove (s.ownRanges c)).1
      if t.anyPoison (dgaKey o.src) (o.e * w) then t.updColl c.group c.seq (fun x => { x with poisonIn := true }) else t
    else s

/-- Opens a posted collective: READY, the member's own share, and the kitty's bytes (R458). -/
def State.openColl (s : State) (c : CollRec) : State :=
  let s1 := (s.peers c).foldl (fun t j => t.sendMember c.group j mReady c.seq 0 []) s
  let s2 := (s1.updColl c.group c.seq (fun x => { x with opened := true })).ownShare c
  let k := (s2.grpRec c.group).kitty.filter (fun x => x.2.extra % 2 ^ 32 == c.seq)
  let s3 := s2.updGrp c.group (fun r => { r with kitty := r.kitty.filter (fun x => x.2.extra % 2 ^ 32 != c.seq) })
  k.foldl (fun t x =>
    match t.findColl c.group c.seq with
    | none => t
    | some d => t.takePkt d x.2) s3

/-- Moves a posted collective on: counts, reductions, sends, digests, the end. -/
def State.goOn (s : State) (g sq : Nat) : State :=
  let on (f : State → CollRec → State) (t : State) : State := match t.findColl g sq with | some c => f t c | none => t
  let s1 := on (fun t c => if c.posted && !c.opened && (!c.needsCounts || t.countsHere c) && !t.ceHeld c then t.openColl c else t) s
  let s2 := on (fun t c => if c.opened then t.settleAll c else t) s1
  let s3 := on (fun t c => if c.opened then t.sumSuit c else t) s2
  let s4 := on (fun t c => if c.opened && !t.ceHeld c then t.sumShard c else t) s3
  let s5 := on (fun t c => if c.posted && !t.ceHeld c then t.sendAll c else t) s4
  let s6 := on (fun t c => t.compareDigests c) s5
  let s7 := on (fun t c => if c.opened then t.sendDigests c else t) s6
  on (fun t c => t.complete c) s7

/-- Posts a group's oldest accepted collective, if it is not the active one already (R457). A completed one makes room for the
next: at most four are accepted. -/
def State.postNext (s : State) (g : Nat) : Nat → State
  | 0 => s
  | fuel + 1 =>
    match s.accepted g with
    | [] => s
    | c :: _ =>
      if c.posted then s
      else
        let s1 := s.updColl g c.seq (fun x => { x with posted := true })
        let s2 := if c.needsCounts then
            ((List.range (s.collN c)).filter (fun j => j != s.collIx c)).foldl (fun t j =>
              t.sendMember g j mCounts c.seq 0 ((s.countsFor c j).flatMap (leBytes 4))) s1
          else s1
        State.postNext (s2.goOn g c.seq) g fuel

/-- Something has come for collective sq of group g: it moves on, and the next one is posted when it has completed. -/
def State.moveOn (s : State) (g sq : Nat) : State := (s.goOn g sq).postNext g 5

/-- Posted collectives go on, after what they read or write is no longer held. -/
def State.resumeColls (s : State) : State := (s.coll.filter (fun c => c.posted)).foldl (fun t c => t.moveOn c.group c.seq) s

/-! ## Acceptance (R455 to R457) -/

/-- A lane's auxiliary record lacks its COUNTS, or holds a DST_STRIDE that the operation does not use (R454, R455). Of the record of a
reverse all-to-all nothing is used. -/
def State.auxBad (s : State) (l : Lane) : Bool :=
  let counted := l.opcode == 6 && !l.ce.reverse || l.opcode == 3 && l.ce.aux != 0
  counted && (s.ceAux l 0 8 == 0 || !l.ce.columns && s.ceAux l 0x14 4 != 0)

/-- Dispatch checks beyond the group check: formats, operands, partition. -/
def State.ceChecks (s : State) (l : Lane) : Option Nat :=
  let o := l.ce
  let g := o.grp % 64
  let n := (s.grpNodes g).length
  let ax (f k : Nat) : Nat := s.ceAux l f k
  let c := s.ceRecord 0 l 0
  let addr (a len : Nat) : Option Nat := if a = 0 then none else s.addr64 l.part a len
  if l.opcode < 1 ∨ 6 < l.opcode then some 4
  else if reduces l.opcode && ((ceFmt (bits o.fmt 0 4)).isNone || (ceFmt (bits o.fmt 4 4)).isNone || o.redOp == 3) then some 4
  else if !o.fieldsOk l.opcode n (ax 0x14 4) || decide (ax 0x18 40 ≠ 0) || s.auxBad l then some 5
  else
    let longest : Nat := (s.outStreams c).foldl (fun m x => max m (s.outLen c x.1 x.2)) 0
    firstFail
      [ addr o.aux 64, addr (ax 0 8) (if l.opcode = 6 then max 1 (4 * ceCounts l n) else 4), addr (ax 8 8) 8,
        firstFail ((s.ceIns c).map (fun r => addr r.1 r.2)), addr o.src 1,
        firstFail ((s.ceOuts l).map (fun r => addr r.1 r.2)), addr o.work 4, addr o.dst 1,
        need (decide (s.chunksIn g longest ≤ 65536)) ]

/-- The lanes that stand on an engine and are not yet accepted, in issue order. -/
def State.unaccepted (s : State) (e : Nat) : List Lane :=
  (s.unit (ceU e)).queue.filter (fun l => l.status.isNone && s.coll.all (fun c => !sameLane l c.lane))

/-- Takes a sequence number. -/
def State.takeSeq (s : State) (g : Nat) : State := s.setGrp g Reg.ce.grpNextSeq (s.grp g Reg.ce.grpNextSeq + 1)

/-- What a lane reads as it is accepted: its auxiliary record and its counts; a reverse all-to-all reads the count matrix (R470, R471). -/
def State.ceLists (s : State) (l : Lane) : List (Nat × Nat) :=
  let n := (s.grpNodes (l.ce.grp % 64)).length
  let k := ceCounts l n
  if l.opcode = 6 ∧ l.ce.reverse then [(l.ce.work, 8 * n * s.collSub (s.ceRecord 0 l 0))]
  else if k = 0 then []
  else [(l.ce.aux, 64), (s.ceAux l 0 8, 4 * k)]

/-- Accepts a lane (R457): its auxiliary record and counts are read; it is posted when the group has no older one. -/
def State.acceptLane (s0 : State) (e : Nat) (l : Lane) : State :=
  let g := l.ce.grp
  let s := (s0.readAll clsMove (s0.ceLists l)).1
  let c := { s.ceRecord e l (s.grp g Reg.ce.grpNextSeq) with poisonIn := (s.ceLists l).any (fun r => s.anyPoison (dgaKey r.1) r.2) }
  (({ (s.takeSeq g) with coll := s.coll ++ [c] } : State).showAccepted g).postNext g 5

/-- A CE command runs (R455 to R457, R476, R478): the oldest lane that the engine has not yet accepted, when its opcode is one that the
row covers. -/
def State.ceRun (s : State) (u : UnitId) (covers : Nat → Bool) : State :=
  match s.unaccepted u.ix with
  | [] => s
  | l :: _ =>
    let g := l.ce.grp % 64
    if !covers l.opcode || !(s.ustate u == stRunning || s.ustate u == stDraining) then s
    else if s.grp g Reg.ce.grpValid = 0 ∨ s.grp g Reg.ce.grpPart ≠ l.part then s.endCeLane u.ix l 6
    else if s.gstate g = gsHeld then s.endCeLane u.ix l 0xC0
    else if s.gstate g = gsBroken then s.endCeLane u.ix l 0x0A
    else if s.gstate g ≠ gsReady ∨ 4 ≤ (s.accepted g).length then s
    else
      match s.ceChecks l with
      | some st => ((s.takeSeq g).endCeLane u.ix l st).cancelAt g (s.cancelFrom g)
      | none => s.acceptLane u.ix l

end Sys2Proof.Machine
end

