-- ==== Sys2Proof/Machine/Dma.lean ====
section
/-!
DEFINITION. DMA engines (chapter 11, R292 to R303): COPY, FILL and PUSH lanes within the module and to other nodes.
-/
namespace Sys2Proof.Machine

/-- The operands of a DMA lane (R294), with the row strides in bytes. -/
structure DmaOps where
  src : Nat
  dst : Nat
  pat : Nat
  m : Nat
  n : Nat
  ss : Nat
  ds : Nat
  ctl : Nat
  tail : Nat
  deriving DecidableEq, Repr

/-- Reads them. -/
def Lane.dma (l : Lane) : DmaOps :=
  let n := l.op 44 4
  let st (x : Nat) : Nat := if x = 0 then n else x * 64
  { src := l.op 16 8, dst := l.op 24 8, pat := l.op 32 8, m := l.op 40 4, n := n, ss := st (l.op 48 4), ds := st (l.op 52 4),
    ctl := l.op 56 4, tail := l.op 60 4 }

/-- PCLASS of a push, as a traffic class. -/
def DmaOps.cls (o : DmaOps) : Nat := 3 + bits o.ctl 0 2

/-- Field ranges (R294): BAD_OPERAND otherwise. -/
def DmaOps.fieldsOk (o : DmaOps) (op : Nat) : Bool :=
  o.tail == 0 && o.ctl / 4 == 0 && decide (o.m ≤ 1_048_576) && decide (64 ≤ o.n ∧ o.n ≤ 1_073_741_824) && o.n % 64 == 0 &&
    (if op = 3 then decide (o.ctl % 4 ≤ 1) else o.ctl % 4 == 0) && (if op = 2 then o.src == 0 else o.pat == 0)

/-- Bytes of the rows [r0, r1) of a stride, from row r0 on: at least the operand's own byte (R293). -/
def dmaSpan (n st : Nat) (r : Nat × Nat) : Nat × Nat := (r.1 * st, if r.1 = r.2 then 1 else (r.2 - 1 - r.1) * st + n)

/-- An address of a DMA lane: aligned, formed, in a space that its end may have (R295). -/
def State.dmaAddr (s : State) (a : Nat) : Option Nat :=
  if a % 64 ≠ 0 ∨ !dgaFormed a then some 5
  else if dgaSpace a = 3 then some 6
  else need (dgaNode a == s.node || decide (dgaSpace a < 2))

/-- An end on this module lies in the partition (R80). -/
def State.dmaLocal (s : State) (p a n st : Nat) (r : Nat × Nat) : Option Nat :=
  if dgaNode a ≠ s.node then none
  else
    let x := dmaSpan n st r
    if (if r.1 = r.2 then s.inPart p (dgaSpace a) (dgaOff a) 1 else s.inPart p (dgaSpace a) (dgaOff a + x.1) x.2) then none else some 6

/-- The dispatch checks of a DMA lane (R293 to R295). -/
def State.dmaChecks (s : State) (l : Lane) : Option Nat :=
  let o := l.dma
  let r := l.share o.m
  if l.opcode < 1 ∨ 3 < l.opcode then some 4
  else if !o.fieldsOk l.opcode then some 5
  else
    let here (a : Nat) : Bool := dgaNode a == s.node
    firstFail
      [ if l.opcode = 2 then none else s.dmaAddr o.src, s.dmaAddr o.dst,
        need (match l.opcode with
          | 1 => here o.src || here o.dst
          | 2 => here o.dst
          | _ => here o.src && !here o.dst),
        if l.opcode = 2 then none else s.dmaLocal l.part o.src o.n o.ss r,
        s.dmaLocal l.part o.dst o.n o.ds r ]

/-- The destination ranges of a lane's rows, whatever its other fields hold (R94). -/
def State.dmaOuts (_ : State) (l : Lane) : List (Nat × Nat) :=
  let o := l.dma
  let r := l.share o.m
  if l.opcode < 1 ∨ 3 < l.opcode then []
  else (List.range (r.2 - r.1)).map (fun i => (o.dst + (r.1 + i) * o.ds, o.n))

/-! ## Pieces: what a lane moves at a time -/

/-- Cuts n bytes at an address into pieces that no multiple of b lies inside: offset and length. -/
def cuts (b a n : Nat) : List (Nat × Nat) :=
  (List.range ((a + n + b - 1) / b - a / b)).map (fun i =>
    let lo := max a ((a / b + i) * b)
    (lo - a, min (a + n) ((a / b + i + 1) * b) - lo))

/-- A piece of a lane: its row, its source and destination addresses, its length, and whether its row ends with it. -/
structure DmaPiece where
  row : Nat
  src : Nat
  dst : Nat
  len : Nat
  last : Bool
  deriving DecidableEq, Repr

/-- The pieces of a lane, in order: destination lines of local and written ranges, source lines of remote reads (R296), up to 512 bytes
of a push. -/
def State.dmaPieces (s : State) (l : Lane) : List DmaPiece :=
  let o := l.dma
  let r := l.share o.m
  (List.range (r.2 - r.1)).flatMap (fun i =>
    let a := o.src + (r.1 + i) * o.ss
    let b := o.dst + (r.1 + i) * o.ds
    (cuts (if l.opcode = 3 then 512 else 256) (if l.opcode = 1 ∧ dgaNode o.src ≠ s.node then a else b) o.n).map
      (fun c => ⟨r.1 + i, a + c.1, b + c.1, c.2, c.1 + c.2 == o.n⟩))

/-- The internal break points of a list of pieces (R300), each by the number of pieces before it: after 64 rows, or at the first boundary
between destination lines once 1 MiB has been moved since the last one, and never inside a destination line. `rows` and `moved` count
from the last break point, `i` the pieces so far. -/
def dmaBreaks (rows moved i : Nat) : List DmaPiece → List Nat
  | [] => []
  | [_] => []
  | c :: d :: r =>
    let rows' := if c.last then rows + 1 else rows
    let moved' := moved + c.len
    let inside := (c.dst + c.len) % 256 != 0 && (c.dst + c.len) / 256 == d.dst / 256
    if (decide (64 ≤ rows') || decide (1_048_576 ≤ moved')) && !inside then (i + 1) :: dmaBreaks 0 0 (i + 1) (d :: r)
    else dmaBreaks rows' moved' (i + 1) (d :: r)

/-- The internal break points of a lane. -/
def State.dmaBreaks (s : State) (l : Lane) : List Nat := Machine.dmaBreaks 0 0 0 (s.dmaPieces l)

/-! ## Within the module -/

/-- One piece copied within the module with its poison (R300). -/
def State.copyPiece (u : UnitId) (s : State) (c : DmaPiece) : State :=
  let s1 := s.writeMem clsMove (dgaKey c.dst) (s.bytes (dgaKey c.src) c.len) (s.anyPoison (dgaKey c.src) c.len)
  (s1.count u 1 c.len).count u 2 c.len

/-- A FILL: every 8-byte word of each row is PATTERN (R293). -/
def State.dmaFill (s : State) (u : UnitId) (l : Lane) : State :=
  let o := l.dma
  let w := leBytes 8 o.pat
  (s.dmaOuts l).foldl (fun t d =>
    (t.writeMem clsMove (dgaKey d.1) ((List.replicate (d.2 / 8) w).flatten) false).count u 2 d.2) s

/-! ## Remote ends (R296, R297) -/

/-- What DMA engine u's lane has outstanding. -/
def State.outstanding (s : State) (u : UnitId) : Nat := (s.net.reqs.filter (fun q => q.live && q.engine == u.ix)).length

/-- REMOTE.LIMIT as it acts (R302). -/
def State.remoteLimit (s : State) (u : UnitId) : Nat := clampTo 1 512 (s.get u Reg.dma.remoteLimit)

/-- Key of a node and class. -/
def pushKey (node cls : Nat) : Nat := node * 8 + cls

/-- Push credit in use toward a node on a class. -/
def State.pushUsed (s : State) (node cls : Nat) : Nat := Sparse.get (fun _ => 0) s.net.pushUsed (pushKey node cls)

/-- Takes or returns push credit. -/
def State.setPushUsed (s : State) (node cls v : Nat) : State :=
  s.setNet (fun n => { n with pushUsed := Sparse.set (fun _ => 0) n.pushUsed (pushKey node cls) v })

/-- A TC2 request for a line is outstanding (R425). -/
def State.lineBusy (s : State) (a : Nat) : Bool := s.net.reqs.any (fun q => q.kind != 2 && q.addr / 256 == a / 256)

/-- The packet of a request (R424, R296). -/
def State.reqPacket (s : State) (q : ReqRec) : Pkt :=
  let p := s.packet q.node (if q.kind = 2 then q.cls else 2) (if q.kind = 0 then kRead else kWrite)
  { p with part := q.part, poison := q.poison, flow := flowOf q.addr, addr := q.addr, extra := if q.kind = 2 then q.seq else q.len, data := q.data }

/-- Changes what DMA engine u holds of its remote lane. -/
def State.setRun (s : State) (u : UnitId) (f : DmaRun → DmaRun) : State := s.setUnit u (fun x => { x with dma := x.dma.map f })

/-- The lane of DMA engine u is to end early with a status (R300). -/
def State.turn (s : State) (u : UnitId) (st : Nat) : State := s.setRun u (fun r => { r with ending := r.ending.or (some st) })

/-- The bytes of a lane come from another node. -/
def State.remoteSrc (s : State) (l : Lane) : Bool := l.opcode == 1 && dgaNode l.dma.src != s.node

/-- A piece must wait: for the limit of lines in flight, for the line, for push credit, or for a held source line (R258, R296, R425). -/
def State.pieceWaits (s : State) (u : UnitId) (l : Lane) (c : DmaPiece) : Bool :=
  if s.remoteSrc l then decide (s.remoteLimit u ≤ s.outstanding u) || s.lineBusy c.src
  else
    (if l.opcode = 3 then decide (65536 < s.pushUsed (dgaNode c.dst) l.dma.cls + c.len)
      else decide (s.remoteLimit u ≤ s.outstanding u) || s.lineBusy c.dst) || s.heldIn [(c.src, c.len)]

/-- The read request of a piece. -/
def State.sendRead (s : State) (u : UnitId) (l : Lane) (c : DmaPiece) : State :=
  let q : ReqRec :=
    { engine := u.ix, live := true, kind := 0, node := dgaNode c.src, addr := c.src, part := l.part, cls := 2, seq := 0,
      data := [], poison := false, len := c.len, dst := dgaKey c.dst, tag := none, resends := 0, row := c.row }
  (s.setNet (fun n => { n with reqs := n.reqs ++ [q] })).inject (s.reqPacket q)

/-- The write or push of a piece with its bytes and its POISON bit. -/
def State.sendWrite (s : State) (u : UnitId) (l : Lane) (c : DmaPiece) (d : List Byte) (bad : Bool) : State :=
  let node := dgaNode c.dst
  let push := l.opcode = 3
  let cls := l.dma.cls
  let sq := Sparse.get (fun _ => 0) s.net.pushSeq (pushKey node cls)
  let q : ReqRec :=
    { engine := u.ix, live := true, kind := if push then 2 else 1, node := node, addr := c.dst, part := l.part,
      cls := if push then cls else 2, seq := if push then sq else 0, data := d, poison := bad, len := c.len, dst := 0, tag := none,
      resends := 0 }
  let s1 := s.setNet (fun n => { n with reqs := n.reqs ++ [q] })
  let s2 := if push then (s1.setPushUsed node cls (s.pushUsed node cls + c.len)).setNet (fun n =>
      { n with pushSeq := Sparse.set (fun _ => 0) n.pushSeq (pushKey node cls) ((sq + 1) % 2 ^ 32) }) else s1
  (s2.inject (s.reqPacket q)).count u 4 c.len

/-- Sends one piece of a lane. A poisoned source line gives a packet with POISON; an uncorrectable error on a source ends the lane
DATA_ERROR, and this line and those after it are written poisoned (R300). -/
def State.sendPiece (s : State) (u : UnitId) (l : Lane) (c : DmaPiece) : State :=
  let ending := ((s.unit u).dma.bind (fun r => r.ending)).isSome
  let zeros := List.replicate c.len (0 : Byte)
  if ending then s.sendWrite u l c zeros true
  else if s.remoteSrc l then s.sendRead u l c
  else
    let m := s.readAll clsMove [(c.src, c.len)]
    let s1 := m.1.count u 1 c.len
    let bad := s1.anyPoison (dgaKey c.src) c.len
    if m.2 then (s1.turn u 3).sendWrite u l c zeros true
    else (if bad then s1.setRun u (fun r => { r with poisonIn := true }) else s1).sendWrite u l c (s1.bytes (dgaKey c.src) c.len) bad

/-- Sends the pieces that may go, in order. At the break point where FORCE ends the lane, the rest is written poisoned; a lane that
reads from another node reads no more. -/
def State.sendPieces (s : State) (u : UnitId) (l : Lane) : List DmaPiece → State
  | [] => s
  | c :: r =>
    match (s.unit u).dma with
    | none => s
    | some d =>
      let s1 := if d.stop = some d.sent then s.turn u 7 else s
      if (s.remoteSrc l && (d.ending.isSome || d.stop == some d.sent)) || s1.pieceWaits u l c then s1
      else State.sendPieces ((s1.sendPiece u l c).setRun u (fun y => { y with sent := y.sent + 1 })) u l r

/-! ## Bytes from another node (R295, R296) -/

/-- The part of a row of a lane's destination that lies in a line. -/
def Lane.rowPart (l : Lane) (row line : Nat) : Nat × Nat := within line (dgaKey l.dma.dst + row * l.dma.ds) l.dma.n

/-- Writes a destination line, as far as a row covers it, once all its bytes are there and its bank or device takes them. -/
def State.landPiece (s : State) (u : UnitId) (l : Lane) (row line : Nat) : State :=
  match (s.unit u).dma with
  | none => s
  | some r =>
    let mine (x : StagePiece) : Bool := x.row == row && x.at' / 256 == line
    let ps := r.buf.filter mine
    let w := l.rowPart row line
    if (ps.map (fun x => x.data.length)).sum < w.2 || (s.holder line).any s.holds then s
    else
      let d := (sortBy (fun (a b : StagePiece) => decide (a.at' ≤ b.at')) ps).flatMap (fun x => x.data)
      ((s.setRun u (fun r => { r with buf := r.buf.filter (fun x => !mine x) })).writeMem clsMove w.1 d (ps.any (fun x => x.poison))).count u 2 w.2

/-- Writes what is complete in the staging buffer. -/
def State.land (s : State) (u : UnitId) (l : Lane) : State :=
  match (s.unit u).dma with
  | none => s
  | some r => ((r.buf.map (fun x => (x.row, x.at' / 256))).dedup).foldl (fun t x => t.landPiece u l x.1 x.2) s

/-- Bytes from another node enter the staging buffer, cut at destination lines. -/
def State.stagePiece (s : State) (u : UnitId) (q : ReqRec) (d : List Byte) (pois : Bool) : State :=
  (s.count u 3 q.len).setRun u (fun r =>
    { r with buf := r.buf ++ (cuts 256 q.dst q.len).map (fun c => ⟨q.row, q.dst + c.1, (d.drop c.1).take c.2, pois⟩) })

/-- The lane on DMA engine u ends: its requests that are still outstanding are no longer its own. -/
def State.dmaEnd (s : State) (u : UnitId) (l : Lane) (st : Nat) : State :=
  let s1 := s.setNet (fun n => { n with reqs := n.reqs.map (fun q => if q.engine = u.ix then { q with live := false } else q) })
  let s2 := s1.setUnit u (fun x => { x with dma := none, queue := { l with status := some st } :: x.queue.drop 1 })
  let s3 := if poisoning st then (s2.poisonOuts l.part (s.dmaOuts l)).sawPoison u st (s.dmaOuts l) else s2
  if st = 0xC1 ∨ st = 0xC2 then s3.irq u (2 ^ 17) else s3

/-- The remote lane of DMA engine u goes on: it writes and sends what it may, and ends once every piece has been answered and written. A
lane that ends early keeps its status, whatever its answers say. -/
def State.dmaGo (s : State) (u : UnitId) : State :=
  match (s.unit u).queue, (s.unit u).dma with
  | l :: _, some r =>
    if l.status.isSome then s
    else
      let ps := s.dmaPieces l
      let s1 := (s.land u l).sendPieces u l (ps.drop r.sent)
      match (s1.unit u).dma with
      | none => s1
      | some r' =>
        if s.remoteSrc l && r'.ending.isSome then s1.dmaEnd u l (r'.ending.getD 7)
        else if r'.acked = ps.length ∧ r'.buf = [] then
          s1.dmaEnd u l (r'.ending.getD (if r'.refused then 0xC1 else if r'.poisonIn then 2 else 0))
        else s1
  | _, _ => s

/-- A piece of DMA engine u's lane has been answered. -/
def State.dmaAck (s : State) (u : UnitId) (poisoned refused : Bool) : State :=
  let s1 := s.setRun u (fun r =>
    { r with acked := r.acked + 1, poisonIn := r.poisonIn || poisoned, refused := r.refused || refused })
  (if refused then s1.count u 6 1 else s1).dmaGo u

/-- A remote transfer is lost beyond its re-sends: the lane ends REMOTE_FAILED (R297). -/
def State.dmaFail (s : State) (u : UnitId) : State :=
  match (s.unit u).queue with
  | l :: _ => if (s.unit u).dma.isSome && l.status.isNone then s.dmaEnd u l 0xC2 else s
  | [] => s

/-- Both ends of a lane lie on this module. -/
def State.dmaHere (s : State) (l : Lane) : Bool :=
  l.opcode == 2 || dgaNode l.dma.dst == s.node && dgaNode l.dma.src == s.node

/-- A lane moves rows to or from another node. -/
def State.dmaRemote (s : State) (l : Lane) : Bool :=
  let r := l.share l.dma.m
  (s.dmaChecks l).isNone && !s.dmaHere l && decide (r.1 < r.2)

/-- The source rows of a COPY within the module. -/
def State.dmaIns (s : State) (l : Lane) : List (Nat × Nat) :=
  let o := l.dma
  let r := l.share o.m
  if l.opcode = 1 ∧ s.dmaHere l then (List.range (r.2 - r.1)).map (fun i => (o.src + (r.1 + i) * o.ss, o.n)) else []

/-- A DMA lane as a job: its dispatch checks and its work within the module. -/
def State.dmaJob (s : State) (u : UnitId) (l : Lane) : Job :=
  { reject := s.dmaChecks l, ins := s.dmaIns l, outs := s.dmaOuts l,
    run := fun t => (if l.opcode = 2 then t.dmaFill u l else (s.dmaPieces l).foldl (State.copyPiece u) t, 0) }

/-- Starts a lane with a remote end: to do its work, or, with a status, to end with that once its remote destination is written poisoned
(R300). -/
def State.dmaStart (s : State) (u : UnitId) (ending : Option Nat) : State :=
  (s.setUnit u (fun x => { x with dma := some { ending := ending } })).dmaGo u

/-- Runs the head lane of a DMA engine. A lane with a remote end that has rows starts, goes on, and ends when its last answer comes. -/
def State.dmaRun (s : State) (u : UnitId) (covers : Nat → Bool) (ev : LaneEv) : State :=
  let go :=
    match (s.unit u).queue with
    | [] => s
    | l :: _ =>
      if !covers l.opcode || !s.dmaRemote l then s.runJob u covers ev (fun s l => s.dmaJob u l)
      else if l.status.isSome || !(s.ustate u == stRunning || s.ustate u == stDraining) then s
      else
        match ev.err, (s.unit u).dma with
        | some e, _ => s.dmaEnd u l e
        | none, some _ => s.dmaGo u
        | none, none => if s.heldIn (s.dmaOuts l) then s else s.dmaStart u none
  go.correct u 7 ev.corrected

/-- DMA_COPY (R293): opcodes that the class lacks end here too. -/
def execDmaCopy (u : UnitId) (ev : LaneEv) (s : State) : Host.Outcome State Fault Refusal :=
  atUnit .dma u s (s.dmaRun u (fun o => decide (o ≠ 2 ∧ o ≠ 3)) ev)

/-- FILL (R293). -/
def execFill (u : UnitId) (ev : LaneEv) (s : State) : Host.Outcome State Fault Refusal := atUnit .dma u s (s.dmaRun u (fun o => o == 2) ev)

/-- PUSH (R296). -/
def execPush (u : UnitId) (ev : LaneEv) (s : State) : Host.Outcome State Fault Refusal := atUnit .dma u s (s.dmaRun u (fun o => o == 3) ev)

end Sys2Proof.Machine
end

