-- ==== Sys2Proof/Machine/Matrix.lean ====
section
/-!
DEFINITION. Matrix tiles (chapter 5): the MM, MM_CB and MM_GROUPED lanes of R109.
-/
namespace Sys2Proof.Machine

/-- Format codes (R111) that name an element format. -/
def mtFmt : Nat → Option Fmt
  | 0 => some .fp32 | 1 => some .bf16 | 2 => some .fp16 | 3 => some .e4m3 | 4 => some .e5m2 | 5 => some .e3m2
  | 6 => some .e2m3 | 7 => some .e2m1 | 8 => some .int8 | 9 => some .int4 | _ => none

/-- Index bits of a codebook format (R60). -/
def cbBits : Nat → Option Nat
  | 10 => some 4 | 11 => some 3 | 12 => some 2 | _ => none

/-- The operands of an MT lane (R110, R113). -/
structure MtOps where
  a : Nat
  w : Nat
  out : Nat
  aux : Nat
  m : Nat
  n : Nat
  k : Nat
  fmt : Nat
  aScale : Nat
  wScale : Nat
  oScale : Nat
  epiScale : Nat
  epiVec2 : Nat
  countList : Nat
  aStride : Nat
  oStride : Nat
  aSs : Nat
  oSs : Nat
  wSs : Nat
  groups : Nat
  deriving DecidableEq, Repr

/-- Reads them, the auxiliary record included, whose fields are zero where it has none or fails its check (R113; log entry 39). -/
def State.mtOps (s : State) (l : Lane) : MtOps :=
  let aux := l.op 40 8
  let ok := decide (aux ≠ 0) && (s.addr64 l.part aux 64).isNone
  let x (o n : Nat) : Nat := s.recField ok aux o n
  { a := l.op 16 8, w := l.op 24 8, out := l.op 32 8, aux := aux, m := l.op 48 4, n := l.op 52 4, k := l.op 56 4, fmt := l.op 60 4,
    aScale := x 0 8, wScale := x 8 8, oScale := x 0x10 8, epiScale := x 0x18 8, epiVec2 := x 0x20 8, countList := x 0x28 8,
    aStride := x 0x30 4, oStride := x 0x34 4, aSs := x 0x38 2, oSs := x 0x3A 2, wSs := x 0x3C 2, groups := x 0x3E 2 }

def MtOps.aFmt (o : MtOps) : Nat := bits o.fmt 0 4
def MtOps.wFmt (o : MtOps) : Nat := bits o.fmt 4 4
def MtOps.oFmt (o : MtOps) : Nat := bits o.fmt 8 4
def MtOps.rowSplit (o : MtOps) : Bool := bit o.fmt 12
def MtOps.accIn (o : MtOps) : Bool := bit o.fmt 13
def MtOps.perLane (o : MtOps) : Nat := bits o.fmt 16 12
def MtOps.epi (o : MtOps) : Nat := bits o.fmt 28 2

/-- Element formats, with FP32 for an undefined code. -/
def MtOps.aF (o : MtOps) : Fmt := (mtFmt o.aFmt).getD .fp32
def MtOps.wF (o : MtOps) : Fmt := (mtFmt o.wFmt).getD .fp32
def MtOps.oF (o : MtOps) : Fmt := (mtFmt o.oFmt).getD .fp32

/-- The decoded weight format: a codebook passes FP8 E4M3 or FP6 E2M3 entries (R59, R110). -/
def MtOps.wElem (o : MtOps) : Fmt :=
  if (cbBits o.wFmt).isSome then (if bit o.fmt 30 then .e2m3 else .e4m3) else o.wF

/-- Block-scaled operands and outputs (R56, R110, R113). -/
def MtOps.aBlocked (o : MtOps) : Bool := decide (o.aF.width < 8) && !o.aF.isInt || (o.aF.width == 8 && !o.aF.isInt && bit o.fmt 14)
def MtOps.wBlocked (o : MtOps) : Bool :=
  (cbBits o.wFmt).isNone && (decide (o.wF.width < 8) && !o.wF.isInt || (o.wF.width == 8 && !o.wF.isInt && bit o.fmt 15))
def MtOps.oBlocked (o : MtOps) : Bool := decide (o.oF.width < 8) || (o.oF.width == 8 && o.oScale != 0)

/-- Row strides in bytes (R113). A dense weight has no stride field: its columns follow one another at their length rounded up to
64 bytes, as the other strides do by default (log: DEDUCED). A scale stride shorter than a row of scales, which R57 forbids and for which
it names no status, is taken as it stands: rows of scales then overlap (DESIGN CHOICE, log entry 154). -/
def MtOps.aRow (o : MtOps) : Nat := if o.aStride = 0 then up64 ((o.k * o.aF.width + 7) / 8) else o.aStride
def MtOps.oRow (o : MtOps) : Nat := if o.oStride = 0 then up64 ((o.n * o.oF.width + 7) / 8) else o.oStride
def MtOps.wCol (o : MtOps) : Nat := up64 ((o.k * o.wF.width + 7) / 8)
def MtOps.aSRow (o : MtOps) : Nat := if o.aSs = 0 then up64 ((o.k + 31) / 32) else o.aSs * 64
def MtOps.oSRow (o : MtOps) : Nat := if o.oSs = 0 then up64 ((o.n + 31) / 32) else o.oSs * 64
def MtOps.wSRow (o : MtOps) : Nat := if o.wSs = 0 then up64 ((o.k + 31) / 32) else o.wSs * 64

/-- Legal operand pairs (R63, R64). -/
def legalPair (w a : Fmt) : Bool :=
  if w.isInt || a.isInt then w.isInt && a.isInt
  else if w.width = 16 then a.width == 16
  else w.width != 32 && a.width != 32

/-- Checks that end FORMAT_ERROR (R109, R112). -/
def MtOps.formatOk (o : MtOps) (opcode : Nat) : Bool :=
  let cb := (cbBits o.wFmt).isSome
  decide (1 ≤ opcode ∧ opcode ≤ 3) && decide (1 ≤ o.aFmt ∧ o.aFmt ≤ 9) && decide (1 ≤ o.wFmt ∧ o.wFmt ≤ 12) &&
    (if opcode = 1 then !cb else if opcode = 2 then cb else true) && decide (o.oFmt ≤ 7) && (!o.accIn || o.oFmt == 0) &&
    legalPair o.wElem o.aF

/-- Bytes of a codebook record. -/
def cbRecord (b : Nat) : Nat := 32 + 512 * b

/-- Bytes of the weight tensor at one address. -/
def MtOps.wBytes (o : MtOps) : Nat :=
  match cbBits o.wFmt with
  | some b => (o.k + 255) / 256 * ((o.n + 15) / 16) * cbRecord b
  | none => o.n * o.wCol

/-- Entry g of the count list: row offset and count (R118). -/
def State.mtGroup (s : State) (o : MtOps) (g : Nat) : Nat × Nat :=
  (s.le (dgaKey o.countList + 8 * g) 4, s.le (dgaKey o.countList + 8 * g + 4) 4)

/-- The weight tensor of group g. -/
def State.mtWeight (s : State) (o : MtOps) (g : Nat) : Nat := s.le (dgaKey o.w + 8 * g) 8

/-- The lane's rows and columns (R115). -/
def MtOps.rows (o : MtOps) (l : Lane) : Nat × Nat :=
  let p := o.perLane * 16
  if o.rowSplit then (min (l.lane * p) o.m, min ((l.lane + 1) * p) o.m) else (0, o.m)
def MtOps.cols (o : MtOps) (l : Lane) : Nat × Nat :=
  let p := o.perLane * 16
  if o.rowSplit then (0, o.n) else (min (l.lane * p) o.n, min ((l.lane + 1) * p) o.n)

/-- The checks of the weight table and of the count list of MM_GROUPED (R114, R118). -/
def State.mtLists (s : State) (l : Lane) (o : MtOps) : Option Nat :=
  if l.opcode = 3 then firstFail [s.addr64 l.part o.w (8 * o.groups), s.addr64 l.part o.countList (8 * o.groups)] else none

/-- The runs of rows that the lane computes, each with the weight tensor it uses: one for each group of MM_GROUPED (R118). -/
def State.mtRuns (s : State) (l : Lane) (o : MtOps) : List ((Nat × Nat) × Nat) :=
  if l.opcode = 3 then
    if (s.mtLists l o).isSome then []
    else (List.range o.groups).map (fun g => let e := s.mtGroup o g; ((e.1, e.1 + e.2), s.mtWeight o g))
  else [(o.rows l, o.w)]

/-- The rows that the lane writes, each with the weight tensor it uses. -/
def State.mtRows (s : State) (l : Lane) (o : MtOps) : List (Nat × Nat) :=
  (s.mtRuns l o).flatMap (fun r => (List.range (r.1.2 - r.1.1)).map (fun i => (r.1.1 + i, r.2)))

/-! ## Array maps and passes (R104) -/

/-- The least power of two that is at least n. -/
def ceilPow2 (n : Nat) : Nat := if n ≤ 1 then 1 else 2 ^ (Nat.log2 (n - 1) + 1)

/-- The K-ways of a lane's map: MAP_FORCE of 1 to 6 overrides 512 / C within the same limits (R104, R130). -/
def MtOps.ways (o : MtOps) (force cols : Nat) : Nat :=
  let lim := min 32 (2 ^ Nat.log2 ((o.k + 31) / 32))
  max 1 (min lim (if 1 ≤ force ∧ force ≤ 6 then 2 ^ (force - 1) else 512 / max 16 (ceilPow2 cols)))

/-- Columns of a pass, and its most rows. -/
def passCols (w : Nat) : Nat := 512 / w
def passRows (w : Nat) : Nat := min 4096 (256 * w)

/-- A range cut into pieces of at most n. -/
def cut (n : Nat) (r : Nat × Nat) : List (Nat × Nat) :=
  (List.range ((r.2 - r.1 + n - 1) / n)).map (fun i => (r.1 + i * n, min r.2 (r.1 + (i + 1) * n)))

/-- A pass of a lane: its columns, its rows, and the weight tensor. -/
structure MtPass where
  cols : Nat × Nat
  rows : Nat × Nat
  w : Nat
  deriving DecidableEq, Repr

/-- The passes of a lane: for each group, every row pass of every column pass (R104, R118, R124). -/
def State.mtPasses (s : State) (l : Lane) (o : MtOps) : List MtPass :=
  let c := o.cols l
  let w := o.ways (s.get ⟨.mt, l.phys⟩ Reg.mt.mapMapForce) (c.2 - c.1)
  (s.mtRuns l o).flatMap (fun r => (cut (passCols w) c).flatMap (fun cc => (cut (passRows w) r.1).map (fun rr => ⟨cc, rr, r.2⟩)))

/-- Output ranges of one row: data and scales. -/
def MtOps.rowOuts (o : MtOps) (c : Nat × Nat) (m : Nat) : List (Nat × Nat) :=
  let d := (o.out + m * o.oRow + c.1 * o.oF.width / 8, ((c.2 - c.1) * o.oF.width + 7) / 8)
  if o.oBlocked then [d, (o.oScale + m * o.oSRow + c.1 / 32, (c.2 - c.1 + 31) / 32)] else [d]

/-- Every output range of the lane. -/
def State.mtOuts (s : State) (l : Lane) (o : MtOps) : List (Nat × Nat) :=
  let c := o.cols l
  if c.1 = c.2 then [] else (s.mtRows l o).flatMap (fun r => o.rowOuts c r.1)

/-- Checks of the descriptor that end BAD_OPERAND (R110, R114, R118). -/
def MtOps.fieldsOk (o : MtOps) (opcode : Nat) : Bool :=
  decide (o.m ≤ 65536) && decide (1 ≤ o.n ∧ o.n ≤ 1048576) && decide (1 ≤ o.k ∧ o.k ≤ 65536) && decide (1 ≤ o.perLane) &&
    o.a % 64 == 0 && o.w % 64 == 0 && o.out % 64 == 0 && (opcode == 3 || (cbBits o.wFmt).isNone || o.w % 256 == 0) &&
    !(opcode == 3 && o.rowSplit)

/-- A field of the auxiliary record that the command does not need is zero (R113). -/
def unneeded (needed : Bool) (v : Nat) : Bool := needed || v == 0

/-- Checks of the auxiliary record's fields that end BAD_OPERAND (R113, R114). -/
def MtOps.auxOk (o : MtOps) (opcode : Nat) : Bool :=
  let al (a : Nat) : Bool := a % 64 == 0
  al o.aScale && al o.wScale && al o.oScale && al o.epiScale && al o.epiVec2 && al o.countList && al o.aStride && al o.oStride &&
    (decide (8 ≤ o.aF.width) || o.aF.isInt || o.aScale != 0) && (decide (8 ≤ o.oF.width) || o.oScale != 0) &&
    ((cbBits o.wFmt).isSome || decide (8 ≤ o.wF.width) || o.wF.isInt || o.wScale != 0) &&
    !(o.oBlocked && !o.rowSplit && o.perLane % 2 == 1) && (o.epi == 0 || o.epiScale != 0) &&
    unneeded o.aBlocked o.aScale && unneeded o.aBlocked o.aSs && unneeded o.wBlocked o.wScale && unneeded o.wBlocked o.wSs &&
    unneeded (decide (o.oF.width ≤ 8)) o.oScale && unneeded o.oBlocked o.oSs && unneeded (decide (1 ≤ o.epi)) o.epiScale &&
    unneeded (decide (2 ≤ o.epi)) o.epiVec2 && unneeded (opcode == 3) o.countList &&
    (if opcode = 3 then decide (1 ≤ o.groups ∧ o.groups ≤ 512) else o.groups == 0)

/-- Checks of the count list and the weight table that end BAD_OPERAND (R114, R118). -/
def State.mtListsOk (s : State) (l : Lane) (o : MtOps) : Bool :=
  l.opcode != 3 || (List.range o.groups).all (fun g =>
    let e := s.mtGroup o g
    decide (e.1 + e.2 ≤ o.m) && s.mtWeight o g % (if (cbBits o.wFmt).isSome then 256 else 64) == 0)

/-- The weights that a pass reads, and their block scales. -/
def MtOps.wReads (o : MtOps) (p : MtPass) : List (Nat × Nat) :=
  match cbBits o.wFmt with
  | some b =>
    let gk := (o.k + 255) / 256
    [(p.w + p.cols.1 / 16 * gk * cbRecord b, ((p.cols.2 + 15) / 16 - p.cols.1 / 16) * gk * cbRecord b)]
  | none => [(p.w + p.cols.1 * o.wCol, (p.cols.2 - p.cols.1) * o.wCol)] ++
      (if o.wBlocked then [(o.wScale + p.cols.1 * o.wSRow, (p.cols.2 - p.cols.1) * o.wSRow)] else [])

/-- The activation rows that a pass reads, and their block scales. -/
def MtOps.aReads (o : MtOps) (p : MtPass) : List (Nat × Nat) :=
  (List.range (p.rows.2 - p.rows.1)).flatMap (fun i =>
    (o.a + (p.rows.1 + i) * o.aRow, (o.k * o.aF.width + 7) / 8) ::
      (if o.aBlocked then [(o.aScale + (p.rows.1 + i) * o.aSRow, (o.k + 31) / 32)] else []))

/-- The epilogue's vectors as a pass reads them. -/
def MtOps.epiReads (o : MtOps) (p : MtPass) : List (Nat × Nat) :=
  let n := p.cols.2 - p.cols.1
  (if o.epi = 0 then [] else [(o.epiScale + 4 * p.cols.1, 4 * n)]) ++ (if o.epi = 2 then [(o.epiVec2 + 2 * p.cols.1, 2 * n)] else []) ++
    (if o.epi = 3 then [(o.epiVec2 + 4 * p.rows.1, 4 * (p.rows.2 - p.rows.1))] else [])

/-- The records that the lane reads at dispatch: auxiliary record, weight table, count list (R113, R118). A lane with nothing to do reads
them too, so a poisoned one ends it POISON_IN under R123 although R115 ends it OK: the spec does not say which goes first (DESIGN CHOICE,
log entry 155). -/
def MtOps.records (o : MtOps) (opcode : Nat) : List (Nat × Nat) :=
  (if o.aux = 0 then [] else [(o.aux, 64)]) ++ (if opcode = 3 then [(o.w, 8 * o.groups), (o.countList, 8 * o.groups)] else [])

/-- Every address check but that of the auxiliary record (R80, R114): the lists of MM_GROUPED before what they hold. -/
def State.mtAddrs (s : State) (l : Lane) (o : MtOps) : Option Nat :=
  let ck (a n : Nat) : Option Nat := s.checkAddr l.part a (max 1 n) [0, 1] false
  firstFail
    ([s.mtLists l o, need (s.mtListsOk l o),
      ck o.a (if o.m = 0 then 1 else (o.m - 1) * o.aRow + (o.k * o.aF.width + 7) / 8),
      ck o.out (if o.m = 0 then 1 else (o.m - 1) * o.oRow + (o.n * o.oF.width + 7) / 8),
      if l.opcode = 3 then none else ck o.w o.wBytes,
      if o.aBlocked then ck o.aScale (o.m * o.aSRow) else none,
      if o.wBlocked then ck o.wScale (o.n * o.wSRow) else none,
      if o.oBlocked then ck o.oScale (o.m * o.oSRow) else none,
      if o.epi = 0 then none else ck o.epiScale (4 * o.n),
      if o.epi = 2 then ck o.epiVec2 (2 * o.n) else if o.epi = 3 then ck o.epiVec2 (4 * o.m) else none] ++
     (if l.opcode = 3 then (List.range o.groups).map (fun g => ck (s.mtWeight o g) o.wBytes) else []))

/-! ## The sums (R65 to R67) -/

/-- Weight element (k, n) of a tensor and the scale of its block or column (R57, R59 to R62). -/
def State.weight (s : State) (o : MtOps) (w k n : Nat) : Fp × Nat :=
  match cbBits o.wFmt with
  | some b =>
    let rec' := dgaKey w + (n / 16 * ((o.k + 255) / 256) + k / 256) * cbRecord b
    let ix := s.elem (rec' + 32) b (16 * (k % 256) + n % 16)
    (o.wElem.decode (s.le (rec' + ix) 1), s.le (rec' + 16 + n % 16) 1)
  | none =>
    (s.val o.wF (dgaKey w + n * o.wCol) k, if o.wBlocked then s.le (dgaKey o.wScale + n * o.wSRow + k / 32) 1 else 0x7F)

/-- Activation element (m, k) and its block scale. -/
def State.activation (s : State) (o : MtOps) (m k : Nat) : Fp × Nat :=
  (s.val o.aF (dgaKey o.a + m * o.aRow) k, if o.aBlocked then s.le (dgaKey o.aScale + m * o.aSRow + k / 32) 1 else 0x7F)

/-- A magnitude above 2^24, the bound of exact integer sums (R67). -/
def beyond24 (x : Fp) : Bool := (Fp.fin false (2 ^ 24) 0).lt x.abs

/-- The accumulator of one output element: block partials added in ascending order of K, each addition rounded; and whether an
integer sum passed 2^24 (R65, R67). A pair of a 16-bit activation with a narrower weight is summed as a 16-bit pair, with the cut at 48
places: R65 and R66 name only pairs of 8 bits or narrower and pairs of two 16-bit formats (DESIGN CHOICE, log entry 156). -/
def State.accumulate (s : State) (o : MtOps) (w m n : Nat) (acc0 : Nat) : Nat × Bool :=
  let wide := o.aF.width == 16 || o.wElem.width == 16
  (List.range ((o.k + 31) / 32)).foldl (fun (a : Nat × Bool) b =>
    let ks := (List.range (min 32 (o.k - 32 * b))).map (fun i => 32 * b + i)
    let ps := ks.map (fun k => ((s.weight o w k n).1, (s.activation o m k).1))
    let part := blockPartial wide ps (s.weight o w (32 * b) n).2 (s.activation o m (32 * b)).2
    let sum := (dec32 a.1).add (dec32 part)
    (rne32 sum, a.2 || (o.aF.isInt && (beyond24 sum || beyond24 (exactSum (ps.map (fun x => x.1.mul x.2))))))) (acc0, false)

/-- The epilogue (R117). -/
def State.epilogue (s : State) (o : MtOps) (m n acc : Nat) : Nat :=
  let v1 := if 1 ≤ o.epi then mul32 acc (s.le (dgaKey o.epiScale + 4 * n) 4) else acc
  let v2 := if o.epi = 2 then add32 v1 (rne32 (Fmt.bf16.decode (s.le (dgaKey o.epiVec2 + 2 * n) 2))) else v1
  if o.epi = 3 then mul32 v2 (s.le (dgaKey o.epiVec2 + 4 * m) 4) else v2

/-- Computes and writes the lane's columns of one row; the flag says INT_RANGE. -/
def State.mtRow (s : State) (u : UnitId) (l : Lane) (o : MtOps) (m w : Nat) : State × Bool :=
  let c := o.cols l
  let ns := (List.range (c.2 - c.1)).map (fun i => c.1 + i)
  let accs := ns.map (fun n =>
    s.accumulate o w m n (if o.accIn then s.elem (dgaKey o.out + m * o.oRow) 32 n else 0))
  let xs := (ns.zip accs).map (fun x => dec32 (s.epilogue o m x.1 x.2.1))
  let d := s.draws (l.sr && decide (o.oF.width ≤ 8)) xs.length
  let r := if o.oBlocked then convBlocks o.oF l.sat l.ceil xs d.1 else ([], convRow o.oF l.sat xs d.1)
  let s1 := d.2.writeCodes clsMt (dgaKey (o.out + m * o.oRow) + c.1 * o.oF.width / 8) o.oF.width (r.2.map (fun x => x.code)) packCodes
  let s2 := if o.oBlocked then s1.writeMem clsMt (dgaKey (o.oScale + m * o.oSRow) + c.1 / 32) (r.1.map (fun x => BitVec.ofNat 8 x)) false
    else s1
  ((s2.count u 8 (satCount r.2)).count u 9 (nanCount o.oF r.1 r.2), accs.any (fun x => x.2))

/-- What the lane's passes read of weights and of activations, counted as bytes received (R131): each row pass streams the weights of its
columns again (R119). -/
def MtOps.received (o : MtOps) (ps : List MtPass) : Nat × Nat :=
  (rangeBytes (ps.flatMap o.wReads), rangeBytes (ps.flatMap o.aReads))

/-- The job of an MT lane. Counter 10 counts a lane once, however many of its sums pass 2^24: the spec does not say what one INT_RANGE
occurrence is (DESIGN CHOICE, log entry 157). -/
def State.mtJob (s : State) (l : Lane) : Job :=
  let o := s.mtOps l
  let u : UnitId := ⟨.mt, l.phys⟩
  let outs := s.mtOuts l o
  let c := o.cols l
  let ps := if c.1 = c.2 then [] else s.mtPasses l o
  let joins := bit o.fmt 31 && s.flag u Reg.mt.optMcastEn && decide (0 < l.spanM1)
  let data := ps.flatMap (fun p => o.wReads p ++ o.aReads p)
  if !o.formatOk l.opcode then .bad 4 outs
  else
    { reject := firstFail [need (o.fieldsOk l.opcode), s.addr64? l.part o.aux 64, need (o.auxOk l.opcode), s.mtAddrs l o],
      ins := o.records l.opcode ++ ps.flatMap o.epiReads ++ (if joins then [] else data), outs := outs,
      shared := if joins then data else [],
      inPlace := if o.accIn then (if c.1 = c.2 then [] else (s.mtRows l o).flatMap (fun r => o.rowOuts c r.1)) else [],
      run := fun s =>
        if ps.isEmpty then (s, 0)
        else
          let n := o.received ps
          let s1 := (s.count u 5 n.1).count u 6 n.2
          let r := (s.mtRows l o).foldl (fun a x => let y := a.1.mtRow u l o x.1 x.2; (y.1, a.2 || y.2)) (s1, false)
          if r.2 then
            ((r.1.count u 10 1).irq u (2 ^ 18), if s.flag u Reg.mt.optIntRangeEn then 0x80 else 0)
          else (r.1, 0) }

/-- Runs a tile's head lane, and counts corrected accumulator errors (R131, R603). -/
def State.runMt (s : State) (u : UnitId) (covers : Nat → Bool) (ev : LaneEv) : State :=
  (s.runJob u covers ev State.mtJob).correct u 11 ev.corrected

/-- MT_MM (R109): an MM lane; an opcode that the class does not have ends FORMAT_ERROR here. -/
def execMtMm (u : UnitId) (ev : LaneEv) (s : State) : Host.Outcome State Fault Refusal :=
  atUnit .mt u s (s.runMt u (fun op => op != 2 && op != 3) ev)

/-- MT_MM_CB (R109). -/
def execMtMmCb (u : UnitId) (ev : LaneEv) (s : State) : Host.Outcome State Fault Refusal := atUnit .mt u s (s.runMt u (fun op => op == 2) ev)

/-- MT_MM_GROUPED (R118). -/
def execMtMmGrouped (u : UnitId) (ev : LaneEv) (s : State) : Host.Outcome State Fault Refusal := atUnit .mt u s (s.runMt u (fun op => op == 3) ev)

end Sys2Proof.Machine
end

