-- ==== Sys2Proof/Machine/Elementwise.lean ====
section
/-!
DEFINITION. Elementwise engines (chapter 7): NORM, ACT, GATED, ADD and ROPE lanes (R167 to R173).
-/
namespace Sys2Proof.Machine

/-- The operands of an EW lane (R168, R169). -/
structure EwOps where
  a : Nat
  b : Nat
  out : Nat
  aux : Nat
  m : Nat
  n : Nat
  fmt : Nat
  param : Nat
  gamma : Nat
  beta : Nat
  res : Nat
  oScale : Nat
  rotTable : Nat
  rotPos : Nat
  aStride : Nat
  bStride : Nat
  oStride : Nat
  oSs : Nat
  tail : Nat
  deriving DecidableEq, Repr

/-- Reads them; every auxiliary field is zero when AUX_ADDR is 0 (R163) or fails its check (log entry 39). -/
def State.ewOps (s : State) (l : Lane) : EwOps :=
  let aux := l.op 40 8
  let ok := decide (aux ≠ 0) && (s.addr64 l.part aux 64).isNone
  let x (o n : Nat) : Nat := s.recField ok aux o n
  { a := l.op 16 8, b := l.op 24 8, out := l.op 32 8, aux := aux, m := l.op 48 4, n := l.op 52 4, fmt := l.op 56 4,
    param := l.op 60 4, gamma := x 0 8, beta := x 8 8, res := x 0x10 8, oScale := x 0x18 8, rotTable := x 0x20 8,
    rotPos := x 0x28 8, aStride := x 0x30 4, bStride := x 0x34 4, oStride := x 0x38 4, oSs := x 0x3C 2, tail := x 0x3E 2 }

/-- The float formats of codes 0 to 4 (R111). -/
def floatFmt : Nat → Option Fmt
  | 0 => some .fp32 | 1 => some .bf16 | 2 => some .fp16 | 3 => some .e4m3 | 4 => some .e5m2 | _ => none

def EwOps.aF (o : EwOps) : Fmt := (floatFmt (bits o.fmt 0 4)).getD .fp32
def EwOps.bF (o : EwOps) : Fmt := (floatFmt (bits o.fmt 4 4)).getD .fp32
def EwOps.oF (o : EwOps) : Fmt := (floatFmt (bits o.fmt 8 4)).getD .fp32
def EwOps.sub (o : EwOps) : Nat := bits o.fmt 12 4
def EwOps.d (o : EwOps) : Nat := (match bits o.fmt 16 3 with | 0 => 64 | 1 => 96 | 2 => 128 | 3 => 192 | _ => 256)
def EwOps.dRot (o : EwOps) : Nat := if bits o.fmt 19 6 = 0 then o.d else bits o.fmt 19 6 * 8
def EwOps.aRow (o : EwOps) : Nat := if o.aStride = 0 then up64 (o.n * o.aF.width / 8) else o.aStride
def EwOps.bRow (o : EwOps) : Nat := if o.bStride = 0 then up64 (o.n * o.bF.width / 8) else o.bStride
def EwOps.resRow (o : EwOps) : Nat := if o.bStride = 0 then up64 (o.n * o.aF.width / 8) else o.bStride
def EwOps.oRow (o : EwOps) : Nat := if o.oStride = 0 then up64 (o.n * o.oF.width / 8) else o.oStride
def EwOps.sRow (o : EwOps) : Nat := if o.oSs = 0 then up64 ((o.n + 31) / 32) else o.oSs * 64
def EwOps.blocked (o : EwOps) : Bool := o.oF.width == 8 && o.oScale != 0

/-- Formats (R170): FORMAT_ERROR otherwise. -/
def EwOps.formatOk (o : EwOps) (op : Nat) : Bool :=
  decide (bits o.fmt 0 4 ≤ 4) && decide (bits o.fmt 4 4 ≤ 4) && decide (bits o.fmt 8 4 ≤ 4) &&
    (op != 5 || (decide (bits o.fmt 0 4 ≤ 2) && decide (bits o.fmt 8 4 ≤ 2)))

/-- Ranges of the descriptor's fields (R168, R170): BAD_OPERAND otherwise. -/
def EwOps.fieldsOk (o : EwOps) (op : Nat) : Bool :=
  decide (o.m ≤ 65536) && decide (1 ≤ o.n ∧ o.n ≤ 65536) && bits o.fmt 25 7 == 0 &&
    (match op with
     | 1 => decide (o.sub ≤ 1) && o.aux != 0
     | 2 => decide (o.sub ≤ 5) && o.b == 0 && o.param == 0
     | 3 => decide (o.sub ≤ 5) && o.param == 0
     | 4 => o.sub == 0
     | _ => decide (o.sub ≤ 1) && decide (bits o.fmt 16 3 ≤ 4) && decide (bits o.fmt 19 6 ≤ 32) && decide (o.dRot ≤ o.d) &&
        o.n % o.d == 0)

/-- Ranges of the auxiliary record's fields (R169, R170): BAD_OPERAND otherwise. -/
def EwOps.auxOk (o : EwOps) (op : Nat) : Bool :=
  o.tail == 0 && o.aStride % 64 == 0 && o.bStride % 64 == 0 && o.oStride % 64 == 0 && (op != 1 || o.gamma != 0)

/-- The command works in place: OUT_ADDR and O_STRIDE equal A_ADDR and A_STRIDE, in formats of one size (R164). -/
def EwOps.inPlace (o : EwOps) : Bool := o.out == o.a && o.oRow == o.aRow && o.oF.width == o.aF.width

/-- The rows of the lane (R167). -/
def Lane.rowsOf (l : Lane) (m : Nat) : List Nat :=
  let r := l.share m
  (List.range (r.2 - r.1)).map (fun i => r.1 + i)

/-- Element i of a row, as an FP32 pattern. -/
def State.rowElem (s : State) (f : Fmt) (a i : Nat) : Nat := rne32 (s.val f (dgaKey a) i)

/-- The function SUB selects (R168). -/
def subFn (sub x : Nat) : Nat :=
  match sub with
  | 0 => silu32 x
  | 1 => geluErf32 x
  | 2 => geluTanh32 x
  | 3 => relu32 x
  | 4 => exp32 x
  | _ => quiet32 x

/-- FP32 pattern of a natural number. -/
def nat32 (n : Nat) : Nat := rne32 (.fin false n 0)

/-- Row x of NORM (R172): a, or a + b rounded to A_FMT. -/
def State.normX (s : State) (l : Lane) (o : EwOps) (r : Nat) : List Conv :=
  (List.range o.n).map (fun i =>
    let a := s.rowElem o.aF (o.a + r * o.aRow) i
    let v := if o.b = 0 then a else add32 a (s.rowElem o.bF (o.b + r * o.bRow) i)
    if o.b = 0 then ⟨s.elem (dgaKey (o.a + r * o.aRow)) o.aF.width i, false, false⟩ else o.aF.convert l.sat none (dec32 v))

/-- The normalised row, and whether its sum was not finite (R172). -/
def State.norm (s : State) (o : EwOps) (xs : List Nat) : List Nat × Bool :=
  let n := nat32 o.n
  let g (i : Nat) : Nat := s.rowElem .bf16 o.gamma i
  if o.sub = 0 then
    let sum := sum32 (xs.map (fun x => mul32 x x))
    let k := rsqrt32 (add32 (div32 sum n) o.param)
    ((xs.zip (List.range xs.length)).map (fun x => mul32 (mul32 x.1 k) (g x.2)), !(dec32 sum).isFin)
  else
    let sum := sum32 xs
    let mu := div32 sum n
    let sq := sum32 (xs.map (fun x => let d := sub32 x mu; mul32 d d))
    let k := rsqrt32 (add32 (div32 sq n) o.param)
    ((xs.zip (List.range xs.length)).map (fun x =>
      let y := mul32 (mul32 (sub32 x.1 mu) k) (g x.2)
      if o.beta = 0 then y else add32 y (s.rowElem .bf16 o.beta x.2)), !(dec32 sum).isFin || !(dec32 sq).isFin)

/-- The position of a row (R173): from ROT_POS, or from the step-table entry that holds the row; open for a row no entry holds. -/
def State.rotPosition (s : State) (o : EwOps) (r : Nat) : Nat :=
  if o.rotPos ≠ 0 then s.le (dgaKey o.rotPos + 4 * r) 4
  else
    let st := dgaKey o.b
    match (s.stEntries st 0 (s.stSeqs st)).find? (fun e => decide (e.rowBase ≤ r ∧ r < e.rowBase + e.nrows)) with
    | some e => e.pos + (r - e.rowBase)
    | none => (Config.freeValue (s.freeIdx + r)).toNat % 2 ^ 23

/-- Inverse frequency of pair i: the table's, or θ^(−2i / D_rot) within 1 ulp (R173). -/
def State.invFreq (s : State) (o : EwOps) (i : Nat) : Nat :=
  if o.rotTable ≠ 0 then s.le (dgaKey o.rotTable + 4 * i) 4 else power32 o.param i o.dRot

/-- A row under rotary embedding (R173). -/
def State.rope (s : State) (o : EwOps) (r : Nat) : List Nat :=
  let pos := s.rotPosition o r
  let x (i : Nat) : Nat := s.rowElem o.aF (o.a + r * o.aRow) i
  (List.range o.n).map (fun i =>
    let h := i / o.d * o.d
    let k := i % o.d
    if o.dRot ≤ k then x i
    else
      let half := o.dRot / 2
      let pr := if o.sub = 0 then k / 2 else k % half
      let first := if o.sub = 0 then k % 2 == 0 else decide (k < half)
      let i1 := if o.sub = 0 then h + 2 * pr else h + pr
      let i2 := if o.sub = 0 then h + 2 * pr + 1 else h + pr + half
      let f := s.invFreq o pr
      let c := trig 1 pos f
      let sn := trig 0 pos f
      if first then sub32 (mul32 (x i1) c) (mul32 (x i2) sn) else add32 (mul32 (x i1) sn) (mul32 (x i2) c))

/-- One row's values and whether it reports NORM_NONFINITE. -/
def State.ewRow (s : State) (l : Lane) (o : EwOps) (r : Nat) : List Nat × Bool :=
  let a (i : Nat) : Nat := s.rowElem o.aF (o.a + r * o.aRow) i
  let b (i : Nat) : Nat := s.rowElem o.bF (o.b + r * o.bRow) i
  match l.opcode with
  | 1 => s.norm o ((s.normX l o r).map (fun x => rne32 (o.aF.decode x.code)))
  | 2 => ((List.range o.n).map (fun i => subFn o.sub (a i)), false)
  | 3 => ((List.range o.n).map (fun i => mul32 (subFn o.sub (a i)) (b i)), false)
  | 4 => ((List.range o.n).map (fun i => add32 (mul32 (if o.param = 0 then 0x3F80_0000 else o.param) (a i)) (b i)), false)
  | _ => (s.rope o r, false)

/-- Writes a row of FP32 values in a format, with block scales where given (R70 to R72); the scales stored and the conversions made. -/
def State.writeRow (s : State) (f : Fmt) (blocked sat ceil : Bool) (a sa : Nat) (v : List Nat) (ds : List (Option Nat)) :
    State × List Nat × List Conv :=
  let xs := v.map dec32
  let r := if blocked then convBlocks f sat ceil xs ds else ([], convRow f sat xs ds)
  let s1 := s.writeCodes clsEng (dgaKey a) f.width (r.2.map (fun x => x.code)) packCodes
  (if blocked then s1.writeMem clsEng (dgaKey sa) (r.1.map (fun x => BitVec.ofNat 8 x)) false else s1, r)

/-- One row of an EW lane: the residual, the output, the counters (R172, R195). -/
def State.ewStep (s : State) (u : UnitId) (l : Lane) (o : EwOps) (r : Nat) : State × Bool :=
  let y := s.ewRow l o r
  let xs := if l.opcode = 1 ∧ o.res ≠ 0 then s.normX l o r else []
  let s1 := if xs.isEmpty then s
    else s.writeCodes clsEng (dgaKey (o.res + r * o.resRow)) o.aF.width (xs.map (fun x => x.code)) packCodes
  let w := s1.writeRow o.oF o.blocked l.sat l.ceil (o.out + r * o.oRow) (o.oScale + r * o.sRow) y.1 (List.replicate o.n none)
  (((w.1.count u 1 o.n).count u 4 (satCount w.2.2 + satCount xs)).count u 5 (nanCount o.oF w.2.1 w.2.2 + nanCount o.aF [] xs), y.2)

/-- The row of operand a that is read for an output row. -/
def EwOps.rowA (o : EwOps) (r : Nat) : Nat × Nat := (o.a + r * o.aRow, o.n * o.aF.width / 8)

/-- Other ranges read for a row. -/
def EwOps.rowIns (o : EwOps) (op r : Nat) : List (Nat × Nat) :=
  if op = 3 ∨ op = 4 ∨ (op = 1 ∧ o.b ≠ 0) then [(o.b + r * o.bRow, o.n * o.bF.width / 8)]
  else if op = 5 ∧ o.rotPos ≠ 0 then [(o.rotPos + 4 * r, 4)] else []

/-- Ranges written for a row. -/
def EwOps.rowOuts (o : EwOps) (op r : Nat) : List (Nat × Nat) :=
  (o.out + r * o.oRow, o.n * o.oF.width / 8) ::
    ((if o.blocked then [(o.oScale + r * o.sRow, (o.n + 31) / 32)] else []) ++
     (if op = 1 ∧ o.res ≠ 0 then [(o.res + r * o.resRow, o.n * o.aF.width / 8)] else []))

/-- The job of an EW lane. -/
def State.ewJob (s : State) (l : Lane) : Job :=
  let u : UnitId := ⟨.ew, l.phys⟩
  let o := s.ewOps l
  let rows := l.rowsOf o.m
  let outs := rows.flatMap (o.rowOuts l.opcode)
  let p := l.part
  let rope := l.opcode == 5
  let table := rope && o.rotPos == 0
  if !decide (1 ≤ l.opcode ∧ l.opcode ≤ 5) then .bad 4 []
  else if !o.formatOk l.opcode then .bad 4 outs
  else
    { reject := firstFail
        [need (o.fieldsOk l.opcode), s.addr64? p o.aux 64, need (o.auxOk l.opcode),
         s.addr64 p o.a (extent o.m o.aRow (o.n * o.aF.width / 8)),
         if rope then firstFail [s.addr64 p o.b 64, if table then s.addr64 p o.b (64 + 32 * s.stSeqs (dgaKey o.b)) else none]
         else if l.opcode = 1 ∧ o.b = 0 ∨ l.opcode = 2 then none else s.addr64 p o.b (extent o.m o.bRow (o.n * o.bF.width / 8)),
         s.addr64 p o.out (extent o.m o.oRow (o.n * o.oF.width / 8)), s.addr64? p o.gamma (2 * o.n), s.addr64? p o.beta (2 * o.n),
         s.addr64? p o.res (extent o.m o.resRow (o.n * o.aF.width / 8)), s.addr64? p o.oScale (extent o.m o.sRow ((o.n + 31) / 32)),
         s.addr64? p o.rotTable (2 * o.dRot), s.addr64? p o.rotPos (4 * o.m)]
      ins := (if o.aux = 0 then [] else [(o.aux, 64)]) ++
        (if rows.isEmpty then [] else
          (if l.opcode = 1 then (o.gamma, 2 * o.n) :: (if o.sub = 1 ∧ o.beta ≠ 0 then [(o.beta, 2 * o.n)] else []) else []) ++
          (if rope then (if o.rotTable = 0 then [] else [(o.rotTable, 2 * o.dRot)]) ++
            (if table then [(o.b, 64 + 32 * s.stSeqs (dgaKey o.b))] else []) else [])) ++
        rows.flatMap (o.rowIns l.opcode) ++ (if o.inPlace then [] else rows.map o.rowA)
      outs := outs
      inPlace := if o.inPlace then rows.map o.rowA else []
      run := fun t =>
        let r := rows.foldl (fun a r => let y := a.1.ewStep u l o r; (y.1, a.2 || y.2)) (t, false)
        (({ r.1 with freeIdx := r.1.freeIdx + (if rope then 65536 else 0) } : State), if r.2 then 0x80 else 0) }

/-- Runs an elementwise engine's head lane, and counts corrected buffer errors (R195, R196). -/
def State.runEw (s : State) (u : UnitId) (covers : Nat → Bool) (ev : LaneEv) : State :=
  (s.runJob u covers ev State.ewJob).correct u 6 ev.corrected

/-- NORM (R172); an opcode that the class does not have ends FORMAT_ERROR here (R167). -/
def execNorm (u : UnitId) (ev : LaneEv) (s : State) : Host.Outcome State Fault Refusal :=
  atUnit .ew u s (s.runEw u (fun op => !(decide (2 ≤ op ∧ op ≤ 5))) ev)

/-- ACT (R167). -/
def execAct (u : UnitId) (ev : LaneEv) (s : State) : Host.Outcome State Fault Refusal := atUnit .ew u s (s.runEw u (fun op => op == 2) ev)

/-- GATED (R167). -/
def execGated (u : UnitId) (ev : LaneEv) (s : State) : Host.Outcome State Fault Refusal := atUnit .ew u s (s.runEw u (fun op => op == 3) ev)

/-- ADD (R167). -/
def execAdd (u : UnitId) (ev : LaneEv) (s : State) : Host.Outcome State Fault Refusal := atUnit .ew u s (s.runEw u (fun op => op == 4) ev)

/-- ROPE (R173). -/
def execRope (u : UnitId) (ev : LaneEv) (s : State) : Host.Outcome State Fault Refusal := atUnit .ew u s (s.runEw u (fun op => op == 5) ev)

end Sys2Proof.Machine
end

