-- ==== Sys2Proof/Machine/Router.lean ====
section
/-!
DEFINITION. Expert routers (chapter 7): GATE and DISPATCH lanes (R184 to R190).
-/
namespace Sys2Proof.Machine

/-- The operands of an XR lane (R185, R186). -/
structure XrOps where
  inp : Nat
  out : Nat
  map : Nat
  aux : Nat
  m : Nat
  e : Nat
  cfg : Nat
  param : Nat
  bias : Nat
  counts : Nat
  combIdx : Nat
  combW : Nat
  countList : Nat
  summary : Nat
  lStride : Nat
  nlocal : Nat
  tail : Nat
  deriving DecidableEq, Repr

/-- Reads them; every auxiliary field is zero when AUX_ADDR is 0 (R163) or fails its check (log entry 39). -/
def State.xrOps (s : State) (l : Lane) : XrOps :=
  let aux := l.op 40 8
  let ok := decide (aux ≠ 0) && (s.addr64 l.part aux 64).isNone
  let x (o n : Nat) : Nat := s.recField ok aux o n
  { inp := l.op 16 8, out := l.op 24 8, map := l.op 32 8, aux := aux, m := l.op 48 4, e := l.op 52 4, cfg := l.op 56 4,
    param := l.op 60 4, bias := x 0 8, counts := x 8 8, combIdx := x 0x10 8, combW := x 0x18 8, countList := x 0x20 8,
    summary := x 0x28 8, lStride := x 0x30 4, nlocal := x 0x34 2, tail := x 0x36 10 }

def XrOps.k (o : XrOps) : Nat := bits o.cfg 0 4
def XrOps.fn (o : XrOps) : Nat := bits o.cfg 4 2
def XrOps.renorm (o : XrOps) : Bool := bit o.cfg 6
def XrOps.lF (o : XrOps) : Fmt := if bit o.cfg 7 then .bf16 else .fp32
def XrOps.dropRenorm (o : XrOps) : Bool := bit o.cfg 8
def XrOps.gsize (o : XrOps) : Nat := bits o.cfg 9 4 + 1
def XrOps.lRow (o : XrOps) : Nat := if o.lStride = 0 then up64 (o.e * o.lF.width / 8) else o.lStride

/-- Ranges of the descriptor's fields (R184, R185): BAD_OPERAND otherwise. -/
def XrOps.fieldsOk (o : XrOps) (l : Lane) : Bool :=
  decide (o.m ≤ 65536) && decide (1 ≤ o.e ∧ o.e ≤ 512) && decide (1 ≤ o.k ∧ o.k ≤ 8 ∧ o.k ≤ o.e) && o.fn != 3 && bits o.cfg 13 19 == 0 &&
    (l.opcode == 1 || l.spanM1 == 0)

/-- Ranges of the auxiliary record's fields (R186): BAD_OPERAND otherwise. -/
def XrOps.auxOk (o : XrOps) (l : Lane) : Bool :=
  o.lStride % 64 == 0 && o.tail == 0 &&
    (l.opcode == 1 || (decide (1 ≤ o.nlocal ∧ o.nlocal ≤ 512) && (o.gsize == 1 || o.countList == 0)))

/-- Entry e of the expert map: member and local index (R187). -/
def State.xrMap (s : State) (o : XrOps) (e : Nat) : Nat × Nat :=
  (s.le (dgaKey o.map + 4 * e) 1, s.le (dgaKey o.map + 4 * e + 2) 2)

/-- An expert may be selected by GATE, which takes a map at 0 as none. -/
def State.xrEnabled (s : State) (o : XrOps) (e : Nat) : Bool := o.map == 0 || (s.xrMap o e).1 != 0xFF

/-! ## GATE (R188) -/

/-- Softmax of a list of logits, relative to the largest; the sum's order is open. -/
def State.softmax (s : State) (salt : Nat) (xs : List Nat) : List Nat :=
  let m := xs.foldl (fun a b => if (dec32 a).lt (dec32 b) then b else a) negInf32
  let es := xs.map (fun x => exp32 (sub32 x m))
  let t := s.anySum salt es
  es.map (fun e => div32 e t)

/-- σ(x). -/
def sigmoid32 (x : Nat) : Nat := div32 0x3F80_0000 (add32 0x3F80_0000 (exp32 (rne32 (dec32 x).negate)))

/-- A ranked expert: expert, rank value, weight or selected logit. -/
structure Ranked where
  e : Nat
  rank : Nat
  w : Nat
  deriving DecidableEq, Repr

/-- Order of selection: the higher rank first, NaN lowest, ties to the lower index. -/
def rankBefore (a b : Ranked) : Bool :=
  if isNan32 a.rank then isNan32 b.rank && decide (a.e < b.e)
  else if isNan32 b.rank then true
  else (dec32 b.rank).lt (dec32 a.rank) || (!(dec32 a.rank).lt (dec32 b.rank) && decide (a.e < b.e))

/-- The selection of a row: experts with their weights, and whether it held a NaN logit. A NaN logit ranks lowest and makes the row's
weights NaN; the other experts' scores, which then only rank, are formed without it. -/
def State.gateRow (s : State) (o : XrOps) (r : Nat) : List (Nat × Nat) × Bool :=
  let es := (List.range o.e).filter (s.xrEnabled o)
  let lg (e : Nat) : Nat := s.rowElem o.lF (o.inp + r * o.lRow) e
  let good := es.filter (fun e => !isNan32 (lg e))
  let nan := es.length != good.length
  let ps := match o.fn with
    | 0 => s.softmax r (good.map lg)
    | 1 => good.map (fun e => sigmoid32 (lg e))
    | _ => good.map lg
  let bias (e : Nat) : Nat := if o.bias = 0 then 0 else s.le (dgaKey o.bias + 4 * e) 4
  let ranked := (good.zip ps).map (fun x => (⟨x.1, add32 x.2 (bias x.1), x.2⟩ : Ranked)) ++
    (es.filter (fun e => isNan32 (lg e))).map (fun e => (⟨e, nan32, nan32⟩ : Ranked))
  let sel := (sortBy rankBefore ranked).take o.k
  let w0 := if o.fn = 2 then s.softmax (r + 65536) (sel.map (fun x => x.w)) else sel.map (fun x => x.w)
  let t := s.anySum (r + 131072) w0
  let w1 := if o.renorm then w0.map (fun w => div32 w t) else w0
  let scale := if o.param = 0 then 0x3F80_0000 else o.param
  let ws := if nan then w1.map (fun _ => nan32) else w1.map (fun w => mul32 w scale)
  (sortBy (fun a b => !(dec32 a.2).lt (dec32 b.2)) ((sel.map (fun x => x.e)).zip ws), nan)

/-- The record of a row (R188). -/
def gateRecord (sel : List (Nat × Nat)) : List Byte :=
  (List.range 8).flatMap (fun i =>
    match sel[i]? with
    | some x => leBytes 4 x.1 ++ leBytes 4 x.2
    | none => leBytes 4 0xFFFF ++ leBytes 4 0)

/-- A GATE lane: its rows. -/
def State.gate (s : State) (u : UnitId) (l : Lane) (o : XrOps) : State × Nat :=
  let rows := l.rowsOf o.m
  let r := rows.foldl (fun a r =>
    let g := s.gateRow o r
    (a.1.writeMem clsEng (dgaKey o.out + 64 * r) (gateRecord g.1) false, a.2 + (if g.2 then 1 else 0))) (s, 0)
  ((({ r.1 with freeIdx := r.1.freeIdx + 1 } : State).count u 1 rows.length).count u 4 r.2, if r.2 = 0 then 0 else 0x81)

/-! ## DISPATCH (R189, R190) -/

/-- An assignment of a row to an expert. -/
structure Asg where
  row : Nat
  rank : Nat
  e : Nat
  w : Nat
  member : Nat
  loc : Nat
  deriving DecidableEq, Repr

/-- The assignments of the selection area in rank-major order. -/
def State.assignments (s : State) (o : XrOps) : List Asg :=
  (List.range 8).flatMap (fun k => (List.range o.m).filterMap (fun r =>
    let a := dgaKey o.inp + 64 * r + 8 * k
    let e := s.le a 2
    if o.e ≤ e ∨ (s.xrMap o e).1 = 0xFF then none
    else some ⟨r, k, e, s.le (a + 4) 4, (s.xrMap o e).1, (s.xrMap o e).2⟩))

/-- The capacity of an expert: none when it is lifted (R189). A NaN factor leaves it open. -/
def State.capacity (s : State) (u : UnitId) (o : XrOps) : Option Nat :=
  if !s.flag u Reg.xr.optCapEn || isZero32 o.param then none
  else
    match dec32 o.param with
    | .nan _ => some (Config.freeValue s.freeIdx).toNat
    | .inf neg => if neg then some 0 else none
    | .fin neg m e =>
      if neg then some 0
      else
        let t := m * o.m * o.k
        if 0 ≤ e then some ((t * 2 ^ e.toNat + o.e - 1) / o.e)
        else let q := o.e * 2 ^ (-e).toNat; some ((t + q - 1) / q)

/-- Admits assignments in order, at most c to an expert. -/
def admitAsg (c : Option Nat) : List Asg → List Nat → List Asg
  | [], _ => []
  | a :: r, used =>
    match c with
    | some n => if used.count a.e < n then a :: admitAsg c r (a.e :: used) else admitAsg c r used
    | none => a :: admitAsg c r used

/-- Order of the send list: member, local expert, row, rank. -/
def asgBefore (a b : Asg) : Bool :=
  let x (a : Asg) : Nat := ((a.member * 65536 + a.loc) * 65536 + a.row) * 8 + a.rank
  decide (x a ≤ x b)

/-- The final weight of an admitted assignment (R189). -/
def State.finalWeight (s : State) (o : XrOps) (all adm : List Asg) (a : Asg) : Nat :=
  let mine := all.filter (fun x => x.row == a.row)
  let left := adm.filter (fun x => x.row == a.row)
  if o.dropRenorm && decide (left.length < mine.length) then
    mul32 a.w (div32 (s.anySum (2 * a.row) (mine.map (fun x => x.w))) (s.anySum (2 * a.row + 1) (left.map (fun x => x.w))))
  else a.w

/-- The expert map breaks R187. -/
def State.mapInvalid (s : State) (o : XrOps) : Bool :=
  (List.range o.e).any (fun e => let x := s.xrMap o e; x.1 != 0xFF && (decide (o.gsize ≤ x.1) || decide (o.nlocal ≤ x.2)))

/-- The admitted assignments in send order. -/
def State.sendList (s : State) (u : UnitId) (o : XrOps) : List Asg :=
  sortBy asgBefore (admitAsg (s.capacity u o) (s.assignments o) [])

/-- A DISPATCH lane. -/
def State.dispatch (s : State) (u : UnitId) (o : XrOps) : State × Nat :=
  if s.mapInvalid o then (s, 0xC1)
  else
    let all := s.assignments o
    let adm := s.sendList u o
    let cnt (mem loc : Nat) : Nat := (adm.filter (fun a => a.member == mem && a.loc == loc)).length
    let nanRows := ((List.range o.m).filter (fun r => all.any (fun a => a.row == r && isNan32 a.w))).length
    let s1 := s.writeMem clsEng (dgaKey o.out) (adm.flatMap (fun a => leBytes 4 a.row ++ leBytes 2 a.loc ++ leBytes 1 a.member ++ leBytes 1 a.rank)) false
    let s2 := s1.writeMem clsEng (dgaKey o.combIdx) (adm.flatMap (fun a => leBytes 4 a.row)) false
    let s3 := s2.writeMem clsEng (dgaKey o.combW) (adm.flatMap (fun a => leBytes 4 (s.finalWeight o all adm a))) false
    let s4 := s3.writeMem clsEng (dgaKey o.counts)
      ((List.range o.gsize).flatMap (fun mem => (List.range o.nlocal).flatMap (fun k => leBytes 4 (cnt mem k)))) false
    let s5 := if o.gsize = 1 ∧ o.countList ≠ 0 then
        s4.writeMem clsEng (dgaKey o.countList) ((List.range o.nlocal).flatMap (fun k =>
          leBytes 4 (adm.filter (fun a => decide (a.loc < k))).length ++ leBytes 4 (cnt 0 k))) false
      else s4
    let dropped := all.length - adm.length
    let s6 := s5.writeMem clsEng (dgaKey o.summary) (leBytes 4 adm.length ++ leBytes 4 dropped ++ leBytes 4 nanRows ++ List.replicate 52 0 ++
      (List.range 16).flatMap (fun mem => leBytes 4 (adm.filter (fun a => a.member == mem)).length)) false
    let s7 := (({ s6 with freeIdx := s6.freeIdx + 1 } : State).count u 2 adm.length).count u 3 dropped
    if dropped = 0 then (s7, 0) else (s7.irq u (2 ^ 17), 0x80)

/-! ## The job -/

/-- Ranges written. -/
def State.xrOuts (s : State) (l : Lane) (o : XrOps) : List (Nat × Nat) :=
  if l.opcode = 1 then (l.rowsOf o.m).map (fun r => (o.out + 64 * r, 64))
  else
    let n := (s.sendList ⟨.xr, l.phys⟩ o).length
    [(o.out, 8 * n), (o.combIdx, 4 * n), (o.combW, 4 * n), (o.counts, 4 * o.gsize * o.nlocal), (o.summary, 128)] ++
      (if o.gsize = 1 ∧ o.countList ≠ 0 then [(o.countList, 8 * o.nlocal)] else [])

/-- The job of an XR lane. A DISPATCH lane has no internal break point: one that runs under FORCE runs to its end and then ends
ABORTED_DISABLED (R165). -/
def State.xrJob (s : State) (l : Lane) : Job :=
  let u : UnitId := ⟨.xr, l.phys⟩
  let o := s.xrOps l
  let p := l.part
  let rows := l.rowsOf o.m
  let n := o.m * 8
  if l.opcode ≠ 1 ∧ l.opcode ≠ 2 then .bad 4 []
  else
    let reject := firstFail
        [need (o.fieldsOk l), s.addr64? p o.aux 64, need (o.auxOk l),
         if l.opcode = 1 then firstFail [s.addr64 p o.inp (extent o.m o.lRow (o.e * o.lF.width / 8)), s.addr64 p o.out (64 * o.m),
           s.addr64? p o.map (4 * o.e), s.addr64? p o.bias (4 * o.e), s.addr64? p o.counts 1, s.addr64? p o.combIdx 1,
           s.addr64? p o.combW 1, s.addr64? p o.countList 1, s.addr64? p o.summary 1]
         else firstFail [s.addr64 p o.inp (64 * o.m), s.addr64 p o.out (8 * n), s.addr64 p o.map (4 * o.e), s.addr64? p o.bias 1,
           s.addr64 p o.counts (4 * o.gsize * o.nlocal), s.addr64 p o.combIdx (4 * n), s.addr64 p o.combW (4 * n),
           s.addr64? p o.countList (8 * o.nlocal), s.addr64 p o.summary 128]]
    let known := l.opcode == 1 || ((s.addr64 p o.inp (64 * o.m)).isNone && (s.addr64 p o.map (4 * o.e)).isNone)
    match reject with
    | some e => .bad e (if known then s.xrOuts l o else [])
    | none =>
      { reject := none
        ins := (if o.aux = 0 then [] else [(o.aux, 64)]) ++
          (if l.opcode = 1 then
            (if rows.isEmpty then [] else (if o.map = 0 then [] else [(o.map, 4 * o.e)]) ++ (if o.bias = 0 then [] else [(o.bias, 4 * o.e)])) ++
            rows.map (fun r => (o.inp + r * o.lRow, o.e * o.lF.width / 8))
           else [(o.map, 4 * o.e), (o.inp, 64 * o.m)])
        outs := s.xrOuts l o
        run := fun t => if l.opcode = 1 then t.gate u l o else t.dispatch u o
        last := if l.opcode = 2 ∧ s.forced u then some 7 else none }

/-- Runs a router's head lane, and counts corrected buffer errors (R195, R196). -/
def State.runXr (s : State) (u : UnitId) (covers : Nat → Bool) (ev : LaneEv) : State :=
  (s.runJob u covers ev State.xrJob).correct u 5 ev.corrected

/-- GATE (R188); an opcode that the class does not have ends FORMAT_ERROR here (R184). -/
def execGate (u : UnitId) (ev : LaneEv) (s : State) : Host.Outcome State Fault Refusal := atUnit .xr u s (s.runXr u (fun op => op != 2) ev)

/-- DISPATCH (R189). -/
def execDispatch (u : UnitId) (ev : LaneEv) (s : State) : Host.Outcome State Fault Refusal := atUnit .xr u s (s.runXr u (fun op => op == 2) ev)

end Sys2Proof.Machine
end

