-- ==== Sys2Proof/Machine/Aes.lean ====
section
/-!
DEFINITION. AES-256 on one block as FIPS 197 defines it: the public standard that R207 cites for the random stream (log entry 8).
-/
namespace Sys2Proof

/-- The substitution table, entry x in byte x: four parts, the highest first. -/
def aesTable : Nat :=
  ((0x16bb54b00f2d99416842e6bf0d89a18cdf2855cee9871e9b948ed9691198f8e19e1dc186b95735610ef6034866b53e708a8bbd4b1f74dde8c6b4a61c2e2578ba * 2 ^ 512 +
    0x08ae7a65eaf4566ca94ed58d6d37c8e779e4959162acd3c25c2406490a3a32e0db0b5ede14b8ee4688902a22dc4f816073195d643d7ea7c41744975fec130ccd) * 2 ^ 512 +
    0xd2f3ff1021dab6bcf5389d928f40a351a89f3c507f02f94585334d43fbaaefd0cf584c4a39becb6a5bb1fc20ed00d153842fe329b3d63b52a05a6e1b1a2c8309) * 2 ^ 512 +
    0x75b227ebe28012079a059618c323c7041531d871f1e5a534ccf73f362693fdb7c072a49cafa2d4adf04759fa7dc982ca76abd7fe2b670130c56f6bf27b777c63

/-- SubBytes on one byte. -/
def aesSub (x : Nat) : Nat := bits aesTable (8 * x) 8

/-- Multiplication by x in GF(2^8). -/
def aesX (x : Nat) : Nat := if x < 128 then 2 * x else (2 * x - 256) ^^^ 0x1B

/-- The key schedule: words of four bytes, newest first, from `n` further rounds of one word each at index `i`. -/
def aesExpand : Nat → Nat → Nat → List (List Nat) → List (List Nat)
  | 0, _, _, ws => ws
  | n + 1, i, rc, ws =>
    let prev := ws.headD []
    let old := ws.getD 7 []
    let t :=
      if i % 8 = 0 then
        let r := (prev.drop 1 ++ prev.take 1).map aesSub
        ((r.headD 0) ^^^ rc) :: r.drop 1
      else if i % 8 = 4 then prev.map aesSub
      else prev
    aesExpand n (i + 1) (if i % 8 = 0 then aesX rc else rc) ((old.zip t).map (fun x => x.1 ^^^ x.2) :: ws)

/-- The 15 round keys of 16 bytes. -/
def aesKeys (key : List Nat) : List (List Nat) :=
  let k0 := (List.range 8).map (fun i => (key.drop (4 * i)).take 4)
  let ws := (aesExpand 52 8 1 k0.reverse).reverse
  (List.range 15).map (fun r => ((ws.drop (4 * r)).take 4).flatten)

/-- AddRoundKey. -/
def aesAdd (k st : List Nat) : List Nat := (k.zip st).map (fun x => x.1 ^^^ x.2)

/-- SubBytes and ShiftRows. -/
def aesShift (st : List Nat) : List Nat := (List.range 16).map (fun i => aesSub (st.getD ((i + 4 * (i % 4)) % 16) 0))

/-- MixColumns. -/
def aesMix (st : List Nat) : List Nat :=
  (List.range 16).map (fun i =>
    let b := i / 4 * 4
    let a (k : Nat) : Nat := st.getD (b + (i + k) % 4) 0
    aesX (a 0) ^^^ (aesX (a 1) ^^^ a 1) ^^^ a 2 ^^^ a 3)

/-- The cipher on one 16-byte block. -/
def aes256 (key block : List Nat) : List Nat :=
  let ks := aesKeys key
  let st := ((List.range 13).map (fun r => ks.getD (r + 1) [])).foldl (fun s k => aesAdd k (aesMix (aesShift s)))
    (aesAdd (ks.headD []) block)
  aesAdd (ks.getD 14 []) (aesShift st)

end Sys2Proof
end

