-- ==== Sys2Proof/Machine/Sampling.lean ====
section
/-!
DEFINITION. Sampling engines (chapter 8): the SAMPLE lane, its stages, the random stream, stops, and speculative verification
(R198 to R211).
-/
namespace Sys2Proof.Machine

/-! ## Contexts (R198) -/

/-- An FP32 pattern without sign, at most another. -/
def plainUpTo (top c : Nat) : Bool := decide (c ≤ top)

/-- A context's fields keep the ranges of R198. -/
def State.ctxOk (s : State) (a : Nat) : Bool :=
  let f (o n : Nat) : Nat := s.le (a + o) n
  decide (f 0 4 < 2) && (f 4 4 == 0 || decide (0x3B80_0000 ≤ f 4 4 ∧ f 4 4 ≤ 0x4280_0000)) && decide (f 8 2 ≤ 1024) &&
    decide (f 0xA 2 ≤ 4096) && plainUpTo 0x7F80_0000 (f 0xC 4) && plainUpTo 0x3F80_0000 (f 0x10 4) && plainUpTo 0x4180_0000 (f 0x14 4) &&
    decide (f 0x2C 1 ≤ 16) && decide (f 0x2D 1 ≤ 4) && decide (f 0x2E 2 ≤ 256) &&
    f 0x30 16 == 0 && f 0x60 160 == 0 && f 0x1C4 60 == 0 && f 0x4A00 0x600 == 0 &&
    (List.range (f 0x2D 1)).all (fun k => decide (1 ≤ f (0x1C0 + k) 1 ∧ f (0x1C0 + k) 1 ≤ 8)) &&
    (List.range (f 0x2E 2 - 1)).all (fun i => decide (f (0x200 + 8 * i) 4 < f (0x208 + 8 * i) 4))

/-- Token number i of a context's history. -/
def State.ctxTok (s : State) (a i : Nat) : Nat := s.le (a + 0xA00 + i % 4096 * 4) 4

/-- The last n tokens of the history, oldest first, as far as it goes. -/
def State.ctxTail (s : State) (a n : Nat) : List Nat :=
  let h := s.le (a + 0x28) 4
  let k := min n (min h 4096)
  (List.range k).map (fun i => s.ctxTok a (h - k + i))

/-- The uniform of a step, node and kind under a context's key (R207): a count of 2^−24ths. -/
def State.uniform (s : State) (a step node kind : Nat) : Nat :=
  let key := (s.bytes (a + 0x40) 32).map (fun (b : Byte) => b.toNat)
  let block := (leBytes 8 step ++ leBytes 2 node ++ leBytes 1 kind ++ List.replicate 5 0).map (fun (b : Byte) => b.toNat)
  leNat (((aes256 key block).take 4).map (fun n => BitVec.ofNat 8 n)) / 256

/-- A uniform as a number. -/
def uniformFp (u : Nat) : Fp := .fin false u (-24)

/-! ## Operands (R200) -/

/-- The operands of a SAMPLE lane. -/
structure SmpOps where
  logit : Nat
  res : Nat
  step : Nat
  aux : Nat
  eFirst : Nat
  eEnd : Nat
  member : Nat
  opt : Nat
  v : Nat
  zero : Nat
  ctx : Nat
  mask : Nat
  draft : Nat
  q : Nat
  lStride : Nat
  mStride : Nat
  qStride : Nat
  tail : Nat
  deriving DecidableEq, Repr

/-- Reads them. -/
def State.smpOps (s : State) (l : Lane) : SmpOps :=
  let aux := l.op 40 8
  let x (o n : Nat) : Nat := s.recField (aux != 0 && (s.addr64 l.part aux 64).isNone) aux o n
  { logit := l.op 16 8, res := l.op 24 8, step := l.op 32 8, aux := aux, eFirst := l.op 48 2, eEnd := l.op 50 2, member := l.op 52 1,
    opt := l.op 53 1, v := l.op 56 4, zero := l.op 54 2 + l.op 60 4, ctx := x 0 8, mask := x 8 8, draft := x 0x10 8, q := x 0x18 8,
    lStride := x 0x20 4, mStride := x 0x24 4, qStride := x 0x28 4, tail := x 0x2C 20 }

def SmpOps.qFull (o : SmpOps) : Bool := bit o.opt 0
def SmpOps.lRow (o : SmpOps) : Nat := if o.lStride = 0 then up64 (4 * o.v) else o.lStride
def SmpOps.mRow (o : SmpOps) : Nat := if o.mStride = 0 then up64 ((o.v + 7) / 8) else o.mStride
def SmpOps.qRow (o : SmpOps) : Nat := if o.qStride = 0 then up64 (4 * o.v) else o.qStride

/-- An entry is sampled by this member (R201). -/
def SmpOps.samples (o : SmpOps) (e : STEntry) : Bool := e.owner == o.member && (!e.prefill || e.final)

/-- Logit rows that an entry contributes (R202). -/
def logitRows (e : STEntry) : Nat := if e.prefill then 1 else e.nrows

/-- λ and κ of entry i, counted from entry 0 (R202). -/
def State.smpIndex (s : State) (o : SmpOps) (i : Nat) : Nat × Nat :=
  let before := (s.stEntries (dgaKey o.step) 0 i).filter o.samples
  (before.foldl (fun a e => a + logitRows e) 0, before.length)

/-- The lane's units: indices of sampled entries (R201, R142). -/
def State.smpUnits (s : State) (l : Lane) (o : SmpOps) : List Nat :=
  let us := ((List.range (o.eEnd - o.eFirst)).map (fun i => o.eFirst + i)).filter (fun i => o.samples (s.stEntry (dgaKey o.step) i))
  let r := l.share us.length
  (us.take r.2).drop r.1

/-- The context of an entry. -/
def SmpOps.ctxAt (o : SmpOps) (e : STEntry) : Nat := o.ctx + e.ctx * 0x5000

/-! ## The stages of a row (R204 to R206) -/

/-- A row after its stages: values after stage 4, the kept tokens with their probabilities in draw order, NaN logits read, the tail
was cut, the draw goes over the whole vocabulary. -/
structure SmpRow where
  l4 : List Nat
  kept : List (Nat × Nat)
  nan : Nat
  tail : Bool
  full : Bool
  deriving DecidableEq, Repr

/-- Token t is allowed by a mask row (R204 stage 1). -/
def State.allowed (s : State) (m t : Nat) : Bool := bit (s.byte (m + t / 8)).toNat (t % 8)

/-- NaN becomes −Inf. -/
def banNan (x : Nat) : Nat := if isNan32 x then negInf32 else x

/-- The values of a row after stages 1 to 4. -/
def State.smpLogits (s : State) (o : SmpOps) (e : STEntry) (lam r : Nat) (path : List Nat) : List Nat :=
  let c := dgaKey (o.ctxAt e)
  let f (off n : Nat) : Nat := s.le (c + off) n
  let masked := bit (f 0 4) 0 && o.mask != 0
  let penN := f 0xA 2
  let window := if penN = 0 then [] else s.ctxTail c penN ++ path
  let rep := if isZero32 (f 0x14 4) then 0x3F80_0000 else f 0x14 4
  (List.range o.v).map (fun t =>
    let x0 := s.le (dgaKey o.logit + lam * o.lRow + 4 * t) 4
    let x1 := if masked && !s.allowed (dgaKey o.mask + (e.rowBase + r) * o.mRow) t then negInf32 else banNan x0
    let x2 := match (List.range (f 0x2E 2)).find? (fun i => f (0x200 + 8 * i) 4 == t) with
      | some i => add32 x1 (f (0x204 + 8 * i) 4)
      | none => x1
    let n := window.count t
    let x3 := if n = 0 then x2
      else
        let y := if Fp.zero.lt (dec32 x2) then div32 x2 rep else mul32 x2 rep
        sub32 (sub32 y (f 0x18 4)) (mul32 (f 0x1C 4) (nat32 n))
    banNan (if f 4 4 = 0 then x3 else div32 x3 (f 4 4)))

/-- A token with a value comes before another: the higher value, ties to the lower token. -/
def tokBefore (a b : Nat × Nat) : Bool := (dec32 b.2).lt (dec32 a.2) || (!(dec32 a.2).lt (dec32 b.2) && decide (a.1 ≤ b.1))

/-- The shortest prefix whose cumulative probability reaches a bound, and whether it was reached (R204 stage 6). -/
def topPrefix (bound : Nat) : Nat → List (Nat × Nat) → List (Nat × Nat) × Bool
  | _, [] => ([], false)
  | cum, x :: r =>
    let c := add32 cum x.2
    if !(dec32 c).lt (dec32 bound) then ([x], true)
    else let y := topPrefix bound c r; (x :: y.1, y.2)

/-- Divides probabilities by their sum, whose order is open (R204 stage 8). -/
def State.renormalise (s : State) (salt : Nat) (ps : List (Nat × Nat)) : List (Nat × Nat) :=
  let t := s.anySum salt (ps.map (fun x => x.2))
  ps.map (fun x => (x.1, div32 x.2 t))

/-- A row through stages 1 to 7, renormalised (R204 to R206). -/
def State.smpRow (s : State) (u : UnitId) (o : SmpOps) (e : STEntry) (lam r : Nat) (path : List Nat) : SmpRow :=
  let c := dgaKey (o.ctxAt e)
  let f (off n : Nat) : Nat := s.le (c + off) n
  let l4 := s.smpLogits o e lam r path
  let nan := ((List.range o.v).filter (fun t => isNan32 (s.le (dgaKey o.logit + lam * o.lRow + 4 * t) 4))).length
  let toks := ((List.range o.v).zip l4).filter (fun x => x.2 != negInf32)
  let infs := toks.filter (fun x => x.2 == posInf32)
  let salt := lam * 16
  if toks.isEmpty then ⟨l4, [], nan, false, false⟩
  else if f 4 4 = 0 then
    match toks.find? (fun x => toks.all (fun y => !(dec32 x.2).lt (dec32 y.2))) with
    | some x => ⟨l4, [(x.1, 0x3F80_0000)], nan, false, false⟩
    | none => ⟨l4, [], nan, false, false⟩
  else if !infs.isEmpty then ⟨l4, infs.map (fun x => (x.1, div32 0x3F80_0000 (nat32 infs.length))), nan, false, false⟩
  else
    let topK := f 8 2
    let topP := f 0xC 4
    let minP := f 0x10 4
    let pOn := !isZero32 topP && decide (topP < 0x3F80_0000)
    let mOn := !isZero32 minP
    let rank := sortBy tokBefore toks
    let k1 := if topK = 0 then rank else rank.take topK
    let m := (rank.headD (0, 0)).2
    let es := k1.map (fun x => (x.1, exp32 (sub32 x.2 m)))
    let sum := s.anySum salt (es.map (fun x => x.2))
    let ps := es.map (fun x => (x.1, div32 x.2 sum))
    if topK = 0 && !pOn && !mOn then
      ⟨l4, s.renormalise (salt + 1) (sortBy (fun a b => decide (a.1 ≤ b.1)) ps), nan, false, true⟩
    else
      let cand := ps.take (s.get u Reg.smp.candCap)
      let sorted := sortBy tokBefore cand
      let a := if pOn then topPrefix topP 0 sorted else (sorted, false)
      let bound := mul32 minP ((sorted.headD (0, 0)).2)
      let passes (x : Nat × Nat) : Bool := !mOn || !(dec32 x.2).lt (dec32 bound)
      let cut := decide (cand.length < ps.length) && !a.2 && passes (sorted.getLastD (0, 0))
      ⟨l4, s.renormalise (salt + 1) (a.1.filter passes), nan, cut, false⟩

/-- Log-probability of a token under the whole row (R206). -/
def State.logProb (s : State) (salt : Nat) (l4 : List Nat) (t : Nat) : Nat :=
  let m := l4.foldl (fun a b => if (dec32 a).lt (dec32 b) then b else a) negInf32
  let x := l4.getD t negInf32
  if m = posInf32 then
    (if x = posInf32 then ln32 (div32 0x3F80_0000 (nat32 (l4.filter (fun y => y == posInf32)).length)) else negInf32)
  else sub32 (sub32 x m) (ln32 (s.anySum salt (l4.map (fun y => exp32 (sub32 y m)))))

/-- Stage 8: the first token whose cumulative probability exceeds u. Where rounding lets none exceed it, which token is open. -/
def drawFrom (u : Nat) : Nat → List (Nat × Nat) → Option Nat
  | _, [] => none
  | cum, x :: r => let c := add32 cum x.2; if (uniformFp u).lt (dec32 c) then some x.1 else drawFrom u c r

/-- The draw of a row (R204 stage 8, R207). -/
def State.draw (s : State) (o : SmpOps) (e : STEntry) (node : Nat) (ps : List (Nat × Nat)) : Nat :=
  let u := s.uniform (dgaKey (o.ctxAt e)) (s.le (dgaKey o.step) 8) node 1
  (drawFrom u 0 ps).getD ((ps.getD ((Config.freeValue (s.freeIdx + node)).toNat % max 1 ps.length) (0, 0)).1)

/-! ## Verification (R209, R210) -/

/-- A draft record: token, parent, depth, QTOK. -/
structure Draft where
  tok : Nat
  parent : Nat
  depth : Nat
  qtok : Nat
  deriving DecidableEq, Repr

/-- The draft records of an entry; none when one breaks R209. -/
def State.drafts (s : State) (o : SmpOps) (e : STEntry) : Option (List Draft) :=
  let a (j : Nat) : Nat := dgaKey o.draft + (e.rowBase + j) * 16
  let ds := (List.range e.nrows).map (fun j => (⟨s.le (a j) 4, s.le (a j + 4) 1, s.le (a j + 5) 1, s.le (a j + 8) 4⟩ : Draft))
  let ok (j : Nat) : Bool :=
    let d := ds.getD j ⟨0, 0, 0, 0⟩
    s.le (a j + 6) 2 == 0 && s.le (a j + 12) 4 == 0 &&
      (if j = 0 then d.parent == 0xFF && d.depth == 0
       else decide (d.tok < o.v) && decide (d.parent < j) && d.depth == (ds.getD d.parent ⟨0, 0, 0, 0⟩).depth + 1 && decide (d.depth ≤ 16))
  if o.draft = 0 ∨ 64 < e.nrows then none else if (List.range e.nrows).all ok then some ds else none

/-- What a unit has done so far. -/
structure SmpAcc where
  /-- emitted tokens and log-probabilities, oldest first -/
  toks : List (Nat × Nat) := []
  finish : Nat := 0
  path : List Nat := []
  tested : Nat := 0
  /-- nodes whose rows were processed, and whose draft distributions were read -/
  rows : List Nat := []
  qs : List Nat := []
  tail : Nat := 0
  nan : Nat := 0
  deriving DecidableEq, Repr

/-- The stop check after a token (R208). B is the position of the unit's first logit row. -/
def State.stopAt (s : State) (o : SmpOps) (e : STEntry) (toks : List Nat) : Nat :=
  let c := dgaKey (o.ctxAt e)
  let f (off n : Nat) : Nat := s.le (c + off) n
  let t := toks.getLastD 0
  let b := if e.prefill then e.pos + e.nrows - 1 else e.pos
  let seen := s.ctxTail c 8 ++ toks
  let stopTok := (List.range (f 0x2C 1)).any (fun i => f (0x100 + 4 * i) 4 == t && decide (t < o.v))
  let stopSeq := (List.range (f 0x2D 1)).any (fun k =>
    let n := f (0x1C0 + k) 1
    let sq := (List.range n).map (fun i => f (0x140 + 32 * k + 4 * i) 4)
    sq.all (fun x => decide (x < o.v)) && decide (n ≤ seen.length) && seen.drop (seen.length - n) == sq)
  if stopTok then 1
  else if stopSeq then 2
  else if f 0x20 4 ≠ 0 ∧ f 0x24 4 + toks.length = f 0x20 4 then 3
  else if b + toks.length = 8_388_607 then 4
  else 0

/-- A token joins the list, with the check of R208. -/
def State.emitTok (s : State) (u : UnitId) (o : SmpOps) (e : STEntry) (salt : Nat) (row : SmpRow) (a : SmpAcc) (t : Nat) : SmpAcc :=
  let lp := if s.flag u Reg.smp.optLogprobEn then s.logProb salt row.l4 t else 0
  let toks := a.toks ++ [(t, lp)]
  { a with toks := toks, finish := s.stopAt o e (toks.map (fun x => x.1)) }

/-- q of a draft at a token (R210 step 1). -/
def State.draftQ (s : State) (o : SmpOps) (e : STEntry) (d : Draft) (c t : Nat) : Nat :=
  if o.qFull then s.le (dgaKey o.q + (e.rowBase + c) * o.qRow + 4 * t) 4
  else if t ≠ d.tok then 0
  else if isZero32 d.qtok then 0x3F80_0000 else d.qtok

/-- max(0, p − q) renormalised, in draw order (R210 step 4). -/
def State.residual (s : State) (o : SmpOps) (e : STEntry) (d : Draft) (c : Nat) (full : Bool) (ps : List (Nat × Nat)) : List (Nat × Nat) :=
  let rs := ps.map (fun x =>
    let y := sub32 x.2 (s.draftQ o e d c x.1)
    (x.1, if Fp.zero.lt (dec32 y) then y else 0))
  let ns := s.renormalise (2 ^ 32 + c) rs
  if full then ns else sortBy tokBefore ns

/-- Tests the children of a node in turn: the accepted one, or the residual distribution (R210 steps 1 to 4). -/
def State.testChildren (s : State) (o : SmpOps) (e : STEntry) (ds : List Draft) (full : Bool) :
    List Nat → List (Nat × Nat) → SmpAcc → Option Nat × List (Nat × Nat) × SmpAcc
  | [], ps, a => (none, ps, a)
  | c :: r, ps, a =>
    let d := ds.getD c ⟨0, 0, 0, 0⟩
    let p := ((ps.find? (fun x => x.1 == d.tok)).map (fun x => x.2)).getD 0
    let u := s.uniform (dgaKey (o.ctxAt e)) (s.le (dgaKey o.step) 8) c 0
    let a1 := { a with tested := a.tested + 1, qs := a.qs ++ [c] }
    if (uniformFp u).lt (dec32 (div32 p (s.draftQ o e d c d.tok))) then (some c, ps, a1)
    else State.testChildren s o e ds full r (s.residual o e d c full ps) a1

/-- Verification from a node on (R210): at most 17 rows. `lam` is the entry's first logit row. -/
def State.verify (s : State) (u : UnitId) (o : SmpOps) (e : STEntry) (lam : Nat) (ds : List Draft) : Nat → Nat → List Nat → SmpAcc → SmpAcc
  | 0, _, _, a => a
  | n + 1, cur, path, a =>
    let row := s.smpRow u o e (lam + cur) cur path
    let a0 := { a with rows := a.rows ++ [cur], tail := a.tail + (if row.tail then 1 else 0), nan := a.nan + row.nan }
    if row.kept.isEmpty then { a0 with finish := 5 }
    else
      let kids := (List.range ds.length).filter (fun c => decide (0 < c) && (ds.getD c ⟨0, 0, 0, 0⟩).parent == cur)
      let salt := (lam + cur) * 16 + 2
      match s.testChildren o e ds row.full kids row.kept a0 with
      | (none, ps, a1) => s.emitTok u o e salt row a1 (s.draw o e cur ps)
      | (some c, _, a1) =>
        let t := (ds.getD c ⟨0, 0, 0, 0⟩).tok
        let a2 := s.emitTok u o e salt row { a1 with path := a1.path ++ [c] } t
        if a2.finish ≠ 0 then a2 else State.verify s u o e lam ds n c (path ++ [t]) a2

/-- Whether drafts are offered, invalid or absent for an entry (R209). -/
def State.offered (s : State) (u : UnitId) (o : SmpOps) (e : STEntry) : Option (List Draft) × Bool :=
  if e.prefill || decide (e.nrows ≤ 1) || !s.flag u Reg.smp.optSpecEn then (none, false)
  else match s.drafts o e with
    | some ds => (some ds, false)
    | none => (none, true)

/-- A unit's work. -/
def State.smpUnit (s : State) (u : UnitId) (o : SmpOps) (i : Nat) : SmpAcc × Bool :=
  let e := s.stEntry (dgaKey o.step) i
  let lam := (s.smpIndex o i).1
  let d := s.offered u o e
  match d.1 with
  | some ds => (s.verify u o e lam ds 17 0 [] {}, false)
  | none =>
    let r := if e.prefill then e.nrows - 1 else 0
    let row := s.smpRow u o e lam r []
    let a : SmpAcc := { rows := [r], tail := if row.tail then 1 else 0, nan := row.nan }
    (if row.kept.isEmpty then { a with finish := 5 } else s.emitTok u o e (lam * 16 + 2) row a (s.draw o e r row.kept), d.2)

/-- The result record (R211). -/
def resultRecord (slot : Nat) (a : SmpAcc) (invalid : Bool) : List Byte :=
  let pad (n : Nat) (l : List Nat) : List Nat := (l ++ List.replicate n 0).take n
  leBytes 4 (slot % 2 ^ 15) ++ leBytes 1 a.toks.length ++ leBytes 1 a.finish ++ leBytes 1 a.path.length ++ leBytes 1 a.tested ++
    leBytes 4 ((if 0 < a.tail then 1 else 0) + (if 0 < a.nan then 2 else 0) + (if invalid then 4 else 0)) ++ List.replicate 4 0 ++
    (pad 17 (a.toks.map (fun x => x.1))).flatMap (leBytes 4) ++ List.replicate 12 0 ++
    (pad 17 (a.toks.map (fun x => x.2))).flatMap (leBytes 4) ++ (pad 16 a.path).flatMap (leBytes 1) ++ List.replicate 12 0

/-- Informational conditions of a unit, lowest code first (R216). -/
def smpConds (a : SmpAcc) (invalid : Bool) : List Nat :=
  (if 0 < a.tail then [0x80] else []) ++ (if a.finish = 5 then [0x81] else []) ++ (if invalid then [0x82] else []) ++
    (if 0 < a.nan then [0x83] else [])

/-- Address of entry i's record. -/
def State.recordAt (s : State) (o : SmpOps) (i : Nat) : Nat := o.res + (s.smpIndex o i).2 * 192

/-- Runs a unit: its record, its counters, its conditions (R211, R214, R218, R219). -/
def State.sampleUnit (s : State) (u : UnitId) (o : SmpOps) (i : Nat) : State × List Nat :=
  let e := s.stEntry (dgaKey o.step) i
  let a := dgaKey (s.recordAt o i)
  if !s.ctxOk (dgaKey (o.ctxAt e)) then
    ((s.writeMem clsEng a (resultRecord e.slot {} false) true).count u 1 1, [0xC1])
  else
    let r := s.smpUnit u o i
    let x := r.1
    let s1 := s.writeMem clsEng a (resultRecord e.slot x r.2) false
    let s2 := (((s1.count u 1 1).count u 2 x.rows.length).count u 3 (4 * o.v * x.rows.length)).count u 4 x.tested
    let s3 := ((s2.count u 5 x.path.length).count u 6 x.tail).count u 8 x.nan
    (if x.finish = 5 then (s3.count u 7 1).irq u (2 ^ 17) else s3, smpConds x r.2)

/-! ## The job -/

/-- Ranges that a unit reads: its context, the rows it processes, their masks, its draft records, the draft distributions it tests. -/
def State.smpIns (s : State) (u : UnitId) (o : SmpOps) (i : Nat) : List (Nat × Nat) :=
  let e := s.stEntry (dgaKey o.step) i
  let lam := (s.smpIndex o i).1
  let c := (o.ctxAt e, 0x5000)
  if !s.ctxOk (dgaKey (o.ctxAt e)) then [c]
  else
    let x := (s.smpUnit u o i).1
    let masked := bit (s.le (dgaKey (o.ctxAt e)) 4) 0 && o.mask != 0
    c :: (if !e.prefill && decide (1 < e.nrows) && s.flag u Reg.smp.optSpecEn && o.draft != 0
        then [(o.draft + e.rowBase * 16, 16 * e.nrows)] else []) ++
      x.rows.flatMap (fun r => (o.logit + (lam + (if e.prefill then 0 else r)) * o.lRow, 4 * o.v) ::
        (if masked then [(o.mask + (e.rowBase + r) * o.mRow, (o.v + 7) / 8)] else [])) ++
      (if o.qFull then x.qs.map (fun n => (o.q + (e.rowBase + n) * o.qRow, 4 * o.v)) else [])

/-- The checks of the descriptor, the auxiliary record and the step table, before any entry is read (R200, R203). -/
def State.smpRecords (s : State) (l : Lane) (o : SmpOps) : Option Nat :=
  let st := dgaKey o.step
  firstFail
    [need (decide (o.opt < 2) && o.zero == 0 && decide (1 ≤ o.v ∧ o.v ≤ 1_048_576) && o.aux != 0), s.addr64 l.part o.aux 64,
      need (o.tail == 0 && o.lStride % 64 == 0 && o.mStride % 64 == 0 && o.qStride % 64 == 0 && !(o.qFull && o.q == 0)),
      s.addr64 l.part o.step 64, s.addr64 l.part o.step (64 + 32 * s.stSeqs st)]

/-- The other dispatch checks (R203). -/
def State.smpReject (s : State) (l : Lane) (o : SmpOps) (us : List Nat) : Option Nat :=
  let p := l.part
  let st := dgaKey o.step
  let q (a n : Nat) : Option Nat := s.addr64 p a n
  firstFail
    ([need (decide (o.eFirst ≤ o.eEnd ∧ o.eEnd ≤ s.stSeqs st)),
      need ((s.stEntries st o.eFirst o.eEnd).all (fun e => e.prefill || decide (e.nrows ≤ 64))),
      q o.logit 1, q o.res 1, q o.ctx 1, s.addr64? p o.mask 1, s.addr64? p o.draft 1, s.addr64? p o.q 1] ++
     us.flatMap (fun i =>
      let e := s.stEntry st i
      let x := s.smpIndex o i
      let ck (a n : Nat) : Option Nat := s.checkAddr p a (max 1 n) [0, 1] false
      let rows := if e.prefill then [e.nrows - 1] else List.range e.nrows
      [ck (o.logit + x.1 * o.lRow) (extent (logitRows e) o.lRow (4 * o.v)), ck (o.res + x.2 * 192) 192, ck (o.ctxAt e) 0x5000] ++
        (if o.mask = 0 then [] else rows.map (fun r => ck (o.mask + (e.rowBase + r) * o.mRow) ((o.v + 7) / 8))) ++
        (if e.prefill || decide (e.nrows ≤ 1) then []
         else (if o.draft = 0 then [] else [ck (o.draft + e.rowBase * 16) (16 * e.nrows)]) ++
          (if o.qFull then (rows.drop 1).map (fun r => ck (o.q + (e.rowBase + r) * o.qRow) (4 * o.v)) else []))))

/-- The job of a SAMPLE lane. -/
def State.smpJob (s : State) (l : Lane) : Job :=
  let u : UnitId := ⟨.smp, l.phys⟩
  if l.opcode ≠ 1 then .bad 4 []
  else
    let o := s.smpOps l
    match s.smpRecords l o with
    | some e => .bad e []
    | none =>
      let us := s.smpUnits l o
      { reject := s.smpReject l o us
        ins := (o.aux, 64) :: (o.step, 64 + 32 * s.stSeqs (dgaKey o.step)) :: us.flatMap (s.smpIns u o)
        outs := us.map (fun i => (s.recordAt o i, 192))
        marks := true
        run := fun t =>
          let r := us.foldl (fun a i =>
            let y := a.1.sampleUnit u o i
            (({ y.1 with freeIdx := y.1.freeIdx + 65536 } : State), a.2 ++ y.2)) (t, [])
          (r.1, if r.2.contains 0xC1 then 0xC1 else (r.2.min?).getD 0) }

/-- SAMPLE (R204): runs a sampling engine's head lane; another opcode ends FORMAT_ERROR (R200). Corrected buffer errors are counted. -/
def execSample (u : UnitId) (ev : LaneEv) (s : State) : Host.Outcome State Fault Refusal :=
  atUnit .smp u s ((s.runJob u (fun _ => true) ev State.smpJob).correct u 9 ev.corrected)

end Sys2Proof.Machine
end

