-- ==== Sys2Proof/Machine/Attention.lean ====
section
/-!
DEFINITION. Attention engines (chapter 6), and the page-engine lanes that rest on their lists and summaries: PREFETCH (R334) and
the background recomputation of summaries (R318).
-/
namespace Sys2Proof.Machine

/-- The operands of an AE lane (R140, R141). -/
structure AeOps where
  q : Nat
  o : Nat
  step : Nat
  aux : Nat
  eFirst : Nat
  eEnd : Nat
  layer : Nat
  hq : Nat
  hkv : Nat
  shape : Nat
  tail : Nat
  policy : Nat
  list : Nat
  scores : Nat
  tree : Nat
  lse : Nat
  oScale : Nat
  pstride : Nat
  scoreStride : Nat
  window : Nat
  qStride : Nat
  oStride : Nat
  smScale : Nat
  parts : Nat
  oSs : Nat
  auxTail : Nat
  deriving DecidableEq, Repr

/-- Reads them, the auxiliary record included, whose fields are zero where its address fails its checks (log entry 39). -/
def State.aeOps (s : State) (l : Lane) : AeOps :=
  let aux := l.op 40 8
  let ok := decide (aux ≠ 0) && (s.addr64 l.part aux 128).isNone
  let x (o n : Nat) : Nat := s.recField ok aux o n
  { q := l.op 16 8, o := l.op 24 8, step := l.op 32 8, aux := aux, eFirst := l.op 48 2, eEnd := l.op 50 2, layer := l.op 52 2,
    hq := l.op 54 1, hkv := l.op 55 1, shape := l.op 56 4, tail := l.op 60 4, policy := x 0 8, list := x 8 8, scores := x 0x10 8,
    tree := x 0x18 8, lse := x 0x20 8, oScale := x 0x28 8, pstride := x 0x30 8, scoreStride := x 0x38 4, window := x 0x3C 4,
    qStride := x 0x40 4, oStride := x 0x44 4, smScale := x 0x48 4, parts := x 0x4C 2, oSs := x 0x4E 2,
    auxTail := x 0x50 48 }

/-- Parts per item: 0 acts as 1 (R141). -/
def AeOps.npart (o : AeOps) : Nat := max 1 o.parts

/-- Head dimension of a DCODE (R140). -/
def headDim : Nat → Nat
  | 0 => 64 | 1 => 96 | 2 => 128 | 3 => 192 | _ => 256

/-- KV element format of a KV_FMT. -/
def kvFmt : Nat → Fmt
  | 0 => .e4m3 | 1 => .e5m2 | _ => .bf16

def AeOps.d (o : AeOps) : Nat := headDim (bits o.shape 0 3)
def AeOps.kvCode (o : AeOps) : Nat := bits o.shape 3 2
def AeOps.kvF (o : AeOps) : Fmt := kvFmt o.kvCode
def AeOps.qF (o : AeOps) : Fmt := if bit o.shape 5 then .fp16 else .bf16
def AeOps.oCode (o : AeOps) : Nat := bits o.shape 6 4
def AeOps.oF (o : AeOps) : Fmt := (match o.oCode with | 1 => .bf16 | 2 => .fp16 | 3 => .e4m3 | 4 => .e5m2 | _ => .fp32)
def AeOps.mask (o : AeOps) : Nat := bits o.shape 10 2
def AeOps.selAllow (o : AeOps) : Bool := bit o.shape 12
def AeOps.part (o : AeOps) : Bool := bit o.shape 13

/-- KV heads in a page of D-dimensional heads of b-byte elements, and head groups of a module (R135). -/
def headsPerPage (d b : Nat) : Nat := 512 / (2 * d * b)
def AeOps.hp (o : AeOps) : Nat := headsPerPage o.d (o.kvF.width / 8)
def AeOps.hg (o : AeOps) : Nat := (o.hkv + o.hp - 1) / o.hp
def AeOps.g (o : AeOps) : Nat := o.hq / o.hkv

/-- Row strides (R141). A partial set that MERGE reads is addressed as R152 says, with the element size of FP32 (log: DEDUCED). -/
def AeOps.qRow (o : AeOps) : Nat := if o.qStride = 0 then up64 (o.hq * o.d * 2) else o.qStride
def AeOps.oRow (o : AeOps) : Nat := if o.oStride = 0 then up64 (o.hq * o.d * o.oF.width / 8) else o.oStride
def AeOps.pRow (o : AeOps) : Nat := if o.oStride = 0 then up64 (o.hq * o.d * 4) else o.oStride
def AeOps.sRow (o : AeOps) : Nat := if o.oSs = 0 then up64 ((o.hq * o.d + 31) / 32) else o.oSs * 64

/-- The softmax scale: 1/√D rounded to FP32 unless the record gives a value. -/
def AeOps.sm (o : AeOps) : Nat :=
  if o.smScale ≠ 0 then o.smScale
  else match o.d with | 64 => 0x3E00_0000 | 96 => 0x3DD1_05EC | 128 => 0x3DB5_04F3 | 192 => 0x3D93_CD3A | _ => 0x3D80_0000

/-- Fields that an opcode does not use must be zero (R141). -/
def AeOps.unusedZero (o : AeOps) (op : Nat) : Bool :=
  let at' (l : List Nat) : Bool := l.contains op
  (at' [1, 3, 4] || (o.policy == 0 && o.list == 0 && o.tree == 0 && o.window == 0)) &&
    (at' [3, 4] || (o.scores == 0 && o.scoreStride == 0)) && (at' [1, 5] || (o.lse == 0 && o.oScale == 0 && o.pstride == 0 &&
      o.oStride == 0 && o.oSs == 0)) && (at' [1, 3] || (o.qStride == 0 && o.smScale == 0)) && (at' [1, 3, 5] || o.parts == 0)

/-- Ranges of R134 and R140, and the alignment of the descriptor's addresses (R143). -/
def AeOps.fieldsOk (o : AeOps) (op : Nat) : Bool :=
  decide (1 ≤ o.hq ∧ o.hq ≤ 128) && decide (1 ≤ o.hkv ∧ o.hkv ≤ 32) && o.hq % o.hkv == 0 && decide (o.g ≤ 32) &&
    decide (bits o.shape 0 3 ≤ 4) && decide (o.kvCode ≤ 2) && (o.kvCode != 2 || decide (o.d ≤ 128)) && decide (o.oCode ≤ 4) &&
    decide (o.mask ≤ 1) && bits o.shape 14 18 == 0 && o.tail == 0 && decide (o.layer ≤ 1023) && (!o.part || o.oCode == 0) &&
    (o.part || o.oCode != 0 || (op != 1 && op != 5)) && decide (o.eFirst ≤ o.eEnd) && o.aux != 0 &&
    o.q % 64 == 0 && o.o % 64 == 0 && o.step % 64 == 0

/-- Ranges of R141, and the alignment of the record's addresses (R143). -/
def AeOps.auxOk (o : AeOps) (op : Nat) : Bool :=
  let al (a : Nat) : Bool := a % 64 == 0
  o.auxTail == 0 && (o.mask != 1 || op == 2 || op == 5 || decide (1 ≤ o.window ∧ o.window ≤ 8_388_608)) && al o.pstride &&
    al o.scoreStride && decide (o.parts ≤ 64) && (!o.part || o.lse != 0) && o.unusedZero op && al o.policy && al o.list && al o.scores &&
    al o.tree && al o.lse && al o.oScale

/-- Work units of the command (R139, R142). -/
def AeOps.units (o : AeOps) (op : Nat) : Nat :=
  (o.eEnd - o.eFirst) * (match op with | 1 => o.hkv * o.npart | 2 => o.hg | 3 => o.hg * o.npart | 4 => o.hg | _ => o.hq)

/-- A work unit: entry, head or head group, part. -/
structure AeUnit where
  e : Nat
  h : Nat
  c : Nat
  deriving DecidableEq, Repr

/-- Unit i. -/
def AeOps.unitAt (o : AeOps) (op i : Nat) : AeUnit :=
  match op with
  | 1 => ⟨o.eFirst + i / (o.hkv * o.npart), i / o.npart % o.hkv, i % o.npart⟩
  | 3 => ⟨o.eFirst + i / (o.hg * o.npart), i / o.npart % o.hg, i % o.npart⟩
  | 5 => ⟨o.eFirst + i / o.hq, i % o.hq, 0⟩
  | _ => ⟨o.eFirst + i / o.hg, i % o.hg, 0⟩

/-- The lane's units. -/
def Lane.aeUnits (l : Lane) (o : AeOps) : List AeUnit :=
  let r := l.share (o.units l.opcode)
  (List.range (r.2 - r.1)).map (fun i => o.unitAt l.opcode (r.1 + i))

/-- The step-table entry of a unit. -/
def State.aeEntry (s : State) (o : AeOps) (e : Nat) : STEntry := s.stEntry (dgaKey o.step) e

/-- A DGA of this node for a memory key. -/
def State.dga (s : State) (k : Nat) : Nat := 2 ^ 50 * s.node + k

/-! ## What a row sees (R137) -/

/-- Row r of an entry sees a position that is on this module. -/
def State.sees (s : State) (o : AeOps) (e : STEntry) (r pos : Nat) : Bool :=
  let j := pos - e.pos
  (if pos < e.pos then true
    else decide (j < e.nrows) && (if o.tree = 0 then decide (j ≤ r) else bit (s.le (dgaKey o.tree + (e.rowBase + r) * 8) 8) j)) &&
    (o.mask != 1 || decide (e.pos + r < pos + o.window))

/-- Some row of an entry sees a position of page n. -/
def State.pageSeen (s : State) (o : AeOps) (e : STEntry) (n : Nat) : Bool :=
  (List.range e.nrows).any (fun r => (List.range 64).any (fun i => s.sees o e r (64 * n + i)))

/-- The VPN of a page of a head group on this member. -/
def State.aeVpn (s : State) (p : Nat) (o : AeOps) (g n : Nat) : Option Nat :=
  (s.localPage p n).map (fun n' => n' * s.lh p + o.layer * o.hg + g)

/-- What a read lookup of a page answers. -/
def State.aeLookup (s : State) (p : Nat) (o : AeOps) (e : STEntry) (g n : Nat) : Lookup :=
  match s.aeVpn p o g n with
  | none => .notPresent
  | some v => (s.lookupRead p e.slot v).1

/-- Page numbers that hold visible positions and are present on this module, ascending (R144). -/
def State.aePages (s : State) (p : Nat) (o : AeOps) (e : STEntry) (g : Nat) : List Nat :=
  (List.range ((e.pos + e.nrows + 63) / 64)).filter (fun n => s.pageSeen o e n && s.aeLookup p o e g n != .notPresent)

/-- Part c of a list cut into n parts (R144). -/
def partOf {α : Type} (l : List α) (c n : Nat) : List α := (l.take ((c + 1) * l.length / n)).drop (c * l.length / n)

/-! ## Selection (R145, R146, R149) -/

/-- The attention policy of a sequence: SEL, sink pages, window pages, selected pages. -/
def State.aePolicy (s : State) (o : AeOps) (slot : Nat) : Bool × Nat × Nat × Nat :=
  let a := dgaKey o.policy + 16 * slot
  let f := s.le a 2
  let or' (d n : Nat) : Nat := if n = 0 then d else n
  (bit f 0, if bit f 1 then 0 else or' 1 (s.le (a + 2) 2), or' 16 (s.le (a + 4) 2), or' 4096 (s.le (a + 6) 2))

/-- The policy table is read for an entry. -/
def State.readsPolicy (s : State) (u : UnitId) (o : AeOps) (e : STEntry) : Bool :=
  o.selAllow && decide (e.nrows ≤ 64) && s.flag u Reg.ae.optSelEn

/-- An entry is block-selected in a command (R146). -/
def State.blockSel (s : State) (u : UnitId) (o : AeOps) (e : STEntry) : Bool := s.readsPolicy u o e && (s.aePolicy o e.slot).1

/-- Item number, kept-list address and score-slot address (R148, R149). -/
def AeOps.item (o : AeOps) (e g : Nat) : Nat := (e - o.eFirst) * o.hg + g
def AeOps.listAt (o : AeOps) (e g : Nat) : Nat := o.list + o.item e g * 20800
def AeOps.scoreAt (o : AeOps) (e g : Nat) : Nat := o.scores + o.item e g * o.scoreStride

/-- The head group and the page head of a KV head. -/
def AeOps.group (o : AeOps) (h : Nat) : Nat := h / o.hp
def AeOps.pageHead (o : AeOps) (h : Nat) : Nat := h % o.hp

/-- A kept list: EXACT, COUNT and the page numbers (R149). -/
def State.keptList (s : State) (o : AeOps) (e g : Nat) : Bool × Nat × List Nat :=
  let a := dgaKey (o.listAt e g)
  let n := s.le a 4
  (bit (s.le (a + 4) 4) 0, n, if 5184 < n then [] else (List.range n).map (fun i => s.le (a + 64 + 4 * i) 4))

/-- A list rises strictly. -/
def strictlyRising : List Nat → Bool
  | a :: b :: r => decide (a < b) && strictlyRising (b :: r)
  | _ => true

/-- A sink page or a window page (R149). -/
def State.sinkPage (s : State) (o : AeOps) (e : STEntry) (n : Nat) : Bool := decide (n < (s.aePolicy o e.slot).2.1)
def State.windowPage (s : State) (o : AeOps) (e : STEntry) (n : Nat) : Bool :=
  decide (0 < e.pos ∧ n ≤ (e.pos - 1) / 64 ∧ (e.pos - 1) / 64 < n + (s.aePolicy o e.slot).2.2.1)

/-- SUM_VALID of a page. -/
def State.sumValid (s : State) (p : Nat) (o : AeOps) (e : STEntry) (g n : Nat) : Bool :=
  match s.aeLookup p o e g n with
  | .frame f => bit (s.byte ((s.sideRecords p f).2 + 8)).toNat 0
  | _ => false

/-- A page that SCORE scores (R148). -/
def State.scored (s : State) (p : Nat) (o : AeOps) (e : STEntry) (g n : Nat) : Bool :=
  s.sumValid p o e g n && !s.sinkPage o e n && !s.windowPage o e n

/-- The item's score slot is too small (R148). -/
def AeOps.slotSmall (o : AeOps) (pages : List Nat) : Bool :=
  match pages.getLast? with
  | none => false
  | some n => decide (o.scoreStride < 4 * (n + 1))

/-! ## Keys and values (R134 to R136) -/

/-- Element i of K or V of page head j at a position of a frame, as an FP32 pattern. -/
def State.kvElem (s : State) (p : Nat) (o : AeOps) (f pos j : Nat) (isV : Bool) (i : Nat) : Nat :=
  let b := o.kvF.width / 8
  let x := s.val o.kvF (frameKey f + (if isV then 16384 else 0) + (pos % 64 * o.hp + j) * o.d * b) i
  if o.kvCode = 2 then rne32 x
  else rne32 (scaled (s.byte ((s.sideRecords p f).2 + (if isV then 4 else 0) + j)).toNat x)

/-- Element i of query head q of row r, as an FP32 pattern. -/
def State.query (s : State) (o : AeOps) (e : STEntry) (r q i : Nat) : Nat :=
  rne32 (s.val o.qF (dgaKey o.q + (e.rowBase + r) * o.qRow) (q * o.d + i))

/-- The score of a query against a key: an FP32 dot product in an open order, times SM_SCALE (R138). -/
def State.dot (s : State) (o : AeOps) (salt : Nat) (q k : List Nat) : Nat :=
  mul32 (s.anySum salt ((q.zip k).map (fun x => mul32 x.1 x.2))) o.sm

/-- The running softmax: maximum, sum, accumulator (R138). -/
structure Soft where
  m : Nat
  l : Nat
  acc : List Nat
  any : Bool
  deriving DecidableEq, Repr

/-- One key enters: everything is rescaled when the maximum rises. -/
def Soft.step (x : Soft) (sc : Nat) (v : List Nat) : Soft :=
  let rises := (dec32 x.m).lt (dec32 sc)
  let m := if rises then sc else x.m
  let c := exp32 (sub32 x.m m)
  let w := exp32 (sub32 sc m)
  { m := m, l := add32 (if rises then mul32 x.l c else x.l) w,
    acc := (x.acc.zip v).map (fun a => add32 (if rises then mul32 a.1 c else a.1) (mul32 w a.2)), any := true }

/-- The pages an ATTN unit reads (R144, R150): each with whether its committed and its pending positions are read. -/
def State.attnPages (s : State) (u : UnitId) (p : Nat) (o : AeOps) (x : AeUnit) : List (Nat × Bool × Bool) :=
  let e := s.aeEntry o x.e
  let g := o.group x.h
  let k := s.keptList o x.e g
  let all := s.aePages p o e g
  let mine := partOf (if s.blockSel u o e && !k.1 then k.2.2 else all) x.c o.npart
  let pend := if x.c = 0 then all.filter (fun n => decide (e.pos < 64 * n + 64)) else []
  (List.range ((e.pos + e.nrows + 63) / 64)).filterMap (fun n =>
    if mine.contains n || pend.contains n then some (n, mine.contains n, pend.contains n) else none)

/-- The softmax of one row and query head over the pages of a unit: pages ascending, the keys of a page in an open order. -/
def State.attend (s : State) (p : Nat) (o : AeOps) (e : STEntry) (g j r q : Nat) (pages : List (Nat × Bool × Bool)) : Soft :=
  let qs := (List.range o.d).map (s.query o e r q)
  pages.foldl (fun a pg =>
    match s.aeLookup p o e g pg.1 with
    | .frame f =>
      let ps := ((List.range 64).map (fun i => 64 * pg.1 + i)).filter (fun t =>
        s.sees o e r t && (if t < e.pos then pg.2.1 else pg.2.2))
      (s.anyOrder (pg.1 * 65536 + r * 128 + q) ps).foldl (fun a t =>
        a.step (s.dot o (t * 65536 + r * 128 + q) qs ((List.range o.d).map (s.kvElem p o f t j false)))
          ((List.range o.d).map (s.kvElem p o f t j true))) a
    | _ => a) ⟨negInf32, 0, List.replicate o.d 0, false⟩

/-- The row and head sees a key at all (R138). -/
def State.seesAny (s : State) (u : UnitId) (p : Nat) (o : AeOps) (x : AeUnit) (r : Nat) : Bool :=
  let e := s.aeEntry o x.e
  (List.range o.npart).any (fun c => (s.attnPages u p o { x with c := c }).any (fun pg =>
    (match s.aeLookup p o e (o.group x.h) pg.1 with | .frame _ => true | _ => false) &&
      (List.range 64).any (fun i => s.sees o e r (64 * pg.1 + i) && (if 64 * pg.1 + i < e.pos then pg.2.1 else pg.2.2))))

/-! ## Outputs (R138, R152) -/

/-- Addresses of head q of a row in the final output, its scales, partial set c and its lse. -/
def AeOps.outAt (o : AeOps) (row q : Nat) : Nat := o.o + row * o.oRow + q * o.d * o.oF.width / 8
def AeOps.scaleAt (o : AeOps) (row q : Nat) : Nat := o.oScale + row * o.sRow + q * o.d / 32
def AeOps.partAt (o : AeOps) (c row q : Nat) : Nat := o.o + c * o.pstride + row * o.pRow + q * o.d * 4
def AeOps.lseAt (o : AeOps) (c row q : Nat) : Nat := o.lse + c * o.pstride + row * 4 * o.hq + 4 * q

/-- FP8 output with block scales (R141). -/
def AeOps.blocked (o : AeOps) : Bool := o.oF.width == 8 && o.oScale != 0

/-- Writes one head of a final row: conversion and block scales (R70 to R72). -/
def State.aeFinal (s : State) (u : UnitId) (l : Lane) (o : AeOps) (row q : Nat) (v : List Nat) : State :=
  let xs := v.map dec32
  let none' : List (Option Nat) := List.replicate xs.length none
  let r := if o.blocked then convBlocks o.oF l.sat l.ceil xs none' else ([], convRow o.oF l.sat xs none')
  let s1 := s.writeCodes clsEng (dgaKey (o.outAt row q)) o.oF.width (r.2.map (fun x => x.code)) packCodes
  let s2 := if o.blocked then s1.writeMem clsEng (dgaKey (o.scaleAt row q)) (r.1.map (fun x => BitVec.ofNat 8 x)) false else s1
  (s2.count u 8 (satCount r.2)).count u 9 (nanCount o.oF r.1 r.2)

/-- Writes one head of a partial row: FP32 values at an address and the lse at another. -/
def State.aePartial (s : State) (u : UnitId) (oa la : Nat) (v : List Nat) (lse : Nat) : State :=
  let s1 := s.writeMem clsEng (dgaKey oa) (v.flatMap (leBytes 4)) false
  (s1.writeMem clsEng (dgaKey la) (leBytes 4 lse) false).count u 9 (v.filter isNan32).length

/-- Looks a page up for its side records alone: the lookup's effects, and the scale record's bytes (R148, R149, R160). -/
def State.glance (s : State) (u : UnitId) (p : Nat) (o : AeOps) (e : STEntry) (g n : Nat) : State :=
  match s.aeVpn p o g n with
  | none => s
  | some v =>
    let r := s.lookupRead p e.slot v
    match r.1 with
    | .frame _ => r.2.count u 2 16
    | _ => r.2

/-- Reads `kv` bytes of keys and values of a page and its scale record: the lookup's effects, the counts, and the promotion of a T2
frame (R155, R160, R310, R329). -/
def State.touch (s : State) (u : UnitId) (p : Nat) (o : AeOps) (e : STEntry) (g n kv : Nat) : State :=
  match s.aeVpn p o g n with
  | none => s
  | some v =>
    let r := s.lookupRead p e.slot v
    match r.1 with
    | .frame f =>
      let s1 := ((r.2.count u 1 kv).count u 2 16).count u 3 1
      if frameTier f = 2 then ((s1.count u 7 1).promote p f).1 else s1
    | _ => r.2

/-- The pages that an entry's rows of this step fill (R147). -/
def filledPages (e : STEntry) : List Nat :=
  (List.range ((e.pos + e.nrows + 63) / 64)).filter (fun n => decide (e.pos ≤ 64 * n + 63 ∧ 64 * n + 63 < e.pos + e.nrows))

/-- A unit's result: the state, its status. -/
abbrev AeRes := State × Nat

/-- An ATTN unit. With PARTIAL = 0 and more than one part, each part writes its own result to the same rows, so the last part's stands:
the spec does not say what such a row holds (DESIGN CHOICE, log entry 158). -/
def State.attnUnit (s : State) (u : UnitId) (l : Lane) (o : AeOps) (x : AeUnit) : AeRes :=
  let p := l.part
  let e := s.aeEntry o x.e
  let g := o.group x.h
  let k := s.keptList o x.e g
  if s.blockSel u o e && !k.1 && (decide (5184 < k.2.1) || !strictlyRising k.2.2) then (s, 0xC2)
  else
    let pages := s.attnPages u p o x
    if pages.any (fun pg => s.aeLookup p o e g pg.1 == .xlateFault) then (s, 0xC0)
    else
      let heads := (List.range o.g).map (fun i => x.h * o.g + i)
      let work := (List.range e.nrows).flatMap (fun r => heads.map (fun q => (r, q)))
      let s1 := work.foldl (fun t rq =>
        let a := s.attend p o e g (o.pageHead x.h) rq.1 rq.2 pages
        let out := if a.any then a.acc.map (fun v => div32 v a.l) else List.replicate o.d 0
        let lse := if a.any then add32 a.m (ln32 a.l) else negInf32
        let row := e.rowBase + rq.1
        if o.part then t.aePartial u (o.partAt x.c row rq.2) (o.lseAt x.c row rq.2) out lse
        else t.aeFinal u l o row rq.2 out) s
      let s2 := pages.foldl (fun t pg => t.touch u p o e g pg.1 (o.d * o.kvF.width / 8 * 128)) s1
      (s2, if (List.range e.nrows).all (s.seesAny u p o x) then 0 else 0x81)

/-- A SUMMARISE unit: the mean keys of the pages that this step's rows fill, rounded to FP16 with the command's SAT (R147). -/
def State.summariseUnit (s : State) (u : UnitId) (l : Lane) (o : AeOps) (x : AeUnit) : AeRes :=
  let p := l.part
  let e := s.aeEntry o x.e
  (filledPages e).foldl (fun a n =>
    match s.aeLookup p o e x.h n with
    | .notPresent => a
    | .xlateFault => (a.1, 0xC0)
    | .frame f =>
      let side := s.sideRecords p f
      let means := (List.range o.hp).flatMap (fun j => (List.range o.d).map (fun i =>
        mul32 (s.anySum (n * 65536 + j * 256 + i) ((List.range 64).map (fun t => s.kvElem p o f t j false i))) 0x3C80_0000))
      let cs := means.map (fun m => Fmt.fp16.convert l.sat none (dec32 m))
      let s1 := a.1.writeMem clsEng side.1 (cs.flatMap (fun c => leBytes 2 c.code)) false
      let s2 := s1.writeMem clsEng (side.2 + 8) [s1.byte (side.2 + 8) ||| 1] false
      (((s2.touch u p o e x.h n (64 * o.hp * o.d * o.kvF.width / 8)).count u 8 (satCount cs)).count u 9 (nanCount .fp16 [] cs), a.2)) (s, 0)

/-- The score of a page: the largest of its heads' dot products with the mean keys (R148). -/
def State.pageScore (s : State) (p : Nat) (o : AeOps) (e : STEntry) (g n f : Nat) : Nat :=
  let su := (s.sideRecords p f).1
  let heads := (List.range o.hp).filter (fun j => decide (g * o.hp + j < o.hkv))
  let all := (List.range e.nrows).flatMap (fun r => heads.flatMap (fun j => (List.range o.g).map (fun i =>
    let q := (g * o.hp + j) * o.g + i
    s.dot o (n * 65536 + r * 128 + q) ((List.range o.d).map (s.query o e r q))
      ((List.range o.d).map (fun k => rne32 (s.val .fp16 (su + j * o.d * 2) k))))))
  all.foldl (fun a b => if (dec32 a).lt (dec32 b) || isNan32 b then b else a) negInf32

/-- A SCORE unit (R148): it reads side records alone, so it promotes no page (R155), and 512 B of summary for each page that it scores. -/
def State.scoreUnit (s : State) (u : UnitId) (l : Lane) (o : AeOps) (x : AeUnit) : AeRes :=
  let p := l.part
  let e := s.aeEntry o x.e
  if !s.blockSel u o e then (s, 0)
  else
    let all := s.aePages p o e x.h
    if o.slotSmall all then
      (((s.writeMem clsEng (dgaKey (o.listAt x.e x.h) + 4) (leBytes 4 1) false).count u 10 1).irq u (2 ^ 17), 0x80)
    else if (partOf all x.c o.npart).any (fun n => s.aeLookup p o e x.h n == .xlateFault) then (s, 0xC0)
    else
      ((partOf all x.c o.npart).foldl (fun t n =>
        let scored := s.scored p o e x.h n
        let sc := match s.aeLookup p o e x.h n with
          | .frame f => if scored then s.pageScore p o e x.h n f else negInf32
          | _ => negInf32
        ((t.writeMem clsEng (dgaKey (o.scoreAt x.e x.h) + 4 * n) (leBytes 4 sc) false).glance u p o e x.h n).count u 2
          (if scored then 512 else 0)) s, 0)

/-- Order of two scored pages (R149): the higher score first, ties to the higher page number. A NaN ranks as an open value does. -/
def pickBefore (a b : Nat × Nat) : Bool :=
  let v (x : Nat) : Fp := dec32 (if isNan32 x then approx32 8 x else x)
  (v b.1).lt (v a.1) || (!(v a.1).lt (v b.1) && decide (b.2 < a.2))

/-- The kept set of a block-selected item, ascending (R149). -/
def State.kept (s : State) (p : Nat) (o : AeOps) (e : STEntry) (en g : Nat) : List Nat :=
  let present := (List.range ((e.pos + e.nrows + 63) / 64)).filter (fun n => s.aeLookup p o e g n != .notPresent)
  let seen := s.aePages p o e g
  let sc := (seen.filter (s.scored p o e g)).map (fun n => (s.le (dgaKey (o.scoreAt en g) + 4 * n) 4, n))
  let best := ((sortBy pickBefore sc).take (s.aePolicy o e.slot).2.2.2).map (fun x => x.2)
  present.filter (fun n => s.sinkPage o e n || s.windowPage o e n || (seen.contains n && !s.sumValid p o e g n) || best.contains n)

/-- A PICK unit (R149). A set that would not fit its area is cut there: ATTN then ends LIST_CORRUPT on its COUNT (R150). -/
def State.pickUnit (s : State) (u : UnitId) (l : Lane) (o : AeOps) (x : AeUnit) : AeRes :=
  let p := l.part
  let e := s.aeEntry o x.e
  let a := dgaKey (o.listAt x.e x.h)
  if !s.blockSel u o e || o.slotSmall (s.aePages p o e x.h) then
    (s.writeMem clsEng a (leBytes 4 0 ++ leBytes 4 1 ++ List.replicate 56 0) false, 0)
  else if (s.aePages p o e x.h).any (fun n => s.aeLookup p o e x.h n == .xlateFault) then (s, 0xC0)
  else
    let ks := s.kept p o e x.e x.h
    let s1 := s.writeMem clsEng a (leBytes 4 ks.length ++ List.replicate 60 0 ++ (ks.take 5184).flatMap (leBytes 4)) false
    let s2 := (s.aePages p o e x.h).foldl (fun t n => t.glance u p o e x.h n) s1
    (s2.count u 4 ((s.aePages p o e x.h).length - ks.length), 0)

/-- A MERGE unit (R152): L = ln Σ exp(lse_i), taken relative to the largest lse; O = Σ exp(lse_i − L) × O_i. -/
def State.mergeUnit (s : State) (u : UnitId) (l : Lane) (o : AeOps) (x : AeUnit) : AeRes :=
  let e := s.aeEntry o x.e
  (List.range e.nrows).foldl (fun a r =>
    let row := e.rowBase + r
    let pa (c : Nat) : Nat := o.q + c * o.pstride + row * o.pRow + x.h * o.d * 4
    let lses := (List.range o.npart).map (fun c => s.le (dgaKey (o.lseAt c row x.h)) 4)
    let empty := lses.all (fun v => v == negInf32)
    let m := lses.foldl (fun a b => if (dec32 a).lt (dec32 b) || isNan32 b then b else a) negInf32
    let big := if empty then negInf32
      else add32 m (ln32 (s.anySum (row * 128 + x.h) (lses.map (fun v => exp32 (sub32 v m)))))
    let out := (List.range o.d).map (fun i =>
      if empty then 0
      else s.anySum ((row * 128 + x.h) * 256 + i) ((List.range o.npart).map (fun c =>
        mul32 (exp32 (sub32 (lses.getD c 0) big)) (s.le (dgaKey (pa c) + 4 * i) 4))))
    let s1 := if o.part then a.1.aePartial u (o.partAt 0 row x.h) (o.lseAt o.npart row x.h) out big
      else a.1.aeFinal u l o row x.h out
    (s1, if empty then 0x81 else a.2)) (s, 0)

/-! ## Ranges (R94, R156) -/

/-- Ranges of the rows of an entry for a run of query heads: address of the first row, stride, offset and bytes. -/
def rowRanges (e : STEntry) (a stride off n : Nat) : List (Nat × Nat) :=
  (List.range e.nrows).map (fun r => (a + (e.rowBase + r) * stride + off, n))

/-- The scale record of a page (R136). -/
def State.scaleRange (s : State) (p : Nat) (o : AeOps) (e : STEntry) (g n : Nat) : List (Nat × Nat) :=
  match s.aeLookup p o e g n with
  | .frame f => [(s.dga (s.sideRecords p f).2, 16)]
  | _ => []

/-- K (0) and V (1) bytes of one head of a page (R144). Where a line holds the bytes of several positions it is read once. -/
def State.pageRanges (s : State) (p : Nat) (o : AeOps) (e : STEntry) (g j n : Nat) (kv : List Nat) : List (Nat × Nat) :=
  match s.aeLookup p o e g n with
  | .frame f =>
    let w := o.d * o.kvF.width / 8
    kv.flatMap (fun h =>
      if o.hp * w = 256 then (List.range 64).map (fun t => (s.dga (frameKey f + h * 16384 + (t * o.hp + j) * w), w))
      else [(s.dga (frameKey f + h * 16384 + j * w), 63 * o.hp * w + w)])
  | _ => []

/-- Ranges that a unit reads. -/
def State.aeUnitIns (s : State) (u : UnitId) (l : Lane) (o : AeOps) (x : AeUnit) : List (Nat × Nat) :=
  let p := l.part
  let e := s.aeEntry o x.e
  let pol := if s.readsPolicy u o e then [(o.policy + 16 * e.slot, 16)] else []
  let tree := if o.tree = 0 then [] else [(o.tree + 8 * e.rowBase, 8 * e.nrows)]
  match l.opcode with
  | 1 =>
    let g := o.group x.h
    let k := s.keptList o x.e g
    pol ++ tree ++ (if s.blockSel u o e then [(o.listAt x.e g, 64 + 4 * k.2.2.length)] else []) ++
      rowRanges e o.q o.qRow (x.h * o.g * o.d * 2) (o.g * o.d * 2) ++
      (s.attnPages u p o x).flatMap (fun pg => s.scaleRange p o e g pg.1 ++ s.pageRanges p o e g (o.pageHead x.h) pg.1 [0, 1])
  | 2 =>
    let w := o.hp * o.d * o.kvF.width / 8
    (filledPages e).flatMap (fun n => match s.aeLookup p o e x.h n with
      | .frame f => [(s.dga (frameKey f), 64 * w)]
      | _ => [])
  | 3 =>
    if !s.blockSel u o e then pol
    else
      let pgs := partOf (s.aePages p o e x.h) x.c o.npart
      pol ++ tree ++ rowRanges e o.q o.qRow (x.h * o.hp * o.g * o.d * 2) (min o.hp (o.hkv - x.h * o.hp) * o.g * o.d * 2) ++
        pgs.flatMap (s.scaleRange p o e x.h) ++ (pgs.filter (s.scored p o e x.h)).filterMap (fun n =>
          match s.aeLookup p o e x.h n with
          | .frame f => some (s.dga (s.sideRecords p f).1, 512)
          | _ => none)
  | 4 =>
    if !s.blockSel u o e then pol
    else
      let pgs := s.aePages p o e x.h
      pol ++ tree ++ pgs.flatMap (s.scaleRange p o e x.h) ++
        (if o.slotSmall pgs then [] else pgs.map (fun n => (o.scoreAt x.e x.h + 4 * n, 4)))
  | _ =>
    (List.range o.npart).flatMap (fun c =>
      rowRanges e (o.q + c * o.pstride) o.pRow (x.h * o.d * 4) (o.d * 4) ++
        rowRanges e (o.lse + c * o.pstride) (4 * o.hq) (4 * x.h) 4)

/-- Ranges that a unit writes. -/
def State.aeUnitOuts (s : State) (u : UnitId) (l : Lane) (o : AeOps) (x : AeUnit) : List (Nat × Nat) :=
  let p := l.part
  let e := s.aeEntry o x.e
  let final (q n : Nat) : List (Nat × Nat) :=
    rowRanges e o.o o.oRow (q * o.d * o.oF.width / 8) (n * o.d * o.oF.width / 8) ++
      (if o.blocked then rowRanges e o.oScale o.sRow (q * o.d / 32) (n * o.d / 32) else [])
  let part (c q n : Nat) (lc : Nat) : List (Nat × Nat) :=
    rowRanges e (o.o + c * o.pstride) o.pRow (q * o.d * 4) (n * o.d * 4) ++
      rowRanges e (o.lse + lc * o.pstride) (4 * o.hq) (4 * q) (4 * n)
  match l.opcode with
  | 1 => if o.part then part x.c (x.h * o.g) o.g x.c else final (x.h * o.g) o.g
  | 2 =>
    (filledPages e).flatMap (fun n => match s.aeLookup p o e x.h n with
        | .frame f => [(s.dga (s.sideRecords p f).1, o.hp * o.d * 2), (s.dga ((s.sideRecords p f).2 + 8), 1)]
        | _ => [])
  | 3 =>
    if !s.blockSel u o e then []
    else
      let all := s.aePages p o e x.h
      if o.slotSmall all then [(o.listAt x.e x.h + 4, 4)]
      else (partOf all x.c o.npart).map (fun n => (o.scoreAt x.e x.h + 4 * n, 4))
  | 4 =>
    let n := if !s.blockSel u o e || o.slotSmall (s.aePages p o e x.h) then 0 else (s.kept p o e x.e x.h).length
    [(o.listAt x.e x.h, 64 + 4 * min 5184 n)]
  | _ => if o.part then part 0 x.h 1 o.npart else final x.h 1

/-! ## Dispatch checks (R139, R143) and the job -/

/-- Checks of the step table that end BAD_OPERAND (R143). -/
def State.aeEntriesOk (s : State) (o : AeOps) : Bool :=
  let st := dgaKey o.step
  decide (o.eEnd ≤ s.stSeqs st) && (s.stEntries st o.eFirst o.eEnd).all (fun e =>
      decide (e.pos + e.nrows ≤ 8_388_608) && (o.tree == 0 || decide (e.nrows ≤ 64)))

/-- The extents of the command's other addresses (R80, R143). An address that the opcode or its settings leave unused is checked when it
is not 0. -/
def State.aeAddrs (s : State) (u : UnitId) (l : Lane) (o : AeOps) : Option Nat :=
  let ck (a n : Nat) : Option Nat := s.checkAddr l.part a (max 1 n) [0, 1] false
  let es := s.stEntries (dgaKey o.step) o.eFirst o.eEnd
  let rows := es.foldl (fun a e => max a (e.rowBase + e.nrows)) 0
  let span (stride n : Nat) : Nat := if rows = 0 then 1 else (rows - 1) * stride + n
  let slots := es.foldl (fun a e => max a (e.slot + 1)) 0
  let items := (o.eEnd - o.eFirst) * o.hg
  let opt (used : Bool) (a n : Nat) : Option Nat := if used then ck a n else if a = 0 then none else ck a 1
  let op := l.opcode
  let sel := (op == 3 || op == 4 || op == 1) && o.selAllow && s.flag u Reg.ae.optSelEn
  firstFail
    [if op = 1 ∨ op = 3 then ck o.q (span o.qRow (o.hq * o.d * 2))
     else opt (op == 5) o.q ((o.npart - 1) * o.pstride + span o.pRow (o.hq * o.d * 4)),
     opt (op == 1 || op == 5) o.o
       (if o.part then (if op = 1 then o.npart - 1 else 0) * o.pstride + span o.pRow (o.hq * o.d * 4)
        else span o.oRow (o.hq * o.d * o.oF.width / 8)),
     opt (op == 1 && o.part || op == 5) o.lse ((if op = 5 ∧ o.part then o.npart else o.npart - 1) * o.pstride + rows * 4 * o.hq),
     opt ((op == 1 || op == 5) && o.blocked) o.oScale (span o.sRow ((o.hq * o.d + 31) / 32)),
     opt sel o.policy (16 * slots), opt (sel || op == 4) o.list (20800 * items), opt (sel && op != 1) o.scores (o.scoreStride * items),
     opt (o.tree != 0) o.tree (8 * rows)]

/-- One unit's work. -/
def State.aeUnit (s : State) (u : UnitId) (l : Lane) (o : AeOps) (x : AeUnit) : AeRes :=
  match l.opcode with
  | 1 => s.attnUnit u l o x
  | 2 => s.summariseUnit u l o x
  | 3 => s.scoreUnit u l o x
  | 4 => s.pickUnit u l o x
  | _ => s.mergeUnit u l o x

/-- The units of a lane in order; a poisoning status ends the lane. Each unit takes its own open orders. -/
def State.aeRun (s : State) (u : UnitId) (l : Lane) (o : AeOps) : List AeUnit → Nat → State × Nat
  | [], st => (s, st)
  | x :: r, st =>
    let y := s.aeUnit u l o x
    if poisoning y.2 then y
    else State.aeRun (({ y.1 with freeIdx := y.1.freeIdx + 1 } : State).count u 0 1) u l o r (if st = 0 then y.2 else st)

/-- The job of an AE lane. -/
def State.aeJob (s : State) (l : Lane) : Job :=
  let u : UnitId := ⟨.ae, l.phys⟩
  if !decide (1 ≤ l.opcode ∧ l.opcode ≤ 5) then .bad 4 []
  else
    let o := s.aeOps l
    let record := firstFail [need (o.fieldsOk l.opcode), s.addr64 l.part o.aux 128, need (o.auxOk l.opcode)]
    let table := s.checkAddr l.part o.step (64 + 32 * o.eEnd) [0, 1] false
    let us := l.aeUnits o
    match firstFail [record, table, need (s.aeEntriesOk o), s.aeAddrs u l o] with
    | some e => .bad e (if record.isSome || table.isSome then [] else us.flatMap (s.aeUnitOuts u l o))
    | none =>
      { reject := none
        ins := (o.aux, 128) :: (o.step, 64 + 32 * o.eEnd) :: us.flatMap (s.aeUnitIns u l o)
        outs := us.flatMap (s.aeUnitOuts u l o)
        inPlace := if l.opcode = 2 then us.flatMap (fun x =>
          let e := s.aeEntry o x.e
          (filledPages e).flatMap (s.scaleRange l.part o e x.h)) else []
        run := fun t => t.aeRun u l o us 0 }

/-- Runs an attention engine's head lane, and counts corrected buffer errors (R160, R161). It waits while the page engine that translates
for it is frozen (R336). -/
def State.runAe (s : State) (u : UnitId) (covers : Nat → Bool) (ev : LaneEv) : State :=
  if s.lookupsHeld u then s else (s.runJob u covers ev State.aeJob).correct u 11 ev.corrected

/-- ATTN (R144, R150); an opcode that the class does not have ends FORMAT_ERROR here (R139). -/
def execAttn (u : UnitId) (ev : LaneEv) (s : State) : Host.Outcome State Fault Refusal :=
  atUnit .ae u s (s.runAe u (fun op => op != 2 && op != 3 && op != 4 && op != 5) ev)

/-- SUMMARISE (R147). -/
def execSummarise (u : UnitId) (ev : LaneEv) (s : State) : Host.Outcome State Fault Refusal := atUnit .ae u s (s.runAe u (fun op => op == 2) ev)

/-- SCORE (R148). -/
def execScore (u : UnitId) (ev : LaneEv) (s : State) : Host.Outcome State Fault Refusal := atUnit .ae u s (s.runAe u (fun op => op == 3) ev)

/-- PICK (R149). -/
def execPick (u : UnitId) (ev : LaneEv) (s : State) : Host.Outcome State Fault Refusal := atUnit .ae u s (s.runAe u (fun op => op == 4) ev)

/-- MERGE (R152). -/
def execMerge (u : UnitId) (ev : LaneEv) (s : State) : Host.Outcome State Fault Refusal := atUnit .ae u s (s.runAe u (fun op => op == 5) ev)

/-! ## Page-engine lanes that rest on lists and summaries -/

/-- PREFETCH (R329, R334): queues promotions of the listed pages of the covered entries. The lists' head groups are the VPNs of the
layer, LH being layers × HG; how many a list area holds for an entry is not among the lane's operands: it is taken from the pages' layout
(DEDUCED, log entry 50). -/
def State.prefetch (s : State) (l : Lane) (hg : Nat) : State × Bool :=
  let st := dgaKey (l.op 16 8)
  let lay := l.op 36 2
  let es := (List.range (l.op 34 2 - l.op 32 2)).flatMap (fun i => (List.range hg).map (fun g => (i, g)))
  es.foldl (fun a ig =>
    let e := s.stEntry st (l.op 32 2 + ig.1)
    let k := dgaKey (l.op 24 8) + (ig.1 * hg + ig.2) * 20800
    let n := if bit (s.le (k + 4) 4) 0 then 0 else min 5184 (s.le k 4)
    (List.range n).foldl (fun a i =>
      match s.localPage l.part (s.le (k + 64 + 4 * i) 4) with
      | none => a
      | some n' =>
        match (a.1.pgePart l.part).entry e.slot (n' * s.lh l.part + lay * hg + ig.2) with
        | none => a
        | some pe =>
          let f := (a.1.pgePart l.part).follow pe.frame 4
          if frameTier f = 2 then
            let r := a.1.promote l.part f
            (r.1, a.2 && r.2)
          else a) a) (s, true)

/-- What a PREFETCH lane reads: the step table, and head and pages of each kept list. -/
def State.prefetchIns (s : State) (l : Lane) (hg : Nat) : List (Nat × Nat) :=
  (l.op 16 8, 64 + 32 * l.op 34 2) :: (List.range ((l.op 34 2 - l.op 32 2) * hg)).map (fun i =>
    let a := l.op 24 8 + i * 20800
    let k := dgaKey a
    (a, 64 + (if bit (s.le (k + 4) 4) 0 then 0 else 4 * min 5184 (s.le k 4))))

/-- The dispatch checks of a PREFETCH lane: those of the class, and its kept lists (R80, R149). -/
def State.prefetchCheck (s : State) (l : Lane) (hg : Nat) : Option Nat :=
  (pgeChecks s l).or (s.checkAddr l.part (l.op 24 8) (max 1 ((l.op 34 2 - l.op 32 2) * hg * 20800)) [0, 1] false)

/-- PREFETCH. HG follows from the pages' layout: heads held in a page, as KV_WRITE last wrote it. It waits while its engine is frozen or a
line it reads is held. -/
def execPrefetch (u : UnitId) (s : State) : Host.Outcome State Fault Refusal :=
  atUnit .pge u s (
    match (s.unit u).queue with
    | [] => s
    | h :: _ =>
      let hg := max 1 (s.pgePart h.part).kvGroups
      if h.opcode ≠ 2 || s.frozen u || ((s.prefetchCheck h hg).isNone && s.heldIn (s.prefetchIns h hg)) then s
      else s.runLane u (fun l s =>
        match s.prefetchCheck l hg with
        | some e => (e, s)
        | none =>
          let m := s.readAll clsSys (s.prefetchIns l hg)
          let r := m.1.prefetch l hg
          if m.2 then (0x03, r.1)
          else if m.1.poisonedIn (s.prefetchIns l hg) then (0x02, r.1.irq u 4)
          else (if r.2 then 0 else 0x80, r.1)))

/-- SUMMARY_RECOMPUTE (R318): once all 64 positions of a queued page are committed, its summary is formed as R147 says. -/
def execSummaryRecompute (part slot n : Nat) (s : State) : Host.Outcome State Fault Refusal :=
  .next (
    let g := s.pgePart part
    let committed := (s.slotClass part slot).2
    match s.localPage part n with
    | none => s
    | some n' =>
      if !g.resum.contains (slot, n) || decide (committed < 64 * n + 64) then s
      else
        let o : AeOps :=
          { q := 0, o := 0, step := 0, aux := 0, eFirst := 0, eEnd := 0, layer := 0, hq := 1, hkv := 1,
            shape := g.kvD + g.kvCode * 8, tail := 0, policy := 0, list := 0, scores := 0, tree := 0, lse := 0, oScale := 0,
            pstride := 0, scoreStride := 0, window := 0, qStride := 0, oStride := 0, smScale := 0, parts := 1, oSs := 0,
            auxTail := 0 }
        let s1 := (vpnsOf n' (s.lh part)).foldl (fun t v =>
          match (t.pgePart part).entry slot v with
          | none => t
          | some e =>
            let f := (t.pgePart part).follow e.frame 4
            let side := t.sideRecords part f
            let t := (t.readAll clsSys [(t.dga (frameKey f), 16384), (t.dga side.2, 16)]).1
            let means := (List.range o.hp).flatMap (fun j => (List.range o.d).map (fun i =>
              mul32 (t.anySum (v * 65536 + j * 256 + i) ((List.range 64).map (fun i' => t.kvElem part o f i' j false i))) 0x3C80_0000))
            let bad := t.anyPoison (frameKey f) 16384 || t.anyPoison side.2 16
            let t1 := t.writeMem clsSys side.1 (means.flatMap (fun m => leBytes 2 (Fmt.fp16.convert false none (dec32 m)).code)) bad
            t1.writeMem clsSys (side.2 + 8) [t1.byte (side.2 + 8) ||| 1] bad) s
        ({ s1 with freeIdx := s1.freeIdx + 1 } : State).setPge part (fun g => { g with resum := g.resum.filter (fun x => x != (slot, n)) }))

end Sys2Proof.Machine
end

