-- ==== Sys2Proof/Machine/Shuffle.lean ====
section
/-!
DEFINITION. Shuffle engines (chapter 7): COPY, QUANT, GATHER, SCATTER and KV_WRITE lanes (R175 to R182).
-/
namespace Sys2Proof.Machine

/-- The operands of an SHF lane (R176, R177). -/
structure ShfOps where
  src : Nat
  idx : Nat
  dst : Nat
  aux : Nat
  m : Nat
  n : Nat
  fmt : Nat
  x : Nat
  dScale : Nat
  weights : Nat
  sStride : Nat
  dStride : Nat
  dSs : Nat
  tblRows : Nat
  idxLimit : Nat
  kOff : Nat
  vOff : Nat
  tail : Nat
  deriving DecidableEq, Repr

/-- Reads them; every auxiliary field is zero when AUX_ADDR is 0 (R163) or fails its check (log entry 39). -/
def State.shfOps (s : State) (l : Lane) : ShfOps :=
  let aux := l.op 40 8
  let ok := decide (aux ≠ 0) && (s.addr64 l.part aux 64).isNone
  let x (o n : Nat) : Nat := s.recField ok aux o n
  { src := l.op 16 8, idx := l.op 24 8, dst := l.op 32 8, aux := aux, m := l.op 48 4, n := l.op 52 4, fmt := l.op 56 4,
    x := l.op 60 4, dScale := x 0 8, weights := x 8 8, sStride := x 0x10 4, dStride := x 0x14 4, dSs := x 0x18 2,
    tblRows := x 0x1C 4, idxLimit := x 0x20 4, kOff := x 0x24 4, vOff := x 0x28 4, tail := x 0x1A 2 + x 0x2C 20 }

def ShfOps.sCode (o : ShfOps) : Nat := bits o.fmt 0 4
def ShfOps.dCode (o : ShfOps) : Nat := bits o.fmt 4 4
def ShfOps.sF (o : ShfOps) : Fmt := (mtFmt' o.sCode).getD .fp32
where mtFmt' : Nat → Option Fmt
  | 0 => some .fp32 | 1 => some .bf16 | 2 => some .fp16 | 3 => some .e4m3 | 4 => some .e5m2 | 5 => some .e3m2
  | 6 => some .e2m3 | 7 => some .e2m1 | 9 => some .int4 | _ => none
def ShfOps.dF (o : ShfOps) : Fmt := (ShfOps.sF.mtFmt' o.dCode).getD .fp32
def ShfOps.transpose (o : ShfOps) : Bool := bit o.fmt 8
def ShfOps.accum (o : ShfOps) : Bool := bit o.fmt 9
def ShfOps.idxBytes (o : ShfOps) : Nat := if bit o.fmt 10 then 8 else 4
def ShfOps.dcode (o : ShfOps) : Nat := bits o.fmt 11 3
def ShfOps.kvCode (o : ShfOps) : Nat := bits o.fmt 14 2
def ShfOps.kvh (o : ShfOps) : Nat := bits o.fmt 16 3
def ShfOps.eFirst (o : ShfOps) : Nat := bits o.m 0 16
def ShfOps.eEnd (o : ShfOps) : Nat := bits o.m 16 16
def ShfOps.layer (o : ShfOps) : Nat := bits o.x 0 16
def ShfOps.hkv (o : ShfOps) : Nat := bits o.x 16 8

/-- Row lengths in elements and strides in bytes (R177). A transposed COPY writes rows of M elements. -/
def ShfOps.dLen (o : ShfOps) (op : Nat) : Nat := if op = 1 ∧ o.transpose then o.m else o.n
def ShfOps.sBytes (o : ShfOps) : Nat := (o.n * o.sF.width + 7) / 8
def ShfOps.dBytes (o : ShfOps) (op : Nat) : Nat := (o.dLen op * o.dF.width + 7) / 8
def ShfOps.sRow (o : ShfOps) : Nat := if o.sStride = 0 then up64 o.sBytes else o.sStride
def ShfOps.dRow (o : ShfOps) (op : Nat) : Nat := if o.dStride = 0 then up64 (o.dBytes op) else o.dStride
def ShfOps.sclRow (o : ShfOps) : Nat := if o.dSs = 0 then up64 ((o.n + 31) / 32) else o.dSs * 64

/-- Element formats that COPY moves without conversion only (R178). -/
def ShfOps.narrow (o : ShfOps) : Bool := o.sCode == 5 || o.sCode == 6 || o.sCode == 7 || o.sCode == 9

/-- Formats (R178 to R180): FORMAT_ERROR otherwise. -/
def ShfOps.formatOk (o : ShfOps) (op : Nat) : Bool :=
  let conv := decide (o.sCode ≤ 4) && decide (o.dCode ≤ 4)
  match op with
  | 1 => conv || (o.narrow && o.sCode == o.dCode && !o.transpose)
  | 2 => decide (o.sCode ≤ 2) && decide (3 ≤ o.dCode ∧ o.dCode ≤ 7)
  | 3 => conv || (o.narrow && o.sCode == o.dCode)
  | 4 => if o.accum then decide (o.sCode ≤ 4) && decide (o.dCode ≤ 1) else conv || (o.narrow && o.sCode == o.dCode)
  | _ => true

/-- QUANT with block scales (R177, R178). -/
def ShfOps.blocked (o : ShfOps) : Bool := o.dScale != 0

/-- Ranges of the descriptor's fields (R176, R178, R181): BAD_OPERAND otherwise. -/
def ShfOps.fieldsOk (o : ShfOps) (op : Nat) : Bool :=
  bits o.fmt 19 13 == 0 && (op == 5 || decide (1 ≤ o.n ∧ o.n ≤ 65536)) &&
    (match op with
     | 1 => decide (o.m ≤ 65536) && o.idx == 0 && (!o.narrow || (o.n % 32 == 0 && o.x % 32 == 0))
     | 2 => decide (o.m ≤ 65536) && o.idx == 0 && o.x == 0
     | 3 => decide (o.m ≤ 1_048_576) && (!o.narrow || o.n % 32 == 0)
     | 4 => decide (o.m ≤ 1_048_576) && (!o.narrow || o.n % 32 == 0)
     | _ => o.n == 0 && decide (o.dcode ≤ 4) && decide (o.kvCode ≤ 2) && (o.kvCode != 2 || decide (headDim o.dcode ≤ 128)) &&
        decide (1 ≤ o.hkv ∧ o.hkv ≤ 32) && decide (o.layer ≤ 1023) && decide (o.eFirst ≤ o.eEnd))

/-- Ranges of the auxiliary record's fields (R177): BAD_OPERAND otherwise. -/
def ShfOps.auxOk (o : ShfOps) (op : Nat) : Bool :=
  o.tail == 0 && o.sStride % 64 == 0 && o.dStride % 64 == 0 && (op != 2 || decide (o.dCode ≤ 4) || o.dScale != 0) &&
    (op != 5 || (o.kOff % 2 == 0 && o.vOff % 2 == 0))

/-! ## COPY, QUANT, GATHER, SCATTER -/

/-- A row moved from a source address to codes of the destination format: unchanged between equal formats, else converted. NaN elements
count either way (R75). -/
def State.moved (s : State) (l : Lane) (o : ShfOps) (a : Nat) : List Conv :=
  (List.range o.n).map (fun i =>
    if o.sF = o.dF then ⟨s.elem (dgaKey a) o.sF.width i, false, (s.val o.sF (dgaKey a) i).isNan⟩
    else o.dF.convert l.sat none (s.val o.sF (dgaKey a) i))

/-- Counts what a row's conversion saturated or made NaN (R195). -/
def State.shfCount (s : State) (u : UnitId) (cs : List Conv) : State :=
  (s.count u 7 (satCount cs)).count u 8 ((cs.filter (fun c => c.nan)).length)

/-- Source row r of a COPY (R178). -/
def State.copyRow (s : State) (u : UnitId) (l : Lane) (o : ShfOps) (r : Nat) : State :=
  let cs := s.moved l o (o.src + r * o.sRow)
  let w := o.dF.width
  let s1 :=
    if o.transpose then
      (cs.zip (List.range o.n)).foldl (fun t c =>
        t.writeMem clsEng (dgaKey o.dst + c.2 * o.dRow 1 + (o.x + r) * w / 8) (leBytes (w / 8) c.1.code) false) s
    else s.writeCodes clsEng (dgaKey o.dst + r * o.dRow 1 + o.x * w / 8) w (cs.map (fun c => c.code)) packCodes
  s1.shfCount u cs

/-- Source row r of a QUANT (R178, R74). -/
def State.quantRow (s : State) (u : UnitId) (l : Lane) (o : ShfOps) (r : Nat) : State :=
  let d := s.draws (l.sr && s.flag u Reg.shf.optSrEn) o.n
  let w := d.2.writeRow o.dF o.blocked l.sat l.ceil (o.dst + r * o.dRow 2) (o.dScale + r * o.sclRow)
    ((List.range o.n).map (s.rowElem o.sF (o.src + r * o.sRow))) d.1
  (w.1.count u 7 (satCount w.2.2)).count u 8 (nanCount o.dF w.2.1 w.2.2)

/-- Index entry i (R176). -/
def State.shfIdx (s : State) (o : ShfOps) (i : Nat) : Nat := s.le (dgaKey o.idx + i * o.idxBytes) 4

/-- The index reaches IDX_LIMIT. -/
def ShfOps.beyond (o : ShfOps) (ix : Nat) : Bool := o.idxLimit != 0 && decide (o.idxLimit ≤ ix)

/-- The table row that an index names (R179, R180). -/
def ShfOps.tableRow (o : ShfOps) (ix : Nat) : Option Nat := if o.x ≤ ix ∧ ix < o.x + o.tblRows then some (ix - o.x) else none

/-- Index entry i of a GATHER (R179). -/
def State.gatherRow (s : State) (u : UnitId) (l : Lane) (o : ShfOps) (i : Nat) : State :=
  let cs : List Conv :=
    match o.tableRow (s.shfIdx o i) with
    | some r => s.moved l o (o.src + r * o.sRow)
    | none => List.replicate o.n ⟨0, false, false⟩
  (s.writeCodes clsEng (dgaKey o.dst + i * o.dRow 3) o.dF.width (cs.map (fun c => c.code)) packCodes).shfCount u cs

/-- The entries of a SCATTER lane: those whose destination row d satisfies d mod S = l (R180). -/
def State.scatterEntries (s : State) (l : Lane) (o : ShfOps) : List Nat :=
  (List.range o.m).filter (fun i => ((s.shfIdx o i : Int) - o.x) % ((l.spanM1 : Int) + 1) == l.lane)

/-- Index entry i of a SCATTER (R180). -/
def State.scatterRow (s : State) (u : UnitId) (l : Lane) (o : ShfOps) (i : Nat) : State :=
  match o.tableRow (s.shfIdx o i) with
  | none => s
  | some d =>
    let a := dgaKey o.dst + d * o.dRow 4
    let w := if o.weights = 0 then 0x3F80_0000 else s.le (dgaKey o.weights + 4 * i) 4
    let cs := if o.accum
      then (List.range o.n).map (fun k => o.dF.convert l.sat none
        (dec32 (add32 (rne32 (s.val o.dF a k)) (mul32 w (s.rowElem o.sF (o.src + i * o.sRow) k)))))
      else s.moved l o (o.src + i * o.sRow)
    (s.writeCodes clsEng a o.dF.width (cs.map (fun c => c.code)) packCodes).shfCount u cs

/-! ## KV_WRITE (R181, R182) -/

/-- HP, HG, D and the KV format. -/
def ShfOps.d (o : ShfOps) : Nat := headDim o.dcode
def ShfOps.kvF (o : ShfOps) : Fmt := kvFmt o.kvCode
def ShfOps.hp (o : ShfOps) : Nat := headsPerPage o.d (o.kvF.width / 8)
def ShfOps.hg (o : ShfOps) : Nat := (o.hkv + o.hp - 1) / o.hp

/-- The lane's units: entry and head group (R181). -/
def Lane.kvUnits (l : Lane) (o : ShfOps) : List (Nat × Nat) :=
  let r := l.share ((o.eEnd - o.eFirst) * o.hg)
  (List.range (r.2 - r.1)).map (fun i => (o.eFirst + (r.1 + i) / o.hg, (r.1 + i) % o.hg))

/-- Page numbers that an entry's rows touch. -/
def entryPages (e : STEntry) : List Nat :=
  if e.nrows = 0 then [] else (List.range ((e.pos + e.nrows - 1) / 64 - e.pos / 64 + 1)).map (fun i => e.pos / 64 + i)

/-- Rows of an entry whose positions lie in page n. -/
def rowsInPage (e : STEntry) (n : Nat) : List Nat := (List.range e.nrows).filter (fun r => (e.pos + r) / 64 == n)

/-- The VPN of a page of a unit on this member. -/
def State.kvVpn (s : State) (p : Nat) (o : ShfOps) (g n : Nat) : Option Nat :=
  (s.localPage p n).map (fun n' => n' * s.lh p + o.layer * o.hg + g)

/-- A write lookup of a page of a unit: what it answers, and its effects (R310, R314). -/
def State.kvLookup (s : State) (p : Nat) (o : ShfOps) (e : STEntry) (g n : Nat) : Lookup × State :=
  match s.kvVpn p o g n with
  | none => (.notPresent, s)
  | some v => s.lookupWrite p e.slot v

/-- The state after the write lookups of a lane's units, in the order the units make them. -/
def State.kvTranslate (s : State) (p : Nat) (o : ShfOps) (us : List (Nat × Nat)) : State :=
  us.foldl (fun t x =>
    let e := s.stEntry (dgaKey o.idx) x.1
    (entryPages e).foldl (fun t n => (t.kvLookup p o e x.2 n).2) t) s

/-- Source values of a row of one KV head: K (0) or V (1), BF16 (R181). -/
def State.kvSrc (s : State) (o : ShfOps) (e : STEntry) (r head v : Nat) : List Fp :=
  (List.range o.d).map (fun i =>
    s.val .bf16 (dgaKey o.src + (e.rowBase + r) * o.sRow + (if v = 0 then o.kOff else o.vOff) + head * o.d * 2) i)

/-- The unit opens page n: it writes position 64 n (R182). -/
def opens (e : STEntry) (n : Nat) : Bool := decide (e.pos ≤ 64 * n ∧ 64 * n < e.pos + e.nrows)

/-- The exponent by which a page head's values are scaled (R182): computed when the page is opened, else that of the recorded scale. -/
def State.kvScale (s : State) (l : Lane) (o : ShfOps) (e : STEntry) (n f p head j v : Nat) : Option Int :=
  if o.kvCode = 2 then some 0
  else if opens e n then blockExp o.kvF l.ceil o.kvh ((rowsInPage e n).flatMap (fun r => s.kvSrc o e r head v))
  else
    let b := (s.byte ((s.sideRecords p f).2 + 4 * v + j)).toNat
    if b = 0xFF then none else some ((b : Int) - 127)

/-- The page heads of a head group that the module has. -/
def ShfOps.heads (o : ShfOps) (g : Nat) : List Nat := (List.range o.hp).filter (fun j => decide (g * o.hp + j < o.hkv))

/-- Writes the rows of a unit that lie in page n (R181, R182). Counters 5 and 6 count a position once for each unit, so once for each head
group: the spec does not say whether a position of several head groups counts once (DESIGN CHOICE, log entry 159). -/
def State.kvPage (s : State) (u : UnitId) (l : Lane) (o : ShfOps) (e : STEntry) (g n f : Nat) : State :=
  let p := l.part
  let hs := o.heads g
  let w := o.d * o.kvF.width / 8
  let scale (j v : Nat) : Option Int := s.kvScale l o e n f p (g * o.hp + j) j v
  let rows := rowsInPage e n
  let work := rows.flatMap (fun r => hs.flatMap (fun j => [(r, j, 0), (r, j, 1)]))
  let s1 := work.foldl (fun t x =>
    let d := t.draws (l.sr && s.flag u Reg.shf.optSrEn && o.kvCode != 2) o.d
    let xs := s.kvSrc o e x.1 (g * o.hp + x.2.1) x.2.2
    let cs := (xs.zip d.1).map (fun y =>
      if o.kvCode = 2 then o.kvF.convert l.sat none y.1 else blockElem o.kvF l.sat y.2 (scale x.2.1 x.2.2) y.1)
    let a := frameKey f + x.2.2 * 16384 + ((e.pos + x.1) % 64 * o.hp + x.2.1) * w
    (d.2.writeCodes clsEng a o.kvF.width (cs.map (fun c => c.code)) packCodes).shfCount u cs) s
  let s2 :=
    if opens e n then
      let sc (v : Nat) : List Byte := (List.range 4).map (fun j =>
        if o.kvCode = 2 then 0x7F
        else if hs.contains j then BitVec.ofNat 8 (storedScale (scale j v))
        else BitVec.ofNat 8 (Config.freeValue (s1.freeIdx + 4 * v + j)).toNat)
      ({ s1 with freeIdx := s1.freeIdx + 8 } : State).writeMem clsEng (s.sideRecords p f).2 (sc 0 ++ sc 1 ++ List.replicate 8 0) false
    else s1
  s2.count u 5 rows.length

/-- A KV_WRITE unit; false when a present position had no frame (R181). -/
def State.kvUnit (s : State) (u : UnitId) (l : Lane) (o : ShfOps) (x : Nat × Nat) : State × Bool :=
  let e := s.stEntry (dgaKey o.idx) x.1
  (entryPages e).foldl (fun a n =>
    if !a.2 then a
    else
      let r := a.1.kvLookup l.part o e x.2 n
      match r.1 with
      | .notPresent => (r.2.count u 6 (rowsInPage e n).length, true)
      | .xlateFault => (r.2, false)
      | .frame f => (r.2.kvPage u l o e x.2 n f, true)) (s, true)

/-- Ranges of the K, V and scale bytes of a unit's pages, in the state after translation: written, or only the records read. -/
def State.kvRanges (s : State) (p : Nat) (o : ShfOps) (x : Nat × Nat) (written : Bool) : List (Nat × Nat) :=
  let e := s.stEntry (dgaKey o.idx) x.1
  let w := o.d * o.kvF.width / 8
  (entryPages e).flatMap (fun n =>
    match (s.kvLookup p o e x.2 n).1 with
    | .frame f =>
      let rec' := (s.dga (s.sideRecords p f).2, 16)
      if written then
        (if opens e n then [rec'] else []) ++ (rowsInPage e n).flatMap (fun r => (o.heads x.2).flatMap (fun j =>
          [(s.dga (frameKey f + ((e.pos + r) % 64 * o.hp + j) * w), w), (s.dga (frameKey f + 16384 + ((e.pos + r) % 64 * o.hp + j) * w), w)]))
      else if opens e n || o.kvCode == 2 then [] else [rec']
    | _ => [])

/-! ## The job -/

/-- Ranges read by a lane, beyond the auxiliary record. -/
def State.shfIns (s : State) (l : Lane) (o : ShfOps) : List (Nat × Nat) :=
  match l.opcode with
  | 1 => (l.rowsOf o.m).map (fun r => (o.src + r * o.sRow, o.sBytes))
  | 2 => (l.rowsOf o.m).map (fun r => (o.src + r * o.sRow, o.sBytes))
  | 3 =>
    let r := l.share o.m
    (o.idx + r.1 * o.idxBytes, (r.2 - r.1) * o.idxBytes) :: (l.rowsOf o.m).flatMap (fun i =>
      match o.tableRow (s.shfIdx o i) with | some r => [(o.src + r * o.sRow, o.sBytes)] | none => [])
  | 4 => (o.idx, o.m * o.idxBytes) :: (s.scatterEntries l o).flatMap (fun i =>
      match o.tableRow (s.shfIdx o i) with
      | some _ => (o.src + i * o.sRow, o.sBytes) :: (if o.weights = 0 then [] else [(o.weights + 4 * i, 4)])
      | none => [])
  | _ =>
    let us := l.kvUnits o
    let t := s.kvTranslate l.part o us
    (o.idx, 64 + 32 * o.eEnd) :: us.flatMap (fun x =>
      let e := s.stEntry (dgaKey o.idx) x.1
      t.kvRanges l.part o x false ++ (List.range e.nrows).flatMap (fun r => (o.heads x.2).flatMap (fun j =>
        [(o.src + (e.rowBase + r) * o.sRow + o.kOff + (x.2 * o.hp + j) * o.d * 2, o.d * 2),
         (o.src + (e.rowBase + r) * o.sRow + o.vOff + (x.2 * o.hp + j) * o.d * 2, o.d * 2)])))

/-- Ranges written by a lane. -/
def State.shfOuts (s : State) (l : Lane) (o : ShfOps) : List (Nat × Nat) :=
  match l.opcode with
  | 1 => (l.rowsOf o.m).flatMap (fun r =>
      if o.transpose then (List.range o.n).map (fun j => (o.dst + j * o.dRow 1 + (o.x + r) * o.dF.width / 8, o.dF.width / 8))
      else [(o.dst + r * o.dRow 1 + o.x * o.dF.width / 8, o.dBytes 1)])
  | 2 => (l.rowsOf o.m).flatMap (fun r => (o.dst + r * o.dRow 2, o.dBytes 2) ::
      (if o.blocked then [(o.dScale + r * o.sclRow, (o.n + 31) / 32)] else []))
  | 3 => (l.rowsOf o.m).map (fun i => (o.dst + i * o.dRow 3, o.dBytes 3))
  | 4 => (s.scatterEntries l o).filterMap (fun i => (o.tableRow (s.shfIdx o i)).map (fun d => (o.dst + d * o.dRow 4, o.dBytes 4)))
  | _ =>
    let us := l.kvUnits o
    let t := s.kvTranslate l.part o us
    us.flatMap (fun x => t.kvRanges l.part o x true)

/-- The work of a lane: the state and the status. -/
def State.shfRun (s : State) (u : UnitId) (l : Lane) (o : ShfOps) : State × Nat :=
  match l.opcode with
  | 1 => ((l.rowsOf o.m).foldl (fun t r => t.copyRow u l o r) s, 0)
  | 2 => ((l.rowsOf o.m).foldl (fun t r => t.quantRow u l o r) s, 0)
  | 3 =>
    let is := l.rowsOf o.m
    let far := (is.filter (fun i => o.beyond (s.shfIdx o i))).length
    let s1 := ((is.foldl (fun t i => t.gatherRow u l o i) s).count u 3 is.length).count u 4 far
    if far = 0 then (s1, 0) else (s1.irq u (2 ^ 17), 0x80)
  | 4 =>
    let is := s.scatterEntries l o
    let far := (is.filter (fun i => o.beyond (s.shfIdx o i))).length
    let s1 := ((is.foldl (fun t i => t.scatterRow u l o i) s).count u 3 is.length).count u 4 far
    if far = 0 then (s1, 0) else (s1.irq u (2 ^ 17), 0x80)
  | _ =>
    let r := (l.kvUnits o).foldl (fun a x => let y := a.1.kvUnit u l o x; (y.1, a.2 && y.2)) (s, true)
    let s1 := r.1.setPge l.part (fun g =>
      { g with posBytes := o.hp * o.d * o.kvF.width / 8, kvD := o.dcode, kvCode := o.kvCode, kvGroups := o.hg })
    if r.2 then (s1, 0) else (s1, 0xC1)

/-- The dispatch checks of a lane (R163, R176 to R181). -/
def State.shfReject (s : State) (l : Lane) (o : ShfOps) : Option Nat :=
  let p := l.part
  let rows := if l.opcode = 1 ∧ o.transpose then o.n else o.m
  let es := s.stEntries (dgaKey o.idx) o.eFirst o.eEnd
  let kvRows := es.foldl (fun a e => max a (e.rowBase + e.nrows)) 0
  firstFail
    [need (o.fieldsOk l.opcode), s.addr64? p o.aux 64, need (o.auxOk l.opcode),
     if l.opcode = 5 then firstFail [s.addr64 p o.idx (64 + 32 * o.eEnd), need (decide (o.eEnd ≤ s.stSeqs (dgaKey o.idx)))] else none,
     (match l.opcode with
      | 3 => s.addr64 p o.src (extent o.tblRows o.sRow o.sBytes)
      | 5 => s.addr64 p o.src (extent kvRows o.sRow (max o.kOff o.vOff + o.hkv * o.d * 2))
      | _ => s.addr64 p o.src (extent o.m o.sRow o.sBytes)),
     (match l.opcode with
      | 1 => none
      | 2 => none
      | 5 => none
      | _ => s.addr64 p o.idx (o.m * o.idxBytes)),
     (match l.opcode with
      | 4 => s.addr64 p o.dst (extent o.tblRows (o.dRow 4) (o.dBytes 4))
      | 5 => s.addr64? p o.dst 1
      | 1 => s.addr64 p o.dst (extent rows (o.dRow 1) (o.dBytes 1 + o.x * o.dF.width / 8))
      | k => s.addr64 p o.dst (extent o.m (o.dRow k) (o.dBytes k))),
     s.addr64? p o.dScale (if l.opcode = 2 then extent o.m o.sclRow ((o.n + 31) / 32) else 1),
     s.addr64? p o.weights (if l.opcode = 4 then 4 * o.m else 1)]

/-- Destination rows that an accumulating SCATTER reads and writes in place (R180). -/
def State.shfInPlace (s : State) (l : Lane) (o : ShfOps) : List (Nat × Nat) :=
  if l.opcode = 4 ∧ o.accum then s.shfOuts l o else []

/-- The outputs of a lane whose index list or step table can be read at all; else they are not known. -/
def State.shfKnownOuts (s : State) (l : Lane) (o : ShfOps) : List (Nat × Nat) :=
  if l.opcode = 4 ∧ (s.addr64 l.part o.idx (o.m * o.idxBytes)).isSome then []
  else if l.opcode = 5 ∧ (s.addr64 l.part o.idx (64 + 32 * o.eEnd)).isSome then [] else s.shfOuts l o

/-- The job of an SHF lane. -/
def State.shfJob (s : State) (l : Lane) : Job :=
  let u : UnitId := ⟨.shf, l.phys⟩
  let o := s.shfOps l
  if !decide (1 ≤ l.opcode ∧ l.opcode ≤ 5) then .bad 4 []
  else if !o.formatOk l.opcode then .bad 4 (s.shfKnownOuts l o)
  else
    match s.shfReject l o with
    | some e => .bad e (s.shfKnownOuts l o)
    | none =>
      let ins := (if o.aux = 0 then [] else [(o.aux, 64)]) ++ s.shfIns l o
      let outs := s.shfOuts l o
      let both := s.shfInPlace l o
      { reject := none
        ins := ins
        outs := outs
        inPlace := both
        run := fun t =>
          let r := t.shfRun u l o
          ((r.1.count u 1 (rangeBytes ins + rangeBytes both)).count u 2 (rangeBytes outs), r.2) }

/-- Runs a Shuffle engine's head lane, and counts corrected buffer errors (R195, R196). A KV_WRITE waits while the page engine that
translates for it is frozen (R336). -/
def State.runShf (s : State) (u : UnitId) (covers : Nat → Bool) (ev : LaneEv) : State :=
  if ((s.unit u).queue.head?.map (fun l => l.opcode)) == some 5 && s.lookupsHeld u then s
  else (s.runJob u covers ev State.shfJob).correct u 9 ev.corrected

/-- SHF_COPY (R178); an opcode that the class does not have ends FORMAT_ERROR here (R175). -/
def execShfCopy (u : UnitId) (ev : LaneEv) (s : State) : Host.Outcome State Fault Refusal :=
  atUnit .shf u s (s.runShf u (fun op => !(decide (2 ≤ op ∧ op ≤ 5))) ev)

/-- QUANT (R178). -/
def execQuant (u : UnitId) (ev : LaneEv) (s : State) : Host.Outcome State Fault Refusal := atUnit .shf u s (s.runShf u (fun op => op == 2) ev)

/-- GATHER (R179). -/
def execGather (u : UnitId) (ev : LaneEv) (s : State) : Host.Outcome State Fault Refusal := atUnit .shf u s (s.runShf u (fun op => op == 3) ev)

/-- SCATTER (R180). -/
def execScatter (u : UnitId) (ev : LaneEv) (s : State) : Host.Outcome State Fault Refusal := atUnit .shf u s (s.runShf u (fun op => op == 4) ev)

/-- KV_WRITE (R181). -/
def execKvWrite (u : UnitId) (ev : LaneEv) (s : State) : Host.Outcome State Fault Refusal := atUnit .shf u s (s.runShf u (fun op => op == 5) ev)

end Sys2Proof.Machine
end

