-- ==== Sys2Proof/Machine/UtilityCore.lean ====
section
/-!
DEFINITION. Utility cores (chapter 9): launch of a kernel, and the events by which it ends or calls the runtime (R227 to R238).
The kernel's own instructions are RISC-V's: a core runs them while no command waits (Machine/CoreRun.lean). What a kernel whose
instructions are not stepped did outside its core comes with the event that ends it (log entry 53).
-/
namespace Sys2Proof.Machine

/-- Core address of a Table offset (R223). -/
def coreAddr (off : Nat) : Nat := 0x2000_0000 + off

/-- Core address of a DGA in space 1; 0 for 0. -/
def coreOf (dga : Nat) : Nat := if dga = 0 then 0 else coreAddr (dgaOff dga)

/-- The check of OUT_LIST (R229, R232). -/
def State.outListCheck (s : State) (l : Lane) : Option Nat :=
  if l.op 48 8 = 0 then none else s.checkAddr l.part (l.op 48 8) 128 [0, 1] false

/-- The ranges that OUT_LIST names: 8 entries of DGA and length (R232). A list that fails its own check is not read. -/
def State.ucOuts (s : State) (l : Lane) : List (Nat × Nat) :=
  let a := l.op 48 8
  if a = 0 ∨ (s.outListCheck l).isSome then []
  else ((List.range 8).map (fun i => (s.le (dgaKey a + 16 * i) 8, s.le (dgaKey a + 16 * i + 8) 8))).filter (fun r => r.2 != 0)

/-- A field of the image header (R228). -/
def State.image (s : State) (l : Lane) (o n : Nat) : Nat := s.le (dgaKey (l.op 16 8) + o) n

/-- Checks that end BAD_OPERAND (R229). -/
def State.imageOk (s : State) (l : Lane) : Bool :=
  let h (o n : Nat) : Nat := s.image l o n
  h 0 4 == 0x4E4C_4B58 && h 4 2 == 1 && decide (h 6 2 < 2) && h 0x1C 36 == 0 && decide (4 ≤ h 8 4 ∧ h 8 4 ≤ 1_048_576) &&
    decide (h 0xC 4 + h 0x10 4 + h 0x14 4 ≤ 61440) && decide (l.op 56 4 < h 8 4) && l.op 56 4 % 2 == 0

/-- While partition p is sealed, or on the way there or back, an image lies wholly inside a KERNEL object (R499). -/
def State.kernelSealOk (s : State) (p k n : Nat) : Bool :=
  s.get secU (Reg.sec.partSealState.at p) == 0 || (s.secPart p).kernels.any (fun r => decide (r.1 ≤ k ∧ k + n ≤ r.1 + r.2))

/-- Bytes of an image: header, text, and data 64-byte aligned after it. -/
def State.imageBytes (s : State) (l : Lane) : Nat := up64 (64 + s.image l 8 4) + s.image l 0xC 4

/-- The first dispatch check of a RUN lane that fails. -/
def State.ucReject (s : State) (l : Lane) : Option Nat :=
  let p := l.part
  let im := l.op 16 8
  if l.opcode ≠ 1 then some 4
  else firstFail
    [need (im % 64 == 0), s.checkAddr p im 64 [1] false, need (s.imageOk l), s.checkAddr p im (s.imageBytes l) [1] false,
     if s.kernelSealOk p (dgaKey im) (s.imageBytes l) then none else some 6,
     if l.op 24 8 = 0 then none else s.checkAddr p (l.op 24 8) 1 [1] false,
     s.outListCheck l]

/-- The kernel's budget (R233). -/
def State.ucBudget (s : State) (u : UnitId) (l : Lane) : Nat :=
  let top := max 1 (s.get u Reg.uc.optBudgetMax)
  let img := if s.image l 0x18 4 = 0 then top else s.image l 0x18 4
  min top (if l.op 60 4 = 0 then img else l.op 60 4)

/-- The x registers that the runtime sets (R230): sp and a0 to a5. -/
def launchX (l : Lane) : List (Nat × Nat) :=
  [(2, 0xF000), (10, l.lane), (11, l.spanM1 + 1), (12, l.op 32 8), (13, l.op 40 8), (14, coreOf (l.op 24 8)), (15, l.stepTag)]

/-- The registers as the runtime enters a kernel (R230). Those that it does not set are free (log entry 191); the vector unit is in its reset
state (DESIGN CHOICE, log entry 191: registers of zero, vill set, vl 0); frm is to nearest (R222). -/
def launchHart (free pc : Nat) (l : Lane) : Hart :=
  { pc := BitVec.ofNat 64 pc
    x := (launchX l).foldl (fun x r => x.setIfInBounds r.1 (BitVec.ofNat 64 r.2)) (Vector.ofFn (fun i : Fin 32 => Config.freeValue (free + i.val)))
    f := Vector.ofFn (fun i : Fin 32 => Config.freeValue (free + 32 + i.val))
    v := Vector.replicate 256 0
    fflags := 0, frm := 0, vxrm := 0, vxsat := false, vstart := 0, vl := 0
    vtype := ⟨true, false, false, 0, 0⟩
    instret := Config.freeValue (free + 64) }

/-- The kernel as the runtime enters it (R230). -/
def State.launch (s : State) (u : UnitId) (l : Lane) : Kernel :=
  let im := dgaKey (l.op 16 8)
  let d := s.image l 0xC 4
  { hart := launchHart s.freeIdx (coreAddr (dgaOff (l.op 16 8)) + 64 + l.op 56 4) l
    poisonSeen := s.anyPoison im (s.imageBytes l) || (l.op 48 8 != 0 && s.anyPoison (dgaKey (l.op 48 8)) 128)
    lmem := Sparse.setRun memDefault [] 0 (s.bytes (im + up64 (64 + s.image l 8 4)) d)
    budget := s.ucBudget u l }

/-- As many free values are spent. -/
def State.useFree (s : State) (n : Nat) : State := { s with freeIdx := s.freeIdx + n }

/-- The core holds a kernel just entered, whose registers have taken their free values. -/
def State.enterKernel (s : State) (u : UnitId) (k : Kernel) : State := (s.setUnit u (fun x => { x with kernel := some k })).useFree 65

/-- The head lane of a core, while a kernel runs on it. -/
def State.kernelOn (s : State) (u : UnitId) : Option (Lane × Kernel) :=
  match (s.unit u).queue, (s.unit u).kernel with
  | l :: _, some k => if l.status.isSome then none else some (l, k)
  | _, _ => none

/-- Ends the running lane of a core with a status: the ranges of OUT_LIST are marked under a poisoning status, LAST.STATUS keeps it. -/
def State.endKernel (s : State) (u : UnitId) (l : Lane) (st : Nat) : State :=
  let bad := poisoning st
  let s1 := if bad then (s.poisonOuts l.part (s.ucOuts l)).put u Reg.uc.lastStatus st else s
  (s1.setUnit u (fun x => { x with kernel := none, queue := x.queue.modifyHead (fun (l : Lane) => { l with status := some st }) })).sawPoison u st (s.ucOuts l)

/-- What the runtime reads of the Table to start a kernel: header, text and data of the image, and the list of output ranges. -/
def State.launchReads (s : State) (l : Lane) : List (Nat × Nat) :=
  (l.op 16 8, s.imageBytes l) :: (if l.op 48 8 = 0 then [] else [(l.op 48 8, 128)])

/-- RUN (R227 to R230): the head lane is checked, and its kernel entered in U mode. Under FORCE nothing starts at a break point (R235),
and the start waits while a line of the image is held at its bank (R258). -/
def execRun (u : UnitId) (ev : LaneEv) (s : State) : Host.Outcome State Fault Refusal :=
  atUnit .uc u s (
    match (s.unit u).queue, (s.unit u).kernel with
    | l :: _, none =>
      if l.status.isSome || !(s.ustate u == stRunning || s.ustate u == stDraining) || (s.forced u && !s.inChain u) then s
      else
        let s0 := s.correct u 9 ev.corrected
        match (s.ucReject l).or ev.err with
        | some st =>
          let s1 := (s0.poisonOuts l.part (s.ucOuts l)).put u Reg.uc.lastStatus st
          (s1.setUnit u (fun x => { x with queue := x.queue.modifyHead (fun (l : Lane) => { l with status := some st }) })).sawPoison u st
            (s.ucOuts l)
        | none =>
          if s.heldIn (s.launchReads l) then s
          else
            let s1 := (s0.readAll clsUc (s.launchReads l)).1
            (s1.count u 4 (rangeBytes (s.launchReads l))).enterKernel u (s1.launch u l)
    | _, _ => s)

/-- Local memory that a kernel may reach (R223). -/
def ucLocal (a n : Nat) : Bool := decide (a + n ≤ 0xF000)

/-- A Table range that a kernel may reach (R223). -/
def State.ucTable (s : State) (p a n : Nat) : Bool :=
  decide (0x2000_0000 ≤ a) && decide (a + n ≤ 0x4000_0000) && s.inSlices p (a - 0x2000_0000) n

/-- A range that a kernel may load and store (R223). -/
def State.ucReach (s : State) (p a n : Nat) : Bool := ucLocal a n || s.ucTable p a n

/-- Memory key of a core address in the Table. -/
def coreKey (a : Nat) : Nat := key 1 (a - 0x2000_0000)

/-- The lines of a Table range are held at their banks. -/
def State.coreHeld (s : State) (a n : Nat) : Bool := !ucLocal a n && (linesOf (coreKey a) n).any (fun l => (s.holder l).any s.holds)

/-- A kernel's load: from local memory, or from the Table, where a poisoned line sets POISON_SEEN, as does a line with an uncorrectable
error, which the read poisons (R224, R250). -/
def State.ucLoad (s : State) (u : UnitId) (a n : Nat) : State × Bool :=
  if ucLocal a n then (s, false)
  else
    let s1 := (s.readAll clsUc [(2 ^ 50 * s.node + coreKey a, n)]).1
    (s1.count u 4 n, s1.anyPoison (coreKey a) n)

/-- A kernel's store to the Table clears no poison (R224). Local memory ends with the kernel (R230). -/
def State.ucStore (s : State) (u : UnitId) (a : Nat) (d : List Byte) : State :=
  if ucLocal a d.length then s
  else
    let b := coreKey a
    let bad := (linesOf b d.length).filter s.poison.contains
    (bad.foldl State.poisonLine (s.writeMem clsUc b d false)).count u 5 d.length

/-- The effects of a kernel on the Table, POISON_SEEN, and the cause and address of an access that traps. -/
structure IoEnd where
  st : State
  seen : Bool
  fault : Option (Nat × Nat)

/-- What a kernel's instructions did outside its core, loads before stores (log entry 53). An access outside the map or the partition
ends it there: a load with cause 5, a store with cause 7. -/
def State.kernelIo (s : State) (u : UnitId) (p : Nat) (k : Kernel) (io : KernelIo) : IoEnd :=
  let a := io.loads.foldl (fun (x : IoEnd) r =>
    if x.fault.isSome then x
    else if !s.ucReach p r.1 r.2 then { x with fault := some (5, r.1) }
    else
      let m := x.st.ucLoad u r.1 r.2
      { x with st := m.1, seen := x.seen || m.2 }) ⟨s, k.poisonSeen, none⟩
  io.stores.foldl (fun (x : IoEnd) w =>
    if x.fault.isSome then x
    else if !s.ucReach p w.1 w.2.length then { x with fault := some (7, w.1) }
    else { x with st := x.st.ucStore u w.1 w.2 }) a

/-- The kernel waits for a bank that holds a line it needs (R258). -/
def State.ioHeld (s : State) (io : KernelIo) : Bool :=
  io.loads.any (fun r => s.coreHeld r.1 r.2) || io.stores.any (fun w => s.coreHeld w.1 w.2.length)

/-- Those accesses of a stopped kernel that were not waiting at a bank. -/
def State.ioDone (s : State) (io : KernelIo) : KernelIo :=
  { loads := io.loads.filter (fun r => !s.coreHeld r.1 r.2), stores := io.stores.filter (fun w => !s.coreHeld w.1 w.2.length) }

/-- A trap's record (R238 to R241). -/
def State.trapped (s : State) (u : UnitId) (pc cause val : Nat) : State :=
  ((((s.put u Reg.uc.lastTrapPc pc).put u Reg.uc.lastTrapCause cause).put u Reg.uc.lastTrapVal val).count u 8 1).irq u (2 ^ 18)

/-- The lane status of an exit status (R231). -/
def exitStatus (a0 : Nat) (poisonSeen : Bool) : Nat :=
  if a0 = 0 then (if poisonSeen then 0x02 else 0)
  else if 0x80 ≤ a0 ∧ a0 ≤ 0x9F then (if poisonSeen then 0x02 else a0)
  else if 0xE0 ≤ a0 ∧ a0 ≤ 0xFF then a0
  else 0xC4

/-- A kernel whose access is out of reach ends ACCESS_FAULT (R223). Where in its text the access stood is free. -/
def State.accessFault (s : State) (u : UnitId) (l : Lane) (f : Nat × Nat) : State :=
  let w := s.fresh
  (w.2.trapped u w.1 f.1 f.2).endKernel u l 0xC2

/-- EXIT (R230, R231): stores drain, and the lane ends with the mapped status. An error inside the core takes its place. -/
def execExit (u : UnitId) (a0 : Nat) (io : KernelIo) (ev : LaneEv) (s : State) : Host.Outcome State Fault Refusal :=
  atUnit .uc u s (
    match s.kernelOn u with
    | none => s
    | some (l, k) =>
      if s.ioHeld io then s
      else
        let r := s.kernelIo u l.part k io
        let s1 := r.st.correct u 9 ev.corrected
        match ev.err, r.fault with
        | some e, _ => s1.endKernel u l e
        | none, some f => s1.accessFault u l f
        | none, none => s1.endKernel u l (exitStatus a0 r.seen))

/-- A word written to trace data, which keeps it while DEBUG.TRACE_EN is 1 (R230, R239). -/
def State.traceWord (s : State) (u : UnitId) (word : Nat) : State :=
  if s.flag u Reg.uc.debugTraceEn then s.setUnit u (fun x => { x with trace := x.trace ++ [word % 2 ^ 64] }) else s

/-- TRACE (R230). -/
def execTrace (u : UnitId) (word : Nat) (s : State) : Host.Outcome State Fault Refusal :=
  atUnit .uc u s (
    match s.kernelOn u with
    | none => s
    | some _ => s.traceWord u word)

/-- A trap ends the kernel: ACCESS_FAULT for an access fault, KERNEL_TRAP for every other cause (R238). -/
def State.kernelTrap (s : State) (u : UnitId) (l : Lane) (pc cause val : Nat) : State :=
  (s.trapped u pc cause val).endKernel u l (if [1, 5, 7].contains cause then 0xC2 else 0xC1)

/-- KERNEL_TRAP (R221, R223, R230, R238): access faults end ACCESS_FAULT, every other cause KERNEL_TRAP. -/
def execKernelTrap (u : UnitId) (pc cause val : Nat) (io : KernelIo) (s : State) : Host.Outcome State Fault Refusal :=
  atUnit .uc u s (
    match s.kernelOn u with
    | none => s
    | some (l, k) =>
      if s.ioHeld io then s
      else
        let r := s.kernelIo u l.part k io
        match r.fault with
        | some f => r.st.accessFault u l f
        | none => r.st.kernelTrap u l pc cause val)

/-- KERNEL_TIMEOUT (R233). A kernel that had reached out of its map would have ended there. -/
def execKernelTimeout (u : UnitId) (io : KernelIo) (s : State) : Host.Outcome State Fault Refusal :=
  atUnit .uc u s (
    match s.kernelOn u with
    | none => s
    | some (l, k) =>
      let r := s.kernelIo u l.part k (s.ioDone io)
      match r.fault with
      | some f => r.st.accessFault u l f
      | none => r.st.endKernel u l 0xC3)

end Sys2Proof.Machine
end

