-- ==== Sys2Proof/Machine/LaneOuts.lean ====
section
/-!
DEFINITION. The output ranges of a lane by engine class (R94), and the collective engine that takes a CE-class lane (R455, R457).
-/
namespace Sys2Proof.Machine

/-- The output ranges of a lane: DGA and bytes. Page-engine commands write no range of their own. -/
def State.laneOuts (s : State) (l : Lane) : List (Nat × Nat) :=
  match l.eclass with
  | 0 => (s.mtJob l).outs
  | 1 => (s.aeJob l).outs
  | 2 => (s.ewJob l).outs
  | 3 => (s.shfJob l).outs
  | 4 => (s.xrJob l).outs
  | 5 => (s.smpJob l).outs
  | 6 => s.ucOuts l
  | 7 => s.dmaOuts l
  | 8 => s.ceOuts l
  | _ => []

/-- The passes, rows, entries or units of a lane, as its class counts them (R104, R159, R194, R217, R334). -/
def State.laneWork (s : State) (l : Lane) : Nat :=
  match l.eclass with
  | 0 => let o := s.mtOps l; if (o.cols l).1 = (o.cols l).2 then 0 else (s.mtPasses l o).length
  | 1 => (l.aeUnits (s.aeOps l)).length
  | 2 => (l.rowsOf (s.ewOps l).m).length
  | 3 => if l.opcode = 5 then (l.kvUnits (s.shfOps l)).length else (l.rowsOf (s.shfOps l).m).length
  | 4 => (l.rowsOf (s.xrOps l).m).length
  | 5 => let o := s.smpOps l; if (s.smpRecords l o).isSome then 0 else (s.smpUnits l o).length
  | 9 => l.op 34 2 - l.op 32 2
  | _ => 0

/-- A lane with BPP = INTERNAL has an internal break point before its end: after each pass (R124), unit (R157, R215), row or group of 64
rows or entries (R165; DISPATCH has none), entry (R334), or where a DMA lane has moved enough (R300); a kernel has one at every
instruction (R235). -/
def State.innerBreaks (s : State) (l : Lane) : Bool :=
  match l.eclass with
  | 3 => decide ((if l.opcode = 5 then 1 else 64) < s.laneWork l)
  | 4 => l.opcode != 2 && decide (1 < s.laneWork l)
  | 6 => true
  | 7 =>
    let sent := match (s.unit ⟨.dma, l.phys⟩).dma with
      | some r => r.sent
      | none => 0
    (s.dmaBreaks l).any (fun i => decide (sent ≤ i))
  | _ => decide (1 < s.laneWork l)

/-- Where a CE lane goes: to the engine that serves its group, while that accepts it and the group holds fewer than four; lanes of
a REFORMING group wait in the Dealer (R455, R457, R479). -/
def State.ceTarget (s : State) (l : Lane) : CeTarget :=
  let g := l.ce.grp % 64
  let held := (List.range 4).flatMap (fun i => (s.unit (ceU i)).queue.filter (fun x => x.status.isNone && x.ce.grp % 64 == g))
  if s.gstate g = gsReforming ∨ 4 ≤ held.length then .wait else s.serving g

end Sys2Proof.Machine
end

