-- ==== Sys2Proof/Machine/Talon.lean ====
section
/-!
DEFINITION. Spares, retirement and remaps (R569 to R577), unit faults (R43, R83, R90), and error thresholds (R603). The MCC
acts by itself: it picks a spare when a unit faults, commits the remap's transaction when the spare is ready, and records the
retirement in the Discard.
-/
namespace Sys2Proof.Machine

/-! ## Dies (R19, R20, R225) -/

/-- The compute die of a physical instance. -/
def dieOf (u : UnitId) : Nat :=
  let n := match u.blk with
    | .xr => 5 | .smp => 4 | .uc => 528 | b => blkCount b / 2
  if u.ix < n then 0 else 1

/-- The 33-core cluster of a physical utility core (R225). -/
def clusterOf (u : UnitId) : Nat := if u.blk = .uc then u.ix / 33 else 0

/-- A unit is in the Talon: SPARE set, OFF, and not retired (R569). -/
def State.inTalon (s : State) (u : UnitId) : Bool :=
  s.flag u Reg.common.spare && s.ustate u == stOff && !s.flag u Reg.common.retired

/-- A spare that some remap has claimed. -/
def State.claimed (s : State) (u : UnitId) : Bool :=
  s.talon.remaps.any (fun r => r.retiring.blk == u.blk && r.spare == some u.ix)

/-- The spare that the MCC picks for a unit: own cluster, then own die, then the other die; lowest first (R225, R570). -/
def State.pickSpare (s : State) (u : UnitId) : Option Nat :=
  let free := (List.range (blkCount u.blk)).filter (fun i => s.inTalon ⟨u.blk, i⟩ && !s.claimed ⟨u.blk, i⟩)
  (free.find? (fun i => decide (u.blk = .uc) && decide (clusterOf ⟨u.blk, i⟩ = clusterOf u))).or
    ((free.find? (fun i => decide (dieOf ⟨u.blk, i⟩ = dieOf u))).or free.head?)

/-! ## The Discard (R571, R572) -/

/-- An entry as the register shows it. -/
def DiscardEnt.word (e : DiscardEnt) : Nat := e.type + e.inst * 2 ^ 16 + e.reason * 2 ^ 28 + e.boot * 2 ^ 32

/-- Enters a retirement in the Discard, or in the overflow list when the Discard is full, or nowhere that outlives the
configuration when that is full too (R572). -/
def State.discard (s : State) (u : UnitId) (reason : Nat) : State :=
  let e : DiscardEnt := ⟨blkCode u.blk, u.ix, reason, s.get bootU Reg.boot.bootCount⟩
  if s.talon.discard.length + s.talon.programming.length < 512 then
    { s with talon := { s.talon with programming := s.talon.programming ++ [e] } }
  else
    let s1 := if s.talon.overflow.length < 64 then { s with talon := { s.talon with overflow := s.talon.overflow ++ [e] } } else s
    (s1.eventM (some u) 0x3007 (fmtU (blkCode u.blk) u.ix ((s.logicalOf u).getD 0xFFFF) (s.ustate u) reason) 0).irq sprU (2 ^ 20)

/-- RETIRED is set on a unit's page: the RETIRED event, the count, and the Discard. -/
def State.markRetired (s : State) (u : UnitId) (reason : Nat) : State :=
  let s1 := (s.unitEvent u 0x3002 reason 0).count sprU 1 1
  let s2 := (s1.put u Reg.common.retired 1).put u Reg.common.spare 0
  { s2 with talon := { s2.talon with retired := s2.talon.retired ++ [u] } }.discard u reason

/-- A logical number becomes VACANT (R43, R570). -/
def State.makeVacant (s : State) (u : UnitId) (l reason : Nat) : State :=
  let s1 := (s.markRetired u reason).setState u stVacant
  let s2 := ((s1.unitEvent u 0x3004 reason 0).count sprU 2 1).irq sprU (2 ^ 17)
  let s3 := { s2 with talon := { s2.talon with
      map := Sparse.set (fun _ => 0xFFFF) s2.talon.map (blkCode u.blk * 4096 + l) 0xFFFF
      vacant := s2.talon.vacant ++ [(blkCode u.blk, l)] } }
  if u.blk = .tbl ∨ u.blk = .mem then
    ({ s3 with mem := s3.mem.filter (fun c => !s3.lost (c.1 / 256) || decide (c.1 / 2 ^ 48 = 2)) } : State).answerWaiting u
  else s3

/-! ## Remaps -/

/-- TXN.RESULT, REASON and the first offending field (R581). -/
def State.txnSet (s : State) (result reason page off : Nat) : State :=
  (((s.put ctuU Reg.ctu.txnResult result).put ctuU Reg.ctu.txnReason reason).put ctuU Reg.ctu.txnFailPage page).put ctuU Reg.ctu.txnFailOffset off

/-- The CTU's record of a transaction that the MCC opens (R578). -/
def State.mccOpens (s : State) (kind : Nat) : State :=
  let s1 := { s with txnNextId := (s.txnNextId + 1) % 65536 }
  ((s1.put ctuU Reg.ctu.txnId s.txnNextId).put ctuU Reg.ctu.txnKind kind).put ctuU Reg.ctu.txnOpener 2

/-- A transaction that the MCC opens and commits (R580). -/
def State.mccCommit (s : State) (kind : Nat) : State :=
  (((s.mccOpens kind).txnSet 1 0 0 0).count ctuU 0 1).irq ctuU (2 ^ 16)

/-- A transaction of the MCC that fails validation at a page (R581). -/
def State.mccAbort (s : State) (kind reason page : Nat) : State :=
  ((((s.mccOpens kind).txnSet 0 reason page 0).count ctuU 1 1).count ctuU 2 1).irq ctuU (2 ^ 17)

/-- Software-visible settings that pass from a retiring unit to its spare: every RW, RWX and RWT field (R575). -/
def settable (a : Acc) : Bool := a == .rw || a == .rwx || a == .rwt

/-- Copies one field's committed values, all its indices. -/
def State.copyField (s : State) (src dst : UnitId) (f : Field) : State :=
  if settable f.acc && f.reach == .page then
    (List.range f.count).foldl (fun t i => t.put dst (f.at i) (s.get src (f.at i))) s
  else s

/-- The apply of a remap (R574 step 4, R575). -/
def State.applyRemap (s : State) (r : RemapRec) : State :=
  let drop (t : State) : State := { t with talon := { t.talon with remaps := t.talon.remaps.filter (fun x => x.retiring != r.retiring) } }
  match r.spare with
  | none => drop ((s.makeVacant r.retiring r.logical r.reason).setUnit r.retiring (fun x => { x with mccFreeze := false, mccForce := false }))
  | some i =>
    let sp : UnitId := ⟨r.retiring.blk, i⟩
    let s1 := (Reg.common.all ++ blkFields sp.blk).foldl (fun t f => t.copyField r.retiring sp f) s
    let s2 := ((s1.put sp Reg.common.enable (s.get r.retiring Reg.common.enable)).put sp Reg.common.freeze
      (s.get r.retiring Reg.common.freeze)).put sp Reg.common.force (s.get r.retiring Reg.common.force)
    let s3 := (s2.put sp Reg.common.expertEn (s.get r.retiring Reg.common.expertEn)).put sp Reg.common.spare 0
    let s4 := (s3.markRetired r.retiring r.reason).setState r.retiring stOff
    let s5 := { s4 with talon := { s4.talon with
      map := Sparse.set (fun _ => 0xFFFF) s4.talon.map (blkCode sp.blk * 4096 + r.logical) i } }
    let s6 := s5.setState sp (if s5.flag sp Reg.common.enable then stRunning else stQuiesced)
    let s7 := s6.setUnit r.retiring (fun x => { x with chain := none, queue := x.queue.filter (fun l => l.status.isSome) })
    let s8 := s7.eventPM (s7.concerned sp) (some r.retiring) 0x3003
      (fmtU (blkCode sp.blk) r.retiring.ix r.logical (s7.ustate r.retiring) r.reason) i
    drop ((s8.count sprU 0 1).irq sprU (2 ^ 16))

/-- What follows the commit of a remap: a bank is frozen and copied, a device is copied, a FAULTED unit is remapped at once, and a working
one is frozen (R574). -/
def State.afterCommit (s : State) (r : RemapRec) : State :=
  let r' := { r with stage := .committed }
  let s2 := { s with talon := { s.talon with remaps := s.talon.remaps.map (fun (x : RemapRec) => if x.retiring = r.retiring then r' else x) } }
  if r.retiring.blk = .tbl then s2.setUnit r.retiring (fun x => { x with mccFreeze := true })
  else if r.retiring.blk = .mem then
    (r.spare.toList.map (fun i => (⟨.mem, i⟩ : UnitId))).foldl (fun t u => (t.put u Reg.mem.spareCopying 1).put u Reg.mem.spareCopyPtr 0)
      ((s2.put r.retiring Reg.mem.spareCopying 1).put r.retiring Reg.mem.spareCopyPtr 0)
  else if s.faulted r.retiring then s2.applyRemap r'
  else s2.setUnit r.retiring (fun x => { x with mccFreeze := true })

/-- Commits the remap of a retiring unit when no other transaction is open (R574, R576). -/
def State.commitRemap (s : State) (r : RemapRec) : State :=
  if s.txn.isSome then
    { s with talon := { s.talon with remaps := s.talon.remaps.map (fun (x : RemapRec) => if x.retiring = r.retiring then { x with stage := .ready } else x) } }
  else (s.mccCommit (if r.retiring.blk == .tbl || r.retiring.blk == .mem then 2 else 5)).afterCommit r

/-- Starts the remap of a unit that serves a logical number (R570, R574). -/
def State.startRemap (s : State) (u : UnitId) (l reason : Nat) : State :=
  if s.talon.remaps.any (fun r => r.retiring == u) then s
  else
    let add (t : State) (r : RemapRec) : State := { t with talon := { t.talon with remaps := t.talon.remaps ++ [r] } }
    match s.pickSpare u with
    | none =>
      if s.faulted u then s.makeVacant u l reason
      else (add s ⟨u, l, none, .committed, reason, 0⟩).setUnit u (fun x => { x with mccFreeze := true })
    | some i =>
      if u.blk = .tbl ∨ u.blk = .mem then
        let r : RemapRec := ⟨u, l, some i, .ready, reason, 0⟩
        let s1 := (add s r).setState ⟨u.blk, i⟩ stStarting
        s1.commitRemap r
      else (add s ⟨u, l, some i, .starting, reason, 0⟩).setState ⟨u.blk, i⟩ stStarting

/-- Retires a unit (R572): a spare leaves the Talon, a unit of a type without a Talon becomes VACANT, any other is remapped. -/
def State.retire (s : State) (u : UnitId) (reason : Nat) : State :=
  if s.flag u Reg.common.retired then s
  else if !sparable u.blk then
    if u.blk = .dma ∨ u.blk = .pge ∨ u.blk = .ce then
      match s.logicalOf u with
      | some l => s.makeVacant u l reason
      | none => (s.markRetired u reason).setState u stVacant
    else s
  else
    match s.logicalOf u with
    | some l => s.startRemap u l reason
    | none =>
      let s1 := s.markRetired u reason
      match s.talon.remaps.find? (fun r => r.retiring.blk == u.blk && r.spare == some u.ix) with
      | none => s1
      | some r =>
        let s2 := { s1 with talon := { s1.talon with remaps := s1.talon.remaps.filter (fun x => x.retiring != r.retiring) } }
        s2.startRemap r.retiring r.logical r.reason

/-! ## Faults of units (R43, R83, R90) -/

/-- The lanes on a unit end with a status, their outputs poisoned. A lane that has already ended keeps its own. -/
def State.endLanes (s : State) (u : UnitId) (st : Nat) (which : Lane → Bool) : State :=
  let dead := (s.unit u).queue.filter (fun l => l.status.isNone && which l)
  let s1 := dead.foldl (fun t l => (t.poisonOuts l.part (t.laneOuts l)).sawPoison u st (t.laneOuts l)) s
  s1.setUnit u (fun x => { x with queue := x.queue.map (fun l => if l.status.isNone && which l then { l with status := some st } else l) })

/-- A unit enters FAULTED: its lanes end UNIT_FAULT, a broken HOLD chain is remembered for the lanes still to come, and the MCC
starts its replacement with a reason of R571. -/
def State.faultUnit (s : State) (u : UnitId) (reason : Nat) : State :=
  let st := s.ustate u
  if st = stOff ∨ st = stVacant ∨ st = stFaulted then s
  else
    let x := s.unit u
    let open' := s.openChain u
    let ended := x.queue.any (fun l => l.bpp != 1 && decide (some (l.part, l.rel) = open'))
    let s1 := (s.endLanes u 9 (fun _ => true)).setState u stFaulted
    let s2 := (s1.setUnit u (fun x => { x with chain := none, asleep := false, kernel := none, dma := none })).setNet (fun n =>
      if u.blk = .dma then { n with reqs := n.reqs.map (fun q => if q.engine = u.ix then { q with live := false } else q) } else n)
    let s3 := match open', ended with
      | some (p, rel), false => s2.setPart p (fun r =>
          { r with step := r.step.map (fun (t : StepRec) =>
              { t with broken := ((List.range 10).find? (fun c => classBlk c == some u.blk)).toList.map (fun c => (c, rel)) ++ t.broken }) })
      | _, _ => s2
    (s3.unitEvent u 0x3001 reason 0).retire u reason

/-- 24 hours and one hour in nanoseconds. -/
abbrev day : Nat := 86_400_000_000_000
abbrev hour : Nat := 3_600_000_000_000

/-- Occurrences of a kind on a unit within a window that ends now. -/
def State.within (s : State) (u : UnitId) (kind window : Nat) : Nat :=
  ((s.unit u).errs.filter (fun e => e.1 == kind && decide (s.now < e.2 + window))).length

/-- Distinct rows of a Table bank that had uncorrectable errors within a day. -/
def State.badRows (s : State) (u : UnitId) : Nat :=
  (((s.unit u).errs.filter (fun e => decide (1000 ≤ e.1) && decide (s.now < e.2 + day))).map (fun e => e.1)).dedup.length

/-- A unit whose error counts reach a threshold is retired with reason ERROR_THRESHOLD; a device whose bursts fail in quick
succession enters FAULTED first (R603). -/
def State.review (s : State) (u : UnitId) : State :=
  match u.blk with
  | .tbl => if 2 ≤ s.badRows u ∨ 10_000 ≤ s.within u 5 hour then s.retire u 4 else s
  | .mem =>
    if 16 ≤ s.within u 6 1_000_000_000 then s.faultUnit u 4
    else if 256 ≤ s.within u 6 day ∨ 1_000_000 ≤ s.within u 7 hour then s.retire u 4
    else s
  | _ => if 3 ≤ s.within u 1 day ∨ 1000 ≤ s.within u 3 hour then s.retire u 4 else s

/-- The MCC reviews every unit that has errors on record. -/
def State.reviewAll (s : State) : State :=
  (s.units.filter (fun e => !e.2.errs.isEmpty)).foldl (fun t e =>
    match unitOfPage e.1 with
    | some u => t.review u
    | none => t) s

/-! ## The commands -/

/-- SPARE_READY (R574): the spare is READY, and the MCC commits the wave start with its remap entry. -/
def execSpareReady (spare : UnitId) (s : State) : Host.Outcome State Fault Refusal :=
  .next (
    match s.talon.remaps.find? (fun r => r.retiring.blk == spare.blk && r.spare == some spare.ix && r.stage == .starting) with
    | none => s
    | some r => s.commitRemap r)

/-- The unit stands at a drained break point: no issued lane, no open chain (R41). -/
def State.drained (s : State) (u : UnitId) : Bool := (s.unit u).queue.isEmpty && !s.inChain u

/-- A remap goes on (R574): one that waited commits once no transaction is open; a committed one is applied at the retiring unit's first
drained break point, or at once when it is FAULTED. -/
def State.remapGoes (s : State) (u : UnitId) : State :=
  match s.talon.remaps.find? (fun r => r.retiring == u) with
  | none => s
  | some r =>
    match r.stage with
    | .starting => s
    | .ready => s.commitRemap r
    | .committed =>
      if (u.blk == .tbl || u.blk == .mem) && r.spare.isSome then s
      else if s.faulted u || s.drained u then s.applyRemap r
      else s

/-- REMAP_DRAIN_TIMEOUT (R576): the MCC clears ENABLE and sets FORCE on the unit; the apply follows at its next break point. -/
def execRemapDrainTimeout (u : UnitId) (s : State) : Host.Outcome State Fault Refusal :=
  .next (
    match s.talon.remaps.find? (fun r => r.retiring == u && r.stage == .committed) with
    | none => s
    | some _ =>
      if s.drained u || (s.unit u).mccForce then s
      else
        let s1 := (s.setUnit u (fun x => { x with mccForce := true })).count ctuU 3 1
        if s1.ustate u = stRunning then s1.setState u stDraining else s1)

/-- DISCARD_PROGRAMMED (R572): the oldest entry being programmed is in the Discard of both link dies. -/
def execDiscardProgrammed (s : State) : Host.Outcome State Fault Refusal :=
  .next (
    match s.talon.programming with
    | [] => s
    | e :: r => { s with talon := { s.talon with discard := s.talon.discard ++ [e], programming := r } })

end Sys2Proof.Machine
end

