-- ==== Sys2Proof/Machine/Lanes.lean ====
section
/-!
DEFINITION. Issue and completion of lanes (R81 to R96, R362): the issue window, waits, command slots, stand-ins, HOLD chains,
power phases, signals, statuses.
-/
namespace Sys2Proof.Machine

/-! ## Scoreboard counters (R82) -/

/-- The counter that a plan-local ID names in a step. -/
def StepRec.counter (t : StepRec) (c : Nat) : Nat := t.granules.getD (c / 64) 0 * 64 + c % 64

/-- The value of a scoreboard counter. -/
def State.counterVal (s : State) (c : Nat) : Nat := Sparse.get (fun _ => 0) s.scoreboard c

/-- Adds to a scoreboard counter of 32 bits (R83). -/
def State.signal (s : State) (c n : Nat) : State :=
  { s with scoreboard := Sparse.set (fun _ => 0) s.scoreboard c ((s.counterVal c + n) % 2 ^ 32) }

/-- Zeroes every counter of a list of granules. -/
def State.zeroGranules (s : State) (gs : List Nat) : State :=
  { s with scoreboard := s.scoreboard.filter (fun e => !gs.contains (e.1 / 64)) }

/-- Granules that steps hold, and those that stale lanes may still signal (R82, R367). -/
def State.granulesHeld (s : State) : List Nat :=
  (List.range 8).flatMap (fun p => (match (s.part p).step with | some t => t.granules | none => []) ++ (s.part p).oldGranules)

/-- Free granules, ascending. -/
def State.granulesFree (s : State) : List Nat := (List.range 64).filter (fun g => !s.granulesHeld.contains g)

/-! ## The plan of a step -/

/-- Memory key of the plan file that a step replays. -/
def State.stepPlan (s : State) (p : Nat) (t : StepRec) : Nat :=
  (((s.part p).plans.find? (fun x => x.1 == t.pslot)).map (fun x => x.2)).getD 0

/-- A template is skipped in this step (R77, R85). -/
def StepRec.skips (t : StepRec) (m : Tmpl) : Bool :=
  m.reqPrefill && t.entries.all (fun e => e.kind == .decode) || m.reqDecode && t.entries.all (fun e => e.kind != .decode)

/-- A template stands in the issue window and has not been issued or skipped (R86). -/
def StepRec.inWindow (t : StepRec) (i : Nat) : Bool := decide (t.oldest ≤ i ∧ i < t.oldest + 512) && !t.done.contains i

/-- A template's wait is satisfied (R84). -/
def State.waitMet (s : State) (t : StepRec) (m : Tmpl) : Bool :=
  m.waitValue == 0 || decide (m.waitValue ≤ s.counterVal (t.counter m.waitId))

/-- Marks a template done and advances the oldest one over what is done. -/
def StepRec.finish (t : StepRec) (i : Nat) : StepRec :=
  let done := i :: t.done
  let oldest := (List.range 513).foldl (fun o _ => if done.contains o then o + 1 else o) t.oldest
  { t with done := done.filter (fun j => decide (oldest ≤ j)), oldest := oldest }

/-- Rows of the step's entries that hold prefill. -/
def prefillRows (es : List Entry) : Nat := es.foldl (fun a e => if e.kind = .decode then a else a + e.nrows) 0
/-- All rows. -/
def allRows (es : List Entry) : Nat := es.foldl (fun a e => a + e.nrows) 0

/-- DGA of partition p's step scratch (R340). -/
def State.scratchDga (s : State) (p : Nat) : Nat := dgaOf s.node 1 (s.get dlrU (Reg.dlr.partScratchBase.at p))

/-- The substitution values of a step (R99). -/
def State.substSrc (s : State) (p : Nat) (t : StepRec) : SubstSrc :=
  { table := s.scratchDga p, seqs := t.entries.length, decodeSeqs := (t.entries.filter (fun e => e.kind == .decode)).length,
    prefillRows := prefillRows t.entries, rows := allRows t.entries, number := t.number, scratch := s.scratchDga p,
    member := s.memberIx p,
    owned := (t.entries.filter (fun e => e.slot % s.groupSize p == s.memberIx p)).length, attempt := t.attempt }

/-- An issued copy of a template for one lane, not yet bound to a unit (R77, R78). -/
def State.laneOf (_ : State) (p : Nat) (t : StepRec) (m : Tmpl) (i l : Nat) (ops : List Byte) : Lane :=
  { part := p, tmpl := i, eclass := m.eclass, opcode := m.opcode, hdr := setBits m.hdr 12 3 p, bpp := m.bpp, phase := m.phase,
    lane := l, spanM1 := m.spanM1, rel := m.unit + l, logical := 0xFFFF, phys := 0xFFFF, stepTag := t.number % 32,
    attempt := t.attempt, sigId := t.counter m.sigId, sigInc := m.sigInc, ops := ops, status := none, stale := false }

/-! ## Power phases (R92, R515) -/

/-- A phase starts: its record is made if the predictor has none. -/
def State.phaseStart (s : State) (p : Nat) (t : StepRec) (ph : Nat) : State :=
  if s.pred.any (fun r => r.part == p && r.pslot == t.pslot && r.phase == ph) then s
  else
    let a := s.stepPlan p t
    let e := s.le (a + (s.planHdr a).phaseOff + 8 * ph) 8
    { s with pred := s.pred ++ [⟨p, t.pslot, ph, bits e 0 16 * 1000, 0, bits e 16 16, 1024, 0, 1200, 0, 0, 0⟩] }

/-- The address of a phase's entry in the plan file of a step (R93). -/
def State.phaseEntry (s : State) (p : Nat) (t : StepRec) (ph : Nat) : Nat :=
  s.stepPlan p t + (s.planHdr (s.stepPlan p t)).phaseOff + 8 * ph

/-- A phase ends: each value moves toward its sample by 2^−ALPHA (R515). The samples are measurements, and free. -/
def State.phaseEnd (s : State) (p pslot ph : Nat) : State :=
  let al := clampTo 1 6 (s.get pwrU Reg.pwr.predAlphaShift)
  let f1 := s.fresh
  let f2 := f1.2.fresh
  let f3 := f2.2.fresh
  let f4 := f3.2.fresh
  let mv (v x : Nat) : Nat := if v ≤ x then v + (x - v) / 2 ^ al else v - (v - x) / 2 ^ al
  let mine (r : PredRec) : Bool := r.part == p && r.pslot == pslot && r.phase == ph
  let past (r : PredRec) : Bool := decide (s.get pwrU Reg.pwr.droopPhaseLimit < r.stretches)
  let s1 := if s.pred.any (fun r => mine r && past r) then f4.2.count pwrU 8 1 else f4.2
  { s1 with pred := s.pred.map (fun r =>
      if mine r then
        { r with
          pMt := mv r.pMt f1.1, pRest := mv r.pRest f2.1, t := mv r.t f3.1, sens := mv r.sens f4.1, n := r.n + 1
          cut := if past r then r.cut + 10 else if r.clean + 1 = 64 then r.cut - 10 else r.cut
          clean := if past r || r.clean + 1 == 64 then 0 else r.clean + 1
          stretches := 0 }
      else r) }

/-- Lanes of a partition that are issued and not complete. -/
def State.issued (s : State) (p : Nat) : List Lane :=
  (s.units.flatMap (fun u => u.2.queue)).filter (fun l => l.part == p)

/-- No lane of a phase is left in the step: none issued, none waiting, and no template to come carries it; an abandoned step issues
nothing more. -/
def State.phaseOver (s : State) (p : Nat) (t : StepRec) (ph : Nat) : Bool :=
  let a := s.stepPlan p t
  (s.issued p).all (fun l => l.phase != ph) && t.waiting.all (fun l => l.phase != ph) &&
    (t.phase == .abandoned || (List.range (s.planHdr a).templates).all (fun i =>
      decide (i < t.oldest) || t.done.contains i ||
        (let m := s.tmpl a i; m.eclass == 10 || m.phase != ph || t.skips m)))

/-- Reports the end of every phase of a partition's step that has none of its lanes left (R92). -/
def State.endPhases (s : State) (p : Nat) : State :=
  match (s.part p).step with
  | none => s
  | some t =>
    (t.phases.filter (s.phaseOver p t)).foldl (fun u ph =>
      (u.setPart p (fun r => { r with step := r.step.map (fun t => { t with phases := t.phases.filter (fun x => x != ph) }) })).phaseEnd
        p t.pslot ph) s

/-! ## Completion (R83, R94 to R96) -/

/-- Entries of the step that a lane's work units name, for AE, SHF KV_WRITE and SMP (R142, R359): the entries from E_FIRST to
E_END cut to the lane's share. -/
def laneEntries (l : Lane) (first stop : Nat) : List Nat :=
  let n := stop - first
  let s := l.spanM1 + 1
  let lo := l.lane * n / s
  let hi := ((l.lane + 1) * n + s - 1) / s
  (List.range (hi - lo)).map (fun i => first + lo + i)

/-- Where a command's operands hold E_FIRST: the classes whose statuses name entries (R143, R181, R200). -/
def entryField (l : Lane) : Option Nat :=
  match l.eclass with
  | 1 => some 48
  | 3 => if l.opcode = 5 then some 48 else none
  | 5 => some 48
  | _ => none

/-- Slots that a poisoning status of a lane names (R359). -/
def StepRec.slotsNamed (t : StepRec) (l : Lane) : List Nat :=
  match entryField l with
  | none => []
  | some o => (laneEntries l (l.op o 2) (l.op (o + 2) 2)).filterMap (fun e => (t.entries[e]?).map (fun x => x.slot))

/-- The step learns of a poisoning status: its first one, and the slots that it names. -/
def StepRec.poisonBy (t : StepRec) (l : Lane) (st : Nat) : StepRec :=
  { t with poison := t.poison.or (some (st, l.tmpl * 256 + l.lane)), named := t.named ++ t.slotsNamed l }

/-- A LANE_STATUS event for one lane (R95, R596). -/
def State.laneStatus (s : State) (l : Lane) (number st : Nat) (u : Option UnitId) : State :=
  s.eventP l.part u 0x2001 (fmtC0 number l.tmpl l.lane 0)
    (fmtC1 st l.attempt l.logical l.phys l.eclass (s.memberIx l.part))

/-- A lane of the current step ends: it signals, whatever its status, and a poisoning status is reported. -/
def State.finishLane (s : State) (l : Lane) (st : Nat) (u : Option UnitId) : State :=
  match (s.part l.part).step with
  | none => s
  | some t =>
    let s1 := if l.sigInc = 0 then s else s.signal l.sigId l.sigInc
    if !poisoning st then s1
    else
      (s1.setPart l.part (fun r => { r with step := r.step.map (fun t => t.poisonBy l st) })).laneStatus l t.number st u

/-- A lane that was never issued ends with a status, its outputs poisoned (R90, R94, R362), and perhaps its phase with it (R92). -/
def State.endUnissued (s : State) (l : Lane) (st : Nat) : State :=
  ((s.poisonOuts l.part (s.laneOuts l)).finishLane l st none).endPhases l.part

/-- The Dealer reads n bytes of the plan file for a template during the step: what damages them is met, and a poisoned line poisons the
step (R98, R274). -/
def State.planRead (s : State) (p tmpl a n : Nat) : State :=
  let m := s.dealerReads a n
  if m.2 then
    m.1.setPart p (fun r => { r with step := r.step.map (fun t => { t with poison := t.poison.or (some (2, tmpl * 256)) }) })
  else m.1

/-- What the Dealer reads of the file to issue or skip template i: its 64 bytes, and the substitution entries that name it. -/
def State.tmplRead (s : State) (p a i : Nat) : State :=
  let h := s.planHdr a
  (((List.range h.substs).filter (fun k => bits (s.subst a k) 0 16 == i)).map (fun k => (a + h.substOff + 16 * k, 16))).foldl
    (fun t r => t.planRead p i r.1 r.2) (s.planRead p i (a + h.templateOff + 64 * i) 64)

/-- The vote that a follower's new Dealer owes for its uncommitted step: POISONED, with cause DEALER_FAILOVER (2) (R368). -/
def State.failoverVote (s : State) (p : Nat) : State :=
  match (s.part p).step with
  | none => s
  | some t =>
    if !t.owes then s
    else (s.setPart p (fun r => { r with step := some { t with owes := false, phase := .ended } })).sendLead p .vote
      [p, t.number, t.attempt, s.memberIx p, 2, 0, 0]

/-- Frees a partition's old granules once no stale lane is left, and sends a vote that waited for it (R367, R368). -/
def State.dropOldGranules (s : State) (p : Nat) : State :=
  if (s.issued p).any (fun l => l.stale) then s
  else (s.setPart p (fun r => { r with oldGranules := [] })).failoverVote p

/-- An abandoned step is over once its issued lanes have run out: pending frames are freed, and so are its granules (R363). -/
def State.endAbandoned (s : State) (p : Nat) : State :=
  match (s.part p).step with
  | none => s
  | some t =>
    if t.phase = .abandoned ∧ (s.issued p).isEmpty then
      let s1 := t.entries.foldl (fun u e => u.dropPending p e.slot) s
      (s1.setPge p (fun g => { g with resv := 0 })).setPart p (fun r => { r with step := none })
    else s

/-- Errors inside a lane that count toward a unit's retirement (R603): 0xC0 and 0xC1 of a tile; BUF_UE of AE, EW, SHF, XR and SMP;
LMEM_UE of a utility core. -/
def laneError (l : Lane) (st : Nat) : Bool :=
  match l.eclass with
  | 0 => st == 0xC0 || st == 0xC1
  | 1 => st == 0xC1
  | 2 => st == 0xC0
  | 3 => st == 0xC0
  | 4 => st == 0xC0
  | 5 => st == 0xC0
  | 6 => st == 0xC0
  | _ => false

/-- The "Lanes completed" or "Kernels completed" counter counts a lane that ends on its unit, not one that ends UNIT_FAULT
(R639, R131, R195, R218, R240, R303). -/
def lanesCounter (l : Lane) (st : Nat) : Bool :=
  st != 9 && (l.eclass == 0 || l.eclass == 2 || l.eclass == 3 || l.eclass == 4 || l.eclass == 5 || l.eclass == 6 || l.eclass == 7)

/-- The completion of the first lane of a unit that has ended. -/
def State.completeLane (s : State) (u : UnitId) (l : Lane) (st : Nat) : State :=
  let s1 := s.setUnit u (fun x =>
    { x with
      queue := x.queue.eraseP (fun y => y.status.isSome)
      kernel := none
      chain := if st == 9 then none else if l.bpp = 1 then some (l.part, l.rel) else none })
  let s2 := if lanesCounter l st then s1.count u 0 1 else s1
  let s3 := (if laneError l st then s2.note u 1 1 else s2).reviewAll
  match (s3.part l.part).step with
  | none => s3.dropOldGranules l.part
  | some t =>
    if l.stale || l.stepTag != t.number % 32 then s3.dropOldGranules l.part
    else ((s3.finishLane l st (some u)).endPhases l.part).endAbandoned l.part

/-! ## Issue (R81, R85 to R87, R362) -/

/-- The step that is running and its plan. -/
def State.running (s : State) (p : Nat) : Option StepRec :=
  match (s.part p).step with
  | some t => if t.phase = .running then some t else none
  | none => none

/-- TEMPLATE_ISSUE (R84, R86): a template of the window whose wait is met is expanded into its lanes. -/
def execTemplateIssue (part tmpl : Nat) (s : State) : Host.Outcome State Fault Refusal :=
  .next (
    match s.running part with
    | none => s
    | some t =>
      let a := s.stepPlan part t
      let m := s.tmpl a tmpl
      if decide (tmpl < (s.planHdr a).templates) && t.inWindow tmpl && s.waitMet t m && !t.skips m && m.eclass != 10 then
        let ops := s.substituted a tmpl (s.substSrc part t)
        let lanes := (List.range (m.spanM1 + 1)).map (fun l => s.laneOf part t m tmpl l ops)
        (s.tmplRead part a tmpl).setPart part
          (fun r => { r with step := r.step.map (fun t => { t.finish tmpl with waiting := t.waiting ++ lanes }) })
      else s)

/-- TEMPLATE_SKIP (R85): the whole increment of a skipped template, once its wait is met. -/
def execTemplateSkip (part tmpl : Nat) (s : State) : Host.Outcome State Fault Refusal :=
  .next (
    match s.running part with
    | none => s
    | some t =>
      let a := s.stepPlan part t
      let m := s.tmpl a tmpl
      if decide (tmpl < (s.planHdr a).templates) && t.inWindow tmpl && s.waitMet t m && t.skips m then
        ((s.tmplRead part a tmpl).signal (t.counter m.sigId) (m.sigInc * (m.spanM1 + 1))).setPart part
          (fun r => { r with step := r.step.map (fun t => t.finish tmpl) })
      else s)

/-- Command slots in use by a partition (R87). -/
def State.slotsUsed (s : State) (p : Nat) : Nat := (s.issued p).length

/-- A command slot is available to partition p: one of the 8,192 is free, and it is one of p's own 512 or one that no running
partition's guarantee holds back (R87). -/
def State.slotFree (s : State) (p : Nat) : Bool :=
  decide (((List.range 8).map s.slotsUsed).sum < 8192) &&
    (decide (s.slotsUsed p < 512) ||
      decide ((List.range 8).foldl (fun a q =>
        a + (if (s.running q).isSome then max 512 (s.slotsUsed q) else s.slotsUsed q)) 0 < 8192))

/-- NOP (R101): a DLR-class template other than STEP_END executes in the Dealer, in a command slot that it holds only meanwhile; opcodes
other than NOP end FORMAT_ERROR. -/
def execNop (part tmpl : Nat) (s : State) : Host.Outcome State Fault Refusal :=
  .next (
    match s.running part with
    | none => s
    | some t =>
      let a := s.stepPlan part t
      let m := s.tmpl a tmpl
      if decide (tmpl < (s.planHdr a).templates) && t.inWindow tmpl && s.waitMet t m && !t.skips m && m.eclass == 10 && m.opcode != 1 &&
          s.slotFree part then
        let s1 := (s.tmplRead part a tmpl).setPart part (fun r => { r with step := r.step.map (fun t => t.finish tmpl) })
        s1.finishLane (s.laneOf part t m tmpl 0 m.ops) (if m.opcode = 0 then 0 else 4) none
      else s)

/-- Units of a lane's class in its partition, in search order: from the target on, wrapping round (R362). -/
def State.candidates (s : State) (l : Lane) : List (Nat × UnitId) :=
  match classBlk l.eclass with
  | some .pge => [(0, s.homePge l.part)]
  | some .ce => match s.ceTarget l with | .engine i => [(i, ⟨.ce, i⟩)] | .wait => [] | .out => []
  | some b =>
    let us := s.unitsOf b l.part
    (us.drop l.rel ++ us.take l.rel).map (fun n => (n, ⟨b, s.physOf b n⟩))
  | none => []

/-- Lanes of one unit are issued in template order (R86): no earlier lane waits for it, and no template to come names it. -/
def State.inOrder (s : State) (p : Nat) (t : StepRec) (l : Lane) : Bool :=
  let a := s.stepPlan p t
  t.waiting.all (fun x => !(x.eclass == l.eclass && x.rel == l.rel && decide (x.tmpl < l.tmpl))) &&
    (List.range (l.tmpl - t.oldest)).all (fun i =>
      let m := s.tmpl a (t.oldest + i)
      t.done.contains (t.oldest + i) || m.eclass != l.eclass || !(decide (m.unit ≤ l.rel) && decide (l.rel ≤ m.unit + m.spanM1)))

/-- A lane writes rows to another node. -/
def State.remoteDst (s : State) (l : Lane) : Bool := s.dmaRemote l && dgaNode l.dma.dst != s.node

/-- The remote lane that DMA engine u runs comes to the internal break point where FORCE ends it: the next one from where it stands. -/
def State.stopRun (s : State) (u : UnitId) (l : Lane) : State :=
  match (s.unit u).dma with
  | none => s
  | some r => (s.setRun u (fun x => { x with stop := x.stop.or ((s.dmaBreaks l).find? (fun i => decide (r.sent ≤ i))) })).dmaGo u

/-- FORCE on a DMA engine (R300): queued lanes end at once, but for those with a remote destination, which each in its turn first write
the rest of it poisoned; the running lane goes on to its next break point. -/
def State.stopDma (s : State) (u : UnitId) : State :=
  let running := (s.unit u).dma.isSome
  match (s.unit u).queue with
  | [] => s
  | h :: _ =>
    let s1 := s.endLanes u 7 (fun l => !s.remoteDst l && !(running && decide (l = h)))
    if running then s1.stopRun u h
    else if h.status.isNone && s.remoteDst h then s1.dmaStart u (some 7)
    else s1

/-- Lanes on a unit end ABORTED_DISABLED, their outputs poisoned as a whole (R44, R91, R300); a kernel that ran leaves its status. -/
def State.stopLanes (s : State) (u : UnitId) : State :=
  if u.blk = .dma then s.stopDma u
  else
    let dead := (s.unit u).queue.filter (fun l => l.status.isNone)
    let s1 := (s.endLanes u 7 (fun _ => true)).setUnit u (fun x => { x with kernel := none })
    if u.blk = .uc ∧ dead ≠ [] then s1.put u Reg.uc.lastStatus 7 else s1

/-- The unit stands between two commands outside a chain: under FORCE the queued ones end without starting (R44). -/
def State.stopQueued (s : State) (u : UnitId) : State :=
  if u.blk != .ce && s.forced u && (s.unit u).chain.isNone then s.stopLanes u else s

/-- A unit stands at a break point, or its running lane has one before its end (R89, R91): outside a chain, with its head lane ended, not
begun, or INTERNAL with internal break points left. -/
def State.atBreak (s : State) (u : UnitId) : Bool :=
  !s.inChain u &&
    (match (s.unit u).queue with
    | [] => true
    | l :: _ => l.status.isSome || !s.begun u || (l.bpp == 2 && s.innerBreaks l))

/-- A unit under FORCE reaches a break point: everything in flight on it ends (R44, R91). -/
def State.breakPoint (s : State) (u : UnitId) : State :=
  if s.forced u && s.atBreak u then s.stopLanes u else s

/-- Takes a waiting lane off the Dealer's list. -/
def State.unwait (s : State) (p : Nat) (l : Lane) : State :=
  s.setPart p (fun r => { r with step := r.step.map (fun t =>
    { t with waiting := t.waiting.filter (fun x => !(x.tmpl == l.tmpl && x.lane == l.lane)) }) })

/-- Binds a lane to a unit and queues it there; the phase it carries starts with its first lane (R92). -/
def State.issueTo (s : State) (p : Nat) (t : StepRec) (l : Lane) (logical : Nat) (u : UnitId) : State :=
  let s1 := (s.unwait p l).setUnit u (fun x => { x with queue := x.queue ++ [{ l with logical := logical, phys := u.ix }] })
  if t.phases.contains l.phase then s1
  else
    let s2 := (s1.setPart p (fun r => { r with step := r.step.map (fun t => { t with phases := l.phase :: t.phases }) })).phaseStart p t l.phase
    if s2.pred = s1.pred then s2 else s2.planRead p l.tmpl (s.phaseEntry p t l.phase) 8

/-- A unit whose open HOLD chain takes a lane (R90). -/
def State.chainUnit (s : State) (l : Lane) : Option UnitId :=
  match classBlk l.eclass with
  | none => none
  | some b => ((List.range (blkCount b)).find? (fun i =>
      let x := s.unit ⟨b, i⟩
      x.chain == some (l.part, l.rel) || x.queue.any (fun y => y.bpp == 1 && y.part == l.part && y.rel == l.rel) &&
        !x.queue.any (fun y => y.bpp != 1 && y.part == l.part && y.rel == l.rel))).map (fun i => ⟨b, i⟩)

/-- LANE_ISSUE (R81, R86, R87, R90, R362): a waiting lane is issued to its unit or to a stand-in, or waits on. -/
def execLaneIssue (part tmpl lane : Nat) (s : State) : Host.Outcome State Fault Refusal :=
  .next (
    match s.running part with
    | none => s
    | some t =>
      match t.waiting.find? (fun l => l.tmpl == tmpl && l.lane == lane) with
      | none => s
      | some l =>
        if !s.inOrder part t l then s
        else if t.broken.contains (l.eclass, l.rel) then
          let s1 := if l.bpp = 1 then s
            else s.setPart part (fun r => { r with step := r.step.map (fun t => { t with broken := t.broken.erase (l.eclass, l.rel) }) })
          (s1.unwait part l).endUnissued l 9
        else if !s.slotFree part then s
        else
          match s.chainUnit l with
          | some u =>
            if (s.unit u).queue.length < 16 && (!s.frozen u || s.forced u) && !s.gated u
              then s.issueTo part t l ((s.logicalOf u).getD 0xFFFF) u else s
          | none =>
            let cs := s.candidates l
            match cs.find? (fun c => s.ustate c.2 == stRunning) with
            | some (n, u) =>
              if (s.unit u).queue.length < (if l.eclass = 8 then 128 else 16) && !s.frozen u && !s.gated u then s.issueTo part t l n u else s
            | none =>
              if (if l.eclass = 8 then decide (s.ceTarget l = .out)
                else cs.all (fun c => s.ustate c.2 == stFaulted || c.2.ix == 0xFFFF || s.ustate c.2 == stVacant))
              then (s.unwait part l).endUnissued l 9
              else s)

end Sys2Proof.Machine
end

