-- ==== Sys2Proof/Machine/Dealer.lean ====
section
/-!
DEFINITION. Steps (R349 to R364): forming, headers and answers, the start of an attempt, votes, commit, replay, the replay
limit, the loss of a member.
-/
namespace Sys2Proof.Machine

/-! ## Orders -/

/-- Inserts into a sorted list, behind its equals. -/
def insertLt {α : Type} (lt : α → α → Bool) (a : α) : List α → List α
  | [] => [a]
  | b :: r => if lt a b then a :: b :: r else b :: insertLt lt a r

/-- A stable sort. -/
def sortLt {α : Type} (lt : α → α → Bool) : List α → List α
  | [] => []
  | a :: r => insertLt lt a (sortLt lt r)

/-! ## Forming a step (R349 to R351) -/

/-- The module is in SERVICE (R538). -/
def State.service (s : State) : Bool := s.get bootU Reg.boot.stateMode == 2

/-- No token, outcome or event of the partition waits for ring space (R360, R385). -/
def PartRec.quiet (r : PartRec) : Bool := r.tokOut.isEmpty && r.tokWait.isEmpty && r.outWait.isEmpty && r.evtWait.isEmpty

/-- The lead may form a step for p (R349, R342, R363, R385, R392, R539, R582). -/
def State.mayForm (s : State) (p : Nat) : Bool :=
  (s.part p).step.isNone && s.pstate p == 1 && s.ustate s.dealer == stRunning && s.isLead p && s.service && !s.recovering &&
    s.ringsOn p && !(s.part p).fencing && (s.part p).quiet

/-- The plans that formation may choose: loaded, not being unloaded, not reported mismatched. -/
def State.usablePlans (s : State) (p : Nat) : List (Nat × PlanHdr) :=
  let r := s.part p
  (sortLt (fun a b => decide (a.1 < b.1)) (r.plans.filter (fun x => !r.unloading.contains x.1 && !r.mismatched.contains x.1))).map
    (fun x => (x.1, s.planHdr x.2))

/-- What formation has gathered so far. -/
structure Forming where
  entries : List Entry
  rows : Nat
  /-- slots that fail NO_PLAN (R350) -/
  fails : List Nat
  stop : Bool
  deriving DecidableEq, Repr

/-- Takes one decoding sequence (R349, R350). -/
def formDecode (cap budget : Nat) (f : Forming) (x : SlotRec) : Forming :=
  let n := min (1 + x.drafts) (8388608 - x.pos)
  if f.stop then f
  else if budget < n then { f with fails := f.fails ++ [x.slot] }
  else if f.entries.length = cap ∨ budget < f.rows + n then { f with stop := true }
  else { f with entries := f.entries ++ [⟨x.slot, .decode, x.pos, n⟩], rows := f.rows + n }

/-- Takes one prefill chunk (R349 to R351). -/
def formPrefill (cap budget chunk : Nat) (f : Forming) (x : SlotRec) : Forming :=
  let left := x.prefillEnd - x.pos
  let n0 := min left (min chunk (budget - f.rows))
  let n := if n0 < left then n0 / 64 * 64 else n0
  if f.entries.length = cap ∨ left = 0 then f
  else if n = 0 then (if f.entries.isEmpty then { f with fails := f.fails ++ [x.slot] } else f)
  else { f with entries := f.entries ++ [⟨x.slot, if n = left then .last else .chunk, x.pos, n⟩], rows := f.rows + n }

/-- The plan with the smallest MAX_ROWS that accepts a step (R349). -/
def choosePlan (ps : List (Nat × PlanHdr)) (seqs rows : Nat) : Option (Nat × PlanHdr) :=
  bestBy (fun a b => decide (a.2.maxRows < b.2.maxRows) || (a.2.maxRows == b.2.maxRows && decide (a.1 < b.1)))
    (ps.filter (fun x => decide (seqs ≤ x.2.maxSeqs) && decide (rows ≤ x.2.maxRows)))

/-- Removes last entries until a plan accepts what is left (R349); the list is given last entry first. -/
def fitPlan (ps : List (Nat × PlanHdr)) : List Entry → Option (Nat × List Entry)
  | [] => none
  | e :: r =>
    match choosePlan ps (r.length + 1) (allRows (e :: r)) with
    | some x => some (x.1, (e :: r).reverse)
    | none => fitPlan ps r

/-- Decoding entries in ascending slot order, then the prefill chunks (R100). -/
def tableOrder (es : List Entry) : List Entry :=
  sortLt (fun a b => decide (a.slot < b.slot)) (es.filter (fun e => e.kind == .decode)) ++ es.filter (fun e => e.kind != .decode)

/-- Sequences that may enter a step: acknowledged by every follower, matched, and in the right state (R348). -/
def SlotRec.ready (x : SlotRec) : Bool := x.unacked.isEmpty && x.unreported.isEmpty

/-- What the loaded plans and the policy let the lead gather (R349). -/
def State.gather (s : State) (p : Nat) (ps : List (Nat × PlanHdr)) : Forming :=
  let cap := min (max 1 (s.get dlrU (Reg.dlr.partBatchCap.at p))) (ps.foldl (fun a x => max a x.2.maxSeqs) 0)
  let budget := min (s.get dlrU (Reg.dlr.partStepTokens.at p)) (ps.foldl (fun a x => max a x.2.maxRows) 0)
  let chunk := s.get dlrU (Reg.dlr.partChunkMax.at p)
  let all := (s.part p).slots.filter SlotRec.ready
  let dec := sortLt (fun (a b : SlotRec) => rankLt [a.cls, a.lastStep, a.slot] [b.cls, b.lastStep, b.slot])
    (all.filter (fun x => x.st == .decode))
  let pre := sortLt (fun (a b : SlotRec) => rankLt [a.cls, a.order, a.slot] [b.cls, b.order, b.slot])
    (all.filter (fun x => (x.st == .admitted && x.fork == 0 || x.st == .admitted && x.nfork == 1) || x.st == .prefill))
  pre.foldl (formPrefill cap budget chunk) { dec.foldl (formDecode cap budget) ⟨[], 0, [], false⟩ with stop := false }

/-- Sequences whose abort has outlived the step that it waited for end (log entry 168). -/
def State.settleAborts (s : State) (p : Nat) : State :=
  ((s.part p).slots.filter (fun x => x.abortPending && x.st != .finishing && !(s.part p).inStep x.slot)).foldl
    (fun t x => t.endSeq p x.slot ocAborted) s

/-- Before a step is formed the Dealer reads the records of the sequences that may enter it; one whose record is poisoned fails (R607). -/
def State.checkRecords (s : State) (p : Nat) : State :=
  ((s.part p).slots.filter (fun x => x.ready && x.st != .finishing)).foldl (fun t x =>
    let m := t.dealerReads (t.recordKey p x.slot) 128
    if m.2 then m.1.endSeq p x.slot ocPoison else m.1) s

/-- A new step. -/
def newStep (number : Nat) (prev : Option Nat) (attempt pslot : Nat) (es : List Entry) (members : List Nat) (followers : List Nat) : StepRec :=
  { number := number, prev := prev, attempt := attempt, pslot := pslot, phase := .forming, entries := es, granules := [],
    oldest := 0, done := [], waiting := [], unready := members, unvoted := followers, poison := none, named := [], phases := [],
    broken := [], votedPoison := false, uncounted := false, replays := 0, afterFailover := false }

/-- The words of a step header (R25, R355). -/
def State.headerArgs (s : State) (p : Nat) (t : StepRec) : List Nat :=
  [p, t.number, (t.prev.map (· + 1)).getD 0, t.attempt, t.pslot, s.groupFields p] ++
    t.entries.flatMap (fun e => [e.slot, (match e.kind with | .decode => 0 | .chunk => 1 | .last => 2), e.pos, e.nrows])

/-- The lead asks every member, itself included, for the step's frames. -/
def State.askMembers (s : State) (p : Nat) (t : StepRec) (kind : Msg) : State :=
  (s.setPart p (fun r => { r with step := some { t with unready := List.range (s.groupSize p) } })).sendGroup p kind (s.headerArgs p t)

/-- STEP_FORM (R349): the lead forms the partition's next step. -/
def execStepForm (part : Nat) (s : State) : Host.Outcome State Fault Refusal :=
  .next (
    if !s.mayForm part then s
    else
      let ps := s.usablePlans part
      if ps.isEmpty then s
      else s.journaled (fun s0 =>
        let s := (s0.settleAborts part).checkRecords part
        let f := s.gather part ps
        let s1 := f.fails.foldl (fun t n => t.endSeq part n ocNoPlan) s
        match fitPlan ps f.entries.reverse with
        | none => s1
        | some (pslot, es0) =>
          let es := tableOrder es0
          let r := s1.part part
          let t := newStep r.nextStep r.lastCommit 0 pslot es [] (s1.followers part)
          let s2 := s1.setPart part (fun r =>
            { r with
              nextStep := r.nextStep + 1
              slots := r.slots.map (fun x =>
                if es.any (fun e => e.slot == x.slot) then
                  { x with lastStep := t.number + 1, st := if x.st = .admitted then .prefill else x.st }
                else x) })
          s2.askMembers part t .stepHeader))

/-! ## Headers and answers (R353, R355) -/

/-- Releases a member's reservation. -/
def State.release (s : State) (p : Nat) : State := s.setPge p (fun g => { g with resv := 0 })

/-- Drops a step that has not started: its number is used again. -/
def State.unform (s : State) (p : Nat) (t : StepRec) : State :=
  (s.release p).setPart p (fun r => { r with step := none, nextStep := t.number })

/-- The victim of a preemption: lowest priority class present, admitted last (R353). -/
def State.victim (s : State) (p : Nat) : Option SlotRec :=
  bestBy (fun (a b : SlotRec) => decide (b.cls < a.cls) || (a.cls == b.cls && decide (b.order < a.order)))
    ((s.part p).slots.filter (fun x => x.st != .finishing))

/-- R353, after the lead has withdrawn a refused header. -/
def State.afterRefusal (s : State) (p : Nat) (t : StepRec) : State :=
  let pre := t.entries.filter (fun e => e.kind != .decode)
  let others := (s.part p).slots.filter (fun x => !t.entries.any (fun e => e.slot == x.slot))
  match t.entries, pre.getLast? with
  | [e], _ =>
    if others.isEmpty then (s.unform p t).endSeq p e.slot ocNoMemory
    else preemptOne s
  | _, some e => (s.release p).askMembers p { t with entries := t.entries.filter (fun x => x.slot != e.slot) } .stepHeader
  | _, none => preemptOne s
where
  /-- Preempts the victim and asks again, or waits for frames when preemption is off. -/
  preemptOne (s : State) : State :=
    if !s.flag dlrU Reg.dlr.preemptEn then (s.release p).askMembers p t .stepHeader
    else
      match s.victim p with
      | none => s.unform p t
      | some x =>
        let s1 := s.preempt p x.slot
        let es := t.entries.filter (fun e => e.slot != x.slot)
        if es.isEmpty then s1.unform p t else (s1.release p).askMembers p { t with entries := es } .stepHeader

/-- STEP_ANSWER (R355): the lead receives a member's answer, its own page engine's among them. -/
def execStepAnswer (part member : Nat) (ans : Answer) (s : State) : Host.Outcome State Fault Refusal :=
  .next (
    match (s.part part).step with
    | none => s
    | some t =>
      if !s.isLead part || t.phase != .forming || !t.unready.contains member then s
      else s.journaled (fun s =>
        match ans with
        | .ready => s.setPart part (fun r => { r with step := some { t with unready := t.unready.filter (fun m => m != member) } })
        | .refused _ => ((s.sendGroup part .withdrawal [part, t.number]).afterRefusal part t).settleAborts part
        | .mismatch false =>
          let s1 := ((s.sendGroup part .withdrawal [part, t.number]).unform part t).settleAborts part
          (s1.setPart part (fun r => { r with mismatched := t.pslot :: r.mismatched })).partEvent part 0x2002 t.pslot member
        | .mismatch true => (((s.sendGroup part .withdrawal [part, t.number]).unform part t).settleAborts part).breakGroup part))

/-- A follower's plan matches a header (R355). -/
def State.planMatches (s : State) (p : Nat) (h : Header) : Bool :=
  match (s.part p).plans.find? (fun x => x.1 == h.pslot) with
  | none => false
  | some x =>
    let d := s.planHdr x.2
    d.maxSeqs == h.maxSeqs && d.maxRows == h.maxRows && d.group == h.planGroup

/-- Marks a partition's issued lanes stale: their completions will be discarded (R96, R367). Its collectives are cancelled (R475). -/
def State.markStale (s0 : State) (p : Nat) : State :=
  let s := s0.cancelPart p
  let s1 := { s with units := s.units.map (fun (e : Nat × UnitRec) =>
    (e.1, { e.2 with queue := e.2.queue.map (fun (l : Lane) => if l.part = p then { l with stale := true } else l) })) }
  s1.setPart p (fun r =>
    { r with oldGranules := if (s.issued p).isEmpty then [] else r.oldGranules ++ (match r.step with | some t => t.granules | none => []) })

/-- No HOLD chain of an attempt that has ended stays open (R90). -/
def State.endChains (s : State) (p : Nat) : State :=
  { s with units := (s.units.map (fun (e : Nat × UnitRec) =>
      (e.1, if e.2.chain.map (fun c => c.1) = some p then { e.2 with chain := none } else e.2))).filter (fun e => e.2 != {}) }

/-- A step about to run another attempt. -/
def StepRec.again (t : StepRec) (attempt : Nat) (es : List Entry) (unready followers : List Nat) : StepRec :=
  { t with attempt := attempt, phase := .forming, entries := es, oldest := 0, done := [], waiting := [], unready := unready,
           unvoted := followers, poison := none, named := [], phases := [], broken := [], votedPoison := false, uncounted := false }

/-- A follower's answer goes to the lead: 0 READY, 1 REFUSED with its need, 2 MISMATCH of the plan, 3 of the group. -/
def State.answer (s : State) (p number code need : Nat) : State := s.sendLead p .stepAnswer [p, number, s.memberIx p, code, need]

/-- A follower learns M, or that a request forked at admission, from the first entry that names its slot: it maps the matched
blocks, and forks (R323, R351, R357). -/
def State.followEntry (s : State) (p : Nat) (e : Entry) : State :=
  match (s.part p).slot? e.slot with
  | none => s
  | some x =>
    if x.st ≠ .admitted then s
    else if e.kind = .decode then
      match (s.part p).slots.find? (fun y => y.reqId == x.reqId && y.order == x.order && y.fork == 0) with
      | none => s
      | some z => (s.mapBlocks p z.slot ((x.plen - 1) / 64)).forkSeq p z.slot
    else if (s.pgePart p).pins.any (fun y => y.1 == e.slot) then s.mapBlocks p e.slot (e.pos / 64)
    else s

/-- A follower takes a new header: step table entries, reservation, answer. -/
def State.takeHeader (s0 : State) (p : Nat) (h : Header) (t : StepRec) : State :=
  let s := h.entries.foldl (fun u e => u.followEntry p e) s0
  let r := s.reserve p h.entries
  if r.2 then (r.1.setPart p (fun x => { x with step := some { t with phase := .ready } })).answer p h.number 0 0
  else (r.1.setPart p (fun x => { x with step := none })).answer p h.number 1 (s.stepNeed p h.entries)

/-- STEP_HEADER (R355, R358, R367): a follower receives a step header or a replay header. -/
def execStepHeader (part : Nat) (hdr : Header) (s : State) : Host.Outcome State Fault Refusal :=
  .next (
    let s := s.rouse
    let r := s.part part
    if s.isLead part || !s.service || s.recovering || s.pstate part != 1 || s.ustate s.dealer != stRunning then s
    else if hdr.group != s.groupFields part then s.answer part hdr.number 3 0
    else if !s.planMatches part hdr then s.answer part hdr.number 2 0
    else s.journaled (fun s =>
      match r.step with
      | none =>
        if r.lastCommit != hdr.prev then s
        else s.takeHeader part hdr (newStep hdr.number hdr.prev hdr.attempt hdr.pslot hdr.entries [] [])
      | some t =>
        if !hdr.replay || t.number != hdr.number then s
        else
          let gone := t.entries.filter (fun e => !hdr.entries.any (fun x => x.slot == e.slot))
          let s1 := gone.foldl (fun u e => u.dropPending part e.slot) (s.endChains part)
          let t1 := t.again hdr.attempt hdr.entries [] []
          if hdr.failover then
            let s2 := (t.entries.foldl (fun u e => u.dropPending part e.slot) (s1.markStale part)).release part
            s2.takeHeader part hdr { t1 with granules := [], afterFailover := true }
          else (s1.setPart part (fun x => { x with step := some { t1 with phase := .ready } })).answer part hdr.number 0 0))

/-- HEADER_WITHDRAWAL (R355): a follower releases the step's reservation and step table. A withdrawal also ends a step that
failed for good: its pending frames are freed (R316, R364). -/
def execHeaderWithdrawal (part step : Nat) (s : State) : Host.Outcome State Fault Refusal :=
  .next (
    match (s.part part).step with
    | none => s
    | some t =>
      if s.isLead part || t.number != step then s
      else
        let s1 := t.entries.foldl (fun u e => u.dropPending part e.slot) ((s.markStale part).endChains part)
        (s1.release part).setPart part (fun r => { r with step := none }))

/-! ## The start of an attempt (R82, R100, R251, R352, R355) -/

/-- n tokens of a slot's resume log from token i on, and whether they are poisoned. -/
def State.logRun (s : State) (p slot i n : Nat) : List Byte × Bool × State :=
  let a := s.logKey p slot + 4 * i
  let m := s.dealerReads a (4 * n)
  (s.bytes a (4 * n), m.2, m.1)

/-- n tokens of a prompt from token i on, and whether they are poisoned. -/
def State.promptTokens (s : State) (x : SlotRec) (i n : Nat) : List Byte × Bool × State :=
  let r := s.promptRun x.prompt i n
  (r.1, r.2.promptBad x.prompt i n, r.2)

/-- The row tokens of one entry, and whether some are read from a poisoned line (R352). -/
def State.entryTokens (s : State) (p : Nat) (e : Entry) : List Byte × Bool × State :=
  match (s.part p).slot? e.slot with
  | none => (List.replicate (4 * e.nrows) 0, false, s)
  | some x =>
    match e.kind with
    | .decode =>
      let r := match x.toks.getLast? with
        | some v => (leBytes 4 v, false, s)
        | none => s.promptTokens x (x.plen - 1) 1
      (r.1 ++ List.replicate (4 * (e.nrows - 1)) 0, r.2)
    | _ =>
      let n := min e.nrows (x.plen - e.pos)
      let a : List Byte × Bool × State := if n = 0 then ([], false, s) else s.promptTokens x e.pos n
      if n = e.nrows then a
      else
        let b := a.2.2.logRun p e.slot (e.pos + n - x.plen) (e.nrows - n)
        (a.1 ++ b.1, a.2.1 || b.2.1, b.2.2)

/-- The final-chunk bit of an entry: its last chunk is sampled (R100, R351). -/
def State.finalBit (s : State) (p : Nat) (e : Entry) : Bool :=
  e.kind == .last && (match (s.part p).slot? e.slot with | some x => x.nfork == 1 | none => false)

/-- The 32 bytes of a step-table entry (R100, R340). -/
def State.entryBytes (s : State) (p : Nat) (e : Entry) (rowBase : Nat) : List Byte :=
  leBytes 4 (e.slot + (if e.kind = .decode then 0 else 2 ^ 15) + (if s.finalBit p e then 2 ^ 16 else 0)) ++ leBytes 4 e.pos ++
    leBytes 4 e.nrows ++ leBytes 4 rowBase ++ leBytes 4 (s.ptRoot p e.slot) ++ leBytes 4 e.slot ++
    leBytes 1 (e.slot % s.groupSize p) ++ List.replicate 7 0

/-- All entries, with their row bases. -/
def State.entriesBytes (s : State) (p : Nat) : Nat → List Entry → List Byte
  | _, [] => []
  | b, e :: r => s.entryBytes p e b ++ State.entriesBytes s p (b + e.nrows) r

/-- The row token list of entries from a key on: its bytes, and the ranges whose tokens come from poisoned lines. -/
def State.rowTokens (s : State) (p a : Nat) : List Entry → List Byte × List (Nat × Nat) × State
  | [] => ([], [], s)
  | e :: r =>
    let x := s.entryTokens p e
    let y := State.rowTokens x.2.2 p (a + 4 * e.nrows) r
    (x.1 ++ y.1, (if x.2.1 then [(a, 4 * e.nrows)] else []) ++ y.2.1, y.2.2)

/-- Writes the step table and the row token list to the scratch, whose tags are cleared first. Tokens from a poisoned line are
written poisoned (R600). -/
def State.writeTables (s : State) (p : Nat) (t : StepRec) : State :=
  let h := s.planHdr (s.stepPlan p t)
  let b := key 1 (s.get dlrU (Reg.dlr.partScratchBase.at p))
  let s1 := s.tagClear b h.scratch
  let dec := (t.entries.filter (fun e => e.kind == .decode)).length
  let head := leBytes 8 t.number ++ leBytes 2 t.entries.length ++ leBytes 2 dec ++ leBytes 4 (allRows t.entries) ++
    leBytes 1 t.attempt ++ List.replicate 47 0
  let s2 := s1.writeMem clsSys b (head ++ s1.entriesBytes p 0 t.entries) false
  let a := b + 64 + 32 * h.maxSeqs
  let r := s2.rowTokens p a t.entries
  r.2.1.foldl (fun u x => u.poisonRun x.1 x.2) (r.2.2.writeMem clsSys a r.1 false)

/-- STEP_START (R355 step 4): a member whose step is READY on every member allocates its granules, zeroes them, and writes the
tables. It waits while granules are short, and after a failover while slots are stale. -/
def execStepStart (part : Nat) (s : State) : Host.Outcome State Fault Refusal :=
  .next (
    match (s.part part).step with
    | none => s
    | some t =>
      let isReady := t.phase == .ready || (s.isLead part && t.phase == .forming && t.unready.isEmpty)
      let a := s.stepPlan part t
      let need := ((s.planHdr a).counters + 63) / 64
      let stale := t.afterFailover && (s.issued part).any (fun l => l.stale)
      if !isReady || stale || (t.granules.isEmpty && decide (s.granulesFree.length < need)) then s
      else
        let gs := if t.granules.isEmpty then s.granulesFree.take need else t.granules
        let t1 := { t with granules := gs, phase := .running, poison := none }
        let s1 := ((s.zeroGranules gs).setPart part (fun r => { r with step := some t1 })).planRead part 0 a 256
        let s2 := (s1.writeTables part t1).releaseMigs part
        let s3 := s2.releaseGroups part
        if t.attempt = 0 then
          (s3.count s.dealer 8 (prefillRows t.entries)).count s.dealer 9 (allRows t.entries - prefillRows t.entries)
        else s3)

/-! ## Result records (R211, R212) -/

/-- A result record as the Dealer reads it. -/
structure Result where
  tokens : List Nat
  logprobs : List Nat
  finish : Nat
  path : List Nat
  poisoned : Bool
  deriving DecidableEq, Repr

/-- The result record that names a slot, among the first n records at a DGA. -/
def State.result (s : State) (resAddr n slot : Nat) : Result :=
  let a := dgaKey resAddr
  match (List.range n).find? (fun i => decide (bits (s.le (a + 192 * i) 4) 0 15 = slot)) with
  | none => ⟨[], [], 0, [], false⟩
  | some i =>
    let b := a + 192 * i
    let nt := min 17 (s.le (b + 4) 1)
    let acc := min 16 (s.le (b + 6) 1)
    { tokens := (List.range nt).map (fun k => s.le (b + 0x10 + 4 * k) 4)
      logprobs := (List.range nt).map (fun k => s.le (b + 0x60 + 4 * k) 4)
      finish := s.le (b + 5) 1
      path := (List.range acc).map (fun k => s.le (b + 0xA4 + k) 1)
      poisoned := s.anyPoison b 192 }

/-- An entry is sampled: a decoding entry or a final chunk (R201). -/
def State.sampled (s : State) (p : Nat) (e : Entry) : Bool := e.kind == .decode || s.finalBit p e

/-- How many entries of a step are sampled. -/
def State.nSampled (s : State) (p : Nat) (t : StepRec) : Nat := (t.entries.filter (s.sampled p)).length

/-- The Dealer reads the result records of a step (R212). -/
def State.readResults (s : State) (p : Nat) (t : StepRec) (resAddr : Nat) : State :=
  (s.readAll clsSys [(resAddr, 192 * s.nSampled p t)]).1

/-! ## Commit (R356, R357) -/

/-- The pages that held a compacted or a discarded position of an entry (R318). -/
def touchedPages (e : Entry) (newLen : Nat) (path : List Nat) : List Nat :=
  let gone := (List.range (e.pos + e.nrows - newLen)).map (fun i => (newLen + i) / 64)
  let moved := (path.zip (List.range path.length)).flatMap (fun x =>
    if x.1 = x.2 + 1 then [] else [(e.pos + x.1) / 64, (e.pos + x.2 + 1) / 64])
  (gone ++ moved).dedup

/-- One entry's commit on a member: pages, summaries, prefix blocks, sampling context, resume log (R316 to R318, R324, R199). -/
def State.commitEntry (s : State) (p : Nat) (e : Entry) (newLen : Nat) (toks path : List Nat) : State :=
  let s1 := (touchedPages e newLen path).foldl (fun t n => t.dropSummary p e.slot n) (s.compact p e.slot e.pos path)
  let s2 := s1.commitPages p e.slot newLen
  match (s2.part p).slot? e.slot with
  | none => s2
  | some x =>
    let s3 := s2.insertPrefixes p x e.pos newLen
    let ctx := key 0 ((s.area p).ctx + 20480 * e.slot)
    let s4 := if e.slot % s.groupSize p = s.memberIx p ∧ toks ≠ [] then
        (s3.appendHistory ctx (s3.le (ctx + 0x28) 4) toks).writeMem clsSys (ctx + 0x24)
          (leBytes 4 (s3.le (ctx + 0x24) 4 + toks.length) ++ leBytes 4 (s3.le (ctx + 0x28) 4 + toks.length)) false
      else s3
    (s4.appendLog p e.slot x.toks.length toks).updSlot p e.slot (fun x =>
      { x with
        pos := newLen
        toks := x.toks ++ toks
        st := if e.kind = .last then .decode else x.st })

/-- What an entry's commit is at the lead: L', tokens, logprobs, FINISH, path (R356 step 1). -/
def State.entryResult (s : State) (p : Nat) (t : StepRec) (resAddr : Nat) (e : Entry) : Nat × Result :=
  let none' : Result := ⟨[], [], 0, [], false⟩
  let ab := match (s.part p).slot? e.slot with | some x => x.abortPending | none => false
  if ab then (e.pos, none')
  else if !s.sampled p e then (e.pos + e.nrows, none')
  else
    let r := s.result resAddr (s.nSampled p t) e.slot
    if e.kind = .decode then (e.pos + r.tokens.length, r) else (e.pos + e.nrows, r)

/-- Ends a step on a member: granules and what is left of the reservation are released (R356 step 4). -/
def State.closeStep (s : State) (p : Nat) (commit : Option Nat) : State :=
  ((s.endChains p).release p).setPart p (fun r =>
    { r with step := none, lastCommit := commit.or r.lastCommit })

/-- The token records of one entry (R380). -/
def tokenRecs (x : SlotRec) (r : Result) : List TokRec :=
  (r.tokens.zip (r.logprobs.zip (List.range r.tokens.length))).map (fun k =>
    let last := decide (r.finish ≠ 0) && decide (k.2.2 + 1 = r.tokens.length)
    ⟨x.tag, k.1, k.2.1, (x.toks.length + k.2.2) % 65536, last, if last then r.finish else 0⟩)

/-- The lead's commit of one entry: the entry's commit, its token records, and its outcome if it ends (R344, R356). -/
def State.leadEntry (s : State) (p : Nat) (t : StepRec) (resAddr : Nat) (e : Entry) : State :=
  match (s.part p).slot? e.slot with
  | none => s
  | some x =>
    let lr := s.entryResult p t resAddr e
    let s1 := s.commitEntry p e lr.1 lr.2.tokens lr.2.path
    let n := x.toks.length + lr.2.tokens.length
    let s2 :=
      if x.abortPending then
        (s1.setPart p (fun r => { r with outWait := r.outWait ++ [⟨x.reqId, x.tag, x.fork, ocAborted, n, some e.slot⟩] })).updSlot p e.slot
          (fun x => { x with st := .finishing })
      else if lr.2.finish ≠ 0 then
        (s1.setPart p (fun r =>
          { r with tokOut := r.tokOut ++ tokenRecs x lr.2
                   outWait := r.outWait ++ [⟨x.reqId, x.tag, x.fork, lr.2.finish, n, some e.slot⟩] })).updSlot p e.slot
          (fun x => { x with st := .finishing })
      else s1.setPart p (fun r => { r with tokOut := r.tokOut ++ tokenRecs x lr.2 })
    if e.kind = .last ∧ x.nfork ≠ 1 ∧ !x.abortPending then s2.forkSeq p e.slot else s2

/-- The lead commits a clean step (R356). -/
def State.commitStep (s0 : State) (p : Nat) (t : StepRec) (resAddr : Nat) : State :=
  let s := s0.readResults p t resAddr
  let args := t.entries.flatMap (fun e =>
    let lr := s.entryResult p t resAddr e
    let ab := match (s.part p).slot? e.slot with | some x => x.abortPending | none => false
    [e.slot, lr.1, if ab || lr.2.finish != 0 then 1 else 0])
  let s1 := s.sendGroup p .commit ([p, t.number] ++ args)
  let s2 := t.entries.foldl (fun u e => u.leadEntry p t resAddr e) s1
  let s3 := (s2.put dlrU (Reg.dlr.partStepLow.at p) (t.number % 2 ^ 32)).count s.dealer 0 1
  (s3.closeStep p (some t.number)).pgeBalance p

/-- The lead replays a poisoned step (R358): slots with a pending abort are removed and end ABORTED. -/
def State.replayStep (s : State) (p : Nat) (t : StepRec) : State :=
  let isAb (e : Entry) : Bool := match (s.part p).slot? e.slot with | some x => x.abortPending | none => true
  let s1 := (t.entries.filter isAb).foldl (fun u e => u.endSeq p e.slot ocAborted) (s.endChains p)
  let es := t.entries.filter (fun e => !isAb e)
  if es.isEmpty then (s1.sendGroup p .withdrawal [p, t.number]).closeStep p none
  else
    let t1 := { t.again (t.attempt + 1) es (s.followers p) (s.followers p) with
                replays := if t.uncounted then t.replays else t.replays + 1 }
    let s2 := (s1.setPart p (fun r => { r with step := some t1 })).count s.dealer 1 1
    s2.sendGroup p .replayHeader (s2.headerArgs p t1)

/-- The last permitted attempt was poisoned too (R359). -/
def State.limitStep (s0 : State) (p : Nat) (t : StepRec) (resAddr : Nat) : State :=
  let s := s0.readResults p t resAddr
  let n := s.nSampled p t
  let bad := t.entries.filter (fun e => t.named.contains e.slot || (s.sampled p e && (s.result resAddr n e.slot).poisoned))
  let fails := if bad.isEmpty then t.entries else bad
  let s1 := t.entries.foldl (fun u e => u.dropPending p e.slot) s
  let s2 := (((s1.partEvent p 0x1006 t.number fails.length).count s.dealer 2 1).irq s.dealer (2 ^ 17)).sendGroup p .withdrawal [p, t.number]
  let s3 := t.entries.foldl (fun u e =>
    match (u.part p).slot? e.slot with
    | none => u
    | some x =>
      if x.abortPending then u.endSeq p e.slot ocAborted
      else if fails.any (fun f => f.slot == e.slot) then u.endSeq p e.slot ocPoison
      else u) s2
  s3.closeStep p none

/-- The lead's decision once its STEP_END has executed and every vote is in (R356, R358, R359). -/
def State.decideStep (s : State) (p : Nat) (t : StepRec) (resAddr : Nat) : State :=
  if t.phase ≠ .ended ∨ !t.unvoted.isEmpty then s
  else if t.poison.isNone && !t.votedPoison then s.commitStep p t resAddr
  else if t.uncounted || decide (t.replays < min 2 (s.get dlrU Reg.dlr.replayMax)) then s.replayStep p t
  else s.limitStep p t resAddr

/-- STEP_END (R101, R356): its wait is met, every earlier template is issued or skipped, and every lane has completed. A
follower votes; the lead decides as soon as the votes are in. -/
def execStepEnd (part resAddr : Nat) (s : State) : Host.Outcome State Fault Refusal :=
  .next (
    match s.running part with
    | none => s
    | some t =>
      let a := s.stepPlan part t
      let last := (s.planHdr a).templates - 1
      let m := s.tmpl a last
      if t.oldest != last || !s.waitMet t m || !t.waiting.isEmpty || (s.issued part).any (fun l => !l.stale) || !s.slotFree part then s
      else s.journaled (fun s0 =>
        let s := s0.tmplRead part a last
        let t1 := { ((s.part part).step.getD t) with phase := .ended }
        let s1 := s.setPart part (fun r => { r with step := some t1 })
        if s.isLead part then s1.decideStep part t1 resAddr
        else
          s1.sendLead part .vote ([part, t.number, t.attempt, s.memberIx part] ++
            (match t1.poison with | none => [0, 0, 0] | some x => [1, x.1, x.2]))))

/-- VOTE_RECEIVED (R356): a member's vote, with its first poisoning status and the source of it. -/
def execVoteReceived (part member step attempt : Nat) (poison : Option (Nat × Nat)) (uncounted : Bool) (resAddr : Nat) (s : State) :
    Host.Outcome State Fault Refusal :=
  .next (
    match (s.part part).step with
    | none => s
    | some t =>
      if !s.isLead part || t.number != step || t.attempt != attempt || !t.unvoted.contains member then s
      else s.journaled (fun s =>
        let named := match poison with
          | none => []
          | some x =>
            let a := s.stepPlan part t
            let i := x.2 / 256
            t.slotsNamed (s.laneOf part t (s.tmpl a i) i (x.2 % 256) (s.substituted a i (s.substSrc part t)))
        let t1 := { t with unvoted := t.unvoted.filter (fun m => m != member), named := t.named ++ named,
                           votedPoison := t.votedPoison || (poison.isSome && !uncounted),
                           uncounted := t.uncounted || uncounted }
        let t2 := { t1 with votedPoison := t1.votedPoison || t1.uncounted }
        (s.setPart part (fun r => { r with step := some t2 })).decideStep part t2 resAddr))

/-- COMMIT_RECEIVED (R356): a member applies the lead's commit; slots with the retire flag are retired. -/
def execCommitReceived (part step : Nat) (slots : List SlotCommit) (resAddr : Nat) (s : State) : Host.Outcome State Fault Refusal :=
  .next (
    if s.isLead part then s
    else s.journaled (fun s =>
      let retire (u : State) : State :=
        (slots.filter (fun c => c.retire)).foldl (fun u c => u.retireHere part c.slot) u
      match (s.part part).step with
      | none => retire s
      | some t =>
        if t.number != step || t.phase != .ended || t.poison.isSome then retire s
        else
          let s := s.readResults part t resAddr
          let s1 := t.entries.foldl (fun u e =>
            match slots.find? (fun c => c.slot == e.slot) with
            | none => u
            | some c =>
              let r : Result := if s.sampled part e && (decide (c.newLen ≠ e.pos) || e.kind != .decode && !c.retire)
                then s.result resAddr (s.nSampled part t) e.slot else ⟨[], [], 0, [], false⟩
              let u1 := u.commitEntry part e c.newLen r.tokens r.path
              match (u.part part).slot? e.slot with
              | some x => if e.kind = .last ∧ x.nfork ≠ 1 ∧ !c.retire then u1.forkSeq part e.slot else u1
              | none => u1) s
          let s2 := (s1.put dlrU (Reg.dlr.partStepLow.at part) (step % 2 ^ 32)).count s.dealer 0 1
          (retire (s2.closeStep part (some step))).pgeBalance part))

/-! ## Tokens and outcomes (R345, R356 step 5) -/

/-- Writes the outcomes that waited for their token records, and retires their slots. -/
def State.writeOutcomes (s : State) (p : Nat) : State :=
  let r := s.part p
  if !r.tokOut.isEmpty || !r.tokWait.isEmpty then s
  else
    r.outWait.foldl (fun t o =>
      let t1 := t.tellOutcome p o.reqId o.tag o.fork o.code o.emitted
      match o.slot with
      | some n => t1.retireHere p n
      | none => t1) (s.setPart p (fun r => { r with outWait := [] }))

/-- TOKEN_WRITE (R356 step 5): the lead writes the step's token records as far as the ring has space, then its outcomes. -/
def execTokenWrite (part : Nat) (s : State) : Host.Outcome State Fault Refusal :=
  .next (
    let r := s.part part
    if r.tokOut.isEmpty && r.outWait.isEmpty then s
    else s.journaled (fun s =>
      let s1 := s.setPart part (fun r => { r with tokOut := [] })
      ((s1.drainTokens part (r.tokWait ++ r.tokOut)).count s.dealer 7 r.tokOut.length).writeOutcomes part))

/-! ## Abandonment and loss (R363, R364) -/

/-- Abandons the uncommitted step: its unissued lanes end ABORTED_STEP, its issued lanes run out, its collectives are cancelled (R475).
The lanes that end so are those expanded from their templates and waiting; a template not yet expanded has no lanes, and ends none: the
spec does not say (DESIGN CHOICE, log entry 150). -/
def State.abandonStep (s0 : State) (p : Nat) : State :=
  let s := s0.cancelPart p
  match (s.part p).step with
  | none => s
  | some t =>
    let s1 := s.setPart p (fun r => { r with step := some { t with waiting := [], phase := .abandoned } })
    let s2 := t.waiting.foldl (fun u l => u.endUnissued l 8) s1
    ((s2.endPhases p).endChains p).endAbandoned p

/-- The lead loses a member (R364). -/
def State.leadLosesMember (s : State) (p : Nat) : State :=
  ((s.abandonStep p).failAll p ocMember).breakGroup p

/-- A follower loses its lead (R364). -/
def State.losesLead (s : State) (p : Nat) : State :=
  let s1 := s.abandonStep p
  let s2 := (s1.part p).slots.foldl (fun u x => u.retireHere p x.slot) s1
  (s2.partEvent p 0x1005 0 0).breakGroup p

/-- A member of p's group is lost, as this module sees it (R364). -/
def State.groupLoss (s : State) (p : Nat) : State :=
  if s.groupSize p = 1 ∨ s.pstate p ≠ 1 then s
  else if s.isLead p then s.leadLosesMember p else s.losesLead p

/-- LANE_COMPLETE (R83): the completion of a unit's ended lane reaches the Dealer. A collective that ends MEMBER_LOST loses a
member of the group (R364). -/
def execLaneComplete (u : UnitId) (s : State) : Host.Outcome State Fault Refusal :=
  .next (
    match (s.unit u).queue.find? (fun l => l.status.isSome) with
    | none => s
    | some l =>
      let s1 := (s.completeLane u l (l.status.getD 0)).stopQueued u
      if l.eclass = 8 ∧ l.status = some 0x0A ∧ !l.stale then s1.journaled (fun t => t.groupLoss l.part) else s1)

/-- VOTE_TIMEOUT (R364): at the lead, while an answer, a vote or an acknowledgement is outstanding; at a follower, after its
vote. -/
def execVoteTimeout (part : Nat) (s : State) : Host.Outcome State Fault Refusal :=
  .next (
    let r := s.part part
    let waits := match r.step with
      | some t => if s.isLead part then t.unready.any (fun m => m != s.memberIx part) || (t.phase == .ended && !t.unvoted.isEmpty)
                  else t.phase == .ended
      | none => false
    if waits || (s.isLead part && r.slots.any (fun x => !x.unacked.isEmpty)) then s.journaled (fun s => s.groupLoss part) else s)

end Sys2Proof.Machine
end

