-- ==== Sys2Proof/Machine/Crypto.lean ====
section
/-!
DEFINITION. The public algorithms that the crypto block runs (R489, R496, R497, R505, R546): HMAC-SHA-512 and HKDF, HMAC_DRBG, P-521 with
ECDH and ECDSA, AES-256-GCM and AES key wrap. The spec cites their standards and does not restate them (log entry 177).
-/
namespace Sys2Proof

/-- A byte string read with its first byte highest. -/
def beNat (b : List Byte) : Nat := leNat b.reverse
/-- n bytes of a number, the highest first. -/
def beBytes (n v : Nat) : List Byte := (leBytes n v).reverse

/-! ## HMAC, HKDF and HMAC_DRBG -/

/-- HMAC-SHA-512 (FIPS 198-1). -/
def hmac512 (key msg : List Byte) : List Byte :=
  let k0 := if 128 < key.length then sha512 key else key
  let k := k0 ++ List.replicate (128 - k0.length) 0
  sha512 (k.map (· ^^^ 0x5C) ++ sha512 (k.map (· ^^^ 0x36) ++ msg))

/-- HKDF-SHA-512 with at most 64 bytes of output (RFC 5869): R497 takes 32. -/
def hkdf512 (ikm salt info : List Byte) (n : Nat) : List Byte := (hmac512 (hmac512 salt ikm) (info ++ [1])).take n

/-- The state of HMAC_DRBG: K and V (NIST SP 800-90A). -/
structure Drbg where
  k : List Byte
  v : List Byte
  deriving DecidableEq, Repr

/-- HMAC_DRBG_Update. -/
def Drbg.update (g : Drbg) (data : List Byte) : Drbg :=
  let k1 := hmac512 g.k (g.v ++ 0 :: data)
  let v1 := hmac512 k1 g.v
  if data.isEmpty then ⟨k1, v1⟩
  else
    let k2 := hmac512 k1 (v1 ++ 1 :: data)
    ⟨k2, hmac512 k2 v1⟩

/-- A generator seeded with a value and personalised with a label (R489). -/
def Drbg.seed (value label : List Byte) : Drbg := (Drbg.mk (List.replicate 64 0) (List.replicate 64 1)).update (value ++ label)

/-- n bytes, at most 128, of a generator. -/
def Drbg.take (g : Drbg) (n : Nat) : List Byte × Drbg :=
  let v1 := hmac512 g.k g.v
  let v2 := hmac512 g.k v1
  if n ≤ 64 then (v1.take n, (Drbg.mk g.k v1).update []) else ((v1 ++ v2).take n, (Drbg.mk g.k v2).update [])

/-! ## P-521 (SP 800-186) -/

abbrev ecP : Nat := 2 ^ 521 - 1
abbrev ecN : Nat := 0x01FFFFFFFFFFFFFFFFFFFFFFFFFFFFFFFFFFFFFFFFFFFFFFFFFFFFFFFFFFFFFFFFFA51868783BF2F966B7FCC0148F709A5D03BB5C9B8899C47AEBB6FB71E91386409
abbrev ecB : Nat := 0x0051953EB9618E1C9A1F929A21A0B68540EEA2DA725B99B315F3B8B489918EF109E156193951EC7E937B1652C0BD3BB1BF073573DF883D2C34F1EF451FD46B503F00

/-- An affine point; none is the point at infinity. -/
abbrev EcPoint := Option (Nat × Nat)

/-- The base point. -/
def ecG : EcPoint := some (
  0x00C6858E06B70404E9CD9E3ECB662395B4429C648139053FB521F828AF606B4D3DBAA14B5E77EFE75928FE1DC127A2FFA8DE3348B3C1856A429BF97E7E31C2E5BD66,
  0x011839296A789A3BC0045C8A5FB42C7D1BD998F54449579B446817AFBD17273E662C97EE72995EF42640C550B9013FAD0761353C7086A272C24088BE94769FD16650)

/-- x ^ e mod m by squaring; e has at most `fuel` bits. -/
def powMod (m : Nat) : Nat → Nat → Nat → Nat
  | 0, _, _ => 1 % m
  | fuel + 1, x, e =>
    let h := powMod m fuel (x * x % m) (e / 2)
    if e % 2 = 1 then h * x % m else h

/-- The inverse modulo a prime of 521 bits. -/
def invMod (m x : Nat) : Nat := powMod m 521 x (m - 2)

/-- The sum of two points of the curve y² = x³ − 3x + b. -/
def ecAdd (a b : EcPoint) : EcPoint :=
  match a, b with
  | none, _ => b
  | _, none => a
  | some p, some q =>
    let line (num den : Nat) : EcPoint :=
      let l := num * invMod ecP den % ecP
      let x := (l * l + 2 * ecP - p.1 - q.1) % ecP
      some (x, (l * (p.1 + ecP - x) + ecP - p.2) % ecP)
    if p.1 = q.1 then
      if (p.2 + q.2) % ecP = 0 then none else line (3 * p.1 * p.1 + ecP - 3) (2 * p.2)
    else line (q.2 + ecP - p.2) (q.1 + ecP - p.1)

/-- k · P for k of at most `fuel` bits. -/
def ecMul : Nat → Nat → EcPoint → EcPoint
  | 0, _, _ => none
  | fuel + 1, k, p =>
    let h := ecMul fuel (k / 2) (ecAdd p p)
    if k % 2 = 1 then ecAdd h p else h

/-- A public key from its 132 bytes, X then Y, if it is a point of the curve. -/
def ecPoint (b : List Byte) : EcPoint :=
  let x := beNat (b.take 66)
  let y := beNat ((b.drop 66).take 66)
  if x < ecP ∧ y < ecP ∧ (y * y) % ecP = (x * x * x + ecP * 3 - 3 * x + ecB) % ecP then some (x, y) else none

/-- The public key of a private one: X, then Y, 66 big-endian bytes each (R493). -/
def ecPublic (d : Nat) : List Byte :=
  match ecMul 521 d ecG with
  | some p => beBytes 66 p.1 ++ beBytes 66 p.2
  | none => List.replicate 132 0

/-- Z of ECDH: the x-coordinate, 66 bytes (R497). -/
def ecdh (d : Nat) (pub : List Byte) : Option (List Byte) := (ecMul 521 d (ecPoint pub)).map (fun p => beBytes 66 p.1)

/-- ECDSA over SHA-512 of a message with a per-message number k: r, then s (FIPS 186-5). -/
def ecdsaSign (d k : Nat) (msg : List Byte) : List Byte :=
  match ecMul 521 k ecG with
  | none => List.replicate 132 0
  | some p =>
    let r := p.1 % ecN
    beBytes 66 r ++ beBytes 66 (invMod ecN k * (beNat (sha512 msg) + r * d) % ecN)

/-- Verification of a signature over SHA-512 of a message. -/
def ecdsaVerify (pub msg sig : List Byte) : Bool :=
  let r := beNat (sig.take 66)
  let s := beNat ((sig.drop 66).take 66)
  if r = 0 ∨ ecN ≤ r ∨ s = 0 ∨ ecN ≤ s ∨ ecPoint pub = none then false
  else
    let w := invMod ecN s
    match ecAdd (ecMul 521 (beNat (sha512 msg) * w % ecN) ecG) (ecMul 521 (r * w % ecN) (ecPoint pub)) with
    | none => false
    | some p => p.1 % ecN == r

/-- A private key by testing candidates of 521 bits (FIPS 186-5, A.2.2), at most `fuel` of them. -/
def Drbg.privateKey : Nat → Drbg → Nat
  | 0, _ => 1
  | fuel + 1, g =>
    let x := g.take 66
    let c := beNat x.1 / 2 ^ 7
    if c ≤ ecN - 2 then c + 1 else Drbg.privateKey fuel x.2

/-- A P-521 private key of a layer (R489). -/
def layerKey (secret label : List Byte) : Nat := (Drbg.seed secret label).privateKey 8

/-! ## AES-256-GCM and AES key wrap -/

/-- AES-256 on a block of bytes. -/
def aesBlock (key block : List Byte) : List Byte :=
  (aes256 (key.map BitVec.toNat) (block.map BitVec.toNat)).map (BitVec.ofNat 8)

/-- The product in GCM's field (SP 800-38D), blocks read with their first byte highest. -/
def ghashMul : Nat → Nat → Nat → Nat → Nat
  | 0, _, _, z => z
  | n + 1, x, v, z =>
    ghashMul n x (if v % 2 = 1 then (v / 2) ^^^ (0xE1 * 2 ^ 120) else v / 2) (if x.testBit n then z ^^^ v else z)

/-- A byte string in blocks of 16, the last filled with zeros. -/
def zeroBlocks (b : List Byte) : List (List Byte) :=
  (List.range ((b.length + 15) / 16)).map (fun i => let x := (b.drop (16 * i)).take 16; x ++ List.replicate (16 - x.length) 0)

/-- GHASH under a hash key over the additional data and the ciphertext. -/
def ghash (h : Nat) (aad c : List Byte) : Nat :=
  (zeroBlocks aad ++ zeroBlocks c ++ [beBytes 8 (8 * aad.length) ++ beBytes 8 (8 * c.length)]).foldl
    (fun y b => ghashMul 128 (y ^^^ beNat b) h 0) 0

/-- The key stream from counter value n on, for m blocks. -/
def gcmStream (key iv : List Byte) (n m : Nat) : List Byte :=
  (List.range m).flatMap (fun i => aesBlock key (iv ++ beBytes 4 (n + i)))

/-- Opens a GCM ciphertext with a 12-byte IV: its plaintext, if the 16-byte tag holds. -/
def gcmOpen (key iv aad c tag : List Byte) : Option (List Byte) :=
  let h := beNat (aesBlock key (List.replicate 16 0))
  if beNat tag = ghash h aad c ^^^ beNat (gcmStream key iv 1 1) then
    some (List.zipWith (· ^^^ ·) c (gcmStream key iv 2 ((c.length + 15) / 16)))
  else none

/-- AES-256 decryption of one block, by inverting each step of the cipher. -/
def aesSubInv (x : Nat) : Nat := ((List.range 256).find? (fun y => aesSub y == x)).getD 0
def aesMixInv (st : List Nat) : List Nat := aesMix (aesMix (aesMix st))
def aesShiftInv (st : List Nat) : List Nat := (List.range 16).map (fun i => aesSubInv (st.getD ((i + 12 * (i % 4)) % 16) 0))
def aes256Inv (key block : List Nat) : List Nat :=
  let ks := aesKeys key
  let st := ((List.range 13).map (fun r => ks.getD (13 - r) [])).foldl (fun s k => aesShiftInv (aesMixInv (aesAdd k s)))
    (aesShiftInv (aesAdd (ks.getD 14 []) block))
  aesAdd (ks.headD []) st

/-- Steps of the AES key unwrap (SP 800-38F), from step t down: the check register and the blocks. -/
def kwSteps (key : List Nat) (n : Nat) : Nat → List Byte → List (List Byte) → List Byte × List (List Byte)
  | 0, a, r => (a, r)
  | t + 1, a, r =>
    let i := t % n
    let x := List.zipWith (· ^^^ ·) a (beBytes 8 (t + 1))
    let b := (aes256Inv key ((x ++ r.getD i []).map BitVec.toNat)).map (BitVec.ofNat 8)
    kwSteps key n t (b.take 8) (r.set i (b.drop 8))

/-- AES key unwrap of n blocks of 8 bytes under a 32-byte key; none where the integrity check fails. -/
def kwUnwrap (key wrapped : List Byte) : Option (List Byte) :=
  let n := wrapped.length / 8 - 1
  let r := kwSteps (key.map BitVec.toNat) n (6 * n) (wrapped.take 8) ((List.range n).map (fun i => (wrapped.drop (8 + 8 * i)).take 8))
  if r.1 = List.replicate 8 0xA6 then some r.2.flatten else none

end Sys2Proof
end

