-- ==== Sys2Proof/Machine/Identity.lean ====
section
/-!
DEFINITION. The module's identity (R488 to R490): the fused seed, the secrets and keys of the layers, the certificates of slot 0, and
signatures. The spec gives no DER bytes: a certificate is a function of Config over its subject's key and its signature (log entry 178).
-/
namespace Sys2Proof.Machine

/-- ASCII bytes. -/
def ascii (t : String) : List Byte := t.toList.map (fun c => BitVec.ofNat 8 c.toNat)

/-- The identity seed, fused identically into both link dies (R488). -/
def uds : List Byte := leBytes 64 (Config.fuseValue (2 ^ 40 + 16384))

/-- The ROM's digest is fixed with the mask, and stated nowhere. -/
def romDigest : List Byte := leBytes 64 (Config.fuseValue (2 ^ 40 + 1024))

/-- The Device ID certificate, in the factory-locked sector of the NOR, and its fused SHA-512 (R489, R545). -/
def deviceCert : List Byte := Config.certificate 2
def fusedCertDigest : List Byte := sha512 deviceCert

/-- The identity fingerprint (R419, R490). -/
def fingerprint : Nat := leNat (fusedCertDigest.take 8)

/-- A digest as 64 bytes. -/
def pad64 (b : List Byte) : List Byte := (b ++ List.replicate 64 0).take 64

/-- The private key of the Device ID (R489). -/
def deviceKey : Nat := layerKey uds (ascii "XSV720-DEVICEID")

/-- CDI_0, over LIFECYCLE and DBG_STATE as the bytes that the report shows (R489, R493). -/
def cdi0 (lifecycle dbg : Nat) : List Byte := hmac512 uds (romDigest ++ leBytes 1 lifecycle ++ leBytes 1 dbg)
/-- CDI_1, over the digest of MCC firmware. -/
def cdi1 (c0 mcc : List Byte) : List Byte := hmac512 c0 mcc
/-- CDI_2, over the digests of engine firmware, UC runtime and image configuration. -/
def cdi2 (c1 engine uc cfg : List Byte) : List Byte := hmac512 c1 (engine ++ uc ++ cfg)
/-- The private keys of Alias 1 and Alias 2. -/
def aliasKey1 (c1 : List Byte) : Nat := layerKey c1 (ascii "XSV720-ALIAS1")
def aliasKey2 (c2 : List Byte) : Nat := layerKey c2 (ascii "XSV720-ALIAS2")

/-- A P-521 private number, from 1 to n − 1, of nine free values from index h on: a session's key, or a signature's own number. -/
def drawnKey (h : Nat) : Nat := 1 + (List.range 9).foldl (fun a i => a + (Config.freeValue (h + i)).toNat * 2 ^ (64 * i)) 0 % (ecN - 1)

/-- The public key of a session by the handle of its private one (R493). -/
def publicKey (h : Nat) : List Byte := ecPublic (drawnKey h)

/-- An ECDSA P-521 signature under a private key, and the state that has drawn its number. -/
def State.sign (s : State) (d : Nat) (msg : List Byte) : List Byte × State :=
  (ecdsaSign d (drawnKey s.freeIdx) msg, { s with freeIdx := s.freeIdx + 9 })

/-- Digest i of the image that runs: MCC_FW, ENGINE_FW, UC_RT, CONFIG (R492); in minimal mode none but the ROM's is there (R556). -/
def State.imageDigest (s : State) (i : Nat) : List Byte :=
  if s.minimal then List.replicate 64 0 else pad64 (s.sys.image.digests.getD i [])

/-- The certificate of alias k over its key, signed by the layer below. -/
def State.issue (s : State) (k signer subject : Nat) : State :=
  let body := Config.certBody k (ecPublic subject)
  let g := s.sign signer body
  { g.2 with secMod := { g.2.secMod with chain := s.secMod.chain ++ [Config.certDer body g.1] } }

/-- The ROM derives CDI_0 and CDI_1 and issues Alias 1's certificate; MCC firmware gets CDI_1 (R489, R540). -/
def State.deriveAlias1 (s : State) : State :=
  let c1 := cdi1 (cdi0 (s.get ⟨.sec, 0⟩ Reg.sec.debugLifecycle) (s.get ⟨.sec, 0⟩ Reg.sec.debugUnlocked)) (s.imageDigest 0)
  let s1 : State := { s with secMod := { s.secMod with chain := [], secret := c1, alias2 := none } }
  s1.issue 1 deviceKey (aliasKey1 c1)

/-- MCC firmware derives Alias 2 and issues its certificate; its own secret and key are erased, and Alias 2's key stays in its slot
(R489, R540). -/
def State.deriveAlias2 (s : State) : State :=
  let c1 := s.secMod.secret
  let key := aliasKey2 (cdi2 c1 (s.imageDigest 1) (s.imageDigest 2) (s.imageDigest 3))
  let s1 := s.issue 2 (aliasKey1 c1) key
  { s1 with secMod := { s1.secMod with secret := [], alias2 := some key } }

/-- The certificates of slot 0, root first (R490); in minimal mode they end at the Device ID's (R556). -/
def State.slotCerts (s : State) : List (List Byte) := [0, 1, 2].map Config.certificate ++ s.secMod.chain

/-- SHA-512 over the DER certificates of slot 0 (R493). -/
def State.chainDigest (s : State) : List Byte := sha512 s.slotCerts.flatten

/-- The key that signs: Alias 2, or in minimal mode the Device ID's (R489, R556). -/
def State.signer (s : State) : Option Nat := if s.minimal then some deviceKey else s.secMod.alias2

/-! ## Bundles (R496, R497) -/

/-- The key that a wrap record yields in a session: ECDH with the broker's key, HKDF-SHA-512, AES-KW (R497). -/
def unwrapKey (d : Nat) (w : List Byte) : Option (List Byte) :=
  match ecdh d ((w.drop 0x20).take 132) with
  | none => none
  | some z =>
    kwUnwrap (hkdf512 z (sha512 (ecPublic d ++ (w.drop 0x10).take 16)) (ascii "XSV720-BUNDLEKEK") 32) ((w.drop 0xA8).take 40)

/-- Chunk i of a bundle under its key (R496): `c` is its ciphertext and tag, `h` the bundle's header. -/
def openChunk (bk h : List Byte) (i : Nat) (c : List Byte) : Option (List Byte) :=
  let n := c.length - 16
  gcmOpen bk ((h.drop 0x10).take 4 ++ leBytes 8 i) (h ++ leBytes 8 i) (c.take n) (c.drop n)

end Sys2Proof.Machine
end

