-- ==== Sys2Proof/Machine/Frames.lean ====
section
/-!
DEFINITION. What a Benvo port's lanes carry (R398 to R403): control blocks, slots and their CRC, frames, RS(576,544) codewords
and the lanes that their symbols go to.
-/
namespace Sys2Proof.Machine

/-! ## Blocks and slots (R400, R403) -/

/-- One bit step of the IEEE 802.3 CRC-32, reflected, polynomial 0x04C1_1DB7. -/
def crc32Step : Nat → BitVec 32 → BitVec 32
  | 0, c => c
  | n + 1, c => crc32Step n (if c.getLsbD 0 then (c >>> 1) ^^^ 0xEDB8_8320 else c >>> 1)

/-- CRC-32 of a byte string before its final XOR. -/
def crc32Raw (m : List Byte) : BitVec 32 := m.foldl (fun c b => crc32Step 8 (c ^^^ b.setWidth 32)) 0xFFFF_FFFF

/-- The CRC of a slot: a data block's has a final XOR of all ones, a control block's of zero (R400). -/
def slotCrc (control : Bool) (block : List Byte) : Nat :=
  (if control then crc32Raw block else crc32Raw block ^^^ 0xFFFF_FFFF).toNat

/-- The 260 bytes of a slot. -/
def slotBytes (control : Bool) (block : List Byte) : List Byte := block ++ leBytes 4 (slotCrc control block)

/-- What a receiver takes a slot for. -/
inductive SlotKind where
  | data | control | bad
  deriving DecidableEq, Repr

/-- A slot is a data block or a control block by the check that it passes, and otherwise bad (R400). -/
def classify (slot : List Byte) : SlotKind :=
  let crc := leNat (slot.drop 256)
  if crc = slotCrc false (slot.take 256) then .data
  else if crc = slotCrc true (slot.take 256) then .control
  else .bad

/-- TYPE of a control block (R403). -/
def ctlType : Ctl → Nat
  | .data => 0xFF
  | .idle => 0
  | .nak => 1
  | .replay => 2
  | .retrain => 3
  | .goodbye => 4

/-- The 256 bytes of a control block: TYPE, NEXT_SEQ, and SEQ of a REPLAY or the reason of a RETRAIN (R403). -/
def controlBlock (c : Ctl) (next arg : Nat) : List Byte :=
  let tail : List Byte := match c with
    | .replay => leBytes 2 arg
    | .retrain => leBytes 1 arg ++ [0]
    | _ => [0, 0]
  leBytes 4 (ctlType c) ++ leBytes 2 next ++ [0, 0] ++ tail ++ List.replicate 246 0

/-! ## The code (R401) -/

/-- A product in GF(2^10), field polynomial x^10 + x^3 + 1. -/
def gfMul (a b : Nat) : Nat :=
  (List.range 10).foldl (fun r i =>
    let d := if 512 ≤ r then (2 * r) ^^^ 0x409 else 2 * r
    if bit b (9 - i) then d ^^^ a else d) 0

/-- α^n, α being the element 2. -/
def gfPow : Nat → Nat
  | 0 => 1
  | n + 1 => gfMul 2 (gfPow n)

/-- The generator polynomial, highest power first: its roots are α^0 to α^31. -/
def rsGen : List Nat :=
  (List.range 32).foldl (fun g i => List.zipWith (· ^^^ ·) (g ++ [0]) (0 :: g.map (gfMul (gfPow i)))) [1]

/-- The 32 parity symbols of message symbols. The first symbol of a codeword is the coefficient of its highest power, as such codes
have it; the rule does not say (PRESUMED, log entry 170). -/
def rsParity (g m : List Nat) : List Nat :=
  m.foldl (fun r x =>
    let f := x ^^^ r.headD 0
    List.zipWith (· ^^^ ·) (r.tail ++ [0]) (g.tail.map (gfMul f))) (List.replicate 32 0)

/-- Message symbols followed by their parity. -/
def rsEncode (m : List Nat) : List Nat := m ++ rsParity rsGen m

/-- The value of a word's polynomial at α^j. -/
def rsSyndrome (w : List Nat) (j : Nat) : Nat := w.foldl (fun a c => gfMul (gfPow j) a ^^^ c) 0

/-- A word is a codeword. -/
def rsValid (w : List Nat) : Bool := (List.range 32).all (fun j => rsSyndrome w j == 0)

/-- Positions at which two words differ. -/
def rsErrors (w v : List Nat) : List Nat := (List.range (max w.length v.length)).filter (fun i => w[i]? != v[i]?)

/-- Symbol errors that a codeword corrects. -/
abbrev rsCorrects : Nat := 16

/-- A received word is corrected to a codeword. -/
def rsCorrected (w v : List Nat) : Bool := rsValid v && decide ((rsErrors w v).length ≤ rsCorrects)

/-- Message symbols of a codeword: 10-bit elements of 680 frame bytes, packed under R50. -/
def frameSymbols (d : List Byte) : List Nat := (List.range 544).map (fun s => bits (leNat d) (10 * s) 10)

/-- A frame of 34 slots, 8,840 bytes, as 13 codewords. -/
def frameCodewords (frame : List Byte) : List (List Nat) :=
  (List.range 13).map (fun i => rsEncode (frameSymbols ((frame.drop (680 * i)).take 680)))

/-- The codewords that hold bytes of slot j of a frame: those that it overlaps (R402). -/
def slotCodewords (j : Nat) : List Nat := (List.range 13).filter (fun i => decide (680 * i < 260 * j + 260 ∧ 260 * j < 680 * i + 680))

/-! ## Lanes (R399, R401) -/

/-- The physical lanes of a mask, ascending: logical lane l is the l-th. -/
def lanesOf (mask : Nat) : List Nat := (List.range 17).filter (fun i => bit mask i)

/-- The physical lane that carries symbol s of each codeword. -/
def laneOfSymbol (mask s : Nat) : Nat := (lanesOf mask).getD (s % (lanesOf mask).length) 0

end Sys2Proof.Machine
end

