-- ==== Sys2Proof/Machine/Link.lean ====
section
/-!
DEFINITION. Benvo links (chapter 15): training, data and control blocks, retry, retrains, recovery and DOWN (R398 to R416).
-/
namespace Sys2Proof.Machine

/-! ## Lanes and widths (R399, R408, R414) -/

/-- Physical lanes of a direction that a mask of failed lanes leaves healthy, ascending. -/
def healthyLanes (failed : Nat) : List Nat := (List.range 17).filter (fun i => !bit failed i)

/-- The width code that a number of healthy lanes gives: the largest of 16, 12, 8 and 4 that does not exceed it. -/
def widthCode (healthy : Nat) : Nat :=
  if 16 ≤ healthy then 4 else if 12 ≤ healthy then 3 else if 8 ≤ healthy then 2 else if 4 ≤ healthy then 1 else 0

/-- Active lanes of a width code. -/
def widthLanes (code : Nat) : Nat := code * 4

/-- The mask of the lowest-numbered healthy lanes that a direction uses. -/
def activeMask (failed : Nat) : Nat :=
  ((healthyLanes failed).take (widthLanes (widthCode (healthyLanes failed).length))).foldl (fun a i => a + 2 ^ i) 0

/-- Link states (R408). -/
abbrev lkOff : Nat := 0
abbrev lkDetect : Nat := 1
abbrev lkTraining : Nat := 2
abbrev lkActive : Nat := 3
abbrev lkRecovering : Nat := 4
abbrev lkDown : Nat := 5

/-- The port carries blocks. -/
def State.linkUp (s : State) (k : Nat) : Bool := s.linkState k == lkActive || s.linkState k == lkRecovering

/-- Sets a port's link state. -/
def State.setLinkState (s : State) (k st : Nat) : State := s.put (bvlU k) Reg.bvl.linkState st

/-- Microseconds that the port has been RECOVERING. -/
def State.recovered (s : State) (k : Nat) : Nat := (s.now - (s.link k).since) / 1000

/-- A LINK event in format L (R595). -/
def State.linkEvent (s : State) (k code old new reason dur : Nat) : State :=
  let u := bvlU k
  s.eventM (some u) code (fmtL0 k old new reason (s.get u Reg.bvl.lanesRxActive))
    (fmtL1 (s.get (bvfU 0) (Reg.bvf.peerNode.at k)) (s.get (bvfU 0) (Reg.bvf.peerPort.at k)) (s.get u Reg.bvl.linkTxWidth)
      (s.get u Reg.bvl.linkRxWidth) dur)

/-- MARGINAL, once per port per configuration (R598). -/
def State.marginal (s : State) (k : Nat) : State :=
  if (s.link k).marginal then s
  else (s.setLink k (fun l => { l with marginal := true })).linkEvent k 0x6006 (s.linkState k) (s.linkState k) 0 0

/-! ## Blocks -/

/-- A control block leaves (R403): it acknowledges what the receiver has accepted. -/
def State.sendControl (s : State) (k : Nat) (c : Ctl) (args : List Nat) : State :=
  let s1 := s.emit (.block k c ((s.link k).rxNext :: args))
  (s1.setLink k (fun l => { l with unacked := 0 })).count (bvlU k) 2 1

/-- A data block leaves; an armed INJECT.BAD_SLOT gives it a wrong CRC (R414). The arguments are its number and whether its CRC is wrong. -/
def State.sendData (s : State) (k seq : Nat) : State :=
  let s1 := s.emit (.block k .data [seq, s.get (bvlU k) Reg.bvl.injectBadSlot])
  if s1.flag (bvlU k) Reg.bvl.injectBadSlot then s1.put (bvlU k) Reg.bvl.injectBadSlot 0 else s1

/-- REPLAY, then every unacknowledged block in order (R406). -/
def State.replayAll (s : State) (k : Nat) : State :=
  let l := s.link k
  let first := (l.retry.head?.map (fun b => b.1)).getD l.txNext
  let s1 := s.sendControl k .replay [first]
  (l.retry.foldl (fun t b => t.sendData k b.1) s1).count (bvlU k) 7 l.retry.length

/-- Link blocks that a packet fills (R423). -/
def blocksOf (p : Pkt) : Nat := (p.len + 8) / 8

/-- The retry buffer can take a packet's blocks (R404). -/
def State.retryRoom (s : State) (k : Nat) (p : Pkt) : Bool := decide ((s.link k).retry.length + blocksOf p ≤ 512)

/-- A packet leaves on a port: its flits fill new data blocks, which stay in the retry buffer until they are acknowledged. -/
def State.sendOn (s : State) (k : Nat) (p : Pkt) : State :=
  let s0 := s.emit (.packet k p)
  let n := blocksOf p
  let s1 := (List.range n).foldl (fun t _ =>
    let q := (t.link k).txNext
    (t.sendData k q).setLink k (fun l => { l with txNext := (q + 1) % 65536, retry := l.retry ++ [(q, [p])] })) s0
  let key := k * 8 + p.tc
  (s1.setNet (fun x => { x with flitsTx := Sparse.set (fun _ => 0) x.flitsTx key (Sparse.get (fun _ => 0) x.flitsTx key + p.len + 1) })).count
    (bvlU k) 0 n

/-! ## Loss of packets (R434) -/

/-- LOSS to a packet's source, with the lost header and a reason; a lost LOSS gives no further notice. -/
def State.sendLoss (s : State) (u : UnitId) (p : Pkt) (reason : Nat) : State :=
  if p.kind = kLoss then s
  else
    let q := s.packet p.src 0 kLoss
    (s.inject { q with extra := reason, data := p.header }).count u 6 1

/-- Loss reasons (R434). -/
abbrev lossPortDown : Nat := 1
abbrev lossUnroutable : Nat := 2
abbrev lossAbsent : Nat := 3
abbrev lossEpoch : Nat := 4

/-- Adds to a per-port tally. -/
def bump (m : Sparse Nat) (k n : Nat) : Sparse Nat := Sparse.set (fun _ => 0) m k (Sparse.get (fun _ => 0) m k + n)

/-! ## Collectives pause (R480) -/

/-- Port k is a candidate toward node n in the version injected under (R432). -/
def State.candidateTo (s : State) (k n : Nat) : Bool :=
  let e := s.get (bvfU 0) ((if s.get (bvfU 0) Reg.bvf.epochInj = 0 then Reg.bvf.routeA else Reg.bvf.routeB).at n)
  bit e 31 && (List.range 4).any (fun c => bits e (7 * c) 5 == k)

/-- A posted collective has a live member that port k leads toward. -/
def State.pausedBy (s : State) (k : Nat) (c : CollRec) : Bool :=
  let f (x : Field) : Nat := s.get ⟨.ce, c.group / 16⟩ (x.at (c.group % 16))
  let live := f Reg.ce.grpLiveLo + f Reg.ce.grpLiveHi * 2 ^ 32
  c.posted && (List.range 64).any (fun n => bit live n && n != s.node && s.candidateTo k n)

/-- The timers of the collectives that a RECOVERING port touches pause. -/
def State.pauseTimers (s : State) (k : Nat) : State :=
  { s with coll := s.coll.map (fun c => if s.pausedBy k c then { c with paused := true } else c) }

/-- Counts the microseconds of a pause on each engine whose collectives it touched. -/
def State.countPause (s : State) (k us : Nat) : State :=
  (((s.coll.filter (s.pausedBy k)).map (fun c => c.engine)).dedup).foldl (fun t e => t.count ⟨.ce, e⟩ 10 us) s

/-! ## The versions' states, and the drain of the old one (R432, R437, R439) -/

/-- PEER[k].PSTATE (R419). -/
def State.peerState (s : State) (k : Nat) : Nat := s.get (bvfU 0) (Reg.bvf.peerPstate.at k)

/-- A port carries routed traffic: ACTIVE with peer state OK (R420, R433). -/
def State.portOk (s : State) (k : Nat) : Bool := s.linkState k == lkActive && s.peerState k == 1

/-- State of routing version v. -/
def State.epochState (s : State) (v : Nat) : Nat := s.get (bvfU 0) (if v = 0 then Reg.bvf.epochStateA else Reg.bvf.epochStateB)

/-- Sets it. -/
def State.setEpochState (s : State) (v st : Nat) : State := s.put (bvfU 0) (if v = 0 then Reg.bvf.epochStateA else Reg.bvf.epochStateB) st

/-- The entry of version v for node n. -/
def State.route (s : State) (v n : Nat) : Nat := s.get (bvfU 0) ((if v = 0 then Reg.bvf.routeA else Reg.bvf.routeB).at n)

/-- Sets it. -/
def State.setRoute (s : State) (v n w : Nat) : State := s.put (bvfU 0) ((if v = 0 then Reg.bvf.routeA else Reg.bvf.routeB).at n) w

/-- Code of a MARK position. -/
def markPos (k tc h : Nat) : Nat := (k * 8 + tc) * 4 + h

/-- The version that drains, if one does. -/
def State.draining (s : State) : Option Nat := if s.epochState 0 = 3 then some 0 else if s.epochState 1 = 3 then some 1 else none

/-- MARK positions still awaited: a port that is DOWN or not OK, or that reached ACTIVE after the commit, counts as marked. -/
def State.awaited (s : State) : List Nat :=
  s.net.awaited.filter (fun m => (s.linkState (m / 32) == lkRecovering || s.portOk (m / 32)) && !s.net.newPorts.contains (m / 32))

/-- Packets of a version that the module holds. -/
def State.oldHeld (s : State) (v : Nat) : Nat :=
  (s.net.inj.filter (fun p => p.epoch == v)).length + (s.net.inq.filter (fun e => e.2.epoch == v)).length

/-- Sends a MARK of a class and level on every output port that carries traffic. -/
def State.sendMarks (s : State) (tc h : Nat) : State :=
  (List.range 24).foldl (fun t k =>
    if t.portOk k && !t.net.newPorts.contains k then
      let p := t.packet 0 0 kMark
      (t.sendOn k { p with extra := tc + 8 * h }).count (routerOf k) 10 1
    else t) (s.setNet (fun n => { n with marked := n.marked ++ [markPos 0 tc h] }))

/-- Classes and levels whose marks may go: the marks one level lower are in on every port, and no old packet of that level is held. -/
def State.marksDue (s : State) (v : Nat) : List (Nat × Nat) :=
  (List.range 7).flatMap (fun tc => ((List.range 2).filter (fun i =>
    let h := i + 1
    !s.net.marked.contains (markPos 0 tc h) && s.awaited.all (fun m => !(m / 4 % 8 == tc && m % 4 == h - 1)) &&
      s.net.inq.all (fun e => !(e.2.epoch == v && e.2.tc == tc && e.2.hops == h)))).map (fun i => (tc, i + 1)))

/-- The count of the drain, and its end at zero: the old version's entries are cleared, and it is EMPTY. -/
def State.advanceDrain (s : State) : State :=
  match s.draining with
  | none => s
  | some v =>
    let s1 := (s.marksDue v).foldl (fun t m => t.sendMarks m.1 m.2) s
    let n := sat 0xFFFF (s1.awaited.length + s1.oldHeld v)
    let s2 := s1.put (bvfU 0) Reg.bvf.epochDrainCount n
    if n ≠ 0 then s2
    else
      let s3 := (List.range 64).foldl (fun t d => t.setRoute v d 0) s2
      let s4 := (s3.setEpochState v 0).setNet (fun x => { x with awaited := [], marked := [] })
      ((s4.irq (bvfU 0) (2 ^ 20)).irq (bvfU 1) (2 ^ 20)).eventM none 0x7005 v 0

/-! ## Going DOWN (R411) -/

/-- A port that is disabled reaches QUIESCED with its link OFF; a pending enable takes it back to RUNNING, where it looks for a peer
(R43, R408, R412). -/
def State.portOff (s : State) (k : Nat) : State :=
  let s1 := (s.setLinkState k lkOff).quiesce (bvlU k)
  if s1.ustate (bvlU k) = stRunning then s1.setLinkState k lkDetect else s1

/-- The port goes DOWN with a reason: the retry buffer is discarded, and the router ends the packets that had flits in it. A
port that a disable waits for goes on to QUIESCED, its link OFF (R412). A drain no longer waits for its marks (R439). -/
def State.goDown (s : State) (k reason : Nat) : State :=
  let u := bvlU k
  let old := s.linkState k
  if old = lkDown ∨ old = lkOff then s
  else
    let l := s.link k
    let dur := if old = lkRecovering then s.recovered k else 0
    let s1 := (s.setLinkState k lkDown).put u Reg.bvl.linkDownReason reason
    let s2 := (s1.put u Reg.bvl.linkTxWidth 0).put u Reg.bvl.linkRxWidth 0
    let s3 := (s2.put u Reg.bvl.lanesRxActive 0).put u Reg.bvl.retryConsec 0
    let s4 := if old = lkRecovering then ((s3.put u Reg.bvl.recoverLastUs (sat 0xFFFF dur)).count u 12 dur).countPause k dur else s3
    let s5 := s4.setLink k (fun l => { l with retry := [], discarding := false, retraining := false, retrained := false, leaving := false })
    let s6 := ((s5.count u 11 1).irq u (2 ^ 19)).linkEvent k 0x6004 old lkDown reason dur
    let lost := (l.retry.flatMap (fun b => b.2)).dedup
    let s7 := lost.foldl (fun t p =>
      (((t.sendLoss (routerOf k) p lossPortDown).count (routerOf k) 5 1).setNet (fun n => { n with lostPk := bump n.lostPk k 1 }))) s6
    (if l.leaving then s7.portOff k else s7).advanceDrain

/-! ## RECOVERING (R410) -/

/-- The port enters RECOVERING. -/
def State.enterRecovering (s : State) (k : Nat) : State :=
  if s.linkState k = lkActive then
    let s1 := (s.setLinkState k lkRecovering).setLink k (fun l => { l with since := s.now })
    ((s1.irq (bvlU k) (2 ^ 16)).linkEvent k 0x6001 lkActive lkRecovering 0 0).pauseTimers k
  else s

/-- A port that a disable found RECOVERING leaves service once it is ACTIVE and every block is acknowledged (R412). -/
def State.finishLeaving (s : State) (k : Nat) : State :=
  let l := s.link k
  if l.leaving && s.linkState k == lkActive && l.retry.isEmpty then
    ((s.sendControl k .goodbye []).setLink k (fun l => { l with leaving := false })).portOff k
  else s

/-- The port is ACTIVE again. -/
def State.endRecovering (s : State) (k : Nat) : State :=
  if s.linkState k = lkRecovering then
    let d := s.recovered k
    let s1 := (s.setLinkState k lkActive).put (bvlU k) Reg.bvl.recoverLastUs (sat 0xFFFF d)
    (((s1.count (bvlU k) 12 d).countPause k d).setLink k (fun l => { l with retrained := false })).finishLeaving k
  else s

/-- A retrain starts (R409): the port is RECOVERING; one of the port's own triggers sends RETRAIN with its reason. -/
def State.startRetrain (s : State) (k : Nat) (reason : Option Nat) : State :=
  if !s.linkUp k then s
  else
    let s1 := match reason with
      | some r => s.sendControl k .retrain [r]
      | none => s
    let s2 := (s1.enterRecovering k).setLink k (fun l => { l with retraining := true, retrained := false })
    if (s.link k).retraining then s2 else s2.count (bvlU k) 8 1

/-- One NAK is one retry: the second in a row takes the port to RECOVERING (R405, R410). -/
def State.sendNak (s : State) (k : Nat) : State :=
  let u := bvlU k
  let c := s.get u Reg.bvl.retryConsec + 1
  let s1 := (s.sendControl k .nak []).count u 6 1
  let s2 := (s1.put u Reg.bvl.retryConsec (sat 31 c)).setLink k (fun l => { l with discarding := true })
  if 2 ≤ c then s2.enterRecovering k else s2

/-- The block numbers between the oldest unacknowledged block and the next new one (R406). -/
def LinkRec.ackOk (l : LinkRec) (next : Nat) : Bool :=
  let first := (l.retry.head?.map (fun b => b.1)).getD l.txNext
  decide ((65536 + next - first) % 65536 ≤ l.retry.length)

/-- A control block acknowledges every block before NEXT_SEQ; one outside the unacknowledged range is a protocol error (R403, R406). -/
def State.takeAck (s : State) (k next : Nat) : State :=
  let l := s.link k
  if l.ackOk next then
    let first := (l.retry.head?.map (fun b => b.1)).getD l.txNext
    (s.setLink k (fun l => { l with retry := l.retry.drop ((65536 + next - first) % 65536) })).finishLeaving k
  else s.startRetrain k (some 4)

/-! ## Training -/

/-- PEER_DETECT (R408): a port in DETECT starts initial training. A module whose suit is not wired keeps every port in DETECT (R417). -/
def execPeerDetect (port : Nat) (s : State) : Host.Outcome State Fault Refusal :=
  if 24 ≤ port then .next s
  else .next (
    if s.linkState port = lkDetect ∧ s.node / 16 ≤ s.get (bvfU 0) Reg.bvf.topoSuitsM1 then
      let u := bvlU port
      ((s.setLinkState port lkTraining).put u Reg.bvl.lanesTxFailed 0).put u Reg.bvl.lanesRxFailed 0
    else s)

/-- Sets the lanes and widths that a MAP phase gives. Transmit lanes that INJECT.LANE_FAIL silences fail at the peer (R414). -/
def State.mapLanes (s : State) (k txFailed rxFailed : Nat) : State :=
  let u := bvlU k
  let tx := txFailed ||| s.get u Reg.bvl.lanesTxFailed ||| s.get u Reg.bvl.injectLaneFail
  let rx := rxFailed ||| s.get u Reg.bvl.lanesRxFailed
  let s1 := (s.put u Reg.bvl.lanesTxFailed tx).put u Reg.bvl.lanesRxFailed rx
  let s2 := (s1.put u Reg.bvl.linkTxWidth (widthCode (healthyLanes tx).length)).put u Reg.bvl.linkRxWidth (widthCode (healthyLanes rx).length)
  s2.put u Reg.bvl.lanesRxActive (activeMask rx)

/-- Both directions have a width. -/
def State.wide (s : State) (k : Nat) : Bool :=
  s.get (bvlU k) Reg.bvl.linkTxWidth != 0 && s.get (bvlU k) Reg.bvl.linkRxWidth != 0

/-- TRAINING_COMPLETE (R408): ACTIVE at the widths that the healthy lanes give, with block numbers from 0; or DOWN. `locked`: the
phases ended with codeword and frame lock. -/
def execTrainingComplete (port txFailed rxFailed : Nat) (locked : Bool) (s : State) : Host.Outcome State Fault Refusal :=
  if 24 ≤ port then .next s
  else .next (
    if s.linkState port = lkTraining then
      let s1 := s.mapLanes port txFailed rxFailed
      if locked && s1.wide port then
        let m := (s1.link port).marginal
        let s2 := ((s1.setLinkState port lkActive).setLink port (fun _ => { marginal := m })).put (bvlU port) Reg.bvl.retryConsec 0
        let s3 := (s2.put (bvfU 0) (Reg.bvf.peerPstate.at port) 0).put (bvlU port) Reg.bvl.linkDownReason 0
        let s4 := s3.setNet (fun n => { n with newPorts := port :: n.newPorts.filter (fun x => x != port) })
        (s4.irq (bvlU port) (2 ^ 20)).linkEvent port 0x6005 lkTraining lkActive 0 0
      else s1.goDown port 5
    else s)

/-- RETRAIN_COMPLETE (R409): lanes and widths anew, then the unacknowledged blocks from the peer's NEXT_SEQ; DOWN when a direction
keeps fewer than four lanes. -/
def execRetrainComplete (port txFailed rxFailed peerNext : Nat) (s : State) : Host.Outcome State Fault Refusal :=
  if 24 ≤ port then .next s
  else .next (
    if s.linkUp port && (s.link port).retraining then
      let u := bvlU port
      let oldTx := s.get u Reg.bvl.linkTxWidth
      let oldRx := s.get u Reg.bvl.linkRxWidth
      let oldMask := s.get u Reg.bvl.lanesRxActive
      let oldTxMask := activeMask (s.get u Reg.bvl.lanesTxFailed)
      let s1 := s.mapLanes port txFailed rxFailed
      if !s1.wide port then s1.goDown port 5
      else
        let narrowed := decide (s1.get u Reg.bvl.linkTxWidth < oldTx) || decide (s1.get u Reg.bvl.linkRxWidth < oldRx)
        let swapped := s1.get u Reg.bvl.lanesRxActive != oldMask || activeMask (s1.get u Reg.bvl.lanesTxFailed) != oldTxMask
        let s2 :=
          if narrowed then (((s1.count u 10 1).irq u (2 ^ 18)).linkEvent port 0x6003 lkRecovering lkRecovering 0 (s.recovered port)).marginal port
          else if swapped then (((s1.count u 9 1).irq u (2 ^ 17)).linkEvent port 0x6002 lkRecovering lkRecovering 0 (s.recovered port)).marginal port
          else s1
        let s3 := s2.setLink port (fun l => { l with retraining := false, retrained := true })
        let s4 := s3.takeAck port peerNext
        if (s4.link port).retraining then s4
        else
          let s5 := if (s4.link port).retry.isEmpty then s4 else s4.replayAll port
          if s5.get u Reg.bvl.retryConsec = 0 then s5.endRecovering port else s5
    else s)

/-! ## Receiving (R405) -/

/-- Counts codewords that the FEC corrected, each with the positions of its wrong symbols, and those symbols by physical receive lane
(R401, R402, R415). -/
def State.corrected (s : State) (k : Nat) (fixed : List (List Nat)) : State :=
  let u := bvlU k
  let hits := fixed.flatten.map (laneOfSymbol (s.get u Reg.bvl.lanesRxActive))
  let n := hits.length
  if n = 0 then s
  else
    let s1 := hits.dedup.foldl (fun t i =>
      t.put u (Reg.bvl.laneSymCorr.at i) (sat (2 ^ 32 - 1) (t.get u (Reg.bvl.laneSymCorr.at i) + hits.count i))) s
    let s2 := (s1.count u 3 (fixed.filter (fun c => !c.isEmpty)).length).count u 13 n
    let s3 := s2.setLink k (fun l => { l with corr := l.corr.filter (fun e => decide (s.now < e.1 + 3_600_000_000_000)) ++ [(s.now, n)] })
    let all : Nat := (s3.link k).corr.foldl (fun (a : Nat) (e : Nat × Nat) => a + e.2) 0
    if 1_000_000_000 ≤ all then s3.marginal k else s3

/-- A bad slot (R402, R405): NAK, unless a REPLAY is awaited already. `bad`: uncorrectable codewords that it overlaps; with none its CRC
failed after correction. -/
def State.takeBadSlot (s : State) (port bad : Nat) : State :=
  let s1 := if bad = 0 then s.count (bvlU port) 5 1 else s.count (bvlU port) 4 bad
  if (s1.link port).discarding then s1 else s1.sendNak port

/-- DATA_BLOCK (R405): a slot with a data block, and the codewords that it ends, each with the positions of its wrong symbols. More than
16 in one codeword make it uncorrectable, and the slot bad (R401, R402). In a good slot the expected block is passed to the router,
which takes the packets whose last flit it carries into its input buffers, each one hop further. -/
def execDataBlock (port seq : Nat) (pkts : List Pkt) (fixed : List (List Nat)) (s : State) : Host.Outcome State Fault Refusal :=
  if 24 ≤ port then .next s
  else .next (
    if !s.linkUp port then s
    else if fixed.any (fun c => decide (rsCorrects < c.length)) then
      (s.corrected port (fixed.filter (fun c => decide (c.length ≤ rsCorrects)))).takeBadSlot port
        (fixed.filter (fun c => decide (rsCorrects < c.length))).length
    else
      let u := bvlU port
      let s0 := s.corrected port fixed
      let l := s0.link port
      if l.discarding || decide (seq ≠ l.rxNext) then s0
      else
        let s1 := (s0.setLink port (fun l => { l with rxNext := (l.rxNext + 1) % 65536, unacked := l.unacked + 1 })).count u 1 1
        let s2 := pkts.foldl (fun t p =>
          let q := { p with hops := p.hops + 1 }
          let fk := port * 8 + q.tc
          t.setNet (fun n =>
            { n with
              inq := n.inq ++ [(port, q)], flitsRx := bump n.flitsRx fk (q.len + 1),
              deepest :=
                let key := fk * 4 + q.hops - 1
                let depth := ((n.inq ++ [(port, q)]).filter (fun e => e.1 == port && e.2.tc == q.tc && e.2.hops == q.hops)).foldl (fun a e => a + e.2.len + 1) 0
                Sparse.set (fun _ => 0) n.deepest key (max depth (Sparse.get (fun _ => 0) n.deepest key)) })) s1
        let s3 := s2.put u Reg.bvl.retryConsec 0
        let s4 := if (s3.link port).retraining then s3 else s3.endRecovering port
        if s4.get u Reg.bvl.ackEvery ≤ (s4.link port).unacked then s4.sendControl port .idle [] else s4)

/-- BAD_SLOT (R402, R405): a slot that a receiver finds bad. -/
def execBadSlot (port uncorrectable : Nat) (s : State) : Host.Outcome State Fault Refusal :=
  if 24 ≤ port then .next s
  else .next (if !s.linkUp port then s else s.takeBadSlot port uncorrectable)

/-- NAK_REPEAT_TIMEOUT (R405): the awaited REPLAY has not come. -/
def execNakRepeatTimeout (port : Nat) (s : State) : Host.Outcome State Fault Refusal :=
  if 24 ≤ port then .next s
  else .next (if s.linkUp port && (s.link port).discarding && !(s.link port).retraining then s.sendNak port else s)

/-- IDLE (R403): an acknowledgement. -/
def execIdle (port next : Nat) (s : State) : Host.Outcome State Fault Refusal :=
  if 24 ≤ port then .next s
  else .next (if s.linkUp port then s.takeAck port next else s)

/-- NAK (R406): everything unacknowledged is sent again from NEXT_SEQ. -/
def execNak (port next : Nat) (s : State) : Host.Outcome State Fault Refusal :=
  if 24 ≤ port then .next s
  else .next (
    if !s.linkUp port then s
    else if (s.link port).ackOk next then (s.takeAck port next).replayAll port
    else s.startRetrain port (some 4))

/-- REPLAY_BLOCK (R405): a REPLAY with SEQ = NEXT_SEQ resumes acceptance. -/
def execReplayBlock (port next seq : Nat) (s : State) : Host.Outcome State Fault Refusal :=
  if 24 ≤ port then .next s
  else .next (
    if !s.linkUp port then s
    else
      let s1 := s.takeAck port next
      if seq = (s1.link port).rxNext then s1.setLink port (fun l => { l with discarding := false }) else s1)

/-- RETRAIN (R409): a RETRAIN from the peer; the port does not answer it with one of its own. -/
def execRetrain (port next : Nat) (s : State) : Host.Outcome State Fault Refusal :=
  if 24 ≤ port then .next s
  else .next (if s.linkUp port then (if (s.link port).ackOk next then s.takeAck port next else s).startRetrain port none else s)

/-- GOODBYE (R411, R412): DOWN with reason PEER_OFF. -/
def execGoodbye (port : Nat) (s : State) : Host.Outcome State Fault Refusal :=
  if 24 ≤ port then .next s
  else .next (if s.linkUp port then s.goDown port 2 else s)

/-! ## Triggers and timers -/

/-- ACK_TIMEOUT (R406): an unprompted replay. -/
def execAckTimeout (port : Nat) (s : State) : Host.Outcome State Fault Refusal :=
  if 24 ≤ port then .next s
  else .next (if s.linkUp port && !(s.link port).retry.isEmpty && !(s.link port).retraining then s.replayAll port else s)

/-- RETRY_LIMIT (R409). -/
def execRetryLimit (port : Nat) (s : State) : Host.Outcome State Fault Refusal :=
  if 24 ≤ port then .next s
  else .next (
    if s.linkUp port && decide (s.get (bvlU port) Reg.bvl.retryLimit ≤ s.get (bvlU port) Reg.bvl.retryConsec) then s.startRetrain port (some 1) else s)

/-- LOSS_OF_SIGNAL (R409, R411): receive lanes that show no signal. Fewer than four with signal take the port DOWN; an active one
starts a retrain; an inactive one changes nothing. -/
def execLossOfSignal (port mask : Nat) (s : State) : Host.Outcome State Fault Refusal :=
  if 24 ≤ port then .next s
  else .next (
    if !s.linkUp port then s
    else if (healthyLanes mask).length < 4 then s.goDown port 1
    else if s.get (bvlU port) Reg.bvl.lanesRxActive &&& mask ≠ 0 then s.startRetrain port (some 2)
    else s)

/-- SER_SWAP (R409): an active lane's corrected-symbol rate exceeds SER.SWAP while an inactive healthy lane exists. -/
def execSerSwap (port lane rate : Nat) (s : State) : Host.Outcome State Fault Refusal :=
  if 24 ≤ port then .next s
  else .next (
    let u := bvlU port
    let lim := s.get u Reg.bvl.serSwap
    let act := s.get u Reg.bvl.lanesRxActive
    if s.linkUp port && decide (lim ≠ 0) && decide (lim < rate) && bit act lane &&
        (healthyLanes (s.get u Reg.bvl.lanesRxFailed)).any (fun i => !bit act i)
    then s.startRetrain port (some 3) else s)

/-- CMD_RETRAIN (R409). -/
def execCmdRetrain (port : Nat) (src : Src) (s : State) : Host.Outcome State Fault Refusal :=
  if 24 ≤ port then .next s
  else .next (if notVf src then s.startRetrain port (some 4) else s)

/-- RECOVER_MAX (R410). -/
def execRecoverMax (port : Nat) (s : State) : Host.Outcome State Fault Refusal :=
  if 24 ≤ port then .next s
  else .next (if s.linkState port = lkRecovering then s.goDown port 4 else s)

/-- DOWN_RETRY (R408): with AUTO_UP, a DOWN port looks for a peer again. -/
def execDownRetry (port : Nat) (s : State) : Host.Outcome State Fault Refusal :=
  if 24 ≤ port then .next s
  else .next (
    if s.linkState port = lkDown ∧ s.flag (bvlU port) Reg.bvl.optAutoUp ∧ s.ustate (bvlU port) = stRunning
    then s.setLinkState port lkDetect else s)

/-- Injection is allowed in module states TEST and RECOVERY only (R414). -/
def State.testOrRecovery (s : State) : Bool := s.get bootU Reg.boot.stateMode == 1 || s.get bootU Reg.boot.stateMode == 3

/-- A page's expert region accepts writes (R46). -/
def State.expert (s : State) (u : UnitId) : Bool := s.flag u Reg.common.expertEn

/-- INJECT_LANE_FAIL (R414): silences physical transmit lanes. A write in a module state other than TEST and RECOVERY is ignored. -/
def execInjectLaneFail (port : Nat) (src : Src) (mask : Nat) (s : State) : Host.Outcome State Fault Refusal :=
  if 24 ≤ port then .next s
  else .next (
    let u := bvlU port
    if notVf src && s.expert u && s.testOrRecovery then s.put u Reg.bvl.injectLaneFail mask else s)

/-- INJECT_BAD_SLOT (R414): arms the port. -/
def execInjectBadSlot (port : Nat) (src : Src) (s : State) : Host.Outcome State Fault Refusal :=
  if 24 ≤ port then .next s
  else .next (
    let u := bvlU port
    if notVf src && s.expert u then s.put u Reg.bvl.injectBadSlot 1 else s)

end Sys2Proof.Machine
end

