-- ==== Sys2Proof/Machine/Fabric.lean ====
section
/-!
DEFINITION. The fabric (chapter 16): wiring, discovery, routing, loss, the epoch flip and its marks, telemetry (R417 to R448).
-/
namespace Sys2Proof.Machine

/-! ## Wiring and discovery (R417 to R421) -/

/-- The peer node and peer port that the wiring gives port k of node n (R418). -/
def wiredPeer (n k : Nat) : Nat × Nat :=
  let s := n / 16
  let seat := n % 16
  if k < 15 then (s * 16 + (seat + k + 1) % 16, 14 - k)
  else
    let j := (k - 15) / 3
    let m := (k - 15) % 3
    let u := if j < s then j else j + 1
    let j' := if s < u then s else s - 1
    (u * 16 + seat, 15 + 3 * j' + m)

/-- Sets a port's peer state; a change to MISWIRED is raised and recorded (R420). -/
def State.setPeerState (s : State) (k st : Nat) : State :=
  let old := s.peerState k
  let s1 := s.put (bvfU 0) (Reg.bvf.peerPstate.at k) st
  if st = 2 ∧ old ≠ 2 then
    (s1.irq (routerOf k) (2 ^ 16)).eventM (some (routerOf k)) 0x7001
      (fmtL0 k (s1.linkState k) (s1.linkState k) 0 (s1.get (bvlU k) Reg.bvl.lanesRxActive))
      (fmtL1 (s1.get (bvfU 0) (Reg.bvf.peerNode.at k)) (s1.get (bvfU 0) (Reg.bvf.peerPort.at k)) (s1.get (bvlU k) Reg.bvl.linkTxWidth)
        (s1.get (bvlU k) Reg.bvl.linkRxWidth) 0)
  else s1

/-- The state that this module reports of itself (R422). -/
def State.ownState (s : State) : Nat :=
  if s.minimal then 3 else if s.flag bootU Reg.boot.stateComputeReset then 2 else 1

/-- The node ID that a HELLO on suit port i implies (R421). -/
def impliedNode (peer i : Nat) : Nat := peer / 16 * 16 + (peer % 16 + 31 - i) % 16

/-- The node ID that more than half of the ACTIVE suit ports imply, when it is not this module's own. -/
def State.strapVerdict (s : State) : Option Nat :=
  let act := (List.range 15).filter (fun i => s.linkState i == lkActive)
  let ids := (act.filter (fun i => s.peerState i != 0)).map (fun i => impliedNode (s.get (bvfU 0) (Reg.bvf.peerNode.at i)) i)
  match ids.find? (fun n => decide (act.length < 2 * (ids.filter (fun m => m == n)).length)) with
  | some n => if n = s.node then none else some n
  | none => none

/-- STRAP_MISMATCH: every port is MISWIRED until the next full configuration (R421). -/
def State.strapMismatch (s : State) (implied : Nat) : State :=
  if s.flag (bvfU 0) Reg.bvf.topoStrapMismatch then s
  else
    let s1 := (s.put (bvfU 0) Reg.bvf.topoStrapMismatch 1).put (bvfU 1) Reg.bvf.topoStrapMismatch 1
    let s2 := (s1.irq (bvfU 0) (2 ^ 17)).irq (bvfU 1) (2 ^ 17)
    (List.range 24).foldl (fun t k => t.setPeerState k 2) (s2.eventM (some (bvfU 0)) 0x7002 (fmtN implied 0 0 0 0) 0)

/-- HELLO_TIMER (R419): a HELLO leaves on an ACTIVE port. -/
def execHelloTimer (port : Nat) (s : State) : Host.Outcome State Fault Refusal :=
  if 24 ≤ port then .next s
  else .next (
    if s.linkState port = lkActive then
      let p := s.packet 0 0 kHello
      let d := leBytes 1 s.node ++ leBytes 1 port ++ leBytes 1 (s.get (bvfU 0) Reg.bvf.topoSuitsM1 + 1) ++
        leBytes 1 s.ownState ++ leBytes 1 1 ++ leBytes 8 fingerprint
      s.sendOn port { p with data := d }
    else s)

/-- HELLO (R419 to R421): records the peer, and compares it with the wiring. -/
def execHello (port node peerPort suits nstate : Nat) (s : State) : Host.Outcome State Fault Refusal :=
  if 24 ≤ port then .next s
  else .next (
    if !s.linkUp port then s
    else
      let u := bvfU 0
      let w := wiredPeer s.node port
      let s1 := ((s.put u (Reg.bvf.peerNode.at port) node).put u (Reg.bvf.peerPort.at port) peerPort).put u (Reg.bvf.peerNstate.at port) nstate
      let s2 := (s1.put u (Reg.bvf.peerExpNode.at port) w.1).put u (Reg.bvf.peerExpPort.at port) w.2
      let ok := decide ((node, peerPort) = w) && suits == s.get u Reg.bvf.topoSuitsM1 + 1 && !s.flag u Reg.bvf.topoStrapMismatch
      let s3 := s2.setPeerState port (if ok then 1 else 2)
      (match s3.strapVerdict with
      | some n => s3.strapMismatch n
      | none => s3).advanceDrain)

/-- HELLO_STALE (R419). -/
def execHelloStale (port : Nat) (s : State) : Host.Outcome State Fault Refusal :=
  if 24 ≤ port then .next s
  else .next (if s.linkState port = lkActive ∧ s.peerState port ≠ 0 then (s.setPeerState port 3).advanceDrain else s)

/-! ## Routing versions (R432, R437) -/

/-- VALID and LOCAL of an entry; candidate c's port and remaining hops; NPRI plus one. -/
def entryValid (e : Nat) : Bool := bit e 31
def entryLocal (e : Nat) : Bool := bit e 30
def entryCand (e c : Nat) : Nat := bits e (7 * c) 5
def entryRem (e c : Nat) : Nat := bits e (7 * c + 5) 2
def entryPri (e : Nat) : Nat := bits e 28 2 + 1

/-- Candidates eligible for a packet that has taken so many hops (R433), as candidate numbers. -/
def eligible (e hops : Nat) : List Nat :=
  (List.range 4).filter (fun c => entryCand e c != 0x1F && decide (1 ≤ entryRem e c) && decide (hops + entryRem e c ≤ 3))

/-- A port may carry a packet of version v: ports that reached ACTIVE after the flip carry none of the old one (R439). -/
def State.epochPort (s : State) (v k : Nat) : Bool := s.epochState v != 3 || !s.net.newPorts.contains k

/-- What the router decides about a packet (R433). -/
inductive Route where
  | eject
  | port (k : Nat)
  | wait
  | unroutable (reason : Nat)
  deriving DecidableEq, Repr

/-- The decision (R433). -/
def State.routing (s : State) (p : Pkt) : Route :=
  let e := s.route p.epoch p.dst
  if 11 ≤ p.kind ∨ p.tc = 7 then .unroutable lossUnroutable
  else if s.epochState p.epoch = 0 then .unroutable lossEpoch
  else if !entryValid e then .unroutable lossUnroutable
  else if entryLocal e then .eject
  else
    let el := eligible e p.hops
    let up := el.filter (fun c => s.portOk (entryCand e c) && s.epochPort p.epoch (entryCand e c))
    let pri := up.filter (fun c => decide (c < entryPri e))
    match pri[p.flow % pri.length]? with
    | some c => .port (entryCand e c)
    | none =>
      match up.find? (fun c => decide (entryPri e ≤ c)) with
      | some c => .port (entryCand e c)
      | none => if el.any (fun c => s.linkState (entryCand e c) == lkRecovering) then .wait else .unroutable lossUnroutable

/-! ## The flip (R437, R439) -/

/-- The epoch flip's commit (R437, R439): level-0 marks follow at once. -/
def State.flipTo (s : State) (v : Nat) : State :=
  let old := 1 - v
  let s1 := if s.epochState old = 2 then s.setEpochState old 3 else s
  let s2 := (s1.setEpochState v 2).put (bvfU 0) Reg.bvf.epochInj v
  let s3 := s2.put (bvfU 1) Reg.bvf.epochInj v
  let all := (List.range 24).flatMap (fun k => (List.range 7).flatMap (fun tc => (List.range 3).map (fun h => markPos k tc h)))
  let s4 := s3.setNet (fun n => { n with awaited := all, marked := [], newPorts := [] })
  match s4.draining with
  | none => s4
  | some _ => ((List.range 7).foldl (fun t tc => t.sendMarks tc 0) s4).advanceDrain

/-- MARK (R439): one position fewer is awaited. -/
def execMark (port tc level : Nat) (s : State) : Host.Outcome State Fault Refusal :=
  if 24 ≤ port then .next s
  else .next ((s.setNet (fun n => { n with awaited := n.awaited.filter (fun m => m != markPos port tc level) })).advanceDrain)

/-! ## Routing packets (R433, R434, R440 to R442) -/

/-- An UNROUTABLE record, coalesced per router (R596). -/
def State.unroutableEvent (s : State) (u : UnitId) (p : Pkt) : State :=
  if s.coal.any (winMatch u.page 0x7004) then
    { s with coal := s.coal.map (fun w =>
        if winMatch u.page 0x7004 w then { w with count := w.count + 1, v0 := if w.count = 0 then p.word else w.v0 } else w) }
  else ({ s with coal := s.coal ++ [newWin u.page 0x7004 s.now false] }).eventM (some u) 0x7004 p.word 1

/-- A packet is unroutable at a router: it is discarded, and its source is told (R434). -/
def State.unroutable (s : State) (u : UnitId) (from' : Option Nat) (p : Pkt) (reason : Nat) : State :=
  let s1 := ((s.count u 4 1).irq u (2 ^ 19)).unroutableEvent u p
  let s2 := match from' with
    | some k => s1.setNet (fun n => { n with unroutPk := bump n.unroutPk k 1 })
    | none => s1
  s2.sendLoss u p reason

/-- The tags of a port that are free, lowest first (R442). -/
def State.freeTag (s : State) (k : Nat) : Option Nat :=
  (List.range 1024).find? (fun t => s.net.reqs.all (fun q => q.tag != some (k, t)))

/-- A TC2 request, not a response (R427). -/
def tc2Request (p : Pkt) : Bool := p.tc == 2 && (p.kind == kRead || p.kind == kWrite)

/-- Classes 1 to 4, which need compute at their destination (R440). -/
def needsCompute (p : Pkt) : Bool := decide (1 ≤ p.tc ∧ p.tc ≤ 4)

/-- Takes a packet off its queue. -/
def State.takePacket (s : State) (from' : Option Nat) (p : Pkt) : State :=
  s.setNet (fun n => match from' with
    | none => { n with inj := n.inj.erase p }
    | some k => { n with inq := n.inq.erase (k, p) })

/-- The operation that a queued TC2 request belongs to: the oldest without a tag of its node and address. -/
def State.requestOf (s : State) (p : Pkt) : Option ReqRec :=
  s.net.reqs.find? (fun q => q.tag.isNone && q.kind != 2 && q.node == p.dst && q.addr == p.addr)

/-- Gives a TC2 request the tag of the port on which it leaves. -/
def State.tagRequest (s : State) (p : Pkt) (k t : Nat) : State :=
  match s.requestOf p with
  | none => s
  | some q => s.setNet (fun n => { n with reqs := n.reqs.replace q { q with tag := some (k, t) } })

/-- The router of a port stops its output: FREEZE on the port or on the router (R412, R430, R441). -/
def State.outputFrozen (s : State) (k : Nat) : Bool :=
  s.flag (bvlU k) Reg.common.freeze || s.flag (routerOf k) Reg.common.freeze

/-- Injection from local sources is stopped: the router is not RUNNING (R441); TC0 goes on. -/
def State.injectionOff (s : State) (k : Nat) (p : Pkt) : Bool := s.ustate (routerOf k) != stRunning && p.tc != 0

/-- A TC2 response, which has the other half of its buffer (R427). -/
def tc2Response (p : Pkt) : Bool := p.tc == 2 && !tc2Request p

/-- Number of the queue in which a packet waits among an output port's queues of its class (R430): by input port and level, or the
local injection queue; the two halves of TC2 wait apart (R427). -/
def queueOf (from' : Option Nat) (p : Pkt) : Nat :=
  let half := if tc2Response p then 1 else 0
  match from' with
  | some i => i * 8 + p.hops % 4 * 2 + half
  | none => 192 + half

/-- Queues of a class at an output port. -/
abbrev portQueues : Nat := 194

/-- The group that a local TC1 packet belongs to; 64 for the messages of the Dealer and the page engine. -/
def turnOf (from' : Option Nat) (p : Pkt) : Nat :=
  if from'.isSome || p.tc != 1 then 64
  else if p.kind = kColl then bits p.extra 32 6 else if p.extra % 256 < 0x40 then bits p.extra 8 6 else 64

/-- The head packet of every queue, with the input port it came from; of the local TC1 packets, the head of each group (R462). -/
def State.heads (s : State) : List (Option Nat × Pkt) :=
  let all := s.net.inj.map (fun p => (none, p)) ++ s.net.inq.map (fun e => (some e.1, e.2))
  all.foldl (fun acc e =>
    if acc.any (fun x => x.2.tc == e.2.tc && queueOf x.1 x.2 == queueOf e.1 e.2 && turnOf x.1 x.2 == turnOf e.1 e.2) then acc else acc ++ [e]) []

/-- The router ends a local packet for a destination known to have no compute (R440). -/
def State.knownAbsent (s : State) (from' : Option Nat) (p : Pkt) : Bool :=
  from'.isNone && needsCompute p && decide (p.dst ≠ s.node) && s.nodeState p.dst != 1

/-- Bit of the downstream buffer that a packet enters (R427): class × 3 + level, and 24 + level for TC2 responses. -/
def bufferBit (p : Pkt) : Nat := if tc2Response p then 24 + p.hops else p.tc * 3 + p.hops

/-- A head packet may be granted on output port k: it is routed there, its downstream buffer is not among those without credit for it
(the mask `full`), the output runs, the retry buffer has room, and a local packet may be injected and finds a tag (R404, R427, R430,
R441, R442). -/
def State.sendable (s : State) (k full : Nat) (e : Option Nat × Pkt) : Bool :=
  !s.knownAbsent e.1 e.2 && decide (s.routing e.2 = .port k) && !bit full (bufferBit e.2) && !s.outputFrozen k && s.retryRoom k e.2 &&
    (e.1.isSome || (!s.injectionOff k e.2 && (!tc2Request e.2 || (s.freeTag k).isSome)))

/-- A granted packet leaves on port k; an armed INJECT.LOSS ends a local one as if the port went DOWN (R445). -/
def State.forward (s : State) (from' : Option Nat) (p : Pkt) (k : Nat) : State :=
  let r := routerOf k
  let s0 := s.takePacket from' p
  match from' with
  | some i =>
    let s1 := s0.count r 2 1
    (if routerOf i = r then s1 else s1.count (routerOf i) 3 1).sendOn k p
  | none =>
    if s.flag r Reg.bvf.injectLoss then ((s0.put r Reg.bvf.injectLoss 0).count r 5 1).sendLoss r p lossPortDown
    else if tc2Request p then
      match s.freeTag k with
      | none => s
      | some t => ((s0.tagRequest p k t).count r 0 1).sendOn k { p with tag := t, tagPort := k }
    else (s0.count r 0 1).sendOn k p

/-- The packet that a granted queue sends on port k: of the local TC1 packets, that of the next group in turn (R462). -/
def State.inTurn (s : State) (k : Nat) (l : List (Option Nat × Pkt)) : Option (Option Nat × Pkt) :=
  match scanClass 65 (Sparse.get (fun _ => 64) s.net.turns k + 1) (fun g => l.any (fun e => turnOf e.1 e.2 == g)) with
  | none => none
  | some g => l.find? (fun e => turnOf e.1 e.2 == g)

/-- Output port k grants the next packet (R255, R430). -/
def State.arbitrate (s : State) (k full : Nat) : State :=
  let cands := s.heads.filter (s.sendable k full)
  let w (t : Nat) : Nat := bits (s.get (bvfU 0) (Reg.bvf.weight.at k)) (4 * t) 4
  match arbDecide 8 portQueues w (fun t => cands.any (fun e => e.2.tc == t)) (fun t q => cands.any (fun e => e.2.tc == t && queueOf e.1 e.2 == q))
      (Sparse.get (fun _ => {}) s.net.arbs k) with
  | none => s
  | some (t, q, a) =>
    match s.inTurn k (cands.filter (fun e => e.2.tc == t && queueOf e.1 e.2 == q)) with
    | none => s
    | some e =>
      let turns := if e.1.isNone && e.2.tc == 1 then Sparse.set (fun _ => 64) s.net.turns k (turnOf e.1 e.2) else s.net.turns
      (s.setNet (fun n => { n with arbs := Sparse.set (fun _ => {}) n.arbs k a, turns := turns })).forward e.1 e.2 k

/-- Routes one packet; where it goes to a port, that port's arbiter grants its next packet. -/
def State.routePacket (s : State) (from' : Option Nat) (p : Pkt) (full : Nat) : State :=
  let u := match from' with | some k => routerOf k | none => bvfU 0
  if s.knownAbsent from' p then
    (s.takePacket from' p).sendLoss u p lossAbsent
  else
    match s.routing p with
    | .eject =>
      let s1 := s.takePacket from' p
      if needsCompute p && s.ownState != 1 then s1.sendLoss u p lossAbsent else s1.count u 1 1
    | .port k => s.arbitrate k full
    | .wait => s
    | .unroutable r => (s.takePacket from' p).unroutable u from' p r

/-- PACKET_ROUTE (R430, R433): the head packet of an injection queue's class, or of an input port's class and hop level, is routed:
ejected, held, ended, or put to the arbiter of its output port, whose downstream buffers without credit the mask `full` names. `rsp`
chooses the half of a TC2 queue. An ejected packet reaches its engine by the command of its kind. -/
def execPacketRoute (from' : Option Nat) (tc hops : Nat) (rsp : Bool) (full : Nat) (s : State) : Host.Outcome State Fault Refusal :=
  match s.heads.find? (fun e => e.1 == from' && e.2.tc == tc && tc2Response e.2 == rsp && (from'.isNone || e.2.hops == hops)) with
  | none => .next s
  | some e => .next ((s.routePacket e.1 e.2 full).advanceDrain)

/-! ## Registers of the routers -/

/-- ROUTE_WRITE (R437): accepted for an EMPTY or LOADED version, which is LOADED then. -/
def execRouteWrite (src : Src) (ver node value : Nat) (s : State) : Host.Outcome State Fault Refusal :=
  .next (
    if notVf src && decide (ver < 2) && decide (node < 64) && decide (s.epochState ver ≤ 1) then
      (s.setRoute ver node value).setEpochState ver 1
    else s)

/-- The telemetry window of a port, value by value (R446): flits sent and received by class, buffer depths, highest depths, cycles
without credit and without a grant by class (measurements, and free), NAKs, corrected symbols, packets lost and unroutable. -/
def State.telemetry (s : State) (k : Nat) : List Nat × State :=
  let depth (tc h : Nat) : Nat := (s.net.inq.filter (fun e => e.1 == k && e.2.tc == tc && e.2.hops == h + 1)).foldl (fun a e => a + e.2.len + 1) 0
  let lv := (List.range 8).flatMap (fun tc => (List.range 3).map (fun h => (tc, h)))
  let cyc := (List.range 16).map (fun i => (Config.freeValue (s.freeIdx + i)).toNat)
  ((List.range 8).map (fun t => Sparse.get (fun _ => 0) s.net.flitsTx (k * 8 + t)) ++
    (List.range 8).map (fun t => Sparse.get (fun _ => 0) s.net.flitsRx (k * 8 + t)) ++
    lv.map (fun x => depth x.1 x.2) ++ lv.map (fun x => Sparse.get (fun _ => 0) s.net.deepest ((k * 8 + x.1) * 4 + x.2)) ++ cyc ++
    [s.live (bvlU k) 6, s.live (bvlU k) 13, Sparse.get (fun _ => 0) s.net.lostPk k, Sparse.get (fun _ => 0) s.net.unroutPk k],
   ({ s with freeIdx := s.freeIdx + 16 }).setNet (fun n => { n with deepest := n.deepest.filter (fun e => e.1 / 32 != k) }))

/-- The window's bytes from 0x600 to 0x77F. -/
def telemBytes (v : List Nat) : List Byte :=
  ((v.take 16).flatMap (fun x => leBytes 8 x)) ++ (((v.drop 16).take 48).flatMap (fun x => leBytes 2 x)) ++
    ((v.drop 64).flatMap (fun x => leBytes 8 x))

/-- TELEM_SEL (R446): a write of SEL captures the port's window. -/
def execTelemSel (r : Nat) (src : Src) (port : Nat) (s : State) : Host.Outcome State Fault Refusal :=
  if 2 ≤ r then .next s
  else .next (
    if notVf src then
      let s1 := s.put (bvfU r) Reg.bvf.telemSel port
      if port < 24 then
        let t := s1.telemetry port
        t.2.setNet (fun n => { n with telem := t.1 })
      else s1
    else s)

/-- TELEM_TIMER (R443): each port's window goes to the collector on TC6. -/
def execTelemTimer (s : State) : Host.Outcome State Fault Refusal :=
  .next (
    if s.get (bvfU 0) Reg.bvf.telemPeriodMs = 0 then s
    else (List.range 24).foldl (fun t k =>
      let w := t.telemetry k
      let p := t.packet (t.get (bvfU 0) Reg.bvf.telemCollect) 6 kTelem
      w.2.inject { p with data := telemBytes w.1 }) s)

/-- INJECT_LOSS (R445): arms the router. -/
def execInjectLoss (r : Nat) (src : Src) (s : State) : Host.Outcome State Fault Refusal :=
  if 2 ≤ r then .next s
  else .next (if notVf src && s.expert (bvfU r) then s.put (bvfU r) Reg.bvf.injectLoss 1 else s)

end Sys2Proof.Machine
end

