-- ==== Sys2Proof/Machine/Remote.lean ====
section
/-!
DEFINITION. Remote memory (R281, R296, R297, R391, R435, R442): requests at their target, answers at their requester, pushes, and
transfers that are lost.
-/
namespace Sys2Proof.Machine

/-! ## At the target -/

/-- A range touches a sealed range of some partition (R499). -/
def State.touchesSealed (s : State) (k n : Nat) : Bool := (linesOf k n).any s.sealedLine

/-- Source partition q may reach n bytes at an address from a node: RMAP, the owner of the range, and no sealed range (R248, R268,
R391, R499). -/
def State.remoteAllowed (s : State) (q node a n : Nat) : Bool :=
  bit (s.get hifU (Reg.hif.rmapNodes.at q)) node && decide (dgaSpace a < 2) && s.inPart q (dgaSpace a) (dgaOff a) n &&
    !s.touchesSealed (dgaKey a) n

/-- A refusal is logged; a Table slice of another partition is logged by the bank too, unless its number is VACANT (R248, R263, R391). -/
def State.refuseRemote (s : State) (p : Pkt) (n : Nat) : State :=
  let x := s.physOf .tbl (s.bankOf (dgaOff p.addr)).1
  let s1 :=
    if bit (s.get hifU (Reg.hif.rmapNodes.at p.part)) p.src && dgaSpace p.addr == 1 && x != 0xFFFF && !s.inSlices p.part (dgaOff p.addr) n then
      (s.memEvent ⟨.tbl, x⟩ 0x4005 p.addr 0 false).irq ⟨.tbl, x⟩ (2 ^ 18)
    else s
  s1.eventM none 0xB005 p.addr (p.src % 64 + p.part % 8 * 2 ^ 8)

/-- Bytes that a READ asks for: at most a line. -/
def readLen (p : Pkt) : Nat := if 1 ≤ p.extra ∧ p.extra ≤ 256 then p.extra else 256

/-- Bytes 16 to 31 of a PUSH_ACK (R465). -/
def pushAckExtra (seq n : Nat) (refused : Bool) : Nat := 0x80 + seq % 2 ^ 32 * 2 ^ 32 + n % 2 ^ 32 * 2 ^ 64 + (if refused then 2 ^ 96 else 0)

/-- The bytes that a remote request or a push reaches, as a range on this module. -/
def State.remoteSpan (s : State) (p : Pkt) : Nat × Nat :=
  (dgaOf s.node (dgaSpace p.addr) (dgaOff p.addr), if p.kind = kRead then readLen p else max 1 p.data.length)

/-- The answer to a TC2 request. -/
def State.reply (s : State) (p : Pkt) (k : Nat) : Pkt :=
  let r := s.packet p.src 2 k
  { r with part := p.part, tag := p.tag, tagPort := p.tagPort, flow := flowOf p.addr, addr := p.addr }

/-- Serves a remote request or a push as its source partition, at the banks as class MOVE (R254, R391), or refuses it: a read gets zeros
marked poisoned, a write is dropped and its acknowledgement carries the refusal (R296). -/
def State.serveRemote (s : State) (p : Pkt) : State :=
  let span := s.remoteSpan p
  let n := p.data.length
  let ok := s.remoteAllowed p.part p.src p.addr span.2
  if p.kind = kRead then
    let r := s.reply p kReadData
    if ok then
      let s1 := (s.readAll clsMove [span]).1
      s1.inject { r with data := s1.bytes (dgaKey p.addr) span.2, poison := s1.anyPoison (dgaKey p.addr) span.2 }
    else (s.refuseRemote p span.2).inject { r with data := List.replicate span.2 0, poison := true }
  else
    let s1 := if ok then s.writeMem clsMove (dgaKey p.addr) p.data p.poison else s.refuseRemote p span.2
    if p.tc = 2 then s1.inject { s.reply p kWriteAck with poison := !ok }
    else s1.inject { s.packet p.src 0 kMsg with extra := pushAckExtra (p.extra % 2 ^ 32) (if ok then n else 0) !ok }

/-- A remote request or push waits: what it reaches is held, or an earlier one that waits reaches the same line (R258, R266, R286). -/
def State.remoteWaits (s : State) (p : Pkt) : Bool :=
  let lines (x : Pkt) : List Nat := linesOf (dgaKey (s.remoteSpan x).1) (s.remoteSpan x).2
  s.remoteAllowed p.part p.src p.addr (s.remoteSpan p).2 &&
    (s.heldIn [s.remoteSpan p] || s.net.waiting.any (fun q => (lines q).any (fun l => (lines p).contains l)))

/-- Takes a remote request or push: it is served, or waits. -/
def State.takeRemote (s : State) (p : Pkt) : State :=
  if s.remoteWaits p then s.setNet (fun n => { n with waiting := n.waiting ++ [p] }) else s.serveRemote p

/-- Serves what a held bank, device or port kept waiting, in order, as far as it may go now. -/
def State.serveWaiting (s : State) : State :=
  match s.net.waiting with
  | [] => s
  | w => w.foldl State.takeRemote (s.setNet (fun n => { n with waiting := [] }))

/-- REMOTE_REQUEST (R391): a TC2 READ or WRITE. A packet that was cut short is discarded. -/
def execRemoteRequest (p : Pkt) (s : State) : Host.Outcome State Fault Refusal :=
  .next (if p.abort || !tc2Request p || decide (8 ≤ p.part) then s else s.rouse.takeRemote p)

/-- PUSH_RECEIVE (R296): a push payload is written under the target's checks, and acknowledged on TC0. -/
def execPushReceive (p : Pkt) (s : State) : Host.Outcome State Fault Refusal :=
  .next (if p.abort || decide (p.kind ≠ kWrite) || !(p.tc == 3 || p.tc == 4) || decide (8 ≤ p.part) then s else s.rouse.takeRemote p)

/-! ## At the requester -/

/-- A DMA engine's unit. -/
def dmaU (i : Nat) : UnitId := ⟨.dma, i⟩

/-- Drops a request's record: its tag or push credit is free again. -/
def State.dropReq (s : State) (q : ReqRec) : State :=
  let s1 := s.setNet (fun n => { n with reqs := n.reqs.erase q })
  if q.kind = 2 then s1.setPushUsed q.node q.cls (s1.pushUsed q.node q.cls - q.len) else s1

/-- REMOTE_RESPONSE (R296): READ_DATA enters the staging buffer and goes to the lane's destination with its poison; a WRITE_ACK with
POISON is a refusal. -/
def execRemoteResponse (p : Pkt) (s : State) : Host.Outcome State Fault Refusal :=
  .next (
    if p.abort then s
    else
      match s.net.reqs.find? (fun q => q.tag == some (p.tagPort, p.tag) && (if q.kind = 0 then p.kind == kReadData else q.kind == 1 && p.kind == kWriteAck)) with
      | none => s
      | some q =>
        let s1 := s.dropReq q
        if !q.live then s1
        else
          let u := dmaU q.engine
          if q.kind = 0 then (s1.stagePiece u q (p.data.take q.len) p.poison).dmaAck u p.poison false
          else s1.dmaAck u false p.poison)

/-- PUSH_ACK (R296): push credit returns; a refusal is the lane's. -/
def execPushAck (node cls seq : Nat) (refused : Bool) (s : State) : Host.Outcome State Fault Refusal :=
  .next (
    match s.net.reqs.find? (fun q => q.kind == 2 && q.node == node && q.cls == cls && q.seq == seq) with
    | none => s
    | some q =>
      let s1 := s.dropReq q
      if q.live then s1.dmaAck (dmaU q.engine) false refused else s1)

/-- A TC2 operation completes poisoned (R435). -/
def State.tc2Failed (s : State) (q : ReqRec) : State :=
  let u := dmaU q.engine
  let r := routerOf ((q.tag.map (fun t => t.1)).getD 0)
  let s1 := (s.count r 9 1).irq r (2 ^ 21)
  s1.eventPM (s1.partOfUnit u).toList (some u) 0x7006 q.addr (fmtM (blkCode .dma) q.engine 1 0)

/-- A remote transfer is lost (R297, R435): it is sent again, at most twice; beyond that, or when its target is absent, the lane ends
REMOTE_FAILED, and a read's destination line is poisoned. -/
def State.lostRequest (s : State) (q : ReqRec) (absent : Bool) : State :=
  let u := dmaU q.engine
  if !q.live then s.dropReq q
  else if !absent && decide (q.resends < 2) then
    let q' := { q with tag := none, resends := q.resends + 1 }
    let s1 := (s.setNet (fun n => { n with reqs := n.reqs.replace q q' })).count u 5 1
    let s2 := if q.kind = 2 then s1 else s1.count (routerOf ((q.tag.map (fun t => t.1)).getD 0)) 8 1
    s2.inject (s2.reqPacket q')
  else
    let s1 := s.dropReq q
    if q.kind = 2 then s1.dmaFail u
    else
      let s2 := s1.tc2Failed q
      (if q.kind = 0 then s2.poisonOuts q.part [(dgaOf s2.node (q.dst / 2 ^ 48) (q.dst % 2 ^ 48), q.len)] else s2).dmaFail u

/-- TC2_TIMEOUT (R435): a request that holds this tag has had no response in RREQ.TIMEOUT_US. -/
def execTc2Timeout (port tag : Nat) (s : State) : Host.Outcome State Fault Refusal :=
  .next (
    match s.net.reqs.find? (fun q => q.tag == some (port, tag)) with
    | none => s
    | some q => s.lostRequest q false)

/-- PUSH_ACK_TIMEOUT (R297). -/
def execPushAckTimeout (node cls seq : Nat) (s : State) : Host.Outcome State Fault Refusal :=
  .next (
    match s.net.reqs.find? (fun q => q.kind == 2 && q.node == node && q.cls == cls && q.seq == seq) with
    | none => s
    | some q => s.lostRequest q false)

/-- The request that a lost header names. -/
def State.reqOf (s : State) (p : Pkt) : Option ReqRec :=
  if p.tc = 2 then if !tc2Request p then none else s.net.reqs.find? (fun q => q.tag == some (p.tagPort, p.tag) || q.tag.isNone && q.kind != 2 && q.node == p.dst && q.addr == p.addr)
  else s.net.reqs.find? (fun q => q.kind == 2 && q.node == p.dst && q.cls == p.tc && q.seq == p.extra % 2 ^ 32)

end Sys2Proof.Machine
end

