-- ==== Sys2Proof/Machine/CollRows.lean ====
section
/-!
DEFINITION. The commands of the collective engines (R453 to R482), the node states (R422) and the packets that a source loses
(R434, R435): what comes in from the other members and the routers.
-/
namespace Sys2Proof.Machine

/-! ## The six operations -/

/-- ALL_REDUCE (R466); opcodes that the class lacks end here too. -/
def execAllReduce (u : UnitId) (s : State) : Host.Outcome State Fault Refusal := atUnit .ce u s (s.ceRun u (fun o => decide (o < 2 ∨ 6 < o)))
/-- REDUCE_SCATTER (R466). -/
def execReduceScatter (u : UnitId) (s : State) : Host.Outcome State Fault Refusal := atUnit .ce u s (s.ceRun u (fun o => o == 2))
/-- ALL_GATHER (R466, R470). -/
def execAllGather (u : UnitId) (s : State) : Host.Outcome State Fault Refusal := atUnit .ce u s (s.ceRun u (fun o => o == 3))
/-- BROADCAST (R466). -/
def execBroadcast (u : UnitId) (s : State) : Host.Outcome State Fault Refusal := atUnit .ce u s (s.ceRun u (fun o => o == 4))
/-- BARRIER (R466). -/
def execBarrier (u : UnitId) (s : State) : Host.Outcome State Fault Refusal := atUnit .ce u s (s.ceRun u (fun o => o == 5))
/-- ALL_TO_ALL (R469). -/
def execAllToAll (u : UnitId) (s : State) : Host.Outcome State Fault Refusal := atUnit .ce u s (s.ceRun u (fun o => o == 6))

/-! ## Chunks and messages -/

/-- Early data in the kitty; a chunk's last packet counts it (R486). -/
def State.kitty (s : State) (g : Nat) (p : Pkt) : State :=
  let s1 := s.updGrp g (fun r => { r with kitty := r.kitty ++ [(bits p.extra 80 8, p)] })
  if bit p.extra 72 then s1.count (s1.grpPage g) 6 1 else s1

/-- COLL_CHUNK (R458, R464): a chunk packet. A packet of an older GEN is discarded; one of a collective that is not yet open lands in
the kitty. -/
def execCollChunk (p : Pkt) (s : State) : Host.Outcome State Fault Refusal :=
  .next (
    let g := bits p.extra 32 6
    let gen := bits p.extra 40 8
    let sq := p.extra % 2 ^ 32
    let early := bit p.extra 73
    if p.kind ≠ kColl ∨ s.grp g Reg.ce.grpValid = 0 then s
    else if gen ≠ s.gen g ∧ !genNewer (s.gen g) gen then
      if early then s.returnCredit g p.src 0 p.data.length sq else s
    else
      match s.findColl g sq with
      | some c => if c.opened ∧ gen = s.gen g then (s.takePkt c p).moveOn g sq else s.kitty g p
      | none => if !seqBefore sq (s.grp g Reg.ce.grpNextSeq) || gen != s.gen g then s.kitty g p else s)

/-- A message has been taken out of this node's control buffer: its credit goes back (R460). -/
def State.taken (s : State) (g node payload : Nat) : State := s.returnCredit g node 2 (32 + payload) 0

/-- A message of the group's own GEN from one of its live members: the member's index. -/
def State.sender (s : State) (g node gen : Nat) : Option Nat :=
  if s.grp g Reg.ce.grpValid = 0 ∨ gen ≠ s.gen g then none else (s.grpNodes g).findIdx? (fun n => n == node)

/-- READY (R458): the receiver's window for collective sq opens. -/
def execReady (g node gen sq : Nat) (s : State) : Host.Outcome State Fault Refusal :=
  if 64 ≤ g then .next s
  else .next (
    let s1 := s.taken g node 0
    match s1.sender g node gen with
    | none => s1
    | some j => (s1.updGrp g (fun r => { r with readys := r.readys ++ [(j, sq)] })).moveOn g sq)

/-- COUNTS (R469). -/
def execCounts (g node gen sq : Nat) (counts : List Nat) (s : State) : Host.Outcome State Fault Refusal :=
  if 64 ≤ g then .next s
  else .next (
    let s1 := s.taken g node (4 * counts.length)
    match s1.sender g node gen with
    | none => s1
    | some j => (s1.updGrp g (fun r => { r with counts := r.counts ++ [(j, sq, counts)] })).moveOn g sq)

/-- NAK_CHUNK (R464): the whole chunk is sent again from its source, with RESENT. -/
def execNakChunk (g node gen sq ph ch : Nat) (s : State) : Host.Outcome State Fault Refusal :=
  if 64 ≤ g then .next s
  else .next (
    let s1 := s.taken g node 0
    match s1.sender g node gen, s1.findColl g sq with
    | some j, some c =>
      if c.sent.any (fun x => x.1 == chunkKey j ph ch) then
        let s2 := (s1.sendChunk c j ph ch (!(s1.grpRec g).readys.contains (j, sq)) true).updColl g sq (fun x => { x with resent := true })
        (s2.count (ceU c.engine) 5 1).irq (ceU c.engine) (2 ^ 16)
      else s1
    | _, _ => s1)

/-- DIGEST (R473). -/
def execDigest (g node gen sq sent result flags : Nat) (s : State) : Host.Outcome State Fault Refusal :=
  if 64 ≤ g then .next s
  else .next (
    let s1 := s.taken g node 32
    match s1.sender g node gen with
    | none => s1
    | some j =>
      (s1.updGrp g (fun r => { r with digests := r.digests ++ [⟨j, sq, sent, result, flags⟩] })).moveOn g sq)

/-- CANCEL (R475): applied when its GEN is newer, or equal with a lower S than the last. -/
def execCancel (g node gen sq : Nat) (s : State) : Host.Outcome State Fault Refusal :=
  if 64 ≤ g then .next s
  else .next (
    let s1 := s.taken g node 0
    if s1.grp g Reg.ce.grpValid = 0 ∨ !(s1.grpNodes g).contains node then s1
    else
      let lower := match (s1.grpRec g).lastS with | some x => seqBefore sq x | none => false
      if genNewer (s1.gen g) gen || (gen == s1.gen g && lower) then s1.applyCancel g gen sq else s1)

/-- LOST (R477). -/
def execLost (g node mask : Nat) (s : State) : Host.Outcome State Fault Refusal :=
  if 64 ≤ g then .next s
  else .next ((s.taken g node 8).loseMembers g (nodesOf mask))

/-- REFORM (R479): a survivor enters REFORMING and answers. -/
def execReform (g node gen mask : Nat) (s : State) : Host.Outcome State Fault Refusal :=
  if 64 ≤ g then .next s
  else .next (
    let s1 := s.taken g node 8
    if s1.grp g Reg.ce.grpValid = 0 ∨ s1.grp g Reg.ce.grpReform = 0 ∨ !bit (s1.grpMembers g) node then s1
    else
      let s2 := s1.applyReform g gen mask
      s2.sendMsgPkt (s2.msgPacket g node mReformAck gen 0 0 []))

/-- REFORM_ACK (R479): with every one in, the coordinator sends REFORM_DONE. -/
def execReformAck (g node gen : Nat) (s : State) : Host.Outcome State Fault Refusal :=
  if 64 ≤ g then .next s
  else .next (
    let s1 := s.taken g node 0
    if s1.gstate g ≠ gsReforming ∨ gen ≠ s1.gen g ∨ !(s1.grpRec g).unacked.contains node then s1
    else
      let s2 := s1.updGrp g (fun r => { r with unacked := r.unacked.filter (fun n => n != node) })
      if (s2.grpRec g).unacked.isEmpty then (s2.sendSurvivors g mReformDone gen 0 []).endReform g else s2)

/-- REFORM_DONE (R479). -/
def execReformDone (g node gen : Nat) (s : State) : Host.Outcome State Fault Refusal :=
  if 64 ≤ g then .next s
  else .next (
    let s1 := s.taken g node 0
    if s1.gstate g = gsReforming ∧ gen = s1.gen g then s1.endReform g else s1)

/-- Messages that control credit lets go, in order. -/
def State.sendWaiting (s : State) : List Pkt → State
  | [] => s
  | p :: r => State.sendWaiting (s.sendMsgPkt p) r

/-- CREDIT (R458 to R460): kitty, window or control credit returns, and what waited for it goes. -/
def execCredit (g node pool n : Nat) (s : State) : Host.Outcome State Fault Refusal :=
  if 64 ≤ g then .next s
  else .next (
    if pool = 2 then
      let used := Sparse.get (fun _ => 0) s.net.ctlUsed node - n
      let w := s.net.ctlWait
      (s.setNet (fun x => { x with ctlUsed := Sparse.set (fun _ => 0) x.ctlUsed node used, ctlWait := [] })).sendWaiting w
    else if 2 < pool then s
    else
      match (s.grpNodes g).findIdx? (fun x => x == node) with
      | none => s
      | some j =>
        let used := s.outstandingTo g j pool - n
        let s1 := s.updGrp g (fun r => { r with outB := Sparse.set (fun _ => 0) r.outB (j * 2 + pool) used })
        match s1.accepted g with
        | [] => s1
        | c :: _ => s1.moveOn g c.seq)

/-! ## Loss, timeout, injection -/

/-- Members of a posted collective whose data, READY or DIGEST is outstanding (R477, R480). -/
def State.outstandingMembers (s : State) (c : CollRec) : List Nat :=
  ((List.range (s.collN c)).filter (fun j => j != s.collIx c)).filter (fun j =>
    (s.peers c).contains j && !(s.grpRec c.group).readys.contains (j, c.seq) ||
      !(s.inStreams c).all (fun x => x.1 != j || (List.range (s.chunksIn c.group (s.inLen c x.1 x.2))).all (fun k =>
        c.got.any (fun q => q.key == chunkKey x.1 x.2 k))) ||
      !(s.grpRec c.group).digests.any (fun d => d.member == j && d.seq == c.seq))

/-- COLLECTIVE_TIMEOUT (R480): the members still outstanding are lost. -/
def execCollectiveTimeout (g : Nat) (s : State) : Host.Outcome State Fault Refusal :=
  if 64 ≤ g then .next s
  else .next (
    match s.accepted g with
    | [] => s
    | c :: _ => if c.posted then s.loseMembers g ((s.outstandingMembers c).map (fun j => (s.grpNodes g).getD j 64)) else s)

/-- Sends a lost chunk of collective c again, to the member at an index: the chunk and phase that the packet named, while the group's generation
is still the packet's. -/
def State.resendChunk (s : State) (p : Pkt) (c : CollRec) : Option Nat → State
  | none => s
  | some j =>
    if bits p.extra 40 8 = s.gen c.group ∧ c.sent.any (fun x => x.1 == chunkKey j (bits p.extra 38 2) (bits p.extra 48 16))
    then s.sendChunk c j (bits p.extra 38 2) (bits p.extra 48 16) (bit p.extra 73) true
    else s

/-- Sends a lost collective packet's chunk, or a lost message, again. -/
def State.resend (s : State) (p : Pkt) : State :=
  if p.kind = kColl then
    match s.findColl (bits p.extra 32 6) (bits p.extra 0 32) with
    | none => s
    | some c => s.resendChunk p c ((s.grpNodes c.group).findIdx? (fun n => n == p.dst))
  else if p.kind = kMsg then s.inject p
  else s

/-- An UNROUTABLE loss of a chunk of collective c toward the member at an index. -/
def State.chunkLoss (s : State) (p : Pkt) (c : CollRec) : Option Nat → Nat × State
  | none => (0, s)
  | some j =>
    let key := chunkKey j (bits p.extra 38 2) (bits p.extra 48 16)
    let n := Sparse.get (fun _ => 0) c.losses key + 1
    (n, s.updColl c.group c.seq (fun x => { x with losses := Sparse.set (fun _ => 0) x.losses key n }))

/-- An UNROUTABLE loss toward a node: the number of consecutive ones, this one included. -/
def State.countLoss (s : State) (p : Pkt) : Nat × State :=
  if p.kind = kColl then
    match s.findColl (bits p.extra 32 6) (bits p.extra 0 32) with
    | none => (0, s)
    | some c => s.chunkLoss p c ((s.grpNodes c.group).findIdx? (fun n => n == p.dst))
  else
    let n := Sparse.get (fun _ => 0) (s.grpRec (bits p.extra 8 6)).msgLoss p.dst + 1
    (n, s.updGrp (bits p.extra 8 6) (fun r => { r with msgLoss := Sparse.set (fun _ => 0) r.msgLoss p.dst n }))

/-- The group that a TC1 packet belongs to. -/
def pktGroup (p : Pkt) : Nat := if p.kind = kColl then bits p.extra 32 6 else bits p.extra 8 6

/-- LOSS (R435): the source re-issues, sends again, or gives up, by class. `p` is the packet whose header the LOSS carries. -/
def execLoss (p : Pkt) (reason : Nat) (s : State) : Host.Outcome State Fault Refusal :=
  .next (
    if p.src ≠ s.node then s
    else
      let s0 := s.count (bvfU 0) 7 1
      if p.tc = 1 then
        let dealerMsg := p.kind == kMsg && decide (0x40 ≤ p.extra % 256)
        if reason = lossPortDown then s0.resend p
        else if dealerMsg then s0
        else if reason = lossAbsent then s0.loseMembers (pktGroup p) [p.dst]
        else
          let c := s0.countLoss p
          if 3 ≤ c.1 then c.2.loseMembers (pktGroup p) [p.dst] else c.2
      else if 2 ≤ p.tc ∧ p.tc ≤ 4 then
        match s0.reqOf p with
        | none => s0
        | some q => s0.lostRequest q (reason == lossAbsent)
      else s0)

/-- CHUNK_RESEND_TIMER (R477): 1 ms after an UNROUTABLE loss, the chunk or message goes again. -/
def execChunkResendTimer (p : Pkt) (s : State) : Host.Outcome State Fault Refusal :=
  .next (if p.tc = 1 ∧ p.src = s.node then s.resend p else s)

/-- CE_INJECT_CRC (R485). -/
def execCeInjectCrc (u : UnitId) (src : Src) (s : State) : Host.Outcome State Fault Refusal :=
  if !u.valid || u.blk != .ce then .next s
  else .next (if notVf src && s.expert u then s.put u Reg.ce.injectCrc 1 else s)

/-- CE_INJECT_DIGEST (R485). -/
def execCeInjectDigest (u : UnitId) (src : Src) (s : State) : Host.Outcome State Fault Refusal :=
  if !u.valid || u.blk != .ce then .next s
  else .next (if notVf src && s.expert u then s.put u Reg.ce.injectDigest 1 else s)

/-! ## Node states (R422) -/

/-- Sets the state that both routers hold for a node. -/
def State.putNode (s : State) (n st : Nat) : State :=
  let old := s.get (bvfU 0) Reg.bvf.nodeState
  let v := setBits old (2 * n) 2 st
  (s.put (bvfU 0) Reg.bvf.nodeState v).put (bvfU 1) Reg.bvf.nodeState v

/-- A node changes state: NODE_STATE is raised and recorded; leads lose a member whose node is down or COMPUTE_ABSENT (R364), and groups
lose a node that is no longer UP (R477). -/
def State.setNodeState (s : State) (n st : Nat) : State :=
  let old := s.nodeState n
  if old = st then s
  else
    let s1 := ((s.putNode n st).irq (bvfU 0) (2 ^ 18)).irq (bvfU 1) (2 ^ 18)
    let s2 := s1.eventM (some (bvfU 0)) 0x7003 (fmtN n old st 0 0) 0
    if st = 1 ∨ n = s.node then s2
    else
      let s3 := s2.groupsLoseNode n
      (List.range 8).foldl (fun t p =>
        let member := (List.range (t.groupSize p)).any (fun m => t.memberNode p m == n)
        if (st == 0 || st == 2) && t.pstate p == 1 && decide (1 < t.groupSize p) && t.isLead p && member
        then t.journaled (fun u => u.leadLosesMember p) else t) s3

/-- The entry for a node in the version injected under is VALID (R422). -/
def State.nodeValid (s : State) (n : Nat) : Bool := entryValid (s.route (s.get (bvfU 0) Reg.bvf.epochInj) n)

/-- Sends this module's state to every node whose entry is VALID. -/
def State.sendKeepalives (s : State) : State :=
  (List.range 64).foldl (fun t n =>
    if t.nodeValid n && n != t.node then
      let p := t.packet n 0 kKeepalive
      t.inject { p with data := leBytes 1 t.ownState }
    else t) (s.setNodeState s.node s.ownState)

/-- KEEPALIVE_TIMER (R422): nodes whose entry is no longer VALID are DOWN. -/
def execKeepaliveTimer (s : State) : Host.Outcome State Fault Refusal :=
  .next (((List.range 64).foldl (fun t n => if !t.nodeValid n && n != t.node then t.setNodeState n 0 else t) s).sendKeepalives)

/-- KEEPALIVE (R422). -/
def execKeepalive (node nstate : Nat) (s : State) : Host.Outcome State Fault Refusal :=
  if 64 ≤ node then .next s
  else .next (if s.nodeValid node && node != s.node && decide (1 ≤ nstate ∧ nstate ≤ 3) then s.setNodeState node nstate else s)

/-- NODE_TIMEOUT (R422). -/
def execNodeTimeout (node : Nat) (s : State) : Host.Outcome State Fault Refusal :=
  if 64 ≤ node then .next s
  else .next (if node = s.node ∨ s.nodeState node = 0 then s else (s.count (bvfU 0) 11 1).setNodeState node 0)

/-- What waited for a bank, a device or a port that was held goes on where it may: remote requests in order, and collectives (R258, R266,
R286). -/
def State.goesOn (s : State) : State := s.serveWaiting.resumeColls

/-- REMAP_APPLY (R574). -/
def execRemapApply (u : UnitId) (s : State) : Host.Outcome State Fault Refusal :=
  .next (if u.blk = .tbl ∨ u.blk = .mem then (s.remapGoes u).goesOn else s.remapGoes u)

end Sys2Proof.Machine
end

