-- ==== Sys2Proof/Machine/TableBank.lean ====
section
/-!
DEFINITION. The Table banks and their arbiters (R242 to R263). A request waits at its port until the arbiter grants it; its
effect takes place when the last beat of its unit moves. A scrub pass and a spare copy are one command each.
-/
namespace Sys2Proof

/-- Beats of a request. -/
def TblReq.beats (r : TblReq) : Nat := (r.off % 64 + r.len + 63) / 64

/-- The request lies in one line of the Table, and names a port and a class of a bank (R242, R254, R255). -/
def TblReq.ok (r : TblReq) : Bool :=
  decide (r.off < 0x2000_0000 ∧ 0 < r.len ∧ r.off % 256 + r.len ≤ 256 ∧ r.port < 6 ∧ r.cls < 6 ∧ r.op < 5 ∧ r.amo < 9) &&
    (r.op == 0 || r.op == 3 || r.data.length == r.len) && (decide (r.op < 2) || (r.len == 4 || r.len == 8) && r.off % r.len == 0) &&
    (r.keep == 0 || r.op == 1)

end Sys2Proof

namespace Sys2Proof.Machine

/-- Arbiter classes of a bank (R254). -/
abbrev bankClasses : Nat := 6

/-- Weight of a class (R261). -/
def State.bankWeight (s : State) (u : UnitId) (k : Nat) : Nat := bits (s.get u Reg.tbl.arbW) (4 * k) 4

/-- Classes that may be granted: only maintenance while the bank is frozen or not RUNNING (R255, R258). -/
def State.grantable (s : State) (u : UnitId) (k : Nat) : Bool := decide (k = 5) || (s.ustate u == stRunning && !s.frozen u)

/-- Grants the next unit when none moves (R255). -/
def State.grant (s : State) (u : UnitId) : State :=
  let r := s.bank u
  if r.moving.isSome then s
  else
    let holds (k p : Nat) : Bool := r.waiting.any (fun q => q.cls == k && q.port == p)
    match arbDecide bankClasses 6 (s.bankWeight u) (fun k => s.grantable u k && r.waiting.any (fun q => q.cls == k)) holds r.arb with
    | none => s
    | some (k, p, r1) =>
      match r.waiting.find? (fun q => q.cls == k && q.port == p) with
      | none => s
      | some q =>
        (s.setBank u { arb := r1, moving := some q, waiting := r.waiting.eraseP (fun x => x.cls == k && x.port == p) }).count u k 1

/-- A request is subject to the owner check, and passes it (R248). -/
def State.tblAllowed (s : State) (r : TblReq) : Bool :=
  decide (4 ≤ r.cls) || s.inSlices r.part r.off r.len

/-- What an AMO stores, from the old value and its operand, both of w bits. -/
def amoValue (fn w old x : Nat) : Nat :=
  let sg (v : Nat) : Int := if 2 ^ (w - 1) ≤ v then (v : Int) - 2 ^ w else v
  match fn with
  | 0 => x
  | 1 => (old + x) % 2 ^ w
  | 2 => old ^^^ x
  | 3 => old &&& x
  | 4 => old ||| x
  | 5 => if sg old ≤ sg x then old else x
  | 6 => if sg old ≤ sg x then x else old
  | 7 => min old x
  | _ => max old x

/-- A load-reserve (R252): one reservation a core, the oldest of the bank displaced when every entry is in use. -/
def State.loadReserve (s : State) (u : UnitId) (r : TblReq) : State :=
  let l := s.bankOf r.off
  let mine := s.resv.filter (fun x => x.core != r.core)
  let here (x : Resv) : Bool := (s.bankOf (x.granule * 64 % 2 ^ 48)).1 == l.1
  let limit := clampTo 1 32 (s.get u Reg.tbl.resvEntries)
  let kept := if (mine.filter here).length < limit then mine else mine.eraseP here
  { s with resv := kept ++ [⟨r.key / 64, r.core⟩] }

/-- A quarter of the host's that its full-line write has taken in (R602). -/
def State.absorbed (s : State) (r : TblReq) : Bool :=
  match s.merge with
  | some m => m.line == r.key / 256 && m.beats.length == 4 && r.cls == 4 && r.port == 5 && r.len == 64
  | none => false

/-- A utility core's kernel sees poison in what it reads at a bank (R224). -/
def State.coreSeesPoison (s : State) (r : TblReq) (p : Bool) : State :=
  if p ∧ r.cls = clsUc then s.setUnit ⟨.uc, r.core⟩ (fun x => { x with kernel := x.kernel.map (fun k => { k with poisonSeen := true }) }) else s

/-- The effect of a unit whose last beat has moved (R250, R252). A beat written in part is read first. -/
def State.tblPerform (s : State) (u : UnitId) (r : TblReq) : State :=
  let line := r.key / 256
  let rd (t : State) : State :=
    let t1 := (t.meet line r.key r.len).1.count u 6 r.beats
    let t2 := if t1.poisoned line then t1.count u 12 1 else t1
    t2.coreSeesPoison r (t2.poisoned line)
  match r.op with
  | 0 =>
    let s1 := rd s
    s1.tblAnswer (s1.poisoned line) (s1.bytes r.key r.len)
  | 1 =>
    if s.absorbed r then s.tblAnswer false []
    else
      let s1 := if r.keep = 0 then s else (s.meet line r.key r.len).1
      ((s1.putMem r.key (mergeKeep r.keep (s1.bytes r.key r.len) r.data) r.poison).count u 7 r.beats).tblAnswer false []
  | 2 =>
    let s1 := rd s
    let old := s1.bytes r.key r.len
    let p := s1.poisoned line
    let new := leBytes r.len (amoValue r.amo (8 * r.len) (leNat old) (leNat r.data))
    (((s1.putMem r.key new r.poison).count u 7 1).count u 8 1).tblAnswer p old
  | 3 =>
    let s1 := (rd s).loadReserve u r
    s1.tblAnswer (s1.poisoned line) (s1.bytes r.key r.len)
  | _ =>
    let ok := s.resv.any (fun x => x.core == r.core && x.granule == r.key / 64)
    let s1 := { s with resv := s.resv.filter (fun x => x.core != r.core) }
    if ok then ((s1.putMem r.key r.data r.poison).count u 7 1).respond [0] else s1.respond [1]

/-- TABLE_REQUEST (R248, R255): the request reaches its bank, is checked against the slice's owner, and is granted at once when
the arbiter is idle. On a VACANT number reads return zeros marked poisoned and writes are dropped (R260). -/
def execTableRequest (r : TblReq) (s : State) : Host.Outcome State Fault Refusal :=
  .next (
    if !r.ok then s
    else
      let x := s.physOf .tbl (s.bankOf r.off).1
      if x = 0xFFFF then s.answerLost r
      else
        let u : UnitId := ⟨.tbl, x⟩
        if s.tblAllowed r then (s.setBank u { s.bank u with waiting := (s.bank u).waiting ++ [r] }).grant u
        else ((s.memEvent u 0x4005 (s.lineDga (r.key / 256)) 0 false).irq u (2 ^ 18)).answerLost r)

/-- BURST_COMPLETE (R255, R256): the last beat of the unit moves, and the arbiter decides the next. A draining bank with no unit in
flight enters QUIESCED (R258). -/
def execBurstComplete (u : UnitId) (s : State) : Host.Outcome State Fault Refusal :=
  if u.blk ≠ .tbl then .next s
  else .next (
    match (s.bank u).moving with
    | none => s.quiesce u
    | some r =>
      let s1 := ((s.tblPerform u r).setBank u { s.bank u with moving := none }).grant u
      (if (s1.bank u).moving.isNone then (s1.quiesce u).grant u else s1).reviewAll)

/-- Line of the memory that a logical bank's row holds (the map of R244 and R245, backward). -/
def State.lineOfRow (s : State) (l row : Nat) : Nat :=
  let b := row / 128
  let r := row % 128
  let q := if bit (s.get ⟨.tbl, 0⟩ Reg.tbl.mapBandMode) b
    then (b + 16 * (r % 2)) * 65536 + r / 2 * 1024 + l % 512 * 2 + l / 512
    else (b + 16 * (l / 512)) * 65536 + r * 512 + l % 512
  2 ^ 40 + q

/-- What n grants of class 5 in a row leave of a bank's arbiter with weights w, nobody else waiting (R255). -/
def maintGrants (w : Nat → Nat) (n : Nat) (r : ArbRec) : ArbRec :=
  let c := r.credit.getD 5 0
  let credits (f : Nat → Nat) : List Nat := (List.range bankClasses).map f
  let last := ((List.range bankClasses).map (fun i => r.last.getD i 5)).set 5 5
  let c' := if n ≤ c then c - n else if w 5 = 0 then 0 else (w 5 - (n - c) % w 5) % w 5
  { credit := if n ≤ c then (credits (fun i => r.credit.getD i 0)).set 5 c' else (credits w).set 5 c'
    last := last, ptr := if 0 < c' then 5 else 0 }

/-- The bank's rows are read or written by maintenance, one unit each: `reg` counts the beats (R253, R255, R259). -/
def State.maintain (s : State) (u : UnitId) (reg : Nat) : State :=
  ((s.setBank u { s.bank u with arb := maintGrants (s.bankWeight u) 2048 (s.bank u).arb }).count u 5 2048).count u reg 8192

/-- Maintenance reads the bank's lines that hold errors, each by the whole line, and counts its poisoned ones. -/
def State.readDamage (s : State) (u : UnitId) (ls : List Nat) : State :=
  let s1 := ls.foldl (fun t n => (t.meet n (n * 256) 256).1) s
  match (s1.poison.filter (fun l => decide (s1.holder l = some u))).length with
  | 0 => s1
  | n => s1.count u 12 n

/-- TABLE_SCRUB (R253): every beat of the bank is read and checked; correctable errors, those that age brings among them, are
corrected, and uncorrectable ones poison their lines. -/
def execTableScrub (u : UnitId) (aged : List (Nat × Bool)) (s : State) : Host.Outcome State Fault Refusal :=
  if u.blk ≠ .tbl then .next s
  else .next (
    match s.logicalOf u with
    | none => s
    | some l =>
      if s.get u Reg.tbl.scrubPeriodMs = 0 || !s.grantable u 5 then s
      else
        let key (b : Nat) : Nat := s.lineOfRow l (b / 4 % 2048) * 4 + b % 4
        let s1 := { s with hurt := { s.hurt with
          ce := s.hurt.ce ++ (aged.filter (fun (x : Nat × Bool) => !x.2)).map (fun (x : Nat × Bool) => key x.1)
          ue := s.hurt.ue ++ (aged.filter (fun (x : Nat × Bool) => x.2)).map (fun (x : Nat × Bool) => key x.1) } }
        let hit := ((s1.hurt.ce ++ s1.hurt.ue).map (fun b => b / 4)).dedup.filter (fun n => decide (s1.holder n = some u))
        ((s1.readDamage u hit).maintain u 6).reviewAll)

/-- A virtual function reaches the pages of its partition's units alone (R33). -/
def State.reaches (s : State) (src : Src) (u : UnitId) : Bool :=
  match src with
  | .vf p => s.partOfUnit u == some p
  | _ => true

/-- Arms an injection (R261, R286, R289): an expert field, so EXPERT_EN gates it. -/
def State.arm (s : State) (u : UnitId) (src : Src) (k : Nat) : State :=
  if s.reaches src u && s.flag u Reg.common.expertEn && !s.isArmed u k then
    { s with hurt := { s.hurt with armed := s.hurt.armed ++ [(u, k)] } }
  else s

/-- TBL_INJECT_CE (R261). -/
def execTblInjectCe (u : UnitId) (src : Src) (s : State) : Host.Outcome State Fault Refusal :=
  if u.blk ≠ .tbl then .next s else .next (s.arm u src 0)

/-- TBL_INJECT_UE (R261). -/
def execTblInjectUe (u : UnitId) (src : Src) (s : State) : Host.Outcome State Fault Refusal :=
  if u.blk ≠ .tbl then .next s else .next (s.arm u src 1)

/-- Lines written to a spare as zeros with poison, and what damaged them is gone. -/
def State.loseLines (s : State) (ls : List Nat) : State :=
  let s1 := ls.foldl (fun t l => (t.zeroRun (l * 256) 256).poisonLine l) s
  { s1 with hurt := { s1.hurt with
      ce := s1.hurt.ce.filter (fun b => !ls.contains (b / 4)), ue := s1.hurt.ue.filter (fun b => !ls.contains (b / 4))
      tags := s1.hurt.tags.filter (fun l => !ls.contains l) } }

/-- LINES_LOST (R597), after a copy that wrote poisoned lines. -/
def State.linesLost (s : State) (u : UnitId) (ps : List Nat) (n : Nat) : State :=
  if n = 0 then s else s.eventPM ps (some u) 0x4007 (blkCode u.blk + u.ix * 2 ^ 16) n

/-- BANK_SPARE_COPY (R259): the failing bank has drained; its lines with their tags are copied to the spare at class 5, correctable
errors corrected, those that cannot be read as zeros with poison, and the number maps to the spare. Waiting requests proceed there. -/
def execBankSpareCopy (u : UnitId) (unreadable : List Nat) (s : State) : Host.Outcome State Fault Refusal :=
  if u.blk ≠ .tbl then .next s
  else .next (
    match s.talon.remaps.find? (fun r => r.retiring == u && r.stage == .committed) with
    | none => s
    | some r =>
      match r.spare with
      | none => s
      | some i =>
        let sp : UnitId := ⟨.tbl, i⟩
        if (s.bank u).moving.isSome && !s.faulted u then s
        else
          let line (row : Nat) : Nat := s.lineOfRow r.logical row
          let bad := if s.faulted u then (List.range 2048).map line
            else (((unreadable.map (fun x => x % 2048)).map line) ++ (s.hurt.ue.map (fun b => b / 4)).filter (fun n => decide (s.holder n = some u))).dedup
          let ps := s.concerned u
          let w := (s.bank u).moving.toList ++ (s.bank u).waiting
          let ces := ((s.hurt.ce.map (fun b => b / 4)).dedup).filter (fun n => decide (s.holder n = some u) && !bad.contains n)
          let s0 := (if s.faulted u then s else (s.readDamage u ces).maintain u 6).maintain sp 7
          let s1 := (s0.loseLines bad).applyRemap r
          let s2 := (s1.linesLost u ps bad.length).setBank u {}
          (s2.setBank sp { s2.bank sp with waiting := w }).grant sp |>.goesOn)

end Sys2Proof.Machine
end

