-- ==== Sys2Proof/Machine/CoreRun.lean ====
section
/-!
DEFINITION. A utility core executes its kernel (R220 to R224, R230): an instruction is fetched from local memory or from the kernel's image, decoded, and
takes its effect on the registers, local memory and the Table, or it traps. On each step in which no command waits every core that holds a
kernel executes one instruction (log entry 3).
-/
namespace Sys2Proof.Machine

/-- A core's part of the world while one of its instructions runs: local memory, POISON_SEEN, what the loads have returned, a trap as cause and
address, and whether it waits for a bank (R258). -/
structure CoreRun where
  st : State
  lmem : Sparse Byte
  seen : Bool
  vals : List Nat := []
  fault : Option (Nat × Nat) := none
  wait : Bool := false

/-- Why a kernel may not make an access: it is misaligned (R238), or out of reach (R223). Misalignment goes first (DESIGN CHOICE, log entry 192). -/
def State.coreBad (s : State) (p a n : Nat) (st : Bool) : Option (Nat × Nat) :=
  if a % n ≠ 0 then some (if st then 6 else 4, a)
  else if !s.ucReach p a n then some (if st then 7 else 5, a)
  else none

/-- A load. -/
def CoreRun.load (u : UnitId) (p : Nat) (x : CoreRun) (r : Nat × Nat) : CoreRun :=
  if x.fault.isSome || x.wait then x
  else match x.st.coreBad p r.1 r.2 false with
    | some f => { x with fault := some f }
    | none =>
      if ucLocal r.1 r.2 then { x with vals := x.vals ++ [leNat (Sparse.getRun memDefault x.lmem r.1 r.2)] }
      else if x.st.coreHeld r.1 r.2 then { x with wait := true }
      else
        let m := x.st.ucLoad u r.1 r.2
        { x with st := m.1, seen := x.seen || m.2, vals := x.vals ++ [leNat (m.1.bytes (coreKey r.1) r.2)] }

/-- A store. -/
def CoreRun.store (u : UnitId) (p : Nat) (x : CoreRun) (w : Nat × List Byte) : CoreRun :=
  if x.fault.isSome || x.wait then x
  else match x.st.coreBad p w.1 w.2.length true with
    | some f => { x with fault := some f }
    | none =>
      if ucLocal w.1 w.2.length then { x with lmem := Sparse.setRun memDefault x.lmem w.1 w.2 }
      else if x.st.coreHeld w.1 w.2.length then { x with wait := true }
      else { x with st := x.st.ucStore u w.1 w.2 }

/-- Free words that one instruction may take: the bits of agnostic elements, of each field of a segment. -/
abbrev freeWords : Nat := 32

/-- What an instruction takes from outside its core. -/
def State.coreEnv (s : State) : CoreEnv :=
  { now := s.now, free := fun j => (Config.freeValue (s.freeIdx + j)).toNat, order := Config.order s.freeIdx }

/-- The instruction has retired: the core holds its new registers and local memory. -/
def State.retired (s : State) (u : UnitId) (k : Kernel) : State := (s.setUnit u (fun x => { x with kernel := some k })).useFree freeWords

/-- A trap whose value the documents leave open. -/
def State.openTrap (s : State) (u : UnitId) (l : Lane) (pc cause : Nat) : State :=
  let w := s.fresh
  w.2.kernelTrap u l pc cause w.1

/-- An instruction's accesses, loads before stores, until one traps or waits. A fault-only-first load stops without a trap at a later element. -/
def State.coreAccess (s : State) (u : UnitId) (l : Lane) (k : Kernel) (i : CoreInstr) : CoreRun :=
  let x := (k.hart.loadsOf i).foldl (CoreRun.load u l.part) { st := s, lmem := k.lmem, seen := k.poisonSeen }
  (k.hart.storesOf i).foldl (CoreRun.store u l.part)
    { x with fault := if k.hart.laterElement i x.vals.length then none else x.fault }

/-- An instruction that computes, loads or stores. Where it waits for a bank nothing has happened yet. -/
def State.coreExec (s : State) (u : UnitId) (l : Lane) (k : Kernel) (i : CoreInstr) (len : Nat) : State :=
  let h := k.hart
  if !(h.scalarLegal i && h.vecLegal i) then s.openTrap u l h.pc.toNat 2
  else
    let x := s.coreAccess u l k i
    if x.wait then s
    else match x.fault with
      | some f => x.st.kernelTrap u l h.pc.toNat f.1 f.2
      | none => x.st.retired u { k with hart := h.after x.st.coreEnv i len x.vals, lmem := x.lmem, poisonSeen := x.seen }

/-- An atomic access at its Table bank (R224, R252): the value that it answers, and whether the line that it read is poisoned. -/
def State.coreAtomic (s : State) (r : TblReq) : State × Nat × Bool :=
  let x := s.physOf .tbl (s.bankOf r.off).1
  if x = 0xFFFF then (s, if r.op = 4 then 1 else 0, r.op != 4)
  else
    let t := (s.count ⟨.tbl, x⟩ r.cls 1).tblPerform ⟨.tbl, x⟩ r
    ({ t with resp := s.resp },
      if r.op = 4 then t.resp.headD 1 else leNat (t.resp.tail.map (BitVec.ofNat 8)), r.op != 4 && t.resp.headD 0 == 1)

/-- LR, SC and the AMOs: operation `op` of a bank. The Table alone takes atomics (R223). -/
def State.coreAmo (s : State) (u : UnitId) (l : Lane) (k : Kernel) (op fn n rd rs1 rs2 len : Nat) : State :=
  let h := k.hart
  let a := h.getX rs1
  let ld := op == 3
  if a % n ≠ 0 then s.kernelTrap u l h.pc.toNat (if ld then 4 else 6) a
  else if !s.ucTable l.part a n then s.kernelTrap u l h.pc.toNat (if ld then 5 else 7) a
  else if s.coreHeld a n then s
  else
    let m := s.coreAtomic ⟨0, clsUc, op, fn, u.ix, l.part, a - 0x2000_0000, n, if ld then [] else leBytes n (h.getX rs2), false, 0⟩
    let h1 := h.setX rd (ofSigned 64 (toSigned (8 * n) m.2.1))
    m.1.retired u { k with hart := { h1 with pc := h.pc + BitVec.ofNat 64 len, instret := h.instret + 1 }, poisonSeen := k.poisonSeen || m.2.2 }

/-- ECALL (R230): a7 names the service. -/
def State.coreCall (s : State) (u : UnitId) (l : Lane) (k : Kernel) (len : Nat) : State :=
  let h := k.hart
  match h.getX 17 with
  | 0 => s.endKernel u l (exitStatus (h.getX 10) k.poisonSeen)
  | 1 => (s.traceWord u (h.getX 10)).retired u { k with hart := { h with pc := h.pc + BitVec.ofNat 64 len } }
  | _ => s.kernelTrap u l h.pc.toNat 8 0

/-- A kernel may execute from its local memory and from its image (R223). -/
def State.ucExecutes (s : State) (l : Lane) (a n : Nat) : Bool :=
  let im := coreAddr (dgaOff (l.op 16 8))
  ucLocal a n || (s.ucTable l.part a n && decide (im ≤ a) && decide (a + n ≤ im + s.imageBytes l))

/-- A parcel of 16 bits of the instruction stream. -/
def State.parcel (s : State) (l : Lane) (k : Kernel) (a : Nat) : Option Nat :=
  if !s.ucExecutes l a 2 then none
  else some (leNat (if ucLocal a 2 then Sparse.getRun memDefault k.lmem a 2 else s.bytes (coreKey a) 2))

/-- What a fetch gives: an instruction with its length, an illegal one, or the address of a parcel that may not be executed. -/
inductive Fetched where
  | instr (i : CoreInstr) (len : Nat)
  | illegal (len : Nat)
  | fault (a : Nat)
  deriving DecidableEq, Repr

/-- A decoded instruction, or an illegal one. -/
def Fetched.of (i : Option CoreInstr) (len : Nat) : Fetched := match i with | some j => .instr j len | none => .illegal len

/-- The instruction at the program counter. -/
def State.coreFetch (s : State) (l : Lane) (k : Kernel) : Fetched :=
  let pc := k.hart.pc.toNat
  match s.parcel l k pc with
  | none => .fault pc
  | some w =>
    if w % 4 ≠ 3 then .of (decode16 w) 2
    else match s.parcel l k (pc + 2) with
      | none => .fault (pc + 2)
      | some v => .of (decode32 (w + 65536 * v)) 4

/-- Dispatch of a fetched instruction. -/
def State.coreRun (s : State) (u : UnitId) (l : Lane) (k : Kernel) (f : Fetched) : State :=
  let pc := k.hart.pc.toNat
  match f with
  | .fault a => s.kernelTrap u l pc 1 a
  | .illegal len => if s.coreHeld pc len then s else s.openTrap u l pc 2
  | .instr i len =>
    if s.coreHeld pc len then s
    else match i with
      | .ecall => s.coreCall u l k len
      | .ebreak => s.openTrap u l pc 3
      | .lr n rd rs1 => s.coreAmo u l k 3 0 n rd rs1 0 len
      | .sc n rd rs1 rs2 => s.coreAmo u l k 4 0 n rd rs1 rs2 len
      | .amo fn n rd rs1 rs2 => s.coreAmo u l k 2 fn n rd rs1 rs2 len
      | _ => s.coreExec u l k i len

/-- A core that runs, or drains, executes one instruction of its kernel. -/
def State.coreStep (s : State) (u : UnitId) : State :=
  match s.kernelOn u with
  | none => s
  | some (l, k) => if s.ustate u == stRunning || s.ustate u == stDraining then s.coreRun u l k (s.coreFetch l k) else s

/-- The utility cores that hold a kernel, in the order of their pages. -/
def State.runningCores (s : State) : List UnitId :=
  s.units.filterMap (fun e => match unitOfPage e.1 with | some u => if u.blk = .uc ∧ e.2.kernel.isSome then some u else none | none => none)

/-- What happens while no command waits: each such core executes an instruction. -/
def State.tick (s : State) : State := s.runningCores.foldl State.coreStep s

end Sys2Proof.Machine
end

