-- ==== Sys2Proof/Machine/Requests.lean ====
section
/-!
DEFINITION. Requests and rings (chapter 14, R346 to R348, R361): doorbells, fetched descriptors, aborts, admission, ring heads,
enabling and disabling rings, virtual functions, port H going down.
-/
namespace Sys2Proof.Machine

/-- A function may write partition p's BAR2 window: VF p while it is enabled, the PF while it is not (R375). -/
def State.ownsWindow (s : State) (src : Src) (p : Nat) : Bool :=
  match src with
  | .pf => decide (s.vfs ≤ p)
  | .vf q => q == p && decide (p < s.vfs) && !s.minimal
  | _ => false

/-! ## Doorbells (R383, R384) -/

/-- A refused doorbell or head write: DOORBELL_ERR, an event, the shadow. -/
def State.doorbellErr (s : State) (p off value : Nat) : State :=
  ((s.setWin p Reg.win.statusDoorbellErr 1).shadow p).partEvent p 0xB002 off value

/-- Descriptors that partition p's queue can still take (R346). -/
def State.queueRoom (s : State) (p : Nat) : Nat := s.get dlrU (Reg.dlr.partQueueEntries.at p) - (s.part p).queue.length

/-- The queue of p holds QUEUE_ENTRIES descriptors. A partition that is OFF, or a follower's, queues nothing. -/
def State.queueFull (s : State) (p : Nat) : Bool := s.pstate p != 0 && s.isLead p && s.queueRoom p == 0

/-- Sets RING_FULL. -/
def State.ringFull (s : State) (p : Nat) : State :=
  if s.win p Reg.win.statusRingFull = 1 then s
  else ((s.setWin p Reg.win.statusRingFull 1).count hifU 5 1).shadow p

/-- Clears RING_FULL once an eighth of the queue is free, and raises the ring-space interrupt (R384). -/
def State.checkRoom (s : State) (p : Nat) : State :=
  if s.win p Reg.win.statusRingFull = 1 ∧ max 1 (s.get dlrU (Reg.dlr.partQueueEntries.at p) / 8) ≤ s.queueRoom p then
    ((s.setWin p Reg.win.statusRingFull 0).shadow p).ringVector p 2
  else s

/-- A ring's head, the entries from there on whose reads have been sent, and those up to its target. -/
def State.ringReads (s : State) (p ring : Nat) : Nat × Nat × Nat :=
  let r := s.part p
  let h := if ring = 0 then s.win p Reg.win.rq0Head else s.win p Reg.win.rq1Head
  let ahead (x : Nat) : Nat := (2 ^ 32 + x - h) % 2 ^ 32
  if ring = 0 then (h, ahead r.rq0Asked, ahead r.rq0Target) else (h, ahead r.rq1Asked, ahead r.rq1Target)

/-- Descriptor reads that are outstanding (R395). -/
def State.readsOut (s : State) : Nat :=
  ((List.range 8).map (fun p => (s.ringReads p 0).2.1 + (s.ringReads p 1).2.1)).sum

/-- The position up to which a ring's entries have been asked for. -/
def State.setAsked (s : State) (p ring v : Nat) : State :=
  s.setPart p (fun r => if ring = 0 then { r with rq0Asked := v % 2 ^ 32 } else { r with rq1Asked := v % 2 ^ 32 })

/-- Sends the reads of a ring's next entries, up to its target and as far as DMA.MAX_READS lets it (R383, R395). -/
def State.fetchRing (s : State) (p ring : Nat) : State :=
  let x := s.ringReads p ring
  let stop : Bool := if ring = 0 then (s.part p).rq0Stop else (s.part p).rq1Stop
  let n := min (x.2.2 - x.2.1) (s.get hifU Reg.hif.dmaMaxReads - s.readsOut)
  if stop || n = 0 then s
  else (s.emit (.hostRead p ring ((x.1 + x.2.1) % 2 ^ 32) n)).setAsked p ring (x.1 + x.2.1 + n)

/-- Sends what reads of descriptors may be sent, ring after ring; the order of the rings is DESIGN CHOICE (log entry 169). -/
def State.fetch (s : State) : State := (List.range 16).foldl (fun t i => t.fetchRing (i / 2) (i % 2)) s

/-- Intake on a ring ends at its head: nothing more is asked for, and what is under way is dropped (R346, R383, R393). -/
def State.stopFetch (s : State) (p ring : Nat) : State :=
  let h := (s.ringReads p ring).1
  s.setPart p (fun r => if ring = 0 then { r with rq0Target := h, rq0Asked := h } else { r with rq1Target := h, rq1Asked := h })

/-- The entry at a ring's head has been read: its head moves on, and so does what has been asked for where it was not. -/
def State.headMoved (s : State) (p ring : Nat) : State :=
  let x := s.ringReads p ring
  let t := if x.2.1 = 0 then s.setAsked p ring (x.1 + 1) else s
  let t1 := t.setWin p (if ring = 0 then Reg.win.rq0Head else Reg.win.rq1Head) ((x.1 + 1) % 2 ^ 32)
  let y := t1.ringReads p ring
  if y.2.2 = 0 then t1.setAsked p ring y.1 else t1

/-- RQ0_DOORBELL (R346, R383, R384). -/
def execRq0Doorbell (src : Src) (part value : Nat) (s : State) : Host.Outcome State Fault Refusal :=
  .next (
    if !s.ownsWindow src part then s
    else
      let s0 := s.count hifU 4 1
      let head := s.win part Reg.win.rq0Head
      if !s.ringsOn part || decide (2 ^ s.win part Reg.win.rq0Log2 < (2 ^ 32 + value - head) % 2 ^ 32) then
        s0.doorbellErr part 0 value
      else s0.journaled (fun s0 =>
        let s1 := s0.setPart part (fun r =>
          { r with rq0Target := value, rq0Stop := r.rq0Stop && s.win part Reg.win.statusFetchErr == 1 })
        if s.queueFull part then (((s1.stopFetch part 0).ringFull part).count s.dealer 13 1).irq s.dealer (2 ^ 20)
        else s1.fetch))

/-- RQ1_DOORBELL (R383): aborts are never held back. -/
def execRq1Doorbell (src : Src) (part value : Nat) (s : State) : Host.Outcome State Fault Refusal :=
  .next (
    if !s.ownsWindow src part then s
    else
      let s0 := s.count hifU 4 1
      let head := s.win part Reg.win.rq1Head
      if !s.ringsOn part || decide (2 ^ s.win part Reg.win.rq1Log2 < (2 ^ 32 + value - head) % 2 ^ 32) then
        s0.doorbellErr part 4 value
      else s0.journaled (fun s0 =>
        let s1 := s0.setPart part (fun r =>
          { r with rq1Target := value, rq1Stop := r.rq1Stop && s.win part Reg.win.statusFetchErr == 1 })
        s1.fetch))

/-- A failed descriptor read (R383). -/
def State.fetchErr (s : State) (p ring index : Nat) : State :=
  (((s.setWin p Reg.win.statusFetchErr 1).shadow p).irq hifU (2 ^ 20)).partEvent p 0xB003 ring index

/-- The accepted tail of ring 0 or 1 moves past one entry, and further reads are sent. -/
def State.accept (s : State) (p ring : Nat) : State := ((s.headMoved p ring).shadow p).fetch

/-- REQUEST_DESCRIPTOR (R24, R342, R346, R384): the entry at RQ0.HEAD has been read, or its read has failed. -/
def execRequestDescriptor (part : Nat) (bytes : Option (List Byte)) (s : State) : Host.Outcome State Fault Refusal :=
  .next (
    let r := s.part part
    let head := s.win part Reg.win.rq0Head
    if !s.ringsOn part || r.rq0Stop || head == r.rq0Target then s
    else s.journaled (fun s =>
      match bytes with
      | none => (((s.stopFetch part 0).fetchErr part 0 head).setPart part (fun r => { r with rq0Stop := true })).fetch
      | some d =>
        if s.queueFull part then ((s.stopFetch part 0).ringFull part).fetch
        else
          let s1 := (s.accept part 0).count hifU 0 1
          if s.pstate part = 0 then s1.outcomeNoSlot part d 0 ocInvalid 0
          else if !s.isLead part then s1.outcomeNoSlot part d 0 ocNotLead 0
          else
            let c := s1.copyDesc part { desc := d, since := s.now, resumed := [], fork := none }
            c.1.setPart part (fun r => { r with queue := r.queue ++ [c.2] })))

/-! ## Aborts (R361, R379) -/

/-- A slot's sequence is aborted: at once, or at its step's commit or replay. -/
def State.abortSlot (s : State) (p : Nat) (x : SlotRec) : State :=
  if (s.part p).inStep x.slot then s.updSlot p x.slot (fun y => { y with abortPending := true })
  else s.endSeq p x.slot ocAborted

/-- Applies an abort for one REQ_ID, or for every sequence (R361). -/
def State.abort (s : State) (p id : Nat) (every : Bool) : State :=
  let r := s.part p
  let hit (n : Nat) : Bool := every || n == id
  let qs := r.queue.filter (fun e => hit (dsc e.desc 0 8))
  let xs := r.slots.filter (fun x => hit x.reqId && x.st != .finishing)
  let old := r.slots.any (fun x => hit x.reqId && x.st == .finishing) || r.ended.any hit
  let code := if !qs.isEmpty || !xs.isEmpty then 0 else if old && !every then 1 else 2
  let s1 := s.partEvent p 0x1003 id code
  let s2 := s1.setPart p (fun r => { r with queue := r.queue.filter (fun e => !hit (dsc e.desc 0 8)) })
  let s3 := qs.foldl (fun t e => t.outcomeNoSlot p e.desc (e.fork.getD 0) ocAborted e.resumed.length) s2
  (xs.foldl (fun t x => t.abortSlot p x) s3).checkRoom p

/-- ABORT_DESCRIPTOR (R361, R379): the entry at RQ1.HEAD has been read and is applied, or its read has failed. -/
def execAbortDescriptor (part : Nat) (bytes : Option (List Byte)) (s : State) : Host.Outcome State Fault Refusal :=
  .next (
    let r := s.part part
    let head := s.win part Reg.win.rq1Head
    if !s.ringsOn part || r.rq1Stop || head == r.rq1Target then s
    else s.journaled (fun s =>
      match bytes with
      | none => (((s.stopFetch part 1).fetchErr part 1 head).setPart part (fun r => { r with rq1Stop := true })).fetch
      | some d =>
        let s1 := (s.accept part 1).count hifU 1 1
        if dsc d 8 120 < 2 then s1.abort part (dsc d 0 8) (dsc d 8 1 == 1)
        else s1.outcomeNoSlot part d 0 ocInvalid 0))

/-! ## Admission (R347, R348) -/

/-- Admission may take place (R330, R347, R363, R392, R539, R582), and random keys can be drawn (R566). -/
def State.mayAdmit (s : State) (p : Nat) : Bool :=
  s.pstate p == 1 && s.isLead p && s.ustate s.dealer == stRunning && !s.frozen s.dealer && s.service && !s.recovering &&
    s.ringsOn p && !(s.part p).fencing && !s.flag (s.homePge p) (Reg.pge.partAdmitPaused.at p) && !s.trngBad

/-- The effective class of a queued request (R347). -/
def State.effClass (s : State) (p : Nat) (e : QEntry) : Nat :=
  let step := s.get dlrU (Reg.dlr.partAgeStepMs.at p)
  let c := dsc e.desc 0x14 1 % 4
  if step = 0 then c else c - (s.now - e.since) / 1_000_000 / step

/-- The index of the request that admission takes next: effective class, then queue order. -/
def State.nextRequest (s : State) (p : Nat) : Option Nat :=
  let q := (s.part p).queue
  bestBy (fun a b => decide ((q[a]?.map (s.effClass p)).getD 9 < (q[b]?.map (s.effClass p)).getD 9)) (List.range q.length)

/-- Matches prefixes for fork 0 (R323, R348 step 5). -/
def State.matchPrefix (s : State) (p slot : Nat) (d : List Byte) : State :=
  let n := s.matchable p (dsc d 0x18 8) (dsc d 0x10 4)
  let hs := s.prefixChain (dsc d 8 8) (dsc d 0x18 8) 0 n
  let run := s.hitRun p 0 hs
  let s1 := s.pinRun p slot run hs
  let fs := s.followers p
  if fs.isEmpty then s1.fixMatch p slot run
  else (s1.updSlot p slot (fun x => { x with unreported := fs, matched := run })).sendGroup p .hashList ([p, slot] ++ hs)

/-- ADMIT (R343, R347, R348): the lead admits the next request, once its slots are free, or fails it. -/
def execAdmit (part : Nat) (s : State) : Host.Outcome State Fault Refusal :=
  .next (
    if !s.mayAdmit part then s
    else
      let s := s.rouse
      match s.nextRequest part with
      | none => s
      | some i =>
        match (s.part part).queue[i]? with
        | none => s
        | some e =>
          let nfork := if e.fork.isSome then 1 else dsc e.desc 0x15 1
          let drop (t : State) : State := (t.setPart part (fun r => { r with queue := r.queue.eraseIdx i })).checkRoom part
          let m := s.readDesc part e
          let s := m.1
          if m.2 || !s.requestOk part e.desc then
            s.journaled (fun s => (drop s).outcomeNoSlot part e.desc (e.fork.getD 0) ocInvalid e.resumed.length)
          else if (s.freeSlots part).length < nfork then s
          else s.journaled (fun s =>
            let slots := (s.freeSlots part).take nfork
            let s1 := (drop s).takeSlots part e.desc nfork e.resumed (s.followers part) (e.fork.getD 0) slots
            let s2 := (s1.setPart part (fun r => { r with admissions := r.admissions + 1 })).count s.dealer 3 1
            let s3 := s2.sendGroup part .admission ([part, nfork] ++ slots ++ [e.resumed.length] ++ e.resumed ++ e.desc.map (fun b => b.toNat))
            s3.matchPrefix part (slots.headD 0) e.desc))

/-- ADMISSION_RECORD (R348): a follower writes its records, policy entries and contexts, and acknowledges. A record sent again
after a failover is acknowledged again. -/
def execAdmissionRecord (part : Nat) (slots resumed : List Nat) (desc : List Byte) (s : State) : Host.Outcome State Fault Refusal :=
  .next (
    if s.isLead part || !s.service || s.recovering || s.ustate s.dealer != stRunning || s.trngBad then s
    else s.journaled (fun s =>
      let known := slots.all (fun n => ((s.part part).slot? n).isSome)
      let s1 := if known then s
        else (s.takeSlots part desc slots.length resumed [] 0 slots).setPart part (fun r => { r with admissions := r.admissions + 1 })
      slots.foldl (fun t n => t.sendLead part .admissionAck [part, t.memberIx part, n]) s1))

/-- ADMISSION_ACK (R348): a follower's acknowledgement lets the slot enter steps. -/
def execAdmissionAck (part member slot : Nat) (s : State) : Host.Outcome State Fault Refusal :=
  .next (s.updSlot part slot (fun x => { x with unacked := x.unacked.filter (fun m => m != member) }))

/-- PREFIX_REPORT (R323): a member's run of hits; M is the smallest report. -/
def execPrefixReport (part member slot run : Nat) (s : State) : Host.Outcome State Fault Refusal :=
  .next (
    match (s.part part).slot? slot with
    | none => s
    | some x =>
      if !x.unreported.contains member then s
      else
        let m := min x.matched run
        let left := x.unreported.filter (fun y => y != member)
        let s1 := s.updSlot part slot (fun x => { x with unreported := left, matched := m })
        if left.isEmpty then s1.journaled (fun s => s.fixMatch part slot m) else s1)

/-! ## Ring heads, status, enabling (R376, R382, R385, R392) -/

/-- A head value is acceptable: not beyond the tail, nor behind it by more than the ring (R385). -/
def headOk (tail value log2 : Nat) : Bool := decide ((2 ^ 32 + tail - value % 2 ^ 32) % 2 ^ 32 ≤ 2 ^ log2)

/-- TOK_HEAD_WRITE (R385): space in the token ring lets waiting tokens, and the outcomes behind them, be written. -/
def execTokHeadWrite (src : Src) (part value : Nat) (s : State) : Host.Outcome State Fault Refusal :=
  .next (
    if !s.ownsWindow src part then s
    else if headOk (s.win part Reg.win.tokTail) value (s.win part Reg.win.tokLog2) then
      (((s.setWin part Reg.win.tokHead value)).drainTokens part (s.part part).tokWait).writeOutcomes part
    else s.doorbellErr part 8 value)

/-- EVT_HEAD_WRITE (R385). -/
def execEvtHeadWrite (src : Src) (part value : Nat) (s : State) : Host.Outcome State Fault Refusal :=
  .next (
    if !s.ownsWindow src part then s
    else if headOk (s.win part Reg.win.evtTail) value (s.win part Reg.win.evtLog2) then
      (s.setWin part Reg.win.evtHead value).drainEvents part (s.part part).evtWait
    else s.doorbellErr part 0xC value)

/-- HIF_STATUS_CLEAR (R376): the W1C bits of the window's STATUS. -/
def execHifStatusClear (src : Src) (part mask : Nat) (s : State) : Host.Outcome State Fault Refusal :=
  .next (
    if !s.ownsWindow src part then s
    else
      let clr (t : State) (b : Nat) (f : Field) : State := if bit mask b then t.setWin part f 0 else t
      let s1 := clr (clr (clr s 3 Reg.win.statusDoorbellErr) 4 Reg.win.statusFetchErr) 5 Reg.win.statusCfgErr
      if s1 = s then s else s1.shadow part)

/-- The configuration that RINGS.ENABLE = 1 checks (R392). -/
def State.ringsOk (s : State) (p : Nat) : Bool :=
  let inR (f : Field) (lo hi : Nat) : Bool := decide (lo ≤ s.win p f ∧ s.win p f ≤ hi)
  decide (s.win p Reg.win.rq0Base % 4096 = 0) && decide (s.win p Reg.win.rq1Base % 4096 = 0) &&
    decide (s.win p Reg.win.tokBase % 4096 = 0) && decide (s.win p Reg.win.evtBase % 4096 = 0) &&
    inR Reg.win.rq0Log2 6 16 && inR Reg.win.rq1Log2 6 16 && inR Reg.win.tokLog2 10 20 && inR Reg.win.evtLog2 8 16

/-- RINGS_ENABLE (R392): the eight indices restart, waiting records are written, intake resumes; or CFG_ERR. -/
def execRingsEnable (src : Src) (part : Nat) (s : State) : Host.Outcome State Fault Refusal :=
  .next (
    if !s.ownsWindow src part || s.ringsOn part then s
    else if !s.ringsOk part then (s.setWin part Reg.win.statusCfgErr 1).shadow part
    else
      let s1 := [Reg.win.rq0Head, Reg.win.rq1Head, Reg.win.tokHead, Reg.win.tokTail, Reg.win.evtHead, Reg.win.evtTail].foldl
        (fun t f => t.setWin part f 0) s
      let s2 := s1.setPart part (fun r =>
        { r with rq0Target := 0, rq1Target := 0, rq0Asked := 0, rq1Asked := 0, rq0Stop := false, rq1Stop := false, tokUnsig := 0, evtUnsig := 0 })
      let s3 := ((s2.setWin part Reg.win.ringsEnable 1).setWin part Reg.win.statusRingsOn 1).shadow part
      let s4 := s3.drainEvents part (s3.part part).evtWait
      (s4.drainTokens part (s4.part part).tokWait).writeOutcomes part)

/-- Clears RINGS.ENABLE (R392): fetches in progress end without advancing a head. -/
def State.ringsOff (s : State) (p : Nat) : State :=
  if !s.ringsOn p then s
  else
    let s1 := ((s.setWin p Reg.win.ringsEnable 0).setWin p Reg.win.statusRingsOn 0).shadow p
    (s1.stopFetch p 0).stopFetch p 1

/-- RINGS_DISABLE (R392). -/
def execRingsDisable (src : Src) (part : Nat) (s : State) : Host.Outcome State Fault Refusal :=
  .next (if !s.ownsWindow src part then s else s.ringsOff part)

/-- MEVT_ENABLE (R396). -/
def execMevtEnable (src : Src) (s : State) : Host.Outcome State Fault Refusal :=
  .next (
    if !notVf src || s.mevtOn then s
    else if s.get hifU Reg.hif.mevtBase % 4096 ≠ 0 ∨ s.get hifU Reg.hif.mevtLog2 < 8 ∨ 16 < s.get hifU Reg.hif.mevtLog2 then
      s.put hifU Reg.hif.mevtCfgErr 1
    else
      let s1 := ((s.put hifU Reg.hif.mevtTail 0).put hifU Reg.hif.mevtHead 0).put hifU Reg.hif.mevtEnable 1
      { s1 with modUnsig := 0 }.flushModule)

/-- MEVT_HEAD_WRITE (R396). -/
def execMevtHeadWrite (src : Src) (value : Nat) (s : State) : Host.Outcome State Fault Refusal :=
  .next (
    if !notVf src then s
    else if headOk (s.get hifU Reg.hif.mevtTail) value (s.get hifU Reg.hif.mevtLog2) then
      (s.put hifU Reg.hif.mevtHead value).flushModule
    else s.put hifU Reg.hif.mevtHeadErr 1)

/-- COAL_TIMEOUT (R387): records that have not been signalled raise their ring's vector. -/
def execCoalTimeout (ring : RingId) (s : State) : Host.Outcome State Fault Refusal :=
  .next (
    match ring with
    | .tok p => if (s.part p).tokUnsig = 0 then s
      else (s.setPart p (fun r => { r with tokUnsig := 0 })).ringVector p 0
    | .evt p => if (s.part p).evtUnsig = 0 then s
      else (s.setPart p (fun r => { r with evtUnsig := 0 })).ringVector p 1
    | .module => if s.modUnsig = 0 then s else { s with modUnsig := 0 }.msix none 0)

/-- VF_FLR (R392): RINGS.ENABLE and every field at 0x0100 to 0x0137 of the window are cleared. -/
def execVfFlr (p : Nat) (s : State) : Host.Outcome State Fault Refusal :=
  .next (if s.vfs ≤ p then s else (s.ringsOff p).setWords (winBase p + 0x100) 14 0)

/-- NUMVFS_WRITE (R375). -/
def execNumvfsWrite (n : Nat) (s : State) : Host.Outcome State Fault Refusal :=
  .next (s.put hifU Reg.hif.linkVfs n)

/-- Accesses of the host's window that wait at banks, controllers and ports when port H goes down do not complete: their writes are not
applied (R393). -/
def State.dropHost (s : State) : State :=
  { s with
    tbl := (s.tbl.map (fun (e : Nat × TblRec) => (e.1, { e.2 with waiting := e.2.waiting.filter (fun q => !(q.cls == 4 && q.port == 5)) }))).filter
      (fun e => e.2 != {})
    memWait := s.memWait.filter (fun w => !w.2.host) }

/-- PORT_H_DOWN (R393): every ring is disabled and outstanding descriptor reads are discarded. A hot reset brings the window's
committed size into effect (R389). Port H's IDE streams end with the link (log entry). -/
def execPortHDown (cause : PortHCause) (s : State) : Host.Outcome State Fault Refusal :=
  .next (
    let s1 := (List.range 8).foldl State.ringsOff s.dropHost
    let s2 := (s1.put hifU Reg.hif.mevtEnable 0).irq hifU (2 ^ 16)
    let s3 := ({ s2.endRun with spdm := { s2.spdm with ideSet := 0 } } : State).put hifU Reg.hif.linkIdeOn 0
    match cause with
    | .linkFailure => s3.put hifU Reg.hif.linkState 0
    | .hotReset => { s3.put hifU Reg.hif.linkState 0 with memWin := if s.minimal then 0 else s.get hifU Reg.hif.memwinSizeGib }
    | .pfFlr => s3)

end Sys2Proof.Machine
end

