-- ==== Sys2Proof/Machine/Cipher.lean ====
section
/-!
DEFINITION. What the memories hold of a line (R265, R271 to R273): its XTS-AES-256 ciphertext, its AES-CMAC tag and its poison bit. The
state keeps a line in clear, with marks for a tag that does not fit; the functions here give the bytes that stand behind it.
XTS (IEEE 1619) and CMAC (NIST SP 800-38B) are the public standards that R272 and R273 cite (log entry 171).
-/
namespace Sys2Proof

/-- Multiplication by x in GF(2^128) with the polynomial x^128 + x^7 + x^2 + x + 1. -/
def gf128x (v : Nat) : Nat := if v < 2 ^ 127 then 2 * v else (2 * v % 2 ^ 128) ^^^ 0x87

/-- A number as 16 bytes, the lowest first. -/
def block16 (v : Nat) : List Nat := (List.range 16).map (fun i => bits v (8 * i) 8)

/-- A list of bytes as a number, the first byte lowest. -/
def blockNat (b : List Nat) : Nat := b.foldr (fun x a => x + 256 * a) 0

/-- XTS over whole blocks: t is the current tweak block as a number. -/
def xtsBlocks (key : List Nat) : Nat → List (List Nat) → List (List Nat)
  | _, [] => []
  | t, b :: r => aesAdd (block16 t) (aes256 key (aesAdd (block16 t) b)) :: xtsBlocks key (gf128x t) r

/-- Cuts a list into groups of 16. -/
def groups16 (l : List Nat) : List (List Nat) := (List.range ((l.length + 15) / 16)).map (fun i => (l.drop (16 * i)).take 16)

/-- XTS-AES-256 of a data unit of whole blocks under a 64-byte key: data key, then tweak key. -/
def xtsEncrypt (key : List Nat) (tweak : Nat) (data : List Nat) : List Nat :=
  (xtsBlocks (key.take 32) (blockNat (aes256 (key.drop 32) (block16 tweak))) (groups16 data)).flatten

/-- Doubling of CMAC, on a block read with its first byte highest. -/
def cmacDouble (b : List Nat) : List Nat := (block16 (gf128x (blockNat b.reverse))).reverse

/-- AES-CMAC under a 32-byte key. -/
def aesCmac (key msg : List Nat) : List Nat :=
  let k1 := cmacDouble (aes256 key (List.replicate 16 0))
  let bs := if msg.isEmpty then [[]] else groups16 msg
  let last := bs.getLastD []
  let fin := if last.length = 16 then aesAdd k1 last
    else aesAdd (cmacDouble k1) (last ++ 0x80 :: List.replicate (15 - last.length) 0)
  aes256 key (aesAdd fin ((bs.dropLast).foldl (fun c b => aes256 key (aesAdd c b)) (List.replicate 16 0)))

end Sys2Proof

namespace Sys2Proof.Machine

/-- The 96 key bytes of slot p as drawn (R272, R495): the 64-byte XTS key and the 32-byte CMAC key. A slot that holds none is zeroised. -/
def State.slotKey (s : State) (p : Nat) : List Nat :=
  match s.secMod.memKeys.find? (fun e => e.1 == p) with
  | none => List.replicate 96 0
  | some e => (List.range 12).flatMap (fun i => (leBytes 8 (Config.freeValue (e.2 + i)).toNat).map BitVec.toNat)

/-- The tweak of a line of space 0 or 2 (R272). -/
def lineTweak (line : Nat) : Nat := line * 256 % 2 ^ 48 / 256 + (if line * 256 / 2 ^ 48 = 2 then 2 ^ 64 else 0)

/-- The ciphertext of a line under its slot (R271, R272). -/
def State.lineCipher (s : State) (line : Nat) : List Nat :=
  xtsEncrypt ((s.slotKey (s.keySlot line)).take 64) (lineTweak line) ((s.bytes (line * 256) 256).map BitVec.toNat)

/-- The tag of a line with poison flag P (R273): the first 64 bits of the CMAC over ciphertext, tweak, slot and P. -/
def State.lineTag (s : State) (line : Nat) (p : Bool) : List Nat :=
  (aesCmac ((s.slotKey (s.keySlot line)).drop 64)
    (s.lineCipher line ++ block16 (lineTweak line) ++ [s.keySlot line, if p then 1 else 0])).take 8

/-- Where the lines of a logical device stand in partition p's region, R270 backward: device line j is the line first + step × j. -/
def State.deviceMap (s : State) (p d : Nat) : Nat × Nat :=
  let all := (List.range 64).filter (fun x => bit (s.get ⟨.mem, 0⟩ (Reg.mem.regionGroups.at p)) (x / 4))
  let l0 := all.filter (fun x => decide (x < 32))
  let l1 := all.filter (fun x => decide (32 ≤ x))
  let pos (l : List Nat) : Nat := s.regionBase p / 256 + l.findIdx (fun x => x == d)
  if s.get ⟨.mem, 0⟩ (Reg.mem.regionMode.at p) = 0 then (pos all, all.length)
  else if d < 32 then (pos l0, l0.length)
  else (l0.length * 16_252_928 + pos l1, l1.length)

/-- The line of space 0 that a logical device's line holds, if a region spans the device. -/
def State.lineOfDevice (s : State) (d dl : Nat) : Option Nat :=
  match (List.range 8).find? (fun p => bit (s.get ⟨.mem, 0⟩ (Reg.mem.regionGroups.at p)) (d / 4)) with
  | none => none
  | some p =>
    let m := s.deviceMap p d
    if dl < 16_252_928 then some (m.1 + m.2 * dl) else none

/-- The bytes that a line of logical device d holds (R265), where the state fixes them: a data line's ciphertext, the tags of a tag line,
the poison bits of a bitmap line. A line whose tag does not fit, and the reserved rest, hold bytes that are not known. -/
def State.deviceLine (s : State) (d dl : Nat) : Option (List Nat) :=
  let fits (l : Nat) : Option Nat := (s.lineOfDevice d l).bind (fun x => if s.tagBad x then none else some x)
  if dl < metaBase then (fits dl).map s.lineCipher
  else if dl - metaBase < 0x7C0_0000 / 256 then
    let js := dataLinesOf dl
    if js.all (fun j => (fits j).isSome) then some ((js.filterMap fits).flatMap (fun x => s.lineTag x (s.poisoned x))) else none
  else
    match dataLinesOf dl with
    | [] => none
    | js => some ((List.range (js.length / 8)).map (fun i => (List.range 8).foldl (fun a k =>
        if (s.lineOfDevice d (js.getD (8 * i + k) 0)).any s.poisoned then a + 2 ^ k else a) 0))

/-- The tag slot of a T2 line in its block's tag line (R283, R284). -/
def State.tierTag (s : State) (line : Nat) : Option (List Nat) := if s.tagBad line then none else some (s.lineTag line (s.poisoned line))

end Sys2Proof.Machine
end

