-- ==== Sys2Proof/Machine/MemCtl.lean ====
section
/-!
DEFINITION. The GDDR7 controllers (R264 to R279, R286 to R288). A line's bytes stand in the memory in clear;
Machine/Cipher.lean gives its ciphertext and tag (R272, R273). Devices, retries and corrections are the environment's, as operands.
-/
namespace Sys2Proof.Machine

/-- A controller or port holds new requests: frozen, not started, or out of RUNNING (R43, R286). -/
def State.memHolds (s : State) (u : UnitId) : Bool := s.frozen u || !(s.ustate u == stRunning || s.ustate u == stFaulted)

/-- On-die corrections of one access. -/
def State.corrections (s : State) (u : UnitId) (n : Nat) : State := if n = 0 then s else (s.count u 11 n).note u 7 n

/-- A metadata line of device u, logical device d, cannot be read: every data line that it covers is poisoned (R276). -/
def State.metaLost (s : State) (u : UnitId) (d m : Nat) : State :=
  let s1 := ((s.retried u (s.attempts u - 1)).count u 4 1).put u Reg.mem.errLastLine m
  let ls := (dataLinesOf m).filterMap (fun j => s.lineOfDevice d j)
  let s2 := (ls.foldl (fun t l => (t.poisonLine l).retag l) s1).note u 6 1
  match ls with
  | [] => s2
  | l :: _ => s2.memEvent u 0x4001 (s.lineDga l) 1 true

/-- An access to a line uses its tag line and its bitmap line; one that misses the cache is read, and may be found unreadable (R276). -/
def State.useMeta (s : State) (u : UnitId) (line : Nat) (ev : MemEv) : State :=
  let miss (m : Nat) : Bool := !s.cache.lines.contains (2 ^ 24 * u.ix + m)
  let t := tagLineOf (s.devLine line)
  let b := bitmapLineOf (s.devLine line)
  let s1 := (s.corrections u ev.corrected).metaPair u line
  match s.deviceOfLine line with
  | none => s1
  | some d =>
    let s2 := if ev.tagUe && miss t then s1.metaLost u d t else s1
    if ev.bitmapUe && miss b then s2.metaLost u d b else s2

/-- Fetches a line from its device (R274): the state after it, and whether the line came clean. -/
def State.fetchLine (s : State) (u : UnitId) (line : Nat) (ev : MemEv) : State × Bool :=
  let armed := s.isArmed u 2
  let s1 := ((if armed then s.disarm u 2 else s).count u 0 1).useMeta u line ev
  let fails := (if armed then 1 else 0) + ev.fails
  let a := s1.attempts u
  if s.faulted u || decide (a ≤ fails) then ((s1.retried u (a - 1)).exhausted u line 1, false)
  else
    let s2 := s1.retried u fails
    if s2.tagBad line || decide (2 ≤ ev.tagFails) then (s2.integrity u line, false)
    else (s2.retried u (min 1 ev.tagFails), true)

/-- Reads n bytes of a line at a key, which the requester receives with the line's poison. -/
def State.memRead (s : State) (u : UnitId) (k n : Nat) (ev : MemEv) : State :=
  let r := (s.breakRun (k / 256)).fetchLine u (k / 256) ev
  if r.2 && !r.1.deadLine (k / 256) then r.1.tblAnswer (r.1.poisoned (k / 256)) (r.1.bytes k n)
  else
    let f := r.1.freshBytes n
    f.2.tblAnswer true f.1

/-- Writes bytes within a line (R271): the line is encrypted, tagged and written with its poison bit; a partial write reads the
whole line first, but for a quarter of the host's full-line write (R602). A write whose attempts are exhausted poisons the line. -/
def State.memWrite (s : State) (u : UnitId) (r : MemReq) (d : List Byte) : State :=
  let line := r.key / 256
  let part := (decide (d.length < 256) || r.keep != 0) && !s.inRun line r.key d.length
  let s1 := if part then ((s.fetchLine u line r.ev).1.count u 2 1) else s.useMeta u line r.ev
  let a := s1.attempts u
  let s2 := s1.count u 1 1
  if s.faulted u || decide (a ≤ r.ev.wfails) then ((s2.retried u (a - 1)).exhausted u line 2).respond [3]
  else ((s2.retried u r.ev.wfails).putMem r.key (mergeKeep r.keep (s2.bytes r.key d.length) d) r.poison).respond [0]

/-- A request at a controller: it waits while the controller holds requests. -/
def State.memRequest (s : State) (u : UnitId) (r : MemReq) (n : Nat) : State :=
  if s.memHolds u then { s with memWait := s.memWait ++ [(u.page * 512 + n, r)] }
  else
    match r.write with
    | none => s.memRead u r.key n r.ev
    | some d => s.memWrite u r d

/-- MEM_READ (R274): a line, or part of one, is read at its controller. On a VACANT number it reads as zeros marked poisoned
(R278). -/
def execMemRead (off n : Nat) (ev : MemEv) (s : State) : Host.Outcome State Fault Refusal :=
  .next (
    if off % 256 + n ≤ 256 ∧ off < 2 ^ 48 then
      if s.lost (off / 256) then s.tblAnswer true (List.replicate n 0)
      else match s.holder (off / 256) with
        | some u => (s.memRequest u { key := off, write := none, poison := false, ev := ev } n).reviewAll
        | none => s
    else s)

/-- MEM_WRITE (R271): a line, or part of one, is written at its controller. A write whose attempts are exhausted poisons the line,
and its writer ends DATA_ERROR (R274). On a VACANT number it is dropped. -/
def execMemWrite (off : Nat) (d : List Byte) (pois : Bool) (ev : MemEv) (s : State) : Host.Outcome State Fault Refusal :=
  .next (
    if off % 256 + d.length ≤ 256 ∧ 0 < d.length ∧ off < 2 ^ 48 then
      if s.lost (off / 256) then s.respond [0]
      else match s.holder (off / 256) with
        | some u => (s.memRequest u { key := off, write := some d, poison := pois, ev := ev } d.length).reviewAll
        | none => s
    else s)

/-- A data line found bad by the patrol is poisoned under step 2 of R274: a failed tag, or exhausted attempts. -/
def State.patrolFail (s : State) (u : UnitId) (line : Nat) (tag : Bool) : State :=
  let s1 := if tag then s.integrity u line else (s.retried u (s.attempts u - 1)).exhausted u line 1
  s1.memEvent u 0x4002 (s.lineDga line) 0 true

/-- A device line that the patrol finds bad: a data line, or a metadata line with all it covers (R265, R274, R276). -/
def State.patrolLine (s : State) (u : UnitId) (d dl : Nat) (tag : Bool) : State :=
  if dl < metaBase then
    match s.lineOfDevice d dl with
    | some l => s.patrolFail u l tag
    | none => s
  else
    match (dataLinesOf dl).filterMap (fun j => s.lineOfDevice d j) with
    | [] => s.metaLost u d dl
    | l :: _ => (s.metaLost u d dl).memEvent u 0x4002 (s.lineDga l) 0 true

/-- MEM_PATROL (R274): every line of the device is read, metadata included. `bad`: device lines found bad now, true where the tag
fails. -/
def execMemPatrol (u : UnitId) (bad : List (Nat × Bool)) (corrected : Nat) (s : State) : Host.Outcome State Fault Refusal :=
  if u.blk ≠ .mem then .next s
  else .next (
    match s.logicalOf u with
    | none => s
    | some d =>
      if s.get u Reg.mem.scrubPeriodH = 0 || s.ustate u ≠ stRunning then s
      else
        let s1 := s.corrections u corrected
        let old := s1.hurt.tags.filter (fun l => decide (s1.holder l = some u))
        let s2 := old.foldl (fun t l => t.patrolFail u l true) s1
        ((bad.foldl (fun t b => t.patrolLine u d b.1 b.2) s2).count u 9 (2 ^ 24)).reviewAll)

/-- MEM_RECENTRE (R267, R288): the device is re-centred; one that fails enters FAULTED. -/
def execMemRecentre (u : UnitId) (failed : Bool) (s : State) : Host.Outcome State Fault Refusal :=
  if u.blk ≠ .mem then .next s
  else .next (
    if s.ustate u ≠ stRunning then s
    else
      let s1 := s.count u 8 1
      if failed then (s1.irq u (2 ^ 19)).faultUnit u 8 else s1)

/-- Performs what a unit kept waiting; the answers follow one another. -/
def State.releaseMem (s : State) (u : UnitId) (run : State → MemReq → Nat → State) : State :=
  let mine := s.memWait.filter (fun w => w.1 / 512 == u.page)
  if mine.isEmpty || s.memHolds u then s
  else
    let s1 := { s with memWait := s.memWait.filter (fun w => w.1 / 512 != u.page), resp := [] }
    mine.foldl (fun t w =>
      let a := t.resp
      let t1 := run t w.2 (w.1 % 512)
      { t1 with resp := a ++ t1.resp }) s1

/-- Every data line of a logical device from a device line on is poisoned, each with a fresh tag; what damaged those lines is gone. -/
def State.loseDevice (s : State) (d first : Nat) : State :=
  let gone (l : Nat) : Bool := decide (s.deviceOfLine l = some d) && decide (first ≤ s.devLine l)
  { s with hurt := { s.hurt with
      dead := s.hurt.dead.filter (fun x => x.dev != d || decide (x.first < first)) ++ [⟨d, first, []⟩]
      tags := s.hurt.tags.filter (fun l => !gone l) } }

/-- The record of a remap that runs is changed. -/
def State.setRemap (s : State) (u : UnitId) (f : RemapRec → RemapRec) : State :=
  { s with talon := { s.talon with remaps := s.talon.remaps.map (fun (x : RemapRec) => if x.retiring = u then f x else x) } }

/-- The copy pointer of a device and its spare. -/
def State.setCopyPtr (s : State) (u sp : UnitId) (n : Nat) : State := (s.put u Reg.mem.spareCopyPtr n).put sp Reg.mem.spareCopyPtr n

/-- The copy ends: the number maps to the spare, and what waited goes on there. `lost`: data lines written poisoned. -/
def State.endCopy (s : State) (u sp : UnitId) (r : RemapRec) (lost : Nat) : State :=
  let ps := s.concerned u
  let s1 := ((s.put u Reg.mem.spareCopying 0).put sp Reg.mem.spareCopying 0).setCopyPtr u sp (2 ^ 24)
  let s2 := (((s1.irq u (2 ^ 18)).irq sp (2 ^ 18)).applyRemap r).linesLost u ps lost
  (s2.releaseMem sp (fun t q n => t.memRequest sp q n)).goesOn

/-- MEM_SPARE_COPY (R277): the lines of the failing device up to a device line are on the spare, ciphertext, tag and poison unchanged; a
data line that cannot be read is poisoned, with a tag that fits. At the last line the number maps to the spare. A device that has faulted
gives no more lines: those not copied yet stand poisoned on the spare. -/
def execMemSpareCopy (u : UnitId) (unreadable : List Nat) (upto : Nat) (s : State) : Host.Outcome State Fault Refusal :=
  if u.blk ≠ .mem then .next s
  else .next (
    match s.talon.remaps.find? (fun r => r.retiring == u && r.stage == .committed) with
    | none => s
    | some r =>
      match r.spare with
      | none => s
      | some i =>
        let sp : UnitId := ⟨.mem, i⟩
        let ptr := s.get u Reg.mem.spareCopyPtr
        if s.faulted u then (s.loseDevice r.logical ptr).endCopy u sp r (r.bad + (metaBase - ptr))
        else
          let hi := max ptr (min upto (2 ^ 24))
          let bad := (unreadable.dedup.filter (fun dl => decide (ptr ≤ dl ∧ dl < hi))).filterMap (fun dl => s.lineOfDevice r.logical dl)
          let s1 := bad.foldl (fun t l => (t.retried u (t.attempts u - 1)).exhausted u l 1) s
          let s2 := (s1.count u 0 (hi - ptr)).count sp 1 (hi - ptr)
          if hi = 2 ^ 24 then s2.endCopy u sp r (r.bad + bad.length)
          else (s2.setRemap u (fun x => { x with bad := x.bad + bad.length })).setCopyPtr u sp hi)

/-- MEM_INJECT_EDC (R286). -/
def execMemInjectEdc (u : UnitId) (src : Src) (s : State) : Host.Outcome State Fault Refusal :=
  if u.blk ≠ .mem then .next s else .next (s.arm u src 2)

/-- MEM_INJECT_TAG (R286). -/
def execMemInjectTag (u : UnitId) (src : Src) (s : State) : Host.Outcome State Fault Refusal :=
  if u.blk ≠ .mem then .next s else .next (s.arm u src 3)

end Sys2Proof.Machine
end

