-- ==== Sys2Proof/Machine/Tier.lean ====
section
/-!
DEFINITION. The CXL tier ports M0 and M1 (R282 to R285, R289 to R291). What the fabric answers is an operand.
-/
namespace Sys2Proof.Machine

/-- Link retries and the tag cache of one access (R284, R290). -/
def State.tierCounts (s : State) (u : UnitId) (line : Nat) (ev : MemEv) : State :=
  let s1 := s.tagLookup u line
  if ev.fails = 0 then s1 else s1.count u 7 ev.fails

/-- A poisoned line goes back to its requester, and the page engine is told (R331). -/
def State.tierPoison (s : State) (line : Nat) (d : List Byte) : State := (s.reportPoison line).tblAnswer true d

/-- Reads n bytes at a key through its port (R284): a tag that fits with P = 1 returns the line poisoned; one that fits neither
way after a second read is an integrity failure; a completion's poison bit returns it poisoned. -/
def State.tierRead (s : State) (u : UnitId) (k n : Nat) (ev : MemEv) : State :=
  let line := k / 256
  let s1 := s.tierCounts u line ev
  if s1.tagBad line || decide (2 ≤ ev.tagFails) then
    let f := (s1.integrity u line).freshBytes n
    f.2.tierPoison line f.1
  else if ev.poison then (s1.count u 5 1).tierPoison line (s1.bytes k n)
  else if s1.poisoned line then s1.tierPoison line (s1.bytes k n)
  else s1.tblAnswer false (s1.bytes k n)

/-- Writes bytes within a line through its port, and its tag line (R284). A partial write reads the line first. -/
def State.tierWrite (s : State) (u : UnitId) (r : MemReq) (d : List Byte) : State :=
  let s1 := (s.count u 1 1).tierCounts u (r.key / 256) r.ev
  let s2 := if d.length < 256 ∨ r.keep ≠ 0 then s1.count u 0 1 else s1
  (s2.putMem r.key (mergeKeep r.keep (s2.bytes r.key d.length) d) r.poison).respond [0]

/-- Read tags of a port in use (R285, R289). -/
def State.tagsUsed (s : State) (u : UnitId) : Nat := (s.tierOut.filter (fun w => w.1 / 512 == u.page)).length

/-- Read tags usable (R289): 0 acts as 1. -/
def State.tagLimit (s : State) (u : UnitId) : Nat := clampTo 1 2048 (s.get u Reg.tier.outLimit)

/-- A request at a tier port: it waits while the port holds requests, a read also while no read tag is free, and either behind one to the
same line. A read whose completion does not come holds its tag (R285). -/
def State.tierRequest (s : State) (u : UnitId) (r : MemReq) (n : Nat) : State :=
  let w := (u.page * 512 + n, r)
  if s.memHolds u || (r.write.isNone && decide (s.tagLimit u ≤ s.tagsUsed u)) ||
      s.memWait.any (fun x => x.1 / 512 == u.page && x.2.key / 256 == r.key / 256) then { s with memWait := s.memWait ++ [w] }
  else
    match r.write with
    | none =>
      let s1 := s.count u 0 1
      if r.ev.late then { s1 with tierOut := s1.tierOut ++ [w] } else s1.tierRead u r.key n r.ev
    | some d => s.tierWrite u r d

/-- A read at the port that a tier address has, if any. -/
def State.tierReadAt (s : State) (off n : Nat) (ev : MemEv) : Option UnitId → State
  | none => s
  | some u =>
    if s.lost ((2 ^ 49 + off) / 256) then (s.freshBytes n).2.tblAnswer true (s.freshBytes n).1
    else s.tierRequest u { key := 2 ^ 49 + off, write := none, poison := false, ev := ev } n

/-- TIER_READ (R284, R285): a line of T2 is read. While its port is not up the request returns poisoned at once. -/
def execTierRead (off n : Nat) (ev : MemEv) (s : State) : Host.Outcome State Fault Refusal :=
  .next (if off % 256 + n ≤ 256 ∧ off < 2 ^ 48 then s.tierReadAt off n ev (s.tierPortOf off) else s)

/-- TIER_WRITE (R284, R285). While its port is not up the write is lost. -/
def execTierWrite (off : Nat) (d : List Byte) (pois : Bool) (ev : MemEv) (s : State) : Host.Outcome State Fault Refusal :=
  .next (
    if off % 256 + d.length ≤ 256 ∧ 0 < d.length ∧ off < 2 ^ 48 then
      match s.tierPortOf off with
      | none => s
      | some u =>
        if s.lost ((2 ^ 49 + off) / 256) then s.respond [1]
        else s.tierRequest u { key := 2 ^ 49 + off, write := some d, poison := pois, ev := ev } d.length
    else s)

/-- A read of n bytes at a key had no completion in time: it returns poisoned, and is logged (R285). -/
def State.tierLate (s : State) (u : UnitId) (k n : Nat) : State :=
  let f := (((s.count u 6 1).irq u (2 ^ 18)).memEvent u 0x4003 (s.lineDga (k / 256)) 0 true).freshBytes n
  f.2.tierPoison (k / 256) f.1

/-- The timeout of a read at its port. The oldest outstanding read of the address gives its tag back, and what waited goes on; where no
command has one outstanding, the read is an engine's. -/
def State.tierTimeout (s : State) (off n : Nat) : Option UnitId → State
  | none => s
  | some u =>
    let k := 2 ^ 49 + off
    match s.tierOut.find? (fun w => w.1 == u.page * 512 + n && w.2.key == k) with
    | none => (s.count u 0 1).tierLate u k n
    | some w =>
      let s1 := ({ s with tierOut := s.tierOut.erase w } : State).tierLate u k n
      let a := s1.resp
      let s2 := s1.releaseMem u (fun t r m => t.tierRequest u r m)
      { s2 with resp := if s2.memWait = s1.memWait then a else a ++ s2.resp }

/-- TIER_TIMEOUT (R285): a read of n bytes had no completion within TIMEOUT.MS; it returns poisoned and is logged. -/
def execTierTimeout (off n : Nat) (s : State) : Host.Outcome State Fault Refusal :=
  .next (if 2 ^ 48 ≤ off then s else s.tierTimeout off n (s.tierPortOf off))

/-- Reads that a port held or had outstanding when its link went down return poisoned, in order; writes that it held are lost. -/
def State.tierDrop (s : State) (u : UnitId) : State :=
  let mine (w : Nat × MemReq) : Bool := w.1 / 512 == u.page
  let gone := s.tierOut.filter mine ++ s.memWait.filter mine
  gone.foldl (fun t w =>
    let a := t.resp
    let f := t.freshBytes (w.1 % 512)
    let t1 := if w.2.write.isSome then t.respond [1] else f.2.tierPoison (w.2.key / 256) f.1
    { t1 with resp := a ++ t1.resp })
    { s with tierOut := s.tierOut.filter (fun w => !mine w), memWait := s.memWait.filter (fun w => !mine w), resp := [] }

/-- TIER_DOWN (R285): the port's link goes down. Requests that it held and reads outstanding complete poisoned. -/
def execTierDown (port : Nat) (s : State) : Host.Outcome State Fault Refusal :=
  if 2 ≤ port then .next s
  else .next (
    let u : UnitId := ⟨.tier, port⟩
    if s.get u Reg.tier.linkState = 0 then s
    else
      let s1 := ((s.put u Reg.tier.linkState 0).put u Reg.tier.linkWidth 0).put u Reg.tier.linkRate 0
      let s2 := ((s1.put u Reg.tier.linkIdeOn 0).count u 9 1).irq u (2 ^ 16)
      (s2.tierDrop u).memEvent u 0x4004 0 0 false)

/-- TIER_PORT_UP (R282, R285, R289): the port's link trains; below x16 at 64 GT/s it is DEGRADED. The MCC has set its IDE keys. -/
def execTierPortUp (port width rate : Nat) (s : State) : Host.Outcome State Fault Refusal :=
  if 2 ≤ port then .next s
  else .next (
    let u : UnitId := ⟨.tier, port⟩
    if width < 1 ∨ 3 < width ∨ rate < 1 ∨ 3 < rate then s
    else
      let s1 := ((s.put u Reg.tier.linkWidth width).put u Reg.tier.linkRate rate).put u Reg.tier.linkIdeOn 1
      s1.put u Reg.tier.linkState (if width = 3 ∧ rate = 3 then 2 else 3))

/-- TIER_INJECT_TAG (R289). -/
def execTierInjectTag (u : UnitId) (src : Src) (s : State) : Host.Outcome State Fault Refusal :=
  if u.blk ≠ .tier then .next s else .next (s.arm u src 3)

end Sys2Proof.Machine
end

