-- ==== Sys2Proof/Machine/Security.lean ====
section
/-!
DEFINITION. Sessions, bundles and sealed partitions (R495 to R503). A mailbox command that draws from the random generator waits while its
health test fails (R566).
-/
namespace Sys2Proof.Machine

/-! ## The mailbox (R500, R503, R507) -/

/-- The MCC page of the MCC that holds ownership. -/
def State.mccHolder (s : State) : UnitId := ⟨.mcc, s.get ⟨.aon, 0⟩ Reg.aon.latchHolder / 2 % 2⟩

/-- The end of a mailbox command: its result and OUT0. -/
def State.mboxEnd (s : State) (r out : Nat) : State :=
  let s1 := ((s.put secU Reg.sec.mboxBusy 0).put secU Reg.sec.mboxResult r).put secU Reg.sec.mboxOut0 out
  let s2 := (s1.count s.mccHolder 2 1).irq secU (2 ^ 16)
  if r = 4 ∨ r = 5 ∨ r = 6 then s2.irq secU (2 ^ 17) else s2

/-- A command is taken: PF or management port, no other command runs, and an MCC is there (R584, R587). Its fields land in the mailbox. -/
def State.mboxTake (s : State) (src : Src) (code part a0 a1 : Nat) : Option State :=
  match src with
  | .vf _ => none
  | _ =>
    if s.flag secU Reg.sec.mboxBusy || s.ustate s.mccHolder == stFaulted then none
    else some ((((s.put secU Reg.sec.mboxCmd code).put secU Reg.sec.mboxPart part).put secU Reg.sec.mboxArg0 a0).put secU
      Reg.sec.mboxArg1 a1)

/-- SEAL_STATE of a partition (R498). -/
def State.sealState (s : State) (p : Nat) : Nat := s.get secU (Reg.sec.partSealState.at p)

/-- A change of SEAL_STATE. -/
def State.setSeal (s : State) (p v : Nat) : State := s.put secU (Reg.sec.partSealState.at p) v

/-- BASE and SIZE of a partition's OPEN ranges, r = 0 to 3. -/
def openBase : Nat → Field
  | 0 => Reg.sec.partOpenBase | 1 => Reg.sec.partOpenBase1 | 2 => Reg.sec.partOpenBase2 | _ => Reg.sec.partOpenBase3
def openSize : Nat → Field
  | 0 => Reg.sec.partOpenSize | 1 => Reg.sec.partOpenSize1 | 2 => Reg.sec.partOpenSize2 | _ => Reg.sec.partOpenSize3

/-- The OPEN ranges of a partition: local offset and bytes (R499). -/
def State.openRanges (s : State) (p : Nat) : List (Nat × Nat) :=
  ((List.range 4).map (fun r => (s.get secU ((openBase r).at p), s.get secU ((openSize r).at p)))).filter (fun x => x.2 != 0)

/-- n bytes at a DGA lie in an OPEN range of p, in its local-memory region (R499, R500). -/
def State.argOk (s : State) (p a n : Nat) : Bool :=
  dgaFormed a && dgaNode a == s.node && dgaSpace a == 0 && s.inRegion p (dgaOff a) n &&
    (s.openRanges p).any (fun r => decide (r.1 ≤ dgaOff a) && decide (dgaOff a + n ≤ r.1 + r.2))

/-- Bytes that a mailbox command reads at a DGA of this module, and the state that has read them. -/
def State.argBytes (s : State) (a n : Nat) : List Byte × State :=
  let r := s.readAll clsSys [(dgaKey a, n)]
  (r.1.bytes (dgaKey a) n, r.1)

/-- The session of a partition ends: its key is erased. -/
def State.endSession (s : State) (p : Nat) : State :=
  (s.setSec p (fun x => { x with session := none })).put secU (Reg.sec.partSession.at p) 0

/-- An import ends without a sealed model: the bundle key is erased and SCRUBBING starts (R500, R502). -/
def State.abortImport (s : State) (p : Nat) : State :=
  ((s.setSec p (fun x => { x with bundleKey := none, unsealing := false })).setSeal p 3).count secU 3 1

/-! ## SESSION_OPEN and SESSION_CLOSE -/

/-- Draws a session key pair and a SESSION_ID, which is never 0: 0 stands for no session (R493, R500). -/
def State.drawSession (s : State) (p : Nat) : State :=
  let f := s.fresh
  let id := f.1 % (2 ^ 32 - 1) + 1
  let s1 : State := { f.2 with freeIdx := f.2.freeIdx + 9 }
  let s2 := (s1.setSec p (fun x => { x with session := some (id, f.2.freeIdx) })).put secU (Reg.sec.partSession.at p) 1
  s2.mboxEnd 0 id

/-- SESSION_OPEN once it is taken. -/
def State.sessionOpen (s : State) (p : Nat) : State :=
  if s.sealState p = 0 ∨ s.sealState p = 2 then
    if s.trngBad then { s.put secU Reg.sec.mboxBusy 1 with secMod := { s.secMod with job := some (1, p, 0, 0) } }
    else s.drawSession p
  else s.mboxEnd 2 0

/-- SESSION_OPEN (R500). -/
def execSessionOpen (src : Src) (part : Nat) (s : State) : Host.Outcome State Fault Refusal :=
  .next (match s.mboxTake src 1 part 0 0 with
    | none => s
    | some t => if 8 ≤ part then t.mboxEnd 1 0 else t.sessionOpen part)

/-- SESSION_CLOSE once it is taken. -/
def State.sessionClose (s : State) (p : Nat) : State :=
  ((if s.sealState p = 1 then s.abortImport p else s).endSession p).mboxEnd 0 0

/-- SESSION_CLOSE (R500). -/
def execSessionClose (src : Src) (part : Nat) (s : State) : Host.Outcome State Fault Refusal :=
  .next (match s.mboxTake src 2 part 0 0 with
    | none => s
    | some t => if 8 ≤ part then t.mboxEnd 1 0 else t.sessionClose part)

/-! ## IMPORT_BEGIN (R496, R497, R501) -/

/-- A manifest entry. -/
structure ManObj where
  kind : Nat
  space : Nat
  off : Nat
  len : Nat
  first : Nat
  ok : Bool
  deriving DecidableEq, Repr

/-- The entry at byte offset o of a manifest. -/
def manObj (m : List Byte) (o : Nat) : ManObj :=
  let b := (m.drop o).take 32
  let f (i n : Nat) : Nat := leNat ((b.drop i).take n)
  let k := f 0 1
  { kind := k, space := f 1 1, off := f 8 8, len := f 16 8, first := f 24 4
    ok := decide (1 ≤ k ∧ k ≤ 4 ∧ f 1 1 ≤ 1 ∧ f 2 6 = 0 ∧ f 8 8 % 4096 = 0 ∧ 1 ≤ f 16 8 ∧ f 28 4 = 0) }

/-- Chunks of an object. -/
def ManObj.chunks (o : ManObj) : Nat := (o.len + 2 ^ 20 - 1) / 2 ^ 20
/-- Its target range in whole lines: memory key and bytes. -/
def ManObj.range (o : ManObj) : Nat × Nat := (key o.space o.off, (o.len + 255) / 256 * 256)

/-- The ranges are apart. -/
def rangesApart : List (Nat × Nat) → Bool
  | [] => true
  | a :: r => r.all (fun b => decide (a.1 + a.2 ≤ b.1) || decide (b.1 + b.2 ≤ a.1)) && rangesApart r

/-- Adjacent ranges of one space merged; the list rises. -/
def mergeRanges : List (Nat × Nat) → List (Nat × Nat)
  | [] => []
  | [a] => [a]
  | a :: b :: r =>
    match mergeRanges (b :: r) with
    | [] => [a]
    | c :: q => if a.1 + a.2 = c.1 ∧ a.1 / 2 ^ 48 = c.1 / 2 ^ 48 then (a.1, a.2 + c.2) :: q else a :: c :: q

/-- The manifest keeps R496: header, counts, entries, chunks. -/
def manifestOk (m : List Byte) (count total : Nat) (os : List ManObj) : Bool :=
  decide (leNat (m.take 4) = 0x464E_4D58 ∧ leNat ((m.drop 4).take 2) = 1 ∧ leNat ((m.drop 6).take 4) = count) &&
    decide (leNat ((m.drop 10).take 54) = 0) && os.all (fun o => o.ok) &&
    decide (total = 1 + os.foldl (fun a o => a + o.chunks) 0) &&
    (match os with | [] => false | o :: _ => o.first == 1) &&
    os.all (fun o => decide (1 ≤ o.first ∧ o.first + o.chunks ≤ total)) && rangesApart (os.map (fun o => (o.first, o.chunks)))

/-- A target lies in p's region or in its GENERAL slices, and overlaps no OPEN range (R501). -/
def State.targetOk (s : State) (p : Nat) (o : ManObj) : Bool :=
  let n := (o.len + 255) / 256 * 256
  if o.space = 0 then
    s.inRegion p o.off n && (s.openRanges p).all (fun r => decide (o.off + n ≤ r.1) || decide (r.1 + r.2 ≤ o.off))
  else
    s.inSlices p o.off n && (List.range ((o.off + n - 1) / 0x100_0000 - o.off / 0x100_0000 + 1)).all
      (fun i => s.get ⟨.tbl, 0⟩ (Reg.tbl.sliceUse.at (o.off / 0x100_0000 + i)) == 0)

/-- Where the chunks go, from chunk 1 on. -/
def chunkTargets (os : List ManObj) : List (Nat × Nat) :=
  (sortBy (fun (a b : ManObj) => decide (a.first ≤ b.first)) os).flatMap (fun o =>
    (List.range o.chunks).map (fun i => (key o.space (o.off + i * 2 ^ 20), min (2 ^ 20) (o.len - i * 2 ^ 20))))

/-- The clear header of a bundle keeps R496. -/
def bundleHeaderOk (h : List Byte) : Bool :=
  let f (i n : Nat) : Nat := leNat ((h.drop i).take n)
  decide (f 0 4 = 0x4C44_4258 ∧ f 4 2 = 1 ∧ f 6 2 = 0 ∧ 2 ≤ f 8 4 ∧ f 8 4 ≤ 16_777_216 ∧ 1 ≤ f 12 4 ∧ f 12 4 ≤ 4096 ∧ f 32 224 = 0)

/-- An IMPORT_BEGIN that fails changes nothing of p (R501). -/
def State.importFail (s : State) (r : Nat) : State :=
  let s1 := if r = 5 then s.count secU 5 1 else s
  (if r = 1 ∨ r = 2 ∨ r = 3 then s1 else s1.count secU 3 1).mboxEnd r 0

/-- A little-endian field of n bytes at byte i. -/
def fieldAt (l : List Byte) (i n : Nat) : Nat := leNat ((l.drop i).take n)

/-- A wrapped key that names session sid, partition p and the bundle of header h (R497, R501). -/
def wrapFits (w h : List Byte) (sid p : Nat) : Bool :=
  fieldAt w 0 4 == 0x5052_5758 && fieldAt w 4 2 == 1 && fieldAt w 8 4 == sid && fieldAt w 12 1 == p && fieldAt w 16 16 == fieldAt h 16 16

/-- Takes a manifest m of a bundle with header h and key bk: p is SEALED_LOADING, its ranges and chunks are known (R499, R501). -/
def State.takeManifest (s : State) (p : Nat) (bk h m : List Byte) : State :=
  let count := fieldAt h 12 4
  let os := (List.range count).map (fun i => manObj m (64 + 32 * i))
  let rs := os.map ManObj.range
  if !manifestOk m count (fieldAt h 8 4) os || !os.all (s.targetOk p) || !rangesApart rs then s.importFail 6
  else
    let merged := mergeRanges (sortBy (fun (a b : Nat × Nat) => decide (a.1 ≤ b.1)) rs)
    if 16 < merged.length then s.importFail 7
    else
      let s1 := s.setSec p (fun x => { x with
        ranges := merged
        plans := (os.filter (fun o => o.kind == 2)).map (fun o => o.range.1)
        kernels := (os.filter (fun o => o.kind == 3)).map ManObj.range
        bundleKey := some bk
        header := h
        digest := sha512 m
        chunks := chunkTargets os
        imported := [] })
      let s2 := (s1.setSeal p 1).put secU (Reg.sec.partRanges.at p) merged.length
      ((s2.put secU (Reg.sec.partChunksDone.at p) 0).count s.mccHolder 3 1).mboxEnd 0 0

/-- Opens the manifest of a bundle whose wrapped key w and header h have been read. -/
def State.openManifest (s : State) (p bundle sid sk : Nat) (w h : List Byte) : State :=
  if !wrapFits w h sid p then s.importFail 4
  else
    match unwrapKey (drawnKey sk) w with
    | none => s.importFail 4
    | some bk =>
      let n := 64 + 32 * fieldAt h 12 4
      if !bundleHeaderOk h then s.importFail 6
      else if !s.argOk p bundle (256 + n + 16) then s.importFail 3
      else
        let rm := s.argBytes (bundle + 256) (n + 16)
        match openChunk bk h 0 rm.1 with
        | none => rm.2.importFail 5
        | some m => rm.2.takeManifest p bk h m

/-- IMPORT_BEGIN once it is taken. -/
def State.importBegin (s : State) (p wrap bundle : Nat) : State :=
  match (s.secPart p).session with
  | none => s.importFail 2
  | some (sid, sk) =>
    if s.sealState p ≠ 0 then s.importFail 2
    else if s.flag secU Reg.sec.debugUnlocked || s.minimal then s.importFail 9
    else if !s.argOk p wrap 208 || !s.argOk p bundle 256 then s.importFail 3
    else
      let rw := s.argBytes wrap 208
      let rh := rw.2.argBytes bundle 256
      rh.2.openManifest p bundle sid sk rw.1 rh.1

/-- IMPORT_BEGIN (R500, R501). -/
def execImportBegin (src : Src) (part wrap bundle : Nat) (s : State) : Host.Outcome State Fault Refusal :=
  .next (match s.mboxTake src 3 part wrap bundle with
    | none => s
    | some t => if 8 ≤ part then t.mboxEnd 1 0 else t.importBegin part wrap bundle)

/-! ## IMPORT_RUN (R500) -/

/-- The import's own write: the sealed range takes it (R499). -/
def State.importWrite (s : State) (k : Nat) (d : List Byte) : State :=
  (linesOf k d.length).foldl (fun t l =>
    let w := Machine.within l k d.length
    if t.lost l then t else (t.tallyWrite clsSys l w.1 w.2).landLine l w.1 ((d.drop (w.1 - k)).take w.2) false) s

/-- Entries of the list, in order, to the first that fails: the state, the result and how many were processed. -/
def State.importEntries (s : State) (p : Nat) : List Nat → Nat → State × Nat × Nat
  | [], n => (s, 0, n)
  | a :: r, n =>
    let e := s.argBytes a 16
    let f (o m : Nat) : Nat := leNat ((e.1.drop o).take m)
    let i := f 0 4
    let x := e.2.secPart p
    match x.chunks[i - 1]?, x.bundleKey with
    | some (k, len), some bk =>
      if i = 0 ∨ f 4 4 ≠ 0 then (e.2, 3, n)
      else if x.imported.contains i then State.importEntries e.2 p r (n + 1)
      else if !e.2.argOk p (f 8 8) (len + 16) then (e.2, 3, n)
      else
        let c := e.2.argBytes (f 8 8) (len + 16)
        match openChunk bk x.header i c.1 with
        | none => (c.2.count secU 5 1, 5, n)
        | some d =>
          let s1 := (c.2.importWrite k d).setSec p (fun x => { x with imported := Keys.add x.imported i })
          let s2 := (s1.put secU (Reg.sec.partChunksDone.at p) (s1.secPart p).imported.length).count secU 4 1
          State.importEntries s2 p r (n + 1)
    | _, _ => (e.2, 3, n)

/-- IMPORT_RUN once it is taken. -/
def State.importRun (s : State) (p list count : Nat) : State :=
  if s.sealState p ≠ 1 ∨ (s.secPart p).bundleKey = none then s.mboxEnd 2 0
  else if count < 1 ∨ 65_536 < count then s.mboxEnd 3 0
  else if !s.argOk p list (16 * count) then s.mboxEnd 3 0
  else
    let r := s.importEntries p ((List.range count).map (fun i => list + 16 * i)) 0
    (r.1.count s.mccHolder 3 1).mboxEnd r.2.1 r.2.2

/-- IMPORT_RUN (R500). -/
def execImportRun (src : Src) (part list count : Nat) (s : State) : Host.Outcome State Fault Refusal :=
  .next (match s.mboxTake src 4 part list count with
    | none => s
    | some t => if 8 ≤ part then t.mboxEnd 1 0 else t.importRun part list count)

/-! ## IMPORT_END, IMPORT_ABORT, UNSEAL, SCRUB_COMPLETE -/

/-- IMPORT_END once it is taken. -/
def State.importEnd (s : State) (p : Nat) : State :=
  if s.sealState p ≠ 1 ∨ (s.secPart p).bundleKey = none then s.mboxEnd 2 0
  else if (s.secPart p).imported.length < (s.secPart p).chunks.length then s.mboxEnd 8 0
  else
    let s1 := (s.setSec p (fun x => { x with bundleKey := none })).endSession p
    ((s1.setSeal p 2).count secU 2 1).mboxEnd 0 0

/-- IMPORT_END (R500). -/
def execImportEnd (src : Src) (part : Nat) (s : State) : Host.Outcome State Fault Refusal :=
  .next (match s.mboxTake src 5 part 0 0 with
    | none => s
    | some t => if 8 ≤ part then t.mboxEnd 1 0 else t.importEnd part)

/-- IMPORT_ABORT once it is taken. -/
def State.importAbort (s : State) (p : Nat) : State :=
  if s.sealState p ≠ 1 then s.mboxEnd 2 0 else (s.abortImport p).mboxEnd 0 0

/-- IMPORT_ABORT (R500). -/
def execImportAbort (src : Src) (part : Nat) (s : State) : Host.Outcome State Fault Refusal :=
  .next (match s.mboxTake src 6 part 0 0 with
    | none => s
    | some t => if 8 ≤ part then t.mboxEnd 1 0 else t.importAbort part)

/-- A command plan of a partition under UNSEAL leaves its slot; the one that the running step uses leaves when the step ends. -/
def State.loosePlan (s : State) (p slot : Nat) : State :=
  if (match (s.part p).step with | some st => st.pslot == slot | none => false) then
    if (s.part p).unloading.contains slot then s
    else (s.put dlrU Reg.dlr.planBusy 1).setPart p (fun r => { r with unloading := slot :: r.unloading })
  else s.dropPlan p slot

/-- A sealed partition starts to be unsealed: its plans are unloaded, a plan in use once its step has ended, and SCRUBBING begins. -/
def State.startUnseal (s : State) (p : Nat) : State :=
  let s1 := (s.part p).plans.foldl (fun t (x : Nat × Nat) => t.loosePlan p x.1) s
  (s1.setSec p (fun x => { x with unsealing := true })).setSeal p 3

/-- UNSEAL once it is taken. -/
def State.unseal (s : State) (p : Nat) : State :=
  if s.sealState p ≠ 2 then s.mboxEnd 2 0 else (s.startUnseal p).mboxEnd 0 0

/-- UNSEAL (R500). -/
def execUnseal (src : Src) (part : Nat) (s : State) : Host.Outcome State Fault Refusal :=
  .next (match s.mboxTake src 7 part 0 0 with
    | none => s
    | some t => if 8 ≤ part then t.mboxEnd 1 0 else t.unseal part)

/-- The memory keys of a partition are drawn (R495): its lines that stand fail their tags until they are rewritten. A full
configuration writes every line of local memory anew, so only those of the tier window stand. -/
def State.drawMemoryKeys (s : State) (full : Bool) (p : Nat) : State :=
  let f := (Reg.sec.partKeyGen.at p)
  let s1 := s.put secU f (s.get secU f + 1)
  { s1 with
    freeIdx := s1.freeIdx + 12
    secMod := { s1.secMod with memKeys := s1.secMod.memKeys.filter (fun e => e.1 != p) ++ [(p, s1.freeIdx)] }
    hurt := { s1.hurt with
      stale := s1.hurt.stale.filter (fun x => x.1 % 8 != p) ++ (if full then [(p + 8, [])] else [(p, []), (p + 8, [])]) } }

/-- SCRUB_COMPLETE (R500): every sealed range holds zeros; the partition is OPEN and its ranges released; after UNSEAL its memory
keys are redrawn, which waits for the random generator. -/
def execScrubComplete (part : Nat) (s : State) : Host.Outcome State Fault Refusal :=
  .next (
    if 8 ≤ part || s.sealState part ≠ 3 then s
    else
      let x := s.secPart part
      if x.unsealing && s.trngBad then s
      else
        let s1 := x.ranges.foldl (fun t (r : Nat × Nat) =>
          if r.1 / 2 ^ 48 = 1 then t.zeroTable r.1 r.2 else t.zeroLocal r.1 r.2) s
        let s2 := (s1.setSec part (fun y => { session := y.session })).setSeal part 0
        let s3 := (s2.put secU (Reg.sec.partRanges.at part) 0).put secU (Reg.sec.partChunksDone.at part) 0
        if x.unsealing then s3.drawMemoryKeys false part else s3)

/-! ## The debug challenge and the random generator -/

/-- Draws a challenge of 32 bytes. -/
def State.drawChallenge (s : State) : State :=
  let f := s.freshBytes 32
  (({ f.2 with secMod := { f.2.secMod with challenge := true } } : State).put secU Reg.sec.challenge (leNat f.1)).mboxEnd 0 0

/-- DEBUG_CHALLENGE once it is taken. -/
def State.debugChallenge (s : State) : State :=
  if s.trngBad then { s.put secU Reg.sec.mboxBusy 1 with secMod := { s.secMod with job := some (8, 0, 0, 0) } }
  else s.drawChallenge

/-- DEBUG_CHALLENGE (R500, R505). -/
def execDebugChallenge (src : Src) (part : Nat) (s : State) : Host.Outcome State Fault Refusal :=
  .next (match s.mboxTake src 8 part 0 0 with
    | none => s
    | some t => if 8 ≤ part then t.mboxEnd 1 0 else t.debugChallenge)

/-- TRNG_HEALTH_TEST (R566): a failing test blocks every draw; a passing one releases the mailbox command that waits. -/
def execTrngHealthTest (fails : Bool) (s : State) : Host.Outcome State Fault Refusal :=
  .next (
    if fails then
      if s.trngBad then s else (({ s with trngBad := true } : State).count s.mccHolder 4 1).irq s.mccHolder (2 ^ 17)
    else
      let s1 : State := { s with trngBad := false, secMod := { s.secMod with job := none } }
      match s.secMod.job with
      | some (1, p, _, _) => s1.drawSession p
      | some _ => s1.drawChallenge
      | none => s1)

end Sys2Proof.Machine
end

