-- ==== Sys2Proof/Machine/Power.lean ====
section
/-!
DEFINITION. The cap and its sources, the limiter, ramp mode, presets, droop, gating and parking (R509 to R523, R533, R534), and the
ageing monitor (R128). Powers are measured, and come as operands.
-/
namespace Sys2Proof.Machine

/-- The state with the power record changed. -/
def State.setPwr (s : State) (f : PwrRec → PwrRec) : State := { s with pwr := f s.pwr }

/-! ## The cap (R511) -/

/-- The units that share a clock: a tile, or the cores of a cluster. -/
def clockGroup (u : UnitId) : List UnitId :=
  if u.blk = .uc then (List.range 33).map (fun i => (⟨.uc, u.ix / 33 * 33 + i⟩ : UnitId)) else [u]

/-- A sensor floor holds: an implausible check, or a tile or cluster that failed sensing and is neither OFF nor VACANT (R529, R532). -/
def State.sensorFloor (s : State) : Bool :=
  !s.pwr.floors.isEmpty ||
    s.pwr.sensed.any (fun u => (clockGroup u).any (fun v => s.ustate v != stOff && s.ustate v != stVacant))

/-- The caps that apply, RAMP aside, by code. -/
def State.capsNoRamp (s : State) : List (Nat × Nat) :=
  [(0, 2200), (1, s.get pwrU Reg.pwr.capMgtW)] ++ (if s.pwr.host = 0 then [] else [(2, s.pwr.host)]) ++
    (if s.flag pwrU Reg.pwr.statSafe then [(3, s.get pwrU Reg.pwr.capSafeW)] else []) ++
    (if s.flag pwrU Reg.pwr.statThrot || s.sensorFloor then [(4, s.get pwrU Reg.pwr.floorW)] else []) ++
    (match s.pwr.thm with | some w => [(5, w)] | none => [])

/-- The lowest cap, and of equal ones that of the lowest code. -/
def lowestCap : List (Nat × Nat) → Nat × Nat
  | [] => (0, 2200)
  | [c] => c
  | c :: r => let d := lowestCap r; if c.2 ≤ d.2 then c else d

/-- CAP_EFF and its source. -/
def State.cap (s : State) : Nat × Nat :=
  lowestCap (s.capsNoRamp ++ (match s.pwr.ramp with | some w => [(6, w)] | none => []))

/-- CAP_EFF follows its sources; a change is reported (R511, R597). -/
def State.applyCap (s : State) : State :=
  let c := s.cap
  let s0 := s.put pwrU Reg.pwr.statSensorFloor (if s.sensorFloor then 1 else 0)
  let old := s0.get pwrU Reg.pwr.capEffW
  let s1 := (s0.put pwrU Reg.pwr.capEffW c.2).put pwrU Reg.pwr.capSource c.1
  if old = c.2 then s1 else (s1.eventM none 0x9001 c.2 c.1).irq pwrU (2 ^ 16)

/-! ## The limiter (R512 to R514) -/

/-- Power that partitions share: CAP_EFF less P_shared. -/
def State.pAvail (s : State) : Nat := s.get pwrU Reg.pwr.capEffW - s.pwr.shared

/-- Entitlement of a partition: A_p = ANTE / 256 of P_avail. -/
def State.entitled (s : State) (p : Nat) : Nat := s.get pwrU (Reg.pwr.partAnte.at p) * s.pAvail / 256

/-- Partition p is an ante partition. -/
def State.isAnte (s : State) (p : Nat) : Bool := s.get pwrU (Reg.pwr.partClass.at p) == 1

/-- Sum of the entitlements. -/
def State.antes (s : State) : Nat := ((List.range 8).filter s.isAnte).foldl (fun a p => a + s.entitled p) 0

/-- Clock ceilings of some partitions moved toward a bound in MHz, by a loop step of 50 MHz; index 8: units of no partition. -/
def moveCeil (ps : List Nat) (down : Bool) (bound : Nat) (l : List Nat) : List Nat :=
  l.zipIdx.map (fun x => if !ps.contains x.2 then x.1 else if down then (if bound < x.1 then max bound (x.1 - 50) else x.1)
    else if x.1 < bound then min bound (x.1 + 50) else x.1)

/-- Issue holds of some partitions moved by one. -/
def State.moveHold (s : State) (ps : List Nat) (up : Bool) : State :=
  ps.foldl (fun t p =>
    let h := t.get pwrU (Reg.pwr.partHold.at p)
    t.put pwrU (Reg.pwr.partHold.at p) (if up then min (t.get pwrU Reg.pwr.holdMax) (h + 1) else h - 1)) s

/-- One actuator step down, the first that can still act (R513). -/
def State.limitDown (s : State) (bulk hungry : List Nat) : State :=
  let c (p : Nat) : Nat := s.pwr.ceil.getD p 1400
  let h (p : Nat) : Nat := s.get pwrU (Reg.pwr.partHold.at p)
  let top := s.get pwrU Reg.pwr.holdMax
  let src := s.get pwrU Reg.pwr.capSource
  if bulk.any (fun p => decide (1200 < c p)) then s.setPwr (fun x => { x with ceil := moveCeil bulk true 1200 x.ceil })
  else if bulk.any (fun p => decide (p < 8 ∧ h p < top)) then s.moveHold (bulk.filter (fun p => decide (p < 8))) true
  else if hungry.any (fun p => decide (1200 < c p)) then s.setPwr (fun x => { x with ceil := moveCeil hungry true 1200 x.ceil })
  else if hungry.any (fun p => decide (h p < top)) then s.moveHold hungry true
  else if src = 4 ∨ src = 5 then s.setPwr (fun x => { x with ceil := moveCeil (List.range 9) true (s.get pwrU Reg.pwr.floorMhz) x.ceil })
  else s

/-- One actuator step up, in the reverse order. -/
def State.limitUp (s : State) (bulk ante : List Nat) : State :=
  let c (p : Nat) : Nat := s.pwr.ceil.getD p 1400
  let h (p : Nat) : Nat := s.get pwrU (Reg.pwr.partHold.at p)
  if (List.range 9).any (fun p => decide (c p < 1200)) then s.setPwr (fun x => { x with ceil := moveCeil (List.range 9) false 1200 x.ceil })
  else if ante.any (fun p => decide (0 < h p)) then s.moveHold ante false
  else if ante.any (fun p => decide (c p < 1400)) then s.setPwr (fun x => { x with ceil := moveCeil ante false 1400 x.ceil })
  else if bulk.any (fun p => decide (p < 8 ∧ 0 < h p)) then s.moveHold (bulk.filter (fun p => decide (p < 8))) false
  else s.setPwr (fun x => { x with ceil := moveCeil bulk false 1400 x.ceil })

/-- The figure that the limiter holds under the budget: the predicted average, and while the current sensors are implausible at least what
the rails draw from the input (R513, R531). -/
def State.drawn (s : State) (m : PowerSample) : Nat :=
  let e := s.get ⟨.mcc, 0⟩ Reg.mcc.convEff
  if s.flag thmU Reg.thm.statCurImplausible then max m.predicted (m.rails * 65_536 / max 1 e) else m.predicted

/-- The limiter has no owner that acts: an ownership change of the rail sequencers is under way, or both copies are lost (R512, R587). -/
def State.limiterIdle (s : State) : Bool :=
  bit (s.get ⟨.aon, 0⟩ Reg.aon.hbMissing) 2 || s.sys.failed.contains (2, bits (s.get ⟨.aon, 0⟩ Reg.aon.latchHolder) 2 1)

/-- The limiter's readings: powers are recorded and attributed, and the half clocks of a released THROT become a ceiling (R512, R519). -/
def State.limiterReads (s : State) (m : PowerSample) : State :=
  let s0 := (s.put pwrU Reg.pwr.pIn1msW m.p1ms).put pwrU Reg.pwr.pPeakW (max (s.get pwrU Reg.pwr.pPeakW) m.p10us)
  let s1 := (List.range 8).foldl (fun t p => t.put pwrU (Reg.pwr.partPW.at p) (m.parts.getD p 0)) s0
  let s2 := ((s1.setPwr (fun x => { x with shared := m.shared })).count pwrU 0 m.energy).applyCap
  let s3 := if s2.flag pwrU Reg.pwr.statThrot then s2.count pwrU 3 10 else s2
  if s3.pwr.half then
    s3.setPwr (fun x => { x with half := false, ceil := x.ceil.map (fun c => max (s.get pwrU Reg.pwr.floorMhz) (min 1400 c / 2)) })
  else s3

/-- The limiter's step: down when the cap is passed or a partition ANTE needs what it lent, else up where there is headroom (R513). -/
def State.limiterMoves (s : State) (m : PowerSample) : State :=
  let bulk := 8 :: (List.range 8).filter (fun p => !s.isAnte p)
  let ante := (List.range 8).filter s.isAnte
  let hungry := ante.filter (fun p => decide (s.entitled p < m.parts.getD p 0))
  let bulkW := (bulk.filter (fun p => decide (p < 8))).foldl (fun a p => a + m.parts.getD p 0) 0
  let lendOver := !s.flag pwrU Reg.pwr.anteLend && decide (s.pAvail - s.antes < bulkW)
  let cap := s.get pwrU Reg.pwr.capEffW
  if cap < s.drawn m ∨ lendOver then (s.limitDown bulk hungry).count pwrU 1 10
  else if s.drawn m < cap then s.limitUp bulk ante else s

/-- The limiter counts a tick in which it holds some partition below its preset. -/
def State.limiterCounts (s : State) : State :=
  if (List.range 8).any (fun p => decide (0 < s.get pwrU (Reg.pwr.partHold.at p))) then s.count pwrU 4 1 else s

/-- LIMITER_TICK (R512): powers are read and attributed, and the actuators move one step toward the budget, or up where there is
headroom (R513). -/
def execLimiterTick (m : PowerSample) (s : State) : Host.Outcome State Fault Refusal :=
  .next (if s.limiterIdle then s else ((s.limiterReads m).limiterMoves m).limiterCounts)

/-- FAST_LIMIT (R510): half clocks from above 2,400 W until the 10 µs average falls below 2,200 W. -/
def execFastLimit (p10us : Nat) (s : State) : Host.Outcome State Fault Refusal :=
  .next (
    if 2400 < p10us ∧ !s.pwr.fast then (s.setPwr (fun x => { x with fast := true })).count pwrU 11 1
    else if p10us < 2200 then s.setPwr (fun x => { x with fast := false })
    else s)

/-- MCC firmware does not run: it restarts, or both copies of the MCC are lost (R533, R587). -/
def State.fwDown (s : State) : Bool := s.get s.mccHolder Reg.mcc.fwState == 3 || s.ustate s.mccHolder == stFaulted

/-- Presets stop (R517, R533). -/
def State.predOff (s : State) : State :=
  if s.flag pwrU Reg.pwr.statPred then (s.put pwrU Reg.pwr.statPred 0).irq pwrU (2 ^ 20) else s

/-- HOST_CAP_WRITE (R511): the PF's write is clamped, validated by the firmware, and applies; while the firmware restarts it is held
(R533). -/
def execHostCapWrite (src : Src) (watts : Nat) (s : State) : Host.Outcome State Fault Refusal :=
  .next (
    if src ≠ .pf then s
    else
      let w := if watts = 0 then 0 else clampTo 300 2200 watts
      let s1 := s.put pwrU Reg.pwr.capHostW w
      if s1.fwDown then s1.setPwr (fun x => { x with hostPend := some w })
      else (s1.setPwr (fun x => { x with host := w, hostPend := none })).applyCap)

/-- THROT_ASSERT (R518): the floor cap applies and clocks halve. -/
def execThrotAssert (s : State) : Host.Outcome State Fault Refusal :=
  .next (
    if s.flag pwrU Reg.pwr.statThrot then s
    else
      let s1 := ((s.put pwrU Reg.pwr.statThrot 1).count pwrU 2 1).irq pwrU (2 ^ 17)
      (s1.setPwr (fun x => { x with half := true })).applyCap)

/-- THROT_RELEASE (R518): the floor stops applying. -/
def execThrotRelease (s : State) : Host.Outcome State Fault Refusal :=
  .next (
    if s.flag pwrU Reg.pwr.statThrot then ((s.put pwrU Reg.pwr.statThrot 0).setPwr (fun x => { x with half := false })).applyCap else s)

/-- CAP_RAMP from the last millisecond's power (R519). -/
def State.rampCap (s : State) (p1ms : Nat) : Nat :=
  max 300 (min (lowestCap s.capsNoRamp).2 (p1ms + s.get pwrU Reg.pwr.rampWPerMs))

/-- RAMP_MODE_ASSERT (R519): CAP_RAMP is set at once. -/
def execRampModeAssert (p1ms : Nat) (s : State) : Host.Outcome State Fault Refusal :=
  .next (
    if s.flag pwrU Reg.pwr.statRamp then s
    else ((s.put pwrU Reg.pwr.statRamp 1).setPwr (fun x => { x with ramp := some (s.rampCap p1ms), frozen := false })).applyCap)

/-- RAMP_MODE_RELEASE (R519). -/
def execRampModeRelease (s : State) : Host.Outcome State Fault Refusal :=
  .next (((s.put pwrU Reg.pwr.statRamp 0).setPwr (fun x => { x with ramp := none, frozen := false })).applyCap)

/-- The power side of an accepted SYNC_IN tick: CAP_RAMP is set anew (R519). -/
def State.rampTick (s : State) (p1ms : Nat) : State :=
  let s1 := s.put pwrU Reg.pwr.statSyncOk 1
  if s.flag pwrU Reg.pwr.statRamp then
    let s2 := if s.get pwrU Reg.pwr.capSource = 6 then s1.count pwrU 9 1 else s1
    (s2.setPwr (fun x => { x with ramp := some (s.rampCap p1ms), frozen := false })).applyCap
  else s1

/-- SYNC_LOST (R519): two milliseconds without a tick under ramp mode; CAP_RAMP freezes. -/
def execSyncLost (s : State) : Host.Outcome State Fault Refusal :=
  .next (
    if s.flag pwrU Reg.pwr.statRamp && !s.pwr.frozen then
      let s1 := ((s.put pwrU Reg.pwr.statSyncOk 0).setPwr (fun x => { x with frozen := true })).count pwrU 10 1
      (s1.eventM none 0x9006 0 0).irq pwrU (2 ^ 18)
    else s)

/-! ## Presets (R515 to R517) -/

/-- r(f) in 1/100,000, linear between the points of R516. -/
def rScale (f : Nat) : Nat :=
  let seg (f0 f1 r0 r1 : Nat) : Nat := r0 * 1000 + (r1 - r0) * 1000 * (f - f0) / (f1 - f0)
  if f ≤ 600 then 35_000
  else if f ≤ 800 then seg 600 800 35 52
  else if f ≤ 1000 then seg 800 1000 52 74
  else if f ≤ 1200 then seg 1000 1200 74 100
  else if f ≤ 1300 then seg 1200 1300 100 117
  else if f ≤ 1400 then seg 1300 1400 117 136
  else 136_000

/-- The plan's phase entry: INIT_POWER, INIT_TIME, KIND (R93). -/
def State.phaseWord (s : State) (p : Nat) (t : StepRec) (ph : Nat) : Nat := s.le (s.phaseEntry p t ph) 8

/-- P_MT and P_REST of a record in mW: the plan's estimate until four samples are in (R515). -/
def State.phasePower (s : State) (p : Nat) (t : StepRec) (ph : Nat) : Nat × Nat :=
  match s.pred.find? (fun r => r.part == p && r.pslot == t.pslot && r.phase == ph) with
  | some r => if r.n < 4 then (bits (s.phaseWord p t ph) 0 16 * 1000, 0) else (r.pMt, r.pRest)
  | none => (bits (s.phaseWord p t ph) 0 16 * 1000, 0)

/-- The preset of a phase in MHz (R517), droop's share taken off (R520). -/
def State.preset (s : State) (p : Nat) (t : StepRec) (ph : Nat) : Nat :=
  let e := s.phaseWord p t ph
  let r := s.pred.find? (fun r => r.part == p && r.pslot == t.pslot && r.phase == ph)
  let sens := (r.map (fun r => r.sens)).getD 1024
  let young := match r with | some r => decide (r.n < 4) | none => true
  if bits e 32 2 == 1 || bits e 32 2 == 2 || decide (sens < 512) || (young && bits e 0 16 == 0) then 1200
  else
    let phs := if t.phases.contains ph then t.phases else ph :: t.phases
    let pw := phs.map (fun x => s.phasePower p t x)
    let rest := pw.foldl (fun a x => max a x.2) 0
    let mt := pw.foldl (fun a x => a + x.1) 0
    let budget := (s.pAvail - s.antes - s.get pwrU Reg.pwr.predMarginW) * 1000
    let ok (f : Nat) : Bool := decide (mt * rScale f / 100_000 + rest ≤ budget)
    let f := (((List.range 21).map (fun i => 1400 - 10 * i)).find? ok).getD 1200
    max 1200 (f - (r.map (fun r => r.cut)).getD 0)

/-- PHASE_PRESET (R517): computed as the phase's first template enters the issue window; ante partitions receive none (R514), and
there is none while PRED.EN is 0 or the firmware does not run. -/
def execPhasePreset (part phase : Nat) (s : State) : Host.Outcome State Fault Refusal :=
  .next (
    match (s.part part).step with
    | none => s
    | some t =>
      if !s.flag pwrU Reg.pwr.predEn || s.fwDown then s.predOff
      else if s.isAnte part then s
      else
        let s1 := s.phaseStart part t phase
        let f := s1.preset part t phase
        let s2 : State := { s1 with pred := s1.pred.map (fun r =>
          if r.part = part ∧ r.pslot = t.pslot ∧ r.phase = phase then { r with preset := f } else r) }
        (s2.put pwrU Reg.pwr.statPred 1).count pwrU 7 1)

/-- DROOP (R520): a detector stretches its clock for some cycles; the stretch counts toward the running lane's phase. -/
def execDroop (u : UnitId) (cycles : Nat) (s : State) : Host.Outcome State Fault Refusal :=
  if u.blk ≠ .mt ∧ u.blk ≠ .uc then .next s
  else .next (
    let s1 := (s.count pwrU 5 1).count pwrU 6 cycles
    let running := ((clockGroup u).filterMap (fun v => (s.unit v).queue.head?)).filterMap (fun l =>
      (s.part l.part).step.map (fun t => (l.part, t.pslot, l.phase)))
    if running.isEmpty then s1
    else { s1 with pred := s1.pred.map (fun r =>
      if running.contains (r.part, r.pslot, r.phase) then { r with stretches := r.stretches + 1 } else r) })

/-! ## Gating and parking (R521 to R523) -/

/-- A tile or cluster is or is not power-gated. -/
def State.setGated (s : State) (u : UnitId) (on : Bool) : State :=
  if (s.unit u).asleep == on then s
  else (clockGroup u).foldl (fun t v => t.setUnit v (fun x => { x with asleep := on })) s

/-- A tile or cluster has no lane. -/
def State.laneless (s : State) (u : UnitId) : Bool := (clockGroup u).all (fun v => (s.unit v).queue.isEmpty)

/-- A tile or cluster in use is clock-gated or power-gated: it has no lane, or waits for its wake (R521, R568; which of those that are OFF
or VACANT count is a DESIGN CHOICE, log entry 183). -/
def State.atRest (s : State) (u : UnitId) : Bool :=
  (clockGroup u).any (fun v => s.ustate v != stOff && s.ustate v != stVacant) && (s.laneless u || s.gated u)

/-- GATE_IDLE (R521): a tile or cluster without a lane is power-gated. -/
def execGateIdle (u : UnitId) (s : State) : Host.Outcome State Fault Refusal :=
  if u.blk ≠ .mt ∧ u.blk ≠ .uc then .next s
  else .next (if s.laneless u then s.setGated u true else s)

/-- UNIT_WAKE (R522). -/
def execUnitWake (u : UnitId) (s : State) : Host.Outcome State Fault Refusal :=
  if u.blk ≠ .mt ∧ u.blk ≠ .uc then .next s
  else .next (s.setGated u false)

/-- No partition has a step. -/
def State.stepless (s : State) : Bool := (List.range 8).all (fun p => (s.part p).step.isNone)

/-- The module parks; it does not while a step runs. -/
def State.park (s : State) : State :=
  if s.stepless && !s.minimal then (s.put pwrU Reg.pwr.statParked 1).setPwr (fun x => { x with waking := false }) else s

/-- PARK_CMD (R523). -/
def execParkCmd (src : Src) (s : State) : Host.Outcome State Fault Refusal :=
  .next (match src with | .vf _ => s | _ => s.park)

/-- PARK_AUTO (R523): PARK.AUTO_MS without a step. -/
def execParkAuto (s : State) : Host.Outcome State Fault Refusal :=
  .next (if s.get pwrU Reg.pwr.parkAutoMs = 0 then s else s.park)

/-- WAKE_CMD (R523). -/
def execWakeCmd (src : Src) (s : State) : Host.Outcome State Fault Refusal :=
  .next (match src with | .vf _ => s | _ => s.rouse)

/-- WAKE_COMPLETE (R523): the compute dies are up again. -/
def execWakeComplete (s : State) : Host.Outcome State Fault Refusal :=
  .next (if s.pwr.waking then (s.put pwrU Reg.pwr.statParked 0).setPwr (fun x => { x with waking := false }) else s)

/-! ## Ageing (R128, R226) -/

/-- AGEING_MEASURE (R128): below 1,250 MHz FMAX_LOW is set; below 1,200 MHz the tile or cluster is capped there and retired. -/
def execAgeingMeasure (u : UnitId) (mhz : Nat) (s : State) : Host.Outcome State Fault Refusal :=
  if u.blk ≠ .mt ∧ u.blk ≠ .uc then .next s
  else .next (
    let f := if u.blk = .mt then Reg.mt.ageFmaxMeas else Reg.uc.ageFmaxMeas
    let g := clockGroup u
    let s0 := s.setPwr (fun x => { x with agedAt := g.foldl (fun m v => Sparse.set (fun _ => 0) m v.page s.now) x.agedAt })
    let s1 := g.foldl (fun t v => t.put v f mhz) s0
    let s2 := if 1250 ≤ mhz then s1 else (g.foldl (fun t v => t.irq v (2 ^ 17)) s1).unitEvent u 0x3005 0 mhz
    if 1200 ≤ mhz then s2
    else g.foldl (fun t v => t.retire v 5) (s2.setPwr (fun x => { x with aged := Sparse.set (fun _ => 0) x.aged u.page mhz })))

/-- The partition that a clock serves: a tile's, or that of the logical cluster of the cluster's own cores (R225, R226). -/
def State.clockPart (s : State) (u : UnitId) : Option Nat :=
  if u.blk = .uc then (List.range 8).find? (fun p => s.ownsLogical .uc p (u.ix / 33 * 32)) else s.partOfUnit u

/-- The presets of the phases whose lanes head the queues of a tile or of a cluster's cores (R517). -/
def State.presetsOf (s : State) (u : UnitId) : List Nat :=
  ((clockGroup u).filterMap (fun v => (s.unit v).queue.head?)).filterMap (fun l =>
    match (s.part l.part).step with
    | none => none
    | some t => (s.pred.find? (fun r => r.part == l.part && r.pslot == t.pslot && r.phase == l.phase)).map (fun r => r.preset))

/-- The clock of a tile or cluster in MHz: 0 while it is clock-gated or power-gated; else the lowest of its ceilings, halved under R510 and R518. Where the cores of a
cluster run lanes of several phases it follows the lowest preset (DESIGN CHOICE, log entry 179). -/
def State.clock (s : State) (u : UnitId) : Nat :=
  if s.gated u || s.laneless u || (clockGroup u).all (fun v => s.ustate v == stOff) then 0
  else
    let p := s.clockPart u
    let fm := if u.blk = .mt then s.get u Reg.mt.ageFmaxMeas else s.get u Reg.uc.ageFmaxMeas
    let cap := if u.blk = .mt then s.get u Reg.mt.fmaxCapCapMhz else s.get u Reg.uc.fmaxCapCapMhz
    let own := if cap = 0 then fm else min fm cap
    let hot := if s.pwr.hot.any (fun v => (clockGroup v).contains u) then 1200 else 1400
    let want := match p with
      | none => 1200
      | some p =>
        if s.isAnte p then s.get pwrU (Reg.pwr.partAnteMhz.at p)
        else if s.fwDown || !s.flag pwrU Reg.pwr.predEn then 1200
        else match s.presetsOf u with
          | [] => 1200
          | f :: r => r.foldl min f
    let f := min (min own hot) (min want (s.pwr.ceil.getD (p.getD 8) 1400))
    if s.pwr.fast || s.pwr.half then f / 2 else f

end Sys2Proof.Machine
end

