-- ==== Sys2Proof/Machine/Thermal.lean ====
section
/-!
DEFINITION. Temperatures, plausibility of sensors, thermal throttling, and the sensor floors (R524 to R532, R535). Readings come as
operands: temperatures in m°C, temperature rises in mK, powers in W.
-/
namespace Sys2Proof.Machine

/-- Sets or clears a cause of ALERT_N (R618). -/
def State.alert (s : State) (i : Nat) (on : Bool) : State :=
  let c := s.get mgtU Reg.mgt.alertCause
  s.put mgtU Reg.mgt.alertCause (if on then c ||| 2 ^ i else c &&& (63 - 2 ^ i))

/-- The unit a sensor belongs to; a cluster is named by its first core. -/
def sensorUnit : Sensor → Option UnitId
  | .tile i => if i < 264 then some ⟨.mt, i⟩ else none
  | .cluster c => if c < 32 then some ⟨.uc, c * 33⟩ else none
  | .die _ => none
  | .device i => if i < 68 then some ⟨.mem, i⟩ else none

/-- Key of a sensor: its unit's page, or 0x2000 and 0x2001 for the dies. -/
def sensorKey : Sensor → Nat
  | .die d => 0x2000 + d % 2
  | x => match sensorUnit x with | some u => u.page | none => 0

/-- Sensors whose key is a die, tile or cluster take part in Tj (R524). -/
def inTj (k : Nat) : Bool := match unitOfPage k with | some u => u.blk != .mem | none => true

/-- Tj in m°C: the highest plausible reading of the die, tile and cluster sensors. -/
def State.tj (s : State) : Nat :=
  s.pwr.temps.foldl (fun a (e : Nat × Nat × List Nat) => if inTj e.1 then
    (e.2.2.zipIdx.foldl (fun b x => if s.pwr.excluded.contains (e.1 * 8 + x.2) then b else max b x.1) a) else a) 0

/-- The hottest device in m°C. -/
def State.hotDevice (s : State) : Nat :=
  s.pwr.temps.foldl (fun a (e : Nat × Nat × List Nat) => if inTj e.1 then a else e.2.2.foldl max a) 0

/-- The median of readings, taken as the mean of the middle two. -/
def median (l : List Nat) : Nat :=
  let q := sortBy (fun (a b : Nat) => decide (a ≤ b)) l
  let n := q.length
  if n % 2 = 1 then q.getD (n / 2) 0 else (q.getD (n / 2 - 1) 0 + q.getD (n / 2) 0) / 2

/-- T_pred in m°C from the inlet, the die's and the tile's power in W, and the coefficients in mK/W (R528, R565). -/
def State.tPred (s : State) (u : UnitId) (pUnit pDie : Nat) : Nat :=
  let c := if dieOf u = 0 then Reg.mcc.coefDie0 else Reg.mcc.coefDie1
  let f := if u.blk = .mt then Reg.mcc.coefTile.at u.ix else Reg.mcc.coefCluster.at (u.ix / 33)
  s.get thmU Reg.thm.coldInlet * 125 + s.get ⟨.mcc, 0⟩ c * pDie + s.get ⟨.mcc, 0⟩ f * pUnit

/-- A diode reading is implausible (R528): below the median, too fast, or below the prediction. -/
def State.implausible (s : State) (u : UnitId) (i d : Nat) (all : List Nat) (pUnit pDie : Nat) : Bool :=
  let k := s.get thmU Reg.thm.plausDiodeK * 1000
  let rate := s.get thmU Reg.thm.plausRateK
  let mk := s.get thmU Reg.thm.plausModelK * 1000
  let old := Sparse.get (fun _ => ((0 : Nat), ([] : List Nat))) s.pwr.temps u.page
  let fast := match old.2[i]? with
    | none => false
    | some p => decide (rate * (s.now - old.1) < (if p ≤ d then d - p else p - d) * 1000)
  decide (d + k < median all) || fast || decide (d + mk < s.tPred u pUnit pDie)

/-- A diode is excluded until the next full configuration. -/
def State.excludeDiode (s : State) (u : UnitId) (i : Nat) : State :=
  let s1 := s.setPwr (fun x => { x with excluded := x.excluded ++ [u.page * 8 + i] })
  let s2 := if u.blk = .mt then (s1.put thmU Reg.thm.lastBadTile u.ix).put thmU Reg.thm.lastBadDiode i else s1
  ((s2.put thmU Reg.thm.statDiodesExcluded (s2.get thmU Reg.thm.statDiodesExcluded + 1)).count thmU 2 1).irq thmU (2 ^ 17)

/-- Plausible diodes of a tile, which has four, or of a cluster, which has two (R524). -/
def State.diodesLeft (s : State) (u : UnitId) : Nat :=
  ((List.range (if u.blk = .mt then 4 else 2)).filter (fun i => !s.pwr.excluded.contains (u.page * 8 + i))).length

/-- A tile or cluster has failed sensing (R529): the floor cap holds, it is reported, and its retirement is asked for. -/
def State.senseFail (s : State) (u : UnitId) : State :=
  if s.pwr.sensed.contains u then s
  else
    let s1 := s.setPwr (fun x => { x with sensed := x.sensed ++ [u] })
    let s2 := ((s1.put thmU Reg.thm.statSenseFail 1).count thmU 3 1).irq thmU (2 ^ 18)
    let s3 := s2.eventM (some u) 0x9003 (blkCode u.blk + u.ix * 2 ^ 16) 0
    ((clockGroup u).foldl (fun t v => t.retire v 6) s3).applyCap

/-- Throttle values of Tj and of the devices in m°C, and the hysteresis. -/
def State.tjLimit (s : State) : Nat := s.get thmU Reg.thm.throttleC * 1000
def State.memLimit (s : State) : Nat := s.get thmU Reg.thm.memThrottleC * 1000
def State.hyst (s : State) : Nat := s.get thmU Reg.thm.hystK * 1000

/-- Some quantity is at or above its throttle value (R525). -/
def State.tooHot (s : State) : Bool := decide (s.tjLimit ≤ s.tj) || decide (s.memLimit ≤ s.hotDevice)

/-- GDDR7 throttling is entered or released (R525, R536). -/
def State.throttleMem (s : State) : State :=
  let dv := s.hotDevice
  if !s.pwr.memHot && decide (s.memLimit ≤ dv) then (s.setPwr (fun x => { x with memHot := true })).count thmU 8 1
  else if s.pwr.memHot && decide (dv + s.hyst < s.memLimit) then s.setPwr (fun x => { x with memHot := false })
  else s

/-- Throttling is entered or released (R525). CAP_THM starts no lower than FLOOR.W, so that no cap falls below 300 W (R511; DEDUCED, log
entry 180). -/
def State.throttle (s : State) : State :=
  let tj := s.tj
  let on := s.flag thmU Reg.thm.statThrottle
  let s0 := s.throttleMem
  if !on && s.tooHot then
    let w := max (s.get pwrU Reg.pwr.floorW) (min (s.get pwrU Reg.pwr.pIn1msW) (s.get pwrU Reg.pwr.capEffW))
    let s1 := (s0.setPwr (fun x => { x with thm := some w })).put thmU Reg.thm.statThrottle 1
    let s2 := (s1.count thmU 0 1).put thmU Reg.thm.capThmW w
    ((s2.eventM none 0x9002 1 (tj / 1000)).irq thmU (2 ^ 16)).applyCap
  else if on && decide (tj + s.hyst < s.tjLimit) && decide (s.hotDevice + s.hyst < s.memLimit) then
    ((s0.put thmU Reg.thm.statThrottle 0).eventM none 0x9002 0 (tj / 1000)).irq thmU (2 ^ 16)
  else s0

/-- Tj, its hottest tile and the hot units follow the readings. -/
def State.noteTemps (s : State) (u : Option UnitId) : State :=
  let tj := s.tj
  let s1 := s.put thmU Reg.thm.tjMaxC (sat 255 (tj / 1000))
  let s2 := match s.pwr.temps.find? (fun e => match unitOfPage e.1 with
      | some v => v.blk == .mt && e.2.2.zipIdx.any (fun x => x.1 == tj && !s.pwr.excluded.contains (e.1 * 8 + x.2))
      | none => false) with
    | some e => s1.put thmU Reg.thm.tjHotTile (e.1 - blkBase .mt)
    | none => s1
  match u with
  | none => s2
  | some u =>
    let top := (Sparse.get (fun _ => ((0 : Nat), ([] : List Nat))) s.pwr.temps u.page).2.zipIdx.foldl
      (fun a x => if s.pwr.excluded.contains (u.page * 8 + x.2) then a else max a x.1) 0
    let th := s.get thmU Reg.thm.throttleC * 1000
    if u.blk = .mem then s2.put u Reg.mem.tempDegC (sat 255 (top / 1000))
    else if th ≤ top then s2.setPwr (fun x => { x with hot := if x.hot.contains u then x.hot else x.hot ++ [u] })
    else if top + s.get thmU Reg.thm.hystK * 1000 < th then s2.setPwr (fun x => { x with hot := x.hot.filter (fun v => v != u) })
    else s2

/-- THERMAL_SAMPLE (R524, R525, R528): the readings of one sensor group, checked for plausibility, with the unit's and its die's
attributed power over 10 ms. -/
def execThermalSample (x : Sensor) (temps : List Nat) (pUnit pDie : Nat) (s : State) : Host.Outcome State Fault Refusal :=
  .next (
    match x with
    | .die _ =>
      let s1 := s.setPwr (fun r => { r with temps := Sparse.set (fun _ => (0, [])) r.temps (sensorKey x) (s.now, temps) })
      (s1.noteTemps none).throttle
    | _ =>
      match sensorUnit x with
      | none => s
      | some u =>
        let bad := if u.blk = .mem then [] else
          (List.range temps.length).filter (fun i => !s.pwr.excluded.contains (u.page * 8 + i) &&
            s.implausible u i (temps.getD i 0) temps pUnit pDie)
        let s1 := s.setPwr (fun r => { r with temps := Sparse.set (fun _ => (0, [])) r.temps (sensorKey x) (s.now, temps) })
        let s2 := bad.foldl (fun t i => t.excludeDiode u i) s1
        let s3 := if u.blk ≠ .mem ∧ s2.diodesLeft u < 2 then s2.senseFail u else s2
        (s3.noteTemps (some u)).throttle)

/-- THERMAL_CAP_TICK (R525): each millisecond CAP_THM falls while a quantity is at or above its throttle value, holds until every one is
below its release value, and then rises until it stops applying. -/
def execThermalCapTick (s : State) : Host.Outcome State Fault Refusal :=
  .next (
    match s.pwr.thm with
    | none => s
    | some w =>
      if s.flag thmU Reg.thm.statThrottle then
        let w' := if s.tooHot then max (s.get pwrU Reg.pwr.floorW) (w - s.get thmU Reg.thm.throttleStepW) else w
        (((s.setPwr (fun x => { x with thm := some w' })).put thmU Reg.thm.capThmW w').count thmU 1 1).applyCap
      else
        let w' := w + 10
        ((s.setPwr (fun x => { x with thm := if w' < 2200 then some w' else none })).put thmU Reg.thm.capThmW (min 2200 w')).applyCap)

/-- A check is implausible: the floor cap holds and ALERT_N is asserted (R532; source 1 cold plate, 2 current). -/
def State.holdFloor (s : State) (src : Nat) : State :=
  let s1 := s.setPwr (fun x => { x with conds := if x.conds.contains src then x.conds else x.conds ++ [src] })
  if s.pwr.floors.contains src then s1
  else
    let s2 := (s1.setPwr (fun x => { x with floors := x.floors ++ [src] })).alert 2 true
    ((s2.eventM none 0x9004 src 0).irq pwrU (2 ^ 19)).applyCap

/-- A check no longer fails; the floor stays for 60 s. -/
def State.checkOk (s : State) (src : Nat) : State := s.setPwr (fun x => { x with conds := x.conds.filter (fun c => c != src) })

/-- COLD_PLATE_CHECK (R530): inlet and outlet in 0.125 °C, the rise in mK and input power in W averaged over 2 s. -/
def execColdPlateCheck (inlet outlet rise watts : Nat) (s : State) : Host.Outcome State Fault Refusal :=
  .next (
    let s1 := (s.put thmU Reg.thm.coldInlet inlet).put thmU Reg.thm.coldOutlet outlet
    let s2 := if inlet < 120 ∨ 360 < inlet then ((s1.eventM none 0x9009 inlet 0).irq thmU (2 ^ 20)).count thmU 9 1 else s1
    let high := decide ((97 * watts + 47_700) * 1000 < rise * 15_900)
    let low := decide (500 ≤ watts) && decide (rise * 26_500 + 53_000 * 1000 < 97 * watts * 1000)
    let s3 := s2.put thmU Reg.thm.statCpImplausible (if high || low then 1 else 0)
    let s4 :=
      if high then
        if s3.flag thmU Reg.thm.statCoolantSuspect then s3
        else ((s3.put thmU Reg.thm.statCoolantSuspect 1).eventM none 0x9005 rise watts).irq thmU (2 ^ 19)
      else s3.put thmU Reg.thm.statCoolantSuspect 0
    if high || low then (s4.count thmU 4 1).holdFloor 1 else s4.checkOk 1)

/-- CURRENT_CHECK (R531): the sum of rail powers over the conversion efficiency agrees with the input power within the larger of
5 % and 40 W. -/
def execCurrentCheck (rails watts : Nat) (s : State) : Host.Outcome State Fault Refusal :=
  .next (
    let e := s.get ⟨.mcc, 0⟩ Reg.mcc.convEff
    let a := rails * 65_536
    let b := watts * e
    let bad := decide (max (5 * watts) 4000 * e < (if a ≤ b then b - a else a - b) * 100)
    let s1 := s.put thmU Reg.thm.statCurImplausible (if bad then 1 else 0)
    if bad then (s1.count thmU 5 1).holdFloor 2 else s1.checkOk 2)

/-- SENSOR_FLOOR_EXPIRY (R532): 60 s after the condition last held, its floor ends. -/
def execSensorFloorExpiry (src : Nat) (s : State) : Host.Outcome State Fault Refusal :=
  .next (
    if s.pwr.conds.contains src || !s.pwr.floors.contains src then s
    else
      let s1 := s.setPwr (fun x => { x with floors := x.floors.filter (fun c => c != src) })
      (if s1.pwr.floors.isEmpty then s1.alert 2 false else s1).applyCap)

end Sys2Proof.Machine
end

