-- ==== Sys2Proof/Machine/Access.lean ====
section
/-!
DEFINITION. Register words as fields (R9, R36): which fields a word of a page holds, how written bits merge into a field, and
what a configuration record of the Crever image may address (R548, R549).
-/
namespace Sys2Proof

/-- First bit of a field on its page. -/
def Field.first (f : Field) : Nat := 8 * f.off + f.lo
/-- The bit after its last. -/
def Field.past (f : Field) : Nat := f.first + f.width

/-- A field's index in an array of fields. -/
def Field.ixOf (f g : Field) : Option Nat :=
  if f.lo = g.lo ∧ g.off ≤ f.off ∧ (f.off - g.off) % g.stride = 0 ∧ (f.off - g.off) / g.stride < g.count then some ((f.off - g.off) / g.stride)
  else none

/-- A field has bits in the word at a page offset. -/
def Field.inWord (f : Field) (off : Nat) : Bool := decide (f.first < 8 * off + 32) && decide (8 * off < f.past)

/-- The instances of a field array that have bits in the word at a page offset. -/
def Field.instances (f : Field) (off : Nat) : List Field :=
  if f.stride = 0 then (if f.inWord off then [{ f with count := 1 }] else [])
  else
    let i := (off - f.off) / f.stride
    let near := ((List.range (4 / f.stride + 3)).map (fun k => i + k - 1)).dedup
    ((near.filter (fun j => decide (j < f.count))).map (fun j => f.at j)).filter (fun g => g.inWord off)

/-- Fields of a block, common ones first (R36). -/
def fieldsOf (b : Blk) : List Field := Reg.common.all ++ blkFields b

/-- The fields that have bits in the word at a page offset. -/
def fieldsAt (b : Blk) (off : Nat) : List Field := (fieldsOf b).flatMap (fun f => f.instances off)

/-- A field's bits within the word at a page offset: first bit in the word, first bit in the field, how many. -/
def Field.part (f : Field) (off : Nat) : Nat × Nat × Nat :=
  let lo := max f.first (8 * off)
  (lo - 8 * off, lo - f.first, min f.past (8 * off + 32) - lo)

/-- The bits of a word that a field holds. -/
def Field.maskIn (f : Field) (off : Nat) : Nat := (2 ^ (f.part off).2.2 - 1) * 2 ^ (f.part off).1

/-- A field's value with the masked bits of a word written into it. -/
def Field.merge (f : Field) (old off mask value : Nat) : Nat :=
  let p := f.part off
  let m := bits mask p.1 p.2.2
  let o := bits old p.2.1 p.2.2
  setBits old p.2.1 p.2.2 ((o &&& (2 ^ p.2.2 - 1 - m)) ||| (bits value p.1 p.2.2 &&& m))

/-- A written value as the field takes it: clamped, and rounded down to its grain. -/
def Field.limited (f : Field) (v : Nat) : Nat :=
  let c := match f.clamp with | some b => clampTo b.1 b.2 v | none => v
  c / f.grain * f.grain

/-- The reset value is a plain constant, so the image cannot set it (R11). -/
def Field.plain (f : Field) : Bool := match f.rst with | .const _ => true | _ => false

/-- The words of SLICE[15] and SLICE[31] are read-only (R261). -/
def systemSlice (b : Blk) (off : Nat) : Bool := b == .tbl && (off == 0x17C || off == 0x1BC)

/-- The bits of a word that a configuration record may set (R549). -/
def recordable (b : Blk) (off : Nat) : Nat :=
  if systemSlice b off then 0
  else ((fieldsAt b off).filter (fun f => (f.acc == .rw || f.acc == .rwx || f.acc == .rwt) && !f.plain)).foldl
    (fun a f => a ||| f.maskIn off) 0

end Sys2Proof

namespace Sys2Proof.Machine

/-- The units that a record addresses: its page, or every page of the block type; none if it may not be applied (R548, R549). -/
def recordUnits (page offset mask : Nat) : Option (List UnitId) :=
  match unitOfPage page with
  | none => none
  | some u =>
    let off := offset % 4096
    if offset / 8192 ≠ 0 ∨ off % 4 ≠ 0 ∨ mask ||| recordable u.blk off ≠ recordable u.blk off then none
    else if offset / 4096 = 0 then some [u]
    else some ((List.range (blkCount u.blk)).map (fun i => ⟨u.blk, i⟩))

/-- The unit follows ENABLE and FORCE (R39). -/
def disableable (b : Blk) : Bool := bit (blkCap b) 1

/-- Masked bits written into every field that they touch. ENABLE of a block that cannot be disabled ignores them (R39). -/
def State.writeBits (s : State) (u : UnitId) (off mask value : Nat) : State :=
  ((fieldsAt u.blk off).filter (fun f => (f.maskIn off &&& mask) != 0)).foldl
    (fun t f =>
      if f.off = Reg.common.enable.off ∧ f.lo = Reg.common.enable.lo ∧ !disableable u.blk then t
      else t.put u f (f.limited (f.merge (t.get u f) off mask value))) s

/-- Applies configuration records in ascending order; the index of the first that breaks R549. -/
def State.applyRecords (s : State) : Nat → List (Nat × Nat × Nat × Nat) → Except Nat State
  | _, [] => .ok s
  | i, (page, offset, mask, value) :: r =>
    match recordUnits page offset mask with
    | none => .error i
    | some us => State.applyRecords (us.foldl (fun t u => t.writeBits u (offset % 4096) mask value) s) (i + 1) r

end Sys2Proof.Machine
end

