-- ==== Sys2Proof/Machine/Layout.lean ====
section
/-!
DEFINITION. What a committed configuration must keep (R580: the rules of the fields' own chapters), and what a commit does besides
writing registers: zeroing (R246, R269), the page engines' pools, the groups of the collective engines, PSTATE.
-/
namespace Sys2Proof.Machine

/-- The first offending field of a check list: page and offset. -/
abbrev Checks := List (Bool × Nat × Nat)

/-- A check that fails at a field of the first page of a block. -/
def badIf (b : Bool) (blk : Blk) (f : Field) : Bool × Nat × Nat := (b, blkBase blk, f.off)

/-- Values of an array of fields that add up to more than a limit: the first element at which they do fails. -/
def sumAbove (limit n : Nat) (f : Nat → Nat) (blk : Blk) (x : Field) : Checks :=
  (List.range n).map (fun i => badIf (decide (limit < ((List.range (i + 1)).map f).sum)) blk (x.at i))

/-- Masks of partitions that are not apart: the first that meets an earlier one fails. -/
def masksMeet (f : Nat → Nat) (blk : Blk) (x : Field) : Checks :=
  (List.range 8).map (fun p => badIf ((List.range p).any (fun q => (f p &&& f q) != 0)) blk (x.at p))

/-- The first check that fails. -/
def firstBad (l : Checks) : Option (Nat × Nat) := (l.find? (fun c => c.1)).map (fun c => c.2)

/-- The two slices' owners and uses of a band. -/
def State.sliceAttr (s : State) (sl : Nat) : Option Nat × Nat :=
  let t : UnitId := ⟨.tbl, 0⟩
  (if s.flag t (Reg.tbl.sliceAssigned.at sl) then some (s.get t (Reg.tbl.sliceOwner.at sl)) else none, s.get t (Reg.tbl.sliceUse.at sl))

/-- Slices that hosts may configure. -/
def hostSlices : List Nat := (List.range 32).filter (fun sl => sl % 16 != 15)

/-- STARTUP. -/
def State.startup (s : State) : Bool := s.get bootU Reg.boot.stateMode == 0

/-- PSTATE FENCED. -/
def State.fenced (s : State) (p : Nat) : Bool := s.pstate p == 3

/-- Old and new owners of a resource are fenced, outside STARTUP (R246). -/
def State.ownersFenced (s : State) (a b : Option Nat) : Bool := s.startup || (a.toList ++ b.toList).all s.fenced

/-- The Table's rules (R245, R246, R261); s is the committed state, t the proposed one. -/
def tableChecks (s t : State) : Checks :=
  let use (sl : Nat) : Field := Reg.tbl.sliceUse.at sl
  let band := t.get ⟨.tbl, 0⟩ Reg.tbl.mapBandMode
  hostSlices.map (fun sl => badIf (decide (2 ≤ (t.sliceAttr sl).2)) .tbl (use sl)) ++
    hostSlices.map (fun sl => badIf (decide (24 < (hostSlices.filter (fun x => decide (x ≤ sl) && (t.sliceAttr x).2 == 1)).length)) .tbl (use sl)) ++
    [badIf (bit band 15 || (band != s.get ⟨.tbl, 0⟩ Reg.tbl.mapBandMode && !s.startup)) .tbl Reg.tbl.mapBandMode] ++
    (List.range 15).map (fun b => badIf (bit band b && t.sliceAttr b != t.sliceAttr (b + 16)) .tbl (use (b + 16))) ++
    hostSlices.map (fun sl => badIf (s.sliceAttr sl != t.sliceAttr sl && !s.ownersFenced (s.sliceAttr sl).1 (t.sliceAttr sl).1) .tbl (use sl))

/-- GROUPS of a region. -/
def State.groups (s : State) (p : Nat) : Nat := s.get ⟨.mem, 0⟩ (Reg.mem.regionGroups.at p)

/-- Owner of a device group. -/
def State.groupOwner (s : State) (g : Nat) : Option Nat := (List.range 8).find? (fun p => bit (s.groups p) g)

/-- The rules of regions and windows (R268, R283, R286, R289). -/
def memoryChecks (s t : State) : Checks :=
  let base (p : Nat) : Nat := t.get ⟨.tier, 0⟩ (Reg.tier.winBaseGib.at p)
  let size (p : Nat) : Nat := t.get ⟨.tier, 0⟩ (Reg.tier.winSizeGib.at p)
  masksMeet t.groups .mem Reg.mem.regionGroups ++
    (List.range 16).map (fun g => badIf (s.groupOwner g != t.groupOwner g && !s.ownersFenced (s.groupOwner g) (t.groupOwner g)) .mem
      (Reg.mem.regionGroups.at (((List.range 8).find? (fun p => bit (s.groups p) g != bit (t.groups p) g)).getD 0))) ++
    (List.range 8).map (fun p => badIf (t.flag ⟨.mem, 0⟩ (Reg.mem.regionMode.at p) &&
      (decide (t.groups p % 256 = 0) || decide (t.groups p / 256 = 0))) .mem (Reg.mem.regionMode.at p)) ++
    (List.range 8).map (fun p => badIf ((List.range p).any (fun q =>
      decide (0 < size p ∧ 0 < size q ∧ base p < base q + size q ∧ base q < base p + size p))) .tier (Reg.tier.winBaseGib.at p)) ++
    sumAbove 7936 8 size .tier Reg.tier.winSizeGib ++
    [badIf (decide (t.get ⟨.tier, 0⟩ Reg.tier.fabBase % 256 ≠ 0)) .tier Reg.tier.fabBase,
     (decide (t.get ⟨.tier, 1⟩ Reg.tier.fabBase % 256 ≠ 0), blkBase .tier + 1, Reg.tier.fabBase.off)]

/-- Bytes of the T1 reserve of partition p (R305). -/
def State.t1Reserve (s : State) (p : Nat) : Nat :=
  let n := s.get ⟨.pge, 0⟩ (Reg.pge.partT1Frames.at p)
  wholeFrames (16384 * 16) + wholeFrames (n * 16) + wholeFrames (16384 * 512) + wholeFrames (n * 512) + wholeFrames (16384 * 16) +
    wholeFrames (n * 16) + wholeFrames (s.get ⟨.pge, 0⟩ (Reg.pge.partPfxEntries.at p) * 32)

/-- The page engines' rules (R304, R305, R336). -/
def pagingChecks (t : State) : Checks :=
  let f (x : Field) (p : Nat) : Nat := t.get ⟨.pge, 0⟩ (x.at p)
  (List.range 8).flatMap (fun p =>
    [badIf (decide (0 < f Reg.pge.partT1Frames p) &&
        !t.inRegion p (f Reg.pge.partT1Base p * 32768) (f Reg.pge.partT1Frames p * 32768 + t.t1Reserve p)) .pge (Reg.pge.partT1Frames.at p),
     badIf (decide (f Reg.pge.partPfxEntries p % 8 ≠ 0)) .pge (Reg.pge.partPfxEntries.at p),
     badIf (decide (8192 < f Reg.pge.partLh p) || decide (0 < f Reg.pge.partT1Frames p ∧ f Reg.pge.partLh p = 0)) .pge (Reg.pge.partLh.at p)]) ++
    sumAbove 4_194_304 8 (f Reg.pge.partPfxEntries) .pge Reg.pge.partPfxEntries

/-- The Dealer's rules (R339 to R341, R370). -/
def dealerChecks (t : State) : Checks :=
  let f (x : Field) (p : Nat) : Nat := t.get dlrU (x.at p)
  sumAbove 32_768 8 (f Reg.dlr.partSlotCount) .dlr Reg.dlr.partSlotCount ++
    sumAbove 1_048_576 8 (f Reg.dlr.partQueueEntries) .dlr Reg.dlr.partQueueEntries ++
    (List.range 8).flatMap (fun p =>
      let a := t.area p
      let used := decide (0 < f Reg.dlr.partSlotCount p)
      let gs := f Reg.dlr.partGroupSizeM1 p + 1
      [badIf (used && (decide (a.queue % 65536 ≠ 0) || !t.inRegion p a.queue (a.finish - a.queue))) .dlr (Reg.dlr.partAreaBase.at p),
       badIf (used && (decide (f Reg.dlr.partScratchBase p % 64 ≠ 0) || !t.inSlices p (f Reg.dlr.partScratchBase p) 1)) .dlr
        (Reg.dlr.partScratchBase.at p),
       badIf (decide (gs % (f Reg.dlr.partCpM1 p + 1) ≠ 0)) .dlr (Reg.dlr.partGroupSizeM1.at p),
       badIf (decide (12 < f Reg.dlr.partCpBlockLog2 p)) .dlr (Reg.dlr.partCpBlockLog2.at p),
       badIf (decide (1 < gs) && (List.range gs).any (fun m => decide (64 ≤ bits (f Reg.dlr.partMember p) (8 * m) 8))) .dlr
        (Reg.dlr.partMember.at p)])

/-- The rules of port H and of the partition masks (R389, R395, R591, R514, R534). -/
def hostChecks (t : State) : Checks :=
  let a (x : Field) (k : Nat) : Nat := t.get hifU (x.at k)
  let m (x : Field) (p : Nat) : Nat := t.get sprU (x.at p)
  let w (x : Field) (p : Nat) : Nat := t.get pwrU (x.at p)
  [badIf (!([1, 2, 4, 8, 16, 32, 64].contains (t.get hifU Reg.hif.memwinSizeGib))) .hif Reg.hif.memwinSizeGib] ++
    (List.range 16).map (fun k => badIf ((List.range k).any (fun j =>
      decide (0 < a Reg.hif.aptSize k ∧ 0 < a Reg.hif.aptSize j ∧
        a Reg.hif.aptWinOff k < a Reg.hif.aptWinOff j + a Reg.hif.aptSize j ∧
        a Reg.hif.aptWinOff j < a Reg.hif.aptWinOff k + a Reg.hif.aptSize k))) .hif (Reg.hif.aptWinOff.at k)) ++
    [Reg.spr.partMtGroups, Reg.spr.partAePairs, Reg.spr.partUcClusters, Reg.spr.partEwGroups, Reg.spr.partShfPairs, Reg.spr.partXr,
      Reg.spr.partSmp, Reg.spr.partDmaPairs].flatMap (fun x => masksMeet (m x) .spr x) ++
    sumAbove 224 8 (w Reg.pwr.partAnte) .pwr Reg.pwr.partAnte ++
    (List.range 8).map (fun p => badIf (!decide (1200 ≤ w Reg.pwr.partAnteMhz p ∧ w Reg.pwr.partAnteMhz p ≤ 1400)) .pwr (Reg.pwr.partAnteMhz.at p))

/-- The fabric's rules (R428, R445). -/
def fabricChecks (s t : State) : Checks :=
  let v (x : State) (i : Nat) : Nat := x.get (bvfU 0) (Reg.bvf.vcbuf.at i)
  sumAbove 12_288 24 (v t) .bvf Reg.bvf.vcbuf ++
    (List.range 24).map (fun i => badIf (v s i != v t i && !s.startup) .bvf (Reg.bvf.vcbuf.at i)) ++
    [badIf (t.get (bvfU 0) Reg.bvf.topoSuitsM1 != s.get (bvfU 0) Reg.bvf.topoSuitsM1 && !s.startup) .bvf Reg.bvf.topoSuitsM1] ++
    (List.range 21).map (fun i => badIf (decide (v t i < (if i / 3 = 2 then 34 else 17))) .bvf (Reg.bvf.vcbuf.at i))

/-- The fields of a group's entry (R451), without what the engine itself keeps. -/
def State.grpEntry (s : State) (g : Nat) : List Nat :=
  [Reg.ce.grpMembersLo, Reg.ce.grpMembersHi, Reg.ce.grpPart, Reg.ce.grpValid, Reg.ce.grpReform, Reg.ce.grpChunkKib, Reg.ce.grpArea].map
    (fun f => s.get ⟨.ce, g / 16⟩ (f.at (g % 16)))

/-- Members of a group as a mask. -/
def State.grpMask (s : State) (g : Nat) : Nat :=
  s.get ⟨.ce, g / 16⟩ (Reg.ce.grpMembersLo.at (g % 16)) + s.get ⟨.ce, g / 16⟩ (Reg.ce.grpMembersHi.at (g % 16)) * 2 ^ 32

/-- A group's area lies wholly in GENERAL slices of its partition (R451, R452). -/
def State.grpAreaOk (s : State) (g : Nat) : Bool :=
  let a := s.get ⟨.ce, g / 16⟩ (Reg.ce.grpArea.at (g % 16))
  let p := s.get ⟨.ce, g / 16⟩ (Reg.ce.grpPart.at (g % 16))
  let n := (((List.range 64).filter (fun i => bit (s.grpMask g) i)).length - 1) * 327_680
  decide (a % 65_536 = 0) && (decide (n = 0) ||
    (s.inSlices p a n && ((List.range 32).filter (fun sl => decide (a / 0x100_0000 ≤ sl ∧ sl ≤ (a + n - 1) / 0x100_0000))).all
      (fun sl => (s.sliceAttr sl).2 == 0)))

/-- The rules of collective groups (R451). -/
def groupChecks (s t : State) : Checks :=
  (List.range 64).map (fun g =>
    let changed := s.grpEntry g != t.grpEntry g
    let valid := t.flag ⟨.ce, g / 16⟩ (Reg.ce.grpValid.at (g % 16))
    let chunk := t.get ⟨.ce, g / 16⟩ (Reg.ce.grpChunkKib.at (g % 16))
    ((changed && s.coll.any (fun c => c.group == g)) ||
      (valid && (!bit (t.grpMask g) t.node || !t.grpAreaOk g)) || (changed && !([4, 8, 16, 32, 64].contains chunk)),
      blkBase .ce + g / 16, (Reg.ce.grpMembersLo.at (g % 16)).off))

/-- The rules of fields that stand on many pages (R115, R130, R159, R239), for the fields that were written. -/
def writtenChecks (t : State) (sh : List Shadow) : Checks :=
  sh.map (fun e =>
    let fmax (u : UnitId) (x : Field) : Bool := decide (e.value ≠ 0) && !decide (1200 ≤ e.value ∧ e.value ≤ t.get u x)
    let bad := match unitOfPage e.page with
      | none => false
      | some u =>
        (u.blk == .mt && e.field == Reg.mt.osplitWringKib && !decide (64 ≤ e.value ∧ e.value ≤ 160 ∧ e.value % 16 = 0)) ||
        (u.blk == .mt && e.field == Reg.mt.fmaxCapCapMhz && fmax u Reg.mt.freqFmaxFused) ||
        (u.blk == .uc && e.field == Reg.uc.fmaxCapCapMhz && fmax u Reg.uc.freqFmaxFused) ||
        (u.blk == .ae && e.field == Reg.ae.optSelEn &&
          (List.range (blkCount .ae)).any (fun i => t.get ⟨.ae, i⟩ Reg.ae.optSelEn != e.value))
    (bad, e.page, e.field.off))

/-- The first rule that a proposed configuration breaks. -/
def layoutBad (s t : State) (sh : List Shadow) : Option (Nat × Nat) :=
  firstBad (writtenChecks t sh ++ tableChecks s t ++ memoryChecks s t ++ pagingChecks t ++ dealerChecks t ++ hostChecks t ++
    fabricChecks s t ++ groupChecks s t)

/-! ## Effects of a commit -/

/-- Zeroes a slice, whose line n lies at its offset, and clears its damage (R246). -/
def State.zeroSlice (s : State) (sl : Nat) : State := s.zeroTable (key 1 (sl * 0x100_0000)) 0x100_0000

/-- The controllers of a group's devices have written every data line (R269, R287). -/
def State.tallyGroup (s : State) (g : Nat) : State :=
  ((List.range 4).map (fun i => s.physOf .mem (4 * g + i))).foldl
    (fun t i => if i = 0xFFFF then t else t.count ⟨.mem, i⟩ 1 16_252_928) s

/-- Zeroes every data line of a group's devices for its owner (R269), under the layout that holds now.
The old owner's data and damage are gone with it. -/
def State.zeroGroup (s0 : State) (g : Nat) : State :=
  match s0.groupOwner g with
  | none => s0
  | some p =>
    let s := s0.tallyGroup g
    let mine (a : Nat) : Bool := decide (a / 2 ^ 48 = 0) && s.inRegion p a 1 && (s.deviceOf p a).1 / 4 == g
    { s with
      mem := s.mem.filter (fun c => !mine c.1)
      poison := s.poison.filter (fun l => !mine (l * 256))
      hurt := { s.hurt with
        tags := s.hurt.tags.filter (fun l => !mine (l * 256))
        dead := s.hurt.dead.filter (fun d => d.dev / 4 != g)
        stale := s.hurt.stale.map (fun (x : Nat × List Nat) => if x.1 = p then (x.1, Keys.add x.2 (2 ^ 60 + g)) else x) } }

/-- The offset of space 0 that a byte has after the layout of regions has changed: a line stays on its device (R268, R270). -/
def State.movedTo (s t : State) (a : Nat) : Option Nat :=
  match s.partOfKey a with
  | none => none
  | some p =>
    let d := s.deviceOf p a
    match t.groupOwner (d.1 / 4) with
    | none => none
    | some q =>
      if s.groupOwner (d.1 / 4) ≠ some q then none
      else (t.lineOfDevice d.1 d.2).map (fun l => l * 256 + a % 256)

/-- The lines of partition p whose tags still fit after its region has changed, t after s, as an entry of `hurt.stale`: a tag covers its
line's offset (R272, R273), and a device line keeps its offset only where both maps give it the same one. None: every line keeps its
offset. -/
def State.movedFit (s t : State) (p : Nat) : Option (List Nat) :=
  let ds := (List.range 64).filter (fun d => s.groupOwner (d / 4) == some p && t.groupOwner (d / 4) == some p)
  if ds.all (fun d => s.deviceMap p d == t.deviceMap p d) then none
  else
    let old := (s.hurt.stale.find? (fun x => x.1 == p)).map (fun x => x.2)
    let fitted (d l : Nat) : Bool := match old with
      | none => true
      | some c => c.contains l || c.contains (2 ^ 60 + d / 4) || c.contains (2 ^ 61 + d)
    some (ds.flatMap (fun d =>
      let a := s.deviceMap p d
      let b := t.deviceMap p d
      if a = b then
        if fitted d (2 ^ 61 + d) then [2 ^ 61 + d] else (old.getD []).filter (fun l => decide (l < 2 ^ 60) && s.deviceOfLine l == some d)
      else
        let j := if a.2 = b.2 then 0 else ((b.1 : Int) - a.1).toNat / (a.2 - b.2) + ((a.1 : Int) - b.1).toNat / (b.2 - a.2)
        if j < 16_252_928 ∧ a.1 + a.2 * j = b.1 + b.2 * j ∧ fitted d (a.1 + a.2 * j) then [a.1 + a.2 * j] else []))

/-- Local memory moves with the layout of regions, t after s: bytes, poison, damage, and the sealed ranges of a partition. -/
def State.moveLocal (s t : State) : State :=
  let near (k : Nat) : Bool := decide (k / 2 ^ 48 = 0)
  let line (l : Nat) : Option Nat := (s.movedTo t (l * 256)).map (fun a => a / 256)
  let lines (ls : List Nat) : List Nat :=
    (ls.filter (fun l => near (l * 256))).foldl (fun k l => match line l with | some m => Keys.add k m | none => k)
      (ls.filter (fun l => !near (l * 256)))
  let shift (p a : Nat) : Nat := if near a then t.regionBase p + a - s.regionBase p else a
  { t with
    mem := (t.mem.filter (fun c => near c.1)).foldl
      (fun m c => match s.movedTo t c.1 with | some a => Sparse.set memDefault m a c.2 | none => m) (t.mem.filter (fun c => !near c.1))
    poison := lines t.poison
    hurt := { t.hurt with
      tags := lines t.hurt.tags
      dead := t.hurt.dead.map (fun (x : DeadDev) => { x with clean := lines x.clean })
      stale := t.hurt.stale.filter (fun x => decide (8 ≤ x.1) || (s.movedFit t x.1).isNone) ++
        (List.range 8).filterMap (fun p => (s.movedFit t p).map (fun c => (p, c))) }
    sec := t.sec.map (fun (e : Nat × SecPart) => (e.1, { e.2 with
      ranges := e.2.ranges.map (fun r => (shift e.1 r.1, r.2))
      plans := e.2.plans.map (shift e.1)
      kernels := e.2.kernels.map (fun r => (shift e.1 r.1, r.2)) })) }

/-- The page engines' pools of a partition, all free (R304, R311). -/
def State.initPge (s : State) (p : Nat) : State :=
  let b := s.get ⟨.pge, 0⟩ (Reg.pge.partT1Base.at p)
  let t0 := (hostSlices.filter (fun sl => s.ownsSlice p sl && (s.sliceAttr sl).2 == 1)).map (fun sl => (sl * 512, sl * 512 + 512))
  let w := s.get ⟨.tier, 0⟩ (Reg.tier.winBaseGib.at p) * 32768 + s.t2Frames p
  let n := s.get ⟨.pge, 0⟩ (Reg.pge.partT1Frames.at p)
  if n = 0 then s.setPge p (fun _ => {})
  else s.setPge p (fun _ =>
    { free0 := ⟨[], t0⟩, free1 := ⟨[], [(b, b + n)]⟩, free2 := ⟨[], if s.t2Frames p = 0 then [] else [(s.t2First p, w)]⟩ })

/-- A group is ready, or unused, as its entry says (R451). -/
def State.initGroup (s : State) (g : Nat) : State :=
  let u : UnitId := ⟨.ce, g / 16⟩
  let p (t : State) (f : Field) (v : Nat) : State := t.put u (f.at (g % 16)) v
  let s1 := p (p (p s Reg.ce.grpGen 0) Reg.ce.grpNextSeq 0) Reg.ce.grpLiveLo (s.get u (Reg.ce.grpMembersLo.at (g % 16)))
  let s2 := p s1 Reg.ce.grpLiveHi (s.get u (Reg.ce.grpMembersHi.at (g % 16)))
  let s3 := p s2 Reg.ce.grpGstate (if s.flag u (Reg.ce.grpValid.at (g % 16)) then 1 else 0)
  { s3 with grps := Sparse.set (fun _ => {}) s3.grps g {} }

/-- PSTATE of a partition that nothing holds: RUNNING, or OFF without slots (R342, R582). -/
def State.freePstate (s : State) (p : Nat) : State :=
  s.put dlrU (Reg.dlr.partPstate.at p) (if s.slotCount p = 0 then 0 else 1)

end Sys2Proof.Machine
end

