-- ==== Sys2Proof/Machine/Startup.lean ====
section
/-!
DEFINITION. Module states, the full start and the compute restart stage by stage, boot reports, the firmware broadcast and the wave
start, failed starts and minimal mode, the compute-only reset, the stops, and the 42 V input (R526, R527, R538 to R568, R587, R616,
R629, R630). A stage's outcome comes with the command that ends it.
-/
namespace Sys2Proof.Machine

/-- Changes the start-up record. -/
def State.setSys (s : State) (f : SysRec → SysRec) : State := { s with sys := f s.sys }

/-- `BOOT.STATE.MODE` (R538). -/
def State.mode (s : State) : Nat := s.get bootU Reg.boot.stateMode
/-- The module enters a state. -/
def State.setMode (s : State) (m : Nat) : State := s.put bootU Reg.boot.stateMode m

/-- A field of both AON pages. -/
def State.putAon (s : State) (f : Field) (v : Nat) : State := (s.put ⟨.aon, 0⟩ f v).put ⟨.aon, 1⟩ f v

/-- Blocks on the compute dies (R19, R557). -/
def computeBlks : List Blk := [.mt, .ae, .ew, .shf, .xr, .smp, .uc, .dma, .tbl, .mem, .pge, .dlr]

/-- Units whose STATE is not OFF: those whose STATUS word differs from its reset value. -/
def State.litUnits (s : State) : List UnitId :=
  (s.regs.filter (fun e => decide (e.1 % 4096 = 12) && decide (e.1 < 0x400_0000))).filterMap (fun e => unitOfPage (e.1 / 4096))

/-- A unit takes part in this configuration. -/
def State.healthy (s : State) (u : UnitId) : Bool := !s.flag u Reg.common.retired && !s.sys.excluded.contains u

/-- A unit that starts passes STARTING; then, and when it is released, it is RUNNING, or QUIESCED while ENABLE is clear (R43). -/
def State.enter (s : State) (u : UnitId) : State :=
  let s1 := if s.ustate u = stOff then s.setState u stStarting else s
  s1.setState u (if bit (blkCap u.blk) 1 && !s1.flag u Reg.common.enable then stQuiesced else stRunning)

/-- A unit fails its training: from OFF it has passed STARTING, and it is FAULTED (R43, R267). -/
def State.failsTraining (s : State) (u : UnitId) : State :=
  (if s.ustate u = stOff then s.setState u stStarting else s).setState u stFaulted

/-! ## Boot reports (R542, R543) -/

/-- A new report: the current one becomes the previous. -/
def State.newReport (s : State) (kind : Nat) : State :=
  s.setSys (fun x => { x with
    prev := x.cur
    cur := { kind, consec := s.get bootU Reg.boot.failsConsec, bootCount := s.get bootU Reg.boot.bootCount, tStart := s.now, imageId := x.image.id } })

/-- OUTCOME and REASON of the current report. -/
def State.outcomeIs (s : State) (o reason : Nat) : State :=
  s.setSys (fun x => { x with cur := { x.cur with
    outcome := o, reason, consec := s.get bootU Reg.boot.failsConsec, bootCount := s.get bootU Reg.boot.bootCount } })

/-- The stage that runs writes its record; a report holds sixteen. -/
def State.stageRecord (s : State) (result reason detail dur : Nat) : State :=
  match s.sys.start with
  | none => s
  | some st =>
    let r : BootRec := ⟨s.get bootU Reg.boot.stateStage, result, reason, (st.stageAt - st.began) / 1000, dur, detail⟩
    s.setSys (fun x => { x with cur := { x.cur with recs := if x.cur.recs.length < 16 then x.cur.recs ++ [r] else x.cur.recs } })

/-- The bytes of a report. -/
def BootReport.bytes (r : BootReport) : List Byte :=
  let one (b : BootRec) : List Byte :=
    leBytes 1 b.stage ++ leBytes 1 b.result ++ leBytes 2 b.reason ++ leBytes 4 b.tBegin ++ leBytes 4 b.dur ++ leBytes 4 b.detail
  if r.kind = 0 then List.replicate 320 0
  else
    leBytes 4 0x5450_5258 ++ leBytes 1 r.kind ++ leBytes 1 r.outcome ++ leBytes 1 r.consec ++ leBytes 1 r.recs.length ++
      leBytes 4 r.bootCount ++ leBytes 2 r.reason ++ leBytes 2 0 ++ leBytes 8 r.tStart ++ (r.imageId ++ List.replicate 16 0).take 16 ++
      List.replicate 24 0 ++ (r.recs.flatMap one ++ List.replicate 256 0).take 256

/-! ## What a module reset leaves (R536, R542, R563, R567, R572, R609) -/

/-- Registers held in AON or by pins, which survive MOD_RST_N: the two AON pages' latch, uptime, voltage, suspects and stop cause;
the failure and start counts; the latch as SPR shows it; the port's addresses, ALERT_N's causes, the watchdog and the timestamp; the
unlock count and the latched unlock (R504); the pin levels that PWR and THM show; the coolant temperatures. -/
def aonFields : List (UnitId × Field) :=
  ([0, 1].flatMap (fun i => [Reg.aon.latchHolder, Reg.aon.latchInterlockOk, Reg.aon.hbMissing, Reg.aon.uptimeS, Reg.aon.vinMv,
      Reg.aon.suspectCount, Reg.aon.xtalPpm, Reg.aon.stopCause].map (fun f => ((⟨.aon, i⟩ : UnitId), f)))) ++
    [(bootU, Reg.boot.failsConsec), (bootU, Reg.boot.failsLastReason), (bootU, Reg.boot.bootCount), (sprU, Reg.spr.ownHolder),
     (sprU, Reg.spr.ownInterlockOk), (mgtU, Reg.mgt.i3cDynAddr), (mgtU, Reg.mgt.mctpEid), (mgtU, Reg.mgt.alertCause),
     (mgtU, Reg.mgt.wdtExpired), (mgtU, Reg.mgt.tsNow), (mgtU, Reg.mgt.tsSetMs), (mgtU, Reg.mgt.tsSynced),
     (mgtU, Reg.mgt.tsLastErrNs), (secU, Reg.sec.debugUnlockCount), (secU, Reg.sec.debugScope), (secU, Reg.sec.debugUnlocked),
     (secU, Reg.sec.debugJtagLock), (pwrU, Reg.pwr.statThrot),
     (pwrU, Reg.pwr.statRamp), (pwrU, Reg.pwr.statSyncOk), (thmU, Reg.thm.statCoolantOk), (thmU, Reg.thm.coldInlet),
     (thmU, Reg.thm.coldOutlet), (clkU, Reg.clk.refState)]

/-- Counters held in AON (R536, R563, R567): BOOT 0 to 2, THM 6 and 7, AON 0 to 3. -/
def aonCounter (k : Nat) : Bool :=
  let page := k / 32
  let c := k % 32
  (decide (page = bootU.page) && decide (c < 3)) || (decide (page = thmU.page) && (c == 6 || c == 7)) ||
    decide (page = (⟨.aon, 0⟩ : UnitId).page) || decide (page = (⟨.aon, 1⟩ : UnitId).page)

/-- Registers of port H that a restart and minimal mode leave: LINK and NODE, MEVT, and the PF's MSI-X table (R556). -/
def portHRegs (a : Nat) : Bool :=
  let off := a - hifU.base
  (decide (hifU.base ≤ a) && (decide (0x100 ≤ off ∧ off < 0x108) || decide (0x280 ≤ off ∧ off < 0x29C))) || decide (winBase 8 ≤ a)

/-- The link dies' pages of ports and routers. -/
def linkRegs (a : Nat) : Bool := decide (a < 0x400_0000) && (match unitOfPage (a / 4096) with
  | some u => u.blk == .bvl || u.blk == .bvf
  | none => false)

/-- Both AON domains run while 42 V is present (R17). -/
def State.aonRuns (s : State) : State := [(⟨.aon, 0⟩ : UnitId), ⟨.aon, 1⟩].foldl (fun t u => t.put u Reg.common.state stRunning) s

/-- What a reset of the whole module leaves. `host`: port H's module event ring stays as it is; `links`: the Benvo ports and routers stay
up. The tier's memory is outside the module; the keys of its lines are gone. -/
def State.wiped (s : State) (host links : Bool) : State :=
  let tier (k : Nat) : Bool := decide (k / 2 ^ 48 = 2)
  let s1 : State := { State.reset with
    pending := s.pending, freeIdx := s.freeIdx, resp := s.resp, out := s.out, sys := s.sys, mgt := s.mgt
    regs := s.regs.filter (fun e => (host && portHRegs e.1) || (links && linkRegs e.1))
    counts := s.counts.filter (fun e => aonCounter e.1)
    mem := s.mem.filter (fun c => tier c.1), poison := s.poison.filter (fun l => tier (l * 256))
    hurt := { tags := s.hurt.tags.filter (fun l => tier (l * 256)) }
    talon := { discard := s.talon.discard, programming := s.talon.programming, overflow := s.talon.overflow, suspects := s.talon.suspects }
    net := if links then s.net else {}
    modWait := if host then s.modWait else [], modSeq := if host then s.modSeq else 0, modLost := if host then s.modLost else 0
    modUnsig := if host then s.modUnsig else 0
    pwr := { half := s.flag pwrU Reg.pwr.statThrot }, memHeld := true }
  let s2 := ((aonFields.foldl (fun t e => t.put e.1 e.2 (s.get e.1 e.2)) s1).put pwrU Reg.pwr.statSafe (s.get mgtU Reg.mgt.wdtExpired)).setSys
    (fun x => { x with start := none, retry := false, cmp := { x.cmp with held := false }, stable := false })
  if s2.sys.powered then s2.aonRuns else s2

/-- An update is cut: an image write in progress leaves the slot invalid (R550). -/
def State.cutUpdate (s : State) : State :=
  if s.sys.update.isSome then s.setSys (fun x => { x with update := none, slotBad := true }) else s

/-- A start that runs ends INTERRUPTED (R561). -/
def State.interrupted (s : State) : State := if s.sys.start.isSome then s.outcomeIs 4 0x0702 else s

/-! ## Numbers (R20, R225, R540, R573) -/

/-- The Discard names a unit; the overflow list does not count at a full start (R572). -/
def State.discarded (s : State) (u : UnitId) : Bool :=
  (s.talon.discard ++ s.talon.programming).any (fun e => e.type == blkCode u.blk && e.inst == u.ix)

/-- A unit is recorded as suspect. -/
def State.isSuspect (s : State) (u : UnitId) : Bool := s.talon.suspects.any (fun e => e.type == blkCode u.blk && e.inst == u.ix)

/-- The dies, or clusters, within which numbers stay: physical instances, and the first and the count of their numbers. -/
def numberGroups (b : Blk) : List (List Nat × Nat × Nat) :=
  if b = .uc then (List.range 32).map (fun c => ((List.range 33).map (fun i => c * 33 + i), c * 32, 32))
  else [0, 1].map (fun d => ((List.range (blkCount b)).filter (fun i => dieOf ⟨b, i⟩ == d), d * (blkLogical b / 2), blkLogical b / 2))

/-- Gives the healthy units of a block their numbers, in ascending physical order; the rest of them are spares, and numbers left over
are VACANT. -/
def State.assign (s : State) (ok : UnitId → Bool) (b : Blk) : State :=
  (numberGroups b).foldl (fun t g =>
    let good := g.1.filter (fun i => ok ⟨b, i⟩)
    let t1 := ((good.take g.2.2).zipIdx).foldl (fun (t : State) (x : Nat × Nat) =>
      { t.put ⟨b, x.1⟩ Reg.common.spare 0 with talon := { t.talon with
          map := Sparse.set (fun _ => 0xFFFF) t.talon.map (blkCode b * 4096 + g.2.1 + x.2) x.1 } }) t
    let t2 := (good.drop g.2.2).foldl (fun t i => t.put ⟨b, i⟩ Reg.common.spare 1) t1
    let gone := (List.range g.2.2).filter (fun k => decide (good.length ≤ k))
    { t2 with talon := { t2.talon with vacant := t2.talon.vacant ++ gone.map (fun k => (blkCode b, g.2.1 + k)) } }) s

/-- Assigns every number anew over the units that are healthy, and READY where they are loaded. -/
def State.assignAll (s : State) (ok : UnitId → Bool) : State :=
  ([Blk.mt, .ae, .ew, .shf, .xr, .smp, .uc, .tbl, .mem, .dma, .pge, .ce].foldl (fun t b => t.assign ok b)
    { s with talon := { s.talon with map := [], vacant := [] } })

/-! ## The wave (R551 to R554) -/

/-- Types of units whose cores load firmware. -/
def loadable : List Blk := [.mt, .ae, .ew, .shf, .xr, .smp, .uc, .dma, .ce, .pge]

/-- Blocks of the component that a core loads. -/
def State.blocksFor (s : State) (u : UnitId) : Nat :=
  ((if u.blk = .uc then min 4096 s.sys.image.ucLen else s.sys.image.engineLen) + 4095) / 4096

/-- A core that has every block still to come. -/
def State.freshCore (s : State) (u : UnitId) : WaveCore := ⟨u, List.range (s.blocksFor u), 0, false⟩

/-- Stage 7 begins: the wave is every loadable unit that holds a provisional number, and round 1 broadcasts both components. -/
def State.beginWave (s : State) : State :=
  let cores := loadable.flatMap (fun b =>
    ((List.range (blkCount b)).map (fun i => (⟨b, i⟩ : UnitId))).filter (fun u => s.healthy u && (s.logicalOf u).isSome))
  let s1 := s.setSys (fun x => { x with wave := cores.map s.freshCore })
  s1.count bootU 3 ((s.sys.image.engineLen + 4095) / 4096 + (min 4096 s.sys.image.ucLen + 4095) / 4096)

/-- A core is retired after its third round; a spare from the Talon joins the wave in its place (R552). -/
def State.retireCore (s : State) (u : UnitId) : State :=
  let s1 := s.setSys (fun x => { x with wave := x.wave.filter (fun c => c.unit != u) })
  let s2 := (s1.count bootU 6 1).irq bootU (2 ^ 19)
  match s.sys.start with
  | none => s2.retire u 2
  | some _ =>
    let s3 := s2.setSys (fun x => { x with start := x.start.map (fun (t : StartRec) => { t with retired := t.retired + 1 }) })
    let sp := s3.pickSpare u
    let s4 := if sparable u.blk then s3.markRetired u 2 else (s3.markRetired u 2).setState u stVacant
    match sp with
    | none => s4.setState u (if sparable u.blk then stOff else stVacant)
    | some i =>
      let v : UnitId := ⟨u.blk, i⟩
      let s5 := ((s4.setState u stOff).put v Reg.common.spare 0).setState v stStarting
      (s5.setSys (fun x => { x with wave := x.wave ++ [s5.freshCore v] })).count bootU 5 (s5.blocksFor v)

/-- Spares that a remap is bringing out of the Talon join the wave of service (R552, R574). -/
def State.joinWave (s : State) : State :=
  let new := (s.talon.remaps.filter (fun r => r.stage == .starting)).filterMap (fun r => r.spare.map (fun i => (⟨r.retiring.blk, i⟩ : UnitId)))
  let add := new.filter (fun u => loadable.contains u.blk && !s.sys.wave.any (fun c => c.unit == u))
  if s.sys.start.isSome then s else s.setSys (fun x => { x with wave := x.wave ++ add.map s.freshCore })

/-- BCAST_ROUND_END (R552): the miss bitmaps of the cores that still load. A block that many cores miss is broadcast again, any other is
sent by unicast; a core that misses a block after its third round is retired. -/
def execBcastRoundEnd (misses : List (UnitId × List Nat)) (s : State) : Host.Outcome State Fault Refusal :=
  .next (
    let s0 := s.joinWave
    let least := clampTo 1 1024 (s.get bootU Reg.boot.bcastRepeatMin)
    let upd (c : WaveCore) : WaveCore :=
      if c.ready || c.missing.isEmpty then c
      else { c with rounds := c.rounds + 1, missing := (match misses.find? (fun m => m.1 == c.unit) with
        | some m => c.missing.filter (fun b => m.2.contains b)
        | none => []) }
    let s1 := s0.setSys (fun x => { x with wave := x.wave.map upd })
    let done := s1.sys.wave.filter (fun c => decide (3 ≤ c.rounds) && !c.missing.isEmpty)
    let left := s1.sys.wave.filter (fun c => !c.missing.isEmpty && decide (c.rounds < 3))
    let sent (t : State) (uc : Bool) : State :=
      let cs := left.filter (fun c => decide (c.unit.blk = .uc) == uc)
      ((cs.flatMap (fun c => c.missing)).dedup).foldl (fun t b =>
        let n := (cs.filter (fun c => c.missing.contains b)).length
        if least ≤ n then t.count bootU 4 1 else t.count bootU 5 n) t
    done.foldl (fun t c => t.retireCore c.unit) (sent (sent s1 false) true))

/-- CORE_READY (R553): a core that holds every block hashes its component; a mismatch clears its bitmap. -/
def execCoreReady (u : UnitId) (ok : Bool) (s : State) : Host.Outcome State Fault Refusal :=
  .next (
    match s.sys.wave.find? (fun c => c.unit == u && c.missing.isEmpty && !c.ready) with
    | none => s
    | some c =>
      let put (t : State) (f : WaveCore → WaveCore) : State :=
        t.setSys (fun x => { x with wave := x.wave.map (fun d => if d.unit = u then f d else d) })
      if ok then put s (fun d => { d with ready := true })
      else if 3 ≤ c.rounds then s.retireCore u
      else put (s.count bootU 5 (s.blocksFor u)) (fun d => { d with missing := List.range (s.blocksFor u) }))

/-! ## Failed starts and minimal mode (R555, R556) -/

/-- Every Benvo port goes DOWN (R411, R527). -/
def State.portsDown (s : State) (reason : Nat) : State := (List.range 24).foldl (fun t k => t.goDown k reason) s

/-- The ports and routers run: a port whose ENABLE is set looks for its peer (R408, R540). -/
def State.portsUp (s : State) : State :=
  let s1 := ((List.range 24).map bvlU).foldl (fun t u => if t.ustate u = stOff then t.enter u else t) s
  let s2 := (List.range 24).foldl (fun t k =>
    if t.ustate (bvlU k) = stRunning ∧ t.linkState k = lkOff then t.setLinkState k lkDetect else t) s1
  [bvfU 0, bvfU 1].foldl (fun t u => if t.ustate u = stOff then t.enter u else t) s2

/-- The MCC that holds ownership runs firmware in a state of FW.STATE; the other is its dummy (R540, R565, R584). -/
def State.mccRuns (s : State) (fw : Nat) : State :=
  let h := s.mccHolder
  let d : UnitId := ⟨.mcc, 1 - h.ix⟩
  let s1 := ((s.put h Reg.mcc.role 0).put h Reg.mcc.owner 1).put h Reg.mcc.fwState fw
  let s2 := ((s1.put d Reg.mcc.role 1).put d Reg.mcc.owner 0).put d Reg.mcc.fwState fw
  let s3 := ((s2.put d Reg.mcc.synced 1).put h Reg.mcc.fwSvn (s.sys.image.svns.getD 0 0)).put d Reg.mcc.fwSvn (s.sys.image.svns.getD 0 0)
  [h, d, hifU, bootU, secU, mgtU].foldl (fun t u => if t.ustate u = stOff then t.enter u else t) s3

/-- The module enters minimal mode (R556, R618). -/
def State.goMinimal (s : State) (reason : Nat) : State :=
  let s1 := (((s.wiped true true).newReport 3).outcomeIs 3 reason).setMode 4
  let s2 := { (s1.mccRuns 2).portsUp with memWin := 0 }
  ((s2.alert 3 true).modEvent 0xA002 reason 0).sendKeepalives

/-- A start fails (R555): the failure is counted, reported and recorded, compute, GDDR7 and Benvo rails go off, and a new start follows
after a second, or minimal mode. -/
def State.startFailed (s : State) (reason detail dur : Nat) : State :=
  let stage := s.get bootU Reg.boot.stateStage
  let s1 := s.stageRecord 2 reason detail dur
  let s2 := (s1.put bootU Reg.boot.failsConsec (sat 255 (s1.get bootU Reg.boot.failsConsec + 1))).put bootU Reg.boot.failsLastReason reason
  let s3 := (((s2.count bootU 1 1).irq bootU (2 ^ 16)).outcomeIs 2 reason).modEvent 0xA001 stage reason
  let n := s3.get bootU Reg.boot.failsConsec
  let s4 := s3.portsDown 0
  if n < 3 then (s4.wiped true false).setSys (fun x => { x with retry := true }) else s4.goMinimal reason

/-! ## The stages (R540, R560) -/

/-- Shows the stage that begins. -/
def State.stageBegins (s : State) (n : Nat) : State :=
  let s1 := (s.put bootU Reg.boot.stateStage n).setSys
    (fun x => { x with start := x.start.map (fun (t : StartRec) => { t with stageAt := s.now }) })
  if n = 4 && s.sys.start.any (fun t => t.full) then (List.range 68).foldl (fun t i => if t.healthy ⟨.mem, i⟩ then t.put ⟨.mem, i⟩ Reg.mem.trainState 1 else t) s1 else s1

/-- Each pair starts on its first die, or on the other if its copy there failed in the previous start; the interlock line reads
consistent (R583, R584). -/
def State.firstHolders (s : State) (failed : List (Nat × Nat)) : State :=
  let bitOf (k : Nat) : Nat := if failed.contains (k, 0) && !failed.contains (k, 1) then 2 ^ k else 0
  let m := bitOf 0 + bitOf 1 + bitOf 2
  let s1 := ((s.putAon Reg.aon.latchHolder m).put sprU Reg.spr.ownHolder m).putAon Reg.aon.hbMissing 0
  (s1.putAon Reg.aon.latchInterlockOk 1).put sprU Reg.spr.ownInterlockOk 1

/-- A full start begins (R539, R542, R572): everything but AON is reset, the Discard's units are marked, and stage 1 runs. -/
def State.beginFull (s : State) (host : Bool) : State :=
  let s1 := ((s.wiped host false).newReport 1).count bootU 0 1
  let s2 := s1.setSys (fun x => { x with
    start := some ⟨true, s.now, s.now, 0, false⟩, wave := [], excluded := [], stopped := false
    stby := x.stby.map (fun (_ : StbyRec) => {})
    failed := [] })
  let s3 := ((s2.alert 0 false).alert 4 false).firstHolders s.sys.failed
  let s4 := (s3.talon.discard ++ s3.talon.programming).foldl (fun t e =>
    match blkAll.find? (fun b => blkCode b == e.type) with
    | some b => if e.inst < blkCount b then t.put ⟨b, e.inst⟩ Reg.common.retired 1 else t
    | none => t) s3
  (s4.setMode 0).stageBegins 1

/-- A compute restart begins (R558, R560). -/
def State.beginRestart (s : State) : State :=
  let s1 := ((s.newReport 2).count bootU 2 1).setSys (fun x => { x with start := some ⟨false, s.now, s.now, 0, false⟩, wave := [] })
  (s1.setMode 0).stageBegins 3

/-- Units of the blocks that a stage trains or tests. -/
def testedIn (stage : Nat) (b : Blk) : Bool :=
  match stage with
  | 4 => b == .mem
  | 5 => b == .tbl
  | 6 => [Blk.mt, .ae, .ew, .shf, .xr, .smp, .uc, .dma, .pge, .ce].contains b
  | _ => false

/-- A unit fails training (reason 8) or self-test (1). In a full start it is suspect, and in the Discard only after two failures in a row;
in a compute restart it is retired at once (R572). -/
def State.failsTest (s : State) (full : Bool) (reason : Nat) (u : UnitId) : State :=
  if !full then (s.markRetired u reason).setState u (if sparable u.blk then stOff else stVacant)
  else if s.isSuspect u then
    let s1 := ((if reason = 8 then s.failsTraining u else s).markRetired u reason).setSys (fun x => { x with excluded := x.excluded ++ [u] })
    { s1 with talon := { s1.talon with suspects := s1.talon.suspects.filter (fun e => !(e.type == blkCode u.blk && e.inst == u.ix)) } }
  else
    let s1 := (if reason = 8 then s.failsTraining u else s).setSys
      (fun x => { x with excluded := x.excluded ++ [u], suspectNow := x.suspectNow ++ [u] })
    s1.eventM (some u) 0x3006 (fmtU (blkCode u.blk) u.ix 0xFFFF (s1.ustate u) reason) 0

/-- The tests of stage 4, 5 or 6: how many units failed, and the suspects that passed are cleared. -/
def State.runTests (s : State) (full : Bool) (stage : Nat) (failed : List UnitId) : State × Nat :=
  let bad := failed.dedup.filter (fun u => testedIn stage u.blk && s.healthy u && u.valid)
  let s1 := bad.foldl (fun t u => t.failsTest full (if stage = 4 then 8 else 1) u) (s.setSys (fun x => { x with suspectNow := [] }))
  let s2 := if !full then s1 else
    let old := s1.talon.suspects.filter (fun e => !((blkAll.filter (testedIn stage)).any (fun b => blkCode b == e.type)))
    let new := s1.sys.suspectNow.map (fun u => (⟨blkCode u.blk, u.ix, if stage = 4 then 8 else 1, s.get bootU Reg.boot.bootCount⟩ : DiscardEnt))
    let t := { s1 with talon := { s1.talon with suspects := old ++ new } }
    t.putAon Reg.aon.suspectCount (sat 255 (old ++ new).length)
  (s2, bad.length)

/-- Healthy units of a block on a die. -/
def State.healthyOn (s : State) (b : Blk) (d : Nat) : Nat :=
  ((List.range (blkCount b)).filter (fun i => dieOf ⟨b, i⟩ == d && s.healthy ⟨b, i⟩)).length

/-- A die has too few healthy units of a block. -/
def State.short (s : State) (b : Blk) (need : Nat) : Bool := [0, 1].any (fun d => decide (s.healthyOn b d < need))

/-- Every field that the image sets takes its factory default (R549). -/
def State.factory (s : State) : State :=
  s.regs.foldl (fun t e =>
    if e.1 < 0x400_0000 then
      match unitOfPage (e.1 / 4096) with
      | some u =>
        let m := BitVec.ofNat 32 (recordable u.blk (e.1 % 4096))
        t.setWord e.1 ((e.2 &&& ~~~m) ||| (wordReset e.1 &&& m))
      | none => t
    else t) s

/-- A minimum SVN: the fused one, or what RAISE_SVN has raised it to (R547). -/
def State.minSvn (s : State) (i : Nat) : Nat := max (Config.fuseValue (2 ^ 40 + 64 + 16 * i) % 2 ^ 16) (s.sys.svns.getD i 0)

/-- The transactional fields that records have written, as shadows of the stage's transaction (R549). -/
def State.recordShadows (t : State) (rs : List (Nat × Nat × Nat × Nat)) : List Shadow :=
  rs.flatMap (fun r =>
    let off := r.2.1 % 4096
    ((recordUnits r.1 r.2.1 r.2.2.1).getD []).flatMap (fun u =>
      ((fieldsAt u.blk off).filter (fun f => f.acc == .rwt && (f.maskIn off &&& r.2.2.1) != 0)).map
        (fun f => ⟨u.page, u.home f, f, t.get u f⟩)))

/-- Stage 8 of a full start: the records, their validation, Alias 2 and the memory keys, and the zeroing of every owned group (R269, R489,
R495, R549). -/
def State.configure (s : State) (dur : Nat) (next : State → State) : State :=
  let base := s.factory
  match base.applyRecords 0 s.sys.image.cfg with
  | .error i => s.startFailed 0x0106 i dur
  | .ok t =>
    match layoutBad base t (t.recordShadows s.sys.image.cfg) with
    | some _ => s.startFailed 0x0106 s.sys.image.cfg.length dur
    | none =>
      let t0 := ((List.range 16).filter (fun g => (t.groupOwner g).isSome)).foldl State.tallyGroup (t.mccCommit 1)
      let t1 := (List.range 8).foldl (State.drawMemoryKeys · true) t0.deriveAlias2
      let t2 := { t1 with memWin := t1.get hifU Reg.hif.memwinSizeGib, mem := t1.mem.filter (fun c => decide (c.1 / 2 ^ 48 ≠ 0)) }
      let t3 := (t2.setPwr (fun x => { x with host := 0, hostPend := none })).applyCap
      next t3

/-- Units outside the wave that a wave start releases. -/
def State.releaseRest (s : State) : State :=
  let rest : List UnitId := [⟨.tier, 0⟩, ⟨.tier, 1⟩, pwrU, thmU, clkU, sprU, ctuU, ⟨.dlr, 0⟩, ⟨.dlr, 1⟩]
  let mem := [Blk.tbl, Blk.mem].flatMap (fun b => (List.range (blkLogical b)).filterMap (fun l =>
    let i := s.physOf b l
    if i = 0xFFFF then none else some (⟨b, i⟩ : UnitId)))
  (rest ++ mem).foldl (fun t u => if t.ustate u = stOff ∨ t.ustate u = stStarting then t.enter u else t) s

/-- The Dealers at a wave start: the one that holds ownership is ACTIVE, the other its dummy, in step (R363, R370). -/
def State.dealersRun (s : State) : State :=
  let a := s.dealer
  let d := s.dummy
  let s1 := (((s.put a Reg.dlr.role 0).put a Reg.dlr.owner 1).put d Reg.dlr.owner 0).put a Reg.dlr.synced 0
  if s.ustate d = stRunning then (s1.put d Reg.dlr.role 1).put d Reg.dlr.synced 1 else (s1.put d Reg.dlr.role 2).put d Reg.dlr.synced 0

/-- The first core of the wave that is not READY (R554). -/
def State.waveUnready (s : State) : Option WaveCore := s.sys.wave.find? (fun c => !c.ready)

/-- Numbers are assigned again over the cores that are READY, and every core of the wave starts at one instant (R554). -/
def State.waveUp (s : State) : State :=
  let ready (u : UnitId) : Bool := !loadable.contains u.blk || s.sys.wave.any (fun c => c.unit == u && c.ready) || s.flag u Reg.common.spare
  (s.sys.wave.map (fun c => c.unit)).foldl (fun t u => t.enter u) (s.assignAll (fun u => s.healthy u && ready u))

/-- The wave start commits (R554): numbers are final, every core of the wave starts at one instant, the partitions' contexts and the page
engines' pools are ready, and the module leaves STARTUP (R539). -/
def State.waveStart (s : State) (st : StartRec) (dur : Nat) : State :=
  let s3 := (s.mccCommit 5).waveUp.releaseRest.dealersRun
  let s4 := (List.range 8).foldl (fun t p => (t.initPge p).freePstate p) s3
  let s5 := (List.range 8).foldl (fun t p =>
    let t1 := if t.sealState p = 1 then t.abortImport p else t
    if !st.full && decide (1 < t1.groupSize p) && t1.pstate p == 1 then t1.breakGroup p else t1) s4
  let s6 := { s5 with memHeld := false, recovering := false }
  let s7 := if st.full then (List.range 64).foldl State.initGroup s6 else s6
  let s8 := if st.full then s7.put bootU Reg.boot.bootCount (s7.get bootU Reg.boot.bootCount + 1) else s7
  let s9 := (s8.stageRecord 0 0 0 dur).outcomeIs 1 0
  let sA := (s9.put bootU Reg.boot.stateStage 0).put bootU Reg.boot.stateComputeReset 0
  let sB := sA.setMode (if !st.full then s.sys.back else if s.flag bootU Reg.boot.optHoldTest then 1 else 2)
  (sB.setSys (fun x => { x with start := none, wave := [], stable := false })).sendKeepalives

/-- Ends the stage with its record and begins the next. -/
def State.nextStage (s : State) (full : Bool) (n retired dur : Nat) : State :=
  let s1 := s.stageRecord (if retired = 0 then 0 else 1) 0 retired dur
  s1.stageBegins (if !full ∧ n = 8 then 10 else n + 1)

/-- The compute dies are held in reset. -/
def State.cmpHeld (s : State) : Bool := s.sys.cmp.pin || s.sys.cmp.held

/-- A stage that is not a fatal one ends. -/
def State.stageEnds (s : State) (st : StartRec) (ev : StageEv) : State :=
  let n := s.get bootU Reg.boot.stateStage
  match n with
  | 1 =>
    let img := s.sys.slot.getD ev.image
    if s.sys.slotBad then s.startFailed 0x0101 ev.detail ev.dur
    else if (List.range 3).any (fun i => decide (img.svns.getD i 0 < s.minSvn i)) then s.startFailed 0x0104 ev.detail ev.dur
    else
      let s1 := s.setSys (fun x => { x with image := img, cur := { x.cur with imageId := img.id } })
      s1.deriveAlias1.nextStage st.full n 0 ev.dur
  | 2 =>
    let s1 := (s.mccRuns 1).put hifU Reg.hif.linkState (max 1 (s.get hifU Reg.hif.linkState))
    let s2 := (s1.put ⟨.tier, 0⟩ Reg.tier.linkState 1).put ⟨.tier, 1⟩ Reg.tier.linkState 1
    s2.nextStage st.full n 0 ev.dur
  | 3 =>
    let s1 := (s.put clkU Reg.clk.refState 1).count clkU 0 1
    let s2 := if s1.flag pwrU Reg.pwr.statRamp && s1.pwr.ramp.isNone then s1.setPwr (fun x => { x with ramp := some (s1.rampCap ev.p1ms) }) else s1
    (s2.applyCap).nextStage st.full n 0 ev.dur
  | 4 =>
    let r := s.runTests st.full n ev.failed
    let s1 := (List.range 68).foldl (fun t i => t.put ⟨.mem, i⟩ Reg.mem.trainState (if t.healthy ⟨.mem, i⟩ then 2 else 3)) r.1
    if s1.short .mem 32 then s1.startFailed 0x0301 r.2 ev.dur else s1.nextStage st.full n r.2 ev.dur
  | 5 =>
    let r := s.runTests st.full n ev.failed
    let s1 : State := if st.full then { r.1 with
        mem := r.1.mem.filter (fun c => decide (c.1 / 2 ^ 48 ≠ 1)), poison := r.1.poison.filter (fun l => decide (l * 256 / 2 ^ 48 ≠ 1)) }
      else { (r.1.zeroTable (key 1 0xF80_0000) 0x80_0000).zeroTable (key 1 0x1F80_0000) 0x80_0000 with
        memHeld := false, cache := { r.1.cache with lines := [] } }
    if s1.short .tbl 512 then s1.startFailed 0x0302 r.2 ev.dur else s1.nextStage st.full n r.2 ev.dur
  | 6 =>
    let r := s.runTests st.full n ev.failed
    let s1 := r.1.assignAll r.1.healthy
    let s2 := ((loadable ++ [Blk.tbl, Blk.mem]).flatMap (fun b => ((List.range (blkCount b)).map (fun i => (⟨b, i⟩ : UnitId))).filter (fun u =>
      s1.healthy u && (s1.logicalOf u).isSome && decide (s1.ustate u = stOff)))).foldl (fun t u => t.setState u stStarting) s1
    (s2.nextStage st.full n r.2 ev.dur).beginWave
  | 7 => s.nextStage st.full n st.retired ev.dur
  | 8 =>
    if !st.full then s.nextStage false n 0 ev.dur
    else if s.trngBad then s
    else s.configure ev.dur (fun t => (t.nextStage true n 0 ev.dur).portsUp)
  | 9 => s.nextStage st.full n 0 ev.dur
  | _ =>
    match s.waveUnready with
    | none => s.waveStart st ev.dur
    | some c =>
      let s1 := s.mccAbort 5 12 c.unit.page
      if st.waveTried then s1.startFailed 0x0403 0 ev.dur
      else s1.setSys (fun x => { x with start := some { st with waveTried := true } })

/-- STAGE_COMPLETE (R540, R543, R555): the running stage ends. Stage 3 of any start waits while the compute dies are held in reset or REFCLK
is absent (R561, R619); a stage that commits a transaction of its own waits while another one is open (R578). -/
def execStageComplete (ev : StageEv) (s : State) : Host.Outcome State Fault Refusal :=
  .next (
    match s.sys.start with
    | none => s
    | some st =>
      let n := s.get bootU Reg.boot.stateStage
      if n = 3 ∧ (s.cmpHeld ∨ !s.sys.refclk) then s
      else if s.txn.isSome ∧ (n = 10 ∨ n = 8 ∧ st.full) then s
      else
        match ev.fatal with
        | some r => s.startFailed r ev.detail ev.dur
        | none => s.stageEnds st ev)

/-- START_WATCHDOG (R555, R561, R619): it pauses while the start waits before stage 3. -/
def execStartWatchdog (s : State) : Host.Outcome State Fault Refusal :=
  .next (
    if s.sys.start.isNone || (s.get bootU Reg.boot.stateStage == 3 && (s.cmpHeld || !s.sys.refclk)) then s
    else s.startFailed 0x0501 0 0)

/-- START_RETRY (R555). -/
def execStartRetry (s : State) : Host.Outcome State Fault Refusal :=
  .next (if s.sys.retry then s.beginFull true else s)

/-- STABLE_TIMEOUT (R547, R555): STABLE_S have passed in SERVICE or TEST. -/
def execStableTimeout (s : State) : Host.Outcome State Fault Refusal :=
  .next (
    if (s.mode == 1 || s.mode == 2) && s.sys.start.isNone && !s.sys.stable then
      (s.put bootU Reg.boot.failsConsec 0).setSys (fun x => { x with
        stable := true
        svns := if x.image.raise then (List.range 3).map (fun i => max (x.svns.getD i 0) (x.image.svns.getD i 0)) else x.svns })
    else s)

end Sys2Proof.Machine
end

