-- ==== Sys2Proof/Machine/Resets.lean ====
section
/-!
DEFINITION. Commands of the BOOT and MCC pages, the compute-only reset, the stops, the module reset, power and the hot-swap
controller (R526, R527, R539, R550, R555 to R561, R587, R616, R629, R630), and the debug unlock (R505).
-/
namespace Sys2Proof.Machine

/-- A `BOOT.CMD` that is not valid in the present state, or not from its writer, is ignored and logged (R562). -/
def State.cmdIgnored (s : State) : State := s.accessEvent (bootU.base + 0x104) 4

/-- From the management port. -/
def fromMgmt (src : Src) : Bool := src == .mgmt

/-- A code of BOOT.CMD is valid in the present state, from its writer (R539, R555, R556, R562). -/
def State.bootValid (s : State) (src : Src) (code : Nat) : Bool :=
  match code with
  | 1 => s.mode == 4
  | 2 => (s.mode == 1 || s.mode == 2) && !s.recovering
  | 3 => s.mode == 3 && !s.flag bootU Reg.boot.stateComputeReset
  | 4 => s.mode == 1 && !s.recovering
  | 5 => fromMgmt src && s.mode != 4
  | 6 => fromMgmt src
  | _ => false

/-- A BOOT command from the PF or the management port; a virtual function does not write the page (R33). -/
def State.bootCmd (s : State) (src : Src) (code : Nat) (f : State → State) : State :=
  match src with
  | .vf _ => s
  | _ =>
    let s1 := s.put bootU Reg.boot.cmdCode code
    if s.bootValid src code then f s1 else s1.cmdIgnored

/-- RESTART (R539): from minimal mode. -/
def execRestart (src : Src) (s : State) : Host.Outcome State Fault Refusal :=
  .next (s.bootCmd src 1 (fun t => t.beginFull true))

/-- ENTER_RECOVERY (R539): every partition's context acts as under a cleared ENABLE. -/
def execEnterRecovery (src : Src) (s : State) : Host.Outcome State Fault Refusal :=
  .next (s.bootCmd src 2 (fun t => { t with recovering := true, sys := { t.sys with prior := t.mode } }))

/-- RECOVERY_ENTERED (R539): no step is uncommitted. -/
def execRecoveryEntered (s : State) : Host.Outcome State Fault Refusal :=
  .next (if s.recovering && s.stepless && (s.mode == 1 || s.mode == 2) then { s.setMode 3 with recovering := false } else s)

/-- LEAVE_RECOVERY (R539). -/
def execLeaveRecovery (src : Src) (s : State) : Host.Outcome State Fault Refusal :=
  .next (s.bootCmd src 3 (fun t => t.setMode t.sys.prior))

/-- TO_SERVICE (R539). -/
def execToService (src : Src) (s : State) : Host.Outcome State Fault Refusal :=
  .next (s.bootCmd src 4 (fun t => t.setMode 2))

/-- ENTER_MINIMAL (R556): every sequence ends, as MOD_RST_N would end it. -/
def execEnterMinimal (src : Src) (s : State) : Host.Outcome State Fault Refusal :=
  .next (s.bootCmd src 5 (fun t => t.cutUpdate.goMinimal 0x0701))

/-- CLEAR_FAILS (R555). -/
def execClearFails (src : Src) (s : State) : Host.Outcome State Fault Refusal :=
  .next (s.bootCmd src 6 (fun t => t.put bootU Reg.boot.failsConsec 0))

/-! ## The compute-only reset (R557 to R561) -/

/-- Queued injections of TC1 to TC4 end as under a known absent destination (R440). -/
def State.endInjections (s : State) : State :=
  let ends (p : Pkt) : Bool := decide (1 ≤ p.tc ∧ p.tc ≤ 4)
  ((s.net.inj.filter ends).foldl (fun t p => t.sendLoss (bvfU 0) p lossAbsent)
    (s.setNet (fun n => { n with inj := n.inj.filter (fun p => !ends p) }))).advanceDrain

/-- Everything that the compute dies hold is lost (R559): sequences, queues, plans, page tables, prefix indices, step state, counters
and command slots; imports end; remaps are abandoned, and their spares go back to the Talon (R576). -/
def State.computeLost (s : State) : State :=
  let off (t : State) (u : UnitId) : State := if computeBlks.contains u.blk then t.setState u stOff else t
  let s1 := s.litUnits.foldl off { s with
    parts := s.parts.map (fun (e : Nat × PartRec) => (e.1, { evtSeq := e.2.evtSeq, fencing := e.2.fencing })) |>.filter (fun e => e.2 != {})
    pge := [], scoreboard := [], resv := [], tbl := [], memWait := [], coll := [], held := [], merge := none
    units := s.units.filter (fun e => match unitOfPage e.1 with | some u => !computeBlks.contains u.blk && u.blk != .ce | none => false)
    hurt := { s.hurt with armed := s.hurt.armed.filter (fun a => !computeBlks.contains a.1.blk) }
    talon := { s.talon with remaps := [] }
    net := { s.net with reqs := [], pushUsed := [], waiting := [] }, memHeld := true, recovering := false }
  let s2 := (s.talon.remaps.filterMap (fun r => r.spare.map (fun i => (⟨r.retiring.blk, i⟩ : UnitId)))).foldl
    (fun t u => (t.setState u stOff).put u Reg.common.spare 1) (s1.setSys (fun x => { x with wave := [] }))
  let s3 := (s2.put dlrU Reg.dlr.planPresent 0).put dlrU Reg.dlr.planBusy 0
  let s4 := (List.range 8).foldl (fun t p => t.setSec p (fun x => { x with bundleKey := none })) s3
  let s5 := (List.range 64).foldl (fun t g => if t.gstate g ≠ gsUnused then t.setGrp g Reg.ce.grpGstate gsBroken else t) s4
  { s5 with grps := [] }

/-- A compute-only reset begins (R558, R482, R392). -/
def State.computeReset (s : State) : State :=
  let s1 := ((s.put bootU Reg.boot.stateComputeReset 1).irq bootU (2 ^ 17)).computeLost
  let s2 := (List.range 8).foldl State.ringsOff s1
  let s3 := (List.range 8).foldl (fun t p => t.modEvent 0xA003 p 0) s2
  let s4 := (s3.setSys (fun x => { x with back := s.mode })).setMode 3
  s4.endInjections.sendKeepalives

/-- The compute dies enter reset, whatever asks for it (R561). -/
def State.holdCompute (s : State) : State :=
  match s.sys.start with
  | some st =>
    if s.get bootU Reg.boot.stateStage < 3 then s
    else
      let s1 := ((s.put bootU Reg.boot.stateComputeReset 1).irq bootU (2 ^ 17)).computeLost
      (s1.setSys (fun x => { x with start := some { st with waveTried := false, retired := 0 } })).stageBegins 3
  | none =>
    if s.mode = 1 ∨ s.mode = 2 ∨ (s.mode = 3 ∧ !s.flag bootU Reg.boot.stateComputeReset) then s.computeReset else s

/-- CMP_RST_ASSERT (R557, R558, R561). -/
def execCmpRstAssert (s : State) : Host.Outcome State Fault Refusal :=
  .next (
    if s.sys.cmp.pin then s
    else
      let s1 := s.setSys (fun x => { x with cmp := { x.cmp with pin := true } })
      if s1.sys.cmp.held then s1 else s1.holdCompute)

/-- RESET_COMPUTE (R557, R565): from the PF or the management port, and ignored in minimal mode. -/
def execResetCompute (src : Src) (s : State) : Host.Outcome State Fault Refusal :=
  .next (
    if (src ≠ .pf ∧ src ≠ .mgmt) ∨ s.mode = 4 ∨ s.sys.cmp.held ∨ !s.sys.powered ∨ s.sys.modRst then s
    else
      let s1 := s.setSys (fun x => { x with cmp := { x.cmp with held := true } })
      if s1.sys.cmp.pin then s1 else s1.holdCompute)

/-- COMPUTE_RESTART (R558, R560): the reset is released, and the restart runs from stage 3; a start that waited goes on. -/
def execComputeRestart (s : State) : Host.Outcome State Fault Refusal :=
  .next (
    if !s.cmpHeld then s
    else
      let s1 := s.setSys (fun x => { x with cmp := {} })
      if s1.mode = 3 ∧ s1.flag bootU Reg.boot.stateComputeReset ∧ s1.sys.start = none then s1.beginRestart else s1)

/-! ## Stops (R526, R527, R587) -/

/-- PGOOD goes low: the counter will start anew at the first tick after PGOOD (R620). -/
def State.untick (s : State) : State :=
  ({ s with mgt := { s.mgt with ticked := false, setTime := none, slew := 0, rejects := 0 } } : State).put mgtU Reg.mgt.tsSynced 0

/-- The module stops: GOODBYE on every ACTIVE port, rails off but AON's, and AON-only state. -/
def State.stopModule (s : State) (reason : Nat) : State :=
  let s1 := (s.alert 0 true).modEvent 0x9008 reason 0
  let act := (List.range 24).filter (fun k => s1.linkState k == lkActive)
  let s2 := act.foldl (fun t k => (t.sendControl k .goodbye []).goDown k 0) s1
  let s3 := (if s2.sys.cur.kind = 0 then s2 else s2.outcomeIs 5 reason).putAon Reg.aon.stopCause reason
  (((s3.cutUpdate).wiped false false).setSys (fun x => { x with stopped := true, pgood := false })).untick

/-- The module has power and is past AON-only state. -/
def State.awake (s : State) : Bool := s.sys.powered && s.sys.pwrEn && !s.sys.modRst && !s.sys.stopped

/-- THERMAL_STOP (R526): Tj has reached 110 °C, or a device 105 °C. -/
def execThermalStop (s : State) : Host.Outcome State Fault Refusal :=
  .next (
    if s.awake && (decide (110_000 ≤ s.tj) || decide (105_000 ≤ s.hotDevice)) then (s.count thmU 7 1).stopModule 0x0602 else s)

/-- COOLANT_LOSS (R527): COOLANT_OK has been low for 100 µs. -/
def execCoolantLoss (s : State) : Host.Outcome State Fault Refusal :=
  .next (
    let s1 := (s.setSys (fun x => { x with coolant := false })).put thmU Reg.thm.statCoolantOk 0
    if s1.awake then (s1.count thmU 6 1).stopModule 0x0601 else s1)

/-- POWER_CONTROL_LOST (R587): the new rail sequencer does not act within 1 ms. R544 gives this cause no code; what the cause fields
then show is open. -/
def execPowerControlLost (s : State) : Host.Outcome State Fault Refusal :=
  .next (
    if s.awake then
      let f := s.fresh
      (f.2.modEvent 0xA007 0 0).stopModule (f.1 % 2 ^ 16)
    else s)

/-! ## Module reset and PWR_EN (R539, R561, R616) -/

/-- MOD_RST_ASSERT: the module resets and a start that runs ends INTERRUPTED. -/
def execModRstAssert (s : State) : Host.Outcome State Fault Refusal :=
  .next (
    if s.sys.modRst then s
    else
      let s1 := (s.interrupted.cutUpdate).setSys (fun x => { x with modRst := true })
      if !s1.sys.powered then s1
      else
        let s2 := (s1.count ⟨.aon, 0⟩ 2 1).count ⟨.aon, 1⟩ 2 1
        let s3 := (((s2.wiped false false).put secU Reg.sec.debugScope 0).put secU Reg.sec.debugUnlocked 0).put secU Reg.sec.debugJtagLock 1
        { s3 with talon := { s3.talon with overflow := [] } })

/-- A full start begins if 42 V is present, PWR_EN high and MOD_RST_N released; after a stop, only with coolant and a cold-plate inlet below
50 °C, in units of 0.125 °C (R527, R539). A start that meets COOLANT_OK low ends as a loss of coolant once the level has stood for 100 µs (R3,
R527; DEDUCED, log entry 181). -/
def State.mayStart (s : State) (coolant : Bool) (inlet : Nat) : State :=
  let s1 := (s.setSys (fun x => { x with coolant })).put thmU Reg.thm.statCoolantOk (if coolant then 1 else 0)
  if !s1.sys.powered || !s1.sys.pwrEn || s1.sys.modRst then s1
  else if s1.sys.stopped && (!coolant || decide (400 ≤ inlet)) then s1
  else
    let s2 := (s1.setSys (fun x => { x with pgood := true })).beginFull false
    if coolant then s2 else (s2.count thmU 6 1).stopModule 0x0601

/-- MOD_RST_RELEASE, with the level of COOLANT_OK and the inlet temperature at that instant. -/
def execModRstRelease (coolant : Bool) (inlet : Nat) (s : State) : Host.Outcome State Fault Refusal :=
  .next (if !s.sys.modRst then s else (s.setSys (fun x => { x with modRst := false })).mayStart coolant inlet)

/-- PWR_EN_HIGH: the standby rails rise and PGOOD is released; with MOD_RST_N released, a full start begins. -/
def execPwrEnHigh (coolant : Bool) (inlet : Nat) (s : State) : Host.Outcome State Fault Refusal :=
  .next (
    if s.sys.pwrEn then s
    else (s.setSys (fun x => { x with pwrEn := true, pgood := x.powered })).mayStart coolant inlet)

/-- PWR_EN_LOW: PGOOD goes low and the module falls to AON-only state. -/
def execPwrEnLow (s : State) : Host.Outcome State Fault Refusal :=
  .next (
    if !s.sys.pwrEn then s
    else
      let s1 := (s.interrupted.cutUpdate).setSys (fun x => { x with pwrEn := false, pgood := false })
      if s1.sys.powered then (s1.wiped false false).untick else s1)

/-! ## The hot-swap controller (R629, R630) -/

/-- 42 V is lost: AON and everything it holds go, the fused Discard and counts stay, and an image write in progress is cut. -/
def State.powerLost (s : State) (hs : Nat) : State :=
  let y := s.cutUpdate.sys
  if !y.powered then s.setSys (fun x => { x with hotswap := hs })
  else
    let s1 : State := { State.reset with
      pending := s.pending, freeIdx := s.freeIdx, resp := s.resp, out := s.out
      mem := s.mem.filter (fun c => decide (c.1 / 2 ^ 48 = 2)), poison := s.poison.filter (fun l => decide (l * 256 / 2 ^ 48 = 2))
      talon := { discard := s.talon.discard, programming := s.talon.programming }
      sys := { powered := false, hotswap := hs, hsEn := y.hsEn, vin := y.vin, trips := y.trips, pwrEn := y.pwrEn, modRst := y.modRst
               coolant := y.coolant, refclk := y.refclk, pgood := false, cmp := { pin := y.cmp.pin }, slot := y.slot, slotBad := y.slotBad
               svns := y.svns, unlockBoot := y.unlockBoot } }
    (s1.put bootU Reg.boot.bootCount (s.get bootU Reg.boot.bootCount)).put secU Reg.sec.debugUnlockCount
      (s.get secU Reg.sec.debugUnlockCount)

/-- HS_EN_CLOSE: the debounce starts when V_IN is above the lockout. -/
def execHsEnClose (s : State) : Host.Outcome State Fault Refusal :=
  .next (
    if s.sys.hsEn then s
    else s.setSys (fun x => { x with hsEn := true, hotswap := if x.vin then 1 else 0 }))

/-- HOTSWAP_DEBOUNCE: 10 ms have passed; the bulk capacitance is ramped. -/
def execHotswapDebounce (s : State) : Host.Outcome State Fault Refusal :=
  .next (if s.sys.hotswap = 1 then s.setSys (fun x => { x with hotswap := 2 }) else s)

/-- HOTSWAP_RAMP_DONE: AON starts; with PWR_EN high the standby rails rise, and with MOD_RST_N released a full start begins. -/
def execHotswapRampDone (coolant : Bool) (inlet : Nat) (s : State) : Host.Outcome State Fault Refusal :=
  .next (
    if s.sys.hotswap ≠ 2 then s
    else
      let s1 := s.setSys (fun x => { x with hotswap := 3, powered := true, pgood := x.pwrEn })
      ([(⟨.aon, 0⟩ : UnitId), ⟨.aon, 1⟩].foldl State.enter s1).mayStart coolant inlet)

/-- HS_EN_OPEN: the FET turns off, and a latched trip is forgotten. -/
def execHsEnOpen (s : State) : Host.Outcome State Fault Refusal :=
  .next (if !s.sys.hsEn then s else (s.setSys (fun x => { x with hsEn := false, trips := 0 })).powerLost 0)

/-- VIN_LOCKOUT: V_IN has crossed a lockout point. -/
def execVinLockout (s : State) : Host.Outcome State Fault Refusal :=
  .next (
    if !s.sys.vin then s
    else (s.setSys (fun x => { x with vin := false })).powerLost (if s.sys.hotswap = 5 then 5 else 0))

/-- VIN_IN_RANGE: with HS_EN closed the debounce starts. -/
def execVinInRange (s : State) : Host.Outcome State Fault Refusal :=
  .next (
    if s.sys.vin then s
    else s.setSys (fun x => { x with vin := true, hotswap := if x.hsEn && x.hotswap == 0 then 1 else x.hotswap }))

/-- CIRCUIT_BREAKER_TRIP: the FET turns off; after the third retry has tripped too, it latches off until HS_EN opens. -/
def execCircuitBreakerTrip (s : State) : Host.Outcome State Fault Refusal :=
  .next (
    if s.sys.hotswap = 2 ∨ s.sys.hotswap = 3 then
      (s.setSys (fun x => { x with trips := x.trips + 1 })).powerLost (if s.sys.trips < 3 then 4 else 5)
    else s)

/-- BREAKER_RETRY: one second after a trip. -/
def execBreakerRetry (s : State) : Host.Outcome State Fault Refusal :=
  .next (if s.sys.hotswap = 4 ∧ s.sys.vin ∧ s.sys.hsEn then s.setSys (fun x => { x with hotswap := 2 }) else s)

/-! ## Debug unlock (R505) -/

/-- What the token must hold: format, fingerprint, the live challenge, a fused key that is not revoked, its signature. -/
def State.tokenOk (s : State) (t : List Byte) : Bool :=
  let f (o n : Nat) : List Byte := (t.drop o).take n
  let key := f 0x40 132
  leNat (f 0 4) == 0x4742_4458 && leNat (f 4 2) == 1 && leNat (f 6 2) == 0 && leNat (f 8 8) == fingerprint && s.secMod.challenge &&
    leNat (f 0x10 32) == s.get secU Reg.sec.challenge && decide (leNat (f 0x30 4) < 8) && leNat (f 0x34 12) == 0 && leNat (f 0xC4 4) == 0 &&
    (List.range 4).any (fun i =>
      bit (Config.fuseValue (2 ^ 40 + 2048)) i && leNat (sha512 key) == Config.fuseValue (2 ^ 40 + 4096 + 512 * i) % 2 ^ 512) &&
    ecdsaVerify key (f 0 0xC8) (f 0xC8 132)

/-- A debug token is refused (R505, R508). -/
def State.tokenRefused (s : State) (r : Nat) : State :=
  (((s.count secU 6 1).irq secU (2 ^ 18)).modEvent 0x5003 r 0).mboxEnd r 0

/-- DEBUG_UNLOCK once it is taken: the token is 332 bytes at ARG0. -/
def State.debugUnlock (s : State) (p arg0 : Nat) : State :=
  let s1 := { s with secMod := { s.secMod with challenge := false } }
  if !s.argOk p arg0 332 then s.mboxEnd 3 0
  else if 64 ≤ s.get secU Reg.sec.debugUnlockCount then s1.tokenRefused 11
  else
    let b := s1.argBytes arg0 332
    let t := b.1
    if !s.tokenOk t then b.2.tokenRefused 10
    else
      let n := s.get secU Reg.sec.debugUnlockCount
      let s2 := (b.2.put secU Reg.sec.debugUnlockCount (n + 1)).put secU Reg.sec.debugScope (leNat ((t.drop 0x30).take 4))
      let s3 := (s2.interrupted.cutUpdate).setSys (fun x => { x with unlockBoot := s.get bootU Reg.boot.bootCount })
      ((s3.beginFull false).put secU Reg.sec.debugUnlocked 1).put secU Reg.sec.debugJtagLock (if bit (leNat ((t.drop 0x30).take 4)) 0 then 0 else 1)

/-- DEBUG_UNLOCK (R500, R505). -/
def execDebugUnlock (src : Src) (part arg0 : Nat) (s : State) : Host.Outcome State Fault Refusal :=
  .next (match s.mboxTake src 9 part arg0 0 with
    | none => s
    | some t => if 8 ≤ part then t.mboxEnd 1 0 else t.debugUnlock part arg0)

end Sys2Proof.Machine
end

