-- ==== Sys2Proof/Machine/Txn.lean ====
section
/-!
DEFINITION. The configuration transaction unit (R9, R47, R48, R437, R499, R554, R574, R578 to R582): opening, shadows and their scope,
validation, the freeze and the break points awaited, the apply with its zeroing, aborts and fences.
-/
namespace Sys2Proof.Machine

/-! ## Opening and ending (R578, R579, R581) -/

/-- A kind may be opened in the present module state (R579). -/
def State.kindAllowed (s : State) (kind : Nat) : Bool :=
  match kind with
  | 1 => s.mode == 0 || s.mode == 1 || s.mode == 3
  | 2 | 3 | 4 | 5 => s.mode != 4
  | _ => false

/-- A result of the CTU. -/
def State.txnSays (s : State) (result reason : Nat) : State := (s.put ctuU Reg.ctu.txnResult result).put ctuU Reg.ctu.txnReason reason

/-- The first core of a start's wave that keeps a WAVE_START from committing (R554, R581). -/
def State.waveBlocks (s : State) (kind : Nat) : Option WaveCore :=
  if kind = 5 ∧ s.sys.start.isSome then s.waveUnready else none

/-- TXN.OPENER (R592). -/
def openerCode : Src → Nat
  | .pf => 0 | .mgmt => 1 | _ => 2

/-- Partitions of a mask. -/
def maskParts (m : Nat) : List Nat := (List.range 8).filter (bit m)

/-- OPEN (R578, R582). -/
def execOpen (src : Src) (s : State) : Host.Outcome State Fault Refusal :=
  .next (
    if !notVf src then s
    else if s.txn.isSome then s.txnSays 0 1
    else
      let kind := s.get ctuU Reg.ctu.txnKind
      if !s.kindAllowed kind then s.txnSays 0 2
      else
        let id := s.txnNextId
        let m := if kind = 4 then s.get ctuU Reg.ctu.txnPartMask else 0
        let s1 : State := { s with txnNextId := (id + 1) % 65536, txn := some { opener := src, kind, partMask := m } }
        let s2 := ((s1.put ctuU Reg.ctu.txnId id).put ctuU Reg.ctu.txnState 1).put ctuU Reg.ctu.txnOpener (openerCode src)
        ((maskParts m).foldl (fun t p => t.setPart p (fun r => { r with fencing := true })) s2).rouse)

/-- The units whose page holds a shadowed write and which a freeze stops (R580). -/
def TxnRec.frozen (t : TxnRec) : List UnitId :=
  ((t.shadow.filterMap (fun e => unitOfPage e.page)).dedup).filter (fun u => bit (blkCap u.blk) 2)

/-- The freeze of a transaction is released, but not that of a remap that has committed (R574). -/
def State.thaw (s : State) (u : UnitId) : State :=
  let keep := s.talon.remaps.any (fun r => r.retiring == u && r.stage == .committed && u.blk != .mem)
  let s1 := s.setUnit u (fun x => { x with mccFreeze := keep })
  if u.blk = .tbl then s1.grant u
  else if u.blk = .mem ∨ u.blk = .tier then s1.releaseMem u (fun t q n => if u.blk = .mem then t.memRequest u q n else t.tierRequest u q n)
  else s1

/-- A transaction ends: freezes and fences go, and its shadows with them (R580, R582). -/
def State.closeTxn (s : State) (t : TxnRec) : State :=
  let s1 := ({ s with txn := none } : State).put ctuU Reg.ctu.txnState 0
  let s2 := if t.applying then t.frozen.foldl State.thaw s1 else s1
  (maskParts t.partMask).foldl (fun x p =>
    let y := x.setPart p (fun r => { r with fencing := false })
    if y.pstate p = 3 then y.freePstate p else y) (if t.applying then s2.goesOn else s2)

/-- Reasons that validation finds (R581). -/
def isValidation (reason : Nat) : Bool := [3, 4, 5, 7, 11, 12].contains reason

/-- A transaction aborts with a reason, and the first offending field where validation found one (R580, R581, R593). -/
def State.abortTxn (s : State) (reason : Nat) (at' : Option (Nat × Nat)) : State :=
  match s.txn with
  | none => s
  | some t =>
    let s2 := ((s.closeTxn t).count ctuU 1 1).txnSet 0 reason ((at'.map (fun x => x.1)).getD 0) ((at'.map (fun x => x.2)).getD 0)
    let s3 := if isValidation reason then s2.count ctuU 2 1 else s2
    (if reason = 6 then s3.count ctuU 3 1 else s3).irq ctuU (2 ^ 17)

/-! ## Shadows (R9, R47, R48, R261, R582) -/

/-- Two fields of a page are the same. -/
def sameField (a b : Field) : Bool := a.off == b.off && a.lo == b.lo && a.width == b.width

/-- Position of a field in an array, if it is in it. -/
def indexIn (g arr : Field) : Option Nat :=
  (List.range arr.count).find? (fun i => sameField (arr.at i) g)

/-- The value that a shadow holds for a field, or the committed one. -/
def State.proposed (s : State) (u : UnitId) (f : Field) : Nat :=
  match s.txn with
  | none => s.get u f
  | some t => ((t.shadow.find? (fun e => e.base == u.home f && sameField e.field f)).map (fun e => e.value % 2 ^ f.width)).getD (s.get u f)

/-- Pages whose fields a fence accepts (R582). -/
def fencePage : Blk → Bool
  | .dlr | .mem | .tbl | .tier | .pge | .hif | .pwr | .spr | .ce => true
  | _ => false

/-- A REMAP entry's field. -/
def isRemap (f : Field) : Bool := decide (0x200 ≤ f.off ∧ f.off < 0x300)

/-- Fields arrayed by partition on a page that a fence accepts (R268, R283, R336, R340, R395, R514, R591). -/
def partArrays : Blk → List Field
  | .dlr => [Reg.dlr.partSlotCount, Reg.dlr.partScratchBase, Reg.dlr.partQueueEntries, Reg.dlr.partGroupSizeM1, Reg.dlr.partMemberIndex,
      Reg.dlr.partLeadIndex, Reg.dlr.partCpM1, Reg.dlr.partCpBlockLog2, Reg.dlr.partAreaBase, Reg.dlr.partMember]
  | .mem => [Reg.mem.regionGroups, Reg.mem.regionMode]
  | .tier => [Reg.tier.winBaseGib, Reg.tier.winSizeGib, Reg.tier.winPort]
  | .pge => [Reg.pge.partT1Base, Reg.pge.partT1Frames, Reg.pge.partPfxEntries, Reg.pge.partLh, Reg.pge.partHome]
  | .hif => [Reg.hif.rmapNodes]
  | .pwr => [Reg.pwr.partClass, Reg.pwr.partAnte, Reg.pwr.partAnteMhz]
  | .spr => [Reg.spr.partMtGroups, Reg.spr.partAePairs, Reg.spr.partUcClusters, Reg.spr.partEwGroups, Reg.spr.partShfPairs,
      Reg.spr.partXr, Reg.spr.partSmp, Reg.spr.partDmaPairs]
  | _ => []

/-- The partition in whose array a field stands. -/
def fieldPart (b : Blk) (f : Field) : Option Nat := ((partArrays b).filterMap (indexIn f)).head?

/-- The partitions that a field belongs to, with the transaction's values: its index; a slice's, an aperture's or a collective group's old
and new owner (R246, R395, R451, R582). -/
def State.fieldParts (s : State) (u : UnitId) (f : Field) : List Nat :=
  match u.blk with
  | .tbl =>
    (match (List.range 32).find? (fun sl => [Reg.tbl.sliceOwner, Reg.tbl.sliceAssigned, Reg.tbl.sliceUse].any (fun a => sameField (a.at sl) f)) with
    | none => []
    | some sl =>
      (s.sliceAttr sl).1.toList ++
        (if s.proposed u (Reg.tbl.sliceAssigned.at sl) = 0 then [] else [s.proposed u (Reg.tbl.sliceOwner.at sl)]))
  | .hif =>
    (match (List.range 16).find? (fun k => [Reg.hif.aptWinOff, Reg.hif.aptSize, Reg.hif.aptPart, Reg.hif.aptRo, Reg.hif.aptSpace,
        Reg.hif.aptTgtOff].any (fun a => sameField (a.at k) f)) with
    | none => (fieldPart .hif f).toList
    | some k =>
      (if s.get u (Reg.hif.aptSize.at k) = 0 then [] else [s.get u (Reg.hif.aptPart.at k)]) ++ [s.proposed u (Reg.hif.aptPart.at k)])
  | .ce =>
    (match (List.range 16).find? (fun g => [Reg.ce.grpMembersLo, Reg.ce.grpMembersHi, Reg.ce.grpPart, Reg.ce.grpValid, Reg.ce.grpReform,
        Reg.ce.grpChunkKib, Reg.ce.grpArea].any (fun a => sameField (a.at g) f)) with
    | none => []
    | some g =>
      (if s.flag u (Reg.ce.grpValid.at g) then [s.get u (Reg.ce.grpPart.at g)] else []) ++ [s.proposed u (Reg.ce.grpPart.at g)])
  | b => (fieldPart b f).toList

/-- A field whose partition depends on other fields of the transaction: its scope is checked at the commit. -/
def ownedField (b : Blk) : Bool := b == .tbl || b == .hif || b == .ce

/-- A write is in the scope of the open transaction's kind, as far as the write alone tells (R579). -/
def State.inScope (s : State) (t : TxnRec) (u : UnitId) (f : Field) : Bool :=
  match t.kind with
  | 1 => true
  | 2 => u.blk == .ctu && isRemap f
  | 3 => u.blk == .ctu && sameField f Reg.ctu.txnFlipTarget
  | 4 => fencePage u.blk && (let ps := s.fieldParts u f
      !ps.isEmpty && (ownedField u.blk || ps.all (bit t.partMask)) || u.blk == .tbl && decide (0x140 ≤ f.off ∧ f.off < 0x1C0))
  | _ => u.blk == .ctu && isRemap f && s.mode != 0

/-- The first shadow whose partitions a fence does not hold, once every value is known (R582). -/
def State.outOfFence (s : State) (t : TxnRec) : Option (Nat × Nat) :=
  if t.kind ≠ 4 then none
  else (t.shadow.find? (fun e => match unitOfPage e.page with
    | none => false
    | some u => let ps := s.fieldParts u e.field
      ps.isEmpty || !ps.all (bit t.partMask))).map (fun e => (e.page, e.field.off))

/-- Bits of a word written to one transactional field, from a path that may write it: only the opener of an open transaction that does not
apply yet fills its shadows (R9, R578). The number tells what came of it: 0 a shadow took it, 1 it was ignored, 2 it came from a path that is
not the opener, 3 it was outside the scope. -/
def State.shadowWrite (s : State) (src : Src) (u : UnitId) (f : Field) (off mask value : Nat) : State × Nat :=
  match s.txn with
  | none => (s, 1)
  | some t =>
    if t.applying then (s, 1)
    else if t.opener ≠ src then (s, 2)
    else if !s.inScope t u f then
      ({ s with txn := some { t with outOfScope := t.outOfScope.or (some (u.page, f.off)) } }, 3)
    else
      let base := u.home f
      let v := f.limited (f.merge (s.proposed u f) off mask value)
      let old := t.shadow.find? (fun e => e.base == base && sameField e.field f)
      let clash : Bool := match old with
        | some e => decide (e.page ≠ u.page) && (e.value != v && f.reach != .page)
        | none => false
      let e : Shadow := ⟨u.page, base, f, v⟩
      let sh := if old.isSome then t.shadow.map (fun x => if x.base = base ∧ sameField x.field f then e else x) else t.shadow ++ [e]
      ({ s with txn := some { t with
          shadow := sh
          conflict := t.conflict.or (if clash = true then some (u.page, f.off) else none) } }, 0)

/-- One more write has landed in a page's shadow (R48). -/
def State.shadowed (s : State) (u : UnitId) : State :=
  match s.txn with
  | none => s
  | some t => { s with txn := some { t with writes := Sparse.set (fun _ => 0) t.writes u.page (Sparse.get (fun _ => 0) t.writes u.page + 1) } }

/-- The shadow control word of a page (R48). -/
def State.shadowWord (s : State) (u : UnitId) : Nat :=
  match s.txn with
  | none => 0
  | some t =>
    let n := Sparse.get (fun _ => 0) t.writes u.page
    if n = 0 then 0 else s.get ctuU Reg.ctu.txnId + min n 0x7FFF * 2 ^ 16 + 2 ^ 31

/-! ## Validation (R437, R499, R573, R580, R581, R582) -/

/-- The state with every shadow written. -/
def State.withShadows (s : State) (t : TxnRec) : State := t.shadow.foldl (fun x e => x.setAt e.base e.field e.value) s

/-- REMAP entries that this transaction has written and that are VALID: index, type code, logical, physical (R592). -/
def State.remapEntries (s : State) (t : TxnRec) : List (Nat × Nat × Nat × Nat) :=
  let touched (k : Nat) : Bool := t.shadow.any (fun e => decide (e.page = ctuU.page) && decide (e.field.off / 8 = 64 + k))
  ((List.range 32).filter (fun k => touched k && s.proposed ctuU (Reg.ctu.remapValid.at k) != 0)).map (fun k =>
    (k, s.proposed ctuU (Reg.ctu.remapType.at k), s.proposed ctuU (Reg.ctu.remapLogical.at k), s.proposed ctuU (Reg.ctu.remapPhys.at k)))

/-- The block of a type code that has a Talon. -/
def sparableOf (code : Nat) : Option Blk := [Blk.mt, .ae, .ew, .shf, .xr, .smp, .uc, .tbl, .mem].find? (fun b => blkCode b == code)

/-- Why a REMAP entry fails, given the ones before it: 0 when it does not (R573, R579, R581). -/
def State.remapBad (s : State) (kind : Nat) (before : List (Nat × Nat × Nat × Nat)) (e : Nat × Nat × Nat × Nat) : Nat :=
  match sparableOf e.2.1 with
  | none => 3
  | some b =>
    let u : UnitId := ⟨b, e.2.2.2⟩
    let memory := b == .tbl || b == .mem
    if memory != (kind == 2) then 3
    else if blkLogical b ≤ e.2.2.1 ∨ blkCount b ≤ u.ix ∨ before.any (fun x => x.2.1 == e.2.1 && (x.2.2.1 == e.2.2.1 || x.2.2.2 == e.2.2.2)) then 5
    else if s.physOf b e.2.2.1 = 0xFFFF then 5
    else
      match s.talon.remaps.find? (fun r => r.retiring.blk == b && (r.spare == some u.ix || r.logical == e.2.2.1)) with
      | some r => if r.stage = .starting ∧ r.spare = some u.ix ∧ r.logical = e.2.2.1 then 12 else 5
      | none => if kind = 2 ∧ s.inTalon u then 0 else 5

/-- The first REMAP entry that fails: reason, and its field. -/
def State.remapsBad (s : State) (kind : Nat) : List (Nat × Nat × Nat × Nat) → List (Nat × Nat × Nat × Nat) → Option (Nat × Nat)
  | _, [] => none
  | before, e :: r =>
    let b := s.remapBad kind before e
    if b ≠ 0 then some (b, 0x200 + 8 * e.1) else State.remapsBad s kind (before ++ [e]) r

/-- A flip to version v fails (R437). -/
def State.flipBad (s : State) (v : Nat) : Bool :=
  decide (s.epochState v ≠ 1) || decide (s.epochState (1 - v) = 3) || !entryLocal (s.route v s.node) ||
    (List.range 64).any (fun n =>
      let e := s.route v n
      entryValid e && ((!entryLocal e && (List.range 4).all (fun c => entryCand e c == 0x1F)) ||
        (List.range 4).any (fun c => entryCand e c != 0x1F && (decide (23 < entryCand e c) || entryRem e c == 0))))

/-- Partition p holds sequences in ADMITTED, PREFILL or DECODE (R582). -/
def State.activeSeqs (s : State) (p : Nat) : Bool := (s.part p).slots.any (fun x => x.st != .finishing)

/-- A shadow changes the committed value. -/
def State.shadowChanges (s : State) (e : Shadow) : Bool := s.getAt e.base e.field != e.value

/-- Why the open transaction fails: reason and first offending field. -/
def State.txnBad (s : State) (t : TxnRec) : Option (Nat × Option (Nat × Nat)) :=
  let parts (e : Shadow) : List Nat := match unitOfPage e.page with | some u => s.fieldParts u e.field | none => []
  match t.outOfScope.or (s.outOfFence t), t.conflict with
  | some x, _ => some (3, some x)
  | none, some x => some (4, some x)
  | none, none =>
    if t.kind = 4 ∧ (maskParts t.partMask).any (fun p => s.sealState p == 1 || s.sealState p == 3) then some (11, none)
    else if t.kind = 3 then
      if s.flipBad (s.proposed ctuU Reg.ctu.txnFlipTarget) then some (4, some (ctuU.page, Reg.ctu.txnFlipTarget.off)) else none
    else if t.kind = 2 ∨ t.kind = 5 then
      match s.waveBlocks t.kind with
      | some c => some (12, some (c.unit.page, 0))
      | none => (s.remapsBad t.kind [] (s.remapEntries t)).map (fun x => (x.1, some (ctuU.page, x.2)))
    else
      match t.shadow.find? (fun e => decide (t.kind = 4) && s.shadowChanges e && (parts e).any s.activeSeqs) with
      | some e => some (7, some (e.page, e.field.off))
      | none => (layoutBad s (s.withShadows t) t.shadow).map (fun x => (4, some x))

/-- COMMIT (R580): the opener's transaction is validated, and then units freeze and break points are awaited. -/
def execCommit (src : Src) (s : State) : Host.Outcome State Fault Refusal :=
  .next (
    match s.txn with
    | none => s
    | some t =>
      if t.opener ≠ src ∨ t.applying then s
      else
        match s.txnBad t with
        | some r => s.abortTxn r.1 r.2
        | none =>
          let s1 := ({ s with txn := some { t with applying := true } } : State).put ctuU Reg.ctu.txnState 3
          t.frozen.foldl (fun x u => x.setUnit u (fun y => { y with mccFreeze := true })) s1)

/-- ABORT (R578). -/
def execAbort (src : Src) (s : State) : Host.Outcome State Fault Refusal :=
  .next (match s.txn with
    | none => s
    | some t => if t.opener ≠ src then s else s.abortTxn 9 none)

/-! ## The apply (R246, R268, R269, R437, R451, R499, R574, R580) -/

/-- A frozen unit stands at a break point (R88, R89, R248). -/
def State.txnBreak (s : State) (u : UnitId) : Bool :=
  match u.blk with
  | .tbl => (s.bank u).moving.isNone
  | .ce => s.drained u && !s.coll.any (fun c => c.engine == u.ix)
  | _ => s.drained u

/-- What the apply waits for: break points of the frozen units, and every fenced partition FENCED. -/
def State.txnReady (s : State) (t : TxnRec) : Bool :=
  t.frozen.all s.txnBreak && (maskParts t.partMask).all (fun p => s.fenced p)

/-- A field of partition p's pools changes with the transaction, t after s (R246, R283, R304, R305). -/
def poolChanged (s t : State) (p : Nat) : Bool :=
  [Reg.pge.partT1Base, Reg.pge.partT1Frames, Reg.pge.partPfxEntries, Reg.pge.partLh].any
    (fun f => s.get ⟨.pge, 0⟩ (f.at p) != t.get ⟨.pge, 0⟩ (f.at p)) ||
    [Reg.tier.winBaseGib, Reg.tier.winSizeGib].any (fun f => s.get ⟨.tier, 0⟩ (f.at p) != t.get ⟨.tier, 0⟩ (f.at p)) ||
    hostSlices.any (fun sl => (s.sliceAttr sl == (some p, 1)) != (t.sliceAttr sl == (some p, 1))) || s.regionBase p != t.regionBase p

/-- The effects of new values of the layout, t after s: memory moves with its devices, what changes owner is zeroed, pools and groups
begin anew. -/
def State.applyLayout (s t : State) : State :=
  let moved := (List.range 8).any (fun p => s.groups p != t.groups p ||
    s.get ⟨.mem, 0⟩ (Reg.mem.regionMode.at p) != t.get ⟨.mem, 0⟩ (Reg.mem.regionMode.at p))
  let t1 := if moved then s.moveLocal t else t
  let t2 := (List.range 16).foldl (fun x g => if s.groupOwner g != t.groupOwner g then x.zeroGroup g else x) t1
  let band := s.get ⟨.tbl, 0⟩ Reg.tbl.mapBandMode != t.get ⟨.tbl, 0⟩ Reg.tbl.mapBandMode
  let t3 := if band then (List.range 32).foldl State.zeroSlice t2
    else hostSlices.foldl (fun x sl => if (s.sliceAttr sl).1 != (t.sliceAttr sl).1 then x.zeroSlice sl else x) t2
  let t4 := (List.range 8).foldl (fun x p => if poolChanged s t p then x.initPge p else x) t3
  (List.range 64).foldl (fun x g => if s.grpEntry g != t.grpEntry g then x.initGroup g else x) t4

/-- The remap of a bank or device to the spare that an entry names, retired by hand (R571, R574). -/
def State.manualRemap (s : State) (e : Nat × Nat × Nat × Nat) : State :=
  match sparableOf e.2.1 with
  | none => s
  | some b =>
    let r : RemapRec := ⟨⟨b, s.physOf b e.2.2.1⟩, e.2.2.1, some e.2.2.2, .committed, 7, 0⟩
    (({ s with talon := { s.talon with remaps := s.talon.remaps ++ [r] } } : State).setState ⟨b, e.2.2.2⟩ stStarting).afterCommit r

/-- The transaction is applied and has committed. -/
def State.applyTxn (s : State) (t : TxnRec) : State :=
  let es := s.remapEntries t
  let flip := s.proposed ctuU Reg.ctu.txnFlipTarget
  let busy := t.shadow.filter s.shadowChanges
  let opened := (maskParts t.partMask).filter (fun p => s.sealState p == 2 &&
    busy.any (fun e => match unitOfPage e.page with | some u => (s.fieldParts u e.field).contains p | none => false))
  let s0 := opened.foldl State.startUnseal s
  let s1 := s0.applyLayout (s0.withShadows t)
  let s2 := if t.kind = 3 then s1.flipTo flip else if t.kind = 2 then es.foldl State.manualRemap s1
    else if t.kind = 5 ∧ s1.sys.start.isSome ∧ !s1.sys.wave.isEmpty then s1.waveUp else s1
  let s3 := (s2.closeTxn t).txnSet 1 0 0 0
  (s3.count ctuU 0 1).irq ctuU (2 ^ 16)

/-- TXN_APPLY (R580): every frozen unit has reached a break point, and every masked partition is FENCED. -/
def execTxnApply (s : State) : Host.Outcome State Fault Refusal :=
  .next (match s.txn with
    | none => s
    | some t => if t.applying && s.txnReady t then s.applyTxn t else s)

/-- BREAK_TIMEOUT (R580): COMMIT_WAIT_MS have passed, and some unit has reached no break point or some partition is not FENCED. -/
def execBreakTimeout (s : State) : Host.Outcome State Fault Refusal :=
  .next (match s.txn with
    | none => s
    | some t => if t.applying && !s.txnReady t then s.abortTxn 6 none else s)

/-- TXN_TIMEOUT (R578, R604). -/
def execTxnTimeout (s : State) : Host.Outcome State Fault Refusal := .next (s.abortTxn 10 none)

/-- FENCED (R582): a partition of the mask has no uncommitted step. -/
def execFenced (part : Nat) (s : State) : Host.Outcome State Fault Refusal :=
  .next (
    if 8 ≤ part || !(s.part part).fencing || (s.part part).step.isSome || s.pstate part == 3 then s
    else s.put dlrU (Reg.dlr.partPstate.at part) 3)

end Sys2Proof.Machine
end

