-- ==== Sys2Proof/Machine/Standby.lean ====
section
/-!
DEFINITION. Active and standby pairs (R363, R365 to R368, R502, R533, R567, R583 to R590): the journal and its acknowledgements,
ownership and its passing, the failovers of the Dealer and of the MCC, the tests of the dummies, restarts of the firmware, the health
report. Pairs are numbered as the latch's bits: 0 Dealer, 1 MCC, 2 rail sequencer.
-/
namespace Sys2Proof.Machine

/-- The die that the latch names for a pair. -/
def State.holderDie (s : State) (k : Nat) : Nat := bits (s.get ⟨.aon, 0⟩ Reg.aon.latchHolder) k 1

/-- The page of a pair's copy on a die; the rail sequencer has none. -/
def pairUnit (k d : Nat) : Option UnitId :=
  match k with
  | 0 => some ⟨.dlr, d⟩
  | 1 => some ⟨.mcc, d⟩
  | _ => none

/-- ROLE and SYNCED of a copy. -/
def State.setRole (s : State) (k d role synced : Nat) : State :=
  match k with
  | 0 => (s.put ⟨.dlr, d⟩ Reg.dlr.role role).put ⟨.dlr, d⟩ Reg.dlr.synced synced
  | 1 => (s.put ⟨.mcc, d⟩ Reg.mcc.role role).put ⟨.mcc, d⟩ Reg.mcc.synced synced
  | _ => s

/-- ROLE of a copy. -/
def State.roleOf (s : State) (k d : Nat) : Nat :=
  match k with
  | 0 => s.get ⟨.dlr, d⟩ Reg.dlr.role
  | 1 => s.get ⟨.mcc, d⟩ Reg.mcc.role
  | _ => 0

/-- A pair's standby record. -/
def State.stby (s : State) (k : Nat) : StbyRec := s.sys.stby.getD k {}

/-- Changes it. -/
def State.setStby (s : State) (k : Nat) (f : StbyRec → StbyRec) : State :=
  s.setSys (fun x => { x with stby := x.stby.modify k f })

/-- STANDBY of a pair (R584, R589, R590): 0 TESTED_OK, 1 UNTESTED, 2 FAILED, 3 OUT, 4 NONE. -/
def State.standbyCode (s : State) (k : Nat) : Nat :=
  if 0 < (s.stby k).failovers then 4
  else
    match pairUnit k (1 - s.holderDie k) with
    | none => 1
    | some u =>
      if s.ustate u = stFaulted ∨ s.ustate u = stOff then 4
      else if (s.stby k).status = 2 then 2
      else if s.roleOf k u.ix ≠ 1 then 3
      else (s.stby k).status

/-- The standby of a pair can take ownership: its tests allow it, and LD1 does not read a broken line (R584). -/
def State.canPass (s : State) (k : Nat) : Bool :=
  decide (s.standbyCode k ≤ 1) && (s.holderDie k == 1 || s.flag sprU Reg.spr.ownInterlockOk)

/-- The latch's bit of a pair, as every page shows it. -/
def State.setHolder (s : State) (k d : Nat) : State :=
  let m := setBits (s.get ⟨.aon, 0⟩ Reg.aon.latchHolder) k 1 d
  (s.putAon Reg.aon.latchHolder m).put sprU Reg.spr.ownHolder m

/-! ## The journal (R365, R586) -/

/-- What waits for acknowledgements becomes visible. -/
def State.releaseHeld (s : State) : State := { s with out := s.out ++ s.held.flatten, held := [] }

/-- JOURNAL_RECORD (R365, R586): the dummy acknowledges the oldest record, and what waited for it alone becomes visible. The MCC's
records are acknowledged before its action shows, so only their count is kept. -/
def execJournalRecord (pair : Nat) (s : State) : Host.Outcome State Fault Refusal :=
  .next (
    match pair with
    | 0 => (match s.held with
      | [] => s
      | o :: r => { s with out := s.out ++ o, held := r })
    | 1 => if s.roleOf 1 (1 - s.holderDie 1) = 1 then (s.count s.mccHolder 0 1).count s.mccHolder 1 1 else s
    | _ => s)

/-- A dummy is OUT: it follows the journal no more, and the active copy goes on without it. -/
def State.dummyOut (s : State) (k : Nat) : State :=
  let s1 := s.setRole k (1 - s.holderDie k) 2 0
  if k = 0 then s1.releaseHeld else s1

/-- JOURNAL_OUT (R365, R372, R566): no acknowledgement within 100 µs. -/
def execJournalOut (pair : Nat) (s : State) : Host.Outcome State Fault Refusal :=
  .next (
    if 2 ≤ pair ∨ s.roleOf pair (1 - s.holderDie pair) ≠ 1 then s
    else
      let s1 := s.dummyOut pair
      if pair = 0 then (s1.irq s1.dealer (2 ^ 21)).modEvent 0xA00A 0 0 else s1.irq s1.mccHolder (2 ^ 18))

/-- DUMMY_SYNCED (R363, R588): the dummy has copied the active copy's state. A dummy Dealer whose ENABLE is set follows the journal
again; one that failed its tests stays OUT. -/
def execDummySynced (pair : Nat) (s : State) : Host.Outcome State Fault Refusal :=
  .next (
    if 2 ≤ pair then s
    else
      let d := 1 - s.holderDie pair
      match pairUnit pair d with
      | none => s
      | some u =>
        if s.ustate u ≠ stRunning ∨ (s.stby pair).status = 2 ∨ s.roleOf pair d = 0 then s
        else if pair = 1 ∧ s.roleOf pair d = 2 then s
        else s.setRole pair d 1 1)

/-! ## The failovers (R366 to R368, R502, R576, R586) -/

/-- Admission records that were not acknowledged are sent again, one for each request. -/
def State.resendAdmissions (s : State) (p : Nat) : State :=
  let firsts := (s.part p).slots.filter (fun x => !x.unacked.isEmpty)
  ((firsts.map (fun x => x.order)).dedup).foldl (fun t o =>
    let all := firsts.filter (fun x => x.order == o)
    match all.head? with
    | none => t
    | some x =>
      let args := [p, x.nfork] ++ all.map (fun y => y.slot) ++ [x.resumed] ++ x.toks.take x.resumed ++ x.desc.map (fun b => b.toNat)
      ((all.flatMap (fun y => y.unacked)).dedup).foldl (fun t m => t.emit (.send (t.memberNode p m) 1 .admission args)) t) s

/-- A partition after the Dealer's failover: its slots are stale, and the lead replays its uncommitted step; a follower votes
POISONED for it once no slot is stale. -/
def State.partFailover (s : State) (p : Nat) : State :=
  match (s.part p).step with
  | none => if s.isLead p then s.resendAdmissions p else s
  | some t =>
    let s1 := (s.markStale p).endChains p
    if t.phase = .abandoned then s1
    else if s.isLead p then
      let s2 := (t.entries.foldl (fun u e => u.dropPending p e.slot) (s1.resendAdmissions p)).release p
      let t1 := { t.again t.attempt t.entries [] (s.followers p) with granules := [], afterFailover := true }
      let s3 := s2.setPart p (fun r => { r with step := some { t1 with unready := List.range (s.groupSize p) } })
      s3.sendGroup p .replayHeader (s3.headerArgs p t1 ++ [1])
    else
      let t1 := { t with granules := [], waiting := [], afterFailover := true, owes := true }
      (s1.setPart p (fun r => { r with step := some t1 })).dropOldGranules p

/-- The Dealer's failover, the new copy being on die d (R366). -/
def State.dealerFailover (s : State) (d : Nat) : State :=
  let u : UnitId := ⟨.dlr, d⟩
  let s1 := s.releaseHeld
  let s2 := (List.range 8).foldl State.partFailover s1
  let s3 := ((s2.put u Reg.dlr.failovers (s2.get u Reg.dlr.failovers + 1)).irq u (2 ^ 16)).modEvent 0xA004 d 0
  (List.range 8).foldl (fun t p => t.drainEvents p (t.part p).evtWait) s3

/-- A remap that had not committed starts again (R576). -/
def State.restartRemap (s : State) (r : RemapRec) : State :=
  let back (t : State) (i : Nat) : State :=
    let v : UnitId := ⟨r.retiring.blk, i⟩
    (t.setState v stOff).put v Reg.common.spare 1
  let s1 : State := { s with talon := { s.talon with remaps := s.talon.remaps.filter (fun x => x.retiring != r.retiring) } }
  let s2 := s1.setSys (fun x => { x with wave := x.wave.filter (fun c => !(c.unit.blk == r.retiring.blk && r.spare == some c.unit.ix)) })
  (r.spare.toList.foldl back s2).startRemap r.retiring r.logical r.reason

/-- The MCC's failover: the open transaction aborts, sessions, imports and transfers end, remaps start again (R502, R576, R586, R614). -/
def State.mccFailover (s : State) : State :=
  let s1 := s.abortTxn 8 none
  let s2 := (List.range 8).foldl (fun t p =>
    (t.setSec p (fun x => { x with bundleKey := none, session := none })).put secU (Reg.sec.partSession.at p) 0) s1
  let s3 := (({ s2 with spdm := { s2.spdm with stage := [], sessions := [], large := [] } } : State).cutUpdate).put bootU Reg.boot.updateBusy 0
  let s4 := (s3.talon.remaps.filter (fun r => r.stage != .committed)).foldl State.restartRemap s3
  let s5 := match s4.pwr.hostPend with
    | some w => (s4.setPwr (fun x => { x with host := w, hostPend := none })).applyCap
    | none => s4
  s5.modEvent 0xA005 0 0

/-- A copy is lost: FAULTED, and recorded as failed in this start. -/
def State.loseCopy (s : State) (k d : Nat) : State :=
  let s1 := s.setSys (fun x => { x with failed := x.failed ++ [(k, d)] })
  match pairUnit k d with
  | none => s1
  | some u => (((if k = 0 then s1.put u Reg.dlr.owner 0 else s1.put u Reg.mcc.owner 0).setRole k d 2 0).faultUnit u 3)

/-- Both copies of a pair are unusable (R587). What the lost Dealer had not yet shown is never shown. -/
def State.pairLost (s : State) (k : Nat) : State :=
  let s1 := s.loseCopy k (s.holderDie k)
  match k with
  | 0 => ({ s1 with held := [] } : State).modEvent 0xA006 0 0
  | 1 => s1.predOff.alert 4 true
  | _ => s1

/-- Ownership of a pair passes to the standby (R584, R586). -/
def State.passOwner (s : State) (k : Nat) : State :=
  let old := s.holderDie k
  let new := 1 - old
  let fw := s.get ⟨.mcc, old⟩ Reg.mcc.fwState
  let s1 := (s.setHolder k new).setStby k (fun x => { x with failovers := x.failovers + 1 })
  let s2 := ((s1.count sprU 3 1).irq sprU (2 ^ 18))
  let s3 := [(⟨.aon, 0⟩ : UnitId), ⟨.aon, 1⟩].foldl (fun t u => (t.count u 1 1).irq u (2 ^ 16)) s2
  let s4 := s3.putAon Reg.aon.hbMissing (setBits (s3.get ⟨.aon, 0⟩ Reg.aon.hbMissing) k 1 0)
  match k with
  | 0 => (((s4.loseCopy 0 old).setRole 0 new 0 0).put ⟨.dlr, new⟩ Reg.dlr.owner 1).dealerFailover new
  | 1 => (((s4.loseCopy 1 old).setRole 1 new 0 0).put ⟨.mcc, new⟩ Reg.mcc.owner 1).put ⟨.mcc, new⟩ Reg.mcc.fwState
      (if fw = 3 then 1 else fw) |>.predOff |>.mccFailover
  | _ => s4.loseCopy 2 old

/-- OWNERSHIP_PASS (R584, R587): one millisecond without a heartbeat. Without a capable standby the pair is lost. -/
def execOwnershipPass (pair : Nat) (s : State) : Host.Outcome State Fault Refusal :=
  .next (
    if 3 ≤ pair ∨ s.sys.failed.contains (pair, s.holderDie pair) then s
    else if s.canPass pair then s.passOwner pair
    else s.pairLost pair)

/-- RELEASE (R585): the owner of each named pair releases; where its standby could not take ownership, the release is refused and counted. -/
def execRelease (src : Src) (mask : Nat) (s : State) : Host.Outcome State Fault Refusal :=
  .next (
    if src ≠ .mgmt then s
    else (List.range 3).foldl (fun t k =>
      if !bit mask k then t
      else if t.canPass k && !t.sys.failed.contains (k, t.holderDie k) then t.passOwner k
      else t.setStby k (fun x => { x with refused := x.refused + 1 })) s)

/-- OWNER_HEARTBEAT (R567, R584): the owner of a pair is heard. -/
def execOwnerHeartbeat (pair : Nat) (s : State) : Host.Outcome State Fault Refusal :=
  .next (
    if 3 ≤ pair ∨ s.sys.failed.contains (pair, s.holderDie pair) then s
    else s.putAon Reg.aon.hbMissing (setBits (s.get ⟨.aon, 0⟩ Reg.aon.hbMissing) pair 1 0))

/-- HEARTBEAT_GAP (R567): the owner has not been heard for 200 µs. -/
def execHeartbeatGap (pair : Nat) (s : State) : Host.Outcome State Fault Refusal :=
  .next (
    if 3 ≤ pair || bit (s.get ⟨.aon, 0⟩ Reg.aon.hbMissing) pair then s
    else
      let s1 := s.putAon Reg.aon.hbMissing (setBits (s.get ⟨.aon, 0⟩ Reg.aon.hbMissing) pair 1 1)
      (s1.count ⟨.aon, 0⟩ 0 1).count ⟨.aon, 1⟩ 0 1)

/-- INTERLOCK_FAULT (R567, R584): LD1 takes itself as not owner for every pair, so a pair that a copy on LD1 held is lost. -/
def execInterlockFault (s : State) : Host.Outcome State Fault Refusal :=
  .next (
    if !s.flag sprU Reg.spr.ownInterlockOk then s
    else
      let s1 := (s.putAon Reg.aon.latchInterlockOk 0).put sprU Reg.spr.ownInterlockOk 0
      let s2 := [(⟨.aon, 0⟩ : UnitId), ⟨.aon, 1⟩].foldl (fun t u => (t.count u 3 1).irq u (2 ^ 17)) s1
      let s3 := (List.range 3).foldl (fun t k => if t.holderDie k = 1 ∧ !t.sys.failed.contains (k, 1) then t.pairLost k else t) s2
      s3.put ⟨.aon, 1⟩ Reg.aon.latchHolder 0)

/-! ## Tests of the dummies (R588) -/

/-- A slice or a digest has failed: the dummy copies the active state again; the second failure within an hour takes it out. -/
def State.dummyFails (s : State) (k : Nat) : State :=
  let again := match (s.stby k).lastFail with
    | some t => decide (s.now < t + hour)
    | none => false
  if again then
    let s1 := (s.setStby k (fun x => { x with status := 2, lastFail := some s.now })).dummyOut k
    (s1.modEvent 0xA009 k 0).irq sprU (2 ^ 19)
  else
    (s.setStby k (fun x => { x with status := 1, clean := false, lastFail := some s.now })).setRole k (1 - s.holderDie k) 1 0

/-- SCAN_SLICE (R588): one slice of a dummy is scanned; `last` ends a cycle over all of them. -/
def execScanSlice (pair : Nat) (ok last : Bool) (s : State) : Host.Outcome State Fault Refusal :=
  .next (
    if 2 ≤ pair ∨ s.roleOf pair (1 - s.holderDie pair) ≠ 1 ∨ 4 ≤ s.standbyCode pair then s
    else
      let s1 := s.count sprU 4 1
      let s2 := if ok then s1 else (s1.setStby pair (fun x => { x with slicesFailed := x.slicesFailed + 1 })).dummyFails pair
      if !last then s2
      else s2.setStby pair (fun x =>
        { x with clean := true, status := if x.clean && x.status != 2 then 0 else x.status, lastPass := if x.clean then some s.now else x.lastPass }))

/-- DIGEST_COMPARE (R588). -/
def execDigestCompare (pair : Nat) (equal : Bool) (s : State) : Host.Outcome State Fault Refusal :=
  .next (
    if equal ∨ 2 ≤ pair ∨ s.roleOf pair (1 - s.holderDie pair) ≠ 1 ∨ 4 ≤ s.standbyCode pair then s
    else ((s.count sprU 5 1).setStby pair (fun x => { x with mismatches := x.mismatches + 1 })).dummyFails pair)

/-! ## Restarts of the MCC's firmware (R533, R565, R566) -/

/-- FW_RESTART: the firmware goes down, or `up` runs again: then a HOST_W write that waited is validated. Minimal firmware comes back as such. -/
def execFwRestart (up : Bool) (s : State) : Host.Outcome State Fault Refusal :=
  .next (
    let h := s.mccHolder
    if s.ustate h = stFaulted then s
    else if !up then
      if s.fwDown then s
      else
        let s1 := ((s.put h Reg.mcc.fwState 3).count h 5 1).irq h (2 ^ 16)
        s1.predOff
    else if !s.fwDown then s
    else
      let s1 := s.put h Reg.mcc.fwState (if s.mode = 4 then 2 else 1)
      match s1.pwr.hostPend with
      | some w => (s1.setPwr (fun x => { x with host := w, hostPend := none })).applyCap
      | none => s1)

/-! ## The health report (R590) -/

/-- The record of a block type. -/
def State.healthBlock (s : State) (b : Blk) : List Byte :=
  let vac := (s.talon.vacant.filter (fun v => v.1 == blkCode b)).map (fun v => v.2)
  let spares (d : Nat) : Nat := ((List.range (blkCount b)).filter (fun i => dieOf ⟨b, i⟩ == d && s.inTalon ⟨b, i⟩)).length
  let remote := ((List.range (blkLogical b)).filter (fun l =>
    let i := s.physOf b l
    i != 0xFFFF && dieOf ⟨b, i⟩ != l / (blkLogical b / 2))).length
  leBytes 2 (blkCode b) ++ leBytes 2 (blkLogical b) ++ leBytes 1 (spares 0) ++ leBytes 1 (spares 1) ++ leBytes 2 vac.length ++
    leBytes 2 (s.talon.retired.filter (fun u => u.blk == b)).length ++ leBytes 2 remote ++
    leBytes 2 (vac.foldl min 0xFFFF) ++ leBytes 2 0

/-- The record of a duplicated unit, or of the latch (3). -/
def State.healthStandby (s : State) (k : Nat) : List Byte :=
  let r := s.stby k
  let pass := match r.lastPass with
    | some t => min 0xFFFF_FFFE ((s.now - t) / 1_000_000_000)
    | none => 0xFFFF_FFFF
  leBytes 1 k ++ leBytes 1 (if k = 3 then 0 else s.holderDie k) ++ leBytes 1 (if k = 3 then 1 else s.standbyCode k) ++ leBytes 1 0 ++
    leBytes 4 pass ++ leBytes 2 r.slicesFailed ++ leBytes 2 r.mismatches ++ leBytes 2 r.failovers ++ leBytes 2 0

/-- The 320 bytes of the report. -/
def State.healthReport (s : State) : List Byte :=
  let b (x : Bool) (k : Nat) : Nat := if x then 2 ^ k else 0
  let used := s.talon.discard.length
  leBytes 4 0x544C_4858 ++ leBytes 2 1 ++ leBytes 2 320 ++ leBytes 8 s.now ++ leBytes 4 (s.get bootU Reg.boot.bootCount) ++
    leBytes 2 used ++ leBytes 2 s.talon.overflow.length ++ leBytes 2 s.talon.suspects.length ++
    leBytes 2 (b (!s.talon.vacant.isEmpty) 0 + b (decide (2 ≤ s.standbyCode 0)) 1 + b (decide (2 ≤ s.standbyCode 1)) 2 + b (decide (512 ≤ used)) 3) ++
    List.replicate 36 0 ++ [Blk.mt, .ae, .ew, .shf, .xr, .smp, .uc, .tbl, .mem].flatMap s.healthBlock ++
    (List.range 4).flatMap s.healthStandby ++ List.replicate 48 0

/-- CAPTURE (R590, R591). -/
def execCapture (src : Src) (s : State) : Host.Outcome State Fault Refusal :=
  .next (if notVf src && s.ustate s.mccHolder != stFaulted then s.setSys (fun x => { x with health := s.healthReport }) else s)

end Sys2Proof.Machine
end

