-- ==== Sys2Proof/Machine/Image.lean ====
section
/-!
DEFINITION. The Crever image and its updates (R545 to R550, R614): the checks of a whole image, the update over the host path and over
PLDM, and the end of a write.
-/
namespace Sys2Proof.Machine

/-- A little-endian number of n bytes at an offset. -/
def at' (b : List Byte) (o n : Nat) : Nat := leNat ((b.drop o).take n)

/-- A directory entry (R547). -/
structure Comp where
  type : Nat
  svn : Nat
  off : Nat
  len : Nat
  digest : List Byte
  deriving DecidableEq, Repr

/-- Entry i of the directory. -/
def imageComp (b : List Byte) (i : Nat) : Comp :=
  let o := 0x40 + 96 * i
  ⟨at' b o 1, at' b (o + 2) 2, at' b (o + 4) 4, at' b (o + 8) 4, (b.drop (o + 12)).take 64⟩

/-- The longest component of a type. -/
def compMax : Nat → Nat
  | 1 => 0x80_0000 | 2 => 0x8_0000 | 3 => 0x40_0000 | 4 => 0x10_0000 | _ => 0

/-- Bytes that the signature covers: the header up to 0x5FF, with the entry of CONFIG replaced by zeros (R546). -/
def signedBytes (b : List Byte) : List Byte :=
  b.take 0x40 ++ (List.range 15).flatMap (fun i =>
    if (imageComp b i).type = 4 then List.replicate 96 0 else (b.drop (0x40 + 96 * i)).take 96) ++ (b.drop 0x5E0).take 0x20

/-- The public signing key whose hash fuse k holds (R546). -/
def signingKey (k : Nat) : List Byte := leBytes 132 (Config.fuseValue (2 ^ 40 + 8192 + 512 * k))

/-- The header holds, and its signature verifies under a fused key that is not revoked (R546). -/
def headerOk (b : List Byte) : Bool :=
  let n := at' b 12 1
  let k := at' b 13 1
  decide (4096 ≤ b.length) && at' b 0 4 == 0x5652_4358 && at' b 4 2 == 1 && decide (at' b 6 2 < 2) && decide (at' b 8 4 ≤ b.length) &&
    decide (4 ≤ n ∧ n ≤ 15) && decide (k < 2) &&
    ((b.drop (0x40 + 96 * n)).take (96 * (15 - n))).all (fun x => x == 0) &&
    !bit (Config.fuseValue (2 ^ 40 + 2049)) k &&
    ecdsaVerify (signingKey k) (signedBytes b) ((b.drop 0x600).take 132)

/-- The components lie in the image, apart and aligned, each type once, and hash to their digests (R547). -/
def compsOk (b : List Byte) (cs : List Comp) : Bool :=
  [1, 2, 3, 4].all (fun t => (cs.filter (fun c => c.type == t)).length == 1) &&
    cs.all (fun c => decide (1 ≤ c.type ∧ c.type ≤ 4 ∧ c.off % 4096 = 0 ∧ 4096 ≤ c.off ∧ c.off + c.len ≤ at' b 8 4 ∧ c.len ≤ compMax c.type) &&
      sha512 ((b.drop c.off).take c.len) == c.digest) &&
    cs.all (fun c => cs.all (fun d => c == d || decide (c.off + c.len ≤ d.off) || decide (d.off + d.len ≤ c.off)))

/-- The configuration section's records, if its header and CRC hold (R548). -/
def configRecords (c : List Byte) : Option (List (Nat × Nat × Nat × Nat)) :=
  let n := at' c 8 4
  let body := (c.drop 64).take (16 * n)
  if at' c 0 4 = 0x4746_4358 ∧ at' c 4 2 = 1 ∧ 64 + 16 * n ≤ c.length ∧ (crc32c body).toNat = at' c 12 4 then
    some ((List.range n).map (fun i => (at' body (16 * i) 2, at' body (16 * i + 2) 2, at' body (16 * i + 4) 4, at' body (16 * i + 8) 4)))
  else none

/-- Checks a whole image: the facts that a start needs, or the result code of R550. -/
def State.checkImage (s : State) (b : List Byte) : Except Nat ImageFacts :=
  if !headerOk b then .error 3
  else
    let cs := (List.range (at' b 12 1)).map (imageComp b)
    if !compsOk b cs then .error 4
    else
      let c (t : Nat) : Comp := (cs.find? (fun x => x.type == t)).getD ⟨0, 0, 0, 0, []⟩
      match configRecords ((b.drop (c 4).off).take (c 4).len) with
      | none => .error 4
      | some cfg =>
        let svns := [(c 1).svn, (c 2).svn, (c 3).svn]
        if (List.range 3).any (fun i => decide (svns.getD i 0 < s.minSvn i)) then .error 5
        else .ok { id := (b.drop 16).take 16, raise := bit (at' b 6 2) 0, svns, engineLen := (c 2).len, ucLen := (c 3).len
                   digests := [1, 2, 3, 4].map (fun t => (c t).digest), cfg }

/-- An update request ends without a write. -/
def State.updateRefused (s : State) (r : Nat) : State :=
  ((s.put bootU Reg.boot.updateResult r).irq bootU (2 ^ 18)).modEvent 0xA00B r 0

/-- The slot is erased and written with a checked image. -/
def State.beginUpdate (s : State) (kind : Nat) (f : ImageFacts) : State :=
  (s.setSys (fun x => { x with update := some (kind, f) })).put bootU Reg.boot.updateBusy 1 |>.put bootU Reg.boot.updateDoneKib 0

/-- IMAGE_UPDATE (R550): BOOT.UPDATE.GO. Only the PF updates by this path, in TEST, SERVICE or RECOVERY, from an image staged in a
partition's local memory. -/
def execImageUpdate (src : Src) (s : State) : Host.Outcome State Fault Refusal :=
  .next (
    if !notVf src || s.ustate s.mccHolder == stFaulted then s
    else if src ≠ .pf ∨ (s.mode ≠ 1 ∧ s.mode ≠ 2 ∧ s.mode ≠ 3) then s.updateRefused 7
    else if s.sys.update.isSome then s.put bootU Reg.boot.updateResult 1
    else
      let a := s.get bootU Reg.boot.updateAddr
      let n := s.get bootU Reg.boot.updateLen
      if !dgaFormed a ∨ dgaNode a ≠ s.node ∨ dgaSpace a ≠ 0 ∨ n = 0 ∨ 66_846_720 < n ∨ !(List.range 8).any (fun p => s.inRegion p (dgaOff a) n) then
        s.updateRefused 2
      else
        let b := s.argBytes a n
        match s.checkImage b.1 with
        | .error r => b.2.updateRefused r
        | .ok f => b.2.beginUpdate 0 f)

/-- UPDATE_DONE (R550): the slot has been programmed and read back, or a step of it has failed. -/
def execUpdateDone (ok : Bool) (kib : Nat) (s : State) : Host.Outcome State Fault Refusal :=
  .next (
    match s.sys.update with
    | none => s
    | some (_, f) =>
      let s1 := (s.setSys (fun x => { x with
        update := none, slotBad := !ok, slot := if ok then some f else x.slot })).put bootU Reg.boot.updateBusy 0
      let s2 := s1.put bootU Reg.boot.updateDoneKib kib
      if ok then ((s2.put bootU Reg.boot.failsConsec 0).count bootU 7 1).updateRefused 0 else s2.updateRefused 6)

end Sys2Proof.Machine
end

