-- ==== Sys2Proof/Machine/Mgmt.lean ====
section
/-!
DEFINITION. The management port and the clocks (R608 to R620): the I3C commands, AON's responder, the Xoryn commands but for register
access, PLDM monitoring and firmware update, the watchdog, SYNC_IN ticks, REFCLK.
-/
namespace Sys2Proof.Machine

/-- Changes the management port's record. -/
def State.setMgt (s : State) (f : MgtRec → MgtRec) : State := { s with mgt := f s.mgt }

/-! ## The I3C port (R608, R609) -/

/-- Static address of the port (R609). -/
def staticAddr : Nat := 0x10 + Config.seat.toNat % 16

/-- The port takes a dynamic address. -/
def State.takeAddr (s : State) (a : Nat) : State := (s.put mgtU Reg.mgt.i3cDynAddr a).irq mgtU (2 ^ 19)

/-- The port has no dynamic address, and AON runs. -/
def State.unaddressed (s : State) : Bool := s.sys.powered && s.get mgtU Reg.mgt.i3cDynAddr == 0

/-- SETDASA (R608): by static address. -/
def execSetdasa (static dyn : Nat) (s : State) : Host.Outcome State Fault Refusal :=
  .next (if s.unaddressed && static == staticAddr then s.takeAddr dyn else s)

/-- ENTDAA (R608). -/
def execEntdaa (dyn : Nat) (s : State) : Host.Outcome State Fault Refusal := .next (if s.unaddressed then s.takeAddr dyn else s)

/-- RSTDAA (R608). -/
def execRstdaa (s : State) : Host.Outcome State Fault Refusal :=
  .next (if s.sys.powered then s.put mgtU Reg.mgt.i3cDynAddr 0 else s)

/-- SETMRL (R608): up to 256 bytes. -/
def execSetmrl (n : Nat) (s : State) : Host.Outcome State Fault Refusal :=
  .next (if s.sys.powered then s.setMgt (fun x => { x with mrl := min n 256 }) else s)

/-- GETMRL (R608). -/
def execGetmrl (s : State) : Host.Outcome State Fault Refusal := .next (s.respond (if s.sys.powered then [s.mgt.mrl] else []))

/-- HOT_JOIN (R609): 10 ms after the port came up without an address; 0x02 is I3C's Hot-Join address. -/
def execHotJoin (s : State) : Host.Outcome State Fault Refusal := .next (if s.unaddressed then s.emit (.sideband [2]) else s)

/-! ## Who answers, and the status block (R610) -/

/-- An MCC holds the endpoint: it runs firmware, minimal firmware included. -/
def State.endpoint (s : State) : Bool :=
  s.sys.powered && s.ustate s.mccHolder == stRunning && [1, 2].contains (s.get s.mccHolder Reg.mcc.fwState)

/-- The compute rails are on. -/
def State.railsOn (s : State) : Bool :=
  s.awake && s.mode != 4 && (s.sys.start.isNone || decide (3 ≤ s.get bootU Reg.boot.stateStage)) && !s.sys.retry

/-- The 32 bytes of the status block, and the state that has read the clock: without REFCLK the block shows AON time, which no rule
ties to the timestamp. -/
def State.statusBlock (s : State) : List Byte × State :=
  let b (x : Bool) (k : Nat) : Nat := if x then 2 ^ k else 0
  let flags := b (s.get mgtU Reg.mgt.alertCause != 0) 0 + b s.sys.coolant 1 + b (s.flag pwrU Reg.pwr.statThrot) 2 +
    b (s.flag pwrU Reg.pwr.statRamp) 3 + b s.sys.refclk 4 + b (s.flag pwrU Reg.pwr.statSyncOk) 5 + b (s.flag mgtU Reg.mgt.wdtExpired) 6 +
    b s.endpoint 7
  let t : Nat × State := if s.sys.refclk then (s.now, s) else s.fresh
  (leBytes 4 0x4E4F_4158 ++ leBytes 1 (if s.awake then s.mode else 0xFF) ++ leBytes 1 flags ++ leBytes 2 (s.get mgtU Reg.mgt.alertCause) ++
    leBytes 2 (s.get thmU Reg.thm.coldInlet) ++ leBytes 2 (s.get thmU Reg.thm.coldOutlet) ++ leBytes 2 (s.get pwrU Reg.pwr.pIn1msW) ++
    leBytes 2 (s.get pwrU Reg.pwr.capEffW) ++ leBytes 1 (if s.railsOn then s.get thmU Reg.thm.tjMaxC else 0) ++
    leBytes 1 (s.get bootU Reg.boot.failsConsec) ++ leBytes 2 (s.get bootU Reg.boot.failsLastReason) ++
    leBytes 4 (s.get bootU Reg.boot.bootCount) ++ leBytes 8 t.1, t.2)

/-- AON_STATUS_READ (R610): AON answers while no MCC holds the endpoint, and NACKs writes. -/
def execAonStatusRead (write : Bool) (s : State) : Host.Outcome State Fault Refusal :=
  .next (
    if !s.sys.powered || s.endpoint || write then s.respond []
    else
      let b := s.statusBlock
      b.2.respond (b.1.map (fun x => x.toNat)))

/-! ## MCTP (R609, R612 to R615) -/

/-- An MCTP request that the endpoint receives and answers; without an endpoint there is no answer. -/
def State.served (s : State) (k : State → State) : State :=
  if s.endpoint then k ((s.count mgtU 2 1).count mgtU 3 1) else s.respond []

/-- SET_ENDPOINT_ID (R609): MCTP itself bars 0 and 0xFF. -/
def execSetEndpointId (eid : Nat) (s : State) : Host.Outcome State Fault Refusal :=
  .next (s.served (fun t => if eid = 0 ∨ 255 ≤ eid then t.respond [2] else ((t.put mgtU Reg.mgt.mctpEid eid).irq mgtU (2 ^ 19)).respond [0]))

/-- HEARTBEAT (R612, R615): the watchdog starts anew, and a SAFE cap ends. -/
def execHeartbeat (_seq : Nat) (s : State) : Host.Outcome State Fault Refusal :=
  .next (s.served (fun t =>
    let s1 := (t.setMgt (fun x => { x with hbNs := 0 })).count mgtU 0 1
    let s2 := ((s1.put mgtU Reg.mgt.wdtExpired 0).alert 1 false).put pwrU Reg.pwr.statSafe 0
    let s3 := if t.flag pwrU Reg.pwr.statSafe then s2.applyCap else s2
    let b := s3.statusBlock
    b.2.respond (b.1.map (fun x => x.toNat))))

/-- SET_TIME (R612, R620): the count that the timestamp takes at the next accepted tick. -/
def execSetTime (ms : Nat) (s : State) : Host.Outcome State Fault Refusal :=
  .next (s.served (fun t => ((t.put mgtU Reg.mgt.tsSetMs ms).setMgt (fun x => { x with setTime := some (ms % 2 ^ 64) })).respond [0]))

/-- The module's serial number, 12 characters (R613, chapter 24): a datum of each module. -/
def serialNumber : List Byte := leBytes 12 (Config.fuseValue (2 ^ 40 + 8200))

/-- The FRU record (R1, R613). -/
structure FruRec where
  ordering : String
  stepping : String
  serial : List Byte
  imageId : List Byte
  deriving DecidableEq, Repr

/-- What PLDM's FRU data present: the ordering code, the stepping, the serial number and the IMAGE_ID of the image that runs (R613). The
table has no command that reads it. -/
def State.fruRecord (s : State) : FruRec := ⟨"XSV720-256LC", "A2", serialNumber, s.sys.image.id⟩

/-- A sensor of R613: its value, and none for a number that is no sensor. The input voltage is measured, and free. -/
def State.sensor (s : State) (id : Nat) : Option (Nat × State) :=
  match id with
  | 1 => some (s.get pwrU Reg.pwr.pIn1msW, s)
  | 2 => some (s.get pwrU Reg.pwr.capEffW, s)
  | 3 => some (s.fresh.1 % 65536, s.fresh.2)
  | 4 => some (s.get thmU Reg.thm.tjMaxC, s)
  | 5 => some (s.hotDevice / 1000, s)
  | 6 => some (s.get thmU Reg.thm.coldInlet, s)
  | 7 => some (s.get thmU Reg.thm.coldOutlet, s)
  | 16 => some (s.mode, s)
  | 17 => some (if s.sys.coolant then 1 else 0, s)
  | 18 => some (s.get mgtU Reg.mgt.alertCause, s)
  | _ => none

/-- GET_SENSOR_READING (R613): completion code and value; 0x80 is PLDM's code for no such sensor. -/
def execGetSensorReading (id : Nat) (s : State) : Host.Outcome State Fault Refusal :=
  .next (s.served (fun t => match t.sensor id with
    | some r => r.2.respond [0, r.1]
    | none => t.respond [0x80]))

/-- POLL_FOR_PLATFORM_EVENT_MESSAGE (R613): the oldest uncollected event; while more wait, the in-band interrupt is raised again. -/
def execPollForPlatformEventMessage (s : State) : Host.Outcome State Fault Refusal :=
  .next (s.served (fun t => match t.mgt.events with
    | [] => t.respond []
    | e :: r =>
      let s1 := (t.setMgt (fun x => { x with events := r })).respond [e.code, e.seq, e.time, e.v0, e.v1]
      if r.isEmpty then s1 else s1.emit (.sideband [])))

/-- PLDM_FIRMWARE_UPDATE (R550, R614): the whole image has come over the port; the MCC checks it, and then writes the slot, in every
state. 0x81 is PLDM's ALREADY_IN_UPDATE_MODE. -/
def execPldmFirmwareUpdate (image : List Byte) (s : State) : Host.Outcome State Fault Refusal :=
  .next (s.served (fun t =>
    if t.sys.update.isSome then t.respond [0x81]
    else
      match t.checkImage image with
      | .error r => (t.updateRefused r).respond [r]
      | .ok f => (t.beginUpdate 1 f).respond [0]))

/-- ACTIVATE_FIRMWARE (R539, R614). -/
def execActivateFirmware (s : State) : Host.Outcome State Fault Refusal :=
  .next (s.served (fun t => ((t.interrupted.cutUpdate).beginFull true).respond [0]))

/-! ## The watchdog (R606, R615) -/

/-- WDT_EXPIRED (R615): TIMEOUT_S have passed without a heartbeat. In AON-only state only the flag is set. -/
def execWdtExpired (s : State) : Host.Outcome State Fault Refusal :=
  .next (
    if !s.sys.powered || s.flag mgtU Reg.mgt.wdtExpired || s.flag mgtU Reg.mgt.wdtDisable then s
    else
      let s1 := s.put mgtU Reg.mgt.wdtExpired 1
      if !s1.awake then s1
      else
        let s2 := ((s1.put pwrU Reg.pwr.statSafe 1).applyCap).alert 1 true
        ((s2.count mgtU 1 1).irq mgtU (2 ^ 16)).eventM none 0x9007 (s2.get pwrU Reg.pwr.capSafeW) 0)

/-! ## SYNC_IN and REFCLK (R619, R620) -/

/-- The signed error in a byte, saturating at ±127. -/
def errByte (behind : Bool) (e : Nat) : Nat :=
  let m := min e 127
  if behind && m != 0 then 256 - m else m

/-- The edge is within SYNC.WINDOW_NS of the millisecond that the count shows, e ns off, behind or ahead of it: the count is slewed, the power
cap's ramp takes its step, and a time that SYNC_SET has given is set. -/
def State.edgeIn (s : State) (e p1ms : Nat) (behind : Bool) : State :=
  let s1 := (s.setMgt (fun x => { x with rejects := 0, slew := e, slewUp := behind })).rampTick p1ms
  match s1.mgt.setTime with
  | some ms => ((s1.setMgt (fun x => { x with setTime := none, slew := 0 })).setTime (ms * 1_000_000 % 2 ^ 64)).put mgtU Reg.mgt.tsSynced 1
  | none => s1

/-- The edge is outside SYNC.WINDOW_NS: it is rejected, and the third in a row steps the count to the nearest millisecond. -/
def State.edgeOut (s : State) (near : Nat) : State :=
  let s1 := (s.setMgt (fun x => { x with rejects := x.rejects + 1 })).count mgtU 5 1
  if s1.mgt.rejects < 3 then s1 else ((s1.setMgt (fun x => { x with rejects := 0 })).setTime near).irq mgtU (2 ^ 18)

/-- An edge of SYNC at count t, while the count runs from REFCLK and has seen an edge before. -/
def State.edge (s : State) (t p1ms : Nat) : State :=
  let off := t % 1_000_000
  let behind := decide (500_000 ≤ off)
  let e := if behind then 1_000_000 - off else off
  let s1 := (s.setTime t).put mgtU Reg.mgt.tsLastErrNs (errByte behind e)
  if e ≤ s.get mgtU Reg.mgt.syncWindowNs then s1.edgeIn e p1ms behind else s1.edgeOut (if behind then t + e else t - e)

/-- Uptime goes on by the time since the last edge; UPTIME_S of the AON shows it while the module is powered. -/
def State.uptime (s : State) (elapsed : Nat) : State :=
  let s1 := s.setMgt (fun x => { x with hbNs := x.hbNs + elapsed, upNs := x.upNs + elapsed, slew := 0 })
  if s1.sys.powered then s1.putAon Reg.aon.uptimeS (s1.mgt.upNs / 1_000_000_000 % 2 ^ 32) else s1

/-- SYNC_TICK (R519, R567, R619, R620): the counter has counted so many nanoseconds since the last tick, and average input power over the last
millisecond is p1ms. -/
def execSyncTick (elapsed p1ms : Nat) (s : State) : Host.Outcome State Fault Refusal :=
  .next (
    let s1 := s.uptime elapsed
    if !s1.sys.powered || !s1.sys.pgood then s1
    else if !s1.sys.refclk then s1.setTime (s1.now + elapsed)
    else if !s1.mgt.ticked then ((s1.setTime 0).setMgt (fun x => { x with ticked := true })).edgeIn 0 p1ms false
    else s1.edge (if s.mgt.slewUp then s1.now + elapsed + s.mgt.slew else s1.now + elapsed - s.mgt.slew) p1ms)

/-- REFCLK_LOST (R619): the PLLs hold over on the crystal. -/
def execRefclkLost (s : State) : Host.Outcome State Fault Refusal :=
  .next (
    if !s.sys.refclk then s
    else
      let s1 := s.setSys (fun x => { x with refclk := false })
      if !s1.awake then s1.put clkU Reg.clk.refState 0
      else if s1.get clkU Reg.clk.refState = 1 then
        let s2 := (((s1.put clkU Reg.clk.refState 2).put mgtU Reg.mgt.tsSynced 0).alert 5 true).count mgtU 7 1
        ((s2.irq mgtU (2 ^ 17)).count clkU 2 1).irq clkU (2 ^ 17)
      else s1)

/-- REFCLK_RETURN (R619): the PLLs relock to it. -/
def execRefclkReturn (s : State) : Host.Outcome State Fault Refusal :=
  .next (
    if s.sys.refclk then s
    else
      let s1 := (s.setSys (fun x => { x with refclk := true })).alert 5 false
      if s1.get clkU Reg.clk.refState = 2 then s1.put clkU Reg.clk.refState 1 else s1)

end Sys2Proof.Machine
end

