-- ==== Sys2Proof/Machine/Cxl.lean ====
section
/-!
DEFINITION. The host's CXL.mem window, CXL's mailbox and DOE but for SPDM, and port H's link (R373, R374, R389, R540, R602).
-/
namespace Sys2Proof.Machine

/-! ## The window (R389) -/

/-- The aperture that a window offset falls in. -/
def State.aperture (s : State) (w : Nat) : Option Nat :=
  (List.range 16).find? (fun k =>
    let o := s.get hifU (Reg.hif.aptWinOff.at k) * 0x100_0000
    decide (o ≤ w ∧ w < o + s.get hifU (Reg.hif.aptSize.at k) * 0x100_0000))

/-- What an access to 64 bytes at window offset w addresses: partition, space and offset, and whether writes are dropped. -/
def State.windowTarget (s : State) (w : Nat) : Option (Nat × Nat × Nat × Bool) :=
  if s.memHeld ∨ 2 ^ 30 * s.memWin < w + 64 then none
  else
    match s.aperture w with
    | none => none
    | some k =>
      let p := s.get hifU (Reg.hif.aptPart.at k)
      let sp := s.get hifU (Reg.hif.aptSpace.at k)
      let off := s.get hifU (Reg.hif.aptTgtOff.at k) * 0x100_0000 + (w - s.get hifU (Reg.hif.aptWinOff.at k) * 0x100_0000)
      let closed := s.sealState p != 0 && !(sp == 0 && (s.openRanges p).any (fun r => decide (r.1 ≤ off ∧ off + 64 ≤ r.1 + r.2)))
      if closed || !s.inPart p sp off 64 then none else some (p, sp, off, s.flag hifU (Reg.hif.aptRo.at k))

/-- An access is refused: counted, told, and logged in the module ring and that of the aperture's partition. One that a seal refuses
also counts there (R508). -/
def State.windowRefused (s : State) (w : Nat) : State :=
  let p := (s.aperture w).map (fun k => s.get hifU (Reg.hif.aptPart.at k))
  let isClosed := match p with | some q => s.sealState q != 0 | none => false
  let s1 := (s.count hifU 8 1).irq hifU (2 ^ 18)
  let s2 := if isClosed && !s.memHeld then (s1.count secU 7 1).irq secU (2 ^ 19) else s1
  s2.eventPM p.toList none 0xB004 w 0

/-- Port H's link is up. -/
def State.hostUp (s : State) : Bool := decide (2 ≤ s.get hifU Reg.hif.linkState)

/-- A read of a line's 64 bytes, at the bank's arbiter or the memory controller. -/
def State.hostRead (s : State) (p sp off : Nat) (ev : MemEv) : State :=
  if s.lost (key sp off / 256) then s.tblAnswer true (List.replicate 64 0)
  else
    match s.holder (key sp off / 256) with
    | none => s.tblAnswer true (List.replicate 64 0)
    | some u =>
      let r : MemReq := { key := key sp off, write := none, poison := false, ev := ev, host := true }
      if sp = 1 then (s.setBank u { s.bank u with waiting := (s.bank u).waiting ++ [⟨5, 4, 0, 0, 0, p, off, 64, [], false, 0⟩] }).grant u
      else if sp = 2 then s.tierRequest u r 64
      else s.memRequest u r 64

/-- A write of bytes within a line; `keep`: bytes of it that stay as they are when it is performed. -/
def State.hostWrite (s : State) (p sp off : Nat) (d : List Byte) (keep : Nat) (pois : Bool) (ev : MemEv) : State :=
  if s.lost (key sp off / 256) then s
  else
    match s.holder (key sp off / 256) with
    | none => s
    | some u =>
      let r : MemReq := { key := key sp off, write := some d, poison := pois, ev := ev, keep := keep, host := true }
      if sp = 1 then (s.setBank u { s.bank u with waiting := (s.bank u).waiting ++ [⟨5, 4, 1, 0, 0, p, off, d.length, d, pois, keep⟩] }).grant u
      else if sp = 2 then s.tierRequest u r d.length
      else s.memRequest u r d.length

/-- CXL_MEM_READ (R389): 64 bytes at a window offset; a refused read returns zeros with poison. -/
def execCxlMemRead (w : Nat) (ev : MemEv) (s : State) : Host.Outcome State Fault Refusal :=
  .next (
    if !s.hostUp then s.respond []
    else
      let a := w / 64 * 64
      let s1 := (s.rouse.count hifU 6 1).endRun
      match s1.windowTarget a with
      | none => (s1.windowRefused a).tblAnswer true (List.replicate 64 0)
      | some t => (s1.hostRead t.1 t.2.1 t.2.2.1 ev).reviewAll)

/-- The host's run after a whole clean write of a quarter: the writes since the quarter was last written, and this one. -/
def HostRun.next (r : HostRun) (b : Nat) (d : List Byte) : HostRun :=
  let rest := (r.beats.dropWhile (fun x => x.1 != b)).drop 1
  let kept := if r.beats.any (fun x => x.1 == b) then rest else r.beats
  { r with
    beats := kept ++ [(b, d)]
    done := r.done.filter (fun x => kept.any (fun y => y.1 == x))
    inj := r.inj.filter (fun x => kept.any (fun y => y.1 == x.2)) }

/-- The damage of quarters that the run has let go. -/
def HostRun.gone (r : HostRun) (r' : HostRun) : List (Nat × Nat) := r.inj.filter (fun x => !r'.inj.contains x)

/-- The line that four quarters make. -/
def HostRun.data (r : HostRun) : List Byte :=
  (List.range 4).flatMap (fun i => ((r.beats.find? (fun x => x.1 == i)).map (fun x => x.2)).getD [])

/-- The next whole clean write of a quarter of a line, in the host's run there or at the start of one. -/
def State.runOn (s : State) (line b : Nat) (d : List Byte) : State :=
  match s.merge with
  | some r =>
    if r.line = line ∧ r.beats.length < 4 then
      let r' := r.next b d
      { s with merge := some r', hurt := if r.gone r' = [] then s.hurt else s.hurt.laid line (r.gone r') }
    else { s.endRun with merge := some ⟨line, [(b, d)], [], []⟩ }
  | none => { s with merge := some ⟨line, [(b, d)], [], []⟩ }

/-- Takes back counts of quarters that have become one write. -/
def State.uncount (s : State) (u : UnitId) (k n : Nat) : State :=
  { s with counts := Sparse.set (fun _ => 0) s.counts (counterKey u.page k) (s.live u k - n) }

/-- The quarters of a completed run are one write: the bank, controller or port no longer counts or holds them (R602). -/
def State.merged (s : State) (line : Nat) : State :=
  match s.merge, s.holder line with
  | some r, some u =>
    let n := r.done.length
    let quarter (k len : Nat) (wr : Bool) : Bool := wr && len == 64 && decide (k / 256 = line)
    if u.blk = .tbl then
      let mine (q : TblReq) : Bool := q.cls == 4 && q.port == 5 && quarter q.key q.len (q.op == 1)
      let m := (s.bank u).moving.toList.countP mine
      ((s.setBank u { s.bank u with waiting := (s.bank u).waiting.filter (fun q => !mine q) }).uncount u 4 (n + m)).uncount u 7 n
    else
      let s1 := { s with memWait := s.memWait.filter (fun w => !(w.1 / 512 == u.page && quarter w.2.key (w.1 % 512) w.2.write.isSome)) }
      if u.blk = .mem then ((s1.uncount u 0 n).uncount u 1 n).uncount u 2 n else s1.uncount u 1 n
  | _, _ => s

/-- The bytes that a masked write leaves as they are, one bit each. -/
def keepMask (d : List (Option Byte)) : Nat :=
  d.zipIdx.foldl (fun a x => if x.1.isSome then a else a + 2 ^ x.2) 0

/-- CXL_MEM_WRITE (R389, R602): 64 bytes at a window offset, some of them masked out; four that cover a line one after another are merged
into one full-line write. -/
def execCxlMemWrite (w : Nat) (data : List (Option Byte)) (poison : Bool) (ev : MemEv) (s : State) : Host.Outcome State Fault Refusal :=
  .next (
    if !s.hostUp ∨ data.length ≠ 64 then s
    else
      let a := w / 64 * 64
      let s1 := s.rouse.count hifU 7 1
      match s1.windowTarget a with
      | none => s1.endRun.windowRefused a
      | some (p, sp, off, ro) =>
        if ro then s1.endRun
        else
          let k := key sp off
          let d := data.map (fun x => x.getD 0)
          if data.all Option.isSome && !poison then
            let s2 := s1.runOn (k / 256) (k % 256 / 64) d
            match s2.merge with
            | some r =>
              if r.beats.length = 4 then ((s2.merged (k / 256)).hostWrite p sp (off / 256 * 256) r.data 0 false ev).reviewAll
              else (s2.hostWrite p sp off d 0 false ev).reviewAll
            | none => s2
          else if data.any Option.isSome then (s1.endRun.hostWrite p sp off d (keepMask data) poison ev).reviewAll
          else s1.endRun)

/-! ## CXL's mailbox and DOE (R373, R374) -/

/-- A function of port H that can be reached: the PF, or an enabled VF. -/
def State.reachable (s : State) (src : Src) : Bool :=
  s.hostUp && s.endpoint && (match src with
    | .pf => true
    | .vf p => decide (p < s.vfs) && s.mode != 4
    | _ => false)

/-- IDENTIFY_MEMORY_DEVICE (R373): total and volatile capacity in units of 256 MiB, no persistent capacity; the rest of the identity is
stated nowhere. -/
def execIdentifyMemoryDevice (src : Src) (s : State) : Host.Outcome State Fault Refusal :=
  .next (
    if src ≠ .pf || !s.reachable src then s.respond []
    else
      let f := s.fresh
      f.2.respond [s.memWin * 4, s.memWin * 4, 0, f.1])

/-- GET_SUPPORTED_LOGS (R373): which logs there are is stated nowhere. -/
def execGetSupportedLogs (src : Src) (s : State) : Host.Outcome State Fault Refusal :=
  .next (
    if src ≠ .pf || !s.reachable src then s.respond []
    else
      let f := s.fresh
      f.2.respond [f.1])

/-- TABLE_ACCESS (R374): one DSMAS entry, its base and length, and DSLBIS entries by data type: read latency in ns, read and write bandwidth
in GB/s. -/
def execTableAccess (src : Src) (s : State) : Host.Outcome State Fault Refusal :=
  .next (s.respond (if src = .pf ∧ s.reachable src then [0, 2 ^ 30 * s.memWin, 1, 800, 4, 55, 5, 55] else []))

/-- DISCOVERY (R373): protocol `ix` of the function as vendor, type and next index, 0 after the last. 0 Discovery, 1 CMA/SPDM, 2 Secured
CMA/SPDM are PCI-SIG's; CXL's Table Access is type 2 of vendor 0x1E98. -/
def execDiscovery (src : Src) (ix : Nat) (s : State) : Host.Outcome State Fault Refusal :=
  .next (
    if !s.reachable src then s.respond []
    else
      let ps : List (Nat × Nat) := [(1, 0), (1, 1), (1, 2)] ++ (if src = .pf then [(0x1E98, 2)] else [])
      match ps[ix]? with
      | some x => s.respond [x.1, x.2, if ix + 1 < ps.length then ix + 1 else 0]
      | none => s.respond [0xFFFF, 0, 0])

/-- PORT_H_LINK_UP (R389, R395, R540): training completes at a width (1 x4, 2 x8) and a rate (1 to 3); the window's committed size is in
effect. -/
def execPortHLinkUp (width rate : Nat) (s : State) : Host.Outcome State Fault Refusal :=
  .next (
    if !s.awake || !s.sys.pgood || s.hostUp then s
    else
      let full := width == 2 && rate == 3
      let s1 := ((s.put hifU Reg.hif.linkWidth width).put hifU Reg.hif.linkRate rate).put hifU Reg.hif.linkState (if full then 2 else 3)
      let s2 := if full then s1 else s1.irq hifU (2 ^ 17)
      { s2 with memWin := if s.minimal then 0 else s.get hifU Reg.hif.memwinSizeGib })

end Sys2Proof.Machine
end

