-- ==== Sys2Proof/Machine/Spdm.lean ====
section
/-!
DEFINITION. The SPDM responder (R490 to R494, R556): negotiation, certificates, measurements and the attestation report, secured sessions,
chunked responses, IDE_KM. Responses are lists of numbers in the order of the tables; an error is 0x7F and its code. Message codes and error
codes are DMTF's (DSP0274).
-/
namespace Sys2Proof.Machine

/-- The number of a transport: a requester's PF or VF DOE mailbox, or the management port. -/
def viaCode : Src → Nat
  | .pf => 0
  | .vf p => 2 + p
  | _ => 1

/-- The responder is reached by a transport (R373, R491). -/
def State.heard (s : State) (via : Src) : Bool :=
  match via with
  | .pf | .vf _ => s.reachable via
  | .mgmt => s.endpoint
  | .mcc => false

/-- An SPDM error response. -/
def State.spdmError (s : State) (code : Nat) : State := s.respond [0x7F, code]

/-- How far a transport has negotiated. -/
def State.spdmStage (s : State) (via : Src) : Nat := Sparse.get (fun _ => 0) s.spdm.stage (viaCode via)

/-- Changes the responder's record. -/
def State.setSpdm (s : State) (f : SpdmRec → SpdmRec) : State := { s with spdm := f s.spdm }

/-- A request that needs a stage: it is served once the transport has come so far, and UnexpectedRequest (4) before. -/
def State.negotiated (s : State) (via : Src) (n : Nat) (k : State → State) : State :=
  if !s.heard via then s.respond [] else if s.spdmStage via < n then s.spdmError 4 else k s

/-- A transport comes to a stage. -/
def State.toStage (s : State) (via : Src) (n : Nat) : State :=
  s.setSpdm (fun x => { x with stage := Sparse.set (fun _ => 0) x.stage (viaCode via) n })

/-- A response as bytes: a large one, beyond what the requester takes, is kept to be fetched by CHUNK_GET (LargeResponse, 0x0F). -/
def State.spdmAnswer (s : State) (via : Src) (r : List Byte) : State :=
  let n := Sparse.get (fun _ => 0) s.spdm.sizes (viaCode via)
  if r.length ≤ n then s.respond (r.map (fun b => b.toNat))
  else
    let h := s.spdm.nextHandle
    (s.setSpdm (fun x => { x with
      large := x.large.filter (fun l => l.1 != viaCode via) ++ [(viaCode via, h, r, 0)]
      nextHandle := (h + 1) % 256 })).respond [0x7F, 0x0F, h]

/-! ## Negotiation (R491) -/

/-- GET_VERSION (R491): 1.2 and 1.3; negotiation of the transport starts anew. -/
def execGetVersion (via : Src) (s : State) : Host.Outcome State Fault Refusal :=
  .next (if s.heard via then (s.toStage via 1).respond [0x12, 0x13] else s.respond [])

/-- Capability bits of R491 as DMTF numbers them: CERT 1, CHAL 2, MEAS with signature 4, ENCRYPT 6, MAC 7, KEY_EX 9, HBEAT 13, KEY_UPD 14,
CHUNK 17. -/
def spdmFlags : Nat := 2 ^ 1 + 2 ^ 2 + 2 ^ 4 + 2 ^ 6 + 2 ^ 7 + 2 ^ 9 + 2 ^ 13 + 2 ^ 14 + 2 ^ 17

/-- GET_CAPABILITIES (R491): the requester says the largest transfer it takes, at least 42 bytes (DSP0274). -/
def execGetCapabilities (via : Src) (size : Nat) (s : State) : Host.Outcome State Fault Refusal :=
  .next (s.negotiated via 1 (fun t =>
    if size < 42 then t.spdmError 1
    else
      let s1 := t.setSpdm (fun x => { x with sizes := Sparse.set (fun _ => 0) x.sizes (viaCode via) size })
      (s1.toStage via 2).respond [spdmFlags]))

/-- NEGOTIATE_ALGORITHMS (R491): ECDSA P-521 (0x100), SHA-512 (4), secp521r1 (0x20) and AES-256-GCM (2), each if it was offered; InvalidRequest
(1) where one was not. -/
def execNegotiateAlgorithms (via : Src) (asym hash dhe aead : Nat) (s : State) : Host.Outcome State Fault Refusal :=
  .next (s.negotiated via 2 (fun t =>
    if bit asym 8 && bit hash 2 && bit dhe 5 && bit aead 1 then (t.toStage via 3).respond [0x100, 4, 0x20, 2] else t.spdmError 1))

/-! ## Certificates (R490, R556) -/

/-- The chain of slot 0 in SPDM's form (DSP0274): length, two reserved bytes, the root certificate's digest, the certificates. -/
def State.chainBytes (s : State) : List Byte :=
  let c := s.slotCerts.flatten
  leBytes 2 (68 + c.length) ++ leBytes 2 0 ++ sha512 (Config.certificate 0) ++ c

/-- GET_DIGESTS (R490, R491): slot 0 alone is provisioned; its mask and the digest of its chain. -/
def execGetDigests (via : Src) (s : State) : Host.Outcome State Fault Refusal :=
  .next (s.negotiated via 3 (fun t => t.respond (1 :: (sha512 t.chainBytes).map (fun b => b.toNat))))

/-- GET_CERTIFICATE (R490, R491): a portion of the chain of slot 0: the slot, the portion's length, what remains after it, its bytes. -/
def execGetCertificate (via : Src) (slot offset len : Nat) (s : State) : Host.Outcome State Fault Refusal :=
  .next (s.negotiated via 3 (fun t =>
    let c := t.chainBytes
    if slot ≠ 0 ∨ c.length ≤ offset then t.spdmError 1
    else
      let part := (c.drop offset).take len
      t.respond (0 :: part.length :: (c.length - offset - part.length) :: part.map (fun b => b.toNat))))

/-- CHALLENGE (R491, R556): the number of certificates of the chain, the digest of the chain and the signature by the key at its end. It
covers the messages of the exchange, which the commands do not carry: a free value. -/
def execChallenge (via : Src) (slot : Nat) (_nonce : List Byte) (s : State) : Host.Outcome State Fault Refusal :=
  .next (s.negotiated via 3 (fun t =>
    if slot ≠ 0 then t.spdmError 1
    else
      let d := t.freshBytes 132
      d.2.respond (t.slotCerts.length :: (sha512 t.chainBytes ++ d.1).map (fun b => b.toNat))))

/-! ## Measurements and the attestation report (R492 to R494) -/

/-- The entry of a partition (R494). -/
def State.partEntry (s : State) (p : Nat) : List Byte :=
  let b (x : Bool) (k : Nat) : Nat := if x then 2 ^ k else 0
  let n (k : Blk) : Nat := (s.unitsOf k p).length
  leBytes 1 (b (s.pstate p != 0) 0 + b (s.sealState p == 2) 1 + b (decide (p < s.vfs)) 2 + b (s.secPart p).session.isSome 3) ++
    leBytes 1 (s.get secU (Reg.sec.partKeyGen.at p)) ++ leBytes 2 (n .mt) ++ leBytes 2 (n .uc) ++ leBytes 1 (n .ae) ++
    leBytes 1 (n .ew) ++ leBytes 1 (n .shf) ++ leBytes 1 (n .xr) ++ leBytes 1 (n .smp) ++ leBytes 1 0 ++
    leBytes 2 (s.get ⟨.mem, 0⟩ (Reg.mem.regionGroups.at p)) ++ leBytes 2 0 ++
    leBytes 4 ((List.range 32).foldl (fun a i => a + b (s.ownsSlice p i) i) 0) ++
    leBytes 4 (s.get ⟨.tier, 0⟩ (Reg.tier.winSizeGib.at p)) ++ leBytes 8 (s.get hifU (Reg.hif.rmapNodes.at p)) ++
    (if s.sealState p = 2 then ((s.secPart p).header.drop 16).take 16 else List.replicate 16 0)

/-- Bytes 0x000 to 0x42F of a report of a partition, or of the module (255) (R493). -/
def State.reportBody (s : State) (p : Nat) (nonce : List Byte) : List Byte :=
  let x := s.secPart p
  let fuses := leBytes 1 (s.get secU Reg.sec.debugLifecycle) ++ leBytes 1 0 ++ leBytes 2 (s.minSvn 0) ++ leBytes 2 (s.minSvn 1) ++
    leBytes 2 (s.minSvn 2) ++ leBytes 1 (Config.fuseValue (2 ^ 40 + 2048) % 16) ++ List.replicate 23 0
  let debug := leBytes 1 (s.get secU Reg.sec.debugJtagLock) ++ leBytes 1 (s.get secU Reg.sec.debugUnlocked) ++ leBytes 2 0 ++
    leBytes 4 (s.get secU Reg.sec.debugUnlockCount) ++ leBytes 4 s.sys.unlockBoot ++ leBytes 4 0
  let tail := match x.session, decide (p < 8) with
    | some q, true => leBytes 4 q.1 ++ leBytes 1 (s.sealState p) ++ leBytes 3 0 ++
        (if s.sealState p = 2 then pad64 x.digest else List.replicate 64 0) ++ publicKey q.2
    | none, true => leBytes 4 0 ++ leBytes 1 (s.sealState p) ++ leBytes 3 0 ++
        (if s.sealState p = 2 then pad64 x.digest else List.replicate 64 0) ++ List.replicate 132 0
    | _, false => List.replicate 204 0
  leBytes 4 0x5454_4158 ++ leBytes 2 1 ++ leBytes 2 1204 ++ leBytes 1 0xA2 ++ leBytes 1 s.mode ++ leBytes 1 s.node ++ leBytes 1 p ++
    leBytes 4 (s.get bootU Reg.boot.bootCount) ++ (nonce ++ List.replicate 32 0).take 32 ++ s.chainDigest ++ romDigest ++ s.imageDigest 0 ++
    s.imageDigest 1 ++ s.imageDigest 2 ++ s.imageDigest 3 ++ fuses ++ debug ++ (List.range 8).flatMap s.partEntry ++ tail ++ leBytes 4 0

/-- A report and its signature (R493). Before stage 8 has derived Alias 2 no key is there to sign with: the signature is a free value. -/
def State.report (s : State) (p : Nat) (nonce : List Byte) : List Byte × State :=
  let b := s.reportBody p nonce
  let g := match s.signer with
    | some d => s.sign d b
    | none => s.freshBytes 132
  (b ++ g.1, (g.2.count secU 0 1).count s.mccHolder 3 1)

/-- A measurement block that a transport may ask for: DMTF's type, its bytes, and the state that has made them. -/
def State.measure (s : State) (via : Src) (index : Nat) (nonce : List Byte) : Option (Nat × List Byte × State) :=
  let own : Bool := match via with | .vf p => (decide (1 ≤ index ∧ index ≤ 5) || index == 0x80 + p) | _ => true
  let low : Bool := !s.minimal || index == 1 || index == 0xF0
  if !own || !low then none
  else if index = 1 then some (0, romDigest, s)
  else if 2 ≤ index ∧ index ≤ 4 then some (1, s.imageDigest (index - 2), s)
  else if index = 5 then some (2, s.imageDigest 3, s)
  else if 0x80 ≤ index ∧ index < 0x88 then
    let r := s.report (index - 0x80) nonce
    some (0x80, r.1, r.2)
  else if index = 0xF0 then
    let r := s.report 0xFF nonce
    some (0x80, r.1, r.2)
  else none

/-- GET_MEASUREMENTS (R492): index, type and bytes of the block; a signed response carries a signature too. An index that the transport may
not ask for gives an empty block. -/
def execGetMeasurements (via : Src) (index : Nat) (signed : Bool) (nonce : List Byte) (s : State) : Host.Outcome State Fault Refusal :=
  .next (s.negotiated via 3 (fun t =>
    let block : List Byte × State := match t.measure via index nonce with
      | some m => (leBytes 1 index ++ leBytes 1 m.1 ++ m.2.1, m.2.2)
      | none => (leBytes 1 index, t)
    let g := if signed then block.2.freshBytes 132 else ([], block.2)
    g.2.spdmAnswer via (block.1 ++ g.1)))

/-- CHUNK_GET (R491): the next chunk of a large response, which leaves 16 bytes of a transfer for its header; handle, number, last, bytes. -/
def execChunkGet (via : Src) (handle seq : Nat) (s : State) : Host.Outcome State Fault Refusal :=
  .next (s.negotiated via 2 (fun t =>
    match t.spdm.large.find? (fun l => l.1 == viaCode via && l.2.1 == handle) with
    | none => t.spdmError 1
    | some l =>
      if seq ≠ l.2.2.2 then t.spdmError 1
      else
        let n := Sparse.get (fun _ => 0) t.spdm.sizes (viaCode via) - 16
        let rest := l.2.2.1.drop n
        let others := t.spdm.large.filter (fun y => y.1 != viaCode via)
        let s1 := t.setSpdm (fun x => { x with large := if rest.isEmpty then others else others ++ [(l.1, handle, rest, seq + 1)] })
        s1.respond (handle :: seq :: (if rest.isEmpty then 1 else 0) :: (l.2.2.1.take n).map (fun b => b.toNat))))

/-! ## Secured sessions (R491) -/

/-- The first session number that no session has. -/
def State.freeSession (s : State) : Nat := ((List.range 4).find? (fun i => s.spdm.sessions.all (fun x => x.id != i))).getD 0

/-- KEY_EXCHANGE (R491): at most four sessions over all transports (SessionLimitExceeded, 0x0A). Its key comes from the random generator;
while that fails its test the draw is blocked, and the answer is ResponseNotReady (0x42) (R566). -/
def execKeyExchange (via : Src) (s : State) : Host.Outcome State Fault Refusal :=
  .next (s.negotiated via 3 (fun t =>
    if 4 ≤ t.spdm.sessions.length then t.spdmError 0x0A
    else if t.trngBad then t.spdmError 0x42
    else
      let id := t.freeSession
      let d := (t.setSpdm (fun x => { x with sessions := x.sessions ++ [⟨id, viaCode via, false, 0⟩] })).freshBytes 132
      d.2.respond (id :: d.1.map (fun b => b.toNat))))

/-- A session of a transport. -/
def State.sessionOf (s : State) (via : Src) (id : Nat) : Option SpdmSess :=
  s.spdm.sessions.find? (fun x => x.id == id && x.via == viaCode via)

/-- A request in a session whose handshake has (or has not yet) completed; one of no such session gets InvalidSession (2). -/
def State.inSession (s : State) (via : Src) (id : Nat) (live : Bool) (k : State → State) : State :=
  if !s.heard via then s.respond []
  else
    match s.sessionOf via id with
    | some x => if x.live = live then k s else s.spdmError 4
    | none => s.spdmError 2

/-- Changes a session. -/
def State.setSession (s : State) (id : Nat) (f : SpdmSess → SpdmSess) : State :=
  s.setSpdm (fun r => { r with sessions := r.sessions.map (fun x => if x.id = id then f x else x) })

/-- FINISH (R491): the session is established. -/
def execFinish (via : Src) (id : Nat) (s : State) : Host.Outcome State Fault Refusal :=
  .next (s.inSession via id false (fun t => ((t.setSession id (fun x => { x with live := true })).count secU 1 1).respond [0]))

/-- SPDM_HEARTBEAT (R491). -/
def execSpdmHeartbeat (via : Src) (id : Nat) (s : State) : Host.Outcome State Fault Refusal :=
  .next (s.inSession via id true (fun t => t.respond [0]))

/-- KEY_UPDATE (R491): the session's keys are drawn anew. -/
def execKeyUpdate (via : Src) (id : Nat) (s : State) : Host.Outcome State Fault Refusal :=
  .next (s.inSession via id true (fun t => (t.setSession id (fun x => { x with updates := x.updates + 1 })).respond [0]))

/-- END_SESSION (R491). -/
def execEndSession (via : Src) (id : Nat) (s : State) : Host.Outcome State Fault Refusal :=
  .next (s.inSession via id true (fun t => (t.setSpdm (fun r => { r with sessions := r.sessions.filter (fun x => x.id != id) })).respond [0]))

/-- IDE_KM (R373): over Secured CMA/SPDM on the PF alone; stream 0 is CXL.io's, 1 CXL.cachemem's. LINK.IDE_ON tells that keys of a stream are
installed and in use. -/
def execIdeKm (via : Src) (id stream : Nat) (on : Bool) (s : State) : Host.Outcome State Fault Refusal :=
  .next (
    if via ≠ .pf then (if s.heard via then s.spdmError 7 else s.respond [])
    else s.inSession via id true (fun t =>
      if 2 ≤ stream then t.spdmError 1
      else
        let m := setBits t.spdm.ideSet stream 1 (if on then 1 else 0)
        ((t.setSpdm (fun x => { x with ideSet := m })).put hifU Reg.hif.linkIdeOn (if m = 0 then 0 else 1)).respond [0]))

end Sys2Proof.Machine
end

