-- ==== Sys2Proof/Machine/Units.lean ====
section
/-!
DEFINITION. The common controls of a page (R33, R39 to R46, R639): ENABLE, FREEZE, EXPERT_EN and FORCE with what they do on each block
(R258, R300, R333, R363, R412, R441, R481, R482), drains and break points, faults, interrupts, the error log, snapshots of counters.
-/
namespace Sys2Proof.Machine

/-! ## Who reaches a page (R33, R556) -/

/-- Pages that are present in minimal mode (R556). -/
def minimalBlks : List Blk := [.mcc, .aon, .boot, .sec, .mgt, .hif]

/-- A page that a source may write (R33, R35): the module runs, the page is present, and a VF writes only units of its partition. -/
def State.mayWrite (s : State) (src : Src) (u : UnitId) : Bool :=
  s.awake && u.valid && (!s.minimal || minimalBlks.contains u.blk) &&
    (match src with
    | .vf p => decide (p < s.vfs) && !s.minimal && s.partOfUnit u == some p && !singleton u.blk
    | _ => true)
where
  /-- Pages that a VF reads and does not write. -/
  singleton (b : Blk) : Bool := decide (blkBase b < 0x40) || b == .dlr || b == .pge || b == .ctu || b == .hif

/-- A page that a source reads as present (R33, R35). -/
def State.mayRead (s : State) (src : Src) (u : UnitId) : Bool :=
  s.awake && u.valid && (!s.minimal || minimalBlks.contains u.blk) &&
    (match src with
    | .vf p => decide (p < s.vfs) && !s.minimal &&
        (s.partOfUnit u == some p || ((decide (blkBase u.blk < 0x40) || u.blk == .dlr || u.blk == .pge || u.blk == .ctu) && u.blk != .hif))
    | _ => true)

/-! ## Draining (R43, R44) -/

/-- A packet that waits to be injected through a router (R441); TC0 traffic is not stopped. -/
def State.heldAt (s : State) (u : UnitId) (p : Pkt) : Bool :=
  p.tc != 0 && (match s.routing p with
    | .port k => routerOf k == u
    | .wait => true
    | _ => false)

/-- A unit has no work in flight and stands at a break point (R41, R258, R363, R412, R441, R481). -/
def State.idle (s : State) (u : UnitId) : Bool :=
  match u.blk with
  | .dlr => u != s.dealer || s.stepless
  | .tbl => (s.bank u).moving.isNone
  | .bvl => !s.linkUp u.ix || (s.linkState u.ix == lkActive && (s.link u.ix).retry.isEmpty)
  | .bvf => s.net.inj.all (fun p => !s.heldAt u p)
  | .ce => (s.unit u).queue.isEmpty && s.coll.all (fun c => c.engine != u.ix)
  | _ => s.drained u

/-- DEGRADED of each page engine (R333): it serves both dies while the other is disabled or has failed. -/
def State.pageService (s : State) : State :=
  [0, 1].foldl (fun t i =>
    let u : UnitId := ⟨.pge, i⟩
    let st := t.ustate ⟨.pge, 1 - i⟩
    let d : Bool := t.ustate u == stRunning && (st == stDraining || st == stQuiesced || st == stFaulted || st == stVacant)
    if d == t.flag u Reg.pge.serveDegraded then t
    else if d then (t.put u Reg.pge.serveDegraded 1).irq u (2 ^ 18)
    else t.put u Reg.pge.serveDegraded 0) s

/-- A page engine fails or is disabled: the migrations past QUEUED of the partitions at home there end ABORTED (R333). One that has already
switched to its destination has nothing left to abort. -/
def State.pgeAborts (s : State) (e : Nat) : State :=
  (List.range 8).foldl (fun t p =>
    if t.get ⟨.pge, 0⟩ (Reg.pge.partHome.at p) ≠ e then t
    else ((t.pgePart p).migs.filter (fun m => m.st == .copying)).foldl (fun x m => x.abortMig p m) t) s

/-- A unit accepts work again, after a freeze or a disable: what waited at it goes on. -/
def State.resumes (s : State) (u : UnitId) : State :=
  match u.blk with
  | .tbl => (s.grant u).goesOn
  | .mem => (s.releaseMem u (fun t r n => t.memRequest u r n)).goesOn
  | .tier => (s.releaseMem u (fun t r n => t.tierRequest u r n)).goesOn
  | .pge => s.pageService
  | .bvl => if s.ustate u = stRunning ∧ s.linkState u.ix = lkOff then s.setLinkState u.ix lkDetect else s
  | _ => s

/-- A draining unit reaches QUIESCED, or RUNNING when an enable is pending (R43). -/
def State.drainEnds (s : State) (u : UnitId) : State :=
  if s.ustate u ≠ stDraining || !s.idle u then s
  else
    match u.blk with
    | .bvl =>
      let s1 := if s.linkState u.ix = lkActive then s.sendControl u.ix .goodbye [] else s
      (s1.setLink u.ix (fun l => { l with leaving := false })).portOff u.ix
    | .ce =>
      let s1 := s.quiesce u
      let o := ceU (partnerOf u.ix)
      if s1.ustate u = stQuiesced ∧ s1.ustate o = stRunning then s1.irq o (2 ^ 20) else s1
    | _ =>
      let s1 := s.quiesce u
      if s1.ustate u = stRunning then s1.resumes u else s1

/-- UNIT_DRAIN_COMPLETE (R43). -/
def execUnitDrainComplete (u : UnitId) (s : State) : Host.Outcome State Fault Refusal :=
  .next (if !u.valid then s else s.drainEnds u)

/-! ## FORCE and break points (R44, R91) -/

/-- FORCE at a collective engine (R481): its collectives with BPP = INTERNAL and the lanes it has not accepted end ABORTED_DISABLED, and a
CANCEL goes out for each group that lost one. -/
def State.ceAbort (s : State) (u : UnitId) : State :=
  let dying := s.coll.filter (fun c => c.engine == u.ix && c.lane.bpp == 2)
  let s1 := dying.foldl (fun t c => t.endColl c 7) s
  let s2 := (s1.unaccepted u.ix).foldl (fun t l => t.endCeLane u.ix l 7) s1
  ((dying.map (fun c => c.group)).dedup).foldl (fun t g =>
    t.cancelAt g (((dying.find? (fun c => c.group == g)).map (fun c => c.seq)).getD (t.cancelFrom g))) s2

/-- FORCE takes effect on a unit that drains, for what needs no break point of a lane. -/
def State.forceNow (s : State) (u : UnitId) : State :=
  if !s.forced u then s
  else
    match u.blk with
    | .dlr => if u != s.dealer then s
        else s.journaled (fun t => (List.range 8).foldl (fun t p => if (t.part p).step.isSome then t.abandonStep p else t) t)
    | .bvl =>
      if s.linkUp u.ix then (s.setLink u.ix (fun l => { l with leaving := true })).goDown u.ix 3 else s.portOff u.ix
    | .bvf =>
      (s.net.inj.filter (s.heldAt u)).foldl (fun t p => (t.takePacket none p).unroutable u none p lossUnroutable) s
    | _ => s

/-- BREAK_POINT_ABORT (R44, R91): a unit under FORCE reaches a break point. -/
def execBreakPointAbort (u : UnitId) (s : State) : Host.Outcome State Fault Refusal :=
  if !u.valid then .next s
  else .next (if u.blk = .ce then (if s.forced u then s.ceAbort u else s) else s.breakPoint u)

/-! ## The controls (R40, R46) -/

/-- ENABLE is cleared: a RUNNING unit drains, and a pending enable is withdrawn (R43, R44). -/
def State.enableClear (s : State) (u : UnitId) : State :=
  if !disableable u.blk then s
  else
    let s1 := (s.put u Reg.common.enable 0).put u Reg.common.enablePending 0
    if s1.ustate u ≠ stRunning then s1.forceNow u
    else
      let s2 := s1.setState u stDraining
      let s3 : State := match u.blk with
        | .dlr => if u != s.dealer && s2.roleOf 0 u.ix == 1 then s2.dummyOut 0 else s2
        | .pge => (s2.pgeAborts u.ix).pageService
        | .bvl => if s2.linkState u.ix = lkRecovering then s2.setLink u.ix (fun l => { l with leaving := true }) else s2
        | _ => s2
      s3.forceNow u

/-- ENABLE is set (R43, R44). -/
def State.enableSet (s : State) (u : UnitId) : State :=
  if !disableable u.blk then s
  else
    let s1 := s.put u Reg.common.enable 1
    if s1.ustate u = stDraining then s1.put u Reg.common.enablePending 1
    else if s1.ustate u = stQuiesced then (s1.setState u stRunning).resumes u
    else s1

/-- FREEZE is written: a unit that takes work again gets what waited (R40). -/
def State.freezeTo (s : State) (u : UnitId) (on : Bool) : State :=
  let s1 := s.put u Reg.common.freeze (if on then 1 else 0)
  if on then s1 else s1.resumes u

/-- FORCE is written (R40, R44). A unit in QUIESCED has nothing to abort and clears it at once (log: DEDUCED). -/
def State.forceTo (s : State) (u : UnitId) (on : Bool) : State :=
  if !disableable u.blk then s
  else
    let s1 := s.put u Reg.common.force (if on && s.ustate u != stQuiesced then 1 else 0)
    if on then s1.forceNow u else s1

/-- The MCC's expert policy grants a writer access to a page's block type (R46, R565). -/
def State.expertGranted (s : State) (src : Src) (b : Blk) : Bool :=
  match src with
  | .pf => bit (s.get ⟨.mcc, 0⟩ Reg.mcc.policyPfExpert) (blkCode b)
  | .mgmt => bit (s.get ⟨.mcc, 0⟩ Reg.mcc.policyMgtExpert) (blkCode b)
  | .vf _ => false
  | .mcc => true

/-- EXPERT_EN is written (R33, R46): a denied 1 is ignored, and logged for the PF and the management port. -/
def State.expertTo (s : State) (u : UnitId) (src : Src) (on : Bool) : State :=
  if !on then s.put u Reg.common.expertEn 0
  else if s.expertGranted src u.blk then s.put u Reg.common.expertEn 1
  else
    match src with
    | .pf => s.eventM none 0x5004 u.page 0
    | .mgmt => s.eventM none 0x5004 u.page 1
    | _ => s

/-- A command on a page by a source that may write it. -/
def State.onPage (s : State) (u : UnitId) (src : Src) (k : State → State) : Host.Outcome State Fault Refusal :=
  .next (if !u.valid then s else if s.mayWrite src u then k s else s)

/-- CTRL_ENABLE_CLEAR (R44). -/
def execCtrlEnableClear (u : UnitId) (src : Src) (s : State) : Host.Outcome State Fault Refusal := s.onPage u src (fun t => t.enableClear u)

/-- CTRL_ENABLE_SET (R43). -/
def execCtrlEnableSet (u : UnitId) (src : Src) (s : State) : Host.Outcome State Fault Refusal := s.onPage u src (fun t => t.enableSet u)

/-- CTRL_FREEZE (R40). -/
def execCtrlFreeze (u : UnitId) (src : Src) (on : Bool) (s : State) : Host.Outcome State Fault Refusal :=
  s.onPage u src (fun t => t.freezeTo u on)

/-- CTRL_FORCE (R44). -/
def execCtrlForce (u : UnitId) (src : Src) (s : State) : Host.Outcome State Fault Refusal := s.onPage u src (fun t => t.forceTo u true)

/-- CTRL_EXPERT_EN (R46): a write of 1. -/
def execCtrlExpertEn (u : UnitId) (src : Src) (s : State) : Host.Outcome State Fault Refusal :=
  s.onPage u src (fun t => t.expertTo u src true)

/-! ## Faults (R43, R83, R333, R441, R482) -/

/-- The partner takes over a faulted engine's groups, and sends CANCEL for each that had a collective outstanding (R482). -/
def State.ceTakeover (s : State) (u : UnitId) : State :=
  let o := ceU (partnerOf u.ix)
  let mine := s.coll.filter (fun c => c.engine == u.ix)
  if s.ustate o = stRunning then
    let s1 := ((mine.map (fun c => c.group)).dedup).foldl (fun t g => t.cancelGroup g) s
    (s1.irq o (2 ^ 20)).eventM (some u) 0x8004 (fmtN s.node 0 0 u.ix 0) 0
  else mine.foldl (fun t c => t.endColl c 9) s

/-- Some top numbers of a free list, up to 63, leave it (R333): how many is open. -/
def dropFree (g : PgePart) (t n : Nat) : PgePart :=
  (List.range n).foldl (fun (x : PgePart) _ =>
    match (x.freeList t).pop with
    | none => x
    | some r => { x.setFree t r.2 with gone := x.gone ++ [r.1] }) g

/-- A page engine has failed (R332, R333): list numbers on its chip are lost, its migrations end ABORTED, and the sweep starts. -/
def State.pgeLost (s : State) (e : Nat) : State :=
  (List.range 8).foldl (fun t p =>
    let t1 := t.startSweep p
    if t.get ⟨.pge, 0⟩ (Reg.pge.partHome.at p) ≠ e then t1
    else
      let f := t1.fresh
      let n := f.1 % 64
      f.2.setPge p (fun g => dropFree (dropFree (dropFree g 0 n) 1 n) 2 n)) ((s.pgeAborts e).pageService)

/-- UNIT_FAULT (R43): the unit's lanes end UNIT_FAULT, and the MCC starts its retirement. -/
def State.unitFault (s : State) (u : UnitId) : State :=
  let st := s.ustate u
  if st = stOff ∨ st = stVacant ∨ st = stFaulted then s
  else
    let s1 := s.faultUnit u 3
    match u.blk with
    | .pge => s1.pgeLost u.ix
    | .ce => s1.ceTakeover u
    | .bvf =>
      let f := s1.fresh
      (List.range 12).foldl (fun t i => t.goDown (12 * u.ix + i) (f.1 % 8)) f.2
    | .bvl =>
      let f := s1.fresh
      f.2.goDown u.ix (f.1 % 8)
    | .tbl | .mem => s1.goesOn
    | _ => s1

/-- UNIT_FAULT (R43). -/
def execUnitFault (u : UnitId) (s : State) : Host.Outcome State Fault Refusal :=
  .next (if !u.valid then s else s.unitFault u)

/-! ## Interrupts, error log and counters (R45, R639) -/

/-- How many block-specific interrupt bits a block has, from bit 16 on. -/
def irqCount : Blk → Nat
  | .mcc => 3 | .aon => 2 | .boot => 4 | .sec => 4 | .pwr => 5 | .thm => 5 | .clk => 2 | .spr => 5 | .mgt => 4 | .dlr => 6 | .hif => 5
  | .pge => 4 | .ctu => 2 | .mt => 3 | .ae => 2 | .ew => 1 | .shf => 2 | .xr => 2 | .smp => 2 | .uc => 3 | .tbl => 3 | .mem => 4
  | .tier => 3 | .bvl => 5 | .bvf => 6 | .ce => 6 | .dma => 2

/-- The interrupt bits of a block that are not reserved. -/
def irqBits (b : Blk) : Nat := 15 + (2 ^ irqCount b - 1) * 2 ^ 16

/-- Clears bits of IRQ_STATUS. -/
def State.irqClear (s : State) (u : UnitId) (mask : Nat) : State :=
  let old := s.get u Reg.common.irqStatus
  s.put u Reg.common.irqStatus (old - (old &&& mask))

/-- IRQ_STATUS_CLEAR (R45). -/
def execIrqStatusClear (u : UnitId) (src : Src) (mask : Nat) (s : State) : Host.Outcome State Fault Refusal :=
  s.onPage u src (fun t => t.irqClear u mask)

/-- IRQ_FORCE (R45). -/
def execIrqForce (u : UnitId) (src : Src) (mask : Nat) (s : State) : Host.Outcome State Fault Refusal :=
  s.onPage u src (fun t => t.irq u (mask &&& irqBits u.blk))

/-- Counters of cycles, of times, and of events of which no command tells: what they have counted is free (log entry 7). -/
def timedCounter (b : Blk) (k : Nat) : Bool :=
  match b with
  | .mt => [1, 2, 3, 4].contains k
  | .ae => [5, 6].contains k
  | .ew => [2, 3].contains k
  | .uc => [1, 2, 3, 6, 7].contains k
  | .clk => [0, 1, 3].contains k
  | .tbl => k == 9
  | .mem => k == 10
  | .tier => k == 8
  | .dlr => k == 12
  | .pge => k == 1
  | .hif => k == 11
  | .bvl => k == 2
  | .mgt => k == 4
  | _ => false

/-- Copies the counts of a page into its read values and freezes them. -/
def State.takeSnapshot (s : State) (u : UnitId) : State :=
  let n := numCounters u.blk
  let v (k : Nat) : Nat := if timedCounter u.blk k then (Config.freeValue (s.freeIdx + k)).toNat else s.live u k
  let s1 := { s with
    snaps := (List.range n).foldl (fun m k => Sparse.set (fun _ => 0) m (counterKey u.page k) (v k)) s.snaps
    freeIdx := if (List.range n).any (timedCounter u.blk) then s.freeIdx + n else s.freeIdx }
  s1.put u Reg.common.frozen 1

/-- Zeroes the live counts of a page; without a snapshot in the same write its read values follow them again. -/
def State.clearCounts (s : State) (u : UnitId) (withSnapshot : Bool) : State :=
  let zero (m : Sparse Nat) : Sparse Nat := m.filter (fun e => e.1 / 32 != u.page)
  let s1 := { s with counts := zero s.counts }
  if withSnapshot then s1 else ({ s1 with snaps := zero s1.snaps } : State).put u Reg.common.frozen 0

/-- The value that a read shows where a measurement or a count that no rule fixes stands behind it: the next free value. -/
def State.openValue (s : State) : Nat := (Config.freeValue s.freeIdx).toNat

/-- A counter's read value (R639). -/
def State.readCount (s : State) (u : UnitId) (k : Nat) : Nat :=
  if s.flag u Reg.common.frozen then Sparse.get (fun _ => 0) s.snaps (counterKey u.page k)
  else if timedCounter u.blk k then s.openValue
  else s.live u k

/-- SNAPSHOT (R639). -/
def execSnapshot (u : UnitId) (src : Src) (s : State) : Host.Outcome State Fault Refusal := s.onPage u src (fun t => t.takeSnapshot u)

/-- CLEAR (R639); with SNAPSHOT in the same write the snapshot is taken first. -/
def execClear (u : UnitId) (src : Src) (withSnapshot : Bool) (s : State) : Host.Outcome State Fault Refusal :=
  s.onPage u src (fun t => (if withSnapshot then t.takeSnapshot u else t).clearCounts u withSnapshot)

end Sys2Proof.Machine
end

