-- ==== Sys2Proof/Machine/View.lean ====
section
/-!
DEFINITION. What a read of a register returns (R9, R31, R36, R41): the stored value of most fields, and for those that show how
something else stands, that thing: lanes that run, free lists, the retirement map, clocks, the windows of reports.
-/
namespace Sys2Proof

/-- A field stands at the place of another. -/
def Field.is (f g : Field) : Bool := f.off == g.off && f.lo == g.lo

end Sys2Proof

namespace Sys2Proof.Machine

/-! ## Common fields (R41, R48) -/

/-- The partitions that a page engine serves (R310, R333, R336). -/
def State.servedBy (s : State) (u : UnitId) : List Nat := (List.range 8).filter (fun p => s.homePge p == u)

/-- INFLIGHT (R41): lanes, requests, packets, collectives or migrations that a unit holds. -/
def State.inflight (s : State) (u : UnitId) : Nat :=
  match u.blk with
  | .dlr => if u = s.dealer then ((List.range 8).map (fun p => (s.issued p).length)).sum else 0
  | .tbl => (s.bank u).waiting.length + (if (s.bank u).moving.isSome then 1 else 0)
  | .mem | .tier => ((s.memWait ++ s.tierOut).filter (fun e => e.1 / 512 == u.page)).length
  | .hif => s.readsOut
  | .bvl => (s.link u.ix).retry.length
  | .bvf => (s.net.inj.filter (s.heldAt u)).length + (s.net.inq.filter (fun e => routerOf e.1 == u)).length
  | .ce => (s.coll.filter (fun c => c.engine == u.ix)).length + (s.unaccepted u.ix).length
  | .pge => (s.unit u).queue.length + s.migsInflight u
  | _ => (s.unit u).queue.length

/-- DRAINED (R41, R363): a frozen unit has no work left and stands at a break point. -/
def State.drainedNow (s : State) (u : UnitId) : Bool :=
  s.frozen u && !s.inChain u &&
    (if u = s.dealer then
      (List.range 8).all (fun p => (s.part p).slots.all (fun x => x.st != .admitted && x.st != .prefill && x.st != .decode))
    else s.idle u)

/-! ## Fields of the blocks -/

/-- The running lane of a unit, at the place of its CUR fields (R130, R159, R194, R217, R239, R302). -/
def State.curView (s : State) (u : UnitId) (off : Nat) (f : Field) : Option Nat :=
  if f.off ≠ off then none
  else
    let l := (s.unit u).queue.head?
    if f.lo = 0 then some ((l.map (fun l => l.opcode)).getD 0)
    else if f.lo = 8 then some ((l.map (fun l => l.lane)).getD 0)
    else if f.lo = 16 then some ((l.map (fun l => l.stepTag)).getD 0)
    else if f.lo = 21 then some (s.unit u).queue.length
    else none

/-- Passes, rows, entries or units of the running lane (R130, R159, R194, R217): it acts in one command, so it has done none or all of
them. -/
def State.progressView (s : State) (u : UnitId) (off : Nat) (f : Field) : Option Nat :=
  if f.off ≠ off then none
  else
    match (s.unit u).queue with
    | [] => some 0
    | l :: _ => if f.lo = 16 ∨ l.status.isSome then some (min 0xFFFF (s.laneWork l)) else some 0

/-- MiB of a DMA engine's running lane (R302): a remote lane has moved what has been answered. -/
def State.dmaView (s : State) (u : UnitId) (f : Field) : Option Nat :=
  if f.is Reg.dma.remoteInflight then
    some (min 512 ((s.net.reqs.filter (fun r => r.engine == u.ix && r.live && decide (r.kind < 2))).foldl (fun a r =>
      a + max 1 ((max r.len r.data.length + 255) / 256)) 0))
  else if f.off ≠ 0x104 then none
  else
    match (s.unit u).queue with
    | [] => some 0
    | l :: _ =>
      let o := l.dma
      let r := l.share o.m
      let all := (r.2 - r.1) * o.n
      let moved := match l.status, (s.unit u).dma with
        | some _, _ => all
        | none, some d => ((s.dmaPieces l).take d.acked).foldl (fun a c => a + c.len) 0
        | none, none => 0
      some (min 0xFFFF (if f.lo = 0 then moved / 2 ^ 20 else (all + 2 ^ 20 - 1) / 2 ^ 20))

/-- Clock and age of a tile or cluster (R130, R239). -/
def State.clockView (s : State) (u : UnitId) (freq age : Field) (f : Field) : Option Nat :=
  if f.is freq then some (s.clock u)
  else if f.is age then some (min 0xFFFF ((s.now - Sparse.get (fun _ => 0) s.pwr.agedAt u.page) / 60_000_000_000))
  else none

/-- An entry of the Discard as R571 lays it out. -/
def DiscardEnt.bits64 (e : DiscardEnt) : Nat := e.type % 65536 + e.inst % 4096 * 2 ^ 16 + e.reason % 16 * 2 ^ 28 + e.boot % 2 ^ 32 * 2 ^ 32

/-- The block of a type code. -/
def blkOfCode (c : Nat) : Option Blk := blkAll.find? (fun b => blkCode b == c)

/-- The SPR page (R591). -/
def State.sprView (s : State) (f : Field) : Option Nat :=
  if f.is Reg.spr.discardUsed then some s.talon.discard.length
  else if f.is Reg.spr.discardOverflow then some s.talon.overflow.length
  else if f.is Reg.spr.discardEntry then
    some ((s.talon.discard[s.get sprU Reg.spr.discardIndex]?.map DiscardEnt.bits64).getD 0)
  else
    match f.ixOf Reg.spr.map with
    | none => none
    | some i =>
      let l := s.get sprU Reg.spr.mapselBase / 128 * 128 + i
      match blkOfCode (s.get sprU Reg.spr.mapselType) with
      | none => some 0xFFFF
      | some b => some (if l < blkLogical b then s.physOf b l else 0xFFFF)

/-- The levels of the sideband pins (R622). -/
def State.sidebandLevels (s : State) : Nat :=
  let b (x : Bool) (k : Nat) : Nat := if x then 2 ^ k else 0
  b (!s.sys.cmp.pin) 0 + b (!s.flag pwrU Reg.pwr.statThrot) 1 + b (s.flag pwrU Reg.pwr.statRamp) 2 + b s.sys.coolant 3 +
    b s.sys.pwrEn 4 + b (s.flag pwrU Reg.pwr.statSyncOk) 5 + b s.sys.refclk 6 + b (s.get mgtU Reg.mgt.alertCause != 0) 7

/-- A page engine (R336): SERVE.PARTS, its migrations, free frames. -/
def State.pgeView (s : State) (u : UnitId) (f : Field) : Option Nat :=
  let freeOf (t : Nat) (g : Field) : Option Nat := (f.ixOf g).map (fun p => ((s.pgePart p).freeList t).count)
  if f.is Reg.pge.serveParts then some (((s.servedBy u).map (fun p => 2 ^ p)).sum)
  else if f.is Reg.pge.migInflight then some (s.migsInflight u)
  else if f.is Reg.pge.opsInflight then some (min 0xFFFF (s.unit u).queue.length)
  else ((freeOf 0 Reg.pge.partFreeT0).or (freeOf 1 Reg.pge.partFreeT1)).or (freeOf 2 Reg.pge.partFreeT2)

/-- A Dealer (R370). -/
def State.dlrView (s : State) (f : Field) : Option Nat :=
  if f.is Reg.dlr.journalLag then some (min 0xFFFF s.held.length)
  else if f.is Reg.dlr.cmdSlotsFree then some (8192 - ((List.range 8).map s.slotsUsed).sum)
  else if f.is Reg.dlr.granulesFree then some s.granulesFree.length
  else ((f.ixOf Reg.dlr.partActiveSlots).map (fun p => (s.part p).slots.length)).or
    ((f.ixOf Reg.dlr.partQueued).map (fun p => (s.part p).queue.length))

/-- What a field shows where that is not its stored value. -/
def State.view (s : State) (u : UnitId) (f : Field) : Option Nat :=
  if f.is Reg.common.drained then some (if s.drainedNow u then 1 else 0)
  else if f.is Reg.common.inflight then some (min 0xFFFF (s.inflight u))
  else if f.off = 0xF00 then some (bits (s.shadowWord u) f.lo f.width)
  else if f.off < 0x100 then none
  else
    match u.blk with
    | .mt => ((s.clockView u Reg.mt.freqCurMhz Reg.mt.ageMeasAgeMin f).or (s.curView u 0x110 f)).or (s.progressView u 0x114 f)
    | .ae | .ew | .shf | .xr | .smp => (s.curView u 0x100 f).or (s.progressView u 0x104 f)
    | .uc => ((s.clockView u Reg.uc.freqCurMhz Reg.uc.ageMeasAgeMin f).or (s.curView u 0x100 f)).or
        (if f.is Reg.uc.runUnits then some (if (s.unit u).kernel.isSome then s.openValue % 2 ^ 32 else 0) else none)
    | .dma => (s.curView u 0x100 f).or (s.dmaView u f)
    | .tbl =>
      if f.is Reg.tbl.mapLogical then some ((s.logicalOf u).getD 0x7FF)
      else if f.is Reg.tbl.resvHeld then
        some ((s.resv.filter (fun r => (s.logicalOf u) == some (s.bankOf (r.granule * 64 % 2 ^ 48)).1)).length)
      else if f.is Reg.tbl.injectCe then some (if s.hurt.armed.contains (u, 0) then 1 else 0)
      else if f.is Reg.tbl.injectUe then some (if s.hurt.armed.contains (u, 1) then 1 else 0)
      else none
    | .mem =>
      if f.is Reg.mem.mapLogical then some ((s.logicalOf u).getD 0x7F)
      else if f.is Reg.mem.injectEdc then some (if s.hurt.armed.contains (u, 2) then 1 else 0)
      else if f.is Reg.mem.injectTag then some (if s.hurt.armed.contains (u, 3) then 1 else 0)
      else none
    | .tier =>
      if f.is Reg.tier.outInflight then some (s.tagsUsed u)
      else if f.is Reg.tier.injectTag then some (if s.hurt.armed.contains (u, 3) then 1 else 0)
      else none
    | .pge => s.pgeView u f
    | .dlr => s.dlrView f
    | .ce =>
      let o := ceU (partnerOf u.ix)
      let out : Bool := s.ustate o == stFaulted || s.ustate o == stQuiesced
      if f.is Reg.ce.activeServingPartner then some (if out && s.ustate u == stRunning then 1 else 0)
      else if f.is Reg.ce.activePartnerOut then some (if out then 1 else 0)
      else none
    | .pwr => if f.is Reg.pwr.statLimiterDie then some (s.holderDie 2) else none
    | .clk =>
      if f.is Reg.clk.gatedTiles then some ((List.range 264).countP (fun i => s.atRest ⟨.mt, i⟩))
      else if f.is Reg.clk.gatedClusters then some ((List.range 32).countP (fun c => s.atRest ⟨.uc, 33 * c⟩))
      else none
    | .bvf =>
      if f.is Reg.bvf.epochDrainCount then
        some (match s.draining with | none => 0 | some v => sat 0xFFFF (s.awaited.length + s.oldHeld v))
      else none
    | .aon =>
      if f.is Reg.aon.vinMv then some (s.openValue % 65536)
      else if f.is Reg.aon.xtalPpm then some (if s.sys.refclk then s.openValue % 256 else 0)
      else none
    | .spr => s.sprView f
    | .hif => if s.minimal && decide (0x108 ≤ f.off) && !decide (0x280 ≤ f.off ∧ f.off < 0x300) then some 0 else none
    | .mgt =>
      if f.is Reg.mgt.wdtSinceHb then some (min 0xFFFF (s.mgt.hbNs / 10_000_000))
      else if f.is Reg.mgt.sidebandLevels then some s.sidebandLevels
      else none
    | _ => none

/-! ## Words -/

/-- The value a read of a field returns: command bits and write-only fields read zero, injection bits until the event has occurred (R9). -/
def State.readField (s : State) (u : UnitId) (f : Field) : Nat :=
  match s.view u f with
  | some v => v % 2 ^ f.width
  | none => if f.acc = .wo then 0 else s.get u f

/-- The 32 bits at an offset of a run of bytes. -/
def wordOfBytes (d : List Byte) (off : Nat) : Nat := leNat ((d.drop off).take 4)

/-- The 32-bit word at an offset of a present page. -/
def State.pageWord (s : State) (u : UnitId) (off : Nat) : Nat :=
  if 0xE00 ≤ off ∧ off < 0xE00 + 8 * numCounters u.blk then
    bits (s.readCount u ((off - 0xE00) / 8)) (off % 8 * 8) 32
  else if u.blk = .boot ∧ 0x180 ≤ off ∧ off < 0x2C0 then wordOfBytes s.sys.cur.bytes (off - 0x180)
  else if u.blk = .boot ∧ 0x2C0 ≤ off ∧ off < 0x400 then wordOfBytes s.sys.prev.bytes (off - 0x2C0)
  else if u.blk = .spr ∧ 0x140 ≤ off ∧ off < 0x280 then wordOfBytes s.sys.health (off - 0x140)
  else if u.blk = .bvf ∧ 0x600 ≤ off ∧ off < 0x780 then wordOfBytes (telemBytes s.net.telem) (off - 0x600)
  else (fieldsAt u.blk off).foldl (fun a f =>
    let p := f.part off
    a + bits (s.readField u f) p.2.1 p.2.2 * 2 ^ p.1) 0

/-- What a read of the word changes: fields that are clear on read (R9), the free value that it may have shown, and ALERT_N once the
management port has read the boot report (R618). -/
def State.readSide (s : State) (src : Src) (u : UnitId) (off : Nat) : State :=
  let s1 := ((fieldsAt u.blk off).filter (fun f => f.acc == .rc)).foldl (fun t f => t.put u f 0) { s with freeIdx := s.freeIdx + 1 }
  if src = .mgmt ∧ u.blk = .boot ∧ 0x180 ≤ off ∧ off < 0x2C0 then s1.alert 3 false else s1

/-- An aligned 32-bit read of a page by a source: absent pages read zero (R33, R35). -/
def State.readWord (s : State) (src : Src) (page off : Nat) : Nat × State :=
  match unitOfPage page with
  | none => (0, s)
  | some u => if 4096 ≤ off || !s.mayRead src u then (0, s) else (s.pageWord u off, s.readSide src u off)

/-- A read over BAR0 (R31): 32 bits aligned to 4 bytes; 64 bits aligned to 8, of which both halves stand at one instant; any other read
acts as an aligned read of the word that holds its first byte, and returns that word's bytes at the positions inside the word and zero
at the others. -/
def State.busRead (s : State) (src : Src) (addr size : Nat) : List Byte × State :=
  let page := addr / 0x1000
  let off := addr % 0x1000
  if size = 8 ∧ addr % 8 = 0 then
    (leBytes 4 (s.readWord src page off).1 ++ leBytes 4 (s.readWord src page (off + 4)).1,
      ((s.readWord src page off).2.readWord src page (off + 4)).2)
  else
    let r := s.readWord src page (off / 4 * 4)
    let d := leBytes 4 r.1
    ((List.range size).map (fun i => d.getD (addr % 4 + i) 0), r.2)

/-- ERR_LOG_READ (R31, R45): a 64-bit read of ERR_LOG, whose COUNT it clears. A page that is absent reads zero. -/
def execErrLogRead (u : UnitId) (src : Src) (s : State) : Host.Outcome State Fault Refusal :=
  .next (
    if !u.valid then s.respond [0]
    else
      let r := s.busRead src (u.base + 0x20) 8
      r.2.respond [leNat r.1])

/-- Consecutive words. -/
def State.readWords (s : State) (src : Src) (page off : Nat) : Nat → List Nat × State
  | 0 => ([], s)
  | n + 1 =>
    let r := s.readWord src page off
    let q := State.readWords r.2 src page (off + 4) n
    (r.1 :: q.1, q.2)

/-- REG_READ (R612): up to 16 words; another count is answered with nothing. -/
def execRegRead (page off count : Nat) (s : State) : Host.Outcome State Fault Refusal :=
  .next (s.served (fun t =>
    if count = 0 ∨ 16 < count then t.respond []
    else
      let r := t.readWords .mgmt page (off / 4 * 4) count
      r.2.respond r.1))

end Sys2Proof.Machine
end

