-- ==== Sys2Proof/Machine/Registers.lean ====
section
/-!
DEFINITION. Writes of registers (R9 to R11, R30 to R35, R46, R47, R376, R388, R612): which fields a write reaches, who may write each, what
the command bits start, and the three commands REGISTER_WRITE, RWT_WRITE and REG_WRITE.
-/
namespace Sys2Proof.Machine

/-- The state after a command's meaning, where it answers one. -/
def State.after (s : State) (k : State → Host.Outcome State Fault Refusal) : State :=
  match k s with
  | .next t => t
  | _ => s

/-- What became of a write of one field. -/
inductive Taken where
  /-- it took effect -/
  | ok
  /-- a shadow took it -/
  | shadow
  /-- R9, R10 or a rule of the field dropped it -/
  | ignored
  /-- R578: a transactional field, from a path that is not the opener -/
  | foreign
  /-- R46 or the session rule of R612 refused it -/
  | denied
  deriving DecidableEq, Repr

/-! ## Command bits (R9) -/

/-- The mailbox command in MBOX.CMD starts (R500). -/
def State.mailbox (s : State) (src : Src) : State :=
  let c := s.get secU Reg.sec.mboxCmd
  let p := s.get secU Reg.sec.mboxPart
  let a := s.get secU Reg.sec.mboxArg0
  let b := s.get secU Reg.sec.mboxArg1
  s.after (fun t => match c with
    | 1 => execSessionOpen src p t
    | 2 => execSessionClose src p t
    | 3 => execImportBegin src p a b t
    | 4 => execImportRun src p a b t
    | 5 => execImportEnd src p t
    | 6 => execImportAbort src p t
    | 7 => execUnseal src p t
    | 8 => execDebugChallenge src p t
    | 9 => execDebugUnlock src p a t
    | _ => .next (match t.mboxTake src c p a b with | none => t | some x => x.mboxEnd 1 0))

/-- The command in BOOT.CMD.CODE executes (R562). -/
def State.bootGo (s : State) (src : Src) : State :=
  s.after (fun t => match t.get bootU Reg.boot.cmdCode with
    | 1 => execRestart src t
    | 2 => execEnterRecovery src t
    | 3 => execLeaveRecovery src t
    | 4 => execToService src t
    | 5 => execEnterMinimal src t
    | 6 => execClearFails src t
    | _ => .next t.cmdIgnored)

/-- A write of 1 to a command bit of a page. -/
def State.command (s : State) (src : Src) (u : UnitId) (f : Field) (ones : Nat) : State × Taken :=
  let run (k : State → Host.Outcome State Fault Refusal) : State × Taken := (s.after k, .ok)
  match u.blk with
  | .tbl => if f.is Reg.tbl.injectCe then run (execTblInjectCe u src) else run (execTblInjectUe u src)
  | .mem => if f.is Reg.mem.injectEdc then run (execMemInjectEdc u src) else run (execMemInjectTag u src)
  | .tier => run (execTierInjectTag u src)
  | .dlr =>
    let p := s.get dlrU Reg.dlr.planPart
    let k := s.get dlrU Reg.dlr.planPslot
    if f.is Reg.dlr.planLoad then run (execPlanLoad src p k) else run (execPlanUnload src p k)
  | .bvl => if f.is Reg.bvl.cmdRetrain then run (execCmdRetrain u.ix src) else run (execInjectBadSlot u.ix src)
  | .bvf => run (execInjectLoss u.ix src)
  | .ce => if f.is Reg.ce.injectCrc then run (execCeInjectCrc u src) else run (execCeInjectDigest u src)
  | .sec => if s.flag secU Reg.sec.mboxBusy then (s, .ignored) else (s.mailbox src, .ok)
  | .pwr => if f.is Reg.pwr.parkCmd then run (execParkCmd src) else run (execWakeCmd src)
  | .boot =>
    if f.is Reg.boot.updateGo then run (execImageUpdate src)
    else (s.bootGo src, if s.bootValid src (s.get bootU Reg.boot.cmdCode) then .ok else .ignored)
  | .mcc => run (execResetCompute src)
  | .spr =>
    if f.is Reg.spr.healthCapture then run (execCapture src)
    else if src = .mgmt then run (execRelease src ones)
    else (s, .ignored)
  | .ctu =>
    let mine : Bool := s.txn.any (fun t => t.opener == src)
    if f.is Reg.ctu.txnOpen then run (execOpen src)
    else if !mine then (s, .ignored)
    else if f.is Reg.ctu.txnCommit then run (execCommit src)
    else run (execAbort src)
  | _ => (s, .ignored)

/-! ## Plain fields -/

/-- A management field is the management port's alone (R534, R562, R622); the expert policy needs a secured session too (R612). -/
def State.mgmtRefuses (s : State) (src : Src) (secured : Bool) (u : UnitId) (f : Field) : Option Taken :=
  if !f.mgmtOnly then none
  else if src ≠ .mgmt then some .ignored
  else if u.blk = .mcc && !(secured && s.spdm.sessions.any (fun x => x.via == 1 && x.live)) then some .denied
  else none

/-- The state with a plain field written. -/
def State.takes (s : State) (u : UnitId) (f : Field) (v : Nat) : State × Taken := (s.put u f (f.limited v), .ok)

/-- IRQ_ENABLE (R45): a bit that is now set in both words raises the page's interrupt. -/
def State.irqEnableTo (s : State) (u : UnitId) (v : Nat) : State :=
  let old := s.get u Reg.common.irqEnable
  let new := v &&& irqBits u.blk
  let st := s.get u Reg.common.irqStatus
  let s1 := s.put u Reg.common.irqEnable new
  if (new &&& st) ||| (old &&& st) = old &&& st then s1 else s1.pageInterrupt u

/-- A write of an RW or RWX field, by its merged value. -/
def State.writePlain (s : State) (src : Src) (u : UnitId) (f : Field) (v : Nat) : State × Taken :=
  if f.is Reg.common.irqEnable then (s.irqEnableTo u v, .ok)
  else
    match u.blk with
    | .bvf =>
      let route (ver n : Nat) : State × Taken :=
        if s.epochState ver ≤ 1 then (s.after (execRouteWrite src ver n v), .ok) else (s, .ignored)
      match f.ixOf Reg.bvf.routeA, f.ixOf Reg.bvf.routeB with
      | some n, _ => route 0 n
      | none, some n => route 1 n
      | none, none => if f.is Reg.bvf.telemSel then (s.after (execTelemSel u.ix src v), .ok) else s.takes u f v
    | .hif =>
      if f.is Reg.hif.mevtHead then
        (s.after (execMevtHeadWrite src v), if headOk (s.get hifU Reg.hif.mevtTail) v (s.get hifU Reg.hif.mevtLog2) then .ok else .ignored)
      else if f.is Reg.hif.mevtEnable then
        (if v = 1 then s.after (execMevtEnable src) else s.put hifU Reg.hif.mevtEnable 0, .ok)
      else if (f.is Reg.hif.mevtBase || f.is Reg.hif.mevtLog2) && s.mevtOn then (s, .ignored)
      else s.takes u f v
    | .bvl =>
      if f.is Reg.bvl.injectLaneFail then
        (s.after (execInjectLaneFail u.ix src v), if s.testOrRecovery then .ok else .ignored)
      else s.takes u f v
    | .pwr =>
      if f.is Reg.pwr.capHostW then (s.after (execHostCapWrite src v), if src = .pf then .ok else .ignored)
      else if f.mgmtOnly then ((s.takes u f v).1.applyCap, .ok)
      else s.takes u f v
    | .sec =>
      if 0x200 ≤ f.off && s.sealState ((f.off - 0x200) / 64) != 0 then (s, .ignored) else s.takes u f v
    | .ctu => if f.is Reg.ctu.txnKind && s.txn.isSome then (s, .ignored) else s.takes u f v
    | _ => s.takes u f v

/-! ## One field, one word, one access -/

/-- In minimal mode the HIF page accepts its module event ring's fields alone (R556). -/
def State.minimalRefuses (s : State) (u : UnitId) (f : Field) : Bool := s.minimal && u.blk == .hif && !(decide (0x280 ≤ f.off ∧ f.off < 0x300)) && decide (0x100 ≤ f.off)

/-- The masked bits of a word written to one field that is not a control of CTRL or CNT_CTRL. -/
def State.writeField (s : State) (src : Src) (secured : Bool) (u : UnitId) (f : Field) (off mask value : Nat) : State × Taken :=
  let ones := f.merge 0 off mask value
  if s.minimalRefuses u f then (s, .ignored)
  else if 0x400 ≤ f.off && decide (f.off < 0xE00) && !s.expert u then (s, .ignored)
  else
    match f.acc with
    | .ro | .rc => (s, .ignored)
    | .wo => (s.irq u (ones &&& irqBits u.blk), .ok)
    | .w1c => if f.is Reg.common.irqStatus then (s.irqClear u ones, .ok) else (s.put u f (s.get u f - (s.get u f &&& ones)), .ok)
    | .w1s => if ones = 0 then (s, .ok) else s.command src u f ones
    | .rwt =>
      let r := s.shadowWrite src u f off mask value
      (r.1, match r.2 with | 0 => .shadow | 1 => .ignored | 2 => .foreign | _ => .ok)
    | .rw | .rwx =>
      match s.mgmtRefuses src secured u f with
      | some t => (s, t)
      | none => s.writePlain src u f (f.merge (s.get u f) off mask value)

/-- The controls of a CTRL word, in the order EXPERT_EN, FREEZE, ENABLE, FORCE (R40). -/
def State.writeCtrl (s : State) (src : Src) (u : UnitId) (mask value : Nat) : State × List Taken :=
  let s1 := if bit mask 2 then s.expertTo u src (bit value 2) else s
  let s2 := if bit mask 1 then s1.freezeTo u (bit value 1) else s1
  let s3 := if bit mask 0 then (if bit value 0 then s2.enableSet u else s2.enableClear u) else s2
  let s4 := if bit mask 3 then s3.forceTo u (bit value 3) else s3
  let expert : List Taken := if !bit mask 2 then [] else if bit value 2 && !s.expertGranted src u.blk then [.denied] else [.ok]
  (s4, expert ++ (if mask % 2 = 1 || bit mask 3 then [if disableable u.blk then .ok else .ignored] else []) ++
    (if bit mask 1 then [.ok] else []))

/-- SNAPSHOT and CLEAR written together (R639). -/
def State.writeCntCtrl (s : State) (u : UnitId) (mask value : Nat) : State × List Taken :=
  let ones := mask &&& value
  let s1 := if bit ones 0 then s.takeSnapshot u else s
  (if bit ones 1 then s1.clearCounts u (bit ones 0) else s1, [.ok])

/-- The masked bits of one word of a present page: plain fields first, then the command bits. -/
def State.writeWord (s : State) (src : Src) (secured : Bool) (u : UnitId) (off mask value : Nat) : State × List Taken :=
  if off = 8 then s.writeCtrl src u mask value
  else if off = 0xEF8 then s.writeCntCtrl u mask value
  else
    let hit := (fieldsAt u.blk off).filter (fun f => (f.maskIn off &&& mask) != 0)
    let open' := hit.filter (fun f => f.acc != .rwt || !systemSlice u.blk off)
    ((open'.filter (fun f => f.acc != .w1s)) ++ (open'.filter (fun f => f.acc == .w1s))).foldl (fun (r : State × List Taken) f =>
      let q := r.1.writeField src secured u f off mask value
      (q.1, r.2 ++ [q.2])) (s, [])

/-- What an access has written, at its end: one more shadowed write of the page, or one ACCESS event (R48, R578). -/
def State.accessEnds (s : State) (u : UnitId) (off size : Nat) (ts : List Taken) : State :=
  let s1 := if ts.contains .shadow then s.shadowed u else s
  if ts.contains .foreign then s1.accessEvent (u.base + off) size else s1

/-- One access of 4 or 8 bytes to a page. -/
def State.pageWrite (s : State) (src : Src) (page off size data : Nat) : State :=
  match unitOfPage page with
  | none => s
  | some u =>
    if !s.mayWrite src u then s
    else
      let a := s.writeWord src false u off 0xFFFF_FFFF (data % 2 ^ 32)
      let b := if size = 8 then a.1.writeWord src false u (off + 4) 0xFFFF_FFFF (data / 2 ^ 32 % 2 ^ 32) else (a.1, [])
      b.1.accessEnds u off size (a.2 ++ b.2)

/-! ## BAR2 (R30, R376, R388) -/

/-- A word of an MSI-X table: a vector that is unmasked while it is pending is sent (R388). -/
def State.msixWrite (s : State) (vf : Option Nat) (off data : Nat) : State :=
  let a := msixBase vf
  let v := (off - 0x8000) / 16
  let s1 := s.setWord (a + off) (BitVec.ofNat 32 (if off % 16 = 12 then data % 2 else data))
  let pa := a + 0xC000 + v / 32 * 4
  if off % 16 = 12 ∧ data % 2 = 0 ∧ bit (s1.word pa).toNat (v % 32) then
    (s1.setWord pa (BitVec.ofNat 32 (setBits (s1.word pa).toNat (v % 32) 1 0))).msix vf v
  else s1

/-- A word of partition p's window, from a function that may write it. -/
def State.ringWrite (s : State) (src : Src) (p off data : Nat) : State :=
  if off = 0 then s.after (execRq0Doorbell src p data)
  else if off = 4 then s.after (execRq1Doorbell src p data)
  else if off = 8 then s.after (execTokHeadWrite src p data)
  else if off = 0xC then s.after (execEvtHeadWrite src p data)
  else if off = 0x20 then s.after (execHifStatusClear src p data)
  else if off = 0x12C then s.after (if data % 2 = 1 then execRingsEnable src p else execRingsDisable src p)
  else if 0x100 ≤ off ∧ off < 0x12C ∧ s.ringsOn p then s
  else ((Reg.win.all.flatMap (fun f => f.instances off)).filter (fun f => f.acc == .rw && decide (0x100 ≤ f.off))).foldl (fun t f =>
    t.setWin p f (f.merge (t.win p f) off 0xFFFF_FFFF data)) s

/-- A word of BAR2 as its function sees it. -/
def State.windowWrite (s : State) (src : Src) (a data : Nat) : State :=
  let p := match src with | .vf p => p | _ => a / 0x1_0000
  let off := a % 0x1_0000
  let seen : Bool := match src with
    | .pf => decide (a < 0x8_0000)
    | .vf p => decide (a < 0x1_0000) && decide (p < s.vfs) && !s.minimal
    | _ => false
  if !s.awake || !seen then s
  else if 0x8000 ≤ off ∧ off < 0x8800 then
    match src with
    | .vf p => s.msixWrite (some p) off data
    | _ => if p = 0 then s.msixWrite none off data else s
  else if s.minimal || !s.ownsWindow src p then s
  else s.ringWrite src p off data

/-- A write over BAR0, or over BAR2 at 0x400_0000 and above (R30, R31): 32 bits aligned to 4 bytes or 64 bits aligned to 8. -/
def State.busWrite (s : State) (src : Src) (addr size data : Nat) : State :=
  let fits : Bool := (size == 4 || size == 8) && addr % size == 0
  if addr < 0x400_0000 then
    if !s.awake then s
    else if !fits then s.accessEvent addr size
    else s.pageWrite src (addr / 0x1000) (addr % 0x1000) size data
  else if !fits then s
  else
    let s1 := s.windowWrite src (addr - 0x400_0000) (data % 2 ^ 32)
    if size = 8 then s1.windowWrite src (addr - 0x400_0000 + 4) (data / 2 ^ 32 % 2 ^ 32) else s1

/-- REGISTER_WRITE (R31 to R35). -/
def execRegisterWrite (src : Src) (addr size data : Nat) (s : State) : Host.Outcome State Fault Refusal :=
  .next (s.busWrite src addr size data)

/-- RWT_WRITE (R9, R47, R48, R578). -/
def execRwtWrite (src : Src) (addr size data : Nat) (s : State) : Host.Outcome State Fault Refusal :=
  .next (s.busWrite src addr size data)

/-! ## REG_WRITE (R612) -/

/-- The completion code of what became of a write's fields: 2 DENIED, 0 OK if any took it, else 1 IGNORED. -/
def completion (ts : List Taken) : Nat :=
  if ts.contains .denied then 2
  else if ts.contains .ok || ts.contains .shadow then 0
  else 1

/-- REG_WRITE (R612): the management path. `secured` tells that the command came inside a secured SPDM session. -/
def execRegWrite (page off mask value : Nat) (secured : Bool) (s : State) : Host.Outcome State Fault Refusal :=
  .next (s.served (fun t =>
    match unitOfPage page with
    | none => t.respond [1]
    | some u =>
      if off % 4 ≠ 0 ∨ 4096 ≤ off ∨ !t.mayWrite .mgmt u then t.respond [1]
      else
        let r := t.writeWord .mgmt secured u off (mask % 2 ^ 32) (value % 2 ^ 32)
        (r.1.accessEnds u off 4 r.2).respond [completion r.2]))

end Sys2Proof.Machine
end

