-- ==== Sys2Proof/Machine/Dispatch.lean ====
section
/-!
DEFINITION. One arm per command: each is one direct call of its meaning.
-/
namespace Sys2Proof.Machine

/-- The effect of a command on everything but the queue. -/
def exec (i : Instr) (s : State) : Host.Outcome State Fault Refusal :=
  match i with
  | .registerWrite src addr size data => Sys2Proof.Machine.execRegisterWrite src addr size data s
  | .rwtWrite src addr size data => Sys2Proof.Machine.execRwtWrite src addr size data s
  | .ctrlEnableClear u src => Sys2Proof.Machine.execCtrlEnableClear u src s
  | .ctrlEnableSet u src => Sys2Proof.Machine.execCtrlEnableSet u src s
  | .ctrlFreeze u src on => Sys2Proof.Machine.execCtrlFreeze u src on s
  | .ctrlForce u src => Sys2Proof.Machine.execCtrlForce u src s
  | .ctrlExpertEn u src => Sys2Proof.Machine.execCtrlExpertEn u src s
  | .unitDrainComplete u => Sys2Proof.Machine.execUnitDrainComplete u s
  | .breakPointAbort u => Sys2Proof.Machine.execBreakPointAbort u s
  | .unitFault u => Sys2Proof.Machine.execUnitFault u s
  | .irqStatusClear u src mask => Sys2Proof.Machine.execIrqStatusClear u src mask s
  | .irqForce u src mask => Sys2Proof.Machine.execIrqForce u src mask s
  | .errLogRead u src => Sys2Proof.Machine.execErrLogRead u src s
  | .snapshot u src => Sys2Proof.Machine.execSnapshot u src s
  | .clear u src withSnapshot => Sys2Proof.Machine.execClear u src withSnapshot s
  | .planLoad src part pslot => Sys2Proof.Machine.execPlanLoad src part pslot s
  | .planUnload src part pslot => Sys2Proof.Machine.execPlanUnload src part pslot s
  | .planUnloadDone part pslot => Sys2Proof.Machine.execPlanUnloadDone part pslot s
  | .stepForm part => Sys2Proof.Machine.execStepForm part s
  | .stepHeader part hdr => Sys2Proof.Machine.execStepHeader part hdr s
  | .stepAnswer part member ans => Sys2Proof.Machine.execStepAnswer part member ans s
  | .stepStart part => Sys2Proof.Machine.execStepStart part s
  | .templateIssue part tmpl => Sys2Proof.Machine.execTemplateIssue part tmpl s
  | .templateSkip part tmpl => Sys2Proof.Machine.execTemplateSkip part tmpl s
  | .laneIssue part tmpl lane => Sys2Proof.Machine.execLaneIssue part tmpl lane s
  | .laneComplete u => Sys2Proof.Machine.execLaneComplete u s
  | .nop part tmpl => Sys2Proof.Machine.execNop part tmpl s
  | .stepEnd part resAddr => Sys2Proof.Machine.execStepEnd part resAddr s
  | .voteReceived part member step attempt poison uncounted resAddr => Sys2Proof.Machine.execVoteReceived part member step attempt poison uncounted resAddr s
  | .commitReceived part step slots resAddr => Sys2Proof.Machine.execCommitReceived part step slots resAddr s
  | .tokenWrite part => Sys2Proof.Machine.execTokenWrite part s
  | .voteTimeout part => Sys2Proof.Machine.execVoteTimeout part s
  | .rq0Doorbell src part value => Sys2Proof.Machine.execRq0Doorbell src part value s
  | .rq1Doorbell src part value => Sys2Proof.Machine.execRq1Doorbell src part value s
  | .requestDescriptor part bytes => Sys2Proof.Machine.execRequestDescriptor part bytes s
  | .abortDescriptor part bytes => Sys2Proof.Machine.execAbortDescriptor part bytes s
  | .admitRequest part => Sys2Proof.Machine.execAdmit part s
  | .admissionRecord part slots resumed desc => Sys2Proof.Machine.execAdmissionRecord part slots resumed desc s
  | .admissionAck part member slot => Sys2Proof.Machine.execAdmissionAck part member slot s
  | .tokHeadWrite src part value => Sys2Proof.Machine.execTokHeadWrite src part value s
  | .evtHeadWrite src part value => Sys2Proof.Machine.execEvtHeadWrite src part value s
  | .hifStatusClear src part mask => Sys2Proof.Machine.execHifStatusClear src part mask s
  | .ringsEnable src part => Sys2Proof.Machine.execRingsEnable src part s
  | .ringsDisable src part => Sys2Proof.Machine.execRingsDisable src part s
  | .mevtEnable src => Sys2Proof.Machine.execMevtEnable src s
  | .mevtHeadWrite src value => Sys2Proof.Machine.execMevtHeadWrite src value s
  | .coalTimeout ring => Sys2Proof.Machine.execCoalTimeout ring s
  | .vfFlr p => Sys2Proof.Machine.execVfFlr p s
  | .numvfsWrite n => Sys2Proof.Machine.execNumvfsWrite n s
  | .portHDown cause => Sys2Proof.Machine.execPortHDown cause s
  | .cxlMemRead w ev => Sys2Proof.Machine.execCxlMemRead w ev s
  | .cxlMemWrite w data poison ev => Sys2Proof.Machine.execCxlMemWrite w data poison ev s
  | .identifyMemoryDevice src => Sys2Proof.Machine.execIdentifyMemoryDevice src s
  | .getSupportedLogs src => Sys2Proof.Machine.execGetSupportedLogs src s
  | .tableAccess src => Sys2Proof.Machine.execTableAccess src s
  | .discovery src ix => Sys2Proof.Machine.execDiscovery src ix s
  | .getVersion via => Sys2Proof.Machine.execGetVersion via s
  | .getCapabilities via size => Sys2Proof.Machine.execGetCapabilities via size s
  | .negotiateAlgorithms via asym hash dhe aead => Sys2Proof.Machine.execNegotiateAlgorithms via asym hash dhe aead s
  | .getDigests via => Sys2Proof.Machine.execGetDigests via s
  | .getCertificate via slot offset len => Sys2Proof.Machine.execGetCertificate via slot offset len s
  | .challenge via slot nonce => Sys2Proof.Machine.execChallenge via slot nonce s
  | .getMeasurements via index signed nonce => Sys2Proof.Machine.execGetMeasurements via index signed nonce s
  | .keyExchange via => Sys2Proof.Machine.execKeyExchange via s
  | .finish via id => Sys2Proof.Machine.execFinish via id s
  | .spdmHeartbeat via id => Sys2Proof.Machine.execSpdmHeartbeat via id s
  | .keyUpdate via id => Sys2Proof.Machine.execKeyUpdate via id s
  | .endSession via id => Sys2Proof.Machine.execEndSession via id s
  | .chunkGet via handle seq => Sys2Proof.Machine.execChunkGet via handle seq s
  | .ideKm via id stream on => Sys2Proof.Machine.execIdeKm via id stream on s
  | .mtMm u ev => Sys2Proof.Machine.execMtMm u ev s
  | .mtMmCb u ev => Sys2Proof.Machine.execMtMmCb u ev s
  | .mtMmGrouped u ev => Sys2Proof.Machine.execMtMmGrouped u ev s
  | .attn u ev => Sys2Proof.Machine.execAttn u ev s
  | .summarise u ev => Sys2Proof.Machine.execSummarise u ev s
  | .score u ev => Sys2Proof.Machine.execScore u ev s
  | .pick u ev => Sys2Proof.Machine.execPick u ev s
  | .merge u ev => Sys2Proof.Machine.execMerge u ev s
  | .norm u ev => Sys2Proof.Machine.execNorm u ev s
  | .act u ev => Sys2Proof.Machine.execAct u ev s
  | .gated u ev => Sys2Proof.Machine.execGated u ev s
  | .add u ev => Sys2Proof.Machine.execAdd u ev s
  | .rope u ev => Sys2Proof.Machine.execRope u ev s
  | .shfCopy u ev => Sys2Proof.Machine.execShfCopy u ev s
  | .quant u ev => Sys2Proof.Machine.execQuant u ev s
  | .gather u ev => Sys2Proof.Machine.execGather u ev s
  | .scatter u ev => Sys2Proof.Machine.execScatter u ev s
  | .kvWrite u ev => Sys2Proof.Machine.execKvWrite u ev s
  | .gate u ev => Sys2Proof.Machine.execGate u ev s
  | .dispatch u ev => Sys2Proof.Machine.execDispatch u ev s
  | .sample u ev => Sys2Proof.Machine.execSample u ev s
  | .run u ev => Sys2Proof.Machine.execRun u ev s
  | .exit u a0 io ev => Sys2Proof.Machine.execExit u a0 io ev s
  | .trace u word => Sys2Proof.Machine.execTrace u word s
  | .kernelTrap u pc cause val io => Sys2Proof.Machine.execKernelTrap u pc cause val io s
  | .kernelTimeout u io => Sys2Proof.Machine.execKernelTimeout u io s
  | .dmaCopy u ev => Sys2Proof.Machine.execDmaCopy u ev s
  | .fill u ev => Sys2Proof.Machine.execFill u ev s
  | .push u ev => Sys2Proof.Machine.execPush u ev s
  | .allReduce u => Sys2Proof.Machine.execAllReduce u s
  | .reduceScatter u => Sys2Proof.Machine.execReduceScatter u s
  | .allGather u => Sys2Proof.Machine.execAllGather u s
  | .broadcast u => Sys2Proof.Machine.execBroadcast u s
  | .barrier u => Sys2Proof.Machine.execBarrier u s
  | .allToAll u => Sys2Proof.Machine.execAllToAll u s
  | .alloc u => Sys2Proof.Machine.execAlloc u s
  | .prefetch u => Sys2Proof.Machine.execPrefetch u s
  | .pgeLookup part write qs => Sys2Proof.Machine.execPgeLookup part write qs s
  | .pgeReserve part => Sys2Proof.Machine.execPgeReserve part s
  | .migStart part src => Sys2Proof.Machine.execMigStart part src s
  | .migCopyDone part src readFailed => Sys2Proof.Machine.execMigCopyDone part src readFailed s
  | .forwardRewrite part slot => Sys2Proof.Machine.execForwardRewrite part slot s
  | .summaryRecompute part slot n => Sys2Proof.Machine.execSummaryRecompute part slot n s
  | .pgeSweep part => Sys2Proof.Machine.execPgeSweep part s
  | .tableRequest r => Sys2Proof.Machine.execTableRequest r s
  | .burstComplete u => Sys2Proof.Machine.execBurstComplete u s
  | .tableScrub u aged => Sys2Proof.Machine.execTableScrub u aged s
  | .tblInjectCe u src => Sys2Proof.Machine.execTblInjectCe u src s
  | .tblInjectUe u src => Sys2Proof.Machine.execTblInjectUe u src s
  | .bankSpareCopy u unreadable => Sys2Proof.Machine.execBankSpareCopy u unreadable s
  | .memRead off n ev => Sys2Proof.Machine.execMemRead off n ev s
  | .memWrite off d pois ev => Sys2Proof.Machine.execMemWrite off d pois ev s
  | .memPatrol u bad corrected => Sys2Proof.Machine.execMemPatrol u bad corrected s
  | .memRecentre u failed => Sys2Proof.Machine.execMemRecentre u failed s
  | .memSpareCopy u unreadable upto => Sys2Proof.Machine.execMemSpareCopy u unreadable upto s
  | .memInjectEdc u src => Sys2Proof.Machine.execMemInjectEdc u src s
  | .memInjectTag u src => Sys2Proof.Machine.execMemInjectTag u src s
  | .tierRead off n ev => Sys2Proof.Machine.execTierRead off n ev s
  | .tierWrite off d pois ev => Sys2Proof.Machine.execTierWrite off d pois ev s
  | .tierTimeout off n => Sys2Proof.Machine.execTierTimeout off n s
  | .tierDown port => Sys2Proof.Machine.execTierDown port s
  | .tierInjectTag u src => Sys2Proof.Machine.execTierInjectTag u src s
  | .remoteRequest p => Sys2Proof.Machine.execRemoteRequest p s
  | .remoteResponse p => Sys2Proof.Machine.execRemoteResponse p s
  | .tc2Timeout port tag => Sys2Proof.Machine.execTc2Timeout port tag s
  | .pushReceive p => Sys2Proof.Machine.execPushReceive p s
  | .pushAck node cls seq refused => Sys2Proof.Machine.execPushAck node cls seq refused s
  | .peerDetect port => Sys2Proof.Machine.execPeerDetect port s
  | .trainingComplete port txFailed rxFailed locked => Sys2Proof.Machine.execTrainingComplete port txFailed rxFailed locked s
  | .dataBlock port seq pkts fixed => Sys2Proof.Machine.execDataBlock port seq pkts fixed s
  | .badSlot port uncorrectable => Sys2Proof.Machine.execBadSlot port uncorrectable s
  | .idle port next => Sys2Proof.Machine.execIdle port next s
  | .nak port next => Sys2Proof.Machine.execNak port next s
  | .replayBlock port next seq => Sys2Proof.Machine.execReplayBlock port next seq s
  | .retrain port next => Sys2Proof.Machine.execRetrain port next s
  | .goodbye port => Sys2Proof.Machine.execGoodbye port s
  | .nakRepeatTimeout port => Sys2Proof.Machine.execNakRepeatTimeout port s
  | .ackTimeout port => Sys2Proof.Machine.execAckTimeout port s
  | .retryLimit port => Sys2Proof.Machine.execRetryLimit port s
  | .lossOfSignal port mask => Sys2Proof.Machine.execLossOfSignal port mask s
  | .serSwap port lane rate => Sys2Proof.Machine.execSerSwap port lane rate s
  | .cmdRetrain port src => Sys2Proof.Machine.execCmdRetrain port src s
  | .retrainComplete port txFailed rxFailed peerNext => Sys2Proof.Machine.execRetrainComplete port txFailed rxFailed peerNext s
  | .recoverMax port => Sys2Proof.Machine.execRecoverMax port s
  | .downRetry port => Sys2Proof.Machine.execDownRetry port s
  | .injectLaneFail port src mask => Sys2Proof.Machine.execInjectLaneFail port src mask s
  | .injectBadSlot port src => Sys2Proof.Machine.execInjectBadSlot port src s
  | .helloTimer port => Sys2Proof.Machine.execHelloTimer port s
  | .hello port node peerPort suits nstate => Sys2Proof.Machine.execHello port node peerPort suits nstate s
  | .helloStale port => Sys2Proof.Machine.execHelloStale port s
  | .keepaliveTimer => Sys2Proof.Machine.execKeepaliveTimer s
  | .keepalive node nstate => Sys2Proof.Machine.execKeepalive node nstate s
  | .nodeTimeout node => Sys2Proof.Machine.execNodeTimeout node s
  | .packetRoute port tc hops rsp full => Sys2Proof.Machine.execPacketRoute port tc hops rsp full s
  | .loss p reason => Sys2Proof.Machine.execLoss p reason s
  | .mark port tc level => Sys2Proof.Machine.execMark port tc level s
  | .routeWrite src ver node value => Sys2Proof.Machine.execRouteWrite src ver node value s
  | .telemTimer => Sys2Proof.Machine.execTelemTimer s
  | .telemSel r src port => Sys2Proof.Machine.execTelemSel r src port s
  | .injectLoss r src => Sys2Proof.Machine.execInjectLoss r src s
  | .collChunk p => Sys2Proof.Machine.execCollChunk p s
  | .ready g node gen sq => Sys2Proof.Machine.execReady g node gen sq s
  | .counts g node gen sq nums => Sys2Proof.Machine.execCounts g node gen sq nums s
  | .nakChunk g node gen sq ph ch => Sys2Proof.Machine.execNakChunk g node gen sq ph ch s
  | .digest g node gen sq sent result flags => Sys2Proof.Machine.execDigest g node gen sq sent result flags s
  | .cancel g node gen sq => Sys2Proof.Machine.execCancel g node gen sq s
  | .lost g node mask => Sys2Proof.Machine.execLost g node mask s
  | .reform g node gen mask => Sys2Proof.Machine.execReform g node gen mask s
  | .reformAck g node gen => Sys2Proof.Machine.execReformAck g node gen s
  | .reformDone g node gen => Sys2Proof.Machine.execReformDone g node gen s
  | .credit g node pool n => Sys2Proof.Machine.execCredit g node pool n s
  | .collectiveTimeout g => Sys2Proof.Machine.execCollectiveTimeout g s
  | .ceInjectCrc u src => Sys2Proof.Machine.execCeInjectCrc u src s
  | .ceInjectDigest u src => Sys2Proof.Machine.execCeInjectDigest u src s
  | .sessionOpen src part => Sys2Proof.Machine.execSessionOpen src part s
  | .sessionClose src part => Sys2Proof.Machine.execSessionClose src part s
  | .importBegin src part wrap bundle => Sys2Proof.Machine.execImportBegin src part wrap bundle s
  | .importRun src part list count => Sys2Proof.Machine.execImportRun src part list count s
  | .importEnd src part => Sys2Proof.Machine.execImportEnd src part s
  | .importAbort src part => Sys2Proof.Machine.execImportAbort src part s
  | .unsealCmd src part => Sys2Proof.Machine.execUnseal src part s
  | .scrubComplete part => Sys2Proof.Machine.execScrubComplete part s
  | .debugChallenge src part => Sys2Proof.Machine.execDebugChallenge src part s
  | .debugUnlock src part arg0 => Sys2Proof.Machine.execDebugUnlock src part arg0 s
  | .limiterTick m => Sys2Proof.Machine.execLimiterTick m s
  | .fastLimit p10us => Sys2Proof.Machine.execFastLimit p10us s
  | .hostCapWrite src watts => Sys2Proof.Machine.execHostCapWrite src watts s
  | .throtAssert => Sys2Proof.Machine.execThrotAssert s
  | .throtRelease => Sys2Proof.Machine.execThrotRelease s
  | .rampModeAssert p1ms => Sys2Proof.Machine.execRampModeAssert p1ms s
  | .rampModeRelease => Sys2Proof.Machine.execRampModeRelease s
  | .syncTick elapsed p1ms => Sys2Proof.Machine.execSyncTick elapsed p1ms s
  | .syncLost => Sys2Proof.Machine.execSyncLost s
  | .phasePreset part phase => Sys2Proof.Machine.execPhasePreset part phase s
  | .droop u cycles => Sys2Proof.Machine.execDroop u cycles s
  | .gateIdle u => Sys2Proof.Machine.execGateIdle u s
  | .unitWake u => Sys2Proof.Machine.execUnitWake u s
  | .parkCmd src => Sys2Proof.Machine.execParkCmd src s
  | .parkAuto => Sys2Proof.Machine.execParkAuto s
  | .wakeCmd src => Sys2Proof.Machine.execWakeCmd src s
  | .wakeComplete => Sys2Proof.Machine.execWakeComplete s
  | .thermalSample x temps pUnit pDie => Sys2Proof.Machine.execThermalSample x temps pUnit pDie s
  | .thermalCapTick => Sys2Proof.Machine.execThermalCapTick s
  | .thermalStop => Sys2Proof.Machine.execThermalStop s
  | .coolantLoss => Sys2Proof.Machine.execCoolantLoss s
  | .coldPlateCheck inlet outlet rise watts => Sys2Proof.Machine.execColdPlateCheck inlet outlet rise watts s
  | .currentCheck rails watts => Sys2Proof.Machine.execCurrentCheck rails watts s
  | .sensorFloorExpiry src => Sys2Proof.Machine.execSensorFloorExpiry src s
  | .powerControlLost => Sys2Proof.Machine.execPowerControlLost s
  | .modRstAssert => Sys2Proof.Machine.execModRstAssert s
  | .modRstRelease coolant inlet => Sys2Proof.Machine.execModRstRelease coolant inlet s
  | .pwrEnHigh coolant inlet => Sys2Proof.Machine.execPwrEnHigh coolant inlet s
  | .pwrEnLow => Sys2Proof.Machine.execPwrEnLow s
  | .stageComplete ev => Sys2Proof.Machine.execStageComplete ev s
  | .bcastRoundEnd misses => Sys2Proof.Machine.execBcastRoundEnd misses s
  | .coreReady u ok => Sys2Proof.Machine.execCoreReady u ok s
  | .startWatchdog => Sys2Proof.Machine.execStartWatchdog s
  | .startRetry => Sys2Proof.Machine.execStartRetry s
  | .stableTimeout => Sys2Proof.Machine.execStableTimeout s
  | .restart src => Sys2Proof.Machine.execRestart src s
  | .enterRecovery src => Sys2Proof.Machine.execEnterRecovery src s
  | .recoveryEntered => Sys2Proof.Machine.execRecoveryEntered s
  | .leaveRecovery src => Sys2Proof.Machine.execLeaveRecovery src s
  | .toService src => Sys2Proof.Machine.execToService src s
  | .enterMinimal src => Sys2Proof.Machine.execEnterMinimal src s
  | .clearFails src => Sys2Proof.Machine.execClearFails src s
  | .imageUpdate src => Sys2Proof.Machine.execImageUpdate src s
  | .updateDone ok kib => Sys2Proof.Machine.execUpdateDone ok kib s
  | .cmpRstAssert => Sys2Proof.Machine.execCmpRstAssert s
  | .resetCompute src => Sys2Proof.Machine.execResetCompute src s
  | .computeRestart => Sys2Proof.Machine.execComputeRestart s
  | .hsEnClose => Sys2Proof.Machine.execHsEnClose s
  | .hotswapDebounce => Sys2Proof.Machine.execHotswapDebounce s
  | .hotswapRampDone coolant inlet => Sys2Proof.Machine.execHotswapRampDone coolant inlet s
  | .hsEnOpen => Sys2Proof.Machine.execHsEnOpen s
  | .vinLockout => Sys2Proof.Machine.execVinLockout s
  | .circuitBreakerTrip => Sys2Proof.Machine.execCircuitBreakerTrip s
  | .breakerRetry => Sys2Proof.Machine.execBreakerRetry s
  | .spareReady spare => Sys2Proof.Machine.execSpareReady spare s
  | .remapApply u => Sys2Proof.Machine.execRemapApply u s
  | .remapDrainTimeout u => Sys2Proof.Machine.execRemapDrainTimeout u s
  | .discardProgrammed => Sys2Proof.Machine.execDiscardProgrammed s
  | .openTxn src => Sys2Proof.Machine.execOpen src s
  | .commit src => Sys2Proof.Machine.execCommit src s
  | .abort src => Sys2Proof.Machine.execAbort src s
  | .txnApply => Sys2Proof.Machine.execTxnApply s
  | .breakTimeout => Sys2Proof.Machine.execBreakTimeout s
  | .txnTimeout => Sys2Proof.Machine.execTxnTimeout s
  | .fenced part => Sys2Proof.Machine.execFenced part s
  | .release src mask => Sys2Proof.Machine.execRelease src mask s
  | .capture src => Sys2Proof.Machine.execCapture src s
  | .ownerHeartbeat pair => Sys2Proof.Machine.execOwnerHeartbeat pair s
  | .ownershipPass pair => Sys2Proof.Machine.execOwnershipPass pair s
  | .journalRecord pair => Sys2Proof.Machine.execJournalRecord pair s
  | .journalOut pair => Sys2Proof.Machine.execJournalOut pair s
  | .scanSlice pair ok last => Sys2Proof.Machine.execScanSlice pair ok last s
  | .digestCompare pair equal => Sys2Proof.Machine.execDigestCompare pair equal s
  | .setdasa fixed dyn => Sys2Proof.Machine.execSetdasa fixed dyn s
  | .entdaa dyn => Sys2Proof.Machine.execEntdaa dyn s
  | .rstdaa => Sys2Proof.Machine.execRstdaa s
  | .setmrl n => Sys2Proof.Machine.execSetmrl n s
  | .getmrl => Sys2Proof.Machine.execGetmrl s
  | .hotJoin => Sys2Proof.Machine.execHotJoin s
  | .aonStatusRead write => Sys2Proof.Machine.execAonStatusRead write s
  | .setEndpointId eid => Sys2Proof.Machine.execSetEndpointId eid s
  | .heartbeat seq => Sys2Proof.Machine.execHeartbeat seq s
  | .regRead page off count => Sys2Proof.Machine.execRegRead page off count s
  | .regWrite page off mask value secured => Sys2Proof.Machine.execRegWrite page off mask value secured s
  | .setTime ms => Sys2Proof.Machine.execSetTime ms s
  | .getSensorReading id => Sys2Proof.Machine.execGetSensorReading id s
  | .pollForPlatformEventMessage => Sys2Proof.Machine.execPollForPlatformEventMessage s
  | .pldmFirmwareUpdate image => Sys2Proof.Machine.execPldmFirmwareUpdate image s
  | .activateFirmware => Sys2Proof.Machine.execActivateFirmware s
  | .wdtExpired => Sys2Proof.Machine.execWdtExpired s
  | .refclkLost => Sys2Proof.Machine.execRefclkLost s
  | .refclkReturn => Sys2Proof.Machine.execRefclkReturn s
  | .ageingMeasure u mhz => Sys2Proof.Machine.execAgeingMeasure u mhz s
  | .portHLinkUp width rate => Sys2Proof.Machine.execPortHLinkUp width rate s
  | .tierPortUp port width rate => Sys2Proof.Machine.execTierPortUp port width rate s
  | .vinInRange => Sys2Proof.Machine.execVinInRange s
  | .pushAckTimeout node cls seq => Sys2Proof.Machine.execPushAckTimeout node cls seq s
  | .chunkResendTimer p => Sys2Proof.Machine.execChunkResendTimer p s
  | .trngHealthTest fails => Sys2Proof.Machine.execTrngHealthTest fails s
  | .fwRestart up => Sys2Proof.Machine.execFwRestart up s
  | .interlockFault => Sys2Proof.Machine.execInterlockFault s
  | .heartbeatGap pair => Sys2Proof.Machine.execHeartbeatGap pair s
  | .headerWithdrawal part step => Sys2Proof.Machine.execHeaderWithdrawal part step s
  | .hashList part slot hashes lead => Sys2Proof.Machine.execHashList part slot hashes lead s
  | .prefixReport part member slot hits => Sys2Proof.Machine.execPrefixReport part member slot hits s
  | .dummySynced pair => Sys2Proof.Machine.execDummySynced pair s

end Sys2Proof.Machine
end

