-- ==== Sys2Proof/Machine/Step.lean ====
section
/-!
DEFINITION. One step: the command at the front of the queue, with its rest. On an empty queue the utility cores go on with their kernels, and
the rest of the block idles (log entry 3).
-/
namespace Sys2Proof.Machine

/-- The step of the block. -/
def step (s : State) : Host.Outcome State Fault Refusal :=
  match s.pending with
  | [] => .next s.tick
  | c :: r => exec c { s with pending := r }

/-- The state with a command put at the front of its queue. -/
def State.push (s : State) (c : Instr) : State := { s with pending := c :: s.pending }

/-- The state with the command that a word of the opcode table spells at the front of its queue. The table gives no row any bits. -/
def State.withFetchWord (s : State) (nbits w : Nat) : State :=
  match decodeTableWord nbits w with
  | some c => s.push c
  | none => s

end Sys2Proof.Machine
end

