-- ==== Sys2Proof/WellFormed.lean ====
section
/-!
DEFINITION. What a command's operands may be: units, ports, partitions and groups that exist (R19, R34), fields of the width that carries
them, packets as the fabric forms them. A meaning is total; these are the operands that the world outside can give.
-/
namespace Sys2Proof

/-- Below a bound. -/
def lt (n b : Nat) : Bool := decide (n < b)

/-- A writer: of the virtual functions there are eight (R375). -/
def okSrc : Src → Bool
  | .vf p => lt p 8
  | _ => true

/-- A unit of one of some blocks, that exists. -/
def unitIn (u : UnitId) (bs : List Blk) : Bool := bs.contains u.blk && u.valid

/-- Bytes of a bus access. -/
def okSize (n : Nat) : Bool := decide (1 ≤ n) && lt n 65

/-- A list of a given length. -/
def len {α : Type} (l : List α) (n : Nat) : Bool := l.length == n

/-- Bytes that came back, if any did. -/
def lenOpt (l : Option (List Byte)) (n : Nat) : Bool := l.all (fun d => d.length == n)

/-- Data of one memory access: part of a 256-byte line. -/
def short (d : List Byte) : Bool := decide (1 ≤ d.length) && lt d.length 257

/-- A run of bytes within one line of a memory (R600). -/
def okRun (off n : Nat) : Bool := decide (1 ≤ n) && decide (off % 256 + n ≤ 256)

/-- 32-bit numbers. -/
def words (l : List Nat) : Bool := l.all (fun n => lt n (2 ^ 32))

/-- Slots of a partition (R370). -/
def slotList (l : List Nat) : Bool := l.all (fun n => lt n 32768)

/-- The slots of a commit. -/
def commits (l : List SlotCommit) : Bool := l.all (fun c => lt c.slot 32768 && lt c.newLen (2 ^ 32))

/-- An entry of a header (R100). -/
def okEntry (e : Entry) : Bool := lt e.slot 32768 && lt e.pos (2 ^ 32) && lt e.nrows (2 ^ 32)

/-- A step header (R355). -/
def okHeader (h : Header) : Bool :=
  lt h.number (2 ^ 64) && lt h.attempt 256 && lt h.pslot 4 && lt h.maxSeqs 65536 && lt h.maxRows (2 ^ 32) && lt h.planGroup 17 &&
    lt h.group (2 ^ 160) && h.entries.all okEntry

/-- What a lane's unit adds: a status of one byte. -/
def okLaneEv (e : LaneEv) : Bool := e.err.all (fun x => lt x 256) && lt e.corrected (2 ^ 32)

/-- What the devices behind a controller do in one access. -/
def okMemEv (e : MemEv) : Bool := lt e.fails 256 && lt e.wfails 256 && lt e.tagFails 256 && lt e.corrected (2 ^ 32)

/-- A kernel's stores and loads: 1 to 64 bytes each. -/
def okIo (i : KernelIo) : Bool :=
  i.stores.all (fun w => lt w.1 (2 ^ 64) && decide (1 ≤ w.2.length) && lt w.2.length 65) &&
    i.loads.all (fun r => lt r.1 (2 ^ 64) && decide (1 ≤ r.2) && lt r.2 65)

/-- A ring of a partition that exists. -/
def okRing : RingId → Bool
  | .tok p => lt p 8
  | .evt p => lt p 8
  | .module => true

/-- A packet (R423, R424): fields of the header flit's widths, and at most 512 bytes. -/
def okPkt (p : Pkt) : Bool :=
  lt p.dst 64 && lt p.src 64 && lt p.tc 8 && lt p.epoch 2 && lt p.hops 4 && lt p.part 8 && lt p.kind 256 && lt p.tag 512 && lt p.tagPort 32 &&
    lt p.flow 256 && lt p.addr (2 ^ 64) && lt p.extra (2 ^ 128) && lt p.data.length 513

/-- The packets of a data block. -/
def okPkts (l : List Pkt) : Bool := l.all okPkt

/-- Symbols received wrong, by their places in each codeword of 576 (R401). -/
def okFixed (l : List (List Nat)) : Bool := l.all (fun c => c.all (fun x => lt x 576))

/-- A router's input: a port, or none for local injection. -/
def okPort (p : Option Nat) : Bool := p.all (fun k => lt k 24)

/-- A request at a Table bank (R248, R254): one of six ports and classes, of five operations and nine AMOs, within one line. -/
def okReq (r : TblReq) : Bool :=
  lt r.port 6 && lt r.cls 6 && lt r.op 5 && lt r.amo 9 && lt r.core 1056 && lt r.part 8 && lt r.off 0x2000_0000 && okRun r.off r.len &&
    lt r.data.length 257 && lt r.keep (2 ^ 256)

/-- Positions with a flag that tells an uncorrectable error. -/
def beats (l : List (Nat × Bool)) : Bool := l.all (fun x => lt x.1 (2 ^ 32))

/-- Diodes of a sensor: four of a tile, two of a cluster, eight of a die, one of a device (R524). -/
def sensorParts : Sensor → Nat
  | .tile _ => 4
  | .cluster _ => 2
  | .die _ => 8
  | .device _ => 1

/-- A sensor that exists. -/
def okSensor : Sensor → Bool
  | .tile i => lt i 264
  | .cluster c => lt c 32
  | .die d => lt d 2
  | .device i => lt i 68

/-- A measurement of the limiter: one power for each partition. -/
def okPower (m : PowerSample) : Bool := lt m.p10us 65536 && lt m.p1ms 65536 && lt m.predicted 65536 && lt m.rails 65536 && lt m.shared 65536 && m.parts.length == 8

/-- Lookups of a batch (R310): slot, layer and head group, page. -/
def okQueries (l : List (Nat × Nat × Nat)) : Bool := l.all (fun q => lt q.1 32768 && lt q.2.1 (2 ^ 20) && lt q.2.2 (2 ^ 24))

/-- Cores that missed blocks of a broadcast round. -/
def okMisses (l : List (UnitId × List Nat)) : Bool := l.all (fun x => x.1.valid)

/-- How a stage ends: units that exist, and a reason of two bytes. -/
def okStage (e : StageEv) : Bool :=
  e.fatal.all (fun x => lt x 65536) && lt e.detail (2 ^ 32) && lt e.dur (2 ^ 32) && e.failed.all (fun u => u.valid) && lt e.p1ms 65536

/-- The operands of a command are such as the world outside can give. -/
def Instr.wellFormed : Instr → Bool
  | .registerWrite src addr size data => okSrc src && lt addr 0x410_0000 && okSize size && lt data (2 ^ 64)
  | .rwtWrite src addr size data => okSrc src && lt addr 0x410_0000 && okSize size && lt data (2 ^ 64)
  | .ctrlEnableClear u src => u.valid && okSrc src
  | .ctrlEnableSet u src => u.valid && okSrc src
  | .ctrlFreeze u src _ => u.valid && okSrc src
  | .ctrlForce u src => u.valid && okSrc src
  | .ctrlExpertEn u src => u.valid && okSrc src
  | .unitDrainComplete u => u.valid
  | .breakPointAbort u => u.valid
  | .unitFault u => u.valid
  | .irqStatusClear u src mask => u.valid && okSrc src && lt mask (2 ^ 32)
  | .irqForce u src mask => u.valid && okSrc src && lt mask (2 ^ 32)
  | .errLogRead u src => u.valid && okSrc src
  | .snapshot u src => u.valid && okSrc src
  | .clear u src _ => u.valid && okSrc src
  | .planLoad src part pslot => okSrc src && lt part 8 && lt pslot 4
  | .planUnload src part pslot => okSrc src && lt part 8 && lt pslot 4
  | .planUnloadDone part pslot => lt part 8 && lt pslot 4
  | .stepForm part => lt part 8
  | .stepHeader part hdr => lt part 8 && okHeader hdr
  | .stepAnswer part member _ => lt part 8 && lt member 16
  | .stepStart part => lt part 8
  | .templateIssue part tmpl => lt part 8 && lt tmpl 65536
  | .templateSkip part tmpl => lt part 8 && lt tmpl 65536
  | .laneIssue part tmpl lane => lt part 8 && lt tmpl 65536 && lt lane 256
  | .laneComplete u => u.valid
  | .nop part tmpl => lt part 8 && lt tmpl 65536
  | .stepEnd part resAddr => lt part 8 && lt resAddr (2 ^ 64)
  | .voteReceived part member step attempt _ _ resAddr => lt part 8 && lt member 16 && lt step (2 ^ 64) && lt attempt 256 && lt resAddr (2 ^ 64)
  | .commitReceived part step slots resAddr => lt part 8 && lt step (2 ^ 64) && commits slots && lt resAddr (2 ^ 64)
  | .tokenWrite part => lt part 8
  | .voteTimeout part => lt part 8
  | .rq0Doorbell src part value => okSrc src && lt part 8 && lt value (2 ^ 32)
  | .rq1Doorbell src part value => okSrc src && lt part 8 && lt value (2 ^ 32)
  | .requestDescriptor part bytes => lt part 8 && lenOpt bytes 128
  | .abortDescriptor part bytes => lt part 8 && lenOpt bytes 128
  | .admitRequest part => lt part 8
  | .admissionRecord part slots resumed desc => lt part 8 && slotList slots && words resumed && len desc 128
  | .admissionAck part member slot => lt part 8 && lt member 16 && lt slot 32768
  | .tokHeadWrite src part value => okSrc src && lt part 8 && lt value (2 ^ 32)
  | .evtHeadWrite src part value => okSrc src && lt part 8 && lt value (2 ^ 32)
  | .hifStatusClear src part mask => okSrc src && lt part 8 && lt mask (2 ^ 32)
  | .ringsEnable src part => okSrc src && lt part 8
  | .ringsDisable src part => okSrc src && lt part 8
  | .mevtEnable src => okSrc src
  | .mevtHeadWrite src value => okSrc src && lt value (2 ^ 32)
  | .coalTimeout ring => okRing ring
  | .vfFlr p => lt p 8
  | .numvfsWrite n => lt n 9
  | .portHDown _ => true
  | .cxlMemRead w ev => lt w (2 ^ 36) && okMemEv ev
  | .cxlMemWrite w data _ ev => lt w (2 ^ 36) && len data 64 && okMemEv ev
  | .identifyMemoryDevice src => okSrc src
  | .getSupportedLogs src => okSrc src
  | .tableAccess src => okSrc src
  | .discovery src ix => okSrc src && lt ix 256
  | .getVersion via => okSrc via
  | .getCapabilities via size => okSrc via && lt size (2 ^ 32)
  | .negotiateAlgorithms via asym hash dhe aead => okSrc via && lt asym (2 ^ 32) && lt hash (2 ^ 32) && lt dhe (2 ^ 32) && lt aead (2 ^ 32)
  | .getDigests via => okSrc via
  | .getCertificate via slot offset len => okSrc via && lt slot 256 && lt offset 65536 && lt len 65536
  | .challenge via slot nonce => okSrc via && lt slot 256 && len nonce 32
  | .getMeasurements via index _ nonce => okSrc via && lt index 256 && len nonce 32
  | .keyExchange via => okSrc via
  | .finish via id => okSrc via && lt id (2 ^ 32)
  | .spdmHeartbeat via id => okSrc via && lt id (2 ^ 32)
  | .keyUpdate via id => okSrc via && lt id (2 ^ 32)
  | .endSession via id => okSrc via && lt id (2 ^ 32)
  | .chunkGet via handle seq => okSrc via && lt handle 256 && lt seq (2 ^ 32)
  | .ideKm via id stream _ => okSrc via && lt id (2 ^ 32) && lt stream 256
  | .mtMm u ev => unitIn u [.mt] && okLaneEv ev
  | .mtMmCb u ev => unitIn u [.mt] && okLaneEv ev
  | .mtMmGrouped u ev => unitIn u [.mt] && okLaneEv ev
  | .attn u ev => unitIn u [.ae] && okLaneEv ev
  | .summarise u ev => unitIn u [.ae] && okLaneEv ev
  | .score u ev => unitIn u [.ae] && okLaneEv ev
  | .pick u ev => unitIn u [.ae] && okLaneEv ev
  | .merge u ev => unitIn u [.ae] && okLaneEv ev
  | .norm u ev => unitIn u [.ew] && okLaneEv ev
  | .act u ev => unitIn u [.ew] && okLaneEv ev
  | .gated u ev => unitIn u [.ew] && okLaneEv ev
  | .add u ev => unitIn u [.ew] && okLaneEv ev
  | .rope u ev => unitIn u [.ew] && okLaneEv ev
  | .shfCopy u ev => unitIn u [.shf] && okLaneEv ev
  | .quant u ev => unitIn u [.shf] && okLaneEv ev
  | .gather u ev => unitIn u [.shf] && okLaneEv ev
  | .scatter u ev => unitIn u [.shf] && okLaneEv ev
  | .kvWrite u ev => unitIn u [.shf] && okLaneEv ev
  | .gate u ev => unitIn u [.xr] && okLaneEv ev
  | .dispatch u ev => unitIn u [.xr] && okLaneEv ev
  | .sample u ev => unitIn u [.smp] && okLaneEv ev
  | .run u ev => unitIn u [.uc] && okLaneEv ev
  | .exit u a0 io ev => unitIn u [.uc] && lt a0 (2 ^ 64) && okIo io && okLaneEv ev
  | .trace u word => unitIn u [.uc] && lt word (2 ^ 64)
  | .kernelTrap u pc cause val io => unitIn u [.uc] && lt pc (2 ^ 64) && lt cause (2 ^ 64) && lt val (2 ^ 64) && okIo io
  | .kernelTimeout u io => unitIn u [.uc] && okIo io
  | .dmaCopy u ev => unitIn u [.dma] && okLaneEv ev
  | .fill u ev => unitIn u [.dma] && okLaneEv ev
  | .push u ev => unitIn u [.dma] && okLaneEv ev
  | .allReduce u => unitIn u [.ce]
  | .reduceScatter u => unitIn u [.ce]
  | .allGather u => unitIn u [.ce]
  | .broadcast u => unitIn u [.ce]
  | .barrier u => unitIn u [.ce]
  | .allToAll u => unitIn u [.ce]
  | .alloc u => unitIn u [.pge]
  | .prefetch u => unitIn u [.pge]
  | .pgeLookup part _ qs => lt part 8 && okQueries qs
  | .pgeReserve part => lt part 8
  | .migStart part src => lt part 8 && lt src (2 ^ 30)
  | .migCopyDone part src _ => lt part 8 && lt src (2 ^ 30)
  | .forwardRewrite part slot => lt part 8 && lt slot 32768
  | .summaryRecompute part slot n => lt part 8 && lt slot 32768 && lt n (2 ^ 32)
  | .pgeSweep part => lt part 8
  | .tableRequest r => okReq r
  | .burstComplete u => unitIn u [.tbl]
  | .tableScrub u aged => unitIn u [.tbl] && beats aged
  | .tblInjectCe u src => unitIn u [.tbl] && okSrc src
  | .tblInjectUe u src => unitIn u [.tbl] && okSrc src
  | .bankSpareCopy u _ => unitIn u [.tbl]
  | .memRead off n ev => lt off (2 ^ 48) && okRun off n && okMemEv ev
  | .memWrite off d _ ev => lt off (2 ^ 48) && short d && okMemEv ev
  | .memPatrol u bad corrected => unitIn u [.mem] && beats bad && lt corrected (2 ^ 32)
  | .memRecentre u _ => unitIn u [.mem]
  | .memSpareCopy u _ upto => unitIn u [.mem] && lt upto 16777217
  | .memInjectEdc u src => unitIn u [.mem] && okSrc src
  | .memInjectTag u src => unitIn u [.mem] && okSrc src
  | .tierRead off n ev => lt off (2 ^ 48) && okRun off n && okMemEv ev
  | .tierWrite off d _ ev => lt off (2 ^ 48) && short d && okMemEv ev
  | .tierTimeout off n => lt off (2 ^ 48) && okRun off n
  | .tierDown port => lt port 2
  | .tierInjectTag u src => unitIn u [.tier] && okSrc src
  | .remoteRequest p => okPkt p
  | .remoteResponse p => okPkt p
  | .tc2Timeout port tag => lt port 24 && lt tag 512
  | .pushReceive p => okPkt p
  | .pushAck node cls seq _ => lt node 64 && lt cls 2 && lt seq (2 ^ 32)
  | .peerDetect port => lt port 24
  | .trainingComplete port txFailed rxFailed _ => lt port 24 && lt txFailed (2 ^ 17) && lt rxFailed (2 ^ 17)
  | .dataBlock port seq pkts fixed => lt port 24 && lt seq (2 ^ 32) && okPkts pkts && okFixed fixed
  | .badSlot port uncorrectable => lt port 24 && lt uncorrectable 65536
  | .idle port next => lt port 24 && lt next (2 ^ 24)
  | .nak port next => lt port 24 && lt next (2 ^ 24)
  | .replayBlock port next seq => lt port 24 && lt next (2 ^ 24) && lt seq (2 ^ 32)
  | .retrain port next => lt port 24 && lt next (2 ^ 24)
  | .goodbye port => lt port 24
  | .nakRepeatTimeout port => lt port 24
  | .ackTimeout port => lt port 24
  | .retryLimit port => lt port 24
  | .lossOfSignal port mask => lt port 24 && lt mask (2 ^ 17)
  | .serSwap port lane rate => lt port 24 && lt lane 17 && lt rate (2 ^ 32)
  | .cmdRetrain port src => lt port 24 && okSrc src
  | .retrainComplete port txFailed rxFailed peerNext => lt port 24 && lt txFailed (2 ^ 17) && lt rxFailed (2 ^ 17) && lt peerNext (2 ^ 24)
  | .recoverMax port => lt port 24
  | .downRetry port => lt port 24
  | .injectLaneFail port src mask => lt port 24 && okSrc src && lt mask (2 ^ 17)
  | .injectBadSlot port src => lt port 24 && okSrc src
  | .helloTimer port => lt port 24
  | .hello port node peerPort suits nstate => lt port 24 && lt node 64 && lt peerPort 32 && lt suits 8 && lt nstate 4
  | .helloStale port => lt port 24
  | .keepaliveTimer => true
  | .keepalive node nstate => lt node 64 && lt nstate 4
  | .nodeTimeout node => lt node 64
  | .packetRoute port tc hops _ full => okPort port && lt tc 8 && lt hops 4 && lt full (2 ^ 27)
  | .loss p reason => okPkt p && lt reason 256
  | .mark port tc level => lt port 24 && lt tc 8 && lt level 3
  | .routeWrite src ver node value => okSrc src && lt ver 2 && lt node 64 && lt value (2 ^ 32)
  | .telemTimer => true
  | .telemSel r src port => lt r 2 && okSrc src && lt port 32
  | .injectLoss r src => lt r 2 && okSrc src
  | .collChunk p => okPkt p
  | .ready g node gen sq => lt g 64 && lt node 64 && lt gen 256 && lt sq (2 ^ 32)
  | .counts g node gen sq nums => lt g 64 && lt node 64 && lt gen 256 && lt sq (2 ^ 32) && words nums
  | .nakChunk g node gen sq ph ch => lt g 64 && lt node 64 && lt gen 256 && lt sq (2 ^ 32) && lt ph 4 && lt ch 65536
  | .digest g node gen sq sent result flags => lt g 64 && lt node 64 && lt gen 256 && lt sq (2 ^ 32) && lt sent (2 ^ 32) && lt result (2 ^ 32) && lt flags (2 ^ 32)
  | .cancel g node gen sq => lt g 64 && lt node 64 && lt gen 256 && lt sq (2 ^ 32)
  | .lost g node mask => lt g 64 && lt node 64 && lt mask (2 ^ 64)
  | .reform g node gen mask => lt g 64 && lt node 64 && lt gen 256 && lt mask (2 ^ 64)
  | .reformAck g node gen => lt g 64 && lt node 64 && lt gen 256
  | .reformDone g node gen => lt g 64 && lt node 64 && lt gen 256
  | .credit g node pool n => lt g 64 && lt node 64 && lt pool 2 && lt n (2 ^ 32)
  | .collectiveTimeout g => lt g 64
  | .ceInjectCrc u src => unitIn u [.ce] && okSrc src
  | .ceInjectDigest u src => unitIn u [.ce] && okSrc src
  | .sessionOpen src part => okSrc src && lt part 8
  | .sessionClose src part => okSrc src && lt part 8
  | .importBegin src part wrap bundle => okSrc src && lt part 8 && lt wrap (2 ^ 64) && lt bundle (2 ^ 64)
  | .importRun src part list count => okSrc src && lt part 8 && lt list (2 ^ 64) && lt count (2 ^ 32)
  | .importEnd src part => okSrc src && lt part 8
  | .importAbort src part => okSrc src && lt part 8
  | .unsealCmd src part => okSrc src && lt part 8
  | .scrubComplete part => lt part 8
  | .debugChallenge src part => okSrc src && lt part 8
  | .debugUnlock src part arg0 => okSrc src && lt part 8 && lt arg0 (2 ^ 64)
  | .limiterTick m => okPower m
  | .fastLimit p10us => lt p10us 65536
  | .hostCapWrite src watts => okSrc src && lt watts 65536
  | .throtAssert => true
  | .throtRelease => true
  | .rampModeAssert p1ms => lt p1ms 65536
  | .rampModeRelease => true
  | .syncTick elapsed p1ms => lt elapsed (2 ^ 32) && lt p1ms 65536
  | .syncLost => true
  | .phasePreset part phase => lt part 8 && lt phase 256
  | .droop u cycles => unitIn u [.mt, .uc] && lt cycles (2 ^ 32)
  | .gateIdle u => unitIn u [.mt, .uc]
  | .unitWake u => unitIn u [.mt, .uc]
  | .parkCmd src => okSrc src
  | .parkAuto => true
  | .wakeCmd src => okSrc src
  | .wakeComplete => true
  | .thermalSample x temps pUnit pDie => okSensor x && len temps (sensorParts x) && lt pUnit (2 ^ 32) && lt pDie (2 ^ 32)
  | .thermalCapTick => true
  | .thermalStop => true
  | .coolantLoss => true
  | .coldPlateCheck inlet outlet rise watts => lt inlet 65536 && lt outlet 65536 && lt rise 65536 && lt watts 65536
  | .currentCheck rails watts => lt rails (2 ^ 32) && lt watts 65536
  | .sensorFloorExpiry src => lt src 3
  | .powerControlLost => true
  | .modRstAssert => true
  | .modRstRelease _ inlet => lt inlet 65536
  | .pwrEnHigh _ inlet => lt inlet 65536
  | .pwrEnLow => true
  | .stageComplete ev => okStage ev
  | .bcastRoundEnd misses => okMisses misses
  | .coreReady u _ => u.valid
  | .startWatchdog => true
  | .startRetry => true
  | .stableTimeout => true
  | .restart src => okSrc src
  | .enterRecovery src => okSrc src
  | .recoveryEntered => true
  | .leaveRecovery src => okSrc src
  | .toService src => okSrc src
  | .enterMinimal src => okSrc src
  | .clearFails src => okSrc src
  | .imageUpdate src => okSrc src
  | .updateDone _ kib => lt kib 65281
  | .cmpRstAssert => true
  | .resetCompute src => okSrc src
  | .computeRestart => true
  | .hsEnClose => true
  | .hotswapDebounce => true
  | .hotswapRampDone _ inlet => lt inlet 65536
  | .hsEnOpen => true
  | .vinLockout => true
  | .circuitBreakerTrip => true
  | .breakerRetry => true
  | .spareReady spare => spare.valid
  | .remapApply u => u.valid
  | .remapDrainTimeout u => u.valid
  | .discardProgrammed => true
  | .openTxn src => okSrc src
  | .commit src => okSrc src
  | .abort src => okSrc src
  | .txnApply => true
  | .breakTimeout => true
  | .txnTimeout => true
  | .fenced part => lt part 8
  | .release src mask => okSrc src && lt mask 8
  | .capture src => okSrc src
  | .ownerHeartbeat pair => lt pair 3
  | .ownershipPass pair => lt pair 3
  | .journalRecord pair => lt pair 2
  | .journalOut pair => lt pair 2
  | .scanSlice pair _ _ => lt pair 3
  | .digestCompare pair _ => lt pair 3
  | .setdasa fixed dyn => lt fixed 128 && lt dyn 128
  | .entdaa dyn => lt dyn 128
  | .rstdaa => true
  | .setmrl n => lt n 65536
  | .getmrl => true
  | .hotJoin => true
  | .aonStatusRead _ => true
  | .setEndpointId eid => lt eid 256
  | .heartbeat seq => lt seq (2 ^ 32)
  | .regRead page off count => lt page 65536 && lt off 65536 && lt count 256
  | .regWrite page off mask value _ => lt page 65536 && lt off 65536 && lt mask (2 ^ 32) && lt value (2 ^ 32)
  | .setTime ms => lt ms (2 ^ 64)
  | .getSensorReading id => lt id (2 ^ 32)
  | .pollForPlatformEventMessage => true
  | .pldmFirmwareUpdate _ => true
  | .activateFirmware => true
  | .wdtExpired => true
  | .refclkLost => true
  | .refclkReturn => true
  | .ageingMeasure u mhz => unitIn u [.mt, .uc] && lt mhz 65536
  | .portHLinkUp width rate => lt width 8 && lt rate (2 ^ 32)
  | .tierPortUp port width rate => lt port 2 && lt width 8 && lt rate (2 ^ 32)
  | .vinInRange => true
  | .pushAckTimeout node cls seq => lt node 64 && lt cls 2 && lt seq (2 ^ 32)
  | .chunkResendTimer p => okPkt p
  | .trngHealthTest _ => true
  | .fwRestart _ => true
  | .interlockFault => true
  | .heartbeatGap pair => lt pair 3
  | .headerWithdrawal part step => lt part 8 && lt step (2 ^ 64)
  | .hashList part slot _ lead => lt part 8 && lt slot 32768 && lt lead 64
  | .prefixReport part member slot hits => lt part 8 && lt member 16 && lt slot 32768 && lt hits (2 ^ 32)
  | .dummySynced pair => lt pair 2

end Sys2Proof
end

