-- ==== Sys2Proof/Safety.lean ====
section
/-!
DEFINITION. What every run of the block keeps, and what a safe run is.
-/
namespace Sys2Proof.Machine

/-- The canonical forms: equal registers, counters, memories and poison marks are equal data. -/
structure State.Inv (s : State) : Prop where
  /-- register words that differ from their reset value, by rising address -/
  regs : Sparse.wf wordReset s.regs = true
  /-- bytes that differ from what an unwritten byte reads as, by rising address -/
  mem : Memory.wf s.mem = true
  /-- poisoned lines, rising -/
  poison : Keys.wf s.poison = true

/-- What one command may do to the bookkeeping of the model, whatever else it does: the queue keeps its rest, free values are used in order and
none twice, and what has left the block stays said. -/
structure State.Extends (s t : State) : Prop where
  pending : t.pending = s.pending
  freeIdx : s.freeIdx ≤ t.freeIdx
  out : s.out <+: t.out

/-- Every waiting command is one that the world outside can give. -/
def State.safe (s : State) : Prop := ∀ c ∈ s.pending, c.wellFormed = true

end Sys2Proof.Machine
end

