-- ==== Sys2Proof/Certificates/Slice0/Obligations.lean ====
section
/-!
DEFINITION. What is claimed of the block, for the provers: one definition per obligation, listed with its rules in OBLIGATIONS.json.
-/
open Sys2Proof Sys2Proof.Machine

/-- A step takes the command at the front of the queue and runs it on the state with the queue's rest. On an empty queue the block idles but for the
utility cores: each that holds a kernel executes an instruction of it (the model's choice, log entry 3). -/
def Obligations.StepRunsTheFrontCommand : Prop :=
  (∀ (c : Instr) (r : List Instr) (s : State), step { s with pending := c :: r } = exec c { s with pending := r }) ∧
  (∀ s : State, s.pending = [] →
    (s.runningCores = [] → step s = .next s) ∧ (∀ u, s.runningCores = [u] → step s = .next (s.coreStep u)))

/-- Whatever command runs, in whatever state, the canonical forms of the registers, the memories and the poison marks are kept. -/
def Obligations.EveryStepKeepsCanonicalForm : Prop :=
  ∀ s t : State, s.Inv → step s = .next t → t.Inv

/-- No command takes another out of the queue or puts one into it, uses a free value twice, or takes back what has left the module. -/
def Obligations.EveryCommandExtendsTheRecord : Prop :=
  ∀ (c : Instr) (s t : State), exec c s = .next t → State.Extends s t

/-- Every command, well formed or not, has a next state in every state: nothing that a sender may send stops the module. -/
def Obligations.WellFormedCommandsAlwaysRun : Prop :=
  ∀ (c : Instr) (s : State), ∃ t, exec c s = .next t

/-- A safe queue runs to its end: a step of a safe state answers a next state that is safe. -/
def Obligations.SafeRunsStaySafe : Prop :=
  ∀ s : State, s.safe → ∃ t, step s = .next t ∧ t.safe

/-- Reset (R11, R42, R538, R544): nothing runs, no unit is on, every page's state is OFF, nothing waits, nothing has been said. The state right after
reset is in canonical form. -/
def Obligations.ResetLeavesTheModuleOff : Prop :=
  (State.reset.pending = [] ∧ State.reset.out = [] ∧ State.reset.mode = 0 ∧ State.reset.txn = none ∧
    ∀ u : UnitId, u.valid = true → State.reset.ustate u = stOff ∧ State.reset.get u Reg.common.irqStatus = 0 ∧
      State.reset.get u Reg.common.freeze = 0 ∧ State.reset.get u Reg.common.force = 0 ∧ State.reset.get u Reg.common.irqEnable = 0) ∧
  (State.reset.Inv)

/-- A write of a register field reads back cut to the field's width, changes no other word and no other bit of its words, and nothing but registers. -/
def Obligations.FieldWritesTouchOnlyTheirBits : Prop :=
  ∀ (s : State) (u : UnitId) (f : Field) (v : Nat),
    (s.put u f v).get u f = v % 2 ^ f.width ∧
    { s.put u f v with regs := s.regs } = s ∧
    (∀ a, (∀ i < fieldSpan (u.home f) f, a ≠ (fieldPos (u.home f) f).1 + 4 * i) → (s.put u f v).word a = s.word a) ∧
    (∀ b, b < 32 * fieldSpan (u.home f) f → (b < (fieldPos (u.home f) f).2 ∨ (fieldPos (u.home f) f).2 + f.width ≤ b) →
      bit ((s.put u f v).words (fieldPos (u.home f) f).1 (fieldSpan (u.home f) f)) b =
        bit (s.words (fieldPos (u.home f) f).1 (fieldSpan (u.home f) f)) b)

/-- A read after a write: each byte of the run reads as written, every other byte as before, and the memory stays canonical. -/
def Obligations.StoresChangeOnlyTheirBytes : Prop :=
  ∀ (s : State) (a : Nat) (d : List Byte),
    (∀ i (h : i < d.length), (s.store a d).byte (a + i) = d[i]) ∧
    (∀ k, (k < a ∨ a + d.length ≤ k) → (s.store a d).byte k = s.byte k) ∧
    (Memory.wf s.mem = true → Memory.wf (s.store a d).mem = true) ∧ { s.store a d with mem := s.mem } = s

/-- The controls of a page by a source that may write it: FREEZE, ENABLE, FORCE, EXPERT_EN, the interrupt words, the error log and the counter
snapshot take effect as R9, R40 to R46 and R639 say. The commands on a page's controls by a source that may not write it change nothing, and
neither do those on a page that the module lacks (R33, R35). -/
def Obligations.PageControlsTakeEffect : Prop :=
  (∀ (s : State) (u : UnitId) (src : Src), u.valid = true → s.mayWrite src u = true →
    exec (.ctrlFreeze u src true) s = .next (s.put u Reg.common.freeze 1) ∧
    exec (.ctrlFreeze u src false) s = .next ((s.put u Reg.common.freeze 0).resumes u) ∧
    (disableable u.blk = true → s.ustate u = stRunning → s.forced u = false →
      let t := ((s.put u Reg.common.enable 0).put u Reg.common.enablePending 0).setState u stDraining
      (u.blk ≠ .pge → (u.blk = .dlr → u = s.dealer ∨ s.roleOf 0 u.ix ≠ 1) → (u.blk = .bvl → s.linkState u.ix ≠ lkRecovering) →
        exec (.ctrlEnableClear u src) s = .next t) ∧
      (u.blk = .pge → exec (.ctrlEnableClear u src) s = .next (t.pgeAborts u.ix).pageService) ∧
      (u.blk = .dlr → u ≠ s.dealer → s.roleOf 0 u.ix = 1 → exec (.ctrlEnableClear u src) s = .next (t.dummyOut 0)) ∧
      (u.blk = .bvl → s.linkState u.ix = lkRecovering → exec (.ctrlEnableClear u src) s = .next (t.setLink u.ix (fun l => { l with leaving := true })))) ∧
    (disableable u.blk = true → s.ustate u = stRunning → s.forced u = true → u.blk ≠ .dlr → u.blk ≠ .pge → u.blk ≠ .bvl → u.blk ≠ .bvf →
      exec (.ctrlEnableClear u src) s =
        .next (((s.put u Reg.common.enable 0).put u Reg.common.enablePending 0).setState u stDraining)) ∧
    (disableable u.blk = true → s.ustate u = stDraining →
      exec (.ctrlEnableSet u src) s = .next ((s.put u Reg.common.enable 1).put u Reg.common.enablePending 1)) ∧
    (disableable u.blk = true → s.ustate u = stQuiesced →
      exec (.ctrlEnableSet u src) s = .next (((s.put u Reg.common.enable 1).setState u stRunning).resumes u)) ∧
    (disableable u.blk = true → exec (.ctrlForce u src) s =
      .next ((s.put u Reg.common.force (if s.ustate u = stQuiesced then 0 else 1)).forceNow u)) ∧
    (s.expertGranted src u.blk = true → exec (.ctrlExpertEn u src) s = .next (s.put u Reg.common.expertEn 1)) ∧
    (∀ mask, exec (.irqStatusClear u src mask) s =
      .next (s.put u Reg.common.irqStatus (s.get u Reg.common.irqStatus - (s.get u Reg.common.irqStatus &&& mask)))) ∧
    (∀ mask, exec (.irqForce u src mask) s = .next (s.irq u (mask &&& irqBits u.blk))) ∧
    (∃ t, exec (.snapshot u src) s = .next t ∧ t.flag u Reg.common.frozen = true ∧
      ∀ k, k < 32 → k < numCounters u.blk → timedCounter u.blk k = false → t.readCount u k = s.live u k) ∧
    (∃ t, exec (.clear u src false) s = .next t ∧ t.flag u Reg.common.frozen = false ∧ ∀ k, k < 32 → t.live u k = 0) ∧
    (∃ t, exec (.clear u src true) s = .next t ∧ t.flag u Reg.common.frozen = true ∧ (∀ k, k < 32 → t.live u k = 0) ∧
      ∀ k, k < 32 → k < numCounters u.blk → timedCounter u.blk k = false → t.readCount u k = s.live u k)) ∧
  (∀ (s : State) (u : UnitId) (src : Src) (c : Instr) (on ws : Bool) (mask : Nat),
    c ∈ [Instr.ctrlFreeze u src on, .ctrlEnableClear u src, .ctrlEnableSet u src, .ctrlForce u src, .ctrlExpertEn u src, .irqStatusClear u src mask,
      .irqForce u src mask, .snapshot u src, .clear u src ws] →
    u.valid = false ∨ s.mayWrite src u = false → exec c s = .next s)

/-- A read of ERR_LOG answers sequence number, code and count in one 64-bit value and clears the count (R9, R45); a drain that has nothing in flight
ends QUIESCED (R43); a unit under FORCE stops its lanes at a break point (R44, R91); a unit that faults ends FAULTED (R43). -/
def Obligations.ErrorLogReadsAndDrains : Prop :=
  ∀ (s : State) (u : UnitId), u.valid = true →
    (∀ src, s.mayRead src u = true → ∃ t, exec (.errLogRead u src) s = .next t ∧ t.get u Reg.common.errCount = 0 ∧
      t.resp = [s.get u Reg.common.logSeq + s.get u Reg.common.lastCode * 2 ^ 32 + s.get u Reg.common.errCount * 2 ^ 48] ∧
      t.mem = s.mem ∧ t.out = s.out) ∧
    (∀ src, s.mayRead src u = false → ∃ t, exec (.errLogRead u src) s = .next t ∧ t.resp = [0] ∧ t.regs = s.regs) ∧
    (s.ustate u = stDraining → s.idle u = true →
      (u.blk ≠ .bvl → u.blk ≠ .ce → s.flag u Reg.common.enablePending = false → exec (.unitDrainComplete u) s = .next (s.quiesce u)) ∧
      (u.blk ≠ .bvl → u.blk ≠ .ce → s.flag u Reg.common.enablePending = true → exec (.unitDrainComplete u) s = .next ((s.quiesce u).resumes u)) ∧
      (u.blk = .ce → s.flag u Reg.common.enablePending = false → s.ustate (ceU (partnerOf u.ix)) = stRunning →
        exec (.unitDrainComplete u) s = .next ((s.quiesce u).irq (ceU (partnerOf u.ix)) (2 ^ 20)))) ∧
    (s.ustate u ≠ stDraining ∨ s.idle u = false → exec (.unitDrainComplete u) s = .next s) ∧
    (u.blk ≠ .ce → s.forced u = true → s.inChain u = false →
      (∃ l r, (s.unit u).queue = l :: r ∧ (l.status.isSome = true ∨ s.begun u = false ∨ l.bpp = 2 ∧ s.innerBreaks l = true)) →
      exec (.breakPointAbort u) s = .next (s.stopLanes u)) ∧
    (u.blk ≠ .ce → s.inChain u = true → exec (.breakPointAbort u) s = .next s) ∧
    (u.blk = .ce → s.forced u = true → exec (.breakPointAbort u) s = .next (s.ceAbort u)) ∧
    (s.ustate u ≠ stOff → s.ustate u ≠ stVacant → s.ustate u ≠ stFaulted →
      (u.blk ∉ [Blk.pge, .ce, .bvf, .bvl, .tbl, .mem] → exec (.unitFault u) s = .next (s.faultUnit u 3)) ∧
      (u.blk = .tbl ∨ u.blk = .mem → exec (.unitFault u) s = .next (s.faultUnit u 3).goesOn) ∧
      (u.blk = .pge → exec (.unitFault u) s = .next ((s.faultUnit u 3).pgeLost u.ix)) ∧
      (u.blk = .ce → exec (.unitFault u) s = .next ((s.faultUnit u 3).ceTakeover u)))

/-- PLAN.LOAD of a file that passes every check makes the plan present and its slot usable; one that fails a check leaves only the result. PLAN.UNLOAD
of a loaded plan sets BUSY, and the unload is done once no step uses the plan (R98). A virtual function loads and unloads no plan. -/
def Obligations.PlansLoadAndUnload : Prop :=
  (∀ (s : State) (src : Src) (part pslot : Nat), notVf src = true →
    let s0 := (s.put dlrU Reg.dlr.planPart part).put dlrU Reg.dlr.planPslot pslot
    let r := s0.planResult part pslot (s0.get dlrU Reg.dlr.planAddr)
    (r = 0 → ∃ t, exec (.planLoad src part pslot) s = .next t ∧
      (t.part part).plans = (pslot, dgaKey (s0.get dlrU Reg.dlr.planAddr)) :: (s.part part).plans ∧ t.mem = s.mem ∧ t.pge = s.pge ∧
      t.units = s.units ∧ t.out = s.out ∧ ∀ q, q ≠ part → t.part q = s.part q) ∧
    (r ≠ 0 → exec (.planLoad src part pslot) s = .next (s0.put dlrU Reg.dlr.planResult r)) ∧
    ((s.part part).plans.any (fun x => x.1 == pslot) = true → (s.part part).unloading.contains pslot = false →
      exec (.planUnload src part pslot) s =
        .next ((s0.put dlrU Reg.dlr.planBusy 1).setPart part (fun x => { x with unloading := pslot :: x.unloading }))) ∧
    ((s.part part).unloading.contains pslot = true → (s.part part).step = none →
      ∃ t, exec (.planUnloadDone part pslot) s = .next t ∧ (t.part part).plans = (s.part part).plans.filter (fun y => y.1 != pslot) ∧
        t.mem = s.mem ∧ t.units = s.units ∧ t.out = s.out)) ∧
  (∀ (s : State) (v part pslot : Nat), exec (.planLoad (.vf v) part pslot) s = .next s ∧ exec (.planUnload (.vf v) part pslot) s = .next s)

/-- A step forms from the entries that the gatherer takes, once pending aborts are settled and the records read, under the first plan that fits them,
and its header goes out to every member; where no plan fits, the sequences that none can take end. A member's answer is recorded, or withdraws the
step; the last READY lets the step start: its granules are zeroed and held, its tables are written, and its phase is RUNNING. A follower takes a
header of its group and plan, and answers (R349, R350, R355). -/
def Obligations.StepsFormAndStart : Prop :=
  ∀ (s : State) (part : Nat),
    (s.mayForm part = true → (s.usablePlans part).isEmpty = false →
      let c (u : State) : State := (u.settleAborts part).checkRecords part
      let g := (c s).gather part (s.usablePlans part)
      let e (u : State) : State := g.fails.foldl (fun t n => t.endSeq part n ocNoPlan) (c u)
      (fitPlan (s.usablePlans part) g.entries.reverse = none → exec (.stepForm part) s = .next (s.journaled e)) ∧
      (∀ pslot es0, fitPlan (s.usablePlans part) g.entries.reverse = some (pslot, es0) →
        exec (.stepForm part) s = .next (s.journaled (fun u =>
          ((e u).setPart part (fun r => { r with
            nextStep := r.nextStep + 1
            slots := r.slots.map (fun x => if (tableOrder es0).any (fun e => e.slot == x.slot) then
              { x with lastStep := ((e u).part part).nextStep + 1, st := if x.st = .admitted then .prefill else x.st } else x) })).askMembers part
            (newStep ((e u).part part).nextStep ((e u).part part).lastCommit 0 pslot (tableOrder es0) [] ((e u).followers part)) .stepHeader)))) ∧
    (s.mayForm part = false ∨ s.usablePlans part = [] → exec (.stepForm part) s = .next s) ∧
    (∀ t member, (s.part part).step = some t → s.isLead part = true → t.phase = .forming → t.unready.contains member = true →
      exec (.stepAnswer part member .ready) s = .next (s.journaled (fun s =>
        s.setPart part (fun r => { r with step := some { t with unready := t.unready.filter (fun m => m != member) } }))) ∧
      (∀ need, exec (.stepAnswer part member (.refused need)) s = .next (s.journaled (fun s =>
        ((s.sendGroup part .withdrawal [part, t.number]).afterRefusal part t).settleAborts part))) ∧
      exec (.stepAnswer part member (.mismatch false)) s = .next (s.journaled (fun s =>
        ((((s.sendGroup part .withdrawal [part, t.number]).unform part t).settleAborts part).setPart part
          (fun r => { r with mismatched := t.pslot :: r.mismatched })).partEvent part 0x2002 t.pslot member)) ∧
      exec (.stepAnswer part member (.mismatch true)) s = .next (s.journaled (fun s =>
        (((s.sendGroup part .withdrawal [part, t.number]).unform part t).settleAborts part).breakGroup part))) ∧
    (∀ t, (s.part part).step = some t →
      t.phase = .ready ∨ (s.isLead part = true ∧ t.phase = .forming ∧ t.unready = []) →
      t.afterFailover = false ∨ (s.issued part).any (fun l => l.stale) = false →
      let a := s.stepPlan part t
      let need := ((s.planHdr a).counters + 63) / 64
      (t.granules ≠ [] ∨ need ≤ s.granulesFree.length →
        let gs := if t.granules.isEmpty then s.granulesFree.take need else t.granules
        let t1 : StepRec := { t with granules := gs, phase := .running, poison := none }
        let u := ((((s.zeroGranules gs).setPart part (fun r => { r with step := some t1 })).planRead part 0 a 256).writeTables part
          t1).releaseMigs part
        (t.attempt = 0 → exec (.stepStart part) s = .next (((u.releaseGroups part).count s.dealer 8 (prefillRows t.entries)).count s.dealer 9
          (allRows t.entries - prefillRows t.entries))) ∧
        (t.attempt ≠ 0 → exec (.stepStart part) s = .next (u.releaseGroups part))) ∧
      (t.granules = [] → s.granulesFree.length < need → exec (.stepStart part) s = .next s)) ∧
    (∀ hdr, s.parked = false → s.isLead part = false → s.service = true → s.recovering = false → s.pstate part = 1 →
      s.ustate s.dealer = stRunning →
      (hdr.group ≠ s.groupFields part → exec (.stepHeader part hdr) s = .next (s.answer part hdr.number 3 0)) ∧
      (hdr.group = s.groupFields part → s.planMatches part hdr = false → exec (.stepHeader part hdr) s = .next (s.answer part hdr.number 2 0)) ∧
      (hdr.group = s.groupFields part → s.planMatches part hdr = true → (s.part part).step = none → (s.part part).lastCommit = hdr.prev →
        exec (.stepHeader part hdr) s = .next (s.journaled (fun s =>
          s.takeHeader part hdr (newStep hdr.number hdr.prev hdr.attempt hdr.pslot hdr.entries [] []))))) ∧
    (∀ t, (s.part part).step = some t → s.isLead part = false →
      ∃ u, exec (.headerWithdrawal part t.number) s = .next u ∧ (u.part part).step = none)

/-- A step ends once its wait is met, every lane has completed and a command slot is free: the lead decides on the votes, a follower sends its vote. A
vote is noted with what it poisons, and the last one lets the lead decide: without poison it commits. A member applies the commit, the token
records go to the ring with the outcomes that waited for them, and a vote, an answer or an acknowledgement that does not come in time loses the
group (R356, R364). -/
def Obligations.StepsEndAndCommit : Prop :=
  ∀ (s : State) (part res : Nat) (t : StepRec),
    (s.running part = some t → t.oldest = (s.planHdr (s.stepPlan part t)).templates - 1 →
      s.waitMet t (s.tmpl (s.stepPlan part t) t.oldest) = true → t.waiting = [] → (s.issued part).any (fun l => !l.stale) = false →
      s.slotFree part = true →
      let u (s : State) : State := s.tmplRead part (s.stepPlan part t) t.oldest
      let e (s : State) : StepRec := { (((u s).part part).step.getD t) with phase := .ended }
      let w (s : State) : State := (u s).setPart part (fun r => { r with step := some (e s) })
      (s.isLead part = true → (u s).isLead part = true → exec (.stepEnd part res) s = .next (s.journaled (fun s =>
        (w s).decideStep part (e s) res))) ∧
      (s.isLead part = false → (u s).isLead part = false → exec (.stepEnd part res) s = .next (s.journaled (fun s =>
        (w s).sendLead part .vote ([part, t.number, t.attempt, (u s).memberIx part] ++
          (match (e s).poison with | none => [0, 0, 0] | some x => [1, x.1, x.2])))))) ∧
    (∀ member, (s.part part).step = some t → s.isLead part = true → t.unvoted.contains member = true → t.votedPoison = false →
      t.uncounted = false →
      exec (.voteReceived part member t.number t.attempt none false res) s = .next (s.journaled (fun s =>
        (s.setPart part (fun r => { r with step := some { t with unvoted := t.unvoted.filter (fun m => m != member) } })).decideStep part
          { t with unvoted := t.unvoted.filter (fun m => m != member) } res))) ∧
    (∀ member x, (s.part part).step = some t → s.isLead part = true → t.unvoted.contains member = true →
      let a := s.stepPlan part t
      let i := x.2 / 256
      let t1 : StepRec := { t with
        unvoted := t.unvoted.filter (fun m => m != member)
        named := t.named ++ t.slotsNamed (s.laneOf part t (s.tmpl a i) i (x.2 % 256) (s.substituted a i (s.substSrc part t)))
        votedPoison := true }
      exec (.voteReceived part member t.number t.attempt (some x) false res) s = .next (s.journaled (fun s =>
        (s.setPart part (fun r => { r with step := some t1 })).decideStep part t1 res))) ∧
    (∀ member, (s.part part).step = some t → s.isLead part = true → t.unvoted.contains member = true →
      let t1 : StepRec := { t with unvoted := t.unvoted.filter (fun m => m != member), votedPoison := true, uncounted := true }
      exec (.voteReceived part member t.number t.attempt none true res) s = .next (s.journaled (fun s =>
        (s.setPart part (fun r => { r with step := some t1 })).decideStep part t1 res))) ∧
    (∀ (v : State) (e : StepRec), e.phase = .ended → e.unvoted = [] → e.poison = none → e.votedPoison = false →
      v.decideStep part e res = v.commitStep part e res) ∧
    (s.isLead part = false → (s.part part).step = some t → t.phase = .ended → t.poison = none → t.entries = [] →
      exec (.commitReceived part t.number [] res) s = .next (s.journaled (fun s =>
        ((((s.readResults part t res).put dlrU (Reg.dlr.partStepLow.at part) (t.number % 2 ^ 32)).count (s.readResults part t res).dealer 0 1).closeStep
          part (some t.number)).pgeBalance part))) ∧
    ((s.part part).tokOut ≠ [] ∨ (s.part part).outWait ≠ [] → exec (.tokenWrite part) s = .next (s.journaled (fun s =>
      (((s.setPart part (fun r => { r with tokOut := [] })).drainTokens part ((s.part part).tokWait ++ (s.part part).tokOut)).count s.dealer 7
        (s.part part).tokOut.length).writeOutcomes part))) ∧
    (s.isLead part = true → (s.part part).step = some t → t.phase = .ended → t.unvoted ≠ [] →
      exec (.voteTimeout part) s = .next (s.journaled (fun s => s.groupLoss part))) ∧
    (s.isLead part = true → (∃ x ∈ (s.part part).slots, x.unacked ≠ []) →
      exec (.voteTimeout part) s = .next (s.journaled (fun s => s.groupLoss part))) ∧
    (s.isLead part = false → (s.part part).step = some t → t.phase = .ended →
      exec (.voteTimeout part) s = .next (s.journaled (fun s => s.groupLoss part)))

/-- A template in the issue window whose wait is met becomes its lanes; one that the step skips signals its whole increment; a NOP ends at once, in a
command slot, and the other opcodes of its class FORMAT_ERROR. A waiting lane that is in order goes to the first unit of its search order that
runs and has room, or to the unit of its open chain; one that no unit can take, or whose chain is broken, ends UNIT_FAULT; without a command slot
it waits. A lane that has ended leaves its unit (R83 to R87, R90, R101, R362). -/
def Obligations.LanesIssueAndComplete : Prop :=
  ∀ (s : State) (part tmpl : Nat) (t : StepRec), s.running part = some t →
    let a := s.stepPlan part t
    let m := s.tmpl a tmpl
    (tmpl < (s.planHdr a).templates → t.inWindow tmpl = true → s.waitMet t m = true →
      (t.skips m = false → m.eclass ≠ 10 → exec (.templateIssue part tmpl) s = .next ((s.tmplRead part a tmpl).setPart part (fun r =>
        { r with step := r.step.map (fun t => { t.finish tmpl with waiting := t.waiting ++ (List.range (m.spanM1 + 1)).map (fun l =>
          s.laneOf part t m tmpl l (s.substituted a tmpl (s.substSrc part t))) }) }))) ∧
      (t.skips m = true → ∃ u, exec (.templateSkip part tmpl) s = .next u ∧
        (u.part part).step = ((s.tmplRead part a tmpl).part part).step.map (fun t => t.finish tmpl) ∧
        u.counterVal (t.counter m.sigId) =
          ((s.tmplRead part a tmpl).counterVal (t.counter m.sigId) + m.sigInc * (m.spanM1 + 1)) % 2 ^ 32 ∧
        (∀ c, c ≠ t.counter m.sigId → u.counterVal c = (s.tmplRead part a tmpl).counterVal c) ∧
        u.mem = (s.tmplRead part a tmpl).mem ∧ u.regs = (s.tmplRead part a tmpl).regs ∧ u.units = (s.tmplRead part a tmpl).units) ∧
      (t.skips m = false → m.eclass = 10 → m.opcode ≠ 1 → s.slotFree part = true →
        exec (.nop part tmpl) s = .next (((s.tmplRead part a tmpl).setPart part (fun r =>
          { r with step := r.step.map (fun t => t.finish tmpl) })).finishLane (s.laneOf part t m tmpl 0 m.ops) (if m.opcode = 0 then 0 else 4) none))) ∧
    (s.slotFree part = false → exec (.nop part tmpl) s = .next s) ∧
    (∀ lane l, t.waiting.find? (fun l => l.tmpl == tmpl && l.lane == lane) = some l → s.inOrder part t l = true →
      (t.broken.contains (l.eclass, l.rel) = false →
        (s.slotFree part = false → exec (.laneIssue part tmpl lane) s = .next s) ∧
        (s.slotFree part = true → s.chainUnit l = none →
          (∀ n v, (s.candidates l).find? (fun c => s.ustate c.2 == stRunning) = some (n, v) →
            ((s.unit v).queue.length < (if l.eclass = 8 then 128 else 16) → s.frozen v = false → s.gated v = false →
              exec (.laneIssue part tmpl lane) s = .next (s.issueTo part t l n v)) ∧
            ((if l.eclass = 8 then 128 else 16) ≤ (s.unit v).queue.length ∨ s.frozen v = true ∨ s.gated v = true →
              exec (.laneIssue part tmpl lane) s = .next s)) ∧
          (l.eclass ≠ 8 → (∀ c ∈ s.candidates l, s.ustate c.2 = stFaulted ∨ s.ustate c.2 = stVacant ∨ c.2.ix = 0xFFFF) →
            exec (.laneIssue part tmpl lane) s = .next ((s.unwait part l).endUnissued l 9))) ∧
        (∀ v, s.slotFree part = true → s.chainUnit l = some v → (s.unit v).queue.length < 16 → s.frozen v = false ∨ s.forced v = true →
          s.gated v = false → exec (.laneIssue part tmpl lane) s = .next (s.issueTo part t l ((s.logicalOf v).getD 0xFFFF) v))) ∧
      (t.broken.contains (l.eclass, l.rel) = true → l.bpp = 1 → exec (.laneIssue part tmpl lane) s = .next ((s.unwait part l).endUnissued l 9))) ∧
    (∀ u l, (s.unit u).queue.find? (fun l => l.status.isSome) = some l →
      (l.eclass ≠ 8 ∨ l.status ≠ some 0x0A ∨ l.stale = true →
        exec (.laneComplete u) s = .next ((s.completeLane u l (l.status.getD 0)).stopQueued u)) ∧
      (l.eclass = 8 → l.status = some 0x0A → l.stale = false →
        let v := (s.completeLane u l 0x0A).stopQueued u
        exec (.laneComplete u) s = .next (v.journaled (fun t => t.groupLoss l.part))))

/-- A doorbell that moves forward within its ring is counted, recorded as the ring's target, and starts the reads of the next descriptors; one beyond
the ring sets DOORBELL_ERR; one to a full queue sets RING_FULL. A descriptor that arrives moves the ring's head on and joins the queue of its
partition, or is answered at once when the partition is OFF or this member is not its lead; an abort is applied; a read that fails stops its ring
(R346, R361, R379, R383, R384). The lead takes the next request that may be admitted into slots, counts it, tells its group and looks its prefix
up; a follower takes the record and acknowledges each slot; an acknowledgement and a prefix report are noted in the slot (R323, R343, R347, R348). -/
def Obligations.DoorbellsFetchAndDescriptorsQueue : Prop :=
  (∀ (s : State) (src : Src) (part value : Nat), s.ownsWindow src part = true → s.ringsOn part = true →
    ((2 ^ 32 + value - s.win part Reg.win.rq0Head) % 2 ^ 32 ≤ 2 ^ s.win part Reg.win.rq0Log2 →
      let u (t : State) : State := t.setPart part (fun r =>
        { r with rq0Target := value, rq0Stop := r.rq0Stop && s.win part Reg.win.statusFetchErr == 1 })
      (s.queueFull part = false →
        exec (.rq0Doorbell src part value) s = .next ((s.count hifU 4 1).journaled (fun t => (u t).fetch))) ∧
      (s.queueFull part = true → exec (.rq0Doorbell src part value) s = .next ((s.count hifU 4 1).journaled (fun t =>
        ((((u t).stopFetch part 0).ringFull part).count s.dealer 13 1).irq s.dealer (2 ^ 20))))) ∧
    (2 ^ s.win part Reg.win.rq0Log2 < (2 ^ 32 + value - s.win part Reg.win.rq0Head) % 2 ^ 32 →
      exec (.rq0Doorbell src part value) s = .next ((s.count hifU 4 1).doorbellErr part 0 value)) ∧
    ((2 ^ 32 + value - s.win part Reg.win.rq1Head) % 2 ^ 32 ≤ 2 ^ s.win part Reg.win.rq1Log2 →
      exec (.rq1Doorbell src part value) s = .next ((s.count hifU 4 1).journaled (fun t =>
        (t.setPart part (fun r => { r with rq1Target := value, rq1Stop := r.rq1Stop && s.win part Reg.win.statusFetchErr == 1 })).fetch))) ∧
    (2 ^ s.win part Reg.win.rq1Log2 < (2 ^ 32 + value - s.win part Reg.win.rq1Head) % 2 ^ 32 →
      exec (.rq1Doorbell src part value) s = .next ((s.count hifU 4 1).doorbellErr part 4 value)) ∧
    ((s.part part).rq0Stop = false → s.win part Reg.win.rq0Head ≠ (s.part part).rq0Target →
      (∀ d, s.queueFull part = false →
        let t (u : State) : State := (u.accept part 0).count hifU 0 1
        (s.pstate part = 0 → exec (.requestDescriptor part (some d)) s = .next (s.journaled (fun u => (t u).outcomeNoSlot part d 0 ocInvalid 0))) ∧
        (s.pstate part ≠ 0 → s.isLead part = false →
          exec (.requestDescriptor part (some d)) s = .next (s.journaled (fun u => (t u).outcomeNoSlot part d 0 ocNotLead 0))) ∧
        (s.pstate part ≠ 0 → s.isLead part = true → exec (.requestDescriptor part (some d)) s = .next (s.journaled (fun u =>
          let c := (t u).copyDesc part { desc := d, since := u.now, resumed := [], fork := none }
          c.1.setPart part (fun r => { r with queue := r.queue ++ [c.2] }))))) ∧
      (∀ d, s.queueFull part = true → exec (.requestDescriptor part (some d)) s = .next (s.journaled (fun u =>
        ((u.stopFetch part 0).ringFull part).fetch))) ∧
      exec (.requestDescriptor part none) s = .next (s.journaled (fun u =>
        (((u.stopFetch part 0).fetchErr part 0 (s.win part Reg.win.rq0Head)).setPart part (fun r => { r with rq0Stop := true })).fetch))) ∧
    ((s.part part).rq1Stop = false → s.win part Reg.win.rq1Head ≠ (s.part part).rq1Target →
      (∀ d, dsc d 8 120 < 2 → exec (.abortDescriptor part (some d)) s = .next (s.journaled (fun u =>
        ((u.accept part 1).count hifU 1 1).abort part (dsc d 0 8) (dsc d 8 1 == 1)))) ∧
      (∀ d, 2 ≤ dsc d 8 120 → exec (.abortDescriptor part (some d)) s = .next (s.journaled (fun u =>
        ((u.accept part 1).count hifU 1 1).outcomeNoSlot part d 0 ocInvalid 0))) ∧
      exec (.abortDescriptor part none) s = .next (s.journaled (fun u =>
        (((u.stopFetch part 1).fetchErr part 1 (s.win part Reg.win.rq1Head)).setPart part (fun r => { r with rq1Stop := true })).fetch)))) ∧
  (∀ (s : State) (part : Nat),
    (∀ i e, s.parked = false → s.mayAdmit part = true → s.nextRequest part = some i → (s.part part).queue[i]? = some e →
      let m := s.readDesc part e
      let n := if e.fork.isSome then 1 else dsc e.desc 0x15 1
      let drop (t : State) : State := (t.setPart part (fun r => { r with queue := r.queue.eraseIdx i })).checkRoom part
      (m.2 = false → m.1.requestOk part e.desc = true → n ≤ (m.1.freeSlots part).length →
        let slots := (m.1.freeSlots part).take n
        exec (.admitRequest part) s = .next (m.1.journaled (fun t =>
          (((((drop t).takeSlots part e.desc n e.resumed (t.followers part) (e.fork.getD 0) slots).setPart part
            (fun r => { r with admissions := r.admissions + 1 })).count t.dealer 3 1).sendGroup part .admission
            ([part, n] ++ slots ++ [e.resumed.length] ++ e.resumed ++ e.desc.map (fun b => b.toNat))).matchPrefix part (slots.headD 0) e.desc))) ∧
      (m.2 = false → m.1.requestOk part e.desc = true → (m.1.freeSlots part).length < n → exec (.admitRequest part) s = .next m.1) ∧
      (m.2 = true ∨ m.1.requestOk part e.desc = false → exec (.admitRequest part) s = .next (m.1.journaled (fun t =>
        (drop t).outcomeNoSlot part e.desc (e.fork.getD 0) ocInvalid e.resumed.length)))) ∧
    (∀ slots resumed desc, s.isLead part = false → s.service = true → s.recovering = false → s.ustate s.dealer = stRunning → s.trngBad = false →
      slots.all (fun n => ((s.part part).slot? n).isSome) = false →
      exec (.admissionRecord part slots resumed desc) s = .next (s.journaled (fun t =>
        slots.foldl (fun u n => u.sendLead part .admissionAck [part, u.memberIx part, n])
          ((t.takeSlots part desc slots.length resumed [] 0 slots).setPart part (fun r => { r with admissions := r.admissions + 1 }))))) ∧
    (∀ member slot, ∃ t, exec (.admissionAck part member slot) s = .next t ∧
      (t.part part).slots = (s.part part).slots.map (fun y =>
        if y.slot = slot then { y with unacked := y.unacked.filter (fun m => m != member) } else y) ∧
      (∀ q, q ≠ part → t.part q = s.part q) ∧ t.regs = s.regs ∧ t.mem = s.mem ∧ t.out = s.out) ∧
    (∀ member slot hits x, (s.part part).slot? slot = some x → x.unreported = [member] →
      exec (.prefixReport part member slot hits) s = .next ((s.updSlot part slot (fun y => { y with unreported := [], matched := min x.matched hits })).journaled
        (fun t => t.fixMatch part slot (min x.matched hits)))))

/-- Head writes give ring space back and let waiting records out; STATUS bits clear; rings are enabled with fresh indices and disabled; the module
event ring likewise; a coalescing time-out raises the ring's vector (R376, R385, R387, R392, R396). The module event ring's controls, the
coalescing time-outs, resets of a function and the host port's link (R375, R387, R389, R392, R393, R396). -/
def Obligations.RingControlsTakeEffect : Prop :=
  (∀ (s : State) (src : Src) (part value : Nat), s.ownsWindow src part = true →
    (headOk (s.win part Reg.win.tokTail) value (s.win part Reg.win.tokLog2) = true →
      exec (.tokHeadWrite src part value) s = .next (((s.setWin part Reg.win.tokHead value).drainTokens part (s.part part).tokWait).writeOutcomes part)) ∧
    (headOk (s.win part Reg.win.tokTail) value (s.win part Reg.win.tokLog2) = false →
      exec (.tokHeadWrite src part value) s = .next (s.doorbellErr part 8 value)) ∧
    (headOk (s.win part Reg.win.evtTail) value (s.win part Reg.win.evtLog2) = true →
      exec (.evtHeadWrite src part value) s = .next ((s.setWin part Reg.win.evtHead value).drainEvents part (s.part part).evtWait)) ∧
    (headOk (s.win part Reg.win.evtTail) value (s.win part Reg.win.evtLog2) = false →
      exec (.evtHeadWrite src part value) s = .next (s.doorbellErr part 0xC value)) ∧
    (s.win part Reg.win.statusDoorbellErr = 1 → ∃ t, exec (.hifStatusClear src part 8) s = .next t ∧ t.win part Reg.win.statusDoorbellErr = 0 ∧
      t.mem = s.mem ∧ t.parts = s.parts ∧ t.units = s.units) ∧
    (s.ringsOn part = false → s.ringsOk part = true → (s.part part).evtWait = [] → (s.part part).tokWait = [] → (s.part part).outWait = [] →
      ∃ t, exec (.ringsEnable src part) s = .next t ∧ t.ringsOn part = true ∧ t.win part Reg.win.rq0Head = 0 ∧ t.win part Reg.win.tokTail = 0) ∧
    (s.ringsOn part = false → s.ringsOk part = false →
      exec (.ringsEnable src part) s = .next ((s.setWin part Reg.win.statusCfgErr 1).shadow part)) ∧
    exec (.ringsDisable src part) s = .next (s.ringsOff part)) ∧
  (∀ (s : State),
    (∀ src, notVf src = true → s.mevtOn = false → s.get hifU Reg.hif.mevtBase % 4096 = 0 → 8 ≤ s.get hifU Reg.hif.mevtLog2 →
      s.get hifU Reg.hif.mevtLog2 ≤ 16 → exec (.mevtEnable src) s =
        .next ({ (((s.put hifU Reg.hif.mevtTail 0).put hifU Reg.hif.mevtHead 0).put hifU Reg.hif.mevtEnable 1) with modUnsig := 0 } : State).flushModule) ∧
    (∀ src v, notVf src = true → headOk (s.get hifU Reg.hif.mevtTail) v (s.get hifU Reg.hif.mevtLog2) = true →
      exec (.mevtHeadWrite src v) s = .next (s.put hifU Reg.hif.mevtHead v).flushModule) ∧
    (∀ src v, notVf src = true → headOk (s.get hifU Reg.hif.mevtTail) v (s.get hifU Reg.hif.mevtLog2) = false →
      exec (.mevtHeadWrite src v) s = .next (s.put hifU Reg.hif.mevtHeadErr 1)) ∧
    (∀ p, (s.part p).tokUnsig ≠ 0 → exec (.coalTimeout (.tok p)) s = .next ((s.setPart p (fun r => { r with tokUnsig := 0 })).ringVector p 0)) ∧
    (∀ p, (s.part p).evtUnsig ≠ 0 → exec (.coalTimeout (.evt p)) s = .next ((s.setPart p (fun r => { r with evtUnsig := 0 })).ringVector p 1)) ∧
    (s.modUnsig ≠ 0 → exec (.coalTimeout .module) s = .next (({ s with modUnsig := 0 } : State).msix none 0)) ∧
    (∀ p, p < s.vfs → exec (.vfFlr p) s = .next ((s.ringsOff p).setWords (winBase p + 0x100) 14 0)) ∧
    (∀ n, exec (.numvfsWrite n) s = .next (s.put hifU Reg.hif.linkVfs n)) ∧
    (∃ t, exec (.portHDown .linkFailure) s = .next t ∧ t.get hifU Reg.hif.linkState = 0 ∧ t.get hifU Reg.hif.linkIdeOn = 0 ∧ t.merge = none ∧
      t.spdm.ideSet = 0) ∧
    (s.awake = true → s.sys.pgood = true → s.hostUp = false → s.minimal = false → ∃ t, exec (.portHLinkUp 2 3) s = .next t ∧
      t.get hifU Reg.hif.linkState = 2 ∧ t.get hifU Reg.hif.linkWidth = 2 ∧ t.get hifU Reg.hif.linkRate = 3 ∧
      t.memWin = s.get hifU Reg.hif.memwinSizeGib))

/-- The CXL.mem window: a read inside an aperture goes to the line that the aperture maps, one outside returns zeros with poison; a write outside is
dropped and counted; a masked or poisoned write goes to its line alone; a whole clean quarter starts or continues the host's run, and the fourth
of four that follow one another goes out as one write of the whole line. The mailbox and DOE answer what R373 lists. -/
def Obligations.WindowAccessesAndDiscovery : Prop :=
  ∀ (s : State) (w : Nat) (ev : MemEv),
    (s.hostUp = true → s.parked = false →
      let s1 : State := (s.count hifU 6 1).endRun
      (s1.windowTarget (w / 64 * 64) = none →
        exec (.cxlMemRead w ev) s = .next ((s1.windowRefused (w / 64 * 64)).tblAnswer true (List.replicate 64 0))) ∧
      (∀ p sp off ro, s1.windowTarget (w / 64 * 64) = some (p, sp, off, ro) →
        exec (.cxlMemRead w ev) s = .next (s1.hostRead p sp off ev).reviewAll)) ∧
    (∀ data pois, s.hostUp = true → s.parked = false → data.length = 64 →
      let s1 : State := s.count hifU 7 1
      (s1.windowTarget (w / 64 * 64) = none → exec (.cxlMemWrite w data pois ev) s = .next (s1.endRun.windowRefused (w / 64 * 64))) ∧
      (∀ p sp off, s1.windowTarget (w / 64 * 64) = some (p, sp, off, true) → exec (.cxlMemWrite w data pois ev) s = .next s1.endRun) ∧
      (∀ p sp off, s1.windowTarget (w / 64 * 64) = some (p, sp, off, false) →
        let d := data.map (fun x => x.getD 0)
        let line := key sp off / 256
        let b := key sp off % 256 / 64
        (data.any Option.isSome = true → data.all Option.isSome = false ∨ pois = true →
          exec (.cxlMemWrite w data pois ev) s = .next (s1.endRun.hostWrite p sp off d (keepMask data) pois ev).reviewAll) ∧
        (data.any Option.isSome = false → exec (.cxlMemWrite w data pois ev) s = .next s1.endRun) ∧
        (data.all Option.isSome = true → pois = false → s.merge = none →
          exec (.cxlMemWrite w data pois ev) s =
            .next (({ s1 with merge := some ⟨line, [(b, d)], [], []⟩ } : State).hostWrite p sp off d 0 false ev).reviewAll) ∧
        (∀ x y z done, data.all Option.isSome = true → pois = false → s.merge = some ⟨line, [x, y, z], done, []⟩ →
          x.1 ≠ b → y.1 ≠ b → z.1 ≠ b → (∀ i ∈ done, i = x.1 ∨ i = y.1 ∨ i = z.1) →
          let r : HostRun := ⟨line, [x, y, z, (b, d)], done, []⟩
          exec (.cxlMemWrite w data pois ev) s =
            .next ((({ s1 with merge := some r } : State).merged line).hostWrite p sp (off / 256 * 256) r.data 0 false ev).reviewAll))) ∧
    (s.reachable .pf = true → ∃ t, exec (.identifyMemoryDevice .pf) s = .next t ∧
      (∃ f, t.resp = [s.memWin * 4, s.memWin * 4, 0, f]) ∧ t.regs = s.regs ∧ t.mem = s.mem ∧ t.out = s.out) ∧
    (s.reachable .pf = true → ∃ t, exec (.getSupportedLogs .pf) s = .next t ∧ (∃ f, t.resp = [f]) ∧ t.regs = s.regs ∧ t.mem = s.mem ∧ t.out = s.out) ∧
    (s.reachable .pf = true → exec (.discovery .pf 0) s = .next (s.respond [1, 0, 1])) ∧
    (s.reachable .pf = true → exec (.discovery .pf 3) s = .next (s.respond [0x1E98, 2, 0]))

/-- A transport negotiates version, capabilities and algorithms in that order; then digests, certificates, challenges and measurements are answered; a
request that comes too early is answered UnexpectedRequest and changes nothing else (R490 to R492). A session is made by KEY_EXCHANGE and FINISH,
lives through heartbeats and key updates, and ends; in it the physical function sets the IDE keys of a stream; a large response is fetched in
pieces (R373, R491). -/
def Obligations.SpdmNegotiatesAndMeasures : Prop :=
  (∀ (s : State) (via : Src), s.heard via = true →
    exec (.getVersion via) s = .next ((s.toStage via 1).respond [0x12, 0x13]) ∧
    (∀ size, 1 ≤ s.spdmStage via → 42 ≤ size → ∃ t, exec (.getCapabilities via size) s = .next t ∧ t.spdmStage via = 2 ∧ t.resp = [spdmFlags] ∧
      Sparse.get (fun _ => 0) t.spdm.sizes (viaCode via) = size ∧ t.regs = s.regs ∧ t.mem = s.mem) ∧
    (2 ≤ s.spdmStage via → exec (.negotiateAlgorithms via 0x100 4 0x20 2) s = .next ((s.toStage via 3).respond [0x100, 4, 0x20, 2])) ∧
    (∀ slot size offset len nonce, s.spdmStage via = 0 → ∀ c ∈ [Instr.getCapabilities via size, .negotiateAlgorithms via 0x100 4 0x20 2, .getDigests via,
      .getCertificate via slot offset len, .challenge via slot nonce, .getMeasurements via slot true nonce, .keyExchange via],
      exec c s = .next (s.respond [0x7F, 4])) ∧
    (3 ≤ s.spdmStage via → exec (.getDigests via) s = .next (s.respond (1 :: (sha512 s.chainBytes).map (fun b => b.toNat)))) ∧
    (∀ offset len, 3 ≤ s.spdmStage via →
      (offset < s.chainBytes.length → ∃ t, exec (.getCertificate via 0 offset len) s = .next t ∧ t = s.respond t.resp ∧
        t.resp.drop 3 = ((s.chainBytes.drop offset).take len).map (fun b => b.toNat) ∧
        t.resp.take 3 = [0, min len (s.chainBytes.length - offset), s.chainBytes.length - offset - min len (s.chainBytes.length - offset)]) ∧
      (s.chainBytes.length ≤ offset → exec (.getCertificate via 0 offset len) s = .next (s.respond [0x7F, 1]))) ∧
    (∀ nonce, 3 ≤ s.spdmStage via → ∃ t sig, exec (.challenge via 0 nonce) s = .next t ∧ sig.length = 132 ∧
      t = { s.respond (s.slotCerts.length :: (sha512 s.chainBytes).map (fun b => b.toNat) ++ sig) with freeIdx := t.freeIdx }) ∧
    (∀ slot offset len nonce, slot ≠ 0 → 3 ≤ s.spdmStage via → exec (.getCertificate via slot offset len) s = .next (s.respond [0x7F, 1]) ∧
      exec (.challenge via slot nonce) s = .next (s.respond [0x7F, 1])) ∧
    (∀ index m nonce, 3 ≤ s.spdmStage via → s.measure via index nonce = some m →
      exec (.getMeasurements via index false nonce) s = .next (m.2.2.spdmAnswer via (leBytes 1 index ++ leBytes 1 m.1 ++ m.2.1)) ∧
      ∃ sig t, exec (.getMeasurements via index true nonce) s = .next (State.spdmAnswer t via (leBytes 1 index ++ leBytes 1 m.1 ++ m.2.1 ++ sig)) ∧
        sig.length = 132 ∧ { t with freeIdx := m.2.2.freeIdx } = m.2.2) ∧
    (∀ index nonce, 3 ≤ s.spdmStage via → s.measure via index nonce = none →
      exec (.getMeasurements via index false nonce) s = .next (s.spdmAnswer via (leBytes 1 index)))) ∧
  (∀ (s : State) (via : Src) (id : Nat), s.heard via = true → 3 ≤ s.spdmStage via →
    (s.spdm.sessions.length < 4 → s.trngBad = false → ∃ t, exec (.keyExchange via) s = .next t ∧
      t.spdm.sessions = s.spdm.sessions ++ [⟨s.freeSession, viaCode via, false, 0⟩] ∧ t.resp.head? = some s.freeSession ∧ t.resp.length = 133 ∧ t.regs = s.regs) ∧
    (s.spdm.sessions.length < 4 → s.trngBad = true → exec (.keyExchange via) s = .next (s.respond [0x7F, 0x42])) ∧
    (4 ≤ s.spdm.sessions.length → exec (.keyExchange via) s = .next (s.respond [0x7F, 0x0A])) ∧
    ((∃ x, s.sessionOf via id = some x ∧ x.live = false) → exec (.finish via id) s =
      .next (((s.setSession id (fun x => { x with live := true })).count secU 1 1).respond [0])) ∧
    ((∃ x, s.sessionOf via id = some x ∧ x.live = true) →
      exec (.spdmHeartbeat via id) s = .next (s.respond [0]) ∧
      exec (.keyUpdate via id) s = .next ((s.setSession id (fun x => { x with updates := x.updates + 1 })).respond [0]) ∧
      (∃ t, exec (.endSession via id) s = .next t ∧ t.spdm.sessions = s.spdm.sessions.filter (fun x => x.id != id) ∧ t.resp = [0] ∧ t.regs = s.regs) ∧
      (via = .pf → ∃ t, exec (.ideKm via id 0 true) s = .next t ∧ t.get hifU Reg.hif.linkIdeOn = 1 ∧ bit t.spdm.ideSet 0 = true ∧ t.resp = [0])) ∧
    (s.sessionOf via id = none → ∀ c ∈ [Instr.finish via id, .spdmHeartbeat via id, .keyUpdate via id, .endSession via id],
      exec c s = .next (s.respond [0x7F, 2])) ∧
    (via ≠ .pf → ∀ stream on, exec (.ideKm via id stream on) s = .next (s.respond [0x7F, 7])) ∧
    (∀ l, s.spdm.large.find? (fun l => l.1 == viaCode via && l.2.1 == id) = some l → ∃ t, exec (.chunkGet via id l.2.2.2) s = .next t ∧
      t.resp.take 2 = [id, l.2.2.2] ∧ t.resp.drop 3 = (l.2.2.1.take (Sparse.get (fun _ => 0) s.spdm.sizes (viaCode via) - 16)).map (fun b => b.toNat)))

/-- A write by a source that may write the page reaches the field that it addresses: IRQ_ENABLE takes the value, a read-only word and a page that the
source may not write ignore it, and an access of another size or alignment is an ACCESS event (R9, R31, R33, R45). -/
def Obligations.RegisterWritesReachTheirField : Prop :=
  ∀ (s : State) (src : Src) (u : UnitId) (v addr size : Nat), s.awake = true → u.valid = true →
    (s.mayWrite src u = true → exec (.registerWrite src (u.base + 0x14) 4 v) s = .next (s.irqEnableTo u (v % 2 ^ 32))) ∧
    (s.mayWrite src u = true → exec (.registerWrite src (u.base + 0xC) 4 v) s = .next s) ∧
    (s.mayWrite src u = false → ∀ off, off % 8 = 0 → off < 0x1000 → (size = 4 ∨ size = 8) → exec (.registerWrite src (u.base + off) size v) s = .next s) ∧
    (addr < 0x400_0000 → ((size = 4 ∨ size = 8) → addr % size ≠ 0) → exec (.registerWrite src addr size v) s = .next (s.accessEvent addr size))

/-- A write of a transactional field: outside a transaction it is ignored; from the opener it lands in the shadow and the committed value stays; from
another path it is ignored and logged (R9, R578). -/
def Obligations.TransactionalWritesLandInShadows : Prop :=
  ∀ (s : State) (src : Src) (v : Nat), s.mayWrite src ctuU = true →
    (s.txn = none → exec (.rwtWrite src (ctuU.base + 0x114) 4 v) s = .next s) ∧
    (∀ t, s.txn = some t → t.applying = false → t.opener = src → t.kind = 1 → ∃ s', exec (.rwtWrite src (ctuU.base + 0x114) 4 v) s = .next s' ∧
      s'.proposed ctuU Reg.ctu.txnFlipTarget = v % 2 ∧ { s' with txn := s.txn } = s ∧
      ∃ t', s'.txn = some t' ∧ { t' with shadow := t.shadow, writes := t.writes, conflict := t.conflict } = t) ∧
    (∀ t, s.txn = some t → t.applying = false → t.opener ≠ src →
      exec (.rwtWrite src (ctuU.base + 0x114) 4 v) s = .next (s.accessEvent (ctuU.base + 0x114) 4))

/-- The management path: once the module answers with an endpoint, REG_WRITE takes a field and answers 0, or ignores it and answers 1; REG_READ
answers the words, at most 16 (R612). -/
def Obligations.ManagementReadsAndWritesRegisters : Prop :=
  ∀ (s : State) (u : UnitId) (v : Nat) (secured : Bool), s.endpoint = true → s.awake = true → u.valid = true → (s.minimal = false ∨ u.blk = .mgt) →
    let t := (s.count mgtU 2 1).count mgtU 3 1
    t.mayWrite .mgmt u = true →
    exec (.regWrite u.page 0x14 (2 ^ 32 - 1) v secured) s = .next ((t.irqEnableTo u (v % 2 ^ 32)).respond [0]) ∧
    exec (.regWrite u.page 0xC (2 ^ 32 - 1) v secured) s = .next (t.respond [1]) ∧
    exec (.regRead u.page 0x14 1) s = .next ((t.readSide .mgmt u 0x14).respond [t.get u Reg.common.irqEnable]) ∧
    (∀ count, 16 < count → exec (.regRead u.page 0x14 count) s = .next (t.respond []))

/-- An engine's command runs the head lane of its unit when it covers the lane's opcode: not while the page engine that translates for it or a line
that it needs is held; rejected by its dispatch checks; else its inputs are read, its work done, and it ends with the status that the work gives,
POISON_IN on a poisoned input, DATA_ERROR on an uncorrectable error that it meets, the code of an error in the engine, or the one code that its
command forces; a poisoning status marks its outputs, and overlapping ranges leave them unspecified (R44, R94, R114, R116, R123, R166, R601). -/
def Obligations.EnginesRunTheirHeadLane : Prop :=
  ∀ (s : State) (u : UnitId) (ev : LaneEv) (l : Lane) (rest : List Lane) (c : Instr) (covers : Nat → Bool) (k : Nat) (b : Blk)
    (job : State → Lane → Job),
    (b, covers, k, c, job) ∈ [(Blk.mt, fun op => op != 2 && op != 3, 11, Instr.mtMm u ev, State.mtJob), (.mt, fun op => op == 2, 11, .mtMmCb u ev, State.mtJob),
      (.mt, fun op => op == 3, 11, .mtMmGrouped u ev, State.mtJob),
      (.ae, fun op => op != 2 && op != 3 && op != 4 && op != 5, 11, .attn u ev, State.aeJob), (.ae, fun op => op == 2, 11, .summarise u ev, State.aeJob),
      (.ae, fun op => op == 3, 11, .score u ev, State.aeJob), (.ae, fun op => op == 4, 11, .pick u ev, State.aeJob),
      (.ae, fun op => op == 5, 11, .merge u ev, State.aeJob), (.ew, fun op => !(decide (2 ≤ op ∧ op ≤ 5)), 6, .norm u ev, State.ewJob),
      (.ew, fun op => op == 2, 6, .act u ev, State.ewJob), (.ew, fun op => op == 3, 6, .gated u ev, State.ewJob),
      (.ew, fun op => op == 4, 6, .add u ev, State.ewJob), (.ew, fun op => op == 5, 6, .rope u ev, State.ewJob),
      (.shf, fun op => !(decide (2 ≤ op ∧ op ≤ 5)), 9, .shfCopy u ev, State.shfJob), (.shf, fun op => op == 2, 9, .quant u ev, State.shfJob),
      (.shf, fun op => op == 3, 9, .gather u ev, State.shfJob), (.shf, fun op => op == 4, 9, .scatter u ev, State.shfJob),
      (.shf, fun op => op == 5, 9, .kvWrite u ev, State.shfJob), (.xr, fun op => op != 2, 5, .gate u ev, State.xrJob),
      (.xr, fun op => op == 2, 5, .dispatch u ev, State.xrJob), (.smp, fun _ => true, 9, .sample u ev, State.smpJob),
      (.dma, fun op => decide (op ≠ 2 ∧ op ≠ 3), 7, .dmaCopy u ev, fun t l => t.dmaJob u l), (.dma, fun op => op == 2, 7, .fill u ev, fun t l => t.dmaJob u l),
      (.dma, fun op => op == 3, 7, .push u ev, fun t l => t.dmaJob u l)] →
    u.blk = b → u.valid = true → (s.unit u).queue = l :: rest → l.status = none → covers l.opcode = true →
    (s.ustate u = stRunning ∨ s.ustate u = stDraining) →
    (b = .dma → s.dmaRemote l = false) → (b = .ae ∨ c = .kvWrite u ev → s.lookupsHeld u = false) →
    let j := job s l
    let m := j.read u (blkClass b) s
    let w := j.run m.1
    let r := if lanesClash (l.peers (job s)) then w.1.blur j.outs else w.1
    let ends (t : State) (st : Nat) : State := (t.setUnit u (fun x => { x with queue := { l with status := some st } :: rest })).correct u k ev.corrected
    let spoiled (st : Nat) : State := ends ((r.poisonOuts l.part j.outs).sawPoison u st j.outs) st
    (j.waits s = true → exec c s = .next (s.correct u k ev.corrected)) ∧
    (j.waits s = false →
      (∀ st, j.reject = some st → exec c s = .next (ends ((s.poisonOuts l.part j.outs).sawPoison u st j.outs) st)) ∧
      (∀ e, j.reject = none → j.last = some e → exec c s = .next (spoiled e)) ∧
      (j.reject = none → j.last = none →
        (m.2 = true ∨ r.writesFail j.outs = true → exec c s = .next (spoiled 3)) ∧
        (m.2 = false → r.writesFail j.outs = false →
          (∀ e, ev.err = some e → exec c s = .next (spoiled e)) ∧
          (ev.err = none →
            (m.1.poisonedIn j.reads = true → exec c s = .next (spoiled 2)) ∧
            (m.1.poisonedIn j.reads = false → poisoning w.2 = false → exec c s = .next (ends r w.2)) ∧
            (m.1.poisonedIn j.reads = false → poisoning w.2 = true →
              exec c s = .next (ends ((if j.marks then r else r.poisonOuts l.part j.outs).sawPoison u w.2 j.outs) w.2))))))

/-- FILL writes its pattern into every 8-byte word of its row and no other byte, and ends OK (R293). -/
def Obligations.FillWritesItsPattern : Prop :=
  ∀ (s : State) (u : UnitId) (l : Lane) (rest : List Lane), u.blk = .dma → u.valid = true → (s.unit u).queue = l :: rest → l.status = none →
    l.opcode = 2 → s.ustate u = stRunning → s.dmaChecks l = none → l.spanM1 = 0 → l.dma.m = 1 → s.hurt = {} →
    (s.dmaJob u l).waits s = false →
    (∀ x ∈ linesOf (dgaKey l.dma.dst) l.dma.n, s.lost x = false ∧ s.sealedLine x = false ∧ s.deviceFaulted x = false) →
    ∃ t, exec (.fill u ⟨none, 0⟩) s = .next t ∧ (t.unit u).queue = { l with status := some 0 } :: rest ∧
      (∀ i, i < l.dma.n → some (t.byte (dgaKey l.dma.dst + i)) = (leBytes 8 l.dma.pat)[i % 8]?) ∧
      (∀ a, a < dgaKey l.dma.dst ∨ dgaKey l.dma.dst + l.dma.n ≤ a → t.byte a = s.byte a)

/-- A lane of a DMA engine with an end on another node starts and sends its pieces as requests, unless a line of its destination here is held; an
error in the engine ends it: a PUSH, a COPY from or to another node (R296, R301). -/
def Obligations.RemoteLanesSendTheirPieces : Prop :=
  ∀ (s : State) (u : UnitId) (l : Lane) (rest : List Lane) (c : Instr) (ev : LaneEv), u.blk = .dma → u.valid = true → (s.unit u).queue = l :: rest →
    l.status = none → (l.opcode = 1 ∧ c = .dmaCopy u ev ∨ l.opcode = 3 ∧ c = .push u ev) → s.ustate u = stRunning ∨ s.ustate u = stDraining →
    s.dmaChecks l = none → s.dmaHere l = false → (l.share l.dma.m).1 < (l.share l.dma.m).2 →
    (∀ e, ev.err = some e → exec c s = .next ((s.dmaEnd u l e).correct u 7 ev.corrected)) ∧
    (ev.err = none → (s.unit u).dma = none →
      (s.heldIn (s.dmaOuts l) = true → exec c s = .next (s.correct u 7 ev.corrected)) ∧
      (s.heldIn (s.dmaOuts l) = false →
        exec c s = .next (((s.setUnit u (fun x => { x with dma := some {} })).dmaGo u).correct u 7 ev.corrected))) ∧
    (ev.err = none → (s.unit u).dma ≠ none → exec c s = .next ((s.dmaGo u).correct u 7 ev.corrected))

/-- A utility core: RUN enters the kernel of a lane that passes its checks, ends the lane with the check's status where one fails, and waits while its
image is held; TRACE keeps a word while tracing is on; EXIT, a trap and a time-out end the lane and its kernel with the status that R230, R231 and
R233 give, ACCESS_FAULT where an access of the kernel lay out of its reach, and an error in the core takes the place of the exit status. The
status that a kernel's exit value gives its lane (R231). -/
def Obligations.KernelsRunAndEnd : Prop :=
  (∀ (s : State) (u : UnitId) (l : Lane) (rest : List Lane) (ev : LaneEv), u.blk = .uc → u.valid = true → (s.unit u).queue = l :: rest → l.status = none →
    ((s.ustate u = stRunning ∨ s.ustate u = stDraining) → (s.unit u).kernel = none →
      (s.forced u = true → s.inChain u = false → exec (.run u ev) s = .next s) ∧
      (s.forced u = false ∨ s.inChain u = true →
        (∀ st, (s.ucReject l).or ev.err = some st → exec (.run u ev) s =
          .next (((((s.correct u 9 ev.corrected).poisonOuts l.part (s.ucOuts l)).put u Reg.uc.lastStatus st).setUnit u (fun x =>
            { x with queue := x.queue.modifyHead (fun l => { l with status := some st }) })).sawPoison u st (s.ucOuts l))) ∧
        (s.ucReject l = none → ev.err = none →
          (s.heldIn (s.launchReads l) = true → exec (.run u ev) s = .next s) ∧
          (s.heldIn (s.launchReads l) = false →
            let t := ((s.correct u 9 ev.corrected).readAll clsUc (s.launchReads l)).1
            exec (.run u ev) s = .next ((t.count u 4 (rangeBytes (s.launchReads l))).enterKernel u (t.launch u l)))))) ∧
    (∀ k, (s.unit u).kernel = some k →
      (∀ word, s.flag u Reg.uc.debugTraceEn = true → exec (.trace u word) s = .next (s.setUnit u (fun x => { x with trace := x.trace ++ [word % 2 ^ 64] }))) ∧
      (∀ word, s.flag u Reg.uc.debugTraceEn = false → exec (.trace u word) s = .next s) ∧
      (∀ io a0 pc cause val, s.ioHeld io = true → exec (.exit u a0 io ev) s = .next s ∧ exec (.kernelTrap u pc cause val io) s = .next s) ∧
      (∀ io, s.ioHeld io = false →
        let r := s.kernelIo u l.part k io
        (∀ a0 e, ev.err = some e → exec (.exit u a0 io ev) s = .next ((r.st.correct u 9 ev.corrected).endKernel u l e)) ∧
        (∀ a0, ev.err = none → r.fault = none →
          exec (.exit u a0 io ev) s = .next ((r.st.correct u 9 ev.corrected).endKernel u l (exitStatus a0 r.seen))) ∧
        (∀ a0 f, ev.err = none → r.fault = some f →
          exec (.exit u a0 io ev) s = .next ((r.st.correct u 9 ev.corrected).accessFault u l f)) ∧
        (∀ pc cause val, r.fault = none → (cause = 1 ∨ cause = 5 ∨ cause = 7) →
          exec (.kernelTrap u pc cause val io) s = .next ((r.st.trapped u pc cause val).endKernel u l 0xC2)) ∧
        (∀ pc cause val, r.fault = none → cause ≠ 1 → cause ≠ 5 → cause ≠ 7 →
          exec (.kernelTrap u pc cause val io) s = .next ((r.st.trapped u pc cause val).endKernel u l 0xC1)) ∧
        (∀ pc cause val f, r.fault = some f → exec (.kernelTrap u pc cause val io) s = .next (r.st.accessFault u l f))) ∧
      (∀ io, let r := s.kernelIo u l.part k (s.ioDone io)
        (r.fault = none → exec (.kernelTimeout u io) s = .next (r.st.endKernel u l 0xC3)) ∧
        (∀ f, r.fault = some f → exec (.kernelTimeout u io) s = .next (r.st.accessFault u l f))))) ∧
  (∀ (a0 : Nat) (seen : Bool),
    (a0 = 0 ∨ (0x80 ≤ a0 ∧ a0 ≤ 0x9F) → exitStatus a0 true = 0x02 ∧ exitStatus a0 false = a0) ∧
    (0xE0 ≤ a0 → a0 ≤ 0xFF → exitStatus a0 seen = a0) ∧
    (a0 ≠ 0 → ¬(0x80 ≤ a0 ∧ a0 ≤ 0x9F) → ¬(0xE0 ≤ a0 ∧ a0 ≤ 0xFF) → exitStatus a0 seen = 0xC4))

/-- A running core executes the instruction at its program counter. Integer and floating-point operations write their register, x0 discarding it,
accrue their flags and leave everything else; loads and stores reach local memory and the Table, a misaligned one ends the kernel KERNEL_TRAP, one
out of reach ACCESS_FAULT, as does a fetch from outside local memory and the image; an illegal instruction and a breakpoint end it KERNEL_TRAP;
ECALL exits, traces or traps as a7 says. A produced NaN is the canonical one, a number that a format holds, subnormal or not, is its own rounding,
a kernel starts rounding to nearest even, and vector division and square root are illegal (R220 to R224, R230; RISC-V's own rules are the model's,
log entry 190). -/
def Obligations.CoresExecuteTheirKernels : Prop :=
  (∀ (s : State) (u : UnitId) (l : Lane) (rest : List Lane) (k : Kernel), (s.unit u).queue = l :: rest → l.status = none →
    (s.unit u).kernel = some k → s.ustate u = stRunning →
    let h := k.hart
    let pc := h.pc.toNat
    (∀ a, s.coreFetch l k = .fault a → s.coreStep u = (s.trapped u pc 1 a).endKernel u l 0xC2) ∧
    (∀ len, s.coreFetch l k = .illegal len → s.coreHeld pc len = false →
      s.coreStep u = (s.fresh.2.trapped u pc 2 s.fresh.1).endKernel u l 0xC1) ∧
    (∀ i len, s.coreFetch l k = .instr i len → s.coreHeld pc len = true → s.coreStep u = s) ∧
    (∀ i len, s.coreFetch l k = .instr i len → s.coreHeld pc len = false →
      let went (h' : Hart) : Hart := { h' with pc := h.pc + BitVec.ofNat 64 len, instret := h.instret + 1 }
      (∀ o rd rs1 b, i = .alu o false rd rs1 b →
        s.coreStep u = s.retired u { k with hart := went (h.setX rd (o.value 64 (h.getX rs1) (h.src b))) }) ∧
      (∀ o f rm m rd rs1 rs2, i = .fop o f rm rd rs1 rs2 → h.rmOf rm = some m →
        s.coreStep u = s.retired u { k with hart := went (h.fResult f rd (o.value f m (h.operand f rs1) (h.operand f rs2))) }) ∧
      (∀ o f rm rd rs1 rs2, i = .fop o f rm rd rs1 rs2 → h.rmOf rm = none →
        s.coreStep u = (s.fresh.2.trapped u pc 2 s.fresh.1).endKernel u l 0xC1) ∧
      (∀ n rd rs1 off, i = .load n false rd rs1 off →
        let a := h.addr rs1 off
        (a % n ≠ 0 → s.coreStep u = (s.trapped u pc 4 a).endKernel u l 0xC1) ∧
        (a % n = 0 → s.ucReach l.part a n = false → s.coreStep u = (s.trapped u pc 5 a).endKernel u l 0xC2) ∧
        (a % n = 0 → ucLocal a n = true →
          s.coreStep u = s.retired u { k with hart := went (h.setX rd (leNat (Sparse.getRun memDefault k.lmem a n))) }) ∧
        (a % n = 0 → ucLocal a n = false → s.ucReach l.part a n = true → s.coreHeld a n = false →
          let m := s.ucLoad u a n
          s.coreStep u = m.1.retired u { k with hart := went (h.setX rd (leNat (m.1.bytes (coreKey a) n))), poisonSeen := k.poisonSeen || m.2 })) ∧
      (∀ n rs1 rs2 off, i = .store n rs1 rs2 off →
        let a := h.addr rs1 off
        let d := leBytes n (h.getX rs2)
        (a % n ≠ 0 → s.coreStep u = (s.trapped u pc 6 a).endKernel u l 0xC1) ∧
        (a % n = 0 → s.ucReach l.part a n = false → s.coreStep u = (s.trapped u pc 7 a).endKernel u l 0xC2) ∧
        (a % n = 0 → ucLocal a n = true → s.coreStep u = s.retired u { k with hart := went h, lmem := Sparse.setRun memDefault k.lmem a d }) ∧
        (a % n = 0 → ucLocal a n = false → s.ucReach l.part a n = true → s.coreHeld a n = false →
          s.coreStep u = (s.ucStore u a d).retired u { k with hart := went h })) ∧
      (i = .ebreak → s.coreStep u = (s.fresh.2.trapped u pc 3 s.fresh.1).endKernel u l 0xC1) ∧
      (i = .ecall →
        (h.getX 17 = 0 → s.coreStep u = s.endKernel u l (exitStatus (h.getX 10) k.poisonSeen)) ∧
        (h.getX 17 = 1 → s.coreStep u =
          (s.traceWord u (h.getX 10)).retired u { k with hart := { h with pc := h.pc + BitVec.ofNat 64 len } }) ∧
        (1 < h.getX 17 → s.coreStep u = (s.trapped u pc 8 0).endKernel u l 0xC1)))) ∧
  (∀ f ∈ [CoreFmt.s, CoreFmt.d], ∀ (rm : Rm) (a b c : Nat) (np na : Bool), ∀ r ∈ [f.add rm a b, f.sub rm a b, f.mul rm a b, f.div rm a b,
    f.fma rm np na a b c, f.sqrt rm a, f.minMax np a b], (f.decode r.code).isNan = true → r.code = f.nanCode) ∧
  CoreFmt.s.nanCode = 0x7FC0_0000 ∧ CoreFmt.d.nanCode = 0x7FF8_0000_0000_0000 ∧
  (∀ f ∈ [CoreFmt.s, CoreFmt.d], ∀ (rm : Rm) (c : Nat), c < 2 ^ f.width → (f.decode c).isFin = true → f.round rm (f.decode c) = ⟨c, 0⟩) ∧
  (∀ (s : State) (u : UnitId) (l : Lane), (s.launch u l).hart.rmOf 7 = some .rne) ∧
  (∀ w, bits w 0 7 = 0x57 → bits w 12 3 = 1 ∨ bits w 12 3 = 5 → bits w 26 6 = 0b100000 ∨ bits w 26 6 = 0b100001 ∨
    (bits w 12 3 = 1 ∧ bits w 26 6 = 0b010011 ∧ bits w 15 5 = 0) → decode32 w = none)

/-- A collective engine takes its oldest unaccepted lane: into its group when the group is READY and has fewer than four collectives; ended by status
when the group is another partition's, held or broken, or when a check of the command fails; else it waits (R455 to R457, R476, R478). -/
def Obligations.CollectivesAreAccepted : Prop :=
  ∀ (s : State) (u : UnitId) (l : Lane) (rest : List Lane) (c : Instr) (covers : Nat → Bool),
    (covers, c) ∈ [(fun o => decide (o < 2 ∨ 6 < o), Instr.allReduce u), (fun o => o == 2, .reduceScatter u), (fun o => o == 3, .allGather u),
      (fun o => o == 4, .broadcast u), (fun o => o == 5, .barrier u), (fun o => o == 6, .allToAll u)] →
    u.blk = .ce → u.valid = true → s.unaccepted u.ix = l :: rest → covers l.opcode = true → (s.ustate u = stRunning ∨ s.ustate u = stDraining) →
    let g := l.ce.grp % 64
    (s.grp g Reg.ce.grpValid = 0 ∨ s.grp g Reg.ce.grpPart ≠ l.part → exec c s = .next (s.endCeLane u.ix l 6)) ∧
    (s.grp g Reg.ce.grpValid ≠ 0 → s.grp g Reg.ce.grpPart = l.part →
      (s.gstate g = gsHeld → exec c s = .next (s.endCeLane u.ix l 0xC0)) ∧
      (s.gstate g = gsBroken → exec c s = .next (s.endCeLane u.ix l 0x0A)) ∧
      (s.gstate g = gsReady → (s.accepted g).length < 4 →
        (s.ceChecks l = none → exec c s = .next (s.acceptLane u.ix l)) ∧
        (∀ st, s.ceChecks l = some st → exec c s = .next (((s.takeSeq g).endCeLane u.ix l st).cancelAt g (s.cancelFrom g)))) ∧
      (s.gstate g = gsReady → 4 ≤ (s.accepted g).length → exec c s = .next s) ∧
      (s.gstate g ≠ gsHeld → s.gstate g ≠ gsBroken → s.gstate g ≠ gsReady → exec c s = .next s))

/-- What arrives for a collective: each message's credit goes back, what it carries is kept, and the collective moves on; a chunk asked for again is
sent again; a chunk of a collective not yet open waits in the kitty; credit that returns lets what waited for it go (R458 to R460, R464, R469,
R473). -/
def Obligations.CollectiveTrafficMovesCollectivesOn : Prop :=
  ∀ (s : State) (g node gen sq : Nat), g < 64 →
    (∀ j, (s.taken g node 0).sender g node gen = some j →
      exec (.ready g node gen sq) s = .next (((s.taken g node 0).updGrp g (fun r => { r with readys := r.readys ++ [(j, sq)] })).moveOn g sq)) ∧
    (∀ j counts, (s.taken g node (4 * counts.length)).sender g node gen = some j → exec (.counts g node gen sq counts) s =
      .next (((s.taken g node (4 * counts.length)).updGrp g (fun r => { r with counts := r.counts ++ [(j, sq, counts)] })).moveOn g sq)) ∧
    (∀ j sent result flags, (s.taken g node 32).sender g node gen = some j → exec (.digest g node gen sq sent result flags) s =
      .next (((s.taken g node 32).updGrp g (fun r => { r with digests := r.digests ++ [⟨j, sq, sent, result, flags⟩] })).moveOn g sq)) ∧
    (∀ ph ch j c, let t := s.taken g node 0
      t.sender g node gen = some j → t.findColl g sq = some c → c.sent.any (fun x => x.1 == chunkKey j ph ch) = true →
      exec (.nakChunk g node gen sq ph ch) s = .next (((((t.sendChunk c j ph ch (!(t.grpRec g).readys.contains (j, sq)) true).updColl g sq
        (fun x => { x with resent := true })).count (ceU c.engine) 5 1).irq (ceU c.engine) (2 ^ 16)))) ∧
    (∀ p, p.kind = kColl → bits p.extra 32 6 = g → bits p.extra 40 8 = s.gen g → p.extra % 2 ^ 32 = sq → s.grp g Reg.ce.grpValid ≠ 0 →
      (∀ c, s.findColl g sq = some c → c.opened = true → exec (.collChunk p) s = .next ((s.takePkt c p).moveOn g sq)) ∧
      (∀ c, s.findColl g sq = some c → c.opened = false → exec (.collChunk p) s = .next (s.kitty g p)) ∧
      (s.findColl g sq = none → seqBefore sq (s.grp g Reg.ce.grpNextSeq) = false → exec (.collChunk p) s = .next (s.kitty g p))) ∧
    (∀ n, exec (.credit g node 2 n) s = .next ((s.setNet (fun x => { x with
      ctlUsed := Sparse.set (fun _ => 0) x.ctlUsed node (Sparse.get (fun _ => 0) s.net.ctlUsed node - n), ctlWait := [] })).sendWaiting s.net.ctlWait)) ∧
    (∀ n pool j, pool < 2 → (s.grpNodes g).findIdx? (fun x => x == node) = some j →
      let t := s.updGrp g (fun r => { r with outB := Sparse.set (fun _ => 0) r.outB (j * 2 + pool) (s.outstandingTo g j pool - n) })
      (t.accepted g = [] → exec (.credit g node pool n) s = .next t) ∧
      (∀ c rest, t.accepted g = c :: rest → exec (.credit g node pool n) s = .next (t.moveOn g c.seq)))

/-- How a group changes: a CANCEL of a newer generation is applied; lost members are lost; a re-formation is entered and answered, and ends when the
last answer or the coordinator's word arrives; a collective that takes too long loses the members that are outstanding (R475, R477 to R480). A
LOSS comes back to its source: a chunk whose port went down goes again, an absent member is lost, a transfer's request is sent again or fails;
injections are armed by a writer with expert access; a node's state follows its keepalives and is DOWN when they stop (R422, R435, R477, R485). -/
def Obligations.GroupsCancelAndReform : Prop :=
  (∀ (s : State) (g node gen sq mask : Nat), g < 64 →
    let t := s.taken g node 0
    let r := s.taken g node 8
    (t.grp g Reg.ce.grpValid ≠ 0 → (t.grpNodes g).contains node = true → genNewer (t.gen g) gen = true →
      exec (.cancel g node gen sq) s = .next (t.applyCancel g gen sq)) ∧
    exec (.lost g node mask) s = .next (r.loseMembers g (nodesOf mask)) ∧
    (r.grp g Reg.ce.grpValid ≠ 0 → r.grp g Reg.ce.grpReform ≠ 0 → bit (r.grpMembers g) node = true →
      exec (.reform g node gen mask) s = .next ((r.applyReform g gen mask).sendMsgPkt ((r.applyReform g gen mask).msgPacket g node mReformAck gen 0 0 []))) ∧
    (t.gstate g = gsReforming → gen = t.gen g → (t.grpRec g).unacked.contains node = true →
      let t2 := t.updGrp g (fun r => { r with unacked := r.unacked.filter (fun n => n != node) })
      ((t2.grpRec g).unacked = [] → exec (.reformAck g node gen) s = .next ((t2.sendSurvivors g mReformDone gen 0 []).endReform g)) ∧
      ((t2.grpRec g).unacked ≠ [] → exec (.reformAck g node gen) s = .next t2)) ∧
    (t.gstate g = gsReforming → gen = t.gen g → exec (.reformDone g node gen) s = .next (t.endReform g)) ∧
    (s.accepted g = [] → exec (.collectiveTimeout g) s = .next s) ∧
    (∀ c rest, s.accepted g = c :: rest → c.posted = false → exec (.collectiveTimeout g) s = .next s) ∧
    (∀ c rest, s.accepted g = c :: rest → c.posted = true → exec (.collectiveTimeout g) s =
      .next (s.loseMembers g ((s.outstandingMembers c).map (fun j => (s.grpNodes g).getD j 64))))) ∧
  (∀ (s : State) (p : Pkt),
    (p.src = s.node → let t := s.count (bvfU 0) 7 1
      (p.tc = 1 → exec (.loss p lossPortDown) s = .next (t.resend p)) ∧
      (p.tc = 1 → (p.kind = kMsg → p.extra % 256 < 0x40) → exec (.loss p lossAbsent) s = .next (t.loseMembers (pktGroup p) [p.dst])) ∧
      (∀ reason, p.tc = 1 → (p.kind = kMsg → p.extra % 256 < 0x40) → reason ≠ lossPortDown → reason ≠ lossAbsent →
        let n := t.countLoss p
        (3 ≤ n.1 → exec (.loss p reason) s = .next (n.2.loseMembers (pktGroup p) [p.dst])) ∧
        (n.1 < 3 → exec (.loss p reason) s = .next n.2)) ∧
      (∀ reason q, 2 ≤ p.tc → p.tc ≤ 4 → t.reqOf p = some q → exec (.loss p reason) s = .next (t.lostRequest q (reason == lossAbsent))) ∧
      (p.tc = 1 → exec (.chunkResendTimer p) s = .next (s.resend p))) ∧
    (∀ reason, p.src ≠ s.node → exec (.loss p reason) s = .next s) ∧
    (∀ u src, u.blk = .ce → u.valid = true → notVf src = true → s.expert u = true →
      exec (.ceInjectCrc u src) s = .next (s.put u Reg.ce.injectCrc 1) ∧ exec (.ceInjectDigest u src) s = .next (s.put u Reg.ce.injectDigest 1)) ∧
    (∀ node, node < 64 → node ≠ s.node →
      (∀ st, s.nodeValid node = true → 1 ≤ st → st ≤ 3 → exec (.keepalive node st) s = .next (s.setNodeState node st)) ∧
      (s.nodeState node ≠ 0 → exec (.nodeTimeout node) s = .next ((s.count (bvfU 0) 11 1).setNodeState node 0))) ∧
    ((∀ n, n < 64 → s.nodeValid n = true) → exec .keepaliveTimer s = .next s.sendKeepalives))

/-- ALLOC and PREFETCH lanes end with the status of the check that fails, with what a bad read of their tables gives, or with what the frames left
give them, and wait while their engine is frozen or a line is held; a lookup answers a verdict and three addresses for each question; a
reservation is granted when the free frames suffice, and refused and counted when not; a follower pins and reports its run of hits (R310, R313,
R314, R323, R329, R334, R335, R336). -/
def Obligations.PageEnginesAnswer : Prop :=
  ∀ (s : State) (u : UnitId) (l : Lane) (rest : List Lane) (part : Nat),
    (u.blk = .pge → u.valid = true → (s.unit u).queue = l :: rest → l.status = none → (s.ustate u = stRunning ∨ s.ustate u = stDraining) →
      let ends (t : State) (st : Nat) : State := t.setUnit u (fun x => { x with queue := { l with status := some st } :: rest })
      (s.frozen u = true → exec (.alloc u) s = .next s ∧ exec (.prefetch u) s = .next s) ∧
      (s.frozen u = false → l.opcode ≠ 2 →
        let tbl := (l.op 16 8, 64 + 32 * l.op 34 2)
        (∀ e, pgeChecks s l = some e → exec (.alloc u) s = .next (ends s e)) ∧
        (pgeChecks s l = none → s.heldIn [tbl] = true → exec (.alloc u) s = .next s) ∧
        (pgeChecks s l = none → s.heldIn [tbl] = false →
          let m := s.readAll clsSys [tbl]
          let r := m.1.allocEntries l.part (m.1.stEntries (dgaKey tbl.1) (l.op 32 2) (l.op 34 2))
          (m.2 = true → exec (.alloc u) s = .next (ends r.1 3)) ∧
          (m.2 = false → m.1.anyPoison (dgaKey tbl.1) tbl.2 = true → exec (.alloc u) s = .next (ends (r.1.irq u 4) 2)) ∧
          (m.2 = false → m.1.anyPoison (dgaKey tbl.1) tbl.2 = false → exec (.alloc u) s = .next (ends r.1 r.2)))) ∧
      (s.frozen u = false → l.opcode = 2 →
        let hg := max 1 (s.pgePart l.part).kvGroups
        (∀ e, s.prefetchCheck l hg = some e → exec (.prefetch u) s = .next (ends s e)) ∧
        (s.prefetchCheck l hg = none → s.heldIn (s.prefetchIns l hg) = true → exec (.prefetch u) s = .next s) ∧
        (s.prefetchCheck l hg = none → s.heldIn (s.prefetchIns l hg) = false →
          let m := s.readAll clsSys (s.prefetchIns l hg)
          let r := m.1.prefetch l hg
          (m.2 = true → exec (.prefetch u) s = .next (ends r.1 3)) ∧
          (m.2 = false → m.1.poisonedIn (s.prefetchIns l hg) = true → exec (.prefetch u) s = .next (ends (r.1.irq u 4) 2)) ∧
          (m.2 = false → m.1.poisonedIn (s.prefetchIns l hg) = false →
            exec (.prefetch u) s = .next (ends r.1 (if r.2 then 0 else 0x80)))))) ∧
    (s.frozen (s.homePge part) = true → ∀ write qs, exec (.pgeLookup part write qs) s = .next s) ∧
    (s.frozen (s.homePge part) = false →
      (∀ write qs, ∃ t, exec (.pgeLookup part write qs) s = .next t ∧ t.resp.length = 4 * qs.length) ∧
      (∀ slot lg n n', s.localPage part n = some n' →
        (∀ f t, s.lookupRead part slot (n' * s.lh part + lg) = (.frame f, t) →
          let w := (t.promote part f).1
          exec (.pgeLookup part false [(slot, lg, n)]) s = .next (w.respond [1, 2 ^ 50 * s.node + frameKey f,
            2 ^ 50 * s.node + (w.sideRecords part f).1, 2 ^ 50 * s.node + (w.sideRecords part f).2])) ∧
        (∀ t, s.lookupRead part slot (n' * s.lh part + lg) = (.notPresent, t) →
          exec (.pgeLookup part false [(slot, lg, n)]) s = .next (t.respond [0, 0, 0, 0])) ∧
        (∀ t, s.lookupRead part slot (n' * s.lh part + lg) = (.xlateFault, t) →
          exec (.pgeLookup part false [(slot, lg, n)]) s = .next (t.respond [2, 0, 0, 0])) ∧
        (∀ f t, s.lookupWrite part slot (n' * s.lh part + lg) = (.frame f, t) → exec (.pgeLookup part true [(slot, lg, n)]) s =
          .next (t.respond [1, 2 ^ 50 * s.node + frameKey f,
            2 ^ 50 * s.node + (t.sideRecords part f).1, 2 ^ 50 * s.node + (t.sideRecords part f).2]))) ∧
      (∀ st, (s.part part).step = some st → st.phase = .forming →
        (s.stepNeed part st.entries ≤ (s.pgePart part).freeAll → ∃ t, exec (.pgeReserve part) s = .next t ∧
          (t.pgePart part).resv = s.stepNeed part st.entries ∧ t.resp = [1, s.stepNeed part st.entries, 0] ∧ t.mem = s.mem) ∧
        ((s.pgePart part).freeAll < s.stepNeed part st.entries → ∃ t, exec (.pgeReserve part) s = .next t ∧ t.pge = s.pge ∧ t.parts = s.parts ∧
          t.resp = [0, s.stepNeed part st.entries, s.stepNeed part st.entries - (s.pgePart part).freeAll] ∧ t.mem = s.mem))) ∧
    (∀ slot hashes lead, let run := if s.flag (s.homePge part) (Reg.pge.partShareEn.at part) then s.hitRun part 0 hashes else 0
      exec (.hashList part slot hashes lead) s = .next ((s.pinRun part slot run hashes).emit (.send lead 1 .prefixReport [part, slot, run])))

/-- A migration takes a destination frame above the floor and copies; its end switches the page's entries to the copy, or aborts on a poisoned or
failed read; forwarded entries are rewritten; the sweep ends with nothing gone; a queued summary is formed once its positions are committed (R318,
R328, R332, R333). -/
def Obligations.MigrationsAndSweeps : Prop :=
  ∀ (s : State) (part src : Nat),
    (∀ m d s1, (s.pgePart part).migs.find? (fun m => m.src == src && m.st == .queued) = some m →
      s.mayMigrate (s.homePge part) = true → s.frozen (s.homePge part) = false → s.get (s.homePge part) Reg.pge.spillFloor < ((s.pgePart part).freeList m.tier).count →
      s.popFrame part m.tier = some (d, s1) → ∃ t, exec (.migStart part src) s = .next t ∧ ((t.pgePart part).frame src).st = .migSrc ∧
        (d ≠ src → ((t.pgePart part).frame d).st = .migDst) ∧ t.mem = s.mem ∧ t.parts = s.parts ∧ t.units = s.units ∧ t.poison = s.poison) ∧
    (∀ m, (s.pgePart part).migs.find? (fun m => m.src == src && m.st == .copying) = some m →
      let rd := s.readAll clsSys (s.frameRanges part src)
      let held := s.heldIn (s.frameRanges part src ++ s.frameRanges part m.dst)
      (∀ failed, held = true → exec (.migCopyDone part src failed) s = .next s) ∧
      (∀ failed, held = false → failed = true ∨ rd.2 = true ∨ rd.1.anyPoison (frameKey src) 32768 = true →
        exec (.migCopyDone part src failed) s = .next (rd.1.abortMig part m)) ∧
      (held = false → rd.2 = false → rd.1.anyPoison (frameKey src) 32768 = false →
        ∃ t, exec (.migCopyDone part src false) s = .next t ∧ (∀ y ∈ (t.pgePart part).migs, y.src = src → y.st = .release) ∧
          (((s.pgePart part).frame src).refs ≤ 1 → ∀ x ∈ (t.pgePart part).pages, x.frame = src → m.dst = src) ∧
          (2 ≤ ((s.pgePart part).frame src).refs → m.dst ≠ src → ((t.pgePart part).frame src).st = .forward ∧ ((t.pgePart part).frame src).vpn = m.dst))) ∧
    (∀ slot e, (s.pgePart part).pages.filter (fun e => e.slot == slot && ((s.pgePart part).frame e.frame).st == .forward) = [e] →
      (s.pgePart part).follow e.frame 4 ≠ e.frame →
      exec (.forwardRewrite part slot) s = .next ((s.setPge part (fun g => (g.setEntry { e with frame := (s.pgePart part).follow e.frame 4 }).setFrame e.frame
        { g.frame e.frame with refs := (g.frame e.frame).refs - 1 })).count (s.homePge part) 13 1)) ∧
    (∀ slot, (s.pgePart part).pages.filter (fun e => e.slot == slot && ((s.pgePart part).frame e.frame).st == .forward) = [] →
      exec (.forwardRewrite part slot) s = .next s) ∧
    (∃ t, exec (.pgeSweep part) s = .next t ∧ (t.pgePart part).gone = [] ∧ t.get (s.homePge part) Reg.pge.serveSweep = 0) ∧
    (∀ slot n n', s.localPage part n = some n' → (s.pgePart part).resum.contains (slot, n) = true → 64 * n + 64 ≤ (s.slotClass part slot).2 →
      ∃ t, exec (.summaryRecompute part slot n) s = .next t ∧ (t.pgePart part).resum = (s.pgePart part).resum.filter (fun x => x != (slot, n)))

/-- A Table request waits at its bank, or is refused and logged when its partition does not own the slice, or lost on a VACANT number; the last beat
of a unit performs it and the arbiter goes on; a scrub reads the bank; injections are armed once under EXPERT_EN; a spare takes the bank's lines
and its waiting requests, every line poisoned if the bank had FAULTED (R248, R253, R255, R259 to R261). What a Table read returns is the bytes of
its range with the line's poison, a write changes exactly the bytes it does not mask, an atomic operation stores its result and returns the old
value, a load-reserve reserves its granule for its core, and a store-conditional writes only under its own core's reservation, which it ends
(R250, R252). -/
def Obligations.TableBanksServe : Prop :=
  (∀ (s : State) (u : UnitId) (r : TblReq), u.blk = .tbl →
    (r.ok = true → s.physOf .tbl (s.bankOf r.off).1 = u.ix → u.ix ≠ 0xFFFF →
      (s.tblAllowed r = true → exec (.tableRequest r) s = .next ((s.setBank u { s.bank u with waiting := (s.bank u).waiting ++ [r] }).grant u)) ∧
      (s.tblAllowed r = false → ∃ t, exec (.tableRequest r) s = .next t ∧ t.mem = s.mem ∧ t.poison = s.poison ∧ t.tbl = s.tbl ∧
        t.resp = 1 :: (if r.op = 1 then [] else List.replicate r.len 0))) ∧
    (r.ok = true → s.physOf .tbl (s.bankOf r.off).1 = 0xFFFF → exec (.tableRequest r) s = .next (s.answerLost r)) ∧
    (r.ok = false → exec (.tableRequest r) s = .next s) ∧
    ((s.bank u).moving = some r →
      let t := ((s.tblPerform u r).setBank u { s.bank u with moving := none }).grant u
      ((t.bank u).moving.isSome = true → exec (.burstComplete u) s = .next t.reviewAll) ∧
      ((t.bank u).moving.isSome = false → exec (.burstComplete u) s = .next ((t.quiesce u).grant u).reviewAll)) ∧
    ((s.bank u).moving = none → exec (.burstComplete u) s = .next (s.quiesce u)) ∧
    (∀ l, s.logicalOf u = some l → s.get u Reg.tbl.scrubPeriodMs ≠ 0 → s.hurt.ce = [] → s.hurt.ue = [] → (∀ x ∈ s.poison, s.holder x ≠ some u) →
      exec (.tableScrub u []) s = .next (s.maintain u 6).reviewAll) ∧
    (∀ aged, s.logicalOf u = none ∨ s.get u Reg.tbl.scrubPeriodMs = 0 → exec (.tableScrub u aged) s = .next s) ∧
    (∀ src, s.reaches src u = true → s.flag u Reg.common.expertEn = true →
      (s.isArmed u 0 = false → exec (.tblInjectCe u src) s = .next { s with hurt := { s.hurt with armed := s.hurt.armed ++ [(u, 0)] } }) ∧
      (s.isArmed u 1 = false → exec (.tblInjectUe u src) s = .next { s with hurt := { s.hurt with armed := s.hurt.armed ++ [(u, 1)] } })) ∧
    (∀ x i, s.talon.remaps.find? (fun r => r.retiring == u && r.stage == .committed) = some x → x.spare = some i →
      let sp : UnitId := ⟨.tbl, i⟩
      let moved (t : State) (bad : List Nat) : State :=
        let t1 := (((t.loseLines bad).applyRemap x).linesLost u (s.concerned u) bad.length).setBank u {}
        ((t1.setBank sp { t1.bank sp with waiting := (s.bank u).moving.toList ++ (s.bank u).waiting }).grant sp).goesOn
      (s.faulted u = false → (s.bank u).moving = none → s.hurt.ue = [] → s.hurt.ce = [] → (∀ x ∈ s.poison, s.holder x ≠ some u) →
        exec (.bankSpareCopy u []) s = .next (moved ((s.maintain u 6).maintain sp 7) [])) ∧
      (∀ unreadable, s.faulted u = true →
        exec (.bankSpareCopy u unreadable) s = .next (moved (s.maintain sp 7) ((List.range 2048).map (s.lineOfRow x.logical)))))) ∧
  (∀ (s : State) (u : UnitId) (r : TblReq), s.hurt = {} → s.lost (r.key / 256) = false → s.sealedLine (r.key / 256) = false → r.ok = true →
    let answer := (if s.poisoned (r.key / 256) then 1 else 0) :: (s.bytes r.key r.len).map BitVec.toNat
    (r.op = 0 → (s.tblPerform u r).mem = s.mem ∧ (s.tblPerform u r).resp = answer) ∧
    (r.op = 1 → s.absorbed r = false →
      (∀ i, i < r.len → some ((s.tblPerform u r).byte (r.key + i)) = (mergeKeep r.keep (s.bytes r.key r.len) r.data)[i]?) ∧
      (∀ a, a < r.key ∨ r.key + r.data.length ≤ a → (s.tblPerform u r).byte a = s.byte a)) ∧
    (r.op = 2 → (s.tblPerform u r).resp = answer ∧
      (∀ i, i < r.len → some ((s.tblPerform u r).byte (r.key + i)) =
        (leBytes r.len (amoValue r.amo (8 * r.len) (leNat (s.bytes r.key r.len)) (leNat r.data)))[i]?) ∧
      (∀ a, a < r.key ∨ r.key + r.len ≤ a → (s.tblPerform u r).byte a = s.byte a)) ∧
    (r.op = 3 → (s.tblPerform u r).mem = s.mem ∧ (s.tblPerform u r).resp = answer ∧ ⟨r.key / 64, r.core⟩ ∈ (s.tblPerform u r).resv) ∧
    (r.op = 4 → (s.resv.any (fun x => x.core == r.core && x.granule == r.key / 64) = false →
        (s.tblPerform u r).mem = s.mem ∧ (s.tblPerform u r).resp = [1]) ∧
      (s.resv.any (fun x => x.core == r.core && x.granule == r.key / 64) = true →
        (s.tblPerform u r).resp = [0] ∧ ∀ i (h : i < r.data.length), (s.tblPerform u r).byte (r.key + i) = r.data[i]) ∧
      ∀ x ∈ (s.tblPerform u r).resv, x.core ≠ r.core))

/-- A controller reads and writes lines, or holds the request; on a VACANT number a read gives zeros marked poisoned and a write is dropped; patrol
reads the device; re-centring is counted and may fail; a spare takes the device's lines up to a line, and its number at the last; a device that
has FAULTED loses the rest; injections are armed once (R267, R271, R274, R277, R278, R286). -/
def Obligations.ControllersServe : Prop :=
  ∀ (s : State) (u : UnitId) (off n : Nat) (ev : MemEv), u.blk = .mem →
    (off % 256 + n ≤ 256 → off < 2 ^ 48 →
      (s.lost (off / 256) = true → exec (.memRead off n ev) s = .next (s.tblAnswer true (List.replicate n 0))) ∧
      (s.lost (off / 256) = false → s.holder (off / 256) = some u →
        (s.memHolds u = false → exec (.memRead off n ev) s = .next (s.memRead u off n ev).reviewAll) ∧
        (s.memHolds u = true → exec (.memRead off n ev) s =
          .next ({ s with memWait := s.memWait ++ [(u.page * 512 + n, { key := off, write := none, poison := false, ev := ev })] } : State).reviewAll))) ∧
    (∀ d pois, off % 256 + d.length ≤ 256 → 0 < d.length → off < 2 ^ 48 →
      let q : MemReq := { key := off, write := some d, poison := pois, ev := ev }
      (s.lost (off / 256) = true → exec (.memWrite off d pois ev) s = .next (s.respond [0])) ∧
      (s.lost (off / 256) = false → s.holder (off / 256) = some u →
        (s.memHolds u = false → exec (.memWrite off d pois ev) s = .next (s.memWrite u q d).reviewAll) ∧
        (s.memHolds u = true → exec (.memWrite off d pois ev) s =
          .next ({ s with memWait := s.memWait ++ [(u.page * 512 + d.length, q)] } : State).reviewAll))) ∧
    (∀ l bad corrected, s.logicalOf u = some l → s.get u Reg.mem.scrubPeriodH ≠ 0 → s.ustate u = stRunning → s.hurt.tags = [] →
      exec (.memPatrol u bad corrected) s =
        .next ((bad.foldl (fun t b => t.patrolLine u l b.1 b.2) (s.corrections u corrected)).count u 9 (2 ^ 24)).reviewAll) ∧
    (s.ustate u = stRunning → exec (.memRecentre u false) s = .next (s.count u 8 1) ∧
      exec (.memRecentre u true) s = .next (((s.count u 8 1).irq u (2 ^ 19)).faultUnit u 8)) ∧
    (s.ustate u ≠ stRunning → ∀ failed, exec (.memRecentre u failed) s = .next s) ∧
    (∀ x i upto, s.talon.remaps.find? (fun r => r.retiring == u && r.stage == .committed) = some x → x.spare = some i →
      let sp : UnitId := ⟨.mem, i⟩
      let from' := s.get u Reg.mem.spareCopyPtr
      let upTo := max from' (min upto (2 ^ 24))
      (∀ unreadable, s.faulted u = true → exec (.memSpareCopy u unreadable upto) s =
        .next ((s.loseDevice x.logical from').endCopy u sp x (x.bad + (metaBase - from')))) ∧
      (s.faulted u = false →
        let t := (s.count u 0 (upTo - from')).count sp 1 (upTo - from')
        (upTo = 2 ^ 24 → exec (.memSpareCopy u [] upto) s = .next (t.endCopy u sp x x.bad)) ∧
        (upTo ≠ 2 ^ 24 → exec (.memSpareCopy u [] upto) s = .next ((t.setRemap u (fun y => y)).setCopyPtr u sp upTo)))) ∧
    (∀ src, s.reaches src u = true → s.flag u Reg.common.expertEn = true →
      (s.isArmed u 2 = false → exec (.memInjectEdc u src) s = .next { s with hurt := { s.hurt with armed := s.hurt.armed ++ [(u, 2)] } }) ∧
      (s.isArmed u 3 = false → exec (.memInjectTag u src) s = .next { s with hurt := { s.hurt with armed := s.hurt.armed ++ [(u, 3)] } }))

/-- A tier port reads and writes lines of T2 while it is up, a read whose completion does not come keeping its tag; it holds requests while it must;
while it is not up, a read returns poisoned and a write is lost; a time-out answers poisoned and is logged; the port goes down, with what it held,
and comes up; an injection is armed once (R284, R285, R289). -/
def Obligations.TierPortsServe : Prop :=
  ∀ (s : State) (u : UnitId) (off n : Nat) (ev : MemEv), u.blk = .tier →
    (s.tierPortOf off = some u → off % 256 + n ≤ 256 → off < 2 ^ 48 →
      let q : MemReq := { key := 2 ^ 49 + off, write := none, poison := false, ev := ev }
      let busy := s.memWait.any (fun x => x.1 / 512 == u.page && x.2.key / 256 == (2 ^ 49 + off) / 256)
      (s.lost ((2 ^ 49 + off) / 256) = true → ∃ t d, exec (.tierRead off n ev) s = .next t ∧ t.resp = 1 :: d ∧ d.length = n ∧ t.mem = s.mem ∧ t.regs = s.regs) ∧
      (s.lost ((2 ^ 49 + off) / 256) = false →
        (s.memHolds u = true ∨ s.tagLimit u ≤ s.tagsUsed u ∨ busy = true →
          exec (.tierRead off n ev) s = .next { s with memWait := s.memWait ++ [(u.page * 512 + n, q)] }) ∧
        (s.memHolds u = false → s.tagsUsed u < s.tagLimit u → busy = false →
          (ev.late = false → exec (.tierRead off n ev) s = .next ((s.count u 0 1).tierRead u (2 ^ 49 + off) n ev)) ∧
          (ev.late = true → exec (.tierRead off n ev) s =
            .next { s.count u 0 1 with tierOut := (s.count u 0 1).tierOut ++ [(u.page * 512 + n, q)] }))) ∧
      (∃ t d, exec (.tierTimeout off n) s = .next t ∧ t.resp.take (n + 1) = 1 :: d ∧ d.length = n ∧ (s.memWait = [] → t.mem = s.mem))) ∧
    (∀ d pois, s.tierPortOf off = some u → off % 256 + d.length ≤ 256 → 0 < d.length → off < 2 ^ 48 →
      let q : MemReq := { key := 2 ^ 49 + off, write := some d, poison := pois, ev := ev }
      let busy := s.memWait.any (fun x => x.1 / 512 == u.page && x.2.key / 256 == (2 ^ 49 + off) / 256)
      (s.lost ((2 ^ 49 + off) / 256) = true → exec (.tierWrite off d pois ev) s = .next (s.respond [1])) ∧
      (s.lost ((2 ^ 49 + off) / 256) = false →
        (s.memHolds u = true ∨ busy = true →
          exec (.tierWrite off d pois ev) s = .next { s with memWait := s.memWait ++ [(u.page * 512 + d.length, q)] }) ∧
        (s.memHolds u = false → busy = false → exec (.tierWrite off d pois ev) s = .next (s.tierWrite u q d)))) ∧
    (u.ix < 2 → s.get u Reg.tier.linkState ≠ 0 → ∃ t, exec (.tierDown u.ix) s = .next t ∧ t.get u Reg.tier.linkState = 0 ∧ t.get u Reg.tier.linkIdeOn = 0 ∧
      (∀ w ∈ t.memWait ++ t.tierOut, w.1 / 512 ≠ u.page) ∧ t.mem = s.mem ∧ (s.memWait = [] → s.tierOut = [] → t.resp = [])) ∧
    (∀ width rate, u.ix < 2 → 1 ≤ width → width ≤ 3 → 1 ≤ rate → rate ≤ 3 → ∃ t, exec (.tierPortUp u.ix width rate) s = .next t ∧
      t.get u Reg.tier.linkState = (if width = 3 ∧ rate = 3 then 2 else 3) ∧ t.get u Reg.tier.linkWidth = width ∧ t.get u Reg.tier.linkRate = rate ∧
      t.get u Reg.tier.linkIdeOn = 1 ∧ { t with regs := s.regs } = s) ∧
    (∀ src, s.reaches src u = true → s.flag u Reg.common.expertEn = true → s.isArmed u 3 = false →
      exec (.tierInjectTag u src) s = .next { s with hurt := { s.hurt with armed := s.hurt.armed ++ [(u, 3)] } })

/-- A request or push from another node is served when its node and partition may reach the range, else refused and logged; one whose range is held,
or follows another that waits, waits; what comes back for a lane of this module goes to the lane; a request that gets no answer is lost (R258,
R296, R297, R391, R435). -/
def Obligations.RemoteTrafficIsServed : Prop :=
  ∀ (s : State) (p : Pkt), s.parked = false → p.abort = false →
    (p.part < 8 → (tc2Request p = true ∨ p.kind = kWrite ∧ (p.tc = 3 ∨ p.tc = 4)) →
      let c := if p.tc = 2 then Instr.remoteRequest p else .pushReceive p
      (s.remoteWaits p = true → exec c s = .next (s.setNet (fun n => { n with waiting := n.waiting ++ [p] }))) ∧
      (s.remoteWaits p = false →
        (p.kind = kRead →
          (s.remoteAllowed p.part p.src p.addr (readLen p) = true →
            let t := (s.readAll clsMove [s.remoteSpan p]).1
            exec c s = .next (t.inject { s.reply p kReadData with
              data := t.bytes (dgaKey p.addr) (readLen p), poison := t.anyPoison (dgaKey p.addr) (readLen p) })) ∧
          (s.remoteAllowed p.part p.src p.addr (readLen p) = false → exec c s =
            .next ((s.refuseRemote p (readLen p)).inject { s.reply p kReadData with data := List.replicate (readLen p) 0, poison := true }))) ∧
        (p.kind ≠ kRead → p.tc = 2 →
          (s.remoteAllowed p.part p.src p.addr (max 1 p.data.length) = true → exec c s =
            .next ((s.writeMem clsMove (dgaKey p.addr) p.data p.poison).inject { s.reply p kWriteAck with poison := false })) ∧
          (s.remoteAllowed p.part p.src p.addr (max 1 p.data.length) = false → exec c s =
            .next ((s.refuseRemote p (max 1 p.data.length)).inject { s.reply p kWriteAck with poison := true }))) ∧
        (p.kind = kWrite → p.tc ≠ 2 →
          (s.remoteAllowed p.part p.src p.addr (max 1 p.data.length) = true → exec c s =
            .next ((s.writeMem clsMove (dgaKey p.addr) p.data p.poison).inject
              { s.packet p.src 0 kMsg with extra := pushAckExtra (p.extra % 2 ^ 32) p.data.length false })) ∧
          (s.remoteAllowed p.part p.src p.addr (max 1 p.data.length) = false → exec c s =
            .next ((s.refuseRemote p (max 1 p.data.length)).inject { s.packet p.src 0 kMsg with extra := pushAckExtra (p.extra % 2 ^ 32) 0 true }))))) ∧
    (∀ q, s.net.reqs.find? (fun q => q.tag == some (p.tagPort, p.tag) &&
        (if q.kind = 0 then p.kind == kReadData else q.kind == 1 && p.kind == kWriteAck)) = some q →
      (q.live = false → exec (.remoteResponse p) s = .next (s.dropReq q)) ∧
      (q.live = true → q.kind = 0 → exec (.remoteResponse p) s =
        .next (((s.dropReq q).stagePiece (dmaU q.engine) q (p.data.take q.len) p.poison).dmaAck (dmaU q.engine) p.poison false)) ∧
      (q.live = true → q.kind ≠ 0 → exec (.remoteResponse p) s = .next ((s.dropReq q).dmaAck (dmaU q.engine) false p.poison))) ∧
    (∀ node cls seq refused q, s.net.reqs.find? (fun q => q.kind == 2 && q.node == node && q.cls == cls && q.seq == seq) = some q →
      (q.live = true → exec (.pushAck node cls seq refused) s = .next ((s.dropReq q).dmaAck (dmaU q.engine) false refused)) ∧
      (q.live = false → exec (.pushAck node cls seq refused) s = .next (s.dropReq q)) ∧
      exec (.pushAckTimeout node cls seq) s = .next (s.lostRequest q false)) ∧
    (∀ port tag q, s.net.reqs.find? (fun q => q.tag == some (port, tag)) = some q → exec (.tc2Timeout port tag) s = .next (s.lostRequest q false))

/-- A port looks for its peer, trains, comes up with block numbers from 0 or goes DOWN; a retrain ends with the unacknowledged blocks sent again, or
DOWN; each trigger of a retrain starts one; each cause of DOWN takes the port DOWN with its reason; a DOWN port tries again (R408 to R412, R417). -/
def Obligations.LinksTrainAndFail : Prop :=
  ∀ (s : State) (k : Nat), k < 24 →
    (s.linkState k = lkDetect → s.node / 16 ≤ s.get (bvfU 0) Reg.bvf.topoSuitsM1 → exec (.peerDetect k) s =
      .next (((s.setLinkState k lkTraining).put (bvlU k) Reg.bvl.lanesTxFailed 0).put (bvlU k) Reg.bvl.lanesRxFailed 0)) ∧
    (∀ tx rx, s.linkState k = lkTraining →
      ((s.mapLanes k tx rx).wide k = true → ∃ t, exec (.trainingComplete k tx rx true) s = .next t ∧ t.linkState k = lkActive ∧ (t.link k).rxNext = 0 ∧
        (t.link k).txNext = 0 ∧ (t.link k).retry = [] ∧ t.mem = s.mem ∧ t.parts = s.parts ∧ t.units = s.units) ∧
      (∀ locked, locked = false ∨ (s.mapLanes k tx rx).wide k = false → exec (.trainingComplete k tx rx locked) s = .next ((s.mapLanes k tx rx).goDown k 5))) ∧
    (∀ tx rx next, s.linkUp k = true → (s.link k).retraining = true →
      let m := s.mapLanes k tx rx
      (m.wide k = false → exec (.retrainComplete k tx rx next) s = .next (m.goDown k 5)) ∧
      (m.wide k = true → m.get (bvlU k) Reg.bvl.linkTxWidth = s.get (bvlU k) Reg.bvl.linkTxWidth →
        m.get (bvlU k) Reg.bvl.linkRxWidth = s.get (bvlU k) Reg.bvl.linkRxWidth → m.get (bvlU k) Reg.bvl.lanesRxActive = s.get (bvlU k) Reg.bvl.lanesRxActive →
        activeMask (m.get (bvlU k) Reg.bvl.lanesTxFailed) = activeMask (s.get (bvlU k) Reg.bvl.lanesTxFailed) →
        let a := (m.setLink k (fun l => { l with retraining := false, retrained := true })).takeAck k next
        (a.link k).retraining = false → (a.link k).retry = [] → a.get (bvlU k) Reg.bvl.retryConsec = 0 →
        exec (.retrainComplete k tx rx next) s = .next (a.endRecovering k))) ∧
    (s.linkUp k = true →
      (∀ next, (s.link k).ackOk next = true → exec (.retrain k next) s = .next ((s.takeAck k next).startRetrain k none)) ∧
      exec (.goodbye k) s = .next (s.goDown k 2) ∧
      (s.get (bvlU k) Reg.bvl.retryLimit ≤ s.get (bvlU k) Reg.bvl.retryConsec → exec (.retryLimit k) s = .next (s.startRetrain k (some 1))) ∧
      (∀ mask, (healthyLanes mask).length < 4 → exec (.lossOfSignal k mask) s = .next (s.goDown k 1)) ∧
      (∀ mask, 4 ≤ (healthyLanes mask).length → s.get (bvlU k) Reg.bvl.lanesRxActive &&& mask ≠ 0 →
        exec (.lossOfSignal k mask) s = .next (s.startRetrain k (some 2))) ∧
      (∀ lane rate, s.get (bvlU k) Reg.bvl.serSwap ≠ 0 → s.get (bvlU k) Reg.bvl.serSwap < rate → bit (s.get (bvlU k) Reg.bvl.lanesRxActive) lane = true →
        (healthyLanes (s.get (bvlU k) Reg.bvl.lanesRxFailed)).any (fun i => !bit (s.get (bvlU k) Reg.bvl.lanesRxActive) i) = true →
        exec (.serSwap k lane rate) s = .next (s.startRetrain k (some 3)))) ∧
    (∀ src, notVf src = true → exec (.cmdRetrain k src) s = .next (s.startRetrain k (some 4))) ∧
    (s.linkState k = lkRecovering → exec (.recoverMax k) s = .next (s.goDown k 4)) ∧
    (s.linkState k = lkDown → s.flag (bvlU k) Reg.bvl.optAutoUp = true → s.ustate (bvlU k) = stRunning →
      exec (.downRetry k) s = .next (s.setLinkState k lkDetect))

/-- An expected data block brings its packets one hop further and moves the block number on; any other block changes nothing; a bad slot is counted
and asked for again; acknowledgements free blocks; a NAK, a REPLAY and a time-out send or accept again; injections are armed by a writer with
expert access (R402 to R406, R414). -/
def Obligations.LinksCarryBlocks : Prop :=
  ∀ (s : State) (k : Nat), k < 24 →
    (s.linkState k = lkActive → (s.link k).discarding = false → (s.link k).retraining = false → ∀ pkts, ∃ t,
      exec (.dataBlock k (s.link k).rxNext pkts []) s = .next t ∧ (t.link k).rxNext = ((s.link k).rxNext + 1) % 65536 ∧
      t.net.inq = s.net.inq ++ pkts.map (fun p => (k, { p with hops := p.hops + 1 })) ∧ t.mem = s.mem ∧ t.parts = s.parts) ∧
    (s.linkUp k = true → ∀ seq pkts, seq ≠ (s.link k).rxNext ∨ (s.link k).discarding = true → exec (.dataBlock k seq pkts []) s = .next s) ∧
    (s.linkUp k = true → ∀ seq pkts fixed, fixed.any (fun c => decide (16 < c.length)) = true → exec (.dataBlock k seq pkts fixed) s =
      .next ((s.corrected k (fixed.filter (fun c => decide (c.length ≤ 16)))).takeBadSlot k (fixed.filter (fun c => decide (16 < c.length))).length)) ∧
    (s.linkUp k = true →
      ((s.link k).discarding = false → exec (.badSlot k 0) s = .next ((s.count (bvlU k) 5 1).sendNak k)) ∧
      (∀ n, 0 < n → (s.link k).discarding = false → exec (.badSlot k n) s = .next ((s.count (bvlU k) 4 n).sendNak k)) ∧
      ((s.link k).discarding = true → (s.link k).retraining = false → exec (.nakRepeatTimeout k) s = .next (s.sendNak k)) ∧
      (∀ next, exec (.idle k next) s = .next (s.takeAck k next)) ∧
      (∀ next, (s.link k).ackOk next = true → exec (.nak k next) s = .next ((s.takeAck k next).replayAll k)) ∧
      (∀ next, (s.link k).ackOk next = false → exec (.nak k next) s = .next (s.startRetrain k (some 4))) ∧
      (∀ next seq, seq = ((s.takeAck k next).link k).rxNext →
        exec (.replayBlock k next seq) s = .next ((s.takeAck k next).setLink k (fun l => { l with discarding := false }))) ∧
      ((s.link k).retry ≠ [] → (s.link k).retraining = false → exec (.ackTimeout k) s = .next (s.replayAll k))) ∧
    (∀ src mask, notVf src = true → s.expert (bvlU k) = true →
      (s.testOrRecovery = true → exec (.injectLaneFail k src mask) s = .next (s.put (bvlU k) Reg.bvl.injectLaneFail mask)) ∧
      (s.testOrRecovery = false → exec (.injectLaneFail k src mask) s = .next s) ∧
      exec (.injectBadSlot k src) s = .next (s.put (bvlU k) Reg.bvl.injectBadSlot 1))

/-- The fabric: HELLOs leave, are recorded and grow stale; marks are taken; the head packet of a queue is ejected, put to its output port's arbiter,
held, or ended with a notice to its source; routing entries are written into a version that is EMPTY or LOADED; telemetry is captured and sent; an
injected loss is armed (R419 to R421, R433, R437 to R439, R443 to R446). -/
def Obligations.FabricRoutesAndReports : Prop :=
  ∀ (s : State) (k : Nat), k < 24 →
    (s.linkState k = lkActive → exec (.helloTimer k) s = .next (s.sendOn k { s.packet 0 0 kHello with
      data := leBytes 1 s.node ++ leBytes 1 k ++ leBytes 1 (s.get (bvfU 0) Reg.bvf.topoSuitsM1 + 1) ++ leBytes 1 s.ownState ++ leBytes 1 1 ++
        leBytes 8 fingerprint })) ∧
    (∀ node peer suits st, s.linkUp k = true →
      let r := (((((s.put (bvfU 0) (Reg.bvf.peerNode.at k) node).put (bvfU 0) (Reg.bvf.peerPort.at k) peer).put (bvfU 0) (Reg.bvf.peerNstate.at k) st).put
        (bvfU 0) (Reg.bvf.peerExpNode.at k) (wiredPeer s.node k).1).put (bvfU 0) (Reg.bvf.peerExpPort.at k) (wiredPeer s.node k).2)
      let ok := decide ((node, peer) = wiredPeer s.node k) && suits == s.get (bvfU 0) Reg.bvf.topoSuitsM1 + 1 && !s.flag (bvfU 0) Reg.bvf.topoStrapMismatch
      (r.setPeerState k (if ok then 1 else 2)).strapVerdict = none → exec (.hello k node peer suits st) s = .next (r.setPeerState k (if ok then 1 else 2)).advanceDrain) ∧
    (s.linkState k = lkActive → s.peerState k ≠ 0 → exec (.helloStale k) s = .next (s.setPeerState k 3).advanceDrain) ∧
    (∀ tc level, exec (.mark k tc level) s =
      .next ((s.setNet (fun n => { n with awaited := n.awaited.filter (fun m => m != markPos k tc level) })).advanceDrain)) ∧
    (∀ from' tc hops rsp full,
      let head := s.heads.find? (fun e => e.1 == from' && e.2.tc == tc && tc2Response e.2 == rsp && (from'.isNone || e.2.hops == hops))
      (head = none → exec (.packetRoute from' tc hops rsp full) s = .next s) ∧
      (∀ e, head = some e →
        let u := match e.1 with | some k => routerOf k | none => bvfU 0
        (s.knownAbsent e.1 e.2 = true →
          exec (.packetRoute from' tc hops rsp full) s = .next (((s.takePacket e.1 e.2).sendLoss u e.2 lossAbsent).advanceDrain)) ∧
        (s.knownAbsent e.1 e.2 = false →
          (s.routing e.2 = .eject → needsCompute e.2 = false ∨ s.ownState = 1 →
            exec (.packetRoute from' tc hops rsp full) s = .next (((s.takePacket e.1 e.2).count u 1 1).advanceDrain)) ∧
          (∀ o, s.routing e.2 = .port o → exec (.packetRoute from' tc hops rsp full) s = .next (s.arbitrate o full).advanceDrain) ∧
          (s.routing e.2 = .wait → exec (.packetRoute from' tc hops rsp full) s = .next s.advanceDrain) ∧
          (∀ w, s.routing e.2 = .unroutable w →
            exec (.packetRoute from' tc hops rsp full) s = .next (((s.takePacket e.1 e.2).unroutable u e.1 e.2 w).advanceDrain))))) ∧
    (∀ src ver node value, notVf src = true → ver < 2 → node < 64 →
      (s.epochState ver ≤ 1 → ∃ t, exec (.routeWrite src ver node value) s = .next t ∧ t.route ver node = value % 2 ^ 32 ∧ t.epochState ver = 1 ∧
        (∀ n, n < 64 → n ≠ node → t.route ver n = s.route ver n) ∧ { t with regs := s.regs } = s) ∧
      (2 ≤ s.epochState ver → exec (.routeWrite src ver node value) s = .next s)) ∧
    (∀ r src, r < 2 → notVf src = true → exec (.telemSel r src k) s =
      .next (((s.put (bvfU r) Reg.bvf.telemSel k).telemetry k).2.setNet (fun n => { n with telem := ((s.put (bvfU r) Reg.bvf.telemSel k).telemetry k).1 }))) ∧
    (s.get (bvfU 0) Reg.bvf.telemPeriodMs = 0 → exec .telemTimer s = .next s) ∧
    (s.get (bvfU 0) Reg.bvf.telemPeriodMs ≠ 0 → ∃ t, exec .telemTimer s = .next t ∧ t.net.inj.length = s.net.inj.length + 24 ∧ t.mem = s.mem) ∧
    (∀ r src, r < 2 → notVf src = true → s.expert (bvfU r) = true → exec (.injectLoss r src) s = .next (s.put (bvfU r) Reg.bvf.injectLoss 1))

/-- A virtual function runs no mailbox command, and neither does anyone while one runs or while no MCC is there; a partition above 7 is answered with
result 1 (R33, R500, R584). -/
def Obligations.MailboxTakesOneCommand : Prop :=
  ∀ (s : State) (src : Src) (part a b : Nat) (x : Nat × Instr),
    x ∈ [(1, Instr.sessionOpen src part), (2, .sessionClose src part), (3, .importBegin src part a b), (4, .importRun src part a b), (5, .importEnd src part),
      (6, .importAbort src part), (7, .unsealCmd src part), (8, .debugChallenge src part), (9, .debugUnlock src part a)] →
    (notVf src = false → exec x.2 s = .next s) ∧
    (s.flag secU Reg.sec.mboxBusy = true ∨ s.ustate s.mccHolder = stFaulted → exec x.2 s = .next s) ∧
    (notVf src = true → s.flag secU Reg.sec.mboxBusy = false → s.ustate s.mccHolder ≠ stFaulted → 8 ≤ part → ∃ t, exec x.2 s = .next t ∧
      t.get secU Reg.sec.mboxResult = 1 ∧ t.get secU Reg.sec.mboxBusy = 0 ∧ t.sec = s.sec ∧ t.mem = s.mem)

/-- The mailbox commands on a partition: sessions open with an ID that is not 0 and close; an import begins, runs, ends with the partition SEALED, or
aborts into SCRUBBING; a sealed partition is unsealed; a finished scrub opens it; a challenge is drawn. One that fails changes nothing of the
partition (R498, R500 to R502). A failing health test of the random generator blocks every draw and is told once; a passing one ends the block and
releases the command that waits (R566). -/
def Obligations.MailboxCommandsRun : Prop :=
  (∀ (s : State) (src : Src) (part : Nat), part < 8 →
    (∀ t, s.mboxTake src 1 part 0 0 = some t →
      (t.sealState part = 0 ∨ t.sealState part = 2 → t.trngBad = false → ∃ t', exec (.sessionOpen src part) s = .next t' ∧
        t'.get secU (Reg.sec.partSession.at part) = 1 ∧ t'.get secU Reg.sec.mboxResult = 0 ∧ t'.get secU Reg.sec.mboxOut0 ≠ 0 ∧
        (t'.secPart part).session = some (t'.get secU Reg.sec.mboxOut0, s.freeIdx + 1)) ∧
      (t.sealState part = 0 ∨ t.sealState part = 2 → t.trngBad = true → exec (.sessionOpen src part) s =
        .next { t.put secU Reg.sec.mboxBusy 1 with secMod := { t.secMod with job := some (1, part, 0, 0) } }) ∧
      (t.sealState part = 1 ∨ t.sealState part = 3 → exec (.sessionOpen src part) s = .next (t.mboxEnd 2 0))) ∧
    (∀ t, s.mboxTake src 2 part 0 0 = some t → t.sealState part ≠ 1 → ∃ t', exec (.sessionClose src part) s = .next t' ∧
      (t'.secPart part).session = none ∧ t'.get secU (Reg.sec.partSession.at part) = 0 ∧ t'.get secU Reg.sec.mboxResult = 0) ∧
    (∀ wrap bundle t, s.mboxTake src 3 part wrap bundle = some t → ∃ t', exec (.importBegin src part wrap bundle) s = .next t' ∧ t'.mem = s.mem ∧
      ((t'.get secU Reg.sec.mboxResult = 0 ∧ t'.sealState part = 1 ∧ (t'.secPart part).bundleKey.isSome = true ∧ (t'.secPart part).imported = []) ∨
        (t'.get secU Reg.sec.mboxResult ≠ 0 ∧ t'.sec = s.sec ∧ t'.sealState part = t.sealState part))) ∧
    (∀ list count t, s.mboxTake src 4 part list count = some t → t.sealState part = 1 → (t.secPart part).bundleKey ≠ none → 1 ≤ count → count ≤ 65536 →
      t.argOk part list (16 * count) = true →
      let r := t.importEntries part ((List.range count).map (fun i => list + 16 * i)) 0
      exec (.importRun src part list count) s = .next ((r.1.count t.mccHolder 3 1).mboxEnd r.2.1 r.2.2)) ∧
    (∀ t, s.mboxTake src 5 part 0 0 = some t → t.sealState part = 1 → (t.secPart part).bundleKey ≠ none →
      ((t.secPart part).chunks.length ≤ (t.secPart part).imported.length → ∃ t', exec (.importEnd src part) s = .next t' ∧ t'.sealState part = 2 ∧
        (t'.secPart part).bundleKey = none ∧ (t'.secPart part).session = none ∧ t'.get secU Reg.sec.mboxResult = 0) ∧
      ((t.secPart part).imported.length < (t.secPart part).chunks.length → exec (.importEnd src part) s = .next (t.mboxEnd 8 0))) ∧
    (∀ t, s.mboxTake src 6 part 0 0 = some t → t.sealState part = 1 → exec (.importAbort src part) s = .next ((t.abortImport part).mboxEnd 0 0)) ∧
    (∀ t, s.mboxTake src 7 part 0 0 = some t → (t.sealState part = 2 → exec (.unsealCmd src part) s = .next ((t.startUnseal part).mboxEnd 0 0)) ∧
      (t.sealState part ≠ 2 → exec (.unsealCmd src part) s = .next (t.mboxEnd 2 0))) ∧
    (s.sealState part = 3 → ((s.secPart part).unsealing = true → s.trngBad = false) → ∃ t, exec (.scrubComplete part) s = .next t ∧ t.sealState part = 0 ∧
      (t.secPart part).ranges = [] ∧ (t.secPart part).session = (s.secPart part).session ∧
      ∀ r ∈ (s.secPart part).ranges, ∀ a, r.1 ≤ a → a < r.1 + r.2 → t.byte a = 0) ∧
    (∀ t, s.mboxTake src 8 part 0 0 = some t →
      (t.trngBad = false → exec (.debugChallenge src part) s = .next t.drawChallenge) ∧
      (t.trngBad = true → exec (.debugChallenge src part) s =
        .next { t.put secU Reg.sec.mboxBusy 1 with secMod := { t.secMod with job := some (8, 0, 0, 0) } }))) ∧
  (∀ s : State,
    (s.trngBad = false → exec (.trngHealthTest true) s =
      .next (((({ s with trngBad := true } : State).count s.mccHolder 4 1).irq s.mccHolder (2 ^ 17)))) ∧
    (s.trngBad = true → exec (.trngHealthTest true) s = .next s) ∧
    (s.secMod.job = none → exec (.trngHealthTest false) s = .next { s with trngBad := false }) ∧
    (∀ p a b, s.secMod.job = some (1, p, a, b) →
      exec (.trngHealthTest false) s = .next (({ s with trngBad := false, secMod := { s.secMod with job := none } } : State).drawSession p)) ∧
    (∀ p a b, s.secMod.job = some (8, p, a, b) →
      exec (.trngHealthTest false) s = .next (({ s with trngBad := false, secMod := { s.secMod with job := none } } : State).drawChallenge)))

/-- The commands of BOOT.CMD that move the module between its states: each comes from a writer that is no virtual function, leaves its code in
BOOT.CMD.CODE, and acts when the module's state and its writer allow it; otherwise it is an ACCESS event at the register, four bytes wide, and
nothing else (R539, R555, R556, R562). -/
def Obligations.ModuleStatesChange : Prop :=
  ∀ (s : State) (src : Src), notVf src = true →
    ((s.mode = 4 → exec (.restart src) s = .next ((s.put bootU Reg.boot.cmdCode 1).beginFull true)) ∧
      (s.mode ≠ 4 → exec (.restart src) s = .next ((s.put bootU Reg.boot.cmdCode 1).accessEvent (bootU.base + 0x104) 4))) ∧
    (s.mode = 1 ∨ s.mode = 2 → s.recovering = false → ∃ t, exec (.enterRecovery src) s = .next t ∧ t.recovering = true ∧ t.mode = s.mode ∧
      t.sys.prior = s.mode ∧ t.mem = s.mem ∧ t.parts = s.parts) ∧
    (s.mode = 3 → s.flag bootU Reg.boot.stateComputeReset = false → ∃ t, exec (.leaveRecovery src) s = .next t ∧ t.mode = s.sys.prior % 16 ∧
      t.mem = s.mem) ∧
    (s.mode = 3 → s.flag bootU Reg.boot.stateComputeReset = true →
      exec (.leaveRecovery src) s = .next ((s.put bootU Reg.boot.cmdCode 3).accessEvent (bootU.base + 0x104) 4)) ∧
    (s.mode = 1 → s.recovering = false → ∃ t, exec (.toService src) s = .next t ∧ t.mode = 2 ∧ t.mem = s.mem) ∧
    (src = .mgmt → s.mode ≠ 4 → exec (.enterMinimal src) s =
      .next (((s.put bootU Reg.boot.cmdCode 5).cutUpdate).goMinimal 0x0701)) ∧
    (src = .mgmt → ∃ t, exec (.clearFails src) s = .next t ∧ t.get bootU Reg.boot.failsConsec = 0 ∧ t.mem = s.mem) ∧
    (src = .pf → exec (.enterMinimal src) s = .next ((s.put bootU Reg.boot.cmdCode 5).accessEvent (bootU.base + 0x104) 4) ∧
      exec (.clearFails src) s = .next ((s.put bootU Reg.boot.cmdCode 6).accessEvent (bootU.base + 0x104) 4)) ∧
    (s.recovering = true → s.stepless = true → s.mode = 1 ∨ s.mode = 2 →
      exec .recoveryEntered s = .next { s.setMode 3 with recovering := false }) ∧
    (s.recovering = false ∨ s.stepless = false → exec .recoveryEntered s = .next s)

/-- The compute-only reset: its pin and the command MCC.RESET.COMPUTE hold it, from the first of them until it is released; in TEST or SERVICE state
the compute dies lose what they hold and the module goes to RECOVERY with COMPUTE_RESET set; the release starts the restart from stage 3. A
command from neither the PF nor the management port, one in minimal mode and one while the reset is held do nothing (R557, R558, R560, R561,
R565). -/
def Obligations.ComputeResetsAndRestarts : Prop :=
  ∀ s : State,
    (s.sys.cmp.pin = true → exec .cmpRstAssert s = .next s) ∧
    (s.sys.cmp.pin = false → s.sys.cmp.held = true →
      exec .cmpRstAssert s = .next (s.setSys (fun x => { x with cmp := { x.cmp with pin := true } }))) ∧
    (s.sys.cmp.pin = false → s.sys.cmp.held = false → s.sys.start = none → s.mode = 1 ∨ s.mode = 2 →
      exec .cmpRstAssert s = .next (s.setSys (fun x => { x with cmp := { x.cmp with pin := true } })).computeReset) ∧
    (∀ st, s.sys.cmp.pin = false → s.sys.cmp.held = false → s.sys.start = some st →
      (s.get bootU Reg.boot.stateStage < 3 → exec .cmpRstAssert s = .next (s.setSys (fun x => { x with cmp := { x.cmp with pin := true } }))) ∧
      (3 ≤ s.get bootU Reg.boot.stateStage → ∃ t, exec .cmpRstAssert s = .next t ∧ t.get bootU Reg.boot.stateStage = 3 ∧
        t.flag bootU Reg.boot.stateComputeReset = true ∧ t.sys.cmp.pin = true)) ∧
    (∀ src, src = .pf ∨ src = .mgmt → s.mode = 1 ∨ s.mode = 2 → s.sys.start = none → s.sys.cmp = {} → s.sys.powered = true → s.sys.modRst = false →
      exec (.resetCompute src) s = .next (s.setSys (fun x => { x with cmp := { x.cmp with held := true } })).computeReset) ∧
    (∀ src, (src ≠ .pf ∧ src ≠ .mgmt) ∨ s.mode = 4 ∨ s.sys.cmp.held = true ∨ s.sys.powered = false ∨ s.sys.modRst = true →
      exec (.resetCompute src) s = .next s) ∧
    (s.cmpHeld = true → s.mode = 3 → s.flag bootU Reg.boot.stateComputeReset = true → s.sys.start = none →
      exec .computeRestart s = .next (s.setSys (fun x => { x with cmp := {} })).beginRestart) ∧
    (s.cmpHeld = true → s.mode ≠ 3 ∨ s.sys.start.isSome = true →
      exec .computeRestart s = .next (s.setSys (fun x => { x with cmp := {} }))) ∧
    (s.cmpHeld = false → exec .computeRestart s = .next s)

/-- The module's power and reset: MOD_RST_N resets the module, and its release may start it; PWR_EN and the hot-swap controller bring the rails up and
down in the spec's order; a lockout, an open HS_EN and the circuit breaker take the power away, the breaker for good once its third retry has
tripped; and the loss of power control stops the module (R539, R561, R587, R616, R629, R630). -/
def Obligations.PowerComesAndGoes : Prop :=
  ∀ (s : State) (coolant : Bool) (inlet : Nat),
    (s.sys.modRst = false → ∃ t, exec .modRstAssert s = .next t ∧ t.sys.modRst = true ∧
      (s.sys.powered = false → s.sys.start = none → s.sys.update = none → t.regs = s.regs ∧ t.mem = s.mem)) ∧
    (s.sys.modRst = true → exec .modRstAssert s = .next s ∧
      exec (.modRstRelease coolant inlet) s = .next ((s.setSys (fun x => { x with modRst := false })).mayStart coolant inlet)) ∧
    (s.sys.pwrEn = false → exec (.pwrEnHigh coolant inlet) s =
      .next ((s.setSys (fun x => { x with pwrEn := true, pgood := x.powered })).mayStart coolant inlet)) ∧
    (s.sys.pwrEn = true → ∃ t, exec .pwrEnLow s = .next t ∧ t.sys.pwrEn = false ∧ t.sys.pgood = false) ∧
    (s.sys.hsEn = false → exec .hsEnClose s = .next (s.setSys (fun x => { x with hsEn := true, hotswap := if x.vin then 1 else 0 }))) ∧
    (s.sys.hotswap = 1 → exec .hotswapDebounce s = .next (s.setSys (fun x => { x with hotswap := 2 }))) ∧
    (s.sys.hotswap = 2 → ∃ t, exec (.hotswapRampDone coolant inlet) s = .next t ∧ t.sys.powered = true ∧ t.sys.hotswap = 3) ∧
    (s.sys.hotswap ≠ 2 → exec (.hotswapRampDone coolant inlet) s = .next s) ∧
    (s.sys.hsEn = true → ∃ t, exec .hsEnOpen s = .next t ∧ t.sys.hsEn = false ∧ t.sys.hotswap = 0 ∧ t.sys.trips = 0 ∧ t.sys.powered = false) ∧
    (s.sys.vin = true → ∃ t, exec .vinLockout s = .next t ∧ t.sys.vin = false ∧ t.sys.powered = false ∧
      t.sys.hotswap = (if s.sys.hotswap = 5 then 5 else 0)) ∧
    (s.sys.vin = false → ∃ t, exec .vinInRange s = .next t ∧ t.sys.vin = true ∧ t.regs = s.regs ∧
      t.sys.hotswap = (if s.sys.hsEn = true ∧ s.sys.hotswap = 0 then 1 else s.sys.hotswap)) ∧
    (s.sys.hotswap = 2 ∨ s.sys.hotswap = 3 → ∃ t, exec .circuitBreakerTrip s = .next t ∧ t.sys.trips = s.sys.trips + 1 ∧ t.sys.powered = false ∧
      t.sys.hotswap = (if s.sys.trips < 3 then 4 else 5)) ∧
    (s.sys.hotswap = 4 → s.sys.vin = true → s.sys.hsEn = true → exec .breakerRetry s = .next (s.setSys (fun x => { x with hotswap := 2 }))) ∧
    (s.sys.hotswap = 5 → exec .breakerRetry s = .next s ∧ exec .circuitBreakerTrip s = .next s) ∧
    (s.awake = true → ∃ t, exec .powerControlLost s = .next t ∧ t.sys.stopped = true ∧ t.sys.pgood = false)

/-- Where 42 V is lost, what is fused and what is outside the module remains: the Discard, BOOT.COUNT, the count of unlocks, and the memory behind the
tier ports. Every other byte of memory reads 0 again (the model's choice for memory without contents, log entry 2), and every other register word
is at its reset value (R505, R538, R571, R630). -/
def Obligations.PowerLossKeepsWhatIsNotVolatile : Prop :=
  ∀ s : State, s.sys.powered = true → s.sys.vin = true → ∃ t, exec .vinLockout s = .next t ∧
    (∀ a, a / 2 ^ 48 = 2 → t.byte a = s.byte a) ∧ (∀ a, a / 2 ^ 48 ≠ 2 → t.byte a = 0) ∧
    t.talon.discard = s.talon.discard ∧
    t.get bootU Reg.boot.bootCount = s.get bootU Reg.boot.bootCount ∧
    t.get secU Reg.sec.debugUnlockCount = s.get secU Reg.sec.debugUnlockCount ∧
    (∀ a, a ≠ (fieldPos bootU.base Reg.boot.bootCount).1 → a ≠ (fieldPos secU.base Reg.sec.debugUnlockCount).1 → t.word a = State.reset.word a)

/-- A debug unlock ends with result 3 for a token that cannot be read, is refused with result 11 after 64 unlocks or with result 10 for a token that
does not pass, or unlocks the module, which counts it, sets the token's scope and starts again in full (R500, R505, R506). -/
def Obligations.DebugUnlocksOrRefuses : Prop :=
  ∀ (s : State) (src : Src) (part arg : Nat), part < 8 → ∀ t, s.mboxTake src 9 part arg 0 = some t →
    (t.argOk part arg 332 = false → exec (.debugUnlock src part arg) s = .next (t.mboxEnd 3 0)) ∧
    (t.argOk part arg 332 = true → 64 ≤ t.get secU Reg.sec.debugUnlockCount → ∃ t', exec (.debugUnlock src part arg) s = .next t' ∧
      t'.get secU Reg.sec.mboxResult = 11 ∧ t'.secMod.challenge = false ∧ t'.get secU Reg.sec.debugUnlocked = t.get secU Reg.sec.debugUnlocked) ∧
    (t.argOk part arg 332 = true → t.get secU Reg.sec.debugUnlockCount < 64 →
      let token := (({ t with secMod := { t.secMod with challenge := false } } : State).argBytes arg 332).1
      (t.tokenOk token = false → ∃ t', exec (.debugUnlock src part arg) s = .next t' ∧ t'.secMod.challenge = false ∧
        t'.get secU Reg.sec.mboxResult = 10 ∧ t'.get secU Reg.sec.debugUnlocked = t.get secU Reg.sec.debugUnlocked ∧
        t'.get secU Reg.sec.debugUnlockCount = t.get secU Reg.sec.debugUnlockCount) ∧
      (t.tokenOk token = true → ∃ t', exec (.debugUnlock src part arg) s = .next t' ∧ t'.secMod.challenge = false ∧
        t'.get secU Reg.sec.debugUnlocked = 1 ∧ t'.get secU Reg.sec.debugUnlockCount = t.get secU Reg.sec.debugUnlockCount + 1 ∧
        t'.mode = 0 ∧ t'.get bootU Reg.boot.stateStage = 1))

/-- A stage of a start ends: stage 3 waits for the compute reset and for the reference clock, a stage that commits waits for an open transaction, a
stage that fails fatally ends the start, and each of the others hands on to the next; the last one starts the wave, or fails the start at its
second try. Without a start nothing happens (R540, R543, R555, R561, R578, R619). What else moves a start: its watchdog fails it, except while it
waits before stage 3; a retry begins a full start, only after a failed one; after the stable time the failure count is 0, once for each start; and
a core of the wave that holds every block is ready when its hash is right, and loads the component again, or is retired after its third round,
when it is wrong (R552, R553, R555). -/
def Obligations.StagesOfAStartEnd : Prop :=
  (∀ (s : State) (ev : StageEv),
    (s.sys.start = none → exec (.stageComplete ev) s = .next s) ∧
    (∀ st, s.sys.start = some st →
      (s.get bootU Reg.boot.stateStage = 3 → s.cmpHeld = true ∨ s.sys.refclk = false → exec (.stageComplete ev) s = .next s) ∧
      (s.txn.isSome = true → s.get bootU Reg.boot.stateStage = 10 → exec (.stageComplete ev) s = .next s) ∧
      (s.txn = none → s.cmpHeld = false → s.sys.refclk = true →
        (∀ r, ev.fatal = some r → exec (.stageComplete ev) s = .next (s.startFailed r ev.detail ev.dur)) ∧
        (ev.fatal = none →
          (s.get bootU Reg.boot.stateStage = 7 → ∃ t, exec (.stageComplete ev) s = .next t ∧ t.get bootU Reg.boot.stateStage = 8 ∧ t.mem = s.mem ∧
            t.counts = s.counts) ∧
          (s.get bootU Reg.boot.stateStage = 9 → ∃ t, exec (.stageComplete ev) s = .next t ∧ t.get bootU Reg.boot.stateStage = 10 ∧ t.mem = s.mem) ∧
          (s.get bootU Reg.boot.stateStage = 1 → s.sys.slotBad = false →
            (∀ i, i < 3 → s.minSvn i ≤ (s.sys.slot.getD ev.image).svns.getD i 0) →
            ∃ t, exec (.stageComplete ev) s = .next t ∧ t.get bootU Reg.boot.stateStage = 2 ∧ t.sys.image = s.sys.slot.getD ev.image) ∧
          (s.get bootU Reg.boot.stateStage = 1 → s.sys.slotBad = false →
            (∃ i, i < 3 ∧ (s.sys.slot.getD ev.image).svns.getD i 0 < s.minSvn i) →
            exec (.stageComplete ev) s = .next (s.startFailed 0x0104 ev.detail ev.dur)) ∧
          (s.get bootU Reg.boot.stateStage = 2 → ∃ t, exec (.stageComplete ev) s = .next t ∧ t.get bootU Reg.boot.stateStage = 3) ∧
          (s.get bootU Reg.boot.stateStage = 3 → ∃ t, exec (.stageComplete ev) s = .next t ∧ t.get bootU Reg.boot.stateStage = 4) ∧
          (s.get bootU Reg.boot.stateStage = 4 → ev.failed = [] → s.short .mem 32 = false →
            ∃ t, exec (.stageComplete ev) s = .next t ∧ t.get bootU Reg.boot.stateStage = 5) ∧
          (s.get bootU Reg.boot.stateStage = 5 → ev.failed = [] → s.short .tbl 512 = false →
            ∃ t, exec (.stageComplete ev) s = .next t ∧ t.get bootU Reg.boot.stateStage = 6) ∧
          (s.get bootU Reg.boot.stateStage = 6 → ∃ t, exec (.stageComplete ev) s = .next t ∧ t.get bootU Reg.boot.stateStage = 7) ∧
          (s.get bootU Reg.boot.stateStage = 8 → st.full = true → s.trngBad = true → exec (.stageComplete ev) s = .next s) ∧
          (s.get bootU Reg.boot.stateStage = 8 → st.full = false → ∃ t, exec (.stageComplete ev) s = .next t ∧
            t.get bootU Reg.boot.stateStage = 10 ∧ t.mem = s.mem) ∧
          (s.get bootU Reg.boot.stateStage = 1 → s.sys.slotBad = true →
            exec (.stageComplete ev) s = .next (s.startFailed 0x0101 ev.detail ev.dur)) ∧
          (s.get bootU Reg.boot.stateStage = 10 → s.sys.wave.all (fun c => c.ready) = true →
            exec (.stageComplete ev) s = .next (s.waveStart st ev.dur)) ∧
          (s.get bootU Reg.boot.stateStage = 10 → s.sys.wave.all (fun c => c.ready) = false → st.waveTried = false →
            ∃ t, exec (.stageComplete ev) s = .next t ∧ t.sys.start = some { st with waveTried := true } ∧
              t.get ctuU Reg.ctu.txnReason = 12))))) ∧
  (∀ s : State,
    (s.sys.start = none → exec .startWatchdog s = .next s) ∧
    (s.sys.start.isSome = true → s.get bootU Reg.boot.stateStage ≠ 3 → exec .startWatchdog s = .next (s.startFailed 0x0501 0 0)) ∧
    (s.sys.retry = true → exec .startRetry s = .next (s.beginFull true)) ∧ (s.sys.retry = false → exec .startRetry s = .next s) ∧
    (s.mode = 1 ∨ s.mode = 2 → s.sys.start = none → s.sys.stable = false → ∃ t, exec .stableTimeout s = .next t ∧
      t.get bootU Reg.boot.failsConsec = 0 ∧ t.sys.stable = true ∧ t.mode = s.mode ∧ t.mem = s.mem) ∧
    (s.sys.stable = true → exec .stableTimeout s = .next s) ∧
    (∀ u c, s.sys.wave = [c] → c.unit = u → c.missing = [] → c.ready = false →
      exec (.coreReady u true) s = .next (s.setSys (fun x => { x with wave := [{ c with ready := true }] })) ∧
      (3 ≤ c.rounds → exec (.coreReady u false) s = .next (s.retireCore u)) ∧
      (c.rounds < 3 → exec (.coreReady u false) s = .next ((s.count bootU 5 (s.blocksFor u)).setSys
        (fun x => { x with wave := [{ c with missing := List.range (s.blocksFor u) }] })))) ∧
    (∀ u ok, (∀ c ∈ s.sys.wave, c.unit ≠ u ∨ c.missing ≠ [] ∨ c.ready = true) → exec (.coreReady u ok) s = .next s) ∧
    (∀ misses, s.sys.start.isSome = true → (∀ c ∈ s.sys.wave, c.rounds = 0) → ∃ t, exec (.bcastRoundEnd misses) s = .next t ∧ t.mem = s.mem ∧
      t.sys.wave = s.sys.wave.map (fun c =>
        if c.ready || c.missing.isEmpty then c
        else { c with rounds := 1, missing := (match misses.find? (fun m => m.1 == c.unit) with
          | some m => c.missing.filter (fun b => m.2.contains b)
          | none => []) })))

/-- An update of the image over the host path: not in a virtual function's hands, refused with result 7 outside the PF or the states that allow it,
with result 1 while an update runs and with result 2 for an image that lies nowhere, and begun for an image that passes its checks; the end of the
write makes it the slot's image, or leaves the slot invalid (R550). -/
def Obligations.ImagesAreUpdated : Prop :=
  ∀ (s : State) (src : Src),
    (notVf src = false → exec (.imageUpdate src) s = .next s) ∧
    (notVf src = true → s.ustate s.mccHolder ≠ stFaulted →
      (src ≠ .pf ∨ s.mode = 0 ∨ s.mode = 4 → exec (.imageUpdate src) s = .next (s.updateRefused 7)) ∧
      (src = .pf → s.mode = 1 ∨ s.mode = 2 ∨ s.mode = 3 →
        (s.sys.update.isSome = true → exec (.imageUpdate src) s = .next (s.put bootU Reg.boot.updateResult 1)) ∧
        (s.sys.update = none → s.get bootU Reg.boot.updateLen = 0 → exec (.imageUpdate src) s = .next (s.updateRefused 2)) ∧
        (∀ p, s.sys.update = none → dgaFormed (s.get bootU Reg.boot.updateAddr) = true → dgaNode (s.get bootU Reg.boot.updateAddr) = s.node →
          dgaSpace (s.get bootU Reg.boot.updateAddr) = 0 → 1 ≤ s.get bootU Reg.boot.updateLen → s.get bootU Reg.boot.updateLen ≤ 66846720 → p < 8 →
          s.inRegion p (dgaOff (s.get bootU Reg.boot.updateAddr)) (s.get bootU Reg.boot.updateLen) = true →
          let b := s.argBytes (s.get bootU Reg.boot.updateAddr) (s.get bootU Reg.boot.updateLen)
          (∀ f, s.checkImage b.1 = .ok f → ∃ t, exec (.imageUpdate src) s = .next t ∧ t.sys.update = some (0, f) ∧
            t.get bootU Reg.boot.updateBusy = 1 ∧ t.mem = b.2.mem) ∧
          (∀ r, s.checkImage b.1 = .error r → exec (.imageUpdate src) s = .next (b.2.updateRefused r))))) ∧
    (∀ kib, s.sys.update = none → exec (.updateDone true kib) s = .next s) ∧
    (∀ k f kib, s.sys.update = some (k, f) →
      (∃ t, exec (.updateDone true kib) s = .next t ∧ t.sys.slot = some f ∧ t.sys.slotBad = false ∧ t.sys.update = none ∧
        t.get bootU Reg.boot.failsConsec = 0 ∧ t.get bootU Reg.boot.updateResult = 0 ∧ t.get bootU Reg.boot.updateBusy = 0) ∧
      (∃ t, exec (.updateDone false kib) s = .next t ∧ t.sys.slot = s.sys.slot ∧ t.sys.slotBad = true ∧ t.sys.update = none ∧
        t.get bootU Reg.boot.failsConsec = s.get bootU Reg.boot.failsConsec ∧ t.get bootU Reg.boot.updateResult = 6))

/-- What the power pins, the limiters and the host's cap do: the fast limiter has hysteresis; a cap is the PF's, clamped to 300 to 2200 W, and held
while the firmware restarts; THROT counts once and halves the clocks until it is released; ramp mode holds its cap and freezes it, once, when the
ticks stay away (R510, R511, R518, R519). -/
def Obligations.PowerIsCapped : Prop :=
  ∀ (s : State) (p : Nat),
    (2400 < p → s.pwr.fast = false → exec (.fastLimit p) s = .next ((s.setPwr (fun x => { x with fast := true })).count pwrU 11 1)) ∧
    (p < 2200 → exec (.fastLimit p) s = .next (s.setPwr (fun x => { x with fast := false }))) ∧
    (2200 ≤ p → p ≤ 2400 ∨ s.pwr.fast = true → exec (.fastLimit p) s = .next s) ∧
    (∀ src, src ≠ .pf → exec (.hostCapWrite src p) s = .next s) ∧
    (s.fwDown = true → 300 ≤ p → p ≤ 2200 → ∃ t, exec (.hostCapWrite .pf p) s = .next t ∧ t.pwr = { s.pwr with hostPend := some p } ∧
      t.get pwrU Reg.pwr.capHostW = p) ∧
    (∀ w, w = (if p = 0 then 0 else if p < 300 then 300 else if 2200 < p then 2200 else p) →
      (s.put pwrU Reg.pwr.capHostW w).fwDown = false → exec (.hostCapWrite .pf p) s =
        .next (((s.put pwrU Reg.pwr.capHostW w).setPwr (fun x => { x with host := w, hostPend := none })).applyCap)) ∧
    (s.flag pwrU Reg.pwr.statThrot = true → exec .throtAssert s = .next s ∧
      exec .throtRelease s = .next (((s.put pwrU Reg.pwr.statThrot 0).setPwr (fun x => { x with half := false })).applyCap)) ∧
    (s.flag pwrU Reg.pwr.statThrot = false → exec .throtRelease s = .next s ∧ exec .throtAssert s =
      .next (((((s.put pwrU Reg.pwr.statThrot 1).count pwrU 2 1).irq pwrU (2 ^ 17)).setPwr (fun x => { x with half := true })).applyCap)) ∧
    (s.flag pwrU Reg.pwr.statRamp = false → exec (.rampModeAssert p) s =
      .next (((s.put pwrU Reg.pwr.statRamp 1).setPwr (fun x => { x with ramp := some (s.rampCap p), frozen := false })).applyCap)) ∧
    (s.flag pwrU Reg.pwr.statRamp = true → exec (.rampModeAssert p) s = .next s) ∧
    (∃ t, exec .rampModeRelease s = .next t ∧ t.pwr.ramp = none ∧ t.pwr.frozen = false ∧ t.get pwrU Reg.pwr.statRamp = 0 ∧ t.mem = s.mem) ∧
    (s.flag pwrU Reg.pwr.statRamp = true → s.pwr.frozen = false → ∃ t, exec .syncLost s = .next t ∧ t.pwr = { s.pwr with frozen := true } ∧
      t.get pwrU Reg.pwr.statSyncOk = 0 ∧ t.mem = s.mem) ∧
    (s.flag pwrU Reg.pwr.statRamp = false ∨ s.pwr.frozen = true → exec .syncLost s = .next s)

/-- Each millisecond the limiter, unless it has stopped, records the input power, its peak and the partitions' shares; a unit of a clock group that
has no lane is gated and woken; parking needs a writer that is no virtual function, or a nonzero automatic time, and its wake completes once; a
detector's stretch is counted, and held against the phase of a lane that runs there; a tile's or cluster's measured speed is recorded (R128, R512,
R515, R520 to R523). That the limiter does nothing without its heartbeat or its rail sequencers is the model's reading (log 182). -/
def Obligations.ClocksAndPowerFollowTheLoad : Prop :=
  ∀ (s : State) (u : UnitId) (n : Nat),
    (∀ m, s.limiterIdle = true → exec (.limiterTick m) s = .next s) ∧
    (∀ m, s.limiterIdle = false → ∃ t, exec (.limiterTick m) s = .next t ∧ t.mem = s.mem ∧ t.get pwrU Reg.pwr.pIn1msW = m.p1ms % 2 ^ 12 ∧
      t.get pwrU Reg.pwr.pPeakW = max (s.get pwrU Reg.pwr.pPeakW) m.p10us % 2 ^ 12 ∧ t.pwr.shared = m.shared) ∧
    (u.blk = .mt ∨ u.blk = .uc →
      ((clockGroup u).all (fun v => (s.unit v).queue.isEmpty) = true → exec (.gateIdle u) s = .next (s.setGated u true)) ∧
      ((clockGroup u).all (fun v => (s.unit v).queue.isEmpty) = false → exec (.gateIdle u) s = .next s) ∧
      exec (.unitWake u) s = .next (s.setGated u false) ∧
      ((clockGroup u).all (fun v => (s.unit v).queue.isEmpty) = true → exec (.droop u n) s = .next ((s.count pwrU 5 1).count pwrU 6 n)) ∧
      (∀ l rest t, (s.unit u).queue = l :: rest → (s.part l.part).step = some t → ∃ t', exec (.droop u n) s = .next t' ∧
        t'.mem = s.mem ∧ t'.pred.length = s.pred.length ∧
        (∀ r ∈ s.pred, r.part = l.part → r.pslot = t.pslot → r.phase = l.phase → { r with stretches := r.stretches + 1 } ∈ t'.pred)) ∧
      (∃ t, exec (.ageingMeasure u n) s = .next t ∧ t.mem = s.mem ∧
        (1250 ≤ n → t.get u (if u.blk = .mt then Reg.mt.ageFmaxMeas else Reg.uc.ageFmaxMeas) = n % 2 ^ 16))) ∧
    (∀ src, (notVf src = true → exec (.parkCmd src) s = .next s.park ∧ exec (.wakeCmd src) s = .next s.rouse) ∧
      (notVf src = false → exec (.parkCmd src) s = .next s ∧ exec (.wakeCmd src) s = .next s)) ∧
    (s.get pwrU Reg.pwr.parkAutoMs = 0 → exec .parkAuto s = .next s) ∧
    (s.get pwrU Reg.pwr.parkAutoMs ≠ 0 → exec .parkAuto s = .next s.park) ∧
    (s.pwr.waking = true → ∃ t, exec .wakeComplete s = .next t ∧ t.get pwrU Reg.pwr.statParked = 0 ∧ t.pwr = { s.pwr with waking := false } ∧
      t.mem = s.mem) ∧
    (s.pwr.waking = false → exec .wakeComplete s = .next s) ∧
    (∀ part phase, (s.part part).step = none → exec (.phasePreset part phase) s = .next s) ∧
    (∀ part phase t, (s.part part).step = some t → s.flag pwrU Reg.pwr.predEn = true → s.fwDown = false → s.isAnte part = false →
      ∃ t', exec (.phasePreset part phase) s = .next t' ∧ t'.get pwrU Reg.pwr.statPred = 1 ∧ t'.mem = s.mem)

/-- The thermal machine: a sample of a die's sensors is recorded as it is; the thermal cap falls by its step and not below the floor while the module
throttles and a limit is reached, and rises by 10 W until it stops applying; a cold plate that rises too much for its power is suspect and holds
the floor, as does a current that does not add up; a floor ends 60 s after its condition (R524, R525, R530 to R532). -/
def Obligations.TemperaturesAreWatched : Prop :=
  ∀ s : State,
    (∀ k temps a b, ∃ t, exec (.thermalSample (.die k) temps a b) s = .next t ∧ t.mem = s.mem ∧
      Sparse.get (fun _ => (0, [])) t.pwr.temps (sensorKey (.die k)) = (s.now, temps)) ∧
    (s.pwr.thm = none → exec .thermalCapTick s = .next s) ∧
    (∀ w, s.pwr.thm = some w →
      (s.flag thmU Reg.thm.statThrottle = true →
        let w' := if s.tooHot then max (s.get pwrU Reg.pwr.floorW) (w - s.get thmU Reg.thm.throttleStepW) else w
        exec .thermalCapTick s =
          .next ((((s.setPwr (fun x => { x with thm := some w' })).put thmU Reg.thm.capThmW w').count thmU 1 1).applyCap)) ∧
      (s.flag thmU Reg.thm.statThrottle = false → exec .thermalCapTick s =
        .next (((s.setPwr (fun x => { x with thm := if w + 10 < 2200 then some (w + 10) else none })).put thmU Reg.thm.capThmW
          (min 2200 (w + 10))).applyCap))) ∧
    (∀ inlet outlet rise watts, ∃ t, exec (.coldPlateCheck inlet outlet rise watts) s = .next t ∧ t.mem = s.mem ∧
      t.get thmU Reg.thm.coldInlet = inlet % 2 ^ 10 ∧ t.get thmU Reg.thm.coldOutlet = outlet % 2 ^ 10 ∧
      ((97 * watts + 47700) * 1000 < rise * 15900 → t.get thmU Reg.thm.statCoolantSuspect = 1 ∧ t.get thmU Reg.thm.statCpImplausible = 1 ∧
        (1 : Nat) ∈ t.pwr.conds) ∧
      (rise * 15900 ≤ (97 * watts + 47700) * 1000 → t.get thmU Reg.thm.statCoolantSuspect = 0)) ∧
    (∀ rails watts, ∃ t, exec (.currentCheck rails watts) s = .next t ∧ t.mem = s.mem ∧
      (t.get thmU Reg.thm.statCurImplausible = 1 ↔
        max (5 * watts) 4000 * s.get ⟨.mcc, 0⟩ Reg.mcc.convEff <
          100 * (max (rails * 65536) (watts * s.get ⟨.mcc, 0⟩ Reg.mcc.convEff) - min (rails * 65536) (watts * s.get ⟨.mcc, 0⟩ Reg.mcc.convEff)))) ∧
    (∀ k, s.pwr.conds.contains k = true ∨ s.pwr.floors.contains k = false → exec (.sensorFloorExpiry k) s = .next s) ∧
    (∀ k, s.pwr.conds.contains k = false → s.pwr.floors.contains k = true → ∃ t, exec (.sensorFloorExpiry k) s = .next t ∧
      t.pwr.floors = s.pwr.floors.filter (fun c => c != k) ∧ t.mem = s.mem)

/-- The management port's own commands: an address is taken only by a powered module without one, and dropped by RSTDAA; the read length is at most
256; a hot join is sent while there is no address; AON answers with its status block while no MCC holds the endpoint, and takes no writes (R608 to
R610). A message to the endpoint gets no answer while no MCC serves it, and otherwise is counted in and out: an endpoint ID that MCTP allows is
taken; a heartbeat restarts the watchdog and ends the SAFE cap; a time waits for the next tick; a sensor is read; the oldest event is handed over;
an image is checked and begins an update or is refused; and firmware is activated by a full start (R539, R550, R609, R612 to R615, R620). -/
def Obligations.ThePortIsAddressed : Prop :=
  (∀ s : State,
    (∀ d, s.unaddressed = true → exec (.entdaa d) s = .next (s.takeAddr d) ∧ exec (.setdasa staticAddr d) s = .next (s.takeAddr d) ∧
      exec .hotJoin s = .next (s.emit (.sideband [2]))) ∧
    (∀ d a, a ≠ staticAddr → exec (.setdasa a d) s = .next s) ∧
    (∀ d a, s.unaddressed = false → exec (.entdaa d) s = .next s ∧ exec (.setdasa a d) s = .next s ∧ exec .hotJoin s = .next s) ∧
    (s.sys.powered = true → ∃ t, exec .rstdaa s = .next t ∧ t.get mgtU Reg.mgt.i3cDynAddr = 0 ∧ t.mem = s.mem) ∧
    (s.sys.powered = false → exec .rstdaa s = .next s) ∧
    (∀ n, s.sys.powered = true → exec (.setmrl n) s = .next { s with mgt := { s.mgt with mrl := min n 256 } }) ∧
    (s.sys.powered = true → exec .getmrl s = .next (s.respond [s.mgt.mrl])) ∧
    (s.sys.powered = false → (∀ n, exec (.setmrl n) s = .next s) ∧ exec .getmrl s = .next (s.respond []) ∧ exec (.aonStatusRead false) s = .next (s.respond [])) ∧
    (s.sys.powered = true → s.endpoint = false → s.sys.refclk = true →
      exec (.aonStatusRead false) s = .next (s.respond (s.statusBlock.1.map (fun x => x.toNat))) ∧ s.statusBlock.1.length = 32) ∧
    (exec (.aonStatusRead true) s = .next (s.respond []))) ∧
  (∀ s : State,
    (s.endpoint = false → ∀ c ∈ [Instr.setEndpointId 9, .heartbeat 0, .setTime 0, .getSensorReading 1, .pollForPlatformEventMessage,
      .pldmFirmwareUpdate [], .activateFirmware], exec c s = .next (s.respond [])) ∧
    (s.endpoint = true → ∀ t, t = (s.count mgtU 2 1).count mgtU 3 1 →
      (∀ e, e = 0 ∨ 255 ≤ e → exec (.setEndpointId e) s = .next (t.respond [2])) ∧
      (∀ e, 0 < e → e < 255 → exec (.setEndpointId e) s = .next (((t.put mgtU Reg.mgt.mctpEid e).irq mgtU (2 ^ 19)).respond [0])) ∧
      (∀ q, ∃ t', exec (.heartbeat q) s = .next t' ∧ t'.mgt.hbNs = 0 ∧ t'.get mgtU Reg.mgt.wdtExpired = 0 ∧ t'.get pwrU Reg.pwr.statSafe = 0 ∧
        t'.mem = s.mem ∧ t'.resp.length = 32) ∧
      (∀ ms, ms < 2 ^ 64 → ∃ t', exec (.setTime ms) s = .next t' ∧ t'.mgt = { s.mgt with setTime := some ms } ∧ t'.resp = [0] ∧ t'.mem = s.mem) ∧
      (∀ id r, t.sensor id = some r → exec (.getSensorReading id) s = .next (r.2.respond [0, r.1])) ∧
      (∀ id, t.sensor id = none → exec (.getSensorReading id) s = .next (t.respond [0x80])) ∧
      (t.sensor 16 = some (t.mode, t)) ∧
      (s.mgt.events = [] → exec .pollForPlatformEventMessage s = .next (t.respond [])) ∧
      (∀ e, s.mgt.events = [e] → exec .pollForPlatformEventMessage s =
        .next ((t.setMgt (fun x => { x with events := [] })).respond [e.code, e.seq, e.time, e.v0, e.v1])) ∧
      (∀ e f r, s.mgt.events = e :: f :: r → exec .pollForPlatformEventMessage s = .next
        (((t.setMgt (fun x => { x with events := f :: r })).respond [e.code, e.seq, e.time, e.v0, e.v1]).emit (.sideband []))) ∧
      (∀ image, s.sys.update.isSome = true → exec (.pldmFirmwareUpdate image) s = .next (t.respond [0x81])) ∧
      (∀ image r, s.sys.update = none → t.checkImage image = .error r →
        exec (.pldmFirmwareUpdate image) s = .next ((t.updateRefused r).respond [r])) ∧
      (∀ image f, s.sys.update = none → t.checkImage image = .ok f →
        exec (.pldmFirmwareUpdate image) s = .next ((t.beginUpdate 1 f).respond [0])) ∧
      exec .activateFirmware s = .next (((t.interrupted.cutUpdate).beginFull true).respond [0])))

/-- The watchdog and the clock: an expired watchdog sets its flag, and in a module that is awake the SAFE cap and its alert, once; a tick brings the
uptime on, sets the time of a module that has had none to 0, takes an edge within its window or counts one outside, and does not correct without
the reference clock; the reference clock's loss and return are told once each (R519, R567, R615, R619, R620). -/
def Obligations.TimeIsKept : Prop :=
  ∀ s : State,
    (s.sys.powered = false ∨ s.flag mgtU Reg.mgt.wdtExpired = true ∨ s.flag mgtU Reg.mgt.wdtDisable = true → exec .wdtExpired s = .next s) ∧
    (s.sys.powered = true → s.flag mgtU Reg.mgt.wdtExpired = false → s.flag mgtU Reg.mgt.wdtDisable = false →
      (s.awake = false → exec .wdtExpired s = .next (s.put mgtU Reg.mgt.wdtExpired 1)) ∧
      (s.awake = true → ∃ t, exec .wdtExpired s = .next t ∧ t.get mgtU Reg.mgt.wdtExpired = 1 ∧ t.get pwrU Reg.pwr.statSafe = 1 ∧ t.mem = s.mem)) ∧
    (∀ e p, (∃ t, exec (.syncTick e p) s = .next t ∧ t.mem = s.mem ∧ t.mgt.upNs = s.mgt.upNs + e) ∧
      (s.sys.pgood = false → exec (.syncTick e p) s = .next (s.uptime e)) ∧
      (s.sys.powered = true → s.sys.pgood = true →
        (s.sys.refclk = false → exec (.syncTick e p) s = .next ((s.uptime e).setTime ((s.uptime e).now + e))) ∧
        (s.sys.refclk = true → s.mgt.ticked = false → exec (.syncTick e p) s =
          .next ((((s.uptime e).setTime 0).setMgt (fun x => { x with ticked := true })).edgeIn 0 p false)) ∧
        (s.sys.refclk = true → s.mgt.ticked = true → s.mgt.slew = 0 →
          exec (.syncTick e p) s = .next ((s.uptime e).edge ((s.uptime e).now + e) p)))) ∧
    (s.sys.refclk = false → exec .refclkLost s = .next s) ∧ (s.sys.refclk = true → exec .refclkReturn s = .next s) ∧
    (s.sys.refclk = true → ∃ t, exec .refclkLost s = .next t ∧ t.sys.refclk = false ∧ t.mem = s.mem ∧
      (s.awake = true → s.get clkU Reg.clk.refState = 1 → t.get clkU Reg.clk.refState = 2 ∧ t.get mgtU Reg.mgt.tsSynced = 0)) ∧
    (s.sys.refclk = false → ∃ t, exec .refclkReturn s = .next t ∧ t.sys.refclk = true ∧ t.mem = s.mem ∧
      t.get clkU Reg.clk.refState = (if s.get clkU Reg.clk.refState = 2 then 1 else s.get clkU Reg.clk.refState))

/-- A unit's replacement from the Talon: a spare that is ready commits its remap, or waits for an open transaction; a remap that waited commits once
none is open, and a committed one is applied at the retiring unit's break point or fault; a unit that does not drain in time is forced, once; and
the oldest entry being programmed enters the Discard (R572, R574, R576). -/
def Obligations.SparesReplaceUnits : Prop :=
  ∀ (s : State) (r : RemapRec) (rest : List RemapRec), s.talon.remaps = r :: rest →
    let bank := r.retiring.blk = .tbl ∨ r.retiring.blk = .mem
    (∀ i, r.stage = .starting → r.spare = some i → exec (.spareReady ⟨r.retiring.blk, i⟩) s = .next (s.commitRemap r)) ∧
    (r.stage = .starting → exec (.remapApply r.retiring) s = .next (if bank then s.goesOn else s)) ∧
    (r.stage = .ready → exec (.remapApply r.retiring) s = .next (if bank then (s.commitRemap r).goesOn else s.commitRemap r)) ∧
    (r.stage = .ready → ¬ bank → s.txn.isSome = true → ∃ t, exec (.remapApply r.retiring) s = .next t ∧ t.regs = s.regs ∧ t.units = s.units) ∧
    (r.stage = .committed → bank → r.spare.isSome = true → exec (.remapApply r.retiring) s = .next s.goesOn) ∧
    (r.stage = .committed → bank → r.spare = none →
      (s.faulted r.retiring = true ∨ s.drained r.retiring = true → exec (.remapApply r.retiring) s = .next (s.applyRemap r).goesOn) ∧
      (s.faulted r.retiring = false → s.drained r.retiring = false → exec (.remapApply r.retiring) s = .next s.goesOn)) ∧
    (r.stage = .committed → ¬ bank →
      (s.faulted r.retiring = true ∨ s.drained r.retiring = true → exec (.remapApply r.retiring) s = .next (s.applyRemap r)) ∧
      (s.faulted r.retiring = false → s.drained r.retiring = false → exec (.remapApply r.retiring) s = .next s)) ∧
    (r.stage = .committed → s.drained r.retiring = true ∨ (s.unit r.retiring).mccForce = true →
      exec (.remapDrainTimeout r.retiring) s = .next s) ∧
    (r.stage = .committed → s.drained r.retiring = false → (s.unit r.retiring).mccForce = false →
      ∃ t, exec (.remapDrainTimeout r.retiring) s = .next t ∧ (t.unit r.retiring).mccForce = true ∧ t.mem = s.mem ∧
        (s.ustate r.retiring = stRunning → t.ustate r.retiring = stDraining)) ∧
    (∀ e q, s.talon.programming = e :: q → ∃ t, exec .discardProgrammed s = .next t ∧ t.talon.discard = s.talon.discard ++ [e] ∧
      t.talon.programming = q ∧ t.regs = s.regs ∧ t.mem = s.mem) ∧
    (s.talon.programming = [] → exec .discardProgrammed s = .next s)

/-- Transactions: one that may open takes the next ID and shows its opener; a second one is told that one is open; its opener alone commits and aborts
it; a commit that does not validate aborts with its reason, one that does freezes the units; it is applied when they have all reached break
points, and aborted with reason 6 when the wait ends before, or with reason 10 by its own timeout (R578, R580, R582, R604). -/
def Obligations.TransactionsRunTheirCourse : Prop :=
  ∀ (s : State) (src : Src),
    (notVf src = false → exec (.openTxn src) s = .next s) ∧
    (notVf src = true → s.txn.isSome = true → exec (.openTxn src) s = .next (s.txnSays 0 1)) ∧
    (notVf src = true → s.txn = none → s.kindAllowed (s.get ctuU Reg.ctu.txnKind) = false → exec (.openTxn src) s = .next (s.txnSays 0 2)) ∧
    (notVf src = true → s.txn = none → s.kindAllowed (s.get ctuU Reg.ctu.txnKind) = true → ∃ t, exec (.openTxn src) s = .next t ∧
      (∃ x, t.txn = some x ∧ x.opener = src ∧ x.kind = s.get ctuU Reg.ctu.txnKind ∧ x.shadow = [] ∧ x.applying = false ∧
        x.partMask = (if s.get ctuU Reg.ctu.txnKind = 4 then s.get ctuU Reg.ctu.txnPartMask else 0)) ∧
      t.txnNextId = (s.txnNextId + 1) % 65536 ∧ t.get ctuU Reg.ctu.txnId = s.txnNextId % 65536 ∧ t.get ctuU Reg.ctu.txnState = 1 ∧
      t.mem = s.mem) ∧
    (s.txn = none → ∀ c ∈ [Instr.commit src, .abort src, .txnApply, .breakTimeout, .txnTimeout], exec c s = .next s) ∧
    (∀ t, s.txn = some t →
      (t.opener ≠ src → exec (.commit src) s = .next s ∧ exec (.abort src) s = .next s) ∧
      (t.opener = src → exec (.abort src) s = .next (s.abortTxn 9 none)) ∧
      (t.opener = src → t.applying = false →
        (∀ r, s.txnBad t = some r → exec (.commit src) s = .next (s.abortTxn r.1 r.2)) ∧
        (s.txnBad t = none → ∃ t', exec (.commit src) s = .next t' ∧ t'.txn = some { t with applying := true } ∧
          t'.get ctuU Reg.ctu.txnState = 3 ∧ t'.mem = s.mem ∧ (∀ u ∈ t.frozen, (t'.unit u).mccFreeze = true))) ∧
      (t.applying = true → s.txnReady t = true → exec .txnApply s = .next (s.applyTxn t) ∧ exec .breakTimeout s = .next s) ∧
      (t.applying = true → s.txnReady t = false → exec .txnApply s = .next s ∧ exec .breakTimeout s = .next (s.abortTxn 6 none)) ∧
      (t.applying = true → exec .txnTimeout s = .next (s.abortTxn 10 none)) ∧
      (t.applying = false → ∃ t', exec .txnTimeout s = .next t' ∧ t'.txn = none ∧ t'.get ctuU Reg.ctu.txnState = 0 ∧
        t'.get ctuU Reg.ctu.txnResult = 0 ∧ t'.get ctuU Reg.ctu.txnReason = 10)) ∧
    (∀ p, p < 8 → (s.part p).fencing = true → (s.part p).step = none → s.pstate p ≠ 3 → ∃ t, exec (.fenced p) s = .next t ∧
      t.pstate p = 3 ∧ t.mem = s.mem ∧ t.parts = s.parts) ∧
    (∀ p, (s.part p).fencing = false ∨ (s.part p).step.isSome = true → exec (.fenced p) s = .next s)

/-- The pairs of Dealers and MCCs: an acknowledged journal record of the Dealers lets out what waited for it, and one of the MCCs is counted; a dummy
that does not answer is out, and what waited for it is let out; ownership passes where the standby can take it, and the pair is lost where it
cannot; a release is the management port's, and is refused and counted where the standby could not take over (R363, R365, R584 to R588). What
watches the pairs: heartbeats and gaps of them, the interlock, which LD1 loses its pairs to, once; the scan of a dummy's slices and the comparison
of digests; the MCC firmware's restart, which drops its prediction and takes a waiting host cap on its return; and the health report, for the PF
and the management port (R567, R584, R588, R590, R591). -/
def Obligations.PairsJournalAndPass : Prop :=
  (∀ s : State,
    (s.held = [] → exec (.journalRecord 0) s = .next s) ∧
    (∀ o r, s.held = o :: r → exec (.journalRecord 0) s = .next { s with out := s.out ++ o, held := r }) ∧
    (s.roleOf 1 (1 - s.holderDie 1) = 1 → exec (.journalRecord 1) s = .next ((s.count s.mccHolder 0 1).count s.mccHolder 1 1)) ∧
    (∀ k, 2 ≤ k → exec (.journalRecord k) s = .next s ∧ exec (.journalOut k) s = .next s ∧ exec (.dummySynced k) s = .next s) ∧
    (s.roleOf 0 (1 - s.holderDie 0) = 1 → ∃ t, exec (.journalOut 0) s = .next t ∧ t.held = [] ∧ t.roleOf 0 (1 - s.holderDie 0) = 2) ∧
    (s.roleOf 1 (1 - s.holderDie 1) = 1 → ∃ t, exec (.journalOut 1) s = .next t ∧ t.held = s.held ∧ t.roleOf 1 (1 - s.holderDie 1) = 2) ∧
    (∀ k, k < 2 → s.roleOf k (1 - s.holderDie k) ≠ 1 → exec (.journalOut k) s = .next s) ∧
    (s.ustate ⟨.dlr, 1 - s.holderDie 0⟩ = stRunning → (s.stby 0).status ≠ 2 → s.roleOf 0 (1 - s.holderDie 0) ≠ 0 →
      exec (.dummySynced 0) s = .next (s.setRole 0 (1 - s.holderDie 0) 1 1)) ∧
    (s.roleOf 1 (1 - s.holderDie 1) = 2 → exec (.dummySynced 1) s = .next s) ∧
    (∀ k, k < 3 → s.sys.failed.contains (k, s.holderDie k) = false →
      (s.canPass k = true → exec (.ownershipPass k) s = .next (s.passOwner k)) ∧
      (s.canPass k = false → exec (.ownershipPass k) s = .next (s.pairLost k))) ∧
    (∀ k, s.sys.failed.contains (k, s.holderDie k) = true → exec (.ownershipPass k) s = .next s ∧ exec (.ownerHeartbeat k) s = .next s) ∧
    (∀ src m, src ≠ .mgmt → exec (.release src m) s = .next s) ∧
    (s.canPass 0 = false → exec (.release .mgmt 1) s = .next (s.setStby 0 (fun x => { x with refused := x.refused + 1 }))) ∧
    (s.canPass 0 = true → s.sys.failed.contains (0, s.holderDie 0) = false → exec (.release .mgmt 1) s = .next (s.passOwner 0))) ∧
  (∀ s : State,
    (∀ k, k < 3 → s.sys.failed.contains (k, s.holderDie k) = false → ∃ t, exec (.ownerHeartbeat k) s = .next t ∧
      bit (t.get ⟨.aon, 0⟩ Reg.aon.hbMissing) k = false ∧ t.get ⟨.aon, 1⟩ Reg.aon.hbMissing = t.get ⟨.aon, 0⟩ Reg.aon.hbMissing ∧ t.mem = s.mem) ∧
    (∀ k, k < 3 → bit (s.get ⟨.aon, 0⟩ Reg.aon.hbMissing) k = false → ∃ t, exec (.heartbeatGap k) s = .next t ∧
      bit (t.get ⟨.aon, 0⟩ Reg.aon.hbMissing) k = true ∧ t.mem = s.mem) ∧
    (∀ k, bit (s.get ⟨.aon, 0⟩ Reg.aon.hbMissing) k = true → exec (.heartbeatGap k) s = .next s) ∧
    (s.flag sprU Reg.spr.ownInterlockOk = false → exec .interlockFault s = .next s) ∧
    (s.flag sprU Reg.spr.ownInterlockOk = true → s.holderDie 0 = 0 → s.holderDie 1 = 0 → s.holderDie 2 = 0 → ∃ t, exec .interlockFault s = .next t ∧
      t.get sprU Reg.spr.ownInterlockOk = 0 ∧ t.get ⟨.aon, 0⟩ Reg.aon.latchInterlockOk = 0 ∧ t.get ⟨.aon, 1⟩ Reg.aon.latchHolder = 0 ∧ t.mem = s.mem) ∧
    (∀ k, k < 2 → s.roleOf k (1 - s.holderDie k) = 1 → s.standbyCode k < 4 →
      exec (.scanSlice k true false) s = .next (s.count sprU 4 1) ∧
      exec (.scanSlice k false false) s =
        .next (((s.count sprU 4 1).setStby k (fun x => { x with slicesFailed := x.slicesFailed + 1 })).dummyFails k) ∧
      exec (.digestCompare k false) s =
        .next (((s.count sprU 5 1).setStby k (fun x => { x with mismatches := x.mismatches + 1 })).dummyFails k)) ∧
    (∀ k, exec (.digestCompare k true) s = .next s) ∧
    (s.ustate s.mccHolder ≠ stFaulted → s.fwDown = false → s.flag pwrU Reg.pwr.statPred = false → ∃ t, exec (.fwRestart false) s = .next t ∧
      t.get s.mccHolder Reg.mcc.fwState = 3 ∧ t.mem = s.mem) ∧
    (s.ustate s.mccHolder ≠ stFaulted → s.fwDown = true → s.pwr.hostPend = none →
      exec (.fwRestart true) s = .next (s.put s.mccHolder Reg.mcc.fwState (if s.mode = 4 then 2 else 1))) ∧
    (s.ustate s.mccHolder = stFaulted → ∀ up, exec (.fwRestart up) s = .next s) ∧
    (∀ src, notVf src = true → s.ustate s.mccHolder ≠ stFaulted →
      exec (.capture src) s = .next { s with sys := { s.sys with health := s.healthReport } }) ∧
    (∀ src, notVf src = false → exec (.capture src) s = .next s))

/-- R35: an absent or reserved page reads as zero at every offset and writes to it are ignored, over BAR0 and over the management port alike; no
present page's PAGE_ID is 0. -/
def Obligations.AbsentPagesReadZero : Prop :=
  (∀ page, unitOfPage page = none → ∀ (s : State) (src : Src),
    (∀ off n, s.readWords src page off n = (List.replicate n 0, s)) ∧
    (∀ off size data, page < 0x4000 → off < 0x1000 → off % size = 0 → size = 4 ∨ size = 8 →
      exec (.registerWrite src (page * 0x1000 + off) size data) s = .next s ∧
      exec (.rwtWrite src (page * 0x1000 + off) size data) s = .next s) ∧
    (∀ off size data, s.pageWrite src page off size data = s)) ∧
  (∀ u : UnitId, u.valid = true → ∀ s : State, s.word u.base = wordReset u.base → s.pageWord u 0 ≠ 0)

/-- R244: line n of slice s of a die-local band lies in logical bank 512 × ⌊s / 16⌋ + (n mod 512), row 128 b + (n >> 9); the slice spans the 512 banks
of its die with 128 rows each, and no two of its lines share a place. -/
def Obligations.DieLocalLinesAreSpread : Prop :=
  ∀ (s : State) (sl : Nat), sl < 32 → bit (s.get ⟨.tbl, 0⟩ Reg.tbl.mapBandMode) (sl % 16) = false →
    (∀ n x, n < 65536 → x < 256 → s.bankOf (sl * 0x100_0000 + n * 256 + x) = (512 * (sl / 16) + n % 512, 128 * (sl % 16) + n >>> 9)) ∧
    (∀ b r, b < 512 → r < 128 → ∃ n, n < 65536 ∧ s.bankOf (sl * 0x100_0000 + n * 256) = (512 * (sl / 16) + b, 128 * (sl % 16) + r)) ∧
    (∀ n m, n < 65536 → m < 65536 → s.bankOf (sl * 0x100_0000 + n * 256) = s.bankOf (sl * 0x100_0000 + m * 256) → n = m)

/-- R526: when Tj reaches 110 °C, or a GDDR7 device reaches 105 °C, the module makes a thermal stop, whose sequence is that of a loss of coolant with
the cause THERMAL_STOP: the same stop with reason 0x0602 in place of 0x0601. It leaves AON alone powered, whatever ran. -/
def Obligations.HeatStopsTheModule : Prop :=
  ∀ s : State,
    (s.awake = true → (110_000 ≤ s.tj ∨ 105_000 ≤ s.hotDevice) →
      exec .thermalStop s = .next ((s.count thmU 7 1).stopModule 0x0602)) ∧
    ((s.tj < 110_000 ∧ s.hotDevice < 105_000) ∨ s.awake = false → exec .thermalStop s = .next s) ∧
    (s.awake = true → ∃ t : State, exec .coolantLoss s = .next ((t.count thmU 6 1).stopModule 0x0601) ∧ t.mem = s.mem ∧ t.sys.coolant = false) ∧
    (∀ reason, (s.stopModule reason).awake = false ∧ (s.stopModule reason).sys.pgood = false ∧ (s.stopModule reason).sys.stopped = true)

/-- R374: the CDAT returns one DSMAS entry, which covers the whole window, and DSLBIS entries with a read latency of 800 ns and a read and a write
bandwidth of 55 GB/s; it is the physical function's, while that can be reached. -/
def Obligations.TheCdatIsReported : Prop :=
  ∀ (s : State) (src : Src),
    (src = .pf → s.reachable src = true → ∃ t, exec (.tableAccess src) s = .next t ∧
      t.resp = [0, 2 ^ 30 * s.memWin, 1, 800, 4, 55, 5, 55] ∧ t.mem = s.mem ∧ t.regs = s.regs) ∧
    (src ≠ .pf ∨ s.reachable src = false → exec (.tableAccess src) s = .next (s.respond []))

/-- Where the commands of a step and of a kernel complete with an effect of their own, each under conditions on the state and its operands alone: a
template whose wait is met issues its lanes, is skipped, or ends as a NOP; the oldest waiting lane of its order goes to a running unit with room;
a lane that has ended leaves its unit; a kernel is entered, traces, exits, traps and times out, and leaves a status in its lane (R84 to R87, R101,
R230, R231, R233, R362). -/
def Obligations.StepAndKernelCommandsComplete : Prop :=
  ∀ s : State,
    (∀ part tmpl t, s.running part = some t →
      tmpl < (s.planHdr (s.stepPlan part t)).templates → t.inWindow tmpl = true → s.waitMet t (s.tmpl (s.stepPlan part t) tmpl) = true →
      (t.skips (s.tmpl (s.stepPlan part t) tmpl) = false → (s.tmpl (s.stepPlan part t) tmpl).eclass ≠ 10 →
        ∃ t', exec (.templateIssue part tmpl) s = .next t' ∧ t'.units = (s.tmplRead part (s.stepPlan part t) tmpl).units ∧
          (t'.part part).step.map (fun y => y.waiting.length) =
            ((s.tmplRead part (s.stepPlan part t) tmpl).part part).step.map (fun y => y.waiting.length + (s.tmpl (s.stepPlan part t) tmpl).spanM1 + 1)) ∧
      (t.skips (s.tmpl (s.stepPlan part t) tmpl) = true →
        ∃ t', exec (.templateSkip part tmpl) s = .next t' ∧ t'.units = (s.tmplRead part (s.stepPlan part t) tmpl).units ∧
          (t'.part part).step = ((s.tmplRead part (s.stepPlan part t) tmpl).part part).step.map (fun y => y.finish tmpl)) ∧
      (t.skips (s.tmpl (s.stepPlan part t) tmpl) = false → (s.tmpl (s.stepPlan part t) tmpl).eclass = 10 →
        (s.tmpl (s.stepPlan part t) tmpl).opcode = 0 → s.slotFree part = true →
        exec (.nop part tmpl) s = .next (((s.tmplRead part (s.stepPlan part t) tmpl).setPart part (fun r =>
          { r with step := r.step.map (fun y => y.finish tmpl) })).finishLane
            (s.laneOf part t (s.tmpl (s.stepPlan part t) tmpl) tmpl 0 (s.tmpl (s.stepPlan part t) tmpl).ops) 0 none))) ∧
    (∀ part tmpl lane t l n v, s.running part = some t → t.waiting.find? (fun l => l.tmpl == tmpl && l.lane == lane) = some l →
      s.inOrder part t l = true → t.broken.contains (l.eclass, l.rel) = false → s.slotFree part = true → s.chainUnit l = none →
      (s.candidates l).find? (fun c => s.ustate c.2 == stRunning) = some (n, v) → (s.unit v).queue.length < 16 → s.frozen v = false →
      s.gated v = false →
      exec (.laneIssue part tmpl lane) s = .next (s.issueTo part t l n v)) ∧
    (∀ u l rest st, (s.unit u).queue = l :: rest → l.status = some st → l.eclass ≠ 8 →
      exec (.laneComplete u) s = .next ((s.completeLane u l st).stopQueued u)) ∧
    (∀ u l rest ev, u.blk = .uc → u.valid = true → (s.unit u).queue = l :: rest → l.status = none → (s.unit u).kernel = none →
      s.ustate u = stRunning → s.forced u = false → s.ucReject l = none → ev.err = none → s.heldIn (s.launchReads l) = false →
      ∃ t', exec (.run u ev) s = .next t' ∧
        (t'.unit u).kernel = some ((((s.correct u 9 ev.corrected).readAll clsUc (s.launchReads l)).1).launch u l)) ∧
    (∀ u l rest k, u.blk = .uc → u.valid = true → (s.unit u).queue = l :: rest → l.status = none → (s.unit u).kernel = some k →
      (∀ word, s.flag u Reg.uc.debugTraceEn = true →
        ∃ t', exec (.trace u word) s = .next t' ∧ (t'.unit u).trace = (s.unit u).trace ++ [word % 2 ^ 64] ∧ t'.mem = s.mem) ∧
      (∀ a0 io ev, s.ioHeld io = false → ev.err = none → (s.kernelIo u l.part k io).fault = none →
        exec (.exit u a0 io ev) s = .next (((s.kernelIo u l.part k io).st.correct u 9 ev.corrected).endKernel u l
          (exitStatus a0 (s.kernelIo u l.part k io).seen))) ∧
      (∀ pc cause val io, s.ioHeld io = false → (s.kernelIo u l.part k io).fault = none →
        exec (.kernelTrap u pc cause val io) s = .next (((s.kernelIo u l.part k io).st.trapped u pc cause val).endKernel u l
          (if cause = 1 ∨ cause = 5 ∨ cause = 7 then 0xC2 else 0xC1))) ∧
      (∀ io, (s.kernelIo u l.part k (s.ioDone io)).fault = none →
        exec (.kernelTimeout u io) s = .next ((s.kernelIo u l.part k (s.ioDone io)).st.endKernel u l 0xC3)))
end

