-- ==== Sys2Proof/Laws/Cores.lean ====
section
/-!
SUPPORT. What the operations of a utility core can do: registers, accesses, and one instruction.
-/
namespace Sys2Proof

@[simp] theorem leBytes_length (n v : Nat) : (leBytes n v).length = n := by
  induction n generalizing v with
  | zero => rfl
  | succ n ih => simp [leBytes, ih]

end Sys2Proof

namespace Sys2Proof.Machine

/-! ## Registers -/

@[simp] theorem Hart.getX_zero (h : Hart) : h.getX 0 = 0 := rfl

@[simp] theorem Hart.setX_zero (h : Hart) (v : Nat) : h.setX 0 v = h := rfl

theorem Hart.getX_setX (h : Hart) (r q v : Nat) (hr : r ≠ 0) (hs : r < 32) :
    (h.setX r v).getX q = if q = r then v % 2 ^ 64 else h.getX q := by
  unfold Hart.getX Hart.setX
  rw [if_neg hr]
  by_cases e : q = r
  · subst e
    simp [hr, hs]
  · simp [e, Ne.symm e, Vector.getElem?_setIfInBounds]

@[simp] theorem Hart.setX_pc (h : Hart) (r v : Nat) : (h.setX r v).pc = h.pc := by unfold Hart.setX; split <;> rfl
@[simp] theorem Hart.setX_f (h : Hart) (r v : Nat) : (h.setX r v).f = h.f := by unfold Hart.setX; split <;> rfl
@[simp] theorem Hart.setX_v (h : Hart) (r v : Nat) : (h.setX r v).v = h.v := by unfold Hart.setX; split <;> rfl
@[simp] theorem Hart.setX_fflags (h : Hart) (r v : Nat) : (h.setX r v).fflags = h.fflags := by unfold Hart.setX; split <;> rfl
@[simp] theorem Hart.setX_frm (h : Hart) (r v : Nat) : (h.setX r v).frm = h.frm := by unfold Hart.setX; split <;> rfl
@[simp] theorem Hart.setX_vtype (h : Hart) (r v : Nat) : (h.setX r v).vtype = h.vtype := by unfold Hart.setX; split <;> rfl
@[simp] theorem Hart.setX_vl (h : Hart) (r v : Nat) : (h.setX r v).vl = h.vl := by unfold Hart.setX; split <;> rfl
@[simp] theorem Hart.setF_x (h : Hart) (w r v : Nat) : (h.setF w r v).x = h.x := rfl
@[simp] theorem Hart.setF_pc (h : Hart) (w r v : Nat) : (h.setF w r v).pc = h.pc := rfl
@[simp] theorem Hart.accrue_x (h : Hart) (fl : Nat) : (h.accrue fl).x = h.x := rfl
@[simp] theorem Hart.accrue_pc (h : Hart) (fl : Nat) : (h.accrue fl).pc = h.pc := rfl

/-! ## Accesses -/

/-- An access that is refused is refused for its alignment or its reach, with the cause of its kind. -/
theorem State.coreBad_cases {s : State} {p a n : Nat} {st : Bool} {f : Nat × Nat} (h : s.coreBad p a n st = some f) :
    (a % n ≠ 0 ∧ f = (if st then 6 else 4, a)) ∨ (a % n = 0 ∧ s.ucReach p a n = false ∧ f = (if st then 7 else 5, a)) := by
  unfold State.coreBad at h
  split at h
  · exact .inl ⟨‹_›, (Option.some.inj h).symm⟩
  · split at h
    · exact .inr ⟨by omega, by simpa using ‹(!s.ucReach p a n) = true›, (Option.some.inj h).symm⟩
    · cases h

/-- After a trap or a wait nothing more is accessed. -/
theorem CoreRun.load_done (u : UnitId) (p : Nat) (x : CoreRun) (r : Nat × Nat) (h : (x.fault.isSome || x.wait) = true) :
    CoreRun.load u p x r = x := by
  unfold CoreRun.load
  rw [if_pos h]

theorem CoreRun.store_done (u : UnitId) (p : Nat) (x : CoreRun) (w : Nat × List Byte) (h : (x.fault.isSome || x.wait) = true) :
    CoreRun.store u p x w = x := by
  unfold CoreRun.store
  rw [if_pos h]

/-! ## One instruction -/

/-- A core without a kernel does nothing. -/
theorem State.coreStep_none (s : State) (u : UnitId) (h : s.kernelOn u = none) : s.coreStep u = s := by
  unfold State.coreStep
  rw [h]

/-- A core that runs executes what it fetches. -/
theorem State.coreStep_some (s : State) (u : UnitId) (l : Lane) (k : Kernel) (h : s.kernelOn u = some (l, k)) (r : s.ustate u = stRunning) :
    s.coreStep u = s.coreRun u l k (s.coreFetch l k) := by
  unfold State.coreStep
  rw [h]
  simp [r]

end Sys2Proof.Machine
end

