-- ==== Sys2Proof/Laws/Sparse.lean ====
section
/-!
SUPPORT. Laws of the sparse stores and of rising lists of keys: a read after a write, and that every operation keeps the canonical form.
-/
namespace Sys2Proof

variable {α : Type} [DecidableEq α] (d : Nat → α)

/-- What the form says of a first entry. -/
theorem Sparse.wf_cons (j : Nat) (v : α) (r : Sparse α) :
    Sparse.wf d ((j, v) :: r) = true ↔ v ≠ d j ∧ Sparse.above j r = true ∧ Sparse.wf d r = true := by
  simp [Sparse.wf, and_assoc]

omit [DecidableEq α] in
theorem Sparse.above_le {j k : Nat} (h : j ≤ k) : ∀ {r : Sparse α}, Sparse.above k r = true → Sparse.above j r = true
  | [], _ => rfl
  | _ :: _, ha => by simp only [Sparse.above, decide_eq_true_eq] at ha ⊢; omega

/-- In canonical form every later key is above the first. -/
theorem Sparse.above_mem {j : Nat} : ∀ {r : Sparse α}, Sparse.wf d r = true → Sparse.above j r = true → ∀ e ∈ r, j < e.1
  | [], _, _, _, he => by simp at he
  | (k, v) :: r, hw, ha, e, he => by
    rw [Sparse.wf_cons] at hw
    simp only [Sparse.above, decide_eq_true_eq] at ha
    rcases List.mem_cons.1 he with rfl | h
    · exact ha
    · exact lt_trans ha (Sparse.above_mem hw.2.2 hw.2.1 e h)

omit [DecidableEq α] in
theorem Sparse.above_of_mem {j : Nat} : ∀ {r : Sparse α}, (∀ e ∈ r, j < e.1) → Sparse.above j r = true
  | [], _ => rfl
  | e :: _, h => by simpa [Sparse.above] using h e (by simp)

/-- Leaving entries out keeps the canonical form. -/
theorem Sparse.wf_filter (p : Nat × α → Bool) : ∀ {r : Sparse α}, Sparse.wf d r = true → Sparse.wf d (r.filter p) = true
  | [], _ => rfl
  | (j, v) :: r, hw => by
    have hc := (Sparse.wf_cons d j v r).1 hw
    rw [List.filter_cons]
    split
    · rw [Sparse.wf_cons]
      exact ⟨hc.1, Sparse.above_of_mem (fun e he => Sparse.above_mem d hc.2.2 hc.2.1 e (List.mem_filter.1 he).1), Sparse.wf_filter p hc.2.2⟩
    · exact Sparse.wf_filter p hc.2.2

omit [DecidableEq α] in
theorem Sparse.above_insert {j k : Nat} (v : α) (hk : j < k) : ∀ {r : Sparse α}, Sparse.above j r = true → Sparse.above j (Sparse.insert r k v) = true
  | [], _ => by simp [Sparse.insert, Sparse.above, hk]
  | (i, w) :: r, ha => by
    simp only [Sparse.above, decide_eq_true_eq] at ha
    unfold Sparse.insert
    (repeat' split) <;> simp [Sparse.above, hk, ha]

theorem Sparse.wf_insert (k : Nat) (v : α) (hv : v ≠ d k) : ∀ {r : Sparse α}, Sparse.wf d r = true → Sparse.wf d (Sparse.insert r k v) = true
  | [], _ => by simp [Sparse.insert, Sparse.wf, Sparse.above, hv]
  | (i, w) :: r, hw => by
    have hc := (Sparse.wf_cons d i w r).1 hw
    unfold Sparse.insert
    split
    · rename_i h1
      rw [Sparse.wf_cons]
      exact ⟨hv, by simpa [Sparse.above] using h1, hw⟩
    · split
      · rename_i h2
        subst h2
        rw [Sparse.wf_cons]
        exact ⟨hv, hc.2.1, hc.2.2⟩
      · rw [Sparse.wf_cons]
        exact ⟨hc.1, Sparse.above_insert v (by omega) hc.2.1, Sparse.wf_insert k v hv hc.2.2⟩

/-- A write keeps the canonical form. -/
theorem Sparse.wf_set (k : Nat) (v : α) {r : Sparse α} (hw : Sparse.wf d r = true) : Sparse.wf d (Sparse.set d r k v) = true := by
  unfold Sparse.set
  split
  · exact Sparse.wf_filter d _ hw
  · rename_i h; exact Sparse.wf_insert d k v h hw

omit [DecidableEq α] in
theorem Sparse.get_insert_same (k : Nat) (v : α) : ∀ (r : Sparse α), Sparse.get d (Sparse.insert r k v) k = v
  | [] => by simp [Sparse.insert, Sparse.get]
  | (i, w) :: r => by
    unfold Sparse.insert
    split
    · simp [Sparse.get]
    · split
      · simp [Sparse.get]
      · rw [Sparse.get, if_neg (by omega)]
        exact Sparse.get_insert_same k v r

omit [DecidableEq α] in
theorem Sparse.get_insert_other {k a : Nat} (v : α) (h : a ≠ k) : ∀ (r : Sparse α), Sparse.get d (Sparse.insert r k v) a = Sparse.get d r a
  | [] => by simp only [Sparse.insert, Sparse.get]; rw [if_neg (by omega)]
  | (i, w) :: r => by
    unfold Sparse.insert
    split
    · conv => lhs; unfold Sparse.get
      rw [if_neg (by omega)]
    · split
      · rename_i h1 h2
        subst h2
        simp only [Sparse.get]; rw [if_neg (by omega), if_neg (by omega)]
      · simp only [Sparse.get]
        split
        · rfl
        · exact Sparse.get_insert_other v h r

omit [DecidableEq α] in
theorem Sparse.get_out (k : Nat) : ∀ (r : Sparse α), Sparse.get d (r.filter (fun e => decide (e.1 ≠ k))) k = d k
  | [] => rfl
  | (i, w) :: r => by
    rw [List.filter_cons]
    split
    · rename_i h
      rw [Sparse.get, if_neg (by simpa using h)]
      exact Sparse.get_out k r
    · exact Sparse.get_out k r

omit [DecidableEq α] in
theorem Sparse.get_out_other {k a : Nat} (h : a ≠ k) : ∀ (r : Sparse α), Sparse.get d (r.filter (fun e => decide (e.1 ≠ k))) a = Sparse.get d r a
  | [] => rfl
  | (i, w) :: r => by
    rw [List.filter_cons]
    split
    · simp only [Sparse.get]
      rw [Sparse.get_out_other h r]
    · rename_i h1
      have h2 : i = k := by simpa using h1
      rw [Sparse.get_out_other h r, Sparse.get, if_neg (by omega)]

/-- A read of the key that was written gives the value written. -/
theorem Sparse.get_set_same (k : Nat) (v : α) (r : Sparse α) : Sparse.get d (Sparse.set d r k v) k = v := by
  unfold Sparse.set
  split
  · rename_i h; rw [Sparse.get_out, h]
  · exact Sparse.get_insert_same d k v r

/-- A write leaves every other key alone. -/
theorem Sparse.get_set_other {k a : Nat} (v : α) (h : a ≠ k) (r : Sparse α) : Sparse.get d (Sparse.set d r k v) a = Sparse.get d r a := by
  unfold Sparse.set
  split
  · exact Sparse.get_out_other d h r
  · exact Sparse.get_insert_other d v h r

/-- Either way. -/
theorem Sparse.get_set (k a : Nat) (v : α) (r : Sparse α) : Sparse.get d (Sparse.set d r k v) a = if a = k then v else Sparse.get d r a := by
  split
  · rename_i h; subst h; exact Sparse.get_set_same d a v r
  · rename_i h; exact Sparse.get_set_other d v h r

theorem Sparse.wf_setRun : ∀ (l : List α) (k : Nat) {r : Sparse α}, Sparse.wf d r = true → Sparse.wf d (Sparse.setRun d r k l) = true
  | [], _, _, h => h
  | v :: l, k, _, h => Sparse.wf_setRun l (k + 1) (Sparse.wf_set d k v h)

/-- A run leaves every key outside it alone. -/
theorem Sparse.get_setRun_other {a : Nat} : ∀ (l : List α) (k : Nat) (r : Sparse α), (a < k ∨ k + l.length ≤ a) →
    Sparse.get d (Sparse.setRun d r k l) a = Sparse.get d r a
  | [], _, _, _ => rfl
  | v :: l, k, r, h => by
    rw [Sparse.setRun, Sparse.get_setRun_other l (k + 1) _ (by simp only [List.length_cons] at h; omega)]
    exact Sparse.get_set_other d v (by simp only [List.length_cons] at h; omega) r

/-- Each key of a run reads as the value written there. -/
theorem Sparse.get_setRun_same : ∀ (l : List α) (k i : Nat) (r : Sparse α) (h : i < l.length),
    Sparse.get d (Sparse.setRun d r k l) (k + i) = l[i]
  | v :: l, k, 0, r, _ => by
    rw [Sparse.setRun, Nat.add_zero, Sparse.get_setRun_other d l (k + 1) _ (by omega)]
    exact Sparse.get_set_same d k v r
  | v :: l, k, i + 1, r, h => by
    have := Sparse.get_setRun_same l (k + 1) i (Sparse.set d r k v) (by simpa using h)
    rw [Sparse.setRun]
    simpa [Nat.add_assoc, Nat.add_comm 1 i] using this

omit [DecidableEq α]

/-! ## Rising lists of keys -/

theorem Keys.wf_tail {j : Nat} : ∀ {r : List Nat}, Keys.wf (j :: r) = true → Keys.wf r = true
  | [], _ => rfl
  | _ :: _, h => by simp only [Keys.wf, Bool.and_eq_true] at h; exact h.2

theorem Keys.wf_mem {j : Nat} : ∀ {r : List Nat}, Keys.wf (j :: r) = true → ∀ e ∈ r, j < e
  | [], _, _, he => by simp at he
  | k :: r, h, e, he => by
    simp only [Keys.wf, Bool.and_eq_true, decide_eq_true_eq] at h
    rcases List.mem_cons.1 he with rfl | he
    · exact h.1
    · exact lt_trans h.1 (Keys.wf_mem h.2 e he)

theorem Keys.wf_of {j : Nat} : ∀ {r : List Nat}, Keys.wf r = true → (∀ e ∈ r, j < e) → Keys.wf (j :: r) = true
  | [], _, _ => rfl
  | k :: r, hw, h => by
    simp only [Keys.wf, Bool.and_eq_true, decide_eq_true_eq]
    exact ⟨h k (by simp), hw⟩

theorem Keys.mem_add {k e : Nat} : ∀ {r : List Nat}, e ∈ Keys.add r k ↔ e = k ∨ e ∈ r
  | [] => by simp [Keys.add]
  | j :: r => by
    unfold Keys.add
    split
    · simp
    · split
      · rename_i h; subst h; simp
      · rw [List.mem_cons, Keys.mem_add, List.mem_cons]; tauto

theorem Keys.wf_add (k : Nat) : ∀ {r : List Nat}, Keys.wf r = true → Keys.wf (Keys.add r k) = true
  | [], _ => rfl
  | j :: r, h => by
    unfold Keys.add
    split
    · rename_i hk
      refine Keys.wf_of h (fun e he => ?_)
      rcases List.mem_cons.1 he with rfl | he
      · exact hk
      · exact lt_trans hk (Keys.wf_mem h e he)
    · split
      · exact h
      · rename_i h1 h2
        refine Keys.wf_of (Keys.wf_add k (Keys.wf_tail h)) (fun e he => ?_)
        rcases Keys.mem_add.1 he with rfl | he
        · omega
        · exact Keys.wf_mem h e he

theorem Keys.wf_filter (p : Nat → Bool) : ∀ {r : List Nat}, Keys.wf r = true → Keys.wf (r.filter p) = true
  | [], _ => rfl
  | j :: r, h => by
    rw [List.filter_cons]
    split
    · exact Keys.wf_of (Keys.wf_filter p (Keys.wf_tail h)) (fun e he => Keys.wf_mem h e (List.mem_filter.1 he).1)
    · exact Keys.wf_filter p (Keys.wf_tail h)

theorem Keys.wf_del (k : Nat) {r : List Nat} (h : Keys.wf r = true) : Keys.wf (Keys.del r k) = true := Keys.wf_filter _ h

end Sys2Proof
end

