-- ==== Sys2Proof/Laws/Keeps.lean ====
section
/-!
SUPPORT. What every operation keeps: the queue, the order of free values, what has left the block, and the canonical forms. One lemma of the
form `Keeps s (f t)` from `Keeps s t` for each operation that answers a state; this file has the relation and the steps that such proofs take.
-/
namespace Sys2Proof.Machine

/-- From s to t: the bookkeeping is extended, and each canonical form is kept. -/
structure Keeps (s t : State) : Prop where
  pending : t.pending = s.pending
  freeIdx : s.freeIdx ≤ t.freeIdx
  out : s.out <+: t.out
  regs : Sparse.wf wordReset s.regs = true → Sparse.wf wordReset t.regs = true
  mem : Memory.wf s.mem = true → Memory.wf t.mem = true
  poison : Keys.wf s.poison = true → Keys.wf t.poison = true

theorem Keeps.refl (s : State) : Keeps s s := ⟨rfl, le_refl _, List.prefix_refl _, id, id, id⟩

theorem Keeps.trans {s t u : State} (h : Keeps s t) (k : Keeps t u) : Keeps s u :=
  ⟨k.pending.trans h.pending, le_trans h.freeIdx k.freeIdx, h.out.trans k.out, k.regs ∘ h.regs, k.mem ∘ h.mem, k.poison ∘ h.poison⟩

theorem Keeps.inv {s t : State} (h : Keeps s t) (i : s.Inv) : t.Inv := ⟨h.regs i.regs, h.mem i.mem, h.poison i.poison⟩

theorem Keeps.extends {s t : State} (h : Keeps s t) : State.Extends s t := ⟨h.pending, h.freeIdx, h.out⟩

/-- What becomes of the six fields that Keeps is about. -/
structure KeepsParts (s : State) (pending : List Instr) (freeIdx : Nat) (out : List Out) (regs : Sparse Word) (mem : Sparse Byte)
    (poison : List Nat) : Prop where
  pending : pending = s.pending
  freeIdx : s.freeIdx ≤ freeIdx
  out : s.out <+: out
  regs : Sparse.wf wordReset s.regs = true → Sparse.wf wordReset regs = true
  mem : Memory.wf s.mem = true → Memory.wf mem = true
  poison : Keys.wf s.poison = true → Keys.wf poison = true

theorem keeps_mk {s : State} {pending : List Instr} {regs : Sparse Word} {counts : Sparse Nat} {snaps : Sparse Nat} {mem : Sparse Byte} {poison : List Nat} {resv : List Resv} {hurt : HurtRec} {cache : CacheRec} {tbl : Sparse TblRec} {memWait : List (Nat × MemReq)} {tierOut : List (Nat × MemReq)} {scoreboard : Sparse Nat} {parts : Sparse PartRec} {pge : Sparse PgePart} {units : Sparse UnitRec} {talon : TalonRec} {sec : Sparse SecPart} {secMod : SecMod} {pwr : PwrRec} {txn : Option TxnRec} {net : NetRec} {coll : List CollRec} {grps : Sparse GrpRec} {txnNextId : Nat} {modWait : List EvtRec} {modSeq : Nat} {modLost : Nat} {modUnsig : Nat} {coal : List CoalWin} {held : List (List Out)} {trngBad : Bool} {memWin : Nat} {memHeld : Bool} {merge : Option HostRun} {recovering : Bool} {pred : List PredRec} {sys : SysRec} {mgt : MgtRec} {spdm : SpdmRec} {freeIdx : Nat} {resp : List Nat} {out : List Out} : Keeps s (State.mk pending regs counts snaps mem poison resv hurt cache tbl memWait tierOut scoreboard parts pge units talon sec secMod pwr txn net coll grps txnNextId modWait modSeq modLost modUnsig coal held trngBad memWin memHeld merge recovering pred sys mgt spdm freeIdx resp out) ↔ KeepsParts s pending freeIdx out regs mem poison :=
  ⟨fun h => ⟨h.1, h.2, h.3, h.4, h.5, h.6⟩, fun h => ⟨h.1, h.2, h.3, h.4, h.5, h.6⟩⟩

theorem KeepsParts.of {s t : State} (h : Keeps s t) : KeepsParts s t.pending t.freeIdx t.out t.regs t.mem t.poison :=
  ⟨h.1, h.2, h.3, h.4, h.5, h.6⟩

theorem KeepsParts.free {s t : State} (n : Nat) (h : Keeps s t) : KeepsParts s t.pending (t.freeIdx + n) t.out t.regs t.mem t.poison :=
  ⟨h.1, le_trans h.2 (Nat.le_add_right _ _), h.3, h.4, h.5, h.6⟩

theorem KeepsParts.cut {s t : State} (f : Nat × Byte → Bool) (g : Nat → Bool) (h : Keeps s t) :
    KeepsParts s t.pending t.freeIdx t.out t.regs (t.mem.filter f) (t.poison.filter g) :=
  ⟨h.1, h.2, h.3, h.4, fun k => Sparse.wf_filter _ _ (h.5 k), fun k => Keys.wf_filter _ (h.6 k)⟩

theorem KeepsParts.cutMem {s t : State} (f : Nat × Byte → Bool) (h : Keeps s t) :
    KeepsParts s t.pending t.freeIdx t.out t.regs (t.mem.filter f) t.poison :=
  ⟨h.1, h.2, h.3, h.4, fun k => Sparse.wf_filter _ _ (h.5 k), h.6⟩

theorem KeepsParts.cutPoison {s t : State} (g : Nat → Bool) (h : Keeps s t) :
    KeepsParts s t.pending t.freeIdx t.out t.regs t.mem (t.poison.filter g) :=
  ⟨h.1, h.2, h.3, h.4, h.5, fun k => Keys.wf_filter _ (h.6 k)⟩

theorem KeepsParts.cutAll {s t : State} (e : Nat × Word → Bool) (f : Nat × Byte → Bool) (g : Nat → Bool) (h : Keeps s t) :
    KeepsParts s t.pending t.freeIdx t.out (t.regs.filter e) (t.mem.filter f) (t.poison.filter g) :=
  ⟨h.1, h.2, h.3, fun k => Sparse.wf_filter _ _ (h.4 k), fun k => Sparse.wf_filter _ _ (h.5 k), fun k => Keys.wf_filter _ (h.6 k)⟩

theorem KeepsParts.said {s t : State} (o : List Out) (h : Keeps s t) : KeepsParts s t.pending t.freeIdx (t.out ++ o) t.regs t.mem t.poison :=
  ⟨h.1, h.2, h.3.trans (List.prefix_append _ _), h.4, h.5, h.6⟩

/-- An outcome that is a next state keeps all. -/
def KeepsO (s : State) (o : Host.Outcome State Fault Refusal) : Prop := ∀ t, o = .next t → Keeps s t

theorem KeepsO.next {s t : State} (h : Keeps s t) : KeepsO s (.next t) := fun _ e => by cases e; exact h

theorem atUnit_keeps {s0 s t : State} (b : Blk) (u : UnitId) (hs : Keeps s0 s) (h : Keeps s0 t) : KeepsO s0 (atUnit b u s t) := by
  unfold atUnit
  split
  · exact KeepsO.next h
  · exact KeepsO.next hs

/-! ## Folds -/

theorem foldl_keeps {α : Type} {s : State} {f : State → α → State} (hf : ∀ t a, Keeps s t → Keeps s (f t a)) :
    ∀ (l : List α) {t : State}, Keeps s t → Keeps s (l.foldl f t)
  | [], _, h => h
  | a :: l, _, h => foldl_keeps hf l (hf _ a h)

theorem foldl_fst_keeps {α β : Type} {s : State} {f : State × β → α → State × β} (hf : ∀ p a, Keeps s p.1 → Keeps s (f p a).1) :
    ∀ (l : List α) {p : State × β}, Keeps s p.1 → Keeps s (l.foldl f p).1
  | [], _, h => h
  | a :: l, _, h => foldl_fst_keeps hf l (hf _ a h)

theorem foldl_snd_keeps {α β : Type} {s : State} {f : β × State → α → β × State} (hf : ∀ p a, Keeps s p.2 → Keeps s (f p a).2) :
    ∀ (l : List α) {p : β × State}, Keeps s p.2 → Keeps s (l.foldl f p).2
  | [], _, h => h
  | a :: l, _, h => foldl_snd_keeps hf l (hf _ a h)

end Sys2Proof.Machine
end

