-- ==== Sys2Proof/Laws/KeepsA.lean ====
section
/-!
SUPPORT. What the operations of Ops, Operands, Flags keep.
-/
set_option linter.unusedTactic false
set_option linter.unreachableTactic false
set_option linter.unusedVariables false

namespace Sys2Proof.Machine

theorem State.setWord_keeps {s0 : State} (s : State) (addr : Nat) (w : Word) (h : Keeps s0 s) : Keeps s0 (s.setWord addr w) :=
  ⟨h.1, h.2, h.3, fun k => Sparse.wf_set _ _ _ (h.4 k), h.5, h.6⟩

theorem State.setWords_keeps {s0 : State} : ∀ (n : Nat) (s : State) (addr v : Nat), Keeps s0 s → Keeps s0 (s.setWords addr n v)
  | 0, _, _, _, h => h
  | n + 1, _, addr, v, h => State.setWords_keeps n _ (addr + 4) (v / 2 ^ 32) (State.setWord_keeps _ _ _ h)

theorem State.setAt_keeps {z0 : State} (s : State) (base : Nat) (f : Field) (v : Nat) (hz : Keeps z0 s) :
    Keeps z0 (State.setAt s base f v) := by
  unfold State.setAt
  try dsimp only
  repeat' (first
    | with_reducible assumption
    | with_reducible apply State.setWords_keeps
    | split
    | intro)

theorem State.put_keeps {z0 : State} (s : State) (u : UnitId) (f : Field) (v : Nat) (hz : Keeps z0 s) :
    Keeps z0 (State.put s u f v) := by
  unfold State.put
  try dsimp only
  repeat' (first
    | with_reducible assumption
    | with_reducible apply State.setAt_keeps
    | split
    | intro)

theorem State.setWin_keeps {z0 : State} (s : State) (p : Nat) (f : Field) (v : Nat) (hz : Keeps z0 s) :
    Keeps z0 (State.setWin s p f v) := by
  unfold State.setWin
  try dsimp only
  repeat' (first
    | with_reducible assumption
    | with_reducible apply State.setAt_keeps
    | split
    | intro)

theorem State.fresh_keeps {s0 : State} (s : State) (h : Keeps s0 s) : Keeps s0 s.fresh.2 :=
  keeps_mk.2 (KeepsParts.free 1 h)

theorem State.freshBytes_keeps {s0 : State} (s : State) (n : Nat) (h : Keeps s0 s) : Keeps s0 (s.freshBytes n).2 :=
  keeps_mk.2 (KeepsParts.free n h)

theorem State.emit_keeps {s0 : State} (s : State) (o : Out) (h : Keeps s0 s) : Keeps s0 (s.emit o) :=
  ⟨h.1, h.2, h.3.trans (List.prefix_append _ _), h.4, h.5, h.6⟩

theorem State.respond_keeps {z0 : State} (s : State) (r : List Nat) (hz : Keeps z0 s) :
    Keeps z0 (State.respond s r) := by
  unfold State.respond
  try dsimp only
  repeat' (first
    | with_reducible assumption
    | (simp only [keeps_mk]; first | with_reducible apply KeepsParts.of | with_reducible apply KeepsParts.free | with_reducible apply KeepsParts.cut | with_reducible apply KeepsParts.cutMem | with_reducible apply KeepsParts.cutPoison | with_reducible apply KeepsParts.cutAll | with_reducible apply KeepsParts.said)
    | split
    | intro)

theorem State.setPart_keeps {z0 : State} (s : State) (p : Nat) (f : PartRec → PartRec) (hz : Keeps z0 s) :
    Keeps z0 (State.setPart s p f) := by
  unfold State.setPart
  try dsimp only
  repeat' (first
    | with_reducible assumption
    | (simp only [keeps_mk]; first | with_reducible apply KeepsParts.of | with_reducible apply KeepsParts.free | with_reducible apply KeepsParts.cut | with_reducible apply KeepsParts.cutMem | with_reducible apply KeepsParts.cutPoison | with_reducible apply KeepsParts.cutAll | with_reducible apply KeepsParts.said)
    | split
    | intro)

theorem State.setPge_keeps {z0 : State} (s : State) (p : Nat) (f : PgePart → PgePart) (hz : Keeps z0 s) :
    Keeps z0 (State.setPge s p f) := by
  unfold State.setPge
  try dsimp only
  repeat' (first
    | with_reducible assumption
    | (simp only [keeps_mk]; first | with_reducible apply KeepsParts.of | with_reducible apply KeepsParts.free | with_reducible apply KeepsParts.cut | with_reducible apply KeepsParts.cutMem | with_reducible apply KeepsParts.cutPoison | with_reducible apply KeepsParts.cutAll | with_reducible apply KeepsParts.said)
    | split
    | intro)

theorem State.setUnit_keeps {z0 : State} (s : State) (u : UnitId) (f : UnitRec → UnitRec) (hz : Keeps z0 s) :
    Keeps z0 (State.setUnit s u f) := by
  unfold State.setUnit
  try dsimp only
  repeat' (first
    | with_reducible assumption
    | (simp only [keeps_mk]; first | with_reducible apply KeepsParts.of | with_reducible apply KeepsParts.free | with_reducible apply KeepsParts.cut | with_reducible apply KeepsParts.cutMem | with_reducible apply KeepsParts.cutPoison | with_reducible apply KeepsParts.cutAll | with_reducible apply KeepsParts.said)
    | split
    | intro)

theorem State.rouse_keeps {z0 : State} (s : State) (hz : Keeps z0 s) :
    Keeps z0 (State.rouse s) := by
  unfold State.rouse
  try dsimp only
  repeat' (first
    | with_reducible assumption
    | (simp only [keeps_mk]; first | with_reducible apply KeepsParts.of | with_reducible apply KeepsParts.free | with_reducible apply KeepsParts.cut | with_reducible apply KeepsParts.cutMem | with_reducible apply KeepsParts.cutPoison | with_reducible apply KeepsParts.cutAll | with_reducible apply KeepsParts.said)
    | split
    | intro)

theorem State.store_keeps {s0 : State} (s : State) (a : Nat) (d : List Byte) (h : Keeps s0 s) : Keeps s0 (s.store a d) :=
  ⟨h.1, h.2, h.3, h.4, fun k => Sparse.wf_setRun _ _ _ (h.5 k), h.6⟩

theorem State.storeLe_keeps {z0 : State} (s : State) (a n v : Nat) (hz : Keeps z0 s) :
    Keeps z0 (State.storeLe s a n v) := by
  unfold State.storeLe
  try dsimp only
  repeat' (first
    | with_reducible assumption
    | with_reducible apply State.store_keeps
    | split
    | intro)

theorem State.poisonLine_keeps {s0 : State} (s : State) (line : Nat) (h : Keeps s0 s) : Keeps s0 (s.poisonLine line) :=
  ⟨h.1, h.2, h.3, h.4, h.5, fun k => Keys.wf_add _ (h.6 k)⟩

theorem Keeps.del {s t : State} (h : Keeps s t) (line : Nat) : Keeps s { t with poison := Keys.del t.poison line } :=
  ⟨h.1, h.2, h.3, h.4, h.5, fun k => Keys.wf_del _ (h.6 k)⟩

theorem State.cleanLine_keeps {s0 : State} (s : State) (line : Nat) (h : Keeps s0 s) : Keeps s0 (s.cleanLine line) := by
  have h1 := Keeps.del h line
  unfold State.cleanLine
  dsimp only
  split
  · exact h1
  · split
    · exact h1
    · exact keeps_mk.2 (KeepsParts.of h1)

theorem State.poisonRun_keeps {z0 : State} (s : State) (a n : Nat) (hz : Keeps z0 s) :
    Keeps z0 (State.poisonRun s a n) := by
  unfold State.poisonRun
  try dsimp only
  repeat' (first
    | with_reducible assumption
    | with_reducible apply State.poisonLine_keeps
    | with_reducible apply foldl_keeps
    | with_reducible apply foldl_fst_keeps
    | with_reducible apply foldl_snd_keeps
    | split
    | intro)

theorem State.cleanRun_keeps {s0 : State} (s : State) (a n : Nat) (h : Keeps s0 s) : Keeps s0 (s.cleanRun a n) := by
  unfold State.cleanRun
  split
  · exact keeps_mk.2 (KeepsParts.cutPoison _ h)
  · exact foldl_keeps (fun _ _ k => State.cleanLine_keeps _ _ k) _ h

theorem State.write_keeps {s0 : State} (s : State) (a : Nat) (d : List Byte) (pois : Bool) (h : Keeps s0 s) : Keeps s0 (s.write a d pois) := by
  unfold State.write
  refine foldl_keeps (fun t l k => ?_) _ (State.store_keeps _ _ _ h)
  split
  · exact State.poisonLine_keeps _ _ k
  · split
    · exact State.cleanLine_keeps _ _ k
    · exact k

theorem State.zeroRun_keeps {s0 : State} (s : State) (a n : Nat) (h : Keeps s0 s) : Keeps s0 (s.zeroRun a n) :=
  keeps_mk.2 (KeepsParts.cutMem _ (State.cleanRun_keeps s a n h))

theorem State.poisonOuts_keeps {z0 : State} (s : State) (p : Nat) (outs : List (Nat × Nat)) (hz : Keeps z0 s) :
    Keeps z0 (State.poisonOuts s p outs) := by
  unfold State.poisonOuts
  try dsimp only
  repeat' (first
    | with_reducible assumption
    | with_reducible apply State.poisonLine_keeps
    | with_reducible apply foldl_keeps
    | with_reducible apply foldl_fst_keeps
    | with_reducible apply foldl_snd_keeps
    | split
    | intro)

theorem State.runLane_keeps {z0 : State} (s : State) (u : UnitId) (k : Lane → State → Nat × State) (hz : Keeps z0 s) (hk : ∀ l t, Keeps z0 t → Keeps z0 (k l t).2) :
    Keeps z0 (State.runLane s u k) := by
  unfold State.runLane
  try dsimp only
  repeat' (first
    | with_reducible assumption
    | with_reducible apply hk
    | with_reducible apply State.setUnit_keeps
    | (simp only [keeps_mk]; first | with_reducible apply KeepsParts.of | with_reducible apply KeepsParts.free | with_reducible apply KeepsParts.cut | with_reducible apply KeepsParts.cutMem | with_reducible apply KeepsParts.cutPoison | with_reducible apply KeepsParts.cutAll | with_reducible apply KeepsParts.said)
    | split
    | intro)

theorem State.sendVector_keeps {z0 : State} (s : State) (vf : Option Nat) (v : Nat) (hz : Keeps z0 s) :
    Keeps z0 (State.sendVector s vf v) := by
  unfold State.sendVector
  try dsimp only
  repeat' (first
    | with_reducible assumption
    | with_reducible apply State.setWord_keeps
    | with_reducible apply State.emit_keeps
    | (simp only [keeps_mk]; first | with_reducible apply KeepsParts.of | with_reducible apply KeepsParts.free | with_reducible apply KeepsParts.cut | with_reducible apply KeepsParts.cutMem | with_reducible apply KeepsParts.cutPoison | with_reducible apply KeepsParts.cutAll | with_reducible apply KeepsParts.said)
    | split
    | intro)

theorem State.msix_keeps {z0 : State} (s : State) (vf : Option Nat) (v : Nat) (hz : Keeps z0 s) :
    Keeps z0 (State.msix s vf v) := by
  unfold State.msix
  try dsimp only
  repeat' (first
    | with_reducible assumption
    | with_reducible apply State.put_keeps
    | with_reducible apply State.sendVector_keeps
    | split
    | intro)

theorem State.pageInterrupt_keeps {z0 : State} (s : State) (u : UnitId) (hz : Keeps z0 s) :
    Keeps z0 (State.pageInterrupt s u) := by
  unfold State.pageInterrupt
  try dsimp only
  repeat' (first
    | with_reducible assumption
    | with_reducible apply State.msix_keeps
    | (simp only [keeps_mk]; first | with_reducible apply KeepsParts.of | with_reducible apply KeepsParts.free | with_reducible apply KeepsParts.cut | with_reducible apply KeepsParts.cutMem | with_reducible apply KeepsParts.cutPoison | with_reducible apply KeepsParts.cutAll | with_reducible apply KeepsParts.said)
    | split
    | intro)

theorem State.ringVector_keeps {z0 : State} (s : State) (p which : Nat) (hz : Keeps z0 s) :
    Keeps z0 (State.ringVector s p which) := by
  unfold State.ringVector
  try dsimp only
  repeat' (first
    | with_reducible assumption
    | with_reducible apply State.msix_keeps
    | split
    | intro)

theorem State.irq_keeps {z0 : State} (s : State) (u : UnitId) (mask : Nat) (hz : Keeps z0 s) :
    Keeps z0 (State.irq s u mask) := by
  unfold State.irq
  try dsimp only
  repeat' (first
    | with_reducible assumption
    | with_reducible apply State.put_keeps
    | with_reducible apply State.pageInterrupt_keeps
    | split
    | intro)

theorem State.count_keeps {z0 : State} (s : State) (u : UnitId) (k n : Nat) (hz : Keeps z0 s) :
    Keeps z0 (State.count s u k n) := by
  unfold State.count
  try dsimp only
  repeat' (first
    | with_reducible assumption
    | with_reducible apply State.irq_keeps
    | (simp only [keeps_mk]; first | with_reducible apply KeepsParts.of | with_reducible apply KeepsParts.free | with_reducible apply KeepsParts.cut | with_reducible apply KeepsParts.cutMem | with_reducible apply KeepsParts.cutPoison | with_reducible apply KeepsParts.cutAll | with_reducible apply KeepsParts.said)
    | split
    | intro)

theorem State.sawPoison_keeps {z0 : State} (s : State) (u : UnitId) (st : Nat) (outs : List (Nat × Nat)) (hz : Keeps z0 s) :
    Keeps z0 (State.sawPoison s u st outs) := by
  unfold State.sawPoison
  try dsimp only
  repeat' (first
    | with_reducible assumption
    | with_reducible apply State.irq_keeps
    | split
    | intro)

theorem State.setState_keeps {z0 : State} (s : State) (u : UnitId) (st : Nat) (hz : Keeps z0 s) :
    Keeps z0 (State.setState s u st) := by
  unfold State.setState
  try dsimp only
  repeat' (first
    | with_reducible assumption
    | with_reducible apply State.put_keeps
    | with_reducible apply State.irq_keeps
    | split
    | intro)

theorem State.quiesce_keeps {z0 : State} (s : State) (u : UnitId) (hz : Keeps z0 s) :
    Keeps z0 (State.quiesce s u) := by
  unfold State.quiesce
  try dsimp only
  repeat' (first
    | with_reducible assumption
    | with_reducible apply State.put_keeps
    | with_reducible apply State.setState_keeps
    | split
    | intro)

theorem State.shadow_keeps {z0 : State} (s : State) (p : Nat) (hz : Keeps z0 s) :
    Keeps z0 (State.shadow s p) := by
  unfold State.shadow
  try dsimp only
  repeat' (first
    | with_reducible assumption
    | with_reducible apply State.emit_keeps
    | split
    | intro)

theorem State.drainEvents_keeps {z0 : State} : ∀ (x0 : List EvtRec) (s : State) (p : Nat) , Keeps z0 s → Keeps z0 (State.drainEvents s p x0) := by
  intro x0
  induction x0 with
  | nil =>
    intro s p hz
    have ih := hz
    unfold State.drainEvents
    try dsimp only
    repeat' (first
      | with_reducible assumption
      | with_reducible apply ih
      | with_reducible apply State.setWin_keeps
      | with_reducible apply State.emit_keeps
      | with_reducible apply State.setPart_keeps
      | with_reducible apply State.ringVector_keeps
      | with_reducible apply State.count_keeps
      | with_reducible apply State.shadow_keeps
      | (simp only [keeps_mk]; first | with_reducible apply KeepsParts.of | with_reducible apply KeepsParts.free | with_reducible apply KeepsParts.cut | with_reducible apply KeepsParts.cutMem | with_reducible apply KeepsParts.cutPoison | with_reducible apply KeepsParts.cutAll | with_reducible apply KeepsParts.said)
      | split
      | intro)
  | cons e r ih =>
    intro s p hz
    unfold State.drainEvents
    try dsimp only
    repeat' (first
      | with_reducible assumption
      | with_reducible apply ih
      | with_reducible apply State.setWin_keeps
      | with_reducible apply State.emit_keeps
      | with_reducible apply State.setPart_keeps
      | with_reducible apply State.ringVector_keeps
      | with_reducible apply State.count_keeps
      | with_reducible apply State.shadow_keeps
      | (simp only [keeps_mk]; first | with_reducible apply KeepsParts.of | with_reducible apply KeepsParts.free | with_reducible apply KeepsParts.cut | with_reducible apply KeepsParts.cutMem | with_reducible apply KeepsParts.cutPoison | with_reducible apply KeepsParts.cutAll | with_reducible apply KeepsParts.said)
      | split
      | intro)

theorem State.drainTokens_keeps {z0 : State} : ∀ (x0 : List TokRec) (s : State) (p : Nat) , Keeps z0 s → Keeps z0 (State.drainTokens s p x0) := by
  intro x0
  induction x0 with
  | nil =>
    intro s p hz
    have ih := hz
    unfold State.drainTokens
    try dsimp only
    repeat' (first
      | with_reducible assumption
      | with_reducible apply ih
      | with_reducible apply State.setWin_keeps
      | with_reducible apply State.emit_keeps
      | with_reducible apply State.setPart_keeps
      | with_reducible apply State.ringVector_keeps
      | with_reducible apply State.count_keeps
      | with_reducible apply State.shadow_keeps
      | (simp only [keeps_mk]; first | with_reducible apply KeepsParts.of | with_reducible apply KeepsParts.free | with_reducible apply KeepsParts.cut | with_reducible apply KeepsParts.cutMem | with_reducible apply KeepsParts.cutPoison | with_reducible apply KeepsParts.cutAll | with_reducible apply KeepsParts.said)
      | split
      | intro)
  | cons e r ih =>
    intro s p hz
    unfold State.drainTokens
    try dsimp only
    repeat' (first
      | with_reducible assumption
      | with_reducible apply ih
      | with_reducible apply State.setWin_keeps
      | with_reducible apply State.emit_keeps
      | with_reducible apply State.setPart_keeps
      | with_reducible apply State.ringVector_keeps
      | with_reducible apply State.count_keeps
      | with_reducible apply State.shadow_keeps
      | (simp only [keeps_mk]; first | with_reducible apply KeepsParts.of | with_reducible apply KeepsParts.free | with_reducible apply KeepsParts.cut | with_reducible apply KeepsParts.cutMem | with_reducible apply KeepsParts.cutPoison | with_reducible apply KeepsParts.cutAll | with_reducible apply KeepsParts.said)
      | split
      | intro)

theorem State.drainModule_keeps {z0 : State} : ∀ (x0 : List EvtRec) (s : State) , Keeps z0 s → Keeps z0 (State.drainModule s x0) := by
  intro x0
  induction x0 with
  | nil =>
    intro s hz
    have ih := hz
    unfold State.drainModule
    try dsimp only
    repeat' (first
      | with_reducible assumption
      | with_reducible apply ih
      | with_reducible apply State.put_keeps
      | with_reducible apply State.emit_keeps
      | with_reducible apply State.msix_keeps
      | with_reducible apply State.count_keeps
      | (simp only [keeps_mk]; first | with_reducible apply KeepsParts.of | with_reducible apply KeepsParts.free | with_reducible apply KeepsParts.cut | with_reducible apply KeepsParts.cutMem | with_reducible apply KeepsParts.cutPoison | with_reducible apply KeepsParts.cutAll | with_reducible apply KeepsParts.said)
      | split
      | intro)
  | cons e r ih =>
    intro s hz
    unfold State.drainModule
    try dsimp only
    repeat' (first
      | with_reducible assumption
      | with_reducible apply ih
      | with_reducible apply State.put_keeps
      | with_reducible apply State.emit_keeps
      | with_reducible apply State.msix_keeps
      | with_reducible apply State.count_keeps
      | (simp only [keeps_mk]; first | with_reducible apply KeepsParts.of | with_reducible apply KeepsParts.free | with_reducible apply KeepsParts.cut | with_reducible apply KeepsParts.cutMem | with_reducible apply KeepsParts.cutPoison | with_reducible apply KeepsParts.cutAll | with_reducible apply KeepsParts.said)
      | split
      | intro)

theorem State.platformEvent_keeps {z0 : State} (s : State) (e : EvtRec) (hz : Keeps z0 s) :
    Keeps z0 (State.platformEvent s e) := by
  unfold State.platformEvent
  try dsimp only
  repeat' (first
    | with_reducible assumption
    | with_reducible apply State.emit_keeps
    | with_reducible apply State.count_keeps
    | (simp only [keeps_mk]; first | with_reducible apply KeepsParts.of | with_reducible apply KeepsParts.free | with_reducible apply KeepsParts.cut | with_reducible apply KeepsParts.cutMem | with_reducible apply KeepsParts.cutPoison | with_reducible apply KeepsParts.cutAll | with_reducible apply KeepsParts.said)
    | split
    | intro)

theorem State.flushModule_keeps {z0 : State} (s : State) (hz : Keeps z0 s) :
    Keeps z0 (State.flushModule s) := by
  unfold State.flushModule
  try dsimp only
  repeat' (first
    | with_reducible assumption
    | with_reducible apply State.drainModule_keeps
    | with_reducible apply State.platformEvent_keeps
    | (simp only [keeps_mk]; first | with_reducible apply KeepsParts.of | with_reducible apply KeepsParts.free | with_reducible apply KeepsParts.cut | with_reducible apply KeepsParts.cutMem | with_reducible apply KeepsParts.cutPoison | with_reducible apply KeepsParts.cutAll | with_reducible apply KeepsParts.said)
    | split
    | intro)

theorem State.partEvent_keeps {z0 : State} (s : State) (p code v0 v1 : Nat) (hz : Keeps z0 s) :
    Keeps z0 (State.partEvent s p code v0 v1) := by
  unfold State.partEvent
  try dsimp only
  repeat' (first
    | with_reducible assumption
    | with_reducible apply State.setPart_keeps
    | with_reducible apply State.drainEvents_keeps
    | (simp only [keeps_mk]; first | with_reducible apply KeepsParts.of | with_reducible apply KeepsParts.free | with_reducible apply KeepsParts.cut | with_reducible apply KeepsParts.cutMem | with_reducible apply KeepsParts.cutPoison | with_reducible apply KeepsParts.cutAll | with_reducible apply KeepsParts.said)
    | split
    | intro)

theorem State.modEvent_keeps {z0 : State} (s : State) (code v0 v1 : Nat) (hz : Keeps z0 s) :
    Keeps z0 (State.modEvent s code v0 v1) := by
  unfold State.modEvent
  try dsimp only
  repeat' (first
    | with_reducible assumption
    | with_reducible apply State.irq_keeps
    | with_reducible apply State.count_keeps
    | with_reducible apply State.drainModule_keeps
    | with_reducible apply State.platformEvent_keeps
    | with_reducible apply State.flushModule_keeps
    | (simp only [keeps_mk]; first | with_reducible apply KeepsParts.of | with_reducible apply KeepsParts.free | with_reducible apply KeepsParts.cut | with_reducible apply KeepsParts.cutMem | with_reducible apply KeepsParts.cutPoison | with_reducible apply KeepsParts.cutAll | with_reducible apply KeepsParts.said)
    | split
    | intro)

theorem State.errLog_keeps {z0 : State} (s : State) (u : UnitId) (seq code : Nat) (hz : Keeps z0 s) :
    Keeps z0 (State.errLog s u seq code) := by
  unfold State.errLog
  try dsimp only
  repeat' (first
    | with_reducible assumption
    | with_reducible apply State.put_keeps
    | with_reducible apply State.irq_keeps
    | split
    | intro)

theorem State.eventM_keeps {z0 : State} (s : State) (u : Option UnitId) (code v0 v1 : Nat) (hz : Keeps z0 s) :
    Keeps z0 (State.eventM s u code v0 v1) := by
  unfold State.eventM
  try dsimp only
  repeat' (first
    | with_reducible assumption
    | with_reducible apply State.flushModule_keeps
    | with_reducible apply State.modEvent_keeps
    | with_reducible apply State.errLog_keeps
    | (simp only [keeps_mk]; first | with_reducible apply KeepsParts.of | with_reducible apply KeepsParts.free | with_reducible apply KeepsParts.cut | with_reducible apply KeepsParts.cutMem | with_reducible apply KeepsParts.cutPoison | with_reducible apply KeepsParts.cutAll | with_reducible apply KeepsParts.said)
    | split
    | intro)

theorem State.eventP_keeps {z0 : State} (s : State) (p : Nat) (u : Option UnitId) (code v0 v1 : Nat) (hz : Keeps z0 s) :
    Keeps z0 (State.eventP s p u code v0 v1) := by
  unfold State.eventP
  try dsimp only
  repeat' (first
    | with_reducible assumption
    | with_reducible apply State.partEvent_keeps
    | with_reducible apply State.errLog_keeps
    | (simp only [keeps_mk]; first | with_reducible apply KeepsParts.of | with_reducible apply KeepsParts.free | with_reducible apply KeepsParts.cut | with_reducible apply KeepsParts.cutMem | with_reducible apply KeepsParts.cutPoison | with_reducible apply KeepsParts.cutAll | with_reducible apply KeepsParts.said)
    | split
    | intro)

theorem State.eventPM_keeps {z0 : State} (s : State) (ps : List Nat) (u : Option UnitId) (code v0 v1 : Nat) (hz : Keeps z0 s) :
    Keeps z0 (State.eventPM s ps u code v0 v1) := by
  unfold State.eventPM
  try dsimp only
  repeat' (first
    | with_reducible assumption
    | with_reducible apply State.partEvent_keeps
    | with_reducible apply State.eventM_keeps
    | with_reducible apply foldl_keeps
    | with_reducible apply foldl_fst_keeps
    | with_reducible apply foldl_snd_keeps
    | split
    | intro)

theorem State.unitEvent_keeps {z0 : State} (s : State) (u : UnitId) (code reason detail : Nat) (hz : Keeps z0 s) :
    Keeps z0 (State.unitEvent s u code reason detail) := by
  unfold State.unitEvent
  try dsimp only
  repeat' (first
    | with_reducible assumption
    | with_reducible apply State.eventPM_keeps
    | split
    | intro)

theorem State.memEvent_keeps {z0 : State} (s : State) (u : UnitId) (code dga cause : Nat) (pm : Bool) (hz : Keeps z0 s) :
    Keeps z0 (State.memEvent s u code dga cause pm) := by
  unfold State.memEvent
  try dsimp only
  repeat' (first
    | with_reducible assumption
    | with_reducible apply State.count_keeps
    | with_reducible apply State.eventPM_keeps
    | (simp only [keeps_mk]; first | with_reducible apply KeepsParts.of | with_reducible apply KeepsParts.free | with_reducible apply KeepsParts.cut | with_reducible apply KeepsParts.cutMem | with_reducible apply KeepsParts.cutPoison | with_reducible apply KeepsParts.cutAll | with_reducible apply KeepsParts.said)
    | split
    | intro)

theorem State.closeWindows_keeps {z0 : State} : ∀ (x0 : List CoalWin) (s : State) , Keeps z0 s → Keeps z0 (State.closeWindows s x0) := by
  intro x0
  induction x0 with
  | nil =>
    intro s hz
    have ih := hz
    unfold State.closeWindows
    try dsimp only
    repeat' (first
      | with_reducible assumption
      | with_reducible apply ih
      | with_reducible apply State.count_keeps
      | with_reducible apply State.eventM_keeps
      | with_reducible apply State.eventPM_keeps
      | (simp only [keeps_mk]; first | with_reducible apply KeepsParts.of | with_reducible apply KeepsParts.free | with_reducible apply KeepsParts.cut | with_reducible apply KeepsParts.cutMem | with_reducible apply KeepsParts.cutPoison | with_reducible apply KeepsParts.cutAll | with_reducible apply KeepsParts.said)
      | split
      | intro)
  | cons e r ih =>
    intro s hz
    unfold State.closeWindows
    try dsimp only
    repeat' (first
      | with_reducible assumption
      | with_reducible apply ih
      | with_reducible apply State.count_keeps
      | with_reducible apply State.eventM_keeps
      | with_reducible apply State.eventPM_keeps
      | (simp only [keeps_mk]; first | with_reducible apply KeepsParts.of | with_reducible apply KeepsParts.free | with_reducible apply KeepsParts.cut | with_reducible apply KeepsParts.cutMem | with_reducible apply KeepsParts.cutPoison | with_reducible apply KeepsParts.cutAll | with_reducible apply KeepsParts.said)
      | split
      | intro)

theorem State.setTime_keeps {z0 : State} (s : State) (t : Nat) (hz : Keeps z0 s) :
    Keeps z0 (State.setTime s t) := by
  unfold State.setTime
  try dsimp only
  repeat' (first
    | with_reducible assumption
    | with_reducible apply State.put_keeps
    | with_reducible apply State.closeWindows_keeps
    | (simp only [keeps_mk]; first | with_reducible apply KeepsParts.of | with_reducible apply KeepsParts.free | with_reducible apply KeepsParts.cut | with_reducible apply KeepsParts.cutMem | with_reducible apply KeepsParts.cutPoison | with_reducible apply KeepsParts.cutAll | with_reducible apply KeepsParts.said)
    | split
    | intro)

theorem State.accessEvent_keeps {z0 : State} (s : State) (off size : Nat) (hz : Keeps z0 s) :
    Keeps z0 (State.accessEvent s off size) := by
  unfold State.accessEvent
  try dsimp only
  repeat' (first
    | with_reducible assumption
    | with_reducible apply State.eventM_keeps
    | split
    | intro)

theorem State.setSec_keeps {z0 : State} (s : State) (p : Nat) (f : SecPart → SecPart) (hz : Keeps z0 s) :
    Keeps z0 (State.setSec s p f) := by
  unfold State.setSec
  try dsimp only
  repeat' (first
    | with_reducible assumption
    | (simp only [keeps_mk]; first | with_reducible apply KeepsParts.of | with_reducible apply KeepsParts.free | with_reducible apply KeepsParts.cut | with_reducible apply KeepsParts.cutMem | with_reducible apply KeepsParts.cutPoison | with_reducible apply KeepsParts.cutAll | with_reducible apply KeepsParts.said)
    | split
    | intro)

theorem State.sealRefused_keeps {z0 : State} (s : State) (line : Nat) (hz : Keeps z0 s) :
    Keeps z0 (State.sealRefused s line) := by
  unfold State.sealRefused
  try dsimp only
  repeat' (first
    | with_reducible assumption
    | with_reducible apply State.irq_keeps
    | with_reducible apply State.count_keeps
    | with_reducible apply State.eventM_keeps
    | split
    | intro)

theorem State.breakReservations_keeps {z0 : State} (s : State) (a n : Nat) (hz : Keeps z0 s) :
    Keeps z0 (State.breakReservations s a n) := by
  unfold State.breakReservations
  try dsimp only
  repeat' (first
    | with_reducible assumption
    | (simp only [keeps_mk]; first | with_reducible apply KeepsParts.of | with_reducible apply KeepsParts.free | with_reducible apply KeepsParts.cut | with_reducible apply KeepsParts.cutMem | with_reducible apply KeepsParts.cutPoison | with_reducible apply KeepsParts.cutAll | with_reducible apply KeepsParts.said)
    | split
    | intro)

theorem State.metaLookup_keeps {z0 : State} (s : State) (u : UnitId) (m : Nat) (hz : Keeps z0 s) :
    Keeps z0 (State.metaLookup s u m) := by
  unfold State.metaLookup
  try dsimp only
  repeat' (first
    | with_reducible assumption
    | with_reducible apply State.count_keeps
    | (simp only [keeps_mk]; first | with_reducible apply KeepsParts.of | with_reducible apply KeepsParts.free | with_reducible apply KeepsParts.cut | with_reducible apply KeepsParts.cutMem | with_reducible apply KeepsParts.cutPoison | with_reducible apply KeepsParts.cutAll | with_reducible apply KeepsParts.said)
    | split
    | intro)

theorem State.metaPair_keeps {z0 : State} (s : State) (u : UnitId) (line : Nat) (hz : Keeps z0 s) :
    Keeps z0 (State.metaPair s u line) := by
  unfold State.metaPair
  try dsimp only
  repeat' (first
    | with_reducible assumption
    | with_reducible apply State.metaLookup_keeps
    | split
    | intro)

theorem State.tagLookup_keeps {z0 : State} (s : State) (u : UnitId) (line : Nat) (hz : Keeps z0 s) :
    Keeps z0 (State.tagLookup s u line) := by
  unfold State.tagLookup
  try dsimp only
  repeat' (first
    | with_reducible assumption
    | with_reducible apply State.count_keeps
    | (simp only [keeps_mk]; first | with_reducible apply KeepsParts.of | with_reducible apply KeepsParts.free | with_reducible apply KeepsParts.cut | with_reducible apply KeepsParts.cutMem | with_reducible apply KeepsParts.cutPoison | with_reducible apply KeepsParts.cutAll | with_reducible apply KeepsParts.said)
    | split
    | intro)

theorem State.reportPoison_keeps {z0 : State} (s : State) (line : Nat) (hz : Keeps z0 s) :
    Keeps z0 (State.reportPoison s line) := by
  unfold State.reportPoison
  try dsimp only
  repeat' (first
    | with_reducible assumption
    | with_reducible apply State.setPge_keeps
    | with_reducible apply State.sawPoison_keeps
    | (simp only [keeps_mk]; first | with_reducible apply KeepsParts.of | with_reducible apply KeepsParts.free | with_reducible apply KeepsParts.cut | with_reducible apply KeepsParts.cutMem | with_reducible apply KeepsParts.cutPoison | with_reducible apply KeepsParts.cutAll | with_reducible apply KeepsParts.said)
    | split
    | intro)

theorem State.tallyBank_keeps {z0 : State} (s : State) (u : UnitId) (k reg beats : Nat) (hz : Keeps z0 s) :
    Keeps z0 (State.tallyBank s u k reg beats) := by
  unfold State.tallyBank
  try dsimp only
  repeat' (first
    | with_reducible assumption
    | with_reducible apply State.count_keeps
    | split
    | intro)

theorem State.tallyRead_keeps {z0 : State} (s : State) (k line a n : Nat) (hz : Keeps z0 s) :
    Keeps z0 (State.tallyRead s k line a n) := by
  unfold State.tallyRead
  try dsimp only
  repeat' (first
    | with_reducible assumption
    | with_reducible apply State.count_keeps
    | with_reducible apply State.metaPair_keeps
    | with_reducible apply State.tagLookup_keeps
    | with_reducible apply State.reportPoison_keeps
    | with_reducible apply State.tallyBank_keeps
    | (simp only [keeps_mk]; first | with_reducible apply KeepsParts.of | with_reducible apply KeepsParts.free | with_reducible apply KeepsParts.cut | with_reducible apply KeepsParts.cutMem | with_reducible apply KeepsParts.cutPoison | with_reducible apply KeepsParts.cutAll | with_reducible apply KeepsParts.said)
    | split
    | intro)

theorem State.tallyWrite_keeps {z0 : State} (s : State) (k line a n : Nat) (hz : Keeps z0 s) :
    Keeps z0 (State.tallyWrite s k line a n) := by
  unfold State.tallyWrite
  try dsimp only
  repeat' (first
    | with_reducible assumption
    | with_reducible apply State.count_keeps
    | with_reducible apply State.metaPair_keeps
    | with_reducible apply State.tagLookup_keeps
    | with_reducible apply State.tallyBank_keeps
    | (simp only [keeps_mk]; first | with_reducible apply KeepsParts.of | with_reducible apply KeepsParts.free | with_reducible apply KeepsParts.cut | with_reducible apply KeepsParts.cutMem | with_reducible apply KeepsParts.cutPoison | with_reducible apply KeepsParts.cutAll | with_reducible apply KeepsParts.said)
    | split
    | intro)

theorem State.tallyMaint_keeps {z0 : State} (s : State) (ls : List Nat) (per beats : Nat) (hz : Keeps z0 s) :
    Keeps z0 (State.tallyMaint s ls per beats) := by
  unfold State.tallyMaint
  try dsimp only
  repeat' (first
    | with_reducible assumption
    | with_reducible apply State.count_keeps
    | with_reducible apply foldl_keeps
    | with_reducible apply foldl_fst_keeps
    | with_reducible apply foldl_snd_keeps
    | split
    | intro)

theorem State.tagClear_keeps {z0 : State} (s : State) (a n : Nat) (hz : Keeps z0 s) :
    Keeps z0 (State.tagClear s a n) := by
  unfold State.tagClear
  try dsimp only
  repeat' (first
    | with_reducible assumption
    | with_reducible apply State.cleanRun_keeps
    | with_reducible apply State.tallyMaint_keeps
    | split
    | intro)

theorem State.zeroTable_keeps {z0 : State} (s : State) (a n : Nat) (hz : Keeps z0 s) :
    Keeps z0 (State.zeroTable s a n) := by
  unfold State.zeroTable
  try dsimp only
  repeat' (first
    | with_reducible assumption
    | with_reducible apply State.zeroRun_keeps
    | with_reducible apply State.breakReservations_keeps
    | with_reducible apply State.tallyMaint_keeps
    | split
    | intro)

theorem State.disarm_keeps {z0 : State} (s : State) (u : UnitId) (k : Nat) (hz : Keeps z0 s) :
    Keeps z0 (State.disarm s u k) := by
  unfold State.disarm
  try dsimp only
  repeat' (first
    | with_reducible assumption
    | (simp only [keeps_mk]; first | with_reducible apply KeepsParts.of | with_reducible apply KeepsParts.free | with_reducible apply KeepsParts.cut | with_reducible apply KeepsParts.cutMem | with_reducible apply KeepsParts.cutPoison | with_reducible apply KeepsParts.cutAll | with_reducible apply KeepsParts.said)
    | split
    | intro)

theorem State.note_keeps {z0 : State} (s : State) (u : UnitId) (kind n : Nat) (hz : Keeps z0 s) :
    Keeps z0 (State.note s u kind n) := by
  unfold State.note
  try dsimp only
  repeat' (first
    | with_reducible assumption
    | with_reducible apply State.setUnit_keeps
    | (simp only [keeps_mk]; first | with_reducible apply KeepsParts.of | with_reducible apply KeepsParts.free | with_reducible apply KeepsParts.cut | with_reducible apply KeepsParts.cutMem | with_reducible apply KeepsParts.cutPoison | with_reducible apply KeepsParts.cutAll | with_reducible apply KeepsParts.said)
    | split
    | intro)

theorem State.retag_keeps {z0 : State} (s : State) (line : Nat) (hz : Keeps z0 s) :
    Keeps z0 (State.retag s line) := by
  unfold State.retag
  try dsimp only
  repeat' (first
    | with_reducible assumption
    | (simp only [keeps_mk]; first | with_reducible apply KeepsParts.of | with_reducible apply KeepsParts.free | with_reducible apply KeepsParts.cut | with_reducible apply KeepsParts.cutMem | with_reducible apply KeepsParts.cutPoison | with_reducible apply KeepsParts.cutAll | with_reducible apply KeepsParts.said)
    | split
    | intro)

theorem State.lastLine_keeps {z0 : State} (s : State) (u : UnitId) (line : Nat) (hz : Keeps z0 s) :
    Keeps z0 (State.lastLine s u line) := by
  unfold State.lastLine
  try dsimp only
  repeat' (first
    | with_reducible assumption
    | with_reducible apply State.put_keeps
    | split
    | intro)

theorem State.integrity_keeps {z0 : State} (s : State) (u : UnitId) (line : Nat) (hz : Keeps z0 s) :
    Keeps z0 (State.integrity s u line) := by
  unfold State.integrity
  try dsimp only
  repeat' (first
    | with_reducible assumption
    | with_reducible apply State.poisonLine_keeps
    | with_reducible apply State.irq_keeps
    | with_reducible apply State.count_keeps
    | with_reducible apply State.eventPM_keeps
    | with_reducible apply State.memEvent_keeps
    | with_reducible apply State.retag_keeps
    | with_reducible apply State.lastLine_keeps
    | split
    | intro)

theorem State.exhausted_keeps {z0 : State} (s : State) (u : UnitId) (line cause : Nat) (hz : Keeps z0 s) :
    Keeps z0 (State.exhausted s u line cause) := by
  unfold State.exhausted
  try dsimp only
  repeat' (first
    | with_reducible assumption
    | with_reducible apply State.poisonLine_keeps
    | with_reducible apply State.count_keeps
    | with_reducible apply State.memEvent_keeps
    | with_reducible apply State.note_keeps
    | with_reducible apply State.retag_keeps
    | with_reducible apply State.lastLine_keeps
    | split
    | intro)

theorem State.tableUe_keeps {z0 : State} (s : State) (u : UnitId) (line beat : Nat) (hz : Keeps z0 s) :
    Keeps z0 (State.tableUe s u line beat) := by
  unfold State.tableUe
  try dsimp only
  repeat' (first
    | with_reducible assumption
    | with_reducible apply State.put_keeps
    | with_reducible apply State.poisonLine_keeps
    | with_reducible apply State.irq_keeps
    | with_reducible apply State.count_keeps
    | with_reducible apply State.memEvent_keeps
    | with_reducible apply State.note_keeps
    | split
    | intro)

theorem State.endRun_keeps {z0 : State} (s : State) (hz : Keeps z0 s) :
    Keeps z0 (State.endRun s) := by
  unfold State.endRun
  try dsimp only
  repeat' (first
    | with_reducible assumption
    | (simp only [keeps_mk]; first | with_reducible apply KeepsParts.of | with_reducible apply KeepsParts.free | with_reducible apply KeepsParts.cut | with_reducible apply KeepsParts.cutMem | with_reducible apply KeepsParts.cutPoison | with_reducible apply KeepsParts.cutAll | with_reducible apply KeepsParts.said)
    | split
    | intro)

theorem State.breakRun_keeps {z0 : State} (s : State) (line : Nat) (hz : Keeps z0 s) :
    Keeps z0 (State.breakRun s line) := by
  unfold State.breakRun
  try dsimp only
  repeat' (first
    | with_reducible assumption
    | with_reducible apply State.endRun_keeps
    | (simp only [keeps_mk]; first | with_reducible apply KeepsParts.of | with_reducible apply KeepsParts.free | with_reducible apply KeepsParts.cut | with_reducible apply KeepsParts.cutMem | with_reducible apply KeepsParts.cutPoison | with_reducible apply KeepsParts.cutAll | with_reducible apply KeepsParts.said)
    | split
    | intro)

theorem State.retried_keeps {z0 : State} (s : State) (u : UnitId) (n : Nat) (hz : Keeps z0 s) :
    Keeps z0 (State.retried s u n) := by
  unfold State.retried
  try dsimp only
  repeat' (first
    | with_reducible assumption
    | with_reducible apply State.irq_keeps
    | with_reducible apply State.count_keeps
    | split
    | intro)

theorem State.meet_keeps {z0 : State} (s0 : State) (line a n : Nat) (hz : Keeps z0 s0) :
    Keeps z0 (State.meet s0 line a n).1 := by
  unfold State.meet
  try dsimp only
  repeat' (first
    | with_reducible assumption
    | with_reducible apply State.irq_keeps
    | with_reducible apply State.count_keeps
    | with_reducible apply State.disarm_keeps
    | with_reducible apply State.note_keeps
    | with_reducible apply State.integrity_keeps
    | with_reducible apply State.exhausted_keeps
    | with_reducible apply State.tableUe_keeps
    | with_reducible apply State.breakRun_keeps
    | with_reducible apply State.retried_keeps
    | with_reducible apply foldl_keeps
    | with_reducible apply foldl_fst_keeps
    | with_reducible apply foldl_snd_keeps
    | (simp only [keeps_mk]; first | with_reducible apply KeepsParts.of | with_reducible apply KeepsParts.free | with_reducible apply KeepsParts.cut | with_reducible apply KeepsParts.cutMem | with_reducible apply KeepsParts.cutPoison | with_reducible apply KeepsParts.cutAll | with_reducible apply KeepsParts.said)
    | split
    | intro)

theorem State.readLine_keeps {z0 : State} (s : State) (k line a n : Nat) (hz : Keeps z0 s) :
    Keeps z0 (State.readLine s k line a n).1 := by
  unfold State.readLine
  try dsimp only
  repeat' (first
    | with_reducible assumption
    | with_reducible apply State.tallyRead_keeps
    | with_reducible apply State.meet_keeps
    | split
    | intro)

theorem State.readAll_keeps {z0 : State} (s : State) (k : Nat) (ins : List (Nat × Nat)) (hz : Keeps z0 s) :
    Keeps z0 (State.readAll s k ins).1 := by
  unfold State.readAll
  try dsimp only
  repeat' (first
    | with_reducible assumption
    | with_reducible apply State.readLine_keeps
    | with_reducible apply foldl_keeps
    | with_reducible apply foldl_fst_keeps
    | with_reducible apply foldl_snd_keeps
    | split
    | intro)

theorem State.spoil_keeps {z0 : State} (s : State) (line a n : Nat) (hz : Keeps z0 s) :
    Keeps z0 (State.spoil s line a n) := by
  unfold State.spoil
  try dsimp only
  repeat' (first
    | with_reducible assumption
    | with_reducible apply State.disarm_keeps
    | with_reducible apply State.retag_keeps
    | with_reducible apply State.meet_keeps
    | (simp only [keeps_mk]; first | with_reducible apply KeepsParts.of | with_reducible apply KeepsParts.free | with_reducible apply KeepsParts.cut | with_reducible apply KeepsParts.cutMem | with_reducible apply KeepsParts.cutPoison | with_reducible apply KeepsParts.cutAll | with_reducible apply KeepsParts.said)
    | split
    | intro)

theorem State.landLine_keeps {z0 : State} (t : State) (l lo : Nat) (d : List Byte) (pois : Bool) (hz : Keeps z0 t) :
    Keeps z0 (State.landLine t l lo d pois) := by
  unfold State.landLine
  try dsimp only
  repeat' (first
    | with_reducible assumption
    | with_reducible apply State.write_keeps
    | with_reducible apply State.breakReservations_keeps
    | with_reducible apply State.exhausted_keeps
    | with_reducible apply State.breakRun_keeps
    | with_reducible apply State.retried_keeps
    | with_reducible apply State.spoil_keeps
    | (simp only [keeps_mk]; first | with_reducible apply KeepsParts.of | with_reducible apply KeepsParts.free | with_reducible apply KeepsParts.cut | with_reducible apply KeepsParts.cutMem | with_reducible apply KeepsParts.cutPoison | with_reducible apply KeepsParts.cutAll | with_reducible apply KeepsParts.said)
    | split
    | intro)

theorem State.putLine_keeps {z0 : State} (t : State) (l lo : Nat) (d : List Byte) (pois : Bool) (hz : Keeps z0 t) :
    Keeps z0 (State.putLine t l lo d pois) := by
  unfold State.putLine
  try dsimp only
  repeat' (first
    | with_reducible assumption
    | with_reducible apply State.sealRefused_keeps
    | with_reducible apply State.landLine_keeps
    | split
    | intro)

theorem State.putMem_keeps {z0 : State} (s : State) (a : Nat) (d : List Byte) (pois : Bool) (hz : Keeps z0 s) :
    Keeps z0 (State.putMem s a d pois) := by
  unfold State.putMem
  try dsimp only
  repeat' (first
    | with_reducible assumption
    | with_reducible apply State.putLine_keeps
    | with_reducible apply foldl_keeps
    | with_reducible apply foldl_fst_keeps
    | with_reducible apply foldl_snd_keeps
    | split
    | intro)

theorem State.writeMem_keeps {z0 : State} (s : State) (k a : Nat) (d : List Byte) (pois : Bool) (hz : Keeps z0 s) :
    Keeps z0 (State.writeMem s k a d pois) := by
  unfold State.writeMem
  try dsimp only
  repeat' (first
    | with_reducible assumption
    | with_reducible apply State.tallyWrite_keeps
    | with_reducible apply State.putLine_keeps
    | with_reducible apply foldl_keeps
    | with_reducible apply foldl_fst_keeps
    | with_reducible apply foldl_snd_keeps
    | split
    | intro)

theorem State.zeroLocal_keeps {z0 : State} (s : State) (a n : Nat) (hz : Keeps z0 s) :
    Keeps z0 (State.zeroLocal s a n) := by
  unfold State.zeroLocal
  try dsimp only
  repeat' (first
    | with_reducible assumption
    | with_reducible apply State.zeroRun_keeps
    | with_reducible apply State.tallyWrite_keeps
    | with_reducible apply State.retag_keeps
    | with_reducible apply foldl_keeps
    | with_reducible apply foldl_fst_keeps
    | with_reducible apply foldl_snd_keeps
    | split
    | intro)

theorem State.setBank_keeps {z0 : State} (s : State) (u : UnitId) (r : TblRec) (hz : Keeps z0 s) :
    Keeps z0 (State.setBank s u r) := by
  unfold State.setBank
  try dsimp only
  repeat' (first
    | with_reducible assumption
    | (simp only [keeps_mk]; first | with_reducible apply KeepsParts.of | with_reducible apply KeepsParts.free | with_reducible apply KeepsParts.cut | with_reducible apply KeepsParts.cutMem | with_reducible apply KeepsParts.cutPoison | with_reducible apply KeepsParts.cutAll | with_reducible apply KeepsParts.said)
    | split
    | intro)

theorem State.tblAnswer_keeps {z0 : State} (s : State) (pois : Bool) (d : List Byte) (hz : Keeps z0 s) :
    Keeps z0 (State.tblAnswer s pois d) := by
  unfold State.tblAnswer
  try dsimp only
  repeat' (first
    | with_reducible assumption
    | with_reducible apply State.respond_keeps
    | split
    | intro)

theorem State.answerLost_keeps {z0 : State} (s : State) (r : TblReq) (hz : Keeps z0 s) :
    Keeps z0 (State.answerLost s r) := by
  unfold State.answerLost
  try dsimp only
  repeat' (first
    | with_reducible assumption
    | with_reducible apply State.tblAnswer_keeps
    | split
    | intro)

theorem State.answerWaiting_keeps {z0 : State} (s : State) (u : UnitId) (hz : Keeps z0 s) :
    Keeps z0 (State.answerWaiting s u) := by
  unfold State.answerWaiting
  try dsimp only
  repeat' (first
    | with_reducible assumption
    | with_reducible apply State.respond_keeps
    | with_reducible apply State.write_keeps
    | with_reducible apply State.setBank_keeps
    | with_reducible apply State.tblAnswer_keeps
    | with_reducible apply State.answerLost_keeps
    | with_reducible apply foldl_keeps
    | with_reducible apply foldl_fst_keeps
    | with_reducible apply foldl_snd_keeps
    | (simp only [keeps_mk]; first | with_reducible apply KeepsParts.of | with_reducible apply KeepsParts.free | with_reducible apply KeepsParts.cut | with_reducible apply KeepsParts.cutMem | with_reducible apply KeepsParts.cutPoison | with_reducible apply KeepsParts.cutAll | with_reducible apply KeepsParts.said)
    | split
    | intro)

end Sys2Proof.Machine
end

