-- ==== Sys2Proof/Laws/KeepsB.lean ====
section
/-!
SUPPORT. What the operations of Paging, Plans, Engine, Numeric, Packets keep.
-/
set_option linter.unusedTactic false
set_option linter.unreachableTactic false
set_option linter.unusedVariables false

namespace Sys2Proof.Machine

theorem State.popFrame_keeps {s0 s t : State} {p n f : Nat} (e : s.popFrame p n = some (f, t)) (h : Keeps s0 s) : Keeps s0 t := by
  unfold State.popFrame at e
  split at e
  · cases e
  · cases e
    exact State.count_keeps _ _ _ _ (State.setPge_keeps _ _ _ h)

theorem State.popIf_keeps {s0 s t : State} {c : Prop} [Decidable c] {p n f : Nat} (e : (if c then none else s.popFrame p n) = some (f, t))
    (h : Keeps s0 s) : Keeps s0 t := by
  split at e
  · cases e
  · exact State.popFrame_keeps e h

theorem State.freeFrame_keeps {z0 : State} (s : State) (p f : Nat) (hz : Keeps z0 s) :
    Keeps z0 (State.freeFrame s p f) := by
  unfold State.freeFrame
  try dsimp only
  repeat' (first
    | with_reducible assumption
    | with_reducible apply State.setPge_keeps
    | with_reducible apply State.irq_keeps
    | with_reducible apply State.count_keeps
    | with_reducible apply State.eventP_keeps
    | with_reducible apply State.writeMem_keeps
    | with_reducible apply foldl_keeps
    | with_reducible apply foldl_fst_keeps
    | with_reducible apply foldl_snd_keeps
    | (simp only [keeps_mk]; first | with_reducible apply KeepsParts.of | with_reducible apply KeepsParts.free | with_reducible apply KeepsParts.cut | with_reducible apply KeepsParts.cutMem | with_reducible apply KeepsParts.cutPoison | with_reducible apply KeepsParts.cutAll | with_reducible apply KeepsParts.said)
    | split
    | intro)

theorem State.cancelMig_keeps {z0 : State} (s : State) (p f : Nat) (hz : Keeps z0 s) :
    Keeps z0 (State.cancelMig s p f) := by
  unfold State.cancelMig
  try dsimp only
  repeat' (first
    | with_reducible assumption
    | with_reducible apply State.setPge_keeps
    | with_reducible apply State.freeFrame_keeps
    | (simp only [keeps_mk]; first | with_reducible apply KeepsParts.of | with_reducible apply KeepsParts.free | with_reducible apply KeepsParts.cut | with_reducible apply KeepsParts.cutMem | with_reducible apply KeepsParts.cutPoison | with_reducible apply KeepsParts.cutAll | with_reducible apply KeepsParts.said)
    | split
    | intro)

theorem State.dropRef_keeps {z0 : State} (s : State) (p f : Nat) (hz : Keeps z0 s) :
    Keeps z0 (State.dropRef s p f) := by
  unfold State.dropRef
  try dsimp only
  repeat' (first
    | with_reducible assumption
    | with_reducible apply State.setPge_keeps
    | with_reducible apply State.freeFrame_keeps
    | with_reducible apply State.cancelMig_keeps
    | (simp only [keeps_mk]; first | with_reducible apply KeepsParts.of | with_reducible apply KeepsParts.free | with_reducible apply KeepsParts.cut | with_reducible apply KeepsParts.cutMem | with_reducible apply KeepsParts.cutPoison | with_reducible apply KeepsParts.cutAll | with_reducible apply KeepsParts.said)
    | split
    | intro)

theorem State.growTable_keeps {z0 : State} : ∀ (x0 : Nat) (s : State) (p slot vpnEnd : Nat) , Keeps z0 s → Keeps z0 (State.growTable s p slot vpnEnd x0).1 := by
  intro x0
  induction x0 with
  | zero =>
    intro s p slot vpnEnd hz
    have ih := hz
    unfold State.growTable
    try dsimp only
    repeat' (first
      | with_reducible assumption
      | with_reducible apply ih
      | with_reducible apply State.setPge_keeps
      | with_reducible refine State.popFrame_keeps (by assumption) ?_
      | (simp only [keeps_mk]; first | with_reducible apply KeepsParts.of | with_reducible apply KeepsParts.free | with_reducible apply KeepsParts.cut | with_reducible apply KeepsParts.cutMem | with_reducible apply KeepsParts.cutPoison | with_reducible apply KeepsParts.cutAll | with_reducible apply KeepsParts.said)
      | with_reducible refine State.popIf_keeps (by assumption) ?_
      | split
      | intro)
  | succ n ih =>
    intro s p slot vpnEnd hz
    unfold State.growTable
    try dsimp only
    repeat' (first
      | with_reducible assumption
      | with_reducible apply ih
      | with_reducible apply State.setPge_keeps
      | with_reducible refine State.popFrame_keeps (by assumption) ?_
      | (simp only [keeps_mk]; first | with_reducible apply KeepsParts.of | with_reducible apply KeepsParts.free | with_reducible apply KeepsParts.cut | with_reducible apply KeepsParts.cutMem | with_reducible apply KeepsParts.cutPoison | with_reducible apply KeepsParts.cutAll | with_reducible apply KeepsParts.said)
      | with_reducible refine State.popIf_keeps (by assumption) ?_
      | split
      | intro)

theorem State.growTo_keeps {z0 : State} (s : State) (p slot vpnEnd : Nat) (hz : Keeps z0 s) :
    Keeps z0 (State.growTo s p slot vpnEnd).1 := by
  unfold State.growTo
  try dsimp only
  repeat' (first
    | with_reducible assumption
    | with_reducible apply State.growTable_keeps
    | split
    | intro)

theorem State.queueDemotions_keeps {z0 : State} : ∀ (x0 : Nat) (s : State) (p t : Nat) , Keeps z0 s → Keeps z0 (State.queueDemotions s p t x0) := by
  intro x0
  induction x0 with
  | zero =>
    intro s p t hz
    have ih := hz
    unfold State.queueDemotions
    try dsimp only
    repeat' (first
      | with_reducible assumption
      | with_reducible apply ih
      | with_reducible apply State.setPge_keeps
      | with_reducible apply State.count_keeps
      | (simp only [keeps_mk]; first | with_reducible apply KeepsParts.of | with_reducible apply KeepsParts.free | with_reducible apply KeepsParts.cut | with_reducible apply KeepsParts.cutMem | with_reducible apply KeepsParts.cutPoison | with_reducible apply KeepsParts.cutAll | with_reducible apply KeepsParts.said)
      | split
      | intro)
  | succ n ih =>
    intro s p t hz
    unfold State.queueDemotions
    try dsimp only
    repeat' (first
      | with_reducible assumption
      | with_reducible apply ih
      | with_reducible apply State.setPge_keeps
      | with_reducible apply State.count_keeps
      | (simp only [keeps_mk]; first | with_reducible apply KeepsParts.of | with_reducible apply KeepsParts.free | with_reducible apply KeepsParts.cut | with_reducible apply KeepsParts.cutMem | with_reducible apply KeepsParts.cutPoison | with_reducible apply KeepsParts.cutAll | with_reducible apply KeepsParts.said)
      | split
      | intro)

theorem State.evictPfx_keeps {z0 : State} (s : State) (p : Nat) (e : PfxEnt) (hz : Keeps z0 s) :
    Keeps z0 (State.evictPfx s p e) := by
  unfold State.evictPfx
  try dsimp only
  repeat' (first
    | with_reducible assumption
    | with_reducible apply State.setPge_keeps
    | with_reducible apply State.count_keeps
    | with_reducible apply State.freeFrame_keeps
    | with_reducible apply State.dropRef_keeps
    | with_reducible apply foldl_keeps
    | with_reducible apply foldl_fst_keeps
    | with_reducible apply foldl_snd_keeps
    | (simp only [keeps_mk]; first | with_reducible apply KeepsParts.of | with_reducible apply KeepsParts.free | with_reducible apply KeepsParts.cut | with_reducible apply KeepsParts.cutMem | with_reducible apply KeepsParts.cutPoison | with_reducible apply KeepsParts.cutAll | with_reducible apply KeepsParts.said)
    | split
    | intro)

theorem State.evictUnmapped_keeps {z0 : State} : ∀ (x0 : Nat) (s : State) (p : Nat) , Keeps z0 s → Keeps z0 (State.evictUnmapped s p x0) := by
  intro x0
  induction x0 with
  | zero =>
    intro s p hz
    have ih := hz
    unfold State.evictUnmapped
    try dsimp only
    repeat' (first
      | with_reducible assumption
      | with_reducible apply ih
      | with_reducible apply State.evictPfx_keeps
      | (simp only [keeps_mk]; first | with_reducible apply KeepsParts.of | with_reducible apply KeepsParts.free | with_reducible apply KeepsParts.cut | with_reducible apply KeepsParts.cutMem | with_reducible apply KeepsParts.cutPoison | with_reducible apply KeepsParts.cutAll | with_reducible apply KeepsParts.said)
      | split
      | intro)
  | succ n ih =>
    intro s p hz
    unfold State.evictUnmapped
    try dsimp only
    repeat' (first
      | with_reducible assumption
      | with_reducible apply ih
      | with_reducible apply State.evictPfx_keeps
      | (simp only [keeps_mk]; first | with_reducible apply KeepsParts.of | with_reducible apply KeepsParts.free | with_reducible apply KeepsParts.cut | with_reducible apply KeepsParts.cutMem | with_reducible apply KeepsParts.cutPoison | with_reducible apply KeepsParts.cutAll | with_reducible apply KeepsParts.said)
      | split
      | intro)

theorem State.checkPause_keeps {z0 : State} (s0 : State) (p : Nat) (hz : Keeps z0 s0) :
    Keeps z0 (State.checkPause s0 p) := by
  unfold State.checkPause
  try dsimp only
  repeat' (first
    | with_reducible assumption
    | with_reducible apply State.put_keeps
    | with_reducible apply State.irq_keeps
    | with_reducible apply State.evictUnmapped_keeps
    | split
    | intro)

theorem State.pgeBalance_keeps {z0 : State} (s : State) (p : Nat) (hz : Keeps z0 s) :
    Keeps z0 (State.pgeBalance s p) := by
  unfold State.pgeBalance
  try dsimp only
  repeat' (first
    | with_reducible assumption
    | with_reducible apply State.queueDemotions_keeps
    | with_reducible apply State.checkPause_keeps
    | split
    | intro)

theorem State.reserve_keeps {z0 : State} (s : State) (p : Nat) (es : List Entry) (hz : Keeps z0 s) :
    Keeps z0 (State.reserve s p es).1 := by
  unfold State.reserve
  try dsimp only
  repeat' (first
    | with_reducible assumption
    | with_reducible apply State.respond_keeps
    | with_reducible apply State.setPge_keeps
    | with_reducible apply State.irq_keeps
    | with_reducible apply State.count_keeps
    | (simp only [keeps_mk]; first | with_reducible apply KeepsParts.of | with_reducible apply KeepsParts.free | with_reducible apply KeepsParts.cut | with_reducible apply KeepsParts.cutMem | with_reducible apply KeepsParts.cutPoison | with_reducible apply KeepsParts.cutAll | with_reducible apply KeepsParts.said)
    | split
    | intro)

theorem State.copyRun_keeps {z0 : State} (s : State) (a b n : Nat) (hz : Keeps z0 s) :
    Keeps z0 (State.copyRun s a b n) := by
  unfold State.copyRun
  try dsimp only
  repeat' (first
    | with_reducible assumption
    | with_reducible apply State.writeMem_keeps
    | with_reducible apply foldl_keeps
    | with_reducible apply foldl_fst_keeps
    | with_reducible apply foldl_snd_keeps
    | split
    | intro)

theorem State.copyFrame_keeps {z0 : State} (s : State) (p src dst : Nat) (hz : Keeps z0 s) :
    Keeps z0 (State.copyFrame s p src dst) := by
  unfold State.copyFrame
  try dsimp only
  repeat' (first
    | with_reducible assumption
    | with_reducible apply State.copyRun_keeps
    | split
    | intro)

theorem State.startSweep_keeps {z0 : State} (s : State) (p : Nat) (hz : Keeps z0 s) :
    Keeps z0 (State.startSweep s p) := by
  unfold State.startSweep
  try dsimp only
  repeat' (first
    | with_reducible assumption
    | with_reducible apply State.put_keeps
    | split
    | intro)

theorem State.lookupFails_keeps {z0 : State} (s : State) (p slot f : Nat) (hz : Keeps z0 s) :
    Keeps z0 (State.lookupFails s p slot f) := by
  unfold State.lookupFails
  try dsimp only
  repeat' (first
    | with_reducible assumption
    | with_reducible apply State.startSweep_keeps
    | split
    | intro)

theorem State.lookupRead_keeps {z0 : State} (s0 : State) (p slot vpn : Nat) (hz : Keeps z0 s0) :
    Keeps z0 (State.lookupRead s0 p slot vpn).2 := by
  unfold State.lookupRead
  try dsimp only
  repeat' (first
    | with_reducible assumption
    | with_reducible apply State.setPge_keeps
    | with_reducible apply State.count_keeps
    | with_reducible apply State.lookupFails_keeps
    | (simp only [keeps_mk]; first | with_reducible apply KeepsParts.of | with_reducible apply KeepsParts.free | with_reducible apply KeepsParts.cut | with_reducible apply KeepsParts.cutMem | with_reducible apply KeepsParts.cutPoison | with_reducible apply KeepsParts.cutAll | with_reducible apply KeepsParts.said)
    | split
    | intro)

theorem State.promote_keeps {z0 : State} (s : State) (p f : Nat) (hz : Keeps z0 s) :
    Keeps z0 (State.promote s p f).1 := by
  unfold State.promote
  try dsimp only
  repeat' (first
    | with_reducible assumption
    | with_reducible apply State.setPge_keeps
    | with_reducible apply State.count_keeps
    | (simp only [keeps_mk]; first | with_reducible apply KeepsParts.of | with_reducible apply KeepsParts.free | with_reducible apply KeepsParts.cut | with_reducible apply KeepsParts.cutMem | with_reducible apply KeepsParts.cutPoison | with_reducible apply KeepsParts.cutAll | with_reducible apply KeepsParts.said)
    | split
    | intro)

theorem State.forwardEntry_keeps {z0 : State} (s : State) (p : Nat) (e : PageEnt) (hz : Keeps z0 s) :
    Keeps z0 (State.forwardEntry s p e) := by
  unfold State.forwardEntry
  try dsimp only
  repeat' (first
    | with_reducible assumption
    | with_reducible apply State.setPge_keeps
    | with_reducible apply State.count_keeps
    | (simp only [keeps_mk]; first | with_reducible apply KeepsParts.of | with_reducible apply KeepsParts.free | with_reducible apply KeepsParts.cut | with_reducible apply KeepsParts.cutMem | with_reducible apply KeepsParts.cutPoison | with_reducible apply KeepsParts.cutAll | with_reducible apply KeepsParts.said)
    | split
    | intro)

theorem State.unforward_keeps {z0 : State} (s : State) (p slot : Nat) (hz : Keeps z0 s) :
    Keeps z0 (State.unforward s p slot) := by
  unfold State.unforward
  try dsimp only
  repeat' (first
    | with_reducible assumption
    | with_reducible apply State.forwardEntry_keeps
    | with_reducible apply foldl_keeps
    | with_reducible apply foldl_fst_keeps
    | with_reducible apply foldl_snd_keeps
    | split
    | intro)

theorem State.lookupWrite_keeps {z0 : State} (s0 : State) (p slot vpn : Nat) (hz : Keeps z0 s0) :
    Keeps z0 (State.lookupWrite s0 p slot vpn).2 := by
  unfold State.lookupWrite
  try dsimp only
  repeat' (first
    | with_reducible assumption
    | with_reducible apply State.setPge_keeps
    | with_reducible apply State.count_keeps
    | with_reducible apply State.readAll_keeps
    | with_reducible refine State.popFrame_keeps (by assumption) ?_
    | with_reducible apply State.copyFrame_keeps
    | with_reducible apply State.lookupFails_keeps
    | with_reducible apply State.forwardEntry_keeps
    | (simp only [keeps_mk]; first | with_reducible apply KeepsParts.of | with_reducible apply KeepsParts.free | with_reducible apply KeepsParts.cut | with_reducible apply KeepsParts.cutMem | with_reducible apply KeepsParts.cutPoison | with_reducible apply KeepsParts.cutAll | with_reducible apply KeepsParts.said)
    | split
    | intro)

theorem State.allocVpn_keeps {z0 : State} (s : State) (p slot vpn : Nat) (hz : Keeps z0 s) :
    Keeps z0 (State.allocVpn s p slot vpn).1 := by
  unfold State.allocVpn
  try dsimp only
  repeat' (first
    | with_reducible assumption
    | with_reducible apply State.setPge_keeps
    | with_reducible refine State.popFrame_keeps (by assumption) ?_
    | (simp only [keeps_mk]; first | with_reducible apply KeepsParts.of | with_reducible apply KeepsParts.free | with_reducible apply KeepsParts.cut | with_reducible apply KeepsParts.cutMem | with_reducible apply KeepsParts.cutPoison | with_reducible apply KeepsParts.cutAll | with_reducible apply KeepsParts.said)
    | split
    | intro)

theorem State.allocEntry_keeps {z0 : State} (s : State) (p slot pos rows : Nat) (hz : Keeps z0 s) :
    Keeps z0 (State.allocEntry s p slot pos rows).1 := by
  unfold State.allocEntry
  try dsimp only
  repeat' (first
    | with_reducible assumption
    | with_reducible apply State.growTo_keeps
    | with_reducible apply State.allocVpn_keeps
    | with_reducible apply foldl_keeps
    | with_reducible apply foldl_fst_keeps
    | with_reducible apply foldl_snd_keeps
    | split
    | intro)

theorem State.freePending_keeps {z0 : State} (s : State) (p slot newLen : Nat) (hz : Keeps z0 s) :
    Keeps z0 (State.freePending s p slot newLen) := by
  unfold State.freePending
  try dsimp only
  repeat' (first
    | with_reducible assumption
    | with_reducible apply State.setPge_keeps
    | with_reducible apply State.dropRef_keeps
    | with_reducible apply foldl_keeps
    | with_reducible apply foldl_fst_keeps
    | with_reducible apply foldl_snd_keeps
    | (simp only [keeps_mk]; first | with_reducible apply KeepsParts.of | with_reducible apply KeepsParts.free | with_reducible apply KeepsParts.cut | with_reducible apply KeepsParts.cutMem | with_reducible apply KeepsParts.cutPoison | with_reducible apply KeepsParts.cutAll | with_reducible apply KeepsParts.said)
    | split
    | intro)

theorem State.commitPages_keeps {z0 : State} (s : State) (p slot newLen : Nat) (hz : Keeps z0 s) :
    Keeps z0 (State.commitPages s p slot newLen) := by
  unfold State.commitPages
  try dsimp only
  repeat' (first
    | with_reducible assumption
    | with_reducible apply State.setPge_keeps
    | with_reducible apply State.freePending_keeps
    | with_reducible apply foldl_keeps
    | with_reducible apply foldl_fst_keeps
    | with_reducible apply foldl_snd_keeps
    | (simp only [keeps_mk]; first | with_reducible apply KeepsParts.of | with_reducible apply KeepsParts.free | with_reducible apply KeepsParts.cut | with_reducible apply KeepsParts.cutMem | with_reducible apply KeepsParts.cutPoison | with_reducible apply KeepsParts.cutAll | with_reducible apply KeepsParts.said)
    | split
    | intro)

theorem State.dropPending_keeps {z0 : State} (s : State) (p slot : Nat) (hz : Keeps z0 s) :
    Keeps z0 (State.dropPending s p slot) := by
  unfold State.dropPending
  try dsimp only
  repeat' (first
    | with_reducible assumption
    | with_reducible apply State.setPge_keeps
    | with_reducible apply State.dropRef_keeps
    | with_reducible apply foldl_keeps
    | with_reducible apply foldl_fst_keeps
    | with_reducible apply foldl_snd_keeps
    | (simp only [keeps_mk]; first | with_reducible apply KeepsParts.of | with_reducible apply KeepsParts.free | with_reducible apply KeepsParts.cut | with_reducible apply KeepsParts.cutMem | with_reducible apply KeepsParts.cutPoison | with_reducible apply KeepsParts.cutAll | with_reducible apply KeepsParts.said)
    | split
    | intro)

theorem State.copyPosition_keeps {z0 : State} (s : State) (p slot src dst : Nat) (hz : Keeps z0 s) :
    Keeps z0 (State.copyPosition s p slot src dst) := by
  unfold State.copyPosition
  try dsimp only
  repeat' (first
    | with_reducible assumption
    | with_reducible apply State.readAll_keeps
    | with_reducible apply State.copyRun_keeps
    | with_reducible apply foldl_keeps
    | with_reducible apply foldl_fst_keeps
    | with_reducible apply foldl_snd_keeps
    | (simp only [keeps_mk]; first | with_reducible apply KeepsParts.of | with_reducible apply KeepsParts.free | with_reducible apply KeepsParts.cut | with_reducible apply KeepsParts.cutMem | with_reducible apply KeepsParts.cutPoison | with_reducible apply KeepsParts.cutAll | with_reducible apply KeepsParts.said)
    | split
    | intro)

theorem State.compact_keeps {z0 : State} (s : State) (p slot pos : Nat) (path : List Nat) (hz : Keeps z0 s) :
    Keeps z0 (State.compact s p slot pos path) := by
  unfold State.compact
  try dsimp only
  repeat' (first
    | with_reducible assumption
    | with_reducible apply State.copyPosition_keeps
    | with_reducible apply foldl_keeps
    | with_reducible apply foldl_fst_keeps
    | with_reducible apply foldl_snd_keeps
    | split
    | intro)

theorem State.dropSummary_keeps {z0 : State} (s : State) (p slot n : Nat) (hz : Keeps z0 s) :
    Keeps z0 (State.dropSummary s p slot n) := by
  unfold State.dropSummary
  try dsimp only
  repeat' (first
    | with_reducible assumption
    | with_reducible apply State.setPge_keeps
    | with_reducible apply State.writeMem_keeps
    | with_reducible apply foldl_keeps
    | with_reducible apply foldl_fst_keeps
    | with_reducible apply foldl_snd_keeps
    | (simp only [keeps_mk]; first | with_reducible apply KeepsParts.of | with_reducible apply KeepsParts.free | with_reducible apply KeepsParts.cut | with_reducible apply KeepsParts.cutMem | with_reducible apply KeepsParts.cutPoison | with_reducible apply KeepsParts.cutAll | with_reducible apply KeepsParts.said)
    | split
    | intro)

theorem State.retirePages_keeps {z0 : State} (s : State) (p slot : Nat) (hz : Keeps z0 s) :
    Keeps z0 (State.retirePages s p slot) := by
  unfold State.retirePages
  try dsimp only
  repeat' (first
    | with_reducible assumption
    | with_reducible apply State.setPge_keeps
    | with_reducible apply State.freeFrame_keeps
    | with_reducible apply State.dropRef_keeps
    | with_reducible apply State.checkPause_keeps
    | with_reducible apply foldl_keeps
    | with_reducible apply foldl_fst_keeps
    | with_reducible apply foldl_snd_keeps
    | (simp only [keeps_mk]; first | with_reducible apply KeepsParts.of | with_reducible apply KeepsParts.free | with_reducible apply KeepsParts.cut | with_reducible apply KeepsParts.cutMem | with_reducible apply KeepsParts.cutPoison | with_reducible apply KeepsParts.cutAll | with_reducible apply KeepsParts.said)
    | split
    | intro)

theorem State.forkPages_keeps {z0 : State} (s0 : State) (p src dst : Nat) (hz : Keeps z0 s0) :
    Keeps z0 (State.forkPages s0 p src dst) := by
  unfold State.forkPages
  try dsimp only
  repeat' (first
    | with_reducible assumption
    | with_reducible apply State.setPge_keeps
    | with_reducible apply State.growTo_keeps
    | with_reducible apply State.unforward_keeps
    | with_reducible apply foldl_keeps
    | with_reducible apply foldl_fst_keeps
    | with_reducible apply foldl_snd_keeps
    | (simp only [keeps_mk]; first | with_reducible apply KeepsParts.of | with_reducible apply KeepsParts.free | with_reducible apply KeepsParts.cut | with_reducible apply KeepsParts.cutMem | with_reducible apply KeepsParts.cutPoison | with_reducible apply KeepsParts.cutAll | with_reducible apply KeepsParts.said)
    | split
    | intro)

theorem State.pinRun_keeps {z0 : State} (s : State) (p slot run : Nat) (hs : List Nat) (hz : Keeps z0 s) :
    Keeps z0 (State.pinRun s p slot run hs) := by
  unfold State.pinRun
  try dsimp only
  repeat' (first
    | with_reducible assumption
    | with_reducible apply State.setPge_keeps
    | with_reducible apply State.count_keeps
    | (simp only [keeps_mk]; first | with_reducible apply KeepsParts.of | with_reducible apply KeepsParts.free | with_reducible apply KeepsParts.cut | with_reducible apply KeepsParts.cutMem | with_reducible apply KeepsParts.cutPoison | with_reducible apply KeepsParts.cutAll | with_reducible apply KeepsParts.said)
    | split
    | intro)

theorem State.mapBlocks_keeps {z0 : State} (s : State) (p slot m : Nat) (hz : Keeps z0 s) :
    Keeps z0 (State.mapBlocks s p slot m) := by
  unfold State.mapBlocks
  try dsimp only
  repeat' (first
    | with_reducible assumption
    | with_reducible apply State.setPge_keeps
    | with_reducible apply State.count_keeps
    | with_reducible apply State.growTo_keeps
    | with_reducible apply foldl_keeps
    | with_reducible apply foldl_fst_keeps
    | with_reducible apply foldl_snd_keeps
    | (simp only [keeps_mk]; first | with_reducible apply KeepsParts.of | with_reducible apply KeepsParts.free | with_reducible apply KeepsParts.cut | with_reducible apply KeepsParts.cutMem | with_reducible apply KeepsParts.cutPoison | with_reducible apply KeepsParts.cutAll | with_reducible apply KeepsParts.said)
    | split
    | intro)

theorem State.listPlace_keeps {s0 s t : State} {p n f o : Nat} (e : s.listPlace p n = some (f, o, t)) (h : Keeps s0 s) : Keeps s0 t := by
  unfold State.listPlace at e
  dsimp only at e
  split at e
  · cases e
    exact h
  · split at e
    · cases e
    · split at e
      · cases e
      · cases e
        exact State.setPge_keeps _ _ _ (State.popFrame_keeps (by assumption) h)

theorem State.insertBlock_keeps {z0 : State} (s0 : State) (p slot k hash : Nat) (hz : Keeps z0 s0) :
    Keeps z0 (State.insertBlock s0 p slot k hash) := by
  unfold State.insertBlock
  try dsimp only
  repeat' (first
    | with_reducible assumption
    | with_reducible apply State.setPge_keeps
    | with_reducible apply State.count_keeps
    | with_reducible apply State.evictPfx_keeps
    | with_reducible apply State.unforward_keeps
    | with_reducible refine State.listPlace_keeps (by assumption) ?_
    | with_reducible apply foldl_keeps
    | with_reducible apply foldl_fst_keeps
    | with_reducible apply foldl_snd_keeps
    | (simp only [keeps_mk]; first | with_reducible apply KeepsParts.of | with_reducible apply KeepsParts.free | with_reducible apply KeepsParts.cut | with_reducible apply KeepsParts.cutMem | with_reducible apply KeepsParts.cutPoison | with_reducible apply KeepsParts.cutAll | with_reducible apply KeepsParts.said)
    | split
    | intro)

theorem State.insertPrefixes_keeps {z0 : State} (s : State) (p : Nat) (r : SlotRec) (oldLen newLen : Nat) (hz : Keeps z0 s) :
    Keeps z0 (State.insertPrefixes s p r oldLen newLen) := by
  unfold State.insertPrefixes
  try dsimp only
  repeat' (first
    | with_reducible assumption
    | with_reducible apply State.insertBlock_keeps
    | with_reducible apply foldl_keeps
    | with_reducible apply foldl_fst_keeps
    | with_reducible apply foldl_snd_keeps
    | (simp only [keeps_mk]; first | with_reducible apply KeepsParts.of | with_reducible apply KeepsParts.free | with_reducible apply KeepsParts.cut | with_reducible apply KeepsParts.cutMem | with_reducible apply KeepsParts.cutPoison | with_reducible apply KeepsParts.cutAll | with_reducible apply KeepsParts.said)
    | split
    | intro)

theorem State.allocEntries_keeps {z0 : State} : ∀ (x0 : List STEntry) (s : State) (p : Nat) , Keeps z0 s → Keeps z0 (State.allocEntries s p x0).1 := by
  intro x0
  induction x0 with
  | nil =>
    intro s p hz
    have ih := hz
    unfold State.allocEntries
    try dsimp only
    repeat' (first
      | with_reducible assumption
      | with_reducible apply ih
      | with_reducible apply State.pgeBalance_keeps
      | with_reducible apply State.startSweep_keeps
      | with_reducible apply State.allocEntry_keeps
      | split
      | intro)
  | cons e r ih =>
    intro s p hz
    unfold State.allocEntries
    try dsimp only
    repeat' (first
      | with_reducible assumption
      | with_reducible apply ih
      | with_reducible apply State.pgeBalance_keeps
      | with_reducible apply State.startSweep_keeps
      | with_reducible apply State.allocEntry_keeps
      | split
      | intro)

theorem execAlloc_keeps {z0 : State} (u : UnitId) (s : State) (hz : Keeps z0 s) :
    KeepsO z0 (execAlloc u s) := by
  unfold execAlloc
  try dsimp only
  repeat' (first
    | with_reducible assumption
    | with_reducible apply KeepsO.next
    | with_reducible apply atUnit_keeps
    | with_reducible apply State.runLane_keeps
    | with_reducible apply State.irq_keeps
    | with_reducible apply State.readAll_keeps
    | with_reducible apply State.allocEntries_keeps
    | (simp only [keeps_mk]; first | with_reducible apply KeepsParts.of | with_reducible apply KeepsParts.free | with_reducible apply KeepsParts.cut | with_reducible apply KeepsParts.cutMem | with_reducible apply KeepsParts.cutPoison | with_reducible apply KeepsParts.cutAll | with_reducible apply KeepsParts.said)
    | split
    | intro)

theorem execPgeLookup_keeps {z0 : State} (part : Nat) (write : Bool) (qs : List (Nat × Nat × Nat)) (s : State) (hz : Keeps z0 s) :
    KeepsO z0 (execPgeLookup part write qs s) := by
  unfold execPgeLookup
  try dsimp only
  repeat' (first
    | with_reducible assumption
    | with_reducible apply KeepsO.next
    | with_reducible apply State.respond_keeps
    | with_reducible apply State.count_keeps
    | with_reducible apply State.lookupRead_keeps
    | with_reducible apply State.promote_keeps
    | with_reducible apply State.lookupWrite_keeps
    | with_reducible apply foldl_keeps
    | with_reducible apply foldl_fst_keeps
    | with_reducible apply foldl_snd_keeps
    | (simp only [keeps_mk]; first | with_reducible apply KeepsParts.of | with_reducible apply KeepsParts.free | with_reducible apply KeepsParts.cut | with_reducible apply KeepsParts.cutMem | with_reducible apply KeepsParts.cutPoison | with_reducible apply KeepsParts.cutAll | with_reducible apply KeepsParts.said)
    | split
    | intro)

theorem execPgeReserve_keeps {z0 : State} (part : Nat) (s : State) (hz : Keeps z0 s) :
    KeepsO z0 (execPgeReserve part s) := by
  unfold execPgeReserve
  try dsimp only
  repeat' (first
    | with_reducible assumption
    | with_reducible apply KeepsO.next
    | with_reducible apply State.respond_keeps
    | with_reducible apply State.setPart_keeps
    | with_reducible apply State.count_keeps
    | with_reducible apply State.reserve_keeps
    | (simp only [keeps_mk]; first | with_reducible apply KeepsParts.of | with_reducible apply KeepsParts.free | with_reducible apply KeepsParts.cut | with_reducible apply KeepsParts.cutMem | with_reducible apply KeepsParts.cutPoison | with_reducible apply KeepsParts.cutAll | with_reducible apply KeepsParts.said)
    | split
    | intro)

theorem execMigStart_keeps {z0 : State} (part src : Nat) (s : State) (hz : Keeps z0 s) :
    KeepsO z0 (execMigStart part src s) := by
  unfold execMigStart
  try dsimp only
  repeat' (first
    | with_reducible assumption
    | with_reducible apply KeepsO.next
    | with_reducible apply State.setPge_keeps
    | with_reducible apply State.count_keeps
    | with_reducible refine State.popFrame_keeps (by assumption) ?_
    | (simp only [keeps_mk]; first | with_reducible apply KeepsParts.of | with_reducible apply KeepsParts.free | with_reducible apply KeepsParts.cut | with_reducible apply KeepsParts.cutMem | with_reducible apply KeepsParts.cutPoison | with_reducible apply KeepsParts.cutAll | with_reducible apply KeepsParts.said)
    | split
    | intro)

theorem State.abortMig_keeps {z0 : State} (s : State) (p : Nat) (m : MigRec) (hz : Keeps z0 s) :
    Keeps z0 (State.abortMig s p m) := by
  unfold State.abortMig
  try dsimp only
  repeat' (first
    | with_reducible assumption
    | with_reducible apply State.setPge_keeps
    | with_reducible apply State.freeFrame_keeps
    | (simp only [keeps_mk]; first | with_reducible apply KeepsParts.of | with_reducible apply KeepsParts.free | with_reducible apply KeepsParts.cut | with_reducible apply KeepsParts.cutMem | with_reducible apply KeepsParts.cutPoison | with_reducible apply KeepsParts.cutAll | with_reducible apply KeepsParts.said)
    | split
    | intro)

theorem execMigCopyDone_keeps {z0 : State} (part src : Nat) (readFailed : Bool) (s : State) (hz : Keeps z0 s) :
    KeepsO z0 (execMigCopyDone part src readFailed s) := by
  unfold execMigCopyDone
  try dsimp only
  repeat' (first
    | with_reducible assumption
    | with_reducible apply KeepsO.next
    | with_reducible apply State.setPge_keeps
    | with_reducible apply State.count_keeps
    | with_reducible apply State.readAll_keeps
    | with_reducible apply State.copyFrame_keeps
    | with_reducible apply State.abortMig_keeps
    | (simp only [keeps_mk]; first | with_reducible apply KeepsParts.of | with_reducible apply KeepsParts.free | with_reducible apply KeepsParts.cut | with_reducible apply KeepsParts.cutMem | with_reducible apply KeepsParts.cutPoison | with_reducible apply KeepsParts.cutAll | with_reducible apply KeepsParts.said)
    | split
    | intro)

theorem execForwardRewrite_keeps {z0 : State} (part slot : Nat) (s : State) (hz : Keeps z0 s) :
    KeepsO z0 (execForwardRewrite part slot s) := by
  unfold execForwardRewrite
  try dsimp only
  repeat' (first
    | with_reducible assumption
    | with_reducible apply KeepsO.next
    | with_reducible apply State.unforward_keeps
    | split
    | intro)

theorem State.releaseMigs_keeps {z0 : State} (s : State) (p : Nat) (hz : Keeps z0 s) :
    Keeps z0 (State.releaseMigs s p) := by
  unfold State.releaseMigs
  try dsimp only
  repeat' (first
    | with_reducible assumption
    | with_reducible apply State.setPge_keeps
    | with_reducible apply State.freeFrame_keeps
    | with_reducible apply foldl_keeps
    | with_reducible apply foldl_fst_keeps
    | with_reducible apply foldl_snd_keeps
    | (simp only [keeps_mk]; first | with_reducible apply KeepsParts.of | with_reducible apply KeepsParts.free | with_reducible apply KeepsParts.cut | with_reducible apply KeepsParts.cutMem | with_reducible apply KeepsParts.cutPoison | with_reducible apply KeepsParts.cutAll | with_reducible apply KeepsParts.said)
    | split
    | intro)

theorem execPgeSweep_keeps {z0 : State} (part : Nat) (s : State) (hz : Keeps z0 s) :
    KeepsO z0 (execPgeSweep part s) := by
  unfold execPgeSweep
  try dsimp only
  repeat' (first
    | with_reducible assumption
    | with_reducible apply KeepsO.next
    | with_reducible apply State.put_keeps
    | with_reducible apply State.setPge_keeps
    | with_reducible apply State.freeFrame_keeps
    | with_reducible apply foldl_keeps
    | with_reducible apply foldl_fst_keeps
    | with_reducible apply foldl_snd_keeps
    | (simp only [keeps_mk]; first | with_reducible apply KeepsParts.of | with_reducible apply KeepsParts.free | with_reducible apply KeepsParts.cut | with_reducible apply KeepsParts.cutMem | with_reducible apply KeepsParts.cutPoison | with_reducible apply KeepsParts.cutAll | with_reducible apply KeepsParts.said)
    | split
    | intro)

theorem execHashList_keeps {z0 : State} (part slot : Nat) (hashes : List Nat) (lead : Nat) (s : State) (hz : Keeps z0 s) :
    KeepsO z0 (execHashList part slot hashes lead s) := by
  unfold execHashList
  try dsimp only
  repeat' (first
    | with_reducible assumption
    | with_reducible apply KeepsO.next
    | with_reducible apply State.emit_keeps
    | with_reducible apply State.pinRun_keeps
    | split
    | intro)

theorem execPlanLoad_keeps {z0 : State} (src : Src) (part pslot : Nat) (s : State) (hz : Keeps z0 s) :
    KeepsO z0 (execPlanLoad src part pslot s) := by
  unfold execPlanLoad
  try dsimp only
  repeat' (first
    | with_reducible assumption
    | with_reducible apply KeepsO.next
    | with_reducible apply State.put_keeps
    | with_reducible apply State.setPart_keeps
    | (simp only [keeps_mk]; first | with_reducible apply KeepsParts.of | with_reducible apply KeepsParts.free | with_reducible apply KeepsParts.cut | with_reducible apply KeepsParts.cutMem | with_reducible apply KeepsParts.cutPoison | with_reducible apply KeepsParts.cutAll | with_reducible apply KeepsParts.said)
    | split
    | intro)

theorem execPlanUnload_keeps {z0 : State} (src : Src) (part pslot : Nat) (s : State) (hz : Keeps z0 s) :
    KeepsO z0 (execPlanUnload src part pslot s) := by
  unfold execPlanUnload
  try dsimp only
  repeat' (first
    | with_reducible assumption
    | with_reducible apply KeepsO.next
    | with_reducible apply State.put_keeps
    | with_reducible apply State.setPart_keeps
    | (simp only [keeps_mk]; first | with_reducible apply KeepsParts.of | with_reducible apply KeepsParts.free | with_reducible apply KeepsParts.cut | with_reducible apply KeepsParts.cutMem | with_reducible apply KeepsParts.cutPoison | with_reducible apply KeepsParts.cutAll | with_reducible apply KeepsParts.said)
    | split
    | intro)

theorem State.dropPlan_keeps {z0 : State} (s : State) (p ps : Nat) (hz : Keeps z0 s) :
    Keeps z0 (State.dropPlan s p ps) := by
  unfold State.dropPlan
  try dsimp only
  repeat' (first
    | with_reducible assumption
    | with_reducible apply State.put_keeps
    | with_reducible apply State.setPart_keeps
    | (simp only [keeps_mk]; first | with_reducible apply KeepsParts.of | with_reducible apply KeepsParts.free | with_reducible apply KeepsParts.cut | with_reducible apply KeepsParts.cutMem | with_reducible apply KeepsParts.cutPoison | with_reducible apply KeepsParts.cutAll | with_reducible apply KeepsParts.said)
    | split
    | intro)

theorem execPlanUnloadDone_keeps {z0 : State} (part pslot : Nat) (s : State) (hz : Keeps z0 s) :
    KeepsO z0 (execPlanUnloadDone part pslot s) := by
  unfold execPlanUnloadDone
  try dsimp only
  repeat' (first
    | with_reducible assumption
    | with_reducible apply KeepsO.next
    | with_reducible apply State.dropPlan_keeps
    | (simp only [keeps_mk]; first | with_reducible apply KeepsParts.of | with_reducible apply KeepsParts.free | with_reducible apply KeepsParts.cut | with_reducible apply KeepsParts.cutMem | with_reducible apply KeepsParts.cutPoison | with_reducible apply KeepsParts.cutAll | with_reducible apply KeepsParts.said)
    | split
    | intro)

theorem State.readShared_keeps {z0 : State} (s : State) (u : UnitId) (k : Nat) (rs : List (Nat × Nat)) (hz : Keeps z0 s) :
    Keeps z0 (State.readShared s u k rs).1 := by
  unfold State.readShared
  try dsimp only
  repeat' (first
    | with_reducible assumption
    | with_reducible apply State.fresh_keeps
    | with_reducible apply State.count_keeps
    | with_reducible apply State.meet_keeps
    | with_reducible apply State.readLine_keeps
    | with_reducible apply foldl_keeps
    | with_reducible apply foldl_fst_keeps
    | with_reducible apply foldl_snd_keeps
    | split
    | intro)

theorem Job.read_keeps {z0 : State} (j : Job) (u : UnitId) (k : Nat) (s : State) (hz : Keeps z0 s) :
    Keeps z0 (Job.read j u k s).1 := by
  unfold Job.read
  try dsimp only
  repeat' (first
    | with_reducible assumption
    | with_reducible apply State.readAll_keeps
    | with_reducible apply State.readShared_keeps
    | split
    | intro)

theorem State.blur_keeps {z0 : State} (s : State) (outs : List (Nat × Nat)) (hz : Keeps z0 s) :
    Keeps z0 (State.blur s outs) := by
  unfold State.blur
  try dsimp only
  repeat' (first
    | with_reducible assumption
    | with_reducible apply State.freshBytes_keeps
    | with_reducible apply State.store_keeps
    | with_reducible apply foldl_keeps
    | with_reducible apply foldl_fst_keeps
    | with_reducible apply foldl_snd_keeps
    | split
    | intro)

/-- The work of a job keeps what Keeps is about. -/
def Job.Good (j : Job) : Prop := ∀ s t, Keeps s t → Keeps s (j.run t).1

theorem Job.bad_good (st : Nat) (outs : List (Nat × Nat)) : (Job.bad st outs).Good := fun _ _ h => h

theorem Job.perform_keeps {s0 : State} (j : Job) (u : UnitId) (l : Lane) (ev : LaneEv) (clash : Bool) (s : State) (hj : j.Good) (h : Keeps s0 s) :
    Keeps s0 (j.perform u l ev clash s).2 := by
  have h1 := Job.read_keeps j u (blkClass u.blk) s h
  have h2 := hj _ _ h1
  unfold Job.perform
  dsimp only
  repeat' (first
    | with_reducible assumption
    | with_reducible apply State.poisonOuts_keeps
    | with_reducible apply State.blur_keeps
    | split)

theorem State.runJob_keeps {s0 : State} (s : State) (u : UnitId) (covers : Nat → Bool) (ev : LaneEv) (job : State → Lane → Job)
    (hj : ∀ t l, (job t l).Good) (h : Keeps s0 s) : Keeps s0 (s.runJob u covers ev job) := by
  unfold State.runJob
  split
  · exact h
  · split
    · exact h
    · refine State.runLane_keeps _ _ _ h (fun l t k => ?_)
      have h1 := Job.perform_keeps (job t l) u l ev (lanesClash (l.peers (job t))) t (hj t l) k
      exact State.sawPoison_keeps _ _ _ _ h1

theorem State.correct_keeps {z0 : State} (s : State) (u : UnitId) (k n : Nat) (hz : Keeps z0 s) :
    Keeps z0 (State.correct s u k n) := by
  unfold State.correct
  try dsimp only
  repeat' (first
    | with_reducible assumption
    | with_reducible apply State.irq_keeps
    | with_reducible apply State.count_keeps
    | with_reducible apply State.note_keeps
    | split
    | intro)

theorem State.writeCodes_keeps {z0 : State} (s : State) (k a b : Nat) (cs : List Nat) (pack : Nat → List Nat → List Byte) (hz : Keeps z0 s) :
    Keeps z0 (State.writeCodes s k a b cs pack) := by
  unfold State.writeCodes
  try dsimp only
  repeat' (first
    | with_reducible assumption
    | with_reducible apply State.writeMem_keeps
    | split
    | intro)

theorem State.draws_keeps {z0 : State} (s : State) (sr : Bool) (n : Nat) (hz : Keeps z0 s) :
    Keeps z0 (State.draws s sr n).2 := by
  unfold State.draws
  try dsimp only
  repeat' (first
    | with_reducible assumption
    | (simp only [keeps_mk]; first | with_reducible apply KeepsParts.of | with_reducible apply KeepsParts.free | with_reducible apply KeepsParts.cut | with_reducible apply KeepsParts.cutMem | with_reducible apply KeepsParts.cutPoison | with_reducible apply KeepsParts.cutAll | with_reducible apply KeepsParts.said)
    | split
    | intro)

theorem State.setNet_keeps {z0 : State} (s : State) (f : NetRec → NetRec) (hz : Keeps z0 s) :
    Keeps z0 (State.setNet s f) := by
  unfold State.setNet
  try dsimp only
  repeat' (first
    | with_reducible assumption
    | (simp only [keeps_mk]; first | with_reducible apply KeepsParts.of | with_reducible apply KeepsParts.free | with_reducible apply KeepsParts.cut | with_reducible apply KeepsParts.cutMem | with_reducible apply KeepsParts.cutPoison | with_reducible apply KeepsParts.cutAll | with_reducible apply KeepsParts.said)
    | split
    | intro)

theorem State.setLink_keeps {z0 : State} (s : State) (k : Nat) (f : LinkRec → LinkRec) (hz : Keeps z0 s) :
    Keeps z0 (State.setLink s k f) := by
  unfold State.setLink
  try dsimp only
  repeat' (first
    | with_reducible assumption
    | with_reducible apply State.setNet_keeps
    | (simp only [keeps_mk]; first | with_reducible apply KeepsParts.of | with_reducible apply KeepsParts.free | with_reducible apply KeepsParts.cut | with_reducible apply KeepsParts.cutMem | with_reducible apply KeepsParts.cutPoison | with_reducible apply KeepsParts.cutAll | with_reducible apply KeepsParts.said)
    | split
    | intro)

theorem State.inject_keeps {z0 : State} (s : State) (p : Pkt) (hz : Keeps z0 s) :
    Keeps z0 (State.inject s p) := by
  unfold State.inject
  try dsimp only
  repeat' (first
    | with_reducible assumption
    | with_reducible apply State.setNet_keeps
    | (simp only [keeps_mk]; first | with_reducible apply KeepsParts.of | with_reducible apply KeepsParts.free | with_reducible apply KeepsParts.cut | with_reducible apply KeepsParts.cutMem | with_reducible apply KeepsParts.cutPoison | with_reducible apply KeepsParts.cutAll | with_reducible apply KeepsParts.said)
    | split
    | intro)

end Sys2Proof.Machine
end

