-- ==== Sys2Proof/Laws/KeepsC.lean ====
section
/-!
SUPPORT. What the operations of Collective keep.
-/
set_option linter.unusedTactic false
set_option linter.unreachableTactic false
set_option linter.unusedVariables false

namespace Sys2Proof.Machine

theorem State.setGrp_keeps {z0 : State} (s : State) (g : Nat) (f : Field) (v : Nat) (hz : Keeps z0 s) :
    Keeps z0 (State.setGrp s g f v) := by
  unfold State.setGrp
  try dsimp only
  repeat' (first
    | with_reducible assumption
    | with_reducible apply State.put_keeps
    | split
    | intro)

theorem State.updGrp_keeps {z0 : State} (s : State) (g : Nat) (f : GrpRec → GrpRec) (hz : Keeps z0 s) :
    Keeps z0 (State.updGrp s g f) := by
  unfold State.updGrp
  try dsimp only
  repeat' (first
    | with_reducible assumption
    | (simp only [keeps_mk]; first | with_reducible apply KeepsParts.of | with_reducible apply KeepsParts.free | with_reducible apply KeepsParts.cut | with_reducible apply KeepsParts.cutMem | with_reducible apply KeepsParts.cutPoison | with_reducible apply KeepsParts.cutAll | with_reducible apply KeepsParts.said)
    | split
    | intro)

theorem State.setLive_keeps {z0 : State} (s : State) (g v : Nat) (hz : Keeps z0 s) :
    Keeps z0 (State.setLive s g v) := by
  unfold State.setLive
  try dsimp only
  repeat' (first
    | with_reducible assumption
    | with_reducible apply State.setGrp_keeps
    | split
    | intro)

theorem State.updColl_keeps {z0 : State} (s : State) (g sq : Nat) (f : CollRec → CollRec) (hz : Keeps z0 s) :
    Keeps z0 (State.updColl s g sq f) := by
  unfold State.updColl
  try dsimp only
  repeat' (first
    | with_reducible assumption
    | (simp only [keeps_mk]; first | with_reducible apply KeepsParts.of | with_reducible apply KeepsParts.free | with_reducible apply KeepsParts.cut | with_reducible apply KeepsParts.cutMem | with_reducible apply KeepsParts.cutPoison | with_reducible apply KeepsParts.cutAll | with_reducible apply KeepsParts.said)
    | split
    | intro)

theorem State.showAccepted_keeps {z0 : State} (s : State) (g : Nat) (hz : Keeps z0 s) :
    Keeps z0 (State.showAccepted s g) := by
  unfold State.showAccepted
  try dsimp only
  repeat' (first
    | with_reducible assumption
    | with_reducible apply State.put_keeps
    | with_reducible apply State.setGrp_keeps
    | with_reducible apply foldl_keeps
    | with_reducible apply foldl_fst_keeps
    | with_reducible apply foldl_snd_keeps
    | split
    | intro)

theorem State.sendMsgPkt_keeps {z0 : State} (s : State) (p : Pkt) (hz : Keeps z0 s) :
    Keeps z0 (State.sendMsgPkt s p) := by
  unfold State.sendMsgPkt
  try dsimp only
  repeat' (first
    | with_reducible assumption
    | with_reducible apply State.setNet_keeps
    | with_reducible apply State.inject_keeps
    | (simp only [keeps_mk]; first | with_reducible apply KeepsParts.of | with_reducible apply KeepsParts.free | with_reducible apply KeepsParts.cut | with_reducible apply KeepsParts.cutMem | with_reducible apply KeepsParts.cutPoison | with_reducible apply KeepsParts.cutAll | with_reducible apply KeepsParts.said)
    | split
    | intro)

theorem State.sendMember_keeps {z0 : State} (s : State) (g j sub sq args : Nat) (d : List Byte) (hz : Keeps z0 s) :
    Keeps z0 (State.sendMember s g j sub sq args d) := by
  unfold State.sendMember
  try dsimp only
  repeat' (first
    | with_reducible assumption
    | with_reducible apply State.sendMsgPkt_keeps
    | split
    | intro)

theorem State.sendOthers_keeps {z0 : State} (s : State) (g sub gen sq args : Nat) (d : List Byte) (hz : Keeps z0 s) :
    Keeps z0 (State.sendOthers s g sub gen sq args d) := by
  unfold State.sendOthers
  try dsimp only
  repeat' (first
    | with_reducible assumption
    | with_reducible apply State.sendMsgPkt_keeps
    | with_reducible apply foldl_keeps
    | with_reducible apply foldl_fst_keeps
    | with_reducible apply foldl_snd_keeps
    | split
    | intro)

theorem State.returnCredit_keeps {z0 : State} (s : State) (g node pool n sq : Nat) (hz : Keeps z0 s) :
    Keeps z0 (State.returnCredit s g node pool n sq) := by
  unfold State.returnCredit
  try dsimp only
  repeat' (first
    | with_reducible assumption
    | with_reducible apply State.inject_keeps
    | split
    | intro)

theorem State.endCeLane_keeps {z0 : State} (s : State) (e : Nat) (l : Lane) (st : Nat) (hz : Keeps z0 s) :
    Keeps z0 (State.endCeLane s e l st) := by
  unfold State.endCeLane
  try dsimp only
  repeat' (first
    | with_reducible assumption
    | with_reducible apply State.put_keeps
    | with_reducible apply State.setUnit_keeps
    | with_reducible apply State.poisonOuts_keeps
    | with_reducible apply State.sawPoison_keeps
    | (simp only [keeps_mk]; first | with_reducible apply KeepsParts.of | with_reducible apply KeepsParts.free | with_reducible apply KeepsParts.cut | with_reducible apply KeepsParts.cutMem | with_reducible apply KeepsParts.cutPoison | with_reducible apply KeepsParts.cutAll | with_reducible apply KeepsParts.said)
    | split
    | intro)

theorem State.endColl_keeps {z0 : State} (s : State) (c : CollRec) (st : Nat) (hz : Keeps z0 s) :
    Keeps z0 (State.endColl s c st) := by
  unfold State.endColl
  try dsimp only
  repeat' (first
    | with_reducible assumption
    | with_reducible apply State.count_keeps
    | with_reducible apply State.updGrp_keeps
    | with_reducible apply State.showAccepted_keeps
    | with_reducible apply State.endCeLane_keeps
    | (simp only [keeps_mk]; first | with_reducible apply KeepsParts.of | with_reducible apply KeepsParts.free | with_reducible apply KeepsParts.cut | with_reducible apply KeepsParts.cutMem | with_reducible apply KeepsParts.cutPoison | with_reducible apply KeepsParts.cutAll | with_reducible apply KeepsParts.said)
    | split
    | intro)

theorem State.endFrom_keeps {z0 : State} (s : State) (g sq st : Nat) (hz : Keeps z0 s) :
    Keeps z0 (State.endFrom s g sq st) := by
  unfold State.endFrom
  try dsimp only
  repeat' (first
    | with_reducible assumption
    | with_reducible apply State.endColl_keeps
    | with_reducible apply foldl_keeps
    | with_reducible apply foldl_fst_keeps
    | with_reducible apply foldl_snd_keeps
    | split
    | intro)

theorem State.clearBuffers_keeps {z0 : State} (s : State) (g gen : Nat) (hz : Keeps z0 s) :
    Keeps z0 (State.clearBuffers s g gen) := by
  unfold State.clearBuffers
  try dsimp only
  repeat' (first
    | with_reducible assumption
    | with_reducible apply State.updGrp_keeps
    | with_reducible apply State.returnCredit_keeps
    | with_reducible apply foldl_keeps
    | with_reducible apply foldl_fst_keeps
    | with_reducible apply foldl_snd_keeps
    | (simp only [keeps_mk]; first | with_reducible apply KeepsParts.of | with_reducible apply KeepsParts.free | with_reducible apply KeepsParts.cut | with_reducible apply KeepsParts.cutMem | with_reducible apply KeepsParts.cutPoison | with_reducible apply KeepsParts.cutAll | with_reducible apply KeepsParts.said)
    | split
    | intro)

theorem State.applyCancel_keeps {z0 : State} (s : State) (g gen sq : Nat) (hz : Keeps z0 s) :
    Keeps z0 (State.applyCancel s g gen sq) := by
  unfold State.applyCancel
  try dsimp only
  repeat' (first
    | with_reducible assumption
    | with_reducible apply State.count_keeps
    | with_reducible apply State.setGrp_keeps
    | with_reducible apply State.updGrp_keeps
    | with_reducible apply State.endFrom_keeps
    | with_reducible apply State.clearBuffers_keeps
    | (simp only [keeps_mk]; first | with_reducible apply KeepsParts.of | with_reducible apply KeepsParts.free | with_reducible apply KeepsParts.cut | with_reducible apply KeepsParts.cutMem | with_reducible apply KeepsParts.cutPoison | with_reducible apply KeepsParts.cutAll | with_reducible apply KeepsParts.said)
    | split
    | intro)

theorem State.cancelAt_keeps {z0 : State} (s : State) (g sq : Nat) (hz : Keeps z0 s) :
    Keeps z0 (State.cancelAt s g sq) := by
  unfold State.cancelAt
  try dsimp only
  repeat' (first
    | with_reducible assumption
    | with_reducible apply State.sendOthers_keeps
    | with_reducible apply State.applyCancel_keeps
    | split
    | intro)

theorem State.cancelGroup_keeps {z0 : State} (s : State) (g : Nat) (hz : Keeps z0 s) :
    Keeps z0 (State.cancelGroup s g) := by
  unfold State.cancelGroup
  try dsimp only
  repeat' (first
    | with_reducible assumption
    | with_reducible apply State.cancelAt_keeps
    | split
    | intro)

theorem State.cancelPart_keeps {z0 : State} (s : State) (p : Nat) (hz : Keeps z0 s) :
    Keeps z0 (State.cancelPart s p) := by
  unfold State.cancelPart
  try dsimp only
  repeat' (first
    | with_reducible assumption
    | with_reducible apply State.cancelGroup_keeps
    | with_reducible apply foldl_keeps
    | with_reducible apply foldl_fst_keeps
    | with_reducible apply foldl_snd_keeps
    | split
    | intro)

theorem State.releaseGroups_keeps {z0 : State} (s : State) (p : Nat) (hz : Keeps z0 s) :
    Keeps z0 (State.releaseGroups s p) := by
  unfold State.releaseGroups
  try dsimp only
  repeat' (first
    | with_reducible assumption
    | with_reducible apply State.setGrp_keeps
    | with_reducible apply foldl_keeps
    | with_reducible apply foldl_fst_keeps
    | with_reducible apply foldl_snd_keeps
    | split
    | intro)

theorem State.sendSurvivors_keeps {z0 : State} (s : State) (g sub gen sq : Nat) (d : List Byte) (hz : Keeps z0 s) :
    Keeps z0 (State.sendSurvivors s g sub gen sq d) := by
  unfold State.sendSurvivors
  try dsimp only
  repeat' (first
    | with_reducible assumption
    | with_reducible apply State.sendMsgPkt_keeps
    | with_reducible apply foldl_keeps
    | with_reducible apply foldl_fst_keeps
    | with_reducible apply foldl_snd_keeps
    | split
    | intro)

theorem State.endLost_keeps {z0 : State} (s : State) (g : Nat) (hz : Keeps z0 s) :
    Keeps z0 (State.endLost s g) := by
  unfold State.endLost
  try dsimp only
  repeat' (first
    | with_reducible assumption
    | with_reducible apply State.endColl_keeps
    | with_reducible apply State.clearBuffers_keeps
    | with_reducible apply foldl_keeps
    | with_reducible apply foldl_fst_keeps
    | with_reducible apply foldl_snd_keeps
    | split
    | intro)

theorem State.applyReform_keeps {z0 : State} (s : State) (g gen mask : Nat) (hz : Keeps z0 s) :
    Keeps z0 (State.applyReform s g gen mask) := by
  unfold State.applyReform
  try dsimp only
  repeat' (first
    | with_reducible assumption
    | with_reducible apply State.setGrp_keeps
    | with_reducible apply State.updGrp_keeps
    | with_reducible apply State.setLive_keeps
    | with_reducible apply State.endLost_keeps
    | (simp only [keeps_mk]; first | with_reducible apply KeepsParts.of | with_reducible apply KeepsParts.free | with_reducible apply KeepsParts.cut | with_reducible apply KeepsParts.cutMem | with_reducible apply KeepsParts.cutPoison | with_reducible apply KeepsParts.cutAll | with_reducible apply KeepsParts.said)
    | split
    | intro)

theorem State.endReform_keeps {z0 : State} (s : State) (g : Nat) (hz : Keeps z0 s) :
    Keeps z0 (State.endReform s g) := by
  unfold State.endReform
  try dsimp only
  repeat' (first
    | with_reducible assumption
    | with_reducible apply State.irq_keeps
    | with_reducible apply State.eventP_keeps
    | with_reducible apply State.setGrp_keeps
    | split
    | intro)

theorem State.startReform_keeps {z0 : State} (s : State) (g : Nat) (hz : Keeps z0 s) :
    Keeps z0 (State.startReform s g) := by
  unfold State.startReform
  try dsimp only
  repeat' (first
    | with_reducible assumption
    | with_reducible apply State.updGrp_keeps
    | with_reducible apply State.sendSurvivors_keeps
    | with_reducible apply State.applyReform_keeps
    | with_reducible apply State.endReform_keeps
    | (simp only [keeps_mk]; first | with_reducible apply KeepsParts.of | with_reducible apply KeepsParts.free | with_reducible apply KeepsParts.cut | with_reducible apply KeepsParts.cutMem | with_reducible apply KeepsParts.cutPoison | with_reducible apply KeepsParts.cutAll | with_reducible apply KeepsParts.said)
    | split
    | intro)

theorem State.loseMembers_keeps {z0 : State} (s : State) (g : Nat) (nodes : List Nat) (hz : Keeps z0 s) :
    Keeps z0 (State.loseMembers s g nodes) := by
  unfold State.loseMembers
  try dsimp only
  repeat' (first
    | with_reducible assumption
    | with_reducible apply State.irq_keeps
    | with_reducible apply State.eventP_keeps
    | with_reducible apply State.setGrp_keeps
    | with_reducible apply State.updGrp_keeps
    | with_reducible apply State.sendSurvivors_keeps
    | with_reducible apply State.endLost_keeps
    | with_reducible apply State.startReform_keeps
    | (simp only [keeps_mk]; first | with_reducible apply KeepsParts.of | with_reducible apply KeepsParts.free | with_reducible apply KeepsParts.cut | with_reducible apply KeepsParts.cutMem | with_reducible apply KeepsParts.cutPoison | with_reducible apply KeepsParts.cutAll | with_reducible apply KeepsParts.said)
    | split
    | intro)

theorem State.groupsLoseNode_keeps {z0 : State} (s : State) (n : Nat) (hz : Keeps z0 s) :
    Keeps z0 (State.groupsLoseNode s n) := by
  unfold State.groupsLoseNode
  try dsimp only
  repeat' (first
    | with_reducible assumption
    | with_reducible apply State.loseMembers_keeps
    | with_reducible apply foldl_keeps
    | with_reducible apply foldl_fst_keeps
    | with_reducible apply foldl_snd_keeps
    | split
    | intro)

theorem State.sumSuit_keeps {z0 : State} (s : State) (c : CollRec) (hz : Keeps z0 s) :
    Keeps z0 (State.sumSuit s c) := by
  unfold State.sumSuit
  try dsimp only
  repeat' (first
    | with_reducible assumption
    | with_reducible apply State.updColl_keeps
    | (simp only [keeps_mk]; first | with_reducible apply KeepsParts.of | with_reducible apply KeepsParts.free | with_reducible apply KeepsParts.cut | with_reducible apply KeepsParts.cutMem | with_reducible apply KeepsParts.cutPoison | with_reducible apply KeepsParts.cutAll | with_reducible apply KeepsParts.said)
    | split
    | intro)

theorem State.sumShard_keeps {z0 : State} (s : State) (c : CollRec) (hz : Keeps z0 s) :
    Keeps z0 (State.sumShard s c) := by
  unfold State.sumShard
  try dsimp only
  repeat' (first
    | with_reducible assumption
    | with_reducible apply State.count_keeps
    | with_reducible apply State.writeMem_keeps
    | with_reducible apply State.updColl_keeps
    | (simp only [keeps_mk]; first | with_reducible apply KeepsParts.of | with_reducible apply KeepsParts.free | with_reducible apply KeepsParts.cut | with_reducible apply KeepsParts.cutMem | with_reducible apply KeepsParts.cutPoison | with_reducible apply KeepsParts.cutAll | with_reducible apply KeepsParts.said)
    | split
    | intro)

theorem State.sendChunk_keeps {z0 : State} (s0 : State) (c : CollRec) (j ph k : Nat) (early resent : Bool) (hz : Keeps z0 s0) :
    Keeps z0 (State.sendChunk s0 c j ph k early resent) := by
  unfold State.sendChunk
  try dsimp only
  repeat' (first
    | with_reducible assumption
    | with_reducible apply State.put_keeps
    | with_reducible apply State.count_keeps
    | with_reducible apply State.readAll_keeps
    | with_reducible apply State.inject_keeps
    | with_reducible apply State.updColl_keeps
    | with_reducible apply foldl_keeps
    | with_reducible apply foldl_fst_keeps
    | with_reducible apply foldl_snd_keeps
    | (simp only [keeps_mk]; first | with_reducible apply KeepsParts.of | with_reducible apply KeepsParts.free | with_reducible apply KeepsParts.cut | with_reducible apply KeepsParts.cutMem | with_reducible apply KeepsParts.cutPoison | with_reducible apply KeepsParts.cutAll | with_reducible apply KeepsParts.said)
    | split
    | intro)

theorem State.sendStream_keeps {z0 : State} : ∀ (x0 : Nat) (s : State) (g sq j ph : Nat) , Keeps z0 s → Keeps z0 (State.sendStream s g sq j ph x0) := by
  intro x0
  induction x0 with
  | zero =>
    intro s g sq j ph hz
    have ih := hz
    unfold State.sendStream
    try dsimp only
    repeat' (first
      | with_reducible assumption
      | with_reducible apply ih
      | with_reducible apply State.updGrp_keeps
      | with_reducible apply State.sendChunk_keeps
      | (simp only [keeps_mk]; first | with_reducible apply KeepsParts.of | with_reducible apply KeepsParts.free | with_reducible apply KeepsParts.cut | with_reducible apply KeepsParts.cutMem | with_reducible apply KeepsParts.cutPoison | with_reducible apply KeepsParts.cutAll | with_reducible apply KeepsParts.said)
      | split
      | intro)
  | succ n ih =>
    intro s g sq j ph hz
    unfold State.sendStream
    try dsimp only
    repeat' (first
      | with_reducible assumption
      | with_reducible apply ih
      | with_reducible apply State.updGrp_keeps
      | with_reducible apply State.sendChunk_keeps
      | (simp only [keeps_mk]; first | with_reducible apply KeepsParts.of | with_reducible apply KeepsParts.free | with_reducible apply KeepsParts.cut | with_reducible apply KeepsParts.cutMem | with_reducible apply KeepsParts.cutPoison | with_reducible apply KeepsParts.cutAll | with_reducible apply KeepsParts.said)
      | split
      | intro)

theorem State.sendAll_keeps {z0 : State} (s : State) (c : CollRec) (hz : Keeps z0 s) :
    Keeps z0 (State.sendAll s c) := by
  unfold State.sendAll
  try dsimp only
  repeat' (first
    | with_reducible assumption
    | with_reducible apply State.sendStream_keeps
    | with_reducible apply foldl_keeps
    | with_reducible apply foldl_fst_keeps
    | with_reducible apply foldl_snd_keeps
    | (simp only [keeps_mk]; first | with_reducible apply KeepsParts.of | with_reducible apply KeepsParts.free | with_reducible apply KeepsParts.cut | with_reducible apply KeepsParts.cutMem | with_reducible apply KeepsParts.cutPoison | with_reducible apply KeepsParts.cutAll | with_reducible apply KeepsParts.said)
    | split
    | intro)

theorem State.digestMismatch_keeps {z0 : State} (s : State) (c : CollRec) (j : Nat) (hz : Keeps z0 s) :
    Keeps z0 (State.digestMismatch s c j) := by
  unfold State.digestMismatch
  try dsimp only
  repeat' (first
    | with_reducible assumption
    | with_reducible apply State.irq_keeps
    | with_reducible apply State.count_keeps
    | with_reducible apply State.eventP_keeps
    | with_reducible apply State.updColl_keeps
    | (simp only [keeps_mk]; first | with_reducible apply KeepsParts.of | with_reducible apply KeepsParts.free | with_reducible apply KeepsParts.cut | with_reducible apply KeepsParts.cutMem | with_reducible apply KeepsParts.cutPoison | with_reducible apply KeepsParts.cutAll | with_reducible apply KeepsParts.said)
    | split
    | intro)

theorem State.compareDigests_keeps {z0 : State} (s : State) (c : CollRec) (hz : Keeps z0 s) :
    Keeps z0 (State.compareDigests s c) := by
  unfold State.compareDigests
  try dsimp only
  repeat' (first
    | with_reducible assumption
    | with_reducible apply State.updColl_keeps
    | with_reducible apply State.digestMismatch_keeps
    | with_reducible apply foldl_keeps
    | with_reducible apply foldl_fst_keeps
    | with_reducible apply foldl_snd_keeps
    | (simp only [keeps_mk]; first | with_reducible apply KeepsParts.of | with_reducible apply KeepsParts.free | with_reducible apply KeepsParts.cut | with_reducible apply KeepsParts.cutMem | with_reducible apply KeepsParts.cutPoison | with_reducible apply KeepsParts.cutAll | with_reducible apply KeepsParts.said)
    | split
    | intro)

theorem State.sendDigests_keeps {z0 : State} (s : State) (c : CollRec) (hz : Keeps z0 s) :
    Keeps z0 (State.sendDigests s c) := by
  unfold State.sendDigests
  try dsimp only
  repeat' (first
    | with_reducible assumption
    | with_reducible apply State.put_keeps
    | with_reducible apply State.updColl_keeps
    | with_reducible apply State.sendMember_keeps
    | with_reducible apply foldl_keeps
    | with_reducible apply foldl_fst_keeps
    | with_reducible apply foldl_snd_keeps
    | (simp only [keeps_mk]; first | with_reducible apply KeepsParts.of | with_reducible apply KeepsParts.free | with_reducible apply KeepsParts.cut | with_reducible apply KeepsParts.cutMem | with_reducible apply KeepsParts.cutPoison | with_reducible apply KeepsParts.cutAll | with_reducible apply KeepsParts.said)
    | split
    | intro)

theorem State.complete_keeps {z0 : State} (s : State) (c : CollRec) (hz : Keeps z0 s) :
    Keeps z0 (State.complete s c) := by
  unfold State.complete
  try dsimp only
  repeat' (first
    | with_reducible assumption
    | with_reducible apply State.count_keeps
    | with_reducible apply State.endColl_keeps
    | split
    | intro)

theorem State.writeRuns_keeps {z0 : State} : ∀ (x0 : List (Option Nat × Nat)) (s : State) (pois : Bool) (x1 : Nat) (x2 : List Byte), Keeps z0 s → Keeps z0 (State.writeRuns s pois x0 x1 x2) := by
  intro x0
  induction x0 with
  | nil =>
    intro s pois x1 x2 hz
    have ih := hz
    unfold State.writeRuns
    try dsimp only
    repeat' (first
      | with_reducible assumption
      | with_reducible apply ih
      | with_reducible apply State.writeMem_keeps
      | (simp only [keeps_mk]; first | with_reducible apply KeepsParts.of | with_reducible apply KeepsParts.free | with_reducible apply KeepsParts.cut | with_reducible apply KeepsParts.cutMem | with_reducible apply KeepsParts.cutPoison | with_reducible apply KeepsParts.cutAll | with_reducible apply KeepsParts.said)
      | split
      | intro)
  | cons e r ih =>
    intro s pois x1 x2 hz
    unfold State.writeRuns
    try dsimp only
    repeat' (first
      | with_reducible assumption
      | with_reducible apply ih
      | with_reducible apply State.writeMem_keeps
      | (simp only [keeps_mk]; first | with_reducible apply KeepsParts.of | with_reducible apply KeepsParts.free | with_reducible apply KeepsParts.cut | with_reducible apply KeepsParts.cutMem | with_reducible apply KeepsParts.cutPoison | with_reducible apply KeepsParts.cutAll | with_reducible apply KeepsParts.said)
      | split
      | intro)

theorem State.acceptChunk_keeps {z0 : State} (s : State) (c : CollRec) (key crc : Nat) (d : List Byte) (pois early : Bool) (hz : Keeps z0 s) :
    Keeps z0 (State.acceptChunk s c key crc d pois early) := by
  unfold State.acceptChunk
  try dsimp only
  repeat' (first
    | with_reducible assumption
    | with_reducible apply State.count_keeps
    | with_reducible apply State.updColl_keeps
    | with_reducible apply State.returnCredit_keeps
    | with_reducible apply State.writeRuns_keeps
    | (simp only [keeps_mk]; first | with_reducible apply KeepsParts.of | with_reducible apply KeepsParts.free | with_reducible apply KeepsParts.cut | with_reducible apply KeepsParts.cutMem | with_reducible apply KeepsParts.cutPoison | with_reducible apply KeepsParts.cutAll | with_reducible apply KeepsParts.said)
    | split
    | intro)

theorem State.nakChunk_keeps {z0 : State} (s : State) (c : CollRec) (key : Nat) (counts : Bool) (hz : Keeps z0 s) :
    Keeps z0 (State.nakChunk s c key counts) := by
  unfold State.nakChunk
  try dsimp only
  repeat' (first
    | with_reducible assumption
    | with_reducible apply State.updColl_keeps
    | with_reducible apply State.sendMember_keeps
    | (simp only [keeps_mk]; first | with_reducible apply KeepsParts.of | with_reducible apply KeepsParts.free | with_reducible apply KeepsParts.cut | with_reducible apply KeepsParts.cutMem | with_reducible apply KeepsParts.cutPoison | with_reducible apply KeepsParts.cutAll | with_reducible apply KeepsParts.said)
    | split
    | intro)

theorem State.settle_keeps {z0 : State} (s : State) (c : CollRec) (q : PartChunk) (hz : Keeps z0 s) :
    Keeps z0 (State.settle s c q) := by
  unfold State.settle
  try dsimp only
  repeat' (first
    | with_reducible assumption
    | with_reducible apply State.acceptChunk_keeps
    | with_reducible apply State.nakChunk_keeps
    | (simp only [keeps_mk]; first | with_reducible apply KeepsParts.of | with_reducible apply KeepsParts.free | with_reducible apply KeepsParts.cut | with_reducible apply KeepsParts.cutMem | with_reducible apply KeepsParts.cutPoison | with_reducible apply KeepsParts.cutAll | with_reducible apply KeepsParts.said)
    | split
    | intro)

theorem State.takePkt_keeps {z0 : State} (s : State) (c : CollRec) (p : Pkt) (hz : Keeps z0 s) :
    Keeps z0 (State.takePkt s c p) := by
  unfold State.takePkt
  try dsimp only
  repeat' (first
    | with_reducible assumption
    | with_reducible apply State.updColl_keeps
    | with_reducible apply State.returnCredit_keeps
    | with_reducible apply State.nakChunk_keeps
    | with_reducible apply State.settle_keeps
    | (simp only [keeps_mk]; first | with_reducible apply KeepsParts.of | with_reducible apply KeepsParts.free | with_reducible apply KeepsParts.cut | with_reducible apply KeepsParts.cutMem | with_reducible apply KeepsParts.cutPoison | with_reducible apply KeepsParts.cutAll | with_reducible apply KeepsParts.said)
    | split
    | intro)

theorem State.settleAll_keeps {z0 : State} (s : State) (c : CollRec) (hz : Keeps z0 s) :
    Keeps z0 (State.settleAll s c) := by
  unfold State.settleAll
  try dsimp only
  repeat' (first
    | with_reducible assumption
    | with_reducible apply State.settle_keeps
    | with_reducible apply foldl_keeps
    | with_reducible apply foldl_fst_keeps
    | with_reducible apply foldl_snd_keeps
    | (simp only [keeps_mk]; first | with_reducible apply KeepsParts.of | with_reducible apply KeepsParts.free | with_reducible apply KeepsParts.cut | with_reducible apply KeepsParts.cutMem | with_reducible apply KeepsParts.cutPoison | with_reducible apply KeepsParts.cutAll | with_reducible apply KeepsParts.said)
    | split
    | intro)

theorem State.ownCopy_keeps {z0 : State} (s0 : State) (c : CollRec) (src : Nat) (runs : List (Option Nat × Nat)) (n : Nat) (hz : Keeps z0 s0) :
    Keeps z0 (State.ownCopy s0 c src runs n) := by
  unfold State.ownCopy
  try dsimp only
  repeat' (first
    | with_reducible assumption
    | with_reducible apply State.readAll_keeps
    | with_reducible apply State.updColl_keeps
    | with_reducible apply State.writeRuns_keeps
    | (simp only [keeps_mk]; first | with_reducible apply KeepsParts.of | with_reducible apply KeepsParts.free | with_reducible apply KeepsParts.cut | with_reducible apply KeepsParts.cutMem | with_reducible apply KeepsParts.cutPoison | with_reducible apply KeepsParts.cutAll | with_reducible apply KeepsParts.said)
    | split
    | intro)

theorem State.ownShare_keeps {z0 : State} (s : State) (c : CollRec) (hz : Keeps z0 s) :
    Keeps z0 (State.ownShare s c) := by
  unfold State.ownShare
  try dsimp only
  repeat' (first
    | with_reducible assumption
    | with_reducible apply State.readAll_keeps
    | with_reducible apply State.writeMem_keeps
    | with_reducible apply State.updGrp_keeps
    | with_reducible apply State.updColl_keeps
    | with_reducible apply State.ownCopy_keeps
    | with_reducible apply foldl_keeps
    | with_reducible apply foldl_fst_keeps
    | with_reducible apply foldl_snd_keeps
    | (simp only [keeps_mk]; first | with_reducible apply KeepsParts.of | with_reducible apply KeepsParts.free | with_reducible apply KeepsParts.cut | with_reducible apply KeepsParts.cutMem | with_reducible apply KeepsParts.cutPoison | with_reducible apply KeepsParts.cutAll | with_reducible apply KeepsParts.said)
    | split
    | intro)

theorem State.openColl_keeps {z0 : State} (s : State) (c : CollRec) (hz : Keeps z0 s) :
    Keeps z0 (State.openColl s c) := by
  unfold State.openColl
  try dsimp only
  repeat' (first
    | with_reducible assumption
    | with_reducible apply State.updGrp_keeps
    | with_reducible apply State.updColl_keeps
    | with_reducible apply State.sendMember_keeps
    | with_reducible apply State.takePkt_keeps
    | with_reducible apply State.ownShare_keeps
    | with_reducible apply foldl_keeps
    | with_reducible apply foldl_fst_keeps
    | with_reducible apply foldl_snd_keeps
    | (simp only [keeps_mk]; first | with_reducible apply KeepsParts.of | with_reducible apply KeepsParts.free | with_reducible apply KeepsParts.cut | with_reducible apply KeepsParts.cutMem | with_reducible apply KeepsParts.cutPoison | with_reducible apply KeepsParts.cutAll | with_reducible apply KeepsParts.said)
    | split
    | intro)

theorem State.goOn_keeps {z0 : State} (s : State) (g sq : Nat) (hz : Keeps z0 s) : Keeps z0 (State.goOn s g sq) := by
  have on : ∀ (f : State → CollRec → State), (∀ t c, Keeps z0 t → Keeps z0 (f t c)) → ∀ t : State, Keeps z0 t →
      Keeps z0 (match t.findColl g sq with | some c => f t c | none => t) := by
    intro f hf t h
    split
    · exact hf _ _ h
    · exact h
  have gate : ∀ (f : State → CollRec → State) (b : State → CollRec → Bool), (∀ t c, Keeps z0 t → Keeps z0 (f t c)) → ∀ (t : State) (c : CollRec),
      Keeps z0 t → Keeps z0 (if b t c then f t c else t) := by
    intro f b hf t c h
    split
    · exact hf _ _ h
    · exact h
  exact on (fun t c => t.complete c) (fun t c => State.complete_keeps t c) _
    (on (fun t c => if c.opened then t.sendDigests c else t) (gate State.sendDigests (fun _ c => c.opened) (fun t c => State.sendDigests_keeps t c)) _
    (on (fun t c => t.compareDigests c) (fun t c => State.compareDigests_keeps t c) _
    (on (fun t c => if c.posted && !t.ceHeld c then t.sendAll c else t)
      (gate State.sendAll (fun t c => c.posted && !t.ceHeld c) (fun t c => State.sendAll_keeps t c)) _
    (on (fun t c => if c.opened && !t.ceHeld c then t.sumShard c else t)
      (gate State.sumShard (fun t c => c.opened && !t.ceHeld c) (fun t c => State.sumShard_keeps t c)) _
    (on (fun t c => if c.opened then t.sumSuit c else t) (gate State.sumSuit (fun _ c => c.opened) (fun t c => State.sumSuit_keeps t c)) _
    (on (fun t c => if c.opened then t.settleAll c else t) (gate State.settleAll (fun _ c => c.opened) (fun t c => State.settleAll_keeps t c)) _
    (on (fun t c => if c.posted && !c.opened && (!c.needsCounts || t.countsHere c) && !t.ceHeld c then t.openColl c else t)
      (gate State.openColl (fun t c => c.posted && !c.opened && (!c.needsCounts || t.countsHere c) && !t.ceHeld c)
        (fun t c => State.openColl_keeps t c)) _ hz)))))))

theorem State.postNext_keeps {z0 : State} : ∀ (x0 : Nat) (s : State) (g : Nat) , Keeps z0 s → Keeps z0 (State.postNext s g x0) := by
  intro x0
  induction x0 with
  | zero =>
    intro s g hz
    have ih := hz
    unfold State.postNext
    try dsimp only
    repeat' (first
      | with_reducible assumption
      | with_reducible apply ih
      | with_reducible apply State.updColl_keeps
      | with_reducible apply State.sendMember_keeps
      | with_reducible apply State.goOn_keeps
      | with_reducible apply foldl_keeps
      | with_reducible apply foldl_fst_keeps
      | with_reducible apply foldl_snd_keeps
      | (simp only [keeps_mk]; first | with_reducible apply KeepsParts.of | with_reducible apply KeepsParts.free | with_reducible apply KeepsParts.cut | with_reducible apply KeepsParts.cutMem | with_reducible apply KeepsParts.cutPoison | with_reducible apply KeepsParts.cutAll | with_reducible apply KeepsParts.said)
      | split
      | intro)
  | succ n ih =>
    intro s g hz
    unfold State.postNext
    try dsimp only
    repeat' (first
      | with_reducible assumption
      | with_reducible apply ih
      | with_reducible apply State.updColl_keeps
      | with_reducible apply State.sendMember_keeps
      | with_reducible apply State.goOn_keeps
      | with_reducible apply foldl_keeps
      | with_reducible apply foldl_fst_keeps
      | with_reducible apply foldl_snd_keeps
      | (simp only [keeps_mk]; first | with_reducible apply KeepsParts.of | with_reducible apply KeepsParts.free | with_reducible apply KeepsParts.cut | with_reducible apply KeepsParts.cutMem | with_reducible apply KeepsParts.cutPoison | with_reducible apply KeepsParts.cutAll | with_reducible apply KeepsParts.said)
      | split
      | intro)

theorem State.moveOn_keeps {z0 : State} (s : State) (g sq : Nat) (hz : Keeps z0 s) :
    Keeps z0 (State.moveOn s g sq) := by
  unfold State.moveOn
  try dsimp only
  repeat' (first
    | with_reducible assumption
    | with_reducible apply State.goOn_keeps
    | with_reducible apply State.postNext_keeps
    | split
    | intro)

theorem State.resumeColls_keeps {z0 : State} (s : State) (hz : Keeps z0 s) :
    Keeps z0 (State.resumeColls s) := by
  unfold State.resumeColls
  try dsimp only
  repeat' (first
    | with_reducible assumption
    | with_reducible apply State.moveOn_keeps
    | with_reducible apply foldl_keeps
    | with_reducible apply foldl_fst_keeps
    | with_reducible apply foldl_snd_keeps
    | split
    | intro)

theorem State.takeSeq_keeps {z0 : State} (s : State) (g : Nat) (hz : Keeps z0 s) :
    Keeps z0 (State.takeSeq s g) := by
  unfold State.takeSeq
  try dsimp only
  repeat' (first
    | with_reducible assumption
    | with_reducible apply State.setGrp_keeps
    | split
    | intro)

theorem State.acceptLane_keeps {z0 : State} (s0 : State) (e : Nat) (l : Lane) (hz : Keeps z0 s0) :
    Keeps z0 (State.acceptLane s0 e l) := by
  unfold State.acceptLane
  try dsimp only
  repeat' (first
    | with_reducible assumption
    | with_reducible apply State.readAll_keeps
    | with_reducible apply State.showAccepted_keeps
    | with_reducible apply State.postNext_keeps
    | with_reducible apply State.takeSeq_keeps
    | (simp only [keeps_mk]; first | with_reducible apply KeepsParts.of | with_reducible apply KeepsParts.free | with_reducible apply KeepsParts.cut | with_reducible apply KeepsParts.cutMem | with_reducible apply KeepsParts.cutPoison | with_reducible apply KeepsParts.cutAll | with_reducible apply KeepsParts.said)
    | split
    | intro)

theorem State.ceRun_keeps {z0 : State} (s : State) (u : UnitId) (covers : Nat → Bool) (hz : Keeps z0 s) :
    Keeps z0 (State.ceRun s u covers) := by
  unfold State.ceRun
  try dsimp only
  repeat' (first
    | with_reducible assumption
    | with_reducible apply State.endCeLane_keeps
    | with_reducible apply State.cancelAt_keeps
    | with_reducible apply State.takeSeq_keeps
    | with_reducible apply State.acceptLane_keeps
    | (simp only [keeps_mk]; first | with_reducible apply KeepsParts.of | with_reducible apply KeepsParts.free | with_reducible apply KeepsParts.cut | with_reducible apply KeepsParts.cutMem | with_reducible apply KeepsParts.cutPoison | with_reducible apply KeepsParts.cutAll | with_reducible apply KeepsParts.said)
    | split
    | intro)

end Sys2Proof.Machine
end

