-- ==== Sys2Proof/Laws/KeepsD.lean ====
section
/-!
SUPPORT. What the operations of Matrix, Attention, Elementwise keep.
-/
set_option linter.unusedTactic false
set_option linter.unreachableTactic false
set_option linter.unusedVariables false

namespace Sys2Proof.Machine

theorem State.mtRow_keeps {z0 : State} (s : State) (u : UnitId) (l : Lane) (o : MtOps) (m w : Nat) (hz : Keeps z0 s) :
    Keeps z0 (State.mtRow s u l o m w).1 := by
  unfold State.mtRow
  try dsimp only
  repeat' (first
    | with_reducible assumption
    | with_reducible apply State.count_keeps
    | with_reducible apply State.writeMem_keeps
    | with_reducible apply State.writeCodes_keeps
    | with_reducible apply State.draws_keeps
    | split
    | intro)

theorem State.mtJob_keeps  (s : State) (l : Lane)  :
    (State.mtJob s l).Good := by
  intro z0 t h
  unfold State.mtJob
  try dsimp only
  repeat' (first
    | with_reducible assumption
    | with_reducible exact h
    | with_reducible dsimp only [Job.bad]
    | with_reducible apply State.irq_keeps
    | with_reducible apply State.count_keeps
    | with_reducible apply State.mtRow_keeps
    | with_reducible apply foldl_keeps
    | with_reducible apply foldl_fst_keeps
    | with_reducible apply foldl_snd_keeps
    | split
    | intro)

theorem State.runMt_keeps {z0 : State} (s : State) (u : UnitId) (covers : Nat → Bool) (ev : LaneEv) (hz : Keeps z0 s) :
    Keeps z0 (State.runMt s u covers ev) := by
  unfold State.runMt
  try dsimp only
  repeat' (first
    | with_reducible assumption
    | with_reducible apply State.runJob_keeps
    | with_reducible apply State.correct_keeps
    | with_reducible apply State.mtJob_keeps
    | split
    | intro)

theorem execMtMm_keeps {z0 : State} (u : UnitId) (ev : LaneEv) (s : State) (hz : Keeps z0 s) :
    KeepsO z0 (execMtMm u ev s) := by
  unfold execMtMm
  try dsimp only
  repeat' (first
    | with_reducible assumption
    | with_reducible apply KeepsO.next
    | with_reducible apply atUnit_keeps
    | with_reducible apply State.runMt_keeps
    | split
    | intro)

theorem execMtMmCb_keeps {z0 : State} (u : UnitId) (ev : LaneEv) (s : State) (hz : Keeps z0 s) :
    KeepsO z0 (execMtMmCb u ev s) := by
  unfold execMtMmCb
  try dsimp only
  repeat' (first
    | with_reducible assumption
    | with_reducible apply KeepsO.next
    | with_reducible apply atUnit_keeps
    | with_reducible apply State.runMt_keeps
    | split
    | intro)

theorem execMtMmGrouped_keeps {z0 : State} (u : UnitId) (ev : LaneEv) (s : State) (hz : Keeps z0 s) :
    KeepsO z0 (execMtMmGrouped u ev s) := by
  unfold execMtMmGrouped
  try dsimp only
  repeat' (first
    | with_reducible assumption
    | with_reducible apply KeepsO.next
    | with_reducible apply atUnit_keeps
    | with_reducible apply State.runMt_keeps
    | split
    | intro)

theorem State.aeFinal_keeps {z0 : State} (s : State) (u : UnitId) (l : Lane) (o : AeOps) (row q : Nat) (v : List Nat) (hz : Keeps z0 s) :
    Keeps z0 (State.aeFinal s u l o row q v) := by
  unfold State.aeFinal
  try dsimp only
  repeat' (first
    | with_reducible assumption
    | with_reducible apply State.count_keeps
    | with_reducible apply State.writeMem_keeps
    | with_reducible apply State.writeCodes_keeps
    | split
    | intro)

theorem State.aePartial_keeps {z0 : State} (s : State) (u : UnitId) (oa la : Nat) (v : List Nat) (lse : Nat) (hz : Keeps z0 s) :
    Keeps z0 (State.aePartial s u oa la v lse) := by
  unfold State.aePartial
  try dsimp only
  repeat' (first
    | with_reducible assumption
    | with_reducible apply State.count_keeps
    | with_reducible apply State.writeMem_keeps
    | split
    | intro)

theorem State.glance_keeps {z0 : State} (s : State) (u : UnitId) (p : Nat) (o : AeOps) (e : STEntry) (g n : Nat) (hz : Keeps z0 s) :
    Keeps z0 (State.glance s u p o e g n) := by
  unfold State.glance
  try dsimp only
  repeat' (first
    | with_reducible assumption
    | with_reducible apply State.count_keeps
    | with_reducible apply State.lookupRead_keeps
    | (simp only [keeps_mk]; first | with_reducible apply KeepsParts.of | with_reducible apply KeepsParts.free | with_reducible apply KeepsParts.cut | with_reducible apply KeepsParts.cutMem | with_reducible apply KeepsParts.cutPoison | with_reducible apply KeepsParts.cutAll | with_reducible apply KeepsParts.said)
    | split
    | intro)

theorem State.touch_keeps {z0 : State} (s : State) (u : UnitId) (p : Nat) (o : AeOps) (e : STEntry) (g n kv : Nat) (hz : Keeps z0 s) :
    Keeps z0 (State.touch s u p o e g n kv) := by
  unfold State.touch
  try dsimp only
  repeat' (first
    | with_reducible assumption
    | with_reducible apply State.count_keeps
    | with_reducible apply State.lookupRead_keeps
    | with_reducible apply State.promote_keeps
    | (simp only [keeps_mk]; first | with_reducible apply KeepsParts.of | with_reducible apply KeepsParts.free | with_reducible apply KeepsParts.cut | with_reducible apply KeepsParts.cutMem | with_reducible apply KeepsParts.cutPoison | with_reducible apply KeepsParts.cutAll | with_reducible apply KeepsParts.said)
    | split
    | intro)

theorem State.attnUnit_keeps {z0 : State} (s : State) (u : UnitId) (l : Lane) (o : AeOps) (x : AeUnit) (hz : Keeps z0 s) :
    Keeps z0 (State.attnUnit s u l o x).1 := by
  unfold State.attnUnit
  try dsimp only
  repeat' (first
    | with_reducible assumption
    | with_reducible apply State.aeFinal_keeps
    | with_reducible apply State.aePartial_keeps
    | with_reducible apply State.touch_keeps
    | with_reducible apply foldl_keeps
    | with_reducible apply foldl_fst_keeps
    | with_reducible apply foldl_snd_keeps
    | split
    | intro)

theorem State.summariseUnit_keeps {z0 : State} (s : State) (u : UnitId) (l : Lane) (o : AeOps) (x : AeUnit) (hz : Keeps z0 s) :
    Keeps z0 (State.summariseUnit s u l o x).1 := by
  unfold State.summariseUnit
  try dsimp only
  repeat' (first
    | with_reducible assumption
    | with_reducible apply State.count_keeps
    | with_reducible apply State.writeMem_keeps
    | with_reducible apply State.touch_keeps
    | with_reducible apply foldl_keeps
    | with_reducible apply foldl_fst_keeps
    | with_reducible apply foldl_snd_keeps
    | (simp only [keeps_mk]; first | with_reducible apply KeepsParts.of | with_reducible apply KeepsParts.free | with_reducible apply KeepsParts.cut | with_reducible apply KeepsParts.cutMem | with_reducible apply KeepsParts.cutPoison | with_reducible apply KeepsParts.cutAll | with_reducible apply KeepsParts.said)
    | split
    | intro)

theorem State.scoreUnit_keeps {z0 : State} (s : State) (u : UnitId) (l : Lane) (o : AeOps) (x : AeUnit) (hz : Keeps z0 s) :
    Keeps z0 (State.scoreUnit s u l o x).1 := by
  unfold State.scoreUnit
  try dsimp only
  repeat' (first
    | with_reducible assumption
    | with_reducible apply State.irq_keeps
    | with_reducible apply State.count_keeps
    | with_reducible apply State.writeMem_keeps
    | with_reducible apply State.glance_keeps
    | with_reducible apply foldl_keeps
    | with_reducible apply foldl_fst_keeps
    | with_reducible apply foldl_snd_keeps
    | (simp only [keeps_mk]; first | with_reducible apply KeepsParts.of | with_reducible apply KeepsParts.free | with_reducible apply KeepsParts.cut | with_reducible apply KeepsParts.cutMem | with_reducible apply KeepsParts.cutPoison | with_reducible apply KeepsParts.cutAll | with_reducible apply KeepsParts.said)
    | split
    | intro)

theorem State.pickUnit_keeps {z0 : State} (s : State) (u : UnitId) (l : Lane) (o : AeOps) (x : AeUnit) (hz : Keeps z0 s) :
    Keeps z0 (State.pickUnit s u l o x).1 := by
  unfold State.pickUnit
  try dsimp only
  repeat' (first
    | with_reducible assumption
    | with_reducible apply State.count_keeps
    | with_reducible apply State.writeMem_keeps
    | with_reducible apply State.glance_keeps
    | with_reducible apply foldl_keeps
    | with_reducible apply foldl_fst_keeps
    | with_reducible apply foldl_snd_keeps
    | split
    | intro)

theorem State.mergeUnit_keeps {z0 : State} (s : State) (u : UnitId) (l : Lane) (o : AeOps) (x : AeUnit) (hz : Keeps z0 s) :
    Keeps z0 (State.mergeUnit s u l o x).1 := by
  unfold State.mergeUnit
  try dsimp only
  repeat' (first
    | with_reducible assumption
    | with_reducible apply State.aeFinal_keeps
    | with_reducible apply State.aePartial_keeps
    | with_reducible apply foldl_keeps
    | with_reducible apply foldl_fst_keeps
    | with_reducible apply foldl_snd_keeps
    | split
    | intro)

theorem State.aeUnit_keeps {z0 : State} (s : State) (u : UnitId) (l : Lane) (o : AeOps) (x : AeUnit) (hz : Keeps z0 s) :
    Keeps z0 (State.aeUnit s u l o x).1 := by
  unfold State.aeUnit
  try dsimp only
  repeat' (first
    | with_reducible assumption
    | with_reducible apply State.attnUnit_keeps
    | with_reducible apply State.summariseUnit_keeps
    | with_reducible apply State.scoreUnit_keeps
    | with_reducible apply State.pickUnit_keeps
    | with_reducible apply State.mergeUnit_keeps
    | (simp only [keeps_mk]; first | with_reducible apply KeepsParts.of | with_reducible apply KeepsParts.free | with_reducible apply KeepsParts.cut | with_reducible apply KeepsParts.cutMem | with_reducible apply KeepsParts.cutPoison | with_reducible apply KeepsParts.cutAll | with_reducible apply KeepsParts.said)
    | split
    | intro)

theorem State.aeRun_keeps {z0 : State} : ∀ (x0 : List AeUnit) (s : State) (u : UnitId) (l : Lane) (o : AeOps) (x1 : Nat), Keeps z0 s → Keeps z0 (State.aeRun s u l o x0 x1).1 := by
  intro x0
  induction x0 with
  | nil =>
    intro s u l o x1 hz
    have ih := hz
    unfold State.aeRun
    try dsimp only
    repeat' (first
      | with_reducible assumption
      | with_reducible apply ih
      | with_reducible apply State.count_keeps
      | with_reducible apply State.aeUnit_keeps
      | (simp only [keeps_mk]; first | with_reducible apply KeepsParts.of | with_reducible apply KeepsParts.free | with_reducible apply KeepsParts.cut | with_reducible apply KeepsParts.cutMem | with_reducible apply KeepsParts.cutPoison | with_reducible apply KeepsParts.cutAll | with_reducible apply KeepsParts.said)
      | split
      | intro)
  | cons e r ih =>
    intro s u l o x1 hz
    unfold State.aeRun
    try dsimp only
    repeat' (first
      | with_reducible assumption
      | with_reducible apply ih
      | with_reducible apply State.count_keeps
      | with_reducible apply State.aeUnit_keeps
      | (simp only [keeps_mk]; first | with_reducible apply KeepsParts.of | with_reducible apply KeepsParts.free | with_reducible apply KeepsParts.cut | with_reducible apply KeepsParts.cutMem | with_reducible apply KeepsParts.cutPoison | with_reducible apply KeepsParts.cutAll | with_reducible apply KeepsParts.said)
      | split
      | intro)

theorem State.aeJob_keeps  (s : State) (l : Lane)  :
    (State.aeJob s l).Good := by
  intro z0 t h
  unfold State.aeJob
  try dsimp only
  repeat' (first
    | with_reducible assumption
    | with_reducible exact h
    | with_reducible dsimp only [Job.bad]
    | with_reducible apply State.aeRun_keeps
    | (simp only [keeps_mk]; first | with_reducible apply KeepsParts.of | with_reducible apply KeepsParts.free | with_reducible apply KeepsParts.cut | with_reducible apply KeepsParts.cutMem | with_reducible apply KeepsParts.cutPoison | with_reducible apply KeepsParts.cutAll | with_reducible apply KeepsParts.said)
    | split
    | intro)

theorem State.runAe_keeps {z0 : State} (s : State) (u : UnitId) (covers : Nat → Bool) (ev : LaneEv) (hz : Keeps z0 s) :
    Keeps z0 (State.runAe s u covers ev) := by
  unfold State.runAe
  try dsimp only
  repeat' (first
    | with_reducible assumption
    | with_reducible apply State.runJob_keeps
    | with_reducible apply State.correct_keeps
    | with_reducible apply State.aeJob_keeps
    | split
    | intro)

theorem execAttn_keeps {z0 : State} (u : UnitId) (ev : LaneEv) (s : State) (hz : Keeps z0 s) :
    KeepsO z0 (execAttn u ev s) := by
  unfold execAttn
  try dsimp only
  repeat' (first
    | with_reducible assumption
    | with_reducible apply KeepsO.next
    | with_reducible apply atUnit_keeps
    | with_reducible apply State.runAe_keeps
    | split
    | intro)

theorem execSummarise_keeps {z0 : State} (u : UnitId) (ev : LaneEv) (s : State) (hz : Keeps z0 s) :
    KeepsO z0 (execSummarise u ev s) := by
  unfold execSummarise
  try dsimp only
  repeat' (first
    | with_reducible assumption
    | with_reducible apply KeepsO.next
    | with_reducible apply atUnit_keeps
    | with_reducible apply State.runAe_keeps
    | split
    | intro)

theorem execScore_keeps {z0 : State} (u : UnitId) (ev : LaneEv) (s : State) (hz : Keeps z0 s) :
    KeepsO z0 (execScore u ev s) := by
  unfold execScore
  try dsimp only
  repeat' (first
    | with_reducible assumption
    | with_reducible apply KeepsO.next
    | with_reducible apply atUnit_keeps
    | with_reducible apply State.runAe_keeps
    | split
    | intro)

theorem execPick_keeps {z0 : State} (u : UnitId) (ev : LaneEv) (s : State) (hz : Keeps z0 s) :
    KeepsO z0 (execPick u ev s) := by
  unfold execPick
  try dsimp only
  repeat' (first
    | with_reducible assumption
    | with_reducible apply KeepsO.next
    | with_reducible apply atUnit_keeps
    | with_reducible apply State.runAe_keeps
    | split
    | intro)

theorem execMerge_keeps {z0 : State} (u : UnitId) (ev : LaneEv) (s : State) (hz : Keeps z0 s) :
    KeepsO z0 (execMerge u ev s) := by
  unfold execMerge
  try dsimp only
  repeat' (first
    | with_reducible assumption
    | with_reducible apply KeepsO.next
    | with_reducible apply atUnit_keeps
    | with_reducible apply State.runAe_keeps
    | split
    | intro)

theorem State.prefetch_keeps {z0 : State} (s : State) (l : Lane) (hg : Nat) (hz : Keeps z0 s) :
    Keeps z0 (State.prefetch s l hg).1 := by
  unfold State.prefetch
  try dsimp only
  repeat' (first
    | with_reducible assumption
    | with_reducible apply State.promote_keeps
    | with_reducible apply foldl_keeps
    | with_reducible apply foldl_fst_keeps
    | with_reducible apply foldl_snd_keeps
    | (simp only [keeps_mk]; first | with_reducible apply KeepsParts.of | with_reducible apply KeepsParts.free | with_reducible apply KeepsParts.cut | with_reducible apply KeepsParts.cutMem | with_reducible apply KeepsParts.cutPoison | with_reducible apply KeepsParts.cutAll | with_reducible apply KeepsParts.said)
    | split
    | intro)

theorem execPrefetch_keeps {z0 : State} (u : UnitId) (s : State) (hz : Keeps z0 s) :
    KeepsO z0 (execPrefetch u s) := by
  unfold execPrefetch
  try dsimp only
  repeat' (first
    | with_reducible assumption
    | with_reducible apply KeepsO.next
    | with_reducible apply atUnit_keeps
    | with_reducible apply State.runLane_keeps
    | with_reducible apply State.irq_keeps
    | with_reducible apply State.readAll_keeps
    | with_reducible apply State.prefetch_keeps
    | (simp only [keeps_mk]; first | with_reducible apply KeepsParts.of | with_reducible apply KeepsParts.free | with_reducible apply KeepsParts.cut | with_reducible apply KeepsParts.cutMem | with_reducible apply KeepsParts.cutPoison | with_reducible apply KeepsParts.cutAll | with_reducible apply KeepsParts.said)
    | split
    | intro)

theorem execSummaryRecompute_keeps {z0 : State} (part slot n : Nat) (s : State) (hz : Keeps z0 s) :
    KeepsO z0 (execSummaryRecompute part slot n s) := by
  unfold execSummaryRecompute
  try dsimp only
  repeat' (first
    | with_reducible assumption
    | with_reducible apply KeepsO.next
    | with_reducible apply State.setPge_keeps
    | with_reducible apply State.readAll_keeps
    | with_reducible apply State.writeMem_keeps
    | with_reducible apply foldl_keeps
    | with_reducible apply foldl_fst_keeps
    | with_reducible apply foldl_snd_keeps
    | (simp only [keeps_mk]; first | with_reducible apply KeepsParts.of | with_reducible apply KeepsParts.free | with_reducible apply KeepsParts.cut | with_reducible apply KeepsParts.cutMem | with_reducible apply KeepsParts.cutPoison | with_reducible apply KeepsParts.cutAll | with_reducible apply KeepsParts.said)
    | split
    | intro)

theorem State.writeRow_keeps {z0 : State} (s : State) (f : Fmt) (blocked sat ceil : Bool) (a sa : Nat) (v : List Nat) (ds : List (Option Nat)) (hz : Keeps z0 s) :
    Keeps z0 (State.writeRow s f blocked sat ceil a sa v ds).1 := by
  unfold State.writeRow
  try dsimp only
  repeat' (first
    | with_reducible assumption
    | with_reducible apply State.writeMem_keeps
    | with_reducible apply State.writeCodes_keeps
    | split
    | intro)

theorem State.ewStep_keeps {z0 : State} (s : State) (u : UnitId) (l : Lane) (o : EwOps) (r : Nat) (hz : Keeps z0 s) :
    Keeps z0 (State.ewStep s u l o r).1 := by
  unfold State.ewStep
  try dsimp only
  repeat' (first
    | with_reducible assumption
    | with_reducible apply State.count_keeps
    | with_reducible apply State.writeCodes_keeps
    | with_reducible apply State.writeRow_keeps
    | split
    | intro)

theorem State.ewJob_keeps  (s : State) (l : Lane)  :
    (State.ewJob s l).Good := by
  intro z0 t h
  unfold State.ewJob
  try dsimp only
  repeat' (first
    | with_reducible assumption
    | with_reducible exact h
    | with_reducible dsimp only [Job.bad]
    | with_reducible apply State.ewStep_keeps
    | with_reducible apply foldl_keeps
    | with_reducible apply foldl_fst_keeps
    | with_reducible apply foldl_snd_keeps
    | (simp only [keeps_mk]; first | with_reducible apply KeepsParts.of | with_reducible apply KeepsParts.free | with_reducible apply KeepsParts.cut | with_reducible apply KeepsParts.cutMem | with_reducible apply KeepsParts.cutPoison | with_reducible apply KeepsParts.cutAll | with_reducible apply KeepsParts.said)
    | split
    | intro)

theorem State.runEw_keeps {z0 : State} (s : State) (u : UnitId) (covers : Nat → Bool) (ev : LaneEv) (hz : Keeps z0 s) :
    Keeps z0 (State.runEw s u covers ev) := by
  unfold State.runEw
  try dsimp only
  repeat' (first
    | with_reducible assumption
    | with_reducible apply State.runJob_keeps
    | with_reducible apply State.correct_keeps
    | with_reducible apply State.ewJob_keeps
    | split
    | intro)

theorem execNorm_keeps {z0 : State} (u : UnitId) (ev : LaneEv) (s : State) (hz : Keeps z0 s) :
    KeepsO z0 (execNorm u ev s) := by
  unfold execNorm
  try dsimp only
  repeat' (first
    | with_reducible assumption
    | with_reducible apply KeepsO.next
    | with_reducible apply atUnit_keeps
    | with_reducible apply State.runEw_keeps
    | split
    | intro)

theorem execAct_keeps {z0 : State} (u : UnitId) (ev : LaneEv) (s : State) (hz : Keeps z0 s) :
    KeepsO z0 (execAct u ev s) := by
  unfold execAct
  try dsimp only
  repeat' (first
    | with_reducible assumption
    | with_reducible apply KeepsO.next
    | with_reducible apply atUnit_keeps
    | with_reducible apply State.runEw_keeps
    | split
    | intro)

theorem execGated_keeps {z0 : State} (u : UnitId) (ev : LaneEv) (s : State) (hz : Keeps z0 s) :
    KeepsO z0 (execGated u ev s) := by
  unfold execGated
  try dsimp only
  repeat' (first
    | with_reducible assumption
    | with_reducible apply KeepsO.next
    | with_reducible apply atUnit_keeps
    | with_reducible apply State.runEw_keeps
    | split
    | intro)

theorem execAdd_keeps {z0 : State} (u : UnitId) (ev : LaneEv) (s : State) (hz : Keeps z0 s) :
    KeepsO z0 (execAdd u ev s) := by
  unfold execAdd
  try dsimp only
  repeat' (first
    | with_reducible assumption
    | with_reducible apply KeepsO.next
    | with_reducible apply atUnit_keeps
    | with_reducible apply State.runEw_keeps
    | split
    | intro)

theorem execRope_keeps {z0 : State} (u : UnitId) (ev : LaneEv) (s : State) (hz : Keeps z0 s) :
    KeepsO z0 (execRope u ev s) := by
  unfold execRope
  try dsimp only
  repeat' (first
    | with_reducible assumption
    | with_reducible apply KeepsO.next
    | with_reducible apply atUnit_keeps
    | with_reducible apply State.runEw_keeps
    | split
    | intro)

end Sys2Proof.Machine
end

