-- ==== Sys2Proof/Laws/KeepsE.lean ====
section
/-!
SUPPORT. What the operations of Shuffle, Router, Sampling, UtilityCore, Dma, LaneOuts keep.
-/
set_option linter.unusedTactic false
set_option linter.unreachableTactic false
set_option linter.unusedVariables false

namespace Sys2Proof.Machine

theorem State.shfCount_keeps {z0 : State} (s : State) (u : UnitId) (cs : List Conv) (hz : Keeps z0 s) :
    Keeps z0 (State.shfCount s u cs) := by
  unfold State.shfCount
  try dsimp only
  repeat' (first
    | with_reducible assumption
    | with_reducible apply State.count_keeps
    | split
    | intro)

theorem State.copyRow_keeps {z0 : State} (s : State) (u : UnitId) (l : Lane) (o : ShfOps) (r : Nat) (hz : Keeps z0 s) :
    Keeps z0 (State.copyRow s u l o r) := by
  unfold State.copyRow
  try dsimp only
  repeat' (first
    | with_reducible assumption
    | with_reducible apply State.writeMem_keeps
    | with_reducible apply State.writeCodes_keeps
    | with_reducible apply State.shfCount_keeps
    | with_reducible apply foldl_keeps
    | with_reducible apply foldl_fst_keeps
    | with_reducible apply foldl_snd_keeps
    | split
    | intro)

theorem State.quantRow_keeps {z0 : State} (s : State) (u : UnitId) (l : Lane) (o : ShfOps) (r : Nat) (hz : Keeps z0 s) :
    Keeps z0 (State.quantRow s u l o r) := by
  unfold State.quantRow
  try dsimp only
  repeat' (first
    | with_reducible assumption
    | with_reducible apply State.count_keeps
    | with_reducible apply State.draws_keeps
    | with_reducible apply State.writeRow_keeps
    | split
    | intro)

theorem State.gatherRow_keeps {z0 : State} (s : State) (u : UnitId) (l : Lane) (o : ShfOps) (i : Nat) (hz : Keeps z0 s) :
    Keeps z0 (State.gatherRow s u l o i) := by
  unfold State.gatherRow
  try dsimp only
  repeat' (first
    | with_reducible assumption
    | with_reducible apply State.writeCodes_keeps
    | with_reducible apply State.shfCount_keeps
    | (simp only [keeps_mk]; first | with_reducible apply KeepsParts.of | with_reducible apply KeepsParts.free | with_reducible apply KeepsParts.cut | with_reducible apply KeepsParts.cutMem | with_reducible apply KeepsParts.cutPoison | with_reducible apply KeepsParts.cutAll | with_reducible apply KeepsParts.said)
    | split
    | intro)

theorem State.scatterRow_keeps {z0 : State} (s : State) (u : UnitId) (l : Lane) (o : ShfOps) (i : Nat) (hz : Keeps z0 s) :
    Keeps z0 (State.scatterRow s u l o i) := by
  unfold State.scatterRow
  try dsimp only
  repeat' (first
    | with_reducible assumption
    | with_reducible apply State.writeCodes_keeps
    | with_reducible apply State.shfCount_keeps
    | (simp only [keeps_mk]; first | with_reducible apply KeepsParts.of | with_reducible apply KeepsParts.free | with_reducible apply KeepsParts.cut | with_reducible apply KeepsParts.cutMem | with_reducible apply KeepsParts.cutPoison | with_reducible apply KeepsParts.cutAll | with_reducible apply KeepsParts.said)
    | split
    | intro)

theorem State.kvLookup_keeps {z0 : State} (s : State) (p : Nat) (o : ShfOps) (e : STEntry) (g n : Nat) (hz : Keeps z0 s) :
    Keeps z0 (State.kvLookup s p o e g n).2 := by
  unfold State.kvLookup
  try dsimp only
  repeat' (first
    | with_reducible assumption
    | with_reducible apply State.lookupWrite_keeps
    | (simp only [keeps_mk]; first | with_reducible apply KeepsParts.of | with_reducible apply KeepsParts.free | with_reducible apply KeepsParts.cut | with_reducible apply KeepsParts.cutMem | with_reducible apply KeepsParts.cutPoison | with_reducible apply KeepsParts.cutAll | with_reducible apply KeepsParts.said)
    | split
    | intro)

theorem State.kvTranslate_keeps {z0 : State} (s : State) (p : Nat) (o : ShfOps) (us : List (Nat × Nat)) (hz : Keeps z0 s) :
    Keeps z0 (State.kvTranslate s p o us) := by
  unfold State.kvTranslate
  try dsimp only
  repeat' (first
    | with_reducible assumption
    | with_reducible apply State.kvLookup_keeps
    | with_reducible apply foldl_keeps
    | with_reducible apply foldl_fst_keeps
    | with_reducible apply foldl_snd_keeps
    | split
    | intro)

theorem State.kvPage_keeps {z0 : State} (s : State) (u : UnitId) (l : Lane) (o : ShfOps) (e : STEntry) (g n f : Nat) (hz : Keeps z0 s) :
    Keeps z0 (State.kvPage s u l o e g n f) := by
  unfold State.kvPage
  try dsimp only
  repeat' (first
    | with_reducible assumption
    | with_reducible apply State.count_keeps
    | with_reducible apply State.writeMem_keeps
    | with_reducible apply State.writeCodes_keeps
    | with_reducible apply State.draws_keeps
    | with_reducible apply State.shfCount_keeps
    | with_reducible apply foldl_keeps
    | with_reducible apply foldl_fst_keeps
    | with_reducible apply foldl_snd_keeps
    | (simp only [keeps_mk]; first | with_reducible apply KeepsParts.of | with_reducible apply KeepsParts.free | with_reducible apply KeepsParts.cut | with_reducible apply KeepsParts.cutMem | with_reducible apply KeepsParts.cutPoison | with_reducible apply KeepsParts.cutAll | with_reducible apply KeepsParts.said)
    | split
    | intro)

theorem State.kvUnit_keeps {z0 : State} (s : State) (u : UnitId) (l : Lane) (o : ShfOps) (x : Nat × Nat) (hz : Keeps z0 s) :
    Keeps z0 (State.kvUnit s u l o x).1 := by
  unfold State.kvUnit
  try dsimp only
  repeat' (first
    | with_reducible assumption
    | with_reducible apply State.count_keeps
    | with_reducible apply State.kvLookup_keeps
    | with_reducible apply State.kvPage_keeps
    | with_reducible apply foldl_keeps
    | with_reducible apply foldl_fst_keeps
    | with_reducible apply foldl_snd_keeps
    | (simp only [keeps_mk]; first | with_reducible apply KeepsParts.of | with_reducible apply KeepsParts.free | with_reducible apply KeepsParts.cut | with_reducible apply KeepsParts.cutMem | with_reducible apply KeepsParts.cutPoison | with_reducible apply KeepsParts.cutAll | with_reducible apply KeepsParts.said)
    | split
    | intro)

theorem State.shfRun_keeps {z0 : State} (s : State) (u : UnitId) (l : Lane) (o : ShfOps) (hz : Keeps z0 s) :
    Keeps z0 (State.shfRun s u l o).1 := by
  unfold State.shfRun
  try dsimp only
  repeat' (first
    | with_reducible assumption
    | with_reducible apply State.setPge_keeps
    | with_reducible apply State.irq_keeps
    | with_reducible apply State.count_keeps
    | with_reducible apply State.copyRow_keeps
    | with_reducible apply State.quantRow_keeps
    | with_reducible apply State.gatherRow_keeps
    | with_reducible apply State.scatterRow_keeps
    | with_reducible apply State.kvUnit_keeps
    | with_reducible apply foldl_keeps
    | with_reducible apply foldl_fst_keeps
    | with_reducible apply foldl_snd_keeps
    | (simp only [keeps_mk]; first | with_reducible apply KeepsParts.of | with_reducible apply KeepsParts.free | with_reducible apply KeepsParts.cut | with_reducible apply KeepsParts.cutMem | with_reducible apply KeepsParts.cutPoison | with_reducible apply KeepsParts.cutAll | with_reducible apply KeepsParts.said)
    | split
    | intro)

theorem State.shfJob_keeps  (s : State) (l : Lane)  :
    (State.shfJob s l).Good := by
  intro z0 t h
  unfold State.shfJob
  try dsimp only
  repeat' (first
    | with_reducible assumption
    | with_reducible exact h
    | with_reducible dsimp only [Job.bad]
    | with_reducible apply State.count_keeps
    | with_reducible apply State.shfRun_keeps
    | (simp only [keeps_mk]; first | with_reducible apply KeepsParts.of | with_reducible apply KeepsParts.free | with_reducible apply KeepsParts.cut | with_reducible apply KeepsParts.cutMem | with_reducible apply KeepsParts.cutPoison | with_reducible apply KeepsParts.cutAll | with_reducible apply KeepsParts.said)
    | split
    | intro)

theorem State.runShf_keeps {z0 : State} (s : State) (u : UnitId) (covers : Nat → Bool) (ev : LaneEv) (hz : Keeps z0 s) :
    Keeps z0 (State.runShf s u covers ev) := by
  unfold State.runShf
  try dsimp only
  repeat' (first
    | with_reducible assumption
    | with_reducible apply State.runJob_keeps
    | with_reducible apply State.correct_keeps
    | with_reducible apply State.shfJob_keeps
    | split
    | intro)

theorem execShfCopy_keeps {z0 : State} (u : UnitId) (ev : LaneEv) (s : State) (hz : Keeps z0 s) :
    KeepsO z0 (execShfCopy u ev s) := by
  unfold execShfCopy
  try dsimp only
  repeat' (first
    | with_reducible assumption
    | with_reducible apply KeepsO.next
    | with_reducible apply atUnit_keeps
    | with_reducible apply State.runShf_keeps
    | split
    | intro)

theorem execQuant_keeps {z0 : State} (u : UnitId) (ev : LaneEv) (s : State) (hz : Keeps z0 s) :
    KeepsO z0 (execQuant u ev s) := by
  unfold execQuant
  try dsimp only
  repeat' (first
    | with_reducible assumption
    | with_reducible apply KeepsO.next
    | with_reducible apply atUnit_keeps
    | with_reducible apply State.runShf_keeps
    | split
    | intro)

theorem execGather_keeps {z0 : State} (u : UnitId) (ev : LaneEv) (s : State) (hz : Keeps z0 s) :
    KeepsO z0 (execGather u ev s) := by
  unfold execGather
  try dsimp only
  repeat' (first
    | with_reducible assumption
    | with_reducible apply KeepsO.next
    | with_reducible apply atUnit_keeps
    | with_reducible apply State.runShf_keeps
    | split
    | intro)

theorem execScatter_keeps {z0 : State} (u : UnitId) (ev : LaneEv) (s : State) (hz : Keeps z0 s) :
    KeepsO z0 (execScatter u ev s) := by
  unfold execScatter
  try dsimp only
  repeat' (first
    | with_reducible assumption
    | with_reducible apply KeepsO.next
    | with_reducible apply atUnit_keeps
    | with_reducible apply State.runShf_keeps
    | split
    | intro)

theorem execKvWrite_keeps {z0 : State} (u : UnitId) (ev : LaneEv) (s : State) (hz : Keeps z0 s) :
    KeepsO z0 (execKvWrite u ev s) := by
  unfold execKvWrite
  try dsimp only
  repeat' (first
    | with_reducible assumption
    | with_reducible apply KeepsO.next
    | with_reducible apply atUnit_keeps
    | with_reducible apply State.runShf_keeps
    | split
    | intro)

theorem State.gate_keeps {z0 : State} (s : State) (u : UnitId) (l : Lane) (o : XrOps) (hz : Keeps z0 s) :
    Keeps z0 (State.gate s u l o).1 := by
  unfold State.gate
  try dsimp only
  repeat' (first
    | with_reducible assumption
    | with_reducible apply State.count_keeps
    | with_reducible apply State.writeMem_keeps
    | with_reducible apply foldl_keeps
    | with_reducible apply foldl_fst_keeps
    | with_reducible apply foldl_snd_keeps
    | (simp only [keeps_mk]; first | with_reducible apply KeepsParts.of | with_reducible apply KeepsParts.free | with_reducible apply KeepsParts.cut | with_reducible apply KeepsParts.cutMem | with_reducible apply KeepsParts.cutPoison | with_reducible apply KeepsParts.cutAll | with_reducible apply KeepsParts.said)
    | split
    | intro)

theorem State.dispatch_keeps {z0 : State} (s : State) (u : UnitId) (o : XrOps) (hz : Keeps z0 s) :
    Keeps z0 (State.dispatch s u o).1 := by
  unfold State.dispatch
  try dsimp only
  repeat' (first
    | with_reducible assumption
    | with_reducible apply State.irq_keeps
    | with_reducible apply State.count_keeps
    | with_reducible apply State.writeMem_keeps
    | (simp only [keeps_mk]; first | with_reducible apply KeepsParts.of | with_reducible apply KeepsParts.free | with_reducible apply KeepsParts.cut | with_reducible apply KeepsParts.cutMem | with_reducible apply KeepsParts.cutPoison | with_reducible apply KeepsParts.cutAll | with_reducible apply KeepsParts.said)
    | split
    | intro)

theorem State.xrJob_keeps  (s : State) (l : Lane)  :
    (State.xrJob s l).Good := by
  intro z0 t h
  unfold State.xrJob
  try dsimp only
  repeat' (first
    | with_reducible assumption
    | with_reducible exact h
    | with_reducible dsimp only [Job.bad]
    | with_reducible apply State.gate_keeps
    | with_reducible apply State.dispatch_keeps
    | (simp only [keeps_mk]; first | with_reducible apply KeepsParts.of | with_reducible apply KeepsParts.free | with_reducible apply KeepsParts.cut | with_reducible apply KeepsParts.cutMem | with_reducible apply KeepsParts.cutPoison | with_reducible apply KeepsParts.cutAll | with_reducible apply KeepsParts.said)
    | split
    | intro)

theorem State.runXr_keeps {z0 : State} (s : State) (u : UnitId) (covers : Nat → Bool) (ev : LaneEv) (hz : Keeps z0 s) :
    Keeps z0 (State.runXr s u covers ev) := by
  unfold State.runXr
  try dsimp only
  repeat' (first
    | with_reducible assumption
    | with_reducible apply State.runJob_keeps
    | with_reducible apply State.correct_keeps
    | with_reducible apply State.xrJob_keeps
    | split
    | intro)

theorem execGate_keeps {z0 : State} (u : UnitId) (ev : LaneEv) (s : State) (hz : Keeps z0 s) :
    KeepsO z0 (execGate u ev s) := by
  unfold execGate
  try dsimp only
  repeat' (first
    | with_reducible assumption
    | with_reducible apply KeepsO.next
    | with_reducible apply atUnit_keeps
    | with_reducible apply State.runXr_keeps
    | split
    | intro)

theorem execDispatch_keeps {z0 : State} (u : UnitId) (ev : LaneEv) (s : State) (hz : Keeps z0 s) :
    KeepsO z0 (execDispatch u ev s) := by
  unfold execDispatch
  try dsimp only
  repeat' (first
    | with_reducible assumption
    | with_reducible apply KeepsO.next
    | with_reducible apply atUnit_keeps
    | with_reducible apply State.runXr_keeps
    | split
    | intro)

theorem State.sampleUnit_keeps {z0 : State} (s : State) (u : UnitId) (o : SmpOps) (i : Nat) (hz : Keeps z0 s) :
    Keeps z0 (State.sampleUnit s u o i).1 := by
  unfold State.sampleUnit
  try dsimp only
  repeat' (first
    | with_reducible assumption
    | with_reducible apply State.irq_keeps
    | with_reducible apply State.count_keeps
    | with_reducible apply State.writeMem_keeps
    | split
    | intro)

theorem State.smpJob_keeps  (s : State) (l : Lane)  :
    (State.smpJob s l).Good := by
  intro z0 t h
  unfold State.smpJob
  try dsimp only
  repeat' (first
    | with_reducible assumption
    | with_reducible exact h
    | with_reducible dsimp only [Job.bad]
    | with_reducible apply State.sampleUnit_keeps
    | with_reducible apply foldl_keeps
    | with_reducible apply foldl_fst_keeps
    | with_reducible apply foldl_snd_keeps
    | (simp only [keeps_mk]; first | with_reducible apply KeepsParts.of | with_reducible apply KeepsParts.free | with_reducible apply KeepsParts.cut | with_reducible apply KeepsParts.cutMem | with_reducible apply KeepsParts.cutPoison | with_reducible apply KeepsParts.cutAll | with_reducible apply KeepsParts.said)
    | split
    | intro)

theorem execSample_keeps {z0 : State} (u : UnitId) (ev : LaneEv) (s : State) (hz : Keeps z0 s) :
    KeepsO z0 (execSample u ev s) := by
  unfold execSample
  try dsimp only
  repeat' (first
    | with_reducible assumption
    | with_reducible apply KeepsO.next
    | with_reducible apply atUnit_keeps
    | with_reducible apply State.runJob_keeps
    | with_reducible apply State.correct_keeps
    | with_reducible apply State.smpJob_keeps
    | split
    | intro)

theorem State.useFree_keeps {z0 : State} (s : State) (n : Nat) (hz : Keeps z0 s) :
    Keeps z0 (State.useFree s n) := by
  unfold State.useFree
  try dsimp only
  repeat' (first
    | with_reducible assumption
    | (simp only [keeps_mk]; first | with_reducible apply KeepsParts.of | with_reducible apply KeepsParts.free | with_reducible apply KeepsParts.cut | with_reducible apply KeepsParts.cutMem | with_reducible apply KeepsParts.cutPoison | with_reducible apply KeepsParts.cutAll | with_reducible apply KeepsParts.said)
    | split
    | intro)

theorem State.enterKernel_keeps {z0 : State} (s : State) (u : UnitId) (k : Kernel) (hz : Keeps z0 s) :
    Keeps z0 (State.enterKernel s u k) := by
  unfold State.enterKernel
  try dsimp only
  repeat' (first
    | with_reducible assumption
    | with_reducible apply State.setUnit_keeps
    | with_reducible apply State.useFree_keeps
    | (simp only [keeps_mk]; first | with_reducible apply KeepsParts.of | with_reducible apply KeepsParts.free | with_reducible apply KeepsParts.cut | with_reducible apply KeepsParts.cutMem | with_reducible apply KeepsParts.cutPoison | with_reducible apply KeepsParts.cutAll | with_reducible apply KeepsParts.said)
    | split
    | intro)

theorem State.endKernel_keeps {z0 : State} (s : State) (u : UnitId) (l : Lane) (st : Nat) (hz : Keeps z0 s) :
    Keeps z0 (State.endKernel s u l st) := by
  unfold State.endKernel
  try dsimp only
  repeat' (first
    | with_reducible assumption
    | with_reducible apply State.put_keeps
    | with_reducible apply State.setUnit_keeps
    | with_reducible apply State.poisonOuts_keeps
    | with_reducible apply State.sawPoison_keeps
    | (simp only [keeps_mk]; first | with_reducible apply KeepsParts.of | with_reducible apply KeepsParts.free | with_reducible apply KeepsParts.cut | with_reducible apply KeepsParts.cutMem | with_reducible apply KeepsParts.cutPoison | with_reducible apply KeepsParts.cutAll | with_reducible apply KeepsParts.said)
    | split
    | intro)

theorem execRun_keeps {z0 : State} (u : UnitId) (ev : LaneEv) (s : State) (hz : Keeps z0 s) :
    KeepsO z0 (execRun u ev s) := by
  unfold execRun
  try dsimp only
  repeat' (first
    | with_reducible assumption
    | with_reducible apply KeepsO.next
    | with_reducible apply State.put_keeps
    | with_reducible apply State.setUnit_keeps
    | with_reducible apply atUnit_keeps
    | with_reducible apply State.poisonOuts_keeps
    | with_reducible apply State.count_keeps
    | with_reducible apply State.sawPoison_keeps
    | with_reducible apply State.readAll_keeps
    | with_reducible apply State.correct_keeps
    | with_reducible apply State.enterKernel_keeps
    | (simp only [keeps_mk]; first | with_reducible apply KeepsParts.of | with_reducible apply KeepsParts.free | with_reducible apply KeepsParts.cut | with_reducible apply KeepsParts.cutMem | with_reducible apply KeepsParts.cutPoison | with_reducible apply KeepsParts.cutAll | with_reducible apply KeepsParts.said)
    | split
    | intro)

theorem State.ucLoad_keeps {z0 : State} (s : State) (u : UnitId) (a n : Nat) (hz : Keeps z0 s) :
    Keeps z0 (State.ucLoad s u a n).1 := by
  unfold State.ucLoad
  try dsimp only
  repeat' (first
    | with_reducible assumption
    | with_reducible apply State.count_keeps
    | with_reducible apply State.readAll_keeps
    | split
    | intro)

theorem State.ucStore_keeps {z0 : State} (s : State) (u : UnitId) (a : Nat) (d : List Byte) (hz : Keeps z0 s) :
    Keeps z0 (State.ucStore s u a d) := by
  unfold State.ucStore
  try dsimp only
  repeat' (first
    | with_reducible assumption
    | with_reducible apply State.poisonLine_keeps
    | with_reducible apply State.count_keeps
    | with_reducible apply State.writeMem_keeps
    | with_reducible apply foldl_keeps
    | with_reducible apply foldl_fst_keeps
    | with_reducible apply foldl_snd_keeps
    | split
    | intro)

theorem foldl_st_keeps {α : Type} {s : State} {f : IoEnd → α → IoEnd} (hf : ∀ p a, Keeps s p.st → Keeps s (f p a).st) :
    ∀ (l : List α) {p : IoEnd}, Keeps s p.st → Keeps s (l.foldl f p).st
  | [], _, h => h
  | a :: l, _, h => foldl_st_keeps hf l (hf _ a h)

theorem State.kernelIo_keeps {z0 : State} (s : State) (u : UnitId) (p : Nat) (k : Kernel) (io : KernelIo) (hz : Keeps z0 s) :
    Keeps z0 (s.kernelIo u p k io).st := by
  unfold State.kernelIo
  refine foldl_st_keeps (fun x w h => ?_) _ (foldl_st_keeps (fun x r h => ?_) _ hz)
  · try dsimp only
    repeat' (first
      | with_reducible assumption
      | with_reducible apply State.ucStore_keeps
      | split)
  · try dsimp only
    repeat' (first
      | with_reducible assumption
      | with_reducible apply State.ucLoad_keeps
      | split)

theorem State.trapped_keeps {z0 : State} (s : State) (u : UnitId) (pc cause val : Nat) (hz : Keeps z0 s) :
    Keeps z0 (State.trapped s u pc cause val) := by
  unfold State.trapped
  try dsimp only
  repeat' (first
    | with_reducible assumption
    | with_reducible apply State.put_keeps
    | with_reducible apply State.irq_keeps
    | with_reducible apply State.count_keeps
    | split
    | intro)

theorem State.accessFault_keeps {z0 : State} (s : State) (u : UnitId) (l : Lane) (f : Nat × Nat) (hz : Keeps z0 s) :
    Keeps z0 (State.accessFault s u l f) := by
  unfold State.accessFault
  try dsimp only
  repeat' (first
    | with_reducible assumption
    | with_reducible apply State.fresh_keeps
    | with_reducible apply State.endKernel_keeps
    | with_reducible apply State.trapped_keeps
    | split
    | intro)

theorem execExit_keeps {z0 : State} (u : UnitId) (a0 : Nat) (io : KernelIo) (ev : LaneEv) (s : State) (hz : Keeps z0 s) :
    KeepsO z0 (execExit u a0 io ev s) := by
  unfold execExit
  try dsimp only
  repeat' (first
    | with_reducible assumption
    | with_reducible apply KeepsO.next
    | with_reducible apply atUnit_keeps
    | with_reducible apply State.correct_keeps
    | with_reducible apply State.endKernel_keeps
    | with_reducible apply State.kernelIo_keeps
    | with_reducible apply State.accessFault_keeps
    | (simp only [keeps_mk]; first | with_reducible apply KeepsParts.of | with_reducible apply KeepsParts.free | with_reducible apply KeepsParts.cut | with_reducible apply KeepsParts.cutMem | with_reducible apply KeepsParts.cutPoison | with_reducible apply KeepsParts.cutAll | with_reducible apply KeepsParts.said)
    | split
    | intro)

theorem State.traceWord_keeps {z0 : State} (s : State) (u : UnitId) (word : Nat) (hz : Keeps z0 s) :
    Keeps z0 (State.traceWord s u word) := by
  unfold State.traceWord
  try dsimp only
  repeat' (first
    | with_reducible assumption
    | with_reducible apply State.setUnit_keeps
    | (simp only [keeps_mk]; first | with_reducible apply KeepsParts.of | with_reducible apply KeepsParts.free | with_reducible apply KeepsParts.cut | with_reducible apply KeepsParts.cutMem | with_reducible apply KeepsParts.cutPoison | with_reducible apply KeepsParts.cutAll | with_reducible apply KeepsParts.said)
    | split
    | intro)

theorem execTrace_keeps {z0 : State} (u : UnitId) (word : Nat) (s : State) (hz : Keeps z0 s) :
    KeepsO z0 (execTrace u word s) := by
  unfold execTrace
  try dsimp only
  repeat' (first
    | with_reducible assumption
    | with_reducible apply KeepsO.next
    | with_reducible apply atUnit_keeps
    | with_reducible apply State.traceWord_keeps
    | (simp only [keeps_mk]; first | with_reducible apply KeepsParts.of | with_reducible apply KeepsParts.free | with_reducible apply KeepsParts.cut | with_reducible apply KeepsParts.cutMem | with_reducible apply KeepsParts.cutPoison | with_reducible apply KeepsParts.cutAll | with_reducible apply KeepsParts.said)
    | split
    | intro)

theorem State.kernelTrap_keeps {z0 : State} (s : State) (u : UnitId) (l : Lane) (pc cause val : Nat) (hz : Keeps z0 s) :
    Keeps z0 (State.kernelTrap s u l pc cause val) := by
  unfold State.kernelTrap
  try dsimp only
  repeat' (first
    | with_reducible assumption
    | with_reducible apply State.endKernel_keeps
    | with_reducible apply State.trapped_keeps
    | split
    | intro)

theorem execKernelTrap_keeps {z0 : State} (u : UnitId) (pc cause val : Nat) (io : KernelIo) (s : State) (hz : Keeps z0 s) :
    KeepsO z0 (execKernelTrap u pc cause val io s) := by
  unfold execKernelTrap
  try dsimp only
  repeat' (first
    | with_reducible assumption
    | with_reducible apply KeepsO.next
    | with_reducible apply atUnit_keeps
    | with_reducible apply State.kernelIo_keeps
    | with_reducible apply State.accessFault_keeps
    | with_reducible apply State.kernelTrap_keeps
    | (simp only [keeps_mk]; first | with_reducible apply KeepsParts.of | with_reducible apply KeepsParts.free | with_reducible apply KeepsParts.cut | with_reducible apply KeepsParts.cutMem | with_reducible apply KeepsParts.cutPoison | with_reducible apply KeepsParts.cutAll | with_reducible apply KeepsParts.said)
    | split
    | intro)

theorem execKernelTimeout_keeps {z0 : State} (u : UnitId) (io : KernelIo) (s : State) (hz : Keeps z0 s) :
    KeepsO z0 (execKernelTimeout u io s) := by
  unfold execKernelTimeout
  try dsimp only
  repeat' (first
    | with_reducible assumption
    | with_reducible apply KeepsO.next
    | with_reducible apply atUnit_keeps
    | with_reducible apply State.endKernel_keeps
    | with_reducible apply State.kernelIo_keeps
    | with_reducible apply State.accessFault_keeps
    | (simp only [keeps_mk]; first | with_reducible apply KeepsParts.of | with_reducible apply KeepsParts.free | with_reducible apply KeepsParts.cut | with_reducible apply KeepsParts.cutMem | with_reducible apply KeepsParts.cutPoison | with_reducible apply KeepsParts.cutAll | with_reducible apply KeepsParts.said)
    | split
    | intro)

theorem State.copyPiece_keeps {z0 : State} (u : UnitId) (s : State) (c : DmaPiece) (hz : Keeps z0 s) :
    Keeps z0 (State.copyPiece u s c) := by
  unfold State.copyPiece
  try dsimp only
  repeat' (first
    | with_reducible assumption
    | with_reducible apply State.count_keeps
    | with_reducible apply State.writeMem_keeps
    | split
    | intro)

theorem State.dmaFill_keeps {z0 : State} (s : State) (u : UnitId) (l : Lane) (hz : Keeps z0 s) :
    Keeps z0 (State.dmaFill s u l) := by
  unfold State.dmaFill
  try dsimp only
  repeat' (first
    | with_reducible assumption
    | with_reducible apply State.count_keeps
    | with_reducible apply State.writeMem_keeps
    | with_reducible apply foldl_keeps
    | with_reducible apply foldl_fst_keeps
    | with_reducible apply foldl_snd_keeps
    | split
    | intro)

theorem State.setPushUsed_keeps {z0 : State} (s : State) (node cls v : Nat) (hz : Keeps z0 s) :
    Keeps z0 (State.setPushUsed s node cls v) := by
  unfold State.setPushUsed
  try dsimp only
  repeat' (first
    | with_reducible assumption
    | with_reducible apply State.setNet_keeps
    | (simp only [keeps_mk]; first | with_reducible apply KeepsParts.of | with_reducible apply KeepsParts.free | with_reducible apply KeepsParts.cut | with_reducible apply KeepsParts.cutMem | with_reducible apply KeepsParts.cutPoison | with_reducible apply KeepsParts.cutAll | with_reducible apply KeepsParts.said)
    | split
    | intro)

theorem State.setRun_keeps {z0 : State} (s : State) (u : UnitId) (f : DmaRun → DmaRun) (hz : Keeps z0 s) :
    Keeps z0 (State.setRun s u f) := by
  unfold State.setRun
  try dsimp only
  repeat' (first
    | with_reducible assumption
    | with_reducible apply State.setUnit_keeps
    | (simp only [keeps_mk]; first | with_reducible apply KeepsParts.of | with_reducible apply KeepsParts.free | with_reducible apply KeepsParts.cut | with_reducible apply KeepsParts.cutMem | with_reducible apply KeepsParts.cutPoison | with_reducible apply KeepsParts.cutAll | with_reducible apply KeepsParts.said)
    | split
    | intro)

theorem State.turn_keeps {z0 : State} (s : State) (u : UnitId) (st : Nat) (hz : Keeps z0 s) :
    Keeps z0 (State.turn s u st) := by
  unfold State.turn
  try dsimp only
  repeat' (first
    | with_reducible assumption
    | with_reducible apply State.setRun_keeps
    | (simp only [keeps_mk]; first | with_reducible apply KeepsParts.of | with_reducible apply KeepsParts.free | with_reducible apply KeepsParts.cut | with_reducible apply KeepsParts.cutMem | with_reducible apply KeepsParts.cutPoison | with_reducible apply KeepsParts.cutAll | with_reducible apply KeepsParts.said)
    | split
    | intro)

theorem State.sendRead_keeps {z0 : State} (s : State) (u : UnitId) (l : Lane) (c : DmaPiece) (hz : Keeps z0 s) :
    Keeps z0 (State.sendRead s u l c) := by
  unfold State.sendRead
  try dsimp only
  repeat' (first
    | with_reducible assumption
    | with_reducible apply State.setNet_keeps
    | with_reducible apply State.inject_keeps
    | (simp only [keeps_mk]; first | with_reducible apply KeepsParts.of | with_reducible apply KeepsParts.free | with_reducible apply KeepsParts.cut | with_reducible apply KeepsParts.cutMem | with_reducible apply KeepsParts.cutPoison | with_reducible apply KeepsParts.cutAll | with_reducible apply KeepsParts.said)
    | split
    | intro)

theorem State.sendWrite_keeps {z0 : State} (s : State) (u : UnitId) (l : Lane) (c : DmaPiece) (d : List Byte) (bad : Bool) (hz : Keeps z0 s) :
    Keeps z0 (State.sendWrite s u l c d bad) := by
  unfold State.sendWrite
  try dsimp only
  repeat' (first
    | with_reducible assumption
    | with_reducible apply State.count_keeps
    | with_reducible apply State.setNet_keeps
    | with_reducible apply State.inject_keeps
    | with_reducible apply State.setPushUsed_keeps
    | (simp only [keeps_mk]; first | with_reducible apply KeepsParts.of | with_reducible apply KeepsParts.free | with_reducible apply KeepsParts.cut | with_reducible apply KeepsParts.cutMem | with_reducible apply KeepsParts.cutPoison | with_reducible apply KeepsParts.cutAll | with_reducible apply KeepsParts.said)
    | split
    | intro)

theorem State.sendPiece_keeps {z0 : State} (s : State) (u : UnitId) (l : Lane) (c : DmaPiece) (hz : Keeps z0 s) :
    Keeps z0 (State.sendPiece s u l c) := by
  unfold State.sendPiece
  try dsimp only
  repeat' (first
    | with_reducible assumption
    | with_reducible apply State.count_keeps
    | with_reducible apply State.readAll_keeps
    | with_reducible apply State.setRun_keeps
    | with_reducible apply State.turn_keeps
    | with_reducible apply State.sendRead_keeps
    | with_reducible apply State.sendWrite_keeps
    | (simp only [keeps_mk]; first | with_reducible apply KeepsParts.of | with_reducible apply KeepsParts.free | with_reducible apply KeepsParts.cut | with_reducible apply KeepsParts.cutMem | with_reducible apply KeepsParts.cutPoison | with_reducible apply KeepsParts.cutAll | with_reducible apply KeepsParts.said)
    | split
    | intro)

theorem State.sendPieces_keeps {z0 : State} : ∀ (x0 : List DmaPiece) (s : State) (u : UnitId) (l : Lane) , Keeps z0 s → Keeps z0 (State.sendPieces s u l x0) := by
  intro x0
  induction x0 with
  | nil =>
    intro s u l hz
    have ih := hz
    unfold State.sendPieces
    try dsimp only
    repeat' (first
      | with_reducible assumption
      | with_reducible apply ih
      | with_reducible apply State.setRun_keeps
      | with_reducible apply State.turn_keeps
      | with_reducible apply State.sendPiece_keeps
      | (simp only [keeps_mk]; first | with_reducible apply KeepsParts.of | with_reducible apply KeepsParts.free | with_reducible apply KeepsParts.cut | with_reducible apply KeepsParts.cutMem | with_reducible apply KeepsParts.cutPoison | with_reducible apply KeepsParts.cutAll | with_reducible apply KeepsParts.said)
      | split
      | intro)
  | cons e r ih =>
    intro s u l hz
    unfold State.sendPieces
    try dsimp only
    repeat' (first
      | with_reducible assumption
      | with_reducible apply ih
      | with_reducible apply State.setRun_keeps
      | with_reducible apply State.turn_keeps
      | with_reducible apply State.sendPiece_keeps
      | (simp only [keeps_mk]; first | with_reducible apply KeepsParts.of | with_reducible apply KeepsParts.free | with_reducible apply KeepsParts.cut | with_reducible apply KeepsParts.cutMem | with_reducible apply KeepsParts.cutPoison | with_reducible apply KeepsParts.cutAll | with_reducible apply KeepsParts.said)
      | split
      | intro)

theorem State.landPiece_keeps {z0 : State} (s : State) (u : UnitId) (l : Lane) (row line : Nat) (hz : Keeps z0 s) :
    Keeps z0 (State.landPiece s u l row line) := by
  unfold State.landPiece
  try dsimp only
  repeat' (first
    | with_reducible assumption
    | with_reducible apply State.count_keeps
    | with_reducible apply State.writeMem_keeps
    | with_reducible apply State.setRun_keeps
    | (simp only [keeps_mk]; first | with_reducible apply KeepsParts.of | with_reducible apply KeepsParts.free | with_reducible apply KeepsParts.cut | with_reducible apply KeepsParts.cutMem | with_reducible apply KeepsParts.cutPoison | with_reducible apply KeepsParts.cutAll | with_reducible apply KeepsParts.said)
    | split
    | intro)

theorem State.land_keeps {z0 : State} (s : State) (u : UnitId) (l : Lane) (hz : Keeps z0 s) :
    Keeps z0 (State.land s u l) := by
  unfold State.land
  try dsimp only
  repeat' (first
    | with_reducible assumption
    | with_reducible apply State.landPiece_keeps
    | with_reducible apply foldl_keeps
    | with_reducible apply foldl_fst_keeps
    | with_reducible apply foldl_snd_keeps
    | (simp only [keeps_mk]; first | with_reducible apply KeepsParts.of | with_reducible apply KeepsParts.free | with_reducible apply KeepsParts.cut | with_reducible apply KeepsParts.cutMem | with_reducible apply KeepsParts.cutPoison | with_reducible apply KeepsParts.cutAll | with_reducible apply KeepsParts.said)
    | split
    | intro)

theorem State.stagePiece_keeps {z0 : State} (s : State) (u : UnitId) (q : ReqRec) (d : List Byte) (pois : Bool) (hz : Keeps z0 s) :
    Keeps z0 (State.stagePiece s u q d pois) := by
  unfold State.stagePiece
  try dsimp only
  repeat' (first
    | with_reducible assumption
    | with_reducible apply State.count_keeps
    | with_reducible apply State.setRun_keeps
    | (simp only [keeps_mk]; first | with_reducible apply KeepsParts.of | with_reducible apply KeepsParts.free | with_reducible apply KeepsParts.cut | with_reducible apply KeepsParts.cutMem | with_reducible apply KeepsParts.cutPoison | with_reducible apply KeepsParts.cutAll | with_reducible apply KeepsParts.said)
    | split
    | intro)

theorem State.dmaEnd_keeps {z0 : State} (s : State) (u : UnitId) (l : Lane) (st : Nat) (hz : Keeps z0 s) :
    Keeps z0 (State.dmaEnd s u l st) := by
  unfold State.dmaEnd
  try dsimp only
  repeat' (first
    | with_reducible assumption
    | with_reducible apply State.setUnit_keeps
    | with_reducible apply State.poisonOuts_keeps
    | with_reducible apply State.irq_keeps
    | with_reducible apply State.sawPoison_keeps
    | with_reducible apply State.setNet_keeps
    | (simp only [keeps_mk]; first | with_reducible apply KeepsParts.of | with_reducible apply KeepsParts.free | with_reducible apply KeepsParts.cut | with_reducible apply KeepsParts.cutMem | with_reducible apply KeepsParts.cutPoison | with_reducible apply KeepsParts.cutAll | with_reducible apply KeepsParts.said)
    | split
    | intro)

theorem State.dmaGo_keeps {z0 : State} (s : State) (u : UnitId) (hz : Keeps z0 s) :
    Keeps z0 (State.dmaGo s u) := by
  unfold State.dmaGo
  try dsimp only
  repeat' (first
    | with_reducible assumption
    | with_reducible apply State.sendPieces_keeps
    | with_reducible apply State.land_keeps
    | with_reducible apply State.dmaEnd_keeps
    | (simp only [keeps_mk]; first | with_reducible apply KeepsParts.of | with_reducible apply KeepsParts.free | with_reducible apply KeepsParts.cut | with_reducible apply KeepsParts.cutMem | with_reducible apply KeepsParts.cutPoison | with_reducible apply KeepsParts.cutAll | with_reducible apply KeepsParts.said)
    | split
    | intro)

theorem State.dmaAck_keeps {z0 : State} (s : State) (u : UnitId) (poisoned refused : Bool) (hz : Keeps z0 s) :
    Keeps z0 (State.dmaAck s u poisoned refused) := by
  unfold State.dmaAck
  try dsimp only
  repeat' (first
    | with_reducible assumption
    | with_reducible apply State.count_keeps
    | with_reducible apply State.setRun_keeps
    | with_reducible apply State.dmaGo_keeps
    | (simp only [keeps_mk]; first | with_reducible apply KeepsParts.of | with_reducible apply KeepsParts.free | with_reducible apply KeepsParts.cut | with_reducible apply KeepsParts.cutMem | with_reducible apply KeepsParts.cutPoison | with_reducible apply KeepsParts.cutAll | with_reducible apply KeepsParts.said)
    | split
    | intro)

theorem State.dmaFail_keeps {z0 : State} (s : State) (u : UnitId) (hz : Keeps z0 s) :
    Keeps z0 (State.dmaFail s u) := by
  unfold State.dmaFail
  try dsimp only
  repeat' (first
    | with_reducible assumption
    | with_reducible apply State.dmaEnd_keeps
    | (simp only [keeps_mk]; first | with_reducible apply KeepsParts.of | with_reducible apply KeepsParts.free | with_reducible apply KeepsParts.cut | with_reducible apply KeepsParts.cutMem | with_reducible apply KeepsParts.cutPoison | with_reducible apply KeepsParts.cutAll | with_reducible apply KeepsParts.said)
    | split
    | intro)

theorem State.dmaJob_keeps  (s : State) (u : UnitId) (l : Lane)  :
    (State.dmaJob s u l).Good := by
  intro z0 t h
  unfold State.dmaJob
  try dsimp only
  repeat' (first
    | with_reducible assumption
    | with_reducible exact h
    | with_reducible dsimp only [Job.bad]
    | with_reducible apply State.copyPiece_keeps
    | with_reducible apply State.dmaFill_keeps
    | with_reducible apply foldl_keeps
    | with_reducible apply foldl_fst_keeps
    | with_reducible apply foldl_snd_keeps
    | split
    | intro)

theorem State.dmaStart_keeps {z0 : State} (s : State) (u : UnitId) (ending : Option Nat) (hz : Keeps z0 s) :
    Keeps z0 (State.dmaStart s u ending) := by
  unfold State.dmaStart
  try dsimp only
  repeat' (first
    | with_reducible assumption
    | with_reducible apply State.setUnit_keeps
    | with_reducible apply State.dmaGo_keeps
    | (simp only [keeps_mk]; first | with_reducible apply KeepsParts.of | with_reducible apply KeepsParts.free | with_reducible apply KeepsParts.cut | with_reducible apply KeepsParts.cutMem | with_reducible apply KeepsParts.cutPoison | with_reducible apply KeepsParts.cutAll | with_reducible apply KeepsParts.said)
    | split
    | intro)

theorem State.dmaRun_keeps {z0 : State} (s : State) (u : UnitId) (covers : Nat → Bool) (ev : LaneEv) (hz : Keeps z0 s) :
    Keeps z0 (State.dmaRun s u covers ev) := by
  unfold State.dmaRun
  try dsimp only
  repeat' (first
    | with_reducible assumption
    | with_reducible apply State.runJob_keeps
    | with_reducible apply State.correct_keeps
    | with_reducible apply State.dmaEnd_keeps
    | with_reducible apply State.dmaGo_keeps
    | with_reducible apply State.dmaJob_keeps
    | with_reducible apply State.dmaStart_keeps
    | (simp only [keeps_mk]; first | with_reducible apply KeepsParts.of | with_reducible apply KeepsParts.free | with_reducible apply KeepsParts.cut | with_reducible apply KeepsParts.cutMem | with_reducible apply KeepsParts.cutPoison | with_reducible apply KeepsParts.cutAll | with_reducible apply KeepsParts.said)
    | split
    | intro)

theorem execDmaCopy_keeps {z0 : State} (u : UnitId) (ev : LaneEv) (s : State) (hz : Keeps z0 s) :
    KeepsO z0 (execDmaCopy u ev s) := by
  unfold execDmaCopy
  try dsimp only
  repeat' (first
    | with_reducible assumption
    | with_reducible apply KeepsO.next
    | with_reducible apply atUnit_keeps
    | with_reducible apply State.dmaRun_keeps
    | split
    | intro)

theorem execFill_keeps {z0 : State} (u : UnitId) (ev : LaneEv) (s : State) (hz : Keeps z0 s) :
    KeepsO z0 (execFill u ev s) := by
  unfold execFill
  try dsimp only
  repeat' (first
    | with_reducible assumption
    | with_reducible apply KeepsO.next
    | with_reducible apply atUnit_keeps
    | with_reducible apply State.dmaRun_keeps
    | split
    | intro)

theorem execPush_keeps {z0 : State} (u : UnitId) (ev : LaneEv) (s : State) (hz : Keeps z0 s) :
    KeepsO z0 (execPush u ev s) := by
  unfold execPush
  try dsimp only
  repeat' (first
    | with_reducible assumption
    | with_reducible apply KeepsO.next
    | with_reducible apply atUnit_keeps
    | with_reducible apply State.dmaRun_keeps
    | split
    | intro)

end Sys2Proof.Machine
end

