-- ==== Sys2Proof/Laws/KeepsF.lean ====
section
/-!
SUPPORT. What the operations of Sequences, Talon, Lanes, Dealer, Requests keep.
-/
set_option linter.unusedTactic false
set_option linter.unreachableTactic false
set_option linter.unusedVariables false

namespace Sys2Proof.Machine

theorem State.sendGroup_keeps {z0 : State} (s : State) (p : Nat) (kind : Msg) (args : List Nat) (hz : Keeps z0 s) :
    Keeps z0 (State.sendGroup s p kind args) := by
  unfold State.sendGroup
  try dsimp only
  repeat' (first
    | with_reducible assumption
    | with_reducible apply State.emit_keeps
    | with_reducible apply foldl_keeps
    | with_reducible apply foldl_fst_keeps
    | with_reducible apply foldl_snd_keeps
    | split
    | intro)

theorem State.sendLead_keeps {z0 : State} (s : State) (p : Nat) (kind : Msg) (args : List Nat) (hz : Keeps z0 s) :
    Keeps z0 (State.sendLead s p kind args) := by
  unfold State.sendLead
  try dsimp only
  repeat' (first
    | with_reducible assumption
    | with_reducible apply State.emit_keeps
    | split
    | intro)

theorem State.journaled_keeps {s0 : State} (s : State) (k : State → State) (h : Keeps s0 s) (hk : ∀ t, Keeps s0 t → Keeps s0 (k t)) :
    Keeps s0 (s.journaled k) := by
  have h1 := hk s h
  unfold State.journaled
  dsimp only
  split
  · exact ⟨h1.1, h1.2, h.3, h1.4, h1.5, h1.6⟩
  · exact h1

theorem State.updSlot_keeps {z0 : State} (s : State) (p n : Nat) (f : SlotRec → SlotRec) (hz : Keeps z0 s) :
    Keeps z0 (State.updSlot s p n f) := by
  unfold State.updSlot
  try dsimp only
  repeat' (first
    | with_reducible assumption
    | with_reducible apply State.setPart_keeps
    | (simp only [keeps_mk]; first | with_reducible apply KeepsParts.of | with_reducible apply KeepsParts.free | with_reducible apply KeepsParts.cut | with_reducible apply KeepsParts.cutMem | with_reducible apply KeepsParts.cutPoison | with_reducible apply KeepsParts.cutAll | with_reducible apply KeepsParts.said)
    | split
    | intro)

theorem State.tellOutcome_keeps {z0 : State} (s : State) (p reqId tag fork code emitted : Nat) (hz : Keeps z0 s) :
    Keeps z0 (State.tellOutcome s p reqId tag fork code emitted) := by
  unfold State.tellOutcome
  try dsimp only
  repeat' (first
    | with_reducible assumption
    | with_reducible apply State.count_keeps
    | with_reducible apply State.partEvent_keeps
    | split
    | intro)

theorem State.outcome_keeps {z0 : State} (s : State) (p reqId tag fork code emitted : Nat) (hz : Keeps z0 s) :
    Keeps z0 (State.outcome s p reqId tag fork code emitted) := by
  unfold State.outcome
  try dsimp only
  repeat' (first
    | with_reducible assumption
    | with_reducible apply State.setPart_keeps
    | with_reducible apply State.tellOutcome_keeps
    | (simp only [keeps_mk]; first | with_reducible apply KeepsParts.of | with_reducible apply KeepsParts.free | with_reducible apply KeepsParts.cut | with_reducible apply KeepsParts.cutMem | with_reducible apply KeepsParts.cutPoison | with_reducible apply KeepsParts.cutAll | with_reducible apply KeepsParts.said)
    | split
    | intro)

theorem State.outcomeNoSlot_keeps {z0 : State} (s : State) (p : Nat) (desc : List Byte) (fork code emitted : Nat) (hz : Keeps z0 s) :
    Keeps z0 (State.outcomeNoSlot s p desc fork code emitted) := by
  unfold State.outcomeNoSlot
  try dsimp only
  repeat' (first
    | with_reducible assumption
    | with_reducible apply State.setPart_keeps
    | with_reducible apply State.outcome_keeps
    | (simp only [keeps_mk]; first | with_reducible apply KeepsParts.of | with_reducible apply KeepsParts.free | with_reducible apply KeepsParts.cut | with_reducible apply KeepsParts.cutMem | with_reducible apply KeepsParts.cutPoison | with_reducible apply KeepsParts.cutAll | with_reducible apply KeepsParts.said)
    | split
    | intro)

theorem State.retireHere_keeps {z0 : State} (s : State) (p n : Nat) (hz : Keeps z0 s) :
    Keeps z0 (State.retireHere s p n) := by
  unfold State.retireHere
  try dsimp only
  repeat' (first
    | with_reducible assumption
    | with_reducible apply State.setPart_keeps
    | with_reducible apply State.retirePages_keeps
    | (simp only [keeps_mk]; first | with_reducible apply KeepsParts.of | with_reducible apply KeepsParts.free | with_reducible apply KeepsParts.cut | with_reducible apply KeepsParts.cutMem | with_reducible apply KeepsParts.cutPoison | with_reducible apply KeepsParts.cutAll | with_reducible apply KeepsParts.said)
    | split
    | intro)

theorem State.retireAll_keeps {z0 : State} (s : State) (p n : Nat) (hz : Keeps z0 s) :
    Keeps z0 (State.retireAll s p n) := by
  unfold State.retireAll
  try dsimp only
  repeat' (first
    | with_reducible assumption
    | with_reducible apply State.sendGroup_keeps
    | with_reducible apply State.retireHere_keeps
    | split
    | intro)

theorem State.endSeq_keeps {z0 : State} (s : State) (p n code : Nat) (hz : Keeps z0 s) :
    Keeps z0 (State.endSeq s p n code) := by
  unfold State.endSeq
  try dsimp only
  repeat' (first
    | with_reducible assumption
    | with_reducible apply State.outcome_keeps
    | with_reducible apply State.retireAll_keeps
    | (simp only [keeps_mk]; first | with_reducible apply KeepsParts.of | with_reducible apply KeepsParts.free | with_reducible apply KeepsParts.cut | with_reducible apply KeepsParts.cutMem | with_reducible apply KeepsParts.cutPoison | with_reducible apply KeepsParts.cutAll | with_reducible apply KeepsParts.said)
    | split
    | intro)

theorem State.dealerReads_keeps {z0 : State} (s : State) (a n : Nat) (hz : Keeps z0 s) : Keeps z0 (State.dealerReads s a n).1 := by
  have h : ∀ x, Keeps z0 (let m := s.readAll clsSys [(x, n)]; (m.1, m.2 || m.1.anyPoison a n)).1 :=
    fun x => State.readAll_keeps s clsSys [(x, n)] hz
  exact h _

theorem State.copyDesc_keeps {z0 : State} (s : State) (p : Nat) (e : QEntry) (hz : Keeps z0 s) :
    Keeps z0 (State.copyDesc s p e).1 := by
  unfold State.copyDesc
  try dsimp only
  repeat' (first
    | with_reducible assumption
    | with_reducible apply State.writeMem_keeps
    | (simp only [keeps_mk]; first | with_reducible apply KeepsParts.of | with_reducible apply KeepsParts.free | with_reducible apply KeepsParts.cut | with_reducible apply KeepsParts.cutMem | with_reducible apply KeepsParts.cutPoison | with_reducible apply KeepsParts.cutAll | with_reducible apply KeepsParts.said)
    | split
    | intro)

theorem State.readDesc_keeps {z0 : State} (s : State) (p : Nat) (e : QEntry) (hz : Keeps z0 s) :
    Keeps z0 (State.readDesc s p e).1 := by
  unfold State.readDesc
  try dsimp only
  repeat' (first
    | with_reducible assumption
    | with_reducible apply State.dealerReads_keeps
    | (simp only [keeps_mk]; first | with_reducible apply KeepsParts.of | with_reducible apply KeepsParts.free | with_reducible apply KeepsParts.cut | with_reducible apply KeepsParts.cutMem | with_reducible apply KeepsParts.cutPoison | with_reducible apply KeepsParts.cutAll | with_reducible apply KeepsParts.said)
    | split
    | intro)

theorem State.promptRun_keeps {z0 : State} (s : State) (prompt i n : Nat) (hz : Keeps z0 s) :
    Keeps z0 (State.promptRun s prompt i n).2 := by
  unfold State.promptRun
  try dsimp only
  repeat' (first
    | with_reducible assumption
    | with_reducible apply State.freshBytes_keeps
    | with_reducible apply State.readAll_keeps
    | split
    | intro)

theorem State.extBytes_keeps {z0 : State} (s : State) (d : List Byte) (hz : Keeps z0 s) :
    Keeps z0 (State.extBytes s d).2 := by
  unfold State.extBytes
  try dsimp only
  repeat' (first
    | with_reducible assumption
    | with_reducible apply State.freshBytes_keeps
    | with_reducible apply State.readAll_keeps
    | split
    | intro)

theorem State.appendHistory_keeps {z0 : State} : ∀ (x0 : List Nat) (s : State) (ctx count : Nat) , Keeps z0 s → Keeps z0 (State.appendHistory s ctx count x0) := by
  intro x0
  induction x0 with
  | nil =>
    intro s ctx count hz
    have ih := hz
    unfold State.appendHistory
    try dsimp only
    repeat' (first
      | with_reducible assumption
      | with_reducible apply ih
      | with_reducible apply State.writeMem_keeps
      | split
      | intro)
  | cons e r ih =>
    intro s ctx count hz
    unfold State.appendHistory
    try dsimp only
    repeat' (first
      | with_reducible assumption
      | with_reducible apply ih
      | with_reducible apply State.writeMem_keeps
      | split
      | intro)

theorem State.writeContext_keeps {z0 : State} (s : State) (p slot : Nat) (d : List Byte) (logged : List Nat) (hz : Keeps z0 s) :
    Keeps z0 (State.writeContext s p slot d logged) := by
  unfold State.writeContext
  try dsimp only
  repeat' (first
    | with_reducible assumption
    | with_reducible apply State.freshBytes_keeps
    | with_reducible apply State.writeMem_keeps
    | with_reducible apply State.promptRun_keeps
    | with_reducible apply State.extBytes_keeps
    | with_reducible apply State.appendHistory_keeps
    | split
    | intro)

theorem State.appendLog_keeps {z0 : State} : ∀ (x0 : List Nat) (s : State) (p slot have' : Nat) , Keeps z0 s → Keeps z0 (State.appendLog s p slot have' x0) := by
  intro x0
  induction x0 with
  | nil =>
    intro s p slot have' hz
    have ih := hz
    unfold State.appendLog
    try dsimp only
    repeat' (first
      | with_reducible assumption
      | with_reducible apply ih
      | with_reducible apply State.writeMem_keeps
      | split
      | intro)
  | cons e r ih =>
    intro s p slot have' hz
    unfold State.appendLog
    try dsimp only
    repeat' (first
      | with_reducible assumption
      | with_reducible apply ih
      | with_reducible apply State.writeMem_keeps
      | split
      | intro)

theorem State.writeRecord_keeps {z0 : State} (s : State) (p slot : Nat) (hz : Keeps z0 s) :
    Keeps z0 (State.writeRecord s p slot) := by
  unfold State.writeRecord
  try dsimp only
  repeat' (first
    | with_reducible assumption
    | with_reducible apply State.freshBytes_keeps
    | with_reducible apply State.writeMem_keeps
    | split
    | intro)

theorem State.takeSlots_keeps {z0 : State} : ∀ (x1 : List Nat) (s : State) (p : Nat) (d : List Byte) (nfork : Nat) (resumed : List Nat) (unacked : List Nat) (x0 : Nat), Keeps z0 s → Keeps z0 (State.takeSlots s p d nfork resumed unacked x0 x1) := by
  intro x1
  induction x1 with
  | nil =>
    intro s p d nfork resumed unacked x0 hz
    have ih := hz
    unfold State.takeSlots
    try dsimp only
    repeat' (first
      | with_reducible assumption
      | with_reducible apply ih
      | with_reducible apply State.setPart_keeps
      | with_reducible apply State.writeContext_keeps
      | with_reducible apply State.appendLog_keeps
      | with_reducible apply State.writeRecord_keeps
      | (simp only [keeps_mk]; first | with_reducible apply KeepsParts.of | with_reducible apply KeepsParts.free | with_reducible apply KeepsParts.cut | with_reducible apply KeepsParts.cutMem | with_reducible apply KeepsParts.cutPoison | with_reducible apply KeepsParts.cutAll | with_reducible apply KeepsParts.said)
      | split
      | intro)
  | cons e r ih =>
    intro s p d nfork resumed unacked x0 hz
    unfold State.takeSlots
    try dsimp only
    repeat' (first
      | with_reducible assumption
      | with_reducible apply ih
      | with_reducible apply State.setPart_keeps
      | with_reducible apply State.writeContext_keeps
      | with_reducible apply State.appendLog_keeps
      | with_reducible apply State.writeRecord_keeps
      | (simp only [keeps_mk]; first | with_reducible apply KeepsParts.of | with_reducible apply KeepsParts.free | with_reducible apply KeepsParts.cut | with_reducible apply KeepsParts.cutMem | with_reducible apply KeepsParts.cutPoison | with_reducible apply KeepsParts.cutAll | with_reducible apply KeepsParts.said)
      | split
      | intro)

theorem State.forkSeq_keeps {z0 : State} (s : State) (p slot : Nat) (hz : Keeps z0 s) :
    Keeps z0 (State.forkSeq s p slot) := by
  unfold State.forkSeq
  try dsimp only
  repeat' (first
    | with_reducible assumption
    | with_reducible apply State.setPart_keeps
    | with_reducible apply State.forkPages_keeps
    | with_reducible apply foldl_keeps
    | with_reducible apply foldl_fst_keeps
    | with_reducible apply foldl_snd_keeps
    | (simp only [keeps_mk]; first | with_reducible apply KeepsParts.of | with_reducible apply KeepsParts.free | with_reducible apply KeepsParts.cut | with_reducible apply KeepsParts.cutMem | with_reducible apply KeepsParts.cutPoison | with_reducible apply KeepsParts.cutAll | with_reducible apply KeepsParts.said)
    | split
    | intro)

theorem State.fixMatch_keeps {z0 : State} (s : State) (p slot m : Nat) (hz : Keeps z0 s) :
    Keeps z0 (State.fixMatch s p slot m) := by
  unfold State.fixMatch
  try dsimp only
  repeat' (first
    | with_reducible assumption
    | with_reducible apply State.partEvent_keeps
    | with_reducible apply State.mapBlocks_keeps
    | with_reducible apply State.updSlot_keeps
    | with_reducible apply State.forkSeq_keeps
    | with_reducible apply foldl_keeps
    | with_reducible apply foldl_fst_keeps
    | with_reducible apply foldl_snd_keeps
    | (simp only [keeps_mk]; first | with_reducible apply KeepsParts.of | with_reducible apply KeepsParts.free | with_reducible apply KeepsParts.cut | with_reducible apply KeepsParts.cutMem | with_reducible apply KeepsParts.cutPoison | with_reducible apply KeepsParts.cutAll | with_reducible apply KeepsParts.said)
    | split
    | intro)

theorem State.preempt_keeps {z0 : State} (s : State) (p slot : Nat) (hz : Keeps z0 s) :
    Keeps z0 (State.preempt s p slot) := by
  unfold State.preempt
  try dsimp only
  repeat' (first
    | with_reducible assumption
    | with_reducible apply State.setPart_keeps
    | with_reducible apply State.irq_keeps
    | with_reducible apply State.count_keeps
    | with_reducible apply State.partEvent_keeps
    | with_reducible apply State.retirePages_keeps
    | with_reducible apply State.sendGroup_keeps
    | with_reducible apply State.outcome_keeps
    | with_reducible apply State.retireHere_keeps
    | with_reducible apply State.endSeq_keeps
    | with_reducible apply State.copyDesc_keeps
    | (simp only [keeps_mk]; first | with_reducible apply KeepsParts.of | with_reducible apply KeepsParts.free | with_reducible apply KeepsParts.cut | with_reducible apply KeepsParts.cutMem | with_reducible apply KeepsParts.cutPoison | with_reducible apply KeepsParts.cutAll | with_reducible apply KeepsParts.said)
    | split
    | intro)

theorem State.failAll_keeps {z0 : State} (s : State) (p code : Nat) (hz : Keeps z0 s) :
    Keeps z0 (State.failAll s p code) := by
  unfold State.failAll
  try dsimp only
  repeat' (first
    | with_reducible assumption
    | with_reducible apply State.outcome_keeps
    | with_reducible apply State.retireHere_keeps
    | with_reducible apply foldl_keeps
    | with_reducible apply foldl_fst_keeps
    | with_reducible apply foldl_snd_keeps
    | split
    | intro)

theorem State.breakGroup_keeps {z0 : State} (s : State) (p : Nat) (hz : Keeps z0 s) :
    Keeps z0 (State.breakGroup s p) := by
  unfold State.breakGroup
  try dsimp only
  repeat' (first
    | with_reducible assumption
    | with_reducible apply State.put_keeps
    | with_reducible apply State.irq_keeps
    | split
    | intro)

theorem State.discard_keeps {z0 : State} (s : State) (u : UnitId) (reason : Nat) (hz : Keeps z0 s) :
    Keeps z0 (State.discard s u reason) := by
  unfold State.discard
  try dsimp only
  repeat' (first
    | with_reducible assumption
    | with_reducible apply State.irq_keeps
    | with_reducible apply State.eventM_keeps
    | (simp only [keeps_mk]; first | with_reducible apply KeepsParts.of | with_reducible apply KeepsParts.free | with_reducible apply KeepsParts.cut | with_reducible apply KeepsParts.cutMem | with_reducible apply KeepsParts.cutPoison | with_reducible apply KeepsParts.cutAll | with_reducible apply KeepsParts.said)
    | split
    | intro)

theorem State.markRetired_keeps {z0 : State} (s : State) (u : UnitId) (reason : Nat) (hz : Keeps z0 s) :
    Keeps z0 (State.markRetired s u reason) := by
  unfold State.markRetired
  try dsimp only
  repeat' (first
    | with_reducible assumption
    | with_reducible apply State.put_keeps
    | with_reducible apply State.count_keeps
    | with_reducible apply State.unitEvent_keeps
    | with_reducible apply State.discard_keeps
    | (simp only [keeps_mk]; first | with_reducible apply KeepsParts.of | with_reducible apply KeepsParts.free | with_reducible apply KeepsParts.cut | with_reducible apply KeepsParts.cutMem | with_reducible apply KeepsParts.cutPoison | with_reducible apply KeepsParts.cutAll | with_reducible apply KeepsParts.said)
    | split
    | intro)

theorem State.makeVacant_keeps {z0 : State} (s : State) (u : UnitId) (l reason : Nat) (hz : Keeps z0 s) :
    Keeps z0 (State.makeVacant s u l reason) := by
  unfold State.makeVacant
  try dsimp only
  repeat' (first
    | with_reducible assumption
    | with_reducible apply State.irq_keeps
    | with_reducible apply State.count_keeps
    | with_reducible apply State.setState_keeps
    | with_reducible apply State.unitEvent_keeps
    | with_reducible apply State.answerWaiting_keeps
    | with_reducible apply State.markRetired_keeps
    | (simp only [keeps_mk]; first | with_reducible apply KeepsParts.of | with_reducible apply KeepsParts.free | with_reducible apply KeepsParts.cut | with_reducible apply KeepsParts.cutMem | with_reducible apply KeepsParts.cutPoison | with_reducible apply KeepsParts.cutAll | with_reducible apply KeepsParts.said)
    | split
    | intro)

theorem State.txnSet_keeps {z0 : State} (s : State) (result reason page off : Nat) (hz : Keeps z0 s) :
    Keeps z0 (State.txnSet s result reason page off) := by
  unfold State.txnSet
  try dsimp only
  repeat' (first
    | with_reducible assumption
    | with_reducible apply State.put_keeps
    | split
    | intro)

theorem State.mccOpens_keeps {z0 : State} (s : State) (kind : Nat) (hz : Keeps z0 s) :
    Keeps z0 (State.mccOpens s kind) := by
  unfold State.mccOpens
  try dsimp only
  repeat' (first
    | with_reducible assumption
    | with_reducible apply State.put_keeps
    | (simp only [keeps_mk]; first | with_reducible apply KeepsParts.of | with_reducible apply KeepsParts.free | with_reducible apply KeepsParts.cut | with_reducible apply KeepsParts.cutMem | with_reducible apply KeepsParts.cutPoison | with_reducible apply KeepsParts.cutAll | with_reducible apply KeepsParts.said)
    | split
    | intro)

theorem State.mccCommit_keeps {z0 : State} (s : State) (kind : Nat) (hz : Keeps z0 s) :
    Keeps z0 (State.mccCommit s kind) := by
  unfold State.mccCommit
  try dsimp only
  repeat' (first
    | with_reducible assumption
    | with_reducible apply State.irq_keeps
    | with_reducible apply State.count_keeps
    | with_reducible apply State.txnSet_keeps
    | with_reducible apply State.mccOpens_keeps
    | split
    | intro)

theorem State.mccAbort_keeps {z0 : State} (s : State) (kind reason page : Nat) (hz : Keeps z0 s) :
    Keeps z0 (State.mccAbort s kind reason page) := by
  unfold State.mccAbort
  try dsimp only
  repeat' (first
    | with_reducible assumption
    | with_reducible apply State.irq_keeps
    | with_reducible apply State.count_keeps
    | with_reducible apply State.txnSet_keeps
    | with_reducible apply State.mccOpens_keeps
    | split
    | intro)

theorem State.copyField_keeps {z0 : State} (s : State) (src dst : UnitId) (f : Field) (hz : Keeps z0 s) :
    Keeps z0 (State.copyField s src dst f) := by
  unfold State.copyField
  try dsimp only
  repeat' (first
    | with_reducible assumption
    | with_reducible apply State.put_keeps
    | with_reducible apply State.count_keeps
    | with_reducible apply foldl_keeps
    | with_reducible apply foldl_fst_keeps
    | with_reducible apply foldl_snd_keeps
    | split
    | intro)

theorem State.applyRemap_keeps {z0 : State} (s : State) (r : RemapRec) (hz : Keeps z0 s) :
    Keeps z0 (State.applyRemap s r) := by
  unfold State.applyRemap
  try dsimp only
  repeat' (first
    | with_reducible assumption
    | with_reducible apply State.put_keeps
    | with_reducible apply State.setUnit_keeps
    | with_reducible apply State.irq_keeps
    | with_reducible apply State.count_keeps
    | with_reducible apply State.setState_keeps
    | with_reducible apply State.eventPM_keeps
    | with_reducible apply State.markRetired_keeps
    | with_reducible apply State.makeVacant_keeps
    | with_reducible apply State.copyField_keeps
    | with_reducible apply foldl_keeps
    | with_reducible apply foldl_fst_keeps
    | with_reducible apply foldl_snd_keeps
    | (simp only [keeps_mk]; first | with_reducible apply KeepsParts.of | with_reducible apply KeepsParts.free | with_reducible apply KeepsParts.cut | with_reducible apply KeepsParts.cutMem | with_reducible apply KeepsParts.cutPoison | with_reducible apply KeepsParts.cutAll | with_reducible apply KeepsParts.said)
    | split
    | intro)

theorem State.afterCommit_keeps {z0 : State} (s : State) (r : RemapRec) (hz : Keeps z0 s) :
    Keeps z0 (State.afterCommit s r) := by
  unfold State.afterCommit
  try dsimp only
  repeat' (first
    | with_reducible assumption
    | with_reducible apply State.put_keeps
    | with_reducible apply State.setUnit_keeps
    | with_reducible apply State.applyRemap_keeps
    | with_reducible apply foldl_keeps
    | with_reducible apply foldl_fst_keeps
    | with_reducible apply foldl_snd_keeps
    | (simp only [keeps_mk]; first | with_reducible apply KeepsParts.of | with_reducible apply KeepsParts.free | with_reducible apply KeepsParts.cut | with_reducible apply KeepsParts.cutMem | with_reducible apply KeepsParts.cutPoison | with_reducible apply KeepsParts.cutAll | with_reducible apply KeepsParts.said)
    | split
    | intro)

theorem State.commitRemap_keeps {z0 : State} (s : State) (r : RemapRec) (hz : Keeps z0 s) :
    Keeps z0 (State.commitRemap s r) := by
  unfold State.commitRemap
  try dsimp only
  repeat' (first
    | with_reducible assumption
    | with_reducible apply KeepsO.next
    | with_reducible apply State.mccCommit_keeps
    | with_reducible apply State.afterCommit_keeps
    | (simp only [keeps_mk]; first | with_reducible apply KeepsParts.of | with_reducible apply KeepsParts.free | with_reducible apply KeepsParts.cut | with_reducible apply KeepsParts.cutMem | with_reducible apply KeepsParts.cutPoison | with_reducible apply KeepsParts.cutAll | with_reducible apply KeepsParts.said)
    | split
    | intro)

theorem State.startRemap_keeps {z0 : State} (s : State) (u : UnitId) (l reason : Nat) (hz : Keeps z0 s) :
    Keeps z0 (State.startRemap s u l reason) := by
  unfold State.startRemap
  try dsimp only
  repeat' (first
    | with_reducible assumption
    | with_reducible apply State.setUnit_keeps
    | with_reducible apply State.setState_keeps
    | with_reducible apply State.makeVacant_keeps
    | with_reducible apply State.commitRemap_keeps
    | (simp only [keeps_mk]; first | with_reducible apply KeepsParts.of | with_reducible apply KeepsParts.free | with_reducible apply KeepsParts.cut | with_reducible apply KeepsParts.cutMem | with_reducible apply KeepsParts.cutPoison | with_reducible apply KeepsParts.cutAll | with_reducible apply KeepsParts.said)
    | split
    | intro)

theorem State.retire_keeps {z0 : State} (s : State) (u : UnitId) (reason : Nat) (hz : Keeps z0 s) :
    Keeps z0 (State.retire s u reason) := by
  unfold State.retire
  try dsimp only
  repeat' (first
    | with_reducible assumption
    | with_reducible apply State.setState_keeps
    | with_reducible apply State.markRetired_keeps
    | with_reducible apply State.makeVacant_keeps
    | with_reducible apply State.startRemap_keeps
    | (simp only [keeps_mk]; first | with_reducible apply KeepsParts.of | with_reducible apply KeepsParts.free | with_reducible apply KeepsParts.cut | with_reducible apply KeepsParts.cutMem | with_reducible apply KeepsParts.cutPoison | with_reducible apply KeepsParts.cutAll | with_reducible apply KeepsParts.said)
    | split
    | intro)

theorem State.endLanes_keeps {z0 : State} (s : State) (u : UnitId) (st : Nat) (which : Lane → Bool) (hz : Keeps z0 s) :
    Keeps z0 (State.endLanes s u st which) := by
  unfold State.endLanes
  try dsimp only
  repeat' (first
    | with_reducible assumption
    | with_reducible apply State.setUnit_keeps
    | with_reducible apply State.poisonOuts_keeps
    | with_reducible apply State.sawPoison_keeps
    | with_reducible apply foldl_keeps
    | with_reducible apply foldl_fst_keeps
    | with_reducible apply foldl_snd_keeps
    | (simp only [keeps_mk]; first | with_reducible apply KeepsParts.of | with_reducible apply KeepsParts.free | with_reducible apply KeepsParts.cut | with_reducible apply KeepsParts.cutMem | with_reducible apply KeepsParts.cutPoison | with_reducible apply KeepsParts.cutAll | with_reducible apply KeepsParts.said)
    | split
    | intro)

theorem State.faultUnit_keeps {z0 : State} (s : State) (u : UnitId) (reason : Nat) (hz : Keeps z0 s) :
    Keeps z0 (State.faultUnit s u reason) := by
  unfold State.faultUnit
  try dsimp only
  repeat' (first
    | with_reducible assumption
    | with_reducible apply State.setPart_keeps
    | with_reducible apply State.setUnit_keeps
    | with_reducible apply State.setState_keeps
    | with_reducible apply State.unitEvent_keeps
    | with_reducible apply State.setNet_keeps
    | with_reducible apply State.retire_keeps
    | with_reducible apply State.endLanes_keeps
    | (simp only [keeps_mk]; first | with_reducible apply KeepsParts.of | with_reducible apply KeepsParts.free | with_reducible apply KeepsParts.cut | with_reducible apply KeepsParts.cutMem | with_reducible apply KeepsParts.cutPoison | with_reducible apply KeepsParts.cutAll | with_reducible apply KeepsParts.said)
    | split
    | intro)

theorem State.review_keeps {z0 : State} (s : State) (u : UnitId) (hz : Keeps z0 s) :
    Keeps z0 (State.review s u) := by
  unfold State.review
  try dsimp only
  repeat' (first
    | with_reducible assumption
    | with_reducible apply State.retire_keeps
    | with_reducible apply State.faultUnit_keeps
    | (simp only [keeps_mk]; first | with_reducible apply KeepsParts.of | with_reducible apply KeepsParts.free | with_reducible apply KeepsParts.cut | with_reducible apply KeepsParts.cutMem | with_reducible apply KeepsParts.cutPoison | with_reducible apply KeepsParts.cutAll | with_reducible apply KeepsParts.said)
    | split
    | intro)

theorem State.reviewAll_keeps {z0 : State} (s : State) (hz : Keeps z0 s) :
    Keeps z0 (State.reviewAll s) := by
  unfold State.reviewAll
  try dsimp only
  repeat' (first
    | with_reducible assumption
    | with_reducible apply State.review_keeps
    | with_reducible apply foldl_keeps
    | with_reducible apply foldl_fst_keeps
    | with_reducible apply foldl_snd_keeps
    | (simp only [keeps_mk]; first | with_reducible apply KeepsParts.of | with_reducible apply KeepsParts.free | with_reducible apply KeepsParts.cut | with_reducible apply KeepsParts.cutMem | with_reducible apply KeepsParts.cutPoison | with_reducible apply KeepsParts.cutAll | with_reducible apply KeepsParts.said)
    | split
    | intro)

theorem execSpareReady_keeps {z0 : State} (spare : UnitId) (s : State) (hz : Keeps z0 s) :
    KeepsO z0 (execSpareReady spare s) := by
  unfold execSpareReady
  try dsimp only
  repeat' (first
    | with_reducible assumption
    | with_reducible apply KeepsO.next
    | with_reducible apply State.commitRemap_keeps
    | (simp only [keeps_mk]; first | with_reducible apply KeepsParts.of | with_reducible apply KeepsParts.free | with_reducible apply KeepsParts.cut | with_reducible apply KeepsParts.cutMem | with_reducible apply KeepsParts.cutPoison | with_reducible apply KeepsParts.cutAll | with_reducible apply KeepsParts.said)
    | split
    | intro)

theorem State.remapGoes_keeps {z0 : State} (s : State) (u : UnitId) (hz : Keeps z0 s) :
    Keeps z0 (State.remapGoes s u) := by
  unfold State.remapGoes
  try dsimp only
  repeat' (first
    | with_reducible assumption
    | with_reducible apply State.applyRemap_keeps
    | with_reducible apply State.commitRemap_keeps
    | (simp only [keeps_mk]; first | with_reducible apply KeepsParts.of | with_reducible apply KeepsParts.free | with_reducible apply KeepsParts.cut | with_reducible apply KeepsParts.cutMem | with_reducible apply KeepsParts.cutPoison | with_reducible apply KeepsParts.cutAll | with_reducible apply KeepsParts.said)
    | split
    | intro)

theorem execRemapDrainTimeout_keeps {z0 : State} (u : UnitId) (s : State) (hz : Keeps z0 s) :
    KeepsO z0 (execRemapDrainTimeout u s) := by
  unfold execRemapDrainTimeout
  try dsimp only
  repeat' (first
    | with_reducible assumption
    | with_reducible apply KeepsO.next
    | with_reducible apply State.setUnit_keeps
    | with_reducible apply State.count_keeps
    | with_reducible apply State.setState_keeps
    | (simp only [keeps_mk]; first | with_reducible apply KeepsParts.of | with_reducible apply KeepsParts.free | with_reducible apply KeepsParts.cut | with_reducible apply KeepsParts.cutMem | with_reducible apply KeepsParts.cutPoison | with_reducible apply KeepsParts.cutAll | with_reducible apply KeepsParts.said)
    | split
    | intro)

theorem execDiscardProgrammed_keeps {z0 : State} (s : State) (hz : Keeps z0 s) :
    KeepsO z0 (execDiscardProgrammed s) := by
  unfold execDiscardProgrammed
  try dsimp only
  repeat' (first
    | with_reducible assumption
    | with_reducible apply KeepsO.next
    | with_reducible apply State.discard_keeps
    | (simp only [keeps_mk]; first | with_reducible apply KeepsParts.of | with_reducible apply KeepsParts.free | with_reducible apply KeepsParts.cut | with_reducible apply KeepsParts.cutMem | with_reducible apply KeepsParts.cutPoison | with_reducible apply KeepsParts.cutAll | with_reducible apply KeepsParts.said)
    | split
    | intro)

theorem State.signal_keeps {z0 : State} (s : State) (c n : Nat) (hz : Keeps z0 s) :
    Keeps z0 (State.signal s c n) := by
  unfold State.signal
  try dsimp only
  repeat' (first
    | with_reducible assumption
    | (simp only [keeps_mk]; first | with_reducible apply KeepsParts.of | with_reducible apply KeepsParts.free | with_reducible apply KeepsParts.cut | with_reducible apply KeepsParts.cutMem | with_reducible apply KeepsParts.cutPoison | with_reducible apply KeepsParts.cutAll | with_reducible apply KeepsParts.said)
    | split
    | intro)

theorem State.zeroGranules_keeps {z0 : State} (s : State) (gs : List Nat) (hz : Keeps z0 s) :
    Keeps z0 (State.zeroGranules s gs) := by
  unfold State.zeroGranules
  try dsimp only
  repeat' (first
    | with_reducible assumption
    | (simp only [keeps_mk]; first | with_reducible apply KeepsParts.of | with_reducible apply KeepsParts.free | with_reducible apply KeepsParts.cut | with_reducible apply KeepsParts.cutMem | with_reducible apply KeepsParts.cutPoison | with_reducible apply KeepsParts.cutAll | with_reducible apply KeepsParts.said)
    | split
    | intro)

theorem State.phaseStart_keeps {z0 : State} (s : State) (p : Nat) (t : StepRec) (ph : Nat) (hz : Keeps z0 s) :
    Keeps z0 (State.phaseStart s p t ph) := by
  unfold State.phaseStart
  try dsimp only
  repeat' (first
    | with_reducible assumption
    | (simp only [keeps_mk]; first | with_reducible apply KeepsParts.of | with_reducible apply KeepsParts.free | with_reducible apply KeepsParts.cut | with_reducible apply KeepsParts.cutMem | with_reducible apply KeepsParts.cutPoison | with_reducible apply KeepsParts.cutAll | with_reducible apply KeepsParts.said)
    | split
    | intro)

theorem State.phaseEnd_keeps {z0 : State} (s : State) (p pslot ph : Nat) (hz : Keeps z0 s) :
    Keeps z0 (State.phaseEnd s p pslot ph) := by
  unfold State.phaseEnd
  try dsimp only
  repeat' (first
    | with_reducible assumption
    | with_reducible apply State.fresh_keeps
    | with_reducible apply State.count_keeps
    | (simp only [keeps_mk]; first | with_reducible apply KeepsParts.of | with_reducible apply KeepsParts.free | with_reducible apply KeepsParts.cut | with_reducible apply KeepsParts.cutMem | with_reducible apply KeepsParts.cutPoison | with_reducible apply KeepsParts.cutAll | with_reducible apply KeepsParts.said)
    | split
    | intro)

theorem State.endPhases_keeps {z0 : State} (s : State) (p : Nat) (hz : Keeps z0 s) :
    Keeps z0 (State.endPhases s p) := by
  unfold State.endPhases
  try dsimp only
  repeat' (first
    | with_reducible assumption
    | with_reducible apply State.setPart_keeps
    | with_reducible apply State.phaseEnd_keeps
    | with_reducible apply foldl_keeps
    | with_reducible apply foldl_fst_keeps
    | with_reducible apply foldl_snd_keeps
    | (simp only [keeps_mk]; first | with_reducible apply KeepsParts.of | with_reducible apply KeepsParts.free | with_reducible apply KeepsParts.cut | with_reducible apply KeepsParts.cutMem | with_reducible apply KeepsParts.cutPoison | with_reducible apply KeepsParts.cutAll | with_reducible apply KeepsParts.said)
    | split
    | intro)

theorem State.laneStatus_keeps {z0 : State} (s : State) (l : Lane) (number st : Nat) (u : Option UnitId) (hz : Keeps z0 s) :
    Keeps z0 (State.laneStatus s l number st u) := by
  unfold State.laneStatus
  try dsimp only
  repeat' (first
    | with_reducible assumption
    | with_reducible apply State.eventP_keeps
    | split
    | intro)

theorem State.finishLane_keeps {z0 : State} (s : State) (l : Lane) (st : Nat) (u : Option UnitId) (hz : Keeps z0 s) :
    Keeps z0 (State.finishLane s l st u) := by
  unfold State.finishLane
  try dsimp only
  repeat' (first
    | with_reducible assumption
    | with_reducible apply State.setPart_keeps
    | with_reducible apply State.signal_keeps
    | with_reducible apply State.laneStatus_keeps
    | (simp only [keeps_mk]; first | with_reducible apply KeepsParts.of | with_reducible apply KeepsParts.free | with_reducible apply KeepsParts.cut | with_reducible apply KeepsParts.cutMem | with_reducible apply KeepsParts.cutPoison | with_reducible apply KeepsParts.cutAll | with_reducible apply KeepsParts.said)
    | split
    | intro)

theorem State.endUnissued_keeps {z0 : State} (s : State) (l : Lane) (st : Nat) (hz : Keeps z0 s) :
    Keeps z0 (State.endUnissued s l st) := by
  unfold State.endUnissued
  try dsimp only
  repeat' (first
    | with_reducible assumption
    | with_reducible apply State.poisonOuts_keeps
    | with_reducible apply State.endPhases_keeps
    | with_reducible apply State.finishLane_keeps
    | split
    | intro)

theorem State.planRead_keeps {z0 : State} (s : State) (p tmpl a n : Nat) (hz : Keeps z0 s) :
    Keeps z0 (State.planRead s p tmpl a n) := by
  unfold State.planRead
  try dsimp only
  repeat' (first
    | with_reducible assumption
    | with_reducible apply State.setPart_keeps
    | with_reducible apply State.dealerReads_keeps
    | (simp only [keeps_mk]; first | with_reducible apply KeepsParts.of | with_reducible apply KeepsParts.free | with_reducible apply KeepsParts.cut | with_reducible apply KeepsParts.cutMem | with_reducible apply KeepsParts.cutPoison | with_reducible apply KeepsParts.cutAll | with_reducible apply KeepsParts.said)
    | split
    | intro)

theorem State.tmplRead_keeps {z0 : State} (s : State) (p a i : Nat) (hz : Keeps z0 s) :
    Keeps z0 (State.tmplRead s p a i) := by
  unfold State.tmplRead
  try dsimp only
  repeat' (first
    | with_reducible assumption
    | with_reducible apply State.planRead_keeps
    | with_reducible apply foldl_keeps
    | with_reducible apply foldl_fst_keeps
    | with_reducible apply foldl_snd_keeps
    | split
    | intro)

theorem State.failoverVote_keeps {z0 : State} (s : State) (p : Nat) (hz : Keeps z0 s) :
    Keeps z0 (State.failoverVote s p) := by
  unfold State.failoverVote
  try dsimp only
  repeat' (first
    | with_reducible assumption
    | with_reducible apply State.setPart_keeps
    | with_reducible apply State.sendLead_keeps
    | (simp only [keeps_mk]; first | with_reducible apply KeepsParts.of | with_reducible apply KeepsParts.free | with_reducible apply KeepsParts.cut | with_reducible apply KeepsParts.cutMem | with_reducible apply KeepsParts.cutPoison | with_reducible apply KeepsParts.cutAll | with_reducible apply KeepsParts.said)
    | split
    | intro)

theorem State.dropOldGranules_keeps {z0 : State} (s : State) (p : Nat) (hz : Keeps z0 s) :
    Keeps z0 (State.dropOldGranules s p) := by
  unfold State.dropOldGranules
  try dsimp only
  repeat' (first
    | with_reducible assumption
    | with_reducible apply State.setPart_keeps
    | with_reducible apply State.failoverVote_keeps
    | (simp only [keeps_mk]; first | with_reducible apply KeepsParts.of | with_reducible apply KeepsParts.free | with_reducible apply KeepsParts.cut | with_reducible apply KeepsParts.cutMem | with_reducible apply KeepsParts.cutPoison | with_reducible apply KeepsParts.cutAll | with_reducible apply KeepsParts.said)
    | split
    | intro)

theorem State.endAbandoned_keeps {z0 : State} (s : State) (p : Nat) (hz : Keeps z0 s) :
    Keeps z0 (State.endAbandoned s p) := by
  unfold State.endAbandoned
  try dsimp only
  repeat' (first
    | with_reducible assumption
    | with_reducible apply State.setPart_keeps
    | with_reducible apply State.setPge_keeps
    | with_reducible apply State.dropPending_keeps
    | with_reducible apply foldl_keeps
    | with_reducible apply foldl_fst_keeps
    | with_reducible apply foldl_snd_keeps
    | (simp only [keeps_mk]; first | with_reducible apply KeepsParts.of | with_reducible apply KeepsParts.free | with_reducible apply KeepsParts.cut | with_reducible apply KeepsParts.cutMem | with_reducible apply KeepsParts.cutPoison | with_reducible apply KeepsParts.cutAll | with_reducible apply KeepsParts.said)
    | split
    | intro)

theorem State.completeLane_keeps {z0 : State} (s : State) (u : UnitId) (l : Lane) (st : Nat) (hz : Keeps z0 s) :
    Keeps z0 (State.completeLane s u l st) := by
  unfold State.completeLane
  try dsimp only
  repeat' (first
    | with_reducible assumption
    | with_reducible apply State.setUnit_keeps
    | with_reducible apply State.count_keeps
    | with_reducible apply State.note_keeps
    | with_reducible apply State.reviewAll_keeps
    | with_reducible apply State.endPhases_keeps
    | with_reducible apply State.finishLane_keeps
    | with_reducible apply State.dropOldGranules_keeps
    | with_reducible apply State.endAbandoned_keeps
    | (simp only [keeps_mk]; first | with_reducible apply KeepsParts.of | with_reducible apply KeepsParts.free | with_reducible apply KeepsParts.cut | with_reducible apply KeepsParts.cutMem | with_reducible apply KeepsParts.cutPoison | with_reducible apply KeepsParts.cutAll | with_reducible apply KeepsParts.said)
    | split
    | intro)

theorem execTemplateIssue_keeps {z0 : State} (part tmpl : Nat) (s : State) (hz : Keeps z0 s) :
    KeepsO z0 (execTemplateIssue part tmpl s) := by
  unfold execTemplateIssue
  try dsimp only
  repeat' (first
    | with_reducible assumption
    | with_reducible apply KeepsO.next
    | with_reducible apply State.setPart_keeps
    | with_reducible apply State.tmplRead_keeps
    | (simp only [keeps_mk]; first | with_reducible apply KeepsParts.of | with_reducible apply KeepsParts.free | with_reducible apply KeepsParts.cut | with_reducible apply KeepsParts.cutMem | with_reducible apply KeepsParts.cutPoison | with_reducible apply KeepsParts.cutAll | with_reducible apply KeepsParts.said)
    | split
    | intro)

theorem execTemplateSkip_keeps {z0 : State} (part tmpl : Nat) (s : State) (hz : Keeps z0 s) :
    KeepsO z0 (execTemplateSkip part tmpl s) := by
  unfold execTemplateSkip
  try dsimp only
  repeat' (first
    | with_reducible assumption
    | with_reducible apply KeepsO.next
    | with_reducible apply State.setPart_keeps
    | with_reducible apply State.signal_keeps
    | with_reducible apply State.tmplRead_keeps
    | (simp only [keeps_mk]; first | with_reducible apply KeepsParts.of | with_reducible apply KeepsParts.free | with_reducible apply KeepsParts.cut | with_reducible apply KeepsParts.cutMem | with_reducible apply KeepsParts.cutPoison | with_reducible apply KeepsParts.cutAll | with_reducible apply KeepsParts.said)
    | split
    | intro)

theorem execNop_keeps {z0 : State} (part tmpl : Nat) (s : State) (hz : Keeps z0 s) :
    KeepsO z0 (execNop part tmpl s) := by
  unfold execNop
  try dsimp only
  repeat' (first
    | with_reducible assumption
    | with_reducible apply KeepsO.next
    | with_reducible apply State.setPart_keeps
    | with_reducible apply State.finishLane_keeps
    | with_reducible apply State.tmplRead_keeps
    | (simp only [keeps_mk]; first | with_reducible apply KeepsParts.of | with_reducible apply KeepsParts.free | with_reducible apply KeepsParts.cut | with_reducible apply KeepsParts.cutMem | with_reducible apply KeepsParts.cutPoison | with_reducible apply KeepsParts.cutAll | with_reducible apply KeepsParts.said)
    | split
    | intro)

theorem State.stopRun_keeps {z0 : State} (s : State) (u : UnitId) (l : Lane) (hz : Keeps z0 s) :
    Keeps z0 (State.stopRun s u l) := by
  unfold State.stopRun
  try dsimp only
  repeat' (first
    | with_reducible assumption
    | with_reducible apply State.setRun_keeps
    | with_reducible apply State.dmaGo_keeps
    | (simp only [keeps_mk]; first | with_reducible apply KeepsParts.of | with_reducible apply KeepsParts.free | with_reducible apply KeepsParts.cut | with_reducible apply KeepsParts.cutMem | with_reducible apply KeepsParts.cutPoison | with_reducible apply KeepsParts.cutAll | with_reducible apply KeepsParts.said)
    | split
    | intro)

theorem State.stopDma_keeps {z0 : State} (s : State) (u : UnitId) (hz : Keeps z0 s) :
    Keeps z0 (State.stopDma s u) := by
  unfold State.stopDma
  try dsimp only
  repeat' (first
    | with_reducible assumption
    | with_reducible apply State.dmaStart_keeps
    | with_reducible apply State.endLanes_keeps
    | with_reducible apply State.stopRun_keeps
    | (simp only [keeps_mk]; first | with_reducible apply KeepsParts.of | with_reducible apply KeepsParts.free | with_reducible apply KeepsParts.cut | with_reducible apply KeepsParts.cutMem | with_reducible apply KeepsParts.cutPoison | with_reducible apply KeepsParts.cutAll | with_reducible apply KeepsParts.said)
    | split
    | intro)

theorem State.stopLanes_keeps {z0 : State} (s : State) (u : UnitId) (hz : Keeps z0 s) :
    Keeps z0 (State.stopLanes s u) := by
  unfold State.stopLanes
  try dsimp only
  repeat' (first
    | with_reducible assumption
    | with_reducible apply State.put_keeps
    | with_reducible apply State.setUnit_keeps
    | with_reducible apply State.endLanes_keeps
    | with_reducible apply State.stopDma_keeps
    | (simp only [keeps_mk]; first | with_reducible apply KeepsParts.of | with_reducible apply KeepsParts.free | with_reducible apply KeepsParts.cut | with_reducible apply KeepsParts.cutMem | with_reducible apply KeepsParts.cutPoison | with_reducible apply KeepsParts.cutAll | with_reducible apply KeepsParts.said)
    | split
    | intro)

theorem State.stopQueued_keeps {z0 : State} (s : State) (u : UnitId) (hz : Keeps z0 s) :
    Keeps z0 (State.stopQueued s u) := by
  unfold State.stopQueued
  try dsimp only
  repeat' (first
    | with_reducible assumption
    | with_reducible apply State.stopLanes_keeps
    | split
    | intro)

theorem State.breakPoint_keeps {z0 : State} (s : State) (u : UnitId) (hz : Keeps z0 s) :
    Keeps z0 (State.breakPoint s u) := by
  unfold State.breakPoint
  try dsimp only
  repeat' (first
    | with_reducible assumption
    | with_reducible apply State.stopLanes_keeps
    | split
    | intro)

theorem State.unwait_keeps {z0 : State} (s : State) (p : Nat) (l : Lane) (hz : Keeps z0 s) :
    Keeps z0 (State.unwait s p l) := by
  unfold State.unwait
  try dsimp only
  repeat' (first
    | with_reducible assumption
    | with_reducible apply State.setPart_keeps
    | (simp only [keeps_mk]; first | with_reducible apply KeepsParts.of | with_reducible apply KeepsParts.free | with_reducible apply KeepsParts.cut | with_reducible apply KeepsParts.cutMem | with_reducible apply KeepsParts.cutPoison | with_reducible apply KeepsParts.cutAll | with_reducible apply KeepsParts.said)
    | split
    | intro)

theorem State.issueTo_keeps {z0 : State} (s : State) (p : Nat) (t : StepRec) (l : Lane) (logical : Nat) (u : UnitId) (hz : Keeps z0 s) :
    Keeps z0 (State.issueTo s p t l logical u) := by
  unfold State.issueTo
  try dsimp only
  repeat' (first
    | with_reducible assumption
    | with_reducible apply State.setPart_keeps
    | with_reducible apply State.setUnit_keeps
    | with_reducible apply State.phaseStart_keeps
    | with_reducible apply State.planRead_keeps
    | with_reducible apply State.unwait_keeps
    | (simp only [keeps_mk]; first | with_reducible apply KeepsParts.of | with_reducible apply KeepsParts.free | with_reducible apply KeepsParts.cut | with_reducible apply KeepsParts.cutMem | with_reducible apply KeepsParts.cutPoison | with_reducible apply KeepsParts.cutAll | with_reducible apply KeepsParts.said)
    | split
    | intro)

theorem execLaneIssue_keeps {z0 : State} (part tmpl lane : Nat) (s : State) (hz : Keeps z0 s) :
    KeepsO z0 (execLaneIssue part tmpl lane s) := by
  unfold execLaneIssue
  try dsimp only
  repeat' (first
    | with_reducible assumption
    | with_reducible apply KeepsO.next
    | with_reducible apply State.setPart_keeps
    | with_reducible apply State.endUnissued_keeps
    | with_reducible apply State.unwait_keeps
    | with_reducible apply State.issueTo_keeps
    | (simp only [keeps_mk]; first | with_reducible apply KeepsParts.of | with_reducible apply KeepsParts.free | with_reducible apply KeepsParts.cut | with_reducible apply KeepsParts.cutMem | with_reducible apply KeepsParts.cutPoison | with_reducible apply KeepsParts.cutAll | with_reducible apply KeepsParts.said)
    | split
    | intro)

theorem State.settleAborts_keeps {z0 : State} (s : State) (p : Nat) (hz : Keeps z0 s) :
    Keeps z0 (State.settleAborts s p) := by
  unfold State.settleAborts
  try dsimp only
  repeat' (first
    | with_reducible assumption
    | with_reducible apply State.endSeq_keeps
    | with_reducible apply foldl_keeps
    | with_reducible apply foldl_fst_keeps
    | with_reducible apply foldl_snd_keeps
    | split
    | intro)

theorem State.checkRecords_keeps {z0 : State} (s : State) (p : Nat) (hz : Keeps z0 s) :
    Keeps z0 (State.checkRecords s p) := by
  unfold State.checkRecords
  try dsimp only
  repeat' (first
    | with_reducible assumption
    | with_reducible apply State.endSeq_keeps
    | with_reducible apply State.dealerReads_keeps
    | with_reducible apply foldl_keeps
    | with_reducible apply foldl_fst_keeps
    | with_reducible apply foldl_snd_keeps
    | split
    | intro)

theorem State.askMembers_keeps {z0 : State} (s : State) (p : Nat) (t : StepRec) (kind : Msg) (hz : Keeps z0 s) :
    Keeps z0 (State.askMembers s p t kind) := by
  unfold State.askMembers
  try dsimp only
  repeat' (first
    | with_reducible assumption
    | with_reducible apply State.setPart_keeps
    | with_reducible apply State.sendGroup_keeps
    | (simp only [keeps_mk]; first | with_reducible apply KeepsParts.of | with_reducible apply KeepsParts.free | with_reducible apply KeepsParts.cut | with_reducible apply KeepsParts.cutMem | with_reducible apply KeepsParts.cutPoison | with_reducible apply KeepsParts.cutAll | with_reducible apply KeepsParts.said)
    | split
    | intro)

theorem execStepForm_keeps {z0 : State} (part : Nat) (s : State) (hz : Keeps z0 s) :
    KeepsO z0 (execStepForm part s) := by
  unfold execStepForm
  try dsimp only
  repeat' (first
    | with_reducible assumption
    | with_reducible apply KeepsO.next
    | with_reducible apply State.setPart_keeps
    | with_reducible apply State.journaled_keeps
    | with_reducible apply State.endSeq_keeps
    | with_reducible apply State.settleAborts_keeps
    | with_reducible apply State.checkRecords_keeps
    | with_reducible apply State.askMembers_keeps
    | with_reducible apply foldl_keeps
    | with_reducible apply foldl_fst_keeps
    | with_reducible apply foldl_snd_keeps
    | (simp only [keeps_mk]; first | with_reducible apply KeepsParts.of | with_reducible apply KeepsParts.free | with_reducible apply KeepsParts.cut | with_reducible apply KeepsParts.cutMem | with_reducible apply KeepsParts.cutPoison | with_reducible apply KeepsParts.cutAll | with_reducible apply KeepsParts.said)
    | split
    | intro)

theorem State.release_keeps {z0 : State} (s : State) (p : Nat) (hz : Keeps z0 s) :
    Keeps z0 (State.release s p) := by
  unfold State.release
  try dsimp only
  repeat' (first
    | with_reducible assumption
    | with_reducible apply State.setPge_keeps
    | (simp only [keeps_mk]; first | with_reducible apply KeepsParts.of | with_reducible apply KeepsParts.free | with_reducible apply KeepsParts.cut | with_reducible apply KeepsParts.cutMem | with_reducible apply KeepsParts.cutPoison | with_reducible apply KeepsParts.cutAll | with_reducible apply KeepsParts.said)
    | split
    | intro)

theorem State.unform_keeps {z0 : State} (s : State) (p : Nat) (t : StepRec) (hz : Keeps z0 s) :
    Keeps z0 (State.unform s p t) := by
  unfold State.unform
  try dsimp only
  repeat' (first
    | with_reducible assumption
    | with_reducible apply State.setPart_keeps
    | with_reducible apply State.release_keeps
    | (simp only [keeps_mk]; first | with_reducible apply KeepsParts.of | with_reducible apply KeepsParts.free | with_reducible apply KeepsParts.cut | with_reducible apply KeepsParts.cutMem | with_reducible apply KeepsParts.cutPoison | with_reducible apply KeepsParts.cutAll | with_reducible apply KeepsParts.said)
    | split
    | intro)

theorem State.afterRefusal_keeps {z0 : State} (s : State) (p : Nat) (t : StepRec) (hz : Keeps z0 s) :
    Keeps z0 (State.afterRefusal s p t) := by
  unfold State.afterRefusal State.afterRefusal.preemptOne
  try dsimp only
  repeat' (first
    | with_reducible assumption
    | with_reducible apply State.endSeq_keeps
    | with_reducible apply State.preempt_keeps
    | with_reducible apply State.askMembers_keeps
    | with_reducible apply State.release_keeps
    | with_reducible apply State.unform_keeps
    | (simp only [keeps_mk]; first | with_reducible apply KeepsParts.of | with_reducible apply KeepsParts.free | with_reducible apply KeepsParts.cut | with_reducible apply KeepsParts.cutMem | with_reducible apply KeepsParts.cutPoison | with_reducible apply KeepsParts.cutAll | with_reducible apply KeepsParts.said)
    | split
    | intro)

theorem execStepAnswer_keeps {z0 : State} (part member : Nat) (ans : Answer) (s : State) (hz : Keeps z0 s) :
    KeepsO z0 (execStepAnswer part member ans s) := by
  unfold execStepAnswer
  try dsimp only
  repeat' (first
    | with_reducible assumption
    | with_reducible apply KeepsO.next
    | with_reducible apply State.setPart_keeps
    | with_reducible apply State.partEvent_keeps
    | with_reducible apply State.sendGroup_keeps
    | with_reducible apply State.journaled_keeps
    | with_reducible apply State.breakGroup_keeps
    | with_reducible apply State.settleAborts_keeps
    | with_reducible apply State.unform_keeps
    | with_reducible apply State.afterRefusal_keeps
    | (simp only [keeps_mk]; first | with_reducible apply KeepsParts.of | with_reducible apply KeepsParts.free | with_reducible apply KeepsParts.cut | with_reducible apply KeepsParts.cutMem | with_reducible apply KeepsParts.cutPoison | with_reducible apply KeepsParts.cutAll | with_reducible apply KeepsParts.said)
    | split
    | intro)

theorem State.markStale_keeps {z0 : State} (s0 : State) (p : Nat) (hz : Keeps z0 s0) :
    Keeps z0 (State.markStale s0 p) := by
  unfold State.markStale
  try dsimp only
  repeat' (first
    | with_reducible assumption
    | with_reducible apply State.setPart_keeps
    | with_reducible apply State.cancelPart_keeps
    | (simp only [keeps_mk]; first | with_reducible apply KeepsParts.of | with_reducible apply KeepsParts.free | with_reducible apply KeepsParts.cut | with_reducible apply KeepsParts.cutMem | with_reducible apply KeepsParts.cutPoison | with_reducible apply KeepsParts.cutAll | with_reducible apply KeepsParts.said)
    | split
    | intro)

theorem State.endChains_keeps {z0 : State} (s : State) (p : Nat) (hz : Keeps z0 s) :
    Keeps z0 (State.endChains s p) := by
  unfold State.endChains
  try dsimp only
  repeat' (first
    | with_reducible assumption
    | (simp only [keeps_mk]; first | with_reducible apply KeepsParts.of | with_reducible apply KeepsParts.free | with_reducible apply KeepsParts.cut | with_reducible apply KeepsParts.cutMem | with_reducible apply KeepsParts.cutPoison | with_reducible apply KeepsParts.cutAll | with_reducible apply KeepsParts.said)
    | split
    | intro)

theorem State.answer_keeps {z0 : State} (s : State) (p number code need : Nat) (hz : Keeps z0 s) :
    Keeps z0 (State.answer s p number code need) := by
  unfold State.answer
  try dsimp only
  repeat' (first
    | with_reducible assumption
    | with_reducible apply State.sendLead_keeps
    | split
    | intro)

theorem State.followEntry_keeps {z0 : State} (s : State) (p : Nat) (e : Entry) (hz : Keeps z0 s) :
    Keeps z0 (State.followEntry s p e) := by
  unfold State.followEntry
  try dsimp only
  repeat' (first
    | with_reducible assumption
    | with_reducible apply State.mapBlocks_keeps
    | with_reducible apply State.forkSeq_keeps
    | (simp only [keeps_mk]; first | with_reducible apply KeepsParts.of | with_reducible apply KeepsParts.free | with_reducible apply KeepsParts.cut | with_reducible apply KeepsParts.cutMem | with_reducible apply KeepsParts.cutPoison | with_reducible apply KeepsParts.cutAll | with_reducible apply KeepsParts.said)
    | split
    | intro)

theorem State.takeHeader_keeps {z0 : State} (s0 : State) (p : Nat) (h : Header) (t : StepRec) (hz : Keeps z0 s0) :
    Keeps z0 (State.takeHeader s0 p h t) := by
  unfold State.takeHeader
  try dsimp only
  repeat' (first
    | with_reducible assumption
    | with_reducible apply State.setPart_keeps
    | with_reducible apply State.reserve_keeps
    | with_reducible apply State.answer_keeps
    | with_reducible apply State.followEntry_keeps
    | with_reducible apply foldl_keeps
    | with_reducible apply foldl_fst_keeps
    | with_reducible apply foldl_snd_keeps
    | (simp only [keeps_mk]; first | with_reducible apply KeepsParts.of | with_reducible apply KeepsParts.free | with_reducible apply KeepsParts.cut | with_reducible apply KeepsParts.cutMem | with_reducible apply KeepsParts.cutPoison | with_reducible apply KeepsParts.cutAll | with_reducible apply KeepsParts.said)
    | split
    | intro)

theorem execStepHeader_keeps {z0 : State} (part : Nat) (hdr : Header) (s : State) (hz : Keeps z0 s) :
    KeepsO z0 (execStepHeader part hdr s) := by
  unfold execStepHeader
  try dsimp only
  repeat' (first
    | with_reducible assumption
    | with_reducible apply KeepsO.next
    | with_reducible apply State.setPart_keeps
    | with_reducible apply State.rouse_keeps
    | with_reducible apply State.dropPending_keeps
    | with_reducible apply State.journaled_keeps
    | with_reducible apply State.release_keeps
    | with_reducible apply State.markStale_keeps
    | with_reducible apply State.endChains_keeps
    | with_reducible apply State.answer_keeps
    | with_reducible apply State.takeHeader_keeps
    | with_reducible apply foldl_keeps
    | with_reducible apply foldl_fst_keeps
    | with_reducible apply foldl_snd_keeps
    | (simp only [keeps_mk]; first | with_reducible apply KeepsParts.of | with_reducible apply KeepsParts.free | with_reducible apply KeepsParts.cut | with_reducible apply KeepsParts.cutMem | with_reducible apply KeepsParts.cutPoison | with_reducible apply KeepsParts.cutAll | with_reducible apply KeepsParts.said)
    | split
    | intro)

theorem execHeaderWithdrawal_keeps {z0 : State} (part step : Nat) (s : State) (hz : Keeps z0 s) :
    KeepsO z0 (execHeaderWithdrawal part step s) := by
  unfold execHeaderWithdrawal
  try dsimp only
  repeat' (first
    | with_reducible assumption
    | with_reducible apply KeepsO.next
    | with_reducible apply State.setPart_keeps
    | with_reducible apply State.dropPending_keeps
    | with_reducible apply State.release_keeps
    | with_reducible apply State.markStale_keeps
    | with_reducible apply State.endChains_keeps
    | with_reducible apply foldl_keeps
    | with_reducible apply foldl_fst_keeps
    | with_reducible apply foldl_snd_keeps
    | (simp only [keeps_mk]; first | with_reducible apply KeepsParts.of | with_reducible apply KeepsParts.free | with_reducible apply KeepsParts.cut | with_reducible apply KeepsParts.cutMem | with_reducible apply KeepsParts.cutPoison | with_reducible apply KeepsParts.cutAll | with_reducible apply KeepsParts.said)
    | split
    | intro)

theorem State.logRun_keeps {z0 : State} (s : State) (p slot i n : Nat) (hz : Keeps z0 s) :
    Keeps z0 (State.logRun s p slot i n).2.2 := by
  unfold State.logRun
  try dsimp only
  repeat' (first
    | with_reducible assumption
    | with_reducible apply State.dealerReads_keeps
    | split
    | intro)

theorem State.promptTokens_keeps {z0 : State} (s : State) (x : SlotRec) (i n : Nat) (hz : Keeps z0 s) :
    Keeps z0 (State.promptTokens s x i n).2.2 := by
  unfold State.promptTokens
  try dsimp only
  repeat' (first
    | with_reducible assumption
    | with_reducible apply State.promptRun_keeps
    | split
    | intro)

theorem State.entryTokens_keeps {z0 : State} (s : State) (p : Nat) (e : Entry) (hz : Keeps z0 s) :
    Keeps z0 (State.entryTokens s p e).2.2 := by
  unfold State.entryTokens
  try dsimp only
  repeat' (first
    | with_reducible assumption
    | with_reducible apply State.logRun_keeps
    | with_reducible apply State.promptTokens_keeps
    | (simp only [keeps_mk]; first | with_reducible apply KeepsParts.of | with_reducible apply KeepsParts.free | with_reducible apply KeepsParts.cut | with_reducible apply KeepsParts.cutMem | with_reducible apply KeepsParts.cutPoison | with_reducible apply KeepsParts.cutAll | with_reducible apply KeepsParts.said)
    | split
    | intro)

theorem State.rowTokens_keeps {z0 : State} : ∀ (x0 : List Entry) (s : State) (p a : Nat) , Keeps z0 s → Keeps z0 (State.rowTokens s p a x0).2.2 := by
  intro x0
  induction x0 with
  | nil =>
    intro s p a hz
    have ih := hz
    unfold State.rowTokens
    try dsimp only
    repeat' (first
      | with_reducible assumption
      | with_reducible apply ih
      | with_reducible apply State.entryTokens_keeps
      | split
      | intro)
  | cons e r ih =>
    intro s p a hz
    unfold State.rowTokens
    try dsimp only
    repeat' (first
      | with_reducible assumption
      | with_reducible apply ih
      | with_reducible apply State.entryTokens_keeps
      | split
      | intro)

theorem State.writeTables_keeps {z0 : State} (s : State) (p : Nat) (t : StepRec) (hz : Keeps z0 s) :
    Keeps z0 (State.writeTables s p t) := by
  unfold State.writeTables
  try dsimp only
  repeat' (first
    | with_reducible assumption
    | with_reducible apply State.poisonRun_keeps
    | with_reducible apply State.tagClear_keeps
    | with_reducible apply State.writeMem_keeps
    | with_reducible apply State.rowTokens_keeps
    | with_reducible apply foldl_keeps
    | with_reducible apply foldl_fst_keeps
    | with_reducible apply foldl_snd_keeps
    | split
    | intro)

theorem execStepStart_keeps {z0 : State} (part : Nat) (s : State) (hz : Keeps z0 s) :
    KeepsO z0 (execStepStart part s) := by
  unfold execStepStart
  try dsimp only
  repeat' (first
    | with_reducible assumption
    | with_reducible apply KeepsO.next
    | with_reducible apply State.setPart_keeps
    | with_reducible apply State.count_keeps
    | with_reducible apply State.releaseMigs_keeps
    | with_reducible apply State.releaseGroups_keeps
    | with_reducible apply State.zeroGranules_keeps
    | with_reducible apply State.planRead_keeps
    | with_reducible apply State.writeTables_keeps
    | (simp only [keeps_mk]; first | with_reducible apply KeepsParts.of | with_reducible apply KeepsParts.free | with_reducible apply KeepsParts.cut | with_reducible apply KeepsParts.cutMem | with_reducible apply KeepsParts.cutPoison | with_reducible apply KeepsParts.cutAll | with_reducible apply KeepsParts.said)
    | split
    | intro)

theorem State.readResults_keeps {z0 : State} (s : State) (p : Nat) (t : StepRec) (resAddr : Nat) (hz : Keeps z0 s) :
    Keeps z0 (State.readResults s p t resAddr) := by
  unfold State.readResults
  try dsimp only
  repeat' (first
    | with_reducible assumption
    | with_reducible apply State.readAll_keeps
    | split
    | intro)

theorem State.commitEntry_keeps {z0 : State} (s : State) (p : Nat) (e : Entry) (newLen : Nat) (toks path : List Nat) (hz : Keeps z0 s) :
    Keeps z0 (State.commitEntry s p e newLen toks path) := by
  unfold State.commitEntry
  try dsimp only
  repeat' (first
    | with_reducible assumption
    | with_reducible apply State.writeMem_keeps
    | with_reducible apply State.commitPages_keeps
    | with_reducible apply State.compact_keeps
    | with_reducible apply State.dropSummary_keeps
    | with_reducible apply State.insertPrefixes_keeps
    | with_reducible apply State.updSlot_keeps
    | with_reducible apply State.appendHistory_keeps
    | with_reducible apply State.appendLog_keeps
    | with_reducible apply foldl_keeps
    | with_reducible apply foldl_fst_keeps
    | with_reducible apply foldl_snd_keeps
    | (simp only [keeps_mk]; first | with_reducible apply KeepsParts.of | with_reducible apply KeepsParts.free | with_reducible apply KeepsParts.cut | with_reducible apply KeepsParts.cutMem | with_reducible apply KeepsParts.cutPoison | with_reducible apply KeepsParts.cutAll | with_reducible apply KeepsParts.said)
    | split
    | intro)

theorem State.closeStep_keeps {z0 : State} (s : State) (p : Nat) (commit : Option Nat) (hz : Keeps z0 s) :
    Keeps z0 (State.closeStep s p commit) := by
  unfold State.closeStep
  try dsimp only
  repeat' (first
    | with_reducible assumption
    | with_reducible apply State.setPart_keeps
    | with_reducible apply State.release_keeps
    | with_reducible apply State.endChains_keeps
    | (simp only [keeps_mk]; first | with_reducible apply KeepsParts.of | with_reducible apply KeepsParts.free | with_reducible apply KeepsParts.cut | with_reducible apply KeepsParts.cutMem | with_reducible apply KeepsParts.cutPoison | with_reducible apply KeepsParts.cutAll | with_reducible apply KeepsParts.said)
    | split
    | intro)

theorem State.leadEntry_keeps {z0 : State} (s : State) (p : Nat) (t : StepRec) (resAddr : Nat) (e : Entry) (hz : Keeps z0 s) :
    Keeps z0 (State.leadEntry s p t resAddr e) := by
  unfold State.leadEntry
  try dsimp only
  repeat' (first
    | with_reducible assumption
    | with_reducible apply State.setPart_keeps
    | with_reducible apply State.updSlot_keeps
    | with_reducible apply State.forkSeq_keeps
    | with_reducible apply State.commitEntry_keeps
    | (simp only [keeps_mk]; first | with_reducible apply KeepsParts.of | with_reducible apply KeepsParts.free | with_reducible apply KeepsParts.cut | with_reducible apply KeepsParts.cutMem | with_reducible apply KeepsParts.cutPoison | with_reducible apply KeepsParts.cutAll | with_reducible apply KeepsParts.said)
    | split
    | intro)

theorem State.commitStep_keeps {z0 : State} (s0 : State) (p : Nat) (t : StepRec) (resAddr : Nat) (hz : Keeps z0 s0) :
    Keeps z0 (State.commitStep s0 p t resAddr) := by
  unfold State.commitStep
  try dsimp only
  repeat' (first
    | with_reducible assumption
    | with_reducible apply State.put_keeps
    | with_reducible apply State.count_keeps
    | with_reducible apply State.pgeBalance_keeps
    | with_reducible apply State.sendGroup_keeps
    | with_reducible apply State.readResults_keeps
    | with_reducible apply State.closeStep_keeps
    | with_reducible apply State.leadEntry_keeps
    | with_reducible apply foldl_keeps
    | with_reducible apply foldl_fst_keeps
    | with_reducible apply foldl_snd_keeps
    | (simp only [keeps_mk]; first | with_reducible apply KeepsParts.of | with_reducible apply KeepsParts.free | with_reducible apply KeepsParts.cut | with_reducible apply KeepsParts.cutMem | with_reducible apply KeepsParts.cutPoison | with_reducible apply KeepsParts.cutAll | with_reducible apply KeepsParts.said)
    | split
    | intro)

theorem State.replayStep_keeps {z0 : State} (s : State) (p : Nat) (t : StepRec) (hz : Keeps z0 s) :
    Keeps z0 (State.replayStep s p t) := by
  unfold State.replayStep
  try dsimp only
  repeat' (first
    | with_reducible assumption
    | with_reducible apply State.setPart_keeps
    | with_reducible apply State.count_keeps
    | with_reducible apply State.sendGroup_keeps
    | with_reducible apply State.endSeq_keeps
    | with_reducible apply State.endChains_keeps
    | with_reducible apply State.closeStep_keeps
    | with_reducible apply foldl_keeps
    | with_reducible apply foldl_fst_keeps
    | with_reducible apply foldl_snd_keeps
    | (simp only [keeps_mk]; first | with_reducible apply KeepsParts.of | with_reducible apply KeepsParts.free | with_reducible apply KeepsParts.cut | with_reducible apply KeepsParts.cutMem | with_reducible apply KeepsParts.cutPoison | with_reducible apply KeepsParts.cutAll | with_reducible apply KeepsParts.said)
    | split
    | intro)

theorem State.limitStep_keeps {z0 : State} (s0 : State) (p : Nat) (t : StepRec) (resAddr : Nat) (hz : Keeps z0 s0) :
    Keeps z0 (State.limitStep s0 p t resAddr) := by
  unfold State.limitStep
  try dsimp only
  repeat' (first
    | with_reducible assumption
    | with_reducible apply State.irq_keeps
    | with_reducible apply State.count_keeps
    | with_reducible apply State.partEvent_keeps
    | with_reducible apply State.dropPending_keeps
    | with_reducible apply State.sendGroup_keeps
    | with_reducible apply State.endSeq_keeps
    | with_reducible apply State.readResults_keeps
    | with_reducible apply State.closeStep_keeps
    | with_reducible apply foldl_keeps
    | with_reducible apply foldl_fst_keeps
    | with_reducible apply foldl_snd_keeps
    | (simp only [keeps_mk]; first | with_reducible apply KeepsParts.of | with_reducible apply KeepsParts.free | with_reducible apply KeepsParts.cut | with_reducible apply KeepsParts.cutMem | with_reducible apply KeepsParts.cutPoison | with_reducible apply KeepsParts.cutAll | with_reducible apply KeepsParts.said)
    | split
    | intro)

theorem State.decideStep_keeps {z0 : State} (s : State) (p : Nat) (t : StepRec) (resAddr : Nat) (hz : Keeps z0 s) :
    Keeps z0 (State.decideStep s p t resAddr) := by
  unfold State.decideStep
  try dsimp only
  repeat' (first
    | with_reducible assumption
    | with_reducible apply State.commitStep_keeps
    | with_reducible apply State.replayStep_keeps
    | with_reducible apply State.limitStep_keeps
    | split
    | intro)

theorem execStepEnd_keeps {z0 : State} (part resAddr : Nat) (s : State) (hz : Keeps z0 s) :
    KeepsO z0 (execStepEnd part resAddr s) := by
  unfold execStepEnd
  try dsimp only
  repeat' (first
    | with_reducible assumption
    | with_reducible apply KeepsO.next
    | with_reducible apply State.setPart_keeps
    | with_reducible apply State.sendLead_keeps
    | with_reducible apply State.journaled_keeps
    | with_reducible apply State.tmplRead_keeps
    | with_reducible apply State.decideStep_keeps
    | (simp only [keeps_mk]; first | with_reducible apply KeepsParts.of | with_reducible apply KeepsParts.free | with_reducible apply KeepsParts.cut | with_reducible apply KeepsParts.cutMem | with_reducible apply KeepsParts.cutPoison | with_reducible apply KeepsParts.cutAll | with_reducible apply KeepsParts.said)
    | split
    | intro)

theorem execVoteReceived_keeps {z0 : State} (part member step attempt : Nat) (poison : Option (Nat × Nat)) (uncounted : Bool) (resAddr : Nat) (s : State) (hz : Keeps z0 s) :
    KeepsO z0 (execVoteReceived part member step attempt poison uncounted resAddr s) := by
  unfold execVoteReceived
  try dsimp only
  repeat' (first
    | with_reducible assumption
    | with_reducible apply KeepsO.next
    | with_reducible apply State.setPart_keeps
    | with_reducible apply State.journaled_keeps
    | with_reducible apply State.decideStep_keeps
    | (simp only [keeps_mk]; first | with_reducible apply KeepsParts.of | with_reducible apply KeepsParts.free | with_reducible apply KeepsParts.cut | with_reducible apply KeepsParts.cutMem | with_reducible apply KeepsParts.cutPoison | with_reducible apply KeepsParts.cutAll | with_reducible apply KeepsParts.said)
    | split
    | intro)

theorem execCommitReceived_keeps {z0 : State} (part step : Nat) (slots : List SlotCommit) (resAddr : Nat) (s : State) (hz : Keeps z0 s) :
    KeepsO z0 (execCommitReceived part step slots resAddr s) := by
  unfold execCommitReceived
  try dsimp only
  repeat' (first
    | with_reducible assumption
    | with_reducible apply KeepsO.next
    | with_reducible apply State.put_keeps
    | with_reducible apply State.count_keeps
    | with_reducible apply State.pgeBalance_keeps
    | with_reducible apply State.journaled_keeps
    | with_reducible apply State.retireHere_keeps
    | with_reducible apply State.forkSeq_keeps
    | with_reducible apply State.retire_keeps
    | with_reducible apply State.readResults_keeps
    | with_reducible apply State.commitEntry_keeps
    | with_reducible apply State.closeStep_keeps
    | with_reducible apply foldl_keeps
    | with_reducible apply foldl_fst_keeps
    | with_reducible apply foldl_snd_keeps
    | (simp only [keeps_mk]; first | with_reducible apply KeepsParts.of | with_reducible apply KeepsParts.free | with_reducible apply KeepsParts.cut | with_reducible apply KeepsParts.cutMem | with_reducible apply KeepsParts.cutPoison | with_reducible apply KeepsParts.cutAll | with_reducible apply KeepsParts.said)
    | split
    | intro)

theorem State.writeOutcomes_keeps {z0 : State} (s : State) (p : Nat) (hz : Keeps z0 s) :
    Keeps z0 (State.writeOutcomes s p) := by
  unfold State.writeOutcomes
  try dsimp only
  repeat' (first
    | with_reducible assumption
    | with_reducible apply State.setPart_keeps
    | with_reducible apply State.tellOutcome_keeps
    | with_reducible apply State.retireHere_keeps
    | with_reducible apply foldl_keeps
    | with_reducible apply foldl_fst_keeps
    | with_reducible apply foldl_snd_keeps
    | (simp only [keeps_mk]; first | with_reducible apply KeepsParts.of | with_reducible apply KeepsParts.free | with_reducible apply KeepsParts.cut | with_reducible apply KeepsParts.cutMem | with_reducible apply KeepsParts.cutPoison | with_reducible apply KeepsParts.cutAll | with_reducible apply KeepsParts.said)
    | split
    | intro)

theorem execTokenWrite_keeps {z0 : State} (part : Nat) (s : State) (hz : Keeps z0 s) :
    KeepsO z0 (execTokenWrite part s) := by
  unfold execTokenWrite
  try dsimp only
  repeat' (first
    | with_reducible assumption
    | with_reducible apply KeepsO.next
    | with_reducible apply State.setPart_keeps
    | with_reducible apply State.count_keeps
    | with_reducible apply State.drainTokens_keeps
    | with_reducible apply State.journaled_keeps
    | with_reducible apply State.writeOutcomes_keeps
    | (simp only [keeps_mk]; first | with_reducible apply KeepsParts.of | with_reducible apply KeepsParts.free | with_reducible apply KeepsParts.cut | with_reducible apply KeepsParts.cutMem | with_reducible apply KeepsParts.cutPoison | with_reducible apply KeepsParts.cutAll | with_reducible apply KeepsParts.said)
    | split
    | intro)

theorem State.abandonStep_keeps {z0 : State} (s0 : State) (p : Nat) (hz : Keeps z0 s0) :
    Keeps z0 (State.abandonStep s0 p) := by
  unfold State.abandonStep
  try dsimp only
  repeat' (first
    | with_reducible assumption
    | with_reducible apply State.setPart_keeps
    | with_reducible apply State.cancelPart_keeps
    | with_reducible apply State.endPhases_keeps
    | with_reducible apply State.endUnissued_keeps
    | with_reducible apply State.endAbandoned_keeps
    | with_reducible apply State.endChains_keeps
    | with_reducible apply foldl_keeps
    | with_reducible apply foldl_fst_keeps
    | with_reducible apply foldl_snd_keeps
    | (simp only [keeps_mk]; first | with_reducible apply KeepsParts.of | with_reducible apply KeepsParts.free | with_reducible apply KeepsParts.cut | with_reducible apply KeepsParts.cutMem | with_reducible apply KeepsParts.cutPoison | with_reducible apply KeepsParts.cutAll | with_reducible apply KeepsParts.said)
    | split
    | intro)

theorem State.leadLosesMember_keeps {z0 : State} (s : State) (p : Nat) (hz : Keeps z0 s) :
    Keeps z0 (State.leadLosesMember s p) := by
  unfold State.leadLosesMember
  try dsimp only
  repeat' (first
    | with_reducible assumption
    | with_reducible apply State.failAll_keeps
    | with_reducible apply State.breakGroup_keeps
    | with_reducible apply State.abandonStep_keeps
    | split
    | intro)

theorem State.losesLead_keeps {z0 : State} (s : State) (p : Nat) (hz : Keeps z0 s) :
    Keeps z0 (State.losesLead s p) := by
  unfold State.losesLead
  try dsimp only
  repeat' (first
    | with_reducible assumption
    | with_reducible apply State.partEvent_keeps
    | with_reducible apply State.retireHere_keeps
    | with_reducible apply State.breakGroup_keeps
    | with_reducible apply State.abandonStep_keeps
    | with_reducible apply foldl_keeps
    | with_reducible apply foldl_fst_keeps
    | with_reducible apply foldl_snd_keeps
    | split
    | intro)

theorem State.groupLoss_keeps {z0 : State} (s : State) (p : Nat) (hz : Keeps z0 s) :
    Keeps z0 (State.groupLoss s p) := by
  unfold State.groupLoss
  try dsimp only
  repeat' (first
    | with_reducible assumption
    | with_reducible apply State.leadLosesMember_keeps
    | with_reducible apply State.losesLead_keeps
    | split
    | intro)

theorem execLaneComplete_keeps {z0 : State} (u : UnitId) (s : State) (hz : Keeps z0 s) :
    KeepsO z0 (execLaneComplete u s) := by
  unfold execLaneComplete
  try dsimp only
  repeat' (first
    | with_reducible assumption
    | with_reducible apply KeepsO.next
    | with_reducible apply State.journaled_keeps
    | with_reducible apply State.completeLane_keeps
    | with_reducible apply State.stopQueued_keeps
    | with_reducible apply State.groupLoss_keeps
    | (simp only [keeps_mk]; first | with_reducible apply KeepsParts.of | with_reducible apply KeepsParts.free | with_reducible apply KeepsParts.cut | with_reducible apply KeepsParts.cutMem | with_reducible apply KeepsParts.cutPoison | with_reducible apply KeepsParts.cutAll | with_reducible apply KeepsParts.said)
    | split
    | intro)

theorem execVoteTimeout_keeps {z0 : State} (part : Nat) (s : State) (hz : Keeps z0 s) :
    KeepsO z0 (execVoteTimeout part s) := by
  unfold execVoteTimeout
  try dsimp only
  repeat' (first
    | with_reducible assumption
    | with_reducible apply KeepsO.next
    | with_reducible apply State.journaled_keeps
    | with_reducible apply State.groupLoss_keeps
    | (simp only [keeps_mk]; first | with_reducible apply KeepsParts.of | with_reducible apply KeepsParts.free | with_reducible apply KeepsParts.cut | with_reducible apply KeepsParts.cutMem | with_reducible apply KeepsParts.cutPoison | with_reducible apply KeepsParts.cutAll | with_reducible apply KeepsParts.said)
    | split
    | intro)

theorem State.doorbellErr_keeps {z0 : State} (s : State) (p off value : Nat) (hz : Keeps z0 s) :
    Keeps z0 (State.doorbellErr s p off value) := by
  unfold State.doorbellErr
  try dsimp only
  repeat' (first
    | with_reducible assumption
    | with_reducible apply State.setWin_keeps
    | with_reducible apply State.shadow_keeps
    | with_reducible apply State.partEvent_keeps
    | split
    | intro)

theorem State.ringFull_keeps {z0 : State} (s : State) (p : Nat) (hz : Keeps z0 s) :
    Keeps z0 (State.ringFull s p) := by
  unfold State.ringFull
  try dsimp only
  repeat' (first
    | with_reducible assumption
    | with_reducible apply State.setWin_keeps
    | with_reducible apply State.count_keeps
    | with_reducible apply State.shadow_keeps
    | split
    | intro)

theorem State.checkRoom_keeps {z0 : State} (s : State) (p : Nat) (hz : Keeps z0 s) :
    Keeps z0 (State.checkRoom s p) := by
  unfold State.checkRoom
  try dsimp only
  repeat' (first
    | with_reducible assumption
    | with_reducible apply State.setWin_keeps
    | with_reducible apply State.ringVector_keeps
    | with_reducible apply State.shadow_keeps
    | split
    | intro)

theorem State.setAsked_keeps {z0 : State} (s : State) (p ring v : Nat) (hz : Keeps z0 s) :
    Keeps z0 (State.setAsked s p ring v) := by
  unfold State.setAsked
  try dsimp only
  repeat' (first
    | with_reducible assumption
    | with_reducible apply State.setPart_keeps
    | (simp only [keeps_mk]; first | with_reducible apply KeepsParts.of | with_reducible apply KeepsParts.free | with_reducible apply KeepsParts.cut | with_reducible apply KeepsParts.cutMem | with_reducible apply KeepsParts.cutPoison | with_reducible apply KeepsParts.cutAll | with_reducible apply KeepsParts.said)
    | split
    | intro)

theorem State.fetchRing_keeps {z0 : State} (s : State) (p ring : Nat) (hz : Keeps z0 s) :
    Keeps z0 (State.fetchRing s p ring) := by
  unfold State.fetchRing
  try dsimp only
  repeat' (first
    | with_reducible assumption
    | with_reducible apply State.emit_keeps
    | with_reducible apply State.setAsked_keeps
    | split
    | intro)

theorem State.fetch_keeps {z0 : State} (s : State) (hz : Keeps z0 s) :
    Keeps z0 (State.fetch s) := by
  unfold State.fetch
  try dsimp only
  repeat' (first
    | with_reducible assumption
    | with_reducible apply State.fetchRing_keeps
    | with_reducible apply foldl_keeps
    | with_reducible apply foldl_fst_keeps
    | with_reducible apply foldl_snd_keeps
    | split
    | intro)

theorem State.stopFetch_keeps {z0 : State} (s : State) (p ring : Nat) (hz : Keeps z0 s) :
    Keeps z0 (State.stopFetch s p ring) := by
  unfold State.stopFetch
  try dsimp only
  repeat' (first
    | with_reducible assumption
    | with_reducible apply State.setPart_keeps
    | (simp only [keeps_mk]; first | with_reducible apply KeepsParts.of | with_reducible apply KeepsParts.free | with_reducible apply KeepsParts.cut | with_reducible apply KeepsParts.cutMem | with_reducible apply KeepsParts.cutPoison | with_reducible apply KeepsParts.cutAll | with_reducible apply KeepsParts.said)
    | split
    | intro)

theorem State.headMoved_keeps {z0 : State} (s : State) (p ring : Nat) (hz : Keeps z0 s) :
    Keeps z0 (State.headMoved s p ring) := by
  unfold State.headMoved
  try dsimp only
  repeat' (first
    | with_reducible assumption
    | with_reducible apply State.setWin_keeps
    | with_reducible apply State.setAsked_keeps
    | split
    | intro)

theorem execRq0Doorbell_keeps {z0 : State} (src : Src) (part value : Nat) (s : State) (hz : Keeps z0 s) :
    KeepsO z0 (execRq0Doorbell src part value s) := by
  unfold execRq0Doorbell
  try dsimp only
  repeat' (first
    | with_reducible assumption
    | with_reducible apply KeepsO.next
    | with_reducible apply State.setPart_keeps
    | with_reducible apply State.irq_keeps
    | with_reducible apply State.count_keeps
    | with_reducible apply State.journaled_keeps
    | with_reducible apply State.doorbellErr_keeps
    | with_reducible apply State.ringFull_keeps
    | with_reducible apply State.fetch_keeps
    | with_reducible apply State.stopFetch_keeps
    | (simp only [keeps_mk]; first | with_reducible apply KeepsParts.of | with_reducible apply KeepsParts.free | with_reducible apply KeepsParts.cut | with_reducible apply KeepsParts.cutMem | with_reducible apply KeepsParts.cutPoison | with_reducible apply KeepsParts.cutAll | with_reducible apply KeepsParts.said)
    | split
    | intro)

theorem execRq1Doorbell_keeps {z0 : State} (src : Src) (part value : Nat) (s : State) (hz : Keeps z0 s) :
    KeepsO z0 (execRq1Doorbell src part value s) := by
  unfold execRq1Doorbell
  try dsimp only
  repeat' (first
    | with_reducible assumption
    | with_reducible apply KeepsO.next
    | with_reducible apply State.setPart_keeps
    | with_reducible apply State.count_keeps
    | with_reducible apply State.journaled_keeps
    | with_reducible apply State.doorbellErr_keeps
    | with_reducible apply State.fetch_keeps
    | (simp only [keeps_mk]; first | with_reducible apply KeepsParts.of | with_reducible apply KeepsParts.free | with_reducible apply KeepsParts.cut | with_reducible apply KeepsParts.cutMem | with_reducible apply KeepsParts.cutPoison | with_reducible apply KeepsParts.cutAll | with_reducible apply KeepsParts.said)
    | split
    | intro)

theorem State.fetchErr_keeps {z0 : State} (s : State) (p ring index : Nat) (hz : Keeps z0 s) :
    Keeps z0 (State.fetchErr s p ring index) := by
  unfold State.fetchErr
  try dsimp only
  repeat' (first
    | with_reducible assumption
    | with_reducible apply State.setWin_keeps
    | with_reducible apply State.irq_keeps
    | with_reducible apply State.shadow_keeps
    | with_reducible apply State.partEvent_keeps
    | split
    | intro)

theorem State.accept_keeps {z0 : State} (s : State) (p ring : Nat) (hz : Keeps z0 s) :
    Keeps z0 (State.accept s p ring) := by
  unfold State.accept
  try dsimp only
  repeat' (first
    | with_reducible assumption
    | with_reducible apply State.shadow_keeps
    | with_reducible apply State.fetch_keeps
    | with_reducible apply State.headMoved_keeps
    | split
    | intro)

theorem execRequestDescriptor_keeps {z0 : State} (part : Nat) (bytes : Option (List Byte)) (s : State) (hz : Keeps z0 s) :
    KeepsO z0 (execRequestDescriptor part bytes s) := by
  unfold execRequestDescriptor
  try dsimp only
  repeat' (first
    | with_reducible assumption
    | with_reducible apply KeepsO.next
    | with_reducible apply State.setPart_keeps
    | with_reducible apply State.count_keeps
    | with_reducible apply State.journaled_keeps
    | with_reducible apply State.outcomeNoSlot_keeps
    | with_reducible apply State.copyDesc_keeps
    | with_reducible apply State.ringFull_keeps
    | with_reducible apply State.fetch_keeps
    | with_reducible apply State.stopFetch_keeps
    | with_reducible apply State.fetchErr_keeps
    | with_reducible apply State.accept_keeps
    | (simp only [keeps_mk]; first | with_reducible apply KeepsParts.of | with_reducible apply KeepsParts.free | with_reducible apply KeepsParts.cut | with_reducible apply KeepsParts.cutMem | with_reducible apply KeepsParts.cutPoison | with_reducible apply KeepsParts.cutAll | with_reducible apply KeepsParts.said)
    | split
    | intro)

theorem State.abortSlot_keeps {z0 : State} (s : State) (p : Nat) (x : SlotRec) (hz : Keeps z0 s) :
    Keeps z0 (State.abortSlot s p x) := by
  unfold State.abortSlot
  try dsimp only
  repeat' (first
    | with_reducible assumption
    | with_reducible apply State.updSlot_keeps
    | with_reducible apply State.endSeq_keeps
    | (simp only [keeps_mk]; first | with_reducible apply KeepsParts.of | with_reducible apply KeepsParts.free | with_reducible apply KeepsParts.cut | with_reducible apply KeepsParts.cutMem | with_reducible apply KeepsParts.cutPoison | with_reducible apply KeepsParts.cutAll | with_reducible apply KeepsParts.said)
    | split
    | intro)

theorem State.abort_keeps {z0 : State} (s : State) (p id : Nat) (every : Bool) (hz : Keeps z0 s) :
    Keeps z0 (State.abort s p id every) := by
  unfold State.abort
  try dsimp only
  repeat' (first
    | with_reducible assumption
    | with_reducible apply State.setPart_keeps
    | with_reducible apply State.partEvent_keeps
    | with_reducible apply State.outcomeNoSlot_keeps
    | with_reducible apply State.checkRoom_keeps
    | with_reducible apply State.abortSlot_keeps
    | with_reducible apply foldl_keeps
    | with_reducible apply foldl_fst_keeps
    | with_reducible apply foldl_snd_keeps
    | (simp only [keeps_mk]; first | with_reducible apply KeepsParts.of | with_reducible apply KeepsParts.free | with_reducible apply KeepsParts.cut | with_reducible apply KeepsParts.cutMem | with_reducible apply KeepsParts.cutPoison | with_reducible apply KeepsParts.cutAll | with_reducible apply KeepsParts.said)
    | split
    | intro)

theorem execAbortDescriptor_keeps {z0 : State} (part : Nat) (bytes : Option (List Byte)) (s : State) (hz : Keeps z0 s) :
    KeepsO z0 (execAbortDescriptor part bytes s) := by
  unfold execAbortDescriptor
  try dsimp only
  repeat' (first
    | with_reducible assumption
    | with_reducible apply KeepsO.next
    | with_reducible apply State.setPart_keeps
    | with_reducible apply State.count_keeps
    | with_reducible apply State.journaled_keeps
    | with_reducible apply State.outcomeNoSlot_keeps
    | with_reducible apply State.fetch_keeps
    | with_reducible apply State.stopFetch_keeps
    | with_reducible apply State.fetchErr_keeps
    | with_reducible apply State.accept_keeps
    | with_reducible apply State.abort_keeps
    | (simp only [keeps_mk]; first | with_reducible apply KeepsParts.of | with_reducible apply KeepsParts.free | with_reducible apply KeepsParts.cut | with_reducible apply KeepsParts.cutMem | with_reducible apply KeepsParts.cutPoison | with_reducible apply KeepsParts.cutAll | with_reducible apply KeepsParts.said)
    | split
    | intro)

theorem State.matchPrefix_keeps {z0 : State} (s : State) (p slot : Nat) (d : List Byte) (hz : Keeps z0 s) :
    Keeps z0 (State.matchPrefix s p slot d) := by
  unfold State.matchPrefix
  try dsimp only
  repeat' (first
    | with_reducible assumption
    | with_reducible apply State.pinRun_keeps
    | with_reducible apply State.sendGroup_keeps
    | with_reducible apply State.updSlot_keeps
    | with_reducible apply State.fixMatch_keeps
    | (simp only [keeps_mk]; first | with_reducible apply KeepsParts.of | with_reducible apply KeepsParts.free | with_reducible apply KeepsParts.cut | with_reducible apply KeepsParts.cutMem | with_reducible apply KeepsParts.cutPoison | with_reducible apply KeepsParts.cutAll | with_reducible apply KeepsParts.said)
    | split
    | intro)

theorem execAdmit_keeps {z0 : State} (part : Nat) (s : State) (hz : Keeps z0 s) :
    KeepsO z0 (execAdmit part s) := by
  unfold execAdmit
  try dsimp only
  repeat' (first
    | with_reducible assumption
    | with_reducible apply KeepsO.next
    | with_reducible apply State.setPart_keeps
    | with_reducible apply State.rouse_keeps
    | with_reducible apply State.count_keeps
    | with_reducible apply State.sendGroup_keeps
    | with_reducible apply State.journaled_keeps
    | with_reducible apply State.outcomeNoSlot_keeps
    | with_reducible apply State.readDesc_keeps
    | with_reducible apply State.takeSlots_keeps
    | with_reducible apply State.checkRoom_keeps
    | with_reducible apply State.matchPrefix_keeps
    | (simp only [keeps_mk]; first | with_reducible apply KeepsParts.of | with_reducible apply KeepsParts.free | with_reducible apply KeepsParts.cut | with_reducible apply KeepsParts.cutMem | with_reducible apply KeepsParts.cutPoison | with_reducible apply KeepsParts.cutAll | with_reducible apply KeepsParts.said)
    | split
    | intro)

theorem execAdmissionRecord_keeps {z0 : State} (part : Nat) (slots resumed : List Nat) (desc : List Byte) (s : State) (hz : Keeps z0 s) :
    KeepsO z0 (execAdmissionRecord part slots resumed desc s) := by
  unfold execAdmissionRecord
  try dsimp only
  repeat' (first
    | with_reducible assumption
    | with_reducible apply KeepsO.next
    | with_reducible apply State.setPart_keeps
    | with_reducible apply State.sendLead_keeps
    | with_reducible apply State.journaled_keeps
    | with_reducible apply State.takeSlots_keeps
    | with_reducible apply foldl_keeps
    | with_reducible apply foldl_fst_keeps
    | with_reducible apply foldl_snd_keeps
    | (simp only [keeps_mk]; first | with_reducible apply KeepsParts.of | with_reducible apply KeepsParts.free | with_reducible apply KeepsParts.cut | with_reducible apply KeepsParts.cutMem | with_reducible apply KeepsParts.cutPoison | with_reducible apply KeepsParts.cutAll | with_reducible apply KeepsParts.said)
    | split
    | intro)

theorem execAdmissionAck_keeps {z0 : State} (part member slot : Nat) (s : State) (hz : Keeps z0 s) :
    KeepsO z0 (execAdmissionAck part member slot s) := by
  unfold execAdmissionAck
  try dsimp only
  repeat' (first
    | with_reducible assumption
    | with_reducible apply KeepsO.next
    | with_reducible apply State.updSlot_keeps
    | (simp only [keeps_mk]; first | with_reducible apply KeepsParts.of | with_reducible apply KeepsParts.free | with_reducible apply KeepsParts.cut | with_reducible apply KeepsParts.cutMem | with_reducible apply KeepsParts.cutPoison | with_reducible apply KeepsParts.cutAll | with_reducible apply KeepsParts.said)
    | split
    | intro)

theorem execPrefixReport_keeps {z0 : State} (part member slot run : Nat) (s : State) (hz : Keeps z0 s) :
    KeepsO z0 (execPrefixReport part member slot run s) := by
  unfold execPrefixReport
  try dsimp only
  repeat' (first
    | with_reducible assumption
    | with_reducible apply KeepsO.next
    | with_reducible apply State.journaled_keeps
    | with_reducible apply State.updSlot_keeps
    | with_reducible apply State.fixMatch_keeps
    | (simp only [keeps_mk]; first | with_reducible apply KeepsParts.of | with_reducible apply KeepsParts.free | with_reducible apply KeepsParts.cut | with_reducible apply KeepsParts.cutMem | with_reducible apply KeepsParts.cutPoison | with_reducible apply KeepsParts.cutAll | with_reducible apply KeepsParts.said)
    | split
    | intro)

theorem execTokHeadWrite_keeps {z0 : State} (src : Src) (part value : Nat) (s : State) (hz : Keeps z0 s) :
    KeepsO z0 (execTokHeadWrite src part value s) := by
  unfold execTokHeadWrite
  try dsimp only
  repeat' (first
    | with_reducible assumption
    | with_reducible apply KeepsO.next
    | with_reducible apply State.setWin_keeps
    | with_reducible apply State.drainTokens_keeps
    | with_reducible apply State.writeOutcomes_keeps
    | with_reducible apply State.doorbellErr_keeps
    | split
    | intro)

theorem execEvtHeadWrite_keeps {z0 : State} (src : Src) (part value : Nat) (s : State) (hz : Keeps z0 s) :
    KeepsO z0 (execEvtHeadWrite src part value s) := by
  unfold execEvtHeadWrite
  try dsimp only
  repeat' (first
    | with_reducible assumption
    | with_reducible apply KeepsO.next
    | with_reducible apply State.setWin_keeps
    | with_reducible apply State.drainEvents_keeps
    | with_reducible apply State.doorbellErr_keeps
    | split
    | intro)

theorem execHifStatusClear_keeps {z0 : State} (src : Src) (part mask : Nat) (s : State) (hz : Keeps z0 s) :
    KeepsO z0 (execHifStatusClear src part mask s) := by
  unfold execHifStatusClear
  try dsimp only
  repeat' (first
    | with_reducible assumption
    | with_reducible apply KeepsO.next
    | with_reducible apply State.setWin_keeps
    | with_reducible apply State.shadow_keeps
    | split
    | intro)

theorem execRingsEnable_keeps {z0 : State} (src : Src) (part : Nat) (s : State) (hz : Keeps z0 s) :
    KeepsO z0 (execRingsEnable src part s) := by
  unfold execRingsEnable
  try dsimp only
  repeat' (first
    | with_reducible assumption
    | with_reducible apply KeepsO.next
    | with_reducible apply State.setWin_keeps
    | with_reducible apply State.setPart_keeps
    | with_reducible apply State.shadow_keeps
    | with_reducible apply State.drainEvents_keeps
    | with_reducible apply State.drainTokens_keeps
    | with_reducible apply State.writeOutcomes_keeps
    | with_reducible apply foldl_keeps
    | with_reducible apply foldl_fst_keeps
    | with_reducible apply foldl_snd_keeps
    | (simp only [keeps_mk]; first | with_reducible apply KeepsParts.of | with_reducible apply KeepsParts.free | with_reducible apply KeepsParts.cut | with_reducible apply KeepsParts.cutMem | with_reducible apply KeepsParts.cutPoison | with_reducible apply KeepsParts.cutAll | with_reducible apply KeepsParts.said)
    | split
    | intro)

theorem State.ringsOff_keeps {z0 : State} (s : State) (p : Nat) (hz : Keeps z0 s) :
    Keeps z0 (State.ringsOff s p) := by
  unfold State.ringsOff
  try dsimp only
  repeat' (first
    | with_reducible assumption
    | with_reducible apply State.setWin_keeps
    | with_reducible apply State.shadow_keeps
    | with_reducible apply State.stopFetch_keeps
    | split
    | intro)

theorem execRingsDisable_keeps {z0 : State} (src : Src) (part : Nat) (s : State) (hz : Keeps z0 s) :
    KeepsO z0 (execRingsDisable src part s) := by
  unfold execRingsDisable
  try dsimp only
  repeat' (first
    | with_reducible assumption
    | with_reducible apply KeepsO.next
    | with_reducible apply State.ringsOff_keeps
    | split
    | intro)

theorem execMevtEnable_keeps {z0 : State} (src : Src) (s : State) (hz : Keeps z0 s) :
    KeepsO z0 (execMevtEnable src s) := by
  unfold execMevtEnable
  try dsimp only
  repeat' (first
    | with_reducible assumption
    | with_reducible apply KeepsO.next
    | with_reducible apply State.put_keeps
    | with_reducible apply State.flushModule_keeps
    | (simp only [keeps_mk]; first | with_reducible apply KeepsParts.of | with_reducible apply KeepsParts.free | with_reducible apply KeepsParts.cut | with_reducible apply KeepsParts.cutMem | with_reducible apply KeepsParts.cutPoison | with_reducible apply KeepsParts.cutAll | with_reducible apply KeepsParts.said)
    | split
    | intro)

theorem execMevtHeadWrite_keeps {z0 : State} (src : Src) (value : Nat) (s : State) (hz : Keeps z0 s) :
    KeepsO z0 (execMevtHeadWrite src value s) := by
  unfold execMevtHeadWrite
  try dsimp only
  repeat' (first
    | with_reducible assumption
    | with_reducible apply KeepsO.next
    | with_reducible apply State.put_keeps
    | with_reducible apply State.flushModule_keeps
    | split
    | intro)

theorem execCoalTimeout_keeps {z0 : State} (ring : RingId) (s : State) (hz : Keeps z0 s) :
    KeepsO z0 (execCoalTimeout ring s) := by
  unfold execCoalTimeout
  try dsimp only
  repeat' (first
    | with_reducible assumption
    | with_reducible apply KeepsO.next
    | with_reducible apply State.setPart_keeps
    | with_reducible apply State.msix_keeps
    | with_reducible apply State.ringVector_keeps
    | (simp only [keeps_mk]; first | with_reducible apply KeepsParts.of | with_reducible apply KeepsParts.free | with_reducible apply KeepsParts.cut | with_reducible apply KeepsParts.cutMem | with_reducible apply KeepsParts.cutPoison | with_reducible apply KeepsParts.cutAll | with_reducible apply KeepsParts.said)
    | split
    | intro)

theorem execVfFlr_keeps {z0 : State} (p : Nat) (s : State) (hz : Keeps z0 s) :
    KeepsO z0 (execVfFlr p s) := by
  unfold execVfFlr
  try dsimp only
  repeat' (first
    | with_reducible assumption
    | with_reducible apply KeepsO.next
    | with_reducible apply State.setWords_keeps
    | with_reducible apply State.ringsOff_keeps
    | split
    | intro)

theorem execNumvfsWrite_keeps {z0 : State} (n : Nat) (s : State) (hz : Keeps z0 s) :
    KeepsO z0 (execNumvfsWrite n s) := by
  unfold execNumvfsWrite
  try dsimp only
  repeat' (first
    | with_reducible assumption
    | with_reducible apply KeepsO.next
    | with_reducible apply State.put_keeps
    | split
    | intro)

theorem State.dropHost_keeps {z0 : State} (s : State) (hz : Keeps z0 s) :
    Keeps z0 (State.dropHost s) := by
  unfold State.dropHost
  try dsimp only
  repeat' (first
    | with_reducible assumption
    | (simp only [keeps_mk]; first | with_reducible apply KeepsParts.of | with_reducible apply KeepsParts.free | with_reducible apply KeepsParts.cut | with_reducible apply KeepsParts.cutMem | with_reducible apply KeepsParts.cutPoison | with_reducible apply KeepsParts.cutAll | with_reducible apply KeepsParts.said)
    | split
    | intro)

theorem execPortHDown_keeps {z0 : State} (cause : PortHCause) (s : State) (hz : Keeps z0 s) :
    KeepsO z0 (execPortHDown cause s) := by
  unfold execPortHDown
  try dsimp only
  repeat' (first
    | with_reducible assumption
    | with_reducible apply KeepsO.next
    | with_reducible apply State.put_keeps
    | with_reducible apply State.irq_keeps
    | with_reducible apply State.endRun_keeps
    | with_reducible apply State.ringsOff_keeps
    | with_reducible apply State.dropHost_keeps
    | with_reducible apply foldl_keeps
    | with_reducible apply foldl_fst_keeps
    | with_reducible apply foldl_snd_keeps
    | (simp only [keeps_mk]; first | with_reducible apply KeepsParts.of | with_reducible apply KeepsParts.free | with_reducible apply KeepsParts.cut | with_reducible apply KeepsParts.cutMem | with_reducible apply KeepsParts.cutPoison | with_reducible apply KeepsParts.cutAll | with_reducible apply KeepsParts.said)
    | split
    | intro)

end Sys2Proof.Machine
end

