-- ==== Sys2Proof/Laws/KeepsG.lean ====
section
/-!
SUPPORT. What the operations of Frames, Arbiter, Cipher, Identity, Link, Fabric, Remote, CollRows keep.
-/
set_option linter.unusedTactic false
set_option linter.unreachableTactic false
set_option linter.unusedVariables false

namespace Sys2Proof.Machine

theorem State.sign_keeps {z0 : State} (s : State) (d : Nat) (msg : List Byte) (hz : Keeps z0 s) :
    Keeps z0 (State.sign s d msg).2 := by
  unfold State.sign
  try dsimp only
  repeat' (first
    | with_reducible assumption
    | (simp only [keeps_mk]; first | with_reducible apply KeepsParts.of | with_reducible apply KeepsParts.free | with_reducible apply KeepsParts.cut | with_reducible apply KeepsParts.cutMem | with_reducible apply KeepsParts.cutPoison | with_reducible apply KeepsParts.cutAll | with_reducible apply KeepsParts.said)
    | split
    | intro)

theorem State.issue_keeps {z0 : State} (s : State) (k signer subject : Nat) (hz : Keeps z0 s) :
    Keeps z0 (State.issue s k signer subject) := by
  unfold State.issue
  try dsimp only
  repeat' (first
    | with_reducible assumption
    | with_reducible apply State.sign_keeps
    | (simp only [keeps_mk]; first | with_reducible apply KeepsParts.of | with_reducible apply KeepsParts.free | with_reducible apply KeepsParts.cut | with_reducible apply KeepsParts.cutMem | with_reducible apply KeepsParts.cutPoison | with_reducible apply KeepsParts.cutAll | with_reducible apply KeepsParts.said)
    | split
    | intro)

theorem State.deriveAlias1_keeps {z0 : State} (s : State) (hz : Keeps z0 s) :
    Keeps z0 (State.deriveAlias1 s) := by
  unfold State.deriveAlias1
  try dsimp only
  repeat' (first
    | with_reducible assumption
    | with_reducible apply State.issue_keeps
    | (simp only [keeps_mk]; first | with_reducible apply KeepsParts.of | with_reducible apply KeepsParts.free | with_reducible apply KeepsParts.cut | with_reducible apply KeepsParts.cutMem | with_reducible apply KeepsParts.cutPoison | with_reducible apply KeepsParts.cutAll | with_reducible apply KeepsParts.said)
    | split
    | intro)

theorem State.deriveAlias2_keeps {z0 : State} (s : State) (hz : Keeps z0 s) :
    Keeps z0 (State.deriveAlias2 s) := by
  unfold State.deriveAlias2
  try dsimp only
  repeat' (first
    | with_reducible assumption
    | with_reducible apply State.issue_keeps
    | (simp only [keeps_mk]; first | with_reducible apply KeepsParts.of | with_reducible apply KeepsParts.free | with_reducible apply KeepsParts.cut | with_reducible apply KeepsParts.cutMem | with_reducible apply KeepsParts.cutPoison | with_reducible apply KeepsParts.cutAll | with_reducible apply KeepsParts.said)
    | split
    | intro)

theorem State.setLinkState_keeps {z0 : State} (s : State) (k st : Nat) (hz : Keeps z0 s) :
    Keeps z0 (State.setLinkState s k st) := by
  unfold State.setLinkState
  try dsimp only
  repeat' (first
    | with_reducible assumption
    | with_reducible apply State.put_keeps
    | split
    | intro)

theorem State.linkEvent_keeps {z0 : State} (s : State) (k code old new reason dur : Nat) (hz : Keeps z0 s) :
    Keeps z0 (State.linkEvent s k code old new reason dur) := by
  unfold State.linkEvent
  try dsimp only
  repeat' (first
    | with_reducible assumption
    | with_reducible apply State.eventM_keeps
    | split
    | intro)

theorem State.marginal_keeps {z0 : State} (s : State) (k : Nat) (hz : Keeps z0 s) :
    Keeps z0 (State.marginal s k) := by
  unfold State.marginal
  try dsimp only
  repeat' (first
    | with_reducible assumption
    | with_reducible apply State.setLink_keeps
    | with_reducible apply State.linkEvent_keeps
    | (simp only [keeps_mk]; first | with_reducible apply KeepsParts.of | with_reducible apply KeepsParts.free | with_reducible apply KeepsParts.cut | with_reducible apply KeepsParts.cutMem | with_reducible apply KeepsParts.cutPoison | with_reducible apply KeepsParts.cutAll | with_reducible apply KeepsParts.said)
    | split
    | intro)

theorem State.sendControl_keeps {z0 : State} (s : State) (k : Nat) (c : Ctl) (args : List Nat) (hz : Keeps z0 s) :
    Keeps z0 (State.sendControl s k c args) := by
  unfold State.sendControl
  try dsimp only
  repeat' (first
    | with_reducible assumption
    | with_reducible apply State.emit_keeps
    | with_reducible apply State.count_keeps
    | with_reducible apply State.setLink_keeps
    | (simp only [keeps_mk]; first | with_reducible apply KeepsParts.of | with_reducible apply KeepsParts.free | with_reducible apply KeepsParts.cut | with_reducible apply KeepsParts.cutMem | with_reducible apply KeepsParts.cutPoison | with_reducible apply KeepsParts.cutAll | with_reducible apply KeepsParts.said)
    | split
    | intro)

theorem State.sendData_keeps {z0 : State} (s : State) (k seq : Nat) (hz : Keeps z0 s) :
    Keeps z0 (State.sendData s k seq) := by
  unfold State.sendData
  try dsimp only
  repeat' (first
    | with_reducible assumption
    | with_reducible apply State.put_keeps
    | with_reducible apply State.emit_keeps
    | split
    | intro)

theorem State.replayAll_keeps {z0 : State} (s : State) (k : Nat) (hz : Keeps z0 s) :
    Keeps z0 (State.replayAll s k) := by
  unfold State.replayAll
  try dsimp only
  repeat' (first
    | with_reducible assumption
    | with_reducible apply State.count_keeps
    | with_reducible apply State.sendControl_keeps
    | with_reducible apply State.sendData_keeps
    | with_reducible apply foldl_keeps
    | with_reducible apply foldl_fst_keeps
    | with_reducible apply foldl_snd_keeps
    | split
    | intro)

theorem State.sendOn_keeps {z0 : State} (s : State) (k : Nat) (p : Pkt) (hz : Keeps z0 s) :
    Keeps z0 (State.sendOn s k p) := by
  unfold State.sendOn
  try dsimp only
  repeat' (first
    | with_reducible assumption
    | with_reducible apply State.emit_keeps
    | with_reducible apply State.count_keeps
    | with_reducible apply State.setNet_keeps
    | with_reducible apply State.setLink_keeps
    | with_reducible apply State.sendData_keeps
    | with_reducible apply foldl_keeps
    | with_reducible apply foldl_fst_keeps
    | with_reducible apply foldl_snd_keeps
    | (simp only [keeps_mk]; first | with_reducible apply KeepsParts.of | with_reducible apply KeepsParts.free | with_reducible apply KeepsParts.cut | with_reducible apply KeepsParts.cutMem | with_reducible apply KeepsParts.cutPoison | with_reducible apply KeepsParts.cutAll | with_reducible apply KeepsParts.said)
    | split
    | intro)

theorem State.sendLoss_keeps {z0 : State} (s : State) (u : UnitId) (p : Pkt) (reason : Nat) (hz : Keeps z0 s) :
    Keeps z0 (State.sendLoss s u p reason) := by
  unfold State.sendLoss
  try dsimp only
  repeat' (first
    | with_reducible assumption
    | with_reducible apply State.count_keeps
    | with_reducible apply State.inject_keeps
    | (simp only [keeps_mk]; first | with_reducible apply KeepsParts.of | with_reducible apply KeepsParts.free | with_reducible apply KeepsParts.cut | with_reducible apply KeepsParts.cutMem | with_reducible apply KeepsParts.cutPoison | with_reducible apply KeepsParts.cutAll | with_reducible apply KeepsParts.said)
    | split
    | intro)

theorem State.pauseTimers_keeps {z0 : State} (s : State) (k : Nat) (hz : Keeps z0 s) :
    Keeps z0 (State.pauseTimers s k) := by
  unfold State.pauseTimers
  try dsimp only
  repeat' (first
    | with_reducible assumption
    | (simp only [keeps_mk]; first | with_reducible apply KeepsParts.of | with_reducible apply KeepsParts.free | with_reducible apply KeepsParts.cut | with_reducible apply KeepsParts.cutMem | with_reducible apply KeepsParts.cutPoison | with_reducible apply KeepsParts.cutAll | with_reducible apply KeepsParts.said)
    | split
    | intro)

theorem State.countPause_keeps {z0 : State} (s : State) (k us : Nat) (hz : Keeps z0 s) :
    Keeps z0 (State.countPause s k us) := by
  unfold State.countPause
  try dsimp only
  repeat' (first
    | with_reducible assumption
    | with_reducible apply State.count_keeps
    | with_reducible apply foldl_keeps
    | with_reducible apply foldl_fst_keeps
    | with_reducible apply foldl_snd_keeps
    | split
    | intro)

theorem State.setEpochState_keeps {z0 : State} (s : State) (v st : Nat) (hz : Keeps z0 s) :
    Keeps z0 (State.setEpochState s v st) := by
  unfold State.setEpochState
  try dsimp only
  repeat' (first
    | with_reducible assumption
    | with_reducible apply State.put_keeps
    | split
    | intro)

theorem State.setRoute_keeps {z0 : State} (s : State) (v n w : Nat) (hz : Keeps z0 s) :
    Keeps z0 (State.setRoute s v n w) := by
  unfold State.setRoute
  try dsimp only
  repeat' (first
    | with_reducible assumption
    | with_reducible apply State.put_keeps
    | split
    | intro)

theorem State.sendMarks_keeps {z0 : State} (s : State) (tc h : Nat) (hz : Keeps z0 s) :
    Keeps z0 (State.sendMarks s tc h) := by
  unfold State.sendMarks
  try dsimp only
  repeat' (first
    | with_reducible assumption
    | with_reducible apply State.count_keeps
    | with_reducible apply State.setNet_keeps
    | with_reducible apply State.sendOn_keeps
    | with_reducible apply foldl_keeps
    | with_reducible apply foldl_fst_keeps
    | with_reducible apply foldl_snd_keeps
    | (simp only [keeps_mk]; first | with_reducible apply KeepsParts.of | with_reducible apply KeepsParts.free | with_reducible apply KeepsParts.cut | with_reducible apply KeepsParts.cutMem | with_reducible apply KeepsParts.cutPoison | with_reducible apply KeepsParts.cutAll | with_reducible apply KeepsParts.said)
    | split
    | intro)

theorem State.advanceDrain_keeps {z0 : State} (s : State) (hz : Keeps z0 s) :
    Keeps z0 (State.advanceDrain s) := by
  unfold State.advanceDrain
  try dsimp only
  repeat' (first
    | with_reducible assumption
    | with_reducible apply State.put_keeps
    | with_reducible apply State.irq_keeps
    | with_reducible apply State.eventM_keeps
    | with_reducible apply State.setNet_keeps
    | with_reducible apply State.setEpochState_keeps
    | with_reducible apply State.setRoute_keeps
    | with_reducible apply State.sendMarks_keeps
    | with_reducible apply foldl_keeps
    | with_reducible apply foldl_fst_keeps
    | with_reducible apply foldl_snd_keeps
    | (simp only [keeps_mk]; first | with_reducible apply KeepsParts.of | with_reducible apply KeepsParts.free | with_reducible apply KeepsParts.cut | with_reducible apply KeepsParts.cutMem | with_reducible apply KeepsParts.cutPoison | with_reducible apply KeepsParts.cutAll | with_reducible apply KeepsParts.said)
    | split
    | intro)

theorem State.portOff_keeps {z0 : State} (s : State) (k : Nat) (hz : Keeps z0 s) :
    Keeps z0 (State.portOff s k) := by
  unfold State.portOff
  try dsimp only
  repeat' (first
    | with_reducible assumption
    | with_reducible apply State.quiesce_keeps
    | with_reducible apply State.setLinkState_keeps
    | split
    | intro)

theorem State.goDown_keeps {z0 : State} (s : State) (k reason : Nat) (hz : Keeps z0 s) :
    Keeps z0 (State.goDown s k reason) := by
  unfold State.goDown
  try dsimp only
  repeat' (first
    | with_reducible assumption
    | with_reducible apply State.put_keeps
    | with_reducible apply State.irq_keeps
    | with_reducible apply State.count_keeps
    | with_reducible apply State.setNet_keeps
    | with_reducible apply State.setLink_keeps
    | with_reducible apply State.setLinkState_keeps
    | with_reducible apply State.linkEvent_keeps
    | with_reducible apply State.sendLoss_keeps
    | with_reducible apply State.countPause_keeps
    | with_reducible apply State.advanceDrain_keeps
    | with_reducible apply State.portOff_keeps
    | with_reducible apply foldl_keeps
    | with_reducible apply foldl_fst_keeps
    | with_reducible apply foldl_snd_keeps
    | (simp only [keeps_mk]; first | with_reducible apply KeepsParts.of | with_reducible apply KeepsParts.free | with_reducible apply KeepsParts.cut | with_reducible apply KeepsParts.cutMem | with_reducible apply KeepsParts.cutPoison | with_reducible apply KeepsParts.cutAll | with_reducible apply KeepsParts.said)
    | split
    | intro)

theorem State.enterRecovering_keeps {z0 : State} (s : State) (k : Nat) (hz : Keeps z0 s) :
    Keeps z0 (State.enterRecovering s k) := by
  unfold State.enterRecovering
  try dsimp only
  repeat' (first
    | with_reducible assumption
    | with_reducible apply State.irq_keeps
    | with_reducible apply State.setLink_keeps
    | with_reducible apply State.setLinkState_keeps
    | with_reducible apply State.linkEvent_keeps
    | with_reducible apply State.pauseTimers_keeps
    | (simp only [keeps_mk]; first | with_reducible apply KeepsParts.of | with_reducible apply KeepsParts.free | with_reducible apply KeepsParts.cut | with_reducible apply KeepsParts.cutMem | with_reducible apply KeepsParts.cutPoison | with_reducible apply KeepsParts.cutAll | with_reducible apply KeepsParts.said)
    | split
    | intro)

theorem State.finishLeaving_keeps {z0 : State} (s : State) (k : Nat) (hz : Keeps z0 s) :
    Keeps z0 (State.finishLeaving s k) := by
  unfold State.finishLeaving
  try dsimp only
  repeat' (first
    | with_reducible assumption
    | with_reducible apply State.setLink_keeps
    | with_reducible apply State.sendControl_keeps
    | with_reducible apply State.portOff_keeps
    | (simp only [keeps_mk]; first | with_reducible apply KeepsParts.of | with_reducible apply KeepsParts.free | with_reducible apply KeepsParts.cut | with_reducible apply KeepsParts.cutMem | with_reducible apply KeepsParts.cutPoison | with_reducible apply KeepsParts.cutAll | with_reducible apply KeepsParts.said)
    | split
    | intro)

theorem State.endRecovering_keeps {z0 : State} (s : State) (k : Nat) (hz : Keeps z0 s) :
    Keeps z0 (State.endRecovering s k) := by
  unfold State.endRecovering
  try dsimp only
  repeat' (first
    | with_reducible assumption
    | with_reducible apply State.put_keeps
    | with_reducible apply State.count_keeps
    | with_reducible apply State.setLink_keeps
    | with_reducible apply State.setLinkState_keeps
    | with_reducible apply State.countPause_keeps
    | with_reducible apply State.finishLeaving_keeps
    | (simp only [keeps_mk]; first | with_reducible apply KeepsParts.of | with_reducible apply KeepsParts.free | with_reducible apply KeepsParts.cut | with_reducible apply KeepsParts.cutMem | with_reducible apply KeepsParts.cutPoison | with_reducible apply KeepsParts.cutAll | with_reducible apply KeepsParts.said)
    | split
    | intro)

theorem State.startRetrain_keeps {z0 : State} (s : State) (k : Nat) (reason : Option Nat) (hz : Keeps z0 s) :
    Keeps z0 (State.startRetrain s k reason) := by
  unfold State.startRetrain
  try dsimp only
  repeat' (first
    | with_reducible assumption
    | with_reducible apply State.count_keeps
    | with_reducible apply State.setLink_keeps
    | with_reducible apply State.sendControl_keeps
    | with_reducible apply State.enterRecovering_keeps
    | (simp only [keeps_mk]; first | with_reducible apply KeepsParts.of | with_reducible apply KeepsParts.free | with_reducible apply KeepsParts.cut | with_reducible apply KeepsParts.cutMem | with_reducible apply KeepsParts.cutPoison | with_reducible apply KeepsParts.cutAll | with_reducible apply KeepsParts.said)
    | split
    | intro)

theorem State.sendNak_keeps {z0 : State} (s : State) (k : Nat) (hz : Keeps z0 s) :
    Keeps z0 (State.sendNak s k) := by
  unfold State.sendNak
  try dsimp only
  repeat' (first
    | with_reducible assumption
    | with_reducible apply State.put_keeps
    | with_reducible apply State.count_keeps
    | with_reducible apply State.setLink_keeps
    | with_reducible apply State.sendControl_keeps
    | with_reducible apply State.enterRecovering_keeps
    | (simp only [keeps_mk]; first | with_reducible apply KeepsParts.of | with_reducible apply KeepsParts.free | with_reducible apply KeepsParts.cut | with_reducible apply KeepsParts.cutMem | with_reducible apply KeepsParts.cutPoison | with_reducible apply KeepsParts.cutAll | with_reducible apply KeepsParts.said)
    | split
    | intro)

theorem State.takeAck_keeps {z0 : State} (s : State) (k next : Nat) (hz : Keeps z0 s) :
    Keeps z0 (State.takeAck s k next) := by
  unfold State.takeAck
  try dsimp only
  repeat' (first
    | with_reducible assumption
    | with_reducible apply State.setLink_keeps
    | with_reducible apply State.finishLeaving_keeps
    | with_reducible apply State.startRetrain_keeps
    | (simp only [keeps_mk]; first | with_reducible apply KeepsParts.of | with_reducible apply KeepsParts.free | with_reducible apply KeepsParts.cut | with_reducible apply KeepsParts.cutMem | with_reducible apply KeepsParts.cutPoison | with_reducible apply KeepsParts.cutAll | with_reducible apply KeepsParts.said)
    | split
    | intro)

theorem execPeerDetect_keeps {z0 : State} (port : Nat) (s : State) (hz : Keeps z0 s) :
    KeepsO z0 (execPeerDetect port s) := by
  unfold execPeerDetect
  try dsimp only
  repeat' (first
    | with_reducible assumption
    | with_reducible apply KeepsO.next
    | with_reducible apply State.put_keeps
    | with_reducible apply State.setLinkState_keeps
    | split
    | intro)

theorem State.mapLanes_keeps {z0 : State} (s : State) (k txFailed rxFailed : Nat) (hz : Keeps z0 s) :
    Keeps z0 (State.mapLanes s k txFailed rxFailed) := by
  unfold State.mapLanes
  try dsimp only
  repeat' (first
    | with_reducible assumption
    | with_reducible apply State.put_keeps
    | split
    | intro)

theorem execTrainingComplete_keeps {z0 : State} (port txFailed rxFailed : Nat) (locked : Bool) (s : State) (hz : Keeps z0 s) :
    KeepsO z0 (execTrainingComplete port txFailed rxFailed locked s) := by
  unfold execTrainingComplete
  try dsimp only
  repeat' (first
    | with_reducible assumption
    | with_reducible apply KeepsO.next
    | with_reducible apply State.put_keeps
    | with_reducible apply State.irq_keeps
    | with_reducible apply State.setNet_keeps
    | with_reducible apply State.setLink_keeps
    | with_reducible apply State.setLinkState_keeps
    | with_reducible apply State.linkEvent_keeps
    | with_reducible apply State.marginal_keeps
    | with_reducible apply State.goDown_keeps
    | with_reducible apply State.mapLanes_keeps
    | (simp only [keeps_mk]; first | with_reducible apply KeepsParts.of | with_reducible apply KeepsParts.free | with_reducible apply KeepsParts.cut | with_reducible apply KeepsParts.cutMem | with_reducible apply KeepsParts.cutPoison | with_reducible apply KeepsParts.cutAll | with_reducible apply KeepsParts.said)
    | split
    | intro)

theorem execRetrainComplete_keeps {z0 : State} (port txFailed rxFailed peerNext : Nat) (s : State) (hz : Keeps z0 s) :
    KeepsO z0 (execRetrainComplete port txFailed rxFailed peerNext s) := by
  unfold execRetrainComplete
  try dsimp only
  repeat' (first
    | with_reducible assumption
    | with_reducible apply KeepsO.next
    | with_reducible apply State.irq_keeps
    | with_reducible apply State.count_keeps
    | with_reducible apply State.setLink_keeps
    | with_reducible apply State.linkEvent_keeps
    | with_reducible apply State.marginal_keeps
    | with_reducible apply State.replayAll_keeps
    | with_reducible apply State.goDown_keeps
    | with_reducible apply State.endRecovering_keeps
    | with_reducible apply State.takeAck_keeps
    | with_reducible apply State.mapLanes_keeps
    | (simp only [keeps_mk]; first | with_reducible apply KeepsParts.of | with_reducible apply KeepsParts.free | with_reducible apply KeepsParts.cut | with_reducible apply KeepsParts.cutMem | with_reducible apply KeepsParts.cutPoison | with_reducible apply KeepsParts.cutAll | with_reducible apply KeepsParts.said)
    | split
    | intro)

theorem State.corrected_keeps {z0 : State} (s : State) (k : Nat) (fixed : List (List Nat)) (hz : Keeps z0 s) :
    Keeps z0 (State.corrected s k fixed) := by
  unfold State.corrected
  try dsimp only
  repeat' (first
    | with_reducible assumption
    | with_reducible apply State.put_keeps
    | with_reducible apply State.count_keeps
    | with_reducible apply State.setLink_keeps
    | with_reducible apply State.marginal_keeps
    | with_reducible apply foldl_keeps
    | with_reducible apply foldl_fst_keeps
    | with_reducible apply foldl_snd_keeps
    | (simp only [keeps_mk]; first | with_reducible apply KeepsParts.of | with_reducible apply KeepsParts.free | with_reducible apply KeepsParts.cut | with_reducible apply KeepsParts.cutMem | with_reducible apply KeepsParts.cutPoison | with_reducible apply KeepsParts.cutAll | with_reducible apply KeepsParts.said)
    | split
    | intro)

theorem State.takeBadSlot_keeps {z0 : State} (s : State) (port bad : Nat) (hz : Keeps z0 s) :
    Keeps z0 (State.takeBadSlot s port bad) := by
  unfold State.takeBadSlot
  try dsimp only
  repeat' (first
    | with_reducible assumption
    | with_reducible apply State.count_keeps
    | with_reducible apply State.sendNak_keeps
    | split
    | intro)

theorem execDataBlock_keeps {z0 : State} (port seq : Nat) (pkts : List Pkt) (fixed : List (List Nat)) (s : State) (hz : Keeps z0 s) :
    KeepsO z0 (execDataBlock port seq pkts fixed s) := by
  unfold execDataBlock
  try dsimp only
  repeat' (first
    | with_reducible assumption
    | with_reducible apply KeepsO.next
    | with_reducible apply State.put_keeps
    | with_reducible apply State.count_keeps
    | with_reducible apply State.setNet_keeps
    | with_reducible apply State.setLink_keeps
    | with_reducible apply State.sendControl_keeps
    | with_reducible apply State.endRecovering_keeps
    | with_reducible apply State.corrected_keeps
    | with_reducible apply State.takeBadSlot_keeps
    | with_reducible apply foldl_keeps
    | with_reducible apply foldl_fst_keeps
    | with_reducible apply foldl_snd_keeps
    | (simp only [keeps_mk]; first | with_reducible apply KeepsParts.of | with_reducible apply KeepsParts.free | with_reducible apply KeepsParts.cut | with_reducible apply KeepsParts.cutMem | with_reducible apply KeepsParts.cutPoison | with_reducible apply KeepsParts.cutAll | with_reducible apply KeepsParts.said)
    | split
    | intro)

theorem execBadSlot_keeps {z0 : State} (port uncorrectable : Nat) (s : State) (hz : Keeps z0 s) :
    KeepsO z0 (execBadSlot port uncorrectable s) := by
  unfold execBadSlot
  try dsimp only
  repeat' (first
    | with_reducible assumption
    | with_reducible apply KeepsO.next
    | with_reducible apply State.takeBadSlot_keeps
    | split
    | intro)

theorem execNakRepeatTimeout_keeps {z0 : State} (port : Nat) (s : State) (hz : Keeps z0 s) :
    KeepsO z0 (execNakRepeatTimeout port s) := by
  unfold execNakRepeatTimeout
  try dsimp only
  repeat' (first
    | with_reducible assumption
    | with_reducible apply KeepsO.next
    | with_reducible apply State.sendNak_keeps
    | split
    | intro)

theorem execIdle_keeps {z0 : State} (port next : Nat) (s : State) (hz : Keeps z0 s) :
    KeepsO z0 (execIdle port next s) := by
  unfold execIdle
  try dsimp only
  repeat' (first
    | with_reducible assumption
    | with_reducible apply KeepsO.next
    | with_reducible apply State.takeAck_keeps
    | split
    | intro)

theorem execNak_keeps {z0 : State} (port next : Nat) (s : State) (hz : Keeps z0 s) :
    KeepsO z0 (execNak port next s) := by
  unfold execNak
  try dsimp only
  repeat' (first
    | with_reducible assumption
    | with_reducible apply KeepsO.next
    | with_reducible apply State.replayAll_keeps
    | with_reducible apply State.startRetrain_keeps
    | with_reducible apply State.takeAck_keeps
    | split
    | intro)

theorem execReplayBlock_keeps {z0 : State} (port next seq : Nat) (s : State) (hz : Keeps z0 s) :
    KeepsO z0 (execReplayBlock port next seq s) := by
  unfold execReplayBlock
  try dsimp only
  repeat' (first
    | with_reducible assumption
    | with_reducible apply KeepsO.next
    | with_reducible apply State.setLink_keeps
    | with_reducible apply State.takeAck_keeps
    | (simp only [keeps_mk]; first | with_reducible apply KeepsParts.of | with_reducible apply KeepsParts.free | with_reducible apply KeepsParts.cut | with_reducible apply KeepsParts.cutMem | with_reducible apply KeepsParts.cutPoison | with_reducible apply KeepsParts.cutAll | with_reducible apply KeepsParts.said)
    | split
    | intro)

theorem execRetrain_keeps {z0 : State} (port next : Nat) (s : State) (hz : Keeps z0 s) :
    KeepsO z0 (execRetrain port next s) := by
  unfold execRetrain
  try dsimp only
  repeat' (first
    | with_reducible assumption
    | with_reducible apply KeepsO.next
    | with_reducible apply State.startRetrain_keeps
    | with_reducible apply State.takeAck_keeps
    | split
    | intro)

theorem execGoodbye_keeps {z0 : State} (port : Nat) (s : State) (hz : Keeps z0 s) :
    KeepsO z0 (execGoodbye port s) := by
  unfold execGoodbye
  try dsimp only
  repeat' (first
    | with_reducible assumption
    | with_reducible apply KeepsO.next
    | with_reducible apply State.goDown_keeps
    | split
    | intro)

theorem execAckTimeout_keeps {z0 : State} (port : Nat) (s : State) (hz : Keeps z0 s) :
    KeepsO z0 (execAckTimeout port s) := by
  unfold execAckTimeout
  try dsimp only
  repeat' (first
    | with_reducible assumption
    | with_reducible apply KeepsO.next
    | with_reducible apply State.replayAll_keeps
    | split
    | intro)

theorem execRetryLimit_keeps {z0 : State} (port : Nat) (s : State) (hz : Keeps z0 s) :
    KeepsO z0 (execRetryLimit port s) := by
  unfold execRetryLimit
  try dsimp only
  repeat' (first
    | with_reducible assumption
    | with_reducible apply KeepsO.next
    | with_reducible apply State.startRetrain_keeps
    | split
    | intro)

theorem execLossOfSignal_keeps {z0 : State} (port mask : Nat) (s : State) (hz : Keeps z0 s) :
    KeepsO z0 (execLossOfSignal port mask s) := by
  unfold execLossOfSignal
  try dsimp only
  repeat' (first
    | with_reducible assumption
    | with_reducible apply KeepsO.next
    | with_reducible apply State.goDown_keeps
    | with_reducible apply State.startRetrain_keeps
    | split
    | intro)

theorem execSerSwap_keeps {z0 : State} (port lane rate : Nat) (s : State) (hz : Keeps z0 s) :
    KeepsO z0 (execSerSwap port lane rate s) := by
  unfold execSerSwap
  try dsimp only
  repeat' (first
    | with_reducible assumption
    | with_reducible apply KeepsO.next
    | with_reducible apply State.startRetrain_keeps
    | split
    | intro)

theorem execCmdRetrain_keeps {z0 : State} (port : Nat) (src : Src) (s : State) (hz : Keeps z0 s) :
    KeepsO z0 (execCmdRetrain port src s) := by
  unfold execCmdRetrain
  try dsimp only
  repeat' (first
    | with_reducible assumption
    | with_reducible apply KeepsO.next
    | with_reducible apply State.startRetrain_keeps
    | split
    | intro)

theorem execRecoverMax_keeps {z0 : State} (port : Nat) (s : State) (hz : Keeps z0 s) :
    KeepsO z0 (execRecoverMax port s) := by
  unfold execRecoverMax
  try dsimp only
  repeat' (first
    | with_reducible assumption
    | with_reducible apply KeepsO.next
    | with_reducible apply State.goDown_keeps
    | split
    | intro)

theorem execDownRetry_keeps {z0 : State} (port : Nat) (s : State) (hz : Keeps z0 s) :
    KeepsO z0 (execDownRetry port s) := by
  unfold execDownRetry
  try dsimp only
  repeat' (first
    | with_reducible assumption
    | with_reducible apply KeepsO.next
    | with_reducible apply State.setLinkState_keeps
    | split
    | intro)

theorem execInjectLaneFail_keeps {z0 : State} (port : Nat) (src : Src) (mask : Nat) (s : State) (hz : Keeps z0 s) :
    KeepsO z0 (execInjectLaneFail port src mask s) := by
  unfold execInjectLaneFail
  try dsimp only
  repeat' (first
    | with_reducible assumption
    | with_reducible apply KeepsO.next
    | with_reducible apply State.put_keeps
    | split
    | intro)

theorem execInjectBadSlot_keeps {z0 : State} (port : Nat) (src : Src) (s : State) (hz : Keeps z0 s) :
    KeepsO z0 (execInjectBadSlot port src s) := by
  unfold execInjectBadSlot
  try dsimp only
  repeat' (first
    | with_reducible assumption
    | with_reducible apply KeepsO.next
    | with_reducible apply State.put_keeps
    | split
    | intro)

theorem State.setPeerState_keeps {z0 : State} (s : State) (k st : Nat) (hz : Keeps z0 s) :
    Keeps z0 (State.setPeerState s k st) := by
  unfold State.setPeerState
  try dsimp only
  repeat' (first
    | with_reducible assumption
    | with_reducible apply State.put_keeps
    | with_reducible apply State.irq_keeps
    | with_reducible apply State.eventM_keeps
    | split
    | intro)

theorem State.strapMismatch_keeps {z0 : State} (s : State) (implied : Nat) (hz : Keeps z0 s) :
    Keeps z0 (State.strapMismatch s implied) := by
  unfold State.strapMismatch
  try dsimp only
  repeat' (first
    | with_reducible assumption
    | with_reducible apply State.put_keeps
    | with_reducible apply State.irq_keeps
    | with_reducible apply State.eventM_keeps
    | with_reducible apply State.setPeerState_keeps
    | with_reducible apply foldl_keeps
    | with_reducible apply foldl_fst_keeps
    | with_reducible apply foldl_snd_keeps
    | split
    | intro)

theorem execHelloTimer_keeps {z0 : State} (port : Nat) (s : State) (hz : Keeps z0 s) :
    KeepsO z0 (execHelloTimer port s) := by
  unfold execHelloTimer
  try dsimp only
  repeat' (first
    | with_reducible assumption
    | with_reducible apply KeepsO.next
    | with_reducible apply State.sendOn_keeps
    | (simp only [keeps_mk]; first | with_reducible apply KeepsParts.of | with_reducible apply KeepsParts.free | with_reducible apply KeepsParts.cut | with_reducible apply KeepsParts.cutMem | with_reducible apply KeepsParts.cutPoison | with_reducible apply KeepsParts.cutAll | with_reducible apply KeepsParts.said)
    | split
    | intro)

theorem execHello_keeps {z0 : State} (port node peerPort suits nstate : Nat) (s : State) (hz : Keeps z0 s) :
    KeepsO z0 (execHello port node peerPort suits nstate s) := by
  unfold execHello
  try dsimp only
  repeat' (first
    | with_reducible assumption
    | with_reducible apply KeepsO.next
    | with_reducible apply State.put_keeps
    | with_reducible apply State.advanceDrain_keeps
    | with_reducible apply State.setPeerState_keeps
    | with_reducible apply State.strapMismatch_keeps
    | (simp only [keeps_mk]; first | with_reducible apply KeepsParts.of | with_reducible apply KeepsParts.free | with_reducible apply KeepsParts.cut | with_reducible apply KeepsParts.cutMem | with_reducible apply KeepsParts.cutPoison | with_reducible apply KeepsParts.cutAll | with_reducible apply KeepsParts.said)
    | split
    | intro)

theorem execHelloStale_keeps {z0 : State} (port : Nat) (s : State) (hz : Keeps z0 s) :
    KeepsO z0 (execHelloStale port s) := by
  unfold execHelloStale
  try dsimp only
  repeat' (first
    | with_reducible assumption
    | with_reducible apply KeepsO.next
    | with_reducible apply State.advanceDrain_keeps
    | with_reducible apply State.setPeerState_keeps
    | split
    | intro)

theorem State.flipTo_keeps {z0 : State} (s : State) (v : Nat) (hz : Keeps z0 s) :
    Keeps z0 (State.flipTo s v) := by
  unfold State.flipTo
  try dsimp only
  repeat' (first
    | with_reducible assumption
    | with_reducible apply State.put_keeps
    | with_reducible apply State.setNet_keeps
    | with_reducible apply State.setEpochState_keeps
    | with_reducible apply State.sendMarks_keeps
    | with_reducible apply State.advanceDrain_keeps
    | with_reducible apply foldl_keeps
    | with_reducible apply foldl_fst_keeps
    | with_reducible apply foldl_snd_keeps
    | (simp only [keeps_mk]; first | with_reducible apply KeepsParts.of | with_reducible apply KeepsParts.free | with_reducible apply KeepsParts.cut | with_reducible apply KeepsParts.cutMem | with_reducible apply KeepsParts.cutPoison | with_reducible apply KeepsParts.cutAll | with_reducible apply KeepsParts.said)
    | split
    | intro)

theorem execMark_keeps {z0 : State} (port tc level : Nat) (s : State) (hz : Keeps z0 s) :
    KeepsO z0 (execMark port tc level s) := by
  unfold execMark
  try dsimp only
  repeat' (first
    | with_reducible assumption
    | with_reducible apply KeepsO.next
    | with_reducible apply State.setNet_keeps
    | with_reducible apply State.advanceDrain_keeps
    | (simp only [keeps_mk]; first | with_reducible apply KeepsParts.of | with_reducible apply KeepsParts.free | with_reducible apply KeepsParts.cut | with_reducible apply KeepsParts.cutMem | with_reducible apply KeepsParts.cutPoison | with_reducible apply KeepsParts.cutAll | with_reducible apply KeepsParts.said)
    | split
    | intro)

theorem State.unroutableEvent_keeps {z0 : State} (s : State) (u : UnitId) (p : Pkt) (hz : Keeps z0 s) :
    Keeps z0 (State.unroutableEvent s u p) := by
  unfold State.unroutableEvent
  try dsimp only
  repeat' (first
    | with_reducible assumption
    | with_reducible apply State.count_keeps
    | with_reducible apply State.eventM_keeps
    | (simp only [keeps_mk]; first | with_reducible apply KeepsParts.of | with_reducible apply KeepsParts.free | with_reducible apply KeepsParts.cut | with_reducible apply KeepsParts.cutMem | with_reducible apply KeepsParts.cutPoison | with_reducible apply KeepsParts.cutAll | with_reducible apply KeepsParts.said)
    | split
    | intro)

theorem State.unroutable_keeps {z0 : State} (s : State) (u : UnitId) (from' : Option Nat) (p : Pkt) (reason : Nat) (hz : Keeps z0 s) :
    Keeps z0 (State.unroutable s u from' p reason) := by
  unfold State.unroutable
  try dsimp only
  repeat' (first
    | with_reducible assumption
    | with_reducible apply State.irq_keeps
    | with_reducible apply State.count_keeps
    | with_reducible apply State.setNet_keeps
    | with_reducible apply State.sendLoss_keeps
    | with_reducible apply State.unroutableEvent_keeps
    | (simp only [keeps_mk]; first | with_reducible apply KeepsParts.of | with_reducible apply KeepsParts.free | with_reducible apply KeepsParts.cut | with_reducible apply KeepsParts.cutMem | with_reducible apply KeepsParts.cutPoison | with_reducible apply KeepsParts.cutAll | with_reducible apply KeepsParts.said)
    | split
    | intro)

theorem State.takePacket_keeps {z0 : State} (s : State) (from' : Option Nat) (p : Pkt) (hz : Keeps z0 s) :
    Keeps z0 (State.takePacket s from' p) := by
  unfold State.takePacket
  try dsimp only
  repeat' (first
    | with_reducible assumption
    | with_reducible apply State.setNet_keeps
    | (simp only [keeps_mk]; first | with_reducible apply KeepsParts.of | with_reducible apply KeepsParts.free | with_reducible apply KeepsParts.cut | with_reducible apply KeepsParts.cutMem | with_reducible apply KeepsParts.cutPoison | with_reducible apply KeepsParts.cutAll | with_reducible apply KeepsParts.said)
    | split
    | intro)

theorem State.tagRequest_keeps {z0 : State} (s : State) (p : Pkt) (k t : Nat) (hz : Keeps z0 s) :
    Keeps z0 (State.tagRequest s p k t) := by
  unfold State.tagRequest
  try dsimp only
  repeat' (first
    | with_reducible assumption
    | with_reducible apply State.setNet_keeps
    | (simp only [keeps_mk]; first | with_reducible apply KeepsParts.of | with_reducible apply KeepsParts.free | with_reducible apply KeepsParts.cut | with_reducible apply KeepsParts.cutMem | with_reducible apply KeepsParts.cutPoison | with_reducible apply KeepsParts.cutAll | with_reducible apply KeepsParts.said)
    | split
    | intro)

theorem State.forward_keeps {z0 : State} (s : State) (from' : Option Nat) (p : Pkt) (k : Nat) (hz : Keeps z0 s) :
    Keeps z0 (State.forward s from' p k) := by
  unfold State.forward
  try dsimp only
  repeat' (first
    | with_reducible assumption
    | with_reducible apply State.put_keeps
    | with_reducible apply State.count_keeps
    | with_reducible apply State.sendOn_keeps
    | with_reducible apply State.sendLoss_keeps
    | with_reducible apply State.takePacket_keeps
    | with_reducible apply State.tagRequest_keeps
    | (simp only [keeps_mk]; first | with_reducible apply KeepsParts.of | with_reducible apply KeepsParts.free | with_reducible apply KeepsParts.cut | with_reducible apply KeepsParts.cutMem | with_reducible apply KeepsParts.cutPoison | with_reducible apply KeepsParts.cutAll | with_reducible apply KeepsParts.said)
    | split
    | intro)

theorem State.arbitrate_keeps {z0 : State} (s : State) (k full : Nat) (hz : Keeps z0 s) :
    Keeps z0 (State.arbitrate s k full) := by
  unfold State.arbitrate
  try dsimp only
  repeat' (first
    | with_reducible assumption
    | with_reducible apply State.setNet_keeps
    | with_reducible apply State.forward_keeps
    | (simp only [keeps_mk]; first | with_reducible apply KeepsParts.of | with_reducible apply KeepsParts.free | with_reducible apply KeepsParts.cut | with_reducible apply KeepsParts.cutMem | with_reducible apply KeepsParts.cutPoison | with_reducible apply KeepsParts.cutAll | with_reducible apply KeepsParts.said)
    | split
    | intro)

theorem State.routePacket_keeps {z0 : State} (s : State) (from' : Option Nat) (p : Pkt) (full : Nat) (hz : Keeps z0 s) :
    Keeps z0 (State.routePacket s from' p full) := by
  unfold State.routePacket
  try dsimp only
  repeat' (first
    | with_reducible assumption
    | with_reducible apply State.count_keeps
    | with_reducible apply State.sendLoss_keeps
    | with_reducible apply State.unroutable_keeps
    | with_reducible apply State.takePacket_keeps
    | with_reducible apply State.arbitrate_keeps
    | (simp only [keeps_mk]; first | with_reducible apply KeepsParts.of | with_reducible apply KeepsParts.free | with_reducible apply KeepsParts.cut | with_reducible apply KeepsParts.cutMem | with_reducible apply KeepsParts.cutPoison | with_reducible apply KeepsParts.cutAll | with_reducible apply KeepsParts.said)
    | split
    | intro)

theorem execPacketRoute_keeps {z0 : State} (from' : Option Nat) (tc hops : Nat) (rsp : Bool) (full : Nat) (s : State) (hz : Keeps z0 s) :
    KeepsO z0 (execPacketRoute from' tc hops rsp full s) := by
  unfold execPacketRoute
  try dsimp only
  repeat' (first
    | with_reducible assumption
    | with_reducible apply KeepsO.next
    | with_reducible apply State.advanceDrain_keeps
    | with_reducible apply State.routePacket_keeps
    | (simp only [keeps_mk]; first | with_reducible apply KeepsParts.of | with_reducible apply KeepsParts.free | with_reducible apply KeepsParts.cut | with_reducible apply KeepsParts.cutMem | with_reducible apply KeepsParts.cutPoison | with_reducible apply KeepsParts.cutAll | with_reducible apply KeepsParts.said)
    | split
    | intro)

theorem execRouteWrite_keeps {z0 : State} (src : Src) (ver node value : Nat) (s : State) (hz : Keeps z0 s) :
    KeepsO z0 (execRouteWrite src ver node value s) := by
  unfold execRouteWrite
  try dsimp only
  repeat' (first
    | with_reducible assumption
    | with_reducible apply KeepsO.next
    | with_reducible apply State.setEpochState_keeps
    | with_reducible apply State.setRoute_keeps
    | split
    | intro)

theorem State.telemetry_keeps {z0 : State} (s : State) (k : Nat) (hz : Keeps z0 s) :
    Keeps z0 (State.telemetry s k).2 := by
  unfold State.telemetry
  try dsimp only
  repeat' (first
    | with_reducible assumption
    | with_reducible apply State.setNet_keeps
    | with_reducible apply foldl_keeps
    | with_reducible apply foldl_fst_keeps
    | with_reducible apply foldl_snd_keeps
    | (simp only [keeps_mk]; first | with_reducible apply KeepsParts.of | with_reducible apply KeepsParts.free | with_reducible apply KeepsParts.cut | with_reducible apply KeepsParts.cutMem | with_reducible apply KeepsParts.cutPoison | with_reducible apply KeepsParts.cutAll | with_reducible apply KeepsParts.said)
    | split
    | intro)

theorem execTelemSel_keeps {z0 : State} (r : Nat) (src : Src) (port : Nat) (s : State) (hz : Keeps z0 s) :
    KeepsO z0 (execTelemSel r src port s) := by
  unfold execTelemSel
  try dsimp only
  repeat' (first
    | with_reducible assumption
    | with_reducible apply KeepsO.next
    | with_reducible apply State.put_keeps
    | with_reducible apply State.setNet_keeps
    | with_reducible apply State.telemetry_keeps
    | (simp only [keeps_mk]; first | with_reducible apply KeepsParts.of | with_reducible apply KeepsParts.free | with_reducible apply KeepsParts.cut | with_reducible apply KeepsParts.cutMem | with_reducible apply KeepsParts.cutPoison | with_reducible apply KeepsParts.cutAll | with_reducible apply KeepsParts.said)
    | split
    | intro)

theorem execTelemTimer_keeps {z0 : State} (s : State) (hz : Keeps z0 s) :
    KeepsO z0 (execTelemTimer s) := by
  unfold execTelemTimer
  try dsimp only
  repeat' (first
    | with_reducible assumption
    | with_reducible apply KeepsO.next
    | with_reducible apply State.inject_keeps
    | with_reducible apply State.telemetry_keeps
    | with_reducible apply foldl_keeps
    | with_reducible apply foldl_fst_keeps
    | with_reducible apply foldl_snd_keeps
    | (simp only [keeps_mk]; first | with_reducible apply KeepsParts.of | with_reducible apply KeepsParts.free | with_reducible apply KeepsParts.cut | with_reducible apply KeepsParts.cutMem | with_reducible apply KeepsParts.cutPoison | with_reducible apply KeepsParts.cutAll | with_reducible apply KeepsParts.said)
    | split
    | intro)

theorem execInjectLoss_keeps {z0 : State} (r : Nat) (src : Src) (s : State) (hz : Keeps z0 s) :
    KeepsO z0 (execInjectLoss r src s) := by
  unfold execInjectLoss
  try dsimp only
  repeat' (first
    | with_reducible assumption
    | with_reducible apply KeepsO.next
    | with_reducible apply State.put_keeps
    | split
    | intro)

theorem State.refuseRemote_keeps {z0 : State} (s : State) (p : Pkt) (n : Nat) (hz : Keeps z0 s) :
    Keeps z0 (State.refuseRemote s p n) := by
  unfold State.refuseRemote
  try dsimp only
  repeat' (first
    | with_reducible assumption
    | with_reducible apply State.irq_keeps
    | with_reducible apply State.eventM_keeps
    | with_reducible apply State.memEvent_keeps
    | split
    | intro)

theorem State.serveRemote_keeps {z0 : State} (s : State) (p : Pkt) (hz : Keeps z0 s) :
    Keeps z0 (State.serveRemote s p) := by
  unfold State.serveRemote
  try dsimp only
  repeat' (first
    | with_reducible assumption
    | with_reducible apply State.readAll_keeps
    | with_reducible apply State.writeMem_keeps
    | with_reducible apply State.inject_keeps
    | with_reducible apply State.refuseRemote_keeps
    | (simp only [keeps_mk]; first | with_reducible apply KeepsParts.of | with_reducible apply KeepsParts.free | with_reducible apply KeepsParts.cut | with_reducible apply KeepsParts.cutMem | with_reducible apply KeepsParts.cutPoison | with_reducible apply KeepsParts.cutAll | with_reducible apply KeepsParts.said)
    | split
    | intro)

theorem State.takeRemote_keeps {z0 : State} (s : State) (p : Pkt) (hz : Keeps z0 s) :
    Keeps z0 (State.takeRemote s p) := by
  unfold State.takeRemote
  try dsimp only
  repeat' (first
    | with_reducible assumption
    | with_reducible apply State.setNet_keeps
    | with_reducible apply State.serveRemote_keeps
    | (simp only [keeps_mk]; first | with_reducible apply KeepsParts.of | with_reducible apply KeepsParts.free | with_reducible apply KeepsParts.cut | with_reducible apply KeepsParts.cutMem | with_reducible apply KeepsParts.cutPoison | with_reducible apply KeepsParts.cutAll | with_reducible apply KeepsParts.said)
    | split
    | intro)

theorem State.serveWaiting_keeps {z0 : State} (s : State) (hz : Keeps z0 s) :
    Keeps z0 (State.serveWaiting s) := by
  unfold State.serveWaiting
  try dsimp only
  repeat' (first
    | with_reducible assumption
    | with_reducible apply State.setNet_keeps
    | with_reducible apply State.takeRemote_keeps
    | with_reducible apply foldl_keeps
    | with_reducible apply foldl_fst_keeps
    | with_reducible apply foldl_snd_keeps
    | (simp only [keeps_mk]; first | with_reducible apply KeepsParts.of | with_reducible apply KeepsParts.free | with_reducible apply KeepsParts.cut | with_reducible apply KeepsParts.cutMem | with_reducible apply KeepsParts.cutPoison | with_reducible apply KeepsParts.cutAll | with_reducible apply KeepsParts.said)
    | split
    | intro)

theorem execRemoteRequest_keeps {z0 : State} (p : Pkt) (s : State) (hz : Keeps z0 s) :
    KeepsO z0 (execRemoteRequest p s) := by
  unfold execRemoteRequest
  try dsimp only
  repeat' (first
    | with_reducible assumption
    | with_reducible apply KeepsO.next
    | with_reducible apply State.rouse_keeps
    | with_reducible apply State.abort_keeps
    | with_reducible apply State.takeRemote_keeps
    | split
    | intro)

theorem execPushReceive_keeps {z0 : State} (p : Pkt) (s : State) (hz : Keeps z0 s) :
    KeepsO z0 (execPushReceive p s) := by
  unfold execPushReceive
  try dsimp only
  repeat' (first
    | with_reducible assumption
    | with_reducible apply KeepsO.next
    | with_reducible apply State.rouse_keeps
    | with_reducible apply State.abort_keeps
    | with_reducible apply State.takeRemote_keeps
    | split
    | intro)

theorem State.dropReq_keeps {z0 : State} (s : State) (q : ReqRec) (hz : Keeps z0 s) :
    Keeps z0 (State.dropReq s q) := by
  unfold State.dropReq
  try dsimp only
  repeat' (first
    | with_reducible assumption
    | with_reducible apply State.setNet_keeps
    | with_reducible apply State.setPushUsed_keeps
    | (simp only [keeps_mk]; first | with_reducible apply KeepsParts.of | with_reducible apply KeepsParts.free | with_reducible apply KeepsParts.cut | with_reducible apply KeepsParts.cutMem | with_reducible apply KeepsParts.cutPoison | with_reducible apply KeepsParts.cutAll | with_reducible apply KeepsParts.said)
    | split
    | intro)

theorem execRemoteResponse_keeps {z0 : State} (p : Pkt) (s : State) (hz : Keeps z0 s) :
    KeepsO z0 (execRemoteResponse p s) := by
  unfold execRemoteResponse
  try dsimp only
  repeat' (first
    | with_reducible assumption
    | with_reducible apply KeepsO.next
    | with_reducible apply State.stagePiece_keeps
    | with_reducible apply State.dmaAck_keeps
    | with_reducible apply State.abort_keeps
    | with_reducible apply State.dropReq_keeps
    | (simp only [keeps_mk]; first | with_reducible apply KeepsParts.of | with_reducible apply KeepsParts.free | with_reducible apply KeepsParts.cut | with_reducible apply KeepsParts.cutMem | with_reducible apply KeepsParts.cutPoison | with_reducible apply KeepsParts.cutAll | with_reducible apply KeepsParts.said)
    | split
    | intro)

theorem execPushAck_keeps {z0 : State} (node cls seq : Nat) (refused : Bool) (s : State) (hz : Keeps z0 s) :
    KeepsO z0 (execPushAck node cls seq refused s) := by
  unfold execPushAck
  try dsimp only
  repeat' (first
    | with_reducible assumption
    | with_reducible apply KeepsO.next
    | with_reducible apply State.dmaAck_keeps
    | with_reducible apply State.dropReq_keeps
    | (simp only [keeps_mk]; first | with_reducible apply KeepsParts.of | with_reducible apply KeepsParts.free | with_reducible apply KeepsParts.cut | with_reducible apply KeepsParts.cutMem | with_reducible apply KeepsParts.cutPoison | with_reducible apply KeepsParts.cutAll | with_reducible apply KeepsParts.said)
    | split
    | intro)

theorem State.tc2Failed_keeps {z0 : State} (s : State) (q : ReqRec) (hz : Keeps z0 s) :
    Keeps z0 (State.tc2Failed s q) := by
  unfold State.tc2Failed
  try dsimp only
  repeat' (first
    | with_reducible assumption
    | with_reducible apply State.irq_keeps
    | with_reducible apply State.count_keeps
    | with_reducible apply State.eventPM_keeps
    | split
    | intro)

theorem State.lostRequest_keeps {z0 : State} (s : State) (q : ReqRec) (absent : Bool) (hz : Keeps z0 s) :
    Keeps z0 (State.lostRequest s q absent) := by
  unfold State.lostRequest
  try dsimp only
  repeat' (first
    | with_reducible assumption
    | with_reducible apply State.poisonOuts_keeps
    | with_reducible apply State.count_keeps
    | with_reducible apply State.setNet_keeps
    | with_reducible apply State.inject_keeps
    | with_reducible apply State.dmaFail_keeps
    | with_reducible apply State.dropReq_keeps
    | with_reducible apply State.tc2Failed_keeps
    | (simp only [keeps_mk]; first | with_reducible apply KeepsParts.of | with_reducible apply KeepsParts.free | with_reducible apply KeepsParts.cut | with_reducible apply KeepsParts.cutMem | with_reducible apply KeepsParts.cutPoison | with_reducible apply KeepsParts.cutAll | with_reducible apply KeepsParts.said)
    | split
    | intro)

theorem execTc2Timeout_keeps {z0 : State} (port tag : Nat) (s : State) (hz : Keeps z0 s) :
    KeepsO z0 (execTc2Timeout port tag s) := by
  unfold execTc2Timeout
  try dsimp only
  repeat' (first
    | with_reducible assumption
    | with_reducible apply KeepsO.next
    | with_reducible apply State.lostRequest_keeps
    | (simp only [keeps_mk]; first | with_reducible apply KeepsParts.of | with_reducible apply KeepsParts.free | with_reducible apply KeepsParts.cut | with_reducible apply KeepsParts.cutMem | with_reducible apply KeepsParts.cutPoison | with_reducible apply KeepsParts.cutAll | with_reducible apply KeepsParts.said)
    | split
    | intro)

theorem execPushAckTimeout_keeps {z0 : State} (node cls seq : Nat) (s : State) (hz : Keeps z0 s) :
    KeepsO z0 (execPushAckTimeout node cls seq s) := by
  unfold execPushAckTimeout
  try dsimp only
  repeat' (first
    | with_reducible assumption
    | with_reducible apply KeepsO.next
    | with_reducible apply State.lostRequest_keeps
    | (simp only [keeps_mk]; first | with_reducible apply KeepsParts.of | with_reducible apply KeepsParts.free | with_reducible apply KeepsParts.cut | with_reducible apply KeepsParts.cutMem | with_reducible apply KeepsParts.cutPoison | with_reducible apply KeepsParts.cutAll | with_reducible apply KeepsParts.said)
    | split
    | intro)

theorem execAllReduce_keeps {z0 : State} (u : UnitId) (s : State) (hz : Keeps z0 s) :
    KeepsO z0 (execAllReduce u s) := by
  unfold execAllReduce
  try dsimp only
  repeat' (first
    | with_reducible assumption
    | with_reducible apply KeepsO.next
    | with_reducible apply atUnit_keeps
    | with_reducible apply State.ceRun_keeps
    | split
    | intro)

theorem execReduceScatter_keeps {z0 : State} (u : UnitId) (s : State) (hz : Keeps z0 s) :
    KeepsO z0 (execReduceScatter u s) := by
  unfold execReduceScatter
  try dsimp only
  repeat' (first
    | with_reducible assumption
    | with_reducible apply KeepsO.next
    | with_reducible apply atUnit_keeps
    | with_reducible apply State.ceRun_keeps
    | split
    | intro)

theorem execAllGather_keeps {z0 : State} (u : UnitId) (s : State) (hz : Keeps z0 s) :
    KeepsO z0 (execAllGather u s) := by
  unfold execAllGather
  try dsimp only
  repeat' (first
    | with_reducible assumption
    | with_reducible apply KeepsO.next
    | with_reducible apply atUnit_keeps
    | with_reducible apply State.ceRun_keeps
    | split
    | intro)

theorem execBroadcast_keeps {z0 : State} (u : UnitId) (s : State) (hz : Keeps z0 s) :
    KeepsO z0 (execBroadcast u s) := by
  unfold execBroadcast
  try dsimp only
  repeat' (first
    | with_reducible assumption
    | with_reducible apply KeepsO.next
    | with_reducible apply atUnit_keeps
    | with_reducible apply State.ceRun_keeps
    | split
    | intro)

theorem execBarrier_keeps {z0 : State} (u : UnitId) (s : State) (hz : Keeps z0 s) :
    KeepsO z0 (execBarrier u s) := by
  unfold execBarrier
  try dsimp only
  repeat' (first
    | with_reducible assumption
    | with_reducible apply KeepsO.next
    | with_reducible apply atUnit_keeps
    | with_reducible apply State.ceRun_keeps
    | split
    | intro)

theorem execAllToAll_keeps {z0 : State} (u : UnitId) (s : State) (hz : Keeps z0 s) :
    KeepsO z0 (execAllToAll u s) := by
  unfold execAllToAll
  try dsimp only
  repeat' (first
    | with_reducible assumption
    | with_reducible apply KeepsO.next
    | with_reducible apply atUnit_keeps
    | with_reducible apply State.ceRun_keeps
    | split
    | intro)

theorem State.kitty_keeps {z0 : State} (s : State) (g : Nat) (p : Pkt) (hz : Keeps z0 s) :
    Keeps z0 (State.kitty s g p) := by
  unfold State.kitty
  try dsimp only
  repeat' (first
    | with_reducible assumption
    | with_reducible apply State.count_keeps
    | with_reducible apply State.updGrp_keeps
    | (simp only [keeps_mk]; first | with_reducible apply KeepsParts.of | with_reducible apply KeepsParts.free | with_reducible apply KeepsParts.cut | with_reducible apply KeepsParts.cutMem | with_reducible apply KeepsParts.cutPoison | with_reducible apply KeepsParts.cutAll | with_reducible apply KeepsParts.said)
    | split
    | intro)

theorem execCollChunk_keeps {z0 : State} (p : Pkt) (s : State) (hz : Keeps z0 s) :
    KeepsO z0 (execCollChunk p s) := by
  unfold execCollChunk
  try dsimp only
  repeat' (first
    | with_reducible assumption
    | with_reducible apply KeepsO.next
    | with_reducible apply State.returnCredit_keeps
    | with_reducible apply State.takePkt_keeps
    | with_reducible apply State.moveOn_keeps
    | with_reducible apply State.kitty_keeps
    | (simp only [keeps_mk]; first | with_reducible apply KeepsParts.of | with_reducible apply KeepsParts.free | with_reducible apply KeepsParts.cut | with_reducible apply KeepsParts.cutMem | with_reducible apply KeepsParts.cutPoison | with_reducible apply KeepsParts.cutAll | with_reducible apply KeepsParts.said)
    | split
    | intro)

theorem State.taken_keeps {z0 : State} (s : State) (g node payload : Nat) (hz : Keeps z0 s) :
    Keeps z0 (State.taken s g node payload) := by
  unfold State.taken
  try dsimp only
  repeat' (first
    | with_reducible assumption
    | with_reducible apply State.returnCredit_keeps
    | split
    | intro)

theorem execReady_keeps {z0 : State} (g node gen sq : Nat) (s : State) (hz : Keeps z0 s) :
    KeepsO z0 (execReady g node gen sq s) := by
  unfold execReady
  try dsimp only
  repeat' (first
    | with_reducible assumption
    | with_reducible apply KeepsO.next
    | with_reducible apply State.updGrp_keeps
    | with_reducible apply State.moveOn_keeps
    | with_reducible apply State.taken_keeps
    | (simp only [keeps_mk]; first | with_reducible apply KeepsParts.of | with_reducible apply KeepsParts.free | with_reducible apply KeepsParts.cut | with_reducible apply KeepsParts.cutMem | with_reducible apply KeepsParts.cutPoison | with_reducible apply KeepsParts.cutAll | with_reducible apply KeepsParts.said)
    | split
    | intro)

theorem execCounts_keeps {z0 : State} (g node gen sq : Nat) (counts : List Nat) (s : State) (hz : Keeps z0 s) :
    KeepsO z0 (execCounts g node gen sq counts s) := by
  unfold execCounts
  try dsimp only
  repeat' (first
    | with_reducible assumption
    | with_reducible apply KeepsO.next
    | with_reducible apply State.updGrp_keeps
    | with_reducible apply State.moveOn_keeps
    | with_reducible apply State.taken_keeps
    | (simp only [keeps_mk]; first | with_reducible apply KeepsParts.of | with_reducible apply KeepsParts.free | with_reducible apply KeepsParts.cut | with_reducible apply KeepsParts.cutMem | with_reducible apply KeepsParts.cutPoison | with_reducible apply KeepsParts.cutAll | with_reducible apply KeepsParts.said)
    | split
    | intro)

theorem execNakChunk_keeps {z0 : State} (g node gen sq ph ch : Nat) (s : State) (hz : Keeps z0 s) :
    KeepsO z0 (execNakChunk g node gen sq ph ch s) := by
  unfold execNakChunk
  try dsimp only
  repeat' (first
    | with_reducible assumption
    | with_reducible apply KeepsO.next
    | with_reducible apply State.irq_keeps
    | with_reducible apply State.count_keeps
    | with_reducible apply State.updColl_keeps
    | with_reducible apply State.sendChunk_keeps
    | with_reducible apply State.taken_keeps
    | (simp only [keeps_mk]; first | with_reducible apply KeepsParts.of | with_reducible apply KeepsParts.free | with_reducible apply KeepsParts.cut | with_reducible apply KeepsParts.cutMem | with_reducible apply KeepsParts.cutPoison | with_reducible apply KeepsParts.cutAll | with_reducible apply KeepsParts.said)
    | split
    | intro)

theorem execDigest_keeps {z0 : State} (g node gen sq sent result flags : Nat) (s : State) (hz : Keeps z0 s) :
    KeepsO z0 (execDigest g node gen sq sent result flags s) := by
  unfold execDigest
  try dsimp only
  repeat' (first
    | with_reducible assumption
    | with_reducible apply KeepsO.next
    | with_reducible apply State.updGrp_keeps
    | with_reducible apply State.moveOn_keeps
    | with_reducible apply State.taken_keeps
    | (simp only [keeps_mk]; first | with_reducible apply KeepsParts.of | with_reducible apply KeepsParts.free | with_reducible apply KeepsParts.cut | with_reducible apply KeepsParts.cutMem | with_reducible apply KeepsParts.cutPoison | with_reducible apply KeepsParts.cutAll | with_reducible apply KeepsParts.said)
    | split
    | intro)

theorem execCancel_keeps {z0 : State} (g node gen sq : Nat) (s : State) (hz : Keeps z0 s) :
    KeepsO z0 (execCancel g node gen sq s) := by
  unfold execCancel
  try dsimp only
  repeat' (first
    | with_reducible assumption
    | with_reducible apply KeepsO.next
    | with_reducible apply State.applyCancel_keeps
    | with_reducible apply State.taken_keeps
    | (simp only [keeps_mk]; first | with_reducible apply KeepsParts.of | with_reducible apply KeepsParts.free | with_reducible apply KeepsParts.cut | with_reducible apply KeepsParts.cutMem | with_reducible apply KeepsParts.cutPoison | with_reducible apply KeepsParts.cutAll | with_reducible apply KeepsParts.said)
    | split
    | intro)

theorem execLost_keeps {z0 : State} (g node mask : Nat) (s : State) (hz : Keeps z0 s) :
    KeepsO z0 (execLost g node mask s) := by
  unfold execLost
  try dsimp only
  repeat' (first
    | with_reducible assumption
    | with_reducible apply KeepsO.next
    | with_reducible apply State.loseMembers_keeps
    | with_reducible apply State.taken_keeps
    | split
    | intro)

theorem execReform_keeps {z0 : State} (g node gen mask : Nat) (s : State) (hz : Keeps z0 s) :
    KeepsO z0 (execReform g node gen mask s) := by
  unfold execReform
  try dsimp only
  repeat' (first
    | with_reducible assumption
    | with_reducible apply KeepsO.next
    | with_reducible apply State.sendMsgPkt_keeps
    | with_reducible apply State.applyReform_keeps
    | with_reducible apply State.taken_keeps
    | split
    | intro)

theorem execReformAck_keeps {z0 : State} (g node gen : Nat) (s : State) (hz : Keeps z0 s) :
    KeepsO z0 (execReformAck g node gen s) := by
  unfold execReformAck
  try dsimp only
  repeat' (first
    | with_reducible assumption
    | with_reducible apply KeepsO.next
    | with_reducible apply State.updGrp_keeps
    | with_reducible apply State.sendSurvivors_keeps
    | with_reducible apply State.endReform_keeps
    | with_reducible apply State.taken_keeps
    | (simp only [keeps_mk]; first | with_reducible apply KeepsParts.of | with_reducible apply KeepsParts.free | with_reducible apply KeepsParts.cut | with_reducible apply KeepsParts.cutMem | with_reducible apply KeepsParts.cutPoison | with_reducible apply KeepsParts.cutAll | with_reducible apply KeepsParts.said)
    | split
    | intro)

theorem execReformDone_keeps {z0 : State} (g node gen : Nat) (s : State) (hz : Keeps z0 s) :
    KeepsO z0 (execReformDone g node gen s) := by
  unfold execReformDone
  try dsimp only
  repeat' (first
    | with_reducible assumption
    | with_reducible apply KeepsO.next
    | with_reducible apply State.endReform_keeps
    | with_reducible apply State.taken_keeps
    | split
    | intro)

theorem State.sendWaiting_keeps {z0 : State} : ∀ (x0 : List Pkt) (s : State) , Keeps z0 s → Keeps z0 (State.sendWaiting s x0) := by
  intro x0
  induction x0 with
  | nil =>
    intro s hz
    have ih := hz
    unfold State.sendWaiting
    try dsimp only
    repeat' (first
      | with_reducible assumption
      | with_reducible apply ih
      | with_reducible apply State.sendMsgPkt_keeps
      | split
      | intro)
  | cons e r ih =>
    intro s hz
    unfold State.sendWaiting
    try dsimp only
    repeat' (first
      | with_reducible assumption
      | with_reducible apply ih
      | with_reducible apply State.sendMsgPkt_keeps
      | split
      | intro)

theorem execCredit_keeps {z0 : State} (g node pool n : Nat) (s : State) (hz : Keeps z0 s) :
    KeepsO z0 (execCredit g node pool n s) := by
  unfold execCredit
  extract_lets
  repeat' (first
    | with_reducible assumption
    | with_reducible apply KeepsO.next
    | with_reducible apply State.setNet_keeps
    | with_reducible apply State.updGrp_keeps
    | with_reducible apply State.moveOn_keeps
    | with_reducible apply State.sendWaiting_keeps
    | (simp only [keeps_mk]; first | with_reducible apply KeepsParts.of | with_reducible apply KeepsParts.free | with_reducible apply KeepsParts.cut | with_reducible apply KeepsParts.cutMem | with_reducible apply KeepsParts.cutPoison | with_reducible apply KeepsParts.cutAll | with_reducible apply KeepsParts.said)
    | split
    | dsimp only
    | extract_lets)

theorem execCollectiveTimeout_keeps {z0 : State} (g : Nat) (s : State) (hz : Keeps z0 s) :
    KeepsO z0 (execCollectiveTimeout g s) := by
  unfold execCollectiveTimeout
  try dsimp only
  repeat' (first
    | with_reducible assumption
    | with_reducible apply KeepsO.next
    | with_reducible apply State.loseMembers_keeps
    | (simp only [keeps_mk]; first | with_reducible apply KeepsParts.of | with_reducible apply KeepsParts.free | with_reducible apply KeepsParts.cut | with_reducible apply KeepsParts.cutMem | with_reducible apply KeepsParts.cutPoison | with_reducible apply KeepsParts.cutAll | with_reducible apply KeepsParts.said)
    | split
    | intro)

theorem State.resendChunk_keeps {z0 : State} (s : State) (p : Pkt) (c : CollRec) (o : Option Nat) (hz : Keeps z0 s) :
    Keeps z0 (s.resendChunk p c o) := by
  cases o with
  | none => exact hz
  | some j =>
    unfold State.resendChunk
    dsimp only
    split
    · exact State.sendChunk_keeps _ _ _ _ _ _ _ hz
    · exact hz

theorem State.resend_keeps {z0 : State} (s : State) (p : Pkt) (hz : Keeps z0 s) :
    Keeps z0 (State.resend s p) := by
  unfold State.resend
  try dsimp only
  repeat' (first
    | with_reducible assumption
    | with_reducible apply State.inject_keeps
    | with_reducible apply State.resendChunk_keeps
    | (simp only [keeps_mk]; first | with_reducible apply KeepsParts.of | with_reducible apply KeepsParts.free | with_reducible apply KeepsParts.cut | with_reducible apply KeepsParts.cutMem | with_reducible apply KeepsParts.cutPoison | with_reducible apply KeepsParts.cutAll | with_reducible apply KeepsParts.said)
    | split
    | intro)

theorem State.chunkLoss_keeps {z0 : State} (s : State) (p : Pkt) (c : CollRec) (o : Option Nat) (hz : Keeps z0 s) :
    Keeps z0 (s.chunkLoss p c o).2 := by
  cases o with
  | none => exact hz
  | some j => exact State.updColl_keeps _ _ _ _ hz

theorem State.countLoss_keeps {z0 : State} (s : State) (p : Pkt) (hz : Keeps z0 s) :
    Keeps z0 (State.countLoss s p).2 := by
  unfold State.countLoss
  try dsimp only
  repeat' (first
    | with_reducible assumption
    | with_reducible apply State.updGrp_keeps
    | with_reducible apply State.chunkLoss_keeps
    | (simp only [keeps_mk]; first | with_reducible apply KeepsParts.of | with_reducible apply KeepsParts.free | with_reducible apply KeepsParts.cut | with_reducible apply KeepsParts.cutMem | with_reducible apply KeepsParts.cutPoison | with_reducible apply KeepsParts.cutAll | with_reducible apply KeepsParts.said)
    | split
    | intro)

theorem execLoss_keeps {z0 : State} (p : Pkt) (reason : Nat) (s : State) (hz : Keeps z0 s) :
    KeepsO z0 (execLoss p reason s) := by
  unfold execLoss
  try dsimp only
  repeat' (first
    | with_reducible assumption
    | with_reducible apply KeepsO.next
    | with_reducible apply State.count_keeps
    | with_reducible apply State.loseMembers_keeps
    | with_reducible apply State.lostRequest_keeps
    | with_reducible apply State.resend_keeps
    | with_reducible apply State.countLoss_keeps
    | (simp only [keeps_mk]; first | with_reducible apply KeepsParts.of | with_reducible apply KeepsParts.free | with_reducible apply KeepsParts.cut | with_reducible apply KeepsParts.cutMem | with_reducible apply KeepsParts.cutPoison | with_reducible apply KeepsParts.cutAll | with_reducible apply KeepsParts.said)
    | split
    | intro)

theorem execChunkResendTimer_keeps {z0 : State} (p : Pkt) (s : State) (hz : Keeps z0 s) :
    KeepsO z0 (execChunkResendTimer p s) := by
  unfold execChunkResendTimer
  try dsimp only
  repeat' (first
    | with_reducible assumption
    | with_reducible apply KeepsO.next
    | with_reducible apply State.resend_keeps
    | split
    | intro)

theorem execCeInjectCrc_keeps {z0 : State} (u : UnitId) (src : Src) (s : State) (hz : Keeps z0 s) :
    KeepsO z0 (execCeInjectCrc u src s) := by
  unfold execCeInjectCrc
  try dsimp only
  repeat' (first
    | with_reducible assumption
    | with_reducible apply KeepsO.next
    | with_reducible apply State.put_keeps
    | split
    | intro)

theorem execCeInjectDigest_keeps {z0 : State} (u : UnitId) (src : Src) (s : State) (hz : Keeps z0 s) :
    KeepsO z0 (execCeInjectDigest u src s) := by
  unfold execCeInjectDigest
  try dsimp only
  repeat' (first
    | with_reducible assumption
    | with_reducible apply KeepsO.next
    | with_reducible apply State.put_keeps
    | split
    | intro)

theorem State.putNode_keeps {z0 : State} (s : State) (n st : Nat) (hz : Keeps z0 s) :
    Keeps z0 (State.putNode s n st) := by
  unfold State.putNode
  try dsimp only
  repeat' (first
    | with_reducible assumption
    | with_reducible apply State.put_keeps
    | split
    | intro)

theorem State.setNodeState_keeps {z0 : State} (s : State) (n st : Nat) (hz : Keeps z0 s) :
    Keeps z0 (State.setNodeState s n st) := by
  unfold State.setNodeState
  try dsimp only
  repeat' (first
    | with_reducible assumption
    | with_reducible apply State.irq_keeps
    | with_reducible apply State.eventM_keeps
    | with_reducible apply State.groupsLoseNode_keeps
    | with_reducible apply State.journaled_keeps
    | with_reducible apply State.leadLosesMember_keeps
    | with_reducible apply State.putNode_keeps
    | with_reducible apply foldl_keeps
    | with_reducible apply foldl_fst_keeps
    | with_reducible apply foldl_snd_keeps
    | split
    | intro)

theorem State.sendKeepalives_keeps {z0 : State} (s : State) (hz : Keeps z0 s) :
    Keeps z0 (State.sendKeepalives s) := by
  unfold State.sendKeepalives
  try dsimp only
  repeat' (first
    | with_reducible assumption
    | with_reducible apply State.inject_keeps
    | with_reducible apply State.setNodeState_keeps
    | with_reducible apply foldl_keeps
    | with_reducible apply foldl_fst_keeps
    | with_reducible apply foldl_snd_keeps
    | (simp only [keeps_mk]; first | with_reducible apply KeepsParts.of | with_reducible apply KeepsParts.free | with_reducible apply KeepsParts.cut | with_reducible apply KeepsParts.cutMem | with_reducible apply KeepsParts.cutPoison | with_reducible apply KeepsParts.cutAll | with_reducible apply KeepsParts.said)
    | split
    | intro)

theorem execKeepaliveTimer_keeps {z0 : State} (s : State) (hz : Keeps z0 s) :
    KeepsO z0 (execKeepaliveTimer s) := by
  unfold execKeepaliveTimer
  try dsimp only
  repeat' (first
    | with_reducible assumption
    | with_reducible apply KeepsO.next
    | with_reducible apply State.setNodeState_keeps
    | with_reducible apply State.sendKeepalives_keeps
    | with_reducible apply foldl_keeps
    | with_reducible apply foldl_fst_keeps
    | with_reducible apply foldl_snd_keeps
    | split
    | intro)

theorem execKeepalive_keeps {z0 : State} (node nstate : Nat) (s : State) (hz : Keeps z0 s) :
    KeepsO z0 (execKeepalive node nstate s) := by
  unfold execKeepalive
  try dsimp only
  repeat' (first
    | with_reducible assumption
    | with_reducible apply KeepsO.next
    | with_reducible apply State.setNodeState_keeps
    | split
    | intro)

theorem execNodeTimeout_keeps {z0 : State} (node : Nat) (s : State) (hz : Keeps z0 s) :
    KeepsO z0 (execNodeTimeout node s) := by
  unfold execNodeTimeout
  try dsimp only
  repeat' (first
    | with_reducible assumption
    | with_reducible apply KeepsO.next
    | with_reducible apply State.count_keeps
    | with_reducible apply State.setNodeState_keeps
    | split
    | intro)

theorem State.goesOn_keeps {z0 : State} (s : State) (hz : Keeps z0 s) :
    Keeps z0 (State.goesOn s) := by
  unfold State.goesOn
  try dsimp only
  repeat' (first
    | with_reducible assumption
    | with_reducible apply State.resumeColls_keeps
    | with_reducible apply State.serveWaiting_keeps
    | split
    | intro)

theorem execRemapApply_keeps {z0 : State} (u : UnitId) (s : State) (hz : Keeps z0 s) :
    KeepsO z0 (execRemapApply u s) := by
  unfold execRemapApply
  try dsimp only
  repeat' (first
    | with_reducible assumption
    | with_reducible apply KeepsO.next
    | with_reducible apply State.remapGoes_keeps
    | with_reducible apply State.goesOn_keeps
    | split
    | intro)

end Sys2Proof.Machine
end

