-- ==== Sys2Proof/Laws/KeepsH.lean ====
section
/-!
SUPPORT. What the operations of TableBank, CoreRun, MemCtl, Tier, Security, Power, Thermal, Access, Layout keep.
-/
set_option linter.unusedTactic false
set_option linter.unreachableTactic false
set_option linter.unusedVariables false

namespace Sys2Proof.Machine

theorem State.grant_keeps {z0 : State} (s : State) (u : UnitId) (hz : Keeps z0 s) :
    Keeps z0 (State.grant s u) := by
  unfold State.grant
  try dsimp only
  repeat' (first
    | with_reducible assumption
    | with_reducible apply State.count_keeps
    | with_reducible apply State.setBank_keeps
    | (simp only [keeps_mk]; first | with_reducible apply KeepsParts.of | with_reducible apply KeepsParts.free | with_reducible apply KeepsParts.cut | with_reducible apply KeepsParts.cutMem | with_reducible apply KeepsParts.cutPoison | with_reducible apply KeepsParts.cutAll | with_reducible apply KeepsParts.said)
    | split
    | intro)

theorem State.loadReserve_keeps {z0 : State} (s : State) (u : UnitId) (r : TblReq) (hz : Keeps z0 s) :
    Keeps z0 (State.loadReserve s u r) := by
  unfold State.loadReserve
  try dsimp only
  repeat' (first
    | with_reducible assumption
    | (simp only [keeps_mk]; first | with_reducible apply KeepsParts.of | with_reducible apply KeepsParts.free | with_reducible apply KeepsParts.cut | with_reducible apply KeepsParts.cutMem | with_reducible apply KeepsParts.cutPoison | with_reducible apply KeepsParts.cutAll | with_reducible apply KeepsParts.said)
    | split
    | intro)

theorem State.coreSeesPoison_keeps {z0 : State} (s : State) (r : TblReq) (p : Bool) (hz : Keeps z0 s) :
    Keeps z0 (State.coreSeesPoison s r p) := by
  unfold State.coreSeesPoison
  try dsimp only
  repeat' (first
    | with_reducible assumption
    | with_reducible apply State.setUnit_keeps
    | (simp only [keeps_mk]; first | with_reducible apply KeepsParts.of | with_reducible apply KeepsParts.free | with_reducible apply KeepsParts.cut | with_reducible apply KeepsParts.cutMem | with_reducible apply KeepsParts.cutPoison | with_reducible apply KeepsParts.cutAll | with_reducible apply KeepsParts.said)
    | split
    | intro)

theorem State.tblPerform_keeps {z0 : State} (s : State) (u : UnitId) (r : TblReq) (hz : Keeps z0 s) :
    Keeps z0 (State.tblPerform s u r) := by
  unfold State.tblPerform
  try dsimp only
  repeat' (first
    | with_reducible assumption
    | with_reducible apply State.respond_keeps
    | with_reducible apply State.count_keeps
    | with_reducible apply State.meet_keeps
    | with_reducible apply State.putMem_keeps
    | with_reducible apply State.tblAnswer_keeps
    | with_reducible apply State.loadReserve_keeps
    | with_reducible apply State.coreSeesPoison_keeps
    | (simp only [keeps_mk]; first | with_reducible apply KeepsParts.of | with_reducible apply KeepsParts.free | with_reducible apply KeepsParts.cut | with_reducible apply KeepsParts.cutMem | with_reducible apply KeepsParts.cutPoison | with_reducible apply KeepsParts.cutAll | with_reducible apply KeepsParts.said)
    | split
    | intro)

theorem execTableRequest_keeps {z0 : State} (r : TblReq) (s : State) (hz : Keeps z0 s) :
    KeepsO z0 (execTableRequest r s) := by
  unfold execTableRequest
  try dsimp only
  repeat' (first
    | with_reducible assumption
    | with_reducible apply KeepsO.next
    | with_reducible apply State.irq_keeps
    | with_reducible apply State.memEvent_keeps
    | with_reducible apply State.setBank_keeps
    | with_reducible apply State.answerLost_keeps
    | with_reducible apply State.grant_keeps
    | (simp only [keeps_mk]; first | with_reducible apply KeepsParts.of | with_reducible apply KeepsParts.free | with_reducible apply KeepsParts.cut | with_reducible apply KeepsParts.cutMem | with_reducible apply KeepsParts.cutPoison | with_reducible apply KeepsParts.cutAll | with_reducible apply KeepsParts.said)
    | split
    | intro)

theorem execBurstComplete_keeps {z0 : State} (u : UnitId) (s : State) (hz : Keeps z0 s) :
    KeepsO z0 (execBurstComplete u s) := by
  unfold execBurstComplete
  try dsimp only
  repeat' (first
    | with_reducible assumption
    | with_reducible apply KeepsO.next
    | with_reducible apply State.quiesce_keeps
    | with_reducible apply State.setBank_keeps
    | with_reducible apply State.reviewAll_keeps
    | with_reducible apply State.grant_keeps
    | with_reducible apply State.tblPerform_keeps
    | (simp only [keeps_mk]; first | with_reducible apply KeepsParts.of | with_reducible apply KeepsParts.free | with_reducible apply KeepsParts.cut | with_reducible apply KeepsParts.cutMem | with_reducible apply KeepsParts.cutPoison | with_reducible apply KeepsParts.cutAll | with_reducible apply KeepsParts.said)
    | split
    | intro)

theorem State.maintain_keeps {z0 : State} (s : State) (u : UnitId) (reg : Nat) (hz : Keeps z0 s) :
    Keeps z0 (State.maintain s u reg) := by
  unfold State.maintain
  try dsimp only
  repeat' (first
    | with_reducible assumption
    | with_reducible apply State.count_keeps
    | with_reducible apply State.setBank_keeps
    | (simp only [keeps_mk]; first | with_reducible apply KeepsParts.of | with_reducible apply KeepsParts.free | with_reducible apply KeepsParts.cut | with_reducible apply KeepsParts.cutMem | with_reducible apply KeepsParts.cutPoison | with_reducible apply KeepsParts.cutAll | with_reducible apply KeepsParts.said)
    | split
    | intro)

theorem State.readDamage_keeps {z0 : State} (s : State) (u : UnitId) (ls : List Nat) (hz : Keeps z0 s) :
    Keeps z0 (State.readDamage s u ls) := by
  unfold State.readDamage
  try dsimp only
  repeat' (first
    | with_reducible assumption
    | with_reducible apply State.count_keeps
    | with_reducible apply State.meet_keeps
    | with_reducible apply foldl_keeps
    | with_reducible apply foldl_fst_keeps
    | with_reducible apply foldl_snd_keeps
    | (simp only [keeps_mk]; first | with_reducible apply KeepsParts.of | with_reducible apply KeepsParts.free | with_reducible apply KeepsParts.cut | with_reducible apply KeepsParts.cutMem | with_reducible apply KeepsParts.cutPoison | with_reducible apply KeepsParts.cutAll | with_reducible apply KeepsParts.said)
    | split
    | intro)

theorem execTableScrub_keeps {z0 : State} (u : UnitId) (aged : List (Nat × Bool)) (s : State) (hz : Keeps z0 s) :
    KeepsO z0 (execTableScrub u aged s) := by
  unfold execTableScrub
  try dsimp only
  repeat' (first
    | with_reducible assumption
    | with_reducible apply KeepsO.next
    | with_reducible apply State.reviewAll_keeps
    | with_reducible apply State.maintain_keeps
    | with_reducible apply State.readDamage_keeps
    | (simp only [keeps_mk]; first | with_reducible apply KeepsParts.of | with_reducible apply KeepsParts.free | with_reducible apply KeepsParts.cut | with_reducible apply KeepsParts.cutMem | with_reducible apply KeepsParts.cutPoison | with_reducible apply KeepsParts.cutAll | with_reducible apply KeepsParts.said)
    | split
    | intro)

theorem State.arm_keeps {z0 : State} (s : State) (u : UnitId) (src : Src) (k : Nat) (hz : Keeps z0 s) :
    Keeps z0 (State.arm s u src k) := by
  unfold State.arm
  try dsimp only
  repeat' (first
    | with_reducible assumption
    | (simp only [keeps_mk]; first | with_reducible apply KeepsParts.of | with_reducible apply KeepsParts.free | with_reducible apply KeepsParts.cut | with_reducible apply KeepsParts.cutMem | with_reducible apply KeepsParts.cutPoison | with_reducible apply KeepsParts.cutAll | with_reducible apply KeepsParts.said)
    | split
    | intro)

theorem execTblInjectCe_keeps {z0 : State} (u : UnitId) (src : Src) (s : State) (hz : Keeps z0 s) :
    KeepsO z0 (execTblInjectCe u src s) := by
  unfold execTblInjectCe
  try dsimp only
  repeat' (first
    | with_reducible assumption
    | with_reducible apply KeepsO.next
    | with_reducible apply State.arm_keeps
    | split
    | intro)

theorem execTblInjectUe_keeps {z0 : State} (u : UnitId) (src : Src) (s : State) (hz : Keeps z0 s) :
    KeepsO z0 (execTblInjectUe u src s) := by
  unfold execTblInjectUe
  try dsimp only
  repeat' (first
    | with_reducible assumption
    | with_reducible apply KeepsO.next
    | with_reducible apply State.arm_keeps
    | split
    | intro)

theorem State.loseLines_keeps {z0 : State} (s : State) (ls : List Nat) (hz : Keeps z0 s) :
    Keeps z0 (State.loseLines s ls) := by
  unfold State.loseLines
  try dsimp only
  repeat' (first
    | with_reducible assumption
    | with_reducible apply State.poisonLine_keeps
    | with_reducible apply State.zeroRun_keeps
    | with_reducible apply foldl_keeps
    | with_reducible apply foldl_fst_keeps
    | with_reducible apply foldl_snd_keeps
    | (simp only [keeps_mk]; first | with_reducible apply KeepsParts.of | with_reducible apply KeepsParts.free | with_reducible apply KeepsParts.cut | with_reducible apply KeepsParts.cutMem | with_reducible apply KeepsParts.cutPoison | with_reducible apply KeepsParts.cutAll | with_reducible apply KeepsParts.said)
    | split
    | intro)

theorem State.linesLost_keeps {z0 : State} (s : State) (u : UnitId) (ps : List Nat) (n : Nat) (hz : Keeps z0 s) :
    Keeps z0 (State.linesLost s u ps n) := by
  unfold State.linesLost
  try dsimp only
  repeat' (first
    | with_reducible assumption
    | with_reducible apply State.eventPM_keeps
    | split
    | intro)

theorem execBankSpareCopy_keeps {z0 : State} (u : UnitId) (unreadable : List Nat) (s : State) (hz : Keeps z0 s) :
    KeepsO z0 (execBankSpareCopy u unreadable s) := by
  unfold execBankSpareCopy
  try dsimp only
  repeat' (first
    | with_reducible assumption
    | with_reducible apply KeepsO.next
    | with_reducible apply State.setBank_keeps
    | with_reducible apply State.applyRemap_keeps
    | with_reducible apply State.goesOn_keeps
    | with_reducible apply State.grant_keeps
    | with_reducible apply State.maintain_keeps
    | with_reducible apply State.readDamage_keeps
    | with_reducible apply State.loseLines_keeps
    | with_reducible apply State.linesLost_keeps
    | (simp only [keeps_mk]; first | with_reducible apply KeepsParts.of | with_reducible apply KeepsParts.free | with_reducible apply KeepsParts.cut | with_reducible apply KeepsParts.cutMem | with_reducible apply KeepsParts.cutPoison | with_reducible apply KeepsParts.cutAll | with_reducible apply KeepsParts.said)
    | split
    | intro)

theorem CoreRun.load_keeps {z0 : State} (u : UnitId) (p : Nat) (x : CoreRun) (r : Nat × Nat) (hz : Keeps z0 x.st) :
    Keeps z0 (CoreRun.load u p x r).st := by
  unfold CoreRun.load
  repeat' (first
    | with_reducible assumption
    | with_reducible apply State.ucLoad_keeps
    | split)

theorem CoreRun.store_keeps {z0 : State} (u : UnitId) (p : Nat) (x : CoreRun) (w : Nat × List Byte) (hz : Keeps z0 x.st) :
    Keeps z0 (CoreRun.store u p x w).st := by
  unfold CoreRun.store
  repeat' (first
    | with_reducible assumption
    | with_reducible apply State.ucStore_keeps
    | split)

theorem foldl_run_keeps {α : Type} {z0 : State} {f : CoreRun → α → CoreRun} (hf : ∀ p a, Keeps z0 p.st → Keeps z0 (f p a).st) :
    ∀ (l : List α) {p : CoreRun}, Keeps z0 p.st → Keeps z0 (l.foldl f p).st
  | [], _, h => h
  | a :: l, _, h => foldl_run_keeps hf l (hf _ a h)

theorem State.retired_keeps {z0 : State} (s : State) (u : UnitId) (k : Kernel) (hz : Keeps z0 s) :
    Keeps z0 (State.retired s u k) := by
  unfold State.retired
  try dsimp only
  repeat' (first
    | with_reducible assumption
    | with_reducible apply State.setUnit_keeps
    | with_reducible apply State.useFree_keeps
    | (simp only [keeps_mk]; first | with_reducible apply KeepsParts.of | with_reducible apply KeepsParts.free | with_reducible apply KeepsParts.cut | with_reducible apply KeepsParts.cutMem | with_reducible apply KeepsParts.cutPoison | with_reducible apply KeepsParts.cutAll | with_reducible apply KeepsParts.said)
    | split
    | intro)

theorem State.openTrap_keeps {z0 : State} (s : State) (u : UnitId) (l : Lane) (pc cause : Nat) (hz : Keeps z0 s) :
    Keeps z0 (State.openTrap s u l pc cause) := by
  unfold State.openTrap
  try dsimp only
  repeat' (first
    | with_reducible assumption
    | with_reducible apply State.fresh_keeps
    | with_reducible apply State.kernelTrap_keeps
    | split
    | intro)

theorem State.coreAccess_keeps {z0 : State} (s : State) (u : UnitId) (l : Lane) (k : Kernel) (i : CoreInstr) (hz : Keeps z0 s) :
    Keeps z0 (s.coreAccess u l k i).st := by
  unfold State.coreAccess
  refine foldl_run_keeps (fun x w h => CoreRun.store_keeps u l.part x w h) _ ?_
  exact foldl_run_keeps (fun x r h => CoreRun.load_keeps u l.part x r h) _ hz

theorem State.coreExec_keeps {z0 : State} (s : State) (u : UnitId) (l : Lane) (k : Kernel) (i : CoreInstr) (len : Nat) (hz : Keeps z0 s) :
    Keeps z0 (State.coreExec s u l k i len) := by
  unfold State.coreExec
  try dsimp only
  repeat' (first
    | with_reducible assumption
    | with_reducible apply KeepsO.next
    | with_reducible apply State.kernelTrap_keeps
    | with_reducible apply State.retired_keeps
    | with_reducible apply State.openTrap_keeps
    | with_reducible apply State.coreAccess_keeps
    | (simp only [keeps_mk]; first | with_reducible apply KeepsParts.of | with_reducible apply KeepsParts.free | with_reducible apply KeepsParts.cut | with_reducible apply KeepsParts.cutMem | with_reducible apply KeepsParts.cutPoison | with_reducible apply KeepsParts.cutAll | with_reducible apply KeepsParts.said)
    | split
    | intro)

theorem State.coreAtomic_keeps {z0 : State} (s : State) (r : TblReq) (hz : Keeps z0 s) :
    Keeps z0 (State.coreAtomic s r).1 := by
  unfold State.coreAtomic
  try dsimp only
  repeat' (first
    | with_reducible assumption
    | with_reducible apply State.count_keeps
    | with_reducible apply State.tblPerform_keeps
    | (simp only [keeps_mk]; first | with_reducible apply KeepsParts.of | with_reducible apply KeepsParts.free | with_reducible apply KeepsParts.cut | with_reducible apply KeepsParts.cutMem | with_reducible apply KeepsParts.cutPoison | with_reducible apply KeepsParts.cutAll | with_reducible apply KeepsParts.said)
    | split
    | intro)

theorem State.coreAmo_keeps {z0 : State} (s : State) (u : UnitId) (l : Lane) (k : Kernel) (op fn n rd rs1 rs2 len : Nat) (hz : Keeps z0 s) :
    Keeps z0 (State.coreAmo s u l k op fn n rd rs1 rs2 len) := by
  unfold State.coreAmo
  try dsimp only
  repeat' (first
    | with_reducible assumption
    | with_reducible apply State.kernelTrap_keeps
    | with_reducible apply State.retired_keeps
    | with_reducible apply State.coreAtomic_keeps
    | (simp only [keeps_mk]; first | with_reducible apply KeepsParts.of | with_reducible apply KeepsParts.free | with_reducible apply KeepsParts.cut | with_reducible apply KeepsParts.cutMem | with_reducible apply KeepsParts.cutPoison | with_reducible apply KeepsParts.cutAll | with_reducible apply KeepsParts.said)
    | split
    | intro)

theorem State.coreCall_keeps {z0 : State} (s : State) (u : UnitId) (l : Lane) (k : Kernel) (len : Nat) (hz : Keeps z0 s) :
    Keeps z0 (State.coreCall s u l k len) := by
  unfold State.coreCall
  try dsimp only
  repeat' (first
    | with_reducible assumption
    | with_reducible apply State.endKernel_keeps
    | with_reducible apply State.traceWord_keeps
    | with_reducible apply State.kernelTrap_keeps
    | with_reducible apply State.retired_keeps
    | (simp only [keeps_mk]; first | with_reducible apply KeepsParts.of | with_reducible apply KeepsParts.free | with_reducible apply KeepsParts.cut | with_reducible apply KeepsParts.cutMem | with_reducible apply KeepsParts.cutPoison | with_reducible apply KeepsParts.cutAll | with_reducible apply KeepsParts.said)
    | split
    | intro)

theorem State.coreRun_keeps {z0 : State} (s : State) (u : UnitId) (l : Lane) (k : Kernel) (f : Fetched) (hz : Keeps z0 s) :
    Keeps z0 (State.coreRun s u l k f) := by
  unfold State.coreRun
  try dsimp only
  repeat' (first
    | with_reducible assumption
    | with_reducible apply State.kernelTrap_keeps
    | with_reducible apply State.openTrap_keeps
    | with_reducible apply State.coreExec_keeps
    | with_reducible apply State.coreAmo_keeps
    | with_reducible apply State.coreCall_keeps
    | (simp only [keeps_mk]; first | with_reducible apply KeepsParts.of | with_reducible apply KeepsParts.free | with_reducible apply KeepsParts.cut | with_reducible apply KeepsParts.cutMem | with_reducible apply KeepsParts.cutPoison | with_reducible apply KeepsParts.cutAll | with_reducible apply KeepsParts.said)
    | split
    | intro)

theorem State.coreStep_keeps {z0 : State} (s : State) (u : UnitId) (hz : Keeps z0 s) :
    Keeps z0 (State.coreStep s u) := by
  unfold State.coreStep
  try dsimp only
  repeat' (first
    | with_reducible assumption
    | with_reducible apply State.coreRun_keeps
    | (simp only [keeps_mk]; first | with_reducible apply KeepsParts.of | with_reducible apply KeepsParts.free | with_reducible apply KeepsParts.cut | with_reducible apply KeepsParts.cutMem | with_reducible apply KeepsParts.cutPoison | with_reducible apply KeepsParts.cutAll | with_reducible apply KeepsParts.said)
    | split
    | intro)

theorem State.tick_keeps {z0 : State} (s : State) (hz : Keeps z0 s) :
    Keeps z0 (State.tick s) := by
  unfold State.tick
  try dsimp only
  repeat' (first
    | with_reducible assumption
    | with_reducible apply State.coreStep_keeps
    | with_reducible apply foldl_keeps
    | with_reducible apply foldl_fst_keeps
    | with_reducible apply foldl_snd_keeps
    | split
    | intro)

theorem State.corrections_keeps {z0 : State} (s : State) (u : UnitId) (n : Nat) (hz : Keeps z0 s) :
    Keeps z0 (State.corrections s u n) := by
  unfold State.corrections
  try dsimp only
  repeat' (first
    | with_reducible assumption
    | with_reducible apply State.count_keeps
    | with_reducible apply State.note_keeps
    | split
    | intro)

theorem State.metaLost_keeps {z0 : State} (s : State) (u : UnitId) (d m : Nat) (hz : Keeps z0 s) :
    Keeps z0 (State.metaLost s u d m) := by
  unfold State.metaLost
  try dsimp only
  repeat' (first
    | with_reducible assumption
    | with_reducible apply State.put_keeps
    | with_reducible apply State.poisonLine_keeps
    | with_reducible apply State.count_keeps
    | with_reducible apply State.memEvent_keeps
    | with_reducible apply State.note_keeps
    | with_reducible apply State.retag_keeps
    | with_reducible apply State.retried_keeps
    | with_reducible apply foldl_keeps
    | with_reducible apply foldl_fst_keeps
    | with_reducible apply foldl_snd_keeps
    | (simp only [keeps_mk]; first | with_reducible apply KeepsParts.of | with_reducible apply KeepsParts.free | with_reducible apply KeepsParts.cut | with_reducible apply KeepsParts.cutMem | with_reducible apply KeepsParts.cutPoison | with_reducible apply KeepsParts.cutAll | with_reducible apply KeepsParts.said)
    | split
    | intro)

theorem State.useMeta_keeps {z0 : State} (s : State) (u : UnitId) (line : Nat) (ev : MemEv) (hz : Keeps z0 s) :
    Keeps z0 (State.useMeta s u line ev) := by
  unfold State.useMeta
  try dsimp only
  repeat' (first
    | with_reducible assumption
    | with_reducible apply State.metaPair_keeps
    | with_reducible apply State.corrected_keeps
    | with_reducible apply State.corrections_keeps
    | with_reducible apply State.metaLost_keeps
    | (simp only [keeps_mk]; first | with_reducible apply KeepsParts.of | with_reducible apply KeepsParts.free | with_reducible apply KeepsParts.cut | with_reducible apply KeepsParts.cutMem | with_reducible apply KeepsParts.cutPoison | with_reducible apply KeepsParts.cutAll | with_reducible apply KeepsParts.said)
    | split
    | intro)

theorem State.fetchLine_keeps {z0 : State} (s : State) (u : UnitId) (line : Nat) (ev : MemEv) (hz : Keeps z0 s) :
    Keeps z0 (State.fetchLine s u line ev).1 := by
  unfold State.fetchLine
  try dsimp only
  repeat' (first
    | with_reducible assumption
    | with_reducible apply State.count_keeps
    | with_reducible apply State.disarm_keeps
    | with_reducible apply State.integrity_keeps
    | with_reducible apply State.exhausted_keeps
    | with_reducible apply State.retried_keeps
    | with_reducible apply State.useMeta_keeps
    | split
    | intro)

theorem State.memRead_keeps {z0 : State} (s : State) (u : UnitId) (k n : Nat) (ev : MemEv) (hz : Keeps z0 s) :
    Keeps z0 (State.memRead s u k n ev) := by
  unfold State.memRead
  try dsimp only
  repeat' (first
    | with_reducible assumption
    | with_reducible apply State.freshBytes_keeps
    | with_reducible apply State.breakRun_keeps
    | with_reducible apply State.tblAnswer_keeps
    | with_reducible apply State.fetchLine_keeps
    | split
    | intro)

theorem State.memWrite_keeps {z0 : State} (s : State) (u : UnitId) (r : MemReq) (d : List Byte) (hz : Keeps z0 s) :
    Keeps z0 (State.memWrite s u r d) := by
  unfold State.memWrite
  try dsimp only
  repeat' (first
    | with_reducible assumption
    | with_reducible apply State.respond_keeps
    | with_reducible apply State.count_keeps
    | with_reducible apply State.exhausted_keeps
    | with_reducible apply State.retried_keeps
    | with_reducible apply State.putMem_keeps
    | with_reducible apply State.useMeta_keeps
    | with_reducible apply State.fetchLine_keeps
    | split
    | intro)

theorem State.memRequest_keeps {z0 : State} (s : State) (u : UnitId) (r : MemReq) (n : Nat) (hz : Keeps z0 s) :
    Keeps z0 (State.memRequest s u r n) := by
  unfold State.memRequest
  try dsimp only
  repeat' (first
    | with_reducible assumption
    | with_reducible apply State.write_keeps
    | with_reducible apply State.memRead_keeps
    | with_reducible apply State.memWrite_keeps
    | (simp only [keeps_mk]; first | with_reducible apply KeepsParts.of | with_reducible apply KeepsParts.free | with_reducible apply KeepsParts.cut | with_reducible apply KeepsParts.cutMem | with_reducible apply KeepsParts.cutPoison | with_reducible apply KeepsParts.cutAll | with_reducible apply KeepsParts.said)
    | split
    | intro)

theorem execMemRead_keeps {z0 : State} (off n : Nat) (ev : MemEv) (s : State) (hz : Keeps z0 s) :
    KeepsO z0 (execMemRead off n ev s) := by
  unfold execMemRead
  try dsimp only
  repeat' (first
    | with_reducible assumption
    | with_reducible apply KeepsO.next
    | with_reducible apply State.tblAnswer_keeps
    | with_reducible apply State.reviewAll_keeps
    | with_reducible apply State.memRequest_keeps
    | (simp only [keeps_mk]; first | with_reducible apply KeepsParts.of | with_reducible apply KeepsParts.free | with_reducible apply KeepsParts.cut | with_reducible apply KeepsParts.cutMem | with_reducible apply KeepsParts.cutPoison | with_reducible apply KeepsParts.cutAll | with_reducible apply KeepsParts.said)
    | split
    | intro)

theorem execMemWrite_keeps {z0 : State} (off : Nat) (d : List Byte) (pois : Bool) (ev : MemEv) (s : State) (hz : Keeps z0 s) :
    KeepsO z0 (execMemWrite off d pois ev s) := by
  unfold execMemWrite
  try dsimp only
  repeat' (first
    | with_reducible assumption
    | with_reducible apply KeepsO.next
    | with_reducible apply State.respond_keeps
    | with_reducible apply State.reviewAll_keeps
    | with_reducible apply State.memRequest_keeps
    | (simp only [keeps_mk]; first | with_reducible apply KeepsParts.of | with_reducible apply KeepsParts.free | with_reducible apply KeepsParts.cut | with_reducible apply KeepsParts.cutMem | with_reducible apply KeepsParts.cutPoison | with_reducible apply KeepsParts.cutAll | with_reducible apply KeepsParts.said)
    | split
    | intro)

theorem State.patrolFail_keeps {z0 : State} (s : State) (u : UnitId) (line : Nat) (tag : Bool) (hz : Keeps z0 s) :
    Keeps z0 (State.patrolFail s u line tag) := by
  unfold State.patrolFail
  try dsimp only
  repeat' (first
    | with_reducible assumption
    | with_reducible apply State.memEvent_keeps
    | with_reducible apply State.integrity_keeps
    | with_reducible apply State.exhausted_keeps
    | with_reducible apply State.retried_keeps
    | split
    | intro)

theorem State.patrolLine_keeps {z0 : State} (s : State) (u : UnitId) (d dl : Nat) (tag : Bool) (hz : Keeps z0 s) :
    Keeps z0 (State.patrolLine s u d dl tag) := by
  unfold State.patrolLine
  try dsimp only
  repeat' (first
    | with_reducible assumption
    | with_reducible apply State.memEvent_keeps
    | with_reducible apply State.metaLost_keeps
    | with_reducible apply State.patrolFail_keeps
    | (simp only [keeps_mk]; first | with_reducible apply KeepsParts.of | with_reducible apply KeepsParts.free | with_reducible apply KeepsParts.cut | with_reducible apply KeepsParts.cutMem | with_reducible apply KeepsParts.cutPoison | with_reducible apply KeepsParts.cutAll | with_reducible apply KeepsParts.said)
    | split
    | intro)

theorem execMemPatrol_keeps {z0 : State} (u : UnitId) (bad : List (Nat × Bool)) (corrected : Nat) (s : State) (hz : Keeps z0 s) :
    KeepsO z0 (execMemPatrol u bad corrected s) := by
  unfold execMemPatrol
  try dsimp only
  repeat' (first
    | with_reducible assumption
    | with_reducible apply KeepsO.next
    | with_reducible apply State.count_keeps
    | with_reducible apply State.reviewAll_keeps
    | with_reducible apply State.corrections_keeps
    | with_reducible apply State.patrolFail_keeps
    | with_reducible apply State.patrolLine_keeps
    | with_reducible apply foldl_keeps
    | with_reducible apply foldl_fst_keeps
    | with_reducible apply foldl_snd_keeps
    | (simp only [keeps_mk]; first | with_reducible apply KeepsParts.of | with_reducible apply KeepsParts.free | with_reducible apply KeepsParts.cut | with_reducible apply KeepsParts.cutMem | with_reducible apply KeepsParts.cutPoison | with_reducible apply KeepsParts.cutAll | with_reducible apply KeepsParts.said)
    | split
    | intro)

theorem execMemRecentre_keeps {z0 : State} (u : UnitId) (failed : Bool) (s : State) (hz : Keeps z0 s) :
    KeepsO z0 (execMemRecentre u failed s) := by
  unfold execMemRecentre
  try dsimp only
  repeat' (first
    | with_reducible assumption
    | with_reducible apply KeepsO.next
    | with_reducible apply State.irq_keeps
    | with_reducible apply State.count_keeps
    | with_reducible apply State.faultUnit_keeps
    | split
    | intro)

theorem State.releaseMem_keeps {z0 : State} (s : State) (u : UnitId) (run : State → MemReq → Nat → State) (hz : Keeps z0 s) (hrun : ∀ t r n, Keeps z0 t → Keeps z0 (run t r n)) :
    Keeps z0 (State.releaseMem s u run) := by
  unfold State.releaseMem
  try dsimp only
  repeat' (first
    | with_reducible assumption
    | with_reducible apply hrun
    | with_reducible apply foldl_keeps
    | with_reducible apply foldl_fst_keeps
    | with_reducible apply foldl_snd_keeps
    | (simp only [keeps_mk]; first | with_reducible apply KeepsParts.of | with_reducible apply KeepsParts.free | with_reducible apply KeepsParts.cut | with_reducible apply KeepsParts.cutMem | with_reducible apply KeepsParts.cutPoison | with_reducible apply KeepsParts.cutAll | with_reducible apply KeepsParts.said)
    | split
    | intro)

theorem State.loseDevice_keeps {z0 : State} (s : State) (d first : Nat) (hz : Keeps z0 s) :
    Keeps z0 (State.loseDevice s d first) := by
  unfold State.loseDevice
  try dsimp only
  repeat' (first
    | with_reducible assumption
    | (simp only [keeps_mk]; first | with_reducible apply KeepsParts.of | with_reducible apply KeepsParts.free | with_reducible apply KeepsParts.cut | with_reducible apply KeepsParts.cutMem | with_reducible apply KeepsParts.cutPoison | with_reducible apply KeepsParts.cutAll | with_reducible apply KeepsParts.said)
    | split
    | intro)

theorem State.setRemap_keeps {z0 : State} (s : State) (u : UnitId) (f : RemapRec → RemapRec) (hz : Keeps z0 s) :
    Keeps z0 (State.setRemap s u f) := by
  unfold State.setRemap
  try dsimp only
  repeat' (first
    | with_reducible assumption
    | (simp only [keeps_mk]; first | with_reducible apply KeepsParts.of | with_reducible apply KeepsParts.free | with_reducible apply KeepsParts.cut | with_reducible apply KeepsParts.cutMem | with_reducible apply KeepsParts.cutPoison | with_reducible apply KeepsParts.cutAll | with_reducible apply KeepsParts.said)
    | split
    | intro)

theorem State.setCopyPtr_keeps {z0 : State} (s : State) (u sp : UnitId) (n : Nat) (hz : Keeps z0 s) :
    Keeps z0 (State.setCopyPtr s u sp n) := by
  unfold State.setCopyPtr
  try dsimp only
  repeat' (first
    | with_reducible assumption
    | with_reducible apply State.put_keeps
    | split
    | intro)

theorem State.endCopy_keeps {z0 : State} (s : State) (u sp : UnitId) (r : RemapRec) (lost : Nat) (hz : Keeps z0 s) :
    Keeps z0 (State.endCopy s u sp r lost) := by
  unfold State.endCopy
  try dsimp only
  repeat' (first
    | with_reducible assumption
    | with_reducible apply State.put_keeps
    | with_reducible apply State.irq_keeps
    | with_reducible apply State.applyRemap_keeps
    | with_reducible apply State.goesOn_keeps
    | with_reducible apply State.linesLost_keeps
    | with_reducible apply State.memRequest_keeps
    | with_reducible apply State.releaseMem_keeps
    | with_reducible apply State.setCopyPtr_keeps
    | split
    | intro)

theorem execMemSpareCopy_keeps {z0 : State} (u : UnitId) (unreadable : List Nat) (upto : Nat) (s : State) (hz : Keeps z0 s) :
    KeepsO z0 (execMemSpareCopy u unreadable upto s) := by
  unfold execMemSpareCopy
  try dsimp only
  repeat' (first
    | with_reducible assumption
    | with_reducible apply KeepsO.next
    | with_reducible apply State.count_keeps
    | with_reducible apply State.exhausted_keeps
    | with_reducible apply State.retried_keeps
    | with_reducible apply State.loseDevice_keeps
    | with_reducible apply State.setRemap_keeps
    | with_reducible apply State.setCopyPtr_keeps
    | with_reducible apply State.endCopy_keeps
    | with_reducible apply foldl_keeps
    | with_reducible apply foldl_fst_keeps
    | with_reducible apply foldl_snd_keeps
    | (simp only [keeps_mk]; first | with_reducible apply KeepsParts.of | with_reducible apply KeepsParts.free | with_reducible apply KeepsParts.cut | with_reducible apply KeepsParts.cutMem | with_reducible apply KeepsParts.cutPoison | with_reducible apply KeepsParts.cutAll | with_reducible apply KeepsParts.said)
    | split
    | intro)

theorem execMemInjectEdc_keeps {z0 : State} (u : UnitId) (src : Src) (s : State) (hz : Keeps z0 s) :
    KeepsO z0 (execMemInjectEdc u src s) := by
  unfold execMemInjectEdc
  try dsimp only
  repeat' (first
    | with_reducible assumption
    | with_reducible apply KeepsO.next
    | with_reducible apply State.arm_keeps
    | split
    | intro)

theorem execMemInjectTag_keeps {z0 : State} (u : UnitId) (src : Src) (s : State) (hz : Keeps z0 s) :
    KeepsO z0 (execMemInjectTag u src s) := by
  unfold execMemInjectTag
  try dsimp only
  repeat' (first
    | with_reducible assumption
    | with_reducible apply KeepsO.next
    | with_reducible apply State.arm_keeps
    | split
    | intro)

theorem State.tierCounts_keeps {z0 : State} (s : State) (u : UnitId) (line : Nat) (ev : MemEv) (hz : Keeps z0 s) :
    Keeps z0 (State.tierCounts s u line ev) := by
  unfold State.tierCounts
  try dsimp only
  repeat' (first
    | with_reducible assumption
    | with_reducible apply State.count_keeps
    | with_reducible apply State.tagLookup_keeps
    | split
    | intro)

theorem State.tierPoison_keeps {z0 : State} (s : State) (line : Nat) (d : List Byte) (hz : Keeps z0 s) :
    Keeps z0 (State.tierPoison s line d) := by
  unfold State.tierPoison
  try dsimp only
  repeat' (first
    | with_reducible assumption
    | with_reducible apply State.reportPoison_keeps
    | with_reducible apply State.tblAnswer_keeps
    | split
    | intro)

theorem State.tierRead_keeps {z0 : State} (s : State) (u : UnitId) (k n : Nat) (ev : MemEv) (hz : Keeps z0 s) :
    Keeps z0 (State.tierRead s u k n ev) := by
  unfold State.tierRead
  try dsimp only
  repeat' (first
    | with_reducible assumption
    | with_reducible apply State.freshBytes_keeps
    | with_reducible apply State.count_keeps
    | with_reducible apply State.integrity_keeps
    | with_reducible apply State.tblAnswer_keeps
    | with_reducible apply State.tierCounts_keeps
    | with_reducible apply State.tierPoison_keeps
    | split
    | intro)

theorem State.tierWrite_keeps {z0 : State} (s : State) (u : UnitId) (r : MemReq) (d : List Byte) (hz : Keeps z0 s) :
    Keeps z0 (State.tierWrite s u r d) := by
  unfold State.tierWrite
  try dsimp only
  repeat' (first
    | with_reducible assumption
    | with_reducible apply State.respond_keeps
    | with_reducible apply State.count_keeps
    | with_reducible apply State.putMem_keeps
    | with_reducible apply State.tierCounts_keeps
    | split
    | intro)

theorem State.tierRequest_keeps {z0 : State} (s : State) (u : UnitId) (r : MemReq) (n : Nat) (hz : Keeps z0 s) :
    Keeps z0 (State.tierRequest s u r n) := by
  unfold State.tierRequest
  try dsimp only
  repeat' (first
    | with_reducible assumption
    | with_reducible apply State.write_keeps
    | with_reducible apply State.count_keeps
    | with_reducible apply State.tierRead_keeps
    | with_reducible apply State.tierWrite_keeps
    | (simp only [keeps_mk]; first | with_reducible apply KeepsParts.of | with_reducible apply KeepsParts.free | with_reducible apply KeepsParts.cut | with_reducible apply KeepsParts.cutMem | with_reducible apply KeepsParts.cutPoison | with_reducible apply KeepsParts.cutAll | with_reducible apply KeepsParts.said)
    | split
    | intro)

theorem State.tierReadAt_keeps {s0 : State} (s : State) (off n : Nat) (ev : MemEv) (o : Option UnitId) (h : Keeps s0 s) : Keeps s0 (s.tierReadAt off n ev o) := by
  cases o with
  | none => exact h
  | some u =>
    simp only [State.tierReadAt]
    split
    · exact State.tblAnswer_keeps _ _ _ (State.freshBytes_keeps _ _ h)
    · exact State.tierRequest_keeps _ _ _ _ h

theorem execTierRead_keeps {z0 : State} (off n : Nat) (ev : MemEv) (s : State) (hz : Keeps z0 s) :
    KeepsO z0 (execTierRead off n ev s) := by
  unfold execTierRead
  try dsimp only
  repeat' (first
    | with_reducible assumption
    | with_reducible apply KeepsO.next
    | with_reducible apply State.tierReadAt_keeps
    | split
    | intro)

theorem execTierWrite_keeps {z0 : State} (off : Nat) (d : List Byte) (pois : Bool) (ev : MemEv) (s : State) (hz : Keeps z0 s) :
    KeepsO z0 (execTierWrite off d pois ev s) := by
  unfold execTierWrite
  try dsimp only
  repeat' (first
    | with_reducible assumption
    | with_reducible apply KeepsO.next
    | with_reducible apply State.respond_keeps
    | with_reducible apply State.tierRequest_keeps
    | (simp only [keeps_mk]; first | with_reducible apply KeepsParts.of | with_reducible apply KeepsParts.free | with_reducible apply KeepsParts.cut | with_reducible apply KeepsParts.cutMem | with_reducible apply KeepsParts.cutPoison | with_reducible apply KeepsParts.cutAll | with_reducible apply KeepsParts.said)
    | split
    | intro)

theorem State.tierLate_keeps {z0 : State} (s : State) (u : UnitId) (k n : Nat) (hz : Keeps z0 s) :
    Keeps z0 (State.tierLate s u k n) := by
  unfold State.tierLate
  try dsimp only
  repeat' (first
    | with_reducible assumption
    | with_reducible apply State.freshBytes_keeps
    | with_reducible apply State.irq_keeps
    | with_reducible apply State.count_keeps
    | with_reducible apply State.memEvent_keeps
    | with_reducible apply State.tierPoison_keeps
    | split
    | intro)

theorem State.tierTimeout_keeps {s0 : State} (s : State) (off n : Nat) (o : Option UnitId) (h : Keeps s0 s) : Keeps s0 (s.tierTimeout off n o) := by
  cases o with
  | none => exact h
  | some u =>
    unfold State.tierTimeout
    dsimp only
    generalize (2 ^ 49 + off) = k
    split
    · exact State.tierLate_keeps _ _ _ _ (State.count_keeps _ _ _ _ h)
    · have h1 : ∀ t : State, Keeps s0 t → ∀ r, Keeps s0 { t with resp := r } := fun t k r => ⟨k.1, k.2, k.3, k.4, k.5, k.6⟩
      have h2 : ∀ l, Keeps s0 { s with tierOut := l } := fun l => ⟨h.1, h.2, h.3, h.4, h.5, h.6⟩
      exact h1 _ (State.releaseMem_keeps _ _ _ (State.tierLate_keeps _ _ _ _ (h2 _)) (fun t r m k => State.tierRequest_keeps _ _ _ _ k)) _

theorem execTierTimeout_keeps {z0 : State} (off n : Nat) (s : State) (hz : Keeps z0 s) :
    KeepsO z0 (execTierTimeout off n s) := by
  unfold execTierTimeout
  try dsimp only
  repeat' (first
    | with_reducible assumption
    | with_reducible apply KeepsO.next
    | with_reducible apply State.tierTimeout_keeps
    | split
    | intro)

theorem State.tierDrop_keeps {z0 : State} (s : State) (u : UnitId) (hz : Keeps z0 s) :
    Keeps z0 (State.tierDrop s u) := by
  unfold State.tierDrop
  try dsimp only
  repeat' (first
    | with_reducible assumption
    | with_reducible apply State.freshBytes_keeps
    | with_reducible apply State.respond_keeps
    | with_reducible apply State.write_keeps
    | with_reducible apply State.tierPoison_keeps
    | with_reducible apply foldl_keeps
    | with_reducible apply foldl_fst_keeps
    | with_reducible apply foldl_snd_keeps
    | (simp only [keeps_mk]; first | with_reducible apply KeepsParts.of | with_reducible apply KeepsParts.free | with_reducible apply KeepsParts.cut | with_reducible apply KeepsParts.cutMem | with_reducible apply KeepsParts.cutPoison | with_reducible apply KeepsParts.cutAll | with_reducible apply KeepsParts.said)
    | split
    | intro)

theorem execTierDown_keeps {z0 : State} (port : Nat) (s : State) (hz : Keeps z0 s) :
    KeepsO z0 (execTierDown port s) := by
  unfold execTierDown
  try dsimp only
  repeat' (first
    | with_reducible assumption
    | with_reducible apply KeepsO.next
    | with_reducible apply State.put_keeps
    | with_reducible apply State.irq_keeps
    | with_reducible apply State.count_keeps
    | with_reducible apply State.memEvent_keeps
    | with_reducible apply State.tierDrop_keeps
    | split
    | intro)

theorem execTierPortUp_keeps {z0 : State} (port width rate : Nat) (s : State) (hz : Keeps z0 s) :
    KeepsO z0 (execTierPortUp port width rate s) := by
  unfold execTierPortUp
  try dsimp only
  repeat' (first
    | with_reducible assumption
    | with_reducible apply KeepsO.next
    | with_reducible apply State.put_keeps
    | split
    | intro)

theorem execTierInjectTag_keeps {z0 : State} (u : UnitId) (src : Src) (s : State) (hz : Keeps z0 s) :
    KeepsO z0 (execTierInjectTag u src s) := by
  unfold execTierInjectTag
  try dsimp only
  repeat' (first
    | with_reducible assumption
    | with_reducible apply KeepsO.next
    | with_reducible apply State.arm_keeps
    | split
    | intro)

theorem State.mboxEnd_keeps {z0 : State} (s : State) (r out : Nat) (hz : Keeps z0 s) :
    Keeps z0 (State.mboxEnd s r out) := by
  unfold State.mboxEnd
  try dsimp only
  repeat' (first
    | with_reducible assumption
    | with_reducible apply State.put_keeps
    | with_reducible apply State.irq_keeps
    | with_reducible apply State.count_keeps
    | split
    | intro)

theorem State.mboxTake_keeps {s0 s t : State} {src : Src} {code part a0 a1 : Nat} (e : s.mboxTake src code part a0 a1 = some t) (h : Keeps s0 s) :
    Keeps s0 t := by
  unfold State.mboxTake at e
  split at e
  · cases e
  · split at e
    · cases e
    · cases e
      exact State.put_keeps _ _ _ _ (State.put_keeps _ _ _ _ (State.put_keeps _ _ _ _ (State.put_keeps _ _ _ _ h)))

theorem State.setSeal_keeps {z0 : State} (s : State) (p v : Nat) (hz : Keeps z0 s) :
    Keeps z0 (State.setSeal s p v) := by
  unfold State.setSeal
  try dsimp only
  repeat' (first
    | with_reducible assumption
    | with_reducible apply State.put_keeps
    | split
    | intro)

theorem State.argBytes_keeps {z0 : State} (s : State) (a n : Nat) (hz : Keeps z0 s) :
    Keeps z0 (State.argBytes s a n).2 := by
  unfold State.argBytes
  try dsimp only
  repeat' (first
    | with_reducible assumption
    | with_reducible apply State.readAll_keeps
    | split
    | intro)

theorem State.endSession_keeps {z0 : State} (s : State) (p : Nat) (hz : Keeps z0 s) :
    Keeps z0 (State.endSession s p) := by
  unfold State.endSession
  try dsimp only
  repeat' (first
    | with_reducible assumption
    | with_reducible apply State.put_keeps
    | with_reducible apply State.setSec_keeps
    | (simp only [keeps_mk]; first | with_reducible apply KeepsParts.of | with_reducible apply KeepsParts.free | with_reducible apply KeepsParts.cut | with_reducible apply KeepsParts.cutMem | with_reducible apply KeepsParts.cutPoison | with_reducible apply KeepsParts.cutAll | with_reducible apply KeepsParts.said)
    | split
    | intro)

theorem State.abortImport_keeps {z0 : State} (s : State) (p : Nat) (hz : Keeps z0 s) :
    Keeps z0 (State.abortImport s p) := by
  unfold State.abortImport
  try dsimp only
  repeat' (first
    | with_reducible assumption
    | with_reducible apply State.count_keeps
    | with_reducible apply State.setSec_keeps
    | with_reducible apply State.setSeal_keeps
    | (simp only [keeps_mk]; first | with_reducible apply KeepsParts.of | with_reducible apply KeepsParts.free | with_reducible apply KeepsParts.cut | with_reducible apply KeepsParts.cutMem | with_reducible apply KeepsParts.cutPoison | with_reducible apply KeepsParts.cutAll | with_reducible apply KeepsParts.said)
    | split
    | intro)

theorem State.drawSession_keeps {z0 : State} (s : State) (p : Nat) (hz : Keeps z0 s) :
    Keeps z0 (State.drawSession s p) := by
  unfold State.drawSession
  try dsimp only
  repeat' (first
    | with_reducible assumption
    | with_reducible apply State.put_keeps
    | with_reducible apply State.fresh_keeps
    | with_reducible apply State.setSec_keeps
    | with_reducible apply State.mboxEnd_keeps
    | (simp only [keeps_mk]; first | with_reducible apply KeepsParts.of | with_reducible apply KeepsParts.free | with_reducible apply KeepsParts.cut | with_reducible apply KeepsParts.cutMem | with_reducible apply KeepsParts.cutPoison | with_reducible apply KeepsParts.cutAll | with_reducible apply KeepsParts.said)
    | split
    | intro)

theorem State.sessionOpen_keeps {z0 : State} (s : State) (p : Nat) (hz : Keeps z0 s) :
    Keeps z0 (State.sessionOpen s p) := by
  unfold State.sessionOpen
  try dsimp only
  repeat' (first
    | with_reducible assumption
    | with_reducible apply State.put_keeps
    | with_reducible apply State.mboxEnd_keeps
    | with_reducible apply State.drawSession_keeps
    | (simp only [keeps_mk]; first | with_reducible apply KeepsParts.of | with_reducible apply KeepsParts.free | with_reducible apply KeepsParts.cut | with_reducible apply KeepsParts.cutMem | with_reducible apply KeepsParts.cutPoison | with_reducible apply KeepsParts.cutAll | with_reducible apply KeepsParts.said)
    | split
    | intro)

theorem execSessionOpen_keeps {z0 : State} (src : Src) (part : Nat) (s : State) (hz : Keeps z0 s) :
    KeepsO z0 (execSessionOpen src part s) := by
  unfold execSessionOpen
  try dsimp only
  repeat' (first
    | with_reducible assumption
    | with_reducible apply KeepsO.next
    | with_reducible apply State.mboxEnd_keeps
    | with_reducible refine State.mboxTake_keeps (by assumption) ?_
    | with_reducible apply State.sessionOpen_keeps
    | (simp only [keeps_mk]; first | with_reducible apply KeepsParts.of | with_reducible apply KeepsParts.free | with_reducible apply KeepsParts.cut | with_reducible apply KeepsParts.cutMem | with_reducible apply KeepsParts.cutPoison | with_reducible apply KeepsParts.cutAll | with_reducible apply KeepsParts.said)
    | split
    | intro)

theorem State.sessionClose_keeps {z0 : State} (s : State) (p : Nat) (hz : Keeps z0 s) :
    Keeps z0 (State.sessionClose s p) := by
  unfold State.sessionClose
  try dsimp only
  repeat' (first
    | with_reducible assumption
    | with_reducible apply State.mboxEnd_keeps
    | with_reducible apply State.endSession_keeps
    | with_reducible apply State.abortImport_keeps
    | split
    | intro)

theorem execSessionClose_keeps {z0 : State} (src : Src) (part : Nat) (s : State) (hz : Keeps z0 s) :
    KeepsO z0 (execSessionClose src part s) := by
  unfold execSessionClose
  try dsimp only
  repeat' (first
    | with_reducible assumption
    | with_reducible apply KeepsO.next
    | with_reducible apply State.mboxEnd_keeps
    | with_reducible refine State.mboxTake_keeps (by assumption) ?_
    | with_reducible apply State.sessionClose_keeps
    | (simp only [keeps_mk]; first | with_reducible apply KeepsParts.of | with_reducible apply KeepsParts.free | with_reducible apply KeepsParts.cut | with_reducible apply KeepsParts.cutMem | with_reducible apply KeepsParts.cutPoison | with_reducible apply KeepsParts.cutAll | with_reducible apply KeepsParts.said)
    | split
    | intro)

theorem State.importFail_keeps {z0 : State} (s : State) (r : Nat) (hz : Keeps z0 s) :
    Keeps z0 (State.importFail s r) := by
  unfold State.importFail
  try dsimp only
  repeat' (first
    | with_reducible assumption
    | with_reducible apply State.count_keeps
    | with_reducible apply State.mboxEnd_keeps
    | split
    | intro)

theorem State.takeManifest_keeps {z0 : State} (s : State) (p : Nat) (bk h m : List Byte) (hz : Keeps z0 s) :
    Keeps z0 (State.takeManifest s p bk h m) := by
  unfold State.takeManifest
  try dsimp only
  repeat' (first
    | with_reducible assumption
    | with_reducible apply State.put_keeps
    | with_reducible apply State.count_keeps
    | with_reducible apply State.setSec_keeps
    | with_reducible apply State.mboxEnd_keeps
    | with_reducible apply State.setSeal_keeps
    | with_reducible apply State.importFail_keeps
    | (simp only [keeps_mk]; first | with_reducible apply KeepsParts.of | with_reducible apply KeepsParts.free | with_reducible apply KeepsParts.cut | with_reducible apply KeepsParts.cutMem | with_reducible apply KeepsParts.cutPoison | with_reducible apply KeepsParts.cutAll | with_reducible apply KeepsParts.said)
    | split
    | intro)

theorem State.openManifest_keeps {z0 : State} (s : State) (p bundle sid sk : Nat) (w h : List Byte) (hz : Keeps z0 s) :
    Keeps z0 (State.openManifest s p bundle sid sk w h) := by
  unfold State.openManifest
  repeat' (first
    | with_reducible assumption
    | with_reducible apply State.argBytes_keeps
    | with_reducible apply State.importFail_keeps
    | with_reducible apply State.takeManifest_keeps
    | (simp only [keeps_mk]; first | with_reducible apply KeepsParts.of | with_reducible apply KeepsParts.free | with_reducible apply KeepsParts.cut | with_reducible apply KeepsParts.cutMem | with_reducible apply KeepsParts.cutPoison | with_reducible apply KeepsParts.cutAll | with_reducible apply KeepsParts.said)
    | split
    | dsimp only)

theorem State.importBegin_keeps {z0 : State} (s : State) (p wrap bundle : Nat) (hz : Keeps z0 s) :
    Keeps z0 (State.importBegin s p wrap bundle) := by
  unfold State.importBegin
  try dsimp only
  repeat' (first
    | with_reducible assumption
    | with_reducible apply State.argBytes_keeps
    | with_reducible apply State.importFail_keeps
    | with_reducible apply State.openManifest_keeps
    | (simp only [keeps_mk]; first | with_reducible apply KeepsParts.of | with_reducible apply KeepsParts.free | with_reducible apply KeepsParts.cut | with_reducible apply KeepsParts.cutMem | with_reducible apply KeepsParts.cutPoison | with_reducible apply KeepsParts.cutAll | with_reducible apply KeepsParts.said)
    | split
    | intro)

theorem execImportBegin_keeps {z0 : State} (src : Src) (part wrap bundle : Nat) (s : State) (hz : Keeps z0 s) :
    KeepsO z0 (execImportBegin src part wrap bundle s) := by
  unfold execImportBegin
  try dsimp only
  repeat' (first
    | with_reducible assumption
    | with_reducible apply KeepsO.next
    | with_reducible apply State.mboxEnd_keeps
    | with_reducible refine State.mboxTake_keeps (by assumption) ?_
    | with_reducible apply State.importBegin_keeps
    | (simp only [keeps_mk]; first | with_reducible apply KeepsParts.of | with_reducible apply KeepsParts.free | with_reducible apply KeepsParts.cut | with_reducible apply KeepsParts.cutMem | with_reducible apply KeepsParts.cutPoison | with_reducible apply KeepsParts.cutAll | with_reducible apply KeepsParts.said)
    | split
    | intro)

theorem State.importWrite_keeps {z0 : State} (s : State) (k : Nat) (d : List Byte) (hz : Keeps z0 s) :
    Keeps z0 (State.importWrite s k d) := by
  unfold State.importWrite
  try dsimp only
  repeat' (first
    | with_reducible assumption
    | with_reducible apply State.tallyWrite_keeps
    | with_reducible apply State.landLine_keeps
    | with_reducible apply foldl_keeps
    | with_reducible apply foldl_fst_keeps
    | with_reducible apply foldl_snd_keeps
    | split
    | intro)

theorem State.importEntries_keeps {z0 : State} : ∀ (x0 : List Nat) (s : State) (p : Nat) (x1 : Nat), Keeps z0 s → Keeps z0 (State.importEntries s p x0 x1).1 := by
  intro x0
  induction x0 with
  | nil =>
    intro s p x1 hz
    have ih := hz
    unfold State.importEntries
    try dsimp only
    repeat' (first
      | with_reducible assumption
      | with_reducible apply ih
      | with_reducible apply State.put_keeps
      | with_reducible apply State.count_keeps
      | with_reducible apply State.setSec_keeps
      | with_reducible apply State.argBytes_keeps
      | with_reducible apply State.importWrite_keeps
      | (simp only [keeps_mk]; first | with_reducible apply KeepsParts.of | with_reducible apply KeepsParts.free | with_reducible apply KeepsParts.cut | with_reducible apply KeepsParts.cutMem | with_reducible apply KeepsParts.cutPoison | with_reducible apply KeepsParts.cutAll | with_reducible apply KeepsParts.said)
      | split
      | intro)
  | cons e r ih =>
    intro s p x1 hz
    unfold State.importEntries
    try dsimp only
    repeat' (first
      | with_reducible assumption
      | with_reducible apply ih
      | with_reducible apply State.put_keeps
      | with_reducible apply State.count_keeps
      | with_reducible apply State.setSec_keeps
      | with_reducible apply State.argBytes_keeps
      | with_reducible apply State.importWrite_keeps
      | (simp only [keeps_mk]; first | with_reducible apply KeepsParts.of | with_reducible apply KeepsParts.free | with_reducible apply KeepsParts.cut | with_reducible apply KeepsParts.cutMem | with_reducible apply KeepsParts.cutPoison | with_reducible apply KeepsParts.cutAll | with_reducible apply KeepsParts.said)
      | split
      | intro)

theorem State.importRun_keeps {z0 : State} (s : State) (p list count : Nat) (hz : Keeps z0 s) :
    Keeps z0 (State.importRun s p list count) := by
  unfold State.importRun
  try dsimp only
  repeat' (first
    | with_reducible assumption
    | with_reducible apply State.count_keeps
    | with_reducible apply State.mboxEnd_keeps
    | with_reducible apply State.importEntries_keeps
    | split
    | intro)

theorem execImportRun_keeps {z0 : State} (src : Src) (part list count : Nat) (s : State) (hz : Keeps z0 s) :
    KeepsO z0 (execImportRun src part list count s) := by
  unfold execImportRun
  try dsimp only
  repeat' (first
    | with_reducible assumption
    | with_reducible apply KeepsO.next
    | with_reducible apply State.mboxEnd_keeps
    | with_reducible refine State.mboxTake_keeps (by assumption) ?_
    | with_reducible apply State.importRun_keeps
    | (simp only [keeps_mk]; first | with_reducible apply KeepsParts.of | with_reducible apply KeepsParts.free | with_reducible apply KeepsParts.cut | with_reducible apply KeepsParts.cutMem | with_reducible apply KeepsParts.cutPoison | with_reducible apply KeepsParts.cutAll | with_reducible apply KeepsParts.said)
    | split
    | intro)

theorem State.importEnd_keeps {z0 : State} (s : State) (p : Nat) (hz : Keeps z0 s) :
    Keeps z0 (State.importEnd s p) := by
  unfold State.importEnd
  try dsimp only
  repeat' (first
    | with_reducible assumption
    | with_reducible apply State.count_keeps
    | with_reducible apply State.setSec_keeps
    | with_reducible apply State.mboxEnd_keeps
    | with_reducible apply State.setSeal_keeps
    | with_reducible apply State.endSession_keeps
    | (simp only [keeps_mk]; first | with_reducible apply KeepsParts.of | with_reducible apply KeepsParts.free | with_reducible apply KeepsParts.cut | with_reducible apply KeepsParts.cutMem | with_reducible apply KeepsParts.cutPoison | with_reducible apply KeepsParts.cutAll | with_reducible apply KeepsParts.said)
    | split
    | intro)

theorem execImportEnd_keeps {z0 : State} (src : Src) (part : Nat) (s : State) (hz : Keeps z0 s) :
    KeepsO z0 (execImportEnd src part s) := by
  unfold execImportEnd
  try dsimp only
  repeat' (first
    | with_reducible assumption
    | with_reducible apply KeepsO.next
    | with_reducible apply State.mboxEnd_keeps
    | with_reducible refine State.mboxTake_keeps (by assumption) ?_
    | with_reducible apply State.importEnd_keeps
    | (simp only [keeps_mk]; first | with_reducible apply KeepsParts.of | with_reducible apply KeepsParts.free | with_reducible apply KeepsParts.cut | with_reducible apply KeepsParts.cutMem | with_reducible apply KeepsParts.cutPoison | with_reducible apply KeepsParts.cutAll | with_reducible apply KeepsParts.said)
    | split
    | intro)

theorem State.importAbort_keeps {z0 : State} (s : State) (p : Nat) (hz : Keeps z0 s) :
    Keeps z0 (State.importAbort s p) := by
  unfold State.importAbort
  try dsimp only
  repeat' (first
    | with_reducible assumption
    | with_reducible apply State.mboxEnd_keeps
    | with_reducible apply State.abortImport_keeps
    | split
    | intro)

theorem execImportAbort_keeps {z0 : State} (src : Src) (part : Nat) (s : State) (hz : Keeps z0 s) :
    KeepsO z0 (execImportAbort src part s) := by
  unfold execImportAbort
  try dsimp only
  repeat' (first
    | with_reducible assumption
    | with_reducible apply KeepsO.next
    | with_reducible apply State.mboxEnd_keeps
    | with_reducible refine State.mboxTake_keeps (by assumption) ?_
    | with_reducible apply State.importAbort_keeps
    | (simp only [keeps_mk]; first | with_reducible apply KeepsParts.of | with_reducible apply KeepsParts.free | with_reducible apply KeepsParts.cut | with_reducible apply KeepsParts.cutMem | with_reducible apply KeepsParts.cutPoison | with_reducible apply KeepsParts.cutAll | with_reducible apply KeepsParts.said)
    | split
    | intro)

theorem State.loosePlan_keeps {z0 : State} (s : State) (p slot : Nat) (hz : Keeps z0 s) :
    Keeps z0 (State.loosePlan s p slot) := by
  unfold State.loosePlan
  try dsimp only
  repeat' (first
    | with_reducible assumption
    | with_reducible apply State.put_keeps
    | with_reducible apply State.setPart_keeps
    | with_reducible apply State.dropPlan_keeps
    | (simp only [keeps_mk]; first | with_reducible apply KeepsParts.of | with_reducible apply KeepsParts.free | with_reducible apply KeepsParts.cut | with_reducible apply KeepsParts.cutMem | with_reducible apply KeepsParts.cutPoison | with_reducible apply KeepsParts.cutAll | with_reducible apply KeepsParts.said)
    | split
    | intro)

theorem State.startUnseal_keeps {z0 : State} (s : State) (p : Nat) (hz : Keeps z0 s) :
    Keeps z0 (State.startUnseal s p) := by
  unfold State.startUnseal
  try dsimp only
  repeat' (first
    | with_reducible assumption
    | with_reducible apply State.setSec_keeps
    | with_reducible apply State.setSeal_keeps
    | with_reducible apply State.loosePlan_keeps
    | with_reducible apply foldl_keeps
    | with_reducible apply foldl_fst_keeps
    | with_reducible apply foldl_snd_keeps
    | (simp only [keeps_mk]; first | with_reducible apply KeepsParts.of | with_reducible apply KeepsParts.free | with_reducible apply KeepsParts.cut | with_reducible apply KeepsParts.cutMem | with_reducible apply KeepsParts.cutPoison | with_reducible apply KeepsParts.cutAll | with_reducible apply KeepsParts.said)
    | split
    | intro)

theorem State.unseal_keeps {z0 : State} (s : State) (p : Nat) (hz : Keeps z0 s) :
    Keeps z0 (State.unseal s p) := by
  unfold State.unseal
  try dsimp only
  repeat' (first
    | with_reducible assumption
    | with_reducible apply State.mboxEnd_keeps
    | with_reducible apply State.startUnseal_keeps
    | split
    | intro)

theorem execUnseal_keeps {z0 : State} (src : Src) (part : Nat) (s : State) (hz : Keeps z0 s) :
    KeepsO z0 (execUnseal src part s) := by
  unfold execUnseal
  try dsimp only
  repeat' (first
    | with_reducible assumption
    | with_reducible apply KeepsO.next
    | with_reducible apply State.mboxEnd_keeps
    | with_reducible refine State.mboxTake_keeps (by assumption) ?_
    | with_reducible apply State.unseal_keeps
    | (simp only [keeps_mk]; first | with_reducible apply KeepsParts.of | with_reducible apply KeepsParts.free | with_reducible apply KeepsParts.cut | with_reducible apply KeepsParts.cutMem | with_reducible apply KeepsParts.cutPoison | with_reducible apply KeepsParts.cutAll | with_reducible apply KeepsParts.said)
    | split
    | intro)

theorem State.drawMemoryKeys_keeps {z0 : State} (s : State) (full : Bool) (p : Nat) (hz : Keeps z0 s) :
    Keeps z0 (State.drawMemoryKeys s full p) := by
  unfold State.drawMemoryKeys
  try dsimp only
  repeat' (first
    | with_reducible assumption
    | with_reducible apply State.put_keeps
    | (simp only [keeps_mk]; first | with_reducible apply KeepsParts.of | with_reducible apply KeepsParts.free | with_reducible apply KeepsParts.cut | with_reducible apply KeepsParts.cutMem | with_reducible apply KeepsParts.cutPoison | with_reducible apply KeepsParts.cutAll | with_reducible apply KeepsParts.said)
    | split
    | intro)

theorem execScrubComplete_keeps {z0 : State} (part : Nat) (s : State) (hz : Keeps z0 s) :
    KeepsO z0 (execScrubComplete part s) := by
  unfold execScrubComplete
  try dsimp only
  repeat' (first
    | with_reducible assumption
    | with_reducible apply KeepsO.next
    | with_reducible apply State.put_keeps
    | with_reducible apply State.setSec_keeps
    | with_reducible apply State.zeroTable_keeps
    | with_reducible apply State.zeroLocal_keeps
    | with_reducible apply State.setSeal_keeps
    | with_reducible apply State.drawMemoryKeys_keeps
    | with_reducible apply foldl_keeps
    | with_reducible apply foldl_fst_keeps
    | with_reducible apply foldl_snd_keeps
    | (simp only [keeps_mk]; first | with_reducible apply KeepsParts.of | with_reducible apply KeepsParts.free | with_reducible apply KeepsParts.cut | with_reducible apply KeepsParts.cutMem | with_reducible apply KeepsParts.cutPoison | with_reducible apply KeepsParts.cutAll | with_reducible apply KeepsParts.said)
    | split
    | intro)

theorem State.drawChallenge_keeps {z0 : State} (s : State) (hz : Keeps z0 s) :
    Keeps z0 (State.drawChallenge s) := by
  unfold State.drawChallenge
  try dsimp only
  repeat' (first
    | with_reducible assumption
    | with_reducible apply State.put_keeps
    | with_reducible apply State.freshBytes_keeps
    | with_reducible apply State.mboxEnd_keeps
    | (simp only [keeps_mk]; first | with_reducible apply KeepsParts.of | with_reducible apply KeepsParts.free | with_reducible apply KeepsParts.cut | with_reducible apply KeepsParts.cutMem | with_reducible apply KeepsParts.cutPoison | with_reducible apply KeepsParts.cutAll | with_reducible apply KeepsParts.said)
    | split
    | intro)

theorem State.debugChallenge_keeps {z0 : State} (s : State) (hz : Keeps z0 s) :
    Keeps z0 (State.debugChallenge s) := by
  unfold State.debugChallenge
  try dsimp only
  repeat' (first
    | with_reducible assumption
    | with_reducible apply State.put_keeps
    | with_reducible apply State.drawChallenge_keeps
    | (simp only [keeps_mk]; first | with_reducible apply KeepsParts.of | with_reducible apply KeepsParts.free | with_reducible apply KeepsParts.cut | with_reducible apply KeepsParts.cutMem | with_reducible apply KeepsParts.cutPoison | with_reducible apply KeepsParts.cutAll | with_reducible apply KeepsParts.said)
    | split
    | intro)

theorem execDebugChallenge_keeps {z0 : State} (src : Src) (part : Nat) (s : State) (hz : Keeps z0 s) :
    KeepsO z0 (execDebugChallenge src part s) := by
  unfold execDebugChallenge
  try dsimp only
  repeat' (first
    | with_reducible assumption
    | with_reducible apply KeepsO.next
    | with_reducible apply State.mboxEnd_keeps
    | with_reducible refine State.mboxTake_keeps (by assumption) ?_
    | with_reducible apply State.debugChallenge_keeps
    | (simp only [keeps_mk]; first | with_reducible apply KeepsParts.of | with_reducible apply KeepsParts.free | with_reducible apply KeepsParts.cut | with_reducible apply KeepsParts.cutMem | with_reducible apply KeepsParts.cutPoison | with_reducible apply KeepsParts.cutAll | with_reducible apply KeepsParts.said)
    | split
    | intro)

theorem execTrngHealthTest_keeps {z0 : State} (fails : Bool) (s : State) (hz : Keeps z0 s) :
    KeepsO z0 (execTrngHealthTest fails s) := by
  unfold execTrngHealthTest
  try dsimp only
  repeat' (first
    | with_reducible assumption
    | with_reducible apply KeepsO.next
    | with_reducible apply State.irq_keeps
    | with_reducible apply State.count_keeps
    | with_reducible apply State.drawSession_keeps
    | with_reducible apply State.drawChallenge_keeps
    | (simp only [keeps_mk]; first | with_reducible apply KeepsParts.of | with_reducible apply KeepsParts.free | with_reducible apply KeepsParts.cut | with_reducible apply KeepsParts.cutMem | with_reducible apply KeepsParts.cutPoison | with_reducible apply KeepsParts.cutAll | with_reducible apply KeepsParts.said)
    | split
    | intro)

theorem State.setPwr_keeps {z0 : State} (s : State) (f : PwrRec → PwrRec) (hz : Keeps z0 s) :
    Keeps z0 (State.setPwr s f) := by
  unfold State.setPwr
  try dsimp only
  repeat' (first
    | with_reducible assumption
    | (simp only [keeps_mk]; first | with_reducible apply KeepsParts.of | with_reducible apply KeepsParts.free | with_reducible apply KeepsParts.cut | with_reducible apply KeepsParts.cutMem | with_reducible apply KeepsParts.cutPoison | with_reducible apply KeepsParts.cutAll | with_reducible apply KeepsParts.said)
    | split
    | intro)

theorem State.applyCap_keeps {z0 : State} (s : State) (hz : Keeps z0 s) :
    Keeps z0 (State.applyCap s) := by
  unfold State.applyCap
  try dsimp only
  repeat' (first
    | with_reducible assumption
    | with_reducible apply State.put_keeps
    | with_reducible apply State.irq_keeps
    | with_reducible apply State.eventM_keeps
    | split
    | intro)

theorem State.moveHold_keeps {z0 : State} (s : State) (ps : List Nat) (up : Bool) (hz : Keeps z0 s) :
    Keeps z0 (State.moveHold s ps up) := by
  unfold State.moveHold
  try dsimp only
  repeat' (first
    | with_reducible assumption
    | with_reducible apply State.put_keeps
    | with_reducible apply foldl_keeps
    | with_reducible apply foldl_fst_keeps
    | with_reducible apply foldl_snd_keeps
    | split
    | intro)

theorem State.limitDown_keeps {z0 : State} (s : State) (bulk hungry : List Nat) (hz : Keeps z0 s) :
    Keeps z0 (State.limitDown s bulk hungry) := by
  unfold State.limitDown
  try dsimp only
  repeat' (first
    | with_reducible assumption
    | with_reducible apply State.setPwr_keeps
    | with_reducible apply State.moveHold_keeps
    | (simp only [keeps_mk]; first | with_reducible apply KeepsParts.of | with_reducible apply KeepsParts.free | with_reducible apply KeepsParts.cut | with_reducible apply KeepsParts.cutMem | with_reducible apply KeepsParts.cutPoison | with_reducible apply KeepsParts.cutAll | with_reducible apply KeepsParts.said)
    | split
    | intro)

theorem State.limitUp_keeps {z0 : State} (s : State) (bulk ante : List Nat) (hz : Keeps z0 s) :
    Keeps z0 (State.limitUp s bulk ante) := by
  unfold State.limitUp
  try dsimp only
  repeat' (first
    | with_reducible assumption
    | with_reducible apply State.setPwr_keeps
    | with_reducible apply State.moveHold_keeps
    | (simp only [keeps_mk]; first | with_reducible apply KeepsParts.of | with_reducible apply KeepsParts.free | with_reducible apply KeepsParts.cut | with_reducible apply KeepsParts.cutMem | with_reducible apply KeepsParts.cutPoison | with_reducible apply KeepsParts.cutAll | with_reducible apply KeepsParts.said)
    | split
    | intro)

theorem State.limiterReads_keeps {z0 : State} (s : State) (m : PowerSample) (hz : Keeps z0 s) :
    Keeps z0 (State.limiterReads s m) := by
  unfold State.limiterReads
  try dsimp only
  repeat' (first
    | with_reducible assumption
    | with_reducible apply State.put_keeps
    | with_reducible apply State.count_keeps
    | with_reducible apply State.setPwr_keeps
    | with_reducible apply State.applyCap_keeps
    | with_reducible apply foldl_keeps
    | with_reducible apply foldl_fst_keeps
    | with_reducible apply foldl_snd_keeps
    | (simp only [keeps_mk]; first | with_reducible apply KeepsParts.of | with_reducible apply KeepsParts.free | with_reducible apply KeepsParts.cut | with_reducible apply KeepsParts.cutMem | with_reducible apply KeepsParts.cutPoison | with_reducible apply KeepsParts.cutAll | with_reducible apply KeepsParts.said)
    | split
    | intro)

theorem State.limiterMoves_keeps {z0 : State} (s : State) (m : PowerSample) (hz : Keeps z0 s) :
    Keeps z0 (State.limiterMoves s m) := by
  unfold State.limiterMoves
  try dsimp only
  repeat' (first
    | with_reducible assumption
    | with_reducible apply State.count_keeps
    | with_reducible apply State.limitDown_keeps
    | with_reducible apply State.limitUp_keeps
    | with_reducible apply foldl_keeps
    | with_reducible apply foldl_fst_keeps
    | with_reducible apply foldl_snd_keeps
    | split
    | intro)

theorem State.limiterCounts_keeps {z0 : State} (s : State) (hz : Keeps z0 s) :
    Keeps z0 (State.limiterCounts s) := by
  unfold State.limiterCounts
  try dsimp only
  repeat' (first
    | with_reducible assumption
    | with_reducible apply State.count_keeps
    | split
    | intro)

theorem execLimiterTick_keeps {z0 : State} (m : PowerSample) (s : State) (hz : Keeps z0 s) :
    KeepsO z0 (execLimiterTick m s) := by
  unfold execLimiterTick
  try dsimp only
  repeat' (first
    | with_reducible assumption
    | with_reducible apply KeepsO.next
    | with_reducible apply State.limiterReads_keeps
    | with_reducible apply State.limiterMoves_keeps
    | with_reducible apply State.limiterCounts_keeps
    | split
    | intro)

theorem execFastLimit_keeps {z0 : State} (p10us : Nat) (s : State) (hz : Keeps z0 s) :
    KeepsO z0 (execFastLimit p10us s) := by
  unfold execFastLimit
  try dsimp only
  repeat' (first
    | with_reducible assumption
    | with_reducible apply KeepsO.next
    | with_reducible apply State.count_keeps
    | with_reducible apply State.setPwr_keeps
    | (simp only [keeps_mk]; first | with_reducible apply KeepsParts.of | with_reducible apply KeepsParts.free | with_reducible apply KeepsParts.cut | with_reducible apply KeepsParts.cutMem | with_reducible apply KeepsParts.cutPoison | with_reducible apply KeepsParts.cutAll | with_reducible apply KeepsParts.said)
    | split
    | intro)

theorem State.predOff_keeps {z0 : State} (s : State) (hz : Keeps z0 s) :
    Keeps z0 (State.predOff s) := by
  unfold State.predOff
  try dsimp only
  repeat' (first
    | with_reducible assumption
    | with_reducible apply State.put_keeps
    | with_reducible apply State.irq_keeps
    | split
    | intro)

theorem execHostCapWrite_keeps {z0 : State} (src : Src) (watts : Nat) (s : State) (hz : Keeps z0 s) :
    KeepsO z0 (execHostCapWrite src watts s) := by
  unfold execHostCapWrite
  try dsimp only
  repeat' (first
    | with_reducible assumption
    | with_reducible apply KeepsO.next
    | with_reducible apply State.put_keeps
    | with_reducible apply State.setPwr_keeps
    | with_reducible apply State.applyCap_keeps
    | (simp only [keeps_mk]; first | with_reducible apply KeepsParts.of | with_reducible apply KeepsParts.free | with_reducible apply KeepsParts.cut | with_reducible apply KeepsParts.cutMem | with_reducible apply KeepsParts.cutPoison | with_reducible apply KeepsParts.cutAll | with_reducible apply KeepsParts.said)
    | split
    | intro)

theorem execThrotAssert_keeps {z0 : State} (s : State) (hz : Keeps z0 s) :
    KeepsO z0 (execThrotAssert s) := by
  unfold execThrotAssert
  try dsimp only
  repeat' (first
    | with_reducible assumption
    | with_reducible apply KeepsO.next
    | with_reducible apply State.put_keeps
    | with_reducible apply State.irq_keeps
    | with_reducible apply State.count_keeps
    | with_reducible apply State.setPwr_keeps
    | with_reducible apply State.applyCap_keeps
    | (simp only [keeps_mk]; first | with_reducible apply KeepsParts.of | with_reducible apply KeepsParts.free | with_reducible apply KeepsParts.cut | with_reducible apply KeepsParts.cutMem | with_reducible apply KeepsParts.cutPoison | with_reducible apply KeepsParts.cutAll | with_reducible apply KeepsParts.said)
    | split
    | intro)

theorem execThrotRelease_keeps {z0 : State} (s : State) (hz : Keeps z0 s) :
    KeepsO z0 (execThrotRelease s) := by
  unfold execThrotRelease
  try dsimp only
  repeat' (first
    | with_reducible assumption
    | with_reducible apply KeepsO.next
    | with_reducible apply State.put_keeps
    | with_reducible apply State.setPwr_keeps
    | with_reducible apply State.applyCap_keeps
    | (simp only [keeps_mk]; first | with_reducible apply KeepsParts.of | with_reducible apply KeepsParts.free | with_reducible apply KeepsParts.cut | with_reducible apply KeepsParts.cutMem | with_reducible apply KeepsParts.cutPoison | with_reducible apply KeepsParts.cutAll | with_reducible apply KeepsParts.said)
    | split
    | intro)

theorem execRampModeAssert_keeps {z0 : State} (p1ms : Nat) (s : State) (hz : Keeps z0 s) :
    KeepsO z0 (execRampModeAssert p1ms s) := by
  unfold execRampModeAssert
  try dsimp only
  repeat' (first
    | with_reducible assumption
    | with_reducible apply KeepsO.next
    | with_reducible apply State.put_keeps
    | with_reducible apply State.setPwr_keeps
    | with_reducible apply State.applyCap_keeps
    | (simp only [keeps_mk]; first | with_reducible apply KeepsParts.of | with_reducible apply KeepsParts.free | with_reducible apply KeepsParts.cut | with_reducible apply KeepsParts.cutMem | with_reducible apply KeepsParts.cutPoison | with_reducible apply KeepsParts.cutAll | with_reducible apply KeepsParts.said)
    | split
    | intro)

theorem execRampModeRelease_keeps {z0 : State} (s : State) (hz : Keeps z0 s) :
    KeepsO z0 (execRampModeRelease s) := by
  unfold execRampModeRelease
  try dsimp only
  repeat' (first
    | with_reducible assumption
    | with_reducible apply KeepsO.next
    | with_reducible apply State.put_keeps
    | with_reducible apply State.setPwr_keeps
    | with_reducible apply State.applyCap_keeps
    | (simp only [keeps_mk]; first | with_reducible apply KeepsParts.of | with_reducible apply KeepsParts.free | with_reducible apply KeepsParts.cut | with_reducible apply KeepsParts.cutMem | with_reducible apply KeepsParts.cutPoison | with_reducible apply KeepsParts.cutAll | with_reducible apply KeepsParts.said)
    | split
    | intro)

theorem State.rampTick_keeps {z0 : State} (s : State) (p1ms : Nat) (hz : Keeps z0 s) :
    Keeps z0 (State.rampTick s p1ms) := by
  unfold State.rampTick
  try dsimp only
  repeat' (first
    | with_reducible assumption
    | with_reducible apply State.put_keeps
    | with_reducible apply State.count_keeps
    | with_reducible apply State.setPwr_keeps
    | with_reducible apply State.applyCap_keeps
    | (simp only [keeps_mk]; first | with_reducible apply KeepsParts.of | with_reducible apply KeepsParts.free | with_reducible apply KeepsParts.cut | with_reducible apply KeepsParts.cutMem | with_reducible apply KeepsParts.cutPoison | with_reducible apply KeepsParts.cutAll | with_reducible apply KeepsParts.said)
    | split
    | intro)

theorem execSyncLost_keeps {z0 : State} (s : State) (hz : Keeps z0 s) :
    KeepsO z0 (execSyncLost s) := by
  unfold execSyncLost
  try dsimp only
  repeat' (first
    | with_reducible assumption
    | with_reducible apply KeepsO.next
    | with_reducible apply State.put_keeps
    | with_reducible apply State.irq_keeps
    | with_reducible apply State.count_keeps
    | with_reducible apply State.eventM_keeps
    | with_reducible apply State.setPwr_keeps
    | (simp only [keeps_mk]; first | with_reducible apply KeepsParts.of | with_reducible apply KeepsParts.free | with_reducible apply KeepsParts.cut | with_reducible apply KeepsParts.cutMem | with_reducible apply KeepsParts.cutPoison | with_reducible apply KeepsParts.cutAll | with_reducible apply KeepsParts.said)
    | split
    | intro)

theorem execPhasePreset_keeps {z0 : State} (part phase : Nat) (s : State) (hz : Keeps z0 s) :
    KeepsO z0 (execPhasePreset part phase s) := by
  unfold execPhasePreset
  try dsimp only
  repeat' (first
    | with_reducible assumption
    | with_reducible apply KeepsO.next
    | with_reducible apply State.put_keeps
    | with_reducible apply State.count_keeps
    | with_reducible apply State.phaseStart_keeps
    | with_reducible apply State.predOff_keeps
    | (simp only [keeps_mk]; first | with_reducible apply KeepsParts.of | with_reducible apply KeepsParts.free | with_reducible apply KeepsParts.cut | with_reducible apply KeepsParts.cutMem | with_reducible apply KeepsParts.cutPoison | with_reducible apply KeepsParts.cutAll | with_reducible apply KeepsParts.said)
    | split
    | intro)

theorem execDroop_keeps {z0 : State} (u : UnitId) (cycles : Nat) (s : State) (hz : Keeps z0 s) :
    KeepsO z0 (execDroop u cycles s) := by
  unfold execDroop
  try dsimp only
  repeat' (first
    | with_reducible assumption
    | with_reducible apply KeepsO.next
    | with_reducible apply State.count_keeps
    | (simp only [keeps_mk]; first | with_reducible apply KeepsParts.of | with_reducible apply KeepsParts.free | with_reducible apply KeepsParts.cut | with_reducible apply KeepsParts.cutMem | with_reducible apply KeepsParts.cutPoison | with_reducible apply KeepsParts.cutAll | with_reducible apply KeepsParts.said)
    | split
    | intro)

theorem State.setGated_keeps {z0 : State} (s : State) (u : UnitId) (on : Bool) (hz : Keeps z0 s) :
    Keeps z0 (State.setGated s u on) := by
  unfold State.setGated
  try dsimp only
  repeat' (first
    | with_reducible assumption
    | with_reducible apply State.setUnit_keeps
    | with_reducible apply foldl_keeps
    | with_reducible apply foldl_fst_keeps
    | with_reducible apply foldl_snd_keeps
    | (simp only [keeps_mk]; first | with_reducible apply KeepsParts.of | with_reducible apply KeepsParts.free | with_reducible apply KeepsParts.cut | with_reducible apply KeepsParts.cutMem | with_reducible apply KeepsParts.cutPoison | with_reducible apply KeepsParts.cutAll | with_reducible apply KeepsParts.said)
    | split
    | intro)

theorem execGateIdle_keeps {z0 : State} (u : UnitId) (s : State) (hz : Keeps z0 s) :
    KeepsO z0 (execGateIdle u s) := by
  unfold execGateIdle
  try dsimp only
  repeat' (first
    | with_reducible assumption
    | with_reducible apply KeepsO.next
    | with_reducible apply State.setGated_keeps
    | split
    | intro)

theorem execUnitWake_keeps {z0 : State} (u : UnitId) (s : State) (hz : Keeps z0 s) :
    KeepsO z0 (execUnitWake u s) := by
  unfold execUnitWake
  try dsimp only
  repeat' (first
    | with_reducible assumption
    | with_reducible apply KeepsO.next
    | with_reducible apply State.setGated_keeps
    | split
    | intro)

theorem State.park_keeps {z0 : State} (s : State) (hz : Keeps z0 s) :
    Keeps z0 (State.park s) := by
  unfold State.park
  try dsimp only
  repeat' (first
    | with_reducible assumption
    | with_reducible apply State.put_keeps
    | with_reducible apply State.setPwr_keeps
    | (simp only [keeps_mk]; first | with_reducible apply KeepsParts.of | with_reducible apply KeepsParts.free | with_reducible apply KeepsParts.cut | with_reducible apply KeepsParts.cutMem | with_reducible apply KeepsParts.cutPoison | with_reducible apply KeepsParts.cutAll | with_reducible apply KeepsParts.said)
    | split
    | intro)

theorem execParkCmd_keeps {z0 : State} (src : Src) (s : State) (hz : Keeps z0 s) :
    KeepsO z0 (execParkCmd src s) := by
  unfold execParkCmd
  try dsimp only
  repeat' (first
    | with_reducible assumption
    | with_reducible apply KeepsO.next
    | with_reducible apply State.park_keeps
    | (simp only [keeps_mk]; first | with_reducible apply KeepsParts.of | with_reducible apply KeepsParts.free | with_reducible apply KeepsParts.cut | with_reducible apply KeepsParts.cutMem | with_reducible apply KeepsParts.cutPoison | with_reducible apply KeepsParts.cutAll | with_reducible apply KeepsParts.said)
    | split
    | intro)

theorem execParkAuto_keeps {z0 : State} (s : State) (hz : Keeps z0 s) :
    KeepsO z0 (execParkAuto s) := by
  unfold execParkAuto
  try dsimp only
  repeat' (first
    | with_reducible assumption
    | with_reducible apply KeepsO.next
    | with_reducible apply State.park_keeps
    | split
    | intro)

theorem execWakeCmd_keeps {z0 : State} (src : Src) (s : State) (hz : Keeps z0 s) :
    KeepsO z0 (execWakeCmd src s) := by
  unfold execWakeCmd
  try dsimp only
  repeat' (first
    | with_reducible assumption
    | with_reducible apply KeepsO.next
    | with_reducible apply State.rouse_keeps
    | (simp only [keeps_mk]; first | with_reducible apply KeepsParts.of | with_reducible apply KeepsParts.free | with_reducible apply KeepsParts.cut | with_reducible apply KeepsParts.cutMem | with_reducible apply KeepsParts.cutPoison | with_reducible apply KeepsParts.cutAll | with_reducible apply KeepsParts.said)
    | split
    | intro)

theorem execWakeComplete_keeps {z0 : State} (s : State) (hz : Keeps z0 s) :
    KeepsO z0 (execWakeComplete s) := by
  unfold execWakeComplete
  try dsimp only
  repeat' (first
    | with_reducible assumption
    | with_reducible apply KeepsO.next
    | with_reducible apply State.put_keeps
    | with_reducible apply State.setPwr_keeps
    | (simp only [keeps_mk]; first | with_reducible apply KeepsParts.of | with_reducible apply KeepsParts.free | with_reducible apply KeepsParts.cut | with_reducible apply KeepsParts.cutMem | with_reducible apply KeepsParts.cutPoison | with_reducible apply KeepsParts.cutAll | with_reducible apply KeepsParts.said)
    | split
    | intro)

theorem execAgeingMeasure_keeps {z0 : State} (u : UnitId) (mhz : Nat) (s : State) (hz : Keeps z0 s) :
    KeepsO z0 (execAgeingMeasure u mhz s) := by
  unfold execAgeingMeasure
  try dsimp only
  repeat' (first
    | with_reducible assumption
    | with_reducible apply KeepsO.next
    | with_reducible apply State.put_keeps
    | with_reducible apply State.irq_keeps
    | with_reducible apply State.unitEvent_keeps
    | with_reducible apply State.retire_keeps
    | with_reducible apply State.setPwr_keeps
    | with_reducible apply foldl_keeps
    | with_reducible apply foldl_fst_keeps
    | with_reducible apply foldl_snd_keeps
    | (simp only [keeps_mk]; first | with_reducible apply KeepsParts.of | with_reducible apply KeepsParts.free | with_reducible apply KeepsParts.cut | with_reducible apply KeepsParts.cutMem | with_reducible apply KeepsParts.cutPoison | with_reducible apply KeepsParts.cutAll | with_reducible apply KeepsParts.said)
    | split
    | intro)

theorem State.alert_keeps {z0 : State} (s : State) (i : Nat) (on : Bool) (hz : Keeps z0 s) :
    Keeps z0 (State.alert s i on) := by
  unfold State.alert
  try dsimp only
  repeat' (first
    | with_reducible assumption
    | with_reducible apply State.put_keeps
    | split
    | intro)

theorem State.excludeDiode_keeps {z0 : State} (s : State) (u : UnitId) (i : Nat) (hz : Keeps z0 s) :
    Keeps z0 (State.excludeDiode s u i) := by
  unfold State.excludeDiode
  try dsimp only
  repeat' (first
    | with_reducible assumption
    | with_reducible apply State.put_keeps
    | with_reducible apply State.irq_keeps
    | with_reducible apply State.count_keeps
    | with_reducible apply State.setPwr_keeps
    | (simp only [keeps_mk]; first | with_reducible apply KeepsParts.of | with_reducible apply KeepsParts.free | with_reducible apply KeepsParts.cut | with_reducible apply KeepsParts.cutMem | with_reducible apply KeepsParts.cutPoison | with_reducible apply KeepsParts.cutAll | with_reducible apply KeepsParts.said)
    | split
    | intro)

theorem State.senseFail_keeps {z0 : State} (s : State) (u : UnitId) (hz : Keeps z0 s) :
    Keeps z0 (State.senseFail s u) := by
  unfold State.senseFail
  try dsimp only
  repeat' (first
    | with_reducible assumption
    | with_reducible apply State.put_keeps
    | with_reducible apply State.irq_keeps
    | with_reducible apply State.count_keeps
    | with_reducible apply State.eventM_keeps
    | with_reducible apply State.retire_keeps
    | with_reducible apply State.setPwr_keeps
    | with_reducible apply State.applyCap_keeps
    | with_reducible apply foldl_keeps
    | with_reducible apply foldl_fst_keeps
    | with_reducible apply foldl_snd_keeps
    | (simp only [keeps_mk]; first | with_reducible apply KeepsParts.of | with_reducible apply KeepsParts.free | with_reducible apply KeepsParts.cut | with_reducible apply KeepsParts.cutMem | with_reducible apply KeepsParts.cutPoison | with_reducible apply KeepsParts.cutAll | with_reducible apply KeepsParts.said)
    | split
    | intro)

theorem State.throttleMem_keeps {z0 : State} (s : State) (hz : Keeps z0 s) :
    Keeps z0 (State.throttleMem s) := by
  unfold State.throttleMem
  try dsimp only
  repeat' (first
    | with_reducible assumption
    | with_reducible apply State.count_keeps
    | with_reducible apply State.setPwr_keeps
    | (simp only [keeps_mk]; first | with_reducible apply KeepsParts.of | with_reducible apply KeepsParts.free | with_reducible apply KeepsParts.cut | with_reducible apply KeepsParts.cutMem | with_reducible apply KeepsParts.cutPoison | with_reducible apply KeepsParts.cutAll | with_reducible apply KeepsParts.said)
    | split
    | intro)

theorem State.throttle_keeps {z0 : State} (s : State) (hz : Keeps z0 s) :
    Keeps z0 (State.throttle s) := by
  unfold State.throttle
  try dsimp only
  repeat' (first
    | with_reducible assumption
    | with_reducible apply State.put_keeps
    | with_reducible apply State.irq_keeps
    | with_reducible apply State.count_keeps
    | with_reducible apply State.eventM_keeps
    | with_reducible apply State.setPwr_keeps
    | with_reducible apply State.applyCap_keeps
    | with_reducible apply State.throttleMem_keeps
    | (simp only [keeps_mk]; first | with_reducible apply KeepsParts.of | with_reducible apply KeepsParts.free | with_reducible apply KeepsParts.cut | with_reducible apply KeepsParts.cutMem | with_reducible apply KeepsParts.cutPoison | with_reducible apply KeepsParts.cutAll | with_reducible apply KeepsParts.said)
    | split
    | intro)

theorem State.noteTemps_keeps {z0 : State} (s : State) (u : Option UnitId) (hz : Keeps z0 s) :
    Keeps z0 (State.noteTemps s u) := by
  unfold State.noteTemps
  try dsimp only
  repeat' (first
    | with_reducible assumption
    | with_reducible apply State.put_keeps
    | with_reducible apply State.setPwr_keeps
    | with_reducible apply foldl_keeps
    | with_reducible apply foldl_fst_keeps
    | with_reducible apply foldl_snd_keeps
    | (simp only [keeps_mk]; first | with_reducible apply KeepsParts.of | with_reducible apply KeepsParts.free | with_reducible apply KeepsParts.cut | with_reducible apply KeepsParts.cutMem | with_reducible apply KeepsParts.cutPoison | with_reducible apply KeepsParts.cutAll | with_reducible apply KeepsParts.said)
    | split
    | intro)

theorem execThermalSample_keeps {z0 : State} (x : Sensor) (temps : List Nat) (pUnit pDie : Nat) (s : State) (hz : Keeps z0 s) :
    KeepsO z0 (execThermalSample x temps pUnit pDie s) := by
  unfold execThermalSample
  try dsimp only
  repeat' (first
    | with_reducible assumption
    | with_reducible apply KeepsO.next
    | with_reducible apply State.setPwr_keeps
    | with_reducible apply State.excludeDiode_keeps
    | with_reducible apply State.senseFail_keeps
    | with_reducible apply State.throttle_keeps
    | with_reducible apply State.noteTemps_keeps
    | with_reducible apply foldl_keeps
    | with_reducible apply foldl_fst_keeps
    | with_reducible apply foldl_snd_keeps
    | (simp only [keeps_mk]; first | with_reducible apply KeepsParts.of | with_reducible apply KeepsParts.free | with_reducible apply KeepsParts.cut | with_reducible apply KeepsParts.cutMem | with_reducible apply KeepsParts.cutPoison | with_reducible apply KeepsParts.cutAll | with_reducible apply KeepsParts.said)
    | split
    | intro)

theorem execThermalCapTick_keeps {z0 : State} (s : State) (hz : Keeps z0 s) :
    KeepsO z0 (execThermalCapTick s) := by
  unfold execThermalCapTick
  try dsimp only
  repeat' (first
    | with_reducible assumption
    | with_reducible apply KeepsO.next
    | with_reducible apply State.put_keeps
    | with_reducible apply State.count_keeps
    | with_reducible apply State.setPwr_keeps
    | with_reducible apply State.applyCap_keeps
    | (simp only [keeps_mk]; first | with_reducible apply KeepsParts.of | with_reducible apply KeepsParts.free | with_reducible apply KeepsParts.cut | with_reducible apply KeepsParts.cutMem | with_reducible apply KeepsParts.cutPoison | with_reducible apply KeepsParts.cutAll | with_reducible apply KeepsParts.said)
    | split
    | intro)

theorem State.holdFloor_keeps {z0 : State} (s : State) (src : Nat) (hz : Keeps z0 s) :
    Keeps z0 (State.holdFloor s src) := by
  unfold State.holdFloor
  try dsimp only
  repeat' (first
    | with_reducible assumption
    | with_reducible apply State.irq_keeps
    | with_reducible apply State.eventM_keeps
    | with_reducible apply State.setPwr_keeps
    | with_reducible apply State.applyCap_keeps
    | with_reducible apply State.alert_keeps
    | (simp only [keeps_mk]; first | with_reducible apply KeepsParts.of | with_reducible apply KeepsParts.free | with_reducible apply KeepsParts.cut | with_reducible apply KeepsParts.cutMem | with_reducible apply KeepsParts.cutPoison | with_reducible apply KeepsParts.cutAll | with_reducible apply KeepsParts.said)
    | split
    | intro)

theorem State.checkOk_keeps {z0 : State} (s : State) (src : Nat) (hz : Keeps z0 s) :
    Keeps z0 (State.checkOk s src) := by
  unfold State.checkOk
  try dsimp only
  repeat' (first
    | with_reducible assumption
    | with_reducible apply State.setPwr_keeps
    | (simp only [keeps_mk]; first | with_reducible apply KeepsParts.of | with_reducible apply KeepsParts.free | with_reducible apply KeepsParts.cut | with_reducible apply KeepsParts.cutMem | with_reducible apply KeepsParts.cutPoison | with_reducible apply KeepsParts.cutAll | with_reducible apply KeepsParts.said)
    | split
    | intro)

theorem execColdPlateCheck_keeps {z0 : State} (inlet outlet rise watts : Nat) (s : State) (hz : Keeps z0 s) :
    KeepsO z0 (execColdPlateCheck inlet outlet rise watts s) := by
  unfold execColdPlateCheck
  try dsimp only
  repeat' (first
    | with_reducible assumption
    | with_reducible apply KeepsO.next
    | with_reducible apply State.put_keeps
    | with_reducible apply State.irq_keeps
    | with_reducible apply State.count_keeps
    | with_reducible apply State.eventM_keeps
    | with_reducible apply State.holdFloor_keeps
    | with_reducible apply State.checkOk_keeps
    | split
    | intro)

theorem execCurrentCheck_keeps {z0 : State} (rails watts : Nat) (s : State) (hz : Keeps z0 s) :
    KeepsO z0 (execCurrentCheck rails watts s) := by
  unfold execCurrentCheck
  try dsimp only
  repeat' (first
    | with_reducible assumption
    | with_reducible apply KeepsO.next
    | with_reducible apply State.put_keeps
    | with_reducible apply State.count_keeps
    | with_reducible apply State.holdFloor_keeps
    | with_reducible apply State.checkOk_keeps
    | split
    | intro)

theorem execSensorFloorExpiry_keeps {z0 : State} (src : Nat) (s : State) (hz : Keeps z0 s) :
    KeepsO z0 (execSensorFloorExpiry src s) := by
  unfold execSensorFloorExpiry
  try dsimp only
  repeat' (first
    | with_reducible assumption
    | with_reducible apply KeepsO.next
    | with_reducible apply State.setPwr_keeps
    | with_reducible apply State.applyCap_keeps
    | with_reducible apply State.alert_keeps
    | (simp only [keeps_mk]; first | with_reducible apply KeepsParts.of | with_reducible apply KeepsParts.free | with_reducible apply KeepsParts.cut | with_reducible apply KeepsParts.cutMem | with_reducible apply KeepsParts.cutPoison | with_reducible apply KeepsParts.cutAll | with_reducible apply KeepsParts.said)
    | split
    | intro)

theorem State.writeBits_keeps {z0 : State} (s : State) (u : UnitId) (off mask value : Nat) (hz : Keeps z0 s) :
    Keeps z0 (State.writeBits s u off mask value) := by
  unfold State.writeBits
  try dsimp only
  repeat' (first
    | with_reducible assumption
    | with_reducible apply State.put_keeps
    | with_reducible apply foldl_keeps
    | with_reducible apply foldl_fst_keeps
    | with_reducible apply foldl_snd_keeps
    | split
    | intro)

theorem State.applyRecords_keeps {s0 t : State} : ∀ {l : List (Nat × Nat × Nat × Nat)} {s : State} {i : Nat}, s.applyRecords i l = .ok t → Keeps s0 s → Keeps s0 t := by
  intro l
  induction l with
  | nil =>
    intro s i e h
    unfold State.applyRecords at e
    cases e
    exact h
  | cons x r ih =>
    intro s i e h
    unfold State.applyRecords at e
    split at e
    · cases e
    · exact ih e (foldl_keeps (fun _ _ k => State.writeBits_keeps _ _ _ _ _ k) _ h)

theorem State.zeroSlice_keeps {z0 : State} (s : State) (sl : Nat) (hz : Keeps z0 s) :
    Keeps z0 (State.zeroSlice s sl) := by
  unfold State.zeroSlice
  try dsimp only
  repeat' (first
    | with_reducible assumption
    | with_reducible apply State.zeroTable_keeps
    | split
    | intro)

theorem State.tallyGroup_keeps {z0 : State} (s : State) (g : Nat) (hz : Keeps z0 s) :
    Keeps z0 (State.tallyGroup s g) := by
  unfold State.tallyGroup
  try dsimp only
  repeat' (first
    | with_reducible assumption
    | with_reducible apply State.count_keeps
    | with_reducible apply foldl_keeps
    | with_reducible apply foldl_fst_keeps
    | with_reducible apply foldl_snd_keeps
    | split
    | intro)

theorem State.zeroGroup_keeps {z0 : State} (s0 : State) (g : Nat) (hz : Keeps z0 s0) :
    Keeps z0 (State.zeroGroup s0 g) := by
  unfold State.zeroGroup
  try dsimp only
  repeat' (first
    | with_reducible assumption
    | with_reducible apply State.tallyGroup_keeps
    | (simp only [keeps_mk]; first | with_reducible apply KeepsParts.of | with_reducible apply KeepsParts.free | with_reducible apply KeepsParts.cut | with_reducible apply KeepsParts.cutMem | with_reducible apply KeepsParts.cutPoison | with_reducible apply KeepsParts.cutAll | with_reducible apply KeepsParts.said)
    | split
    | intro)

theorem Sparse.wf_foldl {α β : Type} [DecidableEq α] {d : Nat → α} {f : Sparse α → β → Sparse α}
    (hf : ∀ m b, Sparse.wf d m = true → Sparse.wf d (f m b) = true) : ∀ (l : List β) {m : Sparse α}, Sparse.wf d m = true → Sparse.wf d (l.foldl f m) = true
  | [], _, h => h
  | b :: l, _, h => Sparse.wf_foldl hf l (hf _ b h)

theorem Keys.wf_foldl {β : Type} {f : List Nat → β → List Nat} (hf : ∀ m b, Keys.wf m = true → Keys.wf (f m b) = true) :
    ∀ (l : List β) {m : List Nat}, Keys.wf m = true → Keys.wf (l.foldl f m) = true
  | [], _, h => h
  | b :: l, _, h => Keys.wf_foldl hf l (hf _ b h)

theorem State.moveLocal_keeps {s0 : State} (s t : State) (h : Keeps s0 t) : Keeps s0 (s.moveLocal t) := by
  refine ⟨h.1, h.2, h.3, h.4, fun (k : Sparse.wf memDefault s0.mem = true) => (?_ : Sparse.wf memDefault _ = true), fun k => ?_⟩
  · refine Sparse.wf_foldl (fun m c i => ?_) _ (Sparse.wf_filter _ _ (h.mem k))
    split
    · exact Sparse.wf_set _ _ _ i
    · exact i
  · refine Keys.wf_foldl (fun m c i => ?_) _ (Keys.wf_filter _ (h.6 k))
    split
    · exact Keys.wf_add _ i
    · exact i

theorem State.initPge_keeps {z0 : State} (s : State) (p : Nat) (hz : Keeps z0 s) :
    Keeps z0 (State.initPge s p) := by
  unfold State.initPge
  try dsimp only
  repeat' (first
    | with_reducible assumption
    | with_reducible apply State.setPge_keeps
    | split
    | intro)

theorem State.initGroup_keeps {z0 : State} (s : State) (g : Nat) (hz : Keeps z0 s) :
    Keeps z0 (State.initGroup s g) := by
  unfold State.initGroup
  try dsimp only
  repeat' (first
    | with_reducible assumption
    | with_reducible apply State.put_keeps
    | (simp only [keeps_mk]; first | with_reducible apply KeepsParts.of | with_reducible apply KeepsParts.free | with_reducible apply KeepsParts.cut | with_reducible apply KeepsParts.cutMem | with_reducible apply KeepsParts.cutPoison | with_reducible apply KeepsParts.cutAll | with_reducible apply KeepsParts.said)
    | split
    | intro)

theorem State.freePstate_keeps {z0 : State} (s : State) (p : Nat) (hz : Keeps z0 s) :
    Keeps z0 (State.freePstate s p) := by
  unfold State.freePstate
  try dsimp only
  repeat' (first
    | with_reducible assumption
    | with_reducible apply State.put_keeps
    | split
    | intro)

end Sys2Proof.Machine
end

