-- ==== Sys2Proof/Laws/KeepsI.lean ====
section
/-!
SUPPORT. What the operations of Startup, Resets, Txn, Standby, Image, Mgmt, Cxl, Spdm, Units, View, Registers keep.
-/
set_option linter.unusedTactic false
set_option linter.unreachableTactic false
set_option linter.unusedVariables false

namespace Sys2Proof.Machine

theorem State.setSys_keeps {z0 : State} (s : State) (f : SysRec → SysRec) (hz : Keeps z0 s) :
    Keeps z0 (State.setSys s f) := by
  unfold State.setSys
  try dsimp only
  repeat' (first
    | with_reducible assumption
    | (simp only [keeps_mk]; first | with_reducible apply KeepsParts.of | with_reducible apply KeepsParts.free | with_reducible apply KeepsParts.cut | with_reducible apply KeepsParts.cutMem | with_reducible apply KeepsParts.cutPoison | with_reducible apply KeepsParts.cutAll | with_reducible apply KeepsParts.said)
    | split
    | intro)

theorem State.setMode_keeps {z0 : State} (s : State) (m : Nat) (hz : Keeps z0 s) :
    Keeps z0 (State.setMode s m) := by
  unfold State.setMode
  try dsimp only
  repeat' (first
    | with_reducible assumption
    | with_reducible apply State.put_keeps
    | split
    | intro)

theorem State.putAon_keeps {z0 : State} (s : State) (f : Field) (v : Nat) (hz : Keeps z0 s) :
    Keeps z0 (State.putAon s f v) := by
  unfold State.putAon
  try dsimp only
  repeat' (first
    | with_reducible assumption
    | with_reducible apply State.put_keeps
    | split
    | intro)

theorem State.enter_keeps {z0 : State} (s : State) (u : UnitId) (hz : Keeps z0 s) :
    Keeps z0 (State.enter s u) := by
  unfold State.enter
  try dsimp only
  repeat' (first
    | with_reducible assumption
    | with_reducible apply State.setState_keeps
    | split
    | intro)

theorem State.failsTraining_keeps {z0 : State} (s : State) (u : UnitId) (hz : Keeps z0 s) :
    Keeps z0 (State.failsTraining s u) := by
  unfold State.failsTraining
  try dsimp only
  repeat' (first
    | with_reducible assumption
    | with_reducible apply State.setState_keeps
    | split
    | intro)

theorem State.newReport_keeps {z0 : State} (s : State) (kind : Nat) (hz : Keeps z0 s) :
    Keeps z0 (State.newReport s kind) := by
  unfold State.newReport
  try dsimp only
  repeat' (first
    | with_reducible assumption
    | with_reducible apply State.setSys_keeps
    | (simp only [keeps_mk]; first | with_reducible apply KeepsParts.of | with_reducible apply KeepsParts.free | with_reducible apply KeepsParts.cut | with_reducible apply KeepsParts.cutMem | with_reducible apply KeepsParts.cutPoison | with_reducible apply KeepsParts.cutAll | with_reducible apply KeepsParts.said)
    | split
    | intro)

theorem State.outcomeIs_keeps {z0 : State} (s : State) (o reason : Nat) (hz : Keeps z0 s) :
    Keeps z0 (State.outcomeIs s o reason) := by
  unfold State.outcomeIs
  try dsimp only
  repeat' (first
    | with_reducible assumption
    | with_reducible apply State.setSys_keeps
    | (simp only [keeps_mk]; first | with_reducible apply KeepsParts.of | with_reducible apply KeepsParts.free | with_reducible apply KeepsParts.cut | with_reducible apply KeepsParts.cutMem | with_reducible apply KeepsParts.cutPoison | with_reducible apply KeepsParts.cutAll | with_reducible apply KeepsParts.said)
    | split
    | intro)

theorem State.stageRecord_keeps {z0 : State} (s : State) (result reason detail dur : Nat) (hz : Keeps z0 s) :
    Keeps z0 (State.stageRecord s result reason detail dur) := by
  unfold State.stageRecord
  try dsimp only
  repeat' (first
    | with_reducible assumption
    | with_reducible apply State.setSys_keeps
    | (simp only [keeps_mk]; first | with_reducible apply KeepsParts.of | with_reducible apply KeepsParts.free | with_reducible apply KeepsParts.cut | with_reducible apply KeepsParts.cutMem | with_reducible apply KeepsParts.cutPoison | with_reducible apply KeepsParts.cutAll | with_reducible apply KeepsParts.said)
    | split
    | intro)

theorem State.aonRuns_keeps {z0 : State} (s : State) (hz : Keeps z0 s) :
    Keeps z0 (State.aonRuns s) := by
  unfold State.aonRuns
  try dsimp only
  repeat' (first
    | with_reducible assumption
    | with_reducible apply State.put_keeps
    | with_reducible apply foldl_keeps
    | with_reducible apply foldl_fst_keeps
    | with_reducible apply foldl_snd_keeps
    | split
    | intro)

theorem State.wiped_keeps {z0 : State} (s : State) (host links : Bool) (hz : Keeps z0 s) :
    Keeps z0 (State.wiped s host links) := by
  unfold State.wiped
  try dsimp only
  repeat' (first
    | with_reducible assumption
    | with_reducible apply State.put_keeps
    | with_reducible apply State.discard_keeps
    | with_reducible apply State.setSys_keeps
    | with_reducible apply State.aonRuns_keeps
    | with_reducible apply foldl_keeps
    | with_reducible apply foldl_fst_keeps
    | with_reducible apply foldl_snd_keeps
    | (simp only [keeps_mk]; first | with_reducible apply KeepsParts.of | with_reducible apply KeepsParts.free | with_reducible apply KeepsParts.cut | with_reducible apply KeepsParts.cutMem | with_reducible apply KeepsParts.cutPoison | with_reducible apply KeepsParts.cutAll | with_reducible apply KeepsParts.said)
    | split
    | intro)

theorem State.cutUpdate_keeps {z0 : State} (s : State) (hz : Keeps z0 s) :
    Keeps z0 (State.cutUpdate s) := by
  unfold State.cutUpdate
  try dsimp only
  repeat' (first
    | with_reducible assumption
    | with_reducible apply State.setSys_keeps
    | (simp only [keeps_mk]; first | with_reducible apply KeepsParts.of | with_reducible apply KeepsParts.free | with_reducible apply KeepsParts.cut | with_reducible apply KeepsParts.cutMem | with_reducible apply KeepsParts.cutPoison | with_reducible apply KeepsParts.cutAll | with_reducible apply KeepsParts.said)
    | split
    | intro)

theorem State.interrupted_keeps {z0 : State} (s : State) (hz : Keeps z0 s) :
    Keeps z0 (State.interrupted s) := by
  unfold State.interrupted
  try dsimp only
  repeat' (first
    | with_reducible assumption
    | with_reducible apply State.outcomeIs_keeps
    | split
    | intro)

theorem State.assign_keeps {z0 : State} (s : State) (ok : UnitId → Bool) (b : Blk) (hz : Keeps z0 s) :
    Keeps z0 (State.assign s ok b) := by
  unfold State.assign
  try dsimp only
  repeat' (first
    | with_reducible assumption
    | with_reducible apply State.put_keeps
    | with_reducible apply foldl_keeps
    | with_reducible apply foldl_fst_keeps
    | with_reducible apply foldl_snd_keeps
    | (simp only [keeps_mk]; first | with_reducible apply KeepsParts.of | with_reducible apply KeepsParts.free | with_reducible apply KeepsParts.cut | with_reducible apply KeepsParts.cutMem | with_reducible apply KeepsParts.cutPoison | with_reducible apply KeepsParts.cutAll | with_reducible apply KeepsParts.said)
    | split
    | intro)

theorem State.assignAll_keeps {z0 : State} (s : State) (ok : UnitId → Bool) (hz : Keeps z0 s) :
    Keeps z0 (State.assignAll s ok) := by
  unfold State.assignAll
  try dsimp only
  repeat' (first
    | with_reducible assumption
    | with_reducible apply State.assign_keeps
    | with_reducible apply foldl_keeps
    | with_reducible apply foldl_fst_keeps
    | with_reducible apply foldl_snd_keeps
    | (simp only [keeps_mk]; first | with_reducible apply KeepsParts.of | with_reducible apply KeepsParts.free | with_reducible apply KeepsParts.cut | with_reducible apply KeepsParts.cutMem | with_reducible apply KeepsParts.cutPoison | with_reducible apply KeepsParts.cutAll | with_reducible apply KeepsParts.said)
    | split
    | intro)

theorem State.beginWave_keeps {z0 : State} (s : State) (hz : Keeps z0 s) :
    Keeps z0 (State.beginWave s) := by
  unfold State.beginWave
  try dsimp only
  repeat' (first
    | with_reducible assumption
    | with_reducible apply State.count_keeps
    | with_reducible apply State.setSys_keeps
    | (simp only [keeps_mk]; first | with_reducible apply KeepsParts.of | with_reducible apply KeepsParts.free | with_reducible apply KeepsParts.cut | with_reducible apply KeepsParts.cutMem | with_reducible apply KeepsParts.cutPoison | with_reducible apply KeepsParts.cutAll | with_reducible apply KeepsParts.said)
    | split
    | intro)

theorem State.retireCore_keeps {z0 : State} (s : State) (u : UnitId) (hz : Keeps z0 s) :
    Keeps z0 (State.retireCore s u) := by
  unfold State.retireCore
  try dsimp only
  repeat' (first
    | with_reducible assumption
    | with_reducible apply State.put_keeps
    | with_reducible apply State.irq_keeps
    | with_reducible apply State.count_keeps
    | with_reducible apply State.setState_keeps
    | with_reducible apply State.markRetired_keeps
    | with_reducible apply State.retire_keeps
    | with_reducible apply State.retired_keeps
    | with_reducible apply State.setSys_keeps
    | (simp only [keeps_mk]; first | with_reducible apply KeepsParts.of | with_reducible apply KeepsParts.free | with_reducible apply KeepsParts.cut | with_reducible apply KeepsParts.cutMem | with_reducible apply KeepsParts.cutPoison | with_reducible apply KeepsParts.cutAll | with_reducible apply KeepsParts.said)
    | split
    | intro)

theorem State.joinWave_keeps {z0 : State} (s : State) (hz : Keeps z0 s) :
    Keeps z0 (State.joinWave s) := by
  unfold State.joinWave
  try dsimp only
  repeat' (first
    | with_reducible assumption
    | with_reducible apply State.setSys_keeps
    | (simp only [keeps_mk]; first | with_reducible apply KeepsParts.of | with_reducible apply KeepsParts.free | with_reducible apply KeepsParts.cut | with_reducible apply KeepsParts.cutMem | with_reducible apply KeepsParts.cutPoison | with_reducible apply KeepsParts.cutAll | with_reducible apply KeepsParts.said)
    | split
    | intro)

theorem execBcastRoundEnd_keeps {z0 : State} (misses : List (UnitId × List Nat)) (s : State) (hz : Keeps z0 s) :
    KeepsO z0 (execBcastRoundEnd misses s) := by
  unfold execBcastRoundEnd
  try dsimp only
  repeat' (first
    | with_reducible assumption
    | with_reducible apply KeepsO.next
    | with_reducible apply State.count_keeps
    | with_reducible apply State.setSys_keeps
    | with_reducible apply State.retireCore_keeps
    | with_reducible apply State.joinWave_keeps
    | with_reducible apply foldl_keeps
    | with_reducible apply foldl_fst_keeps
    | with_reducible apply foldl_snd_keeps
    | (simp only [keeps_mk]; first | with_reducible apply KeepsParts.of | with_reducible apply KeepsParts.free | with_reducible apply KeepsParts.cut | with_reducible apply KeepsParts.cutMem | with_reducible apply KeepsParts.cutPoison | with_reducible apply KeepsParts.cutAll | with_reducible apply KeepsParts.said)
    | split
    | intro)

theorem execCoreReady_keeps {z0 : State} (u : UnitId) (ok : Bool) (s : State) (hz : Keeps z0 s) :
    KeepsO z0 (execCoreReady u ok s) := by
  unfold execCoreReady
  try dsimp only
  repeat' (first
    | with_reducible assumption
    | with_reducible apply KeepsO.next
    | with_reducible apply State.count_keeps
    | with_reducible apply State.setSys_keeps
    | with_reducible apply State.retireCore_keeps
    | (simp only [keeps_mk]; first | with_reducible apply KeepsParts.of | with_reducible apply KeepsParts.free | with_reducible apply KeepsParts.cut | with_reducible apply KeepsParts.cutMem | with_reducible apply KeepsParts.cutPoison | with_reducible apply KeepsParts.cutAll | with_reducible apply KeepsParts.said)
    | split
    | intro)

theorem State.portsDown_keeps {z0 : State} (s : State) (reason : Nat) (hz : Keeps z0 s) :
    Keeps z0 (State.portsDown s reason) := by
  unfold State.portsDown
  try dsimp only
  repeat' (first
    | with_reducible assumption
    | with_reducible apply State.goDown_keeps
    | with_reducible apply foldl_keeps
    | with_reducible apply foldl_fst_keeps
    | with_reducible apply foldl_snd_keeps
    | split
    | intro)

theorem State.portsUp_keeps {z0 : State} (s : State) (hz : Keeps z0 s) :
    Keeps z0 (State.portsUp s) := by
  unfold State.portsUp
  try dsimp only
  repeat' (first
    | with_reducible assumption
    | with_reducible apply State.setLinkState_keeps
    | with_reducible apply State.enter_keeps
    | with_reducible apply foldl_keeps
    | with_reducible apply foldl_fst_keeps
    | with_reducible apply foldl_snd_keeps
    | split
    | intro)

theorem State.mccRuns_keeps {z0 : State} (s : State) (fw : Nat) (hz : Keeps z0 s) :
    Keeps z0 (State.mccRuns s fw) := by
  unfold State.mccRuns
  try dsimp only
  repeat' (first
    | with_reducible assumption
    | with_reducible apply State.put_keeps
    | with_reducible apply State.enter_keeps
    | with_reducible apply foldl_keeps
    | with_reducible apply foldl_fst_keeps
    | with_reducible apply foldl_snd_keeps
    | split
    | intro)

theorem State.goMinimal_keeps {z0 : State} (s : State) (reason : Nat) (hz : Keeps z0 s) :
    Keeps z0 (State.goMinimal s reason) := by
  unfold State.goMinimal
  try dsimp only
  repeat' (first
    | with_reducible assumption
    | with_reducible apply State.modEvent_keeps
    | with_reducible apply State.sendKeepalives_keeps
    | with_reducible apply State.alert_keeps
    | with_reducible apply State.setMode_keeps
    | with_reducible apply State.newReport_keeps
    | with_reducible apply State.outcomeIs_keeps
    | with_reducible apply State.wiped_keeps
    | with_reducible apply State.portsUp_keeps
    | with_reducible apply State.mccRuns_keeps
    | (simp only [keeps_mk]; first | with_reducible apply KeepsParts.of | with_reducible apply KeepsParts.free | with_reducible apply KeepsParts.cut | with_reducible apply KeepsParts.cutMem | with_reducible apply KeepsParts.cutPoison | with_reducible apply KeepsParts.cutAll | with_reducible apply KeepsParts.said)
    | split
    | intro)

theorem State.startFailed_keeps {z0 : State} (s : State) (reason detail dur : Nat) (hz : Keeps z0 s) :
    Keeps z0 (State.startFailed s reason detail dur) := by
  unfold State.startFailed
  try dsimp only
  repeat' (first
    | with_reducible assumption
    | with_reducible apply State.put_keeps
    | with_reducible apply State.irq_keeps
    | with_reducible apply State.count_keeps
    | with_reducible apply State.modEvent_keeps
    | with_reducible apply State.setSys_keeps
    | with_reducible apply State.outcomeIs_keeps
    | with_reducible apply State.stageRecord_keeps
    | with_reducible apply State.wiped_keeps
    | with_reducible apply State.portsDown_keeps
    | with_reducible apply State.goMinimal_keeps
    | (simp only [keeps_mk]; first | with_reducible apply KeepsParts.of | with_reducible apply KeepsParts.free | with_reducible apply KeepsParts.cut | with_reducible apply KeepsParts.cutMem | with_reducible apply KeepsParts.cutPoison | with_reducible apply KeepsParts.cutAll | with_reducible apply KeepsParts.said)
    | split
    | intro)

theorem State.stageBegins_keeps {z0 : State} (s : State) (n : Nat) (hz : Keeps z0 s) :
    Keeps z0 (State.stageBegins s n) := by
  unfold State.stageBegins
  try dsimp only
  repeat' (first
    | with_reducible assumption
    | with_reducible apply State.put_keeps
    | with_reducible apply State.setSys_keeps
    | with_reducible apply foldl_keeps
    | with_reducible apply foldl_fst_keeps
    | with_reducible apply foldl_snd_keeps
    | (simp only [keeps_mk]; first | with_reducible apply KeepsParts.of | with_reducible apply KeepsParts.free | with_reducible apply KeepsParts.cut | with_reducible apply KeepsParts.cutMem | with_reducible apply KeepsParts.cutPoison | with_reducible apply KeepsParts.cutAll | with_reducible apply KeepsParts.said)
    | split
    | intro)

theorem State.firstHolders_keeps {z0 : State} (s : State) (failed : List (Nat × Nat)) (hz : Keeps z0 s) :
    Keeps z0 (State.firstHolders s failed) := by
  unfold State.firstHolders
  try dsimp only
  repeat' (first
    | with_reducible assumption
    | with_reducible apply State.put_keeps
    | with_reducible apply State.putAon_keeps
    | split
    | intro)

theorem State.beginFull_keeps {z0 : State} (s : State) (host : Bool) (hz : Keeps z0 s) :
    Keeps z0 (State.beginFull s host) := by
  unfold State.beginFull
  try dsimp only
  repeat' (first
    | with_reducible assumption
    | with_reducible apply State.put_keeps
    | with_reducible apply State.count_keeps
    | with_reducible apply State.discard_keeps
    | with_reducible apply State.retired_keeps
    | with_reducible apply State.alert_keeps
    | with_reducible apply State.setSys_keeps
    | with_reducible apply State.setMode_keeps
    | with_reducible apply State.newReport_keeps
    | with_reducible apply State.wiped_keeps
    | with_reducible apply State.stageBegins_keeps
    | with_reducible apply State.firstHolders_keeps
    | with_reducible apply foldl_keeps
    | with_reducible apply foldl_fst_keeps
    | with_reducible apply foldl_snd_keeps
    | (simp only [keeps_mk]; first | with_reducible apply KeepsParts.of | with_reducible apply KeepsParts.free | with_reducible apply KeepsParts.cut | with_reducible apply KeepsParts.cutMem | with_reducible apply KeepsParts.cutPoison | with_reducible apply KeepsParts.cutAll | with_reducible apply KeepsParts.said)
    | split
    | intro)

theorem State.beginRestart_keeps {z0 : State} (s : State) (hz : Keeps z0 s) :
    Keeps z0 (State.beginRestart s) := by
  unfold State.beginRestart
  try dsimp only
  repeat' (first
    | with_reducible assumption
    | with_reducible apply State.count_keeps
    | with_reducible apply State.setSys_keeps
    | with_reducible apply State.setMode_keeps
    | with_reducible apply State.newReport_keeps
    | with_reducible apply State.stageBegins_keeps
    | (simp only [keeps_mk]; first | with_reducible apply KeepsParts.of | with_reducible apply KeepsParts.free | with_reducible apply KeepsParts.cut | with_reducible apply KeepsParts.cutMem | with_reducible apply KeepsParts.cutPoison | with_reducible apply KeepsParts.cutAll | with_reducible apply KeepsParts.said)
    | split
    | intro)

theorem State.failsTest_keeps {z0 : State} (s : State) (full : Bool) (reason : Nat) (u : UnitId) (hz : Keeps z0 s) :
    Keeps z0 (State.failsTest s full reason u) := by
  unfold State.failsTest
  try dsimp only
  repeat' (first
    | with_reducible assumption
    | with_reducible apply State.setState_keeps
    | with_reducible apply State.eventM_keeps
    | with_reducible apply State.markRetired_keeps
    | with_reducible apply State.setSys_keeps
    | with_reducible apply State.failsTraining_keeps
    | (simp only [keeps_mk]; first | with_reducible apply KeepsParts.of | with_reducible apply KeepsParts.free | with_reducible apply KeepsParts.cut | with_reducible apply KeepsParts.cutMem | with_reducible apply KeepsParts.cutPoison | with_reducible apply KeepsParts.cutAll | with_reducible apply KeepsParts.said)
    | split
    | intro)

theorem State.runTests_keeps {z0 : State} (s : State) (full : Bool) (stage : Nat) (failed : List UnitId) (hz : Keeps z0 s) :
    Keeps z0 (State.runTests s full stage failed).1 := by
  unfold State.runTests
  try dsimp only
  repeat' (first
    | with_reducible assumption
    | with_reducible apply State.setSys_keeps
    | with_reducible apply State.putAon_keeps
    | with_reducible apply State.failsTest_keeps
    | with_reducible apply foldl_keeps
    | with_reducible apply foldl_fst_keeps
    | with_reducible apply foldl_snd_keeps
    | (simp only [keeps_mk]; first | with_reducible apply KeepsParts.of | with_reducible apply KeepsParts.free | with_reducible apply KeepsParts.cut | with_reducible apply KeepsParts.cutMem | with_reducible apply KeepsParts.cutPoison | with_reducible apply KeepsParts.cutAll | with_reducible apply KeepsParts.said)
    | split
    | intro)

theorem State.factory_keeps {z0 : State} (s : State) (hz : Keeps z0 s) :
    Keeps z0 (State.factory s) := by
  unfold State.factory
  try dsimp only
  repeat' (first
    | with_reducible assumption
    | with_reducible apply State.setWord_keeps
    | with_reducible apply foldl_keeps
    | with_reducible apply foldl_fst_keeps
    | with_reducible apply foldl_snd_keeps
    | (simp only [keeps_mk]; first | with_reducible apply KeepsParts.of | with_reducible apply KeepsParts.free | with_reducible apply KeepsParts.cut | with_reducible apply KeepsParts.cutMem | with_reducible apply KeepsParts.cutPoison | with_reducible apply KeepsParts.cutAll | with_reducible apply KeepsParts.said)
    | split
    | intro)

theorem State.configure_keeps {z0 : State} (s : State) (dur : Nat) (next : State → State) (hz : Keeps z0 s) (hnext : ∀ t, Keeps z0 t → Keeps z0 (next t)) :
    Keeps z0 (State.configure s dur next) := by
  unfold State.configure
  try dsimp only
  repeat' (first
    | with_reducible assumption
    | with_reducible apply hnext
    | with_reducible apply State.mccCommit_keeps
    | with_reducible apply State.deriveAlias2_keeps
    | with_reducible apply State.drawMemoryKeys_keeps
    | with_reducible apply State.setPwr_keeps
    | with_reducible apply State.applyCap_keeps
    | with_reducible refine State.applyRecords_keeps (by assumption) ?_
    | with_reducible apply State.tallyGroup_keeps
    | with_reducible apply State.startFailed_keeps
    | with_reducible apply State.factory_keeps
    | with_reducible apply foldl_keeps
    | with_reducible apply foldl_fst_keeps
    | with_reducible apply foldl_snd_keeps
    | (simp only [keeps_mk]; first | with_reducible apply KeepsParts.of | with_reducible apply KeepsParts.free | with_reducible apply KeepsParts.cut | with_reducible apply KeepsParts.cutMem | with_reducible apply KeepsParts.cutPoison | with_reducible apply KeepsParts.cutAll | with_reducible apply KeepsParts.said)
    | split
    | intro)

theorem State.releaseRest_keeps {z0 : State} (s : State) (hz : Keeps z0 s) :
    Keeps z0 (State.releaseRest s) := by
  unfold State.releaseRest
  try dsimp only
  repeat' (first
    | with_reducible assumption
    | with_reducible apply State.enter_keeps
    | with_reducible apply foldl_keeps
    | with_reducible apply foldl_fst_keeps
    | with_reducible apply foldl_snd_keeps
    | split
    | intro)

theorem State.dealersRun_keeps {z0 : State} (s : State) (hz : Keeps z0 s) :
    Keeps z0 (State.dealersRun s) := by
  unfold State.dealersRun
  try dsimp only
  repeat' (first
    | with_reducible assumption
    | with_reducible apply State.put_keeps
    | split
    | intro)

theorem State.waveUp_keeps {z0 : State} (s : State) (hz : Keeps z0 s) :
    Keeps z0 (State.waveUp s) := by
  unfold State.waveUp
  try dsimp only
  repeat' (first
    | with_reducible assumption
    | with_reducible apply State.enter_keeps
    | with_reducible apply State.assignAll_keeps
    | with_reducible apply foldl_keeps
    | with_reducible apply foldl_fst_keeps
    | with_reducible apply foldl_snd_keeps
    | split
    | intro)

theorem State.waveStart_keeps {z0 : State} (s : State) (st : StartRec) (dur : Nat) (hz : Keeps z0 s) :
    Keeps z0 (State.waveStart s st dur) := by
  unfold State.waveStart
  try dsimp only
  repeat' (first
    | with_reducible assumption
    | with_reducible apply State.put_keeps
    | with_reducible apply State.breakGroup_keeps
    | with_reducible apply State.mccCommit_keeps
    | with_reducible apply State.sendKeepalives_keeps
    | with_reducible apply State.abortImport_keeps
    | with_reducible apply State.initPge_keeps
    | with_reducible apply State.initGroup_keeps
    | with_reducible apply State.freePstate_keeps
    | with_reducible apply State.setSys_keeps
    | with_reducible apply State.setMode_keeps
    | with_reducible apply State.outcomeIs_keeps
    | with_reducible apply State.stageRecord_keeps
    | with_reducible apply State.releaseRest_keeps
    | with_reducible apply State.dealersRun_keeps
    | with_reducible apply State.waveUp_keeps
    | with_reducible apply foldl_keeps
    | with_reducible apply foldl_fst_keeps
    | with_reducible apply foldl_snd_keeps
    | (simp only [keeps_mk]; first | with_reducible apply KeepsParts.of | with_reducible apply KeepsParts.free | with_reducible apply KeepsParts.cut | with_reducible apply KeepsParts.cutMem | with_reducible apply KeepsParts.cutPoison | with_reducible apply KeepsParts.cutAll | with_reducible apply KeepsParts.said)
    | split
    | intro)

theorem State.nextStage_keeps {z0 : State} (s : State) (full : Bool) (n retired dur : Nat) (hz : Keeps z0 s) :
    Keeps z0 (State.nextStage s full n retired dur) := by
  unfold State.nextStage
  try dsimp only
  repeat' (first
    | with_reducible assumption
    | with_reducible apply State.stageRecord_keeps
    | with_reducible apply State.stageBegins_keeps
    | split
    | intro)

theorem State.stageEnds_keeps {z0 : State} (s : State) (st : StartRec) (ev : StageEv) (hz : Keeps z0 s) :
    Keeps z0 (State.stageEnds s st ev) := by
  unfold State.stageEnds
  try dsimp only
  repeat' (first
    | with_reducible assumption
    | with_reducible apply State.put_keeps
    | with_reducible apply State.count_keeps
    | with_reducible apply State.setState_keeps
    | with_reducible apply State.zeroTable_keeps
    | with_reducible apply State.mccAbort_keeps
    | with_reducible apply State.deriveAlias1_keeps
    | with_reducible apply State.retired_keeps
    | with_reducible apply State.setPwr_keeps
    | with_reducible apply State.applyCap_keeps
    | with_reducible apply State.setSys_keeps
    | with_reducible apply State.assignAll_keeps
    | with_reducible apply State.beginWave_keeps
    | with_reducible apply State.portsUp_keeps
    | with_reducible apply State.mccRuns_keeps
    | with_reducible apply State.startFailed_keeps
    | with_reducible apply State.runTests_keeps
    | with_reducible apply State.configure_keeps
    | with_reducible apply State.waveStart_keeps
    | with_reducible apply State.nextStage_keeps
    | with_reducible apply foldl_keeps
    | with_reducible apply foldl_fst_keeps
    | with_reducible apply foldl_snd_keeps
    | (simp only [keeps_mk]; first | with_reducible apply KeepsParts.of | with_reducible apply KeepsParts.free | with_reducible apply KeepsParts.cut | with_reducible apply KeepsParts.cutMem | with_reducible apply KeepsParts.cutPoison | with_reducible apply KeepsParts.cutAll | with_reducible apply KeepsParts.said)
    | split
    | intro)

theorem execStageComplete_keeps {z0 : State} (ev : StageEv) (s : State) (hz : Keeps z0 s) :
    KeepsO z0 (execStageComplete ev s) := by
  unfold execStageComplete
  try dsimp only
  repeat' (first
    | with_reducible assumption
    | with_reducible apply KeepsO.next
    | with_reducible apply State.startFailed_keeps
    | with_reducible apply State.stageEnds_keeps
    | (simp only [keeps_mk]; first | with_reducible apply KeepsParts.of | with_reducible apply KeepsParts.free | with_reducible apply KeepsParts.cut | with_reducible apply KeepsParts.cutMem | with_reducible apply KeepsParts.cutPoison | with_reducible apply KeepsParts.cutAll | with_reducible apply KeepsParts.said)
    | split
    | intro)

theorem execStartWatchdog_keeps {z0 : State} (s : State) (hz : Keeps z0 s) :
    KeepsO z0 (execStartWatchdog s) := by
  unfold execStartWatchdog
  try dsimp only
  repeat' (first
    | with_reducible assumption
    | with_reducible apply KeepsO.next
    | with_reducible apply State.startFailed_keeps
    | split
    | intro)

theorem execStartRetry_keeps {z0 : State} (s : State) (hz : Keeps z0 s) :
    KeepsO z0 (execStartRetry s) := by
  unfold execStartRetry
  try dsimp only
  repeat' (first
    | with_reducible assumption
    | with_reducible apply KeepsO.next
    | with_reducible apply State.beginFull_keeps
    | split
    | intro)

theorem execStableTimeout_keeps {z0 : State} (s : State) (hz : Keeps z0 s) :
    KeepsO z0 (execStableTimeout s) := by
  unfold execStableTimeout
  try dsimp only
  repeat' (first
    | with_reducible assumption
    | with_reducible apply KeepsO.next
    | with_reducible apply State.put_keeps
    | with_reducible apply State.setSys_keeps
    | (simp only [keeps_mk]; first | with_reducible apply KeepsParts.of | with_reducible apply KeepsParts.free | with_reducible apply KeepsParts.cut | with_reducible apply KeepsParts.cutMem | with_reducible apply KeepsParts.cutPoison | with_reducible apply KeepsParts.cutAll | with_reducible apply KeepsParts.said)
    | split
    | intro)

theorem State.cmdIgnored_keeps {z0 : State} (s : State) (hz : Keeps z0 s) :
    Keeps z0 (State.cmdIgnored s) := by
  unfold State.cmdIgnored
  try dsimp only
  repeat' (first
    | with_reducible assumption
    | with_reducible apply State.accessEvent_keeps
    | split
    | intro)

theorem State.bootCmd_keeps {z0 : State} (s : State) (src : Src) (code : Nat) (f : State → State) (hz : Keeps z0 s) (hf : ∀ t, Keeps z0 t → Keeps z0 (f t)) :
    Keeps z0 (State.bootCmd s src code f) := by
  unfold State.bootCmd
  try dsimp only
  repeat' (first
    | with_reducible assumption
    | with_reducible apply hf
    | with_reducible apply State.put_keeps
    | with_reducible apply State.cmdIgnored_keeps
    | (simp only [keeps_mk]; first | with_reducible apply KeepsParts.of | with_reducible apply KeepsParts.free | with_reducible apply KeepsParts.cut | with_reducible apply KeepsParts.cutMem | with_reducible apply KeepsParts.cutPoison | with_reducible apply KeepsParts.cutAll | with_reducible apply KeepsParts.said)
    | split
    | intro)

theorem execRestart_keeps {z0 : State} (src : Src) (s : State) (hz : Keeps z0 s) :
    KeepsO z0 (execRestart src s) := by
  unfold execRestart
  try dsimp only
  repeat' (first
    | with_reducible assumption
    | with_reducible apply KeepsO.next
    | with_reducible apply State.beginFull_keeps
    | with_reducible apply State.bootCmd_keeps
    | split
    | intro)

theorem execEnterRecovery_keeps {z0 : State} (src : Src) (s : State) (hz : Keeps z0 s) :
    KeepsO z0 (execEnterRecovery src s) := by
  unfold execEnterRecovery
  try dsimp only
  repeat' (first
    | with_reducible assumption
    | with_reducible apply KeepsO.next
    | with_reducible apply State.bootCmd_keeps
    | (simp only [keeps_mk]; first | with_reducible apply KeepsParts.of | with_reducible apply KeepsParts.free | with_reducible apply KeepsParts.cut | with_reducible apply KeepsParts.cutMem | with_reducible apply KeepsParts.cutPoison | with_reducible apply KeepsParts.cutAll | with_reducible apply KeepsParts.said)
    | split
    | intro)

theorem execRecoveryEntered_keeps {z0 : State} (s : State) (hz : Keeps z0 s) :
    KeepsO z0 (execRecoveryEntered s) := by
  unfold execRecoveryEntered
  try dsimp only
  repeat' (first
    | with_reducible assumption
    | with_reducible apply KeepsO.next
    | with_reducible apply State.setMode_keeps
    | (simp only [keeps_mk]; first | with_reducible apply KeepsParts.of | with_reducible apply KeepsParts.free | with_reducible apply KeepsParts.cut | with_reducible apply KeepsParts.cutMem | with_reducible apply KeepsParts.cutPoison | with_reducible apply KeepsParts.cutAll | with_reducible apply KeepsParts.said)
    | split
    | intro)

theorem execLeaveRecovery_keeps {z0 : State} (src : Src) (s : State) (hz : Keeps z0 s) :
    KeepsO z0 (execLeaveRecovery src s) := by
  unfold execLeaveRecovery
  try dsimp only
  repeat' (first
    | with_reducible assumption
    | with_reducible apply KeepsO.next
    | with_reducible apply State.setMode_keeps
    | with_reducible apply State.bootCmd_keeps
    | split
    | intro)

theorem execToService_keeps {z0 : State} (src : Src) (s : State) (hz : Keeps z0 s) :
    KeepsO z0 (execToService src s) := by
  unfold execToService
  try dsimp only
  repeat' (first
    | with_reducible assumption
    | with_reducible apply KeepsO.next
    | with_reducible apply State.setMode_keeps
    | with_reducible apply State.bootCmd_keeps
    | split
    | intro)

theorem execEnterMinimal_keeps {z0 : State} (src : Src) (s : State) (hz : Keeps z0 s) :
    KeepsO z0 (execEnterMinimal src s) := by
  unfold execEnterMinimal
  try dsimp only
  repeat' (first
    | with_reducible assumption
    | with_reducible apply KeepsO.next
    | with_reducible apply State.cutUpdate_keeps
    | with_reducible apply State.goMinimal_keeps
    | with_reducible apply State.bootCmd_keeps
    | split
    | intro)

theorem execClearFails_keeps {z0 : State} (src : Src) (s : State) (hz : Keeps z0 s) :
    KeepsO z0 (execClearFails src s) := by
  unfold execClearFails
  try dsimp only
  repeat' (first
    | with_reducible assumption
    | with_reducible apply KeepsO.next
    | with_reducible apply State.put_keeps
    | with_reducible apply State.bootCmd_keeps
    | split
    | intro)

theorem State.endInjections_keeps {z0 : State} (s : State) (hz : Keeps z0 s) :
    Keeps z0 (State.endInjections s) := by
  unfold State.endInjections
  try dsimp only
  repeat' (first
    | with_reducible assumption
    | with_reducible apply State.setNet_keeps
    | with_reducible apply State.sendLoss_keeps
    | with_reducible apply State.advanceDrain_keeps
    | with_reducible apply foldl_keeps
    | with_reducible apply foldl_fst_keeps
    | with_reducible apply foldl_snd_keeps
    | (simp only [keeps_mk]; first | with_reducible apply KeepsParts.of | with_reducible apply KeepsParts.free | with_reducible apply KeepsParts.cut | with_reducible apply KeepsParts.cutMem | with_reducible apply KeepsParts.cutPoison | with_reducible apply KeepsParts.cutAll | with_reducible apply KeepsParts.said)
    | split
    | intro)

theorem State.computeLost_keeps {z0 : State} (s : State) (hz : Keeps z0 s) :
    Keeps z0 (State.computeLost s) := by
  unfold State.computeLost
  try dsimp only
  repeat' (first
    | with_reducible assumption
    | with_reducible apply State.put_keeps
    | with_reducible apply State.setState_keeps
    | with_reducible apply State.setSec_keeps
    | with_reducible apply State.setGrp_keeps
    | with_reducible apply State.setSys_keeps
    | with_reducible apply foldl_keeps
    | with_reducible apply foldl_fst_keeps
    | with_reducible apply foldl_snd_keeps
    | (simp only [keeps_mk]; first | with_reducible apply KeepsParts.of | with_reducible apply KeepsParts.free | with_reducible apply KeepsParts.cut | with_reducible apply KeepsParts.cutMem | with_reducible apply KeepsParts.cutPoison | with_reducible apply KeepsParts.cutAll | with_reducible apply KeepsParts.said)
    | split
    | intro)

theorem State.computeReset_keeps {z0 : State} (s : State) (hz : Keeps z0 s) :
    Keeps z0 (State.computeReset s) := by
  unfold State.computeReset
  try dsimp only
  repeat' (first
    | with_reducible assumption
    | with_reducible apply State.put_keeps
    | with_reducible apply State.irq_keeps
    | with_reducible apply State.modEvent_keeps
    | with_reducible apply State.ringsOff_keeps
    | with_reducible apply State.sendKeepalives_keeps
    | with_reducible apply State.setSys_keeps
    | with_reducible apply State.setMode_keeps
    | with_reducible apply State.endInjections_keeps
    | with_reducible apply State.computeLost_keeps
    | with_reducible apply foldl_keeps
    | with_reducible apply foldl_fst_keeps
    | with_reducible apply foldl_snd_keeps
    | (simp only [keeps_mk]; first | with_reducible apply KeepsParts.of | with_reducible apply KeepsParts.free | with_reducible apply KeepsParts.cut | with_reducible apply KeepsParts.cutMem | with_reducible apply KeepsParts.cutPoison | with_reducible apply KeepsParts.cutAll | with_reducible apply KeepsParts.said)
    | split
    | intro)

theorem State.holdCompute_keeps {z0 : State} (s : State) (hz : Keeps z0 s) :
    Keeps z0 (State.holdCompute s) := by
  unfold State.holdCompute
  try dsimp only
  repeat' (first
    | with_reducible assumption
    | with_reducible apply State.put_keeps
    | with_reducible apply State.irq_keeps
    | with_reducible apply State.setSys_keeps
    | with_reducible apply State.stageBegins_keeps
    | with_reducible apply State.computeLost_keeps
    | with_reducible apply State.computeReset_keeps
    | (simp only [keeps_mk]; first | with_reducible apply KeepsParts.of | with_reducible apply KeepsParts.free | with_reducible apply KeepsParts.cut | with_reducible apply KeepsParts.cutMem | with_reducible apply KeepsParts.cutPoison | with_reducible apply KeepsParts.cutAll | with_reducible apply KeepsParts.said)
    | split
    | intro)

theorem execCmpRstAssert_keeps {z0 : State} (s : State) (hz : Keeps z0 s) :
    KeepsO z0 (execCmpRstAssert s) := by
  unfold execCmpRstAssert
  try dsimp only
  repeat' (first
    | with_reducible assumption
    | with_reducible apply KeepsO.next
    | with_reducible apply State.setSys_keeps
    | with_reducible apply State.holdCompute_keeps
    | (simp only [keeps_mk]; first | with_reducible apply KeepsParts.of | with_reducible apply KeepsParts.free | with_reducible apply KeepsParts.cut | with_reducible apply KeepsParts.cutMem | with_reducible apply KeepsParts.cutPoison | with_reducible apply KeepsParts.cutAll | with_reducible apply KeepsParts.said)
    | split
    | intro)

theorem execResetCompute_keeps {z0 : State} (src : Src) (s : State) (hz : Keeps z0 s) :
    KeepsO z0 (execResetCompute src s) := by
  unfold execResetCompute
  try dsimp only
  repeat' (first
    | with_reducible assumption
    | with_reducible apply KeepsO.next
    | with_reducible apply State.setSys_keeps
    | with_reducible apply State.holdCompute_keeps
    | (simp only [keeps_mk]; first | with_reducible apply KeepsParts.of | with_reducible apply KeepsParts.free | with_reducible apply KeepsParts.cut | with_reducible apply KeepsParts.cutMem | with_reducible apply KeepsParts.cutPoison | with_reducible apply KeepsParts.cutAll | with_reducible apply KeepsParts.said)
    | split
    | intro)

theorem execComputeRestart_keeps {z0 : State} (s : State) (hz : Keeps z0 s) :
    KeepsO z0 (execComputeRestart s) := by
  unfold execComputeRestart
  try dsimp only
  repeat' (first
    | with_reducible assumption
    | with_reducible apply KeepsO.next
    | with_reducible apply State.setSys_keeps
    | with_reducible apply State.beginRestart_keeps
    | (simp only [keeps_mk]; first | with_reducible apply KeepsParts.of | with_reducible apply KeepsParts.free | with_reducible apply KeepsParts.cut | with_reducible apply KeepsParts.cutMem | with_reducible apply KeepsParts.cutPoison | with_reducible apply KeepsParts.cutAll | with_reducible apply KeepsParts.said)
    | split
    | intro)

theorem State.untick_keeps {z0 : State} (s : State) (hz : Keeps z0 s) :
    Keeps z0 (State.untick s) := by
  unfold State.untick
  try dsimp only
  repeat' (first
    | with_reducible assumption
    | with_reducible apply State.put_keeps
    | (simp only [keeps_mk]; first | with_reducible apply KeepsParts.of | with_reducible apply KeepsParts.free | with_reducible apply KeepsParts.cut | with_reducible apply KeepsParts.cutMem | with_reducible apply KeepsParts.cutPoison | with_reducible apply KeepsParts.cutAll | with_reducible apply KeepsParts.said)
    | split
    | intro)

theorem State.stopModule_keeps {z0 : State} (s : State) (reason : Nat) (hz : Keeps z0 s) :
    Keeps z0 (State.stopModule s reason) := by
  unfold State.stopModule
  try dsimp only
  repeat' (first
    | with_reducible assumption
    | with_reducible apply State.modEvent_keeps
    | with_reducible apply State.sendControl_keeps
    | with_reducible apply State.goDown_keeps
    | with_reducible apply State.alert_keeps
    | with_reducible apply State.setSys_keeps
    | with_reducible apply State.putAon_keeps
    | with_reducible apply State.outcomeIs_keeps
    | with_reducible apply State.wiped_keeps
    | with_reducible apply State.cutUpdate_keeps
    | with_reducible apply State.untick_keeps
    | with_reducible apply foldl_keeps
    | with_reducible apply foldl_fst_keeps
    | with_reducible apply foldl_snd_keeps
    | (simp only [keeps_mk]; first | with_reducible apply KeepsParts.of | with_reducible apply KeepsParts.free | with_reducible apply KeepsParts.cut | with_reducible apply KeepsParts.cutMem | with_reducible apply KeepsParts.cutPoison | with_reducible apply KeepsParts.cutAll | with_reducible apply KeepsParts.said)
    | split
    | intro)

theorem execThermalStop_keeps {z0 : State} (s : State) (hz : Keeps z0 s) :
    KeepsO z0 (execThermalStop s) := by
  unfold execThermalStop
  try dsimp only
  repeat' (first
    | with_reducible assumption
    | with_reducible apply KeepsO.next
    | with_reducible apply State.count_keeps
    | with_reducible apply State.stopModule_keeps
    | split
    | intro)

theorem execCoolantLoss_keeps {z0 : State} (s : State) (hz : Keeps z0 s) :
    KeepsO z0 (execCoolantLoss s) := by
  unfold execCoolantLoss
  try dsimp only
  repeat' (first
    | with_reducible assumption
    | with_reducible apply KeepsO.next
    | with_reducible apply State.put_keeps
    | with_reducible apply State.count_keeps
    | with_reducible apply State.setSys_keeps
    | with_reducible apply State.stopModule_keeps
    | (simp only [keeps_mk]; first | with_reducible apply KeepsParts.of | with_reducible apply KeepsParts.free | with_reducible apply KeepsParts.cut | with_reducible apply KeepsParts.cutMem | with_reducible apply KeepsParts.cutPoison | with_reducible apply KeepsParts.cutAll | with_reducible apply KeepsParts.said)
    | split
    | intro)

theorem execPowerControlLost_keeps {z0 : State} (s : State) (hz : Keeps z0 s) :
    KeepsO z0 (execPowerControlLost s) := by
  unfold execPowerControlLost
  try dsimp only
  repeat' (first
    | with_reducible assumption
    | with_reducible apply KeepsO.next
    | with_reducible apply State.fresh_keeps
    | with_reducible apply State.modEvent_keeps
    | with_reducible apply State.stopModule_keeps
    | split
    | intro)

theorem execModRstAssert_keeps {z0 : State} (s : State) (hz : Keeps z0 s) :
    KeepsO z0 (execModRstAssert s) := by
  unfold execModRstAssert
  try dsimp only
  repeat' (first
    | with_reducible assumption
    | with_reducible apply KeepsO.next
    | with_reducible apply State.put_keeps
    | with_reducible apply State.count_keeps
    | with_reducible apply State.setSys_keeps
    | with_reducible apply State.wiped_keeps
    | with_reducible apply State.cutUpdate_keeps
    | with_reducible apply State.interrupted_keeps
    | (simp only [keeps_mk]; first | with_reducible apply KeepsParts.of | with_reducible apply KeepsParts.free | with_reducible apply KeepsParts.cut | with_reducible apply KeepsParts.cutMem | with_reducible apply KeepsParts.cutPoison | with_reducible apply KeepsParts.cutAll | with_reducible apply KeepsParts.said)
    | split
    | intro)

theorem State.mayStart_keeps {z0 : State} (s : State) (coolant : Bool) (inlet : Nat) (hz : Keeps z0 s) :
    Keeps z0 (State.mayStart s coolant inlet) := by
  unfold State.mayStart
  try dsimp only
  repeat' (first
    | with_reducible assumption
    | with_reducible apply State.put_keeps
    | with_reducible apply State.count_keeps
    | with_reducible apply State.setSys_keeps
    | with_reducible apply State.beginFull_keeps
    | with_reducible apply State.stopModule_keeps
    | (simp only [keeps_mk]; first | with_reducible apply KeepsParts.of | with_reducible apply KeepsParts.free | with_reducible apply KeepsParts.cut | with_reducible apply KeepsParts.cutMem | with_reducible apply KeepsParts.cutPoison | with_reducible apply KeepsParts.cutAll | with_reducible apply KeepsParts.said)
    | split
    | intro)

theorem execModRstRelease_keeps {z0 : State} (coolant : Bool) (inlet : Nat) (s : State) (hz : Keeps z0 s) :
    KeepsO z0 (execModRstRelease coolant inlet s) := by
  unfold execModRstRelease
  try dsimp only
  repeat' (first
    | with_reducible assumption
    | with_reducible apply KeepsO.next
    | with_reducible apply State.setSys_keeps
    | with_reducible apply State.mayStart_keeps
    | (simp only [keeps_mk]; first | with_reducible apply KeepsParts.of | with_reducible apply KeepsParts.free | with_reducible apply KeepsParts.cut | with_reducible apply KeepsParts.cutMem | with_reducible apply KeepsParts.cutPoison | with_reducible apply KeepsParts.cutAll | with_reducible apply KeepsParts.said)
    | split
    | intro)

theorem execPwrEnHigh_keeps {z0 : State} (coolant : Bool) (inlet : Nat) (s : State) (hz : Keeps z0 s) :
    KeepsO z0 (execPwrEnHigh coolant inlet s) := by
  unfold execPwrEnHigh
  try dsimp only
  repeat' (first
    | with_reducible assumption
    | with_reducible apply KeepsO.next
    | with_reducible apply State.setSys_keeps
    | with_reducible apply State.mayStart_keeps
    | (simp only [keeps_mk]; first | with_reducible apply KeepsParts.of | with_reducible apply KeepsParts.free | with_reducible apply KeepsParts.cut | with_reducible apply KeepsParts.cutMem | with_reducible apply KeepsParts.cutPoison | with_reducible apply KeepsParts.cutAll | with_reducible apply KeepsParts.said)
    | split
    | intro)

theorem execPwrEnLow_keeps {z0 : State} (s : State) (hz : Keeps z0 s) :
    KeepsO z0 (execPwrEnLow s) := by
  unfold execPwrEnLow
  try dsimp only
  repeat' (first
    | with_reducible assumption
    | with_reducible apply KeepsO.next
    | with_reducible apply State.setSys_keeps
    | with_reducible apply State.wiped_keeps
    | with_reducible apply State.cutUpdate_keeps
    | with_reducible apply State.interrupted_keeps
    | with_reducible apply State.untick_keeps
    | (simp only [keeps_mk]; first | with_reducible apply KeepsParts.of | with_reducible apply KeepsParts.free | with_reducible apply KeepsParts.cut | with_reducible apply KeepsParts.cutMem | with_reducible apply KeepsParts.cutPoison | with_reducible apply KeepsParts.cutAll | with_reducible apply KeepsParts.said)
    | split
    | intro)

theorem State.powerLost_keeps {s0 : State} (s : State) (hs : Nat) (h : Keeps s0 s) : Keeps s0 (s.powerLost hs) := by
  unfold State.powerLost
  dsimp only
  split
  · exact State.setSys_keeps _ _ h
  · refine State.put_keeps _ _ _ _ (State.put_keeps _ _ _ _ ⟨h.1, h.2, h.3, fun _ => ?_, fun k => Sparse.wf_filter _ _ (h.5 k), fun k => Keys.wf_filter _ (h.6 k)⟩)
    rfl

theorem execHsEnClose_keeps {z0 : State} (s : State) (hz : Keeps z0 s) :
    KeepsO z0 (execHsEnClose s) := by
  unfold execHsEnClose
  try dsimp only
  repeat' (first
    | with_reducible assumption
    | with_reducible apply KeepsO.next
    | with_reducible apply State.setSys_keeps
    | (simp only [keeps_mk]; first | with_reducible apply KeepsParts.of | with_reducible apply KeepsParts.free | with_reducible apply KeepsParts.cut | with_reducible apply KeepsParts.cutMem | with_reducible apply KeepsParts.cutPoison | with_reducible apply KeepsParts.cutAll | with_reducible apply KeepsParts.said)
    | split
    | intro)

theorem execHotswapDebounce_keeps {z0 : State} (s : State) (hz : Keeps z0 s) :
    KeepsO z0 (execHotswapDebounce s) := by
  unfold execHotswapDebounce
  try dsimp only
  repeat' (first
    | with_reducible assumption
    | with_reducible apply KeepsO.next
    | with_reducible apply State.setSys_keeps
    | (simp only [keeps_mk]; first | with_reducible apply KeepsParts.of | with_reducible apply KeepsParts.free | with_reducible apply KeepsParts.cut | with_reducible apply KeepsParts.cutMem | with_reducible apply KeepsParts.cutPoison | with_reducible apply KeepsParts.cutAll | with_reducible apply KeepsParts.said)
    | split
    | intro)

theorem execHotswapRampDone_keeps {z0 : State} (coolant : Bool) (inlet : Nat) (s : State) (hz : Keeps z0 s) :
    KeepsO z0 (execHotswapRampDone coolant inlet s) := by
  unfold execHotswapRampDone
  try dsimp only
  repeat' (first
    | with_reducible assumption
    | with_reducible apply KeepsO.next
    | with_reducible apply State.setSys_keeps
    | with_reducible apply State.enter_keeps
    | with_reducible apply State.mayStart_keeps
    | with_reducible apply foldl_keeps
    | with_reducible apply foldl_fst_keeps
    | with_reducible apply foldl_snd_keeps
    | (simp only [keeps_mk]; first | with_reducible apply KeepsParts.of | with_reducible apply KeepsParts.free | with_reducible apply KeepsParts.cut | with_reducible apply KeepsParts.cutMem | with_reducible apply KeepsParts.cutPoison | with_reducible apply KeepsParts.cutAll | with_reducible apply KeepsParts.said)
    | split
    | intro)

theorem execHsEnOpen_keeps {z0 : State} (s : State) (hz : Keeps z0 s) :
    KeepsO z0 (execHsEnOpen s) := by
  unfold execHsEnOpen
  try dsimp only
  repeat' (first
    | with_reducible assumption
    | with_reducible apply KeepsO.next
    | with_reducible apply State.setSys_keeps
    | with_reducible apply State.powerLost_keeps
    | (simp only [keeps_mk]; first | with_reducible apply KeepsParts.of | with_reducible apply KeepsParts.free | with_reducible apply KeepsParts.cut | with_reducible apply KeepsParts.cutMem | with_reducible apply KeepsParts.cutPoison | with_reducible apply KeepsParts.cutAll | with_reducible apply KeepsParts.said)
    | split
    | intro)

theorem execVinLockout_keeps {z0 : State} (s : State) (hz : Keeps z0 s) :
    KeepsO z0 (execVinLockout s) := by
  unfold execVinLockout
  try dsimp only
  repeat' (first
    | with_reducible assumption
    | with_reducible apply KeepsO.next
    | with_reducible apply State.setSys_keeps
    | with_reducible apply State.powerLost_keeps
    | (simp only [keeps_mk]; first | with_reducible apply KeepsParts.of | with_reducible apply KeepsParts.free | with_reducible apply KeepsParts.cut | with_reducible apply KeepsParts.cutMem | with_reducible apply KeepsParts.cutPoison | with_reducible apply KeepsParts.cutAll | with_reducible apply KeepsParts.said)
    | split
    | intro)

theorem execVinInRange_keeps {z0 : State} (s : State) (hz : Keeps z0 s) :
    KeepsO z0 (execVinInRange s) := by
  unfold execVinInRange
  try dsimp only
  repeat' (first
    | with_reducible assumption
    | with_reducible apply KeepsO.next
    | with_reducible apply State.setSys_keeps
    | (simp only [keeps_mk]; first | with_reducible apply KeepsParts.of | with_reducible apply KeepsParts.free | with_reducible apply KeepsParts.cut | with_reducible apply KeepsParts.cutMem | with_reducible apply KeepsParts.cutPoison | with_reducible apply KeepsParts.cutAll | with_reducible apply KeepsParts.said)
    | split
    | intro)

theorem execCircuitBreakerTrip_keeps {z0 : State} (s : State) (hz : Keeps z0 s) :
    KeepsO z0 (execCircuitBreakerTrip s) := by
  unfold execCircuitBreakerTrip
  try dsimp only
  repeat' (first
    | with_reducible assumption
    | with_reducible apply KeepsO.next
    | with_reducible apply State.setSys_keeps
    | with_reducible apply State.powerLost_keeps
    | (simp only [keeps_mk]; first | with_reducible apply KeepsParts.of | with_reducible apply KeepsParts.free | with_reducible apply KeepsParts.cut | with_reducible apply KeepsParts.cutMem | with_reducible apply KeepsParts.cutPoison | with_reducible apply KeepsParts.cutAll | with_reducible apply KeepsParts.said)
    | split
    | intro)

theorem execBreakerRetry_keeps {z0 : State} (s : State) (hz : Keeps z0 s) :
    KeepsO z0 (execBreakerRetry s) := by
  unfold execBreakerRetry
  try dsimp only
  repeat' (first
    | with_reducible assumption
    | with_reducible apply KeepsO.next
    | with_reducible apply State.setSys_keeps
    | (simp only [keeps_mk]; first | with_reducible apply KeepsParts.of | with_reducible apply KeepsParts.free | with_reducible apply KeepsParts.cut | with_reducible apply KeepsParts.cutMem | with_reducible apply KeepsParts.cutPoison | with_reducible apply KeepsParts.cutAll | with_reducible apply KeepsParts.said)
    | split
    | intro)

theorem State.tokenRefused_keeps {z0 : State} (s : State) (r : Nat) (hz : Keeps z0 s) :
    Keeps z0 (State.tokenRefused s r) := by
  unfold State.tokenRefused
  try dsimp only
  repeat' (first
    | with_reducible assumption
    | with_reducible apply State.irq_keeps
    | with_reducible apply State.count_keeps
    | with_reducible apply State.modEvent_keeps
    | with_reducible apply State.mboxEnd_keeps
    | split
    | intro)

theorem State.debugUnlock_keeps {z0 : State} (s : State) (p arg0 : Nat) (hz : Keeps z0 s) :
    Keeps z0 (State.debugUnlock s p arg0) := by
  unfold State.debugUnlock
  try dsimp only
  repeat' (first
    | with_reducible assumption
    | with_reducible apply State.put_keeps
    | with_reducible apply State.mboxEnd_keeps
    | with_reducible apply State.argBytes_keeps
    | with_reducible apply State.setSys_keeps
    | with_reducible apply State.cutUpdate_keeps
    | with_reducible apply State.interrupted_keeps
    | with_reducible apply State.beginFull_keeps
    | with_reducible apply State.tokenRefused_keeps
    | (simp only [keeps_mk]; first | with_reducible apply KeepsParts.of | with_reducible apply KeepsParts.free | with_reducible apply KeepsParts.cut | with_reducible apply KeepsParts.cutMem | with_reducible apply KeepsParts.cutPoison | with_reducible apply KeepsParts.cutAll | with_reducible apply KeepsParts.said)
    | split
    | intro)

theorem execDebugUnlock_keeps {z0 : State} (src : Src) (part arg0 : Nat) (s : State) (hz : Keeps z0 s) :
    KeepsO z0 (execDebugUnlock src part arg0 s) := by
  unfold execDebugUnlock
  try dsimp only
  repeat' (first
    | with_reducible assumption
    | with_reducible apply KeepsO.next
    | with_reducible apply State.mboxEnd_keeps
    | with_reducible refine State.mboxTake_keeps (by assumption) ?_
    | with_reducible apply State.debugUnlock_keeps
    | (simp only [keeps_mk]; first | with_reducible apply KeepsParts.of | with_reducible apply KeepsParts.free | with_reducible apply KeepsParts.cut | with_reducible apply KeepsParts.cutMem | with_reducible apply KeepsParts.cutPoison | with_reducible apply KeepsParts.cutAll | with_reducible apply KeepsParts.said)
    | split
    | intro)

theorem State.txnSays_keeps {z0 : State} (s : State) (result reason : Nat) (hz : Keeps z0 s) :
    Keeps z0 (State.txnSays s result reason) := by
  unfold State.txnSays
  try dsimp only
  repeat' (first
    | with_reducible assumption
    | with_reducible apply State.put_keeps
    | split
    | intro)

theorem execOpen_keeps {z0 : State} (src : Src) (s : State) (hz : Keeps z0 s) :
    KeepsO z0 (execOpen src s) := by
  unfold execOpen
  try dsimp only
  repeat' (first
    | with_reducible assumption
    | with_reducible apply KeepsO.next
    | with_reducible apply State.put_keeps
    | with_reducible apply State.setPart_keeps
    | with_reducible apply State.rouse_keeps
    | with_reducible apply State.txnSays_keeps
    | with_reducible apply foldl_keeps
    | with_reducible apply foldl_fst_keeps
    | with_reducible apply foldl_snd_keeps
    | (simp only [keeps_mk]; first | with_reducible apply KeepsParts.of | with_reducible apply KeepsParts.free | with_reducible apply KeepsParts.cut | with_reducible apply KeepsParts.cutMem | with_reducible apply KeepsParts.cutPoison | with_reducible apply KeepsParts.cutAll | with_reducible apply KeepsParts.said)
    | split
    | intro)

theorem State.thaw_keeps {z0 : State} (s : State) (u : UnitId) (hz : Keeps z0 s) :
    Keeps z0 (State.thaw s u) := by
  unfold State.thaw
  try dsimp only
  repeat' (first
    | with_reducible assumption
    | with_reducible apply State.setUnit_keeps
    | with_reducible apply State.grant_keeps
    | with_reducible apply State.memRequest_keeps
    | with_reducible apply State.releaseMem_keeps
    | with_reducible apply State.tierRequest_keeps
    | (simp only [keeps_mk]; first | with_reducible apply KeepsParts.of | with_reducible apply KeepsParts.free | with_reducible apply KeepsParts.cut | with_reducible apply KeepsParts.cutMem | with_reducible apply KeepsParts.cutPoison | with_reducible apply KeepsParts.cutAll | with_reducible apply KeepsParts.said)
    | split
    | intro)

theorem State.closeTxn_keeps {z0 : State} (s : State) (t : TxnRec) (hz : Keeps z0 s) :
    Keeps z0 (State.closeTxn s t) := by
  unfold State.closeTxn
  try dsimp only
  repeat' (first
    | with_reducible assumption
    | with_reducible apply State.put_keeps
    | with_reducible apply State.setPart_keeps
    | with_reducible apply State.goesOn_keeps
    | with_reducible apply State.freePstate_keeps
    | with_reducible apply State.thaw_keeps
    | with_reducible apply foldl_keeps
    | with_reducible apply foldl_fst_keeps
    | with_reducible apply foldl_snd_keeps
    | (simp only [keeps_mk]; first | with_reducible apply KeepsParts.of | with_reducible apply KeepsParts.free | with_reducible apply KeepsParts.cut | with_reducible apply KeepsParts.cutMem | with_reducible apply KeepsParts.cutPoison | with_reducible apply KeepsParts.cutAll | with_reducible apply KeepsParts.said)
    | split
    | intro)

theorem State.abortTxn_keeps {z0 : State} (s : State) (reason : Nat) (at' : Option (Nat × Nat)) (hz : Keeps z0 s) :
    Keeps z0 (State.abortTxn s reason at') := by
  unfold State.abortTxn
  try dsimp only
  repeat' (first
    | with_reducible assumption
    | with_reducible apply State.irq_keeps
    | with_reducible apply State.count_keeps
    | with_reducible apply State.txnSet_keeps
    | with_reducible apply State.closeTxn_keeps
    | (simp only [keeps_mk]; first | with_reducible apply KeepsParts.of | with_reducible apply KeepsParts.free | with_reducible apply KeepsParts.cut | with_reducible apply KeepsParts.cutMem | with_reducible apply KeepsParts.cutPoison | with_reducible apply KeepsParts.cutAll | with_reducible apply KeepsParts.said)
    | split
    | intro)

theorem State.shadowWrite_keeps {z0 : State} (s : State) (src : Src) (u : UnitId) (f : Field) (off mask value : Nat) (hz : Keeps z0 s) :
    Keeps z0 (State.shadowWrite s src u f off mask value).1 := by
  unfold State.shadowWrite
  try dsimp only
  repeat' (first
    | with_reducible assumption
    | with_reducible apply State.shadow_keeps
    | (simp only [keeps_mk]; first | with_reducible apply KeepsParts.of | with_reducible apply KeepsParts.free | with_reducible apply KeepsParts.cut | with_reducible apply KeepsParts.cutMem | with_reducible apply KeepsParts.cutPoison | with_reducible apply KeepsParts.cutAll | with_reducible apply KeepsParts.said)
    | split
    | intro)

theorem State.shadowed_keeps {z0 : State} (s : State) (u : UnitId) (hz : Keeps z0 s) :
    Keeps z0 (State.shadowed s u) := by
  unfold State.shadowed
  try dsimp only
  repeat' (first
    | with_reducible assumption
    | (simp only [keeps_mk]; first | with_reducible apply KeepsParts.of | with_reducible apply KeepsParts.free | with_reducible apply KeepsParts.cut | with_reducible apply KeepsParts.cutMem | with_reducible apply KeepsParts.cutPoison | with_reducible apply KeepsParts.cutAll | with_reducible apply KeepsParts.said)
    | split
    | intro)

theorem State.withShadows_keeps {z0 : State} (s : State) (t : TxnRec) (hz : Keeps z0 s) :
    Keeps z0 (State.withShadows s t) := by
  unfold State.withShadows
  try dsimp only
  repeat' (first
    | with_reducible assumption
    | with_reducible apply State.setAt_keeps
    | with_reducible apply State.shadow_keeps
    | with_reducible apply foldl_keeps
    | with_reducible apply foldl_fst_keeps
    | with_reducible apply foldl_snd_keeps
    | split
    | intro)

theorem execCommit_keeps {z0 : State} (src : Src) (s : State) (hz : Keeps z0 s) :
    KeepsO z0 (execCommit src s) := by
  unfold execCommit
  try dsimp only
  repeat' (first
    | with_reducible assumption
    | with_reducible apply KeepsO.next
    | with_reducible apply State.put_keeps
    | with_reducible apply State.setUnit_keeps
    | with_reducible apply State.abortTxn_keeps
    | with_reducible apply foldl_keeps
    | with_reducible apply foldl_fst_keeps
    | with_reducible apply foldl_snd_keeps
    | (simp only [keeps_mk]; first | with_reducible apply KeepsParts.of | with_reducible apply KeepsParts.free | with_reducible apply KeepsParts.cut | with_reducible apply KeepsParts.cutMem | with_reducible apply KeepsParts.cutPoison | with_reducible apply KeepsParts.cutAll | with_reducible apply KeepsParts.said)
    | split
    | intro)

theorem execAbort_keeps {z0 : State} (src : Src) (s : State) (hz : Keeps z0 s) :
    KeepsO z0 (execAbort src s) := by
  unfold execAbort
  try dsimp only
  repeat' (first
    | with_reducible assumption
    | with_reducible apply KeepsO.next
    | with_reducible apply State.abortTxn_keeps
    | (simp only [keeps_mk]; first | with_reducible apply KeepsParts.of | with_reducible apply KeepsParts.free | with_reducible apply KeepsParts.cut | with_reducible apply KeepsParts.cutMem | with_reducible apply KeepsParts.cutPoison | with_reducible apply KeepsParts.cutAll | with_reducible apply KeepsParts.said)
    | split
    | intro)

theorem State.applyLayout_keeps {s0 : State} (s t : State) (h : Keeps s0 t) : Keeps s0 (s.applyLayout t) := by
  have h1 : Keeps s0 (if (List.range 8).any (fun p => s.groups p != t.groups p ||
      s.get ⟨.mem, 0⟩ (Reg.mem.regionMode.at p) != t.get ⟨.mem, 0⟩ (Reg.mem.regionMode.at p)) then s.moveLocal t else t) := by
    split
    · exact State.moveLocal_keeps _ _ h
    · exact h
  have h2 := foldl_keeps (f := fun x g => if s.groupOwner g != t.groupOwner g then x.zeroGroup g else x) (fun x g k => by
    split
    · exact State.zeroGroup_keeps _ _ k
    · exact k) (List.range 16) h1
  refine foldl_keeps (fun _ _ k => ?_) _ (foldl_keeps (fun _ _ k => ?_) _ ?_)
  · split
    · exact State.initGroup_keeps _ _ k
    · exact k
  · split
    · exact State.initPge_keeps _ _ k
    · exact k
  · split
    · exact foldl_keeps (fun _ _ k => State.zeroSlice_keeps _ _ k) _ h2
    · refine foldl_keeps (fun _ _ k => ?_) _ h2
      split
      · exact State.zeroSlice_keeps _ _ k
      · exact k

theorem State.manualRemap_keeps {z0 : State} (s : State) (e : Nat × Nat × Nat × Nat) (hz : Keeps z0 s) :
    Keeps z0 (State.manualRemap s e) := by
  unfold State.manualRemap
  try dsimp only
  repeat' (first
    | with_reducible assumption
    | with_reducible apply KeepsO.next
    | with_reducible apply State.setState_keeps
    | with_reducible apply State.afterCommit_keeps
    | (simp only [keeps_mk]; first | with_reducible apply KeepsParts.of | with_reducible apply KeepsParts.free | with_reducible apply KeepsParts.cut | with_reducible apply KeepsParts.cutMem | with_reducible apply KeepsParts.cutPoison | with_reducible apply KeepsParts.cutAll | with_reducible apply KeepsParts.said)
    | split
    | intro)

theorem State.applyTxn_keeps {z0 : State} (s : State) (t : TxnRec) (hz : Keeps z0 s) :
    Keeps z0 (State.applyTxn s t) := by
  unfold State.applyTxn
  try dsimp only
  repeat' (first
    | with_reducible assumption
    | with_reducible apply State.irq_keeps
    | with_reducible apply State.count_keeps
    | with_reducible apply State.shadow_keeps
    | with_reducible apply State.txnSet_keeps
    | with_reducible apply State.flipTo_keeps
    | with_reducible apply State.startUnseal_keeps
    | with_reducible apply State.waveUp_keeps
    | with_reducible apply State.closeTxn_keeps
    | with_reducible apply State.withShadows_keeps
    | with_reducible apply State.applyLayout_keeps
    | with_reducible apply State.manualRemap_keeps
    | with_reducible apply foldl_keeps
    | with_reducible apply foldl_fst_keeps
    | with_reducible apply foldl_snd_keeps
    | (simp only [keeps_mk]; first | with_reducible apply KeepsParts.of | with_reducible apply KeepsParts.free | with_reducible apply KeepsParts.cut | with_reducible apply KeepsParts.cutMem | with_reducible apply KeepsParts.cutPoison | with_reducible apply KeepsParts.cutAll | with_reducible apply KeepsParts.said)
    | split
    | intro)

theorem execTxnApply_keeps {z0 : State} (s : State) (hz : Keeps z0 s) :
    KeepsO z0 (execTxnApply s) := by
  unfold execTxnApply
  try dsimp only
  repeat' (first
    | with_reducible assumption
    | with_reducible apply KeepsO.next
    | with_reducible apply State.applyTxn_keeps
    | (simp only [keeps_mk]; first | with_reducible apply KeepsParts.of | with_reducible apply KeepsParts.free | with_reducible apply KeepsParts.cut | with_reducible apply KeepsParts.cutMem | with_reducible apply KeepsParts.cutPoison | with_reducible apply KeepsParts.cutAll | with_reducible apply KeepsParts.said)
    | split
    | intro)

theorem execBreakTimeout_keeps {z0 : State} (s : State) (hz : Keeps z0 s) :
    KeepsO z0 (execBreakTimeout s) := by
  unfold execBreakTimeout
  try dsimp only
  repeat' (first
    | with_reducible assumption
    | with_reducible apply KeepsO.next
    | with_reducible apply State.abortTxn_keeps
    | (simp only [keeps_mk]; first | with_reducible apply KeepsParts.of | with_reducible apply KeepsParts.free | with_reducible apply KeepsParts.cut | with_reducible apply KeepsParts.cutMem | with_reducible apply KeepsParts.cutPoison | with_reducible apply KeepsParts.cutAll | with_reducible apply KeepsParts.said)
    | split
    | intro)

theorem execTxnTimeout_keeps {z0 : State} (s : State) (hz : Keeps z0 s) :
    KeepsO z0 (execTxnTimeout s) := by
  unfold execTxnTimeout
  try dsimp only
  repeat' (first
    | with_reducible assumption
    | with_reducible apply KeepsO.next
    | with_reducible apply State.abortTxn_keeps
    | split
    | intro)

theorem execFenced_keeps {z0 : State} (part : Nat) (s : State) (hz : Keeps z0 s) :
    KeepsO z0 (execFenced part s) := by
  unfold execFenced
  try dsimp only
  repeat' (first
    | with_reducible assumption
    | with_reducible apply KeepsO.next
    | with_reducible apply State.put_keeps
    | split
    | intro)

theorem State.setRole_keeps {z0 : State} (s : State) (k d role synced : Nat) (hz : Keeps z0 s) :
    Keeps z0 (State.setRole s k d role synced) := by
  unfold State.setRole
  try dsimp only
  repeat' (first
    | with_reducible assumption
    | with_reducible apply State.put_keeps
    | (simp only [keeps_mk]; first | with_reducible apply KeepsParts.of | with_reducible apply KeepsParts.free | with_reducible apply KeepsParts.cut | with_reducible apply KeepsParts.cutMem | with_reducible apply KeepsParts.cutPoison | with_reducible apply KeepsParts.cutAll | with_reducible apply KeepsParts.said)
    | split
    | intro)

theorem State.setStby_keeps {z0 : State} (s : State) (k : Nat) (f : StbyRec → StbyRec) (hz : Keeps z0 s) :
    Keeps z0 (State.setStby s k f) := by
  unfold State.setStby
  try dsimp only
  repeat' (first
    | with_reducible assumption
    | with_reducible apply State.setSys_keeps
    | (simp only [keeps_mk]; first | with_reducible apply KeepsParts.of | with_reducible apply KeepsParts.free | with_reducible apply KeepsParts.cut | with_reducible apply KeepsParts.cutMem | with_reducible apply KeepsParts.cutPoison | with_reducible apply KeepsParts.cutAll | with_reducible apply KeepsParts.said)
    | split
    | intro)

theorem State.setHolder_keeps {z0 : State} (s : State) (k d : Nat) (hz : Keeps z0 s) :
    Keeps z0 (State.setHolder s k d) := by
  unfold State.setHolder
  try dsimp only
  repeat' (first
    | with_reducible assumption
    | with_reducible apply State.put_keeps
    | with_reducible apply State.putAon_keeps
    | split
    | intro)

theorem State.releaseHeld_keeps {z0 : State} (s : State) (hz : Keeps z0 s) :
    Keeps z0 (State.releaseHeld s) := by
  unfold State.releaseHeld
  try dsimp only
  repeat' (first
    | with_reducible assumption
    | (simp only [keeps_mk]; first | with_reducible apply KeepsParts.of | with_reducible apply KeepsParts.free | with_reducible apply KeepsParts.cut | with_reducible apply KeepsParts.cutMem | with_reducible apply KeepsParts.cutPoison | with_reducible apply KeepsParts.cutAll | with_reducible apply KeepsParts.said)
    | split
    | intro)

theorem execJournalRecord_keeps {z0 : State} (pair : Nat) (s : State) (hz : Keeps z0 s) :
    KeepsO z0 (execJournalRecord pair s) := by
  unfold execJournalRecord
  try dsimp only
  repeat' (first
    | with_reducible assumption
    | with_reducible apply KeepsO.next
    | with_reducible apply State.count_keeps
    | (simp only [keeps_mk]; first | with_reducible apply KeepsParts.of | with_reducible apply KeepsParts.free | with_reducible apply KeepsParts.cut | with_reducible apply KeepsParts.cutMem | with_reducible apply KeepsParts.cutPoison | with_reducible apply KeepsParts.cutAll | with_reducible apply KeepsParts.said)
    | split
    | intro)

theorem State.dummyOut_keeps {z0 : State} (s : State) (k : Nat) (hz : Keeps z0 s) :
    Keeps z0 (State.dummyOut s k) := by
  unfold State.dummyOut
  try dsimp only
  repeat' (first
    | with_reducible assumption
    | with_reducible apply State.setRole_keeps
    | with_reducible apply State.releaseHeld_keeps
    | split
    | intro)

theorem execJournalOut_keeps {z0 : State} (pair : Nat) (s : State) (hz : Keeps z0 s) :
    KeepsO z0 (execJournalOut pair s) := by
  unfold execJournalOut
  try dsimp only
  repeat' (first
    | with_reducible assumption
    | with_reducible apply KeepsO.next
    | with_reducible apply State.irq_keeps
    | with_reducible apply State.modEvent_keeps
    | with_reducible apply State.dummyOut_keeps
    | split
    | intro)

theorem execDummySynced_keeps {z0 : State} (pair : Nat) (s : State) (hz : Keeps z0 s) :
    KeepsO z0 (execDummySynced pair s) := by
  unfold execDummySynced
  try dsimp only
  repeat' (first
    | with_reducible assumption
    | with_reducible apply KeepsO.next
    | with_reducible apply State.setRole_keeps
    | (simp only [keeps_mk]; first | with_reducible apply KeepsParts.of | with_reducible apply KeepsParts.free | with_reducible apply KeepsParts.cut | with_reducible apply KeepsParts.cutMem | with_reducible apply KeepsParts.cutPoison | with_reducible apply KeepsParts.cutAll | with_reducible apply KeepsParts.said)
    | split
    | intro)

theorem State.resendAdmissions_keeps {z0 : State} (s : State) (p : Nat) (hz : Keeps z0 s) :
    Keeps z0 (State.resendAdmissions s p) := by
  unfold State.resendAdmissions
  try dsimp only
  repeat' (first
    | with_reducible assumption
    | with_reducible apply State.emit_keeps
    | with_reducible apply foldl_keeps
    | with_reducible apply foldl_fst_keeps
    | with_reducible apply foldl_snd_keeps
    | (simp only [keeps_mk]; first | with_reducible apply KeepsParts.of | with_reducible apply KeepsParts.free | with_reducible apply KeepsParts.cut | with_reducible apply KeepsParts.cutMem | with_reducible apply KeepsParts.cutPoison | with_reducible apply KeepsParts.cutAll | with_reducible apply KeepsParts.said)
    | split
    | intro)

theorem State.partFailover_keeps {z0 : State} (s : State) (p : Nat) (hz : Keeps z0 s) :
    Keeps z0 (State.partFailover s p) := by
  unfold State.partFailover
  try dsimp only
  repeat' (first
    | with_reducible assumption
    | with_reducible apply State.setPart_keeps
    | with_reducible apply State.dropPending_keeps
    | with_reducible apply State.sendGroup_keeps
    | with_reducible apply State.dropOldGranules_keeps
    | with_reducible apply State.release_keeps
    | with_reducible apply State.markStale_keeps
    | with_reducible apply State.endChains_keeps
    | with_reducible apply State.resendAdmissions_keeps
    | with_reducible apply foldl_keeps
    | with_reducible apply foldl_fst_keeps
    | with_reducible apply foldl_snd_keeps
    | (simp only [keeps_mk]; first | with_reducible apply KeepsParts.of | with_reducible apply KeepsParts.free | with_reducible apply KeepsParts.cut | with_reducible apply KeepsParts.cutMem | with_reducible apply KeepsParts.cutPoison | with_reducible apply KeepsParts.cutAll | with_reducible apply KeepsParts.said)
    | split
    | intro)

theorem State.dealerFailover_keeps {z0 : State} (s : State) (d : Nat) (hz : Keeps z0 s) :
    Keeps z0 (State.dealerFailover s d) := by
  unfold State.dealerFailover
  try dsimp only
  repeat' (first
    | with_reducible assumption
    | with_reducible apply State.put_keeps
    | with_reducible apply State.irq_keeps
    | with_reducible apply State.drainEvents_keeps
    | with_reducible apply State.modEvent_keeps
    | with_reducible apply State.releaseHeld_keeps
    | with_reducible apply State.partFailover_keeps
    | with_reducible apply foldl_keeps
    | with_reducible apply foldl_fst_keeps
    | with_reducible apply foldl_snd_keeps
    | split
    | intro)

theorem State.restartRemap_keeps {z0 : State} (s : State) (r : RemapRec) (hz : Keeps z0 s) :
    Keeps z0 (State.restartRemap s r) := by
  unfold State.restartRemap
  try dsimp only
  repeat' (first
    | with_reducible assumption
    | with_reducible apply State.put_keeps
    | with_reducible apply State.setState_keeps
    | with_reducible apply State.startRemap_keeps
    | with_reducible apply State.setSys_keeps
    | with_reducible apply foldl_keeps
    | with_reducible apply foldl_fst_keeps
    | with_reducible apply foldl_snd_keeps
    | (simp only [keeps_mk]; first | with_reducible apply KeepsParts.of | with_reducible apply KeepsParts.free | with_reducible apply KeepsParts.cut | with_reducible apply KeepsParts.cutMem | with_reducible apply KeepsParts.cutPoison | with_reducible apply KeepsParts.cutAll | with_reducible apply KeepsParts.said)
    | split
    | intro)

theorem State.mccFailover_keeps {z0 : State} (s : State) (hz : Keeps z0 s) :
    Keeps z0 (State.mccFailover s) := by
  unfold State.mccFailover
  try dsimp only
  repeat' (first
    | with_reducible assumption
    | with_reducible apply State.put_keeps
    | with_reducible apply State.modEvent_keeps
    | with_reducible apply State.setSec_keeps
    | with_reducible apply State.setPwr_keeps
    | with_reducible apply State.applyCap_keeps
    | with_reducible apply State.cutUpdate_keeps
    | with_reducible apply State.abortTxn_keeps
    | with_reducible apply State.restartRemap_keeps
    | with_reducible apply foldl_keeps
    | with_reducible apply foldl_fst_keeps
    | with_reducible apply foldl_snd_keeps
    | (simp only [keeps_mk]; first | with_reducible apply KeepsParts.of | with_reducible apply KeepsParts.free | with_reducible apply KeepsParts.cut | with_reducible apply KeepsParts.cutMem | with_reducible apply KeepsParts.cutPoison | with_reducible apply KeepsParts.cutAll | with_reducible apply KeepsParts.said)
    | split
    | intro)

theorem State.loseCopy_keeps {z0 : State} (s : State) (k d : Nat) (hz : Keeps z0 s) :
    Keeps z0 (State.loseCopy s k d) := by
  unfold State.loseCopy
  try dsimp only
  repeat' (first
    | with_reducible assumption
    | with_reducible apply State.put_keeps
    | with_reducible apply State.faultUnit_keeps
    | with_reducible apply State.setSys_keeps
    | with_reducible apply State.setRole_keeps
    | (simp only [keeps_mk]; first | with_reducible apply KeepsParts.of | with_reducible apply KeepsParts.free | with_reducible apply KeepsParts.cut | with_reducible apply KeepsParts.cutMem | with_reducible apply KeepsParts.cutPoison | with_reducible apply KeepsParts.cutAll | with_reducible apply KeepsParts.said)
    | split
    | intro)

theorem State.pairLost_keeps {z0 : State} (s : State) (k : Nat) (hz : Keeps z0 s) :
    Keeps z0 (State.pairLost s k) := by
  unfold State.pairLost
  try dsimp only
  repeat' (first
    | with_reducible assumption
    | with_reducible apply State.modEvent_keeps
    | with_reducible apply State.predOff_keeps
    | with_reducible apply State.alert_keeps
    | with_reducible apply State.loseCopy_keeps
    | (simp only [keeps_mk]; first | with_reducible apply KeepsParts.of | with_reducible apply KeepsParts.free | with_reducible apply KeepsParts.cut | with_reducible apply KeepsParts.cutMem | with_reducible apply KeepsParts.cutPoison | with_reducible apply KeepsParts.cutAll | with_reducible apply KeepsParts.said)
    | split
    | intro)

theorem State.passOwner_keeps {z0 : State} (s : State) (k : Nat) (hz : Keeps z0 s) :
    Keeps z0 (State.passOwner s k) := by
  unfold State.passOwner
  try dsimp only
  repeat' (first
    | with_reducible assumption
    | with_reducible apply State.put_keeps
    | with_reducible apply State.irq_keeps
    | with_reducible apply State.count_keeps
    | with_reducible apply State.predOff_keeps
    | with_reducible apply State.putAon_keeps
    | with_reducible apply State.setRole_keeps
    | with_reducible apply State.setStby_keeps
    | with_reducible apply State.setHolder_keeps
    | with_reducible apply State.dealerFailover_keeps
    | with_reducible apply State.mccFailover_keeps
    | with_reducible apply State.loseCopy_keeps
    | with_reducible apply foldl_keeps
    | with_reducible apply foldl_fst_keeps
    | with_reducible apply foldl_snd_keeps
    | (simp only [keeps_mk]; first | with_reducible apply KeepsParts.of | with_reducible apply KeepsParts.free | with_reducible apply KeepsParts.cut | with_reducible apply KeepsParts.cutMem | with_reducible apply KeepsParts.cutPoison | with_reducible apply KeepsParts.cutAll | with_reducible apply KeepsParts.said)
    | split
    | intro)

theorem execOwnershipPass_keeps {z0 : State} (pair : Nat) (s : State) (hz : Keeps z0 s) :
    KeepsO z0 (execOwnershipPass pair s) := by
  unfold execOwnershipPass
  try dsimp only
  repeat' (first
    | with_reducible assumption
    | with_reducible apply KeepsO.next
    | with_reducible apply State.pairLost_keeps
    | with_reducible apply State.passOwner_keeps
    | split
    | intro)

theorem execRelease_keeps {z0 : State} (src : Src) (mask : Nat) (s : State) (hz : Keeps z0 s) :
    KeepsO z0 (execRelease src mask s) := by
  unfold execRelease
  try dsimp only
  repeat' (first
    | with_reducible assumption
    | with_reducible apply KeepsO.next
    | with_reducible apply State.setStby_keeps
    | with_reducible apply State.passOwner_keeps
    | with_reducible apply foldl_keeps
    | with_reducible apply foldl_fst_keeps
    | with_reducible apply foldl_snd_keeps
    | (simp only [keeps_mk]; first | with_reducible apply KeepsParts.of | with_reducible apply KeepsParts.free | with_reducible apply KeepsParts.cut | with_reducible apply KeepsParts.cutMem | with_reducible apply KeepsParts.cutPoison | with_reducible apply KeepsParts.cutAll | with_reducible apply KeepsParts.said)
    | split
    | intro)

theorem execOwnerHeartbeat_keeps {z0 : State} (pair : Nat) (s : State) (hz : Keeps z0 s) :
    KeepsO z0 (execOwnerHeartbeat pair s) := by
  unfold execOwnerHeartbeat
  try dsimp only
  repeat' (first
    | with_reducible assumption
    | with_reducible apply KeepsO.next
    | with_reducible apply State.putAon_keeps
    | split
    | intro)

theorem execHeartbeatGap_keeps {z0 : State} (pair : Nat) (s : State) (hz : Keeps z0 s) :
    KeepsO z0 (execHeartbeatGap pair s) := by
  unfold execHeartbeatGap
  try dsimp only
  repeat' (first
    | with_reducible assumption
    | with_reducible apply KeepsO.next
    | with_reducible apply State.count_keeps
    | with_reducible apply State.putAon_keeps
    | split
    | intro)

theorem execInterlockFault_keeps {z0 : State} (s : State) (hz : Keeps z0 s) :
    KeepsO z0 (execInterlockFault s) := by
  unfold execInterlockFault
  try dsimp only
  repeat' (first
    | with_reducible assumption
    | with_reducible apply KeepsO.next
    | with_reducible apply State.put_keeps
    | with_reducible apply State.irq_keeps
    | with_reducible apply State.count_keeps
    | with_reducible apply State.putAon_keeps
    | with_reducible apply State.pairLost_keeps
    | with_reducible apply foldl_keeps
    | with_reducible apply foldl_fst_keeps
    | with_reducible apply foldl_snd_keeps
    | split
    | intro)

theorem State.dummyFails_keeps {z0 : State} (s : State) (k : Nat) (hz : Keeps z0 s) :
    Keeps z0 (State.dummyFails s k) := by
  unfold State.dummyFails
  try dsimp only
  repeat' (first
    | with_reducible assumption
    | with_reducible apply State.irq_keeps
    | with_reducible apply State.modEvent_keeps
    | with_reducible apply State.setRole_keeps
    | with_reducible apply State.setStby_keeps
    | with_reducible apply State.dummyOut_keeps
    | (simp only [keeps_mk]; first | with_reducible apply KeepsParts.of | with_reducible apply KeepsParts.free | with_reducible apply KeepsParts.cut | with_reducible apply KeepsParts.cutMem | with_reducible apply KeepsParts.cutPoison | with_reducible apply KeepsParts.cutAll | with_reducible apply KeepsParts.said)
    | split
    | intro)

theorem execScanSlice_keeps {z0 : State} (pair : Nat) (ok last : Bool) (s : State) (hz : Keeps z0 s) :
    KeepsO z0 (execScanSlice pair ok last s) := by
  unfold execScanSlice
  try dsimp only
  repeat' (first
    | with_reducible assumption
    | with_reducible apply KeepsO.next
    | with_reducible apply State.count_keeps
    | with_reducible apply State.setStby_keeps
    | with_reducible apply State.dummyFails_keeps
    | (simp only [keeps_mk]; first | with_reducible apply KeepsParts.of | with_reducible apply KeepsParts.free | with_reducible apply KeepsParts.cut | with_reducible apply KeepsParts.cutMem | with_reducible apply KeepsParts.cutPoison | with_reducible apply KeepsParts.cutAll | with_reducible apply KeepsParts.said)
    | split
    | intro)

theorem execDigestCompare_keeps {z0 : State} (pair : Nat) (equal : Bool) (s : State) (hz : Keeps z0 s) :
    KeepsO z0 (execDigestCompare pair equal s) := by
  unfold execDigestCompare
  try dsimp only
  repeat' (first
    | with_reducible assumption
    | with_reducible apply KeepsO.next
    | with_reducible apply State.count_keeps
    | with_reducible apply State.setStby_keeps
    | with_reducible apply State.dummyFails_keeps
    | (simp only [keeps_mk]; first | with_reducible apply KeepsParts.of | with_reducible apply KeepsParts.free | with_reducible apply KeepsParts.cut | with_reducible apply KeepsParts.cutMem | with_reducible apply KeepsParts.cutPoison | with_reducible apply KeepsParts.cutAll | with_reducible apply KeepsParts.said)
    | split
    | intro)

theorem execFwRestart_keeps {z0 : State} (up : Bool) (s : State) (hz : Keeps z0 s) :
    KeepsO z0 (execFwRestart up s) := by
  unfold execFwRestart
  try dsimp only
  repeat' (first
    | with_reducible assumption
    | with_reducible apply KeepsO.next
    | with_reducible apply State.put_keeps
    | with_reducible apply State.irq_keeps
    | with_reducible apply State.count_keeps
    | with_reducible apply State.setPwr_keeps
    | with_reducible apply State.applyCap_keeps
    | with_reducible apply State.predOff_keeps
    | (simp only [keeps_mk]; first | with_reducible apply KeepsParts.of | with_reducible apply KeepsParts.free | with_reducible apply KeepsParts.cut | with_reducible apply KeepsParts.cutMem | with_reducible apply KeepsParts.cutPoison | with_reducible apply KeepsParts.cutAll | with_reducible apply KeepsParts.said)
    | split
    | intro)

theorem execCapture_keeps {z0 : State} (src : Src) (s : State) (hz : Keeps z0 s) :
    KeepsO z0 (execCapture src s) := by
  unfold execCapture
  try dsimp only
  repeat' (first
    | with_reducible assumption
    | with_reducible apply KeepsO.next
    | with_reducible apply State.setSys_keeps
    | (simp only [keeps_mk]; first | with_reducible apply KeepsParts.of | with_reducible apply KeepsParts.free | with_reducible apply KeepsParts.cut | with_reducible apply KeepsParts.cutMem | with_reducible apply KeepsParts.cutPoison | with_reducible apply KeepsParts.cutAll | with_reducible apply KeepsParts.said)
    | split
    | intro)

theorem State.updateRefused_keeps {z0 : State} (s : State) (r : Nat) (hz : Keeps z0 s) :
    Keeps z0 (State.updateRefused s r) := by
  unfold State.updateRefused
  try dsimp only
  repeat' (first
    | with_reducible assumption
    | with_reducible apply State.put_keeps
    | with_reducible apply State.irq_keeps
    | with_reducible apply State.modEvent_keeps
    | split
    | intro)

theorem State.beginUpdate_keeps {z0 : State} (s : State) (kind : Nat) (f : ImageFacts) (hz : Keeps z0 s) :
    Keeps z0 (State.beginUpdate s kind f) := by
  unfold State.beginUpdate
  try dsimp only
  repeat' (first
    | with_reducible assumption
    | with_reducible apply State.put_keeps
    | with_reducible apply State.setSys_keeps
    | (simp only [keeps_mk]; first | with_reducible apply KeepsParts.of | with_reducible apply KeepsParts.free | with_reducible apply KeepsParts.cut | with_reducible apply KeepsParts.cutMem | with_reducible apply KeepsParts.cutPoison | with_reducible apply KeepsParts.cutAll | with_reducible apply KeepsParts.said)
    | split
    | intro)

theorem execImageUpdate_keeps {z0 : State} (src : Src) (s : State) (hz : Keeps z0 s) :
    KeepsO z0 (execImageUpdate src s) := by
  unfold execImageUpdate
  try dsimp only
  repeat' (first
    | with_reducible assumption
    | with_reducible apply KeepsO.next
    | with_reducible apply State.put_keeps
    | with_reducible apply State.argBytes_keeps
    | with_reducible apply State.updateRefused_keeps
    | with_reducible apply State.beginUpdate_keeps
    | (simp only [keeps_mk]; first | with_reducible apply KeepsParts.of | with_reducible apply KeepsParts.free | with_reducible apply KeepsParts.cut | with_reducible apply KeepsParts.cutMem | with_reducible apply KeepsParts.cutPoison | with_reducible apply KeepsParts.cutAll | with_reducible apply KeepsParts.said)
    | split
    | intro)

theorem execUpdateDone_keeps {z0 : State} (ok : Bool) (kib : Nat) (s : State) (hz : Keeps z0 s) :
    KeepsO z0 (execUpdateDone ok kib s) := by
  unfold execUpdateDone
  try dsimp only
  repeat' (first
    | with_reducible assumption
    | with_reducible apply KeepsO.next
    | with_reducible apply State.put_keeps
    | with_reducible apply State.count_keeps
    | with_reducible apply State.setSys_keeps
    | with_reducible apply State.updateRefused_keeps
    | (simp only [keeps_mk]; first | with_reducible apply KeepsParts.of | with_reducible apply KeepsParts.free | with_reducible apply KeepsParts.cut | with_reducible apply KeepsParts.cutMem | with_reducible apply KeepsParts.cutPoison | with_reducible apply KeepsParts.cutAll | with_reducible apply KeepsParts.said)
    | split
    | intro)

theorem State.setMgt_keeps {z0 : State} (s : State) (f : MgtRec → MgtRec) (hz : Keeps z0 s) :
    Keeps z0 (State.setMgt s f) := by
  unfold State.setMgt
  try dsimp only
  repeat' (first
    | with_reducible assumption
    | (simp only [keeps_mk]; first | with_reducible apply KeepsParts.of | with_reducible apply KeepsParts.free | with_reducible apply KeepsParts.cut | with_reducible apply KeepsParts.cutMem | with_reducible apply KeepsParts.cutPoison | with_reducible apply KeepsParts.cutAll | with_reducible apply KeepsParts.said)
    | split
    | intro)

theorem State.takeAddr_keeps {z0 : State} (s : State) (a : Nat) (hz : Keeps z0 s) :
    Keeps z0 (State.takeAddr s a) := by
  unfold State.takeAddr
  try dsimp only
  repeat' (first
    | with_reducible assumption
    | with_reducible apply State.put_keeps
    | with_reducible apply State.irq_keeps
    | split
    | intro)

theorem execSetdasa_keeps {z0 : State} (static dyn : Nat) (s : State) (hz : Keeps z0 s) :
    KeepsO z0 (execSetdasa static dyn s) := by
  unfold execSetdasa
  try dsimp only
  repeat' (first
    | with_reducible assumption
    | with_reducible apply KeepsO.next
    | with_reducible apply State.takeAddr_keeps
    | split
    | intro)

theorem execEntdaa_keeps {z0 : State} (dyn : Nat) (s : State) (hz : Keeps z0 s) :
    KeepsO z0 (execEntdaa dyn s) := by
  unfold execEntdaa
  try dsimp only
  repeat' (first
    | with_reducible assumption
    | with_reducible apply KeepsO.next
    | with_reducible apply State.takeAddr_keeps
    | split
    | intro)

theorem execRstdaa_keeps {z0 : State} (s : State) (hz : Keeps z0 s) :
    KeepsO z0 (execRstdaa s) := by
  unfold execRstdaa
  try dsimp only
  repeat' (first
    | with_reducible assumption
    | with_reducible apply KeepsO.next
    | with_reducible apply State.put_keeps
    | split
    | intro)

theorem execSetmrl_keeps {z0 : State} (n : Nat) (s : State) (hz : Keeps z0 s) :
    KeepsO z0 (execSetmrl n s) := by
  unfold execSetmrl
  try dsimp only
  repeat' (first
    | with_reducible assumption
    | with_reducible apply KeepsO.next
    | with_reducible apply State.setMgt_keeps
    | (simp only [keeps_mk]; first | with_reducible apply KeepsParts.of | with_reducible apply KeepsParts.free | with_reducible apply KeepsParts.cut | with_reducible apply KeepsParts.cutMem | with_reducible apply KeepsParts.cutPoison | with_reducible apply KeepsParts.cutAll | with_reducible apply KeepsParts.said)
    | split
    | intro)

theorem execGetmrl_keeps {z0 : State} (s : State) (hz : Keeps z0 s) :
    KeepsO z0 (execGetmrl s) := by
  unfold execGetmrl
  try dsimp only
  repeat' (first
    | with_reducible assumption
    | with_reducible apply KeepsO.next
    | with_reducible apply State.respond_keeps
    | split
    | intro)

theorem execHotJoin_keeps {z0 : State} (s : State) (hz : Keeps z0 s) :
    KeepsO z0 (execHotJoin s) := by
  unfold execHotJoin
  try dsimp only
  repeat' (first
    | with_reducible assumption
    | with_reducible apply KeepsO.next
    | with_reducible apply State.emit_keeps
    | split
    | intro)

theorem State.statusBlock_keeps {z0 : State} (s : State) (hz : Keeps z0 s) :
    Keeps z0 (State.statusBlock s).2 := by
  unfold State.statusBlock
  try dsimp only
  repeat' (first
    | with_reducible assumption
    | with_reducible apply State.fresh_keeps
    | split
    | intro)

theorem execAonStatusRead_keeps {z0 : State} (write : Bool) (s : State) (hz : Keeps z0 s) :
    KeepsO z0 (execAonStatusRead write s) := by
  unfold execAonStatusRead
  try dsimp only
  repeat' (first
    | with_reducible assumption
    | with_reducible apply KeepsO.next
    | with_reducible apply State.respond_keeps
    | with_reducible apply State.statusBlock_keeps
    | split
    | intro)

theorem State.served_keeps {z0 : State} (s : State) (k : State → State) (hz : Keeps z0 s) (hk : ∀ t, Keeps z0 t → Keeps z0 (k t)) :
    Keeps z0 (State.served s k) := by
  unfold State.served
  try dsimp only
  repeat' (first
    | with_reducible assumption
    | with_reducible apply hk
    | with_reducible apply State.respond_keeps
    | with_reducible apply State.count_keeps
    | split
    | intro)

theorem execSetEndpointId_keeps {z0 : State} (eid : Nat) (s : State) (hz : Keeps z0 s) :
    KeepsO z0 (execSetEndpointId eid s) := by
  unfold execSetEndpointId
  try dsimp only
  repeat' (first
    | with_reducible assumption
    | with_reducible apply KeepsO.next
    | with_reducible apply State.put_keeps
    | with_reducible apply State.respond_keeps
    | with_reducible apply State.irq_keeps
    | with_reducible apply State.served_keeps
    | split
    | intro)

theorem execHeartbeat_keeps {z0 : State} (seq : Nat) (s : State) (hz : Keeps z0 s) :
    KeepsO z0 (execHeartbeat seq s) := by
  unfold execHeartbeat
  try dsimp only
  repeat' (first
    | with_reducible assumption
    | with_reducible apply KeepsO.next
    | with_reducible apply State.put_keeps
    | with_reducible apply State.respond_keeps
    | with_reducible apply State.count_keeps
    | with_reducible apply State.applyCap_keeps
    | with_reducible apply State.alert_keeps
    | with_reducible apply State.setMgt_keeps
    | with_reducible apply State.statusBlock_keeps
    | with_reducible apply State.served_keeps
    | (simp only [keeps_mk]; first | with_reducible apply KeepsParts.of | with_reducible apply KeepsParts.free | with_reducible apply KeepsParts.cut | with_reducible apply KeepsParts.cutMem | with_reducible apply KeepsParts.cutPoison | with_reducible apply KeepsParts.cutAll | with_reducible apply KeepsParts.said)
    | split
    | intro)

theorem execSetTime_keeps {z0 : State} (ms : Nat) (s : State) (hz : Keeps z0 s) :
    KeepsO z0 (execSetTime ms s) := by
  unfold execSetTime
  try dsimp only
  repeat' (first
    | with_reducible assumption
    | with_reducible apply KeepsO.next
    | with_reducible apply State.put_keeps
    | with_reducible apply State.respond_keeps
    | with_reducible apply State.setMgt_keeps
    | with_reducible apply State.served_keeps
    | (simp only [keeps_mk]; first | with_reducible apply KeepsParts.of | with_reducible apply KeepsParts.free | with_reducible apply KeepsParts.cut | with_reducible apply KeepsParts.cutMem | with_reducible apply KeepsParts.cutPoison | with_reducible apply KeepsParts.cutAll | with_reducible apply KeepsParts.said)
    | split
    | intro)

theorem State.sensor_keeps {s0 s : State} {id : Nat} {r : Nat × State} (e : s.sensor id = some r) (h : Keeps s0 s) : Keeps s0 r.2 := by
  unfold State.sensor at e
  split at e <;> cases e <;> first | exact h | exact State.fresh_keeps _ h

theorem execGetSensorReading_keeps {z0 : State} (id : Nat) (s : State) (hz : Keeps z0 s) :
    KeepsO z0 (execGetSensorReading id s) := by
  unfold execGetSensorReading
  try dsimp only
  repeat' (first
    | with_reducible assumption
    | with_reducible apply KeepsO.next
    | with_reducible apply State.respond_keeps
    | with_reducible apply State.served_keeps
    | with_reducible refine State.sensor_keeps (by assumption) ?_
    | (simp only [keeps_mk]; first | with_reducible apply KeepsParts.of | with_reducible apply KeepsParts.free | with_reducible apply KeepsParts.cut | with_reducible apply KeepsParts.cutMem | with_reducible apply KeepsParts.cutPoison | with_reducible apply KeepsParts.cutAll | with_reducible apply KeepsParts.said)
    | split
    | intro)

theorem execPollForPlatformEventMessage_keeps {z0 : State} (s : State) (hz : Keeps z0 s) :
    KeepsO z0 (execPollForPlatformEventMessage s) := by
  unfold execPollForPlatformEventMessage
  try dsimp only
  repeat' (first
    | with_reducible assumption
    | with_reducible apply KeepsO.next
    | with_reducible apply State.emit_keeps
    | with_reducible apply State.respond_keeps
    | with_reducible apply State.setMgt_keeps
    | with_reducible apply State.served_keeps
    | (simp only [keeps_mk]; first | with_reducible apply KeepsParts.of | with_reducible apply KeepsParts.free | with_reducible apply KeepsParts.cut | with_reducible apply KeepsParts.cutMem | with_reducible apply KeepsParts.cutPoison | with_reducible apply KeepsParts.cutAll | with_reducible apply KeepsParts.said)
    | split
    | intro)

theorem execPldmFirmwareUpdate_keeps {z0 : State} (image : List Byte) (s : State) (hz : Keeps z0 s) :
    KeepsO z0 (execPldmFirmwareUpdate image s) := by
  unfold execPldmFirmwareUpdate
  try dsimp only
  repeat' (first
    | with_reducible assumption
    | with_reducible apply KeepsO.next
    | with_reducible apply State.respond_keeps
    | with_reducible apply State.updateRefused_keeps
    | with_reducible apply State.beginUpdate_keeps
    | with_reducible apply State.served_keeps
    | (simp only [keeps_mk]; first | with_reducible apply KeepsParts.of | with_reducible apply KeepsParts.free | with_reducible apply KeepsParts.cut | with_reducible apply KeepsParts.cutMem | with_reducible apply KeepsParts.cutPoison | with_reducible apply KeepsParts.cutAll | with_reducible apply KeepsParts.said)
    | split
    | intro)

theorem execActivateFirmware_keeps {z0 : State} (s : State) (hz : Keeps z0 s) :
    KeepsO z0 (execActivateFirmware s) := by
  unfold execActivateFirmware
  try dsimp only
  repeat' (first
    | with_reducible assumption
    | with_reducible apply KeepsO.next
    | with_reducible apply State.respond_keeps
    | with_reducible apply State.cutUpdate_keeps
    | with_reducible apply State.interrupted_keeps
    | with_reducible apply State.beginFull_keeps
    | with_reducible apply State.served_keeps
    | split
    | intro)

theorem execWdtExpired_keeps {z0 : State} (s : State) (hz : Keeps z0 s) :
    KeepsO z0 (execWdtExpired s) := by
  unfold execWdtExpired
  try dsimp only
  repeat' (first
    | with_reducible assumption
    | with_reducible apply KeepsO.next
    | with_reducible apply State.put_keeps
    | with_reducible apply State.irq_keeps
    | with_reducible apply State.count_keeps
    | with_reducible apply State.eventM_keeps
    | with_reducible apply State.applyCap_keeps
    | with_reducible apply State.alert_keeps
    | split
    | intro)

theorem State.edgeIn_keeps {z0 : State} (s : State) (e p1ms : Nat) (behind : Bool) (hz : Keeps z0 s) :
    Keeps z0 (State.edgeIn s e p1ms behind) := by
  unfold State.edgeIn
  try dsimp only
  repeat' (first
    | with_reducible assumption
    | with_reducible apply State.put_keeps
    | with_reducible apply State.setTime_keeps
    | with_reducible apply State.rampTick_keeps
    | with_reducible apply State.setMgt_keeps
    | (simp only [keeps_mk]; first | with_reducible apply KeepsParts.of | with_reducible apply KeepsParts.free | with_reducible apply KeepsParts.cut | with_reducible apply KeepsParts.cutMem | with_reducible apply KeepsParts.cutPoison | with_reducible apply KeepsParts.cutAll | with_reducible apply KeepsParts.said)
    | split
    | intro)

theorem State.edgeOut_keeps {z0 : State} (s : State) (near : Nat) (hz : Keeps z0 s) :
    Keeps z0 (State.edgeOut s near) := by
  unfold State.edgeOut
  try dsimp only
  repeat' (first
    | with_reducible assumption
    | with_reducible apply State.irq_keeps
    | with_reducible apply State.count_keeps
    | with_reducible apply State.setTime_keeps
    | with_reducible apply State.setMgt_keeps
    | (simp only [keeps_mk]; first | with_reducible apply KeepsParts.of | with_reducible apply KeepsParts.free | with_reducible apply KeepsParts.cut | with_reducible apply KeepsParts.cutMem | with_reducible apply KeepsParts.cutPoison | with_reducible apply KeepsParts.cutAll | with_reducible apply KeepsParts.said)
    | split
    | intro)

theorem State.edge_keeps {z0 : State} (s : State) (t p1ms : Nat) (hz : Keeps z0 s) :
    Keeps z0 (State.edge s t p1ms) := by
  unfold State.edge
  try dsimp only
  repeat' (first
    | with_reducible assumption
    | with_reducible apply State.put_keeps
    | with_reducible apply State.setTime_keeps
    | with_reducible apply State.edgeIn_keeps
    | with_reducible apply State.edgeOut_keeps
    | split
    | intro)

theorem State.uptime_keeps {z0 : State} (s : State) (elapsed : Nat) (hz : Keeps z0 s) :
    Keeps z0 (State.uptime s elapsed) := by
  unfold State.uptime
  try dsimp only
  repeat' (first
    | with_reducible assumption
    | with_reducible apply State.putAon_keeps
    | with_reducible apply State.setMgt_keeps
    | (simp only [keeps_mk]; first | with_reducible apply KeepsParts.of | with_reducible apply KeepsParts.free | with_reducible apply KeepsParts.cut | with_reducible apply KeepsParts.cutMem | with_reducible apply KeepsParts.cutPoison | with_reducible apply KeepsParts.cutAll | with_reducible apply KeepsParts.said)
    | split
    | intro)

theorem execSyncTick_keeps {z0 : State} (elapsed p1ms : Nat) (s : State) (hz : Keeps z0 s) :
    KeepsO z0 (execSyncTick elapsed p1ms s) := by
  unfold execSyncTick
  try dsimp only
  repeat' (first
    | with_reducible assumption
    | with_reducible apply KeepsO.next
    | with_reducible apply State.setTime_keeps
    | with_reducible apply State.setMgt_keeps
    | with_reducible apply State.edgeIn_keeps
    | with_reducible apply State.edge_keeps
    | with_reducible apply State.uptime_keeps
    | (simp only [keeps_mk]; first | with_reducible apply KeepsParts.of | with_reducible apply KeepsParts.free | with_reducible apply KeepsParts.cut | with_reducible apply KeepsParts.cutMem | with_reducible apply KeepsParts.cutPoison | with_reducible apply KeepsParts.cutAll | with_reducible apply KeepsParts.said)
    | split
    | intro)

theorem execRefclkLost_keeps {z0 : State} (s : State) (hz : Keeps z0 s) :
    KeepsO z0 (execRefclkLost s) := by
  unfold execRefclkLost
  try dsimp only
  repeat' (first
    | with_reducible assumption
    | with_reducible apply KeepsO.next
    | with_reducible apply State.put_keeps
    | with_reducible apply State.irq_keeps
    | with_reducible apply State.count_keeps
    | with_reducible apply State.alert_keeps
    | with_reducible apply State.setSys_keeps
    | (simp only [keeps_mk]; first | with_reducible apply KeepsParts.of | with_reducible apply KeepsParts.free | with_reducible apply KeepsParts.cut | with_reducible apply KeepsParts.cutMem | with_reducible apply KeepsParts.cutPoison | with_reducible apply KeepsParts.cutAll | with_reducible apply KeepsParts.said)
    | split
    | intro)

theorem execRefclkReturn_keeps {z0 : State} (s : State) (hz : Keeps z0 s) :
    KeepsO z0 (execRefclkReturn s) := by
  unfold execRefclkReturn
  try dsimp only
  repeat' (first
    | with_reducible assumption
    | with_reducible apply KeepsO.next
    | with_reducible apply State.put_keeps
    | with_reducible apply State.alert_keeps
    | with_reducible apply State.setSys_keeps
    | (simp only [keeps_mk]; first | with_reducible apply KeepsParts.of | with_reducible apply KeepsParts.free | with_reducible apply KeepsParts.cut | with_reducible apply KeepsParts.cutMem | with_reducible apply KeepsParts.cutPoison | with_reducible apply KeepsParts.cutAll | with_reducible apply KeepsParts.said)
    | split
    | intro)

theorem State.windowRefused_keeps {z0 : State} (s : State) (w : Nat) (hz : Keeps z0 s) :
    Keeps z0 (State.windowRefused s w) := by
  unfold State.windowRefused
  try dsimp only
  repeat' (first
    | with_reducible assumption
    | with_reducible apply State.irq_keeps
    | with_reducible apply State.count_keeps
    | with_reducible apply State.eventPM_keeps
    | (simp only [keeps_mk]; first | with_reducible apply KeepsParts.of | with_reducible apply KeepsParts.free | with_reducible apply KeepsParts.cut | with_reducible apply KeepsParts.cutMem | with_reducible apply KeepsParts.cutPoison | with_reducible apply KeepsParts.cutAll | with_reducible apply KeepsParts.said)
    | split
    | intro)

theorem State.hostRead_keeps {s0 : State} (s : State) (p sp off : Nat) (ev : MemEv) (h : Keeps s0 s) : Keeps s0 (s.hostRead p sp off ev) := by
  unfold State.hostRead
  generalize s.lost _ = b
  generalize s.holder _ = o
  cases b
  · rw [if_neg (by decide)]
    cases o with
    | none => exact State.tblAnswer_keeps _ _ _ h
    | some u =>
      dsimp only
      by_cases h1 : sp = 1
      · rw [if_pos h1]
        exact State.grant_keeps _ _ (State.setBank_keeps _ _ _ h)
      · rw [if_neg h1]
        by_cases h2 : sp = 2
        · rw [if_pos h2]
          exact State.tierRequest_keeps _ _ _ _ h
        · rw [if_neg h2]
          exact State.memRequest_keeps _ _ _ _ h
  · rw [if_pos rfl]
    exact State.tblAnswer_keeps _ _ _ h

theorem State.hostWrite_keeps {s0 : State} (s : State) (p sp off : Nat) (d : List Byte) (keep : Nat) (pois : Bool) (ev : MemEv) (h : Keeps s0 s) : Keeps s0 (s.hostWrite p sp off d keep pois ev) := by
  unfold State.hostWrite
  generalize s.lost _ = b
  generalize s.holder _ = o
  cases b
  · rw [if_neg (by decide)]
    cases o with
    | none => exact h
    | some u =>
      dsimp only
      by_cases h1 : sp = 1
      · rw [if_pos h1]
        exact State.grant_keeps _ _ (State.setBank_keeps _ _ _ h)
      · rw [if_neg h1]
        by_cases h2 : sp = 2
        · rw [if_pos h2]
          exact State.tierRequest_keeps _ _ _ _ h
        · rw [if_neg h2]
          exact State.memRequest_keeps _ _ _ _ h
  · rw [if_pos rfl]
    exact h

theorem execCxlMemRead_keeps {z0 : State} (w : Nat) (ev : MemEv) (s : State) (hz : Keeps z0 s) :
    KeepsO z0 (execCxlMemRead w ev s) := by
  unfold execCxlMemRead
  try dsimp only
  repeat' (first
    | with_reducible assumption
    | with_reducible apply KeepsO.next
    | with_reducible apply State.respond_keeps
    | with_reducible apply State.rouse_keeps
    | with_reducible apply State.count_keeps
    | with_reducible apply State.endRun_keeps
    | with_reducible apply State.tblAnswer_keeps
    | with_reducible apply State.reviewAll_keeps
    | with_reducible apply State.windowRefused_keeps
    | with_reducible apply State.hostRead_keeps
    | (simp only [keeps_mk]; first | with_reducible apply KeepsParts.of | with_reducible apply KeepsParts.free | with_reducible apply KeepsParts.cut | with_reducible apply KeepsParts.cutMem | with_reducible apply KeepsParts.cutPoison | with_reducible apply KeepsParts.cutAll | with_reducible apply KeepsParts.said)
    | split
    | intro)

theorem State.runOn_keeps {z0 : State} (s : State) (line b : Nat) (d : List Byte) (hz : Keeps z0 s) :
    Keeps z0 (State.runOn s line b d) := by
  unfold State.runOn
  try dsimp only
  repeat' (first
    | with_reducible assumption
    | with_reducible apply State.endRun_keeps
    | (simp only [keeps_mk]; first | with_reducible apply KeepsParts.of | with_reducible apply KeepsParts.free | with_reducible apply KeepsParts.cut | with_reducible apply KeepsParts.cutMem | with_reducible apply KeepsParts.cutPoison | with_reducible apply KeepsParts.cutAll | with_reducible apply KeepsParts.said)
    | split
    | intro)

theorem State.uncount_keeps {z0 : State} (s : State) (u : UnitId) (k n : Nat) (hz : Keeps z0 s) :
    Keeps z0 (State.uncount s u k n) := by
  unfold State.uncount
  try dsimp only
  repeat' (first
    | with_reducible assumption
    | (simp only [keeps_mk]; first | with_reducible apply KeepsParts.of | with_reducible apply KeepsParts.free | with_reducible apply KeepsParts.cut | with_reducible apply KeepsParts.cutMem | with_reducible apply KeepsParts.cutPoison | with_reducible apply KeepsParts.cutAll | with_reducible apply KeepsParts.said)
    | split
    | intro)

theorem State.merged_keeps {z0 : State} (s : State) (line : Nat) (hz : Keeps z0 s) :
    Keeps z0 (State.merged s line) := by
  unfold State.merged
  try dsimp only
  repeat' (first
    | with_reducible assumption
    | with_reducible apply State.write_keeps
    | with_reducible apply State.setBank_keeps
    | with_reducible apply State.uncount_keeps
    | (simp only [keeps_mk]; first | with_reducible apply KeepsParts.of | with_reducible apply KeepsParts.free | with_reducible apply KeepsParts.cut | with_reducible apply KeepsParts.cutMem | with_reducible apply KeepsParts.cutPoison | with_reducible apply KeepsParts.cutAll | with_reducible apply KeepsParts.said)
    | split
    | intro)

theorem execCxlMemWrite_keeps {z0 : State} (w : Nat) (data : List (Option Byte)) (poison : Bool) (ev : MemEv) (s : State) (hz : Keeps z0 s) :
    KeepsO z0 (execCxlMemWrite w data poison ev s) := by
  unfold execCxlMemWrite
  try dsimp only
  repeat' (first
    | with_reducible assumption
    | with_reducible apply KeepsO.next
    | with_reducible apply State.rouse_keeps
    | with_reducible apply State.count_keeps
    | with_reducible apply State.endRun_keeps
    | with_reducible apply State.reviewAll_keeps
    | with_reducible apply State.windowRefused_keeps
    | with_reducible apply State.hostWrite_keeps
    | with_reducible apply State.runOn_keeps
    | with_reducible apply State.merged_keeps
    | (simp only [keeps_mk]; first | with_reducible apply KeepsParts.of | with_reducible apply KeepsParts.free | with_reducible apply KeepsParts.cut | with_reducible apply KeepsParts.cutMem | with_reducible apply KeepsParts.cutPoison | with_reducible apply KeepsParts.cutAll | with_reducible apply KeepsParts.said)
    | split
    | intro)

theorem execIdentifyMemoryDevice_keeps {z0 : State} (src : Src) (s : State) (hz : Keeps z0 s) :
    KeepsO z0 (execIdentifyMemoryDevice src s) := by
  unfold execIdentifyMemoryDevice
  try dsimp only
  repeat' (first
    | with_reducible assumption
    | with_reducible apply KeepsO.next
    | with_reducible apply State.fresh_keeps
    | with_reducible apply State.respond_keeps
    | split
    | intro)

theorem execGetSupportedLogs_keeps {z0 : State} (src : Src) (s : State) (hz : Keeps z0 s) :
    KeepsO z0 (execGetSupportedLogs src s) := by
  unfold execGetSupportedLogs
  try dsimp only
  repeat' (first
    | with_reducible assumption
    | with_reducible apply KeepsO.next
    | with_reducible apply State.fresh_keeps
    | with_reducible apply State.respond_keeps
    | split
    | intro)

theorem execTableAccess_keeps {z0 : State} (src : Src) (s : State) (hz : Keeps z0 s) :
    KeepsO z0 (execTableAccess src s) := by
  unfold execTableAccess
  try dsimp only
  repeat' (first
    | with_reducible assumption
    | with_reducible apply KeepsO.next
    | with_reducible apply State.respond_keeps
    | split
    | intro)

theorem execDiscovery_keeps {z0 : State} (src : Src) (ix : Nat) (s : State) (hz : Keeps z0 s) :
    KeepsO z0 (execDiscovery src ix s) := by
  unfold execDiscovery
  try dsimp only
  repeat' (first
    | with_reducible assumption
    | with_reducible apply KeepsO.next
    | with_reducible apply State.respond_keeps
    | (simp only [keeps_mk]; first | with_reducible apply KeepsParts.of | with_reducible apply KeepsParts.free | with_reducible apply KeepsParts.cut | with_reducible apply KeepsParts.cutMem | with_reducible apply KeepsParts.cutPoison | with_reducible apply KeepsParts.cutAll | with_reducible apply KeepsParts.said)
    | split
    | intro)

theorem execPortHLinkUp_keeps {z0 : State} (width rate : Nat) (s : State) (hz : Keeps z0 s) :
    KeepsO z0 (execPortHLinkUp width rate s) := by
  unfold execPortHLinkUp
  try dsimp only
  repeat' (first
    | with_reducible assumption
    | with_reducible apply KeepsO.next
    | with_reducible apply State.put_keeps
    | with_reducible apply State.irq_keeps
    | (simp only [keeps_mk]; first | with_reducible apply KeepsParts.of | with_reducible apply KeepsParts.free | with_reducible apply KeepsParts.cut | with_reducible apply KeepsParts.cutMem | with_reducible apply KeepsParts.cutPoison | with_reducible apply KeepsParts.cutAll | with_reducible apply KeepsParts.said)
    | split
    | intro)

theorem State.spdmError_keeps {z0 : State} (s : State) (code : Nat) (hz : Keeps z0 s) :
    Keeps z0 (State.spdmError s code) := by
  unfold State.spdmError
  try dsimp only
  repeat' (first
    | with_reducible assumption
    | with_reducible apply State.respond_keeps
    | split
    | intro)

theorem State.setSpdm_keeps {z0 : State} (s : State) (f : SpdmRec → SpdmRec) (hz : Keeps z0 s) :
    Keeps z0 (State.setSpdm s f) := by
  unfold State.setSpdm
  try dsimp only
  repeat' (first
    | with_reducible assumption
    | (simp only [keeps_mk]; first | with_reducible apply KeepsParts.of | with_reducible apply KeepsParts.free | with_reducible apply KeepsParts.cut | with_reducible apply KeepsParts.cutMem | with_reducible apply KeepsParts.cutPoison | with_reducible apply KeepsParts.cutAll | with_reducible apply KeepsParts.said)
    | split
    | intro)

theorem State.negotiated_keeps {z0 : State} (s : State) (via : Src) (n : Nat) (k : State → State) (hz : Keeps z0 s) (hk : ∀ t, Keeps z0 t → Keeps z0 (k t)) :
    Keeps z0 (State.negotiated s via n k) := by
  unfold State.negotiated
  try dsimp only
  repeat' (first
    | with_reducible assumption
    | with_reducible apply hk
    | with_reducible apply State.respond_keeps
    | with_reducible apply State.spdmError_keeps
    | split
    | intro)

theorem State.toStage_keeps {z0 : State} (s : State) (via : Src) (n : Nat) (hz : Keeps z0 s) :
    Keeps z0 (State.toStage s via n) := by
  unfold State.toStage
  try dsimp only
  repeat' (first
    | with_reducible assumption
    | with_reducible apply State.setSpdm_keeps
    | (simp only [keeps_mk]; first | with_reducible apply KeepsParts.of | with_reducible apply KeepsParts.free | with_reducible apply KeepsParts.cut | with_reducible apply KeepsParts.cutMem | with_reducible apply KeepsParts.cutPoison | with_reducible apply KeepsParts.cutAll | with_reducible apply KeepsParts.said)
    | split
    | intro)

theorem State.spdmAnswer_keeps {z0 : State} (s : State) (via : Src) (r : List Byte) (hz : Keeps z0 s) :
    Keeps z0 (State.spdmAnswer s via r) := by
  unfold State.spdmAnswer
  try dsimp only
  repeat' (first
    | with_reducible assumption
    | with_reducible apply State.respond_keeps
    | with_reducible apply State.setSpdm_keeps
    | (simp only [keeps_mk]; first | with_reducible apply KeepsParts.of | with_reducible apply KeepsParts.free | with_reducible apply KeepsParts.cut | with_reducible apply KeepsParts.cutMem | with_reducible apply KeepsParts.cutPoison | with_reducible apply KeepsParts.cutAll | with_reducible apply KeepsParts.said)
    | split
    | intro)

theorem execGetVersion_keeps {z0 : State} (via : Src) (s : State) (hz : Keeps z0 s) :
    KeepsO z0 (execGetVersion via s) := by
  unfold execGetVersion
  try dsimp only
  repeat' (first
    | with_reducible assumption
    | with_reducible apply KeepsO.next
    | with_reducible apply State.respond_keeps
    | with_reducible apply State.toStage_keeps
    | split
    | intro)

theorem execGetCapabilities_keeps {z0 : State} (via : Src) (size : Nat) (s : State) (hz : Keeps z0 s) :
    KeepsO z0 (execGetCapabilities via size s) := by
  unfold execGetCapabilities
  try dsimp only
  repeat' (first
    | with_reducible assumption
    | with_reducible apply KeepsO.next
    | with_reducible apply State.respond_keeps
    | with_reducible apply State.spdmError_keeps
    | with_reducible apply State.setSpdm_keeps
    | with_reducible apply State.negotiated_keeps
    | with_reducible apply State.toStage_keeps
    | (simp only [keeps_mk]; first | with_reducible apply KeepsParts.of | with_reducible apply KeepsParts.free | with_reducible apply KeepsParts.cut | with_reducible apply KeepsParts.cutMem | with_reducible apply KeepsParts.cutPoison | with_reducible apply KeepsParts.cutAll | with_reducible apply KeepsParts.said)
    | split
    | intro)

theorem execNegotiateAlgorithms_keeps {z0 : State} (via : Src) (asym hash dhe aead : Nat) (s : State) (hz : Keeps z0 s) :
    KeepsO z0 (execNegotiateAlgorithms via asym hash dhe aead s) := by
  unfold execNegotiateAlgorithms
  try dsimp only
  repeat' (first
    | with_reducible assumption
    | with_reducible apply KeepsO.next
    | with_reducible apply State.respond_keeps
    | with_reducible apply State.spdmError_keeps
    | with_reducible apply State.negotiated_keeps
    | with_reducible apply State.toStage_keeps
    | split
    | intro)

theorem execGetDigests_keeps {z0 : State} (via : Src) (s : State) (hz : Keeps z0 s) :
    KeepsO z0 (execGetDigests via s) := by
  unfold execGetDigests
  try dsimp only
  repeat' (first
    | with_reducible assumption
    | with_reducible apply KeepsO.next
    | with_reducible apply State.respond_keeps
    | with_reducible apply State.negotiated_keeps
    | split
    | intro)

theorem execGetCertificate_keeps {z0 : State} (via : Src) (slot offset len : Nat) (s : State) (hz : Keeps z0 s) :
    KeepsO z0 (execGetCertificate via slot offset len s) := by
  unfold execGetCertificate
  try dsimp only
  repeat' (first
    | with_reducible assumption
    | with_reducible apply KeepsO.next
    | with_reducible apply State.respond_keeps
    | with_reducible apply State.spdmError_keeps
    | with_reducible apply State.negotiated_keeps
    | split
    | intro)

theorem execChallenge_keeps {z0 : State} (via : Src) (slot : Nat) (nonce : List Byte) (s : State) (hz : Keeps z0 s) :
    KeepsO z0 (execChallenge via slot nonce s) := by
  unfold execChallenge
  try dsimp only
  repeat' (first
    | with_reducible assumption
    | with_reducible apply KeepsO.next
    | with_reducible apply State.freshBytes_keeps
    | with_reducible apply State.respond_keeps
    | with_reducible apply State.spdmError_keeps
    | with_reducible apply State.negotiated_keeps
    | split
    | intro)

theorem State.report_keeps {z0 : State} (s : State) (p : Nat) (nonce : List Byte) (hz : Keeps z0 s) :
    Keeps z0 (State.report s p nonce).2 := by
  unfold State.report
  try dsimp only
  repeat' (first
    | with_reducible assumption
    | with_reducible apply State.freshBytes_keeps
    | with_reducible apply State.count_keeps
    | with_reducible apply State.sign_keeps
    | (simp only [keeps_mk]; first | with_reducible apply KeepsParts.of | with_reducible apply KeepsParts.free | with_reducible apply KeepsParts.cut | with_reducible apply KeepsParts.cutMem | with_reducible apply KeepsParts.cutPoison | with_reducible apply KeepsParts.cutAll | with_reducible apply KeepsParts.said)
    | split
    | intro)

theorem State.measure_keeps {s0 s : State} {via : Src} {ix : Nat} {nonce : List Byte} {r : Nat × List Byte × State} (e : s.measure via ix nonce = some r)
    (h : Keeps s0 s) : Keeps s0 r.2.2 := by
  unfold State.measure at e
  dsimp only at e
  (repeat' split at e) <;> first | (cases e; done) | (cases e; first | exact h | exact State.report_keeps _ _ _ h)

theorem execGetMeasurements_keeps {z0 : State} (via : Src) (index : Nat) (signed : Bool) (nonce : List Byte) (s : State) (hz : Keeps z0 s) :
    KeepsO z0 (execGetMeasurements via index signed nonce s) := by
  unfold execGetMeasurements
  try dsimp only
  repeat' (first
    | with_reducible assumption
    | with_reducible apply KeepsO.next
    | with_reducible apply State.freshBytes_keeps
    | with_reducible apply State.negotiated_keeps
    | with_reducible apply State.spdmAnswer_keeps
    | with_reducible refine State.measure_keeps (by assumption) ?_
    | (simp only [keeps_mk]; first | with_reducible apply KeepsParts.of | with_reducible apply KeepsParts.free | with_reducible apply KeepsParts.cut | with_reducible apply KeepsParts.cutMem | with_reducible apply KeepsParts.cutPoison | with_reducible apply KeepsParts.cutAll | with_reducible apply KeepsParts.said)
    | split
    | intro)

theorem execChunkGet_keeps {z0 : State} (via : Src) (handle seq : Nat) (s : State) (hz : Keeps z0 s) :
    KeepsO z0 (execChunkGet via handle seq s) := by
  unfold execChunkGet
  try dsimp only
  repeat' (first
    | with_reducible assumption
    | with_reducible apply KeepsO.next
    | with_reducible apply State.respond_keeps
    | with_reducible apply State.spdmError_keeps
    | with_reducible apply State.setSpdm_keeps
    | with_reducible apply State.negotiated_keeps
    | (simp only [keeps_mk]; first | with_reducible apply KeepsParts.of | with_reducible apply KeepsParts.free | with_reducible apply KeepsParts.cut | with_reducible apply KeepsParts.cutMem | with_reducible apply KeepsParts.cutPoison | with_reducible apply KeepsParts.cutAll | with_reducible apply KeepsParts.said)
    | split
    | intro)

theorem execKeyExchange_keeps {z0 : State} (via : Src) (s : State) (hz : Keeps z0 s) :
    KeepsO z0 (execKeyExchange via s) := by
  unfold execKeyExchange
  try dsimp only
  repeat' (first
    | with_reducible assumption
    | with_reducible apply KeepsO.next
    | with_reducible apply State.freshBytes_keeps
    | with_reducible apply State.respond_keeps
    | with_reducible apply State.spdmError_keeps
    | with_reducible apply State.setSpdm_keeps
    | with_reducible apply State.negotiated_keeps
    | (simp only [keeps_mk]; first | with_reducible apply KeepsParts.of | with_reducible apply KeepsParts.free | with_reducible apply KeepsParts.cut | with_reducible apply KeepsParts.cutMem | with_reducible apply KeepsParts.cutPoison | with_reducible apply KeepsParts.cutAll | with_reducible apply KeepsParts.said)
    | split
    | intro)

theorem State.inSession_keeps {z0 : State} (s : State) (via : Src) (id : Nat) (live : Bool) (k : State → State) (hz : Keeps z0 s) (hk : ∀ t, Keeps z0 t → Keeps z0 (k t)) :
    Keeps z0 (State.inSession s via id live k) := by
  unfold State.inSession
  try dsimp only
  repeat' (first
    | with_reducible assumption
    | with_reducible apply hk
    | with_reducible apply State.respond_keeps
    | with_reducible apply State.spdmError_keeps
    | (simp only [keeps_mk]; first | with_reducible apply KeepsParts.of | with_reducible apply KeepsParts.free | with_reducible apply KeepsParts.cut | with_reducible apply KeepsParts.cutMem | with_reducible apply KeepsParts.cutPoison | with_reducible apply KeepsParts.cutAll | with_reducible apply KeepsParts.said)
    | split
    | intro)

theorem State.setSession_keeps {z0 : State} (s : State) (id : Nat) (f : SpdmSess → SpdmSess) (hz : Keeps z0 s) :
    Keeps z0 (State.setSession s id f) := by
  unfold State.setSession
  try dsimp only
  repeat' (first
    | with_reducible assumption
    | with_reducible apply State.setSpdm_keeps
    | (simp only [keeps_mk]; first | with_reducible apply KeepsParts.of | with_reducible apply KeepsParts.free | with_reducible apply KeepsParts.cut | with_reducible apply KeepsParts.cutMem | with_reducible apply KeepsParts.cutPoison | with_reducible apply KeepsParts.cutAll | with_reducible apply KeepsParts.said)
    | split
    | intro)

theorem execFinish_keeps {z0 : State} (via : Src) (id : Nat) (s : State) (hz : Keeps z0 s) :
    KeepsO z0 (execFinish via id s) := by
  unfold execFinish
  try dsimp only
  repeat' (first
    | with_reducible assumption
    | with_reducible apply KeepsO.next
    | with_reducible apply State.respond_keeps
    | with_reducible apply State.count_keeps
    | with_reducible apply State.inSession_keeps
    | with_reducible apply State.setSession_keeps
    | (simp only [keeps_mk]; first | with_reducible apply KeepsParts.of | with_reducible apply KeepsParts.free | with_reducible apply KeepsParts.cut | with_reducible apply KeepsParts.cutMem | with_reducible apply KeepsParts.cutPoison | with_reducible apply KeepsParts.cutAll | with_reducible apply KeepsParts.said)
    | split
    | intro)

theorem execSpdmHeartbeat_keeps {z0 : State} (via : Src) (id : Nat) (s : State) (hz : Keeps z0 s) :
    KeepsO z0 (execSpdmHeartbeat via id s) := by
  unfold execSpdmHeartbeat
  try dsimp only
  repeat' (first
    | with_reducible assumption
    | with_reducible apply KeepsO.next
    | with_reducible apply State.respond_keeps
    | with_reducible apply State.inSession_keeps
    | split
    | intro)

theorem execKeyUpdate_keeps {z0 : State} (via : Src) (id : Nat) (s : State) (hz : Keeps z0 s) :
    KeepsO z0 (execKeyUpdate via id s) := by
  unfold execKeyUpdate
  try dsimp only
  repeat' (first
    | with_reducible assumption
    | with_reducible apply KeepsO.next
    | with_reducible apply State.respond_keeps
    | with_reducible apply State.inSession_keeps
    | with_reducible apply State.setSession_keeps
    | (simp only [keeps_mk]; first | with_reducible apply KeepsParts.of | with_reducible apply KeepsParts.free | with_reducible apply KeepsParts.cut | with_reducible apply KeepsParts.cutMem | with_reducible apply KeepsParts.cutPoison | with_reducible apply KeepsParts.cutAll | with_reducible apply KeepsParts.said)
    | split
    | intro)

theorem execEndSession_keeps {z0 : State} (via : Src) (id : Nat) (s : State) (hz : Keeps z0 s) :
    KeepsO z0 (execEndSession via id s) := by
  unfold execEndSession
  try dsimp only
  repeat' (first
    | with_reducible assumption
    | with_reducible apply KeepsO.next
    | with_reducible apply State.respond_keeps
    | with_reducible apply State.setSpdm_keeps
    | with_reducible apply State.inSession_keeps
    | (simp only [keeps_mk]; first | with_reducible apply KeepsParts.of | with_reducible apply KeepsParts.free | with_reducible apply KeepsParts.cut | with_reducible apply KeepsParts.cutMem | with_reducible apply KeepsParts.cutPoison | with_reducible apply KeepsParts.cutAll | with_reducible apply KeepsParts.said)
    | split
    | intro)

theorem execIdeKm_keeps {z0 : State} (via : Src) (id stream : Nat) (on : Bool) (s : State) (hz : Keeps z0 s) :
    KeepsO z0 (execIdeKm via id stream on s) := by
  unfold execIdeKm
  try dsimp only
  repeat' (first
    | with_reducible assumption
    | with_reducible apply KeepsO.next
    | with_reducible apply State.put_keeps
    | with_reducible apply State.respond_keeps
    | with_reducible apply State.spdmError_keeps
    | with_reducible apply State.setSpdm_keeps
    | with_reducible apply State.inSession_keeps
    | (simp only [keeps_mk]; first | with_reducible apply KeepsParts.of | with_reducible apply KeepsParts.free | with_reducible apply KeepsParts.cut | with_reducible apply KeepsParts.cutMem | with_reducible apply KeepsParts.cutPoison | with_reducible apply KeepsParts.cutAll | with_reducible apply KeepsParts.said)
    | split
    | intro)

theorem State.pageService_keeps {z0 : State} (s : State) (hz : Keeps z0 s) :
    Keeps z0 (State.pageService s) := by
  unfold State.pageService
  try dsimp only
  repeat' (first
    | with_reducible assumption
    | with_reducible apply State.put_keeps
    | with_reducible apply State.irq_keeps
    | with_reducible apply foldl_keeps
    | with_reducible apply foldl_fst_keeps
    | with_reducible apply foldl_snd_keeps
    | split
    | intro)

theorem State.pgeAborts_keeps {z0 : State} (s : State) (e : Nat) (hz : Keeps z0 s) :
    Keeps z0 (State.pgeAborts s e) := by
  unfold State.pgeAborts
  try dsimp only
  repeat' (first
    | with_reducible assumption
    | with_reducible apply State.abortMig_keeps
    | with_reducible apply foldl_keeps
    | with_reducible apply foldl_fst_keeps
    | with_reducible apply foldl_snd_keeps
    | split
    | intro)

theorem State.resumes_keeps {z0 : State} (s : State) (u : UnitId) (hz : Keeps z0 s) :
    Keeps z0 (State.resumes s u) := by
  unfold State.resumes
  try dsimp only
  repeat' (first
    | with_reducible assumption
    | with_reducible apply State.setLinkState_keeps
    | with_reducible apply State.goesOn_keeps
    | with_reducible apply State.grant_keeps
    | with_reducible apply State.memRequest_keeps
    | with_reducible apply State.releaseMem_keeps
    | with_reducible apply State.tierRequest_keeps
    | with_reducible apply State.pageService_keeps
    | (simp only [keeps_mk]; first | with_reducible apply KeepsParts.of | with_reducible apply KeepsParts.free | with_reducible apply KeepsParts.cut | with_reducible apply KeepsParts.cutMem | with_reducible apply KeepsParts.cutPoison | with_reducible apply KeepsParts.cutAll | with_reducible apply KeepsParts.said)
    | split
    | intro)

theorem State.drainEnds_keeps {z0 : State} (s : State) (u : UnitId) (hz : Keeps z0 s) :
    Keeps z0 (State.drainEnds s u) := by
  unfold State.drainEnds
  try dsimp only
  repeat' (first
    | with_reducible assumption
    | with_reducible apply State.irq_keeps
    | with_reducible apply State.quiesce_keeps
    | with_reducible apply State.setLink_keeps
    | with_reducible apply State.sendControl_keeps
    | with_reducible apply State.portOff_keeps
    | with_reducible apply State.resumes_keeps
    | (simp only [keeps_mk]; first | with_reducible apply KeepsParts.of | with_reducible apply KeepsParts.free | with_reducible apply KeepsParts.cut | with_reducible apply KeepsParts.cutMem | with_reducible apply KeepsParts.cutPoison | with_reducible apply KeepsParts.cutAll | with_reducible apply KeepsParts.said)
    | split
    | intro)

theorem execUnitDrainComplete_keeps {z0 : State} (u : UnitId) (s : State) (hz : Keeps z0 s) :
    KeepsO z0 (execUnitDrainComplete u s) := by
  unfold execUnitDrainComplete
  try dsimp only
  repeat' (first
    | with_reducible assumption
    | with_reducible apply KeepsO.next
    | with_reducible apply State.drainEnds_keeps
    | split
    | intro)

theorem State.ceAbort_keeps {z0 : State} (s : State) (u : UnitId) (hz : Keeps z0 s) :
    Keeps z0 (State.ceAbort s u) := by
  unfold State.ceAbort
  try dsimp only
  repeat' (first
    | with_reducible assumption
    | with_reducible apply State.endCeLane_keeps
    | with_reducible apply State.endColl_keeps
    | with_reducible apply State.cancelAt_keeps
    | with_reducible apply foldl_keeps
    | with_reducible apply foldl_fst_keeps
    | with_reducible apply foldl_snd_keeps
    | split
    | intro)

theorem State.forceNow_keeps {z0 : State} (s : State) (u : UnitId) (hz : Keeps z0 s) :
    Keeps z0 (State.forceNow s u) := by
  unfold State.forceNow
  try dsimp only
  repeat' (first
    | with_reducible assumption
    | with_reducible apply State.setLink_keeps
    | with_reducible apply State.journaled_keeps
    | with_reducible apply State.abandonStep_keeps
    | with_reducible apply State.portOff_keeps
    | with_reducible apply State.goDown_keeps
    | with_reducible apply State.unroutable_keeps
    | with_reducible apply State.takePacket_keeps
    | with_reducible apply foldl_keeps
    | with_reducible apply foldl_fst_keeps
    | with_reducible apply foldl_snd_keeps
    | (simp only [keeps_mk]; first | with_reducible apply KeepsParts.of | with_reducible apply KeepsParts.free | with_reducible apply KeepsParts.cut | with_reducible apply KeepsParts.cutMem | with_reducible apply KeepsParts.cutPoison | with_reducible apply KeepsParts.cutAll | with_reducible apply KeepsParts.said)
    | split
    | intro)

theorem execBreakPointAbort_keeps {z0 : State} (u : UnitId) (s : State) (hz : Keeps z0 s) :
    KeepsO z0 (execBreakPointAbort u s) := by
  unfold execBreakPointAbort
  try dsimp only
  repeat' (first
    | with_reducible assumption
    | with_reducible apply KeepsO.next
    | with_reducible apply State.breakPoint_keeps
    | with_reducible apply State.ceAbort_keeps
    | split
    | intro)

theorem State.enableClear_keeps {z0 : State} (s : State) (u : UnitId) (hz : Keeps z0 s) :
    Keeps z0 (State.enableClear s u) := by
  unfold State.enableClear
  try dsimp only
  repeat' (first
    | with_reducible assumption
    | with_reducible apply State.put_keeps
    | with_reducible apply State.setState_keeps
    | with_reducible apply State.setLink_keeps
    | with_reducible apply State.dummyOut_keeps
    | with_reducible apply State.pageService_keeps
    | with_reducible apply State.pgeAborts_keeps
    | with_reducible apply State.forceNow_keeps
    | (simp only [keeps_mk]; first | with_reducible apply KeepsParts.of | with_reducible apply KeepsParts.free | with_reducible apply KeepsParts.cut | with_reducible apply KeepsParts.cutMem | with_reducible apply KeepsParts.cutPoison | with_reducible apply KeepsParts.cutAll | with_reducible apply KeepsParts.said)
    | split
    | intro)

theorem State.enableSet_keeps {z0 : State} (s : State) (u : UnitId) (hz : Keeps z0 s) :
    Keeps z0 (State.enableSet s u) := by
  unfold State.enableSet
  try dsimp only
  repeat' (first
    | with_reducible assumption
    | with_reducible apply State.put_keeps
    | with_reducible apply State.setState_keeps
    | with_reducible apply State.resumes_keeps
    | split
    | intro)

theorem State.freezeTo_keeps {z0 : State} (s : State) (u : UnitId) (on : Bool) (hz : Keeps z0 s) :
    Keeps z0 (State.freezeTo s u on) := by
  unfold State.freezeTo
  try dsimp only
  repeat' (first
    | with_reducible assumption
    | with_reducible apply State.put_keeps
    | with_reducible apply State.resumes_keeps
    | split
    | intro)

theorem State.forceTo_keeps {z0 : State} (s : State) (u : UnitId) (on : Bool) (hz : Keeps z0 s) :
    Keeps z0 (State.forceTo s u on) := by
  unfold State.forceTo
  try dsimp only
  repeat' (first
    | with_reducible assumption
    | with_reducible apply State.put_keeps
    | with_reducible apply State.forceNow_keeps
    | split
    | intro)

theorem State.expertTo_keeps {z0 : State} (s : State) (u : UnitId) (src : Src) (on : Bool) (hz : Keeps z0 s) :
    Keeps z0 (State.expertTo s u src on) := by
  unfold State.expertTo
  try dsimp only
  repeat' (first
    | with_reducible assumption
    | with_reducible apply State.put_keeps
    | with_reducible apply State.eventM_keeps
    | (simp only [keeps_mk]; first | with_reducible apply KeepsParts.of | with_reducible apply KeepsParts.free | with_reducible apply KeepsParts.cut | with_reducible apply KeepsParts.cutMem | with_reducible apply KeepsParts.cutPoison | with_reducible apply KeepsParts.cutAll | with_reducible apply KeepsParts.said)
    | split
    | intro)

theorem State.onPage_keeps {z0 : State} (s : State) (u : UnitId) (src : Src) (k : State → State) (hz : Keeps z0 s) (hk : ∀ t, Keeps z0 t → Keeps z0 (k t)) :
    KeepsO z0 (State.onPage s u src k) := by
  unfold State.onPage
  try dsimp only
  repeat' (first
    | with_reducible assumption
    | with_reducible apply KeepsO.next
    | with_reducible apply hk
    | split
    | intro)

theorem execCtrlEnableClear_keeps {z0 : State} (u : UnitId) (src : Src) (s : State) (hz : Keeps z0 s) :
    KeepsO z0 (execCtrlEnableClear u src s) := by
  unfold execCtrlEnableClear
  try dsimp only
  repeat' (first
    | with_reducible assumption
    | with_reducible apply KeepsO.next
    | with_reducible apply State.enableClear_keeps
    | with_reducible apply State.onPage_keeps
    | split
    | intro)

theorem execCtrlEnableSet_keeps {z0 : State} (u : UnitId) (src : Src) (s : State) (hz : Keeps z0 s) :
    KeepsO z0 (execCtrlEnableSet u src s) := by
  unfold execCtrlEnableSet
  try dsimp only
  repeat' (first
    | with_reducible assumption
    | with_reducible apply KeepsO.next
    | with_reducible apply State.enableSet_keeps
    | with_reducible apply State.onPage_keeps
    | split
    | intro)

theorem execCtrlFreeze_keeps {z0 : State} (u : UnitId) (src : Src) (on : Bool) (s : State) (hz : Keeps z0 s) :
    KeepsO z0 (execCtrlFreeze u src on s) := by
  unfold execCtrlFreeze
  try dsimp only
  repeat' (first
    | with_reducible assumption
    | with_reducible apply KeepsO.next
    | with_reducible apply State.freezeTo_keeps
    | with_reducible apply State.onPage_keeps
    | split
    | intro)

theorem execCtrlForce_keeps {z0 : State} (u : UnitId) (src : Src) (s : State) (hz : Keeps z0 s) :
    KeepsO z0 (execCtrlForce u src s) := by
  unfold execCtrlForce
  try dsimp only
  repeat' (first
    | with_reducible assumption
    | with_reducible apply KeepsO.next
    | with_reducible apply State.forceTo_keeps
    | with_reducible apply State.onPage_keeps
    | split
    | intro)

theorem execCtrlExpertEn_keeps {z0 : State} (u : UnitId) (src : Src) (s : State) (hz : Keeps z0 s) :
    KeepsO z0 (execCtrlExpertEn u src s) := by
  unfold execCtrlExpertEn
  try dsimp only
  repeat' (first
    | with_reducible assumption
    | with_reducible apply KeepsO.next
    | with_reducible apply State.expertTo_keeps
    | with_reducible apply State.onPage_keeps
    | split
    | intro)

theorem State.ceTakeover_keeps {z0 : State} (s : State) (u : UnitId) (hz : Keeps z0 s) :
    Keeps z0 (State.ceTakeover s u) := by
  unfold State.ceTakeover
  try dsimp only
  repeat' (first
    | with_reducible assumption
    | with_reducible apply State.irq_keeps
    | with_reducible apply State.eventM_keeps
    | with_reducible apply State.endColl_keeps
    | with_reducible apply State.cancelGroup_keeps
    | with_reducible apply foldl_keeps
    | with_reducible apply foldl_fst_keeps
    | with_reducible apply foldl_snd_keeps
    | split
    | intro)

theorem State.pgeLost_keeps {z0 : State} (s : State) (e : Nat) (hz : Keeps z0 s) :
    Keeps z0 (State.pgeLost s e) := by
  unfold State.pgeLost
  try dsimp only
  repeat' (first
    | with_reducible assumption
    | with_reducible apply State.fresh_keeps
    | with_reducible apply State.setPge_keeps
    | with_reducible apply State.startSweep_keeps
    | with_reducible apply State.pageService_keeps
    | with_reducible apply State.pgeAborts_keeps
    | with_reducible apply foldl_keeps
    | with_reducible apply foldl_fst_keeps
    | with_reducible apply foldl_snd_keeps
    | split
    | intro)

theorem State.unitFault_keeps {z0 : State} (s : State) (u : UnitId) (hz : Keeps z0 s) :
    Keeps z0 (State.unitFault s u) := by
  unfold State.unitFault
  try dsimp only
  repeat' (first
    | with_reducible assumption
    | with_reducible apply State.fresh_keeps
    | with_reducible apply State.faultUnit_keeps
    | with_reducible apply State.goDown_keeps
    | with_reducible apply State.goesOn_keeps
    | with_reducible apply State.ceTakeover_keeps
    | with_reducible apply State.pgeLost_keeps
    | with_reducible apply foldl_keeps
    | with_reducible apply foldl_fst_keeps
    | with_reducible apply foldl_snd_keeps
    | (simp only [keeps_mk]; first | with_reducible apply KeepsParts.of | with_reducible apply KeepsParts.free | with_reducible apply KeepsParts.cut | with_reducible apply KeepsParts.cutMem | with_reducible apply KeepsParts.cutPoison | with_reducible apply KeepsParts.cutAll | with_reducible apply KeepsParts.said)
    | split
    | intro)

theorem execUnitFault_keeps {z0 : State} (u : UnitId) (s : State) (hz : Keeps z0 s) :
    KeepsO z0 (execUnitFault u s) := by
  unfold execUnitFault
  try dsimp only
  repeat' (first
    | with_reducible assumption
    | with_reducible apply KeepsO.next
    | with_reducible apply State.unitFault_keeps
    | split
    | intro)

theorem State.irqClear_keeps {z0 : State} (s : State) (u : UnitId) (mask : Nat) (hz : Keeps z0 s) :
    Keeps z0 (State.irqClear s u mask) := by
  unfold State.irqClear
  try dsimp only
  repeat' (first
    | with_reducible assumption
    | with_reducible apply State.put_keeps
    | split
    | intro)

theorem execIrqStatusClear_keeps {z0 : State} (u : UnitId) (src : Src) (mask : Nat) (s : State) (hz : Keeps z0 s) :
    KeepsO z0 (execIrqStatusClear u src mask s) := by
  unfold execIrqStatusClear
  try dsimp only
  repeat' (first
    | with_reducible assumption
    | with_reducible apply KeepsO.next
    | with_reducible apply State.onPage_keeps
    | with_reducible apply State.irqClear_keeps
    | split
    | intro)

theorem execIrqForce_keeps {z0 : State} (u : UnitId) (src : Src) (mask : Nat) (s : State) (hz : Keeps z0 s) :
    KeepsO z0 (execIrqForce u src mask s) := by
  unfold execIrqForce
  try dsimp only
  repeat' (first
    | with_reducible assumption
    | with_reducible apply KeepsO.next
    | with_reducible apply State.irq_keeps
    | with_reducible apply State.onPage_keeps
    | split
    | intro)

theorem State.takeSnapshot_keeps {z0 : State} (s : State) (u : UnitId) (hz : Keeps z0 s) :
    Keeps z0 (State.takeSnapshot s u) := by
  unfold State.takeSnapshot
  try dsimp only
  repeat' (first
    | with_reducible assumption
    | with_reducible apply State.put_keeps
    | with_reducible apply foldl_keeps
    | with_reducible apply foldl_fst_keeps
    | with_reducible apply foldl_snd_keeps
    | (simp only [keeps_mk]; first | with_reducible apply KeepsParts.of | with_reducible apply KeepsParts.free | with_reducible apply KeepsParts.cut | with_reducible apply KeepsParts.cutMem | with_reducible apply KeepsParts.cutPoison | with_reducible apply KeepsParts.cutAll | with_reducible apply KeepsParts.said)
    | split
    | intro)

theorem State.clearCounts_keeps {z0 : State} (s : State) (u : UnitId) (withSnapshot : Bool) (hz : Keeps z0 s) :
    Keeps z0 (State.clearCounts s u withSnapshot) := by
  unfold State.clearCounts
  try dsimp only
  repeat' (first
    | with_reducible assumption
    | with_reducible apply State.put_keeps
    | (simp only [keeps_mk]; first | with_reducible apply KeepsParts.of | with_reducible apply KeepsParts.free | with_reducible apply KeepsParts.cut | with_reducible apply KeepsParts.cutMem | with_reducible apply KeepsParts.cutPoison | with_reducible apply KeepsParts.cutAll | with_reducible apply KeepsParts.said)
    | split
    | intro)

theorem execSnapshot_keeps {z0 : State} (u : UnitId) (src : Src) (s : State) (hz : Keeps z0 s) :
    KeepsO z0 (execSnapshot u src s) := by
  unfold execSnapshot
  try dsimp only
  repeat' (first
    | with_reducible assumption
    | with_reducible apply KeepsO.next
    | with_reducible apply State.onPage_keeps
    | with_reducible apply State.takeSnapshot_keeps
    | split
    | intro)

theorem execClear_keeps {z0 : State} (u : UnitId) (src : Src) (withSnapshot : Bool) (s : State) (hz : Keeps z0 s) :
    KeepsO z0 (execClear u src withSnapshot s) := by
  unfold execClear
  try dsimp only
  repeat' (first
    | with_reducible assumption
    | with_reducible apply KeepsO.next
    | with_reducible apply State.onPage_keeps
    | with_reducible apply State.takeSnapshot_keeps
    | with_reducible apply State.clearCounts_keeps
    | split
    | intro)

theorem State.readSide_keeps {z0 : State} (s : State) (src : Src) (u : UnitId) (off : Nat) (hz : Keeps z0 s) :
    Keeps z0 (State.readSide s src u off) := by
  unfold State.readSide
  try dsimp only
  repeat' (first
    | with_reducible assumption
    | with_reducible apply State.put_keeps
    | with_reducible apply State.alert_keeps
    | with_reducible apply foldl_keeps
    | with_reducible apply foldl_fst_keeps
    | with_reducible apply foldl_snd_keeps
    | (simp only [keeps_mk]; first | with_reducible apply KeepsParts.of | with_reducible apply KeepsParts.free | with_reducible apply KeepsParts.cut | with_reducible apply KeepsParts.cutMem | with_reducible apply KeepsParts.cutPoison | with_reducible apply KeepsParts.cutAll | with_reducible apply KeepsParts.said)
    | split
    | intro)

theorem State.readWord_keeps {z0 : State} (s : State) (src : Src) (page off : Nat) (hz : Keeps z0 s) :
    Keeps z0 (State.readWord s src page off).2 := by
  unfold State.readWord
  try dsimp only
  repeat' (first
    | with_reducible assumption
    | with_reducible apply State.readSide_keeps
    | (simp only [keeps_mk]; first | with_reducible apply KeepsParts.of | with_reducible apply KeepsParts.free | with_reducible apply KeepsParts.cut | with_reducible apply KeepsParts.cutMem | with_reducible apply KeepsParts.cutPoison | with_reducible apply KeepsParts.cutAll | with_reducible apply KeepsParts.said)
    | split
    | intro)

theorem State.busRead_keeps {z0 : State} (s : State) (src : Src) (addr size : Nat) (hz : Keeps z0 s) :
    Keeps z0 (State.busRead s src addr size).2 := by
  unfold State.busRead
  try dsimp only
  repeat' (first
    | with_reducible assumption
    | with_reducible apply State.readWord_keeps
    | split
    | intro)

theorem execErrLogRead_keeps {z0 : State} (u : UnitId) (src : Src) (s : State) (hz : Keeps z0 s) :
    KeepsO z0 (execErrLogRead u src s) := by
  unfold execErrLogRead
  try dsimp only
  repeat' (first
    | with_reducible assumption
    | with_reducible apply KeepsO.next
    | with_reducible apply State.respond_keeps
    | with_reducible apply State.busRead_keeps
    | split
    | intro)

theorem State.readWords_keeps {z0 : State} : ∀ (x0 : Nat) (s : State) (src : Src) (page off : Nat) , Keeps z0 s → Keeps z0 (State.readWords s src page off x0).2 := by
  intro x0
  induction x0 with
  | zero =>
    intro s src page off hz
    have ih := hz
    unfold State.readWords
    try dsimp only
    repeat' (first
      | with_reducible assumption
      | with_reducible apply ih
      | with_reducible apply State.readWord_keeps
      | split
      | intro)
  | succ n ih =>
    intro s src page off hz
    unfold State.readWords
    try dsimp only
    repeat' (first
      | with_reducible assumption
      | with_reducible apply ih
      | with_reducible apply State.readWord_keeps
      | split
      | intro)

theorem execRegRead_keeps {z0 : State} (page off count : Nat) (s : State) (hz : Keeps z0 s) :
    KeepsO z0 (execRegRead page off count s) := by
  unfold execRegRead
  try dsimp only
  repeat' (first
    | with_reducible assumption
    | with_reducible apply KeepsO.next
    | with_reducible apply State.respond_keeps
    | with_reducible apply State.served_keeps
    | with_reducible apply State.readWords_keeps
    | split
    | intro)

theorem State.after_keeps {s0 : State} (s : State) (k : State → Host.Outcome State Fault Refusal) (h : Keeps s0 s)
    (hk : ∀ t, Keeps s0 t → KeepsO s0 (k t)) : Keeps s0 (s.after k) := by
  have h1 := hk s h
  unfold State.after
  split
  · exact h1 _ ‹_›
  · exact h

theorem State.mailbox_keeps {z0 : State} (s : State) (src : Src) (hz : Keeps z0 s) :
    Keeps z0 (State.mailbox s src) := by
  unfold State.mailbox
  try dsimp only
  repeat' (first
    | with_reducible assumption
    | with_reducible apply KeepsO.next
    | with_reducible apply State.mboxEnd_keeps
    | with_reducible refine State.mboxTake_keeps (by assumption) ?_
    | with_reducible apply execSessionOpen_keeps
    | with_reducible apply execSessionClose_keeps
    | with_reducible apply execImportBegin_keeps
    | with_reducible apply execImportRun_keeps
    | with_reducible apply execImportEnd_keeps
    | with_reducible apply execImportAbort_keeps
    | with_reducible apply execUnseal_keeps
    | with_reducible apply execDebugChallenge_keeps
    | with_reducible apply execDebugUnlock_keeps
    | with_reducible apply State.after_keeps
    | (simp only [keeps_mk]; first | with_reducible apply KeepsParts.of | with_reducible apply KeepsParts.free | with_reducible apply KeepsParts.cut | with_reducible apply KeepsParts.cutMem | with_reducible apply KeepsParts.cutPoison | with_reducible apply KeepsParts.cutAll | with_reducible apply KeepsParts.said)
    | split
    | intro)

theorem State.bootGo_keeps {z0 : State} (s : State) (src : Src) (hz : Keeps z0 s) :
    Keeps z0 (State.bootGo s src) := by
  unfold State.bootGo
  try dsimp only
  repeat' (first
    | with_reducible assumption
    | with_reducible apply KeepsO.next
    | with_reducible apply State.cmdIgnored_keeps
    | with_reducible apply execRestart_keeps
    | with_reducible apply execEnterRecovery_keeps
    | with_reducible apply execLeaveRecovery_keeps
    | with_reducible apply execToService_keeps
    | with_reducible apply execEnterMinimal_keeps
    | with_reducible apply execClearFails_keeps
    | with_reducible apply State.after_keeps
    | (simp only [keeps_mk]; first | with_reducible apply KeepsParts.of | with_reducible apply KeepsParts.free | with_reducible apply KeepsParts.cut | with_reducible apply KeepsParts.cutMem | with_reducible apply KeepsParts.cutPoison | with_reducible apply KeepsParts.cutAll | with_reducible apply KeepsParts.said)
    | split
    | intro)

theorem State.command_keeps {z0 : State} (s : State) (src : Src) (u : UnitId) (f : Field) (ones : Nat) (hz : Keeps z0 s) :
    Keeps z0 (State.command s src u f ones).1 := by
  unfold State.command
  try dsimp only
  repeat' (first
    | with_reducible assumption
    | with_reducible apply KeepsO.next
    | with_reducible apply execPlanLoad_keeps
    | with_reducible apply execPlanUnload_keeps
    | with_reducible apply execCmdRetrain_keeps
    | with_reducible apply execInjectBadSlot_keeps
    | with_reducible apply execInjectLoss_keeps
    | with_reducible apply execCeInjectCrc_keeps
    | with_reducible apply execCeInjectDigest_keeps
    | with_reducible apply execTblInjectCe_keeps
    | with_reducible apply execTblInjectUe_keeps
    | with_reducible apply execMemInjectEdc_keeps
    | with_reducible apply execMemInjectTag_keeps
    | with_reducible apply execTierInjectTag_keeps
    | with_reducible apply execParkCmd_keeps
    | with_reducible apply execWakeCmd_keeps
    | with_reducible apply execResetCompute_keeps
    | with_reducible apply execOpen_keeps
    | with_reducible apply execCommit_keeps
    | with_reducible apply execAbort_keeps
    | with_reducible apply execRelease_keeps
    | with_reducible apply execCapture_keeps
    | with_reducible apply execImageUpdate_keeps
    | with_reducible apply State.after_keeps
    | with_reducible apply State.mailbox_keeps
    | with_reducible apply State.bootGo_keeps
    | (simp only [keeps_mk]; first | with_reducible apply KeepsParts.of | with_reducible apply KeepsParts.free | with_reducible apply KeepsParts.cut | with_reducible apply KeepsParts.cutMem | with_reducible apply KeepsParts.cutPoison | with_reducible apply KeepsParts.cutAll | with_reducible apply KeepsParts.said)
    | split
    | intro)

theorem State.takes_keeps {z0 : State} (s : State) (u : UnitId) (f : Field) (v : Nat) (hz : Keeps z0 s) :
    Keeps z0 (State.takes s u f v).1 := by
  unfold State.takes
  try dsimp only
  repeat' (first
    | with_reducible assumption
    | with_reducible apply State.put_keeps
    | split
    | intro)

theorem State.irqEnableTo_keeps {z0 : State} (s : State) (u : UnitId) (v : Nat) (hz : Keeps z0 s) :
    Keeps z0 (State.irqEnableTo s u v) := by
  unfold State.irqEnableTo
  try dsimp only
  repeat' (first
    | with_reducible assumption
    | with_reducible apply State.put_keeps
    | with_reducible apply State.pageInterrupt_keeps
    | split
    | intro)

theorem State.writePlain_keeps {z0 : State} (s : State) (src : Src) (u : UnitId) (f : Field) (v : Nat) (hz : Keeps z0 s) :
    Keeps z0 (State.writePlain s src u f v).1 := by
  unfold State.writePlain
  try dsimp only
  repeat' (first
    | with_reducible assumption
    | with_reducible apply KeepsO.next
    | with_reducible apply State.put_keeps
    | with_reducible apply execMevtEnable_keeps
    | with_reducible apply execMevtHeadWrite_keeps
    | with_reducible apply execInjectLaneFail_keeps
    | with_reducible apply execRouteWrite_keeps
    | with_reducible apply execTelemSel_keeps
    | with_reducible apply State.applyCap_keeps
    | with_reducible apply execHostCapWrite_keeps
    | with_reducible apply State.after_keeps
    | with_reducible apply State.takes_keeps
    | with_reducible apply State.irqEnableTo_keeps
    | (simp only [keeps_mk]; first | with_reducible apply KeepsParts.of | with_reducible apply KeepsParts.free | with_reducible apply KeepsParts.cut | with_reducible apply KeepsParts.cutMem | with_reducible apply KeepsParts.cutPoison | with_reducible apply KeepsParts.cutAll | with_reducible apply KeepsParts.said)
    | split
    | intro)

theorem State.writeField_keeps {z0 : State} (s : State) (src : Src) (secured : Bool) (u : UnitId) (f : Field) (off mask value : Nat) (hz : Keeps z0 s) :
    Keeps z0 (State.writeField s src secured u f off mask value).1 := by
  unfold State.writeField
  try dsimp only
  repeat' (first
    | with_reducible assumption
    | with_reducible apply State.put_keeps
    | with_reducible apply State.irq_keeps
    | with_reducible apply State.shadow_keeps
    | with_reducible apply State.shadowWrite_keeps
    | with_reducible apply State.irqClear_keeps
    | with_reducible apply State.command_keeps
    | with_reducible apply State.writePlain_keeps
    | (simp only [keeps_mk]; first | with_reducible apply KeepsParts.of | with_reducible apply KeepsParts.free | with_reducible apply KeepsParts.cut | with_reducible apply KeepsParts.cutMem | with_reducible apply KeepsParts.cutPoison | with_reducible apply KeepsParts.cutAll | with_reducible apply KeepsParts.said)
    | split
    | intro)

theorem State.writeCtrl_keeps {z0 : State} (s : State) (src : Src) (u : UnitId) (mask value : Nat) (hz : Keeps z0 s) :
    Keeps z0 (State.writeCtrl s src u mask value).1 := by
  unfold State.writeCtrl
  try dsimp only
  repeat' (first
    | with_reducible assumption
    | with_reducible apply State.enableClear_keeps
    | with_reducible apply State.enableSet_keeps
    | with_reducible apply State.freezeTo_keeps
    | with_reducible apply State.forceTo_keeps
    | with_reducible apply State.expertTo_keeps
    | split
    | intro)

theorem State.writeCntCtrl_keeps {z0 : State} (s : State) (u : UnitId) (mask value : Nat) (hz : Keeps z0 s) :
    Keeps z0 (State.writeCntCtrl s u mask value).1 := by
  unfold State.writeCntCtrl
  try dsimp only
  repeat' (first
    | with_reducible assumption
    | with_reducible apply State.takeSnapshot_keeps
    | with_reducible apply State.clearCounts_keeps
    | split
    | intro)

theorem State.writeWord_keeps {z0 : State} (s : State) (src : Src) (secured : Bool) (u : UnitId) (off mask value : Nat) (hz : Keeps z0 s) :
    Keeps z0 (State.writeWord s src secured u off mask value).1 := by
  unfold State.writeWord
  try dsimp only
  repeat' (first
    | with_reducible assumption
    | with_reducible apply State.writeField_keeps
    | with_reducible apply State.writeCtrl_keeps
    | with_reducible apply State.writeCntCtrl_keeps
    | with_reducible apply foldl_keeps
    | with_reducible apply foldl_fst_keeps
    | with_reducible apply foldl_snd_keeps
    | split
    | intro)

theorem State.accessEnds_keeps {z0 : State} (s : State) (u : UnitId) (off size : Nat) (ts : List Taken) (hz : Keeps z0 s) :
    Keeps z0 (State.accessEnds s u off size ts) := by
  unfold State.accessEnds
  try dsimp only
  repeat' (first
    | with_reducible assumption
    | with_reducible apply State.shadow_keeps
    | with_reducible apply State.accessEvent_keeps
    | with_reducible apply State.shadowed_keeps
    | split
    | intro)

theorem State.pageWrite_keeps {z0 : State} (s : State) (src : Src) (page off size data : Nat) (hz : Keeps z0 s) :
    Keeps z0 (State.pageWrite s src page off size data) := by
  unfold State.pageWrite
  try dsimp only
  repeat' (first
    | with_reducible assumption
    | with_reducible apply State.writeWord_keeps
    | with_reducible apply State.accessEnds_keeps
    | (simp only [keeps_mk]; first | with_reducible apply KeepsParts.of | with_reducible apply KeepsParts.free | with_reducible apply KeepsParts.cut | with_reducible apply KeepsParts.cutMem | with_reducible apply KeepsParts.cutPoison | with_reducible apply KeepsParts.cutAll | with_reducible apply KeepsParts.said)
    | split
    | intro)

theorem State.msixWrite_keeps {z0 : State} (s : State) (vf : Option Nat) (off data : Nat) (hz : Keeps z0 s) :
    Keeps z0 (State.msixWrite s vf off data) := by
  unfold State.msixWrite
  try dsimp only
  repeat' (first
    | with_reducible assumption
    | with_reducible apply State.setWord_keeps
    | with_reducible apply State.msix_keeps
    | split
    | intro)

theorem State.ringWrite_keeps {z0 : State} (s : State) (src : Src) (p off data : Nat) (hz : Keeps z0 s) :
    Keeps z0 (State.ringWrite s src p off data) := by
  unfold State.ringWrite
  try dsimp only
  repeat' (first
    | with_reducible assumption
    | with_reducible apply KeepsO.next
    | with_reducible apply State.setWin_keeps
    | with_reducible apply execRq0Doorbell_keeps
    | with_reducible apply execRq1Doorbell_keeps
    | with_reducible apply execTokHeadWrite_keeps
    | with_reducible apply execEvtHeadWrite_keeps
    | with_reducible apply execHifStatusClear_keeps
    | with_reducible apply execRingsEnable_keeps
    | with_reducible apply execRingsDisable_keeps
    | with_reducible apply State.after_keeps
    | with_reducible apply foldl_keeps
    | with_reducible apply foldl_fst_keeps
    | with_reducible apply foldl_snd_keeps
    | split
    | intro)

theorem State.windowWrite_keeps {z0 : State} (s : State) (src : Src) (a data : Nat) (hz : Keeps z0 s) :
    Keeps z0 (State.windowWrite s src a data) := by
  unfold State.windowWrite
  try dsimp only
  repeat' (first
    | with_reducible assumption
    | with_reducible apply State.msixWrite_keeps
    | with_reducible apply State.ringWrite_keeps
    | (simp only [keeps_mk]; first | with_reducible apply KeepsParts.of | with_reducible apply KeepsParts.free | with_reducible apply KeepsParts.cut | with_reducible apply KeepsParts.cutMem | with_reducible apply KeepsParts.cutPoison | with_reducible apply KeepsParts.cutAll | with_reducible apply KeepsParts.said)
    | split
    | intro)

theorem State.busWrite_keeps {z0 : State} (s : State) (src : Src) (addr size data : Nat) (hz : Keeps z0 s) :
    Keeps z0 (State.busWrite s src addr size data) := by
  unfold State.busWrite
  try dsimp only
  repeat' (first
    | with_reducible assumption
    | with_reducible apply State.accessEvent_keeps
    | with_reducible apply State.pageWrite_keeps
    | with_reducible apply State.windowWrite_keeps
    | split
    | intro)

theorem execRegisterWrite_keeps {z0 : State} (src : Src) (addr size data : Nat) (s : State) (hz : Keeps z0 s) :
    KeepsO z0 (execRegisterWrite src addr size data s) := by
  unfold execRegisterWrite
  try dsimp only
  repeat' (first
    | with_reducible assumption
    | with_reducible apply KeepsO.next
    | with_reducible apply State.busWrite_keeps
    | split
    | intro)

theorem execRwtWrite_keeps {z0 : State} (src : Src) (addr size data : Nat) (s : State) (hz : Keeps z0 s) :
    KeepsO z0 (execRwtWrite src addr size data s) := by
  unfold execRwtWrite
  try dsimp only
  repeat' (first
    | with_reducible assumption
    | with_reducible apply KeepsO.next
    | with_reducible apply State.busWrite_keeps
    | split
    | intro)

theorem execRegWrite_keeps {z0 : State} (page off mask value : Nat) (secured : Bool) (s : State) (hz : Keeps z0 s) :
    KeepsO z0 (execRegWrite page off mask value secured s) := by
  unfold execRegWrite
  try dsimp only
  repeat' (first
    | with_reducible assumption
    | with_reducible apply KeepsO.next
    | with_reducible apply State.respond_keeps
    | with_reducible apply State.served_keeps
    | with_reducible apply State.writeWord_keeps
    | with_reducible apply State.accessEnds_keeps
    | (simp only [keeps_mk]; first | with_reducible apply KeepsParts.of | with_reducible apply KeepsParts.free | with_reducible apply KeepsParts.cut | with_reducible apply KeepsParts.cutMem | with_reducible apply KeepsParts.cutPoison | with_reducible apply KeepsParts.cutAll | with_reducible apply KeepsParts.said)
    | split
    | intro)

end Sys2Proof.Machine
end

