-- ==== Sys2Proof/Laws/Registers.lean ====
section
/-!
SUPPORT. Laws of the registers: a field that was written reads as the value written, cut to its width; a field elsewhere keeps its value.
-/
namespace Sys2Proof

/-- A number as the part above a field, the field, and the part below. -/
theorem bits_split (v lo w : Nat) : v = (v / 2 ^ lo / 2 ^ w * 2 ^ w + bits v lo w) * 2 ^ lo + v % 2 ^ lo := by
  have h1 := Nat.div_add_mod' v (2 ^ lo)
  have h2 := Nat.div_add_mod' (v / 2 ^ lo) (2 ^ w)
  unfold bits
  rw [h2, h1]

/-- What setting a field does to those parts. -/
theorem setBits_eq (v lo w x : Nat) : setBits v lo w x = (v / 2 ^ lo / 2 ^ w * 2 ^ w + x % 2 ^ w) * 2 ^ lo + v % 2 ^ lo := by
  have h := bits_split v lo w
  unfold setBits
  have hb : bits v lo w * 2 ^ lo ≤ v := by
    conv => rhs; rw [h]
    rw [Nat.add_mul]; omega
  rw [Nat.add_mul] at h ⊢
  omega

theorem bits_lt (v lo w : Nat) : bits v lo w < 2 ^ w := Nat.mod_lt _ (Nat.two_pow_pos w)

theorem setBits_div (v lo w x : Nat) : setBits v lo w x / 2 ^ lo = v / 2 ^ lo / 2 ^ w * 2 ^ w + x % 2 ^ w := by
  rw [setBits_eq, Nat.add_comm, Nat.add_mul_div_right _ _ (Nat.two_pow_pos lo), Nat.div_eq_of_lt (Nat.mod_lt _ (Nat.two_pow_pos lo)), Nat.zero_add]

theorem setBits_mod (v lo w x : Nat) : setBits v lo w x % 2 ^ lo = v % 2 ^ lo := by
  rw [setBits_eq, Nat.add_comm, Nat.add_mul_mod_self_right, Nat.mod_mod]

/-- The field that was set. -/
theorem bits_setBits_same (v lo w x : Nat) : bits (setBits v lo w x) lo w = x % 2 ^ w := by
  unfold bits
  rw [setBits_div, Nat.add_comm, Nat.add_mul_mod_self_right, Nat.mod_mod]

/-- A field above the one that was set. -/
theorem bits_setBits_above (v lo w x lo' w' : Nat) (h : lo + w ≤ lo') : bits (setBits v lo w x) lo' w' = bits v lo' w' := by
  obtain ⟨k, rfl⟩ := Nat.exists_eq_add_of_le h
  unfold bits
  rw [Nat.pow_add, Nat.pow_add, ← Nat.div_div_eq_div_mul, ← Nat.div_div_eq_div_mul, setBits_div, Nat.add_comm,
    Nat.add_mul_div_right _ _ (Nat.two_pow_pos w), Nat.div_eq_of_lt (Nat.mod_lt _ (Nat.two_pow_pos w)), Nat.zero_add,
    ← Nat.div_div_eq_div_mul, ← Nat.div_div_eq_div_mul]

/-- A field below the one that was set. -/
theorem bits_setBits_below (v lo w x lo' w' : Nat) (h : lo' + w' ≤ lo) : bits (setBits v lo w x) lo' w' = bits v lo' w' := by
  obtain ⟨k, rfl⟩ := Nat.exists_eq_add_of_le h
  have low : ∀ n, bits n lo' w' = bits (n % 2 ^ (lo' + w' + k)) lo' w' := by
    intro n
    unfold bits
    rw [Nat.add_assoc, Nat.pow_add, Nat.mod_mul_right_div_self, Nat.pow_add 2 w' k, Nat.mod_mul_right_mod]
  rw [low, setBits_mod, ← low]

theorem setBits_lt (v lo w x n : Nat) (hv : v < 2 ^ n) (h : lo + w ≤ n) : setBits v lo w x < 2 ^ n := by
  obtain ⟨k, rfl⟩ := Nat.exists_eq_add_of_le h
  have hx : x % 2 ^ w < 2 ^ w := Nat.mod_lt _ (Nat.two_pow_pos w)
  have hl : v % 2 ^ lo < 2 ^ lo := Nat.mod_lt _ (Nat.two_pow_pos lo)
  have hh : v / 2 ^ lo / 2 ^ w < 2 ^ k := by
    rw [Nat.div_div_eq_div_mul, ← Nat.pow_add]
    exact Nat.div_lt_of_lt_mul (by rwa [← Nat.pow_add])
  rw [setBits_eq]
  have h1 : v / 2 ^ lo / 2 ^ w * 2 ^ w + x % 2 ^ w < 2 ^ k * 2 ^ w := by
    calc _ < v / 2 ^ lo / 2 ^ w * 2 ^ w + 2 ^ w := by omega
      _ = (v / 2 ^ lo / 2 ^ w + 1) * 2 ^ w := by ring
      _ ≤ 2 ^ k * 2 ^ w := Nat.mul_le_mul_right _ hh
  calc _ < (v / 2 ^ lo / 2 ^ w * 2 ^ w + x % 2 ^ w) * 2 ^ lo + 2 ^ lo := by omega
    _ = (v / 2 ^ lo / 2 ^ w * 2 ^ w + x % 2 ^ w + 1) * 2 ^ lo := by ring
    _ ≤ (2 ^ k * 2 ^ w) * 2 ^ lo := Nat.mul_le_mul_right _ h1
    _ = 2 ^ (lo + w + k) := by rw [Nat.pow_add, Nat.pow_add]; ring

namespace Machine

theorem State.word_setWord_same (s : State) (a : Nat) (w : Word) : (s.setWord a w).word a = w :=
  Sparse.get_set_same _ _ _ _

theorem State.word_setWord_other (s : State) (w : Word) {a b : Nat} (h : b ≠ a) : (s.setWord a w).word b = s.word b :=
  Sparse.get_set_other _ _ h _

theorem State.setWords_wf : ∀ (n : Nat) (s : State) (a v : Nat), Sparse.wf wordReset s.regs = true →
    Sparse.wf wordReset (s.setWords a n v).regs = true
  | 0, _, _, _, h => h
  | n + 1, _, a, v, h => State.setWords_wf n _ (a + 4) (v / 2 ^ 32) (Sparse.wf_set _ _ _ h)

/-- A word outside those written keeps its value. -/
theorem State.word_setWords_other : ∀ (n : Nat) (s : State) (a v b : Nat), (∀ i, i < n → b ≠ a + 4 * i) → (s.setWords a n v).word b = s.word b
  | 0, _, _, _, _, _ => rfl
  | n + 1, s, a, v, b, h => by
    rw [State.setWords, State.word_setWords_other n _ (a + 4) _ b (fun i hi => by have := h (i + 1) (by omega); omega)]
    exact State.word_setWord_other s _ (by have := h 0 (by omega); omega)

theorem State.words_congr : ∀ (n : Nat) (s t : State) (a : Nat), (∀ i, i < n → t.word (a + 4 * i) = s.word (a + 4 * i)) → t.words a n = s.words a n
  | 0, _, _, _, _ => rfl
  | n + 1, s, t, a, h => by
    rw [State.words, State.words, State.words_congr n s t (a + 4) (fun i hi => by
      have := h (i + 1) (by omega); rwa [show a + 4 + 4 * i = a + 4 * (i + 1) by ring]), show t.word a = s.word a from h 0 (by omega)]

theorem State.words_lt : ∀ (n : Nat) (s : State) (a : Nat), s.words a n < 2 ^ (32 * n)
  | 0, _, _ => by simp [State.words]
  | n + 1, s, a => by
    have h1 := (s.word a).isLt
    have h2 := State.words_lt n s (a + 4)
    rw [State.words, show 32 * (n + 1) = 32 * n + 32 by ring, Nat.pow_add]
    omega

/-- The words that were written. -/
theorem State.words_setWords_same : ∀ (n : Nat) (s : State) (a v : Nat), v < 2 ^ (32 * n) →
    (s.setWords a n v).words a n = v
  | 0, s, a, v, h => by simp [State.words] at *; omega
  | n + 1, s, a, v, h => by
    have hd : v / 2 ^ 32 < 2 ^ (32 * n) := by
      rw [show 32 * (n + 1) = 32 + 32 * n by ring, Nat.pow_add] at h
      exact Nat.div_lt_of_lt_mul h
    rw [State.setWords, State.words, State.words_setWords_same n _ (a + 4) _ hd,
      State.word_setWords_other n _ (a + 4) _ a (fun i _ => by omega), State.word_setWord_same s a _, BitVec.toNat_ofNat]
    omega

/-- A field lies in the words that it touches. -/
theorem fieldSpan_le (base : Nat) (f : Field) : (fieldPos base f).2 + f.width ≤ 32 * fieldSpan base f := by
  unfold fieldSpan; omega

theorem State.put_wf (s : State) (u : UnitId) (f : Field) (v : Nat) (h : Sparse.wf wordReset s.regs = true) :
    Sparse.wf wordReset (s.put u f v).regs = true := State.setWords_wf _ _ _ _ h

/-- The words that a field was written into. -/
theorem State.words_setAt (s : State) (base : Nat) (f : Field) (v : Nat) :
    (s.setAt base f v).words (fieldPos base f).1 (fieldSpan base f) =
      setBits (s.words (fieldPos base f).1 (fieldSpan base f)) (fieldPos base f).2 f.width v :=
  State.words_setWords_same _ _ _ _ (setBits_lt _ _ _ _ _ (State.words_lt _ _ _) (fieldSpan_le base f))

/-- A field that was written reads as the value written, cut to its width (R9). -/
theorem State.getAt_setAt_same (s : State) (base : Nat) (f : Field) (v : Nat) :
    (s.setAt base f v).getAt base f = v % 2 ^ f.width := by
  rw [State.getAt, State.words_setAt s base f v, bits_setBits_same]

theorem State.get_put_same (s : State) (u : UnitId) (f : Field) (v : Nat) :
    (s.put u f v).get u f = v % 2 ^ f.width := State.getAt_setAt_same s _ f v

/-- A field in other words keeps its value. -/
theorem State.getAt_setAt_apart (s : State) (base base' : Nat) (f g : Field) (v : Nat)
    (h : (fieldPos base' g).1 + 4 * fieldSpan base' g ≤ (fieldPos base f).1 ∨ (fieldPos base f).1 + 4 * fieldSpan base f ≤ (fieldPos base' g).1) :
    (s.setAt base f v).getAt base' g = s.getAt base' g := by
  rw [State.getAt, State.getAt, State.words_congr _ s]
  intro i hi
  refine State.word_setWords_other _ _ _ _ _ (fun j hj => ?_)
  omega

/-- A field in the same words and in other bits keeps its value. -/
theorem State.getAt_setAt_beside (s : State) (base base' : Nat) (f g : Field) (v : Nat)
    (ha : (fieldPos base' g).1 = (fieldPos base f).1) (hs : fieldSpan base' g = fieldSpan base f)
    (hb : (fieldPos base' g).2 + g.width ≤ (fieldPos base f).2 ∨ (fieldPos base f).2 + f.width ≤ (fieldPos base' g).2) :
    (s.setAt base f v).getAt base' g = s.getAt base' g := by
  rw [State.getAt, State.getAt, ha, hs, State.words_setAt s base f v]
  rcases hb with hb | hb
  · exact bits_setBits_below _ _ _ _ _ _ hb
  · exact bits_setBits_above _ _ _ _ _ _ hb

/-- Two fields of one page that share no bit, as a check on their places. -/
def fieldsApart (f g : Field) : Bool :=
  let a := fieldPos 0 f
  let b := fieldPos 0 g
  decide (b.1 + 4 * fieldSpan 0 g ≤ a.1) || decide (a.1 + 4 * fieldSpan 0 f ≤ b.1) ||
    (decide (b.1 = a.1) && decide (fieldSpan 0 g = fieldSpan 0 f) && (decide (b.2 + g.width ≤ a.2) || decide (a.2 + f.width ≤ b.2)))

theorem fieldPos_base (n : Nat) (f : Field) : fieldPos (n * 0x1000) f = (n * 0x1000 + (fieldPos 0 f).1, (fieldPos 0 f).2) := by
  unfold fieldPos
  refine Prod.ext ?_ ?_ <;> dsimp only <;> omega

theorem fieldSpan_base (n : Nat) (f : Field) : fieldSpan (n * 0x1000) f = fieldSpan 0 f := by
  unfold fieldSpan
  rw [fieldPos_base]

/-- Every field's home is a page. -/
theorem home_page (u : UnitId) (f : Field) : ∃ n, u.home f = n * 0x1000 := by
  unfold UnitId.home
  cases f.reach
  · exact ⟨u.page, rfl⟩
  · exact ⟨blkBase u.blk, rfl⟩
  · exact ⟨blkBase u.blk + u.ix / 33 * 33, rfl⟩

/-- A write of a field leaves another field of the same page. -/
theorem State.get_put_other (s : State) (u w : UnitId) (f g : Field) (v : Nat) (h : u.home f = w.home g) (ha : fieldsApart f g = true) :
    (s.put u f v).get w g = s.get w g := by
  obtain ⟨n, hn⟩ := home_page u f
  simp only [fieldsApart, Bool.or_eq_true, Bool.and_eq_true, decide_eq_true_eq] at ha
  unfold State.get State.put
  rw [← h, hn]
  rcases ha with ha | ⟨⟨ha, hs⟩, hb⟩
  · refine State.getAt_setAt_apart _ _ _ _ _ _ ?_
    simp only [fieldPos_base, fieldSpan_base]
    omega
  · refine State.getAt_setAt_beside _ _ _ _ _ _ ?_ ?_ ?_
    · simp only [fieldPos_base]; omega
    · simp only [fieldSpan_base]; exact hs
    · simp only [fieldPos_base]; exact hb

/-- A field's words lie within its page. -/
def fieldWithin (f : Field) : Bool := decide ((fieldPos 0 f).1 + 4 * fieldSpan 0 f ≤ 0x1000)

/-- A write of a field of one page leaves the fields of another. -/
theorem State.get_put_page (s : State) (u w : UnitId) (f g : Field) (v : Nat) (h : u.home f ≠ w.home g)
    (wf : fieldWithin f = true) (wg : fieldWithin g = true) : (s.put u f v).get w g = s.get w g := by
  obtain ⟨n, hn⟩ := home_page u f
  obtain ⟨m, hm⟩ := home_page w g
  simp only [fieldWithin, decide_eq_true_eq] at wf wg
  unfold State.get State.put
  rw [hn, hm] at h ⊢
  refine State.getAt_setAt_apart _ _ _ _ _ _ ?_
  simp only [fieldPos_base, fieldSpan_base]
  omega

end Machine
end Sys2Proof
end

