-- ==== Sys2Proof/Laws/State.lean ====
section
/-!
SUPPORT. What each base update of State leaves alone and what it sets: one lemma per field and per reader.
-/
namespace Sys2Proof.Machine

/-- The same registers hold the same words. -/
theorem State.words_of_regs {s t : State} (h : t.regs = s.regs) : ∀ (n a : Nat), t.words a n = s.words a n
  | 0, _ => rfl
  | n + 1, a => by
    unfold State.words
    rw [State.words_of_regs h n, State.word, State.word, h]

/-- The same registers give a field the same value. -/
theorem State.get_of_regs {s t : State} (h : t.regs = s.regs) (v : UnitId) (f : Field) : t.get v f = s.get v f := by
  rw [State.get, State.get, State.getAt, State.getAt, State.words_of_regs h]

variable (s : State)

/-! ## setWord -/

@[simp] theorem State.setWord_pending (a : Nat) (w : Word) : (s.setWord a w).pending = s.pending := rfl
@[simp] theorem State.setWord_counts (a : Nat) (w : Word) : (s.setWord a w).counts = s.counts := rfl
@[simp] theorem State.setWord_snaps (a : Nat) (w : Word) : (s.setWord a w).snaps = s.snaps := rfl
@[simp] theorem State.setWord_mem (a : Nat) (w : Word) : (s.setWord a w).mem = s.mem := rfl
@[simp] theorem State.setWord_poison (a : Nat) (w : Word) : (s.setWord a w).poison = s.poison := rfl
@[simp] theorem State.setWord_resv (a : Nat) (w : Word) : (s.setWord a w).resv = s.resv := rfl
@[simp] theorem State.setWord_hurt (a : Nat) (w : Word) : (s.setWord a w).hurt = s.hurt := rfl
@[simp] theorem State.setWord_cache (a : Nat) (w : Word) : (s.setWord a w).cache = s.cache := rfl
@[simp] theorem State.setWord_tbl (a : Nat) (w : Word) : (s.setWord a w).tbl = s.tbl := rfl
@[simp] theorem State.setWord_memWait (a : Nat) (w : Word) : (s.setWord a w).memWait = s.memWait := rfl
@[simp] theorem State.setWord_tierOut (a : Nat) (w : Word) : (s.setWord a w).tierOut = s.tierOut := rfl
@[simp] theorem State.setWord_scoreboard (a : Nat) (w : Word) : (s.setWord a w).scoreboard = s.scoreboard := rfl
@[simp] theorem State.setWord_parts (a : Nat) (w : Word) : (s.setWord a w).parts = s.parts := rfl
@[simp] theorem State.setWord_pge (a : Nat) (w : Word) : (s.setWord a w).pge = s.pge := rfl
@[simp] theorem State.setWord_units (a : Nat) (w : Word) : (s.setWord a w).units = s.units := rfl
@[simp] theorem State.setWord_talon (a : Nat) (w : Word) : (s.setWord a w).talon = s.talon := rfl
@[simp] theorem State.setWord_sec (a : Nat) (w : Word) : (s.setWord a w).sec = s.sec := rfl
@[simp] theorem State.setWord_secMod (a : Nat) (w : Word) : (s.setWord a w).secMod = s.secMod := rfl
@[simp] theorem State.setWord_pwr (a : Nat) (w : Word) : (s.setWord a w).pwr = s.pwr := rfl
@[simp] theorem State.setWord_txn (a : Nat) (w : Word) : (s.setWord a w).txn = s.txn := rfl
@[simp] theorem State.setWord_net (a : Nat) (w : Word) : (s.setWord a w).net = s.net := rfl
@[simp] theorem State.setWord_coll (a : Nat) (w : Word) : (s.setWord a w).coll = s.coll := rfl
@[simp] theorem State.setWord_grps (a : Nat) (w : Word) : (s.setWord a w).grps = s.grps := rfl
@[simp] theorem State.setWord_txnNextId (a : Nat) (w : Word) : (s.setWord a w).txnNextId = s.txnNextId := rfl
@[simp] theorem State.setWord_modWait (a : Nat) (w : Word) : (s.setWord a w).modWait = s.modWait := rfl
@[simp] theorem State.setWord_modSeq (a : Nat) (w : Word) : (s.setWord a w).modSeq = s.modSeq := rfl
@[simp] theorem State.setWord_modLost (a : Nat) (w : Word) : (s.setWord a w).modLost = s.modLost := rfl
@[simp] theorem State.setWord_modUnsig (a : Nat) (w : Word) : (s.setWord a w).modUnsig = s.modUnsig := rfl
@[simp] theorem State.setWord_coal (a : Nat) (w : Word) : (s.setWord a w).coal = s.coal := rfl
@[simp] theorem State.setWord_held (a : Nat) (w : Word) : (s.setWord a w).held = s.held := rfl
@[simp] theorem State.setWord_trngBad (a : Nat) (w : Word) : (s.setWord a w).trngBad = s.trngBad := rfl
@[simp] theorem State.setWord_memWin (a : Nat) (w : Word) : (s.setWord a w).memWin = s.memWin := rfl
@[simp] theorem State.setWord_memHeld (a : Nat) (w : Word) : (s.setWord a w).memHeld = s.memHeld := rfl
@[simp] theorem State.setWord_merge (a : Nat) (w : Word) : (s.setWord a w).merge = s.merge := rfl
@[simp] theorem State.setWord_recovering (a : Nat) (w : Word) : (s.setWord a w).recovering = s.recovering := rfl
@[simp] theorem State.setWord_pred (a : Nat) (w : Word) : (s.setWord a w).pred = s.pred := rfl
@[simp] theorem State.setWord_sys (a : Nat) (w : Word) : (s.setWord a w).sys = s.sys := rfl
@[simp] theorem State.setWord_mgt (a : Nat) (w : Word) : (s.setWord a w).mgt = s.mgt := rfl
@[simp] theorem State.setWord_spdm (a : Nat) (w : Word) : (s.setWord a w).spdm = s.spdm := rfl
@[simp] theorem State.setWord_freeIdx (a : Nat) (w : Word) : (s.setWord a w).freeIdx = s.freeIdx := rfl
@[simp] theorem State.setWord_resp (a : Nat) (w : Word) : (s.setWord a w).resp = s.resp := rfl
@[simp] theorem State.setWord_out (a : Nat) (w : Word) : (s.setWord a w).out = s.out := rfl
@[simp] theorem State.setWord_part (a : Nat) (w : Word) (q : Nat) : (s.setWord a w).part q = s.part q := rfl
@[simp] theorem State.setWord_pgePart (a : Nat) (w : Word) (q : Nat) : (s.setWord a w).pgePart q = s.pgePart q := rfl
@[simp] theorem State.setWord_unit (a : Nat) (w : Word) (v : UnitId) : (s.setWord a w).unit v = s.unit v := rfl
@[simp] theorem State.setWord_byte (a : Nat) (w : Word) (k : Nat) : (s.setWord a w).byte k = s.byte k := rfl
@[simp] theorem State.setWord_secPart (a : Nat) (w : Word) (q : Nat) : (s.setWord a w).secPart q = s.secPart q := rfl
@[simp] theorem State.setWord_grpRec (a : Nat) (w : Word) (q : Nat) : (s.setWord a w).grpRec q = s.grpRec q := rfl
@[simp] theorem State.setWord_counterVal (a : Nat) (w : Word) (q : Nat) : (s.setWord a w).counterVal q = s.counterVal q := rfl
@[simp] theorem State.setWord_bank (a : Nat) (w : Word) (v : UnitId) : (s.setWord a w).bank v = s.bank v := rfl
@[simp] theorem State.setWord_live (a : Nat) (w : Word) (v : UnitId) (k : Nat) : (s.setWord a w).live v k = s.live v k := rfl

/-! ## emit -/

@[simp] theorem State.emit_pending (o : Out) : (s.emit o).pending = s.pending := rfl
@[simp] theorem State.emit_regs (o : Out) : (s.emit o).regs = s.regs := rfl
@[simp] theorem State.emit_counts (o : Out) : (s.emit o).counts = s.counts := rfl
@[simp] theorem State.emit_snaps (o : Out) : (s.emit o).snaps = s.snaps := rfl
@[simp] theorem State.emit_mem (o : Out) : (s.emit o).mem = s.mem := rfl
@[simp] theorem State.emit_poison (o : Out) : (s.emit o).poison = s.poison := rfl
@[simp] theorem State.emit_resv (o : Out) : (s.emit o).resv = s.resv := rfl
@[simp] theorem State.emit_hurt (o : Out) : (s.emit o).hurt = s.hurt := rfl
@[simp] theorem State.emit_cache (o : Out) : (s.emit o).cache = s.cache := rfl
@[simp] theorem State.emit_tbl (o : Out) : (s.emit o).tbl = s.tbl := rfl
@[simp] theorem State.emit_memWait (o : Out) : (s.emit o).memWait = s.memWait := rfl
@[simp] theorem State.emit_tierOut (o : Out) : (s.emit o).tierOut = s.tierOut := rfl
@[simp] theorem State.emit_scoreboard (o : Out) : (s.emit o).scoreboard = s.scoreboard := rfl
@[simp] theorem State.emit_parts (o : Out) : (s.emit o).parts = s.parts := rfl
@[simp] theorem State.emit_pge (o : Out) : (s.emit o).pge = s.pge := rfl
@[simp] theorem State.emit_units (o : Out) : (s.emit o).units = s.units := rfl
@[simp] theorem State.emit_talon (o : Out) : (s.emit o).talon = s.talon := rfl
@[simp] theorem State.emit_sec (o : Out) : (s.emit o).sec = s.sec := rfl
@[simp] theorem State.emit_secMod (o : Out) : (s.emit o).secMod = s.secMod := rfl
@[simp] theorem State.emit_pwr (o : Out) : (s.emit o).pwr = s.pwr := rfl
@[simp] theorem State.emit_txn (o : Out) : (s.emit o).txn = s.txn := rfl
@[simp] theorem State.emit_net (o : Out) : (s.emit o).net = s.net := rfl
@[simp] theorem State.emit_coll (o : Out) : (s.emit o).coll = s.coll := rfl
@[simp] theorem State.emit_grps (o : Out) : (s.emit o).grps = s.grps := rfl
@[simp] theorem State.emit_txnNextId (o : Out) : (s.emit o).txnNextId = s.txnNextId := rfl
@[simp] theorem State.emit_modWait (o : Out) : (s.emit o).modWait = s.modWait := rfl
@[simp] theorem State.emit_modSeq (o : Out) : (s.emit o).modSeq = s.modSeq := rfl
@[simp] theorem State.emit_modLost (o : Out) : (s.emit o).modLost = s.modLost := rfl
@[simp] theorem State.emit_modUnsig (o : Out) : (s.emit o).modUnsig = s.modUnsig := rfl
@[simp] theorem State.emit_coal (o : Out) : (s.emit o).coal = s.coal := rfl
@[simp] theorem State.emit_held (o : Out) : (s.emit o).held = s.held := rfl
@[simp] theorem State.emit_trngBad (o : Out) : (s.emit o).trngBad = s.trngBad := rfl
@[simp] theorem State.emit_memWin (o : Out) : (s.emit o).memWin = s.memWin := rfl
@[simp] theorem State.emit_memHeld (o : Out) : (s.emit o).memHeld = s.memHeld := rfl
@[simp] theorem State.emit_merge (o : Out) : (s.emit o).merge = s.merge := rfl
@[simp] theorem State.emit_recovering (o : Out) : (s.emit o).recovering = s.recovering := rfl
@[simp] theorem State.emit_pred (o : Out) : (s.emit o).pred = s.pred := rfl
@[simp] theorem State.emit_sys (o : Out) : (s.emit o).sys = s.sys := rfl
@[simp] theorem State.emit_mgt (o : Out) : (s.emit o).mgt = s.mgt := rfl
@[simp] theorem State.emit_spdm (o : Out) : (s.emit o).spdm = s.spdm := rfl
@[simp] theorem State.emit_freeIdx (o : Out) : (s.emit o).freeIdx = s.freeIdx := rfl
@[simp] theorem State.emit_resp (o : Out) : (s.emit o).resp = s.resp := rfl
@[simp] theorem State.emit_out (o : Out) : (s.emit o).out = s.out ++ [o] := rfl
@[simp] theorem State.emit_get (o : Out) (v : UnitId) (h : Field) : (s.emit o).get v h = s.get v h := State.get_of_regs (s := s) (t := s.emit o) rfl _ _
@[simp] theorem State.emit_part (o : Out) (q : Nat) : (s.emit o).part q = s.part q := rfl
@[simp] theorem State.emit_pgePart (o : Out) (q : Nat) : (s.emit o).pgePart q = s.pgePart q := rfl
@[simp] theorem State.emit_unit (o : Out) (v : UnitId) : (s.emit o).unit v = s.unit v := rfl
@[simp] theorem State.emit_byte (o : Out) (k : Nat) : (s.emit o).byte k = s.byte k := rfl
@[simp] theorem State.emit_secPart (o : Out) (q : Nat) : (s.emit o).secPart q = s.secPart q := rfl
@[simp] theorem State.emit_grpRec (o : Out) (q : Nat) : (s.emit o).grpRec q = s.grpRec q := rfl
@[simp] theorem State.emit_counterVal (o : Out) (q : Nat) : (s.emit o).counterVal q = s.counterVal q := rfl
@[simp] theorem State.emit_bank (o : Out) (v : UnitId) : (s.emit o).bank v = s.bank v := rfl
@[simp] theorem State.emit_live (o : Out) (v : UnitId) (k : Nat) : (s.emit o).live v k = s.live v k := rfl

/-! ## respond -/

@[simp] theorem State.respond_pending (r : List Nat) : (s.respond r).pending = s.pending := rfl
@[simp] theorem State.respond_regs (r : List Nat) : (s.respond r).regs = s.regs := rfl
@[simp] theorem State.respond_counts (r : List Nat) : (s.respond r).counts = s.counts := rfl
@[simp] theorem State.respond_snaps (r : List Nat) : (s.respond r).snaps = s.snaps := rfl
@[simp] theorem State.respond_mem (r : List Nat) : (s.respond r).mem = s.mem := rfl
@[simp] theorem State.respond_poison (r : List Nat) : (s.respond r).poison = s.poison := rfl
@[simp] theorem State.respond_resv (r : List Nat) : (s.respond r).resv = s.resv := rfl
@[simp] theorem State.respond_hurt (r : List Nat) : (s.respond r).hurt = s.hurt := rfl
@[simp] theorem State.respond_cache (r : List Nat) : (s.respond r).cache = s.cache := rfl
@[simp] theorem State.respond_tbl (r : List Nat) : (s.respond r).tbl = s.tbl := rfl
@[simp] theorem State.respond_memWait (r : List Nat) : (s.respond r).memWait = s.memWait := rfl
@[simp] theorem State.respond_tierOut (r : List Nat) : (s.respond r).tierOut = s.tierOut := rfl
@[simp] theorem State.respond_scoreboard (r : List Nat) : (s.respond r).scoreboard = s.scoreboard := rfl
@[simp] theorem State.respond_parts (r : List Nat) : (s.respond r).parts = s.parts := rfl
@[simp] theorem State.respond_pge (r : List Nat) : (s.respond r).pge = s.pge := rfl
@[simp] theorem State.respond_units (r : List Nat) : (s.respond r).units = s.units := rfl
@[simp] theorem State.respond_talon (r : List Nat) : (s.respond r).talon = s.talon := rfl
@[simp] theorem State.respond_sec (r : List Nat) : (s.respond r).sec = s.sec := rfl
@[simp] theorem State.respond_secMod (r : List Nat) : (s.respond r).secMod = s.secMod := rfl
@[simp] theorem State.respond_pwr (r : List Nat) : (s.respond r).pwr = s.pwr := rfl
@[simp] theorem State.respond_txn (r : List Nat) : (s.respond r).txn = s.txn := rfl
@[simp] theorem State.respond_net (r : List Nat) : (s.respond r).net = s.net := rfl
@[simp] theorem State.respond_coll (r : List Nat) : (s.respond r).coll = s.coll := rfl
@[simp] theorem State.respond_grps (r : List Nat) : (s.respond r).grps = s.grps := rfl
@[simp] theorem State.respond_txnNextId (r : List Nat) : (s.respond r).txnNextId = s.txnNextId := rfl
@[simp] theorem State.respond_modWait (r : List Nat) : (s.respond r).modWait = s.modWait := rfl
@[simp] theorem State.respond_modSeq (r : List Nat) : (s.respond r).modSeq = s.modSeq := rfl
@[simp] theorem State.respond_modLost (r : List Nat) : (s.respond r).modLost = s.modLost := rfl
@[simp] theorem State.respond_modUnsig (r : List Nat) : (s.respond r).modUnsig = s.modUnsig := rfl
@[simp] theorem State.respond_coal (r : List Nat) : (s.respond r).coal = s.coal := rfl
@[simp] theorem State.respond_held (r : List Nat) : (s.respond r).held = s.held := rfl
@[simp] theorem State.respond_trngBad (r : List Nat) : (s.respond r).trngBad = s.trngBad := rfl
@[simp] theorem State.respond_memWin (r : List Nat) : (s.respond r).memWin = s.memWin := rfl
@[simp] theorem State.respond_memHeld (r : List Nat) : (s.respond r).memHeld = s.memHeld := rfl
@[simp] theorem State.respond_merge (r : List Nat) : (s.respond r).merge = s.merge := rfl
@[simp] theorem State.respond_recovering (r : List Nat) : (s.respond r).recovering = s.recovering := rfl
@[simp] theorem State.respond_pred (r : List Nat) : (s.respond r).pred = s.pred := rfl
@[simp] theorem State.respond_sys (r : List Nat) : (s.respond r).sys = s.sys := rfl
@[simp] theorem State.respond_mgt (r : List Nat) : (s.respond r).mgt = s.mgt := rfl
@[simp] theorem State.respond_spdm (r : List Nat) : (s.respond r).spdm = s.spdm := rfl
@[simp] theorem State.respond_freeIdx (r : List Nat) : (s.respond r).freeIdx = s.freeIdx := rfl
@[simp] theorem State.respond_resp (r : List Nat) : (s.respond r).resp = r := rfl
@[simp] theorem State.respond_out (r : List Nat) : (s.respond r).out = s.out := rfl
@[simp] theorem State.respond_get (r : List Nat) (v : UnitId) (h : Field) : (s.respond r).get v h = s.get v h := State.get_of_regs (s := s) (t := s.respond r) rfl _ _
@[simp] theorem State.respond_part (r : List Nat) (q : Nat) : (s.respond r).part q = s.part q := rfl
@[simp] theorem State.respond_pgePart (r : List Nat) (q : Nat) : (s.respond r).pgePart q = s.pgePart q := rfl
@[simp] theorem State.respond_unit (r : List Nat) (v : UnitId) : (s.respond r).unit v = s.unit v := rfl
@[simp] theorem State.respond_byte (r : List Nat) (k : Nat) : (s.respond r).byte k = s.byte k := rfl
@[simp] theorem State.respond_secPart (r : List Nat) (q : Nat) : (s.respond r).secPart q = s.secPart q := rfl
@[simp] theorem State.respond_grpRec (r : List Nat) (q : Nat) : (s.respond r).grpRec q = s.grpRec q := rfl
@[simp] theorem State.respond_counterVal (r : List Nat) (q : Nat) : (s.respond r).counterVal q = s.counterVal q := rfl
@[simp] theorem State.respond_bank (r : List Nat) (v : UnitId) : (s.respond r).bank v = s.bank v := rfl
@[simp] theorem State.respond_live (r : List Nat) (v : UnitId) (k : Nat) : (s.respond r).live v k = s.live v k := rfl

/-! ## setPart -/

@[simp] theorem State.setPart_pending (p : Nat) (f : PartRec → PartRec) : (s.setPart p f).pending = s.pending := rfl
@[simp] theorem State.setPart_regs (p : Nat) (f : PartRec → PartRec) : (s.setPart p f).regs = s.regs := rfl
@[simp] theorem State.setPart_counts (p : Nat) (f : PartRec → PartRec) : (s.setPart p f).counts = s.counts := rfl
@[simp] theorem State.setPart_snaps (p : Nat) (f : PartRec → PartRec) : (s.setPart p f).snaps = s.snaps := rfl
@[simp] theorem State.setPart_mem (p : Nat) (f : PartRec → PartRec) : (s.setPart p f).mem = s.mem := rfl
@[simp] theorem State.setPart_poison (p : Nat) (f : PartRec → PartRec) : (s.setPart p f).poison = s.poison := rfl
@[simp] theorem State.setPart_resv (p : Nat) (f : PartRec → PartRec) : (s.setPart p f).resv = s.resv := rfl
@[simp] theorem State.setPart_hurt (p : Nat) (f : PartRec → PartRec) : (s.setPart p f).hurt = s.hurt := rfl
@[simp] theorem State.setPart_cache (p : Nat) (f : PartRec → PartRec) : (s.setPart p f).cache = s.cache := rfl
@[simp] theorem State.setPart_tbl (p : Nat) (f : PartRec → PartRec) : (s.setPart p f).tbl = s.tbl := rfl
@[simp] theorem State.setPart_memWait (p : Nat) (f : PartRec → PartRec) : (s.setPart p f).memWait = s.memWait := rfl
@[simp] theorem State.setPart_tierOut (p : Nat) (f : PartRec → PartRec) : (s.setPart p f).tierOut = s.tierOut := rfl
@[simp] theorem State.setPart_scoreboard (p : Nat) (f : PartRec → PartRec) : (s.setPart p f).scoreboard = s.scoreboard := rfl
@[simp] theorem State.setPart_pge (p : Nat) (f : PartRec → PartRec) : (s.setPart p f).pge = s.pge := rfl
@[simp] theorem State.setPart_units (p : Nat) (f : PartRec → PartRec) : (s.setPart p f).units = s.units := rfl
@[simp] theorem State.setPart_talon (p : Nat) (f : PartRec → PartRec) : (s.setPart p f).talon = s.talon := rfl
@[simp] theorem State.setPart_sec (p : Nat) (f : PartRec → PartRec) : (s.setPart p f).sec = s.sec := rfl
@[simp] theorem State.setPart_secMod (p : Nat) (f : PartRec → PartRec) : (s.setPart p f).secMod = s.secMod := rfl
@[simp] theorem State.setPart_pwr (p : Nat) (f : PartRec → PartRec) : (s.setPart p f).pwr = s.pwr := rfl
@[simp] theorem State.setPart_txn (p : Nat) (f : PartRec → PartRec) : (s.setPart p f).txn = s.txn := rfl
@[simp] theorem State.setPart_net (p : Nat) (f : PartRec → PartRec) : (s.setPart p f).net = s.net := rfl
@[simp] theorem State.setPart_coll (p : Nat) (f : PartRec → PartRec) : (s.setPart p f).coll = s.coll := rfl
@[simp] theorem State.setPart_grps (p : Nat) (f : PartRec → PartRec) : (s.setPart p f).grps = s.grps := rfl
@[simp] theorem State.setPart_txnNextId (p : Nat) (f : PartRec → PartRec) : (s.setPart p f).txnNextId = s.txnNextId := rfl
@[simp] theorem State.setPart_modWait (p : Nat) (f : PartRec → PartRec) : (s.setPart p f).modWait = s.modWait := rfl
@[simp] theorem State.setPart_modSeq (p : Nat) (f : PartRec → PartRec) : (s.setPart p f).modSeq = s.modSeq := rfl
@[simp] theorem State.setPart_modLost (p : Nat) (f : PartRec → PartRec) : (s.setPart p f).modLost = s.modLost := rfl
@[simp] theorem State.setPart_modUnsig (p : Nat) (f : PartRec → PartRec) : (s.setPart p f).modUnsig = s.modUnsig := rfl
@[simp] theorem State.setPart_coal (p : Nat) (f : PartRec → PartRec) : (s.setPart p f).coal = s.coal := rfl
@[simp] theorem State.setPart_held (p : Nat) (f : PartRec → PartRec) : (s.setPart p f).held = s.held := rfl
@[simp] theorem State.setPart_trngBad (p : Nat) (f : PartRec → PartRec) : (s.setPart p f).trngBad = s.trngBad := rfl
@[simp] theorem State.setPart_memWin (p : Nat) (f : PartRec → PartRec) : (s.setPart p f).memWin = s.memWin := rfl
@[simp] theorem State.setPart_memHeld (p : Nat) (f : PartRec → PartRec) : (s.setPart p f).memHeld = s.memHeld := rfl
@[simp] theorem State.setPart_merge (p : Nat) (f : PartRec → PartRec) : (s.setPart p f).merge = s.merge := rfl
@[simp] theorem State.setPart_recovering (p : Nat) (f : PartRec → PartRec) : (s.setPart p f).recovering = s.recovering := rfl
@[simp] theorem State.setPart_pred (p : Nat) (f : PartRec → PartRec) : (s.setPart p f).pred = s.pred := rfl
@[simp] theorem State.setPart_sys (p : Nat) (f : PartRec → PartRec) : (s.setPart p f).sys = s.sys := rfl
@[simp] theorem State.setPart_mgt (p : Nat) (f : PartRec → PartRec) : (s.setPart p f).mgt = s.mgt := rfl
@[simp] theorem State.setPart_spdm (p : Nat) (f : PartRec → PartRec) : (s.setPart p f).spdm = s.spdm := rfl
@[simp] theorem State.setPart_freeIdx (p : Nat) (f : PartRec → PartRec) : (s.setPart p f).freeIdx = s.freeIdx := rfl
@[simp] theorem State.setPart_resp (p : Nat) (f : PartRec → PartRec) : (s.setPart p f).resp = s.resp := rfl
@[simp] theorem State.setPart_out (p : Nat) (f : PartRec → PartRec) : (s.setPart p f).out = s.out := rfl
@[simp] theorem State.setPart_get (p : Nat) (f : PartRec → PartRec) (v : UnitId) (h : Field) : (s.setPart p f).get v h = s.get v h := State.get_of_regs (s := s) (t := s.setPart p f) rfl _ _
@[simp] theorem State.setPart_pgePart (p : Nat) (f : PartRec → PartRec) (q : Nat) : (s.setPart p f).pgePart q = s.pgePart q := rfl
@[simp] theorem State.setPart_unit (p : Nat) (f : PartRec → PartRec) (v : UnitId) : (s.setPart p f).unit v = s.unit v := rfl
@[simp] theorem State.setPart_byte (p : Nat) (f : PartRec → PartRec) (k : Nat) : (s.setPart p f).byte k = s.byte k := rfl
@[simp] theorem State.setPart_secPart (p : Nat) (f : PartRec → PartRec) (q : Nat) : (s.setPart p f).secPart q = s.secPart q := rfl
@[simp] theorem State.setPart_grpRec (p : Nat) (f : PartRec → PartRec) (q : Nat) : (s.setPart p f).grpRec q = s.grpRec q := rfl
@[simp] theorem State.setPart_counterVal (p : Nat) (f : PartRec → PartRec) (q : Nat) : (s.setPart p f).counterVal q = s.counterVal q := rfl
@[simp] theorem State.setPart_bank (p : Nat) (f : PartRec → PartRec) (v : UnitId) : (s.setPart p f).bank v = s.bank v := rfl
@[simp] theorem State.setPart_live (p : Nat) (f : PartRec → PartRec) (v : UnitId) (k : Nat) : (s.setPart p f).live v k = s.live v k := rfl

/-! ## setPge -/

@[simp] theorem State.setPge_pending (p : Nat) (f : PgePart → PgePart) : (s.setPge p f).pending = s.pending := rfl
@[simp] theorem State.setPge_regs (p : Nat) (f : PgePart → PgePart) : (s.setPge p f).regs = s.regs := rfl
@[simp] theorem State.setPge_counts (p : Nat) (f : PgePart → PgePart) : (s.setPge p f).counts = s.counts := rfl
@[simp] theorem State.setPge_snaps (p : Nat) (f : PgePart → PgePart) : (s.setPge p f).snaps = s.snaps := rfl
@[simp] theorem State.setPge_mem (p : Nat) (f : PgePart → PgePart) : (s.setPge p f).mem = s.mem := rfl
@[simp] theorem State.setPge_poison (p : Nat) (f : PgePart → PgePart) : (s.setPge p f).poison = s.poison := rfl
@[simp] theorem State.setPge_resv (p : Nat) (f : PgePart → PgePart) : (s.setPge p f).resv = s.resv := rfl
@[simp] theorem State.setPge_hurt (p : Nat) (f : PgePart → PgePart) : (s.setPge p f).hurt = s.hurt := rfl
@[simp] theorem State.setPge_cache (p : Nat) (f : PgePart → PgePart) : (s.setPge p f).cache = s.cache := rfl
@[simp] theorem State.setPge_tbl (p : Nat) (f : PgePart → PgePart) : (s.setPge p f).tbl = s.tbl := rfl
@[simp] theorem State.setPge_memWait (p : Nat) (f : PgePart → PgePart) : (s.setPge p f).memWait = s.memWait := rfl
@[simp] theorem State.setPge_tierOut (p : Nat) (f : PgePart → PgePart) : (s.setPge p f).tierOut = s.tierOut := rfl
@[simp] theorem State.setPge_scoreboard (p : Nat) (f : PgePart → PgePart) : (s.setPge p f).scoreboard = s.scoreboard := rfl
@[simp] theorem State.setPge_parts (p : Nat) (f : PgePart → PgePart) : (s.setPge p f).parts = s.parts := rfl
@[simp] theorem State.setPge_units (p : Nat) (f : PgePart → PgePart) : (s.setPge p f).units = s.units := rfl
@[simp] theorem State.setPge_talon (p : Nat) (f : PgePart → PgePart) : (s.setPge p f).talon = s.talon := rfl
@[simp] theorem State.setPge_sec (p : Nat) (f : PgePart → PgePart) : (s.setPge p f).sec = s.sec := rfl
@[simp] theorem State.setPge_secMod (p : Nat) (f : PgePart → PgePart) : (s.setPge p f).secMod = s.secMod := rfl
@[simp] theorem State.setPge_pwr (p : Nat) (f : PgePart → PgePart) : (s.setPge p f).pwr = s.pwr := rfl
@[simp] theorem State.setPge_txn (p : Nat) (f : PgePart → PgePart) : (s.setPge p f).txn = s.txn := rfl
@[simp] theorem State.setPge_net (p : Nat) (f : PgePart → PgePart) : (s.setPge p f).net = s.net := rfl
@[simp] theorem State.setPge_coll (p : Nat) (f : PgePart → PgePart) : (s.setPge p f).coll = s.coll := rfl
@[simp] theorem State.setPge_grps (p : Nat) (f : PgePart → PgePart) : (s.setPge p f).grps = s.grps := rfl
@[simp] theorem State.setPge_txnNextId (p : Nat) (f : PgePart → PgePart) : (s.setPge p f).txnNextId = s.txnNextId := rfl
@[simp] theorem State.setPge_modWait (p : Nat) (f : PgePart → PgePart) : (s.setPge p f).modWait = s.modWait := rfl
@[simp] theorem State.setPge_modSeq (p : Nat) (f : PgePart → PgePart) : (s.setPge p f).modSeq = s.modSeq := rfl
@[simp] theorem State.setPge_modLost (p : Nat) (f : PgePart → PgePart) : (s.setPge p f).modLost = s.modLost := rfl
@[simp] theorem State.setPge_modUnsig (p : Nat) (f : PgePart → PgePart) : (s.setPge p f).modUnsig = s.modUnsig := rfl
@[simp] theorem State.setPge_coal (p : Nat) (f : PgePart → PgePart) : (s.setPge p f).coal = s.coal := rfl
@[simp] theorem State.setPge_held (p : Nat) (f : PgePart → PgePart) : (s.setPge p f).held = s.held := rfl
@[simp] theorem State.setPge_trngBad (p : Nat) (f : PgePart → PgePart) : (s.setPge p f).trngBad = s.trngBad := rfl
@[simp] theorem State.setPge_memWin (p : Nat) (f : PgePart → PgePart) : (s.setPge p f).memWin = s.memWin := rfl
@[simp] theorem State.setPge_memHeld (p : Nat) (f : PgePart → PgePart) : (s.setPge p f).memHeld = s.memHeld := rfl
@[simp] theorem State.setPge_merge (p : Nat) (f : PgePart → PgePart) : (s.setPge p f).merge = s.merge := rfl
@[simp] theorem State.setPge_recovering (p : Nat) (f : PgePart → PgePart) : (s.setPge p f).recovering = s.recovering := rfl
@[simp] theorem State.setPge_pred (p : Nat) (f : PgePart → PgePart) : (s.setPge p f).pred = s.pred := rfl
@[simp] theorem State.setPge_sys (p : Nat) (f : PgePart → PgePart) : (s.setPge p f).sys = s.sys := rfl
@[simp] theorem State.setPge_mgt (p : Nat) (f : PgePart → PgePart) : (s.setPge p f).mgt = s.mgt := rfl
@[simp] theorem State.setPge_spdm (p : Nat) (f : PgePart → PgePart) : (s.setPge p f).spdm = s.spdm := rfl
@[simp] theorem State.setPge_freeIdx (p : Nat) (f : PgePart → PgePart) : (s.setPge p f).freeIdx = s.freeIdx := rfl
@[simp] theorem State.setPge_resp (p : Nat) (f : PgePart → PgePart) : (s.setPge p f).resp = s.resp := rfl
@[simp] theorem State.setPge_out (p : Nat) (f : PgePart → PgePart) : (s.setPge p f).out = s.out := rfl
@[simp] theorem State.setPge_get (p : Nat) (f : PgePart → PgePart) (v : UnitId) (h : Field) : (s.setPge p f).get v h = s.get v h := State.get_of_regs (s := s) (t := s.setPge p f) rfl _ _
@[simp] theorem State.setPge_part (p : Nat) (f : PgePart → PgePart) (q : Nat) : (s.setPge p f).part q = s.part q := rfl
@[simp] theorem State.setPge_unit (p : Nat) (f : PgePart → PgePart) (v : UnitId) : (s.setPge p f).unit v = s.unit v := rfl
@[simp] theorem State.setPge_byte (p : Nat) (f : PgePart → PgePart) (k : Nat) : (s.setPge p f).byte k = s.byte k := rfl
@[simp] theorem State.setPge_secPart (p : Nat) (f : PgePart → PgePart) (q : Nat) : (s.setPge p f).secPart q = s.secPart q := rfl
@[simp] theorem State.setPge_grpRec (p : Nat) (f : PgePart → PgePart) (q : Nat) : (s.setPge p f).grpRec q = s.grpRec q := rfl
@[simp] theorem State.setPge_counterVal (p : Nat) (f : PgePart → PgePart) (q : Nat) : (s.setPge p f).counterVal q = s.counterVal q := rfl
@[simp] theorem State.setPge_bank (p : Nat) (f : PgePart → PgePart) (v : UnitId) : (s.setPge p f).bank v = s.bank v := rfl
@[simp] theorem State.setPge_live (p : Nat) (f : PgePart → PgePart) (v : UnitId) (k : Nat) : (s.setPge p f).live v k = s.live v k := rfl

/-! ## setUnit -/

@[simp] theorem State.setUnit_pending (u : UnitId) (f : UnitRec → UnitRec) : (s.setUnit u f).pending = s.pending := rfl
@[simp] theorem State.setUnit_regs (u : UnitId) (f : UnitRec → UnitRec) : (s.setUnit u f).regs = s.regs := rfl
@[simp] theorem State.setUnit_counts (u : UnitId) (f : UnitRec → UnitRec) : (s.setUnit u f).counts = s.counts := rfl
@[simp] theorem State.setUnit_snaps (u : UnitId) (f : UnitRec → UnitRec) : (s.setUnit u f).snaps = s.snaps := rfl
@[simp] theorem State.setUnit_mem (u : UnitId) (f : UnitRec → UnitRec) : (s.setUnit u f).mem = s.mem := rfl
@[simp] theorem State.setUnit_poison (u : UnitId) (f : UnitRec → UnitRec) : (s.setUnit u f).poison = s.poison := rfl
@[simp] theorem State.setUnit_resv (u : UnitId) (f : UnitRec → UnitRec) : (s.setUnit u f).resv = s.resv := rfl
@[simp] theorem State.setUnit_hurt (u : UnitId) (f : UnitRec → UnitRec) : (s.setUnit u f).hurt = s.hurt := rfl
@[simp] theorem State.setUnit_cache (u : UnitId) (f : UnitRec → UnitRec) : (s.setUnit u f).cache = s.cache := rfl
@[simp] theorem State.setUnit_tbl (u : UnitId) (f : UnitRec → UnitRec) : (s.setUnit u f).tbl = s.tbl := rfl
@[simp] theorem State.setUnit_memWait (u : UnitId) (f : UnitRec → UnitRec) : (s.setUnit u f).memWait = s.memWait := rfl
@[simp] theorem State.setUnit_tierOut (u : UnitId) (f : UnitRec → UnitRec) : (s.setUnit u f).tierOut = s.tierOut := rfl
@[simp] theorem State.setUnit_scoreboard (u : UnitId) (f : UnitRec → UnitRec) : (s.setUnit u f).scoreboard = s.scoreboard := rfl
@[simp] theorem State.setUnit_parts (u : UnitId) (f : UnitRec → UnitRec) : (s.setUnit u f).parts = s.parts := rfl
@[simp] theorem State.setUnit_pge (u : UnitId) (f : UnitRec → UnitRec) : (s.setUnit u f).pge = s.pge := rfl
@[simp] theorem State.setUnit_talon (u : UnitId) (f : UnitRec → UnitRec) : (s.setUnit u f).talon = s.talon := rfl
@[simp] theorem State.setUnit_sec (u : UnitId) (f : UnitRec → UnitRec) : (s.setUnit u f).sec = s.sec := rfl
@[simp] theorem State.setUnit_secMod (u : UnitId) (f : UnitRec → UnitRec) : (s.setUnit u f).secMod = s.secMod := rfl
@[simp] theorem State.setUnit_pwr (u : UnitId) (f : UnitRec → UnitRec) : (s.setUnit u f).pwr = s.pwr := rfl
@[simp] theorem State.setUnit_txn (u : UnitId) (f : UnitRec → UnitRec) : (s.setUnit u f).txn = s.txn := rfl
@[simp] theorem State.setUnit_net (u : UnitId) (f : UnitRec → UnitRec) : (s.setUnit u f).net = s.net := rfl
@[simp] theorem State.setUnit_coll (u : UnitId) (f : UnitRec → UnitRec) : (s.setUnit u f).coll = s.coll := rfl
@[simp] theorem State.setUnit_grps (u : UnitId) (f : UnitRec → UnitRec) : (s.setUnit u f).grps = s.grps := rfl
@[simp] theorem State.setUnit_txnNextId (u : UnitId) (f : UnitRec → UnitRec) : (s.setUnit u f).txnNextId = s.txnNextId := rfl
@[simp] theorem State.setUnit_modWait (u : UnitId) (f : UnitRec → UnitRec) : (s.setUnit u f).modWait = s.modWait := rfl
@[simp] theorem State.setUnit_modSeq (u : UnitId) (f : UnitRec → UnitRec) : (s.setUnit u f).modSeq = s.modSeq := rfl
@[simp] theorem State.setUnit_modLost (u : UnitId) (f : UnitRec → UnitRec) : (s.setUnit u f).modLost = s.modLost := rfl
@[simp] theorem State.setUnit_modUnsig (u : UnitId) (f : UnitRec → UnitRec) : (s.setUnit u f).modUnsig = s.modUnsig := rfl
@[simp] theorem State.setUnit_coal (u : UnitId) (f : UnitRec → UnitRec) : (s.setUnit u f).coal = s.coal := rfl
@[simp] theorem State.setUnit_held (u : UnitId) (f : UnitRec → UnitRec) : (s.setUnit u f).held = s.held := rfl
@[simp] theorem State.setUnit_trngBad (u : UnitId) (f : UnitRec → UnitRec) : (s.setUnit u f).trngBad = s.trngBad := rfl
@[simp] theorem State.setUnit_memWin (u : UnitId) (f : UnitRec → UnitRec) : (s.setUnit u f).memWin = s.memWin := rfl
@[simp] theorem State.setUnit_memHeld (u : UnitId) (f : UnitRec → UnitRec) : (s.setUnit u f).memHeld = s.memHeld := rfl
@[simp] theorem State.setUnit_merge (u : UnitId) (f : UnitRec → UnitRec) : (s.setUnit u f).merge = s.merge := rfl
@[simp] theorem State.setUnit_recovering (u : UnitId) (f : UnitRec → UnitRec) : (s.setUnit u f).recovering = s.recovering := rfl
@[simp] theorem State.setUnit_pred (u : UnitId) (f : UnitRec → UnitRec) : (s.setUnit u f).pred = s.pred := rfl
@[simp] theorem State.setUnit_sys (u : UnitId) (f : UnitRec → UnitRec) : (s.setUnit u f).sys = s.sys := rfl
@[simp] theorem State.setUnit_mgt (u : UnitId) (f : UnitRec → UnitRec) : (s.setUnit u f).mgt = s.mgt := rfl
@[simp] theorem State.setUnit_spdm (u : UnitId) (f : UnitRec → UnitRec) : (s.setUnit u f).spdm = s.spdm := rfl
@[simp] theorem State.setUnit_freeIdx (u : UnitId) (f : UnitRec → UnitRec) : (s.setUnit u f).freeIdx = s.freeIdx := rfl
@[simp] theorem State.setUnit_resp (u : UnitId) (f : UnitRec → UnitRec) : (s.setUnit u f).resp = s.resp := rfl
@[simp] theorem State.setUnit_out (u : UnitId) (f : UnitRec → UnitRec) : (s.setUnit u f).out = s.out := rfl
@[simp] theorem State.setUnit_get (u : UnitId) (f : UnitRec → UnitRec) (v : UnitId) (h : Field) : (s.setUnit u f).get v h = s.get v h := State.get_of_regs (s := s) (t := s.setUnit u f) rfl _ _
@[simp] theorem State.setUnit_part (u : UnitId) (f : UnitRec → UnitRec) (q : Nat) : (s.setUnit u f).part q = s.part q := rfl
@[simp] theorem State.setUnit_pgePart (u : UnitId) (f : UnitRec → UnitRec) (q : Nat) : (s.setUnit u f).pgePart q = s.pgePart q := rfl
@[simp] theorem State.setUnit_byte (u : UnitId) (f : UnitRec → UnitRec) (k : Nat) : (s.setUnit u f).byte k = s.byte k := rfl
@[simp] theorem State.setUnit_secPart (u : UnitId) (f : UnitRec → UnitRec) (q : Nat) : (s.setUnit u f).secPart q = s.secPart q := rfl
@[simp] theorem State.setUnit_grpRec (u : UnitId) (f : UnitRec → UnitRec) (q : Nat) : (s.setUnit u f).grpRec q = s.grpRec q := rfl
@[simp] theorem State.setUnit_counterVal (u : UnitId) (f : UnitRec → UnitRec) (q : Nat) : (s.setUnit u f).counterVal q = s.counterVal q := rfl
@[simp] theorem State.setUnit_bank (u : UnitId) (f : UnitRec → UnitRec) (v : UnitId) : (s.setUnit u f).bank v = s.bank v := rfl
@[simp] theorem State.setUnit_live (u : UnitId) (f : UnitRec → UnitRec) (v : UnitId) (k : Nat) : (s.setUnit u f).live v k = s.live v k := rfl

/-! ## store -/

@[simp] theorem State.store_pending (a : Nat) (d : List Byte) : (s.store a d).pending = s.pending := rfl
@[simp] theorem State.store_regs (a : Nat) (d : List Byte) : (s.store a d).regs = s.regs := rfl
@[simp] theorem State.store_counts (a : Nat) (d : List Byte) : (s.store a d).counts = s.counts := rfl
@[simp] theorem State.store_snaps (a : Nat) (d : List Byte) : (s.store a d).snaps = s.snaps := rfl
@[simp] theorem State.store_poison (a : Nat) (d : List Byte) : (s.store a d).poison = s.poison := rfl
@[simp] theorem State.store_resv (a : Nat) (d : List Byte) : (s.store a d).resv = s.resv := rfl
@[simp] theorem State.store_hurt (a : Nat) (d : List Byte) : (s.store a d).hurt = s.hurt := rfl
@[simp] theorem State.store_cache (a : Nat) (d : List Byte) : (s.store a d).cache = s.cache := rfl
@[simp] theorem State.store_tbl (a : Nat) (d : List Byte) : (s.store a d).tbl = s.tbl := rfl
@[simp] theorem State.store_memWait (a : Nat) (d : List Byte) : (s.store a d).memWait = s.memWait := rfl
@[simp] theorem State.store_tierOut (a : Nat) (d : List Byte) : (s.store a d).tierOut = s.tierOut := rfl
@[simp] theorem State.store_scoreboard (a : Nat) (d : List Byte) : (s.store a d).scoreboard = s.scoreboard := rfl
@[simp] theorem State.store_parts (a : Nat) (d : List Byte) : (s.store a d).parts = s.parts := rfl
@[simp] theorem State.store_pge (a : Nat) (d : List Byte) : (s.store a d).pge = s.pge := rfl
@[simp] theorem State.store_units (a : Nat) (d : List Byte) : (s.store a d).units = s.units := rfl
@[simp] theorem State.store_talon (a : Nat) (d : List Byte) : (s.store a d).talon = s.talon := rfl
@[simp] theorem State.store_sec (a : Nat) (d : List Byte) : (s.store a d).sec = s.sec := rfl
@[simp] theorem State.store_secMod (a : Nat) (d : List Byte) : (s.store a d).secMod = s.secMod := rfl
@[simp] theorem State.store_pwr (a : Nat) (d : List Byte) : (s.store a d).pwr = s.pwr := rfl
@[simp] theorem State.store_txn (a : Nat) (d : List Byte) : (s.store a d).txn = s.txn := rfl
@[simp] theorem State.store_net (a : Nat) (d : List Byte) : (s.store a d).net = s.net := rfl
@[simp] theorem State.store_coll (a : Nat) (d : List Byte) : (s.store a d).coll = s.coll := rfl
@[simp] theorem State.store_grps (a : Nat) (d : List Byte) : (s.store a d).grps = s.grps := rfl
@[simp] theorem State.store_txnNextId (a : Nat) (d : List Byte) : (s.store a d).txnNextId = s.txnNextId := rfl
@[simp] theorem State.store_modWait (a : Nat) (d : List Byte) : (s.store a d).modWait = s.modWait := rfl
@[simp] theorem State.store_modSeq (a : Nat) (d : List Byte) : (s.store a d).modSeq = s.modSeq := rfl
@[simp] theorem State.store_modLost (a : Nat) (d : List Byte) : (s.store a d).modLost = s.modLost := rfl
@[simp] theorem State.store_modUnsig (a : Nat) (d : List Byte) : (s.store a d).modUnsig = s.modUnsig := rfl
@[simp] theorem State.store_coal (a : Nat) (d : List Byte) : (s.store a d).coal = s.coal := rfl
@[simp] theorem State.store_held (a : Nat) (d : List Byte) : (s.store a d).held = s.held := rfl
@[simp] theorem State.store_trngBad (a : Nat) (d : List Byte) : (s.store a d).trngBad = s.trngBad := rfl
@[simp] theorem State.store_memWin (a : Nat) (d : List Byte) : (s.store a d).memWin = s.memWin := rfl
@[simp] theorem State.store_memHeld (a : Nat) (d : List Byte) : (s.store a d).memHeld = s.memHeld := rfl
@[simp] theorem State.store_merge (a : Nat) (d : List Byte) : (s.store a d).merge = s.merge := rfl
@[simp] theorem State.store_recovering (a : Nat) (d : List Byte) : (s.store a d).recovering = s.recovering := rfl
@[simp] theorem State.store_pred (a : Nat) (d : List Byte) : (s.store a d).pred = s.pred := rfl
@[simp] theorem State.store_sys (a : Nat) (d : List Byte) : (s.store a d).sys = s.sys := rfl
@[simp] theorem State.store_mgt (a : Nat) (d : List Byte) : (s.store a d).mgt = s.mgt := rfl
@[simp] theorem State.store_spdm (a : Nat) (d : List Byte) : (s.store a d).spdm = s.spdm := rfl
@[simp] theorem State.store_freeIdx (a : Nat) (d : List Byte) : (s.store a d).freeIdx = s.freeIdx := rfl
@[simp] theorem State.store_resp (a : Nat) (d : List Byte) : (s.store a d).resp = s.resp := rfl
@[simp] theorem State.store_out (a : Nat) (d : List Byte) : (s.store a d).out = s.out := rfl
@[simp] theorem State.store_get (a : Nat) (d : List Byte) (v : UnitId) (h : Field) : (s.store a d).get v h = s.get v h := State.get_of_regs (s := s) (t := s.store a d) rfl _ _
@[simp] theorem State.store_part (a : Nat) (d : List Byte) (q : Nat) : (s.store a d).part q = s.part q := rfl
@[simp] theorem State.store_pgePart (a : Nat) (d : List Byte) (q : Nat) : (s.store a d).pgePart q = s.pgePart q := rfl
@[simp] theorem State.store_unit (a : Nat) (d : List Byte) (v : UnitId) : (s.store a d).unit v = s.unit v := rfl
@[simp] theorem State.store_secPart (a : Nat) (d : List Byte) (q : Nat) : (s.store a d).secPart q = s.secPart q := rfl
@[simp] theorem State.store_grpRec (a : Nat) (d : List Byte) (q : Nat) : (s.store a d).grpRec q = s.grpRec q := rfl
@[simp] theorem State.store_counterVal (a : Nat) (d : List Byte) (q : Nat) : (s.store a d).counterVal q = s.counterVal q := rfl
@[simp] theorem State.store_bank (a : Nat) (d : List Byte) (v : UnitId) : (s.store a d).bank v = s.bank v := rfl
@[simp] theorem State.store_live (a : Nat) (d : List Byte) (v : UnitId) (k : Nat) : (s.store a d).live v k = s.live v k := rfl

/-! ## poisonLine -/

@[simp] theorem State.poisonLine_pending (l : Nat) : (s.poisonLine l).pending = s.pending := rfl
@[simp] theorem State.poisonLine_regs (l : Nat) : (s.poisonLine l).regs = s.regs := rfl
@[simp] theorem State.poisonLine_counts (l : Nat) : (s.poisonLine l).counts = s.counts := rfl
@[simp] theorem State.poisonLine_snaps (l : Nat) : (s.poisonLine l).snaps = s.snaps := rfl
@[simp] theorem State.poisonLine_mem (l : Nat) : (s.poisonLine l).mem = s.mem := rfl
@[simp] theorem State.poisonLine_resv (l : Nat) : (s.poisonLine l).resv = s.resv := rfl
@[simp] theorem State.poisonLine_hurt (l : Nat) : (s.poisonLine l).hurt = s.hurt := rfl
@[simp] theorem State.poisonLine_cache (l : Nat) : (s.poisonLine l).cache = s.cache := rfl
@[simp] theorem State.poisonLine_tbl (l : Nat) : (s.poisonLine l).tbl = s.tbl := rfl
@[simp] theorem State.poisonLine_memWait (l : Nat) : (s.poisonLine l).memWait = s.memWait := rfl
@[simp] theorem State.poisonLine_tierOut (l : Nat) : (s.poisonLine l).tierOut = s.tierOut := rfl
@[simp] theorem State.poisonLine_scoreboard (l : Nat) : (s.poisonLine l).scoreboard = s.scoreboard := rfl
@[simp] theorem State.poisonLine_parts (l : Nat) : (s.poisonLine l).parts = s.parts := rfl
@[simp] theorem State.poisonLine_pge (l : Nat) : (s.poisonLine l).pge = s.pge := rfl
@[simp] theorem State.poisonLine_units (l : Nat) : (s.poisonLine l).units = s.units := rfl
@[simp] theorem State.poisonLine_talon (l : Nat) : (s.poisonLine l).talon = s.talon := rfl
@[simp] theorem State.poisonLine_sec (l : Nat) : (s.poisonLine l).sec = s.sec := rfl
@[simp] theorem State.poisonLine_secMod (l : Nat) : (s.poisonLine l).secMod = s.secMod := rfl
@[simp] theorem State.poisonLine_pwr (l : Nat) : (s.poisonLine l).pwr = s.pwr := rfl
@[simp] theorem State.poisonLine_txn (l : Nat) : (s.poisonLine l).txn = s.txn := rfl
@[simp] theorem State.poisonLine_net (l : Nat) : (s.poisonLine l).net = s.net := rfl
@[simp] theorem State.poisonLine_coll (l : Nat) : (s.poisonLine l).coll = s.coll := rfl
@[simp] theorem State.poisonLine_grps (l : Nat) : (s.poisonLine l).grps = s.grps := rfl
@[simp] theorem State.poisonLine_txnNextId (l : Nat) : (s.poisonLine l).txnNextId = s.txnNextId := rfl
@[simp] theorem State.poisonLine_modWait (l : Nat) : (s.poisonLine l).modWait = s.modWait := rfl
@[simp] theorem State.poisonLine_modSeq (l : Nat) : (s.poisonLine l).modSeq = s.modSeq := rfl
@[simp] theorem State.poisonLine_modLost (l : Nat) : (s.poisonLine l).modLost = s.modLost := rfl
@[simp] theorem State.poisonLine_modUnsig (l : Nat) : (s.poisonLine l).modUnsig = s.modUnsig := rfl
@[simp] theorem State.poisonLine_coal (l : Nat) : (s.poisonLine l).coal = s.coal := rfl
@[simp] theorem State.poisonLine_held (l : Nat) : (s.poisonLine l).held = s.held := rfl
@[simp] theorem State.poisonLine_trngBad (l : Nat) : (s.poisonLine l).trngBad = s.trngBad := rfl
@[simp] theorem State.poisonLine_memWin (l : Nat) : (s.poisonLine l).memWin = s.memWin := rfl
@[simp] theorem State.poisonLine_memHeld (l : Nat) : (s.poisonLine l).memHeld = s.memHeld := rfl
@[simp] theorem State.poisonLine_merge (l : Nat) : (s.poisonLine l).merge = s.merge := rfl
@[simp] theorem State.poisonLine_recovering (l : Nat) : (s.poisonLine l).recovering = s.recovering := rfl
@[simp] theorem State.poisonLine_pred (l : Nat) : (s.poisonLine l).pred = s.pred := rfl
@[simp] theorem State.poisonLine_sys (l : Nat) : (s.poisonLine l).sys = s.sys := rfl
@[simp] theorem State.poisonLine_mgt (l : Nat) : (s.poisonLine l).mgt = s.mgt := rfl
@[simp] theorem State.poisonLine_spdm (l : Nat) : (s.poisonLine l).spdm = s.spdm := rfl
@[simp] theorem State.poisonLine_freeIdx (l : Nat) : (s.poisonLine l).freeIdx = s.freeIdx := rfl
@[simp] theorem State.poisonLine_resp (l : Nat) : (s.poisonLine l).resp = s.resp := rfl
@[simp] theorem State.poisonLine_out (l : Nat) : (s.poisonLine l).out = s.out := rfl
@[simp] theorem State.poisonLine_get (l : Nat) (v : UnitId) (h : Field) : (s.poisonLine l).get v h = s.get v h := State.get_of_regs (s := s) (t := s.poisonLine l) rfl _ _
@[simp] theorem State.poisonLine_part (l : Nat) (q : Nat) : (s.poisonLine l).part q = s.part q := rfl
@[simp] theorem State.poisonLine_pgePart (l : Nat) (q : Nat) : (s.poisonLine l).pgePart q = s.pgePart q := rfl
@[simp] theorem State.poisonLine_unit (l : Nat) (v : UnitId) : (s.poisonLine l).unit v = s.unit v := rfl
@[simp] theorem State.poisonLine_byte (l : Nat) (k : Nat) : (s.poisonLine l).byte k = s.byte k := rfl
@[simp] theorem State.poisonLine_secPart (l : Nat) (q : Nat) : (s.poisonLine l).secPart q = s.secPart q := rfl
@[simp] theorem State.poisonLine_grpRec (l : Nat) (q : Nat) : (s.poisonLine l).grpRec q = s.grpRec q := rfl
@[simp] theorem State.poisonLine_counterVal (l : Nat) (q : Nat) : (s.poisonLine l).counterVal q = s.counterVal q := rfl
@[simp] theorem State.poisonLine_bank (l : Nat) (v : UnitId) : (s.poisonLine l).bank v = s.bank v := rfl
@[simp] theorem State.poisonLine_live (l : Nat) (v : UnitId) (k : Nat) : (s.poisonLine l).live v k = s.live v k := rfl

/-! ## setSec -/

@[simp] theorem State.setSec_pending (p : Nat) (f : SecPart → SecPart) : (s.setSec p f).pending = s.pending := rfl
@[simp] theorem State.setSec_regs (p : Nat) (f : SecPart → SecPart) : (s.setSec p f).regs = s.regs := rfl
@[simp] theorem State.setSec_counts (p : Nat) (f : SecPart → SecPart) : (s.setSec p f).counts = s.counts := rfl
@[simp] theorem State.setSec_snaps (p : Nat) (f : SecPart → SecPart) : (s.setSec p f).snaps = s.snaps := rfl
@[simp] theorem State.setSec_mem (p : Nat) (f : SecPart → SecPart) : (s.setSec p f).mem = s.mem := rfl
@[simp] theorem State.setSec_poison (p : Nat) (f : SecPart → SecPart) : (s.setSec p f).poison = s.poison := rfl
@[simp] theorem State.setSec_resv (p : Nat) (f : SecPart → SecPart) : (s.setSec p f).resv = s.resv := rfl
@[simp] theorem State.setSec_hurt (p : Nat) (f : SecPart → SecPart) : (s.setSec p f).hurt = s.hurt := rfl
@[simp] theorem State.setSec_cache (p : Nat) (f : SecPart → SecPart) : (s.setSec p f).cache = s.cache := rfl
@[simp] theorem State.setSec_tbl (p : Nat) (f : SecPart → SecPart) : (s.setSec p f).tbl = s.tbl := rfl
@[simp] theorem State.setSec_memWait (p : Nat) (f : SecPart → SecPart) : (s.setSec p f).memWait = s.memWait := rfl
@[simp] theorem State.setSec_tierOut (p : Nat) (f : SecPart → SecPart) : (s.setSec p f).tierOut = s.tierOut := rfl
@[simp] theorem State.setSec_scoreboard (p : Nat) (f : SecPart → SecPart) : (s.setSec p f).scoreboard = s.scoreboard := rfl
@[simp] theorem State.setSec_parts (p : Nat) (f : SecPart → SecPart) : (s.setSec p f).parts = s.parts := rfl
@[simp] theorem State.setSec_pge (p : Nat) (f : SecPart → SecPart) : (s.setSec p f).pge = s.pge := rfl
@[simp] theorem State.setSec_units (p : Nat) (f : SecPart → SecPart) : (s.setSec p f).units = s.units := rfl
@[simp] theorem State.setSec_talon (p : Nat) (f : SecPart → SecPart) : (s.setSec p f).talon = s.talon := rfl
@[simp] theorem State.setSec_secMod (p : Nat) (f : SecPart → SecPart) : (s.setSec p f).secMod = s.secMod := rfl
@[simp] theorem State.setSec_pwr (p : Nat) (f : SecPart → SecPart) : (s.setSec p f).pwr = s.pwr := rfl
@[simp] theorem State.setSec_txn (p : Nat) (f : SecPart → SecPart) : (s.setSec p f).txn = s.txn := rfl
@[simp] theorem State.setSec_net (p : Nat) (f : SecPart → SecPart) : (s.setSec p f).net = s.net := rfl
@[simp] theorem State.setSec_coll (p : Nat) (f : SecPart → SecPart) : (s.setSec p f).coll = s.coll := rfl
@[simp] theorem State.setSec_grps (p : Nat) (f : SecPart → SecPart) : (s.setSec p f).grps = s.grps := rfl
@[simp] theorem State.setSec_txnNextId (p : Nat) (f : SecPart → SecPart) : (s.setSec p f).txnNextId = s.txnNextId := rfl
@[simp] theorem State.setSec_modWait (p : Nat) (f : SecPart → SecPart) : (s.setSec p f).modWait = s.modWait := rfl
@[simp] theorem State.setSec_modSeq (p : Nat) (f : SecPart → SecPart) : (s.setSec p f).modSeq = s.modSeq := rfl
@[simp] theorem State.setSec_modLost (p : Nat) (f : SecPart → SecPart) : (s.setSec p f).modLost = s.modLost := rfl
@[simp] theorem State.setSec_modUnsig (p : Nat) (f : SecPart → SecPart) : (s.setSec p f).modUnsig = s.modUnsig := rfl
@[simp] theorem State.setSec_coal (p : Nat) (f : SecPart → SecPart) : (s.setSec p f).coal = s.coal := rfl
@[simp] theorem State.setSec_held (p : Nat) (f : SecPart → SecPart) : (s.setSec p f).held = s.held := rfl
@[simp] theorem State.setSec_trngBad (p : Nat) (f : SecPart → SecPart) : (s.setSec p f).trngBad = s.trngBad := rfl
@[simp] theorem State.setSec_memWin (p : Nat) (f : SecPart → SecPart) : (s.setSec p f).memWin = s.memWin := rfl
@[simp] theorem State.setSec_memHeld (p : Nat) (f : SecPart → SecPart) : (s.setSec p f).memHeld = s.memHeld := rfl
@[simp] theorem State.setSec_merge (p : Nat) (f : SecPart → SecPart) : (s.setSec p f).merge = s.merge := rfl
@[simp] theorem State.setSec_recovering (p : Nat) (f : SecPart → SecPart) : (s.setSec p f).recovering = s.recovering := rfl
@[simp] theorem State.setSec_pred (p : Nat) (f : SecPart → SecPart) : (s.setSec p f).pred = s.pred := rfl
@[simp] theorem State.setSec_sys (p : Nat) (f : SecPart → SecPart) : (s.setSec p f).sys = s.sys := rfl
@[simp] theorem State.setSec_mgt (p : Nat) (f : SecPart → SecPart) : (s.setSec p f).mgt = s.mgt := rfl
@[simp] theorem State.setSec_spdm (p : Nat) (f : SecPart → SecPart) : (s.setSec p f).spdm = s.spdm := rfl
@[simp] theorem State.setSec_freeIdx (p : Nat) (f : SecPart → SecPart) : (s.setSec p f).freeIdx = s.freeIdx := rfl
@[simp] theorem State.setSec_resp (p : Nat) (f : SecPart → SecPart) : (s.setSec p f).resp = s.resp := rfl
@[simp] theorem State.setSec_out (p : Nat) (f : SecPart → SecPart) : (s.setSec p f).out = s.out := rfl
@[simp] theorem State.setSec_get (p : Nat) (f : SecPart → SecPart) (v : UnitId) (h : Field) : (s.setSec p f).get v h = s.get v h := State.get_of_regs (s := s) (t := s.setSec p f) rfl _ _
@[simp] theorem State.setSec_part (p : Nat) (f : SecPart → SecPart) (q : Nat) : (s.setSec p f).part q = s.part q := rfl
@[simp] theorem State.setSec_pgePart (p : Nat) (f : SecPart → SecPart) (q : Nat) : (s.setSec p f).pgePart q = s.pgePart q := rfl
@[simp] theorem State.setSec_unit (p : Nat) (f : SecPart → SecPart) (v : UnitId) : (s.setSec p f).unit v = s.unit v := rfl
@[simp] theorem State.setSec_byte (p : Nat) (f : SecPart → SecPart) (k : Nat) : (s.setSec p f).byte k = s.byte k := rfl
@[simp] theorem State.setSec_grpRec (p : Nat) (f : SecPart → SecPart) (q : Nat) : (s.setSec p f).grpRec q = s.grpRec q := rfl
@[simp] theorem State.setSec_counterVal (p : Nat) (f : SecPart → SecPart) (q : Nat) : (s.setSec p f).counterVal q = s.counterVal q := rfl
@[simp] theorem State.setSec_bank (p : Nat) (f : SecPart → SecPart) (v : UnitId) : (s.setSec p f).bank v = s.bank v := rfl
@[simp] theorem State.setSec_live (p : Nat) (f : SecPart → SecPart) (v : UnitId) (k : Nat) : (s.setSec p f).live v k = s.live v k := rfl

/-! ## setNet -/

@[simp] theorem State.setNet_pending (f : NetRec → NetRec) : (s.setNet f).pending = s.pending := rfl
@[simp] theorem State.setNet_regs (f : NetRec → NetRec) : (s.setNet f).regs = s.regs := rfl
@[simp] theorem State.setNet_counts (f : NetRec → NetRec) : (s.setNet f).counts = s.counts := rfl
@[simp] theorem State.setNet_snaps (f : NetRec → NetRec) : (s.setNet f).snaps = s.snaps := rfl
@[simp] theorem State.setNet_mem (f : NetRec → NetRec) : (s.setNet f).mem = s.mem := rfl
@[simp] theorem State.setNet_poison (f : NetRec → NetRec) : (s.setNet f).poison = s.poison := rfl
@[simp] theorem State.setNet_resv (f : NetRec → NetRec) : (s.setNet f).resv = s.resv := rfl
@[simp] theorem State.setNet_hurt (f : NetRec → NetRec) : (s.setNet f).hurt = s.hurt := rfl
@[simp] theorem State.setNet_cache (f : NetRec → NetRec) : (s.setNet f).cache = s.cache := rfl
@[simp] theorem State.setNet_tbl (f : NetRec → NetRec) : (s.setNet f).tbl = s.tbl := rfl
@[simp] theorem State.setNet_memWait (f : NetRec → NetRec) : (s.setNet f).memWait = s.memWait := rfl
@[simp] theorem State.setNet_tierOut (f : NetRec → NetRec) : (s.setNet f).tierOut = s.tierOut := rfl
@[simp] theorem State.setNet_scoreboard (f : NetRec → NetRec) : (s.setNet f).scoreboard = s.scoreboard := rfl
@[simp] theorem State.setNet_parts (f : NetRec → NetRec) : (s.setNet f).parts = s.parts := rfl
@[simp] theorem State.setNet_pge (f : NetRec → NetRec) : (s.setNet f).pge = s.pge := rfl
@[simp] theorem State.setNet_units (f : NetRec → NetRec) : (s.setNet f).units = s.units := rfl
@[simp] theorem State.setNet_talon (f : NetRec → NetRec) : (s.setNet f).talon = s.talon := rfl
@[simp] theorem State.setNet_sec (f : NetRec → NetRec) : (s.setNet f).sec = s.sec := rfl
@[simp] theorem State.setNet_secMod (f : NetRec → NetRec) : (s.setNet f).secMod = s.secMod := rfl
@[simp] theorem State.setNet_pwr (f : NetRec → NetRec) : (s.setNet f).pwr = s.pwr := rfl
@[simp] theorem State.setNet_txn (f : NetRec → NetRec) : (s.setNet f).txn = s.txn := rfl
@[simp] theorem State.setNet_net (f : NetRec → NetRec) : (s.setNet f).net = f s.net := rfl
@[simp] theorem State.setNet_coll (f : NetRec → NetRec) : (s.setNet f).coll = s.coll := rfl
@[simp] theorem State.setNet_grps (f : NetRec → NetRec) : (s.setNet f).grps = s.grps := rfl
@[simp] theorem State.setNet_txnNextId (f : NetRec → NetRec) : (s.setNet f).txnNextId = s.txnNextId := rfl
@[simp] theorem State.setNet_modWait (f : NetRec → NetRec) : (s.setNet f).modWait = s.modWait := rfl
@[simp] theorem State.setNet_modSeq (f : NetRec → NetRec) : (s.setNet f).modSeq = s.modSeq := rfl
@[simp] theorem State.setNet_modLost (f : NetRec → NetRec) : (s.setNet f).modLost = s.modLost := rfl
@[simp] theorem State.setNet_modUnsig (f : NetRec → NetRec) : (s.setNet f).modUnsig = s.modUnsig := rfl
@[simp] theorem State.setNet_coal (f : NetRec → NetRec) : (s.setNet f).coal = s.coal := rfl
@[simp] theorem State.setNet_held (f : NetRec → NetRec) : (s.setNet f).held = s.held := rfl
@[simp] theorem State.setNet_trngBad (f : NetRec → NetRec) : (s.setNet f).trngBad = s.trngBad := rfl
@[simp] theorem State.setNet_memWin (f : NetRec → NetRec) : (s.setNet f).memWin = s.memWin := rfl
@[simp] theorem State.setNet_memHeld (f : NetRec → NetRec) : (s.setNet f).memHeld = s.memHeld := rfl
@[simp] theorem State.setNet_merge (f : NetRec → NetRec) : (s.setNet f).merge = s.merge := rfl
@[simp] theorem State.setNet_recovering (f : NetRec → NetRec) : (s.setNet f).recovering = s.recovering := rfl
@[simp] theorem State.setNet_pred (f : NetRec → NetRec) : (s.setNet f).pred = s.pred := rfl
@[simp] theorem State.setNet_sys (f : NetRec → NetRec) : (s.setNet f).sys = s.sys := rfl
@[simp] theorem State.setNet_mgt (f : NetRec → NetRec) : (s.setNet f).mgt = s.mgt := rfl
@[simp] theorem State.setNet_spdm (f : NetRec → NetRec) : (s.setNet f).spdm = s.spdm := rfl
@[simp] theorem State.setNet_freeIdx (f : NetRec → NetRec) : (s.setNet f).freeIdx = s.freeIdx := rfl
@[simp] theorem State.setNet_resp (f : NetRec → NetRec) : (s.setNet f).resp = s.resp := rfl
@[simp] theorem State.setNet_out (f : NetRec → NetRec) : (s.setNet f).out = s.out := rfl
@[simp] theorem State.setNet_get (f : NetRec → NetRec) (v : UnitId) (h : Field) : (s.setNet f).get v h = s.get v h := State.get_of_regs (s := s) (t := s.setNet f) rfl _ _
@[simp] theorem State.setNet_part (f : NetRec → NetRec) (q : Nat) : (s.setNet f).part q = s.part q := rfl
@[simp] theorem State.setNet_pgePart (f : NetRec → NetRec) (q : Nat) : (s.setNet f).pgePart q = s.pgePart q := rfl
@[simp] theorem State.setNet_unit (f : NetRec → NetRec) (v : UnitId) : (s.setNet f).unit v = s.unit v := rfl
@[simp] theorem State.setNet_byte (f : NetRec → NetRec) (k : Nat) : (s.setNet f).byte k = s.byte k := rfl
@[simp] theorem State.setNet_secPart (f : NetRec → NetRec) (q : Nat) : (s.setNet f).secPart q = s.secPart q := rfl
@[simp] theorem State.setNet_grpRec (f : NetRec → NetRec) (q : Nat) : (s.setNet f).grpRec q = s.grpRec q := rfl
@[simp] theorem State.setNet_counterVal (f : NetRec → NetRec) (q : Nat) : (s.setNet f).counterVal q = s.counterVal q := rfl
@[simp] theorem State.setNet_bank (f : NetRec → NetRec) (v : UnitId) : (s.setNet f).bank v = s.bank v := rfl
@[simp] theorem State.setNet_live (f : NetRec → NetRec) (v : UnitId) (k : Nat) : (s.setNet f).live v k = s.live v k := rfl

/-! ## updGrp -/

@[simp] theorem State.updGrp_pending (g : Nat) (f : GrpRec → GrpRec) : (s.updGrp g f).pending = s.pending := rfl
@[simp] theorem State.updGrp_regs (g : Nat) (f : GrpRec → GrpRec) : (s.updGrp g f).regs = s.regs := rfl
@[simp] theorem State.updGrp_counts (g : Nat) (f : GrpRec → GrpRec) : (s.updGrp g f).counts = s.counts := rfl
@[simp] theorem State.updGrp_snaps (g : Nat) (f : GrpRec → GrpRec) : (s.updGrp g f).snaps = s.snaps := rfl
@[simp] theorem State.updGrp_mem (g : Nat) (f : GrpRec → GrpRec) : (s.updGrp g f).mem = s.mem := rfl
@[simp] theorem State.updGrp_poison (g : Nat) (f : GrpRec → GrpRec) : (s.updGrp g f).poison = s.poison := rfl
@[simp] theorem State.updGrp_resv (g : Nat) (f : GrpRec → GrpRec) : (s.updGrp g f).resv = s.resv := rfl
@[simp] theorem State.updGrp_hurt (g : Nat) (f : GrpRec → GrpRec) : (s.updGrp g f).hurt = s.hurt := rfl
@[simp] theorem State.updGrp_cache (g : Nat) (f : GrpRec → GrpRec) : (s.updGrp g f).cache = s.cache := rfl
@[simp] theorem State.updGrp_tbl (g : Nat) (f : GrpRec → GrpRec) : (s.updGrp g f).tbl = s.tbl := rfl
@[simp] theorem State.updGrp_memWait (g : Nat) (f : GrpRec → GrpRec) : (s.updGrp g f).memWait = s.memWait := rfl
@[simp] theorem State.updGrp_tierOut (g : Nat) (f : GrpRec → GrpRec) : (s.updGrp g f).tierOut = s.tierOut := rfl
@[simp] theorem State.updGrp_scoreboard (g : Nat) (f : GrpRec → GrpRec) : (s.updGrp g f).scoreboard = s.scoreboard := rfl
@[simp] theorem State.updGrp_parts (g : Nat) (f : GrpRec → GrpRec) : (s.updGrp g f).parts = s.parts := rfl
@[simp] theorem State.updGrp_pge (g : Nat) (f : GrpRec → GrpRec) : (s.updGrp g f).pge = s.pge := rfl
@[simp] theorem State.updGrp_units (g : Nat) (f : GrpRec → GrpRec) : (s.updGrp g f).units = s.units := rfl
@[simp] theorem State.updGrp_talon (g : Nat) (f : GrpRec → GrpRec) : (s.updGrp g f).talon = s.talon := rfl
@[simp] theorem State.updGrp_sec (g : Nat) (f : GrpRec → GrpRec) : (s.updGrp g f).sec = s.sec := rfl
@[simp] theorem State.updGrp_secMod (g : Nat) (f : GrpRec → GrpRec) : (s.updGrp g f).secMod = s.secMod := rfl
@[simp] theorem State.updGrp_pwr (g : Nat) (f : GrpRec → GrpRec) : (s.updGrp g f).pwr = s.pwr := rfl
@[simp] theorem State.updGrp_txn (g : Nat) (f : GrpRec → GrpRec) : (s.updGrp g f).txn = s.txn := rfl
@[simp] theorem State.updGrp_net (g : Nat) (f : GrpRec → GrpRec) : (s.updGrp g f).net = s.net := rfl
@[simp] theorem State.updGrp_coll (g : Nat) (f : GrpRec → GrpRec) : (s.updGrp g f).coll = s.coll := rfl
@[simp] theorem State.updGrp_txnNextId (g : Nat) (f : GrpRec → GrpRec) : (s.updGrp g f).txnNextId = s.txnNextId := rfl
@[simp] theorem State.updGrp_modWait (g : Nat) (f : GrpRec → GrpRec) : (s.updGrp g f).modWait = s.modWait := rfl
@[simp] theorem State.updGrp_modSeq (g : Nat) (f : GrpRec → GrpRec) : (s.updGrp g f).modSeq = s.modSeq := rfl
@[simp] theorem State.updGrp_modLost (g : Nat) (f : GrpRec → GrpRec) : (s.updGrp g f).modLost = s.modLost := rfl
@[simp] theorem State.updGrp_modUnsig (g : Nat) (f : GrpRec → GrpRec) : (s.updGrp g f).modUnsig = s.modUnsig := rfl
@[simp] theorem State.updGrp_coal (g : Nat) (f : GrpRec → GrpRec) : (s.updGrp g f).coal = s.coal := rfl
@[simp] theorem State.updGrp_held (g : Nat) (f : GrpRec → GrpRec) : (s.updGrp g f).held = s.held := rfl
@[simp] theorem State.updGrp_trngBad (g : Nat) (f : GrpRec → GrpRec) : (s.updGrp g f).trngBad = s.trngBad := rfl
@[simp] theorem State.updGrp_memWin (g : Nat) (f : GrpRec → GrpRec) : (s.updGrp g f).memWin = s.memWin := rfl
@[simp] theorem State.updGrp_memHeld (g : Nat) (f : GrpRec → GrpRec) : (s.updGrp g f).memHeld = s.memHeld := rfl
@[simp] theorem State.updGrp_merge (g : Nat) (f : GrpRec → GrpRec) : (s.updGrp g f).merge = s.merge := rfl
@[simp] theorem State.updGrp_recovering (g : Nat) (f : GrpRec → GrpRec) : (s.updGrp g f).recovering = s.recovering := rfl
@[simp] theorem State.updGrp_pred (g : Nat) (f : GrpRec → GrpRec) : (s.updGrp g f).pred = s.pred := rfl
@[simp] theorem State.updGrp_sys (g : Nat) (f : GrpRec → GrpRec) : (s.updGrp g f).sys = s.sys := rfl
@[simp] theorem State.updGrp_mgt (g : Nat) (f : GrpRec → GrpRec) : (s.updGrp g f).mgt = s.mgt := rfl
@[simp] theorem State.updGrp_spdm (g : Nat) (f : GrpRec → GrpRec) : (s.updGrp g f).spdm = s.spdm := rfl
@[simp] theorem State.updGrp_freeIdx (g : Nat) (f : GrpRec → GrpRec) : (s.updGrp g f).freeIdx = s.freeIdx := rfl
@[simp] theorem State.updGrp_resp (g : Nat) (f : GrpRec → GrpRec) : (s.updGrp g f).resp = s.resp := rfl
@[simp] theorem State.updGrp_out (g : Nat) (f : GrpRec → GrpRec) : (s.updGrp g f).out = s.out := rfl
@[simp] theorem State.updGrp_get (g : Nat) (f : GrpRec → GrpRec) (v : UnitId) (h : Field) : (s.updGrp g f).get v h = s.get v h := State.get_of_regs (s := s) (t := s.updGrp g f) rfl _ _
@[simp] theorem State.updGrp_part (g : Nat) (f : GrpRec → GrpRec) (q : Nat) : (s.updGrp g f).part q = s.part q := rfl
@[simp] theorem State.updGrp_pgePart (g : Nat) (f : GrpRec → GrpRec) (q : Nat) : (s.updGrp g f).pgePart q = s.pgePart q := rfl
@[simp] theorem State.updGrp_unit (g : Nat) (f : GrpRec → GrpRec) (v : UnitId) : (s.updGrp g f).unit v = s.unit v := rfl
@[simp] theorem State.updGrp_byte (g : Nat) (f : GrpRec → GrpRec) (k : Nat) : (s.updGrp g f).byte k = s.byte k := rfl
@[simp] theorem State.updGrp_secPart (g : Nat) (f : GrpRec → GrpRec) (q : Nat) : (s.updGrp g f).secPart q = s.secPart q := rfl
@[simp] theorem State.updGrp_counterVal (g : Nat) (f : GrpRec → GrpRec) (q : Nat) : (s.updGrp g f).counterVal q = s.counterVal q := rfl
@[simp] theorem State.updGrp_bank (g : Nat) (f : GrpRec → GrpRec) (v : UnitId) : (s.updGrp g f).bank v = s.bank v := rfl
@[simp] theorem State.updGrp_live (g : Nat) (f : GrpRec → GrpRec) (v : UnitId) (k : Nat) : (s.updGrp g f).live v k = s.live v k := rfl

/-! ## updColl -/

@[simp] theorem State.updColl_pending (g q : Nat) (f : CollRec → CollRec) : (s.updColl g q f).pending = s.pending := rfl
@[simp] theorem State.updColl_regs (g q : Nat) (f : CollRec → CollRec) : (s.updColl g q f).regs = s.regs := rfl
@[simp] theorem State.updColl_counts (g q : Nat) (f : CollRec → CollRec) : (s.updColl g q f).counts = s.counts := rfl
@[simp] theorem State.updColl_snaps (g q : Nat) (f : CollRec → CollRec) : (s.updColl g q f).snaps = s.snaps := rfl
@[simp] theorem State.updColl_mem (g q : Nat) (f : CollRec → CollRec) : (s.updColl g q f).mem = s.mem := rfl
@[simp] theorem State.updColl_poison (g q : Nat) (f : CollRec → CollRec) : (s.updColl g q f).poison = s.poison := rfl
@[simp] theorem State.updColl_resv (g q : Nat) (f : CollRec → CollRec) : (s.updColl g q f).resv = s.resv := rfl
@[simp] theorem State.updColl_hurt (g q : Nat) (f : CollRec → CollRec) : (s.updColl g q f).hurt = s.hurt := rfl
@[simp] theorem State.updColl_cache (g q : Nat) (f : CollRec → CollRec) : (s.updColl g q f).cache = s.cache := rfl
@[simp] theorem State.updColl_tbl (g q : Nat) (f : CollRec → CollRec) : (s.updColl g q f).tbl = s.tbl := rfl
@[simp] theorem State.updColl_memWait (g q : Nat) (f : CollRec → CollRec) : (s.updColl g q f).memWait = s.memWait := rfl
@[simp] theorem State.updColl_tierOut (g q : Nat) (f : CollRec → CollRec) : (s.updColl g q f).tierOut = s.tierOut := rfl
@[simp] theorem State.updColl_scoreboard (g q : Nat) (f : CollRec → CollRec) : (s.updColl g q f).scoreboard = s.scoreboard := rfl
@[simp] theorem State.updColl_parts (g q : Nat) (f : CollRec → CollRec) : (s.updColl g q f).parts = s.parts := rfl
@[simp] theorem State.updColl_pge (g q : Nat) (f : CollRec → CollRec) : (s.updColl g q f).pge = s.pge := rfl
@[simp] theorem State.updColl_units (g q : Nat) (f : CollRec → CollRec) : (s.updColl g q f).units = s.units := rfl
@[simp] theorem State.updColl_talon (g q : Nat) (f : CollRec → CollRec) : (s.updColl g q f).talon = s.talon := rfl
@[simp] theorem State.updColl_sec (g q : Nat) (f : CollRec → CollRec) : (s.updColl g q f).sec = s.sec := rfl
@[simp] theorem State.updColl_secMod (g q : Nat) (f : CollRec → CollRec) : (s.updColl g q f).secMod = s.secMod := rfl
@[simp] theorem State.updColl_pwr (g q : Nat) (f : CollRec → CollRec) : (s.updColl g q f).pwr = s.pwr := rfl
@[simp] theorem State.updColl_txn (g q : Nat) (f : CollRec → CollRec) : (s.updColl g q f).txn = s.txn := rfl
@[simp] theorem State.updColl_net (g q : Nat) (f : CollRec → CollRec) : (s.updColl g q f).net = s.net := rfl
@[simp] theorem State.updColl_grps (g q : Nat) (f : CollRec → CollRec) : (s.updColl g q f).grps = s.grps := rfl
@[simp] theorem State.updColl_txnNextId (g q : Nat) (f : CollRec → CollRec) : (s.updColl g q f).txnNextId = s.txnNextId := rfl
@[simp] theorem State.updColl_modWait (g q : Nat) (f : CollRec → CollRec) : (s.updColl g q f).modWait = s.modWait := rfl
@[simp] theorem State.updColl_modSeq (g q : Nat) (f : CollRec → CollRec) : (s.updColl g q f).modSeq = s.modSeq := rfl
@[simp] theorem State.updColl_modLost (g q : Nat) (f : CollRec → CollRec) : (s.updColl g q f).modLost = s.modLost := rfl
@[simp] theorem State.updColl_modUnsig (g q : Nat) (f : CollRec → CollRec) : (s.updColl g q f).modUnsig = s.modUnsig := rfl
@[simp] theorem State.updColl_coal (g q : Nat) (f : CollRec → CollRec) : (s.updColl g q f).coal = s.coal := rfl
@[simp] theorem State.updColl_held (g q : Nat) (f : CollRec → CollRec) : (s.updColl g q f).held = s.held := rfl
@[simp] theorem State.updColl_trngBad (g q : Nat) (f : CollRec → CollRec) : (s.updColl g q f).trngBad = s.trngBad := rfl
@[simp] theorem State.updColl_memWin (g q : Nat) (f : CollRec → CollRec) : (s.updColl g q f).memWin = s.memWin := rfl
@[simp] theorem State.updColl_memHeld (g q : Nat) (f : CollRec → CollRec) : (s.updColl g q f).memHeld = s.memHeld := rfl
@[simp] theorem State.updColl_merge (g q : Nat) (f : CollRec → CollRec) : (s.updColl g q f).merge = s.merge := rfl
@[simp] theorem State.updColl_recovering (g q : Nat) (f : CollRec → CollRec) : (s.updColl g q f).recovering = s.recovering := rfl
@[simp] theorem State.updColl_pred (g q : Nat) (f : CollRec → CollRec) : (s.updColl g q f).pred = s.pred := rfl
@[simp] theorem State.updColl_sys (g q : Nat) (f : CollRec → CollRec) : (s.updColl g q f).sys = s.sys := rfl
@[simp] theorem State.updColl_mgt (g q : Nat) (f : CollRec → CollRec) : (s.updColl g q f).mgt = s.mgt := rfl
@[simp] theorem State.updColl_spdm (g q : Nat) (f : CollRec → CollRec) : (s.updColl g q f).spdm = s.spdm := rfl
@[simp] theorem State.updColl_freeIdx (g q : Nat) (f : CollRec → CollRec) : (s.updColl g q f).freeIdx = s.freeIdx := rfl
@[simp] theorem State.updColl_resp (g q : Nat) (f : CollRec → CollRec) : (s.updColl g q f).resp = s.resp := rfl
@[simp] theorem State.updColl_out (g q : Nat) (f : CollRec → CollRec) : (s.updColl g q f).out = s.out := rfl
@[simp] theorem State.updColl_get (g q : Nat) (f : CollRec → CollRec) (v : UnitId) (h : Field) : (s.updColl g q f).get v h = s.get v h := State.get_of_regs (s := s) (t := s.updColl g q f) rfl _ _
@[simp] theorem State.updColl_part (g q : Nat) (f : CollRec → CollRec) (q : Nat) : (s.updColl g q f).part q = s.part q := rfl
@[simp] theorem State.updColl_pgePart (g q : Nat) (f : CollRec → CollRec) (q : Nat) : (s.updColl g q f).pgePart q = s.pgePart q := rfl
@[simp] theorem State.updColl_unit (g q : Nat) (f : CollRec → CollRec) (v : UnitId) : (s.updColl g q f).unit v = s.unit v := rfl
@[simp] theorem State.updColl_byte (g q : Nat) (f : CollRec → CollRec) (k : Nat) : (s.updColl g q f).byte k = s.byte k := rfl
@[simp] theorem State.updColl_secPart (g q : Nat) (f : CollRec → CollRec) (q : Nat) : (s.updColl g q f).secPart q = s.secPart q := rfl
@[simp] theorem State.updColl_grpRec (g q : Nat) (f : CollRec → CollRec) (q : Nat) : (s.updColl g q f).grpRec q = s.grpRec q := rfl
@[simp] theorem State.updColl_counterVal (g q : Nat) (f : CollRec → CollRec) (q : Nat) : (s.updColl g q f).counterVal q = s.counterVal q := rfl
@[simp] theorem State.updColl_bank (g q : Nat) (f : CollRec → CollRec) (v : UnitId) : (s.updColl g q f).bank v = s.bank v := rfl
@[simp] theorem State.updColl_live (g q : Nat) (f : CollRec → CollRec) (v : UnitId) (k : Nat) : (s.updColl g q f).live v k = s.live v k := rfl

/-! ## signal -/

@[simp] theorem State.signal_pending (c n : Nat) : (s.signal c n).pending = s.pending := rfl
@[simp] theorem State.signal_regs (c n : Nat) : (s.signal c n).regs = s.regs := rfl
@[simp] theorem State.signal_counts (c n : Nat) : (s.signal c n).counts = s.counts := rfl
@[simp] theorem State.signal_snaps (c n : Nat) : (s.signal c n).snaps = s.snaps := rfl
@[simp] theorem State.signal_mem (c n : Nat) : (s.signal c n).mem = s.mem := rfl
@[simp] theorem State.signal_poison (c n : Nat) : (s.signal c n).poison = s.poison := rfl
@[simp] theorem State.signal_resv (c n : Nat) : (s.signal c n).resv = s.resv := rfl
@[simp] theorem State.signal_hurt (c n : Nat) : (s.signal c n).hurt = s.hurt := rfl
@[simp] theorem State.signal_cache (c n : Nat) : (s.signal c n).cache = s.cache := rfl
@[simp] theorem State.signal_tbl (c n : Nat) : (s.signal c n).tbl = s.tbl := rfl
@[simp] theorem State.signal_memWait (c n : Nat) : (s.signal c n).memWait = s.memWait := rfl
@[simp] theorem State.signal_tierOut (c n : Nat) : (s.signal c n).tierOut = s.tierOut := rfl
@[simp] theorem State.signal_parts (c n : Nat) : (s.signal c n).parts = s.parts := rfl
@[simp] theorem State.signal_pge (c n : Nat) : (s.signal c n).pge = s.pge := rfl
@[simp] theorem State.signal_units (c n : Nat) : (s.signal c n).units = s.units := rfl
@[simp] theorem State.signal_talon (c n : Nat) : (s.signal c n).talon = s.talon := rfl
@[simp] theorem State.signal_sec (c n : Nat) : (s.signal c n).sec = s.sec := rfl
@[simp] theorem State.signal_secMod (c n : Nat) : (s.signal c n).secMod = s.secMod := rfl
@[simp] theorem State.signal_pwr (c n : Nat) : (s.signal c n).pwr = s.pwr := rfl
@[simp] theorem State.signal_txn (c n : Nat) : (s.signal c n).txn = s.txn := rfl
@[simp] theorem State.signal_net (c n : Nat) : (s.signal c n).net = s.net := rfl
@[simp] theorem State.signal_coll (c n : Nat) : (s.signal c n).coll = s.coll := rfl
@[simp] theorem State.signal_grps (c n : Nat) : (s.signal c n).grps = s.grps := rfl
@[simp] theorem State.signal_txnNextId (c n : Nat) : (s.signal c n).txnNextId = s.txnNextId := rfl
@[simp] theorem State.signal_modWait (c n : Nat) : (s.signal c n).modWait = s.modWait := rfl
@[simp] theorem State.signal_modSeq (c n : Nat) : (s.signal c n).modSeq = s.modSeq := rfl
@[simp] theorem State.signal_modLost (c n : Nat) : (s.signal c n).modLost = s.modLost := rfl
@[simp] theorem State.signal_modUnsig (c n : Nat) : (s.signal c n).modUnsig = s.modUnsig := rfl
@[simp] theorem State.signal_coal (c n : Nat) : (s.signal c n).coal = s.coal := rfl
@[simp] theorem State.signal_held (c n : Nat) : (s.signal c n).held = s.held := rfl
@[simp] theorem State.signal_trngBad (c n : Nat) : (s.signal c n).trngBad = s.trngBad := rfl
@[simp] theorem State.signal_memWin (c n : Nat) : (s.signal c n).memWin = s.memWin := rfl
@[simp] theorem State.signal_memHeld (c n : Nat) : (s.signal c n).memHeld = s.memHeld := rfl
@[simp] theorem State.signal_merge (c n : Nat) : (s.signal c n).merge = s.merge := rfl
@[simp] theorem State.signal_recovering (c n : Nat) : (s.signal c n).recovering = s.recovering := rfl
@[simp] theorem State.signal_pred (c n : Nat) : (s.signal c n).pred = s.pred := rfl
@[simp] theorem State.signal_sys (c n : Nat) : (s.signal c n).sys = s.sys := rfl
@[simp] theorem State.signal_mgt (c n : Nat) : (s.signal c n).mgt = s.mgt := rfl
@[simp] theorem State.signal_spdm (c n : Nat) : (s.signal c n).spdm = s.spdm := rfl
@[simp] theorem State.signal_freeIdx (c n : Nat) : (s.signal c n).freeIdx = s.freeIdx := rfl
@[simp] theorem State.signal_resp (c n : Nat) : (s.signal c n).resp = s.resp := rfl
@[simp] theorem State.signal_out (c n : Nat) : (s.signal c n).out = s.out := rfl
@[simp] theorem State.signal_get (c n : Nat) (v : UnitId) (h : Field) : (s.signal c n).get v h = s.get v h := State.get_of_regs (s := s) (t := s.signal c n) rfl _ _
@[simp] theorem State.signal_part (c n : Nat) (q : Nat) : (s.signal c n).part q = s.part q := rfl
@[simp] theorem State.signal_pgePart (c n : Nat) (q : Nat) : (s.signal c n).pgePart q = s.pgePart q := rfl
@[simp] theorem State.signal_unit (c n : Nat) (v : UnitId) : (s.signal c n).unit v = s.unit v := rfl
@[simp] theorem State.signal_byte (c n : Nat) (k : Nat) : (s.signal c n).byte k = s.byte k := rfl
@[simp] theorem State.signal_secPart (c n : Nat) (q : Nat) : (s.signal c n).secPart q = s.secPart q := rfl
@[simp] theorem State.signal_grpRec (c n : Nat) (q : Nat) : (s.signal c n).grpRec q = s.grpRec q := rfl
@[simp] theorem State.signal_bank (c n : Nat) (v : UnitId) : (s.signal c n).bank v = s.bank v := rfl
@[simp] theorem State.signal_live (c n : Nat) (v : UnitId) (k : Nat) : (s.signal c n).live v k = s.live v k := rfl

/-! ## setBank -/

@[simp] theorem State.setBank_pending (u : UnitId) (r : TblRec) : (s.setBank u r).pending = s.pending := rfl
@[simp] theorem State.setBank_regs (u : UnitId) (r : TblRec) : (s.setBank u r).regs = s.regs := rfl
@[simp] theorem State.setBank_counts (u : UnitId) (r : TblRec) : (s.setBank u r).counts = s.counts := rfl
@[simp] theorem State.setBank_snaps (u : UnitId) (r : TblRec) : (s.setBank u r).snaps = s.snaps := rfl
@[simp] theorem State.setBank_mem (u : UnitId) (r : TblRec) : (s.setBank u r).mem = s.mem := rfl
@[simp] theorem State.setBank_poison (u : UnitId) (r : TblRec) : (s.setBank u r).poison = s.poison := rfl
@[simp] theorem State.setBank_resv (u : UnitId) (r : TblRec) : (s.setBank u r).resv = s.resv := rfl
@[simp] theorem State.setBank_hurt (u : UnitId) (r : TblRec) : (s.setBank u r).hurt = s.hurt := rfl
@[simp] theorem State.setBank_cache (u : UnitId) (r : TblRec) : (s.setBank u r).cache = s.cache := rfl
@[simp] theorem State.setBank_memWait (u : UnitId) (r : TblRec) : (s.setBank u r).memWait = s.memWait := rfl
@[simp] theorem State.setBank_tierOut (u : UnitId) (r : TblRec) : (s.setBank u r).tierOut = s.tierOut := rfl
@[simp] theorem State.setBank_scoreboard (u : UnitId) (r : TblRec) : (s.setBank u r).scoreboard = s.scoreboard := rfl
@[simp] theorem State.setBank_parts (u : UnitId) (r : TblRec) : (s.setBank u r).parts = s.parts := rfl
@[simp] theorem State.setBank_pge (u : UnitId) (r : TblRec) : (s.setBank u r).pge = s.pge := rfl
@[simp] theorem State.setBank_units (u : UnitId) (r : TblRec) : (s.setBank u r).units = s.units := rfl
@[simp] theorem State.setBank_talon (u : UnitId) (r : TblRec) : (s.setBank u r).talon = s.talon := rfl
@[simp] theorem State.setBank_sec (u : UnitId) (r : TblRec) : (s.setBank u r).sec = s.sec := rfl
@[simp] theorem State.setBank_secMod (u : UnitId) (r : TblRec) : (s.setBank u r).secMod = s.secMod := rfl
@[simp] theorem State.setBank_pwr (u : UnitId) (r : TblRec) : (s.setBank u r).pwr = s.pwr := rfl
@[simp] theorem State.setBank_txn (u : UnitId) (r : TblRec) : (s.setBank u r).txn = s.txn := rfl
@[simp] theorem State.setBank_net (u : UnitId) (r : TblRec) : (s.setBank u r).net = s.net := rfl
@[simp] theorem State.setBank_coll (u : UnitId) (r : TblRec) : (s.setBank u r).coll = s.coll := rfl
@[simp] theorem State.setBank_grps (u : UnitId) (r : TblRec) : (s.setBank u r).grps = s.grps := rfl
@[simp] theorem State.setBank_txnNextId (u : UnitId) (r : TblRec) : (s.setBank u r).txnNextId = s.txnNextId := rfl
@[simp] theorem State.setBank_modWait (u : UnitId) (r : TblRec) : (s.setBank u r).modWait = s.modWait := rfl
@[simp] theorem State.setBank_modSeq (u : UnitId) (r : TblRec) : (s.setBank u r).modSeq = s.modSeq := rfl
@[simp] theorem State.setBank_modLost (u : UnitId) (r : TblRec) : (s.setBank u r).modLost = s.modLost := rfl
@[simp] theorem State.setBank_modUnsig (u : UnitId) (r : TblRec) : (s.setBank u r).modUnsig = s.modUnsig := rfl
@[simp] theorem State.setBank_coal (u : UnitId) (r : TblRec) : (s.setBank u r).coal = s.coal := rfl
@[simp] theorem State.setBank_held (u : UnitId) (r : TblRec) : (s.setBank u r).held = s.held := rfl
@[simp] theorem State.setBank_trngBad (u : UnitId) (r : TblRec) : (s.setBank u r).trngBad = s.trngBad := rfl
@[simp] theorem State.setBank_memWin (u : UnitId) (r : TblRec) : (s.setBank u r).memWin = s.memWin := rfl
@[simp] theorem State.setBank_memHeld (u : UnitId) (r : TblRec) : (s.setBank u r).memHeld = s.memHeld := rfl
@[simp] theorem State.setBank_merge (u : UnitId) (r : TblRec) : (s.setBank u r).merge = s.merge := rfl
@[simp] theorem State.setBank_recovering (u : UnitId) (r : TblRec) : (s.setBank u r).recovering = s.recovering := rfl
@[simp] theorem State.setBank_pred (u : UnitId) (r : TblRec) : (s.setBank u r).pred = s.pred := rfl
@[simp] theorem State.setBank_sys (u : UnitId) (r : TblRec) : (s.setBank u r).sys = s.sys := rfl
@[simp] theorem State.setBank_mgt (u : UnitId) (r : TblRec) : (s.setBank u r).mgt = s.mgt := rfl
@[simp] theorem State.setBank_spdm (u : UnitId) (r : TblRec) : (s.setBank u r).spdm = s.spdm := rfl
@[simp] theorem State.setBank_freeIdx (u : UnitId) (r : TblRec) : (s.setBank u r).freeIdx = s.freeIdx := rfl
@[simp] theorem State.setBank_resp (u : UnitId) (r : TblRec) : (s.setBank u r).resp = s.resp := rfl
@[simp] theorem State.setBank_out (u : UnitId) (r : TblRec) : (s.setBank u r).out = s.out := rfl
@[simp] theorem State.setBank_get (u : UnitId) (r : TblRec) (v : UnitId) (h : Field) : (s.setBank u r).get v h = s.get v h := State.get_of_regs (s := s) (t := s.setBank u r) rfl _ _
@[simp] theorem State.setBank_part (u : UnitId) (r : TblRec) (q : Nat) : (s.setBank u r).part q = s.part q := rfl
@[simp] theorem State.setBank_pgePart (u : UnitId) (r : TblRec) (q : Nat) : (s.setBank u r).pgePart q = s.pgePart q := rfl
@[simp] theorem State.setBank_unit (u : UnitId) (r : TblRec) (v : UnitId) : (s.setBank u r).unit v = s.unit v := rfl
@[simp] theorem State.setBank_byte (u : UnitId) (r : TblRec) (k : Nat) : (s.setBank u r).byte k = s.byte k := rfl
@[simp] theorem State.setBank_secPart (u : UnitId) (r : TblRec) (q : Nat) : (s.setBank u r).secPart q = s.secPart q := rfl
@[simp] theorem State.setBank_grpRec (u : UnitId) (r : TblRec) (q : Nat) : (s.setBank u r).grpRec q = s.grpRec q := rfl
@[simp] theorem State.setBank_counterVal (u : UnitId) (r : TblRec) (q : Nat) : (s.setBank u r).counterVal q = s.counterVal q := rfl
@[simp] theorem State.setBank_live (u : UnitId) (r : TblRec) (v : UnitId) (k : Nat) : (s.setBank u r).live v k = s.live v k := rfl

/-! ## setPwr -/

@[simp] theorem State.setPwr_pending (f : PwrRec → PwrRec) : (s.setPwr f).pending = s.pending := rfl
@[simp] theorem State.setPwr_regs (f : PwrRec → PwrRec) : (s.setPwr f).regs = s.regs := rfl
@[simp] theorem State.setPwr_counts (f : PwrRec → PwrRec) : (s.setPwr f).counts = s.counts := rfl
@[simp] theorem State.setPwr_snaps (f : PwrRec → PwrRec) : (s.setPwr f).snaps = s.snaps := rfl
@[simp] theorem State.setPwr_mem (f : PwrRec → PwrRec) : (s.setPwr f).mem = s.mem := rfl
@[simp] theorem State.setPwr_poison (f : PwrRec → PwrRec) : (s.setPwr f).poison = s.poison := rfl
@[simp] theorem State.setPwr_resv (f : PwrRec → PwrRec) : (s.setPwr f).resv = s.resv := rfl
@[simp] theorem State.setPwr_hurt (f : PwrRec → PwrRec) : (s.setPwr f).hurt = s.hurt := rfl
@[simp] theorem State.setPwr_cache (f : PwrRec → PwrRec) : (s.setPwr f).cache = s.cache := rfl
@[simp] theorem State.setPwr_tbl (f : PwrRec → PwrRec) : (s.setPwr f).tbl = s.tbl := rfl
@[simp] theorem State.setPwr_memWait (f : PwrRec → PwrRec) : (s.setPwr f).memWait = s.memWait := rfl
@[simp] theorem State.setPwr_tierOut (f : PwrRec → PwrRec) : (s.setPwr f).tierOut = s.tierOut := rfl
@[simp] theorem State.setPwr_scoreboard (f : PwrRec → PwrRec) : (s.setPwr f).scoreboard = s.scoreboard := rfl
@[simp] theorem State.setPwr_parts (f : PwrRec → PwrRec) : (s.setPwr f).parts = s.parts := rfl
@[simp] theorem State.setPwr_pge (f : PwrRec → PwrRec) : (s.setPwr f).pge = s.pge := rfl
@[simp] theorem State.setPwr_units (f : PwrRec → PwrRec) : (s.setPwr f).units = s.units := rfl
@[simp] theorem State.setPwr_talon (f : PwrRec → PwrRec) : (s.setPwr f).talon = s.talon := rfl
@[simp] theorem State.setPwr_sec (f : PwrRec → PwrRec) : (s.setPwr f).sec = s.sec := rfl
@[simp] theorem State.setPwr_secMod (f : PwrRec → PwrRec) : (s.setPwr f).secMod = s.secMod := rfl
@[simp] theorem State.setPwr_pwr (f : PwrRec → PwrRec) : (s.setPwr f).pwr = f s.pwr := rfl
@[simp] theorem State.setPwr_txn (f : PwrRec → PwrRec) : (s.setPwr f).txn = s.txn := rfl
@[simp] theorem State.setPwr_net (f : PwrRec → PwrRec) : (s.setPwr f).net = s.net := rfl
@[simp] theorem State.setPwr_coll (f : PwrRec → PwrRec) : (s.setPwr f).coll = s.coll := rfl
@[simp] theorem State.setPwr_grps (f : PwrRec → PwrRec) : (s.setPwr f).grps = s.grps := rfl
@[simp] theorem State.setPwr_txnNextId (f : PwrRec → PwrRec) : (s.setPwr f).txnNextId = s.txnNextId := rfl
@[simp] theorem State.setPwr_modWait (f : PwrRec → PwrRec) : (s.setPwr f).modWait = s.modWait := rfl
@[simp] theorem State.setPwr_modSeq (f : PwrRec → PwrRec) : (s.setPwr f).modSeq = s.modSeq := rfl
@[simp] theorem State.setPwr_modLost (f : PwrRec → PwrRec) : (s.setPwr f).modLost = s.modLost := rfl
@[simp] theorem State.setPwr_modUnsig (f : PwrRec → PwrRec) : (s.setPwr f).modUnsig = s.modUnsig := rfl
@[simp] theorem State.setPwr_coal (f : PwrRec → PwrRec) : (s.setPwr f).coal = s.coal := rfl
@[simp] theorem State.setPwr_held (f : PwrRec → PwrRec) : (s.setPwr f).held = s.held := rfl
@[simp] theorem State.setPwr_trngBad (f : PwrRec → PwrRec) : (s.setPwr f).trngBad = s.trngBad := rfl
@[simp] theorem State.setPwr_memWin (f : PwrRec → PwrRec) : (s.setPwr f).memWin = s.memWin := rfl
@[simp] theorem State.setPwr_memHeld (f : PwrRec → PwrRec) : (s.setPwr f).memHeld = s.memHeld := rfl
@[simp] theorem State.setPwr_merge (f : PwrRec → PwrRec) : (s.setPwr f).merge = s.merge := rfl
@[simp] theorem State.setPwr_recovering (f : PwrRec → PwrRec) : (s.setPwr f).recovering = s.recovering := rfl
@[simp] theorem State.setPwr_pred (f : PwrRec → PwrRec) : (s.setPwr f).pred = s.pred := rfl
@[simp] theorem State.setPwr_sys (f : PwrRec → PwrRec) : (s.setPwr f).sys = s.sys := rfl
@[simp] theorem State.setPwr_mgt (f : PwrRec → PwrRec) : (s.setPwr f).mgt = s.mgt := rfl
@[simp] theorem State.setPwr_spdm (f : PwrRec → PwrRec) : (s.setPwr f).spdm = s.spdm := rfl
@[simp] theorem State.setPwr_freeIdx (f : PwrRec → PwrRec) : (s.setPwr f).freeIdx = s.freeIdx := rfl
@[simp] theorem State.setPwr_resp (f : PwrRec → PwrRec) : (s.setPwr f).resp = s.resp := rfl
@[simp] theorem State.setPwr_out (f : PwrRec → PwrRec) : (s.setPwr f).out = s.out := rfl
@[simp] theorem State.setPwr_get (f : PwrRec → PwrRec) (v : UnitId) (h : Field) : (s.setPwr f).get v h = s.get v h := State.get_of_regs (s := s) (t := s.setPwr f) rfl _ _
@[simp] theorem State.setPwr_part (f : PwrRec → PwrRec) (q : Nat) : (s.setPwr f).part q = s.part q := rfl
@[simp] theorem State.setPwr_pgePart (f : PwrRec → PwrRec) (q : Nat) : (s.setPwr f).pgePart q = s.pgePart q := rfl
@[simp] theorem State.setPwr_unit (f : PwrRec → PwrRec) (v : UnitId) : (s.setPwr f).unit v = s.unit v := rfl
@[simp] theorem State.setPwr_byte (f : PwrRec → PwrRec) (k : Nat) : (s.setPwr f).byte k = s.byte k := rfl
@[simp] theorem State.setPwr_secPart (f : PwrRec → PwrRec) (q : Nat) : (s.setPwr f).secPart q = s.secPart q := rfl
@[simp] theorem State.setPwr_grpRec (f : PwrRec → PwrRec) (q : Nat) : (s.setPwr f).grpRec q = s.grpRec q := rfl
@[simp] theorem State.setPwr_counterVal (f : PwrRec → PwrRec) (q : Nat) : (s.setPwr f).counterVal q = s.counterVal q := rfl
@[simp] theorem State.setPwr_bank (f : PwrRec → PwrRec) (v : UnitId) : (s.setPwr f).bank v = s.bank v := rfl
@[simp] theorem State.setPwr_live (f : PwrRec → PwrRec) (v : UnitId) (k : Nat) : (s.setPwr f).live v k = s.live v k := rfl

/-! ## setSys -/

@[simp] theorem State.setSys_pending (f : SysRec → SysRec) : (s.setSys f).pending = s.pending := rfl
@[simp] theorem State.setSys_regs (f : SysRec → SysRec) : (s.setSys f).regs = s.regs := rfl
@[simp] theorem State.setSys_counts (f : SysRec → SysRec) : (s.setSys f).counts = s.counts := rfl
@[simp] theorem State.setSys_snaps (f : SysRec → SysRec) : (s.setSys f).snaps = s.snaps := rfl
@[simp] theorem State.setSys_mem (f : SysRec → SysRec) : (s.setSys f).mem = s.mem := rfl
@[simp] theorem State.setSys_poison (f : SysRec → SysRec) : (s.setSys f).poison = s.poison := rfl
@[simp] theorem State.setSys_resv (f : SysRec → SysRec) : (s.setSys f).resv = s.resv := rfl
@[simp] theorem State.setSys_hurt (f : SysRec → SysRec) : (s.setSys f).hurt = s.hurt := rfl
@[simp] theorem State.setSys_cache (f : SysRec → SysRec) : (s.setSys f).cache = s.cache := rfl
@[simp] theorem State.setSys_tbl (f : SysRec → SysRec) : (s.setSys f).tbl = s.tbl := rfl
@[simp] theorem State.setSys_memWait (f : SysRec → SysRec) : (s.setSys f).memWait = s.memWait := rfl
@[simp] theorem State.setSys_tierOut (f : SysRec → SysRec) : (s.setSys f).tierOut = s.tierOut := rfl
@[simp] theorem State.setSys_scoreboard (f : SysRec → SysRec) : (s.setSys f).scoreboard = s.scoreboard := rfl
@[simp] theorem State.setSys_parts (f : SysRec → SysRec) : (s.setSys f).parts = s.parts := rfl
@[simp] theorem State.setSys_pge (f : SysRec → SysRec) : (s.setSys f).pge = s.pge := rfl
@[simp] theorem State.setSys_units (f : SysRec → SysRec) : (s.setSys f).units = s.units := rfl
@[simp] theorem State.setSys_talon (f : SysRec → SysRec) : (s.setSys f).talon = s.talon := rfl
@[simp] theorem State.setSys_sec (f : SysRec → SysRec) : (s.setSys f).sec = s.sec := rfl
@[simp] theorem State.setSys_secMod (f : SysRec → SysRec) : (s.setSys f).secMod = s.secMod := rfl
@[simp] theorem State.setSys_pwr (f : SysRec → SysRec) : (s.setSys f).pwr = s.pwr := rfl
@[simp] theorem State.setSys_txn (f : SysRec → SysRec) : (s.setSys f).txn = s.txn := rfl
@[simp] theorem State.setSys_net (f : SysRec → SysRec) : (s.setSys f).net = s.net := rfl
@[simp] theorem State.setSys_coll (f : SysRec → SysRec) : (s.setSys f).coll = s.coll := rfl
@[simp] theorem State.setSys_grps (f : SysRec → SysRec) : (s.setSys f).grps = s.grps := rfl
@[simp] theorem State.setSys_txnNextId (f : SysRec → SysRec) : (s.setSys f).txnNextId = s.txnNextId := rfl
@[simp] theorem State.setSys_modWait (f : SysRec → SysRec) : (s.setSys f).modWait = s.modWait := rfl
@[simp] theorem State.setSys_modSeq (f : SysRec → SysRec) : (s.setSys f).modSeq = s.modSeq := rfl
@[simp] theorem State.setSys_modLost (f : SysRec → SysRec) : (s.setSys f).modLost = s.modLost := rfl
@[simp] theorem State.setSys_modUnsig (f : SysRec → SysRec) : (s.setSys f).modUnsig = s.modUnsig := rfl
@[simp] theorem State.setSys_coal (f : SysRec → SysRec) : (s.setSys f).coal = s.coal := rfl
@[simp] theorem State.setSys_held (f : SysRec → SysRec) : (s.setSys f).held = s.held := rfl
@[simp] theorem State.setSys_trngBad (f : SysRec → SysRec) : (s.setSys f).trngBad = s.trngBad := rfl
@[simp] theorem State.setSys_memWin (f : SysRec → SysRec) : (s.setSys f).memWin = s.memWin := rfl
@[simp] theorem State.setSys_memHeld (f : SysRec → SysRec) : (s.setSys f).memHeld = s.memHeld := rfl
@[simp] theorem State.setSys_merge (f : SysRec → SysRec) : (s.setSys f).merge = s.merge := rfl
@[simp] theorem State.setSys_recovering (f : SysRec → SysRec) : (s.setSys f).recovering = s.recovering := rfl
@[simp] theorem State.setSys_pred (f : SysRec → SysRec) : (s.setSys f).pred = s.pred := rfl
@[simp] theorem State.setSys_sys (f : SysRec → SysRec) : (s.setSys f).sys = f s.sys := rfl
@[simp] theorem State.setSys_mgt (f : SysRec → SysRec) : (s.setSys f).mgt = s.mgt := rfl
@[simp] theorem State.setSys_spdm (f : SysRec → SysRec) : (s.setSys f).spdm = s.spdm := rfl
@[simp] theorem State.setSys_freeIdx (f : SysRec → SysRec) : (s.setSys f).freeIdx = s.freeIdx := rfl
@[simp] theorem State.setSys_resp (f : SysRec → SysRec) : (s.setSys f).resp = s.resp := rfl
@[simp] theorem State.setSys_out (f : SysRec → SysRec) : (s.setSys f).out = s.out := rfl
@[simp] theorem State.setSys_get (f : SysRec → SysRec) (v : UnitId) (h : Field) : (s.setSys f).get v h = s.get v h := State.get_of_regs (s := s) (t := s.setSys f) rfl _ _
@[simp] theorem State.setSys_part (f : SysRec → SysRec) (q : Nat) : (s.setSys f).part q = s.part q := rfl
@[simp] theorem State.setSys_pgePart (f : SysRec → SysRec) (q : Nat) : (s.setSys f).pgePart q = s.pgePart q := rfl
@[simp] theorem State.setSys_unit (f : SysRec → SysRec) (v : UnitId) : (s.setSys f).unit v = s.unit v := rfl
@[simp] theorem State.setSys_byte (f : SysRec → SysRec) (k : Nat) : (s.setSys f).byte k = s.byte k := rfl
@[simp] theorem State.setSys_secPart (f : SysRec → SysRec) (q : Nat) : (s.setSys f).secPart q = s.secPart q := rfl
@[simp] theorem State.setSys_grpRec (f : SysRec → SysRec) (q : Nat) : (s.setSys f).grpRec q = s.grpRec q := rfl
@[simp] theorem State.setSys_counterVal (f : SysRec → SysRec) (q : Nat) : (s.setSys f).counterVal q = s.counterVal q := rfl
@[simp] theorem State.setSys_bank (f : SysRec → SysRec) (v : UnitId) : (s.setSys f).bank v = s.bank v := rfl
@[simp] theorem State.setSys_live (f : SysRec → SysRec) (v : UnitId) (k : Nat) : (s.setSys f).live v k = s.live v k := rfl

/-! ## setMgt -/

@[simp] theorem State.setMgt_pending (f : MgtRec → MgtRec) : (s.setMgt f).pending = s.pending := rfl
@[simp] theorem State.setMgt_regs (f : MgtRec → MgtRec) : (s.setMgt f).regs = s.regs := rfl
@[simp] theorem State.setMgt_counts (f : MgtRec → MgtRec) : (s.setMgt f).counts = s.counts := rfl
@[simp] theorem State.setMgt_snaps (f : MgtRec → MgtRec) : (s.setMgt f).snaps = s.snaps := rfl
@[simp] theorem State.setMgt_mem (f : MgtRec → MgtRec) : (s.setMgt f).mem = s.mem := rfl
@[simp] theorem State.setMgt_poison (f : MgtRec → MgtRec) : (s.setMgt f).poison = s.poison := rfl
@[simp] theorem State.setMgt_resv (f : MgtRec → MgtRec) : (s.setMgt f).resv = s.resv := rfl
@[simp] theorem State.setMgt_hurt (f : MgtRec → MgtRec) : (s.setMgt f).hurt = s.hurt := rfl
@[simp] theorem State.setMgt_cache (f : MgtRec → MgtRec) : (s.setMgt f).cache = s.cache := rfl
@[simp] theorem State.setMgt_tbl (f : MgtRec → MgtRec) : (s.setMgt f).tbl = s.tbl := rfl
@[simp] theorem State.setMgt_memWait (f : MgtRec → MgtRec) : (s.setMgt f).memWait = s.memWait := rfl
@[simp] theorem State.setMgt_tierOut (f : MgtRec → MgtRec) : (s.setMgt f).tierOut = s.tierOut := rfl
@[simp] theorem State.setMgt_scoreboard (f : MgtRec → MgtRec) : (s.setMgt f).scoreboard = s.scoreboard := rfl
@[simp] theorem State.setMgt_parts (f : MgtRec → MgtRec) : (s.setMgt f).parts = s.parts := rfl
@[simp] theorem State.setMgt_pge (f : MgtRec → MgtRec) : (s.setMgt f).pge = s.pge := rfl
@[simp] theorem State.setMgt_units (f : MgtRec → MgtRec) : (s.setMgt f).units = s.units := rfl
@[simp] theorem State.setMgt_talon (f : MgtRec → MgtRec) : (s.setMgt f).talon = s.talon := rfl
@[simp] theorem State.setMgt_sec (f : MgtRec → MgtRec) : (s.setMgt f).sec = s.sec := rfl
@[simp] theorem State.setMgt_secMod (f : MgtRec → MgtRec) : (s.setMgt f).secMod = s.secMod := rfl
@[simp] theorem State.setMgt_pwr (f : MgtRec → MgtRec) : (s.setMgt f).pwr = s.pwr := rfl
@[simp] theorem State.setMgt_txn (f : MgtRec → MgtRec) : (s.setMgt f).txn = s.txn := rfl
@[simp] theorem State.setMgt_net (f : MgtRec → MgtRec) : (s.setMgt f).net = s.net := rfl
@[simp] theorem State.setMgt_coll (f : MgtRec → MgtRec) : (s.setMgt f).coll = s.coll := rfl
@[simp] theorem State.setMgt_grps (f : MgtRec → MgtRec) : (s.setMgt f).grps = s.grps := rfl
@[simp] theorem State.setMgt_txnNextId (f : MgtRec → MgtRec) : (s.setMgt f).txnNextId = s.txnNextId := rfl
@[simp] theorem State.setMgt_modWait (f : MgtRec → MgtRec) : (s.setMgt f).modWait = s.modWait := rfl
@[simp] theorem State.setMgt_modSeq (f : MgtRec → MgtRec) : (s.setMgt f).modSeq = s.modSeq := rfl
@[simp] theorem State.setMgt_modLost (f : MgtRec → MgtRec) : (s.setMgt f).modLost = s.modLost := rfl
@[simp] theorem State.setMgt_modUnsig (f : MgtRec → MgtRec) : (s.setMgt f).modUnsig = s.modUnsig := rfl
@[simp] theorem State.setMgt_coal (f : MgtRec → MgtRec) : (s.setMgt f).coal = s.coal := rfl
@[simp] theorem State.setMgt_held (f : MgtRec → MgtRec) : (s.setMgt f).held = s.held := rfl
@[simp] theorem State.setMgt_trngBad (f : MgtRec → MgtRec) : (s.setMgt f).trngBad = s.trngBad := rfl
@[simp] theorem State.setMgt_memWin (f : MgtRec → MgtRec) : (s.setMgt f).memWin = s.memWin := rfl
@[simp] theorem State.setMgt_memHeld (f : MgtRec → MgtRec) : (s.setMgt f).memHeld = s.memHeld := rfl
@[simp] theorem State.setMgt_merge (f : MgtRec → MgtRec) : (s.setMgt f).merge = s.merge := rfl
@[simp] theorem State.setMgt_recovering (f : MgtRec → MgtRec) : (s.setMgt f).recovering = s.recovering := rfl
@[simp] theorem State.setMgt_pred (f : MgtRec → MgtRec) : (s.setMgt f).pred = s.pred := rfl
@[simp] theorem State.setMgt_sys (f : MgtRec → MgtRec) : (s.setMgt f).sys = s.sys := rfl
@[simp] theorem State.setMgt_mgt (f : MgtRec → MgtRec) : (s.setMgt f).mgt = f s.mgt := rfl
@[simp] theorem State.setMgt_spdm (f : MgtRec → MgtRec) : (s.setMgt f).spdm = s.spdm := rfl
@[simp] theorem State.setMgt_freeIdx (f : MgtRec → MgtRec) : (s.setMgt f).freeIdx = s.freeIdx := rfl
@[simp] theorem State.setMgt_resp (f : MgtRec → MgtRec) : (s.setMgt f).resp = s.resp := rfl
@[simp] theorem State.setMgt_out (f : MgtRec → MgtRec) : (s.setMgt f).out = s.out := rfl
@[simp] theorem State.setMgt_get (f : MgtRec → MgtRec) (v : UnitId) (h : Field) : (s.setMgt f).get v h = s.get v h := State.get_of_regs (s := s) (t := s.setMgt f) rfl _ _
@[simp] theorem State.setMgt_part (f : MgtRec → MgtRec) (q : Nat) : (s.setMgt f).part q = s.part q := rfl
@[simp] theorem State.setMgt_pgePart (f : MgtRec → MgtRec) (q : Nat) : (s.setMgt f).pgePart q = s.pgePart q := rfl
@[simp] theorem State.setMgt_unit (f : MgtRec → MgtRec) (v : UnitId) : (s.setMgt f).unit v = s.unit v := rfl
@[simp] theorem State.setMgt_byte (f : MgtRec → MgtRec) (k : Nat) : (s.setMgt f).byte k = s.byte k := rfl
@[simp] theorem State.setMgt_secPart (f : MgtRec → MgtRec) (q : Nat) : (s.setMgt f).secPart q = s.secPart q := rfl
@[simp] theorem State.setMgt_grpRec (f : MgtRec → MgtRec) (q : Nat) : (s.setMgt f).grpRec q = s.grpRec q := rfl
@[simp] theorem State.setMgt_counterVal (f : MgtRec → MgtRec) (q : Nat) : (s.setMgt f).counterVal q = s.counterVal q := rfl
@[simp] theorem State.setMgt_bank (f : MgtRec → MgtRec) (v : UnitId) : (s.setMgt f).bank v = s.bank v := rfl
@[simp] theorem State.setMgt_live (f : MgtRec → MgtRec) (v : UnitId) (k : Nat) : (s.setMgt f).live v k = s.live v k := rfl

/-! ## setSpdm -/

@[simp] theorem State.setSpdm_pending (f : SpdmRec → SpdmRec) : (s.setSpdm f).pending = s.pending := rfl
@[simp] theorem State.setSpdm_regs (f : SpdmRec → SpdmRec) : (s.setSpdm f).regs = s.regs := rfl
@[simp] theorem State.setSpdm_counts (f : SpdmRec → SpdmRec) : (s.setSpdm f).counts = s.counts := rfl
@[simp] theorem State.setSpdm_snaps (f : SpdmRec → SpdmRec) : (s.setSpdm f).snaps = s.snaps := rfl
@[simp] theorem State.setSpdm_mem (f : SpdmRec → SpdmRec) : (s.setSpdm f).mem = s.mem := rfl
@[simp] theorem State.setSpdm_poison (f : SpdmRec → SpdmRec) : (s.setSpdm f).poison = s.poison := rfl
@[simp] theorem State.setSpdm_resv (f : SpdmRec → SpdmRec) : (s.setSpdm f).resv = s.resv := rfl
@[simp] theorem State.setSpdm_hurt (f : SpdmRec → SpdmRec) : (s.setSpdm f).hurt = s.hurt := rfl
@[simp] theorem State.setSpdm_cache (f : SpdmRec → SpdmRec) : (s.setSpdm f).cache = s.cache := rfl
@[simp] theorem State.setSpdm_tbl (f : SpdmRec → SpdmRec) : (s.setSpdm f).tbl = s.tbl := rfl
@[simp] theorem State.setSpdm_memWait (f : SpdmRec → SpdmRec) : (s.setSpdm f).memWait = s.memWait := rfl
@[simp] theorem State.setSpdm_tierOut (f : SpdmRec → SpdmRec) : (s.setSpdm f).tierOut = s.tierOut := rfl
@[simp] theorem State.setSpdm_scoreboard (f : SpdmRec → SpdmRec) : (s.setSpdm f).scoreboard = s.scoreboard := rfl
@[simp] theorem State.setSpdm_parts (f : SpdmRec → SpdmRec) : (s.setSpdm f).parts = s.parts := rfl
@[simp] theorem State.setSpdm_pge (f : SpdmRec → SpdmRec) : (s.setSpdm f).pge = s.pge := rfl
@[simp] theorem State.setSpdm_units (f : SpdmRec → SpdmRec) : (s.setSpdm f).units = s.units := rfl
@[simp] theorem State.setSpdm_talon (f : SpdmRec → SpdmRec) : (s.setSpdm f).talon = s.talon := rfl
@[simp] theorem State.setSpdm_sec (f : SpdmRec → SpdmRec) : (s.setSpdm f).sec = s.sec := rfl
@[simp] theorem State.setSpdm_secMod (f : SpdmRec → SpdmRec) : (s.setSpdm f).secMod = s.secMod := rfl
@[simp] theorem State.setSpdm_pwr (f : SpdmRec → SpdmRec) : (s.setSpdm f).pwr = s.pwr := rfl
@[simp] theorem State.setSpdm_txn (f : SpdmRec → SpdmRec) : (s.setSpdm f).txn = s.txn := rfl
@[simp] theorem State.setSpdm_net (f : SpdmRec → SpdmRec) : (s.setSpdm f).net = s.net := rfl
@[simp] theorem State.setSpdm_coll (f : SpdmRec → SpdmRec) : (s.setSpdm f).coll = s.coll := rfl
@[simp] theorem State.setSpdm_grps (f : SpdmRec → SpdmRec) : (s.setSpdm f).grps = s.grps := rfl
@[simp] theorem State.setSpdm_txnNextId (f : SpdmRec → SpdmRec) : (s.setSpdm f).txnNextId = s.txnNextId := rfl
@[simp] theorem State.setSpdm_modWait (f : SpdmRec → SpdmRec) : (s.setSpdm f).modWait = s.modWait := rfl
@[simp] theorem State.setSpdm_modSeq (f : SpdmRec → SpdmRec) : (s.setSpdm f).modSeq = s.modSeq := rfl
@[simp] theorem State.setSpdm_modLost (f : SpdmRec → SpdmRec) : (s.setSpdm f).modLost = s.modLost := rfl
@[simp] theorem State.setSpdm_modUnsig (f : SpdmRec → SpdmRec) : (s.setSpdm f).modUnsig = s.modUnsig := rfl
@[simp] theorem State.setSpdm_coal (f : SpdmRec → SpdmRec) : (s.setSpdm f).coal = s.coal := rfl
@[simp] theorem State.setSpdm_held (f : SpdmRec → SpdmRec) : (s.setSpdm f).held = s.held := rfl
@[simp] theorem State.setSpdm_trngBad (f : SpdmRec → SpdmRec) : (s.setSpdm f).trngBad = s.trngBad := rfl
@[simp] theorem State.setSpdm_memWin (f : SpdmRec → SpdmRec) : (s.setSpdm f).memWin = s.memWin := rfl
@[simp] theorem State.setSpdm_memHeld (f : SpdmRec → SpdmRec) : (s.setSpdm f).memHeld = s.memHeld := rfl
@[simp] theorem State.setSpdm_merge (f : SpdmRec → SpdmRec) : (s.setSpdm f).merge = s.merge := rfl
@[simp] theorem State.setSpdm_recovering (f : SpdmRec → SpdmRec) : (s.setSpdm f).recovering = s.recovering := rfl
@[simp] theorem State.setSpdm_pred (f : SpdmRec → SpdmRec) : (s.setSpdm f).pred = s.pred := rfl
@[simp] theorem State.setSpdm_sys (f : SpdmRec → SpdmRec) : (s.setSpdm f).sys = s.sys := rfl
@[simp] theorem State.setSpdm_mgt (f : SpdmRec → SpdmRec) : (s.setSpdm f).mgt = s.mgt := rfl
@[simp] theorem State.setSpdm_spdm (f : SpdmRec → SpdmRec) : (s.setSpdm f).spdm = f s.spdm := rfl
@[simp] theorem State.setSpdm_freeIdx (f : SpdmRec → SpdmRec) : (s.setSpdm f).freeIdx = s.freeIdx := rfl
@[simp] theorem State.setSpdm_resp (f : SpdmRec → SpdmRec) : (s.setSpdm f).resp = s.resp := rfl
@[simp] theorem State.setSpdm_out (f : SpdmRec → SpdmRec) : (s.setSpdm f).out = s.out := rfl
@[simp] theorem State.setSpdm_get (f : SpdmRec → SpdmRec) (v : UnitId) (h : Field) : (s.setSpdm f).get v h = s.get v h := State.get_of_regs (s := s) (t := s.setSpdm f) rfl _ _
@[simp] theorem State.setSpdm_part (f : SpdmRec → SpdmRec) (q : Nat) : (s.setSpdm f).part q = s.part q := rfl
@[simp] theorem State.setSpdm_pgePart (f : SpdmRec → SpdmRec) (q : Nat) : (s.setSpdm f).pgePart q = s.pgePart q := rfl
@[simp] theorem State.setSpdm_unit (f : SpdmRec → SpdmRec) (v : UnitId) : (s.setSpdm f).unit v = s.unit v := rfl
@[simp] theorem State.setSpdm_byte (f : SpdmRec → SpdmRec) (k : Nat) : (s.setSpdm f).byte k = s.byte k := rfl
@[simp] theorem State.setSpdm_secPart (f : SpdmRec → SpdmRec) (q : Nat) : (s.setSpdm f).secPart q = s.secPart q := rfl
@[simp] theorem State.setSpdm_grpRec (f : SpdmRec → SpdmRec) (q : Nat) : (s.setSpdm f).grpRec q = s.grpRec q := rfl
@[simp] theorem State.setSpdm_counterVal (f : SpdmRec → SpdmRec) (q : Nat) : (s.setSpdm f).counterVal q = s.counterVal q := rfl
@[simp] theorem State.setSpdm_bank (f : SpdmRec → SpdmRec) (v : UnitId) : (s.setSpdm f).bank v = s.bank v := rfl
@[simp] theorem State.setSpdm_live (f : SpdmRec → SpdmRec) (v : UnitId) (k : Nat) : (s.setSpdm f).live v k = s.live v k := rfl

/-! ## useFree -/

@[simp] theorem State.useFree_pending (n : Nat) : (s.useFree n).pending = s.pending := rfl
@[simp] theorem State.useFree_regs (n : Nat) : (s.useFree n).regs = s.regs := rfl
@[simp] theorem State.useFree_counts (n : Nat) : (s.useFree n).counts = s.counts := rfl
@[simp] theorem State.useFree_snaps (n : Nat) : (s.useFree n).snaps = s.snaps := rfl
@[simp] theorem State.useFree_mem (n : Nat) : (s.useFree n).mem = s.mem := rfl
@[simp] theorem State.useFree_poison (n : Nat) : (s.useFree n).poison = s.poison := rfl
@[simp] theorem State.useFree_resv (n : Nat) : (s.useFree n).resv = s.resv := rfl
@[simp] theorem State.useFree_hurt (n : Nat) : (s.useFree n).hurt = s.hurt := rfl
@[simp] theorem State.useFree_cache (n : Nat) : (s.useFree n).cache = s.cache := rfl
@[simp] theorem State.useFree_tbl (n : Nat) : (s.useFree n).tbl = s.tbl := rfl
@[simp] theorem State.useFree_memWait (n : Nat) : (s.useFree n).memWait = s.memWait := rfl
@[simp] theorem State.useFree_tierOut (n : Nat) : (s.useFree n).tierOut = s.tierOut := rfl
@[simp] theorem State.useFree_scoreboard (n : Nat) : (s.useFree n).scoreboard = s.scoreboard := rfl
@[simp] theorem State.useFree_parts (n : Nat) : (s.useFree n).parts = s.parts := rfl
@[simp] theorem State.useFree_pge (n : Nat) : (s.useFree n).pge = s.pge := rfl
@[simp] theorem State.useFree_units (n : Nat) : (s.useFree n).units = s.units := rfl
@[simp] theorem State.useFree_talon (n : Nat) : (s.useFree n).talon = s.talon := rfl
@[simp] theorem State.useFree_sec (n : Nat) : (s.useFree n).sec = s.sec := rfl
@[simp] theorem State.useFree_secMod (n : Nat) : (s.useFree n).secMod = s.secMod := rfl
@[simp] theorem State.useFree_pwr (n : Nat) : (s.useFree n).pwr = s.pwr := rfl
@[simp] theorem State.useFree_txn (n : Nat) : (s.useFree n).txn = s.txn := rfl
@[simp] theorem State.useFree_net (n : Nat) : (s.useFree n).net = s.net := rfl
@[simp] theorem State.useFree_coll (n : Nat) : (s.useFree n).coll = s.coll := rfl
@[simp] theorem State.useFree_grps (n : Nat) : (s.useFree n).grps = s.grps := rfl
@[simp] theorem State.useFree_txnNextId (n : Nat) : (s.useFree n).txnNextId = s.txnNextId := rfl
@[simp] theorem State.useFree_modWait (n : Nat) : (s.useFree n).modWait = s.modWait := rfl
@[simp] theorem State.useFree_modSeq (n : Nat) : (s.useFree n).modSeq = s.modSeq := rfl
@[simp] theorem State.useFree_modLost (n : Nat) : (s.useFree n).modLost = s.modLost := rfl
@[simp] theorem State.useFree_modUnsig (n : Nat) : (s.useFree n).modUnsig = s.modUnsig := rfl
@[simp] theorem State.useFree_coal (n : Nat) : (s.useFree n).coal = s.coal := rfl
@[simp] theorem State.useFree_held (n : Nat) : (s.useFree n).held = s.held := rfl
@[simp] theorem State.useFree_trngBad (n : Nat) : (s.useFree n).trngBad = s.trngBad := rfl
@[simp] theorem State.useFree_memWin (n : Nat) : (s.useFree n).memWin = s.memWin := rfl
@[simp] theorem State.useFree_memHeld (n : Nat) : (s.useFree n).memHeld = s.memHeld := rfl
@[simp] theorem State.useFree_merge (n : Nat) : (s.useFree n).merge = s.merge := rfl
@[simp] theorem State.useFree_recovering (n : Nat) : (s.useFree n).recovering = s.recovering := rfl
@[simp] theorem State.useFree_pred (n : Nat) : (s.useFree n).pred = s.pred := rfl
@[simp] theorem State.useFree_sys (n : Nat) : (s.useFree n).sys = s.sys := rfl
@[simp] theorem State.useFree_mgt (n : Nat) : (s.useFree n).mgt = s.mgt := rfl
@[simp] theorem State.useFree_spdm (n : Nat) : (s.useFree n).spdm = s.spdm := rfl
@[simp] theorem State.useFree_freeIdx (n : Nat) : (s.useFree n).freeIdx = s.freeIdx + n := rfl
@[simp] theorem State.useFree_resp (n : Nat) : (s.useFree n).resp = s.resp := rfl
@[simp] theorem State.useFree_out (n : Nat) : (s.useFree n).out = s.out := rfl
@[simp] theorem State.useFree_get (n : Nat) (v : UnitId) (h : Field) : (s.useFree n).get v h = s.get v h := State.get_of_regs (s := s) (t := s.useFree n) rfl _ _
@[simp] theorem State.useFree_part (n : Nat) (q : Nat) : (s.useFree n).part q = s.part q := rfl
@[simp] theorem State.useFree_pgePart (n : Nat) (q : Nat) : (s.useFree n).pgePart q = s.pgePart q := rfl
@[simp] theorem State.useFree_unit (n : Nat) (v : UnitId) : (s.useFree n).unit v = s.unit v := rfl
@[simp] theorem State.useFree_byte (n : Nat) (k : Nat) : (s.useFree n).byte k = s.byte k := rfl
@[simp] theorem State.useFree_secPart (n : Nat) (q : Nat) : (s.useFree n).secPart q = s.secPart q := rfl
@[simp] theorem State.useFree_grpRec (n : Nat) (q : Nat) : (s.useFree n).grpRec q = s.grpRec q := rfl
@[simp] theorem State.useFree_counterVal (n : Nat) (q : Nat) : (s.useFree n).counterVal q = s.counterVal q := rfl
@[simp] theorem State.useFree_bank (n : Nat) (v : UnitId) : (s.useFree n).bank v = s.bank v := rfl
@[simp] theorem State.useFree_live (n : Nat) (v : UnitId) (k : Nat) : (s.useFree n).live v k = s.live v k := rfl

/-! ## Readers after the update of what they read -/

theorem State.setPart_part (p q : Nat) (f : PartRec → PartRec) : (s.setPart p f).part q = if q = p then f (s.part p) else s.part q := Sparse.get_set _ _ _ _ _

theorem State.setPge_pgePart (p q : Nat) (f : PgePart → PgePart) : (s.setPge p f).pgePart q = if q = p then f (s.pgePart p) else s.pgePart q := Sparse.get_set _ _ _ _ _

theorem State.setSec_secPart (p q : Nat) (f : SecPart → SecPart) : (s.setSec p f).secPart q = if q = p then f (s.secPart p) else s.secPart q := Sparse.get_set _ _ _ _ _

theorem State.updGrp_grpRec (p q : Nat) (f : GrpRec → GrpRec) : (s.updGrp p f).grpRec q = if q = p then f (s.grpRec p) else s.grpRec q := Sparse.get_set _ _ _ _ _

theorem State.signal_counterVal (p n q : Nat) : (s.signal p n).counterVal q = if q = p then (s.counterVal p + n) % 2 ^ 32 else s.counterVal q := Sparse.get_set _ _ _ _ _

theorem State.setUnit_unit (u v : UnitId) (f : UnitRec → UnitRec) : (s.setUnit u f).unit v = if v.page = u.page then f (s.unit u) else s.unit v :=
  Sparse.get_set _ _ _ _ _

theorem State.setBank_bank (u v : UnitId) (r : TblRec) : (s.setBank u r).bank v = if v.page = u.page then r else s.bank v :=
  Sparse.get_set _ _ _ _ _

/-! ## Writes of register fields -/

@[simp] theorem State.setWords_pending : ∀ (n : Nat) (s : State) (a v : Nat), (s.setWords a n v).pending = s.pending
  | 0, _, _, _ => rfl
  | n + 1, s, a, v => State.setWords_pending n (s.setWord a _) (a + 4) (v / 2 ^ 32)

@[simp] theorem State.put_pending (u : UnitId) (g : Field) (v : Nat) : (s.put u g v).pending = s.pending := State.setWords_pending _ _ _ _

@[simp] theorem State.setWords_counts : ∀ (n : Nat) (s : State) (a v : Nat), (s.setWords a n v).counts = s.counts
  | 0, _, _, _ => rfl
  | n + 1, s, a, v => State.setWords_counts n (s.setWord a _) (a + 4) (v / 2 ^ 32)

@[simp] theorem State.put_counts (u : UnitId) (g : Field) (v : Nat) : (s.put u g v).counts = s.counts := State.setWords_counts _ _ _ _

@[simp] theorem State.setWords_snaps : ∀ (n : Nat) (s : State) (a v : Nat), (s.setWords a n v).snaps = s.snaps
  | 0, _, _, _ => rfl
  | n + 1, s, a, v => State.setWords_snaps n (s.setWord a _) (a + 4) (v / 2 ^ 32)

@[simp] theorem State.put_snaps (u : UnitId) (g : Field) (v : Nat) : (s.put u g v).snaps = s.snaps := State.setWords_snaps _ _ _ _

@[simp] theorem State.setWords_mem : ∀ (n : Nat) (s : State) (a v : Nat), (s.setWords a n v).mem = s.mem
  | 0, _, _, _ => rfl
  | n + 1, s, a, v => State.setWords_mem n (s.setWord a _) (a + 4) (v / 2 ^ 32)

@[simp] theorem State.put_mem (u : UnitId) (g : Field) (v : Nat) : (s.put u g v).mem = s.mem := State.setWords_mem _ _ _ _

@[simp] theorem State.setWords_poison : ∀ (n : Nat) (s : State) (a v : Nat), (s.setWords a n v).poison = s.poison
  | 0, _, _, _ => rfl
  | n + 1, s, a, v => State.setWords_poison n (s.setWord a _) (a + 4) (v / 2 ^ 32)

@[simp] theorem State.put_poison (u : UnitId) (g : Field) (v : Nat) : (s.put u g v).poison = s.poison := State.setWords_poison _ _ _ _

@[simp] theorem State.setWords_resv : ∀ (n : Nat) (s : State) (a v : Nat), (s.setWords a n v).resv = s.resv
  | 0, _, _, _ => rfl
  | n + 1, s, a, v => State.setWords_resv n (s.setWord a _) (a + 4) (v / 2 ^ 32)

@[simp] theorem State.put_resv (u : UnitId) (g : Field) (v : Nat) : (s.put u g v).resv = s.resv := State.setWords_resv _ _ _ _

@[simp] theorem State.setWords_hurt : ∀ (n : Nat) (s : State) (a v : Nat), (s.setWords a n v).hurt = s.hurt
  | 0, _, _, _ => rfl
  | n + 1, s, a, v => State.setWords_hurt n (s.setWord a _) (a + 4) (v / 2 ^ 32)

@[simp] theorem State.put_hurt (u : UnitId) (g : Field) (v : Nat) : (s.put u g v).hurt = s.hurt := State.setWords_hurt _ _ _ _

@[simp] theorem State.setWords_cache : ∀ (n : Nat) (s : State) (a v : Nat), (s.setWords a n v).cache = s.cache
  | 0, _, _, _ => rfl
  | n + 1, s, a, v => State.setWords_cache n (s.setWord a _) (a + 4) (v / 2 ^ 32)

@[simp] theorem State.put_cache (u : UnitId) (g : Field) (v : Nat) : (s.put u g v).cache = s.cache := State.setWords_cache _ _ _ _

@[simp] theorem State.setWords_tbl : ∀ (n : Nat) (s : State) (a v : Nat), (s.setWords a n v).tbl = s.tbl
  | 0, _, _, _ => rfl
  | n + 1, s, a, v => State.setWords_tbl n (s.setWord a _) (a + 4) (v / 2 ^ 32)

@[simp] theorem State.put_tbl (u : UnitId) (g : Field) (v : Nat) : (s.put u g v).tbl = s.tbl := State.setWords_tbl _ _ _ _

@[simp] theorem State.setWords_memWait : ∀ (n : Nat) (s : State) (a v : Nat), (s.setWords a n v).memWait = s.memWait
  | 0, _, _, _ => rfl
  | n + 1, s, a, v => State.setWords_memWait n (s.setWord a _) (a + 4) (v / 2 ^ 32)

@[simp] theorem State.put_memWait (u : UnitId) (g : Field) (v : Nat) : (s.put u g v).memWait = s.memWait := State.setWords_memWait _ _ _ _

@[simp] theorem State.setWords_tierOut : ∀ (n : Nat) (s : State) (a v : Nat), (s.setWords a n v).tierOut = s.tierOut
  | 0, _, _, _ => rfl
  | n + 1, s, a, v => State.setWords_tierOut n (s.setWord a _) (a + 4) (v / 2 ^ 32)

@[simp] theorem State.put_tierOut (u : UnitId) (g : Field) (v : Nat) : (s.put u g v).tierOut = s.tierOut := State.setWords_tierOut _ _ _ _

@[simp] theorem State.setWords_scoreboard : ∀ (n : Nat) (s : State) (a v : Nat), (s.setWords a n v).scoreboard = s.scoreboard
  | 0, _, _, _ => rfl
  | n + 1, s, a, v => State.setWords_scoreboard n (s.setWord a _) (a + 4) (v / 2 ^ 32)

@[simp] theorem State.put_scoreboard (u : UnitId) (g : Field) (v : Nat) : (s.put u g v).scoreboard = s.scoreboard := State.setWords_scoreboard _ _ _ _

@[simp] theorem State.setWords_parts : ∀ (n : Nat) (s : State) (a v : Nat), (s.setWords a n v).parts = s.parts
  | 0, _, _, _ => rfl
  | n + 1, s, a, v => State.setWords_parts n (s.setWord a _) (a + 4) (v / 2 ^ 32)

@[simp] theorem State.put_parts (u : UnitId) (g : Field) (v : Nat) : (s.put u g v).parts = s.parts := State.setWords_parts _ _ _ _

@[simp] theorem State.setWords_pge : ∀ (n : Nat) (s : State) (a v : Nat), (s.setWords a n v).pge = s.pge
  | 0, _, _, _ => rfl
  | n + 1, s, a, v => State.setWords_pge n (s.setWord a _) (a + 4) (v / 2 ^ 32)

@[simp] theorem State.put_pge (u : UnitId) (g : Field) (v : Nat) : (s.put u g v).pge = s.pge := State.setWords_pge _ _ _ _

@[simp] theorem State.setWords_units : ∀ (n : Nat) (s : State) (a v : Nat), (s.setWords a n v).units = s.units
  | 0, _, _, _ => rfl
  | n + 1, s, a, v => State.setWords_units n (s.setWord a _) (a + 4) (v / 2 ^ 32)

@[simp] theorem State.put_units (u : UnitId) (g : Field) (v : Nat) : (s.put u g v).units = s.units := State.setWords_units _ _ _ _

@[simp] theorem State.setWords_talon : ∀ (n : Nat) (s : State) (a v : Nat), (s.setWords a n v).talon = s.talon
  | 0, _, _, _ => rfl
  | n + 1, s, a, v => State.setWords_talon n (s.setWord a _) (a + 4) (v / 2 ^ 32)

@[simp] theorem State.put_talon (u : UnitId) (g : Field) (v : Nat) : (s.put u g v).talon = s.talon := State.setWords_talon _ _ _ _

@[simp] theorem State.setWords_sec : ∀ (n : Nat) (s : State) (a v : Nat), (s.setWords a n v).sec = s.sec
  | 0, _, _, _ => rfl
  | n + 1, s, a, v => State.setWords_sec n (s.setWord a _) (a + 4) (v / 2 ^ 32)

@[simp] theorem State.put_sec (u : UnitId) (g : Field) (v : Nat) : (s.put u g v).sec = s.sec := State.setWords_sec _ _ _ _

@[simp] theorem State.setWords_secMod : ∀ (n : Nat) (s : State) (a v : Nat), (s.setWords a n v).secMod = s.secMod
  | 0, _, _, _ => rfl
  | n + 1, s, a, v => State.setWords_secMod n (s.setWord a _) (a + 4) (v / 2 ^ 32)

@[simp] theorem State.put_secMod (u : UnitId) (g : Field) (v : Nat) : (s.put u g v).secMod = s.secMod := State.setWords_secMod _ _ _ _

@[simp] theorem State.setWords_pwr : ∀ (n : Nat) (s : State) (a v : Nat), (s.setWords a n v).pwr = s.pwr
  | 0, _, _, _ => rfl
  | n + 1, s, a, v => State.setWords_pwr n (s.setWord a _) (a + 4) (v / 2 ^ 32)

@[simp] theorem State.put_pwr (u : UnitId) (g : Field) (v : Nat) : (s.put u g v).pwr = s.pwr := State.setWords_pwr _ _ _ _

@[simp] theorem State.setWords_txn : ∀ (n : Nat) (s : State) (a v : Nat), (s.setWords a n v).txn = s.txn
  | 0, _, _, _ => rfl
  | n + 1, s, a, v => State.setWords_txn n (s.setWord a _) (a + 4) (v / 2 ^ 32)

@[simp] theorem State.put_txn (u : UnitId) (g : Field) (v : Nat) : (s.put u g v).txn = s.txn := State.setWords_txn _ _ _ _

@[simp] theorem State.setWords_net : ∀ (n : Nat) (s : State) (a v : Nat), (s.setWords a n v).net = s.net
  | 0, _, _, _ => rfl
  | n + 1, s, a, v => State.setWords_net n (s.setWord a _) (a + 4) (v / 2 ^ 32)

@[simp] theorem State.put_net (u : UnitId) (g : Field) (v : Nat) : (s.put u g v).net = s.net := State.setWords_net _ _ _ _

@[simp] theorem State.setWords_coll : ∀ (n : Nat) (s : State) (a v : Nat), (s.setWords a n v).coll = s.coll
  | 0, _, _, _ => rfl
  | n + 1, s, a, v => State.setWords_coll n (s.setWord a _) (a + 4) (v / 2 ^ 32)

@[simp] theorem State.put_coll (u : UnitId) (g : Field) (v : Nat) : (s.put u g v).coll = s.coll := State.setWords_coll _ _ _ _

@[simp] theorem State.setWords_grps : ∀ (n : Nat) (s : State) (a v : Nat), (s.setWords a n v).grps = s.grps
  | 0, _, _, _ => rfl
  | n + 1, s, a, v => State.setWords_grps n (s.setWord a _) (a + 4) (v / 2 ^ 32)

@[simp] theorem State.put_grps (u : UnitId) (g : Field) (v : Nat) : (s.put u g v).grps = s.grps := State.setWords_grps _ _ _ _

@[simp] theorem State.setWords_txnNextId : ∀ (n : Nat) (s : State) (a v : Nat), (s.setWords a n v).txnNextId = s.txnNextId
  | 0, _, _, _ => rfl
  | n + 1, s, a, v => State.setWords_txnNextId n (s.setWord a _) (a + 4) (v / 2 ^ 32)

@[simp] theorem State.put_txnNextId (u : UnitId) (g : Field) (v : Nat) : (s.put u g v).txnNextId = s.txnNextId := State.setWords_txnNextId _ _ _ _

@[simp] theorem State.setWords_modWait : ∀ (n : Nat) (s : State) (a v : Nat), (s.setWords a n v).modWait = s.modWait
  | 0, _, _, _ => rfl
  | n + 1, s, a, v => State.setWords_modWait n (s.setWord a _) (a + 4) (v / 2 ^ 32)

@[simp] theorem State.put_modWait (u : UnitId) (g : Field) (v : Nat) : (s.put u g v).modWait = s.modWait := State.setWords_modWait _ _ _ _

@[simp] theorem State.setWords_modSeq : ∀ (n : Nat) (s : State) (a v : Nat), (s.setWords a n v).modSeq = s.modSeq
  | 0, _, _, _ => rfl
  | n + 1, s, a, v => State.setWords_modSeq n (s.setWord a _) (a + 4) (v / 2 ^ 32)

@[simp] theorem State.put_modSeq (u : UnitId) (g : Field) (v : Nat) : (s.put u g v).modSeq = s.modSeq := State.setWords_modSeq _ _ _ _

@[simp] theorem State.setWords_modLost : ∀ (n : Nat) (s : State) (a v : Nat), (s.setWords a n v).modLost = s.modLost
  | 0, _, _, _ => rfl
  | n + 1, s, a, v => State.setWords_modLost n (s.setWord a _) (a + 4) (v / 2 ^ 32)

@[simp] theorem State.put_modLost (u : UnitId) (g : Field) (v : Nat) : (s.put u g v).modLost = s.modLost := State.setWords_modLost _ _ _ _

@[simp] theorem State.setWords_modUnsig : ∀ (n : Nat) (s : State) (a v : Nat), (s.setWords a n v).modUnsig = s.modUnsig
  | 0, _, _, _ => rfl
  | n + 1, s, a, v => State.setWords_modUnsig n (s.setWord a _) (a + 4) (v / 2 ^ 32)

@[simp] theorem State.put_modUnsig (u : UnitId) (g : Field) (v : Nat) : (s.put u g v).modUnsig = s.modUnsig := State.setWords_modUnsig _ _ _ _

@[simp] theorem State.setWords_coal : ∀ (n : Nat) (s : State) (a v : Nat), (s.setWords a n v).coal = s.coal
  | 0, _, _, _ => rfl
  | n + 1, s, a, v => State.setWords_coal n (s.setWord a _) (a + 4) (v / 2 ^ 32)

@[simp] theorem State.put_coal (u : UnitId) (g : Field) (v : Nat) : (s.put u g v).coal = s.coal := State.setWords_coal _ _ _ _

@[simp] theorem State.setWords_held : ∀ (n : Nat) (s : State) (a v : Nat), (s.setWords a n v).held = s.held
  | 0, _, _, _ => rfl
  | n + 1, s, a, v => State.setWords_held n (s.setWord a _) (a + 4) (v / 2 ^ 32)

@[simp] theorem State.put_held (u : UnitId) (g : Field) (v : Nat) : (s.put u g v).held = s.held := State.setWords_held _ _ _ _

@[simp] theorem State.setWords_trngBad : ∀ (n : Nat) (s : State) (a v : Nat), (s.setWords a n v).trngBad = s.trngBad
  | 0, _, _, _ => rfl
  | n + 1, s, a, v => State.setWords_trngBad n (s.setWord a _) (a + 4) (v / 2 ^ 32)

@[simp] theorem State.put_trngBad (u : UnitId) (g : Field) (v : Nat) : (s.put u g v).trngBad = s.trngBad := State.setWords_trngBad _ _ _ _

@[simp] theorem State.setWords_memWin : ∀ (n : Nat) (s : State) (a v : Nat), (s.setWords a n v).memWin = s.memWin
  | 0, _, _, _ => rfl
  | n + 1, s, a, v => State.setWords_memWin n (s.setWord a _) (a + 4) (v / 2 ^ 32)

@[simp] theorem State.put_memWin (u : UnitId) (g : Field) (v : Nat) : (s.put u g v).memWin = s.memWin := State.setWords_memWin _ _ _ _

@[simp] theorem State.setWords_memHeld : ∀ (n : Nat) (s : State) (a v : Nat), (s.setWords a n v).memHeld = s.memHeld
  | 0, _, _, _ => rfl
  | n + 1, s, a, v => State.setWords_memHeld n (s.setWord a _) (a + 4) (v / 2 ^ 32)

@[simp] theorem State.put_memHeld (u : UnitId) (g : Field) (v : Nat) : (s.put u g v).memHeld = s.memHeld := State.setWords_memHeld _ _ _ _

@[simp] theorem State.setWords_merge : ∀ (n : Nat) (s : State) (a v : Nat), (s.setWords a n v).merge = s.merge
  | 0, _, _, _ => rfl
  | n + 1, s, a, v => State.setWords_merge n (s.setWord a _) (a + 4) (v / 2 ^ 32)

@[simp] theorem State.put_merge (u : UnitId) (g : Field) (v : Nat) : (s.put u g v).merge = s.merge := State.setWords_merge _ _ _ _

@[simp] theorem State.setWords_recovering : ∀ (n : Nat) (s : State) (a v : Nat), (s.setWords a n v).recovering = s.recovering
  | 0, _, _, _ => rfl
  | n + 1, s, a, v => State.setWords_recovering n (s.setWord a _) (a + 4) (v / 2 ^ 32)

@[simp] theorem State.put_recovering (u : UnitId) (g : Field) (v : Nat) : (s.put u g v).recovering = s.recovering := State.setWords_recovering _ _ _ _

@[simp] theorem State.setWords_pred : ∀ (n : Nat) (s : State) (a v : Nat), (s.setWords a n v).pred = s.pred
  | 0, _, _, _ => rfl
  | n + 1, s, a, v => State.setWords_pred n (s.setWord a _) (a + 4) (v / 2 ^ 32)

@[simp] theorem State.put_pred (u : UnitId) (g : Field) (v : Nat) : (s.put u g v).pred = s.pred := State.setWords_pred _ _ _ _

@[simp] theorem State.setWords_sys : ∀ (n : Nat) (s : State) (a v : Nat), (s.setWords a n v).sys = s.sys
  | 0, _, _, _ => rfl
  | n + 1, s, a, v => State.setWords_sys n (s.setWord a _) (a + 4) (v / 2 ^ 32)

@[simp] theorem State.put_sys (u : UnitId) (g : Field) (v : Nat) : (s.put u g v).sys = s.sys := State.setWords_sys _ _ _ _

@[simp] theorem State.setWords_mgt : ∀ (n : Nat) (s : State) (a v : Nat), (s.setWords a n v).mgt = s.mgt
  | 0, _, _, _ => rfl
  | n + 1, s, a, v => State.setWords_mgt n (s.setWord a _) (a + 4) (v / 2 ^ 32)

@[simp] theorem State.put_mgt (u : UnitId) (g : Field) (v : Nat) : (s.put u g v).mgt = s.mgt := State.setWords_mgt _ _ _ _

@[simp] theorem State.setWords_spdm : ∀ (n : Nat) (s : State) (a v : Nat), (s.setWords a n v).spdm = s.spdm
  | 0, _, _, _ => rfl
  | n + 1, s, a, v => State.setWords_spdm n (s.setWord a _) (a + 4) (v / 2 ^ 32)

@[simp] theorem State.put_spdm (u : UnitId) (g : Field) (v : Nat) : (s.put u g v).spdm = s.spdm := State.setWords_spdm _ _ _ _

@[simp] theorem State.setWords_freeIdx : ∀ (n : Nat) (s : State) (a v : Nat), (s.setWords a n v).freeIdx = s.freeIdx
  | 0, _, _, _ => rfl
  | n + 1, s, a, v => State.setWords_freeIdx n (s.setWord a _) (a + 4) (v / 2 ^ 32)

@[simp] theorem State.put_freeIdx (u : UnitId) (g : Field) (v : Nat) : (s.put u g v).freeIdx = s.freeIdx := State.setWords_freeIdx _ _ _ _

@[simp] theorem State.setWords_resp : ∀ (n : Nat) (s : State) (a v : Nat), (s.setWords a n v).resp = s.resp
  | 0, _, _, _ => rfl
  | n + 1, s, a, v => State.setWords_resp n (s.setWord a _) (a + 4) (v / 2 ^ 32)

@[simp] theorem State.put_resp (u : UnitId) (g : Field) (v : Nat) : (s.put u g v).resp = s.resp := State.setWords_resp _ _ _ _

@[simp] theorem State.setWords_out : ∀ (n : Nat) (s : State) (a v : Nat), (s.setWords a n v).out = s.out
  | 0, _, _, _ => rfl
  | n + 1, s, a, v => State.setWords_out n (s.setWord a _) (a + 4) (v / 2 ^ 32)

@[simp] theorem State.put_out (u : UnitId) (g : Field) (v : Nat) : (s.put u g v).out = s.out := State.setWords_out _ _ _ _

@[simp] theorem State.put_part (u : UnitId) (f : Field) (x : Nat) (q : Nat) : (s.put u f x).part q = s.part q := by
  unfold State.part
  rw [State.put_parts]

@[simp] theorem State.put_pgePart (u : UnitId) (f : Field) (x : Nat) (q : Nat) : (s.put u f x).pgePart q = s.pgePart q := by
  unfold State.pgePart
  rw [State.put_pge]

@[simp] theorem State.put_unit (u : UnitId) (f : Field) (x : Nat) (v : UnitId) : (s.put u f x).unit v = s.unit v := by
  unfold State.unit
  rw [State.put_units]

@[simp] theorem State.put_byte (u : UnitId) (f : Field) (x : Nat) (k : Nat) : (s.put u f x).byte k = s.byte k := by
  unfold State.byte
  rw [State.put_mem]

@[simp] theorem State.put_secPart (u : UnitId) (f : Field) (x : Nat) (q : Nat) : (s.put u f x).secPart q = s.secPart q := by
  unfold State.secPart
  rw [State.put_sec]

@[simp] theorem State.put_grpRec (u : UnitId) (f : Field) (x : Nat) (q : Nat) : (s.put u f x).grpRec q = s.grpRec q := by
  unfold State.grpRec
  rw [State.put_grps]

@[simp] theorem State.put_counterVal (u : UnitId) (f : Field) (x : Nat) (q : Nat) : (s.put u f x).counterVal q = s.counterVal q := by
  unfold State.counterVal
  rw [State.put_scoreboard]

@[simp] theorem State.put_bank (u : UnitId) (f : Field) (x : Nat) (v : UnitId) : (s.put u f x).bank v = s.bank v := by
  unfold State.bank
  rw [State.put_tbl]

@[simp] theorem State.put_live (u : UnitId) (f : Field) (x : Nat) (v : UnitId) (k : Nat) : (s.put u f x).live v k = s.live v k := by
  unfold State.live
  rw [State.put_counts]

end Sys2Proof.Machine
end

