-- ==== Sys2Proof/Laws/Step.lean ====
section
/-!
SUPPORT. What every command and every step keeps, and the shape of a step.
-/
namespace Sys2Proof.Machine

/-- Whatever next state a command answers, it keeps what Keeps says. -/
theorem exec_keeps (c : Instr) (s : State) : KeepsO s (exec c s) := by
  have h := Keeps.refl s
  cases c
  case registerWrite a0 a1 a2 a3 => exact execRegisterWrite_keeps a0 a1 a2 a3 s h
  case rwtWrite a0 a1 a2 a3 => exact execRwtWrite_keeps a0 a1 a2 a3 s h
  case ctrlEnableClear a0 a1 => exact execCtrlEnableClear_keeps a0 a1 s h
  case ctrlEnableSet a0 a1 => exact execCtrlEnableSet_keeps a0 a1 s h
  case ctrlFreeze a0 a1 a2 => exact execCtrlFreeze_keeps a0 a1 a2 s h
  case ctrlForce a0 a1 => exact execCtrlForce_keeps a0 a1 s h
  case ctrlExpertEn a0 a1 => exact execCtrlExpertEn_keeps a0 a1 s h
  case unitDrainComplete a0 => exact execUnitDrainComplete_keeps a0 s h
  case breakPointAbort a0 => exact execBreakPointAbort_keeps a0 s h
  case unitFault a0 => exact execUnitFault_keeps a0 s h
  case irqStatusClear a0 a1 a2 => exact execIrqStatusClear_keeps a0 a1 a2 s h
  case irqForce a0 a1 a2 => exact execIrqForce_keeps a0 a1 a2 s h
  case errLogRead a0 a1 => exact execErrLogRead_keeps a0 a1 s h
  case snapshot a0 a1 => exact execSnapshot_keeps a0 a1 s h
  case clear a0 a1 a2 => exact execClear_keeps a0 a1 a2 s h
  case planLoad a0 a1 a2 => exact execPlanLoad_keeps a0 a1 a2 s h
  case planUnload a0 a1 a2 => exact execPlanUnload_keeps a0 a1 a2 s h
  case planUnloadDone a0 a1 => exact execPlanUnloadDone_keeps a0 a1 s h
  case stepForm a0 => exact execStepForm_keeps a0 s h
  case stepHeader a0 a1 => exact execStepHeader_keeps a0 a1 s h
  case stepAnswer a0 a1 a2 => exact execStepAnswer_keeps a0 a1 a2 s h
  case stepStart a0 => exact execStepStart_keeps a0 s h
  case templateIssue a0 a1 => exact execTemplateIssue_keeps a0 a1 s h
  case templateSkip a0 a1 => exact execTemplateSkip_keeps a0 a1 s h
  case laneIssue a0 a1 a2 => exact execLaneIssue_keeps a0 a1 a2 s h
  case laneComplete a0 => exact execLaneComplete_keeps a0 s h
  case nop a0 a1 => exact execNop_keeps a0 a1 s h
  case stepEnd a0 a1 => exact execStepEnd_keeps a0 a1 s h
  case voteReceived a0 a1 a2 a3 a4 a5 a6 => exact execVoteReceived_keeps a0 a1 a2 a3 a4 a5 a6 s h
  case commitReceived a0 a1 a2 a3 => exact execCommitReceived_keeps a0 a1 a2 a3 s h
  case tokenWrite a0 => exact execTokenWrite_keeps a0 s h
  case voteTimeout a0 => exact execVoteTimeout_keeps a0 s h
  case rq0Doorbell a0 a1 a2 => exact execRq0Doorbell_keeps a0 a1 a2 s h
  case rq1Doorbell a0 a1 a2 => exact execRq1Doorbell_keeps a0 a1 a2 s h
  case requestDescriptor a0 a1 => exact execRequestDescriptor_keeps a0 a1 s h
  case abortDescriptor a0 a1 => exact execAbortDescriptor_keeps a0 a1 s h
  case admitRequest a0 => exact execAdmit_keeps a0 s h
  case admissionRecord a0 a1 a2 a3 => exact execAdmissionRecord_keeps a0 a1 a2 a3 s h
  case admissionAck a0 a1 a2 => exact execAdmissionAck_keeps a0 a1 a2 s h
  case tokHeadWrite a0 a1 a2 => exact execTokHeadWrite_keeps a0 a1 a2 s h
  case evtHeadWrite a0 a1 a2 => exact execEvtHeadWrite_keeps a0 a1 a2 s h
  case hifStatusClear a0 a1 a2 => exact execHifStatusClear_keeps a0 a1 a2 s h
  case ringsEnable a0 a1 => exact execRingsEnable_keeps a0 a1 s h
  case ringsDisable a0 a1 => exact execRingsDisable_keeps a0 a1 s h
  case mevtEnable a0 => exact execMevtEnable_keeps a0 s h
  case mevtHeadWrite a0 a1 => exact execMevtHeadWrite_keeps a0 a1 s h
  case coalTimeout a0 => exact execCoalTimeout_keeps a0 s h
  case vfFlr a0 => exact execVfFlr_keeps a0 s h
  case numvfsWrite a0 => exact execNumvfsWrite_keeps a0 s h
  case portHDown a0 => exact execPortHDown_keeps a0 s h
  case cxlMemRead a0 a1 => exact execCxlMemRead_keeps a0 a1 s h
  case cxlMemWrite a0 a1 a2 a3 => exact execCxlMemWrite_keeps a0 a1 a2 a3 s h
  case identifyMemoryDevice a0 => exact execIdentifyMemoryDevice_keeps a0 s h
  case getSupportedLogs a0 => exact execGetSupportedLogs_keeps a0 s h
  case tableAccess a0 => exact execTableAccess_keeps a0 s h
  case discovery a0 a1 => exact execDiscovery_keeps a0 a1 s h
  case getVersion a0 => exact execGetVersion_keeps a0 s h
  case getCapabilities a0 a1 => exact execGetCapabilities_keeps a0 a1 s h
  case negotiateAlgorithms a0 a1 a2 a3 a4 => exact execNegotiateAlgorithms_keeps a0 a1 a2 a3 a4 s h
  case getDigests a0 => exact execGetDigests_keeps a0 s h
  case getCertificate a0 a1 a2 a3 => exact execGetCertificate_keeps a0 a1 a2 a3 s h
  case challenge a0 a1 a2 => exact execChallenge_keeps a0 a1 a2 s h
  case getMeasurements a0 a1 a2 a3 => exact execGetMeasurements_keeps a0 a1 a2 a3 s h
  case keyExchange a0 => exact execKeyExchange_keeps a0 s h
  case finish a0 a1 => exact execFinish_keeps a0 a1 s h
  case spdmHeartbeat a0 a1 => exact execSpdmHeartbeat_keeps a0 a1 s h
  case keyUpdate a0 a1 => exact execKeyUpdate_keeps a0 a1 s h
  case endSession a0 a1 => exact execEndSession_keeps a0 a1 s h
  case chunkGet a0 a1 a2 => exact execChunkGet_keeps a0 a1 a2 s h
  case ideKm a0 a1 a2 a3 => exact execIdeKm_keeps a0 a1 a2 a3 s h
  case mtMm a0 a1 => exact execMtMm_keeps a0 a1 s h
  case mtMmCb a0 a1 => exact execMtMmCb_keeps a0 a1 s h
  case mtMmGrouped a0 a1 => exact execMtMmGrouped_keeps a0 a1 s h
  case attn a0 a1 => exact execAttn_keeps a0 a1 s h
  case summarise a0 a1 => exact execSummarise_keeps a0 a1 s h
  case score a0 a1 => exact execScore_keeps a0 a1 s h
  case pick a0 a1 => exact execPick_keeps a0 a1 s h
  case merge a0 a1 => exact execMerge_keeps a0 a1 s h
  case norm a0 a1 => exact execNorm_keeps a0 a1 s h
  case act a0 a1 => exact execAct_keeps a0 a1 s h
  case gated a0 a1 => exact execGated_keeps a0 a1 s h
  case add a0 a1 => exact execAdd_keeps a0 a1 s h
  case rope a0 a1 => exact execRope_keeps a0 a1 s h
  case shfCopy a0 a1 => exact execShfCopy_keeps a0 a1 s h
  case quant a0 a1 => exact execQuant_keeps a0 a1 s h
  case gather a0 a1 => exact execGather_keeps a0 a1 s h
  case scatter a0 a1 => exact execScatter_keeps a0 a1 s h
  case kvWrite a0 a1 => exact execKvWrite_keeps a0 a1 s h
  case gate a0 a1 => exact execGate_keeps a0 a1 s h
  case dispatch a0 a1 => exact execDispatch_keeps a0 a1 s h
  case sample a0 a1 => exact execSample_keeps a0 a1 s h
  case run a0 a1 => exact execRun_keeps a0 a1 s h
  case exit a0 a1 a2 a3 => exact execExit_keeps a0 a1 a2 a3 s h
  case trace a0 a1 => exact execTrace_keeps a0 a1 s h
  case kernelTrap a0 a1 a2 a3 a4 => exact execKernelTrap_keeps a0 a1 a2 a3 a4 s h
  case kernelTimeout a0 a1 => exact execKernelTimeout_keeps a0 a1 s h
  case dmaCopy a0 a1 => exact execDmaCopy_keeps a0 a1 s h
  case fill a0 a1 => exact execFill_keeps a0 a1 s h
  case push a0 a1 => exact execPush_keeps a0 a1 s h
  case allReduce a0 => exact execAllReduce_keeps a0 s h
  case reduceScatter a0 => exact execReduceScatter_keeps a0 s h
  case allGather a0 => exact execAllGather_keeps a0 s h
  case broadcast a0 => exact execBroadcast_keeps a0 s h
  case barrier a0 => exact execBarrier_keeps a0 s h
  case allToAll a0 => exact execAllToAll_keeps a0 s h
  case alloc a0 => exact execAlloc_keeps a0 s h
  case prefetch a0 => exact execPrefetch_keeps a0 s h
  case pgeLookup a0 a1 a2 => exact execPgeLookup_keeps a0 a1 a2 s h
  case pgeReserve a0 => exact execPgeReserve_keeps a0 s h
  case migStart a0 a1 => exact execMigStart_keeps a0 a1 s h
  case migCopyDone a0 a1 a2 => exact execMigCopyDone_keeps a0 a1 a2 s h
  case forwardRewrite a0 a1 => exact execForwardRewrite_keeps a0 a1 s h
  case summaryRecompute a0 a1 a2 => exact execSummaryRecompute_keeps a0 a1 a2 s h
  case pgeSweep a0 => exact execPgeSweep_keeps a0 s h
  case tableRequest a0 => exact execTableRequest_keeps a0 s h
  case burstComplete a0 => exact execBurstComplete_keeps a0 s h
  case tableScrub a0 a1 => exact execTableScrub_keeps a0 a1 s h
  case tblInjectCe a0 a1 => exact execTblInjectCe_keeps a0 a1 s h
  case tblInjectUe a0 a1 => exact execTblInjectUe_keeps a0 a1 s h
  case bankSpareCopy a0 a1 => exact execBankSpareCopy_keeps a0 a1 s h
  case memRead a0 a1 a2 => exact execMemRead_keeps a0 a1 a2 s h
  case memWrite a0 a1 a2 a3 => exact execMemWrite_keeps a0 a1 a2 a3 s h
  case memPatrol a0 a1 a2 => exact execMemPatrol_keeps a0 a1 a2 s h
  case memRecentre a0 a1 => exact execMemRecentre_keeps a0 a1 s h
  case memSpareCopy a0 a1 a2 => exact execMemSpareCopy_keeps a0 a1 a2 s h
  case memInjectEdc a0 a1 => exact execMemInjectEdc_keeps a0 a1 s h
  case memInjectTag a0 a1 => exact execMemInjectTag_keeps a0 a1 s h
  case tierRead a0 a1 a2 => exact execTierRead_keeps a0 a1 a2 s h
  case tierWrite a0 a1 a2 a3 => exact execTierWrite_keeps a0 a1 a2 a3 s h
  case tierTimeout a0 a1 => exact execTierTimeout_keeps a0 a1 s h
  case tierDown a0 => exact execTierDown_keeps a0 s h
  case tierInjectTag a0 a1 => exact execTierInjectTag_keeps a0 a1 s h
  case remoteRequest a0 => exact execRemoteRequest_keeps a0 s h
  case remoteResponse a0 => exact execRemoteResponse_keeps a0 s h
  case tc2Timeout a0 a1 => exact execTc2Timeout_keeps a0 a1 s h
  case pushReceive a0 => exact execPushReceive_keeps a0 s h
  case pushAck a0 a1 a2 a3 => exact execPushAck_keeps a0 a1 a2 a3 s h
  case peerDetect a0 => exact execPeerDetect_keeps a0 s h
  case trainingComplete a0 a1 a2 a3 => exact execTrainingComplete_keeps a0 a1 a2 a3 s h
  case dataBlock a0 a1 a2 a3 => exact execDataBlock_keeps a0 a1 a2 a3 s h
  case badSlot a0 a1 => exact execBadSlot_keeps a0 a1 s h
  case idle a0 a1 => exact execIdle_keeps a0 a1 s h
  case nak a0 a1 => exact execNak_keeps a0 a1 s h
  case replayBlock a0 a1 a2 => exact execReplayBlock_keeps a0 a1 a2 s h
  case retrain a0 a1 => exact execRetrain_keeps a0 a1 s h
  case goodbye a0 => exact execGoodbye_keeps a0 s h
  case nakRepeatTimeout a0 => exact execNakRepeatTimeout_keeps a0 s h
  case ackTimeout a0 => exact execAckTimeout_keeps a0 s h
  case retryLimit a0 => exact execRetryLimit_keeps a0 s h
  case lossOfSignal a0 a1 => exact execLossOfSignal_keeps a0 a1 s h
  case serSwap a0 a1 a2 => exact execSerSwap_keeps a0 a1 a2 s h
  case cmdRetrain a0 a1 => exact execCmdRetrain_keeps a0 a1 s h
  case retrainComplete a0 a1 a2 a3 => exact execRetrainComplete_keeps a0 a1 a2 a3 s h
  case recoverMax a0 => exact execRecoverMax_keeps a0 s h
  case downRetry a0 => exact execDownRetry_keeps a0 s h
  case injectLaneFail a0 a1 a2 => exact execInjectLaneFail_keeps a0 a1 a2 s h
  case injectBadSlot a0 a1 => exact execInjectBadSlot_keeps a0 a1 s h
  case helloTimer a0 => exact execHelloTimer_keeps a0 s h
  case hello a0 a1 a2 a3 a4 => exact execHello_keeps a0 a1 a2 a3 a4 s h
  case helloStale a0 => exact execHelloStale_keeps a0 s h
  case keepaliveTimer => exact execKeepaliveTimer_keeps  s h
  case keepalive a0 a1 => exact execKeepalive_keeps a0 a1 s h
  case nodeTimeout a0 => exact execNodeTimeout_keeps a0 s h
  case packetRoute a0 a1 a2 a3 a4 => exact execPacketRoute_keeps a0 a1 a2 a3 a4 s h
  case loss a0 a1 => exact execLoss_keeps a0 a1 s h
  case mark a0 a1 a2 => exact execMark_keeps a0 a1 a2 s h
  case routeWrite a0 a1 a2 a3 => exact execRouteWrite_keeps a0 a1 a2 a3 s h
  case telemTimer => exact execTelemTimer_keeps  s h
  case telemSel a0 a1 a2 => exact execTelemSel_keeps a0 a1 a2 s h
  case injectLoss a0 a1 => exact execInjectLoss_keeps a0 a1 s h
  case collChunk a0 => exact execCollChunk_keeps a0 s h
  case ready a0 a1 a2 a3 => exact execReady_keeps a0 a1 a2 a3 s h
  case counts a0 a1 a2 a3 a4 => exact execCounts_keeps a0 a1 a2 a3 a4 s h
  case nakChunk a0 a1 a2 a3 a4 a5 => exact execNakChunk_keeps a0 a1 a2 a3 a4 a5 s h
  case digest a0 a1 a2 a3 a4 a5 a6 => exact execDigest_keeps a0 a1 a2 a3 a4 a5 a6 s h
  case cancel a0 a1 a2 a3 => exact execCancel_keeps a0 a1 a2 a3 s h
  case lost a0 a1 a2 => exact execLost_keeps a0 a1 a2 s h
  case reform a0 a1 a2 a3 => exact execReform_keeps a0 a1 a2 a3 s h
  case reformAck a0 a1 a2 => exact execReformAck_keeps a0 a1 a2 s h
  case reformDone a0 a1 a2 => exact execReformDone_keeps a0 a1 a2 s h
  case credit a0 a1 a2 a3 => exact execCredit_keeps a0 a1 a2 a3 s h
  case collectiveTimeout a0 => exact execCollectiveTimeout_keeps a0 s h
  case ceInjectCrc a0 a1 => exact execCeInjectCrc_keeps a0 a1 s h
  case ceInjectDigest a0 a1 => exact execCeInjectDigest_keeps a0 a1 s h
  case sessionOpen a0 a1 => exact execSessionOpen_keeps a0 a1 s h
  case sessionClose a0 a1 => exact execSessionClose_keeps a0 a1 s h
  case importBegin a0 a1 a2 a3 => exact execImportBegin_keeps a0 a1 a2 a3 s h
  case importRun a0 a1 a2 a3 => exact execImportRun_keeps a0 a1 a2 a3 s h
  case importEnd a0 a1 => exact execImportEnd_keeps a0 a1 s h
  case importAbort a0 a1 => exact execImportAbort_keeps a0 a1 s h
  case unsealCmd a0 a1 => exact execUnseal_keeps a0 a1 s h
  case scrubComplete a0 => exact execScrubComplete_keeps a0 s h
  case debugChallenge a0 a1 => exact execDebugChallenge_keeps a0 a1 s h
  case debugUnlock a0 a1 a2 => exact execDebugUnlock_keeps a0 a1 a2 s h
  case limiterTick a0 => exact execLimiterTick_keeps a0 s h
  case fastLimit a0 => exact execFastLimit_keeps a0 s h
  case hostCapWrite a0 a1 => exact execHostCapWrite_keeps a0 a1 s h
  case throtAssert => exact execThrotAssert_keeps  s h
  case throtRelease => exact execThrotRelease_keeps  s h
  case rampModeAssert a0 => exact execRampModeAssert_keeps a0 s h
  case rampModeRelease => exact execRampModeRelease_keeps  s h
  case syncTick a0 a1 => exact execSyncTick_keeps a0 a1 s h
  case syncLost => exact execSyncLost_keeps  s h
  case phasePreset a0 a1 => exact execPhasePreset_keeps a0 a1 s h
  case droop a0 a1 => exact execDroop_keeps a0 a1 s h
  case gateIdle a0 => exact execGateIdle_keeps a0 s h
  case unitWake a0 => exact execUnitWake_keeps a0 s h
  case parkCmd a0 => exact execParkCmd_keeps a0 s h
  case parkAuto => exact execParkAuto_keeps  s h
  case wakeCmd a0 => exact execWakeCmd_keeps a0 s h
  case wakeComplete => exact execWakeComplete_keeps  s h
  case thermalSample a0 a1 a2 a3 => exact execThermalSample_keeps a0 a1 a2 a3 s h
  case thermalCapTick => exact execThermalCapTick_keeps  s h
  case thermalStop => exact execThermalStop_keeps  s h
  case coolantLoss => exact execCoolantLoss_keeps  s h
  case coldPlateCheck a0 a1 a2 a3 => exact execColdPlateCheck_keeps a0 a1 a2 a3 s h
  case currentCheck a0 a1 => exact execCurrentCheck_keeps a0 a1 s h
  case sensorFloorExpiry a0 => exact execSensorFloorExpiry_keeps a0 s h
  case powerControlLost => exact execPowerControlLost_keeps  s h
  case modRstAssert => exact execModRstAssert_keeps  s h
  case modRstRelease a0 a1 => exact execModRstRelease_keeps a0 a1 s h
  case pwrEnHigh a0 a1 => exact execPwrEnHigh_keeps a0 a1 s h
  case pwrEnLow => exact execPwrEnLow_keeps  s h
  case stageComplete a0 => exact execStageComplete_keeps a0 s h
  case bcastRoundEnd a0 => exact execBcastRoundEnd_keeps a0 s h
  case coreReady a0 a1 => exact execCoreReady_keeps a0 a1 s h
  case startWatchdog => exact execStartWatchdog_keeps  s h
  case startRetry => exact execStartRetry_keeps  s h
  case stableTimeout => exact execStableTimeout_keeps  s h
  case restart a0 => exact execRestart_keeps a0 s h
  case enterRecovery a0 => exact execEnterRecovery_keeps a0 s h
  case recoveryEntered => exact execRecoveryEntered_keeps  s h
  case leaveRecovery a0 => exact execLeaveRecovery_keeps a0 s h
  case toService a0 => exact execToService_keeps a0 s h
  case enterMinimal a0 => exact execEnterMinimal_keeps a0 s h
  case clearFails a0 => exact execClearFails_keeps a0 s h
  case imageUpdate a0 => exact execImageUpdate_keeps a0 s h
  case updateDone a0 a1 => exact execUpdateDone_keeps a0 a1 s h
  case cmpRstAssert => exact execCmpRstAssert_keeps  s h
  case resetCompute a0 => exact execResetCompute_keeps a0 s h
  case computeRestart => exact execComputeRestart_keeps  s h
  case hsEnClose => exact execHsEnClose_keeps  s h
  case hotswapDebounce => exact execHotswapDebounce_keeps  s h
  case hotswapRampDone a0 a1 => exact execHotswapRampDone_keeps a0 a1 s h
  case hsEnOpen => exact execHsEnOpen_keeps  s h
  case vinLockout => exact execVinLockout_keeps  s h
  case circuitBreakerTrip => exact execCircuitBreakerTrip_keeps  s h
  case breakerRetry => exact execBreakerRetry_keeps  s h
  case spareReady a0 => exact execSpareReady_keeps a0 s h
  case remapApply a0 => exact execRemapApply_keeps a0 s h
  case remapDrainTimeout a0 => exact execRemapDrainTimeout_keeps a0 s h
  case discardProgrammed => exact execDiscardProgrammed_keeps  s h
  case openTxn a0 => exact execOpen_keeps a0 s h
  case commit a0 => exact execCommit_keeps a0 s h
  case abort a0 => exact execAbort_keeps a0 s h
  case txnApply => exact execTxnApply_keeps  s h
  case breakTimeout => exact execBreakTimeout_keeps  s h
  case txnTimeout => exact execTxnTimeout_keeps  s h
  case fenced a0 => exact execFenced_keeps a0 s h
  case release a0 a1 => exact execRelease_keeps a0 a1 s h
  case capture a0 => exact execCapture_keeps a0 s h
  case ownerHeartbeat a0 => exact execOwnerHeartbeat_keeps a0 s h
  case ownershipPass a0 => exact execOwnershipPass_keeps a0 s h
  case journalRecord a0 => exact execJournalRecord_keeps a0 s h
  case journalOut a0 => exact execJournalOut_keeps a0 s h
  case scanSlice a0 a1 a2 => exact execScanSlice_keeps a0 a1 a2 s h
  case digestCompare a0 a1 => exact execDigestCompare_keeps a0 a1 s h
  case setdasa a0 a1 => exact execSetdasa_keeps a0 a1 s h
  case entdaa a0 => exact execEntdaa_keeps a0 s h
  case rstdaa => exact execRstdaa_keeps  s h
  case setmrl a0 => exact execSetmrl_keeps a0 s h
  case getmrl => exact execGetmrl_keeps  s h
  case hotJoin => exact execHotJoin_keeps  s h
  case aonStatusRead a0 => exact execAonStatusRead_keeps a0 s h
  case setEndpointId a0 => exact execSetEndpointId_keeps a0 s h
  case heartbeat a0 => exact execHeartbeat_keeps a0 s h
  case regRead a0 a1 a2 => exact execRegRead_keeps a0 a1 a2 s h
  case regWrite a0 a1 a2 a3 a4 => exact execRegWrite_keeps a0 a1 a2 a3 a4 s h
  case setTime a0 => exact execSetTime_keeps a0 s h
  case getSensorReading a0 => exact execGetSensorReading_keeps a0 s h
  case pollForPlatformEventMessage => exact execPollForPlatformEventMessage_keeps  s h
  case pldmFirmwareUpdate a0 => exact execPldmFirmwareUpdate_keeps a0 s h
  case activateFirmware => exact execActivateFirmware_keeps  s h
  case wdtExpired => exact execWdtExpired_keeps  s h
  case refclkLost => exact execRefclkLost_keeps  s h
  case refclkReturn => exact execRefclkReturn_keeps  s h
  case ageingMeasure a0 a1 => exact execAgeingMeasure_keeps a0 a1 s h
  case portHLinkUp a0 a1 => exact execPortHLinkUp_keeps a0 a1 s h
  case tierPortUp a0 a1 a2 => exact execTierPortUp_keeps a0 a1 a2 s h
  case vinInRange => exact execVinInRange_keeps  s h
  case pushAckTimeout a0 a1 a2 => exact execPushAckTimeout_keeps a0 a1 a2 s h
  case chunkResendTimer a0 => exact execChunkResendTimer_keeps a0 s h
  case trngHealthTest a0 => exact execTrngHealthTest_keeps a0 s h
  case fwRestart a0 => exact execFwRestart_keeps a0 s h
  case interlockFault => exact execInterlockFault_keeps  s h
  case heartbeatGap a0 => exact execHeartbeatGap_keeps a0 s h
  case headerWithdrawal a0 a1 => exact execHeaderWithdrawal_keeps a0 a1 s h
  case hashList a0 a1 a2 a3 => exact execHashList_keeps a0 a1 a2 a3 s h
  case prefixReport a0 a1 a2 a3 => exact execPrefixReport_keeps a0 a1 a2 a3 s h
  case dummySynced a0 => exact execDummySynced_keeps a0 s h

theorem step_empty (s : State) (h : s.pending = []) : step s = .next s.tick := by
  unfold step
  rw [h]

/-- With no kernel on any core the block idles. -/
theorem step_idle (s : State) (h : s.pending = []) (k : s.runningCores = []) : step s = .next s := by
  rw [step_empty s h]
  unfold State.tick
  rw [k]
  rfl

/-- Whatever next state a step answers, it keeps what Keeps says of the state without the command that it takes. -/
theorem tick_keeps (s : State) : Keeps s s.tick := State.tick_keeps s (Keeps.refl s)

theorem step_push (c : Instr) (s : State) : step (s.push c) = exec c s := rfl

theorem step_cons (s : State) (c : Instr) (r : List Instr) (h : s.pending = c :: r) : step s = exec c { s with pending := r } := by
  unfold step
  rw [h]

end Sys2Proof.Machine
end

