-- ==== Sys2Proof/Tests/Slice0.lean ====
section
/-!
SUPPORT. Tests: ill-formed operands that each check of WellFormed refuses; for every obligation that has hypotheses, states and operands that meet
them; worked examples and tables of the spec.
-/
namespace Sys2Proof.Tests
set_option Elab.async false
open Sys2Proof Sys2Proof.Machine

/-! ## Ill-formed operands are refused -/

theorem test_lt_refuses : (Instr.ringsEnable .pf 8).wellFormed = false ∧ (Instr.ringsEnable .pf 7).wellFormed = true := by decide
theorem test_okSrc_refuses : (Instr.parkCmd (.vf 8)).wellFormed = false ∧ (Instr.parkCmd (.vf 7)).wellFormed = true := by decide
theorem test_valid_refuses : (Instr.unitFault ⟨.smp, 9⟩).wellFormed = false ∧ (Instr.unitFault ⟨.smp, 8⟩).wellFormed = true := by decide
theorem test_unitIn_refuses : (Instr.droop ⟨.ae, 0⟩ 1).wellFormed = false ∧ (Instr.droop ⟨.uc, 1055⟩ 1).wellFormed = true := by decide
theorem test_okSize_refuses : okSize 0 = false ∧ okSize 65 = false ∧ okSize 64 = true := by decide
theorem test_len_refuses : len [1, 2] 3 = false ∧ len [1, 2] 2 = true := by decide
theorem test_lenOpt_refuses : lenOpt (some [0]) 2 = false ∧ lenOpt none 2 = true := by decide
theorem test_short_refuses : short [] = false ∧ short (List.replicate 257 0) = false ∧ short (List.replicate 256 0) = true := by decide +kernel
theorem test_okRun_refuses : okRun 0 0 = false ∧ okRun 255 2 = false ∧ okRun 255 1 = true := by decide
theorem test_words_refuses : words [2 ^ 32] = false ∧ words [2 ^ 32 - 1] = true := by decide
theorem test_slotList_refuses : slotList [32768] = false ∧ slotList [32767] = true := by decide
theorem test_commits_refuses : commits [⟨32768, 0, false⟩] = false ∧ commits [⟨32767, 0, false⟩] = true := by decide
theorem test_okEntry_refuses : okEntry ⟨32768, .decode, 0, 1⟩ = false ∧ okEntry ⟨0, .decode, 0, 2 ^ 32⟩ = false ∧ okEntry ⟨32767, .last, 0, 1⟩ = true := by
  decide
theorem test_okLaneEv_refuses : okLaneEv ⟨some 256, 0⟩ = false ∧ okLaneEv ⟨none, 2 ^ 32⟩ = false ∧ okLaneEv ⟨some 255, 0⟩ = true := by decide
theorem test_okRing_refuses : okRing (.tok 8) = false ∧ okRing (.evt 8) = false ∧ okRing .module = true := by decide
theorem test_okFixed_refuses : okFixed [[575], [576]] = false ∧ okFixed [[575], []] = true := by decide
theorem test_okPort_refuses : okPort (some 24) = false ∧ okPort (some 23) = true ∧ okPort none = true := by decide
theorem test_beats_refuses : beats [(2 ^ 32, true)] = false ∧ beats [(0, true)] = true := by decide
theorem test_okSensor_refuses : okSensor (.tile 264) = false ∧ okSensor (.cluster 32) = false ∧ okSensor (.die 2) = false ∧
    okSensor (.device 68) = false ∧ okSensor (.device 67) = true := by decide
theorem test_okQueries_refuses : okQueries [(32768, 0, 0)] = false ∧ okQueries [(0, 2 ^ 20, 0)] = false ∧ okQueries [(0, 0, 2 ^ 24 - 1)] = true := by decide
theorem test_okMisses_refuses : okMisses [(⟨.ce, 4⟩, [])] = false ∧ okMisses [(⟨.ce, 3⟩, [0])] = true := by decide
theorem test_okMemEv_refuses : okMemEv ⟨256, 0, 0, 0, false, false, false, false⟩ = false ∧ okMemEv ⟨0, 256, 0, 0, false, false, false, false⟩ = false ∧
    okMemEv ⟨0, 0, 256, 0, false, false, false, false⟩ = false ∧ okMemEv ⟨255, 255, 255, 0, false, false, false, false⟩ = true := by decide
theorem test_okIo_refuses : okIo ⟨[(0, [])], []⟩ = false ∧ okIo ⟨[], [(0, 65)]⟩ = false ∧ okIo ⟨[(0, [1])], [(0, 64)]⟩ = true := by decide
theorem test_okHeader_refuses : okHeader ⟨1, none, 0, 4, 1, 1, 0, 0, [], false, false⟩ = false ∧
    okHeader ⟨1, none, 0, 3, 1, 1, 0, 0, [⟨32768, .last, 0, 1⟩], false, false⟩ = false ∧
    okHeader ⟨1, none, 0, 3, 1, 1, 0, 0, [⟨7, .last, 0, 1⟩], false, false⟩ = true := by decide
/-- A packet to a node, of a class. -/
def pkt (dst tc : Nat) : Pkt := ⟨dst, 0, tc, 0, 0, false, 0, 0, 0, 0, false, 0, 0, 0, []⟩
theorem test_okPkt_refuses : okPkt (pkt 64 0) = false ∧ okPkt (pkt 0 8) = false ∧ okPkts [pkt 0 0, pkt 64 0] = false ∧ okPkts [pkt 63 7] = true := by decide
theorem test_okReq_refuses : okReq ⟨6, 0, 0, 0, 0, 0, 0, 1, [], false, 0⟩ = false ∧ okReq ⟨0, 0, 5, 0, 0, 0, 0, 1, [], false, 0⟩ = false ∧
    okReq ⟨0, 0, 0, 0, 1056, 0, 0, 1, [], false, 0⟩ = false ∧ okReq ⟨5, 5, 4, 8, 1055, 7, 0, 256, [], false, 0⟩ = true := by decide
theorem test_okPower_refuses : okPower ⟨0, 0, 0, 0, 0, [0], 0⟩ = false ∧ okPower ⟨65536, 0, 0, 0, 0, List.replicate 8 0, 0⟩ = false ∧
    okPower ⟨65535, 0, 0, 65535, 0, List.replicate 8 0, 0⟩ = true := by decide
theorem test_okStage_refuses : okStage ⟨some 65536, 0, 0, [], 0, {}⟩ = false ∧ okStage ⟨none, 0, 0, [⟨.mem, 68⟩], 0, {}⟩ = false ∧
    okStage ⟨some 0x301, 0, 0, [⟨.mem, 67⟩], 0, {}⟩ = true := by decide

/-! ## States and operands that meet the hypotheses of the obligations -/

/-- A module that has left reset: in SERVICE, with MOD_RST_N released. -/
def up : State := { State.reset with sys := { State.reset.sys with modRst := false } }.setMode 2
/-- A lane of a class, on a unit, with an opcode. -/
def lane (eclass rel opcode : Nat) : Lane := ⟨0, 0, eclass, opcode, 0, 0, 0, 0, 0, rel, 0, 0, 1, 0, 0, 0, [], none, false⟩
/-- A step in a phase. -/
def stp (ph : StepPhase) : StepRec := { newStep 1 none 0 0 [] [] [] with phase := ph }
/-- A slot in a state. -/
def slt (n : Nat) (st : SeqState) : SlotRec := ⟨n, st, 0, 5, 0, 1, 0, 0, 3, 0, 0, 0, 0, 0, [], 0, false, [], [], 0, []⟩
/-- A unit with a queue. -/
def queued (s : State) (u : UnitId) (q : List Lane) : State := s.setUnit u (fun x => { x with queue := q })
/-- A unit in a state of STATUS.STATE. -/
def at' (s : State) (u : UnitId) (st : Nat) : State := s.put u Reg.common.state st
theorem test_hyp_StepRunsTheFrontCommand : State.reset.pending = [] ∧ State.reset.runningCores = [] := ⟨rfl, rfl⟩
theorem test_hyp_EveryStepKeepsCanonicalForm : State.reset.Inv ∧ ∃ t, step { State.reset with pending := [.interlockFault] } = .next t :=
  ⟨⟨by decide, by decide, by decide⟩, ⟨_, rfl⟩⟩
theorem test_hyp_EveryCommandExtendsTheRecord : ∃ t, exec .getmrl State.reset = .next t := ⟨_, rfl⟩
theorem test_hyp_WellFormedCommandsAlwaysRun : (Instr.unitFault ⟨.uc, 1055⟩).wellFormed = true := by decide
theorem test_hyp_SafeRunsStaySafe : State.safe { State.reset with pending := [.unitFault ⟨.uc, 1055⟩, .getmrl] } := by
  intro c h
  rcases List.mem_cons.1 h with h | h
  · subst h; decide
  · rcases List.mem_cons.1 h with h | h
    · subst h; decide
    · cases h
theorem test_hyp_ResetLeavesTheModuleOff : UnitId.valid ⟨.uc, 1055⟩ = true ∧ UnitId.valid ⟨.dma, 15⟩ = true := by decide
theorem test_hyp_FieldWritesTouchOnlyTheirBits :
    (∀ i < fieldSpan (UnitId.home pwrU Reg.pwr.capHostW) Reg.pwr.capHostW, 0 ≠ (fieldPos (UnitId.home pwrU Reg.pwr.capHostW) Reg.pwr.capHostW).1 + 4 * i) ∧
    15 < 32 * fieldSpan (UnitId.home pwrU Reg.pwr.capHostW) Reg.pwr.capHostW ∧ 15 < (fieldPos (UnitId.home pwrU Reg.pwr.capHostW) Reg.pwr.capHostW).2 ∧
    28 < 32 * fieldSpan (UnitId.home pwrU Reg.pwr.capHostW) Reg.pwr.capHostW ∧
    (fieldPos (UnitId.home pwrU Reg.pwr.capHostW) Reg.pwr.capHostW).2 + Reg.pwr.capHostW.width ≤ 28 := by decide +kernel
theorem test_hyp_StoresChangeOnlyTheirBytes : (1 < ([3, 4] : List Byte).length) ∧ (9 < 10 ∧ 10 + ([3, 4] : List Byte).length ≤ 12) ∧
    Memory.wf State.reset.mem = true := by decide
theorem test_hyp_PageControlsTakeEffect :
    UnitId.valid ⟨.smp, 8⟩ = true ∧ up.mayWrite .pf ⟨.smp, 8⟩ = true ∧ disableable .smp = true ∧
    (at' up ⟨.smp, 8⟩ stRunning).mayWrite .pf ⟨.smp, 8⟩ = true ∧
    (at' up ⟨.smp, 8⟩ stRunning).ustate ⟨.smp, 8⟩ = stRunning ∧ (at' up ⟨.smp, 8⟩ stRunning).forced ⟨.smp, 8⟩ = false ∧
    (let s := (at' up ⟨.smp, 8⟩ stRunning).setUnit ⟨.smp, 8⟩ (fun x => { x with mccForce := true });
      s.ustate ⟨.smp, 8⟩ = stRunning ∧ s.forced ⟨.smp, 8⟩ = true) ∧
    (∀ u ∈ [(⟨.pge, 0⟩ : UnitId), ⟨.dlr, 1⟩, ⟨.bvl, 23⟩], u.valid = true ∧ disableable u.blk = true ∧ (at' up u stRunning).mayWrite .pf u = true ∧
      (at' up u stRunning).ustate u = stRunning ∧ (at' up u stRunning).forced u = false) ∧
    (⟨.dlr, 1⟩ ≠ up.dealer ∧ (up.setRole 0 1 1 1).roleOf 0 1 = 1 ∧ (up.put (bvlU 23) Reg.bvl.linkState lkRecovering).linkState 23 = lkRecovering) ∧
    (at' up ⟨.smp, 8⟩ stDraining).ustate ⟨.smp, 8⟩ = stDraining ∧
    (at' up ⟨.smp, 8⟩ stQuiesced).ustate ⟨.smp, 8⟩ = stQuiesced ∧
    (up.put ⟨.mcc, 0⟩ Reg.mcc.policyPfExpert (2 ^ 37)).expertGranted .pf .smp = true ∧ 7 < numCounters .smp ∧ timedCounter .smp 7 = false := by decide +kernel
theorem test_hyp_PageControlsNeedAWriter : UnitId.valid ⟨.smp, 9⟩ = false ∧ UnitId.valid ⟨.smp, 8⟩ = true ∧
    up.mayWrite (.vf 0) ⟨.smp, 8⟩ = false := by decide +kernel
theorem test_hyp_ErrorLogReadsAndDrains :
    up.mayRead .pf ⟨.smp, 8⟩ = true ∧ up.mayRead (.vf 0) ⟨.smp, 8⟩ = false ∧
    (at' up ⟨.smp, 8⟩ stDraining).ustate ⟨.smp, 8⟩ = stDraining ∧ (at' up ⟨.smp, 8⟩ stDraining).idle ⟨.smp, 8⟩ = true ∧
    (at' up ⟨.smp, 8⟩ stDraining).flag ⟨.smp, 8⟩ Reg.common.enablePending = false ∧
    (let s := (queued up ⟨.ew, 0⟩ [{ lane 2 0 4 with bpp := 2, ops := List.replicate 32 0 ++ [2, 0, 0, 0] ++ List.replicate 12 0 }]).setUnit ⟨.ew, 0⟩ (fun x => { x with mccForce := true })
     s.forced ⟨.ew, 0⟩ = true ∧ s.inChain ⟨.ew, 0⟩ = false ∧
       ∃ l r, (s.unit ⟨.ew, 0⟩).queue = l :: r ∧ (l.status.isSome = true ∨ s.begun ⟨.ew, 0⟩ = false ∨ l.bpp = 2 ∧ s.innerBreaks l = true)) ∧
    (at' up ⟨.smp, 8⟩ stRunning).ustate ⟨.smp, 8⟩ = stRunning ∧
    (at' up (ceU 0) stRunning).ustate (ceU 0) ≠ stDraining ∧
    (let s := (at' up ⟨.smp, 8⟩ stDraining).put ⟨.smp, 8⟩ Reg.common.enablePending 1; s.ustate ⟨.smp, 8⟩ = stDraining ∧ s.idle ⟨.smp, 8⟩ = true ∧
      s.flag ⟨.smp, 8⟩ Reg.common.enablePending = true) ∧
    (let s := at' (at' up (ceU 0) stDraining) (ceU (partnerOf 0)) stRunning; s.ustate (ceU 0) = stDraining ∧ s.idle (ceU 0) = true ∧
      s.flag (ceU 0) Reg.common.enablePending = false ∧ s.ustate (ceU (partnerOf 0)) = stRunning) ∧
    (let s := up.setUnit ⟨.smp, 8⟩ (fun x => { x with chain := some (0, 0) }); s.inChain ⟨.smp, 8⟩ = true) ∧
    (let s := up.setUnit (ceU 0) (fun x => { x with mccForce := true }); s.forced (ceU 0) = true) ∧
    (∀ u ∈ [(⟨.smp, 8⟩ : UnitId), ⟨.tbl, 0⟩, ⟨.mem, 0⟩, ⟨.pge, 0⟩, ceU 0],
      let s := at' up u stDraining; s.ustate u ≠ stOff ∧ s.ustate u ≠ stVacant ∧ s.ustate u ≠ stFaulted) := by
  refine ⟨by decide +kernel, by decide +kernel, by decide +kernel, by decide +kernel, by decide +kernel, ⟨by decide +kernel, by decide +kernel, _, _, rfl, ?_⟩,
    by decide +kernel, by decide +kernel, by decide +kernel, by decide +kernel, by decide +kernel, by decide +kernel, by decide +kernel⟩
  exact Or.inr (Or.inr (by decide +kernel))

/-- The bytes of a small plan (R77, R97) other than its digest: one power phase at offset 0x100 and four templates at offset 0x140: a NOP that adds one
to counter 0, an elementwise lane that waits for it, one that only a step with a prefill chunk runs, and STEP_END. -/
def planMem : Sparse Byte :=
  [(0, 88), (1, 80), (2, 76), (3, 78), (4, 1), (8, 4), (12, 64), (14, 1), (15, 1), (20, 8), (24, 64), (28, 128), (29, 2), (33, 1), (40, 64),
   (41, 1), (321, 10), (331, 1), (384, 4), (385, 2), (388, 1), (393, 16), (395, 1), (448, 4), (449, 2), (451, 4), (457, 32), (459, 3), (461, 8),
   (512, 1), (513, 10), (516, 1), (520, 1)]
/-- A module in SERVICE whose partition 0 is ACTIVE: the Dealer runs, rings are on, a region and eight elementwise units are the partition's, and the
plan file lies at offset 0 of device memory. The registers that differ from reset: MODE, the partition's EW group, the Dealer's STATE, the partition's
PSTATE, SLOT_COUNT with BATCH_CAP, STEP_TOKENS and CHUNK_MAX, its device group, NODE_ID and RINGS.ENABLE (`base_regs` below). -/
def base : State :=
  { up with
    mem := planMem
    regs := [(16640, 2), (37512, 4294967041), (262156, 2), (262464, 524320), (262472, 64), (262476, 64), (262516, 65536), (278788, 0), (14680384, 1), (67109164, 1)]
    talon := { up.talon with map := [(blkCode .ew * 4096, 0), (blkCode .ew * 4096 + 1, 1)] } }
theorem base_regs : base.pstate 0 = 1 ∧ base.slotCount 0 = 32 ∧ base.get dlrU (Reg.dlr.partBatchCap.at 0) = 8 ∧
    base.get dlrU (Reg.dlr.partStepTokens.at 0) = 64 ∧ base.get dlrU (Reg.dlr.partChunkMax.at 0) = 64 ∧ base.service = true ∧
    base.ustate dlrU = stRunning ∧ base.node = 0 ∧ base.groupCount 0 = 1 ∧ base.unitsOf .ew 0 = [0, 1, 2, 3, 4, 5, 6, 7] ∧
    base.ringsOn 0 = true := by decide +kernel
/-- The same with the plan loaded in plan slot 0 and a decoding sequence in slot 3. -/
def loaded : State := base.setPart 0 (fun r => { r with plans := [(0, 0)], slots := [{ slt 3 .decode with pos := 64 }] })
/-- The same as a follower of a group of two. -/
def follower (s : State) : State := (s.put dlrU (Reg.dlr.partGroupSizeM1.at 0) 1).put dlrU (Reg.dlr.partMemberIndex.at 0) 1
/-- The same as the lead of a group of two. -/
def lead2 (s : State) : State := s.put dlrU (Reg.dlr.partGroupSizeM1.at 0) 1
/-- A state whose partition 0 has a step. -/
def stepping (s : State) (t : StepRec) : State := s.setPart 0 (fun r => { r with step := some t })
/-- A running step over a decoding sequence in slot 3, at the template that comes next. -/
def run0 (oldest : Nat) : StepRec := { newStep 1 none 0 0 [⟨3, .decode, 64, 1⟩] [] [] with phase := .running, granules := [0], oldest := oldest }
theorem test_hyp_PlansLoadAndUnload_others :
    notVf .pf = true ∧
    (((loaded.put dlrU Reg.dlr.planPart 0).put dlrU Reg.dlr.planPslot 0).planResult 0 0
      (((loaded.put dlrU Reg.dlr.planPart 0).put dlrU Reg.dlr.planPslot 0).get dlrU Reg.dlr.planAddr) ≠ 0) ∧
    ((loaded.part 0).plans.any (fun x => x.1 == 0) = true ∧ (loaded.part 0).unloading.contains 0 = false) ∧
    (let s := loaded.setPart 0 (fun r => { r with unloading := [0] }); (s.part 0).unloading.contains 0 = true ∧ (s.part 0).step = none) := by decide +kernel
theorem test_hyp_StepsFormAndStart :
    (loaded.mayForm 0 = true ∧ (loaded.usablePlans 0).isEmpty = false ∧ base.usablePlans 0 = [] ∧
      fitPlan (loaded.usablePlans 0) (((loaded.settleAborts 0).checkRecords 0).gather 0 (loaded.usablePlans 0)).entries.reverse =
        some (0, [⟨3, .decode, 64, 1⟩])) ∧
    (let s := loaded.setPart 0 (fun r => { r with slots := [{ slt 3 .decode with pos := 64, drafts := 100 }] });
      s.mayForm 0 = true ∧ (s.usablePlans 0).isEmpty = false ∧
      fitPlan (s.usablePlans 0) (((s.settleAborts 0).checkRecords 0).gather 0 (s.usablePlans 0)).entries.reverse = none) ∧
    (let s := stepping (lead2 loaded) { stp .forming with unready := [1] }; s.isLead 0 = true ∧ (s.part 0).step = some { stp .forming with unready := [1] } ∧
      [1].contains 1 = true) ∧
    (∀ n ∈ [0, 1], let t := { run0 0 with phase := .ready, attempt := n }; let s := stepping loaded t
      (s.part 0).step = some t ∧ t.afterFailover = false ∧ (t.attempt = 0 ↔ n = 0) ∧ t.granules = [0]) ∧
    (∀ n ∈ [64, 63], let t := stp .forming; let s := stepping (loaded.setPart 1 (fun r => { r with step := some { stp .running with granules := List.range n } })) t
      (s.part 0).step = some t ∧ s.isLead 0 = true ∧ t.unready = [] ∧ t.afterFailover = false ∧ t.granules = [] ∧
      (s.granulesFree.length < ((s.planHdr (s.stepPlan 0 t)).counters + 63) / 64 ↔ n = 64)) ∧
    (let s := follower loaded; let h : Header := ⟨1, none, 0, 0, 8, 64, 1, s.groupFields 0, [], false, false⟩
      s.parked = false ∧ s.isLead 0 = false ∧ s.service = true ∧ s.recovering = false ∧ s.pstate 0 = 1 ∧ s.ustate s.dealer = stRunning ∧
      h.group = s.groupFields 0 ∧ s.planMatches 0 h = true ∧ (s.part 0).step = none ∧ (s.part 0).lastCommit = h.prev ∧
      { h with group := h.group + 1 }.group ≠ s.groupFields 0 ∧ (s.setPart 0 (fun r => { r with plans := [] })).planMatches 0 h = false) ∧
    (let s := stepping (follower loaded) (stp .ready); (s.part 0).step = some (stp .ready) ∧ s.isLead 0 = false) := by decide +kernel
theorem test_hyp_StepsEndAndCommit :
    (let t := run0 3; let s := stepping { loaded with scoreboard := [(1, 1)] } t
      s.running 0 = some t ∧ t.oldest = (s.planHdr (s.stepPlan 0 t)).templates - 1 ∧ s.waitMet t (s.tmpl (s.stepPlan 0 t) t.oldest) = true ∧
      t.waiting = [] ∧ (s.issued 0).any (fun l => !l.stale) = false ∧ s.slotFree 0 = true ∧ s.isLead 0 = true ∧
      (s.tmplRead 0 (s.stepPlan 0 t) t.oldest).isLead 0 = true) ∧
    (let t := run0 3; let s := stepping (follower { loaded with scoreboard := [(1, 1)] }) t
      s.running 0 = some t ∧ t.oldest = (s.planHdr (s.stepPlan 0 t)).templates - 1 ∧ s.waitMet t (s.tmpl (s.stepPlan 0 t) t.oldest) = true ∧
      t.waiting = [] ∧ (s.issued 0).any (fun l => !l.stale) = false ∧ s.slotFree 0 = true ∧ s.isLead 0 = false ∧
      (s.tmplRead 0 (s.stepPlan 0 t) t.oldest).isLead 0 = false) ∧
    (let t := { run0 4 with phase := .ended, unvoted := [1] }; let s := stepping (lead2 loaded) t
      (s.part 0).step = some t ∧ s.isLead 0 = true ∧ t.unvoted.contains 1 = true ∧ t.votedPoison = false ∧ t.uncounted = false ∧
      t.phase = .ended ∧ t.unvoted ≠ []) ∧
    (let e := { run0 4 with phase := .ended }; e.unvoted = [] ∧ e.poison = none ∧ e.votedPoison = false) ∧
    (let s := (lead2 loaded).setPart 0 (fun r => { r with slots := [{ slt 3 .admitted with unacked := [1] }] });
      s.isLead 0 = true ∧ ∃ x ∈ (s.part 0).slots, x.unacked ≠ []) ∧
    (let t := { run0 4 with phase := .ended, entries := [] }; let s := stepping (follower loaded) t
      s.isLead 0 = false ∧ (s.part 0).step = some t ∧ t.phase = .ended ∧ t.poison = none ∧ t.entries = []) ∧
    (let s := loaded.setPart 0 (fun r => { r with tokOut := [⟨0, 1, 0, 0, false, 0⟩] }); (s.part 0).tokOut ≠ []) := by
  refine ⟨?_, ?_, ?_, ?_, ?_, ?_, ?_⟩ <;> decide +kernel
theorem test_hyp_LanesIssueAndComplete :
    (∀ i ∈ [0, 2], let t := run0 0; let s := stepping loaded t; let m := s.tmpl (s.stepPlan 0 t) i
      s.running 0 = some t ∧ i < (s.planHdr (s.stepPlan 0 t)).templates ∧ t.inWindow i = true ∧ s.waitMet t m = true ∧
      (i = 0 → t.skips m = false ∧ m.eclass = 10 ∧ m.opcode = 0) ∧ (i = 2 → t.skips m = true)) ∧
    (let l := { lane 2 0 4 with tmpl := 1 }; let t := { run0 1 with waiting := [l] }; let s := at' (stepping { loaded with scoreboard := [(0, 1)] } t) ⟨.ew, 0⟩ stRunning
      let m := s.tmpl (s.stepPlan 0 t) 1
      s.running 0 = some t ∧ 1 < (s.planHdr (s.stepPlan 0 t)).templates ∧ t.inWindow 1 = true ∧ s.waitMet t m = true ∧ t.skips m = false ∧ m.eclass ≠ 10 ∧
      t.waiting.find? (fun l => l.tmpl == 1 && l.lane == 0) = some l ∧ s.inOrder 0 t l = true ∧ t.broken.contains (l.eclass, l.rel) = false ∧
      s.slotFree 0 = true ∧ s.chainUnit l = none ∧ l.eclass ≠ 8 ∧ (s.candidates l).find? (fun c => s.ustate c.2 == stRunning) = some (0, ⟨.ew, 0⟩) ∧
      (s.unit ⟨.ew, 0⟩).queue.length < 16 ∧ s.frozen ⟨.ew, 0⟩ = false ∧ s.gated ⟨.ew, 0⟩ = false ∧
      (s.put ⟨.ew, 0⟩ Reg.common.freeze 1).frozen ⟨.ew, 0⟩ = true ∧
      (∀ c ∈ (at' (at' s ⟨.ew, 0⟩ stFaulted) ⟨.ew, 1⟩ stVacant).candidates l,
        (at' (at' s ⟨.ew, 0⟩ stFaulted) ⟨.ew, 1⟩ stVacant).ustate c.2 = stFaulted ∨ (at' (at' s ⟨.ew, 0⟩ stFaulted) ⟨.ew, 1⟩ stVacant).ustate c.2 = stVacant ∨ c.2.ix = 0xFFFF)) ∧
    (let l := { lane 2 0 4 with tmpl := 1, bpp := 1 }; let s := loaded.setUnit ⟨.ew, 0⟩ (fun x => { x with chain := some (0, 0) });
      s.chainUnit l = some ⟨.ew, 0⟩ ∧ (s.unit ⟨.ew, 0⟩).queue.length < 16 ∧ s.frozen ⟨.ew, 0⟩ = false ∧ s.gated ⟨.ew, 0⟩ = false ∧
      ({ run0 1 with broken := [(2, 0)] } : StepRec).broken.contains (l.eclass, l.rel) = true) ∧
    (let l := { lane 8 0 1 with status := some 0x0A }; let s := queued loaded (ceU 0) [l]
      (s.unit (ceU 0)).queue.find? (fun l => l.status.isSome) = some l ∧ l.stale = false) ∧
    (let l := { lane 2 0 4 with tmpl := 1, status := some 0 }; let t := run0 0; let s := queued (stepping loaded t) ⟨.ew, 0⟩ [l]
      s.running 0 = some t ∧ 0 < (s.planHdr (s.stepPlan 0 t)).templates ∧ t.inWindow 0 = true ∧ s.waitMet t (s.tmpl (s.stepPlan 0 t) 0) = true ∧
      (s.unit ⟨.ew, 0⟩).queue.find? (fun l => l.status.isSome) = some l ∧ l.eclass ≠ 8) := by
  refine ⟨?_, ?_, ?_, ?_, ?_⟩ <;> decide +kernel

/-! PLAN.LOAD succeeds on the plan whose digest is right: the digest's bytes are not computed, for they stand where no other check looks. -/
theorem shaRound_length (v : List W64) (kw : W64 × W64) : (shaRound v kw).length = v.length := by
  unfold shaRound
  split <;> rfl
theorem shaRounds_length (l : List (W64 × W64)) : ∀ v : List W64, (l.foldl shaRound v).length = v.length := by
  induction l with
  | nil => intro v; rfl
  | cons a l ih => intro v; rw [List.foldl_cons, ih, shaRound_length]
theorem shaBlock_length (h : List W64) (b : List Byte) : (shaBlock h b).length = h.length := by
  simp [shaBlock, List.length_zipWith, shaRounds_length]
theorem shaBlocks_length (n : Nat) : ∀ (h : List W64) (m : List Byte), (shaBlocks n h m).length = h.length := by
  induction n with
  | zero => intro h m; rfl
  | succ n ih => intro h m; rw [shaBlocks, ih, shaBlock_length]
theorem leBytes_len (n v : Nat) : (leBytes n v).length = n := by
  induction n generalizing v with
  | zero => rfl
  | succ n ih => simp [leBytes, ih]
theorem sha512_length (m : List Byte) : (sha512 m).length = 64 := by
  simp only [sha512, List.length_flatMap, List.length_reverse, leBytes_len, List.map_const', List.sum_replicate, shaBlocks_length]
  rfl
theorem getRun_eq {m m' : Sparse Byte} (n : Nat) : ∀ a, (∀ i, i < n → Sparse.get memDefault m (a + i) = Sparse.get memDefault m' (a + i)) →
    Sparse.getRun memDefault m a n = Sparse.getRun memDefault m' a n := by
  induction n with
  | zero => intro a _; rfl
  | succ n ih =>
    intro a h
    rw [Sparse.getRun, Sparse.getRun, ih (a + 1) (fun i hi => by have := h (i + 1) (by omega); rwa [show a + (i + 1) = a + 1 + i by omega] at this),
      show Sparse.get memDefault m a = Sparse.get memDefault m' a from h 0 (by omega)]
theorem store_bytes_other (s : State) (k a n : Nat) (d : List Byte) (h : a + n ≤ k ∨ k + d.length ≤ a) : (s.store k d).bytes a n = s.bytes a n :=
  getRun_eq n a (fun i hi => Sparse.get_setRun_other _ d k s.mem (by omega))
theorem getRun_same (d : List Byte) : ∀ (m : Sparse Byte) (k : Nat), Sparse.getRun memDefault (Sparse.setRun memDefault m k d) k d.length = d := by
  induction d with
  | nil => intro m k; rfl
  | cons v d ih =>
    intro m k
    rw [List.length_cons, Sparse.getRun, Sparse.setRun, ih]
    rw [Sparse.get_setRun_other _ d (k + 1) _ (by omega), Sparse.get_set_same]
theorem store_setWords (k : Nat) (d : List Byte) (n : Nat) : ∀ (s : State) (a v : Nat), (s.store k d).setWords a n v = (s.setWords a n v).store k d := by
  induction n with
  | zero => intro s a v; rfl
  | succ n ih => intro s a v; exact ih (s.setWord a (BitVec.ofNat 32 v)) _ _
theorem store_words (s : State) (k : Nat) (d : List Byte) (n : Nat) : ∀ a : Nat, (s.store k d).words a n = s.words a n := by
  induction n with
  | zero => intro a; rfl
  | succ n ih => intro a; rw [State.words, State.words, ih]; rfl
theorem store_get (s : State) (k : Nat) (d : List Byte) (u : UnitId) (f : Field) : (s.store k d).get u f = s.get u f := by
  rw [State.get, State.get, State.getAt, State.getAt, store_words]
theorem store_put (s : State) (k : Nat) (d : List Byte) (u : UnitId) (f : Field) (v : Nat) : (s.store k d).put u f v = (s.put u f v).store k d := by
  rw [State.put, State.put, State.setAt, State.setAt, store_words, store_setWords]
theorem poisoned_clean (s : State) (x : Nat) (hp : s.poison = []) (hv : s.talon.vacant = []) (hd : s.hurt.dead = []) (hx : x < 2 ^ 40) :
    s.poisoned x = false := by
  have : x * 256 / 2 ^ 48 = 0 := by omega
  rw [State.poisoned, State.lost, this]
  simp [State.deadLine, hp, hv, hd]
theorem store_unitsOf (s : State) (k : Nat) (d : List Byte) (b : Blk) (p : Nat) : (s.store k d).unitsOf b p = s.unitsOf b p := by
  have h (l : Nat) : (s.store k d).ownsLogical b p l = s.ownsLogical b p l := by
    rw [State.ownsLogical, State.ownsLogical]
    split <;> simp only [store_get]
  simp only [State.unitsOf, h]
theorem store_classCount (s : State) (k : Nat) (d : List Byte) (p c : Nat) : (s.store k d).classCount p c = s.classCount p c := by
  rw [State.classCount, State.classCount]
  split <;> simp only [store_unitsOf]
theorem store_tmplOk (s : State) (k : Nat) (d : List Byte) (p : Nat) (h : PlanHdr) (t : Tmpl) : (s.store k d).tmplOk p h t = s.tmplOk p h t := by
  rw [State.tmplOk, State.tmplOk, store_classCount]
theorem store_part (s : State) (k : Nat) (d : List Byte) (p : Nat) : (s.store k d).part p = s.part p := by
  rw [State.part, State.part, State.store_parts]
/-- The plan with its digest, and where PLAN.LOAD judges it. -/
def valid : State := base.store 0x80 (sha512 (base.bytes 0x100 320))
def judged : State := (base.put dlrU Reg.dlr.planPart 0).put dlrU Reg.dlr.planPslot 0
theorem planResult_zero (d : List Byte) (hd : d.length = 64) (hs : sha512 (judged.bytes 0x100 320) = d) : (judged.store 0x80 d).planResult 0 0 0 = 0 := by
  have le (a n : Nat) (h : a + n ≤ 0x80 ∨ 0xC0 ≤ a) : (judged.store 0x80 d).le a n = judged.le a n := by
    rw [State.le, State.le, store_bytes_other _ _ _ _ _ (by rw [hd]; exact h)]
  have by' (a n : Nat) (h : a + n ≤ 0x80 ∨ 0xC0 ≤ a) : (judged.store 0x80 d).bytes a n = judged.bytes a n :=
    store_bytes_other _ _ _ _ _ (by rw [hd]; exact h)
  have dig : (judged.store 0x80 d).bytes 0x80 64 = d := hd ▸ getRun_same d judged.mem 0x80
  have hdr : (judged.store 0x80 d).planHdr 0 = ⟨4, 64, 1, 1, 0, 8, 64, 640, 0x100, 0x140, 0⟩ := by
    simp (disch := omega) only [State.planHdr, le]
    decide +kernel
  have ok : (judged.store 0x80 d).planHeaderOk 0 = true := by
    simp (disch := omega) only [State.planHeaderOk, hdr, le]
    decide +kernel
  have h : judged.planHdr 0 = ⟨4, 64, 1, 1, 0, 8, 64, 640, 0x100, 0x140, 0⟩ := by decide +kernel
  have tm (i : Nat) : (judged.store 0x80 d).tmpl 0 i = judged.tmpl 0 i := by
    rw [State.tmpl, State.tmpl]
    simp (disch := omega) only [hdr, h, le, by']
  have tms : (judged.store 0x80 d).tmpls 0 = judged.tmpls 0 := by
    rw [State.tmpls, State.tmpls, hdr, h]
    exact List.map_congr_left (fun i _ => tm i)
  have res : (judged.store 0x80 d).planResourcesOk 0 0 = true := by
    have r : List.range 10 = [0, 1, 2, 3, 4, 5, 6, 7, 8, 9] := rfl
    simp (disch := omega) only [State.planResourcesOk, hdr, r, List.all_cons, List.all_nil, le, store_classCount, State.groupSize, store_get]
    decide +kernel
  have sl : (judged.store 0x80 d).planSealOk 0 0 = true := by
    have z : judged.get secU (Reg.sec.partSealState.at 0) = 0 := by decide +kernel
    simp only [State.planSealOk, store_get, z]
  have reg (n : Nat) (hn : n ≤ 576) : (judged.store 0x80 d).inRegion 0 0 n = true := by
    have b : (judged.store 0x80 d).regionBase 0 = 0 := rfl
    have z : (judged.store 0x80 d).regionSize 0 = 0x3_E000_0000 := by
      simp only [State.regionSize, State.groupCount, store_get]
      decide +kernel
    rw [State.inRegion, b, z]
    simp; omega
  have nd : (judged.store 0x80 d).node = 0 := by
    rw [State.node, store_get]
    decide +kernel
  have cnt (ts : List Tmpl) : ts.all ((judged.store 0x80 d).tmplOk 0 ⟨4, 64, 1, 1, 0, 8, 64, 640, 0x100, 0x140, 0⟩) =
      ts.all (judged.tmplOk 0 ⟨4, 64, 1, 1, 0, 8, 64, 640, 0x100, 0x140, 0⟩) := by
    rw [show (judged.store 0x80 d).tmplOk 0 = judged.tmplOk 0 from funext fun h => funext fun t => store_tmplOk judged 0x80 d 0 h t]
  have z : dgaKey 0 = 0 := by decide
  have f : dgaOff 0 = 0 := by decide
  have pt (p : Nat) : (judged.store 0x80 d).part p = judged.part p := store_part _ _ _ _
  have fe : (⟨4, 64, 1, 1, 0, 8, 64, 640, 0x100, 0x140, 0⟩ : PlanHdr).fileEnd = 576 := by decide
  have pc (x : Nat) (hx : x < 2 ^ 40) : (judged.store 0x80 d).poisoned x = false := by
    refine poisoned_clean _ x ?_ ?_ ?_ hx
    · rw [State.store_poison]; decide +kernel
    · rw [State.store_talon]; decide +kernel
    · rw [State.store_hurt]; decide +kernel
  have p1 : (judged.store 0x80 d).anyPoison 0 256 = false := by
    simp [State.anyPoison, show linesOf 0 256 = [0] by decide, pc 0 (by omega)]
  have p2 : (judged.store 0x80 d).anyPoison 0 576 = false := by
    simp [State.anyPoison, show linesOf 0 576 = [0, 1, 2] by decide, pc]
  have il : (⟨4, 64, 1, 1, 0, 8, 64, 640, 0x100, 0x140, 0⟩ : PlanHdr).inLimits = true := by decide
  have t1 : (judged.tmpls 0).all (judged.tmplOk 0 ⟨4, 64, 1, 1, 0, 8, 64, 640, 0x100, 0x140, 0⟩) = true := by decide +kernel
  have t2 : holdChains (judged.tmpls 0) [] = true := by decide +kernel
  have t3 : stepEndOk (judged.tmpls 0) = true := by decide +kernel
  have t4 : waitsReachable [] (judged.tmpls 0) = true := by decide +kernel
  have t5 : (List.range 64).any (fun c => decide (0xFFFF_FFFF < sigSum (judged.tmpls 0) c)) = false := by decide +kernel
  have q : ((judged.part 0).plans.any (fun x => x.1 == 0) ||
      decide (16 ≤ ((List.range 8).map (fun q => (judged.part q).plans.length)).foldl (· + ·) 0)) = false := by decide +kernel
  have g : (!dgaFormed 0 || dgaNode 0 != 0 || dgaSpace 0 != 0 || 0 % 64 != 0) = false := by decide
  have s1 : (judged.store 0x80 d).bytes (0 + 0x100) (576 - 0x100) = judged.bytes 0x100 320 := by' _ _ (by omega)
  have s2 : (judged.store 0x80 d).bytes (0 + 0x80) 64 = d := dig
  simp only [State.planResult, z, f, nd, hdr, fe, ok, sl, res, p1, p2, tms, t2, t3, t4, t5, cnt, t1, pt, q, g, il, s1, s2, hs]
  simp [reg, rising]
theorem test_hyp_PlansLoadAndUnload : let s0 := (valid.put dlrU Reg.dlr.planPart 0).put dlrU Reg.dlr.planPslot 0
    s0.planResult 0 0 (s0.get dlrU Reg.dlr.planAddr) = 0 := by
  have e : (valid.put dlrU Reg.dlr.planPart 0).put dlrU Reg.dlr.planPslot 0 = judged.store 0x80 (sha512 (base.bytes 0x100 320)) := by
    rw [valid, store_put, store_put, judged]
  have g : judged.get dlrU Reg.dlr.planAddr = 0 := by decide +kernel
  simp only [e, store_get, g]
  exact planResult_zero _ (sha512_length _) (by rw [State.bytes, State.bytes, judged, State.put_mem, State.put_mem])

/-! ### The host's side -/

/-- The state with one register word given. -/
def rg (s : State) (a v : Nat) : State := { s with regs := Sparse.insert s.regs a (BitVec.ofNat 32 v) }
/-- `base` with the host port up as CXL, the MCC running its firmware, and two apertures of 16 MiB onto partition 0's region, the second read-only. -/
def hosted : State :=
  { base with
    memWin := 16, memHeld := false
    regs := [(12, 2), (256, 256), (16640, 2), (37512, 4294967041), (262156, 2), (262464, 524320), (262472, 64), (262476, 64), (262516, 65536),
      (278784, 2), (278788, 0), (278848, 4096), (278864, 134221825), (14680384, 1), (67109164, 1)] }
/-- A request descriptor of one token and one sequence (R377). -/
def desc1 : List Byte := List.replicate 16 0 ++ [1, 0, 0, 0, 0, 1] ++ List.replicate 106 0
/-- RQ0_LOG2 and RQ1_LOG2 at 6, TOK_LOG2 at 10 and EVT_LOG2 at 8. -/
def ringed : State := rg base 67109160 (6 + 6 * 2 ^ 8 + 10 * 2 ^ 16 + 8 * 2 ^ 24)
theorem test_hyp_DoorbellsFetchAndDescriptorsQueue :
    (ringed.ownsWindow .pf 0 = true ∧ ringed.ringsOn 0 = true ∧ ringed.queueFull 0 = false ∧ (ringed.part 0).rq0Stop = false ∧ (ringed.part 0).rq1Stop = false ∧
      (2 ^ 32 + 64 - ringed.win 0 Reg.win.rq0Head) % 2 ^ 32 ≤ 2 ^ ringed.win 0 Reg.win.rq0Log2 ∧
      2 ^ ringed.win 0 Reg.win.rq0Log2 < (2 ^ 32 + 65 - ringed.win 0 Reg.win.rq0Head) % 2 ^ 32 ∧
      (2 ^ 32 + 64 - ringed.win 0 Reg.win.rq1Head) % 2 ^ 32 ≤ 2 ^ ringed.win 0 Reg.win.rq1Log2 ∧
      2 ^ ringed.win 0 Reg.win.rq1Log2 < (2 ^ 32 + 65 - ringed.win 0 Reg.win.rq1Head) % 2 ^ 32) ∧
    (ringed.put dlrU (Reg.dlr.partQueueEntries.at 0) 0).queueFull 0 = true ∧
    (∀ s0 ∈ [ringed, rg up 278788 0, follower ringed, ringed.put dlrU (Reg.dlr.partQueueEntries.at 0) 0],
      let s := s0.setPart 0 (fun r => { r with rq0Target := 1, rq1Target := 1 });
      (s.part 0).rq0Stop = false ∧ s.win 0 Reg.win.rq0Head ≠ (s.part 0).rq0Target ∧
      (s.part 0).rq1Stop = false ∧ s.win 0 Reg.win.rq1Head ≠ (s.part 0).rq1Target) ∧
    (let f (s : State) : State := s.setPart 0 (fun r => { r with rq0Target := 1, rq1Target := 1 });
      (f ringed).queueFull 0 = false ∧ (f ringed).pstate 0 ≠ 0 ∧ (f ringed).isLead 0 = true ∧ (f (rg up 278788 0)).pstate 0 = 0 ∧
      (f (rg up 278788 0)).queueFull 0 = false ∧ (f (follower ringed)).isLead 0 = false ∧ (f (follower ringed)).pstate 0 ≠ 0 ∧
      (f (follower ringed)).queueFull 0 = false ∧ (f (ringed.put dlrU (Reg.dlr.partQueueEntries.at 0) 0)).queueFull 0 = true) ∧
    (dsc (1 :: List.replicate 127 0) 8 120 < 2 ∧ 2 ≤ dsc (List.replicate 9 0 ++ [1]) 8 120) ∧
    (let e : QEntry := ⟨desc1, 0, [], none, none⟩; let s := base.setPart 0 (fun r => { r with queue := [e] });
      s.parked = false ∧ s.mayAdmit 0 = true ∧ s.nextRequest 0 = some 0 ∧ (s.part 0).queue[0]? = some e ∧ (s.readDesc 0 e).2 = false ∧
      (s.readDesc 0 e).1.requestOk 0 desc1 = true ∧ dsc desc1 0x15 1 ≤ ((s.readDesc 0 e).1.freeSlots 0).length ∧
      (s.readDesc 0 e).1.requestOk 0 (List.replicate 128 0) = false) ∧
    (let e : QEntry := ⟨desc1, 0, [], none, none⟩;
      let s := base.setPart 0 (fun r => { r with queue := [e], slots := (List.range 32).map (fun n => slt n .decode) });
      s.mayAdmit 0 = true ∧ (s.readDesc 0 e).2 = false ∧ (s.readDesc 0 e).1.requestOk 0 desc1 = true ∧
      ((s.readDesc 0 e).1.freeSlots 0).length < dsc desc1 0x15 1) ∧
    (let s := follower base; s.isLead 0 = false ∧ s.service = true ∧ s.recovering = false ∧ s.ustate s.dealer = stRunning ∧ s.trngBad = false ∧
      [31].all (fun n => ((s.part 0).slot? n).isSome) = false) ∧
    (let x := { slt 31 .admitted with unreported := [15] }; let s := base.setPart 0 (fun r => { r with slots := [x] })
      (s.part 0).slot? 31 = some x ∧ x.unreported = [15]) := by
  refine ⟨?_, ?_, ?_, ?_, ?_, ?_, ?_, ?_, ?_⟩ <;> decide +kernel
theorem test_hyp_RingControlsTakeEffect :
    (ringed.ownsWindow .pf 7 = true ∧ headOk (ringed.win 0 Reg.win.tokTail) (2 ^ 32 - 1024) (ringed.win 0 Reg.win.tokLog2) = true ∧
      headOk (ringed.win 0 Reg.win.tokTail) (2 ^ 32 - 1025) (ringed.win 0 Reg.win.tokLog2) = false ∧
      headOk (ringed.win 0 Reg.win.evtTail) (2 ^ 32 - 256) (ringed.win 0 Reg.win.evtLog2) = true ∧
      headOk (ringed.win 0 Reg.win.evtTail) (2 ^ 32 - 257) (ringed.win 0 Reg.win.evtLog2) = false ∧
      (ringed.setWin 0 Reg.win.statusDoorbellErr 1).win 0 Reg.win.statusDoorbellErr = 1) ∧
    (let s := rg ringed 67109164 0; s.ringsOn 0 = false ∧ s.ringsOk 0 = true ∧ (s.part 0).evtWait = [] ∧ (s.part 0).tokWait = [] ∧ (s.part 0).outWait = []) ∧
    (let s := rg base 67109164 0; s.ringsOn 0 = false ∧ s.ringsOk 0 = false) ∧
    (∀ n ∈ [8, 16], let s := rg base 279176 n; notVf .pf = true ∧ s.mevtOn = false ∧ s.get hifU Reg.hif.mevtBase % 4096 = 0 ∧
      8 ≤ s.get hifU Reg.hif.mevtLog2 ∧ s.get hifU Reg.hif.mevtLog2 ≤ 16 ∧
      headOk (s.get hifU Reg.hif.mevtTail) 0 (s.get hifU Reg.hif.mevtLog2) = true ∧ headOk (s.get hifU Reg.hif.mevtTail) 1 (s.get hifU Reg.hif.mevtLog2) = false) ∧
    (let s := base.setPart 7 (fun r => { r with tokUnsig := 1, evtUnsig := 1 }); (s.part 7).tokUnsig ≠ 0 ∧ (s.part 7).evtUnsig ≠ 0) ∧
    ({ base with modUnsig := 1 } : State).modUnsig ≠ 0 ∧ 7 < (base.put hifU Reg.hif.linkVfs 8).vfs ∧
    (base.awake = true ∧ base.sys.pgood = true ∧ base.hostUp = false ∧ base.minimal = false) := by decide +kernel
/-- A quarter of a line, whole. -/
def beat : List (Option Byte) := List.replicate 64 (some 1)
theorem test_hyp_WindowAccessesAndDiscovery :
    (hosted.hostUp = true ∧ hosted.parked = false ∧ hosted.reachable .pf = true ∧
      (∀ w ∈ [0x0FF_FFC0, 0x200_0000], ∀ s ∈ [(hosted.count hifU 6 1).endRun, hosted.count hifU 7 1],
        (s.windowTarget (w / 64 * 64) = none ↔ w = 0x200_0000)) ∧
      ((hosted.count hifU 6 1).endRun.windowTarget 0x0FF_FFC0 = some (0, 0, 0x0FF_FFC0, false)) ∧
      ((hosted.count hifU 7 1).windowTarget 0x1FF_FFC0 = some (0, 0, 0x0FF_FFC0, true)) ∧
      ((hosted.count hifU 7 1).windowTarget 0xC0 = some (0, 0, 0xC0, false))) ∧
    ((List.replicate 64 (none : Option Byte)).any Option.isSome = false ∧ (List.replicate 64 (none : Option Byte)).length = 64) ∧
    (beat.length = 64 ∧ beat.any Option.isSome = true ∧ beat.all Option.isSome = true ∧ (none :: beat.tail).length = 64 ∧
      (none :: beat.tail).any Option.isSome = true ∧ (none :: beat.tail).all Option.isSome = false) ∧
    hosted.merge = none ∧
    (let m : HostRun := ⟨0, [(0, List.replicate 64 1), (1, List.replicate 64 1), (2, List.replicate 64 1)], [0], []⟩;
      ({ hosted with merge := some m } : State).merge = some ⟨key 0 0xC0 / 256, [(0, List.replicate 64 1), (1, List.replicate 64 1), (2, List.replicate 64 1)], [0], []⟩ ∧
      m.beats.all (fun i => decide (i.1 ≠ key 0 0xC0 % 256 / 64)) = true ∧ m.done.all (fun i => decide (i = 0 ∨ i = 1 ∨ i = 2)) = true ∧
      ({ hosted with merge := some m } : State).hostUp = true ∧ ({ hosted with merge := some m } : State).parked = false ∧
      (({ hosted with merge := some m } : State).count hifU 7 1).windowTarget 0xC0 = some (0, 0, 0xC0, false)) := by
  refine ⟨?_, ?_, ?_, ?_, ?_⟩ <;> decide +kernel
/-- `hosted` with the host's transport at a stage of the negotiation. -/
def staged (n : Nat) : State := { hosted with spdm := { hosted.spdm with stage := [(0, n)] } }
theorem test_hyp_SpdmNegotiatesAndMeasures :
    (hosted.heard .pf = true ∧ hosted.spdmStage .pf = 0 ∧ (∀ n ∈ [1, 2, 3], (staged n).heard .pf = true ∧ n ≤ (staged n).spdmStage .pf)) ∧
    ((staged 3).measure .pf 1 []).isSome = true ∧ ((staged 3).measure .pf 200 []).isSome = false ∧ (staged 3).trngBad = false ∧
    ({ staged 3 with trngBad := true } : State).trngBad = true ∧ (staged 3).sessionOf .pf 1 = none ∧
    (∀ n ∈ [3, 4], let s : State := { staged 3 with spdm := { (staged 3).spdm with sessions := List.replicate n ⟨1, 0, false, 0⟩ } };
      s.heard .pf = true ∧ 3 ≤ s.spdmStage .pf ∧ (s.spdm.sessions.length < 4 ↔ n = 3) ∧ (s.sessionOf .pf 1).map (fun x => x.live) = some false) ∧
    (let s : State := { staged 3 with spdm := { (staged 3).spdm with sessions := [⟨1, 0, true, 0⟩], large := [(0, 1, [1, 2, 3], 0)] } };
      s.heard .pf = true ∧ 3 ≤ s.spdmStage .pf ∧ (s.sessionOf .pf 1).map (fun x => x.live) = some true ∧
      s.spdm.large.find? (fun l => l.1 == viaCode .pf && l.2.1 == 1) = some (0, 1, [1, 2, 3], 0)) := by decide +kernel
theorem test_hyp_SpdmNegotiatesAndMeasures_chain (s : State) : 0 < s.chainBytes.length := by
  simp [State.chainBytes, leBytes_len]

/-! ### Registers, engines and cores -/

theorem test_hyp_RegisterWritesReachTheirField :
    base.awake = true ∧ UnitId.valid ⟨.smp, 8⟩ = true ∧ base.mayWrite .pf ⟨.smp, 8⟩ = true ∧ UnitId.valid dlrU = true ∧ base.mayWrite (.vf 0) dlrU = false ∧
      0xFF8 % 8 = 0 ∧ (0x3FF_FFFE : Nat) < 0x400_0000 ∧ (0x3FF_FFFE : Nat) % 4 ≠ 0 := by decide +kernel
/-- An open transaction of the physical function, of kind 1. -/
def opened : TxnRec := { opener := .pf, kind := 1, partMask := 0 }
theorem test_hyp_TransactionalWritesLandInShadows :
    base.mayWrite .pf ctuU = true ∧ base.txn = none ∧
    (∀ src ∈ [Src.pf, .mgmt], let s : State := { base with txn := some opened };
      s.mayWrite src ctuU = true ∧ s.txn = some opened ∧ opened.applying = false ∧ opened.kind = 1 ∧ (opened.opener = src ↔ src = .pf)) := by decide +kernel
theorem test_hyp_ManagementReadsAndWritesRegisters :
    hosted.endpoint = true ∧ hosted.awake = true ∧ UnitId.valid ⟨.smp, 8⟩ = true ∧ hosted.minimal = false ∧
      ((hosted.count mgtU 2 1).count mgtU 3 1).mayWrite .mgmt ⟨.smp, 8⟩ = true ∧ 16 < 17 := by decide +kernel
/-- Operand bytes of a DMA lane: source, destination, pattern, rows, row bytes. -/
def dmaOps (src dst pat m n : Nat) : List Byte := leBytes 8 src ++ leBytes 8 dst ++ leBytes 8 pat ++ leBytes 4 m ++ leBytes 4 n ++ List.replicate 16 0
/-- A DMA lane of partition 0. -/
def dmaLane (opcode src dst pat m n : Nat) : Lane := { lane 7 0 opcode with ops := dmaOps src dst pat m n }
/-- DMA engine 0 RUNNING, with one lane. -/
def dmaState (l : Lane) : State := queued (rg base 16318476 2) ⟨.dma, 0⟩ [l]
/-- An elementwise lane of partition 0 over one row of 64 FP32 values at 0x10000 and 0x11000. -/
def ewLane (opcode b : Nat) : Lane :=
  { lane 2 0 opcode with ops := leBytes 8 0x10000 ++ leBytes 8 b ++ leBytes 8 0x12000 ++ leBytes 8 0 ++ leBytes 4 1 ++ leBytes 4 64 ++ List.replicate 8 0 }
/-- Elementwise unit 0 RUNNING with a lane. -/
def ewState (l : Lane) : State := queued (rg base 3407884 2) ⟨.ew, 0⟩ [l]
/-- What a lane that its engine runs at once meets: it is not held, passes its checks, forces no code, meets no uncorrectable error and no device
that has faulted, and its inputs are poisoned or not. -/
def Runs (s : State) (u : UnitId) (j : Job) (poisonIn : Bool) : Prop :=
  j.waits s = false ∧ j.reject = none ∧ j.last = none ∧ (j.read u (blkClass u.blk) s).2 = false ∧
    (j.run (j.read u (blkClass u.blk) s).1).1.writesFail j.outs = false ∧ (j.read u (blkClass u.blk) s).1.poisonedIn j.reads = poisonIn
/-- The devices of partition 0's group in the Talon's map. -/
def withMem (s : State) : State :=
  { s with talon := { s.talon with map := s.talon.map ++ [(blkCode .mem * 4096, 0), (blkCode .mem * 4096 + 1, 1), (blkCode .mem * 4096 + 2, 2), (blkCode .mem * 4096 + 3, 3)] } }
/-- The same with the four devices RUNNING. -/
def withMem4 (s : State) : State := rg (rg (rg (rg (withMem s) 14680076 2) 14684172 2) 14688268 2) 14692364 2
theorem test_hyp_EnginesRunTheirHeadLane :
    (let l := dmaLane 2 0 0x10000 8 1 64; let s := dmaState l; UnitId.valid ⟨.dma, 0⟩ = true ∧ (s.unit ⟨.dma, 0⟩).queue = [l] ∧
      s.ustate ⟨.dma, 0⟩ = stRunning ∧ s.dmaRemote l = false ∧ Runs s ⟨.dma, 0⟩ (s.dmaJob ⟨.dma, 0⟩ l) false ∧
      poisoning ((s.dmaJob ⟨.dma, 0⟩ l).run s).2 = false) ∧
    (let l := dmaLane 2 0 0x10000 8 1 63; let s := dmaState l; (s.dmaJob ⟨.dma, 0⟩ l).reject = some 5 ∧ (s.dmaJob ⟨.dma, 0⟩ l).waits s = false) ∧
    (let l := dmaLane 2 0 0x10000 8 1 64; let s := at' (withMem (dmaState l)) ⟨.mem, 0⟩ stDraining; (s.dmaJob ⟨.dma, 0⟩ l).waits s = true) := by
  unfold Runs
  refine ⟨?_, ?_, ?_⟩ <;> decide +kernel
theorem test_hyp_EnginesRunTheirHeadLane_inputs :
    (let l := ewLane 4 0x11000; let s : State := { ewState l with poison := [0x110] };
      s.ustate ⟨.ew, 0⟩ = stRunning ∧ Runs s ⟨.ew, 0⟩ (s.ewJob l) true) ∧
    (let l := ewLane 4 0x11000; let s : State := withMem4 { ewState l with hurt := { tags := [0x110] } }; let j := s.ewJob l;
      s.ustate ⟨.ew, 0⟩ = stRunning ∧ j.waits s = false ∧ j.reject = none ∧ j.last = none ∧ (j.read ⟨.ew, 0⟩ clsEng s).2 = true) := by
  unfold Runs
  refine ⟨?_, ?_⟩ <;> decide +kernel
theorem test_hyp_FillWritesItsPattern :
    (let l := dmaLane 2 0 0x10000 8 1 64; let s := dmaState l; (s.unit ⟨.dma, 0⟩).queue = [l] ∧ l.status = none ∧ l.opcode = 2 ∧ s.ustate ⟨.dma, 0⟩ = stRunning ∧
      s.dmaChecks l = none ∧ l.spanM1 = 0 ∧ l.dma.m = 1 ∧ s.hurt = {} ∧ (s.dmaJob ⟨.dma, 0⟩ l).waits s = false ∧
      (linesOf (dgaKey l.dma.dst) l.dma.n).all (fun x => !s.lost x && !s.sealedLine x && !s.deviceFaulted x) = true) := by decide +kernel
theorem test_hyp_RemoteLanesSendTheirPieces :
    (∀ l ∈ [dmaLane 1 (dgaOf 1 0 0x11000) 0x10000 0 1 64, dmaLane 1 0x10000 (dgaOf 1 0 0x11000) 0 1 64, dmaLane 3 0x10000 (dgaOf 63 1 0x11000) 0 1 64],
      let s := dmaState l; (s.unit ⟨.dma, 0⟩).queue = [l] ∧ l.status = none ∧ s.ustate ⟨.dma, 0⟩ = stRunning ∧ s.dmaChecks l = none ∧ s.dmaHere l = false ∧
      (l.share l.dma.m).1 < (l.share l.dma.m).2 ∧ (s.unit ⟨.dma, 0⟩).dma = none ∧ s.heldIn (s.dmaOuts l) = false) ∧
    (let l := dmaLane 1 (dgaOf 1 0 0x11000) 0x10000 0 1 64; let s := at' (withMem (dmaState l)) ⟨.mem, 0⟩ stDraining; s.heldIn (s.dmaOuts l) = true) ∧
    (let l := dmaLane 1 (dgaOf 1 0 0x11000) 0x10000 0 1 64; let s := (dmaState l).setUnit ⟨.dma, 0⟩ (fun x => { x with dma := some {} });
      (s.unit ⟨.dma, 0⟩).dma ≠ none) := by
  refine ⟨?_, ?_, ?_⟩ <;> decide +kernel
/-- A kernel image at offset 0 of the Table: magic, version 1, a text of four bytes (R228). -/
def imageMem : Sparse Byte := [(key 1 0, 0x58), (key 1 1, 0x4B), (key 1 2, 0x4C), (key 1 3, 0x4E), (key 1 4, 1), (key 1 8, 4)]
/-- A utility core's lane with an image and an entry point. -/
def ucLane (image : Nat) : Lane := { lane 6 0 1 with ops := leBytes 8 image ++ List.replicate 40 0 }
/-- Utility core 1055 RUNNING with a lane; partition 0 owns slice 0 of the Table. -/
def ucState (l : Lane) : State := { queued (rg (rg base 8515596 2) 9437504 8) ⟨.uc, 1055⟩ [l] with mem := imageMem }
/-- Registers of zero, with a program counter. -/
def hart (pc : Nat) : Hart :=
  { pc := BitVec.ofNat 64 pc, x := Vector.replicate 32 0, f := Vector.replicate 32 0, v := Vector.replicate 256 0, fflags := 0, frm := 0, vxrm := 0,
    vxsat := false, vstart := 0, vl := 0, vtype := ⟨true, false, false, 0, 0⟩, instret := 0 }
/-- A kernel at its first instruction. -/
def entered : Kernel := ⟨hart 0x2000_0040, false, [], 1⟩
/-- The same with its kernel entered. -/
def inKernel : State := (ucState (ucLane (dgaOf 0 1 0))).setUnit ⟨.uc, 1055⟩ (fun x => { x with kernel := some entered })
theorem test_hyp_KernelsRunAndEnd :
    (let l := ucLane (dgaOf 0 1 0); let s := ucState l; UnitId.valid ⟨.uc, 1055⟩ = true ∧ (s.unit ⟨.uc, 1055⟩).queue = [l] ∧ l.status = none ∧
      s.ustate ⟨.uc, 1055⟩ = stRunning ∧ (s.unit ⟨.uc, 1055⟩).kernel = none ∧ s.forced ⟨.uc, 1055⟩ = false ∧ s.ucReject l = none ∧
      s.heldIn (s.launchReads l) = false ∧ (s.setUnit ⟨.uc, 1055⟩ (fun x => { x with mccForce := true })).forced ⟨.uc, 1055⟩ = true ∧
      s.inChain ⟨.uc, 1055⟩ = false) ∧
    (let l := ucLane (dgaOf 0 1 32); let s := ucState l; s.ustate ⟨.uc, 1055⟩ = stRunning ∧ (s.unit ⟨.uc, 1055⟩).kernel = none ∧ s.ucReject l = some 5) ∧
    ((inKernel.unit ⟨.uc, 1055⟩).kernel = some entered ∧ inKernel.flag ⟨.uc, 1055⟩ Reg.uc.debugTraceEn = false ∧
      (rg inKernel 8516616 1).flag ⟨.uc, 1055⟩ Reg.uc.debugTraceEn = true ∧ inKernel.ioHeld ⟨[(0x20FF_FFC0, [1])], [(0x2000_0000, 64)]⟩ = false ∧
      (inKernel.kernelIo ⟨.uc, 1055⟩ 0 entered ⟨[(0x20FF_FFC0, [1])], [(0x2000_0000, 64)]⟩).fault = none ∧
      (inKernel.kernelIo ⟨.uc, 1055⟩ 0 entered ⟨[(0x2F00_0000, [1])], []⟩).fault = some (7, 0x2F00_0000)) := by
  refine ⟨?_, ?_, ?_⟩ <;> decide +kernel
theorem test_hyp_StepAndKernelCommandsComplete :
    (∀ i ∈ [0, 2], let t := run0 0; let s := stepping loaded t; let m := s.tmpl (s.stepPlan 0 t) i
      s.running 0 = some t ∧ i < (s.planHdr (s.stepPlan 0 t)).templates ∧ t.inWindow i = true ∧ s.waitMet t m = true ∧ s.slotFree 0 = true ∧
      (i = 0 → t.skips m = false ∧ m.eclass = 10 ∧ m.opcode = 0) ∧ (i = 2 → t.skips m = true)) ∧
    (let l := { lane 2 0 4 with tmpl := 1 }; let t := { run0 1 with waiting := [l] }; let s := at' (stepping { loaded with scoreboard := [(0, 1)] } t) ⟨.ew, 0⟩ stRunning
      let m := s.tmpl (s.stepPlan 0 t) 1
      s.running 0 = some t ∧ 1 < (s.planHdr (s.stepPlan 0 t)).templates ∧ t.inWindow 1 = true ∧ s.waitMet t m = true ∧ t.skips m = false ∧ m.eclass ≠ 10 ∧
      t.waiting.find? (fun l => l.tmpl == 1 && l.lane == 0) = some l ∧ s.inOrder 0 t l = true ∧ t.broken.contains (l.eclass, l.rel) = false ∧
      s.slotFree 0 = true ∧ s.chainUnit l = none ∧ (s.candidates l).find? (fun c => s.ustate c.2 == stRunning) = some (0, ⟨.ew, 0⟩) ∧
      (s.unit ⟨.ew, 0⟩).queue.length < 16 ∧ s.frozen ⟨.ew, 0⟩ = false ∧ s.gated ⟨.ew, 0⟩ = false) ∧
    (let l := { lane 2 0 4 with status := some 0 }; ((queued loaded ⟨.ew, 0⟩ [l]).unit ⟨.ew, 0⟩).queue = [l] ∧ l.eclass ≠ 8) ∧
    (let l := ucLane (dgaOf 0 1 0); let s := ucState l; (s.unit ⟨.uc, 1055⟩).queue = [l] ∧ l.status = none ∧ (s.unit ⟨.uc, 1055⟩).kernel = none ∧
      UnitId.valid ⟨.uc, 1055⟩ = true ∧ s.ustate ⟨.uc, 1055⟩ = stRunning ∧ s.forced ⟨.uc, 1055⟩ = false ∧ s.ucReject l = none ∧
      s.heldIn (s.launchReads l) = false) ∧
    (let io : KernelIo := ⟨[(0x20FF_FFC0, [1])], [(0x2000_0000, 64)]⟩; let s := rg inKernel 8516616 1; let l := ucLane (dgaOf 0 1 0)
      (s.unit ⟨.uc, 1055⟩).queue = [l] ∧ (s.unit ⟨.uc, 1055⟩).kernel = some entered ∧ s.flag ⟨.uc, 1055⟩ Reg.uc.debugTraceEn = true ∧ s.ioHeld io = false ∧
      (s.kernelIo ⟨.uc, 1055⟩ l.part entered io).fault = none ∧ (s.kernelIo ⟨.uc, 1055⟩ l.part entered (s.ioDone io)).fault = none) := by
  refine ⟨?_, ?_, ?_, ?_, ?_⟩ <;> decide +kernel

/-! ### Collectives and pages -/

/-- Group 0 of partition 0: VALID, a member of a re-formation set, members and live nodes 0 and 1, in a GSTATE. -/
def grouped (st : Nat) : State := rg (rg (rg (rg base 16253440 3) 16253448 16408) 16253456 st) 16253464 3
/-- The same with a lane at collective engine 0, RUNNING. -/
def ceState (st : Nat) (l : Lane) : State := queued (rg (grouped st) 16252940 2) ⟨.ce, 0⟩ [l]
/-- A collective's lane with no operands: a barrier of group 0, or a lane that lacks what its opcode needs. -/
def ceLane (opcode : Nat) : Lane := { lane 8 0 opcode with ops := List.replicate 48 0 }
/-- A barrier that group 0 has accepted. -/
def held (sq : Nat) : CollRec := { group := 0, seq := sq, engine := 1, lane := ceLane 5, posted := true, opened := true }
theorem test_hyp_CollectivesAreAccepted :
    (UnitId.valid ⟨.ce, 0⟩ = true ∧ (rg base 16252940 2).grp 0 Reg.ce.grpValid = 0 ∧ (rg base 16252940 2).ustate ⟨.ce, 0⟩ = stRunning ∧
      (queued (rg base 16252940 2) ⟨.ce, 0⟩ [ceLane 5]).unaccepted 0 = [ceLane 5]) ∧
    (∀ st ∈ [gsReady, gsHeld, gsBroken], let s := ceState st (ceLane 5); s.unaccepted 0 = [ceLane 5] ∧ s.ustate ⟨.ce, 0⟩ = stRunning ∧
      s.grp 0 Reg.ce.grpValid ≠ 0 ∧ s.grp 0 Reg.ce.grpPart = 0 ∧ s.gstate 0 = st) ∧
    ((ceState gsReady (ceLane 5)).grp 0 Reg.ce.grpPart ≠ 1) ∧
    ((ceState gsReady (ceLane 5)).ceChecks (ceLane 5) = none ∧ ((ceState gsReady (ceLane 5)).accepted 0).length < 4 ∧
      (ceState gsReady (ceLane 4)).ceChecks (ceLane 4) = some 5) ∧
    (let s : State := { ceState gsReady (ceLane 5) with coll := [held 0, held 1, held 2, held 3] };
      s.gstate 0 = gsReady ∧ 4 ≤ (s.accepted 0).length) ∧
    (let s := ceState gsReforming (ceLane 5); s.gstate 0 ≠ gsHeld ∧ s.gstate 0 ≠ gsBroken ∧ s.gstate 0 ≠ gsReady) := by
  refine ⟨?_, ?_, ?_, ?_, ?_, ?_⟩ <;> decide +kernel
theorem test_hyp_CollectivesAreAccepted_queue :
    ({ ceState gsReady (ceLane 5) with coll := [{ held 0 with lane := { ceLane 5 with stepTag := 9 } }] } : State).unaccepted 0 = [ceLane 5] := by decide +kernel
/-- A chunk packet of group 0 and collective 0 from node 1. -/
def chunk0 (sq : Nat) : Pkt := { pkt 0 1 with src := 1, kind := kColl, extra := sq }
theorem test_hyp_CollectiveTrafficMovesCollectivesOn :
    (let s := grouped gsReady; (s.taken 0 1 0).sender 0 1 0 = some 1 ∧ (s.taken 0 1 (4 * [7].length)).sender 0 1 0 = some 1 ∧
      (s.taken 0 1 32).sender 0 1 0 = some 1) ∧
    (let s : State := { grouped gsReady with coll := [{ held 0 with sent := [(chunkKey 1 0 0, 5)] }] };
      (s.taken 0 1 0).sender 0 1 0 = some 1 ∧ (s.taken 0 1 0).findColl 0 0 = some { held 0 with sent := [(chunkKey 1 0 0, 5)] } ∧
      ({ held 0 with sent := [(chunkKey 1 0 0, 5)] } : CollRec).sent.any (fun x => x.1 == chunkKey 1 0 0) = true ∧
      (chunk0 0).kind = kColl ∧ bits (chunk0 0).extra 32 6 = 0 ∧ bits (chunk0 0).extra 40 8 = s.gen 0 ∧ (chunk0 0).extra % 2 ^ 32 = 0 ∧
      s.grp 0 Reg.ce.grpValid ≠ 0 ∧ s.findColl 0 0 = some { held 0 with sent := [(chunkKey 1 0 0, 5)] } ∧ (held 0).opened = true) ∧
    (let s := grouped gsReady; bits (chunk0 3).extra 40 8 = s.gen 0 ∧ (chunk0 3).extra % 2 ^ 32 = 3 ∧ s.findColl 0 3 = none ∧
      seqBefore 3 (s.grp 0 Reg.ce.grpNextSeq) = false ∧ (s.grpNodes 0).findIdx? (fun x => x == 1) = some 1 ∧
      (s.updGrp 0 (fun r => { r with outB := [] })).accepted 0 = []) ∧
    (let s : State := { grouped gsReady with coll := [{ held 0 with opened := false }] };
      s.findColl 0 0 = some { held 0 with opened := false } ∧ s.accepted 0 = [{ held 0 with opened := false }]) := by
  refine ⟨?_, ?_, ?_, ?_⟩ <;> decide +kernel
theorem test_hyp_GroupsCancelAndReform :
    (let s := grouped gsReady; (s.taken 0 1 0).grp 0 Reg.ce.grpValid ≠ 0 ∧ ((s.taken 0 1 0).grpNodes 0).contains 1 = true ∧
      genNewer ((s.taken 0 1 0).gen 0) 127 = true ∧ (s.taken 0 1 8).grp 0 Reg.ce.grpValid ≠ 0 ∧ (s.taken 0 1 8).grp 0 Reg.ce.grpReform ≠ 0 ∧
      bit ((s.taken 0 1 8).grpMembers 0) 1 = true) ∧
    (∀ x ∈ [[1], [1, 2]], let s := (grouped gsReforming).updGrp 0 (fun r => { r with unacked := x }); let t := s.taken 0 1 0;
      t.gstate 0 = gsReforming ∧ 0 = t.gen 0 ∧ (t.grpRec 0).unacked.contains 1 = true ∧
      ((((t.updGrp 0 (fun r => { r with unacked := r.unacked.filter (fun n => n != 1) })).grpRec 0).unacked = []) ↔ x = [1])) ∧
    (let s : State := { grouped gsReady with coll := [held 0] }; s.accepted 0 = [held 0] ∧ (held 0).posted = true) ∧
    (let s : State := { grouped gsReady with coll := [{ held 0 with posted := false }] }; s.accepted 0 = [{ held 0 with posted := false }]) := by
  refine ⟨?_, ?_, ?_, ?_⟩ <;> decide +kernel
/-- `base` with a VALID route to every node in the table of epoch 0. -/
def routed : State := { base with regs := (List.range 64).map (fun i => (15991296 + 4 * i, 0x8000_0000)) ++ base.regs }
theorem test_hyp_GroupsCancelAndReform_nodes : (List.range 64).all (fun n => routed.nodeValid n) = true := by decide +kernel
theorem test_hyp_GroupsCancelAndReform_losses :
    (let p : Pkt := pkt 1 1; p.src = base.node ∧ p.tc = 1 ∧ (p.kind = kMsg → p.extra % 256 < 0x40) ∧
      2 ≠ lossPortDown ∧ 2 ≠ lossAbsent ∧ ((base.count (bvfU 0) 7 1).countLoss p).1 < 3 ∧
      3 ≤ ((((base.countLoss p).2.countLoss p).2.count (bvfU 0) 7 1).countLoss p).1) ∧
    (let p : Pkt := { pkt 1 3 with extra := 5 }; let q : ReqRec := ⟨0, true, 2, 1, 0, 0, 3, 5, [], false, 0, 0, none, 0, 0⟩;
      let s := base.setNet (fun n => { n with reqs := [q] }); p.src = s.node ∧ 2 ≤ p.tc ∧ p.tc ≤ 4 ∧ (s.count (bvfU 0) 7 1).reqOf p = some q) ∧
    (({ pkt 1 1 with src := 63 } : Pkt).src ≠ base.node ∧ (base.put ⟨.ce, 3⟩ Reg.common.expertEn 1).expert ⟨.ce, 3⟩ = true) ∧
    (let s := base.put (bvfU 0) (Reg.bvf.nodeState) (2 ^ 126); 63 < 64 ∧ 63 ≠ s.node ∧ s.nodeState 63 ≠ 0) := by
  refine ⟨?_, ?_, ?_, ?_⟩ <;> decide +kernel

/-- A page engine's lane over a step table at offset 0 of the Table, with a number of entries. -/
def pgeLane (opcode n list : Nat) : Lane :=
  { lane 9 0 opcode with ops := leBytes 8 (dgaOf 0 1 0) ++ leBytes 8 list ++ leBytes 2 0 ++ leBytes 2 n ++ List.replicate 28 0 }
/-- Page engine 0 RUNNING with a lane; one layer-head; a step table of one entry of one row at position 0. -/
def pgeState (l : Lane) : State := { queued (rg (rg base 294924 2) 295244 1) ⟨.pge, 0⟩ [l] with mem := [(key 1 8, 1), (key 1 72, 1)] }
/-- The same with a page of slot 3 in frame 2^30 + 5 and free frames of tier 1. -/
def paged (shared : Bool) (free : List Nat) : State :=
  (pgeState (pgeLane 1 0 0)).setPge 0 (fun g => { g with
    pages := [⟨3, 0, 2 ^ 30 + 5, false, shared, false⟩], frames := [(2 ^ 30 + 5, { refs := 1, st := .inUse, vpn := 0 })], free1 := { stack := free } })
/-- What a lookup answers is a frame, or nothing. -/
def isFrame : Lookup → Bool
  | .frame _ => true
  | _ => false
theorem test_hyp_PageEnginesAnswer :
    (∀ n ∈ [0, 1], let l := pgeLane 1 n 0; let s := pgeState l; let tbl := (l.op 16 8, 64 + 32 * l.op 34 2);
      UnitId.valid ⟨.pge, 0⟩ = true ∧ (s.unit ⟨.pge, 0⟩).queue = [l] ∧ l.status = none ∧ s.ustate ⟨.pge, 0⟩ = stRunning ∧ s.frozen ⟨.pge, 0⟩ = false ∧
      pgeChecks s l = none ∧ s.heldIn [tbl] = false ∧ (s.readAll clsSys [tbl]).2 = false ∧
      (s.readAll clsSys [tbl]).1.anyPoison (dgaKey tbl.1) tbl.2 = false) ∧
    (let l := pgeLane 1 1 0; let s : State := { pgeState l with poison := [key 1 0 / 256] }; let tbl := (l.op 16 8, 64 + 32 * l.op 34 2);
      (s.readAll clsSys [tbl]).2 = false ∧ (s.readAll clsSys [tbl]).1.anyPoison (dgaKey tbl.1) tbl.2 = true) ∧
    ((pgeState (pgeLane 1 1 0)).put ⟨.pge, 0⟩ Reg.common.freeze 1).frozen ⟨.pge, 0⟩ = true ∧
    (let l := pgeLane 2 1 (dgaOf 0 1 0x1000); let s := pgeState l; s.ustate ⟨.pge, 0⟩ = stRunning ∧ s.frozen ⟨.pge, 0⟩ = false ∧ s.prefetchCheck l 1 = none ∧
      max 1 (s.pgePart l.part).kvGroups = 1 ∧ s.heldIn (s.prefetchIns l 1) = false ∧ (s.readAll clsSys (s.prefetchIns l 1)).2 = false ∧
      (s.readAll clsSys (s.prefetchIns l 1)).1.poisonedIn (s.prefetchIns l 1) = false ∧
      s.prefetchCheck (pgeLane 2 2 (dgaOf 0 1 0x1000)) 1 = some 5) := by
  refine ⟨?_, ?_, ?_, ?_⟩ <;> decide +kernel
theorem test_hyp_PageEnginesAnswer_lookups :
    ((paged false []).frozen ((paged false []).homePge 0) = false ∧ (paged false []).localPage 0 0 = some 0 ∧ isFrame ((paged false []).lookupRead 0 3 (0 * (paged false []).lh 0 + 0)).1 = true ∧
      ((paged false []).lookupRead 0 4 (0 * (paged false []).lh 0 + 0)).1 = .notPresent ∧
      isFrame ((paged true [7]).lookupWrite 0 3 (0 * (paged true [7]).lh 0 + 0)).1 = true) ∧
    (let st := { stp .forming with entries := [⟨3, .chunk, 0, 64⟩] }; let s := stepping (pgeState (pgeLane 1 0 0)) st;
      (s.part 0).step = some st ∧ st.phase = .forming ∧ (s.pgePart 0).freeAll < s.stepNeed 0 st.entries) ∧
    (let st := { stp .forming with entries := [⟨3, .chunk, 0, 64⟩] }; let s := stepping (paged false [7]) st;
      (s.part 0).step = some st ∧ s.stepNeed 0 st.entries ≤ (s.pgePart 0).freeAll) := by
  refine ⟨?_, ?_, ?_⟩ <;> decide +kernel
/-- A partition with a migration in a state, and more free frames than the floor. -/
def migrating (st : MigState) : State :=
  (paged false []).setPge 0 (fun g => { g with migs := [⟨2 ^ 30 + 5, 2 ^ 30 + 6, 1, st⟩], free1 := { ranges := [(100, 165)] }, resum := [(3, 0)] })
theorem test_hyp_MigrationsAndSweeps :
    (let s := migrating .queued; (s.pgePart 0).migs.find? (fun m => m.src == 2 ^ 30 + 5 && m.st == .queued) = some ⟨2 ^ 30 + 5, 2 ^ 30 + 6, 1, .queued⟩ ∧
      s.mayMigrate (s.homePge 0) = true ∧ s.frozen (s.homePge 0) = false ∧ s.get (s.homePge 0) Reg.pge.spillFloor < ((s.pgePart 0).freeList 1).count ∧
      (s.popFrame 0 1).map (fun x => x.1) = some (2 ^ 30 + 100)) ∧
    (let s := migrating .copying; (s.pgePart 0).migs.find? (fun m => m.src == 2 ^ 30 + 5 && m.st == .copying) = some ⟨2 ^ 30 + 5, 2 ^ 30 + 6, 1, .copying⟩ ∧
      s.heldIn (s.frameRanges 0 (2 ^ 30 + 5) ++ s.frameRanges 0 (2 ^ 30 + 6)) = false ∧ (s.readAll clsSys (s.frameRanges 0 (2 ^ 30 + 5))).2 = false ∧
      (s.readAll clsSys (s.frameRanges 0 (2 ^ 30 + 5))).1.anyPoison (frameKey (2 ^ 30 + 5)) 32768 = false ∧ ((s.pgePart 0).frame (2 ^ 30 + 5)).refs ≤ 1) ∧
    (let s : State := { migrating .copying with poison := [5 * 128 + 127] };
      (s.readAll clsSys (s.frameRanges 0 (2 ^ 30 + 5))).1.anyPoison (frameKey (2 ^ 30 + 5)) 32768 = true) ∧
    ((((migrating .copying).setPge 0 (fun g => g.setFrame (2 ^ 30 + 5) { refs := 2, st := .migSrc, vpn := 0 })).pgePart 0).frame (2 ^ 30 + 5)).refs = 2 ∧
    (let s := (paged false []).setPge 0 (fun g => g.setFrame (2 ^ 30 + 5) { refs := 1, st := .forward, vpn := 2 ^ 30 + 6 });
      (s.pgePart 0).pages.filter (fun e => e.slot == 3 && ((s.pgePart 0).frame e.frame).st == .forward) = [⟨3, 0, 2 ^ 30 + 5, false, false, false⟩] ∧
      (s.pgePart 0).follow (2 ^ 30 + 5) 4 ≠ 2 ^ 30 + 5 ∧
      (s.pgePart 0).pages.filter (fun e => e.slot == 4 && ((s.pgePart 0).frame e.frame).st == .forward) = []) ∧
    (let s := (migrating .queued).setPart 0 (fun r => { r with slots := [{ slt 3 .decode with pos := 64 }] });
      s.localPage 0 0 = some 0 ∧ (s.pgePart 0).resum.contains (3, 0) = true ∧ 64 * 0 + 64 ≤ (s.slotClass 0 3).2) := by
  refine ⟨?_, ?_, ?_, ?_, ?_, ?_⟩ <;> decide +kernel

/-! ### Memory -/

/-- Bank 0 of the Table RUNNING, the only one in the Talon's map. -/
def bank0 : UnitId := ⟨.tbl, 0⟩
def tblState : State := { rg base 9437196 2 with talon := { base.talon with map := base.talon.map ++ [(blkCode .tbl * 4096, 0)] } }
/-- A request of a Table operation at an offset, from core 7 of partition 0. -/
def treq (op off len : Nat) (data : List Byte) : TblReq := ⟨5, 0, op, 0, 7, 0, off, len, data, false, 0⟩
/-- A remap of a unit onto the spare with number 5 of its kind. -/
def remapOf (u : UnitId) : RemapRec := ⟨u, 0, some 5, .committed, 0, 0⟩
/-- A state with that remap committed. -/
def remapping (s : State) (u : UnitId) : State := { s with talon := { s.talon with remaps := [remapOf u] } }
theorem test_hyp_TableBanksServe :
    ((treq 0 0xC0 64 []).ok = true ∧ tblState.physOf .tbl (tblState.bankOf 0xC0).1 = bank0.ix ∧ bank0.ix ≠ 0xFFFF ∧ tblState.tblAllowed (treq 0 0xC0 64 []) = true) ∧
    ((treq 0 0xF00_0000 64 []).ok = true ∧ tblState.physOf .tbl (tblState.bankOf 0xF00_0000).1 = bank0.ix ∧ tblState.tblAllowed (treq 0 0xF00_0000 64 []) = false) ∧
    ((treq 0 0x100 64 []).ok = true ∧ tblState.physOf .tbl (tblState.bankOf 0x100).1 = 0xFFFF) ∧
    (let r := treq 0 0 64 []; let s := tblState.setBank bank0 { moving := some r, waiting := [treq 0 0x40 64 []] };
      (s.bank bank0).moving = some r ∧ ((((s.tblPerform bank0 r).setBank bank0 { s.bank bank0 with moving := none }).grant bank0).bank bank0).moving.isSome = true) ∧
    ((tblState.bank bank0).moving = none ∧ tblState.logicalOf bank0 = some 0 ∧ tblState.get bank0 Reg.tbl.scrubPeriodMs ≠ 0 ∧ tblState.grantable bank0 5 = true ∧
      tblState.hurt.ce = [] ∧ tblState.hurt.ue = [] ∧ (tblState.put bank0 Reg.common.expertEn 1).flag bank0 Reg.common.expertEn = true ∧
      tblState.isArmed bank0 0 = false ∧ tblState.isArmed bank0 1 = false) ∧
    (let s := remapping tblState bank0; s.talon.remaps.find? (fun r => r.retiring == bank0 && r.stage == .committed) = some (remapOf bank0) ∧
      (s.bank bank0).moving = none ∧ s.faulted bank0 = false ∧ s.poison = [] ∧
      (at' s bank0 stFaulted).faulted bank0 = true ∧ s.reaches .pf bank0 = true) := by
  refine ⟨?_, ?_, ?_, ?_, ?_, ?_⟩ <;> decide +kernel
theorem test_hyp_TableBanksServe_results :
    (tblState.hurt = {} ∧ tblState.lost ((treq 0 0xC0 64 []).key / 256) = false ∧ tblState.sealedLine ((treq 0 0xC0 64 []).key / 256) = false ∧
      (treq 1 0xC0 64 (List.replicate 64 1)).ok = true ∧ tblState.absorbed (treq 1 0xC0 64 (List.replicate 64 1)) = false ∧ (treq 4 0xC0 8 (List.replicate 8 1)).ok = true ∧
      tblState.resv.any (fun x => x.core == 7 && x.granule == (treq 4 0xC0 8 (List.replicate 8 1)).key / 64) = false) ∧
    (({ tblState with resv := [⟨(treq 4 0xC0 8 []).key / 64, 7⟩] } : State).resv.any (fun x => x.core == 7 && x.granule == (treq 4 0xC0 8 []).key / 64) = true) := by
  refine ⟨?_, ?_⟩ <;> decide +kernel
/-- Controller 0 of local memory. -/
def mem0 : UnitId := ⟨.mem, 0⟩
theorem test_hyp_ControllersServe :
    (∀ on ∈ [true, false], let s := withMem (if on then rg base 14680076 2 else base); 0xC0 % 256 + 64 ≤ 256 ∧ s.lost (0xC0 / 256) = false ∧
      s.holder (0xC0 / 256) = some mem0 ∧ (s.memHolds mem0 = !on)) ∧
    (let s := withMem base; let s : State := { s with talon := { s.talon with vacant := [(blkCode .mem, 9)], map := base.talon.map } }; s.lost (0xC0 / 256) = true) ∧
    (let s := withMem (rg base 14680076 2); s.logicalOf mem0 = some 0 ∧ s.get mem0 Reg.mem.scrubPeriodH ≠ 0 ∧ s.ustate mem0 = stRunning ∧ s.hurt.tags = [] ∧
      (s.put mem0 Reg.common.expertEn 1).flag mem0 Reg.common.expertEn = true ∧ s.isArmed mem0 2 = false ∧ s.isArmed mem0 3 = false) ∧
    (let s := remapping (withMem (rg base 14680076 2)) mem0; s.talon.remaps.find? (fun r => r.retiring == mem0 && r.stage == .committed) = some (remapOf mem0) ∧
      s.faulted mem0 = false ∧ (at' s mem0 stFaulted).faulted mem0 = true ∧ s.reaches .pf mem0 = true) := by
  refine ⟨?_, ?_, ?_, ?_⟩ <;> decide +kernel
/-- Tier ports 0 and 1 RUNNING, with a window of 1 GiB for partition 0; port 0 up, port 1 training. -/
def tierState : State := rg (rg (rg (rg (rg base 15007756 2) 15011852 2) 15008000 2) 15012096 1) 15008064 0x1_0000
theorem test_hyp_TierPortsServe :
    (∀ off ∈ [0xC0, 0x3FFF_C0C0], tierState.tierPortOf off = some ⟨.tier, 0⟩ ∧ off % 256 + 64 ≤ 256 ∧ tierState.lost ((2 ^ 49 + off) / 256) = false ∧
      tierState.memHolds ⟨.tier, 0⟩ = false ∧ tierState.tagsUsed ⟨.tier, 0⟩ < tierState.tagLimit ⟨.tier, 0⟩ ∧ tierState.memWait = [] ∧ tierState.tierOut = []) ∧
    (let s := tierState.put ⟨.tier, 0⟩ Reg.common.freeze 1; s.memHolds ⟨.tier, 0⟩ = true) ∧
    (let s : State := { tierState with memWait := [(UnitId.page ⟨.tier, 0⟩ * 512 + 1, { key := 2 ^ 49 + 0xC1, write := none, poison := false, ev := ⟨0, 0, 0, 0, false, false, false, false⟩ })] };
      s.memWait.any (fun x => x.1 / 512 == UnitId.page ⟨.tier, 0⟩ && x.2.key / 256 == (2 ^ 49 + 0xC0) / 256) = true) ∧
    (tierState.tierPortOf 0x2000 = some ⟨.tier, 1⟩ ∧ tierState.lost ((2 ^ 49 + 0x2000) / 256) = true ∧ tierState.get ⟨.tier, 1⟩ Reg.tier.linkState ≠ 0 ∧
      (tierState.put ⟨.tier, 1⟩ Reg.common.expertEn 1).flag ⟨.tier, 1⟩ Reg.common.expertEn = true ∧ tierState.isArmed ⟨.tier, 1⟩ 3 = false) := by
  refine ⟨?_, ?_, ?_, ?_⟩ <;> decide +kernel

/-! ### The fabric -/

/-- A module that serves requests of node 1 for partition 0. -/
def served : State := rg base 279104 2
/-- A request or push from node 1 at an address of partition 0. -/
def ask (tc kind addr : Nat) (d : List Byte) : Pkt := { pkt 0 tc with src := 1, kind := kind, addr := addr, data := d }
/-- An outstanding request of DMA engine 0. -/
def outst (kind : Nat) (tag : Option (Nat × Nat)) : ReqRec := ⟨0, true, kind, 1, 0, 0, 3, 5, [], false, 64, 0, tag, 0, 0⟩
theorem test_hyp_RemoteTrafficIsServed :
    (served.parked = false ∧ (ask 2 kRead 0xC0 []).abort = false ∧ (ask 2 kRead 0xC0 []).part < 8 ∧ tc2Request (ask 2 kRead 0xC0 []) = true ∧
      readLen (ask 2 kRead 0xC0 []) = 256 ∧ served.remoteWaits (ask 2 kRead 0xC0 []) = false ∧ served.remoteWaits (ask 2 kWrite 0xC0 [1]) = false ∧
      served.remoteWaits (ask 4 kWrite 0xC0 [1]) = false ∧ served.remoteAllowed 0 1 0xC0 256 = true ∧ base.remoteAllowed 0 1 0xC0 256 = false) ∧
    (served.setNet (fun n => { n with waiting := [ask 2 kRead 0xC0 []] })).remoteWaits (ask 2 kRead 0xC0 []) = true ∧
    (tc2Request (ask 2 kWrite 0xC0 [1]) = true ∧ (ask 2 kWrite 0xC0 [1]).kind ≠ kRead ∧ served.remoteAllowed 0 1 0xC0 (max 1 1) = true ∧
      served.remoteAllowed 0 1 (0x3_E000_0000 - 1) (max 1 1) = true ∧ served.remoteAllowed 0 1 0x3_E000_0000 (max 1 1) = false ∧
      (ask 4 kWrite 0xC0 [1]).kind = kWrite ∧ (ask 4 kWrite 0xC0 [1]).tc = 4) ∧
    (∀ k ∈ [0, 1], let q := outst k (some (0, 0)); let s := base.setNet (fun n => { n with reqs := [q] }); let p := ask 2 (if k = 0 then kReadData else kWriteAck) 0 [];
      s.parked = false ∧ s.net.reqs.find? (fun q => q.tag == some (p.tagPort, p.tag) && (if q.kind = 0 then p.kind == kReadData else q.kind == 1 && p.kind == kWriteAck)) =
        some q ∧ q.live = true ∧ s.net.reqs.find? (fun q => q.tag == some (0, 0)) = some q) ∧
    (let q := outst 2 none; let s := base.setNet (fun n => { n with reqs := [q] });
      s.net.reqs.find? (fun q => q.kind == 2 && q.node == 1 && q.cls == 3 && q.seq == 5) = some q ∧ q.live = true) := by
  refine ⟨?_, ?_, ?_, ?_, ?_⟩ <;> decide +kernel
/-- Port 23 in a link state, with sixteen lanes each way. -/
def linked (st : Nat) : State := rg (rg base 15823104 (st + 288)) 15823116 65535
/-- The same with the record of the link changed. -/
def linkedRec (st : Nat) (l : LinkRec) : State := (linked st).setLink 23 (fun _ => l)
theorem test_hyp_LinksTrainAndFail :
    ((linked lkDetect).linkState 23 = lkDetect ∧ (rg (linked lkDetect) 15991040 0).node / 16 ≤ (rg (linked lkDetect) 15991040 0).get (bvfU 0) Reg.bvf.topoSuitsM1 ∧
      (rg (linked lkDetect) 15991040 0).linkState 23 = lkDetect) ∧
    ((linked lkTraining).linkState 23 = lkTraining ∧ ((linked lkTraining).mapLanes 23 0 0x1FFF0 ).wide 23 = true ∧
      ((linked lkTraining).mapLanes 23 0 0x3FFF).wide 23 = false) ∧
    (let s := linkedRec lkRecovering { retraining := true }; s.linkUp 23 = true ∧ (s.link 23).retraining = true ∧
      (s.mapLanes 23 0x3FFF 0).wide 23 = false ∧ (s.mapLanes 23 0 0).wide 23 = true ∧
      (s.mapLanes 23 0 0).get (bvlU 23) Reg.bvl.linkTxWidth = s.get (bvlU 23) Reg.bvl.linkTxWidth ∧
      (s.mapLanes 23 0 0).get (bvlU 23) Reg.bvl.linkRxWidth = s.get (bvlU 23) Reg.bvl.linkRxWidth ∧
      (s.mapLanes 23 0 0).get (bvlU 23) Reg.bvl.lanesRxActive = s.get (bvlU 23) Reg.bvl.lanesRxActive ∧
      activeMask ((s.mapLanes 23 0 0).get (bvlU 23) Reg.bvl.lanesTxFailed) = activeMask (s.get (bvlU 23) Reg.bvl.lanesTxFailed)) ∧
    (let s := linkedRec lkRecovering { retraining := true };
      let a := ((s.mapLanes 23 0 0).setLink 23 (fun l => { l with retraining := false, retrained := true })).takeAck 23 0;
      (a.link 23).retraining = false ∧ (a.link 23).retry = [] ∧ a.get (bvlU 23) Reg.bvl.retryConsec = 0) := by
  refine ⟨?_, ?_, ?_, ?_⟩ <;> decide +kernel
theorem test_hyp_LinksTrainAndFail_up :
    (let s := linked lkActive; s.linkUp 23 = true ∧ (s.link 23).ackOk 0 = true ∧ (rg s 15823120 16).get (bvlU 23) Reg.bvl.retryLimit ≤
        (rg s 15823120 16).get (bvlU 23) Reg.bvl.retryConsec ∧ (healthyLanes 0x3FFF).length < 4 ∧ 4 ≤ (healthyLanes 0x1FFF).length ∧
      s.get (bvlU 23) Reg.bvl.lanesRxActive &&& 0x1FFF ≠ 0 ∧ s.get (bvlU 23) Reg.bvl.serSwap ≠ 0 ∧ s.get (bvlU 23) Reg.bvl.serSwap < 10001 ∧
      bit (s.get (bvlU 23) Reg.bvl.lanesRxActive) 15 = true ∧
      (healthyLanes (s.get (bvlU 23) Reg.bvl.lanesRxFailed)).any (fun i => !bit (s.get (bvlU 23) Reg.bvl.lanesRxActive) i) = true) ∧
    ((linked lkRecovering).linkState 23 = lkRecovering ∧ (linked lkDown).linkState 23 = lkDown ∧ (linked lkDown).flag (bvlU 23) Reg.bvl.optAutoUp = true ∧
      (rg (linked lkDown) 15822860 2).ustate (bvlU 23) = stRunning ∧ (rg (linked lkDown) 15822860 2).linkState 23 = lkDown) := by
  refine ⟨?_, ?_⟩ <;> decide +kernel
theorem test_hyp_LinksCarryBlocks :
    ((linked lkActive).linkState 23 = lkActive ∧ ((linked lkActive).link 23).discarding = false ∧ ((linked lkActive).link 23).retraining = false ∧
      (linked lkActive).linkUp 23 = true ∧ 65535 ≠ ((linked lkActive).link 23).rxNext ∧ ((linked lkActive).link 23).ackOk 0 = true ∧
      ((linked lkActive).link 23).ackOk 1 = false ∧ 0 = (((linked lkActive).takeAck 23 0).link 23).rxNext) ∧
    ([List.replicate 17 0, [5]].any (fun c => decide (16 < c.length)) = true) ∧
    (let s := linkedRec lkActive { discarding := true, retry := [(0, [])], txNext := 1 }; (s.link 23).discarding = true ∧ (s.link 23).retraining = false ∧
      (s.link 23).retry ≠ []) ∧
    (let s := (linked lkActive).put (bvlU 23) Reg.common.expertEn 1; s.expert (bvlU 23) = true ∧ s.testOrRecovery = false ∧
      (rg s 16640 3).expert (bvlU 23) = true ∧ (rg s 16640 3).testOrRecovery = true) := by
  refine ⟨?_, ?_, ?_, ?_⟩ <;> decide +kernel
theorem test_hyp_FabricRoutesAndReports :
    ((linked lkActive).linkState 23 = lkActive ∧ (linked lkActive).linkUp 23 = true ∧ ((linked lkActive).setPeerState 23 1).peerState 23 ≠ 0 ∧
      ((linked lkActive).setPeerState 23 1).linkState 23 = lkActive) ∧
    (let s := linked lkActive;
      let r := (((((s.put (bvfU 0) (Reg.bvf.peerNode.at 23) 1).put (bvfU 0) (Reg.bvf.peerPort.at 23) 2).put (bvfU 0) (Reg.bvf.peerNstate.at 23) 2).put
        (bvfU 0) (Reg.bvf.peerExpNode.at 23) (wiredPeer s.node 23).1).put (bvfU 0) (Reg.bvf.peerExpPort.at 23) (wiredPeer s.node 23).2);
      (r.setPeerState 23 2).strapVerdict = none) ∧
    (let s := (linked lkActive).setNet (fun n => { n with inj := [pkt 1 3], inq := [(23, pkt 1 2)] });
      s.net.inj.find? (fun p => p.tc == 3) = some (pkt 1 3) ∧ s.net.inq.find? (fun e => e.1 == 23 && e.2.tc == 2 && e.2.hops == 0) = some (23, pkt 1 2)) ∧
    (base.epochState 1 ≤ 1 ∧ 2 ≤ (rg base 15991044 (2 * 16)).epochState 1 ∧ base.get (bvfU 0) Reg.bvf.telemPeriodMs = 0 ∧
      (rg base 15991060 0x10000).get (bvfU 0) Reg.bvf.telemPeriodMs ≠ 0 ∧ (base.put (bvfU 1) Reg.common.expertEn 1).expert (bvfU 1) = true) := by
  refine ⟨?_, ?_, ?_, ?_⟩ <;> decide +kernel
/-- A module with a packet of its own and one from port 23, both for node 1, under an entry of the route table. -/
def carrying (st entry : Nat) : State :=
  ((((linked st).setPeerState 23 1).put (bvfU 0) Reg.bvf.epochStateA 2).put (bvfU 0) (Reg.bvf.routeA.at 1) entry).setNet (fun n =>
    { n with inj := [pkt 1 3], inq := [(23, pkt 1 2)] })
theorem test_hyp_FabricRoutesAndReports_heads :
    (∀ x ∈ [(lkActive, 0xC000_0000, Route.eject), (lkActive, 0x83FF_FFB7, .port 23), (lkRecovering, 0x83FF_FFB7, .wait), (lkActive, 0, .unroutable 2)],
      let s := carrying x.1 x.2.1
      s.heads.find? (fun e => e.1 == some 23 && e.2.tc == 2 && tc2Response e.2 == false && ((some 23 : Option Nat).isNone || e.2.hops == 0)) = some (some 23, pkt 1 2) ∧
      s.knownAbsent (some 23) (pkt 1 2) = false ∧ s.routing (pkt 1 2) = x.2.2 ∧ s.ownState = 1) ∧
    (carrying lkActive 0).heads.find? (fun e => e.1 == none && e.2.tc == 3 && tc2Response e.2 == false && ((none : Option Nat).isNone || e.2.hops == 0)) =
      some (none, pkt 1 3) ∧
    (carrying lkActive 0).heads.find? (fun e => e.1 == none && e.2.tc == 4 && tc2Response e.2 == false && ((none : Option Nat).isNone || e.2.hops == 0)) = none ∧
    (linked lkActive).knownAbsent none (pkt 1 3) = true := by
  refine ⟨?_, ?_, ?_, ?_⟩ <;> decide +kernel

/-! ### Security and the module's states -/

/-- `base` with partition 0 in a SEAL_STATE and the first 64 MiB of its region an OPEN range. -/
def sealedAs (st : Nat) : State := rg (rg base 20864 st) 21000 0x400_0000
/-- The same with what an import holds of partition 0. -/
def importing (c n : Nat) : State :=
  (sealedAs 1).setSec 0 (fun x => { x with bundleKey := some (List.replicate 32 5), chunks := List.replicate c (0, 64), imported := List.range n })
theorem test_hyp_MailboxTakesOneCommand :
    notVf (.vf 0) = false ∧ base.flag secU Reg.sec.mboxBusy = false ∧ base.ustate base.mccHolder ≠ stFaulted ∧ (rg base 20748 1).flag secU Reg.sec.mboxBusy = true ∧
      (rg base 12 5).ustate (rg base 12 5).mccHolder = stFaulted := by decide +kernel
theorem test_hyp_MailboxCommandsRun :
    (∀ st ∈ [0, 1, 2, 3], ((sealedAs st).mboxTake .pf 1 0 0 0).map (fun t => (t.sealState 0, t.trngBad)) = some (st, false)) ∧
    (∀ c ∈ [2, 5, 6, 7, 8], ((sealedAs 2).mboxTake .mgmt c 0 0 0).map (fun t => (t.sealState 0, t.trngBad)) = some (2, false)) ∧
    ((sealedAs 0).mboxTake .pf 3 0 0 0).isSome = true ∧
    (((importing 2 1).mboxTake .pf 4 0 0 1).map (fun t => (t.sealState 0, t.argOk 0 0 16, t.argOk 0 0 (16 * 65536)))) = some (1, true, true) ∧
    (((importing 2 1).mboxTake .pf 5 0 0 0).map (fun t => (t.sealState 0, decide ((t.secPart 0).imported.length < (t.secPart 0).chunks.length),
      decide ((t.secPart 0).bundleKey ≠ none)))) = some (1, true, true) ∧
    (((importing 2 2).mboxTake .pf 5 0 0 0).map (fun t => (t.sealState 0, decide ((t.secPart 0).chunks.length ≤ (t.secPart 0).imported.length)))) = some (1, true) ∧
    (((importing 2 2).mboxTake .pf 6 0 0 0).map (fun t => t.sealState 0)) = some 1 ∧
    ((sealedAs 3).sealState 0 = 3 ∧ ((sealedAs 3).setSec 0 (fun x => { x with unsealing := true })).trngBad = false) ∧
    (base.trngBad = false ∧ base.secMod.job = none ∧ ({ base with secMod := { base.secMod with job := some (8, 7, 0, 0) } } : State).secMod.job = some (8, 7, 0, 0) ∧
      ({ base with trngBad := true } : State).trngBad = true) := by
  refine ⟨?_, ?_, ?_, ?_, ?_, ?_, ?_, ?_, ?_⟩ <;> decide +kernel
theorem test_hyp_DebugUnlocksOrRefuses :
    ((rg (sealedAs 0) 20736 (63 * 256)).mboxTake .pf 9 0 0 0).map (fun t => (t.argOk 0 0 332, t.get secU Reg.sec.debugUnlockCount)) = some (true, 63) ∧
    ((sealedAs 0).mboxTake .pf 9 0 0x400_0000 0).map (fun t => t.argOk 0 0x400_0000 332) = some false ∧
    ((rg (sealedAs 0) 20736 (64 * 256)).mboxTake .pf 9 0 0 0).map (fun t => (t.argOk 0 0 332, decide (64 ≤ t.get secU Reg.sec.debugUnlockCount))) = some (true, true) := by
  refine ⟨?_, ?_, ?_⟩ <;> decide +kernel
/-- `base` in a module state (R538), at a stage of a start. -/
def moded (m stage : Nat) : State := rg base 16640 (m + 16 * stage)
/-- A start under way. -/
def starting : StartRec := ⟨true, 0, 0, 0, false⟩
theorem test_hyp_ModuleStatesChange :
    (moded 4 0).mode = 4 ∧ (moded 1 0).mode = 1 ∧ (moded 3 0).mode = 3 ∧ (moded 3 0).flag bootU Reg.boot.stateComputeReset = false ∧
      (rg base 16640 259).mode = 3 ∧ (rg base 16640 259).flag bootU Reg.boot.stateComputeReset = true ∧ (moded 1 0).recovering = false ∧
      ({ base with recovering := true } : State).stepless = true ∧ base.mode = 2 ∧ (stepping base (stp .running)).stepless = false := by decide +kernel
theorem test_hyp_ComputeResetsAndRestarts :
    base.sys.cmp.pin = false ∧ base.sys.cmp.held = false ∧ base.sys.start = none ∧ base.mode = 2 ∧ base.sys.cmp = {} ∧ base.sys.powered = true ∧ base.sys.modRst = false ∧
    (∀ n ∈ [1, 2, 3, 10], let s := (moded 0 n).setSys (fun x => { x with start := some starting });
      s.sys.cmp.pin = false ∧ s.sys.cmp.held = false ∧ s.sys.start = some starting ∧ s.get bootU Reg.boot.stateStage = n) ∧
    (base.setSys (fun x => { x with cmp := { pin := true } })).cmpHeld = true ∧ (base.setSys (fun x => { x with cmp := { held := true } })).sys.cmp.held = true ∧
    ((rg base 16640 259).setSys (fun x => { x with cmp := { pin := true } })).mode = 3 ∧
    ((rg base 16640 259).setSys (fun x => { x with cmp := { pin := true } })).flag bootU Reg.boot.stateComputeReset = true := by decide +kernel
theorem test_hyp_PowerComesAndGoes :
    (base.sys.modRst = false ∧ base.sys.pwrEn = true ∧ base.sys.hsEn = true ∧ base.sys.vin = true ∧ base.sys.hotswap = 3 ∧ base.awake = true ∧
      State.reset.sys.modRst = true ∧ base.sys.update = none) ∧
    (∀ h ∈ [1, 2, 4, 5], (base.setSys (fun x => { x with hotswap := h })).sys.hotswap = h) ∧
    ((base.setSys (fun x => { x with powered := false, pwrEn := false, hsEn := false, vin := false })).sys.vin = false) := by
  refine ⟨?_, ?_, ?_⟩ <;> decide +kernel
theorem test_hyp_PowerLossKeepsWhatIsNotVolatile : base.sys.powered = true ∧ base.sys.vin = true := by decide +kernel
theorem test_hyp_StagesOfAStartEnd :
    (∀ n ∈ [1, 2, 3, 4, 5, 6, 7, 8, 9, 10], let s := (moded 0 n).setSys (fun x => { x with start := some starting });
      s.sys.start = some starting ∧ s.get bootU Reg.boot.stateStage = n ∧ s.txn = none ∧ s.cmpHeld = false ∧ s.sys.refclk = true ∧ s.sys.wave.all (fun c => c.ready) = true ∧
      s.sys.slotBad = false ∧ s.short .mem 32 = false ∧ s.short .tbl 512 = false ∧ starting.full = true ∧
      ({ s with trngBad := true } : State).trngBad = true ∧ (s.setSys (fun x => { x with slotBad := true })).sys.slotBad = true ∧
      (s.setSys (fun x => { x with refclk := false })).sys.refclk = false ∧
      (s.setSys (fun x => { x with start := some { starting with full := false } })).sys.start = some { starting with full := false }) ∧
    (({ moded 0 10 with txn := some opened } : State).txn.isSome = true ∧ (moded 0 10).get bootU Reg.boot.stateStage = 10) ∧
    ((moded 0 10).setSys (fun x => { x with wave := [⟨⟨.uc, 1⟩, [], 3, false⟩] })).sys.wave.all (fun c => c.ready) = false ∧
    (let s := base; s.mode = 2 ∧ s.sys.start = none ∧ s.sys.stable = false ∧ s.sys.retry = false) ∧
    (∀ r ∈ [2, 3], let c : WaveCore := ⟨⟨.uc, 1⟩, [], r, false⟩; c.unit = ⟨.uc, 1⟩ ∧ c.missing = [] ∧ c.ready = false ∧ (3 ≤ c.rounds ↔ r = 3)) := by
  refine ⟨?_, ?_, ?_, ?_, ?_⟩ <;> decide +kernel
/-- The image's numbers are at the fused minimum, or one is below what the module has raised it to. -/
theorem test_hyp_StagesOfAStartEnd_svns :
    (∀ i, i < 3 → base.minSvn i ≤ ((some { svns := [65535, 65535, 65535] } : Option ImageFacts).getD {}).svns.getD i 0) ∧
    (∃ i, i < 3 ∧ ((some { svns := [0, 0, 0] } : Option ImageFacts).getD {}).svns.getD i 0 < (base.setSys (fun x => { x with svns := [1, 0, 0] })).minSvn i) := by
  refine ⟨fun i hi => ?_, 0, by decide, Nat.lt_of_lt_of_le (by decide) (Nat.le_max_right _ _)⟩
  have h : [65535, 65535, 65535].getD i 0 = 65535 := by
    match i with
    | 0 | 1 | 2 => rfl
    | n + 3 => omega
  have z : base.sys.svns = [0, 0, 0] := by decide +kernel
  have w : [0, 0, 0].getD i 0 = 0 := by
    match i with
    | 0 | 1 | 2 => rfl
    | n + 3 => omega
  rw [State.minSvn, z, w]
  show max _ 0 ≤ [65535, 65535, 65535].getD i 0
  rw [h]
  omega

/-! ### Power, heat, time and management -/

theorem test_hyp_PowerIsCapped :
    2400 < 2401 ∧ base.pwr.fast = false ∧ (base.setPwr (fun x => { x with fast := true })).pwr.fast = true ∧
    (rg base 256 768).fwDown = true ∧ (base.put pwrU Reg.pwr.capHostW 300).fwDown = false ∧ (base.put pwrU Reg.pwr.capHostW 2200).fwDown = false ∧ (base.put pwrU Reg.pwr.capHostW 0).fwDown = false ∧
    base.flag pwrU Reg.pwr.statThrot = false ∧ base.flag pwrU Reg.pwr.statRamp = false ∧ (rg base 24848 3).flag pwrU Reg.pwr.statThrot = true ∧
    (rg base 24848 3).flag pwrU Reg.pwr.statRamp = true ∧ (rg base 24848 3).pwr.frozen = false ∧
    ((rg base 24848 3).setPwr (fun x => { x with frozen := true })).pwr.frozen = true := by decide +kernel
theorem test_hyp_ClocksAndPowerFollowTheLoad :
    (clockGroup ⟨.mt, 0⟩).all (fun v => (base.unit v).queue.isEmpty) = true ∧
    (clockGroup ⟨.mt, 0⟩).all (fun v => ((queued base ⟨.mt, 0⟩ [lane 0 0 1]).unit v).queue.isEmpty) = false ∧ (base.unit ⟨.uc, 1055⟩).queue = [] ∧
    base.limiterIdle = false ∧ (base.put ⟨.aon, 0⟩ Reg.aon.hbMissing 4).limiterIdle = true ∧
    (∀ u ∈ [(⟨.mt, 0⟩ : UnitId), ⟨.uc, 5⟩], let s := queued (stepping base (stp .running)) u [lane 0 0 1]
      (s.unit u).queue = [lane 0 0 1] ∧ (s.part (lane 0 0 1).part).step = some (stp .running)) ∧
    base.get pwrU Reg.pwr.parkAutoMs = 0 ∧ (base.put pwrU Reg.pwr.parkAutoMs 1).get pwrU Reg.pwr.parkAutoMs ≠ 0 ∧
    (base.setPwr (fun x => { x with waking := true })).pwr.waking = true ∧ base.pwr.waking = false ∧ (base.part 0).step = none ∧
    (let s := stepping base (stp .running); (s.part 0).step = some (stp .running) ∧ s.flag pwrU Reg.pwr.predEn = true ∧ s.fwDown = false ∧ s.isAnte 0 = false) := by
  decide +kernel
/-- `base` under a thermal cap. -/
def capped (throttle : Nat) : State := (base.setPwr (fun x => { x with thm := some 900, floors := [1], conds := [2] })).put thmU Reg.thm.statThrottle throttle
theorem test_hyp_TemperaturesAreWatched :
    base.pwr.thm = none ∧ (capped 1).pwr.thm = some 900 ∧ (capped 1).flag thmU Reg.thm.statThrottle = true ∧ (capped 0).flag thmU Reg.thm.statThrottle = false ∧
    (97 * 0 + 47700) * 1000 < 3001 * 15900 ∧ 3000 * 15900 ≤ (97 * 0 + 47700) * 1000 ∧ (capped 0).pwr.conds.contains 2 = true ∧
    base.tooHot = false ∧ (base.setPwr (fun x => { x with temps := [(sensorKey (.die 1), 0, [109_999])] })).tooHot = true ∧
    (capped 0).pwr.floors.contains 3 = false ∧ (capped 0).pwr.conds.contains 1 = false ∧ (capped 0).pwr.floors.contains 1 = true := by decide +kernel
/-- `hosted` with events for the endpoint. -/
def evs (n : Nat) : State := { hosted with mgt := { hosted.mgt with events := List.replicate n ⟨0xB001, none, 0, 0, 0, 0⟩ } }
theorem test_hyp_ThePortIsAddressed :
    (staticAddr + 1 ≠ staticAddr) ∧ ((rg base 41216 16).unaddressed = true ∧ (rg base 41216 (9 * 256)).unaddressed = false ∧ base.sys.powered = true ∧
      (base.setSys (fun x => { x with powered := false })).sys.powered = false ∧ base.endpoint = false ∧ base.sys.refclk = true) ∧
    (hosted.endpoint = true ∧ (((hosted.count mgtU 2 1).count mgtU 3 1).sensor 1).isSome = true ∧ (((hosted.count mgtU 2 1).count mgtU 3 1).sensor 8).isSome = false ∧
      hosted.mgt.events = [] ∧ (evs 1).endpoint = true ∧ (evs 1).mgt.events = [⟨0xB001, none, 0, 0, 0, 0⟩] ∧ (evs 2).mgt.events.length = 2 ∧
      hosted.sys.update = none ∧ (match ((hosted.count mgtU 2 1).count mgtU 3 1).checkImage [] with | .error r => r == 3 | .ok _ => false) = true) := by
  refine ⟨Nat.succ_ne_self _, ?_, ?_⟩ <;> decide +kernel
/-- `base` without the reference clock. -/
def unclocked : State := base.setSys (fun x => { x with refclk := false })
theorem test_hyp_TimeIsKept :
    (base.sys.powered = true ∧ base.flag mgtU Reg.mgt.wdtExpired = false ∧ base.flag mgtU Reg.mgt.wdtDisable = false ∧ base.awake = true ∧
      State.reset.awake = false ∧ State.reset.sys.powered = true ∧ base.sys.pgood = true ∧ base.sys.refclk = true ∧ base.mgt.ticked = false) ∧
    (State.reset.flag mgtU Reg.mgt.wdtExpired = false ∧ State.reset.flag mgtU Reg.mgt.wdtDisable = false ∧
      (base.put mgtU Reg.mgt.wdtExpired 1).flag mgtU Reg.mgt.wdtExpired = true) ∧
    ((base.setMgt (fun x => { x with ticked := true })).mgt.ticked = true ∧ (base.setMgt (fun x => { x with ticked := true })).mgt.slew = 0 ∧
      unclocked.sys.refclk = false ∧ unclocked.sys.powered = true ∧ unclocked.sys.pgood = true ∧
      (base.setSys (fun x => { x with pgood := false })).sys.pgood = false ∧ (base.put clkU Reg.clk.refState 1).get clkU Reg.clk.refState = 1 ∧
      (base.put clkU Reg.clk.refState 1).awake = true) := by
  refine ⟨?_, ?_, ?_⟩ <;> decide +kernel
/-- `base` with one remap of a unit. -/
def remaps1 (u : UnitId) (spare : Option Nat) (st : RemapStage) : State :=
  { base with talon := { base.talon with remaps := [⟨u, 0, spare, st, 0, 0⟩] } }
theorem test_hyp_SparesReplaceUnits :
    (∀ u ∈ [(⟨.ew, 0⟩ : UnitId), ⟨.tbl, 3⟩, ⟨.mem, 2⟩], ∀ st ∈ [RemapStage.starting, .ready, .committed],
      (remaps1 u (some 5) st).talon.remaps = [⟨u, 0, some 5, st, 0, 0⟩] ∧ (remaps1 u none st).talon.remaps = [⟨u, 0, none, st, 0, 0⟩]) ∧
    ({ remaps1 ⟨.ew, 0⟩ (some 5) .ready with txn := some opened } : State).txn.isSome = true ∧
    (let s := remaps1 ⟨.ew, 0⟩ (some 5) .committed;
      s.drained ⟨.ew, 0⟩ = true ∧ (queued s ⟨.ew, 0⟩ [lane 2 0 1]).drained ⟨.ew, 0⟩ = false ∧
      (queued s ⟨.ew, 0⟩ [lane 2 0 1]).faulted ⟨.ew, 0⟩ = false ∧ (s.unit ⟨.ew, 0⟩).mccForce = false ∧
      (rg s 3407884 5).faulted ⟨.ew, 0⟩ = true ∧ (rg (queued s ⟨.ew, 0⟩ [lane 2 0 1]) 3407884 2).ustate ⟨.ew, 0⟩ = stRunning) ∧
    base.talon.programming = [] ∧ (remaps1 ⟨.tbl, 3⟩ none .committed).drained ⟨.tbl, 3⟩ = true := by
  refine ⟨?_, ?_, ?_⟩ <;> decide +kernel
theorem test_hyp_SparesReplaceUnits_bank : ∀ u ∈ [(⟨.tbl, 3⟩ : UnitId), ⟨.mem, 2⟩],
    (remaps1 u none .committed).faulted u = false ∧ (remaps1 u none .committed).drained u = true ∧
    (queued (remaps1 u none .committed) u [lane 2 0 1]).drained u = false ∧ (queued (remaps1 u none .committed) u [lane 2 0 1]).faulted u = false := by
  decide +kernel
/-- `base` with a transaction. -/
def inTxn (t : TxnRec) : State := { base with txn := some t }
/-- Of kind 4, which fences partition 0. -/
def fence0 : TxnRec := { opened with kind := 4, partMask := 1, applying := true }
theorem test_hyp_TransactionsRunTheirCourse :
    (notVf (.vf 7) = false ∧ notVf .mgmt = true ∧ (inTxn opened).txn.isSome = true ∧ base.txn = none ∧ base.kindAllowed (base.get ctuU Reg.ctu.txnKind) = false ∧
      (rg base 311552 (4 * 16)).kindAllowed ((rg base 311552 (4 * 16)).get ctuU Reg.ctu.txnKind) = true) ∧
    (opened.opener ≠ .mgmt ∧ opened.opener = .pf ∧ opened.applying = false ∧ (inTxn { opened with outOfScope := some (4, 0x100) }).txnBad
        { opened with outOfScope := some (4, 0x100) } = some (3, some (4, 0x100)) ∧ (inTxn { opened with kind := 5 }).txnBad { opened with kind := 5 } = none) ∧
    ((inTxn { opened with applying := true }).txnReady { opened with applying := true } = true ∧ (inTxn fence0).txnReady fence0 = false ∧ fence0.applying = true) ∧
    (let s := base.setPart 0 (fun r => { r with fencing := true }); (s.part 0).fencing = true ∧ (s.part 0).step = none ∧ s.pstate 0 ≠ 3) ∧
    ((base.part 7).fencing = false) := by
  refine ⟨?_, ?_, ?_, ?_, ?_⟩ <;> decide +kernel
/-- `base` with both standbys synced dummies that run, and the interlock's line whole. -/
def paired (roleD roleM : Nat) : State := rg (rg (rg (rg (rg base 4352 roleM) 4108 2) 266496 roleD) 266252 2) 37144 8
theorem test_hyp_PairsJournalAndPass :
    (base.held = [] ∧ ({ base with held := [[]] } : State).held = [[]] ∧ (paired 1 1).roleOf 1 (1 - (paired 1 1).holderDie 1) = 1 ∧
      (paired 1 1).roleOf 0 (1 - (paired 1 1).holderDie 0) = 1 ∧ (paired 2 2).roleOf 0 (1 - (paired 2 2).holderDie 0) ≠ 1 ∧
      (paired 2 2).roleOf 1 (1 - (paired 2 2).holderDie 1) = 2 ∧ (paired 2 2).ustate ⟨.dlr, 1 - (paired 2 2).holderDie 0⟩ = stRunning ∧
      ((paired 2 2).stby 0).status ≠ 2 ∧ (paired 2 2).roleOf 0 (1 - (paired 2 2).holderDie 0) ≠ 0) ∧
    (∀ k ∈ [0, 1, 2], (paired 1 1).sys.failed.contains (k, (paired 1 1).holderDie k) = false ∧ (paired 1 1).canPass k = true ∧ base.canPass k = false ∧
      base.sys.failed.contains (k, base.holderDie k) = false ∧ (base.setSys (fun x => { x with failed := [(k, 0)] })).sys.failed.contains (k, base.holderDie k) = true) := by
  refine ⟨?_, ?_⟩ <;> decide +kernel
theorem test_hyp_PairsJournalAndPass_watch :
    (∀ k ∈ [0, 1, 2], bit (base.get ⟨.aon, 0⟩ Reg.aon.hbMissing) k = false ∧ bit ((base.put ⟨.aon, 0⟩ Reg.aon.hbMissing 7).get ⟨.aon, 0⟩ Reg.aon.hbMissing) k = true) ∧
    (base.flag sprU Reg.spr.ownInterlockOk = false ∧ (paired 1 1).flag sprU Reg.spr.ownInterlockOk = true ∧ (paired 1 1).holderDie 0 = 0 ∧
      (paired 1 1).holderDie 1 = 0 ∧ (paired 1 1).holderDie 2 = 0) ∧
    (∀ k ∈ [0, 1], (paired 1 1).roleOf k (1 - (paired 1 1).holderDie k) = 1 ∧ (paired 1 1).standbyCode k < 4) ∧
    (base.ustate base.mccHolder ≠ stFaulted ∧ base.fwDown = false ∧ base.flag pwrU Reg.pwr.statPred = false ∧ (rg base 256 768).fwDown = true ∧
      (rg base 256 768).ustate (rg base 256 768).mccHolder ≠ stFaulted ∧ base.pwr.hostPend = none ∧ (rg base 12 5).ustate (rg base 12 5).mccHolder = stFaulted) := by
  refine ⟨?_, ?_, ?_, ?_⟩ <;> decide +kernel
theorem test_hyp_AbsentPagesReadZero : unitOfPage 0x3FFF = none ∧ 0x3FFF < 0x4000 ∧ 0xFF8 < 0x1000 ∧ 0xFF8 % 8 = 0 ∧ UnitId.valid ⟨.uc, 1055⟩ = true ∧
    State.reset.word (UnitId.base ⟨.uc, 1055⟩) = wordReset (UnitId.base ⟨.uc, 1055⟩) := by decide +kernel
theorem test_hyp_DieLocalLinesAreSpread : 31 < 32 ∧ bit ((base.put ⟨.tbl, 0⟩ Reg.tbl.mapBandMode 0).get ⟨.tbl, 0⟩ Reg.tbl.mapBandMode) (31 % 16) = false := by decide +kernel
theorem test_hyp_HeatStopsTheModule :
    base.awake = true ∧ (base.setPwr (fun x => { x with temps := [(sensorKey (.die 1), 0, [110_000])] })).tj = 110_000 ∧
    (base.setPwr (fun x => { x with temps := [(sensorKey (.device 67), 0, [105_000])] })).hotDevice = 105_000 ∧
    (base.setPwr (fun x => { x with temps := [(sensorKey (.device 67), 0, [104_999])] })).hotDevice < 105_000 ∧ base.tj < 110_000 ∧ State.reset.awake = false := by
  decide +kernel
theorem test_hyp_TheCdatIsReported : hosted.reachable .pf = true ∧ base.reachable .pf = false ∧ Src.mgmt ≠ .pf := by decide +kernel
theorem test_hyp_ImagesAreUpdated :
    notVf (.vf 0) = false ∧ notVf .mgmt = true ∧ base.ustate base.mccHolder ≠ stFaulted ∧ base.mode = 2 ∧ (moded 0 0).mode = 0 ∧ (moded 4 0).mode = 4 ∧
    base.sys.update = none ∧ base.get bootU Reg.boot.updateLen = 0 ∧ (base.setSys (fun x => { x with update := some (0, {}) })).sys.update.isSome = true ∧
    (base.setSys (fun x => { x with update := some (0, {}) })).sys.update = some (0, {}) := by
  decide +kernel

/-! ### SHA-512, word by word -/

/-- A word, evaluated before it is used. -/
def force {α : Type} (x : W64) (k : W64 → α) : α :=
  match x.toNat with
  | 0 => k 0
  | n + 1 => k (BitVec.ofNat 64 (n + 1))
theorem force_eq {α : Type} (x : W64) (k : W64 → α) : force x k = k x := by
  unfold force
  have h : BitVec.ofNat 64 x.toNat = x := by simp
  split
  · rename_i e; rw [e] at h; rw [← h]; rfl
  · rename_i n e; rw [e] at h; rw [h]
/-- The same for a list of words. -/
def forceAll {α : Type} : List W64 → (List W64 → α) → α
  | [], k => k []
  | x :: r, k => force x (fun y => forceAll r (fun l => k (y :: l)))
theorem forceAll_eq {α : Type} : ∀ (l : List W64) (k : List W64 → α), forceAll l k = k l
  | [], _ => rfl
  | x :: r, k => by rw [forceAll, force_eq, forceAll_eq r]
def roundsF : List (W64 × W64) → List W64 → List W64
  | [], v => v
  | kw :: r, v => forceAll (shaRound v kw) (roundsF r)
theorem roundsF_eq : ∀ (l : List (W64 × W64)) (v : List W64), roundsF l v = l.foldl shaRound v
  | [], _ => rfl
  | kw :: r, v => by rw [roundsF, forceAll_eq, roundsF_eq r, List.foldl_cons]
def extendF : Nat → List W64 → List W64
  | 0, w => w
  | n + 1, w =>
    force (shaMix 19 61 6 (w.getD 1 0) + w.getD 6 0 + shaMix 1 8 7 (w.getD 14 0) + w.getD 15 0) (fun x => extendF n (x :: w))
theorem extendF_eq : ∀ (n : Nat) (w : List W64), extendF n w = shaExtend n w
  | 0, _ => rfl
  | n + 1, w => by rw [extendF, force_eq, extendF_eq n, shaExtend]
def blockF (h : List W64) (b : List Byte) : List W64 :=
  forceAll (shaWords b 16).reverse (fun w => List.zipWith (· + ·) h (roundsF (shaK.zip (extendF 64 w).reverse) h))
theorem blockF_eq (h : List W64) (b : List Byte) : blockF h b = shaBlock h b := by
  rw [blockF, forceAll_eq, roundsF_eq, extendF_eq, shaBlock]
def blocksF : Nat → List W64 → List Byte → List W64
  | 0, h, _ => h
  | n + 1, h, m => forceAll (blockF h m) (fun h' => blocksF n h' (m.drop 128))
theorem blocksF_eq : ∀ (n : Nat) (h : List W64) (m : List Byte), blocksF n h m = shaBlocks n h m
  | 0, _, _ => rfl
  | n + 1, h, m => by rw [blocksF, forceAll_eq, blocksF_eq n, blockF_eq, shaBlocks]
def sha512F (m : List Byte) : List Byte :=
  let pad := (239 - m.length % 128) % 128
  let p := m ++ 0x80 :: List.replicate pad 0 ++ (leBytes 16 (8 * m.length)).reverse
  (blocksF (p.length / 128) shaInit p).flatMap (fun w => (leBytes 8 w.toNat).reverse)
theorem sha512F_eq : sha512 = sha512F := by
  funext m
  simp only [sha512, sha512F, blocksF_eq]
/-- The example of FIPS 180-4: the digest of "abc". -/
theorem test_sha512_abc : leNat (sha512 [0x61, 0x62, 0x63]).reverse =
    0xDDAF35A193617ABACC417349AE20413112E6FA4E89A97EA20A9EEEE64B55D39A2192992A274FC1A836BA3C23A3FEEBBD454D4423643CE80E2A9AC94FA54CA49F := by
  rw [sha512F_eq]
  decide +kernel

/-! ### A Crever image that holds, if its signature does -/

/-- A directory entry (R547): type, SVN, offset, length, digest. -/
def imgEntry (type len : Nat) (digest : Nat) : List Byte :=
  [BitVec.ofNat 8 type, 0] ++ leBytes 2 65535 ++ leBytes 4 4096 ++ leBytes 4 len ++ (leBytes 64 digest).reverse ++ List.replicate 20 0
/-- The digest of no bytes, and that of a configuration section without records (FIPS 180-4). -/
def digest0 : Nat := 0xcf83e1357eefb8bdf1542850d66d8007d620e4050b5715dc83f4a921d36ce9ce47d0d13c5d85f2b0ff8318d2877eec2f63b931bd47417a81a538327af927da3e
def digest4 : Nat := 0xf72b6793a184b1f83382681542ba97228346009e9257ec001828afee2f2e4c648d08a730da4e8632d748d5db0a9b19aa1afb116183a43d003f7197bdaf608c8e
/-- A configuration section without records (R548). -/
def cfgBytes : List Byte := leBytes 4 0x4746_4358 ++ leBytes 2 1 ++ List.replicate 58 0
/-- The digest of the image's signed bytes. -/
def imageDigest : Nat := 0x6ca32d9a840efc864aa7fe2117a1e2a395b20ee530ee10ba0b242b5af21985df6ca63161d5e60a25bd6c7446ec575ebbc63d1dd06f4dde2048246ff8fae067fb
/-- The image's signature: r and s are both the digest of its signed bytes. -/
def imageSig : List Byte :=
  beBytes 66 imageDigest ++ beBytes 66 imageDigest
/-- An image of four components, three of them empty (R545 to R548). -/
def image : List Byte :=
  leBytes 4 0x5652_4358 ++ leBytes 2 1 ++ leBytes 2 0 ++ leBytes 4 4160 ++ [4, 0] ++ List.replicate 50 0 ++
    imgEntry 1 0 digest0 ++ imgEntry 2 0 digest0 ++ imgEntry 3 0 digest0 ++ imgEntry 4 64 digest4 ++ List.replicate 1088 0 ++ imageSig ++
    List.replicate 2428 0 ++ cfgBytes
/-- A public key under which `imageSig` is the image's signature: with r = s = e, the digest, u1 and u2 are 1, and R − G is the key (FIPS 186-5). -/
def imageKey : List Byte :=
  beBytes 66 0xc97dbe9e8f26a610484a2ab648a2005bf87cf4c8227acce48416944257b8c595eb99f5a673dc6385b4bf092242bbe2660625991e02ccd12c9ef33abea184233395 ++
  beBytes 66 0xe965b427914130293e285e417cfe1b6c70f492d55659c6272b162f672a3d882426269d25fc9862e4bec13a10e675b0db0260e3dde49f3a3b770316a1dd9cfce743
theorem image_signed : ecdsaVerify imageKey (signedBytes image) imageSig = true := by
  unfold ecdsaVerify
  rw [sha512F_eq]
  decide +kernel
theorem image_comps : compsOk image ((List.range (Machine.at' image 12 1)).map (imageComp image)) = true := by
  unfold compsOk
  rw [sha512F_eq]
  decide +kernel
theorem image_header (hk : bit (Config.fuseValue (2 ^ 40 + 2049)) 0 = false) (hs : signingKey 0 = imageKey) :
    headerOk image = true := by
  have k : Machine.at' image 13 1 = 0 := by decide +kernel
  have a : (decide (4096 ≤ image.length) && Machine.at' image 0 4 == 0x5652_4358 && Machine.at' image 4 2 == 1 && decide (Machine.at' image 6 2 < 2) &&
    decide (Machine.at' image 8 4 ≤ image.length) && decide (4 ≤ Machine.at' image 12 1 ∧ Machine.at' image 12 1 ≤ 15) && decide (0 < 2) &&
    ((image.drop (0x40 + 96 * Machine.at' image 12 1)).take (96 * (15 - Machine.at' image 12 1))).all (fun x => x == 0)) = true := by decide +kernel
  have g : (image.drop 0x600).take 132 = imageSig := by decide +kernel
  rw [headerOk, k, a, hk, hs, g, image_signed]
  rfl
theorem image_held (hk : bit (Config.fuseValue (2 ^ 40 + 2049)) 0 = false) (hs : signingKey 0 = imageKey)
    (s : State) (h : s.sys.svns = [0, 0, 0]) : ∃ f, s.checkImage image = .ok f := by
  have m (i : Nat) : ¬ 65535 < s.minSvn i := by
    rw [State.minSvn, h]
    have := Nat.mod_lt (Config.fuseValue (2 ^ 40 + 64 + 16 * i)) (show 0 < 2 ^ 16 by decide)
    have z : [0, 0, 0].getD i 0 = 0 := by
      match i with
      | 0 | 1 | 2 | _ + 3 => rfl
    rw [z]
    omega
  have c1 : ((((List.range (Machine.at' image 12 1)).map (imageComp image)).find? (fun x => x.type == 1)).getD ⟨0, 0, 0, 0, []⟩).svn = 65535 := by
    decide +kernel
  have c2 : ((((List.range (Machine.at' image 12 1)).map (imageComp image)).find? (fun x => x.type == 2)).getD ⟨0, 0, 0, 0, []⟩).svn = 65535 := by
    decide +kernel
  have c3 : ((((List.range (Machine.at' image 12 1)).map (imageComp image)).find? (fun x => x.type == 3)).getD ⟨0, 0, 0, 0, []⟩).svn = 65535 := by
    decide +kernel
  have c4 : configRecords ((image.drop ((((List.range (Machine.at' image 12 1)).map (imageComp image)).find? (fun x => x.type == 4)).getD ⟨0, 0, 0, 0, []⟩).off).take
      ((((List.range (Machine.at' image 12 1)).map (imageComp image)).find? (fun x => x.type == 4)).getD ⟨0, 0, 0, 0, []⟩).len) = some [] := by
    decide +kernel
  simp only [State.checkImage, image_header hk hs, image_comps, c4, c1, c2, c3]
  have r : (List.range 3).any (fun i => decide ([65535, 65535, 65535].getD i 0 < s.minSvn i)) = false := by
    have e : List.range 3 = [0, 1, 2] := rfl
    simp [e, m]
  simp only [Bool.not_true, Bool.false_eq_true, if_false, r]
  exact ⟨_, rfl⟩
/-- The image is taken from either way, where no fuse revokes the key and fuse 0 holds `imageKey`. -/
theorem test_hyp_ImagesAreUpdated_image (hk : bit (Config.fuseValue (2 ^ 40 + 2049)) 0 = false) (hs : signingKey 0 = imageKey) :
    (∃ f, ((hosted.count mgtU 2 1).count mgtU 3 1).checkImage image = .ok f) ∧ hosted.sys.update = none ∧ hosted.endpoint = true := by
  refine ⟨image_held hk hs _ ?_, ?_, ?_⟩ <;> decide +kernel
/-- `base` with the image at offset 0 of device memory, and its length in UPDATE_LEN. -/
def imaged : State := (rg base 16664 4160).store 0 image
/-- With no memory unit served, a read of device memory meets and counts nothing. -/
theorem readLine_unserved (s : State) (k line a n : Nat) (h0 : line * 256 / 2 ^ 48 = 0) (h1 : s.merge = none) (h2 : s.anyServed .mem = false)
    (h3 : s.talon.vacant = []) : s.readLine k line a n = (s, false) := by
  have b : s.breakRun line = s := by rw [State.breakRun, h1]
  have c : s.holder line = none := by
    unfold State.holder
    rw [h0, h2]
    rfl
  have d : s.lost line = false := by
    unfold State.lost
    rw [h0, h3]
    rfl
  rw [State.readLine, State.meet, b, c]
  show (s.tallyRead k line a n, false) = _
  rw [State.tallyRead, d, c]
  rfl
theorem readAll_unserved (s : State) (k a n : Nat) (ha : a + n < 2 ^ 48) (h1 : s.merge = none) (h2 : s.anyServed .mem = false)
    (h3 : s.talon.vacant = []) : (s.readAll k [(a, n)]).1 = s := by
  have f : ∀ (ls : List Nat) (w : Nat → Nat × Nat), (∀ l ∈ ls, l * 256 / 2 ^ 48 = 0) →
      ls.foldl (fun (r : State × Bool) l => let m := r.1.readLine k l (w l).1 (w l).2; (m.1, r.2 || m.2)) (s, false) = (s, false) := by
    intro ls w hl
    induction ls with
    | nil => rfl
    | cons l r ih =>
      rw [List.foldl_cons]
      simp only [readLine_unserved s k l _ _ (hl l (by simp)) h1 h2 h3, Bool.or_false]
      exact ih (fun x hx => hl x (List.mem_cons_of_mem _ hx))
  unfold State.readAll
  simp only [List.foldl_cons, List.foldl_nil]
  split
  · rfl
  · rw [f _ (fun l => within l (bits a 0 50) n)]
    intro l hl
    have e : bits a 0 50 = a := by
      simp only [bits]
      omega
    rw [e, linesOf] at hl
    split at hl
    · simp at hl
    · simp only [List.mem_map, List.mem_range] at hl
      obtain ⟨i, hi, rfl⟩ := hl
      omega
theorem store_same (s : State) (d : List Byte) : (s.store 0 d).bytes 0 d.length = d := getRun_same d _ 0
theorem image_read : (imaged.argBytes (imaged.get bootU Reg.boot.updateAddr) (imaged.get bootU Reg.boot.updateLen)).1 = image := by
  have a : dgaKey (imaged.get bootU Reg.boot.updateAddr) = 0 ∧ imaged.get bootU Reg.boot.updateLen = 4160 ∧ image.length = 4160 := by decide +kernel
  rw [show ∀ (s : State) (x n : Nat), (s.argBytes x n).1 = (s.readAll clsSys [(dgaKey x, n)]).1.bytes (dgaKey x) n from fun _ _ _ => rfl,
    a.1, a.2.1, readAll_unserved imaged clsSys 0 4160 (by decide) (by decide +kernel) (by decide +kernel) (by decide +kernel), ← a.2.2]
  rw [imaged]
  exact store_same _ _
theorem test_hyp_ImagesAreUpdated_memory (hk : bit (Config.fuseValue (2 ^ 40 + 2049)) 0 = false) (hs : signingKey 0 = imageKey) :
    (∃ f, imaged.checkImage (imaged.argBytes (imaged.get bootU Reg.boot.updateAddr) (imaged.get bootU Reg.boot.updateLen)).1 = .ok f) ∧
    imaged.ustate imaged.mccHolder ≠ stFaulted ∧ imaged.mode = 2 ∧ imaged.sys.update = none ∧ dgaFormed (imaged.get bootU Reg.boot.updateAddr) = true ∧
    dgaNode (imaged.get bootU Reg.boot.updateAddr) = imaged.node ∧ dgaSpace (imaged.get bootU Reg.boot.updateAddr) = 0 ∧
    imaged.inRegion 0 (dgaOff (imaged.get bootU Reg.boot.updateAddr)) (imaged.get bootU Reg.boot.updateLen) = true := by
  refine ⟨?_, ?_⟩
  · rw [image_read]
    exact image_held hk hs _ (by decide +kernel)
  · decide +kernel
/-- Without the image, its bytes read as zeros: no header. -/
theorem test_hyp_ImagesAreUpdated_error : (match (rg base 16664 4160).checkImage ((rg base 16664 4160).argBytes 0 64).1 with | .error r => r == 3 | .ok _ => false) = true := by
  decide +kernel

/-! ### A debug token that holds, if a fuse authorises its key and its signature does -/

/-- The base point as a public key, which private key 1 has. -/
def tokenKey : List Byte :=
  beBytes 66 0x00C6858E06B70404E9CD9E3ECB662395B4429C648139053FB521F828AF606B4D3DBAA14B5E77EFE75928FE1DC127A2FFA8DE3348B3C1856A429BF97E7E31C2E5BD66 ++
  beBytes 66 0x011839296A789A3BC0045C8A5FB42C7D1BD998F54449579B446817AFBD17273E662C97EE72995EF42640C550B9013FAD0761353C7086A272C24088BE94769FD16650
/-- What the token's signature covers: challenge 0, scope 0, fingerprint 0 (R505). -/
def tokenBody : List Byte := leBytes 4 0x4742_4458 ++ leBytes 2 1 ++ List.replicate 58 0 ++ tokenKey ++ List.replicate 4 0
/-- Its signature under private key 1 with per-message number 1. -/
def tokenSig : List Byte :=
  beBytes 66 0xc6858e06b70404e9cd9e3ecb662395b4429c648139053fb521f828af606b4d3dbaa14b5e77efe75928fe1dc127a2ffa8de3348b3c1856a429bf97e7e31c2e5bd66 ++
  beBytes 66 0xc6ee700d19e4543109a31af4d90d267c059d526004edd9465f0a2c4d193e23c2ea2256693d61fe71ab067a73650bf048af5aeb00f732599017193960c12f2804fa
/-- A challenge has been drawn, and the token lies at offset 0. -/
def tokened : State := let s := (sealedAs 0).store 0 (tokenBody ++ tokenSig); { s with secMod := { s.secMod with challenge := true } }
theorem test_hyp_DebugUnlocksOrRefuses_token (hf : fingerprint = 0) (h0 : bit (Config.fuseValue (2 ^ 40 + 2048)) 0 = true)
    (hk : leNat (sha512 tokenKey) = Config.fuseValue (2 ^ 40 + 4096 + 512 * 0) % 2 ^ 512) (hs : ecdsaVerify tokenKey tokenBody tokenSig = true) :
    tokened.tokenOk (tokenBody ++ tokenSig) = true ∧ (sealedAs 0).tokenOk (List.replicate 332 0) = false := by
  have a : let t := tokenBody ++ tokenSig; let f (o n : Nat) : List Byte := (t.drop o).take n;
      (leNat (f 0 4) == 0x4742_4458 && leNat (f 4 2) == 1 && leNat (f 6 2) == 0) = true ∧ leNat (f 8 8) = 0 ∧ tokened.secMod.challenge = true ∧
      leNat (f 0x10 32) = tokened.get secU Reg.sec.challenge ∧
      (decide (leNat (f 0x30 4) < 8) && leNat (f 0x34 12) == 0 && leNat (f 0xC4 4) == 0) = true ∧
      f 0x40 132 = tokenKey ∧ f 0 0xC8 = tokenBody ∧ f 0xC8 132 = tokenSig := by decide +kernel
  obtain ⟨a1, a2, a3, a4, a5, a6, a7, a8⟩ := a
  simp only [Bool.and_eq_true] at a1 a5
  have b : (List.range 4).any (fun i =>
      bit (Config.fuseValue (2 ^ 40 + 2048)) i && leNat (sha512 tokenKey) == Config.fuseValue (2 ^ 40 + 4096 + 512 * i) % 2 ^ 512) = true :=
    List.any_eq_true.2 ⟨0, by decide, by rw [h0, ← hk]; simp⟩
  refine ⟨?_, ?_⟩
  · unfold State.tokenOk
    simp only [a1, a2, a3, a4, a5, a6, a7, a8, hf, b, hs, beq_self_eq_true, Bool.and_self]
  · unfold State.tokenOk
    have e : (leNat (((List.replicate 332 (0 : Byte)).drop 0).take 4) == 0x4742_4458) = false := by decide +kernel
    simp only [e, Bool.false_and]
/-- What the command takes is the token. -/
theorem test_hyp_DebugUnlocksOrRefuses_read :
    (tokened.mboxTake .pf 9 0 0 0).map (fun t => (({ t with secMod := { t.secMod with challenge := false } } : State).argBytes 0 332).1) =
      some (tokenBody ++ tokenSig) ∧ (tokened.mboxTake .pf 9 0 0 0).map (fun t => t.secMod.challenge) = some true := by
  refine ⟨?_, ?_⟩ <;> decide +kernel

/-! ## Worked examples and tables of the spec, and the published vectors of the standards it names -/

/-- The check value of CRC-32C over "123456789" (RFC 3720's polynomial). -/
theorem test_crc32c : crc32c [0x31, 0x32, 0x33, 0x34, 0x35, 0x36, 0x37, 0x38, 0x39] = 0xE3069283 := by decide +kernel
/-- FIPS 197, appendix C.3. -/
theorem test_aes256 : aes256 (List.range 32) ((List.range 16).map (fun i => 17 * i)) =
    [0x8e, 0xa2, 0xb7, 0xca, 0x51, 0x67, 0x45, 0xbf, 0xea, 0xfc, 0x49, 0x90, 0x4b, 0x49, 0x60, 0x89] := by decide +kernel
/-- The table of R52. -/
theorem test_narrow_encodings :
    ((Fmt.e4m3.decode 0x01).eqv (.fin false 1 (-9)) && (Fmt.e4m3.decode 0x08).eqv (.fin false 1 (-6)) && (Fmt.e4m3.decode 0x38).eqv .one &&
      (Fmt.e4m3.decode 0x7E).eqv (.fin false 448 0) && (Fmt.e4m3.decode 0x7F).isNan && (Fmt.e4m3.decode 0xFF).isNan &&
      (Fmt.e5m2.decode 0x01).eqv (.fin false 1 (-16)) && (Fmt.e5m2.decode 0x3C).eqv .one && (Fmt.e5m2.decode 0x7B).eqv (.fin false 57344 0) &&
      (Fmt.e5m2.decode 0x7C == .inf false) && (Fmt.e5m2.decode 0x7D).isNan && (Fmt.e3m2.decode 0x01).eqv (.fin false 1 (-4)) &&
      (Fmt.e3m2.decode 0x0C).eqv .one && (Fmt.e3m2.decode 0x1F).eqv (.fin false 28 0) && (Fmt.e2m3.decode 0x01).eqv (.fin false 1 (-3)) &&
      (Fmt.e2m3.decode 0x08).eqv .one && (Fmt.e2m3.decode 0x1F).eqv (.fin false 15 (-1))) = true ∧
    (((List.range 8).map Fmt.e2m1.decode).zip [0, 1, 2, 3, 4, 6, 8, 12]).all (fun x => x.1.eqv (.fin false x.2 (-1))) = true := by decide +kernel
/-- The largest finite values of the wide formats (R51), and the canonical NaNs (R53). -/
theorem test_wide_encodings :
    ((Fmt.fp16.decode 0x7BFF).eqv (.fin false 65504 0) && (Fmt.fp16.decode 0x0001).eqv (.fin false 1 (-24)) && (Fmt.bf16.decode 0x0001).eqv (.fin false 1 (-133)) &&
      (Fmt.fp32.decode 0x0000_0001).eqv (.fin false 1 (-149))) = true ∧
    (Fmt.fp32.convert false none (.nan false)).code = 0x7FC0_0000 ∧ (Fmt.bf16.convert false none (.nan false)).code = 0x7FC0 ∧
    (Fmt.fp16.convert false none (.nan false)).code = 0x7E00 ∧ (Fmt.e4m3.convert false none (.nan false)).code = 0x7F ∧
    (Fmt.e5m2.convert false none (.nan false)).code = 0x7E := by decide +kernel
/-- The CB4 example of chapter 3: the byte 0xA3 holds the indices 3 and 10, and the weights are 0.125 and −0.09375. -/
theorem test_cb4_decode :
    bits 0xA3 0 4 = 3 ∧ bits 0xA3 4 4 = 10 ∧ packCodes 4 [3, 10] = [0xA3] ∧
    ((scaled 0x7C (Fmt.e4m3.decode 0x38)).eqv (.fin false 1 (-3)) && (scaled 0x7A (Fmt.e4m3.decode 0xC4)).eqv (.fin true 3 (-5))) = true := by decide +kernel
/-- The example of R245: offset 0x0512_3400 in a die-local and in a module-wide band. -/
theorem test_table_map :
    (base.put ⟨.tbl, 0⟩ Reg.tbl.mapBandMode 0).bankOf 0x0512_3400 = (52, 649) ∧
    (base.put ⟨.tbl, 0⟩ Reg.tbl.mapBandMode 0x20).bankOf 0x0512_3400 = (282, 648) ∧ dgaOf 5 1 0x0512_3400 = 0x0015_0000_0512_3400 := by decide +kernel
/-- The example of chapter 11: all 16 groups, module-wide, offset 0x1_2345_6700. -/
theorem test_weight_line :
    ((base.put ⟨.mem, 0⟩ (Reg.mem.regionGroups.at 0) 0xFFFF).put ⟨.mem, 0⟩ (Reg.mem.regionMode.at 0) 0).deviceOf 0 0x1_2345_6700 = (39, 298261) ∧
    dgaOf 5 0 0x1_2345_6700 = 0x0014_0001_2345_6700 := by decide +kernel
/-- The examples of chapter 15: lane 5 failed, then lane 11 too. -/
theorem test_lane_maps :
    healthyLanes (2 ^ 5) = [0, 1, 2, 3, 4, 6, 7, 8, 9, 10, 11, 12, 13, 14, 15, 16] ∧ widthCode 16 = 4 ∧ activeMask (2 ^ 5) = 2 ^ 17 - 1 - 2 ^ 5 ∧
    widthCode 15 = 3 ∧ activeMask (2 ^ 5 + 2 ^ 11) = 2 ^ 14 - 1 - 2 ^ 5 - 2 ^ 11 := by decide +kernel
/-- Node 5's entry for node 38 in the example of chapter 16, and the wiring that its path takes. -/
theorem test_route_entry :
    entryValid 0xA815_29D2 = true ∧ entryLocal 0xA815_29D2 = false ∧ (List.range 4).map (entryCand 0xA815_29D2) = [18, 19, 20, 0] ∧
    (List.range 4).map (entryRem 0xA815_29D2) = [2, 2, 2, 2] ∧ entryPri 0xA815_29D2 = 3 ∧ eligible 0xA815_29D2 0 = [0, 1, 2, 3] ∧
    eligible 0xA815_29D2 2 = [] ∧ wiredPeer 5 18 = (37, 15) ∧ (wiredPeer 37 0).1 = 38 ∧ (wiredPeer 5 0).1 = 6 ∧ (wiredPeer 38 15).1 = 6 ∧
    (wiredPeer 6 14).1 = 5 := by decide +kernel
/-- The presets of the example of chapter 19: r(1,310) and r(1,320), and the phase at either frequency. -/
theorem test_frequency_scale :
    rScale 1310 = 118_900 ∧ rScale 1320 = 120_800 ∧ 950_000 * rScale 1310 / 100_000 + 420_000 = 1_549_550 ∧
    950_000 * rScale 1320 / 100_000 + 420_000 = 1_567_600 := by decide +kernel
/-- The mixed step of chapter 13: a decoding sequence with three drafts is four rows; then requests A and B, and B with STEP_TOKENS 1,024. -/
theorem test_step_formation :
    let dec := { slt 1 .decode with drafts := 3, pos := 100 }
    let a := { slt 2 .admitted with plen := 2100, pos := 2048 }
    let b := { slt 3 .admitted with plen := 20000, pos := 0 }
    let f : Forming := ⟨List.replicate 128 ⟨0, .decode, 100, 1⟩, 248, [], false⟩
    (formDecode 256 8192 ⟨[], 0, [], false⟩ dec).rows = 4 ∧ (formPrefill 256 8192 8192 f a).rows = 300 ∧
    (formPrefill 256 8192 8192 f a).entries.getLast? = some ⟨2, .last, 2048, 52⟩ ∧
    (formPrefill 256 8192 8192 (formPrefill 256 8192 8192 f a) b).rows = 8172 ∧
    (formPrefill 256 8192 8192 (formPrefill 256 8192 8192 f a) b).entries.getLast? = some ⟨3, .chunk, 0, 7872⟩ ∧
    (formPrefill 256 1024 8192 (formPrefill 256 1024 8192 f a) b).rows = 1004 := by decide +kernel
/-- The bundle of the example of chapter 18: chunks, whole-line ranges and three merged ranges. -/
theorem test_manifest_ranges :
    let os : List ManObj := [⟨0, 0, 0, 7226000000, 1, true⟩, ⟨1, 0, 0x1_AEC0_0000, 2162688, 6893, true⟩, ⟨1, 0, 0x1_AEE1_0000, 2162688, 6896, true⟩,
      ⟨2, 1, 0x0400_0000, 524288, 6899, true⟩]
    os.map ManObj.chunks = [6892, 3, 3, 1] ∧ (os.map ManObj.range).head? = some (0, 0x1_AEB4_0300) ∧ (mergeRanges (os.map ManObj.range)).length = 3 := by
  decide +kernel
/-- The words of matrix tile 41 (R12, the example after R48): its page, and what PAGE_ID reads. -/
theorem test_page_of_tile : UnitId.base ⟨.mt, 41⟩ = 0x12_9000 ∧ State.reset.get ⟨.mt, 41⟩ Reg.common.pageId = 0x0020_0291 := by decide +kernel
/-- The example after R48, steps 3 and 5: a tile drains, and is quiesced once its commands have finished. -/
def tile41 (q : List Lane) : State :=
  match exec (.ctrlEnableClear ⟨.mt, 41⟩ .pf) (queued (rg base 0x12_900C 2) ⟨.mt, 41⟩ q) with
  | .next t => t
  | _ => base
theorem test_tile_drains :
    (tile41 [lane 0 0 1]).ustate ⟨.mt, 41⟩ = stDraining ∧
    (match exec (.unitDrainComplete ⟨.mt, 41⟩) (tile41 []) with | .next t => t.ustate ⟨.mt, 41⟩ | _ => 9) = stQuiesced ∧
    (match exec (.unitDrainComplete ⟨.mt, 41⟩) (tile41 [lane 0 0 1]) with | .next t => t.ustate ⟨.mt, 41⟩ | _ => 9) = stDraining := by
  decide +kernel

/-! ### Instructions of the utility cores -/

/-- A kernel with one instruction at address 0 of its local memory. -/
def coded (w : Nat) (h : Hart) : Kernel := ⟨h, false, Sparse.setRun memDefault [] 0 (leBytes 4 w), 1⟩
/-- The lane of the utility core under test. -/
def coreLane : Lane := ucLane (dgaOf 0 1 0)
/-- The utility core under test, with a kernel. -/
def core55 : UnitId := ⟨.uc, 1055⟩
/-- The core's state with a kernel. -/
def withKernel (k : Kernel) : State := (ucState coreLane).setUnit core55 (fun x => { x with kernel := some k })
/-- The registers after one instruction of a kernel. -/
def after1 (w : Nat) (h : Hart) : Option Hart := (((withKernel (coded w h)).coreStep core55).unit core55).kernel.map Kernel.hart
/-- The status of the lane after one instruction of a kernel, and the trap's cause. -/
def ended (w : Nat) (h : Hart) : Option Nat × Nat :=
  let t := (withKernel (coded w h)).coreStep core55
  (((t.unit core55).queue.head?.bind Lane.status), t.get core55 Reg.uc.lastTrapCause)
/-- Registers a0 and a1 set. -/
def args (a0 a1 : Nat) : Hart := ((hart 0).setX 10 a0).setX 11 a1
/-- Registers fa0 and fa1 set to FP32 codes. -/
def fargs (a b : Nat) : Hart := ((hart 0).setF 32 10 a).setF 32 11 b
/-- A hart whose vector unit has SEW = 32, LMUL = 1, and three elements in v8 and v9. -/
def vargs (a b : List Nat) : Hart :=
  let h : Hart := { hart 0 with vl := 3, vtype := ⟨false, false, false, 2, 0⟩ }
  (h.putElts 8 32 1 (fun i => a.getD i 0)).putElts 9 32 1 (fun i => b.getD i 0)
/-- The first three elements of v10 after an instruction. -/
def v10 (w : Nat) (h : Hart) : Option (List Nat) := (after1 w h).map (fun t => (List.range 3).map (t.elt 10 32))

/-! Words of instructions, written out field by field from the formats of the RISC-V documents that R220 names. -/
theorem test_core_words :
    decode32 0b000000000001_01010_000_01010_0010011 = some (.alu .add false 10 10 (.imm 1)) ∧
    decode32 0b0100000_01011_01010_000_01010_0110011 = some (.alu .sub false 10 10 (.reg 11)) ∧
    decode32 0b1_111111_01011_01010_000_1110_1_1100011 = some (.branch .eq 10 11 (-4)) ∧
    decode32 0b0_0000000100_0_00000000_00001_1101111 = some (.jal 1 8) ∧
    decode32 0b000000001000_00010_011_01010_0000011 = some (.load 8 true 10 2 8) ∧
    decode32 0b0000000_00001_00010_011_01000_0100011 = some (.store 8 2 1 8) ∧
    decode32 0b00000_00_01011_01100_010_01010_0101111 = some (.amo 1 4 10 12 11) ∧
    decode32 0b110000000001_00000_010_01010_1110011 = some (.csr .rs 10 0xC01 (.reg 0)) ∧
    decode32 0b0000000_01011_01010_111_01010_1010011 = some (.fop .add .s 7 10 10 11) ∧
    decode32 0b01100_01_01011_01010_111_01010_1000011 = some (.fma false false .d 7 10 10 11 12) := by decide +kernel
theorem test_core_vector_words :
    decode32 0b0_00011010000_01010_111_00101_1010111 = some (.vset 5 (.reg 10) (.imm 0xD0)) ∧
    decode32 0b000_0_00_1_00000_01011_110_01000_0000111 = some (.vload .unit 4 1 true 8 11) ∧
    decode32 0b000000_1_01000_01001_000_01010_1010111 = some (.vec (.bin .add) true 10 8 (.v 9)) ∧
    decode32 0b101100_1_10000_01010_101_01000_1010111 = some (.vec (.fmac false false false) true 8 16 (.f 10)) ∧
    decode32 0b010010_1_01000_01101_001_01010_1010111 = some (.vec (.cvt .bf16 .widen) true 10 8 (.v 13)) ∧
    decode32 0b101_0_00_1_00000_01011_110_01000_0000111 = none := by decide +kernel
theorem test_core_compressed_words :
    decode16 0b010_0_01010_00001_01 = some (.alu .add false 10 0 (.imm 1)) ∧ decode16 0b100_0_00001_00000_10 = some (.jalr 0 1 0) ∧
    decode16 0b000_1_00010_10000_01 = some (.alu .add false 2 2 (.imm (-16))) ∧ decode16 0b111_001000_00001_10 = some (.store 8 2 1 8) ∧
    decode16 0 = none := by decide +kernel
/-- 1 + 1 in a0; x0 discards a write (the integer register rules of RV64I). -/
theorem test_core_addi : (after1 0x00150513 (args 1 0)).map (fun h => (h.getX 10, h.pc.toNat)) = some (2, 4) := by decide +kernel
theorem test_core_x0 : (after1 0x00150013 (args 1 0)).map (fun h => h.getX 0) = some 0 := by decide +kernel
/-- 0 ÷ 0 in FP32 is the canonical NaN of R222, an invalid operation. -/
theorem test_core_nan : (after1 0x18B57553 (fargs 0 0)).map (fun h => (h.operand .s 10, h.fflags.toNat)) = some (0x7FC0_0000, 16) := by decide +kernel
/-- Half of the least normal number is kept as a subnormal, exactly (R222). -/
theorem test_core_subnormal : (after1 0x10B57553 (fargs 0x0080_0000 0x3F00_0000)).map (fun h => (h.operand .s 10, h.fflags.toNat)) = some (0x0040_0000, 0) := by
  decide +kernel
/-- vfdiv.vv and a segment load of five fields are illegal instructions (R221). -/
theorem test_core_excluded : ∀ w ∈ [0b100000_1_01000_01001_001_01010_1010111, 0b100_0_00_1_00000_01011_110_01000_0000111],
    (withKernel (coded w (hart 0))).coreFetch coreLane (coded w (hart 0)) = .illegal 4 := by decide +kernel
/-- A misaligned load ends KERNEL_TRAP, one from the runtime's part of local memory ACCESS_FAULT (R223, R238). -/
theorem test_core_accesses : ended 0x0005B503 (args 0 4) = (some 0xC1, 4) ∧ ended 0x0005B503 (args 0 0xF000) = (some 0xC2, 5) := by decide +kernel
/-- ECALL 0 exits with a0: 0x85 is reported unchanged; an unknown service traps (R230, R231). -/
theorem test_core_exit : (ended 0x73 (args 0x85 0)).1 = some 0x85 ∧ ended 0x73 ((args 0 0).setX 17 7) = (some 0xC1, 8) := by decide +kernel
/-- vadd.vv wraps; vsub.vv takes vs1 from vs2; vredsum.vs adds the elements of vs2 to element 0 of vs1. -/
theorem test_core_vector : v10 0b000000_1_01000_01001_000_01010_1010111 (vargs [1, 2, 3] [10, 20, 0xFFFF_FFFF]) = some [11, 22, 2] ∧
    v10 0b000010_1_01000_01001_000_01010_1010111 (vargs [1, 2, 3] [10, 20, 0xFFFF_FFFF]) = some [0xFFFF_FFF7, 0xFFFF_FFEE, 4] ∧
    (v10 0b000000_1_01000_01001_010_01010_1010111 (vargs [1, 2, 3] [10, 20, 0xFFFF_FFFF])).map (fun l => l.head?) = some (some 16) := by decide +kernel
/-- The core's state with the Table's bank 0 in the Talon's map. -/
def withBank (k : Kernel) : State := { withKernel k with talon := { base.talon with map := base.talon.map ++ [(blkCode .tbl * 4096, 0)] } }
theorem test_hyp_StepRunsTheFrontCommand_cores :
    (withKernel (coded 0x00150513 (args 1 0))).pending = [] ∧ (withKernel (coded 0x00150513 (args 1 0))).runningCores = [core55] := by decide +kernel
theorem test_hyp_CoresExecuteTheirKernels :
    (let k := coded 0x00150513 (args 1 0); let s := withKernel k; (s.unit core55).queue = [coreLane] ∧ coreLane.status = none ∧
      (s.unit core55).kernel = some k ∧ s.ustate core55 = stRunning ∧ s.coreFetch coreLane k = .instr (.alu .add false 10 10 (.imm 1)) 4 ∧
      s.coreHeld 0 4 = false) ∧
    (let k : Kernel := { coded 0 (args 1 0) with hart := hart 0xF000 }; (withKernel k).coreFetch coreLane k = .fault 0xF000) ∧
    (let k := coded 0 (args 1 0); (withKernel k).coreFetch coreLane k = .illegal 2) ∧
    (let k : Kernel := { coded 0 (args 1 0) with hart := hart 0x2000_0040 }; let s := at' (withBank k) ⟨.tbl, 0⟩ stDraining
      let t : State := { s with mem := s.mem ++ [(key 1 64, 1)] }
      t.coreFetch coreLane k = .instr (.alu .add false 0 0 (.imm 0)) 2 ∧ t.coreHeld 0x2000_0040 2 = true) := by
  refine ⟨?_, ?_, ?_, ?_⟩ <;> decide +kernel
theorem test_hyp_CoresExecuteTheirKernels_operations :
    (let k := coded 0x18B57553 (fargs 0 0); (withKernel k).coreFetch coreLane k = .instr (.fop .div .s 7 10 10 11) 4 ∧ k.hart.rmOf 7 = some .rne) ∧
    (let k := coded 0x18B57553 { fargs 0 0 with frm := 5 }; (withKernel k).coreFetch coreLane k = .instr (.fop .div .s 7 10 10 11) 4 ∧ k.hart.rmOf 7 = none) ∧
    (let k := coded 0x0005C503 (args 0 0); (withKernel k).coreFetch coreLane k = .instr (.load 1 false 10 11 0) 4) ∧
    (let k := coded 0x00A58023 (args 0 0); (withKernel k).coreFetch coreLane k = .instr (.store 1 11 10 0) 4) ∧
    (let k := coded 0x00100073 (args 0 0); (withKernel k).coreFetch coreLane k = .instr .ebreak 4) ∧
    (let k := coded 0x73 (args 0 0); (withKernel k).coreFetch coreLane k = .instr .ecall 4 ∧ k.hart.getX 17 = 0 ∧ (k.hart.setX 17 1).getX 17 = 1 ∧
      (k.hart.setX 17 2).getX 17 = 2) := by
  refine ⟨?_, ?_, ?_, ?_, ?_, ?_⟩ <;> decide +kernel
theorem test_hyp_CoresExecuteTheirKernels_accesses :
    (let s := withKernel (coded 0 (args 0 0)); ((args 0 4).addr 11 0 % 8 ≠ 0) ∧ ((args 0 0xF000).addr 11 0 = 0xF000 ∧ s.ucReach 0 0xF000 8 = false) ∧
      ucLocal ((args 0 0).addr 11 0) 8 = true ∧ (args 0 0x2000_0000).addr 11 0 = 0x2000_0000 ∧ ucLocal 0x2000_0000 8 = false ∧
      s.ucReach 0 0x2000_0000 8 = true ∧ s.coreHeld 0x2000_0000 8 = false) ∧
    (CoreFmt.s.decode (CoreFmt.s.add .rne 0x7F80_0000 0xFF80_0000).code).isNan = true ∧ (CoreFmt.d.decode 1).isFin = true ∧
    (let w := 0b100000_1_01000_01001_001_01010_1010111; bits w 0 7 = 0x57 ∧ bits w 12 3 = 1 ∧ bits w 26 6 = 0b100000) ∧
    (let w := 0b100001_1_01000_01001_101_01010_1010111; bits w 0 7 = 0x57 ∧ bits w 12 3 = 5 ∧ bits w 26 6 = 0b100001) ∧
    (let w := 0b010011_1_01000_00000_001_01010_1010111; bits w 0 7 = 0x57 ∧ bits w 12 3 = 1 ∧ bits w 26 6 = 0b010011 ∧ bits w 15 5 = 0) := by
  refine ⟨?_, ?_, ?_, ?_, ?_⟩ <;> decide +kernel
end Sys2Proof.Tests
end

section
/-!
SUPPORT. Every command answers a next state, and a safe queue stays safe.
-/
namespace Sys2Proof.Machine

/-! ## Outcomes that are a next state -/

/-- A command that acts only past a check, and else leaves the state, answers a next state either way. -/
theorem next_of_guard (p : Prop) [Decidable p] (s t : State) : ∃ x, (if p then .next s else .next t : Host.Outcome State Fault Refusal) = .next x := by
  split
  · exact ⟨s, rfl⟩
  · exact ⟨t, rfl⟩

/-- PACKET_ROUTE routes the head of the queue that it names, if there is one. -/
theorem execPacketRoute_next (from' : Option Nat) (tc hops : Nat) (rsp : Bool) (full : Nat) (s : State) :
    ∃ t, execPacketRoute from' tc hops rsp full s = .next t := by
  unfold execPacketRoute
  split
  · exact ⟨s, rfl⟩
  · exact ⟨_, rfl⟩

/-- Every command answers a next state: most meanings are one next state outright, those on a port, group, node, router, unit or writer that
may not be theirs stand behind one check, and PACKET_ROUTE looks for its packet. -/
theorem exec_next (c : Instr) (s : State) : ∃ t, exec c s = .next t := by
  cases c with
  | packetRoute port tc hops rsp full => exact execPacketRoute_next port tc hops rsp full s
  | breakPointAbort | planLoad | planUnload => exact next_of_guard _ _ _
  | burstComplete | tableScrub | tblInjectCe | tblInjectUe | bankSpareCopy => exact next_of_guard _ _ _
  | memPatrol | memRecentre | memSpareCopy | memInjectEdc | memInjectTag => exact next_of_guard _ _ _
  | tierDown | tierInjectTag | tierPortUp => exact next_of_guard _ _ _
  | peerDetect | trainingComplete | dataBlock | badSlot | idle | nak | replayBlock | retrain | goodbye => exact next_of_guard _ _ _
  | nakRepeatTimeout | ackTimeout | retryLimit | lossOfSignal | serSwap | cmdRetrain | retrainComplete => exact next_of_guard _ _ _
  | recoverMax | downRetry | injectLaneFail | injectBadSlot => exact next_of_guard _ _ _
  | helloTimer | hello | helloStale | keepalive | nodeTimeout | mark | telemSel | injectLoss => exact next_of_guard _ _ _
  | ready | counts | nakChunk | digest | cancel | lost | reform | reformAck | reformDone | credit => exact next_of_guard _ _ _
  | collectiveTimeout | ceInjectCrc | ceInjectDigest => exact next_of_guard _ _ _
  | droop | gateIdle | unitWake | ageingMeasure => exact next_of_guard _ _ _
  | _ => exact ⟨_, rfl⟩

/-- Settles O4: every arm of `exec` is a next state. -/
theorem wellFormedCommandsAlwaysRun : Obligations.WellFormedCommandsAlwaysRun := exec_next

/-! ## Safe queues -/

/-- A step takes the front command, if there is one, out of the queue and leaves the rest as it was. -/
theorem step_next (s : State) : ∃ t, step s = .next t ∧ t.pending = s.pending.tail := by
  cases hq : s.pending with
  | nil => exact ⟨s.tick, step_empty s hq, (tick_keeps s).pending.trans hq⟩
  | cons c r =>
    obtain ⟨t, ht⟩ := exec_next c { s with pending := r }
    exact ⟨t, (step_cons s c r hq).trans ht, (exec_keeps c _ t ht).pending⟩

/-- Settles O5: the queue after a step is the tail of a queue of well-formed commands. -/
theorem safeRunsStaySafe : Obligations.SafeRunsStaySafe := by
  intro s hs
  obtain ⟨t, ht, hq⟩ := step_next s
  exact ⟨t, ht, fun c hc => hs c (List.mem_of_mem_tail (hq ▸ hc))⟩

end Sys2Proof.Machine
end

section
/-!
SUPPORT. A write of a register field: what it sets, and that it leaves everything else.
-/
namespace Sys2Proof

/-- A bit of a number is a field one bit wide. -/
theorem bit_eq_bits (v i : Nat) : bit v i = (bits v i 1 == 1) := rfl

/-- Setting a field leaves every bit below it and above it. -/
theorem bit_setBits_outside {b lo w : Nat} (v x : Nat) (h : b < lo ∨ lo + w ≤ b) : bit (setBits v lo w x) b = bit v b := by
  rw [bit_eq_bits, bit_eq_bits]
  rcases h with h | h
  · rw [bits_setBits_below v lo w x b 1 h]
  · rw [bits_setBits_above v lo w x b 1 h]

namespace Machine

/-- Register words are all that a write of words changes. -/
theorem State.setWords_frame : ∀ (n : Nat) (s : State) (a v : Nat), { s.setWords a n v with regs := s.regs } = s
  | 0, _, _, _ => rfl
  | n + 1, s, a, v => by
    have h := State.setWords_frame n (s.setWord a (BitVec.ofNat 32 v)) (a + 4) (v / 2 ^ 32)
    calc { s.setWords a (n + 1) v with regs := s.regs }
        = { { (s.setWord a (BitVec.ofNat 32 v)).setWords (a + 4) n (v / 2 ^ 32) with
              regs := (s.setWord a (BitVec.ofNat 32 v)).regs } with regs := s.regs } := rfl
      _ = { s.setWord a (BitVec.ofNat 32 v) with regs := s.regs } := by rw [h]
      _ = s := rfl

/-- Registers are all that a write of a field changes. -/
theorem State.put_frame (s : State) (u : UnitId) (f : Field) (v : Nat) : { s.put u f v with regs := s.regs } = s :=
  State.setWords_frame _ _ _ _

/-- Settles O7, by the laws of `setWords` and `setBits`. -/
theorem fieldWritesTouchOnlyTheirBits : Obligations.FieldWritesTouchOnlyTheirBits := by
  intro s u f v
  refine ⟨State.get_put_same s u f v, State.put_frame s u f v, fun a ha => State.word_setWords_other _ _ _ _ _ ha, fun b _ hb => ?_⟩
  rw [State.put, State.words_setAt]
  exact bit_setBits_outside _ _ hb

end Machine
end Sys2Proof
end

section
/-!
SUPPORT. Pages and their places (R30, R34, R36): each present page belongs to one unit, and which fields stand in a word of the common part of
a page.
-/
namespace Sys2Proof

/-! ## Pages -/

theorem mem_blkAll (b : Blk) : b ∈ blkAll := by cases b <;> decide

/-- The page ranges of two blocks do not overlap. -/
theorem blkBase_apart : ∀ b ∈ blkAll, ∀ c ∈ blkAll, b = c ∨ blkBase b + blkCount b ≤ blkBase c ∨ blkBase c + blkCount c ≤ blkBase b := by decide

/-- Every block's pages lie within BAR0. -/
theorem blkBase_lt : ∀ b ∈ blkAll, blkBase b + blkCount b ≤ 0x4000 := by decide

theorem unitOfPage_blk {b : Blk} {i : Nat} (h : i < blkCount b) : unitOfPage (blkBase b + i) = some ⟨b, i⟩ := by
  have holds : (decide (blkBase b ≤ blkBase b + i) && decide (blkBase b + i < blkBase b + blkCount b)) = true := by simp [h]
  unfold unitOfPage
  cases hf : blkAll.find? (fun c => decide (blkBase c ≤ blkBase b + i) && decide (blkBase b + i < blkBase c + blkCount c)) with
  | none => exact absurd holds (List.find?_eq_none.1 hf b (mem_blkAll b))
  | some c =>
    have hc := List.find?_some hf
    simp only [Bool.and_eq_true, decide_eq_true_eq] at hc
    have e : c = b := by
      rcases blkBase_apart b (mem_blkAll b) c (mem_blkAll c) with e | e | e
      · exact e.symm
      · omega
      · omega
    simp [e]

/-- The page of a unit that exists is that unit's. -/
theorem unitOfPage_page {u : UnitId} (h : u.valid = true) : unitOfPage u.page = some u := unitOfPage_blk (of_decide_eq_true h)

theorem UnitId.page_lt {u : UnitId} (h : u.valid = true) : u.page < 0x4000 := by
  have h1 : u.ix < blkCount u.blk := of_decide_eq_true h
  have h2 := blkBase_lt u.blk (mem_blkAll u.blk)
  unfold UnitId.page
  omega

/-- Two units that exist have different pages. -/
theorem UnitId.page_inj {u v : UnitId} (hu : u.valid = true) (hv : v.valid = true) (h : u.page = v.page) : u = v :=
  Option.some.inj ((unitOfPage_page hu).symm.trans ((congrArg unitOfPage h).trans (unitOfPage_page hv)))

theorem UnitId.base_page (u : UnitId) {off : Nat} (h : off < 0x1000) : (u.base + off) / 0x1000 = u.page := by
  unfold UnitId.base; omega

theorem UnitId.base_off (u : UnitId) {off : Nat} (h : off < 0x1000) : (u.base + off) % 0x1000 = off := by
  unfold UnitId.base; omega

theorem UnitId.base_lt {u : UnitId} (h : u.valid = true) {off : Nat} (ho : off < 0x1000) : u.base + off < 0x400_0000 := by
  have := UnitId.page_lt h
  unfold UnitId.base; omega

/-! ## The common part of a page -/

/-- A block's own fields stand from offset 0x100 on. -/
theorem blkFields_from (b : Blk) : ∀ f ∈ blkFields b, 0x100 ≤ f.off := by
  cases b <;> decide

/-- A field has no bit in a word that ends before it. -/
theorem Field.inWord_before {f : Field} {off : Nat} (h : off + 4 ≤ f.off) : f.inWord off = false := by
  have : ¬ f.first < 8 * off + 32 := by unfold Field.first; omega
  simp [Field.inWord, this]

theorem Field.instances_before {f : Field} {off : Nat} (h : off + 4 ≤ f.off) : f.instances off = [] := by
  have hj : ∀ j, (f.at j).inWord off = false := fun j => Field.inWord_before (by simp only [Field.at]; omega)
  unfold Field.instances
  split
  · simp [Field.inWord_before h]
  · refine List.filter_eq_nil_iff.2 (fun g hg => ?_)
    obtain ⟨j, _, rfl⟩ := List.mem_map.1 hg
    simp [hj j]

/-- In the common part of a page stand the common fields alone. -/
theorem fieldsAt_common (b : Blk) {off : Nat} (h : off + 4 ≤ 0x100) : fieldsAt b off = Reg.common.all.flatMap (fun f => f.instances off) := by
  have hb : (blkFields b).flatMap (fun f => f.instances off) = [] :=
    List.flatMap_eq_nil_iff.2 (fun f hf => Field.instances_before (h.trans (blkFields_from b f hf)))
  rw [fieldsAt, fieldsOf, List.flatMap_append, hb, List.append_nil]

/-! ## Reset values of the common part (R11) -/

theorem fieldWord_before {f : Field} {base off : Nat} (h : off + 4 ≤ f.off) : fieldWord f base off = 0 := by
  unfold fieldWord
  exact if_pos (by omega)

/-- A field's reset value is a number, the same on every page. -/
def Field.resetsToNumber (f : Field) : Bool := match f.rst with | .const _ | .image _ => true | _ => false

/-- A field whose reset value is a number adds the same to the words of every page. -/
theorem fieldWord_base {f : Field} (h : f.resetsToNumber = true) (base off : Nat) : fieldWord f base off = fieldWord f 0 off := by
  have hr : ∀ i a c, rstValue f i a = rstValue f i c := by
    intro i a c
    unfold Field.resetsToNumber at h
    unfold rstValue
    split at h <;> simp_all
  unfold fieldWord
  simp only [fun i a => hr i a 0]

theorem common_resetsToNumber : ∀ f ∈ Reg.common.all, f.resetsToNumber = true := by decide

/-- The sum of what fields add to a word, where they add nothing. -/
theorem foldl_add_zero (g : Field → Nat) : ∀ (l : List Field) (a : Nat), (∀ f ∈ l, g f = 0) → l.foldl (fun a f => a + g f) a = a
  | [], _, _ => rfl
  | f :: l, a, h => by
    rw [List.foldl_cons, h f (by simp), Nat.add_zero]
    exact foldl_add_zero g l a (fun f hf => h f (by simp [hf]))

/-- What the words from CTRL on in the common part of every page hold at reset. -/
theorem wordReset_common {u : UnitId} (hu : u.valid = true) {off : Nat} (h1 : 8 ≤ off) (h2 : off + 4 ≤ 0x100) :
    wordReset (u.base + off) = BitVec.ofNat 32 (Reg.common.all.foldl (fun a f => a + fieldWord f 0 off) 0) := by
  have ho : off < 0x1000 := by omega
  have hc : ∀ (l : List Field) (a : Nat), (∀ f ∈ l, f.resetsToNumber = true) →
      l.foldl (fun a f => a + fieldWord f u.base off) a = l.foldl (fun a f => a + fieldWord f 0 off) a :=
    fun l a hl => List.foldl_ext _ _ a (fun a f hf => by rw [fieldWord_base (hl f hf)])
  unfold wordReset
  simp only [if_pos (UnitId.base_lt hu ho), UnitId.base_page u ho, UnitId.base_off u ho, unitOfPage_page hu, Nat.add_sub_cancel]
  rw [if_neg (by omega), if_neg (by omega), if_neg (by omega), if_neg (by omega), if_neg (by omega), if_neg (by omega), if_neg (by omega),
    if_neg (by omega), List.foldl_append, foldl_add_zero _ _ _ (fun f hf => fieldWord_before (h2.trans (blkFields_from u.blk f hf))),
    hc _ _ common_resetsToNumber]

/-- A field within one word of the common part of a page, from CTRL on. -/
def Field.inCommonWord (f : Field) : Bool :=
  decide (f.reach = .page ∧ f.off % 4 = 0 ∧ 8 ≤ f.off ∧ f.off + 4 ≤ 0x100 ∧ 0 < f.width ∧ f.lo + f.width ≤ 32)

namespace Machine

/-- A field of a unit's own page within one word is the bits of that word. -/
theorem State.get_eq_word (s : State) (u : UnitId) {f : Field} (hr : f.reach = .page) (ho : f.off % 4 = 0) (h1 : 0 < f.width) (h2 : f.lo + f.width ≤ 32) :
    s.get u f = bits (s.word (u.base + f.off)).toNat f.lo f.width := by
  have hb : (u.base + f.off) % 4 = 0 := by unfold UnitId.base; omega
  have hp : fieldPos (u.home f) f = (u.base + f.off, f.lo) := by
    unfold fieldPos UnitId.home
    rw [hr]
    refine Prod.ext ?_ ?_ <;> dsimp only <;> omega
  have hs : fieldSpan (u.home f) f = 1 := by
    rw [fieldSpan, hp]
    dsimp only
    omega
  rw [State.get, State.getAt, hp, hs]
  simp [State.words]

/-- Such a field at reset. -/
theorem State.reset_get_common {u : UnitId} (hu : u.valid = true) {f : Field} (hf : f.inCommonWord = true) :
    State.reset.get u f = bits (BitVec.ofNat 32 (Reg.common.all.foldl (fun a g => a + fieldWord g 0 f.off) 0)).toNat f.lo f.width := by
  obtain ⟨hr, ho, h0, h1, hw, hl⟩ := of_decide_eq_true hf
  rw [State.get_eq_word _ u hr ho hw hl, ← wordReset_common hu h0 h1]
  rfl

/-- Settles O6: no word of the common part but CTRL.ENABLE has a reset value other than 0. -/
theorem resetLeavesTheModuleOff : Obligations.ResetLeavesTheModuleOff := by
  have common {u : UnitId} (hu : u.valid = true) {f : Field} (hf : f.inCommonWord = true)
      (h0 : bits (BitVec.ofNat 32 (Reg.common.all.foldl (fun a g => a + fieldWord g 0 f.off) 0)).toNat f.lo f.width = 0) :
      State.reset.get u f = 0 := (State.reset_get_common hu hf).trans h0
  refine ⟨⟨rfl, rfl, by decide +kernel, rfl, fun u hu => ?_⟩, rfl, rfl, rfl⟩
  exact ⟨common hu (by decide) (by decide), common hu (by decide) (by decide), common hu (by decide) (by decide),
    common hu (by decide) (by decide), common hu (by decide) (by decide)⟩

end Machine
end Sys2Proof
end

section
/-!
SUPPORT. What an interrupt and a change of state leave in the registers of a unit's page, whatever unit they are of (R43, R45, R386, R388).
-/
namespace Sys2Proof

theorem UnitId.home_lt {u : UnitId} (h : u.valid = true) (f : Field) : u.home f + 0x1000 ≤ 0x400_0000 := by
  have hp := UnitId.page_lt h
  unfold UnitId.page at hp
  unfold UnitId.home UnitId.base UnitId.page
  cases f.reach <;> dsimp only <;> omega

/-- A field that a page holds whole and that shares no bit with IRQ_STATUS. -/
def Field.besideIrq (f : Field) : Bool := Machine.fieldsApart Reg.common.irqStatus f && Machine.fieldWithin f

namespace Machine

/-- A field that shares no bit with the one written keeps its value, on whatever page it stands. -/
theorem State.get_put_apart (s : State) (u w : UnitId) (f g : Field) (v : Nat) (ha : fieldsApart f g = true) (hf : fieldWithin f = true)
    (hg : fieldWithin g = true) : (s.put u f v).get w g = s.get w g := by
  by_cases h : u.home f = w.home g
  · exact State.get_put_other s u w f g v h ha
  · exact State.get_put_page s u w f g v h hf hg

/-- The MSI-X tables stand above every page. -/
theorem State.get_setWord_window (s : State) {u : UnitId} (hu : u.valid = true) {f : Field} (hf : fieldWithin f = true) {a : Nat}
    (ha : 0x400_0000 ≤ a) (w : Word) : (s.setWord a w).get u f = s.get u f := by
  have hb := UnitId.home_lt hu f
  obtain ⟨n, hn⟩ := home_page u f
  simp only [fieldWithin, decide_eq_true_eq] at hf
  unfold State.get State.getAt
  rw [hn] at hb ⊢
  rw [State.words_congr _ s]
  intro i hi
  refine State.word_setWord_other s w ?_
  rw [fieldPos_base]
  rw [fieldSpan_base] at hi
  dsimp only
  omega

theorem msixBase_le (vf : Option Nat) : 0x400_0000 ≤ msixBase vf := by
  cases vf <;> simp [msixBase, winBase]

theorem State.put_irqStatus_get {f : Field} (hf : f.besideIrq = true) (s : State) (u w : UnitId) (x : Nat) :
    (s.put w Reg.common.irqStatus x).get u f = s.get u f := by
  obtain ⟨ha, hw⟩ := (Bool.and_eq_true _ _).mp hf
  exact State.get_put_apart s w u _ f x ha (by decide) hw

section
variable {u : UnitId} (hu : u.valid = true) {f : Field} (hf : f.besideIrq = true)
include hu hf

theorem State.sendVector_get (s : State) (vf : Option Nat) (k : Nat) : (s.sendVector vf k).get u f = s.get u f := by
  have hw : fieldWithin f = true := ((Bool.and_eq_true _ _).mp hf).2
  unfold State.sendVector
  split
  · exact State.get_setWord_window s hu hw (by have := msixBase_le vf; omega) _
  · exact State.get_of_regs (by rfl) u f

theorem State.msix_get (s : State) (vf : Option Nat) (k : Nat) : (s.msix vf k).get u f = s.get u f := by
  unfold State.msix
  dsimp only
  split
  · exact State.sendVector_get hu hf s vf k
  · split
    · rw [State.put_irqStatus_get hf, State.sendVector_get hu hf]
    · rw [State.sendVector_get hu hf, State.put_irqStatus_get hf, State.sendVector_get hu hf]

theorem State.pageInterrupt_get (s : State) (w : UnitId) : (s.pageInterrupt w).get u f = s.get u f := by
  unfold State.pageInterrupt
  dsimp only
  split
  · split
    · rw [State.msix_get hu hf, State.msix_get hu hf]
    · rw [State.msix_get hu hf]
  · rw [State.msix_get hu hf]

/-- An interrupt changes IRQ_STATUS words and nothing else on the pages. -/
theorem State.irq_get (s : State) (w : UnitId) (m : Nat) : (s.irq w m).get u f = s.get u f := by
  unfold State.irq
  dsimp only
  split
  · rw [State.put_irqStatus_get hf]
  · rw [State.pageInterrupt_get hu hf, State.put_irqStatus_get hf]

/-- A change of state leaves every field beside IRQ_STATUS and STATUS.STATE. -/
theorem State.setState_get (s : State) (w : UnitId) (st : Nat) (hs : fieldsApart Reg.common.state f = true) :
    (s.setState w st).get u f = s.get u f := by
  have hw : fieldWithin f = true := ((Bool.and_eq_true _ _).mp hf).2
  unfold State.setState
  split
  · rfl
  · rw [State.irq_get hu hf, State.get_put_apart s w u _ f st hs (by decide) hw]

end

/-! ## States of units -/

variable {u w : UnitId}

theorem home_common {f : Field} (h : f.reach = .page) : u.home f = u.page * 0x1000 := by
  unfold UnitId.home
  rw [h]
  rfl

/-- A page field of one unit is not on the page of another. -/
theorem home_ne (hu : u.valid = true) (hw : w.valid = true) (h : u ≠ w) {f g : Field} (hf : f.reach = .page) (hg : g.reach = .page) :
    u.home f ≠ w.home g := by
  rw [home_common hf, home_common hg]
  exact fun e => h (UnitId.page_inj hu hw (by omega))

/-- A unit's state after it was set. -/
theorem State.setState_ustate (s : State) (hu : u.valid = true) {st : Nat} (h : st < 8) : (s.setState u st).ustate u = st := by
  unfold State.setState
  split
  · assumption
  · rw [State.ustate, State.irq_get hu (by decide), State.get_put_same]
    exact Nat.mod_eq_of_lt h

/-- The state of another unit. -/
theorem State.setState_ustate_other (s : State) (hu : u.valid = true) (hw : w.valid = true) (h : w ≠ u) (st : Nat) :
    (s.setState w st).ustate u = s.ustate u := by
  unfold State.setState
  split
  · rfl
  · rw [State.ustate, State.irq_get hu (by decide),
      State.get_put_page s w u _ _ st (home_ne hw hu h rfl rfl) (by decide) (by decide)]
    rfl

theorem State.put_ustate (s : State) {f : Field} (v : Nat) (hs : fieldsApart f Reg.common.state = true) (hf : fieldWithin f = true) :
    (s.put w f v).ustate u = s.ustate u := State.get_put_apart s w u f _ v hs hf (by decide)

/-- A draining unit ends QUIESCED, and RUNNING where an enable is pending (R43). -/
theorem State.quiesce_ustate (s : State) (hu : u.valid = true) (h : s.ustate u = stDraining) :
    (s.quiesce u).ustate u = if s.flag u Reg.common.enablePending then stRunning else stQuiesced := by
  have hp : ((s.setState u stQuiesced).put u Reg.common.force 0).flag u Reg.common.enablePending = s.flag u Reg.common.enablePending := by
    rw [State.flag, State.get_put_apart _ u u _ _ 0 (by decide) (by decide) (by decide), State.setState_get hu (by decide) s u _ (by decide)]
    rfl
  unfold State.quiesce
  rw [if_neg (by simp [h])]
  dsimp only
  rw [hp]
  split
  · exact State.setState_ustate _ hu (by decide)
  · rw [State.put_ustate _ _ (by decide) (by decide), State.setState_ustate _ hu (by decide)]

/-- The drain of a unit leaves the state of every other. -/
theorem State.quiesce_ustate_other (s : State) (hu : u.valid = true) (hw : w.valid = true) (h : w ≠ u) :
    (s.quiesce w).ustate u = s.ustate u := by
  unfold State.quiesce
  split
  · rfl
  · dsimp only
    split
    · rw [State.setState_ustate_other _ hu hw h, State.put_ustate _ _ (by decide) (by decide), State.put_ustate _ _ (by decide) (by decide),
        State.setState_ustate_other _ hu hw h]
    · rw [State.put_ustate _ _ (by decide) (by decide), State.setState_ustate_other _ hu hw h]

end Machine
end Sys2Proof
end

section
/-!
SUPPORT. Reads of the error log (R31, R45), drains, break points and faults (R43, R44, R91).
-/
namespace Sys2Proof

theorem leNat_leBytes : ∀ (n v : Nat), leNat (leBytes n v) = v % 256 ^ n
  | 0, v => by simp [leBytes, leNat, Nat.mod_one]
  | n + 1, v => by
    have h : v % 256 ^ (n + 1) = v % 256 + 256 * (v / 256 % 256 ^ n) := by rw [Nat.pow_succ', Nat.mod_mul]
    rw [leBytes, leNat, leNat_leBytes n, BitVec.toNat_ofNat, h]

theorem leNat_append : ∀ (a b : List Byte), leNat (a ++ b) = leNat a + 256 ^ a.length * leNat b
  | [], b => by simp [leNat]
  | x :: a, b => by
    rw [List.cons_append, leNat, leNat, leNat_append a b, List.length_cons, Nat.pow_succ]
    ring

namespace Machine

/-! ## Whose pages -/

/-- A unit's partition rests on the registers and the map of the Talon. -/
theorem State.partOfUnit_congr {s t : State} (hr : t.regs = s.regs) (ht : t.talon = s.talon) (u : UnitId) : t.partOfUnit u = s.partOfUnit u := by
  have hg : ∀ w f, t.get w f = s.get w f := State.get_of_regs hr
  simp only [State.partOfUnit, State.logicalOf, State.ownsLogical, ht, hg]

/-- Whether a page reads as present rests on those and on whether the module is awake. -/
theorem State.mayRead_congr {s t : State} (hr : t.regs = s.regs) (ht : t.talon = s.talon) (hs : t.sys = s.sys) (src : Src) (u : UnitId) :
    t.mayRead src u = s.mayRead src u := by
  have ha : t.awake = s.awake := by rw [State.awake, State.awake, hs]
  have hm : t.minimal = s.minimal := by rw [State.minimal, State.minimal, State.get_of_regs hr]
  have hv : t.vfs = s.vfs := State.get_of_regs hr _ _
  unfold State.mayRead
  rw [ha, hm, hv, State.partOfUnit_congr hr ht]

/-! ## ERR_LOG -/

/-- A common field that no rule shows otherwise reads as stored. -/
theorem State.readField_common (s : State) (u : UnitId) {f : Field} (h : f.off < 0x100) (hd : f.is Reg.common.drained = false)
    (hi : f.is Reg.common.inflight = false) (ha : f.acc ≠ .wo) : s.readField u f = s.get u f := by
  have hv : s.view u f = none := by
    unfold State.view
    rw [hd, hi, if_neg (by decide), if_neg (by decide), if_neg (by omega), if_pos h]
  rw [State.readField, hv]
  exact if_neg ha

/-- A word of the common part of a page is made of the common fields. -/
theorem State.pageWord_common (s : State) (u : UnitId) {off : Nat} (h : off + 4 ≤ 0x100) :
    s.pageWord u off = (Reg.common.all.flatMap (fun f => f.instances off)).foldl (fun a f =>
      a + bits (s.readField u f) (f.part off).2.1 (f.part off).2.2 * 2 ^ (f.part off).1) 0 := by
  unfold State.pageWord
  rw [if_neg (by omega), if_neg (by omega), if_neg (by omega), if_neg (by omega), if_neg (by omega), fieldsAt_common u.blk h]

theorem State.get_lt (s : State) (u : UnitId) (f : Field) : s.get u f < 2 ^ f.width := bits_lt _ _ _

theorem bits_of_lt {v w : Nat} (h : v < 2 ^ w) : bits v 0 w = v := by
  rw [bits, Nat.pow_zero, Nat.div_one, Nat.mod_eq_of_lt h]

/-- The first word of ERR_LOG. -/
theorem State.pageWord_logSeq (s : State) (u : UnitId) : s.pageWord u 0x20 = s.get u Reg.common.logSeq := by
  have hf : Reg.common.all.flatMap (fun f => f.instances 0x20) = [Reg.common.logSeq] := by decide
  have hp : Reg.common.logSeq.part 0x20 = (0, 0, 32) := by decide
  rw [State.pageWord_common s u (by decide), hf, List.foldl_cons, List.foldl_nil, hp,
    State.readField_common s u (by decide) (by decide) (by decide) (by decide)]
  exact (Nat.zero_add _).trans ((Nat.mul_one _).trans (bits_of_lt (State.get_lt s u Reg.common.logSeq)))

/-- The second word of ERR_LOG. -/
theorem State.pageWord_lastCode (s : State) (u : UnitId) :
    s.pageWord u 0x24 = s.get u Reg.common.lastCode + s.get u Reg.common.errCount * 2 ^ 16 := by
  have hf : Reg.common.all.flatMap (fun f => f.instances 0x24) = [Reg.common.lastCode, Reg.common.errCount] := by decide
  have hp : Reg.common.lastCode.part 0x24 = (0, 0, 16) := by decide
  have hq : Reg.common.errCount.part 0x24 = (16, 0, 16) := by decide
  rw [State.pageWord_common s u (by decide), hf, List.foldl_cons, List.foldl_cons, List.foldl_nil, hp, hq,
    State.readField_common s u (by decide) (by decide) (by decide) (by decide),
    State.readField_common s u (by decide) (by decide) (by decide) (by decide)]
  have h1 : bits (s.get u Reg.common.lastCode) 0 16 = s.get u Reg.common.lastCode := bits_of_lt (State.get_lt s u Reg.common.lastCode)
  have h2 : bits (s.get u Reg.common.errCount) 0 16 = s.get u Reg.common.errCount := bits_of_lt (State.get_lt s u Reg.common.errCount)
  simp only [h1, h2, Nat.pow_zero, Nat.mul_one, Nat.zero_add]

/-- A read of a word of the common part clears the fields that are cleared on read. -/
theorem State.readSide_common (s : State) (src : Src) (u : UnitId) {off : Nat} (h : off + 4 ≤ 0x100) :
    s.readSide src u off = ((Reg.common.all.flatMap (fun f => f.instances off)).filter (fun f => f.acc == .rc)).foldl (fun t f => t.put u f 0)
      (s.useFree 1) := by
  unfold State.readSide
  rw [fieldsAt_common u.blk h]
  exact if_neg (by omega)

theorem State.readSide_logSeq (s : State) (src : Src) (u : UnitId) : s.readSide src u 0x20 = s.useFree 1 := by
  have hf : (Reg.common.all.flatMap (fun f => f.instances 0x20)).filter (fun f => f.acc == .rc) = [] := by decide
  rw [State.readSide_common s src u (by decide), hf]
  rfl

theorem State.readSide_lastCode (s : State) (src : Src) (u : UnitId) :
    s.readSide src u 0x24 = (s.useFree 1).put u Reg.common.errCount 0 := by
  have hf : (Reg.common.all.flatMap (fun f => f.instances 0x24)).filter (fun f => f.acc == .rc) = [Reg.common.errCount] := by decide
  rw [State.readSide_common s src u (by decide), hf]
  rfl

theorem State.readWord_page (s : State) (src : Src) {u : UnitId} (hu : u.valid = true) (hr : s.mayRead src u = true) {off : Nat} (h : off < 0x1000) :
    s.readWord src u.page off = (s.pageWord u off, s.readSide src u off) := by
  unfold State.readWord
  rw [unitOfPage_page hu]
  exact if_neg (by simp [hr]; omega)

theorem State.readWord_absent (s : State) (src : Src) {u : UnitId} (hu : u.valid = true) (hr : s.mayRead src u = false) (off : Nat) :
    s.readWord src u.page off = (0, s) := by
  unfold State.readWord
  rw [unitOfPage_page hu]
  exact if_pos (by simp [hr])

/-- The 64-bit read at ERR_LOG is the read of its two words. -/
theorem State.busRead_errLog (s : State) (src : Src) (u : UnitId) :
    s.busRead src (u.base + 0x20) 8 =
      (leBytes 4 (s.readWord src u.page 0x20).1 ++ leBytes 4 (s.readWord src u.page 0x24).1,
        ((s.readWord src u.page 0x20).2.readWord src u.page 0x24).2) := by
  unfold State.busRead
  rw [UnitId.base_page u (by decide), UnitId.base_off u (by decide)]
  exact if_pos ⟨rfl, by unfold UnitId.base; omega⟩

/-- What two words of four bytes read as one number. -/
theorem leNat_two_words {a b : Nat} (ha : a < 2 ^ 32) (hb : b < 2 ^ 32) : leNat (leBytes 4 a ++ leBytes 4 b) = a + b * 2 ^ 32 := by
  rw [leNat_append, leNat_leBytes, leNat_leBytes, leBytes_length]
  omega

/-- ERR_LOG_READ by a source for which the page is present. -/
theorem execErrLogRead_present (s : State) (src : Src) {u : UnitId} (hu : u.valid = true) (hr : s.mayRead src u = true) :
    execErrLogRead u src s = .next (((s.useFree 2).put u Reg.common.errCount 0).respond
      [s.get u Reg.common.logSeq + s.get u Reg.common.lastCode * 2 ^ 32 + s.get u Reg.common.errCount * 2 ^ 48]) := by
  have hr' : (s.useFree 1).mayRead src u = true := (State.mayRead_congr (s := s) (t := s.useFree 1) rfl rfl rfl src u).trans hr
  have h0 : s.get u Reg.common.logSeq < 2 ^ 32 := State.get_lt s u Reg.common.logSeq
  have h1 : s.get u Reg.common.lastCode < 2 ^ 16 := State.get_lt s u Reg.common.lastCode
  have h2 : s.get u Reg.common.errCount < 2 ^ 16 := State.get_lt s u Reg.common.errCount
  unfold execErrLogRead
  rw [if_neg (by simp [hu]), State.busRead_errLog, State.readWord_page s src hu hr (by decide), State.readWord_page s src hu hr (by decide)]
  dsimp only
  rw [State.readSide_logSeq, State.readWord_page _ src hu hr' (by decide)]
  dsimp only
  rw [State.readSide_lastCode, State.pageWord_logSeq, State.pageWord_lastCode,
    leNat_two_words h0 (by omega)]
  have hn : ∀ a b c : Nat, a + (b + c * 2 ^ 16) * 2 ^ 32 = a + b * 2 ^ 32 + c * 2 ^ 48 := fun a b c => by omega
  rw [hn]
  rfl

/-- ERR_LOG_READ by a source for which it is absent. -/
theorem execErrLogRead_absent (s : State) (src : Src) {u : UnitId} (hu : u.valid = true) (hr : s.mayRead src u = false) :
    execErrLogRead u src s = .next (s.respond [0]) := by
  unfold execErrLogRead
  rw [if_neg (by simp [hu]), State.busRead_errLog]
  simp only [State.readWord_absent s src hu hr]
  rfl

/-! ## Drains (R43) -/

/-- UNIT_DRAIN_COMPLETE does nothing at a unit that does not drain, or that is not idle. -/
theorem State.drainEnds_busy (s : State) (u : UnitId) (h : s.ustate u ≠ stDraining ∨ s.idle u = false) : s.drainEnds u = s := by
  unfold State.drainEnds
  exact if_pos (by simpa using h)

/-- What the end of a drain is on a block that is neither a port nor a collective engine. -/
theorem State.drainEnds_plain (s : State) (u : UnitId) (hd : s.ustate u = stDraining) (hi : s.idle u = true) (h1 : u.blk ≠ .bvl) (h2 : u.blk ≠ .ce) :
    s.drainEnds u = if (s.quiesce u).ustate u = stRunning then (s.quiesce u).resumes u else s.quiesce u := by
  unfold State.drainEnds
  rw [if_neg (by simp [hd, hi])]
  split
  · exact absurd ‹_› h1
  · exact absurd ‹_› h2
  · rfl

theorem State.drainEnds_ce (s : State) (u : UnitId) (hd : s.ustate u = stDraining) (hi : s.idle u = true) (h : u.blk = .ce) :
    s.drainEnds u = if (s.quiesce u).ustate u = stQuiesced ∧ (s.quiesce u).ustate (ceU (partnerOf u.ix)) = stRunning
      then (s.quiesce u).irq (ceU (partnerOf u.ix)) (2 ^ 20) else s.quiesce u := by
  unfold State.drainEnds
  rw [if_neg (by simp [hd, hi]), h]

/-- A collective engine has a partner, another one (R482). -/
theorem partner_valid {u : UnitId} (hu : u.valid = true) (h : u.blk = .ce) : (ceU (partnerOf u.ix)).valid = true ∧ u ≠ ceU (partnerOf u.ix) := by
  obtain ⟨b, i⟩ := u
  subst h
  have hi : i < 4 := of_decide_eq_true hu
  refine ⟨decide_eq_true (show partnerOf i < 4 by unfold partnerOf; omega), fun e => ?_⟩
  have : i = partnerOf i := congrArg UnitId.ix e
  unfold partnerOf at this
  omega

/-! ## Break points (R44, R89, R91) -/

/-- A unit under FORCE, in no chain, at a lane that has ended, has not begun, or breaks inside, is at a break point. -/
theorem State.atBreak_head (s : State) (u : UnitId) {l : Lane} {r : List Lane} (hc : s.inChain u = false) (hq : (s.unit u).queue = l :: r)
    (h : l.status.isSome = true ∨ s.begun u = false ∨ l.bpp = 2 ∧ s.innerBreaks l = true) : s.atBreak u = true := by
  unfold State.atBreak
  rw [hq, hc]
  simpa [or_assoc] using h

/-- Inside a chain is no break point. -/
theorem State.atBreak_chain (s : State) (u : UnitId) (hc : s.inChain u = true) : s.atBreak u = false := by
  unfold State.atBreak
  rw [hc]
  rfl

theorem execBreakPointAbort_ce (s : State) {u : UnitId} (hu : u.valid = true) (h : u.blk = .ce) :
    execBreakPointAbort u s = .next (if s.forced u then s.ceAbort u else s) := by
  unfold execBreakPointAbort
  rw [if_neg (by simp [hu]), if_pos h]

theorem execBreakPointAbort_plain (s : State) {u : UnitId} (hu : u.valid = true) (h : u.blk ≠ .ce) :
    execBreakPointAbort u s = .next (if s.forced u && s.atBreak u then s.stopLanes u else s) := by
  unfold execBreakPointAbort
  rw [if_neg (by simp [hu]), if_neg h]
  rfl

/-! ## Faults (R43) -/

/-- The fault of a unit that is on: its lanes end, and what the block itself does follows. -/
theorem execUnitFault_on (s : State) {u : UnitId} (hu : u.valid = true) (h1 : s.ustate u ≠ stOff) (h2 : s.ustate u ≠ stVacant)
    (h3 : s.ustate u ≠ stFaulted) :
    (u.blk ∉ [Blk.pge, .ce, .bvf, .bvl, .tbl, .mem] → execUnitFault u s = .next (s.faultUnit u 3)) ∧
    (u.blk = .tbl ∨ u.blk = .mem → execUnitFault u s = .next (s.faultUnit u 3).goesOn) ∧
    (u.blk = .pge → execUnitFault u s = .next ((s.faultUnit u 3).pgeLost u.ix)) ∧
    (u.blk = .ce → execUnitFault u s = .next ((s.faultUnit u 3).ceTakeover u)) := by
  unfold execUnitFault State.unitFault
  rw [if_neg (by simp [hu])]
  dsimp only
  rw [if_neg (by simp [h1, h2, h3])]
  refine ⟨fun h => ?_, fun h => ?_, fun h => ?_, fun h => ?_⟩
  · simp only [List.mem_cons, List.not_mem_nil, or_false, not_or] at h
    split <;> simp_all
  · rcases h with h | h <;> rw [h]
  · rw [h]
  · rw [h]

/-- Settles O10, by the lemma about each command. -/
theorem errorLogReadsAndDrains : Obligations.ErrorLogReadsAndDrains := by
  intro s u hu
  have drain : exec (.unitDrainComplete u) s = .next (s.drainEnds u) := congrArg Host.Outcome.next (if_neg (by simp [hu]))
  refine ⟨fun src hr => ?_, fun src hr => ?_, fun hd hi => ⟨fun h1 h2 hp => ?_, fun h1 h2 hp => ?_, fun h hp ho => ?_⟩, fun h => ?_, ?_, ?_, ?_, ?_⟩
  · refine ⟨_, execErrLogRead_present s src hu hr, ?_, rfl, ?_, ?_⟩
    · rw [State.respond_get, State.get_put_same]; rfl
    · rw [State.respond_mem, State.put_mem, State.useFree_mem]
    · rw [State.respond_out, State.put_out, State.useFree_out]
  · exact ⟨_, execErrLogRead_absent s src hu hr, rfl, rfl⟩
  · rw [drain, State.drainEnds_plain s u hd hi h1 h2, State.quiesce_ustate s hu hd, hp]
    rfl
  · rw [drain, State.drainEnds_plain s u hd hi h1 h2, State.quiesce_ustate s hu hd, hp]
    rfl
  · obtain ⟨hv, hne⟩ := partner_valid hu h
    rw [drain, State.drainEnds_ce s u hd hi h, State.quiesce_ustate s hu hd, State.quiesce_ustate_other s hv hu hne, hp, ho]
    rfl
  · rw [drain, State.drainEnds_busy s u h]
  · intro hb hf hc ⟨l, r, hq, hl⟩
    refine (execBreakPointAbort_plain s hu hb).trans ?_
    rw [hf, State.atBreak_head s u hc hq hl]
    rfl
  · intro hb hc
    refine (execBreakPointAbort_plain s hu hb).trans ?_
    rw [State.atBreak_chain s u hc, Bool.and_false]
    rfl
  · intro hb hf
    refine (execBreakPointAbort_ce s hu hb).trans ?_
    rw [if_pos hf]
  · exact fun h1 h2 h3 => execUnitFault_on s hu h1 h2 h3

end Machine
end Sys2Proof
end

section
/-!
SUPPORT. Register writes over BAR0 (R9, R31, R33, R45, R578): from the access to the field that it addresses.
-/
namespace Sys2Proof

/-! ## Written bits -/

/-- A field of a mask of ones is ones. -/
theorem bits_ones {n lo w : Nat} (h : lo + w ≤ n) : bits (2 ^ n - 1) lo w = 2 ^ w - 1 := by
  refine Nat.eq_of_testBit_eq (fun i => ?_)
  rw [bits, Nat.testBit_mod_two_pow, Nat.testBit_div_two_pow, Nat.testBit_two_pow_sub_one, Nat.testBit_two_pow_sub_one]
  by_cases hi : i < w
  · simp [hi, show i + lo < n by omega]
  · simp [hi]

theorem setBits_whole {v w x : Nat} (hv : v < 2 ^ w) (hx : x < 2 ^ w) : setBits v 0 w x = x := by
  rw [setBits_eq, Nat.pow_zero, Nat.div_one, Nat.div_eq_of_lt hv, Nat.mod_eq_of_lt hx, Nat.mod_one]
  omega

/-- Where a field stands in the word that holds it whole. -/
theorem Field.part_whole {f : Field} {off : Nat} (ho : f.off = off) (h : f.lo + f.width ≤ 32) : f.part off = (f.lo, 0, f.width) := by
  unfold Field.part Field.past Field.first
  refine Prod.ext ?_ (Prod.ext ?_ ?_) <;> dsimp only <;> omega

/-- A write of all 32 bits of the word that holds a field whole gives the field its bits of the value. -/
theorem Field.merge_whole {f : Field} {off : Nat} (ho : f.off = off) (h : f.lo + f.width ≤ 32) {old : Nat} (hold : old < 2 ^ f.width) (value : Nat) :
    f.merge old off 0xFFFF_FFFF value = bits value f.lo f.width := by
  have hm : bits 0xFFFF_FFFF f.lo f.width = 2 ^ f.width - 1 := bits_ones h
  unfold Field.merge
  dsimp only
  rw [Field.part_whole ho h]
  dsimp only
  rw [hm, Nat.sub_self, Nat.and_zero, Nat.zero_or, Nat.and_two_pow_sub_one_eq_mod, Nat.mod_eq_of_lt (bits_lt _ _ _),
    setBits_whole hold (bits_lt _ _ _)]

end Sys2Proof

namespace Sys2Proof.Machine

/-! ## From an access to a word -/

/-- A write over BAR0 of another size or alignment (R31). -/
theorem State.busWrite_misfit {s : State} (ha : s.awake = true) {addr size : Nat} (hr : addr < 0x400_0000)
    (hs : (size = 4 ∨ size = 8) → addr % size ≠ 0) (src : Src) (v : Nat) : s.busWrite src addr size v = s.accessEvent addr size := by
  have hf : ((size == 4 || size == 8) && addr % size == 0) = false := by
    rw [Bool.eq_false_iff]
    intro h
    simp only [Bool.and_eq_true, Bool.or_eq_true, beq_iff_eq] at h
    exact hs h.1 h.2
  unfold State.busWrite
  rw [hf, ha]
  exact if_pos hr

/-- A write over BAR0 that fits is a write of its page. -/
theorem State.busWrite_page {s : State} (ha : s.awake = true) {u : UnitId} (hu : u.valid = true) {off size : Nat} (ho : off < 0x1000)
    (hs : size = 4 ∨ size = 8) (hz : off % size = 0) (src : Src) (v : Nat) :
    s.busWrite src (u.base + off) size v = s.pageWrite src u.page off size v := by
  have hb : (u.base + off) % size = 0 := by
    unfold UnitId.base
    rcases hs with rfl | rfl <;> omega
  have hf : ((size == 4 || size == 8) && (u.base + off) % size == 0) = true := by simpa [hb] using hs
  unfold State.busWrite
  rw [hf, ha, UnitId.base_page u ho, UnitId.base_off u ho]
  exact if_pos (UnitId.base_lt hu ho)

/-- A source that may not write a page writes nothing (R33). -/
theorem State.pageWrite_denied {s : State} {src : Src} {u : UnitId} (hu : u.valid = true) (h : s.mayWrite src u = false) (off size v : Nat) :
    s.pageWrite src u.page off size v = s := by
  unfold State.pageWrite
  rw [unitOfPage_page hu]
  exact if_pos (by simp [h])

/-- A 32-bit write by a source that may write the page. -/
theorem State.pageWrite_word {s : State} {src : Src} {u : UnitId} (hu : u.valid = true) (h : s.mayWrite src u = true) (off v : Nat) :
    s.pageWrite src u.page off 4 v =
      (s.writeWord src false u off 0xFFFF_FFFF (v % 2 ^ 32)).1.accessEnds u off 4 (s.writeWord src false u off 0xFFFF_FFFF (v % 2 ^ 32)).2 := by
  unfold State.pageWrite
  rw [unitOfPage_page hu]
  dsimp only
  rw [if_neg (by simp [h]), if_neg (by decide), List.append_nil]

theorem mayWrite_awake {s : State} {src : Src} {u : UnitId} (h : s.mayWrite src u = true) : s.awake = true := by
  unfold State.mayWrite at h
  simp only [Bool.and_eq_true] at h
  exact h.1.1.1

/-! ## From a word to its fields -/

/-- The fields of a word that take a write of its 32 bits, command bits last. -/
def wordTargets (b : Blk) (off : Nat) : List Field :=
  let hit := (fieldsAt b off).filter (fun f => (f.maskIn off &&& 0xFFFF_FFFF) != 0)
  let taking := hit.filter (fun f => f.acc != .rwt || !systemSlice b off)
  taking.filter (fun f => f.acc != .w1s) ++ taking.filter (fun f => f.acc == .w1s)

/-- A 32-bit write of a word with one field is the write of that field. -/
theorem State.writeWord_single (s : State) (src : Src) {u : UnitId} {off : Nat} {f : Field} (h8 : off ≠ 8) (hc : off ≠ 0xEF8)
    (hf : wordTargets u.blk off = [f]) (v : Nat) :
    s.writeWord src false u off 0xFFFF_FFFF v =
      ((s.writeField src false u f off 0xFFFF_FFFF v).1, [(s.writeField src false u f off 0xFFFF_FFFF v).2]) := by
  unfold wordTargets at hf
  unfold State.writeWord
  rw [if_neg h8, if_neg hc]
  dsimp only at hf ⊢
  rw [hf]
  rfl

/-- Fields that ignore every write leave the state, and say so. -/
theorem foldl_ignored (k : State → Field → State × Taken) (s : State) : ∀ (l : List Field) (ts : List Taken),
    (∀ f ∈ l, k s f = (s, .ignored)) →
    l.foldl (fun (r : State × List Taken) f => ((k r.1 f).1, r.2 ++ [(k r.1 f).2])) (s, ts) = (s, ts ++ List.replicate l.length .ignored)
  | [], ts, _ => by simp
  | f :: l, ts, h => by
    have ih := foldl_ignored k s l (ts ++ [.ignored]) (fun g hg => h g (by simp [hg]))
    rw [List.foldl_cons]
    simp only [h f (by simp)]
    rw [ih, List.append_assoc]
    rfl

/-- A write of a word of read-only fields changes nothing (R9). -/
theorem State.writeWord_readOnly (s : State) (src : Src) {u : UnitId} {off : Nat} (h8 : off ≠ 8) (hc : off ≠ 0xEF8)
    (hr : ∀ f ∈ wordTargets u.blk off, f.acc = .ro ∨ f.acc = .rc) (v : Nat) :
    s.writeWord src false u off 0xFFFF_FFFF v = (s, List.replicate (wordTargets u.blk off).length .ignored) := by
  have hw : ∀ f ∈ wordTargets u.blk off, s.writeField src false u f off 0xFFFF_FFFF v = (s, .ignored) := by
    intro f hf
    unfold State.writeField
    dsimp only
    split
    · rfl
    · split
      · rfl
      · rcases hr f hf with h | h <;> rw [h]
  have h := foldl_ignored (fun t f => t.writeField src false u f off 0xFFFF_FFFF v) s _ [] hw
  unfold wordTargets at h ⊢
  unfold State.writeWord
  rw [if_neg h8, if_neg hc]
  exact h

/-- An access whose fields were ignored or took it in place ends with nothing more. -/
theorem State.accessEnds_plain (s : State) (u : UnitId) (off size : Nat) {ts : List Taken} (h1 : ts.contains .shadow = false)
    (h2 : ts.contains .foreign = false) : s.accessEnds u off size ts = s := by
  unfold State.accessEnds
  rw [h1, h2]
  rfl

/-! ## IRQ_ENABLE and STATUS -/

/-- The fields of a word of the common part of a page, whatever the block. -/
theorem wordTargets_common (b : Blk) {off : Nat} (h : off + 4 ≤ 0x100) : wordTargets b off =
    let hit := (Reg.common.all.flatMap (fun f => f.instances off)).filter (fun f => (f.maskIn off &&& 0xFFFF_FFFF) != 0)
    hit.filter (fun f => f.acc != .w1s) ++ hit.filter (fun f => f.acc == .w1s) := by
  have hs : systemSlice b off = false := by
    unfold systemSlice
    rw [Bool.eq_false_iff]
    intro h
    simp only [Bool.and_eq_true, Bool.or_eq_true, beq_iff_eq] at h
    omega
  unfold wordTargets
  rw [fieldsAt_common b h, hs]
  simp

theorem wordTargets_irqEnable (b : Blk) : wordTargets b 0x14 = [Reg.common.irqEnable] := by
  rw [wordTargets_common b (by decide)]
  decide

theorem wordTargets_status (b : Blk) : ∀ f ∈ wordTargets b 0xC, f.acc = .ro ∨ f.acc = .rc := by
  rw [wordTargets_common b (by decide)]
  decide

/-- A write of IRQ_ENABLE takes the value (R45). -/
theorem State.writeField_irqEnable (s : State) (src : Src) (u : UnitId) (v : Nat) :
    s.writeField src false u Reg.common.irqEnable 0x14 0xFFFF_FFFF (v % 2 ^ 32) = (s.irqEnableTo u (v % 2 ^ 32), .ok) := by
  have hm : s.minimalRefuses u Reg.common.irqEnable = false := by
    unfold State.minimalRefuses
    rw [show decide (0x100 ≤ Reg.common.irqEnable.off) = false from rfl, Bool.and_false]
  have hv : Reg.common.irqEnable.merge (s.get u Reg.common.irqEnable) 0x14 0xFFFF_FFFF (v % 2 ^ 32) = v % 2 ^ 32 := by
    have h : v % 2 ^ 32 < 2 ^ 32 := Nat.mod_lt _ (by decide)
    exact (Field.merge_whole (f := Reg.common.irqEnable) rfl (by decide) (State.get_lt s u _) _).trans (bits_of_lt h)
  unfold State.writeField
  dsimp only
  rw [hm, hv]
  rfl

/-- Settles O19: an access reaches its word, and the word its fields. -/
theorem registerWritesReachTheirField : Obligations.RegisterWritesReachTheirField := by
  intro s src u v addr size ha hu
  refine ⟨fun hw => ?_, fun hw => ?_, fun hw off hz ho hs => ?_, fun hr hs => congrArg Host.Outcome.next (State.busWrite_misfit ha hr hs src v)⟩
  all_goals refine congrArg Host.Outcome.next ?_
  · rw [State.busWrite_page ha hu (by decide) (Or.inl rfl) (by decide), State.pageWrite_word hu hw,
      State.writeWord_single s src (by decide) (by decide) (wordTargets_irqEnable u.blk), State.writeField_irqEnable]
    exact State.accessEnds_plain _ u _ _ rfl rfl
  · rw [State.busWrite_page ha hu (by decide) (Or.inl rfl) (by decide), State.pageWrite_word hu hw,
      State.writeWord_readOnly s src (by decide) (by decide) (wordTargets_status u.blk)]
    exact State.accessEnds_plain s u _ _ (by simp) (by simp)
  · rw [State.busWrite_page ha hu ho hs (by rcases hs with rfl | rfl <;> omega), State.pageWrite_denied hu hw]

/-! ## Shadows (R578) -/

/-- Putting an entry in place of those that a test picks out, or at the end where there is none, makes it the first that the test finds. -/
theorem find_update {α : Type} (p : α → Bool) (q : α → Prop) [DecidablePred q] (hq : ∀ x, q x ↔ p x = true) {e : α} (he : p e = true) (l : List α) :
    (if (l.find? p).isSome = true then l.map (fun x => if q x then e else x) else l ++ [e]).find? p = some e := by
  split
  · next h =>
    induction l with
    | nil => simp at h
    | cons x r ih =>
      by_cases hx : p x = true
      · simp [(hq x).2 hx, he]
      · have hr : (r.find? p).isSome = true := by simpa [List.find?_cons, hx] using h
        have hn : ¬ q x := fun h => hx ((hq x).1 h)
        rw [List.map_cons, if_neg hn, List.find?_cons_of_neg hx]
        exact ih hr
  · next h =>
    have hl : l.find? p = none := by simpa using h
    rw [List.find?_append, hl, Option.none_or, List.find?_cons_of_pos he]

/-- The opener's write within the transaction's scope is the first shadow of its field; of the transaction it changes the shadows and the
conflict that it may have found. -/
theorem State.shadowWrite_opener {s : State} {src : Src} {t : TxnRec} (ht : s.txn = some t) (ha : t.applying = false) (ho : t.opener = src)
    {u : UnitId} {f : Field} (hs : s.inScope t u f = true) (off mask value : Nat) :
    ∃ sh c, s.shadowWrite src u f off mask value = ({ s with txn := some { t with shadow := sh, conflict := c } }, 0) ∧
      sh.find? (fun e => e.base == u.home f && sameField e.field f) =
        some ⟨u.page, u.home f, f, f.limited (f.merge (s.proposed u f) off mask value)⟩ := by
  have hp : (u.home f == u.home f && sameField f f) = true := by simp [sameField]
  unfold State.shadowWrite
  rw [ht]
  dsimp only
  rw [if_neg (by simp [ha]), if_neg (by simp [ho]), if_neg (by simp [hs])]
  exact ⟨_, _, rfl, find_update (fun e => e.base == u.home f && sameField e.field f) _ (fun x => by simp) hp t.shadow⟩

/-- Outside a transaction a shadow takes nothing (R9). -/
theorem State.shadowWrite_none {s : State} (ht : s.txn = none) (src : Src) (u : UnitId) (f : Field) (off mask value : Nat) :
    s.shadowWrite src u f off mask value = (s, 1) := by
  unfold State.shadowWrite
  rw [ht]

/-- From another path than the opener's it takes nothing either (R578). -/
theorem State.shadowWrite_foreign {s : State} {src : Src} {t : TxnRec} (ht : s.txn = some t) (ha : t.applying = false) (ho : t.opener ≠ src)
    (u : UnitId) (f : Field) (off mask value : Nat) : s.shadowWrite src u f off mask value = (s, 2) := by
  unfold State.shadowWrite
  rw [ht]
  dsimp only
  rw [if_neg (by simp [ha]), if_pos ho]

theorem State.proposed_lt (s : State) (u : UnitId) (f : Field) : s.proposed u f < 2 ^ f.width := by
  unfold State.proposed
  split
  · exact State.get_lt s u f
  · next t _ =>
    cases t.shadow.find? (fun e => e.base == u.home f && sameField e.field f) with
    | none => exact State.get_lt s u f
    | some e => exact Nat.mod_lt _ (Nat.two_pow_pos _)

/-- With a transaction open, a field whose shadow stands first among the shadows has that shadow's value. -/
theorem State.proposed_shadow {s : State} {t : TxnRec} (ht : s.txn = some t) {u : UnitId} {f : Field} {e : Shadow}
    (h : t.shadow.find? (fun e => e.base == u.home f && sameField e.field f) = some e) : s.proposed u f = e.value % 2 ^ f.width := by
  unfold State.proposed
  rw [ht]
  dsimp only
  rw [h]
  rfl

/-! ## TXN.FLIP_TARGET -/

theorem wordTargets_flipTarget : wordTargets .ctu 0x114 = [Reg.ctu.txnFlipTarget] := by decide

/-- What became of a write of a transactional field, by the number that `shadowWrite` answers. -/
def shadowTaken : Nat → Taken
  | 0 => .shadow
  | 1 => .ignored
  | 2 => .foreign
  | _ => .ok

/-- A write of the flip target is a write of shadows. -/
theorem State.writeField_flipTarget (s : State) (src : Src) (v : Nat) {r : State × Nat}
    (hr : s.shadowWrite src ctuU Reg.ctu.txnFlipTarget 0x114 0xFFFF_FFFF v = r) :
    s.writeField src false ctuU Reg.ctu.txnFlipTarget 0x114 0xFFFF_FFFF v =
      (r.1, shadowTaken r.2) := by
  have hm : s.minimalRefuses ctuU Reg.ctu.txnFlipTarget = false := by
    unfold State.minimalRefuses
    rw [show (ctuU.blk == Blk.hif) = false from rfl, Bool.and_false]
    rfl
  subst hr
  unfold State.writeField
  dsimp only
  rw [hm]
  rfl

/-- RWT_WRITE of the flip target, by what the shadows made of it. -/
theorem execRwtWrite_flipTarget {s : State} {src : Src} (hw : s.mayWrite src ctuU = true) (v : Nat) {t : State} {k : Nat}
    (hr : s.shadowWrite src ctuU Reg.ctu.txnFlipTarget 0x114 0xFFFF_FFFF (v % 2 ^ 32) = (t, k)) :
    execRwtWrite src (ctuU.base + 0x114) 4 v s =
      .next (t.accessEnds ctuU 0x114 4 [shadowTaken k]) := by
  have hu : ctuU.valid = true := by decide
  unfold execRwtWrite
  rw [State.busWrite_page (mayWrite_awake hw) hu (by decide) (Or.inl rfl) (by decide), State.pageWrite_word hu hw,
    State.writeWord_single s src (by decide) (by decide) wordTargets_flipTarget, State.writeField_flipTarget s src _ hr]

/-- What the flip target takes of a written word. -/
theorem limited_flipTarget (s : State) (v : Nat) :
    Reg.ctu.txnFlipTarget.limited (Reg.ctu.txnFlipTarget.merge (s.proposed ctuU Reg.ctu.txnFlipTarget) 0x114 0xFFFF_FFFF (v % 2 ^ 32)) = v % 2 := by
  have hm : Reg.ctu.txnFlipTarget.merge (s.proposed ctuU Reg.ctu.txnFlipTarget) 0x114 0xFFFF_FFFF (v % 2 ^ 32) = bits (v % 2 ^ 32) 0 1 :=
    Field.merge_whole (f := Reg.ctu.txnFlipTarget) rfl (by decide) (State.proposed_lt s ctuU _) _
  have hb : bits (v % 2 ^ 32) 0 1 = v % 2 := by unfold bits; omega
  rw [hm, hb]
  exact (Nat.mul_one _).trans (Nat.div_one _)

/-- Settles O20, by what a shadow makes of the write. -/
theorem transactionalWritesLandInShadows : Obligations.TransactionalWritesLandInShadows := by
  intro s src v hw
  refine ⟨fun hn => ?_, fun t ht ha ho hk => ?_, fun t ht ha ho => ?_⟩
  · exact execRwtWrite_flipTarget hw v (State.shadowWrite_none hn src _ _ _ _ _)
  · have hs : s.inScope t ctuU Reg.ctu.txnFlipTarget = true := by
      unfold State.inScope
      simp [hk]
    obtain ⟨sh, c, hr, hf⟩ := State.shadowWrite_opener ht ha ho hs 0x114 0xFFFF_FFFF (v % 2 ^ 32)
    refine ⟨_, execRwtWrite_flipTarget hw v hr, ?_, rfl, _, rfl, rfl⟩
    rw [State.proposed_shadow (t := { t with shadow := sh, conflict := c, writes := _ }) rfl hf, limited_flipTarget]
    exact Nat.mod_mod _ _
  · exact execRwtWrite_flipTarget hw v (State.shadowWrite_foreign ht ha ho _ _ _ _ _)

end Sys2Proof.Machine
end

section
/-!
SUPPORT. A port whose FORCE bit was stored while it ran (R40, R44): clearing its ENABLE does not leave it DRAINING.
-/
namespace Sys2Proof.Machine

/-- A command on a page by a source that may write it. -/
theorem State.onPage_writer {s : State} {u : UnitId} {src : Src} (hu : u.valid = true) (hw : s.mayWrite src u = true) (k : State → State) :
    s.onPage u src k = .next (k s) := by
  unfold State.onPage
  rw [if_neg (by simp [hu]), if_pos hw]

/-- A module out of MOD_RST whose port 0 runs, with its link OFF: CTRL holds ENABLE and FORCE, STATUS holds RUNNING. -/
def forcedPort : State :=
  { State.reset with
    sys := { State.reset.sys with modRst := false }
    regs := [(0xF0_0008, 9), (0xF0_000C, 2)] }

/-- It is what CTRL_FORCE leaves of the same port without FORCE. -/
theorem forcedPort_reached : exec (.ctrlForce (bvlU 0) .pf) { forcedPort with regs := [(0xF0_000C, 2)] } = .next forcedPort := by
  have hw : ({ forcedPort with regs := [(0xF0_000C, 2)] } : State).mayWrite .pf (bvlU 0) = true := by decide +kernel
  have ht : ({ forcedPort with regs := [(0xF0_000C, 2)] } : State).forceTo (bvlU 0) true = forcedPort := by decide +kernel
  have h := State.onPage_writer (by decide) hw (fun t => t.forceTo (bvlU 0) true)
  rw [ht] at h
  exact h

/-- FORCE does not act on the running port: it acts only with ENABLE clear, while the unit drains (R44). -/
theorem forcedPort_running : forcedPort.mayWrite .pf (bvlU 0) = true ∧ forcedPort.ustate (bvlU 0) = stRunning ∧
    forcedPort.forced (bvlU 0) = false ∧ forcedPort.linkState 0 ≠ lkRecovering := by decide +kernel

/-- Once ENABLE is cleared FORCE acts, and a port whose link is not up is off at once. -/
theorem forcedPort_enableClear : (forcedPort.enableClear (bvlU 0)).ustate (bvlU 0) = stQuiesced := by decide +kernel

/-- Refutes O9: FORCE that was stored while a port ran begins to act when CTRL_ENABLE_CLEAR takes ENABLE away, so the port is QUIESCED after the
command, and the statement has it DRAINING. -/
theorem not_pageControlsTakeEffect : ¬ Obligations.PageControlsTakeEffect := by
  intro ⟨controls, _⟩
  obtain ⟨hw, hr, hf, hl⟩ := forcedPort_running
  have hu : (bvlU 0).valid = true := by decide
  obtain ⟨_, _, clears, _⟩ := controls forcedPort (bvlU 0) .pf hu hw
  obtain ⟨drains, _⟩ := clears (by decide) hr hf
  have h := (State.onPage_writer hu hw (fun t => t.enableClear (bvlU 0))).symm.trans (drains (by decide) (fun h => absurd h (by decide)) (fun _ => hl))
  have hs : stQuiesced = stDraining :=
    calc stQuiesced = (forcedPort.enableClear (bvlU 0)).ustate (bvlU 0) := forcedPort_enableClear.symm
      _ = _ := congrArg (fun t => State.ustate t (bvlU 0)) (Host.Outcome.next.inj h)
      _ = stDraining := State.setState_ustate _ hu (by decide)
  exact absurd hs (by decide)

end Sys2Proof.Machine
end

section
/-!
SUPPORT. How an engine runs the lane at the head of its queue (R44, R80, R86, R94, R601, R603): whether it runs, and what its job makes of it.
-/
namespace Sys2Proof.Machine

/-- A command of a unit of its own block that exists. -/
theorem atUnit_here {b : Blk} {u : UnitId} (hb : u.blk = b) (hu : u.valid = true) (s t : State) : atUnit b u s t = .next t := by
  unfold atUnit
  rw [if_pos ⟨hb, hu⟩]

/-! ## The work of a job -/

/-- The state after a job's work, from one in which its inputs were read: where ranges of its command overlap, the outputs are unspecified. -/
def Job.worked (j : Job) (clash : Bool) (t : State) : State := if clash then (j.run t).1.blur j.outs else (j.run t).1

/-- The status that a job which passed its dispatch checks is forced to end with, if any, whatever its work gives: the job's own, DATA_ERROR for
what its reads or its writes met, or the error in the engine. `met`: its reads met an error; `t`: the state after the work. -/
def Job.forced (j : Job) (ev : LaneEv) (met : Bool) (t : State) : Option Nat :=
  j.last.or (if met || t.writesFail j.outs then some 0x03 else ev.err)

theorem Job.forced_last {j : Job} {e : Nat} (h : j.last = some e) (ev : LaneEv) (met : Bool) (t : State) : j.forced ev met t = some e := by
  rw [Job.forced, h, Option.some_or]

theorem Job.forced_met {j : Job} (h : j.last = none) (ev : LaneEv) {met : Bool} {t : State} (hm : met = true ∨ t.writesFail j.outs = true) :
    j.forced ev met t = some 3 := by
  rw [Job.forced, h, Option.none_or, if_pos (by simpa using hm)]

theorem Job.forced_err {j : Job} (h : j.last = none) (ev : LaneEv) {met : Bool} {t : State} (hm : met = false) (hw : t.writesFail j.outs = false) :
    j.forced ev met t = ev.err := by
  rw [Job.forced, h, Option.none_or, hm, hw]
  rfl

section
variable {j : Job} {u : UnitId} (l : Lane) {ev : LaneEv} {clash : Bool} {s : State}

theorem Job.perform_reject {st : Nat} (h : j.reject = some st) : j.perform u l ev clash s = (st, s.poisonOuts l.part j.outs) := by
  unfold Job.perform
  rw [h]

variable (h : j.reject = none) {m : State × Bool} (hm : j.read u (blkClass u.blk) s = m)
include h hm

/-- A job that is forced to its status poisons its outputs. -/
theorem Job.perform_forced {e : Nat} (hf : j.forced ev m.2 (j.worked clash m.1) = some e) :
    j.perform u l ev clash s = (e, (j.worked clash m.1).poisonOuts l.part j.outs) := by
  subst hm
  unfold Job.forced at hf
  unfold Job.perform Job.worked at *
  rw [h]
  cases clash <;> simp only [Bool.false_eq_true, if_false, if_true] at hf ⊢ <;> rw [hf]

/-- A job with a poisoned input ends POISON_IN, any other as its work gives; either way a poisoning status marks the outputs, unless the work
itself has marked those it should. -/
theorem Job.perform_free (hf : j.forced ev m.2 (j.worked clash m.1) = none) :
    j.perform u l ev clash s =
      if m.1.poisonedIn j.reads then (2, (j.worked clash m.1).poisonOuts l.part j.outs)
      else if poisoning (j.run m.1).2 && !j.marks then ((j.run m.1).2, (j.worked clash m.1).poisonOuts l.part j.outs)
      else ((j.run m.1).2, j.worked clash m.1) := by
  subst hm
  unfold Job.forced at hf
  unfold Job.perform Job.worked at *
  rw [h]
  cases clash <;> simp only [Bool.false_eq_true, if_false, if_true] at hf ⊢ <;> rw [hf]

end

/-- A status that poisons nothing tells the page nothing (R45). -/
theorem State.sawPoison_not (s : State) (u : UnitId) {st : Nat} (h : poisoning st = false) (outs : List (Nat × Nat)) : s.sawPoison u st outs = s := by
  have h2 : st ≠ 2 := by
    rintro rfl
    exact absurd h (by decide)
  unfold State.sawPoison
  rw [if_neg (by simp [h, h2])]

/-! ## The head lane -/

/-- The head lane of a unit leaves with a status, and its unit counts the errors that it corrected meanwhile (R86, R603). -/
def State.laneEnds (s : State) (u : UnitId) (l : Lane) (rest : List Lane) (k n st : Nat) : State :=
  (s.setUnit u (fun x => { x with queue := { l with status := some st } :: rest })).correct u k n

section
variable {s : State} {u : UnitId} {l : Lane} {rest : List Lane} (hq : (s.unit u).queue = l :: rest)
include hq

/-- A lane whose lines are held stays as it is. -/
theorem State.runJob_waits (covers : Nat → Bool) (ev : LaneEv) {job : State → Lane → Job} (hw : (job s l).waits s = true) :
    s.runJob u covers ev job = s := by
  unfold State.runJob
  rw [hq]
  exact if_pos (by simp [hw])

/-- A lane that need not wait is performed. -/
theorem State.runJob_head (hn : l.status = none) (hs : s.ustate u = stRunning ∨ s.ustate u = stDraining) {covers : Nat → Bool}
    (hc : covers l.opcode = true) (ev : LaneEv) {job : State → Lane → Job} (hw : (job s l).waits s = false) (k n : Nat) {st : Nat} {t : State}
    (hp : (job s l).perform u l ev (lanesClash (l.peers (job s))) s = (st, t)) :
    (s.runJob u covers ev job).correct u k n = (t.sawPoison u st (job s l).outs).laneEnds u l rest k n st := by
  have hr : ¬(l.status.isSome || !(s.ustate u == stRunning || s.ustate u == stDraining)) = true := by
    rcases hs with hs | hs <;> simp [hn, hs]
  unfold State.runJob
  rw [hq]
  dsimp only
  rw [if_neg (by simp [hc, hw])]
  unfold State.runLane
  rw [hq]
  dsimp only
  rw [if_neg hr, hp]
  rfl

end

/-! ## The engines -/

/-- An attention engine runs while the page engine that translates for it answers (R336). -/
theorem State.runAe_answered {s : State} {u : UnitId} (h : s.lookupsHeld u = false) (covers : Nat → Bool) (ev : LaneEv) :
    s.runAe u covers ev = (s.runJob u covers ev State.aeJob).correct u 11 ev.corrected := by
  unfold State.runAe
  rw [if_neg (by simp [h])]

/-- A Shuffle engine runs every lane but a KV_WRITE whose translations are held (R336). -/
theorem State.runShf_head {s : State} {u : UnitId} {l : Lane} {rest : List Lane} (hq : (s.unit u).queue = l :: rest)
    (h : l.opcode ≠ 5 ∨ s.lookupsHeld u = false) (covers : Nat → Bool) (ev : LaneEv) :
    s.runShf u covers ev = (s.runJob u covers ev State.shfJob).correct u 9 ev.corrected := by
  unfold State.runShf
  rw [if_neg]
  rcases h with h | h <;> simp [hq, h]

/-- A DMA engine runs a lane within the module as a job. -/
theorem State.dmaRun_here {s : State} {u : UnitId} {l : Lane} {rest : List Lane} (hq : (s.unit u).queue = l :: rest) (h : s.dmaRemote l = false)
    (covers : Nat → Bool) (ev : LaneEv) : s.dmaRun u covers ev = (s.runJob u covers ev (fun t l => t.dmaJob u l)).correct u 7 ev.corrected := by
  unfold State.dmaRun
  rw [hq]
  dsimp only
  rw [if_pos (by simp [h])]

/-- Settles O22: each engine's command is a run of the head lane's job, and the job's course gives the status. -/
theorem enginesRunTheirHeadLane : Obligations.EnginesRunTheirHeadLane := by
  intro s u ev l rest c covers k b job hrow hb hu hq hn hc hs hdma hheld j m w r ends spoiled
  have here (t : State) : atUnit b u s t = .next t := atUnit_here hb hu s t
  have runs : exec c s = .next ((s.runJob u covers ev job).correct u k ev.corrected) := by
    simp only [List.mem_cons, Prod.mk.injEq, List.not_mem_nil, or_false] at hrow
    rcases hrow with h | h | h | h | h | h | h | h | h | h | h | h | h | h | h | h | h | h | h | h | h | h | h | h
    all_goals obtain ⟨rfl, rfl, rfl, rfl, rfl⟩ := h
    -- three commands of the tiles, five of attention, five elementwise, five of Shuffle, two of the routers, one of sampling, three of DMA
    iterate 3 exact here _
    iterate 5 exact (here _).trans (congrArg Host.Outcome.next (State.runAe_answered (hheld (Or.inl rfl)) _ ev))
    iterate 5 exact here _
    iterate 4 exact (here _).trans (congrArg Host.Outcome.next (State.runShf_head hq (Or.inl fun h => by simp [h] at hc) _ ev))
    · exact (here _).trans (congrArg Host.Outcome.next (State.runShf_head hq (Or.inr (hheld (Or.inr rfl))) _ ev))
    iterate 3 exact here _
    iterate 3 exact (here _).trans (congrArg Host.Outcome.next (State.dmaRun_here hq (hdma rfl) _ ev))
  have hm : j.read u (blkClass u.blk) s = m := by rw [hb]
  have ended (hw : j.waits s = false) {st : Nat} {t : State} (hp : j.perform u l ev (lanesClash (l.peers (job s))) s = (st, t)) :
      exec c s = .next (ends (t.sawPoison u st j.outs) st) :=
    runs.trans (congrArg Host.Outcome.next (State.runJob_head hq hn hs hc ev hw k ev.corrected hp))
  refine ⟨fun hw => by rw [runs, State.runJob_waits hq covers ev hw], fun hw => ⟨fun st hr => ?_, fun e hr hl => ?_, fun hr hl => ⟨fun hmet => ?_, ?_⟩⟩⟩
  · exact ended hw (Job.perform_reject l hr)
  · exact ended hw (Job.perform_forced l hr hm (Job.forced_last hl ev _ _))
  · exact ended hw (Job.perform_forced l hr hm (Job.forced_met hl ev hmet))
  intro hmet hwr
  refine ⟨fun e he => ?_, fun he => ?_⟩
  · exact ended hw (Job.perform_forced l hr hm ((Job.forced_err hl ev hmet hwr).trans he))
  · have performed := Job.perform_free l hr hm (ev := ev) (clash := lanesClash (l.peers (job s))) ((Job.forced_err hl ev hmet hwr).trans he)
    refine ⟨fun hp => ?_, fun hp hst => ?_, fun hp hst => ?_⟩
    · exact ended hw (performed.trans (if_pos hp))
    · have h := ended hw ((performed.trans (if_neg (by simp [hp]))).trans (if_neg (by simp [show poisoning (j.run m.1).2 = false from hst])))
      rwa [State.sawPoison_not _ _ hst] at h
    · have hst' : poisoning (j.run m.1).2 = true := hst
      have clean := performed.trans (if_neg (by simp [hp]))
      cases hk : j.marks with
      | false => exact ended hw (clean.trans (if_pos (by simp [hst', hk])))
      | true => exact ended hw (clean.trans (if_neg (by simp [hk])))

end Sys2Proof.Machine
end

section
/-!
SUPPORT. Absent pages (R35) and the page identifiers of present ones (R37).
-/
namespace Sys2Proof.Machine

section
variable {page : Nat} (h : unitOfPage page = none)
include h

theorem State.readWord_reserved (s : State) (src : Src) (off : Nat) : s.readWord src page off = (0, s) := by
  unfold State.readWord
  rw [h]

theorem State.readWords_reserved (s : State) (src : Src) : ∀ n off : Nat, s.readWords src page off n = (List.replicate n 0, s)
  | 0, _ => rfl
  | n + 1, off => by
    rw [State.readWords, State.readWord_reserved h s src off, State.readWords_reserved s src n (off + 4)]
    rfl

theorem State.pageWrite_reserved (s : State) (src : Src) (off size data : Nat) : s.pageWrite src page off size data = s := by
  unfold State.pageWrite
  rw [h]

/-- A write over BAR0 that fits its size changes nothing there. -/
theorem State.busWrite_reserved (s : State) (src : Src) {off size : Nat} (data : Nat) (hp : page < 0x4000) (ho : off < 0x1000) (hz : off % size = 0)
    (hs : size = 4 ∨ size = 8) : s.busWrite src (page * 0x1000 + off) size data = s := by
  have hb : (page * 0x1000 + off) % size = 0 := by rcases hs with rfl | rfl <;> omega
  have hd : (page * 0x1000 + off) / 0x1000 = page := by omega
  have hm : (page * 0x1000 + off) % 0x1000 = off := by omega
  have hr : page * 0x1000 + off < 0x400_0000 := by omega
  have hf : ((size == 4 || size == 8) && (page * 0x1000 + off) % size == 0) = true := by simpa [hb] using hs
  unfold State.busWrite
  rw [hf, hd, hm, State.pageWrite_reserved h]
  refine (if_pos hr).trans ?_
  cases s.awake <;> rfl

end

/-- The first word of a page is its PAGE_ID (R37). -/
theorem State.pageWord_pageId (s : State) (u : UnitId) : s.pageWord u 0 = (s.word u.base).toNat := by
  have hf : Reg.common.all.flatMap (fun f => f.instances 0) = [Reg.common.pageId] := by decide
  have hp : Reg.common.pageId.part 0 = (0, 0, 32) := by decide
  have hw := State.get_eq_word s u (f := Reg.common.pageId) rfl rfl (by decide) (by decide)
  rw [show u.base + Reg.common.pageId.off = u.base from Nat.add_zero _] at hw
  rw [State.pageWord_common s u (by decide), hf, List.foldl_cons, List.foldl_nil, hp,
    State.readField_common s u (by decide) (by decide) (by decide) (by decide)]
  have hb : bits (s.get u Reg.common.pageId) 0 32 = (s.word u.base).toNat :=
    (bits_of_lt (State.get_lt s u Reg.common.pageId)).trans (hw.trans (bits_of_lt (s.word u.base).isLt))
  exact (Nat.zero_add _).trans ((Nat.mul_one _).trans hb)

/-- PAGE_ID of a unit that exists: block code, index and version (R37, R38). -/
theorem wordReset_base {u : UnitId} (hu : u.valid = true) : wordReset u.base = BitVec.ofNat 32 (blkCode u.blk * 0x1_0000 + u.ix * 16 + 1) := by
  have h0 : (0 : Nat) < 0x1000 := by decide
  rw [← Nat.add_zero u.base]
  unfold wordReset
  rw [if_pos (UnitId.base_lt hu h0), UnitId.base_page u h0, UnitId.base_off u h0, unitOfPage_page hu]
  rfl

/-- Settles O56: an absent page is no unit's, and a PAGE_ID is odd, since its version is 1. -/
theorem absentPagesReadZero : Obligations.AbsentPagesReadZero := by
  refine ⟨fun page h s src => ⟨fun off n => State.readWords_reserved h s src n off, fun off size data hp ho hz hs => ?_,
    State.pageWrite_reserved h s src⟩, fun u hu s hr h0 => ?_⟩
  · have hb := State.busWrite_reserved h s src data hp ho hz hs
    exact ⟨congrArg Host.Outcome.next hb, congrArg Host.Outcome.next hb⟩
  · rw [State.pageWord_pageId, hr, wordReset_base hu, BitVec.toNat_ofNat] at h0
    omega

end Sys2Proof.Machine
end

section
/-!
SUPPORT. What an interrupt and a count leave alone, and the SEC mailbox (R33, R500, R584).
-/
namespace Sys2Proof.Machine

/-! ## Interrupts -/

/-- The state s with the register words, the counts and the messages sent of another. -/
def State.withSignals (s t : State) : State := { s with regs := t.regs, counts := t.counts, out := t.out }

/-- From s to t nothing changes but register words, counts and what leaves the block. -/
def State.OnlySignals (s t : State) : Prop := t = s.withSignals t

theorem State.OnlySignals.trans {s t v : State} (h : s.OnlySignals t) (k : t.OnlySignals v) : s.OnlySignals v :=
  calc v = t.withSignals v := k
    _ = (s.withSignals t).withSignals v := congrArg (fun x : State => x.withSignals v) h
    _ = s.withSignals v := rfl

theorem State.OnlySignals.sec {s t : State} (h : s.OnlySignals t) : t.sec = s.sec := by rw [h]; rfl

theorem State.OnlySignals.mem {s t : State} (h : s.OnlySignals t) : t.mem = s.mem := by rw [h]; rfl

theorem State.put_onlySignals (s : State) (u : UnitId) (f : Field) (v : Nat) : s.OnlySignals (s.put u f v) :=
  calc s.put u f v = State.withSignals { s.put u f v with regs := s.regs } (s.put u f v) := rfl
    _ = s.withSignals (s.put u f v) := by rw [State.put_frame]

theorem State.sendVector_onlySignals (s : State) (vf : Option Nat) (k : Nat) : s.OnlySignals (s.sendVector vf k) := by
  unfold State.sendVector
  split <;> rfl

theorem State.msix_onlySignals (s : State) (vf : Option Nat) (k : Nat) : s.OnlySignals (s.msix vf k) := by
  unfold State.msix
  dsimp only
  split
  · exact State.sendVector_onlySignals s vf k
  · have h (v : Nat) := (State.sendVector_onlySignals s vf k).trans (State.put_onlySignals _ hifU Reg.common.irqStatus v)
    split
    · exact h _
    · exact (h _).trans (State.sendVector_onlySignals _ none 1)

theorem State.pageInterrupt_onlySignals (s : State) (u : UnitId) : s.OnlySignals (s.pageInterrupt u) := by
  unfold State.pageInterrupt
  dsimp only
  split
  · split
    · exact (State.msix_onlySignals s none 1).trans (State.msix_onlySignals _ _ 3)
    · exact State.msix_onlySignals s none 1
  · exact State.msix_onlySignals s none 1

theorem State.irq_onlySignals (s : State) (u : UnitId) (mask : Nat) : s.OnlySignals (s.irq u mask) := by
  have h := State.put_onlySignals s u Reg.common.irqStatus (s.get u Reg.common.irqStatus ||| mask)
  unfold State.irq
  dsimp only
  split
  · exact h
  · exact h.trans (State.pageInterrupt_onlySignals _ u)

theorem State.count_onlySignals (s : State) (u : UnitId) (k n : Nat) : s.OnlySignals (s.count u k n) := by
  have h (c : Sparse Nat) : s.OnlySignals { s with counts := c } := rfl
  unfold State.count
  dsimp only
  split
  · exact h _
  · exact (h _).trans (State.irq_onlySignals _ u _)

/-- A count leaves the fields of every page but IRQ_STATUS. -/
theorem State.count_get {w : UnitId} (hw : w.valid = true) {f : Field} (hf : f.besideIrq = true) (s : State) (u : UnitId) (k n : Nat) :
    (s.count u k n).get w f = s.get w f := by
  have h (c : Sparse Nat) : ({ s with counts := c } : State).get w f = s.get w f := State.get_of_regs (by rfl) w f
  unfold State.count
  dsimp only
  split
  · exact h _
  · exact (State.irq_get hw hf _ u _).trans (h _)

/-! ## The mailbox -/

/-- A mailbox command: refused unseen where it is not taken, ended with result 1 for a partition above 7, and else run. -/
def State.mboxRun (s : State) (src : Src) (code part a0 a1 : Nat) (k : State → State) : State :=
  match s.mboxTake src code part a0 a1 with
  | none => s
  | some t => if 8 ≤ part then t.mboxEnd 1 0 else k t

section
variable {s : State} {src : Src} {code part a0 a1 : Nat}

theorem State.mboxTake_vf (h : notVf src = false) : s.mboxTake src code part a0 a1 = none := by
  cases src with
  | vf _ => rfl
  | _ => exact absurd h (by decide)

theorem State.mboxTake_busy (h : s.flag secU Reg.sec.mboxBusy = true ∨ s.ustate s.mccHolder = stFaulted) : s.mboxTake src code part a0 a1 = none := by
  have hb : (s.flag secU Reg.sec.mboxBusy || s.ustate s.mccHolder == stFaulted) = true := by simpa using h
  cases src with
  | vf _ => rfl
  | _ => exact if_pos hb

/-- A command that is taken leaves its fields in the mailbox. -/
theorem State.mboxTake_free (hv : notVf src = true) (hb : s.flag secU Reg.sec.mboxBusy = false) (hm : s.ustate s.mccHolder ≠ stFaulted) :
    ∃ t, s.mboxTake src code part a0 a1 = some t ∧ s.OnlySignals t := by
  have hn : ¬(s.flag secU Reg.sec.mboxBusy || s.ustate s.mccHolder == stFaulted) = true := by simp [hb, hm]
  refine ⟨_, ?_, (((State.put_onlySignals s secU Reg.sec.mboxCmd code).trans (State.put_onlySignals _ secU Reg.sec.mboxPart part)).trans
    (State.put_onlySignals _ secU Reg.sec.mboxArg0 a0)).trans (State.put_onlySignals _ secU Reg.sec.mboxArg1 a1)⟩
  cases src with
  | vf _ => exact absurd hv Bool.false_ne_true
  | _ => exact if_neg hn

end

/-- The end of a mailbox command changes registers and signals it. -/
theorem State.mboxEnd_onlySignals (s : State) (r out : Nat) : s.OnlySignals (s.mboxEnd r out) := by
  have h := ((((State.put_onlySignals s secU Reg.sec.mboxBusy 0).trans (State.put_onlySignals _ secU Reg.sec.mboxResult r)).trans
    (State.put_onlySignals _ secU Reg.sec.mboxOut0 out)).trans (State.count_onlySignals _ s.mccHolder 2 1)).trans
    (State.irq_onlySignals _ secU (2 ^ 16))
  unfold State.mboxEnd
  dsimp only
  split
  · exact h.trans (State.irq_onlySignals _ secU _)
  · exact h

/-- A field of the SEC page beside IRQ_STATUS after the end of a mailbox command is what the writes of BUSY, RESULT and OUT0 leave. -/
theorem State.mboxEnd_get (s : State) (r out : Nat) {f : Field} (hf : f.besideIrq = true) :
    (s.mboxEnd r out).get secU f =
      (((s.put secU Reg.sec.mboxBusy 0).put secU Reg.sec.mboxResult r).put secU Reg.sec.mboxOut0 out).get secU f := by
  have hs : secU.valid = true := by decide
  unfold State.mboxEnd
  dsimp only
  split
  · rw [State.irq_get hs hf, State.irq_get hs hf, State.count_get hs hf]
  · rw [State.irq_get hs hf, State.count_get hs hf]

theorem State.mboxEnd_result (s : State) (r out : Nat) : (s.mboxEnd r out).get secU Reg.sec.mboxResult = r % 2 ^ Reg.sec.mboxResult.width := by
  rw [State.mboxEnd_get s r out (by decide), State.get_put_apart _ secU secU _ _ out (by decide) (by decide) (by decide), State.get_put_same]

theorem State.mboxEnd_busy (s : State) (r out : Nat) : (s.mboxEnd r out).get secU Reg.sec.mboxBusy = 0 := by
  rw [State.mboxEnd_get s r out (by decide), State.get_put_apart _ secU secU _ _ out (by decide) (by decide) (by decide),
    State.get_put_apart _ secU secU _ _ r (by decide) (by decide) (by decide), State.get_put_same, Nat.zero_mod]

/-- Settles O39: all nine commands pass the one door of the mailbox. -/
theorem mailboxTakesOneCommand : Obligations.MailboxTakesOneCommand := by
  intro s src part a b x hx
  have hd : ∃ a0 a1 k, exec x.2 s = .next (s.mboxRun src x.1 part a0 a1 k) := by
    simp only [List.mem_cons, List.not_mem_nil, or_false] at hx
    rcases hx with rfl | rfl | rfl | rfl | rfl | rfl | rfl | rfl | rfl
    · exact ⟨0, 0, fun t => t.sessionOpen part, rfl⟩
    · exact ⟨0, 0, fun t => t.sessionClose part, rfl⟩
    · exact ⟨a, b, fun t => t.importBegin part a b, rfl⟩
    · exact ⟨a, b, fun t => t.importRun part a b, rfl⟩
    · exact ⟨0, 0, fun t => t.importEnd part, rfl⟩
    · exact ⟨0, 0, fun t => t.importAbort part, rfl⟩
    · exact ⟨0, 0, fun t => t.unseal part, rfl⟩
    · exact ⟨0, 0, fun t => t.debugChallenge, rfl⟩
    · exact ⟨a, 0, fun t => t.debugUnlock part a, rfl⟩
  obtain ⟨a0, a1, k, he⟩ := hd
  rw [he]
  unfold State.mboxRun
  refine ⟨fun h => ?_, fun h => ?_, fun hv hb hm hp => ?_⟩
  · rw [State.mboxTake_vf h]
  · rw [State.mboxTake_busy h]
  · obtain ⟨t, ht, hs⟩ := State.mboxTake_free (code := x.1) (part := part) (a0 := a0) (a1 := a1) hv hb hm
    have h := hs.trans (State.mboxEnd_onlySignals t 1 0)
    rw [ht]
    exact ⟨_, congrArg Host.Outcome.next (if_pos hp), State.mboxEnd_result t 1 0, State.mboxEnd_busy t 1 0, h.sec, h.mem⟩

end Sys2Proof.Machine
end

section
/-!
SUPPORT. PLAN.LOAD and PLAN.UNLOAD (R33, R98, R370).
-/
namespace Sys2Proof.Machine

/-- The record of a partition after it was changed. -/
theorem State.setPart_same (s : State) (p : Nat) (f : PartRec → PartRec) : (s.setPart p f).part p = f (s.part p) := by
  rw [State.setPart_part, if_pos rfl]

/-- The record of another partition. -/
theorem State.setPart_other (s : State) {p q : Nat} (h : q ≠ p) (f : PartRec → PartRec) : (s.setPart p f).part q = s.part q := by
  rw [State.setPart_part, if_neg h]

/-- The operands of a command on a plan slot land in the DLR page. -/
def State.planAt (s : State) (part pslot : Nat) : State := (s.put dlrU Reg.dlr.planPart part).put dlrU Reg.dlr.planPslot pslot

section
variable {s : State} {src : Src} {part pslot : Nat}

section
variable (hv : notVf src = true)
include hv

/-- A file that passes every check makes its plan present, among the plans of its partition. -/
theorem execPlanLoad_passed (h : (s.planAt part pslot).planResult part pslot ((s.planAt part pslot).get dlrU Reg.dlr.planAddr) = 0) :
    ∃ present, execPlanLoad src part pslot s = .next ((((s.planAt part pslot).put dlrU Reg.dlr.planResult 0).put dlrU Reg.dlr.planPresent present).setPart
      part (fun x => { x with
        plans := (pslot, dgaKey ((s.planAt part pslot).get dlrU Reg.dlr.planAddr)) :: x.plans
        mismatched := x.mismatched.filter (fun m => m != pslot) })) := by
  unfold State.planAt at h ⊢
  unfold execPlanLoad
  rw [if_neg (by simp [hv])]
  dsimp only
  rw [h, if_pos rfl]
  exact ⟨_, rfl⟩

/-- One that fails a check leaves its result. -/
theorem execPlanLoad_failed (h : (s.planAt part pslot).planResult part pslot ((s.planAt part pslot).get dlrU Reg.dlr.planAddr) ≠ 0) :
    execPlanLoad src part pslot s = .next ((s.planAt part pslot).put dlrU Reg.dlr.planResult
      ((s.planAt part pslot).planResult part pslot ((s.planAt part pslot).get dlrU Reg.dlr.planAddr))) := by
  unfold State.planAt at h ⊢
  unfold execPlanLoad
  rw [if_neg (by simp [hv])]
  dsimp only
  rw [if_neg h]

/-- The unload of a loaded plan begins. -/
theorem execPlanUnload_loaded (hp : (s.part part).plans.any (fun x => x.1 == pslot) = true) (hu : (s.part part).unloading.contains pslot = false) :
    execPlanUnload src part pslot s =
      .next (((s.planAt part pslot).put dlrU Reg.dlr.planBusy 1).setPart part (fun x => { x with unloading := pslot :: x.unloading })) := by
  unfold execPlanUnload
  rw [if_neg (by simp [hv])]
  dsimp only
  rw [State.put_part, State.put_part, hp, hu]
  rfl

end

/-- A virtual function loads no plan and unloads none (R33). -/
theorem execPlan_vf (v : Nat) : execPlanLoad (.vf v) part pslot s = .next s ∧ execPlanUnload (.vf v) part pslot s = .next s := ⟨rfl, rfl⟩

/-- A plan under unload that no step uses leaves its slot. -/
theorem execPlanUnloadDone_idle (hu : (s.part part).unloading.contains pslot = true) (hs : (s.part part).step = none) :
    execPlanUnloadDone part pslot s = .next (s.dropPlan part pslot) := by
  unfold execPlanUnloadDone
  rw [hs, hu]
  rfl

end

/-- What becomes of a partition's plans and of what lies beyond them when a plan leaves its slot. -/
theorem State.dropPlan_frame (s : State) (part pslot : Nat) :
    ((s.dropPlan part pslot).part part).plans = (s.part part).plans.filter (fun y => y.1 != pslot) ∧
      (s.dropPlan part pslot).mem = s.mem ∧ (s.dropPlan part pslot).units = s.units ∧ (s.dropPlan part pslot).out = s.out := by
  have hp (l : List PredRec) : ({ s with pred := l } : State).part part = s.part part := rfl
  unfold State.dropPlan
  dsimp only
  split <;> simp [State.setPart_same, hp]

/-- Settles O11, by the lemma about each command. -/
theorem plansLoadAndUnload : Obligations.PlansLoadAndUnload := by
  refine ⟨?_, fun s v part pslot => execPlan_vf v⟩
  intro s src part pslot hv s0 r
  refine ⟨fun h => ?_, execPlanLoad_failed hv, execPlanUnload_loaded hv, fun hu hs => ?_⟩
  · obtain ⟨present, he⟩ := execPlanLoad_passed hv h
    refine ⟨_, he, ?_, ?_, ?_, ?_, ?_, fun q hq => ?_⟩
    · rw [State.setPart_same]
      simp [State.planAt, s0]
    · simp [State.planAt]
    · simp [State.planAt]
    · simp [State.planAt]
    · simp [State.planAt]
    · rw [State.setPart_other _ hq]
      simp [State.planAt]
  · exact ⟨_, execPlanUnloadDone_idle hu hs, State.dropPlan_frame s part pslot⟩

end Sys2Proof.Machine
end

section
/-!
SUPPORT. Where a step's templates and lanes go, and how kernels start and end (R84 to R87, R101, R227 to R238, R362).
-/
namespace Sys2Proof.Machine

/-! ## Templates (R84, R85, R101) -/

/-- The lanes that template i of a running step becomes, in lane order. -/
def State.lanesOf (s : State) (p : Nat) (t : StepRec) (i : Nat) : List Lane :=
  (List.range ((s.tmpl (s.stepPlan p t) i).spanM1 + 1)).map (fun l =>
    s.laneOf p t (s.tmpl (s.stepPlan p t) i) i l (s.substituted (s.stepPlan p t) i (s.substSrc p t)))

theorem State.lanesOf_length (s : State) (p : Nat) (t : StepRec) (i : Nat) :
    (s.lanesOf p t i).length = (s.tmpl (s.stepPlan p t) i).spanM1 + 1 := by
  rw [State.lanesOf, List.length_map, List.length_range]

section
variable {s : State} {part tmpl : Nat} {t : StepRec} (hr : s.running part = some t) (hi : tmpl < (s.planHdr (s.stepPlan part t)).templates)
  (hw : t.inWindow tmpl = true) (hm : s.waitMet t (s.tmpl (s.stepPlan part t) tmpl) = true)
include hr hi hw hm

/-- A template whose wait is met leaves its lanes waiting. -/
theorem execTemplateIssue_met (hk : t.skips (s.tmpl (s.stepPlan part t) tmpl) = false) (hc : (s.tmpl (s.stepPlan part t) tmpl).eclass ≠ 10) :
    execTemplateIssue part tmpl s = .next ((s.tmplRead part (s.stepPlan part t) tmpl).setPart part (fun r =>
      { r with step := r.step.map (fun y => { y.finish tmpl with waiting := y.waiting ++ s.lanesOf part t tmpl }) })) := by
  unfold execTemplateIssue
  rw [hr]
  dsimp only
  rw [if_pos (by simp [hi, hw, hm, hk, hc])]
  rfl

/-- One that the step skips signals for all of its lanes. -/
theorem execTemplateSkip_met (hk : t.skips (s.tmpl (s.stepPlan part t) tmpl) = true) :
    execTemplateSkip part tmpl s = .next (((s.tmplRead part (s.stepPlan part t) tmpl).signal (t.counter (s.tmpl (s.stepPlan part t) tmpl).sigId)
      ((s.tmpl (s.stepPlan part t) tmpl).sigInc * ((s.tmpl (s.stepPlan part t) tmpl).spanM1 + 1))).setPart part (fun r =>
        { r with step := r.step.map (fun y => y.finish tmpl) })) := by
  unfold execTemplateSkip
  rw [hr]
  dsimp only
  rw [if_pos (by simp [hi, hw, hm, hk])]

/-- A NOP that finds a command slot ends with status 0. -/
theorem execNop_met (hk : t.skips (s.tmpl (s.stepPlan part t) tmpl) = false) (hc : (s.tmpl (s.stepPlan part t) tmpl).eclass = 10)
    (ho : (s.tmpl (s.stepPlan part t) tmpl).opcode = 0) (hf : s.slotFree part = true) :
    execNop part tmpl s = .next (((s.tmplRead part (s.stepPlan part t) tmpl).setPart part (fun r =>
      { r with step := r.step.map (fun y => y.finish tmpl) })).finishLane
        (s.laneOf part t (s.tmpl (s.stepPlan part t) tmpl) tmpl 0 (s.tmpl (s.stepPlan part t) tmpl).ops) 0 none) := by
  unfold execNop
  rw [hr]
  dsimp only
  rw [if_pos (by simp [hi, hw, hm, hk, hc, ho, hf]), if_pos ho]

end

/-! ## Lanes (R86, R87, R362) -/

/-- The record of a unit after it was changed. -/
theorem State.setUnit_same (s : State) (u : UnitId) (f : UnitRec → UnitRec) : (s.setUnit u f).unit u = f (s.unit u) := by
  rw [State.setUnit_unit, if_pos rfl]

/-- A lane whose power phase has started is queued on its unit, behind the lanes already there. -/
theorem State.issueTo_queue (s : State) (p : Nat) {t : StepRec} {l : Lane} (n : Nat) (u : UnitId) (h : t.phases.contains l.phase = true) :
    ((s.issueTo p t l n u).unit u).queue = (s.unit u).queue ++ [{ l with logical := n, phys := u.ix }] := by
  have hw : (s.unwait p l).unit u = s.unit u := State.setPart_unit ..
  unfold State.issueTo
  dsimp only
  rw [if_pos h, State.setUnit_same, hw]

/-- The oldest waiting lane of its order goes to the first unit of its search order that runs, where that has room and accepts lanes. -/
theorem execLaneIssue_running {s : State} {part tmpl lane : Nat} {t : StepRec} {l : Lane} {n : Nat} {v : UnitId} (hr : s.running part = some t)
    (hl : t.waiting.find? (fun l => l.tmpl == tmpl && l.lane == lane) = some l) (ho : s.inOrder part t l = true)
    (hb : t.broken.contains (l.eclass, l.rel) = false) (hf : s.slotFree part = true) (hc : s.chainUnit l = none)
    (hv : (s.candidates l).find? (fun c => s.ustate c.2 == stRunning) = some (n, v)) (hq : (s.unit v).queue.length < 16) (hz : s.frozen v = false)
    (hg : s.gated v = false) : execLaneIssue part tmpl lane s = .next (s.issueTo part t l n v) := by
  have hroom : (s.unit v).queue.length < (if l.eclass = 8 then 128 else 16) := by split <;> omega
  unfold execLaneIssue
  rw [hr]
  dsimp only
  rw [hl]
  dsimp only
  rw [if_neg (by simp [ho]), if_neg (ne_true_of_eq_false hb), if_neg (by simp [hf]), hc]
  dsimp only
  rw [hv]
  exact congrArg Host.Outcome.next (if_pos (by simp [hroom, hz, hg]))

/-- A lane that has ended at the head of its unit's queue leaves it; only a collective may lose the group a member with it (R364). -/
theorem execLaneComplete_head {s : State} {u : UnitId} {l : Lane} {rest : List Lane} {st : Nat} (hq : (s.unit u).queue = l :: rest)
    (hs : l.status = some st) (hc : l.eclass ≠ 8) : execLaneComplete u s = .next ((s.completeLane u l st).stopQueued u) := by
  have hl : (s.unit u).queue.find? (fun l => l.status.isSome) = some l := by rw [hq, List.find?_cons_of_pos (by simp [hs])]
  unfold execLaneComplete
  rw [hl]
  dsimp only
  rw [if_neg (fun h => hc h.1), hs]
  rfl

/-! ## Kernels (R227 to R238) -/

section
variable {s : State} {u : UnitId} {l : Lane} {rest : List Lane} (hb : u.blk = .uc) (hu : u.valid = true) (hq : (s.unit u).queue = l :: rest)
  (hn : l.status = none)
include hb hu hq hn

/-- A lane that passes its checks, none of its lines held, starts: the runtime reads the image and the list of output ranges, and enters the kernel. -/
theorem execRun_enters {ev : LaneEv} (hk : (s.unit u).kernel = none) (hs : s.ustate u = stRunning) (hf : s.forced u = false)
    (hj : s.ucReject l = none) (he : ev.err = none) (hh : s.heldIn (s.launchReads l) = false) :
    execRun u ev s = .next (((((s.correct u 9 ev.corrected).readAll clsUc (s.launchReads l)).1).count u 4 (rangeBytes (s.launchReads l))).enterKernel u
      ((((s.correct u 9 ev.corrected).readAll clsUc (s.launchReads l)).1).launch u l)) := by
  unfold execRun
  rw [atUnit_here hb hu, hq, hk]
  dsimp only
  rw [if_neg (by simp [hn, hs, hf]), hj, he]
  exact congrArg Host.Outcome.next (if_neg (by simp [hh]))

variable {k : Kernel} (hk : (s.unit u).kernel = some k)
include hk

omit hb hu in
theorem State.kernelOn_head : s.kernelOn u = some (l, k) := by
  unfold State.kernelOn
  rw [hq, hk]
  exact if_neg (by simp [hn])

theorem execTrace_on (word : Nat) : execTrace u word s = .next (s.traceWord u word) := by
  unfold execTrace
  rw [atUnit_here hb hu, State.kernelOn_head hq hn hk]

/-- A kernel that exits, whose accesses wait for no bank and stay in reach, ends with what its exit status maps to. -/
theorem execExit_mapped (a0 : Nat) {io : KernelIo} {ev : LaneEv} (hi : s.ioHeld io = false) (he : ev.err = none)
    (hf : (s.kernelIo u l.part k io).fault = none) :
    execExit u a0 io ev s = .next (((s.kernelIo u l.part k io).st.correct u 9 ev.corrected).endKernel u l
      (exitStatus a0 (s.kernelIo u l.part k io).seen)) := by
  unfold execExit
  rw [atUnit_here hb hu, State.kernelOn_head hq hn hk]
  dsimp only
  rw [if_neg (ne_true_of_eq_false hi), he, hf]

theorem execKernelTrap_reached (pc cause val : Nat) {io : KernelIo} (hi : s.ioHeld io = false) (hf : (s.kernelIo u l.part k io).fault = none) :
    execKernelTrap u pc cause val io s = .next ((s.kernelIo u l.part k io).st.kernelTrap u l pc cause val) := by
  unfold execKernelTrap
  rw [atUnit_here hb hu, State.kernelOn_head hq hn hk]
  dsimp only
  rw [if_neg (ne_true_of_eq_false hi), hf]

/-- A time-out waits for no bank: accesses that were held there have not been made. -/
theorem execKernelTimeout_reached {io : KernelIo} (hf : (s.kernelIo u l.part k (s.ioDone io)).fault = none) :
    execKernelTimeout u io s = .next ((s.kernelIo u l.part k (s.ioDone io)).st.endKernel u l 0xC3) := by
  unfold execKernelTimeout
  rw [atUnit_here hb hu, State.kernelOn_head hq hn hk]
  dsimp only
  rw [hf]

end

theorem State.enterKernel_kernel (s : State) (u : UnitId) (k : Kernel) : ((s.enterKernel u k).unit u).kernel = some k := by
  rw [State.enterKernel, State.useFree_unit, State.setUnit_same]

/-- A word traced while DEBUG.TRACE_EN is 1 joins the core's trace data, and memory is as it was. -/
theorem State.traceWord_enabled (s : State) {u : UnitId} (h : s.flag u Reg.uc.debugTraceEn = true) (word : Nat) :
    ((s.traceWord u word).unit u).trace = (s.unit u).trace ++ [word % 2 ^ 64] ∧ (s.traceWord u word).mem = s.mem := by
  unfold State.traceWord
  rw [if_pos h, State.setUnit_same]
  exact ⟨rfl, rfl⟩

/-- The causes of an access fault (R238). -/
theorem State.kernelTrap_eq (s : State) (u : UnitId) (l : Lane) (pc cause val : Nat) :
    s.kernelTrap u l pc cause val =
      (s.trapped u pc cause val).endKernel u l (if cause = 1 ∨ cause = 5 ∨ cause = 7 then 0xC2 else 0xC1) := by
  simp [State.kernelTrap]

/-- Settles O60, by the lemma about each command. -/
theorem stepAndKernelCommandsComplete : Obligations.StepAndKernelCommandsComplete := by
  intro s
  refine ⟨fun part tmpl t hr hi hw hm => ⟨fun hk hc => ?_, fun hk => ?_, fun hk hc ho hf => ?_⟩,
    fun part tmpl lane t l n v hr hl ho hb hf hc hv hq hz hg => ?_, fun u l rest st hq hs hc => ?_,
    fun u l rest ev hb hu hq hn hk hs hf hj he hh => ?_, fun u l rest k hb hu hq hn hk => ⟨fun word ht => ?_, fun a0 io ev hi he hf => ?_,
      fun pc cause val io hi hf => ?_, fun io hf => ?_⟩⟩
  · refine ⟨_, execTemplateIssue_met hr hi hw hm hk hc, State.setPart_units .., ?_⟩
    rw [State.setPart_same, Option.map_map]
    simp [Function.comp_def, State.lanesOf_length, Nat.add_assoc]
  · refine ⟨_, execTemplateSkip_met hr hi hw hm hk, by simp, ?_⟩
    rw [State.setPart_same, State.signal_part]
  · exact execNop_met hr hi hw hm hk hc ho hf
  · exact execLaneIssue_running hr hl ho hb hf hc hv hq hz hg
  · exact execLaneComplete_head hq hs hc
  · exact ⟨_, execRun_enters hb hu hq hn hk hs hf hj he hh, State.enterKernel_kernel _ u _⟩
  · exact ⟨_, execTrace_on hb hu hq hn hk word, State.traceWord_enabled s ht word⟩
  · exact execExit_mapped hb hu hq hn hk a0 hi he hf
  · exact (execKernelTrap_reached hb hu hq hn hk pc cause val hi hf).trans (congrArg Host.Outcome.next (State.kernelTrap_eq _ u l pc cause val))
  · exact execKernelTimeout_reached hb hu hq hn hk hf

end Sys2Proof.Machine
end

section
/-!
SUPPORT. A lane whose logical units are all VACANT (R362, R591), in a state whose registers nevertheless show the physical number of a vacant one,
0xFFFF, as RUNNING.
-/
namespace Sys2Proof.Machine

/-- Tile 0xFFFF: what a VACANT logical tile is served by, and no unit of the module. -/
abbrev vacantTile : UnitId := ⟨.mt, 0xFFFF⟩

/-- The one lane of a template of zeros: class MT, for the first tile of partition 0. -/
def zeroLane : Lane := State.reset.laneOf 0 (newStep 0 none 0 0 [] [] []) (State.reset.tmpl 0 0) 0 0 []

/-- A running step in which that lane waits, its power phase already under way. -/
def zeroStep : StepRec := { newStep 0 none 0 0 [] [] [] with phase := .running, waiting := [zeroLane], phases := [zeroLane.phase] }

/-- A module at reset, whose Talon maps no tile yet, but for the step in partition 0 and for STATUS.STATE at the place of tile 0xFFFF. -/
def vacantRuns : State := (State.reset.put vacantTile Reg.common.state stRunning).setPart 0 (fun r => { r with step := some zeroStep })

/-- The lane may be issued: it is in order, in no chain, and a command slot is free. -/
theorem vacantRuns_lane : vacantRuns.running 0 = some zeroStep ∧
    zeroStep.waiting.find? (fun l => l.tmpl == 0 && l.lane == 0) = some zeroLane ∧ vacantRuns.inOrder 0 zeroStep zeroLane = true ∧
    zeroStep.broken.contains (zeroLane.eclass, zeroLane.rel) = false ∧ vacantRuns.slotFree 0 = true ∧ vacantRuns.chainUnit zeroLane = none := by
  decide +kernel

/-- Every unit of its search order is VACANT, and the first of them shows as RUNNING, its queue empty. -/
theorem vacantRuns_candidates : (∀ c ∈ vacantRuns.candidates zeroLane, c.2.ix = 0xFFFF) ∧
    (vacantRuns.candidates zeroLane).find? (fun c => vacantRuns.ustate c.2 == stRunning) = some (0, vacantTile) ∧
    (vacantRuns.unit vacantTile).queue.length < 16 ∧ vacantRuns.frozen vacantTile = false ∧ vacantRuns.gated vacantTile = false := by
  decide +kernel

theorem exec_laneIssue (part tmpl lane : Nat) (s : State) : exec (.laneIssue part tmpl lane) s = execLaneIssue part tmpl lane s := rfl

/-- So the lane is issued to it. -/
theorem vacantRuns_issued : exec (.laneIssue 0 0 0) vacantRuns = .next (vacantRuns.issueTo 0 zeroStep zeroLane 0 vacantTile) := by
  obtain ⟨hr, hl, ho, hb, hf, hc⟩ := vacantRuns_lane
  obtain ⟨_, hv, hq, hz, hg⟩ := vacantRuns_candidates
  exact (exec_laneIssue 0 0 0 _).trans (execLaneIssue_running hr hl ho hb hf hc hv hq hz hg)

/-- A lane that ends unissued is queued nowhere. -/
theorem vacantRuns_unissued : (((vacantRuns.unwait 0 zeroLane).endUnissued zeroLane 9).unit vacantTile).queue = [] := by
  decide +kernel

/-- Refutes O14: the statement has a lane end UNIT_FAULT once every unit of its search order is FAULTED or VACANT or has the physical number 0xFFFF,
in any state at all; in one whose registers show STATE = RUNNING for that number, LANE_ISSUE finds a unit that runs and queues the lane there. -/
theorem not_lanesIssueAndComplete : ¬ Obligations.LanesIssueAndComplete := by
  intro h
  obtain ⟨hr, hl, ho, hb, hf, hc⟩ := vacantRuns_lane
  obtain ⟨_, _, issues, _⟩ := h vacantRuns 0 0 zeroStep hr
  obtain ⟨whole, _⟩ := issues 0 zeroLane hl ho
  obtain ⟨_, free, _⟩ := whole hb
  obtain ⟨_, unitless⟩ := free hf hc
  obtain ⟨vacant, _⟩ := vacantRuns_candidates
  have hend := unitless (by decide) (fun c hm => .inr (.inr (vacant c hm)))
  have hsame : vacantRuns.issueTo 0 zeroStep zeroLane 0 vacantTile = (vacantRuns.unwait 0 zeroLane).endUnissued zeroLane 9 :=
    Host.Outcome.next.inj (vacantRuns_issued.symm.trans hend)
  have hqueued := State.issueTo_queue vacantRuns 0 (t := zeroStep) (l := zeroLane) 0 vacantTile (by decide)
  rw [hsame, vacantRuns_unissued] at hqueued
  exact List.append_ne_nil_of_right_ne_nil _ (List.cons_ne_nil _ _) hqueued.symm

end Sys2Proof.Machine
end

section
/-!
SUPPORT. What an event record leaves alone, for whichever ring and unit it is written (R45, R385, R396, R597, R613).
-/
namespace Sys2Proof

/-- The register fields of BAR0 that a report writes: the interrupt status, ERR_LOG and the tail of the module event ring. -/
def reportFields : List Field := [Reg.common.irqStatus, Reg.common.logSeq, Reg.common.lastCode, Reg.common.errCount, Reg.hif.mevtTail]

theorem reportFields_within : ∀ g ∈ reportFields, Machine.fieldWithin g = true := by decide

/-- A field that a page holds whole and that shares no bit with one that a report writes. -/
def Field.unreported (f : Field) : Bool := Machine.fieldWithin f && reportFields.all (fun g => Machine.fieldsApart g f)

theorem Field.unreported_within {f : Field} (h : f.unreported = true) : Machine.fieldWithin f = true := ((Bool.and_eq_true _ _).mp h).1

theorem Field.unreported_apart {f g : Field} (h : f.unreported = true) (hg : g ∈ reportFields) : Machine.fieldsApart g f = true :=
  List.all_eq_true.mp ((Bool.and_eq_true _ _).mp h).2 g hg

theorem Field.unreported_besideIrq {f : Field} (h : f.unreported = true) : f.besideIrq = true :=
  (Bool.and_eq_true _ _).mpr ⟨Field.unreported_apart h (by simp [reportFields]), Field.unreported_within h⟩

namespace Machine

/-- The state s with all of another that a report may change. -/
def State.withReports (s t : State) : State :=
  { s with regs := t.regs, counts := t.counts, out := t.out, parts := t.parts, modWait := t.modWait, modSeq := t.modSeq, modLost := t.modLost,
           modUnsig := t.modUnsig, mgt := t.mgt }

/-- From s to t there are reports at most: the rings, what leaves the module, and on the pages the fields that a report writes. -/
structure State.Reports (s t : State) : Prop where
  rest : t = s.withReports t
  get : ∀ {w : UnitId} {f : Field}, w.valid = true → f.unreported = true → t.get w f = s.get w f

section
variable {s t v : State}

theorem State.Reports.refl (s : State) : s.Reports s := ⟨rfl, fun _ _ => rfl⟩

theorem State.Reports.trans (h : s.Reports t) (k : t.Reports v) : s.Reports v where
  rest := calc v = t.withReports v := k.rest
    _ = (s.withReports t).withReports v := congrArg (fun x : State => x.withReports v) h.rest
    _ = s.withReports v := rfl
  get hw hf := (k.get hw hf).trans (h.get hw hf)

theorem State.Reports.mem (h : s.Reports t) : t.mem = s.mem := by rw [h.rest]; rfl

theorem State.Reports.pwr (h : s.Reports t) : t.pwr = s.pwr := by rw [h.rest]; rfl

/-- A change that stands beside the registers. -/
theorem State.Reports.of_regs (hr : t.regs = s.regs) (h : t = s.withReports t) : s.Reports t := ⟨h, fun _ _ => State.get_of_regs hr _ _⟩

/-- Signals are reports, where they keep the fields. -/
theorem State.OnlySignals.reports (h : s.OnlySignals t)
    (hg : ∀ {w : UnitId} {f : Field}, w.valid = true → f.besideIrq = true → t.get w f = s.get w f) : s.Reports t where
  rest := by rw [h]; rfl
  get hw hf := hg hw (Field.unreported_besideIrq hf)

end

variable (s : State)

/-! ## One write -/

theorem State.put_reports (u : UnitId) {g : Field} (hg : g ∈ reportFields) (v : Nat) : s.Reports (s.put u g v) where
  rest := by rw [State.put_onlySignals s u g v]; rfl
  get _ hf := State.get_put_apart s u _ g _ v (Field.unreported_apart hf hg) (reportFields_within g hg) (Field.unreported_within hf)

/-- A field of a page is beside every field that is addressed from above the pages, as those of the windows are. -/
theorem State.get_setAt_above {u : UnitId} (hu : u.valid = true) {f : Field} (hf : fieldWithin f = true) {base : Nat} (hb : 0x400_0000 ≤ base)
    (g : Field) (v : Nat) : (s.setAt base g v).get u f = s.get u f := by
  have below := UnitId.home_lt hu f
  obtain ⟨n, hn⟩ := home_page u f
  simp only [fieldWithin, decide_eq_true_eq] at hf
  unfold State.get
  rw [hn] at below ⊢
  refine State.getAt_setAt_apart s _ _ _ _ _ (Or.inl ?_)
  rw [fieldPos_base, fieldSpan_base]
  calc n * 0x1000 + (fieldPos 0 f).1 + 4 * fieldSpan 0 f ≤ n * 0x1000 + 0x1000 :=
        (Nat.add_assoc _ _ _).trans_le (Nat.add_le_add_left hf _)
    _ ≤ 0x400_0000 := below
    _ ≤ base / 4 * 4 := by omega
    _ ≤ (fieldPos base g).1 := Nat.mul_le_mul_right 4 (Nat.div_le_div_right (Nat.le_add_right _ _))

theorem State.setWin_reports (p : Nat) (g : Field) (v : Nat) : s.Reports (s.setWin p g v) where
  rest :=
    calc s.setWin p g v = State.withReports { s.setWin p g v with regs := s.regs } (s.setWin p g v) := rfl
      _ = s.withReports (s.setWin p g v) := congrArg (fun x : State => x.withReports _) (State.setWords_frame _ _ _ _)
  get hw hf := State.get_setAt_above s hw (Field.unreported_within hf) (Nat.le_add_right _ _) g v

theorem State.emit_reports (o : Out) : s.Reports (s.emit o) := .of_regs rfl rfl

theorem State.setPart_reports (p : Nat) (f : PartRec → PartRec) : s.Reports (s.setPart p f) := .of_regs rfl rfl

/-- The module event ring's own records, and the events that the management port is offered. -/
theorem State.modRing_reports (wait : List EvtRec) (seq lost unsig : Nat) (m : MgtRec) :
    s.Reports { s with modWait := wait, modSeq := seq, modLost := lost, modUnsig := unsig, mgt := m } := .of_regs rfl rfl

theorem State.msix_reports (vf : Option Nat) (k : Nat) : s.Reports (s.msix vf k) :=
  (State.msix_onlySignals s vf k).reports (fun hw hf => State.msix_get hw hf s vf k)

theorem State.irq_reports (u : UnitId) (mask : Nat) : s.Reports (s.irq u mask) :=
  (State.irq_onlySignals s u mask).reports (fun hw hf => State.irq_get hw hf s u mask)

theorem State.count_reports (u : UnitId) (k n : Nat) : s.Reports (s.count u k n) :=
  (State.count_onlySignals s u k n).reports (fun hw hf => State.count_get hw hf s u k n)

theorem State.ringVector_reports (p which : Nat) : s.Reports (s.ringVector p which) := by
  unfold State.ringVector
  split <;> exact State.msix_reports s _ _

theorem State.shadow_reports (p : Nat) : s.Reports (s.shadow p) := by
  unfold State.shadow
  dsimp only
  split
  · exact .refl s
  · exact State.emit_reports s _

/-! ## The ring of a partition -/

/-- One record is written, the tail moves on, and the ring's vector is raised or put off. -/
theorem State.drainEvents_reports (p : Nat) : ∀ (l : List EvtRec) (s : State), s.Reports (s.drainEvents p l)
  | [], s => by
    have cleared := State.setPart_reports s p (fun r => { r with evtWait := [] })
    unfold State.drainEvents
    dsimp only
    split
    · exact cleared
    · exact ((cleared.trans (State.setWin_reports _ p _ 0)).trans (State.shadow_reports _ p)).trans (State.ringVector_reports _ p 2)
  | e :: rest, s => by
    unfold State.drainEvents
    dsimp only
    split
    · have written (o : Out) (i : Nat) := (((State.emit_reports s o).trans (State.setWin_reports _ p Reg.win.evtTail i)).trans
        (State.shadow_reports _ p)).trans (State.count_reports _ hifU 3 1)
      split
      · exact (((written _ _).trans (State.setPart_reports _ p _)).trans (State.ringVector_reports _ p 1)).trans
          (State.drainEvents_reports p rest _)
      · exact ((written _ _).trans (State.setPart_reports _ p _)).trans (State.drainEvents_reports p rest _)
    · have waits := State.setPart_reports s p (fun r => { r with evtWait := e :: rest })
      split
      · exact (waits.trans (State.setWin_reports _ p _ 1)).trans (State.shadow_reports _ p)
      · exact waits

theorem State.partEvent_reports (p code v0 v1 : Nat) : s.Reports (s.partEvent p code v0 v1) := by
  unfold State.partEvent
  split
  · exact .refl s
  · exact (State.setPart_reports s p _).trans (State.drainEvents_reports p _ _)

/-! ## The ring of the module -/

theorem State.drainModule_reports : ∀ (l : List EvtRec) (s : State), s.Reports (s.drainModule l)
  | [], s => State.modRing_reports s [] _ _ _ _
  | e :: rest, s => by
    unfold State.drainModule
    dsimp only
    split
    · have written (o : Out) (i : Nat) := ((State.emit_reports s o).trans
        (State.put_reports _ hifU (g := Reg.hif.mevtTail) (by simp [reportFields]) i)).trans (State.count_reports _ hifU 3 1)
      split
      · exact ((written _ _).trans ((State.msix_reports _ none 0).trans (State.modRing_reports _ _ _ _ _ _))).trans (State.drainModule_reports rest _)
      · exact ((written _ _).trans (State.modRing_reports _ _ _ _ _ _)).trans (State.drainModule_reports rest _)
    · exact State.modRing_reports s _ _ _ _ _

theorem State.platformEvent_reports (e : EvtRec) : s.Reports (s.platformEvent e) := by
  have told : s.Reports (if s.mgt.events.isEmpty then s.emit (.sideband []) else s) := by
    split
    · exact State.emit_reports s _
    · exact .refl s
  unfold State.platformEvent
  dsimp only
  split
  · exact .refl s
  · split
    · exact told.trans (State.modRing_reports _ _ _ _ _ _)
    · exact (told.trans (State.modRing_reports _ _ _ _ _ _)).trans (State.count_reports _ mgtU 6 1)

theorem State.flushModule_reports : s.Reports s.flushModule := by
  have drained := State.drainModule_reports s.modWait s
  unfold State.flushModule
  dsimp only
  split
  · exact ((drained.trans (State.modRing_reports _ _ _ _ _ _)).trans (State.platformEvent_reports _ _)).trans (State.drainModule_reports _ _)
  · exact drained

theorem State.modEvent_reports (code v0 v1 : Nat) : s.Reports (s.modEvent code v0 v1) := by
  have flushed := State.flushModule_reports s
  unfold State.modEvent
  dsimp only
  split
  · exact .refl s
  · split
    · exact ((flushed.trans (State.modRing_reports _ _ _ _ _ _)).trans (State.platformEvent_reports _ _)).trans (State.drainModule_reports _ _)
    · exact ((flushed.trans (State.modRing_reports _ _ _ _ _ _)).trans (State.count_reports _ hifU 10 1)).trans (State.irq_reports _ hifU _)

/-! ## Records that name a unit -/

theorem State.errLog_reports (u : UnitId) (seq code : Nat) : s.Reports (s.errLog u seq code) :=
  (((State.put_reports s u (by simp [reportFields]) seq).trans (State.put_reports _ u (by simp [reportFields]) code)).trans
    (State.put_reports _ u (by simp [reportFields]) _)).trans (State.irq_reports _ u 2)

theorem State.eventM_reports (u : Option UnitId) (code v0 v1 : Nat) : s.Reports (s.eventM u code v0 v1) := by
  have begun : s.Reports (if s.minimal then s else s.flushModule) := by
    split
    · exact .refl s
    · exact State.flushModule_reports s
  have told := begun.trans (State.modEvent_reports _ code v0 v1)
  cases u with
  | none => exact told
  | some u => exact told.trans (State.errLog_reports _ u _ code)

theorem State.eventPM_reports (ps : List Nat) (u : Option UnitId) (code v0 v1 : Nat) : s.Reports (s.eventPM ps u code v0 v1) :=
  (List.foldlRecOn ps _ (State.Reports.refl s) (fun _ h p _ => h.trans (State.partEvent_reports _ p code v0 v1))).trans
    (State.eventM_reports _ u code v0 v1)

theorem State.unitEvent_reports (u : UnitId) (code reason detail : Nat) : s.Reports (s.unitEvent u code reason detail) :=
  State.eventPM_reports s _ _ _ _ _

end Machine
end Sys2Proof
end

section
/-!
SUPPORT. Memory when a unit is retired that is neither a Table bank nor a memory device (R43, R570 to R574).
-/
namespace Sys2Proof.Machine

variable (s : State)

theorem State.setState_mem (u : UnitId) (st : Nat) : (s.setState u st).mem = s.mem := by
  unfold State.setState
  split
  · rfl
  · rw [(State.irq_reports _ u 1).mem, State.put_mem]

theorem State.discard_mem (u : UnitId) (reason : Nat) : (s.discard u reason).mem = s.mem := by
  unfold State.discard
  dsimp only
  split
  · rfl
  · rw [(State.irq_reports _ sprU _).mem, (State.eventM_reports _ _ _ _ _).mem]
    split <;> rfl

theorem State.markRetired_mem (u : UnitId) (reason : Nat) : (s.markRetired u reason).mem = s.mem := by
  unfold State.markRetired
  rw [State.discard_mem]
  dsimp only
  rw [State.put_mem, State.put_mem, (State.count_reports _ sprU 1 1).mem, (State.unitEvent_reports s u _ _ _).mem]

section
variable {u : UnitId} (ht : u.blk ≠ .tbl) (hm : u.blk ≠ .mem)
include ht hm

theorem State.makeVacant_mem (l reason : Nat) : (s.makeVacant u l reason).mem = s.mem := by
  unfold State.makeVacant
  rw [if_neg (by simp [ht, hm])]
  dsimp only
  rw [(State.irq_reports _ sprU _).mem, (State.count_reports _ sprU 2 1).mem, (State.unitEvent_reports _ u _ _ _).mem, State.setState_mem,
    State.markRetired_mem]

theorem State.startRemap_mem (l reason : Nat) : (s.startRemap u l reason).mem = s.mem := by
  unfold State.startRemap
  split
  · rfl
  · dsimp only
    split
    · split
      · exact State.makeVacant_mem s ht hm l reason
      · rfl
    · rw [if_neg (by simp [ht, hm]), State.setState_mem]

theorem State.retire_mem (reason : Nat) : (s.retire u reason).mem = s.mem := by
  have marked := State.markRetired_mem s u reason
  unfold State.retire
  split
  · rfl
  · split
    · split
      · split
        · exact State.makeVacant_mem s ht hm _ reason
        · exact (State.setState_mem _ u _).trans marked
      · rfl
    · split
      · exact State.startRemap_mem s ht hm _ reason
      · dsimp only
        split
        · exact marked
        · next r hr =>
          -- the spare of a remap is of the block of the unit that it replaces
          have same : r.retiring.blk = u.blk := (by simpa using List.find?_some hr : r.retiring.blk = u.blk ∧ _).1
          rw [State.startRemap_mem _ (same ▸ ht) (same ▸ hm)]
          exact marked

end

end Sys2Proof.Machine
end

section
/-!
SUPPORT. The power manager: the limiter's readings, droop, gating, parking, presets, and the ageing monitor (R128, R512 to R523).
-/
namespace Sys2Proof.Machine

/-! ## The limiter (R512, R513) -/

/-- A field of the PWR page that shares no bit with the input power and its peak. -/
def besidePowers (f : Field) : Bool := f.reach == .page && fieldsApart f Reg.pwr.pIn1msW && fieldsApart f Reg.pwr.pPeakW

/-- The powers stand in the word at 0x10C. -/
theorem besidePowers_of_above {f : Field} (hr : f.reach = .page) (h : 0x110 ≤ f.off) : besidePowers f = true := by
  have word {g : Field} (hg : (fieldPos 0 g).1 + 4 * fieldSpan 0 g = 0x110) : fieldsApart f g = true := by
    have hf : 0x110 ≤ (fieldPos 0 f).1 := by unfold fieldPos; dsimp only; omega
    simp [fieldsApart, hg, hf]
  simp [besidePowers, hr, word (g := Reg.pwr.pIn1msW) (by decide), word (g := Reg.pwr.pPeakW) (by decide)]

/-- From s to t memory and what the limiter has read stay: the input power, its peak, and the power that partitions share. -/
structure State.SameReadings (s t : State) : Prop where
  mem : t.mem = s.mem
  shared : t.pwr.shared = s.pwr.shared
  input : t.get pwrU Reg.pwr.pIn1msW = s.get pwrU Reg.pwr.pIn1msW
  peak : t.get pwrU Reg.pwr.pPeakW = s.get pwrU Reg.pwr.pPeakW

theorem State.SameReadings.refl (s : State) : s.SameReadings s := ⟨rfl, rfl, rfl, rfl⟩

theorem State.SameReadings.trans {s t v : State} (h : s.SameReadings t) (k : t.SameReadings v) : s.SameReadings v :=
  ⟨k.mem.trans h.mem, k.shared.trans h.shared, k.input.trans h.input, k.peak.trans h.peak⟩

theorem State.Reports.sameReadings {s t : State} (h : s.Reports t) : s.SameReadings t :=
  ⟨h.mem, congrArg PwrRec.shared h.pwr, h.get (by decide) (by decide), h.get (by decide) (by decide)⟩

variable (s : State)

theorem State.put_sameReadings {f : Field} (hf : besidePowers f = true) (v : Nat) : s.SameReadings (s.put pwrU f v) := by
  simp only [besidePowers, Bool.and_eq_true, beq_iff_eq] at hf
  obtain ⟨⟨hr, hi⟩, hp⟩ := hf
  exact ⟨State.put_mem s .., congrArg PwrRec.shared (State.put_pwr s ..),
    State.get_put_other s pwrU pwrU f _ v (by rw [home_common hr, home_common rfl]) hi,
    State.get_put_other s pwrU pwrU f _ v (by rw [home_common hr, home_common rfl]) hp⟩

theorem State.setPwr_sameReadings {f : PwrRec → PwrRec} (h : (f s.pwr).shared = s.pwr.shared) : s.SameReadings (s.setPwr f) :=
  ⟨rfl, h, State.setPwr_get .., State.setPwr_get ..⟩

theorem State.count_sameReadings (u : UnitId) (k n : Nat) : s.SameReadings (s.count u k n) := (State.count_reports s u k n).sameReadings

theorem State.applyCap_sameReadings : s.SameReadings s.applyCap := by
  unfold State.applyCap
  extract_lets cap floored old capped
  have written : s.SameReadings capped := ((State.put_sameReadings s (by decide) _).trans (State.put_sameReadings _ (by decide) _)).trans
    (State.put_sameReadings _ (by decide) _)
  split
  · exact written
  · exact written.trans ((State.eventM_reports _ none _ _ _).trans (State.irq_reports _ pwrU _)).sameReadings

theorem State.moveHold_sameReadings (ps : List Nat) (up : Bool) : s.SameReadings (s.moveHold ps up) :=
  List.foldlRecOn ps _ (State.SameReadings.refl s)
    (fun _ h p _ => h.trans (State.put_sameReadings _ (besidePowers_of_above rfl (show 0x110 ≤ 0x144 + p * 8 by omega)) _))

theorem State.limitDown_sameReadings (bulk hungry : List Nat) : s.SameReadings (s.limitDown bulk hungry) := by
  unfold State.limitDown
  dsimp only
  split
  · exact State.setPwr_sameReadings s rfl
  · split
    · exact State.moveHold_sameReadings s _ _
    · split
      · exact State.setPwr_sameReadings s rfl
      · split
        · exact State.moveHold_sameReadings s _ _
        · split
          · exact State.setPwr_sameReadings s rfl
          · exact .refl s

theorem State.limitUp_sameReadings (bulk ante : List Nat) : s.SameReadings (s.limitUp bulk ante) := by
  unfold State.limitUp
  dsimp only
  split
  · exact State.setPwr_sameReadings s rfl
  · split
    · exact State.moveHold_sameReadings s _ _
    · split
      · exact State.setPwr_sameReadings s rfl
      · split
        · exact State.moveHold_sameReadings s _ _
        · exact State.setPwr_sameReadings s rfl

theorem State.limiterMoves_sameReadings (m : PowerSample) : s.SameReadings (s.limiterMoves m) := by
  unfold State.limiterMoves
  dsimp only
  split
  · exact (State.limitDown_sameReadings s _ _).trans (State.count_sameReadings _ pwrU 1 10)
  · split
    · exact State.limitUp_sameReadings s _ _
    · exact .refl s

theorem State.limiterCounts_sameReadings : s.SameReadings s.limiterCounts := by
  unfold State.limiterCounts
  split
  · exact State.count_sameReadings s pwrU 4 1
  · exact .refl s

/-- What a tick writes of its sample: the input power, the higher peak, and the partitions' powers. -/
def State.recordPower (s : State) (m : PowerSample) : State :=
  ((List.range 8).foldl (fun t p => t.put pwrU (Reg.pwr.partPW.at p) (m.parts.getD p 0))
    ((s.put pwrU Reg.pwr.pIn1msW m.p1ms).put pwrU Reg.pwr.pPeakW (max (s.get pwrU Reg.pwr.pPeakW) m.p10us))).setPwr
      (fun x => { x with shared := m.shared })

theorem State.recordPower_readings (m : PowerSample) : (s.recordPower m).mem = s.mem ∧
    (s.recordPower m).get pwrU Reg.pwr.pIn1msW = m.p1ms % 2 ^ 12 ∧
    (s.recordPower m).get pwrU Reg.pwr.pPeakW = max (s.get pwrU Reg.pwr.pPeakW) m.p10us % 2 ^ 12 ∧ (s.recordPower m).pwr.shared = m.shared := by
  have attributed (t : State) :
      t.SameReadings ((List.range 8).foldl (fun t p => t.put pwrU (Reg.pwr.partPW.at p) (m.parts.getD p 0)) t) :=
    List.foldlRecOn _ _ (State.SameReadings.refl t)
      (fun _ h p _ => h.trans (State.put_sameReadings _ (besidePowers_of_above rfl (show 0x110 ≤ 0x144 + p * 8 by omega)) _))
  unfold State.recordPower
  refine ⟨?_, ?_, ?_, rfl⟩
  · rw [State.setPwr_mem, (attributed _).mem, State.put_mem, State.put_mem]
  · rw [State.setPwr_get, (attributed _).input, State.get_put_apart _ _ _ _ _ _ (by decide) (by decide) (by decide), State.get_put_same]
    rfl
  · rw [State.setPwr_get, (attributed _).peak, State.get_put_same]
    rfl

/-- After the powers are recorded the readings stay: what follows counts energy, applies the cap, and turns half clocks into a ceiling. -/
theorem State.limiterReads_sameReadings (m : PowerSample) : (s.recordPower m).SameReadings (s.limiterReads m) := by
  unfold State.limiterReads
  extract_lets read attributed capped throttled
  have applied : (s.recordPower m).SameReadings capped := (State.count_sameReadings _ pwrU 0 m.energy).trans (State.applyCap_sameReadings _)
  have counted : capped.SameReadings throttled := by
    unfold throttled
    split
    · exact State.count_sameReadings _ pwrU 3 10
    · exact .refl _
  split
  · exact (applied.trans counted).trans (State.setPwr_sameReadings _ rfl)
  · exact applied.trans counted

theorem execLimiterTick_idle {s : State} (h : s.limiterIdle = true) (m : PowerSample) : execLimiterTick m s = .next s := by
  unfold execLimiterTick
  rw [if_pos h]

theorem execLimiterTick_acts {s : State} (h : s.limiterIdle = false) (m : PowerSample) :
    ∃ t, execLimiterTick m s = .next t ∧ (s.recordPower m).SameReadings t := by
  refine ⟨((s.limiterReads m).limiterMoves m).limiterCounts, ?_,
    ((State.limiterReads_sameReadings s m).trans (State.limiterMoves_sameReadings _ m)).trans (State.limiterCounts_sameReadings _)⟩
  unfold execLimiterTick
  rw [if_neg (by simp [h])]

/-! ## Tiles and clusters -/

theorem mem_clockGroup_self (u : UnitId) : u ∈ clockGroup u := by
  unfold clockGroup
  split
  · next h =>
    obtain ⟨b, i⟩ := u
    cases h
    exact List.mem_map.2 ⟨i % 33, List.mem_range.2 (Nat.mod_lt _ (by decide)), by simp [Nat.div_add_mod']⟩
  · exact List.mem_singleton_self u

/-- Units that share a clock are of one block and stand in one cluster. -/
theorem clockGroup_cluster {u v : UnitId} (h : v ∈ clockGroup u) : v.blk = u.blk ∧ v.ix / 33 = u.ix / 33 := by
  unfold clockGroup at h
  split at h
  · next hb =>
    obtain ⟨i, hi, rfl⟩ := List.mem_map.1 h
    have : i < 33 := List.mem_range.1 hi
    exact ⟨hb.symm, by dsimp only; omega⟩
  · rw [List.mem_singleton.1 h]
    exact ⟨rfl, rfl⟩

/-! ## Droop (R520) -/

/-- The phases that lanes run at the heads of the queues of a tile or of a cluster's cores: partition, plan slot and phase. -/
def State.runningPhases (s : State) (u : UnitId) : List (Nat × Nat × Nat) :=
  ((clockGroup u).filterMap (fun v => (s.unit v).queue.head?)).filterMap (fun l =>
    (s.part l.part).step.map (fun t => (l.part, t.pslot, l.phase)))

theorem State.runningPhases_laneless {s : State} {u : UnitId} (h : s.laneless u = true) : s.runningPhases u = [] := by
  have none_heads : (clockGroup u).filterMap (fun v => (s.unit v).queue.head?) = [] :=
    List.filterMap_eq_nil_iff.2 (fun v hv => List.head?_eq_none_iff.2 (List.isEmpty_iff.1 (List.all_eq_true.1 h v hv)))
  rw [State.runningPhases, none_heads, List.filterMap_nil]

theorem State.mem_runningPhases {s : State} {u : UnitId} {l : Lane} {rest : List Lane} {t : StepRec} (hq : (s.unit u).queue = l :: rest)
    (ht : (s.part l.part).step = some t) : (l.part, t.pslot, l.phase) ∈ s.runningPhases u :=
  List.mem_filterMap.2 ⟨l, List.mem_filterMap.2 ⟨u, mem_clockGroup_self u, by rw [hq]; rfl⟩, by rw [ht]; rfl⟩

/-- The records of the predictor after a stretch: those of the running phases have one more. -/
def State.stretched (s : State) (u : UnitId) : List PredRec :=
  s.pred.map (fun r => if (s.runningPhases u).contains (r.part, r.pslot, r.phase) then { r with stretches := r.stretches + 1 } else r)

theorem State.count_pred (u : UnitId) (k n : Nat) : (s.count u k n).pred = s.pred := by
  rw [(State.count_reports s u k n).rest]; rfl

section
variable {s : State} {u : UnitId} (hb : u.blk = .mt ∨ u.blk = .uc)
include hb

/-- A stretch is counted, and held against the phases that run. -/
theorem execDroop_eq (n : Nat) : execDroop u n s = .next (if (s.runningPhases u).isEmpty then (s.count pwrU 5 1).count pwrU 6 n
    else { (s.count pwrU 5 1).count pwrU 6 n with pred := s.stretched u }) := by
  unfold execDroop State.stretched
  rw [if_neg (by rcases hb with h | h <;> simp [h])]
  dsimp only
  rw [State.count_pred, State.count_pred]
  rfl

theorem execDroop_laneless (h : s.laneless u = true) (n : Nat) : execDroop u n s = .next ((s.count pwrU 5 1).count pwrU 6 n) := by
  rw [execDroop_eq hb, State.runningPhases_laneless h]
  rfl

theorem execDroop_running {l : Lane} {rest : List Lane} {t : StepRec} (hq : (s.unit u).queue = l :: rest) (ht : (s.part l.part).step = some t)
    (n : Nat) : execDroop u n s = .next { (s.count pwrU 5 1).count pwrU 6 n with pred := s.stretched u } := by
  have running : ¬(s.runningPhases u).isEmpty = true := by
    rw [List.isEmpty_iff]
    exact List.ne_nil_of_mem (State.mem_runningPhases hq ht)
  rw [execDroop_eq hb, if_neg running]

/-! ## Gating (R521, R522) -/

theorem execGateIdle_eq : execGateIdle u s = .next (if s.laneless u then s.setGated u true else s) := by
  unfold execGateIdle
  rw [if_neg (by rcases hb with h | h <;> simp [h])]

theorem execUnitWake_eq : execUnitWake u s = .next (s.setGated u false) := by
  unfold execUnitWake
  rw [if_neg (by rcases hb with h | h <;> simp [h])]

end

/-- The record of a phase that a lane runs has one more stretch. -/
theorem State.mem_stretched {s : State} {u : UnitId} {r : PredRec} (hr : r ∈ s.pred) (h : (r.part, r.pslot, r.phase) ∈ s.runningPhases u) :
    { r with stretches := r.stretches + 1 } ∈ s.stretched u :=
  List.mem_map.2 ⟨r, hr, if_pos (List.contains_iff_mem.2 h)⟩

/-! ## Parking (R523) -/

theorem execPark_writer {src : Src} (h : notVf src = true) : execParkCmd src s = .next s.park ∧ execWakeCmd src s = .next s.rouse := by
  cases src with
  | vf _ => exact absurd h Bool.false_ne_true
  | _ => exact ⟨rfl, rfl⟩

theorem execPark_vf {src : Src} (h : notVf src = false) : execParkCmd src s = .next s ∧ execWakeCmd src s = .next s := by
  cases src with
  | vf _ => exact ⟨rfl, rfl⟩
  | _ => exact absurd h (by decide)

theorem execWakeComplete_waking {s : State} (h : s.pwr.waking = true) :
    execWakeComplete s = .next ((s.put pwrU Reg.pwr.statParked 0).setPwr (fun x => { x with waking := false })) := by
  unfold execWakeComplete
  rw [if_pos h]

/-! ## Presets (R515, R517) -/

theorem State.phaseStart_mem (p : Nat) (t : StepRec) (ph : Nat) : (s.phaseStart p t ph).mem = s.mem := by
  unfold State.phaseStart
  split <;> rfl

theorem execPhasePreset_none {s : State} {part : Nat} (h : (s.part part).step = none) (phase : Nat) : execPhasePreset part phase s = .next s := by
  unfold execPhasePreset
  rw [h]

/-- A preset is computed for a partition that is no ante partition, while the predictor is enabled and the firmware runs. -/
theorem execPhasePreset_set {s : State} {part : Nat} {t : StepRec} (h : (s.part part).step = some t) (he : s.flag pwrU Reg.pwr.predEn = true)
    (hf : s.fwDown = false) (ha : s.isAnte part = false) (phase : Nat) :
    ∃ l, execPhasePreset part phase s =
      .next ((State.put { s.phaseStart part t phase with pred := l } pwrU Reg.pwr.statPred 1).count pwrU 7 1) := by
  unfold execPhasePreset
  rw [h]
  dsimp only
  rw [if_neg (by simp [he, hf]), if_neg (by simp [ha])]
  exact ⟨_, rfl⟩

/-! ## Ageing (R128) -/

/-- The field that holds the measured speed of a tile or cluster. -/
def fmaxField (u : UnitId) : Field := if u.blk = .mt then Reg.mt.ageFmaxMeas else Reg.uc.ageFmaxMeas

/-- A tile's speed stands on its own page, that of a cluster on the page of its first core. -/
theorem fmaxField_home {u v : UnitId} (h : v ∈ clockGroup u) (hb : u.blk = .mt ∨ u.blk = .uc) : v.home (fmaxField u) = u.home (fmaxField u) := by
  obtain ⟨same, cluster⟩ := clockGroup_cluster h
  rcases hb with hb | hb
  · rw [List.mem_singleton.1 (show v ∈ [u] by rwa [clockGroup, if_neg (by simp [hb])] at h)]
  · simp [fmaxField, UnitId.home, hb, same, cluster, Reg.uc.ageFmaxMeas]

/-- Where units share a field, the last of their writes stands; each wrote the same. -/
theorem State.foldl_put_get {u : UnitId} {f : Field} (x : Nat) : ∀ (l : List UnitId) (s : State), (∀ v ∈ l, v.home f = u.home f) →
    (l ≠ [] ∨ s.get u f = x % 2 ^ f.width) → (l.foldl (fun t v => t.put v f x) s).get u f = x % 2 ^ f.width
  | [], _, _, h => h.resolve_left (absurd rfl)
  | v :: l, s, hl, _ => by
    have written : (s.put v f x).get u f = x % 2 ^ f.width := by
      rw [State.put, hl v (List.mem_cons_self ..)]
      exact State.get_put_same s u f x
    exact State.foldl_put_get x l _ (fun w hw => hl w (List.mem_cons_of_mem _ hw)) (Or.inr written)

/-- The speed is recorded, with its time, for all units of the clock. -/
def State.recordFmax (s : State) (u : UnitId) (mhz : Nat) : State :=
  (clockGroup u).foldl (fun t v => t.put v (fmaxField u) mhz) (s.setPwr (fun x =>
    { x with agedAt := (clockGroup u).foldl (fun m v => Sparse.set (fun _ => 0) m v.page s.now) x.agedAt }))

theorem State.recordFmax_mem (u : UnitId) (mhz : Nat) : (s.recordFmax u mhz).mem = s.mem :=
  List.foldlRecOn (motive := fun t : State => t.mem = s.mem) (clockGroup u) _ rfl (fun _ h _ _ => (State.put_mem ..).trans h)

theorem State.recordFmax_get {u : UnitId} (hb : u.blk = .mt ∨ u.blk = .uc) (mhz : Nat) :
    (s.recordFmax u mhz).get u (fmaxField u) = mhz % 2 ^ 16 := by
  have width : (fmaxField u).width = 16 := by unfold fmaxField; split <;> rfl
  rw [State.recordFmax, State.foldl_put_get mhz _ _ (fun v hv => fmaxField_home hv hb) (Or.inl (List.ne_nil_of_mem (mem_clockGroup_self u))), width]

/-- A slow tile or cluster is told of, and one below 1,200 MHz retired; memory stays, and a unit that is fast enough has only its speed recorded. -/
theorem execAgeingMeasure_records {u : UnitId} (hb : u.blk = .mt ∨ u.blk = .uc) (mhz : Nat) :
    ∃ t, execAgeingMeasure u mhz s = .next t ∧ t.mem = s.mem ∧ (1250 ≤ mhz → t = s.recordFmax u mhz) := by
  have told : (((clockGroup u).foldl (fun t v => t.irq v (2 ^ 17)) (s.recordFmax u mhz)).unitEvent u 0x3005 0 mhz).mem = s.mem :=
    (State.unitEvent_reports _ u _ _ _).mem.trans (List.foldlRecOn (motive := fun t : State => t.mem = s.mem) (clockGroup u) _
      (State.recordFmax_mem s u mhz) (fun _ h v _ => (State.irq_reports _ v _).mem.trans h))
  have retired (t : State) : ((clockGroup u).foldl (fun t v => t.retire v 5) t).mem = t.mem :=
    List.foldlRecOn (motive := fun v : State => v.mem = t.mem) (clockGroup u) _ rfl (fun _ h v hv => by
      have same := (clockGroup_cluster hv).1
      exact (State.retire_mem _ (by rcases hb with hb | hb <;> simp [same, hb]) (by rcases hb with hb | hb <;> simp [same, hb]) 5).trans h)
  unfold execAgeingMeasure
  rw [if_neg (by rcases hb with h | h <;> simp [h])]
  refine ⟨_, rfl, ?_, fun h => ?_⟩
  · dsimp only
    split
    · split
      · exact State.recordFmax_mem s u mhz
      · exact told
    · split
      · exact (retired _).trans (State.recordFmax_mem s u mhz)
      · exact (retired _).trans told
  · dsimp only
    rw [if_pos (show 1200 ≤ mhz by omega), if_pos h]
    rfl

/-- Settles O49, by the lemma about each command. -/
theorem clocksAndPowerFollowTheLoad : Obligations.ClocksAndPowerFollowTheLoad := by
  intro s u n
  refine ⟨fun m h => execLimiterTick_idle h m, fun m h => ?_, fun hb => ⟨fun h => ?_, fun h => ?_, execUnitWake_eq hb,
    fun h => execDroop_laneless hb h n, fun l rest t hq ht => ?_, ?_⟩, fun src => ⟨execPark_writer s, execPark_vf s⟩, fun h => ?_, fun h => ?_,
    fun h => ?_, fun h => ?_, fun part phase h => execPhasePreset_none h phase, fun part phase t h he hf ha => ?_⟩
  · obtain ⟨t, ht, kept⟩ := execLimiterTick_acts h m
    obtain ⟨mem, input, peak, shared⟩ := State.recordPower_readings s m
    exact ⟨t, ht, kept.mem.trans mem, kept.input.trans input, kept.peak.trans peak, kept.shared.trans shared⟩
  · exact (execGateIdle_eq hb).trans (congrArg Host.Outcome.next (if_pos h))
  · exact (execGateIdle_eq hb).trans (congrArg Host.Outcome.next (if_neg (ne_true_of_eq_false h)))
  · refine ⟨_, execDroop_running hb hq ht n, ?_, List.length_map .., fun r hr hp hs hph => ?_⟩
    · exact (State.count_reports _ pwrU 6 n).mem.trans (State.count_reports s pwrU 5 1).mem
    · have running := State.mem_runningPhases hq ht
      rw [← hp, ← hs, ← hph] at running
      exact State.mem_stretched hr running
  · obtain ⟨t, ht, mem, fast⟩ := execAgeingMeasure_records s hb n
    exact ⟨t, ht, mem, fun h => fast h ▸ State.recordFmax_get s hb n⟩
  · exact congrArg Host.Outcome.next (if_pos h)
  · exact congrArg Host.Outcome.next (if_neg h)
  · refine ⟨_, execWakeComplete_waking h, ?_, ?_, ?_⟩
    · rw [State.setPwr_get, State.get_put_same, Nat.zero_mod]
    · rw [State.setPwr_pwr, State.put_pwr]
    · rw [State.setPwr_mem, State.put_mem]
  · exact congrArg Host.Outcome.next (if_neg (ne_true_of_eq_false h))
  · obtain ⟨l, hl⟩ := execPhasePreset_set h he hf ha phase
    refine ⟨_, hl, ?_, ?_⟩
    · rw [State.count_get (by decide) (by decide), State.get_put_same]
      rfl
    · rw [(State.count_reports _ pwrU 7 1).mem, State.put_mem]
      exact State.phaseStart_mem s part t phase

end Sys2Proof.Machine
end

section
/-!
SUPPORT. When a kernel is entered, and how one ends (R227 to R238, R258).
-/
namespace Sys2Proof.Machine

/-! ## RUN -/

section
variable {s : State} {u : UnitId} {l : Lane} {rest : List Lane} (hb : u.blk = .uc) (hu : u.valid = true) (hq : (s.unit u).queue = l :: rest)
include hb hu hq

/-- Under FORCE nothing starts at a break point (R235). -/
theorem execRun_forced (ev : LaneEv) (hk : (s.unit u).kernel = none) (hf : s.forced u = true) (hc : s.inChain u = false) :
    execRun u ev s = .next s := by
  unfold execRun
  rw [atUnit_here hb hu, hq, hk]
  exact congrArg Host.Outcome.next (if_pos (by simp [hf, hc]))

variable (hn : l.status = none) (hk : (s.unit u).kernel = none) (hs : s.ustate u = stRunning ∨ s.ustate u = stDraining)
  (hf : s.forced u = false ∨ s.inChain u = true)

omit hb hu hq in
include hn hs hf in
/-- Nothing keeps the runtime from the head lane of a core that runs or drains and is at no break point of FORCE. -/
theorem State.headLane_mayStart :
    ¬(l.status.isSome || !(s.ustate u == stRunning || s.ustate u == stDraining) || (s.forced u && !s.inChain u)) = true := by
  rcases hs with hs | hs <;> rcases hf with hf | hf <;> simp [hn, hs, hf]

include hn hk hs hf

/-- A lane whose check fails, or in whose start the core errs, ends with that status before its kernel is entered. -/
theorem execRun_rejected {ev : LaneEv} {st : Nat} (hr : (s.ucReject l).or ev.err = some st) :
    execRun u ev s = .next (((((s.correct u 9 ev.corrected).poisonOuts l.part (s.ucOuts l)).put u Reg.uc.lastStatus st).setUnit u (fun x =>
      { x with queue := x.queue.modifyHead (fun l => { l with status := some st }) })).sawPoison u st (s.ucOuts l)) := by
  unfold execRun
  rw [atUnit_here hb hu, hq, hk]
  dsimp only
  rw [if_neg (State.headLane_mayStart hn hs hf), hr]

section
variable {ev : LaneEv} (hr : s.ucReject l = none) (he : ev.err = none)
include hr he

/-- A start waits for the bank that holds a line of the image (R258). -/
theorem execRun_waits (hh : s.heldIn (s.launchReads l) = true) : execRun u ev s = .next s := by
  unfold execRun
  rw [atUnit_here hb hu, hq, hk]
  dsimp only
  rw [if_neg (State.headLane_mayStart hn hs hf), hr, he]
  exact congrArg Host.Outcome.next (if_pos hh)

/-- `execRun_enters` of a core that drains, or that is within a chain under FORCE, too. -/
theorem execRun_starts (hh : s.heldIn (s.launchReads l) = false) :
    execRun u ev s = .next ((((s.correct u 9 ev.corrected).readAll clsUc (s.launchReads l)).1.count u 4 (rangeBytes (s.launchReads l))).enterKernel u
      (((s.correct u 9 ev.corrected).readAll clsUc (s.launchReads l)).1.launch u l)) := by
  unfold execRun
  rw [atUnit_here hb hu, hq, hk]
  dsimp only
  rw [if_neg (State.headLane_mayStart hn hs hf), hr, he]
  exact congrArg Host.Outcome.next (if_neg (ne_true_of_eq_false hh))

end
end

/-! ## TRACE, and the ends of a kernel -/

theorem State.traceWord_on {s : State} {u : UnitId} (h : s.flag u Reg.uc.debugTraceEn = true) (word : Nat) :
    s.traceWord u word = s.setUnit u (fun x => { x with trace := x.trace ++ [word % 2 ^ 64] }) := if_pos h

theorem State.traceWord_off {s : State} {u : UnitId} (h : s.flag u Reg.uc.debugTraceEn = false) (word : Nat) : s.traceWord u word = s :=
  if_neg (ne_true_of_eq_false h)

/-- The causes of an access fault end ACCESS_FAULT (R238). -/
theorem State.kernelTrap_access (s : State) (u : UnitId) (l : Lane) (pc val : Nat) {cause : Nat} (h : cause = 1 ∨ cause = 5 ∨ cause = 7) :
    s.kernelTrap u l pc cause val = (s.trapped u pc cause val).endKernel u l 0xC2 := by
  rw [State.kernelTrap_eq, if_pos h]

/-- Every other cause ends KERNEL_TRAP (R238). -/
theorem State.kernelTrap_other (s : State) (u : UnitId) (l : Lane) (pc val : Nat) {cause : Nat} (h : ¬(cause = 1 ∨ cause = 5 ∨ cause = 7)) :
    s.kernelTrap u l pc cause val = (s.trapped u pc cause val).endKernel u l 0xC1 := by
  rw [State.kernelTrap_eq, if_neg h]

section
variable {s : State} {u : UnitId} {l : Lane} {rest : List Lane} {k : Kernel} (hb : u.blk = .uc) (hu : u.valid = true)
  (hq : (s.unit u).queue = l :: rest) (hn : l.status = none) (hk : (s.unit u).kernel = some k)
include hb hu hq hn hk

section
variable {io : KernelIo} (hi : s.ioHeld io = true)
include hi

/-- A kernel that waits for a bank does not exit (R258). -/
theorem execExit_waits (a0 : Nat) (ev : LaneEv) : execExit u a0 io ev s = .next s := by
  unfold execExit
  rw [atUnit_here hb hu, State.kernelOn_head hq hn hk]
  exact congrArg Host.Outcome.next (if_pos hi)

/-- A kernel that waits for a bank does not trap (R258). -/
theorem execKernelTrap_waits (pc cause val : Nat) : execKernelTrap u pc cause val io s = .next s := by
  unfold execKernelTrap
  rw [atUnit_here hb hu, State.kernelOn_head hq hn hk]
  exact congrArg Host.Outcome.next (if_pos hi)

end

section
variable {io : KernelIo} (hi : s.ioHeld io = false)
include hi

/-- An error in the core takes the place of the exit status and of an access fault. -/
theorem execExit_errs (a0 : Nat) {ev : LaneEv} {e : Nat} (he : ev.err = some e) :
    execExit u a0 io ev s = .next (((s.kernelIo u l.part k io).st.correct u 9 ev.corrected).endKernel u l e) := by
  unfold execExit
  rw [atUnit_here hb hu, State.kernelOn_head hq hn hk]
  dsimp only
  rw [if_neg (ne_true_of_eq_false hi), he]

/-- A kernel that reached out of its map does not live to exit (R223). -/
theorem execExit_faults (a0 : Nat) {ev : LaneEv} {f : Nat × Nat} (he : ev.err = none) (hf : (s.kernelIo u l.part k io).fault = some f) :
    execExit u a0 io ev s = .next (((s.kernelIo u l.part k io).st.correct u 9 ev.corrected).accessFault u l f) := by
  unfold execExit
  rw [atUnit_here hb hu, State.kernelOn_head hq hn hk]
  dsimp only
  rw [if_neg (ne_true_of_eq_false hi), he, hf]

/-- A kernel that reached out of its map does not live to the trap (R223). -/
theorem execKernelTrap_faults (pc cause val : Nat) {f : Nat × Nat} (hf : (s.kernelIo u l.part k io).fault = some f) :
    execKernelTrap u pc cause val io s = .next ((s.kernelIo u l.part k io).st.accessFault u l f) := by
  unfold execKernelTrap
  rw [atUnit_here hb hu, State.kernelOn_head hq hn hk]
  dsimp only
  rw [if_neg (ne_true_of_eq_false hi), hf]

end

/-- A kernel that reached out of its map does not live to its time-out (R223). -/
theorem execKernelTimeout_faults {io : KernelIo} {f : Nat × Nat} (hf : (s.kernelIo u l.part k (s.ioDone io)).fault = some f) :
    execKernelTimeout u io s = .next ((s.kernelIo u l.part k (s.ioDone io)).st.accessFault u l f) := by
  unfold execKernelTimeout
  rw [atUnit_here hb hu, State.kernelOn_head hq hn hk]
  dsimp only
  rw [hf]

end

/-! ## Exit statuses (R231) -/

/-- 0 and the kernel's own good statuses stand unless poison was seen. -/
theorem exitStatus_good {a0 : Nat} (h : a0 = 0 ∨ (0x80 ≤ a0 ∧ a0 ≤ 0x9F)) (seen : Bool) : exitStatus a0 seen = if seen then 0x02 else a0 := by
  unfold exitStatus
  rcases h with rfl | h
  · rw [if_pos rfl]
  · rw [if_neg (by omega), if_pos h]

/-- The kernel's own bad statuses stand. -/
theorem exitStatus_bad {a0 : Nat} (h : 0xE0 ≤ a0 ∧ a0 ≤ 0xFF) (seen : Bool) : exitStatus a0 seen = a0 := by
  unfold exitStatus
  rw [if_neg (by omega), if_neg (by omega), if_pos h]

/-- Any other value is BAD_EXIT. -/
theorem exitStatus_undefined {a0 : Nat} (h0 : a0 ≠ 0) (hg : ¬(0x80 ≤ a0 ∧ a0 ≤ 0x9F)) (hb : ¬(0xE0 ≤ a0 ∧ a0 ≤ 0xFF)) (seen : Bool) :
    exitStatus a0 seen = 0xC4 := by
  unfold exitStatus
  rw [if_neg h0, if_neg hg, if_neg hb]

/-- Settles O25, by the lemma about each command. -/
theorem kernelsRunAndEnd : Obligations.KernelsRunAndEnd := by
  refine ⟨fun s u l rest ev hb hu hq hn => ⟨fun hs hk => ⟨fun hf hc => ?_, fun hf => ⟨fun st hr => ?_, fun hr he => ⟨fun hh => ?_, fun hh => ?_⟩⟩⟩,
    fun k hk => ⟨fun word ht => ?_, fun word ht => ?_, fun io a0 pc cause val hi => ⟨?_, ?_⟩, fun io hi => ⟨fun a0 e he => ?_, fun a0 he hf => ?_,
      fun a0 f he hf => ?_, fun pc cause val hf hc => ?_, fun pc cause val hf h1 h5 h7 => ?_, fun pc cause val f hf => ?_⟩,
      fun io => ⟨fun hf => ?_, fun f hf => ?_⟩⟩⟩,
    fun a0 seen => ⟨fun h => ⟨?_, ?_⟩, fun h1 h2 => ?_, fun h0 hg hb => ?_⟩⟩
  · exact execRun_forced hb hu hq ev hk hf hc
  · exact execRun_rejected hb hu hq hn hk hs hf hr
  · exact execRun_waits hb hu hq hn hk hs hf hr he hh
  · exact execRun_starts hb hu hq hn hk hs hf hr he hh
  · exact (execTrace_on hb hu hq hn hk word).trans (congrArg Host.Outcome.next (State.traceWord_on ht word))
  · exact (execTrace_on hb hu hq hn hk word).trans (congrArg Host.Outcome.next (State.traceWord_off ht word))
  · exact execExit_waits hb hu hq hn hk hi a0 ev
  · exact execKernelTrap_waits hb hu hq hn hk hi pc cause val
  · exact execExit_errs hb hu hq hn hk hi a0 he
  · exact execExit_mapped hb hu hq hn hk a0 hi he hf
  · exact execExit_faults hb hu hq hn hk hi a0 he hf
  · exact (execKernelTrap_reached hb hu hq hn hk pc cause val hi hf).trans (congrArg Host.Outcome.next (State.kernelTrap_access _ u l pc val hc))
  · exact (execKernelTrap_reached hb hu hq hn hk pc cause val hi hf).trans
      (congrArg Host.Outcome.next (State.kernelTrap_other _ u l pc val (by rintro (h | h | h) <;> contradiction)))
  · exact execKernelTrap_faults hb hu hq hn hk hi pc cause val hf
  · exact execKernelTimeout_reached hb hu hq hn hk hf
  · exact execKernelTimeout_faults hb hu hq hn hk hf
  · exact exitStatus_good h true
  · exact exitStatus_good h false
  · exact exitStatus_bad ⟨h1, h2⟩ seen
  · exact exitStatus_undefined h0 hg hb seen

end Sys2Proof.Machine
end

section
/-!
SUPPORT. Floating-point results of the utility cores (R222): the only NaN that is produced is the canonical one, and a number of the format is its
own rounding.
-/
namespace Sys2Proof.Machine

/-! ## Codes and their values -/

section
variable {f : CoreFmt}

/-- A code of the format is its magnitude with its sign. -/
theorem CoreFmt.signed_split (hw : 0 < f.width) {c : Nat} (hc : c < 2 ^ f.width) :
    f.signed (bit c (f.width - 1)) (c % 2 ^ (f.width - 1)) = c := by
  have top : c / 2 ^ (f.width - 1) < 2 := Nat.div_lt_of_lt_mul (by rwa [Nat.two_pow_pred_mul_two hw])
  have split := Nat.div_add_mod c (2 ^ (f.width - 1))
  unfold CoreFmt.signed bit
  rw [Nat.mod_eq_of_lt top]
  rcases Nat.lt_succ_iff_lt_or_eq.mp top with h | h
  · rw [Nat.lt_one_iff.mp h] at split ⊢
    simpa using split
  · rw [h] at split ⊢
    simpa [Nat.add_comm] using split

theorem CoreFmt.signed_mod {n : Bool} {a : Nat} (ha : a < 2 ^ (f.width - 1)) : f.signed n a % 2 ^ (f.width - 1) = a := by
  unfold CoreFmt.signed
  split <;> simp [Nat.mod_eq_of_lt ha]

/-- Infinity fits below the sign bit. -/
theorem CoreFmt.infCode_lt (hm : f.mant < f.width) : f.infCode < 2 ^ (f.width - 1) := by
  have h : f.width - 1 = f.width - f.mant - 1 + f.mant := by omega
  rw [h, Nat.pow_add]
  exact Nat.mul_lt_mul_of_pos_right (Nat.sub_lt (Nat.two_pow_pos _) Nat.one_pos) (Nat.two_pow_pos _)

/-- The NaNs are the magnitudes above infinity. -/
theorem CoreFmt.isNan_decode (c : Nat) : (f.decode c).isNan = decide (f.infCode < c % 2 ^ (f.width - 1)) := by
  unfold CoreFmt.decode
  dsimp only
  split
  · simp [*, Fp.isNan]
  · split
    · simp [*, Fp.isNan]
    · split <;> simp [*, Fp.isNan]

/-- The finite numbers are the magnitudes below infinity. -/
theorem CoreFmt.lt_infCode_of_isFin {c : Nat} (h : (f.decode c).isFin = true) : c % 2 ^ (f.width - 1) < f.infCode := by
  unfold CoreFmt.decode at h
  dsimp only at h
  split at h
  · cases h
  · split at h
    · cases h
    · omega

/-- Zero and the subnormals. -/
theorem CoreFmt.decode_subnormal {c : Nat} (h : c % 2 ^ (f.width - 1) < f.infCode) (hs : c % 2 ^ (f.width - 1) < 2 ^ f.mant) :
    f.decode c = .fin (bit c (f.width - 1)) (c % 2 ^ (f.width - 1)) f.emin := by
  unfold CoreFmt.decode
  dsimp only
  rw [if_neg (by omega), if_neg (by omega), if_pos (Nat.div_eq_of_lt hs), Nat.mod_eq_of_lt hs]

/-- The normal numbers. -/
theorem CoreFmt.decode_normal {c : Nat} (h : c % 2 ^ (f.width - 1) < f.infCode) (hn : 2 ^ f.mant ≤ c % 2 ^ (f.width - 1)) :
    f.decode c = .fin (bit c (f.width - 1)) (2 ^ f.mant + c % 2 ^ (f.width - 1) % 2 ^ f.mant)
      (f.emin + ((c % 2 ^ (f.width - 1) / 2 ^ f.mant : Nat) : Int) - 1) := by
  unfold CoreFmt.decode
  dsimp only
  rw [if_neg (by omega), if_neg (by omega), if_neg (Nat.div_pos hn (Nat.two_pow_pos _)).ne']

/-! ## Canonical NaNs -/

/-- A magnitude up to infinity's is no NaN's. -/
theorem CoreFmt.isNan_signed (hm : f.mant < f.width) {n : Bool} {a : Nat} (ha : a ≤ f.infCode) : (f.decode (f.signed n a)).isNan = false := by
  rw [CoreFmt.isNan_decode, CoreFmt.signed_mod (ha.trans_lt (CoreFmt.infCode_lt hm))]
  exact decide_eq_false (Nat.not_lt.mpr ha)

/-- A result that is a NaN is the canonical one. -/
def CoreFmt.Canonical (f : CoreFmt) (r : FRes) : Prop := (f.decode r.code).isNan = true → r.code = f.nanCode

theorem CoreFmt.canonical_nanCode (fl : Nat) : f.Canonical ⟨f.nanCode, fl⟩ := fun _ => rfl

section
variable (hm : f.mant < f.width)
include hm

theorem CoreFmt.canonical_signed (n : Bool) {a : Nat} (ha : a ≤ f.infCode) (fl : Nat) : f.Canonical ⟨f.signed n a, fl⟩ :=
  fun h => absurd h (ne_true_of_eq_false (CoreFmt.isNan_signed hm ha))

/-- Rounding gives a NaN for a NaN alone. -/
theorem CoreFmt.canonical_round (rm : Rm) (x : Fp) : f.Canonical (f.round rm x) := by
  cases x with
  | nan n => exact CoreFmt.canonical_nanCode 0
  | inf n => exact CoreFmt.canonical_signed hm n le_rfl 0
  | fin n m e =>
    unfold CoreFmt.round
    dsimp only
    split
    · exact CoreFmt.canonical_signed hm n (Nat.zero_le _) 0
    · split
      · exact CoreFmt.canonical_signed hm n (by split <;> omega) 5
      · exact CoreFmt.canonical_signed hm n (by omega) _

theorem CoreFmt.canonical_result (rm : Rm) (ops : List Nat) (x : Fp) : f.Canonical (f.result rm ops x) := by
  unfold CoreFmt.result
  split
  · exact CoreFmt.canonical_nanCode _
  · exact CoreFmt.canonical_round hm rm x

theorem CoreFmt.canonical_add (rm : Rm) (a b : Nat) : f.Canonical (f.add rm a b) := CoreFmt.canonical_result hm rm _ _

theorem CoreFmt.canonical_sub (rm : Rm) (a b : Nat) : f.Canonical (f.sub rm a b) := CoreFmt.canonical_add hm rm a (f.flip b)

theorem CoreFmt.canonical_mul (rm : Rm) (a b : Nat) : f.Canonical (f.mul rm a b) := CoreFmt.canonical_result hm rm _ _

/-- The flag of a division by zero leaves the code. -/
theorem CoreFmt.canonical_div (rm : Rm) (a b : Nat) : f.Canonical (f.div rm a b) := by
  have h := CoreFmt.canonical_result hm rm [a, b] ((f.decode a).div (f.decode b))
  unfold CoreFmt.div
  dsimp only
  split <;> exact h

/-- The flag of infinity times zero leaves the code. -/
theorem CoreFmt.canonical_fma (rm : Rm) (np na : Bool) (a b c : Nat) : f.Canonical (f.fma rm np na a b c) := by
  have h := CoreFmt.canonical_result hm rm [a, b, c]
  unfold CoreFmt.fma
  dsimp only
  split <;> exact h _

theorem CoreFmt.canonical_sqrt (rm : Rm) (a : Nat) : f.Canonical (f.sqrt rm a) := by
  unfold CoreFmt.sqrt
  split
  · split
    · exact CoreFmt.canonical_signed hm _ (Nat.zero_le _) 0
    · split
      · exact CoreFmt.canonical_nanCode 16
      · exact CoreFmt.canonical_round hm rm _
  · exact CoreFmt.canonical_signed hm false le_rfl 0
  · exact CoreFmt.canonical_nanCode 16
  · exact CoreFmt.canonical_nanCode _

end

/-- The lesser or greater is an operand that is no NaN, where there is one. -/
theorem CoreFmt.canonical_minMax (greater : Bool) (a b : Nat) : f.Canonical (f.minMax greater a b) := by
  unfold CoreFmt.minMax CoreFmt.Canonical
  dsimp only
  by_cases ha : (f.decode a).isNan = true
  · by_cases hb : (f.decode b).isNan = true
    · simp [ha, hb]
    · simp [ha, hb]
  · by_cases hb : (f.decode b).isNan = true
    · simp [ha, hb]
    · simp only [ha, hb, Bool.false_and, Bool.false_eq_true, if_false]
      split <;> split <;> intro h <;> contradiction

/-- Every arithmetic operation of a format answers the canonical NaN, if any. -/
theorem CoreFmt.canonical_operations (hm : f.mant < f.width) (rm : Rm) (a b c : Nat) (np na : Bool) :
    ∀ r ∈ [f.add rm a b, f.sub rm a b, f.mul rm a b, f.div rm a b, f.fma rm np na a b c, f.sqrt rm a, f.minMax np a b], f.Canonical r := by
  simp only [List.forall_mem_cons, List.not_mem_nil, false_implies, implies_true, and_true]
  exact ⟨CoreFmt.canonical_add hm rm a b, CoreFmt.canonical_sub hm rm a b, CoreFmt.canonical_mul hm rm a b, CoreFmt.canonical_div hm rm a b,
    CoreFmt.canonical_fma hm rm np na a b c, CoreFmt.canonical_sqrt hm rm a, CoreFmt.canonical_minMax np a b⟩

/-! ## Numbers of the format -/

/-- A value on the grid of its exponent, within the finite range, rounds to itself. -/
theorem CoreFmt.round_onGrid (rm : Rm) (n : Bool) {m : Nat} {e : Int} (h0 : m ≠ 0) (hq : max (leadExp m e - (f.mant : Int)) f.emin = e)
    (hc : (e - f.emin).toNat * 2 ^ f.mant + m < f.infCode) :
    f.round rm (.fin n m e) = ⟨f.signed n ((e - f.emin).toNat * 2 ^ f.mant + m), 0⟩ := by
  have hu : rm.units n m e e = (m, false) := by simp [Rm.units]
  simp only [CoreFmt.round, if_neg h0, hq, hu, if_neg (Nat.not_le.mpr hc)]
  rfl

/-- A number of the format, subnormal or not, is its own rounding. -/
theorem CoreFmt.round_decode (hw : 0 < f.width) (rm : Rm) {c : Nat} (hc : c < 2 ^ f.width) (hf : (f.decode c).isFin = true) :
    f.round rm (f.decode c) = ⟨c, 0⟩ := by
  have ha := CoreFmt.lt_infCode_of_isFin hf
  have hsplit := CoreFmt.signed_split hw hc
  rcases Nat.lt_or_ge (c % 2 ^ (f.width - 1)) (2 ^ f.mant) with hs | hn
  · rw [CoreFmt.decode_subnormal ha hs]
    generalize c % 2 ^ (f.width - 1) = a at *
    rcases Nat.eq_zero_or_pos a with rfl | h0
    · exact congrArg (FRes.mk · 0) hsplit
    · have hlog : Nat.log2 a < f.mant := (Nat.log2_lt h0.ne').mpr hs
      rw [CoreFmt.round_onGrid rm _ h0.ne' (by unfold leadExp; omega) (by simpa using ha)]
      simpa using hsplit
  · rw [CoreFmt.decode_normal ha hn]
    generalize c % 2 ^ (f.width - 1) = a at *
    have hex : 1 ≤ a / 2 ^ f.mant := Nat.div_pos hn (Nat.two_pow_pos _)
    have hlog : Nat.log2 (2 ^ f.mant + a % 2 ^ f.mant) = f.mant := by
      have := Nat.mod_lt a (Nat.two_pow_pos f.mant)
      exact (Nat.log2_eq_iff (by omega)).mpr ⟨by omega, by rw [Nat.pow_succ]; omega⟩
    have hcode : (f.emin + ((a / 2 ^ f.mant : Nat) : Int) - 1 - f.emin).toNat * 2 ^ f.mant + (2 ^ f.mant + a % 2 ^ f.mant) = a := by
      rw [show (f.emin + ((a / 2 ^ f.mant : Nat) : Int) - 1 - f.emin).toNat = a / 2 ^ f.mant - 1 by omega, ← Nat.add_assoc, ← Nat.succ_mul,
        Nat.succ_eq_add_one, Nat.sub_add_cancel hex, Nat.mul_comm]
      exact Nat.div_add_mod a _
    rw [CoreFmt.round_onGrid rm _ (by positivity) (by unfold leadExp; omega) (by rwa [hcode]), hcode, hsplit]

end

end Sys2Proof.Machine
end

section
/-!
SUPPORT. What one step of a utility core does, by the instruction that it fetched (R220 to R224, R230).
-/
namespace Sys2Proof.Machine

/-! ## Accesses of a scalar instruction (R223, R238) -/

section
variable {s : State} {p a n : Nat} {st : Bool}

theorem State.coreBad_misaligned (h : a % n ≠ 0) : s.coreBad p a n st = some (if st then 6 else 4, a) := if_pos h

theorem State.coreBad_unreached (h : a % n = 0) (hr : s.ucReach p a n = false) : s.coreBad p a n st = some (if st then 7 else 5, a) := by
  unfold State.coreBad
  rw [if_neg (not_not.mpr h), hr]
  rfl

theorem State.coreBad_reached (h : a % n = 0) (hr : s.ucReach p a n = true) : s.coreBad p a n st = none := by
  unfold State.coreBad
  rw [if_neg (not_not.mpr h), hr]
  rfl

/-- Local memory is within reach. -/
theorem State.ucReach_local (h : ucLocal a n = true) : s.ucReach p a n = true := by
  rw [State.ucReach, h, Bool.true_or]

end

section
variable {u : UnitId} {p : Nat} {x : CoreRun} (hf : x.fault = none) (hw : x.wait = false)
include hf hw

theorem CoreRun.load_refused {r f : Nat × Nat} (h : x.st.coreBad p r.1 r.2 false = some f) : CoreRun.load u p x r = { x with fault := some f } := by
  unfold CoreRun.load
  rw [if_neg (by simp [hf, hw]), h]

theorem CoreRun.load_local {r : Nat × Nat} (h : x.st.coreBad p r.1 r.2 false = none) (hl : ucLocal r.1 r.2 = true) :
    CoreRun.load u p x r = { x with vals := x.vals ++ [leNat (Sparse.getRun memDefault x.lmem r.1 r.2)] } := by
  unfold CoreRun.load
  rw [if_neg (by simp [hf, hw]), h]
  exact if_pos hl

theorem CoreRun.load_table {r : Nat × Nat} (h : x.st.coreBad p r.1 r.2 false = none) (hl : ucLocal r.1 r.2 = false)
    (hh : x.st.coreHeld r.1 r.2 = false) :
    CoreRun.load u p x r = { x with
      st := (x.st.ucLoad u r.1 r.2).1, seen := x.seen || (x.st.ucLoad u r.1 r.2).2
      vals := x.vals ++ [leNat ((x.st.ucLoad u r.1 r.2).1.bytes (coreKey r.1) r.2)] } := by
  unfold CoreRun.load
  rw [if_neg (by simp [hf, hw]), h]
  dsimp only
  rw [if_neg (ne_true_of_eq_false hl), if_neg (ne_true_of_eq_false hh)]

theorem CoreRun.store_refused {w : Nat × List Byte} {f : Nat × Nat} (h : x.st.coreBad p w.1 w.2.length true = some f) :
    CoreRun.store u p x w = { x with fault := some f } := by
  unfold CoreRun.store
  rw [if_neg (by simp [hf, hw]), h]

theorem CoreRun.store_local {w : Nat × List Byte} (h : x.st.coreBad p w.1 w.2.length true = none) (hl : ucLocal w.1 w.2.length = true) :
    CoreRun.store u p x w = { x with lmem := Sparse.setRun memDefault x.lmem w.1 w.2 } := by
  unfold CoreRun.store
  rw [if_neg (by simp [hf, hw]), h]
  exact if_pos hl

theorem CoreRun.store_table {w : Nat × List Byte} (h : x.st.coreBad p w.1 w.2.length true = none) (hl : ucLocal w.1 w.2.length = false)
    (hh : x.st.coreHeld w.1 w.2.length = false) : CoreRun.store u p x w = { x with st := x.st.ucStore u w.1 w.2 } := by
  unfold CoreRun.store
  rw [if_neg (by simp [hf, hw]), h]
  dsimp only
  rw [if_neg (ne_true_of_eq_false hl), if_neg (ne_true_of_eq_false hh)]

end

/-! ## An instruction that computes, loads or stores -/

/-- A core's part of the world before an instruction. -/
def State.coreStart (s : State) (k : Kernel) : CoreRun := { st := s, lmem := k.lmem, seen := k.poisonSeen }

section
variable {s : State} {u : UnitId} {l : Lane} {k : Kernel}

theorem State.coreAccess_alu (o : AluOp) (word : Bool) (rd rs1 : Nat) (b : CoreSrc) :
    s.coreAccess u l k (.alu o word rd rs1 b) = s.coreStart k := rfl

theorem State.coreAccess_fop (o : FOp) (f : CoreFmt) (rm rd rs1 rs2 : Nat) : s.coreAccess u l k (.fop o f rm rd rs1 rs2) = s.coreStart k := rfl

theorem State.coreAccess_load (n : Nat) (sg : Bool) (rd rs1 : Nat) (off : Int) :
    s.coreAccess u l k (.load n sg rd rs1 off) = CoreRun.load u l.part (s.coreStart k) (k.hart.addr rs1 off, n) := rfl

theorem State.coreAccess_store (n rs1 rs2 : Nat) (off : Int) :
    s.coreAccess u l k (.store n rs1 rs2 off) =
      CoreRun.store u l.part (s.coreStart k) (k.hart.addr rs1 off, leBytes n (k.hart.getX rs2)) := rfl

variable {i : CoreInstr} {len : Nat}

theorem State.coreExec_illegal (h : (k.hart.scalarLegal i && k.hart.vecLegal i) = false) :
    s.coreExec u l k i len = s.openTrap u l k.hart.pc.toNat 2 := by
  unfold State.coreExec
  dsimp only
  rw [h]
  rfl

variable (hl : (k.hart.scalarLegal i && k.hart.vecLegal i) = true)
include hl

theorem State.coreExec_faults {x : CoreRun} {f : Nat × Nat} (hx : s.coreAccess u l k i = x) (hw : x.wait = false) (hf : x.fault = some f) :
    s.coreExec u l k i len = x.st.kernelTrap u l k.hart.pc.toNat f.1 f.2 := by
  unfold State.coreExec
  dsimp only
  rw [hl, hx, if_neg (by decide), if_neg (ne_true_of_eq_false hw), hf]

theorem State.coreExec_retires {x : CoreRun} (hx : s.coreAccess u l k i = x) (hw : x.wait = false) (hf : x.fault = none) :
    s.coreExec u l k i len =
      x.st.retired u { k with hart := k.hart.after x.st.coreEnv i len x.vals, lmem := x.lmem, poisonSeen := x.seen } := by
  unfold State.coreExec
  dsimp only
  rw [hl, hx, if_neg (by decide), if_neg (ne_true_of_eq_false hw), hf]

end

/-! ## A step by what was fetched -/

/-- The instruction computes, loads or stores: it is no call, no breakpoint and no atomic access. -/
def CoreInstr.computes : CoreInstr → Bool
  | .ecall | .ebreak | .lr _ _ _ | .sc _ _ _ _ | .amo _ _ _ _ _ => false
  | _ => true

theorem State.coreRun_computes {s : State} {u : UnitId} {l : Lane} {k : Kernel} {i : CoreInstr} {len : Nat} (hi : i.computes = true)
    (hh : s.coreHeld k.hart.pc.toNat len = false) : s.coreRun u l k (.instr i len) = s.coreExec u l k i len := by
  cases i with
  | ecall | ebreak | lr | sc | amo => cases hi
  | _ => exact if_neg (ne_true_of_eq_false hh)

/-- The registers after an instruction of this length that computed `h'` and did not jump. -/
def Hart.went (h h' : Hart) (len : Nat) : Hart := { h' with pc := h.pc + BitVec.ofNat 64 len, instret := h.instret + 1 }

/-- The legality of a floating-point operation is that of its rounding mode. -/
theorem Hart.legal_fop (h : Hart) (o : FOp) (f : CoreFmt) (rm rd rs1 rs2 : Nat) :
    (h.scalarLegal (.fop o f rm rd rs1 rs2) && h.vecLegal (.fop o f rm rd rs1 rs2)) = (h.rmOf rm).isSome := Bool.and_true _

theorem Hart.after_fop {h : Hart} {rm : Nat} {m : Rm} (hm : h.rmOf rm = some m) (e : CoreEnv) (o : FOp) (f : CoreFmt) (rd rs1 rs2 len : Nat)
    (vals : List Nat) :
    h.after e (.fop o f rm rd rs1 rs2) len vals = h.went (h.fResult f rd (o.value f m (h.operand f rs1) (h.operand f rs2))) len := by
  unfold Hart.after Hart.scalar
  dsimp only [CoreInstr.rmField]
  rw [hm]
  rfl

section
variable {s : State} {u : UnitId} {l : Lane} {rest : List Lane} {k : Kernel} (hq : (s.unit u).queue = l :: rest) (hn : l.status = none)
  (hk : (s.unit u).kernel = some k) (hr : s.ustate u = stRunning)
include hq hn hk hr

theorem State.coreStep_fetched {f : Fetched} (hf : s.coreFetch l k = f) : s.coreStep u = s.coreRun u l k f :=
  (State.coreStep_some s u l k (State.kernelOn_head hq hn hk) hr).trans (congrArg (s.coreRun u l k) hf)

/-- A fetch from where the kernel may not execute (R223). -/
theorem State.coreStep_fetchFault {a : Nat} (hf : s.coreFetch l k = .fault a) :
    s.coreStep u = (s.trapped u k.hart.pc.toNat 1 a).endKernel u l 0xC2 :=
  (State.coreStep_fetched hq hn hk hr hf).trans (State.kernelTrap_access s u l _ a (.inl rfl))

/-- A word that is no instruction (R221). -/
theorem State.coreStep_illegal {len : Nat} (hf : s.coreFetch l k = .illegal len) (hh : s.coreHeld k.hart.pc.toNat len = false) :
    s.coreStep u = (s.fresh.2.trapped u k.hart.pc.toNat 2 s.fresh.1).endKernel u l 0xC1 :=
  (State.coreStep_fetched hq hn hk hr hf).trans
    ((if_neg (ne_true_of_eq_false hh)).trans (State.kernelTrap_other _ u l _ _ (by decide)))

variable {i : CoreInstr} {len : Nat} (hf : s.coreFetch l k = .instr i len)
include hf

/-- A fetch waits for the bank that holds the instruction (R258). -/
theorem State.coreStep_waits (hh : s.coreHeld k.hart.pc.toNat len = true) : s.coreStep u = s :=
  (State.coreStep_fetched hq hn hk hr hf).trans (if_pos hh)

variable (hh : s.coreHeld k.hart.pc.toNat len = false)
include hh

theorem State.coreStep_computes (hi : i.computes = true) : s.coreStep u = s.coreExec u l k i len :=
  (State.coreStep_fetched hq hn hk hr hf).trans (State.coreRun_computes hi hh)

theorem State.coreStep_alu {o : AluOp} {rd rs1 : Nat} {b : CoreSrc} (hi : i = .alu o false rd rs1 b) :
    s.coreStep u = s.retired u { k with hart := k.hart.went (k.hart.setX rd (o.value 64 (k.hart.getX rs1) (k.hart.src b))) len } := by
  subst hi
  exact (State.coreStep_computes hq hn hk hr hf hh rfl).trans (State.coreExec_retires rfl (State.coreAccess_alu o false rd rs1 b) rfl rfl)

section
variable {o : FOp} {f : CoreFmt} {rm rd rs1 rs2 : Nat} (hi : i = .fop o f rm rd rs1 rs2)
include hi

theorem State.coreStep_fop {m : Rm} (hm : k.hart.rmOf rm = some m) :
    s.coreStep u = s.retired u { k with
      hart := k.hart.went (k.hart.fResult f rd (o.value f m (k.hart.operand f rs1) (k.hart.operand f rs2))) len } := by
  subst hi
  have hl := (Hart.legal_fop k.hart o f rm rd rs1 rs2).trans (congrArg Option.isSome hm)
  rw [← Hart.after_fop hm s.coreEnv o f rd rs1 rs2 len []]
  exact (State.coreStep_computes hq hn hk hr hf hh rfl).trans (State.coreExec_retires hl (State.coreAccess_fop o f rm rd rs1 rs2) rfl rfl)

/-- A reserved rounding mode makes an illegal instruction. -/
theorem State.coreStep_fop_reserved (hm : k.hart.rmOf rm = none) :
    s.coreStep u = (s.fresh.2.trapped u k.hart.pc.toNat 2 s.fresh.1).endKernel u l 0xC1 := by
  subst hi
  have hl := (Hart.legal_fop k.hart o f rm rd rs1 rs2).trans (congrArg Option.isSome hm)
  exact (State.coreStep_computes hq hn hk hr hf hh rfl).trans
    ((State.coreExec_illegal hl).trans (State.kernelTrap_other _ u l _ _ (by decide)))

end

section
variable {n rd rs1 : Nat} {sg : Bool} {off : Int} (hi : i = .load n sg rd rs1 off)
include hi

/-- A load that is refused traps with the cause of its refusal. -/
theorem State.coreStep_load_refused {c : Nat × Nat} (hc : s.coreBad l.part (k.hart.addr rs1 off) n false = some c) :
    s.coreStep u = s.kernelTrap u l k.hart.pc.toNat c.1 c.2 := by
  subst hi
  have hx := (State.coreAccess_load (u := u) (l := l) n sg rd rs1 off).trans (CoreRun.load_refused (x := s.coreStart k) rfl rfl hc)
  exact (State.coreStep_computes hq hn hk hr hf hh rfl).trans
    (State.coreExec_faults (x := { s.coreStart k with fault := some c }) (f := c) rfl hx rfl rfl)

end

section
variable {n rd rs1 : Nat} {off : Int} (hi : i = .load n false rd rs1 off) (ha : k.hart.addr rs1 off % n = 0)
include hi ha

theorem State.coreStep_load_local (hl : ucLocal (k.hart.addr rs1 off) n = true) :
    s.coreStep u = s.retired u { k with
      hart := k.hart.went (k.hart.setX rd (leNat (Sparse.getRun memDefault k.lmem (k.hart.addr rs1 off) n))) len } := by
  subst hi
  have hx := (State.coreAccess_load (u := u) (l := l) n false rd rs1 off).trans
    (CoreRun.load_local (x := s.coreStart k) rfl rfl (State.coreBad_reached ha (State.ucReach_local hl)) hl)
  exact (State.coreStep_computes hq hn hk hr hf hh rfl).trans (State.coreExec_retires rfl hx rfl rfl)

theorem State.coreStep_load_table (hl : ucLocal (k.hart.addr rs1 off) n = false) (hp : s.ucReach l.part (k.hart.addr rs1 off) n = true)
    (hb : s.coreHeld (k.hart.addr rs1 off) n = false) :
    s.coreStep u = (s.ucLoad u (k.hart.addr rs1 off) n).1.retired u { k with
      hart := k.hart.went (k.hart.setX rd (leNat ((s.ucLoad u (k.hart.addr rs1 off) n).1.bytes (coreKey (k.hart.addr rs1 off)) n))) len
      poisonSeen := k.poisonSeen || (s.ucLoad u (k.hart.addr rs1 off) n).2 } := by
  subst hi
  have hx := (State.coreAccess_load (u := u) (l := l) n false rd rs1 off).trans
    (CoreRun.load_table (x := s.coreStart k) rfl rfl (State.coreBad_reached ha hp) hl hb)
  exact (State.coreStep_computes hq hn hk hr hf hh rfl).trans (State.coreExec_retires rfl hx rfl rfl)

end

section
variable {n rs1 rs2 : Nat} {off : Int} (hi : i = .store n rs1 rs2 off)
include hi

/-- A store that is refused traps with the cause of its refusal. -/
theorem State.coreStep_store_refused {c : Nat × Nat} (hc : s.coreBad l.part (k.hart.addr rs1 off) n true = some c) :
    s.coreStep u = s.kernelTrap u l k.hart.pc.toNat c.1 c.2 := by
  subst hi
  rw [← leBytes_length n (k.hart.getX rs2)] at hc
  have hx := (State.coreAccess_store (u := u) (l := l) n rs1 rs2 off).trans (CoreRun.store_refused (x := s.coreStart k) rfl rfl hc)
  exact (State.coreStep_computes hq hn hk hr hf hh rfl).trans
    (State.coreExec_faults (x := { s.coreStart k with fault := some c }) (f := c) rfl hx rfl rfl)

variable (ha : k.hart.addr rs1 off % n = 0)
include ha

theorem State.coreStep_store_local (hl : ucLocal (k.hart.addr rs1 off) n = true) :
    s.coreStep u = s.retired u { k with
      hart := k.hart.went k.hart len
      lmem := Sparse.setRun memDefault k.lmem (k.hart.addr rs1 off) (leBytes n (k.hart.getX rs2)) } := by
  subst hi
  have hc : s.coreBad l.part (k.hart.addr rs1 off) n true = none := State.coreBad_reached ha (State.ucReach_local hl)
  rw [← leBytes_length n (k.hart.getX rs2)] at hc hl
  have hx := (State.coreAccess_store (u := u) (l := l) n rs1 rs2 off).trans (CoreRun.store_local (x := s.coreStart k) rfl rfl hc hl)
  exact (State.coreStep_computes hq hn hk hr hf hh rfl).trans (State.coreExec_retires rfl hx rfl rfl)

theorem State.coreStep_store_table (hl : ucLocal (k.hart.addr rs1 off) n = false) (hp : s.ucReach l.part (k.hart.addr rs1 off) n = true)
    (hb : s.coreHeld (k.hart.addr rs1 off) n = false) :
    s.coreStep u = (s.ucStore u (k.hart.addr rs1 off) (leBytes n (k.hart.getX rs2))).retired u { k with hart := k.hart.went k.hart len } := by
  subst hi
  have hc : s.coreBad l.part (k.hart.addr rs1 off) n true = none := State.coreBad_reached ha hp
  rw [← leBytes_length n (k.hart.getX rs2)] at hc hl hb
  have hx := (State.coreAccess_store (u := u) (l := l) n rs1 rs2 off).trans (CoreRun.store_table (x := s.coreStart k) rfl rfl hc hl hb)
  exact (State.coreStep_computes hq hn hk hr hf hh rfl).trans (State.coreExec_retires rfl hx rfl rfl)

end

theorem State.coreStep_ebreak (hi : i = .ebreak) :
    s.coreStep u = (s.fresh.2.trapped u k.hart.pc.toNat 3 s.fresh.1).endKernel u l 0xC1 := by
  subst hi
  exact (State.coreStep_fetched hq hn hk hr hf).trans
    ((if_neg (ne_true_of_eq_false hh)).trans (State.kernelTrap_other _ u l _ _ (by decide)))

theorem State.coreStep_ecall (hi : i = .ecall) : s.coreStep u = s.coreCall u l k len := by
  subst hi
  exact (State.coreStep_fetched hq hn hk hr hf).trans (if_neg (ne_true_of_eq_false hh))

end

/-! ## The services of ECALL (R230) -/

section
variable (s : State) (u : UnitId) (l : Lane) {k : Kernel} (len : Nat)

theorem State.coreCall_exit (h : k.hart.getX 17 = 0) : s.coreCall u l k len = s.endKernel u l (exitStatus (k.hart.getX 10) k.poisonSeen) := by
  unfold State.coreCall
  dsimp only
  rw [h]
  rfl

theorem State.coreCall_trace (h : k.hart.getX 17 = 1) :
    s.coreCall u l k len =
      (s.traceWord u (k.hart.getX 10)).retired u { k with hart := { k.hart with pc := k.hart.pc + BitVec.ofNat 64 len } } := by
  unfold State.coreCall
  dsimp only
  rw [h]
  rfl

theorem State.coreCall_unknown (h : 1 < k.hart.getX 17) : s.coreCall u l k len = (s.trapped u k.hart.pc.toNat 8 0).endKernel u l 0xC1 := by
  have trap := State.kernelTrap_other s u l k.hart.pc.toNat 0 (cause := 8) (by decide)
  unfold State.coreCall
  dsimp only
  split
  · omega
  · omega
  · exact trap

end

/-! ## What the vector unit leaves out (R221) -/

theorem decode32_vector {w : Nat} (h : bits w 0 7 = 0x57) : decode32 w = decodeVec w := by
  unfold decode32
  rw [h]
  rfl

theorem decodeVec_vv {w : Nat} (h : bits w 12 3 = 1) : decodeVec w = decodeOpf w (.v (bits w 15 5)) := by
  unfold decodeVec
  rw [h]
  rfl

theorem decodeVec_vf {w : Nat} (h : bits w 12 3 = 5) : decodeVec w = decodeOpf w (.f (bits w 15 5)) := by
  unfold decodeVec
  rw [h]
  rfl

/-- vfdiv and vfrdiv, of vectors or of an f register. -/
theorem decodeOpf_divide {w : Nat} (h : bits w 26 6 = 0b100000 ∨ bits w 26 6 = 0b100001) (r : Nat) :
    decodeOpf w (.v r) = none ∧ decodeOpf w (.f r) = none := by
  unfold decodeOpf
  rcases h with h | h <;> rw [h] <;> exact ⟨rfl, rfl⟩

/-- vfsqrt. -/
theorem decodeOpf_sqrt {w : Nat} (h : bits w 26 6 = 0b010011) : decodeOpf w (.v 0) = none := by
  unfold decodeOpf
  rw [h]
  rfl

/-- No vector of quotients or of square roots (R221). -/
theorem decode32_excluded {w : Nat} (hv : bits w 0 7 = 0x57) (hw : bits w 12 3 = 1 ∨ bits w 12 3 = 5)
    (hx : bits w 26 6 = 0b100000 ∨ bits w 26 6 = 0b100001 ∨ (bits w 12 3 = 1 ∧ bits w 26 6 = 0b010011 ∧ bits w 15 5 = 0)) :
    decode32 w = none := by
  rw [decode32_vector hv]
  rcases hw with hw | hw
  · rw [decodeVec_vv hw]
    rcases hx with h | h | ⟨-, h, h0⟩
    · exact (decodeOpf_divide (.inl h) _).1
    · exact (decodeOpf_divide (.inr h) _).1
    · rw [h0]
      exact decodeOpf_sqrt h
  · rw [decodeVec_vf hw]
    rcases hx with h | h | ⟨h1, -, -⟩
    · exact (decodeOpf_divide (.inl h) _).2
    · exact (decodeOpf_divide (.inr h) _).2
    · omega

/-- Settles O26, by the lemma about each instruction, and for the values by what a format rounds to. -/
theorem coresExecuteTheirKernels : Obligations.CoresExecuteTheirKernels := by
  have formats : ∀ f ∈ [CoreFmt.s, CoreFmt.d], 0 < f.width ∧ f.mant < f.width := by decide
  refine ⟨fun s u l rest k hq hn hk hr => ⟨fun a hf => ?_, fun len hf hh => ?_, fun i len hf hh => ?_, fun i len hf hh => ⟨fun o rd rs1 b hi => ?_,
      fun o f rm m rd rs1 rs2 hi hm => ?_, fun o f rm rd rs1 rs2 hi hm => ?_,
      fun n rd rs1 off hi => ⟨fun ha => ?_, fun ha hp => ?_, fun ha hl => ?_, fun ha hl hp hb => ?_⟩,
      fun n rs1 rs2 off hi => ⟨fun ha => ?_, fun ha hp => ?_, fun ha hl => ?_, fun ha hl hp hb => ?_⟩,
      fun hi => ?_, fun hi => ⟨fun h => ?_, fun h => ?_, fun h => ?_⟩⟩⟩,
    fun f hf rm a b c np na => ?_, rfl, rfl, fun f hf rm c hc hfin => ?_, fun s u l => rfl, fun w hv hw hx => ?_⟩
  · exact State.coreStep_fetchFault hq hn hk hr hf
  · exact State.coreStep_illegal hq hn hk hr hf hh
  · exact State.coreStep_waits hq hn hk hr hf hh
  · exact State.coreStep_alu hq hn hk hr hf hh hi
  · exact State.coreStep_fop hq hn hk hr hf hh hi hm
  · exact State.coreStep_fop_reserved hq hn hk hr hf hh hi hm
  · exact (State.coreStep_load_refused hq hn hk hr hf hh hi (State.coreBad_misaligned ha)).trans
      (State.kernelTrap_other s u l _ _ (cause := 4) (by decide))
  · exact (State.coreStep_load_refused hq hn hk hr hf hh hi (State.coreBad_unreached ha hp)).trans
      (State.kernelTrap_access s u l _ _ (cause := 5) (by decide))
  · exact State.coreStep_load_local hq hn hk hr hf hh hi ha hl
  · exact State.coreStep_load_table hq hn hk hr hf hh hi ha hl hp hb
  · exact (State.coreStep_store_refused hq hn hk hr hf hh hi (State.coreBad_misaligned ha)).trans
      (State.kernelTrap_other s u l _ _ (cause := 6) (by decide))
  · exact (State.coreStep_store_refused hq hn hk hr hf hh hi (State.coreBad_unreached ha hp)).trans
      (State.kernelTrap_access s u l _ _ (cause := 7) (by decide))
  · exact State.coreStep_store_local hq hn hk hr hf hh hi ha hl
  · exact State.coreStep_store_table hq hn hk hr hf hh hi ha hl hp hb
  · exact State.coreStep_ebreak hq hn hk hr hf hh hi
  · exact (State.coreStep_ecall hq hn hk hr hf hh hi).trans (State.coreCall_exit s u l len h)
  · exact (State.coreStep_ecall hq hn hk hr hf hh hi).trans (State.coreCall_trace s u l len h)
  · exact (State.coreStep_ecall hq hn hk hr hf hh hi).trans (State.coreCall_unknown s u l len h)
  · exact CoreFmt.canonical_operations (formats f hf).2 rm a b c np na
  · exact CoreFmt.round_decode (formats f hf).1 rm hc hfin
  · exact decode32_excluded hv hw hx

end Sys2Proof.Machine
end

section
/-!
SUPPORT. A store, byte by byte (R250, R251, R277).
-/
namespace Sys2Proof.Machine

/-- Memory bytes are all that a store changes. -/
theorem State.store_frame (s : State) (a : Nat) (d : List Byte) : { s.store a d with mem := s.mem } = s := rfl

/-- Settles O8, by the laws of the sparse stores. -/
theorem storesChangeOnlyTheirBytes : Obligations.StoresChangeOnlyTheirBytes := fun s a d =>
  ⟨fun i hi => Sparse.get_setRun_same memDefault d a i s.mem hi, fun _ hk => Sparse.get_setRun_other memDefault d a s.mem hk,
    Sparse.wf_setRun memDefault d a, State.store_frame s a d⟩

end Sys2Proof.Machine
end

section
/-!
SUPPORT. Where the lines of a die-local slice lie (R244).
-/
namespace Sys2Proof.Machine

/-- A line of a slice whose band is die-local: the low nine bits of its number choose the bank in the die, the rest the row in the band. -/
theorem State.bankOf_dieLocal {s : State} {sl n x : Nat} (hb : bit (s.get ⟨.tbl, 0⟩ Reg.tbl.mapBandMode) (sl % 16) = false)
    (hn : n < 65536) (hx : x < 256) :
    s.bankOf (sl * 0x100_0000 + n * 256 + x) = (512 * (sl / 16) + n % 512, 128 * (sl % 16) + n / 512) := by
  have slice : (sl * 0x100_0000 + n * 256 + x) / 0x100_0000 = sl := by omega
  have line : (sl * 0x100_0000 + n * 256 + x) % 0x100_0000 / 256 = n := by omega
  unfold State.bankOf
  simp only [slice, line, hb, Bool.false_eq_true, if_false]

/-- Settles O57: a line's number is read off the place where it lies. -/
theorem dieLocalLinesAreSpread : Obligations.DieLocalLinesAreSpread := by
  intro s sl _ hb
  have first {n : Nat} (hn : n < 65536) := State.bankOf_dieLocal hb hn (by decide : 0 < 256)
  refine ⟨fun n x hn hx => ?_, fun b r hbank hrow => ⟨512 * r + b, by omega, ?_⟩, fun n m hn hm same => ?_⟩
  · rw [State.bankOf_dieLocal hb hn hx, Nat.shiftRight_eq_div_pow]
  · have bank : (512 * r + b) % 512 = b := by omega
    have row : (512 * r + b) / 512 = r := by omega
    rw [← Nat.add_zero (sl * _ + _), first (by omega), bank, row]
  · rw [← Nat.add_zero (sl * _ + n * _), ← Nat.add_zero (sl * _ + m * _), first hn, first hm] at same
    obtain ⟨bank, row⟩ := Prod.mk.inj same
    omega

end Sys2Proof.Machine
end

section
/-!
SUPPORT. A read of a Table line on which the host's run of writes stands, with an injected error laid on one of its quarters (R250, R261, R602).
-/
namespace Sys2Proof.Machine

/-! ## Errors that a read meets -/

theorem State.Reports.poison {s t : State} (h : s.Reports t) : t.poison = s.poison := by rw [h.rest]; rfl

theorem State.memEvent_poison (s : State) (u : UnitId) (code dga cause : Nat) (pm : Bool) : (s.memEvent u code dga cause pm).poison = s.poison := by
  unfold State.memEvent
  split
  · rfl
  · exact (State.eventPM_reports _ _ _ _ _ _).poison

theorem State.note_poison (s : State) (u : UnitId) (kind n : Nat) : (s.note u kind n).poison = s.poison := rfl

/-- An uncorrectable error adds its line to the poisoned ones. -/
theorem State.tableUe_poison (s : State) (u : UnitId) (line beat : Nat) : (s.tableUe u line beat).poison = Keys.add s.poison line := by
  unfold State.tableUe
  dsimp only
  rw [State.memEvent_poison, State.note_poison, (State.irq_reports _ _ _).poison, (State.count_reports _ _ _ _).poison, State.put_poison,
    State.put_poison]
  rfl

/-- The first of several such errors poisons the line, and the others leave it so. -/
theorem State.tableUes_poison (u : UnitId) (line : Nat) : ∀ (ues : List Nat) (s : State), ues ≠ [] ∨ line ∈ s.poison →
    line ∈ (ues.foldl (fun t b => t.tableUe u line (b % 4)) s).poison
  | [], _, h => h.resolve_left (fun hne => hne rfl)
  | b :: ues, s, _ => State.tableUes_poison u line ues _ (.inr (by rw [State.tableUe_poison]; exact Keys.mem_add.mpr (.inl rfl)))

/-- A read of a beat of the Table with an uncorrectable error leaves its line poisoned (R250). -/
theorem State.meet_ue {s : State} {line a n b : Nat} {u : UnitId} (hh : (s.breakRun line).holder line = some u) (hu : u.blk = .tbl)
    (hb : b ∈ (s.breakRun line).hurt.ue) (here : b / 4 = line ∧ a % 256 / 64 ≤ b % 4 ∧ b % 4 * 64 < a % 256 + n) :
    line ∈ (s.meet line a n).1.poison := by
  unfold State.meet
  simp only [hh, hu]
  exact State.tableUes_poison u line _ _ (.inl (List.ne_nil_of_mem (List.mem_filter.mpr ⟨hb, decide_eq_true here⟩)))

theorem State.coreSeesPoison_poison (s : State) (r : TblReq) (p : Bool) : (s.coreSeesPoison r p).poison = s.poison := by
  unfold State.coreSeesPoison
  split <;> rfl

theorem State.poisoned_of_mem {s : State} {line : Nat} (h : line ∈ s.poison) : s.poisoned line = true := by
  simp [State.poisoned, h]

/-- A read that finds its line poisoned, whether it was so before or by what the read met, answers the poison mark. -/
theorem State.tblPerform_read_poisoned {s : State} (u : UnitId) {r : TblReq} (hr : r.op = 0)
    (h : r.key / 256 ∈ (s.meet (r.key / 256) r.key r.len).1.poison) : ∃ d, (s.tblPerform u r).resp = 1 :: d := by
  have counted {t : State} (k n : Nat) (ht : r.key / 256 ∈ t.poison) : r.key / 256 ∈ (t.count u k n).poison := by
    rwa [(State.count_reports t u k n).poison]
  have marked {t : State} (ht : r.key / 256 ∈ t.poison) (p : Bool) (d : List Byte) :
      ((t.coreSeesPoison r p).tblAnswer ((t.coreSeesPoison r p).poisoned (r.key / 256)) d).resp = 1 :: d.map BitVec.toNat := by
    rw [State.poisoned_of_mem (by rwa [State.coreSeesPoison_poison])]
    rfl
  have read := counted 6 r.beats h
  unfold State.tblPerform
  rw [hr]
  dsimp only
  rw [if_pos (State.poisoned_of_mem read)]
  exact ⟨_, marked (counted 12 1 read) _ _⟩

/-! ## The counterexample -/

/-- A bank of the Table, the only one that serves a number, with an injection of an uncorrectable error armed; port H has begun a run with the
first quarter of the line at the start of the Table. -/
def armedRun : State :=
  { State.reset with
    talon := { State.reset.talon with map := [(blkCode .tbl * 4096, 0)] }
    hurt := { armed := [(⟨.tbl, 0⟩, 1)] }
    merge := some ⟨2 ^ 40, [(0, List.replicate 64 0)], [], []⟩ }

/-- The host's write of that quarter. -/
def quarterWrite : TblReq := ⟨5, clsSys, 1, 0, 0, 0, 0, 64, List.replicate 64 0, false, 0⟩

/-- An engine's read of the quarter. -/
def quarterRead : TblReq := ⟨0, clsEng, 0, 0, 0, 0, 0, 64, [], false, 0⟩

/-- The write takes the injection. -/
def spoiltRun : State := armedRun.tblPerform ⟨.tbl, 0⟩ quarterWrite

/-- What the injection laid on the quarter stands with the run, and nothing damages the memory yet. -/
theorem spoiltRun_unhurt : spoiltRun.merge = some ⟨2 ^ 40, [(0, List.replicate 64 0)], [0], [(1, 0)]⟩ ∧ spoiltRun.hurt = {} := by
  decide +kernel

/-- The line can be read: it is not lost, sealed or poisoned. -/
theorem spoiltRun_line : spoiltRun.lost (quarterRead.key / 256) = false ∧ spoiltRun.sealedLine (quarterRead.key / 256) = false ∧
    spoiltRun.poisoned (quarterRead.key / 256) = false := by
  decide +kernel

/-- A read of the line ends the run, so that the error is the quarter's own. -/
theorem spoiltRun_ended : (spoiltRun.breakRun (quarterRead.key / 256)).holder (quarterRead.key / 256) = some ⟨.tbl, 0⟩ ∧
    2 ^ 42 ∈ (spoiltRun.breakRun (quarterRead.key / 256)).hurt.ue := by
  decide +kernel

/-- The read meets the error, and answers the poison mark. -/
theorem spoiltRun_read : ∃ d, (spoiltRun.tblPerform ⟨.tbl, 0⟩ quarterRead).resp = 1 :: d := by
  obtain ⟨held, error⟩ := spoiltRun_ended
  exact State.tblPerform_read_poisoned _ rfl (State.meet_ue held rfl error (by decide))

/-- Refutes O32: the statement has a read answer the poison that the line held before it, wherever nothing damages the memory; in a state where an
injected uncorrectable error is still with the host's run, the read ends the run, meets the error, and answers that the line is poisoned. -/
theorem not_tableBanksServe : ¬ Obligations.TableBanksServe := by
  intro ⟨_, results⟩
  obtain ⟨_, unhurt⟩ := spoiltRun_unhurt
  obtain ⟨kept, unsealed, clean⟩ := spoiltRun_line
  obtain ⟨reads, _⟩ := results spoiltRun ⟨.tbl, 0⟩ quarterRead unhurt kept unsealed (by decide)
  obtain ⟨_, answer⟩ := reads rfl
  obtain ⟨_, marked⟩ := spoiltRun_read
  rw [marked, clean] at answer
  obtain ⟨mark, _⟩ := List.cons.inj answer
  exact absurd mark (by decide)

end Sys2Proof.Machine
end

section
/-!
SUPPORT. A FILL of one row by a lane that is not the first of its command (R142, R293).
-/
namespace Sys2Proof.Machine

/-- A lane of class DMA numbered 1 in a command of one lane: a FILL of one row of 64 bytes at address 0 of the module, with PATTERN = 1. -/
def strayFill : Lane :=
  { part := 0, tmpl := 0, eclass := 7, opcode := 2, hdr := 0, bpp := 0, phase := 0, lane := 1, spanM1 := 0, rel := 1, logical := 0, phys := 0, stepTag := 0,
    attempt := 0, sigId := 0, sigInc := 0, status := none, stale := false
    ops := leBytes 8 0 ++ leBytes 8 0 ++ leBytes 8 1 ++ leBytes 4 1 ++ leBytes 4 64 ++ List.replicate 16 0 }

/-- The engine that runs it. -/
abbrev strayU : UnitId := ⟨.dma, 0⟩

/-- Node 0 at reset, whose partition 0 has every device group, but for that lane on DMA engine 0, which is RUNNING. The registers that differ from
reset: NODE_ID, which the straps give otherwise, and the engine's STATE. -/
def strayState : State :=
  State.setUnit { State.reset with regs := [(0x4_4104, 0), (0xF9_000C, 2)] } strayU (fun x => { x with queue := [strayFill] })

/-- The lane stands at the head of its engine's queue. -/
theorem strayState_queue : (strayState.unit strayU).queue = [strayFill] ∧ strayState.ustate strayU = stRunning ∧ strayState.hurt = {} := by
  decide +kernel

/-- Its work unit is row 1 of the operands' one row (R142): the checks pass, and its destination is the row after the first. -/
theorem strayFill_row : strayState.dmaChecks strayFill = none ∧ (strayState.dmaJob strayU strayFill).waits strayState = false ∧
    strayFill.share strayFill.dma.m = (1, 2) ∧ strayState.dmaOuts strayFill = [(64, 64)] := by
  decide +kernel

/-- Nothing keeps the first row from being written. -/
theorem strayState_lines : ∀ x ∈ linesOf (dgaKey strayFill.dma.dst) strayFill.dma.n,
    strayState.lost x = false ∧ strayState.sealedLine x = false ∧ strayState.deviceFaulted x = false := by
  decide +kernel

/-- The pattern goes to byte 64, and byte 0 stays as it was. -/
theorem strayState_filled : let t := strayState.dmaRun strayU (fun o => o == 2) ⟨none, 0⟩
    t.byte 64 = 1 ∧ t.byte 0 = 0 := by
  decide +kernel

/-- Refutes O23: the statement has a FILL of a command of one lane write the row at DST in any state at all; a lane numbered 1 in such a command
passes its checks and writes the row after it, and the first byte at DST keeps its value. -/
theorem not_fillWritesItsPattern : ¬ Obligations.FillWritesItsPattern := by
  intro h
  obtain ⟨queued, runs, unhurt⟩ := strayState_queue
  obtain ⟨passes, free, _, _⟩ := strayFill_row
  obtain ⟨_, kept⟩ := strayState_filled
  obtain ⟨t, ht, _, filled, _⟩ := h strayState strayU strayFill [] rfl (by decide) queued rfl rfl runs passes rfl (by decide) unhurt free
    strayState_lines
  have ran : exec (.fill strayU ⟨none, 0⟩) strayState = .next (strayState.dmaRun strayU (fun o => o == 2) ⟨none, 0⟩) :=
    atUnit_here rfl (by decide) _ _
  obtain rfl := Host.Outcome.next.inj (ran.symm.trans ht)
  have first := filled 0 (by decide)
  rw [show dgaKey strayFill.dma.dst + 0 = 0 by decide, kept] at first
  exact absurd first (by decide)

end Sys2Proof.Machine
end

section
/-!
SUPPORT. Lanes of a DMA engine with an end on another node (R293, R296, R300).
-/
namespace Sys2Proof.Machine

/-- A lane that passes its checks, has an end on another node, and has rows. -/
theorem State.dmaRemote_of {s : State} {l : Lane} (hk : s.dmaChecks l = none) (hh : s.dmaHere l = false)
    (hr : (l.share l.dma.m).1 < (l.share l.dma.m).2) : s.dmaRemote l = true := by
  simp [State.dmaRemote, hk, hh, hr]

/-- What an engine makes of such a lane at the head of its queue: an error in the engine ends it, one that has started goes on, and any other starts
unless a line of its destination here is held. -/
def State.dmaTurn (s : State) (u : UnitId) (l : Lane) (err : Option Nat) : State :=
  match err, (s.unit u).dma with
  | some e, _ => s.dmaEnd u l e
  | none, some _ => s.dmaGo u
  | none, none => if s.heldIn (s.dmaOuts l) then s else s.dmaStart u none

section
variable {s : State} {u : UnitId} {l : Lane}

theorem State.dmaTurn_error (e : Nat) : s.dmaTurn u l (some e) = s.dmaEnd u l e := by
  unfold State.dmaTurn
  rfl

theorem State.dmaTurn_started (h : (s.unit u).dma ≠ none) : s.dmaTurn u l none = s.dmaGo u := by
  obtain ⟨r, hr⟩ := Option.ne_none_iff_exists'.mp h
  unfold State.dmaTurn
  rw [hr]

theorem State.dmaTurn_held (h : (s.unit u).dma = none) (hd : s.heldIn (s.dmaOuts l) = true) : s.dmaTurn u l none = s := by
  unfold State.dmaTurn
  rw [h]
  exact if_pos hd

theorem State.dmaTurn_starts (h : (s.unit u).dma = none) (hd : s.heldIn (s.dmaOuts l) = false) : s.dmaTurn u l none = s.dmaStart u none := by
  unfold State.dmaTurn
  rw [h]
  exact if_neg (ne_true_of_eq_false hd)

/-- An engine that runs takes such a lane so. -/
theorem State.dmaRun_remote {rest : List Lane} (hq : (s.unit u).queue = l :: rest) (hn : l.status = none)
    (hs : s.ustate u = stRunning ∨ s.ustate u = stDraining) (hr : s.dmaRemote l = true) {covers : Nat → Bool} (hc : covers l.opcode = true)
    (ev : LaneEv) : s.dmaRun u covers ev = (s.dmaTurn u l ev.err).correct u 7 ev.corrected := by
  have acts : ¬(l.status.isSome || !(s.ustate u == stRunning || s.ustate u == stDraining)) = true := by
    rcases hs with hs | hs <;> simp [hn, hs]
  unfold State.dmaRun
  rw [hq]
  dsimp only
  rw [if_neg (by simp [hc, hr]), if_neg acts]
  rfl

end

/-- Settles O24: both commands take their lane so. -/
theorem remoteLanesSendTheirPieces : Obligations.RemoteLanesSendTheirPieces := by
  intro s u l rest c ev hb hu hq hn hop hs hk hh hrows
  have hr : s.dmaRemote l = true := State.dmaRemote_of hk hh hrows
  have runs : exec c s = .next ((s.dmaTurn u l ev.err).correct u 7 ev.corrected) := by
    rcases hop with ⟨ho, rfl⟩ | ⟨ho, rfl⟩
    · exact (atUnit_here hb hu s _).trans (congrArg _ (State.dmaRun_remote hq hn hs hr (by simp [ho]) ev))
    · exact (atUnit_here hb hu s _).trans (congrArg _ (State.dmaRun_remote hq hn hs hr (by simp [ho]) ev))
  refine ⟨fun e he => ?_, fun he hd => ⟨fun held => ?_, fun free => ?_⟩, fun he hd => ?_⟩ <;> rw [runs, he]
  · rw [State.dmaTurn_error]
  · rw [State.dmaTurn_held hd held]
  · rw [State.dmaTurn_starts hd free]
    rfl
  · rw [State.dmaTurn_started hd]

end Sys2Proof.Machine
end

section
/-!
SUPPORT. The GDDR7 controllers: requests, the patrol, re-centring, the copy to a spare, injections (R267, R271, R274, R277, R278, R286).
-/
namespace Sys2Proof.Machine

/-! ## Requests -/

section
variable {s : State} {u : UnitId}

/-- A request at a controller that holds requests waits there. -/
theorem State.memRequest_held (h : s.memHolds u = true) (r : MemReq) (n : Nat) :
    s.memRequest u r n = { s with memWait := s.memWait ++ [(u.page * 512 + n, r)] } := by
  unfold State.memRequest
  exact if_pos h

theorem State.memRequest_read (h : s.memHolds u = false) {r : MemReq} (hw : r.write = none) (n : Nat) :
    s.memRequest u r n = s.memRead u r.key n r.ev := by
  unfold State.memRequest
  rw [if_neg (ne_true_of_eq_false h), hw]

theorem State.memRequest_write (h : s.memHolds u = false) {r : MemReq} {d : List Byte} (hw : r.write = some d) (n : Nat) :
    s.memRequest u r n = s.memWrite u r d := by
  unfold State.memRequest
  rw [if_neg (ne_true_of_eq_false h), hw]

section
variable {off n : Nat} (fits : off % 256 + n ≤ 256) (inSpace : off < 2 ^ 48)
include fits inSpace

/-- A read of a line of a VACANT number gives zeros marked poisoned (R278). -/
theorem execMemRead_lost (h : s.lost (off / 256) = true) (ev : MemEv) :
    exec (.memRead off n ev) s = .next (s.tblAnswer true (List.replicate n 0)) := by
  change execMemRead off n ev s = _
  unfold execMemRead
  rw [if_pos ⟨fits, inSpace⟩, if_pos h]

/-- A read of any other line comes to the controller that holds it. -/
theorem execMemRead_held (h : s.lost (off / 256) = false) (hh : s.holder (off / 256) = some u) (ev : MemEv) :
    exec (.memRead off n ev) s = .next (s.memRequest u { key := off, write := none, poison := false, ev := ev } n).reviewAll := by
  change execMemRead off n ev s = _
  unfold execMemRead
  rw [if_pos ⟨fits, inSpace⟩, if_neg (ne_true_of_eq_false h), hh]

end

section
variable {off : Nat} {d : List Byte} (fits : off % 256 + d.length ≤ 256) (nonempty : 0 < d.length) (inSpace : off < 2 ^ 48)
include fits nonempty inSpace

/-- A write to a line of a VACANT number is dropped (R278). -/
theorem execMemWrite_lost (h : s.lost (off / 256) = true) (pois : Bool) (ev : MemEv) :
    exec (.memWrite off d pois ev) s = .next (s.respond [0]) := by
  change execMemWrite off d pois ev s = _
  unfold execMemWrite
  rw [if_pos ⟨fits, nonempty, inSpace⟩, if_pos h]

/-- A write to any other line comes to the controller that holds it. -/
theorem execMemWrite_held (h : s.lost (off / 256) = false) (hh : s.holder (off / 256) = some u) (pois : Bool) (ev : MemEv) :
    exec (.memWrite off d pois ev) s = .next (s.memRequest u { key := off, write := some d, poison := pois, ev := ev } d.length).reviewAll := by
  change execMemWrite off d pois ev s = _
  unfold execMemWrite
  rw [if_pos ⟨fits, nonempty, inSpace⟩, if_neg (ne_true_of_eq_false h), hh]

end
end

/-! ## The device: patrol, re-centring, copy -/

theorem State.Reports.hurt {s t : State} (h : s.Reports t) : t.hurt = s.hurt := by rw [h.rest]; rfl

/-- Corrections are counted and noted; what damages the memories stays. -/
theorem State.corrections_hurt (s : State) (u : UnitId) (n : Nat) : (s.corrections u n).hurt = s.hurt := by
  unfold State.corrections
  split
  · rfl
  · exact (State.count_reports s u 11 n).hurt

section
variable {s : State} {u : UnitId} (hu : u.blk = .mem)
include hu

/-- The patrol of a device on which no tag is bad yet meets the lines found bad now, and counts them all (R274). -/
theorem execMemPatrol_running {l : Nat} (hl : s.logicalOf u = some l) (hp : s.get u Reg.mem.scrubPeriodH ≠ 0) (hs : s.ustate u = stRunning)
    (ht : s.hurt.tags = []) (bad : List (Nat × Bool)) (corrected : Nat) : exec (.memPatrol u bad corrected) s =
      .next ((bad.foldl (fun t b => t.patrolLine u l b.1 b.2) (s.corrections u corrected)).count u 9 (2 ^ 24)).reviewAll := by
  have tagged : (s.corrections u corrected).hurt.tags = [] := by rw [State.corrections_hurt, ht]
  change execMemPatrol u bad corrected s = _
  unfold execMemPatrol
  rw [if_neg (not_not_intro hu), hl]
  dsimp only
  rw [if_neg (by simp [hp, hs]), tagged]
  rfl

/-- Re-centring is counted, and a device on which it fails enters FAULTED (R267, R288). -/
theorem execMemRecentre_running (hs : s.ustate u = stRunning) (failed : Bool) : exec (.memRecentre u failed) s =
    .next (if failed then ((s.count u 8 1).irq u (2 ^ 19)).faultUnit u 8 else s.count u 8 1) := by
  change execMemRecentre u failed s = _
  unfold execMemRecentre
  rw [if_neg (not_not_intro hu), if_neg (not_not_intro hs)]

theorem execMemRecentre_stopped (hs : s.ustate u ≠ stRunning) (failed : Bool) : exec (.memRecentre u failed) s = .next s := by
  change execMemRecentre u failed s = _
  unfold execMemRecentre
  rw [if_neg (not_not_intro hu), if_pos hs]

section
variable {x : RemapRec} {i : Nat} (hx : s.talon.remaps.find? (fun r => r.retiring == u && r.stage == .committed) = some x) (hi : x.spare = some i)
include hx hi

/-- A device that has faulted gives no more lines: those above the copy pointer stand poisoned on the spare (R277). -/
theorem execMemSpareCopy_faulted (hf : s.faulted u = true) (unreadable : List Nat) (upto : Nat) : exec (.memSpareCopy u unreadable upto) s =
    .next ((s.loseDevice x.logical (s.get u Reg.mem.spareCopyPtr)).endCopy u ⟨.mem, i⟩ x
      (x.bad + (metaBase - s.get u Reg.mem.spareCopyPtr))) := by
  change execMemSpareCopy u unreadable upto s = _
  unfold execMemSpareCopy
  rw [if_neg (not_not_intro hu), hx]
  dsimp only
  rw [hi]
  dsimp only
  rw [if_pos hf]

/-- A device all of whose lines can be read is copied as far as it has come; at its last line the copy ends (R277). -/
theorem execMemSpareCopy_readable (hf : s.faulted u = false) (upto : Nat) {p hi : Nat} (hp : s.get u Reg.mem.spareCopyPtr = p)
    (hm : max p (min upto (2 ^ 24)) = hi) : exec (.memSpareCopy u [] upto) s =
      .next (if hi = 2 ^ 24 then ((s.count u 0 (hi - p)).count ⟨.mem, i⟩ 1 (hi - p)).endCopy u ⟨.mem, i⟩ x x.bad
        else ((((s.count u 0 (hi - p)).count ⟨.mem, i⟩ 1 (hi - p)).setRemap u (fun y => y)).setCopyPtr u ⟨.mem, i⟩ hi)) := by
  subst hm hp
  change execMemSpareCopy u [] upto s = _
  unfold execMemSpareCopy
  rw [if_neg (not_not_intro hu), hx]
  dsimp only
  rw [hi]
  dsimp only
  rw [if_neg (ne_true_of_eq_false hf)]
  rfl

end
end

/-! ## Injections -/

/-- An injection that is not armed yet is armed where EXPERT_EN lets its writer (R286, R289). -/
theorem State.arm_expert {s : State} {u : UnitId} {src : Src} (hr : s.reaches src u = true) (he : s.flag u Reg.common.expertEn = true) {k : Nat}
    (ha : s.isArmed u k = false) : s.arm u src k = { s with hurt := { s.hurt with armed := s.hurt.armed ++ [(u, k)] } } := by
  unfold State.arm
  exact if_pos (by simp [hr, he, ha])

/-- Settles O33, by the lemma about each command. -/
theorem controllersServe : Obligations.ControllersServe := by
  intro s u off n ev hu
  refine ⟨fun fits inSpace => ⟨fun hl => execMemRead_lost fits inSpace hl ev, fun hl hh => ⟨fun free => ?_, fun held => ?_⟩⟩,
    fun d pois fits nonempty inSpace => ⟨fun hl => execMemWrite_lost fits nonempty inSpace hl pois ev, fun hl hh => ⟨fun free => ?_, fun held => ?_⟩⟩,
    fun l bad corrected hl hp hs ht => execMemPatrol_running hu hl hp hs ht bad corrected,
    fun hs => ⟨execMemRecentre_running hu hs false, execMemRecentre_running hu hs true⟩,
    fun hs failed => execMemRecentre_stopped hu hs failed, ?_, fun src hr he => ⟨fun ha => ?_, fun ha => ?_⟩⟩
  · rw [execMemRead_held fits inSpace hl hh, State.memRequest_read free rfl]
  · rw [execMemRead_held fits inSpace hl hh, State.memRequest_held held]
  · rw [execMemWrite_held fits nonempty inSpace hl hh, State.memRequest_write free rfl]
  · rw [execMemWrite_held fits nonempty inSpace hl hh, State.memRequest_held held]
  · intro x i upto hx hi sp from' upTo
    refine ⟨fun unreadable hf => execMemSpareCopy_faulted hu hx hi hf unreadable upto, fun hf => ?_⟩
    have copied := execMemSpareCopy_readable hu hx hi hf upto rfl rfl
    exact ⟨fun hlast => copied.trans (congrArg _ (if_pos hlast)), fun hmore => copied.trans (congrArg _ (if_neg hmore))⟩
  · exact (if_neg (not_not_intro hu)).trans (congrArg Host.Outcome.next (State.arm_expert hr he ha))
  · exact (if_neg (not_not_intro hu)).trans (congrArg Host.Outcome.next (State.arm_expert hr he ha))

end Sys2Proof.Machine
end

section
/-!
SUPPORT. The tier ports: reads and writes of T2, a read that goes without its completion, the port's link going down and coming up (R282, R284, R285,
R289).
-/
namespace Sys2Proof.Machine

/-! ## What reports and answers leave alone -/

section
variable {s t v : State}

theorem State.Reports.memWait (h : s.Reports t) : t.memWait = s.memWait := by rw [h.rest]; rfl

theorem State.Reports.tierOut (h : s.Reports t) : t.tierOut = s.tierOut := by rw [h.rest]; rfl

theorem State.Reports.resp (h : s.Reports t) : t.resp = s.resp := by rw [h.rest]; rfl

/-- The state s with all of another that an answer may change: bytes drawn, poison told to the page engines (R331), and the response. -/
def State.withAnswers (s t : State) : State := { s with pge := t.pge, freeIdx := t.freeIdx, resp := t.resp }

/-- From s to t there are answers to requesters at most. -/
def State.OnlyAnswers (s t : State) : Prop := t = s.withAnswers t

theorem State.OnlyAnswers.trans (h : s.OnlyAnswers t) (k : t.OnlyAnswers v) : s.OnlyAnswers v :=
  calc v = t.withAnswers v := k
    _ = (s.withAnswers t).withAnswers v := congrArg (fun x : State => x.withAnswers v) h
    _ = s.withAnswers v := rfl

theorem State.OnlyAnswers.mem (h : s.OnlyAnswers t) : t.mem = s.mem := by rw [h]; rfl

theorem State.OnlyAnswers.regs (h : s.OnlyAnswers t) : t.regs = s.regs := by rw [h]; rfl

theorem State.OnlyAnswers.memWait (h : s.OnlyAnswers t) : t.memWait = s.memWait := by rw [h]; rfl

theorem State.OnlyAnswers.tierOut (h : s.OnlyAnswers t) : t.tierOut = s.tierOut := by rw [h]; rfl

end

section
variable (s : State)

/-- A MEMORY record opens a window or joins one, and is a report beside that. -/
theorem State.memEvent_reports (u : UnitId) (code dga cause : Nat) (pm : Bool) :
    ∃ c, State.Reports { s with coal := c } (s.memEvent u code dga cause pm) := by
  unfold State.memEvent
  split
  · exact ⟨_, .refl _⟩
  · exact ⟨_, State.eventPM_reports _ _ _ _ _ _⟩

/-- Neither the memory, nor what waits, nor the response changes. -/
theorem State.memEvent_frame (u : UnitId) (code dga cause : Nat) (pm : Bool) :
    (s.memEvent u code dga cause pm).mem = s.mem ∧ (s.memEvent u code dga cause pm).memWait = s.memWait ∧
      (s.memEvent u code dga cause pm).tierOut = s.tierOut ∧ (s.memEvent u code dga cause pm).resp = s.resp := by
  obtain ⟨_, logged⟩ := State.memEvent_reports s u code dga cause pm
  exact ⟨logged.mem, logged.memWait, logged.tierOut, logged.resp⟩

theorem State.memEvent_get {w : UnitId} (hw : w.valid = true) {f : Field} (hf : f.unreported = true) (u : UnitId) (code dga cause : Nat) (pm : Bool) :
    (s.memEvent u code dga cause pm).get w f = s.get w f := by
  obtain ⟨c, logged⟩ := State.memEvent_reports s u code dga cause pm
  exact (logged.get hw hf).trans (State.get_of_regs (s := s) (t := { s with coal := c }) rfl w f)

theorem freeBytes_length : ∀ (n i : Nat), (freeBytes i n).length = n
  | 0, _ => rfl
  | n + 1, i => congrArg Nat.succ (freeBytes_length n (i + 1))

theorem State.freshBytes_onlyAnswers (n : Nat) : s.OnlyAnswers (s.freshBytes n).2 := rfl

theorem State.respond_onlyAnswers (r : List Nat) : s.OnlyAnswers (s.respond r) := rfl

theorem State.reportPoison_onlyAnswers (line : Nat) : s.OnlyAnswers (s.reportPoison line) := by
  unfold State.reportPoison
  split
  · rfl
  · dsimp only
    split <;> rfl

/-- A poisoned line goes back as the poison mark and its bytes. -/
theorem State.tierPoison_resp (line : Nat) (d : List Byte) : (s.tierPoison line d).resp = 1 :: d.map BitVec.toNat := rfl

/-- A read that gets poison for its bytes. -/
def State.tierPoisoned (s : State) (line n : Nat) : State := (s.freshBytes n).2.tierPoison line (s.freshBytes n).1

theorem State.tierPoisoned_resp (line n : Nat) : ∃ d, (s.tierPoisoned line n).resp = 1 :: d ∧ d.length = n :=
  ⟨_, State.tierPoison_resp _ _ _, (List.length_map _).trans (freeBytes_length n _)⟩

theorem State.tierPoisoned_onlyAnswers (line n : Nat) : s.OnlyAnswers (s.tierPoisoned line n) :=
  ((State.freshBytes_onlyAnswers s n).trans (State.reportPoison_onlyAnswers _ line)).trans (State.respond_onlyAnswers _ _)

/-! ## A read that has no completion in time (R285) -/

/-- It is counted and logged, and returns poisoned. -/
theorem State.tierLate_eq (u : UnitId) (k n : Nat) : s.tierLate u k n =
    (((s.count u 6 1).irq u (2 ^ 18)).memEvent u 0x4003 (s.lineDga (k / 256)) 0 true).tierPoisoned (k / 256) n := rfl

theorem State.tierLate_resp (u : UnitId) (k n : Nat) : ∃ d, (s.tierLate u k n).resp = 1 :: d ∧ d.length = n := by
  rw [State.tierLate_eq]
  exact State.tierPoisoned_resp _ _ n

/-- The memory and what waits stay. -/
theorem State.tierLate_frame (u : UnitId) (k n : Nat) : (s.tierLate u k n).mem = s.mem ∧ (s.tierLate u k n).memWait = s.memWait := by
  have counted := (State.count_reports s u 6 1).trans (State.irq_reports _ u (2 ^ 18))
  obtain ⟨mem, waits, _, _⟩ := State.memEvent_frame ((s.count u 6 1).irq u (2 ^ 18)) u 0x4003 (s.lineDga (k / 256)) 0 true
  rw [State.tierLate_eq, (State.tierPoisoned_onlyAnswers _ _ n).mem, (State.tierPoisoned_onlyAnswers _ _ n).memWait]
  exact ⟨mem.trans counted.mem, waits.trans counted.memWait⟩

theorem State.releaseMem_empty {s : State} (h : s.memWait = []) (u : UnitId) (run : State → MemReq → Nat → State) : s.releaseMem u run = s := by
  unfold State.releaseMem
  rw [h]
  rfl

/-- The time-out of a read answers it poisoned before what waited goes on; where nothing waits, the memory stays. -/
theorem State.tierTimeout_answers (off n : Nat) (u : UnitId) : ∃ d, (s.tierTimeout off n (some u)).resp.take (n + 1) = 1 :: d ∧ d.length = n ∧
    (s.memWait = [] → (s.tierTimeout off n (some u)).mem = s.mem) := by
  unfold State.tierTimeout
  dsimp only
  split
  · obtain ⟨d, answer, len⟩ := State.tierLate_resp (s.count u 0 1) u (2 ^ 49 + off) n
    refine ⟨d, ?_, len, fun _ => (State.tierLate_frame _ u _ n).1.trans (State.count_reports s u 0 1).mem⟩
    rw [answer, List.take_of_length_le (by simp [len])]
  · next w _ =>
    obtain ⟨d, answer, len⟩ := State.tierLate_resp { s with tierOut := s.tierOut.erase w } u (2 ^ 49 + off) n
    obtain ⟨mem, waits⟩ := State.tierLate_frame { s with tierOut := s.tierOut.erase w } u (2 ^ 49 + off) n
    refine ⟨d, ?_, len, fun h => ?_⟩
    · dsimp only
      rw [answer]
      split
      · exact List.take_of_length_le (by simp [len])
      · exact (List.take_append_of_le_length (by simp [len])).trans (List.take_of_length_le (by simp [len]))
    · rw [State.releaseMem_empty (waits.trans h)]
      exact mem

end

/-! ## Requests (R284, R285, R289) -/

/-- A request to a line waits at a port already. -/
def State.tierBehind (s : State) (u : UnitId) (k : Nat) : Bool := s.memWait.any (fun x => x.1 / 512 == u.page && x.2.key / 256 == k / 256)

section
variable {s : State} {u : UnitId} {r : MemReq}

/-- A port keeps a request while it holds requests, a read while no tag is free, and either behind one to its line. -/
theorem State.tierRequest_waits
    (h : s.memHolds u = true ∨ (r.write = none ∧ s.tagLimit u ≤ s.tagsUsed u) ∨ s.tierBehind u r.key = true) (n : Nat) :
    s.tierRequest u r n = { s with memWait := s.memWait ++ [(u.page * 512 + n, r)] } := by
  unfold State.tierRequest
  refine if_pos ?_
  rcases h with h | ⟨h, full⟩ | h
  · simp [h]
  · simp [h, full]
  · simp only [Bool.or_eq_true]
    exact .inr h

section
variable (free : s.memHolds u = false) (alone : s.tierBehind u r.key = false)
include free alone

/-- A read that may go takes a tag; one whose completion does not come keeps it. -/
theorem State.tierRequest_read (hw : r.write = none) (tag : s.tagsUsed u < s.tagLimit u) (n : Nat) : s.tierRequest u r n =
    if r.ev.late then { s.count u 0 1 with tierOut := (s.count u 0 1).tierOut ++ [(u.page * 512 + n, r)] }
    else (s.count u 0 1).tierRead u r.key n r.ev := by
  unfold State.tierBehind at alone
  unfold State.tierRequest
  dsimp only
  rw [if_neg (by simp [free, alone, tag]), hw]

theorem State.tierRequest_write {d : List Byte} (hw : r.write = some d) (n : Nat) : s.tierRequest u r n = s.tierWrite u r d := by
  unfold State.tierBehind at alone
  unfold State.tierRequest
  dsimp only
  rw [if_neg (by simp [free, alone, hw]), hw]

end

section
variable {off : Nat} (hp : s.tierPortOf off = some u) (inSpace : off < 2 ^ 48)
include hp inSpace

section
variable {n : Nat} (fits : off % 256 + n ≤ 256)
include fits

/-- While its port is not up a read returns poisoned at once (R285). -/
theorem execTierRead_lost (h : s.lost ((2 ^ 49 + off) / 256) = true) (ev : MemEv) :
    exec (.tierRead off n ev) s = .next ((s.freshBytes n).2.tblAnswer true (s.freshBytes n).1) := by
  change execTierRead off n ev s = _
  unfold execTierRead
  rw [if_pos ⟨fits, inSpace⟩, hp]
  exact congrArg _ (if_pos h)

theorem execTierRead_up (h : s.lost ((2 ^ 49 + off) / 256) = false) (ev : MemEv) : exec (.tierRead off n ev) s =
    .next (s.tierRequest u { key := 2 ^ 49 + off, write := none, poison := false, ev := ev } n) := by
  change execTierRead off n ev s = _
  unfold execTierRead
  rw [if_pos ⟨fits, inSpace⟩, hp]
  exact congrArg _ (if_neg (ne_true_of_eq_false h))

end

section
variable {d : List Byte} (fits : off % 256 + d.length ≤ 256) (nonempty : 0 < d.length)
include fits nonempty

/-- While its port is not up a write is lost (R285). -/
theorem execTierWrite_lost (h : s.lost ((2 ^ 49 + off) / 256) = true) (pois : Bool) (ev : MemEv) :
    exec (.tierWrite off d pois ev) s = .next (s.respond [1]) := by
  change execTierWrite off d pois ev s = _
  unfold execTierWrite
  rw [if_pos ⟨fits, nonempty, inSpace⟩, hp]
  exact congrArg _ (if_pos h)

theorem execTierWrite_up (h : s.lost ((2 ^ 49 + off) / 256) = false) (pois : Bool) (ev : MemEv) : exec (.tierWrite off d pois ev) s =
    .next (s.tierRequest u { key := 2 ^ 49 + off, write := some d, poison := pois, ev := ev } d.length) := by
  change execTierWrite off d pois ev s = _
  unfold execTierWrite
  rw [if_pos ⟨fits, nonempty, inSpace⟩, hp]
  exact congrArg _ (if_neg (ne_true_of_eq_false h))

end

theorem execTierTimeout_port (n : Nat) : exec (.tierTimeout off n) s = .next (s.tierTimeout off n (some u)) := by
  change execTierTimeout off n s = _
  unfold execTierTimeout
  rw [if_neg (Nat.not_le.mpr inSpace), hp]

end
end

/-! ## The link goes down (R285) -/

section
variable (s : State) (u : UnitId)

/-- A port's requests and its outstanding reads are taken from it. -/
def State.tierEmptied (s : State) (u : UnitId) : State :=
  { s with
    tierOut := s.tierOut.filter (fun w => !(w.1 / 512 == u.page)), memWait := s.memWait.filter (fun w => !(w.1 / 512 == u.page)), resp := [] }

/-- They are answered. -/
theorem State.tierDrop_onlyAnswers : (s.tierEmptied u).OnlyAnswers (s.tierDrop u) := by
  have answered (t : State) (w : Nat × MemReq) :
      t.OnlyAnswers (if w.2.write.isSome then t.respond [1] else t.tierPoisoned (w.2.key / 256) (w.1 % 512)) := by
    split
    · exact State.respond_onlyAnswers t _
    · exact State.tierPoisoned_onlyAnswers t _ _
  unfold State.tierDrop
  exact List.foldlRecOn _ _ (rfl : (s.tierEmptied u).OnlyAnswers (s.tierEmptied u))
    (fun t h w _ => h.trans ((answered t w).trans (State.respond_onlyAnswers _ _)))

/-- A port that had none answers nothing. -/
theorem State.tierDrop_resp (hw : s.memWait = []) (ho : s.tierOut = []) : (s.tierDrop u).resp = [] := by
  unfold State.tierDrop
  rw [hw, ho]
  rfl

/-- The link's fields when it has gone down. -/
def State.tierLinkCleared (s : State) (u : UnitId) : State :=
  (((s.put u Reg.tier.linkState 0).put u Reg.tier.linkWidth 0).put u Reg.tier.linkRate 0).put u Reg.tier.linkIdeOn 0

/-- The link has gone down, which is counted and told. -/
def State.tierLinkOff (s : State) (u : UnitId) : State := ((s.tierLinkCleared u).count u 9 1).irq u (2 ^ 16)

theorem State.tierLinkOff_reports : (s.tierLinkCleared u).Reports (s.tierLinkOff u) :=
  (State.count_reports _ u 9 1).trans (State.irq_reports _ u _)

theorem State.tierLinkOff_get (hu : u.valid = true) :
    (s.tierLinkOff u).get u Reg.tier.linkState = 0 ∧ (s.tierLinkOff u).get u Reg.tier.linkIdeOn = 0 := by
  have told := State.tierLinkOff_reports s u
  constructor
  · rw [told.get hu (by decide), State.tierLinkCleared, State.get_put_apart _ u u _ _ 0 (by decide) (by decide) (by decide),
      State.get_put_apart _ u u _ _ 0 (by decide) (by decide) (by decide), State.get_put_apart _ u u _ _ 0 (by decide) (by decide) (by decide),
      State.get_put_same, Nat.zero_mod]
  · rw [told.get hu (by decide), State.tierLinkCleared, State.get_put_same, Nat.zero_mod]

end

/-- The link of a port that is not down goes down: its fields, then its requests, then the record of it. -/
theorem execTierDown_up {s : State} {i : Nat} (hi : i < 2) (h : s.get ⟨.tier, i⟩ Reg.tier.linkState ≠ 0) : exec (.tierDown i) s =
    .next (((s.tierLinkOff ⟨.tier, i⟩).tierDrop ⟨.tier, i⟩).memEvent ⟨.tier, i⟩ 0x4004 0 0 false) := by
  change execTierDown i s = _
  unfold execTierDown
  rw [if_neg (Nat.not_le.mpr hi)]
  exact congrArg _ (if_neg h)

/-- What a link that goes down leaves: LINK.STATE and IDE_ON at 0, no request at the port, the memory as it was; a module at which nothing waited answers
nothing. -/
theorem State.tierDown_leaves (s : State) {u : UnitId} (hu : u.valid = true) {t : State}
    (ht : t = ((s.tierLinkOff u).tierDrop u).memEvent u 0x4004 0 0 false) :
    t.get u Reg.tier.linkState = 0 ∧ t.get u Reg.tier.linkIdeOn = 0 ∧ (∀ w ∈ t.memWait ++ t.tierOut, w.1 / 512 ≠ u.page) ∧ t.mem = s.mem ∧
      (s.memWait = [] → s.tierOut = [] → t.resp = []) := by
  obtain ⟨mem, waits, outs, answer⟩ := State.memEvent_frame ((s.tierLinkOff u).tierDrop u) u 0x4004 0 0 false
  rw [← ht] at mem waits outs answer
  have dropped := State.tierDrop_onlyAnswers (s.tierLinkOff u) u
  have told := State.tierLinkOff_reports s u
  have kept {f : Field} (hf : f.unreported = true) : t.get u f = (s.tierLinkOff u).get u f := by
    rw [ht, State.memEvent_get _ hu hf]
    exact State.get_of_regs (s := s.tierLinkOff u) dropped.regs u f
  obtain ⟨state, ide⟩ := State.tierLinkOff_get s u hu
  refine ⟨(kept (by decide)).trans state, (kept (by decide)).trans ide, fun w hw => ?_, ?_, fun hw ho => ?_⟩
  · rw [waits, outs, dropped.memWait, dropped.tierOut] at hw
    rcases List.mem_append.mp hw with hw | hw <;> simpa using (List.mem_filter.mp hw).2
  · exact mem.trans (dropped.mem.trans (told.mem.trans (by simp [State.tierLinkCleared])))
  · exact answer.trans (State.tierDrop_resp _ u (told.memWait.trans (by simpa [State.tierLinkCleared] using hw))
      (told.tierOut.trans (by simpa [State.tierLinkCleared] using ho)))

/-! ## The link comes up (R282, R285, R289) -/

/-- From s to t registers change at most. -/
def State.OnlyRegs (s t : State) : Prop := t = { s with regs := t.regs }

theorem State.OnlyRegs.refl (s : State) : s.OnlyRegs s := rfl

theorem State.OnlyRegs.put {s t : State} (h : s.OnlyRegs t) (u : UnitId) (f : Field) (x : Nat) : s.OnlyRegs (t.put u f x) :=
  calc t.put u f x = { { t.put u f x with regs := t.regs } with regs := (t.put u f x).regs } := rfl
    _ = { t with regs := (t.put u f x).regs } := by rw [State.put_frame]
    _ = { s with regs := (t.put u f x).regs } := congrArg (fun y : State => { y with regs := (t.put u f x).regs }) h

/-- The link's fields when it has come up: below x16 at 64 GT/s it is DEGRADED. -/
def State.tierLinkOn (s : State) (u : UnitId) (width rate : Nat) : State :=
  (((s.put u Reg.tier.linkWidth width).put u Reg.tier.linkRate rate).put u Reg.tier.linkIdeOn 1).put u Reg.tier.linkState
    (if width = 3 ∧ rate = 3 then 2 else 3)

theorem State.tierLinkOn_onlyRegs (s : State) (u : UnitId) (width rate : Nat) : { s.tierLinkOn u width rate with regs := s.regs } = s := by
  have only : s.OnlyRegs (s.tierLinkOn u width rate) :=
    ((((State.OnlyRegs.refl s).put u Reg.tier.linkWidth width).put u Reg.tier.linkRate rate).put u Reg.tier.linkIdeOn 1).put u Reg.tier.linkState _
  rw [only]

theorem State.tierLinkOn_get (s : State) (u : UnitId) {width rate : Nat} (hw : width ≤ 3) (hr : rate ≤ 3) :
    (s.tierLinkOn u width rate).get u Reg.tier.linkState = (if width = 3 ∧ rate = 3 then 2 else 3) ∧
      (s.tierLinkOn u width rate).get u Reg.tier.linkWidth = width ∧ (s.tierLinkOn u width rate).get u Reg.tier.linkRate = rate ∧
      (s.tierLinkOn u width rate).get u Reg.tier.linkIdeOn = 1 := by
  have apart (t : State) {f g : Field} (x : Nat) (ha : fieldsApart f g = true) (hf : fieldWithin f = true) (hg : fieldWithin g = true) :
      (t.put u f x).get u g = t.get u g := State.get_put_apart t u u f g x ha hf hg
  unfold State.tierLinkOn
  refine ⟨?_, ?_, ?_, ?_⟩
  · rw [State.get_put_same]
    split <;> rfl
  · rw [apart _ _ (by decide) (by decide) (by decide), apart _ _ (by decide) (by decide) (by decide), apart _ _ (by decide) (by decide) (by decide),
      State.get_put_same]
    exact Nat.mod_eq_of_lt (Nat.lt_of_le_of_lt hw (by decide))
  · rw [apart _ _ (by decide) (by decide) (by decide), apart _ _ (by decide) (by decide) (by decide), State.get_put_same]
    exact Nat.mod_eq_of_lt (Nat.lt_of_le_of_lt hr (by decide))
  · rw [apart _ _ (by decide) (by decide) (by decide), State.get_put_same]
    rfl

theorem execTierPortUp_trained {s : State} {i width rate : Nat} (hi : i < 2) (hw : 1 ≤ width ∧ width ≤ 3) (hr : 1 ≤ rate ∧ rate ≤ 3) :
    exec (.tierPortUp i width rate) s = .next (s.tierLinkOn ⟨.tier, i⟩ width rate) := by
  change execTierPortUp i width rate s = _
  unfold execTierPortUp
  rw [if_neg (Nat.not_le.mpr hi)]
  exact congrArg _ (if_neg (by omega))

theorem execTierInjectTag_here {u : UnitId} (hu : u.blk = .tier) (s : State) (src : Src) :
    exec (.tierInjectTag u src) s = .next (s.arm u src 3) := if_neg (not_not_intro hu)

/-- Settles O34, by the lemma about each command. -/
theorem tierPortsServe : Obligations.TierPortsServe := by
  rintro s ⟨_, i⟩ off n ev rfl
  refine ⟨fun hp fits inSpace => ?_, fun d pois hp fits nonempty inSpace => ?_, fun hi hl => ?_, fun width rate hi h1 hw h2 hr => ?_,
    fun src hr he ha => (execTierInjectTag_here rfl s src).trans (congrArg Host.Outcome.next (State.arm_expert hr he ha))⟩
  · intro q busy
    refine ⟨fun hl => ?_, fun hl => ?_, ?_⟩
    · exact ⟨_, _, execTierRead_lost hp inSpace fits hl ev, rfl, (List.length_map _).trans (freeBytes_length n _), rfl, rfl⟩
    · have comes : exec (.tierRead off n ev) s = .next (s.tierRequest ⟨.tier, i⟩ q n) := execTierRead_up hp inSpace fits hl ev
      refine ⟨fun h => comes.trans (congrArg _ ?_), fun free tag alone => ?_⟩
      · exact State.tierRequest_waits (h.imp_right (Or.imp_left (fun full => ⟨rfl, full⟩))) n
      · have goes := comes.trans (congrArg _ (State.tierRequest_read (r := q) free alone rfl tag n))
        exact ⟨fun prompt => goes.trans (congrArg _ (if_neg (ne_true_of_eq_false prompt))), fun late => goes.trans (congrArg _ (if_pos late))⟩
    · obtain ⟨d, answer, len, still⟩ := State.tierTimeout_answers s off n ⟨.tier, i⟩
      exact ⟨_, d, execTierTimeout_port hp inSpace n, answer, len, still⟩
  · intro q busy
    refine ⟨fun hl => execTierWrite_lost hp inSpace fits nonempty hl pois ev, fun hl => ?_⟩
    have comes : exec (.tierWrite off d pois ev) s = .next (s.tierRequest ⟨.tier, i⟩ q d.length) :=
      execTierWrite_up hp inSpace fits nonempty hl pois ev
    exact ⟨fun h => comes.trans (congrArg _ (State.tierRequest_waits (h.imp_right .inr) _)),
      fun free alone => comes.trans (congrArg _ (State.tierRequest_write (r := q) free alone rfl _))⟩
  · exact ⟨_, execTierDown_up hi hl, State.tierDown_leaves s (decide_eq_true hi) rfl⟩
  · obtain ⟨state, wide, fast, ide⟩ := State.tierLinkOn_get s ⟨.tier, i⟩ hw hr
    exact ⟨_, execTierPortUp_trained hi ⟨h1, hw⟩ ⟨h2, hr⟩, state, wide, fast, ide, State.tierLinkOn_onlyRegs s _ width rate⟩

end Sys2Proof.Machine
end

section
/-!
SUPPORT. Requests and pushes from other nodes at this module, and what comes back for its own lanes (R281, R296, R297, R391, R435).
-/
namespace Sys2Proof.Machine

/-! ## At the target -/

theorem State.rouse_unparked {s : State} (h : s.parked = false) : s.rouse = s := by
  unfold State.rouse
  exact if_neg (ne_true_of_eq_false h)

/-- The command that a packet of a class comes in. -/
def remoteCmd (p : Pkt) : Instr := if p.tc = 2 then .remoteRequest p else .pushReceive p

section
variable {s : State} {p : Pkt}

/-- A request or a push, whole and for a partition, is taken, where the module is not parked. -/
theorem exec_remoteCmd (hs : s.parked = false) (ha : p.abort = false) (hp : p.part < 8)
    (hk : tc2Request p = true ∨ p.kind = kWrite ∧ (p.tc = 3 ∨ p.tc = 4)) : exec (remoteCmd p) s = .next (s.takeRemote p) := by
  have inRange : decide (8 ≤ p.part) = false := decide_eq_false (Nat.not_le.mpr hp)
  rcases hk with hr | ⟨hw, hc⟩
  · have h2 : p.tc = 2 := beq_iff_eq.mp ((Bool.and_eq_true _ _).mp hr).1
    have taken : execRemoteRequest p s = .next (s.takeRemote p) := by
      unfold execRemoteRequest
      rw [if_neg (by simp [ha, hr, inRange]), State.rouse_unparked hs]
    rw [remoteCmd, if_pos h2]
    exact taken
  · have h2 : p.tc ≠ 2 := by omega
    have taken : execPushReceive p s = .next (s.takeRemote p) := by
      unfold execPushReceive
      rw [if_neg (by rcases hc with hc | hc <;> simp [ha, hw, hc, inRange]), State.rouse_unparked hs]
    rw [remoteCmd, if_neg h2]
    exact taken

theorem State.takeRemote_waits (h : s.remoteWaits p = true) : s.takeRemote p = s.setNet (fun n => { n with waiting := n.waiting ++ [p] }) := by
  unfold State.takeRemote
  exact if_pos h

theorem State.takeRemote_serves (h : s.remoteWaits p = false) : s.takeRemote p = s.serveRemote p := by
  unfold State.takeRemote
  exact if_neg (ne_true_of_eq_false h)

theorem State.remoteSpan_read (s : State) (h : p.kind = kRead) : (s.remoteSpan p).2 = readLen p := if_pos h

theorem State.remoteSpan_write (s : State) (h : p.kind ≠ kRead) : (s.remoteSpan p).2 = max 1 p.data.length := if_neg h

/-- A read that may reach its range is answered with what it finds there. -/
theorem State.serveRemote_read (hk : p.kind = kRead) (ok : s.remoteAllowed p.part p.src p.addr (readLen p) = true) :
    s.serveRemote p = (s.readAll clsMove [s.remoteSpan p]).1.inject { s.reply p kReadData with
      data := (s.readAll clsMove [s.remoteSpan p]).1.bytes (dgaKey p.addr) (readLen p)
      poison := (s.readAll clsMove [s.remoteSpan p]).1.anyPoison (dgaKey p.addr) (readLen p) } := by
  unfold State.serveRemote
  dsimp only
  rw [if_pos hk, State.remoteSpan_read s hk, if_pos ok]

/-- One that may not is answered with zeros marked poisoned. -/
theorem State.serveRemote_read_refused (hk : p.kind = kRead) (no : s.remoteAllowed p.part p.src p.addr (readLen p) = false) :
    s.serveRemote p = (s.refuseRemote p (readLen p)).inject
      { s.reply p kReadData with data := List.replicate (readLen p) 0, poison := true } := by
  unfold State.serveRemote
  dsimp only
  rw [if_pos hk, State.remoteSpan_read s hk, if_neg (ne_true_of_eq_false no)]

/-- A write or a push, allowed or not, and its acknowledgement on its own class. -/
theorem State.serveRemote_write (hk : p.kind ≠ kRead) {ok : Bool} (h : s.remoteAllowed p.part p.src p.addr (max 1 p.data.length) = ok) :
    s.serveRemote p =
      (if ok then s.writeMem clsMove (dgaKey p.addr) p.data p.poison else s.refuseRemote p (max 1 p.data.length)).inject
        (if p.tc = 2 then { s.reply p kWriteAck with poison := !ok }
          else { s.packet p.src 0 kMsg with extra := pushAckExtra (p.extra % 2 ^ 32) (if ok then p.data.length else 0) !ok }) := by
  unfold State.serveRemote
  dsimp only
  rw [if_neg hk, State.remoteSpan_write s hk, h]
  by_cases htc : p.tc = 2
  · rw [if_pos htc, if_pos htc]
  · rw [if_neg htc, if_neg htc]

end

/-! ## At the requester -/

section
variable {s : State} {q : ReqRec}

/-- An answer goes to the request that holds its tag, and to its lane where that still runs: the bytes of a read, or what became of a write. -/
theorem execRemoteResponse_found {p : Pkt} (ha : p.abort = false)
    (hf : s.net.reqs.find? (fun q => q.tag == some (p.tagPort, p.tag) &&
      (if q.kind = 0 then p.kind == kReadData else q.kind == 1 && p.kind == kWriteAck)) = some q) :
    exec (.remoteResponse p) s = .next (
      if !q.live then s.dropReq q
      else if q.kind = 0 then ((s.dropReq q).stagePiece (dmaU q.engine) q (p.data.take q.len) p.poison).dmaAck (dmaU q.engine) p.poison false
      else (s.dropReq q).dmaAck (dmaU q.engine) false p.poison) := by
  change execRemoteResponse p s = _
  unfold execRemoteResponse
  rw [if_neg (ne_true_of_eq_false ha), hf]

variable {node cls seq : Nat} (hf : s.net.reqs.find? (fun q => q.kind == 2 && q.node == node && q.cls == cls && q.seq == seq) = some q)
include hf

theorem execPushAck_found (refused : Bool) : exec (.pushAck node cls seq refused) s =
    .next (if q.live then (s.dropReq q).dmaAck (dmaU q.engine) false refused else s.dropReq q) := by
  change execPushAck node cls seq refused s = _
  unfold execPushAck
  rw [hf]

theorem execPushAckTimeout_found : exec (.pushAckTimeout node cls seq) s = .next (s.lostRequest q false) := by
  change execPushAckTimeout node cls seq s = _
  unfold execPushAckTimeout
  rw [hf]

end

theorem execTc2Timeout_found {s : State} {q : ReqRec} {port tag : Nat} (hf : s.net.reqs.find? (fun q => q.tag == some (port, tag)) = some q) :
    exec (.tc2Timeout port tag) s = .next (s.lostRequest q false) := by
  change execTc2Timeout port tag s = _
  unfold execTc2Timeout
  rw [hf]

/-- Settles O35: a request or push is taken and then waits or is served; an answer, or its absence, is a matter of the request that it names. -/
theorem remoteTrafficIsServed : Obligations.RemoteTrafficIsServed := by
  intro s p hs ha
  refine ⟨?_, fun q hf => ⟨fun hl => ?_, fun hl h0 => ?_, fun hl h0 => ?_⟩,
    fun node cls seq refused q hf => ⟨fun hl => ?_, fun hl => ?_, execPushAckTimeout_found hf⟩, fun port tag q hf => execTc2Timeout_found hf⟩
  · intro hp hk c
    have taken : exec c s = .next (s.takeRemote p) := exec_remoteCmd hs ha hp hk
    refine ⟨fun hw => by rw [taken, State.takeRemote_waits hw], fun hw => ?_⟩
    have served : exec c s = .next (s.serveRemote p) := by rw [taken, State.takeRemote_serves hw]
    refine ⟨fun hr => ⟨fun ok => ?_, fun no => ?_⟩, fun hr h2 => ⟨fun ok => ?_, fun no => ?_⟩, fun hw h2 => ?_⟩
    · exact served.trans (congrArg _ (State.serveRemote_read hr ok))
    · exact served.trans (congrArg _ (State.serveRemote_read_refused hr no))
    · rw [served, State.serveRemote_write hr ok, if_pos h2]
      rfl
    · rw [served, State.serveRemote_write hr no, if_pos h2]
      rfl
    · have hr : p.kind ≠ kRead := by
        rw [hw]
        decide
      refine ⟨fun ok => ?_, fun no => ?_⟩
      · rw [served, State.serveRemote_write hr ok, if_neg h2]
        rfl
      · rw [served, State.serveRemote_write hr no, if_neg h2]
        rfl
  · rw [execRemoteResponse_found ha hf, if_pos (by simp [hl])]
  · rw [execRemoteResponse_found ha hf, if_neg (by simp [hl]), if_pos h0]
  · rw [execRemoteResponse_found ha hf, if_neg (by simp [hl]), if_neg h0]
  · rw [execPushAck_found hf, if_pos hl]
  · rw [execPushAck_found hf, if_neg (ne_true_of_eq_false hl)]

end Sys2Proof.Machine
end

section
/-!
SUPPORT. Doorbells, descriptors and aborts at the request rings, and admission at the lead and at its followers (R323, R343, R346 to R348, R361, R379,
R383, R384).
-/
namespace Sys2Proof.Machine

/-- What a decision of the Dealer does rests on the state that it is taken in alone. -/
theorem State.journaled_congr {s : State} {f g : State → State} (h : f s = g s) : s.journaled f = s.journaled g := by
  unfold State.journaled
  rw [h]

/-! ## Doorbells (R346, R383, R384) -/

/-- Where the rings are on, a doorbell is refused only for its distance from the head. -/
theorem State.refusesDoorbell_iff {s : State} {part : Nat} (hr : s.ringsOn part = true) (size ahead : Nat) :
    (!s.ringsOn part || decide (size < ahead)) = true ↔ size < ahead := by simp [hr]

section
variable {s : State} {src : Src} {part value : Nat} (ho : s.ownsWindow src part = true) (hr : s.ringsOn part = true)
include ho hr

theorem execRq0Doorbell_beyond (h : 2 ^ s.win part Reg.win.rq0Log2 < (2 ^ 32 + value - s.win part Reg.win.rq0Head) % 2 ^ 32) :
    exec (.rq0Doorbell src part value) s = .next ((s.count hifU 4 1).doorbellErr part 0 value) := by
  change execRq0Doorbell src part value s = _
  unfold execRq0Doorbell
  dsimp only
  rw [if_neg (by simp [ho]), if_pos ((State.refusesDoorbell_iff hr _ _).mpr h)]

/-- A doorbell within the ring: the target moves there, and what follows is the work of the queue's room. -/
theorem execRq0Doorbell_within (h : (2 ^ 32 + value - s.win part Reg.win.rq0Head) % 2 ^ 32 ≤ 2 ^ s.win part Reg.win.rq0Log2) :
    exec (.rq0Doorbell src part value) s = .next ((s.count hifU 4 1).journaled (fun t =>
      let u := t.setPart part (fun r => { r with rq0Target := value, rq0Stop := r.rq0Stop && s.win part Reg.win.statusFetchErr == 1 })
      if s.queueFull part then (((u.stopFetch part 0).ringFull part).count s.dealer 13 1).irq s.dealer (2 ^ 20) else u.fetch)) := by
  change execRq0Doorbell src part value s = _
  unfold execRq0Doorbell
  dsimp only
  rw [if_neg (by simp [ho]), if_neg (mt (State.refusesDoorbell_iff hr _ _).mp (Nat.not_lt.mpr h))]

theorem execRq1Doorbell_beyond (h : 2 ^ s.win part Reg.win.rq1Log2 < (2 ^ 32 + value - s.win part Reg.win.rq1Head) % 2 ^ 32) :
    exec (.rq1Doorbell src part value) s = .next ((s.count hifU 4 1).doorbellErr part 4 value) := by
  change execRq1Doorbell src part value s = _
  unfold execRq1Doorbell
  dsimp only
  rw [if_neg (by simp [ho]), if_pos ((State.refusesDoorbell_iff hr _ _).mpr h)]

theorem execRq1Doorbell_within (h : (2 ^ 32 + value - s.win part Reg.win.rq1Head) % 2 ^ 32 ≤ 2 ^ s.win part Reg.win.rq1Log2) :
    exec (.rq1Doorbell src part value) s = .next ((s.count hifU 4 1).journaled (fun t =>
      (t.setPart part (fun r => { r with rq1Target := value, rq1Stop := r.rq1Stop && s.win part Reg.win.statusFetchErr == 1 })).fetch)) := by
  change execRq1Doorbell src part value s = _
  unfold execRq1Doorbell
  dsimp only
  rw [if_neg (by simp [ho]), if_neg (mt (State.refusesDoorbell_iff hr _ _).mp (Nat.not_lt.mpr h))]

end

/-! ## Descriptors (R342, R346, R383, R384) -/

/-- The work of a request descriptor that has been read, or whose read has failed, at the head that it stood at. -/
def State.takeDescriptor (s : State) (part head : Nat) : Option (List Byte) → State
  | none => (((s.stopFetch part 0).fetchErr part 0 head).setPart part (fun r => { r with rq0Stop := true })).fetch
  | some d =>
    if s.queueFull part then ((s.stopFetch part 0).ringFull part).fetch
    else
      let t := (s.accept part 0).count hifU 0 1
      if s.pstate part = 0 then t.outcomeNoSlot part d 0 ocInvalid 0
      else if !s.isLead part then t.outcomeNoSlot part d 0 ocNotLead 0
      else
        let c := t.copyDesc part { desc := d, since := s.now, resumed := [], fork := none }
        c.1.setPart part (fun r => { r with queue := r.queue ++ [c.2] })

/-- The work of an abort descriptor. -/
def State.takeAbort (s : State) (part head : Nat) : Option (List Byte) → State
  | none => (((s.stopFetch part 1).fetchErr part 1 head).setPart part (fun r => { r with rq1Stop := true })).fetch
  | some d =>
    let t := (s.accept part 1).count hifU 1 1
    if dsc d 8 120 < 2 then t.abort part (dsc d 0 8) (dsc d 8 1 == 1) else t.outcomeNoSlot part d 0 ocInvalid 0

section
variable {s : State} {part : Nat} (hr : s.ringsOn part = true)
include hr

theorem execRequestDescriptor_reads (hs : (s.part part).rq0Stop = false) (hh : s.win part Reg.win.rq0Head ≠ (s.part part).rq0Target)
    (bytes : Option (List Byte)) : exec (.requestDescriptor part bytes) s =
      .next (s.journaled (fun u => u.takeDescriptor part (s.win part Reg.win.rq0Head) bytes)) := by
  change execRequestDescriptor part bytes s = _
  unfold execRequestDescriptor
  dsimp only
  rw [if_neg (by simp [hr, hs, hh])]
  cases bytes <;> rfl

theorem execAbortDescriptor_reads (hs : (s.part part).rq1Stop = false) (hh : s.win part Reg.win.rq1Head ≠ (s.part part).rq1Target)
    (bytes : Option (List Byte)) : exec (.abortDescriptor part bytes) s =
      .next (s.journaled (fun u => u.takeAbort part (s.win part Reg.win.rq1Head) bytes)) := by
  change execAbortDescriptor part bytes s = _
  unfold execAbortDescriptor
  dsimp only
  rw [if_neg (by simp [hr, hs, hh])]
  cases bytes <;> rfl

end

section
variable {s : State} {part : Nat} {d : List Byte} (head : Nat)

theorem State.takeDescriptor_full (h : s.queueFull part = true) :
    s.takeDescriptor part head (some d) = ((s.stopFetch part 0).ringFull part).fetch := if_pos h

theorem State.takeDescriptor_off (hq : s.queueFull part = false) (h : s.pstate part = 0) :
    s.takeDescriptor part head (some d) = ((s.accept part 0).count hifU 0 1).outcomeNoSlot part d 0 ocInvalid 0 :=
  (if_neg (ne_true_of_eq_false hq)).trans (if_pos h)

theorem State.takeDescriptor_follower (hq : s.queueFull part = false) (h : s.pstate part ≠ 0) (hl : s.isLead part = false) :
    s.takeDescriptor part head (some d) = ((s.accept part 0).count hifU 0 1).outcomeNoSlot part d 0 ocNotLead 0 :=
  (if_neg (ne_true_of_eq_false hq)).trans ((if_neg h).trans (if_pos (by simp [hl])))

theorem State.takeDescriptor_queues (hq : s.queueFull part = false) (h : s.pstate part ≠ 0) (hl : s.isLead part = true) :
    s.takeDescriptor part head (some d) =
      let c := ((s.accept part 0).count hifU 0 1).copyDesc part { desc := d, since := s.now, resumed := [], fork := none }
      c.1.setPart part (fun r => { r with queue := r.queue ++ [c.2] }) :=
  (if_neg (ne_true_of_eq_false hq)).trans ((if_neg h).trans (if_neg (by simp [hl])))

theorem State.takeAbort_formed (h : dsc d 8 120 < 2) :
    s.takeAbort part head (some d) = ((s.accept part 1).count hifU 1 1).abort part (dsc d 0 8) (dsc d 8 1 == 1) := if_pos h

theorem State.takeAbort_malformed (h : 2 ≤ dsc d 8 120) :
    s.takeAbort part head (some d) = ((s.accept part 1).count hifU 1 1).outcomeNoSlot part d 0 ocInvalid 0 := if_neg (Nat.not_lt.mpr h)

end

/-! ## Admission (R343, R347, R348) -/

/-- The queue without the request that admission took, and what room that makes. -/
def State.dropRequest (s : State) (part i : Nat) : State :=
  (s.setPart part (fun r => { r with queue := r.queue.eraseIdx i })).checkRoom part

/-- The slots that a queued request needs: one for a fork that comes again, else one per fork. -/
def QEntry.forks (e : QEntry) : Nat := if e.fork.isSome then 1 else dsc e.desc 0x15 1

/-- A request that is admitted: it leaves the queue for its slots, is counted and told to the group, and its run of hits is looked up. -/
def State.admitNext (s : State) (part i : Nat) (e : QEntry) (slots : List Nat) : State :=
  ((((((s.dropRequest part i).takeSlots part e.desc e.forks e.resumed (s.followers part) (e.fork.getD 0) slots).setPart part
    (fun r => { r with admissions := r.admissions + 1 })).count s.dealer 3 1).sendGroup part .admission
    ([part, e.forks] ++ slots ++ [e.resumed.length] ++ e.resumed ++ e.desc.map (fun b => b.toNat))).matchPrefix part (slots.headD 0) e.desc)

section
variable {s : State} {part i : Nat} {e : QEntry} (hp : s.parked = false) (ha : s.mayAdmit part = true) (hn : s.nextRequest part = some i)
  (he : (s.part part).queue[i]? = some e)
include hp ha hn he

/-- Admission reads the descriptor of the request that is next: it fails the request, waits for slots, or takes them. -/
theorem execAdmit_next : exec (.admitRequest part) s = .next (
    let m := s.readDesc part e
    if m.2 || !m.1.requestOk part e.desc then
      m.1.journaled (fun t => (t.dropRequest part i).outcomeNoSlot part e.desc (e.fork.getD 0) ocInvalid e.resumed.length)
    else if (m.1.freeSlots part).length < e.forks then m.1
    else m.1.journaled (fun t => t.admitNext part i e ((t.freeSlots part).take e.forks))) := by
  change execAdmit part s = _
  unfold execAdmit
  rw [if_neg (by simp [ha]), State.rouse_unparked hp]
  dsimp only
  rw [hn]
  dsimp only
  rw [he]
  rfl

theorem execAdmit_fails (h : (s.readDesc part e).2 = true ∨ (s.readDesc part e).1.requestOk part e.desc = false) : exec (.admitRequest part) s =
    .next ((s.readDesc part e).1.journaled (fun t =>
      (t.dropRequest part i).outcomeNoSlot part e.desc (e.fork.getD 0) ocInvalid e.resumed.length)) := by
  rw [execAdmit_next hp ha hn he]
  dsimp only
  rw [if_pos (by simpa using h)]

section
variable (hm : (s.readDesc part e).2 = false) (hk : (s.readDesc part e).1.requestOk part e.desc = true)
include hm hk

theorem execAdmit_waits (h : ((s.readDesc part e).1.freeSlots part).length < e.forks) :
    exec (.admitRequest part) s = .next (s.readDesc part e).1 := by
  rw [execAdmit_next hp ha hn he]
  dsimp only
  rw [if_neg (by simp [hm, hk]), if_pos h]

theorem execAdmit_takes (h : e.forks ≤ ((s.readDesc part e).1.freeSlots part).length) : exec (.admitRequest part) s =
    .next ((s.readDesc part e).1.journaled (fun t => t.admitNext part i e (((s.readDesc part e).1.freeSlots part).take e.forks))) := by
  rw [execAdmit_next hp ha hn he]
  dsimp only
  rw [if_neg (by simp [hm, hk]), if_neg (Nat.not_lt.mpr h)]
  exact congrArg _ (State.journaled_congr rfl)

end

end

/-- A follower takes the record of an admission that it does not know yet, and acknowledges each slot. -/
theorem execAdmissionRecord_new {s : State} {part : Nat} {slots : List Nat} (hl : s.isLead part = false) (hv : s.service = true)
    (hr : s.recovering = false) (hu : s.ustate s.dealer = stRunning) (ht : s.trngBad = false)
    (hn : slots.all (fun n => ((s.part part).slot? n).isSome) = false) (resumed : List Nat) (desc : List Byte) :
    exec (.admissionRecord part slots resumed desc) s = .next (s.journaled (fun t =>
      slots.foldl (fun u n => u.sendLead part .admissionAck [part, u.memberIx part, n])
        ((t.takeSlots part desc slots.length resumed [] 0 slots).setPart part (fun r => { r with admissions := r.admissions + 1 })))) := by
  change execAdmissionRecord part slots resumed desc s = _
  unfold execAdmissionRecord
  rw [if_neg (by simp [hl, hv, hr, hu, ht])]
  refine congrArg _ (State.journaled_congr ?_)
  dsimp only
  rw [if_neg (ne_true_of_eq_false hn)]

/-- The last report of a slot: the count of blocks that all members hit is known. -/
theorem execPrefixReport_last {s : State} {part slot member : Nat} {x : SlotRec} (hx : (s.part part).slot? slot = some x)
    (hu : x.unreported = [member]) (hits : Nat) : exec (.prefixReport part member slot hits) s =
      .next ((s.updSlot part slot (fun y => { y with unreported := [], matched := min x.matched hits })).journaled
        (fun t => t.fixMatch part slot (min x.matched hits))) := by
  have left : x.unreported.filter (fun y => y != member) = [] := by simp [hu]
  change execPrefixReport part member slot hits s = _
  unfold execPrefixReport
  rw [hx]
  dsimp only
  rw [if_neg (by simp [hu]), left]
  rfl

/-- Settles O15, by the lemma about each command. -/
theorem doorbellsFetchAndDescriptorsQueue : Obligations.DoorbellsFetchAndDescriptorsQueue := by
  refine ⟨fun s src part value ho hr => ⟨fun h => ⟨fun hq => ?_, fun hq => ?_⟩, execRq0Doorbell_beyond ho hr, execRq1Doorbell_within ho hr,
      execRq1Doorbell_beyond ho hr, fun hs hh => ⟨fun d hq => ⟨fun h => ?_, fun h hl => ?_, fun h hl => ?_⟩, fun d hq => ?_, ?_⟩,
      fun hs hh => ⟨fun d h => ?_, fun d h => ?_, ?_⟩⟩,
    fun s part => ⟨fun i e hp ha hn he => ⟨execAdmit_takes hp ha hn he, execAdmit_waits hp ha hn he, execAdmit_fails hp ha hn he⟩,
      fun slots resumed desc hl hv hr hu ht hn => execAdmissionRecord_new hl hv hr hu ht hn resumed desc,
      fun member slot => ?_, fun member slot hits x hx hu => execPrefixReport_last hx hu hits⟩⟩
  · rw [execRq0Doorbell_within ho hr h]
    exact congrArg _ (State.journaled_congr (if_neg (ne_true_of_eq_false hq)))
  · rw [execRq0Doorbell_within ho hr h]
    exact congrArg _ (State.journaled_congr (if_pos hq))
  · rw [execRequestDescriptor_reads hr hs hh]
    exact congrArg _ (State.journaled_congr (State.takeDescriptor_off _ hq h))
  · rw [execRequestDescriptor_reads hr hs hh]
    exact congrArg _ (State.journaled_congr (State.takeDescriptor_follower _ hq h hl))
  · rw [execRequestDescriptor_reads hr hs hh]
    exact congrArg _ (State.journaled_congr (State.takeDescriptor_queues _ hq h hl))
  · rw [execRequestDescriptor_reads hr hs hh]
    exact congrArg _ (State.journaled_congr (State.takeDescriptor_full _ hq))
  · exact execRequestDescriptor_reads hr hs hh none
  · rw [execAbortDescriptor_reads hr hs hh]
    exact congrArg _ (State.journaled_congr (State.takeAbort_formed _ h))
  · rw [execAbortDescriptor_reads hr hs hh]
    exact congrArg _ (State.journaled_congr (State.takeAbort_malformed _ h))
  · exact execAbortDescriptor_reads hr hs hh none
  · exact ⟨_, rfl, congrArg PartRec.slots (State.setPart_same s part _), fun q hq => State.setPart_other s hq _, rfl, rfl, rfl⟩

end Sys2Proof.Machine
end

section
/-!
SUPPORT. What the page engines answer: ALLOC and PREFETCH lanes, lookups, reservations and hash lists (R310, R313, R314, R323, R329, R334 to R336).
-/
namespace Sys2Proof.Machine

/-! ## What signals leave alone -/

section
variable {s t : State} (h : s.OnlySignals t)
include h

theorem State.OnlySignals.pge : t.pge = s.pge := by rw [h]; rfl

theorem State.OnlySignals.parts : t.parts = s.parts := by rw [h]; rfl

theorem State.OnlySignals.units : t.units = s.units := by rw [h]; rfl

theorem State.OnlySignals.poison : t.poison = s.poison := by rw [h]; rfl

theorem State.OnlySignals.resp : t.resp = s.resp := by rw [h]; rfl

end

theorem State.setPge_same (s : State) (p : Nat) (f : PgePart → PgePart) : (s.setPge p f).pgePart p = f (s.pgePart p) := by
  rw [State.setPge_pgePart, if_pos rfl]

/-! ## Lanes of the PGE class (R314, R329, R334) -/

/-- The status and the work of an ALLOC lane. -/
def State.allocWork (s : State) (u : UnitId) (l : Lane) : Nat × State :=
  match pgeChecks s l with
  | some e => (e, s)
  | none =>
    let tbl := (l.op 16 8, 64 + 32 * l.op 34 2)
    let m := s.readAll clsSys [tbl]
    let r := m.1.allocEntries l.part (m.1.stEntries (dgaKey tbl.1) (l.op 32 2) (l.op 34 2))
    if m.2 then (3, r.1) else if m.1.anyPoison (dgaKey tbl.1) tbl.2 then (2, r.1.irq u 4) else (r.2, r.1)

/-- The status and the work of a PREFETCH lane. -/
def State.prefetchWork (s : State) (u : UnitId) (hg : Nat) (l : Lane) : Nat × State :=
  match s.prefetchCheck l hg with
  | some e => (e, s)
  | none =>
    let m := s.readAll clsSys (s.prefetchIns l hg)
    let r := m.1.prefetch l hg
    if m.2 then (3, r.1) else if m.1.poisonedIn (s.prefetchIns l hg) then (2, r.1.irq u 4) else (if r.2 then 0 else 0x80, r.1)

section
variable {s : State} (u : UnitId) {l : Lane}

theorem State.allocWork_rejected {e : Nat} (h : pgeChecks s l = some e) : s.allocWork u l = (e, s) := by
  rw [State.allocWork, h]

theorem State.prefetchWork_rejected {hg e : Nat} (h : s.prefetchCheck l hg = some e) : s.prefetchWork u hg l = (e, s) := by
  rw [State.prefetchWork, h]

/-- An ALLOC lane that passes its checks: DATA_ERROR or POISON_IN for what its step table gives, else what the frames left give. -/
theorem State.allocWork_passed (h : pgeChecks s l = none) : s.allocWork u l =
    let tbl := (l.op 16 8, 64 + 32 * l.op 34 2)
    let m := s.readAll clsSys [tbl]
    let r := m.1.allocEntries l.part (m.1.stEntries (dgaKey tbl.1) (l.op 32 2) (l.op 34 2))
    if m.2 then (3, r.1) else if m.1.anyPoison (dgaKey tbl.1) tbl.2 then (2, r.1.irq u 4) else (r.2, r.1) := by
  rw [State.allocWork, h]

/-- A PREFETCH lane that passes its checks, likewise for its step table and its lists. -/
theorem State.prefetchWork_passed {hg : Nat} (h : s.prefetchCheck l hg = none) : s.prefetchWork u hg l =
    let m := s.readAll clsSys (s.prefetchIns l hg)
    let r := m.1.prefetch l hg
    if m.2 then (3, r.1) else if m.1.poisonedIn (s.prefetchIns l hg) then (2, r.1.irq u 4) else (if r.2 then 0 else 0x80, r.1) := by
  rw [State.prefetchWork, h]

end

/-- The choice between the three ends of a lane by what its reads met. -/
theorem ends_of_reads {α β : Type} {met poisoned : Bool} {a b c : α} (f : α → β) {x : α}
    (hx : x = if met then a else if poisoned then b else c) :
    (met = true → f x = f a) ∧ (met = false → poisoned = true → f x = f b) ∧ (met = false → poisoned = false → f x = f c) := by
  subst hx
  cases met <;> cases poisoned <;> simp

/-- The head lane of a unit ends with a status, in the state that its work leaves. -/
def State.headEnds (u : UnitId) (l : Lane) (rest : List Lane) (r : Nat × State) : State :=
  r.2.setUnit u (fun x => { x with queue := { l with status := some r.1 } :: rest })

section
variable {s : State} {u : UnitId} {l : Lane} {rest : List Lane} (hb : u.blk = .pge) (hu : u.valid = true) (hq : (s.unit u).queue = l :: rest)

include hq in
theorem State.runLane_head (hn : l.status = none) (hs : s.ustate u = stRunning ∨ s.ustate u = stDraining) (k : Lane → State → Nat × State) :
    s.runLane u k = State.headEnds u l rest (k l s) := by
  unfold State.runLane
  rw [hq]
  exact if_neg (by simpa [hn] using or_iff_not_imp_left.mp hs)

include hb hu hq

/-- ALLOC leaves the lane where its engine is frozen, where it is no ALLOC lane, and where its step table is held. -/
theorem execAlloc_waits (h : l.opcode = 2 ∨ s.frozen u = true ∨ pgeChecks s l = none ∧ s.heldIn [(l.op 16 8, 64 + 32 * l.op 34 2)] = true) :
    exec (.alloc u) s = .next s := by
  change execAlloc u s = _
  unfold execAlloc
  rw [atUnit_here hb hu, hq]
  dsimp only
  rw [if_pos (by simpa [or_assoc] using h)]

theorem execPrefetch_waits (h : l.opcode ≠ 2 ∨ s.frozen u = true ∨
      s.prefetchCheck l (max 1 (s.pgePart l.part).kvGroups) = none ∧ s.heldIn (s.prefetchIns l (max 1 (s.pgePart l.part).kvGroups)) = true) :
    exec (.prefetch u) s = .next s := by
  change execPrefetch u s = _
  unfold execPrefetch
  rw [atUnit_here hb hu, hq]
  dsimp only
  rw [if_pos (by simpa [or_assoc] using h)]

variable (hn : l.status = none) (hs : s.ustate u = stRunning ∨ s.ustate u = stDraining) (hf : s.frozen u = false)
include hn hs hf

theorem execAlloc_runs (ho : l.opcode ≠ 2) (h : pgeChecks s l = none → s.heldIn [(l.op 16 8, 64 + 32 * l.op 34 2)] = false) :
    exec (.alloc u) s = .next (State.headEnds u l rest (s.allocWork u l)) := by
  change execAlloc u s = _
  unfold execAlloc
  rw [atUnit_here hb hu, hq]
  dsimp only
  rw [if_neg (by simpa [ho, hf] using h), State.runLane_head hq hn hs]
  rfl

theorem execPrefetch_runs (ho : l.opcode = 2) (h : s.prefetchCheck l (max 1 (s.pgePart l.part).kvGroups) = none →
      s.heldIn (s.prefetchIns l (max 1 (s.pgePart l.part).kvGroups)) = false) :
    exec (.prefetch u) s = .next (State.headEnds u l rest (s.prefetchWork u (max 1 (s.pgePart l.part).kvGroups) l)) := by
  change execPrefetch u s = _
  unfold execPrefetch
  rw [atUnit_here hb hu, hq]
  dsimp only
  rw [if_neg (by simpa [ho, hf] using h), State.runLane_head hq hn hs]
  rfl

end

/-! ## Lookups (R310) -/

/-- What a lookup of slot, layer-head and page number answers, as a verdict and three addresses on a node. -/
def State.answerQuery (node part : Nat) (write : Bool) (s : State) (q : Nat × Nat × Nat) : State × List Nat :=
  match s.localPage part q.2.2 with
  | none => (s.count (s.homePge part) 0 1, [0, 0, 0, 0])
  | some n' =>
    let v := n' * s.lh part + q.2.1
    let res := if write then s.lookupWrite part q.1 v else s.lookupRead part q.1 v
    match res.1 with
    | .notPresent => (res.2, [0, 0, 0, 0])
    | .xlateFault => (res.2, [2, 0, 0, 0])
    | .frame f =>
      let t := if write then res.2 else (res.2.promote part f).1
      (t, [1, 2 ^ 50 * node + frameKey f, 2 ^ 50 * node + (t.sideRecords part f).1, 2 ^ 50 * node + (t.sideRecords part f).2])

theorem State.answerQuery_length (node part : Nat) (write : Bool) (s : State) (q : Nat × Nat × Nat) :
    (s.answerQuery node part write q).2.length = 4 := by
  unfold State.answerQuery
  dsimp only
  split
  · rfl
  · split <;> rfl

/-- The answers of a batch, after those that it has already, each in the state that the one before leaves. -/
def State.answerAll (node part : Nat) (write : Bool) (a : State × List Nat) (qs : List (Nat × Nat × Nat)) : State × List Nat :=
  qs.foldl (fun a q => ((a.1.answerQuery node part write q).1, a.2 ++ (a.1.answerQuery node part write q).2)) a

theorem State.answerAll_length (node part : Nat) (write : Bool) : ∀ (qs : List (Nat × Nat × Nat)) (a : State × List Nat),
    (State.answerAll node part write a qs).2.length = a.2.length + 4 * qs.length
  | [], _ => rfl
  | q :: qs, a => by
    refine (State.answerAll_length node part write qs _).trans ?_
    simp only [List.length_append, State.answerQuery_length, List.length_cons]
    omega

section
variable {s : State} {part : Nat}

theorem execPgeLookup_waits (h : s.frozen (s.homePge part) = true) (write : Bool) (qs : List (Nat × Nat × Nat)) :
    exec (.pgeLookup part write qs) s = .next s := congrArg _ (if_pos h)

variable (h : s.frozen (s.homePge part) = false)
include h

theorem execPgeLookup_answers (write : Bool) (qs : List (Nat × Nat × Nat)) : exec (.pgeLookup part write qs) s =
    .next ((State.answerAll s.node part write (s, []) qs).1.respond (State.answerAll s.node part write (s, []) qs).2) := by
  change execPgeLookup part write qs s = _
  unfold execPgeLookup State.answerAll
  rw [if_neg (ne_true_of_eq_false h)]
  refine congrArg (fun r : State × List Nat => Host.Outcome.next (r.1.respond r.2))
    (congrArg (fun f => List.foldl f (s, []) qs) (funext₂ fun a q => ?_))
  unfold State.answerQuery
  cases a.1.localPage part q.2.2 with
  | none => rfl
  | some n' =>
    dsimp only
    cases (if write = true then a.1.lookupWrite part q.1 (n' * a.1.lh part + q.2.1) else a.1.lookupRead part q.1 (n' * a.1.lh part + q.2.1)).1 <;> rfl

/-- A batch of one lookup. -/
theorem execPgeLookup_single (write : Bool) {q : Nat × Nat × Nat} {r : State × List Nat} (hr : s.answerQuery s.node part write q = r) :
    exec (.pgeLookup part write [q]) s = .next (r.1.respond r.2) := by
  subst hr
  exact execPgeLookup_answers h write [q]

variable {slot lg n n' : Nat} (hn : s.localPage part n = some n')
include hn

/-- A lookup for a read of a page that this member holds, by what the page table gives. -/
theorem execPgeLookup_read {res : Lookup × State} (hl : s.lookupRead part slot (n' * s.lh part + lg) = res) :
    exec (.pgeLookup part false [(slot, lg, n)]) s = .next (match res.1 with
      | .notPresent => res.2.respond [0, 0, 0, 0]
      | .xlateFault => res.2.respond [2, 0, 0, 0]
      | .frame f =>
        let w := (res.2.promote part f).1
        w.respond [1, 2 ^ 50 * s.node + frameKey f, 2 ^ 50 * s.node + (w.sideRecords part f).1, 2 ^ 50 * s.node + (w.sideRecords part f).2]) := by
  rw [execPgeLookup_single h false rfl, State.answerQuery, hn]
  dsimp only
  rw [if_neg Bool.false_ne_true, hl]
  cases res.1 <;> rfl

/-- A lookup for a write that reaches a frame. -/
theorem execPgeLookup_write {f : Nat} {t : State} (hl : s.lookupWrite part slot (n' * s.lh part + lg) = (.frame f, t)) :
    exec (.pgeLookup part true [(slot, lg, n)]) s = .next (t.respond [1, 2 ^ 50 * s.node + frameKey f,
      2 ^ 50 * s.node + (t.sideRecords part f).1, 2 ^ 50 * s.node + (t.sideRecords part f).2]) := by
  rw [execPgeLookup_single h true rfl, State.answerQuery, hn]
  dsimp only
  rw [if_pos rfl, hl]
  rfl

end

/-! ## Reservations (R313) -/

section
variable {s : State} {part : Nat} {es : List Entry}

theorem State.reserve_grants (h : s.stepNeed part es ≤ (s.pgePart part).freeAll) : s.reserve part es =
    ((s.setPge part (fun g => { g with resv := s.stepNeed part es })).respond [1, s.stepNeed part es, 0], true) := if_pos h

/-- A refusal is a signal beside its answer. -/
theorem State.reserve_refuses (h : (s.pgePart part).freeAll < s.stepNeed part es) : ∃ t, s.OnlySignals t ∧ s.reserve part es =
    (t.respond [0, s.stepNeed part es, s.stepNeed part es - (s.pgePart part).freeAll], false) :=
  ⟨_, (State.irq_onlySignals s (s.homePge part) (2 ^ 17)).trans (State.count_onlySignals _ (s.homePge part) 12 1), if_neg (Nat.not_le.mpr h)⟩

variable (hf : s.frozen (s.homePge part) = false) {st : StepRec} (hs : (s.part part).step = some st) (hp : st.phase = .forming)
include hf hs hp

theorem execPgeReserve_forming {r : State × Bool} (hr : s.reserve part st.entries = r) : exec (.pgeReserve part) s = .next (
    if r.2 then r.1.setPart part (fun x => { x with step := some { st with unready := st.unready.filter (fun m => m != s.memberIx part) } })
    else r.1.count ⟨.dlr, s.get sprU Reg.spr.ownHolder % 2⟩ 11 1) := by
  subst hr
  change execPgeReserve part s = _
  unfold execPgeReserve
  rw [hs]
  dsimp only
  rw [if_neg (not_not_intro hp), if_neg (ne_true_of_eq_false hf)]

theorem execPgeReserve_grants (h : s.stepNeed part st.entries ≤ (s.pgePart part).freeAll) : ∃ t, exec (.pgeReserve part) s = .next t ∧
    (t.pgePart part).resv = s.stepNeed part st.entries ∧ t.resp = [1, s.stepNeed part st.entries, 0] ∧ t.mem = s.mem :=
  ⟨_, (execPgeReserve_forming hf hs hp (State.reserve_grants h)).trans (congrArg _ (if_pos rfl)),
    congrArg PgePart.resv (State.setPge_same s part (fun g => { g with resv := s.stepNeed part st.entries })), rfl, rfl⟩

theorem execPgeReserve_refuses (h : (s.pgePart part).freeAll < s.stepNeed part st.entries) : ∃ t, exec (.pgeReserve part) s = .next t ∧
    t.pge = s.pge ∧ t.parts = s.parts ∧
    t.resp = [0, s.stepNeed part st.entries, s.stepNeed part st.entries - (s.pgePart part).freeAll] ∧ t.mem = s.mem := by
  obtain ⟨t, told, hr⟩ := State.reserve_refuses h
  have counted := State.count_onlySignals (t.respond [0, s.stepNeed part st.entries, s.stepNeed part st.entries - (s.pgePart part).freeAll])
    ⟨.dlr, s.get sprU Reg.spr.ownHolder % 2⟩ 11 1
  exact ⟨_, (execPgeReserve_forming hf hs hp hr).trans (congrArg _ (if_neg Bool.false_ne_true)), counted.pge.trans told.pge,
    counted.parts.trans told.parts, counted.resp, counted.mem.trans told.mem⟩

end

/-- Settles O30, by the lemma about each command. -/
theorem pageEnginesAnswer : Obligations.PageEnginesAnswer := by
  intro s u l rest part
  refine ⟨fun hb hu hq hn hs => ⟨fun hf => ⟨?_, ?_⟩, fun hf ho => ⟨fun e he => ?_, fun hc hh => ?_, fun hc hh => ?_⟩,
      fun hf ho => ⟨fun e he => ?_, fun hc hh => ?_, fun hc hh => ?_⟩⟩,
    execPgeLookup_waits, fun hf => ⟨fun write qs => ?_, fun slot lg n n' hl => ⟨?_, ?_, ?_, ?_⟩, fun st h hp => ⟨?_, ?_⟩⟩, fun _ _ _ => rfl⟩
  · exact execAlloc_waits hb hu hq (Or.inr (Or.inl hf))
  · exact execPrefetch_waits hb hu hq (Or.inr (Or.inl hf))
  · rw [execAlloc_runs hb hu hq hn hs hf ho (fun h => absurd (h.symm.trans he) nofun), State.allocWork_rejected u he]
    rfl
  · exact execAlloc_waits hb hu hq (Or.inr (Or.inr ⟨hc, hh⟩))
  · rw [execAlloc_runs hb hu hq hn hs hf ho (fun _ => hh)]
    exact ends_of_reads (fun r => Host.Outcome.next (State.headEnds u l rest r)) (State.allocWork_passed u hc)
  · rw [execPrefetch_runs hb hu hq hn hs hf ho (fun h => absurd (h.symm.trans he) nofun), State.prefetchWork_rejected u he]
    rfl
  · exact execPrefetch_waits hb hu hq (Or.inr (Or.inr ⟨hc, hh⟩))
  · rw [execPrefetch_runs hb hu hq hn hs hf ho (fun _ => hh)]
    exact ends_of_reads (fun r => Host.Outcome.next (State.headEnds u l rest r)) (State.prefetchWork_passed u hc)
  · exact ⟨_, execPgeLookup_answers hf write qs, (State.answerAll_length _ _ _ qs _).trans (Nat.zero_add _)⟩
  · exact fun f t h => execPgeLookup_read hf hl h
  · exact fun t h => execPgeLookup_read hf hl h
  · exact fun t h => execPgeLookup_read hf hl h
  · exact fun f t h => execPgeLookup_write hf hl h
  · exact execPgeReserve_grants hf h hp
  · exact execPgeReserve_refuses hf h hp

end Sys2Proof.Machine
end

section
/-!
SUPPORT. What reads and writes of the memories leave of the page engines' records: all but the frame table, where a read of T2 may mark a frame (R306,
R331).
-/
namespace Sys2Proof.Machine

/-- From s to t nothing changes in the page engines' records but the frame tables. -/
def State.OnlyFrames (s t : State) : Prop := ∀ p, { t.pgePart p with frames := (s.pgePart p).frames } = s.pgePart p

section
variable {s t v : State}

/-- A change that stands beside the page engines' records. -/
theorem State.OnlyFrames.of_pge (h : t.pge = s.pge) : s.OnlyFrames t := fun p => by
  unfold State.pgePart
  rw [h]

theorem State.OnlyFrames.refl (s : State) : s.OnlyFrames s := .of_pge rfl

theorem State.OnlyFrames.trans (h : s.OnlyFrames t) (k : t.OnlyFrames v) : s.OnlyFrames v := fun p =>
  calc { v.pgePart p with frames := (s.pgePart p).frames }
      = { { v.pgePart p with frames := (t.pgePart p).frames } with frames := (s.pgePart p).frames } := rfl
    _ = { t.pgePart p with frames := (s.pgePart p).frames } := by rw [k p]
    _ = s.pgePart p := h p

theorem State.OnlyFrames.resum (h : s.OnlyFrames t) (p : Nat) : (t.pgePart p).resum = (s.pgePart p).resum := by
  rw [← h p]

theorem State.Reports.onlyFrames (h : s.Reports t) : s.OnlyFrames t := .of_pge (by rw [h.rest]; rfl)

theorem State.OnlyFrames.foldl {α : Type} {f : State → α → State} (hf : ∀ (t : State) (a : α), t.OnlyFrames (f t a)) (l : List α) (s : State) :
    s.OnlyFrames (l.foldl f s) := List.foldlRecOn (motive := s.OnlyFrames) l f (.refl s) (fun t h a _ => h.trans (hf t a))

end

variable (s : State)

/-! ## Damage that a read meets (R250, R274, R284) -/

theorem State.count_onlyFrames (u : UnitId) (k n : Nat) : s.OnlyFrames (s.count u k n) := (State.count_reports s u k n).onlyFrames

theorem State.irq_onlyFrames (u : UnitId) (mask : Nat) : s.OnlyFrames (s.irq u mask) := (State.irq_reports s u mask).onlyFrames

theorem State.put_onlyFrames (u : UnitId) (f : Field) (v : Nat) : s.OnlyFrames (s.put u f v) := .of_pge (State.put_pge s u f v)

theorem State.memEvent_onlyFrames (u : UnitId) (code dga cause : Nat) (pm : Bool) : s.OnlyFrames (s.memEvent u code dga cause pm) := by
  obtain ⟨c, logged⟩ := State.memEvent_reports s u code dga cause pm
  exact State.OnlyFrames.trans (t := { s with coal := c }) (.of_pge rfl) logged.onlyFrames

theorem State.breakRun_onlyFrames (line : Nat) : s.OnlyFrames (s.breakRun line) := by
  unfold State.breakRun State.endRun
  split
  · split
    · split <;> exact .of_pge rfl
    · exact .refl s
  · exact .refl s

theorem State.retried_onlyFrames (u : UnitId) (n : Nat) : s.OnlyFrames (s.retried u n) := by
  unfold State.retried
  split
  · exact .refl s
  · exact (State.count_onlyFrames s u 3 n).trans (State.irq_onlyFrames _ u _)

theorem State.tableUe_onlyFrames (u : UnitId) (line beat : Nat) : s.OnlyFrames (s.tableUe u line beat) := by
  have marked : s.OnlyFrames (s.poisonLine line) := .of_pge rfl
  have noted (t : State) (k n : Nat) : t.OnlyFrames (t.note u k n) := .of_pge rfl
  exact (((((marked.trans (State.put_onlyFrames _ u _ _)).trans (State.put_onlyFrames _ u _ _)).trans (State.count_onlyFrames _ u 11 1)).trans
    (State.irq_onlyFrames _ u _)).trans (noted _ _ _)).trans (State.memEvent_onlyFrames _ u _ _ _ _)

theorem State.exhausted_onlyFrames (u : UnitId) (line cause : Nat) : s.OnlyFrames (s.exhausted u line cause) := by
  have marked : s.OnlyFrames ((s.poisonLine line).retag line) := .of_pge rfl
  have noted (t : State) (k n : Nat) : t.OnlyFrames (t.note u k n) := .of_pge rfl
  exact (((marked.trans (State.put_onlyFrames _ u _ _)).trans (State.count_onlyFrames _ u 4 1)).trans (noted _ _ _)).trans
    (State.memEvent_onlyFrames _ u _ _ _ _)

theorem State.integrity_onlyFrames (u : UnitId) (line : Nat) : s.OnlyFrames (s.integrity u line) := by
  have marked : s.OnlyFrames ((s.poisonLine line).retag line) := .of_pge rfl
  have logged (t : State) (d v : Nat) (ps : List Nat) : t.OnlyFrames ((t.memEvent u 0x4001 d 1 true).eventPM ps (some u) 0x5001 d v) :=
    (State.memEvent_onlyFrames t u _ _ _ _).trans (State.eventPM_reports _ _ _ _ _ _).onlyFrames
  unfold State.integrity
  dsimp only
  split
  · exact ((((marked.trans (State.count_onlyFrames _ u 3 1)).trans (State.count_onlyFrames _ u 5 1)).trans (State.irq_onlyFrames _ u _)).trans
      (State.put_onlyFrames _ u _ _)).trans (logged _ _ _ _)
  · exact ((marked.trans (State.count_onlyFrames _ u 4 1)).trans (State.irq_onlyFrames _ u _)).trans (logged _ _ _ _)

/-- Corrected and uncorrectable errors of the Table's beats. -/
theorem State.meetTable_onlyFrames (u : UnitId) (line n : Nat) (h : HurtRec) (ues : List Nat) (b : Bool) : s.OnlyFrames
    (ues.foldl (fun t b => t.tableUe u line (b % 4))
      (if b then s else ((({ s with hurt := h } : State).count u 10 n).irq u (2 ^ 16)).note u 5 n)) := by
  refine State.OnlyFrames.trans ?_ (.foldl (fun t b => State.tableUe_onlyFrames t u line (b % 4)) ues _)
  cases b
  · exact ((State.OnlyFrames.of_pge (t := { s with hurt := h }) rfl).trans (State.count_onlyFrames _ u 10 n)).trans
      ((State.irq_onlyFrames _ u (2 ^ 16)).trans (.of_pge rfl))
  · exact .refl s

theorem State.meet_onlyFrames (line a n : Nat) : s.OnlyFrames (s.meet line a n).1 := by
  have broken := State.breakRun_onlyFrames s line
  have disarmed (t : State) (u : UnitId) : t.OnlyFrames (if t.isArmed u 2 then t.disarm u 2 else t) := by split <;> exact .of_pge rfl
  unfold State.meet
  dsimp only
  split
  · exact broken
  · next u _ =>
    split
    · exact broken.trans (State.meetTable_onlyFrames _ u line _ _ _ _)
    · split
      · exact ((broken.trans (disarmed _ u)).trans (State.retried_onlyFrames _ u _)).trans (State.exhausted_onlyFrames _ u line 1)
      · have tried : s.OnlyFrames (if (s.breakRun line).isArmed u 2 then
            (if (s.breakRun line).isArmed u 2 then (s.breakRun line).disarm u 2 else s.breakRun line).retried u 1
            else (if (s.breakRun line).isArmed u 2 then (s.breakRun line).disarm u 2 else s.breakRun line)) := by
          split
          · exact broken.trans (State.OnlyFrames.trans (t := (s.breakRun line).disarm u 2) (.of_pge rfl) (State.retried_onlyFrames _ u 1))
          · exact broken
        split
        · exact tried.trans (State.integrity_onlyFrames _ u line)
        · exact tried
    · split
      · exact broken.trans (State.integrity_onlyFrames _ u line)
      · exact broken

/-! ## Reads, and what they count (R262, R276, R283, R287) -/

theorem State.metaLookup_onlyFrames (u : UnitId) (m : Nat) : s.OnlyFrames (s.metaLookup u m) := by
  unfold State.metaLookup
  dsimp only
  split
  · exact State.count_onlyFrames s u 6 1
  · refine State.OnlyFrames.trans ?_ (State.count_onlyFrames _ u 7 1)
    exact .of_pge rfl

theorem State.metaPair_onlyFrames (u : UnitId) (line : Nat) : s.OnlyFrames (s.metaPair u line) :=
  (State.metaLookup_onlyFrames s u _).trans (State.metaLookup_onlyFrames _ u _)

theorem State.tagLookup_onlyFrames (u : UnitId) (line : Nat) : s.OnlyFrames (s.tagLookup u line) := by
  unfold State.tagLookup
  split
  · exact .refl s
  · dsimp only
    split
    · exact State.count_onlyFrames s u 2 1
    · refine State.OnlyFrames.trans ?_ (State.count_onlyFrames _ u 3 1)
      exact .of_pge rfl

theorem State.tallyBank_onlyFrames (u : UnitId) (k reg beats : Nat) : s.OnlyFrames (s.tallyBank u k reg beats) :=
  (State.count_onlyFrames s u k 1).trans (State.count_onlyFrames _ u reg beats)

theorem State.setFrames_onlyFrames (p : Nat) (fs : Sparse FrameEnt) : s.OnlyFrames (s.setPge p (fun g => { g with frames := fs })) := fun q => by
  rw [State.setPge_pgePart]
  split
  · next h => rw [h]
  · rfl

theorem State.reportPoison_onlyFrames (line : Nat) : s.OnlyFrames (s.reportPoison line) := by
  unfold State.reportPoison
  split
  · exact .refl s
  · next p _ =>
    dsimp only
    split
    · exact .refl s
    · exact State.setFrames_onlyFrames s p _

theorem State.tallyRead_onlyFrames (k line a n : Nat) : s.OnlyFrames (s.tallyRead k line a n) := by
  unfold State.tallyRead
  split
  · exact .refl s
  · split
    · exact .refl s
    · next u _ =>
      split
      · have tallied := State.tallyBank_onlyFrames s u k 6 (beatsOf a n)
        dsimp only
        split
        · exact tallied.trans (State.count_onlyFrames _ u 12 1)
        · exact tallied
      · exact (State.count_onlyFrames s u 0 1).trans (State.metaPair_onlyFrames _ u line)
      · have looked := (State.count_onlyFrames s u 0 1).trans (State.tagLookup_onlyFrames _ u line)
        dsimp only
        split
        · exact looked.trans (State.reportPoison_onlyFrames _ line)
        · exact looked

theorem State.readLine_onlyFrames (k line a n : Nat) : s.OnlyFrames (s.readLine k line a n).1 :=
  (State.meet_onlyFrames s line a n).trans (State.tallyRead_onlyFrames _ k line a n)

theorem State.readAll_onlyFrames (k : Nat) (ins : List (Nat × Nat)) : s.OnlyFrames (s.readAll k ins).1 := by
  unfold State.readAll
  refine List.foldlRecOn (motive := fun r : State × Bool => s.OnlyFrames r.1) ins _ (.refl s) (fun r h i _ => ?_)
  dsimp only
  split
  · exact h
  · exact List.foldlRecOn (motive := fun r : State × Bool => s.OnlyFrames r.1) _ _ h
      (fun r h l _ => h.trans (State.readLine_onlyFrames r.1 k l _ _))

/-! ## Writes (R250, R260, R271, R274, R499) -/

theorem State.write_onlyFrames (a : Nat) (d : List Byte) (pois : Bool) : s.OnlyFrames (s.write a d pois) := by
  refine State.OnlyFrames.trans (t := s.store a d) (.of_pge rfl) (State.OnlyFrames.foldl (fun t l => ?_) _ _)
  unfold State.cleanLine
  dsimp only
  split
  · exact .of_pge rfl
  · split
    · split
      · exact .of_pge rfl
      · split <;> exact .of_pge rfl
    · exact .refl t

/-- Injections x that a write lays: they stay with the host's run of which it is a quarter, and are else in the line's place. -/
def State.layInjected (s : State) (quarter run : Bool) (line beat : Nat) (x : List (Nat × Nat)) : State :=
  if quarter then { s with merge := s.merge.map (fun (r : HostRun) => { r with done := r.done ++ [beat], inj := r.inj ++ x }) }
  else
    let t : State := if run then { s with merge := none } else s
    if x = [] then t else { t with hurt := t.hurt.laid line x }

theorem State.layInjected_onlyFrames (quarter run : Bool) (line beat : Nat) (x : List (Nat × Nat)) :
    s.OnlyFrames (s.layInjected quarter run line beat x) := by
  have ended : s.OnlyFrames (if run then { s with merge := none } else s) := by cases run <;> exact .of_pge rfl
  unfold State.layInjected
  split
  · exact .of_pge rfl
  · dsimp only
    split
    · exact ended
    · exact ended.trans (.of_pge rfl)

theorem State.spoil_onlyFrames (line a n : Nat) : s.OnlyFrames (s.spoil line a n) := by
  have laid (t : State) := State.layInjected_onlyFrames t (s.inRun line a n && n != 256) (s.inRun line a n) line ((a - line * 256) / 64)
  unfold State.spoil
  dsimp only
  by_cases hurt : s.hurt = {}
  · rw [if_pos hurt]
    exact laid s _
  · rw [if_neg hurt]
    cases s.holder line with
    | none => exact .refl s
    | some u =>
      dsimp only
      by_cases table : u.blk = .tbl
      · rw [if_pos table]
        refine State.OnlyFrames.trans ?_ (laid _ _)
        exact .of_pge rfl
      · rw [if_neg table]
        have read : s.OnlyFrames (if n < 256 && !s.inRun line a n then (s.meet line (line * 256) 256).1 else s) := by
          split
          · exact State.meet_onlyFrames s line _ _
          · exact .refl s
        split
        · exact (read.trans (.of_pge rfl)).trans (laid (State.disarm (State.retag _ line) u 3) _)
        · exact (read.trans (.of_pge rfl)).trans (laid (State.retag _ line) _)

theorem State.landLine_onlyFrames (l lo : Nat) (d : List Byte) (pois : Bool) : s.OnlyFrames (s.landLine l lo d pois) := by
  unfold State.landLine
  split
  · split
    · next u _ => exact (State.retried_onlyFrames s u _).trans (State.exhausted_onlyFrames _ u l 2)
    · exact .refl s
  · have begun : s.OnlyFrames (if s.inRun l lo d.length then s else s.breakRun l) := by
      split
      · exact .refl s
      · exact State.breakRun_onlyFrames s l
    exact ((begun.trans (State.spoil_onlyFrames _ l lo d.length)).trans (State.write_onlyFrames _ lo d pois)).trans (.of_pge rfl)

theorem State.putLine_onlyFrames (l lo : Nat) (d : List Byte) (pois : Bool) : s.OnlyFrames (s.putLine l lo d pois) := by
  unfold State.putLine
  split
  · exact .refl s
  · split
    · exact ((State.count_onlyFrames s _ 7 1).trans (State.irq_onlyFrames _ _ _)).trans (State.eventM_reports _ _ _ _ _).onlyFrames
    · exact State.landLine_onlyFrames s l lo d pois

theorem State.tallyWrite_onlyFrames (k line a n : Nat) : s.OnlyFrames (s.tallyWrite k line a n) := by
  unfold State.tallyWrite
  split
  · exact .refl s
  · next u _ =>
    have tallied : s.OnlyFrames (if u.blk = .tbl then s.tallyBank u k 7 (beatsOf a n) else s.count u 1 1) := by
      split
      · exact State.tallyBank_onlyFrames s u k 7 _
      · exact State.count_onlyFrames s u 1 1
    have read (x : State) : x.OnlyFrames (if 256 ≤ n ∨ u.blk = .tbl then x
        else if u.blk = .mem then (x.count u 0 1).count u 2 1 else x.count u 0 1) := by
      split
      · exact .refl x
      · split
        · exact (State.count_onlyFrames x u 0 1).trans (State.count_onlyFrames _ u 2 1)
        · exact State.count_onlyFrames x u 0 1
    dsimp only
    split
    · exact tallied.trans (read _)
    · exact (tallied.trans (read _)).trans (State.metaPair_onlyFrames _ u line)
    · exact (tallied.trans (read _)).trans (State.tagLookup_onlyFrames _ u line)

theorem State.writeMem_onlyFrames (k a : Nat) (d : List Byte) (pois : Bool) : s.OnlyFrames (s.writeMem k a d pois) := by
  refine State.OnlyFrames.foldl (fun t l => ?_) _ _
  dsimp only
  refine State.OnlyFrames.trans ?_ (State.putLine_onlyFrames _ l _ _ pois)
  split
  · exact .refl t
  · exact State.tallyWrite_onlyFrames t k l _ _

end Sys2Proof.Machine
end

section
/-!
SUPPORT. Migrations, forwarded entries, the sweep and recomputed summaries (R318, R328, R332, R333).
-/
namespace Sys2Proof.Machine

/-! ## Records of a partition -/

section
variable (g : PgePart) (f : Nat) (e : FrameEnt)

theorem PgePart.setFrame_same : (g.setFrame f e).frame f = e := Sparse.get_set_same _ f e g.frames

theorem PgePart.setFrame_other {x : Nat} (h : x ≠ f) : (g.setFrame f e).frame x = g.frame x := Sparse.get_set_other _ e h g.frames

theorem PgePart.setFree_gone (t : Nat) (l : FreeList) : (g.setFree t l).gone = g.gone := by
  unfold PgePart.setFree
  split <;> rfl

end

theorem State.OnlySignals.pgePart {s t : State} (h : s.OnlySignals t) (p : Nat) : t.pgePart p = s.pgePart p := by
  unfold State.pgePart
  rw [h.pge]

/-- A frame taken off a free list is a matter of the page engines' records, beside a count. -/
theorem State.popFrame_leaves {s s1 : State} {p t d : Nat} (h : s.popFrame p t = some (d, s1)) :
    s1.mem = s.mem ∧ s1.parts = s.parts ∧ s1.units = s.units ∧ s1.poison = s.poison := by
  unfold State.popFrame at h
  split at h
  · exact absurd h nofun
  · next i l _ =>
    have counted := State.count_onlySignals (s.setPge p (fun g => g.setFree t l)) (s.homePge p) 2 1
    obtain ⟨_, rfl⟩ := Prod.mk.inj (Option.some.inj h)
    exact ⟨counted.mem, counted.parts, counted.units, counted.poison⟩

/-! ## Migrations (R328) -/

/-- A migration's copying has begun: its frames are the source and the destination of a migration, and the entries that lead to it are marked. -/
def PgePart.startMig (g : PgePart) (src d : Nat) : PgePart :=
  let g1 := g.setFrame d { g.frame src with st := .migDst }
  let g2 := g1.setFrame src { g1.frame src with st := .migSrc }
  { g2 with
    pages := g2.pages.map (fun e => if e.frame = src then { e with mig := true } else e)
    migs := g2.migs.map (fun x => if x.src = src then { x with dst := d, st := .copying } else x) }

theorem PgePart.startMig_src (g : PgePart) (src d : Nat) : ((g.startMig src d).frame src).st = .migSrc :=
  congrArg FrameEnt.st (PgePart.setFrame_same _ src _)

theorem PgePart.startMig_dst (g : PgePart) {src d : Nat} (h : d ≠ src) : ((g.startMig src d).frame d).st = .migDst :=
  congrArg FrameEnt.st ((PgePart.setFrame_other _ src _ h).trans (PgePart.setFrame_same g d _))

/-- A migration is past its copy: the blocks of the index of prompts have gone to it, and the source waits for its release. -/
def PgePart.endMig (g : PgePart) (src dst : Nat) : PgePart :=
  { g with
    pfx := g.pfx.map (fun x => { x with frames := x.frames.map (fun f => if f = src then dst else f) })
    migs := g.migs.map (fun x => if x.src = src then { x with st := .release } else x) }

/-- The page of a frame with one reference goes to its copy: its entry leads there. -/
def PgePart.movePage (g : PgePart) (src dst : Nat) (e : FrameEnt) : PgePart :=
  let g1 := ((g.unmark src).setFrame dst { e with st := .inUse }).setFrame src { e with st := .migSrc, refs := 0 }
  { g1 with pages := g1.pages.map (fun x => if x.frame = src then { x with frame := dst } else x) }

/-- A shared frame forwards to its copy. -/
def PgePart.forwardFrame (g : PgePart) (src dst : Nat) (e : FrameEnt) : PgePart :=
  let g1 := g.unmark src
  (g1.setFrame dst { e with st := .inUse }).setFrame src
    { e with st := .forward, refs := (g1.pages.filter (fun x => x.frame == src)).length, vpn := dst }

/-- The SWITCH of a migration whose source has an entry e in the frame table. -/
def PgePart.switchMig (g : PgePart) (src dst : Nat) (e : FrameEnt) : PgePart :=
  if e.refs ≤ 1 then (g.movePage src dst e).endMig src dst else (g.forwardFrame src dst e).endMig src dst

section
variable (g : PgePart) {src dst : Nat} {e : FrameEnt}

theorem PgePart.endMig_migs : ∀ y ∈ (g.endMig src dst).migs, y.src = src → y.st = .release := by
  intro y hy hs
  obtain ⟨x, _, rfl⟩ := List.mem_map.mp hy
  by_cases hx : x.src = src
  · rw [if_pos hx]
  · rw [if_neg hx] at hs
    exact absurd hs hx

theorem PgePart.movePage_pages : ∀ x ∈ (g.movePage src dst e).pages, x.frame = src → dst = src := by
  intro x hx hs
  obtain ⟨y, _, rfl⟩ := List.mem_map.mp hx
  by_cases hy : y.frame = src
  · rw [if_pos hy] at hs
    exact hs
  · rw [if_neg hy] at hs
    exact absurd hs hy

theorem PgePart.forwardFrame_frame : (g.forwardFrame src dst e).frame src =
    { e with st := .forward, refs := ((g.unmark src).pages.filter (fun x => x.frame == src)).length, vpn := dst } :=
  PgePart.setFrame_same _ src _

theorem PgePart.switchMig_migs : ∀ y ∈ (g.switchMig src dst e).migs, y.src = src → y.st = .release := by
  unfold PgePart.switchMig
  split <;> exact PgePart.endMig_migs _

theorem PgePart.switchMig_pages (h : e.refs ≤ 1) : ∀ x ∈ (g.switchMig src dst e).pages, x.frame = src → dst = src := by
  rw [PgePart.switchMig, if_pos h]
  exact PgePart.movePage_pages g

theorem PgePart.switchMig_forward (h : 2 ≤ e.refs) :
    ((g.switchMig src dst e).frame src).st = .forward ∧ ((g.switchMig src dst e).frame src).vpn = dst := by
  have forwards := PgePart.forwardFrame_frame g (src := src) (dst := dst) (e := e)
  rw [PgePart.switchMig, if_neg (Nat.not_le.mpr h)]
  exact ⟨congrArg FrameEnt.st forwards, congrArg FrameEnt.vpn forwards⟩

end

section
variable {s : State} {part src : Nat} {m : MigRec}

theorem execMigStart_copies {d : Nat} {s1 : State} (hm : (s.pgePart part).migs.find? (fun m => m.src == src && m.st == .queued) = some m)
    (hl : s.mayMigrate (s.homePge part) = true) (hf : s.frozen (s.homePge part) = false)
    (hc : s.get (s.homePge part) Reg.pge.spillFloor < ((s.pgePart part).freeList m.tier).count) (hp : s.popFrame part m.tier = some (d, s1)) :
    exec (.migStart part src) s = .next (s1.setPge part (fun g => g.startMig src d)) := by
  change execMigStart part src s = _
  unfold execMigStart
  dsimp only
  rw [hm]
  dsimp only
  rw [if_pos ⟨hl, by simp [hf], hc⟩, hp]
  rfl

variable (hm : (s.pgePart part).migs.find? (fun m => m.src == src && m.st == .copying) = some m)
include hm

theorem execMigCopyDone_waits (h : s.heldIn (s.frameRanges part src ++ s.frameRanges part m.dst) = true) (failed : Bool) :
    exec (.migCopyDone part src failed) s = .next s := by
  change execMigCopyDone part src failed s = _
  unfold execMigCopyDone
  dsimp only
  rw [hm]
  dsimp only
  rw [if_pos h]

variable (hh : s.heldIn (s.frameRanges part src ++ s.frameRanges part m.dst) = false) {rd : State × Bool}
  (hr : s.readAll clsSys (s.frameRanges part src) = rd)
include hh hr

theorem execMigCopyDone_aborts {failed : Bool} (h : failed = true ∨ rd.2 = true ∨ rd.1.anyPoison (frameKey src) 32768 = true) :
    exec (.migCopyDone part src failed) s = .next (rd.1.abortMig part m) := by
  subst hr
  change execMigCopyDone part src failed s = _
  unfold execMigCopyDone
  dsimp only
  rw [hm]
  dsimp only
  rw [if_neg (ne_true_of_eq_false hh), if_pos (by simpa [or_assoc] using h)]

theorem execMigCopyDone_switches (h2 : rd.2 = false) (hp : rd.1.anyPoison (frameKey src) 32768 = false) :
    exec (.migCopyDone part src false) s = .next (((rd.1.copyFrame part src m.dst).setPge part
      (fun g => g.switchMig src m.dst ((s.pgePart part).frame src))).count (s.homePge part)
      (if frameTier src = 0 then 5 else if m.tier = 2 then 6 else 7) 1) := by
  subst hr
  change execMigCopyDone part src false s = _
  unfold execMigCopyDone
  dsimp only
  rw [hm]
  dsimp only
  rw [if_neg (ne_true_of_eq_false hh), if_neg (by simp [h2, hp])]
  refine congrArg (fun f => Host.Outcome.next (State.count (State.setPge _ part f) _ _ _)) (funext fun g => ?_)
  unfold PgePart.switchMig
  by_cases h1 : ((s.pgePart part).frame src).refs ≤ 1
  · rw [if_pos h1, if_pos h1]
    rfl
  · rw [if_neg h1, if_neg h1]
    rfl

/-- The end of a copy that reads clean: what becomes of the migration, of the entries and of the source. -/
theorem execMigCopyDone_switch_leaves (h2 : rd.2 = false) (hp : rd.1.anyPoison (frameKey src) 32768 = false) :
    ∃ t, exec (.migCopyDone part src false) s = .next t ∧ (∀ y ∈ (t.pgePart part).migs, y.src = src → y.st = .release) ∧
      (((s.pgePart part).frame src).refs ≤ 1 → ∀ x ∈ (t.pgePart part).pages, x.frame = src → m.dst = src) ∧
      (2 ≤ ((s.pgePart part).frame src).refs → m.dst ≠ src → ((t.pgePart part).frame src).st = .forward ∧ ((t.pgePart part).frame src).vpn = m.dst) := by
  refine ⟨_, execMigCopyDone_switches hm hh hr h2 hp, ?_⟩
  rw [(State.count_onlySignals _ _ _ 1).pgePart, State.setPge_same]
  exact ⟨PgePart.switchMig_migs _, PgePart.switchMig_pages _, fun h _ => PgePart.switchMig_forward _ h⟩

end

/-! ## Forwarded entries (R310, R328) -/

section
variable {s : State} {part slot : Nat}

theorem PgePart.follow_still {g : PgePart} {f : Nat} (h : (g.frame f).st ≠ .forward) (n : Nat) : g.follow f n = f := by
  cases n with
  | zero => rfl
  | succ n => exact if_neg h

theorem State.forwardEntry_still {e : PageEnt} (h : ((s.pgePart part).frame e.frame).st ≠ .forward) : s.forwardEntry part e = s :=
  if_pos (PgePart.follow_still h 4)

theorem State.forwardEntry_moves {e : PageEnt} (h : (s.pgePart part).follow e.frame 4 ≠ e.frame) : s.forwardEntry part e =
    (s.setPge part (fun g => (g.setEntry { e with frame := (s.pgePart part).follow e.frame 4 }).setFrame e.frame
      { g.frame e.frame with refs := (g.frame e.frame).refs - 1 })).count (s.homePge part) 13 1 := if_neg h

/-- The rewrite of an entry leaves the state of every frame. -/
theorem State.forwardEntry_frameSt (s : State) (part : Nat) (e : PageEnt) (f : Nat) :
    (((s.forwardEntry part e).pgePart part).frame f).st = ((s.pgePart part).frame f).st := by
  by_cases h : (s.pgePart part).follow e.frame 4 = e.frame
  · exact congrArg (fun t : State => ((t.pgePart part).frame f).st) (if_pos h)
  · rw [State.forwardEntry_moves h, (State.count_onlySignals _ _ 13 1).pgePart, State.setPge_same]
    by_cases hf : f = e.frame
    · subst hf
      rw [PgePart.setFrame_same]
    · rw [PgePart.setFrame_other _ _ _ hf]
      rfl

/-- Entries that lead to no FORWARD frame stay as they are. -/
theorem State.forwardEntries_still : ∀ (es : List PageEnt), (∀ e ∈ es, ((s.pgePart part).frame e.frame).st ≠ .forward) →
    es.foldl (fun t e => t.forwardEntry part e) s = s
  | [], _ => rfl
  | e :: es, h => by
    rw [List.foldl_cons, State.forwardEntry_still (h e List.mem_cons_self)]
    exact State.forwardEntries_still es (fun x hx => h x (List.mem_cons_of_mem e hx))

/-- An entry leads to a FORWARD frame. -/
def PgePart.forwards (g : PgePart) (e : PageEnt) : Bool := (g.frame e.frame).st == .forward

/-- Where one entry alone leads to a FORWARD frame, the rewrite of all is the rewrite of that one. -/
theorem State.forwardEntries_single {es : List PageEnt} {e : PageEnt} (h : es.filter (s.pgePart part).forwards = [e]) :
    es.foldl (fun t e => t.forwardEntry part e) s = s.forwardEntry part e := by
  obtain ⟨before, after, rfl, hb, _, ha⟩ := List.filter_eq_cons_iff.mp h
  have still (x : PageEnt) (hx : ¬(s.pgePart part).forwards x) : ((s.pgePart part).frame x.frame).st ≠ .forward := by
    simpa [PgePart.forwards] using hx
  rw [List.foldl_append, State.forwardEntries_still before (fun x hx => still x (hb x hx)), List.foldl_cons]
  refine State.forwardEntries_still after (fun x hx => ?_)
  rw [State.forwardEntry_frameSt]
  exact still x (List.filter_eq_nil_iff.mp ha x hx)

/-- The forwarded entries of a slot are those of its entries that lead to a FORWARD frame. -/
theorem PgePart.filter_forwards (g : PgePart) (slot : Nat) : (g.pages.filter (fun e => e.slot == slot)).filter g.forwards =
    g.pages.filter (fun e => e.slot == slot && (g.frame e.frame).st == .forward) := by
  rw [List.filter_filter]
  exact congrArg (fun p => g.pages.filter p) (funext fun e => Bool.and_comm _ _)

theorem execForwardRewrite_none
    (h : (s.pgePart part).pages.filter (fun e => e.slot == slot && ((s.pgePart part).frame e.frame).st == .forward) = []) :
    exec (.forwardRewrite part slot) s = .next s := by
  rw [← PgePart.filter_forwards] at h
  refine congrArg _ (State.forwardEntries_still _ (fun e he => ?_))
  simpa [PgePart.forwards] using List.filter_eq_nil_iff.mp h e he

theorem execForwardRewrite_single {e : PageEnt}
    (h : (s.pgePart part).pages.filter (fun e => e.slot == slot && ((s.pgePart part).frame e.frame).st == .forward) = [e]) :
    exec (.forwardRewrite part slot) s = .next (s.forwardEntry part e) := by
  rw [← PgePart.filter_forwards] at h
  exact congrArg _ (State.forwardEntries_single h)

end

/-! ## The sweep and summaries (R318, R332, R333) -/

/-- The frames that were gone are handed back to their free lists, and none is gone. -/
theorem PgePart.handBack_gone (g : PgePart) (fs : List Nat) :
    (fs.foldl (fun (y : PgePart) f => y.setFree (frameTier f) ((y.freeList (frameTier f)).push f)) { g with gone := [] }).gone = [] :=
  List.foldlRecOn (motive := fun y : PgePart => y.gone = []) fs _ rfl (fun y h _ _ => (PgePart.setFree_gone y _ _).trans h)

theorem execPgeSweep_ends (s : State) (part : Nat) :
    ∃ t, exec (.pgeSweep part) s = .next t ∧ (t.pgePart part).gone = [] ∧ t.get (s.homePge part) Reg.pge.serveSweep = 0 := by
  refine ⟨_, rfl, ?_, State.get_put_same _ (s.homePge part) Reg.pge.serveSweep 0⟩
  rw [State.put_pgePart, State.setPge_same]
  exact PgePart.handBack_gone _ _

theorem execSummaryRecompute_formed {s : State} {part slot n n' : Nat} (hl : s.localPage part n = some n')
    (hq : (s.pgePart part).resum.contains (slot, n) = true) (hc : 64 * n + 64 ≤ (s.slotClass part slot).2) :
    ∃ t, exec (.summaryRecompute part slot n) s = .next t ∧
      (t.pgePart part).resum = (s.pgePart part).resum.filter (fun x => x != (slot, n)) := by
  change ∃ t, execSummaryRecompute part slot n s = .next t ∧ _
  unfold execSummaryRecompute
  dsimp only
  rw [hl]
  dsimp only
  rw [if_neg (by rw [hq]; simpa using hc)]
  refine ⟨_, rfl, ?_⟩
  rw [State.setPge_same]
  refine congrArg (List.filter fun x => x != (slot, n)) ?_
  refine State.OnlyFrames.resum (State.OnlyFrames.trans (State.OnlyFrames.foldl (fun t v => ?_) _ _) (.of_pge rfl)) part
  split
  · exact .refl t
  · exact ((State.readAll_onlyFrames t clsSys _).trans (State.writeMem_onlyFrames _ clsSys _ _ _)).trans
      (State.writeMem_onlyFrames _ clsSys _ _ _)

/-- Settles O31, by the lemma about each command. -/
theorem migrationsAndSweeps : Obligations.MigrationsAndSweeps := by
  intro s part src
  refine ⟨fun m d s1 hm hl hf hc hp => ?_, fun m hm => ⟨fun failed hh => execMigCopyDone_waits hm hh failed,
      fun failed hh h => execMigCopyDone_aborts hm hh rfl h, fun hh h2 hp => execMigCopyDone_switch_leaves hm hh rfl h2 hp⟩,
    fun slot e he hm => ?_, fun slot h => execForwardRewrite_none h, execPgeSweep_ends s part,
    fun slot n n' hl hq hc => execSummaryRecompute_formed hl hq hc⟩
  · obtain ⟨mem, parts, units, poison⟩ := State.popFrame_leaves hp
    refine ⟨_, execMigStart_copies hm hl hf hc hp, ?_⟩
    rw [State.setPge_same]
    exact ⟨PgePart.startMig_src _ src d, PgePart.startMig_dst _, mem, parts, units, poison⟩
  · rw [execForwardRewrite_single he, State.forwardEntry_moves hm]

end Sys2Proof.Machine
end

section
/-!
SUPPORT. How a step forms and is announced, answered and started, at the lead and at its followers (R349, R350, R353, R355).
-/
namespace Sys2Proof.Machine

/-! ## Forming (R349, R350) -/

/-- The state that the gatherer looks at: pending aborts are settled, and the records of the sequences that may enter the step are read. -/
def State.cleared (s : State) (p : Nat) : State := (s.settleAborts p).checkRecords p

/-- What the gatherer takes, under the plans that were usable before. -/
def State.gathered (s : State) (p : Nat) : Forming := (s.cleared p).gather p (s.usablePlans p)

/-- Sequences that no plan can take end. -/
def State.endUnfit (s : State) (p : Nat) (slots : List Nat) : State := slots.foldl (fun t n => t.endSeq p n ocNoPlan) s

/-- The lead's next step, of the entries es under a plan: its sequences enter it, and its header goes out to every member. -/
def State.announce (s : State) (p pslot : Nat) (es : List Entry) : State :=
  (s.setPart p (fun r => { r with
    nextStep := r.nextStep + 1
    slots := r.slots.map (fun x => if es.any (fun e => e.slot == x.slot) then
      { x with lastStep := (s.part p).nextStep + 1, st := if x.st = .admitted then .prefill else x.st } else x) })).askMembers p
    (newStep (s.part p).nextStep (s.part p).lastCommit 0 pslot es [] (s.followers p)) .stepHeader

/-- What forming leaves where no plan fits what was gathered, and where one does. -/
def State.formOf (s : State) (p : Nat) (unfit : List Nat) : Option (Nat × List Entry) → State
  | none => s.endUnfit p unfit
  | some (pslot, es) => (s.endUnfit p unfit).announce p pslot (tableOrder es)

section
variable {s : State} {part : Nat}

theorem execStepForm_waits (h : s.mayForm part = false ∨ s.usablePlans part = []) : exec (.stepForm part) s = .next s := by
  change execStepForm part s = _
  unfold execStepForm
  rcases h with h | h
  · rw [if_pos (by simp [h])]
  · dsimp only
    rw [if_pos (show (s.usablePlans part).isEmpty = true by simp [h]), ite_self]

variable (hm : s.mayForm part = true) (hp : (s.usablePlans part).isEmpty = false)
include hm hp

/-- Where the lead may form a step, what it does rests on the plan that fits what was gathered. -/
theorem execStepForm_forms : exec (.stepForm part) s = .next (s.journaled (fun u =>
    (u.cleared part).formOf part (s.gathered part).fails (fitPlan (s.usablePlans part) (s.gathered part).entries.reverse))) := by
  change execStepForm part s = _
  unfold execStepForm
  dsimp only
  rw [if_neg (by simp [hm]), if_neg (ne_true_of_eq_false hp)]
  refine congrArg _ (State.journaled_congr ?_)
  cases hf : fitPlan (s.usablePlans part) (s.gathered part).entries.reverse <;>
    (unfold State.gathered State.cleared at hf; rw [hf]; rfl)

theorem execStepForm_unfit (h : fitPlan (s.usablePlans part) (s.gathered part).entries.reverse = none) : exec (.stepForm part) s =
    .next (s.journaled (fun u => (u.cleared part).endUnfit part (s.gathered part).fails)) := by
  rw [execStepForm_forms hm hp, h]
  rfl

theorem execStepForm_fits {pslot : Nat} {es : List Entry}
    (h : fitPlan (s.usablePlans part) (s.gathered part).entries.reverse = some (pslot, es)) : exec (.stepForm part) s =
    .next (s.journaled (fun u => ((u.cleared part).endUnfit part (s.gathered part).fails).announce part pslot (tableOrder es))) := by
  rw [execStepForm_forms hm hp, h]
  rfl

end

/-! ## Answers (R353, R355) -/

/-- What a member's answer makes of the step that is being formed. -/
def State.takeAnswer (s : State) (p member : Nat) (t : StepRec) : Answer → State
  | .ready => s.setPart p (fun r => { r with step := some { t with unready := t.unready.filter (fun m => m != member) } })
  | .refused _ => ((s.sendGroup p .withdrawal [p, t.number]).afterRefusal p t).settleAborts p
  | .mismatch false => ((((s.sendGroup p .withdrawal [p, t.number]).unform p t).settleAborts p).setPart p
      (fun r => { r with mismatched := t.pslot :: r.mismatched })).partEvent p 0x2002 t.pslot member
  | .mismatch true => (((s.sendGroup p .withdrawal [p, t.number]).unform p t).settleAborts p).breakGroup p

/-- The lead takes the answer of each member once. -/
theorem execStepAnswer_taken {s : State} {part member : Nat} {t : StepRec} (ht : (s.part part).step = some t) (hl : s.isLead part = true)
    (hp : t.phase = .forming) (hu : t.unready.contains member = true) (ans : Answer) :
    exec (.stepAnswer part member ans) s = .next (s.journaled (fun u => u.takeAnswer part member t ans)) := by
  change execStepAnswer part member ans s = _
  unfold execStepAnswer
  rw [ht]
  dsimp only
  rw [if_neg (by rw [hl, hp, hu]; decide)]
  refine congrArg _ (State.journaled_congr ?_)
  cases ans with
  | mismatch group => cases group <;> rfl
  | _ => rfl

/-! ## The start of an attempt (R355) -/

/-- How many granules a step needs for its counters. -/
def State.granuleNeed (s : State) (p : Nat) (t : StepRec) : Nat := ((s.planHdr (s.stepPlan p t)).counters + 63) / 64

/-- The granules that a step holds, or those that it is given now. -/
def State.granulesFor (s : State) (p : Nat) (t : StepRec) : List Nat :=
  if t.granules.isEmpty then s.granulesFree.take (s.granuleNeed p t) else t.granules

/-- A step that runs, with its granules. -/
def StepRec.start (t : StepRec) (gs : List Nat) : StepRec := { t with granules := gs, phase := .running, poison := none }

/-- The start of an attempt: granules zeroed and held, the plan's header read, the tables written, held-back migrations and groups let go. -/
def State.startStep (s : State) (p : Nat) (t : StepRec) : State :=
  (((((s.zeroGranules (s.granulesFor p t)).setPart p (fun r => { r with step := some (t.start (s.granulesFor p t)) })).planRead p 0
    (s.stepPlan p t) 256).writeTables p (t.start (s.granulesFor p t))).releaseMigs p).releaseGroups p

section
variable {s : State} {part : Nat} {t : StepRec} (ht : (s.part part).step = some t)
include ht

theorem execStepStart_waits (hg : t.granules = []) (hn : s.granulesFree.length < s.granuleNeed part t) :
    exec (.stepStart part) s = .next s := by
  unfold State.granuleNeed at hn
  change execStepStart part s = _
  unfold execStepStart
  rw [ht]
  dsimp only
  rw [if_pos (by simp [hg, hn])]

variable (hr : t.phase = .ready ∨ (s.isLead part = true ∧ t.phase = .forming ∧ t.unready = []))
  (hf : t.afterFailover = false ∨ (s.issued part).any (fun l => l.stale) = false)
  (hn : t.granules ≠ [] ∨ s.granuleNeed part t ≤ s.granulesFree.length)
include hr hf hn

/-- A step that is READY everywhere, with granules at hand and no stale lane in its way, starts; its rows are counted at its first attempt alone. -/
theorem execStepStart_starts : exec (.stepStart part) s = .next (if t.attempt = 0 then
    ((s.startStep part t).count s.dealer 8 (prefillRows t.entries)).count s.dealer 9 (allRows t.entries - prefillRows t.entries)
    else s.startStep part t) := by
  have ready : (t.phase == .ready || (s.isLead part && t.phase == .forming && t.unready.isEmpty)) = true := by
    rcases hr with h | ⟨hl, hp, hu⟩
    · simp [h]
    · simp [hl, hp, hu]
  have fresh : (t.afterFailover && (s.issued part).any (fun l => l.stale)) = false := Bool.and_eq_false_iff.mpr hf
  have enough : (t.granules.isEmpty && decide (s.granulesFree.length < s.granuleNeed part t)) = false := by
    rcases hn with h | h
    · simp [h]
    · simp [Nat.not_lt.mpr h]
  unfold State.granuleNeed at enough
  change execStepStart part s = _
  unfold execStepStart
  rw [ht]
  dsimp only
  rw [ready, fresh, enough, if_neg (by decide)]
  rfl

end

/-! ## A follower's headers (R355) -/

section
variable {s : State} {part : Nat} {hdr : Header} (hk : s.parked = false) (hl : s.isLead part = false) (hv : s.service = true)
  (hr : s.recovering = false) (hs : s.pstate part = 1) (hd : s.ustate s.dealer = stRunning)
include hk hl hv hr hs hd

theorem execStepHeader_otherGroup (hg : hdr.group ≠ s.groupFields part) :
    exec (.stepHeader part hdr) s = .next (s.answer part hdr.number 3 0) := by
  change execStepHeader part hdr s = _
  unfold execStepHeader
  rw [State.rouse_unparked hk]
  dsimp only
  rw [if_neg (by simp [hl, hv, hr, hs, hd]), if_pos (by simp [hg])]

variable (hg : hdr.group = s.groupFields part)
include hg

theorem execStepHeader_otherPlan (hp : s.planMatches part hdr = false) :
    exec (.stepHeader part hdr) s = .next (s.answer part hdr.number 2 0) := by
  change execStepHeader part hdr s = _
  unfold execStepHeader
  rw [State.rouse_unparked hk]
  dsimp only
  rw [if_neg (by simp [hl, hv, hr, hs, hd]), if_neg (by simp [hg]), if_pos (by simp [hp])]

/-- A header of the follower's group and plan, of the step after the one it committed last. -/
theorem execStepHeader_taken (hp : s.planMatches part hdr = true) (hn : (s.part part).step = none) (hc : (s.part part).lastCommit = hdr.prev) :
    exec (.stepHeader part hdr) s = .next (s.journaled (fun u =>
      u.takeHeader part hdr (newStep hdr.number hdr.prev hdr.attempt hdr.pslot hdr.entries [] []))) := by
  change execStepHeader part hdr s = _
  unfold execStepHeader
  rw [State.rouse_unparked hk]
  dsimp only
  rw [if_neg (by simp [hl, hv, hr, hs, hd]), if_neg (by simp [hg]), if_neg (by simp [hp]), hn]
  exact congrArg _ (State.journaled_congr (if_neg (by simp [hc])))

end

theorem execHeaderWithdrawal_ends {s : State} {part : Nat} {t : StepRec} (ht : (s.part part).step = some t) (hl : s.isLead part = false) :
    ∃ u, exec (.headerWithdrawal part t.number) s = .next u ∧ (u.part part).step = none := by
  change ∃ u, execHeaderWithdrawal part t.number s = .next u ∧ _
  unfold execHeaderWithdrawal
  rw [ht]
  dsimp only
  rw [if_neg (by simp [hl])]
  exact ⟨_, rfl, congrArg PartRec.step (State.setPart_same _ part _)⟩

/-- Settles O12, by the lemma about each command. -/
theorem stepsFormAndStart : Obligations.StepsFormAndStart := by
  intro s part
  refine ⟨fun hm hp => ⟨execStepForm_unfit hm hp, fun pslot es => execStepForm_fits hm hp⟩, execStepForm_waits,
    fun t member ht hl hp hu => ⟨?_, fun need => ?_, ?_, ?_⟩, fun t ht hr hf => ⟨fun hn => ⟨fun h => ?_, fun h => ?_⟩, execStepStart_waits ht⟩,
    fun hdr hk hl hv hr hs hd => ⟨execStepHeader_otherGroup hk hl hv hr hs hd, execStepHeader_otherPlan hk hl hv hr hs hd,
      execStepHeader_taken hk hl hv hr hs hd⟩, fun t => execHeaderWithdrawal_ends⟩
  · exact execStepAnswer_taken ht hl hp hu .ready
  · exact execStepAnswer_taken ht hl hp hu (.refused need)
  · exact execStepAnswer_taken ht hl hp hu (.mismatch false)
  · exact execStepAnswer_taken ht hl hp hu (.mismatch true)
  · exact (execStepStart_starts ht hr hf hn).trans (congrArg _ (if_pos h))
  · exact (execStepStart_starts ht hr hf hn).trans (congrArg _ (if_neg h))

end Sys2Proof.Machine
end

section
/-!
SUPPORT. How a step ends, is voted on and commits, and what its tokens and outcomes wait for (R345, R356, R358, R364).
-/
namespace Sys2Proof.Machine

/-! ## The end of a step (R101, R356) -/

/-- The template of a step that ends it is read: the last one left. -/
def State.readLast (s : State) (p : Nat) (t : StepRec) : State := s.tmplRead p (s.stepPlan p t) t.oldest

/-- The step as it stands once its last template was read, ended. -/
def State.endedStep (s : State) (p : Nat) (t : StepRec) : StepRec := { (((s.readLast p t).part p).step.getD t) with phase := .ended }

/-- The state that holds the ended step. -/
def State.holdEnded (s : State) (p : Nat) (t : StepRec) : State :=
  (s.readLast p t).setPart p (fun r => { r with step := some (s.endedStep p t) })

/-- What first poisoned a step, as a vote gives it. -/
def poisonWords : Option (Nat × Nat) → List Nat
  | none => [0, 0, 0]
  | some x => [1, x.1, x.2]

/-- A follower's vote on its ended step. -/
def State.sendVote (s : State) (p : Nat) (t : StepRec) : State :=
  (s.holdEnded p t).sendLead p .vote ([p, t.number, t.attempt, (s.readLast p t).memberIx p] ++ poisonWords (s.endedStep p t).poison)

section
variable {s : State} {part : Nat} {t : StepRec} (hr : s.running part = some t)
  (ho : t.oldest = (s.planHdr (s.stepPlan part t)).templates - 1) (hm : s.waitMet t (s.tmpl (s.stepPlan part t) t.oldest) = true)
  (hw : t.waiting = []) (hi : (s.issued part).any (fun l => !l.stale) = false) (hf : s.slotFree part = true) (res : Nat)
include hr ho hm hw hi hf

/-- Whether the lead decides or a follower votes is settled by the state after the last template's read. -/
theorem execStepEnd_ends : exec (.stepEnd part res) s = .next (s.journaled (fun u =>
    if (u.readLast part t).isLead part then (u.holdEnded part t).decideStep part (u.endedStep part t) res else u.sendVote part t)) := by
  change execStepEnd part res s = _
  unfold execStepEnd
  rw [hr]
  dsimp only
  rw [← ho, if_neg (by simp [hm, hw, hi, hf])]
  refine congrArg _ (State.journaled_congr ?_)
  unfold State.sendVote State.holdEnded State.endedStep State.readLast poisonWords
  rfl

theorem execStepEnd_lead (hl : (s.readLast part t).isLead part = true) : exec (.stepEnd part res) s =
    .next (s.journaled (fun u => (u.holdEnded part t).decideStep part (u.endedStep part t) res)) := by
  rw [execStepEnd_ends hr ho hm hw hi hf]
  exact congrArg _ (State.journaled_congr (if_pos hl))

theorem execStepEnd_follower (hl : (s.readLast part t).isLead part = false) : exec (.stepEnd part res) s =
    .next (s.journaled (fun u => u.sendVote part t)) := by
  rw [execStepEnd_ends hr ho hm hw hi hf]
  exact congrArg _ (State.journaled_congr (if_neg (ne_true_of_eq_false hl)))

end

/-! ## Votes (R356, R358) -/

/-- The step without member m's vote outstanding. -/
def StepRec.heard (t : StepRec) (m : Nat) : StepRec := { t with unvoted := t.unvoted.filter (fun x => x != m) }

/-- The slots that a vote names by the source of its first poisoning status. -/
def State.votedSlots (s : State) (p : Nat) (t : StepRec) : Option (Nat × Nat) → List Nat
  | none => []
  | some x => t.slotsNamed (s.laneOf p t (s.tmpl (s.stepPlan p t) (x.2 / 256)) (x.2 / 256) (x.2 % 256)
      (s.substituted (s.stepPlan p t) (x.2 / 256) (s.substSrc p t)))

/-- The step after a vote: the slots that it names are noted, and whether the step is poisoned, and by a failover alone. -/
def StepRec.noteVote (t : StepRec) (m : Nat) (named : List Nat) (poisoned uncounted : Bool) : StepRec :=
  { t.heard m with
    named := t.named ++ named
    votedPoison := (t.votedPoison || (poisoned && !uncounted)) || (t.uncounted || uncounted)
    uncounted := t.uncounted || uncounted }

theorem StepRec.noteVote_clean {t : StepRec} (hp : t.votedPoison = false) (hu : t.uncounted = false) (m : Nat) :
    t.noteVote m [] false false = t.heard m := by
  unfold StepRec.noteVote StepRec.heard
  simp [hp, hu]

theorem StepRec.noteVote_poisoned (t : StepRec) (m : Nat) (named : List Nat) :
    t.noteVote m named true false = { t.heard m with named := t.named ++ named, votedPoison := true } := by
  unfold StepRec.noteVote StepRec.heard
  simp

theorem StepRec.noteVote_uncounted (t : StepRec) (m : Nat) :
    t.noteVote m [] false true = { t.heard m with votedPoison := true, uncounted := true } := by
  unfold StepRec.noteVote StepRec.heard
  simp

/-- The lead holds the step as a vote leaves it, and decides if that was the last one. -/
def State.decideOn (s : State) (p res : Nat) (t : StepRec) : State :=
  (s.setPart p (fun r => { r with step := some t })).decideStep p t res

/-- The lead takes the vote of each member once. -/
theorem execVoteReceived_noted {s : State} {part member : Nat} {t : StepRec} (ht : (s.part part).step = some t) (hl : s.isLead part = true)
    (hv : t.unvoted.contains member = true) (poison : Option (Nat × Nat)) (uncounted : Bool) (res : Nat) :
    exec (.voteReceived part member t.number t.attempt poison uncounted res) s = .next (s.journaled (fun u =>
      u.decideOn part res (t.noteVote member (u.votedSlots part t poison) poison.isSome uncounted))) := by
  change execVoteReceived part member t.number t.attempt poison uncounted res s = _
  unfold execVoteReceived
  rw [ht]
  dsimp only
  rw [if_neg (by rw [hl, hv]; simp)]
  refine congrArg _ (State.journaled_congr ?_)
  cases poison <;> rfl

theorem State.decideStep_clean {v : State} {e : StepRec} (hp : e.phase = .ended) (hu : e.unvoted = []) (hc : e.poison = none)
    (hv : e.votedPoison = false) (part res : Nat) : v.decideStep part e res = v.commitStep part e res := by
  unfold State.decideStep
  rw [if_neg (by simp [hp, hu]), if_pos (by simp [hc, hv])]

/-! ## Commits (R356) -/

/-- A follower closes a step that it has committed. -/
def State.closeCommitted (s : State) (p number : Nat) : State :=
  (((s.put dlrU (Reg.dlr.partStepLow.at p) (number % 2 ^ 32)).count s.dealer 0 1).closeStep p (some number)).pgeBalance p

/-- The commit of a step without entries. -/
theorem execCommitReceived_empty {s : State} {part : Nat} {t : StepRec} (ht : (s.part part).step = some t) (hl : s.isLead part = false)
    (hp : t.phase = .ended) (hc : t.poison = none) (he : t.entries = []) (res : Nat) :
    exec (.commitReceived part t.number [] res) s = .next (s.journaled (fun u => (u.readResults part t res).closeCommitted part t.number)) := by
  change execCommitReceived part t.number [] res s = _
  unfold execCommitReceived
  rw [if_neg (ne_true_of_eq_false hl)]
  refine congrArg _ (State.journaled_congr ?_)
  dsimp only
  rw [ht]
  dsimp only
  rw [if_neg (by simp [hp, hc]), he]
  rfl

/-! ## Tokens, outcomes and time-outs (R345, R356, R364) -/

section
variable {s : State} {part : Nat}

theorem execTokenWrite_writes (h : (s.part part).tokOut ≠ [] ∨ (s.part part).outWait ≠ []) :
    exec (.tokenWrite part) s = .next (s.journaled (fun u =>
      (((u.setPart part (fun r => { r with tokOut := [] })).drainTokens part ((s.part part).tokWait ++ (s.part part).tokOut)).count u.dealer 7
        (s.part part).tokOut.length).writeOutcomes part)) := by
  change execTokenWrite part s = _
  unfold execTokenWrite
  dsimp only
  rw [if_neg (by simpa [or_iff_not_imp_left] using h)]

/-- What the module waits for in partition p's step t: the lead for an answer or a vote, a follower for the decision on its vote. -/
def State.awaits (s : State) (p : Nat) (t : StepRec) : Bool :=
  if s.isLead p then t.unready.any (fun m => m != s.memberIx p) || (t.phase == .ended && !t.unvoted.isEmpty) else t.phase == .ended

/-- A wait in the step, or at the lead one for the acknowledgement of an admission, that runs out loses the group. -/
theorem execVoteTimeout_loses (h : (∃ t, (s.part part).step = some t ∧ s.awaits part t = true) ∨
      (s.isLead part = true ∧ ∃ x ∈ (s.part part).slots, x.unacked ≠ [])) :
    exec (.voteTimeout part) s = .next (s.journaled (fun u => u.groupLoss part)) := by
  change execVoteTimeout part s = _
  unfold execVoteTimeout
  refine congrArg _ (if_pos ((Bool.or_eq_true _ _).mpr (h.imp (fun ⟨t, ht, hw⟩ => ?_) (fun ⟨hl, hx⟩ => ?_))))
  · rw [ht]
    exact hw
  · simpa [hl] using hx

variable {t : StepRec}

theorem State.awaits_votes (hl : s.isLead part = true) (hp : t.phase = .ended) (hu : t.unvoted ≠ []) :
    s.awaits part t = true := by
  unfold State.awaits
  rw [if_pos hl]
  simp [hp, hu]

theorem State.awaits_decision (hl : s.isLead part = false) (hp : t.phase = .ended) :
    s.awaits part t = true := by
  unfold State.awaits
  rw [if_neg (ne_true_of_eq_false hl)]
  simp [hp]

end

/-- Settles O13, by the lemma about each command. -/
theorem stepsEndAndCommit : Obligations.StepsEndAndCommit := by
  intro s part res t
  refine ⟨fun hr ho hm hw hi hf => ⟨fun _ => execStepEnd_lead hr ho hm hw hi hf res, fun _ hl => ?_⟩,
    fun member ht hl hv hp hu => ?_, fun member x ht hl hv => ?_, fun member ht hl hv => ?_,
    fun v e hp hu hc hv => State.decideStep_clean hp hu hc hv part res, fun hl ht hp hc he => execCommitReceived_empty ht hl hp hc he res,
    execTokenWrite_writes, fun hl ht hp hu => execVoteTimeout_loses (Or.inl ⟨t, ht, State.awaits_votes hl hp hu⟩),
    fun hl hx => execVoteTimeout_loses (Or.inr ⟨hl, hx⟩), fun hl ht hp => execVoteTimeout_loses (Or.inl ⟨t, ht, State.awaits_decision hl hp⟩)⟩
  · rw [execStepEnd_follower hr ho hm hw hi hf res hl]
    unfold State.sendVote State.holdEnded State.endedStep State.readLast poisonWords
    rfl
  · rw [execVoteReceived_noted ht hl hv]
    exact congrArg _ (State.journaled_congr (congrArg (s.decideOn part res) (StepRec.noteVote_clean hp hu member)))
  · rw [execVoteReceived_noted ht hl hv]
    exact congrArg _ (State.journaled_congr (congrArg (s.decideOn part res) (StepRec.noteVote_poisoned t member _)))
  · rw [execVoteReceived_noted ht hl hv]
    exact congrArg _ (State.journaled_congr (congrArg (s.decideOn part res) (StepRec.noteVote_uncounted t member)))

end Sys2Proof.Machine
end

section
/-!
SUPPORT. The pairs of Dealers and MCCs: their roles and latch, the journal, passing, releases, and what watches them (R365, R567, R584 to R591).
-/
namespace Sys2Proof.Machine

/-! ## What reports leave of a pair -/

theorem State.Reports.held {s t : State} (h : s.Reports t) : t.held = s.held := by rw [h.rest]; rfl

/-- ROLE of a copy on either die. -/
theorem State.Reports.roleOf {s t : State} (h : s.Reports t) (k : Nat) {d : Nat} (hd : d < 2) : t.roleOf k d = s.roleOf k d := by
  unfold State.roleOf
  split
  · exact h.get (decide_eq_true hd) (by decide)
  · exact h.get (decide_eq_true hd) (by decide)
  · rfl

/-- The other die than the one that holds a pair. -/
theorem otherDie_lt (d : Nat) : 1 - d < 2 := Nat.lt_succ_of_le (Nat.sub_le 1 d)

theorem State.mccHolder_valid (s : State) : s.mccHolder.valid = true := decide_eq_true (Nat.mod_lt _ Nat.two_pos)

theorem State.setRole_roleOf (s : State) {k : Nat} (hk : k < 2) (d role synced : Nat) : (s.setRole k d role synced).roleOf k d = role % 4 := by
  match k, hk with
  | 0, _ => exact (State.get_put_apart _ ⟨.dlr, d⟩ ⟨.dlr, d⟩ _ _ _ (by decide) (by decide) (by decide)).trans (State.get_put_same ..)
  | 1, _ => exact (State.get_put_apart _ ⟨.mcc, d⟩ ⟨.mcc, d⟩ _ _ _ (by decide) (by decide) (by decide)).trans (State.get_put_same ..)

/-- A field written on both AON pages reads the same on either. -/
theorem State.putAon_get (s : State) {f : Field} (hp : f.reach = .page) (hf : fieldWithin f = true) (v : Nat) {d : Nat} (hd : d < 2) :
    (s.putAon f v).get ⟨.aon, d⟩ f = v % 2 ^ f.width := by
  match d, hd with
  | 0, _ =>
    refine (State.get_put_page _ ⟨.aon, 1⟩ ⟨.aon, 0⟩ f f v (home_ne (by decide) (by decide) (by decide) hp hp) hf hf).trans ?_
    exact State.get_put_same s ⟨.aon, 0⟩ f v
  | 1, _ => exact State.get_put_same _ ⟨.aon, 1⟩ f v

theorem State.putAon_get_apart (s : State) {f g : Field} (ha : fieldsApart f g = true) (hf : fieldWithin f = true) (hg : fieldWithin g = true)
    (v : Nat) (u : UnitId) : (s.putAon f v).get u g = s.get u g :=
  (State.get_put_apart _ _ u f g v ha hf hg).trans (State.get_put_apart _ _ u f g v ha hf hg)

theorem State.putAon_mem (s : State) (f : Field) (v : Nat) : (s.putAon f v).mem = s.mem := (State.put_mem ..).trans (State.put_mem ..)

/-! ## The journal (R365, R586, R588) -/

section
variable {s : State}

theorem execJournalRecord_empty (h : s.held = []) : exec (.journalRecord 0) s = .next s := by
  change execJournalRecord 0 s = _
  unfold execJournalRecord
  rw [h]
  rfl

theorem execJournalRecord_oldest {o : List Out} {r : List (List Out)} (h : s.held = o :: r) :
    exec (.journalRecord 0) s = .next { s with out := s.out ++ o, held := r } := by
  change execJournalRecord 0 s = _
  unfold execJournalRecord
  rw [h]
  rfl

theorem execJournalRecord_mcc (h : s.roleOf 1 (1 - s.holderDie 1) = 1) :
    exec (.journalRecord 1) s = .next ((s.count s.mccHolder 0 1).count s.mccHolder 1 1) := congrArg _ (if_pos h)

/-- The rail sequencers keep no journal. -/
theorem execJournal_none {k : Nat} (h : 2 ≤ k) :
    exec (.journalRecord k) s = .next s ∧ exec (.journalOut k) s = .next s ∧ exec (.dummySynced k) s = .next s := by
  refine ⟨?_, congrArg _ (if_pos (Or.inl h)), congrArg _ (if_pos h)⟩
  match k, h with
  | _ + 2, _ => rfl

theorem State.dummyOut_roleOf {k : Nat} (hk : k < 2) : (s.dummyOut k).roleOf k (1 - s.holderDie k) = 2 := by
  have role := s.setRole_roleOf hk (1 - s.holderDie k) 2 0
  unfold State.dummyOut
  dsimp only
  split
  · next h =>
    subst h
    exact (State.get_of_regs (by rfl) _ _).trans role
  · exact role

theorem State.dummyOut_held : (s.dummyOut 1).held = s.held := (State.put_held ..).trans (State.put_held ..)

/-- A dummy that is OUT is beside that told of only. -/
theorem execJournalOut_dummy {k : Nat} (hk : k < 2) (h : s.roleOf k (1 - s.holderDie k) = 1) :
    ∃ t, exec (.journalOut k) s = .next t ∧ (s.dummyOut k).Reports t := by
  change ∃ t, execJournalOut k s = .next t ∧ _
  unfold execJournalOut
  rw [if_neg (by omega)]
  refine ⟨_, rfl, ?_⟩
  dsimp only
  split
  · exact (State.irq_reports _ _ _).trans (State.modEvent_reports _ _ _ _)
  · exact State.irq_reports _ _ _

theorem execJournalOut_dealer (h : s.roleOf 0 (1 - s.holderDie 0) = 1) :
    ∃ t, exec (.journalOut 0) s = .next t ∧ t.held = [] ∧ t.roleOf 0 (1 - s.holderDie 0) = 2 := by
  obtain ⟨t, ht, told⟩ := execJournalOut_dummy (by decide) h
  exact ⟨t, ht, told.held, (told.roleOf 0 (otherDie_lt _)).trans (State.dummyOut_roleOf (by decide))⟩

theorem execJournalOut_mcc (h : s.roleOf 1 (1 - s.holderDie 1) = 1) :
    ∃ t, exec (.journalOut 1) s = .next t ∧ t.held = s.held ∧ t.roleOf 1 (1 - s.holderDie 1) = 2 := by
  obtain ⟨t, ht, told⟩ := execJournalOut_dummy (by decide) h
  exact ⟨t, ht, told.held.trans State.dummyOut_held, (told.roleOf 1 (otherDie_lt _)).trans (State.dummyOut_roleOf (by decide))⟩

/-- A dummy that runs and may follow is synced, but for an MCC that is OUT. -/
theorem execDummySynced_pair {k : Nat} (hk : k < 2) {u : UnitId} (hu : pairUnit k (1 - s.holderDie k) = some u) : exec (.dummySynced k) s =
    .next (if s.ustate u ≠ stRunning ∨ (s.stby k).status = 2 ∨ s.roleOf k (1 - s.holderDie k) = 0 then s
      else if k = 1 ∧ s.roleOf k (1 - s.holderDie k) = 2 then s else s.setRole k (1 - s.holderDie k) 1 1) := by
  change execDummySynced k s = _
  unfold execDummySynced
  dsimp only
  rw [if_neg (Nat.not_le.mpr hk), hu]

theorem execDummySynced_dealer (hu : s.ustate ⟨.dlr, 1 - s.holderDie 0⟩ = stRunning) (hs : (s.stby 0).status ≠ 2)
    (hr : s.roleOf 0 (1 - s.holderDie 0) ≠ 0) : exec (.dummySynced 0) s = .next (s.setRole 0 (1 - s.holderDie 0) 1 1) := by
  rw [execDummySynced_pair Nat.two_pos rfl, if_neg (by simp [hu, hs, hr]), if_neg (by simp)]

theorem execDummySynced_mccOut (h : s.roleOf 1 (1 - s.holderDie 1) = 2) : exec (.dummySynced 1) s = .next s := by
  rw [execDummySynced_pair Nat.one_lt_two rfl]
  simp [h]

end

/-! ## Passing and releases (R584, R585, R587) -/

/-- What a release makes of a pair that it names. -/
def State.releasePair (s : State) (k : Nat) : State :=
  if s.canPass k && !s.sys.failed.contains (k, s.holderDie k) then s.passOwner k else s.setStby k (fun x => { x with refused := x.refused + 1 })

section
variable {s : State}

theorem execOwnershipPass_present {k : Nat} (hk : k < 3) (h : s.sys.failed.contains (k, s.holderDie k) = false) :
    exec (.ownershipPass k) s = .next (if s.canPass k then s.passOwner k else s.pairLost k) :=
  congrArg _ (if_neg (by simpa [Nat.not_le.mpr hk] using h))

/-- The owner that has failed is neither passed on from nor heard. -/
theorem execOwner_failed {k : Nat} (h : s.sys.failed.contains (k, s.holderDie k) = true) :
    exec (.ownershipPass k) s = .next s ∧ exec (.ownerHeartbeat k) s = .next s :=
  ⟨congrArg _ (if_pos (Or.inr h)), congrArg _ (if_pos (Or.inr h))⟩

/-- A release that names the Dealers alone. -/
theorem execRelease_dealers (s : State) : exec (.release .mgmt 1) s = .next (s.releasePair 0) := rfl

/-! ## Heartbeats (R567, R584) -/

/-- Pair k's bit of HB.MISSING after it was written on both AON pages. -/
def State.setMissing (s : State) (k x : Nat) : State :=
  s.putAon Reg.aon.hbMissing (setBits (s.get ⟨.aon, 0⟩ Reg.aon.hbMissing) k 1 x)

theorem State.setMissing_get (s : State) {k : Nat} (hk : k < 3) (x : Nat) {d : Nat} (hd : d < 2) :
    (s.setMissing k x).get ⟨.aon, d⟩ Reg.aon.hbMissing = setBits (s.get ⟨.aon, 0⟩ Reg.aon.hbMissing) k 1 x := by
  rw [State.setMissing, State.putAon_get s rfl (by decide) _ hd]
  exact Nat.mod_eq_of_lt (setBits_lt _ _ _ _ _ (State.get_lt ..) hk)

theorem bit_setBits_same (v k x : Nat) : bit (setBits v k 1 x) k = (x % 2 == 1) := by
  rw [bit_eq_bits, bits_setBits_same, Nat.pow_one]

theorem execOwnerHeartbeat_heard {k : Nat} (hk : k < 3) (h : s.sys.failed.contains (k, s.holderDie k) = false) :
    ∃ t, exec (.ownerHeartbeat k) s = .next t ∧ bit (t.get ⟨.aon, 0⟩ Reg.aon.hbMissing) k = false ∧
      t.get ⟨.aon, 1⟩ Reg.aon.hbMissing = t.get ⟨.aon, 0⟩ Reg.aon.hbMissing ∧ t.mem = s.mem := by
  refine ⟨s.setMissing k 0, congrArg _ (if_neg (by simpa [Nat.not_le.mpr hk] using h)), ?_, ?_, State.putAon_mem ..⟩
  · rw [State.setMissing_get s hk 0 Nat.two_pos, bit_setBits_same]
    rfl
  · rw [State.setMissing_get s hk 0 Nat.one_lt_two, State.setMissing_get s hk 0 Nat.two_pos]

theorem execHeartbeatGap_eq {k : Nat} (hk : k < 3) (h : bit (s.get ⟨.aon, 0⟩ Reg.aon.hbMissing) k = false) :
    exec (.heartbeatGap k) s = .next (((s.setMissing k 1).count ⟨.aon, 0⟩ 0 1).count ⟨.aon, 1⟩ 0 1) :=
  congrArg Host.Outcome.next (if_neg (by simpa [Nat.not_le.mpr hk] using h))

theorem execHeartbeatGap_missed {k : Nat} (hk : k < 3) (h : bit (s.get ⟨.aon, 0⟩ Reg.aon.hbMissing) k = false) :
    ∃ t, exec (.heartbeatGap k) s = .next t ∧ bit (t.get ⟨.aon, 0⟩ Reg.aon.hbMissing) k = true ∧ t.mem = s.mem := by
  have told := (State.count_reports (s.setMissing k 1) ⟨.aon, 0⟩ 0 1).trans (State.count_reports _ ⟨.aon, 1⟩ 0 1)
  refine ⟨_, execHeartbeatGap_eq hk h, ?_, told.mem.trans (State.putAon_mem ..)⟩
  have missing := (told.get (w := ⟨.aon, 0⟩) (by decide) (by decide)).trans (State.setMissing_get s hk 1 Nat.two_pos)
  exact (congrArg (fun v => bit v k) missing).trans (bit_setBits_same _ k 1)

/-! ## The interlock (R567, R584) -/

/-- Both dies see the interlock broken, and AON tells of it. -/
def State.breakInterlock (s : State) : State :=
  [(⟨.aon, 0⟩ : UnitId), ⟨.aon, 1⟩].foldl (fun t u => (t.count u 3 1).irq u (2 ^ 17))
    ((s.putAon Reg.aon.latchInterlockOk 0).put sprU Reg.spr.ownInterlockOk 0)

/-- A pair that a copy on LD1 holds, and has not lost yet, is lost. -/
def State.loseOnLd1 (s : State) (k : Nat) : State := if s.holderDie k = 1 ∧ !s.sys.failed.contains (k, 1) then s.pairLost k else s

theorem State.loseOnLd1_ld0 {k : Nat} (h : s.holderDie k = 0) : s.loseOnLd1 k = s := if_neg (by simp [h])

theorem execInterlockFault_whole (h : s.flag sprU Reg.spr.ownInterlockOk = true) : exec .interlockFault s =
    .next (((List.range 3).foldl State.loseOnLd1 s.breakInterlock).put ⟨.aon, 1⟩ Reg.aon.latchHolder 0) :=
  congrArg _ (if_neg (by simp [h]))

/-- Beside the interlock's own bits its break is told of only. -/
theorem State.breakInterlock_reports (s : State) :
    ((s.putAon Reg.aon.latchInterlockOk 0).put sprU Reg.spr.ownInterlockOk 0).Reports s.breakInterlock :=
  List.foldlRecOn (motive := State.Reports _) _ _ (.refl _)
    (fun _ h u _ => (h.trans (State.count_reports _ u 3 1)).trans (State.irq_reports _ u _))

theorem State.breakInterlock_spr (s : State) : s.breakInterlock.get sprU Reg.spr.ownInterlockOk = 0 :=
  (s.breakInterlock_reports.get (by decide) (by decide)).trans (State.get_put_same ..)

theorem State.breakInterlock_aon (s : State) : s.breakInterlock.get ⟨.aon, 0⟩ Reg.aon.latchInterlockOk = 0 := by
  refine (s.breakInterlock_reports.get (by decide) (by decide)).trans ?_
  rw [State.get_put_apart _ _ _ _ _ _ (by decide) (by decide) (by decide)]
  exact State.putAon_get s rfl (by decide) 0 Nat.two_pos

theorem State.breakInterlock_holderDie (s : State) (k : Nat) : s.breakInterlock.holderDie k = s.holderDie k := by
  refine congrArg (fun v => bits v k 1) ((s.breakInterlock_reports.get (by decide) (by decide)).trans ?_)
  rw [State.get_put_apart _ _ _ _ _ _ (by decide) (by decide) (by decide), State.putAon_get_apart s (by decide) (by decide) (by decide)]

theorem State.breakInterlock_mem (s : State) : s.breakInterlock.mem = s.mem :=
  s.breakInterlock_reports.mem.trans ((State.put_mem ..).trans (State.putAon_mem ..))

/-- Where LD0 holds every pair, none is lost. -/
theorem execInterlockFault_ld0 (h : s.flag sprU Reg.spr.ownInterlockOk = true) (h0 : s.holderDie 0 = 0) (h1 : s.holderDie 1 = 0)
    (h2 : s.holderDie 2 = 0) : exec .interlockFault s = .next (s.breakInterlock.put ⟨.aon, 1⟩ Reg.aon.latchHolder 0) := by
  have kept : (List.range 3).foldl State.loseOnLd1 s.breakInterlock = s.breakInterlock := by
    change ((s.breakInterlock.loseOnLd1 0).loseOnLd1 1).loseOnLd1 2 = _
    rw [State.loseOnLd1_ld0 (s.breakInterlock_holderDie 0 |>.trans h0), State.loseOnLd1_ld0 (s.breakInterlock_holderDie 1 |>.trans h1),
      State.loseOnLd1_ld0 (s.breakInterlock_holderDie 2 |>.trans h2)]
  rw [execInterlockFault_whole h, kept]

theorem execInterlockFault_leaves (h : s.flag sprU Reg.spr.ownInterlockOk = true) (h0 : s.holderDie 0 = 0) (h1 : s.holderDie 1 = 0)
    (h2 : s.holderDie 2 = 0) : ∃ t, exec .interlockFault s = .next t ∧ t.get sprU Reg.spr.ownInterlockOk = 0 ∧
      t.get ⟨.aon, 0⟩ Reg.aon.latchInterlockOk = 0 ∧ t.get ⟨.aon, 1⟩ Reg.aon.latchHolder = 0 ∧ t.mem = s.mem := by
  refine ⟨_, execInterlockFault_ld0 h h0 h1 h2, ?_, ?_, State.get_put_same .., (State.put_mem ..).trans s.breakInterlock_mem⟩
  · exact (State.get_put_apart _ _ _ _ _ _ (by decide) (by decide) (by decide)).trans s.breakInterlock_spr
  · exact (State.get_put_apart _ _ _ _ _ _ (by decide) (by decide) (by decide)).trans s.breakInterlock_aon

/-! ## Tests of the dummies (R588) -/

section
variable {k : Nat} (hk : k < 2) (hr : s.roleOf k (1 - s.holderDie k) = 1) (hc : s.standbyCode k < 4)
include hk hr hc

theorem execScanSlice_within (ok : Bool) : exec (.scanSlice k ok false) s = .next (if ok then s.count sprU 4 1
    else ((s.count sprU 4 1).setStby k (fun x => { x with slicesFailed := x.slicesFailed + 1 })).dummyFails k) :=
  congrArg _ ((if_neg (by omega)).trans (if_pos rfl))

theorem execDigestCompare_differs : exec (.digestCompare k false) s =
    .next (((s.count sprU 5 1).setStby k (fun x => { x with mismatches := x.mismatches + 1 })).dummyFails k) :=
  congrArg _ (if_neg (by simpa using ⟨Nat.le_of_lt_succ hk, hr, hc⟩))

end

/-! ## The firmware and the health report (R533, R590) -/

theorem State.predOff_idle (h : s.flag pwrU Reg.pwr.statPred = false) : s.predOff = s := if_neg (ne_true_of_eq_false h)

theorem execFwRestart_faulted (h : s.ustate s.mccHolder = stFaulted) (up : Bool) : exec (.fwRestart up) s = .next s := congrArg _ (if_pos h)

variable (hm : s.ustate s.mccHolder ≠ stFaulted)
include hm

theorem execFwRestart_down (hd : s.fwDown = false) : exec (.fwRestart false) s =
    .next (((s.put s.mccHolder Reg.mcc.fwState 3).count s.mccHolder 5 1).irq s.mccHolder (2 ^ 16)).predOff :=
  congrArg Host.Outcome.next ((if_neg hm).trans ((if_pos rfl).trans (if_neg (ne_true_of_eq_false hd))))

theorem execFwRestart_goesDown (hd : s.fwDown = false) (hp : s.flag pwrU Reg.pwr.statPred = false) :
    ∃ t, exec (.fwRestart false) s = .next t ∧ t.get s.mccHolder Reg.mcc.fwState = 3 ∧ t.mem = s.mem := by
  have told := (State.count_reports (s.put s.mccHolder Reg.mcc.fwState 3) s.mccHolder 5 1).trans (State.irq_reports _ s.mccHolder (2 ^ 16))
  have idle : (((s.put s.mccHolder Reg.mcc.fwState 3).count s.mccHolder 5 1).irq s.mccHolder (2 ^ 16)).flag pwrU Reg.pwr.statPred = false := by
    rw [State.flag, told.get (by decide) (by decide), State.get_put_apart _ _ _ _ _ _ (by decide) (by decide) (by decide)]
    exact hp
  refine ⟨_, (execFwRestart_down hm hd).trans (congrArg _ (State.predOff_idle idle)), ?_, told.mem.trans (State.put_mem ..)⟩
  exact (told.get s.mccHolder_valid (by decide)).trans (State.get_put_same ..)

theorem execFwRestart_comesUp (hd : s.fwDown = true) (hp : s.pwr.hostPend = none) :
    exec (.fwRestart true) s = .next (s.put s.mccHolder Reg.mcc.fwState (if s.mode = 4 then 2 else 1)) := by
  change execFwRestart true s = _
  unfold execFwRestart
  dsimp only
  rw [if_neg hm, if_neg (by decide), if_neg (by simp [hd]), State.put_pwr, hp]

theorem execCapture_writer {src : Src} (h : notVf src = true) :
    exec (.capture src) s = .next { s with sys := { s.sys with health := s.healthReport } } := congrArg _ (if_pos (by simp [h, hm]))

end

/-- Settles O55, by the lemma about each command. -/
theorem pairsJournalAndPass : Obligations.PairsJournalAndPass := by
  refine ⟨fun s => ⟨execJournalRecord_empty, fun o r => execJournalRecord_oldest, execJournalRecord_mcc, fun k => execJournal_none,
      execJournalOut_dealer, execJournalOut_mcc, fun k hk h => congrArg _ (if_pos (Or.inr h)), execDummySynced_dealer, execDummySynced_mccOut,
      fun k hk h => ⟨fun hc => ?_, fun hc => ?_⟩, fun k => execOwner_failed, fun src m h => congrArg _ (if_pos h), fun h => ?_, fun hc h => ?_⟩,
    fun s => ⟨fun k => execOwnerHeartbeat_heard, fun k => execHeartbeatGap_missed, fun k h => congrArg _ (if_pos (by simp [h])),
      fun h => congrArg _ (if_pos (by simp [h])), execInterlockFault_leaves,
      fun k hk hr hc => ⟨execScanSlice_within hk hr hc true, execScanSlice_within hk hr hc false, execDigestCompare_differs hk hr hc⟩,
      fun k => congrArg Host.Outcome.next (if_pos (Or.inl rfl)), execFwRestart_goesDown, execFwRestart_comesUp, execFwRestart_faulted,
      fun src hv hm => execCapture_writer hm hv, fun src hv => congrArg _ (if_neg (by simp [hv]))⟩⟩
  · exact (execOwnershipPass_present hk h).trans (congrArg _ (if_pos hc))
  · exact (execOwnershipPass_present hk h).trans (congrArg _ (if_neg (ne_true_of_eq_false hc)))
  · exact (execRelease_dealers s).trans (congrArg _ (if_neg (by simp [h])))
  · exact (execRelease_dealers s).trans (congrArg _ (if_pos (by rw [hc, h]; rfl)))

end Sys2Proof.Machine
end

section
/-!
SUPPORT. The fields of the BAR2 windows, and what a ring that is drained, its vector and the tail shadow leave of them (R30, R376, R377, R385, R388).
-/
namespace Sys2Proof

/-- A field that the page of a window holds whole. -/
def Field.inWindow (f : Field) : Bool := decide (f.reach = .page) && Machine.fieldWithin f

theorem Field.inWindow_page {f : Field} (h : f.inWindow = true) : f.reach = .page := of_decide_eq_true ((Bool.and_eq_true _ _).mp h).1

theorem Field.inWindow_within {f : Field} (h : f.inWindow = true) : Machine.fieldWithin f = true := ((Bool.and_eq_true _ _).mp h).2

end Sys2Proof

namespace Sys2Proof.Machine

/-! ## Fields of a window (R30, R376) -/

/-- The unit, beyond those that exist, whose page would stand where a window's registers do: what holds of pages then holds of windows. -/
def windowUnit (p : Nat) : UnitId := ⟨.mcc, 0x4000 + p * 16⟩

theorem windowUnit_home (p : Nat) {f : Field} (hf : f.reach = .page) : (windowUnit p).home f = winBase p := by
  unfold UnitId.home
  rw [hf]
  unfold UnitId.base UnitId.page windowUnit winBase
  simp only [blkBase]
  omega

theorem State.win_eq_get (s : State) (p : Nat) {f : Field} (hf : f.reach = .page) : s.win p f = s.get (windowUnit p) f := by
  rw [State.get, windowUnit_home p hf]
  rfl

theorem State.setWin_eq_put (s : State) (p : Nat) {f : Field} (hf : f.reach = .page) (v : Nat) : s.setWin p f v = s.put (windowUnit p) f v := by
  rw [State.put, windowUnit_home p hf]
  rfl

theorem State.win_of_regs {s t : State} (h : t.regs = s.regs) (p : Nat) (f : Field) : t.win p f = s.win p f := by
  rw [State.win, State.win, State.getAt, State.getAt, State.words_of_regs h]

variable (s : State) (p : Nat)

@[simp] theorem State.win_setWin_same (f : Field) (v : Nat) : (s.setWin p f v).win p f = v % 2 ^ f.width := State.getAt_setAt_same s _ f v

section
variable {f : Field} (hf : f.inWindow = true)
include hf

theorem State.win_setWin_apart {g : Field} (hg : g.inWindow = true) (ha : fieldsApart g f = true) (v : Nat) :
    (s.setWin p g v).win p f = s.win p f := by
  rw [State.setWin_eq_put s p (Field.inWindow_page hg), State.win_eq_get _ p (Field.inWindow_page hf), State.win_eq_get s p (Field.inWindow_page hf)]
  exact State.get_put_apart s _ _ g f v ha (Field.inWindow_within hg) (Field.inWindow_within hf)

/-- A write of a field of BAR0 leaves the windows. -/
theorem State.win_put {u : UnitId} (hu : u.valid = true) {g : Field} (hg : fieldWithin g = true) (v : Nat) :
    (s.put u g v).win p f = s.win p f := by
  have below := UnitId.home_lt hu g
  rw [State.win_eq_get _ p (Field.inWindow_page hf), State.win_eq_get s p (Field.inWindow_page hf)]
  refine State.get_put_page s u _ g f v (fun e => ?_) hg (Field.inWindow_within hf)
  rw [e, windowUnit_home p (Field.inWindow_page hf)] at below
  unfold winBase at below
  omega

theorem State.win_setWord {a : Nat} (ha : a < winBase p ∨ winBase p + 0x1000 ≤ a) (w : Word) : (s.setWord a w).win p f = s.win p f := by
  have within := Field.inWindow_within hf
  simp only [fieldWithin, decide_eq_true_eq] at within
  obtain ⟨n, hn⟩ : ∃ n, winBase p = n * 0x1000 := ⟨0x4000 + p * 16, by unfold winBase; omega⟩
  rw [hn] at ha
  unfold State.win State.getAt
  rw [hn, State.words_congr _ s]
  intro i hi
  refine State.word_setWord_other s w ?_
  rw [fieldSpan_base] at hi
  rw [fieldPos_base]
  dsimp only
  omega

/-! ## Vectors and the tail shadow (R377, R388) -/

/-- A vector's pending bit stands above the window's registers. -/
theorem State.win_sendVector (vf : Option Nat) (k : Nat)
    (ha : msixBase vf + 0xC000 + k / 32 * 4 < winBase p ∨ winBase p + 0x1000 ≤ msixBase vf + 0xC000 + k / 32 * 4) :
    (s.sendVector vf k).win p f = s.win p f := by
  unfold State.sendVector
  split
  · exact State.win_setWord s p hf ha _
  · exact State.win_of_regs (by rfl) p f

theorem State.win_msix (vf : Option Nat) (k : Nat)
    (ha : msixBase vf + 0xC000 + k / 32 * 4 < winBase p ∨ winBase p + 0x1000 ≤ msixBase vf + 0xC000 + k / 32 * 4) :
    (s.msix vf k).win p f = s.win p f := by
  have told (v : Nat) : ((s.sendVector vf k).put hifU Reg.common.irqStatus v).win p f = s.win p f :=
    (State.win_put _ p hf (by decide) (by decide) v).trans (State.win_sendVector s p hf vf k ha)
  have own : msixBase none + 0xC000 + 1 / 32 * 4 < winBase p ∨ winBase p + 0x1000 ≤ msixBase none + 0xC000 + 1 / 32 * 4 := by
    simp only [msixBase, winBase]
    omega
  unfold State.msix
  dsimp only
  split
  · exact State.win_sendVector s p hf vf k ha
  · split
    · exact told _
    · exact (State.win_sendVector _ p hf none 1 own).trans (told _)

theorem State.win_ringVector {which : Nat} (hw : which < 4) : (s.ringVector p which).win p f = s.win p f := by
  unfold State.ringVector
  split
  · exact State.win_msix s p hf _ _ (by simp only [msixBase, winBase]; omega)
  · exact State.win_msix s p hf _ _ (by simp only [msixBase, winBase]; omega)

end

theorem State.win_shadow (f : Field) : (s.shadow p).win p f = s.win p f := by
  unfold State.shadow
  dsimp only
  split
  · rfl
  · exact State.win_of_regs (by rfl) p f

theorem State.setWin_onlySignals (f : Field) (v : Nat) : s.OnlySignals (s.setWin p f v) :=
  calc s.setWin p f v = State.withSignals { s.setWin p f v with regs := s.regs } (s.setWin p f v) := rfl
    _ = s.withSignals (s.setWin p f v) := congrArg (fun x : State => x.withSignals _) (State.setWords_frame _ _ _ _)

theorem State.shadow_onlySignals : s.OnlySignals (s.shadow p) := by
  unfold State.shadow
  dsimp only
  split <;> rfl

theorem State.ringVector_onlySignals (which : Nat) : s.OnlySignals (s.ringVector p which) := by
  unfold State.ringVector
  split <;> exact State.msix_onlySignals s _ _

theorem State.setPart_part_same (g : PartRec → PartRec) : (s.setPart p g).part p = g (s.part p) := (State.setPart_part s p p g).trans (if_pos rfl)

theorem State.OnlySignals.part {s t : State} (h : s.OnlySignals t) (q : Nat) : t.part q = s.part q := by rw [h]; rfl

/-! ## A ring with nothing waiting (R385) -/

/-- Space in a ring that nothing waits for ends its stall, and raises the vector for that. -/
def State.endStall (s : State) (p : Nat) (stall : Field) : State :=
  if s.win p stall = 0 then s else ((s.setWin p stall 0).shadow p).ringVector p 2

theorem State.endStall_onlySignals (stall : Field) : s.OnlySignals (s.endStall p stall) := by
  unfold State.endStall
  split
  · rfl
  · exact ((State.setWin_onlySignals s p stall 0).trans (State.shadow_onlySignals _ p)).trans (State.ringVector_onlySignals _ p 2)

theorem State.win_endStall {f stall : Field} (hf : f.inWindow = true) (hs : stall.inWindow = true) (ha : fieldsApart stall f = true) :
    (s.endStall p stall).win p f = s.win p f := by
  unfold State.endStall
  split
  · rfl
  · rw [State.win_ringVector _ p hf (by decide), State.win_shadow, State.win_setWin_apart s p hf hs ha]

theorem State.win_setPart (g : PartRec → PartRec) (f : Field) : (s.setPart p g).win p f = s.win p f := State.win_of_regs (by rfl) p f

theorem State.drainEvents_nil : s.drainEvents p [] = (s.setPart p (fun r => { r with evtWait := [] })).endStall p Reg.win.statusEvtStall := by
  unfold State.endStall
  rw [State.win_setPart]
  rfl

theorem State.drainTokens_nil : s.drainTokens p [] = (s.setPart p (fun r => { r with tokWait := [] })).endStall p Reg.win.statusTokStall := by
  unfold State.endStall
  rw [State.win_setPart]
  rfl

end Sys2Proof.Machine
end

section
/-!
SUPPORT. Ring heads, STATUS, enabling and disabling of rings, the module event ring, coalescing time-outs, and port H going down and coming up (R375,
R376, R385, R387, R389, R392, R393, R395, R396).
-/
namespace Sys2Proof.Machine

/-! ## Heads and STATUS (R376, R385) -/

section
variable {s : State} {src : Src} {part value : Nat} (ho : s.ownsWindow src part = true)
include ho

/-- The owner of a window is not refused. -/
theorem State.refused_of_owner (t u : State) : (if !s.ownsWindow src part then t else u) = u := if_neg (by simp [ho])

theorem execTokHeadWrite_accepted (h : headOk (s.win part Reg.win.tokTail) value (s.win part Reg.win.tokLog2) = true) :
    exec (.tokHeadWrite src part value) s =
      .next (((s.setWin part Reg.win.tokHead value).drainTokens part (s.part part).tokWait).writeOutcomes part) :=
  congrArg _ ((State.refused_of_owner ho _ _).trans (if_pos h))

theorem execTokHeadWrite_refused (h : headOk (s.win part Reg.win.tokTail) value (s.win part Reg.win.tokLog2) = false) :
    exec (.tokHeadWrite src part value) s = .next (s.doorbellErr part 8 value) :=
  congrArg _ ((State.refused_of_owner ho _ _).trans (if_neg (ne_true_of_eq_false h)))

theorem execEvtHeadWrite_accepted (h : headOk (s.win part Reg.win.evtTail) value (s.win part Reg.win.evtLog2) = true) :
    exec (.evtHeadWrite src part value) s = .next ((s.setWin part Reg.win.evtHead value).drainEvents part (s.part part).evtWait) :=
  congrArg _ ((State.refused_of_owner ho _ _).trans (if_pos h))

theorem execEvtHeadWrite_refused (h : headOk (s.win part Reg.win.evtTail) value (s.win part Reg.win.evtLog2) = false) :
    exec (.evtHeadWrite src part value) s = .next (s.doorbellErr part 0xC value) :=
  congrArg _ ((State.refused_of_owner ho _ _).trans (if_neg (ne_true_of_eq_false h)))

theorem execHifStatusClear_doorbellErr (h : s.win part Reg.win.statusDoorbellErr = 1) :
    exec (.hifStatusClear src part 8) s = .next ((s.setWin part Reg.win.statusDoorbellErr 0).shadow part) := by
  have cleared : s.setWin part Reg.win.statusDoorbellErr 0 ≠ s := fun e => by
    have zero := State.win_setWin_same s part Reg.win.statusDoorbellErr 0
    rw [e, h] at zero
    exact absurd zero (by decide)
  exact congrArg _ ((State.refused_of_owner ho _ _).trans (if_neg cleared))

/-! ## Enabling and disabling (R392) -/

/-- The ring indices that restart when the rings are enabled. -/
def ringIndices : List Field :=
  [Reg.win.rq0Head, Reg.win.rq1Head, Reg.win.tokHead, Reg.win.tokTail, Reg.win.evtHead, Reg.win.evtTail]

/-- The rings' state when they have just been enabled, and nothing that waited has been written yet. -/
def State.ringsFresh (s : State) (p : Nat) : State :=
  (((((ringIndices.foldl (fun t f => t.setWin p f 0) s).setPart p (fun r =>
    { r with rq0Target := 0, rq1Target := 0, rq0Asked := 0, rq1Asked := 0, rq0Stop := false, rq1Stop := false, tokUnsig := 0, evtUnsig := 0 })).setWin
      p Reg.win.ringsEnable 1).setWin p Reg.win.statusRingsOn 1).shadow p)

theorem execRingsEnable_enables (hr : s.ringsOn part = false) (hc : s.ringsOk part = true) : exec (.ringsEnable src part) s =
    .next ((((s.ringsFresh part).drainEvents part ((s.ringsFresh part).part part).evtWait).drainTokens part
      (((s.ringsFresh part).drainEvents part ((s.ringsFresh part).part part).evtWait).part part).tokWait).writeOutcomes part) :=
  congrArg _ ((if_neg (by simp [ho, hr])).trans (if_neg (by simp [hc])))

theorem execRingsEnable_cfgErr (hr : s.ringsOn part = false) (hc : s.ringsOk part = false) :
    exec (.ringsEnable src part) s = .next ((s.setWin part Reg.win.statusCfgErr 1).shadow part) :=
  congrArg _ ((if_neg (by simp [ho, hr])).trans (if_pos (by simp [hc])))

theorem execRingsDisable_owner : exec (.ringsDisable src part) s = .next (s.ringsOff part) := congrArg _ (State.refused_of_owner ho _ _)

end

section
variable (s : State) (p : Nat)

/-- A field of the window that is among those zeroed, and shares no bit with the others. -/
theorem State.win_zeroed {f : Field} (hf : f.inWindow = true) : ∀ (l : List Field) (s : State),
    (∀ g ∈ l, g.inWindow = true ∧ (g = f ∨ fieldsApart g f = true)) → f ∈ l ∨ s.win p f = 0 →
    (l.foldl (fun t g => t.setWin p g 0) s).win p f = 0
  | [], _, _, h => h.resolve_left List.not_mem_nil
  | g :: l, s, hl, h => by
    obtain ⟨⟨hg, hgf⟩, hl⟩ := List.forall_mem_cons.mp hl
    refine State.win_zeroed hf l _ hl ?_
    by_cases e : g = f
    · subst e
      exact Or.inr ((State.win_setWin_same s p g 0).trans (Nat.zero_mod _))
    · rw [State.win_setWin_apart s p hf hg (hgf.resolve_left e)]
      exact h.imp_left (fun hm => (List.mem_cons.mp hm).resolve_left (Ne.symm e))

theorem State.zeroed_onlySignals (l : List Field) : s.OnlySignals (l.foldl (fun t f => t.setWin p f 0) s) :=
  List.foldlRecOn l _ (rfl : s.OnlySignals s) (fun _ h f _ => h.trans (State.setWin_onlySignals _ p f 0))

theorem State.ringsFresh_part : (s.ringsFresh p).part p = { s.part p with
    rq0Target := 0, rq1Target := 0, rq0Asked := 0, rq1Asked := 0, rq0Stop := false, rq1Stop := false, tokUnsig := 0, evtUnsig := 0 } := by
  unfold State.ringsFresh
  rw [(State.shadow_onlySignals _ p).part, (State.setWin_onlySignals _ p _ 1).part, (State.setWin_onlySignals _ p _ 1).part, State.setPart_part_same,
    (State.zeroed_onlySignals s p ringIndices).part]

theorem State.ringsFresh_on : (s.ringsFresh p).ringsOn p = true := by
  unfold State.ringsOn State.ringsFresh
  rw [State.win_shadow, State.win_setWin_apart _ p (by decide) (by decide) (by decide), State.win_setWin_same]
  rfl

theorem State.ringsFresh_index {f : Field} (hf : f ∈ ringIndices) : (s.ringsFresh p).win p f = 0 := by
  have whole : f.inWindow = true ∧ fieldsApart Reg.win.ringsEnable f = true ∧ fieldsApart Reg.win.statusRingsOn f = true ∧
      ∀ g ∈ ringIndices, g.inWindow = true ∧ (g = f ∨ fieldsApart g f = true) := by
    revert f
    decide
  obtain ⟨hw, he, ho, hi⟩ := whole
  unfold State.ringsFresh
  rw [State.win_shadow, State.win_setWin_apart _ p hw (by decide) ho, State.win_setWin_apart _ p hw (by decide) he, State.win_setPart,
    State.win_zeroed p hw ringIndices s hi (Or.inl hf)]

theorem State.win_writeOutcomes_nil (h : (s.part p).outWait = []) (f : Field) : (s.writeOutcomes p).win p f = s.win p f := by
  unfold State.writeOutcomes
  dsimp only
  rw [h]
  split
  · rfl
  · exact State.win_setPart s p _ f

/-- Rings that nothing waits for are drained: beside the stalls, the window's fields stay. -/
theorem State.win_drained_nil (h : (s.part p).outWait = []) {f : Field} (hf : f.inWindow = true)
    (he : fieldsApart Reg.win.statusEvtStall f = true) (ht : fieldsApart Reg.win.statusTokStall f = true) :
    (((s.drainEvents p []).drainTokens p []).writeOutcomes p).win p f = s.win p f := by
  have waits : (((s.drainEvents p []).drainTokens p []).part p).outWait = [] := by
    rw [State.drainTokens_nil, (State.endStall_onlySignals _ p _).part, State.setPart_part_same, State.drainEvents_nil,
      (State.endStall_onlySignals _ p _).part, State.setPart_part_same]
    exact h
  rw [State.win_writeOutcomes_nil _ p waits, State.drainTokens_nil, State.win_endStall _ p hf (by decide) ht, State.win_setPart,
    State.drainEvents_nil, State.win_endStall _ p hf (by decide) he, State.win_setPart]

end

/-- Enabled with nothing waiting, the rings stand at fresh indices. -/
theorem execRingsEnable_fresh {s : State} {src : Src} {part : Nat} (ho : s.ownsWindow src part = true) (hr : s.ringsOn part = false)
    (hc : s.ringsOk part = true) (hev : (s.part part).evtWait = []) (htw : (s.part part).tokWait = []) :
    exec (.ringsEnable src part) s = .next ((((s.ringsFresh part).drainEvents part []).drainTokens part []).writeOutcomes part) := by
  have ev : ((s.ringsFresh part).part part).evtWait = [] := by rw [State.ringsFresh_part]; exact hev
  have tk : (((s.ringsFresh part).drainEvents part []).part part).tokWait = [] := by
    rw [State.drainEvents_nil, (State.endStall_onlySignals _ part _).part, State.setPart_part_same, State.ringsFresh_part]
    exact htw
  rw [execRingsEnable_enables ho hr hc, ev, tk]

/-! ## The module event ring (R396) -/

section
variable {s : State} {src : Src} {v : Nat} (hv : notVf src = true)
include hv

theorem execMevtEnable_fresh (hn : s.mevtOn = false) (hb : s.get hifU Reg.hif.mevtBase % 4096 = 0) (hl : 8 ≤ s.get hifU Reg.hif.mevtLog2)
    (hh : s.get hifU Reg.hif.mevtLog2 ≤ 16) : exec (.mevtEnable src) s =
      .next ({ (((s.put hifU Reg.hif.mevtTail 0).put hifU Reg.hif.mevtHead 0).put hifU Reg.hif.mevtEnable 1) with
        modUnsig := 0 } : State).flushModule :=
  congrArg _ ((if_neg (by simp [hv, hn])).trans (if_neg (by omega)))

theorem execMevtHeadWrite_accepted (h : headOk (s.get hifU Reg.hif.mevtTail) v (s.get hifU Reg.hif.mevtLog2) = true) :
    exec (.mevtHeadWrite src v) s = .next (s.put hifU Reg.hif.mevtHead v).flushModule :=
  congrArg _ ((if_neg (by simp [hv])).trans (if_pos h))

theorem execMevtHeadWrite_refused (h : headOk (s.get hifU Reg.hif.mevtTail) v (s.get hifU Reg.hif.mevtLog2) = false) :
    exec (.mevtHeadWrite src v) s = .next (s.put hifU Reg.hif.mevtHeadErr 1) :=
  congrArg _ ((if_neg (by simp [hv])).trans (if_neg (ne_true_of_eq_false h)))

end

/-! ## Virtual functions (R375, R392) -/

theorem execVfFlr_enabled {s : State} {p : Nat} (h : p < s.vfs) :
    exec (.vfFlr p) s = .next ((s.ringsOff p).setWords (winBase p + 0x100) 14 0) := by
  change execVfFlr p s = _
  unfold execVfFlr
  rw [if_neg (Nat.not_le.mpr h)]

/-! ## Port H (R389, R393, R395) -/

section
variable {s : State}

theorem State.endRun_merge : s.endRun.merge = none := by
  unfold State.endRun
  split
  · assumption
  · rfl

theorem execPortHDown_linkFailure : ∃ t, exec (.portHDown .linkFailure) s = .next t ∧ t.get hifU Reg.hif.linkState = 0 ∧
    t.get hifU Reg.hif.linkIdeOn = 0 ∧ t.merge = none ∧ t.spdm.ideSet = 0 := by
  refine ⟨_, rfl, State.get_put_same .., ?_, ?_, ?_⟩
  · exact (State.get_put_apart _ hifU hifU _ _ _ (by decide) (by decide) (by decide)).trans (State.get_put_same ..)
  · rw [State.put_merge, State.put_merge]
    exact State.endRun_merge
  · rw [State.put_spdm, State.put_spdm]

/-- Port H with its link at full width and rate. -/
def State.linkFull (s : State) : State := ((s.put hifU Reg.hif.linkWidth 2).put hifU Reg.hif.linkRate 3).put hifU Reg.hif.linkState 2

theorem State.linkFull_get : s.linkFull.get hifU Reg.hif.linkState = 2 ∧ s.linkFull.get hifU Reg.hif.linkWidth = 2 ∧
    s.linkFull.get hifU Reg.hif.linkRate = 3 := by
  have beside (t : State) {f g : Field} (v : Nat) := State.get_put_apart t hifU hifU f g v
  unfold State.linkFull
  refine ⟨State.get_put_same .., ?_, ?_⟩
  · rw [beside _ _ (by decide) (by decide) (by decide), beside _ _ (by decide) (by decide) (by decide)]
    exact State.get_put_same ..
  · rw [beside _ _ (by decide) (by decide) (by decide)]
    exact State.get_put_same ..

variable (ha : s.awake = true) (hp : s.sys.pgood = true) (hd : s.hostUp = false) (hm : s.minimal = false)
include ha hp hd hm

theorem execPortHLinkUp_full :
    exec (.portHLinkUp 2 3) s = .next { s.linkFull with memWin := s.get hifU Reg.hif.memwinSizeGib } := by
  change execPortHLinkUp 2 3 s = _
  unfold execPortHLinkUp
  rw [if_neg (by simp [ha, hp, hd]), hm]
  rfl

theorem execPortHLinkUp_fields : ∃ t, exec (.portHLinkUp 2 3) s = .next t ∧ t.get hifU Reg.hif.linkState = 2 ∧
    t.get hifU Reg.hif.linkWidth = 2 ∧ t.get hifU Reg.hif.linkRate = 3 ∧ t.memWin = s.get hifU Reg.hif.memwinSizeGib := by
  have same (g : Field) : ({ s.linkFull with memWin := s.get hifU Reg.hif.memwinSizeGib } : State).get hifU g = s.linkFull.get hifU g :=
    State.get_of_regs (by rfl) hifU g
  obtain ⟨state, width, rate⟩ := State.linkFull_get (s := s)
  exact ⟨_, execPortHLinkUp_full ha hp hd hm, (same _).trans state, (same _).trans width, (same _).trans rate, rfl⟩

end

/-- Settles O16, by the lemma about each control. -/
theorem ringControlsTakeEffect : Obligations.RingControlsTakeEffect := by
  refine ⟨fun s src part value ho => ⟨execTokHeadWrite_accepted ho, execTokHeadWrite_refused ho, execEvtHeadWrite_accepted ho,
      execEvtHeadWrite_refused ho, fun h => ?_, fun hr hc hev htw how => ?_, execRingsEnable_cfgErr ho, execRingsDisable_owner ho⟩,
    fun s => ⟨fun src => execMevtEnable_fresh, fun src v => execMevtHeadWrite_accepted, fun src v => execMevtHeadWrite_refused,
      fun p h => congrArg _ (if_neg h), fun p h => congrArg _ (if_neg h), fun h => congrArg _ (if_neg h),
      fun p => execVfFlr_enabled, fun n => rfl, execPortHDown_linkFailure, execPortHLinkUp_fields⟩⟩
  · have told := (State.setWin_onlySignals s part Reg.win.statusDoorbellErr 0).trans (State.shadow_onlySignals _ part)
    refine ⟨_, execHifStatusClear_doorbellErr ho h, ?_, told.mem, ?_, ?_⟩
    · rw [State.win_shadow, State.win_setWin_same, Nat.zero_mod]
    · rw [told]; rfl
    · rw [told]; rfl
  · have outs : ((s.ringsFresh part).part part).outWait = [] := by rw [State.ringsFresh_part]; exact how
    refine ⟨_, execRingsEnable_fresh ho hr hc hev htw, ?_, ?_, ?_⟩
    · exact (congrArg (· != 0) (State.win_drained_nil _ part outs (by decide) (by decide) (by decide))).trans (State.ringsFresh_on s part)
    · exact (State.win_drained_nil _ part outs (by decide) (by decide) (by decide)).trans (State.ringsFresh_index s part (by decide))
    · exact (State.win_drained_nil _ part outs (by decide) (by decide) (by decide)).trans (State.ringsFresh_index s part (by decide))

end Sys2Proof.Machine
end

section
/-!
SUPPORT. The host's CXL.mem window, the answers of CXL's mailbox and DOE, and the CDAT (R373, R374, R389, R602).
-/
namespace Sys2Proof.Machine

/-! ## The CDAT (R374) -/

/-- Settles O59: the entries are answered to the physical function alone, and an answer changes neither memory nor registers. -/
theorem theCdatIsReported : Obligations.TheCdatIsReported := by
  refine fun s src => ⟨fun hp hr => ⟨_, rfl, if_pos ⟨hp, hr⟩, rfl, rfl⟩, fun h => ?_⟩
  have refused : ¬(src = .pf ∧ s.reachable src = true) := fun ⟨hp, hr⟩ => h.elim (· hp) (fun hf => absurd hr (ne_true_of_eq_false hf))
  exact congrArg (fun r => Host.Outcome.next (s.respond r)) (if_neg refused)

/-! ## The mailbox and DOE (R373) -/

section
variable {s : State} (hr : s.reachable .pf = true)
include hr

theorem execIdentifyMemoryDevice_reached : exec (.identifyMemoryDevice .pf) s =
    .next (s.fresh.2.respond [s.memWin * 4, s.memWin * 4, 0, s.fresh.1]) := congrArg _ (if_neg (by simp [hr]))

theorem execGetSupportedLogs_reached : exec (.getSupportedLogs .pf) s = .next (s.fresh.2.respond [s.fresh.1]) :=
  congrArg _ (if_neg (by simp [hr]))

/-- The protocols of the physical function: three of PCI-SIG's, and CXL's Table Access. -/
theorem execDiscovery_protocols : exec (.discovery .pf 0) s = .next (s.respond [1, 0, 1]) ∧
    exec (.discovery .pf 3) s = .next (s.respond [0x1E98, 2, 0]) :=
  ⟨congrArg _ (if_neg (by simp [hr])), congrArg _ (if_neg (by simp [hr]))⟩

end

/-! ## The host's run of writes (R602) -/

theorem State.count_merge (s : State) (u : UnitId) (k n : Nat) : (s.count u k n).merge = s.merge := by
  rw [State.count_onlySignals s u k n]
  rfl

/-- The first whole clean quarter starts a run. -/
theorem State.runOn_start {s : State} (h : s.merge = none) (line b : Nat) (d : List Byte) :
    s.runOn line b d = { s with merge := some ⟨line, [(b, d)], [], []⟩ } := by
  unfold State.runOn
  rw [h]

section
variable {line b : Nat} {x y z : Nat × List Byte} {done : List Nat} (hx : x.1 ≠ b) (hy : y.1 ≠ b) (hz : z.1 ≠ b)
  (hd : ∀ i ∈ done, i = x.1 ∨ i = y.1 ∨ i = z.1)
include hx hy hz hd

/-- A fourth quarter joins the three before it, and lets none of them go. -/
theorem HostRun.next_fourth (d : List Byte) :
    HostRun.next ⟨line, [x, y, z], done, []⟩ b d = ⟨line, [x, y, z, (b, d)], done, []⟩ := by
  have other : [x, y, z].any (fun q => q.1 == b) = false := by simp [hx, hy, hz]
  have kept : done.filter (fun i => [x, y, z].any (fun q => q.1 == i)) = done := by
    refine List.filter_eq_self.mpr (fun i hi => ?_)
    rcases hd i hi with rfl | rfl | rfl <;> simp
  unfold HostRun.next
  simp only [other, Bool.false_eq_true, if_false, kept, List.filter_nil, List.cons_append, List.nil_append]

theorem State.runOn_fourth {s : State} (h : s.merge = some ⟨line, [x, y, z], done, []⟩) (d : List Byte) :
    s.runOn line b d = { s with merge := some ⟨line, [x, y, z, (b, d)], done, []⟩ } := by
  unfold State.runOn
  rw [h]
  dsimp only
  rw [if_pos ⟨rfl, by simp⟩, HostRun.next_fourth hx hy hz hd d]
  rfl

end

/-! ## Reads of the window (R389) -/

section
variable {s : State} {w : Nat} (hu : s.hostUp = true) (hp : s.parked = false)
include hu hp

theorem execCxlMemRead_outside (ht : ((s.count hifU 6 1).endRun).windowTarget (w / 64 * 64) = none) (ev : MemEv) :
    exec (.cxlMemRead w ev) s =
      .next ((((s.count hifU 6 1).endRun).windowRefused (w / 64 * 64)).tblAnswer true (List.replicate 64 0)) := by
  change execCxlMemRead w ev s = _
  unfold execCxlMemRead
  rw [if_neg (by simp [hu]), State.rouse_unparked hp]
  dsimp only
  rw [ht]

theorem execCxlMemRead_inside {p sp off : Nat} {ro : Bool}
    (ht : ((s.count hifU 6 1).endRun).windowTarget (w / 64 * 64) = some (p, sp, off, ro)) (ev : MemEv) :
    exec (.cxlMemRead w ev) s = .next (((s.count hifU 6 1).endRun).hostRead p sp off ev).reviewAll := by
  change execCxlMemRead w ev s = _
  unfold execCxlMemRead
  rw [if_neg (by simp [hu]), State.rouse_unparked hp]
  dsimp only
  rw [ht]

end

/-! ## Writes of the window (R389, R602) -/

/-- A write, already counted, of what may be written of an aperture's line. -/
def State.apertureWrite (s : State) (p sp off : Nat) (data : List (Option Byte)) (pois : Bool) (ev : MemEv) : State :=
  let line := key sp off / 256
  let d := data.map (fun x => x.getD 0)
  if data.all Option.isSome && !pois then
    let s1 := s.runOn line (key sp off % 256 / 64) d
    match s1.merge with
    | some r =>
      if r.beats.length = 4 then ((s1.merged line).hostWrite p sp (off / 256 * 256) r.data 0 false ev).reviewAll
      else (s1.hostWrite p sp off d 0 false ev).reviewAll
    | none => s1
  else if data.any Option.isSome then (s.endRun.hostWrite p sp off d (keepMask data) pois ev).reviewAll
  else s.endRun

section
variable {s : State} {w : Nat} {data : List (Option Byte)} (hu : s.hostUp = true) (hp : s.parked = false) (hl : data.length = 64)
include hu hp hl

theorem execCxlMemWrite_outside (ht : (s.count hifU 7 1).windowTarget (w / 64 * 64) = none) (pois : Bool) (ev : MemEv) :
    exec (.cxlMemWrite w data pois ev) s = .next ((s.count hifU 7 1).endRun.windowRefused (w / 64 * 64)) := by
  change execCxlMemWrite w data pois ev s = _
  unfold execCxlMemWrite
  rw [if_neg (by simp [hu, hl]), State.rouse_unparked hp]
  dsimp only
  rw [ht]

theorem execCxlMemWrite_inside {p sp off : Nat} {ro : Bool} (ht : (s.count hifU 7 1).windowTarget (w / 64 * 64) = some (p, sp, off, ro))
    (pois : Bool) (ev : MemEv) : exec (.cxlMemWrite w data pois ev) s =
      .next (if ro then (s.count hifU 7 1).endRun else (s.count hifU 7 1).apertureWrite p sp off data pois ev) := by
  change execCxlMemWrite w data pois ev s = _
  unfold execCxlMemWrite
  rw [if_neg (by simp [hu, hl]), State.rouse_unparked hp]
  dsimp only
  rw [ht]
  rfl

end

section
variable {s : State} {sp off : Nat} {data : List (Option Byte)} {pois : Bool} (p : Nat) (ev : MemEv)

/-- A masked or poisoned write ends the run and goes to its line alone. -/
theorem State.apertureWrite_alone (hs : data.any Option.isSome = true) (h : data.all Option.isSome = false ∨ pois = true) :
    s.apertureWrite p sp off data pois ev =
      (s.endRun.hostWrite p sp off (data.map (fun x => x.getD 0)) (keepMask data) pois ev).reviewAll := by
  refine (if_neg ?_).trans (if_pos hs)
  rcases h with h | h <;> simp [h]

/-- A write with every byte masked out ends the run and writes nothing. -/
theorem State.apertureWrite_masked (hs : data.any Option.isSome = false) (hl : data.length = 64) :
    s.apertureWrite p sp off data pois ev = s.endRun := by
  have some_masked : data.all Option.isSome = false := by
    cases data with
    | nil => simp at hl
    | cons x xs => simp [((Bool.or_eq_false_iff ..).mp hs).1]
  exact (if_neg (by simp [some_masked])).trans (if_neg (by simp [hs]))

section
variable (ha : data.all Option.isSome = true) (hc : pois = false)
include ha hc

theorem State.apertureWrite_starts (hm : s.merge = none) : s.apertureWrite p sp off data pois ev =
    (({ s with merge := some ⟨key sp off / 256, [(key sp off % 256 / 64, data.map (fun x => x.getD 0))], [], []⟩ } : State).hostWrite
      p sp off (data.map (fun x => x.getD 0)) 0 false ev).reviewAll := by
  refine (if_pos (by simp [ha, hc])).trans ?_
  rw [State.runOn_start hm]
  rfl

theorem State.apertureWrite_fourth {x y z : Nat × List Byte} {done : List Nat} (hm : s.merge = some ⟨key sp off / 256, [x, y, z], done, []⟩)
    (hx : x.1 ≠ key sp off % 256 / 64) (hy : y.1 ≠ key sp off % 256 / 64) (hz : z.1 ≠ key sp off % 256 / 64)
    (hd : ∀ i ∈ done, i = x.1 ∨ i = y.1 ∨ i = z.1) :
    let r : HostRun := ⟨key sp off / 256, [x, y, z, (key sp off % 256 / 64, data.map (fun x => x.getD 0))], done, []⟩
    s.apertureWrite p sp off data pois ev =
      ((({ s with merge := some r } : State).merged (key sp off / 256)).hostWrite p sp (off / 256 * 256) r.data 0 false ev).reviewAll := by
  refine (if_pos (by simp [ha, hc])).trans ?_
  rw [State.runOn_fourth hx hy hz hd hm]
  rfl

end

end

/-- Settles O17, by the lemma about each kind of access and about each answer. -/
theorem windowAccessesAndDiscovery : Obligations.WindowAccessesAndDiscovery := by
  refine fun s w ev => ⟨fun hu hp => ⟨fun ht => execCxlMemRead_outside hu hp ht ev, fun p sp off ro ht => execCxlMemRead_inside hu hp ht ev⟩,
    fun data pois hu hp hl => ⟨fun ht => execCxlMemWrite_outside hu hp hl ht pois ev, fun p sp off ht => execCxlMemWrite_inside hu hp hl ht pois ev,
      fun p sp off ht => ?_⟩,
    fun hr => ⟨_, execIdentifyMemoryDevice_reached hr, ⟨_, rfl⟩, rfl, rfl, rfl⟩,
    fun hr => ⟨_, execGetSupportedLogs_reached hr, ⟨_, rfl⟩, rfl, rfl, rfl⟩,
    fun hr => (execDiscovery_protocols hr).1, fun hr => (execDiscovery_protocols hr).2⟩
  have written := execCxlMemWrite_inside hu hp hl ht pois ev
  have counted := State.count_merge s hifU 7 1
  exact ⟨fun hs h => written.trans (congrArg _ (State.apertureWrite_alone p ev hs h)),
    fun hs => written.trans (congrArg _ (State.apertureWrite_masked p ev hs hl)),
    fun ha hc hm => written.trans (congrArg _ (State.apertureWrite_starts p ev ha hc (counted.trans hm))),
    fun x y z done ha hc hm hx hy hz hd =>
      written.trans (congrArg _ (State.apertureWrite_fourth p ev ha hc (counted.trans hm) hx hy hz hd))⟩

end Sys2Proof.Machine
end

section
/-!
SUPPORT. The SPDM responder: negotiation, certificates, measurements, sessions, large responses and the keys of IDE streams (R373, R490 to R492,
R556, R566).
-/
namespace Sys2Proof.Machine

/-! ## Stages of a transport (R491) -/

variable {s : State} {via : Src}

theorem State.negotiated_served {n : Nat} (hv : s.heard via = true) (h : n ≤ s.spdmStage via) (k : State → State) :
    s.negotiated via n k = k s :=
  (if_neg (by simp [hv])).trans (if_neg (Nat.not_lt.mpr h))

theorem State.negotiated_early {n : Nat} (hv : s.heard via = true) (h : s.spdmStage via < n) (k : State → State) :
    s.negotiated via n k = s.respond [0x7F, 4] :=
  (if_neg (by simp [hv])).trans (if_pos h)

/-- The answer of a request that needs a stage, from the state that it comes in. -/
theorem State.negotiated_next {n : Nat} (hv : s.heard via = true) (h : n ≤ s.spdmStage via) {k : State → State} {t : State} (hk : k s = t) :
    Host.Outcome.next (s.negotiated via n k) = (.next t : Host.Outcome State Fault Refusal) :=
  congrArg _ ((State.negotiated_served hv h k).trans hk)

theorem State.toStage_spdmStage (s : State) (via : Src) (n : Nat) : (s.toStage via n).spdmStage via = n := Sparse.get_set_same _ _ _ _

/-- A request that comes before GET_VERSION, and that needs a stage, is answered UnexpectedRequest. -/
theorem exec_unexpected (hv : s.heard via = true) (h : s.spdmStage via = 0) (slot size offset len : Nat) (nonce : List Byte) :
    ∀ c ∈ [Instr.getCapabilities via size, .negotiateAlgorithms via 0x100 4 0x20 2, .getDigests via, .getCertificate via slot offset len,
      .challenge via slot nonce, .getMeasurements via slot true nonce, .keyExchange via], exec c s = .next (s.respond [0x7F, 4]) := by
  have early (n : Nat) (k : State → State) : Host.Outcome.next (s.negotiated via (n + 1) k) =
      (.next (s.respond [0x7F, 4]) : Host.Outcome State Fault Refusal) := congrArg _ (State.negotiated_early hv (h ▸ n.succ_pos) k)
  simp only [List.forall_mem_cons, List.not_mem_nil, false_implies, implies_true, and_true]
  exact ⟨early 0 _, early 1 _, early 2 _, early 2 _, early 2 _, early 2 _, early 2 _⟩

theorem State.freshBytes_length (s : State) (n : Nat) : (s.freshBytes n).1.length = n := freeBytes_length n s.freeIdx

/-! ## Negotiation (R491) -/

theorem execGetVersion_heard (hv : s.heard via = true) : exec (.getVersion via) s = .next ((s.toStage via 1).respond [0x12, 0x13]) :=
  congrArg _ (if_pos hv)

theorem execGetCapabilities_served {size : Nat} (hv : s.heard via = true) (h : 1 ≤ s.spdmStage via) (hs : 42 ≤ size) :
    exec (.getCapabilities via size) s =
      .next (((s.setSpdm (fun x => { x with sizes := Sparse.set (fun _ => 0) x.sizes (viaCode via) size })).toStage via 2).respond [spdmFlags]) :=
  State.negotiated_next hv h (if_neg (Nat.not_lt.mpr hs))

theorem execNegotiateAlgorithms_served (hv : s.heard via = true) (h : 2 ≤ s.spdmStage via) :
    exec (.negotiateAlgorithms via 0x100 4 0x20 2) s = .next ((s.toStage via 3).respond [0x100, 4, 0x20, 2]) :=
  State.negotiated_next hv h (if_pos (by decide))

/-! ## After negotiation: certificates and measurements (R490, R492, R556) -/

section
variable (hv : s.heard via = true) (h : 3 ≤ s.spdmStage via)
include hv h

theorem execGetDigests_served : exec (.getDigests via) s = .next (s.respond (1 :: (sha512 s.chainBytes).map (fun b => b.toNat))) :=
  State.negotiated_next hv h rfl

theorem execGetCertificate_portion {offset : Nat} (ho : offset < s.chainBytes.length) (len : Nat) :
    exec (.getCertificate via 0 offset len) s =
      .next (s.respond (0 :: ((s.chainBytes.drop offset).take len).length ::
        (s.chainBytes.length - offset - ((s.chainBytes.drop offset).take len).length) ::
        ((s.chainBytes.drop offset).take len).map (fun b => b.toNat))) :=
  State.negotiated_next hv h (if_neg (by omega))

theorem execGetCertificate_refused {slot offset : Nat} (hr : slot ≠ 0 ∨ s.chainBytes.length ≤ offset) (len : Nat) :
    exec (.getCertificate via slot offset len) s = .next (s.respond [0x7F, 1]) :=
  State.negotiated_next hv h (if_pos hr)

theorem execChallenge_signed (nonce : List Byte) : exec (.challenge via 0 nonce) s =
    .next ((s.freshBytes 132).2.respond (s.slotCerts.length :: (sha512 s.chainBytes ++ (s.freshBytes 132).1).map (fun b => b.toNat))) :=
  State.negotiated_next hv h (if_neg (by simp))

theorem execChallenge_refused {slot : Nat} (hr : slot ≠ 0) (nonce : List Byte) :
    exec (.challenge via slot nonce) s = .next (s.respond [0x7F, 1]) :=
  State.negotiated_next hv h (if_pos hr)

section
variable {index : Nat} {nonce : List Byte} {m : Nat × List Byte × State} (hm : s.measure via index nonce = some m)
include hm

theorem execGetMeasurements_unsigned : exec (.getMeasurements via index false nonce) s =
    .next (m.2.2.spdmAnswer via (leBytes 1 index ++ leBytes 1 m.1 ++ m.2.1)) := by
  refine congrArg _ ((State.negotiated_served hv h _).trans ?_)
  dsimp only
  rw [hm]
  exact congrArg (m.2.2.spdmAnswer via) (List.append_nil _)

theorem execGetMeasurements_signed : exec (.getMeasurements via index true nonce) s =
    .next ((m.2.2.freshBytes 132).2.spdmAnswer via (leBytes 1 index ++ leBytes 1 m.1 ++ m.2.1 ++ (m.2.2.freshBytes 132).1)) := by
  refine congrArg _ ((State.negotiated_served hv h _).trans ?_)
  dsimp only
  rw [hm]
  rfl

end

theorem execGetMeasurements_none {index : Nat} {nonce : List Byte} (hm : s.measure via index nonce = none) :
    exec (.getMeasurements via index false nonce) s = .next (s.spdmAnswer via (leBytes 1 index)) := by
  refine congrArg _ ((State.negotiated_served hv h _).trans ?_)
  dsimp only
  rw [hm]
  rfl

/-! ## A session begins (R491, R566) -/

theorem execKeyExchange_begins (hn : s.spdm.sessions.length < 4) (ht : s.trngBad = false) : exec (.keyExchange via) s =
    .next (((s.setSpdm (fun x => { x with sessions := x.sessions ++ [⟨s.freeSession, viaCode via, false, 0⟩] })).freshBytes 132).2.respond
      (s.freeSession :: (s.freshBytes 132).1.map (fun b => b.toNat))) :=
  State.negotiated_next hv h ((if_neg (Nat.not_le.mpr hn)).trans (if_neg (ne_true_of_eq_false ht)))

theorem execKeyExchange_notReady (hn : s.spdm.sessions.length < 4) (ht : s.trngBad = true) :
    exec (.keyExchange via) s = .next (s.respond [0x7F, 0x42]) :=
  State.negotiated_next hv h ((if_neg (Nat.not_le.mpr hn)).trans (if_pos ht))

theorem execKeyExchange_limit (hn : 4 ≤ s.spdm.sessions.length) : exec (.keyExchange via) s = .next (s.respond [0x7F, 0x0A]) :=
  State.negotiated_next hv h (if_pos hn)

end

/-! ## In a session (R373, R491) -/

section
variable {id : Nat} (hv : s.heard via = true)
include hv

/-- A request of the handshake, or of the session that it has made, is served where the session has come so far. -/
theorem State.inSession_served {x : SpdmSess} (hx : s.sessionOf via id = some x) {live : Bool} (hl : x.live = live) (k : State → State) :
    s.inSession via id live k = k s := by
  unfold State.inSession
  rw [if_neg (by simp [hv]), hx]
  exact if_pos hl

theorem State.inSession_invalid (hx : s.sessionOf via id = none) (live : Bool) (k : State → State) :
    s.inSession via id live k = s.respond [0x7F, 2] := by
  unfold State.inSession
  rw [if_neg (by simp [hv]), hx]
  rfl

theorem exec_invalidSession (hx : s.sessionOf via id = none) :
    ∀ c ∈ [Instr.finish via id, .spdmHeartbeat via id, .keyUpdate via id, .endSession via id], exec c s = .next (s.respond [0x7F, 2]) := by
  have invalid (live : Bool) (k : State → State) : Host.Outcome.next (s.inSession via id live k) =
      (.next (s.respond [0x7F, 2]) : Host.Outcome State Fault Refusal) := congrArg _ (State.inSession_invalid hv hx live k)
  simp only [List.forall_mem_cons, List.not_mem_nil, false_implies, implies_true, and_true]
  exact ⟨invalid false _, invalid true _, invalid true _, invalid true _⟩

theorem execFinish_establishes {x : SpdmSess} (hx : s.sessionOf via id = some x) (hl : x.live = false) : exec (.finish via id) s =
    .next (((s.setSession id (fun x => { x with live := true })).count secU 1 1).respond [0]) :=
  congrArg _ (State.inSession_served hv hx hl _)

section
variable {x : SpdmSess} (hx : s.sessionOf via id = some x) (hl : x.live = true)
include hx hl

theorem execSpdmHeartbeat_live : exec (.spdmHeartbeat via id) s = .next (s.respond [0]) := congrArg _ (State.inSession_served hv hx hl _)

theorem execKeyUpdate_live : exec (.keyUpdate via id) s =
    .next ((s.setSession id (fun x => { x with updates := x.updates + 1 })).respond [0]) :=
  congrArg _ (State.inSession_served hv hx hl _)

theorem execEndSession_live : exec (.endSession via id) s =
    .next ((s.setSpdm (fun r => { r with sessions := r.sessions.filter (fun x => x.id != id) })).respond [0]) :=
  congrArg _ (State.inSession_served hv hx hl _)

end

theorem execIdeKm_foreign (hp : via ≠ .pf) (stream : Nat) (on : Bool) : exec (.ideKm via id stream on) s = .next (s.respond [0x7F, 7]) :=
  congrArg _ ((if_pos hp).trans (if_pos hv))

end

/-! ## The keys of an IDE stream (R373) -/

theorem bit_setBits_one (v i : Nat) : bit (setBits v i 1 1) i = true := bit_setBits_same v i 1

theorem ne_zero_of_bit {v i : Nat} (h : bit v i = true) : v ≠ 0 := by
  rintro rfl
  simp [bit] at h

theorem execIdeKm_sets {id : Nat} {x : SpdmSess} (hv : s.heard .pf = true) (hx : s.sessionOf .pf id = some x) (hl : x.live = true)
    {stream : Nat} (hs : stream < 2) : exec (.ideKm .pf id stream true) s =
      .next (((s.setSpdm (fun r => { r with ideSet := setBits s.spdm.ideSet stream 1 1 })).put hifU Reg.hif.linkIdeOn 1).respond [0]) := by
  change execIdeKm .pf id stream true s = _
  unfold execIdeKm
  rw [if_neg (not_not.mpr rfl), State.inSession_served hv hx hl, if_neg (Nat.not_le.mpr hs)]
  dsimp only
  rw [if_pos rfl, if_neg (ne_zero_of_bit (bit_setBits_one _ _))]

/-! ## Large responses (R491) -/

/-- The chunk of a large response that is due. -/
theorem execChunkGet_due {id : Nat} (hv : s.heard via = true) (h : 2 ≤ s.spdmStage via) {l : Nat × Nat × List Byte × Nat}
    (hl : s.spdm.large.find? (fun l => l.1 == viaCode via && l.2.1 == id) = some l) :
    ∃ (t : State) (last : Nat), exec (.chunkGet via id l.2.2.2) s = .next (t.respond (id :: l.2.2.2 :: last ::
      (l.2.2.1.take (Sparse.get (fun _ => 0) s.spdm.sizes (viaCode via) - 16)).map (fun b => b.toNat))) := by
  change ∃ (t : State) (last : Nat), execChunkGet via id l.2.2.2 s = _
  unfold execChunkGet
  rw [State.negotiated_served hv h, hl]
  exact ⟨_, _, congrArg _ (if_neg (not_not.mpr rfl))⟩

/-- Settles O18, by the lemma about each request. -/
theorem spdmNegotiatesAndMeasures : Obligations.SpdmNegotiatesAndMeasures := by
  refine ⟨fun s via hv => ⟨execGetVersion_heard hv, fun size h hs => ?_, execNegotiateAlgorithms_served hv,
      fun slot size offset len nonce h => exec_unexpected hv h slot size offset len nonce, execGetDigests_served hv,
      fun offset len h => ⟨fun ho => ?_, fun ho => execGetCertificate_refused hv h (Or.inr ho) len⟩, fun nonce h => ?_,
      fun slot offset len nonce hr h => ⟨execGetCertificate_refused hv h (Or.inl hr) len, execChallenge_refused hv h hr nonce⟩,
      fun index m nonce h hm => ⟨execGetMeasurements_unsigned hv h hm, ?_⟩, fun index nonce h hm => execGetMeasurements_none hv h hm⟩,
    fun s via id hv h => ⟨fun hn ht => ?_, execKeyExchange_notReady hv h, execKeyExchange_limit hv h,
      fun ⟨x, hx, hl⟩ => execFinish_establishes hv hx hl,
      fun ⟨x, hx, hl⟩ => ⟨execSpdmHeartbeat_live hv hx hl, execKeyUpdate_live hv hx hl, ⟨_, execEndSession_live hv hx hl, rfl, rfl, rfl⟩,
        fun hp => ?_⟩,
      exec_invalidSession hv, fun hp stream on => execIdeKm_foreign hv hp stream on, fun l hl => ?_⟩⟩
  · exact ⟨_, execGetCapabilities_served hv h hs, State.toStage_spdmStage _ via 2, rfl, Sparse.get_set_same _ _ _ _, rfl, rfl⟩
  · exact ⟨_, execGetCertificate_portion hv h ho len, rfl, rfl, by simp⟩
  · exact ⟨_, (s.freshBytes 132).1.map (fun b => b.toNat), execChallenge_signed hv h nonce, by simp [State.freshBytes_length], by
      simp [State.respond, State.freshBytes]⟩
  · exact ⟨_, _, execGetMeasurements_signed hv h hm, State.freshBytes_length _ 132, rfl⟩
  · exact ⟨_, execKeyExchange_begins hv h hn ht, rfl, rfl, by simp [State.freshBytes_length], rfl⟩
  · subst hp
    refine ⟨_, execIdeKm_sets hv hx hl (by decide), (State.respond_get ..).trans (State.get_put_same ..), ?_, rfl⟩
    rw [State.respond_spdm, State.put_spdm]
    exact bit_setBits_one _ 0
  · obtain ⟨t, last, due⟩ := execChunkGet_due hv (Nat.le_of_succ_le h) hl
    exact ⟨_, due, rfl, rfl⟩

end Sys2Proof.Machine
end

section
/-!
SUPPORT. What a module event and the updates of a port leave alone (R396, R403 to R408).
-/
namespace Sys2Proof.Machine

/-! ## A module event concerns no partition's record (R396) -/

variable (s : State)

theorem State.drainModule_parts : ∀ (l : List EvtRec) (s : State), (s.drainModule l).parts = s.parts
  | [], _ => rfl
  | e :: rest, s => by
    have written (o : Out) (i : Nat) : (((s.emit o).put hifU Reg.hif.mevtTail i).count hifU 3 1).parts = s.parts :=
      (State.count_onlySignals _ hifU 3 1).parts.trans (State.put_parts ..)
    unfold State.drainModule
    dsimp only
    split
    · rw [State.drainModule_parts rest]
      split
      · exact (State.msix_onlySignals _ none 0).parts.trans (written _ _)
      · exact written _ _
    · rfl

theorem State.platformEvent_parts (e : EvtRec) : (s.platformEvent e).parts = s.parts := by
  have told : (if s.mgt.events.isEmpty then s.emit (.sideband []) else s).parts = s.parts := by split <;> rfl
  unfold State.platformEvent
  dsimp only
  split
  · rfl
  · split
    · exact told
    · exact (State.count_onlySignals _ mgtU 6 1).parts.trans told

theorem State.flushModule_parts : s.flushModule.parts = s.parts := by
  unfold State.flushModule
  dsimp only
  split
  · rw [State.drainModule_parts, State.platformEvent_parts]
    exact State.drainModule_parts _ s
  · exact State.drainModule_parts _ s

theorem State.modEvent_parts (code v0 v1 : Nat) : (s.modEvent code v0 v1).parts = s.parts := by
  unfold State.modEvent
  dsimp only
  split
  · rfl
  · split
    · rw [State.drainModule_parts, State.platformEvent_parts]
      exact State.flushModule_parts s
    · exact (State.irq_onlySignals _ hifU _).parts.trans ((State.count_onlySignals _ hifU 10 1).parts.trans (State.flushModule_parts s))

theorem State.errLog_parts (u : UnitId) (seq code : Nat) : (s.errLog u seq code).parts = s.parts :=
  (State.irq_onlySignals _ u 2).parts.trans (by simp)

theorem State.eventM_parts (u : Option UnitId) (code v0 v1 : Nat) : (s.eventM u code v0 v1).parts = s.parts := by
  have begun : (if s.minimal then s else s.flushModule).parts = s.parts := by
    split
    · rfl
    · exact State.flushModule_parts s
  have told := (State.modEvent_parts _ code v0 v1).trans begun
  cases u with
  | none => exact told
  | some u => exact (State.errLog_parts _ u _ code).trans told

theorem State.linkEvent_reports (k code old new reason dur : Nat) : s.Reports (s.linkEvent k code old new reason dur) := by
  unfold State.linkEvent
  exact State.eventM_reports ..

theorem State.linkEvent_parts (k code old new reason dur : Nat) : (s.linkEvent k code old new reason dur).parts = s.parts :=
  State.eventM_parts s _ code _ _

/-! ## The record of a port's link -/

theorem State.Reports.net {s t : State} (h : s.Reports t) : t.net = s.net := by rw [h.rest]; rfl

theorem State.Reports.units {s t : State} (h : s.Reports t) : t.units = s.units := by rw [h.rest]; rfl

theorem State.OnlySignals.net {s t : State} (h : s.OnlySignals t) : t.net = s.net := by rw [h]; rfl

/-- A port's record is part of what the routers and links hold. -/
theorem State.link_of_net {s t : State} (h : t.net = s.net) (k : Nat) : t.link k = s.link k := by
  rw [State.link, State.link, h]

/-- A change of what the routers hold beside the links. -/
theorem State.setNet_link {f : NetRec → NetRec} (h : (f s.net).links = s.net.links) (k : Nat) : (s.setNet f).link k = s.link k := by
  rw [State.link, State.link, State.setNet_net, h]

@[simp] theorem State.setLink_link (k : Nat) (f : LinkRec → LinkRec) : (s.setLink k f).link k = f (s.link k) := Sparse.get_set_same _ k _ _

@[simp] theorem State.setLink_linkState (k j : Nat) (f : LinkRec → LinkRec) : (s.setLink k f).linkState j = s.linkState j := State.setNet_get ..

theorem State.count_link (u : UnitId) (i n k : Nat) : (s.count u i n).link k = s.link k := State.link_of_net (State.count_onlySignals s u i n).net k

/-! ## The state of a port's link (R408) -/

/-- A write beside LINK.STATE. -/
theorem State.put_linkState {f : Field} (ha : fieldsApart f Reg.bvl.linkState = true) (hf : fieldWithin f = true) (w : UnitId) (v k : Nat) :
    (s.put w f v).linkState k = s.linkState k := State.get_put_apart s w (bvlU k) f _ v ha hf (by decide)

/-- The peer's state stands on a router's page. -/
theorem State.put_peerPstate_linkState (hk : k < 24) (w : UnitId) (v j : Nat) :
    (s.put w (Reg.bvf.peerPstate.at k) v).linkState j = s.linkState j := by
  have places : ∀ i < 24, fieldsApart (Reg.bvf.peerPstate.at i) Reg.bvl.linkState = true ∧ fieldWithin (Reg.bvf.peerPstate.at i) = true := by decide
  exact State.put_linkState s (places k hk).1 (places k hk).2 w v j

theorem State.setLinkState_linkState (k : Nat) {st : Nat} (h : st < 8) : (s.setLinkState k st).linkState k = st :=
  (State.get_put_same ..).trans (Nat.mod_eq_of_lt h)

section
variable {k : Nat} (hk : k < 24)
include hk

theorem State.irq_linkState (u : UnitId) (m : Nat) : (s.irq u m).linkState k = s.linkState k :=
  State.irq_get (decide_eq_true hk) (by decide) s u m

theorem State.count_linkState (u : UnitId) (i n : Nat) : (s.count u i n).linkState k = s.linkState k :=
  State.count_get (decide_eq_true hk) (by decide) s u i n

/-- A LINK record leaves the state that it tells of. -/
theorem State.linkEvent_linkState (j code old new reason dur : Nat) : (s.linkEvent j code old new reason dur).linkState k = s.linkState k :=
  (State.linkEvent_reports s j code old new reason dur).get (w := bvlU k) (decide_eq_true hk) (by decide)

end

/-- An active port carries blocks. -/
theorem State.linkUp_of_active {k : Nat} (h : s.linkState k = lkActive) : s.linkUp k = true := by simp [State.linkUp, h]

/-- A port that is not RECOVERING has no recovery to end. -/
theorem State.endRecovering_active {k : Nat} (h : s.linkState k = lkActive) : s.endRecovering k = s := if_neg (by simp [h])

/-- A command that names a port of the module passes its check of the port. -/
theorem next_of_port {k : Nat} (hk : k < 24) {s t u : State} (h : t = u) :
    (if 24 ≤ k then .next s else .next t : Host.Outcome State Fault Refusal) = .next u := by
  rw [if_neg (Nat.not_le.mpr hk), h]

end Sys2Proof.Machine
end

section
/-!
SUPPORT. Ports train, retrain, go DOWN and try again (R408 to R412, R417).
-/
namespace Sys2Proof.Machine

/-! ## A port whose training ended well (R408) -/

/-- A port whose training ended well, before the record of it: ACTIVE, and its link's record is new but for MARGINAL. -/
def State.trained (s : State) (k : Nat) : State :=
  let s2 := ((s.setLinkState k lkActive).setLink k (fun _ => { marginal := (s.link k).marginal })).put (bvlU k) Reg.bvl.retryConsec 0
  let s3 := (s2.put (bvfU 0) (Reg.bvf.peerPstate.at k) 0).put (bvlU k) Reg.bvl.linkDownReason 0
  (s3.setNet (fun n => { n with newPorts := k :: n.newPorts.filter (fun x => x != k) })).irq (bvlU k) (2 ^ 20)

theorem State.trained_link (s : State) (k : Nat) : (s.trained k).link k = { marginal := (s.link k).marginal } := by
  unfold State.trained
  extract_lets s2 s3
  have begun : s2.link k = { marginal := (s.link k).marginal } := (State.link_of_net (State.put_net ..) k).trans (State.setLink_link ..)
  calc _ = (s3.setNet _).link k := State.link_of_net (State.irq_onlySignals _ _ _).net k
    _ = s3.link k := State.setNet_link _ rfl k
    _ = s2.link k := State.link_of_net ((State.put_net ..).trans (State.put_net ..)) k
    _ = _ := begun

theorem State.mapLanes_rest (s : State) (k tx rx : Nat) :
    (s.mapLanes k tx rx).mem = s.mem ∧ (s.mapLanes k tx rx).parts = s.parts ∧ (s.mapLanes k tx rx).units = s.units := by
  simp [State.mapLanes]

theorem State.trained_rest (s : State) (k : Nat) :
    (s.trained k).mem = s.mem ∧ (s.trained k).parts = s.parts ∧ (s.trained k).units = s.units := by
  unfold State.trained
  extract_lets s2 s3
  have raised := State.irq_onlySignals (s3.setNet (fun n => { n with newPorts := k :: n.newPorts.filter (fun x => x != k) })) (bvlU k) (2 ^ 20)
  refine ⟨raised.mem.trans ?_, raised.parts.trans ?_, raised.units.trans ?_⟩ <;> simp [s3, s2, State.setLink, State.setLinkState]

/-! ## The end of a retrain (R409, R410) -/

/-- The lanes in use and the widths of a port's directions are the same in both states. -/
def State.SameLanes (s m : State) (k : Nat) : Prop :=
  (m.get (bvlU k) Reg.bvl.linkTxWidth = s.get (bvlU k) Reg.bvl.linkTxWidth ∧ m.get (bvlU k) Reg.bvl.linkRxWidth = s.get (bvlU k) Reg.bvl.linkRxWidth) ∧
    m.get (bvlU k) Reg.bvl.lanesRxActive = s.get (bvlU k) Reg.bvl.lanesRxActive ∧
    activeMask (m.get (bvlU k) Reg.bvl.lanesTxFailed) = activeMask (s.get (bvlU k) Reg.bvl.lanesTxFailed)

/-- A port whose retrain is past its MAP phase with lanes enough: it takes the peer's NEXT_SEQ. -/
def State.retrainMapped (m : State) (k next : Nat) : State :=
  (m.setLink k (fun l => { l with retraining := false, retrained := true })).takeAck k next

/-- What follows: unless another retrain has started, the unacknowledged blocks are sent again, and without a retry under way recovery ends. -/
def State.settleRetrain (a : State) (k : Nat) : State :=
  if (a.link k).retraining then a
  else
    let t := if (a.link k).retry.isEmpty then a else a.replayAll k
    if t.get (bvlU k) Reg.bvl.retryConsec = 0 then t.endRecovering k else t

theorem State.settleRetrain_clear {a : State} {k : Nat} (hd : (a.link k).retraining = false) (he : (a.link k).retry = [])
    (hc : a.get (bvlU k) Reg.bvl.retryConsec = 0) : a.settleRetrain k = a.endRecovering k := by
  simp [State.settleRetrain, hd, he, hc]

section
variable {s : State} {k : Nat} (hk : k < 24)
include hk

/-! ## Training (R408, R417) -/

theorem State.trained_linkState (s : State) : (s.trained k).linkState k = lkActive := by
  unfold State.trained
  extract_lets s2 s3
  calc _ = s3.linkState k := (State.irq_linkState _ hk _ _).trans (State.setNet_get ..)
    _ = s2.linkState k := (State.put_linkState _ (by decide) (by decide) _ _ k).trans (State.put_peerPstate_linkState _ hk _ _ k)
    _ = (s.setLinkState k lkActive).linkState k := (State.put_linkState _ (by decide) (by decide) _ _ k).trans (State.setLink_linkState ..)
    _ = lkActive := State.setLinkState_linkState s k (by decide)

theorem execPeerDetect_detect (h : s.linkState k = lkDetect) (hn : s.node / 16 ≤ s.get (bvfU 0) Reg.bvf.topoSuitsM1) :
    exec (.peerDetect k) s =
      .next (((s.setLinkState k lkTraining).put (bvlU k) Reg.bvl.lanesTxFailed 0).put (bvlU k) Reg.bvl.lanesRxFailed 0) :=
  next_of_port hk (if_pos ⟨h, hn⟩)

theorem execTrainingComplete_wide (h : s.linkState k = lkTraining) {tx rx : Nat} (hw : (s.mapLanes k tx rx).wide k = true) :
    exec (.trainingComplete k tx rx true) s = .next (((s.mapLanes k tx rx).trained k).linkEvent k 0x6005 lkTraining lkActive 0 0) :=
  next_of_port hk ((if_pos h).trans (if_pos (by simp [hw])))

theorem execTrainingComplete_fails (h : s.linkState k = lkTraining) {tx rx : Nat} {locked : Bool}
    (hw : locked = false ∨ (s.mapLanes k tx rx).wide k = false) :
    exec (.trainingComplete k tx rx locked) s = .next ((s.mapLanes k tx rx).goDown k 5) :=
  next_of_port hk ((if_pos h).trans (if_neg (by rcases hw with hw | hw <;> simp [hw])))

/-- What a training that ended well leaves. -/
theorem execTrainingComplete_trains (h : s.linkState k = lkTraining) {tx rx : Nat} (hw : (s.mapLanes k tx rx).wide k = true) :
    ∃ t, exec (.trainingComplete k tx rx true) s = .next t ∧ t.linkState k = lkActive ∧ (t.link k).rxNext = 0 ∧
      (t.link k).txNext = 0 ∧ (t.link k).retry = [] ∧ t.mem = s.mem ∧ t.parts = s.parts ∧ t.units = s.units := by
  let m := s.mapLanes k tx rx
  obtain ⟨mem, parts, units⟩ := State.mapLanes_rest s k tx rx
  obtain ⟨mem', parts', units'⟩ := State.trained_rest m k
  have told : (m.trained k).Reports ((m.trained k).linkEvent k 0x6005 lkTraining lkActive 0 0) :=
    State.linkEvent_reports ..
  have link := (State.link_of_net told.net k).trans (State.trained_link m k)
  exact ⟨_, execTrainingComplete_wide hk h hw, (State.linkEvent_linkState _ hk ..).trans (State.trained_linkState hk m),
    congrArg LinkRec.rxNext link, congrArg LinkRec.txNext link, congrArg LinkRec.retry link,
    told.mem.trans (mem'.trans mem), (State.linkEvent_parts ..).trans (parts'.trans parts), told.units.trans (units'.trans units)⟩

/-! ## Retrains (R409) -/

theorem execRetrainComplete_narrow (h : s.linkUp k = true) (hr : (s.link k).retraining = true) {tx rx : Nat}
    (hw : (s.mapLanes k tx rx).wide k = false) (next : Nat) :
    exec (.retrainComplete k tx rx next) s = .next ((s.mapLanes k tx rx).goDown k 5) :=
  next_of_port hk ((if_pos (by simp [h, hr])).trans (if_pos (by simp [hw])))

/-- A retrain that keeps the lanes of both directions. -/
theorem execRetrainComplete_sameLanes (h : s.linkUp k = true) (hr : (s.link k).retraining = true) {tx rx : Nat}
    (hw : (s.mapLanes k tx rx).wide k = true) (hl : s.SameLanes (s.mapLanes k tx rx) k) (next : Nat) :
    exec (.retrainComplete k tx rx next) s = .next (((s.mapLanes k tx rx).retrainMapped k next).settleRetrain k) := by
  obtain ⟨⟨sameTx, sameRx⟩, sameActive, sameMask⟩ := hl
  refine next_of_port hk ((if_pos (by simp [h, hr])).trans ((if_neg (by simp [hw])).trans ?_))
  simp only [sameTx, sameRx, sameActive, sameMask, Nat.lt_irrefl, decide_false, bne_self_eq_false, Bool.or_self, Bool.false_eq_true, if_false]
  rfl

/-! ## Triggers of a retrain, and of DOWN (R409, R411) -/

section
variable (h : s.linkUp k = true)
include h

theorem execRetrain_acknowledges {next : Nat} (ha : (s.link k).ackOk next = true) :
    exec (.retrain k next) s = .next ((s.takeAck k next).startRetrain k none) :=
  next_of_port hk ((if_pos h).trans (congrArg (State.startRetrain · k none) (if_pos ha)))

theorem execGoodbye_up : exec (.goodbye k) s = .next (s.goDown k 2) := next_of_port hk (if_pos h)

theorem execRetryLimit_reached (hl : s.get (bvlU k) Reg.bvl.retryLimit ≤ s.get (bvlU k) Reg.bvl.retryConsec) :
    exec (.retryLimit k) s = .next (s.startRetrain k (some 1)) :=
  next_of_port hk (if_pos (by simp [h, hl]))

theorem execLossOfSignal_few {mask : Nat} (hm : (healthyLanes mask).length < 4) : exec (.lossOfSignal k mask) s = .next (s.goDown k 1) :=
  next_of_port hk ((if_neg (by simp [h])).trans (if_pos hm))

theorem execLossOfSignal_active {mask : Nat} (hm : 4 ≤ (healthyLanes mask).length) (ha : s.get (bvlU k) Reg.bvl.lanesRxActive &&& mask ≠ 0) :
    exec (.lossOfSignal k mask) s = .next (s.startRetrain k (some 2)) :=
  next_of_port hk ((if_neg (by simp [h])).trans ((if_neg (Nat.not_lt.mpr hm)).trans (if_pos ha)))

theorem execSerSwap_exceeded {lane rate : Nat} (h0 : s.get (bvlU k) Reg.bvl.serSwap ≠ 0) (hl : s.get (bvlU k) Reg.bvl.serSwap < rate)
    (ha : bit (s.get (bvlU k) Reg.bvl.lanesRxActive) lane = true)
    (hs : (healthyLanes (s.get (bvlU k) Reg.bvl.lanesRxFailed)).any (fun i => !bit (s.get (bvlU k) Reg.bvl.lanesRxActive) i) = true) :
    exec (.serSwap k lane rate) s = .next (s.startRetrain k (some 3)) :=
  next_of_port hk (if_pos (by simp only [h, h0, hl, ha, hs, ne_eq, not_false_eq_true, decide_true, Bool.and_self]))

end

theorem execCmdRetrain_host {src : Src} (hv : notVf src = true) : exec (.cmdRetrain k src) s = .next (s.startRetrain k (some 4)) :=
  next_of_port hk (if_pos hv)

theorem execRecoverMax_recovering (h : s.linkState k = lkRecovering) : exec (.recoverMax k) s = .next (s.goDown k 4) :=
  next_of_port hk (if_pos h)

theorem execDownRetry_autoUp (h : s.linkState k = lkDown) (ho : s.flag (bvlU k) Reg.bvl.optAutoUp = true) (hu : s.ustate (bvlU k) = stRunning) :
    exec (.downRetry k) s = .next (s.setLinkState k lkDetect) :=
  next_of_port hk (if_pos ⟨h, ho, hu⟩)

end

/-- Settles O36, by the lemma about each command. -/
theorem linksTrainAndFail : Obligations.LinksTrainAndFail := by
  intro s k hk
  refine ⟨execPeerDetect_detect hk,
    fun tx rx h => ⟨execTrainingComplete_trains hk h, fun locked => execTrainingComplete_fails hk h⟩,
    fun tx rx next h hr => ⟨fun hw => execRetrainComplete_narrow hk h hr hw next,
      fun hw htx hrx ha hf hd he hc => (execRetrainComplete_sameLanes hk h hr hw ⟨⟨htx, hrx⟩, ha, hf⟩ next).trans
        (congrArg _ (State.settleRetrain_clear hd he hc))⟩,
    fun h => ⟨fun next => execRetrain_acknowledges hk h, execGoodbye_up hk h, execRetryLimit_reached hk h, fun mask => execLossOfSignal_few hk h,
      fun mask => execLossOfSignal_active hk h, fun lane rate => execSerSwap_exceeded hk h⟩,
    fun src => execCmdRetrain_host hk, execRecoverMax_recovering hk, execDownRetry_autoUp hk⟩

end Sys2Proof.Machine
end

section
/-!
SUPPORT. Data blocks, acknowledgements and retries of a port, and its injections (R402 to R406, R414).
-/
namespace Sys2Proof.Machine

/-! ## A data block that is passed to the router (R405) -/

/-- A packet whose last flit came on port k goes, one hop further, into the router's input buffers. -/
def State.bufferPacket (k : Nat) (s : State) (p : Pkt) : State :=
  let q := { p with hops := p.hops + 1 }
  let fk := k * 8 + q.tc
  s.setNet (fun n =>
    { n with
      inq := n.inq ++ [(k, q)], flitsRx := bump n.flitsRx fk (q.len + 1),
      deepest :=
        let key := fk * 4 + q.hops - 1
        let depth := ((n.inq ++ [(k, q)]).filter (fun e => e.1 == k && e.2.tc == q.tc && e.2.hops == q.hops)).foldl (fun a e => a + e.2.len + 1) 0
        Sparse.set (fun _ => 0) n.deepest key (max depth (Sparse.get (fun _ => 0) n.deepest key)) })

/-- The packets of a block stand last in the input buffers; beside them only the tallies of the buffers change. -/
theorem State.bufferPackets (k : Nat) : ∀ (pkts : List Pkt) (s : State), ∃ rx deep, pkts.foldl (State.bufferPacket k) s =
    s.setNet (fun n => { n with inq := n.inq ++ pkts.map (fun p => (k, { p with hops := p.hops + 1 })), flitsRx := rx, deepest := deep })
  | [], s => ⟨s.net.flitsRx, s.net.deepest, by simp [State.setNet]⟩
  | p :: pkts, s => by
    obtain ⟨rx, deep, rest⟩ := State.bufferPackets k pkts (s.bufferPacket k p)
    exact ⟨rx, deep, by rw [List.foldl_cons, rest]; simp [State.bufferPacket, State.setNet]⟩

/-- The receiver's record once it has accepted a block. -/
def LinkRec.accept (l : LinkRec) : LinkRec := { l with rxNext := (l.rxNext + 1) % 65536, unacked := l.unacked + 1 }

/-- A port that has accepted the block that it expected. -/
def State.acceptBlock (s : State) (k : Nat) (pkts : List Pkt) : State :=
  (pkts.foldl (State.bufferPacket k) ((s.setLink k LinkRec.accept).count (bvlU k) 1 1)).put (bvlU k) Reg.bvl.retryConsec 0

/-- The acknowledgement that is due after every so many blocks (R403). -/
def State.ackBlocks (s : State) (k : Nat) : State :=
  if s.get (bvlU k) Reg.bvl.ackEvery ≤ (s.link k).unacked then s.sendControl k .idle [] else s

section
variable (s : State) (k : Nat) (pkts : List Pkt)

/-- What an accepted block changes beside registers, counts and what leaves the block. -/
theorem State.acceptBlock_rest : (s.acceptBlock k pkts).net.inq = s.net.inq ++ pkts.map (fun p => (k, { p with hops := p.hops + 1 })) ∧
    ((s.acceptBlock k pkts).link k).rxNext = ((s.link k).rxNext + 1) % 65536 ∧ (s.acceptBlock k pkts).mem = s.mem ∧
    (s.acceptBlock k pkts).parts = s.parts := by
  unfold State.acceptBlock
  have counted := State.count_onlySignals (s.setLink k LinkRec.accept) (bvlU k) 1 1
  obtain ⟨rx, deep, held⟩ := State.bufferPackets k pkts ((s.setLink k LinkRec.accept).count (bvlU k) 1 1)
  rw [held]
  refine ⟨?_, ?_, ?_, ?_⟩
  · rw [State.put_net, State.setNet_net, counted.net]; rfl
  · rw [State.link_of_net (State.put_net ..), State.setNet_link (h := by rfl), State.link_of_net counted.net, State.setLink_link]
    rfl
  · rw [State.put_mem, State.setNet_mem, counted.mem]; rfl
  · rw [State.put_parts, State.setNet_parts, counted.parts]; rfl

theorem State.acceptBlock_linkState (hk : k < 24) : (s.acceptBlock k pkts).linkState k = s.linkState k := by
  unfold State.acceptBlock
  rw [State.put_linkState _ (by decide) (by decide)]
  obtain ⟨rx, deep, held⟩ := State.bufferPackets k pkts ((s.setLink k LinkRec.accept).count (bvlU k) 1 1)
  rw [held]
  exact (State.setNet_get ..).trans ((State.count_linkState _ hk _ _ _).trans (State.setLink_linkState ..))

/-- A control block leaves the buffers, the receiver's NEXT_SEQ, memory and the partitions' records. -/
theorem State.sendControl_rest (c : Ctl) (args : List Nat) : (s.sendControl k c args).net.inq = s.net.inq ∧
    ((s.sendControl k c args).link k).rxNext = (s.link k).rxNext ∧ (s.sendControl k c args).mem = s.mem ∧
    (s.sendControl k c args).parts = s.parts := by
  unfold State.sendControl
  have counted := State.count_onlySignals ((s.emit (.block k c ((s.link k).rxNext :: args))).setLink k (fun l => { l with unacked := 0 })) (bvlU k) 2 1
  refine ⟨?_, ?_, counted.mem, counted.parts⟩
  · rw [counted.net]
    rfl
  · rw [State.link_of_net counted.net, State.setLink_link]
    rfl

theorem State.ackBlocks_rest : (s.ackBlocks k).net.inq = s.net.inq ∧ ((s.ackBlocks k).link k).rxNext = (s.link k).rxNext ∧
    (s.ackBlocks k).mem = s.mem ∧ (s.ackBlocks k).parts = s.parts := by
  unfold State.ackBlocks
  split
  · exact State.sendControl_rest s k .idle []
  · exact ⟨rfl, rfl, rfl, rfl⟩

/-- Codewords without a wrong symbol leave no count. -/
theorem State.corrected_nil : s.corrected k [] = s := by
  unfold State.corrected
  exact if_pos rfl

end

section
variable {s : State} {k : Nat} (hk : k < 24)
include hk

/-- An ACTIVE port takes the block that it expects. -/
theorem execDataBlock_expected (h : s.linkState k = lkActive) (hd : (s.link k).discarding = false) (pkts : List Pkt) :
    exec (.dataBlock k (s.link k).rxNext pkts []) s = .next ((s.acceptBlock k pkts).ackBlocks k) := by
  have active : (s.acceptBlock k pkts).linkState k = lkActive := (State.acceptBlock_linkState s k pkts hk).trans h
  have stays : (if ((s.acceptBlock k pkts).link k).retraining then s.acceptBlock k pkts else (s.acceptBlock k pkts).endRecovering k) =
      s.acceptBlock k pkts := by
    rw [State.endRecovering_active _ active, ite_self]
  refine next_of_port hk ((if_neg (by simp [State.linkUp_of_active s h])).trans ((if_neg (by simp)).trans ?_))
  rw [State.corrected_nil]
  exact (if_neg (by simp [hd])).trans (congrArg (State.ackBlocks · k) stays)

theorem execDataBlock_accepts (h : s.linkState k = lkActive) (hd : (s.link k).discarding = false) (pkts : List Pkt) :
    ∃ t, exec (.dataBlock k (s.link k).rxNext pkts []) s = .next t ∧ (t.link k).rxNext = ((s.link k).rxNext + 1) % 65536 ∧
      t.net.inq = s.net.inq ++ pkts.map (fun p => (k, { p with hops := p.hops + 1 })) ∧ t.mem = s.mem ∧ t.parts = s.parts := by
  obtain ⟨inq, seq, mem, parts⟩ := State.acceptBlock_rest s k pkts
  obtain ⟨inq', seq', mem', parts'⟩ := State.ackBlocks_rest (s.acceptBlock k pkts) k
  exact ⟨_, execDataBlock_expected hk h hd pkts, seq'.trans seq, inq'.trans inq, mem'.trans mem, parts'.trans parts⟩

/-! ## Blocks and timers of a port that carries blocks -/

section
variable (h : s.linkUp k = true)
include h

theorem execDataBlock_unexpected {seq : Nat} (pkts : List Pkt) (hs : seq ≠ (s.link k).rxNext ∨ (s.link k).discarding = true) :
    exec (.dataBlock k seq pkts []) s = .next s := by
  refine next_of_port hk ((if_neg (by simp [h])).trans ((if_neg (by simp)).trans ?_))
  rw [State.corrected_nil]
  exact if_pos (by rcases hs with hs | hs <;> simp [hs])

theorem execDataBlock_uncorrectable (seq : Nat) (pkts : List Pkt) {fixed : List (List Nat)}
    (hf : fixed.any (fun c => decide (16 < c.length)) = true) : exec (.dataBlock k seq pkts fixed) s =
      .next ((s.corrected k (fixed.filter (fun c => decide (c.length ≤ 16)))).takeBadSlot k (fixed.filter (fun c => decide (16 < c.length))).length) :=
  next_of_port hk ((if_neg (by simp [h])).trans (if_pos hf))

/-- A bad slot is counted as a CRC failure or by its uncorrectable codewords, and asked for again. -/
theorem execBadSlot_asks (hd : (s.link k).discarding = false) (n : Nat) :
    exec (.badSlot k n) s = .next ((if n = 0 then s.count (bvlU k) 5 1 else s.count (bvlU k) 4 n).sendNak k) := by
  have same : (if n = 0 then s.count (bvlU k) 5 1 else s.count (bvlU k) 4 n).link k = s.link k := by
    split <;> exact State.count_link s _ _ _ k
  exact next_of_port hk ((if_neg (by simp [h])).trans (if_neg (by simp [same, hd])))

theorem execNakRepeatTimeout_awaiting (hd : (s.link k).discarding = true) (hr : (s.link k).retraining = false) :
    exec (.nakRepeatTimeout k) s = .next (s.sendNak k) := next_of_port hk (if_pos (by simp [h, hd, hr]))

theorem execIdle_acknowledges (next : Nat) : exec (.idle k next) s = .next (s.takeAck k next) := next_of_port hk (if_pos h)

theorem execNak_replays {next : Nat} (ha : (s.link k).ackOk next = true) : exec (.nak k next) s = .next ((s.takeAck k next).replayAll k) :=
  next_of_port hk ((if_neg (by simp [h])).trans (if_pos ha))

theorem execNak_protocolError {next : Nat} (ha : (s.link k).ackOk next = false) : exec (.nak k next) s = .next (s.startRetrain k (some 4)) :=
  next_of_port hk ((if_neg (by simp [h])).trans (if_neg (by simp [ha])))

theorem execReplayBlock_resumes {next seq : Nat} (hs : seq = ((s.takeAck k next).link k).rxNext) :
    exec (.replayBlock k next seq) s = .next ((s.takeAck k next).setLink k (fun l => { l with discarding := false })) :=
  next_of_port hk ((if_neg (by simp [h])).trans (if_pos hs))

theorem execAckTimeout_unacknowledged (hn : (s.link k).retry ≠ []) (hr : (s.link k).retraining = false) :
    exec (.ackTimeout k) s = .next (s.replayAll k) := next_of_port hk (if_pos (by simp [h, hn, hr]))

end

/-! ## Injections (R414) -/

section
variable {src : Src} (hv : notVf src = true) (he : s.expert (bvlU k) = true)
include hv he

theorem execInjectLaneFail_armed (ht : s.testOrRecovery = true) (mask : Nat) :
    exec (.injectLaneFail k src mask) s = .next (s.put (bvlU k) Reg.bvl.injectLaneFail mask) := next_of_port hk (if_pos (by simp [hv, he, ht]))

theorem execInjectBadSlot_armed : exec (.injectBadSlot k src) s = .next (s.put (bvlU k) Reg.bvl.injectBadSlot 1) :=
  next_of_port hk (if_pos (by simp [hv, he]))

end

theorem execInjectLaneFail_ignored (ht : s.testOrRecovery = false) (src : Src) (mask : Nat) : exec (.injectLaneFail k src mask) s = .next s :=
  next_of_port hk (if_neg (by simp [ht]))

end

/-- Settles O37, by the lemma about each command. -/
theorem linksCarryBlocks : Obligations.LinksCarryBlocks := by
  intro s k hk
  refine ⟨fun h hd _ => execDataBlock_accepts hk h hd, fun h seq pkts => execDataBlock_unexpected hk h pkts,
    fun h seq pkts fixed => execDataBlock_uncorrectable hk h seq pkts,
    fun h => ⟨fun hd => execBadSlot_asks hk h hd 0, fun n hn hd => ?_, execNakRepeatTimeout_awaiting hk h, execIdle_acknowledges hk h,
      fun next => execNak_replays hk h, fun next => execNak_protocolError hk h, fun next seq => execReplayBlock_resumes hk h,
      execAckTimeout_unacknowledged hk h⟩,
    fun src mask hv he => ⟨fun ht => execInjectLaneFail_armed hk hv he ht mask, fun ht => execInjectLaneFail_ignored hk ht src mask,
      execInjectBadSlot_armed hk hv he⟩⟩
  rw [execBadSlot_asks hk h hd n, if_neg (Nat.pos_iff_ne_zero.mp hn)]

end Sys2Proof.Machine
end

section
/-!
SUPPORT. What a step is, and what every step keeps.
-/
namespace Sys2Proof.Machine

/-- Settles O1, by the shape of a step: one core that runs is the whole round of the cores. -/
theorem stepRunsTheFrontCommand : Obligations.StepRunsTheFrontCommand := by
  refine ⟨fun c r s => step_cons _ c r rfl, fun s h => ⟨step_idle s h, fun u hu => ?_⟩⟩
  have round : s.tick = s.coreStep u := by
    unfold State.tick
    rw [hu]
    rfl
  rw [step_empty s h, round]

/-- Settles O2: a command at the front keeps the forms of the state without it, and so does a round of the cores. -/
theorem everyStepKeepsCanonicalForm : Obligations.EveryStepKeepsCanonicalForm := by
  intro s t hi ht
  cases hq : s.pending with
  | nil =>
    obtain rfl : s.tick = t := Host.Outcome.next.inj ((step_empty s hq).symm.trans ht)
    exact (tick_keeps s).inv hi
  | cons c r =>
    rw [step_cons s c r hq] at ht
    exact (exec_keeps c _ t ht).inv ⟨hi.regs, hi.mem, hi.poison⟩

/-- Settles O3, by what every command keeps. -/
theorem everyCommandExtendsTheRecord : Obligations.EveryCommandExtendsTheRecord := fun c s t h => (exec_keeps c s t h).extends

end Sys2Proof.Machine
end

section
/-!
SUPPORT. Acceptance of the lanes of a collective engine (R455 to R457, R476, R478).
-/
namespace Sys2Proof.Machine

/-- A lane that its engine's command covers is put to its group. -/
def State.offerLane (s : State) (e : Nat) (l : Lane) : State :=
  let g := l.ce.grp % 64
  if s.grp g Reg.ce.grpValid = 0 ∨ s.grp g Reg.ce.grpPart ≠ l.part then s.endCeLane e l 6
  else if s.gstate g = gsHeld then s.endCeLane e l 0xC0
  else if s.gstate g = gsBroken then s.endCeLane e l 0x0A
  else if s.gstate g ≠ gsReady ∨ 4 ≤ (s.accepted g).length then s
  else
    match s.ceChecks l with
    | some st => ((s.takeSeq g).endCeLane e l st).cancelAt g (s.cancelFrom g)
    | none => s.acceptLane e l

section
variable {s : State} {u : UnitId} {l : Lane} {rest : List Lane} {covers : Nat → Bool}

/-- A command of an engine that runs or drains puts the oldest unaccepted lane to its group. -/
theorem State.ceRun_head (hq : s.unaccepted u.ix = l :: rest) (hc : covers l.opcode = true)
    (hs : s.ustate u = stRunning ∨ s.ustate u = stDraining) : s.ceRun u covers = s.offerLane u.ix l := by
  have runs : ¬(!covers l.opcode || !(s.ustate u == stRunning || s.ustate u == stDraining)) = true := by
    rcases hs with hs | hs <;> simp [hc, hs]
  unfold State.ceRun
  rw [hq]
  exact if_neg runs

/-- Each of the six operations is a run of its engine. -/
theorem exec_ceOperation {c : Instr} (h : (covers, c) ∈ [(fun o => decide (o < 2 ∨ 6 < o), Instr.allReduce u), (fun o => o == 2, .reduceScatter u),
    (fun o => o == 3, .allGather u), (fun o => o == 4, .broadcast u), (fun o => o == 5, .barrier u), (fun o => o == 6, .allToAll u)])
    (hb : u.blk = .ce) (hu : u.valid = true) : exec c s = .next (s.ceRun u covers) := by
  simp only [List.mem_cons, Prod.mk.injEq, List.not_mem_nil, or_false] at h
  rcases h with ⟨rfl, rfl⟩ | ⟨rfl, rfl⟩ | ⟨rfl, rfl⟩ | ⟨rfl, rfl⟩ | ⟨rfl, rfl⟩ | ⟨rfl, rfl⟩ <;> exact atUnit_here hb hu _ _

end

section
variable {s : State} {l : Lane} (e : Nat)

/-- The group is not the partition's. -/
theorem State.offerLane_foreign (h : s.grp (l.ce.grp % 64) Reg.ce.grpValid = 0 ∨ s.grp (l.ce.grp % 64) Reg.ce.grpPart ≠ l.part) :
    s.offerLane e l = s.endCeLane e l 6 := if_pos h

section
variable (hv : s.grp (l.ce.grp % 64) Reg.ce.grpValid ≠ 0) (hp : s.grp (l.ce.grp % 64) Reg.ce.grpPart = l.part)
include hv hp

theorem State.offerLane_held (h : s.gstate (l.ce.grp % 64) = gsHeld) : s.offerLane e l = s.endCeLane e l 0xC0 :=
  (if_neg (by simp [hv, hp])).trans (if_pos h)

theorem State.offerLane_broken (h : s.gstate (l.ce.grp % 64) = gsBroken) : s.offerLane e l = s.endCeLane e l 0x0A :=
  (if_neg (by simp [hv, hp])).trans ((if_neg (by rw [h]; decide)).trans (if_pos h))

/-- A lane that its group cannot take yet stays where it is. -/
theorem State.offerLane_waits (h1 : s.gstate (l.ce.grp % 64) ≠ gsHeld) (h2 : s.gstate (l.ce.grp % 64) ≠ gsBroken)
    (h : s.gstate (l.ce.grp % 64) ≠ gsReady ∨ 4 ≤ (s.accepted (l.ce.grp % 64)).length) : s.offerLane e l = s :=
  (if_neg (by simp [hv, hp])).trans ((if_neg h1).trans ((if_neg h2).trans (if_pos h)))

section
variable (hr : s.gstate (l.ce.grp % 64) = gsReady)
include hr

theorem State.offerLane_full (h : 4 ≤ (s.accepted (l.ce.grp % 64)).length) : s.offerLane e l = s :=
  State.offerLane_waits e hv hp (by rw [hr]; decide) (by rw [hr]; decide) (.inr h)

variable (hn : (s.accepted (l.ce.grp % 64)).length < 4)
include hn

/-- A READY group with room checks the command. -/
theorem State.offerLane_ready : s.offerLane e l = match s.ceChecks l with
    | some st => ((s.takeSeq (l.ce.grp % 64)).endCeLane e l st).cancelAt (l.ce.grp % 64) (s.cancelFrom (l.ce.grp % 64))
    | none => s.acceptLane e l :=
  (if_neg (by simp [hv, hp])).trans ((if_neg (by rw [hr]; decide)).trans ((if_neg (by rw [hr]; decide)).trans
    (if_neg (not_or.mpr ⟨not_not_intro hr, Nat.not_le.mpr hn⟩))))

theorem State.offerLane_accepted (h : s.ceChecks l = none) : s.offerLane e l = s.acceptLane e l := by
  rw [State.offerLane_ready e hv hp hr hn, h]

theorem State.offerLane_rejected {st : Nat} (h : s.ceChecks l = some st) : s.offerLane e l =
    ((s.takeSeq (l.ce.grp % 64)).endCeLane e l st).cancelAt (l.ce.grp % 64) (s.cancelFrom (l.ce.grp % 64)) := by
  rw [State.offerLane_ready e hv hp hr hn, h]

end

end

end

/-- Settles O27: each operation puts its oldest lane to the group, and the group's state decides. -/
theorem collectivesAreAccepted : Obligations.CollectivesAreAccepted := by
  intro s u l rest c covers hx hb hu hq hc hs g
  have run {t : State} (h : s.offerLane u.ix l = t) : exec c s = .next t :=
    (exec_ceOperation hx hb hu).trans (congrArg _ ((State.ceRun_head hq hc hs).trans h))
  refine ⟨fun h => run (State.offerLane_foreign _ h), fun hv hp => ⟨fun h => run (State.offerLane_held _ hv hp h),
    fun h => run (State.offerLane_broken _ hv hp h), fun hr hn => ⟨fun h => run (State.offerLane_accepted _ hv hp hr hn h),
    fun st h => run (State.offerLane_rejected _ hv hp hr hn h)⟩, fun hr hn => run (State.offerLane_full _ hv hp hr hn),
    fun h1 h2 h3 => run (State.offerLane_waits _ hv hp h1 h2 (.inl h3))⟩⟩

end Sys2Proof.Machine
end

section
/-!
SUPPORT. Packets and messages of collectives (R458 to R460, R464, R469, R473).
-/
namespace Sys2Proof.Machine

/-- A message that names one of the module's groups passes its check of the group. -/
theorem next_of_group {g : Nat} (hg : g < 64) {s t u : State} (h : t = u) :
    (if 64 ≤ g then .next s else .next t : Host.Outcome State Fault Refusal) = .next u := by
  rw [if_neg (Nat.not_le.mpr hg), h]

section
variable {s : State} {g node gen sq : Nat} (hg : g < 64)
include hg

/-! ## Messages of a live member -/

theorem execReady_member {j : Nat} (h : (s.taken g node 0).sender g node gen = some j) : exec (.ready g node gen sq) s =
    .next (((s.taken g node 0).updGrp g (fun r => { r with readys := r.readys ++ [(j, sq)] })).moveOn g sq) :=
  next_of_group hg (by dsimp only; rw [h])

theorem execCounts_member {j : Nat} {counts : List Nat} (h : (s.taken g node (4 * counts.length)).sender g node gen = some j) :
    exec (.counts g node gen sq counts) s =
      .next (((s.taken g node (4 * counts.length)).updGrp g (fun r => { r with counts := r.counts ++ [(j, sq, counts)] })).moveOn g sq) :=
  next_of_group hg (by dsimp only; rw [h])

theorem execDigest_member {j : Nat} (sent result flags : Nat) (h : (s.taken g node 32).sender g node gen = some j) :
    exec (.digest g node gen sq sent result flags) s =
      .next (((s.taken g node 32).updGrp g (fun r => { r with digests := r.digests ++ [⟨j, sq, sent, result, flags⟩] })).moveOn g sq) :=
  next_of_group hg (by dsimp only; rw [h])

/-- A chunk that has been sent goes again. -/
theorem execNakChunk_sent {ph ch j : Nat} {c : CollRec} (h : (s.taken g node 0).sender g node gen = some j)
    (hc : (s.taken g node 0).findColl g sq = some c) (hs : c.sent.any (fun x => x.1 == chunkKey j ph ch) = true) :
    exec (.nakChunk g node gen sq ph ch) s = .next ((((((s.taken g node 0).sendChunk c j ph ch
      (!((s.taken g node 0).grpRec g).readys.contains (j, sq)) true).updColl g sq (fun x => { x with resent := true })).count (ceU c.engine) 5 1).irq
      (ceU c.engine) (2 ^ 16))) := by
  refine next_of_group hg ?_
  dsimp only
  rw [h, hc]
  exact if_pos hs

/-! ## Credit (R458 to R460) -/

theorem execCredit_control (n : Nat) : exec (.credit g node 2 n) s = .next ((s.setNet (fun x => { x with
    ctlUsed := Sparse.set (fun _ => 0) x.ctlUsed node (Sparse.get (fun _ => 0) s.net.ctlUsed node - n), ctlWait := [] })).sendWaiting s.net.ctlWait) :=
  next_of_group hg (if_pos rfl)

/-- Credit of a member's kitty or window is returned. -/
def State.creditBack (s : State) (g j pool n : Nat) : State :=
  s.updGrp g (fun r => { r with outB := Sparse.set (fun _ => 0) r.outB (j * 2 + pool) (s.outstandingTo g j pool - n) })

/-- The oldest collective of the group goes on with it. -/
theorem execCredit_member {n pool j : Nat} (hp : pool < 2) (hj : (s.grpNodes g).findIdx? (fun x => x == node) = some j) :
    exec (.credit g node pool n) s = .next (match (s.creditBack g j pool n).accepted g with
      | [] => s.creditBack g j pool n
      | c :: _ => (s.creditBack g j pool n).moveOn g c.seq) := by
  refine next_of_group hg ((if_neg hp.ne).trans ((if_neg (by omega)).trans ?_))
  rw [hj]
  rfl

theorem execCredit_idle {n pool j : Nat} (hp : pool < 2) (hj : (s.grpNodes g).findIdx? (fun x => x == node) = some j)
    (h : (s.creditBack g j pool n).accepted g = []) : exec (.credit g node pool n) s = .next (s.creditBack g j pool n) := by
  rw [execCredit_member hg hp hj, h]

theorem execCredit_goesOn {n pool j : Nat} {c : CollRec} {rest : List CollRec} (hp : pool < 2)
    (hj : (s.grpNodes g).findIdx? (fun x => x == node) = some j) (h : (s.creditBack g j pool n).accepted g = c :: rest) :
    exec (.credit g node pool n) s = .next ((s.creditBack g j pool n).moveOn g c.seq) := by
  rw [execCredit_member hg hp hj, h]

end

/-! ## Chunks (R458, R464) -/

/-- A chunk of the group's own GEN is taken by its collective when that is open, and waits in the kitty when it may still come. -/
theorem execCollChunk_gen {s : State} {g sq : Nat} {p : Pkt} (hk : p.kind = kColl) (hg : bits p.extra 32 6 = g) (hn : bits p.extra 40 8 = s.gen g)
    (hs : p.extra % 2 ^ 32 = sq) (hv : s.grp g Reg.ce.grpValid ≠ 0) : exec (.collChunk p) s = .next (match s.findColl g sq with
      | some c => if c.opened = true then (s.takePkt c p).moveOn g sq else s.kitty g p
      | none => if seqBefore sq (s.grp g Reg.ce.grpNextSeq) = false then s.kitty g p else s) := by
  subst hg hs
  refine congrArg _ ((if_neg (by simp [hk, hv])).trans ((if_neg (by simp [hn])).trans ?_))
  cases s.findColl (bits p.extra 32 6) (p.extra % 2 ^ 32) with
  | some c => simp [hn]
  | none => simp [hn]

/-- Settles O28, by the lemma about each message. -/
theorem collectiveTrafficMovesCollectivesOn : Obligations.CollectiveTrafficMovesCollectivesOn := by
  intro s g node gen sq hg
  refine ⟨fun j => execReady_member hg, fun j counts => execCounts_member hg, fun j sent result flags => execDigest_member hg sent result flags,
    fun ph ch j c => execNakChunk_sent hg, fun p hk hp hn hs hv => ⟨fun c hc ho => ?_, fun c hc ho => ?_, fun hc ho => ?_⟩,
    execCredit_control hg, fun n pool j hp hj => ⟨execCredit_idle hg hp hj, fun c rest => execCredit_goesOn hg hp hj⟩⟩
  · rw [execCollChunk_gen hk hp hn hs hv, hc]
    exact congrArg _ (if_pos ho)
  · rw [execCollChunk_gen hk hp hn hs hv, hc]
    exact congrArg _ (if_neg (by simp [ho]))
  · rw [execCollChunk_gen hk hp hn hs hv, hc]
    exact congrArg _ (if_pos ho)

end Sys2Proof.Machine
end

section
/-!
SUPPORT. Groups cancel and re-form, losses come back to their source, and nodes change state (R422, R435, R475, R477 to R480, R485).
-/
namespace Sys2Proof.Machine

/-! ## Cancels, losses and re-formation (R475, R477, R479, R480) -/

section
variable {s : State} {g node gen : Nat} (hg : g < 64)
include hg

theorem execCancel_newer {sq : Nat} (hv : (s.taken g node 0).grp g Reg.ce.grpValid ≠ 0) (hm : ((s.taken g node 0).grpNodes g).contains node = true)
    (hn : genNewer ((s.taken g node 0).gen g) gen = true) : exec (.cancel g node gen sq) s = .next ((s.taken g node 0).applyCancel g gen sq) :=
  next_of_group hg ((if_neg (by simp only [hv, hm, Bool.not_true, Bool.false_eq_true, or_self, not_false_eq_true])).trans
    (if_pos (by simp only [hn, Bool.true_or])))

theorem execLost_members (mask : Nat) : exec (.lost g node mask) s = .next ((s.taken g node 8).loseMembers g (nodesOf mask)) :=
  next_of_group hg rfl

theorem execReform_survivor {mask : Nat} (hv : (s.taken g node 8).grp g Reg.ce.grpValid ≠ 0) (hr : (s.taken g node 8).grp g Reg.ce.grpReform ≠ 0)
    (hm : bit ((s.taken g node 8).grpMembers g) node = true) : exec (.reform g node gen mask) s =
      .next (((s.taken g node 8).applyReform g gen mask).sendMsgPkt
        (((s.taken g node 8).applyReform g gen mask).msgPacket g node mReformAck gen 0 0 [])) :=
  next_of_group hg (if_neg (by simp only [hv, hr, hm, Bool.not_true, Bool.false_eq_true, or_self, not_false_eq_true]))

/-- A member has answered a re-formation. -/
def State.ackReform (s : State) (g node : Nat) : State :=
  s.updGrp g (fun r => { r with unacked := r.unacked.filter (fun n => n != node) })

/-- The coordinator waits for answers until the last of them. -/
theorem execReformAck_answer (hs : (s.taken g node 0).gstate g = gsReforming) (hn : gen = (s.taken g node 0).gen g)
    (hu : ((s.taken g node 0).grpRec g).unacked.contains node = true) : exec (.reformAck g node gen) s =
      .next (if (((s.taken g node 0).ackReform g node).grpRec g).unacked = []
        then (((s.taken g node 0).ackReform g node).sendSurvivors g mReformDone gen 0 []).endReform g else (s.taken g node 0).ackReform g node) := by
  refine next_of_group hg ((if_neg (by simp only [hs, ← hn, hu, ne_eq, not_true_eq_false, Bool.not_true, Bool.false_eq_true, or_self,
    not_false_eq_true])).trans ?_)
  exact if_congr List.isEmpty_iff rfl rfl

theorem execReformDone_reforming (hs : (s.taken g node 0).gstate g = gsReforming) (hn : gen = (s.taken g node 0).gen g) :
    exec (.reformDone g node gen) s = .next ((s.taken g node 0).endReform g) := next_of_group hg (if_pos ⟨hs, hn⟩)

theorem execCollectiveTimeout_none (h : s.accepted g = []) : exec (.collectiveTimeout g) s = .next s := next_of_group hg (by rw [h])

/-- Only the oldest collective, once it is posted, can take too long. -/
theorem execCollectiveTimeout_oldest {c : CollRec} {rest : List CollRec} (h : s.accepted g = c :: rest) : exec (.collectiveTimeout g) s =
    .next (if c.posted then s.loseMembers g ((s.outstandingMembers c).map (fun j => (s.grpNodes g).getD j 64)) else s) :=
  next_of_group hg (by rw [h])

end

/-! ## Losses at their source (R435) -/

section
variable {s : State} {p : Pkt}

theorem execLoss_foreign (h : p.src ≠ s.node) (reason : Nat) : exec (.loss p reason) s = .next s := congrArg _ (if_pos h)

section
variable (hs : p.src = s.node)
include hs

section
variable (ht : p.tc = 1)
include ht

theorem execLoss_portDown : exec (.loss p lossPortDown) s = .next ((s.count (bvfU 0) 7 1).resend p) :=
  congrArg _ ((if_neg (not_not_intro hs)).trans ((if_pos ht).trans (if_pos rfl)))

theorem execChunkResendTimer_own : exec (.chunkResendTimer p) s = .next (s.resend p) := congrArg _ (if_pos ⟨ht, hs⟩)

/-- Of the messages, only those of the engines are chased; a Dealer's message is not. -/
theorem execLoss_chased (hd : p.kind = kMsg → p.extra % 256 < 0x40) {reason : Nat} (hr : reason ≠ lossPortDown) : exec (.loss p reason) s =
    .next (if reason = lossAbsent then (s.count (bvfU 0) 7 1).loseMembers (pktGroup p) [p.dst]
      else if 3 ≤ ((s.count (bvfU 0) 7 1).countLoss p).1 then ((s.count (bvfU 0) 7 1).countLoss p).2.loseMembers (pktGroup p) [p.dst]
      else ((s.count (bvfU 0) 7 1).countLoss p).2) := by
  have engine : ¬(p.kind == kMsg && decide (0x40 ≤ p.extra % 256)) = true := by
    intro h
    simp only [Bool.and_eq_true, beq_iff_eq, decide_eq_true_eq] at h
    exact absurd (hd h.1) (Nat.not_lt.mpr h.2)
  exact congrArg _ ((if_neg (not_not_intro hs)).trans ((if_pos ht).trans ((if_neg hr).trans (if_neg engine))))

theorem execLoss_absent (hd : p.kind = kMsg → p.extra % 256 < 0x40) :
    exec (.loss p lossAbsent) s = .next ((s.count (bvfU 0) 7 1).loseMembers (pktGroup p) [p.dst]) :=
  (execLoss_chased hs ht hd (by decide)).trans (congrArg _ (if_pos rfl))

theorem execLoss_counted (hd : p.kind = kMsg → p.extra % 256 < 0x40) {reason : Nat} (hr : reason ≠ lossPortDown) (ha : reason ≠ lossAbsent) :
    exec (.loss p reason) s = .next (if 3 ≤ ((s.count (bvfU 0) 7 1).countLoss p).1
      then ((s.count (bvfU 0) 7 1).countLoss p).2.loseMembers (pktGroup p) [p.dst] else ((s.count (bvfU 0) 7 1).countLoss p).2) :=
  (execLoss_chased hs ht hd hr).trans (congrArg _ (if_neg ha))

end

theorem execLoss_request {reason : Nat} {q : ReqRec} (h2 : 2 ≤ p.tc) (h4 : p.tc ≤ 4) (hq : (s.count (bvfU 0) 7 1).reqOf p = some q) :
    exec (.loss p reason) s = .next ((s.count (bvfU 0) 7 1).lostRequest q (reason == lossAbsent)) := by
  refine congrArg _ ((if_neg (not_not_intro hs)).trans ((if_neg (by omega)).trans ((if_pos ⟨h2, h4⟩).trans ?_)))
  rw [hq]

end

end

/-! ## Injections (R485) -/

theorem execCeInject_armed {s : State} {u : UnitId} {src : Src} (hb : u.blk = .ce) (hu : u.valid = true) (hv : notVf src = true)
    (he : s.expert u = true) : exec (.ceInjectCrc u src) s = .next (s.put u Reg.ce.injectCrc 1) ∧
      exec (.ceInjectDigest u src) s = .next (s.put u Reg.ce.injectDigest 1) :=
  ⟨(if_neg (by simp [hb, hu])).trans (congrArg _ (if_pos (by simp [hv, he]))), (if_neg (by simp [hb, hu])).trans (congrArg _ (if_pos (by simp [hv, he])))⟩

/-! ## Node states (R422) -/

section
variable {s : State} {node : Nat} (hn : node < 64)
include hn

theorem execKeepalive_heard (ho : node ≠ s.node) {st : Nat} (hv : s.nodeValid node = true) (h1 : 1 ≤ st) (h3 : st ≤ 3) :
    exec (.keepalive node st) s = .next (s.setNodeState node st) := next_of_group hn (if_pos (by simp [hv, ho, h1, h3]))

theorem execNodeTimeout_silent (ho : node ≠ s.node) (hs : s.nodeState node ≠ 0) :
    exec (.nodeTimeout node) s = .next ((s.count (bvfU 0) 11 1).setNodeState node 0) := next_of_group hn (if_neg (by simp [ho, hs]))

end

theorem foldl_same {α β : Type} {f : β → α → β} {b : β} : ∀ {l : List α}, (∀ a ∈ l, f b a = b) → l.foldl f b = b
  | [], _ => rfl
  | a :: l, h => by
    rw [List.foldl_cons, h a (List.mem_cons_self ..)]
    exact foldl_same fun c hc => h c (List.mem_cons_of_mem _ hc)

/-- Where every entry is VALID no node is DOWN for want of one. -/
theorem execKeepaliveTimer_valid {s : State} (h : ∀ n, n < 64 → s.nodeValid n = true) : exec .keepaliveTimer s = .next s.sendKeepalives := by
  refine congrArg (fun t => Host.Outcome.next (State.sendKeepalives t)) (foldl_same fun n hn => if_neg ?_)
  simp [h n (List.mem_range.mp hn)]

/-- Settles O29, by the lemma about each command. -/
theorem groupsCancelAndReform : Obligations.GroupsCancelAndReform := by
  refine ⟨fun s g node gen sq mask hg => ⟨execCancel_newer hg, execLost_members hg mask, execReform_survivor hg,
      fun hs hn hu => ⟨fun h => ?_, fun h => ?_⟩, execReformDone_reforming hg, execCollectiveTimeout_none hg,
      fun c rest h hp => ?_, fun c rest h hp => ?_⟩,
    fun s p => ⟨fun hs => ⟨execLoss_portDown hs, execLoss_absent hs, fun reason ht hd hr ha => ⟨fun h => ?_, fun h => ?_⟩,
        fun reason q => execLoss_request hs, execChunkResendTimer_own hs⟩,
      fun reason h => execLoss_foreign h reason, fun u src => execCeInject_armed,
      fun node hn ho => ⟨fun st => execKeepalive_heard hn ho, execNodeTimeout_silent hn ho⟩, execKeepaliveTimer_valid⟩⟩
  · exact (execReformAck_answer hg hs hn hu).trans (congrArg _ (if_pos h))
  · exact (execReformAck_answer hg hs hn hu).trans (congrArg _ (if_neg h))
  · exact (execCollectiveTimeout_oldest hg h).trans (congrArg _ (if_neg (by simp [hp])))
  · exact (execCollectiveTimeout_oldest hg h).trans (congrArg _ (if_pos hp))
  · exact (execLoss_counted hs ht hd hr ha).trans (congrArg _ (if_pos h))
  · exact (execLoss_counted hs ht hd hr ha).trans (congrArg _ (if_neg (Nat.not_le.mpr h)))

end Sys2Proof.Machine
end

section
/-!
SUPPORT. The fabric: HELLOs, marks, routing, the routing tables and telemetry (R419 to R421, R433, R437 to R439, R443 to R446).
-/
namespace Sys2Proof.Machine

/-! ## HELLOs (R419) -/

section
variable {s : State} {k : Nat} (hk : k < 24)
include hk

theorem execHelloTimer_active (h : s.linkState k = lkActive) : exec (.helloTimer k) s = .next (s.sendOn k { s.packet 0 0 kHello with
    data := leBytes 1 s.node ++ leBytes 1 k ++ leBytes 1 (s.get (bvfU 0) Reg.bvf.topoSuitsM1 + 1) ++ leBytes 1 s.ownState ++ leBytes 1 1 ++
      leBytes 8 fingerprint }) := next_of_port hk (if_pos h)

theorem execHelloStale_active (h : s.linkState k = lkActive) (hp : s.peerState k ≠ 0) :
    exec (.helloStale k) s = .next (s.setPeerState k 3).advanceDrain := next_of_port hk (if_pos ⟨h, hp⟩)

end

/-! ## The head packet of a queue (R430, R433) -/

section
variable {s : State} {from' : Option Nat} {tc hops full : Nat} {rsp : Bool}

/-- The head packet that a PACKET_ROUTE names. -/
def State.namedHead (s : State) (from' : Option Nat) (tc hops : Nat) (rsp : Bool) : Option (Option Nat × Pkt) :=
  s.heads.find? (fun e => e.1 == from' && e.2.tc == tc && tc2Response e.2 == rsp && (from'.isNone || e.2.hops == hops))

/-- The router that takes a packet from an input port, or from the injection queue. -/
def takingRouter (from' : Option Nat) : UnitId := match from' with | some k => routerOf k | none => bvfU 0

theorem execPacketRoute_none (h : s.namedHead from' tc hops rsp = none) : exec (.packetRoute from' tc hops rsp full) s = .next s := by
  change (match s.namedHead from' tc hops rsp with | none => _ | some e => _) = _
  rw [h]

theorem execPacketRoute_some {e : Option Nat × Pkt} (h : s.namedHead from' tc hops rsp = some e) :
    exec (.packetRoute from' tc hops rsp full) s = .next (s.routePacket e.1 e.2 full).advanceDrain := by
  change (match s.namedHead from' tc hops rsp with | none => _ | some e => _) = _
  rw [h]

variable {p : Pkt}

theorem State.routePacket_absent (h : s.knownAbsent from' p = true) :
    s.routePacket from' p full = (s.takePacket from' p).sendLoss (takingRouter from') p lossAbsent := if_pos h

theorem State.routePacket_present (h : s.knownAbsent from' p = false) : s.routePacket from' p full = match s.routing p with
    | .eject => if needsCompute p && s.ownState != 1 then (s.takePacket from' p).sendLoss (takingRouter from') p lossAbsent
      else (s.takePacket from' p).count (takingRouter from') 1 1
    | .port k => s.arbitrate k full
    | .wait => s
    | .unroutable r => (s.takePacket from' p).unroutable (takingRouter from') from' p r :=
  (if_neg (Bool.not_eq_true _ ▸ h)).trans (by cases s.routing p <;> rfl)

theorem State.routePacket_eject (h : s.knownAbsent from' p = false) (hr : s.routing p = .eject) (hc : needsCompute p = false ∨ s.ownState = 1) :
    s.routePacket from' p full = (s.takePacket from' p).count (takingRouter from') 1 1 := by
  rw [State.routePacket_present h, hr]
  refine if_neg ?_
  rcases hc with hc | hc <;> simp [hc]

theorem State.routePacket_port {o : Nat} (h : s.knownAbsent from' p = false) (hr : s.routing p = .port o) :
    s.routePacket from' p full = s.arbitrate o full := by rw [State.routePacket_present h, hr]

theorem State.routePacket_wait (h : s.knownAbsent from' p = false) (hr : s.routing p = .wait) : s.routePacket from' p full = s := by
  rw [State.routePacket_present h, hr]

theorem State.routePacket_unroutable {w : Nat} (h : s.knownAbsent from' p = false) (hr : s.routing p = .unroutable w) :
    s.routePacket from' p full = (s.takePacket from' p).unroutable (takingRouter from') from' p w := by rw [State.routePacket_present h, hr]

end

/-! ## The routing tables (R437) -/

/-- The array of version v's routing entries. -/
def routeArray (v : Nat) : Field := if v = 0 then Reg.bvf.routeA else Reg.bvf.routeB

theorem routeArray_cases (v : Nat) : routeArray v = Reg.bvf.routeA ∨ routeArray v = Reg.bvf.routeB := ite_eq_or_eq ..

/-- The place of version v's state. -/
def epochField (v : Nat) : Field := if v = 0 then Reg.bvf.epochStateA else Reg.bvf.epochStateB

theorem epochField_cases (v : Nat) : epochField v = Reg.bvf.epochStateA ∨ epochField v = Reg.bvf.epochStateB := ite_eq_or_eq ..

/-- A routing entry is one whole word of its page. -/
theorem fieldPos_routeArray (v n : Nat) :
    fieldPos 0 ((routeArray v).at n) = ((routeArray v).off + 4 * n, 0) ∧ fieldSpan 0 ((routeArray v).at n) = 1 := by
  rcases routeArray_cases v with h | h <;> rw [h] <;> constructor <;>
    simp only [fieldPos, fieldSpan, Field.at, Reg.bvf.routeA, Reg.bvf.routeB, Prod.mk.injEq] <;> omega

theorem routeArray_apart {v n m : Nat} (h : n ≠ m) : fieldsApart ((routeArray v).at n) ((routeArray v).at m) = true := by
  obtain ⟨pn, wn⟩ := fieldPos_routeArray v n
  obtain ⟨pm, wm⟩ := fieldPos_routeArray v m
  simp only [fieldsApart, pn, pm, wn, wm, Bool.or_eq_true, decide_eq_true_eq]
  omega

theorem epochField_place (v : Nat) : (fieldPos 0 (epochField v)).1 = 0x104 ∧ fieldSpan 0 (epochField v) = 1 := by
  rcases epochField_cases v with h | h <;> rw [h] <;> decide

theorem epochField_within (v : Nat) : fieldWithin (epochField v) = true := by rcases epochField_cases v with h | h <;> rw [h] <;> decide

theorem routeArray_off (v : Nat) : 0x200 ≤ (routeArray v).off ∧ (routeArray v).off ≤ 0x300 := by
  rcases routeArray_cases v with h | h <;> rw [h] <;> decide

theorem epochField_routeArray_apart (v n : Nat) : fieldsApart (epochField v) ((routeArray v).at n) = true := by
  obtain ⟨pe, we⟩ := epochField_place v
  obtain ⟨pn, wn⟩ := fieldPos_routeArray v n
  have ho := (routeArray_off v).1
  simp only [fieldsApart, pe, pn, we, wn, Bool.or_eq_true, decide_eq_true_eq]
  omega

theorem routeArray_within (v : Nat) {n : Nat} (hn : n < 64) : fieldWithin ((routeArray v).at n) = true := by
  obtain ⟨pn, wn⟩ := fieldPos_routeArray v n
  have ho := (routeArray_off v).2
  simp only [fieldWithin, pn, wn, decide_eq_true_eq]
  omega

section
variable (s : State) (v : Nat) {n : Nat}

theorem State.route_setEpochState (st : Nat) (hn : n < 64) : (s.setEpochState v st).route v n = s.route v n :=
  State.get_put_apart s _ _ _ _ _ (epochField_routeArray_apart v n) (epochField_within v) (routeArray_within v hn)

theorem State.route_setRoute_same (w : Nat) : (s.setRoute v n w).route v n = w % 2 ^ 32 := by
  refine (State.get_put_same s _ _ w).trans ?_
  change w % 2 ^ ((routeArray v).at n).width = _
  rcases routeArray_cases v with h | h <;> rw [h] <;> rfl

theorem State.route_setRoute_other {m : Nat} (hn : n < 64) (hm : m < 64) (h : m ≠ n) (w : Nat) : (s.setRoute v m w).route v n = s.route v n :=
  State.get_put_apart s _ _ _ _ _ (routeArray_apart h) (routeArray_within v hm) (routeArray_within v hn)

theorem State.epochState_setEpochState (st : Nat) : (s.setEpochState v st).epochState v = st % 4 := by
  refine (State.get_put_same s _ _ st).trans ?_
  change st % 2 ^ (epochField v).width = _
  rcases epochField_cases v with h | h <;> rw [h] <;> rfl

end

section
variable {s : State} {src : Src} {ver node : Nat}

theorem execRouteWrite_taken (hv : notVf src = true) (h2 : ver < 2) (hn : node < 64) (he : s.epochState ver ≤ 1) (value : Nat) :
    exec (.routeWrite src ver node value) s = .next ((s.setRoute ver node value).setEpochState ver 1) :=
  congrArg _ (if_pos (by simp [hv, h2, hn, he]))

theorem execRouteWrite_inUse (he : 2 ≤ s.epochState ver) (value : Nat) : exec (.routeWrite src ver node value) s = .next s :=
  congrArg _ (if_neg (by simp [Nat.not_le.mpr he]))

end

/-! ## Telemetry (R443, R446) -/

/-- The report of port k's window to the collector. -/
def State.sendTelem (s : State) (k : Nat) : State :=
  (s.telemetry k).2.inject { s.packet (s.get (bvfU 0) Reg.bvf.telemCollect) 6 kTelem with data := telemBytes (s.telemetry k).1 }

theorem State.sendTelem_inj (s : State) (k : Nat) : (s.sendTelem k).net.inj.length = s.net.inj.length + 1 := List.length_append

theorem State.sendTelems_inj (l : List Nat) : ∀ s : State, (l.foldl State.sendTelem s).net.inj.length = s.net.inj.length + l.length := by
  induction l with
  | nil => exact fun s => rfl
  | cons k l ih =>
    intro s
    rw [List.foldl_cons, ih, State.sendTelem_inj, List.length_cons]
    omega

theorem State.sendTelems_mem (l : List Nat) : ∀ s : State, (l.foldl State.sendTelem s).mem = s.mem := by
  induction l with
  | nil => exact fun s => rfl
  | cons k l ih => exact fun s => (ih _).trans rfl

theorem execTelemTimer_period {s : State} (h : s.get (bvfU 0) Reg.bvf.telemPeriodMs ≠ 0) :
    exec .telemTimer s = .next ((List.range 24).foldl State.sendTelem s) := by
  change Host.Outcome.next (if _ then s else (List.range 24).foldl State.sendTelem s) = _
  rw [if_neg h]

theorem State.OnlyRegs.back {s t : State} (h : s.OnlyRegs t) : { t with regs := s.regs } = s := by
  rw [show t = { s with regs := t.regs } from h]

/-- Settles O38, by the lemma about each command. -/
theorem fabricRoutesAndReports : Obligations.FabricRoutesAndReports := by
  intro s k hk
  refine ⟨execHelloTimer_active hk, ?hello, execHelloStale_active hk, fun tc level => next_of_port hk rfl, ?route, ?table, ?select,
    fun h => congrArg _ (if_pos h), fun h => ⟨_, execTelemTimer_period h, ?_, State.sendTelems_mem _ s⟩, ?inject⟩
  case hello =>
    intro node peer suits st hu r ok hv
    refine next_of_port hk ((if_neg (by simp [hu])).trans ?_)
    dsimp only
    rw [hv]
  case route =>
    intro from' tc hops rsp full head
    refine ⟨execPacketRoute_none, fun e he => ⟨fun ha => ?_, fun ha => ⟨fun hr hc => ?_, fun o hr => ?_, fun hr => ?_, fun w hr => ?_⟩⟩⟩ <;>
      rw [execPacketRoute_some he]
    · rw [State.routePacket_absent ha]; rfl
    · rw [State.routePacket_eject ha hr hc]; rfl
    · rw [State.routePacket_port ha hr]
    · rw [State.routePacket_wait ha hr]
    · rw [State.routePacket_unroutable ha hr]; rfl
  case table =>
    intro src ver node value hv h2 hn
    refine ⟨fun he => ⟨_, execRouteWrite_taken hv h2 hn he value, ?_, State.epochState_setEpochState .., fun n hn' hne => ?_, ?_⟩,
      fun he => execRouteWrite_inUse he value⟩
    · rw [State.route_setEpochState _ _ _ hn, State.route_setRoute_same]
    · rw [State.route_setEpochState _ _ _ hn', State.route_setRoute_other _ _ hn' hn (Ne.symm hne)]
    · exact (((State.OnlyRegs.refl s).put ..).put ..).back
  case select =>
    intro r src hr hv
    exact (if_neg (Nat.not_le.mpr hr)).trans (congrArg _ ((if_pos hv).trans (if_pos hk)))
  case inject =>
    intro r src hr hv he
    exact (if_neg (Nat.not_le.mpr hr)).trans (congrArg _ (if_pos (by simp [hv, he])))
  exact (State.sendTelems_inj _ s).trans (congrArg _ List.length_range)

end Sys2Proof.Machine
end

section
/-!
SUPPORT. The thermal stop (R526) and the stop of the module (R527).
-/
namespace Sys2Proof.Machine

section
variable (s : State)

theorem execThermalStop_hot {s : State} (ha : s.awake = true) (h : 110_000 ≤ s.tj ∨ 105_000 ≤ s.hotDevice) :
    exec .thermalStop s = .next ((s.count thmU 7 1).stopModule 0x0602) := congrArg _ (if_pos (by simpa [ha] using h))

theorem execThermalStop_cool {s : State} (h : (s.tj < 110_000 ∧ s.hotDevice < 105_000) ∨ s.awake = false) : exec .thermalStop s = .next s :=
  congrArg _ (if_neg (by
    rw [Bool.and_eq_true, Bool.or_eq_true, decide_eq_true_eq, decide_eq_true_eq]
    rintro ⟨ha, hot⟩
    rcases h with h | h
    · omega
    · simp [h] at ha))

/-- The loss of coolant is on record before the module stops. -/
def State.coolantLost : State := (s.setSys (fun x => { x with coolant := false })).put thmU Reg.thm.statCoolantOk 0

theorem State.coolantLost_sys : s.coolantLost.sys = { s.sys with coolant := false } := State.put_sys ..

theorem State.coolantLost_mem : s.coolantLost.mem = s.mem := State.put_mem ..

theorem State.coolantLost_awake : s.coolantLost.awake = s.awake := by
  rw [State.awake, State.coolantLost_sys]
  rfl

theorem execCoolantLoss_awake {s : State} (ha : s.awake = true) :
    exec .coolantLoss s = .next ((s.coolantLost.count thmU 6 1).stopModule 0x0601) :=
  congrArg _ (if_pos (s.coolantLost_awake.trans ha))

theorem State.untick_sys : s.untick.sys = s.sys := State.put_sys ..

/-- A stop leaves its mark whatever ran before it. -/
theorem State.stopModule_sys (reason : Nat) : ∃ x : SysRec, (s.stopModule reason).sys = { x with stopped := true, pgood := false } :=
  ⟨_, State.untick_sys _⟩

theorem State.stopModule_stopped (reason : Nat) : (s.stopModule reason).sys.stopped = true ∧ (s.stopModule reason).sys.pgood = false := by
  obtain ⟨x, h⟩ := s.stopModule_sys reason
  rw [h]
  exact ⟨rfl, rfl⟩

theorem State.awake_of_stopped {s : State} (h : s.sys.stopped = true) : s.awake = false := by simp [State.awake, h]

end

/-- Settles O58: the stop itself takes away what keeps the module awake. -/
theorem heatStopsTheModule : Obligations.HeatStopsTheModule :=
  fun s => ⟨execThermalStop_hot, execThermalStop_cool,
    fun ha => ⟨s.coolantLost, execCoolantLoss_awake ha, s.coolantLost_mem, congrArg SysRec.coolant s.coolantLost_sys⟩,
    fun reason => have ⟨hs, hp⟩ := s.stopModule_stopped reason; ⟨State.awake_of_stopped hs, hp, hs⟩⟩

end Sys2Proof.Machine
end

section
/-!
SUPPORT. What a loss of 42 V leaves: what is fused, and the memory outside the module (R505, R538, R571, R630).
-/
namespace Sys2Proof.Machine

/-- A store with only some of its keys kept. -/
theorem Sparse.get_kept {α : Type} {d : Nat → α} (keep : Nat → Bool) (k : Nat) :
    ∀ r : Sparse α, Sparse.get d (r.filter (fun e => keep e.1)) k = if keep k = true then Sparse.get d r k else d k
  | [] => by simp [Sparse.get]
  | (j, v) :: r => by
    have ih := Sparse.get_kept (d := d) keep k r
    cases h : keep j
    · rw [List.filter_cons_of_neg (by simp [h]), ih]
      by_cases hj : j = k
      · simp [← hj, h]
      · exact if_congr Iff.rfl (if_neg hj).symm rfl
    · rw [List.filter_cons_of_pos (by exact h)]
      by_cases hj : j = k
      · simp [Sparse.get, ← hj, h]
      · exact (if_neg hj).trans (ih.trans (if_congr Iff.rfl (if_neg hj).symm rfl))

section
variable (s : State) (hs : Nat)

/-- Without power, apart from the two fused counts. -/
def State.unpowered : State := { State.reset with
  pending := s.pending, freeIdx := s.freeIdx, resp := s.resp, out := s.out
  mem := s.mem.filter (fun c => decide (c.1 / 2 ^ 48 = 2)), poison := s.poison.filter (fun l => decide (l * 256 / 2 ^ 48 = 2))
  talon := { discard := s.talon.discard, programming := s.talon.programming }
  sys := { powered := false, hotswap := hs, hsEn := s.cutUpdate.sys.hsEn, vin := s.cutUpdate.sys.vin, trips := s.cutUpdate.sys.trips
           pwrEn := s.cutUpdate.sys.pwrEn, modRst := s.cutUpdate.sys.modRst, coolant := s.cutUpdate.sys.coolant, refclk := s.cutUpdate.sys.refclk
           pgood := false, cmp := { pin := s.cutUpdate.sys.cmp.pin }, slot := s.cutUpdate.sys.slot, slotBad := s.cutUpdate.sys.slotBad
           svns := s.cutUpdate.sys.svns, unlockBoot := s.cutUpdate.sys.unlockBoot } }

theorem State.cutUpdate_powered : s.cutUpdate.sys.powered = s.sys.powered := by
  unfold State.cutUpdate
  split <;> rfl

theorem State.powerLost_powered (h : s.sys.powered = true) : s.powerLost hs =
    ((s.unpowered hs).put bootU Reg.boot.bootCount (s.get bootU Reg.boot.bootCount)).put secU Reg.sec.debugUnlockCount
      (s.get secU Reg.sec.debugUnlockCount) := if_neg (by simp [State.cutUpdate_powered, h])

theorem State.powerLost_byte (h : s.sys.powered = true) (a : Nat) : (s.powerLost hs).byte a = if a / 2 ^ 48 = 2 then s.byte a else 0 := by
  rw [State.powerLost_powered s hs h, State.byte, State.put_mem, State.put_mem]
  exact (Sparse.get_kept (fun k => decide (k / 2 ^ 48 = 2)) a s.mem).trans (if_congr decide_eq_true_iff rfl rfl)

theorem State.powerLost_bootCount (h : s.sys.powered = true) : (s.powerLost hs).get bootU Reg.boot.bootCount = s.get bootU Reg.boot.bootCount := by
  rw [State.powerLost_powered s hs h, State.get_put_apart _ _ _ _ _ _ (by decide) (by decide) (by decide), State.get_put_same]
  exact Nat.mod_eq_of_lt (s.get_lt _ _)

theorem State.powerLost_unlockCount (h : s.sys.powered = true) :
    (s.powerLost hs).get secU Reg.sec.debugUnlockCount = s.get secU Reg.sec.debugUnlockCount := by
  rw [State.powerLost_powered s hs h, State.get_put_same]
  exact Nat.mod_eq_of_lt (s.get_lt _ _)

/-- A field within one word leaves every other word. -/
theorem State.put_word_other {u : UnitId} {f : Field} (hf : fieldSpan (u.home f) f = 1) {a : Nat} (ha : a ≠ (fieldPos (u.home f) f).1) (v : Nat) :
    (s.put u f v).word a = s.word a := by
  rw [State.put, State.setAt, hf]
  exact State.word_setWords_other 1 _ _ _ _ fun i hi => by omega

theorem State.powerLost_word (h : s.sys.powered = true) {a : Nat} (hb : a ≠ (fieldPos bootU.base Reg.boot.bootCount).1)
    (hd : a ≠ (fieldPos secU.base Reg.sec.debugUnlockCount).1) : (s.powerLost hs).word a = State.reset.word a := by
  rw [State.powerLost_powered s hs h, State.put_word_other _ (by decide) hd, State.put_word_other _ (by decide) hb]
  rfl

theorem State.powerLost_discard (h : s.sys.powered = true) : (s.powerLost hs).talon.discard = s.talon.discard := by
  rw [State.powerLost_powered s hs h, State.put_talon, State.put_talon]
  rfl

theorem execVinLockout_present {s : State} (h : s.sys.vin = true) :
    exec .vinLockout s = .next ((s.setSys (fun x => { x with vin := false })).powerLost (if s.sys.hotswap = 5 then 5 else 0)) :=
  congrArg _ (if_neg (by simp [h]))

end

/-- Settles O44, by what a loss of power leaves of each part of the state. -/
theorem powerLossKeepsWhatIsNotVolatile : Obligations.PowerLossKeepsWhatIsNotVolatile := by
  intro s hp hv
  have h : (s.setSys (fun x => { x with vin := false })).sys.powered = true := hp
  exact ⟨_, execVinLockout_present hv, fun a ha => (State.powerLost_byte _ _ h a).trans (if_pos ha),
    fun a ha => (State.powerLost_byte _ _ h a).trans (if_neg ha), State.powerLost_discard _ _ h, State.powerLost_bootCount _ _ h,
    State.powerLost_unlockCount _ _ h, fun a hb hd => State.powerLost_word _ _ h hb hd⟩

end Sys2Proof.Machine
end

section
/-!
SUPPORT. LEAVE_RECOVERY (R539) goes back to the prior state, of which BOOT.STATE.MODE holds three bits (R562).
-/
namespace Sys2Proof.Machine

theorem State.setMode_mode (s : State) (m : Nat) : (s.setMode m).mode = m % 8 := State.get_put_same ..

theorem execLeaveRecovery_valid {s : State} {src : Src} (hv : notVf src = true) (hm : s.mode = 3)
    (hr : s.flag bootU Reg.boot.stateComputeReset = false) :
    exec (.leaveRecovery src) s = .next ((s.put bootU Reg.boot.cmdCode 3).setMode s.sys.prior) := by
  have valid : s.bootValid src 3 = true := by simp [State.bootValid, hm, hr]
  have back : ((s.put bootU Reg.boot.cmdCode 3).setMode (s.put bootU Reg.boot.cmdCode 3).sys.prior) =
      (s.put bootU Reg.boot.cmdCode 3).setMode s.sys.prior := by rw [State.put_sys]
  cases src with
  | vf n => exact absurd hv (by simp [notVf])
  | pf => exact congrArg _ ((if_pos valid).trans back)
  | mgmt => exact congrArg _ ((if_pos valid).trans back)
  | mcc => exact congrArg _ ((if_pos valid).trans back)

/-- Refutes O41: LEAVE_RECOVERY leaves in BOOT.STATE.MODE, which is three bits wide, the prior state modulo 8, where the statement says modulo
16. The two differ in RECOVERY with the prior state 8, which the state's record can hold though no command of the module puts it there. -/
theorem not_moduleStatesChange : ¬ Obligations.ModuleStatesChange := by
  intro h
  let s : State := (({ State.reset with sys := { prior := 8 } } : State).put bootU Reg.boot.stateComputeReset 0).setMode 3
  have prior : s.sys.prior = 8 := congrArg SysRec.prior ((State.put_sys ..).trans (State.put_sys ..))
  have mode : s.mode = 3 := State.setMode_mode _ 3
  have running : s.flag bootU Reg.boot.stateComputeReset = false := by
    have clear : s.get bootU Reg.boot.stateComputeReset = 0 :=
      (State.get_put_apart _ _ _ _ _ _ (by decide) (by decide) (by decide)).trans (State.get_put_same ..)
    simp [State.flag, clear]
  obtain ⟨-, -, leave, -⟩ := h s .pf rfl
  obtain ⟨t, ht, after, -⟩ := leave mode running
  obtain rfl := Host.Outcome.next.inj ((execLeaveRecovery_valid rfl mode running).symm.trans ht)
  rw [State.setMode_mode, prior] at after
  exact absurd after (by decide)

end Sys2Proof.Machine
end

section
/-!
SUPPORT. What a command leaves unchanged that writes some named fields and makes reports.
-/
namespace Sys2Proof

/-- A field of a page that no report writes, and that shares no bit with any of the fields L. -/
def Field.besides (L : List Field) (f : Field) : Bool := f.unreported && L.all (fun g => Machine.fieldsApart g f)

namespace Machine

/-- From s to t there are reports at most, and writes of the fields L. -/
structure State.Writes (L : List Field) (s t : State) : Prop where
  rest : t = s.withReports t
  get : ∀ {w : UnitId} {f : Field}, w.valid = true → f.besides L = true → t.get w f = s.get w f

section
variable {L : List Field} {s t v : State}

theorem State.Writes.refl (s : State) : s.Writes L s := ⟨rfl, fun _ _ => rfl⟩

theorem State.Writes.trans (h : s.Writes L t) (k : t.Writes L v) : s.Writes L v where
  rest := calc v = t.withReports v := k.rest
    _ = (s.withReports t).withReports v := congrArg (fun x : State => x.withReports v) h.rest
    _ = s.withReports v := rfl
  get hw hf := (k.get hw hf).trans (h.get hw hf)

theorem State.Reports.writes (h : s.Reports t) : s.Writes L t := ⟨h.rest, fun hw hf => h.get hw ((Bool.and_eq_true _ _).mp hf).1⟩

theorem State.put_writes (s : State) (u : UnitId) {g : Field} (hg : g ∈ L) (hw : fieldWithin g = true) (x : Nat) : s.Writes L (s.put u g x) where
  rest := by rw [State.put_onlySignals s u g x]; rfl
  get _ hf := have ⟨free, apart⟩ := (Bool.and_eq_true _ _).mp hf
    State.get_put_apart s u _ g _ x (List.all_eq_true.mp apart g hg) hw (Field.unreported_within free)

theorem State.Writes.put (h : s.Writes L t) (u : UnitId) {g : Field} (hg : g ∈ L) (hw : fieldWithin g = true) (x : Nat) : s.Writes L (t.put u g x) :=
  h.trans (State.put_writes t u hg hw x)

theorem State.Writes.reports (h : s.Writes L t) (k : t.Reports v) : s.Writes L v := h.trans k.writes

theorem State.Writes.mem (h : s.Writes L t) : t.mem = s.mem := by rw [h.rest]; rfl

theorem State.Writes.pwr (h : s.Writes L t) : t.pwr = s.pwr := by rw [h.rest]; rfl

theorem State.Writes.sys (h : s.Writes L t) : t.sys = s.sys := by rw [h.rest]; rfl

end

/-! ## CAP_EFF follows its sources (R511) -/

/-- The fields that follow the caps. -/
def capFields : List Field := [Reg.pwr.statSensorFloor, Reg.pwr.capEffW, Reg.pwr.capSource]

theorem State.applyCap_writes (s : State) : s.Writes capFields s.applyCap := by
  unfold State.applyCap
  extract_lets cap floored old capped
  have written : s.Writes capFields capped := (((State.Writes.refl s).put _ (by decide) (by decide) _).put _ (by decide) (by decide) _).put _
    (by decide) (by decide) _
  split
  · exact written
  · exact (written.reports (State.eventM_reports _ none _ _ _)).reports (State.irq_reports _ pwrU _)

end Machine
end Sys2Proof
end

section
/-!
SUPPORT. The fast limiter, the host's cap and the power pins (R510, R511, R518, R519).
-/
namespace Sys2Proof.Machine

section
variable {s : State} {p : Nat}

/-! ## The fast limiter (R510) -/

theorem execFastLimit_above (h : 2400 < p) (hf : s.pwr.fast = false) :
    exec (.fastLimit p) s = .next ((s.setPwr (fun x => { x with fast := true })).count pwrU 11 1) := congrArg _ (if_pos (by simp [h, hf]))

theorem execFastLimit_below (h : p < 2200) : exec (.fastLimit p) s = .next (s.setPwr (fun x => { x with fast := false })) :=
  congrArg _ ((if_neg (by omega)).trans (if_pos h))

theorem execFastLimit_between (h : 2200 ≤ p) (hf : p ≤ 2400 ∨ s.pwr.fast = true) : exec (.fastLimit p) s = .next s := by
  refine congrArg _ ((if_neg fun above => ?_).trans (if_neg (Nat.not_lt.mpr h)))
  rcases hf with hp | hf
  · exact absurd above.1 (Nat.not_lt.mpr hp)
  · simp [hf] at above

/-! ## The host's cap (R511, R533) -/

theorem execHostCapWrite_other {src : Src} (h : src ≠ .pf) : exec (.hostCapWrite src p) s = .next s := congrArg _ (if_pos h)

/-- The host's cap as the PF's write leaves it: 0 is no cap. -/
def hostCapOf (p : Nat) : Nat := if p = 0 then 0 else clampTo 300 2200 p

theorem hostCapOf_eq (p : Nat) : hostCapOf p = if p = 0 then 0 else if p < 300 then 300 else if 2200 < p then 2200 else p := by
  unfold hostCapOf clampTo
  split
  · rfl
  · split
    · omega
    · split <;> omega

theorem execHostCapWrite_held (h : (s.put pwrU Reg.pwr.capHostW (hostCapOf p)).fwDown = true) : exec (.hostCapWrite .pf p) s =
    .next ((s.put pwrU Reg.pwr.capHostW (hostCapOf p)).setPwr (fun x => { x with hostPend := some (hostCapOf p) })) :=
  congrArg _ ((if_neg (not_not_intro rfl)).trans (if_pos h))

theorem execHostCapWrite_applies (h : (s.put pwrU Reg.pwr.capHostW (hostCapOf p)).fwDown = false) : exec (.hostCapWrite .pf p) s =
    .next ((s.put pwrU Reg.pwr.capHostW (hostCapOf p)).setPwr (fun x => { x with host := hostCapOf p, hostPend := none })).applyCap :=
  congrArg _ ((if_neg (not_not_intro rfl)).trans (if_neg (Bool.not_eq_true _ ▸ h)))

/-- The firmware does not restart because the host writes its cap. -/
theorem State.put_capHostW_fwDown (w : Nat) : (s.put pwrU Reg.pwr.capHostW w).fwDown = s.fwDown := by
  have beside (u : UnitId) {f : Field} (ha : fieldsApart Reg.pwr.capHostW f = true) (hf : fieldWithin f = true) :
      (s.put pwrU Reg.pwr.capHostW w).get u f = s.get u f := State.get_put_apart s _ _ _ _ _ ha (by decide) hf
  have holder : (s.put pwrU Reg.pwr.capHostW w).mccHolder = s.mccHolder := by
    unfold State.mccHolder
    rw [beside _ (by decide) (by decide)]
  unfold State.fwDown State.ustate
  rw [holder, beside _ (by decide) (by decide), beside _ (by decide) (by decide)]

end

/-! ## THROT_N and RAMP_MODE (R518, R519) -/

section
variable {s : State}

theorem execThrot_asserted (h : s.flag pwrU Reg.pwr.statThrot = true) : exec .throtAssert s = .next s ∧
    exec .throtRelease s = .next (((s.put pwrU Reg.pwr.statThrot 0).setPwr (fun x => { x with half := false })).applyCap) :=
  ⟨congrArg _ (if_pos h), congrArg _ (if_pos h)⟩

theorem execThrot_released (h : s.flag pwrU Reg.pwr.statThrot = false) : exec .throtRelease s = .next s ∧ exec .throtAssert s =
    .next (((((s.put pwrU Reg.pwr.statThrot 1).count pwrU 2 1).irq pwrU (2 ^ 17)).setPwr (fun x => { x with half := true })).applyCap) :=
  ⟨congrArg _ (if_neg (by simp [h])), congrArg _ (if_neg (by simp [h]))⟩

theorem execRampModeAssert_first (h : s.flag pwrU Reg.pwr.statRamp = false) (p : Nat) : exec (.rampModeAssert p) s =
    .next (((s.put pwrU Reg.pwr.statRamp 1).setPwr (fun x => { x with ramp := some (s.rampCap p), frozen := false })).applyCap) :=
  congrArg _ (if_neg (by simp [h]))

theorem execRampModeAssert_again (h : s.flag pwrU Reg.pwr.statRamp = true) (p : Nat) : exec (.rampModeAssert p) s = .next s := congrArg _ (if_pos h)

theorem execSyncLost_idle (h : s.flag pwrU Reg.pwr.statRamp = false ∨ s.pwr.frozen = true) : exec .syncLost s = .next s := by
  refine congrArg _ (if_neg ?_)
  rcases h with h | h <;> simp [h]

variable (s)

/-- Ramp mode has ended, and the cap is not yet applied. -/
def State.rampEnded : State := (s.put pwrU Reg.pwr.statRamp 0).setPwr (fun x => { x with ramp := none, frozen := false })

theorem State.rampEnded_stat : s.rampEnded.get pwrU Reg.pwr.statRamp = 0 := (State.setPwr_get ..).trans (State.get_put_same ..)

/-- The ramp's cap is frozen: the ticks stay away. -/
def State.rampFrozen : State := (s.put pwrU Reg.pwr.statSyncOk 0).setPwr (fun x => { x with frozen := true })

theorem State.rampFrozen_pwr : s.rampFrozen.pwr = { s.pwr with frozen := true } :=
  congrArg (fun x : PwrRec => { x with frozen := true }) (State.put_pwr ..)

theorem State.rampFrozen_stat : s.rampFrozen.get pwrU Reg.pwr.statSyncOk = 0 := (State.setPwr_get ..).trans (State.get_put_same ..)

/-- The loss of the ticks under ramp mode. -/
def State.ticksLost : State := ((s.rampFrozen.count pwrU 10 1).eventM none 0x9006 0 0).irq pwrU (2 ^ 18)

theorem State.ticksLost_reports : s.rampFrozen.Reports s.ticksLost :=
  ((State.count_reports _ _ _ _).trans (State.eventM_reports _ none _ _ _)).trans (State.irq_reports _ _ _)

theorem execSyncLost_ramp {s : State} (h : s.flag pwrU Reg.pwr.statRamp = true) (hf : s.pwr.frozen = false) :
    exec .syncLost s = .next s.ticksLost := congrArg _ (if_pos (by simp [h, hf]))

end

/-- Settles O48, by the lemma about each pin and limiter. -/
theorem powerIsCapped : Obligations.PowerIsCapped := by
  intro s p
  refine ⟨execFastLimit_above, execFastLimit_below, execFastLimit_between, fun src => execHostCapWrite_other, fun hd h3 h22 => ?held,
    fun w hw hd => ?applies, execThrot_asserted, execThrot_released, fun h => execRampModeAssert_first h p, fun h => execRampModeAssert_again h p,
    ⟨_, rfl, ?ramp⟩, fun h hf => ⟨_, execSyncLost_ramp h hf, ?lost⟩, execSyncLost_idle⟩
  case held =>
    have whole : hostCapOf p = p := by
      rw [hostCapOf_eq, if_neg (by omega), if_neg (by omega), if_neg (by omega)]
    have down : (s.put pwrU Reg.pwr.capHostW (hostCapOf p)).fwDown = true := (State.put_capHostW_fwDown _).trans hd
    refine ⟨_, execHostCapWrite_held down, ?_, ?_⟩
    · rw [whole]
      exact congrArg (fun x : PwrRec => { x with hostPend := some p }) (State.put_pwr ..)
    · rw [whole]
      exact ((State.setPwr_get ..).trans (State.get_put_same ..)).trans (Nat.mod_eq_of_lt (Nat.lt_of_le_of_lt h22 (by decide)))
  case applies =>
    rw [← hostCapOf_eq] at hw
    subst hw
    exact execHostCapWrite_applies hd
  case ramp =>
    have cap := State.applyCap_writes s.rampEnded
    exact ⟨congrArg PwrRec.ramp cap.pwr, congrArg PwrRec.frozen cap.pwr, (cap.get (by decide) (by decide)).trans s.rampEnded_stat,
      cap.mem.trans (State.put_mem ..)⟩
  case lost =>
    have told := s.ticksLost_reports
    exact ⟨told.pwr.trans s.rampFrozen_pwr, (told.get (by decide) (by decide)).trans s.rampFrozen_stat, told.mem.trans (State.put_mem ..)⟩

end Sys2Proof.Machine
end

section
/-!
SUPPORT. Register writes and reads over the management port (R612).
-/
namespace Sys2Proof.Machine

section
variable (s : State) {u : UnitId} (secured : Bool)

/-! ## Words of one field, and of fields that ignore a write, inside a secured session and outside -/

/-- A word is written in the same way in a secured session as outside it, where each of its fields is. -/
theorem State.writeWord_secured {src : Src} {off value : Nat} (h8 : off ≠ 8) (hc : off ≠ 0xEF8)
    (hf : ∀ (t : State) (f : Field), f ∈ wordTargets u.blk off →
      t.writeField src secured u f off 0xFFFF_FFFF value = t.writeField src false u f off 0xFFFF_FFFF value) :
    s.writeWord src secured u off 0xFFFF_FFFF value = s.writeWord src false u off 0xFFFF_FFFF value := by
  unfold State.writeWord
  rw [if_neg h8, if_neg hc, if_neg h8, if_neg hc]
  unfold wordTargets at hf
  dsimp only at hf ⊢
  refine List.foldl_ext _ _ _ fun r f hmem => ?_
  rw [hf r.1 f hmem]

theorem State.writeField_unowned (src : Src) {f : Field} (hf : f.mgmtOnly = false) (off mask value : Nat) :
    s.writeField src secured u f off mask value = s.writeField src false u f off mask value := by
  have free (b : Bool) : s.mgmtRefuses src b u f = none := if_pos (by simp [hf])
  unfold State.writeField
  rw [free secured, free false]

theorem State.writeField_readOnly (src : Src) {f : Field} (hf : f.acc = .ro ∨ f.acc = .rc) (off mask value : Nat) :
    s.writeField src secured u f off mask value = (s, .ignored) := by
  unfold State.writeField
  dsimp only
  split
  · rfl
  · split
    · rfl
    · rcases hf with h | h <;> rw [h]

variable {s}

/-! ## REG_WRITE -/

theorem completion_ignored (n : Nat) : completion (List.replicate n .ignored) = 1 := by simp [completion]

section
variable (hu : u.valid = true) {t : State} (he : s.endpoint = true) (ht : t = (s.count mgtU 2 1).count mgtU 3 1)
include he ht

theorem State.served_endpoint (k : State → State) : s.served k = k t := (if_pos he).trans (congrArg k ht.symm)

variable (hw : t.mayWrite .mgmt u = true)
include hu hw

theorem execRegWrite_word {off : Nat} (ho : off < 4096) (h4 : off % 4 = 0) (v : Nat) : exec (.regWrite u.page off (2 ^ 32 - 1) v secured) s =
    .next (((t.writeWord .mgmt secured u off (0xFFFF_FFFF) (v % 2 ^ 32)).1.accessEnds u off 4
      (t.writeWord .mgmt secured u off (0xFFFF_FFFF) (v % 2 ^ 32)).2).respond
        [completion (t.writeWord .mgmt secured u off (0xFFFF_FFFF) (v % 2 ^ 32)).2]) := by
  refine congrArg _ ((State.served_endpoint he ht _).trans ?_)
  rw [unitOfPage_page hu]
  exact if_neg (by simp [h4, ho, hw])

theorem execRegWrite_irqEnable (v : Nat) :
    exec (.regWrite u.page 0x14 (2 ^ 32 - 1) v secured) s = .next ((t.irqEnableTo u (v % 2 ^ 32)).respond [0]) := by
  have unowned (x : State) (f : Field) (hf : f ∈ wordTargets u.blk 0x14) : f.mgmtOnly = false := by
    rw [wordTargets_irqEnable, List.mem_singleton] at hf
    rw [hf]
    rfl
  have word : t.writeWord .mgmt secured u 0x14 0xFFFF_FFFF (v % 2 ^ 32) = (t.irqEnableTo u (v % 2 ^ 32), [.ok]) := by
    rw [State.writeWord_secured t secured (by decide) (by decide) (fun x f hf => State.writeField_unowned x secured .mgmt (unowned x f hf) ..),
      State.writeWord_single t .mgmt (by decide) (by decide) (wordTargets_irqEnable u.blk), State.writeField_irqEnable]
  rw [execRegWrite_word secured hu he ht hw (by decide) (by decide), word]
  exact congrArg (fun x : State => Host.Outcome.next (x.respond [0])) (State.accessEnds_plain _ u _ _ rfl rfl)

theorem execRegWrite_status (v : Nat) : exec (.regWrite u.page 0xC (2 ^ 32 - 1) v secured) s = .next (t.respond [1]) := by
  have word : t.writeWord .mgmt secured u 0xC 0xFFFF_FFFF (v % 2 ^ 32) = (t, List.replicate (wordTargets u.blk 0xC).length .ignored) := by
    have reads (x : State) (b : Bool) (f : Field) (hf : f ∈ wordTargets u.blk 0xC) : x.writeField .mgmt b u f 0xC 0xFFFF_FFFF (v % 2 ^ 32) =
        (x, .ignored) := State.writeField_readOnly x b .mgmt (wordTargets_status u.blk f hf) ..
    rw [State.writeWord_secured t secured (by decide) (by decide) (fun x f hf => (reads x secured f hf).trans (reads x false f hf).symm)]
    exact State.writeWord_readOnly t .mgmt (by decide) (by decide) (wordTargets_status u.blk) _
  rw [execRegWrite_word secured hu he ht hw (by decide) (by decide), word, completion_ignored]
  exact congrArg (fun x : State => Host.Outcome.next (x.respond [1])) (State.accessEnds_plain t u _ _ (by simp) (by simp))

end

/-! ## REG_READ -/

theorem State.pageWord_irqEnable (s : State) (u : UnitId) : s.pageWord u 0x14 = s.get u Reg.common.irqEnable := by
  have hf : Reg.common.all.flatMap (fun f => f.instances 0x14) = [Reg.common.irqEnable] := by decide
  have hp : Reg.common.irqEnable.part 0x14 = (0, 0, 32) := by decide
  rw [State.pageWord_common s u (by decide), hf, List.foldl_cons, List.foldl_nil, hp,
    State.readField_common s u (by decide) (by decide) (by decide) (by decide)]
  exact (Nat.zero_add _).trans ((Nat.mul_one _).trans (bits_of_lt (State.get_lt s u Reg.common.irqEnable)))

/-- The management port reads every page that it may write. -/
theorem State.mayRead_of_mayWrite {t : State} (h : t.mayWrite .mgmt u = true) : t.mayRead .mgmt u = true := h

section
variable {t : State} (he : s.endpoint = true) (ht : t = (s.count mgtU 2 1).count mgtU 3 1)
include he ht

theorem execRegRead_tooMany {count : Nat} (h : 16 < count) (page off : Nat) : exec (.regRead page off count) s = .next (t.respond []) := by
  refine congrArg Host.Outcome.next ((State.served_endpoint he ht _).trans ?_)
  exact if_pos (.inr h)

theorem execRegRead_irqEnable (hu : u.valid = true) (hw : t.mayWrite .mgmt u = true) :
    exec (.regRead u.page 0x14 1) s = .next ((t.readSide .mgmt u 0x14).respond [t.get u Reg.common.irqEnable]) := by
  refine congrArg Host.Outcome.next ((State.served_endpoint he ht _).trans ?_)
  have word : t.readWords .mgmt u.page 0x14 1 = ([t.get u Reg.common.irqEnable], t.readSide .mgmt u 0x14) := by
    unfold State.readWords State.readWords
    rw [State.readWord_page t .mgmt hu (State.mayRead_of_mayWrite hw) (by decide), State.pageWord_irqEnable]
  dsimp only
  rw [if_neg (by decide), word]

end

end

/-- Settles O21, by the word that a management access reaches. -/
theorem managementReadsAndWritesRegisters : Obligations.ManagementReadsAndWritesRegisters :=
  fun _ _ v secured he _ hu _ hw => ⟨execRegWrite_irqEnable secured hu he rfl hw v, execRegWrite_status secured hu he rfl hw v,
    execRegRead_irqEnable he rfl hu hw, fun _ h => execRegRead_tooMany he rfl h _ _⟩

end Sys2Proof.Machine
end

section
/-!
SUPPORT. Spares replace units, and the Discard takes entries (R572, R574, R576).
-/
namespace Sys2Proof.Machine

/-! ## Interrupts leave STATUS.STATE of whatever page -/

section
variable (s : State) (u : UnitId)

/-- The pending words of the MSI-X tables are the first words of their pages for the vectors of reports, and STATUS is the fourth. -/
theorem State.sendVector_ustate (vf : Option Nat) {v : Nat} (hv : v < 32) : (s.sendVector vf v).ustate u = s.ustate u := by
  unfold State.sendVector
  split
  · dsimp only
    have apart : (fieldPos u.base Reg.common.state).1 ≠ msixBase vf + 0xC000 + v / 32 * 4 := by
      unfold UnitId.base fieldPos
      cases vf <;> simp only [msixBase, winBase, Reg.common.state] <;> omega
    have one : fieldSpan u.base Reg.common.state = 1 := fieldSpan_base u.page _
    unfold State.ustate State.get State.getAt
    change bits (State.words _ (fieldPos u.base Reg.common.state).1 (fieldSpan u.base Reg.common.state)) _ _ =
      bits (State.words _ (fieldPos u.base Reg.common.state).1 (fieldSpan u.base Reg.common.state)) _ _
    rw [one, State.words_congr 1 s]
    exact fun i hi => State.word_setWord_other s _ (by omega)
  · exact State.get_of_regs (by rfl) u _

theorem State.put_irqStatus_ustate (w : UnitId) (x : Nat) : (s.put w Reg.common.irqStatus x).ustate u = s.ustate u :=
  State.put_ustate s x (by decide) (by decide)

theorem State.msix_ustate (vf : Option Nat) {v : Nat} (hv : v < 32) : (s.msix vf v).ustate u = s.ustate u := by
  unfold State.msix
  dsimp only
  split
  · exact State.sendVector_ustate s u vf hv
  · split
    · rw [State.put_irqStatus_ustate, State.sendVector_ustate s u vf hv]
    · rw [State.sendVector_ustate _ u none (by decide), State.put_irqStatus_ustate, State.sendVector_ustate s u vf hv]

theorem State.irq_ustate (w : UnitId) (m : Nat) : (s.irq w m).ustate u = s.ustate u := by
  have page (t : State) : (t.pageInterrupt w).ustate u = t.ustate u := by
    unfold State.pageInterrupt
    dsimp only
    split
    · split
      · rw [State.msix_ustate _ u _ (by decide), State.msix_ustate _ u _ (by decide)]
      · exact State.msix_ustate t u _ (by decide)
    · exact State.msix_ustate t u _ (by decide)
  unfold State.irq
  dsimp only
  split
  · exact State.put_irqStatus_ustate s u w _
  · rw [page, State.put_irqStatus_ustate]

theorem State.count_ustate (w : UnitId) (k n : Nat) : (s.count w k n).ustate u = s.ustate u := by
  unfold State.count
  dsimp only
  split
  · exact State.get_of_regs (by rfl) u _
  · exact (State.irq_ustate _ u w _).trans (State.get_of_regs (by rfl) u _)

/-- A state of a unit that is set is its state, whatever page it names. -/
theorem State.setState_ustate_any {st : Nat} (h : st < 8) : (s.setState u st).ustate u = st := by
  unfold State.setState
  split
  · assumption
  · rw [State.irq_ustate]
    exact (State.get_put_same s u Reg.common.state st).trans (Nat.mod_eq_of_lt h)

theorem State.setState_onlySignals (st : Nat) : s.OnlySignals (s.setState u st) := by
  unfold State.setState
  split
  · exact .refl s
  · exact (State.put_onlySignals s u _ st).trans (State.irq_onlySignals _ u 1)

end

/-! ## Remaps (R574) -/

section
variable {s : State} {r : RemapRec} {rest : List RemapRec} (h : s.talon.remaps = r :: rest)
include h

theorem execSpareReady_first (hs : r.stage = .starting) {i : Nat} (hi : r.spare = some i) :
    exec (.spareReady ⟨r.retiring.blk, i⟩) s = .next (s.commitRemap r) := by
  have found : s.talon.remaps.find? (fun x => x.retiring.blk == r.retiring.blk && x.spare == some i && x.stage == .starting) = some r := by
    rw [h]
    exact List.find?_cons_of_pos (by simp [hs, hi])
  exact congrArg (fun o => Host.Outcome.next (match o with | none => s | some x => s.commitRemap x)) found

/-- What the first remap of the list makes of an apply at its unit. -/
theorem State.remapGoes_first : s.remapGoes r.retiring = match r.stage with
    | .starting => s
    | .ready => s.commitRemap r
    | .committed => if (r.retiring.blk == .tbl || r.retiring.blk == .mem) && r.spare.isSome then s
      else if s.faulted r.retiring || s.drained r.retiring then s.applyRemap r else s := by
  have found : s.talon.remaps.find? (fun x => x.retiring == r.retiring) = some r := by
    rw [h]
    exact List.find?_cons_of_pos (by simp)
  unfold State.remapGoes
  rw [found] <;> rfl

theorem State.remapGoes_starting (hs : r.stage = .starting) : s.remapGoes r.retiring = s := by rw [State.remapGoes_first h, hs]

theorem State.remapGoes_ready (hs : r.stage = .ready) : s.remapGoes r.retiring = s.commitRemap r := by rw [State.remapGoes_first h, hs]

theorem State.remapGoes_bank (hs : r.stage = .committed) (hb : r.retiring.blk = .tbl ∨ r.retiring.blk = .mem) (hp : r.spare.isSome = true) :
    s.remapGoes r.retiring = s := by
  rw [State.remapGoes_first h, hs]
  exact if_pos (by simpa [hp] using hb)

/-- A committed remap that waits for its unit: one of a unit that is no bank, or of a bank without a spare. -/
theorem State.remapGoes_committed (hs : r.stage = .committed) (hb : ¬(r.retiring.blk = .tbl ∨ r.retiring.blk = .mem) ∨ r.spare = none) :
    s.remapGoes r.retiring = if s.faulted r.retiring || s.drained r.retiring then s.applyRemap r else s := by
  rw [State.remapGoes_first h, hs]
  refine if_neg ?_
  rcases hb with hb | hb
  · simp only [Bool.and_eq_true, Bool.or_eq_true, beq_iff_eq]
    exact fun c => hb c.1
  · simp [hb]

theorem State.remapGoes_stands (hs : r.stage = .committed) (hb : ¬(r.retiring.blk = .tbl ∨ r.retiring.blk = .mem) ∨ r.spare = none)
    (hd : s.faulted r.retiring = true ∨ s.drained r.retiring = true) : s.remapGoes r.retiring = s.applyRemap r :=
  (State.remapGoes_committed h hs hb).trans (if_pos (by simpa using hd))

theorem State.remapGoes_works (hs : r.stage = .committed) (hb : ¬(r.retiring.blk = .tbl ∨ r.retiring.blk = .mem) ∨ r.spare = none)
    (hf : s.faulted r.retiring = false) (hd : s.drained r.retiring = false) : s.remapGoes r.retiring = s :=
  (State.remapGoes_committed h hs hb).trans (if_neg (by simp [hf, hd]))

end

section
variable {s : State} {u : UnitId}

theorem execRemapApply_bank (hb : u.blk = .tbl ∨ u.blk = .mem) : exec (.remapApply u) s = .next (s.remapGoes u).goesOn := congrArg _ (if_pos hb)

theorem execRemapApply_other (hb : ¬(u.blk = .tbl ∨ u.blk = .mem)) : exec (.remapApply u) s = .next (s.remapGoes u) := congrArg _ (if_neg hb)

theorem State.commitRemap_open (h : s.txn.isSome = true) (r : RemapRec) : (s.commitRemap r).regs = s.regs ∧ (s.commitRemap r).units = s.units := by
  rw [State.commitRemap, if_pos h]
  exact ⟨rfl, rfl⟩

/-! ## A unit that does not drain in time (R576) -/

variable (s u) in
/-- The MCC forces a unit, and counts it. -/
def State.mccForced : State := (s.setUnit u (fun x => { x with mccForce := true })).count ctuU 3 1

theorem State.mccForced_unit : ((s.mccForced u).unit u).mccForce = true := by
  have units : (s.mccForced u).units = (s.setUnit u (fun x => { x with mccForce := true })).units := by
    rw [State.mccForced, State.count_onlySignals _ ctuU 3 1]
    rfl
  rw [State.unit, units]
  exact congrArg UnitRec.mccForce (State.setUnit_same s u _)

theorem State.mccForced_ustate : (s.mccForced u).ustate u = s.ustate u :=
  (State.count_ustate _ u ctuU 3 1).trans (State.get_of_regs (by rfl) u Reg.common.state)

theorem State.mccForced_mem : (s.mccForced u).mem = s.mem := (State.count_onlySignals _ ctuU 3 1).mem

/-- A forced unit that ran drains. -/
def State.mccDrains (s : State) (u : UnitId) : State :=
  if (s.mccForced u).ustate u = stRunning then (s.mccForced u).setState u stDraining else s.mccForced u

theorem State.mccDrains_onlySignals : (s.mccForced u).OnlySignals (s.mccDrains u) := by
  unfold State.mccDrains
  split
  · exact State.setState_onlySignals _ u _
  · exact .refl _

theorem State.mccDrains_unit : ((s.mccDrains u).unit u).mccForce = true := by
  have units : (s.mccDrains u).units = (s.mccForced u).units := by
    rw [State.mccDrains_onlySignals]
    rfl
  rw [State.unit, units]
  exact State.mccForced_unit

theorem State.mccDrains_running (h : s.ustate u = stRunning) : (s.mccDrains u).ustate u = stDraining := by
  rw [State.mccDrains, if_pos (State.mccForced_ustate.trans h)]
  exact State.setState_ustate_any _ u (by decide)

section
variable {r : RemapRec} {rest : List RemapRec} (h : s.talon.remaps = r :: rest) (hs : r.stage = .committed)
include h hs

theorem execRemapDrainTimeout_first : exec (.remapDrainTimeout r.retiring) s =
    .next (if s.drained r.retiring || (s.unit r.retiring).mccForce then s else s.mccDrains r.retiring) := by
  have found : s.talon.remaps.find? (fun x => x.retiring == r.retiring && x.stage == .committed) = some r := by
    rw [h]
    exact List.find?_cons_of_pos (by simp [hs])
  exact congrArg (fun o : Option RemapRec => Host.Outcome.next (match o with
    | none => s
    | some _ => if s.drained r.retiring || (s.unit r.retiring).mccForce then s else s.mccDrains r.retiring)) found

theorem execRemapDrainTimeout_done (hd : s.drained r.retiring = true ∨ (s.unit r.retiring).mccForce = true) :
    exec (.remapDrainTimeout r.retiring) s = .next s := (execRemapDrainTimeout_first h hs).trans (congrArg _ (if_pos (by simpa using hd)))

theorem execRemapDrainTimeout_forces (hd : s.drained r.retiring = false) (hf : (s.unit r.retiring).mccForce = false) :
    exec (.remapDrainTimeout r.retiring) s = .next (s.mccDrains r.retiring) :=
  (execRemapDrainTimeout_first h hs).trans (congrArg _ (if_neg (by simp [hd, hf])))

end

end

/-! ## The Discard (R572) -/

theorem execDiscardProgrammed_oldest {s : State} {e : DiscardEnt} {q : List DiscardEnt} (h : s.talon.programming = e :: q) :
    exec .discardProgrammed s = .next { s with talon := { s.talon with discard := s.talon.discard ++ [e], programming := q } } := by
  change Host.Outcome.next (match s.talon.programming with | [] => s | e :: r => _) = _
  rw [h]

theorem execDiscardProgrammed_none {s : State} (h : s.talon.programming = []) : exec .discardProgrammed s = .next s := by
  change Host.Outcome.next (match s.talon.programming with | [] => s | e :: r => _) = _
  rw [h]

/-- Settles O53, by the first remap's stage. -/
theorem sparesReplaceUnits : Obligations.SparesReplaceUnits := by
  intro s r rest h bank
  have apply {t : State} (ht : s.remapGoes r.retiring = t) : exec (.remapApply r.retiring) s = .next (if bank then t.goesOn else t) := by
    by_cases hb : bank
    · rw [execRemapApply_bank hb, ht, if_pos hb]
    · rw [execRemapApply_other hb, ht, if_neg hb]
  refine ⟨fun i hs => execSpareReady_first h hs, fun hs => apply (State.remapGoes_starting h hs), fun hs => apply (State.remapGoes_ready h hs),
    fun hs hb ht => ⟨_, (apply (State.remapGoes_ready h hs)).trans (congrArg _ (if_neg hb)), State.commitRemap_open ht r⟩,
    fun hs hb hp => (apply (State.remapGoes_bank h hs hb hp)).trans (congrArg _ (if_pos hb)),
    fun hs hb hp => ⟨fun hd => (apply (State.remapGoes_stands h hs (.inr hp) hd)).trans (congrArg _ (if_pos hb)),
      fun hf hd => (apply (State.remapGoes_works h hs (.inr hp) hf hd)).trans (congrArg _ (if_pos hb))⟩,
    fun hs hb => ⟨fun hd => (apply (State.remapGoes_stands h hs (.inl hb) hd)).trans (congrArg _ (if_neg hb)),
      fun hf hd => (apply (State.remapGoes_works h hs (.inl hb) hf hd)).trans (congrArg _ (if_neg hb))⟩,
    execRemapDrainTimeout_done h, fun hs hd hf => ⟨_, execRemapDrainTimeout_forces h hs hd hf, State.mccDrains_unit,
      State.mccDrains_onlySignals.mem.trans State.mccForced_mem, State.mccDrains_running⟩,
    fun e q hp => ⟨_, execDiscardProgrammed_oldest hp, rfl, rfl, rfl, rfl⟩, execDiscardProgrammed_none⟩

end Sys2Proof.Machine
end

section
/-!
SUPPORT. Transactions open, commit, apply, abort and fence (R578 to R582, R604).
-/
namespace Sys2Proof.Machine

/-- What each step of a fold keeps, the fold keeps. -/
theorem foldl_keeps_value {α β γ : Type} (g : β → γ) {f : β → α → β} : ∀ {l : List α}, (∀ b, ∀ a ∈ l, g (f b a) = g b) → ∀ b, g (l.foldl f b) = g b
  | [], _, _ => rfl
  | a :: l, h, b => by
    rw [List.foldl_cons, foldl_keeps_value g (fun b c hc => h b c (List.mem_cons_of_mem _ hc)), h b a (List.mem_cons_self ..)]

theorem State.OnlySignals.txn {s t : State} (h : s.OnlySignals t) : t.txn = s.txn := by rw [h]; rfl

theorem State.OnlySignals.txnNextId {s t : State} (h : s.OnlySignals t) : t.txnNextId = s.txnNextId := by rw [h]; rfl

/-! ## Opening (R578, R579) -/

section
variable {s : State} {src : Src}

theorem execOpenTxn_vf (h : notVf src = false) : exec (.openTxn src) s = .next s := congrArg _ (if_pos (by simp [h]))

section
variable (h : notVf src = true)
include h

theorem execOpenTxn_second (ht : s.txn.isSome = true) : exec (.openTxn src) s = .next (s.txnSays 0 1) :=
  congrArg _ ((if_neg (by simp [h])).trans (if_pos ht))

theorem execOpenTxn_kind (ht : s.txn = none) (hk : s.kindAllowed (s.get ctuU Reg.ctu.txnKind) = false) :
    exec (.openTxn src) s = .next (s.txnSays 0 2) :=
  congrArg _ ((if_neg (by simp [h])).trans ((if_neg (by simp [ht])).trans (if_pos (by simp [hk]))))

end

/-- The transaction that an open makes, from its opener and its kind. -/
def State.freshTxn (s : State) (src : Src) : TxnRec :=
  { opener := src, kind := s.get ctuU Reg.ctu.txnKind,
    partMask := if s.get ctuU Reg.ctu.txnKind = 4 then s.get ctuU Reg.ctu.txnPartMask else 0 }

/-- The state with the fresh transaction, its registers not yet written. -/
def State.withFresh (s : State) (src : Src) : State := { s with txnNextId := (s.txnNextId + 1) % 65536, txn := some (s.freshTxn src) }

/-- An open transaction on the CTU's page. -/
def State.showTxn (s : State) (src : Src) (id : Nat) : State :=
  ((s.put ctuU Reg.ctu.txnId id).put ctuU Reg.ctu.txnState 1).put ctuU Reg.ctu.txnOpener (openerCode src)

/-- The partitions of a mask begin to fence. -/
def State.fenceParts (s : State) (ps : List Nat) : State := ps.foldl (fun t p => t.setPart p (fun r => { r with fencing := true })) s

/-- From s to t what a transaction shows stays: fences, freezes and a wake touch none of it. -/
structure State.SameTxn (s t : State) : Prop where
  regs : t.regs = s.regs
  mem : t.mem = s.mem
  txn : t.txn = s.txn
  nextId : t.txnNextId = s.txnNextId

theorem State.SameTxn.trans {s t v : State} (h : s.SameTxn t) (k : t.SameTxn v) : s.SameTxn v :=
  ⟨k.regs.trans h.regs, k.mem.trans h.mem, k.txn.trans h.txn, k.nextId.trans h.nextId⟩

theorem State.foldl_sameTxn {α : Type} {f : State → α → State} (hf : ∀ (t : State) a, t.SameTxn (f t a)) : ∀ (l : List α) (s : State), s.SameTxn (l.foldl f s)
  | [], _ => ⟨rfl, rfl, rfl, rfl⟩
  | a :: l, s => (hf s a).trans (State.foldl_sameTxn hf l (f s a))

theorem State.fenceParts_sameTxn (s : State) (ps : List Nat) : s.SameTxn (s.fenceParts ps) :=
  State.foldl_sameTxn (f := fun t p => t.setPart p (fun r => { r with fencing := true })) (fun _ _ => ⟨rfl, rfl, rfl, rfl⟩) ps s

theorem State.rouse_sameTxn (s : State) : s.SameTxn s.rouse := by
  unfold State.rouse
  split <;> exact ⟨rfl, rfl, rfl, rfl⟩

/-- A transaction that has opened. -/
def State.opened (s : State) (src : Src) : State :=
  (((s.withFresh src).showTxn src s.txnNextId).fenceParts (maskParts (s.freshTxn src).partMask)).rouse

theorem execOpenTxn_opens (h : notVf src = true) (ht : s.txn = none) (hk : s.kindAllowed (s.get ctuU Reg.ctu.txnKind) = true) :
    exec (.openTxn src) s = .next (s.opened src) :=
  congrArg _ ((if_neg (by simp [h])).trans ((if_neg (by simp [ht])).trans (if_neg (by simp [hk]))))

theorem State.opened_sameTxn : ((s.withFresh src).showTxn src s.txnNextId).SameTxn (s.opened src) :=
  (State.fenceParts_sameTxn _ _).trans (State.rouse_sameTxn _)

theorem State.opened_get (u : UnitId) (f : Field) : (s.opened src).get u f = ((s.withFresh src).showTxn src s.txnNextId).get u f :=
  State.get_of_regs State.opened_sameTxn.regs u f

theorem State.showTxn_onlySignals (id : Nat) : s.OnlySignals (s.showTxn src id) :=
  ((State.put_onlySignals s _ _ _).trans (State.put_onlySignals _ _ _ _)).trans (State.put_onlySignals _ _ _ _)

theorem State.opened_mem : (s.opened src).mem = s.mem :=
  State.opened_sameTxn.mem.trans (State.showTxn_onlySignals (s := s.withFresh src) _).mem

theorem State.opened_txn : (s.opened src).txn = some (s.freshTxn src) :=
  State.opened_sameTxn.txn.trans (State.showTxn_onlySignals (s := s.withFresh src) _).txn

theorem State.opened_txnNextId : (s.opened src).txnNextId = (s.txnNextId + 1) % 65536 :=
  State.opened_sameTxn.nextId.trans (State.showTxn_onlySignals (s := s.withFresh src) _).txnNextId

theorem State.opened_txnState : (s.opened src).get ctuU Reg.ctu.txnState = 1 := by
  rw [State.opened_get, State.showTxn, State.get_put_apart _ _ _ _ _ _ (by decide) (by decide) (by decide), State.get_put_same]
  rfl

theorem State.opened_txnId : (s.opened src).get ctuU Reg.ctu.txnId = s.txnNextId % 65536 := by
  rw [State.opened_get, State.showTxn, State.get_put_apart _ _ _ _ _ _ (by decide) (by decide) (by decide),
    State.get_put_apart _ _ _ _ _ _ (by decide) (by decide) (by decide), State.get_put_same]
  rfl

end

/-! ## Without a transaction -/

section
variable {s : State} {src : Src}

section
variable (h : s.txn = none)
include h

theorem State.abortTxn_none (reason : Nat) (at' : Option (Nat × Nat)) : s.abortTxn reason at' = s := by rw [State.abortTxn, h]

theorem exec_noTxn : ∀ c ∈ [Instr.commit src, .abort src, .txnApply, .breakTimeout, .txnTimeout], exec c s = .next s := by
  have none_of (k : TxnRec → State) : (match s.txn with | none => s | some t => k t) = s := by rw [h]
  simp only [List.mem_cons, List.not_mem_nil, or_false, forall_eq_or_imp, forall_eq]
  exact ⟨congrArg _ (none_of _), congrArg _ (none_of _), congrArg _ (none_of _), congrArg _ (none_of _), congrArg _ (State.abortTxn_none h 10 none)⟩

end

/-! ## The open transaction (R578, R580) -/

section
variable {t : TxnRec} (h : s.txn = some t)
include h

theorem execCommit_refused (hr : t.opener ≠ src ∨ t.applying = true) : exec (.commit src) s = .next s := by
  change execCommit src s = _
  unfold execCommit
  rw [h]
  exact congrArg _ (if_pos hr)

theorem execAbort_some : exec (.abort src) s = .next (if t.opener ≠ src then s else s.abortTxn 9 none) := by
  change execAbort src s = _
  rw [execAbort, h]

theorem execTxnApply_some : exec .txnApply s = .next (if t.applying && s.txnReady t then s.applyTxn t else s) := by
  change execTxnApply s = _
  rw [execTxnApply, h]

theorem execBreakTimeout_some : exec .breakTimeout s = .next (if t.applying && !s.txnReady t then s.abortTxn 6 none else s) := by
  change execBreakTimeout s = _
  rw [execBreakTimeout, h]

theorem execCommit_foreign (ho : t.opener ≠ src) : exec (.commit src) s = .next s ∧ exec (.abort src) s = .next s :=
  ⟨execCommit_refused h (.inl ho), (execAbort_some h).trans (congrArg _ (if_pos ho))⟩

theorem execAbort_opener (ho : t.opener = src) : exec (.abort src) s = .next (s.abortTxn 9 none) :=
  (execAbort_some h).trans (congrArg _ (if_neg (not_not_intro ho)))

theorem execTxn_ready (ha : t.applying = true) (hr : s.txnReady t = true) :
    exec .txnApply s = .next (s.applyTxn t) ∧ exec .breakTimeout s = .next s :=
  ⟨(execTxnApply_some h).trans (congrArg _ (if_pos (by simp [ha, hr]))), (execBreakTimeout_some h).trans (congrArg _ (if_neg (by simp [hr])))⟩

theorem execTxn_unready (ha : t.applying = true) (hr : s.txnReady t = false) :
    exec .txnApply s = .next s ∧ exec .breakTimeout s = .next (s.abortTxn 6 none) :=
  ⟨(execTxnApply_some h).trans (congrArg _ (if_neg (by simp [hr]))), (execBreakTimeout_some h).trans (congrArg _ (if_pos (by simp [ha, hr])))⟩

variable (ho : t.opener = src) (ha : t.applying = false)
include ho ha

theorem execCommit_invalid {r : Nat × Option (Nat × Nat)} (hr : s.txnBad t = some r) : exec (.commit src) s = .next (s.abortTxn r.1 r.2) := by
  change execCommit src s = _
  unfold execCommit
  rw [h]
  dsimp only
  rw [if_neg (by simp [ho, ha]), hr]

end

/-! ## A commit freezes units (R580) -/

/-- The MCC freezes units. -/
def State.freezeUnits (s : State) (us : List UnitId) : State := us.foldl (fun x u => x.setUnit u (fun y => { y with mccFreeze := true })) s

theorem State.freezeUnits_sameTxn (us : List UnitId) : s.SameTxn (s.freezeUnits us) :=
  State.foldl_sameTxn (f := fun x u => x.setUnit u (fun y => { y with mccFreeze := true })) (fun _ _ => ⟨rfl, rfl, rfl, rfl⟩) us s

theorem State.setUnit_frozen {u w : UnitId} {s : State} (h : w.page = u.page ∨ (s.unit u).mccFreeze = true) :
    ((s.setUnit w (fun y => { y with mccFreeze := true })).unit u).mccFreeze = true := by
  rw [State.setUnit_unit]
  split
  · rfl
  · next ne => exact h.resolve_left fun e => ne e.symm

theorem State.freezeUnits_cons (s : State) (w : UnitId) (us : List UnitId) :
    s.freezeUnits (w :: us) = (s.setUnit w (fun y => { y with mccFreeze := true })).freezeUnits us := rfl

theorem State.freezeUnits_stays {u : UnitId} (us : List UnitId) :
    ∀ {s : State}, (s.unit u).mccFreeze = true → ((s.freezeUnits us).unit u).mccFreeze = true := by
  induction us with
  | nil => exact fun h => h
  | cons w us ih =>
    intro s h
    rw [State.freezeUnits_cons]
    exact ih (State.setUnit_frozen (.inr h))

theorem State.freezeUnits_frozen {u : UnitId} {us : List UnitId} : ∀ {s : State}, u ∈ us → ((s.freezeUnits us).unit u).mccFreeze = true := by
  induction us with
  | nil => exact fun h => absurd h List.not_mem_nil
  | cons w us ih =>
    intro s h
    rw [State.freezeUnits_cons]
    rcases List.mem_cons.mp h with e | h
    · exact State.freezeUnits_stays us (State.setUnit_frozen (.inl (congrArg UnitId.page e.symm)))
    · exact ih h

/-- A transaction that is validated. -/
def State.validated (s : State) (t : TxnRec) : State :=
  ({ s with txn := some { t with applying := true } } : State).put ctuU Reg.ctu.txnState 3

theorem execCommit_valid {t : TxnRec} (h : s.txn = some t) (ho : t.opener = src) (ha : t.applying = false) (hb : s.txnBad t = none) :
    exec (.commit src) s = .next ((s.validated t).freezeUnits t.frozen) := by
  change execCommit src s = _
  unfold execCommit
  rw [h]
  dsimp only
  rw [if_neg (by simp [ho, ha]), hb]
  rfl

/-! ## A transaction's own timeout (R604) -/

theorem dlr_ctu_home {f g : Field} (hf : f.reach = .wide) (hg : g.reach = .page) : dlrU.home f ≠ ctuU.home g := by
  unfold UnitId.home
  rw [hf, hg]
  decide

/-- The end of a transaction that no commit has reached. -/
theorem State.closeTxn_uncommitted {t : TxnRec} (ha : t.applying = false) : s.closeTxn t =
    (maskParts t.partMask).foldl (fun x p => if (x.setPart p (fun r => { r with fencing := false })).pstate p = 3
      then (x.setPart p (fun r => { r with fencing := false })).freePstate p else x.setPart p (fun r => { r with fencing := false }))
        (({ s with txn := none } : State).put ctuU Reg.ctu.txnState 0) := by
  unfold State.closeTxn
  dsimp only
  rw [ha]
  rfl

theorem partPstate_within {m p : Nat} (hp : p ∈ maskParts m) : fieldWithin (Reg.dlr.partPstate.at p) = true := by
  have bound : ∀ q < 8, fieldWithin (Reg.dlr.partPstate.at q) = true := by decide
  exact bound p (List.mem_range.mp (List.mem_filter.mp hp).1)

theorem State.closeTxn_state {t : TxnRec} (ha : t.applying = false) :
    (s.closeTxn t).get ctuU Reg.ctu.txnState = 0 ∧ (s.closeTxn t).txn = none := by
  rw [State.closeTxn_uncommitted ha]
  constructor
  · refine (foldl_keeps_value (fun x : State => x.get ctuU Reg.ctu.txnState) (fun x p hp => ?_) _).trans (State.get_put_same ..)
    split
    · exact (State.get_put_page _ _ _ _ _ _ (dlr_ctu_home rfl rfl) (partPstate_within hp) (by decide)).trans (State.setPart_get ..)
    · exact State.setPart_get ..
  · refine (foldl_keeps_value State.txn (fun x p hp => ?_) _).trans (State.put_txn ..)
    split
    · exact (State.put_txn ..).trans rfl
    · rfl

/-- Before its commit, a transaction that is out of time aborts with reason 10, which is no reason of validation. -/
theorem State.abortTxn_outOfTime {t : TxnRec} (h : s.txn = some t) :
    s.abortTxn 10 none = (((s.closeTxn t).count ctuU 1 1).txnSet 0 10 0 0).irq ctuU (2 ^ 17) := by
  rw [State.abortTxn, h]
  rfl

theorem State.txnSet_writes (result reason page off : Nat) :
    s.Writes [Reg.ctu.txnResult, Reg.ctu.txnReason, Reg.ctu.txnFailPage, Reg.ctu.txnFailOffset] (s.txnSet result reason page off) :=
  ((((State.Writes.refl s).put _ (by decide) (by decide) _).put _ (by decide) (by decide) _).put _ (by decide) (by decide) _).put _
    (by decide) (by decide) _

theorem State.Writes.txn {L : List Field} {s t : State} (h : s.Writes L t) : t.txn = s.txn := by rw [h.rest]; rfl

theorem State.txnSet_result (result reason page off : Nat) : (s.txnSet result reason page off).get ctuU Reg.ctu.txnResult = result % 2 ∧
    (s.txnSet result reason page off).get ctuU Reg.ctu.txnReason = reason % 256 := by
  unfold State.txnSet
  constructor
  · rw [State.get_put_apart _ _ _ _ _ _ (by decide) (by decide) (by decide), State.get_put_apart _ _ _ _ _ _ (by decide) (by decide) (by decide),
      State.get_put_apart _ _ _ _ _ _ (by decide) (by decide) (by decide), State.get_put_same]
    rfl
  · rw [State.get_put_apart _ _ _ _ _ _ (by decide) (by decide) (by decide), State.get_put_apart _ _ _ _ _ _ (by decide) (by decide) (by decide),
      State.get_put_same]
    rfl

theorem State.abortTxn_outOfTime_fields {t : TxnRec} (h : s.txn = some t) (ha : t.applying = false) :
    (s.abortTxn 10 none).txn = none ∧ (s.abortTxn 10 none).get ctuU Reg.ctu.txnState = 0 ∧
      (s.abortTxn 10 none).get ctuU Reg.ctu.txnResult = 0 ∧ (s.abortTxn 10 none).get ctuU Reg.ctu.txnReason = 10 := by
  obtain ⟨closed, gone⟩ := State.closeTxn_state (s := s) ha
  have told := State.irq_reports (((s.closeTxn t).count ctuU 1 1).txnSet 0 10 0 0) ctuU (2 ^ 17)
  have counted := State.count_reports (s.closeTxn t) ctuU 1 1
  have written : (s.closeTxn t).Writes _ _ := (counted.writes.trans (State.txnSet_writes 0 10 0 0)).reports told
  rw [State.abortTxn_outOfTime h]
  exact ⟨written.txn.trans gone, (written.get (by decide) (by decide)).trans closed,
    (told.get (by decide) (by decide)).trans (State.txnSet_result 0 10 0 0).1, (told.get (by decide) (by decide)).trans (State.txnSet_result 0 10 0 0).2⟩

/-! ## Fences (R582) -/

theorem execFenced_stands {p : Nat} (hp : p < 8) (hf : (s.part p).fencing = true) (hs : (s.part p).step = none) (h3 : s.pstate p ≠ 3) :
    exec (.fenced p) s = .next (s.put dlrU (Reg.dlr.partPstate.at p) 3) := congrArg _ (if_neg (by simp [hp, hf, hs, h3]))

theorem execFenced_not {p : Nat} (h : (s.part p).fencing = false ∨ (s.part p).step.isSome = true) : exec (.fenced p) s = .next s := by
  refine congrArg _ (if_pos ?_)
  rcases h with h | h <;> simp [h]

end

/-- Settles O54, by the lemma about each command. -/
theorem transactionsRunTheirCourse : Obligations.TransactionsRunTheirCourse := by
  intro s src
  refine ⟨execOpenTxn_vf, execOpenTxn_second, execOpenTxn_kind, fun h ht hk => ⟨_, execOpenTxn_opens h ht hk,
      ⟨_, State.opened_txn, rfl, rfl, rfl, rfl, rfl⟩, State.opened_txnNextId, State.opened_txnId, State.opened_txnState, State.opened_mem⟩,
    exec_noTxn, fun t h => ⟨execCommit_foreign h, execAbort_opener h, fun ho ha => ⟨fun r => execCommit_invalid h ho ha, fun hb => ?valid⟩,
      execTxn_ready h, execTxn_unready h, fun _ => rfl, fun ha => ⟨_, rfl, State.abortTxn_outOfTime_fields h ha⟩⟩,
    fun p hp hf hs h3 => ⟨_, execFenced_stands hp hf hs h3, State.get_put_same .., State.put_mem .., State.put_parts ..⟩, fun p => execFenced_not⟩
  refine ⟨_, execCommit_valid h ho ha hb, ?_, ?_, ?_, fun u hu => State.freezeUnits_frozen hu⟩
  · exact (State.freezeUnits_sameTxn _).txn.trans (State.put_txn ..)
  · exact (State.get_of_regs (State.freezeUnits_sameTxn _).regs ctuU _).trans (State.get_put_same ..)
  · exact (State.freezeUnits_sameTxn _).mem.trans (State.put_mem ..)

end Sys2Proof.Machine
end

section
/-!
SUPPORT. The watchdog, the ticks of SYNC_IN and the reference clock (R519, R567, R615, R619, R620).
-/
namespace Sys2Proof.Machine

/-! ## Reports leave memory and the uptime -/

/-- From s to t memory, the uptime and the time since the last heartbeat stay. -/
structure State.SameUptime (s t : State) : Prop where
  mem : t.mem = s.mem
  upNs : t.mgt.upNs = s.mgt.upNs
  hbNs : t.mgt.hbNs = s.mgt.hbNs

theorem State.SameUptime.refl (s : State) : s.SameUptime s := ⟨rfl, rfl, rfl⟩

theorem State.SameUptime.trans {s t v : State} (h : s.SameUptime t) (k : t.SameUptime v) : s.SameUptime v :=
  ⟨k.mem.trans h.mem, k.upNs.trans h.upNs, k.hbNs.trans h.hbNs⟩

theorem State.OnlySignals.mgt {s t : State} (h : s.OnlySignals t) : t.mgt = s.mgt := by rw [h]; rfl

theorem State.OnlySignals.sameUptime {s t : State} (h : s.OnlySignals t) : s.SameUptime t :=
  ⟨h.mem, congrArg MgtRec.upNs h.mgt, congrArg MgtRec.hbNs h.mgt⟩

section
variable (s : State)

theorem State.put_sameUptime (u : UnitId) (f : Field) (v : Nat) : s.SameUptime (s.put u f v) := (State.put_onlySignals s u f v).sameUptime

theorem State.count_sameUptime (u : UnitId) (k n : Nat) : s.SameUptime (s.count u k n) := (State.count_onlySignals s u k n).sameUptime

theorem State.irq_sameUptime (u : UnitId) (m : Nat) : s.SameUptime (s.irq u m) := (State.irq_onlySignals s u m).sameUptime

theorem State.setWin_sameUptime (p : Nat) (f : Field) (v : Nat) : s.SameUptime (s.setWin p f v) := (State.setWin_onlySignals s p f v).sameUptime

theorem State.shadow_sameUptime (p : Nat) : s.SameUptime (s.shadow p) := (State.shadow_onlySignals s p).sameUptime

theorem State.ringVector_sameUptime (p which : Nat) : s.SameUptime (s.ringVector p which) := (State.ringVector_onlySignals s p which).sameUptime

theorem State.msix_sameUptime (vf : Option Nat) (k : Nat) : s.SameUptime (s.msix vf k) := (State.msix_onlySignals s vf k).sameUptime

theorem State.emit_sameUptime (o : Out) : s.SameUptime (s.emit o) := ⟨rfl, rfl, rfl⟩

theorem State.setPart_sameUptime (p : Nat) (f : PartRec → PartRec) : s.SameUptime (s.setPart p f) := ⟨rfl, rfl, rfl⟩

theorem State.setPwr_sameUptime (f : PwrRec → PwrRec) : s.SameUptime (s.setPwr f) := ⟨rfl, rfl, rfl⟩

theorem State.setMgt_sameUptime {f : MgtRec → MgtRec} (h : (f s.mgt).upNs = s.mgt.upNs) (hb : (f s.mgt).hbNs = s.mgt.hbNs) :
    s.SameUptime (s.setMgt f) := ⟨rfl, h, hb⟩

theorem State.modRing_sameUptime (wait : List EvtRec) (seq lost unsig : Nat) :
    s.SameUptime { s with modWait := wait, modSeq := seq, modLost := lost, modUnsig := unsig } := ⟨rfl, rfl, rfl⟩

theorem State.coal_sameUptime (c : List CoalWin) : s.SameUptime { s with coal := c } := ⟨rfl, rfl, rfl⟩

theorem State.drainEvents_sameUptime (p : Nat) : ∀ (l : List EvtRec) (s : State), s.SameUptime (s.drainEvents p l)
  | [], s => by
    have cleared := State.setPart_sameUptime s p (fun r => { r with evtWait := [] })
    unfold State.drainEvents
    dsimp only
    split
    · exact cleared
    · exact ((cleared.trans (State.setWin_sameUptime ..)).trans (State.shadow_sameUptime ..)).trans (State.ringVector_sameUptime ..)
  | e :: rest, s => by
    have written (o : Out) (i : Nat) : s.SameUptime ((((s.emit o).setWin p Reg.win.evtTail i).shadow p).count hifU 3 1) :=
      (((State.emit_sameUptime s o).trans (State.setWin_sameUptime ..)).trans (State.shadow_sameUptime ..)).trans (State.count_sameUptime ..)
    have waits := State.setPart_sameUptime s p (fun r => { r with evtWait := e :: rest })
    unfold State.drainEvents
    dsimp only
    split
    · refine State.SameUptime.trans ?_ (State.drainEvents_sameUptime p rest _)
      split
      · exact ((written _ _).trans (State.setPart_sameUptime ..)).trans (State.ringVector_sameUptime ..)
      · exact (written _ _).trans (State.setPart_sameUptime ..)
    · split
      · exact (waits.trans (State.setWin_sameUptime ..)).trans (State.shadow_sameUptime ..)
      · exact waits

theorem State.partEvent_sameUptime (p code v0 v1 : Nat) : s.SameUptime (s.partEvent p code v0 v1) := by
  unfold State.partEvent
  split
  · exact .refl s
  · exact (State.setPart_sameUptime s p _).trans (State.drainEvents_sameUptime p _ _)

theorem State.drainModule_sameUptime : ∀ (l : List EvtRec) (s : State), s.SameUptime (s.drainModule l)
  | [], s => State.modRing_sameUptime s [] _ _ _
  | e :: rest, s => by
    have written (o : Out) (i : Nat) : s.SameUptime (((s.emit o).put hifU Reg.hif.mevtTail i).count hifU 3 1) :=
      ((State.emit_sameUptime s o).trans (State.put_sameUptime ..)).trans (State.count_sameUptime ..)
    unfold State.drainModule
    dsimp only
    split
    · refine State.SameUptime.trans ?_ (State.drainModule_sameUptime rest _)
      split
      · exact ((written _ _).trans (State.msix_sameUptime ..)).trans (State.modRing_sameUptime ..)
      · exact (written _ _).trans (State.modRing_sameUptime ..)
    · exact State.modRing_sameUptime s _ _ _ _

theorem State.platformEvent_sameUptime (e : EvtRec) : s.SameUptime (s.platformEvent e) := by
  have told : s.SameUptime (if s.mgt.events.isEmpty then s.emit (.sideband []) else s) := by
    split
    · exact State.emit_sameUptime s _
    · exact .refl s
  have offered (q : List EvtRec) : s.SameUptime ((if s.mgt.events.isEmpty then s.emit (.sideband []) else s).setMgt (fun x => { x with events := q })) :=
    told.trans (State.setMgt_sameUptime _ rfl rfl)
  unfold State.platformEvent
  dsimp only
  split
  · exact .refl s
  · split
    · exact offered _
    · exact (offered _).trans (State.count_sameUptime ..)

theorem State.flushModule_sameUptime : s.SameUptime s.flushModule := by
  have drained := State.drainModule_sameUptime s.modWait s
  unfold State.flushModule
  dsimp only
  split
  · exact ((drained.trans (State.modRing_sameUptime _ _ _ _ _)).trans (State.platformEvent_sameUptime _ _)).trans (State.drainModule_sameUptime _ _)
  · exact drained

theorem State.modEvent_sameUptime (code v0 v1 : Nat) : s.SameUptime (s.modEvent code v0 v1) := by
  have flushed := State.flushModule_sameUptime s
  unfold State.modEvent
  dsimp only
  split
  · exact .refl s
  · split
    · exact ((flushed.trans (State.modRing_sameUptime _ _ _ _ _)).trans (State.platformEvent_sameUptime _ _)).trans (State.drainModule_sameUptime _ _)
    · exact ((flushed.trans (State.modRing_sameUptime _ _ _ _ _)).trans (State.count_sameUptime ..)).trans (State.irq_sameUptime ..)

theorem State.errLog_sameUptime (u : UnitId) (seq code : Nat) : s.SameUptime (s.errLog u seq code) :=
  (((State.put_sameUptime ..).trans (State.put_sameUptime ..)).trans (State.put_sameUptime ..)).trans (State.irq_sameUptime ..)

theorem State.eventM_sameUptime (u : Option UnitId) (code v0 v1 : Nat) : s.SameUptime (s.eventM u code v0 v1) := by
  have begun : s.SameUptime (if s.minimal then s else s.flushModule) := by
    split
    · exact .refl s
    · exact State.flushModule_sameUptime s
  have told := begun.trans (State.modEvent_sameUptime _ code v0 v1)
  cases u with
  | none => exact told
  | some u => exact told.trans (State.errLog_sameUptime ..)

theorem State.eventPM_sameUptime (ps : List Nat) (u : Option UnitId) (code v0 v1 : Nat) : s.SameUptime (s.eventPM ps u code v0 v1) :=
  (List.foldlRecOn ps _ (State.SameUptime.refl s) (fun _ h p _ => h.trans (State.partEvent_sameUptime _ p code v0 v1))).trans
    (State.eventM_sameUptime _ u code v0 v1)

/-! ## The time is set (R620) -/

theorem State.closeWindows_sameUptime : ∀ (l : List CoalWin) (s : State), s.SameUptime (s.closeWindows l)
  | [], s => .refl s
  | w :: r, s => by
    unfold State.closeWindows
    dsimp only
    refine State.SameUptime.trans ?_ (State.closeWindows_sameUptime r _)
    split
    · exact State.coal_sameUptime s _
    · split
      · exact .refl s
      · split
        · exact State.coal_sameUptime s _
        · split
          · exact (State.coal_sameUptime s _).trans (State.eventM_sameUptime ..)
          · exact (State.coal_sameUptime s _).trans (State.eventPM_sameUptime ..)

theorem State.setTime_sameUptime (t : Nat) : s.SameUptime (s.setTime t) :=
  ((State.put_sameUptime s mgtU Reg.mgt.tsNow t).trans (State.coal_sameUptime _ [])).trans (State.closeWindows_sameUptime _ _)

theorem State.applyCap_sameUptime : s.SameUptime s.applyCap := by
  unfold State.applyCap
  extract_lets cap floored old capped
  have written : s.SameUptime capped := ((State.put_sameUptime ..).trans (State.put_sameUptime ..)).trans (State.put_sameUptime ..)
  split
  · exact written
  · exact (written.trans (State.eventM_sameUptime _ none _ _ _)).trans (State.irq_sameUptime _ _ _)

theorem State.rampTick_sameUptime (p1ms : Nat) : s.SameUptime (s.rampTick p1ms) := by
  have locked := State.put_sameUptime s pwrU Reg.pwr.statSyncOk 1
  unfold State.rampTick
  dsimp only
  split
  · refine State.SameUptime.trans (State.SameUptime.trans ?_ (State.setPwr_sameUptime _ _)) (State.applyCap_sameUptime _)
    split
    · exact locked.trans (State.count_sameUptime ..)
    · exact locked
  · exact locked

theorem State.edgeIn_sameUptime (e p1ms : Nat) (behind : Bool) : s.SameUptime (s.edgeIn e p1ms behind) := by
  have ramped : s.SameUptime ((s.setMgt (fun x => { x with rejects := 0, slew := e, slewUp := behind })).rampTick p1ms) :=
    (State.setMgt_sameUptime s rfl rfl).trans (State.rampTick_sameUptime _ p1ms)
  unfold State.edgeIn
  dsimp only
  split
  · exact ((ramped.trans (State.setMgt_sameUptime _ rfl rfl)).trans (State.setTime_sameUptime ..)).trans (State.put_sameUptime ..)
  · exact ramped

theorem State.edgeOut_sameUptime (near : Nat) : s.SameUptime (s.edgeOut near) := by
  have counted : s.SameUptime ((s.setMgt (fun x => { x with rejects := x.rejects + 1 })).count mgtU 5 1) :=
    (State.setMgt_sameUptime s rfl rfl).trans (State.count_sameUptime ..)
  unfold State.edgeOut
  dsimp only
  split
  · exact counted
  · exact ((counted.trans (State.setMgt_sameUptime _ rfl rfl)).trans (State.setTime_sameUptime ..)).trans (State.irq_sameUptime ..)

theorem State.edge_sameUptime (t p1ms : Nat) : s.SameUptime (s.edge t p1ms) := by
  unfold State.edge
  extract_lets off behind e timed
  have kept : s.SameUptime timed := (State.setTime_sameUptime s t).trans (State.put_sameUptime ..)
  split
  · exact kept.trans (State.edgeIn_sameUptime ..)
  · exact kept.trans (State.edgeOut_sameUptime ..)

/-! ## Ticks -/

theorem State.uptime_mem (e : Nat) : (s.uptime e).mem = s.mem := by
  unfold State.uptime
  dsimp only
  split
  · exact State.putAon_mem _ _ _
  · rfl

theorem State.uptime_mgt (e : Nat) : (s.uptime e).mgt = { s.mgt with hbNs := s.mgt.hbNs + e, upNs := s.mgt.upNs + e, slew := 0 } := by
  unfold State.uptime
  dsimp only
  split
  · exact (State.put_mgt ..).trans (State.put_mgt ..)
  · rfl

theorem State.uptime_sys (e : Nat) : (s.uptime e).sys = s.sys := by
  unfold State.uptime
  dsimp only
  split
  · exact (State.put_sys ..).trans (State.put_sys ..)
  · rfl

/-- A tick, once the uptime has gone on. -/
def State.tickAt (s t : State) (e p : Nat) : State :=
  if !t.sys.powered || !t.sys.pgood then t
  else if !t.sys.refclk then t.setTime (t.now + e)
  else if !t.mgt.ticked then ((t.setTime 0).setMgt (fun x => { x with ticked := true })).edgeIn 0 p false
  else t.edge (if s.mgt.slewUp then t.now + e + s.mgt.slew else t.now + e - s.mgt.slew) p

theorem execSyncTick_eq (e p : Nat) : exec (.syncTick e p) s = .next (s.tickAt (s.uptime e) e p) := rfl

theorem State.tickAt_sameUptime (t : State) (e p : Nat) : t.SameUptime (s.tickAt t e p) := by
  unfold State.tickAt
  split
  · exact .refl t
  · split
    · exact State.setTime_sameUptime t _
    · split
      · exact ((State.setTime_sameUptime t 0).trans (State.setMgt_sameUptime _ rfl rfl)).trans (State.edgeIn_sameUptime ..)
      · exact State.edge_sameUptime t _ _

end

section
variable {s t : State} {e p : Nat}

theorem State.tickAt_notGood (h : t.sys.pgood = false) : s.tickAt t e p = t := if_pos (by simp [h])

section
variable (hp : t.sys.powered = true) (hg : t.sys.pgood = true)
include hp hg

theorem State.tickAt_good : s.tickAt t e p = if !t.sys.refclk then t.setTime (t.now + e)
    else if !t.mgt.ticked then ((t.setTime 0).setMgt (fun x => { x with ticked := true })).edgeIn 0 p false
    else t.edge (if s.mgt.slewUp then t.now + e + s.mgt.slew else t.now + e - s.mgt.slew) p := if_neg (by simp [hp, hg])

theorem State.tickAt_holdover (h : t.sys.refclk = false) : s.tickAt t e p = t.setTime (t.now + e) :=
  (State.tickAt_good hp hg).trans (if_pos (by simp [h]))

theorem State.tickAt_first (h : t.sys.refclk = true) (ht : t.mgt.ticked = false) :
    s.tickAt t e p = ((t.setTime 0).setMgt (fun x => { x with ticked := true })).edgeIn 0 p false :=
  (State.tickAt_good hp hg).trans ((if_neg (by simp [h])).trans (if_pos (by simp [ht])))

theorem State.tickAt_unslewed (h : t.sys.refclk = true) (ht : t.mgt.ticked = true) (hs : s.mgt.slew = 0) : s.tickAt t e p = t.edge (t.now + e) p := by
  refine (State.tickAt_good hp hg).trans ((if_neg (by simp [h])).trans ((if_neg (by simp [ht])).trans (congrArg (fun n => t.edge n p) ?_)))
  rw [hs]
  exact ite_self _

end

/-! ## The watchdog (R615) -/

theorem State.put_awake (s : State) (u : UnitId) (f : Field) (v : Nat) : (s.put u f v).awake = s.awake := by
  unfold State.awake
  rw [State.put_sys]

theorem execWdtExpired_idle (h : s.sys.powered = false ∨ s.flag mgtU Reg.mgt.wdtExpired = true ∨ s.flag mgtU Reg.mgt.wdtDisable = true) :
    exec .wdtExpired s = .next s := by
  refine congrArg _ (if_pos ?_)
  rcases h with h | h | h <;> simp [h]

variable (s) in
/-- The watchdog's SAFE cap and its alert. -/
def State.wdtSafe : State := ((((s.put mgtU Reg.mgt.wdtExpired 1).put pwrU Reg.pwr.statSafe 1).applyCap).alert 1 true)

variable (s) in
/-- An expired watchdog in a module that is awake. -/
def State.wdtTold : State := ((s.wdtSafe.count mgtU 1 1).irq mgtU (2 ^ 16)).eventM none 0x9007 (s.wdtSafe.get pwrU Reg.pwr.capSafeW) 0

section
variable (hp : s.sys.powered = true) (he : s.flag mgtU Reg.mgt.wdtExpired = false) (hd : s.flag mgtU Reg.mgt.wdtDisable = false)
include hp he hd

theorem execWdtExpired_asleep (ha : s.awake = false) : exec .wdtExpired s = .next (s.put mgtU Reg.mgt.wdtExpired 1) :=
  congrArg _ ((if_neg (by simp [hp, he, hd])).trans (if_pos (by rw [State.put_awake, ha]; rfl)))

theorem execWdtExpired_awake (ha : s.awake = true) : exec .wdtExpired s = .next s.wdtTold :=
  congrArg _ ((if_neg (by simp [hp, he, hd])).trans (if_neg (by rw [State.put_awake, ha]; decide)))

end

theorem State.wdtTold_reports : s.wdtSafe.Reports s.wdtTold :=
  ((State.count_reports _ _ _ _).trans (State.irq_reports _ _ _)).trans (State.eventM_reports _ none _ _ _)

/-- The caps are fields of the PWR page: other pages keep their fields. -/
theorem State.applyCap_get_other {w : UnitId} (hw : w.valid = true) (hne : pwrU ≠ w) {f : Field} (hr : f.reach = .page) (hf : f.unreported = true) :
    s.applyCap.get w f = s.get w f := by
  have beside (t : State) {g : Field} (hg : g.reach = .page) (hgw : fieldWithin g = true) (v : Nat) : (t.put pwrU g v).get w f = t.get w f :=
    State.get_put_page t _ _ _ _ _ (home_ne (by decide) hw hne hg hr) hgw (Field.unreported_within hf)
  unfold State.applyCap
  extract_lets cap floored old capped
  have kept : capped.get w f = s.get w f :=
    (beside _ rfl (by decide) _).trans ((beside _ rfl (by decide) _).trans (beside _ rfl (by decide) _))
  split
  · exact kept
  · exact (((State.eventM_reports _ none _ _ _).trans (State.irq_reports _ _ _)).get hw hf).trans kept

theorem State.wdtSafe_fields : s.wdtSafe.get mgtU Reg.mgt.wdtExpired = 1 ∧ s.wdtSafe.get pwrU Reg.pwr.statSafe = 1 ∧ s.wdtSafe.mem = s.mem := by
  have cap := State.applyCap_writes ((s.put mgtU Reg.mgt.wdtExpired 1).put pwrU Reg.pwr.statSafe 1)
  refine ⟨?_, ?_, ?_⟩
  · refine (State.get_put_apart _ _ _ _ _ _ (by decide) (by decide) (by decide)).trans ((State.applyCap_get_other (by decide) (by decide) rfl (by decide)).trans ?_)
    exact (State.get_put_apart _ _ _ _ _ _ (by decide) (by decide) (by decide)).trans (State.get_put_same ..)
  · refine (State.get_put_page _ _ _ _ _ _ (home_ne (by decide) (by decide) (by decide) rfl rfl) (by decide) (by decide)).trans ?_
    exact (cap.get (by decide) (by decide)).trans (State.get_put_same ..)
  · exact (State.put_mem ..).trans (cap.mem.trans ((State.put_mem ..).trans (State.put_mem ..)))

/-! ## The reference clock (R619) -/

variable (s) in
/-- The PLLs hold over on the crystal, and the time is not synchronised. -/
def State.heldOver : State :=
  ((((s.put clkU Reg.clk.refState 2).put mgtU Reg.mgt.tsSynced 0).alert 5 true).count mgtU 7 1).irq mgtU (2 ^ 17)

variable (s) in
/-- The reference clock is gone. -/
def State.withoutRefclk : State := s.setSys (fun x => { x with refclk := false })

variable (s) in
/-- The loss of the reference clock, as the PLLs follow it. -/
def State.refclkGone : State :=
  if !s.withoutRefclk.awake then s.withoutRefclk.put clkU Reg.clk.refState 0
  else if s.withoutRefclk.get clkU Reg.clk.refState = 1 then (s.withoutRefclk.heldOver.count clkU 2 1).irq clkU (2 ^ 17)
  else s.withoutRefclk

theorem execRefclkLost_present (h : s.sys.refclk = true) : exec .refclkLost s = .next s.refclkGone := congrArg _ (if_neg (by simp [h]))

theorem State.heldOver_writes : s.Writes [Reg.clk.refState, Reg.mgt.tsSynced, Reg.mgt.alertCause] s.heldOver :=
  ((((State.Writes.refl s).put _ (by decide) (by decide) _).put _ (by decide) (by decide) _).put _ (by decide) (by decide) _).reports
    ((State.count_reports _ _ _ _).trans (State.irq_reports _ _ _))

theorem State.heldOver_fields : s.heldOver.get clkU Reg.clk.refState = 2 ∧ s.heldOver.get mgtU Reg.mgt.tsSynced = 0 := by
  have told := (State.count_reports (((s.put clkU Reg.clk.refState 2).put mgtU Reg.mgt.tsSynced 0).alert 5 true) mgtU 7 1).trans
    (State.irq_reports _ mgtU (2 ^ 17))
  constructor
  · refine (told.get (by decide) (by decide)).trans ((State.get_put_apart _ _ _ _ _ _ (by decide) (by decide) (by decide)).trans ?_)
    exact (State.get_put_apart _ _ _ _ _ _ (by decide) (by decide) (by decide)).trans (State.get_put_same ..)
  · exact (told.get (by decide) (by decide)).trans ((State.get_put_apart _ _ _ _ _ _ (by decide) (by decide) (by decide)).trans (State.get_put_same ..))

theorem State.refclkGone_rest : s.refclkGone.sys.refclk = false ∧ s.refclkGone.mem = s.mem := by
  have told := (State.heldOver_writes (s := s.withoutRefclk)).reports ((State.count_reports _ clkU 2 1).trans (State.irq_reports _ clkU (2 ^ 17)))
  unfold State.refclkGone
  split
  · exact ⟨congrArg SysRec.refclk (State.put_sys ..), State.put_mem ..⟩
  · split
    · exact ⟨congrArg SysRec.refclk told.sys, told.mem⟩
    · exact ⟨rfl, rfl⟩

theorem State.refclkGone_holdover (ha : s.awake = true) (h1 : s.get clkU Reg.clk.refState = 1) :
    s.refclkGone.get clkU Reg.clk.refState = 2 ∧ s.refclkGone.get mgtU Reg.mgt.tsSynced = 0 := by
  have held : s.refclkGone = (s.withoutRefclk.heldOver.count clkU 2 1).irq clkU (2 ^ 17) :=
    (if_neg (by simp [show s.withoutRefclk.awake = true from ha])).trans (if_pos ((State.get_of_regs (by rfl) _ _).trans h1))
  have told := (State.count_reports s.withoutRefclk.heldOver clkU 2 1).trans (State.irq_reports _ clkU (2 ^ 17))
  rw [held]
  exact ⟨(told.get (by decide) (by decide)).trans State.heldOver_fields.1, (told.get (by decide) (by decide)).trans State.heldOver_fields.2⟩

variable (s) in
/-- The reference clock is back, and its alert is gone. -/
def State.withRefclk : State := (s.setSys (fun x => { x with refclk := true })).alert 5 false

variable (s) in
/-- The PLLs relock. -/
def State.refclkBack : State :=
  if s.withRefclk.get clkU Reg.clk.refState = 2 then s.withRefclk.put clkU Reg.clk.refState 1 else s.withRefclk

theorem execRefclkReturn_absent (h : s.sys.refclk = false) : exec .refclkReturn s = .next s.refclkBack := congrArg _ (if_neg (by simp [h]))

theorem State.withRefclk_refState : s.withRefclk.get clkU Reg.clk.refState = s.get clkU Reg.clk.refState :=
  (State.get_put_apart _ _ _ _ _ _ (by decide) (by decide) (by decide)).trans (State.get_of_regs (by rfl) _ _)

theorem State.withRefclk_sys : s.withRefclk.sys.refclk = true := congrArg SysRec.refclk (State.put_sys ..)

theorem State.withRefclk_mem : s.withRefclk.mem = s.mem := State.put_mem ..

theorem State.refclkBack_fields : s.refclkBack.sys.refclk = true ∧ s.refclkBack.mem = s.mem ∧
    s.refclkBack.get clkU Reg.clk.refState = if s.get clkU Reg.clk.refState = 2 then 1 else s.get clkU Reg.clk.refState := by
  unfold State.refclkBack
  rw [State.withRefclk_refState]
  split
  · exact ⟨(congrArg SysRec.refclk (State.put_sys ..)).trans State.withRefclk_sys, (State.put_mem ..).trans State.withRefclk_mem, State.get_put_same ..⟩
  · exact ⟨State.withRefclk_sys, State.withRefclk_mem, State.withRefclk_refState⟩

end

/-- Settles O52, by the lemma about each of them. -/
theorem timeIsKept : Obligations.TimeIsKept := by
  intro s
  have sys (e : Nat) := s.uptime_sys e
  refine ⟨execWdtExpired_idle, fun hp he hd => ⟨execWdtExpired_asleep hp he hd, fun ha => ⟨_, execWdtExpired_awake hp he hd ha, ?wdt⟩⟩,
    fun e p => ⟨⟨_, execSyncTick_eq s e p, (State.tickAt_sameUptime s _ e p).mem.trans (s.uptime_mem e),
        (State.tickAt_sameUptime s _ e p).upNs.trans (congrArg MgtRec.upNs (s.uptime_mgt e))⟩,
      fun h => congrArg _ (State.tickAt_notGood ((congrArg SysRec.pgood (sys e)).trans h)), fun hp hg => ?tick⟩,
    fun h => congrArg _ (if_pos (by simp [h])), fun h => congrArg _ (if_pos h),
    fun h => ⟨_, execRefclkLost_present h, State.refclkGone_rest.1, State.refclkGone_rest.2, State.refclkGone_holdover⟩,
    fun h => ⟨_, execRefclkReturn_absent h, State.refclkBack_fields⟩⟩
  case wdt =>
    obtain ⟨expired, safe, mem⟩ := s.wdtSafe_fields
    exact ⟨(State.wdtTold_reports.get (by decide) (by decide)).trans expired, (State.wdtTold_reports.get (by decide) (by decide)).trans safe,
      State.wdtTold_reports.mem.trans mem⟩
  case tick =>
    rw [← sys e] at hp hg
    have clock {b : Bool} (h : s.sys.refclk = b) : (s.uptime e).sys.refclk = b := (congrArg SysRec.refclk (sys e)).trans h
    have ticked {b : Bool} (h : s.mgt.ticked = b) : (s.uptime e).mgt.ticked = b := (congrArg MgtRec.ticked (s.uptime_mgt e)).trans h
    exact ⟨fun h => congrArg _ (State.tickAt_holdover hp hg (clock h)), fun h ht => congrArg _ (State.tickAt_first hp hg (clock h) (ticked ht)),
      fun h ht hs => congrArg _ (State.tickAt_unslewed hp hg (clock h) (ticked ht) hs)⟩

end Sys2Proof.Machine
end

section
/-!
SUPPORT. Temperatures, the thermal cap, the plausibility checks and their floors (R524, R525, R530 to R532).
-/
namespace Sys2Proof.Machine

section
variable (s : State)

/-! ## A sample is recorded as it is (R524) -/

/-- From s to t memory and the recorded temperatures stay. -/
structure State.SameTemps (s t : State) : Prop where
  mem : t.mem = s.mem
  temps : t.pwr.temps = s.pwr.temps

theorem State.SameTemps.refl (s : State) : s.SameTemps s := ⟨rfl, rfl⟩

theorem State.SameTemps.trans {s t v : State} (h : s.SameTemps t) (k : t.SameTemps v) : s.SameTemps v := ⟨k.mem.trans h.mem, k.temps.trans h.temps⟩

theorem State.Reports.sameTemps {s t : State} (h : s.Reports t) : s.SameTemps t := ⟨h.mem, congrArg PwrRec.temps h.pwr⟩

theorem State.put_sameTemps (u : UnitId) (f : Field) (v : Nat) : s.SameTemps (s.put u f v) :=
  ⟨State.put_mem s u f v, congrArg PwrRec.temps (State.put_pwr s u f v)⟩

theorem State.setPwr_sameTemps {f : PwrRec → PwrRec} (h : (f s.pwr).temps = s.pwr.temps) : s.SameTemps (s.setPwr f) := ⟨rfl, h⟩

theorem State.applyCap_sameTemps : s.SameTemps s.applyCap := ⟨s.applyCap_writes.mem, congrArg PwrRec.temps s.applyCap_writes.pwr⟩

theorem State.noteTemps_sameTemps : s.SameTemps (s.noteTemps none) := by
  have highest := State.put_sameTemps s thmU Reg.thm.tjMaxC (sat 255 (s.tj / 1000))
  unfold State.noteTemps
  dsimp only
  split
  · exact highest.trans (State.put_sameTemps ..)
  · exact highest

theorem State.throttleMem_sameTemps : s.SameTemps s.throttleMem := by
  unfold State.throttleMem
  dsimp only
  split
  · exact (State.setPwr_sameTemps s rfl).trans (State.count_reports ..).sameTemps
  · split
    · exact State.setPwr_sameTemps s rfl
    · exact .refl s

theorem State.throttle_sameTemps : s.SameTemps s.throttle := by
  have mem := s.throttleMem_sameTemps
  unfold State.throttle
  dsimp only
  split
  · exact (((((mem.trans (State.setPwr_sameTemps _ rfl)).trans (State.put_sameTemps ..)).trans (State.count_reports ..).sameTemps).trans
      (State.put_sameTemps ..)).trans ((State.eventM_reports ..).trans (State.irq_reports ..)).sameTemps).trans (State.applyCap_sameTemps _)
  · split
    · exact (mem.trans (State.put_sameTemps ..)).trans ((State.eventM_reports ..).trans (State.irq_reports ..)).sameTemps
    · exact mem

/-- A die's readings are on record. -/
def State.recordDie (k : Nat) (temps : List Nat) : State :=
  s.setPwr (fun r => { r with temps := Sparse.set (fun _ => (0, [])) r.temps (sensorKey (.die k)) (s.now, temps) })

theorem State.recordDie_temps (k : Nat) (temps : List Nat) :
    Sparse.get (fun _ => (0, [])) (s.recordDie k temps).pwr.temps (sensorKey (.die k)) = (s.now, temps) := Sparse.get_set_same _ _ _ _

theorem execThermalSample_die (k : Nat) (temps : List Nat) (a b : Nat) :
    exec (.thermalSample (.die k) temps a b) s = .next ((s.recordDie k temps).noteTemps none).throttle := rfl

end

/-! ## The thermal cap (R525) -/

section
variable {s : State}

theorem execThermalCapTick_none (h : s.pwr.thm = none) : exec .thermalCapTick s = .next s := by
  change execThermalCapTick s = _
  rw [execThermalCapTick, h]

section
variable {w : Nat} (h : s.pwr.thm = some w)
include h

theorem execThermalCapTick_throttles (ht : s.flag thmU Reg.thm.statThrottle = true) {w' : Nat}
    (hw : w' = if s.tooHot then max (s.get pwrU Reg.pwr.floorW) (w - s.get thmU Reg.thm.throttleStepW) else w) : exec .thermalCapTick s =
      .next ((((s.setPwr (fun x => { x with thm := some w' })).put thmU Reg.thm.capThmW w').count thmU 1 1).applyCap) := by
  change execThermalCapTick s = _
  rw [execThermalCapTick, h, hw]
  exact congrArg _ (if_pos ht)

theorem execThermalCapTick_rises (ht : s.flag thmU Reg.thm.statThrottle = false) : exec .thermalCapTick s =
    .next (((s.setPwr (fun x => { x with thm := if w + 10 < 2200 then some (w + 10) else none })).put thmU Reg.thm.capThmW
      (min 2200 (w + 10))).applyCap) := by
  change execThermalCapTick s = _
  rw [execThermalCapTick, h]
  exact congrArg _ (if_neg (by simp [ht]))

end

end

/-! ## Floors (R532) -/

section
variable (s : State) (src : Nat)

theorem State.checkOk_mem : (s.checkOk src).mem = s.mem := rfl

theorem State.checkOk_get (u : UnitId) (f : Field) : (s.checkOk src).get u f = s.get u f := State.setPwr_get ..

theorem State.holdFloor_mem : (s.holdFloor src).mem = s.mem := by
  unfold State.holdFloor
  dsimp only
  split
  · rfl
  · exact (State.applyCap_writes _).mem.trans (((State.eventM_reports ..).trans (State.irq_reports ..)).mem.trans (State.put_mem ..))

theorem State.holdFloor_conds : src ∈ (s.holdFloor src).pwr.conds := by
  have named : src ∈ (if s.pwr.conds.contains src then s.pwr.conds else s.pwr.conds ++ [src]) := by
    split
    · next h => exact List.contains_iff_mem.mp h
    · exact List.mem_append_right _ (List.mem_singleton_self src)
  unfold State.holdFloor
  dsimp only
  split
  · exact named
  · rw [(State.applyCap_writes _).pwr, ((State.eventM_reports ..).trans (State.irq_reports ..)).pwr, State.alert, State.put_pwr]
    exact named

theorem State.holdFloor_get {f : Field} (hr : f.reach = .page) (hf : f.unreported = true) : (s.holdFloor src).get thmU f = s.get thmU f := by
  unfold State.holdFloor
  dsimp only
  split
  · exact State.setPwr_get ..
  · refine (State.applyCap_get_other (by decide) (by decide) hr hf).trans ?_
    refine (((State.eventM_reports ..).trans (State.irq_reports ..)).get (by decide) hf).trans ?_
    refine (State.get_put_page _ _ _ _ _ _ (home_ne (by decide) (by decide) (by decide) rfl hr) (by decide) (Field.unreported_within hf)).trans ?_
    exact (State.setPwr_get ..).trans (State.setPwr_get ..)

end

/-! ## The cold plate (R530) -/

section
variable (s : State) (inlet outlet rise watts : Nat)

/-- The rise that is too high for the power, and the one that is too low. -/
def riseHigh : Bool := decide ((97 * watts + 47_700) * 1000 < rise * 15_900)
def riseLow : Bool := decide (500 ≤ watts) && decide (rise * 26_500 + 53_000 * 1000 < 97 * watts * 1000)

/-- The temperatures of the coolant are on record. -/
def State.coldRead : State := (s.put thmU Reg.thm.coldInlet inlet).put thmU Reg.thm.coldOutlet outlet

/-- An inlet out of its range is told. -/
def State.inletTold : State :=
  if inlet < 120 ∨ 360 < inlet then (((s.coldRead inlet outlet).eventM none 0x9009 inlet 0).irq thmU (2 ^ 20)).count thmU 9 1
  else s.coldRead inlet outlet

/-- Whether the rise is plausible is shown. -/
def State.riseShown (bad : Bool) : State := s.put thmU Reg.thm.statCpImplausible (if bad then 1 else 0)

/-- Whether the coolant is suspect is shown, and told when it begins. -/
def State.suspectShown : State :=
  if riseHigh rise watts then
    if s.flag thmU Reg.thm.statCoolantSuspect then s
    else ((s.put thmU Reg.thm.statCoolantSuspect 1).eventM none 0x9005 rise watts).irq thmU (2 ^ 19)
  else s.put thmU Reg.thm.statCoolantSuspect 0

/-- The cold plate's fields, before the check's floor. -/
def State.coldShown : State :=
  ((s.inletTold inlet outlet).riseShown (riseHigh rise watts || riseLow rise watts)).suspectShown rise watts

theorem execColdPlateCheck_eq : exec (.coldPlateCheck inlet outlet rise watts) s = .next (
    if riseHigh rise watts || riseLow rise watts then ((s.coldShown inlet outlet rise watts).count thmU 4 1).holdFloor 1
    else (s.coldShown inlet outlet rise watts).checkOk 1) := rfl

theorem State.inletTold_reports : (s.coldRead inlet outlet).Reports (s.inletTold inlet outlet) := by
  unfold State.inletTold
  split
  · exact ((State.eventM_reports ..).trans (State.irq_reports ..)).trans (State.count_reports ..)
  · exact .refl _

theorem State.suspectShown_writes : s.Writes [Reg.thm.statCoolantSuspect] (s.suspectShown rise watts) := by
  unfold State.suspectShown
  split
  · split
    · exact .refl s
    · exact ((State.Writes.refl s).put _ (by decide) (by decide) _).reports ((State.eventM_reports ..).trans (State.irq_reports ..))
  · exact (State.Writes.refl s).put _ (by decide) (by decide) _

theorem State.suspectShown_high (h : riseHigh rise watts = true) : (s.suspectShown rise watts).get thmU Reg.thm.statCoolantSuspect = 1 := by
  unfold State.suspectShown
  rw [if_pos h]
  split
  · next set =>
    have bound := s.get_lt thmU Reg.thm.statCoolantSuspect
    have nonzero : s.get thmU Reg.thm.statCoolantSuspect ≠ 0 := by simpa [State.flag] using set
    exact Nat.le_antisymm (Nat.le_of_lt_succ bound) (Nat.pos_of_ne_zero nonzero)
  · exact (((State.eventM_reports ..).trans (State.irq_reports ..)).get (by decide) (by decide)).trans (State.get_put_same ..)

theorem State.suspectShown_fine (h : riseHigh rise watts = false) : (s.suspectShown rise watts).get thmU Reg.thm.statCoolantSuspect = 0 := by
  unfold State.suspectShown
  rw [if_neg (by simp [h])]
  exact State.get_put_same ..

/-- The cold plate's fields all stand when the check ends. -/
def State.coldChecked : State :=
  if riseHigh rise watts || riseLow rise watts then ((s.coldShown inlet outlet rise watts).count thmU 4 1).holdFloor 1
  else (s.coldShown inlet outlet rise watts).checkOk 1

theorem State.coldChecked_get {f : Field} (hr : f.reach = .page) (hf : f.unreported = true) :
    (s.coldChecked inlet outlet rise watts).get thmU f = (s.coldShown inlet outlet rise watts).get thmU f := by
  unfold State.coldChecked
  split
  · exact (State.holdFloor_get _ 1 hr hf).trans ((State.count_reports ..).get (by decide) hf)
  · exact State.checkOk_get ..

theorem State.coldShown_writes : (s.coldRead inlet outlet).Writes [Reg.thm.statCpImplausible, Reg.thm.statCoolantSuspect]
    (s.coldShown inlet outlet rise watts) := by
  have shown := ((s.inletTold_reports inlet outlet).writes (L := [Reg.thm.statCpImplausible, Reg.thm.statCoolantSuspect])).put thmU
    (g := Reg.thm.statCpImplausible) (by decide) (by decide) (if riseHigh rise watts || riseLow rise watts then 1 else 0)
  have suspect := ((s.inletTold inlet outlet).riseShown (riseHigh rise watts || riseLow rise watts)).suspectShown_writes rise watts
  refine shown.trans ⟨suspect.rest, fun hw hf => suspect.get hw ?_⟩
  simp only [Field.besides, List.all_cons, List.all_nil, Bool.and_eq_true, Bool.and_true] at hf ⊢
  exact ⟨hf.1, hf.2.2⟩

theorem State.coldChecked_mem : (s.coldChecked inlet outlet rise watts).mem = s.mem := by
  have read : (s.coldRead inlet outlet).mem = s.mem := (State.put_mem ..).trans (State.put_mem ..)
  have shown := (s.coldShown_writes inlet outlet rise watts).mem.trans read
  unfold State.coldChecked
  split
  · rw [State.holdFloor_mem, (State.count_reports ..).mem, shown]
  · rw [State.checkOk_mem, shown]

theorem State.coldChecked_inlet : (s.coldChecked inlet outlet rise watts).get thmU Reg.thm.coldInlet = inlet % 2 ^ 10 := by
  rw [State.coldChecked_get _ _ _ _ _ rfl (by decide), (s.coldShown_writes inlet outlet rise watts).get (by decide) (by decide), State.coldRead,
    State.get_put_apart _ _ _ _ _ _ (by decide) (by decide) (by decide), State.get_put_same]
  rfl

theorem State.coldChecked_outlet : (s.coldChecked inlet outlet rise watts).get thmU Reg.thm.coldOutlet = outlet % 2 ^ 10 := by
  rw [State.coldChecked_get _ _ _ _ _ rfl (by decide), (s.coldShown_writes inlet outlet rise watts).get (by decide) (by decide), State.coldRead,
    State.get_put_same]
  rfl

theorem State.coldChecked_high (h : riseHigh rise watts = true) : (s.coldChecked inlet outlet rise watts).get thmU Reg.thm.statCoolantSuspect = 1 ∧
    (s.coldChecked inlet outlet rise watts).get thmU Reg.thm.statCpImplausible = 1 ∧ 1 ∈ (s.coldChecked inlet outlet rise watts).pwr.conds := by
  rw [State.coldChecked_get _ _ _ _ _ rfl (by decide), State.coldChecked_get _ _ _ _ _ rfl (by decide)]
  refine ⟨State.suspectShown_high _ _ _ h, ?_, ?_⟩
  · rw [State.coldShown, (State.suspectShown_writes _ _ _).get (by decide) (by decide), State.riseShown, State.get_put_same, h]
    rfl
  · rw [State.coldChecked, if_pos (by simp [h])]
    exact State.holdFloor_conds _ 1

theorem State.coldChecked_fine (h : riseHigh rise watts = false) :
    (s.coldChecked inlet outlet rise watts).get thmU Reg.thm.statCoolantSuspect = 0 := by
  rw [State.coldChecked_get _ _ _ _ _ rfl (by decide)]
  exact State.suspectShown_fine _ _ _ h

end

/-! ## The current (R531) -/

section
variable (s : State) (rails watts : Nat)

/-- The rails' power, over the conversion's efficiency, is off the input power by more than the larger of 5 % and 40 W. -/
def State.currentOff : Bool :=
  let e := s.get ⟨.mcc, 0⟩ Reg.mcc.convEff
  let a := rails * 65_536
  let b := watts * e
  decide (max (5 * watts) 4000 * e < (if a ≤ b then b - a else a - b) * 100)

theorem distance_eq (a b : Nat) : (if a ≤ b then b - a else a - b) = max a b - min a b := by
  split <;> omega

theorem State.currentOff_iff : s.currentOff rails watts = true ↔ max (5 * watts) 4000 * s.get ⟨.mcc, 0⟩ Reg.mcc.convEff <
    100 * (max (rails * 65536) (watts * s.get ⟨.mcc, 0⟩ Reg.mcc.convEff) - min (rails * 65536) (watts * s.get ⟨.mcc, 0⟩ Reg.mcc.convEff)) := by
  unfold State.currentOff
  dsimp only
  rw [decide_eq_true_eq, distance_eq, Nat.mul_comm _ 100]

/-- Whether the current is plausible is shown. -/
def State.currentShown (bad : Bool) : State := s.put thmU Reg.thm.statCurImplausible (if bad then 1 else 0)

/-- A check of the current. -/
def State.currentChecked : State :=
  if s.currentOff rails watts then ((s.currentShown (s.currentOff rails watts)).count thmU 5 1).holdFloor 2
  else (s.currentShown (s.currentOff rails watts)).checkOk 2

theorem execCurrentCheck_eq : exec (.currentCheck rails watts) s = .next (s.currentChecked rails watts) := rfl

theorem State.currentShown_get (bad : Bool) : (s.currentShown bad).get thmU Reg.thm.statCurImplausible = 1 ↔ bad = true := by
  rw [State.currentShown, State.get_put_same]
  cases bad <;> decide

theorem State.currentChecked_get : (s.currentChecked rails watts).get thmU Reg.thm.statCurImplausible =
    (s.currentShown (s.currentOff rails watts)).get thmU Reg.thm.statCurImplausible := by
  unfold State.currentChecked
  split
  · exact (State.holdFloor_get _ 2 rfl (by decide)).trans ((State.count_reports ..).get (by decide) (by decide))
  · exact State.checkOk_get ..

theorem State.currentChecked_mem : (s.currentChecked rails watts).mem = s.mem := by
  unfold State.currentChecked
  split
  · rw [State.holdFloor_mem, (State.count_reports ..).mem, State.currentShown, State.put_mem]
  · rw [State.checkOk_mem, State.currentShown, State.put_mem]

end

/-! ## A floor ends (R532) -/

section
variable {s : State} {k : Nat}

theorem execSensorFloorExpiry_holds (h : s.pwr.conds.contains k = true ∨ s.pwr.floors.contains k = false) : exec (.sensorFloorExpiry k) s = .next s := by
  refine congrArg _ (if_pos ?_)
  rcases h with h | h
  · rw [h, Bool.true_or]
  · rw [h, Bool.not_false, Bool.or_true]

variable (s k) in
/-- The floor of a source is gone. -/
def State.floorGone : State := s.setPwr (fun x => { x with floors := x.floors.filter (fun c => c != k) })

variable (s k) in
/-- With the last floor its alert goes. -/
def State.floorEnds : State := if (s.floorGone k).pwr.floors.isEmpty then (s.floorGone k).alert 2 false else s.floorGone k

theorem execSensorFloorExpiry_ends (hc : s.pwr.conds.contains k = false) (hf : s.pwr.floors.contains k = true) :
    exec (.sensorFloorExpiry k) s = .next (s.floorEnds k).applyCap := congrArg _ (if_neg (by simp only [hc, hf]; decide))

theorem State.floorEnds_rest : (s.floorEnds k).pwr = (s.floorGone k).pwr ∧ (s.floorEnds k).mem = s.mem := by
  unfold State.floorEnds
  split
  · exact ⟨State.put_pwr .., State.put_mem ..⟩
  · exact ⟨rfl, rfl⟩

end

/-- Settles O50, by what each check leaves of what it has shown. -/
theorem temperaturesAreWatched : Obligations.TemperaturesAreWatched := by
  refine fun s => ⟨fun k temps a b => ⟨_, execThermalSample_die s k temps a b, ?sampled, ?recorded⟩, execThermalCapTick_none,
    fun w h => ⟨fun ht => execThermalCapTick_throttles h ht rfl, execThermalCapTick_rises h⟩,
    fun inlet outlet rise watts => ⟨s.coldChecked inlet outlet rise watts, execColdPlateCheck_eq s inlet outlet rise watts,
      s.coldChecked_mem inlet outlet rise watts, s.coldChecked_inlet inlet outlet rise watts, s.coldChecked_outlet inlet outlet rise watts,
      fun h => s.coldChecked_high inlet outlet rise watts (decide_eq_true h),
      fun h => s.coldChecked_fine inlet outlet rise watts (decide_eq_false (Nat.not_lt.mpr h))⟩,
    fun rails watts => ⟨_, execCurrentCheck_eq s rails watts, s.currentChecked_mem rails watts, ?current⟩,
    fun k => execSensorFloorExpiry_holds, fun k hc hf => ⟨_, execSensorFloorExpiry_ends hc hf, ?floors, ?floorsMem⟩⟩
  case sampled => exact ((State.noteTemps_sameTemps _).trans (State.throttle_sameTemps _)).mem
  case recorded =>
    rw [((State.noteTemps_sameTemps (s.recordDie k temps)).trans (State.throttle_sameTemps _)).temps]
    exact s.recordDie_temps k temps
  case current =>
    rw [State.currentChecked_get, State.currentShown_get]
    exact s.currentOff_iff rails watts
  case floors => exact congrArg PwrRec.floors ((State.applyCap_writes _).pwr.trans State.floorEnds_rest.1)
  case floorsMem => exact (State.applyCap_writes _).mem.trans State.floorEnds_rest.2

end Sys2Proof.Machine
end

section
/-!
SUPPORT. The management port's own commands and the messages to its endpoint (R539, R550, R608 to R615, R620).
-/
namespace Sys2Proof.Machine

/-! ## The I3C port (R608, R609) -/

section
variable {s : State}

theorem exec_unaddressed (h : s.unaddressed = true) (d : Nat) : exec (.entdaa d) s = .next (s.takeAddr d) ∧
    exec (.setdasa staticAddr d) s = .next (s.takeAddr d) ∧ exec .hotJoin s = .next (s.emit (.sideband [2])) :=
  ⟨congrArg _ (if_pos h), congrArg _ (if_pos (by simp [h])), congrArg _ (if_pos h)⟩

theorem exec_addressed (h : s.unaddressed = false) (d a : Nat) :
    exec (.entdaa d) s = .next s ∧ exec (.setdasa a d) s = .next s ∧ exec .hotJoin s = .next s :=
  ⟨congrArg _ (if_neg (by simp [h])), congrArg _ (if_neg (by simp [h])), congrArg _ (if_neg (by simp [h]))⟩

theorem execSetdasa_other {a : Nat} (h : a ≠ staticAddr) (d : Nat) : exec (.setdasa a d) s = .next s := congrArg _ (if_neg (by simp [h]))

section
variable (h : s.sys.powered = true)
include h

theorem execRstdaa_powered : exec .rstdaa s = .next (s.put mgtU Reg.mgt.i3cDynAddr 0) := congrArg _ (if_pos h)

theorem execSetmrl_powered (n : Nat) : exec (.setmrl n) s = .next { s with mgt := { s.mgt with mrl := min n 256 } } := congrArg _ (if_pos h)

theorem execGetmrl_powered : exec .getmrl s = .next (s.respond [s.mgt.mrl]) :=
  congrArg (fun r => Host.Outcome.next (s.respond r)) (if_pos h)

end

section
variable (h : s.sys.powered = false)
include h

theorem execRstdaa_unpowered : exec .rstdaa s = .next s := congrArg _ (if_neg (by simp [h]))

theorem exec_unpowered : (∀ n, exec (.setmrl n) s = .next s) ∧ exec .getmrl s = .next (s.respond []) ∧
    exec (.aonStatusRead false) s = .next (s.respond []) :=
  ⟨fun n => congrArg _ (if_neg (by simp [h])), congrArg (fun r => Host.Outcome.next (s.respond r)) (if_neg (by simp [h])),
    congrArg _ (if_pos (by simp [h]))⟩

end

/-! ## AON's status block (R610) -/

variable (s) in
theorem State.statusBlock_length : s.statusBlock.1.length = 32 := by
  unfold State.statusBlock
  simp only [List.length_append, leBytes_length]

theorem State.statusBlock_refclk (h : s.sys.refclk = true) : s.statusBlock.2 = s := by
  unfold State.statusBlock
  dsimp only
  rw [if_pos h]

theorem execAonStatusRead_write : exec (.aonStatusRead true) s = .next (s.respond []) := congrArg _ (if_pos (by simp))

theorem execAonStatusRead_read (hp : s.sys.powered = true) (he : s.endpoint = false) (hr : s.sys.refclk = true) :
    exec (.aonStatusRead false) s = .next (s.respond (s.statusBlock.1.map (fun x => x.toNat))) := by
  refine congrArg Host.Outcome.next ((if_neg (by simp [hp, he])).trans ?_)
  dsimp only
  rw [State.statusBlock_refclk hr]

end

/-! ## Messages to the endpoint (R609, R612 to R615) -/

section
variable {s : State}

theorem State.served_silent (h : s.endpoint = false) (k : State → State) : s.served k = s.respond [] := if_neg (by simp [h])

theorem exec_silent (h : s.endpoint = false) : ∀ c ∈ [Instr.setEndpointId 9, .heartbeat 0, .setTime 0, .getSensorReading 1,
    .pollForPlatformEventMessage, .pldmFirmwareUpdate [], .activateFirmware], exec c s = .next (s.respond []) := by
  have silent (k : State → State) : Host.Outcome.next (s.served k) = (.next (s.respond []) : Host.Outcome State Fault Refusal) :=
    congrArg _ (State.served_silent h k)
  simp only [List.mem_cons, List.not_mem_nil, or_false, forall_eq_or_imp, forall_eq]
  exact ⟨silent _, silent _, silent _, silent _, silent _, silent _, silent _⟩

section
variable {t : State} (he : s.endpoint = true) (ht : t = (s.count mgtU 2 1).count mgtU 3 1)
include he ht

theorem State.next_served {k : State → State} {v : State} (h : k t = v) :
    Host.Outcome.next (s.served k) = (.next v : Host.Outcome State Fault Refusal) := congrArg _ ((State.served_endpoint he ht k).trans h)

theorem execSetEndpointId_barred {e : Nat} (h : e = 0 ∨ 255 ≤ e) : exec (.setEndpointId e) s = .next (t.respond [2]) :=
  State.next_served he ht (if_pos h)

theorem execSetEndpointId_taken {e : Nat} (h0 : 0 < e) (h1 : e < 255) :
    exec (.setEndpointId e) s = .next (((t.put mgtU Reg.mgt.mctpEid e).irq mgtU (2 ^ 19)).respond [0]) :=
  State.next_served he ht (if_neg (by omega))

theorem execSetTime_waits (ms : Nat) : exec (.setTime ms) s =
    .next (((t.put mgtU Reg.mgt.tsSetMs ms).setMgt (fun x => { x with setTime := some (ms % 2 ^ 64) })).respond [0]) := State.next_served he ht rfl

theorem execGetSensorReading_eq (id : Nat) : exec (.getSensorReading id) s = .next (match t.sensor id with
    | some r => r.2.respond [0, r.1]
    | none => t.respond [0x80]) := State.next_served he ht (by cases t.sensor id <;> rfl)

theorem execGetSensorReading_some {id : Nat} {r : Nat × State} (h : t.sensor id = some r) :
    exec (.getSensorReading id) s = .next (r.2.respond [0, r.1]) := by rw [execGetSensorReading_eq he ht, h]

theorem execGetSensorReading_none {id : Nat} (h : t.sensor id = none) : exec (.getSensorReading id) s = .next (t.respond [0x80]) := by
  rw [execGetSensorReading_eq he ht, h]

/-! ### Events (R613) -/

/-- The oldest event is handed over, and the rest stay. -/
def State.handOver (t : State) (e : EvtRec) (rest : List EvtRec) : State :=
  (t.setMgt (fun x => { x with events := rest })).respond [e.code, e.seq, e.time, e.v0, e.v1]

theorem execPoll_eq : exec .pollForPlatformEventMessage s = .next (match t.mgt.events with
    | [] => t.respond []
    | e :: r => if r.isEmpty then t.handOver e r else (t.handOver e r).emit (.sideband [])) :=
  State.next_served he ht (by cases t.mgt.events <;> rfl)

theorem execPoll_none (h : t.mgt.events = []) : exec .pollForPlatformEventMessage s = .next (t.respond []) := by rw [execPoll_eq he ht, h]

theorem execPoll_last {e : EvtRec} (h : t.mgt.events = [e]) : exec .pollForPlatformEventMessage s = .next (t.handOver e []) := by
  rw [execPoll_eq he ht, h]
  rfl

theorem execPoll_more {e f : EvtRec} {r : List EvtRec} (h : t.mgt.events = e :: f :: r) :
    exec .pollForPlatformEventMessage s = .next ((t.handOver e (f :: r)).emit (.sideband [])) := by
  rw [execPoll_eq he ht, h]
  rfl

/-! ### Firmware (R539, R550, R614) -/

theorem execPldm_busy (h : t.sys.update.isSome = true) (image : List Byte) : exec (.pldmFirmwareUpdate image) s = .next (t.respond [0x81]) :=
  State.next_served he ht (if_pos h)

section
variable (h : t.sys.update = none) {image : List Byte}
include h

theorem execPldm_eq : exec (.pldmFirmwareUpdate image) s = .next (match t.checkImage image with
    | .error r => (t.updateRefused r).respond [r]
    | .ok f => (t.beginUpdate 1 f).respond [0]) :=
  State.next_served he ht ((if_neg (by simp [h])).trans (by cases t.checkImage image <;> rfl))

theorem execPldm_refused {r : Nat} (hc : t.checkImage image = .error r) :
    exec (.pldmFirmwareUpdate image) s = .next ((t.updateRefused r).respond [r]) := by rw [execPldm_eq he ht h, hc]

theorem execPldm_begins {f : ImageFacts} (hc : t.checkImage image = .ok f) :
    exec (.pldmFirmwareUpdate image) s = .next ((t.beginUpdate 1 f).respond [0]) := by rw [execPldm_eq he ht h, hc]

end

theorem execActivateFirmware_served : exec .activateFirmware s = .next (((t.interrupted.cutUpdate).beginFull true).respond [0]) :=
  State.next_served he ht rfl

end

/-! ### Heartbeats (R615) -/

section
variable (t : State)

/-- The watchdog starts anew. -/
def State.wdtRestarted : State :=
  ((((t.setMgt (fun x => { x with hbNs := 0 })).count mgtU 0 1).put mgtU Reg.mgt.wdtExpired 0).alert 1 false).put pwrU Reg.pwr.statSafe 0

/-- With the SAFE cap ended, where it applied. -/
def State.safeEnded : State := if t.flag pwrU Reg.pwr.statSafe then t.wdtRestarted.applyCap else t.wdtRestarted

theorem execHeartbeat_served {t : State} (he : s.endpoint = true) (ht : t = (s.count mgtU 2 1).count mgtU 3 1) (q : Nat) :
    exec (.heartbeat q) s = .next (t.safeEnded.statusBlock.2.respond (t.safeEnded.statusBlock.1.map (fun x => x.toNat))) :=
  State.next_served he ht rfl

theorem State.wdtRestarted_mgt : t.wdtRestarted.mgt = { t.mgt with hbNs := 0 } := by
  rw [State.wdtRestarted, State.put_mgt, State.alert, State.put_mgt, State.put_mgt, (State.count_onlySignals _ _ _ _).mgt]
  rfl

theorem State.wdtRestarted_mem : t.wdtRestarted.mem = t.mem := by
  rw [State.wdtRestarted, State.put_mem, State.alert, State.put_mem, State.put_mem, (State.count_onlySignals _ _ _ _).mem]
  rfl

theorem State.wdtRestarted_expired : t.wdtRestarted.get mgtU Reg.mgt.wdtExpired = 0 := by
  rw [State.wdtRestarted, State.get_put_apart _ _ _ _ _ _ (by decide) (by decide) (by decide), State.alert,
    State.get_put_apart _ _ _ _ _ _ (by decide) (by decide) (by decide), State.get_put_same]
  rfl

theorem State.wdtRestarted_safe : t.wdtRestarted.get pwrU Reg.pwr.statSafe = 0 := State.get_put_same ..

/-- A heartbeat's answer reads the clock at most. -/
theorem State.statusBlock_rest : t.statusBlock.2.mgt = t.mgt ∧ t.statusBlock.2.mem = t.mem ∧ t.statusBlock.2.regs = t.regs := by
  unfold State.statusBlock
  dsimp only
  split <;> exact ⟨rfl, rfl, rfl⟩

theorem State.safeEnded_sameUptime : t.wdtRestarted.SameUptime t.safeEnded := by
  unfold State.safeEnded
  split
  · exact State.applyCap_sameUptime _
  · exact .refl _

theorem State.safeEnded_expired : t.safeEnded.get mgtU Reg.mgt.wdtExpired = 0 := by
  unfold State.safeEnded
  split
  · exact (State.applyCap_get_other (by decide) (by decide) rfl (by decide)).trans t.wdtRestarted_expired
  · exact t.wdtRestarted_expired

theorem State.safeEnded_safe : t.safeEnded.get pwrU Reg.pwr.statSafe = 0 := by
  unfold State.safeEnded
  split
  · exact ((State.applyCap_writes _).get (by decide) (by decide)).trans t.wdtRestarted_safe
  · exact t.wdtRestarted_safe

end

end

/-- A message counted in and out changes no record of the port and no memory. -/
theorem State.counted_onlySignals (s : State) : s.OnlySignals ((s.count mgtU 2 1).count mgtU 3 1) :=
  (State.count_onlySignals ..).trans (State.count_onlySignals ..)

theorem State.OnlySignals.sys {s t : State} (h : s.OnlySignals t) : t.sys = s.sys := by rw [h]; rfl

/-- Settles O51, by the lemma about each command. -/
theorem thePortIsAddressed : Obligations.ThePortIsAddressed := by
  refine ⟨fun s => ⟨fun d h => exec_unaddressed h d, fun d a h => execSetdasa_other h d, fun d a h => exec_addressed h d a,
      fun h => ⟨_, execRstdaa_powered h, State.get_put_same .., State.put_mem ..⟩, execRstdaa_unpowered, fun n h => execSetmrl_powered h n,
      execGetmrl_powered, exec_unpowered, fun hp he hr => ⟨execAonStatusRead_read hp he hr, s.statusBlock_length⟩, execAonStatusRead_write⟩,
    fun s => ⟨exec_silent, fun he t ht => ?_⟩⟩
  have counted : s.OnlySignals t := ht ▸ s.counted_onlySignals
  have events {l : List EvtRec} (h : s.mgt.events = l) : t.mgt.events = l := (congrArg MgtRec.events counted.mgt).trans h
  have update (h : s.sys.update = none) : t.sys.update = none := (congrArg SysRec.update counted.sys).trans h
  refine ⟨fun e => execSetEndpointId_barred he ht, fun e => execSetEndpointId_taken he ht, fun q => ⟨_, execHeartbeat_served he ht q, ?heart⟩,
    fun ms hms => ⟨_, execSetTime_waits he ht ms, ?time, rfl, (State.put_mem ..).trans counted.mem⟩,
    fun id r => execGetSensorReading_some he ht, fun id => execGetSensorReading_none he ht, rfl, fun h => execPoll_none he ht (events h),
    fun e h => execPoll_last he ht (events h), fun e f r h => execPoll_more he ht (events h),
    fun image h => execPldm_busy he ht ((congrArg Option.isSome (congrArg SysRec.update counted.sys)).trans h) image,
    fun image r h => execPldm_refused he ht (update h), fun image f h => execPldm_begins he ht (update h), execActivateFirmware_served he ht⟩
  case heart =>
    obtain ⟨mgt, mem, regs⟩ := t.safeEnded.statusBlock_rest
    refine ⟨?_, (State.get_of_regs (by exact regs) _ _).trans t.safeEnded_expired, (State.get_of_regs (by exact regs) _ _).trans t.safeEnded_safe,
      mem.trans (t.safeEnded_sameUptime.mem.trans (t.wdtRestarted_mem.trans counted.mem)), ?_⟩
    · exact (congrArg MgtRec.hbNs mgt).trans (t.safeEnded_sameUptime.hbNs.trans (congrArg MgtRec.hbNs t.wdtRestarted_mgt))
    · exact (List.length_map _).trans t.safeEnded.statusBlock_length
  case time =>
    have stored : (t.put mgtU Reg.mgt.tsSetMs ms).mgt = s.mgt := (State.put_mgt ..).trans counted.mgt
    change { (t.put mgtU Reg.mgt.tsSetMs ms).mgt with setTime := some (ms % 2 ^ 64) } = _
    rw [stored, Nat.mod_eq_of_lt hms]

end Sys2Proof.Machine
end

section
/-!
SUPPORT. Updates of the image over the host path (R550).
-/
namespace Sys2Proof.Machine

section
variable {s : State} {src : Src}

/-- The bytes that an update names, and the state that has read them. -/
def State.stagedImage (s : State) : List Byte × State := s.argBytes (s.get bootU Reg.boot.updateAddr) (s.get bootU Reg.boot.updateLen)

/-- What becomes of an update, by the check of its image. -/
def State.updateFrom (t : State) : Except Nat ImageFacts → State
  | .error r => t.updateRefused r
  | .ok f => t.beginUpdate 0 f

/-! ## What an update is refused for -/

theorem execImageUpdate_vf (h : notVf src = false) : exec (.imageUpdate src) s = .next s := congrArg _ (if_pos (by simp [h]))

section
variable (hv : notVf src = true) (hm : s.ustate s.mccHolder ≠ stFaulted)
include hv hm

theorem execImageUpdate_barred (h : src ≠ .pf ∨ s.mode = 0 ∨ s.mode = 4) : exec (.imageUpdate src) s = .next (s.updateRefused 7) := by
  refine congrArg _ ((if_neg (by simp [hv, hm])).trans (if_pos ?_))
  rcases h with h | h | h
  · exact .inl h
  · exact .inr (by omega)
  · exact .inr (by omega)

variable (hp : src = .pf) (hs : s.mode = 1 ∨ s.mode = 2 ∨ s.mode = 3)
include hp hs

theorem execImageUpdate_busy (h : s.sys.update.isSome = true) : exec (.imageUpdate src) s = .next (s.put bootU Reg.boot.updateResult 1) := by
  refine congrArg _ ((if_neg (by simp [hv, hm])).trans ((if_neg ?_).trans (if_pos h)))
  rintro (other | modes)
  · exact other hp
  · omega

/-- The place of an image that an update may begin from: a range of a partition's local memory. -/
def State.imageStaged (s : State) : Prop :=
  dgaFormed (s.get bootU Reg.boot.updateAddr) = true ∧ dgaNode (s.get bootU Reg.boot.updateAddr) = s.node ∧
    dgaSpace (s.get bootU Reg.boot.updateAddr) = 0 ∧ s.get bootU Reg.boot.updateLen ≠ 0 ∧ s.get bootU Reg.boot.updateLen ≤ 66_846_720 ∧
    ∃ p < 8, s.inRegion p (dgaOff (s.get bootU Reg.boot.updateAddr)) (s.get bootU Reg.boot.updateLen) = true

variable (hu : s.sys.update = none)
include hu

theorem execImageUpdate_idle : exec (.imageUpdate src) s = .next (
    if !dgaFormed (s.get bootU Reg.boot.updateAddr) ∨ dgaNode (s.get bootU Reg.boot.updateAddr) ≠ s.node ∨
        dgaSpace (s.get bootU Reg.boot.updateAddr) ≠ 0 ∨ s.get bootU Reg.boot.updateLen = 0 ∨ 66_846_720 < s.get bootU Reg.boot.updateLen ∨
        !(List.range 8).any (fun p => s.inRegion p (dgaOff (s.get bootU Reg.boot.updateAddr)) (s.get bootU Reg.boot.updateLen)) then
      s.updateRefused 2
    else s.stagedImage.2.updateFrom (s.checkImage s.stagedImage.1)) := by
  refine congrArg Host.Outcome.next ((if_neg (by simp [hv, hm])).trans ((if_neg ?_).trans ((if_neg (by simp [hu])).trans ?_)))
  · rintro (other | modes)
    · exact other hp
    · omega
  · refine if_congr Iff.rfl rfl ?_
    dsimp only
    change _ = State.updateFrom _ (s.checkImage (s.argBytes _ _).1)
    cases s.checkImage (s.argBytes (s.get bootU Reg.boot.updateAddr) (s.get bootU Reg.boot.updateLen)).1 <;> rfl

theorem execImageUpdate_empty (h : s.get bootU Reg.boot.updateLen = 0) : exec (.imageUpdate src) s = .next (s.updateRefused 2) := by
  rw [execImageUpdate_idle hv hm hp hs hu, if_pos (by simp [h])]

theorem execImageUpdate_staged (h : s.imageStaged) : exec (.imageUpdate src) s =
    .next (s.stagedImage.2.updateFrom (s.checkImage s.stagedImage.1)) := by
  obtain ⟨formed, node, space, long, short, p, hp8, inside⟩ := h
  have somewhere : (List.range 8).any (fun p => s.inRegion p (dgaOff (s.get bootU Reg.boot.updateAddr)) (s.get bootU Reg.boot.updateLen)) = true :=
    List.any_eq_true.mpr ⟨p, List.mem_range.mpr hp8, inside⟩
  rw [execImageUpdate_idle hv hm hp hs hu, if_neg]
  rw [formed, somewhere]
  simp only [Bool.not_true, Bool.false_eq_true, false_or, or_false]
  omega

variable (h : s.imageStaged)
include h

theorem execImageUpdate_begins {f : ImageFacts}
    (hc : s.checkImage s.stagedImage.1 = .ok f) : exec (.imageUpdate src) s = .next (s.stagedImage.2.beginUpdate 0 f) := by
  rw [execImageUpdate_staged hv hm hp hs hu h, hc, State.updateFrom]

theorem execImageUpdate_bad {r : Nat}
    (hc : s.checkImage s.stagedImage.1 = .error r) : exec (.imageUpdate src) s = .next (s.stagedImage.2.updateRefused r) := by
  rw [execImageUpdate_staged hv hm hp hs hu h, hc, State.updateFrom]

end

end

/-! ## An update begins, and ends -/

section
variable (s : State)

theorem State.beginUpdate_fields (k : Nat) (f : ImageFacts) : (s.beginUpdate k f).sys.update = some (k, f) ∧
    (s.beginUpdate k f).get bootU Reg.boot.updateBusy = 1 ∧ (s.beginUpdate k f).mem = s.mem :=
  ⟨congrArg SysRec.update ((State.put_sys ..).trans (State.put_sys ..)),
    (State.get_put_apart _ _ _ _ _ _ (by decide) (by decide) (by decide)).trans (State.get_put_same ..),
    (State.put_mem ..).trans ((State.put_mem ..).trans rfl)⟩

theorem State.updateRefused_writes (r : Nat) : s.Writes [Reg.boot.updateResult] (s.updateRefused r) :=
  ((State.Writes.refl s).put _ (by decide) (by decide) _).reports ((State.irq_reports ..).trans (State.modEvent_reports ..))

theorem State.updateRefused_result (r : Nat) (h : r < 16) : (s.updateRefused r).get bootU Reg.boot.updateResult = r :=
  (((State.irq_reports ..).trans (State.modEvent_reports ..)).get (by decide) (by decide)).trans
    ((State.get_put_same ..).trans (Nat.mod_eq_of_lt h))

/-- The slot when the write of an image has ended. -/
def State.slotWritten (ok : Bool) (f : ImageFacts) (kib : Nat) : State :=
  ((s.setSys (fun x => { x with update := none, slotBad := !ok, slot := if ok then some f else x.slot })).put bootU Reg.boot.updateBusy 0).put
    bootU Reg.boot.updateDoneKib kib

variable {s}

theorem execUpdateDone_none (h : s.sys.update = none) (ok : Bool) (kib : Nat) : exec (.updateDone ok kib) s = .next s := by
  change execUpdateDone ok kib s = _
  rw [execUpdateDone, h]

theorem execUpdateDone_good {k : Nat} {f : ImageFacts} (h : s.sys.update = some (k, f)) (kib : Nat) : exec (.updateDone true kib) s =
    .next ((((s.slotWritten true f kib).put bootU Reg.boot.failsConsec 0).count bootU 7 1).updateRefused 0) := by
  change execUpdateDone true kib s = _
  rw [execUpdateDone, h]
  rfl

theorem execUpdateDone_bad {k : Nat} {f : ImageFacts} (h : s.sys.update = some (k, f)) (kib : Nat) : exec (.updateDone false kib) s =
    .next ((s.slotWritten false f kib).updateRefused 6) := by
  change execUpdateDone false kib s = _
  rw [execUpdateDone, h]
  rfl

theorem State.slotWritten_sys (ok : Bool) (f : ImageFacts) (kib : Nat) : (s.slotWritten ok f kib).sys =
    { s.sys with update := none, slotBad := !ok, slot := if ok then some f else s.sys.slot } := (State.put_sys ..).trans (State.put_sys ..)

theorem State.slotWritten_busy (ok : Bool) (f : ImageFacts) (kib : Nat) : (s.slotWritten ok f kib).get bootU Reg.boot.updateBusy = 0 :=
  (State.get_put_apart _ _ _ _ _ _ (by decide) (by decide) (by decide)).trans (State.get_put_same ..)

theorem State.slotWritten_fails (ok : Bool) (f : ImageFacts) (kib : Nat) :
    (s.slotWritten ok f kib).get bootU Reg.boot.failsConsec = s.get bootU Reg.boot.failsConsec :=
  (State.get_put_apart _ _ _ _ _ _ (by decide) (by decide) (by decide)).trans
    ((State.get_put_apart _ _ _ _ _ _ (by decide) (by decide) (by decide)).trans (State.get_of_regs (by rfl) _ _))

/-- A good write ends the count of failures. -/
def State.failsCleared (s : State) : State := (s.put bootU Reg.boot.failsConsec 0).count bootU 7 1

theorem State.failsCleared_writes : s.Writes [Reg.boot.failsConsec] s.failsCleared :=
  ((State.Writes.refl s).put _ (by decide) (by decide) _).reports (State.count_reports ..)

theorem State.failsCleared_fails : s.failsCleared.get bootU Reg.boot.failsConsec = 0 :=
  ((State.count_reports ..).get (by decide) (by decide)).trans (State.get_put_same ..)

end

/-- Settles O47, by the lemma about each of its ends. -/
theorem imagesAreUpdated : Obligations.ImagesAreUpdated := by
  intro s src
  refine ⟨execImageUpdate_vf, fun hv hm => ⟨execImageUpdate_barred hv hm, fun hp hs => ⟨execImageUpdate_busy hv hm hp hs,
      execImageUpdate_empty hv hm hp hs, fun p hu formed node space long short hp8 inside => ?image⟩⟩,
    fun kib h => execUpdateDone_none h true kib,
    fun k f kib h => ⟨⟨_, execUpdateDone_good h kib, ?good⟩, ⟨_, execUpdateDone_bad h kib, ?bad⟩⟩⟩
  case image =>
    have staged : s.imageStaged := ⟨formed, node, space, Nat.ne_of_gt long, short, p, hp8, inside⟩
    exact ⟨fun f hc => ⟨_, execImageUpdate_begins hv hm hp hs hu staged hc, State.beginUpdate_fields ..⟩,
      fun r hc => execImageUpdate_bad hv hm hp hs hu staged hc⟩
  case good =>
    have cleared := (s.slotWritten true f kib).failsCleared_writes
    have told := (s.slotWritten true f kib).failsCleared.updateRefused_writes 0
    have sys := (told.sys.trans cleared.sys).trans (State.slotWritten_sys true f kib)
    exact ⟨congrArg SysRec.slot sys, congrArg SysRec.slotBad sys, congrArg SysRec.update sys,
      (told.get (by decide) (by decide)).trans State.failsCleared_fails, State.updateRefused_result _ 0 (by decide),
      ((told.get (by decide) (by decide)).trans (cleared.get (by decide) (by decide))).trans (State.slotWritten_busy true f kib)⟩
  case bad =>
    have told := (s.slotWritten false f kib).updateRefused_writes 6
    have sys := told.sys.trans (State.slotWritten_sys false f kib)
    exact ⟨(congrArg SysRec.slot sys).trans rfl, congrArg SysRec.slotBad sys, congrArg SysRec.update sys,
      (told.get (by decide) (by decide)).trans (State.slotWritten_fails false f kib), State.updateRefused_result _ 6 (by decide)⟩

end Sys2Proof.Machine
end

section
/-!
SUPPORT. What leaves the start-up record as it is: registers, reports, and what a port does when it goes down.
-/
namespace Sys2Proof.Machine

section
variable (s : State)

@[simp] theorem State.count_sys (u : UnitId) (k n : Nat) : (s.count u k n).sys = s.sys := (State.count_onlySignals s u k n).sys

@[simp] theorem State.irq_sys (u : UnitId) (m : Nat) : (s.irq u m).sys = s.sys := (State.irq_onlySignals s u m).sys

theorem State.Reports.sys {s t : State} (h : s.Reports t) : t.sys = s.sys := by rw [h.rest]; rfl

@[simp] theorem State.modEvent_sys (code v0 v1 : Nat) : (s.modEvent code v0 v1).sys = s.sys := (State.modEvent_reports s code v0 v1).sys

@[simp] theorem State.eventM_sys (u : Option UnitId) (code v0 v1 : Nat) : (s.eventM u code v0 v1).sys = s.sys :=
  (State.eventM_reports s u code v0 v1).sys

@[simp] theorem State.setState_sys (u : UnitId) (st : Nat) : (s.setState u st).sys = s.sys := (State.setState_onlySignals s u st).sys

@[simp] theorem State.alert_sys (i : Nat) (on : Bool) : (s.alert i on).sys = s.sys := State.put_sys ..

@[simp] theorem State.putAon_sys (f : Field) (v : Nat) : (s.putAon f v).sys = s.sys := (State.put_sys ..).trans (State.put_sys ..)

@[simp] theorem State.applyCap_sys : s.applyCap.sys = s.sys := s.applyCap_writes.sys

/-! ## Ports (R408, R412, R439) -/

@[simp] theorem State.setLink_sys (k : Nat) (f : LinkRec → LinkRec) : (s.setLink k f).sys = s.sys := rfl

@[simp] theorem State.setLinkState_sys (k st : Nat) : (s.setLinkState k st).sys = s.sys := State.put_sys ..

@[simp] theorem State.sendControl_sys (k : Nat) (c : Ctl) (args : List Nat) : (s.sendControl k c args).sys = s.sys := by
  simp [State.sendControl]

@[simp] theorem State.sendData_sys (k seq : Nat) : (s.sendData k seq).sys = s.sys := by
  unfold State.sendData
  dsimp only
  split <;> simp

@[simp] theorem State.sendOn_sys (k : Nat) (p : Pkt) : (s.sendOn k p).sys = s.sys := by
  unfold State.sendOn
  dsimp only
  rw [State.count_sys, State.setNet_sys]
  exact (foldl_keeps_value State.sys (fun t _ _ => by simp) _).trans (State.emit_sys ..)

@[simp] theorem State.sendMarks_sys (tc h : Nat) : (s.sendMarks tc h).sys = s.sys := by
  refine (foldl_keeps_value State.sys (fun t k _ => ?_) _).trans rfl
  split
  · simp
  · rfl

@[simp] theorem State.advanceDrain_sys : s.advanceDrain.sys = s.sys := by
  unfold State.advanceDrain
  split
  · rfl
  · next v _ =>
    have marks : ((s.marksDue v).foldl (fun t m => t.sendMarks m.1 m.2) s).sys = s.sys :=
      foldl_keeps_value State.sys (fun t m _ => State.sendMarks_sys t m.1 m.2) s
    have routes (t : State) : ((List.range 64).foldl (fun t d => t.setRoute v d 0) t).sys = t.sys :=
      foldl_keeps_value State.sys (fun t d _ => State.put_sys ..) t
    dsimp only
    split
    · rw [State.put_sys, marks]
    · rw [State.eventM_sys, State.irq_sys, State.irq_sys, State.setNet_sys, State.setEpochState, State.put_sys, routes, State.put_sys, marks]

@[simp] theorem State.quiesce_sys (u : UnitId) : (s.quiesce u).sys = s.sys := by
  unfold State.quiesce
  split
  · rfl
  · dsimp only
    split <;> simp

@[simp] theorem State.portOff_sys (k : Nat) : (s.portOff k).sys = s.sys := by
  unfold State.portOff
  dsimp only
  split <;> simp

@[simp] theorem State.sendLoss_sys (u : UnitId) (p : Pkt) (reason : Nat) : (s.sendLoss u p reason).sys = s.sys := by
  unfold State.sendLoss
  split
  · rfl
  · simp [State.inject]

@[simp] theorem State.countPause_sys (k us : Nat) : (s.countPause k us).sys = s.sys :=
  foldl_keeps_value State.sys (fun _ _ _ => State.count_sys ..) s

@[simp] theorem State.linkEvent_sys (k code old new reason dur : Nat) : (s.linkEvent k code old new reason dur).sys = s.sys :=
  (State.linkEvent_reports s k code old new reason dur).sys

@[simp] theorem State.goDown_sys (k reason : Nat) : (s.goDown k reason).sys = s.sys := by
  unfold State.goDown
  extract_lets u old l dur s1 s2 s3 s4 s5 s6 lost s7
  have lowered : s3.sys = s.sys := by simp [s3, s2, s1]
  have recovered : s4.sys = s.sys := by
    dsimp only [s4]
    split <;> simp [lowered]
  have told : s6.sys = s.sys := by simp [s6, s5, recovered]
  have losses : s7.sys = s.sys := (foldl_keeps_value State.sys (fun t p _ => by simp) s6).trans told
  split
  · rfl
  · rw [State.advanceDrain_sys]
    split
    · rw [State.portOff_sys, losses]
    · exact losses

/-! ## A reset and a start (R539, R542, R561) -/

theorem State.aonRuns_sys : s.aonRuns.sys = s.sys := (State.put_sys ..).trans (State.put_sys ..)

/-- What a reset leaves but for AON's fields. -/
def State.wipedBare (host links : Bool) : State := { State.reset with
  pending := s.pending, freeIdx := s.freeIdx, resp := s.resp, out := s.out, sys := s.sys, mgt := s.mgt
  regs := s.regs.filter (fun e => (host && portHRegs e.1) || (links && linkRegs e.1))
  counts := s.counts.filter (fun e => aonCounter e.1)
  mem := s.mem.filter (fun c => decide (c.1 / 2 ^ 48 = 2)), poison := s.poison.filter (fun l => decide (l * 256 / 2 ^ 48 = 2))
  hurt := { tags := s.hurt.tags.filter (fun l => decide (l * 256 / 2 ^ 48 = 2)) }
  talon := { discard := s.talon.discard, programming := s.talon.programming, overflow := s.talon.overflow, suspects := s.talon.suspects }
  net := if links then s.net else {}
  modWait := if host then s.modWait else [], modSeq := if host then s.modSeq else 0, modLost := if host then s.modLost else 0
  modUnsig := if host then s.modUnsig else 0
  pwr := { half := s.flag pwrU Reg.pwr.statThrot }, memHeld := true }

/-- AON's fields come back, each from the state before the reset. -/
def State.restored (t : State) (l : List (UnitId × Field)) : State := l.foldl (fun t e => t.put e.1 e.2 (s.get e.1 e.2)) t

/-- What a reset leaves, AON not yet running. -/
def State.wipedStill (host links : Bool) : State :=
  ((s.restored (s.wipedBare host links) aonFields).put pwrU Reg.pwr.statSafe (s.get mgtU Reg.mgt.wdtExpired)).setSys
    (fun x => { x with start := none, retry := false, cmp := { x.cmp with held := false }, stable := false })

theorem State.wiped_eq (host links : Bool) : s.wiped host links =
    if (s.wipedStill host links).sys.powered then (s.wipedStill host links).aonRuns else s.wipedStill host links := rfl

theorem State.wipedBare_sys (host links : Bool) : (s.wipedBare host links).sys = s.sys := rfl

theorem State.restored_sys (t : State) (l : List (UnitId × Field)) : (s.restored t l).sys = t.sys := by
  unfold State.restored
  refine foldl_keeps_value State.sys ?_ t
  exact fun b e _ => State.put_sys ..

theorem State.wipedStill_sys (host links : Bool) : (s.wipedStill host links).sys =
    { s.sys with start := none, retry := false, cmp := { s.sys.cmp with held := false }, stable := false } := by
  rw [State.wipedStill, State.setSys_sys, State.put_sys, State.restored_sys, State.wipedBare_sys]

/-- A reset of the module ends its start, and leaves the rest of the record. -/
theorem State.wiped_sys (host links : Bool) : (s.wiped host links).sys =
    { s.sys with start := none, retry := false, cmp := { s.sys.cmp with held := false }, stable := false } := by
  rw [State.wiped_eq]
  split
  · rw [State.aonRuns_sys, State.wipedStill_sys]
  · exact s.wipedStill_sys host links

/-- From s to t the module's power and its reset stay as they are. -/
structure State.SamePower (s t : State) : Prop where
  powered : t.sys.powered = s.sys.powered
  hotswap : t.sys.hotswap = s.sys.hotswap
  modRst : t.sys.modRst = s.sys.modRst
  pwrEn : t.sys.pwrEn = s.sys.pwrEn

theorem State.SamePower.refl : s.SamePower s := ⟨rfl, rfl, rfl, rfl⟩

variable {s} in
theorem State.SamePower.trans {t v : State} (h : s.SamePower t) (k : t.SamePower v) : s.SamePower v :=
  ⟨k.powered.trans h.powered, k.hotswap.trans h.hotswap, k.modRst.trans h.modRst, k.pwrEn.trans h.pwrEn⟩

variable {s} in
theorem State.SamePower.of_sys {t : State} (h : t.sys = s.sys) : s.SamePower t := by
  constructor <;> rw [h]

theorem State.setSys_samePower {f : SysRec → SysRec} (hp : (f s.sys).powered = s.sys.powered) (hh : (f s.sys).hotswap = s.sys.hotswap)
    (hm : (f s.sys).modRst = s.sys.modRst) (he : (f s.sys).pwrEn = s.sys.pwrEn) : s.SamePower (s.setSys f) := ⟨hp, hh, hm, he⟩

theorem State.cutUpdate_samePower : s.SamePower s.cutUpdate := by
  unfold State.cutUpdate
  split
  · exact State.setSys_samePower s rfl rfl rfl rfl
  · exact .refl s

theorem State.outcomeIs_samePower (o reason : Nat) : s.SamePower (s.outcomeIs o reason) := State.setSys_samePower s rfl rfl rfl rfl

theorem State.interrupted_samePower : s.SamePower s.interrupted := by
  unfold State.interrupted
  split
  · exact State.outcomeIs_samePower s 4 0x0702
  · exact .refl s

theorem State.wiped_samePower (host links : Bool) : s.SamePower (s.wiped host links) := by
  constructor <;> rw [State.wiped_sys]

theorem State.firstHolders_sys (failed : List (Nat × Nat)) : (s.firstHolders failed).sys = s.sys := by simp [State.firstHolders]

theorem State.stageBegins_samePower (n : Nat) : s.SamePower (s.stageBegins n) := by
  have shown : s.SamePower ((s.put bootU Reg.boot.stateStage n).setSys
      (fun x => { x with start := x.start.map (fun (t : StartRec) => { t with stageAt := s.now }) })) :=
    (State.SamePower.of_sys (State.put_sys ..)).trans (State.setSys_samePower _ rfl rfl rfl rfl)
  unfold State.stageBegins
  dsimp only
  split
  · refine shown.trans (.of_sys (foldl_keeps_value State.sys (fun t i _ => ?_) _))
    split
    · exact State.put_sys ..
    · rfl
  · exact shown

/-- The Discard's units are marked. -/
theorem State.markRetired_sys (l : List DiscardEnt) : (l.foldl (fun (t : State) e =>
    match blkAll.find? (fun b => blkCode b == e.type) with
    | some b => if e.inst < blkCount b then t.put ⟨b, e.inst⟩ Reg.common.retired 1 else t
    | none => t) s).sys = s.sys := by
  refine foldl_keeps_value State.sys (fun t e _ => ?_) s
  split
  · split
    · exact State.put_sys ..
    · rfl
  · rfl

theorem State.beginFull_samePower (host : Bool) : s.SamePower (s.beginFull host) := by
  unfold State.beginFull
  extract_lets s1 s2 s3 s4
  have began : s.SamePower s2 := (((s.wiped_samePower host false).trans (State.setSys_samePower _ rfl rfl rfl rfl)).trans
    (.of_sys (State.count_sys ..))).trans (State.setSys_samePower _ rfl rfl rfl rfl)
  have held : s.SamePower s3 := began.trans (.of_sys (by simp [s3, State.firstHolders_sys]))
  have marked : s.SamePower s4 := held.trans (.of_sys (State.markRetired_sys s3 _))
  exact (marked.trans (.of_sys (State.put_sys ..))).trans (State.stageBegins_samePower _ 1)

theorem State.stopModule_samePower (reason : Nat) : s.SamePower (s.stopModule reason) := by
  unfold State.stopModule
  extract_lets s1 act s2 s3
  have told : s.SamePower s1 := .of_sys (by simp [s1])
  have down : s.SamePower s2 := told.trans (.of_sys (foldl_keeps_value State.sys (fun t k _ => by simp) s1))
  have shown : s.SamePower s3 := by
    refine State.SamePower.trans (t := if s2.sys.cur.kind = 0 then s2 else s2.outcomeIs 5 reason) ?_ (.of_sys (State.putAon_sys ..))
    split
    · exact down
    · exact down.trans (State.outcomeIs_samePower ..)
  exact ((((shown.trans (State.cutUpdate_samePower _)).trans (State.wiped_samePower ..)).trans (State.setSys_samePower _ rfl rfl rfl rfl)).trans
    (.of_sys (State.untick_sys _)))

end

end Sys2Proof.Machine
end

section
/-!
SUPPORT. Module reset, PWR_EN and the hot-swap controller (R539, R561, R587, R616, R629, R630).
-/
namespace Sys2Proof.Machine

section
variable (s : State)

/-! ## MOD_RST_N and PWR_EN (R539, R561, R616) -/

theorem State.interrupted_idle {s : State} (h : s.sys.start = none) : s.interrupted = s := if_neg (by simp [h])

theorem State.cutUpdate_idle {s : State} (h : s.sys.update = none) : s.cutUpdate = s := if_neg (by simp [h])

/-- MOD_RST_N is asserted. -/
def State.inReset : State := (s.interrupted.cutUpdate).setSys (fun x => { x with modRst := true })

/-- A powered module under MOD_RST_N: AON counts the reset, and a debug unlock ends. -/
def State.resetPowered : State :=
  ((((s.count ⟨.aon, 0⟩ 2 1).count ⟨.aon, 1⟩ 2 1).wiped false false).put secU Reg.sec.debugScope 0).put secU Reg.sec.debugUnlocked 0
    |>.put secU Reg.sec.debugJtagLock 1

/-- What the assertion of MOD_RST_N leaves. -/
def State.resetAsserted : State :=
  if !s.inReset.sys.powered then s.inReset
  else { s.inReset.resetPowered with talon := { s.inReset.resetPowered.talon with overflow := [] } }

theorem execModRstAssert_released {s : State} (h : s.sys.modRst = false) : exec .modRstAssert s = .next s.resetAsserted :=
  congrArg _ (if_neg (by simp [h]))

theorem State.inReset_idle {s : State} (hs : s.sys.start = none) (hu : s.sys.update = none) :
    s.inReset = s.setSys (fun x => { x with modRst := true }) := by rw [State.inReset, State.interrupted_idle hs, State.cutUpdate_idle hu]

theorem State.inReset_powered : s.inReset.sys.powered = s.sys.powered := (s.interrupted_samePower.trans (State.cutUpdate_samePower _)).powered

theorem State.resetPowered_samePower : s.SamePower s.resetPowered := by
  have counted : s.SamePower ((s.count ⟨.aon, 0⟩ 2 1).count ⟨.aon, 1⟩ 2 1) := .of_sys (by simp)
  exact (counted.trans (State.wiped_samePower _ false false)).trans (.of_sys (by simp [State.resetPowered]))

theorem State.resetAsserted_modRst : s.resetAsserted.sys.modRst = true := by
  unfold State.resetAsserted
  split
  · rfl
  · exact (State.resetPowered_samePower s.inReset).modRst

theorem State.resetAsserted_unpowered {s : State} (hp : s.sys.powered = false) (hs : s.sys.start = none) (hu : s.sys.update = none) :
    s.resetAsserted.regs = s.regs ∧ s.resetAsserted.mem = s.mem := by
  rw [State.resetAsserted, if_pos (by rw [State.inReset_powered, hp]; rfl), State.inReset_idle hs hu]
  exact ⟨rfl, rfl⟩

theorem execModRst_asserted {s : State} (h : s.sys.modRst = true) (coolant : Bool) (inlet : Nat) : exec .modRstAssert s = .next s ∧
    exec (.modRstRelease coolant inlet) s = .next ((s.setSys (fun x => { x with modRst := false })).mayStart coolant inlet) :=
  ⟨congrArg _ (if_pos h), congrArg _ (if_neg (by simp [h]))⟩

theorem execPwrEnHigh_low {s : State} (h : s.sys.pwrEn = false) (coolant : Bool) (inlet : Nat) : exec (.pwrEnHigh coolant inlet) s =
    .next ((s.setSys (fun x => { x with pwrEn := true, pgood := x.powered })).mayStart coolant inlet) := congrArg _ (if_neg (by simp [h]))

/-- PWR_EN is low, and PGOOD with it. -/
def State.pwrEnLost : State := (s.interrupted.cutUpdate).setSys (fun x => { x with pwrEn := false, pgood := false })

theorem execPwrEnLow_high {s : State} (h : s.sys.pwrEn = true) : exec .pwrEnLow s =
    .next (if s.pwrEnLost.sys.powered then (s.pwrEnLost.wiped false false).untick else s.pwrEnLost) := congrArg _ (if_neg (by simp [h]))

theorem State.pwrEnLost_low (reset : Bool) : (if reset then (s.pwrEnLost.wiped false false).untick else s.pwrEnLost).sys.pwrEn = false ∧
    (if reset then (s.pwrEnLost.wiped false false).untick else s.pwrEnLost).sys.pgood = false := by
  split
  · rw [State.untick_sys, State.wiped_sys]
    exact ⟨rfl, rfl⟩
  · exact ⟨rfl, rfl⟩

/-! ## The hot-swap controller (R629, R630) -/

theorem execHsEnClose_open {s : State} (h : s.sys.hsEn = false) : exec .hsEnClose s =
    .next (s.setSys (fun x => { x with hsEn := true, hotswap := if x.vin then 1 else 0 })) := congrArg _ (if_neg (by simp [h]))

theorem execHotswapDebounce_done {s : State} (h : s.sys.hotswap = 1) : exec .hotswapDebounce s = .next (s.setSys (fun x => { x with hotswap := 2 })) :=
  congrArg _ (if_pos h)

/-- AON has its power. -/
def State.aonPowered : State :=
  [(⟨.aon, 0⟩ : UnitId), ⟨.aon, 1⟩].foldl State.enter (s.setSys (fun x => { x with hotswap := 3, powered := true, pgood := x.pwrEn }))

theorem execHotswapRampDone_ramped {s : State} (h : s.sys.hotswap = 2) (coolant : Bool) (inlet : Nat) :
    exec (.hotswapRampDone coolant inlet) s = .next (s.aonPowered.mayStart coolant inlet) := congrArg _ (if_neg (not_not_intro h))

theorem execHotswapRampDone_other {s : State} (h : s.sys.hotswap ≠ 2) (coolant : Bool) (inlet : Nat) :
    exec (.hotswapRampDone coolant inlet) s = .next s := congrArg _ (if_pos h)

theorem State.enter_sys (u : UnitId) : (s.enter u).sys = s.sys := by
  unfold State.enter
  dsimp only
  rw [State.setState_sys]
  split
  · exact State.setState_sys ..
  · rfl

theorem State.mayStart_samePower (coolant : Bool) (inlet : Nat) : s.SamePower (s.mayStart coolant inlet) := by
  unfold State.mayStart
  extract_lets s1 s2
  have shown : s.SamePower s1 := (State.setSys_samePower s rfl rfl rfl rfl).trans (.of_sys (State.put_sys ..))
  have begun : s.SamePower s2 := (shown.trans (State.setSys_samePower _ rfl rfl rfl rfl)).trans (State.beginFull_samePower _ false)
  split
  · exact shown
  · split
    · exact shown
    · split
      · exact begun
      · exact (begun.trans (.of_sys (State.count_sys ..))).trans (State.stopModule_samePower ..)

theorem State.aonPowered_sys : s.aonPowered.sys = { s.sys with hotswap := 3, powered := true, pgood := s.sys.pwrEn } :=
  (State.enter_sys _ _).trans (State.enter_sys _ _)

/-- What the record keeps of a loss of power, whatever had power before. -/
theorem State.powerLost_sys (hs : Nat) : (s.powerLost hs).sys.powered = false ∧ (s.powerLost hs).sys.hotswap = hs ∧
    (s.powerLost hs).sys.hsEn = s.sys.hsEn ∧ (s.powerLost hs).sys.vin = s.sys.vin ∧ (s.powerLost hs).sys.trips = s.sys.trips := by
  have cut : s.cutUpdate.sys.hsEn = s.sys.hsEn ∧ s.cutUpdate.sys.vin = s.sys.vin ∧ s.cutUpdate.sys.trips = s.sys.trips := by
    unfold State.cutUpdate
    split <;> exact ⟨rfl, rfl, rfl⟩
  cases h : s.sys.powered with
  | true =>
    rw [State.powerLost_powered s hs h, State.put_sys, State.put_sys]
    exact ⟨rfl, rfl, cut⟩
  | false =>
    have still : s.powerLost hs = s.setSys (fun x => { x with hotswap := hs }) := if_pos (by rw [State.cutUpdate_powered, h]; rfl)
    rw [still]
    exact ⟨h, rfl, rfl, rfl, rfl⟩

theorem execHsEnOpen_closed {s : State} (h : s.sys.hsEn = true) :
    exec .hsEnOpen s = .next ((s.setSys (fun x => { x with hsEn := false, trips := 0 })).powerLost 0) := congrArg _ (if_neg (by simp [h]))

theorem execVinInRange_out {s : State} (h : s.sys.vin = false) : exec .vinInRange s =
    .next (s.setSys (fun x => { x with vin := true, hotswap := if x.hsEn && x.hotswap == 0 then 1 else x.hotswap })) :=
  congrArg _ (if_neg (by simp [h]))

theorem execCircuitBreakerTrip_on {s : State} (h : s.sys.hotswap = 2 ∨ s.sys.hotswap = 3) : exec .circuitBreakerTrip s =
    .next ((s.setSys (fun x => { x with trips := x.trips + 1 })).powerLost (if s.sys.trips < 3 then 4 else 5)) := congrArg _ (if_pos h)

theorem execBreakerRetry_tripped {s : State} (h : s.sys.hotswap = 4) (hv : s.sys.vin = true) (he : s.sys.hsEn = true) :
    exec .breakerRetry s = .next (s.setSys (fun x => { x with hotswap := 2 })) := congrArg _ (if_pos ⟨h, hv, he⟩)

theorem exec_latchedOff {s : State} (h : s.sys.hotswap = 5) : exec .breakerRetry s = .next s ∧ exec .circuitBreakerTrip s = .next s :=
  ⟨congrArg _ (if_neg (by simp [h])), congrArg _ (if_neg (by simp [h]))⟩

theorem execPowerControlLost_awake {s : State} (h : s.awake = true) :
    exec .powerControlLost s = .next ((s.fresh.2.modEvent 0xA007 0 0).stopModule (s.fresh.1 % 2 ^ 16)) := congrArg _ (if_pos h)

end

/-- Settles O43, by what each command leaves of the power's record. -/
theorem powerComesAndGoes : Obligations.PowerComesAndGoes := by
  refine fun s coolant inlet => ⟨fun h => ⟨_, execModRstAssert_released h, s.resetAsserted_modRst, State.resetAsserted_unpowered⟩,
    fun h => execModRst_asserted h coolant inlet, fun h => execPwrEnHigh_low h coolant inlet,
    fun h => ⟨_, execPwrEnLow_high h, s.pwrEnLost_low _⟩, execHsEnClose_open, execHotswapDebounce_done,
    fun h => ⟨_, execHotswapRampDone_ramped h coolant inlet, ?powered, ?ramped⟩, fun h => execHotswapRampDone_other h coolant inlet,
    fun h => ⟨_, execHsEnOpen_closed h, ?opened⟩, fun h => ⟨_, execVinLockout_present h, ?lockout⟩,
    fun h => ⟨_, execVinInRange_out h, rfl, rfl, if_congr (by simp) rfl rfl⟩, fun h => ⟨_, execCircuitBreakerTrip_on h, ?tripped⟩,
    execBreakerRetry_tripped, exec_latchedOff, fun h => ⟨_, execPowerControlLost_awake h, State.stopModule_stopped _ _⟩⟩
  case powered => exact (State.mayStart_samePower ..).powered.trans (congrArg SysRec.powered s.aonPowered_sys)
  case ramped => exact (State.mayStart_samePower ..).hotswap.trans (congrArg SysRec.hotswap s.aonPowered_sys)
  case opened =>
    obtain ⟨powered, hotswap, hsEn, -, trips⟩ := State.powerLost_sys (s.setSys (fun x => { x with hsEn := false, trips := 0 })) 0
    exact ⟨hsEn, hotswap, trips, powered⟩
  case lockout =>
    obtain ⟨powered, hotswap, -, vin, -⟩ := State.powerLost_sys (s.setSys (fun x => { x with vin := false })) (if s.sys.hotswap = 5 then 5 else 0)
    exact ⟨vin, powered, hotswap⟩
  case tripped =>
    obtain ⟨powered, hotswap, -, -, trips⟩ :=
      State.powerLost_sys (s.setSys (fun x => { x with trips := x.trips + 1 })) (if s.sys.trips < 3 then 4 else 5)
    exact ⟨trips, powered, hotswap⟩

end Sys2Proof.Machine
end

section
/-!
SUPPORT. The compute-only reset and the restart after it (R557, R558, R560, R561, R565).
-/
namespace Sys2Proof.Machine

/-! ## What the compute dies lose leaves BOOT's page and the power's record (R559) -/

section
variable (s : State)

/-- What the compute dies hold, apart from the states of units, the spares, the plans, the keys and the groups. -/
def State.withoutStep : State := { s with
  parts := s.parts.map (fun (e : Nat × PartRec) => (e.1, { evtSeq := e.2.evtSeq, fencing := e.2.fencing })) |>.filter (fun e => e.2 != {})
  pge := [], scoreboard := [], resv := [], tbl := [], memWait := [], coll := [], held := [], merge := none
  units := s.units.filter (fun e => match unitOfPage e.1 with | some u => !computeBlks.contains u.blk && u.blk != .ce | none => false)
  hurt := { s.hurt with armed := s.hurt.armed.filter (fun a => !computeBlks.contains a.1.blk) }
  talon := { s.talon with remaps := [] }
  net := { s.net with reqs := [], pushUsed := [], waiting := [] }, memHeld := true, recovering := false }

/-- A unit of the compute dies is OFF. -/
def State.computeOff (u : UnitId) : State := if computeBlks.contains u.blk then s.setState u stOff else s

/-- A spare of a remap that is abandoned goes back. -/
def State.spareBack (u : UnitId) : State := (s.setState u stOff).put u Reg.common.spare 1

/-- The spares of the remaps under way. -/
def State.remapSpares : List UnitId := s.talon.remaps.filterMap (fun r => r.spare.map (fun i => (⟨r.retiring.blk, i⟩ : UnitId)))

/-- No plan is present. -/
def State.plansGone : State := (s.put dlrU Reg.dlr.planPresent 0).put dlrU Reg.dlr.planBusy 0

/-- A group that was in use is broken. -/
def State.groupBroken (g : Nat) : State := if s.gstate g ≠ gsUnused then s.setGrp g Reg.ce.grpGstate gsBroken else s

/-- The bundle keys are gone. -/
def State.bundleKeysGone : State := (List.range 8).foldl (fun t p => t.setSec p (fun x => { x with bundleKey := none })) s

/-- The units, the spares and the plans of the compute dies are lost. -/
def State.unitsLost : State :=
  (s.remapSpares.foldl State.spareBack ((s.litUnits.foldl State.computeOff s.withoutStep).setSys (fun x => { x with wave := [] }))).plansGone

theorem State.computeLost_eq : s.computeLost =
    { (List.range 64).foldl State.groupBroken s.unitsLost.bundleKeysGone with grps := [] } := rfl

/-- From s to t BOOT's status of the compute reset and the power's record stay. -/
structure State.KeepsReset (s t : State) : Prop where
  reset : t.get bootU Reg.boot.stateComputeReset = s.get bootU Reg.boot.stateComputeReset
  cmp : t.sys.cmp = s.sys.cmp

theorem State.KeepsReset.refl : s.KeepsReset s := ⟨rfl, rfl⟩

variable {s} in
theorem State.KeepsReset.trans {t v : State} (h : s.KeepsReset t) (k : t.KeepsReset v) : s.KeepsReset v :=
  ⟨k.reset.trans h.reset, k.cmp.trans h.cmp⟩

theorem State.foldl_keepsReset {α : Type} {f : State → α → State} : ∀ {l : List α}, (∀ (t : State), ∀ a ∈ l, t.KeepsReset (f t a)) →
    ∀ s : State, s.KeepsReset (l.foldl f s)
  | [], _, s => .refl s
  | a :: _, h, s => (h s a (List.mem_cons_self ..)).trans (State.foldl_keepsReset (fun t b hb => h t b (List.mem_cons_of_mem _ hb)) (f s a))

theorem State.setState_keepsReset (u : UnitId) (st : Nat) : s.KeepsReset (s.setState u st) :=
  ⟨State.setState_get (by decide) (by decide) s u st (by decide), congrArg SysRec.cmp (State.setState_sys ..)⟩

theorem State.computeOff_keepsReset (u : UnitId) : s.KeepsReset (s.computeOff u) := by
  unfold State.computeOff
  split
  · exact s.setState_keepsReset u stOff
  · exact .refl s

theorem State.put_keepsReset {u : UnitId} {f : Field} (ha : u.home f ≠ bootU.home Reg.boot.stateComputeReset ∨
    fieldsApart f Reg.boot.stateComputeReset = true) (hf : fieldWithin f = true) (v : Nat) : s.KeepsReset (s.put u f v) := by
  refine ⟨?_, congrArg SysRec.cmp (State.put_sys ..)⟩
  rcases ha with h | h
  · exact State.get_put_page s _ _ _ _ _ h hf (by decide)
  · exact State.get_put_apart s _ _ _ _ _ h hf (by decide)

theorem State.spareBack_keepsReset (u : UnitId) : s.KeepsReset (s.spareBack u) :=
  (s.setState_keepsReset u stOff).trans (State.put_keepsReset _ (.inr (by decide)) (by decide) 1)

theorem State.plansGone_keepsReset : s.KeepsReset s.plansGone :=
  (State.put_keepsReset s (.inl (by decide)) (by decide) 0).trans (State.put_keepsReset _ (.inl (by decide)) (by decide) 0)

theorem State.unitsLost_keepsReset : s.KeepsReset s.unitsLost := by
  have step : s.KeepsReset s.withoutStep := ⟨State.get_of_regs (by rfl) _ _, rfl⟩
  have off := step.trans (State.foldl_keepsReset (l := s.litUnits) (fun t u _ => t.computeOff_keepsReset u) s.withoutStep)
  have wave : (s.litUnits.foldl State.computeOff s.withoutStep).KeepsReset
      ((s.litUnits.foldl State.computeOff s.withoutStep).setSys (fun x => { x with wave := [] })) := ⟨State.setSys_get .., rfl⟩
  exact ((off.trans wave).trans (State.foldl_keepsReset (fun t u _ => t.spareBack_keepsReset u) _)).trans (State.plansGone_keepsReset _)

theorem State.bundleKeysGone_keepsReset : s.KeepsReset s.bundleKeysGone :=
  State.foldl_keepsReset (fun _ _ _ => ⟨State.setSec_get .., congrArg SysRec.cmp (State.setSec_sys ..)⟩) s

theorem groups_within : ∀ g < 16, fieldWithin (Reg.ce.grpGstate.at g) = true := by decide

theorem State.groupBroken_keepsReset {g : Nat} (hg : g < 64) : s.KeepsReset (s.groupBroken g) := by
  have engine : (⟨.ce, g / 16⟩ : UnitId).valid = true := decide_eq_true (show g / 16 < 4 by omega)
  unfold State.groupBroken
  split
  · exact State.put_keepsReset s (.inl (home_ne engine (by decide) (by simp) rfl rfl)) (groups_within _ (Nat.mod_lt _ (by decide))) _
  · exact .refl s

theorem State.computeLost_keepsReset : s.KeepsReset s.computeLost := by
  have groups := (s.unitsLost_keepsReset.trans (State.bundleKeysGone_keepsReset _)).trans
    (State.foldl_keepsReset (fun t g hg => t.groupBroken_keepsReset (List.mem_range.mp hg)) s.unitsLost.bundleKeysGone)
  rw [State.computeLost_eq]
  exact ⟨(State.get_of_regs (by rfl) _ _).trans groups.reset, groups.cmp⟩

end

/-! ## The reset is asserted (R557, R561) -/

section
variable {s : State}

variable (s) in
/-- The pin of the compute reset is low. -/
def State.cmpPinned : State := s.setSys (fun x => { x with cmp := { x.cmp with pin := true } })

theorem execCmpRstAssert_again (h : s.sys.cmp.pin = true) : exec .cmpRstAssert s = .next s := congrArg _ (if_pos h)

section
variable (hp : s.sys.cmp.pin = false)
include hp

theorem execCmpRstAssert_held (hh : s.sys.cmp.held = true) : exec .cmpRstAssert s = .next s.cmpPinned :=
  congrArg _ ((if_neg (by simp [hp])).trans (if_pos hh))

theorem execCmpRstAssert_holds (hh : s.sys.cmp.held = false) : exec .cmpRstAssert s = .next s.cmpPinned.holdCompute :=
  congrArg _ ((if_neg (by simp [hp])).trans (if_neg fun h => Bool.false_ne_true (hh.symm.trans h)))

end

theorem State.holdCompute_running (hs : s.sys.start = none) (hm : s.mode = 1 ∨ s.mode = 2) : s.holdCompute = s.computeReset := by
  unfold State.holdCompute
  rw [hs]
  exact if_pos (by omega)

section
variable {st : StartRec} (hs : s.sys.start = some st)
include hs

theorem State.holdCompute_early (h : s.get bootU Reg.boot.stateStage < 3) : s.holdCompute = s := by
  unfold State.holdCompute
  rw [hs]
  exact if_pos h

variable (s) in
omit hs in
/-- The compute dies are reset within a start. -/
def State.resetInStart : State := ((s.put bootU Reg.boot.stateComputeReset 1).irq bootU (2 ^ 17)).computeLost

theorem State.holdCompute_late (h : 3 ≤ s.get bootU Reg.boot.stateStage) : s.holdCompute =
    (s.resetInStart.setSys (fun x => { x with start := some { st with waveTried := false, retired := 0 } })).stageBegins 3 := by
  unfold State.holdCompute
  rw [hs]
  exact if_neg (Nat.not_lt.mpr h)

end

variable (s) in
theorem State.resetInStart_reset : s.resetInStart.get bootU Reg.boot.stateComputeReset = 1 ∧ s.resetInStart.sys.cmp = s.sys.cmp := by
  have lost := State.computeLost_keepsReset ((s.put bootU Reg.boot.stateComputeReset 1).irq bootU (2 ^ 17))
  refine ⟨lost.reset.trans ((State.irq_get (by decide) (by decide) ..).trans (State.get_put_same ..)), lost.cmp.trans ?_⟩
  rw [State.irq_sys, State.put_sys]

/-- Every stage but the fourth only shows its number. -/
theorem State.stageBegins_shown (n : Nat) (h : n ≠ 4) : s.stageBegins n = (s.put bootU Reg.boot.stateStage n).setSys
    (fun x => { x with start := x.start.map (fun (t : StartRec) => { t with stageAt := s.now }) }) := if_neg (by simp [h])

theorem State.stageBegins_stage {n : Nat} (h : n ≠ 4) (hn : n < 16) : (s.stageBegins n).get bootU Reg.boot.stateStage = n := by
  rw [State.stageBegins_shown n h, State.setSys_get, State.get_put_same]
  exact Nat.mod_eq_of_lt hn

theorem State.stageBegins_keepsReset {n : Nat} (h : n ≠ 4) : s.KeepsReset (s.stageBegins n) := by
  rw [State.stageBegins_shown n h]
  exact (State.put_keepsReset s (.inr (by decide)) (by decide) n).trans ⟨State.setSys_get .., rfl⟩

theorem State.holdCompute_restages {st : StartRec} (hs : s.sys.start = some st) (h : 3 ≤ s.get bootU Reg.boot.stateStage) :
    s.holdCompute.get bootU Reg.boot.stateStage = 3 ∧ s.holdCompute.flag bootU Reg.boot.stateComputeReset = true ∧
      s.holdCompute.sys.cmp = s.sys.cmp := by
  obtain ⟨reset, cmp⟩ := s.resetInStart_reset
  have begun : s.resetInStart.KeepsReset s.holdCompute := by
    rw [State.holdCompute_late hs h]
    exact State.KeepsReset.trans ⟨State.setSys_get .., rfl⟩ (State.stageBegins_keepsReset (by decide))
  refine ⟨?_, ?_, begun.cmp.trans cmp⟩
  · rw [State.holdCompute_late hs h]
    exact State.stageBegins_stage (by decide) (by decide)
  · simp [State.flag, begun.reset, reset]

/-! ## MCC.RESET.COMPUTE, and the release (R557, R558, R560, R565) -/

variable (s) in
/-- The command holds the compute reset. -/
def State.cmpHolding : State := s.setSys (fun x => { x with cmp := { x.cmp with held := true } })

theorem execResetCompute_holds {src : Src} (hsrc : src = .pf ∨ src = .mgmt) (hm : s.mode = 1 ∨ s.mode = 2) (hc : s.sys.cmp = {})
    (hp : s.sys.powered = true) (hr : s.sys.modRst = false) : exec (.resetCompute src) s = .next s.cmpHolding.holdCompute := by
  have allowed : ¬((src ≠ .pf ∧ src ≠ .mgmt) ∨ s.mode = 4 ∨ s.sys.cmp.held ∨ !s.sys.powered ∨ s.sys.modRst) := by
    rw [hc, hp, hr]
    rintro (⟨h1, h2⟩ | h | h | h | h)
    · exact hsrc.elim h1 h2
    · omega
    · exact absurd h (by decide)
    · exact absurd h (by decide)
    · exact absurd h (by decide)
  exact congrArg _ ((if_neg allowed).trans (if_neg (by
    change ¬s.sys.cmp.pin = true
    rw [hc]
    decide)))

theorem execResetCompute_refused {src : Src}
    (h : (src ≠ .pf ∧ src ≠ .mgmt) ∨ s.mode = 4 ∨ s.sys.cmp.held = true ∨ s.sys.powered = false ∨ s.sys.modRst = true) :
    exec (.resetCompute src) s = .next s := by
  refine congrArg _ (if_pos ?_)
  rcases h with h | h | h | h | h
  · exact .inl h
  · exact .inr (.inl h)
  · exact .inr (.inr (.inl h))
  · exact .inr (.inr (.inr (.inl (by rw [h]; rfl))))
  · exact .inr (.inr (.inr (.inr h)))

variable (s) in
/-- Nothing holds the compute reset. -/
def State.cmpReleased : State := s.setSys (fun x => { x with cmp := {} })

theorem execComputeRestart_held (h : s.cmpHeld = true) : exec .computeRestart s = .next (
    if s.mode = 3 ∧ s.flag bootU Reg.boot.stateComputeReset ∧ s.sys.start = none then s.cmpReleased.beginRestart else s.cmpReleased) :=
  congrArg _ (if_neg (by simp [h]))

end

/-- Settles O42, by the lemma about each command. -/
theorem computeResetsAndRestarts : Obligations.ComputeResetsAndRestarts := by
  refine fun s => ⟨execCmpRstAssert_again, execCmpRstAssert_held, fun hp hh hs hm => ?_, fun st hp hh hs => ⟨fun h => ?_, fun h => ?_⟩,
    fun src hsrc hm hs hc hp hr => ?_, fun src => execResetCompute_refused, fun h hm hf hs => ?_, fun h hn => ?_,
    fun h => congrArg _ (if_pos (by simp [h]))⟩
  · rw [execCmpRstAssert_holds hp hh]
    exact congrArg _ (State.holdCompute_running (s := s.cmpPinned) hs hm)
  · rw [execCmpRstAssert_holds hp hh]
    exact congrArg _ (State.holdCompute_early (s := s.cmpPinned) hs h)
  · obtain ⟨stage, reset, cmp⟩ := State.holdCompute_restages (s := s.cmpPinned) hs h
    exact ⟨_, execCmpRstAssert_holds hp hh, stage, reset, congrArg CmpRec.pin cmp⟩
  · rw [execResetCompute_holds hsrc hm hc hp hr]
    exact congrArg _ (State.holdCompute_running (s := s.cmpHolding) hs hm)
  · rw [execComputeRestart_held h, if_pos ⟨hm, hf, hs⟩]
    rfl
  · rw [execComputeRestart_held h, if_neg]
    · rfl
    · rintro ⟨hm, -, hs⟩
      rcases hn with hn | hn
      · exact hn hm
      · simp [hs] at hn

end Sys2Proof.Machine
end

section
/-!
SUPPORT. What a read of the memories leaves unchanged: the memories' bytes, what is sealed, the security page's fields beside those that a report
writes. It marks, counts and reports what damages it.
-/
namespace Sys2Proof.Machine

/-- From s to t the memories' bytes, what is sealed and the security page stay, beside the fields that a report writes. -/
structure State.SameSecurity (s t : State) : Prop where
  mem : t.mem = s.mem
  sec : t.sec = s.sec
  secMod : t.secMod = s.secMod
  get : ∀ {f : Field}, f.unreported = true → t.get secU f = s.get secU f

section
variable {s t v : State}

theorem State.SameSecurity.refl (s : State) : s.SameSecurity s := ⟨rfl, rfl, rfl, fun _ => rfl⟩

theorem State.SameSecurity.trans (h : s.SameSecurity t) (k : t.SameSecurity v) : s.SameSecurity v :=
  ⟨k.mem.trans h.mem, k.sec.trans h.sec, k.secMod.trans h.secMod, fun hf => (k.get hf).trans (h.get hf)⟩

theorem State.Reports.sameSecurity (h : s.Reports t) : s.SameSecurity t where
  mem := h.mem
  sec := by rw [h.rest]; rfl
  secMod := by rw [h.rest]; rfl
  get := h.get (by decide)

theorem State.foldl_sameSecurity {α : Type} {f : State → α → State} (hf : ∀ (t : State) (a : α), t.SameSecurity (f t a)) (l : List α) (s : State) :
    s.SameSecurity (l.foldl f s) := List.foldlRecOn (motive := s.SameSecurity) l f (.refl s) (fun t h a _ => h.trans (hf t a))

/-- A step that leaves the registers too. -/
theorem State.SameSecurity.of_regs (hr : t.regs = s.regs) (hm : t.mem = s.mem) (hs : t.sec = s.sec) (hx : t.secMod = s.secMod) : s.SameSecurity t :=
  ⟨hm, hs, hx, fun _ => State.get_of_regs hr _ _⟩

end

/-- The security page is block 5's own, whatever a field's reach. -/
theorem secU_home (f : Field) : secU.home f = 0x5000 := by
  unfold UnitId.home
  cases f.reach <;> rfl

/-- The fields of the blocks that hold memory lie above the module's management pages. -/
theorem memoryBlock_home {u : UnitId} (h : u.blk = .tbl ∨ u.blk = .mem) (f : Field) : 0x10_0000 ≤ u.home f := by
  unfold UnitId.home UnitId.base UnitId.page
  rcases h with h | h <;> rw [h] <;> cases f.reach <;> simp only [blkBase] <;> omega

variable (s : State)

theorem State.put_sameSecurity {u : UnitId} (h : u.blk = .tbl ∨ u.blk = .mem) {f : Field} (hf : fieldWithin f = true) (v : Nat) :
    s.SameSecurity (s.put u f v) where
  mem := State.put_mem ..
  sec := State.put_sec ..
  secMod := State.put_secMod ..
  get hg := State.get_put_page s u secU f _ v (by have high := memoryBlock_home h f; rw [secU_home]; omega) hf (Field.unreported_within hg)

theorem State.count_sameSecurity (u : UnitId) (k n : Nat) : s.SameSecurity (s.count u k n) := (State.count_reports s u k n).sameSecurity

theorem State.irq_sameSecurity (u : UnitId) (mask : Nat) : s.SameSecurity (s.irq u mask) := (State.irq_reports s u mask).sameSecurity

theorem State.note_sameSecurity (u : UnitId) (k n : Nat) : s.SameSecurity (s.note u k n) := .of_regs rfl rfl rfl rfl

theorem State.memEvent_sameSecurity (u : UnitId) (code dga cause : Nat) (pm : Bool) : s.SameSecurity (s.memEvent u code dga cause pm) := by
  obtain ⟨c, logged⟩ := State.memEvent_reports s u code dga cause pm
  exact State.SameSecurity.trans (t := { s with coal := c }) (.of_regs rfl rfl rfl rfl) logged.sameSecurity

/-! ## Damage that a read meets (R250, R274, R284) -/

theorem State.breakRun_sameSecurity (line : Nat) : s.SameSecurity (s.breakRun line) := by
  unfold State.breakRun State.endRun
  split
  · split
    · split <;> exact .of_regs rfl rfl rfl rfl
    · exact .refl s
  · exact .refl s

theorem State.retried_sameSecurity (u : UnitId) (n : Nat) : s.SameSecurity (s.retried u n) := by
  unfold State.retried
  split
  · exact .refl s
  · exact (State.count_sameSecurity s u 3 n).trans (State.irq_sameSecurity _ u _)

/-- A line that is marked poisoned, with a fresh tag. -/
theorem State.poisoned_sameSecurity (line : Nat) : s.SameSecurity ((s.poisonLine line).retag line) := .of_regs rfl rfl rfl rfl

theorem State.tableUe_sameSecurity {u : UnitId} (h : u.blk = .tbl) (line beat : Nat) : s.SameSecurity (s.tableUe u line beat) := by
  have marked : s.SameSecurity (s.poisonLine line) := .of_regs rfl rfl rfl rfl
  have placed := (marked.trans (State.put_sameSecurity _ (.inl h) (f := Reg.tbl.errLastRow) (by decide)
    (s.bankOf (line * 256 % 2 ^ 48)).2)).trans (State.put_sameSecurity _ (.inl h) (f := Reg.tbl.errLastBeat) (by decide) beat)
  exact (((placed.trans (State.count_sameSecurity _ u 11 1)).trans (State.irq_sameSecurity _ u _)).trans (State.note_sameSecurity _ _ _ _)).trans
    (State.memEvent_sameSecurity _ u _ _ _ _)

theorem State.exhausted_sameSecurity {u : UnitId} (h : u.blk = .mem) (line cause : Nat) : s.SameSecurity (s.exhausted u line cause) :=
  ((((State.poisoned_sameSecurity s line).trans (State.put_sameSecurity _ (.inr h) (by decide) _)).trans (State.count_sameSecurity _ u 4 1)).trans
    (State.note_sameSecurity _ _ _ _)).trans (State.memEvent_sameSecurity _ u _ _ _ _)

theorem State.integrity_sameSecurity (u : UnitId) (line : Nat) : s.SameSecurity (s.integrity u line) := by
  have marked := State.poisoned_sameSecurity s line
  have logged (t : State) (d v : Nat) (ps : List Nat) : t.SameSecurity ((t.memEvent u 0x4001 d 1 true).eventPM ps (some u) 0x5001 d v) :=
    (State.memEvent_sameSecurity t u _ _ _ _).trans (State.eventPM_reports _ _ _ _ _ _).sameSecurity
  unfold State.integrity
  dsimp only
  split
  · next h =>
    exact ((((marked.trans (State.count_sameSecurity _ u 3 1)).trans (State.count_sameSecurity _ u 5 1)).trans (State.irq_sameSecurity _ u _)).trans
      (State.put_sameSecurity _ (.inr h) (by decide) _)).trans (logged _ _ _ _)
  · exact ((marked.trans (State.count_sameSecurity _ u 4 1)).trans (State.irq_sameSecurity _ u _)).trans (logged _ _ _ _)

/-- Corrected and uncorrectable errors of the Table's beats. -/
theorem State.meetTable_sameSecurity {u : UnitId} (hu : u.blk = .tbl) (line n : Nat) (h : HurtRec) (ues : List Nat) (b : Bool) : s.SameSecurity
    (ues.foldl (fun t b => t.tableUe u line (b % 4))
      (if b then s else ((({ s with hurt := h } : State).count u 10 n).irq u (2 ^ 16)).note u 5 n)) := by
  refine State.SameSecurity.trans ?_ (State.foldl_sameSecurity (fun t b => State.tableUe_sameSecurity t hu line (b % 4)) ues _)
  cases b
  · have cleaned : s.SameSecurity { s with hurt := h } := .of_regs rfl rfl rfl rfl
    exact (cleaned.trans (State.count_sameSecurity _ u 10 n)).trans
      ((State.irq_sameSecurity _ u (2 ^ 16)).trans (State.note_sameSecurity _ u 5 n))
  · exact .refl s

theorem State.disarm_sameSecurity (u : UnitId) (k : Nat) : s.SameSecurity (s.disarm u k) := .of_regs rfl rfl rfl rfl

theorem State.meet_sameSecurity (line a n : Nat) : s.SameSecurity (s.meet line a n).1 := by
  have broken := State.breakRun_sameSecurity s line
  have disarmed (t : State) (u : UnitId) : t.SameSecurity (if t.isArmed u 2 then t.disarm u 2 else t) := by
    split
    · exact State.disarm_sameSecurity t u 2
    · exact .refl t
  unfold State.meet
  dsimp only
  split
  · exact broken
  · next u _ =>
    split
    · next hu => exact broken.trans (State.meetTable_sameSecurity _ hu line _ _ _ _)
    · next hu =>
      split
      · exact ((broken.trans (disarmed _ u)).trans (State.retried_sameSecurity _ u _)).trans (State.exhausted_sameSecurity _ hu line 1)
      · have tried : s.SameSecurity (if (s.breakRun line).isArmed u 2 then
            (if (s.breakRun line).isArmed u 2 then (s.breakRun line).disarm u 2 else s.breakRun line).retried u 1
            else (if (s.breakRun line).isArmed u 2 then (s.breakRun line).disarm u 2 else s.breakRun line)) := by
          split
          · exact (broken.trans (State.disarm_sameSecurity _ u 2)).trans (State.retried_sameSecurity _ u 1)
          · exact broken
        split
        · exact tried.trans (State.integrity_sameSecurity _ u line)
        · exact tried
    · split
      · exact broken.trans (State.integrity_sameSecurity _ u line)
      · exact broken

/-! ## Reads, and what they count (R262, R276, R283, R287) -/

theorem State.metaLookup_sameSecurity (u : UnitId) (m : Nat) : s.SameSecurity (s.metaLookup u m) := by
  unfold State.metaLookup
  dsimp only
  split
  · exact State.count_sameSecurity s u 6 1
  · refine State.SameSecurity.trans ?_ (State.count_sameSecurity _ u 7 1)
    exact .of_regs rfl rfl rfl rfl

theorem State.metaPair_sameSecurity (u : UnitId) (line : Nat) : s.SameSecurity (s.metaPair u line) :=
  (State.metaLookup_sameSecurity s u _).trans (State.metaLookup_sameSecurity _ u _)

theorem State.tagLookup_sameSecurity (u : UnitId) (line : Nat) : s.SameSecurity (s.tagLookup u line) := by
  unfold State.tagLookup
  split
  · exact .refl s
  · dsimp only
    split
    · exact State.count_sameSecurity s u 2 1
    · refine State.SameSecurity.trans ?_ (State.count_sameSecurity _ u 3 1)
      exact .of_regs rfl rfl rfl rfl

theorem State.tallyBank_sameSecurity (u : UnitId) (k reg beats : Nat) : s.SameSecurity (s.tallyBank u k reg beats) :=
  (State.count_sameSecurity s u k 1).trans (State.count_sameSecurity _ u reg beats)

theorem State.reportPoison_sameSecurity (line : Nat) : s.SameSecurity (s.reportPoison line) := by
  unfold State.reportPoison
  split
  · exact .refl s
  · dsimp only
    split
    · exact .refl s
    · exact .of_regs rfl rfl rfl rfl

theorem State.tallyRead_sameSecurity (k line a n : Nat) : s.SameSecurity (s.tallyRead k line a n) := by
  unfold State.tallyRead
  split
  · exact .refl s
  · split
    · exact .refl s
    · next u _ =>
      split
      · have tallied := State.tallyBank_sameSecurity s u k 6 (beatsOf a n)
        dsimp only
        split
        · exact tallied.trans (State.count_sameSecurity _ u 12 1)
        · exact tallied
      · exact (State.count_sameSecurity s u 0 1).trans (State.metaPair_sameSecurity _ u line)
      · have looked := (State.count_sameSecurity s u 0 1).trans (State.tagLookup_sameSecurity _ u line)
        dsimp only
        split
        · exact looked.trans (State.reportPoison_sameSecurity _ line)
        · exact looked

theorem State.readLine_sameSecurity (k line a n : Nat) : s.SameSecurity (s.readLine k line a n).1 :=
  (State.meet_sameSecurity s line a n).trans (State.tallyRead_sameSecurity _ k line a n)

theorem State.readAll_sameSecurity (k : Nat) (ins : List (Nat × Nat)) : s.SameSecurity (s.readAll k ins).1 := by
  unfold State.readAll
  refine List.foldlRecOn (motive := fun r : State × Bool => s.SameSecurity r.1) ins _ (.refl s) (fun r h i _ => ?_)
  dsimp only
  split
  · exact h
  · exact List.foldlRecOn (motive := fun r : State × Bool => s.SameSecurity r.1) _ _ h
      (fun r h l _ => h.trans (State.readLine_sameSecurity r.1 k l _ _))

/-- Bytes that a mailbox command reads leave what is sealed and the security page. -/
theorem State.argBytes_sameSecurity (a n : Nat) : s.SameSecurity (s.argBytes a n).2 := State.readAll_sameSecurity s clsSys _

end Sys2Proof.Machine
end

section
/-!
SUPPORT. What is fused and latched of a debug unlock through a start (R504, R505), and O45.
-/
namespace Sys2Proof.Machine

variable {s : State}

/-! ## The mailbox around its commands -/

/-- A command that is taken for a partition of the module runs. -/
theorem State.mboxRun_taken {src : Src} {code part a0 a1 : Nat} {t : State} (h : s.mboxTake src code part a0 a1 = some t) (hp : part < 8)
    (k : State → State) : s.mboxRun src code part a0 a1 k = k t := by
  rw [State.mboxRun, h]
  exact if_neg (by omega)

/-- What the end of a mailbox command writes. -/
def mboxFields : List Field := [Reg.sec.mboxBusy, Reg.sec.mboxResult, Reg.sec.mboxOut0]

variable (s) in
theorem State.mboxEnd_writes (r out : Nat) : s.Writes mboxFields (s.mboxEnd r out) := by
  have written := (((State.Writes.refl (L := mboxFields) s).put secU (g := Reg.sec.mboxBusy) (by decide) (by decide) 0).put secU
    (g := Reg.sec.mboxResult) (by decide) (by decide) r).put secU (g := Reg.sec.mboxOut0) (by decide) (by decide) out
  have told := (written.reports (State.count_reports _ s.mccHolder 2 1)).reports (State.irq_reports _ secU (2 ^ 16))
  unfold State.mboxEnd
  dsimp only
  split
  · exact told.reports (State.irq_reports _ secU _)
  · exact told

theorem State.Writes.secMod {L : List Field} {t : State} (h : s.Writes L t) : t.secMod = s.secMod := by rw [h.rest]; rfl

theorem State.Writes.sec {L : List Field} {t : State} (h : s.Writes L t) : t.sec = s.sec := by rw [h.rest]; rfl

/-! ## A token that is refused -/

/-- The challenge has served its attempt. -/
def State.challengeSpent (s : State) : State := { s with secMod := { s.secMod with challenge := false } }

theorem State.challengeSpent_get (u : UnitId) (f : Field) : s.challengeSpent.get u f = s.get u f := State.get_of_regs (by rfl) u f

theorem State.tokenRefused_writes (s : State) (r : Nat) : s.Writes mboxFields (s.tokenRefused r) :=
  ((((State.count_reports s secU 6 1).trans (State.irq_reports _ secU _)).trans (State.modEvent_reports _ _ _ _)).writes).trans
    (State.mboxEnd_writes _ r 0)

theorem State.tokenRefused_result (s : State) (r : Nat) : (s.tokenRefused r).get secU Reg.sec.mboxResult = r % 2 ^ Reg.sec.mboxResult.width :=
  State.mboxEnd_result ..

/-! ## What a reset and a start leave of an unlock -/

/-- From s to t the count of unlocks and the challenge's state stay. -/
structure State.KeepsUnlock (s t : State) : Prop where
  count : t.get secU Reg.sec.debugUnlockCount = s.get secU Reg.sec.debugUnlockCount
  secMod : t.secMod = s.secMod

theorem State.KeepsUnlock.trans {t v : State} (h : s.KeepsUnlock t) (k : t.KeepsUnlock v) : s.KeepsUnlock v :=
  ⟨k.count.trans h.count, k.secMod.trans h.secMod⟩

/-- A write of the field f on u's page leaves the field g on w's. -/
def apartOn (u : UnitId) (f : Field) (w : UnitId) (g : Field) : Bool := fieldWithin f && (decide (u.home f ≠ w.home g) || fieldsApart f g)

variable (s) in
theorem State.get_put_apartOn {u w : UnitId} {f g : Field} (h : apartOn u f w g = true) (hg : fieldWithin g = true) (v : Nat) :
    (s.put u f v).get w g = s.get w g := by
  obtain ⟨hf, ha⟩ := (Bool.and_eq_true _ _).mp h
  rcases (Bool.or_eq_true _ _).mp ha with ha | ha
  · exact State.get_put_page s _ _ _ _ _ (of_decide_eq_true ha) hf hg
  · exact State.get_put_apart s _ _ _ _ _ ha hf hg

variable (s)

theorem State.put_keepsUnlock {u : UnitId} {f : Field} (h : apartOn u f secU Reg.sec.debugUnlockCount = true) (v : Nat) :
    s.KeepsUnlock (s.put u f v) := ⟨State.get_put_apartOn s h (by decide) v, State.put_secMod ..⟩

theorem State.setSys_keepsUnlock (f : SysRec → SysRec) : s.KeepsUnlock (s.setSys f) := ⟨State.setSys_get .., rfl⟩

/-- A field among those that come back has its old value again, where none of the others is written over it. -/
theorem State.restored_get {w : UnitId} {g : Field} (hg : fieldWithin g = true) : ∀ (l : List (UnitId × Field)) (t : State),
    (∀ e ∈ l, e = (w, g) ∨ apartOn e.1 e.2 w g = true) → ((w, g) ∈ l ∨ t.get w g = s.get w g) → (s.restored t l).get w g = s.get w g
  | [], _, _, hm => hm.resolve_left (List.not_mem_nil)
  | e :: l, t, ha, hm => by
    refine State.restored_get hg l (t.put e.1 e.2 (s.get e.1 e.2)) (fun x hx => ha x (List.mem_cons_of_mem _ hx)) ?_
    by_cases he : e = (w, g)
    · rw [he]
      exact .inr ((State.get_put_same ..).trans (Nat.mod_eq_of_lt (s.get_lt _ _)))
    · have apart := (ha e (List.mem_cons_self ..)).resolve_left he
      exact hm.imp (fun h => (List.mem_cons.mp h).resolve_left (Ne.symm he)) (fun h => (State.get_put_apartOn t apart hg _).trans h)

theorem aonFields_apart : ∀ e ∈ aonFields, e = (secU, Reg.sec.debugUnlockCount) ∨ apartOn e.1 e.2 secU Reg.sec.debugUnlockCount = true := by decide

theorem State.wipedStill_unlock (host links : Bool) : (s.wipedStill host links).get secU Reg.sec.debugUnlockCount =
    s.get secU Reg.sec.debugUnlockCount := by
  rw [State.wipedStill, State.setSys_get, State.get_put_apartOn _ (by decide) (by decide)]
  exact State.restored_get s (by decide) _ _ aonFields_apart (.inl (by decide))

theorem State.wipedStill_secMod (host links : Bool) : (s.wipedStill host links).secMod = {} := by
  rw [State.wipedStill, State.setSys_secMod, State.put_secMod, State.restored]
  refine (foldl_keeps_value State.secMod ?_ _).trans ?_
  · exact fun b e _ => State.put_secMod ..
  · rfl

/-- A reset keeps the count of unlocks, and no challenge. -/
theorem State.wiped_unlock (host links : Bool) : (s.wiped host links).get secU Reg.sec.debugUnlockCount = s.get secU Reg.sec.debugUnlockCount ∧
    (s.wiped host links).secMod = {} := by
  have still := And.intro (s.wipedStill_unlock host links) (s.wipedStill_secMod host links)
  rw [State.wiped_eq]
  split
  · have run := (State.put_keepsUnlock (s.wipedStill host links) (u := ⟨.aon, 0⟩) (f := Reg.common.state) (by decide) stRunning).trans
      (State.put_keepsUnlock _ (u := ⟨.aon, 1⟩) (f := Reg.common.state) (by decide) stRunning)
    exact ⟨run.count.trans still.1, run.secMod.trans still.2⟩
  · exact still

theorem State.putAon_keepsUnlock {f : Field} (h : apartOn ⟨.aon, 0⟩ f secU Reg.sec.debugUnlockCount = true)
    (k : apartOn ⟨.aon, 1⟩ f secU Reg.sec.debugUnlockCount = true) (v : Nat) : s.KeepsUnlock (s.putAon f v) :=
  (State.put_keepsUnlock s h v).trans (State.put_keepsUnlock _ k v)

theorem State.firstHolders_keepsUnlock (failed : List (Nat × Nat)) : s.KeepsUnlock (s.firstHolders failed) := by
  unfold State.firstHolders
  extract_lets bitOf m s1
  have latched : s.KeepsUnlock s1 := ((State.putAon_keepsUnlock s (by decide) (by decide) m).trans (State.put_keepsUnlock _ (by decide) m)).trans
    (State.putAon_keepsUnlock _ (by decide) (by decide) 0)
  exact (latched.trans (State.putAon_keepsUnlock _ (by decide) (by decide) 1)).trans (State.put_keepsUnlock _ (by decide) 1)

theorem State.retire_keepsUnlock (u : UnitId) : s.KeepsUnlock (s.put u Reg.common.retired 1) :=
  ⟨State.get_put_apart s _ _ _ _ _ (by decide) (by decide) (by decide), State.put_secMod ..⟩

/-- A start leaves the count of unlocks, shows state 0 and stage 1, and has no challenge. -/
theorem State.beginFull_unlock (host : Bool) : (s.beginFull host).get secU Reg.sec.debugUnlockCount = s.get secU Reg.sec.debugUnlockCount ∧
    (s.beginFull host).secMod = {} := by
  unfold State.beginFull
  extract_lets s1 s2 s3 s4
  have wiped := State.wiped_unlock s host false
  have shown : (s.wiped host false).KeepsUnlock s2 := ((State.setSys_keepsUnlock _ _).trans ⟨(State.count_reports _ bootU 0 1).get (by decide) (by decide),
    (State.count_reports _ bootU 0 1).sameSecurity.secMod⟩).trans (State.setSys_keepsUnlock _ _)
  have held : s2.KeepsUnlock s3 := ((State.put_keepsUnlock s2 (by decide) _).trans (State.put_keepsUnlock _ (by decide) _)).trans
    (State.firstHolders_keepsUnlock _ _)
  have marked : s3.KeepsUnlock s4 := by
    refine List.foldlRecOn (motive := s3.KeepsUnlock) _ _ ⟨rfl, rfl⟩ (fun t h e _ => h.trans ?_)
    split
    · split
      · exact State.retire_keepsUnlock t _
      · exact ⟨rfl, rfl⟩
    · exact ⟨rfl, rfl⟩
  have began : s4.KeepsUnlock ((s4.setMode 0).stageBegins 1) := by
    rw [State.stageBegins_shown 1 (by decide)]
    exact ((State.put_keepsUnlock s4 (by decide) 0).trans (State.put_keepsUnlock _ (by decide) 1)).trans (State.setSys_keepsUnlock _ _)
  have kept := ((shown.trans held).trans marked).trans began
  exact ⟨kept.count.trans wiped.1, kept.secMod.trans wiped.2⟩

theorem State.beginFull_shows (host : Bool) : (s.beginFull host).mode = 0 ∧ (s.beginFull host).get bootU Reg.boot.stateStage = 1 := by
  unfold State.beginFull
  extract_lets s1 s2 s3 s4
  refine ⟨?_, State.stageBegins_stage (by decide) (by decide)⟩
  rw [State.mode, State.stageBegins_shown 1 (by decide), State.setSys_get, State.get_put_apart _ _ _ _ _ _ (by decide) (by decide) (by decide)]
  exact State.get_put_same ..

/-! ## The unlock (R505) -/

/-- The unlock is counted, its scope set, and it holds from this start. -/
def State.unlockCounted (s : State) (count scope boots : Nat) : State :=
  ((((s.put secU Reg.sec.debugUnlockCount (count + 1)).put secU Reg.sec.debugScope scope).interrupted.cutUpdate)).setSys
    (fun x => { x with unlockBoot := boots })

/-- A start in full with the module unlocked. -/
def State.unlocked (s : State) (lock : Nat) : State := ((s.beginFull false).put secU Reg.sec.debugUnlocked 1).put secU Reg.sec.debugJtagLock lock

theorem State.interrupted_get (u : UnitId) (f : Field) : s.interrupted.get u f = s.get u f := by
  unfold State.interrupted
  split
  · exact State.setSys_get ..
  · rfl

theorem State.cutUpdate_get (u : UnitId) (f : Field) : s.cutUpdate.get u f = s.get u f := by
  unfold State.cutUpdate
  split
  · exact State.setSys_get ..
  · rfl

theorem State.unlockCounted_count {count : Nat} (h : count < 64) (scope boots : Nat) :
    (s.unlockCounted count scope boots).get secU Reg.sec.debugUnlockCount = count + 1 := by
  rw [State.unlockCounted, State.setSys_get, State.cutUpdate_get, State.interrupted_get, State.get_put_apartOn _ (by decide) (by decide),
    State.get_put_same]
  exact Nat.mod_eq_of_lt (show count + 1 < 2 ^ 7 by omega)

theorem State.unlocked_shows (lock : Nat) : (s.unlocked lock).secMod.challenge = false ∧ (s.unlocked lock).get secU Reg.sec.debugUnlocked = 1 ∧
    (s.unlocked lock).get secU Reg.sec.debugUnlockCount = s.get secU Reg.sec.debugUnlockCount ∧ (s.unlocked lock).mode = 0 ∧
    (s.unlocked lock).get bootU Reg.boot.stateStage = 1 := by
  obtain ⟨count, secMod⟩ := s.beginFull_unlock false
  obtain ⟨mode, stage⟩ := s.beginFull_shows false
  have kept := (State.put_keepsUnlock (s.beginFull false) (u := secU) (f := Reg.sec.debugUnlocked) (by decide) 1).trans
    (State.put_keepsUnlock _ (u := secU) (f := Reg.sec.debugJtagLock) (by decide) lock)
  refine ⟨congrArg SecMod.challenge (kept.secMod.trans secMod), ?_, kept.count.trans count, ?_, ?_⟩
  · rw [State.unlocked, State.get_put_apartOn _ (by decide) (by decide), State.get_put_same]
    rfl
  · rw [State.unlocked, State.mode, State.get_put_apartOn _ (by decide) (by decide), State.get_put_apartOn _ (by decide) (by decide)]
    exact mode
  · rw [State.unlocked, State.get_put_apartOn _ (by decide) (by decide), State.get_put_apartOn _ (by decide) (by decide), stage]

section
variable {s} {p arg : Nat}

theorem State.debugUnlock_unread (h : s.argOk p arg 332 = false) : s.debugUnlock p arg = s.mboxEnd 3 0 := if_pos (by simp [h])

theorem State.debugUnlock_spent (h : s.argOk p arg 332 = true) (hc : 64 ≤ s.get secU Reg.sec.debugUnlockCount) :
    s.debugUnlock p arg = s.challengeSpent.tokenRefused 11 := (if_neg (by simp [h])).trans (if_pos hc)

theorem State.debugUnlock_refused (h : s.argOk p arg 332 = true) (hc : s.get secU Reg.sec.debugUnlockCount < 64)
    (ht : s.tokenOk (s.challengeSpent.argBytes arg 332).1 = false) :
    s.debugUnlock p arg = (s.challengeSpent.argBytes arg 332).2.tokenRefused 10 :=
  (if_neg (by simp [h])).trans ((if_neg (Nat.not_le.mpr hc)).trans (if_pos (by rw [State.challengeSpent] at ht; simp [ht])))

theorem State.debugUnlock_passed (h : s.argOk p arg 332 = true) (hc : s.get secU Reg.sec.debugUnlockCount < 64)
    (ht : s.tokenOk (s.challengeSpent.argBytes arg 332).1 = true) : ∃ scope boots lock,
    s.debugUnlock p arg = ((s.challengeSpent.argBytes arg 332).2.unlockCounted (s.get secU Reg.sec.debugUnlockCount) scope boots).unlocked lock :=
  ⟨_, _, _, (if_neg (by simp [h])).trans ((if_neg (Nat.not_le.mpr hc)).trans (if_neg (by rw [State.challengeSpent] at ht; simp [ht])))⟩

end

/-- Settles O45, by the four ways in which a token ends and what a start in full keeps of an unlock. -/
theorem debugUnlocksOrRefuses : Obligations.DebugUnlocksOrRefuses := by
  intro s src part arg hp t taken
  have run : exec (.debugUnlock src part arg) s = .next (t.debugUnlock part arg) :=
    congrArg Host.Outcome.next (State.mboxRun_taken taken hp (fun t => t.debugUnlock part arg))
  rw [run]
  have read := State.argBytes_sameSecurity t.challengeSpent arg 332
  refine ⟨fun h => by rw [State.debugUnlock_unread h], fun h hc => ⟨_, rfl, ?_⟩, fun h hc => ⟨fun ht => ⟨_, rfl, ?_⟩, fun ht => ⟨_, rfl, ?_⟩⟩⟩
  · rw [State.debugUnlock_spent h hc]
    have refused := State.tokenRefused_writes t.challengeSpent 11
    exact ⟨State.tokenRefused_result .., congrArg SecMod.challenge refused.secMod, (refused.get (by decide) (by decide)).trans
      (State.challengeSpent_get ..)⟩
  · rw [State.debugUnlock_refused h hc ht]
    have refused := State.tokenRefused_writes (t.challengeSpent.argBytes arg 332).2 10
    exact ⟨congrArg SecMod.challenge (refused.secMod.trans read.secMod), State.tokenRefused_result ..,
      (refused.get (by decide) (by decide)).trans ((read.get (by decide)).trans (State.challengeSpent_get ..)),
      (refused.get (by decide) (by decide)).trans ((read.get (by decide)).trans (State.challengeSpent_get ..))⟩
  · obtain ⟨scope, boots, lock, passed⟩ := State.debugUnlock_passed h hc ht
    rw [passed]
    obtain ⟨challenge, unlocked, count, mode, stage⟩ := State.unlocked_shows
      ((t.challengeSpent.argBytes arg 332).2.unlockCounted (t.get secU Reg.sec.debugUnlockCount) scope boots) lock
    exact ⟨challenge, unlocked, count.trans (State.unlockCounted_count _ hc scope boots), mode, stage⟩

end Sys2Proof.Machine
end

section
/-!
SUPPORT. The mailbox commands on a partition: what each leaves of its sealed model and of its fields (R498, R500 to R502), and O40.
-/
namespace Sys2Proof.Machine

/-! ## A partition's fields -/

theorem sealState_besides : ∀ p < 8, (Reg.sec.partSealState.at p).besides mboxFields = true := by decide

theorem session_besides : ∀ p < 8, (Reg.sec.partSession.at p).besides mboxFields = true := by decide

/-- A write of a field that begins above a word leaves the field that lies in that word. -/
theorem State.get_put_above (s : State) {u : UnitId} {f g : Field} (hh : u.home f = u.home g) (ha : (fieldPos 0 g).1 = (fieldPos 0 f).1)
    (hg : fieldSpan 0 g = 1) (hf : 32 ≤ (fieldPos 0 f).2) (hs : 1 ≤ fieldSpan 0 f) (v : Nat) : (s.put u f v).get u g = s.get u g := by
  obtain ⟨n, hn⟩ := home_page u f
  have first : (s.setAt (n * 0x1000) f v).word (fieldPos (n * 0x1000) f).1 = s.word (fieldPos (n * 0x1000) f).1 := by
    have written := congrArg (fun x => bits x 0 32) (State.words_setAt s (n * 0x1000) f v)
    rw [bits_setBits_below _ _ _ _ _ _ (by rw [fieldPos_base]; omega), fieldSpan_base, show fieldSpan 0 f = fieldSpan 0 f - 1 + 1 by omega] at written
    have low (t : State) (a k : Nat) : bits (t.words a (k + 1)) 0 32 = (t.word a).toNat := by
      rw [State.words, bits, Nat.pow_zero, Nat.div_one, Nat.add_mul_mod_self_left]
      exact Nat.mod_eq_of_lt (t.word a).isLt
    exact BitVec.eq_of_toNat_eq ((low _ _ _).symm.trans (written.trans (low _ _ _)))
  unfold State.get State.put
  rw [← hh, hn, State.getAt, State.getAt, fieldSpan_base, hg, fieldPos_base, ha]
  rw [fieldPos_base] at first
  exact congrArg (fun x => bits x _ _) (State.words_congr 1 _ _ _ (fun i hi => by
    rw [show i = 0 by omega, Nat.mul_zero, Nat.add_zero]
    exact first))

/-- The fields of a partition share no bit with its seal's state. -/
theorem sealState_apart : ∀ p < 8, ∀ g ∈ [Reg.sec.partSession, Reg.sec.partKeyGen, Reg.sec.partRanges],
    fieldsApart (g.at p) (Reg.sec.partSealState.at p) = true ∧ fieldWithin (g.at p) = true := by decide

theorem chunksDone_above : ∀ p < 8, (fieldPos 0 (Reg.sec.partSealState.at p)).1 = (fieldPos 0 (Reg.sec.partChunksDone.at p)).1 ∧
    fieldSpan 0 (Reg.sec.partSealState.at p) = 1 ∧ 32 ≤ (fieldPos 0 (Reg.sec.partChunksDone.at p)).2 ∧
    1 ≤ fieldSpan 0 (Reg.sec.partChunksDone.at p) := by decide

theorem sealState_within : ∀ p < 8, fieldWithin (Reg.sec.partSealState.at p) = true := by decide

section
variable {s t : State} {p : Nat} (hp : p < 8)
include hp

theorem State.SameSecurity.sealState (h : s.SameSecurity t) : t.sealState p = s.sealState p :=
  h.get ((Bool.and_eq_true _ _).mp (sealState_besides p hp)).1

theorem State.mboxEnd_sealState (r out : Nat) : (s.mboxEnd r out).sealState p = s.sealState p :=
  (State.mboxEnd_writes s r out).get (by decide) (sealState_besides p hp)

theorem State.mboxEnd_session (r out : Nat) : (s.mboxEnd r out).get secU (Reg.sec.partSession.at p) = s.get secU (Reg.sec.partSession.at p) :=
  (State.mboxEnd_writes s r out).get (by decide) (session_besides p hp)

theorem State.count_sealState (u : UnitId) (k n : Nat) : (s.count u k n).sealState p = s.sealState p := (State.count_sameSecurity s u k n).sealState hp

theorem State.putChunksDone_sealState (v : Nat) : (s.put secU (Reg.sec.partChunksDone.at p) v).sealState p = s.sealState p :=
  have ⟨place, span, low, spans⟩ := chunksDone_above p hp
  State.get_put_above s (f := Reg.sec.partChunksDone.at p) (g := Reg.sec.partSealState.at p) rfl place span low spans v

theorem State.put_sealState {g : Field} (hg : g ∈ [Reg.sec.partSession, Reg.sec.partKeyGen, Reg.sec.partRanges]) (v : Nat) :
    (s.put secU (g.at p) v).sealState p = s.sealState p :=
  have ⟨apart, within⟩ := sealState_apart p hp g hg
  State.get_put_apart s _ _ _ _ _ apart within (sealState_within p hp)

omit hp in
theorem State.setSeal_sealState {v : Nat} (hv : v < 4) : (s.setSeal p v).sealState p = v :=
  (State.get_put_same ..).trans (Nat.mod_eq_of_lt (show v < 2 ^ 2 from hv))

end

section
variable (s : State)

/-- The same models are sealed in the same partitions. -/
theorem State.secPart_of_sec {s t : State} (h : t.sec = s.sec) (p : Nat) : t.secPart p = s.secPart p := by rw [State.secPart, h, ← State.secPart]

theorem State.mboxEnd_secPart (r out p : Nat) : (s.mboxEnd r out).secPart p = s.secPart p :=
  State.secPart_of_sec (State.mboxEnd_onlySignals s r out).sec p

theorem State.mboxEnd_out0 (r : Nat) {out : Nat} (h : out < 2 ^ 64) : (s.mboxEnd r out).get secU Reg.sec.mboxOut0 = out := by
  rw [State.mboxEnd_get s r out (by decide), State.get_put_same]
  exact Nat.mod_eq_of_lt h

theorem State.SameSecurity.secPart {s t : State} (h : s.SameSecurity t) (p : Nat) : t.secPart p = s.secPart p :=
  State.secPart_of_sec h.sec p

theorem State.setSec_secPart_same (p : Nat) (f : SecPart → SecPart) : (s.setSec p f).secPart p = f (s.secPart p) :=
  (State.setSec_secPart ..).trans (if_pos rfl)

/-- A command that is taken changes the mailbox's fields alone. -/
theorem State.mboxTake_onlySignals {s t : State} {src : Src} {code part a0 a1 : Nat} (h : s.mboxTake src code part a0 a1 = some t) :
    s.OnlySignals t := by
  have vf : notVf src = true := by
    by_contra unheard
    rw [State.mboxTake_vf (by simpa using unheard)] at h
    cases h
  by_cases waits : s.flag secU Reg.sec.mboxBusy = true ∨ s.ustate s.mccHolder = stFaulted
  · rw [State.mboxTake_busy waits] at h
    cases h
  · obtain ⟨busy, alive⟩ := not_or.mp waits
    obtain ⟨v, hv, only⟩ := State.mboxTake_free (code := code) (part := part) (a0 := a0) (a1 := a1) vf (by simpa using busy) alive
    cases hv.symm.trans h
    exact only

theorem State.OnlySignals.freeIdx {s t : State} (h : s.OnlySignals t) : t.freeIdx = s.freeIdx := by rw [h]; rfl

/-! ## Sessions (R493, R500) -/

/-- The ID that a session draws. -/
def State.sessionId : Nat := s.fresh.1 % (2 ^ 32 - 1) + 1

theorem State.sessionId_lt : s.sessionId < 2 ^ 64 := by
  have := Nat.mod_lt s.fresh.1 (show 0 < 2 ^ 32 - 1 by decide)
  unfold State.sessionId
  omega

/-- A session's ID and key are drawn. -/
def State.sessionDrawn (p : Nat) : State :=
  (({ s with freeIdx := s.freeIdx + 1 + 9 } : State).setSec p (fun x => { x with session := some (s.sessionId, s.freeIdx + 1) })).put secU
    (Reg.sec.partSession.at p) 1

theorem State.drawSession_eq (p : Nat) : s.drawSession p = (s.sessionDrawn p).mboxEnd 0 s.sessionId := rfl

theorem State.drawSession_opens {p : Nat} (hp : p < 8) : (s.drawSession p).get secU (Reg.sec.partSession.at p) = 1 ∧
    (s.drawSession p).get secU Reg.sec.mboxResult = 0 ∧ (s.drawSession p).get secU Reg.sec.mboxOut0 ≠ 0 ∧
    ((s.drawSession p).secPart p).session = some ((s.drawSession p).get secU Reg.sec.mboxOut0, s.freeIdx + 1) := by
  rw [State.drawSession_eq, State.mboxEnd_session hp, State.mboxEnd_result, State.mboxEnd_out0 _ _ s.sessionId_lt, State.mboxEnd_secPart,
    State.sessionDrawn, State.put_secPart, State.setSec_secPart_same]
  exact ⟨State.get_put_same .., rfl, Nat.succ_ne_zero _, rfl⟩

theorem State.endSession_session (p : Nat) : ((s.endSession p).secPart p).session = none := by
  rw [State.endSession, State.put_secPart, State.setSec_secPart_same]

theorem State.endSession_shown (p : Nat) : (s.endSession p).get secU (Reg.sec.partSession.at p) = 0 := (State.get_put_same ..).trans (Nat.zero_mod _)

section
variable {s} {p : Nat}

theorem State.sessionOpen_draws (h : s.sealState p = 0 ∨ s.sealState p = 2) (ht : s.trngBad = false) : s.sessionOpen p = s.drawSession p :=
  (if_pos h).trans (if_neg (by simp [ht]))

theorem State.sessionOpen_waits (h : s.sealState p = 0 ∨ s.sealState p = 2) (ht : s.trngBad = true) : s.sessionOpen p =
    { s.put secU Reg.sec.mboxBusy 1 with secMod := { s.secMod with job := some (1, p, 0, 0) } } := (if_pos h).trans (if_pos ht)

theorem State.sessionOpen_closed (h : s.sealState p = 1 ∨ s.sealState p = 3) : s.sessionOpen p = s.mboxEnd 2 0 := if_neg (by omega)

theorem State.sessionClose_open (h : s.sealState p ≠ 1) : s.sessionClose p = (s.endSession p).mboxEnd 0 0 := by
  rw [State.sessionClose, if_neg h]

end

/-! ## IMPORT_BEGIN (R499, R501) -/

/-- How an IMPORT_BEGIN may end: the import runs, or nothing of the partition has changed. -/
def State.Imports (s : State) (p : Nat) (t : State) : Prop := t.mem = s.mem ∧
  ((t.get secU Reg.sec.mboxResult = 0 ∧ t.sealState p = 1 ∧ (t.secPart p).bundleKey.isSome = true ∧ (t.secPart p).imported = []) ∨
    (t.get secU Reg.sec.mboxResult ≠ 0 ∧ t.sec = s.sec ∧ t.sealState p = s.sealState p))

section
variable {s} {p : Nat} (hp : p < 8)
include hp

theorem State.Imports.of_sameSecurity {t v : State} (h : s.SameSecurity t) (k : t.Imports p v) : s.Imports p v :=
  ⟨k.1.trans h.mem, k.2.imp id fun ⟨result, sealed, state⟩ => ⟨result, sealed.trans h.sec, state.trans (h.sealState hp)⟩⟩

theorem State.importFail_imports {r : Nat} (hr : r % 256 ≠ 0) : s.Imports p (s.importFail r) := by
  unfold State.importFail
  extract_lets s1
  have counted : s.SameSecurity s1 := by
    unfold s1
    split
    · exact State.count_sameSecurity ..
    · exact .refl s
  have told : s.SameSecurity (if r = 1 ∨ r = 2 ∨ r = 3 then s1 else s1.count secU 3 1) := by
    split
    · exact counted
    · exact counted.trans (State.count_sameSecurity ..)
  refine .of_sameSecurity hp told ⟨(State.mboxEnd_writes ..).mem, .inr ⟨?_, (State.mboxEnd_writes ..).sec, State.mboxEnd_sealState hp ..⟩⟩
  rw [State.mboxEnd_result]
  exact hr

omit hp in
theorem State.importRuns {v : State} (h : v.mem = s.mem) (hs : v.sealState p = 1) (hk : (v.secPart p).bundleKey.isSome = true)
    (hi : (v.secPart p).imported = []) (hp : p < 8) : s.Imports p (v.mboxEnd 0 0) :=
  ⟨(State.mboxEnd_writes ..).mem.trans h, .inl ⟨State.mboxEnd_result .., (State.mboxEnd_sealState hp ..).trans hs,
    by rw [State.mboxEnd_secPart]; exact hk, by rw [State.mboxEnd_secPart]; exact hi⟩⟩

theorem State.takeManifest_imports (bk h m : List Byte) : s.Imports p (s.takeManifest p bk h m) := by
  unfold State.takeManifest
  extract_lets count os rs merged s1 s2
  split
  · exact State.importFail_imports hp (by decide)
  · split
    · exact State.importFail_imports hp (by decide)
    · have counted := State.count_sameSecurity (s2.put secU (Reg.sec.partChunksDone.at p) 0) s.mccHolder 3 1
      have part : (((s2.put secU (Reg.sec.partChunksDone.at p) 0).count s.mccHolder 3 1).secPart p) = s1.secPart p := by
        rw [counted.secPart, State.put_secPart, State.put_secPart, State.setSeal, State.put_secPart]
      refine State.importRuns (counted.mem.trans ?_) ?_ ?_ ?_ hp
      · rw [State.put_mem, State.put_mem, State.setSeal, State.put_mem]
        rfl
      · rw [State.count_sealState hp, State.putChunksDone_sealState hp, State.put_sealState hp (by decide)]
        exact State.setSeal_sealState (by decide)
      · rw [part, State.setSec_secPart_same]
        rfl
      · rw [part, State.setSec_secPart_same]

theorem State.openManifest_imports (bundle sid sk : Nat) (w h : List Byte) : s.Imports p (s.openManifest p bundle sid sk w h) := by
  unfold State.openManifest
  split
  · exact State.importFail_imports hp (by decide)
  · split
    · exact State.importFail_imports hp (by decide)
    · dsimp only
      split
      · exact State.importFail_imports hp (by decide)
      · split
        · exact State.importFail_imports hp (by decide)
        · refine .of_sameSecurity hp (State.argBytes_sameSecurity s (bundle + 256) (64 + 32 * fieldAt h 12 4 + 16)) ?_
          split
          · exact State.importFail_imports hp (by decide)
          · exact State.takeManifest_imports hp _ _ _

theorem State.importBegin_imports (wrap bundle : Nat) : s.Imports p (s.importBegin p wrap bundle) := by
  unfold State.importBegin
  split
  · exact State.importFail_imports hp (by decide)
  · split
    · exact State.importFail_imports hp (by decide)
    · split
      · exact State.importFail_imports hp (by decide)
      · split
        · exact State.importFail_imports hp (by decide)
        · exact .of_sameSecurity hp ((State.argBytes_sameSecurity s _ _).trans (State.argBytes_sameSecurity _ _ _))
            (State.openManifest_imports hp _ _ _ _ _)

end

/-! ## The other commands of an import -/

section
variable {s} {p : Nat}

theorem State.importRun_runs {list count : Nat} (hs : s.sealState p = 1) (hk : (s.secPart p).bundleKey ≠ none) (h1 : 1 ≤ count)
    (h2 : count ≤ 65536) (ha : s.argOk p list (16 * count) = true) : s.importRun p list count =
      (((s.importEntries p ((List.range count).map (fun i => list + 16 * i)) 0).1.count s.mccHolder 3 1).mboxEnd
        (s.importEntries p ((List.range count).map (fun i => list + 16 * i)) 0).2.1
        (s.importEntries p ((List.range count).map (fun i => list + 16 * i)) 0).2.2) :=
  (if_neg (by simp [hs, hk])).trans ((if_neg (by omega)).trans (if_neg (by simp [ha])))

/-- The import's end: the model is sealed, its bundle key and its session are gone. -/
def State.importSealed (s : State) (p : Nat) : State :=
  (((s.setSec p (fun x => { x with bundleKey := none })).endSession p).setSeal p 2).count secU 2 1

theorem State.importEnd_seals (hs : s.sealState p = 1) (hk : (s.secPart p).bundleKey ≠ none)
    (h : (s.secPart p).chunks.length ≤ (s.secPart p).imported.length) : s.importEnd p = (s.importSealed p).mboxEnd 0 0 :=
  (if_neg (by simp [hs, hk])).trans (if_neg (Nat.not_lt.mpr h))

theorem State.importEnd_short (hs : s.sealState p = 1) (hk : (s.secPart p).bundleKey ≠ none)
    (h : (s.secPart p).imported.length < (s.secPart p).chunks.length) : s.importEnd p = s.mboxEnd 8 0 :=
  (if_neg (by simp [hs, hk])).trans (if_pos h)

theorem State.importSealed_secPart : ((s.importSealed p).secPart p) = { s.secPart p with bundleKey := none, session := none } := by
  rw [State.importSealed, (State.count_sameSecurity _ secU 2 1).secPart, State.setSeal, State.put_secPart, State.endSession, State.put_secPart,
    State.setSec_secPart_same, State.setSec_secPart_same]

theorem State.importSealed_sealState (hp : p < 8) : (s.importSealed p).sealState p = 2 :=
  (State.count_sealState hp ..).trans (State.setSeal_sealState (by decide))

end

/-! ## SCRUB_COMPLETE (R500) -/

/-- From s to t what is sealed and the security page stay, and bytes of the memories at most become 0. -/
structure State.OnlyZeroes (s t : State) : Prop where
  sec : t.sec = s.sec
  zero : ∀ a, s.byte a = 0 → t.byte a = 0

theorem State.OnlyZeroes.refl : s.OnlyZeroes s := ⟨rfl, fun _ => id⟩

variable {s} in
theorem State.OnlyZeroes.trans {t v : State} (h : s.OnlyZeroes t) (k : t.OnlyZeroes v) : s.OnlyZeroes v :=
  ⟨k.sec.trans h.sec, fun a ha => k.zero a (h.zero a ha)⟩

variable {s} in
theorem State.SameSecurity.onlyZeroes {t : State} (h : s.SameSecurity t) : s.OnlyZeroes t :=
  ⟨h.sec, fun a ha => (congrArg (fun m => Sparse.get memDefault m a) h.mem).trans ha⟩

theorem State.cleanLine_sameSecurity (line : Nat) : s.SameSecurity (s.cleanLine line) := by
  unfold State.cleanLine
  dsimp only
  split
  · exact .of_regs rfl rfl rfl rfl
  · split <;> exact .of_regs rfl rfl rfl rfl

theorem State.cleanRun_sameSecurity (a n : Nat) : s.SameSecurity (s.cleanRun a n) := by
  unfold State.cleanRun
  split
  · exact .of_regs rfl rfl rfl rfl
  · exact State.foldl_sameSecurity State.cleanLine_sameSecurity _ s

/-- The run's bytes are 0, and no others change. -/
theorem State.zeroRun_byte (a n k : Nat) : (s.zeroRun a n).byte k = if k < a ∨ a + n ≤ k then s.byte k else 0 := by
  rw [State.zeroRun, State.byte, State.byte, ← (State.cleanRun_sameSecurity s a n).mem]
  exact (Sparse.get_kept (fun k => decide (k < a) || decide (a + n ≤ k)) k _).trans (if_congr (by simp) rfl rfl)

theorem State.zeroRun_onlyZeroes (a n : Nat) : s.OnlyZeroes (s.zeroRun a n) where
  sec := (State.cleanRun_sameSecurity s a n).sec
  zero k hk := by
    rw [State.zeroRun_byte]
    split
    · exact hk
    · rfl

theorem State.tallyMaint_sameSecurity (ls : List Nat) (per beats : Nat) : s.SameSecurity (s.tallyMaint ls per beats) := by
  unfold State.tallyMaint
  extract_lets hs
  exact State.foldl_sameSecurity (fun t u => (State.count_sameSecurity t u 5 _).trans (State.count_sameSecurity _ u 7 _)) _ s

theorem State.tallyWrite_sameSecurity (k line a n : Nat) : s.SameSecurity (s.tallyWrite k line a n) := by
  unfold State.tallyWrite
  split
  · exact .refl s
  · next u _ =>
    extract_lets s1 t s2
    have first : s.SameSecurity s1 := by
      unfold s1
      split
      · exact State.tallyBank_sameSecurity ..
      · exact State.count_sameSecurity ..
    have second : s.SameSecurity s2 := by
      unfold s2
      split
      · exact first
      · refine first.trans ((State.count_sameSecurity s1 u 0 1).trans ?_)
        split
        · exact State.count_sameSecurity ..
        · exact .refl t
    split
    · exact second
    · exact second.trans (State.metaPair_sameSecurity ..)
    · exact second.trans (State.tagLookup_sameSecurity ..)

theorem State.retag_sameSecurity (line : Nat) : s.SameSecurity (s.retag line) := .of_regs rfl rfl rfl rfl

/-- What a scrub does to a range: the Table's lines and those of local memory hold zeros. -/
def State.zeroRange (r : Nat × Nat) : State := if r.1 / 2 ^ 48 = 1 then s.zeroTable r.1 r.2 else s.zeroLocal r.1 r.2

theorem State.zeroRange_run (r : Nat × Nat) : (s.zeroRun r.1 r.2).SameSecurity (s.zeroRange r) := by
  unfold State.zeroRange
  split
  · refine State.SameSecurity.trans ?_ (State.tallyMaint_sameSecurity ((s.zeroRun r.1 r.2).breakReservations r.1 r.2) _ 1 4)
    exact .of_regs rfl rfl rfl rfl
  · exact State.foldl_sameSecurity (fun t l => (State.tallyWrite_sameSecurity t clsSys l _ _).trans (State.retag_sameSecurity _ l)) _ _

theorem State.zeroRange_onlyZeroes (r : Nat × Nat) : s.OnlyZeroes (s.zeroRange r) :=
  (State.zeroRun_onlyZeroes s r.1 r.2).trans (State.zeroRange_run s r).onlyZeroes

theorem State.zeroRange_zero {r : Nat × Nat} {a : Nat} (h1 : r.1 ≤ a) (h2 : a < r.1 + r.2) : (s.zeroRange r).byte a = 0 :=
  (State.zeroRange_run s r).onlyZeroes.zero a ((State.zeroRun_byte s r.1 r.2 a).trans (if_neg (by omega)))

theorem State.zeroRanges_onlyZeroes (l : List (Nat × Nat)) : s.OnlyZeroes (l.foldl State.zeroRange s) :=
  List.foldlRecOn (motive := s.OnlyZeroes) l _ (.refl s) (fun t h r _ => h.trans (State.zeroRange_onlyZeroes t r))

theorem State.zeroRanges_zero {l : List (Nat × Nat)} {r : Nat × Nat} (hr : r ∈ l) {a : Nat} (h1 : r.1 ≤ a) (h2 : a < r.1 + r.2) :
    (l.foldl State.zeroRange s).byte a = 0 := by
  induction l generalizing s with
  | nil => exact absurd hr (List.not_mem_nil)
  | cons x l ih =>
    rw [List.foldl_cons]
    rcases List.mem_cons.mp hr with rfl | hr
    · exact (State.zeroRanges_onlyZeroes (s.zeroRange r) l).zero a (State.zeroRange_zero s h1 h2)
    · exact ih (s.zeroRange x) hr

/-- The partition is open, its ranges are zero and released. -/
def State.scrubbed (p : Nat) : State :=
  (((((s.secPart p).ranges.foldl State.zeroRange s).setSec p (fun y => { session := y.session })).setSeal p 0).put secU
    (Reg.sec.partRanges.at p) 0).put secU (Reg.sec.partChunksDone.at p) 0

theorem State.scrubbed_byte (p a : Nat) : (s.scrubbed p).byte a = ((s.secPart p).ranges.foldl State.zeroRange s).byte a := by
  rw [State.scrubbed, State.put_byte, State.put_byte, State.setSeal, State.put_byte]
  rfl

theorem State.scrubbed_secPart (p : Nat) : (s.scrubbed p).secPart p = { session := (s.secPart p).session } := by
  rw [State.scrubbed, State.put_secPart, State.put_secPart, State.setSeal, State.put_secPart, State.setSec_secPart_same,
    State.secPart_of_sec (State.zeroRanges_onlyZeroes s _).sec]

theorem State.scrubbed_sealState {p : Nat} (hp : p < 8) : (s.scrubbed p).sealState p = 0 := by
  rw [State.scrubbed, State.putChunksDone_sealState hp, State.put_sealState hp (by decide)]
  exact State.setSeal_sealState (by decide)

theorem State.drawMemoryKeys_mem (full : Bool) (p : Nat) : (s.drawMemoryKeys full p).mem = s.mem := State.put_mem ..

theorem State.drawMemoryKeys_sec (full : Bool) (p : Nat) : (s.drawMemoryKeys full p).sec = s.sec := State.put_sec ..

theorem State.drawMemoryKeys_sealState (full : Bool) {p : Nat} (hp : p < 8) : (s.drawMemoryKeys full p).sealState p = s.sealState p :=
  (State.get_of_regs (s := s.put secU (Reg.sec.partKeyGen.at p) (s.get secU (Reg.sec.partKeyGen.at p) + 1)) (by rfl) _ _).trans
    (State.put_sealState hp (by decide) _)

theorem execScrubComplete_done {s : State} {p : Nat} (hp : p < 8) (hs : s.sealState p = 3)
    (ht : (s.secPart p).unsealing = true → s.trngBad = false) : exec (.scrubComplete p) s =
      .next (if (s.secPart p).unsealing then (s.scrubbed p).drawMemoryKeys false p else s.scrubbed p) := by
  refine congrArg Host.Outcome.next ((if_neg (by simp [hp, hs])).trans (if_neg ?_))
  cases h : (s.secPart p).unsealing
  · simp
  · simp [ht h]

/-- A finished scrub. -/
theorem execScrubComplete_opens {s : State} {p : Nat} (hp : p < 8) (hs : s.sealState p = 3)
    (ht : (s.secPart p).unsealing = true → s.trngBad = false) : ∃ t, exec (.scrubComplete p) s = .next t ∧ t.sealState p = 0 ∧
      (t.secPart p).ranges = [] ∧ (t.secPart p).session = (s.secPart p).session ∧
      ∀ r ∈ (s.secPart p).ranges, ∀ a, r.1 ≤ a → a < r.1 + r.2 → t.byte a = 0 := by
  refine ⟨_, execScrubComplete_done hp hs ht, ?_⟩
  have zero : ∀ r ∈ (s.secPart p).ranges, ∀ a, r.1 ≤ a → a < r.1 + r.2 → (s.scrubbed p).byte a = 0 := fun r hr a h1 h2 =>
    (State.scrubbed_byte s p a).trans (State.zeroRanges_zero s hr h1 h2)
  have part := State.scrubbed_secPart s p
  have opened := State.scrubbed_sealState s hp
  split
  · have drawn := (State.secPart_of_sec (State.drawMemoryKeys_sec (s.scrubbed p) false p) p).trans part
    refine ⟨(State.drawMemoryKeys_sealState _ false hp).trans opened, by rw [drawn], by rw [drawn], ?_⟩
    intro r hr a h1 h2
    rw [State.byte, State.drawMemoryKeys_mem]
    exact zero r hr a h1 h2
  · exact ⟨opened, by rw [part], by rw [part], zero⟩

/-! ## The random generator (R566) -/

section
variable {s}

theorem State.debugChallenge_draws (h : s.trngBad = false) : s.debugChallenge = s.drawChallenge := if_neg (by simp [h])

theorem State.debugChallenge_waits (h : s.trngBad = true) : s.debugChallenge =
    { s.put secU Reg.sec.mboxBusy 1 with secMod := { s.secMod with job := some (8, 0, 0, 0) } } := if_pos h

theorem execTrngHealthTest_fails (h : s.trngBad = false) : exec (.trngHealthTest true) s =
    .next (((({ s with trngBad := true } : State).count s.mccHolder 4 1).irq s.mccHolder (2 ^ 17))) :=
  congrArg Host.Outcome.next (if_neg (show ¬ s.trngBad = true by simp [h]))

/-- The random generator works again. -/
def State.trngBack (s : State) : State := { s with trngBad := false, secMod := { s.secMod with job := none } }

theorem execTrngHealthTest_session {p a b : Nat} (h : s.secMod.job = some (1, p, a, b)) :
    exec (.trngHealthTest false) s = .next (s.trngBack.drawSession p) := by
  change execTrngHealthTest false s = _
  rw [execTrngHealthTest, h] <;> rfl

theorem execTrngHealthTest_challenge {p a b : Nat} (h : s.secMod.job = some (8, p, a, b)) :
    exec (.trngHealthTest false) s = .next s.trngBack.drawChallenge := by
  change execTrngHealthTest false s = _
  rw [execTrngHealthTest, h] <;> rfl

theorem State.trngBack_idle (h : s.secMod.job = none) : s.trngBack = { s with trngBad := false } := by
  rw [State.trngBack, ← h]

theorem execTrngHealthTest_idle (h : s.secMod.job = none) : exec (.trngHealthTest false) s = .next { s with trngBad := false } := by
  rw [← State.trngBack_idle h]
  change execTrngHealthTest false s = _
  rw [execTrngHealthTest, h] <;> rfl

end

end

/-- The sessions of a partition. -/
theorem mailboxSessions {s : State} (src : Src) {p : Nat} (hp : p < 8) :
    (∀ t, s.mboxTake src 1 p 0 0 = some t →
      (t.sealState p = 0 ∨ t.sealState p = 2 → t.trngBad = false → ∃ t', exec (.sessionOpen src p) s = .next t' ∧
        t'.get secU (Reg.sec.partSession.at p) = 1 ∧ t'.get secU Reg.sec.mboxResult = 0 ∧ t'.get secU Reg.sec.mboxOut0 ≠ 0 ∧
        (t'.secPart p).session = some (t'.get secU Reg.sec.mboxOut0, s.freeIdx + 1)) ∧
      (t.sealState p = 0 ∨ t.sealState p = 2 → t.trngBad = true → exec (.sessionOpen src p) s =
        .next { t.put secU Reg.sec.mboxBusy 1 with secMod := { t.secMod with job := some (1, p, 0, 0) } }) ∧
      (t.sealState p = 1 ∨ t.sealState p = 3 → exec (.sessionOpen src p) s = .next (t.mboxEnd 2 0))) ∧
    (∀ t, s.mboxTake src 2 p 0 0 = some t → t.sealState p ≠ 1 → ∃ t', exec (.sessionClose src p) s = .next t' ∧
      (t'.secPart p).session = none ∧ t'.get secU (Reg.sec.partSession.at p) = 0 ∧ t'.get secU Reg.sec.mboxResult = 0) := by
  refine ⟨fun t taken => ?_, fun t taken hs => ?_⟩
  · have run : exec (.sessionOpen src p) s = .next (t.sessionOpen p) :=
      congrArg Host.Outcome.next (State.mboxRun_taken taken hp (fun t => t.sessionOpen p))
    rw [run, ← (State.mboxTake_onlySignals taken).freeIdx]
    refine ⟨fun h ht => ⟨_, rfl, ?_⟩, fun h ht => by rw [State.sessionOpen_waits h ht], fun h => by rw [State.sessionOpen_closed h]⟩
    rw [State.sessionOpen_draws h ht]
    exact t.drawSession_opens hp
  · refine ⟨_, congrArg Host.Outcome.next (State.mboxRun_taken taken hp (fun t => t.sessionClose p)), ?_⟩
    rw [State.sessionClose_open hs, State.mboxEnd_secPart, State.mboxEnd_session hp]
    exact ⟨t.endSession_session p, t.endSession_shown p, State.mboxEnd_result ..⟩

/-- Settles O40, command by command: a partition's sessions, its import, its unsealing and scrub, the challenge; then the random generator's test. -/
theorem mailboxCommandsRun : Obligations.MailboxCommandsRun := by
  refine ⟨fun s src p hp => ?_, fun s => ⟨execTrngHealthTest_fails, fun h => congrArg _ (if_pos h), execTrngHealthTest_idle,
    fun p a b h => execTrngHealthTest_session h, fun p a b h => execTrngHealthTest_challenge h⟩⟩
  obtain ⟨opens, closes⟩ := mailboxSessions (s := s) src hp
  refine ⟨opens, closes, fun wrap bundle t taken => ?_, fun list count t taken hs hk h1 h2 ha => ?_, fun t taken hs hk => ?_, fun t taken hs => ?_,
    fun t taken => ?_, execScrubComplete_opens hp, fun t taken => ?_⟩
  · have only := State.mboxTake_onlySignals taken
    obtain ⟨mem, ended⟩ := State.importBegin_imports (s := t) hp wrap bundle
    exact ⟨_, congrArg Host.Outcome.next (State.mboxRun_taken taken hp (fun t => t.importBegin p wrap bundle)), mem.trans only.mem,
      ended.imp id fun ⟨result, sealed, state⟩ => ⟨result, sealed.trans only.sec, state⟩⟩
  · exact congrArg Host.Outcome.next ((State.mboxRun_taken taken hp (fun t => t.importRun p list count)).trans
      (State.importRun_runs hs hk h1 h2 ha))
  · have run : exec (.importEnd src p) s = .next (t.importEnd p) :=
      congrArg Host.Outcome.next (State.mboxRun_taken taken hp (fun t => t.importEnd p))
    rw [run]
    refine ⟨fun h => ⟨_, rfl, ?_⟩, fun h => by rw [State.importEnd_short hs hk h]⟩
    rw [State.importEnd_seals hs hk h, State.mboxEnd_sealState hp, State.mboxEnd_secPart, State.importSealed_secPart]
    exact ⟨State.importSealed_sealState hp, rfl, rfl, State.mboxEnd_result ..⟩
  · exact congrArg Host.Outcome.next ((State.mboxRun_taken taken hp (fun t => t.importAbort p)).trans (if_neg (by simp [hs])))
  · have run : exec (.unsealCmd src p) s = .next (t.unseal p) := congrArg Host.Outcome.next (State.mboxRun_taken taken hp (fun t => t.unseal p))
    rw [run]
    exact ⟨fun h => congrArg _ (if_neg (by simp [h])), fun h => congrArg _ (if_pos h)⟩
  · have run : exec (.debugChallenge src p) s = .next t.debugChallenge :=
      congrArg Host.Outcome.next (State.mboxRun_taken taken hp State.debugChallenge)
    rw [run]
    exact ⟨fun h => by rw [State.debugChallenge_draws h], fun h => by rw [State.debugChallenge_waits h]⟩

end Sys2Proof.Machine
end

section
/-!
SUPPORT. The stages of a start: what each of them hands on to the next, and what else moves a start (R540, R552 to R555), and O46.
-/
namespace Sys2Proof.Machine

/-! ## A stage begins, and ends -/

section
variable (s : State)

/-- A stage that begins shows its number. -/
theorem State.stageBegins_shows {n : Nat} (hn : n < 16) : (s.stageBegins n).get bootU Reg.boot.stateStage = n := by
  unfold State.stageBegins
  extract_lets s1
  have shown : s1.get bootU Reg.boot.stateStage = n := by
    rw [State.setSys_get, State.get_put_same]
    exact Nat.mod_eq_of_lt hn
  split
  · refine (foldl_keeps_value (fun t : State => t.get bootU Reg.boot.stateStage) ?_ s1).trans shown
    intro t i _
    split
    · exact State.get_put_page t _ _ _ _ _ (ne_of_gt (Nat.lt_of_lt_of_le (by decide) (memoryBlock_home (.inr rfl) _))) (by decide) (by decide)
    · rfl
  · exact shown

theorem State.nextStage_shows (full : Bool) {n : Nat} (hn : n < 15) (retired dur : Nat) :
    (s.nextStage full n retired dur).get bootU Reg.boot.stateStage = if !full ∧ n = 8 then 10 else n + 1 :=
  State.stageBegins_shows _ (by split <;> omega)

/-- The record of a stage changes the report alone. -/
theorem State.stageRecord_report (result reason detail dur : Nat) : ∃ f, (∀ x : SysRec, (f x).image = x.image) ∧
    s.stageRecord result reason detail dur = s.setSys f := by
  unfold State.stageRecord
  split
  · exact ⟨fun x => x, fun _ => rfl, rfl⟩
  · refine ⟨_, ?_, rfl⟩
    exact fun _ => rfl

/-- Every stage but the third ends with its record and the next one's number. -/
theorem State.nextStage_eq {full : Bool} {n : Nat} (hn : n ≠ 3) (retired dur : Nat) : ∃ f k g,
    (∀ x : SysRec, (f x).image = x.image ∧ (g x).image = x.image) ∧
    s.nextStage full n retired dur = ((s.setSys f).put bootU Reg.boot.stateStage k).setSys g := by
  obtain ⟨f, image, record⟩ := s.stageRecord_report (if retired = 0 then 0 else 1) 0 retired dur
  refine ⟨f, _, _, ?_, (congrArg (State.stageBegins · _) record).trans (State.stageBegins_shown _ (by split <;> omega))⟩
  exact fun x => ⟨image x, rfl⟩

theorem State.nextStage_mem {full : Bool} {n : Nat} (hn : n ≠ 3) (retired dur : Nat) : (s.nextStage full n retired dur).mem = s.mem := by
  obtain ⟨f, k, g, -, eq⟩ := s.nextStage_eq (full := full) hn retired dur
  rw [eq, State.setSys_mem, State.put_mem, State.setSys_mem]

theorem State.nextStage_counts {full : Bool} {n : Nat} (hn : n ≠ 3) (retired dur : Nat) : (s.nextStage full n retired dur).counts = s.counts := by
  obtain ⟨f, k, g, -, eq⟩ := s.nextStage_eq (full := full) hn retired dur
  rw [eq, State.setSys_counts, State.put_counts, State.setSys_counts]

theorem State.nextStage_image {full : Bool} {n : Nat} (hn : n ≠ 3) (retired dur : Nat) :
    (s.nextStage full n retired dur).sys.image = s.sys.image := by
  obtain ⟨f, k, g, image, eq⟩ := s.nextStage_eq (full := full) hn retired dur
  rw [eq, State.setSys_sys, State.put_sys, State.setSys_sys]
  exact (image _).2.trans (image _).1

/-! ## Which units a stage may use (R540, R572) -/

/-- From s to t the units that take part are the same. -/
def State.SameHealth (s t : State) : Prop := ∀ u, u.valid = true → t.healthy u = s.healthy u

theorem State.SameHealth.refl : s.SameHealth s := fun _ _ => rfl

variable {s} in
theorem State.SameHealth.trans {t v : State} (h : s.SameHealth t) (k : t.SameHealth v) : s.SameHealth v := fun u hu => (k u hu).trans (h u hu)

variable {s} in
theorem State.SameHealth.of_retired {t : State} (h : ∀ u, u.valid = true → t.get u Reg.common.retired = s.get u Reg.common.retired)
    (hs : t.sys.excluded = s.sys.excluded) : s.SameHealth t := fun u hu => by
  rw [State.healthy, State.healthy, State.flag, State.flag, h u hu, hs]

variable {s} in
theorem State.SameHealth.of_regs {t : State} (h : t.regs = s.regs) (hs : t.sys.excluded = s.sys.excluded) : s.SameHealth t :=
  .of_retired (fun _ _ => State.get_of_regs h _ _) hs

theorem State.put_sameHealth (u : UnitId) {f : Field} (ha : fieldsApart f Reg.common.retired = true) (hf : fieldWithin f = true) (v : Nat) :
    s.SameHealth (s.put u f v) :=
  .of_retired (fun _ _ => State.get_put_apart s _ _ _ _ _ ha hf (by decide)) (congrArg SysRec.excluded (State.put_sys ..))

theorem State.putAon_sameHealth {f : Field} (ha : fieldsApart f Reg.common.retired = true) (hf : fieldWithin f = true) (v : Nat) :
    s.SameHealth (s.putAon f v) := (State.put_sameHealth s ⟨.aon, 0⟩ ha hf v).trans (State.put_sameHealth _ ⟨.aon, 1⟩ ha hf v)

theorem State.count_sameHealth (u : UnitId) (k n : Nat) : s.SameHealth (s.count u k n) :=
  .of_retired (fun _ hu => (State.count_reports s u k n).get hu (by decide)) (congrArg SysRec.excluded (State.count_sys ..))

theorem State.foldl_sameHealth {α : Type} {f : State → α → State} (hf : ∀ (t : State) (a : α), t.SameHealth (f t a)) (l : List α) (s : State) :
    s.SameHealth (l.foldl f s) := List.foldlRecOn (motive := s.SameHealth) l f (.refl s) (fun t h a _ => h.trans (hf t a))

/-- A die is as well served as before. -/
theorem State.SameHealth.short {t : State} (h : s.SameHealth t) (b : Blk) (need : Nat) : t.short b need = s.short b need := by
  have die (d : Nat) : t.healthyOn b d = s.healthyOn b d := by
    unfold State.healthyOn
    refine congrArg List.length (List.filter_congr fun i hi => ?_)
    rw [h ⟨b, i⟩ (decide_eq_true (List.mem_range.mp hi))]
  simp only [State.short, die]

/-- A stage's tests that no unit fails. -/
theorem State.runTests_passed (full : Bool) (stage : Nat) : s.SameHealth (s.runTests full stage []).1 ∧ (s.runTests full stage []).2 = 0 := by
  refine ⟨?_, rfl⟩
  have begun : s.SameHealth (s.setSys (fun x => { x with suspectNow := [] })) := .of_regs rfl rfl
  cases full with
  | false => exact begun
  | true =>
    change s.SameHealth (State.putAon _ Reg.aon.suspectCount _)
    refine State.SameHealth.trans (begun.trans ?_) (State.putAon_sameHealth _ (f := Reg.aon.suspectCount) (by decide) (by decide) _)
    exact .of_regs rfl rfl

/-- The devices of stage 4 show their training. -/
def State.trainingShown : State :=
  (List.range 68).foldl (fun t i => t.put ⟨.mem, i⟩ Reg.mem.trainState (if t.healthy ⟨.mem, i⟩ then 2 else 3)) s

theorem State.trainingShown_sameHealth : s.SameHealth s.trainingShown :=
  State.foldl_sameHealth (fun t i => State.put_sameHealth t ⟨.mem, i⟩ (f := Reg.mem.trainState) (by decide) (by decide) _) _ s

theorem State.cleanLine_regs (line : Nat) : (s.cleanLine line).regs = s.regs ∧ (s.cleanLine line).sys = s.sys := by
  unfold State.cleanLine
  dsimp only
  split
  · exact ⟨rfl, rfl⟩
  · split <;> exact ⟨rfl, rfl⟩

theorem State.cleanRun_sameHealth (a n : Nat) : s.SameHealth (s.cleanRun a n) := by
  unfold State.cleanRun
  split
  · exact .of_regs rfl rfl
  · exact State.foldl_sameHealth (fun t l => .of_regs (t.cleanLine_regs l).1 (congrArg SysRec.excluded (t.cleanLine_regs l).2)) _ s

theorem State.zeroTable_sameHealth (a n : Nat) : s.SameHealth (s.zeroTable a n) := by
  have zeroed : (s.cleanRun a n).SameHealth ((s.zeroRun a n).breakReservations a n) := .of_regs rfl rfl
  refine ((State.cleanRun_sameHealth s a n).trans zeroed).trans ?_
  unfold State.zeroTable State.tallyMaint
  extract_lets hs
  exact State.foldl_sameHealth (fun t u => (State.count_sameHealth t u 5 _).trans (State.count_sameHealth _ u 7 _)) _ _

/-- The Table after stage 5: empty in a full start, and zeros where the boot uses it in a restart. -/
def State.tableReady (full : Bool) : State :=
  if full then { s with
    mem := s.mem.filter (fun c => decide (c.1 / 2 ^ 48 ≠ 1)), poison := s.poison.filter (fun l => decide (l * 256 / 2 ^ 48 ≠ 1)) }
  else { (s.zeroTable (key 1 0xF80_0000) 0x80_0000).zeroTable (key 1 0x1F80_0000) 0x80_0000 with
    memHeld := false, cache := { s.cache with lines := [] } }

theorem State.tableReady_sameHealth (full : Bool) : s.SameHealth (s.tableReady full) := by
  unfold State.tableReady
  split
  · exact .of_regs rfl rfl
  · refine ((State.zeroTable_sameHealth s (key 1 0xF80_0000) 0x80_0000).trans (State.zeroTable_sameHealth _ (key 1 0x1F80_0000) 0x80_0000)).trans ?_
    exact .of_regs rfl rfl

end

/-! ## What STAGE_COMPLETE does (R540, R543, R555) -/

section
variable {s : State} {st : StartRec} {ev : StageEv}

theorem execStageComplete_idle (h : s.sys.start = none) : exec (.stageComplete ev) s = .next s := by
  change execStageComplete ev s = _
  rw [execStageComplete, h]

/-- The stage's end in a start: it waits, the start fails, or the stage ends. -/
def State.stageOver (s : State) (st : StartRec) (ev : StageEv) : State :=
  if s.get bootU Reg.boot.stateStage = 3 ∧ (s.cmpHeld ∨ !s.sys.refclk) then s
  else if s.txn.isSome ∧ (s.get bootU Reg.boot.stateStage = 10 ∨ s.get bootU Reg.boot.stateStage = 8 ∧ st.full) then s
  else
    match ev.fatal with
    | some r => s.startFailed r ev.detail ev.dur
    | none => s.stageEnds st ev

theorem execStageComplete_over (h : s.sys.start = some st) : exec (.stageComplete ev) s = .next (s.stageOver st ev) := by
  change execStageComplete ev s = _
  rw [execStageComplete, h] <;> rfl

theorem State.stageOver_waits (h : s.get bootU Reg.boot.stateStage = 3) (hw : s.cmpHeld = true ∨ s.sys.refclk = false) : s.stageOver st ev = s :=
  if_pos ⟨h, by simpa using hw⟩

theorem State.stageOver_commits (h : s.get bootU Reg.boot.stateStage = 10) (ht : s.txn.isSome = true) : s.stageOver st ev = s :=
  (if_neg (by omega)).trans (if_pos ⟨ht, .inl h⟩)

section
variable (ht : s.txn = none) (hc : s.cmpHeld = false) (hr : s.sys.refclk = true)
include ht hc hr

theorem State.stageOver_fatal {r : Nat} (hf : ev.fatal = some r) : s.stageOver st ev = s.startFailed r ev.detail ev.dur := by
  rw [State.stageOver, if_neg (by simp [hc, hr]), if_neg (by simp [ht]), hf]

theorem State.stageOver_ends (hf : ev.fatal = none) : s.stageOver st ev = s.stageEnds st ev := by
  rw [State.stageOver, if_neg (by simp [hc, hr]), if_neg (by simp [ht]), hf]

end

theorem State.stageEnds_seven (h : s.get bootU Reg.boot.stateStage = 7) : s.stageEnds st ev = s.nextStage st.full 7 st.retired ev.dur := by
  rw [State.stageEnds, h] <;> rfl

theorem State.stageEnds_nine (h : s.get bootU Reg.boot.stateStage = 9) : s.stageEnds st ev = s.nextStage st.full 9 0 ev.dur := by
  rw [State.stageEnds, h] <;> rfl

/-- The image of a start that passes its checks. -/
def State.imageTaken (s : State) (img : ImageFacts) : State := s.setSys (fun x => { x with image := img, cur := { x.cur with imageId := img.id } })

theorem State.stageEnds_one (h : s.get bootU Reg.boot.stateStage = 1) : s.stageEnds st ev =
    if s.sys.slotBad then s.startFailed 0x0101 ev.detail ev.dur
    else if (List.range 3).any (fun i => decide ((s.sys.slot.getD ev.image).svns.getD i 0 < s.minSvn i)) then
      s.startFailed 0x0104 ev.detail ev.dur
    else (s.imageTaken (s.sys.slot.getD ev.image)).deriveAlias1.nextStage st.full 1 0 ev.dur := by
  rw [State.stageEnds, h] <;> rfl

theorem State.stageEnds_two (h : s.get bootU Reg.boot.stateStage = 2) : ∃ v : State, s.stageEnds st ev = v.nextStage st.full 2 0 ev.dur := by
  rw [State.stageEnds, h]
  exact ⟨_, rfl⟩

theorem State.stageEnds_three (h : s.get bootU Reg.boot.stateStage = 3) : ∃ v : State, s.stageEnds st ev = v.nextStage st.full 3 0 ev.dur := by
  rw [State.stageEnds, h]
  exact ⟨_, rfl⟩

theorem State.stageEnds_four (h : s.get bootU Reg.boot.stateStage = 4) : s.stageEnds st ev =
    if (s.runTests st.full 4 ev.failed).1.trainingShown.short .mem 32 then
      (s.runTests st.full 4 ev.failed).1.trainingShown.startFailed 0x0301 (s.runTests st.full 4 ev.failed).2 ev.dur
    else (s.runTests st.full 4 ev.failed).1.trainingShown.nextStage st.full 4 (s.runTests st.full 4 ev.failed).2 ev.dur := by
  rw [State.stageEnds, h] <;> rfl

theorem State.stageEnds_five (h : s.get bootU Reg.boot.stateStage = 5) : ∃ v, (s.runTests st.full 5 ev.failed).1.SameHealth v ∧ s.stageEnds st ev =
    if v.short .tbl 512 then v.startFailed 0x0302 (s.runTests st.full 5 ev.failed).2 ev.dur
    else v.nextStage st.full 5 (s.runTests st.full 5 ev.failed).2 ev.dur := by
  refine ⟨_, State.tableReady_sameHealth _ st.full, ?_⟩
  rw [State.stageEnds, h] <;> rfl

theorem State.stageEnds_six (h : s.get bootU Reg.boot.stateStage = 6) : ∃ (v : State) (retired : Nat),
    s.stageEnds st ev = (v.nextStage st.full 6 retired ev.dur).beginWave := by
  rw [State.stageEnds, h]
  exact ⟨_, _, rfl⟩

theorem State.stageEnds_eight (h : s.get bootU Reg.boot.stateStage = 8) : s.stageEnds st ev =
    if !st.full then s.nextStage false 8 0 ev.dur
    else if s.trngBad then s
    else s.configure ev.dur (fun t => (t.nextStage true 8 0 ev.dur).portsUp) := by
  rw [State.stageEnds, h] <;> rfl

/-- The wave has a core that is not ready. -/
theorem State.waveUnready_some (h : s.sys.wave.all (fun c => c.ready) = false) : ∃ c, s.waveUnready = some c := by
  refine Option.ne_none_iff_exists'.mp fun none => ?_
  have ready : s.sys.wave.all (fun c => c.ready) = true := List.all_eq_true.mpr fun c hc => by
    simpa using List.find?_eq_none.mp none c hc
  exact Bool.false_ne_true (h.symm.trans ready)

/-- The wave's start, or its first try that fails validation at a core (R554). -/
def State.waveOver (s : State) (st : StartRec) (dur : Nat) : State :=
  match s.waveUnready with
  | none => s.waveStart st dur
  | some c =>
    if st.waveTried then (s.mccAbort 5 12 c.unit.page).startFailed 0x0403 0 dur
    else (s.mccAbort 5 12 c.unit.page).setSys (fun x => { x with start := some { st with waveTried := true } })

theorem State.stageEnds_ten (h : s.get bootU Reg.boot.stateStage = 10) : s.stageEnds st ev = s.waveOver st ev.dur := by
  rw [State.stageEnds, h] <;> rfl

theorem State.waveOver_ready (hw : s.sys.wave.all (fun c => c.ready) = true) (dur : Nat) : s.waveOver st dur = s.waveStart st dur := by
  have none : s.waveUnready = none := List.find?_eq_none.mpr fun c hc => by simpa using List.all_eq_true.mp hw c hc
  rw [State.waveOver, none]

theorem State.waveOver_unready (hw : s.sys.wave.all (fun c => c.ready) = false) (ht : st.waveTried = false) (dur : Nat) :
    ∃ page, s.waveOver st dur = (s.mccAbort 5 12 page).setSys (fun x => { x with start := some { st with waveTried := true } }) := by
  obtain ⟨c, unready⟩ := State.waveUnready_some hw
  refine ⟨c.unit.page, ?_⟩
  rw [State.waveOver, unready]
  exact if_neg (by simp [ht])

end

/-- A transaction that the MCC aborts shows its reason. -/
theorem State.mccAbort_reason (s : State) (kind page : Nat) {reason : Nat} (hr : reason < 256) :
    (s.mccAbort kind reason page).get ctuU Reg.ctu.txnReason = reason := by
  rw [State.mccAbort, State.irq_get (by decide) (by decide), State.count_get (by decide) (by decide), State.count_get (by decide) (by decide),
    (State.txnSet_result ..).2]
  exact Nat.mod_eq_of_lt hr

theorem State.deriveAlias1_image (s : State) : s.deriveAlias1.sys.image = s.sys.image := rfl

/-- Stages 1 to 3: the image, the firmware and the clocks. -/
theorem State.stageEnds_early (s : State) (st : StartRec) (ev : StageEv) :
    (s.get bootU Reg.boot.stateStage = 1 → s.sys.slotBad = false →
      (∀ i, i < 3 → s.minSvn i ≤ (s.sys.slot.getD ev.image).svns.getD i 0) →
      (s.stageEnds st ev).get bootU Reg.boot.stateStage = 2 ∧ (s.stageEnds st ev).sys.image = s.sys.slot.getD ev.image) ∧
    (s.get bootU Reg.boot.stateStage = 1 → s.sys.slotBad = false →
      (∃ i, i < 3 ∧ (s.sys.slot.getD ev.image).svns.getD i 0 < s.minSvn i) →
      s.stageEnds st ev = s.startFailed 0x0104 ev.detail ev.dur) ∧
    (s.get bootU Reg.boot.stateStage = 2 → (s.stageEnds st ev).get bootU Reg.boot.stateStage = 3) ∧
    (s.get bootU Reg.boot.stateStage = 3 → (s.stageEnds st ev).get bootU Reg.boot.stateStage = 4) := by
  refine ⟨fun h hs new => ?_, fun h hs old => ?_, fun h => ?_, fun h => ?_⟩
  · have fresh : ¬(List.range 3).any (fun i => decide ((s.sys.slot.getD ev.image).svns.getD i 0 < s.minSvn i)) = true := by
      simpa [List.any_eq_true] using new
    rw [State.stageEnds_one h, if_neg (by simp [hs]), if_neg fresh, State.nextStage_shows _ _ (by decide), State.nextStage_image _ (by decide)]
    exact ⟨if_neg (by simp), State.deriveAlias1_image _⟩
  · rw [State.stageEnds_one h, if_neg (by simp [hs])]
    refine if_pos ?_
    simpa [List.any_eq_true] using old
  · obtain ⟨v, ends⟩ := State.stageEnds_two (st := st) (ev := ev) h
    rw [ends, State.nextStage_shows _ _ (by decide)]
    exact if_neg (by simp)
  · obtain ⟨v, ends⟩ := State.stageEnds_three (st := st) (ev := ev) h
    rw [ends, State.nextStage_shows _ _ (by decide)]
    exact if_neg (by simp)

/-- Stages 4 to 6: the tests. -/
theorem State.stageEnds_tests (s : State) (st : StartRec) (ev : StageEv) :
    (s.get bootU Reg.boot.stateStage = 4 → ev.failed = [] → s.short .mem 32 = false → (s.stageEnds st ev).get bootU Reg.boot.stateStage = 5) ∧
    (s.get bootU Reg.boot.stateStage = 5 → ev.failed = [] → s.short .tbl 512 = false → (s.stageEnds st ev).get bootU Reg.boot.stateStage = 6) ∧
    (s.get bootU Reg.boot.stateStage = 6 → (s.stageEnds st ev).get bootU Reg.boot.stateStage = 7) := by
  refine ⟨fun h hf served => ?_, fun h hf served => ?_, fun h => ?_⟩
  · have health := (s.runTests_passed st.full 4).1.trans (State.trainingShown_sameHealth _)
    rw [State.stageEnds_four h, hf, if_neg (by simp [health.short, served]), State.nextStage_shows _ _ (by decide)]
    exact if_neg (by simp)
  · obtain ⟨v, ready, ends⟩ := State.stageEnds_five (st := st) (ev := ev) h
    rw [hf] at ready
    have health := (s.runTests_passed st.full 5).1.trans ready
    rw [ends, if_neg (by simp [health.short, served]), State.nextStage_shows _ _ (by decide)]
    exact if_neg (by simp)
  · obtain ⟨v, retired, ends⟩ := State.stageEnds_six (st := st) (ev := ev) h
    rw [ends, State.beginWave, State.count_get (by decide) (by decide), State.setSys_get, State.nextStage_shows _ _ (by decide)]
    exact if_neg (by simp)

/-! ## The wave (R552, R553) -/

section
variable {s : State} {c : WaveCore}

theorem execCoreReady_idle {u : UnitId} {ok : Bool} (h : ∀ c ∈ s.sys.wave, c.unit ≠ u ∨ c.missing ≠ [] ∨ c.ready = true) :
    exec (.coreReady u ok) s = .next s := by
  have none : s.sys.wave.find? (fun c => c.unit == u && c.missing.isEmpty && !c.ready) = none := List.find?_eq_none.mpr fun c hc => by
    rcases h c hc with h | h | h <;> simp [h]
  change execCoreReady u ok s = _
  rw [execCoreReady, none]

/-- The wave changed where it holds the core u. -/
def State.putCore (s : State) (u : UnitId) (f : WaveCore → WaveCore) : State :=
  s.setSys (fun x => { x with wave := x.wave.map (fun d => if d.unit = u then f d else d) })

theorem State.putCore_only (h : s.sys.wave = [c]) (f : WaveCore → WaveCore) :
    s.putCore c.unit f = s.setSys (fun x => { x with wave := [f c] }) := by
  have wave : s.sys.wave.map (fun d => if d.unit = c.unit then f d else d) = [f c] := by rw [h, List.map_singleton, if_pos rfl]
  rw [State.putCore, State.setSys, wave, State.setSys]

theorem execCoreReady_loaded (h : s.sys.wave = [c]) (hm : c.missing = []) (hr : c.ready = false) (ok : Bool) :
    exec (.coreReady c.unit ok) s = .next (
      if ok then s.putCore c.unit (fun d => { d with ready := true })
      else if 3 ≤ c.rounds then s.retireCore c.unit
      else (s.count bootU 5 (s.blocksFor c.unit)).putCore c.unit (fun d => { d with missing := List.range (s.blocksFor c.unit) })) := by
  have found : s.sys.wave.find? (fun d => d.unit == c.unit && d.missing.isEmpty && !d.ready) = some c := by
    rw [h]
    exact List.find?_cons_of_pos (by simp [hm, hr])
  change execCoreReady c.unit ok s = _
  rw [execCoreReady, found] <;> rfl

/-- What the first round's misses leave of a core that still loads. -/
def WaveCore.firstRound (misses : List (UnitId × List Nat)) (c : WaveCore) : WaveCore :=
  if c.ready || c.missing.isEmpty then c
  else { c with rounds := 1, missing := (match misses.find? (fun m => m.1 == c.unit) with
    | some m => c.missing.filter (fun b => m.2.contains b)
    | none => []) }

theorem WaveCore.firstRound_rounds (misses : List (UnitId × List Nat)) (h : c.rounds = 0) : (c.firstRound misses).rounds ≤ 1 := by
  unfold WaveCore.firstRound
  split
  · omega
  · exact Nat.le_refl _

/-- The blocks of the cores cs are sent again, by broadcast where many miss one. -/
def State.loadAgain (least : Nat) (cs : List WaveCore) (s : State) : State :=
  ((cs.flatMap (fun c => c.missing)).dedup).foldl (fun t b =>
    if least ≤ (cs.filter (fun c => c.missing.contains b)).length then t.count bootU 4 1
    else t.count bootU 5 (cs.filter (fun c => c.missing.contains b)).length) s

theorem State.loadAgain_onlySignals (least : Nat) (cs : List WaveCore) (s : State) : s.OnlySignals (s.loadAgain least cs) := by
  refine List.foldlRecOn (motive := s.OnlySignals) _ _ rfl (fun t h b _ => h.trans ?_)
  split
  · exact State.count_onlySignals t bootU 4 1
  · exact State.count_onlySignals t bootU 5 _

theorem execBcastRoundEnd_start (h : s.sys.start.isSome = true) (hw : ∀ c ∈ s.sys.wave, c.rounds = 0) (misses : List (UnitId × List Nat)) :
    ∃ t, exec (.bcastRoundEnd misses) s = .next t ∧ t.mem = s.mem ∧ t.sys.wave = s.sys.wave.map (WaveCore.firstRound misses) := by
  have joined : s.joinWave = s := if_pos h
  change ∃ t, execBcastRoundEnd misses s = .next t ∧ _
  unfold execBcastRoundEnd
  extract_lets s0 least upd s1 done left sent
  have still : s0 = s := joined
  have round (c : WaveCore) (hc : c.rounds = 0) : upd c = c.firstRound misses := by
    unfold upd WaveCore.firstRound
    rw [hc] <;> rfl
  have wave : s1.sys.wave = s.sys.wave.map (WaveCore.firstRound misses) :=
    (congrArg (fun t : State => t.sys.wave.map upd) still).trans (List.map_congr_left fun c hc => round c (hw c hc))
  have none : done = [] := List.filter_eq_nil_iff.mpr fun d hd => by
    rw [wave] at hd
    obtain ⟨c, hc, rfl⟩ := List.mem_map.mp hd
    have rounds := WaveCore.firstRound_rounds misses (hw c hc)
    simp only [Bool.and_eq_true, decide_eq_true_eq]
    omega
  have again (t : State) (uc : Bool) : t.OnlySignals (sent t uc) := State.loadAgain_onlySignals least _ t
  have told := (again s1 false).trans (again _ true)
  rw [none]
  exact ⟨_, rfl, told.mem.trans (congrArg State.mem still : s0.mem = s.mem), (congrArg SysRec.wave told.sys).trans wave⟩

end

/-- Settles O46, stage by stage, and then by what the watchdog, the retry, the stable time and the wave's cores do. -/
theorem stagesOfAStartEnd : Obligations.StagesOfAStartEnd := by
  refine ⟨fun s ev => ⟨execStageComplete_idle, fun st hs => ?_⟩, fun s => ?_⟩
  · rw [execStageComplete_over hs]
    refine ⟨fun h hw => by rw [State.stageOver_waits h hw], fun ht h => by rw [State.stageOver_commits h ht], fun ht hc hr =>
      ⟨fun r hf => by rw [State.stageOver_fatal ht hc hr hf], fun hf => ?_⟩⟩
    rw [State.stageOver_ends ht hc hr hf]
    obtain ⟨one, old, two, three⟩ := s.stageEnds_early st ev
    obtain ⟨four, five, six⟩ := s.stageEnds_tests st ev
    refine ⟨fun h => ⟨_, rfl, ?_⟩, fun h => ⟨_, rfl, ?_⟩, fun h hb new => ⟨_, rfl, one h hb new⟩, fun h hb hold => congrArg _ (old h hb hold),
      fun h => ⟨_, rfl, two h⟩, fun h => ⟨_, rfl, three h⟩, fun h hf served => ⟨_, rfl, four h hf served⟩,
      fun h hf served => ⟨_, rfl, five h hf served⟩, fun h => ⟨_, rfl, six h⟩, fun h full bad => ?_, fun h full => ⟨_, rfl, ?_⟩, fun h bad => ?_,
      fun h ready => by rw [State.stageEnds_ten h, State.waveOver_ready ready], fun h unready tried => ?_⟩
    · rw [State.stageEnds_seven h, State.nextStage_shows _ _ (by decide), State.nextStage_mem _ (by decide), State.nextStage_counts _ (by decide)]
      exact ⟨if_neg (by simp), rfl, rfl⟩
    · rw [State.stageEnds_nine h, State.nextStage_shows _ _ (by decide), State.nextStage_mem _ (by decide)]
      exact ⟨if_neg (by simp), rfl⟩
    · rw [State.stageEnds_eight h, if_neg (by simp [full]), if_pos bad]
    · rw [State.stageEnds_eight h, if_pos (by simp [full]), State.nextStage_shows _ _ (by decide), State.nextStage_mem _ (by decide)]
      exact ⟨if_pos (by simp), rfl⟩
    · rw [State.stageEnds_one h, if_pos bad]
    · obtain ⟨page, tries⟩ := State.waveOver_unready unready tried ev.dur
      rw [State.stageEnds_ten h, tries]
      exact ⟨_, rfl, rfl, (State.setSys_get ..).trans (State.mccAbort_reason s 5 page (by decide))⟩
  · refine ⟨fun h => congrArg _ (if_pos (by simp [h])), fun h hn => congrArg _ (if_neg ?_), fun h => congrArg _ (if_pos h),
      fun h => congrArg _ (if_neg (by simp [h])), fun hm hs ht => ⟨_, congrArg Host.Outcome.next (if_pos ?_), ?_⟩, fun h => congrArg _ (if_neg (by simp [h])),
      fun u c hw hu hm hr => ?_, fun u ok => execCoreReady_idle, fun misses hs hw => execBcastRoundEnd_start hs hw misses⟩
    · rw [Option.isSome_iff_ne_none] at h
      simp [h, hn]
    · simpa [hs, ht] using hm
    · rw [State.setSys_get, State.get_put_same, State.setSys_mem, State.put_mem, State.mode, State.setSys_get,
        State.get_put_apart _ _ _ _ _ _ (by decide) (by decide) (by decide)]
      exact ⟨rfl, rfl, rfl, rfl⟩
    · subst hu
      rw [execCoreReady_loaded hw hm hr, execCoreReady_loaded hw hm hr]
      refine ⟨?_, fun h => ?_, fun h => ?_⟩
      · rw [if_pos rfl, State.putCore_only hw]
      · rw [if_neg Bool.false_ne_true, if_pos h]
      · rw [if_neg Bool.false_ne_true, if_neg (Nat.not_le.mpr h), State.putCore_only ((congrArg SysRec.wave (State.count_sys ..)).trans hw)]

end Sys2Proof.Machine
end
